-- ==== Sys2Proof/Word.lean ====
section
/-! DEFINITION. The word types of the engine: the widths the manual uses for register values, addresses and data. -/
namespace Sys2Proof

/-- A byte of any memory. -/
abbrev Byte := BitVec 8
/-- A scalar register, a gate value, an FP32 bit pattern. -/
abbrev W32 := BitVec 32
/-- A register-page register (R428) and a word of the manual's little-endian structures. -/
abbrev W64 := BitVec 64
/-- A task-relative address (R73): two segment bits over a 46-bit offset. -/
abbrev Addr := BitVec 48

end Sys2Proof
end

