-- ==== Sys2Proof/Syntax.lean ====
section
/-! DEFINITION. The commands the engine takes, one constructor of `Instr` for each row of the table of operations and events,
with the operand types they carry. Fields of crucible instructions keep the widths of R118 to R120. -/
namespace Sys2Proof

/-! ### Names of units and requesters -/

/-- A tile index (R9). -/
abbrev TileIx := Fin 80
/-- A crucible of a tile (R15). -/
abbrev CruIx := Fin 4
/-- A task context of a crucible (R67). -/
abbrev TaskIx := Fin 8
/-- A sluice die index (R12). -/
abbrev DieIx := Fin 8
/-- A mire stack number, engine-wide (R18). -/
abbrev StackIx := Fin 32
/-- An Ethernet port number, engine-wide (R18). -/
abbrev EthIx := Fin 16
/-- A polder number (R22). -/
abbrev PolderIx := Fin 8
/-- A bed number (R239). -/
abbrev BedIx := Fin 256
/-- A stream number (R22). -/
abbrev StreamIx := BitVec 12

/-- The three requesters of register accesses, in the order of R6. -/
inductive Requester where
  | portA | portB | mgmt
  deriving DecidableEq, Repr

/-- The two host ports (R12). -/
inductive HostPort where
  | a | b
  deriving DecidableEq, Repr

/-- The three queue kinds of R394. -/
inductive QKind where
  | sq | cq | tr
  deriving DecidableEq, Repr

/-- The four queued units behind the issue stage (R64). -/
inductive UnitKind where
  | mould | vector | attention | runner
  deriving DecidableEq, Repr

/-- A task context of the engine. -/
structure TaskRef where
  tile : TileIx
  cru  : CruIx
  task : TaskIx
  deriving DecidableEq, Repr

/-- Access sizes of R428; `other` is every size the engine does not accept. -/
inductive AccSize where
  | b32 | b64 | other
  deriving DecidableEq, Repr

/-- A unit of R446: a tile, a sluice die or the device-global block. -/
inductive UnitRef where
  | tile (i : TileIx) | die (d : DieIx) | global
  deriving DecidableEq, Repr

/-- A power domain of R459. -/
inductive DomRef where
  | tile (i : TileIx) (n : Fin 8)
  | die (d : DieIx) (n : Fin 10)
  deriving DecidableEq, Repr

/-- A supply rail that is sampled for its minimum (R464). -/
inductive RailRef where
  | tile (i : TileIx) (r : Fin 3)     -- 0 VLOG, 1 VMEM, 2 VLNK
  | vmif (d : DieIx)
  deriving DecidableEq, Repr

/-- A temperature sensor of R499. -/
inductive SensorRef where
  | tile (i : TileIx) (n : Fin 10)
  | die (d : DieIx) (n : Fin 8)
  | stack (j : StackIx)
  deriving DecidableEq, Repr

/-- A tagged access that waits on a channel slot (R192, R198). -/
inductive Waiter where
  | unit (tile : TileIx) (cru : CruIx) (u : UnitKind)
  | probe (tile : TileIx) (k : Nat)    -- the k-th entry of the tile's probe table
  deriving DecidableEq, Repr

/-- What an ECC check of a word or burst finds (R201, R342). -/
inductive EccResult where
  | clean
  | corrected (syndrome : BitVec 8)
  | uncorrectable
  deriving DecidableEq, Repr

/-- The three SPDM transports (R588) share the requesters' names. -/
abbrev Transport := Requester

/-! ### Packets of the mesh (R316) -/

/-- A packet: the header fields of R316 and its payload, whose length is PLEN. `e2e` is word 3. -/
structure Packet where
  dst     : BitVec 8
  src     : BitVec 8
  vc      : BitVec 2
  set     : BitVec 2
  ord     : Bool
  sys     : Bool
  polder  : BitVec 3
  epoch   : BitVec 4
  tclass  : BitVec 2
  op      : BitVec 8
  gwy     : BitVec 8
  addr    : Addr
  tag     : BitVec 16
  operand : W64
  payload : List Byte
  e2e     : W32
  deriving DecidableEq, Repr

/-- A frame that an Ethernet port of a sluice die receives and that carries a UDP datagram (R373, R375): the port, whether its FCS is
right, the IPv6 source address, the UDP ports and the UDP payload. -/
structure PourFrame where
  port    : Fin 2
  fcsOk   : Bool
  src     : List Byte
  srcPort : BitVec 16
  dstPort : BitVec 16
  data    : List Byte
  deriving DecidableEq, Repr

/-! ### Operand fields of tensor instructions (R119, R120) -/

/-- Parcel 0 of a tensor instruction but for CLASS and OP (R119). -/
structure THdr where
  pred : BitVec 3
  dg   : BitVec 10
  dge  : Bool
  mod  : BitVec 8
  deriving DecidableEq, Repr

/-- CLASS 0x9. -/
structure MatOps where
  dA : BitVec 4
  dB : BitVec 4
  dC : BitVec 4
  dR : BitVec 4
  deriving DecidableEq, Repr

/-- CLASS 0xA. -/
structure VecOps where
  dD : BitVec 4
  dA : BitVec 4
  dB : BitVec 4
  dC : BitVec 4
  dK : BitVec 4
  sB : BitVec 5
  sC : BitVec 5
  bs : Bool
  cs : Bool
  site : BitVec 12
  imm8 : BitVec 8
  deriving DecidableEq, Repr

/-- CLASS 0xB. -/
structure RedOps where
  dD : BitVec 4
  dA : BitVec 4
  dB : BitVec 4
  sE : BitVec 5
  deriving DecidableEq, Repr

/-- CLASS 0xC. -/
structure AttOps where
  dO : BitVec 4
  dQ : BitVec 4
  dX : BitVec 4
  dM : BitVec 4
  dT : BitVec 4
  dP : BitVec 4
  dK : BitVec 4
  sS : BitVec 5
  deriving DecidableEq, Repr

/-- CLASS 0xD. -/
structure RunOps where
  dD : BitVec 4
  dS : BitVec 4
  dI : BitVec 4
  sX : BitVec 5
  rg : BitVec 10
  rge : Bool
  deriving DecidableEq, Repr

/-- CLASS 0xE. -/
structure SentOps where
  dX : BitVec 4
  dK : BitVec 4
  index : BitVec 6
  sD : BitVec 5
  deriving DecidableEq, Repr

/-- CLASS 0xF. -/
structure RhandOps where
  dL : BitVec 4
  dK : BitVec 4
  sV : BitVec 5
  slot : BitVec 7
  part : BitVec 5
  parts : BitVec 5
  deriving DecidableEq, Repr

/-! ### Measurements that come from outside the model (analogue quantities and test results) -/

/-- What the tide loop measures for one step (R472): mean input power in W, and for each active tile its VLOG power in mW and
its VLOG voltage in mV. -/
structure TideMeas where
  inputW : Nat
  tiles  : List (TileIx × Nat × Nat)
  deriving DecidableEq, Repr

/-- The result of verifying one firmware slot (R550): signature good, and the release the image carries. -/
structure FwImage where
  sigOk   : Bool
  release : W32
  deriving DecidableEq, Repr

/-- A PTP event message as the port time-stamps it (R494, R498): the message type, sent or received, and the offset and path
delay that the steering computed from it, when it closes a measurement. -/
structure PtpMsg where
  type   : BitVec 4
  sent   : Bool
  grandmaster : Bool
  offset : Option W64
  path   : Option W32
  deriving DecidableEq, Repr

/-- An event-log record as its source sends it (R581): everything but SEQ. -/
structure LogRec where
  ts    : W64
  cause : BitVec 8
  sev   : BitVec 2
  page  : BitVec 16
  d0    : W64
  d1    : W64
  deriving DecidableEq, Repr

/-! ### The commands -/

/-- One constructor for each row of the table of operations and events. -/
inductive Instr where
  -- task control and issue (chapter 3)
  | taskStart (who : Requester) (t : TaskRef) (v : W64)
  | taskStop (who : Requester) (t : TaskRef) (v : W64)
  | taskReset (who : Requester) (t : TaskRef) (v : W64)
  | drainEnd (t : TaskRef)
  | agePromotion (t : TaskRef)
  | icacheFill (t : TaskRef) (e : EccResult)
  | sbEntryRelease (tile : TileIx) (cru : CruIx) (k : Nat)
  | unitInstrComplete (tile : TileIx) (cru : CruIx) (u : UnitKind) (k : Nat) (e : EccResult) (addr : Addr)
  | unitFault (tile : TileIx) (cru : CruIx) (u : UnitKind) (k : Nat) (code : BitVec 8) (addr : Addr)
  | scalarLoadReturn (t : TaskRef) (e : EccResult)
  -- scalar arithmetic, register operands (R128)
  | add (t : TaskRef) (pred : BitVec 3) (rd rs1 rs2 : BitVec 5)
  | sub (t : TaskRef) (pred : BitVec 3) (rd rs1 rs2 : BitVec 5)
  | and (t : TaskRef) (pred : BitVec 3) (rd rs1 rs2 : BitVec 5)
  | or (t : TaskRef) (pred : BitVec 3) (rd rs1 rs2 : BitVec 5)
  | xor (t : TaskRef) (pred : BitVec 3) (rd rs1 rs2 : BitVec 5)
  | sll (t : TaskRef) (pred : BitVec 3) (rd rs1 rs2 : BitVec 5)
  | srl (t : TaskRef) (pred : BitVec 3) (rd rs1 rs2 : BitVec 5)
  | sra (t : TaskRef) (pred : BitVec 3) (rd rs1 rs2 : BitVec 5)
  | mul (t : TaskRef) (pred : BitVec 3) (rd rs1 rs2 : BitVec 5)
  | mulhu (t : TaskRef) (pred : BitVec 3) (rd rs1 rs2 : BitVec 5)
  | min (t : TaskRef) (pred : BitVec 3) (rd rs1 rs2 : BitVec 5)
  | max (t : TaskRef) (pred : BitVec 3) (rd rs1 rs2 : BitVec 5)
  | minu (t : TaskRef) (pred : BitVec 3) (rd rs1 rs2 : BitVec 5)
  | maxu (t : TaskRef) (pred : BitVec 3) (rd rs1 rs2 : BitVec 5)
  | ceq (t : TaskRef) (pred : BitVec 3) (rd rs1 rs2 : BitVec 5)
  | cne (t : TaskRef) (pred : BitVec 3) (rd rs1 rs2 : BitVec 5)
  | clt (t : TaskRef) (pred : BitVec 3) (rd rs1 rs2 : BitVec 5)
  | cge (t : TaskRef) (pred : BitVec 3) (rd rs1 rs2 : BitVec 5)
  | cltu (t : TaskRef) (pred : BitVec 3) (rd rs1 rs2 : BitVec 5)
  | cgeu (t : TaskRef) (pred : BitVec 3) (rd rs1 rs2 : BitVec 5)
  | pand (t : TaskRef) (pred : BitVec 3) (rd rs1 rs2 : BitVec 5)
  | por (t : TaskRef) (pred : BitVec 3) (rd rs1 rs2 : BitVec 5)
  | pxor (t : TaskRef) (pred : BitVec 3) (rd rs1 rs2 : BitVec 5)
  | pandn (t : TaskRef) (pred : BitVec 3) (rd rs1 rs2 : BitVec 5)
  -- scalar arithmetic, immediate operand (R129)
  | addi (t : TaskRef) (pred : BitVec 3) (rd rs1 : BitVec 5) (imm : BitVec 12)
  | andi (t : TaskRef) (pred : BitVec 3) (rd rs1 : BitVec 5) (imm : BitVec 12)
  | ori (t : TaskRef) (pred : BitVec 3) (rd rs1 : BitVec 5) (imm : BitVec 12)
  | xori (t : TaskRef) (pred : BitVec 3) (rd rs1 : BitVec 5) (imm : BitVec 12)
  | slli (t : TaskRef) (pred : BitVec 3) (rd rs1 : BitVec 5) (imm : BitVec 12)
  | srli (t : TaskRef) (pred : BitVec 3) (rd rs1 : BitVec 5) (imm : BitVec 12)
  | srai (t : TaskRef) (pred : BitVec 3) (rd rs1 : BitVec 5) (imm : BitVec 12)
  | clti (t : TaskRef) (pred : BitVec 3) (rd rs1 : BitVec 5) (imm : BitVec 12)
  | lui (t : TaskRef) (pred : BitVec 3) (rd : BitVec 5) (imm : BitVec 20)
  -- branches (R131)
  | br (t : TaskRef) (pred : BitVec 3) (imm : BitVec 22)
  | jal (t : TaskRef) (pred : BitVec 3) (aD : BitVec 4) (imm : BitVec 18)
  | jr (t : TaskRef) (pred : BitVec 3) (aS : BitVec 4)
  -- scalar loads and stores (R132)
  | scalarLoad (t : TaskRef) (pred : BitVec 3) (sD : BitVec 5) (aA : BitVec 4) (size : BitVec 2) (sx : Bool) (imm : BitVec 12)
  | scalarStore (t : TaskRef) (pred : BitVec 3) (sS : BitVec 5) (aA : BitVec 4) (size : BitVec 2) (sx : Bool) (imm : BitVec 12)
  -- address registers (R133)
  | aadd (t : TaskRef) (pred : BitVec 3) (aD aS : BitVec 4) (sX : BitVec 5)
  | aaddi (t : TaskRef) (pred : BitVec 3) (aD aS : BitVec 4) (imm : BitVec 14)
  | aset (t : TaskRef) (pred : BitVec 3) (aD : BitVec 4) (sLo sHi : BitVec 5)
  | aget (t : TaskRef) (pred : BitVec 3) (aS : BitVec 4) (sD : BitVec 5) (hi : Bool)
  | apc (t : TaskRef) (pred : BitVec 3) (aD : BitVec 4) (imm : BitVec 14)
  -- descriptor set-up (R134)
  | daddr (t : TaskRef) (pred : BitVec 3) (dd aA : BitVec 4) (imm : BitVec 14)
  | dfmt (t : TaskRef) (pred : BitVec 3) (dd : BitVec 4) (fmt : BitVec 8) (tag : BitVec 2)
  | dshape (t : TaskRef) (pred : BitVec 3) (dd : BitVec 4) (sX sY sZ : BitVec 5)
  | dstride (t : TaskRef) (pred : BitVec 3) (dd : BitVec 4) (sX sY sZ : BitVec 5)
  | daux (t : TaskRef) (pred : BitVec 3) (dd aA : BitVec 4)
  | dcopy (t : TaskRef) (pred : BitVec 3) (dd dS : BitVec 4)
  | dstep (t : TaskRef) (pred : BitVec 3) (dd : BitVec 4) (sX : BitVec 5) (which : BitVec 2)
  -- gates (R136, R137)
  | gadd (t : TaskRef) (pred : BitVec 3) (gate : BitVec 10) (sX sD : BitVec 5)
  | gwait (t : TaskRef) (pred : BitVec 3) (gate : BitVec 10) (sX sD : BitVec 5) (tmo : BitVec 2)
  | gwaitSatisfied (t : TaskRef)
  | gateTimeout (t : TaskRef)
  | gswap (t : TaskRef) (pred : BitVec 3) (gate : BitVec 10) (sX sD : BitVec 5)
  | gread (t : TaskRef) (pred : BitVec 3) (gate : BitVec 10) (sX sD : BitVec 5)
  | gradd (t : TaskRef) (pred : BitVec 3) (gate : BitVec 10) (sX sD : BitVec 5)
  | gbadd (t : TaskRef) (pred : BitVec 3) (gate : BitVec 10) (sX sD : BitVec 5)
  -- system (R167)
  | nop (t : TaskRef) (pred : BitVec 3)
  | endTask (t : TaskRef) (pred : BitVec 3)
  | rdflags (t : TaskRef) (pred : BitVec 3) (sD : BitVec 5)
  | clrflags (t : TaskRef) (pred : BitVec 3) (mask : BitVec 5)
  | rdtime (t : TaskRef) (pred : BitVec 3) (sD : BitVec 5) (hi : Bool)
  | rdid (t : TaskRef) (pred : BitVec 3) (sD : BitVec 5)
  | brk (t : TaskRef) (pred : BitVec 3)
  | illegal (t : TaskRef) (parcels : List W32)
  -- tensor instructions (R146 to R166)
  | mmul (t : TaskRef) (h : THdr) (o : MatOps)
  | mmulLift (t : TaskRef) (h : THdr) (o : MatOps)
  | vAdd (t : TaskRef) (h : THdr) (o : VecOps)
  | vSub (t : TaskRef) (h : THdr) (o : VecOps)
  | vMul (t : TaskRef) (h : THdr) (o : VecOps)
  | fma (t : TaskRef) (h : THdr) (o : VecOps)
  | vMax (t : TaskRef) (h : THdr) (o : VecOps)
  | vMin (t : TaskRef) (h : THdr) (o : VecOps)
  | abs (t : TaskRef) (h : THdr) (o : VecOps)
  | neg (t : TaskRef) (h : THdr) (o : VecOps)
  | copysign (t : TaskRef) (h : THdr) (o : VecOps)
  | scale2 (t : TaskRef) (h : THdr) (o : VecOps)
  | recip (t : TaskRef) (h : THdr) (o : VecOps)
  | sqrt (t : TaskRef) (h : THdr) (o : VecOps)
  | rsqrt (t : TaskRef) (h : THdr) (o : VecOps)
  | exp (t : TaskRef) (h : THdr) (o : VecOps)
  | exp2 (t : TaskRef) (h : THdr) (o : VecOps)
  | log2 (t : TaskRef) (h : THdr) (o : VecOps)
  | sigmoid (t : TaskRef) (h : THdr) (o : VecOps)
  | tanh (t : TaskRef) (h : THdr) (o : VecOps)
  | silu (t : TaskRef) (h : THdr) (o : VecOps)
  | geluErf (t : TaskRef) (h : THdr) (o : VecOps)
  | geluTanh (t : TaskRef) (h : THdr) (o : VecOps)
  | cvt (t : TaskRef) (h : THdr) (o : VecOps)
  | rope (t : TaskRef) (h : THdr) (o : VecOps)
  | div (t : TaskRef) (h : THdr) (o : VecOps)
  | rsum (t : TaskRef) (h : THdr) (o : RedOps)
  | rmax (t : TaskRef) (h : THdr) (o : RedOps)
  | rmin (t : TaskRef) (h : THdr) (o : RedOps)
  | rargmax (t : TaskRef) (h : THdr) (o : RedOps)
  | rargmin (t : TaskRef) (h : THdr) (o : RedOps)
  | rms (t : TaskRef) (h : THdr) (o : RedOps)
  | rmsn (t : TaskRef) (h : THdr) (o : RedOps)
  | softmax (t : TaskRef) (h : THdr) (o : RedOps)
  | psum (t : TaskRef) (h : THdr) (o : RedOps)
  | attnRing (t : TaskRef) (h : THdr) (o : AttOps)
  | attnPage (t : TaskRef) (h : THdr) (o : AttOps)
  | kvput (t : TaskRef) (h : THdr) (o : AttOps)
  | kvputEntryReread (tile : TileIx) (cru : CruIx)
  | move (t : TaskRef) (h : THdr) (o : RunOps)
  | fill (t : TaskRef) (h : THdr) (o : RunOps)
  | gather (t : TaskRef) (h : THdr) (o : RunOps)
  | sent (t : TaskRef) (h : THdr) (o : SentOps)
  | rhand (t : TaskRef) (h : THdr) (o : RhandOps)
  -- gates, pool and peat (chapters 4 and 5)
  | gateValWrite (who : Requester) (tile : TileIx) (v : W64)
  | poolZeroingDone (tile : TileIx) (cru : CruIx)
  | peatLayerWake (tile : TileIx) (layer : Fin 4)
  | peatZeroingDone (tile : TileIx) (layer : Fin 4)
  | gbAgeFlush (tile : TileIx) (cru : CruIx) (line : BitVec 25)
  | poolScrub (tile : TileIx) (cru : CruIx) (word : BitVec 22) (e : EccResult)
  | peatScrub (tile : TileIx) (word : BitVec 30) (e : EccResult)
  | scrubStarve (tile : TileIx) (cru : CruIx)
  | maintPortStarve (tile : TileIx)
  | cregEnable (who : Requester) (tile : TileIx) (peat : Bool) (r : Fin 32) (v : W64)
  | cregDisable (who : Requester) (tile : TileIx) (peat : Bool) (r : Fin 32) (v : W64)
  | cslotStateWrite (who : Requester) (tile : TileIx) (peat : Bool) (v : W64)
  | taggedAccessResume (w : Waiter)
  | slotTimeout (w : Waiter)
  -- packets of the mesh (chapter 9)
  | probe (p : Packet)
  | grant (p : Packet)
  | refuse (p : Packet)
  | wr (p : Packet)
  | rd (p : Packet) (e : EccResult)
  | rdData (p : Packet)
  | moveDone (p : Packet)
  | remoteGadd (p : Packet)
  | placeReq (p : Packet)
  | placeOk (p : Packet)
  | wave (p : Packet)
  | hand (p : Packet)
  | mireRd (p : Packet) (e : EccResult) (burst landed : Addr)
  | mireWr (p : Packet)
  | draftReq (p : Packet)
  | draftTree (p : Packet)
  | genUpdate (p : Packet)
  | mgmt (p : Packet)
  | packetHop (tile : TileIx) (inPort : Fin 6) (p : Packet)
  | flitCrcFail (tile : TileIx) (port : Fin 5) (lane : Fin 8)
  | laneRetire (tile : TileIx) (port : Fin 5) (lane : Fin 8)
  -- the mire (chapter 10)
  | pgSpill (who : Requester) (die : DieIx) (v : W64)
  | pgFetch (who : Requester) (die : DieIx) (v : W64)
  | pgDrop (who : Requester) (die : DieIx) (v : W64)
  | pageCommandArrive (die : DieIx)
  | attentionDrainEnd (tile : TileIx) (entry : Nat)
  | spillCopyDone (tile : TileIx) (entry : Nat)
  | fetchCopyDone (tile : TileIx) (entry : Nat)
  | fetchReadRefused (tile : TileIx) (entry : Nat)
  | mireRefresh (stack : StackIx)
  | refreshManagement (stack : StackIx)
  | odeccPoll (stack : StackIx) (n : Nat)
  | mireScrub (stack : StackIx) (g : Nat) (e : EccResult)
  | mireScrubStarve (stack : StackIx)
  | mireReqAge (stack : StackIx) (pc : BitVec 6)
  | stackSupplyFault (stack : StackIx)
  | stackTempRead (stack : StackIx) (value : Option W32)
  -- beds, wavefronts and streams (chapter 7)
  | admission (polder : PolderIx)
  | passOpen (bed : BedIx)
  | passStart (bed : BedIx) (tile : TileIx)
  | passForward (bed : BedIx)
  | tokenWavefrontMove (stream : StreamIx)
  | bedWatchdog (bed : BedIx)
  | poldLoopWrite (who : Requester) (p : PolderIx) (v : W64)
  | strmCancel (who : Requester) (v : W64)
  | streamFree (stream : StreamIx)
  | draftWaitTimeout (stream : StreamIx)
  -- the riddle (chapter 8)
  | riddleSelect (stream : StreamIx) (e : EccResult) (addr : Addr)
  | partTimeout (stream : StreamIx)
  -- castings and pours (chapter 11)
  | castingLoad (who : Requester) (v : W64)
  | loadChecked (readOk : Bool)
  | loadPlaced (readOk : Bool)
  | loadPourComplete
  | extentReq (die : DieIx) (extent : W32)
  | extentData (die : DieIx) (f : PourFrame)
  | extentDrain (die : DieIx) (extent : W32) (e : EccResult) (word : BitVec 23)
  | stagingProbe (die : DieIx) (extent : W32)
  | credit (die : DieIx) (k : Nat)
  | pourStop (who : Requester) (die : DieIx) (v : W64)
  | stopResend (die : DieIx) (k : Nat)
  | pourEnd (die : DieIx) (f : PourFrame)
  | reqSilenceTimeout (die : DieIx) (extent : W32)
  | sessionReopen (die : DieIx) (server : Nat)
  | hello (die : DieIx) (server : Nat) (port : Fin 2)
  | helloAck (die : DieIx) (f : PourFrame)
  | helloRetry (die : DieIx) (k : Nat)
  | sessionRollover (die : DieIx) (k : Nat)
  -- host ports and queues (chapter 12)
  | sqDoorbell (port : HostPort) (q : Fin 64) (v : W64)
  | cqDoorbell (port : HostPort) (q : Fin 64) (v : W64)
  | trDoorbell (port : HostPort) (r : Fin 256) (v : W64)
  | sqFetch (port : HostPort) (q : Fin 64)
  | cmdNop (port : HostPort) (q : Fin 64)
  | bind (port : HostPort) (q : Fin 64)
  | bindingDone (port : HostPort) (q : Fin 64) (dmaOk spaceOk : Bool)
  | cancel (port : HostPort) (q : Fin 64)
  | load (port : HostPort) (q : Fin 64)
  | tokenRecordWrite (port : HostPort) (r : Fin 256)
  | indexBlockWrite (port : HostPort) (kind : QKind) (num : BitVec 8)
  | queueInterrupt (port : HostPort) (kind : QKind) (num : BitVec 8)
  | queueEnable (who : Requester) (port : HostPort) (v : W64)
  | queueDisable (who : Requester) (port : HostPort) (v : W64)
  | portReset (port : HostPort) (cause : BitVec 4)
  | perstDeassert (port : HostPort)
  | pcieLinkTrained (port : HostPort) (rate width : BitVec 8) (flit : Bool)
  | dmaFailure (port : HostPort) (kind : QKind) (num : BitVec 8)
  | semTake (who : Requester) (i : Fin 64) (v : W64)
  | semRelease (who : Requester) (i : Fin 64) (v : W64)
  | semForce (who : Requester) (i : Fin 64) (v : W64)
  | apertureRead (port : HostPort) (off : BitVec 40) (len : BitVec 13)
  | apertureWrite (port : HostPort) (off : BitVec 40) (bs : List Byte)
  | egressDatagram (eth : EthIx) (endpoint : Nat)
  | egressFlushTimeout (eth : EthIx) (endpoint : Nat)
  | ethLinkChange (eth : EthIx) (up : Bool) (rate : BitVec 3)
  -- register pages, guards, the seal and taps (chapter 13)
  | regWrite (who : Requester) (page : BitVec 16) (off : BitVec 12) (size : AccSize) (v : W64)
  | regReadRc (who : Requester) (page : BitVec 16) (off : BitVec 12) (size : AccSize)
  | regReadLowHalf (who : Requester) (page : BitVec 16) (off : BitVec 12)
  | guardKey (who : Requester) (page : BitVec 16) (size : AccSize) (v : W64)
  | guardLapse (page : BitVec 16)
  | mbxSel (who : Requester) (page : BitVec 16) (size : AccSize) (v : W64)
  | cntClr (who : Requester) (page : BitVec 16) (v : W64)
  | regAccessTimeout (who : Requester) (page : BitVec 16) (off : BitVec 12) (write : Bool)
  | sealWalk
  | sealCommit (who : Requester) (v : W64)
  | sealResume (who : Requester) (v : W64)
  | tapGo (who : Requester) (v : W64)
  | tapCancel (who : Requester) (v : W64)
  | tapLatch (u : UnitRef)
  | tapAck (u : UnitRef)
  | timeSet (who : Requester) (v : W64)
  | epochBoundary (errs : List (TileIx × W32))
  | epochWord (tile : TileIx)
  | mgmtBusReset
  -- power and the tide (chapter 14)
  | uvWarn
  | undervoltShutdown (mv : BitVec 16)
  | pwrDomReq (who : Requester) (tile : TileIx) (v : W64)
  | sluiceDomReq (who : Requester) (die : DieIx) (v : W64)
  | rampGrant (dom : DomRef)
  | rampStage (dom : DomRef)
  | domRampSample (dom : DomRef) (ok : Bool)
  | domFail (dom : DomRef)
  | minvRearm (who : Requester) (tile : TileIx) (v : W64)
  | vmifRearm (who : Requester) (die : DieIx) (v : W64)
  | minvSample (rail : RailRef) (mv : BitVec 16)
  | governorStep (tile : TileIx) (avg : Nat)
  | ocpLimit (tile : TileIx)
  | tideSrcWrite (who : Requester) (k : Fin 4) (v : W64)
  | tideLeaseLapse (k : Fin 4)
  | tideRampTick
  | tideLoopStep (m : TideMeas)
  | tideLimUpdate (tile : TileIx) (lim : BitVec 16)
  | tideCompliance (p : Nat)
  -- clocks and time (chapter 15)
  | refLost
  | referenceUsable (src : BitVec 2)
  | parentLost (tile : TileIx)
  | parentChange (tile : TileIx) (port : Fin 5)
  | droopStretchStart (tile : TileIx) (cru : CruIx)
  | droopStretchEnd (tile : TileIx) (cru : CruIx)
  | freqStep (tile : TileIx) (cru : CruIx)
  | generatorSwitch (tile : TileIx) (cru : CruIx)
  | marginLow (tile : TileIx) (cru : CruIx)
  | ptpEventMessage (eth : EthIx) (m : PtpMsg)
  | ptpAnnounceTimeout
  -- temperature and coolant (chapter 16)
  | sensorSample (r : SensorRef) (value : Option Int)
  | trustEval
  | sensorRetrust (who : Requester) (r : SensorRef) (v : W64)
  | thermalShutdown (r : SensorRef)
  | quenchStep
  | quenchLimUpdate (tile : TileIx) (lim : BitVec 16)
  | autoRestart
  | shutRestart (who : Requester) (v : W64)
  | trayRead (which : Nat) (value : Option Nat)
  | flowWindow (pulses : Nat)
  | coolingJudge
  -- faults and recast (chapter 17)
  | faultReport (tile : TileIx) (cause : BitVec 8) (unit : BitVec 8) (detail : W32)
  | recastStart (tile : TileIx)
  | heartbeat (tile : TileIx)
  | heartbeatMiss (tile : TileIx)
  | settleEnd (polder : PolderIx)
  | refillStart (polder : PolderIx)
  | refillDone (polder : PolderIx)
  | readmission (polder : PolderIx)
  | rcResume (who : Requester) (p : PolderIx) (v : W64)
  | rcRetire (who : Requester) (v : W64)
  | rcReadmit (who : Requester) (v : W64)
  | selfTestDone (tile : TileIx) (pass : Bool)
  | quarantineSelfTest (tile : TileIx)
  -- power-on and ageing (chapter 18)
  | vauxOn
  | fwVerify (slot0 slot1 : FwImage)
  | mainPowerEnable
  | mireBringup (stack : StackIx) (ok : Bool)
  | tileTest (tile : TileIx)
  | tileTestDone (tile : TileIx) (result : BitVec 8) (lanes : List (BitVec 8))
  | siteMapRecord (flashOk : Bool)
  | bootReady
  | vauxLost
  | mainInhAssert
  | mainInhDeassert
  | ageSample (tile : TileIx) (cru : CruIx) (drift osc : W32)
  | replan (tile : TileIx)
  | ageReplanWrite (who : Requester) (tile : TileIx) (v : W64)
  -- monitors and the event log (chapter 19)
  | monClr (who : Requester) (tile : TileIx) (v : W64)
  | monConfigWrite (who : Requester) (tile : TileIx) (off : BitVec 12) (v : W64)
  | monTickSample (tile : TileIx) (m : Fin 4) (value : Int)
  | evlogAppend (r : LogRec)
  | evlogLost (page : BitVec 16)
  -- identity, trust and the management bus (chapters 20 and 21)
  | getVersion (tr : Transport)
  | getCapabilities (tr : Transport)
  | negotiateAlgorithms (tr : Transport)
  | getDigests (tr : Transport)
  | getCertificate (tr : Transport) (slot : BitVec 8) (off len : BitVec 16)
  | challenge (tr : Transport) (slot : BitVec 8) (nonce : List Byte)
  | getMeasurements (tr : Transport) (op : BitVec 8) (nonce : List Byte) (signed : Bool)
  | spdmUnsupported (tr : Transport) (code : BitVec 8)
  | enroll (who : Requester) (v : W64)
  | revoke (who : Requester) (v : W64)
  | rollAdv (who : Requester) (v : W64)
  | read64 (page off : BitVec 16)
  | write64 (page off : BitVec 16) (v : W64)
  | read32 (page off : BitVec 16)
  | write32 (page off : BitVec 16) (v : W32)
  | setEndpointId (eid : BitVec 8)
  | alertResponse
  deriving DecidableEq, Repr

end Sys2Proof
end

