-- ==== Sys2Proof/WellFormed.lean ====
section
/-! DEFINITION. When a command is well formed: for a crucible instruction, that its fields obey the zero-field and
modifier rules of R121 and of its own class; for a packet, that its payload has at most 4,096 bytes (R316). -/
namespace Sys2Proof

/-- A field that names a predicate has its upper bits zero (R128). -/
def predField (r : BitVec 5) : Bool := r.toNat < 8

/-- MOD has no bit set outside a mask (R121). -/
def THdr.modIn (h : THdr) (mask : Nat) : Bool := h.mod.toNat &&& (255 - mask) = 0

/-- The unused source fields of a vector instruction are zero (R151). `nsrc` is the number of sources the operation names; a
scalar that BS or CS substitutes leaves its descriptor field zero. -/
def VecOps.wf (o : VecOps) (nsrc : Nat) (k : Bool) : Bool :=
  (if 2 ≤ nsrc then !o.bs || o.dB = 0 else o.dB = 0 && o.sB = 0 && !o.bs) &&
  (if 3 ≤ nsrc then !o.cs || o.dC = 0 else o.dC = 0 && o.sC = 0 && !o.cs) &&
  (k || o.dK = 0)

/-- dB and sE are zero unless the operation is RMSN (R154). -/
def RedOps.plain (o : RedOps) : Bool := o.dB = 0 && o.sE = 0

/-- The unused descriptor fields of an attention read are zero (R157). -/
def attWf (h : THdr) (o : AttOps) : Bool :=
  h.modIn 7 && (h.mod.getLsbD 0 || o.dP = 0) && (h.mod.getLsbD 1 || o.dM = 0) && (h.mod.getLsbD 2 || o.dT = 0)

/-- KVPUT uses MOD bits 0, 2 and 3 and no mask, tree mask or score factor (R231). -/
def kvputWf (h : THdr) (o : AttOps) : Bool :=
  h.modIn 13 && (h.mod.getLsbD 0 || o.dP = 0) && o.dM = 0 && o.dT = 0 && o.sS = 0

/-- The payload limit of R316. (DESIGN CHOICE: log entry 12) -/
def Packet.wf (p : Packet) : Bool := p.payload.length ≤ 4096

/-- Well-formed commands. (DESIGN CHOICE: log entry 12) -/
def Instr.wf : Instr → Bool
  | .ceq _ _ d _ _ | .cne _ _ d _ _ | .clt _ _ d _ _ | .cge _ _ d _ _ | .cltu _ _ d _ _ | .cgeu _ _ d _ _ => predField d
  | .pand _ _ d a b | .por _ _ d a b | .pxor _ _ d a b | .pandn _ _ d a b => predField d && predField a && predField b
  | .clti _ _ d _ _ => predField d
  | .slli _ _ _ _ imm | .srli _ _ _ _ imm | .srai _ _ _ _ imm => imm.toNat < 32
  | .scalarLoad _ _ _ _ size _ _ => size ≠ 3
  | .scalarStore _ _ _ _ size sx _ => size ≠ 3 && !sx
  | .mmul _ h o => h.modIn 0 && o.dR = 0
  | .mmulLift _ h _ => h.modIn 0
  | .vAdd _ h o | .vSub _ h o | .vMul _ h o | .vMax _ h o | .vMin _ h o | .copysign _ h o | .div _ h o => h.modIn 0 && o.wf 2 false
  | .fma _ h o => h.modIn 0 && o.wf 3 false
  | .abs _ h o | .neg _ h o | .scale2 _ h o | .recip _ h o | .sqrt _ h o | .rsqrt _ h o | .exp _ h o | .exp2 _ h o
  | .log2 _ h o | .sigmoid _ h o | .tanh _ h o | .silu _ h o | .geluErf _ h o | .geluTanh _ h o => h.modIn 0 && o.wf 1 false
  | .cvt _ h o => h.modIn 1 && o.wf 1 (h.mod = 1)
  | .rope _ h o => h.modIn 1 && !o.bs && o.sB = 0 && o.wf 2 true
  | .rsum _ h o | .rmax _ h o | .rmin _ h o | .rargmax _ h o | .rargmin _ h o | .rms _ h o | .softmax _ h o
  | .psum _ h o => h.modIn 0 && o.plain
  | .rmsn _ h _ => h.modIn 0
  | .attnRing _ h o | .attnPage _ h o => attWf h o
  | .kvput _ h o => kvputWf h o
  | .move _ h _ | .fill _ h _ | .gather _ h _ => h.modIn 0
  | .sent _ h _ => h.modIn 1
  | .rhand _ h _ => h.modIn 0
  | .probe p | .grant p | .refuse p | .wr p | .rd p _ | .rdData p | .moveDone p | .remoteGadd p | .placeReq p | .placeOk p
  | .wave p | .hand p | .mireRd p _ _ _ | .mireWr p | .draftReq p | .draftTree p | .genUpdate p | .mgmt p
  | .packetHop _ _ p => p.wf
  | _ => true

end Sys2Proof
end

