-- ==== Sys2Proof/Decode.lean ====
section
/-! DEFINITION. The table of operations gives no row any bits, so no word spells a command. The crucible's instructions do have
words of their own (R116 to R120): their decoder and encoder stand here. -/
namespace Sys2Proof

/-- The command that a word spells by the table's bits: the table gives no row any (every row's field list is empty).
(DESIGN CHOICE: log entry 115) -/
def decodeTableWord (_nbits _w : Nat) : Option Instr := none

/-! ### Parcels -/

/-- Bits [lo + n − 1 : lo] of a parcel. -/
def fieldOf (w : W32) (lo n : Nat) : BitVec n := BitVec.ofNat n (w.toNat / 2 ^ lo)

/-- One bit of a parcel. -/
def flagOf (w : W32) (i : Nat) : Bool := w.toNat / 2 ^ i % 2 = 1

/-- A parcel from (value, lowest bit) parts. -/
def parcelOf (parts : List (Nat × Nat)) : W32 := BitVec.ofNat 32 (parts.foldl (fun a p => a + p.1 * 2 ^ p.2) 0)

def bn (b : Bool) : Nat := if b then 1 else 0

/-- A scalar parcel of a class with its predicate (R116, R118). -/
def scalarParcel (pred : BitVec 3) (cls : Nat) (parts : List (Nat × Nat)) : W32 :=
  parcelOf ((pred.toNat, 29) :: (cls, 25) :: parts)

/-- Parcel 0 of a tensor instruction (R119). -/
def headParcel (h : THdr) (cls op : Nat) : W32 :=
  parcelOf [(h.pred.toNat, 29), (cls, 25), (op, 19), (h.dg.toNat, 9), (bn h.dge, 8), (h.mod.toNat, 0)]
def decodeHead (w : W32) : THdr := ⟨fieldOf w 29 3, fieldOf w 9 10, flagOf w 8, fieldOf w 0 8⟩

/-! ### Operand fields of tensor instructions (R120) -/

def encMat (o : MatOps) : List W32 := [parcelOf [(o.dA.toNat, 0), (o.dB.toNat, 4), (o.dC.toNat, 8), (o.dR.toNat, 12)], 0, 0]
def decMat (a b c : W32) : Option MatOps :=
  let o : MatOps := ⟨fieldOf a 0 4, fieldOf a 4 4, fieldOf a 8 4, fieldOf a 12 4⟩
  if encMat o = [a, b, c] then some o else none
def encVec (o : VecOps) : List W32 :=
  [parcelOf [(o.dD.toNat, 0), (o.dA.toNat, 4), (o.dB.toNat, 8), (o.dC.toNat, 12), (o.dK.toNat, 16), (o.sB.toNat, 20),
     (o.sC.toNat, 25), (bn o.bs, 30), (bn o.cs, 31)],
   parcelOf [(o.site.toNat, 0), (o.imm8.toNat, 12)], 0]
def decVec (a b c : W32) : Option VecOps :=
  let o : VecOps := ⟨fieldOf a 0 4, fieldOf a 4 4, fieldOf a 8 4, fieldOf a 12 4, fieldOf a 16 4, fieldOf a 20 5, fieldOf a 25 5,
    flagOf a 30, flagOf a 31, fieldOf b 0 12, fieldOf b 12 8⟩
  if encVec o = [a, b, c] then some o else none
def encRed (o : RedOps) : List W32 := [parcelOf [(o.dD.toNat, 0), (o.dA.toNat, 4), (o.dB.toNat, 8), (o.sE.toNat, 20)], 0, 0]
def decRed (a b c : W32) : Option RedOps :=
  let o : RedOps := ⟨fieldOf a 0 4, fieldOf a 4 4, fieldOf a 8 4, fieldOf a 20 5⟩
  if encRed o = [a, b, c] then some o else none
def encAtt (o : AttOps) : List W32 :=
  [parcelOf [(o.dO.toNat, 0), (o.dQ.toNat, 4), (o.dX.toNat, 8), (o.dM.toNat, 12), (o.dT.toNat, 16), (o.dP.toNat, 20),
     (o.dK.toNat, 24), (o.sS.toNat % 16, 28)],
   parcelOf [(o.sS.toNat / 16, 0)], 0]
def decAtt (a b c : W32) : Option AttOps :=
  let o : AttOps := ⟨fieldOf a 0 4, fieldOf a 4 4, fieldOf a 8 4, fieldOf a 12 4, fieldOf a 16 4, fieldOf a 20 4, fieldOf a 24 4,
    BitVec.ofNat 5 (a.toNat / 2 ^ 28 % 16 + 16 * (b.toNat % 2))⟩
  if encAtt o = [a, b, c] then some o else none
def encRun (o : RunOps) : List W32 :=
  [parcelOf [(o.dD.toNat, 0), (o.dS.toNat, 4), (o.dI.toNat, 8), (o.sX.toNat, 12), (o.rg.toNat, 17), (bn o.rge, 27)], 0, 0]
def decRun (a b c : W32) : Option RunOps :=
  let o : RunOps := ⟨fieldOf a 0 4, fieldOf a 4 4, fieldOf a 8 4, fieldOf a 12 5, fieldOf a 17 10, flagOf a 27⟩
  if encRun o = [a, b, c] then some o else none
def encSent (o : SentOps) : List W32 :=
  [parcelOf [(o.dX.toNat, 0), (o.dK.toNat, 4), (o.index.toNat, 8), (o.sD.toNat, 14)], 0, 0]
def decSent (a b c : W32) : Option SentOps :=
  let o : SentOps := ⟨fieldOf a 0 4, fieldOf a 4 4, fieldOf a 8 6, fieldOf a 14 5⟩
  if encSent o = [a, b, c] then some o else none
def encRhand (o : RhandOps) : List W32 :=
  [parcelOf [(o.dL.toNat, 0), (o.dK.toNat, 4), (o.sV.toNat, 8), (o.slot.toNat, 13), (o.part.toNat, 20), (o.parts.toNat, 25)],
   0, 0]
def decRhand (a b c : W32) : Option RhandOps :=
  let o : RhandOps := ⟨fieldOf a 0 4, fieldOf a 4 4, fieldOf a 8 5, fieldOf a 13 7, fieldOf a 20 5, fieldOf a 25 5⟩
  if encRhand o = [a, b, c] then some o else none

/-! ### The encoder -/

/-- The parcels of a crucible instruction (R116 to R120, R128 to R136, R167); none for every other command.
(DESIGN CHOICE: log entry 115) -/
def encode : Instr → Option (List W32)
  | .add _ p rd rs1 rs2 => some [scalarParcel p 0 [(rd.toNat, 20), (rs1.toNat, 15), (rs2.toNat, 10), (0x0, 0)]]
  | .sub _ p rd rs1 rs2 => some [scalarParcel p 0 [(rd.toNat, 20), (rs1.toNat, 15), (rs2.toNat, 10), (0x1, 0)]]
  | .and _ p rd rs1 rs2 => some [scalarParcel p 0 [(rd.toNat, 20), (rs1.toNat, 15), (rs2.toNat, 10), (0x2, 0)]]
  | .or _ p rd rs1 rs2 => some [scalarParcel p 0 [(rd.toNat, 20), (rs1.toNat, 15), (rs2.toNat, 10), (0x3, 0)]]
  | .xor _ p rd rs1 rs2 => some [scalarParcel p 0 [(rd.toNat, 20), (rs1.toNat, 15), (rs2.toNat, 10), (0x4, 0)]]
  | .sll _ p rd rs1 rs2 => some [scalarParcel p 0 [(rd.toNat, 20), (rs1.toNat, 15), (rs2.toNat, 10), (0x5, 0)]]
  | .srl _ p rd rs1 rs2 => some [scalarParcel p 0 [(rd.toNat, 20), (rs1.toNat, 15), (rs2.toNat, 10), (0x6, 0)]]
  | .sra _ p rd rs1 rs2 => some [scalarParcel p 0 [(rd.toNat, 20), (rs1.toNat, 15), (rs2.toNat, 10), (0x7, 0)]]
  | .mul _ p rd rs1 rs2 => some [scalarParcel p 0 [(rd.toNat, 20), (rs1.toNat, 15), (rs2.toNat, 10), (0x8, 0)]]
  | .mulhu _ p rd rs1 rs2 => some [scalarParcel p 0 [(rd.toNat, 20), (rs1.toNat, 15), (rs2.toNat, 10), (0x9, 0)]]
  | .min _ p rd rs1 rs2 => some [scalarParcel p 0 [(rd.toNat, 20), (rs1.toNat, 15), (rs2.toNat, 10), (0xa, 0)]]
  | .max _ p rd rs1 rs2 => some [scalarParcel p 0 [(rd.toNat, 20), (rs1.toNat, 15), (rs2.toNat, 10), (0xb, 0)]]
  | .minu _ p rd rs1 rs2 => some [scalarParcel p 0 [(rd.toNat, 20), (rs1.toNat, 15), (rs2.toNat, 10), (0xc, 0)]]
  | .maxu _ p rd rs1 rs2 => some [scalarParcel p 0 [(rd.toNat, 20), (rs1.toNat, 15), (rs2.toNat, 10), (0xd, 0)]]
  | .ceq _ p rd rs1 rs2 => some [scalarParcel p 0 [(rd.toNat, 20), (rs1.toNat, 15), (rs2.toNat, 10), (0x10, 0)]]
  | .cne _ p rd rs1 rs2 => some [scalarParcel p 0 [(rd.toNat, 20), (rs1.toNat, 15), (rs2.toNat, 10), (0x11, 0)]]
  | .clt _ p rd rs1 rs2 => some [scalarParcel p 0 [(rd.toNat, 20), (rs1.toNat, 15), (rs2.toNat, 10), (0x12, 0)]]
  | .cge _ p rd rs1 rs2 => some [scalarParcel p 0 [(rd.toNat, 20), (rs1.toNat, 15), (rs2.toNat, 10), (0x13, 0)]]
  | .cltu _ p rd rs1 rs2 => some [scalarParcel p 0 [(rd.toNat, 20), (rs1.toNat, 15), (rs2.toNat, 10), (0x14, 0)]]
  | .cgeu _ p rd rs1 rs2 => some [scalarParcel p 0 [(rd.toNat, 20), (rs1.toNat, 15), (rs2.toNat, 10), (0x15, 0)]]
  | .pand _ p rd rs1 rs2 => some [scalarParcel p 0 [(rd.toNat, 20), (rs1.toNat, 15), (rs2.toNat, 10), (0x18, 0)]]
  | .por _ p rd rs1 rs2 => some [scalarParcel p 0 [(rd.toNat, 20), (rs1.toNat, 15), (rs2.toNat, 10), (0x19, 0)]]
  | .pxor _ p rd rs1 rs2 => some [scalarParcel p 0 [(rd.toNat, 20), (rs1.toNat, 15), (rs2.toNat, 10), (0x1a, 0)]]
  | .pandn _ p rd rs1 rs2 => some [scalarParcel p 0 [(rd.toNat, 20), (rs1.toNat, 15), (rs2.toNat, 10), (0x1b, 0)]]
  | .addi _ p rd rs1 imm => some [scalarParcel p 1 [(rd.toNat, 20), (rs1.toNat, 15), (0, 12), (imm.toNat, 0)]]
  | .andi _ p rd rs1 imm => some [scalarParcel p 1 [(rd.toNat, 20), (rs1.toNat, 15), (1, 12), (imm.toNat, 0)]]
  | .ori _ p rd rs1 imm => some [scalarParcel p 1 [(rd.toNat, 20), (rs1.toNat, 15), (2, 12), (imm.toNat, 0)]]
  | .xori _ p rd rs1 imm => some [scalarParcel p 1 [(rd.toNat, 20), (rs1.toNat, 15), (3, 12), (imm.toNat, 0)]]
  | .slli _ p rd rs1 imm => some [scalarParcel p 1 [(rd.toNat, 20), (rs1.toNat, 15), (4, 12), (imm.toNat, 0)]]
  | .srli _ p rd rs1 imm => some [scalarParcel p 1 [(rd.toNat, 20), (rs1.toNat, 15), (5, 12), (imm.toNat, 0)]]
  | .srai _ p rd rs1 imm => some [scalarParcel p 1 [(rd.toNat, 20), (rs1.toNat, 15), (6, 12), (imm.toNat, 0)]]
  | .clti _ p rd rs1 imm => some [scalarParcel p 1 [(rd.toNat, 20), (rs1.toNat, 15), (7, 12), (imm.toNat, 0)]]
  | .lui _ p rd imm => some [scalarParcel p 2 [(rd.toNat, 20), (imm.toNat, 0)]]
  | .br _ p imm => some [scalarParcel p 3 [(0, 22), (imm.toNat, 0)]]
  | .jal _ p aD imm => some [scalarParcel p 3 [(1, 22), (aD.toNat, 18), (imm.toNat, 0)]]
  | .jr _ p aS => some [scalarParcel p 3 [(2, 22), (aS.toNat, 18)]]
  | .scalarLoad _ p s a size sx imm => some [scalarParcel p 4 [(s.toNat, 20), (a.toNat, 16), (size.toNat, 14), (0, 13), (bn sx, 12), (imm.toNat, 0)]]
  | .scalarStore _ p s a size sx imm => some [scalarParcel p 4 [(s.toNat, 20), (a.toNat, 16), (size.toNat, 14), (1, 13), (bn sx, 12), (imm.toNat, 0)]]
  | .aadd _ p aD aS sX => some [scalarParcel p 5 [(aD.toNat, 21), (0, 18), (aS.toNat, 14), (sX.toNat, 9)]]
  | .aaddi _ p aD aS imm => some [scalarParcel p 5 [(aD.toNat, 21), (1, 18), (aS.toNat, 14), (imm.toNat, 0)]]
  | .aset _ p aD sLo sHi => some [scalarParcel p 5 [(aD.toNat, 21), (2, 18), (sLo.toNat, 13), (sHi.toNat, 8)]]
  | .aget _ p aS sD hi => some [scalarParcel p 5 [(aS.toNat, 21), (3, 18), (sD.toNat, 13), (bn hi, 12)]]
  | .apc _ p aD imm => some [scalarParcel p 5 [(aD.toNat, 21), (4, 18), (imm.toNat, 0)]]
  | .daddr _ p dd aA imm => some [scalarParcel p 6 [(dd.toNat, 21), (0, 18), (aA.toNat, 14), (imm.toNat, 0)]]
  | .dfmt _ p dd fmt tag => some [scalarParcel p 6 [(dd.toNat, 21), (1, 18), (fmt.toNat, 8), (tag.toNat, 6)]]
  | .dshape _ p dd sX sY sZ => some [scalarParcel p 6 [(dd.toNat, 21), (2, 18), (sX.toNat, 13), (sY.toNat, 8), (sZ.toNat, 3)]]
  | .dstride _ p dd sX sY sZ => some [scalarParcel p 6 [(dd.toNat, 21), (3, 18), (sX.toNat, 13), (sY.toNat, 8), (sZ.toNat, 3)]]
  | .daux _ p dd aA => some [scalarParcel p 6 [(dd.toNat, 21), (4, 18), (aA.toNat, 14)]]
  | .dcopy _ p dd dS => some [scalarParcel p 6 [(dd.toNat, 21), (5, 18), (dS.toNat, 14)]]
  | .dstep _ p dd sX which => some [scalarParcel p 6 [(dd.toNat, 21), (6, 18), (sX.toNat, 13), (which.toNat, 11)]]
  | .gadd _ p g sX sD => some [scalarParcel p 7 [(0, 22), (g.toNat, 12), (sX.toNat, 7), (sD.toNat, 2)]]
  | .gswap _ p g sX sD => some [scalarParcel p 7 [(2, 22), (g.toNat, 12), (sX.toNat, 7), (sD.toNat, 2)]]
  | .gread _ p g sX sD => some [scalarParcel p 7 [(3, 22), (g.toNat, 12), (sX.toNat, 7), (sD.toNat, 2)]]
  | .gradd _ p g sX sD => some [scalarParcel p 7 [(4, 22), (g.toNat, 12), (sX.toNat, 7), (sD.toNat, 2)]]
  | .gbadd _ p g sX sD => some [scalarParcel p 7 [(5, 22), (g.toNat, 12), (sX.toNat, 7), (sD.toNat, 2)]]
  | .gwait _ p g sX sD tmo => some [scalarParcel p 7 [(1, 22), (g.toNat, 12), (sX.toNat, 7), (sD.toNat, 2), (tmo.toNat, 0)]]
  | .nop _ p => some [scalarParcel p 8 [(0, 20)]]
  | .endTask _ p => some [scalarParcel p 8 [(1, 20)]]
  | .rdflags _ p sD => some [scalarParcel p 8 [(2, 20), (sD.toNat, 15)]]
  | .clrflags _ p mask => some [scalarParcel p 8 [(3, 20), (mask.toNat, 0)]]
  | .rdtime _ p sD hi => some [scalarParcel p 8 [(4, 20), (sD.toNat, 15), (bn hi, 14)]]
  | .rdid _ p sD => some [scalarParcel p 8 [(5, 20), (sD.toNat, 15)]]
  | .brk _ p => some [scalarParcel p 8 [(6, 20)]]
  | .mmul _ h o => some (headParcel h 0x9 0x0 :: encMat o)
  | .mmulLift _ h o => some (headParcel h 0x9 0x1 :: encMat o)
  | .vAdd _ h o => some (headParcel h 0xa 0x0 :: encVec o)
  | .vSub _ h o => some (headParcel h 0xa 0x1 :: encVec o)
  | .vMul _ h o => some (headParcel h 0xa 0x2 :: encVec o)
  | .fma _ h o => some (headParcel h 0xa 0x3 :: encVec o)
  | .vMax _ h o => some (headParcel h 0xa 0x4 :: encVec o)
  | .vMin _ h o => some (headParcel h 0xa 0x5 :: encVec o)
  | .abs _ h o => some (headParcel h 0xa 0x6 :: encVec o)
  | .neg _ h o => some (headParcel h 0xa 0x7 :: encVec o)
  | .copysign _ h o => some (headParcel h 0xa 0x8 :: encVec o)
  | .scale2 _ h o => some (headParcel h 0xa 0x9 :: encVec o)
  | .recip _ h o => some (headParcel h 0xa 0xa :: encVec o)
  | .sqrt _ h o => some (headParcel h 0xa 0xb :: encVec o)
  | .rsqrt _ h o => some (headParcel h 0xa 0xc :: encVec o)
  | .exp _ h o => some (headParcel h 0xa 0xd :: encVec o)
  | .exp2 _ h o => some (headParcel h 0xa 0xe :: encVec o)
  | .log2 _ h o => some (headParcel h 0xa 0xf :: encVec o)
  | .sigmoid _ h o => some (headParcel h 0xa 0x10 :: encVec o)
  | .tanh _ h o => some (headParcel h 0xa 0x11 :: encVec o)
  | .silu _ h o => some (headParcel h 0xa 0x12 :: encVec o)
  | .geluErf _ h o => some (headParcel h 0xa 0x13 :: encVec o)
  | .geluTanh _ h o => some (headParcel h 0xa 0x14 :: encVec o)
  | .cvt _ h o => some (headParcel h 0xa 0x15 :: encVec o)
  | .rope _ h o => some (headParcel h 0xa 0x16 :: encVec o)
  | .div _ h o => some (headParcel h 0xa 0x17 :: encVec o)
  | .rsum _ h o => some (headParcel h 0xb 0x0 :: encRed o)
  | .rmax _ h o => some (headParcel h 0xb 0x1 :: encRed o)
  | .rmin _ h o => some (headParcel h 0xb 0x2 :: encRed o)
  | .rargmax _ h o => some (headParcel h 0xb 0x3 :: encRed o)
  | .rargmin _ h o => some (headParcel h 0xb 0x4 :: encRed o)
  | .rms _ h o => some (headParcel h 0xb 0x5 :: encRed o)
  | .rmsn _ h o => some (headParcel h 0xb 0x6 :: encRed o)
  | .softmax _ h o => some (headParcel h 0xb 0x7 :: encRed o)
  | .psum _ h o => some (headParcel h 0xb 0x8 :: encRed o)
  | .attnRing _ h o => some (headParcel h 0xc 0x0 :: encAtt o)
  | .attnPage _ h o => some (headParcel h 0xc 0x1 :: encAtt o)
  | .kvput _ h o => some (headParcel h 0xc 0x2 :: encAtt o)
  | .move _ h o => some (headParcel h 0xd 0x0 :: encRun o)
  | .fill _ h o => some (headParcel h 0xd 0x1 :: encRun o)
  | .gather _ h o => some (headParcel h 0xd 0x2 :: encRun o)
  | .sent _ h o => some (headParcel h 0xe 0x0 :: encSent o)
  | .rhand _ h o => some (headParcel h 0xf 0x0 :: encRhand o)
  | _ => none

/-! ### The decoder -/

/-- An instruction that is well formed and whose own words are exactly the ones read; the rest is undefined (R121).
(DESIGN CHOICE: log entries 126, 127) -/
def exactly (ps : List W32) (i : Instr) : Option Instr := if i.wf && decide (encode i = some ps) then some i else none

/-- CLASS 0x0: register operands (R118, R128). -/
def decodeReg (t : TaskRef) (w : W32) : Option Instr :=
  let p := fieldOf w 29 3
  let rd := fieldOf w 20 5
  let a := fieldOf w 15 5
  let b := fieldOf w 10 5
  match w.toNat % 32 with
  | 0x0 => some (.add t p rd a b)
  | 0x1 => some (.sub t p rd a b)
  | 0x2 => some (.and t p rd a b)
  | 0x3 => some (.or t p rd a b)
  | 0x4 => some (.xor t p rd a b)
  | 0x5 => some (.sll t p rd a b)
  | 0x6 => some (.srl t p rd a b)
  | 0x7 => some (.sra t p rd a b)
  | 0x8 => some (.mul t p rd a b)
  | 0x9 => some (.mulhu t p rd a b)
  | 0xa => some (.min t p rd a b)
  | 0xb => some (.max t p rd a b)
  | 0xc => some (.minu t p rd a b)
  | 0xd => some (.maxu t p rd a b)
  | 0x10 => some (.ceq t p rd a b)
  | 0x11 => some (.cne t p rd a b)
  | 0x12 => some (.clt t p rd a b)
  | 0x13 => some (.cge t p rd a b)
  | 0x14 => some (.cltu t p rd a b)
  | 0x15 => some (.cgeu t p rd a b)
  | 0x18 => some (.pand t p rd a b)
  | 0x19 => some (.por t p rd a b)
  | 0x1a => some (.pxor t p rd a b)
  | 0x1b => some (.pandn t p rd a b)
  | _ => none

/-- CLASS 0x1: immediate operand (R118, R129). -/
def decodeImm (t : TaskRef) (w : W32) : Option Instr :=
  let p := fieldOf w 29 3
  let rd := fieldOf w 20 5
  let a := fieldOf w 15 5
  let i := fieldOf w 0 12
  match w.toNat / 2 ^ 12 % 8 with
  | 0 => some (.addi t p rd a i)
  | 1 => some (.andi t p rd a i)
  | 2 => some (.ori t p rd a i)
  | 3 => some (.xori t p rd a i)
  | 4 => some (.slli t p rd a i)
  | 5 => some (.srli t p rd a i)
  | 6 => some (.srai t p rd a i)
  | _ => some (.clti t p rd a i)

/-- CLASS 0x2 to 0x8 (R118, R131 to R136, R167). -/
def decodeScalar (t : TaskRef) (w : W32) : Option Instr :=
  let p := fieldOf w 29 3
  match w.toNat / 2 ^ 25 % 16 with
  | 0 => decodeReg t w
  | 1 => decodeImm t w
  | 2 => some (.lui t p (fieldOf w 20 5) (fieldOf w 0 20))
  | 3 => match w.toNat / 2 ^ 22 % 8 with
    | 0 => some (.br t p (fieldOf w 0 22))
    | 1 => some (.jal t p (fieldOf w 18 4) (fieldOf w 0 18))
    | 2 => some (.jr t p (fieldOf w 18 4))
    | _ => none
  | 4 =>
    if flagOf w 13 then some (.scalarStore t p (fieldOf w 20 5) (fieldOf w 16 4) (fieldOf w 14 2) (flagOf w 12) (fieldOf w 0 12))
    else some (.scalarLoad t p (fieldOf w 20 5) (fieldOf w 16 4) (fieldOf w 14 2) (flagOf w 12) (fieldOf w 0 12))
  | 5 => match w.toNat / 2 ^ 18 % 8 with
    | 0 => some (.aadd t p (fieldOf w 21 4) (fieldOf w 14 4) (fieldOf w 9 5))
    | 1 => some (.aaddi t p (fieldOf w 21 4) (fieldOf w 14 4) (fieldOf w 0 14))
    | 2 => some (.aset t p (fieldOf w 21 4) (fieldOf w 13 5) (fieldOf w 8 5))
    | 3 => some (.aget t p (fieldOf w 21 4) (fieldOf w 13 5) (flagOf w 12))
    | 4 => some (.apc t p (fieldOf w 21 4) (fieldOf w 0 14))
    | _ => none
  | 6 => match w.toNat / 2 ^ 18 % 8 with
    | 0 => some (.daddr t p (fieldOf w 21 4) (fieldOf w 14 4) (fieldOf w 0 14))
    | 1 => some (.dfmt t p (fieldOf w 21 4) (fieldOf w 8 8) (fieldOf w 6 2))
    | 2 => some (.dshape t p (fieldOf w 21 4) (fieldOf w 13 5) (fieldOf w 8 5) (fieldOf w 3 5))
    | 3 => some (.dstride t p (fieldOf w 21 4) (fieldOf w 13 5) (fieldOf w 8 5) (fieldOf w 3 5))
    | 4 => some (.daux t p (fieldOf w 21 4) (fieldOf w 14 4))
    | 5 => some (.dcopy t p (fieldOf w 21 4) (fieldOf w 14 4))
    | 6 => some (.dstep t p (fieldOf w 21 4) (fieldOf w 13 5) (fieldOf w 11 2))
    | _ => none
  | 7 => match w.toNat / 2 ^ 22 % 8 with
    | 0 => some (.gadd t p (fieldOf w 12 10) (fieldOf w 7 5) (fieldOf w 2 5))
    | 1 => some (.gwait t p (fieldOf w 12 10) (fieldOf w 7 5) (fieldOf w 2 5) (fieldOf w 0 2))
    | 2 => some (.gswap t p (fieldOf w 12 10) (fieldOf w 7 5) (fieldOf w 2 5))
    | 3 => some (.gread t p (fieldOf w 12 10) (fieldOf w 7 5) (fieldOf w 2 5))
    | 4 => some (.gradd t p (fieldOf w 12 10) (fieldOf w 7 5) (fieldOf w 2 5))
    | 5 => some (.gbadd t p (fieldOf w 12 10) (fieldOf w 7 5) (fieldOf w 2 5))
    | _ => none
  | 8 => match w.toNat / 2 ^ 20 % 32 with
    | 0 => some (.nop t p)
    | 1 => some (.endTask t p)
    | 2 => some (.rdflags t p (fieldOf w 15 5))
    | 3 => some (.clrflags t p (fieldOf w 0 5))
    | 4 => some (.rdtime t p (fieldOf w 15 5) (flagOf w 14))
    | 5 => some (.rdid t p (fieldOf w 15 5))
    | 6 => some (.brk t p)
    | _ => none
  | _ => none

/-- CLASS 0xA by OP (R150). -/
def decodeVec (t : TaskRef) (h : THdr) (op : Nat) (o : VecOps) : Option Instr :=
  match op with
  | 0x0 => some (.vAdd t h o)
  | 0x1 => some (.vSub t h o)
  | 0x2 => some (.vMul t h o)
  | 0x3 => some (.fma t h o)
  | 0x4 => some (.vMax t h o)
  | 0x5 => some (.vMin t h o)
  | 0x6 => some (.abs t h o)
  | 0x7 => some (.neg t h o)
  | 0x8 => some (.copysign t h o)
  | 0x9 => some (.scale2 t h o)
  | 0xa => some (.recip t h o)
  | 0xb => some (.sqrt t h o)
  | 0xc => some (.rsqrt t h o)
  | 0xd => some (.exp t h o)
  | 0xe => some (.exp2 t h o)
  | 0xf => some (.log2 t h o)
  | 0x10 => some (.sigmoid t h o)
  | 0x11 => some (.tanh t h o)
  | 0x12 => some (.silu t h o)
  | 0x13 => some (.geluErf t h o)
  | 0x14 => some (.geluTanh t h o)
  | 0x15 => some (.cvt t h o)
  | 0x16 => some (.rope t h o)
  | 0x17 => some (.div t h o)
  | _ => none

/-- CLASS 0xB by OP (R154). -/
def decodeRed (t : TaskRef) (h : THdr) (op : Nat) (o : RedOps) : Option Instr :=
  match op with
  | 0x0 => some (.rsum t h o)
  | 0x1 => some (.rmax t h o)
  | 0x2 => some (.rmin t h o)
  | 0x3 => some (.rargmax t h o)
  | 0x4 => some (.rargmin t h o)
  | 0x5 => some (.rms t h o)
  | 0x6 => some (.rmsn t h o)
  | 0x7 => some (.softmax t h o)
  | 0x8 => some (.psum t h o)
  | _ => none

/-- CLASS 0x9 to 0xF (R119, R120). -/
def decodeTensor (t : TaskRef) (w a b c : W32) : Option Instr :=
  let h := decodeHead w
  let op := w.toNat / 2 ^ 19 % 64
  match w.toNat / 2 ^ 25 % 16 with
  | 0x9 => match op with
    | 0 => (decMat a b c).map (.mmul t h)
    | 1 => (decMat a b c).map (.mmulLift t h)
    | _ => none
  | 0xA => (decVec a b c).bind (decodeVec t h op)
  | 0xB => (decRed a b c).bind (decodeRed t h op)
  | 0xC => match op with
    | 0 => (decAtt a b c).map (.attnRing t h)
    | 1 => (decAtt a b c).map (.attnPage t h)
    | 2 => (decAtt a b c).map (.kvput t h)
    | _ => none
  | 0xD => match op with
    | 0 => (decRun a b c).map (.move t h)
    | 1 => (decRun a b c).map (.fill t h)
    | 2 => (decRun a b c).map (.gather t h)
    | _ => none
  | 0xE => if op = 0 then (decSent a b c).map (.sent t h) else none
  | 0xF => if op = 0 then (decRhand a b c).map (.rhand t h) else none
  | _ => none

/-- The instruction that parcels at a task's program counter hold; none where the encoding is undefined (R121).
(DESIGN CHOICE: log entries 115, 126, 127) -/
def decodeParcels (t : TaskRef) (ps : List W32) : Option Instr :=
  match ps with
  | [w] => (decodeScalar t w).bind (exactly ps)
  | [w, a, b, c] => (decodeTensor t w a b c).bind (exactly ps)
  | _ => none

end Sys2Proof
end

