-- ==== Sys2Proof/Machine/Frame.lean ====
section
/-! DEFINITION. The tile frame: sites, neighbours, rings and distances (R7 to R11, R17). -/
namespace Sys2Proof.Machine

/-! ### Sites (R9 to R11, R17) -/

/-- The rows of the frame: y, the first populated x, the number of populated sites, and the first tile index. -/
def frameRows : List (Nat × Nat × Nat × Nat) :=
  [(0, 3, 4, 0), (1, 1, 8, 4), (2, 1, 8, 12), (3, 0, 10, 20), (4, 0, 10, 30), (5, 0, 10, 40), (6, 0, 10, 50), (7, 1, 8, 60),
   (8, 1, 8, 68), (9, 3, 4, 76)]

/-- The site (x, y) of a tile. -/
def siteOf (i : Nat) : Nat × Nat :=
  match frameRows.find? (fun r => r.2.2.2 ≤ i && i < r.2.2.2 + r.2.2.1) with
  | some (y, x0, _, k) => (x0 + (i - k), y)
  | none => (0, 0)

/-- The tile at a site, where the site is populated. -/
def tileAt (x y : Nat) : Option Nat :=
  match frameRows.find? (fun r => r.1 = y) with
  | some (_, x0, n, k) => if x0 ≤ x && x < x0 + n then some (k + (x - x0)) else none
  | none => none

/-- The neighbour of a tile through an edge port: north 0, east 1, south 2, west 3 (R314). -/
def neighbour (i port : Nat) : Option Nat :=
  let (x, y) := siteOf i
  match port with
  | 0 => if y = 0 then none else tileAt x (y - 1)
  | 1 => tileAt (x + 1) y
  | 2 => tileAt x (y + 1)
  | 3 => if x = 0 then none else tileAt (x - 1) y
  | _ => none

/-- The ring-0 tiles linked to each sluice die (R17). -/
def linkedTiles (d : Nat) : List Nat :=
  [[0, 1, 2, 3], [10, 11, 19], [29, 39, 49, 59], [67, 75, 74], [76, 77, 78, 79], [60, 68, 69], [20, 30, 40, 50],
   [4, 12, 5]].getD d []

/-- Mesh distance over the frame. -/
def absDiff (a b : Nat) : Nat := (a - b) + (b - a)
def meshDist (a b : Nat) : Nat := absDiff (siteOf a).1 (siteOf b).1 + absDiff (siteOf a).2 (siteOf b).2

/-- The tile of a list nearest to a tile; the lower index wins a tie. -/
def nearestOf (t : Nat) : List Nat → Option Nat
  | [] => none
  | a :: r => match nearestOf t r with
    | none => some a
    | some b => if meshDist a t < meshDist b t || (meshDist a t = meshDist b t && a < b) then some a else some b

/-- Ring 0: the populated sites with fewer than four populated neighbours (R10). -/
def ringZero : List Nat := (List.range 80).filter (fun i => ((List.range 4).filterMap (neighbour i)).length < 4)

/-- The ring of a tile: its least mesh distance to ring 0 (R10). -/
def ringOf (i : Nat) : Nat := (ringZero.map (meshDist i)).foldl min 10

/-- The sluice die that a ring-0 tile is linked to. -/
def dieOf (i : Nat) : Option Nat := (List.range 8).find? (fun d => (linkedTiles d).contains i)

end Sys2Proof.Machine
end

