-- ==== Sys2Proof/Config.lean ====
section
/-! DEFINITION. The free values: constants without a body for what the manual leaves open, so that nothing can be proved of
them beyond what holds of every value. Each is named in the assumption log. -/
namespace Sys2Proof

/-! ### Results that the manual bounds but does not fix (R62) -/

/-- Picks among the FP32 neighbours that lie within the 1 ulp bound of a reciprocal. -/
opaque Config.recipPick : W32 → Nat
/-- Picks among the FP32 neighbours that lie within the 1 ulp bound of a reciprocal square root. -/
opaque Config.rsqrtPick : W32 → Nat
/-- The FP32 result of exp; this and the functions below are held within their bounds where they are used. -/
opaque Config.exp : W32 → W32
/-- The FP32 result of exp2. -/
opaque Config.exp2 : W32 → W32
/-- The FP32 result of log2 of a positive value. -/
opaque Config.log2 : W32 → W32
/-- The FP32 result of sigmoid. -/
opaque Config.sigmoid : W32 → W32
/-- The FP32 result of tanh. -/
opaque Config.tanh : W32 → W32
/-- The FP32 result of GELU, erf form. -/
opaque Config.geluErf : W32 → W32
/-- The FP32 result of GELU, tanh form. -/
opaque Config.geluTanh : W32 → W32
/-- The root of the mean square of a row (RMS and the sentinel norm). -/
opaque Config.rms : List W32 → W32
/-- The reciprocal root of the mean square of a row plus an epsilon (RMSN). -/
opaque Config.rmsRoot : List W32 → W32 → W32
/-- One element of SOFTMAX of a row. -/
opaque Config.softmax : List W32 → Nat → W32
/-- Rotary embedding of a pair (R236): first output, from x, y and the phase in units of 2^-64 turn. -/
opaque Config.ropeFirst : W32 → W32 → W64 → W32
/-- Rotary embedding of a pair: second output. -/
opaque Config.ropeSecond : W32 → W32 → W64 → W32

/-! ### Contents that the manual calls undefined -/

/-- A byte of a destination that an aborted or badly overlapping instruction leaves undefined (R97, R145, R191); the first
argument is the model's own counter. -/
opaque Config.undefByte : Nat → Nat → Byte

/-- Lines of a riddle place's area that one access of the riddle reads (0) or writes (1): no rule gives the area's layout (R276); the
first argument is the model's own counter. -/
opaque Config.placeLines : Nat → Nat → Nat

/-! ### Formulas that the manual leaves without a value -/

/-- The VLOG budget of a loop step whose measured input power is 0 (R472). -/
opaque Config.tideNoInput : Nat → Nat
/-- The limit of a tile whose measured VLOG voltage is 0 (R472). -/
opaque Config.tideNoVolts : Nat → Nat
/-- The ratio K of the coolant, in mK per kW, at an input power of 0 (R513). -/
opaque Config.coolNoPower : Nat → Nat
/-- The days to a module margin of 0 that the fit of R566 gives for a tile's plans. -/
opaque Config.fitDays : List (Nat × Int) → Nat
/-- The rate in ppb that the PTP steering sets for an offset in ns (R495). -/
opaque Config.steerRate : Int → Int

/-! ### Values that the part or its release fixes -/

/-- The factory voltage in mV of a tile's point n (R565). -/
opaque Config.factoryMv : Nat → Nat → Nat

/-- The head dimension of the attention instructions that use the context block at a peat offset of a polder's slot, as a power of two
times 64: the casting's. The first argument is 128 times the polder, plus the slot. -/
opaque Config.headDim : Nat → Nat → Nat

/-- Bytes of the page that a page-table entry of no bound stream describes, by 128 times the polder plus the slot and the entry's peat
offset. -/
opaque Config.pageBytes : Nat → Nat → Nat

/-- Where binding puts a structure of a stream (R406): the model's own counter, the plan entry, and the structure. -/
opaque Config.kvPlace : Nat → Nat → Nat → Nat

/-- The bank of its pseudo-channel in which a controller keeps a local address of its stack, and the row there: an order of its own
choosing (R339). -/
opaque Config.mireBank : Nat → Nat
opaque Config.mireRow : Nat → Nat

/-- The one-way delay in ps that training measures on a link, by 5 times the tile plus the port (R484). -/
opaque Config.linkDelay : Nat → BitVec 16

/-- Yaziholt's PCI vendor identifier (R386). -/
opaque Config.vendorId : BitVec 16
/-- The firmware release in DEV_ID (R453): major, minor, build. -/
opaque Config.fwMajor : BitVec 8
opaque Config.fwMinor : BitVec 8
opaque Config.fwBuild : BitVec 16
/-- A 64-bit random number of the security block; the argument is the model's own counter. -/
opaque Config.random64 : Nat → W64
/-- Random bytes of the security block. -/
opaque Config.randomBytes : Nat → Nat → List Byte
/-- An ECDSA P-384 signature by the device key over a message, as r and s; the first argument is the model's own counter. -/
opaque Config.deviceSign : Nat → List Byte → List Byte
/-- SHA-384 of the steward image of a release, and of the security block's ROM and fuses (R590). -/
opaque Config.fwDigest : Nat → List Byte
opaque Config.romDigest : List Byte
/-- The address strap of the management bus (R608). -/
opaque Config.addrStrap : BitVec 3
/-- The device certificate chain, and the device certificate at its end. -/
opaque Config.deviceCert : List Byte
opaque Config.certChain : List Byte
/-- A public point of a fresh ephemeral key pair (R596). -/
opaque Config.ephemeralPoint : Nat → List Byte
/-- The shared secret of an ephemeral key with a peer's point (R596). -/
opaque Config.sharedSecret : Nat → List Byte → List Byte

end Sys2Proof
end

