-- ==== Sys2Proof/Machine/Bits.lean ====
section
/-! DEFINITION. Bit fields, sign extension and little-endian byte order, in one place each. -/
namespace Sys2Proof.Machine

/-- Bits [hi:lo] of a natural number. -/
def bits (x hi lo : Nat) : Nat := (x >>> lo) % 2 ^ (hi + 1 - lo)

/-- Bit i of a natural number. -/
def bit (x i : Nat) : Bool := x.testBit i

/-- Bits [hi:lo] of a 64-bit word, as a number. -/
def fld (w : W64) (hi lo : Nat) : Nat := bits w.toNat hi lo

/-- Bit i of a 64-bit word. -/
def fbit (w : W64) (i : Nat) : Bool := w.getLsbD i

/-- A mask of ones at [hi:lo] in a 64-bit word. -/
def maskOf (hi lo : Nat) : W64 := BitVec.ofNat 64 ((2 ^ (hi + 1 - lo) - 1) <<< lo)

/-- The bits of `a` where the mask is 0, those of `b` where it is 1. -/
def mix (mask a b : W64) : W64 := (a &&& ~~~mask) ||| (b &&& mask)

/-- Bits [hi:lo] of a 64-bit word replaced by a number. -/
def setFld (w : W64) (hi lo v : Nat) : W64 :=
  mix (maskOf hi lo) w (BitVec.ofNat 64 (v <<< lo))

/-- One bit of a 64-bit word set to a Bool. -/
def setBit (w : W64) (i : Nat) (b : Bool) : W64 := setFld w i i (if b then 1 else 0)

/-- A 64-bit word built from (lowest bit, value) parts. -/
def word (parts : List (Nat × Nat)) : W64 :=
  BitVec.ofNat 64 (parts.foldl (fun a p => a + (p.2 <<< p.1)) 0)

/-- The number of a Bool. -/
def b2n (b : Bool) : Nat := if b then 1 else 0

/-- A list of bytes, lowest address first, as a little-endian number. -/
def leNat : List Byte → Nat
  | [] => 0
  | b :: r => b.toNat + 256 * leNat r

/-- The n little-endian bytes of a number. -/
def leBytes : Nat → Nat → List Byte
  | 0, _ => []
  | n + 1, x => BitVec.ofNat 8 x :: leBytes n (x / 256)

/-- The little-endian n-byte field at an offset of a byte string; absent bytes read as zero. -/
def leAt (bs : List Byte) (off n : Nat) : Nat := leNat ((bs.drop off).take n)

/-- The smallest whole number at or above a quotient. -/
def ceilDiv (a b : Nat) : Nat := (a + b - 1) / b

/-- The exponent of the least power of two at or above a number. -/
def log2Up (n : Nat) : Nat := if n ≤ 1 then 0 else Nat.log2 (n - 1) + 1

/-- A number read as a w-bit two's-complement integer. -/
def toSigned (w x : Nat) : Int := if 2 ^ (w - 1) ≤ x % 2 ^ w then (x % 2 ^ w : Nat) - (2 ^ w : Nat) else (x % 2 ^ w : Nat)

/-- An integer written in w bits of two's complement. -/
def ofSigned (w : Nat) (x : Int) : Nat := (x % (2 ^ w : Nat)).toNat

end Sys2Proof.Machine
end

