-- ==== Sys2Proof/Machine/RegTable.lean ====
section
/-! DEFINITION. The register tables of every page class: for each register its offsets, and for each field its bits, access
type and reset value, as the owning chapters of the manual table them. Bits that no field covers are reserved (R5). -/
namespace Sys2Proof.Machine

/-- The access types of R4. -/
inductive Acc where
  | ro | rw | w1c | rc | gw | sl
  deriving DecidableEq, Repr

/-- One field of a register: bits [hi:lo], access type, reset value. -/
structure FieldDef where
  hi  : Nat
  lo  : Nat
  acc : Acc
  rst : Nat
  deriving DecidableEq, Repr

/-- On which pages of its class a register exists (R359, R381, R401, R497, R517, R567, R599). -/
inductive Where where
  | every | die0 | hosts | mire0 | mire00
  deriving DecidableEq, Repr

/-- One register, or one array of registers: its base offset, the (stride, count) of each index, and its fields. -/
structure RegDef where
  name   : String
  base   : Nat
  dims   : List (Nat × Nat)
  on     : Where
  fields : List FieldDef
  deriving DecidableEq, Repr

/-- The registers of a CRU page (R101, R103, R104, R105, R106, R107, R108, R109, R110). -/
def Reg.tableCRU : List RegDef := [
  ⟨"CRU_CTL", 0x100, [], .every, [⟨15, 0, .sl, 0x1000⟩, ⟨16, 16, .gw, 0x0⟩]⟩,
  ⟨"CRU_STAT", 0x108, [], .every, [⟨7, 0, .ro, 0x0⟩, ⟨15, 8, .ro, 0x0⟩, ⟨16, 16, .w1c, 0x0⟩]⟩,
  ⟨"SB_STAT", 0x110, [], .every, [⟨6, 0, .ro, 0x0⟩, ⟨14, 8, .rc, 0x0⟩]⟩,
  ⟨"SENT_LAST", 0x118, [], .every, [⟨11, 0, .ro, 0x0⟩, ⟨19, 12, .ro, 0x0⟩, ⟨25, 20, .ro, 0x0⟩, ⟨27, 26, .ro, 0x0⟩, ⟨28, 28, .ro, 0x0⟩, ⟨63, 32, .ro, 0x0⟩]⟩,
  ⟨"SENT_NORM", 0x120, [], .every, [⟨31, 0, .ro, 0x0⟩, ⟨37, 32, .ro, 0x0⟩]⟩,
  ⟨"TASK_CTL", 0x200, [(0x40, 8)], .every, [⟨0, 0, .gw, 0x0⟩, ⟨1, 1, .gw, 0x0⟩, ⟨2, 2, .gw, 0x0⟩, ⟨4, 3, .sl, 0x0⟩]⟩,
  ⟨"TASK_STAT", 0x208, [(0x40, 8)], .every, [⟨2, 0, .ro, 0x0⟩, ⟨6, 4, .ro, 0x0⟩, ⟨15, 8, .ro, 0x0⟩]⟩,
  ⟨"TASK_ENTRY", 0x210, [(0x40, 8)], .every, [⟨47, 0, .sl, 0x0⟩]⟩,
  ⟨"TASK_FLAGS", 0x218, [(0x40, 8)], .every, [⟨0, 0, .w1c, 0x0⟩, ⟨1, 1, .w1c, 0x0⟩, ⟨2, 2, .w1c, 0x0⟩, ⟨3, 3, .w1c, 0x0⟩, ⟨4, 4, .w1c, 0x0⟩]⟩,
  ⟨"TASK_FAULT", 0x220, [(0x40, 8)], .every, [⟨7, 0, .ro, 0x0⟩, ⟨10, 8, .ro, 0x0⟩, ⟨12, 11, .ro, 0x0⟩, ⟨19, 16, .ro, 0x0⟩, ⟨63, 32, .ro, 0x0⟩]⟩,
  ⟨"TASK_FADDR", 0x228, [(0x40, 8)], .every, [⟨47, 0, .ro, 0x0⟩]⟩,
  ⟨"TASK_FPC", 0x230, [(0x40, 8)], .every, [⟨47, 0, .ro, 0x0⟩]⟩,
  ⟨"TASK_PC", 0x238, [(0x40, 8)], .every, [⟨47, 0, .ro, 0x0⟩]⟩,
  ⟨"SENT_BAND", 0x400, [(0x10, 64)], .every, [⟨31, 0, .sl, 0x0⟩, ⟨63, 32, .sl, 0x7f800000⟩]⟩,
  ⟨"SENT_CTL", 0x408, [(0x10, 64)], .every, [⟨0, 0, .sl, 0x0⟩, ⟨2, 1, .sl, 0x0⟩, ⟨4, 3, .sl, 0x0⟩, ⟨14, 5, .sl, 0x0⟩, ⟨15, 15, .sl, 0x0⟩]⟩,
  ⟨"SEG_BASE", 0x800, [(0x40, 8), (0x10, 4)], .every, [⟨47, 0, .sl, 0x0⟩, ⟨50, 48, .sl, 0x0⟩]⟩,
  ⟨"SEG_LIM", 0x808, [(0x40, 8), (0x10, 4)], .every, [⟨45, 0, .sl, 0x0⟩, ⟨48, 48, .sl, 0x0⟩, ⟨49, 49, .sl, 0x0⟩, ⟨50, 50, .sl, 0x0⟩]⟩]

/-- The registers of a GATE page (R140). -/
def Reg.tableGATE : List RegDef := [
  ⟨"GATE_TMO0", 0x100, [], .every, [⟨31, 0, .sl, 0x186a0⟩]⟩,
  ⟨"GATE_TMO1", 0x108, [], .every, [⟨31, 0, .sl, 0xf4240⟩]⟩,
  ⟨"GATE_TMO2", 0x110, [], .every, [⟨31, 0, .sl, 0x989680⟩]⟩,
  ⟨"GATE_TMO3", 0x118, [], .every, [⟨31, 0, .sl, 0x0⟩]⟩,
  ⟨"GATE_IDX", 0x120, [], .every, [⟨9, 0, .rw, 0x0⟩]⟩,
  ⟨"GATE_VAL", 0x128, [], .every, [⟨31, 0, .rw, 0x0⟩]⟩,
  ⟨"GATE_TOLAST", 0x130, [], .every, [⟨9, 0, .ro, 0x0⟩, ⟨11, 10, .ro, 0x0⟩, ⟨14, 12, .ro, 0x0⟩, ⟨63, 32, .ro, 0x0⟩]⟩]

/-- The registers of a POOL page (R203). -/
def Reg.tablePOOL : List RegDef := [
  ⟨"POOL_CTL", 0x100, [], .every, [⟨0, 0, .sl, 0x1⟩, ⟨31, 16, .sl, 0x258⟩]⟩,
  ⟨"POOL_STAT", 0x108, [], .every, [⟨3, 0, .ro, 0xf⟩]⟩,
  ⟨"POOL_ECC_ADDR", 0x110, [], .every, [⟨24, 3, .ro, 0x0⟩, ⟨26, 25, .ro, 0x0⟩, ⟨29, 27, .ro, 0x0⟩]⟩,
  ⟨"POOL_ECC_INFO", 0x118, [], .every, [⟨0, 0, .ro, 0x0⟩, ⟨1, 1, .ro, 0x0⟩, ⟨2, 2, .ro, 0x0⟩, ⟨15, 8, .ro, 0x0⟩, ⟨63, 32, .ro, 0x0⟩]⟩,
  ⟨"CSLOT_SEL", 0x120, [], .every, [⟨4, 0, .rw, 0x0⟩, ⟨25, 16, .rw, 0x0⟩]⟩,
  ⟨"CSLOT_STATE", 0x128, [], .every, [⟨1, 0, .gw, 0x0⟩]⟩,
  ⟨"CREG_BASE", 0x200, [(0x10, 32)], .every, [⟨24, 12, .sl, 0x0⟩, ⟨42, 32, .sl, 0x0⟩]⟩,
  ⟨"CREG_CTL", 0x208, [(0x10, 32)], .every, [⟨0, 0, .sl, 0x0⟩, ⟨1, 1, .sl, 0x0⟩, ⟨63, 32, .sl, 0x186a0⟩]⟩]

/-- The registers of a PEAT page (R205). -/
def Reg.tablePEAT : List RegDef := [
  ⟨"PEAT_CTL", 0x100, [], .every, [⟨0, 0, .sl, 0x1⟩, ⟨31, 16, .sl, 0xe10⟩, ⟨39, 32, .sl, 0x40⟩]⟩,
  ⟨"PEAT_STAT", 0x108, [], .every, [⟨7, 0, .ro, 0x0⟩, ⟨14, 8, .ro, 0x0⟩]⟩,
  ⟨"PEAT_ECC_ADDR", 0x110, [], .every, [⟨32, 3, .ro, 0x0⟩, ⟨35, 33, .ro, 0x0⟩]⟩,
  ⟨"PEAT_ECC_INFO", 0x118, [], .every, [⟨0, 0, .ro, 0x0⟩, ⟨1, 1, .ro, 0x0⟩, ⟨2, 2, .ro, 0x0⟩, ⟨15, 8, .ro, 0x0⟩, ⟨63, 32, .ro, 0x0⟩]⟩,
  ⟨"CSLOT_SEL", 0x120, [], .every, [⟨3, 0, .rw, 0x0⟩, ⟨29, 16, .rw, 0x0⟩]⟩,
  ⟨"CSLOT_STATE", 0x128, [], .every, [⟨1, 0, .gw, 0x0⟩]⟩,
  ⟨"CREG_BASE", 0x200, [(0x10, 16)], .every, [⟨32, 12, .sl, 0x0⟩, ⟨47, 33, .sl, 0x0⟩]⟩,
  ⟨"CREG_CTL", 0x208, [(0x10, 16)], .every, [⟨0, 0, .sl, 0x0⟩, ⟨1, 1, .sl, 0x0⟩, ⟨63, 32, .sl, 0x186a0⟩]⟩]

/-- The registers of a STREAM page (R271). -/
def Reg.tableSTREAM : List RegDef := [
  ⟨"STRM_SEL", 0x100, [], .every, [⟨11, 0, .rw, 0x0⟩]⟩,
  ⟨"STRM_CANCEL", 0x108, [], .every, [⟨11, 0, .rw, 0x0⟩, ⟨19, 12, .rw, 0x0⟩, ⟨20, 20, .rw, 0x0⟩]⟩,
  ⟨"STRM_STAT", 0x110, [], .every, [⟨12, 0, .ro, 0x0⟩, ⟨25, 13, .ro, 0x0⟩]⟩]

/-- The registers of a POLDER page (R273, R547). -/
def Reg.tablePOLDER : List RegDef := [
  ⟨"POLD_LOOP", 0x100, [(0x40, 8)], .every, [⟨15, 0, .sl, 0x0⟩, ⟨31, 16, .ro, 0x0⟩, ⟨47, 32, .ro, 0x0⟩, ⟨56, 48, .sl, 0x0⟩]⟩,
  ⟨"POLD_CLASS", 0x108, [(0x40, 8)], .every, [⟨7, 0, .sl, 0x1⟩, ⟨15, 8, .sl, 0x2⟩, ⟨23, 16, .sl, 0x4⟩]⟩,
  ⟨"POLD_DRAFT", 0x110, [(0x40, 8)], .every, [⟨2, 0, .sl, 0x0⟩, ⟨3, 3, .sl, 0x0⟩, ⟨63, 32, .sl, 0xc350⟩]⟩,
  ⟨"POLD_STAT", 0x118, [(0x40, 8)], .every, [⟨15, 0, .ro, 0x0⟩, ⟨28, 16, .ro, 0x0⟩]⟩,
  ⟨"POLD_KV", 0x120, [(0x40, 8)], .every, [⟨40, 0, .sl, 0x0⟩, ⟨63, 48, .sl, 0x0⟩]⟩,
  ⟨"BED_SEL", 0x400, [], .every, [⟨7, 0, .rw, 0x0⟩]⟩,
  ⟨"BED_CFG0", 0x408, [], .every, [⟨2, 0, .sl, 0x0⟩, ⟨10, 3, .sl, 0x0⟩, ⟨11, 11, .sl, 0x0⟩, ⟨12, 12, .sl, 0x0⟩, ⟨19, 13, .sl, 0x0⟩, ⟨26, 20, .sl, 0x0⟩, ⟨33, 27, .sl, 0x0⟩, ⟨40, 34, .sl, 0x0⟩, ⟨47, 41, .sl, 0x0⟩, ⟨48, 48, .sl, 0x0⟩]⟩,
  ⟨"BED_CFG1", 0x410, [], .every, [⟨9, 0, .sl, 0x0⟩, ⟨19, 10, .sl, 0x0⟩, ⟨21, 20, .sl, 0x0⟩, ⟨63, 32, .sl, 0x186a0⟩]⟩,
  ⟨"BED_STAT", 0x418, [], .every, [⟨6, 0, .ro, 0x0⟩, ⟨13, 7, .ro, 0x0⟩, ⟨14, 14, .ro, 0x0⟩, ⟨15, 15, .w1c, 0x0⟩, ⟨63, 32, .ro, 0x0⟩]⟩,
  ⟨"BED_CFG2", 0x420, [], .every, [⟨20, 0, .sl, 0x0⟩, ⟨41, 21, .sl, 0x0⟩, ⟨49, 42, .sl, 0x0⟩]⟩,
  ⟨"BED_CFG3", 0x428, [], .every, [⟨20, 0, .sl, 0x0⟩, ⟨41, 21, .sl, 0x0⟩, ⟨63, 42, .sl, 0x0⟩]⟩,
  ⟨"RC_STAT", 0x500, [(0x40, 8)], .every, [⟨2, 0, .ro, 0x0⟩, ⟨15, 8, .ro, 0x0⟩, ⟨22, 16, .ro, 0x0⟩, ⟨27, 24, .ro, 0x0⟩, ⟨31, 28, .ro, 0x0⟩, ⟨63, 32, .ro, 0x0⟩]⟩,
  ⟨"RC_TIME", 0x508, [(0x40, 8)], .every, [⟨31, 0, .ro, 0x0⟩, ⟨63, 32, .rc, 0x0⟩]⟩,
  ⟨"RC_CTL", 0x510, [(0x40, 8)], .every, [⟨0, 0, .gw, 0x0⟩, ⟨15, 8, .sl, 0x14⟩, ⟨23, 16, .sl, 0x8⟩, ⟨24, 24, .sl, 0x1⟩]⟩,
  ⟨"REFILL", 0x518, [(0x40, 8)], .every, [⟨40, 0, .sl, 0x0⟩]⟩,
  ⟨"RC_TILE", 0x740, [], .every, [⟨6, 0, .rw, 0x0⟩, ⟨9, 8, .rw, 0x0⟩, ⟨12, 12, .gw, 0x0⟩]⟩,
  ⟨"TSTATE", 0x700, [(0x8, 5)], .every, [⟨3, 0, .ro, 0x0⟩, ⟨7, 4, .ro, 0x0⟩, ⟨11, 8, .ro, 0x0⟩, ⟨15, 12, .ro, 0x0⟩, ⟨19, 16, .ro, 0x0⟩, ⟨23, 20, .ro, 0x0⟩, ⟨27, 24, .ro, 0x0⟩, ⟨31, 28, .ro, 0x0⟩, ⟨35, 32, .ro, 0x0⟩, ⟨39, 36, .ro, 0x0⟩, ⟨43, 40, .ro, 0x0⟩, ⟨47, 44, .ro, 0x0⟩, ⟨51, 48, .ro, 0x0⟩, ⟨55, 52, .ro, 0x0⟩, ⟨59, 56, .ro, 0x0⟩, ⟨63, 60, .ro, 0x0⟩]⟩]

/-- The registers of a RIDDLE page (R310). -/
def Reg.tableRIDDLE : List RegDef := [
  ⟨"RID_CTL", 0x100, [], .every, [⟨0, 0, .gw, 0x0⟩, ⟨3, 1, .sl, 0x0⟩, ⟨12, 4, .gw, 0x0⟩]⟩,
  ⟨"RID_STAT", 0x108, [], .every, [⟨8, 0, .ro, 0x0⟩]⟩,
  ⟨"RID_VOCAB", 0x110, [], .every, [⟨18, 0, .sl, 0x0⟩]⟩,
  ⟨"RID_LIST", 0x118, [], .every, [⟨6, 0, .sl, 0x0⟩, ⟨14, 8, .sl, 0x0⟩, ⟨22, 16, .sl, 0x0⟩, ⟨30, 24, .sl, 0x0⟩, ⟨38, 32, .sl, 0x0⟩, ⟨46, 40, .sl, 0x0⟩, ⟨54, 48, .sl, 0x0⟩, ⟨62, 56, .sl, 0x0⟩, ⟨7, 7, .sl, 0x0⟩, ⟨15, 15, .sl, 0x0⟩, ⟨23, 23, .sl, 0x0⟩, ⟨31, 31, .sl, 0x0⟩, ⟨39, 39, .sl, 0x0⟩, ⟨47, 47, .sl, 0x0⟩, ⟨55, 55, .sl, 0x0⟩, ⟨63, 63, .sl, 0x0⟩]⟩,
  ⟨"RST_BASE", 0x120, [], .every, [⟨32, 0, .sl, 0x0⟩]⟩,
  ⟨"PLACE_BASE", 0x128, [], .every, [⟨32, 0, .sl, 0x0⟩]⟩,
  ⟨"MASK_BASE", 0x130, [], .every, [⟨32, 0, .sl, 0x0⟩]⟩,
  ⟨"RID_MASK_CTL", 0x138, [], .every, [⟨8, 0, .sl, 0x0⟩]⟩,
  ⟨"RID_PART_TMO", 0x140, [], .every, [⟨31, 0, .sl, 0x186a0⟩]⟩,
  ⟨"DRAFT_CTL", 0x148, [], .every, [⟨3, 0, .sl, 0x2⟩, ⟨10, 4, .sl, 0x4⟩, ⟨31, 16, .sl, 0x3c23⟩]⟩,
  ⟨"NGRAM_CTL", 0x150, [], .every, [⟨2, 0, .sl, 0x2⟩, ⟨7, 4, .sl, 0x4⟩]⟩,
  ⟨"RID_LAST", 0x158, [], .every, [⟨11, 0, .ro, 0x0⟩, ⟨19, 12, .ro, 0x0⟩, ⟨23, 20, .ro, 0x0⟩, ⟨63, 32, .ro, 0x0⟩]⟩,
  ⟨"EOS", 0x200, [(0x8, 8)], .every, [⟨17, 0, .sl, 0x0⟩, ⟨31, 31, .sl, 0x0⟩]⟩,
  ⟨"GRAM_BASE", 0x400, [(0x10, 64)], .every, [⟨32, 0, .sl, 0x0⟩]⟩,
  ⟨"GRAM_CTL", 0x408, [(0x10, 64)], .every, [⟨0, 0, .sl, 0x0⟩, ⟨63, 32, .ro, 0x0⟩]⟩]

/-- The registers of a CETIS page (R335). -/
def Reg.tableCETIS : List RegDef := [
  ⟨"CETIS_CTL", 0x100, [], .every, [⟨2, 0, .sl, 0x0⟩, ⟨3, 3, .sl, 0x0⟩, ⟨15, 8, .sl, 0x4⟩, ⟨21, 16, .sl, 0x8⟩, ⟨29, 24, .sl, 0x10⟩, ⟨39, 32, .sl, 0x1⟩, ⟨47, 40, .sl, 0x2⟩, ⟨55, 48, .sl, 0x4⟩]⟩,
  ⟨"CETIS_STAT", 0x108, [], .every, [⟨5, 0, .ro, 0x0⟩]⟩,
  ⟨"PORT_FENCE", 0x110, [], .every, [⟨4, 0, .gw, 0x0⟩]⟩,
  ⟨"EPOCH", 0x118, [], .every, [⟨3, 0, .ro, 0x0⟩, ⟨7, 4, .ro, 0x0⟩, ⟨11, 8, .ro, 0x0⟩, ⟨15, 12, .ro, 0x0⟩, ⟨19, 16, .ro, 0x0⟩, ⟨23, 20, .ro, 0x0⟩, ⟨27, 24, .ro, 0x0⟩, ⟨31, 28, .ro, 0x0⟩]⟩,
  ⟨"LANES", 0x120, [], .every, [⟨7, 0, .ro, 0x0⟩, ⟨15, 8, .ro, 0x0⟩, ⟨23, 16, .ro, 0x0⟩, ⟨31, 24, .ro, 0x0⟩, ⟨39, 32, .ro, 0x0⟩]⟩,
  ⟨"SLOT_SEL", 0x128, [], .every, [⟨2, 0, .rw, 0x0⟩, ⟨14, 8, .rw, 0x0⟩]⟩,
  ⟨"SLOT_MAP", 0x130, [], .every, [⟨6, 0, .gw, 0x0⟩, ⟨7, 7, .gw, 0x0⟩]⟩,
  ⟨"ROUTE_SEL", 0x138, [], .every, [⟨6, 0, .rw, 0x0⟩, ⟨8, 8, .rw, 0x0⟩]⟩,
  ⟨"ROUTE", 0x140, [], .every, [⟨2, 0, .gw, 0x7⟩]⟩,
  ⟨"RIM_GW", 0x148, [], .every, [⟨6, 0, .gw, 0x0⟩, ⟨14, 8, .gw, 0x0⟩, ⟨22, 16, .gw, 0x0⟩, ⟨30, 24, .gw, 0x0⟩, ⟨38, 32, .gw, 0x0⟩, ⟨46, 40, .gw, 0x0⟩, ⟨54, 48, .gw, 0x0⟩, ⟨62, 56, .gw, 0x0⟩]⟩,
  ⟨"DROP_LAST", 0x150, [], .every, [⟨7, 0, .ro, 0x0⟩, ⟨15, 8, .ro, 0x0⟩, ⟨18, 16, .ro, 0x0⟩, ⟨22, 19, .ro, 0x0⟩, ⟨25, 23, .ro, 0x0⟩, ⟨63, 32, .ro, 0x0⟩]⟩]

/-- The registers of a MIRE page (R359). -/
def Reg.tableMIRE : List RegDef := [
  ⟨"MIRE_CTL", 0x100, [], .every, [⟨0, 0, .sl, 0x1⟩, ⟨1, 1, .sl, 0x1⟩, ⟨31, 16, .sl, 0x5a0⟩, ⟨39, 32, .sl, 0x20⟩]⟩,
  ⟨"MIRE_STAT", 0x108, [], .every, [⟨1, 0, .ro, 0x0⟩, ⟨2, 2, .ro, 0x0⟩, ⟨15, 8, .ro, 0x0⟩]⟩,
  ⟨"MIRE_ECC_ADDR", 0x110, [], .every, [⟨35, 0, .ro, 0x0⟩, ⟨41, 36, .ro, 0x0⟩]⟩,
  ⟨"MIRE_ECC_INFO", 0x118, [], .every, [⟨0, 0, .ro, 0x0⟩, ⟨1, 1, .ro, 0x0⟩, ⟨2, 2, .ro, 0x0⟩, ⟨15, 8, .ro, 0x0⟩, ⟨63, 32, .ro, 0x0⟩]⟩,
  ⟨"PG_ARG0", 0x200, [], .mire0, [⟨32, 0, .rw, 0x0⟩, ⟨46, 40, .rw, 0x0⟩, ⟨50, 48, .rw, 0x0⟩]⟩,
  ⟨"PG_ARG1", 0x208, [], .mire0, [⟨32, 0, .rw, 0x0⟩]⟩,
  ⟨"PG_GO", 0x210, [], .mire0, [⟨0, 0, .rw, 0x0⟩]⟩,
  ⟨"PG_STAT", 0x218, [], .mire0, [⟨6, 0, .ro, 0x0⟩]⟩,
  ⟨"PG_LAST", 0x220, [], .mire0, [⟨32, 0, .ro, 0x0⟩, ⟨46, 40, .ro, 0x0⟩, ⟨50, 48, .ro, 0x0⟩, ⟨54, 52, .ro, 0x0⟩]⟩,
  ⟨"JRN_BASE", 0x300, [], .mire00, [⟨40, 0, .sl, 0x0⟩]⟩,
  ⟨"JRN_CTL", 0x308, [], .mire00, [⟨0, 0, .sl, 0x0⟩, ⟨12, 8, .sl, 0x10⟩]⟩]

/-- The registers of a POUR page (R381). -/
def Reg.tablePOUR : List RegDef := [
  ⟨"POUR_CTL", 0x100, [], .every, [⟨0, 0, .sl, 0x0⟩, ⟨31, 16, .sl, 0xc418⟩, ⟨47, 32, .sl, 0x1f4⟩, ⟨51, 48, .sl, 0x8⟩]⟩,
  ⟨"POUR_STAT", 0x108, [], .every, [⟨15, 0, .ro, 0x0⟩, ⟨25, 16, .ro, 0x0⟩]⟩,
  ⟨"SESS", 0x110, [(0x10, 4)], .every, [⟨31, 0, .ro, 0x0⟩, ⟨34, 32, .ro, 0x0⟩, ⟨35, 35, .ro, 0x0⟩, ⟨39, 36, .ro, 0x0⟩]⟩,
  ⟨"SESS_SEQ", 0x118, [(0x10, 4)], .every, [⟨63, 0, .ro, 0x0⟩]⟩,
  ⟨"POUR_STOP", 0x150, [], .every, [⟨1, 0, .rw, 0x0⟩, ⟨8, 8, .rw, 0x0⟩]⟩,
  ⟨"POUR_LAST", 0x158, [], .every, [⟨3, 0, .ro, 0x0⟩, ⟨5, 4, .ro, 0x0⟩, ⟨31, 8, .ro, 0x0⟩, ⟨63, 32, .ro, 0x0⟩]⟩,
  ⟨"CAST_SRC", 0x300, [], .die0, [⟨1, 0, .rw, 0x0⟩]⟩,
  ⟨"CAST_ADDR", 0x308, [], .die0, [⟨63, 0, .rw, 0x0⟩]⟩,
  ⟨"CAST_LEN", 0x310, [], .die0, [⟨39, 0, .rw, 0x0⟩]⟩,
  ⟨"CAST_GO", 0x318, [], .die0, [⟨0, 0, .gw, 0x0⟩]⟩,
  ⟨"CAST_STAT", 0x320, [], .die0, [⟨2, 0, .ro, 0x0⟩, ⟨7, 4, .ro, 0x0⟩, ⟨9, 8, .ro, 0x0⟩, ⟨63, 32, .ro, 0x0⟩]⟩,
  ⟨"CAST_ID", 0x328, [], .die0, [⟨63, 0, .ro, 0x0⟩]⟩]

/-- The registers of a LADLE page (R383). -/
def Reg.tableLADLE : List RegDef := [
  ⟨"LADLE_CTL", 0x100, [], .every, [⟨11, 0, .sl, 0x800⟩, ⟨27, 16, .sl, 0xa⟩, ⟨39, 32, .sl, 0x64⟩]⟩,
  ⟨"LADLE_STAT", 0x108, [], .every, [⟨16, 0, .ro, 0x0⟩, ⟨48, 32, .rc, 0x0⟩]⟩,
  ⟨"LADLE_ECC", 0x110, [], .every, [⟨25, 3, .ro, 0x0⟩, ⟨26, 26, .ro, 0x0⟩, ⟨63, 32, .ro, 0x0⟩]⟩]

/-- The registers of a HSEM page (R393). -/
def Reg.tableHSEM : List RegDef := [
  ⟨"SEM", 0x100, [(0x8, 16)], .every, [⟨1, 0, .ro, 0x0⟩, ⟨3, 2, .ro, 0x0⟩, ⟨8, 8, .rw, 0x0⟩, ⟨9, 9, .rw, 0x0⟩, ⟨10, 10, .gw, 0x0⟩]⟩]

/-- The registers of a PCIE page (R401). -/
def Reg.tablePCIE : List RegDef := [
  ⟨"PCIE_STAT", 0x100, [], .hosts, [⟨2, 0, .ro, 0x0⟩, ⟨8, 4, .ro, 0x0⟩, ⟨9, 9, .ro, 0x0⟩]⟩,
  ⟨"PCIE_CTL", 0x108, [], .hosts, [⟨2, 0, .sl, 0x6⟩]⟩,
  ⟨"EVT_VEC", 0x110, [], .hosts, [⟨10, 0, .rw, 0x0⟩]⟩,
  ⟨"APER_BASE", 0x118, [], .hosts, [⟨0, 0, .rw, 0x0⟩, ⟨7, 1, .rw, 0x0⟩, ⟨40, 24, .rw, 0x0⟩]⟩,
  ⟨"APER_CTL", 0x120, [], .hosts, [⟨0, 0, .gw, 0x0⟩]⟩,
  ⟨"Q_SEL", 0x200, [], .hosts, [⟨7, 0, .rw, 0x0⟩, ⟨9, 8, .rw, 0x0⟩]⟩,
  ⟨"Q_BASE", 0x208, [], .hosts, [⟨63, 0, .rw, 0x0⟩]⟩,
  ⟨"Q_IDX", 0x210, [], .hosts, [⟨63, 0, .rw, 0x0⟩]⟩,
  ⟨"Q_CFG", 0x218, [], .hosts, [⟨16, 0, .rw, 0x0⟩, ⟨24, 24, .rw, 0x0⟩, ⟨25, 25, .rw, 0x0⟩, ⟨31, 26, .rw, 0x0⟩, ⟨42, 32, .rw, 0x0⟩, ⟨51, 44, .rw, 0x1⟩, ⟨63, 52, .rw, 0x0⟩]⟩,
  ⟨"Q_STAT", 0x220, [], .hosts, [⟨31, 0, .ro, 0x0⟩, ⟨63, 32, .ro, 0x0⟩]⟩,
  ⟨"Q_ERR", 0x228, [], .hosts, [⟨3, 0, .ro, 0x0⟩, ⟨5, 4, .ro, 0x0⟩, ⟨15, 8, .ro, 0x0⟩, ⟨63, 32, .ro, 0x0⟩]⟩,
  ⟨"Q_LOST", 0x230, [], .hosts, [⟨31, 0, .ro, 0x0⟩]⟩]

/-- The registers of a ETH page (R417, R498). -/
def Reg.tableETH : List RegDef := [
  ⟨"ETH_CTL", 0x100, [], .every, [⟨0, 0, .sl, 0x0⟩, ⟨2, 1, .sl, 0x0⟩]⟩,
  ⟨"ETH_STAT", 0x108, [], .every, [⟨0, 0, .ro, 0x0⟩, ⟨2, 1, .ro, 0x0⟩]⟩,
  ⟨"ETH_MAC", 0x110, [], .every, [⟨47, 0, .sl, 0x0⟩]⟩,
  ⟨"ETH_IP6_HI", 0x118, [], .every, [⟨63, 0, .sl, 0x0⟩]⟩,
  ⟨"ETH_IP6_LO", 0x120, [], .every, [⟨63, 0, .sl, 0x0⟩]⟩,
  ⟨"EG_SRC_PORT", 0x128, [], .every, [⟨15, 0, .sl, 0xc419⟩]⟩,
  ⟨"EP_DST_HI", 0x200, [(0x20, 16)], .every, [⟨63, 0, .rw, 0x0⟩]⟩,
  ⟨"EP_DST_LO", 0x208, [(0x20, 16)], .every, [⟨63, 0, .rw, 0x0⟩]⟩,
  ⟨"EP_CFG0", 0x210, [(0x20, 16)], .every, [⟨47, 0, .rw, 0x0⟩, ⟨63, 48, .rw, 0x0⟩]⟩,
  ⟨"EP_CFG1", 0x218, [(0x20, 16)], .every, [⟨0, 0, .rw, 0x0⟩, ⟨10, 1, .rw, 0x1⟩, ⟨31, 16, .rw, 0x0⟩, ⟨63, 32, .ro, 0x0⟩]⟩,
  ⟨"PTP_TS", 0x400, [], .every, [⟨63, 0, .ro, 0x0⟩]⟩,
  ⟨"PTP_TS_INFO", 0x408, [], .every, [⟨3, 0, .ro, 0x0⟩, ⟨4, 4, .ro, 0x0⟩]⟩]

/-- The registers of a SEAL page (R442). -/
def Reg.tableSEAL : List RegDef := [
  ⟨"SEAL_CTL", 0x100, [], .every, [⟨0, 0, .gw, 0x0⟩, ⟨2, 1, .gw, 0x1⟩, ⟨3, 3, .gw, 0x0⟩, ⟨4, 4, .gw, 0x0⟩]⟩,
  ⟨"SEAL_REF", 0x108, [], .every, [⟨31, 0, .gw, 0x0⟩]⟩,
  ⟨"SEAL_CUR", 0x110, [], .every, [⟨31, 0, .ro, 0x0⟩, ⟨63, 32, .ro, 0x0⟩]⟩,
  ⟨"SEAL_STAT", 0x118, [], .every, [⟨0, 0, .w1c, 0x0⟩, ⟨1, 1, .ro, 0x0⟩, ⟨63, 32, .ro, 0x0⟩]⟩]

/-- The registers of a TAP page (R447). -/
def Reg.tableTAP : List RegDef := [
  ⟨"TAP_TIME", 0x100, [], .every, [⟨63, 0, .rw, 0x0⟩]⟩,
  ⟨"TAP_NUM", 0x108, [], .every, [⟨15, 0, .rw, 0x0⟩]⟩,
  ⟨"TAP_CTL", 0x110, [], .every, [⟨0, 0, .rw, 0x0⟩, ⟨1, 1, .rw, 0x0⟩]⟩,
  ⟨"TAP_STAT", 0x118, [], .every, [⟨1, 0, .ro, 0x0⟩, ⟨3, 2, .ro, 0x0⟩, ⟨22, 16, .ro, 0x0⟩, ⟨30, 24, .ro, 0x0⟩, ⟨38, 32, .ro, 0x0⟩]⟩]

/-- The registers of a TIME page (R451). -/
def Reg.tableTIME : List RegDef := [
  ⟨"TIME_NOW", 0x100, [], .every, [⟨63, 0, .ro, 0x0⟩]⟩,
  ⟨"TIME_STAT", 0x108, [], .every, [⟨1, 0, .ro, 0x0⟩, ⟨2, 2, .ro, 0x0⟩]⟩,
  ⟨"TIME_SET", 0x110, [], .every, [⟨63, 0, .gw, 0x0⟩]⟩]

/-- The registers of a DEV page (R453). -/
def Reg.tableDEV : List RegDef := [
  ⟨"DEV_ID", 0x100, [], .every, [⟨7, 0, .ro, 0xb0⟩, ⟨23, 16, .ro, 0x0⟩, ⟨31, 24, .ro, 0x0⟩, ⟨47, 32, .ro, 0x0⟩]⟩,
  ⟨"DEV_CTL", 0x108, [], .every, [⟨0, 0, .rw, 0x0⟩, ⟨1, 1, .rw, 0x0⟩]⟩,
  ⟨"EVT_SUM0", 0x110, [], .every, [⟨63, 0, .ro, 0x0⟩]⟩,
  ⟨"EVT_SUM1", 0x118, [], .every, [⟨15, 0, .ro, 0x0⟩, ⟨39, 32, .ro, 0x0⟩, ⟨57, 48, .ro, 0x0⟩]⟩]

/-- The registers of a FLEET page (R455). -/
def Reg.tableFLEET : List RegDef := [
  ⟨"FLEET_ID", 0x100, [], .every, [⟨17, 0, .gw, 0x0⟩]⟩,
  ⟨"FLEET_TAG", 0x108, [], .every, [⟨63, 0, .rw, 0x0⟩]⟩]

/-- The registers of a PWR page (R476). -/
def Reg.tablePWR : List RegDef := [
  ⟨"PWR_DOM", 0x100, [], .every, [⟨15, 0, .ro, 0x0⟩]⟩,
  ⟨"PWR_DOM_REQ", 0x108, [], .every, [⟨15, 0, .gw, 0x0⟩]⟩,
  ⟨"PWR_ILIM", 0x110, [], .every, [⟨9, 0, .ro, 0x3e8⟩, ⟨25, 16, .ro, 0x3e8⟩, ⟨41, 32, .ro, 0x3e8⟩, ⟨57, 48, .ro, 0x3e8⟩]⟩,
  ⟨"PWR_WT", 0x118, [], .every, [⟨7, 0, .gw, 0x10⟩]⟩,
  ⟨"PWR_MEAS", 0x120, [], .every, [⟨11, 0, .ro, 0x0⟩, ⟨24, 16, .ro, 0x0⟩, ⟨47, 32, .ro, 0x0⟩]⟩,
  ⟨"MINV", 0x140, [(0x8, 3)], .every, [⟨11, 0, .ro, 0xfff⟩, ⟨63, 32, .ro, 0x0⟩]⟩,
  ⟨"MINV_CTL", 0x158, [], .every, [⟨2, 0, .rw, 0x0⟩, ⟨27, 16, .sl, 0x0⟩]⟩,
  ⟨"PWR_FAIL", 0x160, [], .every, [⟨2, 0, .ro, 0x0⟩, ⟨63, 32, .ro, 0x0⟩]⟩]

/-- The registers of a TIDE page (R478). -/
def Reg.tableTIDE : List RegDef := [
  ⟨"SRC", 0x100, [(0x10, 3)], .every, [⟨9, 0, .rw, 0x3e8⟩, ⟨17, 10, .rw, 0x0⟩, ⟨31, 18, .rw, 0x0⟩, ⟨47, 32, .rw, 0x0⟩, ⟨48, 48, .rw, 0x0⟩]⟩,
  ⟨"SRC_STAT", 0x108, [(0x10, 3)], .every, [⟨9, 0, .ro, 0x3e8⟩, ⟨17, 10, .ro, 0x0⟩, ⟨18, 18, .ro, 0x0⟩, ⟨47, 32, .ro, 0x0⟩]⟩,
  ⟨"TIDE_EFF", 0x130, [], .every, [⟨9, 0, .ro, 0x3e8⟩, ⟨17, 10, .ro, 0x0⟩, ⟨21, 20, .ro, 0x0⟩]⟩,
  ⟨"TIDE_SAFE", 0x138, [], .every, [⟨9, 0, .sl, 0x1f4⟩, ⟨17, 10, .sl, 0x0⟩]⟩,
  ⟨"TIDE_IN", 0x140, [], .every, [⟨15, 0, .ro, 0x0⟩, ⟨31, 16, .ro, 0x0⟩, ⟨47, 32, .ro, 0x0⟩]⟩,
  ⟨"TIDE_STAT", 0x148, [], .every, [⟨0, 0, .ro, 0x0⟩, ⟨1, 1, .ro, 0x0⟩, ⟨2, 2, .ro, 0x0⟩, ⟨3, 3, .ro, 0x0⟩, ⟨31, 16, .ro, 0x0⟩, ⟨37, 32, .ro, 0x0⟩]⟩,
  ⟨"VMIF_MIN", 0x180, [(0x8, 8)], .every, [⟨11, 0, .ro, 0xfff⟩, ⟨63, 32, .ro, 0x0⟩]⟩,
  ⟨"VMIF_REARM", 0x1c0, [], .every, [⟨7, 0, .rw, 0x0⟩]⟩,
  ⟨"SLUICE_DOM", 0x200, [(0x8, 8)], .every, [⟨19, 0, .ro, 0x0⟩]⟩,
  ⟨"SLUICE_DOM_REQ", 0x240, [(0x8, 8)], .every, [⟨19, 0, .gw, 0x0⟩]⟩]

/-- The registers of a CLK page (R496). -/
def Reg.tableCLK : List RegDef := [
  ⟨"CLK_CTL", 0x100, [], .every, [⟨7, 0, .sl, 0x28⟩, ⟨8, 8, .sl, 0x0⟩]⟩,
  ⟨"CLK_PARENT", 0x108, [], .every, [⟨2, 0, .ro, 0x7⟩, ⟨6, 4, .ro, 0x7⟩, ⟨8, 8, .ro, 0x0⟩, ⟨9, 9, .ro, 0x0⟩]⟩,
  ⟨"CRU_FREQ", 0x110, [(0x8, 4)], .every, [⟨11, 0, .ro, 0x0⟩, ⟨27, 16, .ro, 0x0⟩, ⟨28, 28, .ro, 0x0⟩, ⟨29, 29, .ro, 0x0⟩, ⟨30, 30, .ro, 0x0⟩]⟩,
  ⟨"LINK_DLY", 0x140, [(0x8, 5)], .every, [⟨15, 0, .ro, 0x0⟩]⟩,
  ⟨"TIME_ERR", 0x168, [], .every, [⟨15, 0, .ro, 0x0⟩]⟩]

/-- The registers of a STEW page (R497, R567). -/
def Reg.tableSTEW : List RegDef := [
  ⟨"REF_CTL", 0x800, [], .die0, [⟨1, 0, .sl, 0x0⟩]⟩,
  ⟨"REF_STAT", 0x808, [], .die0, [⟨1, 0, .ro, 0x0⟩, ⟨2, 2, .ro, 0x0⟩]⟩,
  ⟨"PTP_CTL", 0x810, [], .die0, [⟨3, 0, .sl, 0x0⟩, ⟨4, 4, .sl, 0x0⟩, ⟨15, 8, .sl, 0x0⟩]⟩,
  ⟨"TIME_RATE", 0x818, [], .die0, [⟨31, 0, .ro, 0x0⟩]⟩,
  ⟨"PTP_OFS", 0x820, [], .die0, [⟨63, 0, .ro, 0x0⟩]⟩,
  ⟨"PTP_PATH", 0x828, [], .die0, [⟨31, 0, .ro, 0x0⟩]⟩,
  ⟨"STEW_STAT", 0x100, [], .every, [⟨1, 0, .ro, 0x0⟩, ⟨2, 2, .ro, 0x0⟩]⟩,
  ⟨"BOOT_STAT", 0x108, [], .die0, [⟨3, 0, .ro, 0x0⟩, ⟨47, 16, .ro, 0x0⟩, ⟨63, 48, .ro, 0x0⟩]⟩,
  ⟨"SITE_SEL", 0x120, [], .die0, [⟨6, 0, .rw, 0x0⟩]⟩,
  ⟨"SITE_ENT", 0x128, [], .die0, [⟨3, 0, .ro, 0x0⟩, ⟨6, 4, .ro, 0x0⟩, ⟨7, 7, .ro, 0x0⟩, ⟨15, 8, .ro, 0x0⟩, ⟨55, 16, .ro, 0x0⟩]⟩,
  ⟨"SITE_SUM", 0x140, [(0x8, 5)], .die0, [⟨3, 0, .ro, 0x0⟩, ⟨7, 4, .ro, 0x0⟩, ⟨11, 8, .ro, 0x0⟩, ⟨15, 12, .ro, 0x0⟩, ⟨19, 16, .ro, 0x0⟩, ⟨23, 20, .ro, 0x0⟩, ⟨27, 24, .ro, 0x0⟩, ⟨31, 28, .ro, 0x0⟩, ⟨35, 32, .ro, 0x0⟩, ⟨39, 36, .ro, 0x0⟩, ⟨43, 40, .ro, 0x0⟩, ⟨47, 44, .ro, 0x0⟩, ⟨51, 48, .ro, 0x0⟩, ⟨55, 52, .ro, 0x0⟩, ⟨59, 56, .ro, 0x0⟩, ⟨63, 60, .ro, 0x0⟩]⟩,
  ⟨"MARGIN", 0x180, [], .die0, [⟨9, 0, .ro, 0x0⟩, ⟨22, 16, .ro, 0x0⟩, ⟨47, 32, .ro, 0xffff⟩]⟩]

/-- The registers of a THERM page (R515). -/
def Reg.tableTHERM : List RegDef := [
  ⟨"THERM_T", 0x100, [(0x8, 10)], .every, [⟨11, 0, .ro, 0x0⟩, ⟨13, 12, .ro, 0x0⟩, ⟨14, 14, .w1c, 0x0⟩, ⟨15, 15, .ro, 0x0⟩, ⟨27, 16, .rc, 0x0⟩]⟩,
  ⟨"THERM_SUM", 0x150, [], .every, [⟨11, 0, .ro, 0x0⟩, ⟨15, 12, .ro, 0xf⟩, ⟨18, 16, .ro, 0x6⟩, ⟨22, 19, .ro, 0xa⟩, ⟨24, 23, .ro, 0x0⟩]⟩,
  ⟨"QUENCH", 0x158, [], .every, [⟨9, 0, .ro, 0x3e8⟩, ⟨11, 10, .ro, 0x0⟩, ⟨63, 32, .ro, 0x0⟩]⟩]

/-- The registers of a TRAY page (R517). -/
def Reg.tableTRAY : List RegDef := [
  ⟨"DIE_T", 0x100, [(0x8, 8)], .every, [⟨11, 0, .ro, 0x0⟩, ⟨13, 12, .ro, 0x0⟩, ⟨14, 14, .w1c, 0x0⟩, ⟨15, 15, .ro, 0x0⟩, ⟨27, 16, .rc, 0x0⟩]⟩,
  ⟨"STACK_T", 0x140, [(0x8, 4)], .every, [⟨11, 0, .ro, 0x0⟩, ⟨13, 12, .ro, 0x0⟩, ⟨14, 14, .w1c, 0x0⟩, ⟨15, 15, .ro, 0x0⟩, ⟨27, 16, .rc, 0x0⟩]⟩,
  ⟨"DIE_SUM", 0x160, [], .every, [⟨0, 0, .ro, 0x0⟩, ⟨4, 1, .ro, 0x0⟩]⟩,
  ⟨"TRAY_TEMP", 0x200, [], .die0, [⟨15, 0, .ro, 0x0⟩, ⟨31, 16, .ro, 0x0⟩]⟩,
  ⟨"TRAY_FLOW", 0x208, [], .die0, [⟨15, 0, .ro, 0x0⟩]⟩,
  ⟨"TRAY_HEAT", 0x210, [], .die0, [⟨15, 0, .ro, 0x0⟩, ⟨31, 16, .ro, 0x0⟩, ⟨47, 32, .ro, 0x0⟩]⟩,
  ⟨"TRAY_CTL", 0x218, [], .die0, [⟨9, 0, .sl, 0x3ca⟩, ⟨31, 16, .rw, 0x0⟩]⟩,
  ⟨"TRAY_STAT", 0x220, [], .die0, [⟨0, 0, .ro, 0x0⟩, ⟨1, 1, .ro, 0x0⟩, ⟨2, 2, .ro, 0x0⟩, ⟨3, 3, .ro, 0x0⟩, ⟨4, 4, .ro, 0x0⟩, ⟨5, 5, .ro, 0x0⟩]⟩,
  ⟨"SHUT_CTL", 0x228, [], .die0, [⟨0, 0, .sl, 0x1⟩, ⟨1, 1, .ro, 0x0⟩, ⟨2, 2, .gw, 0x0⟩]⟩,
  ⟨"SHUT_LAST", 0x230, [], .die0, [⟨7, 0, .ro, 0x0⟩, ⟨11, 8, .ro, 0x0⟩, ⟨27, 16, .ro, 0x0⟩, ⟨31, 28, .ro, 0x0⟩, ⟨63, 32, .ro, 0x0⟩]⟩]

/-- The registers of a FAULT page (R546). -/
def Reg.tableFAULT : List RegDef := [
  ⟨"FAULT_REC", 0x100, [], .every, [⟨7, 0, .ro, 0x0⟩, ⟨10, 8, .ro, 0x0⟩, ⟨12, 11, .ro, 0x0⟩, ⟨63, 32, .ro, 0x0⟩]⟩,
  ⟨"FAULT_INFO", 0x108, [], .every, [⟨31, 0, .ro, 0x0⟩, ⟨35, 32, .ro, 0x0⟩, ⟨39, 36, .ro, 0x0⟩]⟩]

/-- The registers of a AGE page (R569). -/
def Reg.tableAGE : List RegDef := [
  ⟨"AGE_CTL", 0x100, [], .every, [⟨15, 0, .sl, 0x258⟩, ⟨23, 16, .sl, 0x3c⟩, ⟨31, 24, .sl, 0x32⟩, ⟨39, 32, .sl, 0xa⟩, ⟨47, 40, .sl, 0x7⟩, ⟨48, 48, .gw, 0x0⟩]⟩,
  ⟨"AGE_DRIFT", 0x108, [(0x8, 4)], .every, [⟨15, 0, .ro, 0x0⟩, ⟨31, 16, .ro, 0x0⟩, ⟨63, 32, .ro, 0x0⟩]⟩,
  ⟨"AGE_VF", 0x140, [(0x8, 15)], .every, [⟨9, 0, .ro, 0x0⟩, ⟨16, 16, .ro, 0x0⟩]⟩,
  ⟨"AGE_STAT", 0x1c0, [], .every, [⟨11, 0, .ro, 0x0⟩, ⟨25, 16, .ro, 0x0⟩, ⟨63, 32, .ro, 0x0⟩]⟩]

/-- The registers of a MON page (R578). -/
def Reg.tableMON : List RegDef := [
  ⟨"MON_CTL", 0x100, [], .every, [⟨3, 0, .rw, 0x0⟩, ⟨11, 8, .rw, 0x0⟩]⟩,
  ⟨"MON_SRC", 0x110, [(0x8, 4)], .every, [⟨3, 0, .rw, 0x0⟩, ⟨16, 4, .rw, 0x0⟩, ⟨20, 20, .rw, 0x0⟩, ⟨63, 32, .rw, 0x7fffffff⟩]⟩,
  ⟨"MON_LAST", 0x130, [(0x8, 4)], .every, [⟨31, 0, .ro, 0x0⟩, ⟨63, 32, .ro, 0x0⟩]⟩,
  ⟨"MON_EDGE", 0x200, [(0x40, 4), (0x8, 8)], .every, [⟨31, 0, .rw, 0x0⟩, ⟨63, 32, .rw, 0x0⟩]⟩]

/-- The registers of a EVLOG page (R584). -/
def Reg.tableEVLOG : List RegDef := [
  ⟨"EVL_CTL", 0x100, [], .every, [⟨0, 0, .rw, 0x1⟩, ⟨15, 8, .rw, 0x10⟩]⟩,
  ⟨"EVL_MASK", 0x108, [], .every, [⟨63, 0, .rw, 0x0⟩]⟩,
  ⟨"EVL_WR", 0x110, [], .every, [⟨31, 0, .ro, 0x0⟩]⟩,
  ⟨"EVL_RD", 0x118, [], .every, [⟨31, 0, .rw, 0x0⟩]⟩]

/-- The registers of a SEC page (R599). -/
def Reg.tableSEC : List RegDef := [
  ⟨"SEC_STAT", 0x100, [], .die0, [⟨1, 0, .ro, 0x0⟩, ⟨63, 32, .ro, 0x0⟩]⟩,
  ⟨"SEC_CTL", 0x108, [], .die0, [⟨0, 0, .gw, 0x0⟩]⟩,
  ⟨"SLOT_ENT", 0x110, [(0x8, 4)], .die0, [⟨1, 0, .ro, 0x0⟩, ⟨2, 2, .ro, 0x0⟩, ⟨3, 3, .ro, 0x0⟩]⟩,
  ⟨"ENR_ADDR", 0x130, [], .die0, [⟨40, 0, .rw, 0x0⟩]⟩,
  ⟨"ENR_GO", 0x138, [], .die0, [⟨0, 0, .gw, 0x0⟩]⟩,
  ⟨"ENR_NONCE", 0x140, [], .die0, [⟨63, 0, .ro, 0x0⟩]⟩,
  ⟨"ENR_STAT", 0x148, [], .die0, [⟨3, 0, .ro, 0x0⟩]⟩,
  ⟨"SIG_STAT", 0x150, [], .die0, [⟨3, 0, .ro, 0x0⟩]⟩]

/-- The registers every mapped page holds (R426), but for the counters at 0x080 to 0x0F8. -/
def Reg.tableHead : List RegDef := [
  ⟨"PAGE_ID", 0x000, [], .every, [⟨63, 0, .ro, 0⟩]⟩,
  ⟨"PAGE_CAP", 0x008, [], .every, [⟨63, 0, .ro, 0⟩]⟩,
  ⟨"PAGE_CTL", 0x010, [], .every, [⟨0, 0, .gw, 0⟩]⟩,
  ⟨"PAGE_STAT", 0x018, [], .every, [⟨0, 0, .w1c, 0⟩, ⟨2, 1, .ro, 0⟩, ⟨3, 3, .w1c, 0⟩]⟩,
  ⟨"EVT_RAW", 0x020, [], .every, [⟨63, 0, .w1c, 0⟩]⟩,
  ⟨"EVT_EN", 0x028, [], .every, [⟨63, 0, .rw, 0⟩]⟩,
  ⟨"EVT_PEND", 0x030, [], .every, [⟨63, 0, .ro, 0⟩]⟩,
  ⟨"GUARD_KEY", 0x038, [], .every, [⟨15, 0, .rw, 0⟩, ⟨17, 16, .ro, 0⟩, ⟨42, 32, .ro, 0⟩]⟩,
  ⟨"SEAL_CRC", 0x040, [], .every, [⟨31, 0, .ro, 0⟩, ⟨32, 32, .ro, 0⟩]⟩,
  ⟨"TAP_TAG", 0x048, [], .every, [⟨15, 0, .ro, 0⟩, ⟨16, 16, .ro, 0⟩, ⟨17, 17, .ro, 0⟩]⟩,
  ⟨"COUNTER", 0x080, [(8, 16)], .every, [⟨63, 0, .ro, 0⟩]⟩,
  ⟨"MBX_SEL", 0xf00, [], .every, [⟨15, 0, .rw, 0⟩]⟩,
  ⟨"MBX_VALID", 0xf08, [], .every, [⟨0, 0, .ro, 0⟩, ⟨1, 1, .ro, 0⟩, ⟨63, 48, .ro, 0⟩]⟩,
  ⟨"MBX_DATA", 0xf10, [(8, 8)], .every, [⟨63, 0, .ro, 0⟩]⟩]

/-- The registers of a class besides the common ones, by class code (R421 to R423). -/
def Reg.tableOf : Nat → List RegDef
  | 0x11 => Reg.tableCRU
  | 0x15 => Reg.tableGATE
  | 0x12 => Reg.tablePOOL
  | 0x13 => Reg.tablePEAT
  | 0x7 => Reg.tableSTREAM
  | 0x8 => Reg.tablePOLDER
  | 0x14 => Reg.tableRIDDLE
  | 0x16 => Reg.tableCETIS
  | 0x23 => Reg.tableMIRE
  | 0x24 => Reg.tablePOUR
  | 0x25 => Reg.tableLADLE
  | 0x2 => Reg.tableHSEM
  | 0x22 => Reg.tablePCIE
  | 0x21 => Reg.tableETH
  | 0x3 => Reg.tableSEAL
  | 0x4 => Reg.tableTAP
  | 0x6 => Reg.tableTIME
  | 0x1 => Reg.tableDEV
  | 0x9 => Reg.tableFLEET
  | 0x17 => Reg.tablePWR
  | 0x5 => Reg.tableTIDE
  | 0x18 => Reg.tableCLK
  | 0x20 => Reg.tableSTEW
  | 0x19 => Reg.tableTHERM
  | 0x27 => Reg.tableTRAY
  | 0x1b => Reg.tableFAULT
  | 0x1c => Reg.tableAGE
  | 0x1a => Reg.tableMON
  | 0xa => Reg.tableEVLOG
  | 0x26 => Reg.tableSEC
  | _ => []

/-! ### The offsets by name -/

/-- Offset of CRU_CTL (R101). -/
def Reg.CRU_CTL : Nat := 0x100
/-- Offset of CRU_STAT (R103). -/
def Reg.CRU_STAT : Nat := 0x108
/-- Offset of SB_STAT (R104). -/
def Reg.SB_STAT : Nat := 0x110
/-- Offset of SENT_LAST (R105). -/
def Reg.SENT_LAST : Nat := 0x118
/-- Offset of SENT_NORM (R105). -/
def Reg.SENT_NORM : Nat := 0x120
/-- Offset of TASK_CTL (R106). -/
def Reg.TASK_CTL (i0 : Nat) : Nat := 0x200 + 0x40 * i0
/-- Offset of TASK_STAT (R107). -/
def Reg.TASK_STAT (i0 : Nat) : Nat := 0x208 + 0x40 * i0
/-- Offset of TASK_ENTRY (R108). -/
def Reg.TASK_ENTRY (i0 : Nat) : Nat := 0x210 + 0x40 * i0
/-- Offset of TASK_FLAGS (R108). -/
def Reg.TASK_FLAGS (i0 : Nat) : Nat := 0x218 + 0x40 * i0
/-- Offset of TASK_FAULT (R108). -/
def Reg.TASK_FAULT (i0 : Nat) : Nat := 0x220 + 0x40 * i0
/-- Offset of TASK_FADDR (R108). -/
def Reg.TASK_FADDR (i0 : Nat) : Nat := 0x228 + 0x40 * i0
/-- Offset of TASK_FPC (R108). -/
def Reg.TASK_FPC (i0 : Nat) : Nat := 0x230 + 0x40 * i0
/-- Offset of TASK_PC (R108). -/
def Reg.TASK_PC (i0 : Nat) : Nat := 0x238 + 0x40 * i0
/-- Offset of SENT_BAND (R109). -/
def Reg.SENT_BAND (i0 : Nat) : Nat := 0x400 + 0x10 * i0
/-- Offset of SENT_CTL (R109). -/
def Reg.SENT_CTL (i0 : Nat) : Nat := 0x408 + 0x10 * i0
/-- Offset of SEG_BASE (R110). -/
def Reg.SEG_BASE (i0 : Nat) (i1 : Nat) : Nat := 0x800 + 0x40 * i0 + 0x10 * i1
/-- Offset of SEG_LIM (R110). -/
def Reg.SEG_LIM (i0 : Nat) (i1 : Nat) : Nat := 0x808 + 0x40 * i0 + 0x10 * i1
/-- Offset of GATE_TMO0 (R140). -/
def Reg.GATE_TMO0 : Nat := 0x100
/-- Offset of GATE_TMO1 (R140). -/
def Reg.GATE_TMO1 : Nat := 0x108
/-- Offset of GATE_TMO2 (R140). -/
def Reg.GATE_TMO2 : Nat := 0x110
/-- Offset of GATE_TMO3 (R140). -/
def Reg.GATE_TMO3 : Nat := 0x118
/-- Offset of GATE_IDX (R140). -/
def Reg.GATE_IDX : Nat := 0x120
/-- Offset of GATE_VAL (R140). -/
def Reg.GATE_VAL : Nat := 0x128
/-- Offset of GATE_TOLAST (R140). -/
def Reg.GATE_TOLAST : Nat := 0x130
/-- Offset of POOL_CTL (R203). -/
def Reg.POOL_CTL : Nat := 0x100
/-- Offset of POOL_STAT (R203). -/
def Reg.POOL_STAT : Nat := 0x108
/-- Offset of POOL_ECC_ADDR (R203). -/
def Reg.POOL_ECC_ADDR : Nat := 0x110
/-- Offset of POOL_ECC_INFO (R203). -/
def Reg.POOL_ECC_INFO : Nat := 0x118
/-- Offset of CSLOT_SEL (R203). -/
def Reg.CSLOT_SEL : Nat := 0x120
/-- Offset of CSLOT_STATE (R203). -/
def Reg.CSLOT_STATE : Nat := 0x128
/-- Offset of CREG_BASE (R203). -/
def Reg.CREG_BASE (i0 : Nat) : Nat := 0x200 + 0x10 * i0
/-- Offset of CREG_CTL (R203). -/
def Reg.CREG_CTL (i0 : Nat) : Nat := 0x208 + 0x10 * i0
/-- Offset of PEAT_CTL (R205). -/
def Reg.PEAT_CTL : Nat := 0x100
/-- Offset of PEAT_STAT (R205). -/
def Reg.PEAT_STAT : Nat := 0x108
/-- Offset of PEAT_ECC_ADDR (R205). -/
def Reg.PEAT_ECC_ADDR : Nat := 0x110
/-- Offset of PEAT_ECC_INFO (R205). -/
def Reg.PEAT_ECC_INFO : Nat := 0x118
/-- Offset of STRM_SEL (R271). -/
def Reg.STRM_SEL : Nat := 0x100
/-- Offset of STRM_CANCEL (R271). -/
def Reg.STRM_CANCEL : Nat := 0x108
/-- Offset of STRM_STAT (R271). -/
def Reg.STRM_STAT : Nat := 0x110
/-- Offset of POLD_LOOP (R273). -/
def Reg.POLD_LOOP (i0 : Nat) : Nat := 0x100 + 0x40 * i0
/-- Offset of POLD_CLASS (R273). -/
def Reg.POLD_CLASS (i0 : Nat) : Nat := 0x108 + 0x40 * i0
/-- Offset of POLD_DRAFT (R273). -/
def Reg.POLD_DRAFT (i0 : Nat) : Nat := 0x110 + 0x40 * i0
/-- Offset of POLD_STAT (R273). -/
def Reg.POLD_STAT (i0 : Nat) : Nat := 0x118 + 0x40 * i0
/-- Offset of POLD_KV (R273). -/
def Reg.POLD_KV (i0 : Nat) : Nat := 0x120 + 0x40 * i0
/-- Offset of BED_SEL (R273). -/
def Reg.BED_SEL : Nat := 0x400
/-- Offset of BED_CFG0 (R273). -/
def Reg.BED_CFG0 : Nat := 0x408
/-- Offset of BED_CFG1 (R273). -/
def Reg.BED_CFG1 : Nat := 0x410
/-- Offset of BED_STAT (R273). -/
def Reg.BED_STAT : Nat := 0x418
/-- Offset of BED_CFG2 (R273). -/
def Reg.BED_CFG2 : Nat := 0x420
/-- Offset of BED_CFG3 (R273). -/
def Reg.BED_CFG3 : Nat := 0x428
/-- Offset of RID_CTL (R310). -/
def Reg.RID_CTL : Nat := 0x100
/-- Offset of RID_STAT (R310). -/
def Reg.RID_STAT : Nat := 0x108
/-- Offset of RID_VOCAB (R310). -/
def Reg.RID_VOCAB : Nat := 0x110
/-- Offset of RID_LIST (R310). -/
def Reg.RID_LIST : Nat := 0x118
/-- Offset of RST_BASE (R310). -/
def Reg.RST_BASE : Nat := 0x120
/-- Offset of PLACE_BASE (R310). -/
def Reg.PLACE_BASE : Nat := 0x128
/-- Offset of MASK_BASE (R310). -/
def Reg.MASK_BASE : Nat := 0x130
/-- Offset of RID_MASK_CTL (R310). -/
def Reg.RID_MASK_CTL : Nat := 0x138
/-- Offset of RID_PART_TMO (R310). -/
def Reg.RID_PART_TMO : Nat := 0x140
/-- Offset of DRAFT_CTL (R310). -/
def Reg.DRAFT_CTL : Nat := 0x148
/-- Offset of NGRAM_CTL (R310). -/
def Reg.NGRAM_CTL : Nat := 0x150
/-- Offset of RID_LAST (R310). -/
def Reg.RID_LAST : Nat := 0x158
/-- Offset of EOS (R310). -/
def Reg.EOS (i0 : Nat) : Nat := 0x200 + 0x8 * i0
/-- Offset of GRAM_BASE (R310). -/
def Reg.GRAM_BASE (i0 : Nat) : Nat := 0x400 + 0x10 * i0
/-- Offset of GRAM_CTL (R310). -/
def Reg.GRAM_CTL (i0 : Nat) : Nat := 0x408 + 0x10 * i0
/-- Offset of CETIS_CTL (R335). -/
def Reg.CETIS_CTL : Nat := 0x100
/-- Offset of CETIS_STAT (R335). -/
def Reg.CETIS_STAT : Nat := 0x108
/-- Offset of PORT_FENCE (R335). -/
def Reg.PORT_FENCE : Nat := 0x110
/-- Offset of EPOCH (R335). -/
def Reg.EPOCH : Nat := 0x118
/-- Offset of LANES (R335). -/
def Reg.LANES : Nat := 0x120
/-- Offset of SLOT_SEL (R335). -/
def Reg.SLOT_SEL : Nat := 0x128
/-- Offset of SLOT_MAP (R335). -/
def Reg.SLOT_MAP : Nat := 0x130
/-- Offset of ROUTE_SEL (R335). -/
def Reg.ROUTE_SEL : Nat := 0x138
/-- Offset of ROUTE (R335). -/
def Reg.ROUTE : Nat := 0x140
/-- Offset of RIM_GW (R335). -/
def Reg.RIM_GW : Nat := 0x148
/-- Offset of DROP_LAST (R335). -/
def Reg.DROP_LAST : Nat := 0x150
/-- Offset of MIRE_CTL (R359). -/
def Reg.MIRE_CTL : Nat := 0x100
/-- Offset of MIRE_STAT (R359). -/
def Reg.MIRE_STAT : Nat := 0x108
/-- Offset of MIRE_ECC_ADDR (R359). -/
def Reg.MIRE_ECC_ADDR : Nat := 0x110
/-- Offset of MIRE_ECC_INFO (R359). -/
def Reg.MIRE_ECC_INFO : Nat := 0x118
/-- Offset of PG_ARG0 (R359). -/
def Reg.PG_ARG0 : Nat := 0x200
/-- Offset of PG_ARG1 (R359). -/
def Reg.PG_ARG1 : Nat := 0x208
/-- Offset of PG_GO (R359). -/
def Reg.PG_GO : Nat := 0x210
/-- Offset of PG_STAT (R359). -/
def Reg.PG_STAT : Nat := 0x218
/-- Offset of PG_LAST (R359). -/
def Reg.PG_LAST : Nat := 0x220
/-- Offset of JRN_BASE (R359). -/
def Reg.JRN_BASE : Nat := 0x300
/-- Offset of JRN_CTL (R359). -/
def Reg.JRN_CTL : Nat := 0x308
/-- Offset of POUR_CTL (R381). -/
def Reg.POUR_CTL : Nat := 0x100
/-- Offset of POUR_STAT (R381). -/
def Reg.POUR_STAT : Nat := 0x108
/-- Offset of SESS (R381). -/
def Reg.SESS (i0 : Nat) : Nat := 0x110 + 0x10 * i0
/-- Offset of SESS_SEQ (R381). -/
def Reg.SESS_SEQ (i0 : Nat) : Nat := 0x118 + 0x10 * i0
/-- Offset of POUR_STOP (R381). -/
def Reg.POUR_STOP : Nat := 0x150
/-- Offset of POUR_LAST (R381). -/
def Reg.POUR_LAST : Nat := 0x158
/-- Offset of CAST_SRC (R381). -/
def Reg.CAST_SRC : Nat := 0x300
/-- Offset of CAST_ADDR (R381). -/
def Reg.CAST_ADDR : Nat := 0x308
/-- Offset of CAST_LEN (R381). -/
def Reg.CAST_LEN : Nat := 0x310
/-- Offset of CAST_GO (R381). -/
def Reg.CAST_GO : Nat := 0x318
/-- Offset of CAST_STAT (R381). -/
def Reg.CAST_STAT : Nat := 0x320
/-- Offset of CAST_ID (R381). -/
def Reg.CAST_ID : Nat := 0x328
/-- Offset of LADLE_CTL (R383). -/
def Reg.LADLE_CTL : Nat := 0x100
/-- Offset of LADLE_STAT (R383). -/
def Reg.LADLE_STAT : Nat := 0x108
/-- Offset of LADLE_ECC (R383). -/
def Reg.LADLE_ECC : Nat := 0x110
/-- Offset of SEM (R393). -/
def Reg.SEM (i0 : Nat) : Nat := 0x100 + 0x8 * i0
/-- Offset of PCIE_STAT (R401). -/
def Reg.PCIE_STAT : Nat := 0x100
/-- Offset of PCIE_CTL (R401). -/
def Reg.PCIE_CTL : Nat := 0x108
/-- Offset of EVT_VEC (R401). -/
def Reg.EVT_VEC : Nat := 0x110
/-- Offset of APER_BASE (R401). -/
def Reg.APER_BASE : Nat := 0x118
/-- Offset of APER_CTL (R401). -/
def Reg.APER_CTL : Nat := 0x120
/-- Offset of Q_SEL (R401). -/
def Reg.Q_SEL : Nat := 0x200
/-- Offset of Q_BASE (R401). -/
def Reg.Q_BASE : Nat := 0x208
/-- Offset of Q_IDX (R401). -/
def Reg.Q_IDX : Nat := 0x210
/-- Offset of Q_CFG (R401). -/
def Reg.Q_CFG : Nat := 0x218
/-- Offset of Q_STAT (R401). -/
def Reg.Q_STAT : Nat := 0x220
/-- Offset of Q_ERR (R401). -/
def Reg.Q_ERR : Nat := 0x228
/-- Offset of Q_LOST (R401). -/
def Reg.Q_LOST : Nat := 0x230
/-- Offset of ETH_CTL (R417). -/
def Reg.ETH_CTL : Nat := 0x100
/-- Offset of ETH_STAT (R417). -/
def Reg.ETH_STAT : Nat := 0x108
/-- Offset of ETH_MAC (R417). -/
def Reg.ETH_MAC : Nat := 0x110
/-- Offset of ETH_IP6_HI (R417). -/
def Reg.ETH_IP6_HI : Nat := 0x118
/-- Offset of ETH_IP6_LO (R417). -/
def Reg.ETH_IP6_LO : Nat := 0x120
/-- Offset of EG_SRC_PORT (R417). -/
def Reg.EG_SRC_PORT : Nat := 0x128
/-- Offset of EP_DST_HI (R417). -/
def Reg.EP_DST_HI (i0 : Nat) : Nat := 0x200 + 0x20 * i0
/-- Offset of EP_DST_LO (R417). -/
def Reg.EP_DST_LO (i0 : Nat) : Nat := 0x208 + 0x20 * i0
/-- Offset of EP_CFG0 (R417). -/
def Reg.EP_CFG0 (i0 : Nat) : Nat := 0x210 + 0x20 * i0
/-- Offset of EP_CFG1 (R417). -/
def Reg.EP_CFG1 (i0 : Nat) : Nat := 0x218 + 0x20 * i0
/-- Offset of SEAL_CTL (R442). -/
def Reg.SEAL_CTL : Nat := 0x100
/-- Offset of SEAL_REF (R442). -/
def Reg.SEAL_REF : Nat := 0x108
/-- Offset of SEAL_CUR (R442). -/
def Reg.SEAL_CUR : Nat := 0x110
/-- Offset of SEAL_STAT (R442). -/
def Reg.SEAL_STAT : Nat := 0x118
/-- Offset of TAP_TIME (R447). -/
def Reg.TAP_TIME : Nat := 0x100
/-- Offset of TAP_NUM (R447). -/
def Reg.TAP_NUM : Nat := 0x108
/-- Offset of TAP_CTL (R447). -/
def Reg.TAP_CTL : Nat := 0x110
/-- Offset of TAP_STAT (R447). -/
def Reg.TAP_STAT : Nat := 0x118
/-- Offset of TIME_NOW (R451). -/
def Reg.TIME_NOW : Nat := 0x100
/-- Offset of TIME_STAT (R451). -/
def Reg.TIME_STAT : Nat := 0x108
/-- Offset of TIME_SET (R451). -/
def Reg.TIME_SET : Nat := 0x110
/-- Offset of DEV_ID (R453). -/
def Reg.DEV_ID : Nat := 0x100
/-- Offset of DEV_CTL (R453). -/
def Reg.DEV_CTL : Nat := 0x108
/-- Offset of EVT_SUM0 (R453). -/
def Reg.EVT_SUM0 : Nat := 0x110
/-- Offset of EVT_SUM1 (R453). -/
def Reg.EVT_SUM1 : Nat := 0x118
/-- Offset of FLEET_ID (R455). -/
def Reg.FLEET_ID : Nat := 0x100
/-- Offset of FLEET_TAG (R455). -/
def Reg.FLEET_TAG : Nat := 0x108
/-- Offset of PWR_DOM (R476). -/
def Reg.PWR_DOM : Nat := 0x100
/-- Offset of PWR_DOM_REQ (R476). -/
def Reg.PWR_DOM_REQ : Nat := 0x108
/-- Offset of PWR_ILIM (R476). -/
def Reg.PWR_ILIM : Nat := 0x110
/-- Offset of PWR_WT (R476). -/
def Reg.PWR_WT : Nat := 0x118
/-- Offset of PWR_MEAS (R476). -/
def Reg.PWR_MEAS : Nat := 0x120
/-- Offset of MINV (R476). -/
def Reg.MINV (i0 : Nat) : Nat := 0x140 + 0x8 * i0
/-- Offset of MINV_CTL (R476). -/
def Reg.MINV_CTL : Nat := 0x158
/-- Offset of PWR_FAIL (R476). -/
def Reg.PWR_FAIL : Nat := 0x160
/-- Offset of SRC (R478). -/
def Reg.SRC (i0 : Nat) : Nat := 0x100 + 0x10 * i0
/-- Offset of SRC_STAT (R478). -/
def Reg.SRC_STAT (i0 : Nat) : Nat := 0x108 + 0x10 * i0
/-- Offset of TIDE_EFF (R478). -/
def Reg.TIDE_EFF : Nat := 0x130
/-- Offset of TIDE_SAFE (R478). -/
def Reg.TIDE_SAFE : Nat := 0x138
/-- Offset of TIDE_IN (R478). -/
def Reg.TIDE_IN : Nat := 0x140
/-- Offset of TIDE_STAT (R478). -/
def Reg.TIDE_STAT : Nat := 0x148
/-- Offset of VMIF_MIN (R478). -/
def Reg.VMIF_MIN (i0 : Nat) : Nat := 0x180 + 0x8 * i0
/-- Offset of VMIF_REARM (R478). -/
def Reg.VMIF_REARM : Nat := 0x1c0
/-- Offset of SLUICE_DOM (R478). -/
def Reg.SLUICE_DOM (i0 : Nat) : Nat := 0x200 + 0x8 * i0
/-- Offset of SLUICE_DOM_REQ (R478). -/
def Reg.SLUICE_DOM_REQ (i0 : Nat) : Nat := 0x240 + 0x8 * i0
/-- Offset of CLK_CTL (R496). -/
def Reg.CLK_CTL : Nat := 0x100
/-- Offset of CLK_PARENT (R496). -/
def Reg.CLK_PARENT : Nat := 0x108
/-- Offset of CRU_FREQ (R496). -/
def Reg.CRU_FREQ (i0 : Nat) : Nat := 0x110 + 0x8 * i0
/-- Offset of LINK_DLY (R496). -/
def Reg.LINK_DLY (i0 : Nat) : Nat := 0x140 + 0x8 * i0
/-- Offset of TIME_ERR (R496). -/
def Reg.TIME_ERR : Nat := 0x168
/-- Offset of REF_CTL (R497). -/
def Reg.REF_CTL : Nat := 0x800
/-- Offset of REF_STAT (R497). -/
def Reg.REF_STAT : Nat := 0x808
/-- Offset of PTP_CTL (R497). -/
def Reg.PTP_CTL : Nat := 0x810
/-- Offset of TIME_RATE (R497). -/
def Reg.TIME_RATE : Nat := 0x818
/-- Offset of PTP_OFS (R497). -/
def Reg.PTP_OFS : Nat := 0x820
/-- Offset of PTP_PATH (R497). -/
def Reg.PTP_PATH : Nat := 0x828
/-- Offset of THERM_T (R515). -/
def Reg.THERM_T (i0 : Nat) : Nat := 0x100 + 0x8 * i0
/-- Offset of THERM_SUM (R515). -/
def Reg.THERM_SUM : Nat := 0x150
/-- Offset of QUENCH (R515). -/
def Reg.QUENCH : Nat := 0x158
/-- Offset of DIE_T (R517). -/
def Reg.DIE_T (i0 : Nat) : Nat := 0x100 + 0x8 * i0
/-- Offset of STACK_T (R517). -/
def Reg.STACK_T (i0 : Nat) : Nat := 0x140 + 0x8 * i0
/-- Offset of DIE_SUM (R517). -/
def Reg.DIE_SUM : Nat := 0x160
/-- Offset of TRAY_TEMP (R517). -/
def Reg.TRAY_TEMP : Nat := 0x200
/-- Offset of TRAY_FLOW (R517). -/
def Reg.TRAY_FLOW : Nat := 0x208
/-- Offset of TRAY_HEAT (R517). -/
def Reg.TRAY_HEAT : Nat := 0x210
/-- Offset of TRAY_CTL (R517). -/
def Reg.TRAY_CTL : Nat := 0x218
/-- Offset of TRAY_STAT (R517). -/
def Reg.TRAY_STAT : Nat := 0x220
/-- Offset of SHUT_CTL (R517). -/
def Reg.SHUT_CTL : Nat := 0x228
/-- Offset of SHUT_LAST (R517). -/
def Reg.SHUT_LAST : Nat := 0x230
/-- Offset of FAULT_REC (R546). -/
def Reg.FAULT_REC : Nat := 0x100
/-- Offset of FAULT_INFO (R546). -/
def Reg.FAULT_INFO : Nat := 0x108
/-- Offset of RC_STAT (R547). -/
def Reg.RC_STAT (i0 : Nat) : Nat := 0x500 + 0x40 * i0
/-- Offset of RC_TIME (R547). -/
def Reg.RC_TIME (i0 : Nat) : Nat := 0x508 + 0x40 * i0
/-- Offset of RC_CTL (R547). -/
def Reg.RC_CTL (i0 : Nat) : Nat := 0x510 + 0x40 * i0
/-- Offset of REFILL (R547). -/
def Reg.REFILL (i0 : Nat) : Nat := 0x518 + 0x40 * i0
/-- Offset of RC_TILE (R547). -/
def Reg.RC_TILE : Nat := 0x740
/-- Offset of TSTATE (R547). -/
def Reg.TSTATE (i0 : Nat) : Nat := 0x700 + 0x8 * i0
/-- Offset of STEW_STAT (R567). -/
def Reg.STEW_STAT : Nat := 0x100
/-- Offset of BOOT_STAT (R567). -/
def Reg.BOOT_STAT : Nat := 0x108
/-- Offset of SITE_SEL (R567). -/
def Reg.SITE_SEL : Nat := 0x120
/-- Offset of SITE_ENT (R567). -/
def Reg.SITE_ENT : Nat := 0x128
/-- Offset of SITE_SUM (R567). -/
def Reg.SITE_SUM (i0 : Nat) : Nat := 0x140 + 0x8 * i0
/-- Offset of MARGIN (R567). -/
def Reg.MARGIN : Nat := 0x180
/-- Offset of AGE_CTL (R569). -/
def Reg.AGE_CTL : Nat := 0x100
/-- Offset of AGE_DRIFT (R569). -/
def Reg.AGE_DRIFT (i0 : Nat) : Nat := 0x108 + 0x8 * i0
/-- Offset of AGE_VF (R569). -/
def Reg.AGE_VF (i0 : Nat) : Nat := 0x140 + 0x8 * i0
/-- Offset of AGE_STAT (R569). -/
def Reg.AGE_STAT : Nat := 0x1c0
/-- Offset of MON_CTL (R578). -/
def Reg.MON_CTL : Nat := 0x100
/-- Offset of MON_SRC (R578). -/
def Reg.MON_SRC (i0 : Nat) : Nat := 0x110 + 0x8 * i0
/-- Offset of MON_LAST (R578). -/
def Reg.MON_LAST (i0 : Nat) : Nat := 0x130 + 0x8 * i0
/-- Offset of MON_EDGE (R578). -/
def Reg.MON_EDGE (i0 : Nat) (i1 : Nat) : Nat := 0x200 + 0x40 * i0 + 0x8 * i1
/-- Offset of EVL_CTL (R584). -/
def Reg.EVL_CTL : Nat := 0x100
/-- Offset of EVL_MASK (R584). -/
def Reg.EVL_MASK : Nat := 0x108
/-- Offset of EVL_WR (R584). -/
def Reg.EVL_WR : Nat := 0x110
/-- Offset of EVL_RD (R584). -/
def Reg.EVL_RD : Nat := 0x118
/-- Offset of SEC_STAT (R599). -/
def Reg.SEC_STAT : Nat := 0x100
/-- Offset of SEC_CTL (R599). -/
def Reg.SEC_CTL : Nat := 0x108
/-- Offset of SLOT_ENT (R599). -/
def Reg.SLOT_ENT (i0 : Nat) : Nat := 0x110 + 0x8 * i0
/-- Offset of ENR_ADDR (R599). -/
def Reg.ENR_ADDR : Nat := 0x130
/-- Offset of ENR_GO (R599). -/
def Reg.ENR_GO : Nat := 0x138
/-- Offset of ENR_NONCE (R599). -/
def Reg.ENR_NONCE : Nat := 0x140
/-- Offset of ENR_STAT (R599). -/
def Reg.ENR_STAT : Nat := 0x148
/-- Offset of SIG_STAT (R599). -/
def Reg.SIG_STAT : Nat := 0x150
/-- Offset of PTP_TS (R498). -/
def Reg.PTP_TS : Nat := 0x400
/-- Offset of PTP_TS_INFO (R498). -/
def Reg.PTP_TS_INFO : Nat := 0x408
/-- Offsets of the common head and mailbox (R426, R433). -/
def Reg.PAGE_ID : Nat := 0x000
def Reg.PAGE_CAP : Nat := 0x008
def Reg.PAGE_CTL : Nat := 0x010
def Reg.PAGE_STAT : Nat := 0x018
def Reg.EVT_RAW : Nat := 0x020
def Reg.EVT_EN : Nat := 0x028
def Reg.EVT_PEND : Nat := 0x030
def Reg.GUARD_KEY : Nat := 0x038
def Reg.SEAL_CRC : Nat := 0x040
def Reg.TAP_TAG : Nat := 0x048
def Reg.MBX_SEL : Nat := 0xf00
def Reg.MBX_VALID : Nat := 0xf08
def Reg.MBX_DATA (i0 : Nat) : Nat := 0xf10 + 8 * i0
/-- Offset of counter slot k (R425). -/
def Reg.COUNTER (k : Nat) : Nat := 0x080 + 8 * k

end Sys2Proof.Machine
end

