-- ==== Sys2Proof/Machine/Frac.lean ====
section
/-! DEFINITION. Exact fractions in lowest terms, for the quantities of the tide and the coolant that the manual gives as real
formulas (R471, R472, R475, R513). -/
namespace Sys2Proof.Machine

/-- num / (den1 + 1), in lowest terms. -/
structure Frac where
  num  : Int
  den1 : Nat
  deriving DecidableEq, Repr

def Frac.den (a : Frac) : Nat := a.den1 + 1
/-- n / d in lowest terms, for d at least 1. -/
def Frac.mk' (n : Int) (d : Nat) : Frac :=
  let g := Nat.gcd n.natAbs d
  ⟨n / (g : Int), d / g - 1⟩
def Frac.nat (n : Nat) : Frac := ⟨n, 0⟩
def Frac.int (n : Int) : Frac := ⟨n, 0⟩
def Frac.add (a b : Frac) : Frac := .mk' (a.num * b.den + b.num * a.den) (a.den * b.den)
def Frac.neg (a : Frac) : Frac := ⟨-a.num, a.den1⟩
def Frac.sub (a b : Frac) : Frac := a.add b.neg
def Frac.mul (a b : Frac) : Frac := .mk' (a.num * b.num) (a.den * b.den)
/-- The quotient by a positive fraction. -/
def Frac.divPos (a b : Frac) : Frac := .mk' (a.num * b.den) (a.den * b.num.natAbs)
def Frac.lt (a b : Frac) : Bool := decide (a.num * b.den < b.num * a.den)
def Frac.le (a b : Frac) : Bool := !b.lt a
def Frac.min (a b : Frac) : Frac := if b.lt a then b else a
def Frac.max (a b : Frac) : Frac := if a.lt b then b else a
/-- A value held between two bounds. -/
def Frac.clamp (a lo hi : Frac) : Frac := (a.max lo).min hi
def Frac.isPos (a : Frac) : Bool := decide (0 < a.num)
/-- The greatest whole number at or below a fraction, 0 for a negative one. -/
def Frac.floorNat (a : Frac) : Nat := (a.num / a.den).toNat
def Frac.sum (l : List Frac) : Frac := l.foldl Frac.add (.nat 0)

end Sys2Proof.Machine
end

