-- ==== Sys2Proof/Machine/Store.lean ====
section
/-! DEFINITION. Sparse storage in one canonical form: a list of (key, value) pairs, keys strictly rising, no entry equal
to what an unlisted key reads as. Register files, memories, tables and unit contexts are all held this way, so that equal
contents are equal data. -/
namespace Sys2Proof.Machine

/-- A sparse table from natural-number keys to values. -/
abbrev Store (α : Type) := List (Nat × α)

/-- The value at a key; `d` is what an unlisted key reads as. -/
def Store.get {α : Type} (d : α) : Store α → Nat → α
  | [], _ => d
  | (k, v) :: r, n => if k = n then v else Store.get d r n

/-- Every entry of one key taken out. -/
def Store.erase {α : Type} : Store α → Nat → Store α
  | [], _ => []
  | (k, v) :: r, n => if k = n then Store.erase r n else (k, v) :: Store.erase r n

/-- An entry put in front, unless it says what an unlisted key already reads as. -/
def Store.push {α : Type} [DecidableEq α] (d : α) (n : Nat) (v : α) (m : Store α) : Store α :=
  if v = d then m else (n, v) :: m

/-- One key set to a value, the canonical form kept. -/
def Store.set {α : Type} [DecidableEq α] (d : α) : Store α → Nat → α → Store α
  | [], n, v => Store.push d n v []
  | (k, w) :: r, n, v =>
    if k < n then (k, w) :: Store.set d r n v
    else Store.push d n v (Store.erase ((k, w) :: r) n)

/-- Keys strictly rising from a lower bound, and no entry equal to the default. -/
def Store.wfFrom {α : Type} [DecidableEq α] (d : α) : Nat → Store α → Bool
  | _, [] => true
  | lo, (k, v) :: r => decide (lo ≤ k) && decide (v ≠ d) && Store.wfFrom d (k + 1) r

/-- The canonical form of a store. -/
def Store.wf {α : Type} [DecidableEq α] (d : α) (m : Store α) : Bool := Store.wfFrom d 0 m

/-- Every value of a store changed by a function of its key; entries that become the default leave. -/
def Store.mapVals {α : Type} [DecidableEq α] (d : α) (f : Nat → α → α) : Store α → Store α
  | [] => []
  | (k, v) :: r => Store.push d k (f k v) (Store.mapVals d f r)

/-- The entries that a test on the key keeps; the others read as the default again. -/
def Store.keep {α : Type} (p : Nat → Bool) : Store α → Store α
  | [] => []
  | (k, v) :: r => if p k then (k, v) :: Store.keep p r else Store.keep p r

/-- The number of entries that satisfy a test. -/
def Store.count {α : Type} (p : Nat → α → Bool) : Store α → Nat
  | [] => 0
  | (k, v) :: r => (if p k v then 1 else 0) + Store.count p r

/-- One key's value changed by a function. -/
def Store.upd {α : Type} [DecidableEq α] (d : α) (m : Store α) (n : Nat) (f : α → α) : Store α :=
  Store.set d m n (f (Store.get d m n))

end Sys2Proof.Machine
end

