-- ==== Sys2Proof/Machine/State.lean ====
section
/-! DEFINITION. The engine's state, as plain data: registers, memories, task contexts, queues, tables and everything else the
manual gives the part, and the state right after VAUX power-on. -/
namespace Sys2Proof.Machine

/-- Why the machine stops with a fault. -/
inductive Fault where
  /-- A command whose operands name nothing the engine has; raised by no meaning on well-formed operands. Safe. -/
  | illFormed
  deriving DecidableEq, Repr

/-- Why a command has no meaning. -/
inductive Refusal where
  /-- The command's row has no meaning yet; raised by the dispatch alone. Safe. -/
  | notModelled (mnemonic : String)
  deriving DecidableEq, Repr

/-- The outcome of one command. -/
abbrev Out (σ : Type) := Host.Outcome σ Fault Refusal

/-! ### Crucibles (chapters 3 to 6) -/

/-- Task states of R69. -/
inductive TState where
  | idle | ready | waiting | draining | faulted | halted
  deriving DecidableEq, Repr, Inhabited

/-- Wait reasons of R107. -/
inductive WaitReason where
  | none | sb | sbfull | queue | load | gate | fetch
  deriving DecidableEq, Repr, Inhabited

/-- A tensor descriptor register, field by field (R122). -/
structure Desc where
  addr : Addr := 0
  fmt  : BitVec 8 := 0
  tag  : BitVec 2 := 0
  d0   : BitVec 20 := 0
  d1   : BitVec 16 := 0
  d2   : BitVec 12 := 0
  s1   : BitVec 32 := 0
  s2   : BitVec 40 := 0
  aux  : Addr := 0
  deriving DecidableEq, Repr, Inhabited

/-- A gate wait in progress (R137): the gate, the target, the register that gets the value, and the deadline, if it has one. -/
structure GateWait where
  gate   : Nat
  target : W32
  dst    : Nat
  till   : Option Nat
  deriving DecidableEq, Repr

/-- A byte range in POOL or PEAT that an instruction reads or writes (R83, R84). -/
structure Range where
  peat  : Bool
  lo    : Nat
  hi    : Nat
  write : Bool
  deriving DecidableEq, Repr

/-- What a task that could not issue waits for (R80, R115): scalar registers, or its ranges to be free and, for a tensor instruction,
a place in a unit's queue and entries of the scoreboard. -/
inductive WaitFor where
  | regs (l : List Nat)
  | ranges (l : List Range) (unit : Option UnitKind)
  deriving DecidableEq, Repr

/-- A scalar load in flight (R66): its destination, size and extension, and the place its data comes from. -/
structure LoadWait where
  dst  : Nat
  size : Nat
  sx   : Bool
  peat : Bool
  off  : Nat
  addr : Addr
  pc   : Addr
  deriving DecidableEq, Repr

/-- One task context (R67). The flags and the fault record are registers of the CRU page. -/
structure Task where
  st       : TState := .idle
  wait     : WaitReason := .none
  /-- Where the drain leads. -/
  after    : TState := .idle
  pc       : Addr := 0
  s        : Store W32 := []
  a        : Store Addr := []
  d        : Store Desc := []
  p        : Store Bool := []
  /-- Instructions dispatched since the task started: the program order of R97. -/
  seq      : Nat := 0
  /-- Program order number of the instruction in the fault record (R98). -/
  faultSeq : Option Nat := Option.none
  /-- Scalar registers that a dispatched SENT has still to write (R115). -/
  pend     : List Nat := []
  gate     : Option GateWait := Option.none
  load     : Option LoadWait := Option.none
  ask      : Option WaitFor := Option.none
  /-- READY and passed over for AGE_LIMIT cycles (R68). -/
  aged     : Bool := false
  deriving DecidableEq, Repr, Inhabited

/-- A scoreboard entry (R82); `iid` names the instruction that holds it. -/
structure SbEntry where
  peat  : Bool
  lo    : Nat
  hi    : Nat
  write : Bool
  task  : TaskIx
  unit  : UnitKind
  iid   : Nat
  deriving DecidableEq, Repr

/-- A channel slot that an access has claimed (R191): the region's page kind, region, slot, whether as a writer, and the bytes of the
slot that the access has still to touch. `dead`: the region was disabled meanwhile, so no transition follows (R199). -/
structure Claim where
  tile  : Nat
  peat  : Bool
  reg   : Nat
  slot  : Nat
  write : Bool
  left  : Nat
  dead  : Bool := false
  deriving DecidableEq, Repr

/-- Bytes that a unit has already read of a memory of its tile (pools 0 to 3, peat 4): of a source range whose scoreboard entry it
released (R86), or of a channel slot whose access has ended (R191). -/
structure Seen where
  mem   : Nat
  lo    : Nat
  data  : List Byte
  bad   : Bool
  deriving DecidableEq, Repr

/-- How far a dispatched instruction has come. -/
inductive Phase where
  /-- In its unit's queue. -/
  | queued
  /-- A remote or mire move whose packets have left; `left` bytes are not yet acknowledged or received. -/
  | moving (left : Nat)
  /-- A remote move whose slot probe has left (R198). -/
  | probing
  /-- A KVPUT that waits on a page (R220). -/
  | pageWait
  /-- Its results are written and its write entry is released; completion is left (R86). -/
  | written
  deriving DecidableEq, Repr

/-- A dispatched tensor instruction with its copies of the registers (R127). -/
structure Work where
  iid    : Nat
  task   : TaskIx
  seq    : Nat
  instr  : Instr
  d      : Store Desc
  s      : Store W32
  pc     : Addr
  phase  : Phase
  /-- Slots claimed so far, in claim order. -/
  claims : List Claim
  /-- When the wait on a slot began, and the claim that is waited for (R192). -/
  since  : Option Nat
  want   : Option Claim := none
  /-- Source ranges read early. -/
  seen   : List Seen := []
  /-- Slots whose access has ended while the instruction waits for the next: memory × 2^22 + 4 KiB unit (R191, R193). -/
  ended  : List Nat := []
  /-- The transaction tag of a move's packets. -/
  tag    : Nat := 0
  deriving DecidableEq, Repr

/-- A gathering-buffer entry (R182): the peat line, its valid bytes, and the time of its last write. -/
structure GbEntry where
  line : Nat
  data : Store (Option Byte)
  last : Nat
  deriving DecidableEq, Repr

/-- What one crucible holds besides its tasks. The gathering buffer lists its entries least recently written first; the
instruction cache lists the physical lines it holds, oldest first. -/
structure Crucible where
  sb      : List SbEntry := []
  mould   : List Work := []
  vector  : List Work := []
  attn    : List Work := []
  runner  : List Work := []
  gb      : List GbEntry := []
  icache  : List Nat := []
  last    : Option TaskIx := none
  nextIid : Nat := 0
  deriving DecidableEq, Repr, Inhabited

/-- Channel slot states of R190. -/
inductive SlotState where
  | empty | filling | full | draining
  deriving DecidableEq, Repr, Inhabited

/-- An incoming access that waits on a slot at its destination (R192, R198): a probe, or a packet of a move whose next slot is not
ready; when the wait began, and the claim it waits for. -/
structure Probe where
  pkt   : Packet
  since : Nat
  want  : Option Claim
  deriving DecidableEq, Repr

/-- A remote move at its destination: its source, its tag, the bytes made visible or returned so far, the bytes of a move that
was granted a slot, the slots it holds, and the slots it has still to claim (R193, R198, R332). -/
structure RxMove where
  src    : Nat
  tag    : Nat
  bytes  : Nat
  total  : Nat
  claims : List Claim
  todo   : List Claim := []
  /-- Its instruction was aborted: what still comes is dropped. -/
  dead   : Bool := false
  deriving DecidableEq, Repr

/-! ### Register pages (chapter 13) -/

/-- A page's guard: the requester code that holds it and the engine time at which it lapses (R436). -/
structure Guard where
  owner : Nat := 0
  till  : Nat := 0
  deriving DecidableEq, Repr, Inhabited

/-- A read shadow: the register offset whose high half it holds (R429). -/
structure Shadow where
  off : Nat
  hi  : W32
  deriving DecidableEq, Repr

/-- A wide-value mailbox of one requester on one page (R433). -/
structure Mbx where
  sel   : Nat := 0
  valid : Bool := false
  bad   : Bool := false
  tag   : Nat := 0
  data  : List W64 := []
  deriving DecidableEq, Repr, Inhabited

/-- The tap in progress (R448): the units that have not latched, and those that have not acknowledged. -/
structure TapRun where
  num     : W64 := 0
  time    : W64 := 0
  waiting : List Nat := []
  unacked : List Nat := []
  late    : List Nat := []
  deriving DecidableEq, Repr, Inhabited

/-- The seal walker (R439 to R444): when the walk under way began, or the next one begins; whether an SL field was written during
it, whether COMMIT was, and whether a FENCE is in force. -/
structure SealRun where
  start  : Nat := 0
  dirty  : Bool := false
  fresh  : Bool := false
  fenced : Bool := false
  deriving DecidableEq, Repr, Inhabited

/-! ### Mesh and mire (chapters 9 and 10) -/

/-- A page command (R349). `drained` and `phase` follow R352: what the command waits for. -/
inductive PgPhase where
  | arriving
  | drainBeforeCopy
  | copying
  | drainAfterCopy
  | fetching
  | drainAfterDrop
  | held
  deriving DecidableEq, Repr, Inhabited

structure PgCmd where
  /-- The number of the push, which tells equal commands apart. -/
  id    : Nat
  die   : Nat
  tile  : Nat
  op    : Nat
  entry : Nat
  peat  : Nat
  phase : PgPhase
  /-- The attention instructions that the drain still waits for: (crucible, instruction). -/
  drain : List (Nat × Nat)
  deriving DecidableEq, Repr

/-- A bank of a stack: the row that is open, and its activations since the last refresh management (R338). -/
structure Bank where
  row  : Option Nat := none
  acts : Nat := 0
  deriving DecidableEq, Repr

/-! ### Streams, beds and wavefronts (chapter 7) -/

/-- Memory that the steward has reserved for a structure of a stream (R348, R406): in the mire, or in a tile's peat. -/
structure KvArea where
  mire   : Bool
  tile   : Nat
  lo     : Nat
  n      : Nat
  stream : Nat
  deriving DecidableEq, Repr

/-- Stream states of R251. -/
inductive SState where
  | free | bound | prefill | decode | draining | held
  deriving DecidableEq, Repr, Inhabited

/-- A stream context (R250), with what its BIND named (R404) and what admission and replay keep (R257, R542). -/
structure Stream where
  st        : SState := .free
  /-- The state held before a recast fenced the stream. -/
  kept      : SState := .free
  gen       : BitVec 8 := 0
  polder    : Nat := 0
  cls       : Nat := 0
  draft     : Bool := false
  linked    : Bool := false
  link      : Nat := 0
  draftOut  : Bool := false
  inflight  : Nat := 0
  status    : Nat := 0
  promptLen : Nat := 0
  maxTokens : Nat := 0
  commitPos : Nat := 0
  emitted   : Nat := 0
  posLimit  : Nat := 0
  treeNodes : Nat := 0
  treeDepth : Nat := 0
  bindTs    : W64 := 0
  lastTs    : W64 := 0
  admitted  : Nat := 0
  /-- Wavefronts admitted since binding (SEQ of R248). -/
  seq       : Nat := 0
  /-- Prompt chunks in the loop. -/
  chunks    : Nat := 0
  /-- Engine time of binding, for the oldest-bound order. -/
  since     : Nat := 0
  /-- The BIND's port, generation and egress. -/
  port      : HostPort := .a
  genBind   : BitVec 8 := 0
  egress    : Bool := false
  tring     : Nat := 0
  eport     : Nat := 0
  endpoint  : Nat := 0
  promptAddr : Nat := 0
  /-- Replay length of R542. -/
  replay    : Option Nat := Option.none
  /-- Tokens committed since the last draft request (R264). -/
  unsent    : List Nat := []
  /-- A draft stream's tree in the making (R305): the path probability of each node, and the first node of the last level. -/
  paths     : List W32 := []
  frontier  : Nat := 0
  /-- SEQ of the wavefront that set COMMIT_POS (R356). -/
  commitSeq : Nat := 0
  /-- A record was handed out whose journal write no controller acknowledged: the emission header may not count it (R357). -/
  jrnGap    : Bool := false
  deriving DecidableEq, Repr

/-- A place of a bed (R241, R242): free, reserved for a move with the bytes that have arrived, or full. -/
structure Place where
  used  : Bool := false
  full  : Bool := false
  src   : Nat := 0
  tag   : Nat := 0
  got   : Nat := 0
  data  : List Byte := []
  deriving DecidableEq, Repr

/-- A pass that is open (R243): its number, the places of its wavefronts in grant order, its rows, the bytes each member tile
has, the tiles whose START_GATE was added, and how many wavefronts have been forwarded. -/
structure Pass where
  num     : Nat
  places  : List Nat
  rows    : Nat
  bytes   : Nat
  got     : Store Nat
  started : List Nat
  done    : Nat
  /-- The exit sequencer has taken the pass. -/
  moving  : Bool := false
  deriving DecidableEq, Repr

/-- What a bed's sequencers hold. -/
structure Bed where
  opened    : Nat := 0
  forwarded : Nat := 0
  passes    : List Pass := []
  ptr       : Nat := 2
  quanta    : List Nat := []
  /-- When the watchdog last restarted. -/
  wdog      : Nat := 0
  /-- Place requests that wait for a place, in arrival order. -/
  asks      : List Packet := []
  deriving DecidableEq, Repr

/-- A wavefront on its way to the next stage (R242): its source tile and tag, its bytes, and the place it leaves. -/
structure WMove where
  tile   : Nat
  tag    : Nat
  wave   : List Byte
  toBed  : Option Nat
  /-- The bed and place that the wavefront leaves; none for a riddle place, which `stream` names. -/
  fromBed : Option (Nat × Nat)
  stream : Nat
  deriving DecidableEq, Repr

/-! ### The riddle (chapter 8) -/

/-- A candidate token and its adjusted logit y (R292). -/
structure Tok where
  id : Nat
  y  : W32
  deriving DecidableEq, Repr

/-- What a place keeps of one row of a hand-off part: the row's key, the tokens that the part covers, (m_p, Z_p) of the part's
allowed tokens, NaN logits met, and whether the row's grammar state was bad. `toks` holds the part's candidates until the
wavefront is there and they join the row's list (R276, R278). -/
structure PartRow where
  pos   : Nat
  node  : Nat
  first : Nat
  width : Nat
  mz    : Option (W32 × W32)
  nans  : Nat
  bad   : Bool
  toks  : List Tok
  deriving DecidableEq, Repr

/-- The candidate list of a row, by the row's key: at most 256 entries, each with the PART that it came from (R276). -/
structure RowCand where
  pos  : Nat
  node : Nat
  toks : List (Nat × Tok)
  deriving DecidableEq, Repr

/-- A packet in the mesh: the router that holds it, the input port and the lane it came by, when it came, and the output port and the
lane that the router chose for it (R327, R330, R332, R335). -/
structure Transit where
  pkt    : Packet
  tile   : Nat
  inPort : Nat
  lane   : Nat
  since  : Nat
  out    : Option (Nat × Nat)
  deriving DecidableEq, Repr

/-- What a router keeps of an output port: pointer and quanta of R262, its last 64 grants, newest first (0 own traffic and responses,
1 management, 2 foreign), and the next lane of the round robin (R330, R332). -/
structure MeshPort where
  ptr    : Nat := 2
  quanta : List Nat := []
  grants : List Nat := []
  next   : Nat := 0
  deriving DecidableEq, Repr

/-- The sending end of a lane (R315): the flits of its replay buffer, oldest first, each as a packet and the number of the flit in it,
and the checks that its flit has failed in a row. -/
structure LaneTx where
  sent  : List (Packet × Nat) := []
  fails : Nat := 0
  deriving DecidableEq, Repr

/-- A hand-off part on its way in: its source tile and tag, its bytes in all, those that have arrived, and the bytes. -/
structure HandRx where
  src   : Nat
  tag   : Nat
  part  : Nat
  parts : Nat
  total : Nat
  got   : Nat
  data  : Store Byte
  deriving DecidableEq, Repr

/-- A hand-off part accepted for a wavefront. -/
structure PartRec where
  part  : Nat
  parts : Nat
  rows  : List PartRow
  deriving DecidableEq, Repr

/-- How far a riddle place has come. -/
inductive RPhase where
  | reserved
  /-- The wavefront is there; parts may be missing. -/
  | gathering
  /-- The next token wavefront is formed and waits for a draft tree. -/
  | draftWait
  /-- The next token wavefront waits for a place at the first bed. -/
  | leaving
  deriving DecidableEq, Repr

/-- A riddle place (R276). -/
structure RPlace where
  index  : Nat
  stream : Nat
  gen    : BitVec 8
  src    : Nat
  tag    : Nat
  got    : Nat
  wave   : List Byte
  parts  : List PartRec
  cands  : List RowCand
  phase  : RPhase
  since  : Nat
  deriving DecidableEq, Repr

/-! ### Power, the tide, clocks and sensors (chapters 14 to 16) -/

/-- How far a domain has come on its way to ON (R460, R174, R181). -/
inductive RampPhase where
  /-- Its request waits at the ramp arbiter. -/
  | asked
  /-- Stages 1 to 4 have closed their header segments. -/
  | stage (n : Nat)
  /-- The domain is ON and its array is being written to zero. -/
  | zeroing
  deriving DecidableEq, Repr

/-- A domain on its way to ON: the unit and domain number, the class of the request (R461), when it was asked and granted,
whether it came from OFF, and a later request that waits for the end of the ramp (R462). -/
structure Ramp where
  unit    : Nat
  dom     : Nat
  cls     : Nat
  asked   : Nat
  granted : Nat
  phase   : RampPhase
  fromOff : Bool
  next    : Option Nat
  deriving DecidableEq, Repr

/-- A tide slot's current ceiling and floor in permille (R471) and the time of its last write by its requester (R470). -/
structure TideSlot where
  c     : Frac := ⟨1000, 0⟩
  f     : Frac := ⟨0, 0⟩
  since : Nat := 0
  deriving DecidableEq, Repr

/-- The tide loop (R471 to R475): its slots, the budget g, the soak power s, the previous ceiling in W, the limits sent and not
yet received, each tile's soak power in W, energy not yet counted in mJ, and when C last fell and when C or F last moved. -/
structure Tide where
  slots  : Store TideSlot := []
  g      : Frac := ⟨0, 0⟩
  soak   : Frac := ⟨0, 0⟩
  cPrev  : Frac := ⟨36000, 0⟩
  sent   : Store (Option Nat) := []
  soakOf : Store Frac := []
  mjIn   : Frac := ⟨0, 0⟩
  mjSoak : Frac := ⟨0, 0⟩
  mjTile : Store Frac := []
  fellAt : Nat := 0
  movedAt : Nat := 0
  deriving DecidableEq, Repr

/-- A temperature sensor's trust and shutdown logic (R502, R504): consecutive samples at the shutdown level, and since when it
has differed from its reference. -/
structure Sens where
  hot   : Nat := 0
  off   : Option Nat := none
  deriving DecidableEq, Repr

/-- The averages and the judging of the coolant (R512 to R514). -/
structure Tray where
  /-- Readings since the last window: inlet, outlet (0.01 °C), flow (0.01 L/min), input power (W). -/
  inlets  : List Int := []
  outlets : List Int := []
  flows   : List Nat := []
  powers  : List Nat := []
  failIn  : Nat := 0
  failOut : Nat := 0
  silent  : Nat := 0
  /-- BUS_OK was 1 throughout the window so far. -/
  okAll   : Bool := true
  prevPower : Option Nat := none
  /-- Consecutive judged windows in which a test held, or did not. -/
  balRun  : Int := 0
  riseRun : Int := 0
  learned : List Frac := []
  deriving DecidableEq, Repr

/-- Quench limits sent and not yet received, and when each release timer started (R506). -/
structure Quench where
  sent   : Store (Option Nat) := []
  timers : Store (Option Nat) := []
  deriving DecidableEq, Repr

/-- PTP and the epoch (R452, R493, R495): the rate and the step that wait for a boundary, and the boundary's device time in the
epoch word that each tile received last. -/
structure Ptp where
  words : Store W64 := []
  rate : Option W32 := none
  step : Option Int := none
  /-- The epoch of device time, bits [63:20], after the last boundary. -/
  epoch : Nat := 0
  deriving DecidableEq, Repr

/-! ### Power-on and ageing (chapter 18) -/

/-- When a crucible's last ageing sample was taken, and whether MARGIN_LOW has made the next one due (R562). -/
structure Aging where
  last : Nat := 0
  now  : Bool := false
  deriving DecidableEq, Repr

/-- A tile's entry of the site map (R560, R567). -/
structure Site where
  result  : Nat := 0
  tester  : Nat := 0
  lanes   : Nat := 0
  changed : Bool := false
  deriving DecidableEq, Repr

/-- Module flash (R550, R560, R566): the firmware slot to boot first, the boot count, the site map of the previous boot, each
crucible's TOTAL drift, and each tile's plans as (seconds of powered time, drift in 0.1 mV). -/
structure Flash where
  slot   : Nat := 0
  boots  : Nat := 0
  sites  : Store Site := []
  drifts : Store (BitVec 16) := []
  plans  : Store (List (Nat × Int)) := []
  /-- Seconds of powered time before this power-on. -/
  powered : Nat := 0
  deriving DecidableEq, Repr

/-- Power-on and main power (R508 to R510, R549 to R552, R607, R609). -/
structure Boot where
  vaux    : Bool := false
  main    : Bool := false
  inh     : Bool := false
  fwOk    : Bool := false
  /-- Release of the steward firmware that runs (R587). -/
  release : W32 := 0
  /-- Main power is off after a thermal shutdown, and when that was. -/
  afterShut : Bool := false
  shutAt  : Nat := 0
  /-- Times of the shutdowns of the last 60 minutes. -/
  shuts   : List Nat := []
  /-- The THERMAL record waits for main power. -/
  shutLog : Bool := false
  /-- RESTART was written and its conditions did not hold yet. -/
  restartReq : Bool := false
  /-- This bring-up is a restart under R509. -/
  restarted : Bool := false
  /-- Host ports whose PERST# is asserted. -/
  perst   : List HostPort := []
  deriving DecidableEq, Repr

/-! ### The recast sequencer (chapter 17) -/

/-- How far a heat's recast has come (R525). -/
inductive HeatPhase where
  | running
  /-- Fenced, in the journal settle. -/
  | settling
  /-- Settled and reset; the spares wake and refill. -/
  | refilling
  | held
  | stopped
  deriving DecidableEq, Repr, Inhabited

/-- A dead tile's place in a recast: the spare that takes its slot, and whether that spare's refill has begun and ended. -/
structure Swap where
  dead  : Nat
  slot  : Nat
  spare : Nat
  begun : Bool
  done  : Bool
  deriving DecidableEq, Repr

/-- What the sequencer holds of a heat, kept under the heat's lowest polder. -/
structure Heat where
  phase  : HeatPhase := .running
  /-- When the report that started the recast, and the fence, were received. -/
  report : Nat := 0
  fenced : Nat := 0
  swaps  : List Swap := []
  cause  : Nat := 0
  /-- RC_CTL.RESUME was written and the seal's fence is still in force (R532). -/
  ask    : Bool := false
  /-- Times of re-admissions within the last second (R532). -/
  admits : List Nat := []
  deriving DecidableEq, Repr, Inhabited

/-! ### Castings and pours (chapter 11) -/

/-- A casting load in progress: its source, address and length, CAST_STAT.STATE before it, and when it began. -/
structure CastRun where
  src   : Nat
  addr  : Nat
  len   : Nat
  was   : Nat
  since : Nat
  /-- Who started the load: its REG records act for this requester. -/
  who   : Requester := .mgmt
  /-- From step 6: the tile of each slot of the casting, as (polder, slot, tile). -/
  map   : List (Nat × Nat × Nat) := []
  deriving DecidableEq, Repr

/-- An extent of a POUR section (R370). `die` is the sluice die that fetches it (R371). -/
structure PourExt where
  object : Nat
  off    : Nat
  len    : Nat
  crc    : W32
  kind   : Nat
  slot   : Nat
  pol    : Nat
  bed    : Nat
  addr   : Nat
  die    : Nat
  deriving DecidableEq, Repr

/-- A server of a SERVERS section. -/
structure PourServer where
  addr  : List Byte
  port  : Nat
  valid : Bool
  deriving DecidableEq, Repr, Inhabited

/-- What the manifest says of a bed for the rate check (R365, R372). -/
structure BedPlan where
  bed    : Nat
  tier   : Nat
  weight : Nat
  passNs : Nat
  wdogNs : Nat
  allot  : List Nat
  deriving DecidableEq, Repr

/-- A polder of the manifest: its number, its corners, its spares and its slot-valid mask. -/
structure PolderEnt where
  pol    : Nat
  x0     : Nat
  y0     : Nat
  x1     : Nat
  y1     : Nat
  spares : List Nat
  mask   : Nat
  deriving DecidableEq, Repr

/-- What the engine keeps of the casting in force: extents, servers, bed plans, polders, start list, and each slot's per-slot
register values (R536), keyed by polder × 128 + slot, and the image digest. -/
structure Casting where
  exts    : List PourExt := []
  servers : List PourServer := []
  /-- SERVERS of the manifest, and the fleet device number as the load found it (R371, R455). -/
  nServers : Nat := 0
  device  : Nat := 0
  plans   : List BedPlan := []
  polders : List PolderEnt := []
  starts  : List Nat := []
  slots   : Store (List Nat) := []
  digest  : List Byte := []
  deriving DecidableEq, Repr, Inhabited

/-- A pour session of a sluice die, besides its SESS registers (R375 to R378, R596). -/
structure Sess where
  seq    : Nat := 0
  limit  : Nat := 0
  got    : List Nat := []
  epoch  : Nat := 0
  /-- Consecutive authentication failures. -/
  fails  : Nat := 0
  /-- STOPs or HELLOs sent so far, and when the last one was. -/
  tries  : Nat := 0
  at_    : Nat := 0
  /-- When the last CREDIT was sent. -/
  credit : Nat := 0
  hello  : List Byte := []
  /-- The ephemeral key, named by the model's counter; erased once the session key is derived. -/
  eph    : Option Nat := none
  key    : List Byte := []
  /-- The server's address and UDP port. -/
  addr   : List Byte := []
  udp    : Nat := 0
  deriving DecidableEq, Repr, Inhabited

/-- A request message that is open: tag, stop epoch, session and range within the extent. -/
structure Ask where
  tag   : Nat
  epoch : Nat
  sess  : Nat
  off   : Nat
  len   : Nat
  deriving DecidableEq, Repr

/-- Where an extent stands on its way to its destination (R374): its bytes come or wait in the ladle, its staging slot is being probed, the
slot is granted, or its packets have left. -/
inductive PullStage where
  | ladle | probing | granted | sent
  deriving DecidableEq, Repr

/-- An extent on its way through a ladle: its index, the server asked, the re-requests of that server, the servers that failed
it, its open messages, the bytes in the ladle, when the last frame came, whether it is complete, and its way to the destination with the
transaction tag of its packets (R374, R379). -/
structure Pull where
  ext    : Nat
  server : Nat
  tries  : Nat := 0
  failed : List Nat := []
  asks   : List Ask := []
  data   : Store (Option Byte) := []
  last   : Nat := 0
  whole  : Bool := false
  stage  : PullStage := .ladle
  tag    : Nat := 0
  deriving DecidableEq, Repr

/-- What a sluice die pours: its sessions, its extents in the ladle, those it has drained, its last request tag, and the number
of its last sessions with each server that failed in a row. -/
structure PourDie where
  sess  : Store Sess := []
  pulls : List Pull := []
  done  : List Nat := []
  tag   : Nat := 0
  downs : Store Nat := []
  /-- Polders whose streaming requests are stopped by a fence. -/
  held  : List Nat := []
  /-- The servers of failed sessions, by address and UDP port, and when the last one failed (R380). -/
  lost  : List (List Byte × Nat × Nat) := []
  deriving DecidableEq, Repr, Inhabited

/-! ### Host queues (chapter 12) -/

/-- How far a fetched command has come: fetched, before its start point, and past it (R402). -/
inductive CmdStage where
  | fetched | begun | started
  deriving DecidableEq, Repr

/-- A command that was fetched and has not completed, with the completion ring in which it holds room (R402). -/
structure HostCmd where
  port  : HostPort
  sq    : Nat
  cq    : Nat
  entry : List Byte
  head  : Nat
  stage : CmdStage
  deriving DecidableEq, Repr

/-- What a completion or token ring holds besides its registers: records accepted and not yet written, entries since the last
interrupt with the time of the first, and whether the index block is behind. -/
structure QueueDyn where
  fifo  : List (List Byte) := []
  fresh : Nat := 0
  first : Nat := 0
  stale : Bool := false
  deriving DecidableEq, Repr

/-- An egress endpoint's datagram in the making (R416). -/
structure EgressBuf where
  recs  : List (List Byte) := []
  first : Nat := 0
  deriving DecidableEq, Repr

/-! ### Faults, monitors and the event log (chapters 17 and 19) -/

/-- A report on its way to the recast sequencer (R520). -/
structure Report where
  tile   : Nat
  cause  : Nat
  unit   : Nat
  detail : Nat
  since  : Nat
  deriving DecidableEq, Repr

/-- A monitor channel's capture (R572), as a clear leaves it (R573). -/
structure MonCap where
  count : W64 := 0
  sum   : Int := 0
  min   : W32 := 0x7FFFFFFF
  max   : W32 := 0x80000000
  minTs : W32 := 0
  maxTs : W32 := 0
  bins  : Store W32 := []
  deriving DecidableEq, Repr, Inhabited

/-! ### Trust (chapter 20) -/

/-- A customer-key slot (R586, R591): the enrolled point, empty when the slot is empty, its usage bits and whether it is revoked. -/
structure KeySlot where
  point   : List Byte := []
  usage   : Nat := 0
  revoked : Bool := false
  deriving DecidableEq, Repr

/-- What the security block keeps without VAUX: the anti-rollback counter and the customer keys. -/
structure SecBlock where
  rollback : W32 := 0
  slots    : Store KeySlot := []
  deriving DecidableEq, Repr

/-- An SPDM connection (R588): how far it has been negotiated. -/
structure SpdmConn where
  version : Bool := false
  caps    : Bool := false
  algs    : Bool := false
  deriving DecidableEq, Repr

/-! ### What leaves the module -/

/-- Messages the engine sends to the outside. -/
inductive OutMsg where
  /-- An MSI-X message of a host port, with its vector. -/
  | msix (port : HostPort) (vec : Nat)
  /-- An Ethernet frame of egress: the engine-wide port, and the frame's bytes but for its FCS. -/
  | frame (eth : Nat) (bytes : List Byte)
  /-- A reply on a management or SPDM transport. -/
  | reply (tr : Transport) (body : List Byte)
  /-- A datagram of a pour session: the engine-wide Ethernet port, the server's address and UDP port, the engine's UDP port and the UDP
  payload. -/
  | pour (eth : Nat) (dst : List Byte) (dstPort srcPort : Nat) (data : List Byte)
  /-- The data of an aperture read of a host port. -/
  | data (port : HostPort) (bytes : List Byte)
  deriving DecidableEq, Repr

/-! ### The PCIe functions (R386, R387, R414) -/

/-- A vector of a port's MSI-X table with its bit of the pending-bit array. -/
structure MsixVec where
  masked  : Bool := false
  pending : Bool := false
  deriving DecidableEq, Repr, Inhabited

/-- What software sets in the configuration space of a port's function: MSI-X Enable and Function Mask, and the table.
(DESIGN CHOICE: log entry 137) -/
structure PciFn where
  msixOn   : Bool := true
  funcMask : Bool := false
  vecs     : Store MsixVec := []
  deriving DecidableEq, Repr, Inhabited

/-! ### The whole state -/

/-- The state of the engine. Stores default to what an unlisted key reads as: zero, or the value named with the accessor. -/
structure State where
  /-- Commands that wait, first in, first out. -/
  pending   : List Instr := []
  /-- Device time in ns (R450). -/
  now       : W64 := 0
  /-- Nanoseconds of device time since VAUX power-on without its steps; a step moves every pending timeout by the same amount, so
  timeouts are measured with it (R450, R452). -/
  up        : Nat := 0
  /-- The part of a ns, in units of 10^-9, that the rate steering has accumulated (R491). -/
  sub       : Nat := 0
  /-- The model's own counter, which makes successive free values distinct. -/
  fresh     : Nat := 0
  /-- Register contents, each XORed with its reset value, keyed by page × 4096 + offset. -/
  regs      : Store W64 := []
  /-- Registers behind a selector (beds and host queues), each XORed with its reset value. -/
  wins      : Store W64 := []
  guards    : Store Guard := []
  shadows   : Store (Option Shadow) := []
  mbxs      : Store Mbx := []
  tapSets   : Store (List W64) := []
  tap       : TapRun := {}
  sealRun   : SealRun := {}
  timeSet   : Option W64 := none
  /-- Memories, keyed by unit and offset. -/
  pool      : Store Byte := []
  peat      : Store Byte := []
  mire      : Store Byte := []
  host      : Store Byte := []
  poolBad   : Store Bool := []
  peatBad   : Store Bool := []
  mireBad   : Store Bool := []
  tasks     : Store Task := []
  crus      : Store Crucible := []
  gates     : Store W32 := []
  slots     : Store SlotState := []
  probes    : Store (List Probe) := []
  rx        : Store (List RxMove) := []
  slotMap   : Store (BitVec 8) := []
  routes    : Store Nat := []
  rimEpoch  : Store (BitVec 4) := []
  genTab    : Store (BitVec 8) := []
  /-- Packets in the routers, in order of arrival there. -/
  net       : List Transit := []
  /-- Packets that the destination's router, or a sluice die, has granted its local port: in order of arrival (R139, R328). -/
  arrivals  : List Packet := []
  /-- Output ports of the routers, keyed by tile × 8 + port; port 6 is injection. -/
  ports     : Store MeshPort := []
  /-- Sending ends of lanes, keyed by (tile × 8 + port) × 8 + lane. -/
  laneTx    : Store LaneTx := []
  /-- The die's side of the sluice links that are fenced, by tile (R322). -/
  dieFence  : Store Bool := []
  pgQueue   : Store (List PgCmd) := []
  movers    : Store (List PgCmd) := []
  /-- Page commands pushed so far. -/
  pgPushed  : Nat := 0
  /-- Banks of the stacks, keyed by (stack × 64 + pseudo-channel) × 64 + bank. -/
  banks     : Store Bank := []
  /-- How far each scrubber has come in its pass: tile for its pools, 128 + tile for its peat, 256 + stack for a stack (R202, R344). -/
  scrubs    : Store Nat := []
  streams   : Store Stream := []
  beds      : Store Bed := []
  places    : Store Place := []
  wmoves    : List WMove := []
  /-- Riddle places in use, by tile. -/
  rplaces   : Store (List RPlace) := []
  /-- Hand-off parts arriving, by tile. -/
  handRx    : Store (List HandRx) := []
  nextTag   : Nat := 0
  /-- What the steward has reserved for bound streams (R406). -/
  kvAreas   : List KvArea := []
  castRun   : Option CastRun := none
  casting   : Casting := {}
  pours     : Store PourDie := []
  cmds      : List HostCmd := []
  queues    : Store QueueDyn := []
  egress    : Store EgressBuf := []
  /-- The PCIe functions, by the sluice die of their port. -/
  fns       : Store PciFn := []
  reports   : List Report := []
  mon       : Store MonCap := []
  monTap    : Store MonCap := []
  evRing    : Store (Option LogRec) := []
  sec       : SecBlock := {}
  /-- SPDM connections, by transport. -/
  spdm      : Store SpdmConn := []
  /-- The MCTP endpoint identifier that the bus owner assigned (R608). -/
  eid       : BitVec 8 := 0
  /-- Event-log records on their way to die 0. -/
  evWay     : List LogRec := []
  /-- For each page: the millisecond counted, the records it appended and those suppressed in it (R583). -/
  evRate    : Store (Nat × Nat × Nat) := []
  /-- Domains on their way to ON. -/
  ramps     : List Ramp := []
  /-- Rails whose minimum holds a sample (R464), keyed by tile × 3 + rail, then 240 + die. -/
  minvSeen  : Store Bool := []
  tide      : Tide := {}
  /-- Crucible clocks in kHz, keyed by tile × 4 + crucible, and steps deferred by stretching (R489, R490). -/
  khz       : Store Nat := []
  deferred  : Store Bool := []
  /-- When each crucible's clock last took a step (R489). -/
  stepAt    : Store Nat := []
  /-- The clock parent that each tile in holdover lost (R485). -/
  lostPort  : Store Nat := []
  /-- Each tile's VLOG setpoint in mV (R457). -/
  vlog      : Store Nat := []
  /-- Mesh references that are usable, keyed as PREF codes them (R480). -/
  refs      : Store Bool := []
  ptp       : Ptp := {}
  sens      : Store Sens := []
  quench    : Quench := {}
  tray      : Tray := {}
  boot      : Boot := {}
  flash     : Flash := {}
  sites     : Store Site := []
  /-- Tiles whose table is due to be planned, and when each was planned last (R564). -/
  planDue   : Store Bool := []
  planAt    : Store Nat := []
  /-- Ageing samples, keyed by tile × 4 + crucible. -/
  aging     : Store Aging := []
  heats     : Store Heat := []
  /-- Times each tile has been retired since power-on (R535). -/
  retires   : Store Nat := []
  /-- Times of the transients charged to each tile (R523), and of its fixed peat lines with their numbers (R524). -/
  charges   : Store (List Nat) := []
  fixes     : Store (List (Nat × Nat)) := []
  /-- When each tile last sent its heartbeat (R522). -/
  beats     : Store Nat := []
  out       : List OutMsg := []
  lastRead  : Store W64 := []
  deriving DecidableEq, Repr

/-- The engine before VAUX is present: every register at its reset value (registers are kept XORed with it), every memory, table
and queue empty, and what module flash and the security block keep as the factory left it. (DESIGN CHOICE: log entry 7) -/
def State.reset : State := {}

end Sys2Proof.Machine
end

