-- ==== Sys2Proof/Machine/Ops.lean ====
section
/-! DEFINITION. The named operations every family uses: pages and registers, events and counters, time, and the memories. -/
namespace Sys2Proof.Machine

/-! ### Pages (R420 to R424) -/

/-- What a mapped page is: its class, the instance on its unit, and its number within the class. -/
structure PageInfo where
  cls  : Nat
  inst : Nat
  sub  : Nat
  deriving DecidableEq, Repr

/-- The page map. -/
def pageInfo (n : Nat) : Option PageInfo :=
  if n < 10 then some ⟨n + 1, 0, 0⟩
  else if 0x1000 ≤ n && n < 0x1000 + 0x40 * 80 then
    let i := (n - 0x1000) / 0x40
    let b := (n - 0x1000) % 0x40
    if b = 0 then some ⟨0x10, i, 0⟩
    else if b ≤ 4 then some ⟨0x11, i, b - 1⟩
    else if b ≤ 15 then some ⟨0x12 + (b - 5), i, 0⟩
    else none
  else if 0x3000 ≤ n && n < 0x3000 + 0x100 * 8 then
    let d := (n - 0x3000) / 0x100
    let b := (n - 0x3000) % 0x100
    if b = 0 then some ⟨0x20, d, 0⟩
    else if b ≤ 2 then some ⟨0x21, d, b - 1⟩
    else if b = 3 then some ⟨0x22, d, 0⟩
    else if b ≤ 7 then some ⟨0x23, d, b - 4⟩
    else if b ≤ 11 then some ⟨0x24 + (b - 8), d, 0⟩
    else none
  else none

/-- Block numbers of a tile's pages (R422). -/
def tilePage (i b : Nat) : Nat := 0x1000 + 0x40 * i + b
def cruPage (i k : Nat) : Nat := tilePage i (1 + k)
def poolPage (i : Nat) : Nat := tilePage i 5
def peatPage (i : Nat) : Nat := tilePage i 6
def riddlePage (i : Nat) : Nat := tilePage i 7
def gatePage (i : Nat) : Nat := tilePage i 8
def cetisPage (i : Nat) : Nat := tilePage i 9
def pwrPage (i : Nat) : Nat := tilePage i 10
def clkPage (i : Nat) : Nat := tilePage i 11
def thermPage (i : Nat) : Nat := tilePage i 12
def monPage (i : Nat) : Nat := tilePage i 13
def faultPage (i : Nat) : Nat := tilePage i 14
def agePage (i : Nat) : Nat := tilePage i 15
/-- Block numbers of a sluice die's pages (R423). -/
def diePage (d b : Nat) : Nat := 0x3000 + 0x100 * d + b
def stewPage (d : Nat) : Nat := diePage d 0
def ethPage (e : Nat) : Nat := diePage (e / 2) (1 + e % 2)
def pciePage (d : Nat) : Nat := diePage d 3
def mirePage (j : Nat) : Nat := diePage (j / 4) (4 + j % 4)
def pourPage (d : Nat) : Nat := diePage d 8
def ladlePage (d : Nat) : Nat := diePage d 9
def secPage : Nat := diePage 0 10
def trayPage (d : Nat) : Nat := diePage d 11
/-- The device-global pages (R421). -/
def devPage : Nat := 0
def hsemPage : Nat := 1
def sealPage : Nat := 2
def tapPage : Nat := 3
def tidePage : Nat := 4
def timePage : Nat := 5
def streamPage : Nat := 6
def polderPage : Nat := 7
def fleetPage : Nat := 8
def evlogPage : Nat := 9

/-- The sluice die of a host port (R12). -/
def portDie : HostPort → Nat | .a => 0 | .b => 4
def portPage (p : HostPort) : Nat := pciePage (portDie p)
/-- The requester a host port is. -/
def portWho : HostPort → Requester | .a => .portA | .b => .portB
/-- Requesters as GUARD_WHO codes them (R426). -/
def whoCode : Requester → Nat | .portA => 1 | .portB => 2 | .mgmt => 3

/-- A unit of R446 as a number: tiles 0 to 79, sluice dies 80 to 87, the device-global block 88. -/
def unitIx : UnitRef → Nat | .tile i => i.val | .die d => 80 + d.val | .global => 88

/-- The pages of a unit. -/
def unitPages (u : Nat) : List Nat :=
  if u < 80 then (List.range 16).map (tilePage u)
  else if u < 88 then (List.range 12).map (diePage (u - 80))
  else List.range 10

/-- The unit of a mapped page. -/
def unitOf (n : Nat) : Nat :=
  if n < 0x1000 then 88 else if n < 0x3000 then (n - 0x1000) / 0x40 else 80 + (n - 0x3000) / 0x100

/-- All mapped pages in ascending order (R424). -/
def allPages : List Nat :=
  List.range 10 ++ (List.range 80).flatMap unitPages ++ (List.range 8).flatMap (fun d => unitPages (80 + d))

/-! ### Registers -/

/-- Whether a register of a class exists on a page (R359, R381, R401, R517, R567, R599). -/
def Where.holds (w : Where) (p : PageInfo) : Bool :=
  match w with
  | .every => true
  | .die0 => p.inst = 0
  | .hosts => p.inst = 0 || p.inst = 4
  | .mire0 => p.sub = 0
  | .mire00 => p.inst = 0 && p.sub = 0

/-- Whether an offset belongs to a register or to a member of a register array. -/
def RegDef.hits (r : RegDef) (off : Nat) : Bool :=
  match r.dims with
  | [] => off = r.base
  | [(st, n)] => decide (r.base ≤ off) && (off - r.base) % st == 0 && decide ((off - r.base) / st < n)
  | (s1, n1) :: (s2, n2) :: _ =>
    decide (r.base ≤ off) && decide ((off - r.base) / s1 < n1) && (off - r.base) % s1 % s2 == 0 &&
      decide ((off - r.base) % s1 / s2 < n2)

/-- The register at an offset of a page. -/
def regAt (page off : Nat) : Option RegDef :=
  match pageInfo page with
  | none => none
  | some p => (Reg.tableHead ++ Reg.tableOf p.cls).find? (fun r => r.hits off && r.on.holds p)

/-- The fields of the register at an offset; none where no register lies. The high half of MON_EDGE[m][7] is reserved (R578). -/
def fieldsAt (page off : Nat) : List FieldDef :=
  match regAt page off with
  | none => []
  | some r => if r.name = "MON_EDGE" && off % 0x40 = 0x38 then r.fields.take 1 else r.fields

/-- The reset value of a register: its fields' reset values in place. (DESIGN CHOICE: log entry 7) -/
def resetOf (page off : Nat) : W64 :=
  word ((fieldsAt page off).map (fun f => (f.lo, f.rst)))

/-- The mask of the fields of one access type. -/
def accMask (page off : Nat) (a : Acc) : W64 :=
  ((fieldsAt page off).filter (fun f => f.acc = a)).foldl (fun m f => m ||| maskOf f.hi f.lo) 0

/-- Where a register is kept. -/
def regKey (page off : Nat) : Nat := page * 4096 + off

/-- A register's stored value. (DESIGN CHOICE: log entry 6) -/
def State.reg (s : State) (page off : Nat) : W64 := Store.get 0 s.regs (regKey page off) ^^^ resetOf page off

/-- A register set to a value. (DESIGN CHOICE: log entry 6) -/
def State.setReg (s : State) (page off : Nat) (v : W64) : State :=
  { s with regs := Store.set 0 s.regs (regKey page off) (v ^^^ resetOf page off) }

/-! ### Registers behind a selector (R273, R401) -/

/-- The keys of a bed's registers and of a host queue's registers. -/
def bedKey (b off : Nat) : Nat := b * 4096 + off
def queueKey (die kind num off : Nat) : Nat := 2 ^ 24 + ((die * 4 + kind) * 256 + num) * 4096 + off

/-- The key of the register that a selector shows at an offset; none where the register is not behind a selector. -/
def State.winKey (s : State) (page off : Nat) : Option Nat :=
  if page = polderPage && decide (0x408 ≤ off) && decide (off ≤ 0x428) then
    some (bedKey (fld (s.reg polderPage Reg.BED_SEL) 7 0) off)
  else if (page = pciePage 0 || page = pciePage 4) && decide (0x208 ≤ off) && decide (off ≤ 0x230) && off ≠ 0x228 then
    let q := s.reg page Reg.Q_SEL
    some (queueKey ((page - 0x3000) / 0x100) (fld q 9 8) (fld q 7 0) off)
  else none

/-- The stored value of a register, behind its selector where it has one. (DESIGN CHOICE: log entry 6) -/
def State.stored (s : State) (page off : Nat) : W64 :=
  match s.winKey page off with
  | some k => Store.get 0 s.wins k ^^^ resetOf page off
  | none => s.reg page off

/-- The stored value set, behind its selector where it has one. (DESIGN CHOICE: log entry 6) -/
def State.storeReg (s : State) (page off : Nat) (v : W64) : State :=
  match s.winKey page off with
  | some k => { s with wins := Store.set 0 s.wins k (v ^^^ resetOf page off) }
  | none => s.setReg page off v

/-- The registers of one bed. -/
def State.bedReg (s : State) (b off : Nat) : W64 := Store.get 0 s.wins (bedKey b off) ^^^ resetOf polderPage off
def State.setBedReg (s : State) (b off : Nat) (v : W64) : State :=
  { s with wins := Store.set 0 s.wins (bedKey b off) (v ^^^ resetOf polderPage off) }
/-- The registers of one host queue. -/
def State.queueReg (s : State) (p : HostPort) (kind num off : Nat) : W64 :=
  Store.get 0 s.wins (queueKey (portDie p) kind num off) ^^^ resetOf (portPage p) off
def State.setQueueReg (s : State) (p : HostPort) (kind num off : Nat) (v : W64) : State :=
  { s with wins := Store.set 0 s.wins (queueKey (portDie p) kind num off) (v ^^^ resetOf (portPage p) off) }

/-- A field of a register. -/
def State.rf (s : State) (page off hi lo : Nat) : Nat := fld (s.reg page off) hi lo

/-- One bit of a register. -/
def State.rb (s : State) (page off i : Nat) : Bool := fbit (s.reg page off) i

/-- A field of a register set. -/
def State.setRf (s : State) (page off hi lo v : Nat) : State := s.setReg page off (setFld (s.reg page off) hi lo v)

/-- One bit of a register set. -/
def State.setRb (s : State) (page off i : Nat) (b : Bool) : State := s.setReg page off (setBit (s.reg page off) i b)

/-- An RO, RC or status field set only where it changes nothing else: several fields at once. -/
def State.setFields (s : State) (page off : Nat) (parts : List (Nat × Nat × Nat)) : State :=
  s.setReg page off (parts.foldl (fun w p => setFld w p.1 p.2.1 p.2.2) (s.reg page off))

/-- A counter of a page advanced (R425); it wraps at 2^64. -/
def State.bump (s : State) (page slot n : Nat) : State :=
  s.setReg page (Reg.COUNTER slot) (s.reg page (Reg.COUNTER slot) + BitVec.ofNat 64 n)

/-- The low 32 bits of device time, for time-stamps (R450). -/
def State.ts (s : State) : Nat := s.now.toNat % 2 ^ 32

/-! ### Output -/

/-- DESIGN CHOICE: log entry 10. -/
def State.send (s : State) (m : OutMsg) : State := { s with out := s.out ++ [m] }

/-- An MSI-X message of a port, counted in INTERRUPTS (R418); a masked vector becomes pending in its place (R414).
(DESIGN CHOICE: log entry 10) -/
def State.msix (s : State) (p : HostPort) (vec : Nat) : State :=
  let f := Store.get {} s.fns (portDie p)
  let v := Store.get {} f.vecs vec
  if !f.msixOn then s
  else if f.funcMask || v.masked then
    { s with fns := Store.set {} s.fns (portDie p) { f with vecs := Store.set {} f.vecs vec { v with pending := true } } }
  else (s.send (.msix p vec)).bump (portPage p) 6 1

/-! ### Events and the event summary (R426, R427, R454) -/

/-- Whether a page has a pending event. -/
def State.pagePend (s : State) (page : Nat) : Bool := (s.reg page Reg.EVT_RAW &&& s.reg page Reg.EVT_EN) ≠ 0

/-- The summary bit that a page contributes to: one per tile or sluice die, one per device-global page. -/
def State.sumBit (s : State) (page : Nat) : Bool :=
  if page < 0x1000 then s.pagePend page else (unitPages (unitOf page)).any s.pagePend

/-- A change of a page's event registers, followed by the summary interrupt of R454 when its bit rises. (DEDUCED: log entry 81) -/
def State.withSummary (s : State) (page : Nat) (f : State → State) : State :=
  let before := s.sumBit page
  let t := f s
  if !before && t.sumBit page then
    let t := if t.rb devPage Reg.DEV_CTL 0 then t.msix .a (t.rf (portPage .a) Reg.EVT_VEC 10 0) else t
    if t.rb devPage Reg.DEV_CTL 1 then t.msix .b (t.rf (portPage .b) Reg.EVT_VEC 10 0) else t
  else t

/-- A write of a register with what it starts: the event bits that it raises signal themselves, and a write of EVT_EN can make a
summary bit rise by letting a raised event through. (DEDUCED: log entry 81) -/
def State.summarized (s : State) (page off : Nat) (f : State → State) : State :=
  if off - off % 8 = Reg.EVT_EN then s.withSummary page f else f s

/-- An event bit of a page set. -/
def State.raise (s : State) (page b : Nat) : State :=
  s.withSummary page (fun s => s.setRb page Reg.EVT_RAW b true)

/-- An event-log record sent to die 0 from a page (R581). -/
def State.log (s : State) (page cause sev : Nat) (d0 d1 : W64) : State :=
  { s with evWay := s.evWay ++ [⟨s.now, BitVec.ofNat 8 cause, BitVec.ofNat 2 sev, BitVec.ofNat 16 page, d0, d1⟩] }

/-- A fault report on a tile's FAULT page, forwarded to the recast sequencer (R520, R546). -/
def State.report (s : State) (tile cause unit detail : Nat) : State :=
  let pg := faultPage tile
  let s := s.setFields pg Reg.FAULT_REC [(7, 0, cause), (10, 8, unit), (63, 32, s.ts)]
  let s := s.setRf pg Reg.FAULT_INFO 31 0 detail
  let s := (s.raise pg 0).bump pg 0 1
  { s with reports := s.reports ++ [⟨tile, cause, unit, detail, s.up⟩] }

/-! ### Free values -/

/-- One step of the model's own counter. (DESIGN CHOICE: log entry 5) -/
def State.tickFresh (s : State) : State := { s with fresh := s.fresh + 1 }

/-- n bytes that the manual leaves undefined. (DESIGN CHOICE: log entries 5, 17) -/
def undefBytes (seed : Nat) (n : Nat) : List Byte := (List.range n).map (Config.undefByte seed)

/-! ### Byte memories -/

/-- n bytes of a store from a key. (DESIGN CHOICE: log entry 8) -/
def getBytes (m : Store Byte) (key : Nat) : Nat → List Byte
  | 0 => []
  | n + 1 => Store.get 0 m key :: getBytes m (key + 1) n

/-- Bytes put into a store from a key. -/
def putBytes (m : Store Byte) (key : Nat) : List Byte → Store Byte
  | [] => m
  | b :: r => putBytes (Store.set 0 m key b) (key + 1) r

/-- Keys of the pools, the peats and the host memories. -/
def poolKey (tile cru off : Nat) : Nat := (tile * 4 + cru) * 2 ^ 25 + off
def peatKey (tile off : Nat) : Nat := tile * 2 ^ 33 + off
/-- DESIGN CHOICE: log entry 9. -/
def hostKey (p : HostPort) (addr : Nat) : Nat := (match p with | .a => 0 | .b => 2 ^ 64) + addr % 2 ^ 64

/-- Pool size in bytes, peat size, mire size (R75). -/
def poolSize : Nat := 0x1800000
def peatSize : Nat := 0x200000000
def mireSize : Nat := 0x18000000000

/-- The lines of a width that a range of bytes touches. -/
def linesOf (width off n : Nat) : List Nat :=
  if n = 0 then [] else (List.range ((off + n - 1) / width - off / width + 1)).map (fun i => off / width + i)

/-- The lines of a width that a range of bytes covers wholly. -/
def fullLines (width off n : Nat) : List Nat :=
  (linesOf width off n).filter (fun l => off ≤ l * width && (l + 1) * width ≤ off + n)

/-- Marks of a poison store cleared. -/
def clearMarks (m : Store Bool) : List Nat → Store Bool
  | [] => m
  | k :: r => clearMarks (Store.set false m k false) r

/-- Keys of poison marks: pool lines of 4 KiB, peat lines of 256 bytes (R169, R175, R202). -/
def poolLineKey (tile cru line : Nat) : Nat := (tile * 4 + cru) * 2 ^ 13 + line
def peatLineKey (tile line : Nat) : Nat := tile * 2 ^ 25 + line

/-- Where a peat offset lies (R175): its layer, its 256-byte line in the layer, and that line's bank and row. -/
def peatLayer (o : Nat) : Nat := bits o 32 31
def peatLine (o : Nat) : Nat := bits o 30 8
def peatBank (line : Nat) : Nat := bits line 8 0 ^^^ bits line 17 9 ^^^ bits line 22 18
def peatRow (line : Nat) : Nat := bits line 22 9

def State.readPool (s : State) (tile cru off n : Nat) : List Byte := getBytes s.pool (poolKey tile cru off) n
def State.poolPoisoned (s : State) (tile cru off n : Nat) : Bool :=
  (linesOf 4096 off n).any (fun l => Store.get false s.poolBad (poolLineKey tile cru l))
/-- A pool write; a whole-line write clears the line's poison (R202). -/
def State.writePool (s : State) (tile cru off : Nat) (bs : List Byte) : State :=
  { s with pool := putBytes s.pool (poolKey tile cru off) bs,
           poolBad := clearMarks s.poolBad ((fullLines 4096 off bs.length).map (poolLineKey tile cru)) }

/-- Peat as the banks hold it. -/
def State.readPeat (s : State) (tile off n : Nat) : List Byte := getBytes s.peat (peatKey tile off) n
def State.peatPoisoned (s : State) (tile off n : Nat) : Bool :=
  (linesOf 256 off n).any (fun l => Store.get false s.peatBad (peatLineKey tile l))
/-- A write to the peat banks, counted in LINES_WRITTEN one per line (R206); a whole-line write clears poison. -/
def State.writePeat (s : State) (tile off : Nat) (bs : List Byte) : State :=
  let s := { s with peat := putBytes s.peat (peatKey tile off) bs,
                    peatBad := clearMarks s.peatBad ((fullLines 256 off bs.length).map (peatLineKey tile)) }
  s.bump (peatPage tile) 1 (linesOf 256 off bs.length).length
/-- LINES_READ advanced for a bank read. -/
def State.countPeatRead (s : State) (tile off n : Nat) : State :=
  s.bump (peatPage tile) 0 (linesOf 256 off n).length

/-- Mire bytes by mire address; poison is kept per 256-byte granule (R343). (DESIGN CHOICE: log entry 8) -/
def State.readMire (s : State) (a n : Nat) : List Byte := getBytes s.mire a n
def State.mirePoisoned (s : State) (a n : Nat) : Bool := (linesOf 256 a n).any (fun g => Store.get false s.mireBad g)
def State.writeMire (s : State) (a : Nat) (bs : List Byte) : State :=
  { s with mire := putBytes s.mire a bs, mireBad := clearMarks s.mireBad (fullLines 256 a bs.length) }

/-- The stack that holds a mire address (R339): sluice die, stack of the die, local address. -/
def mireDie (a : Nat) : Nat := bits a 14 12 ^^^ bits a 19 17 ^^^ bits a 24 22
def mireSub (a : Nat) : Nat := bits a 9 8 ^^^ bits a 16 15
def mireStack (a : Nat) : Nat := 4 * mireDie a + mireSub a
def mireLocal (a : Nat) : Nat := bits a 40 15 * 2 ^ 10 + bits a 11 10 * 2 ^ 8 + bits a 7 0

/-- Bytes of a host memory. (DESIGN CHOICE: log entries 8, 9) -/
def State.readHost (s : State) (p : HostPort) (a n : Nat) : List Byte := getBytes s.host (hostKey p a) n
/-- DESIGN CHOICE: log entry 9. -/
def State.writeHost (s : State) (p : HostPort) (a : Nat) (bs : List Byte) : State :=
  { s with host := putBytes s.host (hostKey p a) bs }

/-! ### Task contexts and crucibles -/

def taskKey (tile cru task : Nat) : Nat := (tile * 4 + cru) * 8 + task
def cruKey (tile cru : Nat) : Nat := tile * 4 + cru

def State.task (s : State) (tile cru task : Nat) : Task := Store.get {} s.tasks (taskKey tile cru task)
def State.setTask (s : State) (tile cru task : Nat) (t : Task) : State :=
  { s with tasks := Store.set {} s.tasks (taskKey tile cru task) t }
def State.cru (s : State) (tile cru : Nat) : Crucible := Store.get {} s.crus (cruKey tile cru)
def State.setCru (s : State) (tile cru : Nat) (c : Crucible) : State :=
  { s with crus := Store.set {} s.crus (cruKey tile cru) c }

/-- Register reads and writes of a task: s0 reads zero and p0 reads one, and writes to them are dropped (R113). -/
def Task.rs (t : Task) (i : BitVec 5) : W32 := if i = 0 then 0 else Store.get 0 t.s i.toNat
def Task.setRs (t : Task) (i : BitVec 5) (v : W32) : Task := if i = 0 then t else { t with s := Store.set 0 t.s i.toNat v }
def Task.ra (t : Task) (i : BitVec 4) : Addr := Store.get 0 t.a i.toNat
def Task.setRa (t : Task) (i : BitVec 4) (v : Addr) : Task := { t with a := Store.set 0 t.a i.toNat v }
def Task.rd (t : Task) (i : BitVec 4) : Desc := Store.get {} t.d i.toNat
def Task.setRd (t : Task) (i : BitVec 4) (v : Desc) : Task := { t with d := Store.set {} t.d i.toNat v }
def Task.rp (t : Task) (i : BitVec 3) : Bool := i = 0 || Store.get false t.p i.toNat
def Task.setRp (t : Task) (i : BitVec 3) (v : Bool) : Task := if i = 0 then t else { t with p := Store.set false t.p i.toNat v }

/-- The work queues of a crucible by unit (R64). -/
def Crucible.queue (c : Crucible) : UnitKind → List Work
  | .mould => c.mould | .vector => c.vector | .attention => c.attn | .runner => c.runner
def Crucible.setQueue (c : Crucible) (u : UnitKind) (l : List Work) : Crucible :=
  match u with
  | .mould => { c with mould := l } | .vector => { c with vector := l }
  | .attention => { c with attn := l } | .runner => { c with runner := l }
def unitDepth : UnitKind → Nat | .mould => 8 | .vector => 8 | .attention => 4 | .runner => 16
/-- TASK_FAULT.UNIT codes of R108. -/
def unitCode : UnitKind → Nat | .mould => 2 | .vector => 3 | .attention => 4 | .runner => 5
/-- All work of a crucible, by unit. -/
def Crucible.works (c : Crucible) : List Work := c.mould ++ c.vector ++ c.attn ++ c.runner

end Sys2Proof.Machine
end

