-- ==== Sys2Proof/Machine/Views.lean ====
section
/-! DEFINITION. What a register read returns where the value is kept elsewhere in the state: status fields, selected entries
of tables, and the common head. Every other register reads as stored. -/
namespace Sys2Proof.Machine

/-! ### The common head (R426) -/

/-- Number of counter slots and of event bits of a page, as the owning chapters define them. -/
def pageCounts (p : PageInfo) : Nat × Nat :=
  match p.cls with
  | 0x01 => (2, 2) | 0x02 => (4, 1) | 0x03 => (3, 2) | 0x04 => (1, 3) | 0x05 => (6, 6) | 0x06 => (1, 1) | 0x07 => (5, 3)
  | 0x08 => (14, 8) | 0x09 => (0, 0) | 0x0A => (3, 2) | 0x11 => (15, 4) | 0x12 => (8, 5) | 0x13 => (10, 5)
  | 0x14 => (12, 6) | 0x15 => (5, 1) | 0x16 => (12, 7) | 0x17 => (7, 4) | 0x18 => (5, 3) | 0x19 => (6, 5) | 0x1A => (3, 5)
  | 0x1B => (3, 2) | 0x1C => (3, 3)
  | 0x20 => if p.inst = 0 then (3, 9) else (0, 0)
  | 0x21 => (8, 3)
  | 0x22 => if p.inst = 0 || p.inst = 4 then (8, 6) else (0, 0)
  | 0x23 => if p.sub = 0 then (10, 6) else (8, 4)
  | 0x24 => (10, if p.inst = 0 then 8 else 5)
  | 0x25 => (7, 4)
  | 0x26 => if p.inst = 0 then (7, 5) else (0, 0)
  | 0x27 => if p.inst = 0 then (4, 9) else (0, 3)
  | _ => (0, 0)

/-- Whether the block-specific registers of a page hold a field of an access type. -/
def pageHas (p : PageInfo) (a : Acc) : Bool :=
  (Reg.tableOf p.cls).any (fun r => r.on.holds p && r.fields.any (fun f => f.acc = a))

/-- Whether a page defines mailbox values below 0xF000: STREAM, EVLOG, MON and the security block's SEC page. -/
def pageMbx (p : PageInfo) : Bool :=
  p.cls = 0x07 || p.cls = 0x0A || p.cls = 0x1A || (p.cls = 0x26 && p.inst = 0)

def pageIdView (n : Nat) (p : PageInfo) : W64 := word [(0, p.cls), (8, p.inst), (16, p.sub), (24, 1), (48, n)]
def pageCapView (p : PageInfo) : W64 :=
  let (c, e) := pageCounts p
  word [(0, c), (8, e), (16, b2n (pageHas p .gw)), (17, b2n (pageHas p .sl)), (18, b2n (pageMbx p))]

def State.guard (s : State) (page : Nat) : Guard := Store.get {} s.guards page

/-- The requester that holds a page's unlock, 0 when none does or its time is over (R436). -/
def State.guardOwner (s : State) (page : Nat) : Nat :=
  let g := s.guard page
  if s.up < g.till then g.owner else 0

def State.guardView (s : State) (page : Nat) : W64 :=
  let o := s.guardOwner page
  word [(16, o), (32, if o = 0 then 0 else (s.guard page).till - s.up)]

def State.mbx (s : State) (who : Requester) (page : Nat) : Mbx := Store.get {} s.mbxs (whoCode who * 65536 + page)

/-- The mailbox registers of a requester (R433). -/
def State.mbxView (s : State) (who : Requester) (page off : Nat) : W64 :=
  let m := s.mbx who page
  if off = Reg.MBX_SEL then BitVec.ofNat 64 m.sel
  else if off = Reg.MBX_VALID then word [(0, b2n m.valid), (1, b2n m.bad), (48, m.tag)]
  else if 0xf10 ≤ off && off < 0xf50 && off % 8 = 0 then m.data.getD ((off - 0xf10) / 8) 0
  else 0

/-! ### Crucibles (R103, R104, R107, R108) -/

def tstateCode : TState → Nat
  | .idle => 0 | .ready => 1 | .waiting => 2 | .draining => 3 | .faulted => 4 | .halted => 5
def waitCode : WaitReason → Nat
  | .none => 0 | .sb => 1 | .sbfull => 2 | .queue => 3 | .load => 4 | .gate => 5 | .fetch => 6

/-- Dispatched instructions of a task that are neither completed nor discarded. -/
def Crucible.inflight (c : Crucible) (task : Nat) : Nat := (c.works.filter (fun w => w.task.val = task)).length

def State.cruView (s : State) (tile k off : Nat) (stored : W64) : W64 :=
  let mask (p : TState → Bool) : Nat :=
    ((List.range 8).map (fun t => if p (s.task tile k t).st then 2 ^ t else 0)).sum
  if off = Reg.CRU_STAT then setFld (setFld stored 7 0 (mask (· ≠ .idle))) 15 8 (mask (· = .faulted))
  else if off = Reg.SB_STAT then setFld stored 6 0 (s.cru tile k).sb.length
  else if 0x200 ≤ off && off < 0x400 then
    let t := (off - 0x200) / 0x40
    let x := s.task tile k t
    if off % 0x40 = 0x08 then word [(0, tstateCode x.st), (4, waitCode x.wait), (8, (s.cru tile k).inflight t % 256)]
    else if off % 0x40 = 0x38 then BitVec.ofNat 64 x.pc.toNat
    else stored
  else stored

/-! ### Gates and channel slots (R140, R203, R205) -/

def State.gate (s : State) (tile g : Nat) : W32 := Store.get 0 s.gates (tile * 1024 + g)

/-- The channel slots of a tile are keyed by page kind, region and slot. -/
def slotKey (tile : Nat) (peat : Bool) (reg slot : Nat) : Nat := ((tile * 2 + b2n peat) * 32 + reg) * 16384 + slot
def State.slot (s : State) (tile : Nat) (peat : Bool) (reg slot : Nat) : SlotState :=
  Store.get .empty s.slots (slotKey tile peat reg slot)
def slotCode : SlotState → Nat | .empty => 0 | .filling => 1 | .full => 2 | .draining => 3

/-- The page that declares a tile's regions of one kind. -/
def cregPage (tile : Nat) (peat : Bool) : Nat := if peat then peatPage tile else poolPage tile
/-- Whether a region is enabled, its first byte and its slot count. -/
def State.cregEn (s : State) (tile : Nat) (peat : Bool) (r : Nat) : Bool := s.rb (cregPage tile peat) (Reg.CREG_CTL r) 0
def State.cregBase (s : State) (tile : Nat) (peat : Bool) (r : Nat) : Nat :=
  4096 * s.rf (cregPage tile peat) (Reg.CREG_BASE r) (if peat then 32 else 24) 12
def State.cregCount (s : State) (tile : Nat) (peat : Bool) (r : Nat) : Nat :=
  if peat then s.rf (cregPage tile peat) (Reg.CREG_BASE r) 47 33 else s.rf (cregPage tile peat) (Reg.CREG_BASE r) 42 32

def State.cslotView (s : State) (tile : Nat) (peat : Bool) : W64 :=
  let pg := cregPage tile peat
  let r := s.rf pg Reg.CSLOT_SEL (if peat then 3 else 4) 0
  let n := s.rf pg Reg.CSLOT_SEL (if peat then 29 else 25) 16
  if s.cregEn tile peat r && n < s.cregCount tile peat r then BitVec.ofNat 64 (slotCode (s.slot tile peat r n)) else 0

def State.gbUsed (s : State) (tile : Nat) : Nat :=
  ((List.range 4).map (fun k => (s.cru tile k).gb.length)).foldl max 0

/-! ### Mesh and mire (R335, R359) -/

def State.slotEnt (s : State) (tile pol slot : Nat) : BitVec 8 := Store.get 0 s.slotMap ((tile * 8 + pol) * 128 + slot)
def State.route (s : State) (tile tree dest : Nat) : Nat := Store.get 7 s.routes ((tile * 2 + tree) * 128 + dest)

def State.cetisView (s : State) (tile off : Nat) (stored : W64) : W64 :=
  let pg := cetisPage tile
  if off = Reg.CETIS_STAT then
    let up (k : Nat) : Nat := if s.rf pg Reg.LANES (8 * k + 7) (8 * k) ≠ 0 then 2 ^ k else 0
    BitVec.ofNat 64 (32 + ((List.range 5).map up).sum)
  else if off = Reg.SLOT_MAP then
    BitVec.ofNat 64 (s.slotEnt tile (s.rf pg Reg.SLOT_SEL 2 0) (s.rf pg Reg.SLOT_SEL 14 8)).toNat
  else if off = Reg.ROUTE then
    BitVec.ofNat 64 (s.route tile (s.rf pg Reg.ROUTE_SEL 8 8) (s.rf pg Reg.ROUTE_SEL 6 0))
  else stored

/-! ### The event summary and time (R451, R453) -/

def State.evtSum0 (s : State) : W64 :=
  BitVec.ofNat 64 ((List.range 64).map (fun i => if s.sumBit (tilePage i 0) then 2 ^ i else 0)).sum
def State.evtSum1 (s : State) : W64 :=
  let tiles := ((List.range 16).map (fun i => if s.sumBit (tilePage (64 + i) 0) then 2 ^ i else 0)).sum
  let dies := ((List.range 8).map (fun d => if s.sumBit (diePage d 0) then 2 ^ d else 0)).sum
  let globals := ((List.range 10).map (fun n => if s.sumBit n then 2 ^ n else 0)).sum
  word [(0, tiles), (32, dies), (48, globals)]

/-- DEV_ID: the release of the steward firmware that runs (R453, R587), and what the part reads before any runs.
(DESIGN CHOICE: log entry 103) -/
def State.devIdView (s : State) : W64 :=
  if s.boot.fwOk then
    word [(0, 0xB0), (16, s.boot.release.toNat / 2 ^ 24), (24, s.boot.release.toNat / 2 ^ 16 % 256), (32, s.boot.release.toNat % 2 ^ 16)]
  else word [(0, 0xB0), (16, Config.fwMajor.toNat), (24, Config.fwMinor.toNat), (32, Config.fwBuild.toNat)]

/-! ### Which pages answer (R432, R534, R553, R598) -/

/-- The state of a tile in TSTATE, and the step of bring-up (R547, R567). -/
def State.tstate (s : State) (i : Nat) : Nat := s.rf polderPage (Reg.TSTATE (i / 16)) (4 * (i % 16) + 3) (4 * (i % 16))
def State.phase (s : State) : Nat := s.rf (stewPage 0) Reg.BOOT_STAT 3 0
def State.site (s : State) (i : Nat) : Site := Store.get {} s.sites i

/-- The ports of a tile, and whether every one of them is fenced (R314, R432). -/
def portMask (i : Nat) : Nat :=
  ((List.range 4).map (fun k => if (neighbour i k).isSome then 2 ^ k else 0)).sum + (if (dieOf i).isSome then 16 else 0)
def State.shutOff (s : State) (i : Nat) : Bool := s.rf (cetisPage i) Reg.PORT_FENCE 4 0 &&& portMask i = portMask i

/-- Whether a page answers accesses: VAUX is present; while main power is off only the SEC, STEW, TRAY and TIDE pages answer
(R598); a tile that has not passed its test answers nothing until READY (R553); and a tile that is quarantined, in self-test or
withdrawn answers only the steward (R534). (DEDUCED: log entry 13) -/
def State.pageLive (s : State) (page : Nat) : Bool :=
  match pageInfo page with
  | none => false
  | some p =>
    if p.cls = 0x05 || p.cls = 0x20 || p.cls = 0x26 || p.cls = 0x27 then s.boot.vaux
    else if p.cls < 0x10 || 0x1D ≤ p.cls then s.boot.main
    else s.boot.main && (s.phase = 11 || (s.site p.inst).result = 1) && decide (s.tstate p.inst < 4) &&
      !s.shutOff p.inst

/-- Whether accesses to a page get no answer and time out: a tile that is quarantined, in self-test or withdrawn, or whose ports are
all fenced (R432, R534). (DEDUCED: log entry 13) -/
def State.timesOut (s : State) (page : Nat) : Bool :=
  match pageInfo page with
  | none => false
  | some p => decide (0x10 ≤ p.cls) && decide (p.cls < 0x1D) && s.boot.main && (decide (4 ≤ s.tstate p.inst) || s.shutOff p.inst)

/-- HOLD of the seal is in force (R444). -/
def State.sealHold (s : State) : Bool := s.rb sealPage Reg.SEAL_STAT 1 && !s.sealRun.fenced

/-! ### Power, the tide and the site map (R471, R478, R496, R567, R569) -/

def State.ramping (s : State) : List Ramp :=
  s.ramps.filter (fun r => match r.phase with | .stage _ => true | _ => false)

def State.tideSlot (s : State) (k : Nat) : TideSlot := Store.get {} s.tide.slots k
def State.tideValid (s : State) (k : Nat) : Bool := s.rb tidePage (Reg.SRC k) 48
def State.tideSlots (s : State) : List Nat := (List.range 3).filter s.tideValid
/-- The effective ceiling C and floor F in permille (R471). -/
def State.tideC (s : State) : Frac := (s.tideSlots.map (fun k => (s.tideSlot k).c)).foldl Frac.min (.nat 1000)
def State.tideF (s : State) : Frac := ((s.tideSlots.map (fun k => (s.tideSlot k).f)).foldl Frac.max (.nat 0)).min s.tideC
/-- A slot's targets: its own, or the safe ones once it has lapsed (R470). -/
def State.tideCeil (s : State) (k : Nat) : Nat :=
  max 100 (min 1000 (if s.rb tidePage (Reg.SRC_STAT k) 18 then s.rf tidePage Reg.TIDE_SAFE 9 0 else s.rf tidePage (Reg.SRC k) 9 0))
def State.tideFloor (s : State) (k : Nat) : Nat :=
  min 250 (if s.rb tidePage (Reg.SRC_STAT k) 18 then s.rf tidePage Reg.TIDE_SAFE 17 10 else s.rf tidePage (Reg.SRC k) 17 10)
/-- The time at which a slot's lease runs out. -/
def State.leaseEnd (s : State) (k : Nat) : Nat := (s.tideSlot k).since + 1000000 * s.rf tidePage (Reg.SRC k) 47 32
def State.leased (s : State) (k : Nat) : Bool :=
  s.tideValid k && decide (s.rf tidePage (Reg.SRC k) 47 32 ≠ 0) && !s.rb tidePage (Reg.SRC_STAT k) 18

def State.tideView (s : State) (off : Nat) (stored : W64) : W64 :=
  if off = Reg.TIDE_EFF then
    let gov := match s.tideSlots.find? (fun k => (s.tideSlot k).c = s.tideC) with | some k => k + 1 | none => 0
    word [(0, s.tideC.floorNat), (10, s.tideF.floorNat), (20, gov)]
  else if off = Reg.TIDE_STAT then
    let moving := s.tideSlots.any (fun k => (s.tideSlot k).c ≠ .nat (s.tideCeil k) || (s.tideSlot k).f ≠ .nat (s.tideFloor k))
    setFld (setFld (setBit stored 3 moving) 31 16 s.tide.soak.floorNat) 37 32 s.ramping.length
  else if off = Reg.SRC_STAT 0 || off = Reg.SRC_STAT 1 || off = Reg.SRC_STAT 2 then
    let k := (off - 0x108) / 0x10
    let left := if s.leased k then (s.leaseEnd k - s.up) / 1000000 else 0
    setFld (setFld (setFld stored 9 0 (s.tideSlot k).c.floorNat) 17 10 (s.tideSlot k).f.floorNat) 47 32 left
  else stored

/-- CUR_MHZ of a crucible (R489). -/
def State.clkView (s : State) (tile off : Nat) (stored : W64) : W64 :=
  if Reg.CRU_FREQ 0 ≤ off && off ≤ Reg.CRU_FREQ 3 then
    setFld stored 27 16 (Store.get 0 s.khz (tile * 4 + (off - Reg.CRU_FREQ 0) / 8) / 1000)
  else stored

/-- SITE_ENT and SITE_SUM (R567). -/
def State.stewView (s : State) (off : Nat) (stored : W64) : W64 :=
  if off = Reg.SITE_ENT then
    let i := s.rf (stewPage 0) Reg.SITE_SEL 6 0
    if 80 ≤ i then 0
    else word [(0, (s.site i).result), (4, ringOf i), (7, b2n (s.site i).changed), (8, (s.site i).tester), (16, (s.site i).lanes)]
  else if Reg.SITE_SUM 0 ≤ off && off ≤ Reg.SITE_SUM 4 then
    let k := (off - Reg.SITE_SUM 0) / 8
    word ((List.range 16).map (fun j => (4 * j, (s.site (16 * k + j)).result)))
  else stored

/-- ROLLBACK and the customer-key slots (R587, R591, R599). -/
def State.keySlot (s : State) (k : Nat) : KeySlot := Store.get {} s.sec.slots k
def KeySlot.full (x : KeySlot) : Bool := !x.point.isEmpty
def State.secView (s : State) (off : Nat) (stored : W64) : W64 :=
  if off = Reg.SEC_STAT then setFld stored 63 32 s.sec.rollback.toNat
  else if Reg.SLOT_ENT 0 ≤ off && off ≤ Reg.SLOT_ENT 3 then
    let x := s.keySlot ((off - Reg.SLOT_ENT 0) / 8)
    word [(0, x.usage), (2, b2n x.full), (3, b2n x.revoked)]
  else stored

/-- PLAN_AGE_S (R569). -/
def State.ageView (s : State) (tile off : Nat) (stored : W64) : W64 :=
  if off = Reg.AGE_STAT then
    match Store.get 0 s.planAt tile with
    | 0 => stored
    | n => setFld stored 63 32 ((s.up - n) / 1000000000)
  else stored

/-- A sensor's number over all units: tile sensors, die sensors and stack sensors (R499). -/
def sensKey : SensorRef → Nat
  | .tile i n => i.val * 16 + n.val
  | .die d n => 2048 + d.val * 8 + n.val
  | .stack j => 4096 + j.val
/-- The page and offset that show a sensor. -/
def sensReg (k : Nat) : Nat × Nat :=
  if k < 2048 then (thermPage (k / 16), Reg.THERM_T (k % 16))
  else if k < 4096 then (trayPage ((k - 2048) / 8), Reg.DIE_T ((k - 2048) % 8))
  else (trayPage ((k - 4096) / 4), Reg.STACK_T ((k - 4096) % 4))
def State.sensReg (s : State) (k : Nat) : W64 := s.reg (Machine.sensReg k).1 (Machine.sensReg k).2
def State.sensTemp (s : State) (k : Nat) : Int := toSigned 12 (fld (s.sensReg k) 11 0)
def State.sensLevel (s : State) (k : Nat) : Nat := fld (s.sensReg k) 13 12
def State.trusted (s : State) (k : Nat) : Bool := !fbit (s.sensReg k) 14
def tileSensors (i : Nat) : List Nat := (List.range 10).map (i * 16 + ·)
def dieSensors (d : Nat) : List Nat := (List.range 8).map (2048 + d * 8 + ·)

/-- DIE_SUM and SHUT_LAST.COUNT (R505, R510, R517). -/
def State.trayView (s : State) (die off : Nat) (stored : W64) : W64 :=
  if off = Reg.DIE_SUM then
    let half (k : Nat) : Bool := s.trusted k && s.sensLevel k = 2
    word ((0, b2n ((dieSensors die).any half)) ::
      (List.range 4).map (fun j => (1 + j, b2n (half (4096 + die * 4 + j)))))
  else if off = Reg.SHUT_LAST then
    setFld stored 31 28 (min 15 (s.boot.shuts.filter (fun t => decide (s.up < t + 3600 * 1000000000))).length)
  else stored

/-! ### The loop (R241, R256, R271, R273, R310) -/

/-- Place 0 to 63 of a bed, and 64, its escape place. -/
def placeKey (b i : Nat) : Nat := b * 128 + i
def State.bed (s : State) (b : Nat) : Bed := Store.get {} s.beds b
def State.setBed (s : State) (b : Nat) (x : Bed) : State := { s with beds := Store.set {} s.beds b x }
def State.place (s : State) (b i : Nat) : Place := Store.get {} s.places (placeKey b i)
def State.setPlace (s : State) (b i : Nat) (x : Place) : State := { s with places := Store.set {} s.places (placeKey b i) x }
/-- The places of a bed that hold a wavefront. -/
def State.fullPlaces (s : State) (b : Nat) : List Nat := (List.range 65).filter (fun i => (s.place b i).full)

/-- The valid beds of a polder. -/
def State.bedsOf (s : State) (p : Nat) : List Nat :=
  (List.range 256).filter (fun b => fbit (s.bedReg b Reg.BED_CFG0) 48 && decide (fld (s.bedReg b Reg.BED_CFG0) 2 0 = p))
/-- The loop capacity C of a polder. -/
def State.capacity (s : State) (p : Nat) : Nat :=
  ((s.bedsOf p).map (fun b => fld (s.bedReg b Reg.BED_CFG0) 33 27)).sum + s.rf polderPage (Reg.POLD_LOOP p) 56 48
/-- Credits in use: the wavefronts in a polder's loop. -/
def State.inLoop (s : State) (p : Nat) : Nat :=
  (s.streams.map (fun e => if e.2.st ≠ .free && e.2.polder = p then e.2.inflight else 0)).sum

def State.bedStatView (s : State) (b : Nat) (stored : W64) : W64 :=
  let x := s.bed b
  let rows := match x.passes.find? (fun q => !q.started.isEmpty) with | some q => q.rows | none => 0
  setFld (setFld (setFld (setFld stored 6 0 (s.fullPlaces b).length) 13 7 rows) 14 14 (b2n (s.place b 64).used)) 63 32 x.opened

def State.polderView (s : State) (off : Nat) (stored : W64) : W64 :=
  if 0x100 ≤ off && off < 0x300 then
    let p := (off - 0x100) / 0x40
    if off % 0x40 = 0 then
      setFld (setFld stored 31 16 (fld stored 15 0 - s.inLoop p)) 47 32 (s.capacity p)
    else if off % 0x40 = 0x18 then
      word [(0, s.inLoop p), (16, (s.streams.filter (fun e => e.2.st ≠ .free && decide (e.2.polder = p))).length)]
    else stored
  else if 0x500 ≤ off && off < 0x700 && off % 0x40 = 0 then
    let p := (off - 0x500) / 0x40
    setFld stored 31 28 (min 15 ((List.range 80).filter (fun i =>
      s.tstate i = 2 && decide (s.rf (cetisPage i) Reg.CETIS_CTL 2 0 = p))).length)
  else if off = Reg.BED_STAT then s.bedStatView (s.rf polderPage Reg.BED_SEL 7 0) stored
  else stored

def State.streamView (s : State) (off : Nat) (stored : W64) : W64 :=
  if off = Reg.STRM_STAT then
    word [(0, (s.streams.filter (fun e => e.2.st ≠ .free)).length),
          (13, (s.streams.filter (fun e => e.2.st = .draining)).length)]
  else stored

/-- The valid entries of RID_LIST on a tile, from entry 0 upward, and the tile that serves a stream: its home riddle (R275). -/
def State.ridCount (s : State) (tile : Nat) : Nat :=
  ((List.range 8).takeWhile (fun k => s.rb (riddlePage tile) Reg.RID_LIST (8 * k + 7))).length
def State.homeSlot (s : State) (tile n : Nat) : Option Nat :=
  match s.ridCount tile with
  | 0 => none
  | c => some (s.rf (riddlePage tile) Reg.RID_LIST (8 * (n % c) + 6) (8 * (n % c)))
def State.homeTile (s : State) (tile pol n : Nat) : Option Nat :=
  match s.homeSlot tile n with
  | none => none
  | some k => if (s.slotEnt tile pol k).getLsbD 7 then some ((s.slotEnt tile pol k).toNat % 128) else none

/-- The peat offset of a stream's riddle record on a tile (R282). -/
def State.recordAt (s : State) (tile n : Nat) : Nat := s.rf (riddlePage tile) Reg.RST_BASE 32 0 + 2048 * n
/-- GRAMMAR when GRAM_EN is 1. -/
def State.recGrammar (s : State) (tile n : Nat) : Option Nat :=
  let w5 := leNat (s.readPeat tile (s.recordAt tile n + 40) 8)
  if bit w5 22 then some (bits w5 21 16) else none
/-- GRAM_CTL.USERS (R289). -/
def State.gramUsers (s : State) (tile g : Nat) : Nat :=
  let pol := s.rf (riddlePage tile) Reg.RID_CTL 3 1
  (s.streams.filter (fun e => e.2.st ≠ .free && decide (e.2.polder = pol) && s.homeTile tile pol e.1 = some tile &&
    s.recGrammar tile e.1 = some g)).length

def State.riddleView (s : State) (tile off : Nat) (stored : W64) : W64 :=
  if off = Reg.RID_STAT then BitVec.ofNat 64 (Store.get [] s.rplaces tile).length
  else if 0x400 ≤ off && off < 0x800 && off % 0x10 = 8 then setFld stored 63 32 (s.gramUsers tile ((off - 0x400) / 0x10))
  else stored

/-- Whether Q_SEL of a port names a queue that exists (R394). -/
def State.queueThere (s : State) (page : Nat) : Bool :=
  let q := s.reg page Reg.Q_SEL
  decide (fld q 9 8 = 2) || (decide (fld q 9 8 < 2) && decide (fld q 7 0 < 64))
def State.pcieView (s : State) (page off : Nat) (stored : W64) : W64 :=
  if (s.winKey page off).isSome && !s.queueThere page then 0 else stored

/-! ### All registers -/

/-- What a read of a register of a mapped page returns, whatever keeps the value. (DEDUCED: log entry 13) -/
def State.view (s : State) (who : Requester) (page off : Nat) : W64 :=
  match pageInfo page with
  | none => 0
  | some p =>
    if (regAt page off).isNone || !s.pageLive page then 0
    else
      let stored := s.stored page off
      if off = Reg.PAGE_ID then pageIdView page p
      else if off = Reg.PAGE_CAP then pageCapView p
      else if off = Reg.EVT_PEND then s.reg page Reg.EVT_RAW &&& s.reg page Reg.EVT_EN
      else if off = Reg.GUARD_KEY then s.guardView page
      else if 0xf00 ≤ off then s.mbxView who page off
      else if off < 0x100 then stored
      else match p.cls with
        | 0x01 => if off = Reg.EVT_SUM0 then s.evtSum0 else if off = Reg.EVT_SUM1 then s.evtSum1
                  else if off = Reg.DEV_ID then s.devIdView else stored
        | 0x07 => s.streamView off stored
        | 0x08 => s.polderView off stored
        | 0x14 => s.riddleView p.inst off stored
        | 0x06 => if off = Reg.TIME_NOW then s.now else stored
        | 0x05 => s.tideView off stored
        | 0x18 => s.clkView p.inst off stored
        | 0x1C => s.ageView p.inst off stored
        | 0x20 => if p.inst = 0 then s.stewView off stored else stored
        | 0x26 => if p.inst = 0 then s.secView off stored else stored
        | 0x27 => s.trayView p.inst off stored
        | 0x11 => s.cruView p.inst p.sub off stored
        | 0x12 => if off = Reg.CSLOT_STATE then s.cslotView p.inst false else stored
        | 0x13 => if off = Reg.CSLOT_STATE then s.cslotView p.inst true
                  else if off = Reg.PEAT_STAT then setFld (setFld stored 14 8 (s.gbUsed p.inst)) 7 0 (s.rf (pwrPage p.inst) Reg.PWR_DOM 15 8) else stored
        | 0x1B => if off = Reg.FAULT_INFO then
                    setFld stored 35 32 (min 15 ((Store.get [] s.charges p.inst).filter (fun t => decide (s.up < t + 10000000000))).length) else stored
        | 0x15 => if off = Reg.GATE_VAL then
                    BitVec.ofNat 64 (s.gate p.inst (s.rf page Reg.GATE_IDX 9 0)).toNat else stored
        | 0x16 => s.cetisView p.inst off stored
        | 0x22 => s.pcieView page off stored
        | 0x24 => if off = Reg.POUR_STAT then
                    setFld stored 25 16 (((Store.get {} s.pours p.inst).pulls.map (fun q => q.asks.length)).sum) else stored
        | 0x23 => if off = Reg.PG_STAT then
                    BitVec.ofNat 64 (Store.get [] s.pgQueue p.inst).length else stored
        | _ => stored

end Sys2Proof.Machine
end

