-- ==== Sys2Proof/Machine/Bus.lean ====
section
/-! DEFINITION. The register bus: guards, access sizes, the effect of a write by access type, and reads with their side
effects (R4, R428 to R438). What a trigger field starts is the owning family's. -/
namespace Sys2Proof.Machine

/-- The bits of the register that an access of a size at an offset reaches, and the register's own offset; none for an access
that R428 does not accept. -/
def reach (off : Nat) (size : AccSize) : Option (Nat × W64) :=
  match size with
  | .b64 => if off % 8 = 0 then some (off, 0xFFFFFFFFFFFFFFFF) else none
  | .b32 => if off % 8 = 0 then some (off, 0xFFFFFFFF) else if off % 4 = 0 then some (off - 4, 0xFFFFFFFF00000000) else none
  | .other => none

/-- A 32-bit operand in the half of the register that the access reaches. -/
def placeVal (off : Nat) (size : AccSize) (v : W64) : W64 :=
  match size with
  | .b32 => if off % 8 = 0 then v &&& 0xFFFFFFFF else v <<< 32
  | _ => v

/-- The refusal of a guarded write or of a key write: GUARD_ERR, GUARD_WHO, the DEV counter and the DEV event (R436, R437). -/
def State.guardErr (s : State) (who : Requester) (page : Nat) : State :=
  let s := s.setFields page Reg.PAGE_STAT [(0, 0, 1), (2, 1, whoCode who)]
  (s.bump devPage 0 1).raise devPage 0

def State.closeGuard (s : State) (page : Nat) : State := { s with guards := Store.set {} s.guards page {} }

/-- What a register write leaves: the state with every plain field written, the register's offset, the mask of bits the write
reached and may change, the value it carried there, and the value the register read as before. -/
structure WEff where
  st   : State
  off  : Nat
  mask : W64
  val  : W64
  old  : W64
  deriving DecidableEq, Repr

/-- The event bits that a page defines, for EVT_EN; the others are reserved (R5, R426). The STEW page of die 0 defines bits 0 to 5
and 8 (R568). -/
def evtBits (page : Nat) : W64 :=
  match pageInfo page with
  | none => 0
  | some p =>
    let n := (pageCounts p).2
    if n = 0 then 0 else if p.cls = 0x20 then maskOf 5 0 ||| maskOf 8 8 else maskOf (n - 1) 0

/-- The bits of a write that take effect: RW and SL fields where the write reaches, GW fields too when the guard admits it. -/
def writeMask (page off : Nat) (half : W64) (open_ : Bool) : W64 :=
  half &&& (if off = Reg.EVT_EN then evtBits page else 0xFFFFFFFFFFFFFFFF) &&& (accMask page off .rw ||| accMask page off .sl ||| (if open_ then accMask page off .gw else 0))

/-- The shadow of a requester on a page (R429). -/
def shadowKey (who : Requester) (page : Nat) : Nat := whoCode who * 65536 + page
def State.dropShadow (s : State) (who : Requester) (page : Nat) : State :=
  { s with shadows := Store.set none s.shadows (shadowKey who page) none }

/-- An SL field is written: the walk under way, if any, is not clean (R443). -/
def State.sealTouch (s : State) : State :=
  if s.sealRun.start ≤ s.up then { s with sealRun := { s.sealRun with dirty := true } } else s

/-- An access that times out is counted (R432). -/
def State.regTimeout (s : State) : State := (s.bump devPage 1 1).raise devPage 1

/-- The effect of a write by access type (R4), with the guard rules of R436 and R437. A page that does not answer drops it,
and a page that times out counts it. -/
def State.writeCore (s0 : State) (who : Requester) (page off : Nat) (size : AccSize) (v : W64) : WEff :=
  let s := s0.dropShadow who page
  match reach off size, if s.pageLive page then regAt page (off - off % 8) else none with
  | some (o, half), some _ =>
    let val := placeVal off size v
    let old := s.view who page o
    let gw := accMask page o .gw
    let admits : Bool := gw ≠ 0 && s.guardOwner page = whoCode who
    let s1 := if admits then s.closeGuard page
              else if gw ≠ 0 && (val ^^^ old) &&& gw &&& half ≠ 0 then s.guardErr who page
              else s
    let m := writeMask page o half admits
    let sl := accMask page o .sl &&& half
    let s2 := if sl ≠ 0 then s1.sealTouch else s1
    let cur := s2.stored page o
    let w1c := accMask page o .w1c &&& half &&& val
    ⟨s2.storeReg page o ((mix m cur val) &&& ~~~w1c), o, m, val, old⟩
  | _, _ => ⟨if s.timesOut page then s.regTimeout else s, off - off % 8, 0, 0, 0⟩

/-- Whether a write takes effect with a 1 in a trigger bit. -/
def WEff.fires (w : WEff) (i : Nat) : Bool := fbit (w.mask &&& w.val) i

/-- Trigger fields read 0 again after a write. -/
def State.zeroBits (s : State) (page off : Nat) (m : W64) : State := s.storeReg page off (s.stored page off &&& ~~~m)

/-- A register put back to the value it had before a write that is refused. -/
def State.keepReg (s : State) (old : State) (page off : Nat) : State := s.storeReg page off (old.stored page off)

/-- RC fields cleared by a read that reaches the bits of a mask, where the page answers; SB_STAT.HIGH starts again from the entries in use
(R104). (DEDUCED: log entry 14) -/
def State.clearRc (s : State) (page off : Nat) (half : W64) : State :=
  let m := accMask page off .rc &&& half
  if m = 0 || !s.pageLive page then s
  else
    let t := s.zeroBits page off m
    match pageInfo page with
    | some p => if p.cls = 0x11 && off = Reg.SB_STAT then t.setRf page off 14 8 (t.cru p.inst p.sub).sb.length else t
    | none => t

/-- All ones of an access's width: what a read that times out returns (R432). -/
def placeOnes (size : AccSize) : W64 :=
  match size with | .b64 => 0xFFFFFFFFFFFFFFFF | .b32 => 0xFFFFFFFF | .other => 0

/-- A register read: the value returned, and the state with RC fields cleared and the shadow kept (R4, R428, R429). -/
def State.busRead (s : State) (who : Requester) (page off : Nat) (size : AccSize) : W64 × State :=
  match reach off size with
  | none => (0, s.dropShadow who page)
  | some (o, half) =>
    if s.timesOut page then (placeOnes size, (s.dropShadow who page).regTimeout) else
    let v := s.view who page o
    match size with
    | .b64 => (v, (s.clearRc page o half).dropShadow who page)
    | .b32 =>
      if off % 8 = 0 then
        let t := s.clearRc page o 0xFFFFFFFFFFFFFFFF
        (v &&& 0xFFFFFFFF,
         { t with shadows := Store.set none t.shadows (shadowKey who page) (some ⟨o, BitVec.ofNat 32 (v.toNat / 2 ^ 32)⟩) })
      else
        match Store.get none s.shadows (shadowKey who page) with
        | some sh =>
          if sh.off = o then (BitVec.ofNat 64 sh.hi.toNat, s.dropShadow who page)
          else (v >>> 32, (s.clearRc page o half).dropShadow who page)
        | none => (v >>> 32, (s.clearRc page o half).dropShadow who page)
    | .other => (0, s.dropShadow who page)

/-- The value a read returned, kept for the requester. (DESIGN CHOICE: log entry 10) -/
def State.deliver (s : State) (who : Requester) (v : W64) : State :=
  { s with lastRead := Store.set 0 s.lastRead (whoCode who) v }

end Sys2Proof.Machine
end

