-- ==== Sys2Proof/Machine/Crucible.lean ====
section
/-! DEFINITION. Task contexts, segments, the range scoreboard, the gathering buffer, task faults and the issue stage
(chapter 3 and the memory rules of chapter 5). -/
namespace Sys2Proof.Machine

/-! ### Fault codes of R96 -/

def fIllegal : Nat := 0x01
def fMisalign : Nat := 0x02
def fSegBound : Nat := 0x03
def fSegPerm : Nat := 0x04
def fSegInvalid : Nat := 0x05
def fSegSpace : Nat := 0x06
def fFormat : Nat := 0x07
def fDescriptor : Nat := 0x08
def fSlotTimeout : Nat := 0x09
def fGateTimeout : Nat := 0x0A
def fEcc : Nat := 0x0B
def fRemote : Nat := 0x0C
def fBreak : Nat := 0x0D

/-- Space codes of R75. -/
def spPool : Nat := 0
def spPeat : Nat := 1
def spSibling : Nat := 2
def spRemote : Nat := 3
def spMire : Nat := 4

/-- The spaces the scalar core, the mould array, the vector unit and the attention unit reach (R64). -/
def nearSpace (sp : Nat) : Bool := sp = spPool || sp = spPeat
/-- The spaces the runner reaches. -/
def anySpace (sp : Nat) : Bool := decide (sp < 5)

/-! ### Power states the crucible depends on (R459, PWR_DOM) -/

/-- A tile domain's state: 0 OFF, 1 RETAIN, 2 ON, 3 ramping or zeroing. -/
def State.dom (s : State) (tile n : Nat) : Nat := s.rf (pwrPage tile) Reg.PWR_DOM (2 * n + 1) (2 * n)
def State.layerOn (s : State) (tile layer : Nat) : Bool := s.dom tile (4 + layer) = 2
/-- Every peat layer that a range touches is ON. -/
def State.peatOn (s : State) (tile off n : Nat) : Bool :=
  n = 0 || (List.range 4).all (fun l => s.layerOn tile l || (l + 1) * 2 ^ 31 ≤ off || off + n ≤ l * 2 ^ 31)
/-- The pool can be reached: its domain is ON and it is not being zeroed (R174). -/
def State.poolOn (s : State) (tile cru : Nat) : Bool :=
  s.dom tile cru = 2 && !s.rb (poolPage tile) Reg.POOL_STAT cru

/-! ### Segments (R73 to R77) -/

/-- The segment an address selects, and its offset (R73). -/
def segOf (a : Addr) : Nat := a.toNat / 2 ^ 46
def offOf (a : Addr) : Nat := a.toNat % 2 ^ 46

/-- A task's segment registers, read. -/
structure Seg where
  space : Nat
  base  : Nat
  len   : Nat
  r     : Bool
  w     : Bool
  x     : Bool
  deriving DecidableEq, Repr

def State.segment (s : State) (t : TaskRef) (g : Nat) : Seg :=
  let pg := cruPage t.tile t.cru
  let b := s.reg pg (Reg.SEG_BASE t.task g)
  let l := s.reg pg (Reg.SEG_LIM t.task g)
  ⟨fld b 50 48, fld b 47 0, fld l 45 0, fbit l 48, fbit l 49, fbit l 50⟩

/-- Whether a segment's extent lies in its space, with the zero bits of its layout zero (R74, R75). -/
def Seg.valid (g : Seg) : Bool :=
  if g.space = spPool then g.base + g.len ≤ poolSize
  else if g.space = spPeat then g.base + g.len ≤ peatSize
  else if g.space = spSibling then bits g.base 47 27 = 0 && bits g.base 24 0 + g.len ≤ poolSize
  else if g.space = spRemote then
    bits g.base 37 33 = 0 && bits g.base 32 0 + g.len ≤ (if bit g.base 38 then poolSize else peatSize)
  else if g.space = spMire then bits g.base 47 41 = 0 && bits g.base 40 0 + g.len ≤ mireSize
  else false

/-- What an access does to memory. -/
inductive AccKind where
  | read | write | fetch
  deriving DecidableEq, Repr

def Seg.permits (g : Seg) : AccKind → Bool
  | .read => g.r | .write => g.w | .fetch => g.x

/-- The segment checks of an access in the order of R623: SEG_INVALID, SEG_SPACE, SEG_PERM, SEG_BOUND. -/
def State.segCheck (s : State) (t : TaskRef) (a : Addr) (n : Nat) (k : AccKind) (ok : Nat → Bool) : Option Nat :=
  let g := s.segment t (segOf a)
  if !g.valid then some fSegInvalid
  else if !ok g.space then some fSegSpace
  else if !g.permits k then some fSegPerm
  else if g.len < offOf a + n then some fSegBound
  else none

/-- The physical place of a task-relative address: the space and BASE + offset. -/
def State.physOf (s : State) (t : TaskRef) (a : Addr) : Nat × Nat :=
  let g := s.segment t (segOf a)
  (g.space, g.base + offOf a)

/-! ### The gathering buffer (R182 to R187) -/

/-- The bytes an entry holds valid, as (offset in line, byte). -/
def GbEntry.valid (e : GbEntry) : List (Nat × Byte) := e.data.filterMap (fun p => p.2.map (fun b => (p.1, b)))

/-- Single bytes written to a line of peat. -/
def putMasked (m : Store Byte) (key : Nat) : List (Nat × Byte) → Store Byte
  | [] => m
  | (o, b) :: r => putMasked (Store.set 0 m (key + o) b) key r

/-- Whether a byte mask covers part of some 8-byte ECC word (R186). -/
def partialWord (v : List (Nat × Byte)) : Bool :=
  (List.range 32).any (fun w => let n := (v.filter (fun p => p.1 / 8 = w)).length; n ≠ 0 && n ≠ 8)

/-- One entry flushed to peat, counted in GB_FLUSHES, LINES_WRITTEN and, with a read-merge-write, GB_RMW (R186, R206). -/
def State.flushEntry (s : State) (tile : Nat) (e : GbEntry) : State :=
  let v := e.valid
  let pg := peatPage tile
  let s := { s with peat := putMasked s.peat (peatKey tile (e.line * 256)) v }
  let s := if v.length = 256 then { s with peatBad := Store.set false s.peatBad (peatLineKey tile e.line) false } else s
  let s := (s.bump pg 2 1).bump pg 1 1
  if partialWord v then (s.bump pg 3 1).bump pg 0 1 else s

def State.flushList (s : State) (tile : Nat) : List GbEntry → State
  | [] => s
  | e :: r => (s.flushEntry tile e).flushList tile r

/-- Every entry of a crucible flushed (R185, events 5 to 7). -/
def State.gbFlushAll (s : State) (tile cru : Nat) : State :=
  let c := s.cru tile cru
  (s.setCru tile cru { c with gb := [] }).flushList tile c.gb

/-- Whether an entry can flush now: its layer is ON (R181). -/
def State.entryReady (s : State) (tile : Nat) (e : GbEntry) : Bool := s.peatOn tile (e.line * 256) 256
/-- Whether every entry of a crucible's buffer can flush now. -/
def State.gbReady (s : State) (tile cru : Nat) : Bool := (s.cru tile cru).gb.all (s.entryReady tile)
/-- The entries that can flush now flushed; the others stay. -/
def State.gbFlushOn (s : State) (tile cru : Nat) : State :=
  let c := s.cru tile cru
  (s.setCru tile cru { c with gb := c.gb.filter (fun e => !s.entryReady tile e) }).flushList tile (c.gb.filter (s.entryReady tile))

/-- The entries of one line taken out and flushed (R185, events 2 and 4). -/
def State.gbFlushLine (s : State) (tile cru line : Nat) : State :=
  let c := s.cru tile cru
  (s.setCru tile cru { c with gb := c.gb.filter (fun e => e.line ≠ line) }).flushList tile
    (c.gb.filter (fun e => e.line = line))

/-- Bytes set in an entry's data. -/
def gbMerge (d : Store (Option Byte)) (o : Nat) : List Byte → Store (Option Byte)
  | [] => d
  | b :: r => gbMerge (Store.set none d o (some b)) (o + 1) r

/-- A partial-line write (R182, R183, and R185 events 1 and 3): it merges into its line's entry or takes a free one, flushing
the entry written least recently when none is free. -/
def State.gbWrite (s : State) (tile cru line o : Nat) (bs : List Byte) : State :=
  let c := s.cru tile cru
  let old := c.gb.find? (fun e => e.line = line)
  let rest := c.gb.filter (fun e => e.line ≠ line)
  let e : GbEntry := match old with
    | some e => { e with data := gbMerge e.data o bs, last := s.up }
    | none => ⟨line, gbMerge [] o bs, s.up⟩
  let victim := if old.isNone && 64 ≤ rest.length then rest.take 1 else []
  let kept := if old.isNone && 64 ≤ rest.length then rest.drop 1 else rest
  let s := (s.setCru tile cru { c with gb := kept ++ [e] }).flushList tile victim
  if e.valid.length = 256 then s.gbFlushLine tile cru line else s

/-- A crucible's write to peat, line by line: whole lines go to the banks after their entry has flushed, the rest is gathered
(R182, R185). `fuel` counts lines. -/
def State.crucibleWritePeat (s : State) (tile cru off : Nat) (bs : List Byte) : Nat → State
  | 0 => s
  | fuel + 1 =>
    if bs.isEmpty then s
    else
      let line := off / 256
      let n := min bs.length (256 - off % 256)
      let here := bs.take n
      let s := if n = 256 then (s.gbFlushLine tile cru line).writePeat tile off here
               else s.gbWrite tile cru line (off % 256) here
      s.crucibleWritePeat tile cru (off + n) (bs.drop n) fuel

/-- A crucible's write to its own pool or its tile's peat. -/
def State.nearWrite (s : State) (tile cru : Nat) (peat : Bool) (off : Nat) (bs : List Byte) : State :=
  if peat then s.crucibleWritePeat tile cru off bs (bs.length / 256 + 2) else s.writePool tile cru off bs

/-- One byte of peat as a crucible reads it: its gathering buffer first (R184). -/
def State.gbByte (s : State) (tile cru off : Nat) : Byte :=
  match (s.cru tile cru).gb.find? (fun e => e.line = off / 256) with
  | some e => match Store.get none e.data (off % 256) with
    | some b => b
    | none => Store.get 0 s.peat (peatKey tile off)
  | none => Store.get 0 s.peat (peatKey tile off)

/-- A crucible's read of its own pool or its tile's peat. -/
def State.nearRead (s : State) (tile cru : Nat) (peat : Bool) (off n : Nat) : List Byte :=
  if peat then (List.range n).map (fun i => s.gbByte tile cru (off + i)) else s.readPool tile cru off n

/-- Whether such a read meets a poisoned line. A line that the gathering buffer serves wholly takes no byte from the bank. -/
def State.nearPoisoned (s : State) (tile cru : Nat) (peat : Bool) (off n : Nat) : Bool :=
  if peat then s.peatPoisoned tile off n else s.poolPoisoned tile cru off n

/-! ### The range scoreboard (R82 to R86) -/

def Range.overlaps (r : Range) (e : SbEntry) : Bool :=
  r.peat = e.peat && r.lo < e.hi && e.lo < r.hi && r.lo < r.hi && (r.write || e.write)

/-- Whether a range conflicts with the scoreboard (R83). -/
def Crucible.conflicts (c : Crucible) (r : Range) : Bool := c.sb.any r.overlaps

/-- What a wait still waits for: the first step of R80 that fails, or none where the wait is over. Scalar registers come back with
the verdict of a SENT (R115). -/
def Crucible.blocks (c : Crucible) : WaitFor → Option WaitReason
  | .regs _ => some .load
  | .ranges l u =>
    if l.any c.conflicts then some .sb
    else match u with
      | none => none
      | some k =>
        if unitDepth k ≤ (c.queue k).length then some .queue
        else if 64 < c.sb.length + l.length then some .sbfull
        else none

/-- A waiting task as its crucible's scoreboard and queues leave it: READY once nothing blocks it, else with the reason that now
comes first (R70, R80). -/
def Task.rewait (x : Task) (c : Crucible) : Task :=
  match x.st, x.ask with
  | .waiting, some (.ranges l u) =>
    match c.blocks (.ranges l u) with
    | none => { x with st := .ready, wait := .none, ask := none }
    | some w => { x with wait := w }
  | _, _ => x

/-- Every task of a crucible re-evaluated after entries or queue places came free (R80, R81). -/
def State.wakeTasks (s : State) (tile cru : Nat) : State :=
  (List.range 8).foldl (fun s k => s.setTask tile cru k ((s.task tile cru k).rewait (s.cru tile cru))) s

/-- SB_STAT.HIGH follows the number of entries in use (R104). -/
def State.noteSbHigh (s : State) (tile cru : Nat) : State :=
  let pg := cruPage tile cru
  let used := (s.cru tile cru).sb.length
  if s.rf pg Reg.SB_STAT 14 8 < used then s.setRf pg Reg.SB_STAT 14 8 used else s

/-! ### Discarding work -/

/-- The memory of a slot's bytes and the offset of its first byte there: the pool of crucible `reg / 8`, or peat (R188). -/
def State.slotStart (s : State) (c : Claim) : Nat := s.cregBase c.tile c.peat c.reg + 4096 * c.slot

/-- A slot's bytes made undefined (R191). (DESIGN CHOICE: log entry 17) -/
def State.loseSlot (s : State) (c : Claim) : State :=
  let bs := undefBytes s.fresh 4096
  let s := s.tickFresh
  if c.peat then { s with peat := putBytes s.peat (peatKey c.tile (s.slotStart c)) bs }
  else { s with pool := putBytes s.pool (poolKey c.tile (c.reg / 8) (s.slotStart c)) bs }

/-- Slot claims given back when their instruction faults or is discarded: FILLING becomes EMPTY, the slot's bytes being undefined,
and DRAINING becomes FULL (R191). A region that was disabled meanwhile has no states left (R199). -/
def State.revertClaims (s : State) : List Claim → State
  | [] => s
  | c :: r =>
    let held : Bool := s.slot c.tile c.peat c.reg c.slot = (if c.write then SlotState.filling else SlotState.draining)
    let s := if !c.dead && held then
        let s := if c.write then s.loseSlot c else s
        { s with slots := Store.set .empty s.slots (slotKey c.tile c.peat c.reg c.slot)
                            (if c.write then SlotState.empty else SlotState.full) }
      else s
    s.revertClaims r

/-- Whether a record of a remote move, at the tile of its far operand, belongs to one of these moves of a tile. -/
def ofMove (tile : Nat) (tags : List Nat) (src tag : Nat) : Bool := src = tile && tags.contains tag

/-- What moves of a tile hold at the tiles of their far operands given back: waiting accesses leave the probe table, and slots
claimed there revert (R191, R198). The record of a move whose data is under way stays until the data has come, to drop it. -/
def State.dropFar (s : State) (tile : Nat) (probing moving : List Nat) : State :=
  if probing.isEmpty && moving.isEmpty then s
  else
    let mine (m : RxMove) : Bool := ofMove tile (probing ++ moving) m.src m.tag
    let gone := s.rx.flatMap (fun e => (e.2.filter mine).flatMap (·.claims))
    let kept (l : List RxMove) : List RxMove :=
      (l.filter (fun m => !ofMove tile probing m.src m.tag)).map
        (fun m => if ofMove tile moving m.src m.tag then { m with claims := [], todo := [], dead := true } else m)
    { s with
        rx := Store.mapVals [] (fun _ l => kept l) s.rx
        probes := Store.mapVals [] (fun _ l => l.filter (fun q =>
          !ofMove tile (probing ++ moving) q.pkt.src.toNat q.pkt.tag.toNat)) s.probes
    }.revertClaims gone

/-- Work of a crucible that a test picks is discarded: it leaves its queues, frees its scoreboard entries and gives back its
slot claims here and at the tile of a far operand; tasks that waited for it are re-evaluated (R70, R86, R97, R191). -/
def State.discard (s : State) (tile cru : Nat) (p : Work → Bool) : State :=
  let c := s.cru tile cru
  let gone := c.works.filter p
  let probing := (gone.filter (fun w => w.phase = .probing)).map (·.tag)
  let moving := (gone.filter (fun w => match w.phase with | .moving _ => true | _ => false)).map (·.tag)
  let c' := { c with
    mould := c.mould.filter (fun w => !p w), vector := c.vector.filter (fun w => !p w),
    attn := c.attn.filter (fun w => !p w), runner := c.runner.filter (fun w => !p w),
    sb := c.sb.filter (fun e => !gone.any (fun w => w.iid = e.iid)) }
  (((s.setCru tile cru c').revertClaims (gone.flatMap (·.claims))).dropFar tile probing moving).wakeTasks tile cru

/-! ### Task faults (R96 to R99) -/

/-- What a fault leaves in the fault record. -/
structure FaultInfo where
  code : Nat
  unit : Nat
  addr : Addr
  pc   : Addr
  seq  : Nat
  /-- For an ECC fault, the pool or peat offset, for FAULT_INFO.DETAIL. -/
  off  : Nat
  deriving DecidableEq, Repr

/-- The fault record of the earliest faulting instruction in program order; later ones count in MORE (R98). -/
def State.recordFault (s : State) (t : TaskRef) (f : FaultInfo) : State :=
  let pg := cruPage t.tile t.cru
  let x := s.task t.tile t.cru t.task
  let more := s.rf pg (Reg.TASK_FAULT t.task) 19 16
  let s := match x.faultSeq with
    | none => s
    | some _ => s.setRf pg (Reg.TASK_FAULT t.task) 19 16 (min 15 (more + 1))
  let first : Bool := match x.faultSeq with | none => true | some q => f.seq < q
  if first then
    let s := s.setFields pg (Reg.TASK_FAULT t.task)
      [(7, 0, f.code), (10, 8, f.unit), (12, 11, segOf f.addr), (63, 32, s.ts)]
    let s := s.setReg pg (Reg.TASK_FADDR t.task) (BitVec.ofNat 64 f.addr.toNat)
    let s := s.setReg pg (Reg.TASK_FPC t.task) (BitVec.ofNat 64 f.pc.toNat)
    s.setTask t.tile t.cru t.task { s.task t.tile t.cru t.task with faultSeq := some f.seq }
  else s

/-- A task fault: the record, the drain toward FAULTED, the discard of later work, the event, the counter and the report to
the FAULT page (R97 to R99, R521). -/
def State.taskFault (s : State) (t : TaskRef) (f : FaultInfo) : State :=
  let pg := cruPage t.tile t.cru
  let s := s.recordFault t f
  let x := s.task t.tile t.cru t.task
  let s := s.setTask t.tile t.cru t.task
    { x with st := .draining, wait := .none, after := .faulted, gate := none, load := none, pend := [], ask := none, aged := false }
  let s := s.discard t.tile t.cru (fun w => w.task = t.task && decide (f.seq < w.seq))
  let s := (s.raise pg 0).bump pg 12 1
  if f.code = fEcc then s.report t.tile 2 (1 + t.cru.val) (f.off / 256)
  else s.report t.tile 1 (1 + t.cru.val) (s.rf pg (Reg.TASK_FAULT t.task) 31 0)

/-- A fault that the issue stage finds at the task's next instruction. -/
def State.issueFault (s : State) (t : TaskRef) (code : Nat) (addr : Addr) : State :=
  let x := s.task t.tile t.cru t.task
  s.taskFault t ⟨code, 0, addr, x.pc, x.seq, 0⟩

/-! ### Waiting, retiring and flags -/

/-- The selected task cannot issue and waits (R70, R80). -/
def State.waitFor (s : State) (t : TaskRef) (w : WaitReason) (ask : Option WaitFor) : State :=
  let x := s.task t.tile t.cru t.task
  s.setTask t.tile t.cru t.task { x with st := .waiting, wait := w, ask := ask, aged := false }

/-- A change of the issuing task; a crucible's first issue since reset is none. (DESIGN CHOICE: log entry 124) -/
def switches (c : Crucible) (k : TaskIx) : Nat := match c.last with | none => 0 | some p => if p = k then 0 else 1

/-- The counters of an issue: ISSUED, SWITCHES, AGE_PROMOTIONS (R112); the task that issued is the last issuer (R68). -/
def State.countIssue (s : State) (t : TaskRef) : State :=
  let pg := cruPage t.tile t.cru
  let c := s.cru t.tile t.cru
  let x := s.task t.tile t.cru t.task
  ((((s.bump pg 0 1).bump pg 4 (switches c t.task)).bump pg 13 (b2n x.aged)).setCru t.tile t.cru
    { c with last := some t.task }).setTask t.tile t.cru t.task { x with aged := false }

/-- The task goes on at an address, ready to issue. -/
def State.goTo (s : State) (t : TaskRef) (pc : Addr) : State :=
  let x := s.task t.tile t.cru t.task
  (s.setTask t.tile t.cru t.task { x with st := .ready, wait := .none, pc := pc }).countIssue t

/-- An instruction of n bytes retires. -/
def State.retire (s : State) (t : TaskRef) (n : Nat) : State :=
  s.goTo t ((s.task t.tile t.cru t.task).pc + BitVec.ofNat 48 n)

/-- Sticky flags of a task set (R54, R108). -/
def State.orFlags (s : State) (t : TaskRef) (f : BitVec 5) : State :=
  let pg := cruPage t.tile t.cru
  s.setReg pg (Reg.TASK_FLAGS t.task) (s.reg pg (Reg.TASK_FLAGS t.task) ||| BitVec.ofNat 64 f.toNat)

/-- A task in IDLE: every register of the context cleared (R114). A fault record that stands keeps later faults out until
TASK_CTL.RESET (R98), whatever order number they have in a new run. (DESIGN CHOICE: log entry 7) -/
def idleTask (x : Task) : Task := { st := .idle, pc := x.pc, faultSeq := x.faultSeq.map (fun _ => 0) }

/-! ### The issue stage (R65, R78, R80, R623) -/

/-- A task's issue priority (R106). -/
def State.prio (s : State) (tile cru task : Nat) : Nat := s.rf (cruPage tile cru) (Reg.TASK_CTL task) 4 3

/-- The task that the issue stage picks (R68): the lowest-numbered READY task that was passed over for AGE_LIMIT cycles; else, of the
READY tasks with the highest PRIO, the first in turn after the task that issued last. -/
def State.pick (s : State) (tile : TileIx) (cru : CruIx) : Option TaskIx :=
  let ready : List TaskIx := (List.finRange 8).filter (fun (k : TaskIx) => (s.task tile cru k).st = .ready)
  match ready.find? (fun (k : TaskIx) => (s.task tile cru k).aged) with
  | some k => some k
  | none =>
    let top := (ready.map (fun (k : TaskIx) => s.prio tile cru k)).foldl max 0
    let best := ready.filter (fun (k : TaskIx) => s.prio tile cru k = top)
    match (s.cru tile cru).last with
    | none => best.head?
    | some p => (best.find? (fun (k : TaskIx) => p.val < k.val)).or best.head?

/-- Whether the issue stage tries this task's next instruction: issue is enabled and the task is the one it picks. -/
def State.canTry (s : State) (t : TaskRef) : Bool :=
  s.rb (cruPage t.tile t.cru) Reg.CRU_CTL 16 && s.pick t.tile t.cru = some t.task

/-- The line of the instruction cache that a task-relative address falls in: lines of 256 bytes of physical memory.
(DESIGN CHOICE: log entry 18) -/
def State.icLine (s : State) (t : TaskRef) (a : Addr) : Nat :=
  let (sp, ph) := s.physOf t a
  (sp * 2 ^ 48 + ph) / 256

/-- The checks of an instruction fetch (R623), and the spaces the fetch path reaches, judged last. (DESIGN CHOICE: log entry 122) -/
def State.fetchCheck (s : State) (t : TaskRef) (n : Nat) : Option Nat :=
  let a := (s.task t.tile t.cru t.task).pc
  match s.segCheck t a n .fetch anySpace with
  | some c => some c
  | none => if nearSpace (s.physOf t a).1 then none else some fSegSpace

/-- What an instruction asks of the issue stage before its own checks: its length, whether its encoding is undefined, its
predicate, and the scalar registers it reads or writes. -/
structure IssueReq where
  len     : Nat
  illegal : Bool
  pred    : BitVec 3
  uses    : List (BitVec 5)
  deriving DecidableEq, Repr

/-- Steps 1 to 3 of R78 with the waits of R80 and R115: the state in which the issue stage ends before the instruction's own
checks, or none where it reaches them. (DEDUCED: log entry 20; DESIGN CHOICE: log entry 18) -/
def State.issueStop (s : State) (t : TaskRef) (q : IssueReq) : Option State :=
  if !s.canTry t then some s
  else
    let x := s.task t.tile t.cru t.task
    match s.fetchCheck t q.len with
    | some code => some (s.issueFault t code x.pc)
    | none =>
      if !(s.cru t.tile t.cru).icache.contains (s.icLine t x.pc) then
        some ((s.bump (cruPage t.tile t.cru) 14 1).waitFor t .fetch none)
      else if q.illegal then some (s.issueFault t fIllegal 0)
      else if x.pc.toNat % (if q.len = 16 then 16 else 4) ≠ 0 then some (s.issueFault t fMisalign x.pc)
      else if !x.rp q.pred then some (s.retire t q.len)
      else if q.uses.any (fun r => x.pend.contains r.toNat) then some (s.waitFor t .load (some (.regs (q.uses.map (·.toNat)))))
      else none

/-- An instruction at the issue stage: `body` is its own checks and effect. -/
def State.issue (s : State) (t : TaskRef) (q : IssueReq) (body : State → State) : State :=
  match s.issueStop t q with
  | some s' => s'
  | none => body s

/-! ### Task control (R70 to R72, R106) -/

/-- CRU_STAT.WERR and its event (R70, R103, R111). -/
def State.werr (s : State) (tile cru : Nat) : State :=
  (s.setRb (cruPage tile cru) Reg.CRU_STAT 16 true).raise (cruPage tile cru) 3

def State.startTask (s : State) (tile cru task : Nat) : State :=
  let x := s.task tile cru task
  if x.st = .idle && s.poolOn tile cru then
    s.setTask tile cru task
      { x with st := .ready, wait := .none, pc := BitVec.ofNat 48 (s.rf (cruPage tile cru) (Reg.TASK_ENTRY task) 47 0) }
  else s.werr tile cru

def State.stopTask (s : State) (tile cru task : Nat) : State :=
  let x := s.task tile cru task
  if x.st = .ready || x.st = .waiting then
    s.setTask tile cru task { x with st := .draining, wait := .none, after := .halted, gate := none, ask := none, aged := false }
  else s.werr tile cru

def State.resetTask (s : State) (tile cru task : Nat) : State :=
  let x := s.task tile cru task
  let pg := cruPage tile cru
  if x.st = .faulted || x.st = .halted then
    ((((s.setTask tile cru task { idleTask x with faultSeq := none }).setReg pg (Reg.TASK_FAULT task) 0).setReg pg (Reg.TASK_FADDR task) 0).setReg
      pg (Reg.TASK_FPC task) 0).setReg pg (Reg.TASK_FLAGS task) 0
  else s.werr tile cru

/-- What a write of TASK_CTL starts (R70). -/
def taskCtlHook (w : WEff) (tile cru task : Nat) : State :=
  let s := w.st.zeroBits (cruPage tile cru) (Reg.TASK_CTL task) 7
  match w.fires 0, w.fires 1, w.fires 2 with
  | false, false, false => s
  | true, false, false => s.startTask tile cru task
  | false, true, false => s.stopTask tile cru task
  | false, false, true => s.resetTask tile cru task
  | _, _, _ => s.werr tile cru

/-- A write of TASK_CTL with the operand's other fields as given and one trigger bit forced. (DESIGN CHOICE: log entry 80) -/
def State.taskCtlWrite (s : State) (who : Requester) (t : TaskRef) (v : W64) (i : Nat) : State :=
  taskCtlHook (s.writeCore who (cruPage t.tile t.cru) (Reg.TASK_CTL t.task) .b64 (setFld v 2 0 (2 ^ i))) t.tile t.cru t.task

def execTaskStart (who : Requester) (t : TaskRef) (v : W64) (s : State) : Out State := .next (s.taskCtlWrite who t v 0)
def execTaskStop (who : Requester) (t : TaskRef) (v : W64) (s : State) : Out State := .next (s.taskCtlWrite who t v 1)
def execTaskReset (who : Requester) (t : TaskRef) (v : W64) (s : State) : Out State := .next (s.taskCtlWrite who t v 2)

/-- The end of a drain (R70, R71): nothing of the task is dispatched any more. A task that reaches IDLE does so after its
crucible's gathering buffer has flushed, which waits for a layer that is not ON (R181, R185), with its registers cleared (R114).
(DEDUCED: log entry 32) -/
def State.drainEnd (s : State) (t : TaskRef) : State :=
  let x := s.task t.tile t.cru t.task
  if x.st = .draining && (s.cru t.tile t.cru).inflight t.task = 0 && x.load.isNone then
    match x.after with
    | .idle =>
      if s.gbReady t.tile t.cru then (s.gbFlushAll t.tile t.cru).setTask t.tile t.cru t.task (idleTask x) else s
    | st => s.setTask t.tile t.cru t.task { x with st := st, wait := .none }
  else s

def execDrainEnd (t : TaskRef) (s : State) : Out State := .next (s.drainEnd t)

/-- R68: with AGE_LIMIT not 0, a READY task was passed over for that many cycles in a row, and issues before any that was not. The
cycles are counted outside the model; the command says that the limit was reached. -/
def execAgePromotion (t : TaskRef) (s : State) : Out State :=
  let x := s.task t.tile t.cru t.task
  if x.st = .ready && s.rf (cruPage t.tile t.cru) Reg.CRU_CTL 15 0 ≠ 0 then
    .next (s.setTask t.tile t.cru t.task { x with aged := true })
  else .next s

end Sys2Proof.Machine
end

