-- ==== Sys2Proof/Machine/Ecc.lean ====
section
/-! DEFINITION. Records of ECC errors on the POOL, PEAT and MIRE pages (R201 to R206, R343, R359). -/
namespace Sys2Proof.Machine

/-- Whether a later error may take the record: an uncorrectable one is kept from correctable ones until event bit 1 is cleared. -/
def State.eccMayRecord (s : State) (page info : Nat) (ue : Bool) : Bool :=
  ue || !(s.rb page info 0 && s.rb page Reg.EVT_RAW 1)

/-- What an ECC check found, as the record shows it. -/
structure EccNote where
  ue       : Bool
  poison   : Bool
  scrub    : Bool
  syndrome : Nat
  deriving DecidableEq, Repr

def State.eccInfo (s : State) (n : EccNote) : W64 :=
  word [(0, b2n n.ue), (1, b2n n.poison), (2, b2n n.scrub), (8, n.syndrome), (32, s.ts)]

/-- The note of an error; the syndrome of an uncorrectable error is a free value.
(DEDUCED: log entry 35; DESIGN CHOICE: log entry 36) -/
def eccNote (seed : Nat) (e : EccResult) (poison scrub : Bool) : EccNote :=
  match e with
  | .corrected sy => ⟨false, false, scrub, sy.toNat⟩
  | _ => ⟨true, poison, scrub, (Config.undefByte seed 0).toNat⟩

/-- An error in a pool: recorded, counted and raised (R201, R203, R204). Ports: 0 to 4 the units, 5 incoming, 6 scrubber. -/
def State.poolEcc (s : State) (tile cru port off : Nat) (e : EccResult) (poison scrub : Bool) : State :=
  match e with
  | .clean => s
  | _ =>
    let pg := poolPage tile
    let n := eccNote s.fresh e poison scrub
    let s1 := if s.eccMayRecord pg Reg.POOL_ECC_INFO n.ue then
        (s.setReg pg Reg.POOL_ECC_ADDR (word [(3, off / 8), (25, cru), (27, port)])).setReg pg Reg.POOL_ECC_INFO (s.eccInfo n)
      else s
    ((s1.tickFresh).bump pg (if n.ue then 3 else 2) 1).raise pg (if n.ue then 1 else 0)

/-- An error in a peat (R201, R205, R206). Ports are those of R177. -/
def State.peatEcc (s : State) (tile port off : Nat) (e : EccResult) (poison scrub : Bool) : State :=
  match e with
  | .clean => s
  | _ =>
    let pg := peatPage tile
    let n := eccNote s.fresh e poison scrub
    let s1 := if s.eccMayRecord pg Reg.PEAT_ECC_INFO n.ue then
        (s.setReg pg Reg.PEAT_ECC_ADDR (word [(3, off / 8), (33, port)])).setReg pg Reg.PEAT_ECC_INFO (s.eccInfo n)
      else s
    ((s1.tickFresh).bump pg (if n.ue then 5 else 4) 1).raise pg (if n.ue then 1 else 0)

/-- An error of a crucible's own access to its pool or its tile's peat. -/
def State.nearEcc (s : State) (tile cru port : Nat) (peat : Bool) (off : Nat) (e : EccResult) (poison : Bool) : State :=
  if peat then s.peatEcc tile cru off e poison false else s.poolEcc tile cru port off e poison false

/-- The first byte of a range that lies in a line of a width with a mark: where an uncorrectable error is met first. -/
def firstMarked (bad : Nat → Bool) (width off n : Nat) : Nat :=
  match (linesOf width off n).find? bad with
  | some l => max off (l * width)
  | none => off
def State.poolBadAt (s : State) (tile cru off n : Nat) : Nat :=
  firstMarked (fun l => Store.get false s.poolBad (poolLineKey tile cru l)) 4096 off n
def State.peatBadAt (s : State) (tile off n : Nat) : Nat :=
  firstMarked (fun l => Store.get false s.peatBad (peatLineKey tile l)) 256 off n

/-- Bytes of a peat read that the bank serves count one line read each line (R206); a line that the gathering buffer serves
wholly counts nothing. -/
def State.countNearRead (s : State) (tile cru off n : Nat) : State :=
  let gb := (s.cru tile cru).gb
  let whole (l : Nat) : Bool := match gb.find? (fun e => e.line = l) with
    | none => false
    | some e => (List.range n).all (fun i => (off + i) / 256 ≠ l || (Store.get none e.data ((off + i) % 256)).isSome)
  s.bump (peatPage tile) 0 ((linesOf 256 off n).filter (fun l => !whole l)).length

/-- An item of a scrub pass read: the pass goes on in ascending order, and is complete after the last item. True at its end.
(DEDUCED: log entry 35) -/
def State.scrubStep (s : State) (key item last : Nat) : Bool × State :=
  if Store.get 0 s.scrubs key ≠ item then (false, s)
  else (item = last, { s with scrubs := Store.set 0 s.scrubs key (if item = last then 0 else item + 1) })

/-- The groups in which a pool port serves words taken in ascending address order (R171): (groups, groups ended by a bank
conflict). `used` and `n` are the banks and the number of words of the open group. -/
def poolGroups (used : List Nat) (n g c : Nat) : List Nat → Nat × Nat
  | [] => (if n = 0 then g else g + 1, c)
  | w :: r =>
    let bank := (w / 64 + w % 64) % 64
    if n = 64 then poolGroups [bank] 1 (g + 1) c r
    else if used.contains bank then poolGroups [bank] 1 (g + 1) (c + 1) r
    else poolGroups (bank :: used) (n + 1) g c r

/-- The 64-byte words of byte ranges, ascending and each once. -/
def wordsOf : List (Nat × Nat) → Store Bool
  | [] => []
  | (off, n) :: r => (linesOf 64 off n).foldl (fun m w => Store.set false m w true) (wordsOf r)

/-- A pool access counted in GROUPS and SPLIT_GROUPS (R171, R204). -/
def State.countPool (s : State) (tile : Nat) (ranges : List (Nat × Nat)) : State :=
  let (g, c) := poolGroups [] 0 0 0 ((wordsOf ranges).map (·.1))
  (s.bump (poolPage tile) 0 g).bump (poolPage tile) 1 c

end Sys2Proof.Machine
end

