-- ==== Sys2Proof/Machine/MireMem.lean ====
section
/-! DEFINITION. Requests to the mire controllers: refusals, poison, counters and the error record (R340 to R345, R359 to R361). -/
namespace Sys2Proof.Machine

/-- The parts of a range that lie in one granule each, ascending: (address, bytes). -/
def granules (a n : Nat) : List (Nat × Nat) :=
  (linesOf 256 a n).map (fun g =>
    let lo := max a (256 * g)
    (lo, min (a + n) (256 * g + 256) - lo))

/-- MIRE_STAT.STATE of a stack: 0 OFF, 1 TRAINING, 2 READY, 3 DOWN. -/
def State.stackState (s : State) (j : Nat) : Nat := s.rf (mirePage j) Reg.MIRE_STAT 1 0

/-- An ECC error of a burst at a mire address, recorded, counted and raised on its stack's page (R343, R359). -/
def State.mireEcc (s : State) (a : Nat) (sy : Nat) (ue poison scrub : Bool) : State :=
  let pg := mirePage (mireStack a)
  let l := mireLocal a / 64 * 64
  let s := if s.eccMayRecord pg Reg.MIRE_ECC_INFO ue then
      (s.setReg pg Reg.MIRE_ECC_ADDR (word [(0, l), (36, bits l 13 8)])).setReg pg Reg.MIRE_ECC_INFO
        (s.eccInfo ⟨ue, poison, scrub, if ue then 0xFF else sy⟩)
    else s
  let s := (s.bump pg (if ue then 3 else 2) 1).raise pg (if ue then 1 else 0)
  if ue then s.log pg 0x02 2 (s.reg pg Reg.MIRE_ECC_ADDR) (s.reg pg Reg.MIRE_ECC_INFO) else s

/-- A refusal by a stack that is DOWN raises STACK_DOWN (R360). -/
def State.raiseDown (s : State) : List Nat → State
  | [] => s
  | j :: r => (if s.stackState j = 3 then s.raise (mirePage j) 2 else s).raiseDown r

/-- A request to a granule activates its row unless the row is open (R338). -/
def bankKey (j l : Nat) : Nat := (j * 64 + bits l 13 8) * 64 + Config.mireBank l % 64
def State.activate (s : State) (j l : Nat) : State :=
  let b := Store.get {} s.banks (bankKey j l)
  if b.row = some (Config.mireRow l) then s
  else { s with banks := Store.set {} s.banks (bankKey j l) ⟨some (Config.mireRow l), b.acts + 1⟩ }

/-- The bytes of a request counted on each stack that serves them (R361). -/
def State.countMire (s : State) (slot : Nat) : List (Nat × Nat) → State
  | [] => s
  | (a, n) :: r => ((s.activate (mireStack a) (mireLocal a)).bump (mirePage (mireStack a)) slot n).countMire slot r

/-- Reads of poisoned granules, each recorded. -/
def State.mirePoisonHits (s : State) : List (Nat × Nat) → State
  | [] => s
  | (a, _) :: r => (if Store.get false s.mireBad (a / 256) then s.mireEcc a 0 true true false else s).mirePoisonHits r

/-- Whether every stack that a range lies on is READY. -/
def State.mireReady (s : State) (a n : Nat) : Bool :=
  decide (a + n ≤ mireSize) && (granules a n).all (fun g => s.stackState (mireStack g.1) = 2)

/-- A read request: the bytes, or none when it is refused, with what it leaves on the MIRE pages. -/
def State.mireServeRead (s : State) (a n : Nat) : Option (List Byte) × State :=
  let gs := granules a n
  if mireSize < a + n then (none, s)
  else if !s.mireReady a n then (none, s.raiseDown (gs.map (fun g => mireStack g.1)).eraseDups)
  else if s.mirePoisoned a n then (none, s.mirePoisonHits gs)
  else (some (s.readMire a n), s.countMire 0 gs)

/-- What the check of a burst says: the stack number and the local address are folded into it, so that an access that landed at another
place than the one asked for is uncorrectable (R342). -/
def burstCheck (asked landed : Nat) (e : EccResult) : EccResult :=
  if mireStack asked = mireStack landed && mireLocal asked / 64 = mireLocal landed / 64 then e else .uncorrectable

/-- A read request one of whose bursts has a check outcome of its own (R343): corrected, it is recorded; uncorrectable, the granule is
poisoned and the request refused. -/
def State.mireReadBurst (s : State) (a n burst landed : Nat) (e : EccResult) : Option (List Byte) × State :=
  match s.mireServeRead a n with
  | (none, t) => (none, t)
  | (some bs, t) =>
    let b := if a ≤ burst && decide (burst < a + n) then burst else a
    if n = 0 then (some bs, t)
    else match burstCheck b landed e with
      | .clean => (some bs, t)
      | .corrected sy => (some bs, t.mireEcc b sy.toNat false false false)
      | .uncorrectable =>
        (none, ({ s with mireBad := Store.set false s.mireBad (b / 256) true } : State).mireEcc b 0 true false false)

/-- Reads that the engine makes for itself, one after the other: false where one is refused. -/
def State.mireTake (s : State) : List (Nat × Nat) → Bool × State
  | [] => (true, s)
  | (a, n) :: r => match s.mireServeRead a n with
    | (none, t) => (false, t)
    | (some _, t) => t.mireTake r

/-- A write request: whether it is accepted, and the state. -/
def State.mireServeWrite (s : State) (a : Nat) (bs : List Byte) : Bool × State :=
  let gs := granules a bs.length
  if mireSize < a + bs.length then (false, s)
  else if !s.mireReady a bs.length then (false, s.raiseDown (gs.map (fun g => mireStack g.1)).eraseDups)
  else (true, (s.writeMire a bs).countMire 1 gs)

end Sys2Proof.Machine
end

