-- ==== Sys2Proof/Machine/Crypto.lean ====
section
/-! DEFINITION. The security block's arithmetic: CRC-32C, SHA-384, HMAC and HKDF over it, and ECDSA P-384 verification (R362,
  R586,
R594 to R596). -/
namespace Sys2Proof.Machine

/-! ### CRC-32C -/

/-- Eight shifts of the reflected polynomial. -/
def crcBits : Nat → W32 → W32
  | 0, c => c
  | n + 1, c => crcBits n (if c.getLsbD 0 then (c >>> 1) ^^^ 0x82F63B78 else c >>> 1)
def crcFrom : W32 → List Byte → W32
  | c, [] => c
  | c, b :: r => crcFrom (crcBits 8 (c ^^^ b.setWidth 32)) r
/-- CRC-32C of a byte string. -/
def crc32c (l : List Byte) : W32 := ~~~(crcFrom 0xFFFFFFFF l)

/-! ### SHA-384 -/

def beNat (l : List Byte) : Nat := l.foldl (fun a b => a * 256 + b.toNat) 0
def beBytes (n x : Nat) : List Byte := (leBytes n x).reverse

def shaK0 : List W64 := [0x428A2F98D728AE22, 0x7137449123EF65CD, 0xB5C0FBCFEC4D3B2F, 0xE9B5DBA58189DBBC, 0x3956C25BF348B538,
  0x59F111F1B605D019, 0x923F82A4AF194F9B, 0xAB1C5ED5DA6D8118, 0xD807AA98A3030242, 0x12835B0145706FBE]
def shaK1 : List W64 := [0x243185BE4EE4B28C, 0x550C7DC3D5FFB4E2, 0x72BE5D74F27B896F, 0x80DEB1FE3B1696B1, 0x9BDC06A725C71235,
  0xC19BF174CF692694, 0xE49B69C19EF14AD2, 0xEFBE4786384F25E3, 0x0FC19DC68B8CD5B5, 0x240CA1CC77AC9C65]
def shaK2 : List W64 := [0x2DE92C6F592B0275, 0x4A7484AA6EA6E483, 0x5CB0A9DCBD41FBD4, 0x76F988DA831153B5, 0x983E5152EE66DFAB,
  0xA831C66D2DB43210, 0xB00327C898FB213F, 0xBF597FC7BEEF0EE4, 0xC6E00BF33DA88FC2, 0xD5A79147930AA725]
def shaK3 : List W64 := [0x06CA6351E003826F, 0x142929670A0E6E70, 0x27B70A8546D22FFC, 0x2E1B21385C26C926, 0x4D2C6DFC5AC42AED,
  0x53380D139D95B3DF, 0x650A73548BAF63DE, 0x766A0ABB3C77B2A8, 0x81C2C92E47EDAEE6, 0x92722C851482353B]
def shaK4 : List W64 := [0xA2BFE8A14CF10364, 0xA81A664BBC423001, 0xC24B8B70D0F89791, 0xC76C51A30654BE30, 0xD192E819D6EF5218,
  0xD69906245565A910, 0xF40E35855771202A, 0x106AA07032BBD1B8, 0x19A4C116B8D2D0C8, 0x1E376C085141AB53]
def shaK5 : List W64 := [0x2748774CDF8EEB99, 0x34B0BCB5E19B48A8, 0x391C0CB3C5C95A63, 0x4ED8AA4AE3418ACB, 0x5B9CCA4F7763E373,
  0x682E6FF3D6B2B8A3, 0x748F82EE5DEFB2FC, 0x78A5636F43172F60, 0x84C87814A1F0AB72, 0x8CC702081A6439EC]
def shaK6 : List W64 := [0x90BEFFFA23631E28, 0xA4506CEBDE82BDE9, 0xBEF9A3F7B2C67915, 0xC67178F2E372532B, 0xCA273ECEEA26619C,
  0xD186B8C721C0C207, 0xEADA7DD6CDE0EB1E, 0xF57D4F7FEE6ED178, 0x06F067AA72176FBA, 0x0A637DC5A2C898A6]
def shaK7 : List W64 := [0x113F9804BEF90DAE, 0x1B710B35131C471B, 0x28DB77F523047D84, 0x32CAAB7B40C72493, 0x3C9EBE0A15C9BEBC,
  0x431D67C49C100D4C, 0x4CC5D4BECB3E42B6, 0x597F299CFC657E2A, 0x5FCB6FAB3AD6FAEC, 0x6C44198C4A475817]
/-- The round constants. -/
def shaK : List W64 := shaK0 ++ shaK1 ++ shaK2 ++ shaK3 ++ shaK4 ++ shaK5 ++ shaK6 ++ shaK7
/-- The initial hash value of SHA-384. -/
def shaInit : List W64 := [0xCBBB9D5DC1059ED8, 0x629A292A367CD507, 0x9159015A3070DD17, 0x152FECD8F70E5939, 0x67332667FFC00B31,
  0x8EB44A8768581511, 0xDB0C2E0D64F98FA7, 0x47B5481DBEFA4FA4]

def bigS0 (x : W64) : W64 := x.rotateRight 28 ^^^ x.rotateRight 34 ^^^ x.rotateRight 39
def bigS1 (x : W64) : W64 := x.rotateRight 14 ^^^ x.rotateRight 18 ^^^ x.rotateRight 41
def smallS0 (x : W64) : W64 := x.rotateRight 1 ^^^ x.rotateRight 8 ^^^ (x >>> 7)
def smallS1 (x : W64) : W64 := x.rotateRight 19 ^^^ x.rotateRight 61 ^^^ (x >>> 6)

/-- The message schedule: `w` holds the last 16 words, newest first. -/
def shaRounds : List W64 → List W64 → List W64 → List W64
  | [], _, v => v
  | k :: ks, w, v =>
    match v with
    | [a, b, c, d, e, f, g, h] =>
      let w0 := w.getD 15 0
      let t1 := h + bigS1 e + ((e &&& f) ^^^ (~~~e &&& g)) + k + w0
      let t2 := bigS0 a + ((a &&& b) ^^^ (a &&& c) ^^^ (b &&& c))
      let next := smallS1 (w.getD 1 0) + w.getD 6 0 + smallS0 (w.getD 14 0) + w0
      shaRounds ks (next :: w.take 15) [t1 + t2, a, b, c, d + t1, e, f, g]
    | v => v

/-- One block of 128 bytes. -/
def shaBlock (h : List W64) (blk : List Byte) : List W64 :=
  let w := ((List.range 16).map (fun i => BitVec.ofNat 64 (beNat ((blk.drop (8 * i)).take 8)))).reverse
  (h.zip (shaRounds shaK w h)).map (fun p => p.1 + p.2)

def shaBlocks (l : List Byte) : Nat → List W64 → List W64
  | 0, h => h
  | n + 1, h => shaBlocks (l.drop 128) n (shaBlock h (l.take 128))

/-- SHA-384 of a byte string. -/
def sha384 (m : List Byte) : List Byte :=
  let pad := (239 - m.length % 128) % 128
  let l := m ++ [0x80] ++ List.replicate pad 0 ++ beBytes 16 (8 * m.length)
  ((shaBlocks l (l.length / 128) shaInit).flatMap (fun w => beBytes 8 w.toNat)).take 48

/-! ### HMAC and HKDF (RFC 5869) -/

def xorPad (k : List Byte) (c : Byte) : List Byte := (k ++ List.replicate (128 - k.length) 0).map (· ^^^ c)
def hmac384 (key msg : List Byte) : List Byte :=
  let k := if 128 < key.length then sha384 key else key
  sha384 (xorPad k 0x5C ++ sha384 (xorPad k 0x36 ++ msg))
def hkdfExtract (salt ikm : List Byte) : List Byte := hmac384 salt ikm
/-- One block of output, which is enough for a key of 32 bytes. -/
def hkdfExpand (prk info : List Byte) (n : Nat) : List Byte := (hmac384 prk (info ++ [1])).take n

/-! ### P-384 -/

def p384 : Nat := 2 ^ 384 - 2 ^ 128 - 2 ^ 96 + 2 ^ 32 - 1
def p384n : Nat := 0xffffffffffffffffffffffffffffffffffffffffffffffffc7634d81f4372ddf581a0db248b0a77aecec196accc52973
def p384b : Nat := 0xb3312fa7e23ee7e4988e056be3f82d19181d9c6efe8141120314088f5013875ac656398d8a2ed19d2a85c8edd3ec2aef
def p384gx : Nat := 0xaa87ca22be8b05378eb1c71ef320ad746e1d3b628ba79b9859f741e082542a385502f25dbf55296c3a545e3872760ab7
def p384gy : Nat := 0x3617de4a96262c6f5d9e98bf9292dc29f8f41dbd289a147ce9da3113b5f0b8c00a60b1ce1d7e819d7a431d7c90ea0e5f

/-- A power modulo m; `f` bounds the bits of the exponent. -/
def powMod (m : Nat) : Nat → Nat → Nat → Nat
  | 0, _, _ => 1 % m
  | f + 1, a, e => let h := powMod m f (a * a % m) (e / 2); if e % 2 = 1 then a * h % m else h
/-- The inverse modulo a prime. -/
def invMod (m a : Nat) : Nat := powMod m 384 (a % m) (m - 2)

/-- A point of the curve; none is the point at infinity. -/
abbrev CPoint := Option (Nat × Nat)

def onCurve (x y : Nat) : Bool :=
  decide (x < p384) && decide (y < p384) && decide (y * y % p384 = (x * x * x + (p384 - 3) * x + p384b) % p384)

def pointAdd : CPoint → CPoint → CPoint
  | none, q => q
  | p, none => p
  | some (x1, y1), some (x2, y2) =>
    if x1 = x2 && (y1 + y2) % p384 = 0 then none
    else
      let l := if x1 = x2 then (3 * x1 * x1 + p384 - 3) * invMod p384 (2 * y1) % p384
               else (y2 + p384 - y1) * invMod p384 (x2 + p384 - x1) % p384
      let x := (l * l + 2 * p384 - x1 - x2) % p384
      some (x, (l * (x1 + p384 - x) + p384 - y1) % p384)

/-- A multiple of a point; `f` bounds the bits of the factor. -/
def pointMul : Nat → Nat → CPoint → CPoint
  | 0, _, _ => none
  | f + 1, k, p =>
    let h := pointMul f (k / 2) (pointAdd p p)
    if k % 2 = 1 then pointAdd p h else h

/-- An uncompressed point of 97 bytes: 0x04, x, y. -/
def decodePoint (b : List Byte) : Option (Nat × Nat) :=
  let x := beNat ((b.drop 1).take 48)
  let y := beNat ((b.drop 49).take 48)
  if b.length = 97 && b.getD 0 0 = 4 && onCurve x y then some (x, y) else none

/-- ECDSA P-384 verification of a digest under an encoded public point. -/
def ecdsaVerify (point digest r s : List Byte) : Bool :=
  let rn := beNat r
  let sn := beNat s
  match decodePoint point with
  | none => false
  | some q =>
    if rn = 0 || p384n ≤ rn || sn = 0 || p384n ≤ sn then false
    else
      let w := invMod p384n sn
      let u1 := beNat (digest.take 48) * w % p384n
      let u2 := rn * w % p384n
      match pointAdd (pointMul 384 u1 (some (p384gx, p384gy))) (pointMul 384 u2 (some q)) with
      | none => false
      | some (x, _) => decide (x % p384n = rn)

end Sys2Proof.Machine
end

