-- ==== Sys2Proof/Machine/Mesh.lean ====
section
/-! DEFINITION. The Cetis mesh: sites, live tiles, slot tables, route kinds, injection and the checks at ejection (chapter 9). -/
namespace Sys2Proof.Machine

/-- The sites of the XY path between two tiles, both ends in it; an unpopulated site is none (R323). -/
def span (a b : Nat) : List Nat :=
  if a ≤ b then (List.range (b - a + 1)).map (a + ·) else (List.range (a - b + 1)).map (a - ·)
def xyPath (a b : Nat) : List (Option Nat) :=
  let (x0, y0) := siteOf a
  let (x1, y1) := siteOf b
  ((span x0 x1).map (fun x => tileAt x y0)) ++ ((span y0 y1).drop 1).map (fun y => tileAt x1 y)

/-- The port that leads one hop along the XY path. -/
def xyPort (a b : Nat) : Nat :=
  let (x0, y0) := siteOf a
  let (x1, y1) := siteOf b
  if x0 < x1 then 1 else if x1 < x0 then 3 else if y1 < y0 then 0 else if y0 < y1 then 2 else 5

/-! ### Tile states and membership (R319 to R323, R547) -/

def State.setTstate (s : State) (i v : Nat) : State :=
  s.setRf polderPage (Reg.TSTATE (i / 16)) (4 * (i % 16) + 3) (4 * (i % 16)) v

/-- A live tile: not fenced, quarantined, in self-test or withdrawn (R323, R533). -/
def State.live (s : State) (i : Nat) : Bool := decide (i < 80) && decide (s.tstate i < 3)

/-- The polder of a tile, and whether the tile is a member of it. -/
def State.polderOf (s : State) (i : Nat) : Nat := s.rf (cetisPage i) Reg.CETIS_CTL 2 0
def State.member (s : State) (i : Nat) : Bool := s.rb (cetisPage i) Reg.CETIS_CTL 3
def State.epochOf (s : State) (i p : Nat) : Nat := s.rf (cetisPage i) Reg.EPOCH (4 * p + 3) (4 * p)

/-- The tile that a slot maps to, when its entry is VALID. -/
def State.slotTile (s : State) (tile pol slot : Nat) : Option Nat :=
  let e := s.slotEnt tile pol slot
  if e.getLsbD 7 then some (e.toNat % 128) else none

/-- The gateway of a tile toward a sluice die (R325). -/
def State.gateway (s : State) (tile die : Nat) : Nat := s.rf (cetisPage tile) Reg.RIM_GW (8 * die + 6) (8 * die)

/-- The ring-0 tile that a sluice die uses for traffic it starts itself: the linked tile nearest the target (R325). -/
def dieGateway (die target : Nat) : Nat := (nearestOf target (linkedTiles die)).getD 0

/-- A slot miss at a tile (R319): counted and raised. -/
def State.slotMiss (s : State) (tile : Nat) : State := (s.bump (cetisPage tile) 7 1).raise (cetisPage tile) 2

/-! ### Operations (R317) -/

inductive Scope where
  | polder | rim | cross
  deriving DecidableEq, Repr

def opWr : Nat := 0x01
def opRd : Nat := 0x02
def opRdData : Nat := 0x03
def opMoveDone : Nat := 0x04
def opGadd : Nat := 0x05
def opProbe : Nat := 0x06
def opGrant : Nat := 0x07
def opRefuse : Nat := 0x08
def opPlaceReq : Nat := 0x09
def opPlaceOk : Nat := 0x0A
def opWave : Nat := 0x0B
def opHand : Nat := 0x0C
def opMireRd : Nat := 0x0D
def opMireWr : Nat := 0x0E
def opDraftReq : Nat := 0x10
def opDraftTree : Nat := 0x11
def opGen : Nat := 0x12
def opMgmt : Nat := 0x13

/-- Whether an operation code is defined. -/
def opDefined (o : Nat) : Bool := (1 ≤ o && o ≤ 0x0E) || (0x10 ≤ o && o ≤ 0x13)
/-- The virtual channel and the ORD bit of an operation. -/
def opVc (o : Nat) : Nat :=
  if o = opRdData || o = opMoveDone || o = opGrant || o = opRefuse || o = opPlaceOk then 1
  else if o = opWave || o = opHand || o = opDraftReq || o = opDraftTree then 2
  else if o = opGen || o = opMgmt then 3 else 0
def opOrd (o : Nat) : Bool :=
  !(o = opWr || o = opRd || o = opRdData || o = opWave || o = opHand || o = opMireRd || o = opMireWr)

/-- Ends of a packet: a tile, or 0x80 + a sluice die. -/
def dieEnd (d : Nat) : Nat := 0x80 + d
def isDie (e : Nat) : Bool := decide (0x80 ≤ e)

/-- The scope of a packet from its operation and its ends (R317): RIM with a sluice die at one end; draft requests and trees are CROSS; a
GEN is CROSS where its ends lie in different polders; everything else is POLDER. -/
def scopeOf (o src dst : Nat) (sameFamily : Bool) : Scope :=
  if isDie src || isDie dst then .rim
  else if o = opDraftReq || o = opDraftTree || (o = opGen && !sameFamily) then .cross else .polder

/-- The tile that routers take as the destination: the gateway for a sluice die. -/
def Packet.target (p : Packet) : Nat := if isDie p.dst.toNat then p.gwy.toNat else p.dst.toNat

/-- The route kind of a packet at injection (R323): set 0 when the XY path is live, and inside the polder for polder scope. -/
def State.pickSet (s : State) (scope : Scope) (pol src dst : Nat) : Nat :=
  let ok (i : Nat) : Bool := s.live i && (decide (scope ≠ .polder) || (s.member i && decide (s.polderOf i = pol)))
  if (xyPath src dst).all (fun t => match t with | some i => ok i | none => false) then 0
  else if scope = .polder then 1 else 2

/-- Whether a route exists for a set at the source router (R324, ROUTE.PORT 7). -/
def State.hasRoute (s : State) (set src dst : Nat) : Bool :=
  set = 0 || src = dst || decide (s.route src (set - 1) dst ≠ 7)

/-- NO_ROUTE at a source (R324): the event and the report. -/
def State.noRoute (s : State) (tile : Nat) : State := (s.raise (cetisPage tile) 3).report tile 3 6 0

/-- What a sender gives of a packet; the router fills in the rest. -/
structure Send where
  dst     : Nat
  op      : Nat
  addr    : Nat := 0
  tag     : Nat := 0
  operand : Nat := 0
  payload : List Byte := []
  sys     : Bool := false
  tclass  : Nat := 2
  deriving DecidableEq, Repr

/-! ### Packets as bytes (R316, R318) -/

/-- Flits of a packet. -/
def Packet.flits (p : Packet) : Nat := ceilDiv (p.payload.length + 32) 256

/-- The four words of a header. -/
def Packet.words (p : Packet) : List Nat :=
  [p.dst.toNat + p.src.toNat * 2 ^ 8 + p.vc.toNat * 2 ^ 16 + p.set.toNat * 2 ^ 18 + b2n p.ord * 2 ^ 20 + b2n p.sys * 2 ^ 21 +
     p.polder.toNat * 2 ^ 22 + p.epoch.toNat * 2 ^ 25 + p.tclass.toNat * 2 ^ 29 + p.op.toNat * 2 ^ 32 + p.payload.length * 2 ^ 40 +
     p.gwy.toNat * 2 ^ 56,
   p.addr.toNat + p.tag.toNat * 2 ^ 48, p.operand.toNat, p.e2e.toNat]
/-- A packet as its flits carry it: header, then payload. -/
def Packet.bytes (p : Packet) : List Byte := (Packet.words p).flatMap (leBytes 8) ++ p.payload
/-- E2E: CRC-32C over words 0 to 2 and the payload. -/
def Packet.crc (p : Packet) : W32 := crc32c (((Packet.words p).take 3).flatMap (leBytes 8) ++ p.payload)
def Packet.intact (p : Packet) : Bool := p.e2e = (Packet.crc p)
def Packet.sealed (p : Packet) : Packet := { p with e2e := (Packet.crc p) }

/-! ### Drops (R318, R320 to R322) -/

/-- A packet dropped at a tile: counted, recorded with its cause, and its event set (R335, R336). -/
def State.dropPkt (s : State) (tile cause : Nat) (p : Packet) : State :=
  let pg := cetisPage tile
  let s := s.bump pg 6 1
  let s := s.setReg pg Reg.DROP_LAST (word [(0, p.src.toNat), (8, p.dst.toNat), (16, p.polder.toNat), (19, p.epoch.toNat),
    (23, cause), (32, s.ts)])
  let s := s.raise pg (if cause = 2 then 1 else if cause = 4 then 4 else 0)
  if cause = 4 then s.report tile 4 6 0 else s

/-! ### Routers: outputs, lanes and buffers (R315, R322 to R327, R332) -/

/-- What a lane of a tile's port has sent and how its replays stand (R315). -/
def laneKey (tile port lane : Nat) : Nat := (tile * 8 + port) * 8 + lane
def State.laneAt (s : State) (tile port lane : Nat) : LaneTx := Store.get {} s.laneTx (laneKey tile port lane)
def State.setLane (s : State) (tile port lane : Nat) (x : LaneTx) : State :=
  { s with laneTx := Store.set {} s.laneTx (laneKey tile port lane) x }

/-- Lanes of a port that are live for what it sends. The local port has no lane that could retire. (DEDUCED: log entry 49) -/
def State.liveLane (s : State) (tile port lane : Nat) : Bool :=
  decide (5 ≤ port) || s.rb (cetisPage tile) Reg.LANES (8 * port + lane)
def State.livePort (s : State) (tile port : Nat) : Bool :=
  s.rf (cetisPage tile) Reg.LANES (8 * port + 7) (8 * port) ≠ 0 &&
  (if port = 4 then (dieOf tile).isSome else (neighbour tile port).isSome)

/-- The output port of a packet at a router; none where the router has no route for it. -/
def State.outPort (s : State) (tile : Nat) (p : Packet) : Option Nat :=
  if tile = (Packet.target p) then some (if isDie p.dst.toNat then 4 else 5)
  else if p.set = 0 then some (xyPort tile (Packet.target p))
  else if p.set = 3 then none
  else
    let r := s.route tile (p.set.toNat - 1) (Packet.target p)
    if r = 7 then none else some r

/-- The polder that owns the link of a port: both of its ends are tiles of it (R326). -/
def State.linkOwner (s : State) (tile port : Nat) : Option Nat :=
  match neighbour tile port with
  | none => none
  | some d => if s.member tile && s.member d && s.polderOf tile = s.polderOf d then some (s.polderOf tile) else none

/-- Whether a packet travels under POLDER scope. -/
def State.polderScope (s : State) (p : Packet) : Bool :=
  decide (scopeOf p.op.toNat p.src.toNat p.dst.toNat
    (decide (s.polderOf p.src.toNat = s.polderOf p.dst.toNat)) = .polder)

def State.fencedPort (s : State) (tile port : Nat) : Bool := decide (port < 5) && s.rb (cetisPage tile) Reg.PORT_FENCE port
/-- Whether a port fence lets a packet pass inward, and outward (R322). -/
def Packet.passesFence (p : Packet) : Bool := p.vc = 3 && p.sys && isDie p.dst.toNat
def Packet.leavesFence (p : Packet) : Bool := p.vc = 3 && p.sys

def portKey (tile port : Nat) : Nat := tile * 8 + port
def State.meshPort (s : State) (tile port : Nat) : MeshPort := Store.get {} s.ports (portKey tile port)
def State.setMeshPort (s : State) (tile port : Nat) (x : MeshPort) : State := { s with ports := Store.set {} s.ports (portKey tile port) x }

/-- The live lane of a port at or above a lane, cyclically. -/
def State.useLane (s : State) (tile port lane : Nat) : Option Nat :=
  ((List.range 8).map (fun k => (lane + k) % 8)).find? (s.liveLane tile port)

/-- The lane that a packet is to leave a router by: that of its flow, or the next in the round robin of the port's live lanes (R332). -/
def State.chooseLane (s : State) (tile port : Nat) (p : Packet) : Nat × State :=
  if p.ord then ((p.src ^^^ p.dst).toNat % 8, s)
  else
    let x := s.meshPort tile port
    let l := (s.useLane tile port x.next).getD x.next
    (l, s.setMeshPort tile port { x with next := (l + 1) % 8 })

/-- A packet enters a router by a port: the checks of R320 and R322, and the choice of its output (R335). -/
def State.enterRouter (s : State) (tile inPort lane : Nat) (p : Packet) : State :=
  if s.fencedPort tile inPort && !(Packet.passesFence p) then s.dropPkt tile 2 p
  else if !opDefined p.op.toNat then s.dropPkt tile 4 p
  else if !p.sys && decide (p.epoch.toNat ≠ s.epochOf tile p.polder.toNat) then s.dropPkt tile 1 p
  else match s.outPort tile p with
    | none => { s with net := s.net ++ [⟨p, tile, inPort, lane, s.up, none⟩] }
    | some k =>
      if s.fencedPort tile k && !(Packet.leavesFence p) then s.dropPkt tile 2 p
      else
        let (l, s) := s.chooseLane tile k p
        { s with net := s.net ++ [⟨p, tile, inPort, lane, s.up, some (k, l)⟩] }

/-- Flits that an input port holds per lane and virtual channel, by SET (R327). -/
def bufferFlits (set : BitVec 2) : Nat := if set = 0 then 32 else if set = 3 then 0 else 18
def Transit.inBuffer (t : Transit) (tile inPort lane : Nat) (p : Packet) : Bool :=
  t.tile = tile && t.inPort = inPort && t.lane = lane && t.pkt.vc = p.vc && t.pkt.set = p.set
/-- Flits in the buffer of an input port, lane, virtual channel and set. -/
def bufferUsed (l : List Transit) (tile inPort lane : Nat) (p : Packet) : Nat :=
  ((l.filter (fun t => t.inBuffer tile inPort lane p)).map (fun t => Packet.flits t.pkt)).sum
/-- Credit for a whole packet (R327). -/
def State.credit (s : State) (tile inPort lane : Nat) (p : Packet) : Bool :=
  decide (bufferUsed s.net tile inPort lane p + (Packet.flits p) ≤ bufferFlits p.set)
/-- Whether a packet lies in its router's buffer; those that a unit of the tile, or a sluice die, sends beyond it wait at the sender. -/
def State.seated (s : State) (t : Transit) : Bool :=
  decide (bufferUsed (s.net.takeWhile (· ≠ t)) t.tile t.inPort t.lane t.pkt + Packet.flits t.pkt ≤ bufferFlits t.pkt.set)

/-! ### Injection (R316, R323 to R325) -/

/-- A packet injected by a tile on behalf of a polder (R316, R323, R325); none when no route exists. (DESIGN CHOICE: log entry 11) -/
def State.inject (s : State) (tile pol : Nat) (m : Send) : Option State :=
  let gw := if isDie m.dst then s.gateway tile (m.dst - 0x80) else 0
  let hop := if isDie m.dst then gw else m.dst
  let scope := scopeOf m.op tile m.dst (decide (s.polderOf tile = s.polderOf hop))
  let set := s.pickSet scope pol tile hop
  if s.hasRoute set tile hop then
    let p : Packet :=
      { dst := BitVec.ofNat 8 m.dst, src := BitVec.ofNat 8 tile, vc := BitVec.ofNat 2 (opVc m.op), set := BitVec.ofNat 2 set,
        ord := opOrd m.op, sys := m.sys, polder := BitVec.ofNat 3 pol, epoch := BitVec.ofNat 4 (s.epochOf tile pol),
        tclass := BitVec.ofNat 2 m.tclass, op := BitVec.ofNat 8 m.op, gwy := BitVec.ofNat 8 gw,
        addr := BitVec.ofNat 48 m.addr, tag := BitVec.ofNat 16 m.tag, operand := BitVec.ofNat 64 m.operand,
        payload := m.payload, e2e := 0 }
    let s := if set = 0 then s else s.bump (cetisPage tile) 10 1
    let (l, s) := s.chooseLane tile 6 p
    some (s.enterRouter tile 5 l (Packet.sealed p))
  else none

/-- A packet injected, or NO_ROUTE raised. -/
def State.injectOr (s : State) (tile pol : Nat) (m : Send) : State :=
  match s.inject tile pol m with
  | some t => t
  | none => s.noRoute tile

def State.injectAll (s : State) (tile pol : Nat) : List Send → State
  | [] => s
  | m :: r => (s.injectOr tile pol m).injectAll tile pol r

/-- A packet that a sluice die sends through a gateway: nothing where the die's side of that link is fenced against it, or where no
legal route leads on (R322, R324). (DESIGN CHOICE: log entry 11) -/
def State.dieInject (s : State) (gw : Nat) (p : Packet) : State :=
  let set := s.pickSet .rim p.polder.toNat gw p.dst.toNat
  let p := { p with set := BitVec.ofNat 2 set }
  if (Store.get false s.dieFence gw && !(Packet.leavesFence p)) || !s.hasRoute set gw p.dst.toNat then s
  else
    let (l, s) := s.chooseLane gw 7 p
    s.enterRouter gw 4 l (Packet.sealed p)

/-- A reply of a sluice die: it goes back through the gateway that carried the request (R325), under the request's polder and
the die's own epoch. -/
def State.dieReply (s : State) (die : Nat) (q : Packet) (op operand addr : Nat) (payload : List Byte) : State :=
  s.dieInject q.gwy.toNat
    { dst := q.src, src := BitVec.ofNat 8 (dieEnd die), vc := BitVec.ofNat 2 (opVc op), set := 0, ord := opOrd op, sys := q.sys,
      polder := q.polder, epoch := Store.get 0 s.rimEpoch (die * 8 + q.polder.toNat), tclass := 2, op := BitVec.ofNat 8 op,
      gwy := q.gwy, addr := BitVec.ofNat 48 addr, tag := q.tag, operand := BitVec.ofNat 64 operand, payload := payload, e2e := 0 }

/-- A packet that a sluice die starts itself toward a tile (R325). (DESIGN CHOICE: log entry 129) -/
def State.dieSend (s : State) (die pol : Nat) (m : Send) : State :=
  s.dieInject (dieGateway die m.dst)
    { dst := BitVec.ofNat 8 m.dst, src := BitVec.ofNat 8 (dieEnd die), vc := BitVec.ofNat 2 (opVc m.op), set := 0, ord := opOrd m.op,
      sys := m.sys, polder := BitVec.ofNat 3 pol, epoch := Store.get 0 s.rimEpoch (die * 8 + pol), tclass := BitVec.ofNat 2 m.tclass,
      op := BitVec.ofNat 8 m.op, gwy := BitVec.ofNat 8 (dieGateway die m.dst), addr := BitVec.ofNat 48 m.addr,
      tag := BitVec.ofNat 16 m.tag, operand := BitVec.ofNat 64 m.operand, payload := m.payload, e2e := 0 }

/-! ### Ejection (R318, R320, R321, R328, R332) -/

/-- The checks of an ejecting router: E2E and reserved operations, then the epoch, then membership. The cause of the drop, or
none. -/
def State.ejectCause (s : State) (tile : Nat) (p : Packet) : Option Nat :=
  let pol := p.polder.toNat
  if !(Packet.intact p) || !opDefined p.op.toNat then some 4
  else if !p.sys && decide (p.epoch.toNat ≠ s.epochOf tile pol) then some 1
  else if s.polderScope p && (decide (s.polderOf tile ≠ pol) || !s.member tile) then some 3
  else none

/-- Whether a packet comes to its destination behind another: an ordered one behind an earlier one of its flow, and a management packet
in the management queue of its destination (R328, R332). -/
def Packet.behind (p q : Packet) : Bool :=
  q.dst = p.dst && q.vc = p.vc && ((q.ord && p.ord && q.src = p.src && q.set = p.set) || p.vc = 3)

/-- Whether a packet of an operation can be delivered: its destination's router has granted it, and none is before it. A steward's own
management packets come from outside the model. (DESIGN CHOICE: log entry 11) -/
def State.arrivable (s : State) (op : Nat) (p : Packet) : Bool :=
  decide (p.op.toNat = op) &&
  (if s.arrivals.contains p then (s.arrivals.takeWhile (· ≠ p)).all (fun q => !Packet.behind p q)
   else op = opMgmt && p.vc = 3 && p.sys && isDie p.src.toNat)

/-- A packet taken out of the mesh. (DESIGN CHOICE: log entry 11) -/
def State.takePkt (s : State) (p : Packet) : State := { s with arrivals := s.arrivals.erase p }

/-- A packet delivered to its tile: taken in, checked, and handed to its effect. (DESIGN CHOICE: log entry 11) -/
def State.eject (s : State) (op : Nat) (p : Packet) (f : Nat → State → State) : State :=
  let tile := p.dst.toNat
  if !s.arrivable op p || decide (80 ≤ tile) then s
  else
    let t := s.takePkt p
    match t.ejectCause tile p with
    | some c => t.dropPkt tile c p
    | none => f tile t

/-- A packet delivered to its sluice die: the epoch check of R320, whose drops count on MIRE0 for mire requests (R345). -/
def State.ejectDie (s : State) (op : Nat) (p : Packet) (f : Nat → State → State) : State :=
  let die := p.dst.toNat - 0x80
  if !s.arrivable op p || decide (p.dst.toNat < 0x80) || decide (8 ≤ die) then s
  else
    let t := s.takePkt p
    if !(Packet.intact p) then t
    else if !p.sys && decide (p.epoch ≠ Store.get 0 t.rimEpoch (die * 8 + p.polder.toNat)) then
      if p.op.toNat = opMireRd || p.op.toNat = opMireWr then
        t.bump (mirePage (4 * die + mireSub p.addr.toNat)) 6 1
      else t
    else f die t

/-! ### Gates (R135 to R141) -/

def gateKey (tile g : Nat) : Nat := tile * 1024 + g
def State.setGate (s : State) (tile g : Nat) (v : W32) : State := { s with gates := Store.set 0 s.gates (gateKey tile g) v }
def State.addGate (s : State) (tile g : Nat) (v : W32) : State := s.setGate tile g (s.gate tile g + v)

/-- A gate add by one of this tile's crucibles (R139 steps 2 and 3): the gathering buffer flushes first (R185). -/
def State.unitGateAdd (s : State) (tile cru g : Nat) (v : W32) : State :=
  ((s.gbFlushAll tile cru).addGate tile g v).bump (gatePage tile) 0 1

/-- A gate add that arrives from the mesh (R139 step 4). -/
def State.meshGateAdd (s : State) (tile g : Nat) (v : W32) : State := (s.addGate tile g v).bump (gatePage tile) 3 1

/-- Whether a gate's value satisfies a target (R135). -/
def gateSatisfied (v target : W32) : Bool := decide ((v - target).toNat < 2 ^ 31)

/-- A remote gate add sent to the tile of a logical slot of this tile's polder (R136, R319). -/
def State.sendGateAdd (s : State) (tile slot g : Nat) (v : W32) : State :=
  let pol := s.polderOf tile
  match s.slotTile tile pol slot with
  | none => s.slotMiss tile
  | some d => s.injectOr tile pol { dst := d, op := opGadd, addr := g, operand := v.toNat }

/-! ### Beds as sets of tiles (R240, R273) -/

def State.bedCfg0 (s : State) (b hi lo : Nat) : Nat := fld (s.bedReg b Reg.BED_CFG0) hi lo
def State.bedValid (s : State) (b : Nat) : Bool := fbit (s.bedReg b Reg.BED_CFG0) 48
def State.bedPolder (s : State) (b : Nat) : Nat := s.bedCfg0 b 2 0
def State.bedOrder (s : State) (b : Nat) : Nat := s.bedCfg0 b 10 3
def State.bedFirst (s : State) (b : Nat) : Bool := fbit (s.bedReg b Reg.BED_CFG0) 11
def State.bedLast (s : State) (b : Nat) : Bool := fbit (s.bedReg b Reg.BED_CFG0) 12
def State.bedEntry (s : State) (b : Nat) : Nat := s.bedCfg0 b 19 13
def State.bedExit (s : State) (b : Nat) : Nat := s.bedCfg0 b 26 20
/-- The member slots of a bed, ascending. -/
def State.bedSlots (s : State) (b : Nat) : List Nat :=
  let e := s.bedEntry b
  if e ≤ s.bedExit b then (List.range (s.bedExit b - e + 1)).map (e + ·) else []
/-- The logical slots of a polder that a tile holds, by its own slot table, ascending. -/
def State.slotsOf (s : State) (tile pol : Nat) : List Nat :=
  (List.range 128).filter (fun k => s.slotTile tile pol k = some tile)
/-- The bed that a tile is a member of. -/
def State.bedOf (s : State) (tile : Nat) : Option Nat :=
  let pol := s.polderOf tile
  let mine := s.slotsOf tile pol
  (List.range 256).find? (fun b => s.bedValid b && decide (s.bedPolder b = pol) && (s.bedSlots b).any mine.contains)

/-- Copies of a gate add sent to the members of a bed in ascending slot order (R333); `skip` leaves a tile out. -/
def State.sendGateCopies (s : State) (tile g : Nat) (v : W32) (skip : Option Nat) : List Nat → State
  | [] => s
  | k :: r =>
    let t := if s.slotTile tile (s.polderOf tile) k = skip && skip.isSome then s else s.sendGateAdd tile k g v
    t.sendGateCopies tile g v skip r

/-- A GBADD (R136, R333): to every member tile of this tile's bed, its own copy through the local port. -/
def State.sendGateAll (s : State) (tile g : Nat) (v : W32) : State :=
  match s.bedOf tile with
  | none => s.slotMiss tile
  | some b => s.sendGateCopies tile g v none (s.bedSlots b)

end Sys2Proof.Machine
end

