-- ==== Sys2Proof/Machine/Streams.lean ====
section
/-! DEFINITION. Stream contexts, generations, end conditions and cancellation (R250 to R256, R266 to R268). -/
namespace Sys2Proof.Machine

/-! ### Completion statuses (R254) -/

def stEos : Nat := 0x00
def stStop : Nat := 0x01
def stMax : Nat := 0x02
def stGrammar : Nat := 0x03
def stPrefill : Nat := 0x04
def stCancelled : Nat := 0x10
def stNormHalt : Nat := 0x11
def stNoToken : Nat := 0x12
def stLength : Nat := 0x13
def stEmptyPrompt : Nat := 0x14
def stFault : Nat := 0x15

def State.stream (s : State) (n : Nat) : Stream := Store.get {} s.streams n
def State.setStream (s : State) (n : Nat) (x : Stream) : State := { s with streams := Store.set {} s.streams n x }

/-- State codes of R251. -/
def sstateCode : SState → Nat
  | .free => 0 | .bound => 1 | .prefill => 2 | .decode => 3 | .draining => 4 | .held => 5

/-- The tiles of a polder: its member tiles. -/
def State.polderTiles (s : State) (p : Nat) : List Nat :=
  (List.range 80).filter (fun i => s.member i && decide (s.polderOf i = p) && s.live i)

/-- A generation as a tile's table holds it (R267). -/
def State.genAt (s : State) (tile n : Nat) : BitVec 8 := Store.get 0 s.genTab (tile * 4096 + n)
def State.setGenAt (s : State) (tile n : Nat) (g : BitVec 8) : State :=
  { s with genTab := Store.set 0 s.genTab (tile * 4096 + n) g }

/-- GEN packets to a list of tiles (R267, R317): management packets of sluice die 0, where the stream contexts are kept. -/
def State.sendGen (s : State) (pol n : Nat) (g : BitVec 8) : List Nat → State
  | [] => s
  | i :: r =>
    (s.dieSend 0 pol { dst := i, op := opGen, addr := n, operand := g.toNat, sys := true }).sendGen pol n g r

/-- A generation incremented, the new value sent to every tile of the stream's polder and of its linked stream's. -/
def State.stepGen (s : State) (n : Nat) : State :=
  let x := s.stream n
  let g := x.gen + 1
  let s := s.setStream n { x with gen := g }
  let s := s.sendGen x.polder n g (s.polderTiles x.polder)
  let other := (s.stream x.link).polder
  if x.linked && other ≠ x.polder then s.sendGen other n g (s.polderTiles other) else s

/-- Whether a stream may be cancelled: BOUND, PREFILL or DECODE, or HELD with one of these kept (R266). -/
def Stream.live (x : Stream) : Bool :=
  let on (t : SState) : Bool := t = .bound || t = .prefill || t = .decode
  on x.st || (x.st = .held && on x.kept)

/-- A stream sent to DRAINING with a status; its generation rises. A HELD stream drains too (R531). -/
def State.drainStream (s : State) (n status : Nat) : State :=
  let s := s.stepGen n
  s.setStream n { s.stream n with st := .draining, kept := .free, status := status, draftOut := false }

/-- The linked partner of a stream that ends is cancelled (R264). -/
def State.cancelPartner (s : State) (n : Nat) : State :=
  let x := s.stream n
  if x.linked && (s.stream x.link).linked && decide ((s.stream x.link).link = n) && (s.stream x.link).live then
    s.drainStream x.link stCancelled
  else s

/-- An end condition of R251, from PREFILL or DECODE. -/
def State.endStream (s : State) (n status : Nat) : State :=
  let x := s.stream n
  if x.st = .prefill || x.st = .decode then (s.drainStream n status).cancelPartner n else s

/-- A stream abandoned by a recast (R541): from any state but FREE and DRAINING. -/
def State.abandonStream (s : State) (n : Nat) : State :=
  if (s.stream n).live then
    (((s.drainStream n stFault).cancelPartner n).bump polderPage 12 1).raise polderPage 7
  else s

/-- A cancel of a stream at a generation (R266): whether it is accepted, and the state. -/
def State.cancelStream (s : State) (n : Nat) (g : BitVec 8) : Bool × State :=
  let x := s.stream n
  if x.live && x.gen = g then
    (true, ((s.drainStream n stCancelled).cancelPartner n).bump streamPage 2 1)
  else (false, (s.bump streamPage 3 1).raise streamPage 1)

/-- What a write of STRM_CANCEL starts; its fields read 0 again. -/
def strmCancelHook (w : WEff) : State :=
  let s := w.st.setReg streamPage Reg.STRM_CANCEL 0
  if w.fires 20 then (s.cancelStream (fld w.val 11 0) (BitVec.ofNat 8 (fld w.val 19 12))).2 else s

def execStrmCancel (who : Requester) (v : W64) (s : State) : Out State :=
  .next (strmCancelHook (s.writeCore who streamPage Reg.STRM_CANCEL .b64 (setBit v 20 true)))

/-! ### Credits (R256) -/

/-- A wavefront of a stream leaves the loop or is dropped: its credit returns (R246, R256, R267). -/
def State.leaveLoop (s : State) (n : Nat) (chunk : Bool) : State :=
  let x := s.stream n
  s.setStream n { x with inflight := x.inflight - 1, chunks := if chunk then x.chunks - 1 else x.chunks }

/-- The streams of a polder that are not FREE. -/
def State.streamsOf (s : State) (p : Nat) : List Nat :=
  (s.streams.map (·.1)).filter (fun n => (s.stream n).st ≠ .free && decide ((s.stream n).polder = p))

end Sys2Proof.Machine
end

