-- ==== Sys2Proof/Machine/Supply.lean ====
section
/-! DEFINITION. Power domains and main power: requests, refusals and ramps (R459 to R463), what a domain loses when it goes
OFF, and what the module loses with main power (R508, R517, R598). -/
namespace Sys2Proof.Machine

/-! ### Domains (R459) -/

/-- The unit (tile, or 80 + sluice die) and number of a domain. -/
def domOf : DomRef → Nat × Nat
  | .tile i n => (i.val, n.val)
  | .die d n => (80 + d.val, n.val)

def domExists (u n : Nat) : Bool :=
  if u < 80 then decide (n < 8) else decide (u < 88) && decide (n < 10) && (n ≠ 9 || u = 80 || u = 84)
def hasRetain (u n : Nat) : Bool := (decide (u < 80) && decide (4 ≤ n)) || (decide (80 ≤ u) && n = 4)

/-- State codes: 0 OFF, 1 RETAIN, 2 ON, 3 ramping or zeroing. -/
def State.domCode (s : State) (u n : Nat) : Nat :=
  if u < 80 then s.dom u n else s.rf tidePage (Reg.SLUICE_DOM (u - 80)) (2 * n + 1) (2 * n)
def State.setDom (s : State) (u n v : Nat) : State :=
  if u < 80 then s.setRf (pwrPage u) Reg.PWR_DOM (2 * n + 1) (2 * n) v
  else s.setRf tidePage (Reg.SLUICE_DOM (u - 80)) (2 * n + 1) (2 * n) v

def State.rampOf (s : State) (u n : Nat) : Option Ramp := s.ramps.find? (fun r => r.unit = u && r.dom = n)
def State.dropRamp (s : State) (u n : Nat) : State :=
  { s with ramps := s.ramps.filter (fun r => !(r.unit = u && r.dom = n)) }
def State.putRamp (s : State) (r : Ramp) : State :=
  let s := s.dropRamp r.unit r.dom
  { s with ramps := s.ramps ++ [r] }

/-- Bytes and marks outside a range of keys. -/
def outside {α : Type} (m : Store α) (lo n : Nat) : Store α := Store.keep (fun k => k < lo || lo + n ≤ k) m

/-- A crucible loses its pool, its tasks and everything in flight (R462). -/
def State.loseCrucible (s : State) (i k : Nat) : State :=
  let s := s.discard i k (fun _ => true)
  { s with
    pool := outside s.pool (poolKey i k 0) (2 ^ 25),
    poolBad := outside s.poolBad (poolLineKey i k 0) (2 ^ 13),
    tasks := outside s.tasks (taskKey i k 0) 8,
    crus := outside s.crus (cruKey i k) 1,
    khz := outside s.khz (i * 4 + k) 1,
    deferred := outside s.deferred (i * 4 + k) 1 }

/-- A peat layer loses its contents. -/
def State.loseLayer (s : State) (i l : Nat) : State :=
  { s with
    peat := outside s.peat (peatKey i (l * 2 ^ 31)) (2 ^ 31),
    peatBad := outside s.peatBad (peatLineKey i (l * 2 ^ 23)) (2 ^ 23) }

/-- What goes with a domain that opens its segments. -/
def State.loseDom (s : State) (u n : Nat) : State :=
  if u < 80 then (if n < 4 then s.loseCrucible u n else s.loseLayer u (n - 4))
  else
    let d := u - 80
    if n = 1 || n = 2 then s.setRb (ethPage (2 * d + (n - 1))) Reg.ETH_STAT 0 false
    else if 5 ≤ n && n ≤ 8 then s.setRf (mirePage (4 * d + (n - 5))) Reg.MIRE_STAT 1 0 0
    else s

/-- A task is running, or an incoming access to the crucible's pool is on its way (R462). -/
def State.crucibleBusy (s : State) (i k : Nat) : Bool :=
  (List.range 8).any (fun t => (s.task i k t).st ≠ .idle) ||
  (s.net.map (·.pkt) ++ s.arrivals).any (fun p => p.dst.toNat = i && (p.op.toNat = opWr || p.op.toNat = opRd) && bit p.addr.toNat 38 &&
    bits p.addr.toNat 40 39 = k)

/-- A request that is refused in every state of its domain: it names no such state or no such domain. -/
def domNever (u n code : Nat) : Bool := !domExists u n || code = 3 || (code = 1 && !hasRetain u n)

/-- A request that the domain's use refuses (R462). -/
def State.domHeld (s : State) (u n code : Nat) : Bool :=
  decide (u < 80) &&
    ((decide (n < 4) && code = 0 && s.crucibleBusy u n) || (decide (4 ≤ n) && code ≠ 2 && (s.bedOf u).isSome))

/-- A request applied: ON asks the ramp arbiter; OFF and RETAIN open the segments at once. (DEDUCED: log entry 86) -/
def State.applyDom (s : State) (u n code cls : Nat) : State :=
  let cur := s.domCode u n
  if cur = code then s
  else if code = 2 then s.putRamp ⟨u, n, cls, s.up, 0, .asked, cur = 0, none⟩
  else if code = 1 then s.setDom u n 1
  else (s.loseDom u n).setDom u n 0

/-- A request for a domain's state (R462): whether it is accepted, and the state. A request for a ramping domain waits for the
end of the ramp; a later one replaces it. (DEDUCED: log entry 86) -/
def State.domRequest (s : State) (u n code cls : Nat) : Bool × State :=
  if domNever u n code then (false, s)
  else match s.rampOf u n with
    | some r => match r.phase with
      | .stage _ => if s.domHeld u n code then (false, s) else (true, s.putRamp { r with next := some code })
      | .asked => if code = 2 then (true, s) else if s.domHeld u n code && s.domCode u n ≠ code then (false, s)
                  else (true, (s.dropRamp u n).applyDom u n code cls)
      | .zeroing => if code = 2 then (true, s) else if s.domHeld u n code then (false, s)
                    else (true, (s.dropRamp u n).applyDom u n code cls)
    | none => if s.domCode u n = code then (true, s) else if s.domHeld u n code then (false, s)
              else (true, s.applyDom u n code cls)

/-- A request that its use does not refuse: the engine's own (R463, R533). -/
def State.domForce (s : State) (u n code cls : Nat) : State :=
  match s.rampOf u n with
  | some r => if code = 2 then s.putRamp { r with cls := min cls r.cls, next := none }
              else
                let s := s.dropRamp u n
                if code = 0 then (s.loseDom u n).setDom u n 0 else s.setDom u n 1
  | none => if code = 0 then (s.loseDom u n).setDom u n 0 else s.applyDom u n code cls

/-- Requests for several domains, in order. -/
def State.domForceAll (s : State) (u code cls : Nat) : List Nat → State
  | [] => s
  | n :: r => (s.domForce u n code cls).domForceAll u code cls r

/-- A spare's domains: crucibles OFF, peat layers in RETAIN. A dead tile's: all OFF (R463). (DEDUCED: log entry 87) -/
def State.spareDomains (s : State) (i : Nat) : State := (s.domForceAll i 0 2 [0, 1, 2, 3]).domForceAll i 1 2 [4, 5, 6, 7]
def State.offDomains (s : State) (i : Nat) : State := s.domForceAll i 0 2 [0, 1, 2, 3, 4, 5, 6, 7]
/-- The wake of a tile: layers 0 and 1, layers 2 and 3, then the crucibles (R463). -/
def State.wakeTile (s : State) (i cls : Nat) : State := s.domForceAll i 2 cls [4, 5, 6, 7, 0, 1, 2, 3]

/-! ### Ramps (R460, R461) -/

/-- The arbiter's order: class, time, unit, domain number; a request of recast keeps its order of waking. -/
def Ramp.before (a b : Ramp) : Bool :=
  let da := if a.unit < 80 && a.cls = 0 then (a.dom + 4) % 8 else a.dom
  let db := if b.unit < 80 && b.cls = 0 then (b.dom + 4) % 8 else b.dom
  decide (a.cls < b.cls) || (a.cls = b.cls && (decide (a.asked < b.asked) || (a.asked = b.asked &&
    (decide (a.unit < b.unit) || (a.unit = b.unit && decide (da < db))))))

/-- A unit with fewer than 2 domains ramping. -/
def State.unitFree (s : State) (u : Nat) : Bool := decide ((s.ramping.filter (fun r => r.unit = u)).length < 2)

/-- A waiting request may start its ramp: both limits hold and no request that could start comes before it (R461). -/
def State.grantable (s : State) (r : Ramp) : Bool :=
  decide (r.phase = .asked) && s.unitFree r.unit && decide (s.ramping.length < 40) &&
  s.ramps.all (fun q => !(decide (q.phase = .asked) && s.unitFree q.unit && q.before r))

/-- The grant: stage 1 closes and the ramp is counted. -/
def State.grant (s : State) (r : Ramp) : State :=
  let s := (s.putRamp { r with phase := .stage 1, granted := s.up }).setDom r.unit r.dom 3
  if r.unit < 80 then s.bump (pwrPage r.unit) 2 1 else s

/-- A request that waited for the end of a ramp, applied then; a refusal raises DOM_REFUSED on a tile (R462).
(DEDUCED: log entry 86) -/
def State.applyWaiting (s : State) (u n : Nat) (next : Option Nat) : State :=
  match next with
  | none => s
  | some code =>
    let (ok, t) := s.domRequest u n code 2
    if ok || decide (80 ≤ u) then t else t.raise (pwrPage u) 1

/-- A stack whose supply is there trains its interface until MIRE_BRINGUP (R338, R359). -/
def State.trainStack (s : State) (j : Nat) : State :=
  if s.rf (mirePage j) Reg.MIRE_STAT 1 0 = 0 then s.setRf (mirePage j) Reg.MIRE_STAT 1 0 1 else s

/-- The stacks begin to train: main power is their supply's too. (DEDUCED: log entry 101) -/
def State.trainAll (s : State) : State := (List.range 32).foldl State.trainStack s

/-- The end of a ramp: the domain is ON, and an array that comes from OFF is zeroed first (R174, R181). A request that waited
is applied. -/
def State.rampOn (s : State) (r : Ramp) : State :=
  let u := r.unit
  let n := r.dom
  let s :=
    if r.fromOff && decide (u < 80) then
      let s := s.putRamp { r with phase := .zeroing, next := none }
      if n < 4 then (s.loseCrucible u n).setRb (poolPage u) Reg.POOL_STAT n true else s.loseLayer u (n - 4)
    else
      let s := (s.dropRamp u n).setDom u n 2
      if decide (80 ≤ u) && decide (5 ≤ n) && decide (n ≤ 8) then s.trainStack (4 * (u - 80) + (n - 5)) else s
  s.applyWaiting u n r.next

/-- The end of zeroing: the domain reads ON. -/
def State.zeroed (s : State) (u n : Nat) : State :=
  match s.rampOf u n with
  | some r =>
    if r.phase = .zeroing then
      let s := (s.dropRamp u n).setDom u n 2
      if n < 4 then s.setRb (poolPage u) Reg.POOL_STAT n false else s
    else s
  | none => s

/-- A ramp that fails at 20 µs (R460). -/
def State.rampFail (s : State) (r : Ramp) : State :=
  let u := r.unit
  let n := r.dom
  let s := ((s.dropRamp u n).loseDom u n).setDom u n 0
  let s :=
    if u < 80 then
      let pg := pwrPage u
      let s := s.setReg pg Reg.PWR_FAIL (word [(0, n), (32, s.ts)])
      ((s.bump pg 3 1).raise pg 0).report u 6 7 0
    else s.raise tidePage 5
  s.applyWaiting u n r.next

/-! ### Main power (R508, R549, R551, R598, R609) -/

/-- Register pages whose contents survive the loss of main power: the device-global pages of the stewards, but for those that
describe the lost casting and its streams, and the STEW, SEC and TRAY pages but for the stacks' temperatures.
(DEDUCED: log entry 96) -/
def keepsReg (key : Nat) : Bool :=
  let page := key / 4096
  let off := key % 4096
  match pageInfo page with
  | none => false
  | some p =>
    if p.cls = 0x27 then !(decide (Reg.STACK_T 0 ≤ off) && decide (off ≤ Reg.STACK_T 3))
    else if p.cls < 0x10 then p.cls ≠ 0x07 && p.cls ≠ 0x08
    else p.cls = 0x20 || p.cls = 0x26

/-- The loss of main power: everything that it feeds is lost; VAUX keeps the stewards, the security block, the die sensors, the
TRAY page and the event log. (DEDUCED: log entry 96) -/
def State.dropMain (s : State) : State :=
  let t : State :=
    { pending := s.pending, now := s.now, up := s.up, sub := s.sub, fresh := s.fresh,
      regs := Store.keep keepsReg s.regs, guards := Store.keep (fun p => keepsReg (p * 4096)) s.guards,
      shadows := Store.keep (fun k => keepsReg (k % 65536 * 4096)) s.shadows,
      mbxs := Store.keep (fun k => keepsReg (k % 65536 * 4096)) s.mbxs,
      tapSets := Store.keep (fun p => keepsReg (p * 4096)) s.tapSets, tap := s.tap, sealRun := s.sealRun, timeSet := s.timeSet,
      host := s.host, refs := s.refs, ptp := s.ptp, tide := { s.tide with g := .nat 0, soak := .nat 0, sent := [], soakOf := [] },
      sens := Store.keep (fun k => decide (2048 ≤ k) && decide (k < 4096)) s.sens, tray := s.tray, flash := s.flash,
      minvSeen := [], evRing := s.evRing, sec := s.sec, spdm := Store.keep (fun k => k = 3) s.spdm, eid := s.eid, evWay := s.evWay, evRate := s.evRate, out := s.out, lastRead := s.lastRead,
      boot := { s.boot with main := false, restarted := false } }
  let t := (List.range 8).foldl (fun t d => t.setReg tidePage (Reg.SLUICE_DOM d) 0) t
  let t := t.setReg (stewPage 0) Reg.REF_STAT 0
  if t.boot.fwOk then t.setRf (stewPage 0) Reg.BOOT_STAT 3 0 2 else t

/-- The mesh reference in the order of R480: the preferred source where it is usable, else port A, port B, internal. -/
def State.refUsable (s : State) (k : Nat) : Bool := k = 3 || Store.get false s.refs k
def State.refPick (s : State) : Nat :=
  let pref := s.rf (stewPage 0) Reg.REF_CTL 1 0
  if pref ≠ 0 && s.refUsable pref then pref
  else if s.refUsable 1 then 1 else if s.refUsable 2 then 2 else 3
/-- The reference selected anew; REF_CHANGE when the preferred source is not usable, or the selection changes in holdover.
(DEDUCED: log entry 93) -/
def State.selectRef (s : State) : State :=
  let pref := s.rf (stewPage 0) Reg.REF_CTL 1 0
  let s := s.setRf (stewPage 0) Reg.REF_STAT 1 0 s.refPick
  if pref ≠ 0 && !s.refUsable pref then s.raise (stewPage 0) 8 else s

/-- Every sensor is trusted at power-on and after each restart (R501). -/
def State.trustAll (s : State) : State :=
  { (List.range 64).foldl (fun t k =>
      let r := Machine.sensReg (2048 + k)
      t.setRb r.1 r.2 14 false) s with sens := [] }

/-- The sluice domains ramp in class 2 (R549). -/
def State.askSluice (s : State) : State :=
  (List.range 8).foldl (fun t d => ((List.range 10).filter (domExists (80 + d))).foldl (fun t n => t.domForce (80 + d) n 2 2) t) s

/-- Main power comes on: the third step of R549. A THERMAL record that waited is written (R508). -/
def State.powerUp (s : State) (restart : Bool) : State :=
  let s := { s with boot := { s.boot with main := true, afterShut := false, restartReq := false, restarted := restart } }
  let s := if restart then (List.range 3).foldl (fun t k => t.setRb tidePage (Reg.SRC k) 48 false) s else s
  let s := s.trustAll.selectRef.askSluice.trainAll
  let s := s.setRf (stewPage 0) Reg.BOOT_STAT 3 0 3
  if s.boot.shutLog then
    { s.log (trayPage 0) 4 3 (s.view .mgmt (trayPage 0) Reg.SHUT_LAST) 0 with boot := { s.boot with shutLog := false } }
  else s

/-- PWRGD_MAIN (R609) and SMB_ALERT# (R608). -/
def State.mainGood (s : State) : Bool := s.boot.main && s.domCode 80 9 = 2 && s.domCode 84 9 = 2
/-- DESIGN CHOICE: log entry 112. -/
def State.smbAlert (s : State) : Bool :=
  s.boot.vaux && (s.rb (trayPage 0) Reg.SHUT_CTL 1 || s.rf (stewPage 0) Reg.STEW_STAT 1 0 = 3 ||
    s.rb (trayPage 0) Reg.TRAY_STAT 5)

end Sys2Proof.Machine
end

