-- ==== Sys2Proof/Machine/Power.lean ====
section
/-! DEFINITION. Commands of power delivery and the tide (chapter 14). -/
namespace Sys2Proof.Machine

/-! ### Undervoltage (R458) -/

/-- Input below 41.0 V for 100 µs. -/
def execUvWarn (s : State) : Out State := .next (s.raise tidePage 4)

/-- Input below 38.0 V for 50 µs, with the lowest voltage in mV. -/
def execUndervoltShutdown (mv : BitVec 16) (s : State) : Out State :=
  if s.boot.main && decide (mv.toNat < 38000) then
    .next ((s.dropMain.log tidePage 5 3 (BitVec.ofNat 64 mv.toNat) 0).setRf tidePage Reg.TIDE_IN 15 0 mv.toNat)
  else .next s

/-! ### Domain requests (R462, R476, R478) -/

/-- The requests of one admitted write, domain by domain. A refused one keeps its field and raises DOM_REFUSED on a tile. -/
def State.domWrite (s : State) (u page off : Nat) (val old : W64) : List Nat → State
  | [] => s
  | n :: r =>
    let (ok, t) := s.domRequest u n (fld val (2 * n + 1) (2 * n)) 2
    let t := if ok then t
             else
               let t := t.setRf page off (2 * n + 1) (2 * n) (fld old (2 * n + 1) (2 * n))
               if u < 80 then t.raise page 1 else t
    t.domWrite u page off val old r

def pwrDomHook (w : WEff) (tile : Nat) : State :=
  if fld w.mask 15 0 = 0 then w.st else w.st.domWrite tile (pwrPage tile) Reg.PWR_DOM_REQ w.val w.old (List.range 8)
def sluiceDomHook (w : WEff) (d : Nat) : State :=
  if fld w.mask 19 0 = 0 then w.st
  else w.st.domWrite (80 + d) tidePage (Reg.SLUICE_DOM_REQ d) w.val w.old (List.range 10)

def execPwrDomReq (who : Requester) (tile : TileIx) (v : W64) (s : State) : Out State :=
  .next (pwrDomHook (s.writeCore who (pwrPage tile) Reg.PWR_DOM_REQ .b64 v) tile)
def execSluiceDomReq (who : Requester) (die : DieIx) (v : W64) (s : State) : Out State :=
  .next (sluiceDomHook (s.writeCore who tidePage (Reg.SLUICE_DOM_REQ die) .b64 v) die)

/-! ### Ramps (R460, R461) -/

/-- A domain's ramp, when it stands at a given phase. -/
def State.rampAt (s : State) (d : DomRef) (p : RampPhase → Bool) : Option Ramp :=
  match s.rampOf (domOf d).1 (domOf d).2 with
  | some r => if p r.phase then some r else none
  | none => none

def execRampGrant (dom : DomRef) (s : State) : Out State :=
  match s.rampAt dom (fun p => p = .asked) with
  | some r => .next (if s.grantable r then s.grant r else s)
  | none => .next s

/-- When the stage after stage k closes, and for k = 4 when the rail is first sampled: ns after the grant (R460). -/
def stageEnd (k : Nat) : Nat := if k = 1 then 1000 else if k = 2 then 5000 else if k = 3 then 9000 else 10000

/-- Stages 2, 3 and 4 close in turn, each from its time on. (DEDUCED: log entry 88) -/
def execRampStage (dom : DomRef) (s : State) : Out State :=
  match s.rampAt dom (fun _ => true) with
  | some r => match r.phase with
    | .stage k => .next (if k < 4 && decide (r.granted + stageEnd k ≤ s.up) then s.putRamp { r with phase := .stage (k + 1) } else s)
    | _ => .next s
  | none => .next s

/-- A sample of the rail, from 10 µs after the grant: `ok` when it lies within 3 % of the setpoint. -/
def execDomRampSample (dom : DomRef) (ok : Bool) (s : State) : Out State :=
  match s.rampAt dom (fun p => p = .stage 4) with
  | some r => .next (if ok && decide (r.granted + stageEnd 4 ≤ s.up) then s.rampOn r else s)
  | none => .next s

/-- Still outside 3 % at 20 µs. (DEDUCED: log entry 88) -/
def execDomFail (dom : DomRef) (s : State) : Out State :=
  match s.rampAt dom (fun p => p = .stage 4) with
  | some r => .next (if r.granted + 20000 ≤ s.up then s.rampFail r else s)
  | none => .next s

/-! ### Minimum-voltage capture (R464) -/

/-- The register of a rail, and its key among the sampled rails. -/
def railReg : RailRef → Nat × Nat × Nat
  | .tile i r => (pwrPage i, Reg.MINV r, i.val * 3 + r.val)
  | .vmif d => (tidePage, Reg.VMIF_MIN d, 240 + d.val)

def State.rearm (s : State) (page off key : Nat) : State :=
  { s.setRf page off 11 0 4095 with minvSeen := Store.set false s.minvSeen key false }

def minvHook (w : WEff) (tile : Nat) : State :=
  (List.range 3).foldl (fun t r => if w.fires r then t.rearm (pwrPage tile) (Reg.MINV r) (tile * 3 + r) else t)
    (w.st.zeroBits (pwrPage tile) Reg.MINV_CTL 7)
def vmifHook (w : WEff) : State :=
  (List.range 8).foldl (fun t d => if w.fires d then t.rearm tidePage (Reg.VMIF_MIN d) (240 + d) else t)
    (w.st.zeroBits tidePage Reg.VMIF_REARM 0xff)

def execMinvRearm (who : Requester) (tile : TileIx) (v : W64) (s : State) : Out State :=
  .next (minvHook (s.writeCore who (pwrPage tile) Reg.MINV_CTL .b64 v) tile)
def execVmifRearm (who : Requester) (die : DieIx) (v : W64) (s : State) : Out State :=
  .next (vmifHook (s.writeCore who tidePage Reg.VMIF_REARM .b64 (setBit v die true)))

def execMinvSample (rail : RailRef) (mv : BitVec 16) (s : State) : Out State :=
  let (page, off, key) := railReg rail
  let v := min mv.toNat 4095
  let seen := Store.get false s.minvSeen key
  let t := if !seen || decide (v < s.rf page off 11 0) then
      { s.setReg page off (word [(0, v), (32, s.ts)]) with minvSeen := Store.set false s.minvSeen key true }
    else s
  match rail with
  | .tile i _ =>
    let th := s.rf (pwrPage i) Reg.MINV_CTL 27 16
    .next (if th ≠ 0 && decide (v < th) then (t.bump (pwrPage i) 5 1).raise (pwrPage i) 2 else t)
  | .vmif _ => .next t

/-! ### Current limits (R465, R466, R27) -/

/-- EFF, the lowest of the three limits. -/
def State.setEff (s : State) (tile : Nat) : State :=
  let l (hi lo : Nat) : Nat := s.rf (pwrPage tile) Reg.PWR_ILIM hi lo
  s.setRf (pwrPage tile) Reg.PWR_ILIM 9 0 (min (l 25 16) (min (l 41 32) (l 57 48)))
def State.setTideLim (s : State) (tile v : Nat) : State := (s.setRf (pwrPage tile) Reg.PWR_ILIM 25 16 v).setEff tile
def State.setQuenchLim (s : State) (tile v : Nat) : State := (s.setRf (pwrPage tile) Reg.PWR_ILIM 41 32 v).setEff tile
def State.setTrustLim (s : State) (tile v : Nat) : State := (s.setRf (pwrPage tile) Reg.PWR_ILIM 57 48 v).setEff tile
def State.eff (s : State) (tile : Nat) : Nat := s.rf (pwrPage tile) Reg.PWR_ILIM 9 0

/-- The highest frequency a tile's plan allows, in MHz, and the clock it returns to when no limit binds. -/
def State.fmax (s : State) (tile : Nat) : Nat := s.rf (agePage tile) Reg.AGE_STAT 11 0
def State.planned (s : State) (tile : Nat) : Nat := if s.fmax tile = 0 then 1500 else min 1500 (s.fmax tile)
/-- The planned voltage for a frequency in kHz: the lowest valid point at or above it (R565). -/
def State.voltsFor (s : State) (tile khz : Nat) : Nat :=
  match (List.range 15).find? (fun n => s.rb (agePage tile) (Reg.AGE_VF n) 16 && decide (khz ≤ 400000 + 100000 * n)) with
  | some n => s.rf (agePage tile) (Reg.AGE_VF n) 9 0
  | none => 0
def State.khzOf (s : State) (tile k : Nat) : Nat := Store.get 0 s.khz (tile * 4 + k)
def State.target (s : State) (tile k : Nat) : Nat := s.rf (clkPage tile) (Reg.CRU_FREQ k) 11 0
def State.setTarget (s : State) (tile k mhz : Nat) : State := s.setRf (clkPage tile) (Reg.CRU_FREQ k) 11 0 mhz

/-- VLOG moved toward what the highest clock in force or aimed at needs, by at most 5 mV per µs over the 10 µs of a step; down
only to what the clocks in force need (R457). (DEDUCED: log entry 89) -/
def State.moveVlog (s : State) (tile : Nat) : State :=
  let need := ((List.range 4).map (fun k => max (s.khzOf tile k) (1000 * s.target tile k))).foldl max 0
  let want := s.voltsFor tile need
  let cur := Store.get 0 s.vlog tile
  let v := if cur < want then min want (cur + 50) else max want (cur - 50)
  { s with vlog := Store.set 0 s.vlog tile v }

/-- One step of a tile's governor on the VLOG current averaged over 10 µs, in permille of IMAX (R466). (DEDUCED: log entry 89) -/
def execGovernorStep (tile : TileIx) (avg : Nat) (s : State) : Out State :=
  let i := tile.val
  let s := s.setRf (pwrPage i) Reg.PWR_MEAS 24 16 (min 511 (avg * 420 / 1000))
  let each (f : Nat → Nat) (s : State) : State := (List.range 4).foldl (fun t k => t.setTarget i k (f (t.target i k))) s
  let s :=
    if s.eff i < avg then (each (fun t => max 400 (t * 99 / 100)) s).bump (pwrPage i) 1 10000
    else if avg * 100 < 97 * s.eff i then each (fun t => if t < s.planned i then min (s.planned i) (max 400 (t + t / 100)) else min t (s.planned i)) s
    else s
  .next (s.moveVlog i)

/-- The converter limits a cycle at 110 % of EFF. -/
def execOcpLimit (tile : TileIx) (s : State) : Out State := .next ((s.bump (pwrPage tile) 6 1).raise (pwrPage tile) 3)

/-! ### Tide slots (R469 to R471) -/

/-- A write of a slot by its own requester takes effect; any other is refused and leaves every field. -/
def tideSrcHook (w : WEff) (who : Requester) (before : State) (k : Nat) : State :=
  let s := w.st
  if whoCode who ≠ k + 1 then (s.setReg tidePage (Reg.SRC k) (before.reg tidePage (Reg.SRC k))).raise tidePage 0
  else
    let valid := s.rb tidePage (Reg.SRC k) 48
    let x := s.tideSlot k
    let x := if valid && !fbit w.old 48 then { x with c := .nat 1000, f := .nat 0 } else x
    let slots := Store.set {} s.tide.slots k { x with since := s.up }
    let s := { s with tide := { s.tide with slots := slots } }
    (s.setRb tidePage (Reg.SRC_STAT k) 18 false).bump tidePage 2 1

def execTideSrcWrite (who : Requester) (k : Fin 4) (v : W64) (s : State) : Out State :=
  if k.val < 3 && s.pageLive tidePage then .next (tideSrcHook (s.writeCore who tidePage (Reg.SRC k) .b64 v) who s k)
  else .next s

/-- A lease that has run out. -/
def execTideLeaseLapse (k : Fin 4) (s : State) : Out State :=
  if s.leased k && decide (s.leaseEnd k ≤ s.up) then
    .next (((s.setRb tidePage (Reg.SRC_STAT k) 18 true).bump tidePage 3 1).raise tidePage 1)
  else .next s

/-- One move of a value toward its target: up by 100 / max(RAMP_MS, 5), down by 100 / RAMP_MS or at once. (DEDUCED: log entry 91) -/
def rampMove (cur : Frac) (target ms : Nat) : Frac :=
  let t := Frac.nat target
  if cur.lt t then (cur.add (.mk' 100 (max ms 5))).min t
  else if ms = 0 then t else (cur.sub (.mk' 100 ms)).max t

def State.rampSlot (s : State) (k : Nat) : State :=
  let x := s.tideSlot k
  let ms := s.rf tidePage (Reg.SRC k) 31 18
  let y := { x with c := rampMove x.c (s.tideCeil k) ms, f := rampMove x.f (s.tideFloor k) ms }
  { s with tide := { s.tide with slots := Store.set {} s.tide.slots k y } }

/-- Every 100 µs each valid slot moves. When C has fallen, and when C or F has moved, is kept for R473. -/
def execTideRampTick (s : State) : Out State :=
  let t := s.tideSlots.foldl State.rampSlot s
  let t := if t.tideC.lt s.tideC then { t with tide := { t.tide with fellAt := t.up } } else t
  .next (if t.tideC ≠ s.tideC || t.tideF ≠ s.tideF then { t with tide := { t.tide with movedAt := t.up } } else t)

/-! ### The loop (R472, R475) -/

/-- A tile of the loop: its weight, its demand in mW, its share in mW, its VLOG voltage in mV. -/
structure TileShare where
  tile   : Nat
  wt     : Nat
  demand : Nat
  mv     : Nat
  share  : Frac
  deriving DecidableEq, Repr

/-- A tile's cap of 1.05 times its demand. -/
def TileShare.cap (x : TileShare) : Frac := .mk' (x.demand * 105) 100
def weightSum (l : List TileShare) : Nat := (l.map (·.wt)).sum

/-- Shares above the cap moved to tiles below demand, by weight, until none moves. Each round caps a tile for good, so the
number of tiles bounds the rounds. (DEDUCED: log entry 91) -/
def levelShares : Nat → List TileShare → List TileShare
  | 0, l => l
  | n + 1, l =>
    let clip := l.filter (fun x => x.cap.lt x.share)
    let below := l.filter (fun x => x.share.lt (.nat x.demand))
    if clip.isEmpty || below.isEmpty then l
    else
      let extra := Frac.sum (clip.map (fun x => x.share.sub x.cap))
      let wsum := weightSum below
      levelShares n (l.map (fun x =>
        if x.cap.lt x.share then { x with share := x.cap }
        else if x.share.lt (.nat x.demand) then { x with share := x.share.add (extra.mul (.mk' x.wt wsum)) }
        else x))

/-- Whether any trusted sensor of a tile stands at a temperature (in 0.125 °C) or above. -/
def State.anyHot (s : State) (tile : Nat) (t : Int) : Bool :=
  (tileSensors tile).any (fun k => s.trusted k && decide (t ≤ s.sensTemp k))

/-- The limit that the loop sends a tile, in permille of IMAX (420 A), from its share in mW. (DESIGN CHOICE: log entry 90) -/
def State.loopLim (s : State) (x : TileShare) : Nat :=
  let old := s.rf (pwrPage x.tile) Reg.PWR_ILIM 25 16
  let raw := if x.mv = 0 then Config.tideNoVolts x.tile else (x.share.divPos (.nat x.mv)).mul (.mk' 1000 420) |>.floorNat
  let lim := if old < raw && s.anyHot x.tile 760 then old else raw
  min lim 1000

/-- Soak given to the active tiles in ascending order of their hottest trusted logic sensor, each up to its EFF: (tile, mW).
(DEDUCED: log entry 91) -/
def shareSoak : Frac → List (Nat × Frac) → List (Nat × Frac)
  | _, [] => []
  | left, (i, room) :: r =>
    let x := (left.min room).max (.nat 0)
    (i, x) :: shareSoak (left.sub x) r

/-- The hottest trusted logic sensor of a tile. -/
def State.logicHot (s : State) (tile : Nat) : Int :=
  ((tileSensors tile).take 6).foldl (fun m k => if s.trusted k then max m (s.sensTemp k) else m) (-2048)

/-- Insertion by hottest logic sensor, lower tile first among equals. -/
def insertCool (s : State) (x : TileShare) : List TileShare → List TileShare
  | [] => [x]
  | y :: r => if s.logicHot x.tile < s.logicHot y.tile then x :: y :: r else y :: insertCool s x r
def coolOrder (s : State) (l : List TileShare) : List TileShare := l.foldl (fun a x => insertCool s x a) []

/-- Whole mJ moved from an exact amount into a counter: the count and what is left. (DESIGN CHOICE: log entry 111) -/
def countMj (acc : Frac) : Nat × Frac := (acc.floorNat, acc.sub (.nat acc.floorNat))

/-- Each tile's soak energy of 100 µs counted in its SOAK_MJ (R475, R477). -/
def State.countSoak (s : State) : List (Nat × Frac) → State
  | [] => s
  | (i, mw) :: r =>
    let (n, left) := countMj ((Store.get (.nat 0) s.tide.mjTile i).add (mw.mul (.mk' 1 10000)))
    let s := { s with tide := { s.tide with mjTile := Store.set (.nat 0) s.tide.mjTile i left } }
    (s.bump (pwrPage i) 4 n).countSoak r

/-- The active tiles among the measured ones. -/
def State.loopTiles (s : State) (m : TideMeas) : List TileShare :=
  (m.tiles.filter (fun x => s.tstate x.1 = 1)).map (fun x =>
    ⟨x.1, max 1 (s.rf (pwrPage x.1) Reg.PWR_WT 7 0), x.2.1, x.2.2, .nat 0⟩)

/-- One step of the tide loop, which acts from READY (R552). Power in W, tile power in mW. (DESIGN CHOICE: log entry 90) -/
def State.loopStep (s : State) (m : TideMeas) : State :=
  let c := s.tideC.mul (.nat 36)
  let f := s.tideF.mul (.nat 36)
  let p := Frac.nat m.inputW
  let rating := Frac.nat 36000
  let g0 := if c.lt s.tide.cPrev then s.tide.g.sub (s.tide.cPrev.sub c) else s.tide.g
  let g := (g0.add ((c.sub p).mul (.mk' 1 4))).clamp (.nat 0) rating
  let tiles := s.loopTiles m
  let mw := (tiles.map (·.demand)).sum
  let b := if m.inputW = 0 then Frac.nat (Config.tideNoInput mw) else g.mul (.mk' mw m.inputW)
  let wsum := weightSum tiles
  let tiles := levelShares (tiles.length + 1) (tiles.map (fun x => { x with share := b.mul (.mk' x.wt (max 1 wsum)) }))
  let lims := tiles.map (fun x => (x.tile, s.loopLim x))
  let binds := tiles.any (fun x => x.share.lt (.nat x.demand))
  let sent := lims.foldl (fun st x => Store.set none st x.1 (some x.2)) s.tide.sent
  let soak := if p.lt c then
      (if f.lt p || (p.lt f && !binds) then (s.tide.soak.add ((f.sub p).mul (.mk' 1 4))).clamp (.nat 0) rating
       else s.tide.soak)
    else .nat 0
  let cool := coolOrder s (tiles.filter (fun x => !s.anyHot x.tile 760))
  let room (x : TileShare) : Frac := ((Frac.nat (s.eff x.tile * 420 * x.mv)).mul (.mk' 1 1000)).sub (.nat x.demand)
  let given := shareSoak (soak.mul (.nat 1000)) (cool.map (fun x => (x.tile, room x)))
  let short := (Frac.sum (given.map (·.2))).lt (soak.mul (.nat 1000))
  let (nIn, leftIn) := countMj (s.tide.mjIn.add (p.mul (.mk' 1 10)))
  let (nSoak, leftSoak) := countMj (s.tide.mjSoak.add (soak.mul (.mk' 1 10)))
  let s := m.tiles.foldl (fun t x => t.setRf (pwrPage x.1) Reg.PWR_MEAS 11 0 (min 4095 x.2.2)) s
  let s := { s with tide := { s.tide with
    g := g, soak := soak, cPrev := c, sent := sent, mjIn := leftIn, mjSoak := leftSoak,
    soakOf := given.foldl (fun (st : Store Frac) (x : Nat × Frac) => Store.set (.nat 0) st x.1 x.2) [] } }
  let s := ((s.bump tidePage 0 nIn).bump tidePage 1 nSoak).countSoak given
  let s := s.setRb tidePage Reg.TIDE_STAT 2 binds
  if short then (s.setRb tidePage Reg.TIDE_STAT 1 true).raise tidePage 3 else s

/-- DESIGN CHOICE: log entry 4. -/
def execTideLoopStep (m : TideMeas) (s : State) : Out State :=
  .next (if s.boot.main && s.phase = 11 then s.loopStep m else s)

/-- A tile receives the limit that the loop sent it. -/
def execTideLimUpdate (tile : TileIx) (lim : BitVec 16) (s : State) : Out State :=
  if Store.get none s.tide.sent tile = some lim.toNat then
    .next ({ s with tide := { s.tide with sent := Store.set none s.tide.sent tile none } }.setTideLim tile lim.toNat)
  else .next s

/-- The 1 ms input average, judged against C and F (R473). -/
def execTideCompliance (p : Nat) (s : State) : Out State :=
  let c := s.tideC.mul (.nat 36)
  let f := s.tideF.mul (.nat 36)
  let pw := Frac.nat p
  let above := (c.mul (.mk' 101 100)).lt pw
  let below := pw.lt (f.mul (.mk' 99 100))
  let hot := above && decide (s.tide.fellAt + 2000000 ≤ s.up)
  let short := below && decide (s.tide.movedAt + 10000000 ≤ s.up)
  let capped := s.rb tidePage Reg.TIDE_STAT 2
  let under := capped && pw.lt (c.mul (.mk' 99 100)) && decide (s.tide.movedAt + 10000000 ≤ s.up)
  let s := s.setRf tidePage Reg.TIDE_IN 47 32 (min 65535 p)
  let s := (s.setRb tidePage Reg.TIDE_STAT 0 (!hot && !short && !under && decide (p ≤ 36000))).setRb tidePage Reg.TIDE_STAT 1 short
  let s := if hot then (s.bump tidePage 4 1).raise tidePage 2 else s
  .next (if short then (s.bump tidePage 5 1).raise tidePage 3 else s)

end Sys2Proof.Machine
end

