-- ==== Sys2Proof/Machine/Clock.lean ====
section
/-! DEFINITION. Commands of clocks and device time (chapter 15). -/
namespace Sys2Proof.Machine

/-! ### References (R480, R482) -/

/-- The selected reference is lost: holdover, and the next usable source. -/
def execRefLost (s : State) : Out State :=
  let cur := s.rf (stewPage 0) Reg.REF_STAT 1 0
  if cur = 0 then .next s
  else
    let s := { s with refs := Store.set false s.refs cur false }
    .next ((s.setRb (stewPage 0) Reg.REF_STAT 2 true).selectRef)

/-- A source becomes present and usable. With main power on the selection is made anew and the generators leave holdover.
(DEDUCED: log entry 93) -/
def execReferenceUsable (src : BitVec 2) (s : State) : Out State :=
  let s := if src = 0 then s else { s with refs := Store.set false s.refs src.toNat true }
  .next (if s.boot.main && src ≠ 0 then (s.setRb (stewPage 0) Reg.REF_STAT 2 false).selectRef else s)

/-! ### Clock parents (R483, R485) -/

/-- Live lanes of a tile's port (R315). -/
def State.lanes (s : State) (tile port : Nat) : Nat := s.rf (cetisPage tile) Reg.LANES (8 * port + 7) (8 * port)

/-- A port that R483 permits as clock parent: the sluice link of a ring-0 tile, or a live link from a live neighbour one ring
further out. -/
def State.mayParent (s : State) (tile port : Nat) : Bool :=
  s.lanes tile port ≠ 0 &&
  (if port = 4 then ringOf tile = 0
   else match neighbour tile port with
     | some n => decide (ringOf tile = ringOf n + 1) && s.live n
     | none => false)

def State.parent (s : State) (tile : Nat) : Nat := s.rf (clkPage tile) Reg.CLK_PARENT 2 0
def State.permitted (s : State) (tile : Nat) : List Nat := (List.range 5).filter (fun p => s.mayParent tile p)

/-- The parent that a tile in holdover takes: the first permitted port in the order of R483 that is not the lost one, or the lost one
where no other is permitted. (DEDUCED: log entry 93) -/
def State.nextParent (s : State) (tile : Nat) : Option Nat :=
  let l := s.permitted tile
  let lost := Store.get 7 s.lostPort tile
  match l.find? (· ≠ lost) with
  | some p => some p
  | none => l.head?

/-- A tile loses its parent. Without another permitted parent it reports to its FAULT page, and its time is unaligned. -/
def execParentLost (tile : TileIx) (s : State) : Out State :=
  let i := tile.val
  let lost := s.parent i
  if lost = 7 then .next s
  else
    let others := (s.permitted i).filter (· ≠ lost)
    let s := (s.setFields (clkPage i) Reg.CLK_PARENT [(2, 0, 7), (8, 8, 1)]).raise (clkPage i) 0
    let s := { s with lostPort := Store.set 7 s.lostPort i lost }
    .next (if others.isEmpty then (s.setRb (clkPage i) Reg.CLK_PARENT 9 false).report i 7 7 0 else s)

/-- A tile in holdover takes a permitted parent. -/
def execParentChange (tile : TileIx) (port : Fin 5) (s : State) : Out State :=
  let i := tile.val
  if s.rb (clkPage i) Reg.CLK_PARENT 8 && decide (s.nextParent i = some port.val) then
    .next ((s.setFields (clkPage i) Reg.CLK_PARENT [(2, 0, port.val), (8, 8, 0)]).bump (clkPage i) 4 1)
  else .next s

/-! ### Crucible oscillators (R487 to R490) -/

/-- DESIGN CHOICE: log entry 110. -/
def State.stretching (s : State) (i k : Nat) : Bool := s.rb (clkPage i) (Reg.CRU_FREQ k) 28
def State.setKhz (s : State) (i k v : Nat) : State := { s with khz := Store.set 0 s.khz (i * 4 + k) v }

/-- A switch is under way: the idle generator locks to the target (R489). -/
def State.switching (s : State) (i k : Nat) : Bool := s.rb (clkPage i) (Reg.CRU_FREQ k) 30

/-- One step of at most 1 % toward the target, at least 100 ns after the last one; a step up waits for the voltage it needs (R457, R489).
(DEDUCED: log entry 89) -/
def State.freqStep (s : State) (i k : Nat) : State :=
  let cur := s.khzOf i k
  let target := 1000 * s.target i k
  let new := if cur < target then min target (cur + cur / 100) else max target (cur - cur / 100)
  if new = cur then s
  else if cur < new && decide (Store.get 0 s.vlog i < s.voltsFor i new) then s
  else
    let s := { s.setKhz i k new with stepAt := Store.set 0 s.stepAt (i * 4 + k) s.up }
    s.bump (clkPage i) 1 1

/-- A step may fall due: none has been taken for 100 ns, and no switch is under way. -/
def State.stepDue (s : State) (i k : Nat) : Bool :=
  let last := Store.get 0 s.stepAt (i * 4 + k)
  (last = 0 || decide (last + 100 ≤ s.up)) && !s.switching i k

/-- A step that falls due during stretching is deferred to its end (R490). -/
def execFreqStep (tile : TileIx) (cru : CruIx) (s : State) : Out State :=
  if !s.stepDue tile cru then .next s
  else if s.stretching tile cru then .next { s with deferred := Store.set false s.deferred (tile.val * 4 + cru.val) true }
  else .next (s.freqStep tile cru)

/-- VLOG falls more than DROOP_MV below its setpoint. -/
def execDroopStretchStart (tile : TileIx) (cru : CruIx) (s : State) : Out State :=
  .next (s.setRb (clkPage tile) (Reg.CRU_FREQ cru) 28 true)

/-- VLOG recovers; a deferred step takes effect at this edge. -/
def execDroopStretchEnd (tile : TileIx) (cru : CruIx) (s : State) : Out State :=
  if s.stretching tile cru then
    let k := tile.val * 4 + cru.val
    let due := Store.get false s.deferred k
    let s := { s.setRb (clkPage tile) (Reg.CRU_FREQ cru) 28 false with deferred := Store.set false s.deferred k false }
    .next (if due then s.freqStep tile cru else s)
  else .next s

/-- The change to the target is one that a switch makes: up only while every task of the crucible is IDLE, down only with SW_DOWN
(R489). -/
def State.maySwitch (s : State) (i k : Nat) : Bool :=
  let cur := s.khzOf i k
  let target := 1000 * s.target i k
  if cur < target then
    (List.range 8).all (fun t => (s.task i k t).st = .idle) && decide (s.voltsFor i target ≤ Store.get 0 s.vlog i)
  else decide (target < cur) && s.rb (clkPage i) Reg.CLK_CTL 8

/-- A switch begins, never while stretching (R490); the next such command of the crucible is its end, at which the idle generator takes
over at the target then in force. A change that a new target or a task has made one for steps is left to them.
(DEDUCED: log entry 89) -/
def execGeneratorSwitch (tile : TileIx) (cru : CruIx) (s : State) : Out State :=
  let i := tile.val
  let k := cru.val
  if s.switching i k then
    let s := s.setRb (clkPage i) (Reg.CRU_FREQ k) 30 false
    if s.maySwitch i k then
      let s := (s.setKhz i k (1000 * s.target i k)).bump (clkPage i) 2 1
      .next (s.setRb (clkPage i) (Reg.CRU_FREQ k) 29 (!s.rb (clkPage i) (Reg.CRU_FREQ k) 29))
    else .next s
  else if s.maySwitch i k && !s.stretching i k then .next (s.setRb (clkPage i) (Reg.CRU_FREQ k) 30 true)
  else .next s

def State.agingOf (s : State) (key : Nat) : Aging := Store.get ⟨0, false⟩ s.aging key

/-- The path-delay monitor finds less margin than planned: the set frequency falls by one step, and an ageing sample falls due
(R487, R562). -/
def execMarginLow (tile : TileIx) (cru : CruIx) (s : State) : Out State :=
  let i := tile.val
  let t := s.target i cru
  let key := i * 4 + cru.val
  let s := { s with aging := Store.set ⟨0, false⟩ s.aging key { s.agingOf key with now := true } }
  .next ((s.setTarget i cru (max (min t 400) (t * 99 / 100))).raise (clkPage i) 2)

/-! ### Device time (R450, R452, R491 to R495) -/

def State.timeSource (s : State) : Nat := s.rf timePage Reg.TIME_STAT 1 0
def State.tapArmed (s : State) : Bool := s.rf tapPage Reg.TAP_STAT 1 0 = 1

/-- The distance to sluice die 0 of the time tree. -/
def timeDist (i : Nat) : Nat := ((linkedTiles 0).map (meshDist i)).foldl min 100

/-- A tile's time parent (R492): die 0 for its linked tiles, else the live neighbour nearest them, the lower tile in a tie. -/
def State.timePort (s : State) (i : Nat) : Option Nat :=
  if (linkedTiles 0).contains i then some 4
  else
    let c := (List.range 4).filterMap (fun p => (neighbour i p).bind (fun n =>
      if s.live n && (s.site n).result = 1 && s.lanes i p ≠ 0 then some (p, n) else none))
    (c.foldl (fun best x => match best with
      | none => some x
      | some b => if timeDist x.2 < timeDist b.2 || (timeDist x.2 = timeDist b.2 && x.2 < b.2) then some x else some b)
      none).map (·.1)

/-- The time tree aligned (R492): TIME_PORT and TIME_OK of every live tile. -/
def State.alignTime (s : State) : State :=
  (List.range 80).foldl (fun t i =>
    if t.live i && (t.site i).result = 1 then
      match t.timePort i with
      | some p => t.setFields (clkPage i) Reg.CLK_PARENT [(6, 4, p), (9, 9, 1)]
      | none => t.setFields (clkPage i) Reg.CLK_PARENT [(6, 4, 7), (9, 9, 0)]
    else t) s

/-- The epoch word on its way down the tree reaches a tile: the device time of the next boundary (R493). -/
def execEpochWord (tile : TileIx) (s : State) : Out State :=
  let b := BitVec.ofNat 64 ((s.now.toNat / 2 ^ 20 + 1) * 2 ^ 20)
  .next { s with ptp := { s.ptp with words := Store.set 0 s.ptp.words tile b } }

/-- Units whose count differs at the boundary: the error in 0.1 ns is kept, and one of more than 2 ns is reloaded (R493). -/
def State.alignErrs (s : State) : List (TileIx × W32) → State
  | [] => s
  | (i, e) :: r =>
    let v := e.toInt
    let s := s.setRf (clkPage i) Reg.TIME_ERR 15 0 (ofSigned 16 (max (-32768) (min 32767 v)))
    let s := if 20 < v.natAbs then (s.bump (clkPage i) 3 1).raise (clkPage i) 1 else s
    s.alignErrs r

/-- A step of device time: no recorded time-stamp and no running timeout moves (R452). (DESIGN CHOICE: log entry 92) -/
def State.stepTime (s : State) (d : Int) : State := { s with now := BitVec.ofInt 64 (s.now.toNat + d) }

/-- The epoch of device time: it changes where bits [19:0] wrap (R493). -/
def State.epochNow (s : State) : Nat := s.now.toNat / 2 ^ 20
def State.markEpoch (s : State) : State := { s with ptp := { s.ptp with epoch := s.epochNow } }

/-- What falls due at a boundary: the new increment, then a TIME_SET, or a step that no armed tap defers. A step that falls due with a
TIME_SET is recomputed against the new time and waits for the next boundary (R452, R493, R495). -/
def State.atBoundary (s : State) (errs : List (TileIx × W32)) : State :=
  let s := s.alignErrs errs
  let s := match s.ptp.rate with
    | some r => { s.setRf (stewPage 0) Reg.TIME_RATE 31 0 r.toNat with ptp := { s.ptp with rate := none } }
    | none => s
  match s.timeSet with
  | some v =>
    let moved : Int := v.toNat - s.now.toNat
    let step := s.ptp.step.map (fun d => d - moved)
    let s := (s.setRb timePage Reg.TIME_STAT 2 false).bump timePage 0 1
    { s with now := v, timeSet := none, ptp := { s.ptp with step := step } }
  | none => match s.ptp.step with
    | some d => if s.tapArmed then s else { s.stepTime d with ptp := { s.ptp with step := none } }
    | none => s

/-- An epoch boundary: device time has wrapped its bits [19:0] since the last one (R493). -/
def execEpochBoundary (errs : List (TileIx × W32)) (s : State) : Out State :=
  if s.epochNow = s.ptp.epoch then .next s else .next (s.atBoundary errs).markEpoch

/-- A PTP event message is time-stamped on its port (R498). On the steering port a selected grandmaster makes SOURCE 1, and a
closed measurement sets the rate, or the step of an offset beyond 1 µs, for the next boundary (R494, R495).
(DESIGN CHOICE: log entry 92) -/
def execPtpEventMessage (eth : EthIx) (m : PtpMsg) (s : State) : Out State :=
  let s := (s.setReg (ethPage eth) Reg.PTP_TS s.now).setReg (ethPage eth) Reg.PTP_TS_INFO
    (word [(0, m.type.toNat), (4, b2n m.sent)])
  let st := stewPage 0
  if s.rb st Reg.PTP_CTL 4 && s.rf st Reg.PTP_CTL 3 0 = eth.val then
    let s := if m.grandmaster then s.setRf timePage Reg.TIME_STAT 1 0 1 else s
    let s := match m.path with | some p => s.setReg st Reg.PTP_PATH (BitVec.ofNat 64 p.toNat) | none => s
    match m.offset with
    | some o =>
      let v := o.toInt
      let rate := max (-500000) (min 500000 (Config.steerRate v))
      .next { s.setReg st Reg.PTP_OFS o with
        ptp := { s.ptp with rate := some (BitVec.ofInt 32 rate), step := if 1000 < v.natAbs then some (-v) else none } }
    | none => .next s
  else .next s

/-- Announce messages missing for three intervals: holdover at the last rate. -/
def execPtpAnnounceTimeout (s : State) : Out State :=
  if s.timeSource = 1 then
    .next { s.setRf timePage Reg.TIME_STAT 1 0 2 with ptp := { s.ptp with rate := none, step := none } }
  else .next s

end Sys2Proof.Machine
end

