-- ==== Sys2Proof/Machine/Monitor.lean ====
section
/-! DEFINITION. Monitor channels and the event log (chapter 19). -/
namespace Sys2Proof.Machine

/-! ### Captures (R571 to R576) -/

def State.cap (s : State) (tile m : Nat) : MonCap := Store.get {} s.mon (tile * 4 + m)
def State.setCap (s : State) (tile m : Nat) (c : MonCap) : State := { s with mon := Store.set {} s.mon (tile * 4 + m) c }
def State.monKind (s : State) (tile m : Nat) : Nat := s.rf (monPage tile) (Reg.MON_SRC m) 3 0
def State.monArg (s : State) (tile m : Nat) : Nat := s.rf (monPage tile) (Reg.MON_SRC m) 16 4

/-- Edge E[k] of a channel, signed. -/
def State.monEdge (s : State) (tile m k : Nat) : Int :=
  let w := s.reg (monPage tile) (Reg.MON_EDGE m (k / 2))
  toSigned 32 (if k % 2 = 0 then fld w 31 0 else fld w 63 32)

/-- The bin of a sample: the number of edges at or below it. -/
def State.monBin (s : State) (tile m : Nat) (v : Int) : Nat :=
  ((List.range 15).filter (fun k => decide (s.monEdge tile m k ≤ v))).length

/-- A value as a sample, clamped to the signed 32-bit range. -/
def clamp32 (v : Int) : Int := max (-2147483648) (min 2147483647 v)
def minSum : Int := -9223372036854775808
def maxSum : Int := 9223372036854775807

/-- A capture with one more sample, and whether a bin or SUM saturated with it. -/
def addToCap (c : MonCap) (bin : Nat) (v : Int) (ts : W32) : MonCap × Bool :=
  let w := BitVec.ofInt 32 v
  let b := Store.get 0 c.bins bin
  let sum := c.sum + v
  let sat := sum < minSum || maxSum < sum
  let first := c.count = 0
  ({ count := c.count + 1,
     sum := max minSum (min maxSum sum),
     min := if first || v < c.min.toInt then w else c.min,
     minTs := if first || v < c.min.toInt then ts else c.minTs,
     max := if first || c.max.toInt < v then w else c.max,
     maxTs := if first || c.max.toInt < v then ts else c.maxTs,
     bins := if b = 0xFFFFFFFF then c.bins else Store.set 0 c.bins bin (b + 1) },
   sat || b = 0xFFFFFFFE)

/-- A sample taken by a channel (R572, R576). -/
def State.monSample (s : State) (tile m : Nat) (value : Int) : State :=
  let pg := monPage tile
  let v := clamp32 value
  let (c, sat) := addToCap (s.cap tile m) (s.monBin tile m v) v (BitVec.ofNat 32 s.ts)
  let s := (s.setCap tile m c).setReg pg (Reg.MON_LAST m) (word [(0, ofSigned 32 v), (32, s.ts)])
  let s := s.bump pg 0 1
  let s := if sat then s.raise pg 0 else s
  let src := s.reg pg (Reg.MON_SRC m)
  if fbit src 20 && decide (toSigned 32 (fld src 63 32) ≤ v) then
    ((s.bump pg 2 1).raise pg (1 + m)).log pg 0x0B 1 (setFld src 63 62 m) (s.reg pg (Reg.MON_LAST m))
  else s

/-- A sample of a source, taken by every channel of the tile that selects it. -/
def State.monFeed (s : State) (tile kind : Nat) (arg : Nat → Bool) (v : Int) : State :=
  (List.range 4).foldl (fun t m =>
    if t.monKind tile m = kind && arg (t.monArg tile m) then t.monSample tile m v else t) s

/-- A channel cleared (R573). -/
def State.monClear (s : State) (tile m : Nat) : State := (s.setCap tile m {}).bump (monPage tile) 1 1

/-- What a write of MON_CTL clears; CLR reads 0 again. -/
def monClrHook (w : WEff) (tile : Nat) : State :=
  (List.range 4).foldl (fun t m => if w.fires m then t.monClear tile m else t) (w.st.zeroBits (monPage tile) Reg.MON_CTL 0xf)

/-- A write that changes a channel's KIND, ARG or any edge clears it. -/
def monConfigHook (w : WEff) (tile : Nat) : State :=
  let new := w.st.reg (monPage tile) w.off
  let changed (hi lo : Nat) : Bool := fld new hi lo ≠ fld w.old hi lo
  if w.mask = 0 then w.st
  else if Reg.MON_SRC 0 ≤ w.off && w.off ≤ Reg.MON_SRC 3 && changed 16 0 then w.st.monClear tile ((w.off - Reg.MON_SRC 0) / 8)
  else if Reg.MON_EDGE 0 0 ≤ w.off && w.off ≤ Reg.MON_EDGE 3 7 && changed 63 0 then
    w.st.monClear tile ((w.off - Reg.MON_EDGE 0 0) / 0x40)
  else w.st

def execMonClr (who : Requester) (tile : TileIx) (v : W64) (s : State) : Out State :=
  .next (monClrHook (s.writeCore who (monPage tile) Reg.MON_CTL .b64 v) tile)
/-- A write of a channel's source or of one of its edges. -/
def execMonConfigWrite (who : Requester) (tile : TileIx) (off : BitVec 12) (v : W64) (s : State) : Out State :=
  let o := off.toNat
  if (Reg.MON_SRC 0 ≤ o && o ≤ Reg.MON_SRC 3) || (Reg.MON_EDGE 0 0 ≤ o && o ≤ Reg.MON_EDGE 3 7) then
    .next (monConfigHook (s.writeCore who (monPage tile) o .b64 v) tile)
  else .next s

/-- A sample of a periodic source: RAIL, LINK or POWER (R571). POWER samples are PWR_MEAS.TILE_W. -/
def execMonTickSample (tile : TileIx) (m : Fin 4) (value : Int) (s : State) : Out State :=
  let kind := s.monKind tile m
  if kind = 3 || kind = 5 then .next (s.monSample tile m value)
  else if kind = 6 then
    .next ((s.setRf (pwrPage tile) Reg.PWR_MEAS 47 32 (min 65535 value.toNat)).monSample tile m value)
  else .next s

/-! ### The event log (R580 to R585) -/

/-- The millisecond of device time. -/
def State.ms (s : State) : Nat := s.now.toNat / 1000000
def State.evlMasked (s : State) (cause : Nat) : Bool := decide (cause < 64) && s.rb evlogPage Reg.EVL_MASK cause

/-- A record written at EVL_WR (R580). -/
def State.evlPut (s : State) (r : LogRec) : State :=
  let n := s.rf evlogPage Reg.EVL_WR 31 0
  let s := { s with evRing := Store.set none s.evRing (n % 4096) (some r) }
  ((s.setRf evlogPage Reg.EVL_WR 31 0 (n + 1)).bump evlogPage 0 1).raise evlogPage 0

/-- What the rate limit holds of a page: the millisecond, its records, and those suppressed in it. -/
def State.evRateOf (s : State) (page : Nat) : Nat × Nat × Nat := Store.get (0, 0, 0) s.evRate page
def State.setEvRate (s : State) (page : Nat) (x : Nat × Nat × Nat) : State :=
  { s with evRate := Store.set (0, 0, 0) s.evRate page x }

/-- The LOST record of a millisecond that is over (R583). -/
def State.evlLost (s : State) (page : Nat) : State :=
  let (ms, _, lost) := s.evRateOf page
  if lost = 0 || s.ms ≤ ms then s
  else
    let s := s.setEvRate page (s.ms, 0, 0)
    if !s.rb evlogPage Reg.EVL_CTL 0 then s
    else if s.evlMasked 0x0C then s.bump evlogPage 2 1
    else s.evlPut ⟨s.now, 0x0C, 1, BitVec.ofNat 16 evlogPage, BitVec.ofNat 64 lost, BitVec.ofNat 64 page⟩

/-- A record that reaches die 0: masked, suppressed or appended. (DEDUCED: log entry 105) -/
def State.evlAppend (s : State) (r : LogRec) : State :=
  let page := r.page.toNat
  if !s.rb evlogPage Reg.EVL_CTL 0 then s
  else if s.evlMasked r.cause.toNat then s.bump evlogPage 2 1
  else
    let s := s.evlLost page
    let (ms, n, lost) := s.evRateOf page
    let n := if ms = s.ms then n else 0
    if max 1 (s.rf evlogPage Reg.EVL_CTL 15 8) ≤ n then
      ((s.setEvRate page (s.ms, n, lost + 1)).bump evlogPage 1 1).raise evlogPage 1
    else (s.setEvRate page (s.ms, n + 1, lost)).evlPut r

/-- A record on its way reaches die 0; the order of these commands is the order of arrival (R583). -/
def execEvlogAppend (r : LogRec) (s : State) : Out State :=
  .next (if s.evWay.contains r then { s with evWay := s.evWay.erase r }.evlAppend r else s)
/-- DEDUCED: log entry 105. -/
def execEvlogLost (page : BitVec 16) (s : State) : Out State := .next (s.evlLost page.toNat)

end Sys2Proof.Machine
end

