-- ==== Sys2Proof/Machine/Thermal.lean ====
section
/-! DEFINITION. Commands of temperature, quench, shutdown and coolant (chapter 16). Temperatures are in units of 0.125 °C. -/
namespace Sys2Proof.Machine

/-! ### Sensors (R499 to R503) -/

def State.sens1 (s : State) (k : Nat) : Sens := Store.get {} s.sens k
def State.setSens (s : State) (k : Nat) (x : Sens) : State := { s with sens := Store.set {} s.sens k x }
def State.setSensReg (s : State) (k : Nat) (v : W64) : State := s.setReg (Machine.sensReg k).1 (Machine.sensReg k).2 v
/-- The tile of a tile sensor; the TRAY page of a die or stack sensor. -/
def sensTile (k : Nat) : Nat := k / 16
def sensTray (k : Nat) : Nat := trayPage (if k < 4096 then (k - 2048) / 8 else (k - 4096) / 4)
/-- Whether a sensor reads: tile sensors with main power, die sensors with VAUX, stack sensors while their stack is powered. -/
def State.sensPowered (s : State) (k : Nat) : Bool :=
  if k < 2048 then s.boot.main
  else if k < 4096 then s.boot.vaux
  else s.boot.main && s.stackState (k - 4096) ≠ 0

/-- THERM_SUM from the trusted sensors of a tile. -/
def State.updSum (s : State) (i : Nat) : State :=
  let ks := (tileSensors i).filter s.trusted
  let hot := ks.foldl (fun b k => match b with
    | some j => if s.sensTemp j < s.sensTemp k then some k else b
    | none => some k) none
  let logic := (((tileSensors i).take 6).filter s.trusted).length
  let lvl := (ks.map s.sensLevel).foldl max 0
  s.setReg (thermPage i) Reg.THERM_SUM (word
    [(0, match hot with | some k => ofSigned 12 (s.sensTemp k) | none => 0),
     (12, match hot with | some k => k % 16 | none => 15), (16, logic), (19, ks.length), (23, lvl)])

/-- The trust rule of a tile (R503): TRUST_LIM, TRUST_CAP, NO_SENSOR and their reports. `had` is the number of trusted sensors
before. -/
def State.trustRule (s : State) (i had : Nat) : State :=
  let logic := (((tileSensors i).take 6).filter s.trusted).length
  let all := ((tileSensors i).filter s.trusted).length
  let lim := s.rf (pwrPage i) Reg.PWR_ILIM 57 48
  let s := if logic < 3 && lim ≠ 500 then ((s.setTrustLim i 500).raise (thermPage i) 3).report i 8 7 0
           else if 3 ≤ logic && lim = 500 then s.setTrustLim i 1000 else s
  if all = 0 && had ≠ 0 then (s.raise (thermPage i) 4).report i 8 7 0 else s

/-- A sensor becomes suspect. (DEDUCED: log entry 94) -/
def State.suspect (s : State) (k : Nat) : State :=
  if !s.trusted k then s
  else
    let had := ((tileSensors (sensTile k)).filter s.trusted).length
    let s := (s.setSensReg k (setBit (s.sensReg k) 14 true)).setSens k {}
    if k < 2048 then
      let i := sensTile k
      (((s.bump (thermPage i) 4 1).raise (thermPage i) 2).updSum i).trustRule i had
    else s.raise (sensTray k) 2

/-- A sensor trusted again (R502). -/
def State.retrust (s : State) (k : Nat) : State :=
  let s := s.setSens k {}
  if k < 2048 then (s.updSum (sensTile k)).trustRule (sensTile k) 1 else s

/-- The level a sample gives a sensor that stood at another (R504). -/
def levelOf (old : Nat) (v : Int) : Nat :=
  if 840 ≤ v || (old = 2 && 800 ≤ v) then 2
  else if 760 ≤ v || (1 ≤ old && 720 ≤ v) then 1 else 0

/-- A trusted sensor's sample against the levels: trips are counted and raised. -/
def State.levels (s : State) (k : Nat) (v : Int) : State :=
  let old := s.sensLevel k
  let new := levelOf old v
  let x := s.sens1 k
  let s := (s.setSensReg k (setFld (s.sensReg k) 13 12 new)).setSens k { x with hot := if 944 ≤ v then x.hot + 1 else 0 }
  let warn := old = 0 && new ≠ 0
  let thr := old ≠ 2 && new = 2
  if k < 2048 then
    let pg := thermPage (sensTile k)
    let s := if warn then (s.bump pg 0 1).raise pg 0 else s
    if thr then (s.bump pg 1 1).raise pg 1 else s
  else
    let s := if warn then s.raise (sensTray k) 0 else s
    if thr then s.raise (sensTray k) 1 else s

/-- One conversion of a sensor: a value, or none when it failed (R500). A PEAK that a read has cleared takes the next sample.
(DEDUCED: log entry 94) -/
def State.sample (s : State) (k : Nat) (value : Option Int) : State :=
  if !s.sensPowered k then s
  else match value with
    | none => (s.setSensReg k (setBit (s.sensReg k) 15 true)).suspect k
    | some v0 =>
      let v := max (-2048) (min 2047 v0)
      let peak := fld (s.sensReg k) 27 16
      let p := if peak = 0 then v else max v (toSigned 12 peak)
      let s := s.setSensReg k (setFld (setFld (setBit (s.sensReg k) 15 false) 11 0 (ofSigned 12 v)) 27 16 (ofSigned 12 p))
      let ok := s.trusted k
      let s := if ok then s.levels k v else s
      if k < 2048 then
        let s := s.updSum (sensTile k)
        if ok then s.monFeed (sensTile k) 4 (fun a => a % 16 = k % 16) v else s
      else s

/-- A sample of a tile or die sensor; a stack's sensor is read by STACK_TEMP_READ (R500). -/
def execSensorSample (r : SensorRef) (value : Option Int) (s : State) : Out State :=
  .next (if sensKey r < 4096 then s.sample (sensKey r) value else s)

/-! ### Trust (R501, R502) -/

def insertInt (x : Int) : List Int → List Int
  | [] => [x]
  | y :: r => if x ≤ y then x :: y :: r else y :: insertInt x r
def sortInts : List Int → List Int
  | [] => []
  | x :: r => insertInt x (sortInts r)
/-- The median, the lower of the middle two; none for fewer than three values. -/
def medianOf (l : List Int) : Option Int := if l.length < 3 then none else (sortInts l)[(l.length - 1) / 2]?

/-- Whether a tile's four crucible domains are all OFF. -/
def State.crucibleOff (s : State) (i : Nat) : Bool := (List.range 4).all (fun k => s.dom i k = 0)

/-- The reference set of a sensor (R501). -/
def State.refSet (s : State) (k : Nat) : List Nat :=
  let base :=
    if k < 2048 then
      let i := sensTile k
      let nb := ((List.range 4).filterMap (neighbour i)).filter (fun n => !s.crucibleOff n || s.crucibleOff i)
      tileSensors i ++ nb.flatMap tileSensors
    else if k < 4096 then
      let d := (k - 2048) / 8
      dieSensors d ++ dieSensors ((d + 1) % 8) ++ dieSensors ((d + 7) % 8)
    else
      let d := (k - 4096) / 4
      (List.range 4).map (4096 + d * 4 + ·) ++ dieSensors d
  base.filter (fun j => j ≠ k && s.trusted j && s.sensPowered j)

/-- One evaluation of a sensor against the samples of `at0`. -/
def State.evalSensor (s at0 : State) (k : Nat) : State :=
  if !at0.trusted k || !at0.sensPowered k then s
  else match medianOf ((at0.refSet k).map at0.sensTemp) with
    | none => s
    | some m =>
      let x := s.sens1 k
      if (at0.sensTemp k - m).natAbs ≤ 120 then s.setSens k { x with off := none }
      else match x.off with
        | none => s.setSens k { x with off := some s.up }
        | some t => if t + 100000000 < s.up then s.suspect k else s

/-- All sensors: tiles, dies and stacks. -/
def allSensors : List Nat :=
  (List.range 80).flatMap tileSensors ++ (List.range 8).flatMap dieSensors ++ (List.range 32).map (4096 + ·)

/-- The evaluation of every millisecond. -/
def execTrustEval (s : State) : Out State := .next (allSensors.foldl (fun t k => t.evalSensor s k) s)

/-- What a write of a sensor's register starts: a cleared SUSPECT bit trusts the sensor again. -/
def sensHook (w : WEff) (k : Nat) : State := if fbit w.old 14 && w.st.trusted k then w.st.retrust k else w.st

def execSensorRetrust (who : Requester) (r : SensorRef) (v : W64) (s : State) : Out State :=
  let k := sensKey r
  .next (sensHook (s.writeCore who (Machine.sensReg k).1 (Machine.sensReg k).2 .b64 (setBit v 14 true)) k)

/-! ### Shutdown and restart (R508 to R510) -/

/-- SHUT_LAST.UNIT and SENSOR of a sensor. -/
def shutUnit (k : Nat) : Nat × Nat :=
  if k < 2048 then (k / 16, k % 16) else if k < 4096 then (0x80 + (k - 2048) / 8, (k - 2048) % 8) else (0xA0 + (k - 4096), 0)

/-- The third consecutive sample of a trusted sensor at 118 °C: main power drops and SHUT_LAST records the trip. -/
def execThermalShutdown (r : SensorRef) (s : State) : Out State :=
  let k := sensKey r
  if s.boot.main && s.trusted k && decide (3 ≤ (s.sens1 k).hot) then
    let temp := fld (s.sensReg k) 11 0
    let recent := s.boot.shuts.filter (fun t => decide (s.up < t + 3600000000000))
    let tray := trayPage 0
    let s := s.dropMain
    let s := { s with boot := { s.boot with afterShut := true, shutAt := s.up, shuts := recent ++ [s.up], shutLog := true } }
    let s := s.setReg tray Reg.SHUT_LAST (word [(0, (shutUnit k).1), (8, (shutUnit k).2), (16, temp), (32, s.ts)])
    let s := s.bump tray 0 1
    .next (if 2 ≤ recent.length then (s.setRb tray Reg.SHUT_CTL 1 true).raise tray 8 else s)
  else .next s

/-- The conditions of R509 and R551 for a restart after a shutdown, but for AUTO. (DEDUCED: log entry 95) -/
def State.mayRestart (s : State) : Bool :=
  let tray := trayPage 0
  s.boot.vaux && !s.boot.main && !s.boot.inh && s.boot.fwOk && s.boot.afterShut &&
  !s.rb tray Reg.SHUT_CTL 1 && decide (s.boot.shutAt + 60000000000 ≤ s.up) &&
  (List.range 64).all (fun n => !s.trusted (2048 + n) || decide (s.sensTemp (2048 + n) < 480)) &&
  (!s.rb tray Reg.TRAY_STAT 0 || decide (toSigned 16 (s.rf tray Reg.TRAY_TEMP 31 16) < 6000))

/-- The steward's own restart, or the one that RESTART asked for. -/
def execAutoRestart (s : State) : Out State :=
  .next (if s.mayRestart && (s.rb (trayPage 0) Reg.SHUT_CTL 0 || s.boot.restartReq) then s.powerUp true else s)

/-- RESTART clears HELD; the restart follows once its conditions hold. -/
def shutHook (w : WEff) : State :=
  let s := w.st.zeroBits (trayPage 0) Reg.SHUT_CTL 4
  if w.fires 2 then
    let s := s.setRb (trayPage 0) Reg.SHUT_CTL 1 false
    if s.mayRestart then s.powerUp true
    else if s.boot.afterShut then { s with boot := { s.boot with restartReq := true } } else s
  else s

/-- DEDUCED: log entry 95. -/
def execShutRestart (who : Requester) (v : W64) (s : State) : Out State :=
  .next (shutHook (s.writeCore who (trayPage 0) Reg.SHUT_CTL .b64 (setBit v 2 true)))

/-! ### Quench (R506, R507) -/

/-- The controller's limit of a tile: the one it sent last. -/
def State.quenchLim (s : State) (i : Nat) : Nat := (Store.get none s.quench.sent i).getD (s.rf (thermPage i) Reg.QUENCH 9 0)
def State.sendQuench (s : State) (i lim : Nat) : State :=
  { s with quench := { s.quench with sent := Store.set none s.quench.sent i (some lim) } }
def State.setTimer (s : State) (i : Nat) (t : Option Nat) : State :=
  { s with quench := { s.quench with timers := Store.set none s.quench.timers i t } }
def State.quenchState (s : State) (i v : Nat) : State := s.setRf (thermPage i) Reg.QUENCH 11 10 v
/-- The highest trusted sample of a tile. -/
def State.tileHot (s : State) (i : Nat) : Int :=
  (tileSensors i).foldl (fun m k => if s.trusted k then max m (s.sensTemp k) else m) (-2048)

/-- The release rule for a tile that is not hot. -/
def State.quenchRelease (s : State) (i : Nat) : State :=
  let lim := s.quenchLim i
  if 1000 ≤ lim then s.quenchState i 0
  else if s.anyHot i 800 then (s.setTimer i none).quenchState i 2
  else match Store.get none s.quench.timers i with
    | none => (s.setTimer i (some s.up)).quenchState i 3
    | some t =>
      if t + 10000000 ≤ s.up then
        let new := min (lim + 20) 1000
        let s := ((s.sendQuench i new).bump (thermPage i) 3 1).setTimer i (if new = 1000 then none else some s.up)
        s.quenchState i (if new = 1000 then 0 else 3)
      else s.quenchState i 3

/-- One step of the controller, every 1 ms. (DEDUCED: log entry 94) -/
def execQuenchStep (s : State) : Out State :=
  if !s.boot.main then .next s
  else
    let hot := (List.range 80).filter (fun i => s.anyHot i 840)
    let worst := hot.foldl (fun b i => match b with
      | some j => if s.tileHot j < s.tileHot i then some i else b
      | none => some i) none
    let s := hot.foldl (fun t i => (t.setTimer i none).quenchState i (if t.quenchLim i < 1000 then 2 else 0)) s
    let s := match worst with
      | some i =>
        let new := max (s.quenchLim i - 50) 50
        if new < s.quenchLim i then ((s.sendQuench i new).bump (thermPage i) 2 1).quenchState i 1 else s.quenchState i 2
      | none => s
    .next (((List.range 80).filter (fun i => !hot.contains i)).foldl State.quenchRelease s)

/-- A tile receives the limit that the controller sent it. -/
def execQuenchLimUpdate (tile : TileIx) (lim : BitVec 16) (s : State) : Out State :=
  if Store.get none s.quench.sent tile = some lim.toNat then
    let s := { s with quench := { s.quench with sent := Store.set none s.quench.sent tile none } }
    let s := s.setFields (thermPage tile) Reg.QUENCH [(9, 0, lim.toNat), (63, 32, s.ts)]
    .next (s.setQuenchLim tile lim.toNat)
  else .next s

/-! ### Coolant (R512 to R514) -/

/-- BUS_OK from the failing readings; its loss raises TRAY_LOST. -/
def State.busOk (s : State) : State :=
  let tray := trayPage 0
  let ok := decide (s.tray.failIn < 3) && decide (s.tray.failOut < 3) && decide (s.tray.silent < 2)
  let had := s.rb tray Reg.TRAY_STAT 0
  let s := s.setRb tray Reg.TRAY_STAT 0 ok
  let s := if ok then s else { s with tray := { s.tray with okAll := false } }
  if had && !ok then s.raise tray 6 else s

/-- A read of the inlet (0) or outlet sensor: a two's-complement value in 1/128 °C, or none when it failed. -/
def execTrayRead (which : Nat) (value : Option Nat) (s : State) : Out State :=
  if !s.boot.vaux then .next s
  else
    let tray := trayPage 0
    let inlet := which = 0
    match value with
    | none =>
      let s := s.bump tray 2 1
      let x := s.tray
      .next { s with tray := if inlet then { x with failIn := x.failIn + 1 } else { x with failOut := x.failOut + 1 } }.busOk
    | some raw =>
      let c := toSigned 16 raw * 100 / 128
      let s := if inlet then s.setRf tray Reg.TRAY_TEMP 15 0 (ofSigned 16 c) else s.setRf tray Reg.TRAY_TEMP 31 16 (ofSigned 16 c)
      let x := s.tray
      .next { s with tray := if inlet then { x with failIn := 0, inlets := x.inlets ++ [c] }
                             else { x with failOut := 0, outlets := x.outlets ++ [c] } }.busOk

/-- Flow pulses of a 1 s window, at 100 pulses per litre. -/
def execFlowWindow (pulses : Nat) (s : State) : Out State :=
  if !s.boot.vaux then .next s
  else
    let tray := trayPage 0
    let flow := pulses * 60
    let s := (s.bump tray 3 pulses).setRf tray Reg.TRAY_FLOW 15 0 (min 65535 flow)
    let s := if s.rb tray Reg.TRAY_STAT 5 then s.bump tray 1 1 else s
    let x := s.tray
    .next { s with tray := { x with
      silent := if pulses = 0 then x.silent + 1 else 0, flows := x.flows ++ [flow],
      powers := x.powers ++ [s.rf tidePage Reg.TIDE_IN 47 32] } }.busOk

/-- A mean, and what stands when there was no reading. -/
def meanOf (l : List Int) (alt : Int) : Frac := if l.isEmpty then .int alt else .mk' l.sum l.length
def natMean (l : List Nat) (alt : Nat) : Frac := if l.isEmpty then .nat alt else .mk' l.sum l.length

/-- The count of consecutive judged windows in which a test held (positive) or did not (negative). -/
def runOf (r : Int) (holds : Bool) : Int := if holds then (if 0 < r then r + 1 else 1) else (if r < 0 then r - 1 else -1)
def runState (old : Bool) (r : Int) : Bool := if 3 ≤ r then true else if r ≤ -3 then false else old

/-- The judging of every 10 s (R513, R514). Temperatures in 0.01 °C, flow in 0.01 L/min, power in W. (DESIGN CHOICE: log entry 90) -/
def execCoolingJudge (s : State) : Out State :=
  if !s.boot.vaux then .next s
  else
    let tray := trayPage 0
    let x := s.tray
    let tin := meanOf x.inlets (toSigned 16 (s.rf tray Reg.TRAY_TEMP 15 0))
    let tout := meanOf x.outlets (toSigned 16 (s.rf tray Reg.TRAY_TEMP 31 16))
    let flow := natMean x.flows (s.rf tray Reg.TRAY_FLOW 15 0)
    let p := natMean x.powers (s.rf tidePage Reg.TIDE_IN 47 32)
    let dt := tout.sub tin
    let q := (flow.mul dt).mul (.mk' 3970 600000)
    let e := p.mul (.mk' (s.rf tray Reg.TRAY_CTL 9 0) 1000)
    let k := if p.isPos then (dt.mul (.nat 10000)).divPos p else .nat (Config.coolNoPower dt.floorNat)
    let kref := s.rf tray Reg.TRAY_CTL 31 16
    let steady := match x.prevPower with
      | some v => let d := p.sub (.nat v); (d.max d.neg).le (.mk' (v * 2) 100)
      | none => false
    let judged := (Frac.nat 5000).le p && steady && x.okAll
    let diff := q.sub e
    let bal := (e.mul (.mk' 1 10)).lt (diff.max diff.neg)
    let rise := kref ≠ 0 && (Frac.mk' (kref * 11) 10).lt k
    let balRun := if judged then runOf x.balRun bal else x.balRun
    let riseRun := if judged then runOf x.riseRun rise else x.riseRun
    let balOn := runState (s.rb tray Reg.TRAY_STAT 3) (if judged then balRun else 0)
    let riseOn := runState (s.rb tray Reg.TRAY_STAT 4) (if judged then riseRun else 0)
    let learned := if kref ≠ 0 then [] else if judged && (Frac.nat 10000).le p then x.learned ++ [k] else x.learned
    let s := if kref = 0 && learned.length = 60 then
        s.setRf tray Reg.TRAY_CTL 31 16 (min 65535 ((Frac.sum learned).mul (.mk' 1 60)).floorNat) else s
    let s := s.setReg tray Reg.TRAY_HEAT (word
      [(0, min 65535 q.floorNat), (16, min 65535 e.floorNat), (32, min 65535 k.floorNat)])
    let was := s.rb tray Reg.TRAY_STAT 5
    let low := s.rb tray Reg.TRAY_STAT 1
    let lowNow := if low then flow.lt (.nat 4590) else flow.lt (.nat 4500)
    let out := s.rb tray Reg.TRAY_STAT 2
    let outNow := if out then tin.lt (.nat 1836) || (Frac.nat 3920).lt tin else tin.lt (.nat 1800) || (Frac.nat 4000).lt tin
    let s := s.setFields tray Reg.TRAY_STAT
      [(1, 1, b2n lowNow), (2, 2, b2n outNow), (3, 3, b2n balOn), (4, 4, b2n riseOn), (5, 5, b2n (balOn || riseOn))]
    let s := if lowNow && !low then s.raise tray 4 else s
    let s := if outNow && !out then s.raise tray 5 else s
    let s := { s with tray := { x with
      inlets := [], outlets := [], flows := [], powers := [], okAll := s.rb tray Reg.TRAY_STAT 0,
      prevPower := some p.floorNat, balRun := balRun, riseRun := riseRun,
      learned := if learned.length = 60 then [] else learned } }
    .next (if (balOn || riseOn) && !was then
      (s.raise tray 3).log tray 6 1 (s.reg tray Reg.TRAY_HEAT) (s.reg tray Reg.TRAY_STAT) else s)

end Sys2Proof.Machine
end

