-- ==== Sys2Proof/Machine/Boot.lean ====
section
/-! DEFINITION. Commands of power-on, bring-up and ageing (chapter 18), and of VAUX and MAIN_INH# (R607, R609). -/
namespace Sys2Proof.Machine

/-! ### VAUX (R549, R607) -/

/-- What outlives VAUX: module flash, the keys of the security block, the hosts, and the levels of outside signals. -/
def State.coldState (s : State) : State :=
  { pending := s.pending, fresh := s.fresh, host := s.host, flash := s.flash, sec := s.sec, out := s.out, refs := s.refs,
    boot := { inh := s.boot.inh, perst := s.boot.perst } }

/-- VAUX becomes present: the first step of R549. Device time starts at 0 and the security block leaves reset. -/
def execVauxOn (s : State) : Out State :=
  if s.boot.vaux then .next s
  else
    let n := s.fresh
    let t := s.coldState.tickFresh
    let t := { t with boot := { t.boot with vaux := true } }
    .next ((t.setRf secPage Reg.SEC_STAT 1 0 1).setReg secPage Reg.ENR_NONCE (Config.random64 n))

/-- VAUX below 10.8 V for 1 ms: main power drops and everything that VAUX feeds is lost. -/
def execVauxLost (s : State) : Out State :=
  if s.boot.vaux then
    let t := s.coldState
    .next { t with flash := { t.flash with powered := t.flash.powered + s.up / 1000000000 } }
  else .next s

/-! ### Firmware (R550) -/

/-- The checks of an image: whether it may boot, and whether its release alone refuses it. -/
def fwGood (m : FwImage) (rollback : W32) : Bool := m.sigOk && decide (rollback.toNat ≤ m.release.toNat)
def fwStale (m : FwImage) (rollback : W32) : Bool := m.sigOk && decide (m.release.toNat < rollback.toNat)

/-- STEW_STAT of all eight dies. -/
def State.setStew (s : State) (st slot : Nat) : State :=
  (List.range 8).foldl (fun t d => t.setFields (stewPage d) Reg.STEW_STAT [(1, 0, st), (2, 2, slot)]) s

/-- An image that verified boots: the stewards run. -/
def State.fwBoot (s : State) (m : FwImage) (slot : Nat) : State :=
  let s := { s with boot := { s.boot with fwOk := true, release := m.release } }
  (s.setStew 2 slot).setRf (stewPage 0) Reg.BOOT_STAT 3 0 2

/-- The slot booted last is verified, then the other. -/
def execFwVerify (slot0 slot1 : FwImage) (s : State) : Out State :=
  if !s.boot.vaux || s.boot.fwOk || s.rf (stewPage 0) Reg.STEW_STAT 1 0 = 3 then .next s
  else
    let st := stewPage 0
    let rb := s.sec.rollback
    let a := s.flash.slot % 2
    let first := if a = 0 then slot0 else slot1
    let second := if a = 0 then slot1 else slot0
    if fwGood first rb then .next (s.fwBoot first a)
    else
      let s := if fwStale first rb then s.raise secPage 3 else s
      let s := (s.bump st 1 1).raise st 2
      if fwGood second rb then .next (s.fwBoot second (1 - a))
      else
        let s := if fwStale second rb then s.raise secPage 3 else s
        let s := ((s.setStew 3 0).setRf st Reg.BOOT_STAT 3 0 1).raise st 1
        .next (s.log st 0x0A 3 (s.reg st Reg.BOOT_STAT) 0)

/-! ### Main power (R551, R609) -/

/-- The steward of die 0 enables main power. That the input has stood at 42.0 V for 100 ms is what the command says; after a
shutdown the conditions of R509 hold too. (DEDUCED: log entry 101) -/
def execMainPowerEnable (s : State) : Out State :=
  if s.boot.vaux && s.boot.fwOk && !s.boot.main && !s.boot.inh && !s.rb (trayPage 0) Reg.SHUT_CTL 1 then
    if s.boot.afterShut then
      .next (if s.mayRestart && (s.rb (trayPage 0) Reg.SHUT_CTL 0 || s.boot.restartReq) then s.powerUp true else s)
    else .next (s.powerUp false)
  else .next s

/-- DESIGN CHOICE: log entry 112. -/
def execMainInhAssert (s : State) : Out State :=
  let t := { s with boot := { s.boot with inh := true } }
  .next (if t.boot.main then t.dropMain else t)
def execMainInhDeassert (s : State) : Out State := .next { s with boot := { s.boot with inh := false } }

/-! ### The mire (R554) -/

/-- PHASE raised to a step that has begun. -/
def State.phaseAt (s : State) (n : Nat) : State := if s.phase < n then s.setRf (stewPage 0) Reg.BOOT_STAT 3 0 n else s

/-- A stack is trained, tested and written to zero, or enters DOWN. -/
def execMireBringup (stack : StackIx) (ok : Bool) (s : State) : Out State :=
  let j := stack.val
  if s.boot.main && decide (s.stackState j < 2) then
    let s := s.phaseAt 4
    if ok then
      let t := s.setRf (mirePage j) Reg.MIRE_STAT 1 0 2
      .next { t with
        mire := Store.keep (fun a => mireStack a ≠ j) t.mire, mireBad := Store.keep (fun g => mireStack (256 * g) ≠ j) t.mireBad }
    else .next ((s.setRf (mirePage j) Reg.MIRE_STAT 1 0 3).raise (mirePage j) 2)
  else .next s

/-! ### Tile tests (R555 to R558) -/

def State.setSite (s : State) (i : Nat) (x : Site) : State := { s with sites := Store.set {} s.sites i x }
/-- The neighbours of a tile one ring further out, in port order, with their ports. -/
def outerNeighbours (i : Nat) : List (Nat × Nat) :=
  (List.range 4).filterMap (fun p => (neighbour i p).bind (fun n => if ringOf i = ringOf n + 1 then some (p, n) else none))
/-- The tester of a tile and the port toward it: the sluice die of a ring-0 tile, else the first outer neighbour that passed.
(DEDUCED: log entry 101) -/
def State.tester (s : State) (i : Nat) : Option (Nat × Nat) :=
  if ringOf i = 0 then (dieOf i).map (fun d => (4, 0x80 + d))
  else (outerNeighbours i).find? (fun x => (s.site x.2).result = 1)

/-- A result that is neither PASS nor open: the tile failed or was not reached. -/
def siteFailed (r : Nat) : Bool := decide (2 ≤ r) && decide (r ≤ 8)

/-- Untested tiles whose outer neighbours have all failed or are unreached become UNREACHED, ring by ring (R556). -/
def State.settleUnreached (s : State) : State :=
  (List.range 4).foldl (fun t r =>
    (List.range 80).foldl (fun t i =>
      if ringOf i = r + 1 && (t.site i).result = 0 && (outerNeighbours i).all (fun x => siteFailed (t.site x.2).result)
      then t.setSite i { t.site i with result := 8 } else t) t) s

/-- A restart that finds a tile at 60 °C drops main power again and waits a further 60 s (R509). -/
def State.restartTooHot (s : State) : Bool := s.boot.restarted && (List.range 80).any (fun i => s.anyHot i 480)
def State.dropHot (s : State) : State :=
  let t := s.dropMain
  { t with boot := { t.boot with afterShut := true, shutAt := t.up } }

/-- A tile's test starts once its tester has passed and its 120 W fit (R552). (DEDUCED: log entry 101) -/
def execTileTest (tile : TileIx) (s : State) : Out State :=
  let i := tile.val
  if !s.boot.main || decide (10 ≤ s.phase) || (s.site i).result ≠ 0 then .next s
  else if s.restartTooHot then .next s.dropHot
  else match s.tester i with
    | none => .next s
    | some (port, who) =>
      if 3600 < s.rf tidePage Reg.TIDE_IN 47 32 + 120 then .next s
      else
        let s := (s.phaseAt (5 + ringOf i)).setSite i { s.site i with result := 9, tester := who }
        let s := s.setFields (clkPage i) Reg.CLK_PARENT [(2, 0, port), (8, 8, 0)]
        .next ((s.bump (stewPage 0) 2 1).wakeTile i 2)

/-- Live-lane masks of ports 0 to 4. -/
def laneMask (l : List (Nat × Nat)) : Nat := (l.map (fun x => x.2 * 2 ^ (8 * x.1))).sum

/-- The opposite port of a link between neighbours. -/
def facing (port : Nat) : Nat := (port + 2) % 4

/-- A link that a tile's test may train: to its sluice die, or to a neighbour that has passed (R557). -/
def State.mayTrain (s : State) (i p : Nat) : Bool :=
  if p = 4 then ringOf i = 0
  else match neighbour i p with
    | some n => (s.site n).result = 1
    | none => false

/-- A trained link: its live lanes at both ends, with nothing on them, and its delay (R484, R557). (DEDUCED: log entry 101) -/
def State.trainEnd (s : State) (i p mask : Nat) : State :=
  let s := s.setRf (cetisPage i) Reg.LANES (8 * p + 7) (8 * p) mask
  let s := (List.range 8).foldl (fun t l => t.setLane i p l {}) s
  if mask = 0 then s else s.setRf (clkPage i) (Reg.LINK_DLY p) 15 0 (Config.linkDelay (5 * i + p)).toNat
def State.trainLink (s : State) (i : Nat) (x : Nat × Nat) : State :=
  let s := s.trainEnd i x.1 x.2
  match neighbour i x.1 with
  | some n => s.trainEnd n (facing x.1) x.2
  | none => s

/-- What the march test and the scan leave: every word zero, gates zero (R557). -/
def State.wipeTile (s : State) (i : Nat) : State :=
  let s := (List.range 4).foldl (fun t k => (t.loseCrucible i k).loseLayer i k) s
  { s with gates := outside s.gates (i * 1024) 1024 }

/-- The ports that a test trained, with their live lanes: the tester's from stage 1, the others at stage 7 (R557). -/
def State.trained (s : State) (i r : Nat) (lanes : List (BitVec 8)) : List (Nat × Nat) :=
  let from_ := match s.tester i with | some t => t.1 | none => 7
  if r = 2 then []
  else ((List.range 5).filter (fun p => p = from_ || (r = 1 && s.mayTrain i p))).map (fun p => (p, (lanes.getD p 0).toNat))

/-- Whether the link to the tester has a live lane, as every result but FAIL_LINK needs (R557). -/
def State.testerLinked (s : State) (i : Nat) (lanes : List (BitVec 8)) : Bool :=
  match s.tester i with
  | some t => lanes.getD t.1 0 ≠ 0
  | none => false

/-- The samples of a tile's crucibles count from its replica baselines (R557, R562). -/
def State.baselines (s : State) (i : Nat) : State :=
  { s with aging := (List.range 4).foldl (fun st k => Store.set ⟨0, false⟩ st (i * 4 + k) ⟨s.up, false⟩) s.aging }

/-- The end of a tile's test with its result, and the lanes that are live. -/
def execTileTestDone (tile : TileIx) (result : BitVec 8) (lanes : List (BitVec 8)) (s : State) : Out State :=
  let i := tile.val
  let r := result.toNat
  if (s.site i).result = 9 && decide (1 ≤ r) && decide (r ≤ 7) && (r = 2 || s.testerLinked i lanes) then
    let l := s.trained i r lanes
    let s := s.setSite i { s.site i with result := r, lanes := laneMask l }
    let s := ((l.foldl (fun t x => t.trainLink i x) s).wipeTile i)
    .next (if r = 1 then (s.baselines i).spareDomains i else (s.offDomains i).settleUnreached)
  else .next s

/-! ### Ageing (R562 to R566) -/

/-- A crucible's TOTAL drift and PLAN drift in 0.1 mV. -/
def State.driftTotal (s : State) (i k : Nat) : Int := toSigned 16 (s.rf (agePage i) (Reg.AGE_DRIFT k) 31 16)
def State.driftPlan (s : State) (i k : Nat) : Int := toSigned 16 (s.rf (agePage i) (Reg.AGE_DRIFT k) 15 0)

/-- Point n of a plan: the voltage in mV, rounded up to 5 mV, before the cap of 900 mV. (DESIGN CHOICE: log entry 103) -/
def planVolts (factory d guard_ : Nat) : Nat := ceilDiv (factory * 10 + d + guard_ * 10) 50 * 5

/-- The margin of a tile: 900 mV minus the planned voltage at 1.50 GHz, 0 when that point is invalid. -/
def State.tileMargin (s : State) (i : Nat) : Nat :=
  if s.rb (agePage i) (Reg.AGE_VF 11) 16 then 900 - s.rf (agePage i) (Reg.AGE_VF 11) 9 0 else 0

/-- The module margin and the days until it reaches 0 (R566). (DESIGN CHOICE: log entry 102) -/
def State.updMargin (s : State) : State :=
  let worst := (List.range 80).foldl (fun b i =>
    if s.tstate i = 6 || s.fmax i = 0 then b
    else match b with
      | some j => if s.tileMargin i < s.tileMargin j then some i else b
      | none => some i) none
  match worst with
  | none => s
  | some i =>
    let plans := Store.get [] s.flash.plans i
    let days := if plans.length < 4 then 0xFFFF
                else let d := Config.fitDays plans; if 65534 < d then 0xFFFF else d
    s.setReg (stewPage 0) Reg.MARGIN (word [(0, s.tileMargin i), (16, i), (32, days)])

/-- A plan of a tile's table (R565). A lower FMAX lowers every target above it. (DESIGN CHOICE: log entry 102) -/
def State.planTile (s : State) (i : Nat) : State :=
  let pg := agePage i
  let d := (((List.range 4).map (s.driftTotal i)).foldl max 0).toNat
  let guard_ := s.rf pg Reg.AGE_CTL 39 32
  let volts (n : Nat) : Nat := planVolts (Config.factoryMv i n) d guard_
  let valid (n : Nat) : Bool := n = 0 || decide (volts n ≤ 900)
  let s := (List.range 15).foldl (fun t n =>
    t.setReg pg (Reg.AGE_VF n) (word [(0, min (volts n) 900), (16, b2n (valid n))])) s
  let top := (List.range 15).foldl (fun m n => if valid n then n else m) 0
  let old := s.fmax i
  let fmax := 400 + 100 * top
  let s := s.setRf pg Reg.AGE_STAT 11 0 fmax
  let s := s.setRf pg Reg.AGE_STAT 25 16 (s.tileMargin i)
  let s := (List.range 4).foldl (fun t k =>
    (t.setRf pg (Reg.AGE_DRIFT k) 15 0 0).setTarget i k (min (t.target i k) fmax)) s
  let plans := Store.get [] s.flash.plans i ++ [(s.flash.powered + s.up / 1000000000, (d : Int))]
  let s := { s with
    planDue := Store.set false s.planDue i false, planAt := Store.set 0 s.planAt i (max 1 s.up),
    flash := { s.flash with plans := Store.set [] s.flash.plans i plans } }
  let s := (s.bump pg 2 1).raise pg 0
  (if fmax < old then s.raise pg 1 else s).updMargin

/-- A heat's recast keeps a plan waiting until re-admission (R564). -/
def State.inRecast (s : State) (i : Nat) : Bool :=
  let st := s.rf polderPage (Reg.RC_STAT (s.polderOf i)) 2 0
  s.member i && (st = 1 || st = 2)

/-- A re-plan that is due: by drift, by a write, by bring-up, by a self-test, or by age. -/
def execReplan (tile : TileIx) (s : State) : Out State :=
  let i := tile.val
  let at_ := Store.get 0 s.planAt i
  let days := max 1 (s.rf (agePage i) Reg.AGE_CTL 47 40)
  let due := Store.get false s.planDue i || (at_ ≠ 0 && decide (at_ + days * 86400000000000 ≤ s.up))
  .next (if due && !s.inRecast i then s.planTile i else s)

/-- What a write of AGE_CTL starts. -/
def ageHook (w : WEff) (i : Nat) : State :=
  let s := w.st.setRb (agePage i) Reg.AGE_CTL 48 false
  if w.fires 48 then { s with planDue := Store.set false s.planDue i true } else s

def execAgeReplanWrite (who : Requester) (tile : TileIx) (v : W64) (s : State) : Out State :=
  .next (ageHook (s.writeCore who (agePage tile) Reg.AGE_CTL .b64 (setBit v 48 true)) tile)

/-- When a crucible's next sample falls due: PERIOD_S after the last, or at once after MARGIN_LOW (R562). -/
def State.ageDue (s : State) (i k : Nat) : Nat :=
  let x := s.agingOf (i * 4 + k)
  if x.now then 0 else x.last + 1000000000 * max 1 (s.rf (agePage i) Reg.AGE_CTL 15 0)
/-- Past WAIT_S after it fell due no idle slot has occurred, and the sample needs none (R562). (DEDUCED: log entry 135) -/
def State.ageLate (s : State) (i k : Nat) : Bool :=
  let x := s.agingOf (i * 4 + k)
  !x.now && decide (s.ageDue i k + 1000000000 * s.rf (agePage i) Reg.AGE_CTL 23 16 ≤ s.up)

/-- An ageing sample of a crucible, once it is due and in a window free of stretching: replica drift and oscillator drift in 0.1 mV. A
fenced tile takes none (R562, R563). -/
def execAgeSample (tile : TileIx) (cru : CruIx) (drift osc : W32) (s : State) : Out State :=
  let i := tile.val
  let k := cru.val
  let pg := agePage i
  if 3 ≤ s.tstate i || decide (s.up < s.ageDue i k) || s.stretching i k then .next s
  else
    let late := s.ageLate i k
    let s := { s with aging := Store.set ⟨0, false⟩ s.aging (i * 4 + k) ⟨s.up, false⟩ }
    let s := if late then s.raise pg 2 else s
    let d := drift.toInt
    if 30 < (osc.toInt - d).natAbs then .next (s.bump pg 1 1)
    else
      let d16 := max (-32768) (min 32767 d)
      let plan := d16 - (s.driftTotal i k - s.driftPlan i k)
      let s := (s.setReg pg (Reg.AGE_DRIFT k) (word [(0, ofSigned 16 plan), (16, ofSigned 16 d16), (32, s.ts)])).bump pg 0 1
      let drifts := Store.set 0 s.flash.drifts (i * 4 + k) (BitVec.ofNat 16 (ofSigned 16 d16))
      let s := { s with flash := { s.flash with drifts := drifts } }
      let th : Int := s.rf pg Reg.AGE_CTL 31 24
      .next (if th < plan then { s with planDue := Store.set false s.planDue i true } else s)

/-! ### The site map and READY (R549, R560) -/

/-- The drifts that module flash kept, put back before the plans of bring-up (R566). -/
def State.loadDrifts (s : State) (i : Nat) : State :=
  (List.range 4).foldl (fun t k =>
    t.setRf (agePage i) (Reg.AGE_DRIFT k) 31 16 (Store.get 0 t.flash.drifts (i * 4 + k)).toNat) s

/-- One tile's entry compared with the previous boot's, and a tile that did not pass withdrawn. -/
def State.recordSite (s : State) (i : Nat) : State :=
  let x := s.site i
  let old : Site := Store.get {} s.flash.sites i
  let ch := decide (x.result ≠ old.result) || decide (x.lanes ≠ old.lanes)
  let s := s.setSite i { x with changed := ch }
  let s := if ch then s.raise (stewPage 0) 4 else s
  if x.result = 1 then s else (s.raise (stewPage 0) 3).setTstate i 6

/-- Step 8 of R549: the time tree is aligned, every table planned, and the map recorded. -/
def execSiteMapRecord (flashOk : Bool) (s : State) : Out State :=
  let closed := (List.range 80).all (fun i => (s.site i).result ≠ 0 && (s.site i).result ≠ 9)
  if s.boot.main && decide (s.phase < 10) && closed then
    let s := (List.range 80).foldl State.recordSite s
    let s := s.alignTime
    let s := (List.range 80).foldl (fun t i => if (t.site i).result = 1 then (t.loadDrifts i).planTile i else t) s
    let s := if flashOk then
        { s with flash := { s.flash with sites := Store.mapVals {} (fun _ x => { x with changed := false }) s.sites,
                                         boots := s.flash.boots + 1 } }
      else s.raise (stewPage 0) 5
    .next (s.setFields (stewPage 0) Reg.BOOT_STAT [(3, 0, 10), (63, 48, s.flash.boots % 65536)])
  else .next s

/-- Bring-up reaches READY. -/
def execBootReady (s : State) : Out State :=
  if s.boot.main && s.phase = 10 then
    let st := stewPage 0
    let s := (List.range 80).foldl (fun t i =>
      (List.range 8).foldl (fun t d => t.setRf (cetisPage i) Reg.RIM_GW (8 * d + 6) (8 * d) (dieGateway d i)) t) s
    let s := s.setFields st Reg.BOOT_STAT [(3, 0, 11), (47, 16, s.up / 1000000)]
    let s := { s with flash := { s.flash with slot := s.rf st Reg.STEW_STAT 2 2 } }
    let s := (s.bump st 0 1).raise st 0
    let s := s.log st 0x0A 0 (s.reg st Reg.BOOT_STAT) 0
    .next (if s.boot.restarted then { s.raise (trayPage 0) 7 with boot := { s.boot with restarted := false } } else s)
  else .next s

end Sys2Proof.Machine
end

