-- ==== Sys2Proof/Machine/Gcm.lean ====
section
/-! DEFINITION. AES-256-GCM as the pour sessions use it (R375, R596), after FIPS 197 and NIST SP 800-38D. -/
namespace Sys2Proof.Machine

/-! ### AES-256 -/

/-- Multiplication by x in the field of AES, and the product of two elements. -/
def aesDouble (a : Byte) : Byte := (a <<< 1) ^^^ (if a.getLsbD 7 then 0x1B else 0)
def aesMul : Nat → Byte → Byte → Byte
  | 0, _, _ => 0
  | n + 1, a, b => (if b.getLsbD 0 then a else 0) ^^^ aesMul n (aesDouble a) (b >>> 1)
/-- The inverse of an element, its power 254; zero stays zero. -/
def aesInv (a : Byte) : Byte :=
  let sq (x : Byte) : Byte := aesMul 8 x x
  let a2 := sq a
  let a3 := aesMul 8 a2 a
  let a15 := aesMul 8 (sq (sq a3)) a3
  let a60 := sq (sq a15)
  let a63 := aesMul 8 a60 a3
  let a126 := sq a63
  sq (aesMul 8 a126 a)
/-- The substitution of a byte. -/
def aesSub (a : Byte) : Byte :=
  let b := aesInv a
  b ^^^ b.rotateLeft 1 ^^^ b.rotateLeft 2 ^^^ b.rotateLeft 3 ^^^ b.rotateLeft 4 ^^^ 0x63

def xorBytes (a b : List Byte) : List Byte := (a.zip b).map (fun p => p.1 ^^^ p.2)
def rot1 (l : List Byte) : List Byte := l.drop 1 ++ l.take 1

/-- The words of the key schedule from word i on; `w` holds the last eight, newest first, and `rc` the round constant. -/
def aesExpand : Nat → Nat → Byte → List (List Byte) → List (List Byte)
  | 0, _, _, _ => []
  | n + 1, i, rc, w =>
    let prev := w.headD []
    let t := if i % 8 = 0 then xorBytes ((rot1 prev).map aesSub) [rc, 0, 0, 0]
             else if i % 8 = 4 then prev.map aesSub else prev
    let x := xorBytes (w.getD 7 []) t
    x :: aesExpand n (i + 1) (if i % 8 = 0 then aesDouble rc else rc) (x :: w.take 7)

/-- The round keys of a key of 32 bytes, 16 bytes each. -/
def aesKeys (key : List Byte) : List (List Byte) :=
  let k := (List.range 8).map (fun i => (key.drop (4 * i)).take 4)
  let w := k ++ aesExpand 52 8 1 k.reverse
  (List.range 15).map (fun i => ((w.drop (4 * i)).take 4).flatten)

def aesShift (b : List Byte) : List Byte := (List.range 16).map (fun i => b.getD ((i + 4 * (i % 4)) % 16) 0)
def aesMixCol (c : List Byte) : List Byte :=
  (List.range 4).map (fun i =>
    let a (j : Nat) : Byte := c.getD ((i + j) % 4) 0
    aesDouble (a 0) ^^^ (aesDouble (a 1) ^^^ a 1) ^^^ a 2 ^^^ a 3)
def aesMix (b : List Byte) : List Byte := (List.range 4).flatMap (fun i => aesMixCol ((b.drop (4 * i)).take 4))

/-- The rounds after the first key addition; the last has no column mix. -/
def aesRounds : List (List Byte) → List Byte → List Byte
  | [], b => b
  | [k], b => xorBytes (aesShift (b.map aesSub)) k
  | k :: r, b => aesRounds r (xorBytes (aesMix (aesShift (b.map aesSub))) k)
def aesBlock (ks : List (List Byte)) (b : List Byte) : List Byte := aesRounds (ks.drop 1) (xorBytes b (ks.headD []))

/-! ### Galois/counter mode -/

def ghashMul : Nat → BitVec 128 → BitVec 128 → BitVec 128
  | 0, _, _ => 0
  | n + 1, x, v =>
    (if x.getLsbD 127 then v else 0) ^^^
      ghashMul n (x <<< 1) ((v >>> 1) ^^^ (if v.getLsbD 0 then 0xE1000000000000000000000000000000 else 0))

def pad16 (l : List Byte) : List Byte := l ++ List.replicate ((16 - l.length % 16) % 16) 0
def ghash (h : BitVec 128) : Nat → List Byte → BitVec 128 → BitVec 128
  | 0, _, y => y
  | n + 1, l, y => ghash h n (l.drop 16) (ghashMul 128 (y ^^^ BitVec.ofNat 128 (beNat (l.take 16))) h)

/-- The key stream and a text combined, from a counter on. -/
def gcmStream (ks : List (List Byte)) (nonce : List Byte) : Nat → Nat → List Byte → List Byte
  | 0, _, _ => []
  | n + 1, ctr, l =>
    xorBytes (l.take 16) (aesBlock ks (nonce ++ beBytes 4 ctr)) ++ gcmStream ks nonce n (ctr + 1) (l.drop 16)
def gcmCrypt (key nonce text : List Byte) : List Byte := gcmStream (aesKeys key) nonce (ceilDiv text.length 16) 2 text

/-- The tag of a ciphertext and its additional data. -/
def gcmTag (key nonce aad cipher : List Byte) : List Byte :=
  let ks := aesKeys key
  let h := BitVec.ofNat 128 (beNat (aesBlock ks (List.replicate 16 0)))
  let l := pad16 aad ++ pad16 cipher ++ beBytes 8 (8 * aad.length) ++ beBytes 8 (8 * cipher.length)
  xorBytes (beBytes 16 (ghash h (l.length / 16) l 0).toNat) (aesBlock ks (nonce ++ beBytes 4 1))

/-- A text sealed: the ciphertext and the tag. -/
def gcmSeal (key nonce aad text : List Byte) : List Byte :=
  let c := gcmCrypt key nonce text
  c ++ gcmTag key nonce aad c
/-- A sealed text opened; none where its tag is wrong. -/
def gcmOpen (key nonce aad box : List Byte) : Option (List Byte) :=
  let n := box.length - 16
  let c := box.take n
  if 16 ≤ box.length && gcmTag key nonce aad c = box.drop n then some (gcmCrypt key nonce c) else none

end Sys2Proof.Machine
end

