-- ==== Sys2Proof/Machine/Flags.lean ====
section
/-! DEFINITION. Exact arithmetic on binary values, the one rounding that ends each operation, and the sticky arithmetic flags
of R54. Every value an FP32, BF16 or scaled-block operand can hold is an exact dyadic number, an infinity or a NaN. -/
namespace Sys2Proof.Machine

/-! ### The sticky flags of R54, in the bit order of TASK_FLAGS (R108) -/

/-- A set of sticky flags: bit 0 INV, 1 OVF, 2 SAT, 3 UNF, 4 POI. -/
abbrev Flags := BitVec 5
def Flags.none : Flags := 0
/-- A NaN results from non-NaN operands. -/
def Flags.inv : Flags := 1
/-- A finite result overflows to Inf. -/
def Flags.ovf : Flags := 2
/-- A conversion saturates. -/
def Flags.sat : Flags := 4
/-- A nonzero exact result rounds to a subnormal or to zero. -/
def Flags.unf : Flags := 8
/-- A conversion poisons a block, or a lift residual is out of range. -/
def Flags.poi : Flags := 16

/-- A value with the flags its computation raised. -/
abbrev Flagged (α : Type) := α × Flags

/-- The flags raised by a list of computations. -/
def Flags.join : List Flags → Flags
  | [] => 0
  | f :: r => f ||| Flags.join r

/-! ### Values -/

/-- A decoded value: NaN, an infinity, or (−1)^neg × m × 2^e. Zero has m = 0 and keeps its sign. -/
inductive Val where
  | nan
  | inf (neg : Bool)
  | fin (neg : Bool) (m : Nat) (e : Int)
  deriving DecidableEq, Repr

def Val.zero (neg : Bool) : Val := .fin neg 0 0

def Val.isNan : Val → Bool
  | .nan => true
  | _ => false

def Val.isInf : Val → Bool
  | .inf _ => true
  | _ => false

def Val.isZero : Val → Bool
  | .fin _ m _ => m = 0
  | _ => false

def Val.isNeg : Val → Bool
  | .nan => false
  | .inf n => n
  | .fin n _ _ => n

/-- The sign of a value turned over; a NaN stays NaN. -/
def Val.neg : Val → Val
  | .nan => .nan
  | .inf n => .inf (!n)
  | .fin n m e => .fin (!n) m e

/-- The exact integer that m × 2^e is, in units of 2^q, for q ≤ e. -/
def scaleTo (neg : Bool) (m : Nat) (e q : Int) : Int :=
  let v : Int := ((m <<< (e - q).toNat : Nat) : Int)
  if neg then -v else v

/-- An exact integer in units of 2^q as a value; an exact zero takes the sign given. -/
def Val.ofInt (x : Int) (q : Int) (zneg : Bool) : Val :=
  if x = 0 then .zero zneg else .fin (x < 0) x.natAbs q

/-- The exact sum of two values (R50): NaN for a NaN operand or for opposite infinities. x + (−x) is +0.0. -/
def Val.add : Val → Val → Val
  | .nan, _ => .nan
  | _, .nan => .nan
  | .inf a, .inf b => if a = b then .inf a else .nan
  | .inf a, _ => .inf a
  | _, .inf b => .inf b
  | .fin a m e, .fin b n f =>
    let q := min e f
    Val.ofInt (scaleTo a m e q + scaleTo b n f q) q (a && b && m == 0 && n == 0)

/-- The exact product of two values: NaN for a NaN operand and for zero times infinity. -/
def Val.mul : Val → Val → Val
  | .nan, _ => .nan
  | _, .nan => .nan
  | .inf a, .inf b => .inf (xor a b)
  | .inf a, .fin b m _ => if m = 0 then .nan else .inf (xor a b)
  | .fin a m _, .inf b => if m = 0 then .nan else .inf (xor a b)
  | .fin a m e, .fin b n f => .fin (xor a b) (m * n) (e + f)

/-- The order key of R50: −0 lies below +0. Meaningful for values that are not NaN. -/
def Val.lt : Val → Val → Bool
  | .nan, _ => false
  | _, .nan => false
  | .inf a, .inf b => a && !b
  | .inf a, .fin _ _ _ => a
  | .fin _ _ _, .inf b => !b
  | .fin a m e, .fin b n f =>
    let q := min e f
    let x := scaleTo a m e q
    let y := scaleTo b n f q
    if x = y then (x == 0 && a && !b) else decide (x < y)

/-! ### Rounding -/

/-- How a conversion settles a value between two representable ones: to nearest even, or by the 16-bit draw of R52. -/
inductive RMode where
  | rne
  | sr (draw : Nat)
  deriving DecidableEq, Repr

/-- (n / d) × 2^e measured in units of 2^q: the whole part, the remainder and the divisor. -/
def inUnits (n d : Nat) (e q : Int) : Nat × Nat × Nat :=
  if q ≤ e then
    let a := n <<< (e - q).toNat
    (a / d, a % d, d)
  else
    let b := d <<< (q - e).toNat
    (n / b, n % b, b)

/-- One rounding of (n / d) × 2^e to a whole number of units 2^q. `down` settles a tie to the smaller magnitude, else it goes
to the encoding `base` + units whose least significant bit is 0 (R51); the stochastic mode is R52. -/
def roundUnits (mode : RMode) (down : Bool) (base n d : Nat) (e q : Int) : Nat :=
  let (w, r, b) := inUnits n d e q
  match mode with
  | .rne =>
    if 2 * r < b then w
    else if b < 2 * r then w + 1
    else if down then w
    else if (base + w) % 2 = 0 then w else w + 1
  | .sr draw => if 65536 ≤ r * 65536 / b + draw then w + 1 else w

/-- The exponent E with 2^E ≤ (n / d) × 2^e < 2^(E + 1), for n and d nonzero. -/
def topExp (n d : Nat) (e : Int) : Int :=
  let l : Int := (Nat.log2 n : Int) - (Nat.log2 d : Int)
  let small : Bool := if 0 ≤ l then n < d <<< l.toNat else n <<< (-l).toNat < d
  (if small then l - 1 else l) + e

/-- A binary floating format: mantissa bits, bias, and the code of the largest finite magnitude. -/
structure FloatFmt where
  mant   : Nat
  bias   : Nat
  maxMag : Nat
  deriving DecidableEq, Repr

/-- The weight of the least significant mantissa bit of the subnormals. -/
def FloatFmt.qmin (f : FloatFmt) : Int := 1 - f.bias - f.mant

/-- The magnitude code of a nonzero (n / d) × 2^e after one rounding, as though the format had no largest value (R53). Codes
rise with magnitude: code c is 2^mant × (units above the subnormal unit) plus the significand. -/
def FloatFmt.roundCode (f : FloatFmt) (mode : RMode) (n d : Nat) (e : Int) : Nat :=
  let q := max (topExp n d e - f.mant) f.qmin
  let base := (q - f.qmin).toNat * 2 ^ f.mant
  base + roundUnits mode false base n d e q

/-- The exact value of a magnitude code: (significand, exponent). -/
def FloatFmt.magOf (f : FloatFmt) (c : Nat) : Nat × Int :=
  let e := c >>> f.mant
  let m := c % 2 ^ f.mant
  if e = 0 then (m, f.qmin) else (2 ^ f.mant + m, f.qmin + (e - 1 : Nat))

def fp32Fmt : FloatFmt := ⟨23, 127, 0x7f7fffff⟩
def bf16Fmt : FloatFmt := ⟨7, 127, 0x7f7f⟩

/-- The canonical NaN of FP32 (R53). -/
def nan32 : W32 := 0x7FC00000

/-- An FP32 bit pattern as a value (R30). -/
def Val.ofF32 (b : W32) : Val :=
  let neg := b.getLsbD 31
  let c := b.toNat % 2 ^ 31
  if c < 0x7f800000 then let (m, e) := fp32Fmt.magOf c; .fin neg m e
  else if c = 0x7f800000 then .inf neg
  else .nan

/-- A value as FP32 with one rounding to nearest even, and the flags of R54: overflow gives ±Inf, a subnormal or zero result
of a nonzero value sets UNF. -/
def Val.toF32 : Val → Flagged W32
  | .nan => (nan32, 0)
  | .inf n => (if n then 0xFF800000 else 0x7F800000, 0)
  | .fin n m e =>
    let sign : Nat := if n then 2 ^ 31 else 0
    if m = 0 then (BitVec.ofNat 32 sign, 0)
    else
      let c := fp32Fmt.roundCode .rne m 1 e
      if 0x7f800000 ≤ c then (BitVec.ofNat 32 (sign + 0x7f800000), Flags.ovf)
      else (BitVec.ofNat 32 (sign + c), if c < 2 ^ 23 then Flags.unf else 0)

/-- A value as a BF16 pattern, rounded as given. -/
def Val.toBf16 (mode : RMode) : Val → Flagged (BitVec 16)
  | .nan => (0x7FC0, 0)
  | .inf n => (if n then 0xFF80 else 0x7F80, 0)
  | .fin n m e =>
    let sign : Nat := if n then 2 ^ 15 else 0
    if m = 0 then (BitVec.ofNat 16 sign, 0)
    else
      let c := bf16Fmt.roundCode mode m 1 e
      if 0x7f80 ≤ c then (BitVec.ofNat 16 (sign + 0x7f80), Flags.ovf)
      else (BitVec.ofNat 16 (sign + c), if c < 2 ^ 7 then Flags.unf else 0)

/-! ### FP32 operations (R50) -/

/-- INV when a NaN comes of operands that are not NaN. -/
def invIf (operands : List Val) (r : Val) : Flags :=
  if r.isNan && operands.all (fun v => !v.isNan) then Flags.inv else 0

/-- A value computed exactly from operands, rounded once to FP32. -/
def finish32 (operands : List Val) (r : Val) : Flagged W32 :=
  let (b, f) := r.toF32
  (b, f ||| invIf operands r)

def fp32Add (a b : W32) : Flagged W32 := finish32 [.ofF32 a, .ofF32 b] (Val.add (.ofF32 a) (.ofF32 b))
def fp32Mul (a b : W32) : Flagged W32 := finish32 [.ofF32 a, .ofF32 b] (Val.mul (.ofF32 a) (.ofF32 b))

/-- max or min of R50: the canonical NaN when either operand is NaN. -/
def fp32Max (a b : W32) : W32 :=
  let x := Val.ofF32 a
  let y := Val.ofF32 b
  if x.isNan || y.isNan then nan32 else if x.lt y then b else a
def fp32Min (a b : W32) : W32 :=
  let x := Val.ofF32 a
  let y := Val.ofF32 b
  if x.isNan || y.isNan then nan32 else if y.lt x then b else a

/-- One level of the pairwise tree of R46: neighbours added, an odd last element rises unchanged. -/
def treeLevel : List W32 → Flagged (List W32)
  | a :: b :: r =>
    let (c, f) := fp32Add a b
    let (l, g) := treeLevel r
    (c :: l, f ||| g)
  | l => (l, 0)

/-- The levels of the pairwise tree until one value is left. `fuel` bounds the number of levels. -/
def treeSum : Nat → List W32 → Flagged W32
  | _, [] => (0, 0)
  | _, [a] => (a, 0)
  | 0, a :: _ => (a, 0)
  | n + 1, l =>
    let (l', f) := treeLevel l
    let (r, g) := treeSum n l'
    (r, f ||| g)

/-- The pairwise sum of R46; the sum of nothing is +0.0. -/
def pairwise (l : List W32) : Flagged W32 := treeSum l.length l

/-- The index of the greatest (or least) value under R50, the lowest among equals, the first NaN when there is one. -/
def argBest (better : Val → Val → Bool) : List W32 → Nat → Nat → Val → Nat
  | [], _, best, _ => best
  | b :: r, i, best, cur =>
    let v := Val.ofF32 b
    if cur.isNan then best
    else if v.isNan then i
    else if better v cur then argBest better r (i + 1) i v
    else argBest better r (i + 1) best cur

def argMax : List W32 → W32
  | [] => 0xFFFFFFFF
  | b :: r => BitVec.ofNat 32 (argBest (fun v c => c.lt v) r 1 0 (.ofF32 b))
def argMin : List W32 → W32
  | [] => 0xFFFFFFFF
  | b :: r => BitVec.ofNat 32 (argBest (fun v c => v.lt c) r 1 0 (.ofF32 b))

/-- The greatest whole number whose square is at most n, found bit by bit. -/
def isqrtFrom (n : Nat) : Nat → Nat → Nat
  | 0, r => r
  | k + 1, r =>
    let t := r + 2 ^ k
    isqrtFrom n k (if t * t ≤ n then t else r)
def isqrt (n : Nat) : Nat := isqrtFrom n (Nat.log2 n / 2 + 1) 0

/-- The correctly rounded square root (R62): the root is taken to 2 bits below any tie with a sticky bit. -/
def fp32Sqrt (a : W32) : Flagged W32 :=
  match Val.ofF32 a with
  | .nan => (nan32, 0)
  | .inf false => (0x7F800000, 0)
  | .inf true => (nan32, Flags.inv)
  | .fin n m e =>
    if m = 0 then (a, 0)
    else if n then (nan32, Flags.inv)
    else
      -- m × 2^e = (m × 2^s) × 2^(e − s) with e − s even and s at least 64
      let s : Nat := if e % 2 = 0 then 64 else 65
      let x := m <<< s
      let r := isqrt x
      let sticky := if r * r = x then 0 else 1
      (Val.fin false (2 * r + sticky) ((e - s) / 2 - 1)).toF32

end Sys2Proof.Machine
end

