-- ==== Sys2Proof/Machine/Operands.lean ====
section
/-! DEFINITION. Operand forms: the format byte, element and scale decoding, the scaled-block burst, conversions into every
format, and the block dot product (chapter 2 of the manual). -/
namespace Sys2Proof.Machine

/-! ### The format byte (R28, R29) -/

/-- ELEM codes of R30. -/
inductive Elem where
  | fp32 | bf16 | e4m3 | e5m2 | e2m3 | e3m2 | e2m1 | int8 | int4 | int3 | fp3 | trn | q2
  deriving DecidableEq, Repr

/-- SCALE codes of R28. -/
inductive Scale where
  | none | b32 | b16 | row
  deriving DecidableEq, Repr

/-- A format byte taken apart. -/
structure Fmt where
  elem  : Elem
  scale : Scale
  l2    : Bool
  deriving DecidableEq, Repr

def Elem.ofCode : Nat → Option Elem
  | 0 => some .fp32 | 1 => some .bf16 | 2 => some .e4m3 | 3 => some .e5m2 | 4 => some .e2m3 | 5 => some .e3m2
  | 6 => some .e2m1 | 7 => some .int8 | 8 => some .int4 | 9 => some .int3 | 10 => some .fp3 | 11 => some .trn
  | 12 => some .q2 | _ => none

def Scale.ofCode : Nat → Scale
  | 0 => .none | 1 => .b32 | 2 => .b16 | _ => .row

/-- The combinations R29 accepts. -/
def Fmt.legal (f : Fmt) : Bool :=
  (match f.elem with
   | .fp32 | .bf16 => f.scale = .none
   | .e4m3 | .e5m2 => true
   | _ => f.scale ≠ .none) &&
  (!f.l2 || f.scale = .b32 || f.scale = .b16)

/-- A format byte read under R28 and R29; none where the engine does not accept it. (DESIGN CHOICE: log entry 117) -/
def Fmt.ofByte (b : Nat) : Option Fmt :=
  if bit b 7 then none
  else match Elem.ofCode (bits b 3 0) with
    | none => none
    | some e =>
      let f : Fmt := ⟨e, Scale.ofCode (bits b 5 4), bit b 6⟩
      if f.legal then some f else none

/-- FP32 or BF16 with SCALE 0b00. -/
def Fmt.isFloat (f : Fmt) : Bool := (f.elem = .fp32 || f.elem = .bf16) && f.scale = .none && !f.l2

/-- Whether an operand of the format has an aux vector (R122). -/
def Fmt.hasAux (f : Fmt) : Bool := f.scale = .row || f.l2

/-! ### Elements (R30 to R33) -/

/-- Element width in bits; 0 for TRN, which packs five trits a byte. -/
def Elem.width : Elem → Nat
  | .fp32 => 32 | .bf16 => 16 | .e4m3 => 8 | .e5m2 => 8 | .e2m3 => 6 | .e3m2 => 6 | .e2m1 => 4 | .int8 => 8 | .int4 => 4
  | .int3 => 3 | .fp3 => 3 | .trn => 0 | .q2 => 2

/-- The small floating formats. -/
def Elem.float : Elem → Option FloatFmt
  | .fp32 => some fp32Fmt
  | .bf16 => some bf16Fmt
  | .e4m3 => some ⟨3, 7, 0x7e⟩
  | .e5m2 => some ⟨2, 15, 0x7b⟩
  | .e2m3 => some ⟨3, 1, 0x1f⟩
  | .e3m2 => some ⟨2, 3, 0x1f⟩
  | .e2m1 => some ⟨1, 1, 0x7⟩
  | .fp3 => some ⟨0, 1, 0x3⟩
  | _ => none

/-- The exponent of an integer format's unit, and its largest produced magnitude in units (R31). -/
def Elem.int : Elem → Option (Int × Nat)
  | .int8 => some (-6, 127)
  | .int4 => some (0, 7)
  | .int3 => some (0, 3)
  | _ => none

/-- The value of an element code. A TRN code is a trit. -/
def Elem.decode (e : Elem) (c : Nat) : Val :=
  match e with
  | .fp32 => Val.ofF32 (BitVec.ofNat 32 c)
  | .bf16 => Val.ofF32 (BitVec.ofNat 32 (c * 65536))
  | .trn => if c = 0 then .zero false else .fin (c = 2) 1 0
  | .q2 => let n : Int := 2 * (c : Int) - 3; .fin (n < 0) n.natAbs (-1)
  | .int8 | .int4 | .int3 =>
    let x := toSigned e.width c
    let u : Int := match e.int with | some (u, _) => u | none => 0
    Val.ofInt x u false
  | .e4m3 | .e5m2 | .e2m3 | .e3m2 | .e2m1 | .fp3 =>
    match e.float with
    | none => .nan
    | some f =>
      let neg := bit c (e.width - 1)
      let mag := c % 2 ^ (e.width - 1)
      if mag ≤ f.maxMag then let (m, x) := f.magOf mag; .fin neg m x
      else if e = .e5m2 && mag = 0x7c then .inf neg
      else .nan

/-- The weight of the least nonzero magnitude, as an exponent of two (R42). -/
def Elem.qExp : Elem → Int
  | .fp32 => -149 | .bf16 => -133 | .e4m3 => -9 | .e5m2 => -16 | .e2m3 => -3 | .e3m2 => -4 | .e2m1 => -1 | .int8 => -6
  | .int4 => 0 | .int3 => 0 | .fp3 => 0 | .trn => 0 | .q2 => -1

/-- The largest produced magnitude M_c as (significand, exponent) (the table before R55). -/
def Elem.maxMag : Elem → Nat × Int
  | .e4m3 => (448, 0) | .e5m2 => (57344, 0) | .e2m3 => (15, -1) | .e3m2 => (28, 0) | .e2m1 => (6, 0) | .int8 => (127, -6)
  | .int4 => (7, 0) | .int3 => (3, 0) | .fp3 => (4, 0) | .trn => (1, 0) | .q2 => (3, -1)
  | .fp32 => (0, 0) | .bf16 => (0, 0)

/-! ### Rows in memory (R35 to R39, R123) -/

/-- The block length of a scaled format; 0 for dense formats. -/
def Fmt.blockLen (f : Fmt) : Nat := match f.scale with | .b32 => 32 | .b16 => 16 | _ => 0

/-- Bytes of one block (R32, R38). -/
def Fmt.blockBytes (f : Fmt) : Nat :=
  if f.elem = .trn then (if f.scale = .b32 then 7 else 4) else f.blockLen * f.elem.width / 8

/-- Bytes of one burst (R37). -/
def Fmt.burstBytes (f : Fmt) : Nat := 8 + 8 * f.blockBytes

/-- Row bytes of a row of k elements (R39, R123). -/
def Fmt.rowBytes (f : Fmt) (k : Nat) : Nat :=
  if f.blockLen ≠ 0 then ceilDiv (ceilDiv k f.blockLen) 8 * f.burstBytes
  else if f.elem = .trn then ceilDiv k 5
  else ceilDiv (k * f.elem.width) 8

/-- Bytes of aux vector that one row takes: one FP32 scale, or one second-level scale per 16 blocks (R123). -/
def Fmt.auxRowBytes (f : Fmt) (k : Nat) : Nat :=
  if f.scale = .row then 4
  else if f.l2 then ceilDiv (ceilDiv k f.blockLen) 16
  else 0

/-- One decoded element: its own value, the product of its block's scales, whether it is poisoned, and the exponent of its block's
first-level E8M0 scale, where the block has one and it is no NaN. -/
structure DElem where
  v      : Val
  scale  : Val
  poison : Bool
  exp    : Option Int
  deriving DecidableEq, Repr

/-- An element of a poisoned block. -/
def DElem.bad (exp : Option Int) : DElem := ⟨.nan, .fin false 1 0, true, exp⟩
def DElem.nan : DElem := .bad none

/-- The decoded value of R40: element times effective scale, NaN when poisoned. -/
def DElem.value (x : DElem) : Val := if x.poison then .nan else x.v.mul x.scale

/-- The n element codes of width w in a little-endian bit string (R38). -/
def unpackCodes (w : Nat) : Nat → Nat → List Nat
  | 0, _ => []
  | n + 1, x => x % 2 ^ w :: unpackCodes w n (x / 2 ^ w)

/-- The five trits of a TRN byte (R32). -/
def tritsOf (v : Nat) : List Nat := [v % 3, v / 3 % 3, v / 9 % 3, v / 27 % 3, v / 81 % 3]

/-- The element values of one block; none when an invalid TRN byte poisons it. -/
def Fmt.blockVals (f : Fmt) (bs : List Byte) (n : Nat) : Option (List Val) :=
  if f.elem = .trn then
    if bs.any (fun b => decide (243 ≤ b.toNat)) then none
    else some (((bs.flatMap (fun b => tritsOf b.toNat)).take n).map Elem.trn.decode)
  else some ((unpackCodes f.elem.width n (leNat bs)).map f.elem.decode)

/-- A first-level scale byte (R34). -/
def Fmt.scaleVal (f : Fmt) (b : Byte) : Val :=
  match f.scale with
  | .b32 => if b = 0xff then .nan else .fin false 1 ((b.toNat : Int) - 127)
  | _ => Elem.e4m3.decode b.toNat

/-- The exponent of an E8M0 scale byte; none for its NaN and for the other scales. -/
def Fmt.scaleExp (f : Fmt) (b : Byte) : Option Int := if f.scale = .b32 && b ≠ 0xff then some ((b.toNat : Int) - 127) else none

/-- The bytes at an offset of a byte string, padded with zeros where it is too short. -/
def bytesAt (bs : List Byte) (off n : Nat) : List Byte :=
  let l := (bs.drop off).take n
  l ++ List.replicate (n - l.length) 0

/-- The k elements of a scaled row, from its bytes and its second-level scale bytes (R35 to R40). `fuel` counts blocks. -/
def Fmt.decodeBlocks (f : Fmt) (row aux : List Byte) (k : Nat) : Nat → Nat → List DElem
  | 0, _ => []
  | fuel + 1, b =>
    let first := b * f.blockLen
    if k ≤ first then []
    else
      let n := min f.blockLen (k - first)
      let base := b / 8 * f.burstBytes
      let sb := (bytesAt row (base + b % 8) 1).headD 0
      let s1 := f.scaleVal sb
      let ex := f.scaleExp sb
      let s2 := if f.l2 then Elem.e4m3.decode (leAt aux (b / 16) 1) else .fin false 1 0
      let here : List DElem :=
        match f.blockVals (bytesAt row (base + 8 + b % 8 * f.blockBytes) f.blockBytes) n with
        | none => List.replicate n (.bad ex)
        | some vs => if s1.isNan || s2.isNan then List.replicate n (.bad ex) else vs.map (fun v => ⟨v, s1.mul s2, false, ex⟩)
      here ++ f.decodeBlocks row aux k fuel (b + 1)

/-- The k elements of one row. For a dense row `aux` holds the FP32 ROW scale, when the format has one. -/
def Fmt.decodeRow (f : Fmt) (row aux : List Byte) (k : Nat) : List DElem :=
  if f.blockLen ≠ 0 then f.decodeBlocks row aux k (ceilDiv k f.blockLen) 0
  else
    let s : Val := if f.scale = .row then Val.ofF32 (BitVec.ofNat 32 (leAt aux 0 4)) else .fin false 1 0
    if f.elem = .trn then
      ((row.flatMap (fun b => if 243 ≤ b.toNat then List.replicate 5 DElem.nan
          else (tritsOf b.toNat).map (fun t => (⟨Elem.trn.decode t, s, false, none⟩ : DElem)))).take k)
    else (unpackCodes f.elem.width k (leNat row)).map (fun c => ⟨f.elem.decode c, s, false, none⟩)

/-- One row decoded to FP32 with the flags of that rounding (R54; R62: exact but for overflow and the subnormal grid). An unscaled FP32 or
BF16 element keeps its bits, those of a NaN too. (DESIGN CHOICE: log entries 116, 120) -/
def Fmt.rowF32 (f : Fmt) (row aux : List Byte) (k : Nat) : List (Flagged W32) :=
  if f.isFloat then
    (unpackCodes f.elem.width k (leNat row)).map (fun c => (BitVec.ofNat 32 (if f.elem = .bf16 then c * 65536 else c), 0))
  else (f.decodeRow row aux k).map (fun x => x.value.toF32)

/-! ### Conversions (R51 to R58) -/

/-- A magnitude (n / d) × 2^e converted to an element format, with a sign: the element code and the flags SAT and UNF.
(DESIGN CHOICE: log entry 121) -/
def Elem.encodeMag (el : Elem) (mode : RMode) (neg : Bool) (n d : Nat) (e : Int) : Nat × Flags :=
  match el with
  | .trn =>
    let u := roundUnits mode true 0 n d e 0
    let c := min u 1
    (if c = 0 then 0 else if neg then 2 else 1,
     (if 1 < u then Flags.sat else 0) ||| (if n ≠ 0 && u = 0 then Flags.unf else 0))
  | .q2 =>
    let N := if 0 ≤ e then n <<< e.toNat else n
    let D := if 0 ≤ e then d else d <<< (-e).toNat
    let u := if 2 * N < D then 0 else roundUnits mode true 0 (2 * N - D) (2 * D) 0 0
    let c := 2 + min u 1
    (if neg then 3 - c else c, if 1 < u then Flags.sat else 0)
  | .int8 | .int4 | .int3 =>
    let (q, top) : Int × Nat := match el.int with | some x => x | none => (0, 0)
    let u := roundUnits mode false 0 n d e q
    let c := min u top
    (if neg then (2 ^ el.width - c) % 2 ^ el.width else c,
     (if top < u then Flags.sat else 0) ||| (if n ≠ 0 && u = 0 then Flags.unf else 0))
  | _ =>
    match el.float with
    | none => (0, 0)
    | some f =>
      let u := if n = 0 then 0 else f.roundCode mode n d e
      let c := min u f.maxMag
      let sign := if neg then 2 ^ (el.width - 1) else 0
      let wide : Bool := decide (el = .fp32) || decide (el = .bf16)
      if f.maxMag < u && wide then (sign + f.maxMag + 1, Flags.ovf)
      else (sign + c, (if f.maxMag < u then Flags.sat else 0) |||
                      (if n ≠ 0 && decide (u < 2 ^ f.mant) then Flags.unf else 0))

/-- The canonical NaN of a floating format (R53). -/
def Elem.nanCode : Elem → Nat
  | .fp32 => 0x7FC00000
  | .bf16 => 0x7FC0
  | _ => 0x7F

/-- One FP32 value divided by a scale and converted, for the formats and values that R53 gives an encoding of their own. -/
def Elem.encode (el : Elem) (mode : RMode) (x : Val) (sm : Nat) (se : Int) : Nat × Flags :=
  match x with
  | .nan => (el.nanCode, 0)
  | .inf neg =>
    match el with
    | .fp32 => (if neg then 0xFF800000 else 0x7F800000, 0)
    | .bf16 => (if neg then 0xFF80 else 0x7F80, 0)
    | .e5m2 => (if neg then 0xFC else 0x7C, 0)
    | _ => (el.nanCode, Flags.inv)
  | .fin neg m e => el.encodeMag mode neg m sm (e - se)

/-- Whether an element format can hold a value as R53 gives it (the second case of R57). -/
def Elem.holds (el : Elem) (x : Val) : Bool :=
  match el with
  | .fp32 | .bf16 | .e5m2 | .e4m3 => true
  | _ => !x.isNan && !x.isInf

/-- The greater of two finite magnitudes, as (significand, exponent). -/
def maxAbs (a b : Nat × Int) : Nat × Int :=
  let q := min a.2 b.2
  if a.1 <<< (a.2 - q).toNat < b.1 <<< (b.2 - q).toNat then b else a

/-- The largest magnitude among the finite values of a block. -/
def amaxOf : List Val → Nat × Int
  | [] => (0, 0)
  | .fin _ m e :: r => maxAbs (m, e) (amaxOf r)
  | _ :: r => amaxOf r

/-- The first-level scale a conversion writes for a nonzero amax: its byte and its value (R55, R56). -/
def Fmt.chooseScale (f : Fmt) (am : Nat × Int) : Nat × Nat × Int :=
  let (mm, me) := f.elem.maxMag
  match f.scale with
  | .b32 =>
    let t := topExp am.1 mm (am.2 - me)
    let (w, r, _) := inUnits am.1 mm (am.2 - me) t
    let e := max (-127) (min 127 (if w = 1 && r = 0 then t else t + 1))
    ((e + 127).toNat, 1, e)
  | _ =>
    let g : FloatFmt := ⟨3, 7, 0x7e⟩
    let q := max (topExp am.1 mm (am.2 - me) - 3) g.qmin
    let (w, r, _) := inUnits am.1 mm (am.2 - me) q
    let c := min ((q - g.qmin).toNat * 8 + (if r = 0 then w else w + 1)) g.maxMag
    let (m, e) := g.magOf c
    (c, m, e)

/-- One block converted: the scale byte, the element codes and the flags. The modes give one rounding mode per element. -/
def Fmt.encodeBlock (f : Fmt) (vals : List Val) (modes : List RMode) : Nat × List Nat × Flags :=
  let zeroCode := if f.elem = .q2 then 2 else 0
  if vals.any (fun v => !f.elem.holds v) then
    ((if f.scale = .b32 then 0xff else 0x7f), vals.map (fun _ => zeroCode), Flags.poi)
  else
    let am := amaxOf vals
    if am.1 = 0 then
      let es := vals.map (fun v => if v.isNan || v.isInf then f.elem.encode .rne v 1 0 else (zeroCode, 0))
      (0, es.map (·.1), Flags.join (es.map (·.2)))
    else
      let (b, m, e) := f.chooseScale am
      let es := (vals.zip modes).map (fun (v, md) => f.elem.encode md v m e)
      (b, es.map (·.1), Flags.join (es.map (·.2)))

/-- Element codes packed into n bytes (R32, R38). -/
def packTrits : List Nat → List Nat
  | [] => []
  | [a] => [a]
  | [a, b] => [a + 3 * b]
  | [a, b, c] => [a + 3 * b + 9 * c]
  | [a, b, c, d] => [a + 3 * b + 9 * c + 27 * d]
  | a :: b :: c :: d :: e :: r => (a + 3 * b + 9 * c + 27 * d + 81 * e) :: packTrits r

def packCodes (w : Nat) : List Nat → Nat
  | [] => 0
  | c :: r => c + 2 ^ w * packCodes w r

def Elem.pack (e : Elem) (codes : List Nat) (n : Nat) : List Byte :=
  if e = .trn then bytesAt ((packTrits codes).map (BitVec.ofNat 8)) 0 n
  else leBytes n (packCodes e.width codes)

/-- The blocks of a row as (scale byte, block bytes) with the flags, in order. `fuel` counts blocks. -/
def Fmt.encodeBlocks (f : Fmt) : Nat → List Val → List RMode → List (Byte × List Byte) × Flags
  | 0, _, _ => ([], 0)
  | fuel + 1, vals, modes =>
    if vals.isEmpty then ([], 0)
    else
      let (b, cs, fl) := f.encodeBlock (vals.take f.blockLen) (modes.take f.blockLen)
      let (r, fr) := f.encodeBlocks fuel (vals.drop f.blockLen) (modes.drop f.blockLen)
      ((BitVec.ofNat 8 b, f.elem.pack cs f.blockBytes) :: r, fl ||| fr)

/-- Blocks laid out in bursts, the last burst filled with zero bytes (R37, R39). `fuel` counts bursts. -/
def Fmt.bursts (f : Fmt) : Nat → List (Byte × List Byte) → List Byte
  | 0, _ => []
  | fuel + 1, l =>
    let here := l.take 8
    let head := bytesAt (here.map (·.1)) 0 8
    let body := bytesAt (here.flatMap (·.2)) 0 (8 * f.blockBytes)
    head ++ body ++ f.bursts fuel (l.drop 8)

/-- A row of values converted to a format without ROW scale and without a second level: its row bytes and the flags. -/
def Fmt.encodeRow (f : Fmt) (vals : List Val) (modes : List RMode) : List Byte × Flags :=
  if f.blockLen ≠ 0 then
    let nb := ceilDiv vals.length f.blockLen
    let (bs, fl) := f.encodeBlocks nb vals modes
    (f.bursts (ceilDiv nb 8) bs, fl)
  else
    let es := (vals.zip modes).map (fun (v, md) => f.elem.encode md v 1 0)
    (f.elem.pack (es.map (·.1)) (f.rowBytes vals.length), Flags.join (es.map (·.2)))

/-! ### Block dots (R41 to R46, R60, R61) -/

/-- The block dot length of R41; 0 stands for the rule of dense pairs. -/
def dotLen (fa fb : Fmt) : Nat :=
  if fa.scale = .b16 || fb.scale = .b16 then 16
  else if fa.elem = .bf16 || fb.elem = .bf16 then 32
  else if fa.scale = .b32 || fb.scale = .b32 then 32
  else 65536

/-- The value of a factor for the flags of R44: a ROW scale takes no part. -/
def DElem.factor (row : Bool) (x : DElem) : Val :=
  if x.poison then .nan else if row then x.v else x.v.mul x.scale

/-- An exact integer count of units 2^q, truncated toward zero. (DEDUCED: log entry 16) -/
def truncUnits (v : Val) (q : Int) : Int :=
  match v with
  | .fin neg m e =>
    let (w, _, _) := inUnits m 1 e q
    if neg then -(w : Int) else w
  | _ => 0

/-- The largest exponent among nonzero products. (DEDUCED: log entry 16) -/
def maxExp : List Val → Option Int
  | [] => none
  | .fin _ m e :: r =>
    if m = 0 then maxExp r
    else match maxExp r with
      | none => some (topExp m 1 e)
      | some x => some (max x (topExp m 1 e))
  | _ :: r => maxExp r

/-- The exact sum of finite products in units of 2^q (R42, R43). (DEDUCED: log entry 16) -/
def sumUnits (q : Int) : List Val → Int
  | [] => 0
  | v :: r => truncUnits v q + sumUnits q r

/-- The least exponent among finite products, so that a sum in its units is exact. -/
def minExp : List Val → Int
  | [] => 0
  | .fin _ _ e :: r => min e (minExp r)
  | _ :: r => minExp r

/-- One block dot from its products, each with its pair of factors (R44), and the scales it is multiplied by (R45).
(DESIGN CHOICE: log entries 119, 120) -/
def dotOf (bf : Bool) (products : List Val) (factors : List (Val × Val)) (sa sb : Val) : Flagged W32 :=
  let decoded := factors.map (fun (a, b) => a.mul b)
  let nanIn := factors.any (fun (a, b) => a.isNan || b.isNan)
  let nan := decoded.any Val.isNan
  let pinf := decoded.any (fun v => v = .inf false)
  let ninf := decoded.any (fun v => v = .inf true)
  if nan || (pinf && ninf) then (nan32, if nanIn then 0 else Flags.inv)
  else if pinf then (0x7F800000, 0)
  else if ninf then (0xFF800000, 0)
  else
    let q : Int := if bf then (match maxExp products with | some e => e - 89 | none => 0) else minExp products
    let total := Val.ofInt (sumUnits q products) q false
    match (total.mul (sa.mul sb)) with
    | .fin n m e => if m = 0 then (0, 0) else (Val.fin n m e).toF32
    | v => v.toF32

/-- The block dots of two rows, ascending (R41). `fuel` counts block dots. -/
def blockDots (len : Nat) (bf rowA rowB : Bool) : Nat → List DElem → List DElem → List (Flagged W32)
  | 0, _, _ => []
  | fuel + 1, a, b =>
    if a.isEmpty || b.isEmpty then []
    else
      let xs := (a.take len).zip (b.take len)
      let scaleOf (row : Bool) (l : List DElem) : Val := if row then .fin false 1 0 else (l.headD DElem.nan).scale
      dotOf bf (xs.map (fun (x, y) => x.v.mul y.v)) (xs.map (fun (x, y) => (x.factor rowA, y.factor rowB)))
        (scaleOf rowA a) (scaleOf rowB b)
        :: blockDots len bf rowA rowB fuel (a.drop len) (b.drop len)

/-- The pairwise sum of block dots with all flags (R46). -/
def sumDots (ds : List (Flagged W32)) : Flagged W32 :=
  let (r, f) := pairwise (ds.map (·.1))
  (r, f ||| Flags.join (ds.map (·.2)))

/-- One multiplication by a ROW scale (R36, R148). -/
def rowScaled (isRow : Bool) (l : List DElem) (r : Flagged W32) : Flagged W32 :=
  match isRow, l with
  | true, x :: _ =>
    let (v, f) := finish32 [.ofF32 r.1, x.scale] (Val.mul (.ofF32 r.1) x.scale)
    (v, r.2 ||| f)
  | _, _ => r

/-- One output element of MMUL (R148): the dots summed, then the ROW scale of dA, then that of dB. -/
def dotRows (fa fb : Fmt) (a b : List DElem) : Flagged W32 :=
  let len := dotLen fa fb
  let bf := decide (fa.elem = .bf16) || decide (fb.elem = .bf16)
  let ds := blockDots len bf (fa.scale = .row) (fb.scale = .row) (ceilDiv a.length len) a b
  rowScaled (fb.scale = .row) b (rowScaled (fa.scale = .row) a (sumDots ds))

/-- One lifted block dot (R60, R61): base and residual products share one exact sum in units of the base block's first-level scale, and
the sum is multiplied by the scales of the base, a second-level scale among them. A residual block whose exponent is out of range
contributes zero and sets POI; a NaN residual scale poisons the dot. -/
def liftDot (rowA : Bool) (xs : List (DElem × DElem × DElem)) : Flagged W32 :=
  match xs with
  | [] => (0, 0)
  | (a0, b0, r0) :: _ =>
    let inRange : Bool := match b0.exp, r0.exp with
      | some eb, some er => decide (1 ≤ eb - er) && decide (eb - er ≤ 32)
      | _, _ => true
    let shift : Int := match b0.exp, r0.exp with | some eb, some er => er - eb | _, _ => 0
    let base := xs.map (fun (a, b, _) => a.v.mul b.v)
    let resid := if inRange then xs.map (fun (a, _, r) => (a.v.mul r.v).mul (.fin false 1 shift)) else []
    let fb := xs.map (fun (a, b, _) => (a.factor rowA, b.factor false))
    let fr := if inRange then xs.map (fun (a, _, r) => (a.factor rowA, r.factor false)) else []
    let (v, f) := dotOf false (base ++ resid) (fb ++ fr) (if rowA then .fin false 1 0 else a0.scale) b0.scale
    (v, f ||| (if inRange then 0 else Flags.poi))

/-- The lifted block dots of one output element. `fuel` counts block dots. -/
def liftDots (len : Nat) (rowA : Bool) : Nat → List (DElem × DElem × DElem) → List (Flagged W32)
  | 0, _ => []
  | fuel + 1, xs => if xs.isEmpty then [] else liftDot rowA (xs.take len) :: liftDots len rowA fuel (xs.drop len)

/-- One output element of MMUL.LIFT (R149). -/
def liftRows (fa fb : Fmt) (a b r : List DElem) : Flagged W32 :=
  let len := dotLen fa fb
  let xs := a.zip (b.zip r)
  rowScaled (fa.scale = .row) a (sumDots (liftDots len (fa.scale = .row) (ceilDiv a.length len) xs))

end Sys2Proof.Machine
end

