-- ==== Sys2Proof/Machine/Scalar.lean ====
section
/-! DEFINITION. The scalar instructions: arithmetic, predicates, branches, loads and stores, address registers, descriptor
set-up and system instructions (R113 to R134, R167). Each issues under R78 and retires or faults. -/
namespace Sys2Proof.Machine

/-! ### Shared shapes -/

/-- A task's registers changed by a function. -/
def State.onTask (s : State) (t : TaskRef) (f : Task → Task) : State :=
  s.setTask t.tile t.cru t.task (f (s.task t.tile t.cru t.task))

/-- An instruction that changes only its task's registers and retires. -/
def State.scalarStep (s : State) (t : TaskRef) (ill : Bool) (pred : BitVec 3) (uses : List (BitVec 5)) (f : Task → Task) : State :=
  s.issue t ⟨4, ill, pred, uses⟩ (fun s => (s.onTask t f).retire t 4)

/-- rd := f rs1 rs2 (R128). -/
def State.aluReg (s : State) (t : TaskRef) (pred : BitVec 3) (rd rs1 rs2 : BitVec 5) (f : W32 → W32 → W32) : State :=
  s.scalarStep t false pred [rd, rs1, rs2] (fun x => x.setRs rd (f (x.rs rs1) (x.rs rs2)))

/-- rd := f rs1 imm (R129). -/
def State.aluImm (s : State) (t : TaskRef) (ill : Bool) (pred : BitVec 3) (rd rs1 : BitVec 5) (f : W32 → W32) : State :=
  s.scalarStep t ill pred [rd, rs1] (fun x => x.setRs rd (f (x.rs rs1)))

/-- p[rd] := f rs1 rs2; rd names a predicate (R128). -/
def State.compare (s : State) (t : TaskRef) (pred : BitVec 3) (rd rs1 rs2 : BitVec 5) (f : W32 → W32 → Bool) : State :=
  s.scalarStep t (!predField rd) pred [rs1, rs2] (fun x => x.setRp (rd.setWidth 3) (f (x.rs rs1) (x.rs rs2)))

/-- p[rd] := f p[rs1] p[rs2] (R128). -/
def State.predLogic (s : State) (t : TaskRef) (pred : BitVec 3) (rd rs1 rs2 : BitVec 5) (f : Bool → Bool → Bool) : State :=
  s.scalarStep t (!(predField rd && predField rs1 && predField rs2)) pred []
    (fun x => x.setRp (rd.setWidth 3) (f (x.rp (rs1.setWidth 3)) (x.rp (rs2.setWidth 3))))

/-- A shift amount of an immediate shift. -/
def shiftOf (imm : BitVec 12) : Nat := imm.toNat % 32

/-- High 32 bits of the unsigned product. -/
def mulHigh (a b : W32) : W32 := BitVec.ofNat 32 (a.toNat * b.toNat / 2 ^ 32)

/-! ### Register operands (R128) -/

/-- rd := rs1 + rs2 modulo 2^32 (R128). -/
def execAdd (t : TaskRef) (pred : BitVec 3) (rd rs1 rs2 : BitVec 5) (s : State) : Out State :=
  .next (s.aluReg t pred rd rs1 rs2 (fun a b => a + b))

/-- rd := rs1 − rs2 modulo 2^32 (R128). -/
def execSub (t : TaskRef) (pred : BitVec 3) (rd rs1 rs2 : BitVec 5) (s : State) : Out State :=
  .next (s.aluReg t pred rd rs1 rs2 (fun a b => a - b))

/-- rd := rs1 and rs2 (R128). -/
def execAnd (t : TaskRef) (pred : BitVec 3) (rd rs1 rs2 : BitVec 5) (s : State) : Out State :=
  .next (s.aluReg t pred rd rs1 rs2 (fun a b => a &&& b))

/-- rd := rs1 or rs2 (R128). -/
def execOr (t : TaskRef) (pred : BitVec 3) (rd rs1 rs2 : BitVec 5) (s : State) : Out State :=
  .next (s.aluReg t pred rd rs1 rs2 (fun a b => a ||| b))

/-- rd := rs1 exclusive or rs2 (R128). -/
def execXor (t : TaskRef) (pred : BitVec 3) (rd rs1 rs2 : BitVec 5) (s : State) : Out State :=
  .next (s.aluReg t pred rd rs1 rs2 (fun a b => a ^^^ b))

/-- rd := rs1 shifted left by rs2[4:0] (R128). -/
def execSll (t : TaskRef) (pred : BitVec 3) (rd rs1 rs2 : BitVec 5) (s : State) : Out State :=
  .next (s.aluReg t pred rd rs1 rs2 (fun a b => a <<< (b.toNat % 32)))

/-- rd := rs1 shifted right by rs2[4:0] (R128). -/
def execSrl (t : TaskRef) (pred : BitVec 3) (rd rs1 rs2 : BitVec 5) (s : State) : Out State :=
  .next (s.aluReg t pred rd rs1 rs2 (fun a b => a >>> (b.toNat % 32)))

/-- rd := rs1 shifted right by rs2[4:0], sign kept (R128). -/
def execSra (t : TaskRef) (pred : BitVec 3) (rd rs1 rs2 : BitVec 5) (s : State) : Out State :=
  .next (s.aluReg t pred rd rs1 rs2 (fun a b => a.sshiftRight (b.toNat % 32)))

/-- rd := low 32 bits of the product (R128). -/
def execMul (t : TaskRef) (pred : BitVec 3) (rd rs1 rs2 : BitVec 5) (s : State) : Out State :=
  .next (s.aluReg t pred rd rs1 rs2 (fun a b => a * b))

/-- rd := high 32 bits of the unsigned product (R128). -/
def execMulhu (t : TaskRef) (pred : BitVec 3) (rd rs1 rs2 : BitVec 5) (s : State) : Out State :=
  .next (s.aluReg t pred rd rs1 rs2 (fun a b => mulHigh a b))

/-- signed minimum (R128). -/
def execMin (t : TaskRef) (pred : BitVec 3) (rd rs1 rs2 : BitVec 5) (s : State) : Out State :=
  .next (s.aluReg t pred rd rs1 rs2 (fun a b => if a.slt b then a else b))

/-- signed maximum (R128). -/
def execMax (t : TaskRef) (pred : BitVec 3) (rd rs1 rs2 : BitVec 5) (s : State) : Out State :=
  .next (s.aluReg t pred rd rs1 rs2 (fun a b => if a.slt b then b else a))

/-- unsigned minimum (R128). -/
def execMinu (t : TaskRef) (pred : BitVec 3) (rd rs1 rs2 : BitVec 5) (s : State) : Out State :=
  .next (s.aluReg t pred rd rs1 rs2 (fun a b => if a.ult b then a else b))

/-- unsigned maximum (R128). -/
def execMaxu (t : TaskRef) (pred : BitVec 3) (rd rs1 rs2 : BitVec 5) (s : State) : Out State :=
  .next (s.aluReg t pred rd rs1 rs2 (fun a b => if a.ult b then b else a))

/-- p[rd] := the comparison its name gives (R128). -/
def execCeq (t : TaskRef) (pred : BitVec 3) (rd rs1 rs2 : BitVec 5) (s : State) : Out State :=
  .next (s.compare t pred rd rs1 rs2 (fun a b => decide (a = b)))

/-- p[rd] := the comparison its name gives (R128). -/
def execCne (t : TaskRef) (pred : BitVec 3) (rd rs1 rs2 : BitVec 5) (s : State) : Out State :=
  .next (s.compare t pred rd rs1 rs2 (fun a b => decide (a ≠ b)))

/-- p[rd] := the comparison its name gives (R128). -/
def execClt (t : TaskRef) (pred : BitVec 3) (rd rs1 rs2 : BitVec 5) (s : State) : Out State :=
  .next (s.compare t pred rd rs1 rs2 (fun a b => a.slt b))

/-- p[rd] := the comparison its name gives (R128). -/
def execCge (t : TaskRef) (pred : BitVec 3) (rd rs1 rs2 : BitVec 5) (s : State) : Out State :=
  .next (s.compare t pred rd rs1 rs2 (fun a b => !a.slt b))

/-- p[rd] := the comparison its name gives (R128). -/
def execCltu (t : TaskRef) (pred : BitVec 3) (rd rs1 rs2 : BitVec 5) (s : State) : Out State :=
  .next (s.compare t pred rd rs1 rs2 (fun a b => a.ult b))

/-- p[rd] := the comparison its name gives (R128). -/
def execCgeu (t : TaskRef) (pred : BitVec 3) (rd rs1 rs2 : BitVec 5) (s : State) : Out State :=
  .next (s.compare t pred rd rs1 rs2 (fun a b => !a.ult b))

/-- Predicate logic (R128). -/
def execPand (t : TaskRef) (pred : BitVec 3) (rd rs1 rs2 : BitVec 5) (s : State) : Out State :=
  .next (s.predLogic t pred rd rs1 rs2 (fun a b => a && b))

/-- Predicate logic (R128). -/
def execPor (t : TaskRef) (pred : BitVec 3) (rd rs1 rs2 : BitVec 5) (s : State) : Out State :=
  .next (s.predLogic t pred rd rs1 rs2 (fun a b => a || b))

/-- Predicate logic (R128). -/
def execPxor (t : TaskRef) (pred : BitVec 3) (rd rs1 rs2 : BitVec 5) (s : State) : Out State :=
  .next (s.predLogic t pred rd rs1 rs2 (fun a b => a != b))

/-- Predicate logic (R128). -/
def execPandn (t : TaskRef) (pred : BitVec 3) (rd rs1 rs2 : BitVec 5) (s : State) : Out State :=
  .next (s.predLogic t pred rd rs1 rs2 (fun a b => a && !b))

/-! ### Immediate operands (R129) -/

/-- rd := rs1 combined with IMM12, sign-extended (R129). -/
def execAddi (t : TaskRef) (pred : BitVec 3) (rd rs1 : BitVec 5) (imm : BitVec 12) (s : State) : Out State :=
  .next (s.aluImm t (false) pred rd rs1 (fun a => a + imm.signExtend 32))

/-- rd := rs1 combined with IMM12, zero-extended (R129). -/
def execAndi (t : TaskRef) (pred : BitVec 3) (rd rs1 : BitVec 5) (imm : BitVec 12) (s : State) : Out State :=
  .next (s.aluImm t (false) pred rd rs1 (fun a => a &&& imm.setWidth 32))

/-- rd := rs1 combined with IMM12, zero-extended (R129). -/
def execOri (t : TaskRef) (pred : BitVec 3) (rd rs1 : BitVec 5) (imm : BitVec 12) (s : State) : Out State :=
  .next (s.aluImm t (false) pred rd rs1 (fun a => a ||| imm.setWidth 32))

/-- rd := rs1 combined with IMM12, zero-extended (R129). -/
def execXori (t : TaskRef) (pred : BitVec 3) (rd rs1 : BitVec 5) (imm : BitVec 12) (s : State) : Out State :=
  .next (s.aluImm t (false) pred rd rs1 (fun a => a ^^^ imm.setWidth 32))

/-- rd := rs1 combined with IMM12, [4:0] (R129). -/
def execSlli (t : TaskRef) (pred : BitVec 3) (rd rs1 : BitVec 5) (imm : BitVec 12) (s : State) : Out State :=
  .next (s.aluImm t (decide (32 ≤ imm.toNat)) pred rd rs1 (fun a => a <<< shiftOf imm))

/-- rd := rs1 combined with IMM12, [4:0] (R129). -/
def execSrli (t : TaskRef) (pred : BitVec 3) (rd rs1 : BitVec 5) (imm : BitVec 12) (s : State) : Out State :=
  .next (s.aluImm t (decide (32 ≤ imm.toNat)) pred rd rs1 (fun a => a >>> shiftOf imm))

/-- rd := rs1 combined with IMM12, [4:0] (R129). -/
def execSrai (t : TaskRef) (pred : BitVec 3) (rd rs1 : BitVec 5) (imm : BitVec 12) (s : State) : Out State :=
  .next (s.aluImm t (decide (32 ≤ imm.toNat)) pred rd rs1 (fun a => a.sshiftRight (shiftOf imm)))

/-- p[rd] := signed rs1 below sign-extended IMM12 (R129). -/
def execClti (t : TaskRef) (pred : BitVec 3) (rd rs1 : BitVec 5) (imm : BitVec 12) (s : State) : Out State :=
  .next (s.scalarStep t (!predField rd) pred [rs1] (fun x => x.setRp (rd.setWidth 3) ((x.rs rs1).slt (imm.signExtend 32))))

/-- rd := IMM20 shifted left by 12 (R129). -/
def execLui (t : TaskRef) (pred : BitVec 3) (rd : BitVec 5) (imm : BitVec 20) (s : State) : Out State :=
  .next (s.scalarStep t false pred [rd] (fun x => x.setRs rd (imm.setWidth 32 <<< 12)))

/-! ### Branches (R131) -/

/-- A word offset from a program counter. -/
def pcPlus {n : Nat} (pc : Addr) (imm : BitVec n) : Addr := pc + imm.signExtend 48 * 4

/-- PC := PC + IMM22 × 4. A target that breaks alignment faults at the target (R131). -/
def execBr (t : TaskRef) (pred : BitVec 3) (imm : BitVec 22) (s : State) : Out State :=
  .next (s.issue t ⟨4, false, pred, []⟩ (fun s => s.goTo t (pcPlus (s.task t.tile t.cru t.task).pc imm)))

/-- aD := PC + 4; PC := PC + IMM18 × 4 (R131). -/
def execJal (t : TaskRef) (pred : BitVec 3) (aD : BitVec 4) (imm : BitVec 18) (s : State) : Out State :=
  .next (s.issue t ⟨4, false, pred, []⟩ (fun s =>
    let pc := (s.task t.tile t.cru t.task).pc
    (s.onTask t (fun x => x.setRa aD (pc + 4))).goTo t (pcPlus pc imm)))

/-- PC := aS (R131). -/
def execJr (t : TaskRef) (pred : BitVec 3) (aS : BitVec 4) (s : State) : Out State :=
  .next (s.issue t ⟨4, false, pred, []⟩ (fun s => s.goTo t ((s.task t.tile t.cru t.task).ra aS)))

/-! ### Scalar loads and stores (R66, R132) -/

/-- The address of a scalar access. -/
def Task.scalarAddr (x : Task) (aA : BitVec 4) (imm : BitVec 12) : Addr := x.ra aA + imm.signExtend 48

/-- The checks of a scalar access in the order of R623: MISALIGN, then the segment checks of its one range. -/
def State.scalarCheck (s : State) (t : TaskRef) (a : Addr) (n : Nat) (k : AccKind) : Option Nat :=
  if a.toNat % n ≠ 0 then some fMisalign else s.segCheck t a n k nearSpace

/-- Whether the memory a crucible access names can be reached now; a peat layer that is not ON makes the access wait (R181). -/
def State.nearReady (s : State) (tile cru : Nat) (peat : Bool) (off n : Nat) : Bool :=
  if peat then s.peatOn tile off n else s.poolOn tile cru
/-- The same for a write. One to peat can make another entry of the gathering buffer flush (R183), which waits for that entry's layer. -/
def State.nearWritable (s : State) (tile cru : Nat) (peat : Bool) (off n : Nat) : Bool :=
  s.nearReady tile cru peat off n && (!peat || s.gbReady tile cru)

/-- The UNIT of a scalar access's fault (R96): the scalar core for the segment checks its row of the table names it for (DEDUCED).
(DEDUCED: log entry 19) -/
def scalarUnit (code : Nat) : Nat := if code = fSegBound ∨ code = fSegPerm ∨ code = fSegInvalid then 1 else 0

/-- A scalar access after its checks: the scoreboard (R83, R85), then the access itself. -/
def State.scalarAccess (s : State) (t : TaskRef) (a : Addr) (n : Nat) (k : AccKind) (go : State → Bool → Nat → State) : State :=
  match s.scalarCheck t a n k with
  | some code =>
    let x := s.task t.tile t.cru t.task
    s.taskFault t ⟨code, scalarUnit code, a, x.pc, x.seq, 0⟩
  | none =>
    let (sp, off) := s.physOf t a
    let peat : Bool := sp = spPeat
    let r : Range := ⟨peat, off, off + n, decide (k = .write)⟩
    if (s.cru t.tile t.cru).conflicts r then s.waitFor t .sb (some (.ranges [r] none)) else go s peat off

/-- The load is issued; its data comes with SCALAR_LOAD_RETURN. -/
def execScalarLoad (t : TaskRef) (pred : BitVec 3) (sD : BitVec 5) (aA : BitVec 4) (size : BitVec 2) (sx : Bool) (imm : BitVec 12)
    (s : State) : Out State :=
  .next (s.issue t ⟨4, decide (size = 3), pred, [sD]⟩ (fun s =>
    let x := s.task t.tile t.cru t.task
    let a := x.scalarAddr aA imm
    let n := 2 ^ size.toNat
    s.scalarAccess t a n .read (fun s peat off =>
      (s.retire t 4).onTask t (fun y =>
        { y with st := .waiting, wait := .load, load := some ⟨sD.toNat, n, sx, peat, off, a, x.pc⟩ }))))

/-- The low bytes of sS go to memory; the store completes at issue for its own task (R66). -/
def execScalarStore (t : TaskRef) (pred : BitVec 3) (sS : BitVec 5) (aA : BitVec 4) (size : BitVec 2) (sx : Bool) (imm : BitVec 12)
    (s : State) : Out State :=
  .next (s.issue t ⟨4, decide (size = 3) || sx, pred, [sS]⟩ (fun s =>
    let x := s.task t.tile t.cru t.task
    let n := 2 ^ size.toNat
    s.scalarAccess t (x.scalarAddr aA imm) n .write (fun s peat off =>
      if s.nearWritable t.tile t.cru peat off n then
        ((if peat then s else s.countPool t.tile [(off, n)]).nearWrite t.tile t.cru peat off (leBytes n (x.rs sS).toNat)).retire t 4
      else s)))

/-- A loaded value extended to 32 bits. -/
def extendLoad (n : Nat) (sx : Bool) (v : Nat) : W32 :=
  if sx then BitVec.ofInt 32 (toSigned (8 * n) v) else BitVec.ofNat 32 v

/-- The data of a scalar load returns (R66). An uncorrectable error faults the task with ECC (R201). A layer or pool that is not
ON keeps the load waiting (R181). -/
def execScalarLoadReturn (t : TaskRef) (e : EccResult) (s : State) : Out State :=
  let x := s.task t.tile t.cru t.task
  match x.load with
  | none => .next s
  | some l =>
    if !s.nearReady t.tile t.cru l.peat l.off l.size then .next s
    else
      let bad := s.nearPoisoned t.tile t.cru l.peat l.off l.size
      let e' := if bad then .uncorrectable else e
      let s1 := if l.peat then s.countNearRead t.tile t.cru l.off l.size else s.countPool t.tile [(l.off, l.size)]
      let s2 := s1.nearEcc t.tile t.cru 0 l.peat l.off e' bad
      if e' = .uncorrectable then .next (s2.taskFault t ⟨fEcc, 1, l.addr, l.pc, x.seq, l.off⟩)
      else
        let v := extendLoad l.size l.sx (leNat (s2.nearRead t.tile t.cru l.peat l.off l.size))
        .next (s2.onTask t (fun y =>
          let y : Task := { y.setRs (BitVec.ofNat 5 l.dst) v with load := none }
          if y.st = .waiting then { y with st := .ready, wait := .none } else y))

/-! ### The instruction cache (R65) -/

/-- The line that holds the waiting task's program counter enters the cache from POOL or PEAT; with 256 lines held the oldest
leaves. A line with an uncorrectable error faults the task with ECC. (DEDUCED: log entry 128; DESIGN CHOICE: log entry 18) -/
def execIcacheFill (t : TaskRef) (e : EccResult) (s : State) : Out State :=
  let x := s.task t.tile t.cru t.task
  if x.st = .waiting && x.wait = .fetch then
    let (sp, ph) := s.physOf t x.pc
    let peat : Bool := sp = spPeat
    let lo := ph / 256 * 256
    if !s.nearReady t.tile t.cru peat lo 256 then .next s
    else
      let bad := s.nearPoisoned t.tile t.cru peat lo 256
      let e' := if bad then .uncorrectable else e
      let s := if peat then s.countNearRead t.tile t.cru lo 256 else s.countPool t.tile [(lo, 256)]
      let at' := if !bad then ph else if peat then s.peatBadAt t.tile lo 256 else s.poolBadAt t.tile t.cru lo 256
      let s := s.nearEcc t.tile t.cru 0 peat at' e' bad
      if e' = .uncorrectable then .next (s.taskFault t ⟨fEcc, 0, x.pc, x.pc, x.seq, at'⟩)
      else
        let c := s.cru t.tile t.cru
        let l := s.icLine t x.pc
        let kept := c.icache.filter (· ≠ l)
        let kept := if 256 ≤ kept.length then kept.drop 1 else kept
        .next ((s.setCru t.tile t.cru { c with icache := kept ++ [l] }).setTask t.tile t.cru t.task { x with st := .ready, wait := .none })
  else .next s

/-! ### Address registers (R133) -/

def execAadd (t : TaskRef) (pred : BitVec 3) (aD aS : BitVec 4) (sX : BitVec 5) (s : State) : Out State :=
  .next (s.scalarStep t false pred [sX] (fun x => x.setRa aD (x.ra aS + (x.rs sX).signExtend 48)))

def execAaddi (t : TaskRef) (pred : BitVec 3) (aD aS : BitVec 4) (imm : BitVec 14) (s : State) : Out State :=
  .next (s.scalarStep t false pred [] (fun x => x.setRa aD (x.ra aS + imm.signExtend 48)))

/-- aD := sHi[15:0] and sLo, concatenated. -/
def execAset (t : TaskRef) (pred : BitVec 3) (aD : BitVec 4) (sLo sHi : BitVec 5) (s : State) : Out State :=
  .next (s.scalarStep t false pred [sLo, sHi]
    (fun x => x.setRa aD (BitVec.ofNat 48 ((x.rs sHi).toNat % 2 ^ 16 * 2 ^ 32 + (x.rs sLo).toNat))))

def execAget (t : TaskRef) (pred : BitVec 3) (aS : BitVec 4) (sD : BitVec 5) (hi : Bool) (s : State) : Out State :=
  .next (s.scalarStep t false pred [sD]
    (fun x => x.setRs sD (BitVec.ofNat 32 (if hi then (x.ra aS).toNat / 2 ^ 32 else (x.ra aS).toNat))))

def execApc (t : TaskRef) (pred : BitVec 3) (aD : BitVec 4) (imm : BitVec 14) (s : State) : Out State :=
  .next (s.scalarStep t false pred [] (fun x => x.setRa aD (pcPlus x.pc imm)))

/-! ### Descriptor set-up (R134) -/

/-- A descriptor changed by a function of the task. -/
def State.descStep (s : State) (t : TaskRef) (pred : BitVec 3) (uses : List (BitVec 5)) (dd : BitVec 4) (f : Task → Desc → Desc) :
    State :=
  s.scalarStep t false pred uses (fun x => x.setRd dd (f x (x.rd dd)))

def execDaddr (t : TaskRef) (pred : BitVec 3) (dd aA : BitVec 4) (imm : BitVec 14) (s : State) : Out State :=
  .next (s.descStep t pred [] dd (fun x d => { d with addr := x.ra aA + imm.signExtend 48 }))

def execDfmt (t : TaskRef) (pred : BitVec 3) (dd : BitVec 4) (fmt : BitVec 8) (tag : BitVec 2) (s : State) : Out State :=
  .next (s.descStep t pred [] dd (fun _ d => { d with fmt := fmt, tag := tag }))

def execDshape (t : TaskRef) (pred : BitVec 3) (dd : BitVec 4) (sX sY sZ : BitVec 5) (s : State) : Out State :=
  .next (s.descStep t pred [sX, sY, sZ] dd (fun x d =>
    { d with d0 := (x.rs sX).setWidth 20, d1 := (x.rs sY).setWidth 16, d2 := (x.rs sZ).setWidth 12 }))

/-- S1 := sX; S2 := sZ[7:0] and sY, concatenated. -/
def execDstride (t : TaskRef) (pred : BitVec 3) (dd : BitVec 4) (sX sY sZ : BitVec 5) (s : State) : Out State :=
  .next (s.descStep t pred [sX, sY, sZ] dd (fun x d =>
    { d with s1 := x.rs sX, s2 := BitVec.ofNat 40 ((x.rs sZ).toNat % 2 ^ 8 * 2 ^ 32 + (x.rs sY).toNat) }))

def execDaux (t : TaskRef) (pred : BitVec 3) (dd aA : BitVec 4) (s : State) : Out State :=
  .next (s.descStep t pred [] dd (fun x d => { d with aux := x.ra aA }))

def execDcopy (t : TaskRef) (pred : BitVec 3) (dd dS : BitVec 4) (s : State) : Out State :=
  .next (s.descStep t pred [] dd (fun x _ => x.rd dS))

/-- ADDR or AUX advanced by a signed multiple; every sum wraps modulo 2^48. -/
def execDstep (t : TaskRef) (pred : BitVec 3) (dd : BitVec 4) (sX : BitVec 5) (which : BitVec 2) (s : State) : Out State :=
  .next (s.descStep t pred [sX] dd (fun x d =>
    let k := (x.rs sX).signExtend 48
    if which = 0 then { d with addr := d.addr + k }
    else if which = 1 then { d with addr := d.addr + k * d.s1.setWidth 48 }
    else if which = 2 then { d with addr := d.addr + k * d.s2.setWidth 48 }
    else { d with aux := d.aux + k }))

/-! ### System instructions (R167) -/

def execNop (t : TaskRef) (pred : BitVec 3) (s : State) : Out State :=
  .next (s.scalarStep t false pred [] id)

/-- The task drains toward IDLE (R70); END flushes the crucible's gathering buffer (R185). -/
def execEndTask (t : TaskRef) (pred : BitVec 3) (s : State) : Out State :=
  .next (s.issue t ⟨4, false, pred, []⟩ (fun s =>
    ((s.gbFlushOn t.tile t.cru).retire t 4).onTask t (fun x => { x with st := .draining, wait := .none, after := .idle })))

def execRdflags (t : TaskRef) (pred : BitVec 3) (sD : BitVec 5) (s : State) : Out State :=
  let f := s.rf (cruPage t.tile t.cru) (Reg.TASK_FLAGS t.task) 4 0
  .next (s.scalarStep t false pred [sD] (fun x => x.setRs sD (BitVec.ofNat 32 f)))

def execClrflags (t : TaskRef) (pred : BitVec 3) (mask : BitVec 5) (s : State) : Out State :=
  .next (s.issue t ⟨4, false, pred, []⟩ (fun s =>
    (s.zeroBits (cruPage t.tile t.cru) (Reg.TASK_FLAGS t.task) (BitVec.ofNat 64 mask.toNat)).retire t 4))

def execRdtime (t : TaskRef) (pred : BitVec 3) (sD : BitVec 5) (hi : Bool) (s : State) : Out State :=
  .next (s.scalarStep t false pred [sD]
    (fun x => x.setRs sD (BitVec.ofNat 32 (if hi then s.now.toNat / 2 ^ 32 else s.now.toNat))))

/-- The identity word of RDID. -/
def State.rdid (s : State) (t : TaskRef) : W32 :=
  let pol := s.polderOf t.tile
  let slot := (s.slotsOf t.tile pol).head?
  BitVec.ofNat 32 (t.tile.val + t.cru.val * 2 ^ 7 + t.task.val * 2 ^ 9 + (slot.getD 0) * 2 ^ 12 + pol * 2 ^ 19 +
    b2n slot.isNone * 2 ^ 22)

def execRdid (t : TaskRef) (pred : BitVec 3) (sD : BitVec 5) (s : State) : Out State :=
  let v := s.rdid t
  .next (s.scalarStep t false pred [sD] (fun x => x.setRs sD v))

/-- A debug break: the task faults (R96). -/
def execBrk (t : TaskRef) (pred : BitVec 3) (s : State) : Out State :=
  .next (s.issue t ⟨4, false, pred, []⟩ (fun s => s.issueFault t fBreak 0))

/-- What the issue stage does with parcels that it cannot issue as an instruction (R116, R121): an undefined encoding faults with
ILLEGAL and a misaligned program counter with MISALIGN. A defined encoding at an aligned program counter is the business of its
own command. -/
def execIllegal (t : TaskRef) (parcels : List W32) (s : State) : Out State :=
  let n := if (parcels.headD 0).toNat / 2 ^ 25 % 16 < 9 then 4 else 16
  let pc := (s.task t.tile t.cru t.task).pc
  match decodeParcels t ((parcels ++ [0, 0, 0, 0]).take (n / 4)) with
  | none => .next (s.issue t ⟨n, true, 0, []⟩ id)
  | some _ => if pc.toNat % n = 0 then .next s else .next (s.issue t ⟨n, false, 0, []⟩ id)

/-! ### Gates (R135 to R139) -/

/-- A gate operation that writes the gate's old value to sD and the gate itself. `write` gives the new gate value. An add flushes the
gathering buffer first, and waits while an entry's layer is not ON (R181, R185). -/
def State.gateOp (s : State) (t : TaskRef) (pred : BitVec 3) (g : BitVec 10) (sX sD : BitVec 5) (flush : Bool) (slot : Option Nat)
    (write : W32 → W32 → W32) : State :=
  s.issue t ⟨4, false, pred, [sX, sD]⟩ (fun s =>
    if flush && !s.gbReady t.tile t.cru then s else
    let s := if flush then s.gbFlushAll t.tile t.cru else s
    let old := s.gate t.tile g.toNat
    let v := (s.task t.tile t.cru t.task).rs sX
    let s := s.setGate t.tile g.toNat (write old v)
    let s := match slot with | some k => s.bump (gatePage t.tile) k 1 | none => s
    (s.onTask t (fun x => x.setRs sD old)).retire t 4)

/-- g := g + sX; sD := the old value. -/
def execGadd (t : TaskRef) (pred : BitVec 3) (gate : BitVec 10) (sX sD : BitVec 5) (s : State) : Out State :=
  .next (s.gateOp t pred gate sX sD true (some 0) (fun g x => g + x))

/-- g := sX; sD := the old value. -/
def execGswap (t : TaskRef) (pred : BitVec 3) (gate : BitVec 10) (sX sD : BitVec 5) (s : State) : Out State :=
  .next (s.gateOp t pred gate sX sD true (some 4) (fun _ x => x))

/-- sD := g. -/
def execGread (t : TaskRef) (pred : BitVec 3) (gate : BitVec 10) (sX sD : BitVec 5) (s : State) : Out State :=
  .next (s.gateOp t pred gate sX sD false none (fun g _ => g))

/-- A gate timeout in ns by its number (R140). -/
def State.gateTmo (s : State) (tile k : Nat) : Nat := s.rf (gatePage tile) (Reg.GATE_TMO0 + 8 * k) 31 0

/-- The task waits with reason GATE for the target in sX, until the deadline that the timeout register gives at issue (R137). -/
def execGwait (t : TaskRef) (pred : BitVec 3) (gate : BitVec 10) (sX sD : BitVec 5) (tmo : BitVec 2) (s : State) : Out State :=
  let ns := s.gateTmo t.tile tmo.toNat
  .next (s.issue t ⟨4, false, pred, [sX, sD]⟩ (fun s =>
    (s.countIssue t).onTask t (fun x =>
      { x with st := .waiting, wait := .gate, gate := some ⟨gate.toNat, x.rs sX, sD.toNat, if ns = 0 then none else some (s.up + ns)⟩ })))

/-- A waiting task whose gate satisfies its target becomes READY with the value (R137). -/
def execGwaitSatisfied (t : TaskRef) (s : State) : Out State :=
  match (s.task t.tile t.cru t.task).gate with
  | none => .next s
  | some w =>
    let v := s.gate t.tile w.gate
    if gateSatisfied v w.target then
      .next ((s.bump (gatePage t.tile) 1 1).onTask t (fun x =>
        { x.setRs (BitVec.ofNat 5 w.dst) v with st := .ready, wait := .none, gate := none, pc := x.pc + 4 }))
    else .next s

/-- A wait that reaches its deadline unsatisfied faults with GATE_TIMEOUT; the fault address is the gate number.
(DESIGN CHOICE: log entry 4) -/
def execGateTimeout (t : TaskRef) (s : State) : Out State :=
  let x := s.task t.tile t.cru t.task
  match x.gate with
  | none => .next s
  | some w =>
    if (match w.till with | none => false | some d => d ≤ s.up) && !gateSatisfied (s.gate t.tile w.gate) w.target then
      let pg := gatePage t.tile
      let s := ((s.bump pg 2 1).raise pg 0).setReg pg Reg.GATE_TOLAST
        (word [(0, w.gate), (10, t.cru.val), (12, t.task.val), (32, s.ts)])
      .next (s.taskFault t ⟨fGateTimeout, 1, BitVec.ofNat 48 w.gate, x.pc, x.seq, 0⟩)
    else .next s

/-- Adds sX to a gate on the tile at logical slot sD[6:0] of this polder; no register is written (R136, R138). -/
def execGradd (t : TaskRef) (pred : BitVec 3) (gate : BitVec 10) (sX sD : BitVec 5) (s : State) : Out State :=
  .next (s.issue t ⟨4, false, pred, [sX, sD]⟩ (fun s =>
    if !s.gbReady t.tile t.cru then s else
    let x := s.task t.tile t.cru t.task
    ((s.gbFlushAll t.tile t.cru).sendGateAdd t.tile ((x.rs sD).toNat % 128) gate.toNat (x.rs sX)).retire t 4))

/-- Adds sX to a gate on every member tile of this tile's bed (R136, R333). -/
def execGbadd (t : TaskRef) (pred : BitVec 3) (gate : BitVec 10) (sX sD : BitVec 5) (s : State) : Out State :=
  .next (s.issue t ⟨4, false, pred, [sX, sD]⟩ (fun s =>
    if !s.gbReady t.tile t.cru then s else
    let x := s.task t.tile t.cru t.task
    ((s.gbFlushAll t.tile t.cru).sendGateAll t.tile gate.toNat (x.rs sX)).retire t 4))

end Sys2Proof.Machine
end

