-- ==== Sys2Proof/Machine/Tensor.lean ====
section
/-! DEFINITION. Tensor instructions at the issue stage: the checks on operands (R122 to R126, R623), the scoreboard, the unit
queues and dispatch (R78 to R86, R127, R142). What a unit does with a dispatched instruction is in Units.lean. -/
namespace Sys2Proof.Machine

/-! ### Operands as the issue stage checks them -/

/-- One operand: its descriptor, the outcome of its own checks, its byte ranges and the spaces its unit reaches. -/
structure OpCheck where
  d       : Desc
  fmtOk   : Bool
  dest    : Bool
  /-- The destination stride rules of R124 hold. -/
  strides : Bool
  /-- The address that breaks an alignment rule. -/
  askew   : Option Addr
  main    : Nat
  aux     : Option Nat
  spaces  : List Nat
  /-- Row bytes of an operand read or written row by row; none for a structure read as one block. -/
  rb      : Option Nat
  deriving DecidableEq, Repr

def nearSpaces : List Nat := [spPool, spPeat]
def poolOnly : List Nat := [spPool]
def allSpaces : List Nat := [spPool, spPeat, spSibling, spRemote, spMire]

/-- Bytes from ADDR to the last byte of the last row; zero for an operand of zero length (R123). -/
def Desc.extent (d : Desc) (rb : Nat) : Nat :=
  if d.d0 = 0 || d.d1 = 0 || d.d2 = 0 then 0
  else (d.d2.toNat - 1) * d.s2.toNat + (d.d1.toNat - 1) * d.s1.toNat + rb

/-- The destination stride rules of R124; with D1 = 0 the last row lies at −S1. -/
def Desc.stridesOk (d : Desc) (rb : Nat) : Bool :=
  (d.d1.toNat ≤ 1 || rb ≤ d.s1.toNat) && (d.d2.toNat ≤ 1 || d.d1.toNat * d.s1.toNat + rb ≤ d.s2.toNat + d.s1.toNat)

/-- The alignment rules of R124 for a format. -/
def Desc.askew (d : Desc) (f : Fmt) : Option Addr :=
  let a := if f.scale = .none then (if f.elem = .fp32 then 4 else if f.elem = .bf16 then 2 else 1) else 1
  if d.addr.toNat % a ≠ 0 || d.s1.toNat % a ≠ 0 || d.s2.toNat % a ≠ 0 then some d.addr
  else if f.scale = .row && d.aux.toNat % 4 ≠ 0 then some d.aux
  else none

/-- A tensor operand whose format must pass a test. -/
def tensorOp (d : Desc) (dest : Bool) (ok : Fmt → Bool) (spaces : List Nat) : OpCheck :=
  match Fmt.ofByte d.fmt.toNat with
  | none => ⟨d, false, dest, true, none, 0, none, spaces, none⟩
  | some f =>
    let rb := f.rowBytes d.d0.toNat
    let rows := if d.d0 = 0 then 0 else d.d1.toNat * d.d2.toNat
    ⟨d, ok f, dest, !dest || d.stridesOk rb, d.askew f, d.extent rb,
     if f.hasAux then some (rows * f.auxRowBytes d.d0.toNat) else none, spaces, some rb⟩

/-- A structure of n bytes at ADDR with an alignment (R126, R210, R223, R235). -/
def tableOp (d : Desc) (n align : Nat) : OpCheck :=
  ⟨d, true, false, true, if d.addr.toNat % align ≠ 0 then some d.addr else none, n, none, nearSpaces, none⟩

/-- A runner operand: bytes (R161). `align4` is FILL's rule. -/
def runnerOp (d : Desc) (dest align4 : Bool) (spaces : List Nat) : OpCheck :=
  let bad := align4 && (d.addr.toNat % 4 ≠ 0 || d.d0.toNat % 4 ≠ 0 || d.s1.toNat % 4 ≠ 0)
  ⟨d, true, dest, !dest || d.stridesOk d.d0.toNat, if bad then some d.addr else none, d.extent d.d0.toNat, none, spaces,
   some d.d0.toNat⟩

/-- The check of one operand in the order of R623: FORMAT, DESCRIPTOR, MISALIGN, then the segments of its ranges. The fault code
and the address reported with it. -/
def State.checkOp (s : State) (t : TaskRef) (o : OpCheck) : Option (Nat × Addr) :=
  let k : AccKind := if o.dest then .write else .read
  if !o.fmtOk then some (fFormat, 0)
  else if 2 ≤ o.d.tag.toNat || !o.strides then some (fDescriptor, 0)
  else match o.askew with
    | some a => some (fMisalign, a)
    | none =>
      match s.segCheck t o.d.addr o.main k (o.spaces.contains ·) with
      | some c => some (c, o.d.addr)
      | none => match o.aux with
        | none => none
        | some n => (s.segCheck t o.d.aux n k (o.spaces.contains ·)).map (fun c => (c, o.d.aux))

def State.checkOps (s : State) (t : TaskRef) : List OpCheck → Option (Nat × Addr)
  | [] => none
  | o :: r => match s.checkOp t o with
    | some x => some x
    | none => s.checkOps t r

/-- The ranges of an operand that lie in POOL or PEAT and are not empty (R84, R85). -/
def State.rangesOf (s : State) (t : TaskRef) (o : OpCheck) : List Range :=
  let one (a : Addr) (n : Nat) : List Range :=
    let (sp, off) := s.physOf t a
    if n = 0 || !nearSpace sp then [] else [⟨decide (sp = spPeat), off, off + n, o.dest⟩]
  one o.d.addr o.main ++ (match o.aux with | none => [] | some n => one o.d.aux n)

def State.ranges (s : State) (t : TaskRef) (l : List OpCheck) : List Range := l.flatMap (s.rangesOf t)

/-! ### The operands of each class, in ascending order of their fields (R120, R623) -/

/-- Descriptor fields as numbers, for lookups in a copied register file. -/
abbrev Regs := BitVec 4 → Desc

/-- A lift base of R60. -/
def Fmt.liftBase (f : Fmt) : Bool :=
  f.scale = .b32 && (f.elem = .e2m1 || f.elem = .int4 || f.elem = .int3 || f.elem = .fp3 || f.elem = .trn || f.elem = .q2)

def matOps (lift : Bool) (g : Regs) (o : MatOps) : List OpCheck :=
  [tensorOp (g o.dA) false (fun f => f.elem ≠ .fp32 && !(lift && f.elem = .bf16)) nearSpaces,
   tensorOp (g o.dB) false (fun f => f.elem ≠ .fp32 && (!lift || f.liftBase)) nearSpaces,
   tensorOp (g o.dC) true Fmt.isFloat poolOnly] ++
  (if lift then [tensorOp (g o.dR) false (fun f => f.elem = .int4 && f.scale = .b32 && !f.l2) nearSpaces] else [])

/-- Shape relations of a matrix multiply (R146, R149). -/
def matShape (lift : Bool) (g : Regs) (o : MatOps) : Bool :=
  let a := g o.dA
  let b := g o.dB
  let c := g o.dC
  let r := g o.dR
  b.d0 = a.d0 && c.d0.toNat = b.d1.toNat && c.d1 = a.d1 && (a.d2 = b.d2 || a.d2 = 1 || b.d2 = 1) &&
    c.d2.toNat = max a.d2.toNat b.d2.toNat && (!lift || (r.d0 = b.d0 && r.d1 = b.d1 && r.d2 = b.d2))

/-- Rows of a descriptor. -/
def Desc.rows (d : Desc) : Nat := d.d1.toNat * d.d2.toNat

/-- Vector operands: `nsrc` sources, `cvt` for the destination formats of CVT, `rope` for a rotary table in dB, `key` for a
row-key table in dK (R151 to R153). -/
def vecOps (nsrc : Nat) (cvt rope key : Bool) (g : Regs) (o : VecOps) : List OpCheck :=
  let dst (f : Fmt) : Bool := if cvt then f.scale ≠ .row && !f.l2 else f.isFloat
  [tensorOp (g o.dD) true dst nearSpaces, tensorOp (g o.dA) false (fun _ => true) nearSpaces] ++
  (if rope then [tableOp (g o.dB) ((g o.dA).d0.toNat / 2 * 8) 8]
   else if 2 ≤ nsrc && !o.bs then [tensorOp (g o.dB) false (fun _ => true) nearSpaces] else []) ++
  (if 3 ≤ nsrc && !o.cs then [tensorOp (g o.dC) false (fun _ => true) nearSpaces] else []) ++
  (if key then [tableOp (g o.dK) ((g o.dD).rows * 16) 16] else [])

/-- A source dimension equals the destination's or is 1 (R151). -/
def fits (src dst : Nat) : Bool := src = dst || src = 1
def Desc.fitsInto (a d : Desc) : Bool :=
  fits a.d0.toNat d.d0.toNat && fits a.d1.toNat d.d1.toNat && fits a.d2.toNat d.d2.toNat

def vecShape (nsrc : Nat) (rope : Bool) (g : Regs) (o : VecOps) : Bool :=
  let d := g o.dD
  let srcs := [g o.dA] ++ (if 2 ≤ nsrc && !o.bs && !rope then [g o.dB] else []) ++ (if 3 ≤ nsrc && !o.cs then [g o.dC] else [])
  let aux := srcs.filter (fun x => match Fmt.ofByte x.fmt.toNat with | some f => f.hasAux | none => false)
  srcs.all (fun x => x.fitsInto d) && decide (aux.length ≤ 1) && (!rope || (g o.dA).d0.toNat % 2 = 0)

/-- Which reduction shapes apply (R154). -/
inductive RedKind where
  | row | index | same | planes
  deriving DecidableEq, Repr

def redOps (k : RedKind) (gain : Bool) (g : Regs) (o : RedOps) : List OpCheck :=
  [tensorOp (g o.dD) true (fun f => f.isFloat && (k ≠ .index || f.elem = .fp32)) nearSpaces,
   tensorOp (g o.dA) false (fun _ => true) nearSpaces] ++
  (if gain then [tensorOp (g o.dB) false (fun _ => true) nearSpaces] else [])

def redShape (k : RedKind) (gain : Bool) (g : Regs) (o : RedOps) : Bool :=
  let d := g o.dD
  let a := g o.dA
  match k with
  | .planes => d.d0 = a.d0 && d.d1 = a.d1 && d.d2 = 1
  | .same => d.d0 = a.d0 && d.d1 = a.d1 && d.d2 = a.d2 && (!gain || (g o.dB).d0 = a.d0)
  | _ => d.d0 = 1 && d.d1 = a.d1 && d.d2 = a.d2

/-- Bytes of a key-block mask row (R222). -/
def maskRow (d : Desc) : Nat := ceilDiv d.d0.toNat 8

/-- A key-block mask as an operand: D0 counts bits, S1 is the row stride. -/
def maskOp (d : Desc) : OpCheck :=
  ⟨d, true, false, true, none, if d.d0 = 0 || d.d1 = 0 then 0 else (d.d1.toNat - 1) * d.s1.toNat + maskRow d, none, nearSpaces,
   none⟩

/-- Attention reads (R157 to R160, R210, R222, R223, R235). -/
def attOps (h : THdr) (g : Regs) (o : AttOps) : List OpCheck :=
  [tensorOp (g o.dO) true Fmt.isFloat poolOnly, tensorOp (g o.dQ) false Fmt.isFloat nearSpaces, tableOp (g o.dX) 16 16] ++
  (if h.mod.getLsbD 1 then [maskOp (g o.dM)] else []) ++
  (if h.mod.getLsbD 2 then [tableOp (g o.dT) 512 8] else []) ++
  (if h.mod.getLsbD 0 then [tableOp (g o.dP) ((g o.dQ).d0.toNat / 2 * 8) 8] else []) ++
  [tableOp (g o.dK) ((g o.dQ).d2.toNat * 16) 16]

def headDim (n : Nat) : Bool := n = 64 || n = 128 || n = 256
def Desc.sameShape (a b : Desc) : Bool := a.d0 = b.d0 && a.d1 = b.d1 && a.d2 = b.d2

def attShape (h : THdr) (g : Regs) (o : AttOps) : Bool :=
  let q := g o.dQ
  headDim q.d0.toNat && decide (1 ≤ q.d1.toNat) && decide (q.d1.toNat ≤ 16) && decide (q.d2.toNat ≤ 64) && (g o.dO).sameShape q &&
    (!h.mod.getLsbD 1 || (g o.dM).d1 = 1 || (g o.dM).d1.toNat = q.d2.toNat)

/-- KVPUT: both dQ and dO are sources (R231). -/
def kvputOps (h : THdr) (g : Regs) (o : AttOps) : List OpCheck :=
  [tensorOp (g o.dO) false Fmt.isFloat nearSpaces, tensorOp (g o.dQ) false Fmt.isFloat nearSpaces, tableOp (g o.dX) 16 16] ++
  (if h.mod.getLsbD 0 then [tableOp (g o.dP) ((g o.dQ).d0.toNat / 2 * 8) 8] else []) ++
  [tableOp (g o.dK) ((g o.dQ).d2.toNat * 16) 16]

def kvputShape (g : Regs) (o : AttOps) : Bool :=
  headDim (g o.dQ).d0.toNat && (g o.dQ).d1 = 1 && (g o.dO).sameShape (g o.dQ)

/-- REMOTE and MIRE, of which a move may name one (R162). -/
def farSpace (sp : Nat) : Bool := sp = spRemote || sp = spMire
def spacesBeside (sp : Nat) : List Nat := if farSpace sp then [spPool, spPeat, spSibling] else allSpaces

def State.spaceOf (s : State) (t : TaskRef) (a : Addr) : Nat := (s.physOf t a).1

def moveOps (s : State) (t : TaskRef) (g : Regs) (o : RunOps) : List OpCheck :=
  [runnerOp (g o.dD) true false allSpaces, runnerOp (g o.dS) false false (spacesBeside (s.spaceOf t (g o.dD).addr))]
def fillOps (g : Regs) (o : RunOps) : List OpCheck := [runnerOp (g o.dD) true true allSpaces]
def gatherOps (s : State) (t : TaskRef) (g : Regs) (o : RunOps) : List OpCheck :=
  let rows := (g o.dD).rows
  moveOps s t g o ++ [⟨g o.dI, true, false, true, none, rows * 4, none, allSpaces, none⟩]

def sentOps (g : Regs) (o : SentOps) : List OpCheck :=
  [tensorOp (g o.dX) false Fmt.isFloat nearSpaces, tableOp (g o.dK) ((g o.dX).rows * 16) 16]
def rhandOps (g : Regs) (o : RhandOps) : List OpCheck :=
  [tensorOp (g o.dL) false Fmt.isFloat nearSpaces, tableOp (g o.dK) ((g o.dL).rows * 16) 16]

/-- The operands of a tensor instruction. -/
def State.operands (s : State) (t : TaskRef) (g : Regs) : Instr → List OpCheck
  | .mmul _ _ o => matOps false g o
  | .mmulLift _ _ o => matOps true g o
  | .vAdd _ _ o | .vSub _ _ o | .vMul _ _ o | .vMax _ _ o | .vMin _ _ o | .copysign _ _ o | .div _ _ o => vecOps 2 false false false g o
  | .fma _ _ o => vecOps 3 false false false g o
  | .abs _ _ o | .neg _ _ o | .scale2 _ _ o | .recip _ _ o | .sqrt _ _ o | .rsqrt _ _ o | .exp _ _ o | .exp2 _ _ o | .log2 _ _ o
  | .sigmoid _ _ o | .tanh _ _ o | .silu _ _ o | .geluErf _ _ o | .geluTanh _ _ o => vecOps 1 false false false g o
  | .cvt _ h o => vecOps 1 true false (h.mod = 1) g o
  | .rope _ _ o => vecOps 2 false true true g o
  | .rsum _ _ o | .rmax _ _ o | .rmin _ _ o | .rms _ _ o => redOps .row false g o
  | .rargmax _ _ o | .rargmin _ _ o => redOps .index false g o
  | .rmsn _ _ o => redOps .same true g o
  | .softmax _ _ o => redOps .same false g o
  | .psum _ _ o => redOps .planes false g o
  | .attnRing _ h o | .attnPage _ h o => attOps h g o
  | .kvput _ h o => kvputOps h g o
  | .move _ _ o => moveOps s t g o
  | .fill _ _ o => fillOps g o
  | .gather _ _ o => gatherOps s t g o
  | .sent _ _ o => sentOps g o
  | .rhand _ _ o => rhandOps g o
  | _ => []

/-- The shape relations between the operands of a tensor instruction. -/
def shapeOk (g : Regs) : Instr → Bool
  | .mmul _ _ o => matShape false g o
  | .mmulLift _ _ o => matShape true g o
  | .vAdd _ _ o | .vSub _ _ o | .vMul _ _ o | .vMax _ _ o | .vMin _ _ o | .copysign _ _ o | .div _ _ o => vecShape 2 false g o
  | .fma _ _ o => vecShape 3 false g o
  | .abs _ _ o | .neg _ _ o | .scale2 _ _ o | .recip _ _ o | .sqrt _ _ o | .rsqrt _ _ o | .exp _ _ o | .exp2 _ _ o | .log2 _ _ o
  | .sigmoid _ _ o | .tanh _ _ o | .silu _ _ o | .geluErf _ _ o | .geluTanh _ _ o | .cvt _ _ o => vecShape 1 false g o
  | .rope _ _ o => vecShape 2 true g o
  | .rsum _ _ o | .rmax _ _ o | .rmin _ _ o | .rms _ _ o | .rargmax _ _ o | .rargmin _ _ o => redShape .row false g o
  | .rmsn _ _ o => redShape .same true g o
  | .softmax _ _ o => redShape .same false g o
  | .psum _ _ o => redShape .planes false g o
  | .attnRing _ h o | .attnPage _ h o => attShape h g o
  | .kvput _ _ o => kvputShape g o
  | .move _ _ o => (g o.dD).sameShape (g o.dS)
  | .gather _ _ o => (g o.dD).d0 = (g o.dS).d0
  | .sent _ _ o => (g o.dX).d2 = 1
  | .rhand _ _ o => (g o.dL).d2 = 1 && decide (o.part.toNat ≤ o.parts.toNat)
  | _ => true

/-! ### Dispatch -/

/-- A dispatched instruction with its copies of the register files (R127). -/
def workOf (iid : Nat) (t : TaskRef) (x : Task) (i : Instr) : Work :=
  { iid := iid, task := t.task, seq := x.seq, instr := i, d := x.d, s := x.s, pc := x.pc, phase := .queued, claims := [], since := none }

/-- Steps 5 to 7 of R78: scoreboard, queue and free entries, then the entries are allocated and the instruction dispatches. -/
def State.dispatch (s : State) (t : TaskRef) (i : Instr) (u : UnitKind) (rs : List Range) (pend : List Nat) : State :=
  let c := s.cru t.tile t.cru
  let x := s.task t.tile t.cru t.task
  match c.blocks (.ranges rs (some u)) with
  | some w => s.waitFor t w (some (.ranges rs (some u)))
  | none =>
    let es := rs.map (fun r => (⟨r.peat, r.lo, r.hi, r.write, t.task, u, c.nextIid⟩ : SbEntry))
    let c' := { c with sb := c.sb ++ es, nextIid := c.nextIid + 1 }
    let s := (s.setCru t.tile t.cru (c'.setQueue u (c.queue u ++ [workOf c.nextIid t x i]))).noteSbHigh t.tile t.cru
    (s.onTask t (fun y => { y with seq := y.seq + 1, pend := y.pend ++ pend })).retire t 16

/-- A tensor instruction at the issue stage (R78, R142, R623). -/
def State.issueTensor (s : State) (t : TaskRef) (i : Instr) (h : THdr) (u : UnitKind) (uses : List (BitVec 5)) (pend : List Nat) :
    State :=
  s.issue t ⟨16, !i.wf, h.pred, uses⟩ (fun s =>
    let g := (s.task t.tile t.cru t.task).rd
    let l := s.operands t g i
    match s.checkOps t l with
    | some (code, a) => s.issueFault t code a
    | none => if shapeOk g i then s.dispatch t i u (s.ranges t l) pend else s.issueFault t fDescriptor 0)

/-- The scalar registers that a vector instruction reads. -/
def vecUses (o : VecOps) : List (BitVec 5) := (if o.bs then [o.sB] else []) ++ (if o.cs then [o.sC] else [])

/-- Issue of MMUL (R146 to R148). -/
def execMmul (t : TaskRef) (h : THdr) (o : MatOps) (s : State) : Out State :=
  .next (s.issueTensor t (.mmul t h o) h .mould [] [])

/-- Issue of MMUL.LIFT (R149). -/
def execMmulLift (t : TaskRef) (h : THdr) (o : MatOps) (s : State) : Out State :=
  .next (s.issueTensor t (.mmulLift t h o) h .mould [] [])

/-- Issue of a vector instruction (R150 to R153). -/
def execVAdd (t : TaskRef) (h : THdr) (o : VecOps) (s : State) : Out State :=
  .next (s.issueTensor t (.vAdd t h o) h .vector (vecUses o) [])

/-- Issue of a vector instruction (R150 to R153). -/
def execVSub (t : TaskRef) (h : THdr) (o : VecOps) (s : State) : Out State :=
  .next (s.issueTensor t (.vSub t h o) h .vector (vecUses o) [])

/-- Issue of a vector instruction (R150 to R153). -/
def execVMul (t : TaskRef) (h : THdr) (o : VecOps) (s : State) : Out State :=
  .next (s.issueTensor t (.vMul t h o) h .vector (vecUses o) [])

/-- Issue of a vector instruction (R150 to R153). -/
def execFma (t : TaskRef) (h : THdr) (o : VecOps) (s : State) : Out State :=
  .next (s.issueTensor t (.fma t h o) h .vector (vecUses o) [])

/-- Issue of a vector instruction (R150 to R153). -/
def execVMax (t : TaskRef) (h : THdr) (o : VecOps) (s : State) : Out State :=
  .next (s.issueTensor t (.vMax t h o) h .vector (vecUses o) [])

/-- Issue of a vector instruction (R150 to R153). -/
def execVMin (t : TaskRef) (h : THdr) (o : VecOps) (s : State) : Out State :=
  .next (s.issueTensor t (.vMin t h o) h .vector (vecUses o) [])

/-- Issue of a vector instruction (R150 to R153). -/
def execAbs (t : TaskRef) (h : THdr) (o : VecOps) (s : State) : Out State :=
  .next (s.issueTensor t (.abs t h o) h .vector (vecUses o) [])

/-- Issue of a vector instruction (R150 to R153). -/
def execNeg (t : TaskRef) (h : THdr) (o : VecOps) (s : State) : Out State :=
  .next (s.issueTensor t (.neg t h o) h .vector (vecUses o) [])

/-- Issue of a vector instruction (R150 to R153). -/
def execCopysign (t : TaskRef) (h : THdr) (o : VecOps) (s : State) : Out State :=
  .next (s.issueTensor t (.copysign t h o) h .vector (vecUses o) [])

/-- Issue of a vector instruction (R150 to R153). -/
def execScale2 (t : TaskRef) (h : THdr) (o : VecOps) (s : State) : Out State :=
  .next (s.issueTensor t (.scale2 t h o) h .vector (vecUses o) [])

/-- Issue of a vector instruction (R150 to R153). -/
def execRecip (t : TaskRef) (h : THdr) (o : VecOps) (s : State) : Out State :=
  .next (s.issueTensor t (.recip t h o) h .vector (vecUses o) [])

/-- Issue of a vector instruction (R150 to R153). -/
def execSqrt (t : TaskRef) (h : THdr) (o : VecOps) (s : State) : Out State :=
  .next (s.issueTensor t (.sqrt t h o) h .vector (vecUses o) [])

/-- Issue of a vector instruction (R150 to R153). -/
def execRsqrt (t : TaskRef) (h : THdr) (o : VecOps) (s : State) : Out State :=
  .next (s.issueTensor t (.rsqrt t h o) h .vector (vecUses o) [])

/-- Issue of a vector instruction (R150 to R153). -/
def execExp (t : TaskRef) (h : THdr) (o : VecOps) (s : State) : Out State :=
  .next (s.issueTensor t (.exp t h o) h .vector (vecUses o) [])

/-- Issue of a vector instruction (R150 to R153). -/
def execExp2 (t : TaskRef) (h : THdr) (o : VecOps) (s : State) : Out State :=
  .next (s.issueTensor t (.exp2 t h o) h .vector (vecUses o) [])

/-- Issue of a vector instruction (R150 to R153). -/
def execLog2 (t : TaskRef) (h : THdr) (o : VecOps) (s : State) : Out State :=
  .next (s.issueTensor t (.log2 t h o) h .vector (vecUses o) [])

/-- Issue of a vector instruction (R150 to R153). -/
def execSigmoid (t : TaskRef) (h : THdr) (o : VecOps) (s : State) : Out State :=
  .next (s.issueTensor t (.sigmoid t h o) h .vector (vecUses o) [])

/-- Issue of a vector instruction (R150 to R153). -/
def execTanh (t : TaskRef) (h : THdr) (o : VecOps) (s : State) : Out State :=
  .next (s.issueTensor t (.tanh t h o) h .vector (vecUses o) [])

/-- Issue of a vector instruction (R150 to R153). -/
def execSilu (t : TaskRef) (h : THdr) (o : VecOps) (s : State) : Out State :=
  .next (s.issueTensor t (.silu t h o) h .vector (vecUses o) [])

/-- Issue of a vector instruction (R150 to R153). -/
def execGeluErf (t : TaskRef) (h : THdr) (o : VecOps) (s : State) : Out State :=
  .next (s.issueTensor t (.geluErf t h o) h .vector (vecUses o) [])

/-- Issue of a vector instruction (R150 to R153). -/
def execGeluTanh (t : TaskRef) (h : THdr) (o : VecOps) (s : State) : Out State :=
  .next (s.issueTensor t (.geluTanh t h o) h .vector (vecUses o) [])

/-- Issue of a vector instruction (R150 to R153). -/
def execCvt (t : TaskRef) (h : THdr) (o : VecOps) (s : State) : Out State :=
  .next (s.issueTensor t (.cvt t h o) h .vector (vecUses o) [])

/-- Issue of a vector instruction (R150 to R153). -/
def execRope (t : TaskRef) (h : THdr) (o : VecOps) (s : State) : Out State :=
  .next (s.issueTensor t (.rope t h o) h .vector (vecUses o) [])

/-- Issue of a vector instruction (R150 to R153). -/
def execDiv (t : TaskRef) (h : THdr) (o : VecOps) (s : State) : Out State :=
  .next (s.issueTensor t (.div t h o) h .vector (vecUses o) [])

/-- Issue of a reduction (R154 to R156). -/
def execRsum (t : TaskRef) (h : THdr) (o : RedOps) (s : State) : Out State :=
  .next (s.issueTensor t (.rsum t h o) h .vector [] [])

/-- Issue of a reduction (R154 to R156). -/
def execRmax (t : TaskRef) (h : THdr) (o : RedOps) (s : State) : Out State :=
  .next (s.issueTensor t (.rmax t h o) h .vector [] [])

/-- Issue of a reduction (R154 to R156). -/
def execRmin (t : TaskRef) (h : THdr) (o : RedOps) (s : State) : Out State :=
  .next (s.issueTensor t (.rmin t h o) h .vector [] [])

/-- Issue of a reduction (R154 to R156). -/
def execRargmax (t : TaskRef) (h : THdr) (o : RedOps) (s : State) : Out State :=
  .next (s.issueTensor t (.rargmax t h o) h .vector [] [])

/-- Issue of a reduction (R154 to R156). -/
def execRargmin (t : TaskRef) (h : THdr) (o : RedOps) (s : State) : Out State :=
  .next (s.issueTensor t (.rargmin t h o) h .vector [] [])

/-- Issue of a reduction (R154 to R156). -/
def execRms (t : TaskRef) (h : THdr) (o : RedOps) (s : State) : Out State :=
  .next (s.issueTensor t (.rms t h o) h .vector [] [])

/-- Issue of a reduction (R154 to R156). -/
def execRmsn (t : TaskRef) (h : THdr) (o : RedOps) (s : State) : Out State :=
  .next (s.issueTensor t (.rmsn t h o) h .vector [o.sE] [])

/-- Issue of a reduction (R154 to R156). -/
def execSoftmax (t : TaskRef) (h : THdr) (o : RedOps) (s : State) : Out State :=
  .next (s.issueTensor t (.softmax t h o) h .vector [] [])

/-- Issue of a reduction (R154 to R156). -/
def execPsum (t : TaskRef) (h : THdr) (o : RedOps) (s : State) : Out State :=
  .next (s.issueTensor t (.psum t h o) h .vector [] [])

/-- Issue of an attention instruction (R157 to R160, R231). -/
def execAttnRing (t : TaskRef) (h : THdr) (o : AttOps) (s : State) : Out State :=
  .next (s.issueTensor t (.attnRing t h o) h .attention [o.sS] [])

/-- Issue of an attention instruction (R157 to R160, R231). -/
def execAttnPage (t : TaskRef) (h : THdr) (o : AttOps) (s : State) : Out State :=
  .next (s.issueTensor t (.attnPage t h o) h .attention [o.sS] [])

/-- Issue of an attention instruction (R157 to R160, R231). -/
def execKvput (t : TaskRef) (h : THdr) (o : AttOps) (s : State) : Out State :=
  .next (s.issueTensor t (.kvput t h o) h .attention [] [])

/-- Issue of a runner move (R161 to R164). -/
def execMove (t : TaskRef) (h : THdr) (o : RunOps) (s : State) : Out State :=
  .next (s.issueTensor t (.move t h o) h .runner [] [])

/-- Issue of a runner move (R161 to R164). -/
def execFill (t : TaskRef) (h : THdr) (o : RunOps) (s : State) : Out State :=
  .next (s.issueTensor t (.fill t h o) h .runner [o.sX] [])

/-- Issue of a runner move (R161 to R164). -/
def execGather (t : TaskRef) (h : THdr) (o : RunOps) (s : State) : Out State :=
  .next (s.issueTensor t (.gather t h o) h .runner [] [])

/-- Issue of a sentinel; its verdict register is written when it completes (R115, R165). -/
def execSent (t : TaskRef) (h : THdr) (o : SentOps) (s : State) : Out State :=
  .next (s.issueTensor t (.sent t h o) h .vector [o.sD] (if o.sD = 0 then [] else [o.sD.toNat]))

/-- Issue of a riddle hand-off (R166). -/
def execRhand (t : TaskRef) (h : THdr) (o : RhandOps) (s : State) : Out State :=
  .next (s.issueTensor t (.rhand t h o) h .vector [o.sV] [])

end Sys2Proof.Machine
end

