-- ==== Sys2Proof/Machine/Random.lean ====
section
/-! DEFINITION. The counter-based generator (R290). -/
namespace Sys2Proof.Machine

/-- One round of the generator. -/
def genRound (xy : W64 × W64) : W64 × W64 :=
  let x := xy.1 + xy.2
  let x := (x ^^^ (x >>> 31)) * 0x8F3C65A127D94E6B
  let x := (x ^^^ (x >>> 29)) * 0xC6A41B975E02D83D
  let x := x ^^^ (x >>> 32)
  (x, xy.2.rotateLeft 29 ^^^ x)

/-- gen(seed, c1, c0): four rounds. -/
def gen (seed c1 c0 : W64) : W64 :=
  (genRound (genRound (genRound (genRound (seed ^^^ c0, c1 ^^^ 0x6A09E667F3BCC909))))).1

/-- The counter's words: domain, stream, generation, node, site, position and index. -/
structure DrawKey where
  domain : Nat
  stream : Nat
  gen    : Nat
  node   : Nat
  site   : Nat
  pos    : Nat
  index  : Nat
  deriving DecidableEq, Repr

def DrawKey.c0 (k : DrawKey) : W64 := word [(0, k.index % 2 ^ 32), (32, k.pos % 2 ^ 32)]
def DrawKey.c1 (k : DrawKey) : W64 := word [(0, k.stream), (12, k.gen), (32, k.node), (40, k.site), (56, k.domain)]

/-- draw16 and draw24: the top bits of one draw. -/
def draw16 (seed : W64) (k : DrawKey) : Nat := fld (gen seed k.c1 k.c0) 63 48
def draw24 (seed : W64) (k : DrawKey) : Nat := fld (gen seed k.c1 k.c0) 63 40

end Sys2Proof.Machine
end

