-- ==== Sys2Proof/Machine/Real.lean ====
section
/-! DEFINITION. Reference values of the real functions that R62 bounds, as dyadic numbers m × 2^e computed with 320 fraction bits, and
the test that holds a free result inside its bound. A reference differs from the real value by less than 2^-60 of it, which is
below 2^-36 of an FP32 ulp. -/
namespace Sys2Proof.Machine

/-- The number m × 2^e. (DEDUCED: log entry 138) -/
structure Dy where
  m : Int
  e : Int
  deriving DecidableEq, Repr

/-- The leading 256 bits of a number. -/
def Dy.trim (x : Dy) : Dy :=
  let d := Nat.log2 x.m.natAbs - 256
  ⟨x.m / 2 ^ d, x.e + d⟩

def Dy.int (n : Int) : Dy := ⟨n, 0⟩
/-- 2^e. -/
def Dy.pow2 (e : Int) : Dy := ⟨1, e⟩
/-- The whole number of units 2^q in a number, q at most its exponent. -/
def Dy.units (x : Dy) (q : Int) : Int := x.m * 2 ^ (x.e - q).toNat
def Dy.neg (x : Dy) : Dy := ⟨-x.m, x.e⟩
def Dy.abs (x : Dy) : Dy := ⟨x.m.natAbs, x.e⟩
/-- The exact sum. -/
def Dy.add (a b : Dy) : Dy := let q := min a.e b.e; ⟨a.units q + b.units q, q⟩
def Dy.sub (a b : Dy) : Dy := a.add b.neg
/-- The product, cut to 256 bits. -/
def Dy.mul (a b : Dy) : Dy := (⟨a.m * b.m, a.e + b.e⟩ : Dy).trim
/-- The exact product. -/
def Dy.mulX (a b : Dy) : Dy := ⟨a.m * b.m, a.e + b.e⟩
/-- The quotient a / b to 256 bits, for b not zero. -/
def Dy.div (a b : Dy) : Dy :=
  let k := 256 + Nat.log2 b.m.natAbs
  (⟨a.m * 2 ^ k / b.m, a.e - b.e - k⟩ : Dy).trim
def Dy.le (a b : Dy) : Bool := let q := min a.e b.e; decide (a.units q ≤ b.units q)
/-- The square root to more than 200 bits, for a number that is not negative. -/
def Dy.sqrt (x : Dy) : Dy :=
  let k : Nat := if x.e % 2 = 0 then 512 else 513
  ⟨isqrt (x.m.toNat * 2 ^ k), (x.e - k) / 2⟩
def Dy.sum (l : List Dy) : Dy := l.foldl Dy.add ⟨0, 0⟩

/-- A finite value as a number; 0 for the rest. -/
def Val.dy : Val → Dy
  | .fin n m e => ⟨if n then -(m : Int) else m, e⟩
  | _ => ⟨0, 0⟩
/-- A number rounded once to FP32. -/
def Dy.toF32 (x : Dy) : W32 := (Val.fin (decide (x.m < 0)) x.m.natAbs x.e).toF32.1

/-! ### Series in units of 2^-320 -/

def fx1 : Int := 2 ^ 320
/-- A number in units of 2^-320. -/
def Dy.fx (x : Dy) : Int := if -320 ≤ x.e then x.m * 2 ^ (x.e + 320).toNat else x.m / 2 ^ (-320 - x.e).toNat
def Dy.ofFx (x : Int) : Dy := ⟨x, -320⟩
def fxMul (a b : Int) : Int := a * b / fx1

/-- The terms t, t × r / (k + 1), … of a power series; `down` turns the sign of each later term. -/
def expTerms (r : Int) : Nat → Nat → Int → Int
  | 0, _, _ => 0
  | n + 1, k, t => t + expTerms r n (k + 1) (fxMul t r / (k + 1))
/-- The sum of z^(2j + 1) / (2j + 1), each power times `zz` on the way: atanh for zz = z², arctan for zz = −z². -/
def oddTerms (zz : Int) : Nat → Nat → Int → Int
  | 0, _, _ => 0
  | n + 1, j, p => p / (2 * j + 1) + oddTerms zz n (j + 1) (fxMul p zz)
/-- The terms of sine and cosine: each is the last times −x² / ((k + 1)(k + 2)). -/
def trigTerms (xx : Int) : Nat → Nat → Int → Int
  | 0, _, _ => 0
  | n + 1, k, t => t + trigTerms xx n (k + 2) (-(fxMul t xx / ((k + 1) * (k + 2))))
/-- x + x³/3 + x⁵/(3 × 5) + …, from whose product with the normal density the normal distribution follows. -/
def normTerms (xx : Int) : Nat → Nat → Int → Int
  | 0, _, _ => 0
  | n + 1, k, t => t + normTerms xx n (k + 2) (fxMul t xx / (k + 2))

def atanhFx (z : Int) : Int := oddTerms (fxMul z z) 112 0 z
def atanFx (z : Int) : Int := oddTerms (-(fxMul z z)) 112 0 z
/-- ln 2 = 2 atanh(1/3). -/
def ln2Fx : Int := 2 * atanhFx (fx1 / 3)
/-- π = 16 arctan(1/5) − 4 arctan(1/239). -/
def piFx : Int := 16 * atanFx (fx1 / 5) - 4 * atanFx (fx1 / 239)

/-! ### The functions -/

/-- A number held between −512 and 512, where every function here has long reached its limit. -/
def Dy.clip (x : Dy) : Dy := if x.le ⟨-512, 0⟩ then ⟨-512, 0⟩ else if (Dy.int 512).le x then ⟨512, 0⟩ else x

/-- e^x for x in [−1024, 1024]: x = n ln 2 + r with r in [−ln 2 / 2, ln 2 / 2). -/
def Dy.exp (x : Dy) : Dy :=
  let y := x.fx
  let n := (y + ln2Fx / 2) / ln2Fx
  ⟨expTerms (y - n * ln2Fx) 64 0 fx1, n - 320⟩
/-- 2^x for x in [−512, 512]. -/
def Dy.exp2 (x : Dy) : Dy := (Dy.ofFx (fxMul x.fx ln2Fx)).exp
/-- log2 of a positive number: 2^k y with y in [0.75, 1.5), and ln y = 2 atanh((y − 1) / (y + 1)). -/
def Dy.log2 (x : Dy) : Dy :=
  let l := Nat.log2 x.m.toNat
  let k : Int := l + x.e
  let y := (Dy.mk x.m (-l)).fx
  let (k, y) := if fx1 * 3 / 2 ≤ y then (k + 1, y / 2) else (k, y)
  let z := (y - fx1) * fx1 / (y + fx1)
  (Dy.int k).add (Dy.ofFx (2 * atanhFx z * fx1 / ln2Fx))
/-- 1 / (1 + e^−x). -/
def Dy.sigmoid (x : Dy) : Dy :=
  let E := x.clip.abs.neg.exp
  let d := (Dy.int 1).add E
  if x.m < 0 then E.div d else (Dy.int 1).div d
/-- (1 − E) / (1 + E) with E = e^(−2|x|), under the sign of x. -/
def Dy.tanh (x : Dy) : Dy :=
  let E := (Dy.int (-2)).mulX x.clip.abs |>.exp
  let t := ((Dy.int 1).sub E).div ((Dy.int 1).add E)
  if x.m < 0 then t.neg else t
/-- The normal distribution at x in [−9, 9]: 1/2 plus the density times the series. -/
def Dy.phi (x : Dy) : Dy :=
  let y := x.fx
  let yy := fxMul y y
  let density := ((Dy.ofFx (-(yy / 2))).exp).div (Dy.sqrt (Dy.ofFx (2 * piFx)))
  (Dy.pow2 (-1)).add (density.mulX (Dy.ofFx (normTerms yy 300 1 y)))
/-- x Φ(x); x itself from 9 on, which it equals within 2^-62 of itself. -/
def Dy.geluErf (x : Dy) : Dy := if (Dy.int 9).le x then x else x.mul x.phi
/-- x / 2 × (1 + tanh u) = x × sigmoid(2u), with u = sqrt(2/π) (x + 0.044715 x³). -/
def Dy.geluTanh (x : Dy) : Dy :=
  let cube := (x.mulX x).mulX x
  let u := (Dy.sqrt ((Dy.int 2).div (Dy.ofFx piFx))).mul (x.add (((Dy.int 44715).mulX cube).div (Dy.int 1000000)))
  x.mul ((Dy.int 2).mulX u).sigmoid
/-- Cosine and sine of a phase in units of 2^-64 turn. -/
def cosSin (ph : W64) : Dy × Dy :=
  let a := piFx * ph.toInt / 2 ^ 63
  let aa := fxMul a a
  (.ofFx (trigTerms aa 60 0 fx1), .ofFx (trigTerms aa 60 1 a))
/-- The mean of the squares of finite values, for at least one. -/
def meanSquare (l : List Val) : Dy := (Dy.sum (l.map (fun v => v.dy.mulX v.dy))).div (Dy.int l.length)

/-! ### Bounds -/

/-- The exponent of the unit in the last place at a number: that of the subnormals near and at 0. (DESIGN CHOICE: log entry 15) -/
def Dy.ulpExp (x : Dy) : Int := if x.m = 0 then -149 else max (topExp x.m.natAbs 1 x.e - 23) (-149)
/-- n units in the last place at a number. -/
def Dy.ulps (n : Int) (x : Dy) : Dy := ⟨n, x.ulpExp⟩
/-- What R63 adds where the result is subnormal: 2^-150. -/
def Dy.subnormal (x : Dy) : Dy := if x.m ≠ 0 && !(Dy.pow2 (-126)).le x.abs then .pow2 (-150) else ⟨0, 0⟩

/-- Whether an FP32 result lies within a distance of a reference; an infinity stands for 2^128 here. (DESIGN CHOICE: log entry 15) -/
def heldBy (ref tol : Dy) (r : W32) : Bool :=
  match Val.ofF32 r with
  | .nan => false
  | .inf n => (((⟨if n then -1 else 1, 128⟩ : Dy).sub ref).abs).le tol
  | .fin n m e => (((Val.fin n m e).dy.sub ref).abs).le tol

/-- A result that the manual bounds and does not fix: the free value where the bound admits it, else the reference rounded once.
(DESIGN CHOICE: log entry 15) -/
def held (free : W32) (ref tol : Dy) : W32 :=
  if heldBy ref (tol.add ref.subnormal) free then free else ref.toF32

end Sys2Proof.Machine
end

