-- ==== Sys2Proof/Machine/Vector.lean ====
section
/-! DEFINITION. The element functions of the vector unit and the row functions of the reductions (R49, R50, R62, R150 to R156). A
result that the manual bounds but does not fix is a free value; its end values are the ones R62 states. -/
namespace Sys2Proof.Machine

/-! ### Flags of a result -/

/-- The flags that a result raises on its operands (R54): a NaN from operands that are not NaN, an infinity where the exact
result is finite, and a subnormal or zero result where the exact result is not zero. -/
def resultFlags (operandNan finite : Bool) (exactZero : Bool) (r : W32) : Flags :=
  match Val.ofF32 r with
  | .nan => if operandNan then 0 else Flags.inv
  | .inf _ => if finite then Flags.ovf else 0
  | .fin _ m _ => if m < 2 ^ 23 && !exactZero then Flags.unf else 0

/-- Whether a value lies above num / den, for den above 0. -/
def Val.above (v : Val) (num : Int) (den : Nat) : Bool :=
  match v with
  | .nan => false
  | .inf n => !n
  | .fin n m e =>
    let x : Int := if n then -(m : Int) else m
    if 0 ≤ e then decide (num < x * 2 ^ e.toNat * den) else decide (num * 2 ^ (-e).toNat < x * den)
def Val.below (v : Val) (num : Int) (den : Nat) : Bool := v.neg.above (-num) den

def Val.isFin : Val → Bool
  | .fin _ _ _ => true
  | _ => false

/-! ### Bounded functions -/

def posInf32 : W32 := 0x7F800000
def negInf32 : W32 := 0xFF800000

/-- The pick-th of a list of neighbouring magnitude codes. (DESIGN CHOICE: log entry 15) -/
def pickCode (l : List Nat) (pick : Nat) : Nat := l.getD (pick % l.length) 0

/-- 1 / a within 1 ulp (R62): one of the FP32 neighbours of the exact quotient. (DESIGN CHOICE: log entry 15) -/
def recip32 (a : W32) : Flagged W32 :=
  match Val.ofF32 a with
  | .nan => (nan32, 0)
  | .inf n => (if n then 0x80000000 else 0, 0)
  | .fin n m e =>
    let sign : Nat := if n then 2 ^ 31 else 0
    if m = 0 then (if n then negInf32 else posInf32, 0)
    else
      let c := fp32Fmt.roundCode .rne 1 m (-e)
      let (cm, ce) := fp32Fmt.magOf c
      -- c × m against 1: exact, above or below the quotient
      let p := cm * m
      let q := ce + e
      let cmp (x : Nat) : Bool := if 0 ≤ q then decide (1 < x * 2 ^ q.toNat) else decide (2 ^ (-q).toNat < x)
      let exact : Bool := if 0 ≤ q then decide (p * 2 ^ q.toNat = 1) else decide (p = 2 ^ (-q).toNat)
      let k := pickCode (if exact then [c, c + 1, c - 1] else if cmp p then [c, c - 1] else [c, c + 1]) (Config.recipPick a)
      let r : W32 := BitVec.ofNat 32 (sign + min k 0x7f800000)
      (r, resultFlags false true false r)

/-- 1 / sqrt a within 1 ulp (R62). (DESIGN CHOICE: log entry 15) -/
def rsqrt32 (a : W32) : Flagged W32 :=
  match Val.ofF32 a with
  | .nan => (nan32, 0)
  | .inf n => if n then (nan32, Flags.inv) else (0, 0)
  | .fin n m e =>
    if m = 0 then (if n then negInf32 else posInf32, 0)
    else if n then (nan32, Flags.inv)
    else
      -- m × 2^e = m' × 4^h; the root of its reciprocal is r × 2^(−80 − h) with r below the exact value by less than 1
      let m' := if e % 2 = 0 then m else 2 * m
      let h := if e % 2 = 0 then e / 2 else (e - 1) / 2
      let r := isqrt (2 ^ 160 / m')
      let exact := r * r * m' = 2 ^ 160
      let q : Int := (Nat.log2 r : Int) - 80 - h - 23
      let c := (q - fp32Fmt.qmin).toNat * 2 ^ 23 + r / 2 ^ (Nat.log2 r - 23)
      (BitVec.ofNat 32 (pickCode (if exact then [c, c + 1, c - 1] else [c, c + 1]) (Config.rsqrtPick a)), 0)

/-- A function of one element: NaN gives NaN; `ends` gives the values R62 states; a finite operand gives the free function held within
its bound `tol` of the reference; for an infinite operand without an end value the manual states no result, and the free function
stands. (DESIGN CHOICE: log entry 15) -/
def boundedFn (f : W32 → W32) (ends : Val → Option W32) (ref : Dy → Dy) (tol : Dy → Dy) (zeroAt : Val → Bool) (a : W32) :
    Flagged W32 :=
  let v := Val.ofF32 a
  if v.isNan then (nan32, 0)
  else
    let r := match ends v with
      | some r => r
      | none => if v.isFin then let x := ref v.dy; held (f a) x (tol x) else f a
    (r, resultFlags false v.isFin (zeroAt v) r)

/-- 2 ulp; 2^-149 absolute for subnormal results. -/
def exp32 : W32 → Flagged W32 :=
  boundedFn Config.exp
    (fun v => if v.above 88722839 1000000 then some posInf32 else if v.below (-103972) 1000 then some 0 else none)
    Dy.exp (fun x => if (Dy.pow2 (-126)).le x then x.ulps 2 else .pow2 (-149)) (fun v => v.isInf)
def exp2_32 : W32 → Flagged W32 :=
  boundedFn Config.exp2
    (fun v => if !v.below 128 1 then some posInf32 else if v.below (-150) 1 then some 0 else none)
    Dy.exp2 (Dy.ulps 1) (fun v => v.isInf)
/-- log2 of 0 is −Inf and of a negative value NaN; neither pole is an overflow. 1 ulp outside [0.75, 1.5], 2^-24 absolute inside. -/
def log2_32 (a : W32) : Flagged W32 :=
  let v := Val.ofF32 a
  if v.isZero then (negInf32, 0)
  else boundedFn Config.log2 (fun v => if v.isNeg then some nan32 else none) Dy.log2
    (fun x => if !v.below 3 4 && !v.above 3 2 then .pow2 (-24) else x.ulps 1) (fun v => decide (v = .ofF32 0x3F800000)) a
def sigmoid32 : W32 → Flagged W32 := boundedFn Config.sigmoid (fun _ => none) Dy.sigmoid (Dy.ulps 2) (fun v => v.isInf)
def tanh32 : W32 → Flagged W32 := boundedFn Config.tanh (fun _ => none) Dy.tanh (Dy.ulps 2) Val.isZero
/-- 4 ulp; −0.0 for x below −9 in both forms. -/
def geluErf32 : W32 → Flagged W32 :=
  boundedFn Config.geluErf (fun v => if v.below (-9) 1 then some 0x80000000 else none) Dy.geluErf (Dy.ulps 4)
    (fun v => v.isZero || v.isInf)
def geluTanh32 : W32 → Flagged W32 :=
  boundedFn Config.geluTanh (fun v => if v.below (-9) 1 then some 0x80000000 else none) Dy.geluTanh (Dy.ulps 4)
    (fun v => v.isZero || v.isInf)

/-- One multiplication after a bounded function: SILU and DIV (R150). -/
def mulAfter (a : W32) (r : Flagged W32) : Flagged W32 :=
  let (p, f) := fp32Mul a r.1
  (p, r.2 ||| f)

/-- A product after a bounded function, held within the bound that R62 gives the whole operation; the reference rounded once stands in
for a product outside it. (DESIGN CHOICE: log entry 15) -/
def heldProduct (r : Flagged W32) (ref tol : Dy) : Flagged W32 :=
  if heldBy ref (tol.add ref.subnormal) r.1 then r
  else let b := ref.toF32; (b, r.2 ||| resultFlags false true (decide (ref.m = 0)) b)

/-- |x| × 2^-149 where the bounded factor of x is subnormal: that step's own error in the product (R63). -/
def stepError (x factor : Dy) : Dy := if (Dy.pow2 (-126)).le factor.abs then ⟨0, 0⟩ else x.abs.mulX (.pow2 (-149))

/-- x × sigmoid(x), 3 ulp. -/
def silu32 (a : W32) : Flagged W32 :=
  let r := mulAfter a (sigmoid32 a)
  let v := Val.ofF32 a
  if v.isFin then
    let g := v.dy.sigmoid
    let x := v.dy.mul g
    heldProduct r x ((x.ulps 3).add ((Dy.int 2).mulX (stepError v.dy g)))
  else r

/-- a × reciprocal(b), 2 ulp where no step overflows. -/
def div32 (a b : W32) : Flagged W32 :=
  let k := recip32 b
  let r := mulAfter a k
  let x := Val.ofF32 a
  let y := Val.ofF32 b
  if x.isFin && y.isFin && (Val.ofF32 k.1).isFin && (Val.ofF32 r.1).isFin then
    let q := x.dy.div y.dy
    heldProduct r q ((q.ulps 2).add (stepError x.dy ((Dy.int 1).div y.dy)))
  else r

/-! ### Elementwise operations (R150, R151) -/

/-- What an operation gives before the destination's rounding: an exact value that rounds once, with its operands, or a finished
FP32 result. -/
inductive Res where
  | exact (v : Val) (operands : List Val)
  | done (r : Flagged W32)
  deriving DecidableEq, Repr

/-- The result in the destination's format, FP32 or BF16 (R151): the code and the flags. -/
def Res.finish (bf16 : Bool) : Res → Nat × Flags
  | .exact v ops =>
    if bf16 then
      let (b, f) := v.toBf16 .rne
      (b.toNat, f ||| invIf ops v)
    else
      let (b, f) := finish32 ops v
      (b.toNat, f)
  | .done (b, f) =>
    if bf16 then
      let (h, g) := (Val.ofF32 b).toBf16 .rne
      (h.toNat, f ||| g)
    else (b.toNat, f)

/-- A vector operation on its sources a, b and c. -/
abbrev VecFn := W32 → W32 → W32 → Res

def fnAdd : VecFn := fun a b _ => .exact (Val.add (.ofF32 a) (.ofF32 b)) [.ofF32 a, .ofF32 b]
def fnSub : VecFn := fun a b _ => .exact (Val.add (.ofF32 a) (Val.ofF32 b).neg) [.ofF32 a, .ofF32 b]
def fnMul : VecFn := fun a b _ => .exact (Val.mul (.ofF32 a) (.ofF32 b)) [.ofF32 a, .ofF32 b]
def fnFma : VecFn := fun a b c =>
  .exact (Val.add (Val.mul (.ofF32 a) (.ofF32 b)) (.ofF32 c)) [.ofF32 a, .ofF32 b, .ofF32 c]
def fnMax : VecFn := fun a b _ => .done (fp32Max a b, 0)
def fnMin : VecFn := fun a b _ => .done (fp32Min a b, 0)
/-- ABS, NEG and COPYSIGN act on the sign bit alone, also of a NaN, whose payload stays in an FP32 result; a BF16 result is a conversion
and makes a NaN canonical (R53). (DESIGN CHOICE: log entry 116) -/
def fnAbs : VecFn := fun a _ _ => .done (a &&& 0x7FFFFFFF, 0)
/-- DESIGN CHOICE: log entry 116. -/
def fnNeg : VecFn := fun a _ _ => .done (a ^^^ 0x80000000, 0)
/-- DESIGN CHOICE: log entry 116. -/
def fnCopysign : VecFn := fun a b _ => .done ((a &&& 0x7FFFFFFF) ||| (b &&& 0x80000000), 0)
/-- a × 2^IMM8 with IMM8 signed. -/
def fnScale2 (imm : BitVec 8) : VecFn := fun a _ _ =>
  .done (finish32 [.ofF32 a] (Val.mul (.ofF32 a) (.fin false 1 imm.toInt)))
def fnRecip : VecFn := fun a _ _ => .done (recip32 a)
def fnSqrt : VecFn := fun a _ _ => .done (fp32Sqrt a)
def fnRsqrt : VecFn := fun a _ _ => .done (rsqrt32 a)
def fnExp : VecFn := fun a _ _ => .done (exp32 a)
def fnExp2 : VecFn := fun a _ _ => .done (exp2_32 a)
def fnLog2 : VecFn := fun a _ _ => .done (log2_32 a)
def fnSigmoid : VecFn := fun a _ _ => .done (sigmoid32 a)
def fnTanh : VecFn := fun a _ _ => .done (tanh32 a)
def fnSilu : VecFn := fun a _ _ => .done (silu32 a)
def fnGeluErf : VecFn := fun a _ _ => .done (geluErf32 a)
def fnGeluTanh : VecFn := fun a _ _ => .done (geluTanh32 a)
def fnDiv : VecFn := fun a b _ => .done (div32 a b)

/-- A row of results packed into a dense FP32 or BF16 row, with all flags. -/
def packResults (bf16 : Bool) (l : List Res) : List Byte × Flags :=
  let rs := l.map (Res.finish bf16)
  (rs.flatMap (fun r => leBytes (if bf16 then 2 else 4) r.1), Flags.join (rs.map (·.2)))

/-- The k elements of a source row along D0, a row of one element repeated (R151). -/
def spread (k : Nat) (l : List W32) : List W32 :=
  match l with
  | [x] => List.replicate k x
  | l => l

/-- One destination row of an elementwise operation. -/
def vecRow (f : VecFn) : List W32 → List W32 → List W32 → List Res
  | a :: as, b :: bs, c :: cs => f a b c :: vecRow f as bs cs
  | _, _, _ => []

/-! ### Rotary embedding (R153, R236) -/

/-- The phase of a pair at a position. -/
def ropePhase (pos f : Nat) : W64 := BitVec.ofNat 64 (pos * f)

/-- A result of a rotation: NaN where an input is, else the free value held within 2^-22 (|x| + |y|) of the exact rotation, whose
condition on cos and sin R236 meets. An infinite input leaves the free value. (DESIGN CHOICE: log entry 15) -/
def ropeOut (x y : Val) (free : W32) (ref : Dy) : Flagged W32 :=
  let r := if x.isNan || y.isNan then nan32
    else if x.isFin && y.isFin then held free ref ((x.dy.abs.add y.dy.abs).mulX (.pow2 (-22)))
    else free
  (r, resultFlags (x.isNan || y.isNan) (x.isFin && y.isFin) (x.isZero && y.isZero) r)

/-- A pair rotated: (x c − y s, x s + y c). -/
def ropePair (pos f : Nat) (x y : W32) : Flagged W32 × Flagged W32 :=
  let ph := ropePhase pos f
  let (c, s) := cosSin ph
  let a := Val.ofF32 x
  let b := Val.ofF32 y
  (ropeOut a b (Config.ropeFirst x y ph) ((a.dy.mulX c).sub (b.dy.mulX s)),
   ropeOut a b (Config.ropeSecond x y ph) ((a.dy.mulX s).add (b.dy.mulX c)))

/-- A row of D elements rotated by its pairs: adjacent elements, or an element with the one half a row above (R153). -/
def ropeRow (half : Bool) (pos : Nat) (table : List Nat) (row : List W32) : List (Flagged W32) :=
  let n := row.length / 2
  let at' (i : Nat) : W32 := row.getD i 0
  (List.range row.length).map (fun i =>
    if half then
      if i < n then (ropePair pos (table.getD i 0) (at' i) (at' (i + n))).1
      else (ropePair pos (table.getD (i - n) 0) (at' (i - n)) (at' i)).2
    else
      if i % 2 = 0 then (ropePair pos (table.getD (i / 2) 0) (at' i) (at' (i + 1))).1
      else (ropePair pos (table.getD (i / 2) 0) (at' (i - 1)) (at' i)).2)

/-! ### Reductions (R154, R155) -/

def rowMax (l : List W32) : W32 := l.foldl fp32Max negInf32
def rowMin (l : List W32) : W32 := l.foldl fp32Min posInf32

/-- (D + 3) × 2^-25 + 2^-e of a reference, D the depth of the tree over n elements. -/
def rmsTol (n : Nat) (e : Int) (ref : Dy) : Dy := ref.abs.mulX ((⟨(log2Up n + 3 : Nat), -25⟩ : Dy).add (.pow2 e))

/-- sqrt(mean of x²): +0.0 over no element, NaN for a NaN, +Inf for an infinity, else a free value held within the bound of the sentinel
norm. (DESIGN CHOICE: log entry 15) -/
def rms32 (l : List W32) : Flagged W32 :=
  let vs := l.map Val.ofF32
  if l.isEmpty then (0, 0)
  else if vs.any Val.isNan then (nan32, 0)
  else if vs.any Val.isInf then (posInf32, 0)
  else
    let x := (meanSquare vs).sqrt
    let r := held (Config.rms l) x (rmsTol l.length (-24) x)
    (r, resultFlags false true (vs.all Val.isZero) r)

/-- rsqrt(mean of x² + eps) with the end values of R62, else a free value held within the bound of the RMS normalisation.
(DESIGN CHOICE: log entry 15) -/
def rmsRoot (row : List W32) (eps : W32) : Flagged W32 :=
  let vs := row.map Val.ofF32
  let v := Val.ofF32 eps
  if vs.any Val.isNan || v.isNan then (nan32, 0)
  else if vs.any Val.isInf || v.isInf then (if v = .inf true then (nan32, Flags.inv) else (0, 0))
  else
    let m := (meanSquare vs).add v.dy
    if m.m = 0 then (posInf32, 0)
    else if m.m < 0 then (nan32, Flags.inv)
    else
      let x := (Dy.int 1).div m.sqrt
      let r := held (Config.rmsRoot row eps) x (rmsTol row.length (-23) x)
      (r, resultFlags false true false r)

/-- A row normalised: x × rsqrt(mean of x² + eps) × g, the two products rounded in that order. (DESIGN CHOICE: log entry 15) -/
def rmsnRow (row : List W32) (eps : W32) (gain : List W32) : List (Flagged W32) :=
  let k := rmsRoot row eps
  (row.zip gain).map (fun (x, g) =>
    let (p, f) := fp32Mul x k.1
    let (r, h) := fp32Mul p g
    (r, k.2 ||| f ||| h))

/-- The exact softmax of a row and, for each element, the relative bound 11 + L + |x − m| + d̄ in units of 2^-24; an element of −Inf has
no part. -/
def softmaxRef (row : List W32) : List (Dy × Dy) :=
  let vs := row.map Val.ofF32
  let top := (Val.ofF32 (row.foldl fp32Max negInf32)).dy
  let ds := vs.map (fun v => if v.isFin then (v.dy.sub top) else ⟨-1024, 0⟩)
  let es := ds.map (fun d => if d.le ⟨-512, 0⟩ then ⟨0, 0⟩ else d.exp)
  let total := Dy.sum es
  let ys := es.map (fun e => e.div total)
  let dbar := Dy.sum ((ys.zip ds).map (fun (y, d) => y.mul d.abs))
  (ys.zip ds).map (fun (y, d) => (y, ((Dy.int (11 + log2Up row.length : Nat)).add d.abs).add dbar))

/-- A softmax row with the special rows of R155; an element of −Inf in another row is +0.0. (DESIGN CHOICE: log entry 15) -/
def softmaxRow (row : List W32) : List (Flagged W32) :=
  if row.all (· = negInf32) then row.map (fun _ => (0, 0))
  else if row.any (fun x => (Val.ofF32 x).isNan || x = posInf32) then row.map (fun _ => (nan32, Flags.inv))
  else (row.zipIdx.zip (softmaxRef row)).map (fun ((x, i), (y, b)) =>
    let r := if x = negInf32 then 0 else held (Config.softmax row i) y ((y.mul b).mulX (.pow2 (-24)))
    (r, resultFlags false true (x = negInf32) r))

end Sys2Proof.Machine
end

