-- ==== Sys2Proof/Machine/Units.lean ====
section
/-! DEFINITION. The units behind the issue stage: operand bytes, channel slots, unit faults, and what the mould array and the
vector unit compute (R48, R96, R97, R143 to R156, R188 to R199). -/
namespace Sys2Proof.Machine

/-- A dispatched instruction and the task that dispatched it. -/
structure UCtx where
  t : TaskRef
  w : Work
  deriving DecidableEq, Repr

def UCtx.regs (c : UCtx) : Regs := fun i => Store.get {} c.w.d i.toNat
def UCtx.sreg (c : UCtx) (i : BitVec 5) : W32 := if i = 0 then 0 else Store.get 0 c.w.s i.toNat

/-! ### Bytes of operands -/

/-- Bytes of a memory of the tile (pools 0 to 3, peat 4) as a crucible reads them: peat through its gathering buffer (R184). -/
def State.memRead (s : State) (t : TaskRef) (mem off n : Nat) : List Byte :=
  if mem = 4 then s.nearRead t.tile t.cru true off n else s.readPool t.tile mem off n

/-- Whether a range of a memory of the tile meets a poisoned line. -/
def State.memPoisoned (s : State) (t : TaskRef) (mem off n : Nat) : Bool :=
  if mem = 4 then s.peatPoisoned t.tile off n else s.poolPoisoned t.tile mem off n

def Seen.covers (x : Seen) (mem off n : Nat) : Bool := x.mem = mem && decide (x.lo ≤ off) && decide (off + n ≤ x.lo + x.data.length)

/-- Bytes as the unit reads them: those it has read already stay as they were then (R86, R191). (DESIGN CHOICE: log entry 21) -/
def State.unitBytes (s : State) (c : UCtx) (mem off n : Nat) : List Byte :=
  if c.w.seen.isEmpty then s.memRead c.t mem off n
  else (List.range n).flatMap (fun i => match c.w.seen.find? (fun x => x.covers mem (off + i) 1) with
    | some x => [x.data.getD (off + i - x.lo) 0]
    | none => s.memRead c.t mem (off + i) 1)

/-- The width of an ECC line of a memory of the tile: 4 KiB in a pool, 256 bytes in peat (R169, R175). -/
def lineWidth (mem : Nat) : Nat := if mem = 4 then 256 else 4096

/-- A range cut at the lines of its memory: (offset, bytes). -/
def linePieces (mem off n : Nat) : List (Nat × Nat) :=
  (linesOf (lineWidth mem) off n).map (fun l =>
    let lo := max off (l * lineWidth mem)
    (lo, min (off + n) ((l + 1) * lineWidth mem) - lo))

/-- A range read now, line by line, for an instruction that goes on later. -/
def State.capture (s : State) (t : TaskRef) (mem off n : Nat) : List Seen :=
  (linePieces mem off n).map (fun p => ⟨mem, p.1, s.memRead t mem p.1 p.2, s.memPoisoned t mem p.1 p.2⟩)

/-- The part of a range, if any, where the unit meets an uncorrectable error: a poisoned line that it has not read before, or a line
that was poisoned when it read it. -/
def State.badPart (s : State) (c : UCtx) (mem off n : Nat) : Option (Nat × Nat) :=
  (linePieces mem off n).find? (fun p => match c.w.seen.find? (fun x => x.covers mem p.1 p.2) with
    | some x => x.bad
    | none => s.memPoisoned c.t mem p.1 p.2)

/-- The tile and crucible of a REMOTE offset's slot, and the offset there; none when the slot is not mapped (R75, R76). -/
structure RemotePlace where
  tile : Nat
  cru  : Nat
  pool : Bool
  off  : Nat
  deriving DecidableEq, Repr

def State.remotePlace (s : State) (tile ph : Nat) : Option RemotePlace :=
  (s.slotTile tile (s.polderOf tile) (bits ph 47 41)).map
    (fun d => ⟨d, bits ph 40 39, bit ph 38, bits ph 32 0⟩)

/-- Bytes at a physical place of any space; REMOTE and MIRE are read where they are when the unit reads them directly. -/
def State.physBytes (s : State) (c : UCtx) (sp ph n : Nat) : List Byte :=
  if sp = spPool then s.unitBytes c c.t.cru ph n
  else if sp = spPeat then s.unitBytes c 4 ph n
  else if sp = spSibling then s.unitBytes c (bits ph 26 25) (bits ph 24 0) n
  else if sp = spMire then s.readMire (bits ph 40 0) n
  else match s.remotePlace c.t.tile ph with
    | some r => if r.pool then s.readPool r.tile r.cru r.off n else s.readPeat r.tile r.off n
    | none => undefBytes s.fresh n

/-- n bytes at a task-relative address plus an offset. -/
def State.bytesFrom (s : State) (c : UCtx) (a : Addr) (o n : Nat) : List Byte :=
  let (sp, ph) := s.physOf c.t a
  s.physBytes c sp (ph + o) n

/-- Offset of row r of plane q from ADDR (R123). -/
def Desc.rowOff (d : Desc) (q r : Nat) : Nat := q * d.s2.toNat + r * d.s1.toNat

/-- The (plane, row) pairs of a descriptor in order; none for an operand of zero length. -/
def Desc.grid (d : Desc) : List (Nat × Nat) :=
  if d.d0 = 0 then []
  else (List.range d.d2.toNat).flatMap (fun q => (List.range d.d1.toNat).map (fun r => (q, r)))

/-- The bytes of a source row and of its part of the aux vector; a dimension of 1 repeats (R146, R151). -/
def State.srcBytes (s : State) (c : UCtx) (f : Fmt) (d : Desc) (q r : Nat) : List Byte × List Byte :=
  let q := if d.d2 = 1 then 0 else q
  let r := if d.d1 = 1 then 0 else r
  let k := d.d0.toNat
  let ax := f.auxRowBytes k
  (s.bytesFrom c d.addr (d.rowOff q r) (f.rowBytes k),
   if f.hasAux then s.bytesFrom c d.aux ((q * d.d1.toNat + r) * ax) ax else [])

/-- The elements of a source row. -/
def State.srcElems (s : State) (c : UCtx) (d : Desc) (q r : Nat) : List DElem :=
  match Fmt.ofByte d.fmt.toNat with
  | none => []
  | some f => let (row, aux) := s.srcBytes c f d q r; f.decodeRow row aux d.d0.toNat

/-- A source row decoded to FP32 with the flags of its rounding. -/
def State.srcFlagged (s : State) (c : UCtx) (d : Desc) (q r : Nat) : List (Flagged W32) :=
  match Fmt.ofByte d.fmt.toNat with
  | none => []
  | some f => let (row, aux) := s.srcBytes c f d q r; f.rowF32 row aux d.d0.toNat
def State.srcRow (s : State) (c : UCtx) (d : Desc) (q r : Nat) : List W32 := (s.srcFlagged c d q r).map (·.1)
def State.srcFlags (s : State) (c : UCtx) (d : Desc) (q r : Nat) : Flags := Flags.join ((s.srcFlagged c d q r).map (·.2))

/-- A row key (R126). -/
structure RowKey where
  pos    : Nat
  stream : Nat
  gen    : BitVec 8
  node   : Nat
  valid  : Bool
  deriving DecidableEq, Repr

def RowKey.ofBytes (b : List Byte) : RowKey :=
  let w0 := leAt b 0 8
  ⟨bits w0 31 0, bits w0 43 32, BitVec.ofNat 8 (bits w0 55 48), bits w0 61 56, bit (leAt b 8 8) 0⟩

/-- Row i of a row-key table. -/
def State.rowKey (s : State) (c : UCtx) (d : Desc) (i : Nat) : RowKey := .ofBytes (s.bytesFrom c d.addr (16 * i) 16)

/-! ### The byte ranges that an instruction touches -/

/-- The byte ranges of an operand at one address: (address, offset, bytes), row by row or as one block, then its aux vector. -/
def OpCheck.pieces (o : OpCheck) : List (Addr × Nat × Nat) :=
  (match o.rb with
   | none => if o.main = 0 then [] else [(o.d.addr, 0, o.main)]
   | some rb => o.d.grid.map (fun p => (o.d.addr, o.d.rowOff p.1 p.2, rb))) ++
  (match o.aux with | none => [] | some n => if n = 0 then [] else [(o.d.aux, 0, n)])

/-- One touched range in memory. -/
structure Piece where
  space : Nat
  off   : Nat
  n     : Nat
  write : Bool
  addr  : Addr
  deriving DecidableEq, Repr

def State.piecesOf (s : State) (c : UCtx) (o : OpCheck) : List Piece :=
  o.pieces.map (fun p =>
    let (sp, ph) := s.physOf c.t p.1
    ⟨sp, ph + p.2.1, p.2.2, o.dest, p.1 + BitVec.ofNat 48 p.2.1⟩)

def State.workOps (s : State) (c : UCtx) : List OpCheck := s.operands c.t c.regs c.w.instr

/-- Every range that the instruction touches. -/
def State.workPieces (s : State) (c : UCtx) : List Piece := (s.workOps c).flatMap (s.piecesOf c)

def Piece.near (p : Piece) : Bool := nearSpace p.space

/-- The memory of a tile that a range of the tile lies in, and the offset there. -/
def memOf (cru : Nat) (p : Piece) : Option (Nat × Nat) :=
  if p.space = spPool then some (cru, p.off)
  else if p.space = spPeat then some (4, p.off)
  else if p.space = spSibling then some (bits p.off 26 25, bits p.off 24 0)
  else none

/-- Whether every range in this tile lies in memory that can be reached now (R174, R181). (DEDUCED: log entry 38) -/
def State.piecesReady (s : State) (c : UCtx) (l : List Piece) : Bool :=
  l.all (fun p =>
    if p.near then (if p.write then s.nearWritable else s.nearReady) c.t.tile c.t.cru (p.space = spPeat) p.off p.n
    else p.space ≠ spSibling || s.poolOn c.t.tile (bits p.off 26 25))

/-- The first place where a source range meets an uncorrectable line of own pool, sibling pool or peat (R201). -/
def State.poisonedPiece (s : State) (c : UCtx) (l : List Piece) : Option Piece :=
  l.findSome? (fun p =>
    if p.write then none
    else match memOf c.t.cru p with
      | none => none
      | some (mem, off) => (s.badPart c mem off p.n).map (fun q =>
          { p with off := p.off + (q.1 - off), n := q.2, addr := p.addr + BitVec.ofNat 48 (q.1 - off) }))

/-- The counters of pool groups and peat line reads for the ranges of an instruction, by memory and direction (R171, R204, R206). -/
def State.countPieces (s : State) (c : UCtx) (l : List Piece) : State :=
  let one (s : State) (mem : Nat) (w : Bool) : State :=
    let rs := (l.filter (fun p => p.write = w)).filterMap (fun p => (memOf c.t.cru p).bind (fun q => if q.1 = mem then some (q.2, p.n) else none))
    if rs.isEmpty then s else s.countPool c.t.tile rs
  let s := (List.range 4).foldl (fun s mem => one (one s mem false) mem true) s
  (l.filter (fun p => p.space = spPeat && !p.write)).foldl (fun s p => s.countNearRead c.t.tile c.t.cru p.off p.n) s

/-! ### Channel slots of tagged operands (R188 to R199) -/

/-- A slot that tagged operands touch: its memory (pools 0 to 3, peat 4), region, slot, whether as a writer, the bytes touched, the
task-relative address of its first byte, and its 4 KiB unit of the memory. -/
structure SlotNeed where
  mem   : Nat
  reg   : Nat
  slot  : Nat
  write : Bool
  n     : Nat
  addr  : Addr
  unit  : Nat
  deriving DecidableEq, Repr

/-- Bytes that two ranges share. -/
def overlap (a n b m : Nat) : Nat := min (a + n) (b + m) - max a b

/-- The region and slot of a 4 KiB unit of a memory. -/
def State.regionOf (s : State) (tile mem u : Nat) : Option (Nat × Nat) :=
  let peat : Bool := mem = 4
  let rs := if peat then List.range 16 else (List.range 8).map (8 * mem + ·)
  (rs.find? (fun r => s.cregEn tile peat r && s.cregBase tile peat r / 4096 ≤ u &&
      u < s.cregBase tile peat r / 4096 + s.cregCount tile peat r)).map
    (fun r => (r, u - s.cregBase tile peat r / 4096))

/-- The slots a range touches, entered by memory and 4 KiB unit; a writer wins over a reader (R193). -/
def State.needsOf (s : State) (tile cru : Nat) (p : Piece) (m : Store (Option SlotNeed)) : Store (Option SlotNeed) :=
  match memOf cru p with
  | none => m
  | some (mem, off) =>
    (linesOf 4096 off p.n).foldl (fun m u =>
      match s.regionOf tile mem u with
      | none => m
      | some (r, k) =>
        let key := mem * 2 ^ 22 + u
        let old := Store.get none m key
        let w := p.write || (match old with | some x => x.write | none => false)
        let n := (match old with | some x => x.n | none => 0) + overlap off p.n (4096 * u) 4096
        Store.set none m key (some ⟨mem, r, k, w, n, p.addr + BitVec.ofNat 48 (4096 * u) - BitVec.ofNat 48 off, u⟩)) m

def SlotNeed.peat (n : SlotNeed) : Bool := n.mem = 4
def SlotNeed.key (n : SlotNeed) : Nat := n.mem * 2 ^ 22 + n.unit
def SlotNeed.claim (tile : Nat) (n : SlotNeed) : Claim := ⟨tile, n.peat, n.reg, n.slot, n.write, n.n, false⟩
/-- The memory of a claimed slot. -/
def Claim.mem (c : Claim) : Nat := if c.peat then 4 else c.reg / 8
/-- Two claims on one slot. -/
def Claim.same (a b : Claim) : Bool := a.peat = b.peat && a.reg = b.reg && a.slot = b.slot

/-- Whether a slot is in the state a claim needs: EMPTY for a writer, FULL for a reader (R192). -/
def State.slotReady (s : State) (c : Claim) : Bool :=
  s.slot c.tile c.peat c.reg c.slot = (if c.write then SlotState.empty else SlotState.full)
def State.setSlot (s : State) (tile : Nat) (peat : Bool) (r k : Nat) (x : SlotState) : State :=
  { s with slots := Store.set .empty s.slots (slotKey tile peat r k) x }
def State.takeSlot (s : State) (c : Claim) : State :=
  s.setSlot c.tile c.peat c.reg c.slot (if c.write then .filling else .draining)

/-- The end of an access to each claimed slot (R191): FILLING becomes FULL and DRAINING becomes EMPTY, unless the region was
disabled meanwhile (R199). (DESIGN CHOICE: log entry 22) -/
def State.endClaims (s : State) : List Claim → State
  | [] => s
  | c :: r =>
    let held : Bool := s.slot c.tile c.peat c.reg c.slot = (if c.write then SlotState.filling else SlotState.draining)
    let s := if !c.dead && held then s.setSlot c.tile c.peat c.reg c.slot (if c.write then .full else .empty) else s
    s.endClaims r

/-- Bytes of a memory touched by an access that goes on: each claimed slot of which the last byte was touched ends its access
(R191). The claims that stay. -/
def State.touchClaims (s : State) (mem off n : Nat) (l : List Claim) : State × List Claim :=
  let l := l.map (fun c => if c.mem = mem then { c with left := c.left - overlap off n (s.slotStart c) 4096 } else c)
  (s.endClaims (l.filter (fun c => c.left = 0)), l.filter (fun c => c.left ≠ 0))

/-- The place of a unit among the waiters of a tile (R194): crucible by crucible, mould array, vector unit, attention unit, runner. -/
def unitRank (cru : Nat) (u : UnitKind) : Nat := 4 * cru + (unitCode u - 2)
/-- The place of the i-th incoming access that waits. -/
def probeRank (i : Nat) : Nat := 16 + i

def State.probesAt (s : State) (tile : Nat) : List Probe := Store.get [] s.probes tile
def State.setProbes (s : State) (tile : Nat) (l : List Probe) : State := { s with probes := Store.set [] s.probes tile l }

/-- Whether an access that waits is after the same slot state. -/
def wants (c : Claim) (w : Option Claim) : Bool :=
  match w with
  | none => false
  | some x => x.same c && x.write = c.write

/-- Whether a waiting access that comes earlier in the order of R194 is after the same slot state. -/
def State.outranked (s : State) (tile rank : Nat) (c : Claim) : Bool :=
  (List.range 4).any (fun k => [UnitKind.mould, .vector, .attention, .runner].any (fun u =>
    decide (unitRank k u < rank) && ((s.cru tile k).queue u).any (fun w => wants c w.want))) ||
  ((s.probesAt tile).zip (List.range (s.probesAt tile).length)).any (fun p => decide (probeRank p.2 < rank) && wants c p.1.want)

/-- Whether a claim can be made now. -/
def State.claimable (s : State) (tile rank : Nat) (c : Claim) : Bool := s.slotReady c && !s.outranked tile rank c

/-- Slots claimed one at a time in ascending order, those held already passed over; the first that is not ready stops the walk
(R193). The claims held, and the slot that is not ready. -/
def State.claimAll (s : State) (tile rank : Nat) (held : List Claim) : List SlotNeed → State × List Claim × Option SlotNeed
  | [] => (s, held, none)
  | n :: r =>
    let c := n.claim tile
    if held.any c.same then s.claimAll tile rank held r
    else if s.claimable tile rank c then (s.takeSlot c).claimAll tile rank (held ++ [c]) r
    else (s, held, some n)

/-- Whether an operand is the destination of a move from a far source, whose slots are claimed as its data comes. -/
def lateDest (s : State) (c : UCtx) (o : OpCheck) : Bool :=
  match c.w.instr with
  | .move _ _ r | .gather _ _ r => o.dest && farSpace (s.spaceOf c.t (c.regs r.dS).addr)
  | _ => false

/-- The index vector of a GATHER, where it lies, or as it was read once its slots were granted (memory 5 of what was read).
(DESIGN CHOICE: log entry 23) -/
def State.gatherRows (s : State) (c : UCtx) (r : RunOps) : List Nat :=
  let n := (c.regs r.dD).rows
  match c.w.seen.find? (fun x => x.mem = 5) with
  | some x => (List.range n).map (fun i => leAt x.data (4 * i) 4)
  | none => (List.range n).map (fun i => leNat (s.bytesFrom c (c.regs r.dI).addr (4 * i) 4))

/-- The ranges that a tagged operand's access touches. The rows of a GATHER's source are those that its indexes name (R195). -/
def State.tagPieces (s : State) (c : UCtx) (o : OpCheck) : List Piece :=
  match c.w.instr with
  | .gather _ _ r =>
    if !o.dest && o.rb.isSome then
      let (sp, ph) := s.physOf c.t o.d.addr
      ((s.gatherRows c r).filter (fun i => i < o.d.d1.toNat)).map (fun i =>
        (⟨sp, ph + i * o.d.s1.toNat, o.d.d0.toNat, false, o.d.addr + BitVec.ofNat 48 (i * o.d.s1.toNat)⟩ : Piece))
    else s.piecesOf c o
  | _ => s.piecesOf c o

/-- The slots that ranges touch, in ascending address order (R193). -/
def State.needsIn (s : State) (tile cru : Nat) (ps : List Piece) : List SlotNeed :=
  (ps.foldl (fun m p => s.needsOf tile cru p m) []).filterMap (·.2)

/-- The slots of a tagged destination whose data comes from afar, whole (R193). -/
def State.lateNeeds (s : State) (c : UCtx) : List SlotNeed :=
  let tagged := (s.workOps c).filter (fun o => o.d.tag = 1 && lateDest s c o)
  s.needsIn c.t.tile c.t.cru (tagged.flatMap (s.piecesOf c))

/-- The slots of a list that a range of the tile touches. -/
def touched (cru : Nat) (l : List SlotNeed) (p : Piece) : List SlotNeed :=
  match memOf cru p with
  | none => []
  | some (mem, off) => l.filter (fun n => n.mem = mem && overlap off p.n (4096 * n.unit) 4096 ≠ 0)

/-- The rows of zeros of a GATHER: destination rows whose index is out of range (R162). -/
def State.zeroPieces (s : State) (c : UCtx) : List Piece :=
  match c.w.instr with
  | .gather _ _ r =>
    let d := c.regs r.dD
    let (sp, ph) := s.physOf c.t d.addr
    ((d.grid.map (fun p => d.rowOff p.1 p.2)).zip (s.gatherRows c r)).filterMap (fun (o, i) =>
      if i < (c.regs r.dS).d1.toNat then none
      else some (⟨sp, ph + o, d.d0.toNat, true, d.addr + BitVec.ofNat 48 o⟩ : Piece))
  | _ => []

/-- The slots that an instruction's tagged operands touch before its data leaves or while it computes, in ascending order, without
those whose access has ended (R193, R195). Of a destination whose data comes from afar these are the slots of rows of zeros. -/
def State.slotNeeds (s : State) (c : UCtx) : List SlotNeed :=
  let tagged := (s.workOps c).filter (fun o => o.d.tag = 1 && !lateDest s c o)
  let here := s.needsIn c.t.tile c.t.cru (tagged.flatMap (s.tagPieces c))
  let late := (s.zeroPieces c).flatMap (touched c.t.cru (s.lateNeeds c))
  (((here ++ late).foldl (fun m n => Store.set none m n.key (some n)) ([] : Store (Option SlotNeed))).filterMap (·.2)).filter
    (fun n => !c.w.ended.contains n.key)

/-! ### Work in its queue -/

/-- A work item replaced by its instruction number. -/
def Crucible.mapWork (c : Crucible) (u : UnitKind) (iid : Nat) (f : Work → Work) : Crucible :=
  c.setQueue u ((c.queue u).map (fun w => if w.iid = iid then f w else w))
def State.mapWork (s : State) (t : TaskRef) (u : UnitKind) (iid : Nat) (f : Work → Work) : State :=
  s.setCru t.tile t.cru ((s.cru t.tile t.cru).mapWork u iid f)

/-- Bytes that a unit has touched: the accesses of claimed slots that this completes end (R191). -/
def State.touchWork (s : State) (t : TaskRef) (u : UnitKind) (iid mem off n : Nat) : State :=
  match ((s.cru t.tile t.cru).queue u).find? (fun w => w.iid = iid) with
  | none => s
  | some w =>
    let (s1, l) := s.touchClaims mem off n w.claims
    s1.mapWork t u iid (fun w => { w with claims := l })

/-- The end of the accesses of an instruction's claims that a test picks (R191). -/
def State.endSome (s : State) (t : TaskRef) (u : UnitKind) (iid : Nat) (p : Claim → Bool) : State :=
  match ((s.cru t.tile t.cru).queue u).find? (fun w => w.iid = iid) with
  | none => s
  | some w => (s.endClaims (w.claims.filter p)).mapWork t u iid (fun w => { w with claims := w.claims.filter (fun c => !p c) })

/-- A completed instruction leaves its queue and frees its scoreboard entries, and tasks that waited for either are re-evaluated
(R70, R81, R86). -/
def State.dropWork (s : State) (t : TaskRef) (u : UnitKind) (iid : Nat) : State :=
  let c := s.cru t.tile t.cru
  let c := c.setQueue u ((c.queue u).filter (fun w => w.iid ≠ iid))
  (s.setCru t.tile t.cru { c with sb := c.sb.filter (fun e => e.iid ≠ iid) }).wakeTasks t.tile t.cru

/-- Tries to claim every slot of a list that the instruction needs. True when it holds them all; otherwise it waits, and the wait is
counted when it begins (R192, R204, R206). -/
def State.claimNeeds (s : State) (c : UCtx) (u : UnitKind) (l : List SlotNeed) : Bool × State :=
  let (s1, held, miss) := s.claimAll c.t.tile (unitRank c.t.cru u) c.w.claims l
  match miss with
  | none => (true, s1.mapWork c.t u c.w.iid (fun w => { w with claims := held, since := none, want := none }))
  | some n =>
    let fresh : Bool := c.w.since.isNone || decide (c.w.want ≠ some (n.claim c.t.tile))
    let s2 := s1.mapWork c.t u c.w.iid (fun w =>
      { w with claims := held, since := if fresh then some s.up else w.since, want := some (n.claim c.t.tile) })
    (false, if fresh then s2.bump (cregPage c.t.tile n.peat) (if n.peat then 6 else 4) 1 else s2)

def State.claimWork (s : State) (c : UCtx) (u : UnitKind) : Bool × State := s.claimNeeds c u (s.slotNeeds c)

/-! ### Unit faults (R96, R97) -/

/-- A write of bytes to a physical place of a near space or a sibling's pool; the far spaces are the runner's packets. -/
def State.writePhys (s : State) (t : TaskRef) (sp ph : Nat) (bs : List Byte) : State :=
  if sp = spPool then s.nearWrite t.tile t.cru false ph bs
  else if sp = spPeat then s.nearWrite t.tile t.cru true ph bs
  else if sp = spSibling then s.writePool t.tile (bits ph 26 25) (bits ph 24 0) bs
  else s

/-- Bytes put at a REMOTE or MIRE place directly. -/
def State.putFar (s : State) (tile sp ph : Nat) (bs : List Byte) : State :=
  if sp = spMire then { s with mire := putBytes s.mire (bits ph 40 0) bs }
  else match s.remotePlace tile ph with
    | none => s
    | some r => if r.pool then { s with pool := putBytes s.pool (poolKey r.tile r.cru r.off) bs }
                else { s with peat := putBytes s.peat (peatKey r.tile r.off) bs }

/-- The destination ranges of an instruction: from the first byte to the last, skipped bytes included (R84). -/
def State.destRanges (s : State) (c : UCtx) : List Piece :=
  ((s.workOps c).filter (·.dest)).flatMap (fun o =>
    let one (a : Addr) (n : Nat) : List Piece :=
      let (sp, ph) := s.physOf c.t a
      if n = 0 then [] else [⟨sp, ph, n, true, a⟩]
    one o.d.addr o.main ++ (match o.aux with | none => [] | some n => one o.d.aux n))

/-- Free bytes over every destination range of an instruction, in whatever space it lies (R97, R145). (DESIGN CHOICE: log entry 17) -/
def State.spoil (s : State) (c : UCtx) : State :=
  (s.destRanges c).foldl (fun s p =>
    let bs := undefBytes s.fresh p.n
    (if farSpace p.space then s.putFar c.t.tile p.space p.off bs else s.writePhys c.t p.space p.off bs).tickFresh) s

/-- A fault that a unit finds: the instruction is aborted, its destination bytes are undefined, and its task drains (R97). -/
def State.unitFault (s : State) (c : UCtx) (unit code : Nat) (addr : Addr) (off : Nat) : State :=
  let s := s.discard c.t.tile c.t.cru (fun w => w.iid = c.w.iid)
  (s.spoil c).taskFault c.t ⟨code, unit, addr, c.w.pc, c.w.seq, off⟩

/-- An error that a unit meets at a place of its tile: recorded on the memory's page, with POISON where the line is marked (R201). -/
def State.unitEccNote (s : State) (c : UCtx) (u : UnitKind) (p : Piece) (e : EccResult) : State :=
  match memOf c.t.cru p with
  | none => s
  | some (mem, off) =>
    let bad := e = .uncorrectable && s.memPoisoned c.t mem off 1
    if p.space = spSibling then s.poolEcc c.t.tile mem 5 off e bad false
    else s.nearEcc c.t.tile c.t.cru (unitCode u - 1) (mem = 4) off e bad

/-- An uncorrectable error of a unit: recorded, and the instruction faults (R96, R201). -/
def State.unitEcc (s : State) (c : UCtx) (u : UnitKind) (p : Piece) : State :=
  let s := s.unitEccNote c u p .uncorrectable
  if p.space = spSibling then s.unitFault c 5 fRemote p.addr 0
  else s.unitFault c (unitCode u) fEcc p.addr p.off

/-! ### What the mould array and the vector unit compute -/

/-- The result of an instruction: destination rows as (offset from ADDR, bytes), and its flags. -/
structure Effect where
  rows  : List (Nat × List Byte)
  flags : Flags
  deriving DecidableEq, Repr

/-- Whether a descriptor's format is BF16. -/
def Desc.bf16 (d : Desc) : Bool := d.fmt = 0x01

def effectOf (d : Desc) (l : List ((Nat × Nat) × List Byte × Flags)) : Effect :=
  ⟨l.map (fun x => (d.rowOff x.1.1 x.1.2, x.2.1)), Flags.join (l.map (·.2.2))⟩

/-- More flags beside those of a row's result. -/
def withFlags (f : Flags) (x : List Byte × Flags) : List Byte × Flags := (x.1, x.2 ||| f)

/-- MMUL and MMUL.LIFT (R148, R149). (DESIGN CHOICE: log entry 118) -/
def State.matEffect (s : State) (c : UCtx) (lift : Bool) (o : MatOps) : Effect :=
  let a := c.regs o.dA
  let b := c.regs o.dB
  let d := c.regs o.dC
  let rd := c.regs o.dR
  match Fmt.ofByte a.fmt.toNat, Fmt.ofByte b.fmt.toNat with
  | some fa, some fb =>
    effectOf d (d.grid.map (fun (q, m) =>
      if a.d2 = 0 || b.d2 = 0 then ((q, m), undefBytes s.fresh (d.d0.toNat * (if d.bf16 then 2 else 4)), 0)
      else
        let x := s.srcElems c a q m
        let row := (List.range d.d0.toNat).map (fun n =>
          let y := s.srcElems c b q n
          Res.done (if lift then liftRows fa fb x y (s.srcElems c rd q n) else dotRows fa fb x y))
        ((q, m), packResults d.bf16 row)))
  | _, _ => ⟨[], 0⟩

/-- A source of a vector instruction as one row: the descriptor's, or the scalar that BS or CS repeats. -/
def State.vecSrc (s : State) (c : UCtx) (scalar : Bool) (d : Desc) (sr : BitVec 5) (k q r : Nat) : List W32 :=
  if scalar then List.replicate k (c.sreg sr) else spread k (s.srcRow c d q r)

/-- An elementwise instruction with nsrc sources (R150, R151). -/
def State.vecEffect (s : State) (c : UCtx) (nsrc : Nat) (o : VecOps) (f : VecFn) : Effect :=
  let d := c.regs o.dD
  let k := d.d0.toNat
  effectOf d (d.grid.map (fun (q, r) =>
    let a := s.vecSrc c false (c.regs o.dA) 0 k q r
    let b := if 2 ≤ nsrc then s.vecSrc c o.bs (c.regs o.dB) o.sB k q r else a
    let x := if 3 ≤ nsrc then s.vecSrc c o.cs (c.regs o.dC) o.sC k q r else a
    let fl := s.srcFlags c (c.regs o.dA) q r ||| (if 2 ≤ nsrc && !o.bs then s.srcFlags c (c.regs o.dB) q r else 0) |||
      (if 3 ≤ nsrc && !o.cs then s.srcFlags c (c.regs o.dC) q r else 0)
    ((q, r), withFlags fl (packResults d.bf16 (vecRow f a b x)))))

/-- The rounding modes of one CVT row (R52, R152): stochastic with the draw of each element, nearest for FP32 and for a row whose
key is not VALID. -/
def cvtModes (stochastic : Bool) (f : Fmt) (key : RowKey) (site k : Nat) : List RMode :=
  if stochastic && key.valid && f.elem ≠ .fp32 then
    (List.range k).map (fun i => RMode.sr (draw16 0 ⟨3, key.stream, key.gen.toNat, key.node, site, key.pos, i⟩))
  else List.replicate k .rne

/-- CVT (R152). -/
def State.cvtEffect (s : State) (c : UCtx) (h : THdr) (o : VecOps) : Effect :=
  let d := c.regs o.dD
  let k := d.d0.toNat
  match Fmt.ofByte d.fmt.toNat with
  | none => ⟨[], 0⟩
  | some f =>
    effectOf d (d.grid.map (fun (q, r) =>
      let key := s.rowKey c (c.regs o.dK) (q * d.d1.toNat + r)
      let vals := (s.vecSrc c false (c.regs o.dA) 0 k q r).map Val.ofF32
      ((q, r), withFlags (s.srcFlags c (c.regs o.dA) q r) (f.encodeRow vals (cvtModes (h.mod = 1) f key o.site.toNat k)))))

/-- The entries of a rotary table for a head dimension (R235). -/
def State.rotary (s : State) (c : UCtx) (d : Desc) (dim : Nat) : List Nat :=
  (List.range (dim / 2)).map (fun i => leNat (s.bytesFrom c d.addr (8 * i) 8))

/-- ROPE (R153). -/
def State.ropeEffect (s : State) (c : UCtx) (h : THdr) (o : VecOps) : Effect :=
  let d := c.regs o.dD
  let k := d.d0.toNat
  let table := s.rotary c (c.regs o.dB) (c.regs o.dA).d0.toNat
  effectOf d (d.grid.map (fun (q, r) =>
    let key := s.rowKey c (c.regs o.dK) (q * d.d1.toNat + r)
    let row := s.vecSrc c false (c.regs o.dA) 0 k q r
    let out := if key.valid then ropeRow (h.mod.getLsbD 0) key.pos table row else row.map (fun x => (x, 0))
    ((q, r), withFlags (s.srcFlags c (c.regs o.dA) q r) (packResults d.bf16 (out.map Res.done)))))

/-- The (plane, row) pairs of a destination, for reductions over rows that may have no element. -/
def Desc.rowsOf (d : Desc) : List (Nat × Nat) :=
  (List.range d.d2.toNat).flatMap (fun q => (List.range d.d1.toNat).map (fun r => (q, r)))

/-- A reduction of each row to one element (R154). `index` writes the code itself. -/
def State.redEffect (s : State) (c : UCtx) (o : RedOps) (index : Bool) (f : List W32 → Flagged W32) : Effect :=
  let d := c.regs o.dD
  let a := c.regs o.dA
  effectOf d (d.rowsOf.map (fun (q, r) =>
    let row := if a.d0 = 0 then [] else s.srcRow c a q r
    let (v, fl) := f row
    let fl := if a.d0 = 0 then fl else fl ||| s.srcFlags c a q r
    ((q, r), if index then (leBytes 4 v.toNat, fl) else packResults d.bf16 [Res.done (v, fl)])))

/-- A reduction that keeps the row's shape (R154, R155); `more` are the flags of a further source. -/
def State.normEffect (s : State) (c : UCtx) (o : RedOps) (more : Flags) (f : List W32 → List (Flagged W32)) : Effect :=
  let d := c.regs o.dD
  effectOf d (d.grid.map (fun (q, r) =>
    ((q, r), withFlags (more ||| s.srcFlags c (c.regs o.dA) q r)
      (packResults d.bf16 ((f (s.srcRow c (c.regs o.dA) q r)).map Res.done)))))

/-- PSUM: the pairwise sum over planes, in plane order (R154 to R156). -/
def State.psumEffect (s : State) (c : UCtx) (o : RedOps) : Effect :=
  let d := c.regs o.dD
  let a := c.regs o.dA
  effectOf d (d.grid.map (fun (q, r) =>
    let planes := (List.range a.d2.toNat).map (fun p => s.srcRow c a p r)
    let fl := Flags.join ((List.range a.d2.toNat).map (fun p => s.srcFlags c a p r))
    let row := (List.range d.d0.toNat).map (fun i => Res.done (pairwise (planes.map (fun l => l.getD i nan32))))
    ((q, r), withFlags fl (packResults d.bf16 row))))

/-- What the mould array and the vector unit write for each of their instructions, and to which descriptor. -/
def State.arithEffect (s : State) (c : UCtx) : Option (Desc × Effect) :=
  let v (o : VecOps) (n : Nat) (f : VecFn) : Option (Desc × Effect) := some (c.regs o.dD, s.vecEffect c n o f)
  let r (o : RedOps) (f : List W32 → Flagged W32) : Option (Desc × Effect) := some (c.regs o.dD, s.redEffect c o false f)
  match c.w.instr with
  | .mmul _ _ o => some (c.regs o.dC, s.matEffect c false o)
  | .mmulLift _ _ o => some (c.regs o.dC, s.matEffect c true o)
  | .vAdd _ _ o => v o 2 fnAdd
  | .vSub _ _ o => v o 2 fnSub
  | .vMul _ _ o => v o 2 fnMul
  | .fma _ _ o => v o 3 fnFma
  | .vMax _ _ o => v o 2 fnMax
  | .vMin _ _ o => v o 2 fnMin
  | .abs _ _ o => v o 1 fnAbs
  | .neg _ _ o => v o 1 fnNeg
  | .copysign _ _ o => v o 2 fnCopysign
  | .scale2 _ _ o => v o 1 (fnScale2 o.imm8)
  | .recip _ _ o => v o 1 fnRecip
  | .sqrt _ _ o => v o 1 fnSqrt
  | .rsqrt _ _ o => v o 1 fnRsqrt
  | .exp _ _ o => v o 1 fnExp
  | .exp2 _ _ o => v o 1 fnExp2
  | .log2 _ _ o => v o 1 fnLog2
  | .sigmoid _ _ o => v o 1 fnSigmoid
  | .tanh _ _ o => v o 1 fnTanh
  | .silu _ _ o => v o 1 fnSilu
  | .geluErf _ _ o => v o 1 fnGeluErf
  | .geluTanh _ _ o => v o 1 fnGeluTanh
  | .div _ _ o => v o 2 fnDiv
  | .cvt _ h o => some (c.regs o.dD, s.cvtEffect c h o)
  | .rope _ h o => some (c.regs o.dD, s.ropeEffect c h o)
  | .rsum _ _ o => r o pairwise
  | .rmax _ _ o => r o (fun l => (rowMax l, 0))
  | .rmin _ _ o => r o (fun l => (rowMin l, 0))
  | .rargmax _ _ o => some (c.regs o.dD, s.redEffect c o true (fun l => (argMax l, 0)))
  | .rargmin _ _ o => some (c.regs o.dD, s.redEffect c o true (fun l => (argMin l, 0)))
  | .rms _ _ o => r o rms32
  | .rmsn _ _ o => some (c.regs o.dD, s.normEffect c o (s.srcFlags c (c.regs o.dB) 0 0)
      (fun l => rmsnRow l (c.sreg o.sE) (s.srcRow c (c.regs o.dB) 0 0)))
  | .softmax _ _ o => some (c.regs o.dD, s.normEffect c o 0 softmaxRow)
  | .psum _ _ o => some (c.regs o.dD, s.psumEffect c o)
  | _ => none

/-- Destination rows written. -/
def State.writeRows (s : State) (t : TaskRef) (sp ph : Nat) : List (Nat × List Byte) → State
  | [] => s
  | (o, bs) :: r => (s.writePhys t sp (ph + o) bs).writeRows t sp ph r

/-- Destination rows cut at the 4 KiB units of their memory. -/
def unitRows (ph : Nat) (rows : List (Nat × List Byte)) : List (Nat × List Byte) :=
  rows.flatMap (fun (o, bs) => (linesOf 4096 (ph + o) bs.length).map (fun u =>
    let lo := max (ph + o) (4096 * u)
    (lo - ph, (bs.drop (lo - (ph + o))).take (min (ph + o + bs.length) (4096 * (u + 1)) - lo))))

/-- The 4 KiB unit of a byte of this tile, as claims name it. -/
def unitKey (cru sp off : Nat) : Option Nat := (memOf cru ⟨sp, off, 1, true, 0⟩).map (fun q => q.1 * 2 ^ 22 + q.2 / 4096)

/-- Destination rows without those that went into slots whose access has ended (R191, R193). -/
def restRows (c : UCtx) (sp ph : Nat) (rows : List (Nat × List Byte)) : List (Nat × List Byte) :=
  if c.w.ended.isEmpty then rows
  else (unitRows ph rows).filter (fun r => match unitKey c.t.cru sp (ph + r.1) with
    | some k => !c.w.ended.contains k
    | none => true)

/-! ### Overlaps between an instruction's own operands (R145) -/

/-- Two ranges that share a byte. -/
def Piece.meets (a b : Piece) : Bool :=
  a.space = b.space && a.n ≠ 0 && b.n ≠ 0 && a.off < b.off + b.n && b.off < a.off + a.n

/-- Whether a source operand may lie exactly under the destination: the in-place rule of vector instructions, RMSN and SOFTMAX. -/
def inPlaceOk : Instr → Bool
  | .mmul _ _ _ | .mmulLift _ _ _ | .rsum _ _ _ | .rmax _ _ _ | .rmin _ _ _ | .rargmax _ _ _ | .rargmin _ _ _ | .rms _ _ _
  | .psum _ _ _ | .attnRing _ _ _ | .attnPage _ _ _ | .kvput _ _ _ | .move _ _ _ | .fill _ _ _ | .gather _ _ _ => false
  | _ => true

def Desc.sameOperand (a b : Desc) : Bool :=
  a.addr = b.addr && a.fmt = b.fmt && a.sameShape b && a.s1 = b.s1 && a.s2 = b.s2 && a.aux = b.aux

/-- An overlap that leaves the destination bytes undefined. (DESIGN CHOICE: log entry 17) -/
def State.badOverlap (s : State) (c : UCtx) : Bool :=
  let ops := s.workOps c
  let range (o : OpCheck) : List Piece :=
    let (sp, ph) := s.physOf c.t o.d.addr
    let (sa, pa) := s.physOf c.t o.d.aux
    ⟨sp, ph, o.main, o.dest, o.d.addr⟩ :: (match o.aux with | none => [] | some n => [⟨sa, pa, n, o.dest, o.d.aux⟩])
  (ops.filter (·.dest)).any (fun d => (ops.filter (fun o => !o.dest)).any (fun o =>
    !(inPlaceOk c.w.instr && d.d.sameOperand o.d) && (range d).any (fun a => (range o).any a.meets)))

end Sys2Proof.Machine
end

