-- ==== Sys2Proof/Machine/Attention.lean ====
section
/-! DEFINITION. The attention unit: KV records, context blocks, stream maps, rings and pages, the score and value arithmetic, and
KVPUT (chapter 6). -/
namespace Sys2Proof.Machine

/-! ### The context block and the stream map (R207 to R213) -/

/-- A KV context block. -/
structure KvCtx where
  fmt    : Nat
  page   : Bool
  bf16   : Bool
  shadow : Bool
  half   : Bool
  head   : Nat
  heads  : Nat
  window : Nat
  map    : Nat
  zeros  : Bool
  deriving DecidableEq, Repr

def KvCtx.ofBytes (b : List Byte) : KvCtx :=
  let w := leAt b 0 8
  let m := leAt b 8 8
  { fmt := bits w 7 0, page := bit w 8, bf16 := bit w 9, shadow := bit w 10, half := bit w 11, head := bits w 21 16,
    heads := bits w 30 24, window := bits w 52 32, map := bits m 32 0,
    zeros := bits w 15 12 = 0 && bits w 23 22 = 0 && !bit w 31 && bits w 63 53 = 0 && bits m 63 33 = 0 }

/-- The KV formats of R207. -/
def kvFmt (b : Nat) : Option Fmt :=
  match Fmt.ofByte b with
  | none => none
  | some f =>
    if (f.elem = .e4m3 || f.elem = .e5m2 || f.elem = .int8 || f.elem = .e2m1 || f.elem = .int4) &&
        (f.scale = .b32 || f.scale = .b16) && !f.l2 then some f
    else none

/-- The rules of R211 but for KVFMT. -/
def KvCtx.ok (k : KvCtx) (pageOp : Bool) : Bool :=
  k.zeros && k.map % 32 = 0 && decide (k.map + 131072 ≤ peatSize) && k.page = pageOp &&
    (!k.page || (decide (1 ≤ k.heads) && decide (k.heads ≤ 64) && decide (k.head < k.heads)))

/-- Bytes of one KV record at a head dimension (R208, R209). -/
def kvRecBytes (f : Fmt) (dim : Nat) : Nat := f.rowBytes (2 * dim)

/-- A stream map entry (R212). -/
structure MapEntry where
  base   : Nat
  log2   : Nat
  gen    : BitVec 8
  valid  : Bool
  shadow : Nat
  tree   : Nat
  deriving DecidableEq, Repr

def MapEntry.ofBytes (b : List Byte) : MapEntry :=
  let w := leAt b 0 8
  ⟨bits w 32 0, bits w 37 33, BitVec.ofNat 8 (bits w 45 38), bit w 46, bits (leAt b 8 8) 40 0, bits (leAt b 16 8) 32 0⟩

/-- The ranges of R212, and every structure an entry names inside the peat (R213). -/
def MapEntry.ok (e : MapEntry) (page : Bool) (rec : Nat) : Bool :=
  (if page then decide (e.log2 ≤ 16) && decide (e.base + 16 * 2 ^ e.log2 ≤ peatSize)
   else decide (8 ≤ e.log2) && decide (e.log2 ≤ 20) && decide (e.base + rec * 2 ^ e.log2 ≤ peatSize)) &&
  decide (e.tree + 64 * rec ≤ peatSize)

/-- The entry of a stream, read through the crucible's peat port. (DEDUCED: log entry 30) -/
def State.mapEntry (s : State) (t : TaskRef) (k : KvCtx) (n : Nat) : MapEntry :=
  .ofBytes (s.nearRead t.tile t.cru true (k.map + 32 * n) 32)

/-- A page-table entry (R219). -/
structure PageEnt where
  state : Nat
  peat  : Nat
  mire  : Nat
  deriving DecidableEq, Repr

def PageEnt.ofBytes (b : List Byte) : PageEnt :=
  let w := leAt b 0 8
  ⟨bits w 2 0, bits w 40 8, bits (leAt b 8 8) 40 0⟩

def pgAbsent : Nat := 0
def pgResident : Nat := 1
def pgSpilling : Nat := 2
def pgSpilled : Nat := 3
def pgFetching : Nat := 4

/-- DEDUCED: log entry 30. -/
def State.pageEnt (s : State) (t : TaskRef) (e : MapEntry) (j : Nat) : PageEnt :=
  .ofBytes (s.nearRead t.tile t.cru true (e.base + 16 * j) 16)

/-- A fault of the attention unit: TASK_FAULT.UNIT and CODE; TASK_FADDR is the context block's address. -/
structure AttFault where
  unit : Nat
  code : Nat
  deriving DecidableEq, Repr

def attDesc : AttFault := ⟨4, fDescriptor⟩
def attAbsent : AttFault := ⟨4, fRemote⟩
def attRefused : AttFault := ⟨5, fRemote⟩

/-- Where a KV record lies: a peat offset or a mire address. -/
inductive RecAt where
  | peat (off : Nat)
  | mire (a : Nat)
  deriving DecidableEq, Repr

/-! ### Rows and the keys they admit (R213 to R223, R238) -/

/-- What the instruction's rows share. -/
structure AttEnv where
  t   : TaskRef
  k   : KvCtx
  f   : Fmt
  size : Nat
  deriving DecidableEq, Repr

/-- Whether a row of the instruction takes part: VALID, its entry VALID and of its generation. -/
def State.rowLive (s : State) (v : AttEnv) (r : RowKey) : Bool :=
  r.valid && (let e := s.mapEntry v.t v.k r.stream; e.valid && e.gen = r.gen)

/-- The committed positions that a row may admit before its mask: all below a bound, within the window in ring mode. -/
def windowOf (k : KvCtx) (pos top : Nat) : List Nat :=
  let lo := if k.page then 0 else pos + 1 - k.window
  (List.range (top - lo)).map (lo + ·)

/-- Bit b of a key-block mask row. -/
def maskBit (row : List Byte) (n b : Nat) : Bool := decide (b < n) && ((row.getD (b / 8) 0).getLsbD (b % 8))

/-- A row of the instruction with what it admits: committed positions and tree nodes, ascending. -/
structure AttRow where
  key  : RowKey
  live : Bool
  keys : List Nat
  tree : List Nat
  deriving DecidableEq, Repr

/-- The page copy that an access of a position uses, by the entry's state; none when it must wait (R220).
(DESIGN CHOICE: log entry 50) -/
def State.pagePlace (s : State) (v : AttEnv) (e : MapEntry) (pos : Nat) (mire : Bool) : RecAt :=
  let p := s.pageEnt v.t e (pos / 256)
  let o := (v.k.head * 256 + pos % 256) * v.size
  if mire then .mire (p.mire + o) else .peat (p.peat + o)

/-- The place a committed key is read from, or the fault of its page (R214, R218, R220). -/
def State.keyPlace (s : State) (v : AttEnv) (e : MapEntry) (pos : Nat) : Except AttFault RecAt :=
  if v.k.page then
    if 256 * 2 ^ e.log2 ≤ pos then .error attDesc
    else
      let p := s.pageEnt v.t e (pos / 256)
      if p.state = pgResident || p.state = pgSpilling then
        if peatSize < p.peat + v.k.heads * 256 * v.size then .error attDesc else .ok (s.pagePlace v e pos false)
      else if p.state = pgSpilled || p.state = pgFetching then .ok (s.pagePlace v e pos true)
      else .error attAbsent
  else .ok (.peat (e.base + pos % 2 ^ e.log2 * v.size))

def treePlace (v : AttEnv) (e : MapEntry) (node : Nat) : RecAt := .peat (e.tree + node * v.size)

/-- The rules a live row must obey (R213, R215, R238). -/
def rowOk (v : AttEnv) (e : MapEntry) (r : RowKey) : Bool :=
  e.ok v.k.page v.size && (v.k.page || !(decide (2 ^ e.log2 ≤ r.pos) && decide (2 ^ e.log2 < v.k.window)))

/-- The distinct members of a list, first occurrences kept in order. -/
def distinctPlaces (l : List RecAt) : List RecAt := l.eraseDups

/-! ### Arithmetic (R225 to R229) -/

/-- K and V of a record, decoded (R208). -/
def decodeRec (f : Fmt) (dim : Nat) (bs : List Byte) : List DElem × List DElem :=
  let l := f.decodeRow bs [] (2 * dim)
  (l.take dim, l.drop dim)

/-- The record of K and V (R208, R232). -/
def encodeRec (f : Fmt) (k v : List Val) : List Byte × Flags :=
  f.encodeRow (k ++ v) (List.replicate (k.length + v.length) .rne)

/-- A query head in its scoring format (R225). -/
def scoreFmt (bf16 : Bool) : Fmt := if bf16 then ⟨.bf16, .none, false⟩ else ⟨.e4m3, .b32, false⟩
def prepQuery (bf16 : Bool) (q : List W32) : List DElem × Flags :=
  let f := scoreFmt bf16
  let (bs, fl) := f.encodeRow (q.map Val.ofF32) (List.replicate q.length .rne)
  (f.decodeRow bs [] q.length, fl)

/-- One score (R226). -/
def scoreOf (sS : W32) (bf16 : Bool) (f : Fmt) (q k : List DElem) : Flagged W32 :=
  let (d, a) := dotRows (scoreFmt bf16) f q k
  let (r, b) := fp32Mul sS d
  (r, a ||| b)

/-- The running state of one head (R227). -/
structure SoftRun where
  m   : W32
  l   : W32
  acc : List W32
  fl  : Flags
  deriving DecidableEq, Repr

/-- DEDUCED: log entry 29. -/
def SoftRun.start (dim : Nat) : SoftRun := ⟨negInf32, 0, List.replicate dim 0, 0⟩

def fp32Sub (a b : W32) : Flagged W32 := finish32 [.ofF32 a, .ofF32 b] (Val.add (.ofF32 a) (Val.ofF32 b).neg)
def fp32Fma (a b c : W32) : Flagged W32 :=
  finish32 [.ofF32 a, .ofF32 b, .ofF32 c] (Val.add (Val.mul (.ofF32 a) (.ofF32 b)) (.ofF32 c))

/-- exp(x − m), +0.0 for x = −Inf. -/
def expDiff (x m : W32) : Flagged W32 :=
  if x = negInf32 then (0, 0)
  else
    let (d, a) := fp32Sub x m
    let (r, b) := exp32 d
    (r, a ||| b)

/-- pv_block (R228): exact products truncated at 2^(E_max − 89), one rounding. -/
def pvBlock (ps : List W32) (vs : List Val) : Flagged W32 :=
  let prods := (ps.zip vs).map (fun (p, v) => Val.mul (.ofF32 p) v)
  let q : Int := match maxExp prods with | some e => e - 89 | none => 0
  (Val.ofInt (sumUnits q prods) q false).toF32

/-- One key block: its scores and the decoded values of its keys. -/
def SoftRun.step (dim : Nat) (r : SoftRun) (b : List (W32 × List Val)) : SoftRun :=
  let mb := b.foldl (fun m x => fp32Max m x.1) r.m
  let (alpha, fa) := expDiff r.m mb
  let ps := b.map (fun x => expDiff x.1 mb)
  let p := ps.map (·.1)
  let (sum, fs) := pairwise p
  let (l, fl) := fp32Fma r.l alpha sum
  let acc := (List.range dim).map (fun e =>
    let (pv, f1) := pvBlock p (b.map (fun x => x.2.getD e .nan))
    let (a, f2) := fp32Fma (r.acc.getD e 0) alpha pv
    (a, f1 ||| f2))
  ⟨mb, l, acc.map (·.1), r.fl ||| fa ||| Flags.join (ps.map (·.2)) ||| fs ||| fl ||| Flags.join (acc.map (·.2))⟩

/-- Keys grouped into key blocks of 64 positions (R227). -/
def keyBlocks : List (Nat × (W32 × List Val)) → List (List (W32 × List Val))
  | [] => []
  | (p, x) :: r =>
    match r, keyBlocks r with
    | (q, _) :: _, b :: bs => if p / 64 = q / 64 then (x :: b) :: bs else [x] :: b :: bs
    | _, bs => [x] :: bs

/-- One head of one row: its results and flags, with the special cases of R229. A NaN or infinity among the admitted scores or
values wins over scores that are all −Inf. (DEDUCED: log entry 29) -/
def headOut (dim : Nat) (keys : List (Nat × (W32 × List Val))) (tree : List (W32 × List Val)) (fl : Flags) : List Res :=
  let all := keys.map (·.2) ++ tree
  let badScore : Bool := all.any (fun x => (Val.ofF32 x.1).isNan || x.1 = posInf32)
  let badVal : Bool := all.any (fun x => x.2.any (fun v => v.isNan || v.isInf))
  if badScore || badVal then List.replicate dim (.done (nan32, fl ||| Flags.inv))
  else if all.all (fun x => x.1 = negInf32) then List.replicate dim (.done (0, fl))
  else
    let blocks := keyBlocks keys ++ (if tree.isEmpty then [] else [tree])
    let r := blocks.foldl (SoftRun.step dim) (SoftRun.start dim)
    let (inv, fi) := recip32 r.l
    r.acc.map (fun a => .done (let (o, f) := fp32Mul a inv; (o, f ||| fl ||| r.fl ||| fi)))

/-! ### ATTN.RING and ATTN.PAGE -/

/-- What an attention instruction comes to. -/
inductive AttOut where
  | wait (s : State)
  | fault (f : AttFault) (s : State)
  | poisoned (off n : Nat)
  | done (s : State) (e : Effect)
  deriving DecidableEq, Repr

/-- What keeps the unit from bytes of its tile's peat: a layer that is not ON (R181), or an uncorrectable line. -/
def State.peatBlock (s : State) (tile : Nat) (l : List (Nat × Nat)) : Option AttOut :=
  if l.any (fun p => !s.peatOn tile p.1 p.2) then some (.wait s)
  else (l.find? (fun p => s.peatPoisoned tile p.1 p.2)).map (fun p => .poisoned p.1 p.2)

/-- Such bytes read, counted in LINES_READ (R206). -/
def State.countReads (s : State) (t : TaskRef) (l : List (Nat × Nat)) : State :=
  l.foldl (fun s p => s.countNearRead t.tile t.cru p.1 p.2) s

/-- The stream map entries that the valid rows name, each once (R213). -/
def mapReads (v : AttEnv) (rows : List RowKey) : List (Nat × Nat) :=
  (((rows.filter (·.valid)).map (·.stream)).eraseDups).map (fun n => (v.k.map + 32 * n, 32))

/-- The page-table entries that positions of a row name, each once, where the table holds them (R219). -/
def State.pageReads (s : State) (v : AttEnv) (stream : Nat) (pos : List Nat) : List (Nat × Nat) :=
  let e := s.mapEntry v.t v.k stream
  if v.k.page then
    ((((pos.map (· / 256)).eraseDups).filter (fun j => decide (j < 2 ^ e.log2) && e.ok true v.size)).map (fun j => (e.base + 16 * j, 16)))
  else []

/-- The context block of an instruction, or its fault (R211). (DEDUCED: log entry 30) -/
def State.attEnv (s : State) (c : UCtx) (o : AttOps) (pageOp : Bool) : Except AttFault AttEnv :=
  let k := KvCtx.ofBytes (s.bytesFrom c (c.regs o.dX).addr 0 16)
  if !k.ok pageOp then .error attDesc
  else match kvFmt k.fmt with
    | none => .error ⟨4, fFormat⟩
    | some f => .ok ⟨c.t, k, f, kvRecBytes f (c.regs o.dQ).d0.toNat⟩

/-- The root position of a tree instruction; none when R223's rules on its valid rows are broken. -/
def treeRoot (rows : List RowKey) : Option Nat :=
  let vs := rows.filter (·.valid)
  match vs.find? (fun r => r.node = 0) with
  | none => none
  | some r => if vs.all (fun x => x.stream = r.stream && x.gen = r.gen) then some r.pos else none

/-- The rows of a read with what each admits (R221 to R223). -/
def State.attRows (s : State) (c : UCtx) (v : AttEnv) (h : THdr) (o : AttOps) (rows : List RowKey) (root : Option Nat) :
    List AttRow :=
  let dM := c.regs o.dM
  (List.range rows.length).map (fun i =>
    let r := rows.getD i ⟨0, 0, 0, 0, false⟩
    if !s.rowLive v r then ⟨r, false, [], []⟩
    else
      let top := match root with | some p => p | none => r.pos + 1
      let mrow := s.bytesFrom c dM.addr ((if dM.d1 = 1 then 0 else i) * dM.s1.toNat) (maskRow dM)
      let keys := (windowOf v.k r.pos top).filter (fun k => !h.mod.getLsbD 1 || maskBit mrow dM.d0.toNat (k / 64))
      let trow := leNat (s.bytesFrom c (c.regs o.dT).addr (8 * r.node) 8)
      ⟨r, true, keys, if root.isSome then (List.range 64).filter (fun n => bit trow n) else []⟩)

/-- The places of a row's keys, committed and tree, or the first fault. -/
def State.rowPlaces (s : State) (v : AttEnv) (r : AttRow) : Except AttFault (List RecAt × List RecAt) :=
  if !r.live then .ok ([], [])
  else
    let e := s.mapEntry v.t v.k r.key.stream
    if !rowOk v e r.key then .error attDesc
    else match r.keys.mapM (s.keyPlace v e) with
      | .error f => .error f
      | .ok l => .ok (l, r.tree.map (treePlace v e))

/-- The records read from the mire in order, each once; the first that is refused ends the walk. (DESIGN CHOICE: log entry 23) -/
def State.readMireRecs (s : State) (n : Nat) : List RecAt → Bool × State
  | [] => (true, s)
  | .peat _ :: r => s.readMireRecs n r
  | .mire a :: r => match s.mireServeRead a n with
    | (none, t) => (false, t)
    | (some _, t) => t.readMireRecs n r

/-- Bytes of a record. (DESIGN CHOICE: log entry 50) -/
def State.recBytes (s : State) (v : AttEnv) : RecAt → List Byte
  | .peat o => s.nearRead v.t.tile v.t.cru true o v.size
  | .mire a => s.readMire a v.size

/-- The results of one row and head. -/
def State.rowHead (s : State) (c : UCtx) (v : AttEnv) (h : THdr) (o : AttOps) (r : AttRow) (places : List RecAt × List RecAt)
    (q g : Nat) : List Res :=
  let dQ := c.regs o.dQ
  let dim := dQ.d0.toNat
  if !r.live || (r.keys.isEmpty && r.tree.isEmpty) then List.replicate dim (.done (0, 0))
  else
    let row := s.srcRow c dQ q g
    let rot := if h.mod.getLsbD 0 then ropeRow v.k.half r.key.pos (s.rotary c (c.regs o.dP) dim) row
               else row.map (fun x => (x, (0 : Flags)))
    let (qv, fq) := prepQuery v.k.bf16 (rot.map (·.1))
    let f0 := Flags.join (rot.map (·.2)) ||| fq
    let one (p : RecAt) : (W32 × List Val) × Flags :=
      let (kk, vv) := decodeRec v.f dim (s.recBytes v p)
      let (sc, fs) := scoreOf (c.sreg o.sS) v.k.bf16 v.f qv kk
      ((sc, vv.map DElem.value), fs)
    let ks := places.1.map one
    let ts := places.2.map one
    headOut dim (r.keys.zip (ks.map (·.1))) (ts.map (·.1)) (f0 ||| Flags.join (ks.map (·.2)) ||| Flags.join (ts.map (·.2)))

/-- An attention read (R157 to R160, R207 to R230). -/
def State.attnRead (s : State) (c : UCtx) (h : THdr) (o : AttOps) (pageOp : Bool) : AttOut :=
  match s.attEnv c o pageOp with
  | .error f => .fault f s
  | .ok v =>
    let dQ := c.regs o.dQ
    let rows := (List.range dQ.d2.toNat).map (s.rowKey c (c.regs o.dK))
    let tree := h.mod.getLsbD 2
    let root := if tree then treeRoot rows else none
    if tree && root.isNone && !rows.isEmpty then .fault attDesc s
    else if rows.any (fun r => r.valid && decide (2 ^ 24 ≤ r.pos)) then .fault attDesc s
    else match s.peatBlock c.t.tile (mapReads v rows) with
      | some r => r
      | none =>
        let s := s.countReads c.t (mapReads v rows)
        let rs := s.attRows c v h o rows root
        let pages := (rs.flatMap (fun r => if r.live then s.pageReads v r.key.stream r.keys else [])).eraseDups
        match s.peatBlock c.t.tile pages with
        | some r => r
        | none =>
          let s := s.countReads c.t pages
          match rs.mapM (s.rowPlaces v) with
          | .error f => .fault f s
          | .ok places =>
            let all := distinctPlaces (places.flatMap (fun p => p.1 ++ p.2))
            let near := all.filterMap (fun p => match p with | .peat o => some (o, v.size) | .mire _ => none)
            match s.peatBlock c.t.tile near with
            | some r => r
            | none =>
              match s.readMireRecs v.size all with
              | (false, t) => .fault attRefused t
              | (true, t) =>
                let t := t.countReads c.t near
                let d := c.regs o.dO
                .done t (effectOf d (d.grid.map (fun (q, g) =>
                  ((q, g), packResults d.bf16 (s.rowHead c v h o (rs.getD q ⟨⟨0, 0, 0, 0, false⟩, false, [], []⟩)
                    (places.getD q ([], [])) q g)))))

/-! ### KVPUT (R231 to R234) -/

/-- Where a record goes: its places, or a wait, or a fault. -/
inductive PutAt where
  | none
  | wait
  | fault (f : AttFault)
  | places (l : List RecAt)
  deriving DecidableEq, Repr

def State.putPlace (s : State) (v : AttEnv) (tree : Bool) (r : RowKey) : PutAt :=
  if !s.rowLive v r then .none
  else
    let e := s.mapEntry v.t v.k r.stream
    if !e.ok v.k.page v.size then .fault attDesc
    else if tree then .places [treePlace v e r.node]
    else if v.k.page then
      if 256 * 2 ^ e.log2 ≤ r.pos then .fault attDesc
      else
        let p := s.pageEnt v.t e (r.pos / 256)
        if p.state = pgResident then
          if peatSize < p.peat + v.k.heads * 256 * v.size then .fault attDesc
          else .places (s.pagePlace v e r.pos false :: (if v.k.shadow then [s.pagePlace v e r.pos true] else []))
        else if p.state = pgSpilled then .places [s.pagePlace v e r.pos true]
        else if p.state = pgSpilling || p.state = pgFetching then .wait
        else .fault attAbsent
    else
      let o := r.pos % 2 ^ e.log2 * v.size
      .places (.peat (e.base + o) :: (if v.k.shadow then [.mire (e.shadow + o)] else []))

/-- A record written to its places; false when the mire refuses it. -/
def State.writeRec (s : State) (tile : Nat) (bs : List Byte) : List RecAt → Bool × State
  | [] => (true, s)
  | .peat o :: r => (s.writePeat tile o bs).writeRec tile bs r
  | .mire a :: r => match s.mireServeWrite a bs with
    | (false, t) => (false, t)
    | (true, t) => t.writeRec tile bs r

/-- The records of a KVPUT in row order. (DESIGN CHOICE: log entry 23) -/
def State.writeRecs (s : State) (tile : Nat) : List (List RecAt × List Byte) → Bool × State
  | [] => (true, s)
  | (l, bs) :: r => match s.writeRec tile bs l with
    | (false, t) => (false, t)
    | (true, t) => t.writeRecs tile r

/-- Free bytes over the places of an aborted KVPUT (R97). (DEDUCED: log entry 28) -/
def State.spoilRecs (s : State) (tile n : Nat) (l : List RecAt) : State :=
  l.foldl (fun s p => match p with
    | .peat o => ({ s with peat := putBytes s.peat (peatKey tile o) (undefBytes s.fresh n) }).tickFresh
    | .mire a => if a + n ≤ mireSize then ({ s with mire := putBytes s.mire a (undefBytes s.fresh n) }).tickFresh else s) s

/-- The record of a row. -/
def State.putBytesOf (s : State) (c : UCtx) (v : AttEnv) (h : THdr) (o : AttOps) (pos i : Nat) : List Byte × Flags :=
  let dim := (c.regs o.dQ).d0.toNat
  let row := s.srcRow c (c.regs o.dQ) i 0
  let rot := if h.mod.getLsbD 0 then ropeRow v.k.half pos (s.rotary c (c.regs o.dP) dim) row
             else row.map (fun x => (x, (0 : Flags)))
  let (bs, f) := encodeRec v.f (rot.map (fun x => Val.ofF32 x.1)) ((s.srcRow c (c.regs o.dO) i 0).map Val.ofF32)
  (bs, f ||| Flags.join (rot.map (·.2)))

/-- The rows of a KVPUT. Every row's place is found before the first record is written; a wait on a page holds the whole instruction.
(DEDUCED: log entry 28) -/
def State.kvputRows (s : State) (c : UCtx) (v : AttEnv) (h : THdr) (o : AttOps) (rows : List RowKey) : AttOut :=
  let puts := rows.map (fun r => s.putPlace v (h.mod.getLsbD 2) r)
  let places := puts.flatMap (fun p => match p with | .places l => l | _ => [])
  if rows.any (fun r => r.valid && decide (2 ^ 24 ≤ r.pos)) then .fault attDesc (s.spoilRecs c.t.tile v.size places)
  else match puts.find? (fun p => match p with | .fault _ => true | _ => false) with
    | some (.fault f) => .fault f (s.spoilRecs c.t.tile v.size places)
    | _ =>
      if puts.contains .wait then .wait s
      else if places.any (fun p => match p with | .peat q => !s.peatOn c.t.tile q v.size | .mire _ => false) then .wait s
      else
        let recs := (List.range rows.length).map (fun i => s.putBytesOf c v h o (rows.getD i ⟨0, 0, 0, 0, false⟩).pos i)
        let jobs := (List.range rows.length).filterMap (fun i =>
          match puts.getD i .none with
          | .places l => some (l, (recs.getD i ([], 0)))
          | _ => none)
        match s.writeRecs c.t.tile (jobs.map (fun j => (j.1, j.2.1))) with
        | (false, t) => .fault attRefused (t.spoilRecs c.t.tile v.size places)
        | (true, t) => .done t ⟨[], Flags.join (jobs.map (·.2.2))⟩

/-- KVPUT (R231 to R234); in tree mode its rows obey R223 too. (DEDUCED: log entry 28) -/
def State.kvputRun (s : State) (c : UCtx) (h : THdr) (o : AttOps) : AttOut :=
  match s.attEnv c o (h.mod.getLsbD 3) with
  | .error f => .fault f s
  | .ok v =>
    let rows := (List.range (c.regs o.dQ).d2.toNat).map (s.rowKey c (c.regs o.dK))
    let tree := h.mod.getLsbD 2
    if tree && (treeRoot rows).isNone && !rows.isEmpty then .fault attDesc s
    else match s.peatBlock c.t.tile (mapReads v rows) with
      | some r => r
      | none =>
        let s := s.countReads c.t (mapReads v rows)
        let pages := if tree then [] else
          (rows.flatMap (fun r => if s.rowLive v r then s.pageReads v r.stream [r.pos] else [])).eraseDups
        match s.peatBlock c.t.tile pages with
        | some r => r
        | none => (s.countReads c.t pages).kvputRows c v h o rows

end Sys2Proof.Machine
end

