-- ==== Sys2Proof/Machine/Runner.lean ====
section
/-! DEFINITION. The runner: moves, fills and gathers, their packets, slot probes at the destination, and the end of an
instruction (R161 to R164, R198, R332, R341). -/
namespace Sys2Proof.Machine

/-! ### The end of an instruction (R143, R163, R191) -/

/-- A work item of a unit by its instruction number. -/
def State.findWork (s : State) (t : TaskRef) (u : UnitKind) (iid : Nat) : Option Work :=
  ((s.cru t.tile t.cru).queue u).find? (fun w => w.iid = iid)

/-- A completed instruction: its flags, the end of its slot accesses, its scoreboard entries and queue place, and the add to its
done gate. (DESIGN CHOICE: log entry 22) -/
def State.finishWork (s : State) (c : UCtx) (u : UnitKind) (h : THdr) (fl : Flags) : State :=
  let claims := match s.findWork c.t u c.w.iid with | some w => w.claims | none => []
  let s := ((s.orFlags c.t fl).endClaims claims).dropWork c.t u c.w.iid
  if h.dge then s.unitGateAdd c.t.tile c.t.cru h.dg.toNat 1 else s

/-! ### What a runner operation moves (R161, R162) -/

inductive RunKind where
  | move | fill | gather
  deriving DecidableEq, Repr

/-- A runner operation. -/
structure RunJob where
  kind : RunKind
  h    : THdr
  o    : RunOps
  deriving DecidableEq, Repr

def runJob : Instr → Option RunJob
  | .move _ h o => some ⟨.move, h, o⟩
  | .fill _ h o => some ⟨.fill, h, o⟩
  | .gather _ h o => some ⟨.gather, h, o⟩
  | _ => none

/-- Offsets of the rows of a descriptor, in order. -/
def Desc.rowOffs (d : Desc) : List Nat := d.grid.map (fun p => d.rowOff p.1 p.2)

/-- The index vector of a GATHER. (DESIGN CHOICE: log entry 23) -/
def State.gatherIdx (s : State) (c : UCtx) (j : RunJob) : List Nat := s.gatherRows c j.o

/-- Source row offsets, one per destination row; none is a row of zeros. A FILL has no source rows. -/
def State.runSrc (s : State) (c : UCtx) (j : RunJob) : List (Option Nat) :=
  let dS := c.regs j.o.dS
  match j.kind with
  | .move => dS.rowOffs.map some
  | .fill => []
  | .gather => (s.gatherIdx c j).map (fun i => if i < dS.d1.toNat then some (i * dS.s1.toNat) else none)

/-- The flags of a move: POI for an index out of range (R162). -/
def State.runFlags (s : State) (c : UCtx) (j : RunJob) : Flags :=
  match j.kind with
  | .gather => if (s.runSrc c j).contains none then Flags.poi else 0
  | _ => 0

/-- Bytes of the destination rows where the source is at hand: (row offset, bytes). -/
def State.runRows (s : State) (c : UCtx) (j : RunJob) : List (Nat × List Byte) :=
  let d := c.regs j.o.dD
  let n := d.d0.toNat
  match j.kind with
  | .fill => d.rowOffs.map (fun o => (o, (List.replicate (n / 4) (leBytes 4 (c.sreg j.o.sX).toNat)).flatten))
  | _ => (d.rowOffs.zip (s.runSrc c j)).map (fun (o, r) =>
      (o, match r with
        | none => List.replicate n 0
        | some x => s.bytesFrom c (c.regs j.o.dS).addr x n))

/-- The near ranges that a runner operation reads and writes. -/
def State.runPieces (s : State) (c : UCtx) (j : RunJob) : List Piece :=
  let one (a : Addr) (o n : Nat) (w : Bool) : Piece :=
    let (sp, ph) := s.physOf c.t a
    ⟨sp, ph + o, n, w, a + BitVec.ofNat 48 o⟩
  let d := c.regs j.o.dD
  let n := d.d0.toNat
  (if j.kind = .gather then [one (c.regs j.o.dI).addr 0 (4 * d.rows) false] else []) ++
  (s.runSrc c j).filterMap (fun r => r.map (fun x => one (c.regs j.o.dS).addr x n false)) ++
  d.rowOffs.map (fun o => one d.addr o n true)

/-! ### Packets of a move (R341) -/

/-- A range cut at 4 KiB boundaries (aligned) or every 4,096 bytes: (offset, bytes). `fuel` counts pieces. (DEDUCED: log entry 25) -/
def cutRange (aligned : Bool) (a n : Nat) : Nat → List (Nat × Nat)
  | 0 => []
  | fuel + 1 =>
    if n = 0 then []
    else
      let k := min n (if aligned then 4096 - a % 4096 else 4096)
      (a, k) :: cutRange aligned (a + k) (n - k) fuel
/-- DEDUCED: log entry 25. -/
def cuts (aligned : Bool) (a n : Nat) : List (Nat × Nat) := cutRange aligned a n (n / 4096 + 2)

/-- OPERAND of a write: the move's byte count, RG and RGE. OPERAND of a read: length and linear offset in the destination. -/
def wrOperand (count rg : Nat) (rge : Bool) : Nat := count % 2 ^ 48 + rg * 2 ^ 48 + (if rge then 2 ^ 58 else 0)
def rdOperand (len lin : Nat) : Nat := len + lin * 2 ^ 16

/-- The write packets of rows to a far place. -/
def writeSends (mire : Bool) (dst ph : Nat) (tag oper : Nat) (rows : List (Nat × List Byte)) : List Send :=
  rows.flatMap (fun (o, bs) => (cuts mire (ph + o) bs.length).map (fun (a, k) =>
    { dst := if mire then dieEnd (mireDie a) else dst, op := if mire then opMireWr else opWr, addr := a % 2 ^ 41, tag := tag,
      operand := oper, payload := (bs.drop (a - (ph + o))).take k }))

/-- The read packets of rows from a far place; row i of n bytes goes to linear offset i × n. -/
def readSends (mire : Bool) (dst ph tag n : Nat) (rows : List (Option Nat)) : List Send :=
  (rows.zip (List.range rows.length)).flatMap (fun (r, i) =>
    match r with
    | none => []
    | some o => (cuts mire (ph + o) n).map (fun (a, k) =>
        { dst := if mire then dieEnd (mireDie a) else dst, op := if mire then opMireRd else opRd, addr := a % 2 ^ 41, tag := tag,
          operand := rdOperand k (i * n + (a - (ph + o))) }))

/-- All packets of a move injected, or none. -/
def State.injectMove (s : State) (tile pol : Nat) : List Send → Option State
  | [] => some s
  | m :: r => match s.inject tile pol m with
    | none => none
    | some t => t.injectMove tile pol r

/-- A move that cannot be sent faults with REMOTE (R319, R324). -/
def State.moveFails (s : State) (c : UCtx) (a : Addr) : State := s.unitFault c 5 fRemote a 0

/-- The transaction tag of the next move. -/
def State.takeTag (s : State) : Nat × State := (s.nextTag, { s with nextTag := (s.nextTag + 1) % 2 ^ 16 })

/-- The packets of a far move sent, the work waiting for `left` bytes. What the move read in this tile it has read: the accesses of
the slots it read end (R191). -/
def State.sendMove (s : State) (c : UCtx) (a : Addr) (tag left : Nat) (l : List Send) : State :=
  match s.injectMove c.t.tile (s.polderOf c.t.tile) l with
  | none => (s.noRoute c.t.tile).moveFails c a
  | some t => (t.mapWork c.t .runner c.w.iid (fun w => { w with phase := .moving left, tag := tag })).endSome c.t .runner c.w.iid
      (fun x => !x.write)

/-- A move's RG add at this tile, and its end (R163). (DEDUCED: log entry 24) -/
def State.finishMove (s : State) (c : UCtx) (j : RunJob) (rg : Bool) : State :=
  let s := if rg && j.o.rge then s.unitGateAdd c.t.tile c.t.cru j.o.rg.toNat 1 else s
  s.finishWork c .runner j.h 0

/-- Writes to a far destination. A gate add at the destination lets the crucible's gathering buffer flush first (R185). -/
def State.moveOut (s : State) (c : UCtx) (j : RunJob) (dst : Nat) (mire : Bool) (tag : Nat) : State :=
  let d := c.regs j.o.dD
  let rows := s.runRows c j
  let total := (rows.map (fun r => r.2.length)).sum
  let ph := (s.physOf c.t d.addr).2
  let s1 := (s.orFlags c.t (s.runFlags c j)).countPieces c ((s.runPieces c j).filter (fun p => !p.write))
  let s1 := if j.o.rge && !mire then s1.gbFlushAll c.t.tile c.t.cru else s1
  s1.sendMove c d.addr tag total (writeSends mire dst ph tag (wrOperand total j.o.rg.toNat (j.o.rge && !mire)) rows)

/-- Rows of zeros of a GATHER from a far source written at once. -/
def State.zeroRows (s : State) (c : UCtx) : State :=
  (s.zeroPieces c).foldl (fun s p =>
    let s := (s.countPieces c [p]).writePhys c.t p.space p.off (List.replicate p.n 0)
    match memOf c.t.cru p with
    | none => s
    | some (mem, off) => s.touchWork c.t .runner c.w.iid mem off p.n) s

/-- Reads from a far source. -/
def State.moveIn (s : State) (c : UCtx) (j : RunJob) (src : Nat) (mire : Bool) (tag : Nat) : State :=
  let dS := c.regs j.o.dS
  let n := (c.regs j.o.dD).d0.toNat
  let rows := s.runSrc c j
  let left := n * (rows.filter Option.isSome).length
  let s1 := (s.orFlags c.t (s.runFlags c j)).zeroRows c
  if left = 0 then s1.finishMove c j true
  else s1.sendMove c dS.addr tag left (readSends mire src (s.physOf c.t dS.addr).2 tag n rows)

/-- A slot probe for a tagged far operand: the operand's rows, and the bytes that the move will bring or take (R198). `picked`: the
rows are those that the indexes of a GATHER name, which the probe carries. (DESIGN CHOICE: log entry 27) -/
def State.sendProbe (s : State) (c : UCtx) (d : Desc) (write picked : Bool) (dst tag : Nat) : State :=
  let m : Send :=
    { dst := dst, op := opProbe, addr := (s.physOf c.t d.addr).2 % 2 ^ 41, tag := tag,
      operand := (d.d0.toNat * d.rows) % 2 ^ 62 + (if write then 2 ^ 62 else 0) + (if picked then 2 ^ 63 else 0),
      payload := leBytes 4 d.d0.toNat ++ leBytes 4 d.d1.toNat ++ leBytes 4 d.d2.toNat ++ leBytes 4 d.s1.toNat ++ leBytes 8 d.s2.toNat }
  match s.inject c.t.tile (s.polderOf c.t.tile) m with
  | none => (s.noRoute c.t.tile).moveFails c d.addr
  | some t => t.mapWork c.t .runner c.w.iid (fun w => { w with phase := .probing, tag := tag })

/-- The tile that a REMOTE operand names. -/
def State.farTile (s : State) (c : UCtx) (d : Desc) : Option Nat :=
  s.slotTile c.t.tile (s.polderOf c.t.tile) (bits (s.physOf c.t d.addr).2 47 41)

/-- A far operand's data goes out or is asked for, the probe having been granted or not being needed. -/
def State.launch (s : State) (c : UCtx) (j : RunJob) (tag : Nat) : State :=
  let d := c.regs j.o.dD
  let e := c.regs j.o.dS
  let spD := s.spaceOf c.t d.addr
  let spS := s.spaceOf c.t e.addr
  if spD = spMire then s.moveOut c j 0 true tag
  else if spD = spRemote then
    match s.farTile c d with
    | none => (s.slotMiss c.t.tile).moveFails c d.addr
    | some t => s.moveOut c j t false tag
  else if spS = spMire then s.moveIn c j 0 true tag
  else match s.farTile c e with
    | none => (s.slotMiss c.t.tile).moveFails c e.addr
    | some t => s.moveIn c j t false tag

/-- A move of zero length (R163); its add at a REMOTE destination needs the slot and the route (R319, R324). (DEDUCED: log entry 24) -/
def State.emptyMove (s : State) (c : UCtx) (j : RunJob) : State :=
  let d := c.regs j.o.dD
  if s.spaceOf c.t d.addr = spRemote && j.o.rge then
    match s.farTile c d with
    | none => (s.slotMiss c.t.tile).moveFails c d.addr
    | some t =>
      match (s.gbFlushAll c.t.tile c.t.cru).inject c.t.tile (s.polderOf c.t.tile) { dst := t, op := opGadd, addr := j.o.rg.toNat, operand := 1 } with
      | none => (s.noRoute c.t.tile).moveFails c d.addr
      | some s => s.finishMove c j false
  else s.finishMove c j true

/-- Whether a move has no byte to move. -/
def Desc.empty (d : Desc) : Bool := d.d0 = 0 || d.d1 = 0 || d.d2 = 0

/-- The index vector of a GATHER as a row of bytes. -/
def idxDesc (c : UCtx) (j : RunJob) : Desc :=
  { c.regs j.o.dI with d0 := BitVec.ofNat 20 (4 * (c.regs j.o.dD).rows), d1 := 1, d2 := 1 }

/-- Whether the runner has first to be granted the slots of a GATHER's tagged REMOTE index vector (R195, R198). -/
def State.wantsIdx (s : State) (c : UCtx) (j : RunJob) : Bool :=
  j.kind = .gather && (c.regs j.o.dI).tag = 1 && s.spaceOf c.t (c.regs j.o.dI).addr = spRemote && c.w.seen.all (fun x => x.mem ≠ 5)

/-- The probe for that vector. -/
def State.probeIdx (s : State) (c : UCtx) (j : RunJob) : State :=
  let d := idxDesc c j
  let (tag, s1) := s.takeTag
  match s1.farTile c d with
  | none => (s1.slotMiss c.t.tile).moveFails c d.addr
  | some t => s1.sendProbe c d false false t tag

/-- A runner operation that holds its local slots: done at once when both ends are in this tile, else its packets leave. -/
def State.runMove (s : State) (c : UCtx) (j : RunJob) : State :=
  let d := c.regs j.o.dD
  let e := c.regs j.o.dS
  let spD := s.spaceOf c.t d.addr
  let farS : Bool := j.kind ≠ .fill && farSpace (s.spaceOf c.t e.addr)
  match s.poisonedPiece c (s.runPieces c j) with
  | some p => s.unitEcc c .runner p
  | none =>
    if s.badOverlap c then (s.spoil c).finishMove c j true
    else if !farSpace spD && !farS then
      let ph := (s.physOf c.t d.addr).2
      let rows := s.runRows c j
      let s1 := (s.countPieces c (s.runPieces c j)).writeRows c.t spD ph (restRows c spD ph rows)
      (s1.orFlags c.t (s.runFlags c j)).finishMove c j true
    else
      let (tag, s1) := s.takeTag
      let far := if farSpace spD then d else e
      if far.tag = 1 && s.spaceOf c.t far.addr = spRemote then
        match s1.farTile c far with
        | none => (s1.slotMiss c.t.tile).moveFails c far.addr
        | some t => s1.sendProbe c far (farSpace spD) (!farSpace spD && j.kind = .gather) t tag
      else s1.launch c j tag

/-! ### Moves in progress, found by their tag -/

/-- The runner work of a tile with a tag, with its task. -/
def State.moveOf (s : State) (tile tag : Nat) : Option UCtx :=
  if h : tile < 80 then
    (List.finRange 4).findSome? (fun (k : CruIx) =>
      ((s.cru tile k).runner.find? (fun w => w.tag = tag && w.phase ≠ .queued)).map
        (fun w => ⟨⟨⟨tile, h⟩, k, w.task⟩, w⟩))
  else none

/-- Bytes of a move acknowledged or received; at the last one the move ends. -/
def State.moveProgress (s : State) (c : UCtx) (n : Nat) : State :=
  match c.w.phase, runJob c.w.instr with
  | .moving left, some j =>
    if left ≤ n then
      s.finishMove c j (decide (s.spaceOf c.t (c.regs j.o.dD).addr ≠ spRemote))
    else s.mapWork c.t .runner c.w.iid (fun w => { w with phase := .moving (left - n) })
  | _, _ => s

/-! ### At the destination -/

/-- A place in a tile that a packet names: [40:39] crucible, [38] pool, [32:0] offset. -/
structure TilePlace where
  pool : Bool
  cru  : Nat
  off  : Nat
  deriving DecidableEq, Repr

def placeOf (a : Nat) : TilePlace := ⟨bit a 38, bits a 40 39, bits a 32 0⟩

def State.placeReady (s : State) (tile : Nat) (p : TilePlace) (n : Nat) : Bool :=
  if p.pool then s.poolOn tile p.cru else s.peatOn tile p.off n
def TilePlace.inside (p : TilePlace) (n : Nat) : Bool := decide (p.off + n ≤ (if p.pool then poolSize else peatSize))
def State.readPlace (s : State) (tile : Nat) (p : TilePlace) (n : Nat) : List Byte :=
  if p.pool then s.readPool tile p.cru p.off n else s.readPeat tile p.off n
def State.writePlace (s : State) (tile : Nat) (p : TilePlace) (bs : List Byte) : State :=
  if p.pool then (s.countPool tile [(p.off, bs.length)]).writePool tile p.cru p.off bs else s.writePeat tile p.off bs
def State.placePoisoned (s : State) (tile : Nat) (p : TilePlace) (n : Nat) : Bool :=
  if p.pool then s.poolPoisoned tile p.cru p.off n else s.peatPoisoned tile p.off n

/-- A reply of a tile. (DESIGN CHOICE: log entry 26) -/
def State.tileReply (s : State) (tile : Nat) (p : Packet) (op addr operand : Nat) (payload : List Byte) : State :=
  s.injectOr tile (s.polderOf tile)
    { dst := p.src.toNat, op := op, addr := addr, tag := p.tag.toNat, operand := operand, payload := payload }

/-- Bytes of a move counted at its destination (R332). The record of the move, and the others. -/
def State.rxOf (s : State) (tile : Nat) (p : Packet) (total : Nat) : RxMove × List RxMove :=
  let l := Store.get [] s.rx tile
  let mine (m : RxMove) : Bool := m.src = p.src.toNat && m.tag = p.tag.toNat
  ((l.find? mine).getD { src := p.src.toNat, tag := p.tag.toNat, bytes := 0, total := total, claims := [] }, l.filter (fun m => !mine m))
def State.setRx (s : State) (tile : Nat) (l : List RxMove) : State := { s with rx := Store.set [] s.rx tile l }

/-- A packet waits while the memory it names cannot be reached (R174, R181), unless its router drops it. (DEDUCED: log entry 38) -/
def State.memWaits (s : State) (p : Packet) (n : Nat) : Bool :=
  (s.ejectCause p.dst.toNat p).isNone && (placeOf p.addr.toNat).inside n &&
    !s.placeReady p.dst.toNat (placeOf p.addr.toNat) n

/-- The memory of a tile that a packet names: pools 0 to 3, peat 4. -/
def TilePlace.mem (p : TilePlace) : Nat := if p.pool then p.cru else 4

/-- Slots claimed for the bytes of one packet of a move, in order (R193): the slots held, those still to claim, and the first that is
not ready. -/
def State.rxClaim (s : State) (tile rank mem off n : Nat) (held : List Claim) : List Claim → State × List Claim × List Claim × Option Claim
  | [] => (s, held, [], none)
  | c :: r =>
    if c.mem ≠ mem || overlap off n (s.slotStart c) 4096 = 0 then
      let (t, h, rest, miss) := s.rxClaim tile rank mem off n held r
      (t, h, c :: rest, miss)
    else if c.dead then s.rxClaim tile rank mem off n (held ++ [c]) r
    else if s.claimable tile rank c then (s.takeSlot c).rxClaim tile rank mem off n (held ++ [c]) r
    else (s, held, c :: r, some c)

/-- SLOT_WAITS of the page of a slot counted when a wait begins (R204, R206). -/
def State.countWait (s : State) (tile : Nat) (peat : Bool) : State := s.bump (cregPage tile peat) (if peat then 6 else 4) 1

/-- An incoming access that waits, entered in the probe table or kept there (R198). `k` is its place, the end for a new one. -/
def State.parkProbe (s : State) (tile k : Nat) (p : Packet) (want : Claim) : State :=
  match (s.probesAt tile)[k]? with
  | none => (s.setProbes tile (s.probesAt tile ++ [⟨p, s.up, some want⟩])).countWait tile want.peat
  | some q =>
    if q.want = some want then s
    else (s.setProbes tile ((s.probesAt tile).set k ⟨p, s.up, some want⟩)).countWait tile want.peat

/-- Whether another access of the same move waits already; packets of one move proceed one behind the other. -/
def State.moveParked (s : State) (tile : Nat) (p : Packet) : Bool :=
  (s.probesAt tile).any (fun q => q.pkt.src = p.src && q.pkt.tag = p.tag)

/-- The slots that a packet's bytes need, claimed as far as they are ready; true when it may proceed. -/
def State.rxReady (s : State) (tile k n : Nat) (p : Packet) : Bool × State :=
  let pl := placeOf p.addr.toNat
  let (m, others) := s.rxOf tile p 0
  if m.todo.isEmpty then (true, s)
  else
    let (t, held, todo, miss) := s.rxClaim tile (probeRank k) pl.mem pl.off n m.claims m.todo
    let t := t.setRx tile (others ++ [{ m with claims := held, todo := todo }])
    match miss with
    | none => (true, t)
    | some c => (false, t.parkProbe tile k p c)

/-- A WR packet that holds its slots: its bytes become visible, and at the last of its move the RG add and MOVE_DONE (R332). -/
def State.doWr (t : State) (tile : Nat) (p : Packet) : State :=
  let pl := placeOf p.addr.toNat
  if !pl.inside p.payload.length then t.tileReply tile p opRefuse p.addr.toNat 1 []
  else
    let total := bits p.operand.toNat 47 0
    let (m, others) := t.rxOf tile p total
    let got := m.bytes + p.payload.length
    let t := if m.dead then t else t.writePlace tile pl p.payload
    let (t, held) := t.touchClaims pl.mem pl.off p.payload.length m.claims
    if got < total then t.setRx tile (others ++ [{ m with bytes := got, total := total, claims := held }])
    else
      let t := (t.setRx tile others).endClaims held
      if m.dead then t
      else
        let t := if bit p.operand.toNat 58 then t.meshGateAdd tile (bits p.operand.toNat 57 48) 1 else t
        t.tileReply tile p opMoveDone 0 total []

/-- An error that an incoming read meets in a word, recorded (R201, R203, R205). -/
def State.placeEcc (s : State) (tile : Nat) (pl : TilePlace) (off : Nat) (e : EccResult) (poison : Bool) : State :=
  if pl.pool then s.poolEcc tile pl.cru 5 off e poison false else s.peatEcc tile 4 off e poison false

/-- An RD packet that holds its slots: the data, or a refusal where it meets an uncorrectable line (R201). -/
def State.doRd (t : State) (tile : Nat) (p : Packet) (e : EccResult) : State :=
  let n := bits p.operand.toNat 15 0
  let pl := placeOf p.addr.toNat
  if !pl.inside n || 4096 < n then t.tileReply tile p opRefuse p.addr.toNat 1 []
  else
    let (m, others) := t.rxOf tile p 0
    let bad := t.placePoisoned tile pl n
    let at' := if !bad then pl.off else if pl.pool then t.poolBadAt tile pl.cru pl.off n else t.peatBadAt tile pl.off n
    let e' := if bad then .uncorrectable else if n = 0 then .clean else e
    let t := if pl.pool then t.countPool tile [(pl.off, n)] else t.countPeatRead tile pl.off n
    let t := t.placeEcc tile pl at' e' bad
    if e' = .uncorrectable then ((t.setRx tile others).revertClaims m.claims).tileReply tile p opRefuse p.addr.toNat 1 []
    else
      let got := m.bytes + n
      let (t, held) := t.touchClaims pl.mem pl.off n m.claims
      let t := if m.total = 0 then t
               else if got < m.total then t.setRx tile (others ++ [{ m with bytes := got, claims := held }])
               else (t.setRx tile others).endClaims held
      t.tileReply tile p opRdData (bits p.operand.toNat 63 16) n (t.readPlace tile pl n)

/-- A packet of a move that its router delivers: the slots of its bytes first, and a place in the probe table where one is not ready. -/
def State.incoming (s : State) (op : Nat) (p : Packet) (n : Nat) (go : Nat → State → State) : State :=
  if s.memWaits p n || s.moveParked p.dst.toNat p then s
  else s.eject op p (fun tile t =>
    match t.rxReady tile (t.probesAt tile).length n p with
    | (false, t) => t
    | (true, t) => go tile t)

/-- A WR packet delivered (R198, R317, R332). -/
def execWr (p : Packet) (s : State) : Out State :=
  if !p.wf then .fault .illFormed else .next (s.incoming opWr p p.payload.length (fun tile t => t.doWr tile p))

/-- An RD packet delivered, with what the check of the words it reads found (R201). -/
def execRd (p : Packet) (e : EccResult) (s : State) : Out State :=
  if !p.wf then .fault .illFormed
  else .next (s.incoming opRd p (bits p.operand.toNat 15 0) (fun tile t => t.doRd tile p e))

/-- The place in the requesting tile that an RD_DATA packet fills. -/
def State.rdPiece (s : State) (c : UCtx) (j : RunJob) (p : Packet) : Piece :=
  let d := c.regs j.o.dD
  let n := d.d0.toNat
  let lin := p.addr.toNat
  let off := (d.rowOffs.getD (lin / n) 0) + lin % n
  let (sp, ph) := s.physOf c.t d.addr
  ⟨sp, ph + off, p.payload.length, true, d.addr + BitVec.ofNat 48 off⟩

/-- Whether the end of a move can make its adds: the gathering buffer can flush (R181, R185). -/
def State.addsReady (s : State) (c : UCtx) (j : RunJob) : Bool := !(j.h.dge || j.o.rge) || s.gbReady c.t.tile c.t.cru

/-- The slots that an RD_DATA packet's bytes need at the tile that asked for them (R193), and whether its memory can be reached
(R181). False: the packet waits. -/
def State.rdDataReady (s : State) (p : Packet) : Bool × State :=
  if 80 ≤ p.dst.toNat || !s.arrivable opRdData p || (s.ejectCause p.dst.toNat p).isSome then (true, s)
  else match s.moveOf p.dst.toNat p.tag.toNat with
    | none => (true, s)
    | some c => match runJob c.w.instr with
      | none => (true, s)
      | some j =>
        let q := s.rdPiece c j p
        if !s.piecesReady c [q] || !s.addsReady c j then (false, s)
        else s.claimNeeds c .runner (touched c.t.cru (s.lateNeeds c) q)

/-- An RD_DATA packet delivered: its bytes go to the destination rows of the move that asked for them. -/
def execRdData (p : Packet) (s : State) : Out State :=
  if !p.wf then .fault .illFormed
  else match s.rdDataReady p with
    | (false, t) => .next t
    | (true, t) => .next (t.eject opRdData p (fun tile t =>
        match t.moveOf tile p.tag.toNat with
        | none => t
        | some c => match runJob c.w.instr with
          | none => t
          | some j =>
            let q := t.rdPiece c j p
            let t := (t.countPieces c [q]).writePhys c.t q.space q.off p.payload
            let t := match memOf c.t.cru q with
              | none => t
              | some (mem, off) => t.touchWork c.t .runner c.w.iid mem off q.n
            t.moveProgress c q.n))

/-! ### Slot probes (R192, R198) -/

/-- The ranges that a probe's operand touches. -/
def State.probePieces (s : State) (p : Packet) : List Piece :=
  let pl := placeOf p.addr.toNat
  let d : Desc := { d0 := BitVec.ofNat 20 (leAt p.payload 0 4), d1 := BitVec.ofNat 16 (leAt p.payload 4 4),
                    d2 := BitVec.ofNat 12 (leAt p.payload 8 4), s1 := BitVec.ofNat 32 (leAt p.payload 12 4),
                    s2 := BitVec.ofNat 40 (leAt p.payload 16 8) }
  let offs := if !bit p.operand.toNat 63 then d.rowOffs
    else match s.moveOf p.src.toNat p.tag.toNat with
      | none => []
      | some c => match runJob c.w.instr with
        | none => []
        | some j => (s.runSrc c j).filterMap id
  (offs.zip (List.range offs.length)).map (fun (o, i) =>
    ⟨if pl.pool then spPool else spPeat, pl.off + o, min d.d0.toNat (bits p.operand.toNat 61 0 - i * d.d0.toNat), bit p.operand.toNat 62,
      BitVec.ofNat 48 (p.addr.toNat + o)⟩)

/-- The slots that a probe's operand touches, ascending. (DESIGN CHOICE: log entry 27) -/
def State.probeNeeds (s : State) (tile : Nat) (p : Packet) : List SlotNeed :=
  s.needsIn tile (placeOf p.addr.toNat).cru (s.probePieces p)

/-- A granted probe leaves the record of its move with the slot it has and the slots it has still to claim. -/
def State.grantProbe (s : State) (tile : Nat) (p : Packet) (held todo : List Claim) : State :=
  let (_, others) := s.rxOf tile p 0
  let total := ((s.probePieces p).map (·.n)).sum
  let s := if held.isEmpty then s
    else s.setRx tile (others ++ [{ src := p.src.toNat, tag := p.tag.toNat, bytes := 0, total := total, claims := held, todo := todo }])
  s.tileReply tile p opGrant p.addr.toNat 0 []

/-- A probe tried: granted when its first slot is claimed; otherwise it waits in the probe table (R193, R198). -/
def State.tryProbe (s : State) (tile k : Nat) (p : Packet) : Bool × State :=
  match (s.probeNeeds tile p).map (·.claim tile) with
  | [] => (true, s.grantProbe tile p [] [])
  | c :: r =>
    if s.claimable tile (probeRank k) c then (true, (s.takeSlot c).grantProbe tile p [c] r)
    else (false, s.parkProbe tile k p c)

/-- Places of the probe table of a tile: four moves of each crucible (R328). -/
def probeTable : Nat := 1280

/-- A PROBE delivered. The wait for a slot is counted when it begins (R204, R206). -/
def execProbe (p : Packet) (s : State) : Out State :=
  if !p.wf then .fault .illFormed
  else if probeTable ≤ (s.probesAt p.dst.toNat).length then .next s
  else .next (s.eject opProbe p (fun tile t => (t.tryProbe tile (t.probesAt tile).length p).2))

/-- The index vector of a GATHER read once its slots are granted: the accesses end, and the instruction goes on (R195, R198). -/
def State.takeIdx (s : State) (c : UCtx) (j : RunJob) (p : Packet) : State :=
  let d := idxDesc c j
  let bs := s.bytesFrom c d.addr 0 d.d0.toNat
  let at' := p.src.toNat
  let (m, others) := s.rxOf at' { p with src := BitVec.ofNat 8 c.t.tile.val } 0
  ((s.setRx at' others).endClaims m.claims).mapWork c.t .runner c.w.iid
    (fun w => { w with phase := .queued, seen := w.seen ++ [⟨5, 0, bs, false⟩] })

/-- A GRANT at a tile: the data goes (R198). One that finds no move gives the slots back. -/
def State.tileGrant (t : State) (tile : Nat) (p : Packet) : State :=
  match t.moveOf tile p.tag.toNat with
  | none => t.dropFar tile [p.tag.toNat] []
  | some c => match c.w.phase, runJob c.w.instr with
    | .probing, some j => if t.wantsIdx c j then t.takeIdx c j p else t.launch c j c.w.tag
    | _, _ => t

/-- A REFUSE at a tile: OPERAND 0 says that the slot timed out, 1 that the access was refused (R96, R198, R201, R343).
(DESIGN CHOICE: log entry 26) -/
def State.tileRefuse (t : State) (tile : Nat) (p : Packet) : State :=
  match t.moveOf tile p.tag.toNat with
  | none => t
  | some c => match runJob c.w.instr with
    | none => t
    | some j =>
      let far := if t.wantsIdx c j then c.regs j.o.dI
        else if farSpace (t.spaceOf c.t (c.regs j.o.dD).addr) then c.regs j.o.dD else c.regs j.o.dS
      let ph := (t.physOf c.t far.addr).2
      if p.operand = 0 then
        let peat := !(placeOf p.addr.toNat).pool
        let t := (t.bump (cregPage tile peat) (if peat then 7 else 5) 1).raise (cregPage tile peat) 2
        t.unitFault c 5 fSlotTimeout (far.addr + p.addr - BitVec.ofNat 48 (ph % 2 ^ 41)) 0
      else t.moveFails c far.addr

/-! ### The mire controllers (R341, R343, R345) -/

/-- A MIRE_RD delivered to its sluice die, with what the check of one of its bursts finds and the mire address that the access to that
burst reached. -/
def execMireRd (p : Packet) (e : EccResult) (burst landed : Addr) (s : State) : Out State :=
  if !p.wf then .fault .illFormed
  else .next (s.ejectDie opMireRd p (fun die t =>
    match t.mireReadBurst p.addr.toNat (bits p.operand.toNat 15 0) burst.toNat landed.toNat e with
    | (some bs, t) => t.dieReply die p opRdData bs.length (bits p.operand.toNat 63 16) bs
    | (none, t) => t.dieReply die p opRefuse 1 p.addr.toNat []))

/-- A MIRE_WR delivered to its sluice die. -/
def execMireWr (p : Packet) (s : State) : Out State :=
  if !p.wf then .fault .illFormed
  else .next (s.ejectDie opMireWr p (fun die t =>
    match t.mireServeWrite p.addr.toNat p.payload with
    | (true, t) => t.dieReply die p opMoveDone p.payload.length 0 []
    | (false, t) => t.dieReply die p opRefuse 1 p.addr.toNat []))

end Sys2Proof.Machine
end

