-- ==== Sys2Proof/Machine/Complete.lean ====
section
/-! DEFINITION. The end of dispatched instructions: completion, early release of scoreboard entries, unit faults, waits on channel
slots, sentinels and riddle hand-offs (R86, R89 to R97, R143, R165, R166, R191 to R199). -/
namespace Sys2Proof.Machine

/-! ### Sentinels (R89 to R92, R165) -/

/-- a below b by value: zeros of both signs are equal. -/
def belowVal (a b : W32) : Bool :=
  let x := Val.ofF32 a
  let y := Val.ofF32 b
  x.lt y && !(x.isZero && y.isZero)

def State.sentCtl (s : State) (t : TaskRef) (n hi lo : Nat) : Nat := s.rf (cruPage t.tile t.cru) (Reg.SENT_CTL n) hi lo

/-- Whether a norm is out of a sentinel's band. (DEDUCED: log entry 31) -/
def State.outOfBand (s : State) (t : TaskRef) (n : Nat) (norm : W32) : Bool :=
  let b := s.reg (cruPage t.tile t.cru) (Reg.SENT_BAND n)
  (Val.ofF32 norm).isNan || belowVal norm (BitVec.ofNat 32 (fld b 31 0)) || belowVal (BitVec.ofNat 32 (fld b 63 32)) norm

/-- The verdict of an event (R90): 1 LOG, 2 LIFT, 3 HALT. -/
def sentVerdict (action fb : Nat) (lifted : Bool) : Nat :=
  if lifted then (if fb = 0 then 1 else 3)
  else if action = 0 then 1 else if action = 1 then 2 else 3

/-- The norms of the valid rows, with their keys, and the flags of computing them. (DEDUCED: log entry 31) -/
def State.sentNorms (s : State) (c : UCtx) (o : SentOps) : List (RowKey × Flagged W32) :=
  let d := c.regs o.dX
  if d.d0 = 0 then []
  else (List.range d.d1.toNat).filterMap (fun i =>
    let k := s.rowKey c (c.regs o.dK) i
    if k.valid then
      let r := rms32 (s.srcRow c d 0 i)
      some (k, r.1, r.2 ||| s.srcFlags c d 0 i)
    else none)

/-- What a sentinel event leaves (R92). (DESIGN CHOICE: log entry 125) -/
def State.sentEvent (s : State) (t : TaskRef) (n verdict : Nat) (lifted : Bool) (k : RowKey) (norm : W32) : State :=
  let pg := cruPage t.tile t.cru
  let s := s.setReg pg Reg.SENT_LAST
    (word [(0, k.stream), (12, k.gen.toNat), (20, n), (26, verdict), (28, b2n lifted), (32, k.pos)])
  let s := s.setReg pg Reg.SENT_NORM (word [(0, norm.toNat), (32, k.node)])
  let s := (s.raise pg 1).bump pg 9 1
  let s := s.log pg 0x01 1 (s.reg pg Reg.SENT_LAST) (s.reg pg Reg.SENT_NORM)
  if verdict = 2 then s.bump pg 10 1
  else if verdict = 3 then
    let s := (s.raise pg 2).bump pg 11 1
    if s.genAt t.tile k.stream = k.gen then s.endStream k.stream stNormHalt else s
  else s

/-- The verdict adds of R91: this tile's gate, then copies to the other member tiles of the bed. -/
def State.verdictAdds (s : State) (t : TaskRef) (n code : Nat) : State :=
  let g := s.sentCtl t n 14 5
  let v := BitVec.ofNat 32 (code + 1)
  let s := s.unitGateAdd t.tile t.cru g v
  if s.sentCtl t n 15 15 = 1 then
    match s.bedOf t.tile with
    | none => s
    | some b => s.sendGateCopies t.tile g v (some t.tile.val) (s.bedSlots b)
  else s

/-- The verdict reaches its scalar register; a task that waits for it goes on (R115). -/
def State.verdictReg (s : State) (t : TaskRef) (sD : BitVec 5) (code : Nat) : State :=
  s.onTask t (fun x =>
    let y := { x.setRs sD (BitVec.ofNat 32 code) with pend := x.pend.erase sD.toNat }
    let free : Bool := match y.ask with | some (.regs l) => l.all (fun r => !y.pend.contains r) | _ => false
    if y.st = .waiting && y.wait = .load && y.load.isNone && free then { y with st := .ready, wait := .none, ask := none } else y)

/-- A sentinel runs. -/
def State.runSent (s : State) (c : UCtx) (h : THdr) (o : SentOps) : State :=
  let t := c.t
  let n := o.index.toNat
  let lifted := h.mod.getLsbD 0
  if s.sentCtl t n 0 0 = 0 then ((s.verdictAdds t n 0).verdictReg t o.sD 0).finishWork c .vector h 0
  else
    let rows := s.sentNorms c o
    let fl := Flags.join (rows.map (fun r => r.2.2))
    match rows.find? (fun r => s.outOfBand t n r.2.1) with
    | none => ((s.verdictAdds t n 0).verdictReg t o.sD 0).finishWork c .vector h fl
    | some r =>
      let v := sentVerdict (s.sentCtl t n 2 1) (s.sentCtl t n 4 3) lifted
      let s := s.sentEvent t n v lifted r.1 r.2.1
      ((s.verdictAdds t n v).verdictReg t o.sD v).finishWork c .vector h fl

/-! ### Riddle hand-off (R166, R319) -/

/-- The bytes of a part: for each valid row its key, the first token id, the width and the logits as FP32. -/
def State.handBytes (s : State) (c : UCtx) (o : RhandOps) : List Byte :=
  let d := c.regs o.dL
  (List.range d.d1.toNat).flatMap (fun i =>
    let k := s.rowKey c (c.regs o.dK) i
    if !k.valid then []
    else
      let row := if d.d0 = 0 then [] else s.srcRow c d 0 i
      s.bytesFrom c (c.regs o.dK).addr (16 * i) 16 ++ leBytes 4 ((c.sreg o.sV).toNat % 2 ^ 18) ++ leBytes 4 d.d0.toNat ++
        row.flatMap (fun x => leBytes 4 x.toNat))

/-- OPERAND of a HAND packet: PART, PARTS and the bytes of the part. (DESIGN CHOICE: log entry 27) -/
def handOperand (part parts total : Nat) : Nat := part + parts * 2 ^ 5 + total * 2 ^ 16

/-- A hand-off leaves; it completes when the riddle has accepted the last byte. -/
def State.runRhand (s : State) (c : UCtx) (h : THdr) (o : RhandOps) : State :=
  let tile := c.t.tile
  match s.slotTile tile (s.polderOf tile) o.slot.toNat with
  | none => ((s.slotMiss tile).report tile 3 6 0).finishWork c .vector h 0
  | some dst =>
    let bs := s.handBytes c o
    let oper := handOperand o.part.toNat o.parts.toNat bs.length
    let (tag, s) := s.takeTag
    let send (a k : Nat) : Send :=
      { dst := dst, op := opHand, addr := a, tag := tag, operand := oper, payload := (bs.drop a).take k }
    let l := if bs.isEmpty then [send 0 0] else (cuts false 0 bs.length).map (fun x => send x.1 x.2)
    match s.injectMove tile (s.polderOf tile) l with
    | none => (s.noRoute tile).finishWork c .vector h 0
    | some s => s.mapWork c.t .vector c.w.iid (fun w => { w with phase := .moving bs.length, tag := tag })

/-- The hand-off of a tile with a tag. -/
def State.handOf (s : State) (tile tag : Nat) : Option UCtx :=
  if h : tile < 80 then
    (List.finRange 4).findSome? (fun (k : CruIx) =>
      ((s.cru tile k).vector.find? (fun w => w.tag = tag && (match w.phase with | .moving _ => true | _ => false))).map
        (fun w => ⟨⟨⟨tile, h⟩, k, w.task⟩, w⟩))
  else none

/-- A hand-off whose last byte was accepted completes. -/
def State.handDone (s : State) (c : UCtx) : State :=
  match c.w.instr with
  | .rhand _ h _ => s.finishWork c .vector h 0
  | _ => s

/-! ### Completion -/

/-- The header of a tensor instruction. -/
def headerOf : Instr → THdr
  | .mmul _ h _ | .mmulLift _ h _ | .vAdd _ h _ | .vSub _ h _ | .vMul _ h _ | .fma _ h _ | .vMax _ h _ | .vMin _ h _ | .abs _ h _
  | .neg _ h _ | .copysign _ h _ | .scale2 _ h _ | .recip _ h _ | .sqrt _ h _ | .rsqrt _ h _ | .exp _ h _ | .exp2 _ h _
  | .log2 _ h _ | .sigmoid _ h _ | .tanh _ h _ | .silu _ h _ | .geluErf _ h _ | .geluTanh _ h _ | .cvt _ h _ | .rope _ h _
  | .div _ h _ | .rsum _ h _ | .rmax _ h _ | .rmin _ h _ | .rargmax _ h _ | .rargmin _ h _ | .rms _ h _ | .rmsn _ h _
  | .softmax _ h _ | .psum _ h _ | .attnRing _ h _ | .attnPage _ h _ | .kvput _ h _ | .move _ h _ | .fill _ h _ | .gather _ h _
  | .sent _ h _ | .rhand _ h _ => h
  | _ => ⟨0, 0, false, 0⟩

/-- The ranges that an instruction reads and writes as its unit meets them. -/
def State.ownPieces (s : State) (c : UCtx) : List Piece :=
  match runJob c.w.instr with
  | some j => s.runPieces c j
  | none => s.workPieces c

/-- The results of the mould array or the vector unit written; what R145 leaves undefined is free. -/
def State.writeArith (s : State) (c : UCtx) (d : Desc) (e : Effect) : State :=
  if s.badOverlap c then s.spoil c
  else
    let (sp, ph) := s.physOf c.t d.addr
    ((s.countPieces c (s.workPieces c)).writeRows c.t sp ph (restRows c sp ph e.rows)).orFlags c.t e.flags

/-- What an attention instruction came to, applied. -/
def State.applyAtt (s : State) (c : UCtx) (d : Desc) (h : THdr) : AttOut → State
  | .wait t => t
  | .fault f t => t.unitFault c f.unit f.code (c.regs (match c.w.instr with | .attnRing _ _ o | .attnPage _ _ o | .kvput _ _ o => o.dX | _ => 0)).addr 0
  | .poisoned off n => s.unitEcc c .attention ⟨spPeat, s.peatBadAt c.t.tile off n, 1, false, (c.regs (match c.w.instr with | .attnRing _ _ o | .attnPage _ _ o | .kvput _ _ o => o.dX | _ => 0)).addr⟩
  | .done t e =>
    let (sp, ph) := t.physOf c.t d.addr
    ((t.countPieces c (t.workPieces c)).writeRows c.t sp ph (restRows c sp ph e.rows)).finishWork c .attention h e.flags

/-- An instruction whose slots are claimed runs to its end, or as far as its packets let it. (DESIGN CHOICE: log entry 21) -/
def State.runWork (s : State) (c : UCtx) (u : UnitKind) : State :=
  let h := headerOf c.w.instr
  match runJob c.w.instr with
  | some j => s.runMove c j
  | none =>
    match s.poisonedPiece c (s.workPieces c) with
    | some p => s.unitEcc c u p
    | none =>
      match c.w.instr with
      | .attnRing _ _ o => s.applyAtt c (c.regs o.dO) h (if s.badOverlap c then .done (s.spoil c) ⟨[], 0⟩ else s.attnRead c h o false)
      | .attnPage _ _ o => s.applyAtt c (c.regs o.dO) h (if s.badOverlap c then .done (s.spoil c) ⟨[], 0⟩ else s.attnRead c h o true)
      | .kvput _ _ o =>
        match s.kvputRun c h o with
        | .wait t => t.mapWork c.t .attention c.w.iid (fun w => { w with phase := .pageWait })
        | r => s.applyAtt c {} h r
      | .sent _ _ o => (s.countPieces c (s.workPieces c)).runSent c h o
      | .rhand _ _ o => (s.countPieces c (s.workPieces c)).runRhand c h o
      | _ => match s.arithEffect c with
        | some (d, e) => (s.writeArith c d e).finishWork c u h 0
        | none => s.finishWork c u h 0

/-- Whether an instruction has nothing to read or write (R89, R144): a destination or row set of zero length, or a sentinel that is
not enabled. A hand-off without columns still sends its rows' keys (R166). -/
def State.nothingToDo (s : State) (c : UCtx) : Bool :=
  match c.w.instr with
  | .sent _ _ o => (c.regs o.dX).empty || decide (s.sentCtl c.t o.index.toNat 0 0 = 0)
  | .rhand _ _ o => (c.regs o.dL).d1 = 0
  | .kvput _ _ o => (c.regs o.dQ).empty
  | i => match runJob i with
    | some j => (c.regs j.o.dD).empty
    | none => ((s.workOps c).filter (·.dest)).all (fun o => o.main = 0)

/-- Such an instruction completes, with its adds. -/
def State.runNothing (s : State) (c : UCtx) (u : UnitKind) : State :=
  let h := headerOf c.w.instr
  match c.w.instr with
  | .sent _ _ o => s.runSent c h o
  | .rhand _ _ o => s.runRhand c h o
  | i => match runJob i with
    | some j => s.emptyMove c j
    | none => s.finishWork c u h 0

/-- Whether the adds that an instruction ends with can be made: each lets the crucible's gathering buffer flush first, which waits for
a layer that is not ON (R181, R185). -/
def State.canAdd (s : State) (c : UCtx) : Bool :=
  let adds : Bool := (headerOf c.w.instr).dge || (match c.w.instr with | .sent _ _ _ => true | _ => false) ||
    (match runJob c.w.instr with | some j => j.o.rge | none => false)
  !adds || s.gbReady c.t.tile c.t.cru

/-! ### Slots whose access ends while the instruction waits for the next (R191, R193) -/

/-- Destination rows that can be computed from what the instruction has read. -/
def State.doneRows (s : State) (c : UCtx) : Option (Desc × List (Nat × List Byte)) :=
  let h := headerOf c.w.instr
  match runJob c.w.instr with
  | some j =>
    if farSpace (s.spaceOf c.t (c.regs j.o.dD).addr) || (j.kind ≠ .fill && farSpace (s.spaceOf c.t (c.regs j.o.dS).addr)) then none
    else some (c.regs j.o.dD, s.runRows c j)
  | none => match c.w.instr with
    | .attnRing _ _ o => match s.attnRead c h o false with | .done _ e => some (c.regs o.dO, e.rows) | _ => none
    | .attnPage _ _ o => match s.attnRead c h o true with | .done _ e => some (c.regs o.dO, e.rows) | _ => none
    | _ => (s.arithEffect c).map (fun x => (x.1, x.2.rows))

/-- A work item as its queue holds it now. -/
def State.again (s : State) (c : UCtx) (u : UnitKind) : UCtx :=
  match s.findWork c.t u c.w.iid with | some w => { c with w := w } | none => c

/-- The slots read so far, read and given up. -/
def State.settleReads (s : State) (c : UCtx) (u : UnitKind) : State :=
  let reads := c.w.claims.filter (fun x => !x.write && !x.dead)
  let seen := reads.flatMap (fun x => s.capture c.t x.mem (s.slotStart x) 4096)
  let keys := reads.map (fun x => x.mem * 2 ^ 22 + s.slotStart x / 4096)
  (s.endClaims reads).mapWork c.t u c.w.iid (fun w =>
    { w with claims := w.claims.filter (fun x => x.write || x.dead), seen := w.seen ++ seen, ended := w.ended ++ keys })

/-- The slots whose bytes can be computed by now, written and given up. -/
def State.settleWrites (s : State) (c : UCtx) (u : UnitKind) : State :=
  let mine := c.w.claims.filter (fun x => x.write && !x.dead)
  let unread := (s.slotNeeds c).any (fun n => !n.write)
  if mine.isEmpty || unread || s.badOverlap c || (s.poisonedPiece c (s.ownPieces c)).isSome then s
  else match s.doneRows c with
    | none => s
    | some (d, rows) =>
      let (sp, ph) := s.physOf c.t d.addr
      let keys := mine.map (fun x => x.mem * 2 ^ 22 + s.slotStart x / 4096)
      let here := (unitRows ph rows).filter (fun r => match unitKey c.t.cru sp (ph + r.1) with
        | some k => keys.contains k
        | none => false)
      ((s.writeRows c.t sp ph here).endClaims mine).mapWork c.t u c.w.iid (fun w =>
        { w with claims := w.claims.filter (fun x => !x.write || x.dead), ended := w.ended ++ keys })

/-- An instruction that waits for a slot: the slots it held before are read or written as far as they can be, and given up. -/
def State.settle (s : State) (c : UCtx) (u : UnitKind) : State :=
  let s := s.settleReads (s.again c u) u
  s.settleWrites (s.again c u) u

/-! ### Progress -/

/-- Whether an instruction can run now: its memory can be reached, its adds can be made, its slots are claimed. -/
def State.readyWork (s : State) (c : UCtx) (u : UnitKind) : Bool × State :=
  if !s.canAdd c || !s.piecesReady c (s.ownPieces c) then (false, s)
  else match s.claimWork c u with
    | (false, t) => (false, t.settle c u)
    | (true, t) => (true, t)

/-- An instruction taken as far as it goes. -/
def State.advanceWork (s : State) (c : UCtx) (u : UnitKind) : State :=
  if s.nothingToDo c then (if s.canAdd c then s.runNothing c u else s)
  else
    let go (s : State) : State := match s.readyWork c u with
      | (false, t) => t
      | (true, t) => t.runWork (t.again c u) u
    match runJob c.w.instr with
    | some j => if s.wantsIdx c j then s.probeIdx c j else go s
    | none => go s

/-- Whether a move waits for a probe before any data goes. -/
def State.farTagged (s : State) (c : UCtx) (j : RunJob) : Bool :=
  let d := c.regs j.o.dD
  let e := c.regs j.o.dS
  (d.tag = 1 && s.spaceOf c.t d.addr = spRemote) || (j.kind ≠ .fill && e.tag = 1 && s.spaceOf c.t e.addr = spRemote)

/-- A move started in its turn (R164); false when it waits and holds every later move. -/
def State.startMove (s : State) (c : UCtx) : Bool × State :=
  match c.w.phase, runJob c.w.instr with
  | .queued, some j =>
    if s.nothingToDo c then (true, s)
    else if s.wantsIdx c j then (false, s.probeIdx c j)
    else match s.readyWork c .runner with
      | (false, t) => (false, t)
      | (true, t) => if t.farTagged c j then (false, t.runMove (t.again c .runner) j) else (true, t)
  | .probing, _ => (false, s)
  | _, _ => (true, s)

/-- The moves ahead of another started in queue order. -/
def State.startMoves (s : State) (tile : TileIx) (cru : CruIx) : List Work → Bool × State
  | [] => (true, s)
  | w :: r =>
    let c := s.again ⟨⟨tile, cru, w.task⟩, w⟩ .runner
    match s.startMove c with
    | (false, t) => (false, t)
    | (true, t) => t.startMoves tile cru r

/-- The work that a command names, with the state in which it may proceed: the front of a unit's queue, one of the runner's first four
once the moves before it are started (R64, R164), or one that has nothing to do (R144). -/
def State.unitWork (s : State) (tile : TileIx) (cru : CruIx) (u : UnitKind) (k : Nat) : State × Option UCtx :=
  let q := (s.cru tile cru).queue u
  match (q[k]?).map (fun w => (⟨⟨tile, cru, w.task⟩, w⟩ : UCtx)) with
  | none => (s, none)
  | some c =>
    if k = 0 || (decide (c.w.phase = .queued) && s.nothingToDo c) then (s, some c)
    else if u = .runner && decide (k < 4) then
      match s.startMoves tile cru (q.take k) with
      | (false, t) => (t, none)
      | (true, t) => (t, some (t.again c u))
    else (s, none)

/-- The source range of an instruction that a task-relative address lies in, cut to that byte. -/
def State.sourceAt (s : State) (c : UCtx) (a : Addr) : Option Piece :=
  ((s.ownPieces c).find? (fun p => !p.write && decide ((a - p.addr).toNat < p.n))).map (fun p =>
    { p with off := p.off + (a - p.addr).toNat, n := 1, addr := a })

/-- A word of an instruction's sources in which the ECC check finds an error while the unit reads it (R201). -/
def State.unitMeets (s : State) (c : UCtx) (u : UnitKind) (e : EccResult) (a : Addr) : State :=
  if s.nothingToDo c then s.advanceWork c u
  else match s.sourceAt c a, s.readyWork c u with
    | some p, (true, t) =>
      match e with
      | .clean => t.runWork (t.again c u) u
      | .corrected _ => (t.unitEccNote c u p e).runWork (t.again c u) u
      | .uncorrectable => t.unitEcc (t.again c u) u p
    | _, _ => s.advanceWork c u

/-- The unit goes on with an instruction of its queue, as far as it can; `e` and `addr` say what the ECC check of a word of its
sources found. (DESIGN CHOICE: log entry 21) -/
def execUnitInstrComplete (tile : TileIx) (cru : CruIx) (u : UnitKind) (k : Nat) (e : EccResult) (addr : Addr) (s : State) : Out State :=
  match s.unitWork tile cru u k with
  | (t, none) => .next t
  | (t, some c) =>
    match c.w.phase with
    | .queued => .next (if e = .clean then t.advanceWork c u else t.unitMeets c u e addr)
    | .written => .next (if t.canAdd c then t.finishWork c u (headerOf c.w.instr) 0 else t)
    | _ => .next t

/-- A waiting KVPUT re-reads its page-table entry (R220). -/
def execKvputEntryReread (tile : TileIx) (cru : CruIx) (s : State) : Out State :=
  match (s.unitWork tile cru .attention 0).2 with
  | none => .next s
  | some c =>
    if c.w.phase = .pageWait then .next ((s.mapWork c.t .attention c.w.iid (fun w => { w with phase := .queued })).advanceWork c .attention)
    else .next s

/-! ### Early release (R86) -/

/-- An entry of the scoreboard given up, and the tasks that waited for it re-evaluated (R70, R81). -/
def State.freeEntry (s : State) (tile : TileIx) (cru : CruIx) (e : SbEntry) : State :=
  let c := s.cru tile cru
  (s.setCru tile cru { c with sb := c.sb.erase e }).wakeTasks tile cru

/-- Whether a unit can have reached an instruction: neither it nor one ahead of it in the queue is held up, and where it has slots to
claim it is the first. -/
def State.reached (s : State) (c : UCtx) (u : UnitKind) : Bool :=
  let q := (s.cru c.t.tile c.t.cru).queue u
  let ahead := q.takeWhile (fun w => w.iid ≠ c.w.iid)
  (ahead ++ [c.w]).all (fun w => w.want.isNone && w.phase ≠ .pageWait && w.phase ≠ .probing) &&
    ((s.slotNeeds c).isEmpty || ahead.isEmpty)

/-- An entry of the scoreboard freed before its instruction completes. A read entry is freed once its unit has read the range, whose
bytes stay with the instruction. A write entry is freed once the results are written, which mould and vector results can be at once.
(DESIGN CHOICE: log entry 21) -/
def execSbEntryRelease (tile : TileIx) (cru : CruIx) (k : Nat) (s : State) : Out State :=
  let cr := s.cru tile cru
  match cr.sb[k]? with
  | none => .next s
  | some e =>
    match (cr.queue e.unit).find? (fun w => w.iid = e.iid) with
    | none => .next (s.freeEntry tile cru e)
    | some w =>
      let c : UCtx := ⟨⟨tile, cru, e.task⟩, w⟩
      if !s.reached c e.unit then .next s
      else match w.phase with
        | .queued =>
          if !s.canAdd c || !s.piecesReady c (s.ownPieces c) then .next s
          else match s.claimWork c e.unit with
            | (false, t) => .next (t.settle c e.unit)
            | (true, t) =>
              let c := t.again c e.unit
              if !e.write then
                let seen := t.capture c.t (if e.peat then 4 else cru.val) e.lo (e.hi - e.lo)
                .next ((t.mapWork c.t e.unit w.iid (fun w => { w with seen := w.seen ++ seen })).freeEntry tile cru e)
              else match t.arithEffect c with
                | none => .next t
                | some (d, eff) =>
                  if (t.unitWork tile cru e.unit 0).2.map (·.w.iid) ≠ some w.iid || (t.poisonedPiece c (t.workPieces c)).isSome then .next t
                  else .next (((t.writeArith c d eff).mapWork c.t e.unit w.iid (fun w => { w with phase := .written })).freeEntry tile cru e)
        | _ => .next (if e.write then s else s.freeEntry tile cru e)

/-! ### Faults of a unit (R96, R97, R211) -/

/-- TMO_NS of a region. -/
def State.cregTmo (s : State) (tile : Nat) (peat : Bool) (r : Nat) : Nat := s.rf (cregPage tile peat) (Reg.CREG_CTL r) 63 32

/-- SLOT_TIMEOUTS and its event on a page. -/
def State.countTimeout (s : State) (tile : Nat) (peat : Bool) : State :=
  (s.bump (cregPage tile peat) (if peat then 7 else 5) 1).raise (cregPage tile peat) 2

/-- A wait of a unit on a slot that has lasted TMO_NS ends in SLOT_TIMEOUT (R192). -/
def State.unitTimeout (s : State) (c : UCtx) (u : UnitKind) : State :=
  match c.w.want, c.w.since with
  | some x, some t0 =>
    let ns := s.cregTmo c.t.tile x.peat x.reg
    let n := (s.slotNeeds c ++ s.lateNeeds c).find? (fun n => (n.claim c.t.tile).same x)
    if ns ≠ 0 && t0 + ns ≤ s.up && !s.claimable c.t.tile (unitRank c.t.cru u) x then
      (s.countTimeout c.t.tile x.peat).unitFault c (unitCode u) fSlotTimeout (match n with | some n => n.addr | none => 0) 0
    else s
  | _, _ => s

/-- Task faults of a crucible so far. -/
def State.faultsOf (s : State) (t : TaskRef) : W64 := s.reg (cruPage t.tile t.cru) (Reg.COUNTER 12)

/-- A unit finds a fault in an instruction: an uncorrectable error in a word of its sources, a wait on a slot that is over, or, for the
other codes, what running the instruction leads to where that is a fault. -/
def execUnitFault (tile : TileIx) (cru : CruIx) (u : UnitKind) (k : Nat) (code : BitVec 8) (addr : Addr) (s : State) : Out State :=
  match s.unitWork tile cru u k with
  | (t, none) => .next t
  | (t, some c) =>
    if code.toNat = fSlotTimeout then .next (t.unitTimeout c u)
    else if c.w.phase ≠ .queued then .next t
    else if code.toNat = fEcc then .next (if (t.sourceAt c addr).isSome then t.unitMeets c u .uncorrectable addr else t)
    else
      let r := t.advanceWork c u
      .next (if r.faultsOf c.t = t.faultsOf c.t then t else r)

/-! ### Waits on channel slots (R192, R194, R198) -/

/-- The work of a unit that waits on a slot. -/
def State.waitingWork (s : State) (tile : TileIx) (cru : CruIx) (u : UnitKind) : Option UCtx :=
  (((s.cru tile cru).queue u).find? (fun w => w.want.isSome)).map (fun w => ⟨⟨tile, cru, w.task⟩, w⟩)

/-- A unit that waits on a slot tries again. A move whose data has come so far claims the slot of its next bytes (R193). -/
def State.resumeUnit (s : State) (tile : TileIx) (cru : CruIx) (u : UnitKind) : State :=
  match s.waitingWork tile cru u with
  | none => s
  | some c =>
    match c.w.phase with
    | .moving _ =>
      match c.w.want with
      | none => s
      | some x => (s.claimNeeds c u ((s.lateNeeds c).filter (fun n => (n.claim tile).same x))).2
    | _ => s.advanceWork c u

/-- An incoming access that waits on a slot tries again; it leaves the probe table when it goes on. -/
def State.resumeProbe (s : State) (tile k : Nat) : State :=
  match (s.probesAt tile)[k]? with
  | none => s
  | some q =>
    let p := q.pkt
    let out (t : State) : State := t.setProbes tile ((t.probesAt tile).eraseIdx k)
    if p.op.toNat = opProbe then
      match s.tryProbe tile k p with
      | (true, t) => out t
      | (false, t) => t
    else if p.op.toNat = opRd then
      match s.rxReady tile k (bits p.operand.toNat 15 0) p with
      | (true, t) => (out t).doRd tile p .clean
      | (false, t) => t
    else
      match s.rxReady tile k p.payload.length p with
      | (true, t) => (out t).doWr tile p
      | (false, t) => t

/-- A waiting access finds its slot ready and claims it, in the order of R194. -/
def execTaggedAccessResume (w : Waiter) (s : State) : Out State :=
  match w with
  | .unit tile cru u => .next (s.resumeUnit tile cru u)
  | .probe tile k => .next (s.resumeProbe tile k)

/-- A wait of an incoming access that has lasted TMO_NS: the source is refused, and what the move held here reverts (R198). -/
def State.probeTimeout (s : State) (tile k : Nat) : State :=
  match (s.probesAt tile)[k]? with
  | none => s
  | some q =>
    match q.want with
    | none => s
    | some x =>
      let ns := s.cregTmo tile x.peat x.reg
      if ns ≠ 0 && q.since + ns ≤ s.up && !s.claimable tile (probeRank k) x then
        let p := q.pkt
        let s := (s.countTimeout tile x.peat).setProbes tile ((s.probesAt tile).eraseIdx k)
        let (m, others) := s.rxOf tile p 0
        let s := if p.op.toNat = opProbe then s
          else if p.op.toNat = opRd then (s.setRx tile others).revertClaims m.claims
          else (s.setRx tile (others ++ [{ m with bytes := m.bytes + p.payload.length, claims := [], todo := [], dead := true }])).revertClaims
            m.claims
        s.tileReply tile p opRefuse (p.addr.toNat / 2 ^ 38 * 2 ^ 38 + s.slotStart x) 0 []
      else s

def execSlotTimeout (w : Waiter) (s : State) : Out State :=
  match w with
  | .unit tile cru u =>
    match s.waitingWork tile cru u with
    | none => .next s
    | some c => .next (s.unitTimeout c u)
  | .probe tile k => .next (s.probeTimeout tile k)

end Sys2Proof.Machine
end

