-- ==== Sys2Proof/Machine/Wave.lean ====
section
/-! DEFINITION. The wavefront and the pass record as bytes, heats, and the stream journal (R244, R248, R263, R355 to R358, R519). -/
namespace Sys2Proof.Machine

/-! ### The wavefront (R248) -/

/-- The header of a wavefront. -/
structure Head where
  stream   : Nat
  gen      : BitVec 8
  polder   : Nat
  rstage   : Bool
  bed      : Nat
  kind     : Nat
  cls      : Nat
  last     : Bool
  tokens   : Bool
  rows     : Nat
  fmt      : Nat
  pos0     : Nat
  seq      : Nat
  enq      : Nat
  rowBytes : Nat
  commitN  : Nat
  accept   : List Byte
  deriving DecidableEq, Repr

def kPrefill : Nat := 0
def kDecode : Nat := 1
def kTree : Nat := 2

def Head.ofBytes (b : List Byte) : Head :=
  let w0 := leAt b 0 8
  let w1 := leAt b 8 8
  let w3 := leAt b 24 8
  ⟨bits w0 11 0, BitVec.ofNat 8 (bits w0 19 12), bits w0 22 20, bit w0 23, bits w0 31 24, bits w0 33 32, bits w0 35 34, bit w0 36,
   bit w0 37, bits w0 46 40, bits w0 55 48, bits w1 31 0, bits w1 63 32, leAt b 16 8, bits w3 31 0, bits w3 36 32,
   (b.drop 32).take 16⟩

/-- Bytes filled up with zeros, or cut, to a length. -/
def padTo (n : Nat) (b : List Byte) : List Byte := b.take n ++ List.replicate (n - b.length) 0

def Head.bytes (h : Head) : List Byte :=
  let w0 := h.stream + h.gen.toNat * 2 ^ 12 + h.polder * 2 ^ 20 + b2n h.rstage * 2 ^ 23 + h.bed * 2 ^ 24 + h.kind * 2 ^ 32 +
    h.cls * 2 ^ 34 + b2n h.last * 2 ^ 36 + b2n h.tokens * 2 ^ 37 + h.rows * 2 ^ 40 + h.fmt * 2 ^ 48
  leBytes 8 w0 ++ leBytes 4 h.pos0 ++ leBytes 4 h.seq ++ leBytes 8 h.enq ++ leBytes 4 h.rowBytes ++ leBytes 4 h.commitN ++
    padTo 16 h.accept ++ List.replicate 16 0

/-- A row key with VALID = 1 (R126). -/
def keyBytes (pos stream : Nat) (gen : BitVec 8) (node : Nat) : List Byte :=
  leBytes 8 (pos % 2 ^ 32 + stream * 2 ^ 32 + gen.toNat * 2 ^ 48 + node * 2 ^ 56) ++ leBytes 8 1

/-- The parts of a wavefront's bytes. -/
def waveHead (w : List Byte) : Head := Head.ofBytes w
def waveKeys (w : List Byte) : List Byte := (w.drop 64).take (16 * (waveHead w).rows)
def waveTree (w : List Byte) : List Byte :=
  if (waveHead w).kind = kTree then (w.drop (64 + 16 * (waveHead w).rows)).take 1024 else []
def waveRows (w : List Byte) : List Byte :=
  w.drop (64 + 16 * (waveHead w).rows + if (waveHead w).kind = kTree then 1024 else 0)
/-- Payload row i. -/
def waveRow (w : List Byte) (i : Nat) : List Byte :=
  ((waveRows w).drop (i * (waveHead w).rowBytes)).take (waveHead w).rowBytes
/-- A wavefront with another header. -/
def withHead (w : List Byte) (h : Head) : List Byte := h.bytes ++ w.drop 64

/-- A stride rounded up to 64 bytes (R243, R245). -/
def stride64 (n : Nat) : Nat := ceilDiv n 64 * 64

/-- The pass record and the input rows of granted wavefronts, as they lie in the pass area (R243, R244). -/
def passBytes (num : Nat) (ts : Nat) (ws : List (List Byte)) : List Byte :=
  let rows := (ws.map (fun w => (waveHead w).rows)).sum
  leBytes 8 (num % 2 ^ 32 + rows * 2 ^ 32 + ws.length * 2 ^ 39) ++ leBytes 8 ts ++ List.replicate 48 0 ++
  padTo 1024 (ws.flatMap waveKeys) ++ padTo 4096 (ws.flatMap (fun w => w.take 64)) ++
  padTo 65536 (ws.flatMap (fun w => padTo 1024 (waveTree w))) ++
  ws.flatMap (fun w => (List.range (waveHead w).rows).flatMap (fun i => padTo (stride64 (waveHead w).rowBytes) (waveRow w i)))

/-! ### Trees (R263) -/

/-- A node of a tree section. -/
structure Node where
  token  : Nat
  parent : Nat
  depth  : Nat
  dprob  : Nat
  deriving DecidableEq, Repr

def treeNode (t : List Byte) (i : Nat) : Node :=
  let w := leAt t (512 + 8 * i) 8
  ⟨bits w 17 0, bits w 29 24, bits w 35 32, bits w 63 48⟩
def treeNodes (t : List Byte) (n : Nat) : List Node := (List.range n).map (treeNode t)

/-- The ancestors of a node and the node itself, from the root, by a list of parents. -/
def nodePath (l : List Node) : Nat → Nat → List Nat
  | 0, i => [i]
  | f + 1, i => if i = 0 then [0] else nodePath l f ((l[i]?.map (·.parent)).getD 0) ++ [i]

/-- Whether every node after the root has an earlier parent, a depth that follows from it, and a place below 64 nodes. -/
def treeValid (l : List Node) : Bool :=
  decide (1 ≤ l.length) && decide (l.length ≤ 64) && (l[0]?.map (·.depth)).getD 1 == 0 &&
  ((List.range l.length).drop 1).all (fun i =>
    match l[i]? with
    | none => false
    | some x => decide (x.parent < i) && decide (x.depth = (l[x.parent]?.map (·.depth)).getD 0 + 1) && decide (x.depth ≤ 15))

/-- The nodes that the trimming keeps, of a tree whose root lies at a position (R263). -/
def treeKept (l : List Node) (pos0 posLimit nodes depth : Nat) : List Bool :=
  ((List.range l.length).foldl (fun (acc : List Bool) i =>
    match l[i]? with
    | none => acc
    | some x =>
      let up := i = 0 || (acc[x.parent]?).getD false
      acc ++ [decide (i < nodes) && decide (pos0 + x.depth < posLimit) && decide (x.depth < depth) && up]) [])

/-- The mask of a tree: 64 rows of 8 bytes. -/
def maskBytes (rows : List (List Nat)) : List Byte :=
  padTo 512 (rows.flatMap (fun r => leBytes 8 ((r.map (fun i => 2 ^ i)).sum)))

/-- The tree section of a list of nodes with their mask rows. -/
def treeBytes (l : List Node) (rows : List (List Nat)) : List Byte :=
  maskBytes rows ++ padTo 512 (l.flatMap (fun x => leBytes 8 (x.token + x.parent * 2 ^ 24 + x.depth * 2 ^ 32 + x.dprob * 2 ^ 48)))

/-- The mask row of a node: its ancestors and itself. -/
def treeRow (l : List Node) (i : Nat) : List Nat := nodePath l 64 i

/-! ### Heats (R519) -/

/-- The polder that drafts for a polder. -/
def State.draftPolder (s : State) (p : Nat) : Option Nat :=
  if s.rb polderPage (Reg.POLD_DRAFT p) 3 then some (s.rf polderPage (Reg.POLD_DRAFT p) 2 0) else none

/-- Polders linked to those of a list by drafting, with the list. -/
def State.linked (s : State) (l : List Nat) : List Nat :=
  (List.range 8).filter (fun q => l.contains q || l.any (fun p => s.draftPolder p = some q || s.draftPolder q = some p))
def State.heatOf (s : State) (p : Nat) : List Nat := (List.range 7).foldl (fun l _ => s.linked l) [p]
def State.heatKey (s : State) (p : Nat) : Nat := (s.heatOf p).foldl min p
def State.heat (s : State) (p : Nat) : Heat := Store.get {} s.heats (s.heatKey p)
def State.setHeat (s : State) (p : Nat) (h : Heat) : State := { s with heats := Store.set {} s.heats (s.heatKey p) h }
/-- The heat of a polder is fenced, held or stopped (R526, R532, R538). -/
def State.fenced (s : State) (p : Nat) : Bool := (s.heat p).phase ≠ .running

/-! ### Journals (R355 to R358) -/

def State.jrnLog2 (s : State) : Nat := s.rf (mirePage 0) Reg.JRN_CTL 12 8
def State.jrnBase (s : State) : Nat := s.rf (mirePage 0) Reg.JRN_BASE 40 0
/-- Whether journals are written: EN, a legal LOG2 and an aligned base. -/
def State.jrnOn (s : State) : Bool :=
  s.rb (mirePage 0) Reg.JRN_CTL 0 && decide (13 ≤ s.jrnLog2) && decide (s.jrnLog2 ≤ 20) && decide (s.jrnBase % 2 ^ s.jrnLog2 = 0)
def State.jrnAt (s : State) (n : Nat) : Nat := s.jrnBase + n * 2 ^ s.jrnLog2
/-- Entries of a journal's ring, and the address of the record with count k. -/
def State.jrnRing (s : State) : Nat := (2 ^ s.jrnLog2 - 256) / 16
def State.jrnEntry (s : State) (n k : Nat) : Nat := s.jrnAt n + 256 + 16 * ((k - 1) % s.jrnRing)

/-- A journal write: whether the controller acknowledges it. (DESIGN CHOICE: log entry 44) -/
def State.jrnPut (s : State) (a : Nat) (bs : List Byte) : Bool × State := if s.jrnOn then s.mireServeWrite a bs else (true, s)
/-- DESIGN CHOICE: log entry 44. -/
def State.jrnWrite (s : State) (a : Nat) (bs : List Byte) : State := (s.jrnPut a bs).2

/-- The commit header (R356, R357). -/
def State.jrnCommit (s : State) (n : Nat) (valid : Bool) (commit seq : Nat) : State :=
  let x := s.stream n
  s.jrnWrite (s.jrnAt n) (leBytes 8 (n + x.genBind.toNat * 2 ^ 12 + b2n valid * 2 ^ 20) ++ leBytes 4 commit ++ leBytes 4 seq ++
    leBytes 8 s.now.toNat ++ List.replicate 40 0)
/-- The emission header. (DESIGN CHOICE: log entry 44) -/
def State.jrnEmission (s : State) (n emitted gstate : Nat) : State :=
  s.jrnWrite (s.jrnAt n + 64) (leBytes 4 emitted ++ leBytes 4 gstate ++ leBytes 8 s.now.toNat ++ List.replicate 48 0)

/-- A token record of the journal, by its count, as four words (R308). -/
def State.jrnRecord (s : State) (n k : Nat) : List Byte := s.readMire (s.jrnEntry n k) 16

/-- The token at a position of a stream: of the prompt, or of a journal record, which for a draft stream is its target's (R257,
R407, R542, R544). -/
def State.tokenAt (s : State) (n pos : Nat) : Nat :=
  let x := s.stream n
  if pos < x.promptLen then leNat (s.readHost x.port (x.promptAddr + 4 * pos) 4)
  else leAt (s.jrnRecord (if x.draft then x.link else n) (pos - x.promptLen + 1)) 4 4

end Sys2Proof.Machine
end

