-- ==== Sys2Proof/Machine/Loop.lean ====
section
/-! DEFINITION. Beds: places, admission, passes and the moves between stages (R239 to R249, R256 to R262, R267, R269). -/
namespace Sys2Proof.Machine

/-! ### Beds and their tiles (R239, R240) -/

def State.firstBed (s : State) (p : Nat) : Option Nat := (s.bedsOf p).find? s.bedFirst
def State.nextBed (s : State) (b : Nat) : Option Nat :=
  (s.bedsOf (s.bedPolder b)).find? (fun c => s.bedOrder c = s.bedOrder b + 1)
/-- The tile at a logical slot, as that tile's own table says. -/
def State.tileOfSlot (s : State) (pol slot : Nat) : Option Nat := (List.range 80).find? (fun i => s.slotTile i pol slot = some i)
def State.entryTile (s : State) (b : Nat) : Option Nat := s.tileOfSlot (s.bedPolder b) (s.bedEntry b)
def State.exitTile (s : State) (b : Nat) : Option Nat := s.tileOfSlot (s.bedPolder b) (s.bedExit b)
def State.inSlots (s : State) (b : Nat) : Nat := s.bedCfg0 b 33 27

/-- A slot miss of a move of the loop is a stall (R319). -/
def State.loopMiss (s : State) (tile : Nat) : State := (s.slotMiss tile).report tile 3 6 0

/-! ### The watchdog's timer (R269) -/

/-- Whether a bed has a wavefront waiting or a pass open. -/
def State.bedBusy (s : State) (b : Nat) : Bool := !(s.fullPlaces b).isEmpty || !(s.bed b).passes.isEmpty
/-- DEDUCED: log entry 43. -/
def State.restartDog (s : State) (b : Nat) : State := s.setBed b { s.bed b with wdog := s.up }

/-! ### Places (R242, R258, R267) -/

/-- The first free normal place of a bed. -/
def State.freeNormal (s : State) (b : Nat) : Option Nat := (List.range (s.inSlots b)).find? (fun i => !(s.place b i).used)

def State.reserve (s : State) (b i src tag : Nat) : State := s.setPlace b i { used := true, src := src, tag := tag }

/-- A place request answered with a place. -/
def State.placeOk (s : State) (tile b i : Nat) (p : Packet) : State :=
  (s.reserve b i p.src.toNat p.tag.toNat).tileReply tile p opPlaceOk b i []

/-- A place released; the place request that has waited longest takes it. -/
def State.freePlace (s : State) (b i : Nat) : State :=
  let s := s.setPlace b i {}
  match (s.bed b).asks, s.freeNormal b, s.entryTile b with
  | p :: r, some j, some e => (s.setBed b { s.bed b with asks := r }).placeOk e b j p
  | _, _, _ => s

/-- A wavefront dropped from a place (R267). -/
def State.dropWave (s : State) (b i : Nat) : State :=
  let h := waveHead (s.place b i).data
  let s := (s.leaveLoop h.stream (decide (h.kind = kPrefill))).bump polderPage 2 1
  (s.freePlace b i).restartDog b

/-- The places whose wavefronts wait: full and in no open pass. -/
def State.waiting (s : State) (b : Nat) : List Nat :=
  (s.fullPlaces b).filter (fun i => !(s.bed b).passes.any (fun q => q.places.contains i))

def State.headAt (s : State) (b i : Nat) : Head := waveHead (s.place b i).data

/-- Whether a wavefront's generation is the one that a tile's table holds. -/
def State.current (s : State) (tile : Nat) (h : Head) : Bool := s.genAt tile h.stream = h.gen

/-- Waiting wavefronts of an old generation are dropped. (DEDUCED: log entry 47) -/
def State.dropStale (s : State) (b tile : Nat) : State :=
  ((s.waiting b).filter (fun i => !s.current tile (s.headAt b i))).foldl (fun (s : State) i => s.dropWave b i) s

/-- A wavefront complete in its place: dropped when its generation is old, else waiting from now on. -/
def State.arrived (s : State) (tile b i : Nat) : State :=
  let x := s.place b i
  let h := waveHead x.data
  let s := if s.bedBusy b then s else s.restartDog b
  let s := s.setPlace b i { x with full := true, data := withHead x.data { h with enq := s.now.toNat } }
  if s.current tile h then s else s.dropWave b i

/-- Bytes laid into a byte string at an offset. -/
def overlay (l : List Byte) (off : Nat) (bs : List Byte) : List Byte :=
  l.take off ++ (bs.take (l.length - off)) ++ l.drop (off + bs.length)

/-! ### Wavefront moves -/

/-- OPERAND of a WAVE packet: destination bed and place, pass flag, riddle flag, pass area, bytes in all.
(DESIGN CHOICE: log entry 27) -/
def waveOperand (bed place : Nat) (pass riddle odd : Bool) (total : Nat) : Nat :=
  bed + place * 2 ^ 8 + b2n pass * 2 ^ 16 + b2n riddle * 2 ^ 17 + b2n odd * 2 ^ 18 + total * 2 ^ 32

/-- The WAVE packets of a byte string toward a tile; `base` is added to the offset. -/
def waveSends (dst tag oper base cls : Nat) (bs : List Byte) : List Send :=
  (cuts false 0 bs.length).map (fun x =>
    { dst := dst, op := opWave, addr := base + x.1, tag := tag, operand := oper, payload := (bs.drop x.1).take x.2, tclass := cls })

/-- A wavefront begins to move to a place that it holds at the next stage. -/
def State.sendWave (s : State) (m : WMove) (dst bed place : Nat) (riddle : Bool) : State :=
  s.injectAll m.tile (s.polderOf m.tile)
    (waveSends dst m.tag (waveOperand bed place false riddle false m.wave.length) 0 (waveHead m.wave).cls m.wave)

/-- One more wavefront of a pass is done; after the last one the pass counts as forwarded. (DEDUCED: log entry 41) -/
def State.passStep (s : State) (b i : Nat) : State :=
  let x := s.bed b
  match x.passes.find? (fun q => q.moving && q.places.contains i) with
  | none => s
  | some q =>
    let rest := x.passes.filter (fun r => r.num ≠ q.num)
    if q.places.length ≤ q.done + 1 then
      ((s.setBed b { x with passes := rest, forwarded := q.num }).bump polderPage 1 1).restartDog b
    else s.setBed b { x with passes := x.passes.map (fun r => if r.num = q.num then { r with done := r.done + 1 } else r) }

/-- A wavefront of a pass leaves its input place. -/
def State.leavePlace (s : State) (b i : Nat) : State := (s.passStep b i).freePlace b i

/-- A wavefront has arrived whole at its new place, and the old place is released (R242). (DEDUCED: log entry 41) -/
def State.waveDone (s : State) (m : WMove) : State :=
  let s := { s with wmoves := s.wmoves.erase m }
  match m.fromBed with
  | some (b, i) => s.leavePlace b i
  | none => { s with rplaces := Store.upd [] s.rplaces m.tile (fun l => l.filter (fun r => r.stream ≠ m.stream)) }

/-- Whether a wavefront's move still waits for a place at the next bed. -/
def State.moveWaits (s : State) (m : WMove) : Bool :=
  match m.toBed with
  | none => false
  | some c => m.fromBed.isSome && (s.bed c).asks.any (fun p => p.src.toNat = m.tile && p.tag.toNat = m.tag)

/-- A wavefront dropped while its move waits for a place: the request is withdrawn and the place it holds is released (R267, R268). -/
def State.dropMove (s : State) (m : WMove) : State :=
  match m.toBed, m.fromBed with
  | some c, some (b, i) =>
    let h := waveHead m.wave
    let x := s.bed c
    let s := ({ s with wmoves := s.wmoves.erase m }).setBed c { x with
      asks := x.asks.filter (fun p => !(p.src.toNat = m.tile && p.tag.toNat = m.tag)) }
    ((s.leaveLoop h.stream (decide (h.kind = kPrefill))).bump polderPage 2 1).leavePlace b i
  | _, _ => s

/-- The waiting moves of an exit tile whose generation is old are dropped. (DEDUCED: log entry 47) -/
def State.dropStaleMoves (s : State) (tile : Nat) : State :=
  (s.wmoves.filter (fun m => m.tile = tile && s.moveWaits m && !s.current tile (waveHead m.wave))).foldl
    (fun (s : State) m => s.dropMove m) s

def State.waveOf (s : State) (tile tag : Nat) : Option WMove := s.wmoves.find? (fun m => m.tile = tile && m.tag = tag)

/-! ### Place requests and wavefronts that arrive (R242, R267) -/

/-- A PLACE_REQ delivered to the entry tile of a bed. -/
def execPlaceReq (p : Packet) (s : State) : Out State :=
  if !p.wf then .fault .illFormed
  else .next (s.eject opPlaceReq p (fun tile t =>
    let b := p.addr.toNat
    if b < 256 && t.bedValid b && t.entryTile b = some tile then
      match t.freeNormal b with
      | some i => t.placeOk tile b i p
      | none => t.setBed b { t.bed b with asks := (t.bed b).asks ++ [p] }
    else t))

/-- A PLACE_OK delivered: the wavefront is copied to the place. -/
def execPlaceOk (p : Packet) (s : State) : Out State :=
  if !p.wf then .fault .illFormed
  else .next (s.eject opPlaceOk p (fun tile t =>
    match t.waveOf tile p.tag.toNat with
    | none => t
    | some m => t.sendWave m p.src.toNat p.addr.toNat (bits p.operand.toNat 6 0) false))

/-- Bytes of a pass that arrive at a member tile (R243). -/
def State.passArrive (s : State) (tile : Nat) (p : Packet) : State :=
  let b := bits p.operand.toNat 7 0
  let s := s.writePeat tile p.addr.toNat p.payload
  let odd := bit p.operand.toNat 18
  let x := s.bed b
  s.setBed b { x with passes := x.passes.map (fun q =>
    if decide (q.num % 2 = 1) = odd then { q with got := Store.upd 0 q.got tile (· + p.payload.length) } else q) }

/-- Bytes of a wavefront that arrive in a place. -/
def State.placeArrive (s : State) (tile : Nat) (p : Packet) : State :=
  let b := bits p.operand.toNat 7 0
  let i := bits p.operand.toNat 15 8
  let total := bits p.operand.toNat 63 32
  let x := s.place b i
  if !x.used || x.full || x.src ≠ p.src.toNat || x.tag ≠ p.tag.toNat then s
  else
    let data := overlay (padTo total x.data) p.addr.toNat p.payload
    let got := x.got + p.payload.length
    let s := s.setPlace b i { x with got := got, data := data }
    if got < total then s else (s.arrived tile b i).tileReply tile p opMoveDone 0 total []

/-- A riddle place given up without a wavefront, and a wavefront of an old generation dropped from one (R267). -/
def State.freeRiddle (s : State) (tile : Nat) (r : RPlace) : State :=
  { s with rplaces := Store.upd [] s.rplaces tile (fun l => l.filter (fun q => q.index ≠ r.index)) }
def State.dropRiddle (s : State) (tile : Nat) (r : RPlace) : State :=
  ((s.freeRiddle tile r).leaveLoop r.stream (decide ((waveHead r.wave).kind = kPrefill))).bump polderPage 2 1
/-- The riddle place reserved for a wavefront that is dropped before it reaches it. -/
def State.unreserveRiddle (s : State) (tile : Nat) (h : Head) : State :=
  match s.homeTile tile h.polder h.stream with
  | none => s
  | some home =>
    match (Store.get [] s.rplaces home).find? (fun r => r.stream = h.stream && r.gen = h.gen && r.phase = .reserved) with
    | some r => s.freeRiddle home r
    | none => s

/-! ### Parts against their wavefront (R278, R279) -/

/-- Whether a part's row matches a row of a wavefront: by NODE for a tree, else by POSITION. -/
def rowMatches (h : Head) (pos node : Nat) : Bool :=
  if h.kind = kTree then decide (node < h.rows) else decide (h.pos0 ≤ pos) && decide (pos < h.pos0 + h.rows)

/-- A part of a stream discarded under R279. -/
def State.partErr (s : State) (tile n : Nat) (gen : BitVec 8) (pos : Nat) : State :=
  let pg := riddlePage tile
  ((s.bump pg 4 1).raise pg 2).setReg pg Reg.RID_LAST (word [(0, n), (12, gen.toNat), (20, 3), (32, pos)])

/-- Whether a token lies in the slice of a row of a part. -/
def PartRow.covers (r : PartRow) (t : Nat) : Bool := decide (r.first ≤ t) && decide (t < r.first + r.width)

def Tok.before (a b : Tok) : Bool := belowVal b.y a.y || (!belowVal a.y b.y && decide (a.id < b.id))
def insertTok (x : Nat × Tok) : List (Nat × Tok) → List (Nat × Tok)
  | [] => [x]
  | y :: r => if x.2.before y.2 then x :: y :: r else y :: insertTok x r
/-- The 256 highest of two candidate lists, equal values by lower token. -/
def topToks (acc l : List (Nat × Tok)) : List (Nat × Tok) := l.foldl (fun acc x => (insertTok x acc).take 256) acc

/-- A row of a part joined to its row's candidate list: a token of a higher PART that the part covers gives way (R292). -/
def addRow (part : Nat) (x : PartRow) (l : List RowCand) : List RowCand :=
  let mine (c : RowCand) : Bool := c.pos = x.pos && c.node = x.node
  let old := ((l.find? mine).map (·.toks)).getD []
  ⟨x.pos, x.node, topToks (old.filter (fun t => decide (t.1 < part) || !x.covers t.2.id)) (x.toks.map (fun t => (part, t)))⟩ ::
    l.filter (fun c => !mine c)

/-- A part taken into a place: with the wavefront there, its rows' candidates join the rows' lists; before that they stay under the
rows' keys (R276, R278). -/
def RPlace.take (r : RPlace) (q : PartRec) : RPlace :=
  if r.phase = .gathering then
    { r with parts := r.parts ++ [{ q with rows := q.rows.map (fun x => { x with toks := [] }) }],
             cands := q.rows.foldl (fun l x => addRow q.part x l) r.cands }
  else { r with parts := r.parts ++ [q] }

/-- Where the area of a riddle place lies in peat, and whether it lies there whole (R276, R311). -/
def State.placeAt (s : State) (tile i : Nat) : Nat := s.rf (riddlePage tile) Reg.PLACE_BASE 32 0 + 196608 * i
def State.placeFits (s : State) (tile i : Nat) : Bool := decide (s.placeAt tile i + 196608 ≤ peatSize)

/-- The riddle writes to the area of a place: how the bytes there change, and in how many lines, no rule says. A write by anything
else to that area does not reach the place. (DESIGN CHOICE: log entry 131) -/
def State.stirPlace (s : State) (tile i : Nat) : State :=
  if s.placeFits tile i then
    let bs := undefBytes s.fresh 196608
    let lines (k : Nat) : Nat := min 768 (Config.placeLines s.fresh k)
    let s := { s with peat := putBytes s.peat (peatKey tile (s.placeAt tile i)) bs }
    ((s.tickFresh).bump (peatPage tile) 0 (lines 0)).bump (peatPage tile) 1 (lines 1)
  else s

/-- The parts that arrived before their wavefront are judged when it has arrived: a part with a row that matches none goes, and the
rows of the others take their place in the rows' candidate lists. -/
def State.settleParts (s : State) (tile n : Nat) : State :=
  match (Store.get [] s.rplaces tile).find? (fun r => r.stream = n && r.phase = .gathering) with
  | none => s
  | some r =>
    let h := waveHead r.wave
    let bad := r.parts.filter (fun q => !q.rows.all (fun x => rowMatches h x.pos x.node))
    let good := r.parts.filter (fun q => q.rows.all (fun x => rowMatches h x.pos x.node))
    let r' := good.foldl RPlace.take { r with parts := [], cands := [] }
    let s := { s with rplaces := Store.upd [] s.rplaces tile (fun l => l.map (fun q => if q.index = r.index then r' else q)) }
    bad.foldl (fun (s : State) q => s.partErr tile n r.gen ((q.rows.head?.map (·.pos)).getD 0)) s

/-- Bytes of a wavefront that arrive in the riddle place reserved for its stream (R247, R277). -/
def State.riddleArrive (s : State) (tile : Nat) (p : Packet) : State :=
  let i := bits p.operand.toNat 15 8
  let total := bits p.operand.toNat 63 32
  let l := Store.get [] s.rplaces tile
  match l.find? (fun r => r.index = i && r.phase = .reserved) with
  | none => s
  | some r =>
    let wave := overlay (padTo total r.wave) p.addr.toNat p.payload
    let got := r.got + p.payload.length
    let s := s.stirPlace tile i
    let whole : RPlace :=
      { r with got := got, wave := withHead wave { waveHead wave with enq := s.now.toNat }, phase := .gathering, since := s.up }
    let put (q : RPlace) : State := { s with rplaces := Store.set [] s.rplaces tile (l.map (fun x => if x.index = i then q else x)) }
    if got < total then put { r with got := got, wave := wave }
    else
      let s := if s.genAt tile r.stream = r.gen then (put whole).settleParts tile r.stream else s.dropRiddle tile whole
      s.tileReply tile p opMoveDone 0 total []

/-- A WAVE delivered: bytes of a pass, or of a wavefront on its way to a place. -/
def execWave (p : Packet) (s : State) : Out State :=
  if !p.wf then .fault .illFormed
  else .next (s.eject opWave p (fun tile t =>
    if bit p.operand.toNat 16 then t.passArrive tile p
    else if bit p.operand.toNat 17 then t.riddleArrive tile p
    else t.placeArrive tile p))

/-! ### Admission (R256, R257) -/

/-- The positions that admission still covers: the prompt, or the replay length (R542). -/
def Stream.limit (x : Stream) : Nat := x.replay.getD x.promptLen

/-- Whether admission may take a stream's next chunk. -/
def Stream.admits (x : Stream) : Bool :=
  (x.st = .bound || x.st = .prefill) && decide (x.admitted < x.limit) && decide (x.chunks < 8)
/-- A replayed stream in DECODE admits its replay chunks too (R542). -/
def Stream.replays (x : Stream) : Bool := x.st = .decode && x.replay.isSome && decide (x.admitted < x.limit) && decide (x.chunks < 8)

/-- The oldest-bound stream that has a chunk to admit. -/
def State.admissible (s : State) (p : Nat) : Option Nat :=
  ((s.streamsOf p).filter (fun n => (s.stream n).admits || (s.stream n).replays)).foldl
    (fun (a : Option Nat) n => match a with
      | none => some n
      | some m => if (s.stream n).since < (s.stream m).since then some n else some m) none

/-- A prompt chunk of a stream as a wavefront (R248, R249). -/
def State.chunkWave (s : State) (b n : Nat) : List Byte :=
  let x := s.stream n
  let k := min 64 (x.limit - x.admitted)
  let h : Head :=
    { stream := n, gen := x.gen, polder := x.polder, rstage := false, bed := b, kind := kPrefill, cls := x.cls,
      last := decide (x.admitted + k = x.limit), tokens := true, rows := k, fmt := 0, pos0 := x.admitted, seq := x.seq + 1,
      enq := s.now.toNat, rowBytes := 4, commitN := 0, accept := [] }
  h.bytes ++ (List.range k).flatMap (fun i => keyBytes (x.admitted + i) n x.gen 0) ++
    (List.range k).flatMap (fun i => leBytes 4 (s.tokenAt n (x.admitted + i)))

/-- The journal records that a replayed stream's chunk takes its tokens from (R542). -/
def State.chunkReads (s : State) (n : Nat) : List (Nat × Nat) :=
  let x := s.stream n
  ((List.range (min 64 (x.limit - x.admitted))).filter (fun i => decide (x.promptLen ≤ x.admitted + i))).map
    (fun i => (s.jrnEntry (if x.draft then x.link else n) (x.admitted + i - x.promptLen + 1), 16))

/-- Riddle places whose token wavefront waits for the first bed. (DEDUCED: log entry 42) -/
def State.tokenWaits (s : State) (p : Nat) : Bool :=
  s.rplaces.any (fun e => e.2.any (fun r => r.phase = .leaving && decide ((s.stream r.stream).polder = p) &&
    !s.wmoves.any (fun m => m.fromBed.isNone && m.stream = r.stream)))

/-- One chunk admitted: a free credit, a free normal place and a stream are needed, and no token wavefront may wait.
(DEDUCED: log entry 42) -/
def execAdmission (polder : PolderIx) (s : State) : Out State :=
  let p := polder.val
  match s.firstBed p, s.admissible p with
  | some b, some n =>
    match s.freeNormal b, s.entryTile b with
    | some i, some e =>
      if s.fenced p || s.sealHold || s.tokenWaits p || decide (s.rf polderPage (Reg.POLD_LOOP p) 15 0 ≤ s.inLoop p) then .next s
      else
        let w := s.chunkWave b n
        let x := s.stream n
        let k := (waveHead w).rows
        let (ok, s) := s.mireTake (s.chunkReads n)
        if !ok then .next s
        else
        let s := s.setStream n { x with
          st := if x.st = .bound then .prefill else x.st, admitted := x.admitted + k, seq := (x.seq + 1) % 2 ^ 32,
          inflight := x.inflight + 1, chunks := x.chunks + 1 }
        let s := (s.bump polderPage 0 1).setPlace b i { used := true, src := e, got := w.length, data := w }
        .next (s.arrived e b i)
    | _, _ => .next s
  | _, _ => .next s

/-! ### Choosing a pass (R260 to R262) -/

/-- The class of a waiting wavefront: it rises by one every 64 µs. -/
def State.waveClass (s : State) (h : Head) : Nat := min 3 (h.cls + (s.now.toNat - h.enq) / 64000)

/-- A candidate of the entry sequencer: its place, header and class. -/
structure Cand where
  place : Nat
  head  : Head
  cls   : Nat
  deriving DecidableEq, Repr

/-- The eligible wavefronts among waiting places (R261). -/
def State.eligible (s : State) (b tile : Nat) (ws : List Nat) : List Cand :=
  let hs := ws.map (fun i => (i, s.headAt b i))
  (hs.filter (fun x => s.current tile x.2 && hs.all (fun y => y.2.stream ≠ x.2.stream || x.2.seq ≤ y.2.seq))).map
    (fun x => ⟨x.1, x.2, ((hs.filter (fun y => y.2.stream = x.2.stream)).map (fun y => s.waveClass y.2)).foldl max 0⟩)

/-- The oldest of a class: the lowest ENQ_TS, then the lowest stream number. -/
def oldest (l : List Cand) (c : Nat) : Option Cand :=
  (l.filter (fun x => x.cls = c)).foldl (fun (a : Option Cand) x => match a with
    | none => some x
    | some y => if x.head.enq < y.head.enq || (x.head.enq = y.head.enq && x.head.stream < y.head.stream) then some x else some y) none

/-- The pointer and the quanta of classes 0 to 2. -/
structure Turn where
  ptr    : Nat
  quanta : List Nat
  deriving DecidableEq, Repr

def Turn.quantum (t : Turn) (c : Nat) : Nat := t.quanta.getD c 0
def Turn.setQuantum (t : Turn) (c v : Nat) : Turn := { t with quanta := (padQ t.quanta).set c v }
where padQ (l : List Nat) : List Nat := (List.range 3).map (fun i => l.getD i 0)

/-- DESIGN CHOICE: log entry 40. -/
def pickLoop {α : Type} (old : Nat → Option α) (weight : Nat → Nat) : Nat → Turn → Option α × Turn
  | 0, t => (none, t)
  | f + 1, t =>
    match (if 0 < t.quantum t.ptr then old t.ptr else none) with
    | some x => (some x, t)
    | none =>
      let p := if t.ptr = 0 then 2 else t.ptr - 1
      pickLoop old weight f (({ t with ptr := p } : Turn).setQuantum p (weight p))

/-- pick() of R262, over the oldest candidate of each class. (DESIGN CHOICE: log entry 40) -/
def pickTurn {α : Type} (old : Nat → Option α) (weight : Nat → Nat) (t : Turn) : Option α × Turn :=
  match old 3 with
  | some x => (some x, t)
  | none => pickLoop old weight 4 t

/-- The quantum that a grant of a class uses up (R262). -/
def Turn.use (t : Turn) (c : Nat) : Turn := if c < 3 then t.setQuantum c (t.quantum c - 1) else t

/-- Whether a wavefront goes on from a last bed to the riddle (R246). A draft stream's MAX_TOKENS is ignored (R408). -/
def State.continues (s : State) (h : Head) : Bool :=
  let x := s.stream h.stream
  !(h.kind = kPrefill && !h.last) && (x.draft || x.maxTokens ≠ 0)

/-- A riddle place reserved at the stream's home riddle (R247, R277); none when there is none. (DEDUCED: log entry 39) -/
def State.reserveRiddle (s : State) (tile : Nat) (h : Head) : Option State :=
  match s.homeTile tile h.polder h.stream with
  | none => none
  | some home =>
    let l := Store.get [] s.rplaces home
    let n := s.rf (riddlePage home) Reg.RID_CTL 12 4
    if !s.rb (riddlePage home) Reg.RID_CTL 0 then none
    else match (List.range n).find? (fun i => l.all (fun r => r.index ≠ i)) with
      | none => none
      | some i =>
        let r : RPlace :=
          { index := i, stream := h.stream, gen := h.gen, src := tile, tag := 0, got := 0, wave := [], parts := [], cands := [],
            phase := .reserved, since := s.up }
        some { s with rplaces := Store.set [] s.rplaces home (l ++ [r]) }

/-- A pass being put together: the state, the turn, the places granted and their rows. -/
structure Opening where
  st     : State
  turn   : Turn
  places : List Nat
  rows   : Nat

/-- open_pass() of R262; `fuel` is the number of wavefronts that the pass may still take. (DEDUCED: log entry 39) -/
def openLoop (b tile passRows : Nat) (last : Bool) (weight : Nat → Nat) : Nat → List Nat → Opening → Opening
  | 0, _, o => o
  | f + 1, ws, o =>
    match pickTurn (oldest (o.st.eligible b tile ws)) weight o.turn with
    | (none, t) => { o with turn := t }
    | (some c, t) =>
      if passRows < o.rows + c.head.rows then { o with turn := t }
      else match (if last && o.st.continues c.head then o.st.reserveRiddle tile c.head else some o.st) with
        | none => { o with turn := t }
        | some s =>
          let s := if c.cls = 3 then s.bump polderPage 3 1 else s
          openLoop b tile passRows last weight f (ws.filter (· ≠ c.place)) ⟨s, t.use c.cls, o.places ++ [c.place], o.rows + c.head.rows⟩

/-- The pass area on a member tile. -/
def State.passArea (s : State) (b num : Nat) : Nat :=
  4096 * (if num % 2 = 0 then fld (s.bedReg b Reg.BED_CFG2) 20 0 else fld (s.bedReg b Reg.BED_CFG2) 41 21)

/-- The pass record and its rows sent to every member tile (R243, R333). -/
def State.castPass (s : State) (b tile num : Nat) (bs : List Byte) (cls : Nat) : State :=
  let oper := waveOperand b 0 true false (decide (num % 2 = 1)) bs.length
  (s.bedSlots b).foldl (fun (s : State) k =>
    match s.slotTile tile (s.bedPolder b) k with
    | none => s.loopMiss tile
    | some d => s.injectAll tile (s.bedPolder b) (waveSends d 0 oper (s.passArea b num) cls bs)) s

/-- Whether a pass has been started on every member tile. -/
def State.passStarted (s : State) (b : Nat) (q : Pass) : Bool :=
  (s.bedSlots b).all (fun k => match s.tileOfSlot (s.bedPolder b) k with | some i => q.started.contains i | none => true)

/-- The entry sequencer opens the next pass, once a wavefront is eligible (R243). (DESIGN CHOICE: log entry 40) -/
def execPassOpen (bed : BedIx) (s : State) : Out State :=
  let b := bed.val
  match s.entryTile b with
  | none => .next s
  | some tile =>
    let p := s.bedPolder b
    if !s.bedValid b || s.fenced p then .next s
    else
      let s := s.dropStale b tile
      let x := s.bed b
      let num := x.opened + 1
      let weight (c : Nat) : Nat := s.rf polderPage (Reg.POLD_CLASS p) (8 * c + 7) (8 * c)
      if x.forwarded + 2 < num || !x.passes.all (s.passStarted b) || (s.eligible b tile (s.waiting b)).isEmpty then .next s
      else
        let o := openLoop b tile (s.bedCfg0 b 40 34) (s.bedLast b) weight (s.bedCfg0 b 47 41) (s.waiting b)
          ⟨s, ⟨x.ptr, x.quanta⟩, [], 0⟩
        let t := o.st.setBed b { x with ptr := o.turn.ptr, quanta := o.turn.quanta }
        if o.places.isEmpty then .next t
        else
          let ws := o.places.map (fun i => (t.place b i).data)
          let bs := passBytes num t.now.toNat ws
          let q : Pass := { num := num, places := o.places, rows := o.rows, bytes := bs.length, got := [], started := [], done := 0 }
          let t := t.setBed b { t.bed b with opened := num, passes := (t.bed b).passes ++ [q] }
          .next (t.castPass b tile num bs ((ws.map (fun w => (waveHead w).cls)).foldl max 0))

/-- Every byte of a pass is visible on a member tile, and START_GATE of that tile gains 1. -/
def execPassStart (bed : BedIx) (tile : TileIx) (s : State) : Out State :=
  let b := bed.val
  let x := s.bed b
  match x.passes.find? (fun q => !q.started.contains tile.val && decide (q.bytes ≤ Store.get 0 q.got tile)) with
  | none => .next s
  | some q =>
    let s := s.setBed b { x with passes := x.passes.map (fun r => if r.num = q.num then { r with started := r.started ++ [tile.val] } else r) }
    .next (s.meshGateAdd tile (fld (s.bedReg b Reg.BED_CFG1) 9 0) 1)

/-! ### Forwarding (R246, R247, R265) -/

/-- The position after the highest one that a wavefront commits. -/
def Head.commits (h : Head) : Nat :=
  if h.kind = kTree then h.pos0 else if h.kind = kDecode then h.pos0 + 1 else h.pos0 + h.rows

/-- A wavefront passes the last bed: COMMIT_POS, and the journal's commit header. -/
def State.passLast (s : State) (h : Head) : State :=
  let s := s.setStream h.stream { s.stream h.stream with commitPos := h.commits, commitSeq := h.seq }
  s.jrnCommit h.stream true h.commits h.seq

/-- The output rows of a wavefront, read from the exit tile's output area; `row` is its first row in the pass. -/
def State.outRows (s : State) (b tile num row n : Nat) : List Byte :=
  let cfg := s.bedReg b Reg.BED_CFG3
  let area := 4096 * (if num % 2 = 0 then fld cfg 20 0 else fld cfg 41 21)
  let bytes := fld cfg 63 42
  (List.range n).flatMap (fun i => s.readPeat tile (area + (row + i) * stride64 bytes) bytes)

/-- One wavefront of a finished pass. (DEDUCED: log entry 41) -/
def State.forwardOne (s : State) (b tile num row i : Nat) : State :=
  let w := (s.place b i).data
  let h := waveHead w
  if !s.current tile h then
    let s := if s.bedLast b then s.unreserveRiddle tile h else s
    (((s.leaveLoop h.stream (decide (h.kind = kPrefill))).bump polderPage 2 1).passStep b i).freePlace b i
  else if s.bedLast b then
    let s := s.passLast h
    if s.continues h then
      match s.homeTile tile h.polder h.stream with
      | none => s.loopMiss tile
      | some home =>
        let (tag, s) := s.takeTag
        let h' : Head := { h with rstage := true, bed := b, tokens := false, fmt := fld (s.bedReg b Reg.BED_CFG2) 49 42,
                                  enq := s.now.toNat, rowBytes := fld (s.bedReg b Reg.BED_CFG3) 63 42 }
        let m : WMove := ⟨tile, tag, h'.bytes ++ waveKeys w ++ waveTree w, none, some (b, i), h.stream⟩
        let idx := ((Store.get [] s.rplaces home).find? (fun r => r.stream = h.stream && r.phase = .reserved)).map (·.index)
        ({ s with wmoves := s.wmoves ++ [m] }).sendWave m home b (idx.getD 0) true
    else
      let s := (s.leaveLoop h.stream (decide (h.kind = kPrefill))).leavePlace b i
      if h.last && !(s.stream h.stream).draft then s.endStream h.stream stPrefill else s
  else match s.nextBed b with
    | none => s.loopMiss tile
    | some c =>
      match s.slotTile tile h.polder (s.bedEntry c) with
      | none => s.loopMiss tile
      | some d =>
        let (tag, s) := s.takeTag
        let h' : Head := { h with rstage := false, bed := c, tokens := false, fmt := fld (s.bedReg b Reg.BED_CFG2) 49 42,
                                  enq := s.now.toNat, rowBytes := fld (s.bedReg b Reg.BED_CFG3) 63 42 }
        let wave := h'.bytes ++ waveKeys w ++ waveTree w ++ s.outRows b tile num row h.rows
        let m : WMove := ⟨tile, tag, wave, some c, some (b, i), h.stream⟩
        ({ s with wmoves := s.wmoves ++ [m] }).injectOr tile h.polder
          { dst := d, op := opPlaceReq, addr := c, tag := tag, operand := wave.length }

/-- The wavefronts of a pass in grant order, with the first row of each. -/
def State.forwardAll (s : State) (b tile num : Nat) : Nat → List Nat → State
  | _, [] => s
  | row, i :: r =>
    let n := (s.headAt b i).rows
    (s.forwardOne b tile num row i).forwardAll b tile num (row + n) r

/-- The exit sequencer takes the oldest open pass once DONE_GATE has reached its number. -/
def execPassForward (bed : BedIx) (s : State) : Out State :=
  let b := bed.val
  let x := s.bed b
  match x.passes.head?, s.exitTile b with
  | some q, some tile =>
    let g := fld (s.bedReg b Reg.BED_CFG1) 19 10
    if s.fenced (s.bedPolder b) || q.moving || !s.passStarted b q || !gateSatisfied (s.gate tile g) (BitVec.ofNat 32 q.num) then
      .next s
    else
      let s := s.setBed b { x with passes := x.passes.map (fun r => if r.num = q.num then { r with moving := true } else r) }
      .next (s.forwardAll b tile q.num 0 q.places)
  | _, _ => .next s

/-! ### The return to the first bed (R258) -/

/-- The token wavefront of a stream takes a normal place of the first bed, or the escape place. -/
def execTokenWavefrontMove (stream : StreamIx) (s : State) : Out State :=
  let n := stream.toNat
  let p := (s.stream n).polder
  match s.rplaces.find? (fun e => e.2.any (fun r => r.stream = n && r.phase = .leaving)), s.firstBed p with
  | some (home, l), some b =>
    match l.find? (fun r => r.stream = n && r.phase = .leaving) with
    | none => .next s
    | some r =>
      if s.fenced p || s.wmoves.any (fun m => m.fromBed.isNone && m.stream = n) then .next s
      else match s.slotTile home p (s.bedEntry b) with
        | none => .next (s.loopMiss home)
        | some d =>
          let place := match s.freeNormal b with
            | some i => some i
            | none => if (s.place b 64).used then none else some 64
          match place with
          | none => .next s
          | some i =>
            let (tag, s) := s.takeTag
            let s := (s.reserve b i home tag)
            let s := if i = 64 then s.bump polderPage 4 1 else s
            let h := waveHead r.wave
            let m : WMove := ⟨home, tag, withHead r.wave { h with rstage := false, bed := b, enq := s.now.toNat }, some b, none, n⟩
            .next (({ s with wmoves := s.wmoves ++ [m] }).sendWave m d b i false)
  | _, _ => .next s

/-! ### The bed stall watchdog (R269) -/

/-- DEDUCED: log entry 43; DESIGN CHOICE: log entry 4. -/
def execBedWatchdog (bed : BedIx) (s : State) : Out State :=
  let b := bed.val
  match s.entryTile b with
  | none => .next s
  | some tile =>
    let limit := fld (s.bedReg b Reg.BED_CFG1) 63 32
    if s.bedBusy b && !s.fenced (s.bedPolder b) && decide ((s.bed b).wdog + limit ≤ s.up) then
      let s := (s.restartDog b).setBedReg b Reg.BED_STAT (setBit (s.bedReg b Reg.BED_STAT) 15 true)
      .next (((s.raise polderPage 0).bump polderPage 5 1).report tile 3 0 0)
    else .next s

/-! ### POLD_LOOP (R256) -/

/-- What a write of POLD_LOOP does: it is refused when it would leave CREDITS above C − 1. -/
def poldLoopHook (w : WEff) (old : State) (p : Nat) : State :=
  let credits := w.st.rf polderPage (Reg.POLD_LOOP p) 15 0
  if w.mask = 0 then w.st
  else if credits ≠ 0 && w.st.capacity p ≤ credits then (w.st.keepReg old polderPage (Reg.POLD_LOOP p)).raise polderPage 1
  else w.st

def execPoldLoopWrite (who : Requester) (p : PolderIx) (v : W64) (s : State) : Out State :=
  .next (poldLoopHook (s.writeCore who polderPage (Reg.POLD_LOOP p) .b64 v) s p)

end Sys2Proof.Machine
end

