-- ==== Sys2Proof/Machine/Pool.lean ====
section
/-! DEFINITION. Gate writes, channel-slot regions, zeroing, the ageing of gathering buffers and the scrubbers (R139, R173, R174,
R177, R181, R185, R188 to R202). -/
namespace Sys2Proof.Machine

/-! ### Gates (R139, R140) -/

/-- What a write of GATE_VAL does: the selected gate takes the value. -/
def gateValHook (w : WEff) (tile : Nat) : State :=
  let s := w.st.setReg (gatePage tile) Reg.GATE_VAL 0
  if w.mask = 0 then s else s.setGate tile (s.rf (gatePage tile) Reg.GATE_IDX 9 0) (BitVec.ofNat 32 w.val.toNat)

def execGateValWrite (who : Requester) (tile : TileIx) (v : W64) (s : State) : Out State :=
  .next (gateValHook (s.writeCore who (gatePage tile) Reg.GATE_VAL .b64 v) tile)

/-! ### Zeroing and waking (R174, R181) -/

def execPoolZeroingDone (tile : TileIx) (cru : CruIx) (s : State) : Out State := .next (s.zeroed tile cru)
def execPeatZeroingDone (tile : TileIx) (layer : Fin 4) (s : State) : Out State := .next (s.zeroed tile (4 + layer))

/-- An access to a layer that is not ON asks for the layer, with the second class of R461. (DEDUCED: log entry 38) -/
def execPeatLayerWake (tile : TileIx) (layer : Fin 4) (s : State) : Out State :=
  .next (if s.boot.main && decide (s.domCode tile (4 + layer) ≠ 2) then s.domForce tile (4 + layer) 2 1 else s)

/-! ### The gathering buffer's age (R185, R205) -/

/-- GB_AGE in fabric cycles of 1 ns; 0 acts as 1. An entry whose layer is not ON waits (R181). -/
def State.gbAge (s : State) (tile : Nat) : Nat := max 1 (s.rf (peatPage tile) Reg.PEAT_CTL 39 32)

def execGbAgeFlush (tile : TileIx) (cru : CruIx) (line : BitVec 25) (s : State) : Out State :=
  .next (if (s.cru tile cru).gb.any (fun e => decide (e.line = line.toNat) && decide (e.last + s.gbAge tile ≤ s.up) && s.entryReady tile e) then
    s.gbFlushLine tile cru line.toNat else s)

/-! ### Scrubbers (R201 to R206) -/

/-- What a scrub finds: a word of a poisoned line is uncorrectable. (DESIGN CHOICE: log entry 36) -/
def scrubFinds (poisoned : Bool) (e : EccResult) : EccResult := if poisoned then .uncorrectable else e

/-- One word of a pool scrubbed; the last word of pool 3 ends a pass. (DEDUCED: log entry 35; DESIGN CHOICE: log entry 36) -/
def execPoolScrub (tile : TileIx) (cru : CruIx) (word : BitVec 22) (e : EccResult) (s : State) : Out State :=
  let pg := poolPage tile
  let off := 8 * word.toNat
  if poolSize ≤ off || !s.rb pg Reg.POOL_CTL 0 || !s.poolOn tile cru then .next s
  else
    let bad := s.poolPoisoned tile cru off 8
    let e := scrubFinds bad e
    let s1 := (s.countPool tile [(off, 8)]).poolEcc tile cru 6 off e bad true
    let s2 := if e = .uncorrectable then
        let key := poolLineKey tile cru (off / 4096)
        let t := ({ s1 with poolBad := Store.set false s1.poolBad key true }.raise pg 4).report tile 2 (1 + cru) (off / 256)
        if bad then t else t.bump pg 7 1
      else s1
    let (done, s3) := s2.scrubStep tile (cru * (poolSize / 8) + word.toNat) (4 * (poolSize / 8) - 1)
    .next (if done then s3.bump pg 6 1 else s3)

/-- One line of peat scrubbed, with what its worst word gave; the last line ends a pass. (DEDUCED: log entry 35) -/
def execPeatScrub (tile : TileIx) (word : BitVec 30) (e : EccResult) (s : State) : Out State :=
  let pg := peatPage tile
  let off := 8 * word.toNat
  if !s.rb pg Reg.PEAT_CTL 0 || !s.peatOn tile off 8 then .next s
  else
    let bad := s.peatPoisoned tile off 8
    let e := scrubFinds bad e
    let s1 := ((s.peatEcc tile 6 off e bad true).bump pg 0 1).bump pg 1 1
    let s2 := if e = .uncorrectable then
        let key := peatLineKey tile (off / 256)
        let t := ({ s1 with peatBad := Store.set false s1.peatBad key true }.raise pg 4).report tile 2 0 (off / 256)
        if bad then t else t.bump pg 9 1
      else s1
    let (done, s3) := s2.scrubStep (128 + tile) (off / 256) (peatSize / 256 - 1)
    .next (if done then s3.bump pg 8 1 else s3)

/-- R173, R177: an overdue scrub word or maintenance access is served next. The commands already come in the order in which the
engine serves them, so the promotion itself changes nothing. (DEDUCED: log entry 37) -/
def execScrubStarve (_tile : TileIx) (_cru : CruIx) (s : State) : Out State := .next s
/-- DEDUCED: log entry 37. -/
def execMaintPortStarve (_tile : TileIx) (s : State) : Out State := .next s

/-! ### Slot regions (R188 to R200) -/

/-- The memory a region lies in, and the size of that memory in 4 KiB units. -/
def regionMem (peat : Bool) (r : Nat) : Nat := if peat then 4 else r / 8
def regionUnits (peat : Bool) : Nat := if peat then peatSize / 4096 else poolSize / 4096
def regionSlots (peat : Bool) : Nat := if peat then 16384 else 1024

/-- Whether two regions of one memory share a unit. -/
def State.regionsMeet (s : State) (tile : Nat) (peat : Bool) (a b : Nat) : Bool :=
  let la := s.cregBase tile peat a / 4096
  let lb := s.cregBase tile peat b / 4096
  let na := s.cregCount tile peat a
  let nb := s.cregCount tile peat b
  regionMem peat a = regionMem peat b && decide (0 < na) && decide (0 < nb) && decide (la < lb + nb) && decide (lb < la + na)

/-- Whether the region of CREG_BASE may be enabled (R188, R189). (DEDUCED: log entry 33) -/
def State.regionFits (s : State) (tile : Nat) (peat : Bool) (r : Nat) : Bool :=
  decide (s.cregCount tile peat r ≤ regionSlots peat) &&
  decide (s.cregBase tile peat r / 4096 + s.cregCount tile peat r ≤ regionUnits peat) &&
  (List.range (if peat then 16 else 32)).all (fun q => q = r || !s.cregEn tile peat q || !s.regionsMeet tile peat r q)

/-- The state that INIT gives (R190). -/
def State.cregInit (s : State) (tile : Nat) (peat : Bool) (r : Nat) : SlotState :=
  if s.rb (cregPage tile peat) (Reg.CREG_CTL r) 1 then .full else .empty

/-- Every slot of a region set to its INIT state. -/
def State.initRegion (s : State) (tile : Nat) (peat : Bool) (r : Nat) : State :=
  (List.range (s.cregCount tile peat r)).foldl (fun (s : State) k => s.setSlot tile peat r k (s.cregInit tile peat r)) s

/-- A claim on a region that is disabled: its access ends without a transition (R199). -/
def Claim.kill (peat : Bool) (r : Nat) (c : Claim) : Claim := if c.peat = peat && c.reg = r then { c with dead := true } else c
/-- DEDUCED: log entry 34. -/
def Crucible.forget (c : Crucible) (peat : Bool) (r : Nat) : Crucible :=
  let f (w : Work) : Work := { w with claims := w.claims.map (Claim.kill peat r) }
  { c with mould := c.mould.map f, vector := c.vector.map f, attn := c.attn.map f, runner := c.runner.map f }

/-- Whether a wait is for a slot of a region. -/
def waitsIn (peat : Bool) (r : Nat) (w : Option Claim) : Bool :=
  match w with
  | none => false
  | some c => c.peat = peat && c.reg = r

/-- The accesses that wait on a slot of a region go on (R199). -/
def State.resumeRegion (s : State) (tile : TileIx) (peat : Bool) (r : Nat) : State :=
  let s := (List.finRange 4).foldl (fun (s : State) (k : CruIx) => [UnitKind.mould, .vector, .attention, .runner].foldl (fun (s : State) u =>
    match s.waitingWork tile k u with
    | none => s
    | some c => if waitsIn peat r c.w.want then s.resumeUnit tile k u else s) s) s
  ((s.probesAt tile).filter (fun q => waitsIn peat r q.want)).foldl (fun (s : State) q =>
    match (s.probesAt tile).findIdx? (fun x => x = q) with
    | none => s
    | some k => s.resumeProbe tile k) s

/-- A region disabled: claims on it end without a transition, its states are lost, and accesses that wait on it go on (R199).
(DEDUCED: log entry 34) -/
def State.forgetRegion (s : State) (tile : Nat) (peat : Bool) (r : Nat) : State :=
  let s := (List.range 4).foldl (fun (s : State) k => s.setCru tile k ((s.cru tile k).forget peat r)) s
  let moves := (Store.get [] s.rx tile).map (fun (x : RxMove) =>
    { x with claims := x.claims.map (Claim.kill peat r), todo := x.todo.map (Claim.kill peat r) })
  let s := { s with rx := Store.set [] s.rx tile moves,
                    slots := Store.keep (fun k => k < slotKey tile peat r 0 || slotKey tile peat r 16384 ≤ k) s.slots }
  if h : tile < 80 then s.resumeRegion ⟨tile, h⟩ peat r else s

/-- REGION_ERR: the register keeps what it held. -/
def State.regionErr (s old : State) (tile : Nat) (peat : Bool) (off : Nat) : State :=
  (s.keepReg old (cregPage tile peat) off).raise (cregPage tile peat) 3

/-- What a write of CREG_BASE does: refused while the region is enabled (R189). (DEDUCED: log entry 33) -/
def cregBaseHook (w : WEff) (old : State) (tile : Nat) (peat : Bool) (r : Nat) : State :=
  if w.mask ≠ 0 && old.cregEn tile peat r then w.st.regionErr old tile peat (Reg.CREG_BASE r) else w.st

/-- What a write of CREG_CTL does (R189, R190, R199). (DEDUCED: log entry 33) -/
def cregCtlHook (w : WEff) (old : State) (tile : Nat) (peat : Bool) (r : Nat) : State :=
  let off := Reg.CREG_CTL r
  let was := old.cregEn tile peat r
  let is := w.st.cregEn tile peat r
  let rest := maskOf 1 1 ||| maskOf 63 32
  if w.mask = 0 then w.st
  else if was && decide ((w.st.reg (cregPage tile peat) off ^^^ old.reg (cregPage tile peat) off) &&& rest ≠ 0) then
    w.st.regionErr old tile peat off
  else if !was && is then
    if w.st.regionFits tile peat r then w.st.initRegion tile peat r else w.st.regionErr old tile peat off
  else if was && !is then w.st.forgetRegion tile peat r
  else w.st

def execCregEnable (who : Requester) (tile : TileIx) (peat : Bool) (r : Fin 32) (v : W64) (s : State) : Out State :=
  .next (cregCtlHook (s.writeCore who (cregPage tile peat) (Reg.CREG_CTL r) .b64 (setBit v 0 true)) s tile peat r)

def execCregDisable (who : Requester) (tile : TileIx) (peat : Bool) (r : Fin 32) (v : W64) (s : State) : Out State :=
  .next (cregCtlHook (s.writeCore who (cregPage tile peat) (Reg.CREG_CTL r) .b64 (setBit v 0 false)) s tile peat r)

/-- What a write of CSLOT_STATE does (R200). -/
def cslotHook (w : WEff) (tile : Nat) (peat : Bool) : State :=
  let pg := cregPage tile peat
  let s := w.st.setReg pg Reg.CSLOT_STATE 0
  let r := s.rf pg Reg.CSLOT_SEL (if peat then 3 else 4) 0
  let n := s.rf pg Reg.CSLOT_SEL (if peat then 29 else 25) 16
  let code := fld w.val 1 0
  if w.mask = 0 || !s.cregEn tile peat r || decide (s.cregCount tile peat r ≤ n) then s
  else match s.slot tile peat r n, code with
    | .empty, 0 | .full, 0 => s.setSlot tile peat r n .empty
    | .empty, 2 | .full, 2 => s.setSlot tile peat r n .full
    | _, _ => s.raise pg 3

def execCslotStateWrite (who : Requester) (tile : TileIx) (peat : Bool) (v : W64) (s : State) : Out State :=
  .next (cslotHook (s.writeCore who (cregPage tile peat) Reg.CSLOT_STATE .b64 v) tile peat)

/-- The offsets of the POOL and PEAT pages whose writes act. -/
def cregHook (w : WEff) (old : State) (tile : Nat) (peat : Bool) : State :=
  if w.off = Reg.CSLOT_STATE then cslotHook w tile peat
  else if 0x200 ≤ w.off && w.off < 0x400 then
    let r := (w.off - 0x200) / 0x10
    if w.off % 0x10 = 8 then cregCtlHook w old tile peat r else cregBaseHook w old tile peat r
  else w.st

end Sys2Proof.Machine
end

