-- ==== Sys2Proof/Machine/Egress.lean ====
section
/-! DEFINITION. Token records on their way to a host port's token rings or to an Ethernet endpoint (R308, R413, R416, R419). -/
namespace Sys2Proof.Machine

/-! ### Queue registers (R401) -/

def kSq : Nat := 0
def kCq : Nat := 1
def kTr : Nat := 2

def State.qDyn (s : State) (p : HostPort) (kind num : Nat) : QueueDyn := Store.get {} s.queues (queueKey (portDie p) kind num 0)
def State.setQDyn (s : State) (p : HostPort) (kind num : Nat) (d : QueueDyn) : State :=
  { s with queues := Store.set {} s.queues (queueKey (portDie p) kind num 0) d }
def State.qCfg (s : State) (p : HostPort) (kind num hi lo : Nat) : Nat := fld (s.queueReg p kind num Reg.Q_CFG) hi lo
def State.qEn (s : State) (p : HostPort) (kind num : Nat) : Bool := fbit (s.queueReg p kind num Reg.Q_CFG) 24
def State.qSize (s : State) (p : HostPort) (kind num : Nat) : Nat := s.qCfg p kind num 16 0
def State.qHead (s : State) (p : HostPort) (kind num : Nat) : W32 := BitVec.ofNat 32 (fld (s.queueReg p kind num Reg.Q_STAT) 31 0)
def State.qTail (s : State) (p : HostPort) (kind num : Nat) : W32 := BitVec.ofNat 32 (fld (s.queueReg p kind num Reg.Q_STAT) 63 32)
def State.setQStat (s : State) (p : HostPort) (kind num : Nat) (head tail : W32) : State :=
  s.setQueueReg p kind num Reg.Q_STAT (word [(0, head.toNat), (32, tail.toNat)])
/-- The depth of a ring, modulo 2^32 (R395). -/
def State.qDepth (s : State) (p : HostPort) (kind num : Nat) : Nat := (s.qTail p kind num - s.qHead p kind num).toNat

/-! ### Records accepted by a port (R413, R419) -/

/-- Records in a port's egress buffer. -/
def State.buffered (s : State) (p : HostPort) : Nat := ((List.range 256).map (fun r => (s.qDyn p kTr r).fifo.length)).sum

/-- A record dropped at a token ring. -/
def State.ringLost (s : State) (p : HostPort) (r : Nat) : State :=
  let s := s.setQueueReg p kTr r Reg.Q_LOST
    (setFld (s.queueReg p kTr r Reg.Q_LOST) 31 0 ((fld (s.queueReg p kTr r Reg.Q_LOST) 31 0 + 1) % 2 ^ 32))
  let s := if s.qEn p kTr r then s.setQDyn p kTr r { s.qDyn p kTr r with stale := true } else s
  (s.bump (portPage p) 3 1).raise (portPage p) 1

/-- DEDUCED: log entry 69. -/
def State.toRing (s : State) (p : HostPort) (r : Nat) (bs : List Byte) : State :=
  if !s.qEn p kTr r || decide (16384 ≤ s.buffered p) then s.ringLost p r
  else s.setQDyn p kTr r { s.qDyn p kTr r with fifo := (s.qDyn p kTr r).fifo ++ [bs] }

/-- A record dropped at an Ethernet port (R416). -/
def State.egressDrop (s : State) (e : Nat) : State := (s.bump (ethPage e) 7 1).raise (ethPage e) 2
def State.endpointUp (s : State) (e k : Nat) : Bool :=
  s.rb (ethPage e) (Reg.EP_CFG1 k) 0 && s.rb (ethPage e) Reg.ETH_STAT 0 && s.rb (ethPage e) Reg.ETH_CTL 0
def State.egressBuf (s : State) (e k : Nat) : EgressBuf := Store.get {} s.egress (e * 16 + k)
def State.setEgress (s : State) (e k : Nat) (b : EgressBuf) : State := { s with egress := Store.set {} s.egress (e * 16 + k) b }
def State.toEthernet (s : State) (e k : Nat) (bs : List Byte) : State :=
  if s.endpointUp e k then
    let b := s.egressBuf e k
    s.setEgress e k { recs := b.recs ++ [bs], first := if b.recs.isEmpty then s.up else b.first }
  else s.egressDrop e

/-- A record handed to the stream's ring or endpoint. -/
def State.acceptRecord (s : State) (n : Nat) (bs : List Byte) : State :=
  let x := s.stream n
  if x.egress then s.toEthernet x.eport x.endpoint bs else s.toRing x.port x.tring bs

/-- A token record (R308). -/
structure TokenRec where
  pos    : Nat
  token  : Nat
  stream : Nat
  gen    : BitVec 8
  lp     : Nat
  status : Nat
  last   : Bool
  first  : Bool
  draft  : Bool
  notok  : Bool
  rseq   : Nat
  deriving DecidableEq, Repr

def TokenRec.bytes (r : TokenRec) : List Byte :=
  leBytes 4 r.pos ++ leBytes 4 r.token ++
    leBytes 8 (r.stream + r.gen.toNat * 2 ^ 12 + r.lp * 2 ^ 20 + r.status * 2 ^ 36 + b2n r.last * 2 ^ 44 + b2n r.first * 2 ^ 45 +
      b2n r.draft * 2 ^ 46 + b2n r.notok * 2 ^ 47 + r.rseq % 2 ^ 16 * 2 ^ 48)

end Sys2Proof.Machine
end

