-- ==== Sys2Proof/Machine/Riddle.lean ====
section
/-! DEFINITION. The riddle: hand-off parts, masks and grammars, selection, emission, tree verification and draft trees (chapter 8,
R263 to R265). -/
namespace Sys2Proof.Machine

/-! ### Riddle records (R282, R283) -/

/-- The fields of a stream's riddle record. -/
structure RRec where
  seed    : W64
  temp    : W32
  tinv    : W32
  topP    : W32
  rep     : W32
  rinv    : W32
  pres    : W32
  freq    : W32
  topK    : Nat
  penWin  : Nat
  allow   : Nat
  deny    : Nat
  grammar : Nat
  gramEn  : Bool
  noEos   : Bool
  ngram   : Bool
  gstate  : Nat
  stopLen : List Nat
  histN   : Nat
  histHead : Nat
  deriving DecidableEq, Repr

def w32 (n : Nat) : W32 := BitVec.ofNat 32 n

def RRec.ofBytes (b : List Byte) : RRec :=
  let w (i : Nat) : Nat := leAt b (8 * i) 8
  let k := bits (w 4) 40 32
  ⟨BitVec.ofNat 64 (w 0), w32 (w 1), w32 (w 1 / 2 ^ 32), w32 (w 2), w32 (w 2 / 2 ^ 32), w32 (w 3), w32 (w 3 / 2 ^ 32), w32 (w 4),
   if k = 0 || 256 < k then 256 else k, min 256 (bits (w 4) 49 41), bits (w 5) 7 0, bits (w 5) 15 8, bits (w 5) 21 16, bit (w 5) 22, bit (w 5) 23,
   bit (w 5) 24, bits (w 5) 63 40, (List.range 8).map (fun k => bits (w 6) (5 * k + 4) (5 * k)), bits (w 7) 8 0, bits (w 7) 23 16⟩

/-- Whether a stream's record lies in peat (R311). -/
def State.recordFits (s : State) (tile n : Nat) : Bool := decide (s.recordAt tile n + 2048 ≤ peatSize)
/-- DESIGN CHOICE: log entry 44. -/
def State.rrec (s : State) (tile n : Nat) : RRec := RRec.ofBytes (s.readPeat tile (s.recordAt tile n) 64)

/-- HIST of a stream, oldest first. -/
def State.hist (s : State) (tile n : Nat) : List Nat :=
  let r := s.rrec tile n
  (List.range (min 256 r.histN)).map (fun i =>
    leNat (s.readPeat tile (s.recordAt tile n + 1024 + 4 * ((r.histHead + 256 - min 256 r.histN + i) % 256)) 4))

/-- A token appended to HIST, and a new GSTATE. -/
def State.noteToken (s : State) (tile n tok gstate : Nat) : State :=
  let r := s.rrec tile n
  let a := s.recordAt tile n
  let s := s.writePeat tile (a + 1024 + 4 * (r.histHead % 256)) (leBytes 4 tok)
  let s := s.writePeat tile (a + 56) (leBytes 8 (min 256 (r.histN + 1) + (r.histHead + 1) % 256 * 2 ^ 16))
  s.writePeat tile (a + 45) (leBytes 3 gstate)

/-- Token i of stop sequence k. -/
def State.stopTok (s : State) (tile n k i : Nat) : Nat := leNat (s.readPeat tile (s.recordAt tile n + 64 + 64 * k + 4 * i) 4)

/-! ### Masks (R284, R285, R311) -/

/-- A range entry: (LO, HI, NEXT). -/
def rangeEnt (w : Nat) : Nat × Nat × Nat := (bits w 17 0, bits w 35 18, bits w 59 36)
def State.rangeAt (s : State) (tile off i : Nat) : Nat × Nat × Nat := rangeEnt (leNat (s.readPeat tile (off + 8 * i) 8))

/-- Whether a token lies in a mask; none for a mask that allows nothing under any name. (DEDUCED: log entry 48) -/
def State.inMask (s : State) (tile id t : Nat) : Option Bool :=
  let pg := riddlePage tile
  let a := s.rf pg Reg.MASK_BASE 32 0 + 16 * id
  if s.rf pg Reg.RID_MASK_CTL 8 0 ≤ id || peatSize < a + 16 then none
  else
    let e := s.readPeat tile a 16
    let len := leAt e 4 4
    let off := bits (leAt e 8 8) 32 0
    if bit (leAt e 0 4) 0 then
      if peatSize < off + 8 * len then none
      else some ((List.range len).any (fun i => let r := s.rangeAt tile off i; decide (r.1 ≤ t) && decide (t ≤ r.2.1)))
    else if peatSize < off + ceilDiv len 8 then none
    else some (decide (t < len) && bit (leNat (s.readPeat tile (off + t / 8) 1)) (t % 8))

/-! ### Grammars (R286 to R288) -/

/-- A grammar state: its kind, FINAL, DEFAULT_NEXT, and where its list and bitmap lie in peat. -/
structure GState where
  kind  : Nat
  final : Bool
  dflt  : Nat
  count : Nat
  list  : Nat
  map   : Nat
  deriving DecidableEq, Repr

def State.gramBase (s : State) (tile g : Nat) : Nat := s.rf (riddlePage tile) (Reg.GRAM_BASE g) 32 0
def State.gramStates (s : State) (tile g : Nat) : Nat := leNat (s.readPeat tile (s.gramBase tile g) 3)
def State.gramStart (s : State) (tile g : Nat) : Nat := leNat (s.readPeat tile (s.gramBase tile g + 3) 3)
def State.gramEntry (s : State) (tile g n : Nat) : Nat :=
  s.gramBase tile g + leNat (s.readPeat tile (s.gramBase tile g + 8) 8) + 16 * n
def State.gramState (s : State) (tile g n : Nat) : GState :=
  let e := s.readPeat tile (s.gramEntry tile g n) 16
  let w0 := leAt e 0 4
  ⟨bits w0 1 0, bit w0 2, bits w0 31 8, leAt e 4 4, s.gramBase tile g + leAt e 8 4, s.gramBase tile g + leAt e 12 4⟩

/-- Ranges in ascending, non-overlapping order with LO ≤ HI. -/
def rangesOk : Option Nat → List (Nat × Nat × Nat) → Bool
  | _, [] => true
  | prev, (lo, hi, _) :: r => decide (lo ≤ hi) && (match prev with | none => true | some p => decide (p < lo)) && rangesOk (some hi) r

/-- Whether a state is bad (R288). -/
def State.gramBad (s : State) (tile g n : Nat) : Bool :=
  let ns := s.gramStates tile g
  let e := s.gramState tile g n
  let l := (List.range e.count).map (s.rangeAt tile e.list)
  if peatSize < s.gramBase tile g + 16 || ns ≤ n || peatSize < s.gramEntry tile g n + 16 then true
  else if 2 ≤ e.kind then false
  else peatSize < e.list + 8 * e.count || !rangesOk none l || l.any (fun r => ns ≤ r.2.2) ||
    (e.kind = 1 && (ns ≤ e.dflt || peatSize < e.map + ceilDiv (s.rf (riddlePage tile) Reg.RID_VOCAB 18 0) 8))

/-- The next state of an allowed token in a grammar state; none when the token is not allowed (R287). -/
def State.gramNext (s : State) (tile g n t : Nat) : Option Nat :=
  if !s.rb (riddlePage tile) (Reg.GRAM_CTL g) 0 || s.gramBad tile g n then none
  else
    let e := s.gramState tile g n
    let hit := ((List.range e.count).map (s.rangeAt tile e.list)).find? (fun r => decide (r.1 ≤ t) && decide (t ≤ r.2.1))
    if e.kind = 0 then hit.map (·.2.2)
    else if e.kind = 1 then
      if bit (leNat (s.readPeat tile (e.map + t / 8) 1)) (t % 8) then some ((hit.map (·.2.2)).getD e.dflt) else none
    else none

/-- Whether a token is allowed for a row whose grammar state is given (R285). -/
def State.allowed (s : State) (tile : Nat) (r : RRec) (gs t : Nat) : Bool :=
  decide (t < s.rf (riddlePage tile) Reg.RID_VOCAB 18 0) &&
  (r.allow = 0xFF || s.inMask tile r.allow t = some true) &&
  (r.deny = 0xFF || s.inMask tile r.deny t = some false) &&
  (!r.gramEn || (s.gramNext tile r.grammar gs t).isSome)

/-! ### Arithmetic of R292 to R294 -/

def sub32 (a b : W32) : W32 := (fp32Add a (b ^^^ 0x80000000)).1
def add32 (a b : W32) : W32 := (fp32Add a b).1
def mul32 (a b : W32) : W32 := (fp32Mul a b).1
def ofCount (c : Nat) : W32 := (Val.fin false c 0).toF32.1
/-- r × 2^-24 for a 24-bit draw. -/
def unit24 (r : Nat) : W32 := (Val.fin false r (-24)).toF32.1
def pos32 (a : W32) : Bool := belowVal 0 a
def one32 : W32 := 0x3F800000

/-- The adjusted logit y of an allowed token (R292); `tinv` is none under greedy decoding. -/
def adjust (r : RRec) (tinv : Option W32) (hist : List Nat) (t : Nat) (z : W32) : W32 :=
  let x := fp32Min z 0x7F7FFFFF
  let c := ((hist.drop (hist.length - r.penWin)).filter (· = t)).length
  let x := if 0 < c then
      let x := if pos32 x then mul32 x r.rinv else mul32 x r.rep
      sub32 (sub32 x r.pres) (mul32 r.freq (ofCount c))
    else x
  match tinv with
  | none => x
  | some ti => mul32 x ti

/-- What a row comes to: its candidates, m and Z, NaN logits met, tokens that more than one part covers, and whether the row's grammar
state was bad. -/
structure RowSel where
  cand     : List Tok
  m        : W32
  z        : W32
  nans     : Nat
  overlaps : Nat
  bad      : Bool
  deriving DecidableEq, Repr

/-- Tokens of a row that a part covers after one of lower PART. -/
def overlapsOf : List PartRow → List PartRow → Nat
  | _, [] => 0
  | before, q :: r =>
    ((List.range q.width).filter (fun i => before.any (fun b => b.covers (q.first + i)))).length + overlapsOf (before ++ [q]) r

/-- A row put together from what the place keeps of it: the candidate list, and the pairs of the parts in PART order (R292). -/
def selectRow (rows : List PartRow) (cands : List RowCand) : RowSel :=
  let mz := rows.filterMap (·.mz)
  let m := rowMax (mz.map (·.1))
  let z := (pairwise (mz.map (fun x => mul32 x.2 (exp32 (sub32 x.1 m)).1))).1
  ⟨((cands.map (·.toks)).foldl topToks []).map (·.2), m, z, (rows.map (·.nans)).sum, overlapsOf [] rows, rows.any (·.bad)⟩

/-- A weighted token of a support. -/
structure WTok where
  tok : Tok
  w   : W32
  deriving DecidableEq, Repr

/-- The running sums of a list of values, one rounding each. -/
def runSums : W32 → List W32 → List W32
  | _, [] => []
  | a, x :: r => add32 a x :: runSums (add32 a x) r
def sumSeq (l : List W32) : W32 := (runSums 0 l).getLastD 0

/-- The support of R293, steps 1 and 2. (DEDUCED: log entry 46) -/
def support (r : RRec) (x : RowSel) : List WTok :=
  let s1 := (x.cand.take r.topK).map (fun t => WTok.mk t (exp32 (sub32 t.y x.m)).1)
  if belowVal 0 r.topP && belowVal r.topP one32 then
    let q := s1.map (fun e => mul32 e.w (recip32 x.z).1)
    match (runSums 0 q).findIdx? (fun a => !belowVal a r.topP) with
    | some i => s1.take (i + 1)
    | none => s1
  else s1

/-- The token of R293 step 4. -/
def sampleTok (sup : List WTok) (total : W32) (draw : Nat) : Option Tok :=
  let target := mul32 total (unit24 draw)
  match (runSums 0 (sup.map (·.w))).findIdx? (fun a => belowVal target a) with
  | some i => (sup[i]?).map (·.tok)
  | none => sup.getLast?.map (·.tok)

/-- The log-probability of R294 in BF16. -/
def logProb (x : RowSel) (t : Tok) : Nat :=
  let a := sub32 t.y x.m
  let b := mul32 (log2_32 x.z).1 0x3F317218
  ((Val.ofF32 (sub32 a b)).toBf16 .rne).1.toNat

/-! ### Rows of a wavefront (R278, R283, R301) -/

/-- The rows of the parts that match a wavefront row, in PART order. -/
def insertPart (x : PartRec) : List PartRec → List PartRec
  | [] => [x]
  | y :: r => if x.part < y.part then x :: y :: r else y :: insertPart x r
def rowParts (parts : List PartRec) (sel : PartRow → Bool) : List PartRow :=
  (parts.foldl (fun acc x => insertPart x acc) []).flatMap (fun p => p.rows.filter sel)

/-- A wavefront at the riddle, ready to be worked on. -/
structure RCtx where
  tile   : Nat
  n      : Nat
  place  : RPlace
  head   : Head
  nodes  : List Node
  record : RRec
  hist   : List Nat
  fits   : Bool
  draft  : Bool

def State.rctx (s : State) (tile : Nat) (r : RPlace) : RCtx :=
  let h := waveHead r.wave
  ⟨tile, r.stream, r, h, treeNodes (waveTree r.wave) h.rows, s.rrec tile r.stream, s.hist tile r.stream,
   s.recordFits tile r.stream && s.placeFits tile r.index, (s.stream r.stream).draft⟩

/-- The grammar state of a node's row: from its parent's row by the node's token; none when that token is not allowed there. -/
def State.nodeState (s : State) (c : RCtx) : Nat → Nat → Option Nat
  | 0, _ => some c.record.gstate
  | f + 1, i =>
    if i = 0 then some c.record.gstate
    else match c.nodes[i]? with
      | none => none
      | some x => match s.nodeState c f x.parent with
        | none => none
        | some g => if c.record.gramEn then s.gramNext c.tile c.record.grammar g x.token else some g

/-- The history of a node's row. -/
def RCtx.rowHist (c : RCtx) (i : Nat) : List Nat :=
  c.hist ++ ((nodePath c.nodes 64 i).drop 1).map (fun k => (c.nodes[k]?.map (·.token)).getD 0)

/-- The row of node i (0 for a DECODE row), or of the last prompt position, as R292 leaves it. -/
def RCtx.rowSel (c : RCtx) (i pos : Nat) : RowSel :=
  let sel (p n : Nat) : Bool := if c.head.kind = kTree then n = i else p = pos
  selectRow (rowParts c.place.parts (fun q => sel q.pos q.node)) (c.place.cands.filter (fun q => sel q.pos q.node))

/-! ### Events (R288, R292, R294, R310, R312) -/

def State.ridLast (s : State) (c : RCtx) (cause pos : Nat) : State :=
  s.setReg (riddlePage c.tile) Reg.RID_LAST (word [(0, c.n), (12, c.head.gen.toNat), (20, cause), (32, pos)])

/-- What a selecting or frontier row leaves on the RIDDLE page: bad grammar states, NaN logits and overlaps. -/
def State.noteRow (s : State) (c : RCtx) (pos : Nat) (x : RowSel) : State :=
  let pg := riddlePage c.tile
  let s := if x.bad then ((s.bump pg 8 1).raise pg 1).ridLast c 2 pos else s
  let s := if x.nans ≠ 0 then ((s.bump pg 9 x.nans).raise pg 5).ridLast c 5 pos else s
  s.bump pg 4 x.overlaps

/-! ### Emission (R295 to R300, R308, R357, R358) -/

/-- A token to emit: its id and log-probability, its position, and whether it is an accepted node. -/
structure Emit where
  id    : Nat
  lp    : Nat
  pos   : Nat
  draft : Bool
  deriving DecidableEq, Repr

/-- The status with which a token ends its stream, if it does (R296). -/
def State.endsWith (s : State) (tile n : Nat) (e : Emit) (gnext : Nat) : Option Nat :=
  let pg := riddlePage tile
  let r := s.rrec tile n
  let x := s.stream n
  let said := (s.hist tile n).drop ((s.hist tile n).length - min 15 x.emitted) ++ [e.id]
  let eos := (List.range 8).any (fun k => s.rb pg (Reg.EOS k) 31 && decide (s.rf pg (Reg.EOS k) 17 0 = e.id))
  let stop (k : Nat) : Bool :=
    let m := min 16 (r.stopLen.getD k 0)
    decide (0 < m) && decide (m ≤ said.length) &&
      said.drop (said.length - m) = (List.range m).map (fun i => s.stopTok tile n k i)
  if eos && !r.noEos then some stEos
  else if (List.range 8).any stop then some stStop
  else if r.gramEn && (s.gramState tile r.grammar gnext).final then some stGrammar
  else if x.emitted + 1 = x.maxTokens then some stMax
  else if e.pos + 1 = x.posLimit then some stLength
  else none

/-- Whether the journal may take the record with count k (R358): it overwrites none of the last 256 before COMMIT_POS. -/
def State.jrnRoom (s : State) (n k : Nat) : Bool :=
  let x := s.stream n
  !s.jrnOn || decide (k ≤ s.jrnRing) || decide (k - s.jrnRing + 256 + x.promptLen < x.commitPos + 1)

/-- A record written to the journal and handed to the port; the stream's counters follow. The emission header is written only while every
record that it counts has been acknowledged (R357). -/
def State.emitRec (s : State) (tile n : Nat) (r : TokenRec) (gstate : Nat) : State :=
  let (ok, s) := s.jrnPut (s.jrnEntry n r.rseq) r.bytes
  let s := (s.acceptRecord n r.bytes).bump (riddlePage tile) 0 1
  let x := s.stream n
  let s := s.setStream n { x with emitted := x.emitted + 1, lastTs := s.now, st := if x.st = .prefill then .decode else x.st,
                                  unsent := if r.notok then x.unsent else x.unsent ++ [r.token], jrnGap := x.jrnGap || !ok }
  let s := if r.notok then s else s.noteToken tile n r.token gstate
  if x.jrnGap || !ok then s else s.jrnEmission n (x.emitted + 1) gstate

/-- Tokens emitted in order until one ends the stream. True when the stream goes on. -/
def State.emitAll (s : State) (tile n : Nat) : List Emit → Bool × State
  | [] => (true, s)
  | e :: r =>
    let x := s.stream n
    let rec_ := s.rrec tile n
    let g := if rec_.gramEn then (s.gramNext tile rec_.grammar rec_.gstate e.id).getD rec_.gstate else rec_.gstate
    if !s.jrnRoom n (x.emitted + 1) then (false, s.endStream n stFault)
    else
      let stop := s.endsWith tile n e g
      let t : TokenRec := ⟨e.pos, e.id, n, x.gen, e.lp, stop.getD 0, stop.isSome, decide (x.emitted = 0), e.draft, false, x.emitted + 1⟩
      let s := s.emitRec tile n t g
      match stop with
      | some st => (false, s.endStream n st)
      | none => s.emitAll tile n r

/-- The record of a row without an allowed token (R300); where the journal has no room for it, the stream ends with FAULT (R358). -/
def State.emitNone (s : State) (c : RCtx) (pos : Nat) : State :=
  let x := s.stream c.n
  let t : TokenRec := ⟨pos, 0xFFFFFFFF, c.n, x.gen, 0xFF80, stNoToken, true, decide (x.emitted = 0), false, true, x.emitted + 1⟩
  if !s.jrnRoom c.n (x.emitted + 1) then s.endStream c.n stFault
  else
    let s := s.emitRec c.tile c.n t c.record.gstate
    let s := ((s.raise (riddlePage c.tile) 0).bump (riddlePage c.tile) 7 1).ridLast c 1 pos
    s.endStream c.n stNoToken

/-! ### Tree verification (R302) -/

/-- A step of the walk: the row, its remaining support and weight, the nodes accepted with their log-probabilities. -/
structure Walk where
  cur  : Nat
  path : List Nat
  sup  : List WTok
  w    : W32
  lps  : List Nat
  deriving DecidableEq, Repr

/-- The children of a node tried in ascending order under sampling: the accepted child, and what is left of the support. -/
def tryChildren (c : RCtx) (cur : Nat) : List Nat → List WTok → W32 → Option Nat × List WTok × W32
  | [], sup, w => (none, sup, w)
  | d :: r, sup, w =>
    match c.nodes[d]? with
    | none => tryChildren c cur r sup w
    | some x => match sup.find? (fun e => e.tok.id = x.token) with
      | none => tryChildren c cur r sup w
      | some e =>
        let draw := draw24 c.record.seed ⟨2, c.n, c.head.gen.toNat, d, 0, c.head.pos0 + x.depth, 0⟩
        if belowVal (mul32 w (unit24 draw)) e.w then (some d, sup, w)
        else tryChildren c cur r (sup.filter (fun y => y.tok.id ≠ x.token)) (sub32 w e.w)

def children (c : RCtx) (cur : Nat) : List Nat :=
  if c.head.kind = kTree then
    (List.range c.nodes.length).filter (fun d => d ≠ 0 && (c.nodes[d]?.map (·.parent)) = some cur)
  else []

def RCtx.greedy (c : RCtx) : Bool := (Val.ofF32 c.record.temp).isZero && !(Val.ofF32 c.record.temp).isNeg
/-- The factor of y: none under greedy decoding (R292); a draft stream uses temperature 1 where TEMP is +0.0 (R305). -/
def RCtx.tinv (c : RCtx) : Option W32 :=
  if !c.greedy then some c.record.tinv else if c.draft then some one32 else none

/-- The position of the row of a node. -/
def RCtx.nodePos (c : RCtx) (i : Nat) : Nat := c.head.pos0 + (if c.head.kind = kTree then (c.nodes[i]?.map (·.depth)).getD 0 else 0)

/-- The walk from a row; `f` bounds its length. -/
def walkFrom (c : RCtx) (sel : Nat → RowSel) : Nat → Walk → Walk
  | 0, w => w
  | f + 1, w =>
    let x := sel w.cur
    let sup := support c.record x
    let total := sumSeq (sup.map (·.w))
    let (next, sup, total) :=
      if c.greedy then
        ((children c w.cur).find? (fun d => (c.nodes[d]?.map (·.token)) = x.cand.head?.map (·.id)), sup, total)
      else tryChildren c w.cur (children c w.cur) sup total
    match next with
    | none => { w with sup := sup, w := total }
    | some d =>
      let lp := match x.cand.find? (fun t => (c.nodes[d]?.map (·.token)) = some t.id) with | some t => logProb x t | none => 0
      walkFrom c sel f ⟨d, w.path ++ [d], [], 0, w.lps ++ [lp]⟩

/-- The token selected from the last row of the walk. -/
def RCtx.choose (c : RCtx) (x : RowSel) (w : Walk) (pos : Nat) : Option Tok :=
  if c.greedy then x.cand.head?
  else sampleTok w.sup w.w (draw24 c.record.seed ⟨1, c.n, c.head.gen.toNat, if c.head.kind = kTree then w.cur else 0, 0, pos, 0⟩)

/-! ### The next token wavefront (R255, R264, R303, R307) -/

/-- A token wavefront for the first bed: a single root, or a tree. -/
def tokenWave (h : Head) (pos root : Nat) (commit : List Nat) (tree : Option (List Node × List (List Nat))) : List Byte :=
  let base : Head := { h with rstage := false, last := false, tokens := true, fmt := 0, pos0 := pos, rowBytes := 4,
                              commitN := min 16 commit.length, accept := (commit.take 16).map (BitVec.ofNat 8) }
  match tree with
  | none =>
    let h' : Head := { base with kind := kDecode, rows := 1 }
    h'.bytes ++ keyBytes pos h.stream h.gen 0 ++ leBytes 4 root
  | some (l, rows) =>
    let h' : Head := { base with kind := kTree, rows := l.length }
    h'.bytes ++ ((List.range l.length).flatMap (fun i => keyBytes (pos + (l[i]?.map (·.depth)).getD 0) h.stream h.gen i)) ++
      treeBytes l rows ++ l.flatMap (fun x => leBytes 4 x.token)

/-- A tree trimmed to the stream's limits (R263): the dropped nodes leave, the others are renumbered in order. -/
def trimTree (l : List Node) (rows : List (List Nat)) (pos posLimit nodes depth : Nat) : List Node × List (List Nat) :=
  let keep := treeKept l pos posLimit nodes depth
  let old := (List.range l.length).filter (fun i => keep.getD i false)
  let new (i : Nat) : Nat := (old.findIdx? (· = i)).getD 0
  (old.filterMap (fun i => l[i]?.map (fun x => { x with parent := new x.parent })),
   old.map (fun i => ((rows.getD i []).filter (fun j => keep.getD j false)).map new))

/-- The mask rows of a tree section, as lists of admitted nodes. (DEDUCED: log entry 45) -/
def maskRows (t : List Byte) (n : Nat) : List (List Nat) :=
  (List.range n).map (fun i => let w := leAt t (8 * i) 8; (List.range 64).filter (fun j => bit w j))

def State.setPlaceR (s : State) (tile : Nat) (r : RPlace) : State :=
  { s with rplaces := Store.upd [] s.rplaces tile (fun l => l.map (fun q => if q.index = r.index then r else q)) }

/-- A chain that the n-gram proposer finds: the tokens that followed the last earlier occurrence of the run (R307). -/
def ngramChain (hist : List Nat) (n len : Nat) : List Nat :=
  let run := hist.drop (hist.length - n)
  if n = 0 || hist.length < n then []
  else match ((List.range (hist.length - n)).reverse).find? (fun i => (hist.drop i).take n = run) with
    | none => []
    | some i => (hist.drop (i + n)).take len

/-- The chain as a tree of nodes, each the child of the one before. -/
def chainTree (root : Nat) (l : List Nat) : List Node :=
  ⟨root, 0, 0, 0x3F80⟩ :: (List.range l.length).map (fun i => ⟨l.getD i 0, i, i + 1, 0x3F80⟩)

/-- Whether a stream obtains trees from a draft stream (R264). (DEDUCED: log entry 45) -/
def State.coupled (s : State) (n : Nat) : Bool :=
  let x := s.stream n
  x.linked && !x.draft && decide (2 ≤ x.treeNodes) && (s.draftPolder x.polder).isSome

/-- OPERAND of a DRAFT_REQ: the draft stream, its generation, committed tokens, accepted nodes, root position.
(DESIGN CHOICE: log entry 27) -/
def draftOperand (n : Nat) (g : BitVec 8) (m commit pos : Nat) : Nat :=
  n + g.toNat * 2 ^ 12 + m * 2 ^ 20 + commit * 2 ^ 27 + pos * 2 ^ 32

/-- A draft request sent to the first bed of the draft polder (R264 step 1). -/
def State.sendDraft (s : State) (tile n pos root : Nat) (commit : List Nat) : State :=
  let x := s.stream n
  let y := s.stream x.link
  let past := x.unsent.dropLast
  if 64 < past.length then
    ((s.setStream n { x with treeNodes := 0 }).bump streamPage 4 1).raise streamPage 2
  else match s.firstBed y.polder with
    | none => s
    | some b => match s.slotTile tile y.polder (s.bedEntry b) with
      | none => s.loopMiss tile
      | some d =>
        let s := s.setStream n { x with draftOut := true, unsent := [] }
        s.injectOr tile x.polder
          { dst := d, op := opDraftReq, addr := n, operand := draftOperand x.link y.gen past.length commit.length pos, tclass := x.cls,
            payload := past.flatMap (leBytes 4) ++ leBytes 4 root ++ padTo 16 ((commit.take 16).map (BitVec.ofNat 8)) }

/-- The next token wavefront is formed in its riddle place. (DEDUCED: log entry 45) -/
def State.formNext (s : State) (c : RCtx) (pos root : Nat) (commit : List Nat) : State :=
  let x := s.stream c.n
  let put (wave : List Byte) (ph : RPhase) (s : State) : State :=
    s.setPlaceR c.tile { c.place with wave := wave, parts := [], cands := [], phase := ph, since := s.up }
  if s.coupled c.n then
    let t := if x.draftOut then s else s.sendDraft c.tile c.n pos root commit
    put (tokenWave c.head pos root commit none) (if t.coupled c.n then .draftWait else .leaving) t
  else
    let pg := riddlePage c.tile
    let n := max 1 (s.rf pg Reg.NGRAM_CTL 2 0)
    let len := s.rf pg Reg.NGRAM_CTL 7 4
    let chain := if c.record.ngram && (s.draftPolder x.polder).isNone then ngramChain (s.hist c.tile c.n) n len else []
    let l := chainTree root chain
    let (l, rows) := trimTree l ((List.range l.length).map (treeRow l)) pos x.posLimit x.treeNodes x.treeDepth
    if l.length ≤ 1 then put (tokenWave c.head pos root commit none) .leaving s
    else put (tokenWave c.head pos root commit (some (l, rows))) .leaving ((s.bump pg 10 1).bump polderPage 6 1)

/-! ### Draft trees (R304 to R306) -/

/-- A child that a frontier row proposes. -/
structure Prop_ where
  parent : Nat
  token  : Nat
  q      : W32
  path   : W32
  deriving DecidableEq, Repr

def Prop_.before (a b : Prop_) : Bool :=
  belowVal b.path a.path || (!belowVal a.path b.path && (decide (a.parent < b.parent) || (a.parent = b.parent && decide (a.token < b.token))))
def insertProp (x : Prop_) : List Prop_ → List Prop_
  | [] => [x]
  | y :: r => if x.before y then x :: y :: r else y :: insertProp x r

/-- The candidates chosen, in order, and then by parent for their node numbers. -/
def chooseLevel (l : List Prop_) (levelMax room : Nat) (floor : W32) : List Prop_ :=
  let ranked := l.foldl (fun acc x => insertProp x acc) []
  let picked := ((ranked.take levelMax).take room).takeWhile (fun x => !belowVal x.path floor)
  (List.range 64).flatMap (fun p => picked.filter (fun x => x.parent = p))

/-- A finished tree goes to the target's home riddle, which the target polder's RID_LIST names, and the draft wavefront leaves its loop
(R264 step 3, R275, R310). -/
def State.deliverTree (s : State) (c : RCtx) (l : List Node) : State :=
  let x := s.stream c.n
  let t := s.stream x.link
  let h : Head := { c.head with stream := x.link, gen := t.gen, polder := t.polder, kind := kTree, rows := l.length }
  let s := (s.freeRiddle c.tile c.place).leaveLoop c.n false
  let s := s.setStream c.n { s.stream c.n with paths := [], frontier := 0 }
  let home := ((s.polderTiles t.polder).head?.bind (fun i => s.homeSlot i x.link)).bind (fun k => s.slotTile c.tile t.polder k)
  match home with
  | none => s.loopMiss c.tile
  | some d =>
    s.injectOr c.tile x.polder
      { dst := d, op := opDraftTree, addr := x.link, tclass := x.cls,
        payload := h.bytes ++ treeBytes l ((List.range l.length).map (treeRow l)) }

/-- One level of a draft tree from the rows of the pass. (DEDUCED: log entry 45) -/
def State.draftLevel (s : State) (c : RCtx) : State :=
  let pg := riddlePage c.tile
  let x := s.stream c.n
  let t := s.stream x.link
  let width := max 1 (s.rf pg Reg.DRAFT_CTL 3 0)
  let levelMax := max 1 (s.rf pg Reg.DRAFT_CTL 10 4)
  let floor := w32 (s.rf pg Reg.DRAFT_CTL 31 16 * 2 ^ 16)
  let paths := if x.frontier = 0 then [one32] else x.paths
  let frontier := (List.range c.nodes.length).drop x.frontier
  let sels := frontier.map (fun i => (i, c.rowSel i (c.nodePos i)))
  let props := sels.flatMap (fun e => (e.2.cand.take (min 8 width)).map (fun k =>
    let q := mul32 (exp32 (sub32 k.y e.2.m)).1 (recip32 e.2.z).1
    (⟨e.1, k.id, q, mul32 (paths.getD e.1 0) q⟩ : Prop_)))
  let new := chooseLevel props levelMax (t.treeNodes - c.nodes.length) floor
  let l := c.nodes ++ new.map (fun p =>
    ⟨p.token, p.parent, (c.nodes[p.parent]?.map (·.depth)).getD 0 + 1, ((Val.ofF32 p.q).toBf16 .rne).1.toNat⟩)
  let depth := (l.getLast?.map (·.depth)).getD 0
  let s := sels.foldl (fun (s : State) e => let pos := c.nodePos e.1
                                            s.noteRow c pos e.2) s
  let s := s.bump pg 11 1
  if new.isEmpty || t.treeNodes ≤ l.length || t.treeDepth ≤ depth + 1 then s.deliverTree c l
  else
    let s := s.setStream c.n { s.stream c.n with paths := paths ++ new.map (·.path), frontier := c.nodes.length }
    (s.bump polderPage 6 1).setPlaceR c.tile { c.place with
      wave := tokenWave { c.head with commitN := 0 } c.head.pos0 0 [] (some (l, (List.range l.length).map (treeRow l))),
      parts := [], cands := [], phase := .leaving, since := s.up }

/-! ### Selection (R278, R281, R292 to R303) -/

/-- Whether a place has its wavefront and every part of it. -/
def RPlace.complete (r : RPlace) : Bool :=
  r.phase = .gathering && (match r.parts.head? with | some p => decide (p.parts < r.parts.length) | none => false)

/-- Alignment of the record and place tables (R311). -/
def State.ridAligned (s : State) (tile : Nat) : Bool :=
  s.rf (riddlePage tile) Reg.RST_BASE 32 0 % 2048 = 0 && s.rf (riddlePage tile) Reg.PLACE_BASE 32 0 % 4096 = 0

/-- The riddle place of a stream in a phase, with its tile. -/
def State.ridPlace (s : State) (n : Nat) (ph : RPhase) : Option (Nat × RPlace) :=
  s.rplaces.findSome? (fun e => (e.2.find? (fun r => r.stream = n && r.phase = ph)).map (fun r => (e.1, r)))

/-- The end of a wavefront at the riddle. -/
def State.ridLeave (s : State) (c : RCtx) : State := (s.freeRiddle c.tile c.place).leaveLoop c.n (decide (c.head.kind = kPrefill))

/-- The wavefront of a stream that emits tokens. (DEDUCED: log entry 46) -/
def State.ridSelect (s : State) (c : RCtx) : State :=
  let x := s.stream c.n
  let rowPos := if c.head.kind = kPrefill then x.limit - 1 else c.head.pos0
  let pos (i : Nat) : Nat := if c.head.kind = kTree then c.nodePos i else rowPos
  let rows := if c.head.kind = kTree then List.range c.nodes.length else [0]
  let sels := rows.map (fun i => c.rowSel i (pos i))
  let sel (i : Nat) : RowSel := sels.getD i ⟨[], negInf32, 0, 0, 0, false⟩
  let s := rows.foldl (fun (s : State) i => (s.noteRow c (pos i) (sel i)).bump (riddlePage c.tile) 1 1) s
  let w := walkFrom c sel 64 ⟨0, [0], [], 0, []⟩
  let pg := riddlePage c.tile
  let s := if c.head.kind = kTree then (s.bump pg 5 1).bump pg 6 (w.path.length - 1) else s
  let accepted := (List.range (w.path.length - 1)).map (fun i =>
    let d := w.path.getD (i + 1) 0
    Emit.mk ((c.nodes[d]?.map (·.token)).getD 0) (w.lps.getD i 0) (pos d) true)
  let newPos := pos 0 + w.path.length
  let x := sel w.cur
  let commit := if c.head.kind = kTree then w.path else []
  match c.choose x w newPos with
  | none =>
    match s.emitAll c.tile c.n accepted with
    | (false, t) => t.ridLeave c
    | (true, t) => (t.emitNone c newPos).ridLeave c
  | some k =>
    match s.emitAll c.tile c.n (accepted ++ [⟨k.id, logProb x k, newPos, false⟩]) with
    | (false, t) => t.ridLeave c
    | (true, t) =>
      let t := t.setStream c.n { t.stream c.n with
        replay := none, chunks := if c.head.kind = kPrefill then (t.stream c.n).chunks - 1 else (t.stream c.n).chunks }
      t.formNext c newPos k.id commit

/-! ### The riddle's own reads of peat (R177, R181, R201, R206) -/

/-- The peat that a mask, or a grammar state, takes up: its entry, and its bitmap or list. -/
def State.maskPieces (s : State) (tile id : Nat) : List (Nat × Nat) :=
  let pg := riddlePage tile
  let a := s.rf pg Reg.MASK_BASE 32 0 + 16 * id
  if s.rf pg Reg.RID_MASK_CTL 8 0 ≤ id || peatSize < a + 16 then []
  else
    let e := s.readPeat tile a 16
    let len := leAt e 4 4
    [(a, 16), (bits (leAt e 8 8) 32 0, if bit (leAt e 0 4) 0 then 8 * len else ceilDiv len 8)]
def State.gramPieces (s : State) (tile g n : Nat) : List (Nat × Nat) :=
  let b := s.gramBase tile g
  if !s.rb (riddlePage tile) (Reg.GRAM_CTL g) 0 || peatSize < b + 16 then []
  else if s.gramStates tile g ≤ n || peatSize < s.gramEntry tile g n + 16 then [(b, 16)]
  else
    let e := s.gramState tile g n
    [(b, 16), (s.gramEntry tile g n, 16)] ++ (if 2 ≤ e.kind then [] else [(e.list, 8 * e.count)]) ++
      (if e.kind = 1 then [(e.map, ceilDiv (s.rf (riddlePage tile) Reg.RID_VOCAB 18 0) 8)] else [])

/-- What the riddle reads of peat for a wavefront and some of its nodes' rows: the stream's record, its masks, and the grammar states
of the rows, each structure once. How often the unit fetches a line is left open. (DESIGN CHOICE: log entry 131) -/
def State.ridPieces (s : State) (c : RCtx) (rows : List Nat) : List (Nat × Nat) :=
  let l := [(s.recordAt c.tile c.n, 2048)] ++ s.maskPieces c.tile c.record.allow ++ s.maskPieces c.tile c.record.deny ++
    (if c.record.gramEn then ((rows.filterMap (s.nodeState c 64)).eraseDups).flatMap (s.gramPieces c.tile c.record.grammar) else [])
  l.filter (fun x => x.2 ≠ 0 && decide (x.1 + x.2 ≤ peatSize))

/-- Whether every layer that the reads need is ON (R181). -/
def State.piecesOn (s : State) (tile : Nat) (l : List (Nat × Nat)) : Bool := l.all (fun x => s.peatOn tile x.1 x.2)

/-- The reads made at port 5: lines counted, and an ECC error recorded (R177, R201, R206). An uncorrectable one is reported to the
FAULT page too (R521). True where there is none. (DESIGN CHOICE: log entry 131) -/
def State.ridRead (s : State) (tile : Nat) (l : List (Nat × Nat)) (e : EccResult) (addr : Nat) : Bool × State :=
  let s := l.foldl (fun (s : State) x => s.countPeatRead tile x.1 x.2) s
  let spot := if l.any (fun x => decide (x.1 ≤ addr) && decide (addr < x.1 + x.2)) then addr else (l.head?.map (·.1)).getD 0
  match l.find? (fun x => s.peatPoisoned tile x.1 x.2) with
  | some x => (false, (s.peatEcc tile 5 (s.peatBadAt tile x.1 x.2) .uncorrectable true false).report tile 2 5 0)
  | none =>
    let s1 := s.peatEcc tile 5 spot e false false
    if e = .uncorrectable then (false, s1.report tile 2 5 0) else (true, s1)

/-- The riddle works on the complete wavefront of a stream; `e` is what ECC finds at a byte of what it reads of peat. After an
uncorrectable error it selects nothing: the recast that the report starts takes the wavefront. -/
def execRiddleSelect (stream : StreamIx) (e : EccResult) (addr : Addr) (s : State) : Out State :=
  let n := stream.toNat
  match s.ridPlace n .gathering with
  | none => .next s
  | some (tile, r) =>
    let c := s.rctx tile r
    let reads := s.ridPieces c (if c.head.kind = kTree then List.range c.nodes.length else [0])
    if s.fenced c.head.polder then .next s
    else if s.genAt tile n ≠ c.head.gen then .next (s.dropRiddle tile r)
    else if !r.complete || !s.ridAligned tile || !s.piecesOn tile reads then .next s
    else match s.ridRead tile reads e addr.toNat with
      | (false, t) => .next t
      | (true, t) => .next (if c.draft then (if c.head.kind = kTree then t.draftLevel c else t.ridLeave c) else t.ridSelect c)

/-! ### Parts (R278 to R281) -/

/-- A row of a part as it arrives: the first token id of the slice and the logits. -/
structure RawRow where
  first  : Nat
  logits : List W32
  deriving DecidableEq, Repr

/-- The rows of a part, from the bytes of R166; `f` bounds their number. -/
def partRows : Nat → List Byte → List (RowKey × RawRow)
  | 0, _ => []
  | f + 1, b =>
    if b.length < 24 then []
    else
      let width := leAt b 20 4
      let row : RawRow := ⟨leAt b 16 4, (List.range width).map (fun i => w32 (leAt b (24 + 4 * i) 4))⟩
      (RowKey.ofBytes (b.take 16), row) :: partRows f (b.drop (24 + 4 * width))

/-- The wavefront that a place waits for, as it still lies at the last bed. -/
def State.comingWave (s : State) (r : RPlace) : List Byte :=
  let beds := (s.bedsOf (s.stream r.stream).polder).filter s.bedLast
  let all := beds.flatMap (fun b => (List.range (s.inSlots b + 1)).map (s.place b))
  ((all.find? (fun x =>
    let h := waveHead x.data
    x.used && h.stream = r.stream && h.gen = r.gen && s.continues h)).map (·.data)).getD []

/-- A row of a part scanned through R292 as it arrives: the 256 highest y of its allowed tokens, and (m_p, Z_p). A token that an
accepted part of lower PART covers is left to that part. (DESIGN CHOICE: log entry 130) -/
def State.scanRow (s : State) (c : RCtx) (part : Nat) (k : RowKey) (x : RawRow) : PartRow :=
  let i := if c.head.kind = kTree then k.node else 0
  let lower (t : Nat) : Bool := c.place.parts.any (fun q => decide (q.part < part) &&
    q.rows.any (fun y => y.pos = k.pos && y.node = k.node && y.covers t))
  let toks := ((List.range x.logits.length).map (fun j => (x.first + j, x.logits.getD j 0))).filter (fun t => !lower t.1)
  let nan (t : Nat × W32) : Bool := (Val.ofF32 t.2).isNan
  let gs := s.nodeState c 64 i
  let ok (t : Nat × W32) : Bool := !nan t && c.fits && (match gs with | some g => s.allowed c.tile c.record g t.1 | none => false)
  let ys := (toks.filter ok).map (fun t => Tok.mk t.1 (adjust c.record c.tinv (c.rowHist i) t.1 t.2))
  let mp := rowMax (ys.map (·.y))
  let bad := match gs with
    | some g => c.record.gramEn && s.rb (riddlePage c.tile) (Reg.GRAM_CTL c.record.grammar) 0 && s.gramBad c.tile c.record.grammar g
    | none => false
  { pos := k.pos, node := k.node, first := x.first, width := x.logits.length, nans := (toks.filter nan).length, bad := bad,
    mz := if ys.isEmpty then none else some (mp, (pairwise (ys.map (fun y => (exp32 (sub32 y.y mp)).1))).1),
    toks := (topToks [] (ys.map (fun y => (part, y)))).map (·.2) }

/-- The place of a stream at a riddle that takes parts, as its wavefront stands. -/
def State.scanPlace (s : State) (tile n : Nat) : Option RPlace :=
  (Store.get [] s.rplaces tile).find? (fun r => r.stream = n && (r.phase = .reserved || r.phase = .gathering))
def State.scanCtx (s : State) (tile : Nat) (r : RPlace) : RCtx :=
  s.rctx tile { r with wave := if r.phase = .gathering then r.wave else s.comingWave r }
/-- What the scan of rows reads of peat. -/
def State.scanPieces (s : State) (c : RCtx) (rows : List (RowKey × RawRow)) : List (Nat × Nat) :=
  s.ridPieces c ((rows.map (fun x => if c.head.kind = kTree then x.1.node else 0)).eraseDups)

/-- The rows of one stream of a part: dropped with an old generation (2), discarded under R279 (0), or scanned into the stream's
place (1). -/
def State.takePart (s : State) (tile part parts n : Nat) (rows : List (RowKey × RawRow)) : Nat × State :=
  let gen := (rows.head?.map (·.1.gen)).getD 0
  let pos := (rows.head?.map (·.1.pos)).getD 0
  if gen ≠ s.genAt tile n then (2, s)
  else if s.homeTile tile (s.polderOf tile) n ≠ some tile then (0, s.partErr tile n gen pos)
  else match s.scanPlace tile n with
    | none => (0, s.partErr tile n gen pos)
    | some r =>
      let first := (r.parts.head?.map (·.parts)).getD parts
      let bad := first ≠ parts || r.parts.any (fun q => q.part = part) ||
        (r.phase = .gathering && !rows.all (fun x => rowMatches (waveHead r.wave) x.1.pos x.1.node))
      if bad then (0, s.partErr tile n gen pos)
      else
        let c := s.scanCtx tile r
        let t := (s.ridRead tile (s.scanPieces c rows) .clean 0).2
        let q : PartRec := ⟨part, parts, rows.map (fun x => s.scanRow c part x.1 x.2)⟩
        (1, (t.setPlaceR tile (r.take q)).stirPlace tile r.index)

/-- The valid rows of a part and the streams among them. -/
def validRows (bs : List Byte) : List (RowKey × RawRow) := (partRows bs.length bs).filter (fun x => x.1.valid)
def partStreams (rows : List (RowKey × RawRow)) : List Nat := (rows.map (·.1.stream)).eraseDups

/-- A whole part judged stream by stream. -/
def State.judgePart (s : State) (tile part parts : Nat) (bs : List Byte) : State :=
  let rows := validRows bs
  let step (a : Bool × Bool × State) (n : Nat) : Bool × Bool × State :=
    match a.2.2.takePart tile part parts n (rows.filter (fun x => x.1.stream = n)) with
    | (1, t) => (true, a.2.1, t)
    | (2, t) => (a.1, true, t)
    | (_, t) => (a.1, a.2.1, t)
  let (kept, old, s) := (partStreams rows).foldl step (rows.isEmpty, false, s)
  let s := if kept then s.bump (riddlePage tile) 2 1 else s
  if old then s.bump (riddlePage tile) 3 1 else s

/-- The bytes of a part with those of one more packet: the part as it stands, and the other parts on their way in. -/
def State.gatherHand (s : State) (tile : Nat) (p : Packet) : HandRx × List HandRx :=
  let o := p.operand.toNat
  let l := Store.get [] s.handRx tile
  let mine (x : HandRx) : Bool := x.src = p.src.toNat && x.tag = p.tag.toNat
  let x := (l.find? mine).getD ⟨p.src.toNat, p.tag.toNat, bits o 4 0, bits o 9 5, bits o 63 16, 0, []⟩
  ({ x with got := x.got + p.payload.length, data := putBytes x.data p.addr.toNat p.payload }, l.filter (fun y => !mine y))
def HandRx.bytes (x : HandRx) : List Byte := getBytes x.data 0 x.total

/-- Whether the scan of a whole part would read peat in a layer that is not ON (R181). -/
def State.handWaits (s : State) (tile : Nat) (p : Packet) : Bool :=
  let x := (s.gatherHand tile p).1
  let rows := validRows x.bytes
  decide (x.total ≤ x.got) && (partStreams rows).any (fun n => match s.scanPlace tile n with
    | none => false
    | some r => !s.piecesOn tile (s.scanPieces (s.scanCtx tile r) (rows.filter (fun y => y.1.stream = n))))

/-- A HAND delivered: the bytes of a part are gathered, and the whole part is judged. It waits while a layer of peat that the scan
reads is not ON. -/
def execHand (p : Packet) (s : State) : Out State :=
  if !p.wf then .fault .illFormed
  else if s.handWaits p.dst.toNat p && (s.ejectCause p.dst.toNat p).isNone then .next s
  else .next (s.eject opHand p (fun tile t =>
    let (x, others) := t.gatherHand tile p
    if x.got < x.total then { t with handRx := Store.set [] t.handRx tile (others ++ [x]) }
    else
      let t := { t with handRx := Store.set [] t.handRx tile others }
      (t.judgePart tile x.part x.parts x.bytes).tileReply tile p opMoveDone 0 x.total []))

/-- A wavefront that waits too long for a part (R281). -/
def execPartTimeout (stream : StreamIx) (s : State) : Out State :=
  let n := stream.toNat
  match s.ridPlace n .gathering with
  | none => .next s
  | some (tile, r) =>
    let pg := riddlePage tile
    let ns := s.rf pg Reg.RID_PART_TMO 31 0
    if ns ≠ 0 && decide (r.since + ns ≤ s.up) && (!r.complete || !s.ridAligned tile) then
      let c := s.rctx tile r
      let s := s.setPlaceR tile { r with since := s.up }
      .next (((s.raise pg 3).ridLast c 4 c.head.pos0).report tile 3 5 0)
    else .next s

/-! ### Draft requests and trees (R264) -/

/-- A wavefront put into a place of the first bed on a credit of its stream. -/
def State.enter (s : State) (b i e n : Nat) (w : List Byte) (chunk : Bool) : State :=
  let x := s.stream n
  let s := s.setStream n { x with seq := (x.seq + 1) % 2 ^ 32, inflight := x.inflight + 1, chunks := if chunk then x.chunks + 1 else x.chunks }
  (s.setPlace b i { used := true, src := e, got := w.length, data := w }).arrived e b i

/-- A DRAFT_REQ delivered: the draft stream's wavefront enters its loop, after a chunk of the committed tokens where the accepted
path does not cover them. It waits while no credit or place is free. -/
def execDraftReq (p : Packet) (s : State) : Out State :=
  if !p.wf then .fault .illFormed
  else
    let o := p.operand.toNat
    let n := bits o 11 0
    let m := bits o 26 20
    let commitN := bits o 31 27
    let pos := bits o 63 32
    let x := s.stream n
    let need := if m = 0 || m + 1 = commitN then 1 else 2
    match s.firstBed x.polder with
    | none => .next (s.eject opDraftReq p (fun _ t => t))
    | some b =>
      let free := (List.range (s.inSlots b)).filter (fun i => !(s.place b i).used)
      let waits := s.fenced x.polder || free.length < need || s.tokenWaits x.polder ||
        s.rf polderPage (Reg.POLD_LOOP x.polder) 15 0 < s.inLoop x.polder + need
      if waits && (s.ejectCause p.dst.toNat p).isNone then .next s
      else .next (s.eject opDraftReq p (fun tile t =>
        if t.entryTile b ≠ some tile || !x.draft || x.gen.toNat ≠ bits o 19 12 || !(x.st = .bound || x.st = .prefill) then t
        else
          let root := leAt p.payload (4 * m) 4
          let accept := (p.payload.drop (4 * m + 4)).take commitN
          let head : Head :=
            { stream := n, gen := x.gen, polder := x.polder, rstage := false, bed := b, kind := kPrefill, cls := x.cls, last := false,
              tokens := true, rows := m, fmt := 0, pos0 := pos - m, seq := x.seq + 1, enq := t.now.toNat, rowBytes := 4, commitN := 0,
              accept := [] }
          let t := t.setStream n { x with paths := [], frontier := 0 }
          let t := if need = 2 then
              t.enter b (free.getD 0 0) tile n
                (head.bytes ++ (List.range m).flatMap (fun i => keyBytes (pos - m + i) n x.gen 0) ++ p.payload.take (4 * m)) true
            else t
          let l : List Node := [⟨root, 0, 0, 0x3F80⟩]
          let h2 : Head := { head with seq := ((t.stream n).seq + 1) % 2 ^ 32 }
          let w := tokenWave h2 pos root (if need = 1 then accept.map (·.toNat) else []) (some (l, [[0]]))
          (t.bump polderPage 6 1).enter b (free.getD (need - 1) 0) tile n w false))

/-- A DRAFT_TREE delivered to the target's riddle: taken when it matches the held wavefront in time. -/
def execDraftTree (p : Packet) (s : State) : Out State :=
  if !p.wf then .fault .illFormed
  else .next (s.eject opDraftTree p (fun tile t =>
    let h := Head.ofBytes p.payload
    let n := h.stream
    let x := t.stream n
    let t := if x.gen = h.gen then t.setStream n { x with draftOut := false } else t
    match (Store.get [] t.rplaces tile).find? (fun r => r.stream = n && r.phase = .draftWait) with
    | none => t
    | some r =>
      let held := waveHead r.wave
      let wait := t.rf polderPage (Reg.POLD_DRAFT x.polder) 63 32
      if held.gen ≠ h.gen || held.pos0 ≠ h.pos0 || decide (r.since + wait < t.up) then t
      else
        let sec := p.payload.drop 64
        let l := treeNodes sec h.rows
        if !treeValid l then
          (((t.setPlaceR tile { r with phase := .leaving }).bump polderPage 8 1).bump polderPage 7 1).raise polderPage 2
        else
          let (l, rows) := trimTree l (maskRows sec h.rows) held.pos0 x.posLimit x.treeNodes x.treeDepth
          let root := leNat ((waveRows r.wave).take 4)
          let commit := (held.accept.take held.commitN).map (·.toNat)
          (t.setPlaceR tile { r with phase := .leaving, wave := tokenWave held held.pos0 root commit (some (l, rows)) }).bump
            polderPage 6 1))

/-- The tree did not come in time: the wavefront goes out as DECODE (R264 step 5). -/
def execDraftWaitTimeout (stream : StreamIx) (s : State) : Out State :=
  let n := stream.toNat
  match s.ridPlace n .draftWait with
  | none => .next s
  | some (tile, r) =>
    let wait := s.rf polderPage (Reg.POLD_DRAFT (s.stream n).polder) 63 32
    if r.since + wait ≤ s.up then
      .next (((s.setPlaceR tile { r with phase := .leaving }).bump polderPage 7 1).raise polderPage 2)
    else .next s

/-! ### Grammar registers (R289) -/

/-- What a write of GRAM_BASE or GRAM_CTL does while streams use the grammar: nothing but GRAM_BUSY. -/
def gramHook (w : WEff) (old : State) (tile : Nat) : State :=
  if 0x400 ≤ w.off && w.off < 0x800 && w.mask ≠ 0 && decide (old.gramUsers tile ((w.off - 0x400) / 0x10) ≠ 0) then
    (w.st.keepReg old (riddlePage tile) w.off).raise (riddlePage tile) 4
  else w.st

/-! ### Generations that arrive (R267) -/

/-- Wavefronts of an old generation that wait in riddle places of a tile are dropped, but for those on their way. -/
def State.dropRidStale (s : State) (tile : Nat) : State :=
  ((Store.get [] s.rplaces tile).filter (fun r => r.phase ≠ .reserved && s.genAt tile r.stream ≠ r.gen &&
    !s.wmoves.any (fun m => m.fromBed.isNone && m.stream = r.stream))).foldl (fun (s : State) r => s.dropRiddle tile r) s

end Sys2Proof.Machine
end

