-- ==== Sys2Proof/Machine/Heats.lean ====
section
/-! DEFINITION. The reset of a tile by a recast or a casting load, epochs, and the tiles of a polder by its slots (R70, R320, R367,
R529). -/
namespace Sys2Proof.Machine

/-- A crucible reset under the first row of R70: its gathering buffer flushes, its work is discarded, its instruction cache is
invalidated (R65), its tasks are IDLE. -/
def State.resetCrucible (s : State) (i k : Nat) : State :=
  let s := (s.gbFlushAll i k).discard i k (fun _ => true)
  let s := s.setCru i k { s.cru i k with icache := [] }
  (List.range 8).foldl (fun (s : State) t =>
    let x := s.task i k t
    if x.st = .idle then s else s.setTask i k t (idleTask x)) s

/-- The regions of a tile, as page kind and number. -/
def tileRegions : List (Bool × Nat) := (List.range 32).map (false, ·) ++ (List.range 16).map (true, ·)

/-- Every crucible of a tile reset, every gate 0, and nothing on its way in. -/
def State.resetTile (s : State) (i : Nat) : State :=
  let s := (List.range 4).foldl (fun (s : State) k => s.resetCrucible i k) s
  { s with
    gates := outside s.gates (i * 1024) 1024,
    rx := Store.set [] s.rx i [], probes := Store.set [] s.probes i [], handRx := Store.set [] s.handRx i [],
    rplaces := Store.set [] s.rplaces i [], wmoves := s.wmoves.filter (fun m => m.tile ≠ i) }

/-- Every enabled region of a tile back in its INIT state (R191, R529). -/
def State.initRegions (s : State) (i : Nat) : State :=
  (tileRegions.filter (fun x => s.cregEn i x.1 x.2)).foldl (fun (s : State) x => s.initRegion i x.1 x.2) s

/-- Every region of a tile disabled, its states lost (R367 step 6). -/
def State.disableRegions (s : State) (i : Nat) : State :=
  let s := (tileRegions.filter (fun x => s.cregEn i x.1 x.2)).foldl (fun (s : State) x =>
    s.setRb (cregPage i x.1) (Reg.CREG_CTL x.2) 0 false) s
  { s with slots := outside s.slots (slotKey i false 0 0) (64 * 16384) }

/-- The epoch of a polder on every tile and sluice die. -/
def State.setEpoch (s : State) (p e : Nat) : State :=
  let s := (List.range 80).foldl (fun (s : State) i => s.setRf (cetisPage i) Reg.EPOCH (4 * p + 3) (4 * p) e) s
  let s := (List.range 8).foldl (fun (s : State) d =>
    { s with rimEpoch := Store.set 0 s.rimEpoch (d * 8 + p) (BitVec.ofNat 4 e) }) s
  s.setRf polderPage (Reg.RC_STAT p) 27 24 e

/-- The beds of a polder start again: pass numbers, pointer and quanta, places (R262, R529). -/
def State.resetBeds (s : State) (p : Nat) : State :=
  (s.bedsOf p).foldl (fun (s : State) b =>
    let s := s.setBed b { wdog := s.up, quanta := [0, 0, s.rf polderPage (Reg.POLD_CLASS p) 23 16] }
    { s with places := Store.keep (fun k => k / 128 ≠ b) s.places }) s

/-- The tile that a polder's slot names where no tile is the source: by the lowest-numbered tile whose own table maps it. -/
def State.castTile (s : State) (pol slot : Nat) : Option Nat :=
  match (List.range 80).find? (fun i => (s.slotTile i pol slot).isSome) with
  | none => none
  | some i => match s.slotTile i pol slot with
    | some t => if t < 80 then some t else none
    | none => none

end Sys2Proof.Machine
end

