-- ==== Sys2Proof/Machine/Queue.lean ====
section
/-! DEFINITION. Rings of the host ports: doorbells, enabling and disabling, completions, index blocks and interrupts (R394 to R403,
R411 to R414, R418, R419). -/
namespace Sys2Proof.Machine

def kindOf : QKind → Nat | .sq => kSq | .cq => kCq | .tr => kTr
/-- Bytes of an entry (R394). -/
def entryBytes (kind : Nat) : Nat := if kind = kSq then 64 else if kind = kCq then 32 else 16
def queueCount (kind : Nat) : Nat := if kind = kTr then 256 else 64

def State.qBase (s : State) (p : HostPort) (kind num : Nat) : Nat := (s.queueReg p kind num Reg.Q_BASE).toNat
/-- The bus address of an index of a ring (R395). -/
def State.qAddr (s : State) (p : HostPort) (kind num : Nat) (i : W32) : Nat :=
  s.qBase p kind num + i.toNat % s.qSize p kind num * entryBytes kind

/-- Causes of Q_ERR. -/
def qSizeErr : Nat := 1
def qAlignErr : Nat := 2
def qCqErr : Nat := 3
def qBusyErr : Nat := 4
def qDoorErr : Nat := 5
def qDmaErr : Nat := 6

/-- DEDUCED: log entry 67. -/
def State.qErr (s : State) (p : HostPort) (kind num cause : Nat) : State :=
  (s.setReg (portPage p) Reg.Q_ERR (word [(0, cause), (4, kind), (8, num), (32, s.ts)])).raise (portPage p) 0

/-! ### Doorbells (R398) -/

/-- A new index written to a doorbell: accepted when it moves the host's index forward by no more than the ring allows.
(DEDUCED: log entry 70) -/
def State.doorbell (s : State) (p : HostPort) (kind num : Nat) (v : W64) : State :=
  let n := BitVec.ofNat 32 v.toNat
  let h := s.qHead p kind num
  let t := s.qTail p kind num
  let ok : Bool :=
    s.qEn p kind num &&
    (if kind = kSq then decide ((n - t).toNat ≤ s.qSize p kind num - s.qDepth p kind num)
     else decide ((n - h).toNat ≤ s.qDepth p kind num))
  if !s.boot.main then s
  else if ok then
    (if kind = kSq then s.setQStat p kind num h n else s.setQStat p kind num n t).bump (portPage p) 4 1
  else (s.bump (portPage p) 5 1).qErr p kind num qDoorErr

def execSqDoorbell (port : HostPort) (q : Fin 64) (v : W64) (s : State) : Out State := .next (s.doorbell port kSq q v)
def execCqDoorbell (port : HostPort) (q : Fin 64) (v : W64) (s : State) : Out State := .next (s.doorbell port kCq q v)
def execTrDoorbell (port : HostPort) (r : Fin 256) (v : W64) (s : State) : Out State := .next (s.doorbell port kTr r v)

/-! ### What the engine writes into a ring -/

/-- An entry at the tail of a ring; its interrupt and its index block follow. (DEDUCED: log entry 69) -/
def State.pushEntry (s : State) (p : HostPort) (kind num : Nat) (bs : List Byte) : State :=
  let t := s.qTail p kind num
  let s := (s.writeHost p (s.qAddr p kind num t) bs).setQStat p kind num (s.qHead p kind num) (t + 1)
  let d := s.qDyn p kind num
  let counts : Bool := fbit (s.queueReg p kind num Reg.Q_CFG) 25
  s.setQDyn p kind num { d with
    stale := true, fresh := if counts then d.fresh + 1 else d.fresh, first := if counts && d.fresh = 0 then s.up else d.first }

/-- Room reserved in a completion ring. -/
def State.reserved (s : State) (p : HostPort) (cq : Nat) : Nat := (s.cmds.filter (fun c => c.port = p && c.cq = cq)).length

/-- CMD_STATUS (R412). -/
def csOk : Nat := 0
def csRefused : Nat := 1
def csStreamBusy : Nat := 2
def csBadGen : Nat := 3
def csNoModel : Nat := 4
def csBadField : Nat := 5
def csBadEgress : Nat := 6
def csLinkBad : Nat := 7
def csTokenRange : Nat := 8
def csNoSpace : Nat := 9
def csDmaErr : Nat := 10
def csStale : Nat := 11
def csSem : Nat := 12
def csLoadBusy : Nat := 13
def csLoadFail : Nat := 14
def csBadOpcode : Nat := 15

/-- What a completion says besides the command it belongs to. -/
structure Done where
  code    : Nat
  stream  : Nat := 0
  gen     : Nat := 0
  status  : Nat := 0
  emitted : Nat := 0
  commit  : Nat := 0
  deriving DecidableEq, Repr

def HostCmd.w (c : HostCmd) (i : Nat) : Nat := leAt c.entry (8 * i) 8
def HostCmd.opcode (c : HostCmd) : Nat := bits (c.w 0) 7 0
def HostCmd.streamNo (c : HostCmd) : Nat := bits (c.w 0) 43 32
def HostCmd.genNo (c : HostCmd) : Nat := bits (c.w 0) 51 44
/-- Words 1 to 7 from one on are zero. -/
def HostCmd.zeroFrom (c : HostCmd) (i : Nat) : Bool := (c.entry.drop (8 * i)).all (· = 0)

/-- A completion entry (R411). -/
def doneBytes (c : HostCmd) (d : Done) (now : W64) : List Byte :=
  leBytes 8 (bits (c.w 0) 31 16 + c.sq * 2 ^ 16 + d.code * 2 ^ 24 + d.stream * 2 ^ 32 + d.gen * 2 ^ 44 + d.status * 2 ^ 52) ++
    leBytes 4 d.emitted ++ leBytes 4 d.commit ++ leBytes 8 now.toNat ++ leBytes 4 c.head ++ List.replicate 4 0

/-- A command ends: its completion is written where its ring is still enabled, and the room it held is free. (DEDUCED: log entry 69) -/
def State.complete (s : State) (c : HostCmd) (d : Done) : State :=
  let s := { s with cmds := s.cmds.erase c }
  if s.qEn c.port kCq c.cq then (s.pushEntry c.port kCq c.cq (doneBytes c d s.now)).bump (portPage c.port) 1 1 else s

/-! ### Fetching (R402, R403) -/

/-- The command of a submission ring that has not reached its start point. -/
def State.atStart (s : State) (p : HostPort) (q : Nat) : Option HostCmd :=
  s.cmds.find? (fun c => c.port = p && c.sq = q && c.stage ≠ .started)
def State.stageOf (s : State) (c : HostCmd) (g : CmdStage) : State :=
  { s with cmds := s.cmds.map (fun d => if d = c then { d with stage := g } else d) }

/-- The next entry of a submission ring, once the previous one has reached its start point and the completion ring has room.
(DEDUCED: log entry 70) -/
def execSqFetch (port : HostPort) (q : Fin 64) (s : State) : Out State :=
  let cq := s.qCfg port kSq q 31 26
  let room := s.qSize port kCq cq - s.qDepth port kCq cq - s.reserved port cq
  if s.boot.main && s.qEn port kSq q && decide (0 < s.qDepth port kSq q) && (s.atStart port q).isNone && s.qEn port kCq cq &&
      decide (0 < room) then
    let h := s.qHead port kSq q
    let e := s.readHost port (s.qAddr port kSq q h) 64
    let s := (s.setQStat port kSq q (h + 1) (s.qTail port kSq q)).bump (portPage port) 0 1
    let s := s.setQDyn port kSq q { s.qDyn port kSq q with stale := true }
    let c : HostCmd := ⟨port, q, cq, e, (h + 1).toNat, .fetched⟩
    let s := { s with cmds := s.cmds ++ [c] }
    .next (if 3 < c.opcode then s.complete c { code := csBadOpcode } else s)
  else .next s

/-- The command that a submission ring has fetched and not begun, of an opcode. -/
def State.fetched (s : State) (p : HostPort) (q op : Nat) : Option HostCmd :=
  s.cmds.find? (fun c => c.port = p && c.sq = q && c.stage = .fetched && c.opcode = op)

/-- DEDUCED: log entry 70. -/
def execCmdNop (port : HostPort) (q : Fin 64) (s : State) : Out State :=
  match s.fetched port q 0 with
  | none => .next s
  | some c =>
    let ok : Bool := bits (c.w 0) 15 8 = 0 && bits (c.w 0) 63 32 = 0 && c.zeroFrom 1
    .next (s.complete c { code := if ok then csOk else csBadField })

/-- CANCEL (R409): judged at once. -/
def execCancel (port : HostPort) (q : Fin 64) (s : State) : Out State :=
  match s.fetched port q 2 with
  | none => .next s
  | some c =>
    let d (code : Nat) : Done := { code := code, stream := c.streamNo, gen := c.genNo }
    if bits (c.w 0) 15 8 ≠ 0 || bits (c.w 0) 63 52 ≠ 0 || !c.zeroFrom 1 then .next (s.complete c (d csBadField))
    else
      let (ok, t) := s.cancelStream c.streamNo (BitVec.ofNat 8 c.genNo)
      .next (t.complete c (d (if ok then csOk else csStale)))

/-! ### Token records (R413) -/

/-- The oldest record that waits for a ring is written into it; a full ring holds it back. -/
def execTokenRecordWrite (port : HostPort) (r : Fin 256) (s : State) : Out State :=
  let d := s.qDyn port kTr r
  match d.fifo with
  | [] => .next s
  | x :: rest =>
    if !s.qEn port kTr r || s.qSize port kTr r ≤ s.qDepth port kTr r then .next s
    else .next (((s.setQDyn port kTr r { d with fifo := rest }).pushEntry port kTr r x).bump (portPage port) 2 1)

/-! ### Index blocks and interrupts (R396, R414) -/

/-- The index block of a queue whose index has moved. -/
def execIndexBlockWrite (port : HostPort) (kind : QKind) (num : BitVec 8) (s : State) : Out State :=
  let k := kindOf kind
  let n := num.toNat
  let d := s.qDyn port k n
  if decide (queueCount k ≤ n) || !s.qEn port k n || !d.stale then .next s
  else
    let i := if k = kSq then s.qHead port k n else s.qTail port k n
    let lost := if k = kTr then fld (s.queueReg port k n Reg.Q_LOST) 31 0 else 0
    let bs := leBytes 4 i.toNat ++ leBytes 4 lost ++ List.replicate 56 0
    .next ((s.writeHost port (s.queueReg port k n Reg.Q_IDX).toNat bs).setQDyn port k n { d with stale := false })

/-- An interrupt of a completion or token ring that is due. -/
def execQueueInterrupt (port : HostPort) (kind : QKind) (num : BitVec 8) (s : State) : Out State :=
  let k := kindOf kind
  let n := num.toNat
  let d := s.qDyn port k n
  let cfg := s.queueReg port k n Reg.Q_CFG
  let us := fld cfg 63 52
  let due : Bool := decide (max 1 (fld cfg 51 44) ≤ d.fresh) || (us ≠ 0 && decide (d.first + 1000 * us ≤ s.up))
  if k ≠ kSq && decide (n < queueCount k) && s.qEn port k n && fbit cfg 25 && decide (0 < d.fresh) && due then
    .next ((s.setQDyn port k n { d with fresh := 0, first := 0 }).msix port (fld cfg 42 32))
  else .next s

/-! ### Enabling and disabling (R400, R418, R419) -/

/-- Records that wait for a token ring that is disabled are lost. (DEDUCED: log entry 69) -/
def State.loseFifo (s : State) (p : HostPort) (r : Nat) : State :=
  let n := (s.qDyn p kTr r).fifo.length
  (List.range n).foldl (fun (s : State) _ => s.ringLost p r) (s.setQDyn p kTr r {})

/-- A queue disabled. -/
def State.qOff (s : State) (p : HostPort) (kind num : Nat) : State :=
  let s := s.setQueueReg p kind num Reg.Q_CFG (setBit (s.queueReg p kind num Reg.Q_CFG) 24 false)
  if kind = kTr then s.loseFifo p num else s.setQDyn p kind num {}

/-- Whether a ring's size is a power of two from 16 to 65,536. -/
def sizeOk (n : Nat) : Bool := (List.range 13).any (fun k => n = 2 ^ (k + 4))

/-- Why an enable is refused; none when it is not. -/
def State.enableErr (s : State) (p : HostPort) (kind num : Nat) : Option Nat :=
  if !sizeOk (s.qSize p kind num) then some qSizeErr
  else if s.qBase p kind num % 4096 ≠ 0 || (s.queueReg p kind num Reg.Q_IDX).toNat % 64 ≠ 0 then some qAlignErr
  else if kind = kSq && !s.qEn p kCq (s.qCfg p kSq num 31 26) then some qCqErr
  else none

/-- Whether a queue is in use, so that EN may not be cleared. -/
def State.queueUsed (s : State) (p : HostPort) (kind num : Nat) : Bool :=
  if kind = kCq then
    (List.range 64).any (fun q => s.qEn p kSq q && decide (s.qCfg p kSq q 31 26 = num)) || decide (0 < s.reserved p num)
  else if kind = kTr then
    s.streams.any (fun e => e.2.st ≠ .free && e.2.port = p && !e.2.egress && !e.2.draft && e.2.tring = num)
  else false

/-- What a write of Q_BASE, Q_IDX or Q_CFG of the selected queue does. A refused change leaves what it would have changed; the
other fields of Q_CFG take the write. (DEDUCED: log entry 68) -/
def queueHook (w : WEff) (old : State) (p : HostPort) : State :=
  let pg := portPage p
  let kind := old.rf pg Reg.Q_SEL 9 8
  let num := old.rf pg Reg.Q_SEL 7 0
  let en := old.qEn p kind num
  if (old.winKey pg w.off).isSome && !old.queueThere pg then w.st.keepReg old pg w.off
  else if w.off = Reg.Q_BASE || w.off = Reg.Q_IDX then
    if en && w.st.stored pg w.off ≠ old.stored pg w.off then (w.st.keepReg old pg w.off).qErr p kind num qBusyErr else w.st
  else if w.off ≠ Reg.Q_CFG then w.st
  else
    let was := old.queueReg p kind num Reg.Q_CFG
    let new := w.st.queueReg p kind num Reg.Q_CFG
    if en then
      let frozen : Bool := fld new 16 0 ≠ fld was 16 0 || (kind = kSq && fld new 31 26 ≠ fld was 31 26)
      let back := setBit (setFld (if kind = kSq then setFld new 31 26 (fld was 31 26) else new) 16 0 (fld was 16 0)) 24 true
      if frozen || (!fbit new 24 && old.queueUsed p kind num) then
        (w.st.setQueueReg p kind num Reg.Q_CFG back).qErr p kind num qBusyErr
      else if fbit new 24 then w.st
      else w.st.qOff p kind num
    else if fbit new 24 then
      match w.st.enableErr p kind num with
      | some c => (w.st.setQueueReg p kind num Reg.Q_CFG (setBit new 24 false)).qErr p kind num c
      | none => (w.st.setQStat p kind num 0 0).setQDyn p kind num {}
    else w.st

def execQueueEnable (who : Requester) (port : HostPort) (v : W64) (s : State) : Out State :=
  .next (queueHook (s.writeCore who (portPage port) Reg.Q_CFG .b64 (setBit v 24 true)) s port)
def execQueueDisable (who : Requester) (port : HostPort) (v : W64) (s : State) : Out State :=
  .next (queueHook (s.writeCore who (portPage port) Reg.Q_CFG .b64 (setBit v 24 false)) s port)

/-- A DMA of a queue fails: the queue is disabled. -/
def execDmaFailure (port : HostPort) (kind : QKind) (num : BitVec 8) (s : State) : Out State :=
  let k := kindOf kind
  let n := num.toNat
  if queueCount k ≤ n || !s.qEn port k n then .next s
  else
    let s := ((s.qOff port k n).qErr port k n qDmaErr).bump (portPage port) 7 1
    .next (s.raise (portPage port) 2)

end Sys2Proof.Machine
end

