-- ==== Sys2Proof/Machine/Sluice.lean ====
section
/-! DEFINITION. Pour sessions of a sluice die and what it sends on them (R375, R376, R378). -/
namespace Sys2Proof.Machine

def State.pour (s : State) (d : Nat) : PourDie := Store.get {} s.pours d
def State.setPour (s : State) (d : Nat) (x : PourDie) : State := { s with pours := Store.set {} s.pours d x }
def State.sess (s : State) (d k : Nat) : Sess := Store.get {} (s.pour d).sess k
def State.setSess (s : State) (d k : Nat) (x : Sess) : State :=
  s.setPour d { s.pour d with sess := Store.set {} (s.pour d).sess k x }

/-- SESS fields: identifier, state, port and server. -/
def State.sessId (s : State) (d k : Nat) : Nat := s.rf (pourPage d) (Reg.SESS k) 31 0
def State.sessState (s : State) (d k : Nat) : Nat := s.rf (pourPage d) (Reg.SESS k) 34 32
def State.setSessState (s : State) (d k v : Nat) : State := s.setRf (pourPage d) (Reg.SESS k) 34 32 v
def State.sessPort (s : State) (d k : Nat) : Nat := s.rf (pourPage d) (Reg.SESS k) 35 35
def State.sessServer (s : State) (d k : Nat) : Nat := s.rf (pourPage d) (Reg.SESS k) 39 36
/-- H of R376. -/
def State.sessHigh (s : State) (d k : Nat) : Nat := (s.reg (pourPage d) (Reg.SESS_SEQ k)).toNat
def ssNone : Nat := 0
def ssKeying : Nat := 1
def ssOpen : Nat := 2
def ssStopping : Nat := 3
def ssFailed : Nat := 4
/-- A session on which requests and credit go out. -/
def State.sessUp (s : State) (d k : Nat) : Bool := s.sessState d k = ssOpen || s.sessState d k = ssStopping

/-- Message types (R375). -/
def mReq : Nat := 1
def mData : Nat := 2
def mCredit : Nat := 3
def mStop : Nat := 4
def mEnd : Nat := 5
def mHello : Nat := 6
def mAck : Nat := 7

/-- The header fields of a message but for version, type, session and sequence number. -/
structure PourHdr where
  tag    : Nat := 0
  epoch  : Nat := 0
  status : Nat := 0
  object : Nat := 0
  off    : Nat := 0
  len    : Nat := 0
  limit  : Nat := 0
  deriving DecidableEq, Repr

/-- The 64-byte pour header (R375). -/
def pourHeader (type sid seq : Nat) (h : PourHdr) : List Byte :=
  leBytes 8 (1 + type * 2 ^ 8 + sid * 2 ^ 32) ++ leBytes 8 seq ++ leBytes 8 (h.tag + h.epoch * 2 ^ 32 + h.status * 2 ^ 48) ++
    leBytes 8 h.object ++ leBytes 8 h.off ++ leBytes 8 h.len ++ leBytes 8 h.limit ++ leBytes 8 0
/-- The nonce DIR ‖ SESSION[30:0] ‖ SEQ, most significant byte first. (PRESUMED: log entry 133) -/
def pourNonce (fromServer : Bool) (sid seq : Nat) : List Byte := beBytes 4 (b2n fromServer * 2 ^ 31 + sid % 2 ^ 31) ++ beBytes 8 seq

/-- A datagram of a session leaves its Ethernet port (R373, R375, R417). -/
def State.sendDatagram (s : State) (d k : Nat) (data : List Byte) : State :=
  let e := 2 * d + s.sessPort d k
  let x := s.sess d k
  ((s.send (.pour e x.addr x.udp (s.rf (pourPage d) Reg.POUR_CTL 31 16) data)).bump (ethPage e) 0 1).bump (ethPage e) 2 (66 + data.length)

/-- A message of a session: it takes the next sequence number, its header is authenticated, and its payload, which is empty, sealed. -/
def State.pourSend (s : State) (d k type : Nat) (h : PourHdr) : State :=
  let x := s.sess d k
  let hdr := pourHeader type (s.sessId d k) (x.seq + 1) h
  (s.setSess d k { x with seq := x.seq + 1 }).sendDatagram d k
    (hdr ++ gcmSeal x.key (pourNonce false (s.sessId d k) (x.seq + 1)) hdr [])

/-! ### The ladle (R376, R383, R384) -/

/-- DEDUCED: log entry 113. -/
def ladleSize : Nat := 2 ^ 26
def State.ladleUsed (s : State) (d : Nat) : Nat := ((s.pour d).pulls.map (fun p => p.data.length)).sum
def State.ladleFree (s : State) (d : Nat) : Nat := ladleSize - s.ladleUsed d
/-- USED_KIB and HIGH_KIB after a change; LOW when free space falls below 8 MiB. -/
def State.ladleNote (s : State) (old : State) (d : Nat) : State :=
  let kib := ceilDiv (s.ladleUsed d) 1024
  let pg := ladlePage d
  let s := s.setFields pg Reg.LADLE_STAT [(16, 0, kib), (48, 32, max kib (s.rf pg Reg.LADLE_STAT 48 32))]
  if s.ladleFree d < 2 ^ 23 && decide (2 ^ 23 ≤ old.ladleFree d) then s.raise pg 3 else s

/-! ### STOP (R378) -/

/-- Pulls after the open requests of a session are withdrawn: a pull that loses one gives up its incomplete bytes. -/
def dropAsks (k : Nat) (p : Pull) : Pull :=
  if p.asks.any (fun a => a.sess = k) && !p.whole then { p with asks := p.asks.filter (fun a => a.sess ≠ k), data := [] } else p
/-- The bytes that go with them. -/
def lostBytes (k : Nat) (p : Pull) : Nat := if p.asks.any (fun a => a.sess = k) && !p.whole then p.data.length else 0

/-- The open requests of a session withdrawn, their bytes discarded. -/
def State.dropRequests (s : State) (d k : Nat) : State :=
  let x := s.pour d
  let lost := (x.pulls.map (lostBytes k)).sum
  ((s.setPour d { x with pulls := x.pulls.map (dropAsks k) }).bump (ladlePage d) 4 lost).ladleNote s d

/-- A STOP: the session's stop epoch rises. (DEDUCED: log entry 64) -/
def State.stopSession (s : State) (d k : Nat) : State :=
  if !s.sessUp d k then s
  else
    let x := s.sess d k
    let s := s.setSess d k { x with epoch := (x.epoch + 1) % 65536, tries := 1, at_ := s.up }
    let s := (s.setSessState d k ssStopping).pourSend d k mStop { epoch := (x.epoch + 1) % 65536 }
    (s.bump (pourPage d) 8 1).dropRequests d k

/-- A session that the engine closes: STOP and END where it is up, and its entry is free. (DESIGN CHOICE: log entry 65) -/
def State.closeSession (s : State) (d k : Nat) : State :=
  let s := if s.sessUp d k then (s.stopSession d k).pourSend d k mEnd {} else s
  (((s.dropRequests d k).setReg (pourPage d) (Reg.SESS k) 0).setReg (pourPage d) (Reg.SESS_SEQ k) 0).setSess d k {}
def State.closeAll (s : State) : State :=
  (List.range 8).foldl (fun (s : State) d => (List.range 4).foldl (fun (s : State) k => s.closeSession d k) s) s

/-- A STOP on every session of every die. -/
def State.stopAll (s : State) : State :=
  (List.range 8).foldl (fun (s : State) d => (List.range 4).foldl (fun (s : State) k => s.stopSession d k) s) s

end Sys2Proof.Machine
end

