-- ==== Sys2Proof/Machine/Casting.lean ====
section
/-! DEFINITION. The casting image, the checks of a load, its start and its failure, and the rate check of poured beds (R362 to R368,
R372, R594, R595). Placing is in another file. -/
namespace Sys2Proof.Machine

def castPage : Nat := pourPage 0
def castState (s : State) : Nat := s.rf castPage Reg.CAST_STAT 2 0
/-- CAST_STAT.STATE codes. -/
def csEmpty : Nat := 0
def csChecking : Nat := 1
def csPlacing : Nat := 2
def csPouring : Nat := 3
def csReady : Nat := 4
def csFailed : Nat := 5
/-- CAST_STAT.CAUSE codes. -/
def lcFormat : Nat := 1
def lcSignature : Nat := 2
def lcSectionCrc : Nat := 3
def lcLimits : Nat := 4
def lcStackDown : Nat := 5
def lcRate : Nat := 6
def lcBusy : Nat := 7
def lcSource : Nat := 8
def lcPullFail : Nat := 9
def lcFault : Nat := 10

/-- A casting is in force: READY, or CHECKING in a load that began at READY (R368). -/
def State.castInForce (s : State) : Bool :=
  castState s = csReady || (castState s = csChecking && (match s.castRun with | some r => decide (r.was = csReady) | none => false))

def State.loading (s : State) : Bool := let n := castState s; n = csChecking || n = csPlacing || n = csPouring

/-! ### The image (R362 to R365, R370) -/

/-- Bytes of the image of a load. -/
def State.img (s : State) (c : CastRun) (off n : Nat) : List Byte :=
  if c.src = 0 then s.readMire (c.addr + off) n else s.readHost (if c.src = 1 then .a else .b) (c.addr + off) n
def State.imgAt (s : State) (c : CastRun) (off n : Nat) : Nat := leNat (s.img c off n)

/-- The first bytes of the image read: the operand says whether every DMA read succeeded; a mire read fails where a stack refuses it. -/
def State.imgTake (s : State) (c : CastRun) (readOk : Bool) (n : Nat) : Bool × State :=
  if !readOk || decide (3 ≤ c.src) then (false, s) else if c.src = 0 then s.mireTake [(c.addr, n)] else (true, s)

def imgMagic : Nat := 0x434E4C56
def State.imgFormat (s : State) (c : CastRun) : Nat := s.imgAt c 4 2
def State.imgLen (s : State) (c : CastRun) : Nat := s.imgAt c 8 8
def State.imgId (s : State) (c : CastRun) : W64 := BitVec.ofNat 64 (s.imgAt c 16 8)

/-- The header read, and the whole image. -/
def State.headTake (s : State) (c : CastRun) (readOk : Bool) : Bool × State := s.imgTake c readOk 256
def State.allTake (s : State) (c : CastRun) (readOk : Bool) : Bool × State := s.imgTake c readOk (s.imgLen c)

/-- A section entry. -/
structure Section where
  index  : Nat
  type   : Nat
  slot   : Nat
  byslot : Bool
  pol    : Nat
  crc    : Nat
  off    : Nat
  len    : Nat
  dest   : Nat
  deriving DecidableEq, Repr

def State.sectionAt (s : State) (c : CastRun) (i : Nat) : Section :=
  let b := s.img c (s.imgAt c 24 8 + 32 * i) 32
  let w := leAt b 0 8
  ⟨i, bits w 7 0, bits w 22 16, bit w 23, bits w 26 24, bits w 63 32, leAt b 8 8, leAt b 16 8, leAt b 24 8⟩
def State.sections (s : State) (c : CastRun) : List Section := (List.range (s.imgAt c 32 4)).map (s.sectionAt c)
def State.sectBytes (s : State) (c : CastRun) (x : Section) : List Byte := s.img c x.off x.len

def sManifest : Nat := 1
def sReg : Nat := 2
def sPeat : Nat := 3
def sMire : Nat := 4
def sPour : Nat := 5
def sServers : Nat := 6

/-- Step 1: the header. (DEDUCED: log entry 55) -/
def State.headerOk (s : State) (c : CastRun) : Bool :=
  let h := s.img c 0 256
  let f := leAt h 4 2
  leAt h 0 4 = imgMagic && (crc32c (h.take 252)).toNat = leAt h 252 4 && decide (leAt h 8 8 ≤ c.len) && decide (1 ≤ f) &&
    decide (f ≤ 3) && leAt h 24 8 % 32 = 0 && decide (1 ≤ leAt h 32 4) && decide (leAt h 32 4 ≤ 65536) &&
    decide (leAt h 24 8 + 32 * leAt h 32 4 ≤ leAt h 8 8)

/-- A digest part of 16 MiB, the signature block read as zero. -/
def chunkSize : Nat := 2 ^ 24
def State.imgChunk (s : State) (c : CastRun) (i : Nat) : List Byte :=
  let a := chunkSize * i
  let n := min chunkSize (s.imgLen c - a)
  let so := s.imgAt c 40 8
  let sl := s.imgAt c 48 4
  (List.range n).map (fun j => if so ≤ a + j && a + j < so + sl then 0 else (s.img c (a + j) 1).getD 0 0)
/-- The image digest (R594). -/
def State.imgDigest (s : State) (c : CastRun) : List Byte :=
  sha384 ((List.range (ceilDiv (s.imgLen c) chunkSize)).flatMap (fun i => sha384 (s.imgChunk c i)))

/-- Step 2: the cause of SIG_STAT, 0 when the signature block passes (R595). -/
def State.sigCause (s : State) (c : CastRun) : Nat :=
  let so := s.imgAt c 40 8
  let sl := s.imgAt c 48 4
  let b := s.img c so 112
  let k := s.keySlot (leAt b 2 1)
  if sl ≠ 112 || s.imgLen c < so + sl then 1
  else if leAt b 0 2 ≠ 1 || leAt b 3 1 ≠ 0 || leAt b 12 4 ≠ 0 then 5
  else if 3 < leAt b 2 1 || !k.full || k.revoked || k.usage % 2 = 0 then 2
  else if (b.drop 4).take 8 ≠ (sha384 k.point).take 8 then 3
  else if !ecdsaVerify k.point (s.imgDigest c) ((b.drop 16).take 48) ((b.drop 64).take 48) then 4
  else 0

/-- A section's type is one that the format allows. -/
def typeAllowed (f t : Nat) : Bool := decide (1 ≤ t) && (if f = 1 then decide (t ≤ 4) else decide (t ≤ 6))
/-- Step 3: the first section whose bytes do not match its CRC or lie beyond the image. (DEDUCED: log entry 55) -/
def State.badCrc (s : State) (c : CastRun) : Option Section :=
  (s.sections c).find? (fun x => decide (s.imgLen c < x.off + x.len) || (crc32c (s.sectBytes c x)).toNat ≠ x.crc)
def State.badType (s : State) (c : CastRun) : Option Section := (s.sections c).find? (fun x => !typeAllowed (s.imgFormat c) x.type)
def State.manifest (s : State) (c : CastRun) : Option Section :=
  match (s.sections c).filter (fun x => x.type = sManifest) with
  | [x] => if 12608 ≤ x.len then some x else none
  | _ => none

/-! ### The manifest (R365) -/

def bedEnt (m : List Byte) (b i : Nat) : Nat := leAt m (320 + 48 * b + 8 * i) 8
def polderEnt (m : List Byte) (p : Nat) : PolderEnt :=
  let b := m.drop (64 + 32 * p)
  let w := leAt b 0 8
  ⟨p, bits w 3 0, bits w 7 4, bits w 11 8, bits w 15 12, ((b.drop 8).take 8).map (·.toNat) |>.filter (· ≠ 0xFF), leAt b 16 16⟩
def polderEnts (m : List Byte) : List PolderEnt := ((List.range 8).filter (fun p => bit (leAt m 0 1) p)).map (polderEnt m)
def bedValidAt (m : List Byte) (b : Nat) : Bool := bit (bedEnt m b 0) 48
def bedPlan (m : List Byte) (b : Nat) : BedPlan :=
  ⟨b, bits (bedEnt m b 1) 21 20, bedEnt m b 2, bits (bedEnt m b 3) 31 0, bits (bedEnt m b 1) 63 32,
    (List.range 8).map (fun d => bits (bedEnt m b 4) (8 * d + 7) (8 * d))⟩
def bedPlans (m : List Byte) : List BedPlan := ((List.range 256).filter (bedValidAt m)).map (bedPlan m)
def startList (m : List Byte) : List Nat := (List.range (leAt m 8 8)).map (fun i => leAt m (12608 + 4 * i) 4)

def inRect (e : PolderEnt) (x y : Nat) : Bool := decide (e.x0 ≤ x) && decide (x ≤ e.x1) && decide (e.y0 ≤ y) && decide (y ≤ e.y1)
def rectsMeet (a b : PolderEnt) : Bool :=
  decide (a.x0 ≤ b.x1) && decide (b.x0 ≤ a.x1) && decide (a.y0 ≤ b.y1) && decide (b.y0 ≤ a.y1)

/-- Polder, entry and exit slot of a bed of the table. -/
def bedSpan (m : List Byte) (b : Nat) : Nat × Nat × Nat :=
  (bits (bedEnt m b 0) 2 0, bits (bedEnt m b 0) 19 13, bits (bedEnt m b 0) 26 20)

/-- Step 4: the limits of R21, R22 and R240 and the ranges of the bed table. (DEDUCED: log entry 55) -/
def manifestOk (m : List Byte) : Bool :=
  let ps := polderEnts m
  let beds := (List.range 256).filter (bedValidAt m)
  let w := leAt m 0 8
  let field (b hi lo : Nat) : Nat := bits (bedEnt m b 0) hi lo
  decide (bits w 24 16 ≤ 256) && decide (bits w 36 32 ≤ 16) && decide (12608 + 4 * leAt m 8 8 ≤ m.length) &&
  ps.all (fun e => decide (e.x0 ≤ e.x1) && decide (e.y0 ≤ e.y1) && decide (e.x1 < 10) && decide (e.y1 < 10) &&
    e.spares.all (fun i => decide (i < 80) && inRect e (siteOf i).1 (siteOf i).2)) &&
  ps.all (fun a => ps.all (fun b => a.pol = b.pol || !rectsMeet a b)) &&
  beds.all (fun b =>
    let (p, e, x) := bedSpan m b
    bit (bits w 7 0) p && decide (e ≤ x) && decide (1 ≤ field b 33 27) && decide (field b 33 27 ≤ 64) &&
    decide (1 ≤ field b 40 34) && decide (field b 40 34 ≤ 64) && decide (1 ≤ field b 47 41) && decide (field b 47 41 ≤ 64) &&
    decide (bits (bedEnt m b 1) 21 20 < 3) && (bedPlan m b).allot.all (fun a => decide (a ≤ 128)) &&
    beds.all (fun c =>
      let (q, e2, x2) := bedSpan m c
      b = c || p ≠ q || decide (x < e2) || decide (x2 < e)))

/-! ### The rate check (R372) -/

/-- A live Ethernet port (R371). -/
def State.portLive (s : State) (e : Nat) : Bool := s.rb (ethPage e) Reg.ETH_STAT 0 && s.rb (ethPage e) Reg.ETH_CTL 0
/-- The usable rate of a sluice die in units of 0.05 GB/s. -/
def State.usable20 (s : State) (d : Nat) : Nat :=
  ((List.range 2).map (fun p =>
    let e := 2 * d + p
    if s.portLive e then 1960 / 2 ^ s.rf (ethPage e) Reg.ETH_STAT 2 1 else 0)).sum
/-- The check on the poured beds of a casting. (DEDUCED: log entry 55) -/
def State.rateOk (s : State) (l : List BedPlan) : Bool :=
  let poured := l.filter (fun b => b.tier = 2)
  poured.all (fun b =>
    let rate := ((List.range 8).map (fun d => b.allot.getD d 0 * s.usable20 d)).sum
    decide (0 < rate) && decide (b.weight * 2560 ≤ b.passNs * rate) && decide (4 * b.passNs ≤ b.wdogNs)) &&
  (List.range 8).all (fun d => decide ((poured.map (fun b => b.allot.getD d 0)).sum ≤ 128))

/-- USABLE of every POUR page, and the check run again for the casting in force. -/
def State.recheckRate (s : State) : State :=
  let s := (List.range 8).foldl (fun (s : State) d => s.setRf (pourPage d) Reg.POUR_STAT 15 0 (s.usable20 d / 2)) s
  if s.castInForce && !s.rateOk s.casting.plans then s.raise castPage 3 else s

/-- An Ethernet link comes up, goes down or changes its rate (R417). A link comes up at no more than MAX_RATE. -/
def execEthLinkChange (eth : EthIx) (up : Bool) (rate : BitVec 3) (s : State) : Out State :=
  let pg := ethPage eth
  let was := s.rb pg Reg.ETH_STAT 0
  let r := rate.toNat
  if up && (!s.rb pg Reg.ETH_CTL 0 || s.domCode (80 + eth.val / 2) (1 + eth.val % 2) ≠ 2 || decide (3 < r) ||
      decide (r < s.rf pg Reg.ETH_CTL 2 1)) then .next s
  else
    let old := s.rf pg Reg.ETH_STAT 2 1
    let t := s.setFields pg Reg.ETH_STAT [(0, 0, b2n up), (2, 1, if up then r else old)]
    let t := if was && !up then t.raise pg 0 else t
    let t := if up && old ≠ r then t.raise pg 1 else t
    .next t.recheckRate

/-! ### Starting a load (R366, R410) -/

/-- LOAD_BUSY. -/
def State.loadBusy (s : State) : State := s.raise castPage 7

/-- A load starts checking, for the requester that asked for it. -/
def State.startLoad (s : State) (who : Requester) : State :=
  let c : CastRun :=
    { src := s.rf castPage Reg.CAST_SRC 1 0, addr := (s.reg castPage Reg.CAST_ADDR).toNat, len := s.rf castPage Reg.CAST_LEN 39 0,
      was := castState s, since := s.up, who := who }
  { s.setFields castPage Reg.CAST_STAT [(2, 0, csChecking), (7, 4, 0)] with castRun := some c }

/-- What a write of CAST_SRC, CAST_ADDR, CAST_LEN or CAST_GO does. Before READY of bring-up a load is refused as busy (R553). -/
def castHook (w : WEff) (old : State) (who : Requester) : State :=
  if w.off = Reg.CAST_GO then
    let s := w.st.zeroBits castPage Reg.CAST_GO 1
    if !w.fires 0 then s else if old.loading || old.phase ≠ 11 then s.loadBusy else s.startLoad who
  else if w.off = Reg.CAST_SRC || w.off = Reg.CAST_ADDR || w.off = Reg.CAST_LEN then
    if old.loading && w.mask ≠ 0 then (w.st.keepReg old castPage w.off).loadBusy else w.st
  else w.st

def execCastingLoad (who : Requester) (v : W64) (s : State) : Out State :=
  .next (castHook (s.writeCore who castPage Reg.CAST_GO .b64 (setBit v 0 true)) s who)

/-- The LOAD command that started the load in progress. -/
def State.loadCmd (s : State) : Option HostCmd := s.cmds.find? (fun c => c.opcode = 3 && c.stage = .started)
def State.endLoadCmd (s : State) (code : Nat) : State :=
  match s.loadCmd with
  | some c => s.complete c { code := code, emitted := s.rf castPage Reg.CAST_STAT 7 4 }
  | none => s

/-- LOAD (R410). -/
def execLoad (port : HostPort) (q : Fin 64) (s : State) : Out State :=
  match s.fetched port q 3 with
  | none => .next s
  | some c =>
    let mire := bit (c.w 0) 8
    if bits (c.w 0) 15 9 ≠ 0 || bits (c.w 0) 63 32 ≠ 0 || bits (c.w 2) 63 40 ≠ 0 || !c.zeroFrom 3 then
      .next (s.complete c { code := csBadField })
    else if s.rf hsemPage (Reg.SEM 2) 1 0 ≠ whoCode (portWho port) then .next (s.complete c { code := csSem })
    else if s.loading || s.phase ≠ 11 then .next (s.loadBusy.complete c { code := csLoadBusy })
    else
      let src := if mire then 0 else whoCode (portWho port)
      let s := ((s.setRf castPage Reg.CAST_SRC 1 0 src).setReg castPage Reg.CAST_ADDR (BitVec.ofNat 64 (c.w 1))).setRf
        castPage Reg.CAST_LEN 39 0 (bits (c.w 2) 39 0)
      .next ((s.startLoad (portWho port)).stageOf c .started)

/-! ### Failure (R368) -/

/-- CAST_STAT after a failure. -/
def State.failedStat (s : State) (st cause sect : Nat) : State :=
  s.setFields castPage Reg.CAST_STAT [(2, 0, st), (7, 4, cause), (63, 32, sect)]

/-- A failure in steps 1 to 5: CAST_STAT.STATE returns to what it was. -/
def State.failEarly (s : State) (c : CastRun) (cause sect : Nat) : State :=
  let s := { s with castRun := none }
  ((s.failedStat c.was cause sect).raise castPage 6).endLoadCmd csLoadFail

/-- CAST_STAT.SECTION as it stands: a failure that no section causes leaves it at the section placed last (DEDUCED).
(DEDUCED: log entry 57) -/
def State.sectionNow (s : State) : Nat := s.rf castPage Reg.CAST_STAT 63 32

/-- A failure in steps 6 to 10: the engine is left without a casting. (DEDUCED: log entries 58, 63) -/
def State.failLate (s : State) (cause sect : Nat) : State :=
  let s := s.stopAll
  let s := { s with castRun := none, casting := {}, pours := Store.mapVals {} (fun _ d => { d with pulls := [], done := [] }) s.pours }
  let s := (List.range 256).foldl (fun (s : State) b => s.setBedReg b Reg.BED_CFG0 (setBit (s.bedReg b Reg.BED_CFG0) 48 false)) s
  let s := (s.failedStat csFailed cause sect).raise castPage 6
  (s.log castPage 9 2 (s.reg castPage Reg.CAST_STAT) (s.reg castPage Reg.CAST_ID)).endLoadCmd csLoadFail

/-! ### The end of checking (R367 steps 1 to 5) -/

/-- A REG record: page, byte offset and value. -/
structure RegRec where
  page : Nat
  off  : Nat
  val  : W64
  deriving DecidableEq, Repr

def regRecs (b : List Byte) : List RegRec :=
  (List.range (b.length / 16)).map (fun i =>
    let w := leAt b (16 * i) 8
    ⟨bits w 15 0, bits w 27 16, BitVec.ofNat 64 (leAt b (16 * i + 8) 8)⟩)
/-- Whether a record lies on a page of a class; a section with BYSLOT gives the block within the tile. -/
def recOn (cls : Nat) (x : Section) (r : RegRec) : Bool :=
  match pageInfo (if x.byslot then tilePage 0 (r.page % 64) else r.page) with | some p => decide (p.cls = cls) | none => false
/-- The vocabulary limit of R22, over the records that give RID_VOCAB. -/
def State.vocabOk (s : State) (c : CastRun) : Bool :=
  ((s.sections c).filter (fun x => x.type = sReg)).all (fun x => (regRecs (s.sectBytes c x)).all (fun r =>
    !(recOn 0x14 x r && r.off = Reg.RID_VOCAB) || decide (fld r.val 18 0 ≤ 262144)))

/-- The first check of steps 1, 3 and 4 that fails, as (cause, section); the signature is judged between them.
(DEDUCED: log entry 55) -/
def State.checkSections (s : State) (c : CastRun) : Option (Nat × Nat) :=
  match s.badCrc c with
  | some x => some (lcSectionCrc, x.index)
  | none => match s.badType c with
    | some x => some (lcFormat, x.index)
    | none => match s.manifest c with
      | none => some (lcFormat, 0)
      | some x =>
        let m := s.sectBytes c x
        let plans := bedPlans m
        if s.imgFormat c < 3 && plans.any (fun b => b.tier = 2) then some (lcFormat, x.index)
        else if !manifestOk m || !s.vocabOk c then some (lcLimits, x.index)
        else if (List.range 32).any (fun j => s.stackState j ≠ 2) then some (lcStackDown, x.index)
        else if !s.rateOk plans then some (lcRate, x.index)
        else none

/-- Every BIND that has started and not made its stream BOUND is refused (step 5). -/
def State.refuseBinds (s : State) : State :=
  (s.cmds.filter (fun c => c.opcode = 1 && c.stage = .begun)).foldl (fun (s : State) c =>
    s.complete c { code := csNoModel, stream := c.streamNo, gen := c.genNo }) s

end Sys2Proof.Machine
end

