-- ==== Sys2Proof/Machine/Image.lean ====
section
/-! DEFINITION. The KV plan of a polder, slot images with their mirrors, and page-table entries as the engine itself writes them
(R219, R350, R537, R624). -/
namespace Sys2Proof.Machine

/-! ### Slot images (R537) -/

/-- An extent of a slot image: peat offset, mire address, length, and whether it is a mirror. -/
structure Extent where
  peat   : Nat
  mire   : Nat
  len    : Nat
  mirror : Bool
  deriving DecidableEq, Repr

/-- The address and the length of a slot's extent list. -/
def State.imageList (s : State) (pol slot : Nat) : Nat × Nat :=
  let at_ := s.rf polderPage (Reg.REFILL pol) 40 0 + 16 * slot
  (bits (leNat (s.readMire at_ 8)) 40 0, bits (leNat (s.readMire (at_ + 8) 8)) 23 0)

def State.extentAt (s : State) (a : Nat) : Extent :=
  let b := s.readMire a 32
  ⟨bits (leAt b 0 8) 32 0, bits (leAt b 8 8) 40 0, bits (leAt b 16 8) 39 0, bit (leAt b 24 8) 0⟩

def State.extents (s : State) (pol slot : Nat) : List Extent :=
  let (a, n) := s.imageList pol slot
  (List.range n).map (fun i => s.extentAt (a + 32 * i))

/-- The extents of a slot's image as the engine reads them: none where a controller refuses the list. -/
def State.readExtents (s : State) (pol slot : Nat) : List Extent × State :=
  match s.mireTake [(s.rf polderPage (Reg.REFILL pol) 40 0 + 16 * slot, 16), ((s.imageList pol slot).1, 32 * (s.imageList pol slot).2)] with
  | (true, t) => (s.extents pol slot, t)
  | (false, t) => ([], t)

/-- The part of a peat range that an extent covers, as (offset in the range, mire address, bytes). -/
def Extent.part (e : Extent) (off n : Nat) : Option (Nat × Nat × Nat) :=
  let lo := max e.peat off
  let hi := min (e.peat + e.len) (off + n)
  if lo < hi then some (lo - off, e.mire + (lo - e.peat), hi - lo) else none

/-- The logical slot that a tile holds. -/
def State.ownSlot (s : State) (tile : Nat) : Option Nat := (s.slotsOf tile (s.polderOf tile)).head?

/-- The polder and slot of a tile as one number. -/
def State.slotKey (s : State) (tile : Nat) : Nat := s.polderOf tile * 128 + (s.ownSlot tile).getD 127

/-- A write to the mirrors of a tile's slot image. (DEDUCED: log entry 54) -/
def State.writeMirrors (s : State) (tile off : Nat) (bs : List Byte) : State :=
  match s.ownSlot tile with
  | none => s
  | some k =>
    let (l, s) := s.readExtents (s.polderOf tile) k
    (l.filter (·.mirror)).foldl (fun (s : State) e =>
      match e.part off bs.length with
      | some (i, a, n) => (s.mireServeWrite a ((bs.drop i).take n)).2
      | none => s) s

/-- A change of a stream map, a page table or a riddle record: peat and its mirror in one operation. Bytes past the end of the
peat have no place. (DEDUCED: log entry 54) -/
def State.writeMirrored (s : State) (tile off : Nat) (bs : List Byte) : State :=
  let bs := bs.take (peatSize - off)
  (s.writePeat tile off bs).writeMirrors tile off bs

/-! ### Page-table entries (R219, R350) -/

/-- A page-table entry as the banks hold it. -/
def State.pageEntry (s : State) (tile entry : Nat) : PageEnt := .ofBytes (s.readPeat tile entry 16)

/-- Bytes 0 to 7 of an entry, as one write. -/
def State.setPageEntry (s : State) (tile entry st peat : Nat) : State :=
  s.writeMirrored tile entry (leBytes 8 (st + peat * 2 ^ 8))

/-- Bytes copied into peat, no further than its end. -/
def State.fillPeat (s : State) (tile off : Nat) (bs : List Byte) : State := s.writePeat tile off (bs.take (peatSize - off))

/-! ### The KV plan (R624) -/

/-- An entry of a KV plan: the logical slot and the peat offset of a context block. -/
structure PlanEnt where
  slot : Nat
  ctx  : Nat
  deriving DecidableEq, Repr

def State.planEnt (s : State) (a : Nat) : PlanEnt :=
  ⟨bits (leNat (s.readMire a 8)) 6 0, bits (leNat (s.readMire (a + 8) 8)) 32 0⟩

/-- Where a polder's plan lies in the mire. -/
def State.planRange (s : State) (pol : Nat) : Nat × Nat :=
  (s.rf polderPage (Reg.POLD_KV pol) 40 0, 16 * s.rf polderPage (Reg.POLD_KV pol) 63 48)
def State.kvPlan (s : State) (pol : Nat) : List PlanEnt :=
  let base := s.rf polderPage (Reg.POLD_KV pol) 40 0
  (List.range (s.rf polderPage (Reg.POLD_KV pol) 63 48)).map (fun i => s.planEnt (base + 16 * i))

/-- The context block of a plan entry on a tile; none when it breaks R210 or R211. -/
def State.planCtx (s : State) (tile ctx : Nat) : Option KvCtx :=
  if ctx % 16 ≠ 0 || peatSize < ctx + 16 then none
  else
    let k := KvCtx.ofBytes (s.readPeat tile ctx 16)
    if k.ok k.page && (kvFmt k.fmt).isSome then some k else none

/-- Bytes of one record of a block: its KVFMT at the head dimension of the instructions that use it, 64, 128 or 256 (R209). -/
def kvRecSize (key ctx : Nat) (k : KvCtx) : Nat :=
  match kvFmt k.fmt with
  | some f => kvRecBytes f (64 * 2 ^ (Config.headDim key ctx % 3))
  | none => 0

/-- Bytes of the page that a page-table entry of a tile describes (R218): those of the block whose table, for some stream, holds the
entry. -/
def State.pageBytes (s : State) (tile entry : Nat) : Nat :=
  let key := s.slotKey tile
  let holds (k : KvCtx) : Bool := s.streams.any (fun x =>
    let e := MapEntry.ofBytes (s.readPeat tile (k.map + 32 * x.1) 32)
    e.valid && decide (e.base ≤ entry) && decide (entry < e.base + 16 * 2 ^ e.log2))
  let mine := (s.kvPlan (s.polderOf tile)).filter (fun e => some e.slot = s.ownSlot tile)
  match mine.findSome? (fun e => (s.planCtx tile e.ctx).bind (fun k =>
      if k.page && holds k then some (k.heads * 256 * kvRecSize key e.ctx k) else none)) with
  | some n => n
  | none => Config.pageBytes key entry

end Sys2Proof.Machine
end

