-- ==== Sys2Proof/Machine/Pour.lean ====
section
/-! DEFINITION. Pours: requests, frames, the ladle's drain, staging, credit, STOP, sessions and their handshake (R369 to R380,
R596, R597). -/
namespace Sys2Proof.Machine

/-! ### Extents and servers (R370, R371, R379) -/

def State.ext (s : State) (e : Nat) : Option PourExt := s.casting.exts[e]?
def State.pullOf (s : State) (d e : Nat) : Option Pull := (s.pour d).pulls.find? (fun p => p.ext = e)
def State.setPull (s : State) (d : Nat) (p : Pull) : State :=
  let x := s.pour d
  let rest := x.pulls.filter (fun q => q.ext ≠ p.ext)
  s.setPour d { x with pulls := rest ++ [p] }
def State.dropPull (s : State) (d e : Nat) : State :=
  let x := s.pour d
  s.setPour d { x with pulls := x.pulls.filter (fun q => q.ext ≠ e) }

/-- An extent that some die has drained in the current cycle. -/
def State.extDone (s : State) (e : Nat) : Bool := (List.range 8).any (fun d => (s.pour d).done.contains e)
/-- The die that requests an extent: for a load pour, die e mod 8 or the next one clockwise with a live port. -/
def State.extDie (s : State) (e : Nat) (x : PourExt) : Option Nat :=
  if x.kind = 2 then some x.die
  else ((List.range 8).map (fun j => (e + j) % 8)).find? (fun d => s.portLive (2 * d) || s.portLive (2 * d + 1))
/-- Whether a die has an extent to fetch now. -/
def State.extNeeded (s : State) (d e : Nat) : Bool :=
  match s.ext e with
  | none => false
  | some x =>
    s.rb (pourPage d) Reg.POUR_CTL 0 && !s.extDone e && decide (s.extDie e x = some d) &&
    (List.range 8).all (fun c => c = d || (s.pullOf c e).isNone) &&
    (if x.kind = 2 then s.castInForce && !(s.pour d).held.contains x.pol else decide (castState s = csPouring))

/-- The server of an extent after those that failed: (n + e) mod SERVERS and on, without invalid, failed and skipped entries; n is the
device number that the load found (R455). -/
def State.serverFor (s : State) (d e : Nat) (failed : List Nat) : Option Nat :=
  let k := s.casting.nServers
  ((List.range k).map (fun j => (s.casting.device + e + j) % k)).find? (fun k =>
    (s.casting.servers[k]?.map (·.valid)).getD false && !failed.contains k && decide (Store.get 0 (s.pour d).downs k < 3))

/-- POUR_LAST. -/
def State.pourLast (s : State) (d cause k e : Nat) : State :=
  s.setReg (pourPage d) Reg.POUR_LAST (word [(0, cause), (4, k), (8, e % 2 ^ 24), (32, s.ts)])

/-- Every server has failed an extent. -/
def State.pullFail (s : State) (d e : Nat) : State :=
  let s := ((s.dropPull d e).pourLast d 1 0 e).raise (pourPage d) 0
  match s.ext e with
  | none => s
  | some x =>
    if castState s = csPouring then s.failLate lcPullFail s.sectionNow
    else if x.kind = 2 then
      match s.entryTile x.bed with
      | some i => s.report i 0x0C 0 0
      | none => s
    else s

/-! ### Requests (R376, R379) -/

/-- The runs of an extent that are not in the ladle: offset and length. -/
def missing (len : Nat) (data : Store (Option Byte)) : List (Nat × Nat) :=
  let r := data.foldl (fun (acc : Nat × List (Nat × Nat)) x =>
    (x.1 + 1, if acc.1 < x.1 then acc.2 ++ [(acc.1, x.1 - acc.1)] else acc.2)) (0, [])
  if r.1 < len then r.2 ++ [(r.1, len - r.1)] else r.2

/-- One EXTENT_REQ for each of some runs of an extent. -/
def State.askFor (s : State) (d k : Nat) (x : PourExt) (p : Pull) (runs : List (Nat × Nat)) : State :=
  let s := s.setPull d { p with last := s.up }
  runs.foldl (fun (s : State) r =>
    let q := s.pour d
    let tag := (q.tag + 1) % 2 ^ 32
    let s := s.setPour d { q with tag := tag }
    let a : Ask := ⟨tag, (s.sess d k).epoch, k, r.1, r.2⟩
    let s := match s.pullOf d p.ext with
      | some p => s.setPull d { p with asks := p.asks ++ [a] }
      | none => s
    (s.pourSend d k mReq { tag := tag, epoch := a.epoch, object := x.object, off := x.off + r.1, len := r.2 }).bump
      (pourPage d) 0 1) s
/-- One EXTENT_REQ for each missing run. -/
def State.askRuns (s : State) (d k : Nat) (x : PourExt) (p : Pull) : State := s.askFor d k x p (missing x.len p.data)

/-- Frames that the open requests of a port still expect. -/
def State.portFrames (s : State) (d port : Nat) : Nat :=
  ((s.pour d).pulls.map (fun p => (p.asks.map (fun a =>
    if s.sessPort d a.sess = port then ceilDiv a.len 8192 else 0)).sum)).sum
/-- The port that a request goes to (R371). -/
def State.pickPort (s : State) (d : Nat) : Option Nat :=
  match s.portLive (2 * d), s.portLive (2 * d + 1) with
  | true, true => some (if s.portFrames d 1 < s.portFrames d 0 then 1 else 0)
  | true, false => some 0
  | false, true => some 1
  | false, false => none

/-- The session that a request to a server goes out on: the one that the port to be used has with it. -/
def State.sessTo (s : State) (d server : Nat) : Option Nat :=
  (s.pickPort d).bind (fun port =>
    (List.range 4).find? (fun k => s.sessUp d k && decide (s.sessServer d k = server) && decide (s.sessPort d k = port)))

/-- The open requests of a pull sent anew where its server has a session. (DEDUCED: log entry 64) -/
def State.askAgain (s : State) (d : Nat) (p : Pull) : State :=
  let s := s.setPull d { p with asks := [] }
  match s.ext p.ext, s.sessTo d p.server with
  | some x, some k => s.askRuns d k x { p with asks := [] }
  | _, _ => s

/-- The server of a pull has failed it: the next one is asked. (DEDUCED: log entry 64) -/
def State.nextServer (s : State) (d : Nat) (p : Pull) : State :=
  let failed := p.failed ++ [p.server]
  match s.serverFor d p.ext failed with
  | some k => s.askAgain d { p with server := k, failed := failed, tries := 0 }
  | none => s.pullFail d p.ext

/-- A re-request, of the missing runs or of the whole extent, against RETRY_MAX. (DEDUCED: log entry 64) -/
def State.retryPull (s : State) (d : Nat) (p : Pull) (wipe : Bool) : State :=
  let p : Pull := if wipe then { p with data := [], whole := false } else p
  if max 1 (s.rf (pourPage d) Reg.POUR_CTL 51 48) ≤ p.tries then s.nextServer d p
  else (s.askAgain d { p with tries := p.tries + 1 }).bump (pourPage d) 7 1

/-- A request for an extent, on the session that its server has at the port to be used. -/
def execExtentReq (die : DieIx) (extent : W32) (s : State) : Out State :=
  let d := die.val
  let e := extent.toNat
  match s.ext e with
  | none => .next s
  | some x =>
    let start : Option Pull := match s.pullOf d e with
      | some p => if p.whole || !p.asks.isEmpty then none else some p
      | none => if s.extNeeded d e then (s.serverFor d e []).map (fun k => { ext := e, server := k }) else none
    if (s.pullOf d e).isNone && s.extNeeded d e && (s.serverFor d e []).isNone then .next (s.pullFail d e)
    else match start with
      | none => .next s
      | some p =>
        if 3 ≤ Store.get 0 (s.pour d).downs p.server then .next (s.nextServer d p)
        else match s.sessTo d p.server with
        | some k => .next (s.askRuns d k x p)
        | none => .next s

/-! ### A session fails (R380) -/

def State.failSession (s : State) (d k : Nat) : State :=
  let server := s.sessServer d k
  let y := s.sess d k
  let hit := (s.pour d).pulls.filter (fun p => p.asks.any (fun a => a.sess = k) && !p.whole)
  let s := (s.setSessState d k ssFailed).dropRequests d k
  let s := s.setSess d k { s.sess d k with eph := none, key := [] }
  let x := s.pour d
  let s := s.setPour d { x with
    downs := Store.set 0 x.downs server (Store.get 0 x.downs server + 1),
    lost := x.lost.filter (fun e => e.1 ≠ y.addr || e.2.1 ≠ y.udp) ++ [(y.addr, y.udp, s.up)] }
  let s := (s.pourLast d 4 k 0).raise (pourPage d) 4
  hit.foldl (fun (s : State) p => match s.pullOf d p.ext with
    | some q => s.nextServer d q
    | none => s) s

/-- A datagram that fails authentication; the 64th in a row ends the session. -/
def State.authFail (s : State) (d k : Nat) : State :=
  let x := s.sess d k
  let s := (((s.setSess d k { x with fails := x.fails + 1 }).bump (pourPage d) 5 1).pourLast d 2 k 0).raise (pourPage d) 1
  if 64 ≤ x.fails + 1 then s.failSession d k else s

/-! ### Frames (R373, R375, R377, R379) -/

/-- The fields of a pour header with the payload behind it. -/
structure PourMsg where
  version : Nat
  type    : Nat
  session : Nat
  seq     : Nat
  tag     : Nat
  epoch   : Nat
  status  : Nat
  object  : Nat
  offset  : Nat
  length  : Nat
  limit   : Nat
  payload : List Byte
  deriving DecidableEq, Repr

def parsePour (b payload : List Byte) : PourMsg :=
  let w (i : Nat) : Nat := leAt b (8 * i) 8
  ⟨bits (w 0) 7 0, bits (w 0) 15 8, bits (w 0) 63 32, w 1, bits (w 2) 31 0, bits (w 2) 47 32, bits (w 2) 55 48, w 3, w 4,
    bits (w 5) 31 0, w 6, payload⟩

/-- Bytes of the frame of a datagram, from the destination MAC address to the FCS (R373). -/
def frameBytes (f : PourFrame) : Nat := 66 + f.data.length
/-- The message as it came, still sealed. -/
def frameMsg (f : PourFrame) : PourMsg := parsePour (f.data.take 64) (f.data.drop 64)

/-- A frame at an Ethernet port: one with a bad FCS or of more than 9,216 bytes is dropped and counted (R373, R417). True: it came
through. (DESIGN CHOICE: log entry 65) -/
def State.frameIn (s : State) (d : Nat) (f : PourFrame) : Bool × State :=
  let e := 2 * d + f.port.val
  if !s.portLive e then (false, s)
  else if !f.fcsOk || decide (9216 < (frameBytes f)) then (false, s.bump (ethPage e) 4 1)
  else (true, (s.bump (ethPage e) 1 1).bump (ethPage e) 3 (frameBytes f))

/-- The session that a datagram belongs to: its identifier, its port, the server's address and ports (R375). -/
def State.sessionOf (s : State) (d : Nat) (f : PourFrame) : Option Nat :=
  (List.range 4).find? (fun k => s.sessState d k ≠ ssNone && decide ((frameMsg f).session = s.sessId d k) &&
    decide (s.sessPort d k = f.port.val) && decide ((s.sess d k).addr = f.src) && decide ((s.sess d k).udp = f.srcPort.toNat) &&
    decide (f.dstPort.toNat = s.rf (pourPage d) Reg.POUR_CTL 31 16) && decide (64 ≤ f.data.length))

/-- A datagram of a type received: it is authenticated, and its session's consecutive failures end with one that passes (R375, R380). -/
def State.received (s : State) (d type : Nat) (f : PourFrame) (go : Nat → PourMsg → State → State) : State :=
  match s.frameIn d f with
  | (false, s) => s
  | (true, t) =>
    match t.sessionOf d f with
    | none => t
    | some k =>
      if (frameMsg f).type ≠ type then s
      else if t.sessState d k = ssFailed then t.bump (pourPage d) 9 1
      else if !t.sessUp d k then t
      else match gcmOpen (t.sess d k).key (pourNonce true (frameMsg f).session (frameMsg f).seq) (f.data.take 64) (f.data.drop 64) with
        | none => t.authFail d k
        | some body =>
          let t := t.setSess d k { t.sess d k with fails := 0 }
          if (frameMsg f).version ≠ 1 then t else go k { frameMsg f with payload := body } t

/-- A received sequence number noted: H, and those that may still be duplicates. -/
def State.noteSeq (s : State) (d k q : Nat) : State :=
  let h := max q (s.sessHigh d k)
  let x := s.sess d k
  (s.setReg (pourPage d) (Reg.SESS_SEQ k) (BitVec.ofNat 64 h)).setSess d k
    { x with got := (q :: x.got).filter (fun n => h ≤ n + 256) }
def State.seqSeen (s : State) (d k q : Nat) : Bool := decide (q + 256 < s.sessHigh d k) || (s.sess d k).got.contains q

/-- Bytes put into an extent's data, with how many were new. -/
def putNew : Store (Option Byte) → Nat → List Byte → Nat → Store (Option Byte) × Nat
  | m, _, [], n => (m, n)
  | m, o, b :: r, n =>
    if (Store.get none m o).isSome then putNew m (o + 1) r n else putNew (Store.set none m o (some b)) (o + 1) r (n + 1)

/-- An extent with every byte present: complete when its CRC matches, else asked for again as a whole. -/
def State.judgeExtent (s : State) (d : Nat) (x : PourExt) (p : Pull) : State :=
  if p.data.length < x.len then s
  else if crc32c (p.data.map (fun b => b.2.getD 0)) = x.crc then s.setPull d { p with whole := true, asks := [] }
  else
    let pg := ladlePage d
    (((s.bump pg 3 1).raise pg 2).pourLast d 5 0 p.ext).retryPull d p true

/-- A frame that belongs to no open request: it lands in the ladle and is discarded. (DESIGN CHOICE: log entry 65) -/
def State.lateFrame (s : State) (d n : Nat) : State :=
  ((s.bump (pourPage d) 9 1).bump (ladlePage d) 0 n).bump (ladlePage d) 4 n

/-- A frame placed by its offset. -/
def State.placeFrame (s : State) (d k : Nat) (m : PourMsg) : State :=
  let n := m.payload.length
  let s := s.bump (pourPage d) 1 1
  match (s.pour d).pulls.find? (fun p => p.asks.any (fun a => a.sess = k && a.tag = m.tag)) with
  | none => s.lateFrame d n
  | some p => match p.asks.find? (fun a => a.sess = k && a.tag = m.tag), s.ext p.ext with
    | some a, some x =>
      let rel := m.offset - x.off
      if m.epoch < (s.sess d k).epoch || m.offset < x.off + a.off || (rel - a.off) % 8192 ≠ 0 || a.off + a.len < rel + n ||
          m.length ≠ n || (n ≠ 8192 && rel + n ≠ a.off + a.len) then s.lateFrame d n
      else
        let (data, new) := putNew p.data rel m.payload 0
        let p : Pull := { p with data := data, last := s.up }
        let old := s
        let s := (((s.setPull d p).bump (pourPage d) 2 new).bump (pourPage d) 4 (n - new)).bump (ladlePage d) 0 n
        (s.ladleNote old d).judgeExtent d x p
    | _, _ => s.lateFrame d n

/-- An EXTENT_DATA datagram of a session. -/
def execExtentData (die : DieIx) (f : PourFrame) (s : State) : Out State :=
  let d := die.val
  .next (s.received d mData f (fun k m t =>
    if t.seqSeen d k m.seq then t.bump (pourPage d) 3 1
    else if (t.sess d k).limit < m.seq then ((t.bump (pourPage d) 6 1).pourLast d 3 k 0).raise (pourPage d) 2
    else (t.noteSeq d k m.seq).placeFrame d k m))

/-- No frame of a request for REQ_TMO_US: its missing runs are requested again. -/
def execReqSilenceTimeout (die : DieIx) (extent : W32) (s : State) : Out State :=
  let d := die.val
  match s.pullOf d extent.toNat with
  | none => .next s
  | some p =>
    let tmo := 1000 * max 1 (s.rf (pourPage d) Reg.POUR_CTL 47 32)
    if p.whole || p.asks.isEmpty || s.up < p.last + tmo then .next s else .next (s.retryPull d p false)

/-- END OK of a request: it is finished, and each run of its range that is missing is requested again at once (R379).
(DEDUCED: log entry 64) -/
def State.endOk (s : State) (d : Nat) (p : Pull) (a : Ask) : State :=
  let q : Pull := { p with asks := p.asks.filter (fun b => b.tag ≠ a.tag) }
  match s.ext p.ext with
  | none => s
  | some x =>
    let runs := (missing x.len p.data).filterMap (fun r =>
      let lo := max r.1 a.off
      let hi := min (r.1 + r.2) (a.off + a.len)
      if lo < hi then some (lo, hi - lo) else none)
    if runs.isEmpty then s.setPull d q
    else if max 1 (s.rf (pourPage d) Reg.POUR_CTL 51 48) ≤ p.tries then s.nextServer d q
    else
      let q : Pull := { q with tries := q.tries + 1 }
      let t := match s.sessTo d p.server with
        | some k => s.askFor d k x q runs
        | none => s.setPull d q
      t.bump (pourPage d) 7 1

/-- An END from a server. -/
def execPourEnd (die : DieIx) (f : PourFrame) (s : State) : Out State :=
  let d := die.val
  .next (s.received d mEnd f (fun k m t =>
    if t.seqSeen d k m.seq then t.bump (pourPage d) 3 1
    else
      let t := t.noteSeq d k m.seq
      if m.tag = 0xFFFFFFFF then
        if m.status = 1 && t.sessState d k = ssStopping then t.setSessState d k ssOpen else t
      else match (t.pour d).pulls.find? (fun p => p.asks.any (fun a => a.sess = k && a.tag = m.tag)) with
        | none => t
        | some p => match p.asks.find? (fun a => a.sess = k && a.tag = m.tag) with
          | none => t
          | some a => if m.status = 0 then t.endOk d p a else if m.status = 2 || m.status = 3 then t.nextServer d p else t))

/-! ### Draining (R374, R379) -/

/-- The streaming extents of a bed that a die fetches, in table order. -/
def State.bedExts (s : State) (d bed : Nat) : List Nat :=
  (List.range s.casting.exts.length).filter (fun e => match s.ext e with
    | some x => x.kind = 2 && decide (x.bed = bed) && decide (x.die = d)
    | none => false)
/-- A streaming extent's turn: every earlier one of its bed has drained in this cycle. -/
def State.extTurn (s : State) (d e bed : Nat) : Bool :=
  (s.bedExts d bed).all (fun c => decide (e ≤ c) || (s.pour d).done.contains c)

/-- A packet of a sluice die finds a way to a tile (R322, R324). -/
def State.dieReaches (s : State) (d pol tile : Nat) : Bool :=
  let gw := dieGateway d tile
  !Store.get false s.dieFence gw && s.hasRoute (s.pickSet .rim pol gw tile) gw tile

/-- A staging slot probed as a tagged writer, the extent as rows of 4,096 bytes (R198, R374). (DESIGN CHOICE: log entry 66) -/
def execStagingProbe (die : DieIx) (extent : W32) (s : State) : Out State :=
  let d := die.val
  let e := extent.toNat
  match s.pullOf d e, s.ext e with
  | some p, some x =>
    if x.kind ≠ 2 || !p.whole || p.stage ≠ .ladle || !s.extTurn d e x.bed then .next s
    else match s.castTile x.pol x.slot with
      | none => .next s
      | some i =>
        if !s.dieReaches d x.pol i then .next s
        else
          let (tag, t) := s.takeTag
          .next ((t.dieSend d x.pol
            { dst := i, op := opProbe, addr := x.addr, tag := tag, operand := x.len + 2 ^ 62,
              payload := leBytes 4 4096 ++ leBytes 4 (ceilDiv x.len 4096) ++ leBytes 4 1 ++ leBytes 4 4096 ++ leBytes 8 0 }).setPull d
            { p with stage := .probing, tag := tag })
  | _, _ => .next s

/-- An extent has reached its destination: its bytes leave the ladle, and after a bed's last extent its next cycle begins. -/
def State.extDrained (s old : State) (d e : Nat) (x : PourExt) : State :=
  let s := s.dropPull d e
  let q := s.pour d
  let done := q.done ++ [e]
  let cycle := s.bedExts d x.bed
  let done := if x.kind = 2 && cycle.all done.contains then done.filter (fun c => !cycle.contains c) else done
  (((s.setPour d { q with done := done }).bump (ladlePage d) 1 x.len).bump (ladlePage d) 2 1).ladleNote old d

/-- What the check of a word of the ladle found, recorded, counted and raised (R383, R384). -/
def State.ladleEcc (s : State) (d : Nat) (e : EccResult) (word_ : Nat) : State :=
  let pg := ladlePage d
  let note (ue : Bool) : State :=
    let s1 := if s.rb pg Reg.LADLE_ECC 26 && !ue && s.rb pg Reg.EVT_RAW 1 then s
      else s.setReg pg Reg.LADLE_ECC (word [(3, word_), (26, b2n ue), (32, s.ts)])
    (s1.bump pg (if ue then 6 else 5) 1).raise pg (if ue then 1 else 0)
  match e with
  | .clean => s
  | .corrected _ => note false
  | .uncorrectable => note true

/-- A complete extent drains: into the mire at once, into a tile as WR packets, which for a staging slot follow its GRANT. `e` is what
the check of its ladle words found, in the word `w`; an uncorrectable one asks for the extent again (R317, R374, R379).
(DEDUCED: log entry 113; DESIGN CHOICE: log entry 66) -/
def execExtentDrain (die : DieIx) (extent : W32) (e : EccResult) (w : BitVec 23) (s : State) : Out State :=
  let d := die.val
  let n := extent.toNat
  match s.pullOf d n, s.ext n with
  | some p, some x =>
    let bs := p.data.map (fun b => b.2.getD 0)
    if !p.whole || p.stage ≠ (if x.kind = 2 then .granted else .ladle) then .next s
    else if e = .uncorrectable then
      .next ((s.ladleEcc d e w.toNat).retryPull d { p with stage := .ladle } true)
    else if x.kind = 1 then
      match (s.ladleEcc d e w.toNat).mireServeWrite x.addr bs with
      | (true, t) => .next (t.extDrained s d n x)
      | (false, t) => .next t
    else match s.castTile x.pol x.slot with
      | none => .next s
      | some i =>
        if !s.dieReaches d x.pol i then .next s
        else
          let (tag, t) := if x.kind = 2 then (p.tag, s) else s.takeTag
          let t := (writeSends false i x.addr tag (wrOperand x.len 0 false) [(0, bs)]).foldl (fun (t : State) m => t.dieSend d x.pol m)
            (t.ladleEcc d e w.toNat)
          .next (t.setPull d { p with stage := .sent, tag := tag })
  | _, _ => .next s

/-! ### Answers to the sluice die's packets (R198, R332, R374) -/

/-- The pull whose packets carry a tag. -/
def State.pullTagged (s : State) (d tag : Nat) : Option Pull :=
  (s.pour d).pulls.find? (fun p => p.tag = tag && (p.stage = .probing || p.stage = .sent))

/-- Every byte of an extent is visible at its tile. -/
def State.dieMoveDone (s : State) (d : Nat) (p : Packet) : State :=
  match s.pullTagged d p.tag.toNat with
  | none => s
  | some q => match s.ext q.ext with
    | some x => if q.stage = .sent then s.extDrained s d q.ext x else s
    | none => s

/-- A GRANT delivered to a tile or a sluice die (R198). -/
def execGrant (p : Packet) (s : State) : Out State :=
  if !p.wf then .fault .illFormed
  else if isDie p.dst.toNat then .next (s.ejectDie opGrant p (fun d t =>
    match t.pullTagged d p.tag.toNat with
    | some q => if q.stage = .probing then t.setPull d { q with stage := .granted } else t
    | none => t))
  else .next (s.eject opGrant p (fun tile t => t.tileGrant tile p))

/-- A REFUSE delivered to a tile or a sluice die; the die probes again, and the bytes stay in the ladle (R374).
(DESIGN CHOICE: log entry 26) -/
def execRefuse (p : Packet) (s : State) : Out State :=
  if !p.wf then .fault .illFormed
  else if isDie p.dst.toNat then .next (s.ejectDie opRefuse p (fun d t =>
    match t.pullTagged d p.tag.toNat with
    | some q => t.setPull d { q with stage := .ladle }
    | none => t))
  else .next (s.eject opRefuse p (fun tile t => t.tileRefuse tile p))

/-! ### Credit (R376) -/

/-- Sessions that hold room in the ladle: from their HELLO on. -/
def State.sessHolds (s : State) (d k : Nat) : Bool := s.sessState d k = ssKeying || s.sessUp d k
/-- The frames that a die's sessions other than one may still send, with their margin. -/
def State.promised (s : State) (d k : Nat) : Nat :=
  (((List.range 4).filter (fun j => j ≠ k && s.sessHolds d j)).map (fun j => (s.sess d j).limit - s.sessHigh d j + 256)).sum

/-- CREDIT sent when LIMIT can rise, or when its period is over. -/
def execCredit (die : DieIx) (k : Nat) (s : State) : Out State :=
  let d := die.val
  if 4 ≤ k || !s.sessUp d k then .next s
  else
    let x := s.sess d k
    let room := s.ladleFree d / 8192 - (s.promised d k + 256)
    let limit := max x.limit (s.sessHigh d k + min (max 1 (s.rf (ladlePage d) Reg.LADLE_CTL 11 0)) room)
    let due := x.credit + 1000 * max 1 (s.rf (ladlePage d) Reg.LADLE_CTL 27 16)
    if x.limit < limit || due ≤ s.up then
      .next ((s.setSess d k { x with limit := limit, credit := s.up }).pourSend d k mCredit { limit := limit })
    else .next s

/-! ### STOP (R378, R381) -/

/-- What a write of POUR_STOP does; GO reads 0. -/
def pourStopHook (w : WEff) (d : Nat) : State :=
  let s := w.st.zeroBits (pourPage d) Reg.POUR_STOP 0x100
  if w.fires 8 then s.stopSession d (s.rf (pourPage d) Reg.POUR_STOP 1 0) else s
def execPourStop (who : Requester) (die : DieIx) (v : W64) (s : State) : Out State :=
  .next (pourStopHook (s.writeCore who (pourPage die) Reg.POUR_STOP .b64 (setBit v 8 true)) die)

/-- A STOP without its END STOPPED is sent again, at most 8 times; then the session fails. -/
def execStopResend (die : DieIx) (k : Nat) (s : State) : Out State :=
  let d := die.val
  let x := s.sess d k
  let due := x.at_ + 1000 * max 1 (s.rf (ladlePage d) Reg.LADLE_CTL 39 32)
  if 4 ≤ k || s.sessState d k ≠ ssStopping || s.up < due then .next s
  else if 8 < x.tries then .next (s.failSession d k)
  else
    let s := s.setSess d k { x with tries := x.tries + 1, at_ := s.up }
    .next ((s.pourSend d k mStop { epoch := x.epoch }).bump (pourPage d) 8 1)

/-! ### Handshakes (R596, R597) -/

/-- DESIGN CHOICE: log entry 65. -/
def helloInfo : List Byte := [0x56, 0x4C, 0x4E, 0x20, 0x70, 0x6F, 0x75, 0x72, 0x20, 0x76, 0x31]

/-- HELLO as it stands in the session, sent in clear with SEQ 0. -/
def State.sendHello (s : State) (d k : Nat) : State :=
  s.sendDatagram d k (pourHeader mHello (s.sessId d k) 0 {} ++ (s.sess d k).hello)

/-- A fresh session identifier, one that no session of the die has. -/
def State.newSid (s : State) (d : Nat) : Nat :=
  let r := (Config.random64 s.fresh).toNat
  (((List.range 5).map (fun j => (r + j) % 2 ^ 32)).find? (fun x => (List.range 4).all (fun k => s.sessId d k ≠ x))).getD 0

/-- A new session takes an entry: its ephemeral key, its random value and its HELLO. (DESIGN CHOICE: log entry 104) -/
def State.startHello (s : State) (d k server port : Nat) : State :=
  let n := s.fresh
  let sid := s.newSid d
  let x := s.casting.servers.getD server default
  let body := Config.ephemeralPoint n ++ (Config.randomBytes n 32).take 32 ++ leBytes 4 (s.rf fleetPage Reg.FLEET_ID 17 0) ++
    Config.certChain.take 1024
  let hello := body ++ Config.deviceSign n body
  let s := s.tickFresh.setReg (pourPage d) (Reg.SESS k) (word [(0, sid), (32, ssKeying), (35, port), (36, server)])
  let s := s.setReg (pourPage d) (Reg.SESS_SEQ k) 0
  (s.setSess d k { tries := 1, at_ := s.up, hello := hello, eph := some n, addr := x.addr, udp := x.port }).sendHello d k

/-- Whether a die may have a session with a server: it pours, the entry is valid and not skipped. -/
def State.serverOpen (s : State) (d server : Nat) : Bool :=
  s.rb (pourPage d) Reg.POUR_CTL 0 && (s.casting.servers[server]?.map (·.valid)).getD false &&
    decide (Store.get 0 (s.pour d).downs server < 3)

/-- Whether a die needs a server: a pull asks it, or an extent's turn at it has come. -/
def State.serverNeeded (s : State) (d server : Nat) : Bool :=
  (s.pour d).pulls.any (fun p => !p.whole && p.server = server) ||
  (List.range s.casting.exts.length).any (fun e => s.extNeeded d e && (s.pullOf d e).isNone && s.serverFor d e [] = some server)

/-- After a failed session with a server: 1 s has passed and an extent needs the server (R380). -/
def State.waitedOut (s : State) (d server : Nat) : Bool :=
  let x := s.casting.servers.getD server default
  match (s.pour d).lost.find? (fun e => e.1 = x.addr && decide (e.2.1 = x.port)) with
  | none => true
  | some e => decide (e.2.2 + 1000000000 ≤ s.up) && s.serverNeeded d server

/-- A session may be opened on a port: there is none with the server on it, and the ladle has room for its first frames (R375, R376,
R380). -/
def State.mayOpen (s : State) (d server port : Nat) : Bool :=
  s.serverOpen d server && s.portLive (2 * d + port) && s.waitedOut d server &&
  (List.range 4).all (fun k => !(s.sessHolds d k && decide (s.sessServer d k = server) && decide (s.sessPort d k = port))) &&
  decide ((s.promised d 4 + 256) * 8192 ≤ s.ladleFree d)

/-- A handshake begins in a free entry, or in a failed one. -/
def execHello (die : DieIx) (server : Nat) (port : Fin 2) (s : State) : Out State :=
  let d := die.val
  let entry := match (List.range 4).find? (fun k => s.sessState d k = ssNone) with
    | some k => some k
    | none => (List.range 4).find? (fun k => s.sessState d k = ssFailed)
  if !s.mayOpen d server port then .next s
  else match entry with
    | some k => .next (s.startHello d k server port)
    | none => .next s

/-- A HELLO_ACK: accepted when its signature over both bodies verifies under an enrolled POUR key. (DESIGN CHOICE: log entry 104) -/
def State.takeAck (s : State) (d k : Nat) (b : List Byte) : State :=
  let x := s.sess d k
  let digest := sha384 (x.hello ++ b.take 133)
  let ok : Bool := b.length = 229 && decide (leAt b 129 4 = s.sessId d k) && (decodePoint (b.take 97)).isSome &&
    (List.range 4).any (fun i =>
      let e := s.keySlot i
      e.full && !e.revoked && bit e.usage 1 && ecdsaVerify e.point digest ((b.drop 133).take 48) ((b.drop 181).take 48))
  match x.eph with
  | some n =>
    if !ok then (s.bump secPage 6 1).raise secPage 4
    else
      let secret := Config.sharedSecret n (b.take 97)
      let prk := hkdfExtract ((x.hello.drop 97).take 32 ++ (b.drop 97).take 32) secret
      let key := hkdfExpand prk (helloInfo ++ leBytes 4 (s.sessId d k)) 32
      ((s.setSess d k { x with tries := 0, eph := none, key := key }).setSessState d k ssOpen).bump secPage 5 1
  | none => s

def execHelloAck (die : DieIx) (f : PourFrame) (s : State) : Out State :=
  let d := die.val
  match s.frameIn d f with
  | (false, t) => .next t
  | (true, t) => match t.sessionOf d f with
    | none => .next t
    | some k =>
      if (frameMsg f).type ≠ mAck then .next s
      else .next (if t.sessState d k = ssKeying && (frameMsg f).version = 1 && (frameMsg f).seq = 0 then t.takeAck d k (frameMsg f).payload
        else if t.sessState d k = ssFailed then t.bump (pourPage d) 9 1 else t)

/-- 10 ms without a valid HELLO_ACK: the HELLO is sent again, and after the third the session fails. -/
def execHelloRetry (die : DieIx) (k : Nat) (s : State) : Out State :=
  let d := die.val
  let x := s.sess d k
  if 4 ≤ k || s.sessState d k ≠ ssKeying || s.up < x.at_ + 10000000 then .next s
  else if 3 ≤ x.tries then .next (s.failSession d k)
  else .next ((s.setSess d k { x with tries := x.tries + 1, at_ := s.up }).sendHello d k)

/-- At least 1 s after a failure, a new session to a needed server takes the failed entry. -/
def execSessionReopen (die : DieIx) (server : Nat) (s : State) : Out State :=
  let d := die.val
  match (List.range 4).find? (fun k => s.sessState d k = ssFailed && decide (s.sessServer d k = server)) with
  | none => .next s
  | some k =>
    let port := if s.mayOpen d server (s.sessPort d k) then s.sessPort d k else 1 - s.sessPort d k
    .next (if s.mayOpen d server port then s.startHello d k server port else s)

/-- A session whose numbers reach 2^48 in either direction is closed with END and opened again. -/
def execSessionRollover (die : DieIx) (k : Nat) (s : State) : Out State :=
  let d := die.val
  if 4 ≤ k || !s.sessUp d k || ((s.sess d k).seq < 2 ^ 48 && decide (s.sessHigh d k < 2 ^ 48)) then .next s
  else
    let server := s.sessServer d k
    let port := s.sessPort d k
    let s := (s.stopSession d k).pourSend d k mEnd {}
    let x := s.pour d
    let s := s.setPour d { x with downs := Store.set 0 x.downs server 0 }
    .next (s.startHello d k server port)

/-! ### Fences (R374, R526) -/

/-- A fence stops a polder's streaming requests and discards their bytes. -/
def State.fencePour (s : State) (p d : Nat) : State :=
  let mine (q : Pull) : Bool := match s.ext q.ext with | some x => x.kind = 2 && decide (x.pol = p) | none => false
  let pulls := (s.pour d).pulls.filter mine
  let ks := (List.range 4).filter (fun k => pulls.any (fun q => q.asks.any (fun a => a.sess = k)))
  let old := s
  let s := ks.foldl (fun (s : State) k => s.stopSession d k) s
  let x := s.pour d
  let gone := ((x.pulls.filter mine).map (fun q => q.data.length)).sum
  let own (e : Nat) : Bool := match s.ext e with | some y => y.kind = 2 && decide (y.pol = p) | none => false
  let x : PourDie := { x with
    pulls := x.pulls.filter (fun q => (mine q).not),
    done := x.done.filter (fun e => (own e).not),
    held := if x.held.contains p then x.held else x.held ++ [p] }
  ((s.setPour d x).bump (ladlePage d) 4 gone).ladleNote old d
def State.fencePours (s : State) (p : Nat) : State := (List.range 8).foldl (fun (s : State) d => s.fencePour p d) s
/-- The beds' cycles start again at their first extents. -/
def State.resumePours (s : State) (p : Nat) : State :=
  (List.range 8).foldl (fun (s : State) d =>
    s.setPour d { s.pour d with held := (s.pour d).held.filter (· ≠ p) }) s

end Sys2Proof.Machine
end

