-- ==== Sys2Proof/Machine/Host.lean ====
section
/-! DEFINITION. Binding and the return to FREE, port resets and links, semaphores, the debug aperture and egress datagrams (R385 to
R393, R404 to R408, R415 to R417, R611, R624). -/
namespace Sys2Proof.Machine

/-! ### BIND (R404 to R408) -/

def HostCmd.egress (c : HostCmd) : Bool := bit (c.w 0) 8
def HostCmd.draft (c : HostCmd) : Bool := bit (c.w 0) 9
def HostCmd.linked (c : HostCmd) : Bool := bit (c.w 0) 10
def HostCmd.polder (c : HostCmd) : Nat := bits (c.w 0) 54 52
def HostCmd.cls (c : HostCmd) : Nat := bits (c.w 0) 57 56
def HostCmd.promptAddr (c : HostCmd) : Nat := c.w 1
def HostCmd.promptLen (c : HostCmd) : Nat := bits (c.w 2) 31 0
def HostCmd.maxTokens (c : HostCmd) : Nat := bits (c.w 2) 63 32
def HostCmd.paramAddr (c : HostCmd) : Nat := c.w 3
def HostCmd.tring (c : HostCmd) : Nat := bits (c.w 4) 7 0
def HostCmd.eport (c : HostCmd) : Nat := bits (c.w 4) 11 8
def HostCmd.endpoint (c : HostCmd) : Nat := bits (c.w 4) 15 12
def HostCmd.link (c : HostCmd) : Nat := bits (c.w 4) 27 16
def HostCmd.treeNodes (c : HostCmd) : Nat := bits (c.w 4) 38 32
def HostCmd.treeDepth (c : HostCmd) : Nat := bits (c.w 4) 44 40

/-- The reserved bits of a BIND are zero. -/
def HostCmd.bindZeros (c : HostCmd) : Bool :=
  bits (c.w 0) 15 11 = 0 && !bit (c.w 0) 55 && bits (c.w 0) 63 58 = 0 && bits (c.w 4) 31 28 = 0 && !bit (c.w 4) 39 &&
    bits (c.w 4) 63 45 = 0 && c.zeroFrom 5

/-- The polder has a valid bed and a riddle. -/
def State.polderServes (s : State) (p : Nat) : Bool :=
  !(s.bedsOf p).isEmpty && (match (s.polderTiles p).head? with | some i => decide (0 < s.ridCount i) | none => false)

/-- The link rules of R408. -/
def State.linkOk (s : State) (c : HostCmd) : Bool :=
  if !c.linked then true
  else if c.draft then (s.stream c.link).st = .free
  else
    let x := s.stream c.link
    (x.st = .bound || x.st = .prefill) && x.draft && x.linked && decide (x.link = c.streamNo) &&
      decide (x.promptLen = c.promptLen) && s.draftPolder c.polder = some x.polder

/-- Whether records have where to go. -/
def State.egressOk (s : State) (c : HostCmd) : Bool :=
  c.draft ||
    (if c.egress then s.rb (ethPage c.eport) Reg.ETH_CTL 0 && s.rb (ethPage c.eport) (Reg.EP_CFG1 c.endpoint) 0
     else s.qEn c.port kTr c.tring)

/-- Checks 1 to 7 of R406: the CMD_STATUS and STATUS of the first that fails. (DEDUCED: log entry 74) -/
def State.bindCheck (s : State) (c : HostCmd) : Option Done :=
  let d (code : Nat) : Done := { code := code, stream := c.streamNo, gen := c.genNo }
  let claimed := s.cmds.any (fun o => o.opcode = 1 && o.stage = .begun && decide (o.streamNo = c.streamNo))
  if (s.stream c.streamNo).st ≠ .free || claimed then some (d csStreamBusy)
  else if (s.stream c.streamNo).gen.toNat ≠ c.genNo then some { d csBadGen with gen := (s.stream c.streamNo).gen.toNat }
  else if s.sealHold || !(s.castInForce && s.polderServes c.polder) then some (d csNoModel)
  else if 2 < c.cls || 64 < c.treeNodes || 16 < c.treeDepth || c.promptAddr % 4 ≠ 0 || c.paramAddr % 64 ≠ 0 || !c.bindZeros then
    some (d csBadField)
  else if !s.egressOk c then some (d csBadEgress)
  else if !s.linkOk c then some (d csLinkBad)
  else if c.promptLen = 0 then some { d csRefused with status := stEmptyPrompt }
  else none

/-- A BIND starts: its checks that need no memory are judged, and it claims the stream number. -/
def execBind (port : HostPort) (q : Fin 64) (s : State) : Out State :=
  match s.fetched port q 1 with
  | none => .next s
  | some c =>
    match s.bindCheck c with
    | some d => .next (s.complete c d)
    | none => .next (s.stageOf c .begun)

/-! ### The stream's KV (R217, R624) -/

/-- A context block of the KV plan: the tile, its polder and slot as one number, the block's peat offset and the block. -/
structure KvSpot where
  tile : Nat
  key  : Nat
  ctx  : Nat
  k    : KvCtx
  deriving DecidableEq, Repr

def State.planSpot (s : State) (pol : Nat) (e : PlanEnt) : Option KvSpot :=
  match s.castTile pol e.slot with
  | none => none
  | some i => (s.planCtx i e.ctx).map (fun k => ⟨i, pol * 128 + e.slot, e.ctx, k⟩)

/-- Every block of a polder's plan that can be used. -/
def State.planSpots (s : State) (pol : Nat) : List KvSpot := (s.kvPlan pol).filterMap (s.planSpot pol)
/-- DEDUCED: log entry 74. -/
def State.planOk (s : State) (pol : Nat) : Bool := (s.kvPlan pol).all (fun e => (s.planSpot pol e).isSome)

/-- The positions that a stream can reach (R217). (DEDUCED: log entry 74) -/
def HostCmd.reach (c : HostCmd) : Nat := min (2 ^ 24) (c.promptLen + c.maxTokens + max 1 c.treeDepth)

/-- LOG2 of a page table and of a ring. -/
def pageLog2 (n : Nat) : Nat := ((List.range 17).find? (fun l => n ≤ 256 * 2 ^ l)).getD 16
def ringNeed (n w : Nat) : Nat := min n (w + 63)
def ringLog2 (n w : Nat) : Nat := ((List.range 21).find? (fun l => 8 ≤ l && decide (ringNeed n w ≤ 2 ^ l))).getD 20

/-- POS_LIMIT (R250). -/
def posLimit (n : Nat) (spots : List KvSpot) : Nat :=
  let a := if spots.any (·.k.page) then min (2 ^ 24) (256 * 2 ^ pageLog2 n) else 2 ^ 24
  if spots.any (fun x => !x.k.page && decide (2 ^ 20 < ringNeed n x.k.window)) then min a (2 ^ 20) else a

/-- Bytes of one record of a block. -/
def KvSpot.recBytes (x : KvSpot) : Nat := kvRecSize x.key x.ctx x.k

/-- Bytes of one page of a block (R218). -/
def KvSpot.pageLen (x : KvSpot) : Nat := x.k.heads * 256 * x.recBytes

/-- Where a stream's structures of a block lie: LOG2, the ring or the page table, the ring's mire copy, the tree scratch, and the two
copies of each page. -/
structure KvHome where
  spot   : KvSpot
  log2   : Nat
  base   : Nat
  shadow : Nat
  tree   : Nat
  pages  : List (Nat × Nat)
  deriving DecidableEq, Repr

/-- Memory that the structures of a plan's blocks take already: the blocks and their stream maps. -/
def State.planAreas (s : State) (pol : Nat) : List KvArea :=
  (s.planSpots pol).flatMap (fun x => [⟨false, x.tile, x.ctx, 16, 4096⟩, ⟨false, x.tile, x.k.map, 131072, 4096⟩])

/-- Two ranges of one memory that share a byte. -/
def KvArea.meets (a b : KvArea) : Bool :=
  a.mire = b.mire && (a.mire || a.tile = b.tile) && decide (a.lo < b.lo + b.n) && decide (b.lo < a.lo + a.n)

/-- A reservation under way: what is taken, and the number of the next structure. -/
structure KvTaken where
  areas : List KvArea
  item  : Nat
  deriving DecidableEq, Repr

/-- A place for a structure, apart from everything reserved: a free value where that is possible, else the first gap behind another
structure; none where there is no room. (DESIGN CHOICE: log entry 71) -/
def KvTaken.take (k : KvTaken) (seed stream : Nat) (mire : Bool) (tile size align_ : Nat) : Option (Nat × KvTaken) :=
  let limit := if mire then mireSize else peatSize
  let area (lo : Nat) : KvArea := ⟨mire, tile, lo, size, stream⟩
  let up (x : Nat) : Nat := (x + align_ - 1) / align_ * align_
  let tries := Config.kvPlace seed k.item 0 % ((limit - size) / align_ + 1) * align_ :: 0 :: k.areas.map (fun a => up (a.lo + a.n))
  (tries.find? (fun lo => decide (lo + size ≤ limit) && !k.areas.any (area lo).meets)).map (fun lo =>
    (lo, ⟨k.areas ++ [area lo], k.item + 1⟩))

/-- The copies of some pages. -/
def KvTaken.takePages (k : KvTaken) (seed stream tile size : Nat) : Nat → Option (List (Nat × Nat) × KvTaken)
  | 0 => some ([], k)
  | n + 1 =>
    match k.take seed stream false tile size 1 with
    | none => none
    | some (p, k) => match k.take seed stream true 0 size 1 with
      | none => none
      | some (m, k) => (k.takePages seed stream tile size n).map (fun r => ((p, m) :: r.1, r.2))

/-- The structures of one block. -/
def KvTaken.takeBlock (k : KvTaken) (seed stream reach : Nat) (x : KvSpot) : Option (KvHome × KvTaken) :=
  let r := x.recBytes
  let l := if x.k.page then pageLog2 reach else ringLog2 reach x.k.window
  match k.take seed stream false x.tile (64 * r) 1 with
  | none => none
  | some (tree, k) =>
    if x.k.page then
      match k.take seed stream false x.tile (16 * 2 ^ l) 16 with
      | none => none
      | some (base, k) => (k.takePages seed stream x.tile x.pageLen (2 ^ l)).map (fun p => (⟨x, l, base, 0, tree, p.1⟩, p.2))
    else
      match k.take seed stream false x.tile (r * 2 ^ l) 1 with
      | none => none
      | some (base, k) => (k.take seed stream true 0 (r * 2 ^ l) 1).map (fun p => (⟨x, l, base, p.1, tree, []⟩, p.2))

/-- The structures of every block; none where something has no room (R406 check 10). -/
def KvTaken.takeAll (k : KvTaken) (seed stream reach : Nat) : List KvSpot → Option (List KvHome × KvTaken)
  | [] => some ([], k)
  | x :: r => match k.takeBlock seed stream reach x with
    | none => none
    | some (h, k) => (k.takeAll seed stream reach r).map (fun q => (h :: q.1, q.2))

/-- The map entry of a stream for a block, with the page table where there is one (R212, R219).
(DEDUCED: log entry 72; DESIGN CHOICE: log entry 71) -/
def State.placeKv (s : State) (n : Nat) (g : BitVec 8) (x : KvHome) : State :=
  let t := x.spot.tile
  let s := (x.pages.zip (List.range x.pages.length)).foldl (fun (s : State) (p, j) =>
    s.writeMirrored t (x.base + 16 * j) (leBytes 8 (pgResident + p.1 * 2 ^ 8) ++ leBytes 8 p.2)) s
  s.writeMirrored t (x.spot.k.map + 32 * n)
    (leBytes 8 (x.base + x.log2 * 2 ^ 33 + g.toNat * 2 ^ 38 + 2 ^ 46) ++ leBytes 8 x.shadow ++ leBytes 8 x.tree ++ leBytes 8 0)

/-- Blocks that share a stream map share its entry. (DEDUCED: log entry 72) -/
def distinctMaps (l : List KvSpot) : List KvSpot :=
  l.foldl (fun acc x => if acc.any (fun y => y.tile = x.tile && y.k.map = x.k.map) then acc else acc ++ [x]) []

/-- The structures of a stream, reserved apart from those of every other; none where there is no room. -/
def State.reserveKv (s : State) (n pol reach : Nat) : Option (List KvHome × KvTaken) :=
  (⟨s.kvAreas ++ (List.range 8).flatMap s.planAreas, 0⟩ : KvTaken).takeAll s.fresh n reach (distinctMaps (s.planSpots pol))

/-- DESIGN CHOICE: log entry 71. -/
def State.placeAll (s : State) (n : Nat) (g : BitVec 8) (homes : List KvHome) (taken : KvTaken) : State :=
  homes.foldl (fun (s : State) x => s.placeKv n g x)
    { s.tickFresh with kvAreas := taken.areas.filter (fun a => a.stream < 4096) }

/-- The entries and pages of a stream freed (R252): VALID is cleared and every page is ABSENT. (DEDUCED: log entry 72) -/
def State.freeKv (s : State) (n : Nat) (x : KvSpot) : State :=
  let e := MapEntry.ofBytes (s.readPeat x.tile (x.k.map + 32 * n) 32)
  if !e.valid then s
  else
    let pages := if x.k.page && decide (e.log2 ≤ 16) then List.range (2 ^ e.log2) else []
    let s := pages.foldl (fun (s : State) j => s.setPageEntry x.tile (e.base + 16 * j) pgAbsent 0) s
    s.writeMirrored x.tile (x.k.map + 32 * n) (leBytes 8 0)

/-! ### The end of binding (R406) -/

/-- The riddle record that binding writes (R282, R283), from the parameter block and the prompt. -/
def bindRecord (b : List Byte) (prompt : List Nat) (gstate : Nat) : List Byte :=
  let w (i : Nat) : Nat := leAt b (8 * i) 8
  let n := min 256 prompt.length
  let recip (x : Nat) : Nat := (recip32 (w32 x)).1.toNat
  leBytes 8 (w 0) ++ leBytes 4 (bits (w 1) 31 0) ++ leBytes 4 (recip (bits (w 1) 31 0)) ++ leBytes 8 (w 2) ++
    leBytes 4 (recip (bits (w 2) 63 32)) ++ leBytes 4 (bits (w 3) 63 32) ++ leBytes 8 (bits (w 4) 49 0) ++
    leBytes 8 (bits (w 5) 24 0 + gstate % 2 ^ 24 * 2 ^ 40) ++ leBytes 8 (bits (w 6) 39 0) ++ leBytes 8 (n + n % 256 * 2 ^ 16) ++
    padTo 512 ((b.drop 64).take 512) ++ List.replicate 448 0 ++
    padTo 1024 ((prompt.drop (prompt.length - n)).flatMap (leBytes 4))

/-- A generation held by every tile of a polder (R267). (DEDUCED: log entry 73) -/
def State.spreadGen (s : State) (p n : Nat) : State :=
  (s.polderTiles p).foldl (fun (s : State) i => s.setGenAt i n (s.stream n).gen) s

/-- The context that a BIND fills (R250). -/
def bindStream (s : State) (c : HostCmd) (limit : Nat) : Stream :=
  { st := .bound, gen := (s.stream c.streamNo).gen, polder := c.polder, cls := c.cls, draft := c.draft, linked := c.linked, link := c.link,
    promptLen := c.promptLen, maxTokens := c.maxTokens, posLimit := limit, treeNodes := c.treeNodes, treeDepth := max 1 c.treeDepth,
    bindTs := s.now, since := s.up, port := c.port, genBind := (s.stream c.streamNo).gen, egress := c.egress, tring := c.tring,
    eport := c.eport, endpoint := c.endpoint, promptAddr := c.promptAddr }

/-- The three steps that make a stream BOUND. (DEDUCED: log entry 73) -/
def State.bindNow (s : State) (c : HostCmd) (home : Nat) (params : List Byte) (prompt : List Nat) (limit : Nat)
    (homes : List KvHome) (taken : KvTaken) : State :=
  let n := c.streamNo
  let w5 := leAt params 40 8
  let gstate := if bit w5 22 then s.gramStart home (bits w5 21 16) else 0
  let x := bindStream s c limit
  let s := s.placeAll n x.gen homes taken
  let s := s.writeMirrored home (s.recordAt home n) (bindRecord params prompt gstate)
  let s := ((s.setStream n x).jrnCommit n true 0 0).jrnEmission n 0 gstate
  let s := s.spreadGen c.polder n
  let s := if c.linked && !c.draft then (s.spreadGen (s.stream c.link).polder n).spreadGen c.polder c.link else s
  (s.bump streamPage 0 1).stageOf c .started

/-- The reads and reservations of a BIND end: checks 8 to 10 are judged, and the stream becomes BOUND or the BIND is refused. -/
def execBindingDone (port : HostPort) (q : Fin 64) (dmaOk spaceOk : Bool) (s : State) : Out State :=
  match s.cmds.find? (fun c => c.port = port && c.sq = q.val && c.stage = .begun && c.opcode = 1) with
  | none => .next s
  | some c =>
    let d (code : Nat) : Done := { code := code, stream := c.streamNo, gen := c.genNo }
    let n := c.streamNo
    match (s.polderTiles c.polder).head?.bind (fun i => s.homeTile i c.polder n) with
    | none => .next (s.complete c (d csNoSpace))
    | some home =>
      let params := s.readHost port c.paramAddr 576
      let prompt := (List.range c.promptLen).map (fun i => leNat (s.readHost port (c.promptAddr + 4 * i) 4))
      let spots := s.planSpots c.polder
      let limit := posLimit c.reach spots
      let (planRead, s) := s.mireTake [s.planRange c.polder]
      if s.sealHold then .next (s.complete c (d csNoModel))
      else if !dmaOk then .next (s.complete c (d csDmaErr))
      else if prompt.any (fun t => s.rf (riddlePage home) Reg.RID_VOCAB 18 0 ≤ t) then .next (s.complete c (d csTokenRange))
      else if !planRead then .next (s.complete c (d csNoSpace))
      else if limit ≤ c.promptLen then .next (s.complete c { d csRefused with status := stLength })
      else if !spaceOk || !s.planOk c.polder then .next (s.complete c (d csNoSpace))
      else match s.reserveKv n c.polder c.reach with
        | none => .next (s.complete c (d csNoSpace))
        | some (homes, taken) => .next (s.bindNow c home params prompt limit homes taken)

/-! ### The return to FREE (R251, R252, R357, R411) -/

/-- Nothing holds a draining stream back. -/
def State.mayFree (s : State) (n : Nat) : Bool :=
  let x := s.stream n
  let y := s.stream x.link
  x.st = .draining && decide (x.inflight = 0) &&
    (!x.linked || x.draft || y.st = .free || !(y.draft && y.linked && decide (y.link = n)))

def execStreamFree (stream : StreamIx) (s : State) : Out State :=
  let n := stream.toNat
  if !s.mayFree n then .next s
  else
    let x := s.stream n
    let s := (s.mireTake [s.planRange x.polder]).2
    let s := (distinctMaps (s.planSpots x.polder)).foldl (fun (s : State) k => s.freeKv n k) s
    let s := { s with kvAreas := s.kvAreas.filter (fun a => a.stream ≠ n) }
    let s := s.jrnCommit n false x.commitPos x.commitSeq
    let cmd := s.cmds.find? (fun c => c.opcode = 1 && c.stage = .started && decide (c.streamNo = n))
    let s := s.setStream n { x with st := .free, kept := .free, draftOut := false, inflight := 0 }
    let s := match cmd with
      | none => s
      | some c => s.complete c { code := csOk, stream := n, gen := x.genBind.toNat, status := x.status, emitted := x.emitted, commit := x.commitPos }
    .next ((s.bump streamPage 1 1).raise streamPage 0)

/-! ### Semaphores (R390, R391) -/

def semTakeBit : Nat := 8
def semReleaseBit : Nat := 9
def semForceBit : Nat := 10
def State.semOwner (s : State) (i : Nat) : Nat := s.rf hsemPage (Reg.SEM i) 1 0
def State.semWaiter (s : State) (i : Nat) : Nat := s.rf hsemPage (Reg.SEM i) 3 2
def State.setSem (s : State) (i owner waiter : Nat) : State :=
  s.setReg hsemPage (Reg.SEM i) (word [(0, owner), (2, waiter)])

/-- A semaphore passes to its waiter, or to nobody. -/
def State.semPass (s : State) (i : Nat) : State :=
  let w := s.semWaiter i
  let s := s.setSem i w 0
  if w ≠ 0 then s.bump hsemPage 0 1 else s

def State.semTake (s : State) (i who : Nat) : State :=
  let o := s.semOwner i
  if o = 0 then (s.setSem i who (s.semWaiter i)).bump hsemPage 0 1
  else if o = who then s
  else (if s.semWaiter i = 0 then s.setSem i o who else s).bump hsemPage 1 1

def State.semRelease (s : State) (i who : Nat) : State :=
  if s.semOwner i = who then s.semPass i else (s.bump hsemPage 2 1).raise hsemPage 0

/-- What a write of SEM[i] starts, in the order TAKE, RELEASE, FORCE; the three fields read 0 again. (DEDUCED: log entry 78) -/
def semHook (w : WEff) (who : Requester) (i : Nat) : State :=
  let s := w.st.setSem i (w.st.semOwner i) (w.st.semWaiter i)
  let s := if w.fires semTakeBit then s.semTake i (whoCode who) else s
  let s := if w.fires semReleaseBit then s.semRelease i (whoCode who) else s
  if w.fires semForceBit && s.semOwner i ≠ 0 then s.semPass i else s

/-- A write of a semaphore's register; the sixteen of R393 are all there is. (DEDUCED: log entry 78; DESIGN CHOICE: log entry 80) -/
def State.semWrite (s : State) (who : Requester) (i : Nat) (v : W64) : State :=
  if 16 ≤ i then s else semHook (s.writeCore who hsemPage (Reg.SEM i) .b64 v) who i

def execSemTake (who : Requester) (i : Fin 64) (v : W64) (s : State) : Out State :=
  .next (s.semWrite who i (setBit v semTakeBit true))
def execSemRelease (who : Requester) (i : Fin 64) (v : W64) (s : State) : Out State :=
  .next (s.semWrite who i (setBit v semReleaseBit true))
def execSemForce (who : Requester) (i : Fin 64) (v : W64) (s : State) : Out State :=
  .next (s.semWrite who i (setBit v semForceBit true))

/-- What a port reset does to a semaphore. -/
def State.semReset (s : State) (who i : Nat) : State :=
  let s := if s.semWaiter i = who then s.setSem i (s.semOwner i) 0 else s
  if s.semOwner i = who then (s.semPass i).bump hsemPage 3 1 else s

/-! ### Port resets and links (R385, R389, R611) -/

/-- The registers of a port that a reset returns, its queues and what they hold. -/
def State.resetQueues (s : State) (p : HostPort) : State :=
  let lo := queueKey (portDie p) 0 0 0
  let s := { s with
    wins := outside s.wins lo (4 * 256 * 4096), queues := outside s.queues lo (4 * 256 * 4096),
    cmds := s.cmds.filter (fun c => c.port ≠ p) }
  (s.setReg (portPage p) Reg.APER_BASE 0).setReg (portPage p) Reg.APER_CTL 0

/-- Guards of a requester withdrawn. -/
def State.closeGuards (s : State) (who : Nat) : State :=
  { s with guards := Store.mapVals {} (fun _ g => if g.owner = who then {} else g) s.guards }

/-- A load whose image comes from a port fails. -/
def State.loseImage (s : State) (p : HostPort) : State :=
  match s.castRun with
  | none => s
  | some c =>
    if c.src ≠ whoCode (portWho p) then s
    else if castState s = csChecking then s.failEarly c lcSource 0
    else if s.loading then s.failLate lcSource s.sectionNow
    else s

/-- A port reset. -/
def State.resetPort (s : State) (p : HostPort) : State :=
  let s := s.loseImage p
  let mine := (s.streams.filter (fun e => e.2.st ≠ .free && e.2.port = p)).map (·.1)
  let s := mine.foldl (fun (s : State) n =>
    if (s.stream n).live then (s.cancelStream n (s.stream n).gen).2 else s) s
  let s := s.resetQueues p
  let s := (List.range 16).foldl (fun (s : State) i => s.semReset (whoCode (portWho p)) i) s
  let s := s.closeGuards (whoCode (portWho p))
  let s := { s with spdm := Store.set {} s.spdm (whoCode (portWho p)) {}, fns := Store.set {} s.fns (portDie p) {} }
  s.raise (portPage p) 4

/-- Causes of a port reset: 0 link down, 1 hot reset, 2 function-level reset, 3 a clear of Bus Master Enable, 4 PERST#. The link is
down after the first and the last. (DEDUCED: log entry 76) -/
def execPortReset (port : HostPort) (cause : BitVec 4) (s : State) : Out State :=
  let c := cause.toNat
  if 4 < c then .next s
  else
    let s := if c = 4 then { s with boot := { s.boot with perst := if s.boot.perst.contains port then s.boot.perst else s.boot.perst ++ [port] } } else s
    if !s.boot.main then .next s
    else
      let up : Bool := s.rf (portPage port) Reg.PCIE_STAT 2 0 ≠ 0
      let s := s.resetPort port
      if c = 0 || c = 4 then
        let s := s.setReg (portPage port) Reg.PCIE_STAT 0
        .next (if up then s.raise (portPage port) 3 else s)
      else .next s

/-- DEDUCED: log entry 76. -/
def execPerstDeassert (port : HostPort) (s : State) : Out State :=
  .next { s with boot := { s.boot with perst := s.boot.perst.filter (· ≠ port) } }

/-- A port trains at a rate and width that it supports. (DEDUCED: log entry 76) -/
def execPcieLinkTrained (port : HostPort) (rate width : BitVec 8) (flit : Bool) (s : State) : Out State :=
  let r := rate.toNat
  let w := width.toNat
  let pg := portPage port
  let fits : Bool := decide (4 ≤ r) && decide (r ≤ 6) && decide (r ≤ s.rf pg Reg.PCIE_CTL 2 0) &&
    [1, 4, 8, 16].contains w && flit == decide (r = 6)
  if !s.mainGood || s.boot.perst.contains port || !fits then .next s
  else
    let old := s.rf pg Reg.PCIE_STAT 2 0
    let s := s.setReg pg Reg.PCIE_STAT (word [(0, r), (4, w), (9, b2n flit)])
    .next (if old ≠ 0 && old ≠ r then s.raise pg 5 else s)

/-! ### The debug aperture (R388) -/

/-- A part of an aperture access. -/
structure AperPart where
  mire : Bool
  tile : Nat
  addr : Nat
  len  : Nat
  deriving DecidableEq, Repr

/-- The parts of an access, ascending: it is cut where the peat window passes from one tile to the next. -/
def State.aperParts (s : State) (p : HostPort) (off n : Nat) : List AperPart :=
  let b := s.reg (portPage p) Reg.APER_BASE
  if !fbit b 0 then [⟨true, 0, fld b 40 24 * 2 ^ 24 + off, n⟩]
  else
    let t (o : Nat) : Nat := fld b 7 1 + o / 2 ^ 33 % 8
    let room := 2 ^ 33 - off % 2 ^ 33
    if n ≤ room then [⟨false, t off, off % 2 ^ 33, n⟩]
    else [⟨false, t off, off % 2 ^ 33, room⟩, ⟨false, t (off + room), 0, n - room⟩]

/-- A part whose peat layer is not ON waits, and wakes the layer. (DEDUCED: log entry 75) -/
def State.aperWaits (s : State) (a : AperPart) : Bool := !a.mire && decide (a.tile < 80) && !s.peatOn a.tile a.addr a.len
def State.aperWake (s : State) (a : AperPart) : State :=
  if s.aperWaits a then
    ([a.addr / 2 ^ 31, (a.addr + a.len - 1) / 2 ^ 31].eraseDups.filter (fun l => decide (l < 4) && decide (s.domCode a.tile (4 + l) ≠ 2))).foldl
      (fun (s : State) l => s.domForce a.tile (4 + l) 2 1) s
  else s

/-- The bytes of a part; none where it cannot be read. An uncorrectable line is recorded for port 6 (R177, R201). -/
def State.aperRead (s : State) (a : AperPart) : Option (List Byte) × State :=
  if a.mire then s.mireServeRead a.addr a.len
  else if 80 ≤ a.tile then (none, s)
  else if s.peatPoisoned a.tile a.addr a.len then
    (none, (s.countPeatRead a.tile a.addr a.len).peatEcc a.tile 6 (s.peatBadAt a.tile a.addr a.len) .uncorrectable true false)
  else (some (s.readPeat a.tile a.addr a.len), s.countPeatRead a.tile a.addr a.len)
/-- DEDUCED: log entry 75. -/
def State.aperReadAll (s : State) : List AperPart → Option (List Byte) × State
  | [] => (some [], s)
  | a :: r =>
    let (x, s) := s.aperRead a
    let (y, s) := s.aperReadAll r
    (match x, y with | some u, some v => some (u ++ v) | _, _ => none, s)

def State.aperOk (s : State) (off n : Nat) : Bool := s.boot.main && decide (0 < n) && decide (off + n ≤ 2 ^ 36)

/-- An aperture read: the data, or all-ones. -/
def execApertureRead (port : HostPort) (off : BitVec 40) (len : BitVec 13) (s : State) : Out State :=
  let parts := s.aperParts port off.toNat len.toNat
  if !s.aperOk off.toNat len.toNat then .next s
  else if parts.any s.aperWaits then .next (parts.foldl State.aperWake s)
  else
    let (x, s) := s.aperReadAll parts
    match x with
    | some bs => .next (s.send (.data port bs))
    | none => .next ((s.bump (portPage port) 7 1).send (.data port (List.replicate len.toNat 0xFF)))

/-- Bytes written through the aperture; a part that cannot take effect is dropped. (DEDUCED: log entry 75) -/
def State.aperWriteAll (s : State) (bs : List Byte) : List AperPart → State
  | [] => s
  | a :: r =>
    let x := bs.take a.len
    let s := if a.mire then (s.mireServeWrite a.addr x).2 else if a.tile < 80 then s.writePeat a.tile a.addr x else s
    s.aperWriteAll (bs.drop a.len) r

def execApertureWrite (port : HostPort) (off : BitVec 40) (bs : List Byte) (s : State) : Out State :=
  let parts := s.aperParts port off.toNat bs.length
  if !s.aperOk off.toNat bs.length || !s.rb (portPage port) Reg.APER_CTL 0 then .next s
  else if parts.any s.aperWaits then .next (parts.foldl State.aperWake s)
  else .next (s.aperWriteAll bs parts)

/-! ### Egress datagrams (R415, R416) -/

/-- Records of a datagram: RECS, 0 acts as 1, at most 512. -/
def State.epRecs (s : State) (e k : Nat) : Nat := min 512 (max 1 (s.rf (ethPage e) (Reg.EP_CFG1 k) 10 1))

/-- The egress header of some records. -/
def State.egressHead (s : State) (dseq : Nat) (recs : List (List Byte)) : List Byte :=
  leBytes 4 (1 + recs.length * 2 ^ 8) ++ leBytes 4 dseq ++ leBytes 4 (s.rf fleetPage Reg.FLEET_ID 17 0) ++
    leBytes 4 (crc32c recs.flatten).toNat

/-- A ones' complement sum of 16-bit words, as UDP has it over IPv6. -/
def onesSum (l : List Byte) : Nat :=
  let n := ((List.range (ceilDiv l.length 2)).map (fun i => beNat (padTo 2 ((l.drop (2 * i)).take 2)))).sum
  (List.range 4).foldl (fun n _ => n % 2 ^ 16 + n / 2 ^ 16) n

/-- The IPv6 and UDP headers of a datagram and its payload: hop limit 64, traffic class 0, and the checksum filled in (R415). -/
def udpPacket (src dst : List Byte) (sport dport : Nat) (body : List Byte) : List Byte :=
  let n := 8 + body.length
  let udp (c : Nat) : List Byte := beBytes 2 sport ++ beBytes 2 dport ++ beBytes 2 n ++ beBytes 2 c
  let sum := 0xFFFF - onesSum (src ++ dst ++ beBytes 4 n ++ beBytes 4 17 ++ udp 0 ++ body)
  [0x60, 0, 0, 0] ++ beBytes 2 n ++ [17, 64] ++ src ++ dst ++ udp (if sum = 0 then 0xFFFF else sum) ++ body

/-- An egress frame but for its FCS: to the endpoint's next hop, from the port's own addresses (R415). (PRESUMED: log entry 134) -/
def State.egressFrame (s : State) (e k : Nat) (body : List Byte) : List Byte :=
  let pg := ethPage e
  let addr (hi lo : Nat) : List Byte := beBytes 8 (s.reg pg hi).toNat ++ beBytes 8 (s.reg pg lo).toNat
  beBytes 6 (s.rf pg (Reg.EP_CFG0 k) 47 0) ++ beBytes 6 (s.rf pg Reg.ETH_MAC 47 0) ++ [0x86, 0xDD] ++
    udpPacket (addr Reg.ETH_IP6_HI Reg.ETH_IP6_LO) (addr (Reg.EP_DST_HI k) (Reg.EP_DST_LO k)) (s.rf pg Reg.EG_SRC_PORT 15 0)
      (s.rf pg (Reg.EP_CFG0 k) 63 48) body

/-- The oldest records of an endpoint leave as one datagram, or are dropped where the endpoint is not up. Ethernet, IPv6 and UDP
headers are 62 bytes and the FCS 4. (DEDUCED: log entry 77) -/
def State.egressSend (s : State) (e k : Nat) : State :=
  let b := s.egressBuf e k
  let n := s.epRecs e k
  let recs := b.recs.take n
  let s := s.setEgress e k { recs := b.recs.drop n, first := s.up }
  if !s.endpointUp e k then recs.foldl (fun (s : State) _ => s.egressDrop e) s
  else
    let dseq := (s.rf (ethPage e) (Reg.EP_CFG1 k) 63 32 + 1) % 2 ^ 32
    let body := s.egressHead dseq recs ++ recs.flatten
    let s := (s.setRf (ethPage e) (Reg.EP_CFG1 k) 63 32 dseq).send (.frame e (s.egressFrame e k body))
    (((s.bump (ethPage e) 5 1).bump (ethPage e) 6 recs.length).bump (ethPage e) 0 1).bump (ethPage e) 2 (66 + body.length)

def execEgressDatagram (eth : EthIx) (endpoint : Nat) (s : State) : Out State :=
  .next (if decide (endpoint < 16) && decide (s.epRecs eth endpoint ≤ (s.egressBuf eth endpoint).recs.length)
    then s.egressSend eth endpoint else s)

def execEgressFlushTimeout (eth : EthIx) (endpoint : Nat) (s : State) : Out State :=
  let b := s.egressBuf eth endpoint
  .next (if decide (endpoint < 16) && !b.recs.isEmpty &&
      decide (b.first + 1000 * s.rf (ethPage eth) (Reg.EP_CFG1 endpoint) 31 16 ≤ s.up)
    then s.egressSend eth endpoint else s)

end Sys2Proof.Machine
end

