-- ==== Sys2Proof/Machine/Mire.lean ====
section
/-! DEFINITION. Commands of the mire: page commands and the page mover, refresh, scrub, and the state of the stacks (chapter 10,
R500, R618). -/
namespace Sys2Proof.Machine

/-! ### Page commands (R349, R353, R359) -/

def pgCauseState : Nat := 1
def pgCauseEntry : Nat := 2
def pgCauseUe : Nat := 3
def pgCauseFenced : Nat := 4
def pgCauseTile : Nat := 5
def pgCauseOp : Nat := 6
def pgSpill : Nat := 1
def pgFetch : Nat := 2
def pgDrop : Nat := 3

/-- MIRE0 of a sluice die. -/
def mire0 (die : Nat) : Nat := mirePage (4 * die)

/-- A page command that fails: counted, recorded and raised where it was pushed. -/
def State.pgFail (s : State) (c : PgCmd) (cause : Nat) : State :=
  let pg := mire0 c.die
  let s := s.setReg pg Reg.PG_LAST (word [(0, c.entry), (40, c.tile), (48, c.op), (52, cause)])
  (s.bump pg 9 1).raise pg 4

def State.pgDone (s : State) (c : PgCmd) : State := s.bump (mire0 c.die) 8 1

/-- What a write of PG_GO pushes; GO reads 0. -/
def pgGoHook (w : WEff) (die : Nat) : State :=
  let pg := mire0 die
  let s := w.st.setReg pg Reg.PG_GO 0
  if !w.fires 0 then s
  else
    let c : PgCmd := ⟨s.pgPushed, die, s.rf pg Reg.PG_ARG0 46 40, s.rf pg Reg.PG_ARG0 50 48, s.rf pg Reg.PG_ARG0 32 0,
      s.rf pg Reg.PG_ARG1 32 0, .arriving, []⟩
    let l := Store.get [] s.pgQueue die
    if c.op < pgSpill || pgDrop < c.op then s.pgFail c pgCauseOp
    else if 64 ≤ l.length then s.raise pg 5
    else { s with pgQueue := Store.set [] s.pgQueue die (l ++ [c]), pgPushed := s.pgPushed + 1 }

/-- A PG_GO write while PG_ARG0 holds the operation that the command names. (DESIGN CHOICE: log entry 80) -/
def State.pgPush (s : State) (who : Requester) (die op : Nat) (v : W64) : State :=
  if s.rf (mire0 die) Reg.PG_ARG0 50 48 = op then
    pgGoHook (s.writeCore who (mire0 die) Reg.PG_GO .b64 (setBit v 0 true)) die
  else s

def execPgSpill (who : Requester) (die : DieIx) (v : W64) (s : State) : Out State := .next (s.pgPush who die pgSpill v)
def execPgFetch (who : Requester) (die : DieIx) (v : W64) (s : State) : Out State := .next (s.pgPush who die pgFetch v)
def execPgDrop (who : Requester) (die : DieIx) (v : W64) (s : State) : Out State := .next (s.pgPush who die pgDrop v)

/-! ### The page mover (R350 to R352) -/

def State.moverOf (s : State) (tile : Nat) : List PgCmd := Store.get [] s.movers tile
def State.setMover (s : State) (tile : Nat) (l : List PgCmd) : State := { s with movers := Store.set [] s.movers tile l }

/-- The attention instructions that a drain waits for: all that are dispatched now (R351). -/
def State.attnNow (s : State) (tile : Nat) : List (Nat × Nat) :=
  (List.range 4).flatMap (fun k => (s.cru tile k).attn.map (fun w => (k, w.iid)))

/-- The phase of a running command, on an entry. -/
def State.setPhase (s : State) (c : PgCmd) (ph : PgPhase) (drain : List (Nat × Nat)) : State :=
  s.setMover c.tile ((s.moverOf c.tile).map (fun d => if d.id = c.id then { d with phase := ph, drain := drain } else d))

/-- A command leaves the mover. -/
def State.dropCmd (s : State) (c : PgCmd) : State := s.setMover c.tile ((s.moverOf c.tile).filter (fun d => d.id ≠ c.id))

/-- A command applied to its entry (R352). An entry of state 5 to 7 is ABSENT (R219). (DEDUCED: log entries 51, 52) -/
def State.pgStart (s : State) (c : PgCmd) : State :=
  let e := s.pageEntry c.tile c.entry
  let set (s : State) (ph : PgPhase) (st peat : Nat) : State :=
    (s.setPageEntry c.tile c.entry st peat).setPhase c ph (s.attnNow c.tile)
  if e.state = pgResident then
    if c.op = pgSpill then set s .drainBeforeCopy pgSpilling e.peat
    else if c.op = pgDrop then set s .drainAfterDrop pgAbsent e.peat
    else (s.dropCmd c).pgDone c
  else if e.state = pgSpilled then
    if c.op = pgFetch then set s .fetching pgFetching c.peat
    else if c.op = pgDrop then set s .drainAfterDrop pgAbsent e.peat
    else (s.dropCmd c).pgDone c
  else if e.state = pgSpilling || e.state = pgFetching then s
  else if c.op = pgDrop then (s.dropCmd c).pgDone c
  else (s.dropCmd c).pgFail c pgCauseState

/-- The commands of a mover that have begun, and the one on an entry. -/
def PgCmd.runs (c : PgCmd) : Bool := c.phase ≠ .arriving && c.phase ≠ .held
def State.pgRunning (s : State) (tile entry : Nat) : Option PgCmd := (s.moverOf tile).find? (fun c => c.entry = entry && c.runs)

/-- Commands that wait start in order, one at a time on an entry and up to 16 at once on a tile. -/
def State.pgNext (s : State) (tile : Nat) : Nat → State
  | 0 => s
  | f + 1 =>
    let l := s.moverOf tile
    if 16 ≤ (l.filter (·.runs)).length then s
    else match l.find? (fun c => c.phase = .arriving && (s.pgRunning tile c.entry).isNone) with
      | some c => (s.pgStart c).pgNext tile f
      | none => s
def State.pgAll (s : State) (tile : Nat) : State := s.pgNext tile (s.moverOf tile).length

/-- A running command ends. -/
def State.pgFinish (s : State) (c : PgCmd) : State := ((s.dropCmd c).pgDone c).pgAll c.tile

/-- A page command delivered to its tile: the command at the front of a MIRE0 queue. (DEDUCED: log entry 51) -/
def execPageCommandArrive (die : DieIx) (s : State) : Out State :=
  match Store.get [] s.pgQueue die with
  | [] => .next s
  | c :: r =>
    let pop (s : State) : State := { s with pgQueue := Store.set [] s.pgQueue die r }
    if c.entry % 16 ≠ 0 || peatSize < c.entry + 16 then .next ((pop s).pgFail c pgCauseEntry)
    else if !s.live c.tile then .next ((pop s).pgFail c pgCauseTile)
    else if s.fenced (s.polderOf c.tile) then .next ((pop s).pgFail c pgCauseFenced)
    else
      let l := s.moverOf c.tile
      let spilling := match s.pgRunning c.tile c.entry with
        | some d => d.phase = .drainBeforeCopy || d.phase = .copying
        | none => false
      let waits := l.any (fun d => d.entry = c.entry && d.phase = .arriving)
      let c : PgCmd := { c with phase := if c.op = pgFetch && spilling && !waits then .held else .arriving }
      .next (((pop s).setMover c.tile (l ++ [c])).pgAll c.tile)

/-- Whether every attention instruction that a drain waits for has completed or been discarded. -/
def State.drained (s : State) (c : PgCmd) : Bool :=
  c.drain.all (fun x => (s.cru c.tile x.1).attn.all (fun w => w.iid ≠ x.2))

/-- An attention drain ends, and the page step that waited for it goes on. -/
def execAttentionDrainEnd (tile : TileIx) (entry : Nat) (s : State) : Out State :=
  match s.pgRunning tile entry with
  | none => .next s
  | some c =>
    if !s.drained c then .next s
    else match c.phase with
      | .drainBeforeCopy => .next (s.setPhase c .copying [])
      | .drainAfterCopy => .next (s.pgFinish c)
      | .drainAfterDrop => .next (s.pgFinish c)
      | _ => .next s

/-- The last MOVE_DONE of a spill copy. A copy that a controller refuses has none: the command stays. (DEDUCED: log entry 52) -/
def execSpillCopyDone (tile : TileIx) (entry : Nat) (s : State) : Out State :=
  match s.pgRunning tile entry with
  | none => .next s
  | some c =>
    if c.phase ≠ .copying then .next s
    else
      let e := s.pageEntry tile entry
      let n := min (s.pageBytes tile entry) (peatSize - e.peat)
      let bs := s.readPeat tile e.peat n
      match (s.countPeatRead tile e.peat n).mireServeWrite e.mire bs with
      | (false, t) => .next t
      | (true, t) =>
        match (t.moverOf tile).filter (fun d => d.entry = entry && d.phase = .held) with
        | [] => .next ((t.setPageEntry tile entry pgSpilled e.peat).setPhase c .drainAfterCopy (t.attnNow tile))
        | held =>
          let t := t.setPageEntry tile entry pgResident e.peat
          let t := held.foldl (fun (t : State) d => (t.dropCmd d).pgDone d) t
          .next (t.pgFinish c)

/-- A fetch fails: the page stays in the mire. -/
def State.pgRefused (s : State) (c : PgCmd) : State :=
  let e := s.pageEntry c.tile c.entry
  (((s.setPageEntry c.tile c.entry pgSpilled e.peat).dropCmd c).pgFail c pgCauseUe).pgAll c.tile

/-- Every byte of a fetch is visible in peat. A read that a controller refuses ends the fetch (R343). -/
def execFetchCopyDone (tile : TileIx) (entry : Nat) (s : State) : Out State :=
  match s.pgRunning tile entry with
  | none => .next s
  | some c =>
    if c.phase ≠ .fetching then .next s
    else
      let e := s.pageEntry tile entry
      match s.mireServeRead e.mire (s.pageBytes tile entry) with
      | (none, t) => .next (t.pgRefused c)
      | (some bs, t) => .next (((t.fillPeat tile e.peat bs).setPageEntry tile entry pgResident e.peat).pgFinish c)

/-- A read of a fetch is refused. (DEDUCED: log entry 52) -/
def execFetchReadRefused (tile : TileIx) (entry : Nat) (s : State) : Out State :=
  match s.pgRunning tile entry with
  | none => .next s
  | some c => .next (if c.phase = .fetching then s.pgRefused c else s)

/-! ### Refresh and on-die ECC (R338) -/

/-- REF2X from the last reported temperature and HOT_REF; HOT when it becomes 1. -/
def State.refresh (s : State) (j : Nat) : State :=
  let pg := mirePage j
  let hot : Bool := s.rb pg Reg.MIRE_CTL 1 && decide (85 < s.rf pg Reg.MIRE_STAT 15 8)
  let t := s.setRb pg Reg.MIRE_STAT 2 hot
  if hot && !s.rb pg Reg.MIRE_STAT 2 then t.raise pg 3 else t

/-- A refresh at the interval in force. -/
def execMireRefresh (stack : StackIx) (s : State) : Out State :=
  .next (if s.stackState stack = 2 then s.refresh stack else s)

/-- RFM_TH × 16 activations; 0 acts as 1. -/
def State.rfmAt (s : State) (j : Nat) : Nat := 16 * max 1 (s.rf (mirePage j) Reg.MIRE_CTL 39 32)

/-- Refresh management is issued to every bank of a stack whose activation count has reached the threshold. -/
def execRefreshManagement (stack : StackIx) (s : State) : Out State :=
  let j := stack.val
  let due (k : Nat) (b : Bank) : Bool := k / 4096 = j && decide (s.rfmAt j ≤ b.acts)
  let n := Store.count due s.banks
  if s.stackState j ≠ 2 || n = 0 then .next s
  else .next (({ s with banks := Store.mapVals {} (fun k b => if due k b then { b with acts := 0 } else b) s.banks } : State).bump
    (mirePage j) 5 n)

/-- The stack's on-die ECC counts since the last poll. -/
def execOdeccPoll (stack : StackIx) (n : Nat) (s : State) : Out State :=
  .next (if s.stackState stack = 2 then s.bump (mirePage stack) 4 n else s)

/-! ### Scrub (R344) -/

/-- Bursts of a stack: 48 GiB in bursts of 64 bytes. -/
def stackBursts : Nat := 805306368

/-- The mire address of a local address of a stack: the inverse of the map of R339. -/
def mireAddr (j l : Nat) : Nat :=
  let hi := l / 2 ^ 10
  let d := j / 4 ^^^ bits hi 4 2 ^^^ bits hi 9 7
  let sub := j % 4 ^^^ bits hi 1 0
  hi * 2 ^ 15 + d * 2 ^ 12 + bits l 9 8 * 2 ^ 10 + sub * 2 ^ 8 + l % 2 ^ 8

/-- A burst of the patrol scrub: the g-th of the stack, with what its check finds. A corrected burst is written back.
(DESIGN CHOICE: log entry 36) -/
def execMireScrub (stack : StackIx) (g : Nat) (e : EccResult) (s : State) : Out State :=
  let j := stack.val
  let pg := mirePage j
  if s.stackState j ≠ 2 || !s.rb pg Reg.MIRE_CTL 0 || stackBursts ≤ g then .next s
  else
    let a := mireAddr j (64 * g)
    let s := match e with
      | .clean => s
      | .corrected sy => s.mireEcc a sy.toNat false false true
      | .uncorrectable =>
        let bad := Store.get false s.mireBad (a / 256)
        { s with mireBad := Store.set false s.mireBad (a / 256) true }.mireEcc a 0 true bad true
    let (done, s) := s.scrubStep (256 + j) g (stackBursts - 1)
    .next (if done then s.bump pg 7 1 else s)

/-- A scrub read that was refused for 2 µs, and a request that has waited 2 µs, are served next: an order of service, with no
effect of its own. (DEDUCED: log entry 37) -/
def execMireScrubStarve (_stack : StackIx) (s : State) : Out State := .next s
/-- DEDUCED: log entry 37. -/
def execMireReqAge (_stack : StackIx) (_pc : BitVec 6) (s : State) : Out State := .next s

/-! ### Stacks (R360, R500, R618) -/

/-- A report of the STACK cause: it concerns every polder. The model shows it on tile 0's FAULT page while tile 0 is in use.
(DEDUCED: log entry 53) -/
def State.reportStack (s : State) (j : Nat) : State :=
  if s.tstate 0 = 1 || s.tstate 0 = 2 then s.report 0 0x0F 6 j
  else { s with reports := s.reports ++ [⟨255, 0x0F, 6, j, s.up⟩] }

/-- A stack's supply stays out of tolerance: the stack goes DOWN. -/
def execStackSupplyFault (stack : StackIx) (s : State) : Out State :=
  let j := stack.val
  if s.stackState j = 1 || s.stackState j = 2 then
    .next (((s.setRf (mirePage j) Reg.MIRE_STAT 1 0 3).raise (mirePage j) 2).reportStack j)
  else .next s

/-- The bits of a stack's temperature reading as whole degrees, and the reading of its sensor. (DEDUCED: log entry 94) -/
def execStackTempRead (stack : StackIx) (value : Option W32) (s : State) : Out State :=
  let j := stack.val
  if !s.sensPowered (4096 + j) then .next s
  else match value with
    | none => .next (s.sample (4096 + j) none)
    | some v =>
      let s := s.sample (4096 + j) (some (8 * v.toInt))
      .next ((s.setRf (mirePage j) Reg.MIRE_STAT 15 8 (max 0 (min 255 v.toInt)).toNat).refresh j)

end Sys2Proof.Machine
end

