-- ==== Sys2Proof/Machine/Routes.lean ====
section
/-! DEFINITION. Tree routes and gateways as the steward computes them (R324, R325). -/
namespace Sys2Proof.Machine

/-- One hop over a link that is up: the port and the neighbour. -/
def State.hops (s : State) (ok : Nat → Bool) (i : Nat) : List (Nat × Nat) :=
  (List.range 4).filterMap (fun k => match neighbour i k with
    | some j => if ok i && ok j && s.rf (cetisPage i) Reg.LANES (8 * k + 7) (8 * k) ≠ 0 then some (k, j) else none
    | none => none)

/-- Breadth-first search: everything within a number of steps of the start, each with its distance. -/
def bfs (adj : Nat → List Nat) : Nat → Nat → List Nat → List (Nat × Nat) → List (Nat × Nat)
  | 0, _, _, known => known
  | fuel + 1, d, front, known =>
    let new := ((front.flatMap adj).eraseDups).filter (fun x => known.all (fun y => y.1 ≠ x))
    if new.isEmpty then known else bfs adj fuel (d + 1) new (known ++ new.map (·, d + 1))
def distances (adj : Nat → List Nat) (start : List Nat) (fuel : Nat) : List (Nat × Nat) := bfs adj fuel 0 start (start.map (·, 0))
def distOf (l : List (Nat × Nat)) (x : Nat) : Option Nat := (l.find? (fun y => y.1 = x)).map (·.2)

/-- The levels of a scope's tiles: distances to its lowest tile. -/
def State.treeLevels (s : State) (ok : Nat → Bool) : List (Nat × Nat) :=
  match (List.range 80).find? ok with
  | none => []
  | some r => distances (fun i => (s.hops ok i).map (·.2)) [r] 80

/-- Whether a hop is up. -/
def upHop (lv : List (Nat × Nat)) (i j : Nat) : Bool :=
  let a := (distOf lv i).getD 99
  let b := (distOf lv j).getD 99
  decide (b < a) || (a = b && decide (j < i))

/-- Places on a legal route: a tile, and whether a down hop has been taken, as 2 × tile + flag. The places that lead to a place by
one legal hop. -/
def State.legalPreds (s : State) (ok : Nat → Bool) (lv : List (Nat × Nat)) (x : Nat) : List Nat :=
  let j := x / 2
  let down : Bool := x % 2 = 1
  (s.hops ok j).flatMap (fun h =>
    if upHop lv h.2 j then (if down then [] else [2 * h.2])
    else if down then [2 * h.2, 2 * h.2 + 1] else [])

/-- The port of the shortest legal route from a tile to a destination; 7 where there is none, 5 at the destination. -/
def State.treePort (s : State) (ok : Nat → Bool) (lv ds : List (Nat × Nat)) (i dest : Nat) : Nat :=
  if i = dest then 5
  else match distOf ds (2 * i) with
    | none => 7
    | some d =>
      match (s.hops ok i).find? (fun h =>
        distOf ds (2 * h.2 + (if upHop lv i h.2 then 0 else 1)) = some (d - 1)) with
      | some h => h.1
      | none => 7

/-- The routes of one tree toward one destination, on every tile of the scope. -/
def State.routesTo (s : State) (tree : Nat) (ok : Nat → Bool) (lv : List (Nat × Nat)) (dest : Nat) : State :=
  let ds := distances (s.legalPreds ok lv) [2 * dest, 2 * dest + 1] 160
  let ports := ((List.range 80).filter ok).map (fun i => (i, s.treePort ok lv ds i dest))
  ports.foldl (fun (s : State) x => { s with routes := Store.set 7 s.routes ((x.1 * 2 + tree) * 128 + dest) x.2 }) s

/-- The routes of one tree over a scope: a destination outside it has none. -/
def State.setRoutes (s : State) (tree : Nat) (ok : Nat → Bool) : State :=
  let lv := s.treeLevels ok
  (List.range 80).foldl (fun (s : State) dest =>
    if ok dest then s.routesTo tree ok lv dest
    else ((List.range 80).filter ok).foldl (fun (s : State) i =>
      { s with routes := Store.set 7 s.routes ((i * 2 + tree) * 128 + dest) 7 }) s) s

def State.inPolder (s : State) (p i : Nat) : Bool := s.live i && s.member i && decide (s.polderOf i = p)

/-- The routes of a polder, and those of the engine. (DEDUCED: log entry 49) -/
def State.polderRoutes (s : State) (p : Nat) : State := s.setRoutes 0 (s.inPolder p)
/-- DEDUCED: log entry 49. -/
def State.engineRoutes (s : State) : State := s.setRoutes 1 s.live

/-- A tile of a polder that no legal route joins to the others. (DEDUCED: log entry 97) -/
def State.polderCut (s : State) (p : Nat) : Bool :=
  let lv := s.treeLevels (s.inPolder p)
  (List.range 80).any (fun i => s.inPolder p i && (distOf lv i).isNone)

/-- Every gateway that names a tile moves to the nearest live linked tile. -/
def State.moveGateways (s : State) (dead : Nat) : State :=
  ((List.range 80).filter s.live).foldl (fun (s : State) i =>
    ((List.range 8).filter (fun d => s.gateway i d = dead)).foldl (fun (s : State) d =>
      match nearestOf i ((linkedTiles d).filter s.live) with
      | some g => s.setRf (cetisPage i) Reg.RIM_GW (8 * d + 6) (8 * d) g
      | none => s) s) s

/-- Every live tile's fence of the port that faces a tile, and the sluice die's on its side of the tile's sluice link (R322, R526, R540). -/
def State.fenceToward (s : State) (i : Nat) (on : Bool) : State :=
  ((List.range 4).filterMap (fun k => (neighbour i k).map (fun j => (k, j)))).foldl (fun (s : State) x =>
    if s.live x.2 then s.setRb (cetisPage x.2) Reg.PORT_FENCE ((x.1 + 2) % 4) on else s)
    (if (dieOf i).isSome then { s with dieFence := Store.set false s.dieFence i on } else s)
/-- Every output port starts again: the pointer at class 2, and W2 for its quantum (R262, R330). -/
def State.startPorts (s : State) : State :=
  (List.range 80).foldl (fun (s : State) i => (List.range 6).foldl (fun (s : State) k =>
    s.setMeshPort i k { s.meshPort i k with ptr := 2, quanta := [0, 0, s.rf (cetisPage i) Reg.CETIS_CTL 55 48] }) s) s

/-- A tile's own ports toward live tiles opened. -/
def State.openPorts (s : State) (i : Nat) : State :=
  ((List.range 4).filterMap (fun k => (neighbour i k).map (fun j => (k, j)))).foldl (fun (s : State) x =>
    if s.live x.2 then s.setRb (cetisPage i) Reg.PORT_FENCE x.1 false else s) s

/-- The live edges of a tile: links up toward live tiles (R538). -/
def State.liveEdges (s : State) (i : Nat) : Nat := (s.hops s.live i).length

end Sys2Proof.Machine
end

