-- ==== Sys2Proof/Machine/Recast.lean ====
section
/-! DEFINITION. Fault reports, the recast sequencer, fences, spares and refill, replay, quarantine and their commands (chapter
17). -/
namespace Sys2Proof.Machine

/-! ### Causes and actions (R521) -/

def actTransient : Nat := 0
def actRetire : Nat := 1
def actHold : Nat := 2
def actStop : Nat := 3
def fcLink : Nat := 5
def fcSensor : Nat := 8
def fcSilent : Nat := 9
def fcEscalated : Nat := 10
def fcManual : Nat := 11
def fcPour : Nat := 12
def fcSeal : Nat := 13
def fcStorm : Nat := 14
def fcStack : Nat := 15

/-- RC_STAT.STATE. -/
def rcRunning : Nat := 0
def rcFencing : Nat := 1
def rcRefilling : Nat := 2
def rcHeld : Nat := 3
def rcStopped : Nat := 4

/-- Tile states of R547. -/
def tsUnassigned : Nat := 0
def tsActive : Nat := 1
def tsSpare : Nat := 2
def tsQuarantined : Nat := 4
def tsSelfTest : Nat := 5
def tsWithdrawn : Nat := 6

/-- What the sequencer decides of a report: its action (none: recorded only), the tile to retire, and the cause that counts. -/
structure Verdict where
  action : Option Nat
  victim : Nat
  cause  : Nat
  deriving DecidableEq, Repr

/-- Charges of a tile in the last 10 s. (DEDUCED: log entry 98) -/
def State.chargesOf (s : State) (i : Nat) : List Nat :=
  (Store.get [] s.charges i).filter (fun t => decide (s.up < t + 10000000000))

/-- The verdict on a report. A transient that would be the fourth in 10 s escalates; a lost link that cuts the polder retires the
end with the higher index; a sensor report retires a tile without a trusted sensor. -/
def State.verdict (s : State) (r : Report) : Verdict :=
  let i := r.tile
  let transient : Verdict :=
    if s.tstate i = tsActive && decide (3 ≤ (s.chargesOf i).length) then ⟨some actRetire, i, fcEscalated⟩ else ⟨some actTransient, i, r.cause⟩
  if r.cause = fcLink then
    if s.polderCut (s.polderOf i) then ⟨some actRetire, max i ((neighbour i (r.detail % 8)).getD i), r.cause⟩ else transient
  else if r.cause = fcSensor then
    if (tileSensors i).any s.trusted then ⟨none, i, r.cause⟩ else ⟨some actRetire, i, r.cause⟩
  else if r.cause < 6 then transient
  else if r.cause ≤ fcManual then ⟨some actRetire, i, r.cause⟩
  else if r.cause = fcStack then ⟨some actStop, i, r.cause⟩
  else ⟨some actHold, i, r.cause⟩

/-- The FAULT_REC and FAULT_INFO words of a report. -/
def faultWords (s : State) (r : Report) (action : Nat) : W64 × W64 :=
  (word [(0, r.cause), (8, r.unit), (11, action), (32, s.ts)],
   word [(0, r.detail), (32, min 15 (s.chargesOf r.tile).length), (36, min 15 (Store.get 0 s.retires r.tile))])

/-- The event-log record of a report, and its ACTION on the tile's page. -/
def State.logReport (s : State) (r : Report) (action : Nat) : State :=
  let s := if r.tile < 80 then s.setRf (faultPage r.tile) Reg.FAULT_REC 12 11 action else s
  let w := faultWords s r action
  s.log (faultPage (if r.tile < 80 then r.tile else 0)) 7 2 w.1 w.2

/-! ### Heats -/

/-- The heats of the loaded casting, each by its lowest polder. -/
def State.allHeats (s : State) : List Nat :=
  ((List.range 8).filter (fun p => s.casting.polders.any (fun e => e.pol = p))).filter (fun p => s.heatKey p = p)
/-- The live member tiles of a heat. -/
def State.heatTiles (s : State) (p : Nat) : List Nat :=
  (List.range 80).filter (fun i => s.tstate i = tsActive && s.member i && (s.heatOf p).contains (s.polderOf i))
/-- The streams of a heat that are not FREE. -/
def State.heatStreams (s : State) (p : Nat) : List Nat := (s.heatOf p).flatMap s.streamsOf

/-- RC_STAT.STATE of every polder of a heat. -/
def State.setHeatState (s : State) (p code : Nat) : State :=
  (s.heatOf p).foldl (fun (s : State) q => s.setRf polderPage (Reg.RC_STAT q) 2 0 code) s

/-! ### The fence (R526, R527) -/

/-- Page commands of a tile end: SPILLING turns to RESIDENT, FETCHING to SPILLED, and each fails with FENCED (R352). -/
def State.fencePages (s : State) (i : Nat) : State :=
  (s.moverOf i).foldl (fun (s : State) c =>
    let e := s.pageEntry i c.entry
    let s := if e.state = pgSpilling then s.setPageEntry i c.entry pgResident e.peat
             else if e.state = pgFetching then s.setPageEntry i c.entry pgSpilled e.peat else s
    (s.dropCmd c).pgFail c pgCauseFenced) s

/-- A stream HELD by a fence. -/
def State.holdStream (s : State) (n : Nat) : State :=
  let x := s.stream n
  if x.st = .held then s else s.setStream n { x with st := .held, kept := x.st }

/-- The fence of a heat: epochs, page commands, streams, pours and RC_STAT. (DEDUCED: log entry 97) -/
def State.fenceHeat (s : State) (p : Nat) (r : Report) (cause : Nat) (phase : HeatPhase) : State :=
  let ps := s.heatOf p
  let s := (s.heatTiles p).foldl State.fencePages s
  let s := ps.foldl (fun (s : State) q =>
    let s := s.setEpoch q ((s.rf polderPage (Reg.RC_STAT q) 27 24 + 1) % 16)
    s.setFields polderPage (Reg.RC_STAT q)
      [(2, 0, if phase = .held then rcHeld else rcFencing), (15, 8, cause), (22, 16, if r.tile < 80 then r.tile else 0), (63, 32, s.ts)]) s
  let s := (s.heatStreams p).foldl State.holdStream s
  let s := ps.foldl State.fencePours s
  let h := s.heat p
  (s.setHeat p { h with phase := phase, report := r.since, fenced := s.up, swaps := [], cause := cause, ask := false }).raise polderPage 3

/-! ### Retirement and spares (R533, R538) -/

/-- A tile declared dead: neighbours fence it, its slots are unmapped, its domains go OFF, and it is QUARANTINED.
(DEDUCED: log entry 97) -/
def State.retireTile (s : State) (i : Nat) : State :=
  let s := s.fenceToward i true
  let s := { s with slotMap := Store.mapVals 0 (fun _ (e : BitVec 8) => if e.toNat = 128 + i then 0 else e) s.slotMap }
  let s := (s.offDomains i).resetTile i
  let s := (s.setTstate i tsQuarantined).bump polderPage 10 1
  let n := Store.get 0 s.retires i + 1
  { s.setRf (faultPage i) Reg.FAULT_INFO 39 36 (min 15 n) with retires := Store.set 0 s.retires i n }

/-- A better spare for a dead tile: more live edges, then nearer, then the lower index. -/
def State.spareBefore (s : State) (dead a b : Nat) : Bool :=
  let ea := s.liveEdges a
  let eb := s.liveEdges b
  decide (eb < ea) || (ea = eb && (decide (meshDist a dead < meshDist b dead) || (meshDist a dead = meshDist b dead && decide (a < b))))
def State.chooseSpare (s : State) (p pol dead : Nat) : Option Nat :=
  let used := (s.heat p).swaps.map (·.spare)
  ((List.range 80).filter (fun i => s.tstate i = tsSpare && decide (s.polderOf i = pol) && !used.contains i)).foldl
    (fun (a : Option Nat) i => match a with
      | none => some i
      | some b => if s.spareBefore dead i b then some i else some b) none

/-- A stream ends with FAULT although its heat stays fenced: nothing of it is in the loop. -/
def State.faultStream (s : State) (n : Nat) : State :=
  let x := s.stream n
  let s := s.setStream n { x with inflight := 0, chunks := 0 }
  if x.live then
    (((s.drainStream n stFault)).bump polderPage 12 1).raise polderPage 7
  else if x.st = .held then s.setStream n { s.stream n with st := .draining, kept := .free }
  else s

/-- A heat STOPPED until the next casting load: its streams end with FAULT (R521, R538). (DEDUCED: log entry 97) -/
def State.stopHeat (s : State) (p : Nat) : State :=
  let s := (s.heatStreams p).foldl State.faultStream s
  let s := (s.heatOf p).foldl State.resetBeds s
  (s.setHeat p { s.heat p with phase := .stopped, swaps := [] }).setHeatState p rcStopped

/-- A spare for a slot that lost its tile; without one the heat stops. -/
def State.assignSpare (s : State) (p pol dead slot : Nat) : State :=
  match s.chooseSpare p pol dead with
  | some i =>
    let h := s.heat p
    (s.setHeat p { h with swaps := h.swaps ++ [⟨dead, slot, i, false, false⟩] }).wakeTile i 0
  | none => (s.raise polderPage 5).stopHeat p

/-- A tile of a fenced heat dies: its slots, or those it was to take, need spares. -/
def State.retireIn (s : State) (p i : Nat) : State :=
  let pol := s.polderOf i
  let h := s.heat p
  let own := if s.tstate i = tsActive then (s.slotsOf i pol).map (fun k => (i, k)) else []
  let lost := (h.swaps.filter (fun w => w.spare = i)).map (fun w => (w.dead, w.slot))
  let s := s.setHeat p { h with swaps := h.swaps.filter (fun w => w.spare ≠ i) }
  let s := s.retireTile i
  (own ++ lost).foldl (fun (s : State) x =>
    if (s.heat p).phase = .stopped then s else s.assignSpare p pol x.1 x.2) s

/-! ### The sequencer takes a report (R520 to R525, R531, R532) -/

/-- The last STORM_MAX re-admissions lie within one second, so that the next report is a storm. (DEDUCED: log entry 97) -/
def State.storming (s : State) (p : Nat) : Bool :=
  let n := max 1 (s.rf polderPage (Reg.RC_CTL p) 23 16)
  let l := (s.heat p).admits
  match l[l.length - n]?, l.getLast? with
  | some a, some b => decide (n ≤ l.length) && decide (b < a + 1000000000)
  | _, _ => false

/-- An action on one heat. -/
def State.actOn (s : State) (p : Nat) (r : Report) (v : Verdict) (action : Nat) : State :=
  let h := s.heat p
  let retires (s : State) : State := if action = actRetire && (s.heat p).phase ≠ .stopped then s.retireIn p v.victim else s
  match h.phase with
  | .stopped => if action = actRetire then s.retireTile v.victim else s
  | .running =>
    if action = actStop then (s.fenceHeat p r v.cause .settling).stopHeat p
    else if s.storming p then retires ((s.fenceHeat p r fcStorm .held).raise polderPage 6)
    else if action = actHold then s.fenceHeat p r v.cause .held
    else retires (s.fenceHeat p r v.cause .settling)
  | .held => if action = actStop then s.stopHeat p else retires s
  | _ =>
    if action = actStop then s.stopHeat p
    else if action = actHold then (s.setHeat p { h with phase := .held, cause := v.cause }).setHeatState p rcHeld
    else retires (s.setHeat p { h with report := r.since })

/-- A transient charged to the tile that reported it. (DEDUCED: log entry 98) -/
def State.charge (s : State) (r : Report) (v : Verdict) : State :=
  if v.action = some actTransient && decide (r.tile < 80) && s.tstate r.tile = tsActive then
    let l := s.chargesOf r.tile ++ [s.up]
    { s with charges := Store.set [] s.charges r.tile l }
  else s

/-- A report received: recorded in the event log, and acted on. -/
def State.takeReport (s : State) (r : Report) : State :=
  let s := { s with reports := s.reports.erase r }
  let v := s.verdict r
  let s := (s.charge r v).logReport r (v.action.getD 0)
  let placing := castState s = csPlacing || castState s = csPouring
  match v.action with
  | none => if placing then s.failLate lcFault s.sectionNow else s
  | some a =>
    if placing then s.failLate lcFault s.sectionNow
    else if !s.castInForce then s
    else if r.cause = fcSeal || r.cause = fcStack then s.allHeats.foldl (fun (s : State) p => s.actOn p r v a) s
    else if s.tstate v.victim = tsActive && s.member v.victim then s.actOn (s.heatKey (s.polderOf v.victim)) r v a
    else if s.tstate v.victim = tsSpare && a = actRetire then
      let p := s.heatKey (s.polderOf v.victim)
      if (s.heat p).swaps.any (fun w => w.spare = v.victim) then s.retireIn p v.victim else s.retireTile v.victim
    else s

/-- The oldest report of a tile reaches the sequencer. Reports that no tile records come with those of tile 0.
(DEDUCED: log entry 53) -/
def execRecastStart (tile : TileIx) (s : State) : Out State :=
  match s.reports.find? (fun r => decide (r.tile = tile.val) || (decide (80 ≤ r.tile) && tile.val = 0)) with
  | none => .next s
  | some r => .next (s.takeReport r)

/-- A condition that a tile detects reaches its FAULT page: the causes of R521 whose source is a tile. (DEDUCED: log entry 99) -/
def execFaultReport (tile : TileIx) (cause unit : BitVec 8) (detail : W32) (s : State) : Out State :=
  let c := cause.toNat
  .next (if s.boot.main && decide (1 ≤ c) && (decide (c ≤ fcSensor) || c = fcPour) && decide (unit.toNat < 8)
    then s.report tile c unit.toNat detail.toNat else s)

/-! ### Heartbeats (R522) -/

def State.beats_ (s : State) (i : Nat) : Bool := s.tstate i = tsActive || s.tstate i = tsSpare
def State.beatAge (s : State) (i : Nat) : Nat := s.up - Store.get 0 s.beats i

/-- A heartbeat; those that should have come before it and did not are counted. -/
def execHeartbeat (tile : TileIx) (s : State) : Out State :=
  if s.beats_ tile then
    let missed := s.beatAge tile / 10000 - 1
    let t : State := { s with beats := Store.set 0 s.beats tile s.up }
    .next (if missed = 0 then t else t.bump (faultPage tile) 1 missed)
  else .next s

/-- The third heartbeat in a row is missing. (DEDUCED: log entry 99) -/
def execHeartbeatMiss (tile : TileIx) (s : State) : Out State :=
  if s.beats_ tile && decide (30000 ≤ s.beatAge tile) then
    let t : State := { s with beats := Store.set 0 s.beats tile s.up }
    .next ((t.bump (faultPage tile) 1 3).report tile fcSilent 0 0)
  else .next s

/-! ### The settle and the reset (R524, R528, R529) -/

/-- The journal settle in ns. -/
def State.settleNs (s : State) (p : Nat) : Nat :=
  ((s.heatOf p).map (fun q => 1000 * max 20 (s.rf polderPage (Reg.RC_CTL q) 15 8))).foldl max 0

/-- A stream at the reset of its heat: its credits return. -/
def State.clearLoop (s : State) (n : Nat) : State :=
  s.setStream n { s.stream n with inflight := 0, chunks := 0, draftOut := false, paths := [], frontier := 0 }

/-- Poisoned peat lines of a tile, and poisoned pool lines as (crucible, line). -/
def State.badPeat (s : State) (i : Nat) : List Nat := ((s.peatBad.filter (fun e => e.2 && decide (e.1 / 2 ^ 25 = i))).map (fun e => e.1 % 2 ^ 25))
def State.badPool (s : State) (i : Nat) : List (Nat × Nat) :=
  (s.poolBad.filter (fun e => e.2 && decide (e.1 / 2 ^ 13 / 4 = i))).map (fun e => (e.1 / 2 ^ 13 % 4, e.1 % 2 ^ 13))

/-- The extents of a tile's own slot image; none where it holds no slot. -/
def State.ownExtents (s : State) (i : Nat) : List Extent × State :=
  match s.ownSlot i with
  | none => ([], s)
  | some k => s.readExtents (s.polderOf i) k

/-- A poisoned peat line written again: from the slot image where an extent covers it, else with zeros. -/
def State.fixLine (s : State) (i line : Nat) : State :=
  let off := 256 * line
  let (l, s) := s.ownExtents i
  let src := l.find? (fun (e : Extent) => decide (e.peat ≤ off) && decide (off + 256 ≤ e.peat + e.len))
  match src with
  | some e =>
    match s.mireServeRead (e.mire + (off - e.peat)) 256 with
    | (some bs, t) => t.writePeat i off bs
    | (none, t) => t.writePeat i off (List.replicate 256 0)
  | none => s.writePeat i off (List.replicate 256 0)

/-- The poisoned lines of a tile fixed; more than 64 of its peat in an hour escalate it. -/
def State.fixTile (s : State) (i : Nat) : State :=
  let peat := s.badPeat i
  let pool := s.badPool i
  if peat.isEmpty && pool.isEmpty then s
  else
    let s := peat.foldl (fun (s : State) l => s.fixLine i l) s
    let s := pool.foldl (fun (s : State) x => s.writePool i x.1 (4096 * x.2) (List.replicate 4096 0)) s
    let log := (Store.get [] s.fixes i).filter (fun x => decide (s.up < x.1 + 3600000000000)) ++ [(s.up, peat.length)]
    let s := { s with fixes := Store.set [] s.fixes i log }
    let s := (s.bump (faultPage i) 2 (peat.length + pool.length)).raise (faultPage i) 1
    if 64 < (log.map (·.2)).sum then s.report i fcEscalated 0 0 else s

/-- The settle ends: every live tile of the heat is reset and its poison is fixed. (DEDUCED: log entry 98) -/
def execSettleEnd (polder : PolderIx) (s : State) : Out State :=
  let p := polder.val
  let h := s.heat p
  if h.phase ≠ .settling || s.up < h.fenced + s.settleNs p then .next s
  else
    let s := (s.heatTiles p).foldl (fun (s : State) i => (s.resetTile i).initRegions i) s
    let s := (s.heatOf p).foldl State.resetBeds s
    let s := (s.heatStreams p).foldl State.clearLoop s
    let s := s.setHeat p { s.heat p with phase := .refilling }
    let s := if (s.heat p).swaps.isEmpty then s else s.setHeatState p rcRefilling
    .next ((s.heatTiles p).foldl State.fixTile s)

/-! ### Refill (R539) -/

/-- Refill begins on every spare whose peat layers 0 and 1 are ON. -/
def execRefillStart (polder : PolderIx) (s : State) : Out State :=
  let p := polder.val
  let h := s.heat p
  if h.phase ≠ .settling && h.phase ≠ .refilling then .next s
  else .next (s.setHeat p { h with swaps := h.swaps.map (fun w =>
    if s.domCode w.spare 4 = 2 && s.domCode w.spare 5 = 2 then { w with begun := true } else w) })

/-- Bytes of the mire copied into a spare's peat, counted in REFILL_BYTES. -/
def State.refillBytes (s : State) (i off a n : Nat) : State :=
  match s.mireServeRead a n with
  | (some bs, t) => (t.fillPeat i off bs).bump polderPage 13 n
  | (none, t) => t

/-- The rings and resident pages of a block's streams. (DEDUCED: log entry 100) -/
def State.refillBlock (s : State) (x : KvSpot) : State :=
  let r := x.recBytes
  (s.streams.map (·.1)).foldl (fun (s : State) n =>
    let e := MapEntry.ofBytes (s.readPeat x.tile (x.k.map + 32 * n) 32)
    if !e.valid then s
    else if !x.k.page then s.refillBytes x.tile e.base e.shadow (r * 2 ^ min 20 e.log2)
    else (List.range (2 ^ min 16 e.log2)).foldl (fun (s : State) j =>
      let q := s.pageEntry x.tile (e.base + 16 * j)
      if q.state = pgResident then s.refillBytes x.tile q.peat q.mire x.pageLen else s) s) s

/-- The blocks that a polder's plan places on a slot, read at a tile. -/
def State.slotSpots (s : State) (pol slot tile : Nat) : List KvSpot :=
  ((s.kvPlan pol).filter (fun e => e.slot = slot)).filterMap (fun e =>
    (s.planCtx tile e.ctx).map (fun k => ⟨tile, pol * 128 + slot, e.ctx, k⟩))

/-- The slot image of a dead tile copied into its spare. -/
def State.refillTile (s : State) (w : Swap) : State :=
  let pol := s.polderOf w.spare
  let (l, s) := s.readExtents pol w.slot
  let s := l.foldl (fun (s : State) (e : Extent) => s.refillBytes w.spare e.peat e.mire e.len) s
  (distinctMaps (s.slotSpots pol w.slot w.spare)).foldl State.refillBlock s

/-- Every refill that has begun and whose spare has all its peat is complete. -/
def execRefillDone (polder : PolderIx) (s : State) : Out State :=
  let p := polder.val
  let h := s.heat p
  if h.phase ≠ .settling && h.phase ≠ .refilling then .next s
  else
    let ready (w : Swap) : Bool := w.begun && !w.done && [4, 5, 6, 7].all (fun n => s.domCode w.spare n = 2)
    let s := (h.swaps.filter ready).foldl State.refillTile s
    .next (s.setHeat p { s.heat p with swaps := h.swaps.map (fun w => if ready w then { w with done := true } else w) })

/-! ### Step 6: the spare takes the slot (R536, R540) -/

/-- The per-slot values of a slot: RID_CTL.EN and PLACES, PWR_WT.WT and ISSUE_EN of the four crucibles. -/
def State.putSlotValues (s : State) (i : Nat) (l : List Nat) : State :=
  let s := s.setFields (riddlePage i) Reg.RID_CTL [(0, 0, l.getD 0 0), (12, 4, l.getD 1 0)]
  let s := s.setRf (pwrPage i) Reg.PWR_WT 7 0 (l.getD 2 0)
  (List.range 4).foldl (fun (s : State) k => s.setRf (cruPage i k) Reg.CRU_CTL 16 16 (l.getD (3 + k) 0)) s

def State.spareTakes (s : State) (w : Swap) : State :=
  let pol := s.polderOf w.spare
  let e := BitVec.ofNat 8 (128 + w.spare)
  let s := ((List.range 80).filter (· ≠ w.dead)).foldl (fun (s : State) i =>
    { s with slotMap := Store.set 0 s.slotMap ((i * 8 + pol) * 128 + w.slot) e }) s
  let s := (s.setTstate w.spare tsActive).putSlotValues w.spare (Store.get [] s.casting.slots (pol * 128 + w.slot))
  let s := ((s.resetTile w.spare).initRegions w.spare).openPorts w.spare
  let s := (s.fenceToward w.spare false).moveGateways w.dead
  { s with beats := Store.set 0 s.beats w.spare s.up }

/-! ### Replay (R541 to R544) -/

/-- A journal entry can be read and holds the record of a count. -/
def State.jrnHas (s : State) (n k : Nat) : Bool :=
  let x := s.stream n
  let b := s.jrnRecord n k
  let w := leAt b 8 8
  s.mireReady (s.jrnEntry n k) 16 && !s.mirePoisoned (s.jrnEntry n k) 16 && leAt b 0 4 = x.promptLen + k - 1 && bits w 11 0 = n && bits w 19 12 = x.genBind.toNat && bits w 63 48 = k % 2 ^ 16
/-- The entries present from a count upward. (DEDUCED: log entry 100) -/
def State.jrnScan (s : State) (n : Nat) : Nat → Nat → Nat
  | 0, k => k
  | fuel + 1, k => if s.jrnHas n (k + 1) then s.jrnScan n fuel (k + 1) else k

/-- COMMIT_POS of the commit header, EMITTED and GSTATE of the emission header. -/
def State.jrnCommitPos (s : State) (n : Nat) : Nat := leNat (s.readMire (s.jrnAt n + 8) 4)
def State.jrnCommitSeq (s : State) (n : Nat) : Nat := leNat (s.readMire (s.jrnAt n + 12) 4)
def State.jrnEmitted (s : State) (n : Nat) : Nat := leNat (s.readMire (s.jrnAt n + 64) 4)
def State.jrnGstate (s : State) (n : Nat) : Nat := leNat (s.readMire (s.jrnAt n + 68) 3)

/-- A stream whose KV on a replaced slot has no mire copy (R539). -/
def State.shadowless (s : State) (n : Nat) (swaps : List Swap) : Bool :=
  let pol := (s.stream n).polder
  swaps.any (fun w => decide (s.polderOf w.spare = pol) && (s.slotSpots pol w.slot w.spare).any (fun x =>
    !x.k.shadow && (MapEntry.ofBytes (s.readPeat w.spare (x.k.map + 32 * n) 32)).valid))

/-- Whether a stream's journal cannot restore it. -/
def State.jrnLost (s : State) (n : Nat) : Bool :=
  let e := s.jrnEmitted n
  !s.jrnOn || (decide (0 < e) && !s.jrnHas n e)

/-- e of R541. -/
def State.replayCount (s : State) (n : Nat) : Nat := s.jrnScan n s.jrnRing (s.jrnEmitted n)

/-- What a replay reads of a stream's journal: the headers, and the records, of its own journal or its target's, whose tokens it needs for
HIST and for the positions it runs again, up to position `last`. -/
def State.replayReads (s : State) (n last : Nat) : List (Nat × Nat) :=
  let x := s.stream n
  let first := min (s.jrnCommitPos n) (last + 1 - 256)
  (s.jrnAt n, 128) :: ((List.range (last + 1 - first)).filter (fun i => decide (x.promptLen ≤ first + i))).map
    (fun i => (s.jrnEntry (if x.draft && x.linked then x.link else n) (first + i - x.promptLen + 1), 16))
/-- L of R541 and R544. -/
def State.replayLast (s : State) (n : Nat) : Nat :=
  let x := s.stream n
  if x.draft && x.linked && (s.stream x.link).st ≠ .free then
    (match (s.stream x.link).replay with | some k => k - 1 | none => x.promptLen - 1)
  else x.promptLen + (if x.draft then 0 else s.replayCount n) - 1

/-- The riddle record rebuilt (R543): HIST, its indices and GSTATE. -/
def State.rebuildRecord (s : State) (n last e : Nat) : State :=
  let x := s.stream n
  match (s.polderTiles x.polder).head?.bind (fun i => s.homeTile i x.polder n) with
  | none => s
  | some home =>
    let k := min 256 (last + 1)
    let toks := (List.range k).map (fun i => s.tokenAt n (last + 1 - k + i))
    let a := s.recordAt home n
    let w5 := leNat (s.readPeat home (a + 40) 8)
    let e0 := s.jrnEmitted n
    let g := if bit w5 22 then
        (List.range (e - e0)).foldl (fun g i =>
          (s.gramNext home (bits w5 21 16) g (s.tokenAt n (x.promptLen + e0 + i))).getD g) (s.jrnGstate n)
      else s.jrnGstate n
    let put (s : State) (off : Nat) (bs : List Byte) : State := s.writePeat home off (bs.take (peatSize - off))
    put (put (put s (a + 1024) (padTo 1024 (toks.flatMap (leBytes 4)))) (a + 56) (leBytes 8 (k + k % 256 * 2 ^ 16))) (a + 45) (leBytes 3 g)

/-- A target, or a stream that drafts for none, restored from its journal. (DEDUCED: log entry 100) -/
def State.replayStream (s : State) (n : Nat) : State :=
  let x := s.stream n
  let e := if x.draft then 0 else s.replayCount n
  let c := s.jrnCommitPos n
  let last := x.promptLen + e - 1
  let s := if x.draft then s else s.rebuildRecord n last e
  (s.setStream n { s.stream n with
    st := x.kept, kept := .free, admitted := min c last, replay := some (last + 1), emitted := e, commitPos := c,
    commitSeq := s.jrnCommitSeq n, jrnGap := false, unsent := [] }).bump
      polderPage 11 1

/-- A draft stream restored: it runs to its target's last known token. (DEDUCED: log entry 100) -/
def State.replayDraft (s : State) (n : Nat) : State :=
  let x := s.stream n
  let y := s.stream x.link
  let last := match y.replay with | some k => k - 1 | none => x.promptLen - 1
  let c := s.jrnCommitPos n
  let s := s.rebuildRecord n last 0
  (s.setStream n { s.stream n with
    st := x.kept, kept := .free, admitted := min c last, replay := some (last + 1), commitPos := c,
    commitSeq := s.jrnCommitSeq n, unsent := [] }).bump polderPage 11 1

/-- A HELD stream at re-admission. Without journals every stream is abandoned (R355). (DEDUCED: log entry 100) -/
def State.readmitStream (s : State) (swaps : List Swap) (n : Nat) : State :=
  let x := s.stream n
  if x.st ≠ .held then s
  else if !s.jrnOn && x.live then s.abandonStream n
  else if x.kept = .prefill || x.kept = .decode then
    let (read, s) := s.mireTake (s.replayReads n (s.replayLast n))
    if !read || s.jrnLost n || s.shadowless n swaps then s.abandonStream n
    else if x.draft && x.linked && (s.stream x.link).st ≠ .free then s.replayDraft n
    else s.replayStream n
  else s.setStream n { x with st := x.kept, kept := .free }

/-! ### Re-admission (R525 step 8) -/

/-- The start-list tasks of a heat start. -/
def State.startHeatTasks (s : State) (ps : List Nat) : State :=
  (s.casting.starts.filter (fun w => ps.contains (bits w 9 7))).foldl (fun (s : State) w =>
    match s.castTile (bits w 9 7) (bits w 6 0) with
    | some i => s.startTask i (bits w 11 10) (bits w 14 12)
    | none => s) s

/-- RC_TIME of a polder. -/
def State.noteTime (s : State) (p ns : Nat) : State :=
  let n := min ns (2 ^ 32 - 1)
  s.setFields polderPage (Reg.RC_TIME p) [(31, 0, n), (63, 32, max n (s.rf polderPage (Reg.RC_TIME p) 63 32))]

def State.heatReady (s : State) (h : Heat) : Bool :=
  h.phase = .refilling && h.swaps.all (fun w => w.done && (List.range 8).all (fun n => s.domCode w.spare n = 2))

/-- Step 8. Targets are restored before the streams that draft for them. -/
def State.readmit (s : State) (p : Nat) : State :=
  let h := s.heat p
  let ps := s.heatOf p
  let s := h.swaps.foldl State.spareTakes s
  let s := (ps.foldl State.polderRoutes s).engineRoutes
  let ns := s.heatStreams p
  let s := ns.foldl (fun (s : State) n => s.spreadGen (s.stream n).polder n) s
  let s := (ns.filter (fun n => !(s.stream n).draft)).foldl (State.readmitStream · h.swaps) s
  let s := (ns.filter (fun n => (s.stream n).draft)).foldl (State.readmitStream · h.swaps) s
  let s := s.startHeatTasks ps
  let s := ps.foldl State.resumePours s
  let s := (ps.flatMap s.bedsOf).foldl (fun (s : State) b => s.setBed b { s.bed b with wdog := s.up }) s
  let admits := h.admits.drop (h.admits.length - 254) ++ [s.up]
  let s := s.setHeat p { h with phase := .running, swaps := [], ask := false, admits := admits }
  let s := ps.foldl (fun (s : State) q => s.noteTime q (s.up - h.report)) s
  let s := ((s.setHeatState p rcRunning).bump polderPage 9 1).raise polderPage 4
  s.log polderPage 8 1 (s.view .mgmt polderPage (Reg.RC_STAT p)) (s.reg polderPage (Reg.RC_TIME p))

def execReadmission (polder : PolderIx) (s : State) : Out State :=
  .next (if s.heatReady (s.heat polder) then s.readmit polder else s)

/-! ### Quarantine (R535, R558) -/

/-- A self-test starts: it is counted, and its domains ramp in class 2. -/
def State.startSelfTest (s : State) (i : Nat) : State :=
  ((s.setTstate i tsSelfTest).bump (stewPage 0) 2 1).wakeTile i 2

/-! ### RC_CTL and RC_TILE (R532, R533, R535, R547) -/

/-- A HELD heat runs steps 4 to 8. -/
def State.resumeHeat (s : State) (p : Nat) : State :=
  let h := s.heat p
  if h.phase ≠ .held then s
  else if h.cause = fcSeal && s.sealRun.fenced then s.setHeat p { h with ask := true }
  else (s.setHeat p { h with phase := .settling, fenced := s.up, ask := false }).setHeatState p rcFencing

/-- The heats that wait for the end of the seal's fence. -/
def State.resumeAsked (s : State) : State :=
  s.allHeats.foldl (fun (s : State) p => if (s.heat p).ask then s.resumeHeat p else s) s

/-- What a write of RC_CTL starts; RESUME reads 0. -/
def rcCtlHook (w : WEff) (p : Nat) : State :=
  let s := w.st.setRb polderPage (Reg.RC_CTL p) 0 false
  if w.fires 0 then s.resumeHeat p else s

def execRcResume (who : Requester) (p : PolderIx) (v : W64) (s : State) : Out State :=
  .next (rcCtlHook (s.writeCore who polderPage (Reg.RC_CTL p) .b64 (setBit v 0 true)) p)

/-- What a write of RC_TILE starts; GO reads 0. -/
def rcTileHook (w : WEff) : State :=
  let s := w.st.setRb polderPage Reg.RC_TILE 12 false
  let i := s.rf polderPage Reg.RC_TILE 6 0
  let op := s.rf polderPage Reg.RC_TILE 9 8
  if !w.fires 12 || 80 ≤ i then s
  else if op = 1 && (s.tstate i = tsActive || s.tstate i = tsSpare) then s.report i fcManual 0 0
  else if op = 2 && s.tstate i = tsQuarantined then s.startSelfTest i
  else s

def State.rcTileWrite (s : State) (who : Requester) (op : Nat) (v : W64) : State :=
  rcTileHook (s.writeCore who polderPage Reg.RC_TILE .b64 (setFld (setBit v 12 true) 9 8 op))
def execRcRetire (who : Requester) (v : W64) (s : State) : Out State := .next (s.rcTileWrite who 1 v)
def execRcReadmit (who : Requester) (v : W64) (s : State) : Out State := .next (s.rcTileWrite who 2 v)

/-- The polder whose rectangle holds a tile. -/
def State.rectPolder (s : State) (i : Nat) : Nat :=
  match s.casting.polders.find? (fun e => inRect e (siteOf i).1 (siteOf i).2) with
  | some e => e.pol
  | none => s.polderOf i

/-- With AUTO_READMIT, the steward tests a quarantined tile that answers and has been retired fewer than three times. -/
def execQuarantineSelfTest (tile : TileIx) (s : State) : Out State :=
  let i := tile.val
  .next (if s.tstate i = tsQuarantined && s.rb polderPage (Reg.RC_CTL (s.rectPolder i)) 24 && decide (Store.get 0 s.retires i < 3)
    then s.startSelfTest i else s)

/-- A self-test ends: the tile, its memories zeroed by the march test, is a spare again, or it is withdrawn with its domains OFF.
(DEDUCED: log entry 99) -/
def execSelfTestDone (tile : TileIx) (pass : Bool) (s : State) : Out State :=
  let i := tile.val
  if s.tstate i ≠ tsSelfTest then .next s
  else if !pass then .next ((s.setTstate i tsWithdrawn).offDomains i)
  else
    let s := (s.wipeTile i).baselines i
    let s := ((s.setTstate i tsSpare).openPorts i).fenceToward i false
    let s := s.spareDomains i
    .next { s with beats := Store.set 0 s.beats i s.up, planDue := Store.set false s.planDue i true }

end Sys2Proof.Machine
end

