-- ==== Sys2Proof/Machine/Pages.lean ====
section
/-! DEFINITION. The register pages' own commands: reads with side effects, guards, mailboxes, counter clears, timeouts, the seal
walker, taps and device time (R429 to R452, R577, R584, R599). -/
namespace Sys2Proof.Machine

/-! ### Reads (R4, R429, R432) -/

/-- A register read by a requester, whose value it gets. -/
def State.readReg (s : State) (who : Requester) (page off : Nat) (size : AccSize) : State :=
  let (v, t) := s.busRead who page off size
  t.deliver who v

def execRegReadRc (who : Requester) (page : BitVec 16) (off : BitVec 12) (size : AccSize) (s : State) : Out State :=
  .next (s.readReg who page.toNat off.toNat size)
def execRegReadLowHalf (who : Requester) (page : BitVec 16) (off : BitVec 12) (s : State) : Out State :=
  .next (s.readReg who page.toNat off.toNat .b32)

/-- A mapped page gives no answer within 10 µs: a read completes with all-ones, a write is dropped. (DEDUCED: log entry 85) -/
def execRegAccessTimeout (who : Requester) (page : BitVec 16) (off : BitVec 12) (write : Bool) (s : State) : Out State :=
  if (pageInfo page.toNat).isNone || !s.boot.vaux then .next s
  else
    let t := (s.dropShadow who page.toNat).regTimeout
    .next (if write || off.toNat % 4 ≠ 0 then t else t.deliver who 0xFFFFFFFFFFFFFFFF)

/-! ### Guards (R436, R438) -/

def guardKeyValue : Nat := 0xC457
/-- Fabric cycles for which a guard stays open; a cycle is 1 ns. (DEDUCED: log entry 79) -/
def guardCycles : Nat := 1024

/-- A value written to GUARD_KEY. (DEDUCED: log entry 79) -/
def State.writeKey (s : State) (who : Requester) (page key : Nat) : State :=
  let o := s.guardOwner page
  if o ≠ 0 && o ≠ whoCode who then s.guardErr who page
  else if key = guardKeyValue then { s with guards := Store.set {} s.guards page ⟨whoCode who, s.up + guardCycles⟩ }
  else s.closeGuard page

/-- A write of GUARD_KEY. A 32-bit write of its upper half writes another value than the key. -/
def State.keyWrite (s : State) (who : Requester) (page off : Nat) (size : AccSize) (v : W64) : State :=
  let t := s.dropShadow who page
  match reach off size with
  | none => t
  | some (_, half) =>
    if s.timesOut page then t.regTimeout
    else if !s.pageLive page then t
    else t.writeKey who page (if fbit half 0 then fld v 15 0 else 0)

def execGuardKey (who : Requester) (page : BitVec 16) (size : AccSize) (v : W64) (s : State) : Out State :=
  .next (s.keyWrite who page.toNat Reg.GUARD_KEY size v)

/-- REMAIN reaches 0. (DESIGN CHOICE: log entry 4) -/
def execGuardLapse (page : BitVec 16) (s : State) : Out State :=
  .next (if (s.guard page.toNat).till ≤ s.up then s.closeGuard page.toNat else s)

/-- A reset of the management bus interface closes the guards that the management bus holds. -/
def execMgmtBusReset (s : State) : Out State := .next (s.closeGuards (whoCode .mgmt))

/-! ### The mailbox (R433 to R435) -/

/-- A stream context as eight words (R250). -/
def streamWords (x : Stream) : List W64 :=
  [word [(0, sstateCode x.st), (3, x.gen.toNat), (11, x.polder), (14, x.cls), (16, b2n x.draft), (17, b2n x.linked), (18, x.link),
      (30, b2n x.draftOut), (32, x.inflight), (40, x.status)],
   word [(0, x.promptLen), (32, x.maxTokens)], word [(0, x.commitPos), (32, x.emitted)],
   word [(0, x.posLimit), (32, x.treeNodes), (39, x.treeDepth)], x.bindTs, x.lastTs, word [(0, x.admitted)], 0]

/-- A monitor capture's bins and summary (R577). -/
def binWords (c : MonCap) : List W64 :=
  (List.range 8).map (fun k => word [(0, (Store.get 0 c.bins (2 * k)).toNat), (32, (Store.get 0 c.bins (2 * k + 1)).toNat)])
def sumWords (c : MonCap) : List W64 :=
  [c.count, BitVec.ofInt 64 c.sum, word [(0, c.min.toNat), (32, c.max.toNat)], word [(0, c.minTs.toNat), (32, c.maxTs.toNat)]]

/-- An event-log record as four words (R581). -/
def recWords (seq : Nat) (r : LogRec) : List W64 :=
  [r.ts, word [(0, seq), (32, r.cause.toNat), (40, r.sev.toNat), (48, r.page.toNat)], r.d0, r.d1]

/-- A digest as words, lowest address first. -/
def digestWords (b : List Byte) : List W64 := (List.range 6).map (fun k => BitVec.ofNat 64 (leAt b (8 * k) 8))

/-- The event-log record that EVL_RD selects (R584). -/
def State.evlSelected (s : State) : Option (List W64) :=
  let rd := s.rf evlogPage Reg.EVL_RD 31 0
  let age := (s.rf evlogPage Reg.EVL_WR 31 0 + 2 ^ 32 - rd) % 2 ^ 32
  if 1 ≤ age && age ≤ 4096 then (Store.get none s.evRing (rd % 4096)).map (recWords rd) else none

/-- Whether a tap has latched a page. -/
def State.tapped (s : State) (page : Nat) : Bool := s.rb page Reg.TAP_TAG 16

/-- The value a page defines, and the tap number of a tapped one. -/
def State.mbxValue (s : State) (page v : Nat) : Option (List W64 × Nat) :=
  let tag := s.rf page Reg.TAP_TAG 15 0
  let set := Store.get [] s.tapSets page
  if v = 0xFFF0 then (if s.tapped page then some (set.take 8, tag) else none)
  else if v = 0xFFF1 then (if s.tapped page then some ((set.drop 8).take 8, tag) else none)
  else match pageInfo page with
    | none => none
    | some p =>
      if p.cls = 0x07 && v = 1 then some (streamWords (s.stream (s.rf streamPage Reg.STRM_SEL 11 0)), 0)
      else if p.cls = 0x0A && v = 1 then s.evlSelected.map (·, 0)
      else if p.cls = 0x1A && decide (0x100 ≤ v) && decide (v < 0x110) then
        let m := v % 4
        let live := Store.get {} s.mon (p.inst * 4 + m)
        let held := Store.get {} s.monTap (p.inst * 4 + m)
        if v < 0x104 then some (binWords live, 0)
        else if v < 0x108 then some (sumWords live, 0)
        else if !s.tapped page then none
        else if v < 0x10C then some (binWords held, tag)
        else some (sumWords held, tag)
      else if p.cls = 0x26 && p.inst = 0 && decide (1 ≤ v) && decide (v ≤ 4) then
        let x := s.keySlot (v - 1)
        if x.full then some (digestWords (sha384 x.point), 0) else none
      else if p.cls = 0x26 && p.inst = 0 && v = 0x10 then some (digestWords (sha384 Config.deviceCert), 0)
      else none

/-- A value selected in a requester's mailbox, and its capture. -/
def State.mbxSelect (s : State) (who : Requester) (page v : Nat) : State :=
  let m : Mbx := match s.mbxValue page v with
    | some (d, tag) => { sel := v, valid := true, tag := tag, data := d ++ List.replicate (8 - d.length) 0 }
    | none => { sel := v, bad := true }
  { s with mbxs := Store.set {} s.mbxs (whoCode who * 65536 + page) m }

/-- A write in the mailbox: only one that reaches bits [15:0] of MBX_SEL does anything. -/
def State.mbxWrite (s : State) (who : Requester) (page off : Nat) (size : AccSize) (v : W64) : State :=
  let t := s.dropShadow who page
  match reach off size with
  | none => t
  | some (o, half) =>
    if s.timesOut page then t.regTimeout
    else if o = Reg.MBX_SEL && fbit half 0 && s.pageLive page then t.mbxSelect who page (fld v 15 0) else t

def execMbxSel (who : Requester) (page : BitVec 16) (size : AccSize) (v : W64) (s : State) : Out State :=
  .next (s.mbxWrite who page.toNat Reg.MBX_SEL size v)

/-! ### PAGE_CTL.CNT_CLR (R426) -/

def State.clearCounters (s : State) (page : Nat) : State :=
  (List.range 16).foldl (fun (s : State) k => s.setReg page (Reg.COUNTER k) 0) s

def cntHook (w : WEff) (page : Nat) : State :=
  let s := w.st.zeroBits page Reg.PAGE_CTL 1
  if w.fires 0 then s.clearCounters page else s

def execCntClr (who : Requester) (page : BitVec 16) (v : W64) (s : State) : Out State :=
  let w := s.writeCore who page.toNat Reg.PAGE_CTL .b64 (setBit v 0 true)
  .next (if (pageInfo page.toNat).isSome then cntHook w page.toNat else w.st)

/-! ### The seal (R439 to R444) -/

def insertNat (x : Nat) : List Nat → List Nat
  | [] => [x]
  | a :: r => if x ≤ a then x :: a :: r else a :: insertNat x r

/-- The offsets of a register definition. -/
def RegDef.offs (r : RegDef) : List Nat :=
  match r.dims with
  | [] => [r.base]
  | [(st, n)] => (List.range n).map (fun i => r.base + st * i)
  | (s1, n1) :: (s2, n2) :: _ => (List.range n1).flatMap (fun i => (List.range n2).map (fun j => r.base + s1 * i + s2 * j))

/-- The offsets of a page's registers that hold an SL field, ascending. -/
def sealedOffs (page : Nat) : List Nat :=
  match pageInfo page with
  | none => []
  | some p =>
    (((Reg.tableOf p.cls).filter (fun r => r.on.holds p && r.fields.any (fun f => f.acc = .sl))).flatMap RegDef.offs).foldl
      (fun l x => insertNat x l) []

/-- A page's part of the seal stream. -/
def State.sealPart (s : State) (page : Nat) : List Byte :=
  let l := sealedOffs page
  if l.isEmpty then []
  else if s.timesOut page then leBytes 2 page ++ leBytes 2 0xFFFF ++ leBytes 8 (2 ^ 64 - 1)
  else l.flatMap (fun o =>
    let v := if s.pageLive page then s.stored page o &&& accMask page o .sl else 0
    leBytes 2 page ++ leBytes 2 o ++ leBytes 8 v.toNat)

/-- The result of a walk over the state as it is. -/
def State.sealCrc (s : State) : W32 := crc32c (allPages.flatMap s.sealPart)

/-- SEAL_CRC of every page with SL fields. -/
def State.sealPages (s : State) : State :=
  allPages.foldl (fun (t : State) p =>
    let b := s.sealPart p
    if b.isEmpty then t else t.setReg p Reg.SEAL_CRC (word [(0, (crc32c b).toNat), (32, 1)])) s

/-- A mismatch: recorded, raised, logged, and its ACTION applied. (DEDUCED: log entry 83) -/
def State.sealMismatch (s : State) : State :=
  let act := s.rf sealPage Reg.SEAL_CTL 2 1
  let s := (s.setFields sealPage Reg.SEAL_STAT [(0, 0, 1), (63, 32, s.ts)]).raise sealPage 0
  let s := s.log sealPage 3 2 (s.reg sealPage Reg.SEAL_CUR) (BitVec.ofNat 64 (s.rf sealPage Reg.SEAL_REF 31 0))
  if act = 0 then s
  else
    let s := s.setRb sealPage Reg.SEAL_STAT 1 true
    if act = 1 then s
    else
      let t : State := { s with sealRun := { s.sealRun with fenced := true } }
      if t.tstate 0 = tsActive || t.tstate 0 = tsSpare then t.report 0 fcSeal 6 0
      else { t with reports := t.reports ++ [⟨255, fcSeal, 6, 0, t.up⟩] }

/-- A walk is compared with REF. A second mismatch under an action changes nothing further. (DEDUCED: log entry 82) -/
def State.sealCompare (s : State) (crc : W32) : State :=
  let st := castState s
  let judged : Bool := st = csReady || st = csEmpty || st = csFailed
  if s.rb sealPage Reg.SEAL_CTL 0 && judged && decide (crc.toNat ≠ s.rf sealPage Reg.SEAL_REF 31 0) then
    let s := s.bump sealPage 1 1
    if s.rb sealPage Reg.SEAL_STAT 1 then s else s.sealMismatch
  else s

/-- A commit at the end of a clean walk. (DEDUCED: log entry 82) -/
def State.sealCommitNow (s : State) (crc : W32) : State :=
  let s := s.setRf sealPage Reg.SEAL_REF 31 0 crc.toNat
  let s := (s.setRb sealPage Reg.SEAL_CTL 0 true).setRb sealPage Reg.SEAL_CTL 3 false
  (s.bump sealPage 2 1).raise sealPage 1

/-- The time between the scheduled starts of two walks, in ns (R439). -/
def sealPeriod : Nat := 2000000

/-- The walk under way ends; the next one starts then or at its scheduled time, whichever is later (R439). With no walk under way
nothing happens. (DEDUCED: log entry 82) -/
def execSealWalk (s : State) : Out State :=
  if !s.boot.main || decide (s.up < s.sealRun.start) then .next s
  else
    let crc := s.sealCrc
    let clean : Bool := s.rb sealPage Reg.SEAL_CTL 3 && !s.sealRun.fresh && !s.sealRun.dirty
    let s := s.sealPages.bump sealPage 0 1
    let s := s.setReg sealPage Reg.SEAL_CUR (word [(0, crc.toNat), (32, s.ts)])
    let s := s.sealCompare crc
    let s := if clean then s.sealCommitNow crc else s
    .next { s with sealRun := { s.sealRun with
      start := max s.up (s.sealRun.start + sealPeriod), dirty := false, fresh := false } }

/-- RESUME ends HOLD or FENCE; after FENCE the heats that it holds go through the recast path. (DEDUCED: log entry 82) -/
def State.sealEnd (s : State) : State :=
  let t := s.setRb sealPage Reg.SEAL_STAT 1 false
  if !s.sealRun.fenced then t
  else
    let t : State := { t with sealRun := { t.sealRun with fenced := false } }
    let t := t.allHeats.foldl (fun (t : State) p => if (t.heat p).cause = fcSeal then t.resumeHeat p else t) t
    t.resumeAsked

/-- What a write of SEAL_CTL starts: COMMIT stays 1 until it is done, RESUME reads 0. (DEDUCED: log entry 83) -/
def sealHook (w : WEff) (old : State) : State :=
  let s := w.st.setRb sealPage Reg.SEAL_CTL 4 false
  let s := if old.rb sealPage Reg.SEAL_CTL 3 then s.setRb sealPage Reg.SEAL_CTL 3 true else s
  let s : State := if w.fires 3 && decide (s.sealRun.start ≤ s.up) then { s with sealRun := { s.sealRun with fresh := true } } else s
  if w.fires 4 && s.rb sealPage Reg.SEAL_STAT 1 then s.sealEnd else s

def execSealCommit (who : Requester) (v : W64) (s : State) : Out State :=
  .next (sealHook (s.writeCore who sealPage Reg.SEAL_CTL .b64 (setBit v 3 true)) s)
/-- DEDUCED: log entry 83. -/
def execSealResume (who : Requester) (v : W64) (s : State) : Out State :=
  .next (sealHook (s.writeCore who sealPage Reg.SEAL_CTL .b64 (setBit v 4 true)) s)

/-! ### Taps (R446 to R448) -/

/-- The live units: powered tiles that are not fenced, the sluice dies and the device-global block. -/
def State.tapUnits (s : State) : List Nat :=
  ((List.range 80).filter (fun i => s.live i && s.pageLive (tilePage i 0))) ++ (List.range 9).map (80 + ·)

def tpIdle : Nat := 0
def tpArmed : Nat := 1
def tpDone : Nat := 2
def State.tapState (s : State) : Nat := s.rf tapPage Reg.TAP_STAT 1 0

/-- A tap asked for. -/
def State.tapStart (s : State) : State :=
  let t := (s.reg tapPage Reg.TAP_TIME)
  let refuse (cause : Nat) : State := (s.setRf tapPage Reg.TAP_STAT 3 2 cause).raise tapPage 2
  if s.tapState = tpArmed then refuse 1
  else if t.toNat < s.now.toNat + 10000 then refuse 2
  else
    let us := s.tapUnits
    let s := s.setFields tapPage Reg.TAP_STAT [(1, 0, tpArmed), (22, 16, 0), (30, 24, 0), (38, 32, us.length)]
    { s with tap := { num := BitVec.ofNat 64 (s.rf tapPage Reg.TAP_NUM 15 0), time := t, waiting := us, unacked := [], late := [] } }

/-- A tap withdrawn: units that have not latched forget it. -/
def State.tapDrop (s : State) : State :=
  if s.tapState = tpArmed then { s.setRf tapPage Reg.TAP_STAT 1 0 tpIdle with tap := {} } else s

/-- What a write of TAP_CTL starts, GO before CANCEL. (DEDUCED: log entry 84) -/
def tapHook (w : WEff) : State :=
  let s := w.st.zeroBits tapPage Reg.TAP_CTL 3
  let s := if w.fires 0 then s.tapStart else s
  if w.fires 1 then s.tapDrop else s

def execTapGo (who : Requester) (v : W64) (s : State) : Out State :=
  .next (tapHook (s.writeCore who tapPage Reg.TAP_CTL .b64 (setFld v 1 0 1)))
def execTapCancel (who : Requester) (v : W64) (s : State) : Out State :=
  .next (tapHook (s.writeCore who tapPage Reg.TAP_CTL .b64 (setFld v 1 0 2)))

/-- A tile's monitor captures latched, and those with TAP_CLR cleared (R575). -/
def State.tapMonitors (s : State) (i : Nat) : State :=
  (List.range 4).foldl (fun (s : State) m =>
    let t : State := { s with monTap := Store.set {} s.monTap (i * 4 + m) (s.cap i m) }
    if s.rb (monPage i) Reg.MON_CTL (8 + m) then t.monClear i m else t) s

/-- A page's counters latched. (DEDUCED: log entry 84) -/
def State.tapPageNow (s : State) (num : Nat) (late : Bool) (page : Nat) : State :=
  let t : State := { s with tapSets := Store.set [] s.tapSets page ((List.range 16).map (fun k => s.reg page (Reg.COUNTER k))) }
  t.setReg page Reg.TAP_TAG (word [(0, num), (16, 1), (17, b2n late)])

/-- A unit latches once device time has reached T; it is late when T lies more than one fabric cycle back. -/
def State.latchUnit (s : State) (n : Nat) : State :=
  if s.tapState ≠ tpArmed || !s.tap.waiting.contains n || s.now.toNat < s.tap.time.toNat then s
  else
    let late := decide (s.tap.time.toNat + 1 < s.now.toNat)
    let s := (unitPages n).foldl (fun (s : State) p => s.tapPageNow s.tap.num.toNat late p) s
    let s := if n < 80 then s.tapMonitors n else s
    { s with tap := { s.tap with
      waiting := s.tap.waiting.filter (· ≠ n), unacked := s.tap.unacked ++ [n],
      late := if late then s.tap.late ++ [n] else s.tap.late } }
def execTapLatch (u : UnitRef) (s : State) : Out State := .next (s.latchUnit (unitIx u))

/-- A unit's acknowledgement arrives. (DEDUCED: log entry 84) -/
def execTapAck (u : UnitRef) (s : State) : Out State :=
  let n := unitIx u
  if s.tapState ≠ tpArmed || !s.tap.unacked.contains n then .next s
  else
    let late := s.tap.late.contains n
    let lat := s.rf tapPage Reg.TAP_STAT 22 16 + 1
    let lates := s.rf tapPage Reg.TAP_STAT 30 24 + b2n late
    let s : State := { s.setFields tapPage Reg.TAP_STAT [(22, 16, lat), (30, 24, lates)] with
      tap := { s.tap with unacked := s.tap.unacked.filter (· ≠ n) } }
    if lat ≠ s.rf tapPage Reg.TAP_STAT 38 32 then .next s
    else
      let s := ((s.setRf tapPage Reg.TAP_STAT 1 0 tpDone).bump tapPage 0 1).raise tapPage 0
      .next (if lates ≠ 0 then s.raise tapPage 1 else s)

/-! ### TIME_SET (R452) -/

/-- A new device time waits for the next epoch boundary; it is refused while PTP steers or a tap is ARMED. -/
def timeHook (w : WEff) : State :=
  if w.mask = 0 then w.st
  else if w.st.rf timePage Reg.TIME_STAT 1 0 = 1 || w.st.tapState = tpArmed then w.st.raise timePage 0
  else { w.st.setRb timePage Reg.TIME_STAT 2 true with timeSet := some (w.st.reg timePage Reg.TIME_SET) }

def execTimeSet (who : Requester) (v : W64) (s : State) : Out State :=
  .next (timeHook (s.writeCore who timePage Reg.TIME_SET .b64 v))

end Sys2Proof.Machine
end

