-- ==== Sys2Proof/Machine/Trust.lean ====
section
/-! DEFINITION. Attestation with SPDM, measurements, the enrollment of customer keys and the anti-rollback counter (chapter 20). -/
namespace Sys2Proof.Machine

/-! ### SPDM (R588, R589) -/

/-- Request and response codes of SPDM 1.2, and its version byte. -/
def spdmVer : Byte := 0x12
def rspDigests : Byte := 0x01
def rspCertificate : Byte := 0x02
def rspChallenge : Byte := 0x03
def rspVersion : Byte := 0x04
def rspMeasurements : Byte := 0x60
def rspCapabilities : Byte := 0x61
def rspAlgorithms : Byte := 0x63
def rspError : Byte := 0x7F
/-- Error codes of SPDM: InvalidRequest, UnexpectedRequest and UnsupportedRequest. -/
def errInvalid : Byte := 0x01
def errUnexpected : Byte := 0x04
def errUnsupported : Byte := 0x07

def State.spdmConn (s : State) (tr : Transport) : SpdmConn := Store.get {} s.spdm (whoCode tr)
def State.setSpdm (s : State) (tr : Transport) (c : SpdmConn) : State := { s with spdm := Store.set {} s.spdm (whoCode tr) c }

/-- Whether a transport carries requests: the management bus with VAUX, a host port with its link up. -/
def State.spdmUp (s : State) (tr : Transport) : Bool :=
  match tr with
  | .mgmt => s.boot.vaux
  | .portA => s.boot.main && decide (s.rf (portPage .a) Reg.PCIE_STAT 2 0 ≠ 0)
  | .portB => s.boot.main && decide (s.rf (portPage .b) Reg.PCIE_STAT 2 0 ≠ 0)

/-- A request served: counted and answered. A request on a transport that is down does not arrive. (PRESUMED: log entry 106) -/
def State.spdmReply (s : State) (tr : Transport) (body : List Byte) : State :=
  (s.bump secPage 0 1).send (.reply tr (spdmVer :: body))
def State.spdmError (s : State) (tr : Transport) (code : Byte) : State := s.spdmReply tr [rspError, code, 0]

/-- A request that needs the connection negotiated. (PRESUMED: log entry 106) -/
def State.spdmServe (s : State) (tr : Transport) (ready : SpdmConn → Bool) (f : State → State) : State :=
  if !s.spdmUp tr then s
  else if ready (s.spdmConn tr) then f s
  else s.spdmError tr errUnexpected

/-- GET_VERSION starts the connection anew: version 1.2. (PRESUMED: log entry 106) -/
def execGetVersion (tr : Transport) (s : State) : Out State :=
  .next (s.spdmServe tr (fun _ => true) (fun s =>
    (s.setSpdm tr { version := true }).spdmReply tr [rspVersion, 0, 0, 0, 1, 0x00, 0x12]))

/-- CAPABILITIES: CERT_CAP, CHAL_CAP and MEAS_CAP with signatures. -/
def execGetCapabilities (tr : Transport) (s : State) : Out State :=
  .next (s.spdmServe tr (fun c => c.version) (fun s =>
    (s.setSpdm tr { s.spdmConn tr with caps := true }).spdmReply tr ([rspCapabilities, 0, 0] ++ leBytes 4 0x16)))

/-- ALGORITHMS: ECDSA P-384 with SHA-384 for signatures, measurements and hashes. -/
def execNegotiateAlgorithms (tr : Transport) (s : State) : Out State :=
  .next (s.spdmServe tr (fun c => c.caps) (fun s =>
    (s.setSpdm tr { s.spdmConn tr with algs := true }).spdmReply tr
      ([rspAlgorithms, 0, 0] ++ leBytes 4 0x04 ++ leBytes 4 0x80 ++ leBytes 4 0x02)))

/-- DIGESTS of the one slot that holds a chain. -/
def execGetDigests (tr : Transport) (s : State) : Out State :=
  .next (s.spdmServe tr (fun c => c.algs) (fun s => s.spdmReply tr ([rspDigests, 0, 1] ++ sha384 Config.certChain)))

/-- A part of the chain of slot 0; the other slots are empty. (PRESUMED: log entry 106) -/
def execGetCertificate (tr : Transport) (slot : BitVec 8) (off len : BitVec 16) (s : State) : Out State :=
  .next (s.spdmServe tr (fun c => c.algs) (fun s =>
    let n := Config.certChain.length
    if slot ≠ 0 || n ≤ off.toNat then s.spdmError tr errInvalid
    else
      let part := (Config.certChain.drop off.toNat).take len.toNat
      s.spdmReply tr ([rspCertificate, slot, 0] ++ leBytes 2 part.length ++ leBytes 2 (n - off.toNat - part.length) ++ part)))

/-- A signature by the device key over a message. (DESIGN CHOICE: log entry 104) -/
def State.deviceSigned (s : State) (m : List Byte) : List Byte × State := (m ++ Config.deviceSign s.fresh m, s.tickFresh)

/-- CHALLENGE_AUTH: the chain's digest, a nonce of the responder, the request's nonce, and the signature. -/
def execChallenge (tr : Transport) (slot : BitVec 8) (nonce : List Byte) (s : State) : Out State :=
  .next (s.spdmServe tr (fun c => c.algs) (fun s =>
    if slot ≠ 0 then s.spdmError tr errInvalid
    else
      let body := [rspChallenge, slot, 1] ++ sha384 Config.certChain ++ (Config.randomBytes s.fresh 32).take 32 ++ nonce.take 32
      let (m, s) := s.tickFresh.deviceSigned body
      s.spdmReply tr m))

/-! ### Measurements (R590) -/

/-- SLOT_ENT and the point of each customer-key slot. -/
def State.slotBytes (s : State) (k : Nat) : List Byte :=
  leBytes 8 (s.secView (Reg.SLOT_ENT k) 0).toNat ++ (s.keySlot k).point
/-- The site map, one byte pair for each tile: result and lanes. -/
def State.siteBytes (s : State) : List Byte :=
  (List.range 80).flatMap (fun i => [BitVec.ofNat 8 (s.site i).result, BitVec.ofNat 8 (s.site i).tester] ++ leBytes 4 (s.site i).lanes)

/-- The digest of a measurement block. (DESIGN CHOICE: log entry 103) -/
def State.measure (s : State) (k : Nat) : List Byte :=
  if k = 1 then Config.fwDigest s.boot.release.toNat
  else if k = 2 then Config.romDigest
  else if k = 3 then (if castState s = csReady then s.casting.digest else List.replicate 48 0)
  else if k = 4 then sha384 ((List.range 4).flatMap s.slotBytes)
  else if k = 5 then sha384 s.siteBytes
  else sha384 (leBytes 4 (s.rf sealPage Reg.SEAL_REF 31 0) ++ [BitVec.ofNat 8 (b2n (s.rb sealPage Reg.SEAL_CTL 0))])

/-- A block in DMTF measurement format: index, specification, size, type and value. (PRESUMED: log entry 106) -/
def State.measureBlock (s : State) (k : Nat) : List Byte :=
  [BitVec.ofNat 8 k, 1] ++ leBytes 2 51 ++ [BitVec.ofNat 8 k] ++ leBytes 2 48 ++ (s.measure k).take 48

/-- MEASUREMENTS: operation 0 asks for the number of blocks, 1 to 6 for one block, 0xFF for all. -/
def execGetMeasurements (tr : Transport) (op : BitVec 8) (nonce : List Byte) (signed : Bool) (s : State) : Out State :=
  .next (s.spdmServe tr (fun c => c.algs) (fun s =>
    let o := op.toNat
    if 6 < o && o ≠ 0xFF then s.spdmError tr errInvalid
    else
      let ks := if o = 0 then [] else if o = 0xFF then [1, 2, 3, 4, 5, 6] else [o]
      let body := [rspMeasurements, if o = 0 then 6 else 0, 0, BitVec.ofNat 8 ks.length] ++ ks.flatMap s.measureBlock
      if signed then
        let (m, s) := s.tickFresh.deviceSigned (body ++ (Config.randomBytes s.fresh 32).take 32 ++ nonce.take 32)
        s.spdmReply tr m
      else s.spdmReply tr body))

/-- Any other request. -/
def execSpdmUnsupported (tr : Transport) (_code : BitVec 8) (s : State) : Out State :=
  .next (s.spdmServe tr (fun _ => true) (fun s => s.spdmError tr errUnsupported))

/-! ### Enrollment (R591, R592) -/

/-- ENR_STAT.CAUSE. -/
def enNonce : Nat := 1
def enAuth : Nat := 2
def enSignature : Nat := 3
def enKey : Nat := 4
def enBusy : Nat := 5
def enFormat : Nat := 6

/-- The fields of an enrollment record. -/
structure EnrRec where
  version : Nat
  slot    : Nat
  op      : Nat
  usage   : Nat
  auth    : Nat
  nonce   : Nat
  key     : List Byte
  bytes   : List Byte
  deriving DecidableEq, Repr

def EnrRec.ofBytes (b : List Byte) : EnrRec :=
  ⟨leAt b 0 2, leAt b 2 1, leAt b 3 1, leAt b 4 1, leAt b 5 1, leAt b 8 8, (b.drop 16).take 97, b⟩
def EnrRec.sigR (e : EnrRec) : List Byte := (e.bytes.drop 128).take 48
def EnrRec.sigS (e : EnrRec) : List Byte := (e.bytes.drop 176).take 48

def allZero (b : List Byte) : Bool := b.all (· = 0)
def EnrRec.formatOk (e : EnrRec) : Bool :=
  e.version = 1 && decide (e.slot < 4) && (e.op = 1 || e.op = 2) && decide (e.usage < 4) && (decide (e.auth < 4) || e.auth = 0xFF) &&
    allZero ((e.bytes.drop 6).take 2) && allZero ((e.bytes.drop 113).take 15) && (e.op ≠ 2 || allZero e.key)

/-- The first check that refuses a record; 0 when it is accepted. (DEDUCED: log entry 108) -/
def State.enrollCause (s : State) (e : EnrRec) : Nat :=
  if !e.formatOk then enFormat
  else if e.nonce ≠ (s.reg secPage Reg.ENR_NONCE).toNat then enNonce
  else if !(if e.auth = 0xFF then (List.range 4).all (fun k => !(s.keySlot k).full) && allZero e.sigR && allZero e.sigS
            else (s.keySlot e.auth).full && !(s.keySlot e.auth).revoked) then enAuth
  else if e.auth ≠ 0xFF && !ecdsaVerify (s.keySlot e.auth).point (sha384 (e.bytes.take 128)) e.sigR e.sigS then enSignature
  else if e.op = 1 && (decodePoint e.key).isNone then enKey
  else if castState s = csChecking then enBusy
  else 0

def State.setKeySlot (s : State) (k : Nat) (x : KeySlot) : State :=
  { s with sec := { s.sec with slots := Store.set { } s.sec.slots k x } }

/-- An accepted record takes effect. A revocation of the last key empties every slot. (DEDUCED: log entry 108) -/
def State.applyRecord (s : State) (e : EnrRec) : State :=
  if e.op = 1 then s.setKeySlot e.slot ⟨e.key, e.usage, false⟩
  else
    let x := s.keySlot e.slot
    if !x.full || x.revoked then s
    else
      let s := s.setKeySlot e.slot { x with revoked := true }
      if (List.range 4).any (fun k => (s.keySlot k).full && !(s.keySlot k).revoked) then s
      else (List.range 4).foldl (fun (s : State) k => s.setKeySlot k {}) s

/-- The record at ENR_ADDR: none where it is not wholly in the mire, or cannot be read. -/
def State.enrollRecord (s : State) : Option EnrRec × State :=
  let a := s.rf secPage Reg.ENR_ADDR 40 0
  match s.mireServeRead a 224 with
  | (some bs, t) => (some (EnrRec.ofBytes bs), t)
  | (none, t) => (none, t)

/-- A record judged; the nonce changes either way. (DESIGN CHOICE: log entry 104) -/
def State.enrollNow (s : State) : State :=
  let (r, t) := s.enrollRecord
  let cause := match r with | some e => s.enrollCause e | none => enFormat
  let t := match r with
    | some e => if cause = 0 then ((t.applyRecord e).bump secPage 3 1).raise secPage 0 else (t.bump secPage 4 1).raise secPage 1
    | none => (t.bump secPage 4 1).raise secPage 1
  let t := t.setRf secPage Reg.ENR_STAT 3 0 cause
  (t.setReg secPage Reg.ENR_NONCE (Config.random64 t.fresh)).tickFresh

/-- What a write of ENR_GO starts; GO reads 0. -/
def enrHook (w : WEff) : State :=
  let s := w.st.zeroBits secPage Reg.ENR_GO 1
  if w.fires 0 then s.enrollNow else s

/-- DESIGN CHOICE: log entry 80. -/
def execEnroll (who : Requester) (v : W64) (s : State) : Out State :=
  .next (enrHook (s.writeCore who secPage Reg.ENR_GO .b64 (setBit v 0 true)))
/-- DESIGN CHOICE: log entry 80. -/
def execRevoke (who : Requester) (v : W64) (s : State) : Out State :=
  .next (enrHook (s.writeCore who secPage Reg.ENR_GO .b64 (setBit v 0 true)))

/-- What a write of SEC_CTL starts (R587); ROLL_ADV reads 0. The counter never falls. (DEDUCED: log entry 108) -/
def rollHook (w : WEff) : State :=
  let s := w.st.zeroBits secPage Reg.SEC_CTL 1
  if w.fires 0 && s.boot.fwOk then
    { s with sec := { s.sec with rollback := if s.sec.rollback.toNat < s.boot.release.toNat then s.boot.release else s.sec.rollback } }
  else s

def execRollAdv (who : Requester) (v : W64) (s : State) : Out State :=
  .next (rollHook (s.writeCore who secPage Reg.SEC_CTL .b64 (setBit v 0 true)))

end Sys2Proof.Machine
end

