-- ==== Sys2Proof/Machine/RegBus.lean ====
section
/-! DEFINITION. REG_WRITE: a write of any register over the register bus, with the effect that the page's block gives it (R4, R428
to R438). The families' own rows share the same effects. -/
namespace Sys2Proof.Machine

/-! ### Tables behind a selector on the CETIS page (R335) -/

/-- What a write of SLOT_MAP does: the selected entry of the slot table takes it. -/
def slotMapHook (w : WEff) (tile : Nat) : State :=
  let pg := cetisPage tile
  let s := w.st.setReg pg Reg.SLOT_MAP 0
  if w.mask = 0 then s
  else
    let key := (tile * 8 + s.rf pg Reg.SLOT_SEL 2 0) * 128 + s.rf pg Reg.SLOT_SEL 14 8
    { s with slotMap := Store.set 0 s.slotMap key (BitVec.ofNat 8 w.val.toNat) }

/-- What a write of ROUTE does: the selected route takes it. -/
def routeHook (w : WEff) (tile : Nat) : State :=
  let pg := cetisPage tile
  let s := w.st.setReg pg Reg.ROUTE 7
  if w.mask = 0 then s
  else
    let key := (tile * 2 + s.rf pg Reg.ROUTE_SEL 8 8) * 128 + s.rf pg Reg.ROUTE_SEL 6 0
    { s with routes := Store.set 7 s.routes key (fld w.val 2 0) }

/-! ### The blocks of a tile -/

/-- R77: a segment register of a task that runs keeps its value. One that is written invalidates its crucible's instruction cache
(R65). -/
def segHook (w : WEff) (old : State) (tile cru : Nat) : State :=
  let x := old.task tile cru ((w.off - 0x800) / 0x40)
  if w.mask = 0 then w.st
  else if x.st = .idle || x.st = .faulted || x.st = .halted then
    w.st.setCru tile cru { w.st.cru tile cru with icache := [] }
  else (w.st.keepReg old (cruPage tile cru) w.off).werr tile cru

def cruHook (w : WEff) (old : State) (tile cru : Nat) : State :=
  if 0x200 ≤ w.off && w.off < 0x400 && w.off % 0x40 = 0 then taskCtlHook w tile cru ((w.off - 0x200) / 0x40)
  else if 0x800 ≤ w.off && w.off < 0xA00 then segHook w old tile cru
  else w.st

def cetisHook (w : WEff) (tile : Nat) : State :=
  if w.off = Reg.SLOT_MAP then slotMapHook w tile else if w.off = Reg.ROUTE then routeHook w tile else w.st

def pwrHook (w : WEff) (tile : Nat) : State :=
  if w.off = Reg.PWR_DOM_REQ then pwrDomHook w tile else if w.off = Reg.MINV_CTL then minvHook w tile else w.st

def thermHook (w : WEff) (tile : Nat) : State :=
  if w.off < Reg.THERM_SUM then sensHook w (tile * 16 + (w.off - 0x100) / 8) else w.st

def monHook (w : WEff) (tile : Nat) : State :=
  if w.off = Reg.MON_CTL then monClrHook w tile else monConfigHook w tile

/-- What a write on a page of a tile starts. -/
def tileHook (w : WEff) (old : State) (p : PageInfo) : State :=
  match p.cls with
  | 0x11 => cruHook w old p.inst p.sub
  | 0x12 => cregHook w old p.inst false
  | 0x13 => cregHook w old p.inst true
  | 0x14 => gramHook w old p.inst
  | 0x15 => if w.off = Reg.GATE_VAL then gateValHook w p.inst else w.st
  | 0x16 => cetisHook w p.inst
  | 0x17 => pwrHook w p.inst
  | 0x19 => thermHook w p.inst
  | 0x1A => monHook w p.inst
  | 0x1C => if w.off = Reg.AGE_CTL then ageHook w p.inst else w.st
  | _ => w.st

/-! ### The device-global block -/

def tideHook (w : WEff) (old : State) (who : Requester) : State :=
  if w.off = Reg.VMIF_REARM then vmifHook w
  else if 0x240 ≤ w.off && w.off < 0x280 then sluiceDomHook w ((w.off - 0x240) / 8)
  else if 0x100 ≤ w.off && w.off < 0x130 && w.off % 16 = 0 && w.mask ≠ 0 then tideSrcHook w who old ((w.off - 0x100) / 16)
  else w.st

def polderHook (w : WEff) (old : State) : State :=
  if 0x100 ≤ w.off && w.off < 0x300 && w.off % 0x40 = 0 then poldLoopHook w old ((w.off - 0x100) / 0x40)
  else if 0x500 ≤ w.off && w.off < 0x700 && w.off % 0x40 = 0x10 then rcCtlHook w ((w.off - 0x500) / 0x40)
  else if w.off = Reg.RC_TILE then rcTileHook w
  else w.st

/-- What a write on a page of the device-global block starts. -/
def globalHook (w : WEff) (old : State) (who : Requester) (cls : Nat) : State :=
  match cls with
  | 0x02 => if 0x100 ≤ w.off && w.off < 0x180 then semHook w who ((w.off - 0x100) / 8) else w.st
  | 0x03 => if w.off = Reg.SEAL_CTL then sealHook w old else w.st
  | 0x04 => if w.off = Reg.TAP_CTL then tapHook w else w.st
  | 0x05 => tideHook w old who
  | 0x06 => if w.off = Reg.TIME_SET then timeHook w else w.st
  | 0x07 => if w.off = Reg.STRM_CANCEL then strmCancelHook w else w.st
  | 0x08 => polderHook w old
  | _ => w.st

/-! ### The blocks of a sluice die -/

def pourHook (w : WEff) (old : State) (who : Requester) (d : Nat) : State :=
  if w.off = Reg.POUR_STOP then pourStopHook w d else if d = 0 then castHook w old who else w.st

def secHook (w : WEff) : State :=
  if w.off = Reg.ENR_GO then enrHook w else if w.off = Reg.SEC_CTL then rollHook w else w.st

def trayHook (w : WEff) (d : Nat) : State :=
  if w.off < Reg.STACK_T 0 then sensHook w (2048 + d * 8 + (w.off - 0x100) / 8)
  else if w.off < Reg.DIE_SUM then sensHook w (4096 + d * 4 + (w.off - 0x140) / 8)
  else if d = 0 && w.off = Reg.SHUT_CTL then shutHook w
  else w.st

/-- What a write on a page of a sluice die starts. -/
def dieHook (w : WEff) (old : State) (who : Requester) (p : PageInfo) : State :=
  match p.cls with
  | 0x20 => if p.inst = 0 && w.off = Reg.REF_CTL && w.mask ≠ 0 then w.st.selectRef else w.st
  | 0x21 => if w.off = Reg.ETH_CTL && decide (fbit w.old 0 ≠ w.st.rb (ethPage (2 * p.inst + p.sub)) Reg.ETH_CTL 0) then w.st.recheckRate else w.st
  | 0x22 => if p.inst = 0 then queueHook w old .a else if p.inst = 4 then queueHook w old .b else w.st
  | 0x23 => if p.sub = 0 && w.off = Reg.PG_GO then pgGoHook w p.inst else w.st
  | 0x24 => pourHook w old who p.inst
  | 0x26 => if p.inst = 0 then secHook w else w.st
  | 0x27 => trayHook w p.inst
  | _ => w.st

/-! ### A write of any register -/

/-- What a write of a register starts. -/
def regHook (w : WEff) (old : State) (who : Requester) (page : Nat) : State :=
  match pageInfo page with
  | none => w.st
  | some p =>
    if w.off = Reg.PAGE_CTL then cntHook w page
    else if w.off < 0x100 then w.st
    else if p.cls < 0x10 then globalHook w old who p.cls
    else if p.cls < 0x20 then tileHook w old p
    else dieHook w old who p

/-- A register write by a requester. The guard key and the mailbox keep their own rules; EVT_RAW and EVT_EN change the summary. -/
def State.writeReg (s : State) (who : Requester) (page off : Nat) (size : AccSize) (v : W64) : State :=
  if off - off % 8 = Reg.GUARD_KEY then s.keyWrite who page off size v
  else if 0xF00 ≤ off then s.mbxWrite who page off size v
  else s.summarized page off (fun t => regHook (t.writeCore who page off size v) t who page)

def execRegWrite (who : Requester) (page : BitVec 16) (off : BitVec 12) (size : AccSize) (v : W64) (s : State) : Out State :=
  .next (s.writeReg who page.toNat off.toNat size v)

end Sys2Proof.Machine
end

