-- ==== Sys2Proof/Machine/Load.lean ====
section
/-! DEFINITION. A casting load from the end of its checks: steps 5 to 10 of R367, with the slots of R561, the REG records of R364,
the SL values of R536 and the extents of R370 and R371. -/
namespace Sys2Proof.Machine

/-! ### The slots of a casting (R319, R561) -/

/-- What the SLOT_SEL and SLOT_MAP records of an image ask for: the selectors by page, and the slots as (polder, slot, tile). -/
structure SlotScan where
  sels  : Store Nat := []
  slots : List (Nat × Nat × Nat) := []
  deriving DecidableEq, Repr

/-- The key of a record's page; a section with BYSLOT names a tile by its slot. -/
def scanKey (x : Section) (r : RegRec) : Nat :=
  if x.byslot then 65536 + (x.pol * 128 + x.slot) * 64 + r.page % 64 else r.page
def SlotScan.take (x : Section) (a : SlotScan) (r : RegRec) : SlotScan :=
  if !recOn 0x16 x r then a
  else if r.off = Reg.SLOT_SEL then { a with sels := Store.set 0 a.sels (scanKey x r) (fld r.val 14 0) }
  else if r.off = Reg.SLOT_MAP then
    let sel := Store.get 0 a.sels (scanKey x r)
    let pol := sel % 8
    let slot := sel / 256
    let rest := a.slots.filter (fun e => e.1 ≠ pol || e.2.1 ≠ slot)
    let tile := fld r.val 6 0
    { a with slots := if fbit r.val 7 && decide (tile < 80) then rest ++ [(pol, slot, tile)] else rest }
  else a

def State.slotScan (s : State) (c : CastRun) : List (Nat × Nat × Nat) :=
  (((s.sections c).filter (fun x => x.type = sReg)).foldl (fun (a : SlotScan) x =>
    (regRecs (s.sectBytes c x)).foldl (SlotScan.take x) a) {}).slots

/-- The best spare for a withdrawn tile, as R538 chooses one. (DEDUCED: log entry 60) -/
def State.bestSpare (s : State) (dead : Nat) (l : List Nat) : Option Nat :=
  l.foldl (fun (a : Option Nat) i => match a with
    | none => some i
    | some b => if s.spareBefore dead i b then some i else some b) none

/-- The spares of a polder that the manifest names and that passed bring-up. -/
def State.castSpares (s : State) (ps : List PolderEnt) (pol : Nat) : List Nat :=
  match ps.find? (fun e => e.pol = pol) with
  | some e => e.spares.filter (fun i => s.tstate i ≠ tsWithdrawn)
  | none => []

/-- The tile of each slot, withdrawn tiles replaced; none when no spare remains. `subs` pairs a withdrawn tile with its spare.
(DEDUCED: log entry 60) -/
def State.mapSlots (s : State) (ps : List PolderEnt) (all : List (Nat × Nat × Nat)) :
    List (Nat × Nat × Nat) → List (Nat × Nat) → Option (List (Nat × Nat × Nat))
  | [], _ => some []
  | (pol, slot, tile) :: r, subs =>
    if s.tstate tile ≠ tsWithdrawn then (s.mapSlots ps all r subs).map ((pol, slot, tile) :: ·)
    else match subs.find? (fun e => e.1 = tile) with
      | some e => (s.mapSlots ps all r subs).map ((pol, slot, e.2) :: ·)
      | none =>
        let free := (s.castSpares ps pol).filter (fun i => !all.any (fun e => e.2.2 = i) && !subs.any (fun e => e.2 = i))
        match s.bestSpare tile free with
        | none => none
        | some i => (s.mapSlots ps all r ((tile, i) :: subs)).map ((pol, slot, i) :: ·)

def CastRun.tile (c : CastRun) (pol slot : Nat) : Option Nat :=
  (c.map.find? (fun e => e.1 = pol && e.2.1 = slot)).map (·.2.2)
/-- The tiles that hold slots, and the spares that hold none. -/
def CastRun.active (c : CastRun) : List Nat := (c.map.map (·.2.2)).eraseDups
def State.loadSpares (s : State) (c : CastRun) (ps : List PolderEnt) : List (Nat × Nat) :=
  ps.flatMap (fun e => ((s.castSpares ps e.pol).filter (fun i => !c.active.contains i)).map (fun i => (e.pol, i)))

/-! ### Step 6 -/

def State.allTiles (s : State) (f : State → Nat → State) : State := (List.range 80).foldl f s
def State.allCrucibles (s : State) (l : List Nat) (en : Bool) : State :=
  l.foldl (fun (s : State) i => (List.range 4).foldl (fun (s : State) k => s.setRb (cruPage i k) Reg.CRU_CTL 16 en) s) s

/-- Tiles that a recast retired are free again, but for those that failed bring-up (R535, R560). (DEDUCED: log entry 60) -/
def State.releaseTiles (s : State) : State :=
  let freed := (List.range 80).filter (fun i => s.tstate i ≠ tsWithdrawn || (s.site i).result = 1)
  let shut := freed.filter (fun i => 3 ≤ s.tstate i)
  let s := freed.foldl (fun (s : State) i => s.setTstate i tsUnassigned) s
  shut.foldl (fun (s : State) i => (s.openPorts i).fenceToward i false) s

/-- The reports that came before step 6 and have not been acted on: recorded, they bring no recast. (DESIGN CHOICE: log entry 132) -/
def State.noteReports (s : State) : State :=
  { s.reports.foldl (fun (s : State) r => s.logReport r ((s.verdict r).action.getD 0)) s with reports := [] }

/-- Epochs rise, crucibles, gates and regions are reset, recasts and sessions end, and the old casting is gone. -/
def State.loadReset (s : State) : State :=
  let s := s.noteReports.closeAll
  let s := (List.range 8).foldl (fun (s : State) p => s.setEpoch p ((s.rf polderPage (Reg.RC_STAT p) 27 24 + 1) % 16)) s
  let s := s.allTiles (fun (s : State) i => (s.resetTile i).disableRegions i)
  let s := (s.allCrucibles (List.range 80) false).releaseTiles
  let s := (List.range 8).foldl (fun (s : State) p => s.setRf polderPage (Reg.RC_STAT p) 2 0 rcRunning) s
  let s := (List.range 256).foldl (fun (s : State) b => s.setBedReg b Reg.BED_CFG0 (setBit (s.bedReg b Reg.BED_CFG0) 48 false)) s
  let s := (s.setRb sealPage Reg.SEAL_CTL 0 false).setRb sealPage Reg.SEAL_STAT 1 false
  let s := (s.setRf castPage Reg.CAST_STAT 9 8 0).setReg castPage Reg.CAST_ID 0
  { s with
    heats := [], beds := [], places := [], casting := {}, sealRun := { s.sealRun with fenced := false },
    pours := Store.mapVals {} (fun _ d => { d with pulls := [], done := [], downs := [], held := [] }) s.pours }

/-- The states and the domains of the casting's tiles (R463, R547). -/
def State.loadTiles (s : State) (c : CastRun) (ps : List PolderEnt) : State :=
  let s := (s.loadSpares c ps).foldl (fun (s : State) x => s.setTstate x.2 tsSpare) s
  c.active.foldl (fun (s : State) i => (s.setTstate i tsActive).wakeTile i 2) s

def State.manifestBytes (s : State) (c : CastRun) : List Byte :=
  match s.manifest c with | some x => s.sectBytes c x | none => []

/-- PLACING begins: step 6, and the slots of R561. (DEDUCED: log entry 58) -/
def State.startPlacing (s : State) (c : CastRun) : State :=
  let s := (s.setRf castPage Reg.CAST_STAT 2 0 csPlacing).loadReset
  let ps := polderEnts (s.manifestBytes c)
  let all := s.slotScan c
  match s.mapSlots ps all all [] with
  | none => s.failLate lcLimits s.sectionNow
  | some l =>
    let c : CastRun := { c with map := l }
    ({ s with castRun := some c } : State).loadTiles c ps

/-- Steps 1 to 4 end, and step 5 is judged: the load fails, or goes on to PLACING. (DEDUCED: log entry 56) -/
def execLoadChecked (readOk : Bool) (s : State) : Out State :=
  match s.castRun with
  | none => .next s
  | some c =>
    if castState s ≠ csChecking then .next s
    else match s.headTake c readOk with
    | (false, s) => .next (s.failEarly c lcSource 0)
    | (true, s) =>
      if !s.headerOk c then .next (s.failEarly c lcFormat 0)
      else match s.allTake c readOk with
      | (false, s) => .next (s.failEarly c lcSource 0)
      | (true, s) =>
        let sig := s.sigCause c
        let s := (s.bump secPage 1 1).setRf secPage Reg.SIG_STAT 3 0 sig
        if sig ≠ 0 then .next (((s.bump secPage 2 1).raise secPage 2).failEarly c lcSignature 0)
        else match s.checkSections c with
          | some (cause, x) => .next (s.failEarly c cause x)
          | none =>
            let s := s.refuseBinds
            if s.streams.any (fun e => e.2.st ≠ .free) then .next (s.failEarly c lcBusy 0)
            else .next (s.startPlacing c)

/-! ### Step 7: the bed table and the REG records (R364, R365) -/

/-- The bed table: BED_SEL, BED_CFG0 and BED_CFG1 of every valid bed. -/
def State.writeBeds (s : State) (m : List Byte) : State :=
  let put (s : State) (b off i : Nat) : State :=
    s.setBedReg b off (mix (accMask polderPage off .sl) (s.bedReg b off) (BitVec.ofNat 64 (bedEnt m b i)))
  ((List.range 256).filter (bedValidAt m)).foldl (fun (s : State) b =>
    (put (put s b Reg.BED_CFG0 0) b Reg.BED_CFG1 1).setReg polderPage Reg.BED_SEL (BitVec.ofNat 64 b)) s

/-- The fields that a record may write. -/
def recMask (page off : Nat) : W64 :=
  accMask page off .rw ||| accMask page off .sl ||| accMask page off .gw ||| accMask page off .w1c

/-- A record's write: as a 64-bit write with the guard's fields admitted, and guards, shadows and mailboxes left alone (R438). -/
def State.recCore (s : State) (page off : Nat) (v : W64) : WEff :=
  let old := s.view .mgmt page off
  let m := writeMask page off 0xFFFFFFFFFFFFFFFF true
  let s := if accMask page off .sl ≠ 0 then s.sealTouch else s
  let w1c := accMask page off .w1c &&& v
  ⟨s.storeReg page off ((mix m (s.stored page off) v) &&& ~~~w1c), off, m, v, old⟩

/-- A record written. What acts for the requester that writes it acts for the one that started the load: the guard, the mailbox, the
semaphores and the TIDE source slots. (DEDUCED: log entry 59) -/
def State.recWrite (s : State) (who : Requester) (page off : Nat) (v : W64) : State :=
  if !s.pageLive page then s
  else if off = Reg.GUARD_KEY then s.writeKey who page (fld v 15 0)
  else if 0xF00 ≤ off then (if off = Reg.MBX_SEL then s.mbxSelect who page (fld v 15 0) else s)
  else s.summarized page off (fun t => regHook (t.recCore page off v) t who page)

/-- The value of a record that maps a slot onto a withdrawn tile names its spare (R561). (DEDUCED: log entry 59) -/
def State.recValue (s : State) (c : CastRun) (page : Nat) (r : RegRec) : W64 :=
  match pageInfo page with
  | some p =>
    if p.cls = 0x16 && r.off = Reg.SLOT_MAP && fbit r.val 7 && s.tstate (fld r.val 6 0) = tsWithdrawn then
      match c.tile (s.rf page Reg.SLOT_SEL 2 0) (s.rf page Reg.SLOT_SEL 14 8) with
      | some i => setFld r.val 6 0 i
      | none => r.val
    else r.val
  | none => r.val

/-- A record; none when it fails the load with LIMITS. -/
def State.regRecord (s : State) (c : CastRun) (x : Section) (r : RegRec) : Option State :=
  let page := if x.byslot then (c.tile x.pol x.slot).map (fun i => tilePage i (r.page % 64)) else some r.page
  match page with
  | none => none
  | some page =>
    let m := recMask page r.off
    if (pageInfo page).isNone || r.off % 8 ≠ 0 || (regAt page r.off).isNone || m = 0 || r.val &&& ~~~m ≠ 0 then none
    else some (s.recWrite c.who page r.off (s.recValue c page r))

def State.regRecordsFrom (s : State) (c : CastRun) (x : Section) : List RegRec → Option State
  | [] => some s
  | r :: l => match s.regRecord c x r with
    | none => none
    | some t => t.regRecordsFrom c x l

/-- The REG sections in order: the state so far, and the section that failed. -/
def State.regSections (s : State) (c : CastRun) : List Section → State × Option Nat
  | [] => (s, none)
  | x :: l =>
    let s := s.setRf castPage Reg.CAST_STAT 63 32 x.index
    match (if x.len % 16 = 0 then s.regRecordsFrom c x (regRecs (s.sectBytes c x)) else none) with
    | none => (s, some x.index)
    | some t => t.regSections c l

/-! ### SL values and per-slot values (R536) -/

/-- The SL values of a tile's pages. -/
def State.slValues (s : State) (i : Nat) : List (Nat × W64) :=
  (List.range 16).flatMap (fun b =>
    (sealedOffs (tilePage i b)).map (fun o => (b * 4096 + o, s.stored (tilePage i b) o &&& accMask (tilePage i b) o .sl)))

/-- A spare takes SL values; its regions start in their INIT states. -/
def State.takeSl (s : State) (i : Nat) (l : List (Nat × W64)) : State :=
  (l.foldl (fun (s : State) x =>
    let page := tilePage i (x.1 / 4096)
    let o := x.1 % 4096
    s.storeReg page o (mix (accMask page o .sl) (s.stored page o) x.2)) s).initRegions i

/-- The tiles with slots in a polder. -/
def CastRun.polTiles (c : CastRun) (pol : Nat) : List Nat := ((c.map.filter (fun e => e.1 = pol)).map (·.2.2)).eraseDups
/-- DEDUCED: log entry 59. -/
def State.slAgree (s : State) (c : CastRun) (pol : Nat) : Bool :=
  match c.polTiles pol with
  | [] => true
  | i :: r => r.all (fun j => s.slValues j = s.slValues i)

/-- What a slot's tile holds in its per-slot fields; ISSUE_EN is 1 from step 10 on. (DESIGN CHOICE: log entry 123) -/
def State.slotValues (s : State) (i : Nat) : List Nat :=
  [s.rf (riddlePage i) Reg.RID_CTL 0 0, s.rf (riddlePage i) Reg.RID_CTL 12 4, s.rf (pwrPage i) Reg.PWR_WT 7 0, 1, 1, 1, 1]
def State.keepSlots (s : State) (c : CastRun) : Store (List Nat) :=
  c.map.foldl (fun (l : Store (List Nat)) e => Store.set [] l (e.1 * 128 + e.2.1) (s.slotValues e.2.2)) []

/-! ### Step 8: PEAT and MIRE sections, extents and servers (R370, R371) -/

/-- A section placed: the cause when it fails the load. -/
def State.placeSection (s : State) (c : CastRun) (x : Section) : State × Nat :=
  let s := s.setRf castPage Reg.CAST_STAT 63 32 x.index
  if x.type = sPeat then
    match (if x.byslot then c.tile x.pol x.slot else none) with
    | some i => if x.dest + x.len ≤ peatSize then (s.writePeat i x.dest (s.sectBytes c x), 0) else (s, lcLimits)
    | none => (s, lcLimits)
  else if mireSize < x.dest + x.len then (s, lcLimits)
  else match s.mireServeWrite x.dest (s.sectBytes c x) with
    | (true, t) => (t, 0)
    | (false, t) => (t, lcFault)

def State.placeSections (s : State) (c : CastRun) : List Section → State × Option (Nat × Nat)
  | [] => (s, none)
  | x :: l => match s.placeSection c x with
    | (t, 0) => t.placeSections c l
    | (t, cause) => (t, some (cause, x.index))

/-- An extent of a POUR section; its die is set later for a streaming extent. -/
def extentOf (b : List Byte) (i : Nat) : PourExt :=
  let w2 := leAt b (32 * i + 16) 8
  let w3 := leAt b (32 * i + 24) 8
  ⟨leAt b (32 * i) 8, leAt b (32 * i + 8) 8, bits w2 31 0, BitVec.ofNat 32 (bits w2 63 32), bits w3 1 0, bits w3 8 2, bits w3 11 9,
    bits w3 19 12, bits w3 63 23, 0⟩
def serverOf (b : List Byte) (i : Nat) : PourServer :=
  ⟨(b.drop (32 * i)).take 16, leAt b (32 * i + 16) 2, bit (leAt b (32 * i + 18) 1) 0⟩
def State.loadExtents (s : State) (c : CastRun) : List PourExt :=
  ((s.sections c).filter (fun x => x.type = sPour)).flatMap (fun x =>
    let b := s.sectBytes c x
    (List.range (x.len / 32)).map (extentOf b))
def State.loadServers (s : State) (c : CastRun) : List PourServer :=
  ((s.sections c).filter (fun x => x.type = sServers)).flatMap (fun x =>
    let b := s.sectBytes c x
    (List.range (x.len / 32)).map (serverOf b))

/-- The allotted die of a bed with the lowest ratio of bytes assigned to allotment; ties go to the lower die. -/
def lightest (allot given : List Nat) : Nat :=
  ((List.range 8).filter (fun d => 0 < allot.getD d 0)).foldl (fun (a : Option Nat) d => match a with
    | none => some d
    | some b => if given.getD d 0 * allot.getD b 0 < given.getD b 0 * allot.getD d 0 then some d else some b) none |>.getD 0

/-- Each streaming extent gets its die, in table order; `given` holds each bed's bytes per die. -/
def assignDies (plans : List BedPlan) : Store (List Nat) → List PourExt → List PourExt
  | _, [] => []
  | given, x :: l =>
    if x.kind ≠ 2 then x :: assignDies plans given l
    else
      let allot := match plans.find? (fun p => p.bed = x.bed) with | some p => p.allot | none => []
      let g := Store.get [] given x.bed
      let d := lightest allot g
      let g := (List.range 8).map (fun k => g.getD k 0 + (if k = d then x.len else 0))
      { x with die := d } :: assignDies plans (Store.set [] given x.bed g) l

/-- Extents and servers within what R365 and R370 allow. -/
def pourOk (c : CastRun) (es : List PourExt) (vs : List PourServer) : Bool :=
  decide (vs.length ≤ 16) && es.all (fun x => decide (1 ≤ x.len) && decide (x.len ≤ 2 ^ 22) && decide (x.kind < 3) &&
    (if x.kind = 1 then decide (x.addr + x.len ≤ mireSize)
     else (c.tile x.pol x.slot).isSome && decide (x.addr + x.len ≤ peatSize)))

/-! ### Step 10 and the end of placing -/

/-- The casting takes effect: issue is enabled, the start list starts, and the state is READY. (DEDUCED: log entry 63) -/
def State.finishLoad (s : State) (c : CastRun) : State :=
  let s := s.startPorts.allCrucibles c.active true
  let s := (List.range 8).foldl State.resetBeds s
  let s := s.startHeatTasks (List.range 8)
  let s := s.setFields castPage Reg.CAST_STAT [(2, 0, csReady), (7, 4, 0), (9, 8, s.imgFormat c)]
  let s := s.setReg castPage Reg.CAST_ID (s.imgId c)
  let s := ({ s with castRun := none } : State).raise castPage 5
  (s.log castPage 9 0 (s.reg castPage Reg.CAST_STAT) (s.reg castPage Reg.CAST_ID)).endLoadCmd csOk

/-- Steps 7 and 8: the state, and the cause and section of a failure. -/
def State.placeCasting (s : State) (c : CastRun) (m : List Byte) : State × Option (Nat × Nat) :=
  let ps := polderEnts m
  let es := s.loadExtents c
  let vs := s.loadServers c
  match (s.writeBeds m).regSections c ((s.sections c).filter (fun x => x.type = sReg)) with
  | (t, some x) => (t, some (lcLimits, x))
  | (t, none) =>
    if !ps.all (fun e => t.slAgree c e.pol) || !pourOk c es vs then (t, some (lcLimits, t.sectionNow))
    else
      let t := (t.loadSpares c ps).foldl (fun (t : State) x => match c.polTiles x.1 with
        | i :: _ => t.takeSl x.2 (t.slValues i)
        | [] => t) t
      t.placeSections c ((t.sections c).filter (fun x => x.type = sPeat || x.type = sMire))

/-- What the engine keeps of the casting. -/
def State.castOf (s : State) (c : CastRun) (m : List Byte) : Casting :=
  let plans := bedPlans m
  { exts := assignDies plans [] (s.loadExtents c), servers := s.loadServers c, plans := plans, polders := polderEnts m,
    starts := startList m, slots := s.keepSlots c, digest := s.imgDigest c, nServers := bits (leAt m 0 8) 36 32,
    device := s.rf fleetPage Reg.FLEET_ID 17 0 }

/-- A fault that a FAULT page reported during steps 6 to 10 (R368). -/
def State.faulted (s : State) : Bool := !s.reports.isEmpty

/-- READY, unless a fault was reported. -/
def State.endLoad (s : State) (c : CastRun) : State := if s.faulted then s.failLate lcFault s.sectionNow else s.finishLoad c

/-- Placing ends well: routes, domains of the tiles that are not active and heartbeats, then the load pours or READY (R19, R463). -/
def State.placed (s : State) (c : CastRun) (m : List Byte) : State :=
  let ps := polderEnts m
  let s : State := { s with casting := s.castOf c m }
  let s := (ps.foldl (fun (s : State) e => s.polderRoutes e.pol) s).engineRoutes
  let spares := (s.loadSpares c ps).map (·.2)
  let idle := (List.range 80).filter (fun i => !c.active.contains i && s.tstate i ≠ tsWithdrawn)
  let s := idle.foldl State.spareDomains s
  let s := (c.active ++ spares).foldl (fun (s : State) i => { s with beats := Store.set 0 s.beats i s.up }) s
  if s.faulted then s.failLate lcFault s.sectionNow
  else if s.casting.exts.any (fun x => decide (x.kind < 2)) then s.setRf castPage Reg.CAST_STAT 2 0 csPouring
  else s.finishLoad c

/-- Every domain of a tile with a slot is ON. (DEDUCED: log entry 61) -/
def State.loadPowered (s : State) (c : CastRun) : Bool := c.active.all (fun i => (List.range 8).all (fun n => s.domCode i n = 2))

/-- The end of placing. The second read must give what the first gave (R366, R595). (DEDUCED: log entry 61) -/
def execLoadPlaced (readOk : Bool) (s : State) : Out State :=
  match s.castRun with
  | none => .next s
  | some c =>
    if castState s ≠ csPlacing || !s.loadPowered c then .next s
    else match s.allTake c readOk with
    | (false, s) => .next (s.failLate lcSource s.sectionNow)
    | (true, s) => match s.badCrc c with
      | some x => .next (s.failLate lcSectionCrc x.index)
      | none =>
        let m := s.manifestBytes c
        match s.placeCasting c m with
        | (t, some (cause, x)) => .next (t.failLate cause x)
        | (t, none) => .next (t.placed c m)

/-- The load pours end: every extent has reached its place. (DEDUCED: log entry 62) -/
def execLoadPourComplete (s : State) : Out State :=
  match s.castRun with
  | none => .next s
  | some c =>
    if castState s ≠ csPouring then .next s
    else
      let done := (List.range s.casting.exts.length).all (fun e => match s.ext e with
        | some x => x.kind = 2 || s.extDone e
        | none => true)
      .next (if done then s.endLoad c else s)

end Sys2Proof.Machine
end

