-- ==== Sys2Proof/Machine/Module.lean ====
section
/-! DEFINITION. Management messages, the endpoint identifier and the alert response (R598, R608). -/
namespace Sys2Proof.Machine

/-- The status of a management response: 1 while the security block answers for an engine without main power.
(DEDUCED: log entry 109) -/
def State.mgmtStatus (s : State) : Byte := if s.boot.main then 0 else 1

/-- A management read: the value goes to the management bus. No register lies at an offset beyond the page: it reads as zero.
(DESIGN CHOICE: log entry 136) -/
def State.mgmtRead (s : State) (page off : Nat) (size : AccSize) (n : Nat) : State :=
  let (v, t) := if off < 0x1000 then s.busRead .mgmt page off size else (0, s)
  (t.deliver .mgmt v).send (.reply .mgmt (s.mgmtStatus :: leBytes n v.toNat))

/-- A management write. -/
def State.mgmtWrite (s : State) (page off : Nat) (size : AccSize) (v : W64) : State :=
  (if off < 0x1000 then s.writeReg .mgmt page off size v else s).send (.reply .mgmt [s.mgmtStatus])

/-- A request that arrives on the management bus: nothing answers without VAUX. -/
def State.onBus (s : State) (f : State → State) : Out State := .next (if s.boot.vaux then f s else s)

def execRead64 (page off : BitVec 16) (s : State) : Out State :=
  s.onBus (fun s => s.mgmtRead page.toNat off.toNat .b64 8)
def execWrite64 (page off : BitVec 16) (v : W64) (s : State) : Out State :=
  s.onBus (fun s => s.mgmtWrite page.toNat off.toNat .b64 v)
def execRead32 (page off : BitVec 16) (s : State) : Out State :=
  s.onBus (fun s => s.mgmtRead page.toNat off.toNat .b32 4)
def execWrite32 (page off : BitVec 16) (v : W32) (s : State) : Out State :=
  s.onBus (fun s => s.mgmtWrite page.toNat off.toNat .b32 (v.setWidth 64))

/-- Set Endpoint ID: the null and the broadcast identifier are no endpoint's (PRESUMED: MCTP base specification). The response
gives the completion code and the identifier held. (PRESUMED: log entry 107) -/
def execSetEndpointId (eid : BitVec 8) (s : State) : Out State :=
  s.onBus (fun s =>
    if eid = 0 || eid = 0xFF then s.send (.reply .mgmt [2, s.eid])
    else { s with eid := eid }.send (.reply .mgmt [0, eid]))

/-- The alert response address, answered while SMB_ALERT# is driven. (DESIGN CHOICE: log entry 103) -/
def execAlertResponse (s : State) : Out State :=
  s.onBus (fun s => if s.smbAlert then s.send (.reply .mgmt [0x40 + BitVec.setWidth 8 Config.addrStrap]) else s)

end Sys2Proof.Machine
end

