-- ==== Sys2Proof/Machine/Packets.lean ====
section
/-! DEFINITION. Packets that end moves, remote gate adds, generation updates and epoch changes, the hop of a packet through a
router, and the lanes of a link (R136, R139, R267, R313 to R336). -/
namespace Sys2Proof.Machine

/-- Whether a MOVE_DONE waits at its tile: the adds that its instruction ends with let a gathering buffer flush first, which waits for a
layer that is not ON (R181, R185). -/
def State.doneWaits (s : State) (p : Packet) : Bool :=
  let i := p.dst.toNat
  (s.ejectCause i p).isNone &&
    (match (s.moveOf i p.tag.toNat).or (s.handOf i p.tag.toNat) with | some c => !s.canAdd c | none => false)

/-- A MOVE_DONE delivered: a runner move, a hand-off or a wavefront move of the tile goes on or ends (R332). -/
def execMoveDone (p : Packet) (s : State) : Out State :=
  if !p.wf then .fault .illFormed
  else if s.doneWaits p then .next s
  else if isDie p.dst.toNat then .next (s.ejectDie opMoveDone p (fun d t => t.dieMoveDone d p))
  else .next (s.eject opMoveDone p (fun tile t =>
    match t.moveOf tile p.tag.toNat with
    | some c => t.moveProgress c (bits p.operand.toNat 47 0)
    | none => match t.handOf tile p.tag.toNat with
      | some c => t.handDone c
      | none => match t.waveOf tile p.tag.toNat with
        | some m => t.waveDone m
        | none => t))

/-- A GADD delivered: step 4 of R139. -/
def execRemoteGadd (p : Packet) (s : State) : Out State :=
  if !p.wf then .fault .illFormed
  else .next (s.eject opGadd p (fun tile t => t.meshGateAdd tile (p.addr.toNat % 1024) (w32 p.operand.toNat)))

/-- A GEN delivered: the tile holds the new generation, and what waits there with an old one is dropped (R267). -/
def execGenUpdate (p : Packet) (s : State) : Out State :=
  if !p.wf then .fault .illFormed
  else .next (s.eject opGen p (fun tile t =>
    let t := t.setGenAt tile (p.addr.toNat % 4096) (BitVec.ofNat 8 p.operand.toNat)
    let beds := (t.bedsOf (t.polderOf tile)).filter (fun b => t.entryTile b = some tile)
    ((beds.foldl (fun (t : State) b => t.dropStale b tile) t).dropStaleMoves tile).dropRidStale tile))

/-- OPERAND of a MGMT packet, with its kind in [63:56]: 1 an epoch change, of the polder in [2:0] to the epoch in [11:8]; 2 a register
write and 3 a register read, of page ADDR / 4096 at offset ADDR mod 4096, by the requester in [1:0], 64 bits wide with [4] = 1, the value
being the payload; 4 a tap broadcast; 5 TIDE_LIM and 6 QUENCH_LIM in [9:0]. (DESIGN CHOICE: log entry 27) -/
def mgKind (o : Nat) : Nat := bits o 63 56
/-- DESIGN CHOICE: log entry 27. -/
def epochOperand (pol epoch : Nat) : Nat := 2 ^ 56 + pol + epoch * 2 ^ 8
def mgWho (o : Nat) : Requester := if bits o 1 0 = 0 then .portA else if bits o 1 0 = 1 then .portB else .mgmt

/-- The part of a management packet that every unit takes alike: a register access to one of its own pages (R430) and a tap broadcast
(R448). -/
def State.mgmtAt (s : State) (unit : Nat) (p : Packet) : State :=
  let o := p.operand.toNat
  let page := p.addr.toNat / 4096
  let off := p.addr.toNat % 4096
  let size : AccSize := if bit o 4 then .b64 else .b32
  if mgKind o = 2 && (unitPages unit).contains page then s.writeReg (mgWho o) page off size (BitVec.ofNat 64 (leAt p.payload 0 8))
  else if mgKind o = 3 && (unitPages unit).contains page then s.readReg (mgWho o) page off size
  else if mgKind o = 4 then s.latchUnit unit
  else s

/-- A MGMT delivered (R317): a register access, a tap broadcast, a limit update (R472, R506) or an epoch change (R320) takes effect at its
tile or sluice die. It must come from a sluice die with SYS = 1. -/
def execMgmt (p : Packet) (s : State) : Out State :=
  let o := p.operand.toNat
  let pol := bits o 2 0
  let applies : Bool := p.sys && isDie p.src.toNat
  if !p.wf then .fault .illFormed
  else if isDie p.dst.toNat then
    .next (s.ejectDie opMgmt p (fun die t =>
      if !applies then t
      else if mgKind o = 1 then { t with rimEpoch := Store.set 0 t.rimEpoch (die * 8 + pol) (BitVec.ofNat 4 (bits o 11 8)) }
      else t.mgmtAt (80 + die) p))
  else .next (s.eject opMgmt p (fun tile t =>
    if !applies then t
    else if mgKind o = 1 then t.setRf (cetisPage tile) Reg.EPOCH (4 * pol + 3) (4 * pol) (bits o 11 8)
    else if mgKind o = 5 then t.setTideLim tile (bits o 9 0)
    else if mgKind o = 6 then t.setQuenchLim tile (bits o 9 0)
    else t.mgmtAt tile p))

/-! ### Arbitration of an output (R326, R327, R330, R332) -/

/-- The class of a waiting packet: it rises by one every 64 µs. -/
def State.linkClass (s : State) (t : Transit) : Nat := min 3 (t.pkt.tclass.toNat + (s.up - t.since) / 64000)

/-- Whether an output port takes a packet on a lane: the port is up and not fenced against it, its link may carry the packet's scope, and
the buffer beyond has credit for all of it. The local port, and a sluice die, take every packet (R328). -/
def State.opens (s : State) (tile port lane : Nat) (p : Packet) : Bool :=
  if 5 ≤ port then true
  else s.livePort tile port && (!s.fencedPort tile port || Packet.leavesFence p) && decide ((s.laneAt tile port lane).fails < 9) &&
    (!s.polderScope p || s.linkOwner tile port = some p.polder.toNat) &&
    (match neighbour tile port with | some d => s.credit d ((port + 2) % 4) lane p | none => true)

/-- The candidates of an output port and lane: packets in the router's buffers that chose it, with none of their flow before them. -/
def State.hopCands (s : State) (tile port lane : Nat) : List Transit :=
  s.net.filter (fun t => t.tile = tile && (match t.out with | some (k, l) => k = port && s.useLane tile k l = some lane | none => false) &&
    s.seated t && s.opens tile port lane t.pkt &&
    (s.net.takeWhile (· ≠ t)).all (fun q => !(q.tile = tile && q.pkt.ord && t.pkt.ord && Packet.behind t.pkt q.pkt)))

/-- The earliest arrival; a tie goes to the lower input port. -/
def earliest (l : List Transit) : Option Transit :=
  l.foldl (fun (a : Option Transit) x => match a with
    | none => some x
    | some y => if x.since < y.since || (x.since = y.since && decide (x.inPort < y.inPort)) then some x else some y) none

/-- Whether a packet is foreign on an output: request or wavefront traffic of a polder that does not own the link. -/
def State.foreign (s : State) (tile port : Nat) (p : Packet) : Bool :=
  (p.vc = 0 || p.vc = 2) && s.linkOwner tile port ≠ some p.polder.toNat
/-- How a grant counts in the window of 64. -/
def State.grantKind (s : State) (tile port : Nat) (p : Packet) : Nat :=
  if p.vc = 3 then 1 else if s.foreign tile port p then 2 else 0

/-- grant(port) of R330: the packet granted, with the pointer and the quanta it leaves. -/
def State.grantOf (s : State) (tile port lane : Nat) : Option Transit × Turn :=
  let l := s.hopCands tile port lane
  let x := s.meshPort tile port
  let turn : Turn := ⟨x.ptr, x.quanta⟩
  let got (k : Nat) : Nat := (x.grants.filter (· = k)).length
  let c (hi lo : Nat) : Nat := s.rf (cetisPage tile) Reg.CETIS_CTL hi lo
  let cls (t : Transit) : Nat := s.linkClass t
  match earliest (l.filter (fun t => cls t = 3)) with
  | some t => (some t, turn)
  | none =>
    let mgt := l.filter (fun t => t.pkt.vc = 3)
    let rsp := l.filter (fun t => t.pkt.vc = 1)
    let rest := l.filter (fun t => t.pkt.vc = 0 || t.pkt.vc = 2)
    let own := rest.filter (fun t => !s.foreign tile port t.pkt)
    let frn := rest.filter (fun t => s.foreign tile port t.pkt)
    if !mgt.isEmpty && (decide (got 1 < max 1 (c 15 8)) || mgt.length = l.length) then (earliest mgt, turn)
    else if !rsp.isEmpty then (earliest rsp, turn)
    else
      let group :=
        if own.isEmpty || frn.isEmpty then rest
        else if got 2 < c 21 16 then frn
        else if max (c 21 16) (c 29 24) ≤ got 2 then own
        else rest
      let (t, turn) := pickTurn (fun k => earliest (group.filter (fun t => cls t = k))) (fun k => c (39 + 8 * k) (32 + 8 * k)) turn
      match t with
      | none => (none, turn)
      | some t => (some t, turn.use (cls t))

/-- The flits of a packet sent on a lane: they enter its replay buffer of 64, and the flit before them has come through (R315).
(DEDUCED: log entry 49) -/
def State.laneSend (s : State) (tile port lane : Nat) (p : Packet) : State :=
  let l := (s.laneAt tile port lane).sent ++ (List.range (Packet.flits p)).map (fun k => (p, k))
  s.setLane tile port lane ⟨l.drop (l.length - 64), 0⟩

/-! ### A hop (R320, R322, R323, R326 to R332, R336) -/

/-- A granted packet leaves its router on a lane of a port: counted, and taken in by the next router, the sluice die or the tile itself. -/
def State.depart (s : State) (t : Transit) (port lane : Nat) (turn : Turn) : State :=
  let i := t.tile
  let p := t.pkt
  let pg := cetisPage i
  let x := s.meshPort i port
  let foreign := s.foreign i port p && (s.linkOwner i port).isSome
  let s := if s.linkClass t = 3 then s.bump pg 9 1 else s
  let s := s.setMeshPort i port { x with ptr := turn.ptr, quanta := turn.quanta, grants := (s.grantKind i port p :: x.grants).take 64 }
  let s := { s with net := s.net.erase t }
  if 5 ≤ port then { s with arrivals := s.arrivals ++ [p] }
  else
    let s := (s.bump pg port (Packet.flits p)).laneSend i port lane p
    let s := if foreign then s.bump pg 5 (Packet.flits p) else s
    match neighbour i port with
    | some d => s.enterRouter d ((port + 2) % 4) lane p
    | none => if Store.get false s.dieFence i && !Packet.passesFence p then s else { s with arrivals := s.arrivals ++ [p] }

/-- A packet that waits in a router, which it entered by a port, goes on by one hop when the arbitration of its output grants it. One that
has found no output yet is routed first; one whose output has been fenced is dropped. -/
def execPacketHop (tile : TileIx) (inPort : Fin 6) (p : Packet) (s : State) : Out State :=
  if !p.wf then .fault .illFormed
  else
    let i := tile.val
    match s.net.find? (fun t => t.tile = i && t.inPort = inPort.val && t.pkt = p) with
    | none => .next s
    | some t => match t.out with
      | none => match s.outPort i p with
        | none => .next s
        | some k =>
          let (l, s1) := s.chooseLane i k p
          .next { s1 with net := s.net.map (fun x => if x = t then { t with out := some (k, l) } else x) }
      | some (k, l) =>
        if s.fencedPort i k && !Packet.leavesFence p then .next (({ s with net := s.net.erase t } : State).dropPkt i 2 p)
        else match s.useLane i k l with
          | none => .next s
          | some lane =>
            let (g, turn) := s.grantOf i k lane
            .next (if g = some t then s.depart t k lane turn else s)

/-! ### Lanes (R315) -/

/-- A flit that a port of a tile sent failed its check at the receiver. The port replays it from the lane's buffer, up to eight times in
a row. -/
def execFlitCrcFail (tile : TileIx) (port : Fin 5) (lane : Fin 8) (s : State) : Out State :=
  let x := s.laneAt tile port lane
  if !(s.livePort tile port && s.liveLane tile port lane) || x.sent.isEmpty || decide (9 ≤ x.fails) then .next s
  else
    let t := s.setLane tile port lane { x with fails := x.fails + 1 }
    .next (if x.fails < 8 then t.bump (cetisPage tile) 8 1 else t)

/-- What a retired lane leaves at one end of its link: LANE_DOWN, and LINK_DOWN with its report where it was the last. -/
def State.retireEnd (s : State) (tile port : Nat) (last : Bool) : State :=
  let s := s.raise (cetisPage tile) 5
  if last then (s.raise (cetisPage tile) 6).report tile 5 6 port else s

/-- A lane whose flit failed eight consecutive replays is retired: the flits of its buffer are replayed on the next live lane. The other
direction of the link keeps its lanes (R329). (DEDUCED: log entry 49) -/
def execLaneRetire (tile : TileIx) (port : Fin 5) (lane : Fin 8) (s : State) : Out State :=
  let x := s.laneAt tile port lane
  if !(s.livePort tile port && s.liveLane tile port lane) || decide (x.fails < 9) then .next s
  else
    let s1 := (s.setRb (cetisPage tile) Reg.LANES (8 * port + lane) false).setLane tile port lane {}
    let next := s1.useLane tile port lane
    let s2 := match next with
      | none => s1
      | some l =>
        let all := (s1.laneAt tile port l).sent ++ x.sent
        (s1.setLane tile port l { s1.laneAt tile port l with sent := all.drop (all.length - 64) }).bump (cetisPage tile) 8 x.sent.length
    let s3 := s2.retireEnd tile port next.isNone
    .next (match neighbour tile port with
      | some d => s3.retireEnd d ((port.val + 2) % 4) next.isNone
      | none => s3)

end Sys2Proof.Machine
end

