-- ==== Sys2Proof/Machine/Dispatch.lean ====
section
/-! DEFINITION. The dispatch: one arm per command, each a direct call of its meaning. -/
namespace Sys2Proof.Machine

/-- DESIGN CHOICE: log entries 2, 3. -/
def exec (i : Instr) (s : State) : Host.Outcome State Fault Refusal :=
  match i with
  | .taskStart who t v => Sys2Proof.Machine.execTaskStart who t v s
  | .taskStop who t v => Sys2Proof.Machine.execTaskStop who t v s
  | .taskReset who t v => Sys2Proof.Machine.execTaskReset who t v s
  | .drainEnd t => Sys2Proof.Machine.execDrainEnd t s
  | .agePromotion t => Sys2Proof.Machine.execAgePromotion t s
  | .icacheFill t e => Sys2Proof.Machine.execIcacheFill t e s
  | .sbEntryRelease tile cru k => Sys2Proof.Machine.execSbEntryRelease tile cru k s
  | .unitInstrComplete tile cru u k e addr => Sys2Proof.Machine.execUnitInstrComplete tile cru u k e addr s
  | .unitFault tile cru u k code addr => Sys2Proof.Machine.execUnitFault tile cru u k code addr s
  | .scalarLoadReturn t e => Sys2Proof.Machine.execScalarLoadReturn t e s
  | .add t pred rd rs1 rs2 => Sys2Proof.Machine.execAdd t pred rd rs1 rs2 s
  | .sub t pred rd rs1 rs2 => Sys2Proof.Machine.execSub t pred rd rs1 rs2 s
  | .and t pred rd rs1 rs2 => Sys2Proof.Machine.execAnd t pred rd rs1 rs2 s
  | .or t pred rd rs1 rs2 => Sys2Proof.Machine.execOr t pred rd rs1 rs2 s
  | .xor t pred rd rs1 rs2 => Sys2Proof.Machine.execXor t pred rd rs1 rs2 s
  | .sll t pred rd rs1 rs2 => Sys2Proof.Machine.execSll t pred rd rs1 rs2 s
  | .srl t pred rd rs1 rs2 => Sys2Proof.Machine.execSrl t pred rd rs1 rs2 s
  | .sra t pred rd rs1 rs2 => Sys2Proof.Machine.execSra t pred rd rs1 rs2 s
  | .mul t pred rd rs1 rs2 => Sys2Proof.Machine.execMul t pred rd rs1 rs2 s
  | .mulhu t pred rd rs1 rs2 => Sys2Proof.Machine.execMulhu t pred rd rs1 rs2 s
  | .min t pred rd rs1 rs2 => Sys2Proof.Machine.execMin t pred rd rs1 rs2 s
  | .max t pred rd rs1 rs2 => Sys2Proof.Machine.execMax t pred rd rs1 rs2 s
  | .minu t pred rd rs1 rs2 => Sys2Proof.Machine.execMinu t pred rd rs1 rs2 s
  | .maxu t pred rd rs1 rs2 => Sys2Proof.Machine.execMaxu t pred rd rs1 rs2 s
  | .ceq t pred rd rs1 rs2 => Sys2Proof.Machine.execCeq t pred rd rs1 rs2 s
  | .cne t pred rd rs1 rs2 => Sys2Proof.Machine.execCne t pred rd rs1 rs2 s
  | .clt t pred rd rs1 rs2 => Sys2Proof.Machine.execClt t pred rd rs1 rs2 s
  | .cge t pred rd rs1 rs2 => Sys2Proof.Machine.execCge t pred rd rs1 rs2 s
  | .cltu t pred rd rs1 rs2 => Sys2Proof.Machine.execCltu t pred rd rs1 rs2 s
  | .cgeu t pred rd rs1 rs2 => Sys2Proof.Machine.execCgeu t pred rd rs1 rs2 s
  | .pand t pred rd rs1 rs2 => Sys2Proof.Machine.execPand t pred rd rs1 rs2 s
  | .por t pred rd rs1 rs2 => Sys2Proof.Machine.execPor t pred rd rs1 rs2 s
  | .pxor t pred rd rs1 rs2 => Sys2Proof.Machine.execPxor t pred rd rs1 rs2 s
  | .pandn t pred rd rs1 rs2 => Sys2Proof.Machine.execPandn t pred rd rs1 rs2 s
  | .addi t pred rd rs1 imm => Sys2Proof.Machine.execAddi t pred rd rs1 imm s
  | .andi t pred rd rs1 imm => Sys2Proof.Machine.execAndi t pred rd rs1 imm s
  | .ori t pred rd rs1 imm => Sys2Proof.Machine.execOri t pred rd rs1 imm s
  | .xori t pred rd rs1 imm => Sys2Proof.Machine.execXori t pred rd rs1 imm s
  | .slli t pred rd rs1 imm => Sys2Proof.Machine.execSlli t pred rd rs1 imm s
  | .srli t pred rd rs1 imm => Sys2Proof.Machine.execSrli t pred rd rs1 imm s
  | .srai t pred rd rs1 imm => Sys2Proof.Machine.execSrai t pred rd rs1 imm s
  | .clti t pred rd rs1 imm => Sys2Proof.Machine.execClti t pred rd rs1 imm s
  | .lui t pred rd imm => Sys2Proof.Machine.execLui t pred rd imm s
  | .br t pred imm => Sys2Proof.Machine.execBr t pred imm s
  | .jal t pred aD imm => Sys2Proof.Machine.execJal t pred aD imm s
  | .jr t pred aS => Sys2Proof.Machine.execJr t pred aS s
  | .scalarLoad t pred sD aA size sx imm => Sys2Proof.Machine.execScalarLoad t pred sD aA size sx imm s
  | .scalarStore t pred sS aA size sx imm => Sys2Proof.Machine.execScalarStore t pred sS aA size sx imm s
  | .aadd t pred aD aS sX => Sys2Proof.Machine.execAadd t pred aD aS sX s
  | .aaddi t pred aD aS imm => Sys2Proof.Machine.execAaddi t pred aD aS imm s
  | .aset t pred aD sLo sHi => Sys2Proof.Machine.execAset t pred aD sLo sHi s
  | .aget t pred aS sD hi => Sys2Proof.Machine.execAget t pred aS sD hi s
  | .apc t pred aD imm => Sys2Proof.Machine.execApc t pred aD imm s
  | .daddr t pred dd aA imm => Sys2Proof.Machine.execDaddr t pred dd aA imm s
  | .dfmt t pred dd fmt tag => Sys2Proof.Machine.execDfmt t pred dd fmt tag s
  | .dshape t pred dd sX sY sZ => Sys2Proof.Machine.execDshape t pred dd sX sY sZ s
  | .dstride t pred dd sX sY sZ => Sys2Proof.Machine.execDstride t pred dd sX sY sZ s
  | .daux t pred dd aA => Sys2Proof.Machine.execDaux t pred dd aA s
  | .dcopy t pred dd dS => Sys2Proof.Machine.execDcopy t pred dd dS s
  | .dstep t pred dd sX which => Sys2Proof.Machine.execDstep t pred dd sX which s
  | .gadd t pred gate sX sD => Sys2Proof.Machine.execGadd t pred gate sX sD s
  | .gwait t pred gate sX sD tmo => Sys2Proof.Machine.execGwait t pred gate sX sD tmo s
  | .gwaitSatisfied t => Sys2Proof.Machine.execGwaitSatisfied t s
  | .gateTimeout t => Sys2Proof.Machine.execGateTimeout t s
  | .gswap t pred gate sX sD => Sys2Proof.Machine.execGswap t pred gate sX sD s
  | .gread t pred gate sX sD => Sys2Proof.Machine.execGread t pred gate sX sD s
  | .gradd t pred gate sX sD => Sys2Proof.Machine.execGradd t pred gate sX sD s
  | .gbadd t pred gate sX sD => Sys2Proof.Machine.execGbadd t pred gate sX sD s
  | .nop t pred => Sys2Proof.Machine.execNop t pred s
  | .endTask t pred => Sys2Proof.Machine.execEndTask t pred s
  | .rdflags t pred sD => Sys2Proof.Machine.execRdflags t pred sD s
  | .clrflags t pred mask => Sys2Proof.Machine.execClrflags t pred mask s
  | .rdtime t pred sD hi => Sys2Proof.Machine.execRdtime t pred sD hi s
  | .rdid t pred sD => Sys2Proof.Machine.execRdid t pred sD s
  | .brk t pred => Sys2Proof.Machine.execBrk t pred s
  | .illegal t parcels => Sys2Proof.Machine.execIllegal t parcels s
  | .mmul t h o => Sys2Proof.Machine.execMmul t h o s
  | .mmulLift t h o => Sys2Proof.Machine.execMmulLift t h o s
  | .vAdd t h o => Sys2Proof.Machine.execVAdd t h o s
  | .vSub t h o => Sys2Proof.Machine.execVSub t h o s
  | .vMul t h o => Sys2Proof.Machine.execVMul t h o s
  | .fma t h o => Sys2Proof.Machine.execFma t h o s
  | .vMax t h o => Sys2Proof.Machine.execVMax t h o s
  | .vMin t h o => Sys2Proof.Machine.execVMin t h o s
  | .abs t h o => Sys2Proof.Machine.execAbs t h o s
  | .neg t h o => Sys2Proof.Machine.execNeg t h o s
  | .copysign t h o => Sys2Proof.Machine.execCopysign t h o s
  | .scale2 t h o => Sys2Proof.Machine.execScale2 t h o s
  | .recip t h o => Sys2Proof.Machine.execRecip t h o s
  | .sqrt t h o => Sys2Proof.Machine.execSqrt t h o s
  | .rsqrt t h o => Sys2Proof.Machine.execRsqrt t h o s
  | .exp t h o => Sys2Proof.Machine.execExp t h o s
  | .exp2 t h o => Sys2Proof.Machine.execExp2 t h o s
  | .log2 t h o => Sys2Proof.Machine.execLog2 t h o s
  | .sigmoid t h o => Sys2Proof.Machine.execSigmoid t h o s
  | .tanh t h o => Sys2Proof.Machine.execTanh t h o s
  | .silu t h o => Sys2Proof.Machine.execSilu t h o s
  | .geluErf t h o => Sys2Proof.Machine.execGeluErf t h o s
  | .geluTanh t h o => Sys2Proof.Machine.execGeluTanh t h o s
  | .cvt t h o => Sys2Proof.Machine.execCvt t h o s
  | .rope t h o => Sys2Proof.Machine.execRope t h o s
  | .div t h o => Sys2Proof.Machine.execDiv t h o s
  | .rsum t h o => Sys2Proof.Machine.execRsum t h o s
  | .rmax t h o => Sys2Proof.Machine.execRmax t h o s
  | .rmin t h o => Sys2Proof.Machine.execRmin t h o s
  | .rargmax t h o => Sys2Proof.Machine.execRargmax t h o s
  | .rargmin t h o => Sys2Proof.Machine.execRargmin t h o s
  | .rms t h o => Sys2Proof.Machine.execRms t h o s
  | .rmsn t h o => Sys2Proof.Machine.execRmsn t h o s
  | .softmax t h o => Sys2Proof.Machine.execSoftmax t h o s
  | .psum t h o => Sys2Proof.Machine.execPsum t h o s
  | .attnRing t h o => Sys2Proof.Machine.execAttnRing t h o s
  | .attnPage t h o => Sys2Proof.Machine.execAttnPage t h o s
  | .kvput t h o => Sys2Proof.Machine.execKvput t h o s
  | .kvputEntryReread tile cru => Sys2Proof.Machine.execKvputEntryReread tile cru s
  | .move t h o => Sys2Proof.Machine.execMove t h o s
  | .fill t h o => Sys2Proof.Machine.execFill t h o s
  | .gather t h o => Sys2Proof.Machine.execGather t h o s
  | .sent t h o => Sys2Proof.Machine.execSent t h o s
  | .rhand t h o => Sys2Proof.Machine.execRhand t h o s
  | .gateValWrite who tile v => Sys2Proof.Machine.execGateValWrite who tile v s
  | .poolZeroingDone tile cru => Sys2Proof.Machine.execPoolZeroingDone tile cru s
  | .peatLayerWake tile layer => Sys2Proof.Machine.execPeatLayerWake tile layer s
  | .peatZeroingDone tile layer => Sys2Proof.Machine.execPeatZeroingDone tile layer s
  | .gbAgeFlush tile cru line => Sys2Proof.Machine.execGbAgeFlush tile cru line s
  | .poolScrub tile cru word e => Sys2Proof.Machine.execPoolScrub tile cru word e s
  | .peatScrub tile word e => Sys2Proof.Machine.execPeatScrub tile word e s
  | .scrubStarve tile cru => Sys2Proof.Machine.execScrubStarve tile cru s
  | .maintPortStarve tile => Sys2Proof.Machine.execMaintPortStarve tile s
  | .cregEnable who tile peat r v => Sys2Proof.Machine.execCregEnable who tile peat r v s
  | .cregDisable who tile peat r v => Sys2Proof.Machine.execCregDisable who tile peat r v s
  | .cslotStateWrite who tile peat v => Sys2Proof.Machine.execCslotStateWrite who tile peat v s
  | .taggedAccessResume w => Sys2Proof.Machine.execTaggedAccessResume w s
  | .slotTimeout w => Sys2Proof.Machine.execSlotTimeout w s
  | .probe p => Sys2Proof.Machine.execProbe p s
  | .grant p => Sys2Proof.Machine.execGrant p s
  | .refuse p => Sys2Proof.Machine.execRefuse p s
  | .wr p => Sys2Proof.Machine.execWr p s
  | .rd p e => Sys2Proof.Machine.execRd p e s
  | .rdData p => Sys2Proof.Machine.execRdData p s
  | .moveDone p => Sys2Proof.Machine.execMoveDone p s
  | .remoteGadd p => Sys2Proof.Machine.execRemoteGadd p s
  | .placeReq p => Sys2Proof.Machine.execPlaceReq p s
  | .placeOk p => Sys2Proof.Machine.execPlaceOk p s
  | .wave p => Sys2Proof.Machine.execWave p s
  | .hand p => Sys2Proof.Machine.execHand p s
  | .mireRd p e burst landed => Sys2Proof.Machine.execMireRd p e burst landed s
  | .mireWr p => Sys2Proof.Machine.execMireWr p s
  | .draftReq p => Sys2Proof.Machine.execDraftReq p s
  | .draftTree p => Sys2Proof.Machine.execDraftTree p s
  | .genUpdate p => Sys2Proof.Machine.execGenUpdate p s
  | .mgmt p => Sys2Proof.Machine.execMgmt p s
  | .packetHop tile inPort p => Sys2Proof.Machine.execPacketHop tile inPort p s
  | .flitCrcFail tile port lane => Sys2Proof.Machine.execFlitCrcFail tile port lane s
  | .laneRetire tile port lane => Sys2Proof.Machine.execLaneRetire tile port lane s
  | .pgSpill who die v => Sys2Proof.Machine.execPgSpill who die v s
  | .pgFetch who die v => Sys2Proof.Machine.execPgFetch who die v s
  | .pgDrop who die v => Sys2Proof.Machine.execPgDrop who die v s
  | .pageCommandArrive die => Sys2Proof.Machine.execPageCommandArrive die s
  | .attentionDrainEnd tile entry => Sys2Proof.Machine.execAttentionDrainEnd tile entry s
  | .spillCopyDone tile entry => Sys2Proof.Machine.execSpillCopyDone tile entry s
  | .fetchCopyDone tile entry => Sys2Proof.Machine.execFetchCopyDone tile entry s
  | .fetchReadRefused tile entry => Sys2Proof.Machine.execFetchReadRefused tile entry s
  | .mireRefresh stack => Sys2Proof.Machine.execMireRefresh stack s
  | .refreshManagement stack => Sys2Proof.Machine.execRefreshManagement stack s
  | .odeccPoll stack n => Sys2Proof.Machine.execOdeccPoll stack n s
  | .mireScrub stack g e => Sys2Proof.Machine.execMireScrub stack g e s
  | .mireScrubStarve stack => Sys2Proof.Machine.execMireScrubStarve stack s
  | .mireReqAge stack pc => Sys2Proof.Machine.execMireReqAge stack pc s
  | .stackSupplyFault stack => Sys2Proof.Machine.execStackSupplyFault stack s
  | .stackTempRead stack value => Sys2Proof.Machine.execStackTempRead stack value s
  | .admission polder => Sys2Proof.Machine.execAdmission polder s
  | .passOpen bed => Sys2Proof.Machine.execPassOpen bed s
  | .passStart bed tile => Sys2Proof.Machine.execPassStart bed tile s
  | .passForward bed => Sys2Proof.Machine.execPassForward bed s
  | .tokenWavefrontMove stream => Sys2Proof.Machine.execTokenWavefrontMove stream s
  | .bedWatchdog bed => Sys2Proof.Machine.execBedWatchdog bed s
  | .poldLoopWrite who p v => Sys2Proof.Machine.execPoldLoopWrite who p v s
  | .strmCancel who v => Sys2Proof.Machine.execStrmCancel who v s
  | .streamFree stream => Sys2Proof.Machine.execStreamFree stream s
  | .draftWaitTimeout stream => Sys2Proof.Machine.execDraftWaitTimeout stream s
  | .riddleSelect stream e addr => Sys2Proof.Machine.execRiddleSelect stream e addr s
  | .partTimeout stream => Sys2Proof.Machine.execPartTimeout stream s
  | .castingLoad who v => Sys2Proof.Machine.execCastingLoad who v s
  | .loadChecked readOk => Sys2Proof.Machine.execLoadChecked readOk s
  | .loadPlaced readOk => Sys2Proof.Machine.execLoadPlaced readOk s
  | .loadPourComplete => Sys2Proof.Machine.execLoadPourComplete s
  | .extentReq die extent => Sys2Proof.Machine.execExtentReq die extent s
  | .extentData die f => Sys2Proof.Machine.execExtentData die f s
  | .extentDrain die extent e word => Sys2Proof.Machine.execExtentDrain die extent e word s
  | .stagingProbe die extent => Sys2Proof.Machine.execStagingProbe die extent s
  | .credit die k => Sys2Proof.Machine.execCredit die k s
  | .pourStop who die v => Sys2Proof.Machine.execPourStop who die v s
  | .stopResend die k => Sys2Proof.Machine.execStopResend die k s
  | .pourEnd die f => Sys2Proof.Machine.execPourEnd die f s
  | .reqSilenceTimeout die extent => Sys2Proof.Machine.execReqSilenceTimeout die extent s
  | .sessionReopen die server => Sys2Proof.Machine.execSessionReopen die server s
  | .hello die server port => Sys2Proof.Machine.execHello die server port s
  | .helloAck die f => Sys2Proof.Machine.execHelloAck die f s
  | .helloRetry die k => Sys2Proof.Machine.execHelloRetry die k s
  | .sessionRollover die k => Sys2Proof.Machine.execSessionRollover die k s
  | .sqDoorbell port q v => Sys2Proof.Machine.execSqDoorbell port q v s
  | .cqDoorbell port q v => Sys2Proof.Machine.execCqDoorbell port q v s
  | .trDoorbell port r v => Sys2Proof.Machine.execTrDoorbell port r v s
  | .sqFetch port q => Sys2Proof.Machine.execSqFetch port q s
  | .cmdNop port q => Sys2Proof.Machine.execCmdNop port q s
  | .bind port q => Sys2Proof.Machine.execBind port q s
  | .bindingDone port q dmaOk spaceOk => Sys2Proof.Machine.execBindingDone port q dmaOk spaceOk s
  | .cancel port q => Sys2Proof.Machine.execCancel port q s
  | .load port q => Sys2Proof.Machine.execLoad port q s
  | .tokenRecordWrite port r => Sys2Proof.Machine.execTokenRecordWrite port r s
  | .indexBlockWrite port kind num => Sys2Proof.Machine.execIndexBlockWrite port kind num s
  | .queueInterrupt port kind num => Sys2Proof.Machine.execQueueInterrupt port kind num s
  | .queueEnable who port v => Sys2Proof.Machine.execQueueEnable who port v s
  | .queueDisable who port v => Sys2Proof.Machine.execQueueDisable who port v s
  | .portReset port cause => Sys2Proof.Machine.execPortReset port cause s
  | .perstDeassert port => Sys2Proof.Machine.execPerstDeassert port s
  | .pcieLinkTrained port rate width flit => Sys2Proof.Machine.execPcieLinkTrained port rate width flit s
  | .dmaFailure port kind num => Sys2Proof.Machine.execDmaFailure port kind num s
  | .semTake who ix v => Sys2Proof.Machine.execSemTake who ix v s
  | .semRelease who ix v => Sys2Proof.Machine.execSemRelease who ix v s
  | .semForce who ix v => Sys2Proof.Machine.execSemForce who ix v s
  | .apertureRead port off len => Sys2Proof.Machine.execApertureRead port off len s
  | .apertureWrite port off bs => Sys2Proof.Machine.execApertureWrite port off bs s
  | .egressDatagram eth endpoint => Sys2Proof.Machine.execEgressDatagram eth endpoint s
  | .egressFlushTimeout eth endpoint => Sys2Proof.Machine.execEgressFlushTimeout eth endpoint s
  | .ethLinkChange eth up rate => Sys2Proof.Machine.execEthLinkChange eth up rate s
  | .regWrite who page off size v => Sys2Proof.Machine.execRegWrite who page off size v s
  | .regReadRc who page off size => Sys2Proof.Machine.execRegReadRc who page off size s
  | .regReadLowHalf who page off => Sys2Proof.Machine.execRegReadLowHalf who page off s
  | .guardKey who page size v => Sys2Proof.Machine.execGuardKey who page size v s
  | .guardLapse page => Sys2Proof.Machine.execGuardLapse page s
  | .mbxSel who page size v => Sys2Proof.Machine.execMbxSel who page size v s
  | .cntClr who page v => Sys2Proof.Machine.execCntClr who page v s
  | .regAccessTimeout who page off write => Sys2Proof.Machine.execRegAccessTimeout who page off write s
  | .sealWalk => Sys2Proof.Machine.execSealWalk s
  | .sealCommit who v => Sys2Proof.Machine.execSealCommit who v s
  | .sealResume who v => Sys2Proof.Machine.execSealResume who v s
  | .tapGo who v => Sys2Proof.Machine.execTapGo who v s
  | .tapCancel who v => Sys2Proof.Machine.execTapCancel who v s
  | .tapLatch u => Sys2Proof.Machine.execTapLatch u s
  | .tapAck u => Sys2Proof.Machine.execTapAck u s
  | .timeSet who v => Sys2Proof.Machine.execTimeSet who v s
  | .epochBoundary errs => Sys2Proof.Machine.execEpochBoundary errs s
  | .epochWord tile => Sys2Proof.Machine.execEpochWord tile s
  | .mgmtBusReset => Sys2Proof.Machine.execMgmtBusReset s
  | .uvWarn => Sys2Proof.Machine.execUvWarn s
  | .undervoltShutdown mv => Sys2Proof.Machine.execUndervoltShutdown mv s
  | .pwrDomReq who tile v => Sys2Proof.Machine.execPwrDomReq who tile v s
  | .sluiceDomReq who die v => Sys2Proof.Machine.execSluiceDomReq who die v s
  | .rampGrant dom => Sys2Proof.Machine.execRampGrant dom s
  | .rampStage dom => Sys2Proof.Machine.execRampStage dom s
  | .domRampSample dom ok => Sys2Proof.Machine.execDomRampSample dom ok s
  | .domFail dom => Sys2Proof.Machine.execDomFail dom s
  | .minvRearm who tile v => Sys2Proof.Machine.execMinvRearm who tile v s
  | .vmifRearm who die v => Sys2Proof.Machine.execVmifRearm who die v s
  | .minvSample rail mv => Sys2Proof.Machine.execMinvSample rail mv s
  | .governorStep tile avg => Sys2Proof.Machine.execGovernorStep tile avg s
  | .ocpLimit tile => Sys2Proof.Machine.execOcpLimit tile s
  | .tideSrcWrite who k v => Sys2Proof.Machine.execTideSrcWrite who k v s
  | .tideLeaseLapse k => Sys2Proof.Machine.execTideLeaseLapse k s
  | .tideRampTick => Sys2Proof.Machine.execTideRampTick s
  | .tideLoopStep m => Sys2Proof.Machine.execTideLoopStep m s
  | .tideLimUpdate tile lim => Sys2Proof.Machine.execTideLimUpdate tile lim s
  | .tideCompliance p => Sys2Proof.Machine.execTideCompliance p s
  | .refLost => Sys2Proof.Machine.execRefLost s
  | .referenceUsable src => Sys2Proof.Machine.execReferenceUsable src s
  | .parentLost tile => Sys2Proof.Machine.execParentLost tile s
  | .parentChange tile port => Sys2Proof.Machine.execParentChange tile port s
  | .droopStretchStart tile cru => Sys2Proof.Machine.execDroopStretchStart tile cru s
  | .droopStretchEnd tile cru => Sys2Proof.Machine.execDroopStretchEnd tile cru s
  | .freqStep tile cru => Sys2Proof.Machine.execFreqStep tile cru s
  | .generatorSwitch tile cru => Sys2Proof.Machine.execGeneratorSwitch tile cru s
  | .marginLow tile cru => Sys2Proof.Machine.execMarginLow tile cru s
  | .ptpEventMessage eth m => Sys2Proof.Machine.execPtpEventMessage eth m s
  | .ptpAnnounceTimeout => Sys2Proof.Machine.execPtpAnnounceTimeout s
  | .sensorSample r value => Sys2Proof.Machine.execSensorSample r value s
  | .trustEval => Sys2Proof.Machine.execTrustEval s
  | .sensorRetrust who r v => Sys2Proof.Machine.execSensorRetrust who r v s
  | .thermalShutdown r => Sys2Proof.Machine.execThermalShutdown r s
  | .quenchStep => Sys2Proof.Machine.execQuenchStep s
  | .quenchLimUpdate tile lim => Sys2Proof.Machine.execQuenchLimUpdate tile lim s
  | .autoRestart => Sys2Proof.Machine.execAutoRestart s
  | .shutRestart who v => Sys2Proof.Machine.execShutRestart who v s
  | .trayRead which value => Sys2Proof.Machine.execTrayRead which value s
  | .flowWindow pulses => Sys2Proof.Machine.execFlowWindow pulses s
  | .coolingJudge => Sys2Proof.Machine.execCoolingJudge s
  | .faultReport tile cause unit detail => Sys2Proof.Machine.execFaultReport tile cause unit detail s
  | .recastStart tile => Sys2Proof.Machine.execRecastStart tile s
  | .heartbeat tile => Sys2Proof.Machine.execHeartbeat tile s
  | .heartbeatMiss tile => Sys2Proof.Machine.execHeartbeatMiss tile s
  | .settleEnd polder => Sys2Proof.Machine.execSettleEnd polder s
  | .refillStart polder => Sys2Proof.Machine.execRefillStart polder s
  | .refillDone polder => Sys2Proof.Machine.execRefillDone polder s
  | .readmission polder => Sys2Proof.Machine.execReadmission polder s
  | .rcResume who p v => Sys2Proof.Machine.execRcResume who p v s
  | .rcRetire who v => Sys2Proof.Machine.execRcRetire who v s
  | .rcReadmit who v => Sys2Proof.Machine.execRcReadmit who v s
  | .selfTestDone tile pass => Sys2Proof.Machine.execSelfTestDone tile pass s
  | .quarantineSelfTest tile => Sys2Proof.Machine.execQuarantineSelfTest tile s
  | .vauxOn => Sys2Proof.Machine.execVauxOn s
  | .fwVerify slot0 slot1 => Sys2Proof.Machine.execFwVerify slot0 slot1 s
  | .mainPowerEnable => Sys2Proof.Machine.execMainPowerEnable s
  | .mireBringup stack ok => Sys2Proof.Machine.execMireBringup stack ok s
  | .tileTest tile => Sys2Proof.Machine.execTileTest tile s
  | .tileTestDone tile result lanes => Sys2Proof.Machine.execTileTestDone tile result lanes s
  | .siteMapRecord flashOk => Sys2Proof.Machine.execSiteMapRecord flashOk s
  | .bootReady => Sys2Proof.Machine.execBootReady s
  | .vauxLost => Sys2Proof.Machine.execVauxLost s
  | .mainInhAssert => Sys2Proof.Machine.execMainInhAssert s
  | .mainInhDeassert => Sys2Proof.Machine.execMainInhDeassert s
  | .ageSample tile cru drift osc => Sys2Proof.Machine.execAgeSample tile cru drift osc s
  | .replan tile => Sys2Proof.Machine.execReplan tile s
  | .ageReplanWrite who tile v => Sys2Proof.Machine.execAgeReplanWrite who tile v s
  | .monClr who tile v => Sys2Proof.Machine.execMonClr who tile v s
  | .monConfigWrite who tile off v => Sys2Proof.Machine.execMonConfigWrite who tile off v s
  | .monTickSample tile m value => Sys2Proof.Machine.execMonTickSample tile m value s
  | .evlogAppend r => Sys2Proof.Machine.execEvlogAppend r s
  | .evlogLost page => Sys2Proof.Machine.execEvlogLost page s
  | .getVersion tr => Sys2Proof.Machine.execGetVersion tr s
  | .getCapabilities tr => Sys2Proof.Machine.execGetCapabilities tr s
  | .negotiateAlgorithms tr => Sys2Proof.Machine.execNegotiateAlgorithms tr s
  | .getDigests tr => Sys2Proof.Machine.execGetDigests tr s
  | .getCertificate tr slot off len => Sys2Proof.Machine.execGetCertificate tr slot off len s
  | .challenge tr slot nonce => Sys2Proof.Machine.execChallenge tr slot nonce s
  | .getMeasurements tr op nonce signed => Sys2Proof.Machine.execGetMeasurements tr op nonce signed s
  | .spdmUnsupported tr code => Sys2Proof.Machine.execSpdmUnsupported tr code s
  | .enroll who v => Sys2Proof.Machine.execEnroll who v s
  | .revoke who v => Sys2Proof.Machine.execRevoke who v s
  | .rollAdv who v => Sys2Proof.Machine.execRollAdv who v s
  | .read64 page off => Sys2Proof.Machine.execRead64 page off s
  | .write64 page off v => Sys2Proof.Machine.execWrite64 page off v s
  | .read32 page off => Sys2Proof.Machine.execRead32 page off s
  | .write32 page off v => Sys2Proof.Machine.execWrite32 page off v s
  | .setEndpointId eid => Sys2Proof.Machine.execSetEndpointId eid s
  | .alertResponse => Sys2Proof.Machine.execAlertResponse s

end Sys2Proof.Machine
end

