-- ==== Sys2Proof/Machine/Step.lean ====
section
/-! DEFINITION. One step of the machine: the command at the front of the queue, or a tick of the clock when none waits. -/
namespace Sys2Proof.Machine

/-- One fabric cycle without a command: 1 ns, which the rate steering lengthens or shortens by RATE parts in 10^9 (R450, R491).
`up` advances by the same whole number of ns, and no step moves it: every timeout measured in device time counts with it (R452).
(DESIGN CHOICE: log entries 1, 4) -/
def State.tick (s : State) : State :=
  let acc : Int := (s.sub : Int) + (BitVec.ofNat 32 (s.rf (stewPage 0) Reg.TIME_RATE 31 0)).toInt
  let d := 1 + acc / 1000000000
  if s.boot.vaux then
    { s with up := s.up + d.toNat, now := s.now + BitVec.ofInt 64 d, sub := (acc % 1000000000).toNat }
  else s

/-- One step. (DESIGN CHOICE: log entries 1, 2, 114) -/
def step (s : State) : Host.Outcome State Fault Refusal :=
  match s.pending with
  | [] => .next s.tick
  | c :: rest => exec c { s with pending := rest }

/-- The command that a word spells, put at the front of the queue; the table's rows give no bits, so no word spells one.
(DESIGN CHOICE: log entry 1) -/
def State.withFetchWord (s : State) (nbits w : Nat) : State :=
  match Sys2Proof.decodeTableWord nbits w with
  | some c => { s with pending := c :: s.pending }
  | none => s

end Sys2Proof.Machine
end

