-- ==== Sys2Proof/Safety.lean ====
section
/-! DEFINITION. What statements are said in: the fields of the state, a frame (which fields a step may change), the canonical form
of the memories, and "a command answers a next state of which something holds". -/
namespace Sys2Proof.Machine

/-- The memories, the registers and the gates are in canonical form. -/
def State.canonical (s : State) : Bool :=
  Store.wf 0 s.regs && Store.wf 0 s.wins && Store.wf 0 s.pool && Store.wf 0 s.peat && Store.wf 0 s.mire && Store.wf 0 s.host &&
  Store.wf 0 s.gates

/-- The fields of the state, by name. -/
inductive Field where
  | pending | now | up | sub | fresh | regs | wins | guards | shadows | mbxs | tapSets | tap | sealRun | timeSet
  | pool | peat | mire | host | poolBad | peatBad | mireBad | tasks | crus | gates | slots | probes | rx | slotMap
  | routes | rimEpoch | genTab | net | arrivals | ports | laneTx | dieFence | pgQueue | movers | pgPushed | banks
  | scrubs | streams | beds | places | wmoves | rplaces | handRx | nextTag | kvAreas | castRun | casting | pours
  | cmds | queues | egress | fns | reports | mon | monTap | evRing | sec | spdm | eid | evWay | evRate | ramps
  | minvSeen | tide | khz | deferred | stepAt | lostPort | vlog | refs | ptp | sens | quench | tray | boot | flash
  | sites | planDue | planAt | aging | heats | retires | charges | fixes | beats | out | lastRead
  deriving DecidableEq, Repr

/-- Two states agree in a field. -/
def Field.same (s t : State) : Field → Prop
  | .pending => t.pending = s.pending
  | .now => t.now = s.now
  | .up => t.up = s.up
  | .sub => t.sub = s.sub
  | .fresh => t.fresh = s.fresh
  | .regs => t.regs = s.regs
  | .wins => t.wins = s.wins
  | .guards => t.guards = s.guards
  | .shadows => t.shadows = s.shadows
  | .mbxs => t.mbxs = s.mbxs
  | .tapSets => t.tapSets = s.tapSets
  | .tap => t.tap = s.tap
  | .sealRun => t.sealRun = s.sealRun
  | .timeSet => t.timeSet = s.timeSet
  | .pool => t.pool = s.pool
  | .peat => t.peat = s.peat
  | .mire => t.mire = s.mire
  | .host => t.host = s.host
  | .poolBad => t.poolBad = s.poolBad
  | .peatBad => t.peatBad = s.peatBad
  | .mireBad => t.mireBad = s.mireBad
  | .tasks => t.tasks = s.tasks
  | .crus => t.crus = s.crus
  | .gates => t.gates = s.gates
  | .slots => t.slots = s.slots
  | .probes => t.probes = s.probes
  | .rx => t.rx = s.rx
  | .slotMap => t.slotMap = s.slotMap
  | .routes => t.routes = s.routes
  | .rimEpoch => t.rimEpoch = s.rimEpoch
  | .genTab => t.genTab = s.genTab
  | .net => t.net = s.net
  | .arrivals => t.arrivals = s.arrivals
  | .ports => t.ports = s.ports
  | .laneTx => t.laneTx = s.laneTx
  | .dieFence => t.dieFence = s.dieFence
  | .pgQueue => t.pgQueue = s.pgQueue
  | .movers => t.movers = s.movers
  | .pgPushed => t.pgPushed = s.pgPushed
  | .banks => t.banks = s.banks
  | .scrubs => t.scrubs = s.scrubs
  | .streams => t.streams = s.streams
  | .beds => t.beds = s.beds
  | .places => t.places = s.places
  | .wmoves => t.wmoves = s.wmoves
  | .rplaces => t.rplaces = s.rplaces
  | .handRx => t.handRx = s.handRx
  | .nextTag => t.nextTag = s.nextTag
  | .kvAreas => t.kvAreas = s.kvAreas
  | .castRun => t.castRun = s.castRun
  | .casting => t.casting = s.casting
  | .pours => t.pours = s.pours
  | .cmds => t.cmds = s.cmds
  | .queues => t.queues = s.queues
  | .egress => t.egress = s.egress
  | .fns => t.fns = s.fns
  | .reports => t.reports = s.reports
  | .mon => t.mon = s.mon
  | .monTap => t.monTap = s.monTap
  | .evRing => t.evRing = s.evRing
  | .sec => t.sec = s.sec
  | .spdm => t.spdm = s.spdm
  | .eid => t.eid = s.eid
  | .evWay => t.evWay = s.evWay
  | .evRate => t.evRate = s.evRate
  | .ramps => t.ramps = s.ramps
  | .minvSeen => t.minvSeen = s.minvSeen
  | .tide => t.tide = s.tide
  | .khz => t.khz = s.khz
  | .deferred => t.deferred = s.deferred
  | .stepAt => t.stepAt = s.stepAt
  | .lostPort => t.lostPort = s.lostPort
  | .vlog => t.vlog = s.vlog
  | .refs => t.refs = s.refs
  | .ptp => t.ptp = s.ptp
  | .sens => t.sens = s.sens
  | .quench => t.quench = s.quench
  | .tray => t.tray = s.tray
  | .boot => t.boot = s.boot
  | .flash => t.flash = s.flash
  | .sites => t.sites = s.sites
  | .planDue => t.planDue = s.planDue
  | .planAt => t.planAt = s.planAt
  | .aging => t.aging = s.aging
  | .heats => t.heats = s.heats
  | .retires => t.retires = s.retires
  | .charges => t.charges = s.charges
  | .fixes => t.fixes = s.fixes
  | .beats => t.beats = s.beats
  | .out => t.out = s.out
  | .lastRead => t.lastRead = s.lastRead

/-- `t` agrees with `s` in every field outside a list. -/
def Frame (l : List Field) (s t : State) : Prop := ∀ f : Field, f ∉ l → f.same s t

/-- A command answers a next state, and something holds of it. -/
def Does (c : Instr) (s : State) (p : State → Prop) : Prop := ∃ t, exec c s = .next t ∧ p t


/-! ### Frames inside a field -/

/-- Every register outside a list of (page, offset) pairs reads as before. -/
def RegsOutside (l : List (Nat × Nat)) (s t : State) : Prop :=
  ∀ page off, off < 4096 → (page, off) ∉ l → t.reg page off = s.reg page off

/-- A counter register of a page. -/
def counter (page slot : Nat) : Nat × Nat := (page, Reg.COUNTER slot)

/-- The registers that an event of a page writes: its event bits, and the interrupts that the two ports count. -/
def evtRegs (page : Nat) : List (Nat × Nat) := [(page, Reg.EVT_RAW), counter (portPage .a) 6, counter (portPage .b) 6]

/-- A counter of a page has advanced by a number. -/
def Counts (s t : State) (page slot n : Nat) : Prop :=
  t.reg page (Reg.COUNTER slot) = s.reg page (Reg.COUNTER slot) + BitVec.ofNat 64 n

/-- An event bit of a page is set. -/
def Raised (t : State) (page b : Nat) : Prop := t.rb page Reg.EVT_RAW b = true

/-! ### Tasks -/

/-- A task's context. -/
def State.taskAt (s : State) (t : TaskRef) : Task := s.task t.tile t.cru t.task

/-- The other tasks of the engine are as before. -/
def TasksOutside (t : TaskRef) (s u : State) : Prop := ∀ q : TaskRef, q ≠ t → u.taskAt q = s.taskAt q

/-- The other crucibles are as before. -/
def CrusOutside (t : TaskRef) (s u : State) : Prop :=
  ∀ (i : TileIx) (k : CruIx), (i, k) ≠ (t.tile, t.cru) → u.cru i k = s.cru i k

/-- The issue stage passes a task's next instruction on to the instruction's own checks: the task may issue, its program counter is
fetchable, cached and aligned, its predicate holds and no register that it uses waits for a load (R65, R78, R80, R115). Which task may
issue is R68's choice: the lowest-numbered READY task that was passed over for AGE_LIMIT cycles, else the next in turn of the READY
tasks with the highest PRIO. -/
def State.reaches (s : State) (t : TaskRef) (len : Nat) (pred : BitVec 3) (uses : List (BitVec 5)) : Bool :=
  let x := s.taskAt t
  s.canTry t && (s.fetchCheck t len).isNone && (s.cru t.tile t.cru).icache.contains (s.icLine t x.pc) &&
    decide (x.pc.toNat % (if len = 16 then 16 else 4) = 0) && x.rp pred && uses.all (fun r => !x.pend.contains r.toNat)

/-- The counters and the crucible's notes of an issue (R112), with nothing changed but the named fields and registers, the task and
the crucible. -/
def IssueFrame (t : TaskRef) (fs : List Field) (rs : List (Nat × Nat)) (s u : State) : Prop :=
  let pg := cruPage t.tile t.cru
  Frame ([.regs, .tasks, .crus] ++ fs) s u ∧ RegsOutside ([counter pg 0, counter pg 4, counter pg 13] ++ rs) s u ∧
    TasksOutside t s u ∧ CrusOutside t s u ∧ Counts s u pg 0 1 ∧
    Counts s u pg 4 (switches (s.cru t.tile t.cru) t.task) ∧
    Counts s u pg 13 (b2n (s.taskAt t).aged)

/-- A crucible after an issue: the task is the last issuer (R68). -/
def issuedBy (c : Crucible) (k : TaskIx) : Crucible := { c with last := some k }

/-- An instruction retires: the task is READY at an address, and the frame of an issue. -/
def Retires (t : TaskRef) (pc : Addr) (s u : State) : Prop :=
  IssueFrame t [] [] s u ∧ u.cru t.tile t.cru = issuedBy (s.cru t.tile t.cru) t.task ∧
    (u.taskAt t).st = .ready ∧ (u.taskAt t).wait = .none ∧ (u.taskAt t).pc = pc ∧ (u.taskAt t).aged = false

/-- A task's registers: one scalar register takes a value (s0 none), everything else but state, wait, pc and the mark of R68 is as before. -/
def SetsS (x y : Task) (rd : BitVec 5) (v : W32) : Prop :=
  (∀ r, y.rs r = if r = rd ∧ rd ≠ 0 then v else x.rs r) ∧ y = { x with s := y.s, st := y.st, wait := y.wait, pc := y.pc, aged := y.aged }
/-- One predicate takes a value (p0 none). -/
def SetsP (x y : Task) (rd : BitVec 3) (v : Bool) : Prop :=
  (∀ r, y.rp r = if r = rd ∧ rd ≠ 0 then v else x.rp r) ∧ y = { x with p := y.p, st := y.st, wait := y.wait, pc := y.pc, aged := y.aged }
/-- One address register takes a value. -/
def SetsA (x y : Task) (rd : BitVec 4) (v : Addr) : Prop :=
  (∀ r, y.ra r = if r = rd then v else x.ra r) ∧ y = { x with a := y.a, st := y.st, wait := y.wait, pc := y.pc, aged := y.aged }
/-- One descriptor takes a value. -/
def SetsD (x y : Task) (rd : BitVec 4) (v : Desc) : Prop :=
  (∀ r, y.rd r = if r = rd then v else x.rd r) ∧ y = { x with d := y.d, st := y.st, wait := y.wait, pc := y.pc, aged := y.aged }
/-- No register of the task changes. -/
def SetsNone (x y : Task) : Prop := y = { x with st := y.st, wait := y.wait, pc := y.pc, aged := y.aged }

/-- Decoded pc arithmetic of a retiring instruction. -/
def State.nextPc (s : State) (t : TaskRef) (len : Nat) : Addr := (s.taskAt t).pc + BitVec.ofNat 48 len

/-- A command retires an instruction that writes one scalar register and nothing else. -/
def DoesS (c : Instr) (s : State) (t : TaskRef) (rd : BitVec 5) (v : W32) : Prop :=
  Does c s (fun u => Retires t (s.nextPc t 4) s u ∧ SetsS (s.taskAt t) (u.taskAt t) rd v)
/-- A command retires an instruction that writes one predicate and nothing else. -/
def DoesP (c : Instr) (s : State) (t : TaskRef) (rd : BitVec 3) (v : Bool) : Prop :=
  Does c s (fun u => Retires t (s.nextPc t 4) s u ∧ SetsP (s.taskAt t) (u.taskAt t) rd v)
/-- A command retires an instruction that writes one address register and nothing else. -/
def DoesA (c : Instr) (s : State) (t : TaskRef) (rd : BitVec 4) (v : Addr) : Prop :=
  Does c s (fun u => Retires t (s.nextPc t 4) s u ∧ SetsA (s.taskAt t) (u.taskAt t) rd v)
/-- A command retires an instruction that writes one descriptor and nothing else. -/
def DoesD (c : Instr) (s : State) (t : TaskRef) (rd : BitVec 4) (v : Desc) : Prop :=
  Does c s (fun u => Retires t (s.nextPc t 4) s u ∧ SetsD (s.taskAt t) (u.taskAt t) rd v)


/-- Registers, tasks and crucibles after an instruction that left the issue stage at an address with its own extra fields and registers
written: READY there, nothing waited for. -/
def RetiresTo (t : TaskRef) (fs : List Field) (rs : List (Nat × Nat)) (pc : Addr) (s u : State) : Prop :=
  IssueFrame t fs rs s u ∧ (u.taskAt t).st = .ready ∧ (u.taskAt t).wait = .none ∧ (u.taskAt t).pc = pc ∧
    (u.taskAt t).aged = false

/-- The registers of a fault report. -/
def reportRegs (tile : Nat) : List (Nat × Nat) :=
  [(faultPage tile, Reg.FAULT_REC), (faultPage tile, Reg.FAULT_INFO), counter (faultPage tile) 0] ++ evtRegs (faultPage tile)

/-- The other tasks after entries or queue places of a crucible came free: those of the crucible as its scoreboard and queues leave
them (R70, R80), the others as before. -/
def TasksWoken (t : TaskRef) (s u : State) : Prop :=
  ∀ q : TaskRef, q ≠ t → u.taskAt q =
    if (q.tile, q.cru) = (t.tile, t.cru) then (s.taskAt q).rewait (u.cru t.tile t.cru) else s.taskAt q

/-- No instruction of a task after an order number is dispatched. -/
def State.noneAfter (s : State) (t : TaskRef) (seq : Nat) : Bool :=
  (s.cru t.tile t.cru).works.all (fun w => w.task ≠ t.task || decide (w.seq ≤ seq))

/-- A task that has just faulted (R97 to R99, R108), where its fault record was empty: the record with the code, unit, segment,
address and program counter of the instruction with a sequence number, the drain toward FAULTED, the events and counters of the CRU
and FAULT pages and the fault report. Later instructions of the task leave their queues and the scoreboard and give their slots back;
where there is none, no crucible, slot or byte of memory changes but by the extra fields. -/
def FaultedAt (t : TaskRef) (seq code unit : Nat) (addr pc : Addr) (fs : List Field) (rs : List (Nat × Nat)) (s u : State) : Prop :=
  let pg := cruPage t.tile t.cru
  let fp := faultPage t.tile
  let x := s.taskAt t
  Frame ([.regs, .tasks, .crus, .slots, .reports, .out, .fns, .fresh, .pool, .peat, .probes, .rx] ++ fs) s u ∧
  (s.noneAfter t seq = true → Frame ([.regs, .tasks, .crus, .reports, .out, .fns] ++ fs) s u) ∧
  RegsOutside ([(pg, Reg.TASK_FAULT t.task), (pg, Reg.TASK_FADDR t.task), (pg, Reg.TASK_FPC t.task), counter pg 12,
    (fp, Reg.FAULT_REC), (fp, Reg.FAULT_INFO), counter fp 0] ++ evtRegs pg ++ evtRegs fp ++ rs) s u ∧
  TasksWoken t s u ∧ CrusOutside t s u ∧
  (u.cru t.tile t.cru).works.all (fun w => w.task ≠ t.task || decide (w.seq ≤ seq)) = true ∧
  u.taskAt t = { x with st := .draining, wait := .none, after := .faulted, gate := none, load := none, pend := [],
                        faultSeq := some seq, ask := none, aged := false } ∧
  u.rf pg (Reg.TASK_FAULT t.task) 7 0 = code ∧ u.rf pg (Reg.TASK_FAULT t.task) 10 8 = unit ∧
  u.rf pg (Reg.TASK_FAULT t.task) 12 11 = segOf addr ∧ u.rf pg (Reg.TASK_FAULT t.task) 63 32 = s.ts ∧
  u.rf pg (Reg.TASK_FAULT t.task) 19 16 = s.rf pg (Reg.TASK_FAULT t.task) 19 16 ∧
  u.reg pg (Reg.TASK_FADDR t.task) = BitVec.ofNat 64 addr.toNat ∧ u.reg pg (Reg.TASK_FPC t.task) = BitVec.ofNat 64 pc.toNat ∧
  Raised u pg 0 ∧ Counts s u pg 12 1 ∧ Raised u fp 0 ∧ Counts s u fp 0 1 ∧
  u.rf fp Reg.FAULT_REC 10 8 = 1 + t.cru.val ∧
  u.rf fp Reg.FAULT_REC 7 0 = (if code = fEcc then 2 else 1)

/-- The registers that record an ECC error of a tile's pools or peat (R205, R206). -/
def eccRegs (tile : Nat) : List (Nat × Nat) :=
  [(poolPage tile, Reg.POOL_ECC_ADDR), (poolPage tile, Reg.POOL_ECC_INFO), counter (poolPage tile) 3,
   (peatPage tile, Reg.PEAT_ECC_ADDR), (peatPage tile, Reg.PEAT_ECC_INFO), counter (peatPage tile) 5] ++
  evtRegs (poolPage tile) ++ evtRegs (peatPage tile)

/-- The same, of the instruction that the task is at. -/
def Faulted (t : TaskRef) (code unit : Nat) (addr pc : Addr) (rs : List (Nat × Nat)) (s u : State) : Prop :=
  FaultedAt t (s.taskAt t).seq code unit addr pc [] rs s u

/-! ### The gathering buffer -/

/-- What the gathering buffer's operations change of the registers: the counters of the PEAT page. -/
def gbRegs (tile : Nat) : List (Nat × Nat) :=
  [counter (peatPage tile) 0, counter (peatPage tile) 1, counter (peatPage tile) 2, counter (peatPage tile) 3]

/-- Peat after entries of a crucible's gathering buffer have flushed (R182, R185). -/
def flushedPeat (tile : Nat) (m : Store Byte) : List GbEntry → Store Byte
  | [] => m
  | e :: r => flushedPeat tile (putMasked m (peatKey tile (e.line * 256)) e.valid) r

/-! ### Dispatched instructions -/

/-- The done gate of an instruction, where it names one (R143). -/
def doneGates (h : THdr) : List (BitVec 10) := if h.dge then [h.dg] else []

/-- A dispatched instruction has ended with some flags and adds to some gates of its tile (R63, R86, R143): it has left its unit's
queue, its scoreboard entries are free, its task's flags hold its own too, and the gates have advanced after the gathering buffer
flushed. Tasks of the crucible that waited for either are re-evaluated. Nothing else changes but the slots and the extra fields and
registers named. -/
def Ended (c : UCtx) (u : UnitKind) (gs : List (BitVec 10)) (fl : Flags) (fs : List Field) (rs : List (Nat × Nat)) (s v : State) : Prop :=
  let x := s.cru c.t.tile c.t.cru
  let y := v.cru c.t.tile c.t.cru
  let pg := cruPage c.t.tile c.t.cru
  Frame ([.regs, .crus, .tasks, .slots, .gates, .peat, .peatBad] ++ fs) s v ∧ CrusOutside c.t s v ∧
  (∀ q : TaskRef, v.taskAt q = if (q.tile, q.cru) = (c.t.tile, c.t.cru) then
    (s.taskAt q).rewait y else s.taskAt q) ∧
  RegsOutside ([(pg, Reg.TASK_FLAGS c.t.task), counter (gatePage c.t.tile) 0] ++ gbRegs c.t.tile ++ rs) s v ∧
  y.queue u = (x.queue u).filter (fun w => w.iid ≠ c.w.iid) ∧ (∀ q, q ≠ u → y.queue q = x.queue q) ∧
  y.sb = x.sb.filter (fun e => e.iid ≠ c.w.iid) ∧ y.icache = x.icache ∧ y.nextIid = x.nextIid ∧
  v.reg pg (Reg.TASK_FLAGS c.t.task) = s.reg pg (Reg.TASK_FLAGS c.t.task) ||| BitVec.ofNat 64 fl.toNat ∧
  (∀ (j : TileIx) (g : BitVec 10), v.gate j g.toNat =
    s.gate j g.toNat + (if j = c.t.tile then BitVec.ofNat 32 (gs.count g) else 0)) ∧
  y.gb = (if gs = [] then x.gb else []) ∧ v.peat = (if gs = [] then s.peat else flushedPeat c.t.tile s.peat x.gb)

/-! ### Packets -/

/-- The header that an injection gives a packet. -/
def State.sent (s : State) (p : Packet) (tile pol : Nat) (m : Send) : Prop :=
  p.dst = BitVec.ofNat 8 m.dst ∧ p.src = BitVec.ofNat 8 tile ∧ p.vc = BitVec.ofNat 2 (opVc m.op) ∧ p.ord = opOrd m.op ∧ p.sys = m.sys ∧
  p.polder = BitVec.ofNat 3 pol ∧ p.epoch = BitVec.ofNat 4 (s.epochOf tile pol) ∧ p.op = BitVec.ofNat 8 m.op ∧
  p.addr = BitVec.ofNat 48 m.addr ∧ p.tag = BitVec.ofNat 16 m.tag ∧ p.operand = BitVec.ofNat 64 m.operand ∧ p.payload = m.payload ∧
  Packet.intact p = true

/-- A packet of an operation can be delivered to the tile that it is addressed to, whose router accepts it (R317 to R321, R332). -/
def State.accepts (s : State) (i : TileIx) (op : Nat) (p : Packet) : Bool :=
  Packet.wf p && s.arrivable op p && decide (p.dst.toNat = i.val) && (s.ejectCause i p).isNone

/-- The gateway of a sluice die's reply takes it in: neither end of the link is fenced, a route leads on, and the router holds the reply's
epoch (R320, R322, R324). -/
def State.dieCanReply (s : State) (d : Nat) (p : Packet) : Bool :=
  let gw := p.gwy.toNat
  !Store.get false s.dieFence gw && s.hasRoute (s.pickSet .rim p.polder.toNat gw p.src.toNat) gw p.src.toNat &&
    (List.range 5).all (fun k => !s.fencedPort gw k) &&
    (p.sys || decide ((Store.get 0 s.rimEpoch (d * 8 + p.polder.toNat)).toNat = s.epochOf gw p.polder.toNat))

/-- A tile can send a message on behalf of a polder: its router has a route for it, and no port of the tile is fenced. -/
def State.canSendAs (s : State) (tile pol : Nat) (m : Send) : Bool :=
  (s.inject tile pol m).isSome && (List.range 5).all (fun k => !s.fencedPort tile k)
/-- The same on behalf of the tile's own polder. -/
def State.canSend (s : State) (tile : Nat) (m : Send) : Bool := s.canSendAs tile (s.polderOf tile) m

/-- What a tile sends in answer to a packet. -/
def replyTo (p : Packet) (op addr operand : Nat) (payload : List Byte) : Send :=
  { dst := p.src.toNat, op := op, addr := addr, tag := p.tag.toNat, operand := operand, payload := payload }

/-- Packets of a tile wait in its router behind those in the mesh: what the tile has sent on behalf of a polder. -/
def State.injectedAs (s u : State) (tile pol : Nat) (l : List Send) : Prop :=
  ∃ ts : List Transit, u.net = s.net ++ ts ∧ List.Forall₂ (fun x m => s.sent x.pkt tile pol m ∧ x.tile = tile ∧ x.inPort = 5) ts l
/-- The same on behalf of the tile's own polder. -/
def State.injected (s u : State) (tile : Nat) (l : List Send) : Prop := s.injectedAs u tile (s.polderOf tile) l

/-- A packet was taken from those delivered, and others were sent by its tile. -/
def State.answered (s u : State) (i : TileIx) (p : Packet) (l : List Send) : Prop :=
  u.arrivals = s.arrivals.erase p ∧ s.injected u i l

/-- A packet of an operation can be delivered to the sluice die that it is addressed to, which holds its epoch (R317, R320). -/
def State.dieAccepts (s : State) (d op : Nat) (p : Packet) : Bool :=
  Packet.wf p && s.arrivable op p && decide (p.dst.toNat = 0x80 + d) && Packet.intact p &&
    (p.sys || decide (p.epoch = Store.get 0 s.rimEpoch (d * 8 + p.polder.toNat)))

/-- Packets of a sluice die wait at its gateways behind those in the mesh: what it has sent on behalf of a polder (R325). -/
def State.dieSent (s u : State) (d pol : Nat) (l : List Send) : Prop :=
  ∃ ts : List Transit, u.net = s.net ++ ts ∧ List.Forall₂ (fun x m =>
    x.pkt.dst = BitVec.ofNat 8 m.dst ∧ x.pkt.src = BitVec.ofNat 8 (dieEnd d) ∧ x.pkt.op = BitVec.ofNat 8 m.op ∧
    x.pkt.polder = BitVec.ofNat 3 pol ∧ x.pkt.epoch = Store.get 0 s.rimEpoch (d * 8 + pol) ∧ x.pkt.addr = BitVec.ofNat 48 m.addr ∧
    x.pkt.tag = BitVec.ofNat 16 m.tag ∧ x.pkt.operand = BitVec.ofNat 64 m.operand ∧ x.pkt.payload = m.payload ∧
    Packet.intact x.pkt = true ∧ x.tile = dieGateway d m.dst ∧ x.inPort = 4) ts l

/-! ### Pours -/

/-- A frame with a message of a type comes through its Ethernet port to a session of a sluice die (R373, R375, R417). -/
def State.frameFor (s : State) (d k type : Nat) (f : PourFrame) : Bool :=
  s.portLive (2 * d + f.port) && f.fcsOk && decide (frameBytes f ≤ 9216) && decide (s.sessionOf d f = some k) &&
    decide ((frameMsg f).type = type)

/-! ### Register writes -/

/-- A write by a requester takes effect: the page answers, and where the register has guarded fields the requester holds the page's
guard (R4, R436, R598). -/
def State.admits (s : State) (who : Requester) (page off : Nat) : Bool :=
  s.pageLive page && (decide (accMask page off .gw = 0) || decide (s.guardOwner page = whoCode who))

/-- What an admitted write of a register may change, with the fields and registers of its effect: the register, the requester's read
shadow, the page's guard and the seal walker's mark of a sealed field written. -/
def Writes (page off : Nat) (fs : List Field) (rs : List (Nat × Nat)) (s u : State) : Prop :=
  Frame ([.regs, .guards, .shadows, .sealRun] ++ fs) s u ∧ RegsOutside ((page, off) :: rs) s u

/-! ### Host queues -/

/-- A command has completed: it is gone and its room is free, and where its completion ring is enabled the entry lies at the tail,
the tail has advanced and the port has counted it (R402, R411). -/
def State.completed (s u : State) (c : HostCmd) (d : Done) : Prop :=
  let t := s.qTail c.port kCq c.cq
  u.cmds = s.cmds.erase c ∧
  if s.qEn c.port kCq c.cq then
    u.host = putBytes s.host (hostKey c.port (s.qAddr c.port kCq c.cq t)) (doneBytes c d s.now) ∧
    u.qTail c.port kCq c.cq = t + 1 ∧ u.qHead c.port kCq c.cq = s.qHead c.port kCq c.cq ∧ Counts s u (portPage c.port) 1 1
  else u.host = s.host

/-! ### The issue stage -/

/-- A tensor instruction as the issue stage takes it: its task, header and unit, the scalar registers it uses, and those it will
write. -/
structure TensorIssue where
  t    : TaskRef
  h    : THdr
  unit : UnitKind
  uses : List (BitVec 5)
  pend : List Nat
  deriving DecidableEq, Repr

/-- The tensor instructions (R64, R118, R127). -/
def tensorIssue : Instr → Option TensorIssue
  | .mmul t h _ | .mmulLift t h _ => some ⟨t, h, .mould, [], []⟩
  | .vAdd t h o | .vSub t h o | .vMul t h o | .fma t h o | .vMax t h o | .vMin t h o | .abs t h o | .neg t h o | .copysign t h o
  | .scale2 t h o | .recip t h o | .sqrt t h o | .rsqrt t h o | .exp t h o | .exp2 t h o | .log2 t h o | .sigmoid t h o
  | .tanh t h o | .silu t h o | .geluErf t h o | .geluTanh t h o | .cvt t h o | .rope t h o | .div t h o =>
    some ⟨t, h, .vector, (if o.bs then [o.sB] else []) ++ (if o.cs then [o.sC] else []), []⟩
  | .rsum t h _ | .rmax t h _ | .rmin t h _ | .rargmax t h _ | .rargmin t h _ | .rms t h _ | .softmax t h _ | .psum t h _ =>
    some ⟨t, h, .vector, [], []⟩
  | .rmsn t h o => some ⟨t, h, .vector, [o.sE], []⟩
  | .attnRing t h o | .attnPage t h o => some ⟨t, h, .attention, [o.sS], []⟩
  | .kvput t h _ => some ⟨t, h, .attention, [], []⟩
  | .move t h _ | .gather t h _ => some ⟨t, h, .runner, [], []⟩
  | .fill t h o => some ⟨t, h, .runner, [o.sX], []⟩
  | .sent t h o => some ⟨t, h, .vector, [o.sD], if o.sD = 0 then [] else [o.sD.toNat]⟩
  | .rhand t h o => some ⟨t, h, .vector, [o.sV], []⟩
  | _ => none

/-- What an instruction asks of the issue stage: the task that it is of, and its request. -/
def issueRequest : Instr → Option (TaskRef × IssueReq)
  | .add t p rd a b | .sub t p rd a b | .and t p rd a b | .or t p rd a b | .xor t p rd a b | .sll t p rd a b | .srl t p rd a b
  | .sra t p rd a b | .mul t p rd a b | .mulhu t p rd a b | .min t p rd a b | .max t p rd a b | .minu t p rd a b
  | .maxu t p rd a b => some (t, ⟨4, false, p, [rd, a, b]⟩)
  | .ceq t p rd a b | .cne t p rd a b | .clt t p rd a b | .cge t p rd a b | .cltu t p rd a b | .cgeu t p rd a b =>
    some (t, ⟨4, decide (8 ≤ rd.toNat), p, [a, b]⟩)
  | .pand t p rd a b | .por t p rd a b | .pxor t p rd a b | .pandn t p rd a b =>
    some (t, ⟨4, decide (8 ≤ rd.toNat) || decide (8 ≤ a.toNat) || decide (8 ≤ b.toNat), p, []⟩)
  | .clti t p rd a _ => some (t, ⟨4, decide (8 ≤ rd.toNat), p, [a]⟩)
  | .addi t p rd a _ | .andi t p rd a _ | .ori t p rd a _ | .xori t p rd a _ => some (t, ⟨4, false, p, [rd, a]⟩)
  | .slli t p rd a imm | .srli t p rd a imm | .srai t p rd a imm => some (t, ⟨4, decide (32 ≤ imm.toNat), p, [rd, a]⟩)
  | .lui t p rd _ => some (t, ⟨4, false, p, [rd]⟩)
  | .br t p _ => some (t, ⟨4, false, p, []⟩)
  | .jal t p _ _ => some (t, ⟨4, false, p, []⟩)
  | .jr t p _ => some (t, ⟨4, false, p, []⟩)
  | .scalarLoad t p d _ size _ _ => some (t, ⟨4, decide (size = 3), p, [d]⟩)
  | .scalarStore t p d _ size sx _ => some (t, ⟨4, decide (size = 3) || sx, p, [d]⟩)
  | .aadd t p _ _ x => some (t, ⟨4, false, p, [x]⟩)
  | .aaddi t p _ _ _ => some (t, ⟨4, false, p, []⟩)
  | .aset t p _ x y => some (t, ⟨4, false, p, [x, y]⟩)
  | .aget t p _ x _ => some (t, ⟨4, false, p, [x]⟩)
  | .apc t p _ _ => some (t, ⟨4, false, p, []⟩)
  | .daddr t p _ _ _ => some (t, ⟨4, false, p, []⟩)
  | .dfmt t p _ _ _ => some (t, ⟨4, false, p, []⟩)
  | .dshape t p _ x y z | .dstride t p _ x y z => some (t, ⟨4, false, p, [x, y, z]⟩)
  | .daux t p _ _ => some (t, ⟨4, false, p, []⟩)
  | .dcopy t p _ _ => some (t, ⟨4, false, p, []⟩)
  | .dstep t p _ x _ => some (t, ⟨4, false, p, [x]⟩)
  | .gadd t p _ x d | .gswap t p _ x d | .gread t p _ x d | .gradd t p _ x d | .gbadd t p _ x d => some (t, ⟨4, false, p, [x, d]⟩)
  | .gwait t p _ x d _ => some (t, ⟨4, false, p, [x, d]⟩)
  | .nop t p | .endTask t p | .brk t p => some (t, ⟨4, false, p, []⟩)
  | .rdflags t p d | .rdid t p d => some (t, ⟨4, false, p, [d]⟩)
  | .rdtime t p d _ => some (t, ⟨4, false, p, [d]⟩)
  | .clrflags t p _ => some (t, ⟨4, false, p, []⟩)
  | i => (tensorIssue i).map (fun x => (x.t, ⟨16, !i.wf, x.h.pred, x.uses⟩))

/-- The fields of the state that a command may change, for every command of the table. -/
def footprint : Instr → List Field
  | .taskStart .. | .taskStop .. | .taskReset .. =>
    [.regs, .wins, .guards, .shadows, .sealRun, .tasks, .fns, .out]
  | .drainEnd .. =>
    [.regs, .peat, .peatBad, .tasks, .crus]
  | .agePromotion .. =>
    [.tasks]
  | .icacheFill .. | .scalarLoadReturn .. | .add .. | .sub .. | .and .. | .or .. | .xor .. | .sll .. | .srl .. | .sra ..
    | .mul .. | .mulhu .. | .min .. | .max .. | .minu .. | .maxu .. | .ceq .. | .cne .. | .clt .. | .cge .. | .cltu ..
    | .cgeu .. | .pand .. | .por .. | .pxor .. | .pandn .. | .addi .. | .andi .. | .ori .. | .xori .. | .slli .. | .srli ..
    | .srai .. | .clti .. | .lui .. | .br .. | .jal .. | .jr .. | .scalarLoad .. | .aadd .. | .aaddi .. | .aset .. | .aget ..
    | .apc .. | .daddr .. | .dfmt .. | .dshape .. | .dstride .. | .daux .. | .dcopy .. | .dstep .. | .gwait ..
    | .gateTimeout .. | .nop .. | .rdflags .. | .rdtime .. | .rdid .. | .brk .. | .illegal .. | .mmul .. | .mmulLift ..
    | .vAdd .. | .vSub .. | .vMul .. | .fma .. | .vMax .. | .vMin .. | .abs .. | .neg .. | .copysign .. | .scale2 ..
    | .recip .. | .sqrt .. | .rsqrt .. | .exp .. | .exp2 .. | .log2 .. | .sigmoid .. | .tanh .. | .silu .. | .geluErf ..
    | .geluTanh .. | .cvt .. | .rope .. | .div .. | .rsum .. | .rmax .. | .rmin .. | .rargmax .. | .rargmin .. | .rms ..
    | .rmsn .. | .softmax .. | .psum .. | .attnRing .. | .attnPage .. | .kvput .. | .move .. | .fill .. | .gather ..
    | .sent .. | .rhand .. =>
    [.fresh, .regs, .pool, .peat, .tasks, .crus, .slots, .probes, .rx, .fns, .reports, .out]
  | .sbEntryRelease .. =>
    [.fresh, .regs, .pool, .peat, .mire, .poolBad, .peatBad, .tasks, .crus, .gates, .slots, .probes, .rx, .net, .ports,
     .banks, .nextTag, .fns, .reports, .evWay, .out]
  | .unitInstrComplete .. | .unitFault .. | .kvputEntryReread .. | .taggedAccessResume .. =>
    [.fresh, .regs, .pool, .peat, .mire, .poolBad, .peatBad, .mireBad, .tasks, .crus, .gates, .slots, .probes, .rx, .net,
     .ports, .banks, .streams, .nextTag, .fns, .reports, .evWay, .out]
  | .scalarStore .. =>
    [.fresh, .regs, .pool, .peat, .poolBad, .peatBad, .tasks, .crus, .slots, .probes, .rx, .fns, .reports, .out]
  | .gadd .. | .gswap .. | .gread .. =>
    [.fresh, .regs, .pool, .peat, .peatBad, .tasks, .crus, .gates, .slots, .probes, .rx, .fns, .reports, .out]
  | .gwaitSatisfied .. =>
    [.regs, .tasks]
  | .gradd .. | .gbadd .. =>
    [.fresh, .regs, .pool, .peat, .peatBad, .tasks, .crus, .slots, .probes, .rx, .net, .ports, .fns, .reports, .out]
  | .endTask .. =>
    [.fresh, .regs, .pool, .peat, .peatBad, .tasks, .crus, .slots, .probes, .rx, .fns, .reports, .out]
  | .clrflags .. =>
    [.fresh, .regs, .wins, .pool, .peat, .tasks, .crus, .slots, .probes, .rx, .fns, .reports, .out]
  | .gateValWrite .. =>
    [.regs, .wins, .guards, .shadows, .sealRun, .gates, .fns, .out]
  | .poolZeroingDone .. | .peatZeroingDone .. | .rampGrant .. =>
    [.regs, .ramps]
  | .peatLayerWake .. | .quarantineSelfTest .. =>
    [.fresh, .regs, .pool, .peat, .poolBad, .peatBad, .tasks, .crus, .slots, .probes, .rx, .ramps, .khz, .deferred]
  | .gbAgeFlush .. =>
    [.regs, .peat, .peatBad, .crus]
  | .poolScrub .. =>
    [.fresh, .regs, .poolBad, .scrubs, .fns, .reports, .out]
  | .peatScrub .. =>
    [.fresh, .regs, .peatBad, .scrubs, .fns, .reports, .out]
  | .scrubStarve .. | .maintPortStarve .. | .mireScrubStarve .. | .mireReqAge .. =>
    []
  | .cregEnable .. | .cregDisable .. =>
    [.fresh, .regs, .wins, .guards, .shadows, .sealRun, .pool, .peat, .mire, .poolBad, .peatBad, .mireBad, .tasks, .crus,
     .gates, .slots, .probes, .rx, .net, .ports, .banks, .streams, .nextTag, .fns, .reports, .evWay, .out]
  | .cslotStateWrite .. =>
    [.regs, .wins, .guards, .shadows, .sealRun, .slots, .fns, .out]
  | .slotTimeout .. =>
    [.fresh, .regs, .pool, .peat, .mire, .poolBad, .peatBad, .tasks, .crus, .slots, .probes, .rx, .net, .ports, .fns,
     .reports, .out]
  | .probe .. =>
    [.regs, .slots, .probes, .rx, .net, .arrivals, .ports, .fns, .reports, .out]
  | .grant .. =>
    [.fresh, .regs, .pool, .peat, .mire, .poolBad, .peatBad, .tasks, .crus, .gates, .slots, .probes, .rx, .net, .arrivals,
     .ports, .pours, .fns, .reports, .out]
  | .refuse .. =>
    [.fresh, .regs, .pool, .peat, .mire, .poolBad, .peatBad, .tasks, .crus, .slots, .probes, .rx, .arrivals, .pours, .fns,
     .reports, .out]
  | .wr .. =>
    [.regs, .pool, .peat, .poolBad, .peatBad, .gates, .slots, .probes, .rx, .net, .arrivals, .ports, .fns, .reports, .out]
  | .rd .. =>
    [.fresh, .regs, .pool, .peat, .slots, .probes, .rx, .net, .arrivals, .ports, .fns, .reports, .out]
  | .rdData .. =>
    [.regs, .pool, .peat, .poolBad, .peatBad, .tasks, .crus, .gates, .slots, .arrivals, .fns, .reports, .out]
  | .moveDone .. =>
    [.regs, .peat, .peatBad, .tasks, .crus, .gates, .slots, .net, .arrivals, .ports, .beds, .places, .wmoves, .rplaces,
     .pours, .fns, .reports, .out]
  | .remoteGadd .. =>
    [.regs, .gates, .arrivals, .fns, .reports, .out]
  | .placeReq .. =>
    [.regs, .net, .arrivals, .ports, .beds, .places, .fns, .reports, .out]
  | .placeOk .. =>
    [.regs, .net, .arrivals, .ports, .fns, .reports, .out]
  | .wave .. =>
    [.fresh, .regs, .peat, .peatBad, .net, .arrivals, .ports, .streams, .beds, .places, .rplaces, .fns, .reports, .out]
  | .hand .. =>
    [.fresh, .regs, .peat, .net, .arrivals, .ports, .rplaces, .handRx, .fns, .reports, .out]
  | .mireRd .. =>
    [.regs, .mireBad, .net, .arrivals, .ports, .banks, .fns, .reports, .evWay, .out]
  | .mireWr .. =>
    [.regs, .mire, .mireBad, .net, .arrivals, .ports, .banks, .fns, .reports, .out]
  | .draftReq .. =>
    [.regs, .net, .arrivals, .ports, .streams, .beds, .places, .fns, .reports, .out]
  | .draftTree .. =>
    [.regs, .arrivals, .streams, .rplaces, .fns, .reports, .out]
  | .genUpdate .. =>
    [.regs, .genTab, .net, .arrivals, .ports, .streams, .beds, .places, .wmoves, .rplaces, .fns, .reports, .out]
  | .mgmt .. =>
    [.fresh, .regs, .wins, .guards, .shadows, .mbxs, .tapSets, .tap, .sealRun, .timeSet, .pool, .peat, .mire, .poolBad,
     .peatBad, .mireBad, .tasks, .crus, .gates, .slots, .probes, .rx, .slotMap, .routes, .rimEpoch, .net, .arrivals, .ports,
     .pgQueue, .pgPushed, .banks, .streams, .nextTag, .castRun, .pours, .queues, .fns, .reports, .mon, .monTap, .sec,
     .evWay, .ramps, .minvSeen, .tide, .khz, .deferred, .sens, .boot, .planDue, .heats, .out, .lastRead]
  | .packetHop .. =>
    [.regs, .net, .arrivals, .ports, .laneTx, .fns, .reports, .out]
  | .flitCrcFail .. =>
    [.regs, .laneTx]
  | .laneRetire .. =>
    [.regs, .laneTx, .fns, .reports, .out]
  | .pgSpill .. | .pgFetch .. | .pgDrop .. =>
    [.regs, .wins, .guards, .shadows, .sealRun, .pgQueue, .pgPushed, .fns, .out]
  | .pageCommandArrive .. =>
    [.regs, .peat, .mire, .peatBad, .mireBad, .pgQueue, .movers, .banks, .fns, .evWay, .out]
  | .attentionDrainEnd .. | .spillCopyDone .. | .fetchCopyDone .. | .fetchReadRefused .. =>
    [.regs, .peat, .mire, .peatBad, .mireBad, .movers, .banks, .fns, .evWay, .out]
  | .mireRefresh .. | .pcieLinkTrained .. | .ethLinkChange .. | .uvWarn .. | .ocpLimit .. | .tideLeaseLapse ..
    | .tideCompliance .. =>
    [.regs, .fns, .out]
  | .refreshManagement .. =>
    [.regs, .banks]
  | .odeccPoll .. | .parentChange .. | .droopStretchStart .. =>
    [.regs]
  | .mireScrub .. =>
    [.regs, .mireBad, .scrubs, .fns, .evWay, .out]
  | .stackSupplyFault .. | .faultReport .. =>
    [.regs, .fns, .reports, .out]
  | .stackTempRead .. | .sensorSample .. =>
    [.regs, .fns, .reports, .mon, .evWay, .sens, .out]
  | .admission .. =>
    [.regs, .net, .ports, .banks, .streams, .beds, .places, .fns, .reports, .evWay, .out]
  | .passOpen .. =>
    [.regs, .net, .ports, .streams, .beds, .places, .rplaces, .fns, .reports, .out]
  | .passStart .. =>
    [.regs, .gates, .beds]
  | .passForward .. =>
    [.regs, .mire, .mireBad, .net, .ports, .banks, .streams, .beds, .places, .wmoves, .rplaces, .nextTag, .fns, .reports,
     .out]
  | .tokenWavefrontMove .. =>
    [.regs, .net, .ports, .places, .wmoves, .nextTag, .fns, .reports, .out]
  | .bedWatchdog .. =>
    [.regs, .wins, .beds, .fns, .reports, .out]
  | .poldLoopWrite .. | .semTake .. | .semRelease .. | .semForce .. | .cntClr .. =>
    [.regs, .wins, .guards, .shadows, .sealRun, .fns, .out]
  | .strmCancel .. =>
    [.regs, .wins, .guards, .shadows, .sealRun, .net, .ports, .streams, .fns, .reports, .out]
  | .streamFree .. =>
    [.regs, .wins, .peat, .mire, .host, .peatBad, .mireBad, .banks, .streams, .kvAreas, .cmds, .queues, .fns, .evWay, .out]
  | .draftWaitTimeout .. =>
    [.regs, .rplaces, .fns, .out]
  | .riddleSelect .. =>
    [.fresh, .regs, .wins, .peat, .mire, .peatBad, .mireBad, .net, .ports, .banks, .streams, .rplaces, .queues, .egress,
     .fns, .reports, .out]
  | .partTimeout .. =>
    [.regs, .rplaces, .fns, .reports, .out]
  | .castingLoad .. =>
    [.regs, .wins, .guards, .shadows, .sealRun, .castRun, .fns, .out]
  | .loadChecked .. =>
    [.fresh, .regs, .wins, .sealRun, .pool, .peat, .host, .poolBad, .peatBad, .tasks, .crus, .gates, .slots, .probes, .rx,
     .rimEpoch, .dieFence, .banks, .beds, .places, .wmoves, .rplaces, .handRx, .castRun, .casting, .pours, .cmds, .queues,
     .fns, .reports, .evWay, .ramps, .khz, .deferred, .heats, .out]
  | .loadPlaced .. =>
    [.fresh, .regs, .wins, .guards, .mbxs, .tap, .sealRun, .timeSet, .pool, .peat, .mire, .host, .poolBad, .peatBad,
     .mireBad, .tasks, .crus, .gates, .slots, .probes, .rx, .slotMap, .routes, .net, .ports, .pgQueue, .pgPushed, .banks,
     .streams, .beds, .places, .nextTag, .castRun, .casting, .pours, .cmds, .queues, .fns, .reports, .mon, .sec, .evWay,
     .ramps, .minvSeen, .tide, .khz, .deferred, .sens, .boot, .planDue, .heats, .beats, .out]
  | .loadPourComplete .. =>
    [.regs, .wins, .host, .tasks, .ports, .beds, .places, .castRun, .casting, .pours, .cmds, .queues, .fns, .evWay, .out]
  | .extentReq .. | .extentData .. | .stopResend .. | .pourEnd .. | .reqSilenceTimeout .. | .helloRetry .. =>
    [.regs, .wins, .host, .castRun, .casting, .pours, .cmds, .queues, .fns, .reports, .evWay, .out]
  | .extentDrain .. =>
    [.regs, .wins, .mire, .host, .mireBad, .net, .ports, .banks, .nextTag, .castRun, .casting, .pours, .cmds, .queues, .fns,
     .reports, .evWay, .out]
  | .stagingProbe .. =>
    [.regs, .net, .ports, .nextTag, .pours, .fns, .reports, .out]
  | .credit .. =>
    [.regs, .pours, .out]
  | .pourStop .. =>
    [.regs, .wins, .guards, .shadows, .sealRun, .pours, .fns, .out]
  | .sessionReopen .. | .hello .. =>
    [.fresh, .regs, .pours, .out]
  | .helloAck .. =>
    [.regs, .pours, .fns, .out]
  | .sessionRollover .. =>
    [.fresh, .regs, .pours, .fns, .out]
  | .sqDoorbell .. | .cqDoorbell .. | .trDoorbell .. =>
    [.regs, .wins, .fns, .out]
  | .sqFetch .. | .cmdNop .. | .bind .. =>
    [.regs, .wins, .host, .cmds, .queues]
  | .bindingDone .. =>
    [.fresh, .regs, .wins, .peat, .mire, .host, .peatBad, .mireBad, .genTab, .banks, .streams, .kvAreas, .cmds, .queues,
     .fns, .evWay, .out]
  | .cancel .. =>
    [.regs, .wins, .host, .net, .ports, .streams, .cmds, .queues, .fns, .reports, .out]
  | .load .. =>
    [.regs, .wins, .host, .castRun, .cmds, .queues, .fns, .out]
  | .tokenRecordWrite .. =>
    [.regs, .wins, .host, .queues]
  | .indexBlockWrite .. =>
    [.host, .queues]
  | .queueInterrupt .. =>
    [.regs, .queues, .fns, .out]
  | .queueEnable .. | .queueDisable .. =>
    [.regs, .wins, .guards, .shadows, .sealRun, .queues, .fns, .out]
  | .portReset .. =>
    [.regs, .wins, .guards, .host, .net, .ports, .streams, .castRun, .casting, .pours, .cmds, .queues, .fns, .reports,
     .spdm, .evWay, .boot, .out]
  | .perstDeassert .. | .mainInhDeassert .. =>
    [.boot]
  | .dmaFailure .. =>
    [.regs, .wins, .queues, .fns, .out]
  | .apertureRead .. =>
    [.fresh, .regs, .pool, .peat, .poolBad, .peatBad, .tasks, .crus, .slots, .probes, .rx, .banks, .fns, .evWay, .ramps,
     .khz, .deferred, .out]
  | .apertureWrite .. =>
    [.fresh, .regs, .pool, .peat, .mire, .poolBad, .peatBad, .mireBad, .tasks, .crus, .slots, .probes, .rx, .banks, .fns,
     .ramps, .khz, .deferred, .out]
  | .egressDatagram .. | .egressFlushTimeout .. =>
    [.regs, .egress, .fns, .out]
  | .regWrite .. | .write64 .. | .write32 .. =>
    [.fresh, .regs, .wins, .guards, .shadows, .mbxs, .tap, .sealRun, .timeSet, .pool, .peat, .mire, .poolBad, .peatBad,
     .mireBad, .tasks, .crus, .gates, .slots, .probes, .rx, .slotMap, .routes, .net, .ports, .pgQueue, .pgPushed, .banks,
     .streams, .nextTag, .castRun, .pours, .queues, .fns, .reports, .mon, .sec, .evWay, .ramps, .minvSeen, .tide, .khz,
     .deferred, .sens, .boot, .planDue, .heats, .out]
  | .regReadRc .. | .regReadLowHalf .. | .read64 .. | .read32 .. =>
    [.regs, .wins, .shadows, .fns, .out, .lastRead]
  | .guardKey .. =>
    [.regs, .guards, .shadows, .fns, .out]
  | .guardLapse .. | .mgmtBusReset .. =>
    [.guards]
  | .mbxSel .. =>
    [.regs, .shadows, .mbxs, .fns, .out]
  | .regAccessTimeout .. =>
    [.regs, .shadows, .fns, .out, .lastRead]
  | .sealWalk .. =>
    [.regs, .sealRun, .fns, .reports, .evWay, .out]
  | .sealCommit .. | .sealResume .. | .rcResume .. =>
    [.regs, .wins, .guards, .shadows, .sealRun, .fns, .heats, .out]
  | .tapGo .. | .tapCancel .. =>
    [.regs, .wins, .guards, .shadows, .tap, .sealRun, .fns, .out]
  | .tapLatch .. =>
    [.regs, .tapSets, .tap, .mon, .monTap]
  | .tapAck .. =>
    [.regs, .tap, .fns, .out]
  | .timeSet .. =>
    [.regs, .wins, .guards, .shadows, .sealRun, .timeSet, .fns, .out]
  | .epochBoundary .. =>
    [.now, .regs, .timeSet, .fns, .ptp, .out]
  | .epochWord .. =>
    [.ptp]
  | .undervoltShutdown .. =>
    [.regs, .wins, .guards, .shadows, .mbxs, .tapSets, .pool, .peat, .mire, .poolBad, .peatBad, .mireBad, .tasks, .crus,
     .gates, .slots, .probes, .rx, .slotMap, .routes, .rimEpoch, .genTab, .net, .arrivals, .ports, .laneTx, .dieFence,
     .pgQueue, .movers, .pgPushed, .banks, .scrubs, .streams, .beds, .places, .wmoves, .rplaces, .handRx, .nextTag,
     .kvAreas, .castRun, .casting, .pours, .cmds, .queues, .egress, .fns, .reports, .mon, .monTap, .spdm, .evWay, .ramps,
     .minvSeen, .tide, .khz, .deferred, .stepAt, .lostPort, .vlog, .sens, .quench, .boot, .sites, .planDue, .planAt, .aging,
     .heats, .retires, .charges, .fixes, .beats]
  | .pwrDomReq .. | .sluiceDomReq .. =>
    [.fresh, .regs, .wins, .guards, .shadows, .sealRun, .pool, .peat, .poolBad, .peatBad, .tasks, .crus, .slots, .probes,
     .rx, .fns, .ramps, .khz, .deferred, .out]
  | .rampStage .. =>
    [.ramps]
  | .domRampSample .. =>
    [.fresh, .regs, .pool, .peat, .poolBad, .peatBad, .tasks, .crus, .slots, .probes, .rx, .fns, .ramps, .khz, .deferred,
     .out]
  | .domFail .. =>
    [.fresh, .regs, .pool, .peat, .poolBad, .peatBad, .tasks, .crus, .slots, .probes, .rx, .fns, .reports, .ramps, .khz,
     .deferred, .out]
  | .minvRearm .. | .vmifRearm .. =>
    [.regs, .wins, .guards, .shadows, .sealRun, .fns, .minvSeen, .out]
  | .minvSample .. =>
    [.regs, .fns, .minvSeen, .out]
  | .governorStep .. =>
    [.regs, .vlog]
  | .tideSrcWrite .. =>
    [.regs, .wins, .guards, .shadows, .sealRun, .fns, .tide, .out]
  | .tideRampTick .. =>
    [.tide]
  | .tideLoopStep .. =>
    [.regs, .fns, .tide, .out]
  | .tideLimUpdate .. =>
    [.regs, .tide]
  | .refLost .. | .referenceUsable .. =>
    [.regs, .fns, .refs, .out]
  | .parentLost .. =>
    [.regs, .fns, .reports, .lostPort, .out]
  | .droopStretchEnd .. | .freqStep .. =>
    [.regs, .khz, .deferred, .stepAt]
  | .generatorSwitch .. =>
    [.regs, .khz]
  | .marginLow .. =>
    [.regs, .fns, .aging, .out]
  | .ptpEventMessage .. | .ptpAnnounceTimeout .. =>
    [.regs, .ptp]
  | .trustEval .. =>
    [.regs, .fns, .reports, .sens, .out]
  | .sensorRetrust .. =>
    [.regs, .wins, .guards, .shadows, .sealRun, .fns, .reports, .sens, .out]
  | .thermalShutdown .. =>
    [.regs, .wins, .guards, .shadows, .mbxs, .tapSets, .pool, .peat, .mire, .poolBad, .peatBad, .mireBad, .tasks, .crus,
     .gates, .slots, .probes, .rx, .slotMap, .routes, .rimEpoch, .genTab, .net, .arrivals, .ports, .laneTx, .dieFence,
     .pgQueue, .movers, .pgPushed, .banks, .scrubs, .streams, .beds, .places, .wmoves, .rplaces, .handRx, .nextTag,
     .kvAreas, .castRun, .casting, .pours, .cmds, .queues, .egress, .fns, .reports, .mon, .monTap, .spdm, .ramps, .minvSeen,
     .tide, .khz, .deferred, .stepAt, .lostPort, .vlog, .sens, .quench, .boot, .sites, .planDue, .planAt, .aging, .heats,
     .retires, .charges, .fixes, .beats, .out]
  | .quenchStep .. | .quenchLimUpdate .. =>
    [.regs, .quench]
  | .autoRestart .. | .mainPowerEnable .. =>
    [.fresh, .regs, .pool, .peat, .poolBad, .peatBad, .tasks, .crus, .slots, .probes, .rx, .fns, .evWay, .ramps, .khz,
     .deferred, .sens, .boot, .out]
  | .shutRestart .. =>
    [.fresh, .regs, .wins, .guards, .shadows, .sealRun, .pool, .peat, .poolBad, .peatBad, .tasks, .crus, .slots, .probes,
     .rx, .fns, .evWay, .ramps, .khz, .deferred, .sens, .boot, .out]
  | .trayRead .. | .flowWindow .. =>
    [.regs, .fns, .tray, .out]
  | .coolingJudge .. =>
    [.regs, .fns, .evWay, .tray, .out]
  | .recastStart .. =>
    [.fresh, .regs, .wins, .pool, .peat, .mire, .host, .poolBad, .peatBad, .mireBad, .tasks, .crus, .gates, .slots, .probes,
     .rx, .slotMap, .rimEpoch, .net, .ports, .dieFence, .movers, .banks, .streams, .beds, .places, .wmoves, .rplaces,
     .handRx, .castRun, .casting, .pours, .cmds, .queues, .fns, .reports, .evWay, .ramps, .khz, .deferred, .heats, .retires,
     .charges, .out]
  | .heartbeat .. =>
    [.regs, .beats]
  | .heartbeatMiss .. =>
    [.regs, .fns, .reports, .beats, .out]
  | .settleEnd .. =>
    [.fresh, .regs, .pool, .peat, .poolBad, .peatBad, .tasks, .crus, .gates, .slots, .probes, .rx, .banks, .streams, .beds,
     .places, .wmoves, .rplaces, .handRx, .fns, .reports, .evWay, .heats, .fixes, .out]
  | .refillStart .. =>
    [.heats]
  | .refillDone .. =>
    [.regs, .peat, .peatBad, .banks, .fns, .evWay, .heats, .out]
  | .readmission .. =>
    [.fresh, .regs, .pool, .peat, .peatBad, .tasks, .crus, .gates, .slots, .probes, .rx, .slotMap, .routes, .genTab, .net,
     .ports, .dieFence, .banks, .streams, .beds, .wmoves, .rplaces, .handRx, .pours, .fns, .reports, .evWay, .heats, .beats,
     .out]
  | .rcRetire .. | .rcReadmit .. =>
    [.fresh, .regs, .wins, .guards, .shadows, .sealRun, .pool, .peat, .poolBad, .peatBad, .tasks, .crus, .slots, .probes,
     .rx, .fns, .reports, .ramps, .khz, .deferred, .out]
  | .selfTestDone .. =>
    [.fresh, .regs, .pool, .peat, .poolBad, .peatBad, .tasks, .crus, .gates, .slots, .probes, .rx, .dieFence, .ramps, .khz,
     .deferred, .planDue, .aging, .beats]
  | .vauxOn .. =>
    [.now, .up, .sub, .fresh, .regs, .wins, .guards, .shadows, .mbxs, .tapSets, .tap, .sealRun, .timeSet, .pool, .peat,
     .mire, .poolBad, .peatBad, .mireBad, .tasks, .crus, .gates, .slots, .probes, .rx, .slotMap, .routes, .rimEpoch,
     .genTab, .net, .arrivals, .ports, .laneTx, .dieFence, .pgQueue, .movers, .pgPushed, .banks, .scrubs, .streams, .beds,
     .places, .wmoves, .rplaces, .handRx, .nextTag, .kvAreas, .castRun, .casting, .pours, .cmds, .queues, .egress, .fns,
     .reports, .mon, .monTap, .evRing, .spdm, .eid, .evWay, .evRate, .ramps, .minvSeen, .tide, .khz, .deferred, .stepAt,
     .lostPort, .vlog, .ptp, .sens, .quench, .tray, .boot, .sites, .planDue, .planAt, .aging, .heats, .retires, .charges,
     .fixes, .beats, .lastRead]
  | .fwVerify .. =>
    [.regs, .fns, .evWay, .boot, .out]
  | .mireBringup .. =>
    [.regs, .mire, .mireBad, .fns, .out]
  | .tileTest .. =>
    [.fresh, .regs, .wins, .guards, .shadows, .mbxs, .tapSets, .pool, .peat, .mire, .poolBad, .peatBad, .mireBad, .tasks,
     .crus, .gates, .slots, .probes, .rx, .slotMap, .routes, .rimEpoch, .genTab, .net, .arrivals, .ports, .laneTx,
     .dieFence, .pgQueue, .movers, .pgPushed, .banks, .scrubs, .streams, .beds, .places, .wmoves, .rplaces, .handRx,
     .nextTag, .kvAreas, .castRun, .casting, .pours, .cmds, .queues, .egress, .fns, .reports, .mon, .monTap, .spdm, .ramps,
     .minvSeen, .tide, .khz, .deferred, .stepAt, .lostPort, .vlog, .sens, .quench, .boot, .sites, .planDue, .planAt, .aging,
     .heats, .retires, .charges, .fixes, .beats]
  | .tileTestDone .. =>
    [.fresh, .regs, .pool, .peat, .poolBad, .peatBad, .tasks, .crus, .gates, .slots, .probes, .rx, .laneTx, .ramps, .khz,
     .deferred, .sites, .aging]
  | .siteMapRecord .. =>
    [.regs, .fns, .flash, .sites, .planDue, .planAt, .out]
  | .bootReady .. =>
    [.regs, .fns, .evWay, .boot, .flash, .out]
  | .vauxLost .. =>
    [.now, .up, .sub, .regs, .wins, .guards, .shadows, .mbxs, .tapSets, .tap, .sealRun, .timeSet, .pool, .peat, .mire,
     .poolBad, .peatBad, .mireBad, .tasks, .crus, .gates, .slots, .probes, .rx, .slotMap, .routes, .rimEpoch, .genTab, .net,
     .arrivals, .ports, .laneTx, .dieFence, .pgQueue, .movers, .pgPushed, .banks, .scrubs, .streams, .beds, .places,
     .wmoves, .rplaces, .handRx, .nextTag, .kvAreas, .castRun, .casting, .pours, .cmds, .queues, .egress, .fns, .reports,
     .mon, .monTap, .evRing, .spdm, .eid, .evWay, .evRate, .ramps, .minvSeen, .tide, .khz, .deferred, .stepAt, .lostPort,
     .vlog, .ptp, .sens, .quench, .tray, .boot, .flash, .sites, .planDue, .planAt, .aging, .heats, .retires, .charges,
     .fixes, .beats, .lastRead]
  | .mainInhAssert .. =>
    [.regs, .wins, .guards, .shadows, .mbxs, .tapSets, .pool, .peat, .mire, .poolBad, .peatBad, .mireBad, .tasks, .crus,
     .gates, .slots, .probes, .rx, .slotMap, .routes, .rimEpoch, .genTab, .net, .arrivals, .ports, .laneTx, .dieFence,
     .pgQueue, .movers, .pgPushed, .banks, .scrubs, .streams, .beds, .places, .wmoves, .rplaces, .handRx, .nextTag,
     .kvAreas, .castRun, .casting, .pours, .cmds, .queues, .egress, .fns, .reports, .mon, .monTap, .spdm, .ramps, .minvSeen,
     .tide, .khz, .deferred, .stepAt, .lostPort, .vlog, .sens, .quench, .boot, .sites, .planDue, .planAt, .aging, .heats,
     .retires, .charges, .fixes, .beats]
  | .ageSample .. =>
    [.regs, .fns, .flash, .planDue, .aging, .out]
  | .replan .. =>
    [.regs, .fns, .flash, .planDue, .planAt, .out]
  | .ageReplanWrite .. =>
    [.regs, .wins, .guards, .shadows, .sealRun, .fns, .planDue, .out]
  | .monClr .. | .monConfigWrite .. =>
    [.regs, .wins, .guards, .shadows, .sealRun, .fns, .mon, .out]
  | .monTickSample .. =>
    [.regs, .fns, .mon, .evWay, .out]
  | .evlogAppend .. =>
    [.regs, .fns, .evRing, .evWay, .evRate, .out]
  | .evlogLost .. =>
    [.regs, .fns, .evRing, .evRate, .out]
  | .getVersion .. | .getCapabilities .. | .negotiateAlgorithms .. =>
    [.regs, .spdm, .out]
  | .getDigests .. | .getCertificate .. | .spdmUnsupported .. =>
    [.regs, .out]
  | .challenge .. | .getMeasurements .. =>
    [.fresh, .regs, .out]
  | .enroll .. | .revoke .. =>
    [.fresh, .regs, .wins, .guards, .shadows, .sealRun, .banks, .fns, .sec, .evWay, .out]
  | .rollAdv .. =>
    [.regs, .wins, .guards, .shadows, .sealRun, .fns, .sec, .out]
  | .setEndpointId .. =>
    [.eid, .out]
  | .alertResponse .. =>
    [.out]

end Sys2Proof.Machine
end

