-- ==== Sys2Proof/Certificates/Slice0/Obligations.lean ====
section
/-! DEFINITION. The statements about the engine, one for each group of commands and each kind of state, and those about the whole
machine: its steps, its frames, its canonical form and its encodings. -/
open Sys2Proof Sys2Proof.Machine

/-- A step with a command waiting runs the command at the front of the queue, on the state with the queue's rest. -/
def Obligations.StepRunsCommand : Prop :=
  ∀ (c : Instr) (rest : List Instr) (s : State), s.pending = c :: rest → step s = exec c { s with pending := rest }

/-- R450, R452, R491. A step without a command is one fabric cycle, which is the model's choice (log entry 1). With VAUX, device time rises by
the whole nanoseconds that the steered cycle completes, the time since power-on with it, and the remainder stays below one nanosecond; no
register, memory or queue changes. Without VAUX nothing changes. -/
def Obligations.EmptyQueueTick : Prop :=
  ∀ (s : State), s.pending = [] →
    let rate := (BitVec.ofNat 32 (s.rf (stewPage 0) Reg.TIME_RATE 31 0)).toInt
    (s.boot.vaux = false → step s = .next s) ∧
    (s.boot.vaux = true → ∃ u, step s = .next u ∧ Frame [.now, .up, .sub] s u ∧ u.sub < 1000000000 ∧
      ∃ d : Int, u.now = s.now + BitVec.ofInt 64 d ∧ u.up = s.up + d.toNat ∧ d * 1000000000 + u.sub = 1000000000 + s.sub + rate)

/-- R101, R109, R140, R203, R205, R310, R335, R359, R381, R383, R476, R478, R547, R584. What reset leaves: no command waits, memories and
registers are in canonical form, every task is IDLE, every gate 0, every slot EMPTY, every stream FREE, nothing is on the mesh, and the registers hold
the values that the register tables give for reset, of which those that are not zero are listed here by page. -/
def Obligations.ResetState : Prop :=
  let z := State.reset
  z.pending = [] ∧ z.canonical = true ∧ z.net = [] ∧ z.now = 0 ∧
  (∀ t : TaskRef, (z.taskAt t).st = .idle) ∧ (∀ (i : TileIx) (g : BitVec 10), z.gate i g.toNat = 0) ∧
  (∀ (i : TileIx) (p : Bool) (r : Fin 32) (k : Fin 16384), z.slot i p r k = .empty) ∧ (∀ n : StreamIx, (z.stream n.toNat).st = .free) ∧
  (∀ (i : TileIx) (k : CruIx), z.rf (cruPage i k) Reg.CRU_CTL 15 0 = 4096 ∧ z.rb (cruPage i k) Reg.CRU_CTL 16 = false ∧
    ∀ b : Fin 64, z.rf (cruPage i k) (Reg.SENT_BAND b) 63 32 = 0x7F800000) ∧
  (∀ i : TileIx, z.rf (gatePage i) Reg.GATE_TMO0 31 0 = 100000 ∧ z.rf (gatePage i) Reg.GATE_TMO1 31 0 = 1000000 ∧
    z.rf (gatePage i) Reg.GATE_TMO2 31 0 = 10000000 ∧ z.rf (gatePage i) Reg.GATE_TMO3 31 0 = 0 ∧
    z.rf (poolPage i) Reg.POOL_STAT 3 0 = 15 ∧ z.rf (poolPage i) Reg.POOL_CTL 31 16 = 600 ∧ z.rb (poolPage i) Reg.POOL_CTL 0 = true ∧
    z.rf (peatPage i) Reg.PEAT_CTL 31 16 = 3600 ∧ z.rf (peatPage i) Reg.PEAT_CTL 39 32 = 64 ∧
    z.rf (riddlePage i) Reg.RID_PART_TMO 31 0 = 100000 ∧ z.rf (cetisPage i) Reg.CETIS_CTL 15 8 = 4 ∧
    z.rf (cetisPage i) Reg.CETIS_CTL 55 48 = 4 ∧ z.rf (pwrPage i) Reg.PWR_ILIM 25 16 = 1000 ∧
    ∀ r : Fin 3, z.rf (pwrPage i) (Reg.MINV r) 11 0 = 4095) ∧
  (∀ j : StackIx, z.rf (mirePage j) Reg.MIRE_CTL 31 16 = 1440 ∧ z.rf (mirePage j) Reg.MIRE_CTL 39 32 = 32) ∧
  (∀ d : DieIx, z.rf (pourPage d) Reg.POUR_CTL 31 16 = 50200 ∧ z.rf (pourPage d) Reg.POUR_CTL 51 48 = 8 ∧
    z.rf (ladlePage d) Reg.LADLE_CTL 11 0 = 2048 ∧ z.rf (ladlePage d) Reg.LADLE_CTL 39 32 = 100) ∧
  (∀ k : Fin 3, z.rf tidePage (Reg.SRC k) 9 0 = 1000) ∧ z.rf tidePage Reg.TIDE_SAFE 9 0 = 500 ∧
  (∀ p : PolderIx, z.rf polderPage (Reg.RC_CTL p) 15 8 = 20 ∧ z.rf polderPage (Reg.RC_CTL p) 23 16 = 8 ∧
    z.rb polderPage (Reg.RC_CTL p) 24 = true) ∧
  z.rb evlogPage Reg.EVL_CTL 0 = true ∧ z.rf evlogPage Reg.EVL_CTL 15 8 = 16

/-- R9, R10. Tile indices number the populated sites in row-major order, from (3,0) to (6,9). Ring 0 is the set of the sites with fewer than four
populated neighbours, and every other site's ring is its least mesh distance to ring 0. -/
def Obligations.SiteMap : Prop :=
  siteOf 0 = (3, 0) ∧ siteOf 79 = (6, 9) ∧
  (∀ i j, i < j → j < 80 → (siteOf i).2 < (siteOf j).2 ∨ ((siteOf i).2 = (siteOf j).2 ∧ (siteOf i).1 < (siteOf j).1)) ∧
  (∀ i x y, i < 80 → (siteOf i = (x, y) ↔ tileAt x y = some i)) ∧
  (∀ i, i < 80 → (ringOf i = 0 ↔ ((List.range 4).filterMap (neighbour i)).length < 4)) ∧
  (∀ i, i < 80 → (∃ j, j < 80 ∧ ringOf j = 0 ∧ meshDist j i = ringOf i) ∧ ∀ j, j < 80 → ringOf j = 0 → ringOf i ≤ meshDist j i)

/-- R421 to R424. The mapped pages are ten device-global ones, blocks 0x00 to 0x0F of the 80 tiles and blocks 0x00 to 0x0B of the eight dies. Every
other page reads as zero at every offset, and a write of it changes nothing but that it ends a half-read. The half that a 32-bit read keeps of such a
page is zero too, which the reads themselves keep so. -/
def Obligations.UnmappedPages : Prop :=
  ∀ (who : Requester) (page : BitVec 16) (off : BitVec 12) (size : AccSize) (v : W64) (s : State),
    let pg := page.toNat
    let mapped : Prop := pg < 10 ∨ (0x1000 ≤ pg ∧ pg < 0x1000 + 0x40 * 80 ∧ pg % 0x40 < 0x10) ∨
      (0x3000 ≤ pg ∧ pg < 0x3000 + 0x100 * 8 ∧ pg % 0x100 < 0x0C)
    ((pageInfo pg).isSome = true ↔ mapped) ∧
    (¬mapped →
      Does (.regWrite who page off size v) s (fun u => Frame [.shadows] s u ∧ ∀ q, q ≠ shadowKey who pg →
        Store.get none u.shadows q = Store.get none s.shadows q) ∧
      ((∀ sh, Store.get none s.shadows (shadowKey who pg) = some sh → sh.hi = 0) →
        Does (.regReadRc who page off size) s (fun u => Frame [.shadows, .lastRead] s u ∧
          Store.get 0 u.lastRead (whoCode who) = 0 ∧
          (∀ sh, Store.get none u.shadows (shadowKey who pg) = some sh → sh.hi = 0))))

/-- The memories, the register stores and the gates stay in canonical form, keys strictly rising and no entry at its default, in every step from any
state in which they are: a command of any row, and a cycle without one. So equal contents are equal data. -/
def Obligations.CanonicalFormIsKept : Prop :=
  ∀ (s u : State), s.canonical = true → step s = .next u → u.canonical = true

/-- For every command of the table: when it answers a next state, every field of the state outside the command's own list is as it was. A command
that only touches its task leaves memory, mesh, streams, clocks, security block and every other part alone. -/
def Obligations.EveryCommandKeepsItsFrame : Prop :=
  ∀ (c : Instr) (s u : State), exec c s = .next u → Frame (footprint c) s u

/-- Every command of the table completes from every state, with a next state. The only exception is a packet whose payload is longer than the 4,096
bytes of R316, which is no packet and faults. No command is refused. -/
def Obligations.EveryCommandCompletes : Prop :=
  ∀ (c : Instr) (s : State), (∃ u, exec c s = .next u) ∨ (c.wf = false ∧ exec c s = .fault .illFormed)

/-- R115 to R121. Parcels and instructions agree in both directions. What a task's parcels decode to is a well-formed instruction of that task whose
own encoding is exactly those parcels; and every well-formed instruction that has an encoding is what its encoding decodes to. So no bit of an encoding
is dropped, and no two instructions share one. -/
def Obligations.ParcelsRoundTrip : Prop :=
  (∀ (t : TaskRef) (ps : List W32) (i : Instr), decodeParcels t ps = some i →
    i.wf = true ∧ encode i = some ps ∧ ∃ q, issueRequest i = some (t, q) ∧ q.illegal = false ∧ q.len = 4 * ps.length) ∧
  (∀ (i : Instr) (t : TaskRef) (q : IssueReq) (ps : List W32), i.wf = true → issueRequest i = some (t, q) → encode i = some ps →
    decodeParcels t ps = some i)

/-- R128. A register instruction that reaches its own checks retires with its result in rd (none for s0), computed modulo 2^32: sums,
logic, shifts by rs2[4:0], products, and signed and unsigned extremes. Nothing else of the task or of the engine changes but the
counters of an issue.

R129. The immediate instructions: ADDI sign-extends IMM12, ANDI, ORI and XORI zero-extend it, the shifts take IMM12[4:0] and are
defined where IMM12[11:5] is zero, and LUI places IMM20 above twelve zeros.

R128, R129. A comparison or predicate operation whose predicate fields name predicates writes one predicate (p0 none) and
retires. -/
def Obligations.ScalarResults : Prop :=
  (∀ (t : TaskRef) (pred : BitVec 3) (rd rs1 rs2 : BitVec 5) (s : State), s.reaches t 4 pred [rd, rs1, rs2] = true →
    let a := (s.taskAt t).rs rs1
    let b := (s.taskAt t).rs rs2
    DoesS (.add t pred rd rs1 rs2) s t rd (BitVec.ofNat 32 (a.toNat + b.toNat)) ∧
    DoesS (.sub t pred rd rs1 rs2) s t rd (BitVec.ofInt 32 (a.toNat - b.toNat)) ∧
    DoesS (.and t pred rd rs1 rs2) s t rd (a &&& b) ∧
    DoesS (.or t pred rd rs1 rs2) s t rd (a ||| b) ∧
    DoesS (.xor t pred rd rs1 rs2) s t rd (a ^^^ b) ∧
    DoesS (.sll t pred rd rs1 rs2) s t rd (BitVec.ofNat 32 (a.toNat * 2 ^ (b.toNat % 32))) ∧
    DoesS (.srl t pred rd rs1 rs2) s t rd (BitVec.ofNat 32 (a.toNat / 2 ^ (b.toNat % 32))) ∧
    DoesS (.sra t pred rd rs1 rs2) s t rd (BitVec.ofInt 32 (a.toInt / 2 ^ (b.toNat % 32))) ∧
    DoesS (.mul t pred rd rs1 rs2) s t rd (BitVec.ofNat 32 (a.toNat * b.toNat)) ∧
    DoesS (.mulhu t pred rd rs1 rs2) s t rd (BitVec.ofNat 32 (a.toNat * b.toNat / 2 ^ 32)) ∧
    DoesS (.min t pred rd rs1 rs2) s t rd (BitVec.ofInt 32 (Min.min a.toInt b.toInt)) ∧
    DoesS (.max t pred rd rs1 rs2) s t rd (BitVec.ofInt 32 (Max.max a.toInt b.toInt)) ∧
    DoesS (.minu t pred rd rs1 rs2) s t rd (BitVec.ofNat 32 (Min.min a.toNat b.toNat)) ∧
    DoesS (.maxu t pred rd rs1 rs2) s t rd (BitVec.ofNat 32 (Max.max a.toNat b.toNat))) ∧
  (∀ (t : TaskRef) (pred : BitVec 3) (rd rs1 : BitVec 5) (imm : BitVec 12) (imm20 : BitVec 20) (s : State),
    let a := (s.taskAt t).rs rs1
    (s.reaches t 4 pred [rd] = true → DoesS (.lui t pred rd imm20) s t rd (BitVec.ofNat 32 (imm20.toNat * 2 ^ 12))) ∧
    (s.reaches t 4 pred [rd, rs1] = true →
    DoesS (.addi t pred rd rs1 imm) s t rd (BitVec.ofInt 32 (a.toNat + imm.toInt)) ∧
    DoesS (.andi t pred rd rs1 imm) s t rd (a &&& BitVec.ofNat 32 imm.toNat) ∧
    DoesS (.ori t pred rd rs1 imm) s t rd (a ||| BitVec.ofNat 32 imm.toNat) ∧
    DoesS (.xori t pred rd rs1 imm) s t rd (a ^^^ BitVec.ofNat 32 imm.toNat) ∧
    (imm.toNat < 32 →
      DoesS (.slli t pred rd rs1 imm) s t rd (BitVec.ofNat 32 (a.toNat * 2 ^ imm.toNat)) ∧
      DoesS (.srli t pred rd rs1 imm) s t rd (BitVec.ofNat 32 (a.toNat / 2 ^ imm.toNat)) ∧
      DoesS (.srai t pred rd rs1 imm) s t rd (BitVec.ofInt 32 (a.toInt / 2 ^ imm.toNat))))) ∧
  (∀ (t : TaskRef) (pred : BitVec 3) (rd rs1 rs2 : BitVec 5) (imm : BitVec 12) (s : State),
    rd.toNat < 8 →
    let a := (s.taskAt t).rs rs1
    let b := (s.taskAt t).rs rs2
    let d := BitVec.ofNat 3 rd.toNat
    (s.reaches t 4 pred [rs1, rs2] = true →
    DoesP (.ceq t pred rd rs1 rs2) s t d (decide (a = b)) ∧
    DoesP (.cne t pred rd rs1 rs2) s t d (decide (a ≠ b)) ∧
    DoesP (.clt t pred rd rs1 rs2) s t d (decide (a.toInt < b.toInt)) ∧
    DoesP (.cge t pred rd rs1 rs2) s t d (decide (b.toInt ≤ a.toInt)) ∧
    DoesP (.cltu t pred rd rs1 rs2) s t d (decide (a.toNat < b.toNat)) ∧
    DoesP (.cgeu t pred rd rs1 rs2) s t d (decide (b.toNat ≤ a.toNat))) ∧
    (s.reaches t 4 pred [rs1] = true → DoesP (.clti t pred rd rs1 imm) s t d (decide (a.toInt < imm.toInt))) ∧
    (s.reaches t 4 pred [] = true → rs1.toNat < 8 → rs2.toNat < 8 →
      let p := (s.taskAt t).rp (BitVec.ofNat 3 rs1.toNat)
      let q := (s.taskAt t).rp (BitVec.ofNat 3 rs2.toNat)
      DoesP (.pand t pred rd rs1 rs2) s t d (p && q) ∧
      DoesP (.por t pred rd rs1 rs2) s t d (p || q) ∧
      DoesP (.pxor t pred rd rs1 rs2) s t d (p != q) ∧
      DoesP (.pandn t pred rd rs1 rs2) s t d (p && !q)))

/-- R131. BR, JAL and JR take the task to their target: PC plus the signed immediate times 4, or an address register; JAL leaves the
address of the instruction after it.

R133. The address-register instructions: sums modulo 2^48 with sign-extended operands, and the two halves of an address.

R134. Descriptor set-up writes the named fields of one descriptor; DSTEP advances ADDR or AUX by a signed multiple modulo 2^48. -/
def Obligations.BranchesAndAddressing : Prop :=
  (∀ (t : TaskRef) (pred : BitVec 3) (imm22 : BitVec 22) (imm18 : BitVec 18) (aD : BitVec 4) (s : State), s.reaches t 4 pred [] = true →
    let x := s.taskAt t
    Does (.br t pred imm22) s (fun u =>
      Retires t (BitVec.ofInt 48 (x.pc.toNat + 4 * imm22.toInt)) s u ∧ SetsNone x (u.taskAt t)) ∧
    Does (.jal t pred aD imm18) s (fun u =>
      Retires t (BitVec.ofInt 48 (x.pc.toNat + 4 * imm18.toInt)) s u ∧ SetsA x (u.taskAt t) aD (s.nextPc t 4)) ∧
    Does (.jr t pred aD) s (fun u => Retires t (x.ra aD) s u ∧ SetsNone x (u.taskAt t))) ∧
  (∀ (t : TaskRef) (pred : BitVec 3) (aD aS : BitVec 4) (sX sY : BitVec 5) (imm : BitVec 14) (s : State),
    let x := s.taskAt t
    (s.reaches t 4 pred [sX] = true → DoesA (.aadd t pred aD aS sX) s t aD (BitVec.ofInt 48 ((x.ra aS).toNat + (x.rs sX).toInt))) ∧
    (s.reaches t 4 pred [] = true → DoesA (.aaddi t pred aD aS imm) s t aD (BitVec.ofInt 48 ((x.ra aS).toNat + imm.toInt))) ∧
    (s.reaches t 4 pred [sX, sY] = true →
      DoesA (.aset t pred aD sX sY) s t aD (BitVec.ofNat 48 ((x.rs sY).toNat % 2 ^ 16 * 2 ^ 32 + (x.rs sX).toNat))) ∧
    (s.reaches t 4 pred [sX] = true →
      DoesS (.aget t pred aS sX false) s t sX (BitVec.ofNat 32 (x.ra aS).toNat) ∧
      DoesS (.aget t pred aS sX true) s t sX (BitVec.ofNat 32 ((x.ra aS).toNat / 2 ^ 32))) ∧
    (s.reaches t 4 pred [] = true → DoesA (.apc t pred aD imm) s t aD (BitVec.ofInt 48 (x.pc.toNat + 4 * imm.toInt)))) ∧
  (∀ (t : TaskRef) (pred : BitVec 3) (dd aA dS : BitVec 4) (sX sY sZ : BitVec 5) (fmt : BitVec 8) (tag : BitVec 2) (imm : BitVec 14)
    (s : State),
    let x := s.taskAt t
    let d := x.rd dd
    let k := (x.rs sX).toInt
    (s.reaches t 4 pred [] = true →
      DoesD (.daddr t pred dd aA imm) s t dd { d with addr := BitVec.ofInt 48 ((x.ra aA).toNat + imm.toInt) } ∧
      DoesD (.dfmt t pred dd fmt tag) s t dd { d with fmt := fmt, tag := tag } ∧
      DoesD (.daux t pred dd aA) s t dd { d with aux := x.ra aA } ∧
      DoesD (.dcopy t pred dd dS) s t dd (x.rd dS)) ∧
    (s.reaches t 4 pred [sX, sY, sZ] = true →
      DoesD (.dshape t pred dd sX sY sZ) s t dd
        { d with d0 := (x.rs sX).setWidth 20, d1 := (x.rs sY).setWidth 16, d2 := (x.rs sZ).setWidth 12 } ∧
      DoesD (.dstride t pred dd sX sY sZ) s t dd
        { d with s1 := x.rs sX, s2 := BitVec.ofNat 40 ((x.rs sZ).toNat % 2 ^ 8 * 2 ^ 32 + (x.rs sY).toNat) }) ∧
    (s.reaches t 4 pred [sX] = true →
      DoesD (.dstep t pred dd sX 0) s t dd { d with addr := BitVec.ofInt 48 (d.addr.toNat + k) } ∧
      DoesD (.dstep t pred dd sX 1) s t dd { d with addr := BitVec.ofInt 48 (d.addr.toNat + k * d.s1.toNat) } ∧
      DoesD (.dstep t pred dd sX 2) s t dd { d with addr := BitVec.ofInt 48 (d.addr.toNat + k * d.s2.toNat) } ∧
      DoesD (.dstep t pred dd sX 3) s t dd { d with aux := BitVec.ofInt 48 (d.aux.toNat + k) }))

/-- R167, R70. The system instructions that reach their own checks: NOP does nothing but retire; RDFLAGS, RDTIME and RDID write one
register; CLRFLAGS clears the flags that its mask names; END flushes the gathering buffer and takes the task to DRAINING toward IDLE; BREAK faults the task with
BREAK. -/
def Obligations.SystemInstructions : Prop :=
  ∀ (t : TaskRef) (pred : BitVec 3) (sD mask : BitVec 5) (s : State),
    let pg := cruPage t.tile t.cru
    let x := s.taskAt t
    (s.reaches t 4 pred [sD] = true →
      DoesS (.rdflags t pred sD) s t sD (BitVec.ofNat 32 (s.rf pg (Reg.TASK_FLAGS t.task) 4 0)) ∧
      DoesS (.rdtime t pred sD false) s t sD (BitVec.ofNat 32 s.now.toNat) ∧
      DoesS (.rdtime t pred sD true) s t sD (BitVec.ofNat 32 (s.now.toNat / 2 ^ 32)) ∧
      (∀ slot, (s.slotsOf t.tile (s.polderOf t.tile)).head? = some slot →
        DoesS (.rdid t pred sD) s t sD (BitVec.ofNat 32
          (t.tile.val + t.cru.val * 2 ^ 7 + t.task.val * 2 ^ 9 + slot * 2 ^ 12 + s.polderOf t.tile * 2 ^ 19))) ∧
      (s.slotsOf t.tile (s.polderOf t.tile) = [] →
        DoesS (.rdid t pred sD) s t sD (BitVec.ofNat 32
          (t.tile.val + t.cru.val * 2 ^ 7 + t.task.val * 2 ^ 9 + s.polderOf t.tile * 2 ^ 19 + 2 ^ 22)))) ∧
    (s.reaches t 4 pred [] = true →
      Does (.nop t pred) s (fun u => Retires t (s.nextPc t 4) s u ∧ SetsNone x (u.taskAt t)) ∧
      Does (.clrflags t pred mask) s (fun u =>
        RetiresTo t [] [(pg, Reg.TASK_FLAGS t.task)] (s.nextPc t 4) s u ∧ SetsNone x (u.taskAt t) ∧
        u.reg pg (Reg.TASK_FLAGS t.task) = s.reg pg (Reg.TASK_FLAGS t.task) &&& ~~~BitVec.ofNat 64 mask.toNat) ∧
      Does (.endTask t pred) s (fun u =>
        let gb := (s.cru t.tile t.cru).gb
        IssueFrame t [.peat, .peatBad] (gbRegs t.tile) s u ∧ (u.cru t.tile t.cru).gb = gb.filter (fun e => !s.entryReady t.tile e) ∧
        u.peat = flushedPeat t.tile s.peat (gb.filter (s.entryReady t.tile)) ∧
        u.taskAt t = { x with st := .draining, wait := .none, after := .idle, pc := s.nextPc t 4, aged := false }) ∧
      (x.faultSeq = none → Does (.brk t pred) s (fun u => Faulted t fBreak 0 0 x.pc [] s u)))

/-- R66, R78, R83, R85. A scalar load that passes its checks leaves the issue stage, and its task waits for the data with reason LOAD; a
check that fails faults the task, with the address of the access in TASK_FADDR; a conflict with the scoreboard makes it wait.

R66, R132, R171, R182. A scalar store that passes its checks writes the low bytes of its register to the pool or, through the
gathering buffer, to peat, and retires.

R66, R201. The data of a load in flight returns: without an error the register takes the bytes, zero- or sign-extended,
and the task is READY again. -/
def Obligations.ScalarMemory : Prop :=
  (∀ (t : TaskRef) (pred : BitVec 3) (sD : BitVec 5) (aA : BitVec 4) (size : BitVec 2) (sx : Bool) (imm : BitVec 12) (s : State),
    size ≠ 3 → s.reaches t 4 pred [sD] = true →
    let x := s.taskAt t
    let n := 2 ^ size.toNat
    let a := BitVec.ofInt 48 ((x.ra aA).toNat + imm.toInt)
    let place := s.physOf t a
    let peat : Bool := decide (place.1 = spPeat)
    let clash := (s.cru t.tile t.cru).conflicts ⟨peat, place.2, place.2 + n, false⟩
    (s.scalarCheck t a n .read = none → clash = false →
      Does (.scalarLoad t pred sD aA size sx imm) s (fun u =>
        IssueFrame t [] [] s u ∧
        u.taskAt t = { x with st := .waiting, wait := .load, pc := s.nextPc t 4,
                              load := some ⟨sD.toNat, n, sx, peat, place.2, a, x.pc⟩, aged := false })) ∧
    (s.scalarCheck t a n .read = none → clash = true →
      Does (.scalarLoad t pred sD aA size sx imm) s (fun u =>
        Frame [.tasks] s u ∧ TasksOutside t s u ∧ u.taskAt t = { x with
          st := .waiting, wait := .sb, ask := some (.ranges [⟨peat, place.2, place.2 + n, false⟩] none), aged := false })) ∧
    (∀ code, s.scalarCheck t a n .read = some code → x.faultSeq = none →
      Does (.scalarLoad t pred sD aA size sx imm) s (fun u => Faulted t code (scalarUnit code) a x.pc [] s u))) ∧
  (∀ (t : TaskRef) (pred : BitVec 3) (sS : BitVec 5) (aA : BitVec 4) (size : BitVec 2) (imm : BitVec 12) (s : State),
    size ≠ 3 → s.reaches t 4 pred [sS] = true →
    let x := s.taskAt t
    let n := 2 ^ size.toNat
    let a := BitVec.ofInt 48 ((x.ra aA).toNat + imm.toInt)
    let place := s.physOf t a
    let peat : Bool := decide (place.1 = spPeat)
    let key := poolKey t.tile t.cru place.2
    s.scalarCheck t a n .write = none → (s.cru t.tile t.cru).conflicts ⟨peat, place.2, place.2 + n, true⟩ = false →
    s.nearWritable t.tile t.cru peat place.2 n = true →
    (peat = false → Does (.scalarStore t pred sS aA size false imm) s (fun u =>
      RetiresTo t [.pool, .poolBad] [counter (poolPage t.tile) 0, counter (poolPage t.tile) 1] (s.nextPc t 4) s u ∧
      SetsNone x (u.taskAt t) ∧
      (∀ i, i < n → Store.get 0 u.pool (key + i) = BitVec.ofNat 8 ((x.rs sS).toNat / 2 ^ (8 * i))) ∧
      (∀ k, (k < key ∨ key + n ≤ k) → Store.get 0 u.pool k = Store.get 0 s.pool k) ∧ u.poolBad = s.poolBad)) ∧
    (peat = true → Does (.scalarStore t pred sS aA size false imm) s (fun u =>
      RetiresTo t [.peat, .peatBad] [counter (peatPage t.tile) 0, counter (peatPage t.tile) 1, counter (peatPage t.tile) 2,
        counter (peatPage t.tile) 3] (s.nextPc t 4) s u ∧
      SetsNone x (u.taskAt t) ∧
      u.peat = (s.nearWrite t.tile t.cru true place.2 (leBytes n (x.rs sS).toNat)).peat ∧
      (u.cru t.tile t.cru).gb = ((s.nearWrite t.tile t.cru true place.2 (leBytes n (x.rs sS).toNat)).cru t.tile t.cru).gb))) ∧
  (∀ (t : TaskRef) (l : LoadWait) (s : State), (s.taskAt t).load = some l →
    s.nearReady t.tile t.cru l.peat l.off l.size = true → s.nearPoisoned t.tile t.cru l.peat l.off l.size = false →
    let x := s.taskAt t
    let v := leNat (s.nearRead t.tile t.cru l.peat l.off l.size)
    Does (.scalarLoadReturn t .clean) s (fun u =>
      Frame [.regs, .tasks] s u ∧ TasksOutside t s u ∧
      RegsOutside [counter (poolPage t.tile) 0, counter (poolPage t.tile) 1, counter (peatPage t.tile) 0] s u ∧
      (∀ r, (u.taskAt t).rs r = if r = BitVec.ofNat 5 l.dst ∧ BitVec.ofNat 5 l.dst ≠ 0 then
          (if l.sx then BitVec.ofInt 32 (toSigned (8 * l.size) v) else BitVec.ofNat 32 v) else x.rs r) ∧
      (u.taskAt t).load = none ∧ (u.taskAt t).pc = x.pc ∧
      (u.taskAt t).st = (if x.st = .waiting then .ready else x.st)))

/-- R135 to R139. The gate instructions that reach their own checks. GADD and GSWAP flush the crucible's gathering buffer, write the
gate and return its old value; GREAD returns it; GWAIT makes the task wait with reason GATE, until the deadline that GATE_TMO gives at issue (none for 0). Every other gate stays.

R135, R137. A task in a gate wait becomes READY with the gate's value once the gate has reached its target, and faults with
GATE_TIMEOUT, with the gate number as address, once its deadline has passed without that. -/
def Obligations.GateInstructions : Prop :=
  (∀ (t : TaskRef) (pred : BitVec 3) (gate : BitVec 10) (sX sD : BitVec 5) (tmo : BitVec 2) (s : State),
    s.reaches t 4 pred [sX, sD] = true →
    let x := s.taskAt t
    let old := s.gate t.tile gate.toNat
    let gp := gatePage t.tile
    let flushed (u : State) : Prop := u.peat = (s.gbFlushAll t.tile t.cru).peat ∧ (u.cru t.tile t.cru).gb = []
    let gates (v : W32) (u : State) : Prop :=
      ∀ (i : TileIx) (g : BitVec 10), u.gate i g.toNat = if i = t.tile ∧ g = gate then v else s.gate i g.toNat
    (s.gbReady t.tile t.cru = true →
    Does (.gadd t pred gate sX sD) s (fun u =>
      RetiresTo t [.gates, .peat, .peatBad] (gbRegs t.tile ++ [counter gp 0]) (s.nextPc t 4) s u ∧
      SetsS x (u.taskAt t) sD old ∧ gates (old + x.rs sX) u ∧ Counts s u gp 0 1 ∧ flushed u) ∧
    Does (.gswap t pred gate sX sD) s (fun u =>
      RetiresTo t [.gates, .peat, .peatBad] (gbRegs t.tile ++ [counter gp 4]) (s.nextPc t 4) s u ∧
      SetsS x (u.taskAt t) sD old ∧ gates (x.rs sX) u ∧ Counts s u gp 4 1 ∧ flushed u)) ∧
    Does (.gread t pred gate sX sD) s (fun u =>
      RetiresTo t [.gates] [] (s.nextPc t 4) s u ∧ SetsS x (u.taskAt t) sD old ∧ gates old u) ∧
    Does (.gwait t pred gate sX sD tmo) s (fun u =>
      IssueFrame t [] [] s u ∧
      u.taskAt t = { x with
        st := .waiting, wait := .gate, aged := false, gate := some ⟨gate.toNat, x.rs sX, sD.toNat,
          if s.gateTmo t.tile tmo.toNat = 0 then none else some (s.up + s.gateTmo t.tile tmo.toNat)⟩ })) ∧
  (∀ (t : TaskRef) (w : GateWait) (s : State), (s.taskAt t).gate = some w →
    let x := s.taskAt t
    let v := s.gate t.tile w.gate
    let gp := gatePage t.tile
    ((v - w.target).toNat < 2 ^ 31 →
      Does (.gwaitSatisfied t) s (fun u =>
        Frame [.regs, .tasks] s u ∧ RegsOutside [counter gp 1] s u ∧ TasksOutside t s u ∧ Counts s u gp 1 1 ∧
        (∀ r, (u.taskAt t).rs r = if r = BitVec.ofNat 5 w.dst ∧ BitVec.ofNat 5 w.dst ≠ 0 then v else x.rs r) ∧
        (u.taskAt t).st = .ready ∧ (u.taskAt t).wait = .none ∧ (u.taskAt t).gate = none ∧ (u.taskAt t).pc = x.pc + 4)) ∧
    (2 ^ 31 ≤ (v - w.target).toNat → (∃ d, w.till = some d ∧ d ≤ s.up) → x.faultSeq = none →
      Does (.gateTimeout t) s (fun u =>
        Faulted t fGateTimeout 1 (BitVec.ofNat 48 w.gate) x.pc ([counter gp 2, (gp, Reg.GATE_TOLAST)] ++ evtRegs gp) s u ∧
        Counts s u gp 2 1 ∧ Raised u gp 0 ∧
        u.reg gp Reg.GATE_TOLAST = word [(0, w.gate), (10, t.cru.val), (12, t.task.val), (32, s.ts)])))

/-- R136, R138, R139, R333. Gate adds that travel: GRADD sends one to the tile of a logical slot, GBADD one to each member of the
tile's bed, each after the gathering buffer has flushed; an add that arrives adds to its gate. A write of GATE_VAL sets the gate that
GATE_IDX selects.

R139, R140, R317. A GADD that its router accepts adds its operand to a gate of the destination; a write of GATE_VAL sets the gate
that GATE_IDX selects. -/
def Obligations.GateArrivals : Prop :=
  (∀ (t : TaskRef) (pred : BitVec 3) (gate : BitVec 10) (sX sD : BitVec 5) (s : State),
    let x := s.taskAt t
    let f := s.gbFlushAll t.tile t.cru
    let pol := s.polderOf t.tile
    let add (d : Nat) : Send := { dst := d, op := opGadd, addr := gate.toNat, operand := (x.rs sX).toNat }
    let left (u : State) : Prop :=
      RetiresTo t [.net, .peat, .peatBad] (gbRegs t.tile ++ [counter (cetisPage t.tile) 10]) (s.nextPc t 4) s u ∧
      SetsNone x (u.taskAt t) ∧ (u.cru t.tile t.cru).gb = []
    s.reaches t 4 pred [sX, sD] = true → s.gbReady t.tile t.cru = true →
    (∀ d, f.slotTile t.tile pol ((x.rs sD).toNat % 128) = some d → f.canSend t.tile (add d) = true →
      Does (.gradd t pred gate sX sD) s (fun u => left u ∧ f.injected u t.tile [add d])) ∧
    (∀ b, f.bedOf t.tile = some b →
      (∀ k ∈ f.bedSlots b, ∃ d, f.slotTile t.tile pol k = some d ∧ f.canSend t.tile (add d) = true) →
      Does (.gbadd t pred gate sX sD) s (fun u => left u ∧
        f.injected u t.tile ((f.bedSlots b).filterMap (fun k => (f.slotTile t.tile pol k).map add))))) ∧
  (∀ (p : Packet) (who : Requester) (tile : TileIx) (v : W64) (s : State),
    (∀ i : TileIx, p.wf = true → s.arrivable opGadd p = true → p.dst.toNat = i → s.ejectCause i p = none →
      Does (.remoteGadd p) s (fun u =>
        Frame [.arrivals, .gates, .regs] s u ∧ RegsOutside [counter (gatePage i) 3] s u ∧ u.arrivals = s.arrivals.erase p ∧
        Counts s u (gatePage i) 3 1 ∧
        ∀ (j : TileIx) (g : BitVec 10), u.gate j g.toNat =
          if j = i ∧ g.toNat = p.addr.toNat % 1024 then s.gate j g.toNat + BitVec.ofNat 32 p.operand.toNat else s.gate j g.toNat)) ∧
    (s.pageLive (gatePage tile) = true →
      Does (.gateValWrite who tile v) s (fun u =>
        Frame [.regs, .gates, .shadows] s u ∧ RegsOutside [(gatePage tile, Reg.GATE_VAL)] s u ∧
        ∀ (j : TileIx) (g : BitVec 10), u.gate j g.toNat =
          if j = tile ∧ g.toNat = s.rf (gatePage tile) Reg.GATE_IDX 9 0 then BitVec.ofNat 32 v.toNat else s.gate j g.toNat)))

/-- R70, R106, R114. START, STOP and RESET written to a task in the states that the table of R70 gives: READY at TASK_ENTRY, DRAINING
toward HALTED, and IDLE with a cleared context, fault record and flags. Written in any other state they change no task and set
CRU_STAT.WERR with its event.

R65, R68, R70, R71, R86, R185. The events that end a drain, promote a task, fill the instruction cache and free a scoreboard
entry, whose waiting tasks are re-evaluated. A drain toward IDLE flushes the gathering buffer and clears the context; other drains end in the state that they began toward. -/
def Obligations.TaskControl : Prop :=
  (∀ (who : Requester) (t : TaskRef) (v : W64) (s : State),
    let pg := cruPage t.tile t.cru
    let x := s.taskAt t
    let effect (rs : List (Nat × Nat)) (y : Task) (u : State) : Prop :=
      Writes pg (Reg.TASK_CTL t.task) [.tasks] rs s u ∧ TasksOutside t s u ∧ u.taskAt t = y
    let error (c : Instr) : Prop := Does c s (fun u =>
      Writes pg (Reg.TASK_CTL t.task) [.out, .fns] ((pg, Reg.CRU_STAT) :: evtRegs pg) s u ∧ u.rb pg Reg.CRU_STAT 16 = true ∧ Raised u pg 3)
    s.admits who pg (Reg.TASK_CTL t.task) = true →
    (if x.st = .idle ∧ s.poolOn t.tile t.cru = true then
      Does (.taskStart who t v) s (effect [] { x with st := .ready, wait := .none, pc := BitVec.ofNat 48 (s.rf pg (Reg.TASK_ENTRY t.task) 47 0) })
     else error (.taskStart who t v)) ∧
    (if x.st = .ready ∨ x.st = .waiting then
      Does (.taskStop who t v) s (effect [] { x with st := .draining, wait := .none, after := .halted, gate := none, ask := none, aged := false })
     else error (.taskStop who t v)) ∧
    (if x.st = .faulted ∨ x.st = .halted then
      Does (.taskReset who t v) s (fun u =>
        effect [(pg, Reg.TASK_FAULT t.task), (pg, Reg.TASK_FADDR t.task), (pg, Reg.TASK_FPC t.task), (pg, Reg.TASK_FLAGS t.task)]
          { st := .idle, pc := x.pc } u ∧
        u.reg pg (Reg.TASK_FAULT t.task) = 0 ∧ u.reg pg (Reg.TASK_FADDR t.task) = 0 ∧ u.reg pg (Reg.TASK_FPC t.task) = 0 ∧
        u.reg pg (Reg.TASK_FLAGS t.task) = 0)
     else error (.taskReset who t v))) ∧
  (∀ (t : TaskRef) (s : State),
    let x := s.taskAt t
    let c := s.cru t.tile t.cru
    (x.st = .draining → c.inflight t.task = 0 → x.load = none → x.after ≠ .idle →
      Does (.drainEnd t) s (fun u =>
        Frame [.tasks] s u ∧ TasksOutside t s u ∧ u.taskAt t = { x with st := x.after, wait := .none })) ∧
    (x.st = .draining → c.inflight t.task = 0 → x.load = none → x.after = .idle → s.gbReady t.tile t.cru = true →
      Does (.drainEnd t) s (fun u =>
        Frame [.regs, .tasks, .crus, .peat, .peatBad] s u ∧ RegsOutside (gbRegs t.tile) s u ∧ TasksOutside t s u ∧ CrusOutside t s u ∧
        u.taskAt t = { st := .idle, pc := x.pc, faultSeq := x.faultSeq.map (fun _ => 0) } ∧ u.cru t.tile t.cru = { c with gb := [] } ∧
        u.peat = (s.gbFlushAll t.tile t.cru).peat)) ∧
    (x.st = .ready → s.rf (cruPage t.tile t.cru) Reg.CRU_CTL 15 0 ≠ 0 →
      Does (.agePromotion t) s (fun u =>
        Frame [.tasks] s u ∧ TasksOutside t s u ∧ u.taskAt t = { x with aged := true })) ∧
    (x.st = .waiting → x.wait = .fetch →
      s.nearReady t.tile t.cru (decide ((s.physOf t x.pc).1 = spPeat)) ((s.physOf t x.pc).2 / 256 * 256) 256 = true →
      s.nearPoisoned t.tile t.cru (decide ((s.physOf t x.pc).1 = spPeat)) ((s.physOf t x.pc).2 / 256 * 256) 256 = false →
      Does (.icacheFill t .clean) s (fun u =>
        Frame [.regs, .tasks, .crus] s u ∧ TasksOutside t s u ∧ CrusOutside t s u ∧ u.taskAt t = { x with st := .ready, wait := .none } ∧
        RegsOutside [counter (poolPage t.tile) 0, counter (poolPage t.tile) 1, counter (peatPage t.tile) 0] s u ∧
        (u.cru t.tile t.cru).icache.contains (s.icLine t x.pc) = true ∧ (u.cru t.tile t.cru).icache.length ≤ max 256 c.icache.length)) ∧
    (∀ (k : Nat) (e : SbEntry), c.sb[k]? = some e →
      let freed (u : State) : Prop :=
        CrusOutside t s u ∧ (u.cru t.tile t.cru).sb = c.sb.erase e ∧
        ∀ q : TaskRef, u.taskAt q = if (q.tile, q.cru) = (t.tile, t.cru) then (s.taskAt q).rewait (u.cru t.tile t.cru) else s.taskAt q
      ((c.queue e.unit).find? (fun w => w.iid = e.iid) = none →
        Does (.sbEntryRelease t.tile t.cru k) s (fun u =>
          Frame [.crus, .tasks] s u ∧ freed u ∧ u.cru t.tile t.cru = { c with sb := c.sb.erase e })) ∧
      (∀ w, (c.queue e.unit).find? (fun w => w.iid = e.iid) = some w → e.write = false → w.phase = .queued →
        let d : UCtx := ⟨⟨t.tile, t.cru, e.task⟩, w⟩
        s.reached d e.unit = true → s.canAdd d = true → s.piecesReady d (s.ownPieces d) = true → s.slotNeeds d = [] →
        Does (.sbEntryRelease t.tile t.cru k) s (fun u =>
          Frame [.crus, .tasks] s u ∧ freed u ∧
          (u.cru t.tile t.cru).queue e.unit = (c.queue e.unit).map (fun y => if y.iid = w.iid then
            { y with claims := w.claims, since := none, want := none,
                     seen := y.seen ++ s.capture t (if e.peat then 4 else t.cru.val) e.lo (e.hi - e.lo) } else y)))))

/-- R65, R70, R78, R80, R97, R115, R121, R623. What the issue stage does with any instruction before the instruction's own checks, in
order: a task that may not issue does nothing; a fetch that fails a segment check faults; a line that the instruction cache does not
hold makes the task wait; an undefined encoding faults with ILLEGAL and a misaligned program counter with MISALIGN; a false predicate
retires the instruction; and a register with a load or sentinel outstanding makes the task wait. -/
def Obligations.IssueStage : Prop :=
  ∀ (i : Instr) (t : TaskRef) (q : IssueReq) (s : State), issueRequest i = some (t, q) →
    let x := s.taskAt t
    let pg := cruPage t.tile t.cru
    let cached := (s.cru t.tile t.cru).icache.contains (s.icLine t x.pc)
    let aligned := x.pc.toNat % (if q.len = 16 then 16 else 4) = 0
    let busy := q.uses.any (fun r => x.pend.contains r.toNat)
    (s.canTry t = false → Does i s (fun u => u = s)) ∧
    (s.canTry t = true →
      (∀ code, s.fetchCheck t q.len = some code → x.faultSeq = none → Does i s (fun u => Faulted t code 0 x.pc x.pc [] s u)) ∧
      (s.fetchCheck t q.len = none →
        (cached = false → Does i s (fun u =>
          Frame [.regs, .tasks] s u ∧ RegsOutside [counter pg 14] s u ∧ Counts s u pg 14 1 ∧ TasksOutside t s u ∧
          u.taskAt t = { x with st := .waiting, wait := .fetch, ask := none, aged := false })) ∧
        (cached = true → q.illegal = true → x.faultSeq = none → Does i s (fun u => Faulted t fIllegal 0 0 x.pc [] s u)) ∧
        (cached = true → q.illegal = false → ¬aligned → x.faultSeq = none →
          Does i s (fun u => Faulted t fMisalign 0 x.pc x.pc [] s u)) ∧
        (cached = true → q.illegal = false → aligned →
          (x.rp q.pred = false → Does i s (fun u => Retires t (s.nextPc t q.len) s u ∧ SetsNone x (u.taskAt t))) ∧
          (x.rp q.pred = true → busy = true → Does i s (fun u =>
            Frame [.tasks] s u ∧ TasksOutside t s u ∧ u.taskAt t = { x with
              st := .waiting, wait := .load, ask := some (.regs (q.uses.map (·.toNat))), aged := false })))))

/-- R78 to R86, R118, R127, R142. A tensor instruction that reaches its own checks and passes them dispatches: its task goes on behind
it, READY; it enters its unit's queue with copies of the registers; and each of its ranges in POOL or PEAT takes a scoreboard entry.

R78 to R83, R142, R623. A tensor instruction that reaches its own checks and fails one: a failed operand check faults the task with
its code and address, a shape that does not fit faults it with DESCRIPTOR, and a conflict, a full queue or a full scoreboard makes it
wait with that reason. -/
def Obligations.TensorDispatchAndStops : Prop :=
  (∀ (i : Instr) (q : TensorIssue) (s : State), tensorIssue i = some q → i.wf = true →
    s.reaches q.t 16 q.h.pred q.uses = true →
    let t := q.t
    let x := s.taskAt t
    let c := s.cru t.tile t.cru
    let ops := s.operands t x.rd i
    let rs := s.ranges t ops
    let w : Work := { iid := c.nextIid, task := t.task, seq := x.seq, instr := i, d := x.d, s := x.s, pc := x.pc, phase := .queued,
                      claims := [], since := none }
    s.checkOps t ops = none → shapeOk x.rd i = true → rs.any c.conflicts = false → (c.queue q.unit).length < unitDepth q.unit →
    c.sb.length + rs.length ≤ 64 →
    Does i s (fun u =>
      RetiresTo t [] [(cruPage t.tile t.cru, Reg.SB_STAT)] (s.nextPc t 16) s u ∧
      u.taskAt t = { x with st := .ready, wait := .none, pc := s.nextPc t 16, seq := x.seq + 1, pend := x.pend ++ q.pend, aged := false } ∧
      (u.cru t.tile t.cru).queue q.unit = c.queue q.unit ++ [w] ∧
      (∀ k, k ≠ q.unit → (u.cru t.tile t.cru).queue k = c.queue k) ∧
      (u.cru t.tile t.cru).sb =
        c.sb ++ rs.map (fun r => (⟨r.peat, r.lo, r.hi, r.write, t.task, q.unit, c.nextIid⟩ : SbEntry)) ∧
      (u.cru t.tile t.cru).nextIid = c.nextIid + 1 ∧ (u.cru t.tile t.cru).gb = c.gb ∧ (u.cru t.tile t.cru).icache = c.icache)) ∧
  (∀ (i : Instr) (q : TensorIssue) (s : State), tensorIssue i = some q → i.wf = true →
    s.reaches q.t 16 q.h.pred q.uses = true →
    let t := q.t
    let x := s.taskAt t
    let c := s.cru t.tile t.cru
    let ops := s.operands t x.rd i
    let rs := s.ranges t ops
    let waits (r : WaitReason) : Prop := Does i s (fun u =>
      Frame [.tasks] s u ∧ TasksOutside t s u ∧ u.taskAt t = { x with
        st := .waiting, wait := r, ask := some (.ranges rs (some q.unit)), aged := false })
    (∀ code a, s.checkOps t ops = some (code, a) → x.faultSeq = none → Does i s (fun u => Faulted t code 0 a x.pc [] s u)) ∧
    (s.checkOps t ops = none → shapeOk x.rd i = false → x.faultSeq = none →
      Does i s (fun u => Faulted t fDescriptor 0 0 x.pc [] s u)) ∧
    (s.checkOps t ops = none → shapeOk x.rd i = true →
      (rs.any c.conflicts = true → waits .sb) ∧
      (rs.any c.conflicts = false → unitDepth q.unit ≤ (c.queue q.unit).length → waits .queue) ∧
      (rs.any c.conflicts = false → (c.queue q.unit).length < unitDepth q.unit → 64 < c.sb.length + rs.length → waits .sbfull)))

/-- R86, R91, R143 to R147, R171, R191, R206. A mould or vector instruction whose memory answers and whose slots are claimed runs to its
end in one command, be it that the unit comes to it or that the slot it waited for is ready: with its claims held in s1, every row of its
result is written where its descriptor puts it in the crucible's own pool, in row order (but for bytes of slots that were written before),
its flags join the task's, and the instruction ends. -/
def Obligations.UnitResults : Prop :=
  ∀ (tile : TileIx) (cru : CruIx) (u : UnitKind) (c : UCtx) (d : Desc) (e : Effect) (ph : Nat) (s s0 s1 : State),
    s0.nothingToDo c = false → s0.canAdd c = true → c.w.phase = .queued → runJob c.w.instr = none →
    s0.piecesReady c (s0.workPieces c) = true → s0.claimWork c u = (true, s1) →
    let c1 := s1.again c u
    s1.arithEffect c1 = some (d, e) → s1.poisonedPiece c1 (s1.workPieces c1) = none →
    s1.badOverlap c1 = false → s1.physOf c1.t d.addr = (spPool, ph) →
    let ends (v : State) : Prop :=
      Ended c1 u (doneGates (headerOf c1.w.instr)) e.flags [.pool, .poolBad]
        [counter (poolPage c.t.tile) 0, counter (poolPage c.t.tile) 1, counter (peatPage c.t.tile) 0] s1 v ∧
      v.pool = (restRows c1 spPool ph e.rows).foldl (fun m r => putBytes m (poolKey c.t.tile c.t.cru (ph + r.1)) r.2) s0.pool
    Frame [.crus, .slots] s0 s1 ∧
    (∀ k a, s.unitWork tile cru u k = (s0, some c) → Does (.unitInstrComplete tile cru u k .clean a) s ends) ∧
    (s.waitingWork tile cru u = some c → s = s0 → Does (.taggedAccessResume (.unit tile cru u)) s ends)

/-- R161 to R163. A MOVE, FILL or GATHER with rows, whose ends lie in its tile, whose memory answers and whose slots are claimed, to the
crucible's own pool: every destination row receives its bytes, the receive gate and the done gate advance where they are named, and the
instruction ends. -/
def Obligations.LocalMoves : Prop :=
  ∀ (tile : TileIx) (cru : CruIx) (k : Nat) (a : Addr) (c : UCtx) (j : RunJob) (ph : Nat) (s s0 s1 : State),
    s.unitWork tile cru .runner k = (s0, some c) → c.w.phase = .queued → runJob c.w.instr = some j →
    s0.wantsIdx c j = false → s0.canAdd c = true →
    s0.piecesReady c (s0.runPieces c j) = true → s0.claimWork c .runner = (true, s1) →
    let c1 := s1.again c .runner
    s1.poisonedPiece c1 (s1.runPieces c1 j) = none →
    s1.badOverlap c1 = false → s1.physOf c1.t (c1.regs j.o.dD).addr = (spPool, ph) → c1.w.instr = c.w.instr →
    (j.kind = .fill ∨ farSpace (s1.spaceOf c1.t (c1.regs j.o.dS).addr) = false) →
    (c.regs j.o.dD).d0 ≠ 0 → (c.regs j.o.dD).d1 ≠ 0 → (c.regs j.o.dD).d2 ≠ 0 →
    Does (.unitInstrComplete tile cru .runner k .clean a) s (fun v =>
      Ended c1 .runner ((if j.o.rge then [j.o.rg] else []) ++ doneGates j.h) (s1.runFlags c1 j) [.pool, .poolBad]
        [counter (poolPage c.t.tile) 0, counter (poolPage c.t.tile) 1, counter (peatPage c.t.tile) 0] s1 v ∧
      v.pool = (restRows c1 spPool ph (s1.runRows c1 j)).foldl (fun m r => putBytes m (poolKey c.t.tile c.t.cru (ph + r.1)) r.2) s0.pool)

/-- R192, R193, R195, R198, R204, R206. Claims on channel slots, taken in ascending address order. An instruction whose first slot is not
ready, or is awaited by an access that comes before it in R194's order, waits from now, with the wait counted, and nothing of it runs; an
instruction that waits resumes by the same rule.

R165, R219, R220. A KVPUT that waited for its page reads the page's entry again: it waits on while the entry makes it wait, and
otherwise its records are stored and the instruction ends with the flags of storing them.

R96 to R99, R194, R198, R201, R211, R521. A unit's fault in an instruction: an uncorrectable error in a word of its sources while it
reads them, and a slot's timeout after TMO_NS of waiting. The instruction leaves its unit, its destination bytes become undefined, and the
task faults with the code, the unit and the address given. For every other code the command does what running the instruction does, where
that ends in a fault, and else nothing.

R96, R115, R116, R121, R623. Parcels that decode to no instruction, because the opcode table leaves the encoding undefined or a
reserved field is not zero, fault their task with ILLEGAL at the issue stage, where the fetch passes its own checks and the
instruction cache holds the line. Parcels of a class below 9 are one word, others four. -/
def Obligations.UnitStops : Prop :=
  (∀ (tile : TileIx) (cru : CruIx) (u : UnitKind) (c : UCtx) (n : SlotNeed) (r : List SlotNeed) (s s0 : State),
    c.t.tile = tile → c.t.cru = cru → s0.nothingToDo c = false → s0.canAdd c = true →
    (∀ j, runJob c.w.instr = some j → s0.wantsIdx c j = false) → s0.piecesReady c (s0.ownPieces c) = true →
    s0.slotNeeds c = n :: r → c.w.claims = [] →
    s0.claimable tile (unitRank cru u) (n.claim tile) = false →
    let begins : Bool := c.w.since.isNone || decide (c.w.want ≠ some (n.claim tile))
    let waits (v : State) : Prop :=
      Frame [.regs, .crus] s0 v ∧ CrusOutside c.t s0 v ∧
      (v.cru tile cru).queue u = ((s0.cru tile cru).queue u).map (fun w =>
        if w.iid = c.w.iid then
          { w with claims := [], since := if begins then some s0.up else w.since, want := some (n.claim tile) } else w) ∧
      (if begins then
        RegsOutside [counter (cregPage tile n.peat) (if n.peat then 6 else 4)] s0 v ∧
        Counts s0 v (cregPage tile n.peat) (if n.peat then 6 else 4) 1
       else v.regs = s0.regs)
    (∀ k a, s.unitWork tile cru u k = (s0, some c) → c.w.phase = .queued →
      Does (.unitInstrComplete tile cru u k .clean a) s waits) ∧
    (s.waitingWork tile cru u = some c → (∀ l, c.w.phase ≠ .moving l) → s = s0 →
      Does (.taggedAccessResume (.unit tile cru u)) s waits)) ∧
  (∀ (tile : TileIx) (cru : CruIx) (c : UCtx) (t : TaskRef) (h : THdr) (o : AttOps) (s s1 : State),
    (s.unitWork tile cru .attention 0).2 = some c → c.w.phase = .pageWait → c.w.instr = .kvput t h o →
    let s0 := s.mapWork c.t .attention c.w.iid (fun w => { w with phase := .queued })
    s0.nothingToDo c = false → s0.canAdd c = true → s0.piecesReady c (s0.workPieces c) = true →
    s0.claimWork c .attention = (true, s1) →
    let c1 := s1.again c .attention
    c1.w.instr = c.w.instr → s1.poisonedPiece c1 (s1.workPieces c1) = none →
    (∀ s2, s1.kvputRun c1 h o = .wait s2 → Does (.kvputEntryReread tile cru) s (fun v =>
      v = s2.mapWork c.t .attention c.w.iid (fun w => { w with phase := .pageWait }) ∧ Frame [.crus, .slots, .regs] s v ∧
      RegsOutside [counter (peatPage tile) 0] s v ∧ ∀ w ∈ (v.cru tile cru).attn, w.iid = c.w.iid → w.phase = .pageWait)) ∧
    (∀ s2 fl, s1.kvputRun c1 h o = .done s2 ⟨[], fl⟩ → Does (.kvputEntryReread tile cru) s (fun v =>
      Ended c1 .attention (doneGates h) fl [] [counter (poolPage c.t.tile) 0, counter (poolPage c.t.tile) 1, counter (peatPage c.t.tile) 0] s2 v))) ∧
  (∀ (tile : TileIx) (cru : CruIx) (u : UnitKind) (c : UCtx) (s s0 : State),
    (s0.taskAt c.t).faultSeq = none → c.t.tile = tile → c.t.cru = cru →
    let ends (d : UCtx) (code unit : Nat) (addr : Addr) (rs : List (Nat × Nat)) (v : State) : Prop :=
      FaultedAt c.t d.w.seq code unit addr d.w.pc [.slots, .fresh, .pool, .poolBad, .peat, .peatBad, .mire, .probes, .rx]
        (gbRegs tile ++ rs) s0 v
    (∀ (k : Nat) (addr : Addr) (p : Piece) (s1 : State), s.unitWork tile cru u k = (s0, some c) → c.w.phase = .queued →
      s0.nothingToDo c = false → s0.sourceAt c addr = some p → s0.readyWork c u = (true, s1) →
      let met : State → Prop := ends (s1.again c u) (if p.space = spSibling then fRemote else fEcc) (if p.space = spSibling then 5 else unitCode u)
        p.addr (eccRegs tile)
      Does (.unitFault tile cru u k (BitVec.ofNat 8 fEcc) addr) s met ∧
      Does (.unitInstrComplete tile cru u k .uncorrectable addr) s met) ∧
    (∀ (k : Nat) (code : BitVec 8) (addr : Addr), s.unitWork tile cru u k = (s0, some c) → c.w.phase = .queued →
      code.toNat ≠ fSlotTimeout → code.toNat ≠ fEcc →
      Does (.unitInstrComplete tile cru u k .clean addr) s (fun v =>
        Does (.unitFault tile cru u k code addr) s (fun w => w = if v.faultsOf c.t = s0.faultsOf c.t then s0 else v))) ∧
    (∀ (x : Claim) (t0 : Nat), c.w.want = some x → c.w.since = some t0 → s0.cregTmo tile x.peat x.reg ≠ 0 →
      t0 + s0.cregTmo tile x.peat x.reg ≤ s0.up → s0.claimable tile (unitRank cru u) x = false →
      let pg := cregPage tile x.peat
      let slot := if x.peat then 7 else 5
      let addr : Addr := match (s0.slotNeeds c ++ s0.lateNeeds c).find? (fun n => (n.claim tile).same x) with
        | some n => n.addr
        | none => 0
      let times (v : State) : Prop :=
        ends c fSlotTimeout (unitCode u) addr (counter pg slot :: evtRegs pg) v ∧ Counts s0 v pg slot 1 ∧ Raised v pg 2
      (∀ k a, s.unitWork tile cru u k = (s0, some c) → Does (.unitFault tile cru u k (BitVec.ofNat 8 fSlotTimeout) a) s times) ∧
      (s.waitingWork tile cru u = some c → s = s0 → Does (.slotTimeout (.unit tile cru u)) s times))) ∧
  (∀ (t : TaskRef) (parcels : List W32) (n : Nat) (s : State),
    n = (if (parcels.headD 0).toNat / 2 ^ 25 % 16 < 9 then 4 else 16) →
    decodeParcels t ((parcels ++ [0, 0, 0, 0]).take (n / 4)) = none → s.canTry t = true → (s.taskAt t).faultSeq = none →
    s.fetchCheck t n = none → (s.cru t.tile t.cru).icache.contains (s.icLine t (s.taskAt t).pc) = true →
    Does (.illegal t parcels) s (Faulted t fIllegal 0 0 (s.taskAt t).pc [] s))

/-- R174, R181, R185, R186, R461. The end of zeroing turns a crucible or a peat layer ON, and ends POOL_STAT.ZEROING; an access to a layer
that is not ON asks for it in class 1; an entry of the gathering buffer that has aged GB_AGE cycles flushes, byte by byte, and no other
entry does.

R173, R177, R201 to R206. One word of a pool or one line of peat scrubbed. A clean word changes no record; a corrected one is counted
and raised; an uncorrectable one, which every word of a poisoned line is, is counted, raised and recorded, and its line is poisoned and
reported. No byte of memory changes. The starvation rules only order the scrubbers' turns. -/
def Obligations.MemoryUpkeep : Prop :=
  (∀ (tile : TileIx) (cru : CruIx) (layer : Fin 4) (r : Ramp) (line : BitVec 25) (s : State),
    (s.rampOf tile cru = some r → r.phase = .zeroing →
      Does (.poolZeroingDone tile cru) s (fun u =>
        RegsOutside [(pwrPage tile, Reg.PWR_DOM), (poolPage tile, Reg.POOL_STAT)] s u ∧
        u.ramps = s.ramps.filter (fun q => !(q.unit = tile.val && q.dom = cru.val)) ∧
        (∀ n : Fin 8, u.dom tile n = if n.val = cru.val then 2 else s.dom tile n) ∧
        (∀ k : CruIx, u.rb (poolPage tile) Reg.POOL_STAT k = (!decide (k = cru) && s.rb (poolPage tile) Reg.POOL_STAT k)) ∧
        u.poolOn tile cru = true)) ∧
    (s.rampOf tile (4 + layer) = some r → r.phase = .zeroing →
      Does (.peatZeroingDone tile layer) s (fun u =>
        RegsOutside [(pwrPage tile, Reg.PWR_DOM)] s u ∧
        u.ramps = s.ramps.filter (fun q => !(q.unit = tile.val && q.dom = 4 + layer.val)) ∧
        (∀ n : Fin 8, u.dom tile n = if n.val = 4 + layer.val then 2 else s.dom tile n) ∧ u.layerOn tile layer = true)) ∧
    (s.boot.main = true → s.dom tile (4 + layer) ≠ 2 → s.rampOf tile (4 + layer) = none →
      Does (.peatLayerWake tile layer) s (fun u =>
        u = s.putRamp ⟨tile, 4 + layer, 1, s.up, 0, .asked, s.dom tile (4 + layer) = 0, none⟩)) ∧
    (s.boot.main = true → s.dom tile (4 + layer) ≠ 2 → s.rampOf tile (4 + layer) = some r →
      Does (.peatLayerWake tile layer) s (fun u => u = s.putRamp { r with cls := min 1 r.cls, next := none })) ∧
    (∀ e ∈ (s.cru tile cru).gb, e.line = line.toNat → e.last + s.gbAge tile ≤ s.up → s.entryReady tile e = true →
      Does (.gbAgeFlush tile cru line) s (fun u =>
        RegsOutside (gbRegs tile) s u ∧ (u.cru tile cru).gb = (s.cru tile cru).gb.filter (fun e => e.line ≠ line.toNat) ∧
        u.peat = flushedPeat tile s.peat ((s.cru tile cru).gb.filter (fun e => e.line = line.toNat))))) ∧
  (∀ (tile : TileIx) (cru : CruIx) (word : BitVec 22) (line : BitVec 30) (e : EccResult) (s : State),
    let pp := poolPage tile
    let po := 8 * word.toNat
    let qp := peatPage tile
    let qo := 8 * line.toNat
    let step (key item last : Nat) (u : State) : Prop :=
      u.scrubs = if Store.get 0 s.scrubs key = item then Store.set 0 s.scrubs key (if item = last then 0 else item + 1) else s.scrubs
    let passed (key item last : Nat) : Nat := if Store.get 0 s.scrubs key = item ∧ item = last then 1 else 0
    (po < poolSize → s.rb pp Reg.POOL_CTL 0 = true → s.poolOn tile cru = true →
      let found := scrubFinds (s.poolPoisoned tile cru po 8) e
      Does (.poolScrub tile cru word e) s (fun u =>
        Frame [.regs, .fresh, .out, .fns, .poolBad, .reports, .scrubs] s u ∧
        step tile (cru * (poolSize / 8) + word.toNat) (4 * (poolSize / 8) - 1) u ∧
        Counts s u pp 6 (passed tile (cru * (poolSize / 8) + word.toNat) (4 * (poolSize / 8) - 1)) ∧ Counts s u pp 0 1 ∧
        RegsOutside ([(pp, Reg.POOL_ECC_ADDR), (pp, Reg.POOL_ECC_INFO), counter pp 0, counter pp 2, counter pp 3, counter pp 6, counter pp 7] ++
          evtRegs pp ++ reportRegs tile) s u ∧
        (found = .clean → RegsOutside [counter pp 0, counter pp 6] s u ∧ u.poolBad = s.poolBad) ∧
        (∀ sy, found = .corrected sy → Counts s u pp 2 1 ∧ Raised u pp 0 ∧ u.poolBad = s.poolBad ∧ u.reports = s.reports) ∧
        (found = .uncorrectable →
          Counts s u pp 3 1 ∧ Raised u pp 1 ∧ Raised u pp 4 ∧ u.reg pp Reg.POOL_ECC_ADDR = Machine.word [(3, word.toNat), (25, cru), (27, 6)] ∧
          u.poolBad = Store.set false s.poolBad (poolLineKey tile cru (po / 4096)) true ∧
          u.reports = s.reports ++ [⟨tile, 2, 1 + cru, po / 256, s.up⟩]))) ∧
    (s.rb qp Reg.PEAT_CTL 0 = true → s.peatOn tile qo 8 = true →
      let found := scrubFinds (s.peatPoisoned tile qo 8) e
      Does (.peatScrub tile line e) s (fun u =>
        Frame [.regs, .fresh, .out, .fns, .peatBad, .reports, .scrubs] s u ∧
        step (128 + tile) (qo / 256) (peatSize / 256 - 1) u ∧
        Counts s u qp 8 (passed (128 + tile) (qo / 256) (peatSize / 256 - 1)) ∧ Counts s u qp 0 1 ∧ Counts s u qp 1 1 ∧
        RegsOutside ([(qp, Reg.PEAT_ECC_ADDR), (qp, Reg.PEAT_ECC_INFO), counter qp 0, counter qp 1, counter qp 4, counter qp 5,
          counter qp 8, counter qp 9] ++ evtRegs qp ++ reportRegs tile) s u ∧
        (found = .clean → RegsOutside [counter qp 0, counter qp 1, counter qp 8] s u ∧ u.peatBad = s.peatBad) ∧
        (∀ sy, found = .corrected sy → Counts s u qp 4 1 ∧ Raised u qp 0 ∧ u.peatBad = s.peatBad ∧ u.reports = s.reports) ∧
        (found = .uncorrectable →
          Counts s u qp 5 1 ∧ Raised u qp 1 ∧ Raised u qp 4 ∧ u.reg qp Reg.PEAT_ECC_ADDR = Machine.word [(3, line.toNat), (33, 6)] ∧
          u.peatBad = Store.set false s.peatBad (peatLineKey tile (qo / 256)) true ∧
          u.reports = s.reports ++ [⟨tile, 2, 0, qo / 256, s.up⟩]))) ∧
    Does (.scrubStarve tile cru) s (fun u => u = s) ∧ Does (.maintPortStarve tile) s (fun u => u = s))

/-- R188 to R190, R199. A write of CREG_CTL that enables a region: where the region fits, every one of its slots takes the INIT state and
no other slot changes; where it does not, the register keeps what it held and REGION_ERR is raised. A write that disables a region
loses its states, ends the accesses that hold its slots without a transition and lets the accesses that wait for them go on; one that would change INIT or TMO_NS while the region is enabled is refused.

R190 to R192, R200. The life of a channel slot. A tagged writer takes a slot from EMPTY to FILLING and a reader takes it from FULL to
DRAINING; the end of the access makes it FULL and EMPTY, an abandoned access EMPTY and FULL. A write of CSLOT_STATE sets a slot of an
enabled region that no access holds to EMPTY or FULL, raises REGION_ERR for any other, and does nothing to a slot that is not there. -/
def Obligations.ChannelRegions : Prop :=
  (∀ (who : Requester) (tile : TileIx) (peat : Bool) (r : Fin 32) (v : W64) (s : State),
    let pg := cregPage tile peat
    let off := Reg.CREG_CTL r
    let fixed := maskOf 1 1 ||| maskOf 63 32
    let refused (u : State) : Prop :=
      Writes pg off [.out, .fns] (evtRegs pg) s u ∧ u.reg pg off = s.reg pg off ∧ Raised u pg 3
    s.admits who pg off = true → (peat = true → r.val < 16) →
    (s.cregEn tile peat r = false → s.regionFits tile peat r = true →
      Does (.cregEnable who tile peat r v) s (fun u =>
        Writes pg off [.slots] [] s u ∧ u.reg pg off = mix (maskOf 1 0 ||| maskOf 63 32) (s.reg pg off) (setBit v 0 true) ∧
        u.cregEn tile peat r = true ∧
        (∀ k, k < s.cregCount tile peat r → u.slot tile peat r k = if fbit v 1 then .full else .empty) ∧
        (∀ (i : TileIx) (p : Bool) (q : Fin 32) (k : Fin 16384), (i, p, q) ≠ (tile, peat, r) → u.slot i p q k = s.slot i p q k))) ∧
    (s.cregEn tile peat r = false → s.regionFits tile peat r = false → Does (.cregEnable who tile peat r v) s refused) ∧
    (s.cregEn tile peat r = true → v &&& fixed = s.reg pg off &&& fixed →
      Does (.cregDisable who tile peat r v) s (fun u => ∃ m,
        Writes pg off [.slots, .crus, .rx] [] s m ∧ m.cregEn tile peat r = false ∧
        (∀ k : Fin 16384, m.slot tile peat r k = .empty) ∧
        (∀ (i : TileIx) (p : Bool) (q : Fin 32) (k : Fin 16384), (i, p, q) ≠ (tile, peat, r) → m.slot i p q k = s.slot i p q k) ∧
        (∀ k : CruIx, m.cru tile k = (s.cru tile k).forget peat r) ∧
        Store.get [] m.rx tile = (Store.get [] s.rx tile).map (fun x =>
          { x with claims := x.claims.map (Claim.kill peat r), todo := x.todo.map (Claim.kill peat r) }) ∧
        u = m.resumeRegion tile peat r ∧
        ((∀ (k : CruIx) (n : UnitKind) (c : UCtx), m.waitingWork tile k n = some c → waitsIn peat r c.w.want = false) →
          (m.probesAt tile).all (fun q => !waitsIn peat r q.want) = true → u = m))) ∧
    (s.cregEn tile peat r = true → v &&& fixed ≠ s.reg pg off &&& fixed →
      Does (.cregEnable who tile peat r v) s refused ∧ Does (.cregDisable who tile peat r v) s refused) ∧
    (s.cregEn tile peat r = true → v &&& fixed = s.reg pg off &&& fixed →
      Does (.cregEnable who tile peat r v) s (fun u => Writes pg off [] [] s u ∧ u.reg pg off = s.reg pg off)) ∧
    (s.cregEn tile peat r = false → Does (.cregDisable who tile peat r v) s (fun u =>
      Writes pg off [] [] s u ∧ u.reg pg off = mix (maskOf 1 0 ||| maskOf 63 32) (s.reg pg off) (setBit v 0 false)))) ∧
  (∀ (c : Claim) (who : Requester) (tile : TileIx) (peat : Bool) (v : W64) (s : State),
    (s.slotReady c = true → c.dead = false →
      let at_ (u : State) : SlotState := u.slot c.tile c.peat c.reg c.slot
      at_ s = (if c.write then .empty else .full) ∧ at_ (s.takeSlot c) = (if c.write then .filling else .draining) ∧
      at_ ((s.takeSlot c).endClaims [c]) = (if c.write then .full else .empty) ∧
      at_ ((s.takeSlot c).revertClaims [c]) = (if c.write then .empty else .full)) ∧
    (let pg := cregPage tile peat
     let r := s.rf pg Reg.CSLOT_SEL (if peat then 3 else 4) 0
     let n := s.rf pg Reg.CSLOT_SEL (if peat then 29 else 25) 16
     let now := s.slot tile peat r n
     let code := fld v 1 0
     s.admits who pg Reg.CSLOT_STATE = true →
     (s.cregEn tile peat r = true → n < s.cregCount tile peat r → (now = .empty ∨ now = .full) → (code = 0 ∨ code = 2) →
       Does (.cslotStateWrite who tile peat v) s (fun u =>
         Writes pg Reg.CSLOT_STATE [.slots] [] s u ∧
         u.slots = Store.set .empty s.slots (slotKey tile peat r n) (if code = 0 then .empty else .full))) ∧
     (s.cregEn tile peat r = true → n < s.cregCount tile peat r → (now = .filling ∨ now = .draining ∨ code = 1 ∨ code = 3) →
       Does (.cslotStateWrite who tile peat v) s (fun u => Writes pg Reg.CSLOT_STATE [.out, .fns] (evtRegs pg) s u ∧ Raised u pg 3)) ∧
     (s.cregEn tile peat r = false ∨ s.cregCount tile peat r ≤ n →
       Does (.cslotStateWrite who tile peat v) s (fun u => Writes pg Reg.CSLOT_STATE [] [] s u))))

/-- R198, R317, R332. A WR packet that its tile accepts and whose slots are claimed writes its bytes at the place that it names, in the
tile's pool or peat, and nowhere else. The bytes of the move are counted; the last of them ends the move's slot accesses, adds to the gate
that the packet names and answers MOVE_DONE with the byte count. A place outside the memory is refused. A packet whose memory cannot be
reached, or that comes behind another of its move that waits, waits; one whose slot is not ready waits in the probe table.

R198, R201, R317, R332. An RD packet that its tile accepts and whose slots are claimed is answered with the bytes of the place that it
names, unless the place lies outside the memory, is longer than a packet or holds a word with an uncorrectable error, which is refused. It
changes no byte. An error that is found is recorded. -/
def Obligations.MeshAccesses : Prop :=
  (∀ (i : TileIx) (p : Packet) (s s1 : State), s.accepts i opWr p = true →
    let pl := placeOf p.addr.toNat
    let n := p.payload.length
    let total := bits p.operand.toNat 47 0
    let m := (s1.rxOf i p total).1
    let ready := (s.takePkt p).rxReady i (s.probesAt i).length n p
    let stored (u : State) : Prop :=
      u.pool = (if pl.pool then putBytes s.pool (poolKey i pl.cru pl.off) p.payload else s.pool) ∧
      u.peat = (if pl.pool then s.peat else putBytes s.peat (peatKey i pl.off) p.payload)
    let regs : List (Nat × Nat) :=
      [counter (poolPage i) 0, counter (poolPage i) 1, counter (peatPage i) 0, counter (peatPage i) 1, counter (gatePage i) 3,
        counter (cetisPage i) 10]
    let touched := s1.touchClaims pl.mem pl.off n m.claims
    s.moveParked i p = false →
    (pl.inside n = true → s.placeReady i pl n = true → ready = (true, s1) → m.dead = false →
      (m.bytes + n < total →
        Does (.wr p) s (fun u => stored u ∧ RegsOutside regs s u ∧ s.answered u i p [] ∧ u.gates = s.gates ∧ u.slots = touched.1.slots ∧
          (u.rxOf i p total).1 = { m with bytes := m.bytes + n, total := total, claims := touched.2 })) ∧
      (total ≤ m.bytes + n → s.canSend i (replyTo p opMoveDone 0 total []) = true →
        Does (.wr p) s (fun u => stored u ∧ RegsOutside regs s u ∧ s.answered u i p [replyTo p opMoveDone 0 total []] ∧
          u.slots = (touched.1.endClaims touched.2).slots ∧
          ∀ (j : TileIx) (g : BitVec 10), u.gate j g.toNat =
            s.gate j g.toNat + (if bit p.operand.toNat 58 = true ∧ j = i ∧ g.toNat = bits p.operand.toNat 57 48 then 1 else 0)))) ∧
    (pl.inside n = true → s.placeReady i pl n = true → ready = (true, s1) → m.dead = true →
      Does (.wr p) s (fun u => u.pool = s.pool ∧ u.peat = s.peat ∧ u.gates = s.gates ∧ u.regs = s.regs ∧ s.answered u i p [])) ∧
    (pl.inside n = true → s.placeReady i pl n = true → ready = (false, s1) →
      Does (.wr p) s (fun u => u = s1 ∧ u.pool = s.pool ∧ u.peat = s.peat ∧ s.answered u i p [] ∧
        (u.probesAt i).map (·.pkt) = (s.probesAt i).map (·.pkt) ++ [p])) ∧
    (pl.inside n = false → ready = (true, s1) → s.canSend i (replyTo p opRefuse p.addr.toNat 1 []) = true →
      Does (.wr p) s (fun u => u.pool = s.pool ∧ u.peat = s.peat ∧ RegsOutside [counter (cetisPage i) 10] s u ∧
        s.answered u i p [replyTo p opRefuse p.addr.toNat 1 []])) ∧
    (pl.inside n = true → s.placeReady i pl n = false → Does (.wr p) s (fun u => u = s))) ∧
  (∀ (i : TileIx) (p : Packet) (e : EccResult) (s s1 : State), s.accepts i opRd p = true →
    let pl := placeOf p.addr.toNat
    let n := bits p.operand.toNat 15 0
    s.moveParked i p = false → (s.takePkt p).rxReady i (s.probesAt i).length n p = (true, s1) →
    (s1.rxOf i p 0).1.claims.all (fun c => !c.write) = true →
    let same (u : State) : Prop := u.pool = s.pool ∧ u.peat = s.peat ∧ u.poolBad = s.poolBad ∧ u.peatBad = s.peatBad
    let data := replyTo p opRdData (bits p.operand.toNat 63 16) n (s.readPlace i pl n)
    let refusal := replyTo p opRefuse p.addr.toNat 1 []
    let page := if pl.pool then poolPage i else peatPage i
    let bad := s.placePoisoned i pl n || (decide (e = .uncorrectable) && decide (n ≠ 0))
    (pl.inside n = true → n ≤ 4096 → s.placeReady i pl n = true → bad = false → s.canSend i data = true →
      Does (.rd p e) s (fun u => same u ∧ s.answered u i p [data] ∧
        (e = .clean → RegsOutside [counter (poolPage i) 0, counter (poolPage i) 1, counter (peatPage i) 0, counter (cetisPage i) 10] s u) ∧
        (∀ sy, e = .corrected sy → n ≠ 0 → Raised u page 0 ∧ Counts s u page (if pl.pool then 2 else 4) 1))) ∧
    (pl.inside n = true → n ≤ 4096 → s.placeReady i pl n = true → bad = true → s.canSend i refusal = true →
      Does (.rd p e) s (fun u => same u ∧ s.answered u i p [refusal] ∧ Raised u page 1 ∧ Counts s u page (if pl.pool then 3 else 5) 1)) ∧
    ((pl.inside n = false ∨ (4096 < n ∧ s.placeReady i pl n = true)) → s.canSend i refusal = true →
      Does (.rd p e) s (fun u => same u ∧ s.answered u i p [refusal] ∧ RegsOutside [counter (cetisPage i) 10] s u)) ∧
    (pl.inside n = true → s.placeReady i pl n = false → Does (.rd p e) s (fun u => u = s)))

/-- R163, R164, R332, R341. A runner's move goes on as its packets come back. The bytes that RD_DATA brings go to the destination row that
their linear offset names, here in the crucible's own pool, and those that MOVE_DONE acknowledges are counted; the move ends with its
last byte, and not before. -/
def Obligations.MoveProgress : Prop :=
  ∀ (i : TileIx) (p : Packet) (c : UCtx) (j : RunJob) (left ph : Nat) (s : State),
    s.moveOf i p.tag.toNat = some c → c.w.phase = .moving left → runJob c.w.instr = some j → s.canAdd c = true →
    let d := c.regs j.o.dD
    let off := (d.rowOffs.getD (p.addr.toNat / d.d0.toNat) 0) + p.addr.toNat % d.d0.toNat
    let acked := bits p.operand.toNat 47 0
    let gs := if j.o.rge && decide (s.spaceOf c.t d.addr ≠ spRemote) then [j.o.rg] else []
    let waits (n : Nat) (u : State) : Prop :=
      (u.cru c.t.tile c.t.cru).runner =
        ((s.cru c.t.tile c.t.cru).runner).map (fun w => if w.iid = c.w.iid then { w with phase := .moving (left - n) } else w)
    (s.accepts i opMoveDone p = true →
      (acked < left → Does (.moveDone p) s (fun u => Frame [.arrivals, .crus] s u ∧ CrusOutside c.t s u ∧ s.answered u i p [] ∧ waits acked u)) ∧
      (left ≤ acked → Does (.moveDone p) s (fun u => s.answered u i p [] ∧ Ended c .runner (gs ++ doneGates j.h) 0 [.arrivals] [] s u))) ∧
    (s.accepts i opRdData p = true → s.physOf c.t d.addr = (spPool, ph) → s.piecesReady c [s.rdPiece c j p] = true →
      s.lateNeeds c = [] → c.w.claims = [] → c.w.since = none → c.w.want = none →
      let pool := putBytes s.pool (poolKey c.t.tile c.t.cru (ph + off)) p.payload
      let regs := [counter (poolPage i) 0, counter (poolPage i) 1]
      (p.payload.length < left → Does (.rdData p) s (fun u =>
        Frame [.arrivals, .crus, .slots, .pool, .poolBad, .regs] s u ∧ RegsOutside regs s u ∧ CrusOutside c.t s u ∧ u.pool = pool ∧
        s.answered u i p [] ∧ waits p.payload.length u)) ∧
      (left ≤ p.payload.length → Does (.rdData p) s (fun u => u.pool = pool ∧ s.answered u i p [] ∧
        Ended c .runner (gs ++ doneGates j.h) 0 [.arrivals, .pool, .poolBad] regs s u)))

/-- R192, R194, R198. A PROBE that its tile accepts claims the first slot of its operand: where it is ready, GRANT goes back and the record
of the move keeps the slot it has and the slots that it has still to claim; where it is not, or an access that comes before is after it,
the probe waits in the probe table of its destination, and that is counted. A waiting probe that finds its slot claimable goes on and
leaves the table. A GRANT lets the probing move send its bytes to the tile that its destination names.

R96 to R99, R198, R201. A REFUSE delivered to the tile of a move faults the move's task: with SLOT_TIMEOUT at the slot that the packet
names where its operand is 0, counted and raised on the page of the slot's memory, and with REMOTE at the far operand where it is 1. -/
def Obligations.SlotProbes : Prop :=
  (∀ (i : TileIx) (p : Packet) (s : State),
    let needs := (s.probeNeeds i p).map (·.claim i)
    let grant := replyTo p opGrant p.addr.toNat 0 []
    let page (c : Claim) := cregPage i c.peat
    let slot (c : Claim) := if c.peat then 6 else 4
    let total := ((s.probePieces p).map (·.n)).sum
    let record (c : Claim) (r : List Claim) : RxMove :=
      { src := p.src.toNat, tag := p.tag.toNat, bytes := 0, total := total, claims := [c], todo := r }
    (s.accepts i opProbe p = true → (s.probesAt i).length < probeTable →
      (needs = [] → s.canSend i grant = true → Does (.probe p) s (fun u => u.slots = s.slots ∧ s.answered u i p [grant] ∧
        RegsOutside [counter (cetisPage i) 10] s u)) ∧
      (∀ c r, needs = c :: r → s.claimable i (probeRank (s.probesAt i).length) c = true → s.canSend i grant = true →
        Does (.probe p) s (fun u => u.slots = (s.takeSlot c).slots ∧ s.answered u i p [grant] ∧
          RegsOutside [counter (cetisPage i) 10] s u ∧ (u.rxOf i p 0).1 = record c r)) ∧
      (∀ c r, needs = c :: r → s.claimable i (probeRank (s.probesAt i).length) c = false →
        Does (.probe p) s (fun u => u.slots = s.slots ∧ s.answered u i p [] ∧ RegsOutside [counter (page c) (slot c)] s u ∧
          Counts s u (page c) (slot c) 1 ∧ u.probesAt i = s.probesAt i ++ [⟨p, s.up, some c⟩]))) ∧
    (∀ (k : Nat) (q : Probe), (s.probesAt i)[k]? = some q → q.pkt = p → p.op.toNat = opProbe →
      (∀ c r, needs = c :: r → s.claimable i (probeRank k) c = true → s.canSend i grant = true →
        Does (.taggedAccessResume (.probe i k)) s (fun u => u.slots = (s.takeSlot c).slots ∧ s.injected u i [grant] ∧
          RegsOutside [counter (cetisPage i) 10] s u ∧ u.probesAt i = (s.probesAt i).eraseIdx k ∧ (u.rxOf i p 0).1 = record c r)) ∧
      (∀ c r, needs = c :: r → s.claimable i (probeRank k) c = false → q.want = some c →
        Does (.taggedAccessResume (.probe i k)) s (fun u => u = s))) ∧
    (∀ (c : UCtx) (j : RunJob) (d : Nat), s.accepts i opGrant p = true →
      s.moveOf i p.tag.toNat = some c → c.w.phase = .probing → runJob c.w.instr = some j →
      c.t.tile = i → s.wantsIdx c j = false → s.spaceOf c.t (c.regs j.o.dD).addr = spRemote → s.farTile c (c.regs j.o.dD) = some d →
      let s0 := if j.o.rge then s.gbFlushAll c.t.tile c.t.cru else s
      let rows := s.runRows c j
      let total := (rows.map (fun r => r.2.length)).sum
      let sends := writeSends false d (s.physOf c.t (c.regs j.o.dD).addr).2 c.w.tag (wrOperand total j.o.rg.toNat j.o.rge) rows
      (∀ m ∈ sends, s.canSend i m = true) →
      Does (.grant p) s (fun u => s.answered u i p sends ∧ u.peat = s0.peat ∧
        ∀ w ∈ (u.cru c.t.tile c.t.cru).runner, w.iid = c.w.iid → w.phase = .moving total ∧ w.tag = c.w.tag))) ∧
  (∀ (i : TileIx) (p : Packet) (c : UCtx) (j : RunJob) (s : State), s.accepts i opRefuse p = true →
    s.moveOf i p.tag.toNat = some c → runJob c.w.instr = some j → c.t.tile = i → (s.taskAt c.t).faultSeq = none →
    let far := if s.wantsIdx c j then c.regs j.o.dI
      else if farSpace (s.spaceOf c.t (c.regs j.o.dD).addr) then c.regs j.o.dD else c.regs j.o.dS
    let ph := (s.physOf c.t far.addr).2
    let page := cregPage i (!(placeOf p.addr.toNat).pool)
    let slot := if (placeOf p.addr.toNat).pool then 5 else 7
    let fs : List Field := [.arrivals, .slots, .fresh, .pool, .poolBad, .peat, .peatBad, .mire, .probes, .rx]
    (p.operand = 0 → Does (.refuse p) s (fun u => Counts s u page slot 1 ∧ Raised u page 2 ∧ u.arrivals = s.arrivals.erase p ∧
      FaultedAt c.t c.w.seq fSlotTimeout 5 (far.addr + p.addr - BitVec.ofNat 48 (ph % 2 ^ 41)) c.w.pc fs
        (gbRegs i ++ (counter page slot :: evtRegs page)) s u)) ∧
    (p.operand ≠ 0 → Does (.refuse p) s (fun u => u.arrivals = s.arrivals.erase p ∧
      FaultedAt c.t c.w.seq fRemote 5 far.addr c.w.pc fs (gbRegs i) s u)))

/-- R242, R243, R267, R332. The packets of the loop. A place request that reaches a bed's entry tile takes the bed's first free normal
place, with the sender and tag that may fill it, and is answered PLACE_OK, or it waits its turn. PLACE_OK sends the wavefront to the
place. Bytes of a wavefront are laid into the place at their offset; the last of them makes the place full, stamps the wavefront and is
answered MOVE_DONE. Bytes of a pass go to peat where the packet says. -/
def Obligations.LoopPackets : Prop :=
  ∀ (i : TileIx) (p : Packet) (s : State),
    let others (b k : Nat) (u : State) : Prop := ∀ b' k', k' < 128 → k < 128 → (b', k') ≠ (b, k) → u.place b' k' = s.place b' k'
    (s.accepts i opPlaceReq p = true → ∀ b : BedIx, p.addr.toNat = b.val → s.bedValid b = true → s.entryTile b = some i.val →
      (∀ k, s.freeNormal b = some k → s.canSend i (replyTo p opPlaceOk b k []) = true →
        Does (.placeReq p) s (fun u => s.answered u i p [replyTo p opPlaceOk b k []] ∧ others b k u ∧
          u.place b k = { used := true, src := p.src.toNat, tag := p.tag.toNat } ∧ u.beds = s.beds)) ∧
      (s.freeNormal b = none → Does (.placeReq p) s (fun u => s.answered u i p [] ∧ u.places = s.places ∧
        u.bed b = { s.bed b with asks := (s.bed b).asks ++ [p] }))) ∧
    (∀ m, s.accepts i opPlaceOk p = true → s.waveOf i p.tag.toNat = some m → m.tile = i.val →
      let sends := waveSends p.src.toNat m.tag (waveOperand p.addr.toNat (bits p.operand.toNat 6 0) false false false m.wave.length) 0
        (waveHead m.wave).cls m.wave
      (∀ x ∈ sends, s.canSend i x = true) →
      Does (.placeOk p) s (fun u => s.answered u i p sends ∧ u.places = s.places ∧ u.wmoves = s.wmoves)) ∧
    (s.accepts i opWave p = true → bit p.operand.toNat 16 = true →
      let b := bits p.operand.toNat 7 0
      Does (.wave p) s (fun u => s.answered u i p [] ∧ u.places = s.places ∧
        u.peat = putBytes s.peat (peatKey i p.addr.toNat) p.payload ∧
        u.bed b = { s.bed b with passes := (s.bed b).passes.map (fun q =>
          if decide (q.num % 2 = 1) = bit p.operand.toNat 18 then
            { q with got := Store.upd 0 q.got i (fun n => n + p.payload.length) } else q) })) ∧
    (s.accepts i opWave p = true → bit p.operand.toNat 16 = false → bit p.operand.toNat 17 = false →
      let b := bits p.operand.toNat 7 0
      let k := bits p.operand.toNat 15 8
      let total := bits p.operand.toNat 63 32
      let x := s.place b k
      let data := overlay (padTo total x.data) p.addr.toNat p.payload
      let got := x.got + p.payload.length
      k < 128 → x.used = true → x.full = false → x.src = p.src.toNat → x.tag = p.tag.toNat →
      (got < total → Does (.wave p) s (fun u => s.answered u i p [] ∧ others b k u ∧ u.place b k = { x with got := got, data := data })) ∧
      (total ≤ got → s.current i (waveHead data) = true → s.canSend i (replyTo p opMoveDone 0 total []) = true →
        Does (.wave p) s (fun u => s.answered u i p [replyTo p opMoveDone 0 total []] ∧ others b k u ∧
          u.place b k = { x with got := got, full := true, data := withHead data { waveHead data with enq := s.now.toNat } })))

/-- R267, R317, R320. GEN sets its tile's generation of a stream and no other tile's or stream's. A management packet with SYS = 1 of a
sluice die that changes an epoch sets one polder's epoch at its tile, or at its sluice die; one that carries a register write writes the
register of a page of its unit; one from anywhere else does nothing.

R315, R320, R322, R326, R329, R330, R335, R336. A packet that waits in a router leaves by the output that it chose when the arbitration
grants it: its flits are counted, on FOREIGN too where the link has another owner, and the next router takes it in; there one that a port
fence bars, whose operation is not defined or whose epoch is not the router's is dropped, with its cause recorded. A flit that fails its
check is replayed, and a lane whose flit failed eight replays is retired in its direction, which both ends report. -/
def Obligations.MeshRouting : Prop :=
  (∀ (p : Packet) (s : State),
    let o := p.operand.toNat
    let applies : Bool := p.sys && isDie p.src.toNat
    (∀ i : TileIx,
      (s.accepts i opGen p = true →
        Does (.genUpdate p) s (fun u => ∀ (j : TileIx) (n : StreamIx), u.genAt j n.toNat =
          if j = i ∧ n.toNat = p.addr.toNat % 4096 then BitVec.ofNat 8 o else s.genAt j n.toNat)) ∧
      (s.accepts i opMgmt p = true →
        (applies = false → Does (.mgmt p) s (fun u => u = s.takePkt p)) ∧
        (applies = true → mgKind o = 1 → Does (.mgmt p) s (fun u => s.answered u i p [] ∧ RegsOutside [(cetisPage i, Reg.EPOCH)] s u ∧
          ∀ q : PolderIx, u.epochOf i q = if q.val = bits o 2 0 then bits o 11 8 else s.epochOf i q)) ∧
        (applies = true → mgKind o = 2 → (unitPages i).contains (p.addr.toNat / 4096) = true →
          Does (.mgmt p) s (fun u => u = (s.takePkt p).writeReg (mgWho o) (p.addr.toNat / 4096) (p.addr.toNat % 4096)
            (if bit o 4 then .b64 else .b32) (BitVec.ofNat 64 (leAt p.payload 0 8)))))) ∧
    (∀ d : DieIx, Packet.wf p = true → s.arrivable opMgmt p = true → p.dst.toNat = dieEnd d → Packet.intact p = true →
      (p.sys = true ∨ p.epoch = Store.get 0 s.rimEpoch (d * 8 + p.polder.toNat)) → (applies = true → mgKind o = 1) →
      Does (.mgmt p) s (fun u => u.arrivals = s.arrivals.erase p ∧ u.regs = s.regs ∧
        ∀ k, Store.get 0 u.rimEpoch k =
          if applies = true ∧ k = d * 8 + bits o 2 0 then BitVec.ofNat 4 (bits o 11 8) else Store.get 0 s.rimEpoch k))) ∧
  (∀ (i : TileIx) (inPort : Fin 6) (port : Fin 5) (lane : Fin 8) (p : Packet) (s : State),
    let pg := cetisPage i
    let dropped (j cause event : Nat) (u : State) : Prop :=
      Counts s u (cetisPage j) 6 1 ∧ Raised u (cetisPage j) event ∧
      u.reg (cetisPage j) Reg.DROP_LAST =
        word [(0, p.src.toNat), (8, p.dst.toNat), (16, p.polder.toNat), (19, p.epoch.toNat), (23, cause), (32, s.ts)]
    (∀ (t : Transit) (k l : Nat), Packet.wf p = true → s.net.find? (fun t => t.tile = i.val && t.inPort = inPort.val && t.pkt = p) = some t →
      t.out = some (k, l) →
      (s.fencedPort i k = true → Packet.leavesFence p = false → Does (.packetHop i inPort p) s (fun u =>
        u.net = s.net.erase t ∧ dropped i 2 1 u)) ∧
      (∀ n turn, (s.fencedPort i k = false ∨ Packet.leavesFence p = true) → s.useLane i k l = some n →
        (∀ g, s.grantOf i k n = (g, turn) → g ≠ some t → Does (.packetHop i inPort p) s (fun u => u = s)) ∧
        (s.grantOf i k n = (some t, turn) →
          (5 ≤ k → Does (.packetHop i inPort p) s (fun u => u.net = s.net.erase t ∧ u.arrivals = s.arrivals ++ [p])) ∧
          (k = 4 → Store.get false s.dieFence i = false → Does (.packetHop i inPort p) s (fun u =>
            u.net = s.net.erase t ∧ u.arrivals = s.arrivals ++ [p] ∧ Counts s u pg 4 (Packet.flits p))) ∧
          (∀ d, neighbour i k = some d → k < 4 →
            let barred := s.fencedPort d ((k + 2) % 4) && !Packet.passesFence p
            let stale := !p.sys && decide (p.epoch.toNat ≠ s.epochOf d p.polder.toNat)
            Does (.packetHop i inPort p) s (fun u =>
              Counts s u pg k (Packet.flits p) ∧ Counts s u pg 9 (if s.linkClass t = 3 then 1 else 0) ∧
              Counts s u pg 5 (match s.linkOwner i k with
                | some o => if p.vc.toNat % 2 = 0 ∧ o ≠ p.polder.toNat then Packet.flits p else 0
                | none => 0) ∧
              (barred = true → u.net = s.net.erase t ∧ dropped d 2 1 u) ∧
              (barred = false → opDefined p.op.toNat = false → u.net = s.net.erase t ∧ dropped d 4 4 u) ∧
              (barred = false → opDefined p.op.toNat = true → stale = true → u.net = s.net.erase t ∧ dropped d 1 0 u) ∧
              (∀ k', barred = false → opDefined p.op.toNat = true → stale = false → s.outPort d p = some k' → s.fencedPort d k' = false →
                ∃ x, u.net = s.net.erase t ++ [x] ∧ x.pkt = p ∧ x.tile = d ∧ x.inPort = (k + 2) % 4 ∧ x.lane = n ∧
                  x.out.map (·.1) = some k')))))) ∧
    (s.livePort i port = true → s.rb pg Reg.LANES (8 * port + lane) = true →
      let x := s.laneAt i port lane
      (x.sent ≠ [] → x.fails < 9 → Does (.flitCrcFail i port lane) s (fun u =>
        Frame [.regs, .laneTx] s u ∧ RegsOutside [counter pg 8] s u ∧ Counts s u pg 8 (if x.fails < 8 then 1 else 0) ∧
        u.laneAt i port lane = { x with fails := x.fails + 1 })) ∧
      (9 ≤ x.fails → Does (.laneRetire i port lane) s (fun u => u.rb pg Reg.LANES (8 * port + lane) = false ∧ Raised u pg 5 ∧
        (∀ j, j < 40 → j ≠ 8 * port.val + lane.val → u.rb pg Reg.LANES j = s.rb pg Reg.LANES j) ∧
        ∀ e, neighbour i port = some e → Raised u (cetisPage e) 5 ∧ u.reg (cetisPage e) Reg.LANES = s.reg (cetisPage e) Reg.LANES))))

/-- R320, R341, R342, R343, R345, R360, R361. A mire request that reaches its sluice die with its epoch. A read that lies in the mire, on
stacks that are READY and free of poison, is answered RD_DATA with its bytes, counted per stack; a write there is stored and answered
MOVE_DONE; any other request is refused and changes no byte. A burst that is uncorrectable, or that landed at another place, poisons its
granule and refuses the read. Requests of another epoch are dropped and counted. -/
def Obligations.MireRequests : Prop :=
  ∀ (d : DieIx) (p : Packet) (e : EccResult) (burst landed : Addr) (s : State),
    Packet.wf p = true → p.dst.toNat = dieEnd d → Packet.intact p = true →
    let a := p.addr.toNat
    let n := bits p.operand.toNat 15 0
    let reply (u : State) (op operand addr : Nat) (payload : List Byte) : Prop :=
      ∃ x : Transit, u.net = s.net ++ [x] ∧ u.arrivals = s.arrivals.erase p ∧ x.tile = p.gwy.toNat ∧ x.inPort = 4 ∧
        x.pkt.dst = p.src ∧ x.pkt.src.toNat = dieEnd d ∧ x.pkt.op.toNat = op ∧ x.pkt.gwy = p.gwy ∧
        x.pkt.tag = p.tag ∧ x.pkt.polder = p.polder ∧ x.pkt.operand = BitVec.ofNat 64 operand ∧ x.pkt.addr = BitVec.ofNat 48 addr ∧
        x.pkt.payload = payload ∧ Packet.intact x.pkt = true
    let same (u : State) : Prop := u.mire = s.mire ∧ u.mireBad = s.mireBad
    let asked := decide (a ≤ burst.toNat) && decide (burst.toNat < a + n)
    ((p.sys = true ∨ p.epoch = Store.get 0 s.rimEpoch (d * 8 + p.polder.toNat)) → s.dieCanReply d p = true →
      (s.arrivable opMireRd p = true →
        (s.mireReady a n = true → s.mirePoisoned a n = false →
          ((n = 0 ∨ (asked = true ∧ burstCheck burst.toNat landed.toNat e = .clean)) →
            Does (.mireRd p e burst landed) s (fun u => same u ∧ reply u opRdData n (bits p.operand.toNat 63 16) (s.readMire a n))) ∧
          (∀ sy, asked = true → burstCheck burst.toNat landed.toNat e = .corrected sy →
            Does (.mireRd p e burst landed) s (fun u => same u ∧ Raised u (mirePage (mireStack burst.toNat)) 0 ∧
              reply u opRdData n (bits p.operand.toNat 63 16) (s.readMire a n))) ∧
          (asked = true → burstCheck burst.toNat landed.toNat e = .uncorrectable →
            Does (.mireRd p e burst landed) s (fun u => u.mire = s.mire ∧
              u.mireBad = Store.set false s.mireBad (burst.toNat / 256) true ∧ Raised u (mirePage (mireStack burst.toNat)) 1 ∧
              reply u opRefuse 1 a []))) ∧
        ((s.mireReady a n = false ∨ s.mirePoisoned a n = true) →
          Does (.mireRd p e burst landed) s (fun u => same u ∧ reply u opRefuse 1 a []))) ∧
      (s.arrivable opMireWr p = true →
        (s.mireReady a p.payload.length = true →
          Does (.mireWr p) s (fun u => u.mire = putBytes s.mire a p.payload ∧ reply u opMoveDone p.payload.length 0 [])) ∧
        (s.mireReady a p.payload.length = false → Does (.mireWr p) s (fun u => same u ∧ reply u opRefuse 1 a [])))) ∧
    (p.sys = false → p.epoch ≠ Store.get 0 s.rimEpoch (d * 8 + p.polder.toNat) →
      let page := mirePage (4 * d + mireSub a)
      let dropped (u : State) : Prop :=
        same u ∧ u.net = s.net ∧ u.arrivals = s.arrivals.erase p ∧ RegsOutside [counter page 6] s u ∧ Counts s u page 6 1
      (s.arrivable opMireRd p = true → Does (.mireRd p e burst landed) s dropped) ∧
      (s.arrivable opMireWr p = true → Does (.mireWr p) s dropped))

/-- R349, R352, R353, R359. Page commands. A write of PG_GO pushes the operation, tile, entry and new peat offset of PG_ARG0 and PG_ARG1,
unless 64 commands wait already. The command at the front of the queue reaches its tile. One that names no entry, no live tile or a
fenced polder fails with that cause and changes no entry; one whose entry no other command works on is applied as the table of R352
says, and a FETCH that finds its page SPILLING is held until the spill decides it. -/
def Obligations.PageCommands : Prop :=
  ∀ (who : Requester) (d : DieIx) (v : W64) (s : State),
    let pg := mire0 d
    let queue := Store.get [] s.pgQueue d
    let arg : PgCmd := ⟨s.pgPushed, d, s.rf pg Reg.PG_ARG0 46 40, s.rf pg Reg.PG_ARG0 50 48, s.rf pg Reg.PG_ARG0 32 0, s.rf pg Reg.PG_ARG1 32 0,
      .arriving, []⟩
    (∀ c, ((c = Instr.pgSpill who d v ∧ arg.op = pgSpill) ∨ (c = Instr.pgFetch who d v ∧ arg.op = pgFetch) ∨
        (c = Instr.pgDrop who d v ∧ arg.op = pgDrop)) → s.admits who pg Reg.PG_GO = true →
      (queue.length < 64 → Does c s (fun u => Writes pg Reg.PG_GO [.pgQueue, .pgPushed] [] s u ∧
        u.pgQueue = Store.set [] s.pgQueue d (queue ++ [arg]) ∧ u.pgPushed = s.pgPushed + 1)) ∧
      (64 ≤ queue.length → Does c s (fun u => Writes pg Reg.PG_GO [.out, .fns] (evtRegs pg) s u ∧ Raised u pg 5))) ∧
    (∀ (c : PgCmd) (r : List PgCmd), queue = c :: r → c.die = d.val →
      let e := s.pageEntry c.tile c.entry
      let gone (u : State) : Prop := u.pgQueue = Store.set [] s.pgQueue d r
      let fails (cause : Nat) : Prop := Does (.pageCommandArrive d) s (fun u =>
        gone u ∧ u.peat = s.peat ∧ u.movers = s.movers ∧ RegsOutside ([(pg, Reg.PG_LAST), counter pg 9] ++ evtRegs pg) s u ∧ Counts s u pg 9 1 ∧
        Raised u pg 4 ∧ u.reg pg Reg.PG_LAST = word [(0, c.entry), (40, c.tile), (48, c.op), (52, cause)])
      let ok : Prop := c.entry % 16 = 0 ∧ c.entry + 16 ≤ peatSize
      (¬ok → fails pgCauseEntry) ∧ (ok → s.live c.tile = false → fails pgCauseTile) ∧
      (ok → s.live c.tile = true → s.fenced (s.polderOf c.tile) = true → fails pgCauseFenced) ∧
      (ok → s.live c.tile = true → s.fenced (s.polderOf c.tile) = false → (∀ x ∈ s.moverOf c.tile, x.phase ≠ .arriving) →
        ∀ y, s.pgRunning c.tile c.entry = some y → (y.phase = .drainBeforeCopy ∨ y.phase = .copying) → c.op = pgFetch →
        Does (.pageCommandArrive d) s (fun u =>
          gone u ∧ u.peat = s.peat ∧ u.regs = s.regs ∧ u.moverOf c.tile = s.moverOf c.tile ++ [{ c with phase := .held }])) ∧
      (ok → s.live c.tile = true → s.fenced (s.polderOf c.tile) = false → ((s.moverOf c.tile).filter (·.runs)).length < 16 →
        (∀ x ∈ s.moverOf c.tile, x.entry ≠ c.entry ∧ x.id ≠ c.id ∧ x.phase ≠ .arriving) →
        let begins (st peat : Nat) (ph : PgPhase) : Prop := Does (.pageCommandArrive d) s (fun u =>
          gone u ∧ u.peat = (s.setPageEntry c.tile c.entry st peat).peat ∧
          u.moverOf c.tile = s.moverOf c.tile ++ [{ c with phase := ph, drain := s.attnNow c.tile }])
        let completes : Prop := Does (.pageCommandArrive d) s (fun u =>
          gone u ∧ u.peat = s.peat ∧ u.moverOf c.tile = s.moverOf c.tile ∧ RegsOutside [counter pg 8] s u ∧ Counts s u pg 8 1)
        (e.state = pgResident → c.op = pgSpill → begins pgSpilling e.peat .drainBeforeCopy) ∧
        (e.state = pgSpilled → c.op = pgFetch → begins pgFetching c.peat .fetching) ∧
        ((e.state = pgResident ∨ e.state = pgSpilled) → c.op = pgDrop → begins pgAbsent e.peat .drainAfterDrop) ∧
        ((e.state = pgResident ∧ c.op = pgFetch) ∨ (e.state = pgSpilled ∧ c.op = pgSpill) ∨ (e.state = pgAbsent ∧ c.op = pgDrop) →
          completes)))

/-- R343, R350 to R353. The steps of a page command that runs. An attention drain that ends lets a spill's copy begin, or ends the command;
the last byte of a spill's copy makes the page SPILLED, with its peat copy's bytes in the mire, or leaves it RESIDENT where a FETCH is held, and ends both; the last byte of a fetch makes it
RESIDENT, with the mire copy's bytes in peat; and a read that a controller refuses leaves it SPILLED and fails the command with UE. -/
def Obligations.PageMoves : Prop :=
  ∀ (i : TileIx) (entry : Nat) (c : PgCmd) (s : State),
    s.pgRunning i entry = some c → c.tile = i.val → c.entry = entry → entry + 16 ≤ peatSize → (∀ x ∈ s.moverOf i, (x.id = c.id → x = c) ∧ x.phase ≠ .arriving) →
    let pg := mire0 c.die
    let e := s.pageEntry i entry
    let n := s.pageBytes i entry
    let held := (s.moverOf i).filter (fun x => x.entry = entry && x.phase = .held)
    let others := (s.moverOf i).filter (fun x => x.id ≠ c.id)
    let on (ph : PgPhase) (drain : List (Nat × Nat)) : List PgCmd :=
      (s.moverOf i).map (fun x => if x.id = c.id then { x with phase := ph, drain := drain } else x)
    let ends (u : State) : Prop := u.moverOf i = others ∧ Counts s u pg 8 1
    (s.drained c = true → c.phase = .drainBeforeCopy → Does (.attentionDrainEnd i entry) s (fun u =>
      Frame [.movers] s u ∧ u.moverOf i = on .copying [])) ∧
    (s.drained c = true → (c.phase = .drainAfterCopy ∨ c.phase = .drainAfterDrop) → Does (.attentionDrainEnd i entry) s (fun u =>
      Frame [.regs, .movers] s u ∧ RegsOutside [counter pg 8] s u ∧ ends u)) ∧
    (s.drained c = false → Does (.attentionDrainEnd i entry) s (fun u => u = s)) ∧
    (c.phase = .copying → e.peat + n ≤ peatSize → s.mireReady e.mire n = true → held = [] → Does (.spillCopyDone i entry) s (fun u =>
      u.mire = ((s.writeMire e.mire (s.readPeat i e.peat n)).setPageEntry i entry pgSpilled e.peat).mire ∧ u.moverOf i = on .drainAfterCopy (s.attnNow i) ∧
      (u.pageEntry i entry).state = pgSpilled)) ∧
    (c.phase = .copying → e.peat + n ≤ peatSize → s.mireReady e.mire n = true → ∀ y, held = [y] → y.id ≠ c.id → y.die = c.die →
      Does (.spillCopyDone i entry) s (fun u => u.moverOf i = others.filter (fun x => x.id ≠ y.id) ∧
        (u.pageEntry i entry).state = pgResident ∧ Counts s u pg 8 2)) ∧
    (c.phase = .fetching → e.peat + n ≤ peatSize → (entry + 16 ≤ e.peat ∨ e.peat + n ≤ entry) → s.mireReady e.mire n = true →
      s.mirePoisoned e.mire n = false → Does (.fetchCopyDone i entry) s (fun u =>
        u.readPeat i e.peat n = s.readMire e.mire n ∧ (u.pageEntry i entry).state = pgResident ∧ ends u)) ∧
    (c.phase = .fetching →
      let refused (u : State) : Prop := u.moverOf i = others ∧ (u.pageEntry i entry).state = pgSpilled ∧ Counts s u pg 9 1 ∧ Raised u pg 4 ∧
        u.reg pg Reg.PG_LAST = word [(0, entry), (40, i), (48, c.op), (52, pgCauseUe)]
      Does (.fetchReadRefused i entry) s refused)

/-- R338, R344, R343, R359 to R361, R500, R618. What a mire controller does besides its requests: refresh at twice the rate while the stack
is hot, refresh management of the banks that have reached RFM_TH, on-die ECC counts, the patrol scrub with its corrections and poison, the loss of a stack's supply, and
the stack's temperature. The ages of requests and scrub reads only order them. -/
def Obligations.MireUpkeep : Prop :=
  ∀ (j : StackIx) (n : Nat) (e : EccResult) (pc : BitVec 6) (s : State),
    let pg := mirePage j
    let hot := s.rb pg Reg.MIRE_CTL 1 && decide (85 < s.rf pg Reg.MIRE_STAT 15 8)
    (s.stackState j = 2 →
      Does (.mireRefresh j) s (fun u => Frame [.regs, .out, .fns] s u ∧ RegsOutside ((pg, Reg.MIRE_STAT) :: evtRegs pg) s u ∧
        u.rb pg Reg.MIRE_STAT 2 = hot ∧ (hot = true → s.rb pg Reg.MIRE_STAT 2 = false → Raised u pg 3)) ∧
      (let due (k : Nat) (b : Bank) : Bool := k / 4096 = j.val && decide (s.rfmAt j ≤ b.acts)
       Store.wf {} s.banks = true → Does (.refreshManagement j) s (fun u => Frame [.regs, .banks] s u ∧ RegsOutside [counter pg 5] s u ∧
         Counts s u pg 5 (Store.count due s.banks) ∧
         ∀ k, (Store.get {} u.banks k).acts = if due k (Store.get {} s.banks k) then 0 else (Store.get {} s.banks k).acts)) ∧
      Does (.odeccPoll j n) s (fun u => Frame [.regs] s u ∧ RegsOutside [counter pg 4] s u ∧ Counts s u pg 4 n) ∧
      (s.rb pg Reg.MIRE_CTL 0 = true → n < stackBursts →
        let a := mireAddr j (64 * n)
        Does (.mireScrub j n e) s (fun u => u.mire = s.mire ∧
          Counts s u pg 7 (if Store.get 0 s.scrubs (256 + j) = n ∧ n + 1 = stackBursts then 1 else 0) ∧
          u.scrubs = (if Store.get 0 s.scrubs (256 + j) = n then Store.set 0 s.scrubs (256 + j) (if n + 1 = stackBursts then 0 else n + 1)
            else s.scrubs) ∧
          (e = .clean → RegsOutside [counter pg 7] s u ∧ u.mireBad = s.mireBad) ∧
          (∀ sy, e = .corrected sy → u.mireBad = s.mireBad ∧ Raised u pg 0 ∧ Counts s u pg 2 1) ∧
          (e = .uncorrectable → u.mireBad = Store.set false s.mireBad (a / 256) true ∧ Raised u pg 1 ∧ Counts s u pg 3 1)))) ∧
    Does (.mireScrubStarve j) s (fun u => u = s) ∧ Does (.mireReqAge j pc) s (fun u => u = s) ∧
    ((s.stackState j = 1 ∨ s.stackState j = 2) → Does (.stackSupplyFault j) s (fun u =>
      u.stackState j = 3 ∧ Raised u pg 2 ∧ (∀ k : StackIx, k ≠ j → u.stackState k = s.stackState k) ∧ ∃ r, u.reports = s.reports ++ [r])) ∧
    (∀ v : W32, s.sensPowered (4096 + j) = true → Does (.stackTempRead j (some v)) s (fun u =>
      u.rf pg Reg.MIRE_STAT 15 8 = (max 0 (min 255 v.toInt)).toNat ∧
      u.rb pg Reg.MIRE_STAT 2 = (s.rb pg Reg.MIRE_CTL 1 && decide (85 < v.toInt))))

/-- R248, R249, R256 to R258. Admission and the return to the first bed. With a stream that has a chunk to admit, a free normal place and
a free credit, and no token wavefront waiting, a chunk of the oldest-bound stream fills the place; without a credit nothing is admitted,
nor is a chunk of a replay whose journal records a controller refuses.
A token wavefront takes a normal place, or the escape place when no normal one is free, and stays when neither is. A write of POLD_LOOP
that would leave CREDITS above C − 1 is refused with CREDIT_ERR; any other takes effect. -/
def Obligations.LoopAdmission : Prop :=
  ∀ (p : PolderIx) (s : State),
    let others (b k : Nat) (u : State) : Prop := ∀ b' k', k' < 128 → k < 128 → (b', k') ≠ (b, k) → u.place b' k' = s.place b' k'
    (∀ b n i e, s.firstBed p = some b → s.admissible p = some n → s.freeNormal b = some i → s.entryTile b = some e →
      s.fenced p = false → s.sealHold = false → s.tokenWaits p = false → s.inLoop p < s.rf polderPage (Reg.POLD_LOOP p) 15 0 →
      let w := s.chunkWave b n
      let x := s.stream n
      let k := (waveHead w).rows
      s.current e (waveHead w) = true → (s.chunkReads n = [] →
      Does (.admission p) s (fun u =>
        Frame [.regs, .streams, .places, .beds] s u ∧ RegsOutside [counter polderPage 0] s u ∧ Counts s u polderPage 0 1 ∧ others b i u ∧
        u.place b i = { used := true, full := true, src := e, got := w.length, data := withHead w { waveHead w with enq := s.now.toNat } } ∧
        (∀ m, m ≠ n → u.stream m = s.stream m) ∧
        u.stream n = { x with st := if x.st = .bound then .prefill else x.st, admitted := x.admitted + k, seq := (x.seq + 1) % 2 ^ 32,
                              inflight := x.inflight + 1, chunks := x.chunks + 1 })) ∧
      (∀ s1, s.mireTake (s.chunkReads n) = (false, s1) → Does (.admission p) s (fun u =>
        u = s1 ∧ u.streams = s.streams ∧ u.places = s.places))) ∧
    (s.rf polderPage (Reg.POLD_LOOP p) 15 0 ≤ s.inLoop p → Does (.admission p) s (fun u => u = s)) ∧
    (∀ (n : StreamIx) home r b d, s.ridPlace n.toNat .leaving = some (home, r) → s.firstBed (s.stream n.toNat).polder = some b →
      s.fenced (s.stream n.toNat).polder = false → (∀ m ∈ s.wmoves, m.fromBed = none → m.stream ≠ n.toNat) →
      s.slotTile home (s.stream n.toNat).polder (s.bedEntry b) = some d →
      let w := withHead r.wave { waveHead r.wave with rstage := false, bed := b, enq := s.now.toNat }
      let goes (i : Nat) (u : State) : Prop :=
        let sends := waveSends d s.nextTag (waveOperand b i false false false w.length) 0 (waveHead w).cls w
        (∀ x ∈ sends, s.canSend home x = true) →
        others b i u ∧ u.place b i = { used := true, src := home, tag := s.nextTag } ∧
        u.wmoves = s.wmoves ++ [⟨home, s.nextTag, w, some b, none, n.toNat⟩] ∧
        s.injected u home sends
      (∀ i, s.freeNormal b = some i → Does (.tokenWavefrontMove n) s (goes i)) ∧
      (s.freeNormal b = none → (s.place b 64).used = false → Does (.tokenWavefrontMove n) s (fun u => goes 64 u ∧ Counts s u polderPage 4 1)) ∧
      (s.freeNormal b = none → (s.place b 64).used = true → Does (.tokenWavefrontMove n) s (fun u => u = s))) ∧
    (∀ (who : Requester) (v : W64), s.admits who polderPage (Reg.POLD_LOOP p) = true →
      let c := ((s.bedsOf p).map (s.inSlots ·)).sum + fld v 56 48
      (fld v 15 0 = 0 ∨ fld v 15 0 < c → Does (.poldLoopWrite who p v) s (fun u =>
        Writes polderPage (Reg.POLD_LOOP p) [] [] s u ∧
        u.rf polderPage (Reg.POLD_LOOP p) 15 0 = fld v 15 0 ∧ u.rf polderPage (Reg.POLD_LOOP p) 56 48 = fld v 56 48)) ∧
      (fld v 15 0 ≠ 0 → c ≤ fld v 15 0 → Does (.poldLoopWrite who p v) s (fun u =>
        Writes polderPage (Reg.POLD_LOOP p) [.out, .fns] (evtRegs polderPage) s u ∧ Raised u polderPage 1 ∧
        u.reg polderPage (Reg.POLD_LOOP p) = s.reg polderPage (Reg.POLD_LOOP p))))

/-- R243, R246, R260 to R262, R269. A bed's passes. Where the sequencers permit the next pass and every waiting wavefront is current, the
entry sequencer opens it with the wavefronts that R262 grants, within PASS_WAVES and PASS_ROWS; with two passes not yet forwarded it opens
none. A pass whose bytes are on a member tile adds 1 to START_GATE there. A pass that DONE_GATE has reached is taken; its one wavefront
asks the next bed for a place. An expired watchdog reports a stall; one that has not expired does nothing. -/
def Obligations.LoopPasses : Prop :=
  ∀ (bed : BedIx) (tile : TileIx) (s : State),
    let b := bed.val
    let x := s.bed b
    let pol := s.bedPolder b
    (∀ e, s.entryTile b = some e → s.bedValid b = true → s.fenced pol = false →
      (∀ i ∈ s.waiting b, s.current e (s.headAt b i) = true) →
      let weight (c : Nat) : Nat := s.rf polderPage (Reg.POLD_CLASS pol) (8 * c + 7) (8 * c)
      let o := openLoop b e (s.bedCfg0 b 40 34) (s.bedLast b) weight (s.bedCfg0 b 47 41) (s.waiting b) ⟨s, ⟨x.ptr, x.quanta⟩, [], 0⟩
      (x.opened + 1 ≤ x.forwarded + 2 → x.passes.all (s.passStarted b) = true → o.places ≠ [] →
        Does (.passOpen bed) s (fun u => ∃ q, q.places = o.places ∧ q.num = x.opened + 1 ∧ q.rows = o.rows ∧
          q.bytes = (passBytes q.num s.now.toNat (o.places.map (fun i => (s.place b i).data))).length ∧
          u.bed b = { x with ptr := o.turn.ptr, quanta := o.turn.quanta, opened := q.num, passes := x.passes ++ [q] } ∧
          u.places = s.places ∧ (∀ i ∈ q.places, i ∈ s.waiting b) ∧ q.places.Nodup ∧ q.rows ≤ s.bedCfg0 b 40 34 ∧
          q.places.length ≤ s.bedCfg0 b 47 41)) ∧
      (x.forwarded + 2 < x.opened + 1 → Does (.passOpen bed) s (fun u => u = s))) ∧
    (∀ q, x.passes.find? (fun q => !q.started.contains tile.val && decide (q.bytes ≤ Store.get 0 q.got tile)) = some q →
      let g := fld (s.bedReg b Reg.BED_CFG1) 9 0
      Does (.passStart bed tile) s (fun u =>
        Frame [.regs, .beds, .gates] s u ∧ RegsOutside [counter (gatePage tile) 3] s u ∧
        u.bed b = { x with passes := x.passes.map (fun r => if r.num = q.num then { r with started := r.started ++ [tile.val] } else r) } ∧
        ∀ (j : TileIx) (k : BitVec 10), u.gate j k.toNat = s.gate j k.toNat + (if j = tile ∧ k.toNat = g then 1 else 0))) ∧
    (∀ q rest e i c d, x.passes = q :: rest → s.exitTile b = some e → s.fenced pol = false → q.moving = false → s.passStarted b q = true →
      let g := fld (s.bedReg b Reg.BED_CFG1) 19 10
      (gateSatisfied (s.gate e g) (BitVec.ofNat 32 q.num) = false → Does (.passForward bed) s (fun u => u = s)) ∧
      (gateSatisfied (s.gate e g) (BitVec.ofNat 32 q.num) = true → q.places = [i] → s.current e (s.headAt b i) = true →
        s.bedLast b = false → s.nextBed b = some c → s.slotTile e (s.headAt b i).polder (s.bedEntry c) = some d →
        let h := s.headAt b i
        let h' : Head := { h with rstage := false, bed := c, tokens := false, fmt := fld (s.bedReg b Reg.BED_CFG2) 49 42,
                                  enq := s.now.toNat, rowBytes := fld (s.bedReg b Reg.BED_CFG3) 63 42 }
        let w := (s.place b i).data
        let wave := h'.bytes ++ waveKeys w ++ waveTree w ++ s.outRows b e q.num 0 h.rows
        let ask : Send := { dst := d, op := opPlaceReq, addr := c, tag := s.nextTag, operand := wave.length }
        s.canSendAs e h.polder ask = true →
        Does (.passForward bed) s (fun u => Frame [.regs, .beds, .wmoves, .net, .nextTag] s u ∧
          (u.bed b).passes = x.passes.map (fun r => if r.num = q.num then { r with moving := true } else r) ∧
          u.wmoves = s.wmoves ++ [⟨e, s.nextTag, wave, some c, some (b, i), h.stream⟩] ∧
          s.injectedAs u e h.polder [ask]))) ∧
    (∀ e, s.entryTile b = some e →
      let due := s.bedBusy b && !s.fenced pol && decide (x.wdog + fld (s.bedReg b Reg.BED_CFG1) 63 32 ≤ s.up)
      (due = true → Does (.bedWatchdog bed) s (fun u =>
        fbit (u.bedReg b Reg.BED_STAT) 15 = true ∧ Raised u polderPage 0 ∧ Counts s u polderPage 5 1 ∧ u.bed b = { x with wdog := s.up } ∧
        u.reports = s.reports ++ [⟨e, 3, 0, 0, s.up⟩])) ∧
      (due = false → Does (.bedWatchdog bed) s (fun u => u = s)))

/-- R266, R267, R404 to R409, R412. BIND and CANCEL of a host queue. A BIND that has been fetched is judged in the order of R406: the first
check that fails ends it with its CMD_STATUS, an empty prompt with EMPTY_PROMPT, and one that passes them claims its stream. When its reads
and reservations have ended it is refused for a DMA error, a token out of range, a prompt too long or no space, or its stream becomes BOUND
with the context that the BIND names, its riddle record is written, every tile of its polder holds its generation, and it has started. A
CANCEL is judged at once. -/
def Obligations.StreamBinding : Prop :=
  ∀ (port : HostPort) (q : Fin 64) (c : HostCmd) (s : State),
    let n := c.streamNo
    let x := s.stream n
    let d (code : Nat) : Done := { code := code, stream := n, gen := c.genNo }
    (s.fetched port q 1 = some c →
      let busy := decide (x.st ≠ .free) || s.cmds.any (fun o => o.opcode = 1 && o.stage = .begun && decide (o.streamNo = n))
      let model := !s.sealHold && s.castInForce && s.polderServes c.polder
      let fields := decide (c.cls ≤ 2) && decide (c.treeNodes ≤ 64) && decide (c.treeDepth ≤ 16) && decide (c.promptAddr % 4 = 0) &&
        decide (c.paramAddr % 64 = 0) && c.bindZeros
      let ends (e : Done) : Prop := Does (.bind port q) s (fun u => s.completed u c e ∧ u.streams = s.streams)
      (busy = true → ends (d csStreamBusy)) ∧
      (busy = false → x.gen.toNat ≠ c.genNo → ends { d csBadGen with gen := x.gen.toNat }) ∧
      (busy = false → x.gen.toNat = c.genNo → model = false → ends (d csNoModel)) ∧
      (busy = false → x.gen.toNat = c.genNo → model = true → fields = false → ends (d csBadField)) ∧
      (busy = false → x.gen.toNat = c.genNo → model = true → fields = true →
        (s.egressOk c = false → ends (d csBadEgress)) ∧
        (s.egressOk c = true → s.linkOk c = false → ends (d csLinkBad)) ∧
        (s.egressOk c = true → s.linkOk c = true → c.promptLen = 0 → ends { d csRefused with status := stEmptyPrompt }) ∧
        (s.egressOk c = true → s.linkOk c = true → c.promptLen ≠ 0 → Does (.bind port q) s (fun u =>
          Frame [.cmds] s u ∧ u.cmds = s.cmds.map (fun o => if o = c then { o with stage := .begun } else o))))) ∧
    (∀ (dma space : Bool) (i home : Nat),
      s.cmds.find? (fun o => o.port = port && o.sq = q.val && o.stage = .begun && o.opcode = 1) = some c →
      (s.polderTiles c.polder).head? = some i → s.homeTile i c.polder n = some home →
      let prompt := (List.range c.promptLen).map (fun k => leNat (s.readHost port (c.promptAddr + 4 * k) 4))
      let spots := s.planSpots c.polder
      let limit := posLimit c.reach spots
      let range := prompt.all (fun t => decide (t < s.rf (riddlePage home) Reg.RID_VOCAB 18 0))
      let plan := s.mireTake [s.planRange c.polder]
      let room := space && s.planOk c.polder && (plan.2.reserveKv n c.polder c.reach).isSome
      let ends (e : Done) : Prop := Does (.bindingDone port q dma space) s (fun u => s.completed u c e ∧ u.streams = s.streams)
      (s.sealHold = true → ends (d csNoModel)) ∧
      (s.sealHold = false → dma = false → ends (d csDmaErr)) ∧
      (s.sealHold = false → dma = true → range = false → ends (d csTokenRange)) ∧
      (s.sealHold = false → dma = true → range = true → plan.1 = false → ends (d csNoSpace)) ∧
      (s.sealHold = false → dma = true → range = true → plan.1 = true → limit ≤ c.promptLen → ends { d csRefused with status := stLength }) ∧
      (s.sealHold = false → dma = true → range = true → plan.1 = true → c.promptLen < limit → room = false → ends (d csNoSpace)) ∧
      (s.sealHold = false → dma = true → range = true → plan.1 = true → c.promptLen < limit → room = true → s.recordFits home n = true →
        let params := s.readHost port c.paramAddr 576
        let w5 := leAt params 40 8
        let gstate := if bit w5 22 then s.gramStart home (bits w5 21 16) else 0
        Does (.bindingDone port q dma space) s (fun u =>
          u.stream n = bindStream s c limit ∧ (u.stream n).st = .bound ∧ (∀ m, m ≠ n → u.stream m = s.stream m) ∧
          (∀ j ∈ s.polderTiles c.polder, u.genAt j n = x.gen) ∧ Counts s u streamPage 0 1 ∧ u.host = s.host ∧
          u.cmds = s.cmds.map (fun o => if o = c then { o with stage := .started } else o) ∧
          u.readPeat home (s.recordAt home n) 2048 = bindRecord params prompt gstate))) ∧
    (s.fetched port q 2 = some c →
      let zeros := decide (bits (c.w 0) 15 8 = 0) && decide (bits (c.w 0) 63 52 = 0) && c.zeroFrom 1
      let may := x.live && decide (x.gen = BitVec.ofNat 8 c.genNo)
      (zeros = false → Does (.cancel port q) s (fun u => s.completed u c (d csBadField) ∧ u.streams = s.streams)) ∧
      (zeros = true → may = true → Does (.cancel port q) s (fun u => s.completed u c (d csOk) ∧ Counts s u streamPage 2 1 ∧
        (u.stream n).st = .draining ∧ (u.stream n).status = stCancelled ∧ (u.stream n).gen = x.gen + 1)) ∧
      (zeros = true → may = false → Does (.cancel port q) s (fun u => s.completed u c (d csStale) ∧ u.streams = s.streams ∧
        Counts s u streamPage 3 1 ∧ Raised u streamPage 1)))

/-- R251, R252, R266, R268, R411. STRM_CANCEL drains a live stream of the generation given, with CANCELLED and the next generation, and
counts a STALE cancel of any other. A draining stream without wavefronts, whose draft stream is not in its way, becomes FREE and
keeps the other fields of its context, and its BIND completes with the stream's status, emitted tokens and commit position. -/
def Obligations.StreamEnd : Prop :=
  ∀ (who : Requester) (v : W64) (n : StreamIx) (s : State),
    (s.admits who streamPage Reg.STRM_CANCEL = true → n.toNat = fld v 11 0 →
      let x := s.stream n.toNat
      let may := x.live && decide (x.gen.toNat = fld v 19 12)
      (may = true → Does (.strmCancel who v) s (fun u => u.reg streamPage Reg.STRM_CANCEL = 0 ∧ Counts s u streamPage 2 1 ∧
        (u.stream n.toNat).st = .draining ∧ (u.stream n.toNat).status = stCancelled ∧ (u.stream n.toNat).gen = x.gen + 1)) ∧
      (may = false → Does (.strmCancel who v) s (fun u => u.reg streamPage Reg.STRM_CANCEL = 0 ∧ Counts s u streamPage 3 1 ∧
        Raised u streamPage 1 ∧ u.streams = s.streams))) ∧
    (let x := s.stream n.toNat
     let y := s.stream x.link
     let mine (c : HostCmd) : Bool := c.opcode = 1 && c.stage = .started && decide (c.streamNo = n.toNat)
     let may := decide (x.st = .draining) && decide (x.inflight = 0) &&
       (!x.linked || x.draft || decide (y.st = .free) || !(y.draft && y.linked && decide (y.link = n.toNat)))
     (may = false → Does (.streamFree n) s (fun u => u = s)) ∧
     (may = true → Does (.streamFree n) s (fun u =>
       u.stream n.toNat = { x with st := .free, kept := .free, draftOut := false, inflight := 0 } ∧ (∀ m, m ≠ n.toNat → u.stream m = s.stream m) ∧
       Counts s u streamPage 1 1 ∧ Raised u streamPage 0 ∧ (s.cmds.find? mine = none → u.cmds = s.cmds ∧ u.host = s.host) ∧
       ∀ c, s.cmds.find? mine = some c → s.completed u c
         { code := csOk, stream := n.toNat, gen := x.genBind.toNat, status := x.status, emitted := x.emitted, commit := x.commitPos })))

/-- R395, R396, R398, R402, R403, R411 to R414. The rings of a host port. A doorbell that moves the host's index forward within the ring is
taken and counted; any other is refused and recorded in Q_ERR. The next entry of a submission ring is fetched once the previous one has
started and the completion ring has room; an undefined opcode, and a NOP, complete at once. The oldest waiting token record goes into its
ring, an index that has moved into its index block, and a due interrupt to its vector; a masked vector becomes pending instead.

R395, R396, R399, R400, R418. Enabling and disabling the queue that Q_SEL selects. EN is refused for a size that is no power of two from
16 to 65,536, for a base or index address out of alignment and for a submission queue whose completion queue is disabled; the queue is
then empty and stays disabled, with the cause in Q_ERR. Clearing EN disables a queue that nothing uses, and is refused otherwise. A DMA
that fails disables the queue. -/
def Obligations.HostQueues : Prop :=
  (∀ (port : HostPort) (q : Fin 64) (r : Fin 256) (v : W64) (s : State),
    let pg := portPage port
    let err (kind num cause : Nat) (u : State) : Prop :=
      Raised u pg 0 ∧ u.reg pg Reg.Q_ERR = word [(0, cause), (4, kind), (8, num), (32, s.ts)]
    (∀ c kind num, ((c = Instr.sqDoorbell port q v ∧ kind = kSq ∧ num = q.val) ∨ (c = Instr.cqDoorbell port q v ∧ kind = kCq ∧ num = q.val) ∨
        (c = Instr.trDoorbell port r v ∧ kind = kTr ∧ num = r.val)) → s.boot.main = true →
      let new := BitVec.ofNat 32 v.toNat
      let h := s.qHead port kind num
      let t := s.qTail port kind num
      let ok := s.qEn port kind num && (if kind = kSq then decide ((new - t).toNat ≤ s.qSize port kind num - s.qDepth port kind num)
        else decide ((new - h).toNat ≤ s.qDepth port kind num))
      (ok = true → Does c s (fun u => Frame [.regs, .wins] s u ∧ RegsOutside [counter pg 4] s u ∧ Counts s u pg 4 1 ∧
        u.qHead port kind num = (if kind = kSq then h else new) ∧ u.qTail port kind num = (if kind = kSq then new else t))) ∧
      (ok = false → Does c s (fun u => Frame [.regs, .out, .fns] s u ∧ RegsOutside ([counter pg 5, (pg, Reg.Q_ERR)] ++ evtRegs pg) s u ∧
        Counts s u pg 5 1 ∧ err kind num qDoorErr u))) ∧
    (let cq := s.qCfg port kSq q 31 26
     let h := s.qHead port kSq q
     let c : HostCmd := ⟨port, q, cq, s.readHost port (s.qAddr port kSq q h) 64, (h + 1).toNat, .fetched⟩
     let may := s.boot.main && s.qEn port kSq q && decide (0 < s.qDepth port kSq q) && (s.atStart port q).isNone && s.qEn port kCq cq &&
       decide (0 < s.qSize port kCq cq - s.qDepth port kCq cq - s.reserved port cq)
     (may = false → Does (.sqFetch port q) s (fun u => u = s)) ∧
     (may = true → Does (.sqFetch port q) s (fun u => u.qHead port kSq q = h + 1 ∧ u.qTail port kSq q = s.qTail port kSq q ∧ Counts s u pg 0 1 ∧
       (c.opcode ≤ 3 → u.cmds = s.cmds ++ [c] ∧ u.host = s.host) ∧
       (3 < c.opcode → u.cmds = s.cmds ∧ u.qTail port kCq cq = s.qTail port kCq cq + 1 ∧
         u.host = putBytes s.host (hostKey port (s.qAddr port kCq cq (s.qTail port kCq cq))) (doneBytes c { code := csBadOpcode } s.now))))) ∧
    (∀ c, s.fetched port q 0 = some c → Does (.cmdNop port q) s (fun u => s.completed u c
      { code := if bits (c.w 0) 15 8 = 0 ∧ bits (c.w 0) 63 32 = 0 ∧ c.zeroFrom 1 = true then csOk else csBadField })) ∧
    (∀ x rest, (s.qDyn port kTr r).fifo = x :: rest →
      let may := s.qEn port kTr r && decide (s.qDepth port kTr r < s.qSize port kTr r)
      (may = true → Does (.tokenRecordWrite port r) s (fun u => (u.qDyn port kTr r).fifo = rest ∧ Counts s u pg 2 1 ∧
        u.qTail port kTr r = s.qTail port kTr r + 1 ∧ u.host = putBytes s.host (hostKey port (s.qAddr port kTr r (s.qTail port kTr r))) x)) ∧
      (may = false → Does (.tokenRecordWrite port r) s (fun u => u = s))) ∧
    (∀ (kind : QKind) (num : BitVec 8), num.toNat < queueCount (kindOf kind) → s.qEn port (kindOf kind) num.toNat = true →
      let k := kindOf kind
      let n := num.toNat
      let d := s.qDyn port k n
      let cfg := s.queueReg port k n Reg.Q_CFG
      let due := decide (k ≠ kSq) && fbit cfg 25 && decide (0 < d.fresh) && (decide (max 1 (fld cfg 51 44) ≤ d.fresh) ||
        (decide (fld cfg 63 52 ≠ 0) && decide (d.first + 1000 * fld cfg 63 52 ≤ s.up)))
      (d.stale = true → Does (.indexBlockWrite port kind num) s (fun u => Frame [.host, .queues] s u ∧ u.qDyn port k n = { d with stale := false } ∧
        u.host = putBytes s.host (hostKey port (s.queueReg port k n Reg.Q_IDX).toNat)
          (leBytes 4 (if k = kSq then s.qHead port k n else s.qTail port k n).toNat ++
           leBytes 4 (if k = kTr then fld (s.queueReg port k n Reg.Q_LOST) 31 0 else 0) ++ List.replicate 56 0))) ∧
      let f := Store.get {} s.fns (portDie port)
      let vec := fld cfg 42 32
      let masked := f.funcMask || (Store.get {} f.vecs vec).masked
      (due = true → f.msixOn = true → masked = false → Does (.queueInterrupt port kind num) s (fun u =>
        Frame [.regs, .queues, .out] s u ∧ RegsOutside [counter pg 6] s u ∧
        Counts s u pg 6 1 ∧ u.out = s.out ++ [.msix port vec] ∧ u.qDyn port k n = { d with fresh := 0, first := 0 })) ∧
      (due = true → f.msixOn = true → masked = true → Does (.queueInterrupt port kind num) s (fun u =>
        Frame [.queues, .fns] s u ∧ u.qDyn port k n = { d with fresh := 0, first := 0 } ∧
        (Store.get {} (Store.get {} u.fns (portDie port)).vecs vec).pending = true)) ∧
      (due = true → f.msixOn = false → Does (.queueInterrupt port kind num) s (fun u =>
        Frame [.queues] s u ∧ u.qDyn port k n = { d with fresh := 0, first := 0 })) ∧
      (due = false → Does (.queueInterrupt port kind num) s (fun u => u = s)))) ∧
  (∀ (who : Requester) (port : HostPort) (v : W64) (s : State),
    let pg := portPage port
    let err (kind num cause : Nat) (u : State) : Prop :=
      Raised u pg 0 ∧ u.reg pg Reg.Q_ERR = word [(0, cause), (4, kind), (8, num), (32, s.ts)]
    (s.admits who pg Reg.Q_CFG = true → s.queueThere pg = true →
      let kind := s.rf pg Reg.Q_SEL 9 8
      let num := s.rf pg Reg.Q_SEL 7 0
      let frame (u : State) : Prop := Frame [.regs, .wins, .guards, .shadows, .sealRun, .queues, .out, .fns] s u
      (s.qEn port kind num = false →
        let align := decide (s.qBase port kind num % 4096 = 0) && decide ((s.queueReg port kind num Reg.Q_IDX).toNat % 64 = 0)
        let refused (cause : Nat) : Prop := Does (.queueEnable who port v) s (fun u => frame u ∧ u.qEn port kind num = false ∧ err kind num cause u)
        (sizeOk (fld v 16 0) = false → refused qSizeErr) ∧
        (sizeOk (fld v 16 0) = true → align = false → refused qAlignErr) ∧
        (sizeOk (fld v 16 0) = true → align = true → kind = kSq → s.qEn port kCq (fld v 31 26) = false → refused qCqErr) ∧
        (sizeOk (fld v 16 0) = true → align = true → (kind = kSq → s.qEn port kCq (fld v 31 26) = true) →
          Does (.queueEnable who port v) s (fun u => frame u ∧ u.qEn port kind num = true ∧ u.qSize port kind num = fld v 16 0 ∧
            u.qHead port kind num = 0 ∧ u.qTail port kind num = 0 ∧ u.qDyn port kind num = {}))) ∧
      (s.qEn port kind num = true → fld v 16 0 = s.qSize port kind num → (kind = kSq → fld v 31 26 = s.qCfg port kSq num 31 26) →
        (s.queueUsed port kind num = false → Does (.queueDisable who port v) s (fun u => frame u ∧ u.qEn port kind num = false ∧ u.qDyn port kind num = {})) ∧
        (s.queueUsed port kind num = true → Does (.queueDisable who port v) s (fun u =>
          frame u ∧ u.qEn port kind num = true ∧ err kind num qBusyErr u)))) ∧
    (∀ (kind : QKind) (num : BitVec 8),
      let k := kindOf kind
      let n := num.toNat
      (n < queueCount k → s.qEn port k n = true → Does (.dmaFailure port kind num) s (fun u =>
        u.qEn port k n = false ∧ u.qDyn port k n = {} ∧ err k n qDmaErr u ∧ Counts s u pg 7 1 ∧ Raised u pg 2)) ∧
      (s.qEn port k n = false → Does (.dmaFailure port kind num) s (fun u => u = s))))

/-- R385, R388 to R391, R611. Host ports. A reset of a port cancels its live streams, disables its queues and ends their commands, takes its
semaphores and guards, returns APER_CTL and raises PORT_RESET; after link down and PERST# PCIE_STAT shows no link. A link trains where
PERST# is released and the rate and width are supported. A read of peat through the aperture gives the bank's bytes and a write, with WEN,
stores them; a read that poison or the end of the mire refuses gives all-ones and is counted, and poison in peat is recorded for port 6.
An access to a layer that is not ON waits for it. -/
def Obligations.HostPorts : Prop :=
  ∀ (port : HostPort) (s : State),
    let pg := portPage port
    let who := whoCode (portWho port)
    (∀ cause : BitVec 4, cause.toNat ≤ 4 → s.boot.main = true → Does (.portReset port cause) s (fun u =>
      (∀ n, (s.stream n).live = true → (s.stream n).port = port → (u.stream n).st = .draining) ∧
      (∀ c ∈ u.cmds, c.port ≠ port) ∧ (∀ kind num, kind < 4 → num < 256 → u.qEn port kind num = false) ∧
      (∀ i, i < 16 → u.semOwner i ≠ who ∧ u.semWaiter i ≠ who) ∧ u.rb pg Reg.APER_CTL 0 = false ∧ Raised u pg 4 ∧
      Store.get {} u.fns (portDie port) = ({} : PciFn) ∧ Store.get {} u.spdm who = {} ∧
      (cause.toNat = 0 ∨ cause.toNat = 4 → u.reg pg Reg.PCIE_STAT = 0))) ∧
    Does (.perstDeassert port) s (fun u => Frame [.boot] s u ∧ u.boot = { s.boot with perst := s.boot.perst.filter (· ≠ port) }) ∧
    (∀ (rate width : BitVec 8) (flit : Bool),
      let fits := decide (4 ≤ rate.toNat) && decide (rate.toNat ≤ 6) && decide (rate.toNat ≤ s.rf pg Reg.PCIE_CTL 2 0) &&
        [1, 4, 8, 16].contains width.toNat && flit == decide (rate.toNat = 6)
      let may := s.mainGood && !s.boot.perst.contains port && fits
      (may = true → Does (.pcieLinkTrained port rate width flit) s (fun u =>
        Frame [.regs, .out, .fns] s u ∧ RegsOutside ((pg, Reg.PCIE_STAT) :: evtRegs pg) s u ∧
        u.reg pg Reg.PCIE_STAT = word [(0, rate.toNat), (4, width.toNat), (9, b2n flit)] ∧
        (s.rf pg Reg.PCIE_STAT 2 0 ≠ 0 → s.rf pg Reg.PCIE_STAT 2 0 ≠ rate.toNat → Raised u pg 5))) ∧
      (may = false → Does (.pcieLinkTrained port rate width flit) s (fun u => u = s))) ∧
    (∀ (off : BitVec 40) (len : BitVec 13) (bs : List Byte),
      let base := s.reg pg Reg.APER_BASE
      let tile := fld base 7 1 + off.toNat / 2 ^ 33 % 8
      let o := off.toNat % 2 ^ 33
      let a := fld base 40 24 * 2 ^ 24 + off.toNat
      s.boot.main = true → 0 < len.toNat → off.toNat + len.toNat ≤ 2 ^ 36 → bs.length = len.toNat →
      (fbit base 0 = true → o + len.toNat ≤ 2 ^ 33 → tile < 80 → s.peatOn tile o len.toNat = true →
        (s.peatPoisoned tile o len.toNat = false → Does (.apertureRead port off len) s (fun u =>
          Frame [.regs, .out] s u ∧ RegsOutside [counter (peatPage tile) 0] s u ∧ u.out = s.out ++ [.data port (s.readPeat tile o len.toNat)])) ∧
        (s.peatPoisoned tile o len.toNat = true → Does (.apertureRead port off len) s (fun u =>
          Counts s u pg 7 1 ∧ Raised u (peatPage tile) 1 ∧ Counts s u (peatPage tile) 5 1 ∧
          u.reg (peatPage tile) Reg.PEAT_ECC_ADDR = word [(3, s.peatBadAt tile o len.toNat / 8), (33, 6)] ∧
          ∃ l, u.out = s.out ++ l ++ [.data port (List.replicate len.toNat 0xFF)])) ∧
        (s.rb pg Reg.APER_CTL 0 = true → Does (.apertureWrite port off bs) s (fun u =>
          Frame [.regs, .peat, .peatBad] s u ∧ u.peat = putBytes s.peat (peatKey tile o) bs))) ∧
      (fbit base 0 = true → o + len.toNat ≤ 2 ^ 33 → tile < 80 → s.peatOn tile o len.toNat = false →
        Does (.apertureRead port off len) s (fun u => u.peat = s.peat ∧ u.out = s.out) ∧
        Does (.apertureWrite port off bs) s (fun u => u.peat = s.peat ∧ u.out = s.out)) ∧
      (fbit base 0 = false →
        (s.mireReady a len.toNat = true → s.mirePoisoned a len.toNat = false → Does (.apertureRead port off len) s (fun u =>
          u.mire = s.mire ∧ u.out = s.out ++ [.data port (s.readMire a len.toNat)])) ∧
        (mireSize < a + len.toNat → Does (.apertureRead port off len) s (fun u =>
          Counts s u pg 7 1 ∧ u.out = s.out ++ [.data port (List.replicate len.toNat 0xFF)])) ∧
        (s.rb pg Reg.APER_CTL 0 = true → s.mireReady a len.toNat = true → Does (.apertureWrite port off bs) s (fun u =>
          Frame [.regs, .mire, .mireBad, .banks] s u ∧ u.mire = putBytes s.mire a bs))) ∧
      (s.rb pg Reg.APER_CTL 0 = false → Does (.apertureWrite port off bs) s (fun u => u = s)))

/-- R390, R391, R393, R415, R416. Semaphores and egress datagrams. TAKE of a free semaphore makes the writer its owner; of one that another
owns, its waiter when there is none. RELEASE by the owner passes the semaphore to the waiter, and by another raises BAD_RELEASE; FORCE
passes it whoever owns it. An endpoint that holds RECS records, or whose first record has waited FLUSH_US, sends them as one datagram
with the next DSEQ. -/
def Obligations.SemaphoresAndEgress : Prop :=
  (∀ (who : Requester) (i : Fin 64) (v : W64) (s : State), i.val < 16 → s.pageLive hsemPage = true →
    fbit v 8 = false → fbit v 9 = false → fbit v 10 = false →
    let me := whoCode who
    let o := s.semOwner i
    let w := s.semWaiter i
    let sem (owner waiter : Nat) (u : State) : Prop := u.semOwner i = owner ∧ u.semWaiter i = waiter ∧
      ∀ j, j < 16 → j ≠ i.val → u.semOwner j = s.semOwner j ∧ u.semWaiter j = s.semWaiter j
    Does (.semTake who i v) s (fun u =>
      (o = 0 → sem me w u ∧ Counts s u hsemPage 0 1) ∧ (o = me → sem o w u ∧ Counts s u hsemPage 0 0 ∧ Counts s u hsemPage 1 0) ∧
      (o ≠ 0 → o ≠ me → sem o (if w = 0 then me else w) u ∧ Counts s u hsemPage 1 1)) ∧
    Does (.semRelease who i v) s (fun u =>
      (o = me → sem w 0 u ∧ Counts s u hsemPage 0 (if w = 0 then 0 else 1)) ∧
      (o ≠ me → sem o w u ∧ Counts s u hsemPage 2 1 ∧ Raised u hsemPage 0)) ∧
    (s.admits who hsemPage (Reg.SEM i) = true → Does (.semForce who i v) s (fun u =>
      (o ≠ 0 → sem w 0 u ∧ Counts s u hsemPage 0 (if w = 0 then 0 else 1)) ∧ (o = 0 → sem o w u)))) ∧
  (∀ (eth : EthIx) (k : Nat) (s : State), k < 16 →
    let pg := ethPage eth
    let b := s.egressBuf eth k
    let n := s.epRecs eth k
    let recs := b.recs.take n
    let dseq := (s.rf pg (Reg.EP_CFG1 k) 63 32 + 1) % 2 ^ 32
    let sends (u : State) : Prop :=
      (u.egressBuf eth k).recs = b.recs.drop n ∧
      (s.endpointUp eth k = true → u.out = s.out ++ [.frame eth (s.egressFrame eth k (s.egressHead dseq recs ++ recs.flatten))] ∧
        Counts s u pg 0 1 ∧ Counts s u pg 2 (66 + (s.egressHead dseq recs ++ recs.flatten).length) ∧
        u.rf pg (Reg.EP_CFG1 k) 63 32 = dseq ∧ Counts s u pg 5 1 ∧ Counts s u pg 6 recs.length) ∧
      (s.endpointUp eth k = false → recs ≠ [] → Counts s u pg 7 recs.length ∧ Raised u pg 2)
    (n ≤ b.recs.length → Does (.egressDatagram eth k) s sends) ∧
    (b.recs.length < n → Does (.egressDatagram eth k) s (fun u => u = s)) ∧
    (b.recs ≠ [] → b.first + 1000 * s.rf pg (Reg.EP_CFG1 k) 31 16 ≤ s.up → Does (.egressFlushTimeout eth k) s sends) ∧
    (b.recs ≠ [] → s.up < b.first + 1000 * s.rf pg (Reg.EP_CFG1 k) 31 16 → Does (.egressFlushTimeout eth k) s (fun u => u = s)))

/-- R362 to R368, R372, R410, R553, R561, R594, R595. A casting load. CAST_GO, and LOAD with the semaphore held and its reserved bits zero,
start checking the image, unless a load runs or bring-up has not ended. The checks of steps 1 to 5 are judged in their order, and the
first that fails ends the load with its cause, its section and CAST_STAT.STATE as it was. When they pass, the old casting is gone and
PLACING begins on the tiles that the image names. -/
def Obligations.CastingChecks : Prop :=
  ∀ (who : Requester) (v : W64) (port : HostPort) (q : Fin 64) (readOk : Bool) (c : CastRun) (s : State),
    let busy := s.loading || decide (s.phase ≠ 11)
    let run (src addr len : Nat) (by_ : Requester) : CastRun :=
      { src := src, addr := addr, len := len, was := castState s, since := s.up, who := by_ }
    (s.admits who castPage Reg.CAST_GO = true →
      (busy = true → Does (.castingLoad who v) s (fun u => Writes castPage Reg.CAST_GO [.out, .fns] (evtRegs castPage) s u ∧ Raised u castPage 7)) ∧
      (busy = false → Does (.castingLoad who v) s (fun u => Writes castPage Reg.CAST_GO [.castRun] [(castPage, Reg.CAST_STAT)] s u ∧
        castState u = csChecking ∧ u.rf castPage Reg.CAST_STAT 7 4 = 0 ∧
        u.castRun = some (run (s.rf castPage Reg.CAST_SRC 1 0) (s.reg castPage Reg.CAST_ADDR).toNat (s.rf castPage Reg.CAST_LEN 39 0) who)))) ∧
    (∀ o : HostCmd, s.fetched port q 3 = some o →
      let zeros := decide (bits (o.w 0) 15 9 = 0) && decide (bits (o.w 0) 63 32 = 0) && decide (bits (o.w 2) 63 40 = 0) && o.zeroFrom 3
      let mine := decide (s.semOwner 2 = whoCode (portWho port))
      let ends (code : Nat) (u : State) : Prop := s.completed u o { code := code } ∧ u.castRun = s.castRun
      (zeros = false → Does (.load port q) s (ends csBadField)) ∧
      (zeros = true → mine = false → Does (.load port q) s (ends csSem)) ∧
      (zeros = true → mine = true → busy = true → Does (.load port q) s (fun u => ends csLoadBusy u ∧ Raised u castPage 7)) ∧
      (zeros = true → mine = true → busy = false → Does (.load port q) s (fun u => castState u = csChecking ∧
        u.castRun = some (run (if bit (o.w 0) 8 then 0 else whoCode (portWho port)) (o.w 1) (bits (o.w 2) 39 0) (portWho port)) ∧
        u.cmds = s.cmds.map (fun x => if x = o then { x with stage := .started } else x)))) ∧
    (s.castRun = some c → castState s = csChecking → c.was < 8 →
      let fails (cause sect : Nat) (u : State) : Prop := castState u = c.was ∧ u.castRun = none ∧ Raised u castPage 6 ∧
        u.rf castPage Reg.CAST_STAT 7 4 = cause ∧ u.rf castPage Reg.CAST_STAT 63 32 = sect
      let head := s.headTake c readOk
      let all := head.2.allTake c readOk
      let sig := s.sigCause c
      (head.1 = false → Does (.loadChecked readOk) s (fails lcSource 0)) ∧
      (head.1 = true → s.headerOk c = false → Does (.loadChecked readOk) s (fails lcFormat 0)) ∧
      (head.1 = true → s.headerOk c = true → all.1 = false → Does (.loadChecked readOk) s (fails lcSource 0)) ∧
      (head.1 = true → s.headerOk c = true → all.1 = true →
        (sig ≠ 0 → Does (.loadChecked readOk) s (fun u => fails lcSignature 0 u ∧ Counts s u secPage 1 1 ∧ Counts s u secPage 2 1 ∧
          Raised u secPage 2 ∧ u.rf secPage Reg.SIG_STAT 3 0 = sig)) ∧
        (∀ cause x, sig = 0 → s.checkSections c = some (cause, x) → Does (.loadChecked readOk) s (fails cause x)) ∧
        (sig = 0 → s.checkSections c = none → s.streams.any (fun e => e.2.st ≠ .free) = true →
          Does (.loadChecked readOk) s (fails lcBusy 0)) ∧
        (sig = 0 → s.checkSections c = none → s.streams.any (fun e => e.2.st ≠ .free) = false →
          (∀ o ∈ s.cmds, o.opcode = 1 → o.stage ≠ .begun) → (∀ e ∈ s.slotScan c, s.tstate e.2.2 ≠ tsWithdrawn) →
          Does (.loadChecked readOk) s (fun u => castState u = csPlacing ∧ u.castRun = some { c with map := s.slotScan c } ∧
            u.casting = {} ∧ u.beds = [] ∧ u.places = [] ∧ u.heats = [] ∧ (∀ b, b < 256 → u.bedValid b = false) ∧
            (∀ (i : TileIx) (g : BitVec 10), u.gate i g.toNat = 0) ∧ u.rb sealPage Reg.SEAL_CTL 0 = false ∧
            u.reg castPage Reg.CAST_ID = 0))))

/-- R364 to R371, R417, R463, R536. The end of a casting load. Placing ends once every domain of the casting's tiles is ON. A read that fails
or differs, the first section that cannot be placed, and a fault reported meanwhile, leave the engine FAILED and without a casting. A load with load pours then waits
for them, and ends in READY with issue enabled when they have all arrived. An Ethernet link that changes sets USABLE and judges the rate
of the beds in force. -/
def Obligations.CastingPlacement : Prop :=
  ∀ (readOk : Bool) (c : CastRun) (s : State),
    let fails (cause sect : Nat) (u : State) : Prop := castState u = csFailed ∧ u.castRun = none ∧ u.casting = {} ∧ Raised u castPage 6 ∧
      u.rf castPage Reg.CAST_STAT 7 4 = cause ∧ u.rf castPage Reg.CAST_STAT 63 32 = sect ∧ (∀ b, b < 256 → u.bedValid b = false)
    let ready (t u : State) : Prop := castState u = csReady ∧ u.castRun = none ∧ Raised u castPage 5 ∧
      u.rf castPage Reg.CAST_STAT 7 4 = 0 ∧ u.rf castPage Reg.CAST_STAT 9 8 = t.imgFormat c % 4 ∧ u.reg castPage Reg.CAST_ID = t.imgId c ∧
      ∀ i ∈ c.active, ∀ k, k < 4 → u.rb (cruPage i k) Reg.CRU_CTL 16 = true
    (s.castRun = some c → (∀ i ∈ c.active, i < 80) →
      (castState s = csPlacing →
        let m := s.manifestBytes c
        let all := s.allTake c readOk
        let placed := all.2.placeCasting c m
        let t := placed.1
        (s.loadPowered c = false → Does (.loadPlaced readOk) s (fun u => u = s)) ∧
        (s.loadPowered c = true → all.1 = false → Does (.loadPlaced readOk) s (fails lcSource s.sectionNow)) ∧
        (∀ x, s.loadPowered c = true → all.1 = true → s.badCrc c = some x →
          Does (.loadPlaced readOk) s (fails lcSectionCrc x.index)) ∧
        (∀ cause x, s.loadPowered c = true → all.1 = true → s.badCrc c = none → placed.2 = some (cause, x) →
          Does (.loadPlaced readOk) s (fails cause x)) ∧
        (s.loadPowered c = true → all.1 = true → s.badCrc c = none → placed.2 = none → t.faulted = true →
          Does (.loadPlaced readOk) s (fails lcFault t.sectionNow)) ∧
        (s.loadPowered c = true → all.1 = true → s.badCrc c = none → placed.2 = none → t.faulted = false →
          Does (.loadPlaced readOk) s (fun u => u.casting = t.castOf c m ∧
            (u.casting.exts.any (fun x => decide (x.kind < 2)) = true → castState u = csPouring) ∧
            (u.casting.exts.any (fun x => decide (x.kind < 2)) = false → ready t u)))) ∧
      (castState s = csPouring →
        let all := (List.range s.casting.exts.length).all (fun e => match s.ext e with | some x => x.kind = 2 || s.extDone e | none => true)
        (all = true → s.faulted = true → Does .loadPourComplete s (fails lcFault s.sectionNow)) ∧
        (all = true → s.faulted = false → Does .loadPourComplete s (ready s)) ∧
        (all = false → Does .loadPourComplete s (fun u => u = s)))) ∧
    (∀ (eth : EthIx) (up : Bool) (rate : BitVec 3),
      let pg := ethPage eth
      let may := s.rb pg Reg.ETH_CTL 0 && decide (s.domCode (80 + eth.val / 2) (1 + eth.val % 2) = 2) && decide (rate.toNat ≤ 3) &&
        decide (s.rf pg Reg.ETH_CTL 2 1 ≤ rate.toNat)
      (up = true → may = false → Does (.ethLinkChange eth up rate) s (fun u => u = s)) ∧
      (up = false ∨ may = true → Does (.ethLinkChange eth up rate) s (fun u => u.rb pg Reg.ETH_STAT 0 = up ∧
        u.rf pg Reg.ETH_STAT 2 1 = (if up then rate.toNat else s.rf pg Reg.ETH_STAT 2 1) ∧
        (s.rb pg Reg.ETH_STAT 0 = true → up = false → Raised u pg 0) ∧
        (up = true → s.rf pg Reg.ETH_STAT 2 1 ≠ rate.toNat → Raised u pg 1) ∧
        (∀ d, d < 8 → u.rf (pourPage d) Reg.POUR_STAT 15 0 = u.usable20 d / 2) ∧
        (s.castInForce = true → u.rateOk s.casting.plans = false → Raised u castPage 3))))

/-- R371, R373 to R377, R379, R382. Extents on their way through a ladle. A needed extent is requested from its server on the session of
the port that R371 picks; one that no server is left for fails. A frame that comes through its Ethernet port is judged by its session, its
authentication, its sequence number and the credit; one of an open request is put into the ladle by its offset, completing the extent when
every byte matches the CRC, and any other is discarded. END OK asks again for what its range lacks, and silence for every missing run, up
to RETRY_MAX and then at the next server; END 2 and 3 go to the next server at once. A complete extent drains to the mire at once, and to a
tile as WR packets, those of a staging slot after their probe is granted; MOVE_DONE ends them, and an uncorrectable error in the ladle asks
for the extent again. -/
def Obligations.PourExtents : Prop :=
  ∀ (die : DieIx) (extent : W32) (s : State),
    let d := die.val
    let e := extent.toNat
    let pg := pourPage d
    let lp := ladlePage d
    let q := s.pour d
    let most := max 1 (s.rf pg Reg.POUR_CTL 51 48)
    let alone (n : Nat) : Prop := ∀ k, k < 4 → s.sessUp d k = true → s.sessServer d k ≠ n
    let ends (x : PourExt) (u : State) : Prop := u.pullOf d e = none ∧ Counts s u lp 1 x.len ∧ Counts s u lp 2 1
    (∀ x, s.ext e = some x → s.pullOf d e = none →
      (s.extNeeded d e = false → Does (.extentReq die extent) s (fun u => u = s)) ∧
      (∀ n k, s.extNeeded d e = true → s.serverFor d e [] = some n → 0 < x.len → s.sessTo d n = some k →
        let tag := (q.tag + 1) % 2 ^ 32
        let y := s.sess d k
        let ep := 2 * d + s.sessPort d k
        let hdr := pourHeader mReq (s.sessId d k) (y.seq + 1) { tag := tag, epoch := y.epoch, object := x.object, off := x.off, len := x.len }
        Does (.extentReq die extent) s (fun u =>
          Frame [.regs, .pours, .out] s u ∧ RegsOutside [counter pg 0, counter (ethPage ep) 0, counter (ethPage ep) 2] s u ∧
          Counts s u pg 0 1 ∧ (u.pour d).tag = tag ∧
          (u.pour d).pulls = q.pulls ++ [{ ext := e, server := n, last := s.up, asks := [⟨tag, y.epoch, k, 0, x.len⟩] }] ∧
          u.out = s.out ++ [.pour ep y.addr y.udp (s.rf pg Reg.POUR_CTL 31 16)
            (hdr ++ gcmSeal y.key (pourNonce false (s.sessId d k) (y.seq + 1)) hdr [])])) ∧
      (s.extNeeded d e = true → s.serverFor d e [] = none → Does (.extentReq die extent) s (fun u =>
        Raised u pg 0 ∧ u.reg pg Reg.POUR_LAST = word [(0, 1), (8, e % 2 ^ 24), (32, s.ts)] ∧
        (castState s = csPouring → castState u = csFailed) ∧
        (∀ i, castState s ≠ csPouring → x.kind = 2 → s.entryTile x.bed = some i → u.reports = s.reports ++ [⟨i, 0x0C, 0, 0, s.up⟩])))) ∧
    (∀ p x k, s.ext e = some x → s.pullOf d e = some p → p.whole = false → p.asks = [] → Store.get 0 q.downs p.server < 3 →
      s.sessTo d p.server = some k → Does (.extentReq die extent) s (fun u =>
        Counts s u pg 0 (missing x.len p.data).length ∧
        (u.pullOf d e).map (fun r => (r.server, r.tries, r.data)) = some (p.server, p.tries, p.data) ∧
        (u.pullOf d e).map (fun r => r.asks.map (fun a => (a.sess, a.off, a.len))) =
          some ((missing x.len p.data).map (fun r => (k, r.1, r.2))))) ∧
    (∀ (f : PourFrame) (k : Nat),
      (∀ c ∈ [Instr.extentData die f, .pourEnd die f, .helloAck die f], s.portLive (2 * d + f.port) = true →
        (f.fcsOk = false ∨ 9216 < frameBytes f) → Does c s (fun u => Frame [.regs] s u ∧ RegsOutside [counter (ethPage (2 * d + f.port)) 4] s u ∧
          Counts s u (ethPage (2 * d + f.port)) 4 1)) ∧
      (s.sessState d k = ssFailed → s.frameFor d k mData f = true → Does (.extentData die f) s (fun u => Frame [.regs] s u ∧ Counts s u pg 9 1)) ∧
      (s.sessUp d k = true →
        let y := s.sess d k
        let m := frameMsg f
        let opened := gcmOpen y.key (pourNonce true m.session m.seq) (f.data.take 64) (f.data.drop 64)
        (∀ c, (c = Instr.extentData die f ∧ s.frameFor d k mData f = true) ∨ (c = .pourEnd die f ∧ s.frameFor d k mEnd f = true) →
          (opened = none → Does c s (fun u => Counts s u pg 5 1 ∧ Raised u pg 1 ∧
            (y.fails < 63 → u.sess d k = { y with fails := y.fails + 1 }) ∧ (63 ≤ y.fails → u.sessState d k = ssFailed))) ∧
          (∀ body, opened = some body → m.version = 1 → s.seqSeen d k m.seq = true → Does c s (fun u =>
            Frame [.regs, .pours] s u ∧ (u.pour d).pulls = q.pulls ∧ Counts s u pg 3 1))) ∧
        (∀ body, opened = some body → m.version = 1 → s.seqSeen d k m.seq = false →
          (s.frameFor d k mData f = true →
            (y.limit < m.seq → Does (.extentData die f) s (fun u => Frame [.regs, .pours, .out, .fns] s u ∧ Counts s u pg 6 1 ∧ Raised u pg 2 ∧
              (u.pour d).pulls = q.pulls)) ∧
            (m.seq ≤ y.limit →
              let discarded (u : State) : Prop := (u.pour d).pulls = q.pulls ∧ Counts s u pg 9 1 ∧ Counts s u lp 4 body.length
              (∀ p a x, q.pulls.find? (fun p => p.asks.any (fun a => a.sess = k && a.tag = m.tag)) = some p →
                p.asks.find? (fun a => a.sess = k && a.tag = m.tag) = some a → s.ext p.ext = some x →
                let rel := m.offset - x.off
                let fits := decide (y.epoch ≤ m.epoch) && decide (x.off + a.off ≤ m.offset) && decide ((rel - a.off) % 8192 = 0) &&
                  decide (rel + body.length ≤ a.off + a.len) && decide (m.length = body.length) &&
                  (decide (body.length = 8192) || decide (rel + body.length = a.off + a.len))
                let data := (putNew p.data rel body 0).1
                let new := (putNew p.data rel body 0).2
                let frame (u : State) : Prop := Counts s u pg 1 1 ∧ Counts s u pg 2 new ∧ Counts s u lp 0 body.length ∧
                  u.sessHigh d k = max m.seq (s.sessHigh d k)
                (fits = false → Does (.extentData die f) s discarded) ∧
                (fits = true → data.length < x.len → Does (.extentData die f) s (fun u => frame u ∧
                  u.pullOf d p.ext = some { p with data := data, last := s.up })) ∧
                (fits = true → x.len ≤ data.length → crc32c (data.map (fun b => b.2.getD 0)) = x.crc → Does (.extentData die f) s (fun u =>
                  frame u ∧ u.pullOf d p.ext = some { p with data := data, last := s.up, whole := true, asks := [] })) ∧
                (fits = true → x.len ≤ data.length → crc32c (data.map (fun b => b.2.getD 0)) ≠ x.crc → Does (.extentData die f) s (fun u =>
                  Counts s u lp 3 1 ∧ Raised u lp 2))) ∧
              (q.pulls.find? (fun p => p.asks.any (fun a => a.sess = k && a.tag = m.tag)) = none →
                Does (.extentData die f) s discarded))) ∧
          (s.frameFor d k mEnd f = true →
            (m.tag = 0xFFFFFFFF → m.status = 1 → Does (.pourEnd die f) s (fun u => u.sessState d k = ssOpen ∧ (u.pour d).pulls = q.pulls)) ∧
            (∀ p a x, m.tag ≠ 0xFFFFFFFF → q.pulls.find? (fun p => p.asks.any (fun a => a.sess = k && a.tag = m.tag)) = some p →
              p.asks.find? (fun a => a.sess = k && a.tag = m.tag) = some a → s.ext p.ext = some x →
              let rest := p.asks.filter (fun b => b.tag ≠ a.tag)
              let runs := (missing x.len p.data).filterMap (fun r =>
                if max r.1 a.off < min (r.1 + r.2) (a.off + a.len) then some (max r.1 a.off, min (r.1 + r.2) (a.off + a.len) - max r.1 a.off)
                else none)
              (m.status = 0 → runs = [] → Does (.pourEnd die f) s (fun u => u.pullOf d p.ext = some { p with asks := rest })) ∧
              (m.status = 0 → runs ≠ [] → p.tries < most → alone p.server → Does (.pourEnd die f) s (fun u =>
                Counts s u pg 7 1 ∧ u.pullOf d p.ext = some { p with asks := rest, tries := p.tries + 1 })) ∧
              (∀ n, m.status = 2 ∨ m.status = 3 → s.serverFor d p.ext (p.failed ++ [p.server]) = some n → alone n →
                Does (.pourEnd die f) s (fun u =>
                  u.pullOf d p.ext = some { p with server := n, failed := p.failed ++ [p.server], tries := 0, asks := [] }))))))) ∧
    (∀ p x, s.pullOf d e = some p → s.ext e = some x →
      let due := !p.whole && !p.asks.isEmpty && decide (p.last + 1000 * max 1 (s.rf pg Reg.POUR_CTL 47 32) ≤ s.up)
      (due = false → Does (.reqSilenceTimeout die extent) s (fun u => u = s)) ∧
      (due = true → p.tries < most → alone p.server → Does (.reqSilenceTimeout die extent) s (fun u =>
        Counts s u pg 7 1 ∧ u.pullOf d e = some { p with tries := p.tries + 1, asks := [] })) ∧
      (∀ n, due = true → most ≤ p.tries → s.serverFor d e (p.failed ++ [p.server]) = some n →
        alone n → Does (.reqSilenceTimeout die extent) s (fun u =>
          u.pullOf d e = some { p with server := n, failed := p.failed ++ [p.server], tries := 0, asks := [] })) ∧
      (∀ i, x.kind = 2 → p.whole = true → p.stage = .ladle → s.extTurn d e x.bed = true → s.castTile x.pol x.slot = some i →
        (s.dieReaches d x.pol i = false → Does (.stagingProbe die extent) s (fun u => u = s)) ∧
        (s.dieReaches d x.pol i = true → Does (.stagingProbe die extent) s (fun u =>
          u.slots = s.slots ∧ u.pullOf d e = some { p with stage := .probing, tag := s.nextTag } ∧
          s.dieSent u d x.pol [
            { dst := i, op := opProbe, addr := x.addr, tag := s.nextTag, operand := x.len + 2 ^ 62,
              payload := leBytes 4 4096 ++ leBytes 4 (ceilDiv x.len 4096) ++ leBytes 4 1 ++ leBytes 4 4096 ++ leBytes 8 0 }]))) ∧
      (∀ (ecc : EccResult) (w : BitVec 23), p.whole = true → p.stage = (if x.kind = 2 then .granted else .ladle) →
        let bs := p.data.map (fun b => b.2.getD 0)
        let tag := if x.kind = 2 then p.tag else s.nextTag
        (ecc ≠ .uncorrectable → x.kind = 1 → s.mireReady x.addr bs.length = true → Does (.extentDrain die extent ecc w) s (fun u =>
          u.mire = putBytes s.mire x.addr bs ∧ ends x u ∧ (u.pour d).done = q.done ++ [e])) ∧
        (∀ i, ecc ≠ .uncorrectable → x.kind ≠ 1 → s.castTile x.pol x.slot = some i → s.dieReaches d x.pol i = true →
          Does (.extentDrain die extent ecc w) s (fun u => u.peat = s.peat ∧ u.pullOf d e = some { p with stage := .sent, tag := tag } ∧
            s.dieSent u d x.pol (writeSends false i x.addr tag (wrOperand x.len 0 false) [(0, bs)]))) ∧
        (∀ i, ecc ≠ .uncorrectable → x.kind ≠ 1 → s.castTile x.pol x.slot = some i → s.dieReaches d x.pol i = false →
          Does (.extentDrain die extent ecc w) s (fun u => u = s)) ∧
        (ecc = .uncorrectable → Does (.extentDrain die extent ecc w) s (fun u => Counts s u lp 6 1 ∧ Raised u lp 1 ∧
          (p.tries < most → alone p.server → Counts s u pg 7 1 ∧
            u.pullOf d e = some { p with stage := .ladle, data := [], whole := false, tries := p.tries + 1, asks := [] })))) ∧
      (∀ m : Packet, s.pullTagged d m.tag.toNat = some p →
        (p.stage = .probing → s.dieAccepts d opGrant m = true → Does (.grant m) s (fun u => u.arrivals = s.arrivals.erase m ∧
          u.pullOf d e = some { p with stage := .granted })) ∧
        (s.dieAccepts d opRefuse m = true → Does (.refuse m) s (fun u => u.arrivals = s.arrivals.erase m ∧
          u.pullOf d e = some { p with stage := .ladle })) ∧
        (p.stage = .sent → s.dieAccepts d opMoveDone m = true → s.doneWaits m = false → Does (.moveDone m) s (fun u =>
          u.arrivals = s.arrivals.erase m ∧ ends x u))))

/-- R375, R376, R378, R380, R381, R596, R597. The sessions of a sluice die. CREDIT goes out when LIMIT rises or its period has passed. STOP
raises the stop epoch and withdraws the session's requests with their incomplete bytes; it is sent again until its END comes, and after
the eighth the session fails. A HELLO takes a free entry where no session with the server stands on the port and the ladle has room for its
first frames; a HELLO_ACK that verifies under an enrolled POUR key opens the session, and any other is counted; without one the HELLO is
sent again and fails after the third. A failed session is opened again after a second where its server is needed, and one whose numbers are
used up is closed with END first. -/
def Obligations.PourSessions : Prop :=
  ∀ (die : DieIx) (k : Fin 4) (s : State),
    let d := die.val
    let pg := pourPage d
    let x := s.sess d k
    let ep := 2 * d + s.sessPort d k
    let fails (u : State) : Prop := u.sessState d k = ssFailed ∧ Raised u pg 4 ∧
      Store.get 0 (u.pour d).downs (s.sessServer d k) = Store.get 0 (s.pour d).downs (s.sessServer d k) + 1 ∧
      (x.addr, x.udp, s.up) ∈ (u.pour d).lost
    let datagram (data : List Byte) : OutMsg := .pour ep x.addr x.udp (s.rf pg Reg.POUR_CTL 31 16) data
    let msg (t seq : Nat) (h : PourHdr) : OutMsg :=
      let hdr := pourHeader t (s.sessId d k) seq h
      datagram (hdr ++ gcmSeal x.key (pourNonce false (s.sessId d k) seq) hdr [])
    let stopped (u : State) : Prop := u.sessState d k = ssStopping ∧ (u.sess d k).epoch = (x.epoch + 1) % 65536 ∧ (u.sess d k).tries = 1 ∧
      Counts s u pg 8 1 ∧ (u.pour d).pulls = (s.pour d).pulls.map (dropAsks k)
    let fresh (server port : Nat) (u : State) : Prop :=
      let n := s.fresh
      let body := Config.ephemeralPoint n ++ (Config.randomBytes n 32).take 32 ++ leBytes 4 (s.rf fleetPage Reg.FLEET_ID 17 0) ++ Config.certChain.take 1024
      let hello := body ++ Config.deviceSign n body
      let y := s.casting.servers.getD server default
      u.reg pg (Reg.SESS k) = word [(0, s.newSid d), (32, ssKeying), (35, port), (36, server)] ∧ u.reg pg (Reg.SESS_SEQ k) = 0 ∧
      u.sess d k = { tries := 1, at_ := s.up, hello := hello, eph := some n, addr := y.addr, udp := y.port }
    (s.sessUp d k = true →
      let room := s.ladleFree d / 8192 - (s.promised d k + 256)
      let limit := max x.limit (s.sessHigh d k + min (max 1 (s.rf (ladlePage d) Reg.LADLE_CTL 11 0)) room)
      let due := decide (x.limit < limit) || decide (x.credit + 1000 * max 1 (s.rf (ladlePage d) Reg.LADLE_CTL 27 16) ≤ s.up)
      (due = true → Does (.credit die k) s (fun u => Frame [.regs, .pours, .out] s u ∧
        RegsOutside [counter (ethPage ep) 0, counter (ethPage ep) 2] s u ∧
        u.sess d k = { x with limit := limit, credit := s.up, seq := x.seq + 1 } ∧ u.out = s.out ++ [msg mCredit (x.seq + 1) { limit := limit }])) ∧
      (due = false → Does (.credit die k) s (fun u => u = s)) ∧
      (∀ (who : Requester) (v : W64), s.admits who pg Reg.POUR_STOP = true → fld v 1 0 = k.val → Does (.pourStop who die v) s (fun u =>
        stopped u ∧ u.rb pg Reg.POUR_STOP 8 = false ∧ ∃ l, u.out = s.out ++ msg mStop (x.seq + 1) { epoch := (x.epoch + 1) % 65536 } :: l)) ∧
      (2 ^ 48 ≤ x.seq ∨ 2 ^ 48 ≤ s.sessHigh d k → Does (.sessionRollover die k) s (fun u =>
        fresh (s.sessServer d k) (s.sessPort d k) u ∧ (u.pour d).pulls = (s.pour d).pulls.map (dropAsks k) ∧
        ∃ l l', u.out = s.out ++ msg mStop (x.seq + 1) { epoch := (x.epoch + 1) % 65536 } :: l ++ msg mEnd (x.seq + 2) {} :: l')) ∧
      (x.seq < 2 ^ 48 → s.sessHigh d k < 2 ^ 48 → Does (.sessionRollover die k) s (fun u => u = s))) ∧
    (s.sessState d k = ssStopping →
      let due := decide (x.at_ + 1000 * max 1 (s.rf (ladlePage d) Reg.LADLE_CTL 39 32) ≤ s.up)
      (due = true → x.tries ≤ 8 → Does (.stopResend die k) s (fun u => Counts s u pg 8 1 ∧
        u.sess d k = { x with tries := x.tries + 1, at_ := s.up, seq := x.seq + 1 } ∧ u.out = s.out ++ [msg mStop (x.seq + 1) { epoch := x.epoch }])) ∧
      (due = true → 8 < x.tries → Does (.stopResend die k) s fails) ∧
      (due = false → Does (.stopResend die k) s (fun u => u = s))) ∧
    (∀ (server : Nat) (port : Fin 2),
      (s.mayOpen d server port = false → Does (.hello die server port) s (fun u => u = s)) ∧
      (s.mayOpen d server port = true → s.sessState d k = ssNone → (∀ j, j < k.val → s.sessState d j ≠ ssNone) →
        Does (.hello die server port) s (fresh server port)) ∧
      (s.mayOpen d server port = true → (∀ j, j < 4 → s.sessState d j ≠ ssNone) → s.sessState d k = ssFailed →
        (∀ j, j < k.val → s.sessState d j ≠ ssFailed) → Does (.hello die server port) s (fresh server port))) ∧
    (s.sessState d k = ssKeying →
      (∀ (f : PourFrame) (n : Nat), s.frameFor d k mAck f = true → (frameMsg f).version = 1 → (frameMsg f).seq = 0 → x.eph = some n →
        let b := f.data.drop 64
        let digest := sha384 (x.hello ++ b.take 133)
        let ok := decide (b.length = 229) && decide (leAt b 129 4 = s.sessId d k) && (decodePoint (b.take 97)).isSome &&
          (List.range 4).any (fun i => let e := s.keySlot i
            e.full && !e.revoked && bit e.usage 1 && ecdsaVerify e.point digest ((b.drop 133).take 48) ((b.drop 181).take 48))
        (ok = true → Does (.helloAck die f) s (fun u => u.sessState d k = ssOpen ∧ Counts s u secPage 5 1 ∧ u.sess d k = { x with
          tries := 0, eph := none,
          key := hkdfExpand (hkdfExtract ((x.hello.drop 97).take 32 ++ (b.drop 97).take 32) (Config.sharedSecret n (b.take 97)))
            (helloInfo ++ leBytes 4 (s.sessId d k)) 32 })) ∧
        (ok = false → Does (.helloAck die f) s (fun u => u.pours = s.pours ∧ Counts s u secPage 6 1 ∧ Raised u secPage 4))) ∧
      (s.up < x.at_ + 10000000 → Does (.helloRetry die k) s (fun u => u = s)) ∧
      (x.at_ + 10000000 ≤ s.up → x.tries < 3 → Does (.helloRetry die k) s (fun u => u.sess d k = { x with tries := x.tries + 1, at_ := s.up } ∧
        u.out = s.out ++ [datagram (pourHeader mHello (s.sessId d k) 0 {} ++ x.hello)])) ∧
      (x.at_ + 10000000 ≤ s.up → 3 ≤ x.tries → Does (.helloRetry die k) s fails)) ∧
    (s.sessState d k = ssFailed → (∀ j, j < k.val → s.sessState d j = ssFailed → s.sessServer d j ≠ s.sessServer d k) →
      let server := s.sessServer d k
      let port := if s.mayOpen d server (s.sessPort d k) then s.sessPort d k else 1 - s.sessPort d k
      (s.mayOpen d server port = true → Does (.sessionReopen die server) s (fresh server port)) ∧
      (s.mayOpen d server port = false → Does (.sessionReopen die server) s (fun u => u = s)))

/-- R4, R428 to R437. Register accesses. An accepted write gives every RW and SL bit that it reaches its value, and every GW bit too where the
writer holds the page's guard; a 1 clears a W1C bit, and every other bit stays. A read returns the register and clears its RC fields; a
32-bit read of a low half keeps the high half for the requester's next read of it; SB_STAT.HIGH starts again from the entries in use. The key opens a guard for 1,024 ns, any other value
closes it, and a key written while another requester holds the guard is refused; the guard lapses at its time. MBX_SEL captures the value
selected, and CNT_CLR clears a page's counters. An access without an answer is counted. -/
def Obligations.RegisterAccess : Prop :=
  ∀ (who : Requester) (page : BitVec 16) (off : BitVec 12) (size : AccSize) (v : W64) (s : State),
    let pg := page.toNat
    (∀ o half, reach off.toNat size = some (o, half) → o < 0xF00 → o ≠ Reg.GUARD_KEY → o ≠ Reg.EVT_EN → s.pageLive pg = true →
      (regAt pg o).isSome = true → regHook (s.writeCore who pg off.toNat size v) s who pg = (s.writeCore who pg off.toNat size v).st →
      let mine := decide (s.guardOwner pg = whoCode who)
      let val := placeVal off.toNat size v
      Does (.regWrite who page off size v) s (fun u => ∀ i, i < 64 → (u.stored pg o).getLsbD i =
        ((if half.getLsbD i && ((accMask pg o .rw).getLsbD i || (accMask pg o .sl).getLsbD i || (mine && (accMask pg o .gw).getLsbD i))
          then val.getLsbD i else (s.stored pg o).getLsbD i) && !((accMask pg o .w1c).getLsbD i && half.getLsbD i && val.getLsbD i)))) ∧
    (off.toNat % 8 = 0 → s.timesOut pg = false →
      Does (.regReadRc who page off .b64) s (fun u => Frame [.regs, .wins, .shadows, .lastRead] s u ∧
        Store.get 0 u.lastRead (whoCode who) = s.view who pg off.toNat ∧
        (∀ (i : TileIx) (k : CruIx), pg = cruPage i k → off.toNat = Reg.SB_STAT → s.pageLive pg = true → u.rf pg Reg.SB_STAT 14 8 = (s.cru i k).sb.length % 128) ∧
        ((∀ (i : TileIx) (k : CruIx), pg ≠ cruPage i k) ∨ off.toNat ≠ Reg.SB_STAT → ∀ i, i < 64 → (u.stored pg off.toNat).getLsbD i = ((s.stored pg off.toNat).getLsbD i && !(s.pageLive pg && (accMask pg off.toNat .rc).getLsbD i)))) ∧
      Does (.regReadLowHalf who page off) s (fun u => Frame [.regs, .wins, .shadows, .lastRead] s u ∧
        Store.get 0 u.lastRead (whoCode who) = s.view who pg off.toNat &&& 0xFFFFFFFF ∧
        Store.get none u.shadows (shadowKey who pg) = some ⟨off.toNat, BitVec.ofNat 32 ((s.view who pg off.toNat).toNat / 2 ^ 32)⟩)) ∧
    (s.timesOut pg = true →
      (∀ o half, reach off.toNat size = some (o, half) → Does (.regWrite who page off size v) s (fun u => Counts s u devPage 1 1 ∧ Raised u devPage 1)) ∧
      (off.toNat % 8 = 0 → Does (.regReadRc who page off .b64) s (fun u => Counts s u devPage 1 1 ∧ Raised u devPage 1 ∧
        Store.get 0 u.lastRead (whoCode who) = 0xFFFFFFFFFFFFFFFF))) ∧
    (∀ sh, off.toNat % 8 = 4 → s.timesOut pg = false → Store.get none s.shadows (shadowKey who pg) = some sh → sh.off + 4 = off.toNat →
      Does (.regReadRc who page off .b32) s (fun u => Frame [.shadows, .lastRead] s u ∧
        Store.get 0 u.lastRead (whoCode who) = BitVec.ofNat 64 sh.hi.toNat ∧ Store.get none u.shadows (shadowKey who pg) = none)) ∧
    (s.pageLive pg = true → s.timesOut pg = false →
      let o := s.guardOwner pg
      (o = 0 ∨ o = whoCode who → Does (.guardKey who page .b64 v) s (fun u => Frame [.guards, .shadows] s u ∧
        u.guardOwner pg = (if fld v 15 0 = guardKeyValue then whoCode who else 0) ∧
        (fld v 15 0 = guardKeyValue → u.guard pg = ⟨whoCode who, s.up + 1024⟩) ∧ ∀ q, q ≠ pg → u.guard q = s.guard q)) ∧
      (o ≠ 0 → o ≠ whoCode who → Does (.guardKey who page .b64 v) s (fun u => u.guards = s.guards ∧ Counts s u devPage 0 1 ∧
        Raised u devPage 0 ∧ u.rf pg Reg.PAGE_STAT 2 1 = whoCode who ∧ u.rb pg Reg.PAGE_STAT 0 = true)) ∧
      Does (.mbxSel who page .b64 v) s (fun u => Frame [.mbxs, .shadows] s u ∧ u.mbx who pg = (match s.mbxValue pg (fld v 15 0) with
        | some (d, tag) => { sel := fld v 15 0, valid := true, tag := tag, data := d ++ List.replicate (8 - d.length) 0 }
        | none => { sel := fld v 15 0, bad := true }))) ∧
    Does (.guardLapse page) s (fun u => Frame [.guards] s u ∧ ∀ q, u.guard q = if q = pg ∧ (s.guard pg).till ≤ s.up then {} else s.guard q) ∧
    (s.admits who pg Reg.PAGE_CTL = true → Does (.cntClr who page v) s (fun u => (∀ k, k < 16 → u.reg pg (Reg.COUNTER k) = 0) ∧
      RegsOutside ((pg, Reg.PAGE_CTL) :: (List.range 16).map (counter pg)) s u)) ∧
    (∀ write, (pageInfo pg).isSome = true → s.boot.vaux = true → Does (.regAccessTimeout who page off write) s (fun u =>
      Counts s u devPage 1 1 ∧ Raised u devPage 1 ∧
      (write = false → off.toNat % 4 = 0 → Store.get 0 u.lastRead (whoCode who) = 0xFFFFFFFFFFFFFFFF)))

/-- R426, R436, R454, R598, R608. The management bus. A read or write of a register acts as the same access by the management bus and is
answered with the status, and a read with the value; an offset beyond the page reads as zero (log entry 136); nothing answers without VAUX. A reset of the interface closes its guards. Set Endpoint
ID keeps the identifier, but for the two reserved ones, and the alert response gives the engine's address while SMB_ALERT# is driven. -/
def Obligations.ManagementBus : Prop :=
  ∀ (page off : BitVec 16) (v : W64) (w : W32) (eid : BitVec 8) (s : State),
    let o : BitVec 12 := off.setWidth 12
    let status : Byte := if s.boot.main then 0 else 1
    (∀ c d bytes, off.toNat < 0x1000 → (d = Instr.read64 page off ∧ c = Instr.regReadRc .mgmt page o .b64 ∧
          bytes = (fun t : State => leBytes 8 (Store.get 0 t.lastRead 3).toNat)) ∨
        (d = Instr.read32 page off ∧ c = Instr.regReadRc .mgmt page o .b32 ∧
          bytes = (fun t : State => leBytes 4 (Store.get 0 t.lastRead 3).toNat)) ∨
        (d = Instr.write64 page off v ∧ c = Instr.regWrite .mgmt page o .b64 v ∧ bytes = (fun _ => [])) ∨
        (d = Instr.write32 page off w ∧ c = Instr.regWrite .mgmt page o .b32 (w.setWidth 64) ∧ bytes = (fun _ => [])) →
      (s.boot.vaux = true → ∃ t, exec c s = .next t ∧ Does d s (fun u => u = { t with out := t.out ++ [.reply .mgmt (status :: bytes t)] })) ∧
      (s.boot.vaux = false → Does d s (fun u => u = s))) ∧
    (∀ d bytes, 0x1000 ≤ off.toNat → s.boot.vaux = true → (d = Instr.read64 page off ∧ bytes = List.replicate 8 0) ∨
        (d = Instr.read32 page off ∧ bytes = List.replicate 4 0) ∨ (d = Instr.write64 page off v ∧ bytes = []) ∨
        (d = Instr.write32 page off w ∧ bytes = []) → Does d s (fun u =>
      Frame [.lastRead, .out] s u ∧ u.out = s.out ++ [.reply .mgmt (status :: bytes)])) ∧
    Does .mgmtBusReset s (fun u => Frame [.guards] s u ∧ ∀ q, u.guard q = if (s.guard q).owner = 3 then {} else s.guard q) ∧
    (s.boot.vaux = true →
      (eid ≠ 0 → eid ≠ 0xFF → Does (.setEndpointId eid) s (fun u =>
        Frame [.eid, .out] s u ∧ u.eid = eid ∧ u.out = s.out ++ [.reply .mgmt [0, eid]])) ∧
      (eid = 0 ∨ eid = 0xFF → Does (.setEndpointId eid) s (fun u => Frame [.out] s u ∧ u.out = s.out ++ [.reply .mgmt [2, s.eid]])) ∧
      Does .alertResponse s (fun u => Frame [.out] s u ∧
        u.out = s.out ++ (if s.smbAlert then [.reply .mgmt [0x40 + BitVec.setWidth 8 Config.addrStrap]] else [])))

/-- R439 to R448, R452. The seal, taps and TIME_SET. A walk starts every 2 ms, or when the last one ends; it shows its CRC in SEAL_CUR and on every page with sealed fields. One that differs
from REF of an enabled seal is counted, and the first sets MISMATCH and applies ACTION; a clean walk after COMMIT becomes the reference.
RESUME ends an action. TAP_CTL.GO arms a tap of every live unit, unless one is armed or TAP_TIME lies too near; each unit latches its
counters once device time has come, and the last acknowledgement ends the tap. TIME_SET waits for the next epoch boundary, and is refused
while PTP steers or a tap is armed. -/
def Obligations.SealAndTaps : Prop :=
  ∀ (who : Requester) (v : W64) (unit : UnitRef) (s : State),
    let armed := decide (s.tapState = tpArmed)
    let crc := s.sealCrc
    let judged := s.rb sealPage Reg.SEAL_CTL 0 && (decide (castState s = csReady) || decide (castState s = csEmpty) || decide (castState s = csFailed))
    let clean := s.rb sealPage Reg.SEAL_CTL 3 && !s.sealRun.fresh && !s.sealRun.dirty
    (s.boot.main = true → s.up < s.sealRun.start → Does .sealWalk s (fun u => u = s)) ∧
    (s.boot.main = true → s.sealRun.start ≤ s.up → Does .sealWalk s (fun u =>
      u.sealRun.start = max s.up (s.sealRun.start + 2000000) ∧
      u.reg sealPage Reg.SEAL_CUR = word [(0, crc.toNat), (32, s.ts)] ∧ Counts s u sealPage 0 1 ∧
      u.sealRun.dirty = false ∧ u.sealRun.fresh = false ∧
      (∀ p ∈ allPages, (s.sealPart p).isEmpty = false → u.reg p Reg.SEAL_CRC = word [(0, (crc32c (s.sealPart p)).toNat), (32, 1)]) ∧
      (judged = true → crc.toNat ≠ s.rf sealPage Reg.SEAL_REF 31 0 → Counts s u sealPage 1 1 ∧ (s.rb sealPage Reg.SEAL_STAT 1 = false →
        u.rb sealPage Reg.SEAL_STAT 0 = true ∧ Raised u sealPage 0 ∧
        u.rb sealPage Reg.SEAL_STAT 1 = decide (s.rf sealPage Reg.SEAL_CTL 2 1 ≠ 0) ∧
        (2 ≤ s.rf sealPage Reg.SEAL_CTL 2 1 → u.sealRun.fenced = true ∧ ∃ r, u.reports = s.reports ++ [r] ∧ r.cause = fcSeal))) ∧
      (judged = false ∨ crc.toNat = s.rf sealPage Reg.SEAL_REF 31 0 → Counts s u sealPage 1 0 ∧ u.reports = s.reports) ∧
      (clean = true → u.rf sealPage Reg.SEAL_REF 31 0 = crc.toNat ∧ u.rb sealPage Reg.SEAL_CTL 0 = true ∧ u.rb sealPage Reg.SEAL_CTL 3 = false ∧
        Counts s u sealPage 2 1 ∧ Raised u sealPage 1))) ∧
    (s.admits who sealPage Reg.SEAL_CTL = true →
      (fbit v 4 = false → Does (.sealCommit who v) s (fun u => Writes sealPage Reg.SEAL_CTL [] [] s u ∧
        u.rb sealPage Reg.SEAL_CTL 3 = true ∧ u.sealRun.fresh = (s.sealRun.fresh || decide (s.sealRun.start ≤ s.up)))) ∧
      (fbit v 3 = false → s.rb sealPage Reg.SEAL_STAT 1 = true → Does (.sealResume who v) s (fun u =>
        u.sealRun.fenced = false ∧ (s.sealRun.fenced = false → u.rb sealPage Reg.SEAL_STAT 1 = false ∧ u.rb sealPage Reg.SEAL_CTL 4 = false))) ∧
      (fbit v 3 = false → s.rb sealPage Reg.SEAL_STAT 1 = false → Does (.sealResume who v) s (fun u =>
        Writes sealPage Reg.SEAL_CTL [] [] s u ∧ u.rb sealPage Reg.SEAL_CTL 4 = false))) ∧
    (s.admits who tapPage Reg.TAP_CTL = true →
      let refuses (cause : Nat) : Prop := Does (.tapGo who v) s (fun u => Writes tapPage Reg.TAP_CTL [.out, .fns] ((tapPage, Reg.TAP_STAT) :: evtRegs tapPage) s u ∧
        Raised u tapPage 2 ∧ u.rf tapPage Reg.TAP_STAT 3 2 = cause)
      let t := s.reg tapPage Reg.TAP_TIME
      (armed = true → refuses 1) ∧ (armed = false → t.toNat < s.now.toNat + 10000 → refuses 2) ∧
      (armed = false → s.now.toNat + 10000 ≤ t.toNat → Does (.tapGo who v) s (fun u =>
        Writes tapPage Reg.TAP_CTL [.tap] [(tapPage, Reg.TAP_STAT)] s u ∧ u.tapState = tpArmed ∧ u.rf tapPage Reg.TAP_STAT 22 16 = 0 ∧
        u.tap = { num := BitVec.ofNat 64 (s.rf tapPage Reg.TAP_NUM 15 0), time := t, waiting := s.tapUnits, unacked := [], late := [] })) ∧
      (armed = true → Does (.tapCancel who v) s (fun u => Writes tapPage Reg.TAP_CTL [.tap] [(tapPage, Reg.TAP_STAT)] s u ∧
        u.tapState = tpIdle ∧ u.tap = {})) ∧
      (armed = false → Does (.tapCancel who v) s (fun u => Writes tapPage Reg.TAP_CTL [] [] s u))) ∧
    (let n := unitIx unit
     let due := armed && s.tap.waiting.contains n && decide (s.tap.time.toNat ≤ s.now.toNat)
     let late := decide (s.tap.time.toNat + 1 < s.now.toNat)
     (due = true → Does (.tapLatch unit) s (fun u =>
       (∀ p ∈ unitPages n, Store.get [] u.tapSets p = (List.range 16).map (fun k => s.reg p (Reg.COUNTER k)) ∧
         u.reg p Reg.TAP_TAG = word [(0, s.tap.num.toNat), (16, 1), (17, b2n late)]) ∧
       u.tap.waiting = s.tap.waiting.filter (· ≠ n) ∧ u.tap.unacked = s.tap.unacked ++ [n] ∧
       u.tap.late = if late then s.tap.late ++ [n] else s.tap.late)) ∧
     (due = false → Does (.tapLatch unit) s (fun u => u = s)) ∧
     (armed = true → s.tap.unacked.contains n = true →
       let last := decide (s.rf tapPage Reg.TAP_STAT 22 16 + 1 = s.rf tapPage Reg.TAP_STAT 38 32)
       Does (.tapAck unit) s (fun u => u.tap.unacked = s.tap.unacked.filter (· ≠ n) ∧
         u.tapState = (if last then tpDone else tpArmed) ∧ Counts s u tapPage 0 (if last then 1 else 0) ∧ (last = true → Raised u tapPage 0))) ∧
     (armed = false ∨ s.tap.unacked.contains n = false → Does (.tapAck unit) s (fun u => u = s))) ∧
    (s.admits who timePage Reg.TIME_SET = true →
      let no := decide (s.rf timePage Reg.TIME_STAT 1 0 = 1) || armed
      (no = true → Does (.timeSet who v) s (fun u => Writes timePage Reg.TIME_SET [.out, .fns] (evtRegs timePage) s u ∧ Raised u timePage 0)) ∧
      (no = false → Does (.timeSet who v) s (fun u => Writes timePage Reg.TIME_SET [.timeSet] [(timePage, Reg.TIME_STAT)] s u ∧
        u.timeSet = some v ∧ u.rb timePage Reg.TIME_STAT 2 = true)))

/-- R450, R452, R480 to R498. Clocks and device time. A lost reference gives way to the next usable one in holdover. A tile that loses its
parent holds over, and reports when no other is permitted. A crucible's clock moves by at most 1 % toward its target, not up without the
voltage it needs, at most every 100 ns, and a step due while it is stretched waits for the end; a switch locks the idle generator and then
goes to the target at once. At an epoch boundary the
new rate and a TIME_SET or a step take effect. PTP event messages are time-stamped, and a closed measurement sets the rate and the step. -/
def Obligations.ClocksAndTime : Prop :=
  ∀ (i : TileIx) (k : CruIx) (s : State),
    let st := stewPage 0
    let pg := clkPage i
    let cur := s.rf st Reg.REF_STAT 1 0
    (cur ≠ 0 → Does .refLost s (fun u => Frame [.regs, .refs, .out, .fns] s u ∧ Store.get false u.refs cur = false ∧
      u.rb st Reg.REF_STAT 2 = true ∧ u.rf st Reg.REF_STAT 1 0 = u.refPick)) ∧
    (cur = 0 → Does .refLost s (fun u => u = s)) ∧
    (∀ src : BitVec 2, src ≠ 0 → Does (.referenceUsable src) s (fun u => Store.get false u.refs src.toNat = true ∧
      (s.boot.main = true → u.rb st Reg.REF_STAT 2 = false ∧ u.rf st Reg.REF_STAT 1 0 = u.refPick))) ∧
    (let lost := s.parent i
     let others := (s.permitted i).filter (· ≠ lost)
     (lost = 7 → Does (.parentLost i) s (fun u => u = s)) ∧
     (lost ≠ 7 → Does (.parentLost i) s (fun u => u.parent i = 7 ∧ Store.get 7 u.lostPort i = lost ∧ u.rb pg Reg.CLK_PARENT 8 = true ∧ Raised u pg 0 ∧
       (others = [] → u.rb pg Reg.CLK_PARENT 9 = false ∧ u.reports = s.reports ++ [⟨i, 7, 7, 0, s.up⟩]) ∧ (others ≠ [] → u.reports = s.reports)))) ∧
    (∀ port : Fin 5, s.rb pg Reg.CLK_PARENT 8 = false ∨ s.nextParent i ≠ some port.val → Does (.parentChange i port) s (fun u => u = s)) ∧
    (∀ port : Fin 5, s.rb pg Reg.CLK_PARENT 8 = true → s.nextParent i = some port.val → Does (.parentChange i port) s (fun u =>
      Frame [.regs] s u ∧ RegsOutside [(pg, Reg.CLK_PARENT), counter pg 4] s u ∧ Counts s u pg 4 1 ∧ u.parent i = port.val ∧
      u.rb pg Reg.CLK_PARENT 8 = false)) ∧
    (let c := s.khzOf i k
     let target := 1000 * s.target i k
     let new := if c < target then min target (c + c / 100) else max target (c - c / 100)
     let may := decide (new ≠ c) && (decide (new ≤ c) || decide (s.voltsFor i new ≤ Store.get 0 s.vlog i))
     let last := Store.get 0 s.stepAt (i.val * 4 + k.val)
     let due := (decide (last = 0) || decide (last + 100 ≤ s.up)) && !s.switching i k
     (due = false → Does (.freqStep i k) s (fun u => u = s)) ∧
     (due = true → s.stretching i k = true → Does (.freqStep i k) s (fun u => Frame [.deferred] s u ∧ Store.get false u.deferred (i.val * 4 + k.val) = true)) ∧
     (due = true → s.stretching i k = false → may = true → Does (.freqStep i k) s (fun u =>
       Frame [.regs, .khz, .stepAt] s u ∧ Store.get 0 u.stepAt (i.val * 4 + k.val) = s.up ∧ RegsOutside [counter pg 1] s u ∧ Counts s u pg 1 1 ∧ u.khzOf i k = new)) ∧
     (due = true → s.stretching i k = false → may = false → Does (.freqStep i k) s (fun u => u = s)) ∧
     Does (.droopStretchStart i k) s (fun u => Frame [.regs] s u ∧ RegsOutside [(pg, Reg.CRU_FREQ k)] s u ∧ u.stretching i k = true) ∧
     (s.stretching i k = true → Does (.droopStretchEnd i k) s (fun u => u.stretching i k = false ∧
       Store.get false u.deferred (i.val * 4 + k.val) = false ∧
       u.khzOf i k = if Store.get false s.deferred (i.val * 4 + k.val) && may then new else c)) ∧
     (let idle := (List.range 8).all (fun t => (s.task i k t).st = .idle)
      let go := (if c < target then idle && decide (s.voltsFor i target ≤ Store.get 0 s.vlog i)
        else decide (target < c) && s.rb pg Reg.CLK_CTL 8)
      (s.switching i k = false → go = true → s.stretching i k = false → Does (.generatorSwitch i k) s (fun u =>
        Frame [.regs] s u ∧ RegsOutside [(pg, Reg.CRU_FREQ k)] s u ∧ u.switching i k = true)) ∧
      (s.switching i k = false → go = false ∨ s.stretching i k = true → Does (.generatorSwitch i k) s (fun u => u = s)) ∧
      (s.switching i k = true → go = true → Does (.generatorSwitch i k) s (fun u => Frame [.regs, .khz] s u ∧
        RegsOutside [(pg, Reg.CRU_FREQ k), counter pg 2] s u ∧ u.khzOf i k = target ∧ Counts s u pg 2 1 ∧ u.switching i k = false ∧
        u.rb pg (Reg.CRU_FREQ k) 29 = !s.rb pg (Reg.CRU_FREQ k) 29)) ∧
      (s.switching i k = true → go = false → Does (.generatorSwitch i k) s (fun u => Frame [.regs] s u ∧
        RegsOutside [(pg, Reg.CRU_FREQ k)] s u ∧ u.switching i k = false))) ∧
     Does (.marginLow i k) s (fun u => Frame [.regs, .aging, .out, .fns] s u ∧ Raised u pg 2 ∧ (u.agingOf (i.val * 4 + k.val)).now = true ∧
       u.target i k = max (min (s.target i k) 400) (s.target i k * 99 / 100))) ∧
    Does (.epochWord i) s (fun u => Frame [.ptp] s u ∧
      Store.get 0 u.ptp.words i = BitVec.ofNat 64 ((s.now.toNat / 2 ^ 20 + 1) * 2 ^ 20)) ∧
    (∀ errs, s.now.toNat / 2 ^ 20 = s.ptp.epoch → Does (.epochBoundary errs) s (fun u => u = s)) ∧
    (∀ errs, s.now.toNat / 2 ^ 20 ≠ s.ptp.epoch → Does (.epochBoundary errs) s (fun u =>
      u.ptp.epoch = u.now.toNat / 2 ^ 20 ∧
      (∀ r, s.ptp.rate = some r → u.rf st Reg.TIME_RATE 31 0 = r.toNat) ∧ u.ptp.rate = none ∧
      (∀ e : W32, errs = [(i, e)] → u.rf pg Reg.TIME_ERR 15 0 = ofSigned 16 (max (-32768) (min 32767 e.toInt)) ∧
        Counts s u pg 3 (if 20 < e.toInt.natAbs then 1 else 0) ∧ (20 < e.toInt.natAbs → Raised u pg 1)) ∧
      (∀ v, s.timeSet = some v → u.now = v ∧ u.timeSet = none ∧ u.rb timePage Reg.TIME_STAT 2 = false ∧ Counts s u timePage 0 1 ∧
        u.ptp.step = s.ptp.step.map (fun d => d - ((v.toNat : Int) - (s.now.toNat : Int)))) ∧
      (s.timeSet = none → s.ptp.step = none ∨ s.tapArmed = true → u.now = s.now ∧ u.ptp.step = s.ptp.step) ∧
      (∀ d, s.timeSet = none → s.ptp.step = some d → s.tapArmed = false → u.now = BitVec.ofInt 64 (s.now.toNat + d) ∧ u.ptp.step = none))) ∧
    (∀ (eth : EthIx) (m : PtpMsg), Does (.ptpEventMessage eth m) s (fun u => Frame [.regs, .ptp] s u ∧ u.reg (ethPage eth) Reg.PTP_TS = s.now ∧
      u.reg (ethPage eth) Reg.PTP_TS_INFO = word [(0, m.type.toNat), (4, b2n m.sent)] ∧
      (s.rb st Reg.PTP_CTL 4 = true → s.rf st Reg.PTP_CTL 3 0 = eth.val →
        (m.grandmaster = true → u.timeSource = 1) ∧
        ∀ o, m.offset = some o → u.reg st Reg.PTP_OFS = o ∧ u.ptp.step = (if 1000 < o.toInt.natAbs then some (-o.toInt) else none) ∧
          u.ptp.rate = some (BitVec.ofInt 32 (max (-500000) (min 500000 (Config.steerRate o.toInt))))))) ∧
    (s.timeSource = 1 → Does .ptpAnnounceTimeout s (fun u => u.timeSource = 2 ∧ u.ptp = { s.ptp with rate := none, step := none })) ∧
    (s.timeSource ≠ 1 → Does .ptpAnnounceTimeout s (fun u => u = s))

/-- R457 to R466, R508. Power domains and rails. Each domain of a request is judged by itself: ON asks the ramp arbiter, OFF and RETAIN take
effect at once, and a refused one keeps its field and raises DOM_REFUSED on a tile. A grantable ramp starts, closes its segments in turn
1, 5 and 9 µs after its grant, and from 10 µs on ends with the domain ON, an array from OFF being zeroed first; one that is still wrong after 20 µs fails. Minimum voltages are kept
and rearmed, and a tile's governor moves its frequencies and VLOG. Undervoltage drops main power. -/
def Obligations.PowerDomains : Prop :=
  ∀ (who : Requester) (v : W64) (i : TileIx) (s : State),
    let pg := pwrPage i
    Does .uvWarn s (fun u => Frame [.regs, .out, .fns] s u ∧ RegsOutside (evtRegs tidePage) s u ∧ Raised u tidePage 4) ∧
    (∀ mv : BitVec 16,
      let may := s.boot.main && decide (mv.toNat < 38000)
      (may = true → Does (.undervoltShutdown mv) s (fun u => u.boot.main = false ∧ u.rf tidePage Reg.TIDE_IN 15 0 = mv.toNat ∧
        u.pool = [] ∧ u.peat = [] ∧ u.mire = [] ∧ u.tasks = [] ∧ u.streams = [] ∧ u.net = [] ∧ u.arrivals = [] ∧ u.host = s.host ∧
        ∃ r, u.evWay = s.evWay ++ [r] ∧ r.cause = 5 ∧ r.sev = 3 ∧ r.d0 = BitVec.ofNat 64 mv.toNat)) ∧
      (may = false → Does (.undervoltShutdown mv) s (fun u => u = s))) ∧
    (∀ (die : DieIx) (c : Instr) (un page off cnt n : Nat),
      ((c = .pwrDomReq who i v ∧ un = i.val ∧ page = pg ∧ off = Reg.PWR_DOM_REQ ∧ cnt = 8) ∨
       (c = .sluiceDomReq who die v ∧ un = 80 + die.val ∧ page = tidePage ∧ off = Reg.SLUICE_DOM_REQ die ∧ cnt = 10)) →
      s.admits who page off = true → n < cnt → (∀ m, m < cnt → s.rampOf un m = none) →
      (∀ m, m < cnt → m ≠ n → domExists un m = false ∨ (fld v (2 * m + 1) (2 * m) = s.domCode un m ∧ domNever un m (s.domCode un m) = false)) →
      let code := fld v (2 * n + 1) (2 * n)
      let refused := domNever un n code || s.domHeld un n code
      s.domCode un n ≠ code →
      (refused = true → Does c s (fun u => u.ramps = s.ramps ∧ u.domCode un n = s.domCode un n ∧ (un < 80 → Raised u page 1))) ∧
      (refused = false → code = 2 → Does c s (fun u => u.domCode un n = s.domCode un n ∧
        u.ramps = s.ramps ++ [⟨un, n, 2, s.up, 0, .asked, decide (s.domCode un n = 0), none⟩])) ∧
      (refused = false → code ≠ 2 → Does c s (fun u => u.domCode un n = code ∧ u.ramps = s.ramps))) ∧
    (∀ (dom : DomRef) (r : Ramp), s.rampOf (domOf dom).1 (domOf dom).2 = some r → r.unit = (domOf dom).1 → r.dom = (domOf dom).2 →
      let un := r.unit
      let n := r.dom
      let gone (u : State) : Prop := u.rampOf un n = none
      (r.phase = .asked → s.grantable r = true → Does (.rampGrant dom) s (fun u => u.domCode un n = 3 ∧
        u.rampOf un n = some { r with phase := .stage 1, granted := s.up } ∧ (un < 80 → Counts s u (pwrPage un) 2 1))) ∧
      (r.phase = .asked → s.grantable r = false → Does (.rampGrant dom) s (fun u => u = s)) ∧
      (∀ j, r.phase = .stage j → j < 4 → s.up < r.granted + stageEnd j → Does (.rampStage dom) s (fun u => u = s)) ∧
      (∀ j, r.phase = .stage j → j < 4 → r.granted + stageEnd j ≤ s.up → Does (.rampStage dom) s (fun u => Frame [.ramps] s u ∧
        u.rampOf un n = some { r with phase := .stage (j + 1) })) ∧
      (r.phase = .stage 4 → r.next = none →
        (s.up < r.granted + 10000 → Does (.domRampSample dom true) s (fun u => u = s)) ∧
        (r.granted + 10000 ≤ s.up → un < 80 → r.fromOff = true → Does (.domRampSample dom true) s (fun u => u.rampOf un n = some { r with phase := .zeroing, next := none } ∧
          (n < 4 → u.rb (poolPage un) Reg.POOL_STAT n = true ∧ ∀ a, a < 2 ^ 25 → Store.get 0 u.pool (poolKey un n a) = 0))) ∧
        (r.granted + 10000 ≤ s.up → r.fromOff = false ∨ 80 ≤ un → Does (.domRampSample dom true) s (fun u => u.domCode un n = 2 ∧ gone u ∧
          ∀ d, un = 80 + d → 5 ≤ n → n ≤ 8 → u.stackState (4 * d + (n - 5)) =
            (if s.stackState (4 * d + (n - 5)) = 0 then 1 else s.stackState (4 * d + (n - 5))))) ∧
        Does (.domRampSample dom false) s (fun u => u = s) ∧
        (s.up < r.granted + 20000 → Does (.domFail dom) s (fun u => u = s)) ∧
        (r.granted + 20000 ≤ s.up → Does (.domFail dom) s (fun u => u.domCode un n = 0 ∧ gone u ∧
          (un < 80 → u.reg (pwrPage un) Reg.PWR_FAIL = word [(0, n), (32, s.ts)] ∧ Counts s u (pwrPage un) 3 1 ∧ Raised u (pwrPage un) 0 ∧
            u.reports = s.reports ++ [⟨un, 6, 7, 0, s.up⟩]) ∧ (80 ≤ un → Raised u tidePage 5))))) ∧
    (∀ r : Fin 3, s.admits who pg Reg.MINV_CTL = true → fbit v r = true → Does (.minvRearm who i v) s (fun u =>
      u.rf pg (Reg.MINV r) 11 0 = 4095 ∧ Store.get false u.minvSeen (i.val * 3 + r.val) = false ∧ u.rf pg Reg.MINV_CTL 2 0 = 0)) ∧
    (∀ die : DieIx, s.admits who tidePage Reg.VMIF_REARM = true → Does (.vmifRearm who die v) s (fun u =>
      u.rf tidePage (Reg.VMIF_MIN die) 11 0 = 4095 ∧ Store.get false u.minvSeen (240 + die.val) = false)) ∧
    (∀ (rail : RailRef) (mv : BitVec 16),
      let rr := railReg rail
      let mvs := min mv.toNat 4095
      let lower := !Store.get false s.minvSeen rr.2.2 || decide (mvs < s.rf rr.1 rr.2.1 11 0)
      Does (.minvSample rail mv) s (fun u =>
        u.reg rr.1 rr.2.1 = (if lower then word [(0, mvs), (32, s.ts)] else s.reg rr.1 rr.2.1) ∧
        Store.get false u.minvSeen rr.2.2 = true ∧
        ∀ j r, rail = .tile j r → let th := s.rf (pwrPage j) Reg.MINV_CTL 27 16
          (th ≠ 0 → mvs < th → Counts s u (pwrPage j) 5 1 ∧ Raised u (pwrPage j) 2) ∧ (th = 0 ∨ th ≤ mvs → Counts s u (pwrPage j) 5 0))) ∧
    (∀ avg : Nat,
      let f (t : Nat) : Nat := if s.eff i < avg then max 400 (t * 99 / 100)
        else if avg * 100 < 97 * s.eff i then (if t < s.planned i then min (s.planned i) (max 400 (t + t / 100)) else min t (s.planned i)) else t
      Does (.governorStep i avg) s (fun u => Frame [.regs, .vlog] s u ∧ (∀ k, k < 4 → u.target i k = f (s.target i k)) ∧
        Counts s u pg 1 (if s.eff i < avg then 10000 else 0) ∧ u.rf pg Reg.PWR_MEAS 24 16 = min 511 (avg * 420 / 1000) ∧
        (let want := s.voltsFor i (((List.range 4).map (fun k => max (s.khzOf i k) (1000 * f (s.target i k)))).foldl max 0)
         let c := Store.get 0 s.vlog i
         Store.get 0 u.vlog i = if c < want then min want (c + 50) else max want (c - 50)))) ∧
    Does (.ocpLimit i) s (fun u => Frame [.regs, .out, .fns] s u ∧ Counts s u pg 6 1 ∧ Raised u pg 3)

/-- R467 to R475. The tide. A write of a slot by its own requester renews its lease; another requester's is refused. A lease that runs out is
shown and counted. Every 100 µs the valid slots move toward their targets, and from READY the loop adjusts the budget and the soak power
within the rating. A tile takes the limit that was sent to it, and the 1 ms average is judged against the ceiling and the floor. -/
def Obligations.Tide : Prop :=
  ∀ (who : Requester) (k : Fin 4) (v : W64) (s : State),
    let x := s.tideSlot k
    (k.val < 3 → s.admits who tidePage (Reg.SRC k) = true →
      (whoCode who = k.val + 1 → Does (.tideSrcWrite who k v) s (fun u =>
        Writes tidePage (Reg.SRC k) [.tide] [(tidePage, Reg.SRC_STAT k), counter tidePage 2] s u ∧ Counts s u tidePage 2 1 ∧
        u.rb tidePage (Reg.SRC_STAT k) 18 = false ∧ u.rb tidePage (Reg.SRC k) 48 = fbit v 48 ∧
        u.rf tidePage (Reg.SRC k) 31 0 = fld v 31 0 ∧ u.rf tidePage (Reg.SRC k) 47 32 = fld v 47 32 ∧
        u.tideSlot k = if fbit v 48 && !s.rb tidePage (Reg.SRC k) 48 then { c := .nat 1000, f := .nat 0, since := s.up }
          else { x with since := s.up })) ∧
      (whoCode who ≠ k.val + 1 → Does (.tideSrcWrite who k v) s (fun u => Writes tidePage (Reg.SRC k) [.out, .fns] (evtRegs tidePage) s u ∧
        u.reg tidePage (Reg.SRC k) = s.reg tidePage (Reg.SRC k) ∧ Raised u tidePage 0))) ∧
    (let due := s.leased k && decide (s.leaseEnd k ≤ s.up)
     (due = true → k.val < 3 → Does (.tideLeaseLapse k) s (fun u => u.rb tidePage (Reg.SRC_STAT k) 18 = true ∧ Counts s u tidePage 3 1 ∧
       Raised u tidePage 1)) ∧
     (due = false → Does (.tideLeaseLapse k) s (fun u => u = s))) ∧
    Does .tideRampTick s (fun u => Frame [.tide] s u ∧
      (k.val ∈ s.tideSlots → u.tideSlot k = { x with c := rampMove x.c (s.tideCeil k) (s.rf tidePage (Reg.SRC k) 31 18),
                                                     f := rampMove x.f (s.tideFloor k) (s.rf tidePage (Reg.SRC k) 31 18) }) ∧
      (k.val ∉ s.tideSlots → u.tideSlot k = x)) ∧
    (∀ m : TideMeas,
      let c := s.tideC.mul (.nat 36)
      let f := s.tideF.mul (.nat 36)
      let p := Frac.nat m.inputW
      let g0 := if c.lt s.tide.cPrev then s.tide.g.sub (s.tide.cPrev.sub c) else s.tide.g
      let g := (g0.add ((c.sub p).mul (.mk' 1 4))).clamp (.nat 0) (.nat 36000)
      let acts := s.boot.main && decide (s.phase = 11)
      (acts = true → Does (.tideLoopStep m) s (fun u => Frame [.regs, .tide, .out, .fns] s u ∧ u.tide.g = g ∧ u.tide.cPrev = c ∧
        (p.lt c = false → u.tide.soak = .nat 0) ∧
        (p.lt c = true → f.lt p = true → u.tide.soak = (s.tide.soak.add ((f.sub p).mul (.mk' 1 4))).clamp (.nat 0) (.nat 36000)) ∧
        ∀ j : TileIx, s.tstate j ≠ 1 → Store.get none u.tide.sent j = Store.get none s.tide.sent j)) ∧
      (acts = false → Does (.tideLoopStep m) s (fun u => u = s))) ∧
    (∀ (i : TileIx) (lim : BitVec 16),
      let l (hi lo : Nat) : Nat := s.rf (pwrPage i) Reg.PWR_ILIM hi lo
      (Store.get none s.tide.sent i = some lim.toNat → lim.toNat ≤ 1000 → Does (.tideLimUpdate i lim) s (fun u =>
        Frame [.regs, .tide] s u ∧ RegsOutside [(pwrPage i, Reg.PWR_ILIM)] s u ∧ u.rf (pwrPage i) Reg.PWR_ILIM 25 16 = lim.toNat ∧
        u.eff i = min lim.toNat (min (l 41 32) (l 57 48)) ∧ Store.get none u.tide.sent i = none)) ∧
      (Store.get none s.tide.sent i ≠ some lim.toNat → Does (.tideLimUpdate i lim) s (fun u => u = s))) ∧
    (∀ p : Nat,
      let c := s.tideC.mul (.nat 36)
      let f := s.tideF.mul (.nat 36)
      let hot := (c.mul (.mk' 101 100)).lt (.nat p) && decide (s.tide.fellAt + 2000000 ≤ s.up)
      let short := (Frac.nat p).lt (f.mul (.mk' 99 100)) && decide (s.tide.movedAt + 10000000 ≤ s.up)
      let under := s.rb tidePage Reg.TIDE_STAT 2 && (Frac.nat p).lt (c.mul (.mk' 99 100)) && decide (s.tide.movedAt + 10000000 ≤ s.up)
      Does (.tideCompliance p) s (fun u => Frame [.regs, .out, .fns] s u ∧ u.rf tidePage Reg.TIDE_IN 47 32 = min 65535 p ∧
        u.rb tidePage Reg.TIDE_STAT 0 = (!hot && !short && !under && decide (p ≤ 36000)) ∧ u.rb tidePage Reg.TIDE_STAT 1 = short ∧
        Counts s u tidePage 4 (if hot then 1 else 0) ∧ Counts s u tidePage 5 (if short then 1 else 0) ∧
        (hot = true → Raised u tidePage 2) ∧ (short = true → Raised u tidePage 3)))

/-- R499 to R514. Temperatures and coolant. A sample sets its sensor's temperature, peak and level; a failed conversion makes it suspect, as
does a difference from its reference for 100 ms, until software trusts it again. The third sample at 118 °C drops main power, held after the
third shutdown in an hour; a restart follows its conditions. The quench controller lowers the limit of the hottest tile and releases the
others, and a tile takes the limit sent. Readings of the tray are kept, and judged every 10 s. -/
def Obligations.ThermalControl : Prop :=
  ∀ (r : SensorRef) (who : Requester) (v : W64) (s : State),
    let k := sensKey r
    let tray := trayPage 0
    let tileSens := decide (k < 2048)
    let th := thermPage (sensTile k)
    (s.sensPowered k = false ∨ 4096 ≤ k → ∀ x, Does (.sensorSample r x) s (fun u => u = s)) ∧
    (s.sensPowered k = true → k < 4096 →
      Does (.sensorSample r none) s (fun u => fbit (u.sensReg k) 15 = true ∧ u.trusted k = false ∧
        (s.trusted k = true → tileSens = true → Counts s u th 4 1 ∧ Raised u th 2)) ∧
      (∀ x : Int, let w := max (-2048) (min 2047 x)
        let peak := fld (s.sensReg k) 27 16
        Does (.sensorSample r (some x)) s (fun u => u.sensTemp k = w ∧ fbit (u.sensReg k) 15 = false ∧ u.trusted k = s.trusted k ∧
          toSigned 12 (fld (u.sensReg k) 27 16) = (if peak = 0 then w else max w (toSigned 12 peak)) ∧
          u.sensLevel k = (if s.trusted k then levelOf (s.sensLevel k) w else s.sensLevel k) ∧
          (s.trusted k = true → (u.sens1 k).hot = if 944 ≤ w then (s.sens1 k).hot + 1 else 0) ∧
          (s.trusted k = true → tileSens = true → s.sensLevel k = 0 → levelOf 0 w ≠ 0 → Counts s u th 0 1 ∧ Raised u th 0) ∧
          (s.trusted k = true → tileSens = true → s.sensLevel k ≠ 2 → levelOf (s.sensLevel k) w = 2 → Counts s u th 1 1 ∧ Raised u th 1)))) ∧
    (∀ m, s.trusted k = true → s.sensPowered k = true → medianOf ((s.refSet k).map s.sensTemp) = some m → Does .trustEval s (fun u =>
      ((s.sensTemp k - m).natAbs ≤ 120 → u.sens1 k = { s.sens1 k with off := none } ∧ u.trusted k = true) ∧
      (120 < (s.sensTemp k - m).natAbs → (s.sens1 k).off = none → u.sens1 k = { s.sens1 k with off := some s.up } ∧ u.trusted k = true) ∧
      (∀ t, 120 < (s.sensTemp k - m).natAbs → (s.sens1 k).off = some t → u.trusted k = decide (s.up ≤ t + 100000000)))) ∧
    (s.admits who (sensReg k).1 (sensReg k).2 = true → Does (.sensorRetrust who r v) s (fun u => u.trusted k = true ∧
      (s.trusted k = false → u.sens1 k = {}))) ∧
    (let trips := s.boot.main && s.trusted k && decide (3 ≤ (s.sens1 k).hot)
     let recent := s.boot.shuts.filter (fun t => decide (s.up < t + 3600000000000))
     (trips = false → Does (.thermalShutdown r) s (fun u => u = s)) ∧
     (trips = true → Does (.thermalShutdown r) s (fun u => u.boot.main = false ∧ u.boot.afterShut = true ∧ u.boot.shutAt = s.up ∧
       u.boot.shuts = recent ++ [s.up] ∧ Counts s u tray 0 1 ∧ u.pool = [] ∧ u.peat = [] ∧ u.streams = [] ∧
       u.reg tray Reg.SHUT_LAST = word [(0, (shutUnit k).1), (8, (shutUnit k).2), (16, fld (s.sensReg k) 11 0), (32, s.ts)] ∧
       (2 ≤ recent.length → u.rb tray Reg.SHUT_CTL 1 = true ∧ Raised u tray 8)))) ∧
    (let starts := s.mayRestart && (s.rb tray Reg.SHUT_CTL 0 || s.boot.restartReq)
     (starts = true → Does .autoRestart s (fun u => u.boot.main = true ∧ u.boot.afterShut = false ∧ u.boot.restarted = true ∧
       u.rf (stewPage 0) Reg.BOOT_STAT 3 0 = 3)) ∧
     (starts = false → Does .autoRestart s (fun u => u = s))) ∧
    (s.admits who tray Reg.SHUT_CTL = true →
      let may := (s.setRb tray Reg.SHUT_CTL 1 false).mayRestart
      Does (.shutRestart who v) s (fun u => u.rb tray Reg.SHUT_CTL 1 = false ∧ u.boot.main = (s.boot.main || may) ∧
        (may = false → s.boot.afterShut = true → u.boot.restartReq = true))) ∧
    (∀ (i : TileIx) (lim : BitVec 16),
      let pg := thermPage i
      let hot := (List.range 80).filter (fun j => s.anyHot j 840)
      let worst := hot.foldl (fun (b : Option Nat) j => match b with
        | some c => if s.tileHot c < s.tileHot j then some j else b
        | none => some j) none
      let cur := s.quenchLim i
      let lower := max (cur - 50) 50
      (s.boot.main = false → Does .quenchStep s (fun u => u = s)) ∧
      (s.boot.main = true → Does .quenchStep s (fun u =>
        (worst = some i.val → lower < cur → Store.get none u.quench.sent i = some lower ∧ Counts s u pg 2 1 ∧ u.rf pg Reg.QUENCH 11 10 = 1) ∧
        (s.anyHot i 840 = false → 1000 ≤ cur → u.rf pg Reg.QUENCH 11 10 = 0) ∧
        (s.anyHot i 840 = false → cur < 1000 → s.anyHot i 800 = true → u.rf pg Reg.QUENCH 11 10 = 2 ∧ Store.get none u.quench.timers i = none) ∧
        (s.anyHot i 840 = false → cur < 1000 → s.anyHot i 800 = false →
          (Store.get none s.quench.timers i = none → u.rf pg Reg.QUENCH 11 10 = 3 ∧ Store.get none u.quench.timers i = some s.up) ∧
          (∀ t, Store.get none s.quench.timers i = some t → t + 10000000 ≤ s.up → Counts s u pg 3 1 ∧
            Store.get none u.quench.sent i = some (min (cur + 20) 1000))))) ∧
      (Store.get none s.quench.sent i = some lim.toNat → lim.toNat ≤ 1000 → Does (.quenchLimUpdate i lim) s (fun u =>
        Frame [.regs, .quench] s u ∧ u.rf pg Reg.QUENCH 9 0 = lim.toNat ∧ u.rf (pwrPage i) Reg.PWR_ILIM 41 32 = lim.toNat ∧
        Store.get none u.quench.sent i = none)) ∧
      (Store.get none s.quench.sent i ≠ some lim.toNat → Does (.quenchLimUpdate i lim) s (fun u => u = s))) ∧
    (s.boot.vaux = true → ∀ (n raw pulses : Nat),
      let c := toSigned 16 raw * 100 / 128
      Does (.trayRead n none) s (fun u => Counts s u tray 2 1 ∧
        (n = 0 → u.tray.failIn = s.tray.failIn + 1) ∧ (n ≠ 0 → u.tray.failOut = s.tray.failOut + 1)) ∧
      Does (.trayRead n (some raw)) s (fun u => Counts s u tray 2 0 ∧
        (n = 0 → u.rf tray Reg.TRAY_TEMP 15 0 = ofSigned 16 c ∧ u.tray.failIn = 0 ∧ u.tray.inlets = s.tray.inlets ++ [c]) ∧
        (n ≠ 0 → u.rf tray Reg.TRAY_TEMP 31 16 = ofSigned 16 c ∧ u.tray.failOut = 0 ∧ u.tray.outlets = s.tray.outlets ++ [c])) ∧
      Does (.flowWindow pulses) s (fun u => Counts s u tray 3 pulses ∧ u.rf tray Reg.TRAY_FLOW 15 0 = min 65535 (pulses * 60) ∧
        Counts s u tray 1 (if s.rb tray Reg.TRAY_STAT 5 then 1 else 0) ∧ u.tray.flows = s.tray.flows ++ [pulses * 60] ∧
        u.tray.silent = if pulses = 0 then s.tray.silent + 1 else 0) ∧
      (let flow := natMean s.tray.flows (s.rf tray Reg.TRAY_FLOW 15 0)
       let low := if s.rb tray Reg.TRAY_STAT 1 then flow.lt (.nat 4590) else flow.lt (.nat 4500)
       Does .coolingJudge s (fun u => u.tray.inlets = [] ∧ u.tray.outlets = [] ∧ u.tray.flows = [] ∧ u.tray.powers = [] ∧
         u.rb tray Reg.TRAY_STAT 1 = low ∧ (low = true → s.rb tray Reg.TRAY_STAT 1 = false → Raised u tray 4) ∧
         (u.rb tray Reg.TRAY_STAT 5 = (u.rb tray Reg.TRAY_STAT 3 || u.rb tray Reg.TRAY_STAT 4)) ∧
         (u.rb tray Reg.TRAY_STAT 5 = true → s.rb tray Reg.TRAY_STAT 5 = false → Raised u tray 3)))) ∧
    (s.boot.vaux = false → ∀ n x p, Does (.trayRead n x) s (fun u => u = s) ∧ Does (.flowWindow p) s (fun u => u = s) ∧
      Does .coolingJudge s (fun u => u = s))

/-- R264, R278, R279, R281. Hand-off parts and draft trees. The bytes of a part are gathered by source and tag; a whole part whose rows are
of one stream is scanned into the stream's riddle place, or discarded and recorded, or dropped with an old generation, and answered
MOVE_DONE; it waits while peat that the scan reads is not ON. A wavefront that waits too long for a part reports a stall. A DRAFT_REQ puts
the draft stream's wavefront into its first bed. A tree that comes in time for the held wavefront replaces it, an invalid one sends it out
as it is, and so does the end of the wait. -/
def Obligations.HandsAndDrafts : Prop :=
  ∀ (i : TileIx) (p : Packet) (s : State),
    let pg := riddlePage i
    let set (r' : RPlace) (u : State) : Prop :=
      Store.get [] u.rplaces i = (Store.get [] s.rplaces i).map (fun q => if q.index = r'.index then r' else q)
    (s.accepts i opHand p = true → s.handWaits i p = true → Does (.hand p) s (fun u => u = s)) ∧
    (s.accepts i opHand p = true → s.handWaits i p = false →
      let x := (s.gatherHand i p).1
      let rest := (s.gatherHand i p).2
      let rows := validRows x.bytes
      (x.got < x.total → Does (.hand p) s (fun u => s.answered u i p [] ∧ u.rplaces = s.rplaces ∧ Store.get [] u.handRx i = rest ++ [x])) ∧
      (x.total ≤ x.got → s.canSend i (replyTo p opMoveDone 0 x.total []) = true →
        let ends (f : State → Prop) : Prop := Does (.hand p) s (fun u =>
          s.answered u i p [replyTo p opMoveDone 0 x.total []] ∧ Store.get [] u.handRx i = rest ∧ f u)
        (rows = [] → ends (fun u => u.rplaces = s.rplaces ∧ Counts s u pg 2 1)) ∧
        (∀ y ys, rows = y :: ys → (∀ z ∈ ys, z.1.stream = y.1.stream) →
          let n := y.1.stream
          (y.1.gen ≠ s.genAt i n → ends (fun u => u.rplaces = s.rplaces ∧ Counts s u pg 3 1)) ∧
          (y.1.gen = s.genAt i n → (s.homeTile i (s.polderOf i) n ≠ some i.val ∨ s.scanPlace i n = none) →
            ends (fun u => u.rplaces = s.rplaces ∧ Counts s u pg 4 1 ∧ Raised u pg 2)) ∧
          (∀ r, y.1.gen = s.genAt i n → s.homeTile i (s.polderOf i) n = some i.val → s.scanPlace i n = some r →
            let bad := (r.parts.head?.map (·.parts)).getD x.parts ≠ x.parts ∨ (∃ q ∈ r.parts, q.part = x.part) ∨
              (r.phase = .gathering ∧ ∃ z ∈ rows, rowMatches (waveHead r.wave) z.1.pos z.1.node = false)
            (bad → ends (fun u => u.rplaces = s.rplaces ∧ u.peat = s.peat ∧ Counts s u pg 4 1 ∧ Raised u pg 2)) ∧
            (¬ bad → ends (fun u => set (r.take ⟨x.part, x.parts, rows.map (fun z => s.scanRow (s.scanCtx i r) x.part z.1 z.2)⟩) u ∧
              Counts s u pg 2 1 ∧ ∀ (j : TileIx) (a : Nat), a < peatSize → j ≠ i ∨ a < s.placeAt i r.index ∨ s.placeAt i r.index + 196608 ≤ a →
                Store.get 0 u.peat (peatKey j a) = Store.get 0 s.peat (peatKey j a))))))) ∧
    (∀ (n : StreamIx) (r : RPlace), s.ridPlace n.toNat .gathering = some (i.val, r) →
      let ns := s.rf pg Reg.RID_PART_TMO 31 0
      let due := ns ≠ 0 && decide (r.since + ns ≤ s.up) && (!r.complete || !s.ridAligned i)
      (due = true → Does (.partTimeout n) s (fun u => set { r with since := s.up } u ∧ Raised u pg 3 ∧
        u.reg pg Reg.RID_LAST = word [(0, n.toNat), (12, (waveHead r.wave).gen.toNat), (20, 4), (32, (waveHead r.wave).pos0)] ∧
        u.reports = s.reports ++ [⟨i, 3, 5, 0, s.up⟩])) ∧
      (due = false → Does (.partTimeout n) s (fun u => u = s))) ∧
    (s.accepts i opDraftReq p = true →
      let o := p.operand.toNat
      let n := bits o 11 0
      let m := bits o 26 20
      let commitN := bits o 31 27
      let x := s.stream n
      ∀ b k, s.firstBed x.polder = some b → s.entryTile b = some i.val → (m = 0 ∨ m + 1 = commitN) → s.freeNormal b = some k →
        s.fenced x.polder = false → x.draft = true → x.gen.toNat = bits o 19 12 → (x.st = .bound ∨ x.st = .prefill) →
        let waits := s.tokenWaits x.polder || decide (s.rf polderPage (Reg.POLD_LOOP x.polder) 15 0 < s.inLoop x.polder + 1)
        (waits = true → Does (.draftReq p) s (fun u => u = s)) ∧
        (waits = false →
          let pos := bits o 63 32
          let root := leAt p.payload (4 * m) 4
          let accept := ((p.payload.drop (4 * m + 4)).take commitN).map (·.toNat)
          let head : Head :=
            { stream := n, gen := x.gen, polder := x.polder, rstage := false, bed := b, kind := kPrefill, cls := x.cls, last := false,
              tokens := true, rows := m, fmt := 0, pos0 := pos - m, seq := (x.seq + 1) % 2 ^ 32, enq := s.now.toNat, rowBytes := 4,
              commitN := 0, accept := [] }
          let w := tokenWave head pos root accept (some ([⟨root, 0, 0, 0x3F80⟩], [[0]]))
          s.current i (waveHead w) = true →
          Does (.draftReq p) s (fun u => s.answered u i p [] ∧ Counts s u polderPage 6 1 ∧ (∀ k', k' < 128 → k' ≠ k → u.place b k' = s.place b k') ∧
            u.place b k = { used := true, full := true, src := i, got := w.length, data := withHead w { waveHead w with enq := s.now.toNat } } ∧
            u.stream n = { x with paths := [], frontier := 0, seq := (x.seq + 1) % 2 ^ 32, inflight := x.inflight + 1 }))) ∧
    (s.accepts i opDraftTree p = true →
      let h := Head.ofBytes p.payload
      let x := s.stream h.stream
      ∀ r, (Store.get [] s.rplaces i).find? (fun r => r.stream = h.stream && r.phase = .draftWait) = some r →
        let held := waveHead r.wave
        let fits := decide (held.gen = h.gen) && decide (held.pos0 = h.pos0) &&
          decide (s.up ≤ r.since + s.rf polderPage (Reg.POLD_DRAFT x.polder) 63 32)
        let sec := p.payload.drop 64
        let l := treeNodes sec h.rows
        let tree := trimTree l (maskRows sec h.rows) held.pos0 x.posLimit x.treeNodes x.treeDepth
        let ends (f : State → Prop) : Prop := Does (.draftTree p) s (fun u => s.answered u i p [] ∧ (x.gen = h.gen → (u.stream h.stream).draftOut = false) ∧ f u)
        (fits = false → ends (fun u => u.rplaces = s.rplaces)) ∧
        (fits = true → treeValid l = false → ends (fun u => set { r with phase := .leaving } u ∧ Counts s u polderPage 8 1 ∧
          Counts s u polderPage 7 1 ∧ Raised u polderPage 2)) ∧
        let w := tokenWave held held.pos0 (leNat ((waveRows r.wave).take 4)) ((held.accept.take held.commitN).map (·.toNat)) (some tree)
        (fits = true → treeValid l = true → ends (fun u => Counts s u polderPage 6 1 ∧
          set { r with phase := .leaving, wave := w } u))) ∧
    (∀ (n : StreamIx) (r : RPlace), s.ridPlace n.toNat .draftWait = some (i.val, r) →
      let late := decide (r.since + s.rf polderPage (Reg.POLD_DRAFT (s.stream n.toNat).polder) 63 32 ≤ s.up)
      (late = true → Does (.draftWaitTimeout n) s (fun u => set { r with phase := .leaving } u ∧ Counts s u polderPage 7 1 ∧ Raised u polderPage 2)) ∧
      (late = false → Does (.draftWaitTimeout n) s (fun u => u = s)))

/-- R281, R290, R292 to R300, R303. Selection for a row that is no tree. The complete wavefront of a stream, aligned and current, is worked
on once the peat that it reads is ON; an uncorrectable error there is reported, and nothing is selected. With no allowed token the stream
ends with NO_TOKEN. The token selected, the first candidate under greedy decoding and otherwise the one that R293 draws from the support,
is recorded in the stream's ring and counted; a token that ends the stream drains it with its status, and otherwise the next token
wavefront waits in the riddle place. Without room in the journal the stream ends with FAULT. -/
def Obligations.TokenSelection : Prop :=
  ∀ (n : StreamIx) (e : EccResult) (addr : Addr) (i : TileIx) (r : RPlace) (s : State), s.ridPlace n.toNat .gathering = some (i.val, r) →
    let pg := riddlePage i
    let c := s.rctx i r
    let h := waveHead r.wave
    let y := s.stream n.toNat
    let reads := s.ridPieces c (if h.kind = kTree then List.range c.nodes.length else [0])
    let works := r.complete && s.ridAligned i && s.piecesOn i reads
    let sound := (s.ridRead i reads e addr.toNat).1
    let leaves (u : State) : Prop := Store.get [] u.rplaces i = (Store.get [] s.rplaces i).filter (fun q => q.index ≠ r.index)
    (s.fenced h.polder = true → Does (.riddleSelect n e addr) s (fun u => u = s)) ∧
    (s.fenced h.polder = false → s.genAt i n.toNat ≠ h.gen → Does (.riddleSelect n e addr) s (fun u => leaves u ∧ Counts s u polderPage 2 1 ∧
      (u.stream n.toNat).inflight = y.inflight - 1)) ∧
    (s.fenced h.polder = false → s.genAt i n.toNat = h.gen → works = false → Does (.riddleSelect n e addr) s (fun u => u = s)) ∧
    (s.fenced h.polder = false → s.genAt i n.toNat = h.gen → works = true → sound = false → Does (.riddleSelect n e addr) s (fun u =>
      u.rplaces = s.rplaces ∧ u.streams = s.streams ∧ Counts s u (peatPage i) 5 1 ∧ Raised u (peatPage i) 1 ∧
      u.reports = s.reports ++ [⟨i, 2, 5, 0, s.up⟩])) ∧
    (s.fenced h.polder = false → s.genAt i n.toNat = h.gen → works = true → sound = true → y.draft = false → h.kind ≠ kTree →
      (y.st = .prefill ∨ y.st = .decode) →
      let row := if h.kind = kPrefill then y.limit - 1 else h.pos0
      let x := c.rowSel 0 row
      let sup := support c.record x
      let choice := if c.greedy then x.cand.head?
        else sampleTok sup (sumSeq (sup.map (·.w))) (draw24 c.record.seed ⟨1, n.toNat, h.gen.toNat, 0, 0, row + 1, 0⟩)
      let room := s.jrnRoom n.toNat (y.emitted + 1)
      let recorded (t : TokenRec) (u : State) : Prop := Counts s u pg 0 1 ∧ (u.stream n.toNat).emitted = y.emitted + 1 ∧
        (y.egress = false → s.qEn y.port kTr y.tring = true → s.buffered y.port < 16384 →
          (u.qDyn y.port kTr y.tring).fifo = (s.qDyn y.port kTr y.tring).fifo ++ [t.bytes])
      let ended (status : Nat) (u : State) : Prop := leaves u ∧ (u.stream n.toNat).st = .draining ∧ (u.stream n.toNat).status = status ∧
        (u.stream n.toNat).gen = y.gen + 1
      (room = false → Does (.riddleSelect n e addr) s (fun u => ended stFault u ∧ (u.stream n.toNat).emitted = y.emitted)) ∧
      (choice = none → room = true → Does (.riddleSelect n e addr) s (fun u => ended stNoToken u ∧ Counts s u pg 7 1 ∧ Raised u pg 0 ∧
        recorded ⟨row + 1, 0xFFFFFFFF, n.toNat, y.gen, 0xFF80, stNoToken, true, decide (y.emitted = 0), false, true, y.emitted + 1⟩ u)) ∧
      (∀ k, choice = some k → room = true →
        let g := if c.record.gramEn then (s.gramNext i c.record.grammar c.record.gstate k.id).getD c.record.gstate else c.record.gstate
        let stop := s.endsWith i n.toNat ⟨k.id, logProb x k, row + 1, false⟩ g
        let t : TokenRec := ⟨row + 1, k.id, n.toNat, y.gen, logProb x k, stop.getD 0, stop.isSome, decide (y.emitted = 0), false, false, y.emitted + 1⟩
        (∀ st, stop = some st → Does (.riddleSelect n e addr) s (fun u => ended st u ∧ recorded t u)) ∧
        (stop = none → s.coupled n.toNat = false → c.record.ngram = false →
          Does (.riddleSelect n e addr) s (fun u => recorded t u ∧
            Store.get [] u.rplaces i = (Store.get [] s.rplaces i).map (fun q => if q.index = r.index then
              { r with wave := tokenWave h (row + 1) k.id [] none, parts := [], cands := [], phase := .leaving, since := s.up } else q) ∧
            u.stream n.toNat = { y with
              st := .decode, emitted := y.emitted + 1, lastTs := s.now, unsent := y.unsent ++ [k.id], replay := none,
              jrnGap := y.jrnGap || !(s.jrnPut (s.jrnEntry n.toNat (y.emitted + 1)) t.bytes).1,
              chunks := if h.kind = kPrefill then y.chunks - 1 else y.chunks }))))

/-- R520 to R527, R532 to R535. Fault reports and the sequencer. A tile's report is recorded and forwarded; heartbeats are counted and the third
missed one reported. A report that the sequencer takes is logged, and acted on by the verdict of its cause: the heat of its tile is fenced with
a new epoch and its streams held, a retired tile is QUARANTINED and loses its slots, a hold waits for RESUME, and a stack failure stops every
heat. RC_TILE retires a tile or sends a quarantined one to self-test, which ends with a spare or a withdrawn tile. -/
def Obligations.FaultReports : Prop :=
  ∀ (i : TileIx) (who : Requester) (p : PolderIx) (v : W64) (s : State),
    let fp := faultPage i
    let beats := decide (s.tstate i = 1) || decide (s.tstate i = 2)
    let age := s.up - Store.get 0 s.beats i
    (∀ (cause unit : BitVec 8) (detail : W32),
      let ok := s.boot.main && decide (1 ≤ cause.toNat) && (decide (cause.toNat ≤ 8) || decide (cause.toNat = 12)) && decide (unit.toNat < 8)
      (ok = true → Does (.faultReport i cause unit detail) s (fun u => Frame [.regs, .out, .fns, .reports] s u ∧ RegsOutside (reportRegs i) s u ∧
        u.rf fp Reg.FAULT_REC 7 0 = cause.toNat ∧ u.rf fp Reg.FAULT_REC 10 8 = unit.toNat ∧ u.rf fp Reg.FAULT_REC 63 32 = s.ts ∧
        u.rf fp Reg.FAULT_INFO 31 0 = detail.toNat ∧ Counts s u fp 0 1 ∧ Raised u fp 0 ∧
        u.reports = s.reports ++ [⟨i, cause.toNat, unit.toNat, detail.toNat, s.up⟩])) ∧
      (ok = false → Does (.faultReport i cause unit detail) s (fun u => u = s))) ∧
    (beats = true → Does (.heartbeat i) s (fun u => Frame [.regs, .beats] s u ∧ RegsOutside [counter fp 1] s u ∧ Counts s u fp 1 (age / 10000 - 1) ∧
      Store.get 0 u.beats i = s.up)) ∧
    (beats = false → Does (.heartbeat i) s (fun u => u = s)) ∧
    (beats = true → 30000 ≤ age → Does (.heartbeatMiss i) s (fun u => Counts s u fp 1 3 ∧ u.reports = s.reports ++ [⟨i, 9, 0, 0, s.up⟩])) ∧
    (beats = false ∨ age < 30000 → Does (.heartbeatMiss i) s (fun u => u = s)) ∧
    (let mine (r : Report) : Bool := decide (r.tile = i.val) || (decide (80 ≤ r.tile) && i.val = 0)
     (s.reports.find? mine = none → Does (.recastStart i) s (fun u => u = s)) ∧
     (∀ r, s.reports.find? mine = some r → r.cause < 16 → castState s = 4 →
      let w := s.verdict r
      let logged (u : State) : Prop := ∃ e ∈ u.evWay, e.cause = 7 ∧ e.sev = 2
      (∀ h : PolderIx, r.tile = i.val → r.cause ≠ 13 → r.cause ≠ 15 → s.tstate w.victim = 1 → s.member w.victim = true →
        s.heatKey (s.polderOf w.victim) = h.val → (s.heat h).phase = .running → s.storming h = false →
        let fenced (u : State) : Prop := ∀ q ∈ s.heatOf h, u.rf polderPage (Reg.RC_STAT q) 15 8 = w.cause ∧
          u.rf polderPage (Reg.RC_STAT q) 27 24 = (s.rf polderPage (Reg.RC_STAT q) 27 24 + 1) % 16 ∧
          ∀ j : TileIx, u.epochOf j q = (s.rf polderPage (Reg.RC_STAT q) 27 24 + 1) % 16
        let held (u : State) : Prop := ∀ n ∈ s.heatStreams h, (u.stream n).st = .held
        (w.action = some 0 → Does (.recastStart i) s (fun u => logged u ∧ fenced u ∧ held u ∧ Raised u polderPage 3 ∧
          (u.heat h).phase = .settling ∧ (u.heat h).report = r.since ∧ (u.heat h).fenced = s.up ∧
          ∀ q ∈ s.heatOf h, u.rf polderPage (Reg.RC_STAT q) 2 0 = 1)) ∧
        (w.action = some 2 → Does (.recastStart i) s (fun u => logged u ∧ fenced u ∧ held u ∧ Raised u polderPage 3 ∧
          (u.heat h).phase = .held ∧ ∀ q ∈ s.heatOf h, u.rf polderPage (Reg.RC_STAT q) 2 0 = 3)) ∧
        (w.action = some 1 → Does (.recastStart i) s (fun u => logged u ∧ fenced u ∧ u.tstate w.victim = 4 ∧ Counts s u polderPage 10 1 ∧
          ∀ k, (Store.get 0 u.slotMap k).toNat ≠ 128 + w.victim))) ∧
      (r.cause = 13 → Does (.recastStart i) s (fun u => logged u ∧ ∀ q ∈ s.allHeats, (s.heat q).phase ≠ .stopped → (u.heat q).phase = .held)) ∧
      (r.cause = 15 → Does (.recastStart i) s (fun u => logged u ∧ ∀ q ∈ s.allHeats, (u.heat q).phase = .stopped)))) ∧
    (s.admits who polderPage (Reg.RC_CTL p) = true →
      let h := s.heat p
      let ends (f : State → Prop) : Prop := Does (.rcResume who p v) s (fun u =>
        Frame [.regs, .guards, .shadows, .sealRun, .heats] s u ∧ u.rb polderPage (Reg.RC_CTL p) 0 = false ∧ f u)
      (h.phase ≠ .held → ends (fun u => u.heats = s.heats)) ∧
      (h.phase = .held → h.cause = 13 → s.sealRun.fenced = true → ends (fun u => u.heat p = { h with ask := true })) ∧
      (h.phase = .held → (h.cause ≠ 13 ∨ s.sealRun.fenced = false) → ends (fun u =>
        u.heat p = { h with phase := .settling, fenced := s.up, ask := false } ∧ ∀ q ∈ s.heatOf p, u.rf polderPage (Reg.RC_STAT q) 2 0 = 1))) ∧
    (s.admits who polderPage Reg.RC_TILE = true → fld v 6 0 = i.val →
      Does (.rcRetire who v) s (fun u => u.rb polderPage Reg.RC_TILE 12 = false ∧ u.tstate i = s.tstate i ∧
        (beats = true → u.reports = s.reports ++ [⟨i, 11, 0, 0, s.up⟩]) ∧ (beats = false → u.reports = s.reports)) ∧
      Does (.rcReadmit who v) s (fun u => u.rb polderPage Reg.RC_TILE 12 = false ∧ u.reports = s.reports ∧
        u.tstate i = if s.tstate i = 4 then 5 else s.tstate i)) ∧
    (let tests := decide (s.tstate i = 4) && s.rb polderPage (Reg.RC_CTL (s.rectPolder i)) 24 && decide (Store.get 0 s.retires i < 3)
     (tests = false → Does (.quarantineSelfTest i) s (fun u => u = s)) ∧
     (tests = true → Does (.quarantineSelfTest i) s (fun u => u.tstate i = 5 ∧ Counts s u (stewPage 0) 2 1 ∧ u.reports = s.reports ∧
       u.slotMap = s.slotMap ∧ u.heats = s.heats ∧ ∀ n, n < 8 → s.domCode i n = 0 → s.rampOf i n = none →
         ∃ r, u.rampOf i n = some r ∧ r.phase = .asked ∧ r.cls = 2 ∧ r.asked = s.up))) ∧
    (s.tstate i = 5 → Does (.selfTestDone i true) s (fun u => u.tstate i = 2 ∧ Store.get 0 u.beats i = s.up ∧ Store.get false u.planDue i = true ∧
        ∀ n, n < 8 → u.domCode i n = if n < 4 then 0 else 1) ∧
      Does (.selfTestDone i false) s (fun u => u.tstate i = 6 ∧ u.reports = s.reports ∧ ∀ n, n < 8 → u.domCode i n = 0)) ∧
    (s.tstate i ≠ 5 → ∀ b, Does (.selfTestDone i b) s (fun u => u = s))

/-- R524, R525, R528, R529, R539, R540, R547. The steps of a recast. When the journal settle ends, every live tile of the heat is reset and its
streams leave the loop; a refill begins once a spare's layers 0 and 1 are ON and is done when all four are; and a heat whose spares are
whole is re-admitted: it runs, its spares are active, its streams go on, and the time of the recast is kept. -/
def Obligations.HeatRecovery : Prop :=
  ∀ (p : PolderIx) (s : State),
    let h := s.heat p
    let busy := decide (h.phase = .settling) || decide (h.phase = .refilling)
    let due := decide (h.phase = .settling) && decide (h.fenced + s.settleNs p ≤ s.up)
    (due = false → Does (.settleEnd p) s (fun u => u = s)) ∧
    (due = true → Does (.settleEnd p) s (fun u => (u.heat p).phase = .refilling ∧ (u.heat p).swaps = h.swaps ∧
      (∀ i ∈ s.heatTiles p, (∀ g, g < 1024 → u.gate i g = 0) ∧ (∀ k t, k < 4 → t < 8 → (u.task i k t).st = .idle) ∧
        (∀ k, k < 4 → (u.cru i k).icache = []) ∧ Store.get [] u.rplaces i = []) ∧
      (∀ n ∈ s.heatStreams p, u.stream n = { s.stream n with inflight := 0, chunks := 0, draftOut := false, paths := [], frontier := 0 }) ∧
      (h.swaps ≠ [] → ∀ q ∈ s.heatOf p, u.rf polderPage (Reg.RC_STAT q) 2 0 = 2))) ∧
    (busy = false → Does (.refillStart p) s (fun u => u = s) ∧ Does (.refillDone p) s (fun u => u = s)) ∧
    (busy = true → Does (.refillStart p) s (fun u => Frame [.heats] s u ∧ u.heat p = { h with swaps := h.swaps.map (fun w =>
      if s.domCode w.spare 4 = 2 && s.domCode w.spare 5 = 2 then { w with begun := true } else w) })) ∧
    (let ready (w : Swap) : Bool := w.begun && !w.done && [4, 5, 6, 7].all (fun n => s.domCode w.spare n = 2)
     busy = true → Does (.refillDone p) s (fun u => u.heat p = { h with swaps := h.swaps.map (fun w => if ready w then { w with done := true } else w) } ∧
       (h.swaps.any ready = false → Frame [.heats] s u))) ∧
    (let whole := decide (h.phase = .refilling) && h.swaps.all (fun w => w.done && (List.range 8).all (fun n => s.domCode w.spare n = 2))
     (whole = false → Does (.readmission p) s (fun u => u = s)) ∧
     (whole = true → Does (.readmission p) s (fun u =>
       u.heat p = { h with phase := .running, swaps := [], ask := false, admits := h.admits.drop (h.admits.length - 254) ++ [s.up] } ∧
       Counts s u polderPage 9 1 ∧ Raised u polderPage 4 ∧ (∃ r, u.evWay.getLast? = some r ∧ r.cause = 8 ∧ r.sev = 1) ∧
       (∀ w ∈ h.swaps, w.spare < 80 → u.tstate w.spare = 1) ∧
       (∀ q ∈ s.heatOf p, u.rf polderPage (Reg.RC_STAT q) 2 0 = 0 ∧
         u.rf polderPage (Reg.RC_TIME q) 31 0 = min (s.up - h.report) (2 ^ 32 - 1)) ∧
       ∀ n ∈ s.heatStreams p, let x := s.stream n
         x.st = .held → x.kept = .bound → x.linked = false →
           if s.jrnOn then (u.stream n).st = .bound else (u.stream n).st = .draining ∧ (u.stream n).status = 0x15)))

/-- R549 to R558, R560, R607, R609. Power-on and bring-up. VAUX puts every register at its reset value but the state and the nonce of the
security block, and its loss takes them there too. The firmware slot booted last is verified, then the other; both bad leave the stewards
FAILED. Main power needs VAUX, running firmware, MAIN_INH# released and no hold. A stack is trained and zeroed or DOWN; a tile is tested once
its tester passed and its power fits, and its result closes its entry; the map is recorded when every entry is closed, and READY follows. -/
def Obligations.BringUp : Prop :=
  ∀ (i : TileIx) (j : StackIx) (s : State),
    let st := stewPage 0
    let tray := trayPage 0
    let cold : Boot := { inh := s.boot.inh, perst := s.boot.perst }
    (s.boot.vaux = true → Does .vauxOn s (fun u => u = s)) ∧
    (s.boot.vaux = false → Does .vauxOn s (fun u => RegsOutside [(secPage, Reg.SEC_STAT), (secPage, Reg.ENR_NONCE)] State.reset u ∧
      u.rf secPage Reg.SEC_STAT 1 0 = 1 ∧ u.reg secPage Reg.ENR_NONCE = Config.random64 s.fresh ∧ u.boot = { cold with vaux := true } ∧ u.now = 0 ∧
      u.flash = s.flash ∧ u.sec = s.sec ∧ u.host = s.host ∧ u.tasks = [] ∧ u.streams = [] ∧ u.pool = [] ∧ u.peat = [] ∧ u.mire = [])) ∧
    (s.boot.vaux = true → Does .vauxLost s (fun u => RegsOutside [] State.reset u ∧ u.boot = cold ∧ u.sec = s.sec ∧
      u.flash = { s.flash with powered := s.flash.powered + s.up / 1000000000 } ∧ u.tasks = [] ∧ u.streams = [] ∧ u.evRing = [])) ∧
    (s.boot.vaux = false → Does .vauxLost s (fun u => u = s)) ∧
    Does .mainInhAssert s (fun u => u.boot.inh = true ∧ u.boot.main = false ∧ (s.boot.main = false → Frame [.boot] s u) ∧
      (s.boot.main = true → u.pool = [] ∧ u.peat = [] ∧ u.mire = [] ∧ u.tasks = [] ∧ u.streams = [])) ∧
    Does .mainInhDeassert s (fun u => Frame [.boot] s u ∧ u.boot = { s.boot with inh := false }) ∧
    (∀ f0 f1 : FwImage,
      let idle := s.boot.vaux && !s.boot.fwOk && decide (s.rf st Reg.STEW_STAT 1 0 ≠ 3)
      let a := s.flash.slot % 2
      let first := if a = 0 then f0 else f1
      let second := if a = 0 then f1 else f0
      let good (f : FwImage) : Bool := f.sigOk && decide (s.sec.rollback.toNat ≤ f.release.toNat)
      let runs (f : FwImage) (slot : Nat) (u : State) : Prop := u.boot = { s.boot with fwOk := true, release := f.release } ∧ u.phase = 2 ∧
        ∀ d : DieIx, u.rf (stewPage d) Reg.STEW_STAT 1 0 = 2 ∧ u.rf (stewPage d) Reg.STEW_STAT 2 2 = slot
      let stale (f : FwImage) (u : State) : Prop := f.sigOk = true → good f = false → Raised u secPage 3
      (idle = false → Does (.fwVerify f0 f1) s (fun u => u = s)) ∧
      (idle = true → good first = true → Does (.fwVerify f0 f1) s (fun u => Frame [.regs, .boot] s u ∧ runs first a u)) ∧
      (idle = true → good first = false → good second = true → Does (.fwVerify f0 f1) s (fun u =>
        runs second (1 - a) u ∧ Counts s u st 1 1 ∧ Raised u st 2 ∧ stale first u)) ∧
      (idle = true → good first = false → good second = false → Does (.fwVerify f0 f1) s (fun u => u.boot = s.boot ∧ Raised u st 1 ∧
        stale first u ∧ stale second u ∧ (∀ d : DieIx, u.rf (stewPage d) Reg.STEW_STAT 1 0 = 3) ∧
        ∃ r, u.evWay = s.evWay ++ [r] ∧ r.cause = 10 ∧ r.sev = 3))) ∧
    (let may := s.boot.vaux && s.boot.fwOk && !s.boot.main && !s.boot.inh && !s.rb tray Reg.SHUT_CTL 1
     let again := s.mayRestart && (s.rb tray Reg.SHUT_CTL 0 || s.boot.restartReq)
     let on (b : Bool) (u : State) : Prop := u.boot.main = true ∧ u.boot.restarted = b ∧ u.boot.afterShut = false ∧ u.phase = 3
     (may = true → s.boot.afterShut = false → Does .mainPowerEnable s (on false)) ∧
     (may = true → s.boot.afterShut = true → again = true → Does .mainPowerEnable s (on true)) ∧
     (may = false ∨ (s.boot.afterShut = true ∧ again = false) → Does .mainPowerEnable s (fun u => u = s))) ∧
    (let may := s.boot.main && decide (s.stackState j < 2)
     (may = true → Does (.mireBringup j true) s (fun u => u.stackState j = 2 ∧ u.phase = max s.phase 4 ∧
       ∀ a, Store.get 0 u.mire a = if mireStack a = j.val then 0 else Store.get 0 s.mire a) ∧
       Does (.mireBringup j false) s (fun u => u.stackState j = 3 ∧ Raised u (mirePage j) 2 ∧ u.mire = s.mire)) ∧
     (may = false → ∀ b, Does (.mireBringup j b) s (fun u => u = s))) ∧
    (let may := s.boot.main && decide (s.phase < 10) && decide ((s.site i).result = 0)
     (may = false → Does (.tileTest i) s (fun u => u = s)) ∧
     (may = true → s.restartTooHot = true → Does (.tileTest i) s (fun u => u.boot.main = false ∧ u.boot.afterShut = true ∧ u.boot.shutAt = s.up)) ∧
     (may = true → s.restartTooHot = false → s.tester i = none → Does (.tileTest i) s (fun u => u = s)) ∧
     (∀ port who, may = true → s.restartTooHot = false → s.tester i = some (port, who) →
       (3600 < s.rf tidePage Reg.TIDE_IN 47 32 + 120 → Does (.tileTest i) s (fun u => u = s)) ∧
       (s.rf tidePage Reg.TIDE_IN 47 32 + 120 ≤ 3600 → Does (.tileTest i) s (fun u => u.site i = { s.site i with result := 9, tester := who } ∧
         u.rf (clkPage i) Reg.CLK_PARENT 2 0 = port ∧ Counts s u st 2 1 ∧ u.phase = max s.phase (5 + ringOf i))))) ∧
    (∀ (result : BitVec 8) (lanes : List (BitVec 8)),
      let r := result.toNat
      let toTester (p : Nat) : Bool := match s.tester i with | some t => decide (t.1 = p) | none => false
      let trains (p : Nat) : Bool := r ≠ 2 && (toTester p || (r = 1 && s.mayTrain i p))
      let live (p : Nat) : Nat := (lanes.getD p 0).toNat
      let linked := (List.range 5).any (fun p => toTester p && decide (live p ≠ 0))
      let may := decide ((s.site i).result = 9) && decide (1 ≤ r) && decide (r ≤ 7) && (decide (r = 2) || linked)
      (may = false → Does (.tileTestDone i result lanes) s (fun u => u = s)) ∧
      (may = true → Does (.tileTestDone i result lanes) s (fun u => (u.site i).result = r ∧
        (u.site i).lanes = ((List.range 5).map (fun p => if trains p then live p * 2 ^ (8 * p) else 0)).sum ∧
        (∀ p, p < 5 → u.rf (cetisPage i) Reg.LANES (8 * p + 7) (8 * p) =
          if trains p then live p else s.rf (cetisPage i) Reg.LANES (8 * p + 7) (8 * p)) ∧
        (∀ p n, p < 4 → trains p = true → neighbour i p = some n →
          u.rf (cetisPage n) Reg.LANES (8 * facing p + 7) (8 * facing p) = live p) ∧
        (∀ g, g < 1024 → u.gate i g = 0) ∧ (∀ n, n < 4 → u.domCode i n = 0) ∧ ∀ n, 4 ≤ n → n < 8 → u.domCode i n = if r = 1 then 1 else 0))) ∧
    (∀ flashOk : Bool,
      let closed := (List.range 80).all (fun n => (s.site n).result ≠ 0 && (s.site n).result ≠ 9)
      let may := s.boot.main && decide (s.phase < 10) && closed
      (may = false → Does (.siteMapRecord flashOk) s (fun u => u = s)) ∧
      (may = true → Does (.siteMapRecord flashOk) s (fun u => u.phase = 10 ∧ (u.site i).result = (s.site i).result ∧
        ((s.site i).result ≠ 1 → u.tstate i = 6) ∧ ((s.site i).result = 1 → u.tstate i = s.tstate i ∧ Counts s u (agePage i) 2 1) ∧
        u.flash.boots = s.flash.boots + (if flashOk then 1 else 0) ∧ u.rf st Reg.BOOT_STAT 63 48 = u.flash.boots % 65536 ∧
        (flashOk = false → Raised u st 5)))) ∧
    (let may := s.boot.main && decide (s.phase = 10)
     (may = false → Does .bootReady s (fun u => u = s)) ∧
     (may = true → Does .bootReady s (fun u => u.phase = 11 ∧ u.rf st Reg.BOOT_STAT 47 16 = s.up / 1000000 % 2 ^ 32 ∧
       u.flash = { s.flash with slot := s.rf st Reg.STEW_STAT 2 2 } ∧ Counts s u st 0 1 ∧ Raised u st 0 ∧ u.boot.restarted = false ∧
       (s.boot.restarted = true → Raised u tray 7) ∧ ∃ r, u.evWay = s.evWay ++ [r] ∧ r.cause = 10 ∧ r.sev = 0)))

/-- R562 to R566. Ageing. A sample falls due PERIOD_S after the last and waits for a window free of stretching; one whose two oscillators agree
within 3 mV sets its crucible's drift, counted and kept in module flash, and makes a plan due when the drift since the last plan passes TH_DMV;
one that waited past WAIT_S is late. A sample of a fenced tile is not taken. A due plan outside a recast sets the voltages and the valid
points of the tile's table and the highest frequency, and starts the drift since the plan anew. -/
def Obligations.Ageing : Prop :=
  ∀ (i : TileIx) (k : CruIx) (who : Requester) (v : W64) (drift osc : W32) (s : State),
    let pg := agePage i
    let asked := (s.agingOf (i * 4 + k)).now
    let falls := (s.agingOf (i * 4 + k)).last + 1000000000 * max 1 (s.rf pg Reg.AGE_CTL 15 0)
    let taken := decide (s.tstate i < 3) && (asked || decide (falls ≤ s.up)) && !s.stretching i k
    let late := !asked && decide (falls + 1000000000 * s.rf pg Reg.AGE_CTL 23 16 ≤ s.up)
    (taken = false → Does (.ageSample i k drift osc) s (fun u => u = s)) ∧
    (taken = true →
      let d := drift.toInt
      let notes (u : State) : Prop := u.agingOf (i * 4 + k) = ⟨s.up, false⟩ ∧ (late = true → Raised u pg 2)
      (30 < (osc.toInt - d).natAbs → Does (.ageSample i k drift osc) s (fun u => Frame [.regs, .out, .fns, .aging] s u ∧ Counts s u pg 1 1 ∧
        u.reg pg (Reg.AGE_DRIFT k) = s.reg pg (Reg.AGE_DRIFT k) ∧ notes u)) ∧
      ((osc.toInt - d).natAbs ≤ 30 →
        let d16 := max (-32768) (min 32767 d)
        let plan := d16 - (s.driftTotal i k - s.driftPlan i k)
        Does (.ageSample i k drift osc) s (fun u => Frame [.regs, .out, .fns, .aging, .flash, .planDue] s u ∧ Counts s u pg 0 1 ∧
          u.reg pg (Reg.AGE_DRIFT k) = word [(0, ofSigned 16 plan), (16, ofSigned 16 d16), (32, s.ts)] ∧ notes u ∧
          Store.get 0 u.flash.drifts (i * 4 + k) = BitVec.ofNat 16 (ofSigned 16 d16) ∧
          Store.get false u.planDue i = (decide ((s.rf pg Reg.AGE_CTL 31 24 : Int) < plan) || Store.get false s.planDue i)))) ∧
    (s.admits who pg Reg.AGE_CTL = true → Does (.ageReplanWrite who i v) s (fun u => Frame [.regs, .guards, .shadows, .sealRun, .planDue] s u ∧
      u.rb pg Reg.AGE_CTL 48 = false ∧ Store.get false u.planDue i = true)) ∧
    (let planned := Store.get 0 s.planAt i
     let due := (Store.get false s.planDue i || (decide (planned ≠ 0) &&
       decide (planned + max 1 (s.rf pg Reg.AGE_CTL 47 40) * 86400000000000 ≤ s.up))) && !s.inRecast i
     (due = false → Does (.replan i) s (fun u => u = s)) ∧
     (due = true →
       let d := (((List.range 4).map (s.driftTotal i)).foldl max 0).toNat
       let volts (n : Nat) : Nat := ceilDiv (Config.factoryMv i n * 10 + d + s.rf pg Reg.AGE_CTL 39 32 * 10) 50 * 5
       let valid (n : Nat) : Bool := decide (n = 0) || decide (volts n ≤ 900)
       ∀ top, top < 15 → valid top = true → (∀ n, top < n → n < 15 → valid n = false) → Does (.replan i) s (fun u =>
         (∀ n, n < 15 → u.reg pg (Reg.AGE_VF n) = word [(0, min (volts n) 900), (16, b2n (valid n))]) ∧
         u.rf pg Reg.AGE_STAT 11 0 = 400 + 100 * top ∧ u.target i k = min (s.target i k) (400 + 100 * top) ∧
         u.rf pg (Reg.AGE_DRIFT k) 15 0 = 0 ∧ u.rf pg (Reg.AGE_DRIFT k) 31 16 = s.rf pg (Reg.AGE_DRIFT k) 31 16 ∧
         Store.get false u.planDue i = false ∧ Counts s u pg 2 1 ∧ Raised u pg 0 ∧ (400 + 100 * top < s.fmax i → Raised u pg 1))))

/-- R571 to R576. Monitor channels. A sample is clamped and taken into its channel: count, sum, minimum, maximum and the bin that its edges give
it, saturating, and the last sample; one at or above an enabled alarm is counted, raised and logged. A write of MON_CTL clears the channels that
it names, and one that changes a channel's source or an edge clears that channel. -/
def Obligations.MonitorChannels : Prop :=
  ∀ (i : TileIx) (m : Fin 4) (who : Requester) (v : W64) (s : State),
    let pg := monPage i
    let c := s.cap i m
    (s.admits who pg Reg.MON_CTL = true → Does (.monClr who i v) s (fun u => Writes pg Reg.MON_CTL [.mon] [counter pg 1] s u ∧
      u.rf pg Reg.MON_CTL 3 0 = 0 ∧ u.cap i m = (if fbit v m then {} else c) ∧
      Counts s u pg 1 ((List.range 4).filter (fun k => fbit v k)).length)) ∧
    (s.admits who pg (Reg.MON_SRC m) = true →
      let changed := decide (fld v 16 0 ≠ s.rf pg (Reg.MON_SRC m) 16 0)
      Does (.monConfigWrite who i (BitVec.ofNat 12 (Reg.MON_SRC m)) v) s (fun u => Writes pg (Reg.MON_SRC m) [.mon] [counter pg 1] s u ∧
        u.rf pg (Reg.MON_SRC m) 16 0 = fld v 16 0 ∧ u.cap i m = (if changed then {} else c) ∧ Counts s u pg 1 (if changed then 1 else 0))) ∧
    (∀ e : Fin 8, s.admits who pg (Reg.MON_EDGE m e) = true →
      let hi := if e = 7 then 31 else 63
      let changed := decide (fld v hi 0 ≠ s.rf pg (Reg.MON_EDGE m e) hi 0)
      Does (.monConfigWrite who i (BitVec.ofNat 12 (Reg.MON_EDGE m e)) v) s (fun u => Writes pg (Reg.MON_EDGE m e) [.mon] [counter pg 1] s u ∧
        u.rf pg (Reg.MON_EDGE m e) hi 0 = fld v hi 0 ∧ u.cap i m = (if changed then {} else c) ∧ Counts s u pg 1 (if changed then 1 else 0))) ∧
    (∀ x : Int,
      let kind := s.monKind i m
      let w := max (-2147483648) (min 2147483647 x)
      let b := ((List.range 15).filter (fun k => decide (s.monEdge i m k ≤ w))).length
      let old := Store.get 0 c.bins b
      let lo := decide (c.count = 0) || decide (w < c.min.toInt)
      let hi := decide (c.count = 0) || decide (c.max.toInt < w)
      let sum := max (-9223372036854775808) (min 9223372036854775807 (c.sum + w))
      let src := s.reg pg (Reg.MON_SRC m)
      let alarm := fbit src 20 && decide (toSigned 32 (fld src 63 32) ≤ w)
      (kind ≠ 3 → kind ≠ 5 → kind ≠ 6 → Does (.monTickSample i m x) s (fun u => u = s)) ∧
      (kind = 3 ∨ kind = 5 ∨ kind = 6 → Does (.monTickSample i m x) s (fun u => Frame [.regs, .mon, .out, .fns, .evWay] s u ∧
        (u.cap i m).count = c.count + 1 ∧ (u.cap i m).sum = sum ∧
        (u.cap i m).min = (if lo then BitVec.ofInt 32 w else c.min) ∧ (u.cap i m).max = (if hi then BitVec.ofInt 32 w else c.max) ∧
        (∀ k, Store.get 0 (u.cap i m).bins k = if k = b ∧ old ≠ 0xFFFFFFFF then old + 1 else Store.get 0 c.bins k) ∧
        u.reg pg (Reg.MON_LAST m) = word [(0, ofSigned 32 w), (32, s.ts)] ∧ Counts s u pg 0 1 ∧
        (old = 0xFFFFFFFE ∨ sum ≠ c.sum + w → Raised u pg 0) ∧
        (kind = 6 → u.rf (pwrPage i) Reg.PWR_MEAS 47 32 = min 65535 x.toNat) ∧
        Counts s u pg 2 (if alarm then 1 else 0) ∧ (alarm = false → u.evWay = s.evWay) ∧
        (alarm = true → Raised u pg (1 + m) ∧ ∃ r, u.evWay = s.evWay ++ [r] ∧ r.cause = 11 ∧ r.sev = 1 ∧ r.page.toNat = pg))))

/-- R580 to R583. The event log. A record that reaches die 0, one of those on their way, is written at EVL_WR when the log is on, its cause is not masked and its page has not
had RATE records in this millisecond; otherwise it is counted as masked or as suppressed. Once a millisecond is over, a LOST record says how many
of a page were suppressed in it. -/
def Obligations.EventLog : Prop :=
  ∀ (r : LogRec) (page : BitVec 16) (s : State),
    let on := s.rb evlogPage Reg.EVL_CTL 0
    let wr := s.rf evlogPage Reg.EVL_WR 31 0
    let put (x : LogRec) (u : State) : Prop := Store.get none u.evRing (wr % 4096) = some x ∧
      (∀ k, k ≠ wr % 4096 → Store.get none u.evRing k = Store.get none s.evRing k) ∧
      u.rf evlogPage Reg.EVL_WR 31 0 = (wr + 1) % 2 ^ 32 ∧ Counts s u evlogPage 0 1 ∧ Raised u evlogPage 0
    (let q := r.page.toNat
     let x := s.evRateOf q
     let n := if x.1 = s.ms then x.2.1 else 0
     let masked := s.evlMasked r.cause.toNat
     let full := decide (max 1 (s.rf evlogPage Reg.EVL_CTL 15 8) ≤ n)
     let ends (f : State → Prop) : Prop := Does (.evlogAppend r) s (fun u => Frame [.regs, .evWay, .evRing, .evRate, .out, .fns] s u ∧
       u.evWay = s.evWay.erase r ∧ f u)
     (r ∉ s.evWay → Does (.evlogAppend r) s (fun u => u = s)) ∧
     (r ∈ s.evWay →
     (on = false → ends (fun u => u.regs = s.regs ∧ u.evRing = s.evRing)) ∧
      (on = true → masked = true → ends (fun u => Counts s u evlogPage 2 1 ∧ u.evRing = s.evRing)) ∧
     (on = true → masked = false → (x.2.2 = 0 ∨ s.ms ≤ x.1) →
       (full = true → ends (fun u => Counts s u evlogPage 1 1 ∧ Raised u evlogPage 1 ∧ u.evRing = s.evRing ∧
         u.evRateOf q = (s.ms, n, x.2.2 + 1))) ∧
       (full = false → ends (fun u => put r u ∧ u.evRateOf q = (s.ms, n + 1, x.2.2)))))) ∧
    (let x := s.evRateOf page.toNat
     let done := decide (x.2.2 ≠ 0) && decide (x.1 < s.ms)
     (done = false → Does (.evlogLost page) s (fun u => u = s)) ∧
     (done = true → on = false → Does (.evlogLost page) s (fun u => u.evRateOf page.toNat = (s.ms, 0, 0) ∧ u.evRing = s.evRing)) ∧
     (done = true → on = true → s.evlMasked 12 = true → Does (.evlogLost page) s (fun u => Counts s u evlogPage 2 1 ∧ u.evRing = s.evRing)) ∧
     (done = true → on = true → s.evlMasked 12 = false → Does (.evlogLost page) s (fun u => u.evRateOf page.toNat = (s.ms, 0, 0) ∧
       put ⟨s.now, 12, 1, BitVec.ofNat 16 evlogPage, BitVec.ofNat 64 x.2.2, BitVec.ofNat 64 page.toNat⟩ u)))

/-- R588 to R590. Attestation over a transport that is up. GET_VERSION starts the connection; the requests that follow need their predecessors, and
one that comes before them is answered UnexpectedRequest. Digests, a certificate part, a challenge and measurements answer with what they name, a
signature where one is due, and any other request is answered UnsupportedRequest. The layout of the messages and the order that the connection
requires are PRESUMED from the SPDM standard (log entry 106). -/
def Obligations.Attestation : Prop :=
  ∀ (tr : Transport) (slot op code : BitVec 8) (off len : BitVec 16) (nonce : List Byte) (s : State),
    let x := s.spdmConn tr
    let tells (body : List Byte) (u : State) : Prop := Counts s u secPage 0 1 ∧ RegsOutside [counter secPage 0] s u ∧
      u.out = s.out ++ [.reply tr (0x12 :: body)]
    let plain (body : List Byte) (u : State) : Prop := Frame [.regs, .out, .fns] s u ∧ tells body u
    let refused (e : Byte) (u : State) : Prop := plain [0x7F, e, 0] u
    let later : List Instr := [.getDigests tr, .getCertificate tr slot off len, .challenge tr slot nonce, .getMeasurements tr op nonce true,
      .getMeasurements tr op nonce false]
    (s.spdmUp tr = false → ∀ c ∈ Instr.getVersion tr :: .getCapabilities tr :: .negotiateAlgorithms tr :: .spdmUnsupported tr code :: later,
      Does c s (fun u => u = s)) ∧
    (s.spdmUp tr = true →
      Does (.getVersion tr) s (fun u => tells [0x04, 0, 0, 0, 1, 0, 0x12] u ∧ u.spdmConn tr = { version := true }) ∧
      (x.version = false → Does (.getCapabilities tr) s (refused 4)) ∧
      (x.version = true → Does (.getCapabilities tr) s (fun u => tells ([0x61, 0, 0] ++ leBytes 4 0x16) u ∧ u.spdmConn tr = { x with caps := true })) ∧
      (x.caps = false → Does (.negotiateAlgorithms tr) s (refused 4)) ∧
      (x.caps = true → Does (.negotiateAlgorithms tr) s (fun u => u.spdmConn tr = { x with algs := true } ∧
        tells ([0x63, 0, 0] ++ leBytes 4 0x04 ++ leBytes 4 0x80 ++ leBytes 4 0x02) u)) ∧
      Does (.spdmUnsupported tr code) s (refused 7) ∧
      (x.algs = false → ∀ c ∈ later, Does c s (refused 4)) ∧
      (x.algs = true →
        let chain := Config.certChain
        let sums := sha384 chain
        Does (.getDigests tr) s (plain ([0x01, 0, 1] ++ sums)) ∧
        (slot = 0 → off.toNat < chain.length → Does (.getCertificate tr slot off len) s (plain (
          let part := (chain.drop off.toNat).take len.toNat
          [0x02, slot, 0] ++ leBytes 2 part.length ++ leBytes 2 (chain.length - off.toNat - part.length) ++ part))) ∧
        (slot ≠ 0 ∨ chain.length ≤ off.toNat → Does (.getCertificate tr slot off len) s (refused 1)) ∧
        (slot ≠ 0 → Does (.challenge tr slot nonce) s (refused 1)) ∧
        (slot = 0 → Does (.challenge tr slot nonce) s (fun u => Frame [.regs, .out, .fns, .fresh] s u ∧ ∃ own sig : List Byte,
          tells ([0x03, slot, 1] ++ sums ++ own ++ nonce.take 32 ++ sig) u)) ∧
        (let o := op.toNat
         let ks := if o = 0 then [] else if o = 0xFF then [1, 2, 3, 4, 5, 6] else [o]
         let body := [0x60, if o = 0 then 6 else 0, 0, BitVec.ofNat 8 ks.length] ++ ks.flatMap s.measureBlock
         (6 < o → o ≠ 0xFF → ∀ b, Does (.getMeasurements tr op nonce b) s (refused 1)) ∧
         (o ≤ 6 ∨ o = 0xFF → Does (.getMeasurements tr op nonce false) s (plain body) ∧
           Does (.getMeasurements tr op nonce true) s (fun u => Frame [.regs, .out, .fns, .fresh] s u ∧ ∃ own sig : List Byte,
             tells (body ++ own ++ nonce.take 32 ++ sig) u)))))

/-- R586, R587, R591, R592. Enrollment. The record at ENR_ADDR is judged by the checks of R592 in their order; the first that fails is its cause, and
only an accepted record changes a customer-key slot: an enrollment fills its slot, a revocation marks it, and the last one empties every slot. The
nonce is drawn again either way. ROLL_ADV raises the anti-rollback counter to the release that runs, and never lowers it. -/
def Obligations.Enrollment : Prop :=
  ∀ (who : Requester) (v : W64) (s : State),
    (s.admits who secPage Reg.ENR_GO = true → ∀ c, (c = Instr.enroll who v ∨ c = Instr.revoke who v) →
      let a := s.rf secPage Reg.ENR_ADDR 40 0
      let ends (cause : Nat) (f : State → Prop) : Prop := Does c s (fun u => u.rb secPage Reg.ENR_GO 0 = false ∧
        u.rf secPage Reg.ENR_STAT 3 0 = cause ∧ u.reg secPage Reg.ENR_NONCE = Config.random64 s.fresh ∧ u.sec.rollback = s.sec.rollback ∧ f u)
      let bad (u : State) : Prop := u.sec = s.sec ∧ Counts s u secPage 4 1 ∧ Counts s u secPage 3 0 ∧ Raised u secPage 1
      let ok (u : State) : Prop := Counts s u secPage 3 1 ∧ Counts s u secPage 4 0 ∧ Raised u secPage 0
      (mireSize < a + 224 ∨ s.mireReady a 224 = false ∨ s.mirePoisoned a 224 = true → ends 6 bad) ∧
      (a + 224 ≤ mireSize → s.mireReady a 224 = true → s.mirePoisoned a 224 = false →
        let e := EnrRec.ofBytes (s.readMire a 224)
        let key (k : Nat) : KeySlot := s.keySlot k
        let empty := (List.range 4).all (fun k => !(key k).full)
        let auth := if e.auth = 0xFF then empty && allZero e.sigR && allZero e.sigS else (key e.auth).full && !(key e.auth).revoked
        let signed := decide (e.auth = 0xFF) || ecdsaVerify (key e.auth).point (sha384 (e.bytes.take 128)) e.sigR e.sigS
        let fresh := decide (e.nonce = (s.reg secPage Reg.ENR_NONCE).toNat)
        let keyOk := decide (e.op ≠ 1) || (decodePoint e.key).isSome
        (e.formatOk = false → ends 6 bad) ∧
        (e.formatOk = true → fresh = false → ends 1 bad) ∧
        (e.formatOk = true → fresh = true → auth = false → ends 2 bad) ∧
        (e.formatOk = true → fresh = true → auth = true → signed = false → ends 3 bad) ∧
        (e.formatOk = true → fresh = true → auth = true → signed = true → keyOk = false → ends 4 bad) ∧
        (e.formatOk = true → fresh = true → auth = true → signed = true → keyOk = true →
          (castState s = 1 → ends 5 bad) ∧
          (castState s ≠ 1 → e.op = 1 → ends 0 (fun u => ok u ∧ ∀ k, k < 4 → u.keySlot k = if k = e.slot then ⟨e.key, e.usage, false⟩ else key k)) ∧
          (castState s ≠ 1 → e.op = 2 → (key e.slot).full = true → (key e.slot).revoked = false →
            let others := (List.range 4).any (fun k => decide (k ≠ e.slot) && (key k).full && !(key k).revoked)
            ends 0 (fun u => ok u ∧ ∀ k, k < 4 → u.keySlot k = if others = false then {} else
              if k = e.slot then { key k with revoked := true } else key k))))) ∧
    (s.admits who secPage Reg.SEC_CTL = true → Does (.rollAdv who v) s (fun u => Frame [.regs, .guards, .shadows, .sealRun, .sec] s u ∧
      u.rb secPage Reg.SEC_CTL 0 = false ∧ u.sec.slots = s.sec.slots ∧
      u.sec.rollback.toNat = if s.boot.fwOk then max s.sec.rollback.toNat s.boot.release.toNat else s.sec.rollback.toNat))
end

