-- ==== Sys2Proof/Laws/Store.lean ====
section
/-! SUPPORT. The laws of sparse storage: what a read gives after a write, and that every operation keeps the canonical form. -/
namespace Sys2Proof.Machine

section
variable {α : Type} [DecidableEq α] (d : α)

theorem Store.get_push_same (n : Nat) (v : α) (m : Store α) (h : Store.get d m n = d) :
    Store.get d (Store.push d n v m) n = v := by
  unfold Store.push
  split
  · rename_i e; rw [h, e]
  · simp [Store.get]

theorem Store.get_push_other (n k : Nat) (v : α) (m : Store α) (h : n ≠ k) :
    Store.get d (Store.push d n v m) k = Store.get d m k := by
  unfold Store.push
  split
  · rfl
  · simp [Store.get, h]

omit [DecidableEq α] in
theorem Store.get_erase_same (m : Store α) (n : Nat) : Store.get d (Store.erase m n) n = d := by
  induction m with
  | nil => rfl
  | cons p r ih =>
    obtain ⟨k, v⟩ := p
    by_cases h : k = n <;> simp [Store.erase, Store.get, h, ih]

omit [DecidableEq α] in
theorem Store.get_erase_other (m : Store α) (n k : Nat) (h : n ≠ k) :
    Store.get d (Store.erase m n) k = Store.get d m k := by
  induction m with
  | nil => rfl
  | cons p r ih =>
    obtain ⟨j, v⟩ := p
    by_cases hj : j = n
    · have : j ≠ k := by omega
      simp [Store.erase, Store.get, hj, ih, h]
    · by_cases hk : j = k
      · subst hk; simp [Store.erase, Store.get, hj]
      · simp [Store.erase, Store.get, hj, hk, ih]

/-- A read after a write to the same key gives the value written. -/
@[simp] theorem Store.get_set_same (m : Store α) (n : Nat) (v : α) : Store.get d (Store.set d m n v) n = v := by
  induction m with
  | nil => exact Store.get_push_same d n v [] rfl
  | cons p r ih =>
    obtain ⟨k, w⟩ := p
    by_cases h : k < n
    · have : k ≠ n := by omega
      simp [Store.set, h, Store.get, this, ih]
    · simp only [Store.set, h, if_false]
      exact Store.get_push_same d n v _ (Store.get_erase_same d _ n)

/-- A write leaves every other key alone. -/
theorem Store.get_set_other (m : Store α) (n k : Nat) (v : α) (h : n ≠ k) :
    Store.get d (Store.set d m n v) k = Store.get d m k := by
  induction m with
  | nil => exact Store.get_push_other d n k v [] h
  | cons p r ih =>
    obtain ⟨j, w⟩ := p
    by_cases hj : j < n
    · by_cases hk : j = k
      · subst hk; simp [Store.set, hj, Store.get]
      · simp [Store.set, hj, Store.get, hk, ih]
    · simp only [Store.set, hj, if_false]
      rw [Store.get_push_other d n k v _ h, Store.get_erase_other d _ n k h]

theorem Store.get_set (m : Store α) (n k : Nat) (v : α) :
    Store.get d (Store.set d m n v) k = if n = k then v else Store.get d m k := by
  by_cases h : n = k
  · subst h; simp
  · simp [h, Store.get_set_other d m n k v h]

/-! ### The canonical form -/

theorem Store.wfFrom_weaken (lo hi : Nat) (h : lo ≤ hi) (m : Store α) (w : Store.wfFrom d hi m = true) :
    Store.wfFrom d lo m = true := by
  cases m with
  | nil => rfl
  | cons p r =>
    obtain ⟨k, v⟩ := p
    simp only [Store.wfFrom, Bool.and_eq_true, decide_eq_true_eq] at w ⊢
    exact ⟨⟨by omega, w.1.2⟩, w.2⟩

omit [DecidableEq α] in
theorem Store.erase_above [DecidableEq α] (lo : Nat) (m : Store α) (w : Store.wfFrom d (lo + 1) m = true) (n : Nat) (h : n ≤ lo) :
    Store.erase m n = m := by
  induction m generalizing lo with
  | nil => rfl
  | cons p r ih =>
    obtain ⟨k, v⟩ := p
    simp only [Store.wfFrom, Bool.and_eq_true, decide_eq_true_eq] at w
    have hk : k ≠ n := by omega
    simp only [Store.erase, hk, if_false]
    rw [ih k w.2 (by omega)]

theorem Store.push_wf (lo n : Nat) (h : lo ≤ n) (v : α) (m : Store α) (w : Store.wfFrom d (n + 1) m = true) :
    Store.wfFrom d lo (Store.push d n v m) = true := by
  unfold Store.push
  split
  · exact Store.wfFrom_weaken d _ _ (by omega) m w
  · rename_i hv
    simp [Store.wfFrom, h, hv, w]

theorem Store.set_wfFrom (lo n : Nat) (h : lo ≤ n) (v : α) (m : Store α) (w : Store.wfFrom d lo m = true) :
    Store.wfFrom d lo (Store.set d m n v) = true := by
  induction m generalizing lo with
  | nil => exact Store.push_wf d lo n h v [] rfl
  | cons p r ih =>
    obtain ⟨k, x⟩ := p
    have w' := w
    simp only [Store.wfFrom, Bool.and_eq_true, decide_eq_true_eq] at w
    obtain ⟨⟨hk, hx⟩, hr⟩ := w
    by_cases hlt : k < n
    · simp only [Store.set, hlt, if_true, Store.wfFrom, Bool.and_eq_true, decide_eq_true_eq]
      exact ⟨⟨hk, hx⟩, ih (k + 1) (by omega) hr⟩
    · simp only [Store.set, hlt, if_false]
      refine Store.push_wf d lo n h v _ ?_
      by_cases he : k = n
      · subst he
        simp only [Store.erase, if_true]
        rw [Store.erase_above d k r hr k (by omega)]
        exact hr
      · simp only [Store.erase, he, if_false]
        rw [Store.erase_above d k r hr n (by omega)]
        simp only [Store.wfFrom, Bool.and_eq_true, decide_eq_true_eq]
        exact ⟨⟨by omega, hx⟩, hr⟩

/-- A write keeps the canonical form. -/
theorem Store.set_wf (m : Store α) (n : Nat) (v : α) (w : Store.wf d m = true) : Store.wf d (Store.set d m n v) = true :=
  Store.set_wfFrom d 0 n (by omega) v m w

theorem Store.upd_wf (m : Store α) (n : Nat) (f : α → α) (w : Store.wf d m = true) : Store.wf d (Store.upd d m n f) = true :=
  Store.set_wf d m n _ w

theorem Store.keep_wfFrom (lo : Nat) (p : Nat → Bool) (m : Store α) (w : Store.wfFrom d lo m = true) :
    Store.wfFrom d lo (Store.keep p m) = true := by
  induction m generalizing lo with
  | nil => rfl
  | cons q r ih =>
    obtain ⟨k, v⟩ := q
    simp only [Store.wfFrom, Bool.and_eq_true, decide_eq_true_eq] at w
    by_cases h : p k
    · simp only [Store.keep, h, if_true, Store.wfFrom, Bool.and_eq_true, decide_eq_true_eq]
      exact ⟨w.1, ih (k + 1) w.2⟩
    · simp only [Store.keep, h]
      exact Store.wfFrom_weaken d lo (k + 1) (by omega) _ (ih (k + 1) w.2)

theorem Store.keep_wf (p : Nat → Bool) (m : Store α) (w : Store.wf d m = true) : Store.wf d (Store.keep p m) = true :=
  Store.keep_wfFrom d 0 p m w

theorem Store.mapVals_wfFrom (lo : Nat) (f : Nat → α → α) (m : Store α) (w : Store.wfFrom d lo m = true) :
    Store.wfFrom d lo (Store.mapVals d f m) = true := by
  induction m generalizing lo with
  | nil => rfl
  | cons q r ih =>
    obtain ⟨k, v⟩ := q
    simp only [Store.wfFrom, Bool.and_eq_true, decide_eq_true_eq] at w
    exact Store.push_wf d lo k w.1.1 _ _ (ih (k + 1) w.2)

theorem Store.mapVals_wf (f : Nat → α → α) (m : Store α) (w : Store.wf d m = true) : Store.wf d (Store.mapVals d f m) = true :=
  Store.mapVals_wfFrom d 0 f m w

omit [DecidableEq α] in
/-- What an entry kept or dropped reads as. -/
theorem Store.get_keep (p : Nat → Bool) (m : Store α) (n : Nat) :
    Store.get d (Store.keep p m) n = if p n then Store.get d m n else d := by
  induction m with
  | nil => simp [Store.keep, Store.get]
  | cons q r ih =>
    obtain ⟨k, v⟩ := q
    by_cases h : p k
    · by_cases hk : k = n
      · subst hk; simp [Store.keep, h, Store.get]
      · simp [Store.keep, h, Store.get, hk, ih]
    · by_cases hk : k = n
      · subst hk; simp [Store.keep, h, ih]
      · simp [Store.keep, h, Store.get, hk, ih]

end
end Sys2Proof.Machine
end

