-- ==== Sys2Proof/Laws/Kept.lean ====
section
/-! SUPPORT. What one operation may change: `Kept l s t` says that `t` agrees with `s` outside the fields of `l`, and that it is in
canonical form if `s` is. Each shared operation has one such lemma (`…_kept`), and they compose by `Kept.step`. -/
namespace Sys2Proof.Machine

/-- A state with the fields of a list put back to their reset values. -/
def State.mask (l : List Field) (s : State) : State :=
  { pending := if l.contains .pending = true then State.reset.pending else s.pending,
    now := if l.contains .now = true then State.reset.now else s.now,
    up := if l.contains .up = true then State.reset.up else s.up,
    sub := if l.contains .sub = true then State.reset.sub else s.sub,
    fresh := if l.contains .fresh = true then State.reset.fresh else s.fresh,
    regs := if l.contains .regs = true then State.reset.regs else s.regs,
    wins := if l.contains .wins = true then State.reset.wins else s.wins,
    guards := if l.contains .guards = true then State.reset.guards else s.guards,
    shadows := if l.contains .shadows = true then State.reset.shadows else s.shadows,
    mbxs := if l.contains .mbxs = true then State.reset.mbxs else s.mbxs,
    tapSets := if l.contains .tapSets = true then State.reset.tapSets else s.tapSets,
    tap := if l.contains .tap = true then State.reset.tap else s.tap,
    sealRun := if l.contains .sealRun = true then State.reset.sealRun else s.sealRun,
    timeSet := if l.contains .timeSet = true then State.reset.timeSet else s.timeSet,
    pool := if l.contains .pool = true then State.reset.pool else s.pool,
    peat := if l.contains .peat = true then State.reset.peat else s.peat,
    mire := if l.contains .mire = true then State.reset.mire else s.mire,
    host := if l.contains .host = true then State.reset.host else s.host,
    poolBad := if l.contains .poolBad = true then State.reset.poolBad else s.poolBad,
    peatBad := if l.contains .peatBad = true then State.reset.peatBad else s.peatBad,
    mireBad := if l.contains .mireBad = true then State.reset.mireBad else s.mireBad,
    tasks := if l.contains .tasks = true then State.reset.tasks else s.tasks,
    crus := if l.contains .crus = true then State.reset.crus else s.crus,
    gates := if l.contains .gates = true then State.reset.gates else s.gates,
    slots := if l.contains .slots = true then State.reset.slots else s.slots,
    probes := if l.contains .probes = true then State.reset.probes else s.probes,
    rx := if l.contains .rx = true then State.reset.rx else s.rx,
    slotMap := if l.contains .slotMap = true then State.reset.slotMap else s.slotMap,
    routes := if l.contains .routes = true then State.reset.routes else s.routes,
    rimEpoch := if l.contains .rimEpoch = true then State.reset.rimEpoch else s.rimEpoch,
    genTab := if l.contains .genTab = true then State.reset.genTab else s.genTab,
    net := if l.contains .net = true then State.reset.net else s.net,
    arrivals := if l.contains .arrivals = true then State.reset.arrivals else s.arrivals,
    ports := if l.contains .ports = true then State.reset.ports else s.ports,
    laneTx := if l.contains .laneTx = true then State.reset.laneTx else s.laneTx,
    dieFence := if l.contains .dieFence = true then State.reset.dieFence else s.dieFence,
    pgQueue := if l.contains .pgQueue = true then State.reset.pgQueue else s.pgQueue,
    movers := if l.contains .movers = true then State.reset.movers else s.movers,
    pgPushed := if l.contains .pgPushed = true then State.reset.pgPushed else s.pgPushed,
    banks := if l.contains .banks = true then State.reset.banks else s.banks,
    scrubs := if l.contains .scrubs = true then State.reset.scrubs else s.scrubs,
    streams := if l.contains .streams = true then State.reset.streams else s.streams,
    beds := if l.contains .beds = true then State.reset.beds else s.beds,
    places := if l.contains .places = true then State.reset.places else s.places,
    wmoves := if l.contains .wmoves = true then State.reset.wmoves else s.wmoves,
    rplaces := if l.contains .rplaces = true then State.reset.rplaces else s.rplaces,
    handRx := if l.contains .handRx = true then State.reset.handRx else s.handRx,
    nextTag := if l.contains .nextTag = true then State.reset.nextTag else s.nextTag,
    kvAreas := if l.contains .kvAreas = true then State.reset.kvAreas else s.kvAreas,
    castRun := if l.contains .castRun = true then State.reset.castRun else s.castRun,
    casting := if l.contains .casting = true then State.reset.casting else s.casting,
    pours := if l.contains .pours = true then State.reset.pours else s.pours,
    cmds := if l.contains .cmds = true then State.reset.cmds else s.cmds,
    queues := if l.contains .queues = true then State.reset.queues else s.queues,
    egress := if l.contains .egress = true then State.reset.egress else s.egress,
    fns := if l.contains .fns = true then State.reset.fns else s.fns,
    reports := if l.contains .reports = true then State.reset.reports else s.reports,
    mon := if l.contains .mon = true then State.reset.mon else s.mon,
    monTap := if l.contains .monTap = true then State.reset.monTap else s.monTap,
    evRing := if l.contains .evRing = true then State.reset.evRing else s.evRing,
    sec := if l.contains .sec = true then State.reset.sec else s.sec,
    spdm := if l.contains .spdm = true then State.reset.spdm else s.spdm,
    eid := if l.contains .eid = true then State.reset.eid else s.eid,
    evWay := if l.contains .evWay = true then State.reset.evWay else s.evWay,
    evRate := if l.contains .evRate = true then State.reset.evRate else s.evRate,
    ramps := if l.contains .ramps = true then State.reset.ramps else s.ramps,
    minvSeen := if l.contains .minvSeen = true then State.reset.minvSeen else s.minvSeen,
    tide := if l.contains .tide = true then State.reset.tide else s.tide,
    khz := if l.contains .khz = true then State.reset.khz else s.khz,
    deferred := if l.contains .deferred = true then State.reset.deferred else s.deferred,
    stepAt := if l.contains .stepAt = true then State.reset.stepAt else s.stepAt,
    lostPort := if l.contains .lostPort = true then State.reset.lostPort else s.lostPort,
    vlog := if l.contains .vlog = true then State.reset.vlog else s.vlog,
    refs := if l.contains .refs = true then State.reset.refs else s.refs,
    ptp := if l.contains .ptp = true then State.reset.ptp else s.ptp,
    sens := if l.contains .sens = true then State.reset.sens else s.sens,
    quench := if l.contains .quench = true then State.reset.quench else s.quench,
    tray := if l.contains .tray = true then State.reset.tray else s.tray,
    boot := if l.contains .boot = true then State.reset.boot else s.boot,
    flash := if l.contains .flash = true then State.reset.flash else s.flash,
    sites := if l.contains .sites = true then State.reset.sites else s.sites,
    planDue := if l.contains .planDue = true then State.reset.planDue else s.planDue,
    planAt := if l.contains .planAt = true then State.reset.planAt else s.planAt,
    aging := if l.contains .aging = true then State.reset.aging else s.aging,
    heats := if l.contains .heats = true then State.reset.heats else s.heats,
    retires := if l.contains .retires = true then State.reset.retires else s.retires,
    charges := if l.contains .charges = true then State.reset.charges else s.charges,
    fixes := if l.contains .fixes = true then State.reset.fixes else s.fixes,
    beats := if l.contains .beats = true then State.reset.beats else s.beats,
    out := if l.contains .out = true then State.reset.out else s.out,
    lastRead := if l.contains .lastRead = true then State.reset.lastRead else s.lastRead }

structure Kept (l : List Field) (s t : State) : Prop where
  eq : t.mask l = s.mask l
  canon : s.canonical = true → t.canonical = true

/-- The fields of one list are among those of another. -/
def Field.within (a b : List Field) : Bool := a.all (fun f => b.contains f)

theorem Field.within_contains (a b : List Field) (h : Field.within a b = true) (f : Field) (hf : a.contains f = true) :
    b.contains f = true := by
  unfold Field.within at h
  exact (List.all_eq_true.mp h) f (by simpa using hf)

theorem Field.within_trans (a b c : List Field) (h : Field.within a b = true) (k : Field.within b c = true) :
    Field.within a c = true := by
  unfold Field.within at h ⊢
  rw [List.all_eq_true] at h ⊢
  exact fun f hf => Field.within_contains b c k f (h f hf)

theorem State.mask_mask (l m : List Field) (h : Field.within l m = true) (s : State) : (s.mask l).mask m = s.mask m := by
  have w := Field.within_contains l m h
  have e (f : Field) {α : Type} (a b : α) : (if m.contains f = true then a else if l.contains f = true then a else b) =
      if m.contains f = true then a else b := by
    have := w f
    by_cases hm : m.contains f = true
    · rw [if_pos hm, if_pos hm]
    · rw [if_neg hm, if_neg hm, if_neg (fun hl => hm (this hl))]
  simp only [State.mask, e]

theorem State.mask_congr {l m : List Field} {s t : State} (h : Field.within l m = true) (e : t.mask l = s.mask l) :
    t.mask m = s.mask m := by
  rw [← State.mask_mask l m h t, ← State.mask_mask l m h s, e]

theorem State.mask_pick {α : Type} {c : Bool} {a b b' : α} (h : c = false)
    (e : (if c = true then a else b) = (if c = true then a else b')) : b = b' := by
  subst h; exact e

theorem Kept.frame {l : List Field} {s t : State} (k : Kept l s t) : Frame l s t := by
  intro f hf
  have hc : l.contains f = false := by simpa using hf
  have e := k.eq
  cases f
  · exact State.mask_pick hc (congrArg State.pending e)
  · exact State.mask_pick hc (congrArg State.now e)
  · exact State.mask_pick hc (congrArg State.up e)
  · exact State.mask_pick hc (congrArg State.sub e)
  · exact State.mask_pick hc (congrArg State.fresh e)
  · exact State.mask_pick hc (congrArg State.regs e)
  · exact State.mask_pick hc (congrArg State.wins e)
  · exact State.mask_pick hc (congrArg State.guards e)
  · exact State.mask_pick hc (congrArg State.shadows e)
  · exact State.mask_pick hc (congrArg State.mbxs e)
  · exact State.mask_pick hc (congrArg State.tapSets e)
  · exact State.mask_pick hc (congrArg State.tap e)
  · exact State.mask_pick hc (congrArg State.sealRun e)
  · exact State.mask_pick hc (congrArg State.timeSet e)
  · exact State.mask_pick hc (congrArg State.pool e)
  · exact State.mask_pick hc (congrArg State.peat e)
  · exact State.mask_pick hc (congrArg State.mire e)
  · exact State.mask_pick hc (congrArg State.host e)
  · exact State.mask_pick hc (congrArg State.poolBad e)
  · exact State.mask_pick hc (congrArg State.peatBad e)
  · exact State.mask_pick hc (congrArg State.mireBad e)
  · exact State.mask_pick hc (congrArg State.tasks e)
  · exact State.mask_pick hc (congrArg State.crus e)
  · exact State.mask_pick hc (congrArg State.gates e)
  · exact State.mask_pick hc (congrArg State.slots e)
  · exact State.mask_pick hc (congrArg State.probes e)
  · exact State.mask_pick hc (congrArg State.rx e)
  · exact State.mask_pick hc (congrArg State.slotMap e)
  · exact State.mask_pick hc (congrArg State.routes e)
  · exact State.mask_pick hc (congrArg State.rimEpoch e)
  · exact State.mask_pick hc (congrArg State.genTab e)
  · exact State.mask_pick hc (congrArg State.net e)
  · exact State.mask_pick hc (congrArg State.arrivals e)
  · exact State.mask_pick hc (congrArg State.ports e)
  · exact State.mask_pick hc (congrArg State.laneTx e)
  · exact State.mask_pick hc (congrArg State.dieFence e)
  · exact State.mask_pick hc (congrArg State.pgQueue e)
  · exact State.mask_pick hc (congrArg State.movers e)
  · exact State.mask_pick hc (congrArg State.pgPushed e)
  · exact State.mask_pick hc (congrArg State.banks e)
  · exact State.mask_pick hc (congrArg State.scrubs e)
  · exact State.mask_pick hc (congrArg State.streams e)
  · exact State.mask_pick hc (congrArg State.beds e)
  · exact State.mask_pick hc (congrArg State.places e)
  · exact State.mask_pick hc (congrArg State.wmoves e)
  · exact State.mask_pick hc (congrArg State.rplaces e)
  · exact State.mask_pick hc (congrArg State.handRx e)
  · exact State.mask_pick hc (congrArg State.nextTag e)
  · exact State.mask_pick hc (congrArg State.kvAreas e)
  · exact State.mask_pick hc (congrArg State.castRun e)
  · exact State.mask_pick hc (congrArg State.casting e)
  · exact State.mask_pick hc (congrArg State.pours e)
  · exact State.mask_pick hc (congrArg State.cmds e)
  · exact State.mask_pick hc (congrArg State.queues e)
  · exact State.mask_pick hc (congrArg State.egress e)
  · exact State.mask_pick hc (congrArg State.fns e)
  · exact State.mask_pick hc (congrArg State.reports e)
  · exact State.mask_pick hc (congrArg State.mon e)
  · exact State.mask_pick hc (congrArg State.monTap e)
  · exact State.mask_pick hc (congrArg State.evRing e)
  · exact State.mask_pick hc (congrArg State.sec e)
  · exact State.mask_pick hc (congrArg State.spdm e)
  · exact State.mask_pick hc (congrArg State.eid e)
  · exact State.mask_pick hc (congrArg State.evWay e)
  · exact State.mask_pick hc (congrArg State.evRate e)
  · exact State.mask_pick hc (congrArg State.ramps e)
  · exact State.mask_pick hc (congrArg State.minvSeen e)
  · exact State.mask_pick hc (congrArg State.tide e)
  · exact State.mask_pick hc (congrArg State.khz e)
  · exact State.mask_pick hc (congrArg State.deferred e)
  · exact State.mask_pick hc (congrArg State.stepAt e)
  · exact State.mask_pick hc (congrArg State.lostPort e)
  · exact State.mask_pick hc (congrArg State.vlog e)
  · exact State.mask_pick hc (congrArg State.refs e)
  · exact State.mask_pick hc (congrArg State.ptp e)
  · exact State.mask_pick hc (congrArg State.sens e)
  · exact State.mask_pick hc (congrArg State.quench e)
  · exact State.mask_pick hc (congrArg State.tray e)
  · exact State.mask_pick hc (congrArg State.boot e)
  · exact State.mask_pick hc (congrArg State.flash e)
  · exact State.mask_pick hc (congrArg State.sites e)
  · exact State.mask_pick hc (congrArg State.planDue e)
  · exact State.mask_pick hc (congrArg State.planAt e)
  · exact State.mask_pick hc (congrArg State.aging e)
  · exact State.mask_pick hc (congrArg State.heats e)
  · exact State.mask_pick hc (congrArg State.retires e)
  · exact State.mask_pick hc (congrArg State.charges e)
  · exact State.mask_pick hc (congrArg State.fixes e)
  · exact State.mask_pick hc (congrArg State.beats e)
  · exact State.mask_pick hc (congrArg State.out e)
  · exact State.mask_pick hc (congrArg State.lastRead e)

theorem Kept.refl (l : List Field) (s : State) : Kept l s s := ⟨rfl, id⟩

/-- Operations one after another. -/
theorem Kept.step {m l : List Field} {r s t : State} (h : Kept m r s) (k : Kept l s t) (hm : Field.within l m = true) : Kept m r t :=
  ⟨(State.mask_congr hm k.eq).trans h.eq, fun c => k.canon (h.canon c)⟩

theorem Kept.mono {m l : List Field} {s t : State} (k : Kept l s t) (hm : Field.within l m = true) : Kept m s t :=
  (Kept.refl m s).step k hm

/-- A fold over operations that keep what `m` does not name. -/
theorem Kept.foldl {α : Type} {m : List Field} (f : State → α → State) (h : ∀ s a, Kept m s (f s a)) (l : List α) (s : State) :
    Kept m s (l.foldl f s) := by
  induction l generalizing s with
  | nil => exact Kept.refl m s
  | cons a r ih => exact ⟨(ih (f s a)).eq.trans (h s a).eq, fun c => (ih (f s a)).canon ((h s a).canon c)⟩

/-- The same of the next state of an outcome. -/
def OutKept (l : List Field) (s : State) (o : Out State) : Prop := ∀ t, o = .next t → Kept l s t

theorem OutKept.next {l : List Field} {s t : State} (h : Kept l s t) : OutKept l s (.next t) := by
  intro u e
  cases e
  exact h

theorem OutKept.fault {l : List Field} {s : State} (f : Fault) : OutKept l s (.fault f) := by
  intro u e
  cases e

/-- The same of an optional state. -/
def OptKept (l : List Field) (s : State) (o : Option State) : Prop := ∀ t, o = some t → Kept l s t

theorem OptKept.some {l : List Field} {s t : State} (h : Kept l s t) : OptKept l s (some t) := by
  intro u e
  cases e
  exact h

theorem OptKept.none {l : List Field} {s : State} : OptKept l s none := by
  intro u e
  cases e

theorem OptKept.first {m l : List Field} {r s : State} {o : Option State} (h : Kept m r s) (k : OptKept l s o)
    (hm : Field.within l m = true) : OptKept m r o := fun t e => h.step (k t e) hm

theorem Kept.via {m : List Field} {r t : State} (x : State) (h : Kept m r x) (k : Kept m r x → Kept m r t) : Kept m r t := k h

theorem Kept.viaW {m : List Field} {r t : State} (x : WEff) (h : Kept m r x.st) (k : Kept m r x.st → Kept m r t) : Kept m r t := k h

theorem Kept.viaL {α : Type} {m : List Field} {r t : State} (x : State × α) (h : Kept m r x.1) (k : Kept m r x.1 → Kept m r t) :
    Kept m r t := k h

theorem Kept.viaR {α : Type} {m : List Field} {r t : State} (x : α × State) (h : Kept m r x.2) (k : Kept m r x.2 → Kept m r t) :
    Kept m r t := k h

theorem OutKept.via {m : List Field} {r : State} {o : Out State} (x : State) (h : Kept m r x) (k : Kept m r x → OutKept m r o) :
    OutKept m r o := k h

theorem OutKept.viaW {m : List Field} {r : State} {o : Out State} (x : WEff) (h : Kept m r x.st) (k : Kept m r x.st → OutKept m r o) :
    OutKept m r o := k h

theorem OutKept.viaL {α : Type} {m : List Field} {r : State} {o : Out State} (x : State × α) (h : Kept m r x.1) (k : Kept m r x.1 → OutKept m r o) :
    OutKept m r o := k h

theorem OutKept.viaR {α : Type} {m : List Field} {r : State} {o : Out State} (x : α × State) (h : Kept m r x.2) (k : Kept m r x.2 → OutKept m r o) :
    OutKept m r o := k h

theorem OptKept.via {m : List Field} {r : State} {o : Option State} (x : State) (h : Kept m r x) (k : Kept m r x → OptKept m r o) :
    OptKept m r o := k h

theorem OptKept.viaW {m : List Field} {r : State} {o : Option State} (x : WEff) (h : Kept m r x.st) (k : Kept m r x.st → OptKept m r o) :
    OptKept m r o := k h

theorem OptKept.viaL {α : Type} {m : List Field} {r : State} {o : Option State} (x : State × α) (h : Kept m r x.1) (k : Kept m r x.1 → OptKept m r o) :
    OptKept m r o := k h

theorem OptKept.viaR {α : Type} {m : List Field} {r : State} {o : Option State} (x : α × State) (h : Kept m r x.2) (k : Kept m r x.2 → OptKept m r o) :
    OptKept m r o := k h

theorem Kept.ite {m : List Field} {r s t : State} {c : Prop} [Decidable c] (h : Kept m r s) (k : Kept m r t) :
    Kept m r (if c then s else t) := by
  split <;> assumption

theorem OutKept.ite {m : List Field} {r : State} {o u : Out State} {c : Prop} [Decidable c] (h : OutKept m r o) (k : OutKept m r u) :
    OutKept m r (if c then o else u) := by
  split <;> assumption

theorem OptKept.ite {m : List Field} {r : State} {o u : Option State} {c : Prop} [Decidable c] (h : OptKept m r o)
    (k : OptKept m r u) : OptKept m r (if c then o else u) := by
  split <;> assumption

theorem Kept.fn {P : Prop} {α β : Type} (_ : α → β) (h : P) : P := h

theorem Kept.viaP {m : List Field} {r t : State} (x : Opening) (h : Kept m r x.st) (k : Kept m r x.st → Kept m r t) : Kept m r t := k h

theorem Kept.idr {m : List Field} {s : State} : Kept m s (id s) := Kept.refl m s

theorem OutKept.viaP {m : List Field} {r : State} {o : Out State} (x : Opening) (h : Kept m r x.st) (k : Kept m r x.st → OutKept m r o) :
    OutKept m r o := k h

theorem OptKept.viaP {m : List Field} {r : State} {o : Option State} (x : Opening) (h : Kept m r x.st) (k : Kept m r x.st → OptKept m r o) :
    OptKept m r o := k h

theorem Kept.trans {l : List Field} {r s t : State} (h : Kept l r s) (k : Kept l s t) : Kept l r t :=
  ⟨k.eq.trans h.eq, fun c => k.canon (h.canon c)⟩

theorem OutKept.mono {m l : List Field} {s : State} {o : Out State} (h : OutKept l s o) (hm : Field.within l m = true) : OutKept m s o :=
  fun t e => (h t e).mono hm

theorem outside_wf {α : Type} [DecidableEq α] (d : α) (m : Store α) (lo n : Nat) (w : Store.wf d m = true) :
    Store.wf d (outside m lo n) = true :=
  Store.keep_wf d _ _ w

theorem State.canonical_iff (s : State) : s.canonical = true ↔ (Store.wf 0 s.regs = true ∧ Store.wf 0 s.wins = true ∧
    Store.wf 0 s.pool = true ∧ Store.wf 0 s.peat = true ∧ Store.wf 0 s.mire = true ∧ Store.wf 0 s.host = true ∧
    Store.wf 0 s.gates = true) := by
  simp [State.canonical, and_assoc]

theorem putBytes_wf (m : Store Byte) (key : Nat) (bs : List Byte) (h : Store.wf 0 m = true) : Store.wf 0 (putBytes m key bs) = true := by
  induction bs generalizing m key with
  | nil => exact h
  | cons b r ih => exact ih _ _ (Store.set_wf 0 m key b h)

/-! ### One field changed -/

theorem Kept.pending (s : State) (v) : Kept [.pending] s { s with pending := v } := ⟨rfl, id⟩
theorem Kept.now (s : State) (v) : Kept [.now] s { s with now := v } := ⟨rfl, id⟩
theorem Kept.up (s : State) (v) : Kept [.up] s { s with up := v } := ⟨rfl, id⟩
theorem Kept.sub (s : State) (v) : Kept [.sub] s { s with sub := v } := ⟨rfl, id⟩
theorem Kept.fresh (s : State) (v) : Kept [.fresh] s { s with fresh := v } := ⟨rfl, id⟩
theorem Kept.regs (s : State) (v) (h : Store.wf 0 s.regs = true → Store.wf 0 v = true) : Kept [.regs] s { s with regs := v } := by
  refine ⟨rfl, fun c => ?_⟩
  rw [State.canonical_iff] at c ⊢
  exact ⟨h c.1, c.2.1, c.2.2.1, c.2.2.2.1, c.2.2.2.2.1, c.2.2.2.2.2.1, c.2.2.2.2.2.2⟩
theorem Kept.wins (s : State) (v) (h : Store.wf 0 s.wins = true → Store.wf 0 v = true) : Kept [.wins] s { s with wins := v } := by
  refine ⟨rfl, fun c => ?_⟩
  rw [State.canonical_iff] at c ⊢
  exact ⟨c.1, h c.2.1, c.2.2.1, c.2.2.2.1, c.2.2.2.2.1, c.2.2.2.2.2.1, c.2.2.2.2.2.2⟩
theorem Kept.guards (s : State) (v) : Kept [.guards] s { s with guards := v } := ⟨rfl, id⟩
theorem Kept.shadows (s : State) (v) : Kept [.shadows] s { s with shadows := v } := ⟨rfl, id⟩
theorem Kept.mbxs (s : State) (v) : Kept [.mbxs] s { s with mbxs := v } := ⟨rfl, id⟩
theorem Kept.tapSets (s : State) (v) : Kept [.tapSets] s { s with tapSets := v } := ⟨rfl, id⟩
theorem Kept.tap (s : State) (v) : Kept [.tap] s { s with tap := v } := ⟨rfl, id⟩
theorem Kept.sealRun (s : State) (v) : Kept [.sealRun] s { s with sealRun := v } := ⟨rfl, id⟩
theorem Kept.timeSet (s : State) (v) : Kept [.timeSet] s { s with timeSet := v } := ⟨rfl, id⟩
theorem Kept.pool (s : State) (v) (h : Store.wf 0 s.pool = true → Store.wf 0 v = true) : Kept [.pool] s { s with pool := v } := by
  refine ⟨rfl, fun c => ?_⟩
  rw [State.canonical_iff] at c ⊢
  exact ⟨c.1, c.2.1, h c.2.2.1, c.2.2.2.1, c.2.2.2.2.1, c.2.2.2.2.2.1, c.2.2.2.2.2.2⟩
theorem Kept.peat (s : State) (v) (h : Store.wf 0 s.peat = true → Store.wf 0 v = true) : Kept [.peat] s { s with peat := v } := by
  refine ⟨rfl, fun c => ?_⟩
  rw [State.canonical_iff] at c ⊢
  exact ⟨c.1, c.2.1, c.2.2.1, h c.2.2.2.1, c.2.2.2.2.1, c.2.2.2.2.2.1, c.2.2.2.2.2.2⟩
theorem Kept.mire (s : State) (v) (h : Store.wf 0 s.mire = true → Store.wf 0 v = true) : Kept [.mire] s { s with mire := v } := by
  refine ⟨rfl, fun c => ?_⟩
  rw [State.canonical_iff] at c ⊢
  exact ⟨c.1, c.2.1, c.2.2.1, c.2.2.2.1, h c.2.2.2.2.1, c.2.2.2.2.2.1, c.2.2.2.2.2.2⟩
theorem Kept.host (s : State) (v) (h : Store.wf 0 s.host = true → Store.wf 0 v = true) : Kept [.host] s { s with host := v } := by
  refine ⟨rfl, fun c => ?_⟩
  rw [State.canonical_iff] at c ⊢
  exact ⟨c.1, c.2.1, c.2.2.1, c.2.2.2.1, c.2.2.2.2.1, h c.2.2.2.2.2.1, c.2.2.2.2.2.2⟩
theorem Kept.poolBad (s : State) (v) : Kept [.poolBad] s { s with poolBad := v } := ⟨rfl, id⟩
theorem Kept.peatBad (s : State) (v) : Kept [.peatBad] s { s with peatBad := v } := ⟨rfl, id⟩
theorem Kept.mireBad (s : State) (v) : Kept [.mireBad] s { s with mireBad := v } := ⟨rfl, id⟩
theorem Kept.tasks (s : State) (v) : Kept [.tasks] s { s with tasks := v } := ⟨rfl, id⟩
theorem Kept.crus (s : State) (v) : Kept [.crus] s { s with crus := v } := ⟨rfl, id⟩
theorem Kept.gates (s : State) (v) (h : Store.wf 0 s.gates = true → Store.wf 0 v = true) : Kept [.gates] s { s with gates := v } := by
  refine ⟨rfl, fun c => ?_⟩
  rw [State.canonical_iff] at c ⊢
  exact ⟨c.1, c.2.1, c.2.2.1, c.2.2.2.1, c.2.2.2.2.1, c.2.2.2.2.2.1, h c.2.2.2.2.2.2⟩
theorem Kept.slots (s : State) (v) : Kept [.slots] s { s with slots := v } := ⟨rfl, id⟩
theorem Kept.probes (s : State) (v) : Kept [.probes] s { s with probes := v } := ⟨rfl, id⟩
theorem Kept.rx (s : State) (v) : Kept [.rx] s { s with rx := v } := ⟨rfl, id⟩
theorem Kept.slotMap (s : State) (v) : Kept [.slotMap] s { s with slotMap := v } := ⟨rfl, id⟩
theorem Kept.routes (s : State) (v) : Kept [.routes] s { s with routes := v } := ⟨rfl, id⟩
theorem Kept.rimEpoch (s : State) (v) : Kept [.rimEpoch] s { s with rimEpoch := v } := ⟨rfl, id⟩
theorem Kept.genTab (s : State) (v) : Kept [.genTab] s { s with genTab := v } := ⟨rfl, id⟩
theorem Kept.net (s : State) (v) : Kept [.net] s { s with net := v } := ⟨rfl, id⟩
theorem Kept.arrivals (s : State) (v) : Kept [.arrivals] s { s with arrivals := v } := ⟨rfl, id⟩
theorem Kept.ports (s : State) (v) : Kept [.ports] s { s with ports := v } := ⟨rfl, id⟩
theorem Kept.laneTx (s : State) (v) : Kept [.laneTx] s { s with laneTx := v } := ⟨rfl, id⟩
theorem Kept.dieFence (s : State) (v) : Kept [.dieFence] s { s with dieFence := v } := ⟨rfl, id⟩
theorem Kept.pgQueue (s : State) (v) : Kept [.pgQueue] s { s with pgQueue := v } := ⟨rfl, id⟩
theorem Kept.movers (s : State) (v) : Kept [.movers] s { s with movers := v } := ⟨rfl, id⟩
theorem Kept.pgPushed (s : State) (v) : Kept [.pgPushed] s { s with pgPushed := v } := ⟨rfl, id⟩
theorem Kept.banks (s : State) (v) : Kept [.banks] s { s with banks := v } := ⟨rfl, id⟩
theorem Kept.scrubs (s : State) (v) : Kept [.scrubs] s { s with scrubs := v } := ⟨rfl, id⟩
theorem Kept.streams (s : State) (v) : Kept [.streams] s { s with streams := v } := ⟨rfl, id⟩
theorem Kept.beds (s : State) (v) : Kept [.beds] s { s with beds := v } := ⟨rfl, id⟩
theorem Kept.places (s : State) (v) : Kept [.places] s { s with places := v } := ⟨rfl, id⟩
theorem Kept.wmoves (s : State) (v) : Kept [.wmoves] s { s with wmoves := v } := ⟨rfl, id⟩
theorem Kept.rplaces (s : State) (v) : Kept [.rplaces] s { s with rplaces := v } := ⟨rfl, id⟩
theorem Kept.handRx (s : State) (v) : Kept [.handRx] s { s with handRx := v } := ⟨rfl, id⟩
theorem Kept.nextTag (s : State) (v) : Kept [.nextTag] s { s with nextTag := v } := ⟨rfl, id⟩
theorem Kept.kvAreas (s : State) (v) : Kept [.kvAreas] s { s with kvAreas := v } := ⟨rfl, id⟩
theorem Kept.castRun (s : State) (v) : Kept [.castRun] s { s with castRun := v } := ⟨rfl, id⟩
theorem Kept.casting (s : State) (v) : Kept [.casting] s { s with casting := v } := ⟨rfl, id⟩
theorem Kept.pours (s : State) (v) : Kept [.pours] s { s with pours := v } := ⟨rfl, id⟩
theorem Kept.cmds (s : State) (v) : Kept [.cmds] s { s with cmds := v } := ⟨rfl, id⟩
theorem Kept.queues (s : State) (v) : Kept [.queues] s { s with queues := v } := ⟨rfl, id⟩
theorem Kept.egress (s : State) (v) : Kept [.egress] s { s with egress := v } := ⟨rfl, id⟩
theorem Kept.fns (s : State) (v) : Kept [.fns] s { s with fns := v } := ⟨rfl, id⟩
theorem Kept.reports (s : State) (v) : Kept [.reports] s { s with reports := v } := ⟨rfl, id⟩
theorem Kept.mon (s : State) (v) : Kept [.mon] s { s with mon := v } := ⟨rfl, id⟩
theorem Kept.monTap (s : State) (v) : Kept [.monTap] s { s with monTap := v } := ⟨rfl, id⟩
theorem Kept.evRing (s : State) (v) : Kept [.evRing] s { s with evRing := v } := ⟨rfl, id⟩
theorem Kept.sec (s : State) (v) : Kept [.sec] s { s with sec := v } := ⟨rfl, id⟩
theorem Kept.spdm (s : State) (v) : Kept [.spdm] s { s with spdm := v } := ⟨rfl, id⟩
theorem Kept.eid (s : State) (v) : Kept [.eid] s { s with eid := v } := ⟨rfl, id⟩
theorem Kept.evWay (s : State) (v) : Kept [.evWay] s { s with evWay := v } := ⟨rfl, id⟩
theorem Kept.evRate (s : State) (v) : Kept [.evRate] s { s with evRate := v } := ⟨rfl, id⟩
theorem Kept.ramps (s : State) (v) : Kept [.ramps] s { s with ramps := v } := ⟨rfl, id⟩
theorem Kept.minvSeen (s : State) (v) : Kept [.minvSeen] s { s with minvSeen := v } := ⟨rfl, id⟩
theorem Kept.tide (s : State) (v) : Kept [.tide] s { s with tide := v } := ⟨rfl, id⟩
theorem Kept.khz (s : State) (v) : Kept [.khz] s { s with khz := v } := ⟨rfl, id⟩
theorem Kept.deferred (s : State) (v) : Kept [.deferred] s { s with deferred := v } := ⟨rfl, id⟩
theorem Kept.stepAt (s : State) (v) : Kept [.stepAt] s { s with stepAt := v } := ⟨rfl, id⟩
theorem Kept.lostPort (s : State) (v) : Kept [.lostPort] s { s with lostPort := v } := ⟨rfl, id⟩
theorem Kept.vlog (s : State) (v) : Kept [.vlog] s { s with vlog := v } := ⟨rfl, id⟩
theorem Kept.refs (s : State) (v) : Kept [.refs] s { s with refs := v } := ⟨rfl, id⟩
theorem Kept.ptp (s : State) (v) : Kept [.ptp] s { s with ptp := v } := ⟨rfl, id⟩
theorem Kept.sens (s : State) (v) : Kept [.sens] s { s with sens := v } := ⟨rfl, id⟩
theorem Kept.quench (s : State) (v) : Kept [.quench] s { s with quench := v } := ⟨rfl, id⟩
theorem Kept.tray (s : State) (v) : Kept [.tray] s { s with tray := v } := ⟨rfl, id⟩
theorem Kept.boot (s : State) (v) : Kept [.boot] s { s with boot := v } := ⟨rfl, id⟩
theorem Kept.flash (s : State) (v) : Kept [.flash] s { s with flash := v } := ⟨rfl, id⟩
theorem Kept.sites (s : State) (v) : Kept [.sites] s { s with sites := v } := ⟨rfl, id⟩
theorem Kept.planDue (s : State) (v) : Kept [.planDue] s { s with planDue := v } := ⟨rfl, id⟩
theorem Kept.planAt (s : State) (v) : Kept [.planAt] s { s with planAt := v } := ⟨rfl, id⟩
theorem Kept.aging (s : State) (v) : Kept [.aging] s { s with aging := v } := ⟨rfl, id⟩
theorem Kept.heats (s : State) (v) : Kept [.heats] s { s with heats := v } := ⟨rfl, id⟩
theorem Kept.retires (s : State) (v) : Kept [.retires] s { s with retires := v } := ⟨rfl, id⟩
theorem Kept.charges (s : State) (v) : Kept [.charges] s { s with charges := v } := ⟨rfl, id⟩
theorem Kept.fixes (s : State) (v) : Kept [.fixes] s { s with fixes := v } := ⟨rfl, id⟩
theorem Kept.beats (s : State) (v) : Kept [.beats] s { s with beats := v } := ⟨rfl, id⟩
theorem Kept.out (s : State) (v) : Kept [.out] s { s with out := v } := ⟨rfl, id⟩
theorem Kept.lastRead (s : State) (v) : Kept [.lastRead] s { s with lastRead := v } := ⟨rfl, id⟩
theorem Kept.peat_peatBad (s : State) (v0 v1) (hpeat : Store.wf 0 s.peat = true → Store.wf 0 v0 = true) : Kept [.peat, .peatBad] s { s with peat := v0, peatBad := v1 } := by
  refine ⟨rfl, fun c => ?_⟩
  rw [State.canonical_iff] at c ⊢
  exact ⟨c.1, c.2.1, c.2.2.1, hpeat c.2.2.2.1, c.2.2.2.2.1, c.2.2.2.2.2.1, c.2.2.2.2.2.2⟩
theorem Kept.mire_mireBad (s : State) (v0 v1) (hmire : Store.wf 0 s.mire = true → Store.wf 0 v0 = true) : Kept [.mire, .mireBad] s { s with mire := v0, mireBad := v1 } := by
  refine ⟨rfl, fun c => ?_⟩
  rw [State.canonical_iff] at c ⊢
  exact ⟨c.1, c.2.1, c.2.2.1, c.2.2.2.1, hmire c.2.2.2.2.1, c.2.2.2.2.2.1, c.2.2.2.2.2.2⟩
theorem Kept.pool_poolBad (s : State) (v0 v1) (hpool : Store.wf 0 s.pool = true → Store.wf 0 v0 = true) : Kept [.pool, .poolBad] s { s with pool := v0, poolBad := v1 } := by
  refine ⟨rfl, fun c => ?_⟩
  rw [State.canonical_iff] at c ⊢
  exact ⟨c.1, c.2.1, hpool c.2.2.1, c.2.2.2.1, c.2.2.2.2.1, c.2.2.2.2.2.1, c.2.2.2.2.2.2⟩
theorem Kept.probes_rx (s : State) (v0 v1) : Kept [.probes, .rx] s { s with probes := v0, rx := v1 } := ⟨rfl, id⟩
theorem Kept.pool_poolBad_tasks_crus_khz_deferred (s : State) (v0 v1 v2 v3 v4 v5) (hpool : Store.wf 0 s.pool = true → Store.wf 0 v0 = true) : Kept [.pool, .poolBad, .tasks, .crus, .khz, .deferred] s { s with pool := v0, poolBad := v1, tasks := v2, crus := v3, khz := v4, deferred := v5 } := by
  refine ⟨rfl, fun c => ?_⟩
  rw [State.canonical_iff] at c ⊢
  exact ⟨c.1, c.2.1, hpool c.2.2.1, c.2.2.2.1, c.2.2.2.2.1, c.2.2.2.2.2.1, c.2.2.2.2.2.2⟩
theorem Kept.now_timeSet_ptp (s : State) (v0 v1 v2) : Kept [.now, .timeSet, .ptp] s { s with now := v0, timeSet := v1, ptp := v2 } := ⟨rfl, id⟩
theorem Kept.flash_planDue_planAt (s : State) (v0 v1 v2) : Kept [.flash, .planDue, .planAt] s { s with flash := v0, planDue := v1, planAt := v2 } := ⟨rfl, id⟩
theorem Kept.slots_rx (s : State) (v0 v1) : Kept [.slots, .rx] s { s with slots := v0, rx := v1 } := ⟨rfl, id⟩
theorem Kept.gates_probes_rx_wmoves_rplaces_handRx (s : State) (v0 v1 v2 v3 v4 v5) (hgates : Store.wf 0 s.gates = true → Store.wf 0 v0 = true) : Kept [.gates, .probes, .rx, .wmoves, .rplaces, .handRx] s { s with gates := v0, probes := v1, rx := v2, wmoves := v3, rplaces := v4, handRx := v5 } := by
  refine ⟨rfl, fun c => ?_⟩
  rw [State.canonical_iff] at c ⊢
  exact ⟨c.1, c.2.1, c.2.2.1, c.2.2.2.1, c.2.2.2.2.1, c.2.2.2.2.2.1, hgates c.2.2.2.2.2.2⟩
theorem Kept.castRun_casting_pours (s : State) (v0 v1 v2) : Kept [.castRun, .casting, .pours] s { s with castRun := v0, casting := v1, pours := v2 } := ⟨rfl, id⟩
theorem Kept.wins_cmds_queues (s : State) (v0 v1 v2) (hwins : Store.wf 0 s.wins = true → Store.wf 0 v0 = true) : Kept [.wins, .cmds, .queues] s { s with wins := v0, cmds := v1, queues := v2 } := by
  refine ⟨rfl, fun c => ?_⟩
  rw [State.canonical_iff] at c ⊢
  exact ⟨c.1, hwins c.2.1, c.2.2.1, c.2.2.2.1, c.2.2.2.2.1, c.2.2.2.2.2.1, c.2.2.2.2.2.2⟩
theorem Kept.fns_spdm (s : State) (v0 v1) : Kept [.fns, .spdm] s { s with fns := v0, spdm := v1 } := ⟨rfl, id⟩
theorem Kept.pgQueue_pgPushed (s : State) (v0 v1) : Kept [.pgQueue, .pgPushed] s { s with pgQueue := v0, pgPushed := v1 } := ⟨rfl, id⟩
theorem Kept.planDue_beats (s : State) (v0 v1) : Kept [.planDue, .beats] s { s with planDue := v0, beats := v1 } := ⟨rfl, id⟩
theorem Kept.sealRun_beds_places_casting_pours_heats (s : State) (v0 v1 v2 v3 v4 v5) : Kept [.sealRun, .beds, .places, .casting, .pours, .heats] s { s with sealRun := v0, beds := v1, places := v2, casting := v3, pours := v4, heats := v5 } := ⟨rfl, id⟩
theorem Kept.now_up_sub (s : State) (v0 v1 v2) : Kept [.now, .up, .sub] s { s with now := v0, up := v1, sub := v2 } := ⟨rfl, id⟩

end Sys2Proof.Machine
end

