-- ==== Sys2Proof/Laws/KeptCore.lean ====
section
/-! SUPPORT. What the commands and operations of the shared operations and the crucible, mesh and stream bookkeeping may change. -/
namespace Sys2Proof.Machine
set_option linter.unusedVariables false

/-! ### Ops -/

theorem State.setReg_kept (s) (page) (off) (v) : Kept [.regs] s (State.setReg s page off v) := by
  unfold State.setReg
  repeat' first
    | exact Eq.refl true
    | with_reducible assumption
    | with_reducible apply Kept.ite
    | with_reducible apply Kept.refl
    | with_reducible refine Kept.foldl _ (fun _ _ => ?_) _ _
    | with_reducible apply Kept.step (k := Kept.foldl (m := [.regs]) _ (fun _ _ => ?_) _ _)
    | split
    | with_reducible apply Kept.step (k := Kept.regs _ _ (Store.set_wf 0 _ _ _))

theorem State.storeReg_kept (s) (page) (off) (v) : Kept [.regs, .wins] s (State.storeReg s page off v) := by
  unfold State.storeReg
  repeat' first
    | exact Eq.refl true
    | with_reducible assumption
    | with_reducible apply Kept.ite
    | with_reducible apply Kept.refl
    | with_reducible apply Kept.step (k := State.setReg_kept ..)
    | with_reducible refine Kept.foldl _ (fun _ _ => ?_) _ _
    | with_reducible apply Kept.step (k := Kept.foldl (m := [.regs, .wins]) _ (fun _ _ => ?_) _ _)
    | split
    | with_reducible apply Kept.step (k := Kept.wins _ _ (Store.set_wf 0 _ _ _))

theorem State.setBedReg_kept (s) (b) (off) (v) : Kept [.wins] s (State.setBedReg s b off v) := by
  unfold State.setBedReg
  repeat' first
    | exact Eq.refl true
    | with_reducible assumption
    | with_reducible apply Kept.ite
    | with_reducible apply Kept.refl
    | with_reducible refine Kept.foldl _ (fun _ _ => ?_) _ _
    | with_reducible apply Kept.step (k := Kept.foldl (m := [.wins]) _ (fun _ _ => ?_) _ _)
    | split
    | with_reducible apply Kept.step (k := Kept.wins _ _ (Store.set_wf 0 _ _ _))

theorem State.setQueueReg_kept (s) (p) (kind) (num) (off) (v) : Kept [.wins] s (State.setQueueReg s p kind num off v) := by
  unfold State.setQueueReg
  repeat' first
    | exact Eq.refl true
    | with_reducible assumption
    | with_reducible apply Kept.ite
    | with_reducible apply Kept.refl
    | with_reducible refine Kept.foldl _ (fun _ _ => ?_) _ _
    | with_reducible apply Kept.step (k := Kept.foldl (m := [.wins]) _ (fun _ _ => ?_) _ _)
    | split
    | with_reducible apply Kept.step (k := Kept.wins _ _ (Store.set_wf 0 _ _ _))

theorem State.setRf_kept (s) (page) (off) (hi) (lo) (v) : Kept [.regs] s (State.setRf s page off hi lo v) := by
  unfold State.setRf
  repeat' first
    | exact Eq.refl true
    | with_reducible assumption
    | with_reducible apply Kept.ite
    | with_reducible apply Kept.refl
    | with_reducible apply Kept.step (k := State.setReg_kept ..)

theorem State.setRb_kept (s) (page) (off) (i) (b) : Kept [.regs] s (State.setRb s page off i b) := by
  unfold State.setRb
  repeat' first
    | exact Eq.refl true
    | with_reducible assumption
    | with_reducible apply Kept.ite
    | with_reducible apply Kept.refl
    | with_reducible apply Kept.step (k := State.setReg_kept ..)

theorem State.setFields_kept (s) (page) (off) (parts) : Kept [.regs] s (State.setFields s page off parts) := by
  unfold State.setFields
  repeat' first
    | exact Eq.refl true
    | with_reducible assumption
    | with_reducible apply Kept.ite
    | with_reducible apply Kept.refl
    | with_reducible apply Kept.step (k := State.setReg_kept ..)

theorem State.bump_kept (s) (page) (slot) (n) : Kept [.regs] s (State.bump s page slot n) := by
  unfold State.bump
  repeat' first
    | exact Eq.refl true
    | with_reducible assumption
    | with_reducible apply Kept.ite
    | with_reducible apply Kept.refl
    | with_reducible apply Kept.step (k := State.setReg_kept ..)

theorem State.send_kept (s) (m) : Kept [.out] s (State.send s m) := by
  unfold State.send
  repeat' first
    | exact Eq.refl true
    | with_reducible assumption
    | with_reducible apply Kept.ite
    | with_reducible apply Kept.refl
    | with_reducible refine Kept.foldl _ (fun _ _ => ?_) _ _
    | with_reducible apply Kept.step (k := Kept.foldl (m := [.out]) _ (fun _ _ => ?_) _ _)
    | split
    | with_reducible apply Kept.step (k := Kept.out ..)

theorem State.msix_kept (s) (p) (vec) : Kept [.regs, .fns, .out] s (State.msix s p vec) := by
  unfold State.msix
  repeat' first
    | exact Eq.refl true
    | with_reducible assumption
    | with_reducible apply Kept.ite
    | with_reducible apply Kept.refl
    | with_reducible apply Kept.step (k := State.send_kept ..)
    | with_reducible apply Kept.step (k := State.bump_kept ..)
    | with_reducible refine Kept.foldl _ (fun _ _ => ?_) _ _
    | with_reducible apply Kept.step (k := Kept.foldl (m := [.regs, .fns, .out]) _ (fun _ _ => ?_) _ _)
    | split
    | with_reducible apply Kept.step (k := Kept.fns ..)

theorem State.withSummary_kept {m s page f} (hm : Field.within [.regs, .fns, .out] m = true) (hf : ∀ t, Kept m t (f t)) :
    Kept m s (State.withSummary s page f) := by
  unfold State.withSummary
  dsimp only
  repeat' first
    | exact hm
    | exact hf _
    | with_reducible refine Kept.step ?_ (State.msix_kept ..) ?_
    | split

theorem State.summarized_kept {m s page off f} (hm : Field.within [.regs, .fns, .out] m = true) (hf : ∀ t, Kept m t (f t)) :
    Kept m s (State.summarized s page off f) := by
  unfold State.summarized
  split
  · exact State.withSummary_kept hm hf
  · exact hf _

theorem State.raise_kept (s) (page) (b) : Kept [.regs, .fns, .out] s (State.raise s page b) := by
  unfold State.raise
  repeat' first
    | exact Eq.refl true
    | with_reducible assumption
    | with_reducible apply Kept.ite
    | with_reducible apply Kept.refl
    | with_reducible refine Kept.step ?_ (State.withSummary_kept (m := [.regs, .fns, .out]) ?_ (fun _ => ?_) ..) ?_
    | with_reducible apply Kept.step (k := State.setRb_kept ..)

theorem State.log_kept (s) (page) (cause) (sev) (d0) (d1) : Kept [.evWay] s (State.log s page cause sev d0 d1) := by
  unfold State.log
  repeat' first
    | exact Eq.refl true
    | with_reducible assumption
    | with_reducible apply Kept.ite
    | with_reducible apply Kept.refl
    | with_reducible refine Kept.foldl _ (fun _ _ => ?_) _ _
    | with_reducible apply Kept.step (k := Kept.foldl (m := [.evWay]) _ (fun _ _ => ?_) _ _)
    | split
    | with_reducible apply Kept.step (k := Kept.evWay ..)

theorem State.report_kept (s) (tile) (cause) (unit) (detail) : Kept [.regs, .fns, .reports, .out] s (State.report s tile cause unit detail) := by
  unfold State.report
  repeat' first
    | exact Eq.refl true
    | with_reducible assumption
    | with_reducible apply Kept.ite
    | with_reducible apply Kept.refl
    | (extract_lets +onlyGivenNames x; refine Kept.via x ?_ ?_; (on_goal 1 => (unfold x; clear x)); on_goal 2 => (intro hx; clear_value x))
    | (extract_lets +onlyGivenNames x; clear_value x)
    | with_reducible apply Kept.step (k := State.raise_kept ..)
    | with_reducible apply Kept.step (k := State.bump_kept ..)
    | with_reducible apply Kept.step (k := State.setFields_kept ..)
    | with_reducible apply Kept.step (k := State.setRf_kept ..)
    | with_reducible refine Kept.foldl _ (fun _ _ => ?_) _ _
    | with_reducible apply Kept.step (k := Kept.foldl (m := [.regs, .fns, .reports, .out]) _ (fun _ _ => ?_) _ _)
    | split
    | with_reducible apply Kept.step (k := Kept.reports ..)

theorem State.tickFresh_kept (s) : Kept [.fresh] s (State.tickFresh s) := by
  unfold State.tickFresh
  repeat' first
    | exact Eq.refl true
    | with_reducible assumption
    | with_reducible apply Kept.ite
    | with_reducible apply Kept.refl
    | with_reducible refine Kept.foldl _ (fun _ _ => ?_) _ _
    | with_reducible apply Kept.step (k := Kept.foldl (m := [.fresh]) _ (fun _ _ => ?_) _ _)
    | split
    | with_reducible apply Kept.step (k := Kept.fresh ..)

theorem State.writePool_kept (s) (tile) (cru) (off) (bs) : Kept [.pool, .poolBad] s (State.writePool s tile cru off bs) := by
  unfold State.writePool
  repeat' first
    | exact Eq.refl true
    | with_reducible assumption
    | with_reducible apply Kept.ite
    | with_reducible apply Kept.refl
    | with_reducible refine Kept.foldl _ (fun _ _ => ?_) _ _
    | with_reducible apply Kept.step (k := Kept.foldl (m := [.pool, .poolBad]) _ (fun _ _ => ?_) _ _)
    | split
    | with_reducible apply Kept.step (k := Kept.pool_poolBad _ _ _ (Store.set_wf 0 _ _ _))
    | with_reducible apply Kept.step (k := Kept.pool_poolBad _ _ _ (putBytes_wf _ _ _))

theorem State.writePeat_kept (s) (tile) (off) (bs) : Kept [.regs, .peat, .peatBad] s (State.writePeat s tile off bs) := by
  unfold State.writePeat
  repeat' first
    | exact Eq.refl true
    | with_reducible assumption
    | with_reducible apply Kept.ite
    | with_reducible apply Kept.refl
    | (extract_lets +onlyGivenNames x; refine Kept.via x ?_ ?_; (on_goal 1 => (unfold x; clear x)); on_goal 2 => (intro hx; clear_value x))
    | with_reducible apply Kept.step (k := State.bump_kept ..)
    | with_reducible refine Kept.foldl _ (fun _ _ => ?_) _ _
    | with_reducible apply Kept.step (k := Kept.foldl (m := [.regs, .peat, .peatBad]) _ (fun _ _ => ?_) _ _)
    | split
    | with_reducible apply Kept.step (k := Kept.peat_peatBad _ _ _ (Store.set_wf 0 _ _ _))
    | with_reducible apply Kept.step (k := Kept.peat_peatBad _ _ _ (putBytes_wf _ _ _))

theorem State.countPeatRead_kept (s) (tile) (off) (n) : Kept [.regs] s (State.countPeatRead s tile off n) := by
  unfold State.countPeatRead
  repeat' first
    | exact Eq.refl true
    | with_reducible assumption
    | with_reducible apply Kept.ite
    | with_reducible apply Kept.refl
    | with_reducible apply Kept.step (k := State.bump_kept ..)

theorem State.writeMire_kept (s) (a) (bs) : Kept [.mire, .mireBad] s (State.writeMire s a bs) := by
  unfold State.writeMire
  repeat' first
    | exact Eq.refl true
    | with_reducible assumption
    | with_reducible apply Kept.ite
    | with_reducible apply Kept.refl
    | with_reducible refine Kept.foldl _ (fun _ _ => ?_) _ _
    | with_reducible apply Kept.step (k := Kept.foldl (m := [.mire, .mireBad]) _ (fun _ _ => ?_) _ _)
    | split
    | with_reducible apply Kept.step (k := Kept.mire_mireBad _ _ _ (Store.set_wf 0 _ _ _))
    | with_reducible apply Kept.step (k := Kept.mire_mireBad _ _ _ (putBytes_wf _ _ _))

theorem State.writeHost_kept (s) (p) (a) (bs) : Kept [.host] s (State.writeHost s p a bs) := by
  unfold State.writeHost
  repeat' first
    | exact Eq.refl true
    | with_reducible assumption
    | with_reducible apply Kept.ite
    | with_reducible apply Kept.refl
    | with_reducible refine Kept.foldl _ (fun _ _ => ?_) _ _
    | with_reducible apply Kept.step (k := Kept.foldl (m := [.host]) _ (fun _ _ => ?_) _ _)
    | split
    | with_reducible apply Kept.step (k := Kept.host _ _ (Store.set_wf 0 _ _ _))
    | with_reducible apply Kept.step (k := Kept.host _ _ (putBytes_wf _ _ _))

theorem State.setTask_kept (s) (tile) (cru) (task) (t) : Kept [.tasks] s (State.setTask s tile cru task t) := by
  unfold State.setTask
  repeat' first
    | exact Eq.refl true
    | with_reducible assumption
    | with_reducible apply Kept.ite
    | with_reducible apply Kept.refl
    | with_reducible refine Kept.foldl _ (fun _ _ => ?_) _ _
    | with_reducible apply Kept.step (k := Kept.foldl (m := [.tasks]) _ (fun _ _ => ?_) _ _)
    | split
    | with_reducible apply Kept.step (k := Kept.tasks ..)

theorem State.setCru_kept (s) (tile) (cru) (c) : Kept [.crus] s (State.setCru s tile cru c) := by
  unfold State.setCru
  repeat' first
    | exact Eq.refl true
    | with_reducible assumption
    | with_reducible apply Kept.ite
    | with_reducible apply Kept.refl
    | with_reducible refine Kept.foldl _ (fun _ _ => ?_) _ _
    | with_reducible apply Kept.step (k := Kept.foldl (m := [.crus]) _ (fun _ _ => ?_) _ _)
    | split
    | with_reducible apply Kept.step (k := Kept.crus ..)

/-! ### Views -/

theorem State.setBed_kept (s) (b) (x) : Kept [.beds] s (State.setBed s b x) := by
  unfold State.setBed
  repeat' first
    | exact Eq.refl true
    | with_reducible assumption
    | with_reducible apply Kept.ite
    | with_reducible apply Kept.refl
    | with_reducible refine Kept.foldl _ (fun _ _ => ?_) _ _
    | with_reducible apply Kept.step (k := Kept.foldl (m := [.beds]) _ (fun _ _ => ?_) _ _)
    | split
    | with_reducible apply Kept.step (k := Kept.beds ..)

theorem State.setPlace_kept (s) (b) (i) (x) : Kept [.places] s (State.setPlace s b i x) := by
  unfold State.setPlace
  repeat' first
    | exact Eq.refl true
    | with_reducible assumption
    | with_reducible apply Kept.ite
    | with_reducible apply Kept.refl
    | with_reducible refine Kept.foldl _ (fun _ _ => ?_) _ _
    | with_reducible apply Kept.step (k := Kept.foldl (m := [.places]) _ (fun _ _ => ?_) _ _)
    | split
    | with_reducible apply Kept.step (k := Kept.places ..)

/-! ### Bus -/

theorem State.guardErr_kept (s) (who) (page) : Kept [.regs, .fns, .out] s (State.guardErr s who page) := by
  unfold State.guardErr
  repeat' first
    | exact Eq.refl true
    | with_reducible assumption
    | with_reducible apply Kept.ite
    | with_reducible apply Kept.refl
    | (extract_lets +onlyGivenNames x; refine Kept.via x ?_ ?_; (on_goal 1 => (unfold x; clear x)); on_goal 2 => (intro hx; clear_value x))
    | with_reducible apply Kept.step (k := State.raise_kept ..)
    | with_reducible apply Kept.step (k := State.bump_kept ..)
    | with_reducible apply Kept.step (k := State.setFields_kept ..)

theorem State.closeGuard_kept (s) (page) : Kept [.guards] s (State.closeGuard s page) := by
  unfold State.closeGuard
  repeat' first
    | exact Eq.refl true
    | with_reducible assumption
    | with_reducible apply Kept.ite
    | with_reducible apply Kept.refl
    | split
    | with_reducible apply Kept.step (k := Kept.guards ..)

theorem State.dropShadow_kept (s) (who) (page) : Kept [.shadows] s (State.dropShadow s who page) := by
  unfold State.dropShadow
  repeat' first
    | exact Eq.refl true
    | with_reducible assumption
    | with_reducible apply Kept.ite
    | with_reducible apply Kept.refl
    | split
    | with_reducible apply Kept.step (k := Kept.shadows ..)

theorem State.sealTouch_kept (s) : Kept [.sealRun] s (State.sealTouch s) := by
  unfold State.sealTouch
  repeat' first
    | exact Eq.refl true
    | with_reducible assumption
    | with_reducible apply Kept.ite
    | with_reducible apply Kept.refl
    | (extract_lets +onlyGivenNames x; clear_value x)
    | split
    | with_reducible apply Kept.step (k := Kept.sealRun ..)

theorem State.regTimeout_kept (s) : Kept [.regs, .fns, .out] s (State.regTimeout s) := by
  unfold State.regTimeout
  repeat' first
    | exact Eq.refl true
    | with_reducible assumption
    | with_reducible apply Kept.ite
    | with_reducible apply Kept.refl
    | with_reducible apply Kept.step (k := State.raise_kept ..)
    | with_reducible apply Kept.step (k := State.bump_kept ..)

theorem State.writeCore_kept (s) (who) (page) (off) (size) (v) :
    Kept [.regs, .wins, .guards, .shadows, .sealRun, .fns, .out] s (State.writeCore s who page off size v).st := by
  unfold State.writeCore
  extract_lets s0
  have h0 : Kept [.regs, .wins, .guards, .shadows, .sealRun, .fns, .out] s s0 := (Kept.refl _ s).step (State.dropShadow_kept ..) rfl
  clear_value s0
  split
  · extract_lets old gw admits s1 m sl s2 cur w1c
    have h1 : Kept [.regs, .wins, .guards, .shadows, .sealRun, .fns, .out] s s1 := by
      unfold s1
      split
      · exact h0.step (State.closeGuard_kept ..) rfl
      · split
        · exact h0.step (State.guardErr_kept ..) rfl
        · exact h0
    have h2 : Kept [.regs, .wins, .guards, .shadows, .sealRun, .fns, .out] s s2 := by
      unfold s2
      split
      · exact h1.step (State.sealTouch_kept ..) rfl
      · exact h1
    exact h2.step (State.storeReg_kept ..) rfl
  · dsimp only
    split
    · exact h0.step (State.regTimeout_kept ..) rfl
    · exact h0

theorem State.zeroBits_kept (s) (page) (off) (m) : Kept [.regs, .wins] s (State.zeroBits s page off m) := by
  unfold State.zeroBits
  repeat' first
    | exact Eq.refl true
    | with_reducible assumption
    | with_reducible apply Kept.ite
    | with_reducible apply Kept.refl
    | with_reducible apply Kept.step (k := State.storeReg_kept ..)

theorem State.keepReg_kept (s) (old) (page) (off) : Kept [.regs, .wins] s (State.keepReg s old page off) := by
  unfold State.keepReg
  repeat' first
    | exact Eq.refl true
    | with_reducible assumption
    | with_reducible apply Kept.ite
    | with_reducible apply Kept.refl
    | with_reducible apply Kept.step (k := State.storeReg_kept ..)

theorem State.clearRc_kept (s) (page) (off) (half) : Kept [.regs, .wins] s (State.clearRc s page off half) := by
  unfold State.clearRc
  repeat' first
    | exact Eq.refl true
    | with_reducible assumption
    | with_reducible apply Kept.ite
    | with_reducible apply Kept.refl
    | (extract_lets +onlyGivenNames x; refine Kept.via x ?_ ?_; (on_goal 1 => (unfold x; clear x)); on_goal 2 => (intro hx; clear_value x))
    | with_reducible apply Kept.step (k := State.zeroBits_kept ..)
    | with_reducible apply Kept.step (k := State.setRf_kept ..)
    | split

theorem State.busRead_keptP (s) (who) (page) (off) (size) : Kept [.regs, .wins, .shadows, .fns, .out] s (State.busRead s who page off size).2 := by
  unfold State.busRead
  repeat' first
    | exact Eq.refl true
    | with_reducible assumption
    | with_reducible apply Kept.ite
    | with_reducible apply Kept.refl
    | (extract_lets +onlyGivenNames x; refine Kept.via x ?_ ?_; (on_goal 1 => (unfold x; clear x)); on_goal 2 => (intro hx; clear_value x))
    | (extract_lets +onlyGivenNames x; clear_value x)
    | with_reducible apply Kept.step (k := State.clearRc_kept ..)
    | with_reducible apply Kept.step (k := State.regTimeout_kept ..)
    | with_reducible apply Kept.step (k := State.dropShadow_kept ..)
    | split
    | with_reducible apply Kept.step (k := Kept.shadows ..)
theorem State.busRead_kept {s who page off size zz tt} (h : State.busRead s who page off size = (zz, tt)) : Kept [.regs, .wins, .shadows, .fns, .out] s tt := by
  have := State.busRead_keptP s who page off size
  rw [h] at this
  exact this

theorem State.deliver_kept (s) (who) (v) : Kept [.lastRead] s (State.deliver s who v) := by
  unfold State.deliver
  repeat' first
    | exact Eq.refl true
    | with_reducible assumption
    | with_reducible apply Kept.ite
    | with_reducible apply Kept.refl
    | split
    | with_reducible apply Kept.step (k := Kept.lastRead ..)

/-! ### Crucible -/

theorem putMasked_wf (m : Store Byte) (key : Nat) (l : List (Nat × Byte)) (h : Store.wf 0 m = true) :
    Store.wf 0 (putMasked m key l) = true := by
  induction l generalizing m with
  | nil => exact h
  | cons b r ih => exact ih _ (Store.set_wf 0 m _ _ h)

theorem State.flushEntry_kept (s) (tile) (e) : Kept [.regs, .peat, .peatBad] s (State.flushEntry s tile e) := by
  unfold State.flushEntry
  dsimp only
  repeat' first
    | exact Eq.refl true
    | with_reducible apply Kept.refl
    | with_reducible refine Kept.step ?_ (State.bump_kept ..) ?_
    | split
    | with_reducible refine Kept.step ?_ (Kept.peat_peatBad _ _ _ (putMasked_wf _ _ _)) ?_

theorem State.flushList_kept (s) (tile) (a0) : Kept [.regs, .peat, .peatBad] s (State.flushList s tile a0) := by
  induction a0 generalizing s tile with
  | nil => exact Kept.refl _ _
  | cons b r ih =>
    unfold State.flushList
    repeat' first
      | exact Eq.refl true
      | with_reducible assumption
      | with_reducible apply Kept.ite
      | with_reducible apply Kept.refl
      | with_reducible apply Kept.step (k := ih ..)
      | with_reducible apply Kept.step (k := State.flushEntry_kept ..)

theorem State.gbFlushAll_kept (s) (tile) (cru) : Kept [.regs, .peat, .peatBad, .crus] s (State.gbFlushAll s tile cru) := by
  unfold State.gbFlushAll
  repeat' first
    | exact Eq.refl true
    | with_reducible assumption
    | with_reducible apply Kept.ite
    | with_reducible apply Kept.refl
    | (extract_lets +onlyGivenNames x; clear_value x)
    | with_reducible apply Kept.step (k := State.flushList_kept ..)
    | with_reducible apply Kept.step (k := State.setCru_kept ..)

theorem State.gbFlushOn_kept (s) (tile) (cru) : Kept [.regs, .peat, .peatBad, .crus] s (State.gbFlushOn s tile cru) := by
  unfold State.gbFlushOn
  repeat' first
    | exact Eq.refl true
    | with_reducible assumption
    | with_reducible apply Kept.ite
    | with_reducible apply Kept.refl
    | (extract_lets +onlyGivenNames x; clear_value x)
    | with_reducible apply Kept.step (k := State.flushList_kept ..)
    | with_reducible apply Kept.step (k := State.setCru_kept ..)

theorem State.gbFlushLine_kept (s) (tile) (cru) (line) : Kept [.regs, .peat, .peatBad, .crus] s (State.gbFlushLine s tile cru line) := by
  unfold State.gbFlushLine
  repeat' first
    | exact Eq.refl true
    | with_reducible assumption
    | with_reducible apply Kept.ite
    | with_reducible apply Kept.refl
    | (extract_lets +onlyGivenNames x; clear_value x)
    | with_reducible apply Kept.step (k := State.flushList_kept ..)
    | with_reducible apply Kept.step (k := State.setCru_kept ..)

theorem State.gbWrite_kept (s) (tile) (cru) (line) (o) (bs) : Kept [.regs, .peat, .peatBad, .crus] s (State.gbWrite s tile cru line o bs) := by
  unfold State.gbWrite
  repeat' first
    | exact Eq.refl true
    | with_reducible assumption
    | with_reducible apply Kept.ite
    | with_reducible apply Kept.refl
    | with_reducible apply Kept.step (k := State.gbFlushLine_kept ..)
    | with_reducible apply Kept.step (k := State.flushList_kept ..)
    | with_reducible apply Kept.step (k := State.setCru_kept ..)

theorem State.crucibleWritePeat_kept (s) (tile) (cru) (off) (bs) (a0) : Kept [.regs, .peat, .peatBad, .crus] s (State.crucibleWritePeat s tile cru off bs a0) := by
  induction a0 generalizing s tile cru off bs with
  | zero => exact Kept.refl _ _
  | succ n ih =>
    unfold State.crucibleWritePeat
    repeat' first
      | exact Eq.refl true
      | with_reducible assumption
      | with_reducible apply Kept.ite
      | with_reducible apply Kept.refl
      | (extract_lets +onlyGivenNames x; refine Kept.via x ?_ ?_; (on_goal 1 => (unfold x; clear x)); on_goal 2 => (intro hx; clear_value x))
      | (extract_lets +onlyGivenNames x; clear_value x)
      | with_reducible apply Kept.step (k := ih ..)
      | with_reducible apply Kept.step (k := State.gbWrite_kept ..)
      | with_reducible apply Kept.step (k := State.gbFlushLine_kept ..)
      | with_reducible apply Kept.step (k := State.writePeat_kept ..)

theorem State.nearWrite_kept (s) (tile) (cru) (peat) (off) (bs) : Kept [.regs, .pool, .peat, .poolBad, .peatBad, .crus] s (State.nearWrite s tile cru peat off bs) := by
  unfold State.nearWrite
  repeat' first
    | exact Eq.refl true
    | with_reducible assumption
    | with_reducible apply Kept.ite
    | with_reducible apply Kept.refl
    | with_reducible apply Kept.step (k := State.crucibleWritePeat_kept ..)
    | with_reducible apply Kept.step (k := State.writePool_kept ..)

theorem State.wakeTasks_kept (s) (tile) (cru) : Kept [.tasks] s (State.wakeTasks s tile cru) := by
  unfold State.wakeTasks
  repeat' first
    | exact Eq.refl true
    | with_reducible assumption
    | with_reducible apply Kept.ite
    | with_reducible apply Kept.refl
    | with_reducible apply Kept.step (k := State.setTask_kept ..)
    | with_reducible refine Kept.foldl _ (fun _ _ => ?_) _ _

theorem State.noteSbHigh_kept (s) (tile) (cru) : Kept [.regs] s (State.noteSbHigh s tile cru) := by
  unfold State.noteSbHigh
  repeat' first
    | exact Eq.refl true
    | with_reducible assumption
    | with_reducible apply Kept.ite
    | with_reducible apply Kept.refl
    | with_reducible apply Kept.step (k := State.setRf_kept ..)

theorem State.loseSlot_kept (s) (c) : Kept [.fresh, .pool, .peat] s (State.loseSlot s c) := by
  unfold State.loseSlot
  repeat' first
    | exact Eq.refl true
    | with_reducible assumption
    | with_reducible apply Kept.ite
    | with_reducible apply Kept.refl
    | with_reducible apply Kept.step (k := State.tickFresh_kept ..)
    | with_reducible refine Kept.foldl _ (fun _ _ => ?_) _ _
    | with_reducible apply Kept.step (k := Kept.foldl (m := [.fresh, .pool, .peat]) _ (fun _ _ => ?_) _ _)
    | split
    | with_reducible apply Kept.step (k := Kept.peat _ _ (Store.set_wf 0 _ _ _))
    | with_reducible apply Kept.step (k := Kept.peat _ _ (putBytes_wf _ _ _))
    | with_reducible apply Kept.step (k := Kept.peat _ _ (Store.keep_wf 0 _ _))
    | with_reducible apply Kept.step (k := Kept.peat _ _ (fun _ => rfl))
    | with_reducible apply Kept.step (k := Kept.peat _ _ (outside_wf 0 _ _ _))
    | with_reducible apply Kept.step (k := Kept.peat _ _ (Store.upd_wf 0 _ _ _))
    | with_reducible apply Kept.step (k := Kept.peat _ _ (Store.mapVals_wf 0 _ _))
    | with_reducible apply Kept.step (k := Kept.pool _ _ (Store.set_wf 0 _ _ _))
    | with_reducible apply Kept.step (k := Kept.pool _ _ (putBytes_wf _ _ _))

theorem State.revertClaims_kept (s) (a0) : Kept [.fresh, .pool, .peat, .slots] s (State.revertClaims s a0) := by
  induction a0 generalizing s with
  | nil => exact Kept.refl _ _
  | cons b r ih =>
    unfold State.revertClaims
    repeat' first
      | exact Eq.refl true
      | with_reducible assumption
      | with_reducible apply Kept.ite
      | with_reducible apply Kept.refl
      | (extract_lets +onlyGivenNames x; refine Kept.via x ?_ ?_; (on_goal 1 => (unfold x; clear x)); on_goal 2 => (intro hx; clear_value x))
      | (extract_lets +onlyGivenNames x; clear_value x)
      | with_reducible apply Kept.step (k := ih ..)
      | with_reducible apply Kept.step (k := State.loseSlot_kept ..)
      | with_reducible refine Kept.foldl _ (fun _ _ => ?_) _ _
      | with_reducible apply Kept.step (k := Kept.foldl (m := [.fresh, .pool, .peat, .slots]) _ (fun _ _ => ?_) _ _)
      | split
      | with_reducible apply Kept.step (k := Kept.slots ..)

theorem State.dropFar_kept (s) (tile) (probing) (moving) : Kept [.fresh, .pool, .peat, .slots, .probes, .rx] s (State.dropFar s tile probing moving) := by
  unfold State.dropFar
  repeat' first
    | exact Eq.refl true
    | with_reducible assumption
    | with_reducible apply Kept.ite
    | with_reducible apply Kept.refl
    | (extract_lets +onlyGivenNames x; refine Kept.fn x ?_; unfold x; clear x)
    | (extract_lets +onlyGivenNames x; clear_value x)
    | with_reducible apply Kept.step (k := State.revertClaims_kept ..)
    | with_reducible refine Kept.foldl _ (fun _ _ => ?_) _ _
    | with_reducible apply Kept.step (k := Kept.foldl (m := [.fresh, .pool, .peat, .slots, .probes, .rx]) _ (fun _ _ => ?_) _ _)
    | split
    | with_reducible apply Kept.step (k := Kept.probes_rx ..)

theorem State.discard_kept (s) (tile) (cru) (p) : Kept [.fresh, .pool, .peat, .tasks, .crus, .slots, .probes, .rx] s (State.discard s tile cru p) := by
  unfold State.discard
  repeat' first
    | exact Eq.refl true
    | with_reducible assumption
    | with_reducible apply Kept.ite
    | with_reducible apply Kept.refl
    | (extract_lets +onlyGivenNames x; clear_value x)
    | with_reducible apply Kept.step (k := State.dropFar_kept ..)
    | with_reducible apply Kept.step (k := State.revertClaims_kept ..)
    | with_reducible apply Kept.step (k := State.wakeTasks_kept ..)
    | with_reducible apply Kept.step (k := State.setCru_kept ..)

theorem State.recordFault_kept (s) (t) (f) : Kept [.regs, .tasks] s (State.recordFault s t f) := by
  unfold State.recordFault
  repeat' first
    | exact Eq.refl true
    | with_reducible assumption
    | with_reducible apply Kept.ite
    | with_reducible apply Kept.refl
    | (extract_lets +onlyGivenNames x; refine Kept.via x ?_ ?_; (on_goal 1 => (unfold x; clear x)); on_goal 2 => (intro hx; clear_value x))
    | (extract_lets +onlyGivenNames x; clear_value x)
    | with_reducible apply Kept.step (k := State.setTask_kept ..)
    | with_reducible apply Kept.step (k := State.setFields_kept ..)
    | with_reducible apply Kept.step (k := State.setRf_kept ..)
    | with_reducible apply Kept.step (k := State.setReg_kept ..)
    | with_reducible refine Kept.foldl _ (fun _ _ => ?_) _ _
    | with_reducible apply Kept.step (k := Kept.foldl (m := [.regs, .tasks]) _ (fun _ _ => ?_) _ _)
    | split

theorem State.taskFault_kept (s) (t) (f) : Kept [.fresh, .regs, .pool, .peat, .tasks, .crus, .slots, .probes, .rx, .fns, .reports, .out] s (State.taskFault s t f) := by
  unfold State.taskFault
  extract_lets pg s1 x s2 s3 s4
  have h : Kept [.fresh, .regs, .pool, .peat, .tasks, .crus, .slots, .probes, .rx, .fns, .reports, .out] s s4 :=
    ((((Kept.refl _ s).step (State.recordFault_kept ..) rfl).step (State.setTask_kept ..) rfl).step (State.discard_kept ..) rfl).step
      (State.raise_kept ..) rfl |>.step (State.bump_kept ..) rfl
  clear_value s4
  split
  · exact h.step (State.report_kept ..) rfl
  · exact h.step (State.report_kept ..) rfl

theorem State.issueFault_kept (s) (t) (code) (addr) : Kept [.fresh, .regs, .pool, .peat, .tasks, .crus, .slots, .probes, .rx, .fns, .reports, .out] s (State.issueFault s t code addr) := by
  unfold State.issueFault
  repeat' first
    | exact Eq.refl true
    | with_reducible assumption
    | with_reducible apply Kept.ite
    | with_reducible apply Kept.refl
    | (extract_lets +onlyGivenNames x; clear_value x)
    | with_reducible apply Kept.step (k := State.taskFault_kept ..)

theorem State.waitFor_kept (s) (t) (w) (ask) : Kept [.tasks] s (State.waitFor s t w ask) := by
  unfold State.waitFor
  repeat' first
    | exact Eq.refl true
    | with_reducible assumption
    | with_reducible apply Kept.ite
    | with_reducible apply Kept.refl
    | (extract_lets +onlyGivenNames x; clear_value x)
    | with_reducible apply Kept.step (k := State.setTask_kept ..)

theorem State.countIssue_kept (s) (t) : Kept [.regs, .tasks, .crus] s (State.countIssue s t) := by
  unfold State.countIssue
  repeat' first
    | exact Eq.refl true
    | with_reducible assumption
    | with_reducible apply Kept.ite
    | with_reducible apply Kept.refl
    | (extract_lets +onlyGivenNames x; clear_value x)
    | with_reducible apply Kept.step (k := State.setCru_kept ..)
    | with_reducible apply Kept.step (k := State.setTask_kept ..)
    | with_reducible apply Kept.step (k := State.bump_kept ..)

theorem State.goTo_kept (s) (t) (pc) : Kept [.regs, .tasks, .crus] s (State.goTo s t pc) := by
  unfold State.goTo
  repeat' first
    | exact Eq.refl true
    | with_reducible assumption
    | with_reducible apply Kept.ite
    | with_reducible apply Kept.refl
    | (extract_lets +onlyGivenNames x; clear_value x)
    | with_reducible apply Kept.step (k := State.countIssue_kept ..)
    | with_reducible apply Kept.step (k := State.setTask_kept ..)

theorem State.retire_kept (s) (t) (n) : Kept [.regs, .tasks, .crus] s (State.retire s t n) := by
  unfold State.retire
  repeat' first
    | exact Eq.refl true
    | with_reducible assumption
    | with_reducible apply Kept.ite
    | with_reducible apply Kept.refl
    | with_reducible apply Kept.step (k := State.goTo_kept ..)

theorem State.orFlags_kept (s) (t) (f) : Kept [.regs] s (State.orFlags s t f) := by
  unfold State.orFlags
  repeat' first
    | exact Eq.refl true
    | with_reducible assumption
    | with_reducible apply Kept.ite
    | with_reducible apply Kept.refl
    | (extract_lets +onlyGivenNames x; clear_value x)
    | with_reducible apply Kept.step (k := State.setReg_kept ..)

theorem State.issueStop_keptO (s) (t) (q) : OptKept [.fresh, .regs, .pool, .peat, .tasks, .crus, .slots, .probes, .rx, .fns, .reports, .out] s (State.issueStop s t q) := by
  unfold State.issueStop
  repeat' first
    | exact Eq.refl true
    | with_reducible assumption
    | with_reducible apply Kept.ite
    | with_reducible apply Kept.refl
    | (extract_lets +onlyGivenNames x; clear_value x)
    | with_reducible apply OptKept.ite
    | with_reducible apply OptKept.some
    | with_reducible apply OptKept.none
    | with_reducible apply Kept.step (k := State.retire_kept ..)
    | with_reducible apply Kept.step (k := State.waitFor_kept ..)
    | with_reducible apply Kept.step (k := State.issueFault_kept ..)
    | with_reducible apply Kept.step (k := State.bump_kept ..)
    | with_reducible refine Kept.foldl _ (fun _ _ => ?_) _ _
    | with_reducible apply Kept.step (k := Kept.foldl (m := [.fresh, .regs, .pool, .peat, .tasks, .crus, .slots, .probes, .rx, .fns, .reports, .out]) _ (fun _ _ => ?_) _ _)
    | split
theorem State.issueStop_kept {s t q uu} (hh : State.issueStop s t q = some uu) : Kept [.fresh, .regs, .pool, .peat, .tasks, .crus, .slots, .probes, .rx, .fns, .reports, .out] s uu := State.issueStop_keptO s t q uu hh

theorem State.issue_kept {m s t q body} (hm : Field.within [.fresh, .regs, .pool, .peat, .tasks, .crus, .slots, .probes, .rx, .fns, .reports, .out] m = true)
    (hf : ∀ t, Kept m t (body t)) : Kept m s (State.issue s t q body) := by
  unfold State.issue
  split
  · exact (State.issueStop_kept (by assumption)).mono hm
  · exact hf _

theorem State.werr_kept (s) (tile) (cru) : Kept [.regs, .fns, .out] s (State.werr s tile cru) := by
  unfold State.werr
  repeat' first
    | exact Eq.refl true
    | with_reducible assumption
    | with_reducible apply Kept.ite
    | with_reducible apply Kept.refl
    | with_reducible apply Kept.step (k := State.raise_kept ..)
    | with_reducible apply Kept.step (k := State.setRb_kept ..)

theorem State.startTask_kept (s) (tile) (cru) (task) : Kept [.regs, .tasks, .fns, .out] s (State.startTask s tile cru task) := by
  unfold State.startTask
  repeat' first
    | exact Eq.refl true
    | with_reducible assumption
    | with_reducible apply Kept.ite
    | with_reducible apply Kept.refl
    | with_reducible apply Kept.step (k := State.werr_kept ..)
    | with_reducible apply Kept.step (k := State.setTask_kept ..)

theorem State.stopTask_kept (s) (tile) (cru) (task) : Kept [.regs, .tasks, .fns, .out] s (State.stopTask s tile cru task) := by
  unfold State.stopTask
  repeat' first
    | exact Eq.refl true
    | with_reducible assumption
    | with_reducible apply Kept.ite
    | with_reducible apply Kept.refl
    | with_reducible apply Kept.step (k := State.werr_kept ..)
    | with_reducible apply Kept.step (k := State.setTask_kept ..)

theorem State.resetTask_kept (s) (tile) (cru) (task) : Kept [.regs, .tasks, .fns, .out] s (State.resetTask s tile cru task) := by
  unfold State.resetTask
  repeat' first
    | exact Eq.refl true
    | with_reducible assumption
    | with_reducible apply Kept.ite
    | with_reducible apply Kept.refl
    | (extract_lets +onlyGivenNames x; clear_value x)
    | with_reducible apply Kept.step (k := State.werr_kept ..)
    | with_reducible apply Kept.step (k := State.setTask_kept ..)
    | with_reducible apply Kept.step (k := State.setReg_kept ..)

theorem taskCtlHook_kept (w) (tile) (cru) (task) : Kept [.regs, .wins, .tasks, .fns, .out] w.st (taskCtlHook w tile cru task) := by
  unfold taskCtlHook
  repeat' first
    | exact Eq.refl true
    | with_reducible assumption
    | with_reducible apply Kept.ite
    | with_reducible apply Kept.refl
    | (extract_lets +onlyGivenNames x; refine Kept.via x ?_ ?_; (on_goal 1 => (unfold x; clear x)); on_goal 2 => (intro hx; clear_value x))
    | with_reducible apply Kept.step (k := State.resetTask_kept ..)
    | with_reducible apply Kept.step (k := State.stopTask_kept ..)
    | with_reducible apply Kept.step (k := State.startTask_kept ..)
    | with_reducible apply Kept.step (k := State.werr_kept ..)
    | with_reducible apply Kept.step (k := State.zeroBits_kept ..)
    | with_reducible refine Kept.foldl _ (fun _ _ => ?_) _ _
    | with_reducible apply Kept.step (k := Kept.foldl (m := [.regs, .wins, .tasks, .fns, .out]) _ (fun _ _ => ?_) _ _)
    | split

theorem State.taskCtlWrite_kept (s) (who) (t) (v) (i) : Kept [.regs, .wins, .guards, .shadows, .sealRun, .tasks, .fns, .out] s (State.taskCtlWrite s who t v i) := by
  unfold State.taskCtlWrite
  repeat' first
    | exact Eq.refl true
    | with_reducible assumption
    | with_reducible apply Kept.ite
    | with_reducible apply Kept.refl
    | with_reducible apply Kept.step (k := taskCtlHook_kept ..)
    | with_reducible apply Kept.step (k := State.writeCore_kept ..)

theorem execTaskStart_kept (who) (t) (v) (s) : OutKept [.regs, .wins, .guards, .shadows, .sealRun, .tasks, .fns, .out] s (execTaskStart who t v s) := by
  unfold execTaskStart
  repeat' first
    | exact Eq.refl true
    | with_reducible assumption
    | with_reducible apply Kept.ite
    | with_reducible apply Kept.refl
    | with_reducible apply OutKept.ite
    | with_reducible apply OutKept.next
    | with_reducible apply OutKept.fault
    | with_reducible apply Kept.step (k := State.taskCtlWrite_kept ..)

theorem execTaskStop_kept (who) (t) (v) (s) : OutKept [.regs, .wins, .guards, .shadows, .sealRun, .tasks, .fns, .out] s (execTaskStop who t v s) := by
  unfold execTaskStop
  repeat' first
    | exact Eq.refl true
    | with_reducible assumption
    | with_reducible apply Kept.ite
    | with_reducible apply Kept.refl
    | with_reducible apply OutKept.ite
    | with_reducible apply OutKept.next
    | with_reducible apply OutKept.fault
    | with_reducible apply Kept.step (k := State.taskCtlWrite_kept ..)

theorem execTaskReset_kept (who) (t) (v) (s) : OutKept [.regs, .wins, .guards, .shadows, .sealRun, .tasks, .fns, .out] s (execTaskReset who t v s) := by
  unfold execTaskReset
  repeat' first
    | exact Eq.refl true
    | with_reducible assumption
    | with_reducible apply Kept.ite
    | with_reducible apply Kept.refl
    | with_reducible apply OutKept.ite
    | with_reducible apply OutKept.next
    | with_reducible apply OutKept.fault
    | with_reducible apply Kept.step (k := State.taskCtlWrite_kept ..)

theorem State.drainEnd_kept (s) (t) : Kept [.regs, .peat, .peatBad, .tasks, .crus] s (State.drainEnd s t) := by
  unfold State.drainEnd
  repeat' first
    | exact Eq.refl true
    | with_reducible assumption
    | with_reducible apply Kept.ite
    | with_reducible apply Kept.refl
    | with_reducible apply Kept.step (k := State.gbFlushAll_kept ..)
    | with_reducible apply Kept.step (k := State.setTask_kept ..)
    | with_reducible refine Kept.foldl _ (fun _ _ => ?_) _ _
    | with_reducible apply Kept.step (k := Kept.foldl (m := [.regs, .peat, .peatBad, .tasks, .crus]) _ (fun _ _ => ?_) _ _)
    | split

theorem execDrainEnd_kept (t) (s) : OutKept [.regs, .peat, .peatBad, .tasks, .crus] s (execDrainEnd t s) := by
  unfold execDrainEnd
  repeat' first
    | exact Eq.refl true
    | with_reducible assumption
    | with_reducible apply Kept.ite
    | with_reducible apply Kept.refl
    | with_reducible apply OutKept.ite
    | with_reducible apply OutKept.next
    | with_reducible apply OutKept.fault
    | with_reducible apply Kept.step (k := State.drainEnd_kept ..)

theorem execAgePromotion_kept (t) (s) : OutKept [.tasks] s (execAgePromotion t s) := by
  unfold execAgePromotion
  repeat' first
    | exact Eq.refl true
    | with_reducible assumption
    | with_reducible apply Kept.ite
    | with_reducible apply Kept.refl
    | (extract_lets +onlyGivenNames x; clear_value x)
    | with_reducible apply OutKept.ite
    | with_reducible apply OutKept.next
    | with_reducible apply OutKept.fault
    | with_reducible apply Kept.step (k := State.setTask_kept ..)

/-! ### Mesh -/

theorem State.setTstate_kept (s) (i) (v) : Kept [.regs] s (State.setTstate s i v) := by
  unfold State.setTstate
  repeat' first
    | exact Eq.refl true
    | with_reducible assumption
    | with_reducible apply Kept.ite
    | with_reducible apply Kept.refl
    | with_reducible apply Kept.step (k := State.setRf_kept ..)

theorem State.slotMiss_kept (s) (tile) : Kept [.regs, .fns, .out] s (State.slotMiss s tile) := by
  unfold State.slotMiss
  repeat' first
    | exact Eq.refl true
    | with_reducible assumption
    | with_reducible apply Kept.ite
    | with_reducible apply Kept.refl
    | with_reducible apply Kept.step (k := State.raise_kept ..)
    | with_reducible apply Kept.step (k := State.bump_kept ..)

theorem State.noRoute_kept (s) (tile) : Kept [.regs, .fns, .reports, .out] s (State.noRoute s tile) := by
  unfold State.noRoute
  repeat' first
    | exact Eq.refl true
    | with_reducible assumption
    | with_reducible apply Kept.ite
    | with_reducible apply Kept.refl
    | with_reducible apply Kept.step (k := State.report_kept ..)
    | with_reducible apply Kept.step (k := State.raise_kept ..)

theorem State.dropPkt_kept (s) (tile) (cause) (p) : Kept [.regs, .reports, .fns, .out] s (State.dropPkt s tile cause p) := by
  unfold State.dropPkt
  extract_lets pg s1 s2 s3
  have h : Kept [.regs, .reports, .fns, .out] s s3 :=
    (((Kept.refl _ s).step (State.bump_kept ..) rfl).step (State.setReg_kept ..) rfl).step (State.raise_kept ..) rfl
  split
  · exact h.step (State.report_kept ..) rfl
  · exact h

theorem State.setLane_kept (s) (tile) (port) (lane) (x) : Kept [.laneTx] s (State.setLane s tile port lane x) := by
  unfold State.setLane
  repeat' first
    | exact Eq.refl true
    | with_reducible assumption
    | with_reducible apply Kept.ite
    | with_reducible apply Kept.refl
    | split
    | with_reducible apply Kept.step (k := Kept.laneTx ..)

theorem State.setMeshPort_kept (s) (tile) (port) (x) : Kept [.ports] s (State.setMeshPort s tile port x) := by
  unfold State.setMeshPort
  repeat' first
    | exact Eq.refl true
    | with_reducible assumption
    | with_reducible apply Kept.ite
    | with_reducible apply Kept.refl
    | split
    | with_reducible apply Kept.step (k := Kept.ports ..)

theorem State.chooseLane_keptP (s) (tile) (port) (p) : Kept [.ports] s (State.chooseLane s tile port p).2 := by
  unfold State.chooseLane
  repeat' first
    | exact Eq.refl true
    | with_reducible assumption
    | with_reducible apply Kept.ite
    | with_reducible apply Kept.refl
    | (extract_lets +onlyGivenNames x; clear_value x)
    | with_reducible apply Kept.step (k := State.setMeshPort_kept ..)
    | split
theorem State.chooseLane_kept {s tile port p zz tt} (h : State.chooseLane s tile port p = (zz, tt)) : Kept [.ports] s tt := by
  have := State.chooseLane_keptP s tile port p
  rw [h] at this
  exact this

theorem State.enterRouter_kept (s) (tile) (inPort) (lane) (p) : Kept [.regs, .net, .ports, .fns, .reports, .out] s (State.enterRouter s tile inPort lane p) := by
  unfold State.enterRouter
  repeat' first
    | exact Eq.refl true
    | with_reducible assumption
    | with_reducible apply Kept.ite
    | with_reducible apply Kept.refl
    | with_reducible refine Kept.step ?_ (State.chooseLane_kept (by assumption)) ?_
    | with_reducible apply Kept.step (k := State.chooseLane_keptP ..)
    | with_reducible apply Kept.step (k := State.dropPkt_kept ..)
    | split
    | with_reducible apply Kept.step (k := Kept.net ..)

theorem State.inject_keptO (s) (tile) (pol) (m) : OptKept [.regs, .net, .ports, .fns, .reports, .out] s (State.inject s tile pol m) := by
  unfold State.inject
  extract_lets gw hop scope set p s1
  have h : Kept [.regs, .net, .ports, .fns, .reports, .out] s s1 := by
    unfold s1
    split
    · exact Kept.refl _ _
    · exact (State.bump_kept ..).mono rfl
  split
  · exact OptKept.some ((h.step (State.chooseLane_keptP ..) rfl).step (State.enterRouter_kept ..) rfl)
  · exact OptKept.none

theorem State.inject_kept {s tile pol m u} (h : State.inject s tile pol m = some u) : Kept [.regs, .net, .ports, .fns, .reports, .out] s u :=
  State.inject_keptO s tile pol m u h

theorem State.injectOr_kept (s) (tile) (pol) (m) : Kept [.regs, .net, .ports, .fns, .reports, .out] s (State.injectOr s tile pol m) := by
  unfold State.injectOr
  repeat' first
    | exact Eq.refl true
    | with_reducible assumption
    | with_reducible apply Kept.ite
    | with_reducible apply Kept.refl
    | with_reducible refine Kept.step ?_ (State.inject_kept (by assumption)) ?_
    | with_reducible apply Kept.step (k := State.noRoute_kept ..)
    | split

theorem State.injectAll_kept (s) (tile) (pol) (a0) : Kept [.regs, .net, .ports, .fns, .reports, .out] s (State.injectAll s tile pol a0) := by
  induction a0 generalizing s tile pol with
  | nil => exact Kept.refl _ _
  | cons b r ih =>
    unfold State.injectAll
    repeat' first
      | exact Eq.refl true
      | with_reducible assumption
      | with_reducible apply Kept.ite
      | with_reducible apply Kept.refl
      | with_reducible apply Kept.step (k := ih ..)
      | with_reducible apply Kept.step (k := State.injectOr_kept ..)

theorem State.dieInject_kept (s) (gw) (p) : Kept [.regs, .net, .ports, .fns, .reports, .out] s (State.dieInject s gw p) := by
  unfold State.dieInject
  repeat' first
    | exact Eq.refl true
    | with_reducible assumption
    | with_reducible apply Kept.ite
    | with_reducible apply Kept.refl
    | with_reducible apply Kept.step (k := State.enterRouter_kept ..)
    | with_reducible refine Kept.step ?_ (State.chooseLane_kept (by assumption)) ?_
    | with_reducible apply Kept.step (k := State.chooseLane_keptP ..)

theorem State.dieReply_kept (s) (die) (q) (op) (operand) (addr) (payload) : Kept [.regs, .net, .ports, .fns, .reports, .out] s (State.dieReply s die q op operand addr payload) := by
  unfold State.dieReply
  repeat' first
    | exact Eq.refl true
    | with_reducible assumption
    | with_reducible apply Kept.ite
    | with_reducible apply Kept.refl
    | with_reducible apply Kept.step (k := State.dieInject_kept ..)

theorem State.dieSend_kept (s) (die) (pol) (m) : Kept [.regs, .net, .ports, .fns, .reports, .out] s (State.dieSend s die pol m) := by
  unfold State.dieSend
  repeat' first
    | exact Eq.refl true
    | with_reducible assumption
    | with_reducible apply Kept.ite
    | with_reducible apply Kept.refl
    | with_reducible apply Kept.step (k := State.dieInject_kept ..)

theorem State.takePkt_kept (s) (p) : Kept [.arrivals] s (State.takePkt s p) := by
  unfold State.takePkt
  repeat' first
    | exact Eq.refl true
    | with_reducible assumption
    | with_reducible apply Kept.ite
    | with_reducible apply Kept.refl
    | split
    | with_reducible apply Kept.step (k := Kept.arrivals ..)

theorem State.eject_kept {m s op p f} (hm : Field.within [.regs, .arrivals, .fns, .reports, .out] m = true) (hf : ∀ i t, Kept m t (f i t)) :
    Kept m s (State.eject s op p f) := by
  have h0 : Kept m s (State.takePkt s p) := ((Kept.refl _ s).step (State.takePkt_kept ..) rfl).mono hm
  unfold State.eject
  dsimp only
  generalize State.takePkt s p = t at h0 ⊢
  split
  · exact Kept.refl _ _
  · split
    · exact h0.trans ((State.dropPkt_kept ..).mono (Field.within_trans _ _ _ rfl hm))
    · exact h0.trans (hf _ _)

theorem State.ejectDie_kept {m s op p f} (hm : Field.within [.regs, .arrivals] m = true) (hf : ∀ i t, Kept m t (f i t)) :
    Kept m s (State.ejectDie s op p f) := by
  have h0 : Kept m s (State.takePkt s p) := ((Kept.refl _ s).step (State.takePkt_kept ..) rfl).mono hm
  unfold State.ejectDie
  dsimp only
  generalize State.takePkt s p = t at h0 ⊢
  have hb : ∀ a b c, Kept m s (t.bump a b c) := fun a b c =>
    h0.trans ((State.bump_kept ..).mono (Field.within_trans _ _ _ rfl hm))
  split
  · exact Kept.refl _ _
  · split
    · exact h0
    · split
      · split
        · exact hb _ _ _
        · exact h0
      · exact h0.trans (hf _ _)

theorem State.setGate_kept (s) (tile) (g) (v) : Kept [.gates] s (State.setGate s tile g v) := by
  unfold State.setGate
  repeat' first
    | exact Eq.refl true
    | with_reducible assumption
    | with_reducible apply Kept.ite
    | with_reducible apply Kept.refl
    | split
    | with_reducible apply Kept.step (k := Kept.gates _ _ (Store.set_wf 0 _ _ _))

theorem State.addGate_kept (s) (tile) (g) (v) : Kept [.gates] s (State.addGate s tile g v) := by
  unfold State.addGate
  repeat' first
    | exact Eq.refl true
    | with_reducible assumption
    | with_reducible apply Kept.ite
    | with_reducible apply Kept.refl
    | with_reducible apply Kept.step (k := State.setGate_kept ..)

theorem State.unitGateAdd_kept (s) (tile) (cru) (g) (v) : Kept [.regs, .peat, .peatBad, .crus, .gates] s (State.unitGateAdd s tile cru g v) := by
  unfold State.unitGateAdd
  repeat' first
    | exact Eq.refl true
    | with_reducible assumption
    | with_reducible apply Kept.ite
    | with_reducible apply Kept.refl
    | with_reducible apply Kept.step (k := State.addGate_kept ..)
    | with_reducible apply Kept.step (k := State.gbFlushAll_kept ..)
    | with_reducible apply Kept.step (k := State.bump_kept ..)

theorem State.meshGateAdd_kept (s) (tile) (g) (v) : Kept [.regs, .gates] s (State.meshGateAdd s tile g v) := by
  unfold State.meshGateAdd
  repeat' first
    | exact Eq.refl true
    | with_reducible assumption
    | with_reducible apply Kept.ite
    | with_reducible apply Kept.refl
    | with_reducible apply Kept.step (k := State.addGate_kept ..)
    | with_reducible apply Kept.step (k := State.bump_kept ..)

theorem State.sendGateAdd_kept (s) (tile) (slot) (g) (v) : Kept [.regs, .net, .ports, .fns, .reports, .out] s (State.sendGateAdd s tile slot g v) := by
  unfold State.sendGateAdd
  repeat' first
    | exact Eq.refl true
    | with_reducible assumption
    | with_reducible apply Kept.ite
    | with_reducible apply Kept.refl
    | (extract_lets +onlyGivenNames x; clear_value x)
    | with_reducible apply Kept.step (k := State.injectOr_kept ..)
    | with_reducible apply Kept.step (k := State.slotMiss_kept ..)
    | split

theorem State.sendGateCopies_kept (s) (tile) (g) (v) (skip) (a0) : Kept [.regs, .net, .ports, .fns, .reports, .out] s (State.sendGateCopies s tile g v skip a0) := by
  induction a0 generalizing s tile g v skip with
  | nil => exact Kept.refl _ _
  | cons b r ih =>
    unfold State.sendGateCopies
    repeat' first
      | exact Eq.refl true
      | with_reducible assumption
      | with_reducible apply Kept.ite
      | with_reducible apply Kept.refl
      | (extract_lets +onlyGivenNames x; refine Kept.via x ?_ ?_; (on_goal 1 => (unfold x; clear x)); on_goal 2 => (intro hx; clear_value x))
      | with_reducible apply Kept.step (k := ih ..)
      | with_reducible apply Kept.step (k := State.sendGateAdd_kept ..)

theorem State.sendGateAll_kept (s) (tile) (g) (v) : Kept [.regs, .net, .ports, .fns, .reports, .out] s (State.sendGateAll s tile g v) := by
  unfold State.sendGateAll
  repeat' first
    | exact Eq.refl true
    | with_reducible assumption
    | with_reducible apply Kept.ite
    | with_reducible apply Kept.refl
    | with_reducible apply Kept.step (k := State.sendGateCopies_kept ..)
    | with_reducible apply Kept.step (k := State.slotMiss_kept ..)
    | split

/-! ### Streams -/

theorem State.setStream_kept (s) (n) (x) : Kept [.streams] s (State.setStream s n x) := by
  unfold State.setStream
  repeat' first
    | exact Eq.refl true
    | with_reducible assumption
    | with_reducible apply Kept.ite
    | with_reducible apply Kept.refl
    | split
    | with_reducible apply Kept.step (k := Kept.streams ..)

theorem State.setGenAt_kept (s) (tile) (n) (g) : Kept [.genTab] s (State.setGenAt s tile n g) := by
  unfold State.setGenAt
  repeat' first
    | exact Eq.refl true
    | with_reducible assumption
    | with_reducible apply Kept.ite
    | with_reducible apply Kept.refl
    | split
    | with_reducible apply Kept.step (k := Kept.genTab ..)

theorem State.sendGen_kept (s) (pol) (n) (g) (a0) : Kept [.regs, .net, .ports, .fns, .reports, .out] s (State.sendGen s pol n g a0) := by
  induction a0 generalizing s pol n g with
  | nil => exact Kept.refl _ _
  | cons b r ih =>
    unfold State.sendGen
    repeat' first
      | exact Eq.refl true
      | with_reducible assumption
      | with_reducible apply Kept.ite
      | with_reducible apply Kept.refl
      | with_reducible apply Kept.step (k := ih ..)
      | with_reducible apply Kept.step (k := State.dieSend_kept ..)

theorem State.stepGen_kept (s) (n) : Kept [.regs, .net, .ports, .streams, .fns, .reports, .out] s (State.stepGen s n) := by
  unfold State.stepGen
  repeat' first
    | exact Eq.refl true
    | with_reducible assumption
    | with_reducible apply Kept.ite
    | with_reducible apply Kept.refl
    | with_reducible apply Kept.step (k := State.sendGen_kept ..)
    | with_reducible apply Kept.step (k := State.setStream_kept ..)

theorem State.drainStream_kept (s) (n) (status) : Kept [.regs, .net, .ports, .streams, .fns, .reports, .out] s (State.drainStream s n status) := by
  unfold State.drainStream
  repeat' first
    | exact Eq.refl true
    | with_reducible assumption
    | with_reducible apply Kept.ite
    | with_reducible apply Kept.refl
    | (extract_lets +onlyGivenNames x; refine Kept.via x ?_ ?_; (on_goal 1 => (unfold x; clear x)); on_goal 2 => (intro hx; clear_value x))
    | (extract_lets +onlyGivenNames x; clear_value x)
    | with_reducible apply Kept.step (k := State.stepGen_kept ..)
    | with_reducible apply Kept.step (k := State.setStream_kept ..)

theorem State.cancelPartner_kept (s) (n) : Kept [.regs, .net, .ports, .streams, .fns, .reports, .out] s (State.cancelPartner s n) := by
  unfold State.cancelPartner
  repeat' first
    | exact Eq.refl true
    | with_reducible assumption
    | with_reducible apply Kept.ite
    | with_reducible apply Kept.refl
    | with_reducible apply Kept.step (k := State.drainStream_kept ..)

theorem State.endStream_kept (s) (n) (status) : Kept [.regs, .net, .ports, .streams, .fns, .reports, .out] s (State.endStream s n status) := by
  unfold State.endStream
  repeat' first
    | exact Eq.refl true
    | with_reducible assumption
    | with_reducible apply Kept.ite
    | with_reducible apply Kept.refl
    | with_reducible apply Kept.step (k := State.cancelPartner_kept ..)
    | with_reducible apply Kept.step (k := State.drainStream_kept ..)

theorem State.abandonStream_kept (s) (n) : Kept [.regs, .net, .ports, .streams, .fns, .reports, .out] s (State.abandonStream s n) := by
  unfold State.abandonStream
  repeat' first
    | exact Eq.refl true
    | with_reducible assumption
    | with_reducible apply Kept.ite
    | with_reducible apply Kept.refl
    | with_reducible apply Kept.step (k := State.cancelPartner_kept ..)
    | with_reducible apply Kept.step (k := State.drainStream_kept ..)
    | with_reducible apply Kept.step (k := State.raise_kept ..)
    | with_reducible apply Kept.step (k := State.bump_kept ..)

theorem State.cancelStream_keptP (s) (n) (g) : Kept [.regs, .net, .ports, .streams, .fns, .reports, .out] s (State.cancelStream s n g).2 := by
  unfold State.cancelStream
  repeat' first
    | exact Eq.refl true
    | with_reducible assumption
    | with_reducible apply Kept.ite
    | with_reducible apply Kept.refl
    | (extract_lets +onlyGivenNames x; clear_value x)
    | with_reducible apply Kept.step (k := State.cancelPartner_kept ..)
    | with_reducible apply Kept.step (k := State.drainStream_kept ..)
    | with_reducible apply Kept.step (k := State.raise_kept ..)
    | with_reducible apply Kept.step (k := State.bump_kept ..)
    | split
theorem State.cancelStream_kept {s n g zz tt} (h : State.cancelStream s n g = (zz, tt)) : Kept [.regs, .net, .ports, .streams, .fns, .reports, .out] s tt := by
  have := State.cancelStream_keptP s n g
  rw [h] at this
  exact this

theorem strmCancelHook_kept (w) : Kept [.regs, .net, .ports, .streams, .fns, .reports, .out] w.st (strmCancelHook w) := by
  unfold strmCancelHook
  repeat' first
    | exact Eq.refl true
    | with_reducible assumption
    | with_reducible apply Kept.ite
    | with_reducible apply Kept.refl
    | with_reducible refine Kept.step ?_ (State.cancelStream_kept (by assumption)) ?_
    | with_reducible apply Kept.step (k := State.cancelStream_keptP ..)
    | with_reducible apply Kept.step (k := State.setReg_kept ..)

theorem execStrmCancel_kept (who) (v) (s) : OutKept [.regs, .wins, .guards, .shadows, .sealRun, .net, .ports, .streams, .fns, .reports, .out] s (execStrmCancel who v s) := by
  unfold execStrmCancel
  repeat' first
    | exact Eq.refl true
    | with_reducible assumption
    | with_reducible apply Kept.ite
    | with_reducible apply Kept.refl
    | with_reducible apply OutKept.ite
    | with_reducible apply OutKept.next
    | with_reducible apply OutKept.fault
    | with_reducible apply Kept.step (k := strmCancelHook_kept ..)
    | with_reducible apply Kept.step (k := State.writeCore_kept ..)

theorem State.leaveLoop_kept (s) (n) (chunk) : Kept [.streams] s (State.leaveLoop s n chunk) := by
  unfold State.leaveLoop
  repeat' first
    | exact Eq.refl true
    | with_reducible assumption
    | with_reducible apply Kept.ite
    | with_reducible apply Kept.refl
    | (extract_lets +onlyGivenNames x; clear_value x)
    | with_reducible apply Kept.step (k := State.setStream_kept ..)

end Sys2Proof.Machine
end

