-- ==== Sys2Proof/Laws/KeptPower.lean ====
section
/-! SUPPORT. What the commands and operations of power, clocks, the monitor, storage errors, cooling and bring-up may change. -/
namespace Sys2Proof.Machine
set_option linter.unusedVariables false

/-! ### Supply -/

theorem State.setDom_kept (s) (u) (n) (v) : Kept [.regs] s (State.setDom s u n v) := by
  unfold State.setDom
  repeat' first
    | exact Eq.refl true
    | with_reducible assumption
    | with_reducible apply Kept.ite
    | with_reducible apply Kept.refl
    | with_reducible apply Kept.step (k := State.setRf_kept ..)

theorem State.dropRamp_kept (s) (u) (n) : Kept [.ramps] s (State.dropRamp s u n) := by
  unfold State.dropRamp
  repeat' first
    | exact Eq.refl true
    | with_reducible assumption
    | with_reducible apply Kept.ite
    | with_reducible apply Kept.refl
    | with_reducible refine Kept.foldl _ (fun _ _ => ?_) _ _
    | with_reducible apply Kept.step (k := Kept.foldl (m := [.ramps]) _ (fun _ _ => ?_) _ _)
    | split
    | with_reducible apply Kept.step (k := Kept.ramps ..)

theorem State.putRamp_kept (s) (r) : Kept [.ramps] s (State.putRamp s r) := by
  unfold State.putRamp
  repeat' first
    | exact Eq.refl true
    | with_reducible assumption
    | with_reducible apply Kept.ite
    | with_reducible apply Kept.refl
    | (extract_lets +onlyGivenNames x; refine Kept.via x ?_ ?_; (on_goal 1 => (unfold x; clear x)); on_goal 2 => (intro hx; clear_value x))
    | with_reducible apply Kept.step (k := State.dropRamp_kept ..)
    | with_reducible refine Kept.foldl _ (fun _ _ => ?_) _ _
    | with_reducible apply Kept.step (k := Kept.foldl (m := [.ramps]) _ (fun _ _ => ?_) _ _)
    | split
    | with_reducible apply Kept.step (k := Kept.ramps ..)

theorem State.loseCrucible_kept (s) (i) (k) : Kept [.fresh, .pool, .peat, .poolBad, .tasks, .crus, .slots, .probes, .rx, .khz, .deferred] s (State.loseCrucible s i k) := by
  unfold State.loseCrucible
  repeat' first
    | exact Eq.refl true
    | with_reducible assumption
    | with_reducible apply Kept.ite
    | with_reducible apply Kept.refl
    | (extract_lets +onlyGivenNames x; refine Kept.via x ?_ ?_; (on_goal 1 => (unfold x; clear x)); on_goal 2 => (intro hx; clear_value x))
    | with_reducible apply Kept.step (k := State.discard_kept ..)
    | with_reducible refine Kept.foldl _ (fun _ _ => ?_) _ _
    | with_reducible apply Kept.step (k := Kept.foldl (m := [.fresh, .pool, .peat, .poolBad, .tasks, .crus, .slots, .probes, .rx, .khz, .deferred]) _ (fun _ _ => ?_) _ _)
    | split
    | with_reducible apply Kept.step (k := Kept.pool_poolBad_tasks_crus_khz_deferred _ _ _ _ _ _ _ (Store.set_wf 0 _ _ _))
    | with_reducible apply Kept.step (k := Kept.pool_poolBad_tasks_crus_khz_deferred _ _ _ _ _ _ _ (putBytes_wf _ _ _))
    | with_reducible apply Kept.step (k := Kept.pool_poolBad_tasks_crus_khz_deferred _ _ _ _ _ _ _ (Store.keep_wf 0 _ _))
    | with_reducible apply Kept.step (k := Kept.pool_poolBad_tasks_crus_khz_deferred _ _ _ _ _ _ _ (fun _ => rfl))
    | with_reducible apply Kept.step (k := Kept.pool_poolBad_tasks_crus_khz_deferred _ _ _ _ _ _ _ (outside_wf 0 _ _ _))

theorem State.loseLayer_kept (s) (i) (l) : Kept [.peat, .peatBad] s (State.loseLayer s i l) := by
  unfold State.loseLayer
  repeat' first
    | exact Eq.refl true
    | with_reducible assumption
    | with_reducible apply Kept.ite
    | with_reducible apply Kept.refl
    | with_reducible refine Kept.foldl _ (fun _ _ => ?_) _ _
    | with_reducible apply Kept.step (k := Kept.foldl (m := [.peat, .peatBad]) _ (fun _ _ => ?_) _ _)
    | split
    | with_reducible apply Kept.step (k := Kept.peat_peatBad _ _ _ (Store.set_wf 0 _ _ _))
    | with_reducible apply Kept.step (k := Kept.peat_peatBad _ _ _ (putBytes_wf _ _ _))
    | with_reducible apply Kept.step (k := Kept.peat_peatBad _ _ _ (Store.keep_wf 0 _ _))
    | with_reducible apply Kept.step (k := Kept.peat_peatBad _ _ _ (fun _ => rfl))
    | with_reducible apply Kept.step (k := Kept.peat_peatBad _ _ _ (outside_wf 0 _ _ _))

theorem State.loseDom_kept (s) (u) (n) : Kept [.fresh, .regs, .pool, .peat, .poolBad, .peatBad, .tasks, .crus, .slots, .probes, .rx, .khz, .deferred] s (State.loseDom s u n) := by
  unfold State.loseDom
  repeat' first
    | exact Eq.refl true
    | with_reducible assumption
    | with_reducible apply Kept.ite
    | with_reducible apply Kept.refl
    | with_reducible apply Kept.step (k := State.loseLayer_kept ..)
    | with_reducible apply Kept.step (k := State.loseCrucible_kept ..)
    | with_reducible apply Kept.step (k := State.setRb_kept ..)
    | with_reducible apply Kept.step (k := State.setRf_kept ..)

theorem State.applyDom_kept (s) (u) (n) (code) (cls) : Kept [.fresh, .regs, .pool, .peat, .poolBad, .peatBad, .tasks, .crus, .slots, .probes, .rx, .ramps, .khz, .deferred] s (State.applyDom s u n code cls) := by
  unfold State.applyDom
  repeat' first
    | exact Eq.refl true
    | with_reducible assumption
    | with_reducible apply Kept.ite
    | with_reducible apply Kept.refl
    | with_reducible apply Kept.step (k := State.loseDom_kept ..)
    | with_reducible apply Kept.step (k := State.putRamp_kept ..)
    | with_reducible apply Kept.step (k := State.setDom_kept ..)

theorem State.domRequest_keptP (s) (u) (n) (code) (cls) : Kept [.fresh, .regs, .pool, .peat, .poolBad, .peatBad, .tasks, .crus, .slots, .probes, .rx, .ramps, .khz, .deferred] s (State.domRequest s u n code cls).2 := by
  unfold State.domRequest
  repeat' first
    | exact Eq.refl true
    | with_reducible assumption
    | with_reducible apply Kept.ite
    | with_reducible apply Kept.refl
    | with_reducible apply Kept.step (k := State.applyDom_kept ..)
    | with_reducible apply Kept.step (k := State.putRamp_kept ..)
    | with_reducible apply Kept.step (k := State.dropRamp_kept ..)
    | with_reducible refine Kept.foldl _ (fun _ _ => ?_) _ _
    | with_reducible apply Kept.step (k := Kept.foldl (m := [.fresh, .regs, .pool, .peat, .poolBad, .peatBad, .tasks, .crus, .slots, .probes, .rx, .ramps, .khz, .deferred]) _ (fun _ _ => ?_) _ _)
    | split
theorem State.domRequest_kept {s u n code cls zz tt} (h : State.domRequest s u n code cls = (zz, tt)) : Kept [.fresh, .regs, .pool, .peat, .poolBad, .peatBad, .tasks, .crus, .slots, .probes, .rx, .ramps, .khz, .deferred] s tt := by
  have := State.domRequest_keptP s u n code cls
  rw [h] at this
  exact this

theorem State.domForce_kept (s) (u) (n) (code) (cls) : Kept [.fresh, .regs, .pool, .peat, .poolBad, .peatBad, .tasks, .crus, .slots, .probes, .rx, .ramps, .khz, .deferred] s (State.domForce s u n code cls) := by
  unfold State.domForce
  repeat' first
    | exact Eq.refl true
    | with_reducible assumption
    | with_reducible apply Kept.ite
    | with_reducible apply Kept.refl
    | (extract_lets +onlyGivenNames x; refine Kept.via x ?_ ?_; (on_goal 1 => (unfold x; clear x)); on_goal 2 => (intro hx; clear_value x))
    | with_reducible apply Kept.step (k := State.applyDom_kept ..)
    | with_reducible apply Kept.step (k := State.loseDom_kept ..)
    | with_reducible apply Kept.step (k := State.putRamp_kept ..)
    | with_reducible apply Kept.step (k := State.dropRamp_kept ..)
    | with_reducible apply Kept.step (k := State.setDom_kept ..)
    | with_reducible refine Kept.foldl _ (fun _ _ => ?_) _ _
    | with_reducible apply Kept.step (k := Kept.foldl (m := [.fresh, .regs, .pool, .peat, .poolBad, .peatBad, .tasks, .crus, .slots, .probes, .rx, .ramps, .khz, .deferred]) _ (fun _ _ => ?_) _ _)
    | split

theorem State.domForceAll_kept (s) (u) (code) (cls) (a0) : Kept [.fresh, .regs, .pool, .peat, .poolBad, .peatBad, .tasks, .crus, .slots, .probes, .rx, .ramps, .khz, .deferred] s (State.domForceAll s u code cls a0) := by
  induction a0 generalizing s u code cls with
  | nil => exact Kept.refl _ _
  | cons b r ih =>
    unfold State.domForceAll
    repeat' first
      | exact Eq.refl true
      | with_reducible assumption
      | with_reducible apply Kept.ite
      | with_reducible apply Kept.refl
      | with_reducible apply Kept.step (k := ih ..)
      | with_reducible apply Kept.step (k := State.domForce_kept ..)

theorem State.spareDomains_kept (s) (i) : Kept [.fresh, .regs, .pool, .peat, .poolBad, .peatBad, .tasks, .crus, .slots, .probes, .rx, .ramps, .khz, .deferred] s (State.spareDomains s i) := by
  unfold State.spareDomains
  repeat' first
    | exact Eq.refl true
    | with_reducible assumption
    | with_reducible apply Kept.ite
    | with_reducible apply Kept.refl
    | with_reducible apply Kept.step (k := State.domForceAll_kept ..)

theorem State.offDomains_kept (s) (i) : Kept [.fresh, .regs, .pool, .peat, .poolBad, .peatBad, .tasks, .crus, .slots, .probes, .rx, .ramps, .khz, .deferred] s (State.offDomains s i) := by
  unfold State.offDomains
  repeat' first
    | exact Eq.refl true
    | with_reducible assumption
    | with_reducible apply Kept.ite
    | with_reducible apply Kept.refl
    | with_reducible apply Kept.step (k := State.domForceAll_kept ..)

theorem State.wakeTile_kept (s) (i) (cls) : Kept [.fresh, .regs, .pool, .peat, .poolBad, .peatBad, .tasks, .crus, .slots, .probes, .rx, .ramps, .khz, .deferred] s (State.wakeTile s i cls) := by
  unfold State.wakeTile
  repeat' first
    | exact Eq.refl true
    | with_reducible assumption
    | with_reducible apply Kept.ite
    | with_reducible apply Kept.refl
    | with_reducible apply Kept.step (k := State.domForceAll_kept ..)

theorem State.grant_kept (s) (r) : Kept [.regs, .ramps] s (State.grant s r) := by
  unfold State.grant
  repeat' first
    | exact Eq.refl true
    | with_reducible assumption
    | with_reducible apply Kept.ite
    | with_reducible apply Kept.refl
    | with_reducible apply Kept.step (k := State.putRamp_kept ..)
    | with_reducible apply Kept.step (k := State.setDom_kept ..)
    | with_reducible apply Kept.step (k := State.bump_kept ..)

theorem State.applyWaiting_kept (s) (u) (n) (next) : Kept [.fresh, .regs, .pool, .peat, .poolBad, .peatBad, .tasks, .crus, .slots, .probes, .rx, .fns, .ramps, .khz, .deferred, .out] s (State.applyWaiting s u n next) := by
  unfold State.applyWaiting
  repeat' first
    | exact Eq.refl true
    | with_reducible assumption
    | with_reducible apply Kept.ite
    | with_reducible apply Kept.refl
    | with_reducible refine Kept.step ?_ (State.domRequest_kept (by assumption)) ?_
    | with_reducible apply Kept.step (k := State.domRequest_keptP ..)
    | with_reducible apply Kept.step (k := State.raise_kept ..)
    | with_reducible refine Kept.foldl _ (fun _ _ => ?_) _ _
    | with_reducible apply Kept.step (k := Kept.foldl (m := [.fresh, .regs, .pool, .peat, .poolBad, .peatBad, .tasks, .crus, .slots, .probes, .rx, .fns, .ramps, .khz, .deferred, .out]) _ (fun _ _ => ?_) _ _)
    | split

theorem State.trainStack_kept (s) (j) : Kept [.regs] s (State.trainStack s j) := by
  unfold State.trainStack
  repeat' first
    | exact Eq.refl true
    | with_reducible assumption
    | with_reducible apply Kept.ite
    | with_reducible apply Kept.refl
    | with_reducible apply Kept.step (k := State.setRf_kept ..)

theorem State.trainAll_kept (s) : Kept [.regs] s (State.trainAll s) := by
  unfold State.trainAll
  repeat' first
    | exact Eq.refl true
    | with_reducible assumption
    | with_reducible apply Kept.ite
    | with_reducible apply Kept.refl
    | with_reducible apply Kept.step (k := State.trainStack_kept ..)
    | with_reducible refine Kept.foldl _ (fun _ _ => ?_) _ _

theorem State.rampOn_kept (s) (r) : Kept [.fresh, .regs, .pool, .peat, .poolBad, .peatBad, .tasks, .crus, .slots, .probes, .rx, .fns, .ramps, .khz, .deferred, .out] s (State.rampOn s r) := by
  unfold State.rampOn
  repeat' first
    | exact Eq.refl true
    | with_reducible assumption
    | with_reducible apply Kept.ite
    | with_reducible apply Kept.refl
    | (extract_lets +onlyGivenNames x; refine Kept.via x ?_ ?_; (on_goal 1 => (unfold x; clear x)); on_goal 2 => (intro hx; clear_value x))
    | (extract_lets +onlyGivenNames x; clear_value x)
    | with_reducible apply Kept.step (k := State.trainStack_kept ..)
    | with_reducible apply Kept.step (k := State.applyWaiting_kept ..)
    | with_reducible apply Kept.step (k := State.loseLayer_kept ..)
    | with_reducible apply Kept.step (k := State.loseCrucible_kept ..)
    | with_reducible apply Kept.step (k := State.putRamp_kept ..)
    | with_reducible apply Kept.step (k := State.dropRamp_kept ..)
    | with_reducible apply Kept.step (k := State.setDom_kept ..)
    | with_reducible apply Kept.step (k := State.setRb_kept ..)

theorem State.zeroed_kept (s) (u) (n) : Kept [.regs, .ramps] s (State.zeroed s u n) := by
  unfold State.zeroed
  repeat' first
    | exact Eq.refl true
    | with_reducible assumption
    | with_reducible apply Kept.ite
    | with_reducible apply Kept.refl
    | (extract_lets +onlyGivenNames x; refine Kept.via x ?_ ?_; (on_goal 1 => (unfold x; clear x)); on_goal 2 => (intro hx; clear_value x))
    | with_reducible apply Kept.step (k := State.dropRamp_kept ..)
    | with_reducible apply Kept.step (k := State.setDom_kept ..)
    | with_reducible apply Kept.step (k := State.setRb_kept ..)
    | with_reducible refine Kept.foldl _ (fun _ _ => ?_) _ _
    | with_reducible apply Kept.step (k := Kept.foldl (m := [.regs, .ramps]) _ (fun _ _ => ?_) _ _)
    | split

theorem State.rampFail_kept (s) (r) : Kept (.fresh :: .regs :: .pool :: .peat :: .poolBad :: .peatBad :: .tasks :: .crus :: .slots :: .probes :: .rx :: .fns :: .reports :: .ramps :: .khz :: .deferred :: .out :: []) s (State.rampFail s r) := by
  unfold State.rampFail
  repeat' first
    | exact Eq.refl true
    | with_reducible assumption
    | with_reducible apply Kept.ite
    | with_reducible apply Kept.refl
    | (extract_lets +onlyGivenNames x; refine Kept.via x ?_ ?_; (on_goal 1 => (unfold x; clear x)); on_goal 2 => (intro hx; clear_value x))
    | (extract_lets +onlyGivenNames x; clear_value x)
    | with_reducible apply Kept.step (k := State.applyWaiting_kept ..)
    | with_reducible apply Kept.step (k := State.loseDom_kept ..)
    | with_reducible apply Kept.step (k := State.dropRamp_kept ..)
    | with_reducible apply Kept.step (k := State.setDom_kept ..)
    | with_reducible apply Kept.step (k := State.report_kept ..)
    | with_reducible apply Kept.step (k := State.raise_kept ..)
    | with_reducible apply Kept.step (k := State.bump_kept ..)
    | with_reducible apply Kept.step (k := State.setReg_kept ..)

theorem State.dropMain_kept (s) : Kept (.regs :: .wins :: .guards :: .shadows :: .mbxs :: .tapSets :: .pool :: .peat :: .mire :: .poolBad :: .peatBad :: .mireBad :: .tasks :: .crus :: .gates :: .slots :: .probes :: .rx :: .slotMap :: .routes :: .rimEpoch :: .genTab :: .net :: .arrivals :: .ports :: .laneTx :: .dieFence :: .pgQueue :: .movers :: .pgPushed :: .banks :: .scrubs :: .streams :: .beds :: .places :: .wmoves :: .rplaces :: .handRx :: .nextTag :: .kvAreas :: .castRun :: .casting :: .pours :: .cmds :: .queues :: .egress :: .fns :: .reports :: .mon :: .monTap :: .spdm :: .ramps :: .minvSeen :: .tide :: .khz :: .deferred :: .stepAt :: .lostPort :: .vlog :: .sens :: .quench :: .boot :: .sites :: .planDue :: .planAt :: .aging :: .heats :: .retires :: .charges :: .fixes :: .beats :: []) s (State.dropMain s) := by
  unfold State.dropMain
  extract_lets td bt t0 t1 t2
  have h0 : Kept (.regs :: .wins :: .guards :: .shadows :: .mbxs :: .tapSets :: .pool :: .peat :: .mire :: .poolBad :: .peatBad :: .mireBad :: .tasks :: .crus :: .gates :: .slots :: .probes :: .rx :: .slotMap :: .routes :: .rimEpoch :: .genTab :: .net :: .arrivals :: .ports :: .laneTx :: .dieFence :: .pgQueue :: .movers :: .pgPushed :: .banks :: .scrubs :: .streams :: .beds :: .places :: .wmoves :: .rplaces :: .handRx :: .nextTag :: .kvAreas :: .castRun :: .casting :: .pours :: .cmds :: .queues :: .egress :: .fns :: .reports :: .mon :: .monTap :: .spdm :: .ramps :: .minvSeen :: .tide :: .khz :: .deferred :: .stepAt :: .lostPort :: .vlog :: .sens :: .quench :: .boot :: .sites :: .planDue :: .planAt :: .aging :: .heats :: .retires :: .charges :: .fixes :: .beats :: []) s t0 := by
    refine ⟨rfl, fun h => ?_⟩
    rw [State.canonical_iff] at h ⊢
    exact ⟨Store.keep_wf 0 _ _ h.1, rfl, rfl, rfl, rfl, h.2.2.2.2.2.1, rfl⟩
  clear_value t0
  have h1 : Kept (.regs :: .wins :: .guards :: .shadows :: .mbxs :: .tapSets :: .pool :: .peat :: .mire :: .poolBad :: .peatBad :: .mireBad :: .tasks :: .crus :: .gates :: .slots :: .probes :: .rx :: .slotMap :: .routes :: .rimEpoch :: .genTab :: .net :: .arrivals :: .ports :: .laneTx :: .dieFence :: .pgQueue :: .movers :: .pgPushed :: .banks :: .scrubs :: .streams :: .beds :: .places :: .wmoves :: .rplaces :: .handRx :: .nextTag :: .kvAreas :: .castRun :: .casting :: .pours :: .cmds :: .queues :: .egress :: .fns :: .reports :: .mon :: .monTap :: .spdm :: .ramps :: .minvSeen :: .tide :: .khz :: .deferred :: .stepAt :: .lostPort :: .vlog :: .sens :: .quench :: .boot :: .sites :: .planDue :: .planAt :: .aging :: .heats :: .retires :: .charges :: .fixes :: .beats :: []) s t1 := h0.trans (Kept.foldl _ (fun _ _ => (State.setReg_kept ..).mono rfl) _ _)
  clear_value t1
  have h2 : Kept (.regs :: .wins :: .guards :: .shadows :: .mbxs :: .tapSets :: .pool :: .peat :: .mire :: .poolBad :: .peatBad :: .mireBad :: .tasks :: .crus :: .gates :: .slots :: .probes :: .rx :: .slotMap :: .routes :: .rimEpoch :: .genTab :: .net :: .arrivals :: .ports :: .laneTx :: .dieFence :: .pgQueue :: .movers :: .pgPushed :: .banks :: .scrubs :: .streams :: .beds :: .places :: .wmoves :: .rplaces :: .handRx :: .nextTag :: .kvAreas :: .castRun :: .casting :: .pours :: .cmds :: .queues :: .egress :: .fns :: .reports :: .mon :: .monTap :: .spdm :: .ramps :: .minvSeen :: .tide :: .khz :: .deferred :: .stepAt :: .lostPort :: .vlog :: .sens :: .quench :: .boot :: .sites :: .planDue :: .planAt :: .aging :: .heats :: .retires :: .charges :: .fixes :: .beats :: []) s t2 := h1.step (State.setReg_kept ..) rfl
  clear_value t2
  split
  · exact h2.step (State.setRf_kept ..) rfl
  · exact h2

theorem State.selectRef_kept (s) : Kept [.regs, .fns, .out] s (State.selectRef s) := by
  unfold State.selectRef
  repeat' first
    | exact Eq.refl true
    | with_reducible assumption
    | with_reducible apply Kept.ite
    | with_reducible apply Kept.refl
    | with_reducible apply Kept.step (k := State.raise_kept ..)
    | with_reducible apply Kept.step (k := State.setRf_kept ..)

theorem State.trustAll_kept (s) : Kept [.regs, .sens] s (State.trustAll s) := by
  unfold State.trustAll
  repeat' first
    | exact Eq.refl true
    | with_reducible assumption
    | with_reducible apply Kept.ite
    | with_reducible apply Kept.refl
    | (extract_lets +onlyGivenNames x; refine Kept.via x ?_ ?_; (on_goal 1 => (unfold x; clear x)); on_goal 2 => (intro hx; clear_value x))
    | (extract_lets +onlyGivenNames x; clear_value x)
    | with_reducible apply Kept.step (k := State.setRb_kept ..)
    | with_reducible refine Kept.foldl _ (fun _ _ => ?_) _ _
    | with_reducible apply Kept.step (k := Kept.foldl (m := [.regs, .sens]) _ (fun _ _ => ?_) _ _)
    | split
    | with_reducible apply Kept.step (k := Kept.sens ..)

theorem State.askSluice_kept (s) : Kept [.fresh, .regs, .pool, .peat, .poolBad, .peatBad, .tasks, .crus, .slots, .probes, .rx, .ramps, .khz, .deferred] s (State.askSluice s) := by
  unfold State.askSluice
  repeat' first
    | exact Eq.refl true
    | with_reducible assumption
    | with_reducible apply Kept.ite
    | with_reducible apply Kept.refl
    | with_reducible apply Kept.step (k := State.domForce_kept ..)
    | with_reducible refine Kept.foldl _ (fun _ _ => ?_) _ _

theorem State.powerUp_kept (s) (restart) : Kept (.fresh :: .regs :: .pool :: .peat :: .poolBad :: .peatBad :: .tasks :: .crus :: .slots :: .probes :: .rx :: .fns :: .evWay :: .ramps :: .khz :: .deferred :: .sens :: .boot :: .out :: []) s (State.powerUp s restart) := by
  unfold State.powerUp
  extract_lets bt s1 s2 s3 s4
  have h1 : Kept (.fresh :: .regs :: .pool :: .peat :: .poolBad :: .peatBad :: .tasks :: .crus :: .slots :: .probes :: .rx :: .fns :: .evWay :: .ramps :: .khz :: .deferred :: .sens :: .boot :: .out :: []) s s1 := (Kept.refl _ s).step (Kept.boot ..) rfl
  clear_value s1
  have h2 : Kept (.fresh :: .regs :: .pool :: .peat :: .poolBad :: .peatBad :: .tasks :: .crus :: .slots :: .probes :: .rx :: .fns :: .evWay :: .ramps :: .khz :: .deferred :: .sens :: .boot :: .out :: []) s s2 := by
    unfold s2
    cases restart
    · exact h1
    · exact h1.trans (Kept.foldl _ (fun _ _ => (State.setRb_kept ..).mono rfl) _ _)
  clear_value s2
  have h4 : Kept (.fresh :: .regs :: .pool :: .peat :: .poolBad :: .peatBad :: .tasks :: .crus :: .slots :: .probes :: .rx :: .fns :: .evWay :: .ramps :: .khz :: .deferred :: .sens :: .boot :: .out :: []) s s4 :=
    ((((h2.step (State.trustAll_kept ..) rfl).step (State.selectRef_kept ..) rfl).step (State.askSluice_kept ..) rfl).step
      (State.trainAll_kept ..) rfl).step (State.setRf_kept ..) rfl
  clear_value s4
  split
  · exact (h4.step (State.log_kept ..) rfl).step (Kept.boot ..) rfl
  · exact h4

/-! ### Power -/

theorem execUvWarn_kept (s) : OutKept [.regs, .fns, .out] s (execUvWarn s) := by
  unfold execUvWarn
  repeat' first
    | exact Eq.refl true
    | with_reducible assumption
    | with_reducible apply Kept.ite
    | with_reducible apply Kept.refl
    | with_reducible apply OutKept.ite
    | with_reducible apply OutKept.next
    | with_reducible apply OutKept.fault
    | with_reducible apply Kept.step (k := State.raise_kept ..)

theorem execUndervoltShutdown_kept (mv) (s) : OutKept (.regs :: .wins :: .guards :: .shadows :: .mbxs :: .tapSets :: .pool :: .peat :: .mire :: .poolBad :: .peatBad :: .mireBad :: .tasks :: .crus :: .gates :: .slots :: .probes :: .rx :: .slotMap :: .routes :: .rimEpoch :: .genTab :: .net :: .arrivals :: .ports :: .laneTx :: .dieFence :: .pgQueue :: .movers :: .pgPushed :: .banks :: .scrubs :: .streams :: .beds :: .places :: .wmoves :: .rplaces :: .handRx :: .nextTag :: .kvAreas :: .castRun :: .casting :: .pours :: .cmds :: .queues :: .egress :: .fns :: .reports :: .mon :: .monTap :: .spdm :: .evWay :: .ramps :: .minvSeen :: .tide :: .khz :: .deferred :: .stepAt :: .lostPort :: .vlog :: .sens :: .quench :: .boot :: .sites :: .planDue :: .planAt :: .aging :: .heats :: .retires :: .charges :: .fixes :: .beats :: []) s (execUndervoltShutdown mv s) := by
  unfold execUndervoltShutdown
  repeat' first
    | exact Eq.refl true
    | with_reducible assumption
    | with_reducible apply Kept.ite
    | with_reducible apply Kept.refl
    | with_reducible apply OutKept.ite
    | with_reducible apply OutKept.next
    | with_reducible apply OutKept.fault
    | with_reducible apply Kept.step (k := State.dropMain_kept ..)
    | with_reducible apply Kept.step (k := State.log_kept ..)
    | with_reducible apply Kept.step (k := State.setRf_kept ..)

theorem State.domWrite_kept (s) (u) (page) (off) (val) (old) (a0) : Kept [.fresh, .regs, .pool, .peat, .poolBad, .peatBad, .tasks, .crus, .slots, .probes, .rx, .fns, .ramps, .khz, .deferred, .out] s (State.domWrite s u page off val old a0) := by
  induction a0 generalizing s u page off val old with
  | nil => exact Kept.refl _ _
  | cons b r ih =>
    unfold State.domWrite
    repeat' first
      | exact Eq.refl true
      | with_reducible assumption
      | with_reducible apply Kept.ite
      | with_reducible apply Kept.refl
      | with_reducible apply Kept.step (k := ih ..)
      | with_reducible refine Kept.step ?_ (State.domRequest_kept (by assumption)) ?_
      | with_reducible apply Kept.step (k := State.domRequest_keptP ..)
      | with_reducible apply Kept.step (k := State.raise_kept ..)
      | with_reducible apply Kept.step (k := State.setRf_kept ..)

theorem pwrDomHook_kept (w) (tile) : Kept [.fresh, .regs, .pool, .peat, .poolBad, .peatBad, .tasks, .crus, .slots, .probes, .rx, .fns, .ramps, .khz, .deferred, .out] w.st (pwrDomHook w tile) := by
  unfold pwrDomHook
  repeat' first
    | exact Eq.refl true
    | with_reducible assumption
    | with_reducible apply Kept.ite
    | with_reducible apply Kept.refl
    | with_reducible apply Kept.step (k := State.domWrite_kept ..)

theorem sluiceDomHook_kept (w) (d) : Kept [.fresh, .regs, .pool, .peat, .poolBad, .peatBad, .tasks, .crus, .slots, .probes, .rx, .fns, .ramps, .khz, .deferred, .out] w.st (sluiceDomHook w d) := by
  unfold sluiceDomHook
  repeat' first
    | exact Eq.refl true
    | with_reducible assumption
    | with_reducible apply Kept.ite
    | with_reducible apply Kept.refl
    | with_reducible apply Kept.step (k := State.domWrite_kept ..)

theorem execPwrDomReq_kept (who) (tile) (v) (s) : OutKept (.fresh :: .regs :: .wins :: .guards :: .shadows :: .sealRun :: .pool :: .peat :: .poolBad :: .peatBad :: .tasks :: .crus :: .slots :: .probes :: .rx :: .fns :: .ramps :: .khz :: .deferred :: .out :: []) s (execPwrDomReq who tile v s) := by
  unfold execPwrDomReq
  repeat' first
    | exact Eq.refl true
    | with_reducible assumption
    | with_reducible apply Kept.ite
    | with_reducible apply Kept.refl
    | with_reducible apply OutKept.ite
    | with_reducible apply OutKept.next
    | with_reducible apply OutKept.fault
    | with_reducible apply Kept.step (k := pwrDomHook_kept ..)
    | with_reducible apply Kept.step (k := State.writeCore_kept ..)

theorem execSluiceDomReq_kept (who) (die) (v) (s) : OutKept (.fresh :: .regs :: .wins :: .guards :: .shadows :: .sealRun :: .pool :: .peat :: .poolBad :: .peatBad :: .tasks :: .crus :: .slots :: .probes :: .rx :: .fns :: .ramps :: .khz :: .deferred :: .out :: []) s (execSluiceDomReq who die v s) := by
  unfold execSluiceDomReq
  repeat' first
    | exact Eq.refl true
    | with_reducible assumption
    | with_reducible apply Kept.ite
    | with_reducible apply Kept.refl
    | with_reducible apply OutKept.ite
    | with_reducible apply OutKept.next
    | with_reducible apply OutKept.fault
    | with_reducible apply Kept.step (k := sluiceDomHook_kept ..)
    | with_reducible apply Kept.step (k := State.writeCore_kept ..)

theorem execRampGrant_kept (dom) (s) : OutKept [.regs, .ramps] s (execRampGrant dom s) := by
  unfold execRampGrant
  repeat' first
    | exact Eq.refl true
    | with_reducible assumption
    | with_reducible apply Kept.ite
    | with_reducible apply Kept.refl
    | with_reducible apply OutKept.ite
    | with_reducible apply OutKept.next
    | with_reducible apply OutKept.fault
    | with_reducible apply Kept.step (k := State.grant_kept ..)
    | with_reducible refine Kept.foldl _ (fun _ _ => ?_) _ _
    | with_reducible apply Kept.step (k := Kept.foldl (m := [.regs, .ramps]) _ (fun _ _ => ?_) _ _)
    | split

theorem execRampStage_kept (dom) (s) : OutKept [.ramps] s (execRampStage dom s) := by
  unfold execRampStage
  repeat' first
    | exact Eq.refl true
    | with_reducible assumption
    | with_reducible apply Kept.ite
    | with_reducible apply Kept.refl
    | with_reducible apply OutKept.ite
    | with_reducible apply OutKept.next
    | with_reducible apply OutKept.fault
    | with_reducible apply Kept.step (k := State.putRamp_kept ..)
    | with_reducible refine Kept.foldl _ (fun _ _ => ?_) _ _
    | with_reducible apply Kept.step (k := Kept.foldl (m := [.ramps]) _ (fun _ _ => ?_) _ _)
    | split

theorem execDomRampSample_kept (dom) (ok) (s) : OutKept [.fresh, .regs, .pool, .peat, .poolBad, .peatBad, .tasks, .crus, .slots, .probes, .rx, .fns, .ramps, .khz, .deferred, .out] s (execDomRampSample dom ok s) := by
  unfold execDomRampSample
  repeat' first
    | exact Eq.refl true
    | with_reducible assumption
    | with_reducible apply Kept.ite
    | with_reducible apply Kept.refl
    | with_reducible apply OutKept.ite
    | with_reducible apply OutKept.next
    | with_reducible apply OutKept.fault
    | with_reducible apply Kept.step (k := State.rampOn_kept ..)
    | with_reducible refine Kept.foldl _ (fun _ _ => ?_) _ _
    | with_reducible apply Kept.step (k := Kept.foldl (m := [.fresh, .regs, .pool, .peat, .poolBad, .peatBad, .tasks, .crus, .slots, .probes, .rx, .fns, .ramps, .khz, .deferred, .out]) _ (fun _ _ => ?_) _ _)
    | split

theorem execDomFail_kept (dom) (s) : OutKept (.fresh :: .regs :: .pool :: .peat :: .poolBad :: .peatBad :: .tasks :: .crus :: .slots :: .probes :: .rx :: .fns :: .reports :: .ramps :: .khz :: .deferred :: .out :: []) s (execDomFail dom s) := by
  unfold execDomFail
  repeat' first
    | exact Eq.refl true
    | with_reducible assumption
    | with_reducible apply Kept.ite
    | with_reducible apply Kept.refl
    | with_reducible apply OutKept.ite
    | with_reducible apply OutKept.next
    | with_reducible apply OutKept.fault
    | with_reducible apply Kept.step (k := State.rampFail_kept ..)
    | with_reducible refine Kept.foldl _ (fun _ _ => ?_) _ _
    | with_reducible apply Kept.step (k := Kept.foldl (m := (.fresh :: .regs :: .pool :: .peat :: .poolBad :: .peatBad :: .tasks :: .crus :: .slots :: .probes :: .rx :: .fns :: .reports :: .ramps :: .khz :: .deferred :: .out :: [])) _ (fun _ _ => ?_) _ _)
    | split

theorem State.rearm_kept (s) (page) (off) (key) : Kept [.regs, .minvSeen] s (State.rearm s page off key) := by
  unfold State.rearm
  repeat' first
    | exact Eq.refl true
    | with_reducible assumption
    | with_reducible apply Kept.ite
    | with_reducible apply Kept.refl
    | (extract_lets +onlyGivenNames x; refine Kept.via x ?_ ?_; (on_goal 1 => (unfold x; clear x)); on_goal 2 => (intro hx; clear_value x))
    | with_reducible apply Kept.step (k := State.setRf_kept ..)
    | with_reducible refine Kept.foldl _ (fun _ _ => ?_) _ _
    | with_reducible apply Kept.step (k := Kept.foldl (m := [.regs, .minvSeen]) _ (fun _ _ => ?_) _ _)
    | split
    | with_reducible apply Kept.step (k := Kept.minvSeen ..)

theorem minvHook_kept (w) (tile) : Kept [.regs, .wins, .minvSeen] w.st (minvHook w tile) := by
  unfold minvHook
  repeat' first
    | exact Eq.refl true
    | with_reducible assumption
    | with_reducible apply Kept.ite
    | with_reducible apply Kept.refl
    | with_reducible apply Kept.step (k := State.rearm_kept ..)
    | with_reducible apply Kept.step (k := State.zeroBits_kept ..)
    | with_reducible refine Kept.foldl _ (fun _ _ => ?_) _ _
    | with_reducible apply Kept.step (k := Kept.foldl (m := [.regs, .wins, .minvSeen]) _ (fun _ _ => ?_) _ _)

theorem vmifHook_kept (w) : Kept [.regs, .wins, .minvSeen] w.st (vmifHook w) := by
  unfold vmifHook
  repeat' first
    | exact Eq.refl true
    | with_reducible assumption
    | with_reducible apply Kept.ite
    | with_reducible apply Kept.refl
    | with_reducible apply Kept.step (k := State.rearm_kept ..)
    | with_reducible apply Kept.step (k := State.zeroBits_kept ..)
    | with_reducible refine Kept.foldl _ (fun _ _ => ?_) _ _
    | with_reducible apply Kept.step (k := Kept.foldl (m := [.regs, .wins, .minvSeen]) _ (fun _ _ => ?_) _ _)

theorem execMinvRearm_kept (who) (tile) (v) (s) : OutKept [.regs, .wins, .guards, .shadows, .sealRun, .fns, .minvSeen, .out] s (execMinvRearm who tile v s) := by
  unfold execMinvRearm
  repeat' first
    | exact Eq.refl true
    | with_reducible assumption
    | with_reducible apply Kept.ite
    | with_reducible apply Kept.refl
    | with_reducible apply OutKept.ite
    | with_reducible apply OutKept.next
    | with_reducible apply OutKept.fault
    | with_reducible apply Kept.step (k := minvHook_kept ..)
    | with_reducible apply Kept.step (k := State.writeCore_kept ..)

theorem execVmifRearm_kept (who) (die) (v) (s) : OutKept [.regs, .wins, .guards, .shadows, .sealRun, .fns, .minvSeen, .out] s (execVmifRearm who die v s) := by
  unfold execVmifRearm
  repeat' first
    | exact Eq.refl true
    | with_reducible assumption
    | with_reducible apply Kept.ite
    | with_reducible apply Kept.refl
    | with_reducible apply OutKept.ite
    | with_reducible apply OutKept.next
    | with_reducible apply OutKept.fault
    | with_reducible apply Kept.step (k := vmifHook_kept ..)
    | with_reducible apply Kept.step (k := State.writeCore_kept ..)

theorem execMinvSample_kept (rail) (mv) (s) : OutKept [.regs, .fns, .minvSeen, .out] s (execMinvSample rail mv s) := by
  unfold execMinvSample
  repeat' first
    | exact Eq.refl true
    | with_reducible assumption
    | with_reducible apply Kept.ite
    | with_reducible apply Kept.refl
    | (extract_lets +onlyGivenNames x; refine OutKept.via x ?_ ?_; (on_goal 1 => (unfold x; clear x)); on_goal 2 => (intro hx; clear_value x))
    | (extract_lets +onlyGivenNames x; clear_value x)
    | with_reducible apply OutKept.ite
    | with_reducible apply OutKept.next
    | with_reducible apply OutKept.fault
    | with_reducible apply Kept.step (k := State.raise_kept ..)
    | with_reducible apply Kept.step (k := State.bump_kept ..)
    | with_reducible apply Kept.step (k := State.setReg_kept ..)
    | with_reducible refine Kept.foldl _ (fun _ _ => ?_) _ _
    | with_reducible apply Kept.step (k := Kept.foldl (m := [.regs, .fns, .minvSeen, .out]) _ (fun _ _ => ?_) _ _)
    | split
    | with_reducible apply Kept.step (k := Kept.minvSeen ..)

theorem State.setEff_kept (s) (tile) : Kept [.regs] s (State.setEff s tile) := by
  unfold State.setEff
  repeat' first
    | exact Eq.refl true
    | with_reducible assumption
    | with_reducible apply Kept.ite
    | with_reducible apply Kept.refl
    | (extract_lets +onlyGivenNames x; refine Kept.fn x ?_; unfold x; clear x)
    | with_reducible apply Kept.step (k := State.setRf_kept ..)

theorem State.setTideLim_kept (s) (tile) (v) : Kept [.regs] s (State.setTideLim s tile v) := by
  unfold State.setTideLim
  repeat' first
    | exact Eq.refl true
    | with_reducible assumption
    | with_reducible apply Kept.ite
    | with_reducible apply Kept.refl
    | with_reducible apply Kept.step (k := State.setEff_kept ..)
    | with_reducible apply Kept.step (k := State.setRf_kept ..)

theorem State.setQuenchLim_kept (s) (tile) (v) : Kept [.regs] s (State.setQuenchLim s tile v) := by
  unfold State.setQuenchLim
  repeat' first
    | exact Eq.refl true
    | with_reducible assumption
    | with_reducible apply Kept.ite
    | with_reducible apply Kept.refl
    | with_reducible apply Kept.step (k := State.setEff_kept ..)
    | with_reducible apply Kept.step (k := State.setRf_kept ..)

theorem State.setTrustLim_kept (s) (tile) (v) : Kept [.regs] s (State.setTrustLim s tile v) := by
  unfold State.setTrustLim
  repeat' first
    | exact Eq.refl true
    | with_reducible assumption
    | with_reducible apply Kept.ite
    | with_reducible apply Kept.refl
    | with_reducible apply Kept.step (k := State.setEff_kept ..)
    | with_reducible apply Kept.step (k := State.setRf_kept ..)

theorem State.setTarget_kept (s) (tile) (k) (mhz) : Kept [.regs] s (State.setTarget s tile k mhz) := by
  unfold State.setTarget
  repeat' first
    | exact Eq.refl true
    | with_reducible assumption
    | with_reducible apply Kept.ite
    | with_reducible apply Kept.refl
    | with_reducible apply Kept.step (k := State.setRf_kept ..)

theorem State.moveVlog_kept (s) (tile) : Kept [.vlog] s (State.moveVlog s tile) := by
  unfold State.moveVlog
  repeat' first
    | exact Eq.refl true
    | with_reducible assumption
    | with_reducible apply Kept.ite
    | with_reducible apply Kept.refl
    | (extract_lets +onlyGivenNames x; clear_value x)
    | with_reducible refine Kept.foldl _ (fun _ _ => ?_) _ _
    | with_reducible apply Kept.step (k := Kept.foldl (m := [.vlog]) _ (fun _ _ => ?_) _ _)
    | split
    | with_reducible apply Kept.step (k := Kept.vlog ..)

theorem execGovernorStep_kept (tile) (avg) (s) : OutKept [.regs, .vlog] s (execGovernorStep tile avg s) := by
  unfold execGovernorStep
  repeat' first
    | exact Eq.refl true
    | with_reducible assumption
    | with_reducible apply Kept.ite
    | with_reducible apply Kept.refl
    | (extract_lets +onlyGivenNames x; refine OutKept.via x ?_ ?_; (on_goal 1 => (unfold x; clear x)); on_goal 2 => (intro hx; clear_value x))
    | (extract_lets +onlyGivenNames x; refine Kept.fn x ?_; unfold x; clear x)
    | (extract_lets +onlyGivenNames x; clear_value x)
    | with_reducible apply OutKept.ite
    | with_reducible apply OutKept.next
    | with_reducible apply OutKept.fault
    | with_reducible apply Kept.step (k := State.moveVlog_kept ..)
    | with_reducible apply Kept.step (k := State.setTarget_kept ..)
    | with_reducible apply Kept.step (k := State.bump_kept ..)
    | with_reducible apply Kept.step (k := State.setRf_kept ..)
    | with_reducible refine Kept.foldl _ (fun _ _ => ?_) _ _
    | with_reducible apply Kept.step (k := Kept.foldl (m := [.regs, .vlog]) _ (fun _ _ => ?_) _ _)

theorem execOcpLimit_kept (tile) (s) : OutKept [.regs, .fns, .out] s (execOcpLimit tile s) := by
  unfold execOcpLimit
  repeat' first
    | exact Eq.refl true
    | with_reducible assumption
    | with_reducible apply Kept.ite
    | with_reducible apply Kept.refl
    | with_reducible apply OutKept.ite
    | with_reducible apply OutKept.next
    | with_reducible apply OutKept.fault
    | with_reducible apply Kept.step (k := State.raise_kept ..)
    | with_reducible apply Kept.step (k := State.bump_kept ..)

theorem tideSrcHook_kept (w) (who) (before) (k) : Kept [.regs, .fns, .tide, .out] w.st (tideSrcHook w who before k) := by
  unfold tideSrcHook
  repeat' first
    | exact Eq.refl true
    | with_reducible assumption
    | with_reducible apply Kept.ite
    | with_reducible apply Kept.refl
    | (extract_lets +onlyGivenNames x; refine Kept.via x ?_ ?_; (on_goal 1 => (unfold x; clear x)); on_goal 2 => (intro hx; clear_value x))
    | (extract_lets +onlyGivenNames x; clear_value x)
    | with_reducible apply Kept.step (k := State.raise_kept ..)
    | with_reducible apply Kept.step (k := State.bump_kept ..)
    | with_reducible apply Kept.step (k := State.setRb_kept ..)
    | with_reducible apply Kept.step (k := State.setReg_kept ..)
    | with_reducible refine Kept.foldl _ (fun _ _ => ?_) _ _
    | with_reducible apply Kept.step (k := Kept.foldl (m := [.regs, .fns, .tide, .out]) _ (fun _ _ => ?_) _ _)
    | split
    | with_reducible apply Kept.step (k := Kept.tide ..)

theorem execTideSrcWrite_kept (who) (k) (v) (s) : OutKept [.regs, .wins, .guards, .shadows, .sealRun, .fns, .tide, .out] s (execTideSrcWrite who k v s) := by
  unfold execTideSrcWrite
  repeat' first
    | exact Eq.refl true
    | with_reducible assumption
    | with_reducible apply Kept.ite
    | with_reducible apply Kept.refl
    | with_reducible apply OutKept.ite
    | with_reducible apply OutKept.next
    | with_reducible apply OutKept.fault
    | with_reducible apply Kept.step (k := tideSrcHook_kept ..)
    | with_reducible apply Kept.step (k := State.writeCore_kept ..)

theorem execTideLeaseLapse_kept (k) (s) : OutKept [.regs, .fns, .out] s (execTideLeaseLapse k s) := by
  unfold execTideLeaseLapse
  repeat' first
    | exact Eq.refl true
    | with_reducible assumption
    | with_reducible apply Kept.ite
    | with_reducible apply Kept.refl
    | with_reducible apply OutKept.ite
    | with_reducible apply OutKept.next
    | with_reducible apply OutKept.fault
    | with_reducible apply Kept.step (k := State.raise_kept ..)
    | with_reducible apply Kept.step (k := State.bump_kept ..)
    | with_reducible apply Kept.step (k := State.setRb_kept ..)

theorem State.rampSlot_kept (s) (k) : Kept [.tide] s (State.rampSlot s k) := by
  unfold State.rampSlot
  repeat' first
    | exact Eq.refl true
    | with_reducible assumption
    | with_reducible apply Kept.ite
    | with_reducible apply Kept.refl
    | (extract_lets +onlyGivenNames x; clear_value x)
    | with_reducible refine Kept.foldl _ (fun _ _ => ?_) _ _
    | with_reducible apply Kept.step (k := Kept.foldl (m := [.tide]) _ (fun _ _ => ?_) _ _)
    | split
    | with_reducible apply Kept.step (k := Kept.tide ..)

theorem execTideRampTick_kept (s) : OutKept [.tide] s (execTideRampTick s) := by
  unfold execTideRampTick
  repeat' first
    | exact Eq.refl true
    | with_reducible assumption
    | with_reducible apply Kept.ite
    | with_reducible apply Kept.refl
    | (extract_lets +onlyGivenNames x; refine OutKept.via x ?_ ?_; (on_goal 1 => (unfold x; clear x)); on_goal 2 => (intro hx; clear_value x))
    | (extract_lets +onlyGivenNames x; clear_value x)
    | with_reducible apply OutKept.ite
    | with_reducible apply OutKept.next
    | with_reducible apply OutKept.fault
    | with_reducible apply Kept.step (k := State.rampSlot_kept ..)
    | with_reducible refine Kept.foldl _ (fun _ _ => ?_) _ _
    | with_reducible apply Kept.step (k := Kept.foldl (m := [.tide]) _ (fun _ _ => ?_) _ _)
    | split
    | with_reducible apply Kept.step (k := Kept.tide ..)

theorem State.countSoak_kept (s) (a0) : Kept [.regs, .tide] s (State.countSoak s a0) := by
  induction a0 generalizing s with
  | nil => exact Kept.refl _ _
  | cons b r ih =>
    unfold State.countSoak
    repeat' first
      | exact Eq.refl true
      | with_reducible assumption
      | with_reducible apply Kept.ite
      | with_reducible apply Kept.refl
      | (extract_lets +onlyGivenNames x; clear_value x)
      | with_reducible apply Kept.step (k := ih ..)
      | with_reducible apply Kept.step (k := State.bump_kept ..)
      | with_reducible refine Kept.foldl _ (fun _ _ => ?_) _ _
      | with_reducible apply Kept.step (k := Kept.foldl (m := [.regs, .tide]) _ (fun _ _ => ?_) _ _)
      | split
      | with_reducible apply Kept.step (k := Kept.tide ..)

theorem State.loopStep_kept (s) (m) : Kept [.regs, .fns, .tide, .out] s (State.loopStep s m) := by
  unfold State.loopStep
  repeat' first
    | exact Eq.refl true
    | with_reducible assumption
    | with_reducible apply Kept.ite
    | with_reducible apply Kept.refl
    | (extract_lets +onlyGivenNames x; clear_value x)
    | with_reducible apply Kept.step (k := State.countSoak_kept ..)
    | with_reducible apply Kept.step (k := State.raise_kept ..)
    | with_reducible apply Kept.step (k := State.bump_kept ..)
    | with_reducible apply Kept.step (k := State.setRb_kept ..)
    | with_reducible apply Kept.step (k := State.setRf_kept ..)
    | with_reducible refine Kept.foldl _ (fun _ _ => ?_) _ _
    | with_reducible apply Kept.step (k := Kept.foldl (m := [.regs, .fns, .tide, .out]) _ (fun _ _ => ?_) _ _)
    | split
    | with_reducible apply Kept.step (k := Kept.tide ..)

theorem execTideLoopStep_kept (m) (s) : OutKept [.regs, .fns, .tide, .out] s (execTideLoopStep m s) := by
  unfold execTideLoopStep
  repeat' first
    | exact Eq.refl true
    | with_reducible assumption
    | with_reducible apply Kept.ite
    | with_reducible apply Kept.refl
    | with_reducible apply OutKept.ite
    | with_reducible apply OutKept.next
    | with_reducible apply OutKept.fault
    | with_reducible apply Kept.step (k := State.loopStep_kept ..)

theorem execTideLimUpdate_kept (tile) (lim) (s) : OutKept [.regs, .tide] s (execTideLimUpdate tile lim s) := by
  unfold execTideLimUpdate
  repeat' first
    | exact Eq.refl true
    | with_reducible assumption
    | with_reducible apply Kept.ite
    | with_reducible apply Kept.refl
    | (extract_lets +onlyGivenNames x; clear_value x)
    | with_reducible apply OutKept.ite
    | with_reducible apply OutKept.next
    | with_reducible apply OutKept.fault
    | with_reducible apply Kept.step (k := State.setTideLim_kept ..)
    | with_reducible refine Kept.foldl _ (fun _ _ => ?_) _ _
    | with_reducible apply Kept.step (k := Kept.foldl (m := [.regs, .tide]) _ (fun _ _ => ?_) _ _)
    | split
    | with_reducible apply Kept.step (k := Kept.tide ..)

theorem execTideCompliance_kept (p) (s) : OutKept [.regs, .fns, .out] s (execTideCompliance p s) := by
  unfold execTideCompliance
  repeat' first
    | exact Eq.refl true
    | with_reducible assumption
    | with_reducible apply Kept.ite
    | with_reducible apply Kept.refl
    | (extract_lets +onlyGivenNames x; refine OutKept.via x ?_ ?_; (on_goal 1 => (unfold x; clear x)); on_goal 2 => (intro hx; clear_value x))
    | (extract_lets +onlyGivenNames x; clear_value x)
    | with_reducible apply OutKept.ite
    | with_reducible apply OutKept.next
    | with_reducible apply OutKept.fault
    | with_reducible apply Kept.step (k := State.raise_kept ..)
    | with_reducible apply Kept.step (k := State.bump_kept ..)
    | with_reducible apply Kept.step (k := State.setRb_kept ..)
    | with_reducible apply Kept.step (k := State.setRf_kept ..)

/-! ### Clock -/

theorem execRefLost_kept (s) : OutKept [.regs, .fns, .refs, .out] s (execRefLost s) := by
  unfold execRefLost
  repeat' first
    | exact Eq.refl true
    | with_reducible assumption
    | with_reducible apply Kept.ite
    | with_reducible apply Kept.refl
    | (extract_lets +onlyGivenNames x; refine OutKept.via x ?_ ?_; (on_goal 1 => (unfold x; clear x)); on_goal 2 => (intro hx; clear_value x))
    | (extract_lets +onlyGivenNames x; clear_value x)
    | with_reducible apply OutKept.ite
    | with_reducible apply OutKept.next
    | with_reducible apply OutKept.fault
    | with_reducible apply Kept.step (k := State.selectRef_kept ..)
    | with_reducible apply Kept.step (k := State.setRb_kept ..)
    | with_reducible refine Kept.foldl _ (fun _ _ => ?_) _ _
    | with_reducible apply Kept.step (k := Kept.foldl (m := [.regs, .fns, .refs, .out]) _ (fun _ _ => ?_) _ _)
    | split
    | with_reducible apply Kept.step (k := Kept.refs ..)

theorem execReferenceUsable_kept (src) (s) : OutKept [.regs, .fns, .refs, .out] s (execReferenceUsable src s) := by
  unfold execReferenceUsable
  repeat' first
    | exact Eq.refl true
    | with_reducible assumption
    | with_reducible apply Kept.ite
    | with_reducible apply Kept.refl
    | (extract_lets +onlyGivenNames x; refine OutKept.via x ?_ ?_; (on_goal 1 => (unfold x; clear x)); on_goal 2 => (intro hx; clear_value x))
    | with_reducible apply OutKept.ite
    | with_reducible apply OutKept.next
    | with_reducible apply OutKept.fault
    | with_reducible apply Kept.step (k := State.selectRef_kept ..)
    | with_reducible apply Kept.step (k := State.setRb_kept ..)
    | with_reducible refine Kept.foldl _ (fun _ _ => ?_) _ _
    | with_reducible apply Kept.step (k := Kept.foldl (m := [.regs, .fns, .refs, .out]) _ (fun _ _ => ?_) _ _)
    | split
    | with_reducible apply Kept.step (k := Kept.refs ..)

theorem execParentLost_kept (tile) (s) : OutKept [.regs, .fns, .reports, .lostPort, .out] s (execParentLost tile s) := by
  unfold execParentLost
  repeat' first
    | exact Eq.refl true
    | with_reducible assumption
    | with_reducible apply Kept.ite
    | with_reducible apply Kept.refl
    | (extract_lets +onlyGivenNames x; refine OutKept.via x ?_ ?_; (on_goal 1 => (unfold x; clear x)); on_goal 2 => (intro hx; clear_value x))
    | (extract_lets +onlyGivenNames x; clear_value x)
    | with_reducible apply OutKept.ite
    | with_reducible apply OutKept.next
    | with_reducible apply OutKept.fault
    | with_reducible apply Kept.step (k := State.report_kept ..)
    | with_reducible apply Kept.step (k := State.raise_kept ..)
    | with_reducible apply Kept.step (k := State.setFields_kept ..)
    | with_reducible apply Kept.step (k := State.setRb_kept ..)
    | with_reducible refine Kept.foldl _ (fun _ _ => ?_) _ _
    | with_reducible apply Kept.step (k := Kept.foldl (m := [.regs, .fns, .reports, .lostPort, .out]) _ (fun _ _ => ?_) _ _)
    | split
    | with_reducible apply Kept.step (k := Kept.lostPort ..)

theorem execParentChange_kept (tile) (port) (s) : OutKept [.regs] s (execParentChange tile port s) := by
  unfold execParentChange
  repeat' first
    | exact Eq.refl true
    | with_reducible assumption
    | with_reducible apply Kept.ite
    | with_reducible apply Kept.refl
    | (extract_lets +onlyGivenNames x; clear_value x)
    | with_reducible apply OutKept.ite
    | with_reducible apply OutKept.next
    | with_reducible apply OutKept.fault
    | with_reducible apply Kept.step (k := State.bump_kept ..)
    | with_reducible apply Kept.step (k := State.setFields_kept ..)

theorem State.setKhz_kept (s) (i) (k) (v) : Kept [.khz] s (State.setKhz s i k v) := by
  unfold State.setKhz
  repeat' first
    | exact Eq.refl true
    | with_reducible assumption
    | with_reducible apply Kept.ite
    | with_reducible apply Kept.refl
    | with_reducible refine Kept.foldl _ (fun _ _ => ?_) _ _
    | with_reducible apply Kept.step (k := Kept.foldl (m := [.khz]) _ (fun _ _ => ?_) _ _)
    | split
    | with_reducible apply Kept.step (k := Kept.khz ..)

theorem State.freqStep_kept (s) (i) (k) : Kept [.regs, .khz, .stepAt] s (State.freqStep s i k) := by
  unfold State.freqStep
  repeat' first
    | exact Eq.refl true
    | with_reducible assumption
    | with_reducible apply Kept.ite
    | with_reducible apply Kept.refl
    | (extract_lets +onlyGivenNames x; refine Kept.via x ?_ ?_; (on_goal 1 => (unfold x; clear x)); on_goal 2 => (intro hx; clear_value x))
    | with_reducible apply Kept.step (k := State.setKhz_kept ..)
    | with_reducible apply Kept.step (k := State.bump_kept ..)
    | with_reducible refine Kept.foldl _ (fun _ _ => ?_) _ _
    | with_reducible apply Kept.step (k := Kept.foldl (m := [.regs, .khz, .stepAt]) _ (fun _ _ => ?_) _ _)
    | split
    | with_reducible apply Kept.step (k := Kept.stepAt ..)

theorem execFreqStep_kept (tile) (cru) (s) : OutKept [.regs, .khz, .deferred, .stepAt] s (execFreqStep tile cru s) := by
  unfold execFreqStep
  repeat' first
    | exact Eq.refl true
    | with_reducible assumption
    | with_reducible apply Kept.ite
    | with_reducible apply Kept.refl
    | with_reducible apply OutKept.ite
    | with_reducible apply OutKept.next
    | with_reducible apply OutKept.fault
    | with_reducible apply Kept.step (k := State.freqStep_kept ..)
    | with_reducible refine Kept.foldl _ (fun _ _ => ?_) _ _
    | with_reducible apply Kept.step (k := Kept.foldl (m := [.regs, .khz, .deferred, .stepAt]) _ (fun _ _ => ?_) _ _)
    | split
    | with_reducible apply Kept.step (k := Kept.deferred ..)

theorem execDroopStretchStart_kept (tile) (cru) (s) : OutKept [.regs] s (execDroopStretchStart tile cru s) := by
  unfold execDroopStretchStart
  repeat' first
    | exact Eq.refl true
    | with_reducible assumption
    | with_reducible apply Kept.ite
    | with_reducible apply Kept.refl
    | with_reducible apply OutKept.ite
    | with_reducible apply OutKept.next
    | with_reducible apply OutKept.fault
    | with_reducible apply Kept.step (k := State.setRb_kept ..)

theorem execDroopStretchEnd_kept (tile) (cru) (s) : OutKept [.regs, .khz, .deferred, .stepAt] s (execDroopStretchEnd tile cru s) := by
  unfold execDroopStretchEnd
  repeat' first
    | exact Eq.refl true
    | with_reducible assumption
    | with_reducible apply Kept.ite
    | with_reducible apply Kept.refl
    | (extract_lets +onlyGivenNames x; refine OutKept.via x ?_ ?_; (on_goal 1 => (unfold x; clear x)); on_goal 2 => (intro hx; clear_value x))
    | (extract_lets +onlyGivenNames x; clear_value x)
    | with_reducible apply OutKept.ite
    | with_reducible apply OutKept.next
    | with_reducible apply OutKept.fault
    | with_reducible apply Kept.step (k := State.freqStep_kept ..)
    | with_reducible apply Kept.step (k := State.setRb_kept ..)
    | with_reducible refine Kept.foldl _ (fun _ _ => ?_) _ _
    | with_reducible apply Kept.step (k := Kept.foldl (m := [.regs, .khz, .deferred, .stepAt]) _ (fun _ _ => ?_) _ _)
    | split
    | with_reducible apply Kept.step (k := Kept.deferred ..)

theorem execGeneratorSwitch_kept (tile) (cru) (s) : OutKept [.regs, .khz] s (execGeneratorSwitch tile cru s) := by
  unfold execGeneratorSwitch
  repeat' first
    | exact Eq.refl true
    | with_reducible assumption
    | with_reducible apply Kept.ite
    | with_reducible apply Kept.refl
    | (extract_lets +onlyGivenNames x; refine OutKept.via x ?_ ?_; (on_goal 1 => (unfold x; clear x)); on_goal 2 => (intro hx; clear_value x))
    | (extract_lets +onlyGivenNames x; clear_value x)
    | with_reducible apply OutKept.ite
    | with_reducible apply OutKept.next
    | with_reducible apply OutKept.fault
    | with_reducible apply Kept.step (k := State.setKhz_kept ..)
    | with_reducible apply Kept.step (k := State.bump_kept ..)
    | with_reducible apply Kept.step (k := State.setRb_kept ..)

theorem execMarginLow_kept (tile) (cru) (s) : OutKept [.regs, .fns, .aging, .out] s (execMarginLow tile cru s) := by
  unfold execMarginLow
  repeat' first
    | exact Eq.refl true
    | with_reducible assumption
    | with_reducible apply Kept.ite
    | with_reducible apply Kept.refl
    | (extract_lets +onlyGivenNames x; refine OutKept.via x ?_ ?_; (on_goal 1 => (unfold x; clear x)); on_goal 2 => (intro hx; clear_value x))
    | (extract_lets +onlyGivenNames x; clear_value x)
    | with_reducible apply OutKept.ite
    | with_reducible apply OutKept.next
    | with_reducible apply OutKept.fault
    | with_reducible apply Kept.step (k := State.setTarget_kept ..)
    | with_reducible apply Kept.step (k := State.raise_kept ..)
    | with_reducible refine Kept.foldl _ (fun _ _ => ?_) _ _
    | with_reducible apply Kept.step (k := Kept.foldl (m := [.regs, .fns, .aging, .out]) _ (fun _ _ => ?_) _ _)
    | split
    | with_reducible apply Kept.step (k := Kept.aging ..)

theorem State.alignTime_kept (s) : Kept [.regs] s (State.alignTime s) := by
  unfold State.alignTime
  repeat' first
    | exact Eq.refl true
    | with_reducible assumption
    | with_reducible apply Kept.ite
    | with_reducible apply Kept.refl
    | with_reducible apply Kept.step (k := State.setFields_kept ..)
    | with_reducible refine Kept.foldl _ (fun _ _ => ?_) _ _
    | with_reducible apply Kept.step (k := Kept.foldl (m := [.regs]) _ (fun _ _ => ?_) _ _)
    | split

theorem execEpochWord_kept (tile) (s) : OutKept [.ptp] s (execEpochWord tile s) := by
  unfold execEpochWord
  repeat' first
    | exact Eq.refl true
    | with_reducible assumption
    | with_reducible apply Kept.ite
    | with_reducible apply Kept.refl
    | (extract_lets +onlyGivenNames x; clear_value x)
    | with_reducible apply OutKept.ite
    | with_reducible apply OutKept.next
    | with_reducible apply OutKept.fault
    | with_reducible refine Kept.foldl _ (fun _ _ => ?_) _ _
    | with_reducible apply Kept.step (k := Kept.foldl (m := [.ptp]) _ (fun _ _ => ?_) _ _)
    | split
    | with_reducible apply Kept.step (k := Kept.ptp ..)

theorem State.alignErrs_kept (s) (a0) : Kept [.regs, .fns, .out] s (State.alignErrs s a0) := by
  induction a0 generalizing s with
  | nil => exact Kept.refl _ _
  | cons b r ih =>
    unfold State.alignErrs
    repeat' first
      | exact Eq.refl true
      | with_reducible assumption
      | with_reducible apply Kept.ite
      | with_reducible apply Kept.refl
      | (extract_lets +onlyGivenNames x; refine Kept.via x ?_ ?_; (on_goal 1 => (unfold x; clear x)); on_goal 2 => (intro hx; clear_value x))
      | (extract_lets +onlyGivenNames x; clear_value x)
      | with_reducible apply Kept.step (k := ih ..)
      | with_reducible apply Kept.step (k := State.raise_kept ..)
      | with_reducible apply Kept.step (k := State.bump_kept ..)
      | with_reducible apply Kept.step (k := State.setRf_kept ..)

theorem State.stepTime_kept (s) (d) : Kept [.now] s (State.stepTime s d) := by
  unfold State.stepTime
  repeat' first
    | exact Eq.refl true
    | with_reducible assumption
    | with_reducible apply Kept.ite
    | with_reducible apply Kept.refl
    | with_reducible refine Kept.foldl _ (fun _ _ => ?_) _ _
    | with_reducible apply Kept.step (k := Kept.foldl (m := [.now]) _ (fun _ _ => ?_) _ _)
    | split
    | with_reducible apply Kept.step (k := Kept.now ..)

theorem State.markEpoch_kept (s) : Kept [.ptp] s (State.markEpoch s) := by
  unfold State.markEpoch
  repeat' first
    | exact Eq.refl true
    | with_reducible assumption
    | with_reducible apply Kept.ite
    | with_reducible apply Kept.refl
    | (extract_lets +onlyGivenNames x; clear_value x)
    | with_reducible refine Kept.foldl _ (fun _ _ => ?_) _ _
    | with_reducible apply Kept.step (k := Kept.foldl (m := [.ptp]) _ (fun _ _ => ?_) _ _)
    | split
    | with_reducible apply Kept.step (k := Kept.ptp ..)

theorem State.atBoundary_kept (s) (errs) : Kept [.now, .regs, .timeSet, .fns, .ptp, .out] s (State.atBoundary s errs) := by
  unfold State.atBoundary
  repeat' first
    | exact Eq.refl true
    | with_reducible assumption
    | with_reducible apply Kept.ite
    | with_reducible apply Kept.refl
    | (extract_lets +onlyGivenNames x; refine Kept.via x ?_ ?_; (on_goal 1 => (unfold x; clear x)); on_goal 2 => (intro hx; clear_value x))
    | (extract_lets +onlyGivenNames x; clear_value x)
    | with_reducible apply Kept.step (k := State.stepTime_kept ..)
    | with_reducible apply Kept.step (k := State.alignErrs_kept ..)
    | with_reducible apply Kept.step (k := State.bump_kept ..)
    | with_reducible apply Kept.step (k := State.setRb_kept ..)
    | with_reducible apply Kept.step (k := State.setRf_kept ..)
    | with_reducible refine Kept.foldl _ (fun _ _ => ?_) _ _
    | with_reducible apply Kept.step (k := Kept.foldl (m := [.now, .regs, .timeSet, .fns, .ptp, .out]) _ (fun _ _ => ?_) _ _)
    | split
    | with_reducible apply Kept.step (k := Kept.ptp ..)
    | with_reducible apply Kept.step (k := Kept.now_timeSet_ptp ..)

theorem execEpochBoundary_kept (errs) (s) : OutKept [.now, .regs, .timeSet, .fns, .ptp, .out] s (execEpochBoundary errs s) := by
  unfold execEpochBoundary
  repeat' first
    | exact Eq.refl true
    | with_reducible assumption
    | with_reducible apply Kept.ite
    | with_reducible apply Kept.refl
    | with_reducible apply OutKept.ite
    | with_reducible apply OutKept.next
    | with_reducible apply OutKept.fault
    | with_reducible apply Kept.step (k := State.atBoundary_kept ..)
    | with_reducible apply Kept.step (k := State.markEpoch_kept ..)

theorem execPtpEventMessage_kept (eth) (m) (s) : OutKept [.regs, .ptp] s (execPtpEventMessage eth m s) := by
  unfold execPtpEventMessage
  repeat' first
    | exact Eq.refl true
    | with_reducible assumption
    | with_reducible apply Kept.ite
    | with_reducible apply Kept.refl
    | (extract_lets +onlyGivenNames x; refine OutKept.via x ?_ ?_; (on_goal 1 => (unfold x; clear x)); on_goal 2 => (intro hx; clear_value x))
    | (extract_lets +onlyGivenNames x; clear_value x)
    | with_reducible apply OutKept.ite
    | with_reducible apply OutKept.next
    | with_reducible apply OutKept.fault
    | with_reducible apply Kept.step (k := State.setRf_kept ..)
    | with_reducible apply Kept.step (k := State.setReg_kept ..)
    | with_reducible refine Kept.foldl _ (fun _ _ => ?_) _ _
    | with_reducible apply Kept.step (k := Kept.foldl (m := [.regs, .ptp]) _ (fun _ _ => ?_) _ _)
    | split
    | with_reducible apply Kept.step (k := Kept.ptp ..)

theorem execPtpAnnounceTimeout_kept (s) : OutKept [.regs, .ptp] s (execPtpAnnounceTimeout s) := by
  unfold execPtpAnnounceTimeout
  repeat' first
    | exact Eq.refl true
    | with_reducible assumption
    | with_reducible apply Kept.ite
    | with_reducible apply Kept.refl
    | (extract_lets +onlyGivenNames x; refine OutKept.via x ?_ ?_; (on_goal 1 => (unfold x; clear x)); on_goal 2 => (intro hx; clear_value x))
    | (extract_lets +onlyGivenNames x; clear_value x)
    | with_reducible apply OutKept.ite
    | with_reducible apply OutKept.next
    | with_reducible apply OutKept.fault
    | with_reducible apply Kept.step (k := State.setRf_kept ..)
    | with_reducible refine Kept.foldl _ (fun _ _ => ?_) _ _
    | with_reducible apply Kept.step (k := Kept.foldl (m := [.regs, .ptp]) _ (fun _ _ => ?_) _ _)
    | split
    | with_reducible apply Kept.step (k := Kept.ptp ..)

/-! ### Monitor -/

theorem State.setCap_kept (s) (tile) (m) (c) : Kept [.mon] s (State.setCap s tile m c) := by
  unfold State.setCap
  repeat' first
    | exact Eq.refl true
    | with_reducible assumption
    | with_reducible apply Kept.ite
    | with_reducible apply Kept.refl
    | with_reducible refine Kept.foldl _ (fun _ _ => ?_) _ _
    | with_reducible apply Kept.step (k := Kept.foldl (m := [.mon]) _ (fun _ _ => ?_) _ _)
    | split
    | with_reducible apply Kept.step (k := Kept.mon ..)

theorem State.monSample_kept (s) (tile) (m) (value) : Kept [.regs, .fns, .mon, .evWay, .out] s (State.monSample s tile m value) := by
  unfold State.monSample
  repeat' first
    | exact Eq.refl true
    | with_reducible assumption
    | with_reducible apply Kept.ite
    | with_reducible apply Kept.refl
    | with_reducible apply Kept.step (k := State.setCap_kept ..)
    | with_reducible apply Kept.step (k := State.log_kept ..)
    | with_reducible apply Kept.step (k := State.raise_kept ..)
    | with_reducible apply Kept.step (k := State.bump_kept ..)
    | with_reducible apply Kept.step (k := State.setReg_kept ..)

theorem State.monFeed_kept (s) (tile) (kind) (arg) (v) : Kept [.regs, .fns, .mon, .evWay, .out] s (State.monFeed s tile kind arg v) := by
  unfold State.monFeed
  repeat' first
    | exact Eq.refl true
    | with_reducible assumption
    | with_reducible apply Kept.ite
    | with_reducible apply Kept.refl
    | with_reducible apply Kept.step (k := State.monSample_kept ..)
    | with_reducible refine Kept.foldl _ (fun _ _ => ?_) _ _

theorem State.monClear_kept (s) (tile) (m) : Kept [.regs, .mon] s (State.monClear s tile m) := by
  unfold State.monClear
  repeat' first
    | exact Eq.refl true
    | with_reducible assumption
    | with_reducible apply Kept.ite
    | with_reducible apply Kept.refl
    | with_reducible apply Kept.step (k := State.setCap_kept ..)
    | with_reducible apply Kept.step (k := State.bump_kept ..)

theorem monClrHook_kept (w) (tile) : Kept [.regs, .wins, .mon] w.st (monClrHook w tile) := by
  unfold monClrHook
  repeat' first
    | exact Eq.refl true
    | with_reducible assumption
    | with_reducible apply Kept.ite
    | with_reducible apply Kept.refl
    | with_reducible apply Kept.step (k := State.monClear_kept ..)
    | with_reducible apply Kept.step (k := State.zeroBits_kept ..)
    | with_reducible refine Kept.foldl _ (fun _ _ => ?_) _ _
    | with_reducible apply Kept.step (k := Kept.foldl (m := [.regs, .wins, .mon]) _ (fun _ _ => ?_) _ _)

theorem monConfigHook_kept (w) (tile) : Kept [.regs, .mon] w.st (monConfigHook w tile) := by
  unfold monConfigHook
  repeat' first
    | exact Eq.refl true
    | with_reducible assumption
    | with_reducible apply Kept.ite
    | with_reducible apply Kept.refl
    | with_reducible apply Kept.step (k := State.monClear_kept ..)

theorem execMonClr_kept (who) (tile) (v) (s) : OutKept [.regs, .wins, .guards, .shadows, .sealRun, .fns, .mon, .out] s (execMonClr who tile v s) := by
  unfold execMonClr
  repeat' first
    | exact Eq.refl true
    | with_reducible assumption
    | with_reducible apply Kept.ite
    | with_reducible apply Kept.refl
    | with_reducible apply OutKept.ite
    | with_reducible apply OutKept.next
    | with_reducible apply OutKept.fault
    | with_reducible apply Kept.step (k := monClrHook_kept ..)
    | with_reducible apply Kept.step (k := State.writeCore_kept ..)

theorem execMonConfigWrite_kept (who) (tile) (off) (v) (s) : OutKept [.regs, .wins, .guards, .shadows, .sealRun, .fns, .mon, .out] s (execMonConfigWrite who tile off v s) := by
  unfold execMonConfigWrite
  repeat' first
    | exact Eq.refl true
    | with_reducible assumption
    | with_reducible apply Kept.ite
    | with_reducible apply Kept.refl
    | (extract_lets +onlyGivenNames x; clear_value x)
    | with_reducible apply OutKept.ite
    | with_reducible apply OutKept.next
    | with_reducible apply OutKept.fault
    | with_reducible apply Kept.step (k := monConfigHook_kept ..)
    | with_reducible apply Kept.step (k := State.writeCore_kept ..)

theorem execMonTickSample_kept (tile) (m) (value) (s) : OutKept [.regs, .fns, .mon, .evWay, .out] s (execMonTickSample tile m value s) := by
  unfold execMonTickSample
  repeat' first
    | exact Eq.refl true
    | with_reducible assumption
    | with_reducible apply Kept.ite
    | with_reducible apply Kept.refl
    | (extract_lets +onlyGivenNames x; clear_value x)
    | with_reducible apply OutKept.ite
    | with_reducible apply OutKept.next
    | with_reducible apply OutKept.fault
    | with_reducible apply Kept.step (k := State.monSample_kept ..)
    | with_reducible apply Kept.step (k := State.setRf_kept ..)

theorem State.evlPut_kept (s) (r) : Kept [.regs, .fns, .evRing, .out] s (State.evlPut s r) := by
  unfold State.evlPut
  repeat' first
    | exact Eq.refl true
    | with_reducible assumption
    | with_reducible apply Kept.ite
    | with_reducible apply Kept.refl
    | (extract_lets +onlyGivenNames x; refine Kept.via x ?_ ?_; (on_goal 1 => (unfold x; clear x)); on_goal 2 => (intro hx; clear_value x))
    | (extract_lets +onlyGivenNames x; clear_value x)
    | with_reducible apply Kept.step (k := State.raise_kept ..)
    | with_reducible apply Kept.step (k := State.bump_kept ..)
    | with_reducible apply Kept.step (k := State.setRf_kept ..)
    | with_reducible refine Kept.foldl _ (fun _ _ => ?_) _ _
    | with_reducible apply Kept.step (k := Kept.foldl (m := [.regs, .fns, .evRing, .out]) _ (fun _ _ => ?_) _ _)
    | split
    | with_reducible apply Kept.step (k := Kept.evRing ..)

theorem State.setEvRate_kept (s) (page) (x) : Kept [.evRate] s (State.setEvRate s page x) := by
  unfold State.setEvRate
  repeat' first
    | exact Eq.refl true
    | with_reducible assumption
    | with_reducible apply Kept.ite
    | with_reducible apply Kept.refl
    | with_reducible refine Kept.foldl _ (fun _ _ => ?_) _ _
    | with_reducible apply Kept.step (k := Kept.foldl (m := [.evRate]) _ (fun _ _ => ?_) _ _)
    | split
    | with_reducible apply Kept.step (k := Kept.evRate ..)

theorem State.evlLost_kept (s) (page) : Kept [.regs, .fns, .evRing, .evRate, .out] s (State.evlLost s page) := by
  unfold State.evlLost
  repeat' first
    | exact Eq.refl true
    | with_reducible assumption
    | with_reducible apply Kept.ite
    | with_reducible apply Kept.refl
    | with_reducible apply Kept.step (k := State.setEvRate_kept ..)
    | with_reducible apply Kept.step (k := State.evlPut_kept ..)
    | with_reducible apply Kept.step (k := State.bump_kept ..)

theorem State.evlAppend_kept (s) (r) : Kept [.regs, .fns, .evRing, .evRate, .out] s (State.evlAppend s r) := by
  unfold State.evlAppend
  repeat' first
    | exact Eq.refl true
    | with_reducible assumption
    | with_reducible apply Kept.ite
    | with_reducible apply Kept.refl
    | with_reducible apply Kept.step (k := State.evlLost_kept ..)
    | with_reducible apply Kept.step (k := State.setEvRate_kept ..)
    | with_reducible apply Kept.step (k := State.evlPut_kept ..)
    | with_reducible apply Kept.step (k := State.raise_kept ..)
    | with_reducible apply Kept.step (k := State.bump_kept ..)

theorem execEvlogAppend_kept (r) (s) : OutKept [.regs, .fns, .evRing, .evWay, .evRate, .out] s (execEvlogAppend r s) := by
  unfold execEvlogAppend
  repeat' first
    | exact Eq.refl true
    | with_reducible assumption
    | with_reducible apply Kept.ite
    | with_reducible apply Kept.refl
    | with_reducible apply OutKept.ite
    | with_reducible apply OutKept.next
    | with_reducible apply OutKept.fault
    | with_reducible apply Kept.step (k := State.evlAppend_kept ..)
    | with_reducible refine Kept.foldl _ (fun _ _ => ?_) _ _
    | with_reducible apply Kept.step (k := Kept.foldl (m := [.regs, .fns, .evRing, .evWay, .evRate, .out]) _ (fun _ _ => ?_) _ _)
    | split
    | with_reducible apply Kept.step (k := Kept.evWay ..)

theorem execEvlogLost_kept (page) (s) : OutKept [.regs, .fns, .evRing, .evRate, .out] s (execEvlogLost page s) := by
  unfold execEvlogLost
  repeat' first
    | exact Eq.refl true
    | with_reducible assumption
    | with_reducible apply Kept.ite
    | with_reducible apply Kept.refl
    | with_reducible apply OutKept.ite
    | with_reducible apply OutKept.next
    | with_reducible apply OutKept.fault
    | with_reducible apply Kept.step (k := State.evlLost_kept ..)

/-! ### Ecc -/

theorem State.poolEcc_kept (s) (tile) (cru) (port) (off) (e) (poison) (scrub) : Kept [.fresh, .regs, .fns, .out] s (State.poolEcc s tile cru port off e poison scrub) := by
  unfold State.poolEcc
  repeat' first
    | exact Eq.refl true
    | with_reducible assumption
    | with_reducible apply Kept.ite
    | with_reducible apply Kept.refl
    | (extract_lets +onlyGivenNames x; refine Kept.via x ?_ ?_; (on_goal 1 => (unfold x; clear x)); on_goal 2 => (intro hx; clear_value x))
    | (extract_lets +onlyGivenNames x; clear_value x)
    | with_reducible apply Kept.step (k := State.tickFresh_kept ..)
    | with_reducible apply Kept.step (k := State.raise_kept ..)
    | with_reducible apply Kept.step (k := State.bump_kept ..)
    | with_reducible apply Kept.step (k := State.setReg_kept ..)
    | with_reducible refine Kept.foldl _ (fun _ _ => ?_) _ _
    | with_reducible apply Kept.step (k := Kept.foldl (m := [.fresh, .regs, .fns, .out]) _ (fun _ _ => ?_) _ _)
    | split

theorem State.peatEcc_kept (s) (tile) (port) (off) (e) (poison) (scrub) : Kept [.fresh, .regs, .fns, .out] s (State.peatEcc s tile port off e poison scrub) := by
  unfold State.peatEcc
  repeat' first
    | exact Eq.refl true
    | with_reducible assumption
    | with_reducible apply Kept.ite
    | with_reducible apply Kept.refl
    | (extract_lets +onlyGivenNames x; refine Kept.via x ?_ ?_; (on_goal 1 => (unfold x; clear x)); on_goal 2 => (intro hx; clear_value x))
    | (extract_lets +onlyGivenNames x; clear_value x)
    | with_reducible apply Kept.step (k := State.tickFresh_kept ..)
    | with_reducible apply Kept.step (k := State.raise_kept ..)
    | with_reducible apply Kept.step (k := State.bump_kept ..)
    | with_reducible apply Kept.step (k := State.setReg_kept ..)
    | with_reducible refine Kept.foldl _ (fun _ _ => ?_) _ _
    | with_reducible apply Kept.step (k := Kept.foldl (m := [.fresh, .regs, .fns, .out]) _ (fun _ _ => ?_) _ _)
    | split

theorem State.nearEcc_kept (s) (tile) (cru) (port) (peat) (off) (e) (poison) : Kept [.fresh, .regs, .fns, .out] s (State.nearEcc s tile cru port peat off e poison) := by
  unfold State.nearEcc
  repeat' first
    | exact Eq.refl true
    | with_reducible assumption
    | with_reducible apply Kept.ite
    | with_reducible apply Kept.refl
    | with_reducible apply Kept.step (k := State.peatEcc_kept ..)
    | with_reducible apply Kept.step (k := State.poolEcc_kept ..)

theorem State.countNearRead_kept (s) (tile) (cru) (off) (n) : Kept [.regs] s (State.countNearRead s tile cru off n) := by
  unfold State.countNearRead
  repeat' first
    | exact Eq.refl true
    | with_reducible assumption
    | with_reducible apply Kept.ite
    | with_reducible apply Kept.refl
    | (extract_lets +onlyGivenNames x; refine Kept.fn x ?_; unfold x; clear x)
    | (extract_lets +onlyGivenNames x; clear_value x)
    | with_reducible apply Kept.step (k := State.bump_kept ..)

theorem State.scrubStep_keptP (s) (key) (item) (last) : Kept [.scrubs] s (State.scrubStep s key item last).2 := by
  unfold State.scrubStep
  repeat' first
    | exact Eq.refl true
    | with_reducible assumption
    | with_reducible apply Kept.ite
    | with_reducible apply Kept.refl
    | with_reducible refine Kept.foldl _ (fun _ _ => ?_) _ _
    | with_reducible apply Kept.step (k := Kept.foldl (m := [.scrubs]) _ (fun _ _ => ?_) _ _)
    | split
    | with_reducible apply Kept.step (k := Kept.scrubs ..)
theorem State.scrubStep_kept {s key item last zz tt} (h : State.scrubStep s key item last = (zz, tt)) : Kept [.scrubs] s tt := by
  have := State.scrubStep_keptP s key item last
  rw [h] at this
  exact this

theorem State.countPool_kept (s) (tile) (ranges) : Kept [.regs] s (State.countPool s tile ranges) := by
  unfold State.countPool
  repeat' first
    | exact Eq.refl true
    | with_reducible assumption
    | with_reducible apply Kept.ite
    | with_reducible apply Kept.refl
    | with_reducible apply Kept.step (k := State.bump_kept ..)

/-! ### MireMem -/

theorem State.mireEcc_kept (s) (a) (sy) (ue) (poison) (scrub) : Kept [.regs, .fns, .evWay, .out] s (State.mireEcc s a sy ue poison scrub) := by
  unfold State.mireEcc
  repeat' first
    | exact Eq.refl true
    | with_reducible assumption
    | with_reducible apply Kept.ite
    | with_reducible apply Kept.refl
    | with_reducible apply Kept.step (k := State.log_kept ..)
    | with_reducible apply Kept.step (k := State.raise_kept ..)
    | with_reducible apply Kept.step (k := State.bump_kept ..)
    | with_reducible apply Kept.step (k := State.setReg_kept ..)

theorem State.raiseDown_kept (s) (a0) : Kept [.regs, .fns, .out] s (State.raiseDown s a0) := by
  induction a0 generalizing s with
  | nil => exact Kept.refl _ _
  | cons b r ih =>
    unfold State.raiseDown
    repeat' first
      | exact Eq.refl true
      | with_reducible assumption
      | with_reducible apply Kept.ite
      | with_reducible apply Kept.refl
      | with_reducible apply Kept.step (k := ih ..)
      | with_reducible apply Kept.step (k := State.raise_kept ..)

theorem State.activate_kept (s) (j) (l) : Kept [.banks] s (State.activate s j l) := by
  unfold State.activate
  repeat' first
    | exact Eq.refl true
    | with_reducible assumption
    | with_reducible apply Kept.ite
    | with_reducible apply Kept.refl
    | split
    | with_reducible apply Kept.step (k := Kept.banks ..)

theorem State.countMire_kept (s) (slot) (a0) : Kept [.regs, .banks] s (State.countMire s slot a0) := by
  induction a0 generalizing s slot with
  | nil => exact Kept.refl _ _
  | cons b r ih =>
    unfold State.countMire
    repeat' first
      | exact Eq.refl true
      | with_reducible assumption
      | with_reducible apply Kept.ite
      | with_reducible apply Kept.refl
      | with_reducible apply Kept.step (k := ih ..)
      | with_reducible apply Kept.step (k := State.activate_kept ..)
      | with_reducible apply Kept.step (k := State.bump_kept ..)

theorem State.mirePoisonHits_kept (s) (a0) : Kept [.regs, .fns, .evWay, .out] s (State.mirePoisonHits s a0) := by
  induction a0 generalizing s with
  | nil => exact Kept.refl _ _
  | cons b r ih =>
    unfold State.mirePoisonHits
    repeat' first
      | exact Eq.refl true
      | with_reducible assumption
      | with_reducible apply Kept.ite
      | with_reducible apply Kept.refl
      | with_reducible apply Kept.step (k := ih ..)
      | with_reducible apply Kept.step (k := State.mireEcc_kept ..)

theorem State.mireServeRead_keptP (s) (a) (n) : Kept [.regs, .banks, .fns, .evWay, .out] s (State.mireServeRead s a n).2 := by
  unfold State.mireServeRead
  repeat' first
    | exact Eq.refl true
    | with_reducible assumption
    | with_reducible apply Kept.ite
    | with_reducible apply Kept.refl
    | (extract_lets +onlyGivenNames x; clear_value x)
    | with_reducible apply Kept.step (k := State.mirePoisonHits_kept ..)
    | with_reducible apply Kept.step (k := State.countMire_kept ..)
    | with_reducible apply Kept.step (k := State.raiseDown_kept ..)
    | split
theorem State.mireServeRead_kept {s a n zz tt} (h : State.mireServeRead s a n = (zz, tt)) : Kept [.regs, .banks, .fns, .evWay, .out] s tt := by
  have := State.mireServeRead_keptP s a n
  rw [h] at this
  exact this

theorem State.mireReadBurst_keptP (s) (a) (n) (burst) (landed) (e) : Kept [.regs, .mireBad, .banks, .fns, .evWay, .out] s (State.mireReadBurst s a n burst landed e).2 := by
  unfold State.mireReadBurst
  repeat' first
    | exact Eq.refl true
    | with_reducible assumption
    | with_reducible apply Kept.ite
    | with_reducible apply Kept.refl
    | (extract_lets +onlyGivenNames x; clear_value x)
    | with_reducible refine Kept.step ?_ (State.mireServeRead_kept (by assumption)) ?_
    | with_reducible apply Kept.step (k := State.mireServeRead_keptP ..)
    | with_reducible apply Kept.step (k := State.mireEcc_kept ..)
    | split
    | with_reducible apply Kept.step (k := Kept.mireBad ..)
theorem State.mireReadBurst_kept {s a n burst landed e zz tt} (h : State.mireReadBurst s a n burst landed e = (zz, tt)) : Kept [.regs, .mireBad, .banks, .fns, .evWay, .out] s tt := by
  have := State.mireReadBurst_keptP s a n burst landed e
  rw [h] at this
  exact this

theorem State.mireTake_keptP (s) (a0) : Kept [.regs, .banks, .fns, .evWay, .out] s (State.mireTake s a0).2 := by
  induction a0 generalizing s with
  | nil => exact Kept.refl _ _
  | cons b r ih =>
    unfold State.mireTake
    repeat' first
      | exact Eq.refl true
      | with_reducible assumption
      | with_reducible apply Kept.ite
      | with_reducible apply Kept.refl
      | with_reducible apply Kept.step (k := ih ..)
      | with_reducible refine Kept.step ?_ (State.mireServeRead_kept (by assumption)) ?_
      | with_reducible apply Kept.step (k := State.mireServeRead_keptP ..)
      | split
theorem State.mireTake_kept {s a0 zz tt} (h : State.mireTake s a0 = (zz, tt)) : Kept [.regs, .banks, .fns, .evWay, .out] s tt := by
  have := State.mireTake_keptP s a0
  rw [h] at this
  exact this

theorem State.mireServeWrite_keptP (s) (a) (bs) : Kept [.regs, .mire, .mireBad, .banks, .fns, .out] s (State.mireServeWrite s a bs).2 := by
  unfold State.mireServeWrite
  repeat' first
    | exact Eq.refl true
    | with_reducible assumption
    | with_reducible apply Kept.ite
    | with_reducible apply Kept.refl
    | (extract_lets +onlyGivenNames x; clear_value x)
    | with_reducible apply Kept.step (k := State.countMire_kept ..)
    | with_reducible apply Kept.step (k := State.raiseDown_kept ..)
    | with_reducible apply Kept.step (k := State.writeMire_kept ..)
    | split
theorem State.mireServeWrite_kept {s a bs zz tt} (h : State.mireServeWrite s a bs = (zz, tt)) : Kept [.regs, .mire, .mireBad, .banks, .fns, .out] s tt := by
  have := State.mireServeWrite_keptP s a bs
  rw [h] at this
  exact this

/-! ### Thermal -/

theorem State.setSens_kept (s) (k) (x) : Kept [.sens] s (State.setSens s k x) := by
  unfold State.setSens
  repeat' first
    | exact Eq.refl true
    | with_reducible assumption
    | with_reducible apply Kept.ite
    | with_reducible apply Kept.refl
    | with_reducible refine Kept.foldl _ (fun _ _ => ?_) _ _
    | with_reducible apply Kept.step (k := Kept.foldl (m := [.sens]) _ (fun _ _ => ?_) _ _)
    | split
    | with_reducible apply Kept.step (k := Kept.sens ..)

theorem State.setSensReg_kept (s) (k) (v) : Kept [.regs] s (State.setSensReg s k v) := by
  unfold State.setSensReg
  repeat' first
    | exact Eq.refl true
    | with_reducible assumption
    | with_reducible apply Kept.ite
    | with_reducible apply Kept.refl
    | with_reducible apply Kept.step (k := State.setReg_kept ..)

theorem State.updSum_kept (s) (i) : Kept [.regs] s (State.updSum s i) := by
  unfold State.updSum
  repeat' first
    | exact Eq.refl true
    | with_reducible assumption
    | with_reducible apply Kept.ite
    | with_reducible apply Kept.refl
    | (extract_lets +onlyGivenNames x; clear_value x)
    | with_reducible apply Kept.step (k := State.setReg_kept ..)

theorem State.trustRule_kept (s) (i) (had) : Kept [.regs, .fns, .reports, .out] s (State.trustRule s i had) := by
  unfold State.trustRule
  repeat' first
    | exact Eq.refl true
    | with_reducible assumption
    | with_reducible apply Kept.ite
    | with_reducible apply Kept.refl
    | with_reducible apply Kept.step (k := State.setTrustLim_kept ..)
    | with_reducible apply Kept.step (k := State.report_kept ..)
    | with_reducible apply Kept.step (k := State.raise_kept ..)

theorem State.suspect_kept (s) (k) : Kept [.regs, .fns, .reports, .sens, .out] s (State.suspect s k) := by
  unfold State.suspect
  repeat' first
    | exact Eq.refl true
    | with_reducible assumption
    | with_reducible apply Kept.ite
    | with_reducible apply Kept.refl
    | (extract_lets +onlyGivenNames x; clear_value x)
    | with_reducible apply Kept.step (k := State.trustRule_kept ..)
    | with_reducible apply Kept.step (k := State.updSum_kept ..)
    | with_reducible apply Kept.step (k := State.setSensReg_kept ..)
    | with_reducible apply Kept.step (k := State.setSens_kept ..)
    | with_reducible apply Kept.step (k := State.raise_kept ..)
    | with_reducible apply Kept.step (k := State.bump_kept ..)

theorem State.retrust_kept (s) (k) : Kept [.regs, .fns, .reports, .sens, .out] s (State.retrust s k) := by
  unfold State.retrust
  repeat' first
    | exact Eq.refl true
    | with_reducible assumption
    | with_reducible apply Kept.ite
    | with_reducible apply Kept.refl
    | with_reducible apply Kept.step (k := State.trustRule_kept ..)
    | with_reducible apply Kept.step (k := State.updSum_kept ..)
    | with_reducible apply Kept.step (k := State.setSens_kept ..)

theorem State.levels_kept (s) (k) (v) : Kept [.regs, .fns, .sens, .out] s (State.levels s k v) := by
  unfold State.levels
  repeat' first
    | exact Eq.refl true
    | with_reducible assumption
    | with_reducible apply Kept.ite
    | with_reducible apply Kept.refl
    | with_reducible apply Kept.step (k := State.setSensReg_kept ..)
    | with_reducible apply Kept.step (k := State.setSens_kept ..)
    | with_reducible apply Kept.step (k := State.raise_kept ..)
    | with_reducible apply Kept.step (k := State.bump_kept ..)

theorem State.sample_kept (s) (k) (value) : Kept [.regs, .fns, .reports, .mon, .evWay, .sens, .out] s (State.sample s k value) := by
  unfold State.sample
  repeat' first
    | exact Eq.refl true
    | with_reducible assumption
    | with_reducible apply Kept.ite
    | with_reducible apply Kept.refl
    | (extract_lets +onlyGivenNames x; clear_value x)
    | with_reducible apply Kept.step (k := State.levels_kept ..)
    | with_reducible apply Kept.step (k := State.suspect_kept ..)
    | with_reducible apply Kept.step (k := State.updSum_kept ..)
    | with_reducible apply Kept.step (k := State.setSensReg_kept ..)
    | with_reducible apply Kept.step (k := State.monFeed_kept ..)
    | with_reducible refine Kept.foldl _ (fun _ _ => ?_) _ _
    | with_reducible apply Kept.step (k := Kept.foldl (m := [.regs, .fns, .reports, .mon, .evWay, .sens, .out]) _ (fun _ _ => ?_) _ _)
    | split

theorem execSensorSample_kept (r) (value) (s) : OutKept [.regs, .fns, .reports, .mon, .evWay, .sens, .out] s (execSensorSample r value s) := by
  unfold execSensorSample
  repeat' first
    | exact Eq.refl true
    | with_reducible assumption
    | with_reducible apply Kept.ite
    | with_reducible apply Kept.refl
    | with_reducible apply OutKept.ite
    | with_reducible apply OutKept.next
    | with_reducible apply OutKept.fault
    | with_reducible apply Kept.step (k := State.sample_kept ..)

theorem State.evalSensor_kept (s) (at0) (k) : Kept [.regs, .fns, .reports, .sens, .out] s (State.evalSensor s at0 k) := by
  unfold State.evalSensor
  repeat' first
    | exact Eq.refl true
    | with_reducible assumption
    | with_reducible apply Kept.ite
    | with_reducible apply Kept.refl
    | (extract_lets +onlyGivenNames x; clear_value x)
    | with_reducible apply Kept.step (k := State.suspect_kept ..)
    | with_reducible apply Kept.step (k := State.setSens_kept ..)
    | with_reducible refine Kept.foldl _ (fun _ _ => ?_) _ _
    | with_reducible apply Kept.step (k := Kept.foldl (m := [.regs, .fns, .reports, .sens, .out]) _ (fun _ _ => ?_) _ _)
    | split

theorem execTrustEval_kept (s) : OutKept [.regs, .fns, .reports, .sens, .out] s (execTrustEval s) := by
  unfold execTrustEval
  repeat' first
    | exact Eq.refl true
    | with_reducible assumption
    | with_reducible apply Kept.ite
    | with_reducible apply Kept.refl
    | with_reducible apply OutKept.ite
    | with_reducible apply OutKept.next
    | with_reducible apply OutKept.fault
    | with_reducible apply Kept.step (k := State.evalSensor_kept ..)
    | with_reducible refine Kept.foldl _ (fun _ _ => ?_) _ _

theorem sensHook_kept (w) (k) : Kept [.regs, .fns, .reports, .sens, .out] w.st (sensHook w k) := by
  unfold sensHook
  repeat' first
    | exact Eq.refl true
    | with_reducible assumption
    | with_reducible apply Kept.ite
    | with_reducible apply Kept.refl
    | with_reducible apply Kept.step (k := State.retrust_kept ..)

theorem execSensorRetrust_kept (who) (r) (v) (s) : OutKept [.regs, .wins, .guards, .shadows, .sealRun, .fns, .reports, .sens, .out] s (execSensorRetrust who r v s) := by
  unfold execSensorRetrust
  repeat' first
    | exact Eq.refl true
    | with_reducible assumption
    | with_reducible apply Kept.ite
    | with_reducible apply Kept.refl
    | (extract_lets +onlyGivenNames x; clear_value x)
    | with_reducible apply OutKept.ite
    | with_reducible apply OutKept.next
    | with_reducible apply OutKept.fault
    | with_reducible apply Kept.step (k := sensHook_kept ..)
    | with_reducible apply Kept.step (k := State.writeCore_kept ..)

theorem execThermalShutdown_kept (r) (s) : OutKept (.regs :: .wins :: .guards :: .shadows :: .mbxs :: .tapSets :: .pool :: .peat :: .mire :: .poolBad :: .peatBad :: .mireBad :: .tasks :: .crus :: .gates :: .slots :: .probes :: .rx :: .slotMap :: .routes :: .rimEpoch :: .genTab :: .net :: .arrivals :: .ports :: .laneTx :: .dieFence :: .pgQueue :: .movers :: .pgPushed :: .banks :: .scrubs :: .streams :: .beds :: .places :: .wmoves :: .rplaces :: .handRx :: .nextTag :: .kvAreas :: .castRun :: .casting :: .pours :: .cmds :: .queues :: .egress :: .fns :: .reports :: .mon :: .monTap :: .spdm :: .ramps :: .minvSeen :: .tide :: .khz :: .deferred :: .stepAt :: .lostPort :: .vlog :: .sens :: .quench :: .boot :: .sites :: .planDue :: .planAt :: .aging :: .heats :: .retires :: .charges :: .fixes :: .beats :: .out :: []) s (execThermalShutdown r s) := by
  unfold execThermalShutdown
  repeat' first
    | exact Eq.refl true
    | with_reducible assumption
    | with_reducible apply Kept.ite
    | with_reducible apply Kept.refl
    | (extract_lets +onlyGivenNames x; refine OutKept.via x ?_ ?_; (on_goal 1 => (unfold x; clear x)); on_goal 2 => (intro hx; clear_value x))
    | (extract_lets +onlyGivenNames x; clear_value x)
    | with_reducible apply OutKept.ite
    | with_reducible apply OutKept.next
    | with_reducible apply OutKept.fault
    | with_reducible apply Kept.step (k := State.dropMain_kept ..)
    | with_reducible apply Kept.step (k := State.raise_kept ..)
    | with_reducible apply Kept.step (k := State.bump_kept ..)
    | with_reducible apply Kept.step (k := State.setRb_kept ..)
    | with_reducible apply Kept.step (k := State.setReg_kept ..)
    | with_reducible refine Kept.foldl _ (fun _ _ => ?_) _ _
    | with_reducible apply Kept.step (k := Kept.foldl (m := (.regs :: .wins :: .guards :: .shadows :: .mbxs :: .tapSets :: .pool :: .peat :: .mire :: .poolBad :: .peatBad :: .mireBad :: .tasks :: .crus :: .gates :: .slots :: .probes :: .rx :: .slotMap :: .routes :: .rimEpoch :: .genTab :: .net :: .arrivals :: .ports :: .laneTx :: .dieFence :: .pgQueue :: .movers :: .pgPushed :: .banks :: .scrubs :: .streams :: .beds :: .places :: .wmoves :: .rplaces :: .handRx :: .nextTag :: .kvAreas :: .castRun :: .casting :: .pours :: .cmds :: .queues :: .egress :: .fns :: .reports :: .mon :: .monTap :: .spdm :: .ramps :: .minvSeen :: .tide :: .khz :: .deferred :: .stepAt :: .lostPort :: .vlog :: .sens :: .quench :: .boot :: .sites :: .planDue :: .planAt :: .aging :: .heats :: .retires :: .charges :: .fixes :: .beats :: .out :: [])) _ (fun _ _ => ?_) _ _)
    | split
    | with_reducible apply Kept.step (k := Kept.boot ..)

theorem execAutoRestart_kept (s) : OutKept (.fresh :: .regs :: .pool :: .peat :: .poolBad :: .peatBad :: .tasks :: .crus :: .slots :: .probes :: .rx :: .fns :: .evWay :: .ramps :: .khz :: .deferred :: .sens :: .boot :: .out :: []) s (execAutoRestart s) := by
  unfold execAutoRestart
  repeat' first
    | exact Eq.refl true
    | with_reducible assumption
    | with_reducible apply Kept.ite
    | with_reducible apply Kept.refl
    | with_reducible apply OutKept.ite
    | with_reducible apply OutKept.next
    | with_reducible apply OutKept.fault
    | with_reducible apply Kept.step (k := State.powerUp_kept ..)

theorem shutHook_kept (w) : Kept (.fresh :: .regs :: .wins :: .pool :: .peat :: .poolBad :: .peatBad :: .tasks :: .crus :: .slots :: .probes :: .rx :: .fns :: .evWay :: .ramps :: .khz :: .deferred :: .sens :: .boot :: .out :: []) w.st (shutHook w) := by
  unfold shutHook
  repeat' first
    | exact Eq.refl true
    | with_reducible assumption
    | with_reducible apply Kept.ite
    | with_reducible apply Kept.refl
    | (extract_lets +onlyGivenNames x; clear_value x)
    | with_reducible apply Kept.step (k := State.powerUp_kept ..)
    | with_reducible apply Kept.step (k := State.zeroBits_kept ..)
    | with_reducible apply Kept.step (k := State.setRb_kept ..)
    | with_reducible refine Kept.foldl _ (fun _ _ => ?_) _ _
    | with_reducible apply Kept.step (k := Kept.foldl (m := (.fresh :: .regs :: .wins :: .pool :: .peat :: .poolBad :: .peatBad :: .tasks :: .crus :: .slots :: .probes :: .rx :: .fns :: .evWay :: .ramps :: .khz :: .deferred :: .sens :: .boot :: .out :: [])) _ (fun _ _ => ?_) _ _)
    | split
    | with_reducible apply Kept.step (k := Kept.boot ..)

theorem execShutRestart_kept (who) (v) (s) : OutKept (.fresh :: .regs :: .wins :: .guards :: .shadows :: .sealRun :: .pool :: .peat :: .poolBad :: .peatBad :: .tasks :: .crus :: .slots :: .probes :: .rx :: .fns :: .evWay :: .ramps :: .khz :: .deferred :: .sens :: .boot :: .out :: []) s (execShutRestart who v s) := by
  unfold execShutRestart
  repeat' first
    | exact Eq.refl true
    | with_reducible assumption
    | with_reducible apply Kept.ite
    | with_reducible apply Kept.refl
    | with_reducible apply OutKept.ite
    | with_reducible apply OutKept.next
    | with_reducible apply OutKept.fault
    | with_reducible apply Kept.step (k := shutHook_kept ..)
    | with_reducible apply Kept.step (k := State.writeCore_kept ..)

theorem State.sendQuench_kept (s) (i) (lim) : Kept [.quench] s (State.sendQuench s i lim) := by
  unfold State.sendQuench
  repeat' first
    | exact Eq.refl true
    | with_reducible assumption
    | with_reducible apply Kept.ite
    | with_reducible apply Kept.refl
    | (extract_lets +onlyGivenNames x; clear_value x)
    | with_reducible refine Kept.foldl _ (fun _ _ => ?_) _ _
    | with_reducible apply Kept.step (k := Kept.foldl (m := [.quench]) _ (fun _ _ => ?_) _ _)
    | split
    | with_reducible apply Kept.step (k := Kept.quench ..)

theorem State.setTimer_kept (s) (i) (t) : Kept [.quench] s (State.setTimer s i t) := by
  unfold State.setTimer
  repeat' first
    | exact Eq.refl true
    | with_reducible assumption
    | with_reducible apply Kept.ite
    | with_reducible apply Kept.refl
    | (extract_lets +onlyGivenNames x; clear_value x)
    | with_reducible refine Kept.foldl _ (fun _ _ => ?_) _ _
    | with_reducible apply Kept.step (k := Kept.foldl (m := [.quench]) _ (fun _ _ => ?_) _ _)
    | split
    | with_reducible apply Kept.step (k := Kept.quench ..)

theorem State.quenchState_kept (s) (i) (v) : Kept [.regs] s (State.quenchState s i v) := by
  unfold State.quenchState
  repeat' first
    | exact Eq.refl true
    | with_reducible assumption
    | with_reducible apply Kept.ite
    | with_reducible apply Kept.refl
    | with_reducible apply Kept.step (k := State.setRf_kept ..)

theorem State.quenchRelease_kept (s) (i) : Kept [.regs, .quench] s (State.quenchRelease s i) := by
  unfold State.quenchRelease
  repeat' first
    | exact Eq.refl true
    | with_reducible assumption
    | with_reducible apply Kept.ite
    | with_reducible apply Kept.refl
    | (extract_lets +onlyGivenNames x; refine Kept.via x ?_ ?_; (on_goal 1 => (unfold x; clear x)); on_goal 2 => (intro hx; clear_value x))
    | (extract_lets +onlyGivenNames x; clear_value x)
    | with_reducible apply Kept.step (k := State.quenchState_kept ..)
    | with_reducible apply Kept.step (k := State.setTimer_kept ..)
    | with_reducible apply Kept.step (k := State.sendQuench_kept ..)
    | with_reducible apply Kept.step (k := State.bump_kept ..)
    | with_reducible refine Kept.foldl _ (fun _ _ => ?_) _ _
    | with_reducible apply Kept.step (k := Kept.foldl (m := [.regs, .quench]) _ (fun _ _ => ?_) _ _)
    | split

theorem execQuenchStep_kept (s) : OutKept [.regs, .quench] s (execQuenchStep s) := by
  unfold execQuenchStep
  repeat' first
    | exact Eq.refl true
    | with_reducible assumption
    | with_reducible apply Kept.ite
    | with_reducible apply Kept.refl
    | (extract_lets +onlyGivenNames x; refine OutKept.via x ?_ ?_; (on_goal 1 => (unfold x; clear x)); on_goal 2 => (intro hx; clear_value x))
    | (extract_lets +onlyGivenNames x; clear_value x)
    | with_reducible apply OutKept.ite
    | with_reducible apply OutKept.next
    | with_reducible apply OutKept.fault
    | with_reducible apply Kept.step (k := State.quenchRelease_kept ..)
    | with_reducible apply Kept.step (k := State.quenchState_kept ..)
    | with_reducible apply Kept.step (k := State.setTimer_kept ..)
    | with_reducible apply Kept.step (k := State.sendQuench_kept ..)
    | with_reducible apply Kept.step (k := State.bump_kept ..)
    | with_reducible refine Kept.foldl _ (fun _ _ => ?_) _ _
    | with_reducible apply Kept.step (k := Kept.foldl (m := [.regs, .quench]) _ (fun _ _ => ?_) _ _)
    | split

theorem execQuenchLimUpdate_kept (tile) (lim) (s) : OutKept [.regs, .quench] s (execQuenchLimUpdate tile lim s) := by
  unfold execQuenchLimUpdate
  repeat' first
    | exact Eq.refl true
    | with_reducible assumption
    | with_reducible apply Kept.ite
    | with_reducible apply Kept.refl
    | (extract_lets +onlyGivenNames x; refine OutKept.via x ?_ ?_; (on_goal 1 => (unfold x; clear x)); on_goal 2 => (intro hx; clear_value x))
    | (extract_lets +onlyGivenNames x; clear_value x)
    | with_reducible apply OutKept.ite
    | with_reducible apply OutKept.next
    | with_reducible apply OutKept.fault
    | with_reducible apply Kept.step (k := State.setQuenchLim_kept ..)
    | with_reducible apply Kept.step (k := State.setFields_kept ..)
    | with_reducible refine Kept.foldl _ (fun _ _ => ?_) _ _
    | with_reducible apply Kept.step (k := Kept.foldl (m := [.regs, .quench]) _ (fun _ _ => ?_) _ _)
    | split
    | with_reducible apply Kept.step (k := Kept.quench ..)

theorem State.busOk_kept (s) : Kept [.regs, .fns, .tray, .out] s (State.busOk s) := by
  unfold State.busOk
  repeat' first
    | exact Eq.refl true
    | with_reducible assumption
    | with_reducible apply Kept.ite
    | with_reducible apply Kept.refl
    | (extract_lets +onlyGivenNames x; clear_value x)
    | with_reducible apply Kept.step (k := State.raise_kept ..)
    | with_reducible apply Kept.step (k := State.setRb_kept ..)
    | with_reducible refine Kept.foldl _ (fun _ _ => ?_) _ _
    | with_reducible apply Kept.step (k := Kept.foldl (m := [.regs, .fns, .tray, .out]) _ (fun _ _ => ?_) _ _)
    | split
    | with_reducible apply Kept.step (k := Kept.tray ..)

theorem execTrayRead_kept (which) (value) (s) : OutKept [.regs, .fns, .tray, .out] s (execTrayRead which value s) := by
  unfold execTrayRead
  repeat' first
    | exact Eq.refl true
    | with_reducible assumption
    | with_reducible apply Kept.ite
    | with_reducible apply Kept.refl
    | (extract_lets +onlyGivenNames x; clear_value x)
    | with_reducible apply OutKept.ite
    | with_reducible apply OutKept.next
    | with_reducible apply OutKept.fault
    | with_reducible apply Kept.step (k := State.busOk_kept ..)
    | with_reducible apply Kept.step (k := State.bump_kept ..)
    | with_reducible apply Kept.step (k := State.setRf_kept ..)
    | with_reducible refine Kept.foldl _ (fun _ _ => ?_) _ _
    | with_reducible apply Kept.step (k := Kept.foldl (m := [.regs, .fns, .tray, .out]) _ (fun _ _ => ?_) _ _)
    | split
    | with_reducible apply Kept.step (k := Kept.tray ..)

theorem execFlowWindow_kept (pulses) (s) : OutKept [.regs, .fns, .tray, .out] s (execFlowWindow pulses s) := by
  unfold execFlowWindow
  repeat' first
    | exact Eq.refl true
    | with_reducible assumption
    | with_reducible apply Kept.ite
    | with_reducible apply Kept.refl
    | (extract_lets +onlyGivenNames x; refine OutKept.via x ?_ ?_; (on_goal 1 => (unfold x; clear x)); on_goal 2 => (intro hx; clear_value x))
    | (extract_lets +onlyGivenNames x; clear_value x)
    | with_reducible apply OutKept.ite
    | with_reducible apply OutKept.next
    | with_reducible apply OutKept.fault
    | with_reducible apply Kept.step (k := State.busOk_kept ..)
    | with_reducible apply Kept.step (k := State.bump_kept ..)
    | with_reducible apply Kept.step (k := State.setRf_kept ..)
    | with_reducible refine Kept.foldl _ (fun _ _ => ?_) _ _
    | with_reducible apply Kept.step (k := Kept.foldl (m := [.regs, .fns, .tray, .out]) _ (fun _ _ => ?_) _ _)
    | split
    | with_reducible apply Kept.step (k := Kept.tray ..)

theorem execCoolingJudge_kept (s) : OutKept [.regs, .fns, .evWay, .tray, .out] s (execCoolingJudge s) := by
  unfold execCoolingJudge
  repeat' first
    | exact Eq.refl true
    | with_reducible assumption
    | with_reducible apply Kept.ite
    | with_reducible apply Kept.refl
    | (extract_lets +onlyGivenNames x; refine OutKept.via x ?_ ?_; (on_goal 1 => (unfold x; clear x)); on_goal 2 => (intro hx; clear_value x))
    | (extract_lets +onlyGivenNames x; clear_value x)
    | with_reducible apply OutKept.ite
    | with_reducible apply OutKept.next
    | with_reducible apply OutKept.fault
    | with_reducible apply Kept.step (k := State.log_kept ..)
    | with_reducible apply Kept.step (k := State.raise_kept ..)
    | with_reducible apply Kept.step (k := State.setFields_kept ..)
    | with_reducible apply Kept.step (k := State.setRf_kept ..)
    | with_reducible apply Kept.step (k := State.setReg_kept ..)
    | with_reducible refine Kept.foldl _ (fun _ _ => ?_) _ _
    | with_reducible apply Kept.step (k := Kept.foldl (m := [.regs, .fns, .evWay, .tray, .out]) _ (fun _ _ => ?_) _ _)
    | split
    | with_reducible apply Kept.step (k := Kept.tray ..)

/-! ### Boot -/

theorem State.coldState_kept (s) : Kept (.now :: .up :: .sub :: .regs :: .wins :: .guards :: .shadows :: .mbxs :: .tapSets :: .tap :: .sealRun :: .timeSet :: .pool :: .peat :: .mire :: .poolBad :: .peatBad :: .mireBad :: .tasks :: .crus :: .gates :: .slots :: .probes :: .rx :: .slotMap :: .routes :: .rimEpoch :: .genTab :: .net :: .arrivals :: .ports :: .laneTx :: .dieFence :: .pgQueue :: .movers :: .pgPushed :: .banks :: .scrubs :: .streams :: .beds :: .places :: .wmoves :: .rplaces :: .handRx :: .nextTag :: .kvAreas :: .castRun :: .casting :: .pours :: .cmds :: .queues :: .egress :: .fns :: .reports :: .mon :: .monTap :: .evRing :: .spdm :: .eid :: .evWay :: .evRate :: .ramps :: .minvSeen :: .tide :: .khz :: .deferred :: .stepAt :: .lostPort :: .vlog :: .ptp :: .sens :: .quench :: .tray :: .boot :: .sites :: .planDue :: .planAt :: .aging :: .heats :: .retires :: .charges :: .fixes :: .beats :: .lastRead :: []) s (State.coldState s) := by
  refine ⟨rfl, fun h => ?_⟩
  rw [State.canonical_iff] at h ⊢
  exact ⟨rfl, rfl, rfl, rfl, rfl, h.2.2.2.2.2.1, rfl⟩

theorem execVauxOn_kept (s) : OutKept (.now :: .up :: .sub :: .fresh :: .regs :: .wins :: .guards :: .shadows :: .mbxs :: .tapSets :: .tap :: .sealRun :: .timeSet :: .pool :: .peat :: .mire :: .poolBad :: .peatBad :: .mireBad :: .tasks :: .crus :: .gates :: .slots :: .probes :: .rx :: .slotMap :: .routes :: .rimEpoch :: .genTab :: .net :: .arrivals :: .ports :: .laneTx :: .dieFence :: .pgQueue :: .movers :: .pgPushed :: .banks :: .scrubs :: .streams :: .beds :: .places :: .wmoves :: .rplaces :: .handRx :: .nextTag :: .kvAreas :: .castRun :: .casting :: .pours :: .cmds :: .queues :: .egress :: .fns :: .reports :: .mon :: .monTap :: .evRing :: .spdm :: .eid :: .evWay :: .evRate :: .ramps :: .minvSeen :: .tide :: .khz :: .deferred :: .stepAt :: .lostPort :: .vlog :: .ptp :: .sens :: .quench :: .tray :: .boot :: .sites :: .planDue :: .planAt :: .aging :: .heats :: .retires :: .charges :: .fixes :: .beats :: .lastRead :: []) s (execVauxOn s) := by
  unfold execVauxOn
  repeat' first
    | exact Eq.refl true
    | with_reducible assumption
    | with_reducible apply Kept.ite
    | with_reducible apply Kept.refl
    | (extract_lets +onlyGivenNames x; refine OutKept.via x ?_ ?_; (on_goal 1 => (unfold x; clear x)); on_goal 2 => (intro hx; clear_value x))
    | (extract_lets +onlyGivenNames x; clear_value x)
    | with_reducible apply OutKept.ite
    | with_reducible apply OutKept.next
    | with_reducible apply OutKept.fault
    | with_reducible apply Kept.step (k := State.coldState_kept ..)
    | with_reducible apply Kept.step (k := State.tickFresh_kept ..)
    | with_reducible apply Kept.step (k := State.setRf_kept ..)
    | with_reducible apply Kept.step (k := State.setReg_kept ..)
    | with_reducible refine Kept.foldl _ (fun _ _ => ?_) _ _
    | with_reducible apply Kept.step (k := Kept.foldl (m := (.now :: .up :: .sub :: .fresh :: .regs :: .wins :: .guards :: .shadows :: .mbxs :: .tapSets :: .tap :: .sealRun :: .timeSet :: .pool :: .peat :: .mire :: .poolBad :: .peatBad :: .mireBad :: .tasks :: .crus :: .gates :: .slots :: .probes :: .rx :: .slotMap :: .routes :: .rimEpoch :: .genTab :: .net :: .arrivals :: .ports :: .laneTx :: .dieFence :: .pgQueue :: .movers :: .pgPushed :: .banks :: .scrubs :: .streams :: .beds :: .places :: .wmoves :: .rplaces :: .handRx :: .nextTag :: .kvAreas :: .castRun :: .casting :: .pours :: .cmds :: .queues :: .egress :: .fns :: .reports :: .mon :: .monTap :: .evRing :: .spdm :: .eid :: .evWay :: .evRate :: .ramps :: .minvSeen :: .tide :: .khz :: .deferred :: .stepAt :: .lostPort :: .vlog :: .ptp :: .sens :: .quench :: .tray :: .boot :: .sites :: .planDue :: .planAt :: .aging :: .heats :: .retires :: .charges :: .fixes :: .beats :: .lastRead :: [])) _ (fun _ _ => ?_) _ _)
    | split
    | with_reducible apply Kept.step (k := Kept.boot ..)

theorem execVauxLost_kept (s) : OutKept (.now :: .up :: .sub :: .regs :: .wins :: .guards :: .shadows :: .mbxs :: .tapSets :: .tap :: .sealRun :: .timeSet :: .pool :: .peat :: .mire :: .poolBad :: .peatBad :: .mireBad :: .tasks :: .crus :: .gates :: .slots :: .probes :: .rx :: .slotMap :: .routes :: .rimEpoch :: .genTab :: .net :: .arrivals :: .ports :: .laneTx :: .dieFence :: .pgQueue :: .movers :: .pgPushed :: .banks :: .scrubs :: .streams :: .beds :: .places :: .wmoves :: .rplaces :: .handRx :: .nextTag :: .kvAreas :: .castRun :: .casting :: .pours :: .cmds :: .queues :: .egress :: .fns :: .reports :: .mon :: .monTap :: .evRing :: .spdm :: .eid :: .evWay :: .evRate :: .ramps :: .minvSeen :: .tide :: .khz :: .deferred :: .stepAt :: .lostPort :: .vlog :: .ptp :: .sens :: .quench :: .tray :: .boot :: .flash :: .sites :: .planDue :: .planAt :: .aging :: .heats :: .retires :: .charges :: .fixes :: .beats :: .lastRead :: []) s (execVauxLost s) := by
  unfold execVauxLost
  repeat' first
    | exact Eq.refl true
    | with_reducible assumption
    | with_reducible apply Kept.ite
    | with_reducible apply Kept.refl
    | (extract_lets +onlyGivenNames x; refine OutKept.via x ?_ ?_; (on_goal 1 => (unfold x; clear x)); on_goal 2 => (intro hx; clear_value x))
    | (extract_lets +onlyGivenNames x; clear_value x)
    | with_reducible apply OutKept.ite
    | with_reducible apply OutKept.next
    | with_reducible apply OutKept.fault
    | with_reducible apply Kept.step (k := State.coldState_kept ..)
    | with_reducible refine Kept.foldl _ (fun _ _ => ?_) _ _
    | with_reducible apply Kept.step (k := Kept.foldl (m := (.now :: .up :: .sub :: .regs :: .wins :: .guards :: .shadows :: .mbxs :: .tapSets :: .tap :: .sealRun :: .timeSet :: .pool :: .peat :: .mire :: .poolBad :: .peatBad :: .mireBad :: .tasks :: .crus :: .gates :: .slots :: .probes :: .rx :: .slotMap :: .routes :: .rimEpoch :: .genTab :: .net :: .arrivals :: .ports :: .laneTx :: .dieFence :: .pgQueue :: .movers :: .pgPushed :: .banks :: .scrubs :: .streams :: .beds :: .places :: .wmoves :: .rplaces :: .handRx :: .nextTag :: .kvAreas :: .castRun :: .casting :: .pours :: .cmds :: .queues :: .egress :: .fns :: .reports :: .mon :: .monTap :: .evRing :: .spdm :: .eid :: .evWay :: .evRate :: .ramps :: .minvSeen :: .tide :: .khz :: .deferred :: .stepAt :: .lostPort :: .vlog :: .ptp :: .sens :: .quench :: .tray :: .boot :: .flash :: .sites :: .planDue :: .planAt :: .aging :: .heats :: .retires :: .charges :: .fixes :: .beats :: .lastRead :: [])) _ (fun _ _ => ?_) _ _)
    | split
    | with_reducible apply Kept.step (k := Kept.flash ..)

theorem State.setStew_kept (s) (st) (slot) : Kept [.regs] s (State.setStew s st slot) := by
  unfold State.setStew
  repeat' first
    | exact Eq.refl true
    | with_reducible assumption
    | with_reducible apply Kept.ite
    | with_reducible apply Kept.refl
    | with_reducible apply Kept.step (k := State.setFields_kept ..)
    | with_reducible refine Kept.foldl _ (fun _ _ => ?_) _ _

theorem State.fwBoot_kept (s) (m) (slot) : Kept [.regs, .boot] s (State.fwBoot s m slot) := by
  unfold State.fwBoot
  repeat' first
    | exact Eq.refl true
    | with_reducible assumption
    | with_reducible apply Kept.ite
    | with_reducible apply Kept.refl
    | (extract_lets +onlyGivenNames x; refine Kept.via x ?_ ?_; (on_goal 1 => (unfold x; clear x)); on_goal 2 => (intro hx; clear_value x))
    | (extract_lets +onlyGivenNames x; clear_value x)
    | with_reducible apply Kept.step (k := State.setStew_kept ..)
    | with_reducible apply Kept.step (k := State.setRf_kept ..)
    | with_reducible refine Kept.foldl _ (fun _ _ => ?_) _ _
    | with_reducible apply Kept.step (k := Kept.foldl (m := [.regs, .boot]) _ (fun _ _ => ?_) _ _)
    | split
    | with_reducible apply Kept.step (k := Kept.boot ..)

theorem execFwVerify_kept (slot0) (slot1) (s) : OutKept [.regs, .fns, .evWay, .boot, .out] s (execFwVerify slot0 slot1 s) := by
  unfold execFwVerify
  repeat' first
    | exact Eq.refl true
    | with_reducible assumption
    | with_reducible apply Kept.ite
    | with_reducible apply Kept.refl
    | (extract_lets +onlyGivenNames x; refine OutKept.via x ?_ ?_; (on_goal 1 => (unfold x; clear x)); on_goal 2 => (intro hx; clear_value x))
    | (extract_lets +onlyGivenNames x; clear_value x)
    | with_reducible apply OutKept.ite
    | with_reducible apply OutKept.next
    | with_reducible apply OutKept.fault
    | with_reducible apply Kept.step (k := State.fwBoot_kept ..)
    | with_reducible apply Kept.step (k := State.setStew_kept ..)
    | with_reducible apply Kept.step (k := State.log_kept ..)
    | with_reducible apply Kept.step (k := State.raise_kept ..)
    | with_reducible apply Kept.step (k := State.bump_kept ..)
    | with_reducible apply Kept.step (k := State.setRf_kept ..)

theorem execMainPowerEnable_kept (s) : OutKept (.fresh :: .regs :: .pool :: .peat :: .poolBad :: .peatBad :: .tasks :: .crus :: .slots :: .probes :: .rx :: .fns :: .evWay :: .ramps :: .khz :: .deferred :: .sens :: .boot :: .out :: []) s (execMainPowerEnable s) := by
  unfold execMainPowerEnable
  repeat' first
    | exact Eq.refl true
    | with_reducible assumption
    | with_reducible apply Kept.ite
    | with_reducible apply Kept.refl
    | with_reducible apply OutKept.ite
    | with_reducible apply OutKept.next
    | with_reducible apply OutKept.fault
    | with_reducible apply Kept.step (k := State.powerUp_kept ..)

theorem execMainInhAssert_kept (s) : OutKept (.regs :: .wins :: .guards :: .shadows :: .mbxs :: .tapSets :: .pool :: .peat :: .mire :: .poolBad :: .peatBad :: .mireBad :: .tasks :: .crus :: .gates :: .slots :: .probes :: .rx :: .slotMap :: .routes :: .rimEpoch :: .genTab :: .net :: .arrivals :: .ports :: .laneTx :: .dieFence :: .pgQueue :: .movers :: .pgPushed :: .banks :: .scrubs :: .streams :: .beds :: .places :: .wmoves :: .rplaces :: .handRx :: .nextTag :: .kvAreas :: .castRun :: .casting :: .pours :: .cmds :: .queues :: .egress :: .fns :: .reports :: .mon :: .monTap :: .spdm :: .ramps :: .minvSeen :: .tide :: .khz :: .deferred :: .stepAt :: .lostPort :: .vlog :: .sens :: .quench :: .boot :: .sites :: .planDue :: .planAt :: .aging :: .heats :: .retires :: .charges :: .fixes :: .beats :: []) s (execMainInhAssert s) := by
  unfold execMainInhAssert
  repeat' first
    | exact Eq.refl true
    | with_reducible assumption
    | with_reducible apply Kept.ite
    | with_reducible apply Kept.refl
    | (extract_lets +onlyGivenNames x; refine OutKept.via x ?_ ?_; (on_goal 1 => (unfold x; clear x)); on_goal 2 => (intro hx; clear_value x))
    | (extract_lets +onlyGivenNames x; clear_value x)
    | with_reducible apply OutKept.ite
    | with_reducible apply OutKept.next
    | with_reducible apply OutKept.fault
    | with_reducible apply Kept.step (k := State.dropMain_kept ..)
    | with_reducible refine Kept.foldl _ (fun _ _ => ?_) _ _
    | with_reducible apply Kept.step (k := Kept.foldl (m := (.regs :: .wins :: .guards :: .shadows :: .mbxs :: .tapSets :: .pool :: .peat :: .mire :: .poolBad :: .peatBad :: .mireBad :: .tasks :: .crus :: .gates :: .slots :: .probes :: .rx :: .slotMap :: .routes :: .rimEpoch :: .genTab :: .net :: .arrivals :: .ports :: .laneTx :: .dieFence :: .pgQueue :: .movers :: .pgPushed :: .banks :: .scrubs :: .streams :: .beds :: .places :: .wmoves :: .rplaces :: .handRx :: .nextTag :: .kvAreas :: .castRun :: .casting :: .pours :: .cmds :: .queues :: .egress :: .fns :: .reports :: .mon :: .monTap :: .spdm :: .ramps :: .minvSeen :: .tide :: .khz :: .deferred :: .stepAt :: .lostPort :: .vlog :: .sens :: .quench :: .boot :: .sites :: .planDue :: .planAt :: .aging :: .heats :: .retires :: .charges :: .fixes :: .beats :: [])) _ (fun _ _ => ?_) _ _)
    | split
    | with_reducible apply Kept.step (k := Kept.boot ..)

theorem execMainInhDeassert_kept (s) : OutKept [.boot] s (execMainInhDeassert s) := by
  unfold execMainInhDeassert
  repeat' first
    | exact Eq.refl true
    | with_reducible assumption
    | with_reducible apply Kept.ite
    | with_reducible apply Kept.refl
    | (extract_lets +onlyGivenNames x; clear_value x)
    | with_reducible apply OutKept.ite
    | with_reducible apply OutKept.next
    | with_reducible apply OutKept.fault
    | with_reducible refine Kept.foldl _ (fun _ _ => ?_) _ _
    | with_reducible apply Kept.step (k := Kept.foldl (m := [.boot]) _ (fun _ _ => ?_) _ _)
    | split
    | with_reducible apply Kept.step (k := Kept.boot ..)

theorem State.phaseAt_kept (s) (n) : Kept [.regs] s (State.phaseAt s n) := by
  unfold State.phaseAt
  repeat' first
    | exact Eq.refl true
    | with_reducible assumption
    | with_reducible apply Kept.ite
    | with_reducible apply Kept.refl
    | with_reducible apply Kept.step (k := State.setRf_kept ..)

theorem execMireBringup_kept (stack) (ok) (s) : OutKept [.regs, .mire, .mireBad, .fns, .out] s (execMireBringup stack ok s) := by
  unfold execMireBringup
  repeat' first
    | exact Eq.refl true
    | with_reducible assumption
    | with_reducible apply Kept.ite
    | with_reducible apply Kept.refl
    | (extract_lets +onlyGivenNames x; refine OutKept.via x ?_ ?_; (on_goal 1 => (unfold x; clear x)); on_goal 2 => (intro hx; clear_value x))
    | (extract_lets +onlyGivenNames x; clear_value x)
    | with_reducible apply OutKept.ite
    | with_reducible apply OutKept.next
    | with_reducible apply OutKept.fault
    | with_reducible apply Kept.step (k := State.phaseAt_kept ..)
    | with_reducible apply Kept.step (k := State.raise_kept ..)
    | with_reducible apply Kept.step (k := State.setRf_kept ..)
    | with_reducible refine Kept.foldl _ (fun _ _ => ?_) _ _
    | with_reducible apply Kept.step (k := Kept.foldl (m := [.regs, .mire, .mireBad, .fns, .out]) _ (fun _ _ => ?_) _ _)
    | split
    | with_reducible apply Kept.step (k := Kept.mire_mireBad _ _ _ (Store.set_wf 0 _ _ _))
    | with_reducible apply Kept.step (k := Kept.mire_mireBad _ _ _ (putBytes_wf _ _ _))
    | with_reducible apply Kept.step (k := Kept.mire_mireBad _ _ _ (Store.keep_wf 0 _ _))

theorem State.setSite_kept (s) (i) (x) : Kept [.sites] s (State.setSite s i x) := by
  unfold State.setSite
  repeat' first
    | exact Eq.refl true
    | with_reducible assumption
    | with_reducible apply Kept.ite
    | with_reducible apply Kept.refl
    | with_reducible refine Kept.foldl _ (fun _ _ => ?_) _ _
    | with_reducible apply Kept.step (k := Kept.foldl (m := [.sites]) _ (fun _ _ => ?_) _ _)
    | split
    | with_reducible apply Kept.step (k := Kept.sites ..)

theorem State.settleUnreached_kept (s) : Kept [.sites] s (State.settleUnreached s) := by
  unfold State.settleUnreached
  repeat' first
    | exact Eq.refl true
    | with_reducible assumption
    | with_reducible apply Kept.ite
    | with_reducible apply Kept.refl
    | (extract_lets +onlyGivenNames x; clear_value x)
    | with_reducible apply Kept.step (k := State.setSite_kept ..)
    | with_reducible refine Kept.foldl _ (fun _ _ => ?_) _ _

theorem State.dropHot_kept (s) : Kept (.regs :: .wins :: .guards :: .shadows :: .mbxs :: .tapSets :: .pool :: .peat :: .mire :: .poolBad :: .peatBad :: .mireBad :: .tasks :: .crus :: .gates :: .slots :: .probes :: .rx :: .slotMap :: .routes :: .rimEpoch :: .genTab :: .net :: .arrivals :: .ports :: .laneTx :: .dieFence :: .pgQueue :: .movers :: .pgPushed :: .banks :: .scrubs :: .streams :: .beds :: .places :: .wmoves :: .rplaces :: .handRx :: .nextTag :: .kvAreas :: .castRun :: .casting :: .pours :: .cmds :: .queues :: .egress :: .fns :: .reports :: .mon :: .monTap :: .spdm :: .ramps :: .minvSeen :: .tide :: .khz :: .deferred :: .stepAt :: .lostPort :: .vlog :: .sens :: .quench :: .boot :: .sites :: .planDue :: .planAt :: .aging :: .heats :: .retires :: .charges :: .fixes :: .beats :: []) s (State.dropHot s) := by
  unfold State.dropHot
  repeat' first
    | exact Eq.refl true
    | with_reducible assumption
    | with_reducible apply Kept.ite
    | with_reducible apply Kept.refl
    | (extract_lets +onlyGivenNames x; refine Kept.via x ?_ ?_; (on_goal 1 => (unfold x; clear x)); on_goal 2 => (intro hx; clear_value x))
    | (extract_lets +onlyGivenNames x; clear_value x)
    | with_reducible apply Kept.step (k := State.dropMain_kept ..)
    | with_reducible refine Kept.foldl _ (fun _ _ => ?_) _ _
    | with_reducible apply Kept.step (k := Kept.foldl (m := (.regs :: .wins :: .guards :: .shadows :: .mbxs :: .tapSets :: .pool :: .peat :: .mire :: .poolBad :: .peatBad :: .mireBad :: .tasks :: .crus :: .gates :: .slots :: .probes :: .rx :: .slotMap :: .routes :: .rimEpoch :: .genTab :: .net :: .arrivals :: .ports :: .laneTx :: .dieFence :: .pgQueue :: .movers :: .pgPushed :: .banks :: .scrubs :: .streams :: .beds :: .places :: .wmoves :: .rplaces :: .handRx :: .nextTag :: .kvAreas :: .castRun :: .casting :: .pours :: .cmds :: .queues :: .egress :: .fns :: .reports :: .mon :: .monTap :: .spdm :: .ramps :: .minvSeen :: .tide :: .khz :: .deferred :: .stepAt :: .lostPort :: .vlog :: .sens :: .quench :: .boot :: .sites :: .planDue :: .planAt :: .aging :: .heats :: .retires :: .charges :: .fixes :: .beats :: [])) _ (fun _ _ => ?_) _ _)
    | split
    | with_reducible apply Kept.step (k := Kept.boot ..)

theorem execTileTest_kept (tile) (s) : OutKept (.fresh :: .regs :: .wins :: .guards :: .shadows :: .mbxs :: .tapSets :: .pool :: .peat :: .mire :: .poolBad :: .peatBad :: .mireBad :: .tasks :: .crus :: .gates :: .slots :: .probes :: .rx :: .slotMap :: .routes :: .rimEpoch :: .genTab :: .net :: .arrivals :: .ports :: .laneTx :: .dieFence :: .pgQueue :: .movers :: .pgPushed :: .banks :: .scrubs :: .streams :: .beds :: .places :: .wmoves :: .rplaces :: .handRx :: .nextTag :: .kvAreas :: .castRun :: .casting :: .pours :: .cmds :: .queues :: .egress :: .fns :: .reports :: .mon :: .monTap :: .spdm :: .ramps :: .minvSeen :: .tide :: .khz :: .deferred :: .stepAt :: .lostPort :: .vlog :: .sens :: .quench :: .boot :: .sites :: .planDue :: .planAt :: .aging :: .heats :: .retires :: .charges :: .fixes :: .beats :: []) s (execTileTest tile s) := by
  unfold execTileTest
  repeat' first
    | exact Eq.refl true
    | with_reducible assumption
    | with_reducible apply Kept.ite
    | with_reducible apply Kept.refl
    | (extract_lets +onlyGivenNames x; refine OutKept.via x ?_ ?_; (on_goal 1 => (unfold x; clear x)); on_goal 2 => (intro hx; clear_value x))
    | (extract_lets +onlyGivenNames x; clear_value x)
    | with_reducible apply OutKept.ite
    | with_reducible apply OutKept.next
    | with_reducible apply OutKept.fault
    | with_reducible apply Kept.step (k := State.dropHot_kept ..)
    | with_reducible apply Kept.step (k := State.setSite_kept ..)
    | with_reducible apply Kept.step (k := State.phaseAt_kept ..)
    | with_reducible apply Kept.step (k := State.wakeTile_kept ..)
    | with_reducible apply Kept.step (k := State.bump_kept ..)
    | with_reducible apply Kept.step (k := State.setFields_kept ..)
    | with_reducible refine Kept.foldl _ (fun _ _ => ?_) _ _
    | with_reducible apply Kept.step (k := Kept.foldl (m := (.fresh :: .regs :: .wins :: .guards :: .shadows :: .mbxs :: .tapSets :: .pool :: .peat :: .mire :: .poolBad :: .peatBad :: .mireBad :: .tasks :: .crus :: .gates :: .slots :: .probes :: .rx :: .slotMap :: .routes :: .rimEpoch :: .genTab :: .net :: .arrivals :: .ports :: .laneTx :: .dieFence :: .pgQueue :: .movers :: .pgPushed :: .banks :: .scrubs :: .streams :: .beds :: .places :: .wmoves :: .rplaces :: .handRx :: .nextTag :: .kvAreas :: .castRun :: .casting :: .pours :: .cmds :: .queues :: .egress :: .fns :: .reports :: .mon :: .monTap :: .spdm :: .ramps :: .minvSeen :: .tide :: .khz :: .deferred :: .stepAt :: .lostPort :: .vlog :: .sens :: .quench :: .boot :: .sites :: .planDue :: .planAt :: .aging :: .heats :: .retires :: .charges :: .fixes :: .beats :: [])) _ (fun _ _ => ?_) _ _)
    | split

theorem State.trainEnd_kept (s) (i) (p) (mask) : Kept [.regs, .laneTx] s (State.trainEnd s i p mask) := by
  unfold State.trainEnd
  repeat' first
    | exact Eq.refl true
    | with_reducible assumption
    | with_reducible apply Kept.ite
    | with_reducible apply Kept.refl
    | with_reducible apply Kept.step (k := State.setLane_kept ..)
    | with_reducible apply Kept.step (k := State.setRf_kept ..)
    | with_reducible refine Kept.foldl _ (fun _ _ => ?_) _ _
    | with_reducible apply Kept.step (k := Kept.foldl (m := [.regs, .laneTx]) _ (fun _ _ => ?_) _ _)

theorem State.trainLink_kept (s) (i) (x) : Kept [.regs, .laneTx] s (State.trainLink s i x) := by
  unfold State.trainLink
  repeat' first
    | exact Eq.refl true
    | with_reducible assumption
    | with_reducible apply Kept.ite
    | with_reducible apply Kept.refl
    | (extract_lets +onlyGivenNames x; refine Kept.via x ?_ ?_; (on_goal 1 => (unfold x; clear x)); on_goal 2 => (intro hx; clear_value x))
    | with_reducible apply Kept.step (k := State.trainEnd_kept ..)
    | with_reducible refine Kept.foldl _ (fun _ _ => ?_) _ _
    | with_reducible apply Kept.step (k := Kept.foldl (m := [.regs, .laneTx]) _ (fun _ _ => ?_) _ _)
    | split

theorem State.wipeTile_kept (s) (i) : Kept [.fresh, .pool, .peat, .poolBad, .peatBad, .tasks, .crus, .gates, .slots, .probes, .rx, .khz, .deferred] s (State.wipeTile s i) := by
  unfold State.wipeTile
  repeat' first
    | exact Eq.refl true
    | with_reducible assumption
    | with_reducible apply Kept.ite
    | with_reducible apply Kept.refl
    | (extract_lets +onlyGivenNames x; refine Kept.via x ?_ ?_; (on_goal 1 => (unfold x; clear x)); on_goal 2 => (intro hx; clear_value x))
    | with_reducible apply Kept.step (k := State.loseLayer_kept ..)
    | with_reducible apply Kept.step (k := State.loseCrucible_kept ..)
    | with_reducible refine Kept.foldl _ (fun _ _ => ?_) _ _
    | with_reducible apply Kept.step (k := Kept.foldl (m := [.fresh, .pool, .peat, .poolBad, .peatBad, .tasks, .crus, .gates, .slots, .probes, .rx, .khz, .deferred]) _ (fun _ _ => ?_) _ _)
    | split
    | with_reducible apply Kept.step (k := Kept.gates _ _ (Store.set_wf 0 _ _ _))
    | with_reducible apply Kept.step (k := Kept.gates _ _ (putBytes_wf _ _ _))
    | with_reducible apply Kept.step (k := Kept.gates _ _ (Store.keep_wf 0 _ _))
    | with_reducible apply Kept.step (k := Kept.gates _ _ (fun _ => rfl))
    | with_reducible apply Kept.step (k := Kept.gates _ _ (outside_wf 0 _ _ _))

theorem State.baselines_kept (s) (i) : Kept [.aging] s (State.baselines s i) := by
  unfold State.baselines
  repeat' first
    | exact Eq.refl true
    | with_reducible assumption
    | with_reducible apply Kept.ite
    | with_reducible apply Kept.refl
    | with_reducible refine Kept.foldl _ (fun _ _ => ?_) _ _
    | with_reducible apply Kept.step (k := Kept.foldl (m := [.aging]) _ (fun _ _ => ?_) _ _)
    | split
    | with_reducible apply Kept.step (k := Kept.aging ..)

theorem execTileTestDone_kept (tile) (result) (lanes) (s) : OutKept (.fresh :: .regs :: .pool :: .peat :: .poolBad :: .peatBad :: .tasks :: .crus :: .gates :: .slots :: .probes :: .rx :: .laneTx :: .ramps :: .khz :: .deferred :: .sites :: .aging :: []) s (execTileTestDone tile result lanes s) := by
  unfold execTileTestDone
  repeat' first
    | exact Eq.refl true
    | with_reducible assumption
    | with_reducible apply Kept.ite
    | with_reducible apply Kept.refl
    | (extract_lets +onlyGivenNames x; refine OutKept.via x ?_ ?_; (on_goal 1 => (unfold x; clear x)); on_goal 2 => (intro hx; clear_value x))
    | (extract_lets +onlyGivenNames x; clear_value x)
    | with_reducible apply OutKept.ite
    | with_reducible apply OutKept.next
    | with_reducible apply OutKept.fault
    | with_reducible apply Kept.step (k := State.baselines_kept ..)
    | with_reducible apply Kept.step (k := State.wipeTile_kept ..)
    | with_reducible apply Kept.step (k := State.trainLink_kept ..)
    | with_reducible apply Kept.step (k := State.settleUnreached_kept ..)
    | with_reducible apply Kept.step (k := State.setSite_kept ..)
    | with_reducible apply Kept.step (k := State.offDomains_kept ..)
    | with_reducible apply Kept.step (k := State.spareDomains_kept ..)
    | with_reducible refine Kept.foldl _ (fun _ _ => ?_) _ _
    | with_reducible apply Kept.step (k := Kept.foldl (m := (.fresh :: .regs :: .pool :: .peat :: .poolBad :: .peatBad :: .tasks :: .crus :: .gates :: .slots :: .probes :: .rx :: .laneTx :: .ramps :: .khz :: .deferred :: .sites :: .aging :: [])) _ (fun _ _ => ?_) _ _)

theorem State.updMargin_kept (s) : Kept [.regs] s (State.updMargin s) := by
  unfold State.updMargin
  repeat' first
    | exact Eq.refl true
    | with_reducible assumption
    | with_reducible apply Kept.ite
    | with_reducible apply Kept.refl
    | (extract_lets +onlyGivenNames x; clear_value x)
    | with_reducible apply Kept.step (k := State.setReg_kept ..)
    | with_reducible refine Kept.foldl _ (fun _ _ => ?_) _ _
    | with_reducible apply Kept.step (k := Kept.foldl (m := [.regs]) _ (fun _ _ => ?_) _ _)
    | split

theorem State.planTile_kept (s) (i) : Kept [.regs, .fns, .flash, .planDue, .planAt, .out] s (State.planTile s i) := by
  unfold State.planTile
  repeat' first
    | exact Eq.refl true
    | with_reducible assumption
    | with_reducible apply Kept.ite
    | with_reducible apply Kept.refl
    | (extract_lets +onlyGivenNames x; refine Kept.via x ?_ ?_; (on_goal 1 => (unfold x; clear x)); on_goal 2 => (intro hx; clear_value x))
    | (extract_lets +onlyGivenNames x; refine Kept.fn x ?_; unfold x; clear x)
    | (extract_lets +onlyGivenNames x; clear_value x)
    | with_reducible apply Kept.step (k := State.updMargin_kept ..)
    | with_reducible apply Kept.step (k := State.setTarget_kept ..)
    | with_reducible apply Kept.step (k := State.raise_kept ..)
    | with_reducible apply Kept.step (k := State.bump_kept ..)
    | with_reducible apply Kept.step (k := State.setRf_kept ..)
    | with_reducible apply Kept.step (k := State.setReg_kept ..)
    | with_reducible refine Kept.foldl _ (fun _ _ => ?_) _ _
    | with_reducible apply Kept.step (k := Kept.foldl (m := [.regs, .fns, .flash, .planDue, .planAt, .out]) _ (fun _ _ => ?_) _ _)
    | split
    | with_reducible apply Kept.step (k := Kept.flash_planDue_planAt ..)

theorem execReplan_kept (tile) (s) : OutKept [.regs, .fns, .flash, .planDue, .planAt, .out] s (execReplan tile s) := by
  unfold execReplan
  repeat' first
    | exact Eq.refl true
    | with_reducible assumption
    | with_reducible apply Kept.ite
    | with_reducible apply Kept.refl
    | (extract_lets +onlyGivenNames x; clear_value x)
    | with_reducible apply OutKept.ite
    | with_reducible apply OutKept.next
    | with_reducible apply OutKept.fault
    | with_reducible apply Kept.step (k := State.planTile_kept ..)

theorem ageHook_kept (w) (i) : Kept [.regs, .planDue] w.st (ageHook w i) := by
  unfold ageHook
  repeat' first
    | exact Eq.refl true
    | with_reducible assumption
    | with_reducible apply Kept.ite
    | with_reducible apply Kept.refl
    | with_reducible apply Kept.step (k := State.setRb_kept ..)
    | with_reducible refine Kept.foldl _ (fun _ _ => ?_) _ _
    | with_reducible apply Kept.step (k := Kept.foldl (m := [.regs, .planDue]) _ (fun _ _ => ?_) _ _)
    | split
    | with_reducible apply Kept.step (k := Kept.planDue ..)

theorem execAgeReplanWrite_kept (who) (tile) (v) (s) : OutKept [.regs, .wins, .guards, .shadows, .sealRun, .fns, .planDue, .out] s (execAgeReplanWrite who tile v s) := by
  unfold execAgeReplanWrite
  repeat' first
    | exact Eq.refl true
    | with_reducible assumption
    | with_reducible apply Kept.ite
    | with_reducible apply Kept.refl
    | with_reducible apply OutKept.ite
    | with_reducible apply OutKept.next
    | with_reducible apply OutKept.fault
    | with_reducible apply Kept.step (k := ageHook_kept ..)
    | with_reducible apply Kept.step (k := State.writeCore_kept ..)

theorem execAgeSample_kept (tile) (cru) (drift) (osc) (s) : OutKept [.regs, .fns, .flash, .planDue, .aging, .out] s (execAgeSample tile cru drift osc s) := by
  unfold execAgeSample
  repeat' first
    | exact Eq.refl true
    | with_reducible assumption
    | with_reducible apply Kept.ite
    | with_reducible apply Kept.refl
    | (extract_lets +onlyGivenNames x; refine OutKept.via x ?_ ?_; (on_goal 1 => (unfold x; clear x)); on_goal 2 => (intro hx; clear_value x))
    | (extract_lets +onlyGivenNames x; clear_value x)
    | with_reducible apply OutKept.ite
    | with_reducible apply OutKept.next
    | with_reducible apply OutKept.fault
    | with_reducible apply Kept.step (k := State.raise_kept ..)
    | with_reducible apply Kept.step (k := State.bump_kept ..)
    | with_reducible apply Kept.step (k := State.setReg_kept ..)
    | with_reducible refine Kept.foldl _ (fun _ _ => ?_) _ _
    | with_reducible apply Kept.step (k := Kept.foldl (m := [.regs, .fns, .flash, .planDue, .aging, .out]) _ (fun _ _ => ?_) _ _)
    | split
    | with_reducible apply Kept.step (k := Kept.aging ..)
    | with_reducible apply Kept.step (k := Kept.flash ..)
    | with_reducible apply Kept.step (k := Kept.planDue ..)

theorem State.loadDrifts_kept (s) (i) : Kept [.regs] s (State.loadDrifts s i) := by
  unfold State.loadDrifts
  repeat' first
    | exact Eq.refl true
    | with_reducible assumption
    | with_reducible apply Kept.ite
    | with_reducible apply Kept.refl
    | with_reducible apply Kept.step (k := State.setRf_kept ..)
    | with_reducible refine Kept.foldl _ (fun _ _ => ?_) _ _

theorem State.recordSite_kept (s) (i) : Kept [.regs, .fns, .sites, .out] s (State.recordSite s i) := by
  unfold State.recordSite
  repeat' first
    | exact Eq.refl true
    | with_reducible assumption
    | with_reducible apply Kept.ite
    | with_reducible apply Kept.refl
    | with_reducible apply Kept.step (k := State.setSite_kept ..)
    | with_reducible apply Kept.step (k := State.setTstate_kept ..)
    | with_reducible apply Kept.step (k := State.raise_kept ..)

theorem execSiteMapRecord_kept (flashOk) (s) : OutKept [.regs, .fns, .flash, .sites, .planDue, .planAt, .out] s (execSiteMapRecord flashOk s) := by
  unfold execSiteMapRecord
  repeat' first
    | exact Eq.refl true
    | with_reducible assumption
    | with_reducible apply Kept.ite
    | with_reducible apply Kept.refl
    | (extract_lets +onlyGivenNames x; refine OutKept.via x ?_ ?_; (on_goal 1 => (unfold x; clear x)); on_goal 2 => (intro hx; clear_value x))
    | (extract_lets +onlyGivenNames x; clear_value x)
    | with_reducible apply OutKept.ite
    | with_reducible apply OutKept.next
    | with_reducible apply OutKept.fault
    | with_reducible apply Kept.step (k := State.recordSite_kept ..)
    | with_reducible apply Kept.step (k := State.loadDrifts_kept ..)
    | with_reducible apply Kept.step (k := State.planTile_kept ..)
    | with_reducible apply Kept.step (k := State.alignTime_kept ..)
    | with_reducible apply Kept.step (k := State.raise_kept ..)
    | with_reducible apply Kept.step (k := State.setFields_kept ..)
    | with_reducible refine Kept.foldl _ (fun _ _ => ?_) _ _
    | with_reducible apply Kept.step (k := Kept.foldl (m := [.regs, .fns, .flash, .sites, .planDue, .planAt, .out]) _ (fun _ _ => ?_) _ _)
    | split
    | with_reducible apply Kept.step (k := Kept.flash ..)

theorem execBootReady_kept (s) : OutKept [.regs, .fns, .evWay, .boot, .flash, .out] s (execBootReady s) := by
  unfold execBootReady
  repeat' first
    | exact Eq.refl true
    | with_reducible assumption
    | with_reducible apply Kept.ite
    | with_reducible apply Kept.refl
    | (extract_lets +onlyGivenNames x; refine OutKept.via x ?_ ?_; (on_goal 1 => (unfold x; clear x)); on_goal 2 => (intro hx; clear_value x))
    | (extract_lets +onlyGivenNames x; clear_value x)
    | with_reducible apply OutKept.ite
    | with_reducible apply OutKept.next
    | with_reducible apply OutKept.fault
    | with_reducible apply Kept.step (k := State.log_kept ..)
    | with_reducible apply Kept.step (k := State.raise_kept ..)
    | with_reducible apply Kept.step (k := State.bump_kept ..)
    | with_reducible apply Kept.step (k := State.setFields_kept ..)
    | with_reducible apply Kept.step (k := State.setRf_kept ..)
    | with_reducible refine Kept.foldl _ (fun _ _ => ?_) _ _
    | with_reducible apply Kept.step (k := Kept.foldl (m := [.regs, .fns, .evWay, .boot, .flash, .out]) _ (fun _ _ => ?_) _ _)
    | split
    | with_reducible apply Kept.step (k := Kept.flash ..)
    | with_reducible apply Kept.step (k := Kept.boot ..)

end Sys2Proof.Machine
end

