-- ==== Sys2Proof/Laws/KeptCrucible.lean ====
section
/-! SUPPORT. What the commands and operations of scalar and tensor instructions and the units may change. -/
namespace Sys2Proof.Machine
set_option linter.unusedVariables false

/-! ### Scalar -/

theorem State.onTask_kept (s) (t) (f) : Kept [.tasks] s (State.onTask s t f) := by
  unfold State.onTask
  repeat' first
    | exact Eq.refl true
    | with_reducible assumption
    | with_reducible apply Kept.ite
    | with_reducible apply Kept.refl
    | with_reducible apply Kept.step (k := State.setTask_kept ..)

theorem State.scalarStep_kept (s) (t) (ill) (pred) (uses) (f) : Kept [.fresh, .regs, .pool, .peat, .tasks, .crus, .slots, .probes, .rx, .fns, .reports, .out] s (State.scalarStep s t ill pred uses f) := by
  unfold State.scalarStep
  repeat' first
    | exact Eq.refl true
    | with_reducible assumption
    | with_reducible apply Kept.ite
    | with_reducible apply Kept.refl
    | with_reducible apply Kept.step (k := State.onTask_kept ..)
    | with_reducible refine Kept.step ?_ (State.issue_kept (m := [.fresh, .regs, .pool, .peat, .tasks, .crus, .slots, .probes, .rx, .fns, .reports, .out]) ?_ (fun _ => ?_) ..) ?_
    | with_reducible apply Kept.step (k := State.retire_kept ..)

theorem State.aluReg_kept (s) (t) (pred) (rd) (rs1) (rs2) (f) : Kept [.fresh, .regs, .pool, .peat, .tasks, .crus, .slots, .probes, .rx, .fns, .reports, .out] s (State.aluReg s t pred rd rs1 rs2 f) := by
  unfold State.aluReg
  repeat' first
    | exact Eq.refl true
    | with_reducible assumption
    | with_reducible apply Kept.ite
    | with_reducible apply Kept.refl
    | with_reducible apply Kept.step (k := State.scalarStep_kept ..)

theorem State.aluImm_kept (s) (t) (ill) (pred) (rd) (rs1) (f) : Kept [.fresh, .regs, .pool, .peat, .tasks, .crus, .slots, .probes, .rx, .fns, .reports, .out] s (State.aluImm s t ill pred rd rs1 f) := by
  unfold State.aluImm
  repeat' first
    | exact Eq.refl true
    | with_reducible assumption
    | with_reducible apply Kept.ite
    | with_reducible apply Kept.refl
    | with_reducible apply Kept.step (k := State.scalarStep_kept ..)

theorem State.compare_kept (s) (t) (pred) (rd) (rs1) (rs2) (f) : Kept [.fresh, .regs, .pool, .peat, .tasks, .crus, .slots, .probes, .rx, .fns, .reports, .out] s (State.compare s t pred rd rs1 rs2 f) := by
  unfold State.compare
  repeat' first
    | exact Eq.refl true
    | with_reducible assumption
    | with_reducible apply Kept.ite
    | with_reducible apply Kept.refl
    | with_reducible apply Kept.step (k := State.scalarStep_kept ..)

theorem State.predLogic_kept (s) (t) (pred) (rd) (rs1) (rs2) (f) : Kept [.fresh, .regs, .pool, .peat, .tasks, .crus, .slots, .probes, .rx, .fns, .reports, .out] s (State.predLogic s t pred rd rs1 rs2 f) := by
  unfold State.predLogic
  repeat' first
    | exact Eq.refl true
    | with_reducible assumption
    | with_reducible apply Kept.ite
    | with_reducible apply Kept.refl
    | with_reducible apply Kept.step (k := State.scalarStep_kept ..)

theorem execAdd_kept (t) (pred) (rd) (rs1) (rs2) (s) : OutKept [.fresh, .regs, .pool, .peat, .tasks, .crus, .slots, .probes, .rx, .fns, .reports, .out] s (execAdd t pred rd rs1 rs2 s) := by
  unfold execAdd
  repeat' first
    | exact Eq.refl true
    | with_reducible assumption
    | with_reducible apply Kept.ite
    | with_reducible apply Kept.refl
    | with_reducible apply OutKept.ite
    | with_reducible apply OutKept.next
    | with_reducible apply OutKept.fault
    | with_reducible apply Kept.step (k := State.aluReg_kept ..)

theorem execSub_kept (t) (pred) (rd) (rs1) (rs2) (s) : OutKept [.fresh, .regs, .pool, .peat, .tasks, .crus, .slots, .probes, .rx, .fns, .reports, .out] s (execSub t pred rd rs1 rs2 s) := by
  unfold execSub
  repeat' first
    | exact Eq.refl true
    | with_reducible assumption
    | with_reducible apply Kept.ite
    | with_reducible apply Kept.refl
    | with_reducible apply OutKept.ite
    | with_reducible apply OutKept.next
    | with_reducible apply OutKept.fault
    | with_reducible apply Kept.step (k := State.aluReg_kept ..)

theorem execAnd_kept (t) (pred) (rd) (rs1) (rs2) (s) : OutKept [.fresh, .regs, .pool, .peat, .tasks, .crus, .slots, .probes, .rx, .fns, .reports, .out] s (execAnd t pred rd rs1 rs2 s) := by
  unfold execAnd
  repeat' first
    | exact Eq.refl true
    | with_reducible assumption
    | with_reducible apply Kept.ite
    | with_reducible apply Kept.refl
    | with_reducible apply OutKept.ite
    | with_reducible apply OutKept.next
    | with_reducible apply OutKept.fault
    | with_reducible apply Kept.step (k := State.aluReg_kept ..)

theorem execOr_kept (t) (pred) (rd) (rs1) (rs2) (s) : OutKept [.fresh, .regs, .pool, .peat, .tasks, .crus, .slots, .probes, .rx, .fns, .reports, .out] s (execOr t pred rd rs1 rs2 s) := by
  unfold execOr
  repeat' first
    | exact Eq.refl true
    | with_reducible assumption
    | with_reducible apply Kept.ite
    | with_reducible apply Kept.refl
    | with_reducible apply OutKept.ite
    | with_reducible apply OutKept.next
    | with_reducible apply OutKept.fault
    | with_reducible apply Kept.step (k := State.aluReg_kept ..)

theorem execXor_kept (t) (pred) (rd) (rs1) (rs2) (s) : OutKept [.fresh, .regs, .pool, .peat, .tasks, .crus, .slots, .probes, .rx, .fns, .reports, .out] s (execXor t pred rd rs1 rs2 s) := by
  unfold execXor
  repeat' first
    | exact Eq.refl true
    | with_reducible assumption
    | with_reducible apply Kept.ite
    | with_reducible apply Kept.refl
    | with_reducible apply OutKept.ite
    | with_reducible apply OutKept.next
    | with_reducible apply OutKept.fault
    | with_reducible apply Kept.step (k := State.aluReg_kept ..)

theorem execSll_kept (t) (pred) (rd) (rs1) (rs2) (s) : OutKept [.fresh, .regs, .pool, .peat, .tasks, .crus, .slots, .probes, .rx, .fns, .reports, .out] s (execSll t pred rd rs1 rs2 s) := by
  unfold execSll
  repeat' first
    | exact Eq.refl true
    | with_reducible assumption
    | with_reducible apply Kept.ite
    | with_reducible apply Kept.refl
    | with_reducible apply OutKept.ite
    | with_reducible apply OutKept.next
    | with_reducible apply OutKept.fault
    | with_reducible apply Kept.step (k := State.aluReg_kept ..)

theorem execSrl_kept (t) (pred) (rd) (rs1) (rs2) (s) : OutKept [.fresh, .regs, .pool, .peat, .tasks, .crus, .slots, .probes, .rx, .fns, .reports, .out] s (execSrl t pred rd rs1 rs2 s) := by
  unfold execSrl
  repeat' first
    | exact Eq.refl true
    | with_reducible assumption
    | with_reducible apply Kept.ite
    | with_reducible apply Kept.refl
    | with_reducible apply OutKept.ite
    | with_reducible apply OutKept.next
    | with_reducible apply OutKept.fault
    | with_reducible apply Kept.step (k := State.aluReg_kept ..)

theorem execSra_kept (t) (pred) (rd) (rs1) (rs2) (s) : OutKept [.fresh, .regs, .pool, .peat, .tasks, .crus, .slots, .probes, .rx, .fns, .reports, .out] s (execSra t pred rd rs1 rs2 s) := by
  unfold execSra
  repeat' first
    | exact Eq.refl true
    | with_reducible assumption
    | with_reducible apply Kept.ite
    | with_reducible apply Kept.refl
    | with_reducible apply OutKept.ite
    | with_reducible apply OutKept.next
    | with_reducible apply OutKept.fault
    | with_reducible apply Kept.step (k := State.aluReg_kept ..)

theorem execMul_kept (t) (pred) (rd) (rs1) (rs2) (s) : OutKept [.fresh, .regs, .pool, .peat, .tasks, .crus, .slots, .probes, .rx, .fns, .reports, .out] s (execMul t pred rd rs1 rs2 s) := by
  unfold execMul
  repeat' first
    | exact Eq.refl true
    | with_reducible assumption
    | with_reducible apply Kept.ite
    | with_reducible apply Kept.refl
    | with_reducible apply OutKept.ite
    | with_reducible apply OutKept.next
    | with_reducible apply OutKept.fault
    | with_reducible apply Kept.step (k := State.aluReg_kept ..)

theorem execMulhu_kept (t) (pred) (rd) (rs1) (rs2) (s) : OutKept [.fresh, .regs, .pool, .peat, .tasks, .crus, .slots, .probes, .rx, .fns, .reports, .out] s (execMulhu t pred rd rs1 rs2 s) := by
  unfold execMulhu
  repeat' first
    | exact Eq.refl true
    | with_reducible assumption
    | with_reducible apply Kept.ite
    | with_reducible apply Kept.refl
    | with_reducible apply OutKept.ite
    | with_reducible apply OutKept.next
    | with_reducible apply OutKept.fault
    | with_reducible apply Kept.step (k := State.aluReg_kept ..)

theorem execMin_kept (t) (pred) (rd) (rs1) (rs2) (s) : OutKept [.fresh, .regs, .pool, .peat, .tasks, .crus, .slots, .probes, .rx, .fns, .reports, .out] s (execMin t pred rd rs1 rs2 s) := by
  unfold execMin
  repeat' first
    | exact Eq.refl true
    | with_reducible assumption
    | with_reducible apply Kept.ite
    | with_reducible apply Kept.refl
    | with_reducible apply OutKept.ite
    | with_reducible apply OutKept.next
    | with_reducible apply OutKept.fault
    | with_reducible apply Kept.step (k := State.aluReg_kept ..)

theorem execMax_kept (t) (pred) (rd) (rs1) (rs2) (s) : OutKept [.fresh, .regs, .pool, .peat, .tasks, .crus, .slots, .probes, .rx, .fns, .reports, .out] s (execMax t pred rd rs1 rs2 s) := by
  unfold execMax
  repeat' first
    | exact Eq.refl true
    | with_reducible assumption
    | with_reducible apply Kept.ite
    | with_reducible apply Kept.refl
    | with_reducible apply OutKept.ite
    | with_reducible apply OutKept.next
    | with_reducible apply OutKept.fault
    | with_reducible apply Kept.step (k := State.aluReg_kept ..)

theorem execMinu_kept (t) (pred) (rd) (rs1) (rs2) (s) : OutKept [.fresh, .regs, .pool, .peat, .tasks, .crus, .slots, .probes, .rx, .fns, .reports, .out] s (execMinu t pred rd rs1 rs2 s) := by
  unfold execMinu
  repeat' first
    | exact Eq.refl true
    | with_reducible assumption
    | with_reducible apply Kept.ite
    | with_reducible apply Kept.refl
    | with_reducible apply OutKept.ite
    | with_reducible apply OutKept.next
    | with_reducible apply OutKept.fault
    | with_reducible apply Kept.step (k := State.aluReg_kept ..)

theorem execMaxu_kept (t) (pred) (rd) (rs1) (rs2) (s) : OutKept [.fresh, .regs, .pool, .peat, .tasks, .crus, .slots, .probes, .rx, .fns, .reports, .out] s (execMaxu t pred rd rs1 rs2 s) := by
  unfold execMaxu
  repeat' first
    | exact Eq.refl true
    | with_reducible assumption
    | with_reducible apply Kept.ite
    | with_reducible apply Kept.refl
    | with_reducible apply OutKept.ite
    | with_reducible apply OutKept.next
    | with_reducible apply OutKept.fault
    | with_reducible apply Kept.step (k := State.aluReg_kept ..)

theorem execCeq_kept (t) (pred) (rd) (rs1) (rs2) (s) : OutKept [.fresh, .regs, .pool, .peat, .tasks, .crus, .slots, .probes, .rx, .fns, .reports, .out] s (execCeq t pred rd rs1 rs2 s) := by
  unfold execCeq
  repeat' first
    | exact Eq.refl true
    | with_reducible assumption
    | with_reducible apply Kept.ite
    | with_reducible apply Kept.refl
    | with_reducible apply OutKept.ite
    | with_reducible apply OutKept.next
    | with_reducible apply OutKept.fault
    | with_reducible apply Kept.step (k := State.compare_kept ..)

theorem execCne_kept (t) (pred) (rd) (rs1) (rs2) (s) : OutKept [.fresh, .regs, .pool, .peat, .tasks, .crus, .slots, .probes, .rx, .fns, .reports, .out] s (execCne t pred rd rs1 rs2 s) := by
  unfold execCne
  repeat' first
    | exact Eq.refl true
    | with_reducible assumption
    | with_reducible apply Kept.ite
    | with_reducible apply Kept.refl
    | with_reducible apply OutKept.ite
    | with_reducible apply OutKept.next
    | with_reducible apply OutKept.fault
    | with_reducible apply Kept.step (k := State.compare_kept ..)

theorem execClt_kept (t) (pred) (rd) (rs1) (rs2) (s) : OutKept [.fresh, .regs, .pool, .peat, .tasks, .crus, .slots, .probes, .rx, .fns, .reports, .out] s (execClt t pred rd rs1 rs2 s) := by
  unfold execClt
  repeat' first
    | exact Eq.refl true
    | with_reducible assumption
    | with_reducible apply Kept.ite
    | with_reducible apply Kept.refl
    | with_reducible apply OutKept.ite
    | with_reducible apply OutKept.next
    | with_reducible apply OutKept.fault
    | with_reducible apply Kept.step (k := State.compare_kept ..)

theorem execCge_kept (t) (pred) (rd) (rs1) (rs2) (s) : OutKept [.fresh, .regs, .pool, .peat, .tasks, .crus, .slots, .probes, .rx, .fns, .reports, .out] s (execCge t pred rd rs1 rs2 s) := by
  unfold execCge
  repeat' first
    | exact Eq.refl true
    | with_reducible assumption
    | with_reducible apply Kept.ite
    | with_reducible apply Kept.refl
    | with_reducible apply OutKept.ite
    | with_reducible apply OutKept.next
    | with_reducible apply OutKept.fault
    | with_reducible apply Kept.step (k := State.compare_kept ..)

theorem execCltu_kept (t) (pred) (rd) (rs1) (rs2) (s) : OutKept [.fresh, .regs, .pool, .peat, .tasks, .crus, .slots, .probes, .rx, .fns, .reports, .out] s (execCltu t pred rd rs1 rs2 s) := by
  unfold execCltu
  repeat' first
    | exact Eq.refl true
    | with_reducible assumption
    | with_reducible apply Kept.ite
    | with_reducible apply Kept.refl
    | with_reducible apply OutKept.ite
    | with_reducible apply OutKept.next
    | with_reducible apply OutKept.fault
    | with_reducible apply Kept.step (k := State.compare_kept ..)

theorem execCgeu_kept (t) (pred) (rd) (rs1) (rs2) (s) : OutKept [.fresh, .regs, .pool, .peat, .tasks, .crus, .slots, .probes, .rx, .fns, .reports, .out] s (execCgeu t pred rd rs1 rs2 s) := by
  unfold execCgeu
  repeat' first
    | exact Eq.refl true
    | with_reducible assumption
    | with_reducible apply Kept.ite
    | with_reducible apply Kept.refl
    | with_reducible apply OutKept.ite
    | with_reducible apply OutKept.next
    | with_reducible apply OutKept.fault
    | with_reducible apply Kept.step (k := State.compare_kept ..)

theorem execPand_kept (t) (pred) (rd) (rs1) (rs2) (s) : OutKept [.fresh, .regs, .pool, .peat, .tasks, .crus, .slots, .probes, .rx, .fns, .reports, .out] s (execPand t pred rd rs1 rs2 s) := by
  unfold execPand
  repeat' first
    | exact Eq.refl true
    | with_reducible assumption
    | with_reducible apply Kept.ite
    | with_reducible apply Kept.refl
    | with_reducible apply OutKept.ite
    | with_reducible apply OutKept.next
    | with_reducible apply OutKept.fault
    | with_reducible apply Kept.step (k := State.predLogic_kept ..)

theorem execPor_kept (t) (pred) (rd) (rs1) (rs2) (s) : OutKept [.fresh, .regs, .pool, .peat, .tasks, .crus, .slots, .probes, .rx, .fns, .reports, .out] s (execPor t pred rd rs1 rs2 s) := by
  unfold execPor
  repeat' first
    | exact Eq.refl true
    | with_reducible assumption
    | with_reducible apply Kept.ite
    | with_reducible apply Kept.refl
    | with_reducible apply OutKept.ite
    | with_reducible apply OutKept.next
    | with_reducible apply OutKept.fault
    | with_reducible apply Kept.step (k := State.predLogic_kept ..)

theorem execPxor_kept (t) (pred) (rd) (rs1) (rs2) (s) : OutKept [.fresh, .regs, .pool, .peat, .tasks, .crus, .slots, .probes, .rx, .fns, .reports, .out] s (execPxor t pred rd rs1 rs2 s) := by
  unfold execPxor
  repeat' first
    | exact Eq.refl true
    | with_reducible assumption
    | with_reducible apply Kept.ite
    | with_reducible apply Kept.refl
    | with_reducible apply OutKept.ite
    | with_reducible apply OutKept.next
    | with_reducible apply OutKept.fault
    | with_reducible apply Kept.step (k := State.predLogic_kept ..)

theorem execPandn_kept (t) (pred) (rd) (rs1) (rs2) (s) : OutKept [.fresh, .regs, .pool, .peat, .tasks, .crus, .slots, .probes, .rx, .fns, .reports, .out] s (execPandn t pred rd rs1 rs2 s) := by
  unfold execPandn
  repeat' first
    | exact Eq.refl true
    | with_reducible assumption
    | with_reducible apply Kept.ite
    | with_reducible apply Kept.refl
    | with_reducible apply OutKept.ite
    | with_reducible apply OutKept.next
    | with_reducible apply OutKept.fault
    | with_reducible apply Kept.step (k := State.predLogic_kept ..)

theorem execAddi_kept (t) (pred) (rd) (rs1) (imm) (s) : OutKept [.fresh, .regs, .pool, .peat, .tasks, .crus, .slots, .probes, .rx, .fns, .reports, .out] s (execAddi t pred rd rs1 imm s) := by
  unfold execAddi
  repeat' first
    | exact Eq.refl true
    | with_reducible assumption
    | with_reducible apply Kept.ite
    | with_reducible apply Kept.refl
    | with_reducible apply OutKept.ite
    | with_reducible apply OutKept.next
    | with_reducible apply OutKept.fault
    | with_reducible apply Kept.step (k := State.aluImm_kept ..)

theorem execAndi_kept (t) (pred) (rd) (rs1) (imm) (s) : OutKept [.fresh, .regs, .pool, .peat, .tasks, .crus, .slots, .probes, .rx, .fns, .reports, .out] s (execAndi t pred rd rs1 imm s) := by
  unfold execAndi
  repeat' first
    | exact Eq.refl true
    | with_reducible assumption
    | with_reducible apply Kept.ite
    | with_reducible apply Kept.refl
    | with_reducible apply OutKept.ite
    | with_reducible apply OutKept.next
    | with_reducible apply OutKept.fault
    | with_reducible apply Kept.step (k := State.aluImm_kept ..)

theorem execOri_kept (t) (pred) (rd) (rs1) (imm) (s) : OutKept [.fresh, .regs, .pool, .peat, .tasks, .crus, .slots, .probes, .rx, .fns, .reports, .out] s (execOri t pred rd rs1 imm s) := by
  unfold execOri
  repeat' first
    | exact Eq.refl true
    | with_reducible assumption
    | with_reducible apply Kept.ite
    | with_reducible apply Kept.refl
    | with_reducible apply OutKept.ite
    | with_reducible apply OutKept.next
    | with_reducible apply OutKept.fault
    | with_reducible apply Kept.step (k := State.aluImm_kept ..)

theorem execXori_kept (t) (pred) (rd) (rs1) (imm) (s) : OutKept [.fresh, .regs, .pool, .peat, .tasks, .crus, .slots, .probes, .rx, .fns, .reports, .out] s (execXori t pred rd rs1 imm s) := by
  unfold execXori
  repeat' first
    | exact Eq.refl true
    | with_reducible assumption
    | with_reducible apply Kept.ite
    | with_reducible apply Kept.refl
    | with_reducible apply OutKept.ite
    | with_reducible apply OutKept.next
    | with_reducible apply OutKept.fault
    | with_reducible apply Kept.step (k := State.aluImm_kept ..)

theorem execSlli_kept (t) (pred) (rd) (rs1) (imm) (s) : OutKept [.fresh, .regs, .pool, .peat, .tasks, .crus, .slots, .probes, .rx, .fns, .reports, .out] s (execSlli t pred rd rs1 imm s) := by
  unfold execSlli
  repeat' first
    | exact Eq.refl true
    | with_reducible assumption
    | with_reducible apply Kept.ite
    | with_reducible apply Kept.refl
    | with_reducible apply OutKept.ite
    | with_reducible apply OutKept.next
    | with_reducible apply OutKept.fault
    | with_reducible apply Kept.step (k := State.aluImm_kept ..)

theorem execSrli_kept (t) (pred) (rd) (rs1) (imm) (s) : OutKept [.fresh, .regs, .pool, .peat, .tasks, .crus, .slots, .probes, .rx, .fns, .reports, .out] s (execSrli t pred rd rs1 imm s) := by
  unfold execSrli
  repeat' first
    | exact Eq.refl true
    | with_reducible assumption
    | with_reducible apply Kept.ite
    | with_reducible apply Kept.refl
    | with_reducible apply OutKept.ite
    | with_reducible apply OutKept.next
    | with_reducible apply OutKept.fault
    | with_reducible apply Kept.step (k := State.aluImm_kept ..)

theorem execSrai_kept (t) (pred) (rd) (rs1) (imm) (s) : OutKept [.fresh, .regs, .pool, .peat, .tasks, .crus, .slots, .probes, .rx, .fns, .reports, .out] s (execSrai t pred rd rs1 imm s) := by
  unfold execSrai
  repeat' first
    | exact Eq.refl true
    | with_reducible assumption
    | with_reducible apply Kept.ite
    | with_reducible apply Kept.refl
    | with_reducible apply OutKept.ite
    | with_reducible apply OutKept.next
    | with_reducible apply OutKept.fault
    | with_reducible apply Kept.step (k := State.aluImm_kept ..)

theorem execClti_kept (t) (pred) (rd) (rs1) (imm) (s) : OutKept [.fresh, .regs, .pool, .peat, .tasks, .crus, .slots, .probes, .rx, .fns, .reports, .out] s (execClti t pred rd rs1 imm s) := by
  unfold execClti
  repeat' first
    | exact Eq.refl true
    | with_reducible assumption
    | with_reducible apply Kept.ite
    | with_reducible apply Kept.refl
    | with_reducible apply OutKept.ite
    | with_reducible apply OutKept.next
    | with_reducible apply OutKept.fault
    | with_reducible apply Kept.step (k := State.scalarStep_kept ..)

theorem execLui_kept (t) (pred) (rd) (imm) (s) : OutKept [.fresh, .regs, .pool, .peat, .tasks, .crus, .slots, .probes, .rx, .fns, .reports, .out] s (execLui t pred rd imm s) := by
  unfold execLui
  repeat' first
    | exact Eq.refl true
    | with_reducible assumption
    | with_reducible apply Kept.ite
    | with_reducible apply Kept.refl
    | with_reducible apply OutKept.ite
    | with_reducible apply OutKept.next
    | with_reducible apply OutKept.fault
    | with_reducible apply Kept.step (k := State.scalarStep_kept ..)

theorem execBr_kept (t) (pred) (imm) (s) : OutKept [.fresh, .regs, .pool, .peat, .tasks, .crus, .slots, .probes, .rx, .fns, .reports, .out] s (execBr t pred imm s) := by
  unfold execBr
  repeat' first
    | exact Eq.refl true
    | with_reducible assumption
    | with_reducible apply Kept.ite
    | with_reducible apply Kept.refl
    | with_reducible apply OutKept.ite
    | with_reducible apply OutKept.next
    | with_reducible apply OutKept.fault
    | with_reducible refine Kept.step ?_ (State.issue_kept (m := [.fresh, .regs, .pool, .peat, .tasks, .crus, .slots, .probes, .rx, .fns, .reports, .out]) ?_ (fun _ => ?_) ..) ?_
    | with_reducible apply Kept.step (k := State.goTo_kept ..)

theorem execJal_kept (t) (pred) (aD) (imm) (s) : OutKept [.fresh, .regs, .pool, .peat, .tasks, .crus, .slots, .probes, .rx, .fns, .reports, .out] s (execJal t pred aD imm s) := by
  unfold execJal
  repeat' first
    | exact Eq.refl true
    | with_reducible assumption
    | with_reducible apply Kept.ite
    | with_reducible apply Kept.refl
    | (extract_lets +onlyGivenNames x; clear_value x)
    | with_reducible apply OutKept.ite
    | with_reducible apply OutKept.next
    | with_reducible apply OutKept.fault
    | with_reducible apply Kept.step (k := State.onTask_kept ..)
    | with_reducible refine Kept.step ?_ (State.issue_kept (m := [.fresh, .regs, .pool, .peat, .tasks, .crus, .slots, .probes, .rx, .fns, .reports, .out]) ?_ (fun _ => ?_) ..) ?_
    | with_reducible apply Kept.step (k := State.goTo_kept ..)

theorem execJr_kept (t) (pred) (aS) (s) : OutKept [.fresh, .regs, .pool, .peat, .tasks, .crus, .slots, .probes, .rx, .fns, .reports, .out] s (execJr t pred aS s) := by
  unfold execJr
  repeat' first
    | exact Eq.refl true
    | with_reducible assumption
    | with_reducible apply Kept.ite
    | with_reducible apply Kept.refl
    | with_reducible apply OutKept.ite
    | with_reducible apply OutKept.next
    | with_reducible apply OutKept.fault
    | with_reducible refine Kept.step ?_ (State.issue_kept (m := [.fresh, .regs, .pool, .peat, .tasks, .crus, .slots, .probes, .rx, .fns, .reports, .out]) ?_ (fun _ => ?_) ..) ?_
    | with_reducible apply Kept.step (k := State.goTo_kept ..)

theorem State.scalarAccess_kept {m s t a n k go} (hm : Field.within [.fresh, .regs, .pool, .peat, .tasks, .crus, .slots, .probes, .rx, .fns, .reports, .out] m = true)
    (hf : ∀ t p o, Kept m t (go t p o)) : Kept m s (State.scalarAccess s t a n k go) := by
  unfold State.scalarAccess
  dsimp only
  split
  · exact (State.taskFault_kept ..).mono hm
  · split
    · exact (State.waitFor_kept ..).mono (Field.within_trans [.tasks] _ _ rfl hm)
    · exact hf _ _ _

theorem execScalarLoad_kept (t) (pred) (sD) (aA) (size) (sx) (imm) (s) : OutKept [.fresh, .regs, .pool, .peat, .tasks, .crus, .slots, .probes, .rx, .fns, .reports, .out] s (execScalarLoad t pred sD aA size sx imm s) := by
  unfold execScalarLoad
  repeat' first
    | exact Eq.refl true
    | with_reducible assumption
    | with_reducible apply Kept.ite
    | with_reducible apply Kept.refl
    | (extract_lets +onlyGivenNames x; clear_value x)
    | with_reducible apply OutKept.ite
    | with_reducible apply OutKept.next
    | with_reducible apply OutKept.fault
    | with_reducible refine Kept.step ?_ (State.scalarAccess_kept (m := [.fresh, .regs, .pool, .peat, .tasks, .crus, .slots, .probes, .rx, .fns, .reports, .out]) ?_ (fun _ => ?_) ..) ?_
    | with_reducible apply Kept.step (k := State.onTask_kept ..)
    | with_reducible refine Kept.step ?_ (State.issue_kept (m := [.fresh, .regs, .pool, .peat, .tasks, .crus, .slots, .probes, .rx, .fns, .reports, .out]) ?_ (fun _ => ?_) ..) ?_
    | with_reducible apply Kept.step (k := State.retire_kept ..)
    | split
    | (cases ‹List.cons _ _ = List.cons _ _›)
    | intro _

theorem execScalarStore_kept (t) (pred) (sS) (aA) (size) (sx) (imm) (s) : OutKept [.fresh, .regs, .pool, .peat, .poolBad, .peatBad, .tasks, .crus, .slots, .probes, .rx, .fns, .reports, .out] s (execScalarStore t pred sS aA size sx imm s) := by
  unfold execScalarStore
  repeat' first
    | exact Eq.refl true
    | with_reducible assumption
    | with_reducible apply Kept.ite
    | with_reducible apply Kept.refl
    | (extract_lets +onlyGivenNames x; clear_value x)
    | with_reducible apply OutKept.ite
    | with_reducible apply OutKept.next
    | with_reducible apply OutKept.fault
    | with_reducible refine Kept.step ?_ (State.scalarAccess_kept (m := [.fresh, .regs, .pool, .peat, .poolBad, .peatBad, .tasks, .crus, .slots, .probes, .rx, .fns, .reports, .out]) ?_ (fun _ => ?_) ..) ?_
    | with_reducible apply Kept.step (k := State.countPool_kept ..)
    | with_reducible refine Kept.step ?_ (State.issue_kept (m := [.fresh, .regs, .pool, .peat, .poolBad, .peatBad, .tasks, .crus, .slots, .probes, .rx, .fns, .reports, .out]) ?_ (fun _ => ?_) ..) ?_
    | with_reducible apply Kept.step (k := State.retire_kept ..)
    | with_reducible apply Kept.step (k := State.nearWrite_kept ..)
    | split
    | (cases ‹List.cons _ _ = List.cons _ _›)
    | intro _

theorem execScalarLoadReturn_kept (t) (e) (s) : OutKept [.fresh, .regs, .pool, .peat, .tasks, .crus, .slots, .probes, .rx, .fns, .reports, .out] s (execScalarLoadReturn t e s) := by
  unfold execScalarLoadReturn
  repeat' first
    | exact Eq.refl true
    | with_reducible assumption
    | with_reducible apply Kept.ite
    | with_reducible apply Kept.refl
    | (extract_lets +onlyGivenNames x; refine OutKept.via x ?_ ?_; (on_goal 1 => (unfold x; clear x)); on_goal 2 => (intro hx; clear_value x))
    | (extract_lets +onlyGivenNames x; clear_value x)
    | with_reducible apply OutKept.ite
    | with_reducible apply OutKept.next
    | with_reducible apply OutKept.fault
    | with_reducible apply Kept.step (k := State.onTask_kept ..)
    | with_reducible apply Kept.step (k := State.countPool_kept ..)
    | with_reducible apply Kept.step (k := State.countNearRead_kept ..)
    | with_reducible apply Kept.step (k := State.nearEcc_kept ..)
    | with_reducible apply Kept.step (k := State.taskFault_kept ..)
    | split

theorem execIcacheFill_kept (t) (e) (s) : OutKept [.fresh, .regs, .pool, .peat, .tasks, .crus, .slots, .probes, .rx, .fns, .reports, .out] s (execIcacheFill t e s) := by
  unfold execIcacheFill
  repeat' first
    | exact Eq.refl true
    | with_reducible assumption
    | with_reducible apply Kept.ite
    | with_reducible apply Kept.refl
    | (extract_lets +onlyGivenNames x; refine OutKept.via x ?_ ?_; (on_goal 1 => (unfold x; clear x)); on_goal 2 => (intro hx; clear_value x))
    | (extract_lets +onlyGivenNames x; clear_value x)
    | with_reducible apply OutKept.ite
    | with_reducible apply OutKept.next
    | with_reducible apply OutKept.fault
    | with_reducible apply Kept.step (k := State.countPool_kept ..)
    | with_reducible apply Kept.step (k := State.countNearRead_kept ..)
    | with_reducible apply Kept.step (k := State.nearEcc_kept ..)
    | with_reducible apply Kept.step (k := State.taskFault_kept ..)
    | with_reducible apply Kept.step (k := State.setCru_kept ..)
    | with_reducible apply Kept.step (k := State.setTask_kept ..)

theorem execAadd_kept (t) (pred) (aD) (aS) (sX) (s) : OutKept [.fresh, .regs, .pool, .peat, .tasks, .crus, .slots, .probes, .rx, .fns, .reports, .out] s (execAadd t pred aD aS sX s) := by
  unfold execAadd
  repeat' first
    | exact Eq.refl true
    | with_reducible assumption
    | with_reducible apply Kept.ite
    | with_reducible apply Kept.refl
    | with_reducible apply OutKept.ite
    | with_reducible apply OutKept.next
    | with_reducible apply OutKept.fault
    | with_reducible apply Kept.step (k := State.scalarStep_kept ..)

theorem execAaddi_kept (t) (pred) (aD) (aS) (imm) (s) : OutKept [.fresh, .regs, .pool, .peat, .tasks, .crus, .slots, .probes, .rx, .fns, .reports, .out] s (execAaddi t pred aD aS imm s) := by
  unfold execAaddi
  repeat' first
    | exact Eq.refl true
    | with_reducible assumption
    | with_reducible apply Kept.ite
    | with_reducible apply Kept.refl
    | with_reducible apply OutKept.ite
    | with_reducible apply OutKept.next
    | with_reducible apply OutKept.fault
    | with_reducible apply Kept.step (k := State.scalarStep_kept ..)

theorem execAset_kept (t) (pred) (aD) (sLo) (sHi) (s) : OutKept [.fresh, .regs, .pool, .peat, .tasks, .crus, .slots, .probes, .rx, .fns, .reports, .out] s (execAset t pred aD sLo sHi s) := by
  unfold execAset
  repeat' first
    | exact Eq.refl true
    | with_reducible assumption
    | with_reducible apply Kept.ite
    | with_reducible apply Kept.refl
    | with_reducible apply OutKept.ite
    | with_reducible apply OutKept.next
    | with_reducible apply OutKept.fault
    | with_reducible apply Kept.step (k := State.scalarStep_kept ..)

theorem execAget_kept (t) (pred) (aS) (sD) (hi) (s) : OutKept [.fresh, .regs, .pool, .peat, .tasks, .crus, .slots, .probes, .rx, .fns, .reports, .out] s (execAget t pred aS sD hi s) := by
  unfold execAget
  repeat' first
    | exact Eq.refl true
    | with_reducible assumption
    | with_reducible apply Kept.ite
    | with_reducible apply Kept.refl
    | with_reducible apply OutKept.ite
    | with_reducible apply OutKept.next
    | with_reducible apply OutKept.fault
    | with_reducible apply Kept.step (k := State.scalarStep_kept ..)

theorem execApc_kept (t) (pred) (aD) (imm) (s) : OutKept [.fresh, .regs, .pool, .peat, .tasks, .crus, .slots, .probes, .rx, .fns, .reports, .out] s (execApc t pred aD imm s) := by
  unfold execApc
  repeat' first
    | exact Eq.refl true
    | with_reducible assumption
    | with_reducible apply Kept.ite
    | with_reducible apply Kept.refl
    | with_reducible apply OutKept.ite
    | with_reducible apply OutKept.next
    | with_reducible apply OutKept.fault
    | with_reducible apply Kept.step (k := State.scalarStep_kept ..)

theorem State.descStep_kept (s) (t) (pred) (uses) (dd) (f) : Kept [.fresh, .regs, .pool, .peat, .tasks, .crus, .slots, .probes, .rx, .fns, .reports, .out] s (State.descStep s t pred uses dd f) := by
  unfold State.descStep
  repeat' first
    | exact Eq.refl true
    | with_reducible assumption
    | with_reducible apply Kept.ite
    | with_reducible apply Kept.refl
    | with_reducible apply Kept.step (k := State.scalarStep_kept ..)

theorem execDaddr_kept (t) (pred) (dd) (aA) (imm) (s) : OutKept [.fresh, .regs, .pool, .peat, .tasks, .crus, .slots, .probes, .rx, .fns, .reports, .out] s (execDaddr t pred dd aA imm s) := by
  unfold execDaddr
  repeat' first
    | exact Eq.refl true
    | with_reducible assumption
    | with_reducible apply Kept.ite
    | with_reducible apply Kept.refl
    | with_reducible apply OutKept.ite
    | with_reducible apply OutKept.next
    | with_reducible apply OutKept.fault
    | with_reducible apply Kept.step (k := State.descStep_kept ..)

theorem execDfmt_kept (t) (pred) (dd) (fmt) (tag) (s) : OutKept [.fresh, .regs, .pool, .peat, .tasks, .crus, .slots, .probes, .rx, .fns, .reports, .out] s (execDfmt t pred dd fmt tag s) := by
  unfold execDfmt
  repeat' first
    | exact Eq.refl true
    | with_reducible assumption
    | with_reducible apply Kept.ite
    | with_reducible apply Kept.refl
    | with_reducible apply OutKept.ite
    | with_reducible apply OutKept.next
    | with_reducible apply OutKept.fault
    | with_reducible apply Kept.step (k := State.descStep_kept ..)

theorem execDshape_kept (t) (pred) (dd) (sX) (sY) (sZ) (s) : OutKept [.fresh, .regs, .pool, .peat, .tasks, .crus, .slots, .probes, .rx, .fns, .reports, .out] s (execDshape t pred dd sX sY sZ s) := by
  unfold execDshape
  repeat' first
    | exact Eq.refl true
    | with_reducible assumption
    | with_reducible apply Kept.ite
    | with_reducible apply Kept.refl
    | with_reducible apply OutKept.ite
    | with_reducible apply OutKept.next
    | with_reducible apply OutKept.fault
    | with_reducible apply Kept.step (k := State.descStep_kept ..)

theorem execDstride_kept (t) (pred) (dd) (sX) (sY) (sZ) (s) : OutKept [.fresh, .regs, .pool, .peat, .tasks, .crus, .slots, .probes, .rx, .fns, .reports, .out] s (execDstride t pred dd sX sY sZ s) := by
  unfold execDstride
  repeat' first
    | exact Eq.refl true
    | with_reducible assumption
    | with_reducible apply Kept.ite
    | with_reducible apply Kept.refl
    | with_reducible apply OutKept.ite
    | with_reducible apply OutKept.next
    | with_reducible apply OutKept.fault
    | with_reducible apply Kept.step (k := State.descStep_kept ..)

theorem execDaux_kept (t) (pred) (dd) (aA) (s) : OutKept [.fresh, .regs, .pool, .peat, .tasks, .crus, .slots, .probes, .rx, .fns, .reports, .out] s (execDaux t pred dd aA s) := by
  unfold execDaux
  repeat' first
    | exact Eq.refl true
    | with_reducible assumption
    | with_reducible apply Kept.ite
    | with_reducible apply Kept.refl
    | with_reducible apply OutKept.ite
    | with_reducible apply OutKept.next
    | with_reducible apply OutKept.fault
    | with_reducible apply Kept.step (k := State.descStep_kept ..)

theorem execDcopy_kept (t) (pred) (dd) (dS) (s) : OutKept [.fresh, .regs, .pool, .peat, .tasks, .crus, .slots, .probes, .rx, .fns, .reports, .out] s (execDcopy t pred dd dS s) := by
  unfold execDcopy
  repeat' first
    | exact Eq.refl true
    | with_reducible assumption
    | with_reducible apply Kept.ite
    | with_reducible apply Kept.refl
    | with_reducible apply OutKept.ite
    | with_reducible apply OutKept.next
    | with_reducible apply OutKept.fault
    | with_reducible apply Kept.step (k := State.descStep_kept ..)

theorem execDstep_kept (t) (pred) (dd) (sX) (which) (s) : OutKept [.fresh, .regs, .pool, .peat, .tasks, .crus, .slots, .probes, .rx, .fns, .reports, .out] s (execDstep t pred dd sX which s) := by
  unfold execDstep
  repeat' first
    | exact Eq.refl true
    | with_reducible assumption
    | with_reducible apply Kept.ite
    | with_reducible apply Kept.refl
    | with_reducible apply OutKept.ite
    | with_reducible apply OutKept.next
    | with_reducible apply OutKept.fault
    | with_reducible apply Kept.step (k := State.descStep_kept ..)

theorem execNop_kept (t) (pred) (s) : OutKept [.fresh, .regs, .pool, .peat, .tasks, .crus, .slots, .probes, .rx, .fns, .reports, .out] s (execNop t pred s) := by
  unfold execNop
  repeat' first
    | exact Eq.refl true
    | with_reducible assumption
    | with_reducible apply Kept.ite
    | with_reducible apply Kept.refl
    | with_reducible apply OutKept.ite
    | with_reducible apply OutKept.next
    | with_reducible apply OutKept.fault
    | with_reducible apply Kept.step (k := State.scalarStep_kept ..)

theorem execEndTask_kept (t) (pred) (s) : OutKept [.fresh, .regs, .pool, .peat, .peatBad, .tasks, .crus, .slots, .probes, .rx, .fns, .reports, .out] s (execEndTask t pred s) := by
  unfold execEndTask
  repeat' first
    | exact Eq.refl true
    | with_reducible assumption
    | with_reducible apply Kept.ite
    | with_reducible apply Kept.refl
    | with_reducible apply OutKept.ite
    | with_reducible apply OutKept.next
    | with_reducible apply OutKept.fault
    | with_reducible apply Kept.step (k := State.onTask_kept ..)
    | with_reducible refine Kept.step ?_ (State.issue_kept (m := [.fresh, .regs, .pool, .peat, .peatBad, .tasks, .crus, .slots, .probes, .rx, .fns, .reports, .out]) ?_ (fun _ => ?_) ..) ?_
    | with_reducible apply Kept.step (k := State.retire_kept ..)
    | with_reducible apply Kept.step (k := State.gbFlushOn_kept ..)

theorem execRdflags_kept (t) (pred) (sD) (s) : OutKept [.fresh, .regs, .pool, .peat, .tasks, .crus, .slots, .probes, .rx, .fns, .reports, .out] s (execRdflags t pred sD s) := by
  unfold execRdflags
  repeat' first
    | exact Eq.refl true
    | with_reducible assumption
    | with_reducible apply Kept.ite
    | with_reducible apply Kept.refl
    | (extract_lets +onlyGivenNames x; clear_value x)
    | with_reducible apply OutKept.ite
    | with_reducible apply OutKept.next
    | with_reducible apply OutKept.fault
    | with_reducible apply Kept.step (k := State.scalarStep_kept ..)

theorem execClrflags_kept (t) (pred) (mask) (s) : OutKept [.fresh, .regs, .wins, .pool, .peat, .tasks, .crus, .slots, .probes, .rx, .fns, .reports, .out] s (execClrflags t pred mask s) := by
  unfold execClrflags
  repeat' first
    | exact Eq.refl true
    | with_reducible assumption
    | with_reducible apply Kept.ite
    | with_reducible apply Kept.refl
    | with_reducible apply OutKept.ite
    | with_reducible apply OutKept.next
    | with_reducible apply OutKept.fault
    | with_reducible refine Kept.step ?_ (State.issue_kept (m := [.fresh, .regs, .wins, .pool, .peat, .tasks, .crus, .slots, .probes, .rx, .fns, .reports, .out]) ?_ (fun _ => ?_) ..) ?_
    | with_reducible apply Kept.step (k := State.retire_kept ..)
    | with_reducible apply Kept.step (k := State.zeroBits_kept ..)

theorem execRdtime_kept (t) (pred) (sD) (hi) (s) : OutKept [.fresh, .regs, .pool, .peat, .tasks, .crus, .slots, .probes, .rx, .fns, .reports, .out] s (execRdtime t pred sD hi s) := by
  unfold execRdtime
  repeat' first
    | exact Eq.refl true
    | with_reducible assumption
    | with_reducible apply Kept.ite
    | with_reducible apply Kept.refl
    | with_reducible apply OutKept.ite
    | with_reducible apply OutKept.next
    | with_reducible apply OutKept.fault
    | with_reducible apply Kept.step (k := State.scalarStep_kept ..)

theorem execRdid_kept (t) (pred) (sD) (s) : OutKept [.fresh, .regs, .pool, .peat, .tasks, .crus, .slots, .probes, .rx, .fns, .reports, .out] s (execRdid t pred sD s) := by
  unfold execRdid
  repeat' first
    | exact Eq.refl true
    | with_reducible assumption
    | with_reducible apply Kept.ite
    | with_reducible apply Kept.refl
    | (extract_lets +onlyGivenNames x; clear_value x)
    | with_reducible apply OutKept.ite
    | with_reducible apply OutKept.next
    | with_reducible apply OutKept.fault
    | with_reducible apply Kept.step (k := State.scalarStep_kept ..)

theorem execBrk_kept (t) (pred) (s) : OutKept [.fresh, .regs, .pool, .peat, .tasks, .crus, .slots, .probes, .rx, .fns, .reports, .out] s (execBrk t pred s) := by
  unfold execBrk
  repeat' first
    | exact Eq.refl true
    | with_reducible assumption
    | with_reducible apply Kept.ite
    | with_reducible apply Kept.refl
    | with_reducible apply OutKept.ite
    | with_reducible apply OutKept.next
    | with_reducible apply OutKept.fault
    | with_reducible refine Kept.step ?_ (State.issue_kept (m := [.fresh, .regs, .pool, .peat, .tasks, .crus, .slots, .probes, .rx, .fns, .reports, .out]) ?_ (fun _ => ?_) ..) ?_
    | with_reducible apply Kept.step (k := State.issueFault_kept ..)

theorem execIllegal_kept (t) (parcels) (s) : OutKept [.fresh, .regs, .pool, .peat, .tasks, .crus, .slots, .probes, .rx, .fns, .reports, .out] s (execIllegal t parcels s) := by
  unfold execIllegal
  repeat' first
    | exact Eq.refl true
    | with_reducible assumption
    | with_reducible apply Kept.ite
    | with_reducible apply Kept.refl
    | (extract_lets +onlyGivenNames x; clear_value x)
    | with_reducible apply OutKept.ite
    | with_reducible apply OutKept.next
    | with_reducible apply OutKept.fault
    | with_reducible refine Kept.step ?_ (State.issue_kept (m := [.fresh, .regs, .pool, .peat, .tasks, .crus, .slots, .probes, .rx, .fns, .reports, .out]) ?_ (fun _ => ?_) ..) ?_
    | split
    | (cases ‹List.cons _ _ = List.cons _ _›)
    | intro _
    | with_reducible exact Kept.idr ..

theorem State.gateOp_kept (s) (t) (pred) (g) (sX) (sD) (flush) (slot) (write) : Kept [.fresh, .regs, .pool, .peat, .peatBad, .tasks, .crus, .gates, .slots, .probes, .rx, .fns, .reports, .out] s (State.gateOp s t pred g sX sD flush slot write) := by
  unfold State.gateOp
  repeat' first
    | exact Eq.refl true
    | with_reducible assumption
    | with_reducible apply Kept.ite
    | with_reducible apply Kept.refl
    | (extract_lets +onlyGivenNames x; refine Kept.via x ?_ ?_; (on_goal 1 => (unfold x; clear x)); on_goal 2 => (intro hx; clear_value x))
    | (extract_lets +onlyGivenNames x; clear_value x)
    | with_reducible apply Kept.step (k := State.onTask_kept ..)
    | with_reducible apply Kept.step (k := State.setGate_kept ..)
    | with_reducible refine Kept.step ?_ (State.issue_kept (m := [.fresh, .regs, .pool, .peat, .peatBad, .tasks, .crus, .gates, .slots, .probes, .rx, .fns, .reports, .out]) ?_ (fun _ => ?_) ..) ?_
    | with_reducible apply Kept.step (k := State.retire_kept ..)
    | with_reducible apply Kept.step (k := State.gbFlushAll_kept ..)
    | with_reducible apply Kept.step (k := State.bump_kept ..)
    | split

theorem execGadd_kept (t) (pred) (gate) (sX) (sD) (s) : OutKept [.fresh, .regs, .pool, .peat, .peatBad, .tasks, .crus, .gates, .slots, .probes, .rx, .fns, .reports, .out] s (execGadd t pred gate sX sD s) := by
  unfold execGadd
  repeat' first
    | exact Eq.refl true
    | with_reducible assumption
    | with_reducible apply Kept.ite
    | with_reducible apply Kept.refl
    | with_reducible apply OutKept.ite
    | with_reducible apply OutKept.next
    | with_reducible apply OutKept.fault
    | with_reducible apply Kept.step (k := State.gateOp_kept ..)

theorem execGswap_kept (t) (pred) (gate) (sX) (sD) (s) : OutKept [.fresh, .regs, .pool, .peat, .peatBad, .tasks, .crus, .gates, .slots, .probes, .rx, .fns, .reports, .out] s (execGswap t pred gate sX sD s) := by
  unfold execGswap
  repeat' first
    | exact Eq.refl true
    | with_reducible assumption
    | with_reducible apply Kept.ite
    | with_reducible apply Kept.refl
    | with_reducible apply OutKept.ite
    | with_reducible apply OutKept.next
    | with_reducible apply OutKept.fault
    | with_reducible apply Kept.step (k := State.gateOp_kept ..)

theorem execGread_kept (t) (pred) (gate) (sX) (sD) (s) : OutKept [.fresh, .regs, .pool, .peat, .peatBad, .tasks, .crus, .gates, .slots, .probes, .rx, .fns, .reports, .out] s (execGread t pred gate sX sD s) := by
  unfold execGread
  repeat' first
    | exact Eq.refl true
    | with_reducible assumption
    | with_reducible apply Kept.ite
    | with_reducible apply Kept.refl
    | with_reducible apply OutKept.ite
    | with_reducible apply OutKept.next
    | with_reducible apply OutKept.fault
    | with_reducible apply Kept.step (k := State.gateOp_kept ..)

theorem execGwait_kept (t) (pred) (gate) (sX) (sD) (tmo) (s) : OutKept [.fresh, .regs, .pool, .peat, .tasks, .crus, .slots, .probes, .rx, .fns, .reports, .out] s (execGwait t pred gate sX sD tmo s) := by
  unfold execGwait
  repeat' first
    | exact Eq.refl true
    | with_reducible assumption
    | with_reducible apply Kept.ite
    | with_reducible apply Kept.refl
    | (extract_lets +onlyGivenNames x; clear_value x)
    | with_reducible apply OutKept.ite
    | with_reducible apply OutKept.next
    | with_reducible apply OutKept.fault
    | with_reducible apply Kept.step (k := State.onTask_kept ..)
    | with_reducible refine Kept.step ?_ (State.issue_kept (m := [.fresh, .regs, .pool, .peat, .tasks, .crus, .slots, .probes, .rx, .fns, .reports, .out]) ?_ (fun _ => ?_) ..) ?_
    | with_reducible apply Kept.step (k := State.countIssue_kept ..)

theorem execGwaitSatisfied_kept (t) (s) : OutKept [.regs, .tasks] s (execGwaitSatisfied t s) := by
  unfold execGwaitSatisfied
  repeat' first
    | exact Eq.refl true
    | with_reducible assumption
    | with_reducible apply Kept.ite
    | with_reducible apply Kept.refl
    | (extract_lets +onlyGivenNames x; clear_value x)
    | with_reducible apply OutKept.ite
    | with_reducible apply OutKept.next
    | with_reducible apply OutKept.fault
    | with_reducible apply Kept.step (k := State.onTask_kept ..)
    | with_reducible apply Kept.step (k := State.bump_kept ..)
    | split

theorem execGateTimeout_kept (t) (s) : OutKept [.fresh, .regs, .pool, .peat, .tasks, .crus, .slots, .probes, .rx, .fns, .reports, .out] s (execGateTimeout t s) := by
  unfold execGateTimeout
  repeat' first
    | exact Eq.refl true
    | with_reducible assumption
    | with_reducible apply Kept.ite
    | with_reducible apply Kept.refl
    | (extract_lets +onlyGivenNames x; refine OutKept.via x ?_ ?_; (on_goal 1 => (unfold x; clear x)); on_goal 2 => (intro hx; clear_value x))
    | (extract_lets +onlyGivenNames x; clear_value x)
    | with_reducible apply OutKept.ite
    | with_reducible apply OutKept.next
    | with_reducible apply OutKept.fault
    | with_reducible apply Kept.step (k := State.taskFault_kept ..)
    | with_reducible apply Kept.step (k := State.raise_kept ..)
    | with_reducible apply Kept.step (k := State.bump_kept ..)
    | with_reducible apply Kept.step (k := State.setReg_kept ..)
    | split

theorem execGradd_kept (t) (pred) (gate) (sX) (sD) (s) : OutKept [.fresh, .regs, .pool, .peat, .peatBad, .tasks, .crus, .slots, .probes, .rx, .net, .ports, .fns, .reports, .out] s (execGradd t pred gate sX sD s) := by
  unfold execGradd
  repeat' first
    | exact Eq.refl true
    | with_reducible assumption
    | with_reducible apply Kept.ite
    | with_reducible apply Kept.refl
    | (extract_lets +onlyGivenNames x; clear_value x)
    | with_reducible apply OutKept.ite
    | with_reducible apply OutKept.next
    | with_reducible apply OutKept.fault
    | with_reducible apply Kept.step (k := State.sendGateAdd_kept ..)
    | with_reducible refine Kept.step ?_ (State.issue_kept (m := [.fresh, .regs, .pool, .peat, .peatBad, .tasks, .crus, .slots, .probes, .rx, .net, .ports, .fns, .reports, .out]) ?_ (fun _ => ?_) ..) ?_
    | with_reducible apply Kept.step (k := State.retire_kept ..)
    | with_reducible apply Kept.step (k := State.gbFlushAll_kept ..)

theorem execGbadd_kept (t) (pred) (gate) (sX) (sD) (s) : OutKept [.fresh, .regs, .pool, .peat, .peatBad, .tasks, .crus, .slots, .probes, .rx, .net, .ports, .fns, .reports, .out] s (execGbadd t pred gate sX sD s) := by
  unfold execGbadd
  repeat' first
    | exact Eq.refl true
    | with_reducible assumption
    | with_reducible apply Kept.ite
    | with_reducible apply Kept.refl
    | (extract_lets +onlyGivenNames x; clear_value x)
    | with_reducible apply OutKept.ite
    | with_reducible apply OutKept.next
    | with_reducible apply OutKept.fault
    | with_reducible apply Kept.step (k := State.sendGateAll_kept ..)
    | with_reducible refine Kept.step ?_ (State.issue_kept (m := [.fresh, .regs, .pool, .peat, .peatBad, .tasks, .crus, .slots, .probes, .rx, .net, .ports, .fns, .reports, .out]) ?_ (fun _ => ?_) ..) ?_
    | with_reducible apply Kept.step (k := State.retire_kept ..)
    | with_reducible apply Kept.step (k := State.gbFlushAll_kept ..)

/-! ### Tensor -/

theorem State.dispatch_kept (s) (t) (i) (u) (rs) (pend) : Kept [.regs, .tasks, .crus] s (State.dispatch s t i u rs pend) := by
  unfold State.dispatch
  repeat' first
    | exact Eq.refl true
    | with_reducible assumption
    | with_reducible apply Kept.ite
    | with_reducible apply Kept.refl
    | (extract_lets +onlyGivenNames x; refine Kept.via x ?_ ?_; (on_goal 1 => (unfold x; clear x)); on_goal 2 => (intro hx; clear_value x))
    | (extract_lets +onlyGivenNames x; clear_value x)
    | with_reducible apply Kept.step (k := State.onTask_kept ..)
    | with_reducible apply Kept.step (k := State.retire_kept ..)
    | with_reducible apply Kept.step (k := State.waitFor_kept ..)
    | with_reducible apply Kept.step (k := State.noteSbHigh_kept ..)
    | with_reducible apply Kept.step (k := State.setCru_kept ..)
    | split

theorem State.issueTensor_kept (s) (t) (i) (h) (u) (uses) (pend) : Kept [.fresh, .regs, .pool, .peat, .tasks, .crus, .slots, .probes, .rx, .fns, .reports, .out] s (State.issueTensor s t i h u uses pend) := by
  unfold State.issueTensor
  repeat' first
    | exact Eq.refl true
    | with_reducible assumption
    | with_reducible apply Kept.ite
    | with_reducible apply Kept.refl
    | (extract_lets +onlyGivenNames x; refine Kept.fn x ?_; unfold x; clear x)
    | (extract_lets +onlyGivenNames x; clear_value x)
    | with_reducible apply Kept.step (k := State.dispatch_kept ..)
    | with_reducible refine Kept.step ?_ (State.issue_kept (m := [.fresh, .regs, .pool, .peat, .tasks, .crus, .slots, .probes, .rx, .fns, .reports, .out]) ?_ (fun _ => ?_) ..) ?_
    | with_reducible apply Kept.step (k := State.issueFault_kept ..)
    | split

theorem execMmul_kept (t) (h) (o) (s) : OutKept [.fresh, .regs, .pool, .peat, .tasks, .crus, .slots, .probes, .rx, .fns, .reports, .out] s (execMmul t h o s) := by
  unfold execMmul
  repeat' first
    | exact Eq.refl true
    | with_reducible assumption
    | with_reducible apply Kept.ite
    | with_reducible apply Kept.refl
    | with_reducible apply OutKept.ite
    | with_reducible apply OutKept.next
    | with_reducible apply OutKept.fault
    | with_reducible apply Kept.step (k := State.issueTensor_kept ..)

theorem execMmulLift_kept (t) (h) (o) (s) : OutKept [.fresh, .regs, .pool, .peat, .tasks, .crus, .slots, .probes, .rx, .fns, .reports, .out] s (execMmulLift t h o s) := by
  unfold execMmulLift
  repeat' first
    | exact Eq.refl true
    | with_reducible assumption
    | with_reducible apply Kept.ite
    | with_reducible apply Kept.refl
    | with_reducible apply OutKept.ite
    | with_reducible apply OutKept.next
    | with_reducible apply OutKept.fault
    | with_reducible apply Kept.step (k := State.issueTensor_kept ..)

theorem execVAdd_kept (t) (h) (o) (s) : OutKept [.fresh, .regs, .pool, .peat, .tasks, .crus, .slots, .probes, .rx, .fns, .reports, .out] s (execVAdd t h o s) := by
  unfold execVAdd
  repeat' first
    | exact Eq.refl true
    | with_reducible assumption
    | with_reducible apply Kept.ite
    | with_reducible apply Kept.refl
    | with_reducible apply OutKept.ite
    | with_reducible apply OutKept.next
    | with_reducible apply OutKept.fault
    | with_reducible apply Kept.step (k := State.issueTensor_kept ..)

theorem execVSub_kept (t) (h) (o) (s) : OutKept [.fresh, .regs, .pool, .peat, .tasks, .crus, .slots, .probes, .rx, .fns, .reports, .out] s (execVSub t h o s) := by
  unfold execVSub
  repeat' first
    | exact Eq.refl true
    | with_reducible assumption
    | with_reducible apply Kept.ite
    | with_reducible apply Kept.refl
    | with_reducible apply OutKept.ite
    | with_reducible apply OutKept.next
    | with_reducible apply OutKept.fault
    | with_reducible apply Kept.step (k := State.issueTensor_kept ..)

theorem execVMul_kept (t) (h) (o) (s) : OutKept [.fresh, .regs, .pool, .peat, .tasks, .crus, .slots, .probes, .rx, .fns, .reports, .out] s (execVMul t h o s) := by
  unfold execVMul
  repeat' first
    | exact Eq.refl true
    | with_reducible assumption
    | with_reducible apply Kept.ite
    | with_reducible apply Kept.refl
    | with_reducible apply OutKept.ite
    | with_reducible apply OutKept.next
    | with_reducible apply OutKept.fault
    | with_reducible apply Kept.step (k := State.issueTensor_kept ..)

theorem execFma_kept (t) (h) (o) (s) : OutKept [.fresh, .regs, .pool, .peat, .tasks, .crus, .slots, .probes, .rx, .fns, .reports, .out] s (execFma t h o s) := by
  unfold execFma
  repeat' first
    | exact Eq.refl true
    | with_reducible assumption
    | with_reducible apply Kept.ite
    | with_reducible apply Kept.refl
    | with_reducible apply OutKept.ite
    | with_reducible apply OutKept.next
    | with_reducible apply OutKept.fault
    | with_reducible apply Kept.step (k := State.issueTensor_kept ..)

theorem execVMax_kept (t) (h) (o) (s) : OutKept [.fresh, .regs, .pool, .peat, .tasks, .crus, .slots, .probes, .rx, .fns, .reports, .out] s (execVMax t h o s) := by
  unfold execVMax
  repeat' first
    | exact Eq.refl true
    | with_reducible assumption
    | with_reducible apply Kept.ite
    | with_reducible apply Kept.refl
    | with_reducible apply OutKept.ite
    | with_reducible apply OutKept.next
    | with_reducible apply OutKept.fault
    | with_reducible apply Kept.step (k := State.issueTensor_kept ..)

theorem execVMin_kept (t) (h) (o) (s) : OutKept [.fresh, .regs, .pool, .peat, .tasks, .crus, .slots, .probes, .rx, .fns, .reports, .out] s (execVMin t h o s) := by
  unfold execVMin
  repeat' first
    | exact Eq.refl true
    | with_reducible assumption
    | with_reducible apply Kept.ite
    | with_reducible apply Kept.refl
    | with_reducible apply OutKept.ite
    | with_reducible apply OutKept.next
    | with_reducible apply OutKept.fault
    | with_reducible apply Kept.step (k := State.issueTensor_kept ..)

theorem execAbs_kept (t) (h) (o) (s) : OutKept [.fresh, .regs, .pool, .peat, .tasks, .crus, .slots, .probes, .rx, .fns, .reports, .out] s (execAbs t h o s) := by
  unfold execAbs
  repeat' first
    | exact Eq.refl true
    | with_reducible assumption
    | with_reducible apply Kept.ite
    | with_reducible apply Kept.refl
    | with_reducible apply OutKept.ite
    | with_reducible apply OutKept.next
    | with_reducible apply OutKept.fault
    | with_reducible apply Kept.step (k := State.issueTensor_kept ..)

theorem execNeg_kept (t) (h) (o) (s) : OutKept [.fresh, .regs, .pool, .peat, .tasks, .crus, .slots, .probes, .rx, .fns, .reports, .out] s (execNeg t h o s) := by
  unfold execNeg
  repeat' first
    | exact Eq.refl true
    | with_reducible assumption
    | with_reducible apply Kept.ite
    | with_reducible apply Kept.refl
    | with_reducible apply OutKept.ite
    | with_reducible apply OutKept.next
    | with_reducible apply OutKept.fault
    | with_reducible apply Kept.step (k := State.issueTensor_kept ..)

theorem execCopysign_kept (t) (h) (o) (s) : OutKept [.fresh, .regs, .pool, .peat, .tasks, .crus, .slots, .probes, .rx, .fns, .reports, .out] s (execCopysign t h o s) := by
  unfold execCopysign
  repeat' first
    | exact Eq.refl true
    | with_reducible assumption
    | with_reducible apply Kept.ite
    | with_reducible apply Kept.refl
    | with_reducible apply OutKept.ite
    | with_reducible apply OutKept.next
    | with_reducible apply OutKept.fault
    | with_reducible apply Kept.step (k := State.issueTensor_kept ..)

theorem execScale2_kept (t) (h) (o) (s) : OutKept [.fresh, .regs, .pool, .peat, .tasks, .crus, .slots, .probes, .rx, .fns, .reports, .out] s (execScale2 t h o s) := by
  unfold execScale2
  repeat' first
    | exact Eq.refl true
    | with_reducible assumption
    | with_reducible apply Kept.ite
    | with_reducible apply Kept.refl
    | with_reducible apply OutKept.ite
    | with_reducible apply OutKept.next
    | with_reducible apply OutKept.fault
    | with_reducible apply Kept.step (k := State.issueTensor_kept ..)

theorem execRecip_kept (t) (h) (o) (s) : OutKept [.fresh, .regs, .pool, .peat, .tasks, .crus, .slots, .probes, .rx, .fns, .reports, .out] s (execRecip t h o s) := by
  unfold execRecip
  repeat' first
    | exact Eq.refl true
    | with_reducible assumption
    | with_reducible apply Kept.ite
    | with_reducible apply Kept.refl
    | with_reducible apply OutKept.ite
    | with_reducible apply OutKept.next
    | with_reducible apply OutKept.fault
    | with_reducible apply Kept.step (k := State.issueTensor_kept ..)

theorem execSqrt_kept (t) (h) (o) (s) : OutKept [.fresh, .regs, .pool, .peat, .tasks, .crus, .slots, .probes, .rx, .fns, .reports, .out] s (execSqrt t h o s) := by
  unfold execSqrt
  repeat' first
    | exact Eq.refl true
    | with_reducible assumption
    | with_reducible apply Kept.ite
    | with_reducible apply Kept.refl
    | with_reducible apply OutKept.ite
    | with_reducible apply OutKept.next
    | with_reducible apply OutKept.fault
    | with_reducible apply Kept.step (k := State.issueTensor_kept ..)

theorem execRsqrt_kept (t) (h) (o) (s) : OutKept [.fresh, .regs, .pool, .peat, .tasks, .crus, .slots, .probes, .rx, .fns, .reports, .out] s (execRsqrt t h o s) := by
  unfold execRsqrt
  repeat' first
    | exact Eq.refl true
    | with_reducible assumption
    | with_reducible apply Kept.ite
    | with_reducible apply Kept.refl
    | with_reducible apply OutKept.ite
    | with_reducible apply OutKept.next
    | with_reducible apply OutKept.fault
    | with_reducible apply Kept.step (k := State.issueTensor_kept ..)

theorem execExp_kept (t) (h) (o) (s) : OutKept [.fresh, .regs, .pool, .peat, .tasks, .crus, .slots, .probes, .rx, .fns, .reports, .out] s (execExp t h o s) := by
  unfold execExp
  repeat' first
    | exact Eq.refl true
    | with_reducible assumption
    | with_reducible apply Kept.ite
    | with_reducible apply Kept.refl
    | with_reducible apply OutKept.ite
    | with_reducible apply OutKept.next
    | with_reducible apply OutKept.fault
    | with_reducible apply Kept.step (k := State.issueTensor_kept ..)

theorem execExp2_kept (t) (h) (o) (s) : OutKept [.fresh, .regs, .pool, .peat, .tasks, .crus, .slots, .probes, .rx, .fns, .reports, .out] s (execExp2 t h o s) := by
  unfold execExp2
  repeat' first
    | exact Eq.refl true
    | with_reducible assumption
    | with_reducible apply Kept.ite
    | with_reducible apply Kept.refl
    | with_reducible apply OutKept.ite
    | with_reducible apply OutKept.next
    | with_reducible apply OutKept.fault
    | with_reducible apply Kept.step (k := State.issueTensor_kept ..)

theorem execLog2_kept (t) (h) (o) (s) : OutKept [.fresh, .regs, .pool, .peat, .tasks, .crus, .slots, .probes, .rx, .fns, .reports, .out] s (execLog2 t h o s) := by
  unfold execLog2
  repeat' first
    | exact Eq.refl true
    | with_reducible assumption
    | with_reducible apply Kept.ite
    | with_reducible apply Kept.refl
    | with_reducible apply OutKept.ite
    | with_reducible apply OutKept.next
    | with_reducible apply OutKept.fault
    | with_reducible apply Kept.step (k := State.issueTensor_kept ..)

theorem execSigmoid_kept (t) (h) (o) (s) : OutKept [.fresh, .regs, .pool, .peat, .tasks, .crus, .slots, .probes, .rx, .fns, .reports, .out] s (execSigmoid t h o s) := by
  unfold execSigmoid
  repeat' first
    | exact Eq.refl true
    | with_reducible assumption
    | with_reducible apply Kept.ite
    | with_reducible apply Kept.refl
    | with_reducible apply OutKept.ite
    | with_reducible apply OutKept.next
    | with_reducible apply OutKept.fault
    | with_reducible apply Kept.step (k := State.issueTensor_kept ..)

theorem execTanh_kept (t) (h) (o) (s) : OutKept [.fresh, .regs, .pool, .peat, .tasks, .crus, .slots, .probes, .rx, .fns, .reports, .out] s (execTanh t h o s) := by
  unfold execTanh
  repeat' first
    | exact Eq.refl true
    | with_reducible assumption
    | with_reducible apply Kept.ite
    | with_reducible apply Kept.refl
    | with_reducible apply OutKept.ite
    | with_reducible apply OutKept.next
    | with_reducible apply OutKept.fault
    | with_reducible apply Kept.step (k := State.issueTensor_kept ..)

theorem execSilu_kept (t) (h) (o) (s) : OutKept [.fresh, .regs, .pool, .peat, .tasks, .crus, .slots, .probes, .rx, .fns, .reports, .out] s (execSilu t h o s) := by
  unfold execSilu
  repeat' first
    | exact Eq.refl true
    | with_reducible assumption
    | with_reducible apply Kept.ite
    | with_reducible apply Kept.refl
    | with_reducible apply OutKept.ite
    | with_reducible apply OutKept.next
    | with_reducible apply OutKept.fault
    | with_reducible apply Kept.step (k := State.issueTensor_kept ..)

theorem execGeluErf_kept (t) (h) (o) (s) : OutKept [.fresh, .regs, .pool, .peat, .tasks, .crus, .slots, .probes, .rx, .fns, .reports, .out] s (execGeluErf t h o s) := by
  unfold execGeluErf
  repeat' first
    | exact Eq.refl true
    | with_reducible assumption
    | with_reducible apply Kept.ite
    | with_reducible apply Kept.refl
    | with_reducible apply OutKept.ite
    | with_reducible apply OutKept.next
    | with_reducible apply OutKept.fault
    | with_reducible apply Kept.step (k := State.issueTensor_kept ..)

theorem execGeluTanh_kept (t) (h) (o) (s) : OutKept [.fresh, .regs, .pool, .peat, .tasks, .crus, .slots, .probes, .rx, .fns, .reports, .out] s (execGeluTanh t h o s) := by
  unfold execGeluTanh
  repeat' first
    | exact Eq.refl true
    | with_reducible assumption
    | with_reducible apply Kept.ite
    | with_reducible apply Kept.refl
    | with_reducible apply OutKept.ite
    | with_reducible apply OutKept.next
    | with_reducible apply OutKept.fault
    | with_reducible apply Kept.step (k := State.issueTensor_kept ..)

theorem execCvt_kept (t) (h) (o) (s) : OutKept [.fresh, .regs, .pool, .peat, .tasks, .crus, .slots, .probes, .rx, .fns, .reports, .out] s (execCvt t h o s) := by
  unfold execCvt
  repeat' first
    | exact Eq.refl true
    | with_reducible assumption
    | with_reducible apply Kept.ite
    | with_reducible apply Kept.refl
    | with_reducible apply OutKept.ite
    | with_reducible apply OutKept.next
    | with_reducible apply OutKept.fault
    | with_reducible apply Kept.step (k := State.issueTensor_kept ..)

theorem execRope_kept (t) (h) (o) (s) : OutKept [.fresh, .regs, .pool, .peat, .tasks, .crus, .slots, .probes, .rx, .fns, .reports, .out] s (execRope t h o s) := by
  unfold execRope
  repeat' first
    | exact Eq.refl true
    | with_reducible assumption
    | with_reducible apply Kept.ite
    | with_reducible apply Kept.refl
    | with_reducible apply OutKept.ite
    | with_reducible apply OutKept.next
    | with_reducible apply OutKept.fault
    | with_reducible apply Kept.step (k := State.issueTensor_kept ..)

theorem execDiv_kept (t) (h) (o) (s) : OutKept [.fresh, .regs, .pool, .peat, .tasks, .crus, .slots, .probes, .rx, .fns, .reports, .out] s (execDiv t h o s) := by
  unfold execDiv
  repeat' first
    | exact Eq.refl true
    | with_reducible assumption
    | with_reducible apply Kept.ite
    | with_reducible apply Kept.refl
    | with_reducible apply OutKept.ite
    | with_reducible apply OutKept.next
    | with_reducible apply OutKept.fault
    | with_reducible apply Kept.step (k := State.issueTensor_kept ..)

theorem execRsum_kept (t) (h) (o) (s) : OutKept [.fresh, .regs, .pool, .peat, .tasks, .crus, .slots, .probes, .rx, .fns, .reports, .out] s (execRsum t h o s) := by
  unfold execRsum
  repeat' first
    | exact Eq.refl true
    | with_reducible assumption
    | with_reducible apply Kept.ite
    | with_reducible apply Kept.refl
    | with_reducible apply OutKept.ite
    | with_reducible apply OutKept.next
    | with_reducible apply OutKept.fault
    | with_reducible apply Kept.step (k := State.issueTensor_kept ..)

theorem execRmax_kept (t) (h) (o) (s) : OutKept [.fresh, .regs, .pool, .peat, .tasks, .crus, .slots, .probes, .rx, .fns, .reports, .out] s (execRmax t h o s) := by
  unfold execRmax
  repeat' first
    | exact Eq.refl true
    | with_reducible assumption
    | with_reducible apply Kept.ite
    | with_reducible apply Kept.refl
    | with_reducible apply OutKept.ite
    | with_reducible apply OutKept.next
    | with_reducible apply OutKept.fault
    | with_reducible apply Kept.step (k := State.issueTensor_kept ..)

theorem execRmin_kept (t) (h) (o) (s) : OutKept [.fresh, .regs, .pool, .peat, .tasks, .crus, .slots, .probes, .rx, .fns, .reports, .out] s (execRmin t h o s) := by
  unfold execRmin
  repeat' first
    | exact Eq.refl true
    | with_reducible assumption
    | with_reducible apply Kept.ite
    | with_reducible apply Kept.refl
    | with_reducible apply OutKept.ite
    | with_reducible apply OutKept.next
    | with_reducible apply OutKept.fault
    | with_reducible apply Kept.step (k := State.issueTensor_kept ..)

theorem execRargmax_kept (t) (h) (o) (s) : OutKept [.fresh, .regs, .pool, .peat, .tasks, .crus, .slots, .probes, .rx, .fns, .reports, .out] s (execRargmax t h o s) := by
  unfold execRargmax
  repeat' first
    | exact Eq.refl true
    | with_reducible assumption
    | with_reducible apply Kept.ite
    | with_reducible apply Kept.refl
    | with_reducible apply OutKept.ite
    | with_reducible apply OutKept.next
    | with_reducible apply OutKept.fault
    | with_reducible apply Kept.step (k := State.issueTensor_kept ..)

theorem execRargmin_kept (t) (h) (o) (s) : OutKept [.fresh, .regs, .pool, .peat, .tasks, .crus, .slots, .probes, .rx, .fns, .reports, .out] s (execRargmin t h o s) := by
  unfold execRargmin
  repeat' first
    | exact Eq.refl true
    | with_reducible assumption
    | with_reducible apply Kept.ite
    | with_reducible apply Kept.refl
    | with_reducible apply OutKept.ite
    | with_reducible apply OutKept.next
    | with_reducible apply OutKept.fault
    | with_reducible apply Kept.step (k := State.issueTensor_kept ..)

theorem execRms_kept (t) (h) (o) (s) : OutKept [.fresh, .regs, .pool, .peat, .tasks, .crus, .slots, .probes, .rx, .fns, .reports, .out] s (execRms t h o s) := by
  unfold execRms
  repeat' first
    | exact Eq.refl true
    | with_reducible assumption
    | with_reducible apply Kept.ite
    | with_reducible apply Kept.refl
    | with_reducible apply OutKept.ite
    | with_reducible apply OutKept.next
    | with_reducible apply OutKept.fault
    | with_reducible apply Kept.step (k := State.issueTensor_kept ..)

theorem execRmsn_kept (t) (h) (o) (s) : OutKept [.fresh, .regs, .pool, .peat, .tasks, .crus, .slots, .probes, .rx, .fns, .reports, .out] s (execRmsn t h o s) := by
  unfold execRmsn
  repeat' first
    | exact Eq.refl true
    | with_reducible assumption
    | with_reducible apply Kept.ite
    | with_reducible apply Kept.refl
    | with_reducible apply OutKept.ite
    | with_reducible apply OutKept.next
    | with_reducible apply OutKept.fault
    | with_reducible apply Kept.step (k := State.issueTensor_kept ..)

theorem execSoftmax_kept (t) (h) (o) (s) : OutKept [.fresh, .regs, .pool, .peat, .tasks, .crus, .slots, .probes, .rx, .fns, .reports, .out] s (execSoftmax t h o s) := by
  unfold execSoftmax
  repeat' first
    | exact Eq.refl true
    | with_reducible assumption
    | with_reducible apply Kept.ite
    | with_reducible apply Kept.refl
    | with_reducible apply OutKept.ite
    | with_reducible apply OutKept.next
    | with_reducible apply OutKept.fault
    | with_reducible apply Kept.step (k := State.issueTensor_kept ..)

theorem execPsum_kept (t) (h) (o) (s) : OutKept [.fresh, .regs, .pool, .peat, .tasks, .crus, .slots, .probes, .rx, .fns, .reports, .out] s (execPsum t h o s) := by
  unfold execPsum
  repeat' first
    | exact Eq.refl true
    | with_reducible assumption
    | with_reducible apply Kept.ite
    | with_reducible apply Kept.refl
    | with_reducible apply OutKept.ite
    | with_reducible apply OutKept.next
    | with_reducible apply OutKept.fault
    | with_reducible apply Kept.step (k := State.issueTensor_kept ..)

theorem execAttnRing_kept (t) (h) (o) (s) : OutKept [.fresh, .regs, .pool, .peat, .tasks, .crus, .slots, .probes, .rx, .fns, .reports, .out] s (execAttnRing t h o s) := by
  unfold execAttnRing
  repeat' first
    | exact Eq.refl true
    | with_reducible assumption
    | with_reducible apply Kept.ite
    | with_reducible apply Kept.refl
    | with_reducible apply OutKept.ite
    | with_reducible apply OutKept.next
    | with_reducible apply OutKept.fault
    | with_reducible apply Kept.step (k := State.issueTensor_kept ..)

theorem execAttnPage_kept (t) (h) (o) (s) : OutKept [.fresh, .regs, .pool, .peat, .tasks, .crus, .slots, .probes, .rx, .fns, .reports, .out] s (execAttnPage t h o s) := by
  unfold execAttnPage
  repeat' first
    | exact Eq.refl true
    | with_reducible assumption
    | with_reducible apply Kept.ite
    | with_reducible apply Kept.refl
    | with_reducible apply OutKept.ite
    | with_reducible apply OutKept.next
    | with_reducible apply OutKept.fault
    | with_reducible apply Kept.step (k := State.issueTensor_kept ..)

theorem execKvput_kept (t) (h) (o) (s) : OutKept [.fresh, .regs, .pool, .peat, .tasks, .crus, .slots, .probes, .rx, .fns, .reports, .out] s (execKvput t h o s) := by
  unfold execKvput
  repeat' first
    | exact Eq.refl true
    | with_reducible assumption
    | with_reducible apply Kept.ite
    | with_reducible apply Kept.refl
    | with_reducible apply OutKept.ite
    | with_reducible apply OutKept.next
    | with_reducible apply OutKept.fault
    | with_reducible apply Kept.step (k := State.issueTensor_kept ..)

theorem execMove_kept (t) (h) (o) (s) : OutKept [.fresh, .regs, .pool, .peat, .tasks, .crus, .slots, .probes, .rx, .fns, .reports, .out] s (execMove t h o s) := by
  unfold execMove
  repeat' first
    | exact Eq.refl true
    | with_reducible assumption
    | with_reducible apply Kept.ite
    | with_reducible apply Kept.refl
    | with_reducible apply OutKept.ite
    | with_reducible apply OutKept.next
    | with_reducible apply OutKept.fault
    | with_reducible apply Kept.step (k := State.issueTensor_kept ..)

theorem execFill_kept (t) (h) (o) (s) : OutKept [.fresh, .regs, .pool, .peat, .tasks, .crus, .slots, .probes, .rx, .fns, .reports, .out] s (execFill t h o s) := by
  unfold execFill
  repeat' first
    | exact Eq.refl true
    | with_reducible assumption
    | with_reducible apply Kept.ite
    | with_reducible apply Kept.refl
    | with_reducible apply OutKept.ite
    | with_reducible apply OutKept.next
    | with_reducible apply OutKept.fault
    | with_reducible apply Kept.step (k := State.issueTensor_kept ..)

theorem execGather_kept (t) (h) (o) (s) : OutKept [.fresh, .regs, .pool, .peat, .tasks, .crus, .slots, .probes, .rx, .fns, .reports, .out] s (execGather t h o s) := by
  unfold execGather
  repeat' first
    | exact Eq.refl true
    | with_reducible assumption
    | with_reducible apply Kept.ite
    | with_reducible apply Kept.refl
    | with_reducible apply OutKept.ite
    | with_reducible apply OutKept.next
    | with_reducible apply OutKept.fault
    | with_reducible apply Kept.step (k := State.issueTensor_kept ..)

theorem execSent_kept (t) (h) (o) (s) : OutKept [.fresh, .regs, .pool, .peat, .tasks, .crus, .slots, .probes, .rx, .fns, .reports, .out] s (execSent t h o s) := by
  unfold execSent
  repeat' first
    | exact Eq.refl true
    | with_reducible assumption
    | with_reducible apply Kept.ite
    | with_reducible apply Kept.refl
    | with_reducible apply OutKept.ite
    | with_reducible apply OutKept.next
    | with_reducible apply OutKept.fault
    | with_reducible apply Kept.step (k := State.issueTensor_kept ..)

theorem execRhand_kept (t) (h) (o) (s) : OutKept [.fresh, .regs, .pool, .peat, .tasks, .crus, .slots, .probes, .rx, .fns, .reports, .out] s (execRhand t h o s) := by
  unfold execRhand
  repeat' first
    | exact Eq.refl true
    | with_reducible assumption
    | with_reducible apply Kept.ite
    | with_reducible apply Kept.refl
    | with_reducible apply OutKept.ite
    | with_reducible apply OutKept.next
    | with_reducible apply OutKept.fault
    | with_reducible apply Kept.step (k := State.issueTensor_kept ..)

/-! ### Units -/

theorem State.countPieces_kept (s) (c) (l) : Kept [.regs] s (State.countPieces s c l) := by
  unfold State.countPieces
  repeat' first
    | exact Eq.refl true
    | with_reducible assumption
    | with_reducible apply Kept.ite
    | with_reducible apply Kept.refl
    | (extract_lets +onlyGivenNames x; refine Kept.via x ?_ ?_; (on_goal 1 => (unfold x; clear x)); on_goal 2 => (intro hx; clear_value x))
    | (extract_lets +onlyGivenNames x; refine Kept.fn x ?_; unfold x; clear x)
    | (extract_lets +onlyGivenNames x; clear_value x)
    | with_reducible apply Kept.step (k := State.countPool_kept ..)
    | with_reducible apply Kept.step (k := State.countNearRead_kept ..)
    | with_reducible refine Kept.foldl _ (fun _ _ => ?_) _ _
    | with_reducible apply Kept.step (k := Kept.foldl (m := [.regs]) _ (fun _ _ => ?_) _ _)

theorem State.setSlot_kept (s) (tile) (peat) (r) (k) (x) : Kept [.slots] s (State.setSlot s tile peat r k x) := by
  unfold State.setSlot
  repeat' first
    | exact Eq.refl true
    | with_reducible assumption
    | with_reducible apply Kept.ite
    | with_reducible apply Kept.refl
    | with_reducible refine Kept.foldl _ (fun _ _ => ?_) _ _
    | with_reducible apply Kept.step (k := Kept.foldl (m := [.slots]) _ (fun _ _ => ?_) _ _)
    | split
    | with_reducible apply Kept.step (k := Kept.slots ..)

theorem State.takeSlot_kept (s) (c) : Kept [.slots] s (State.takeSlot s c) := by
  unfold State.takeSlot
  repeat' first
    | exact Eq.refl true
    | with_reducible assumption
    | with_reducible apply Kept.ite
    | with_reducible apply Kept.refl
    | with_reducible apply Kept.step (k := State.setSlot_kept ..)

theorem State.endClaims_kept (s) (a0) : Kept [.slots] s (State.endClaims s a0) := by
  induction a0 generalizing s with
  | nil => exact Kept.refl _ _
  | cons b r ih =>
    unfold State.endClaims
    repeat' first
      | exact Eq.refl true
      | with_reducible assumption
      | with_reducible apply Kept.ite
      | with_reducible apply Kept.refl
      | (extract_lets +onlyGivenNames x; refine Kept.via x ?_ ?_; (on_goal 1 => (unfold x; clear x)); on_goal 2 => (intro hx; clear_value x))
      | (extract_lets +onlyGivenNames x; clear_value x)
      | with_reducible apply Kept.step (k := ih ..)
      | with_reducible apply Kept.step (k := State.setSlot_kept ..)

theorem State.touchClaims_keptP (s) (mem) (off) (n) (l) : Kept [.slots] s (State.touchClaims s mem off n l).1 := by
  unfold State.touchClaims
  repeat' first
    | exact Eq.refl true
    | with_reducible assumption
    | with_reducible apply Kept.ite
    | with_reducible apply Kept.refl
    | (extract_lets +onlyGivenNames x; clear_value x)
    | with_reducible apply Kept.step (k := State.endClaims_kept ..)
theorem State.touchClaims_kept {s mem off n l zz tt} (h : State.touchClaims s mem off n l = (tt, zz)) : Kept [.slots] s tt := by
  have := State.touchClaims_keptP s mem off n l
  rw [h] at this
  exact this

theorem State.setProbes_kept (s) (tile) (l) : Kept [.probes] s (State.setProbes s tile l) := by
  unfold State.setProbes
  repeat' first
    | exact Eq.refl true
    | with_reducible assumption
    | with_reducible apply Kept.ite
    | with_reducible apply Kept.refl
    | with_reducible refine Kept.foldl _ (fun _ _ => ?_) _ _
    | with_reducible apply Kept.step (k := Kept.foldl (m := [.probes]) _ (fun _ _ => ?_) _ _)
    | split
    | with_reducible apply Kept.step (k := Kept.probes ..)

theorem State.claimAll_keptP (s) (tile) (rank) (held) (a0) : Kept [.slots] s (State.claimAll s tile rank held a0).1 := by
  induction a0 generalizing s tile rank held with
  | nil => exact Kept.refl _ _
  | cons b r ih =>
    unfold State.claimAll
    repeat' first
      | exact Eq.refl true
      | with_reducible assumption
      | with_reducible apply Kept.ite
      | with_reducible apply Kept.refl
      | (extract_lets +onlyGivenNames x; clear_value x)
      | with_reducible apply Kept.step (k := ih ..)
      | with_reducible apply Kept.step (k := State.takeSlot_kept ..)
      | with_reducible refine Kept.foldl _ (fun _ _ => ?_) _ _
      | with_reducible apply Kept.step (k := Kept.foldl (m := [.slots]) _ (fun _ _ => ?_) _ _)
      | split
theorem State.claimAll_kept {s tile rank held a0 zz tt} (h : State.claimAll s tile rank held a0 = (tt, zz)) : Kept [.slots] s tt := by
  have := State.claimAll_keptP s tile rank held a0
  rw [h] at this
  exact this

theorem State.mapWork_kept (s) (t) (u) (iid) (f) : Kept [.crus] s (State.mapWork s t u iid f) := by
  unfold State.mapWork
  repeat' first
    | exact Eq.refl true
    | with_reducible assumption
    | with_reducible apply Kept.ite
    | with_reducible apply Kept.refl
    | with_reducible apply Kept.step (k := State.setCru_kept ..)

theorem State.touchWork_kept (s) (t) (u) (iid) (mem) (off) (n) : Kept [.crus, .slots] s (State.touchWork s t u iid mem off n) := by
  unfold State.touchWork
  repeat' first
    | exact Eq.refl true
    | with_reducible assumption
    | with_reducible apply Kept.ite
    | with_reducible apply Kept.refl
    | with_reducible apply Kept.step (k := State.mapWork_kept ..)
    | with_reducible refine Kept.step ?_ (State.touchClaims_kept (by assumption)) ?_
    | with_reducible apply Kept.step (k := State.touchClaims_keptP ..)
    | with_reducible refine Kept.foldl _ (fun _ _ => ?_) _ _
    | with_reducible apply Kept.step (k := Kept.foldl (m := [.crus, .slots]) _ (fun _ _ => ?_) _ _)
    | split

theorem State.endSome_kept (s) (t) (u) (iid) (p) : Kept [.crus, .slots] s (State.endSome s t u iid p) := by
  unfold State.endSome
  repeat' first
    | exact Eq.refl true
    | with_reducible assumption
    | with_reducible apply Kept.ite
    | with_reducible apply Kept.refl
    | with_reducible apply Kept.step (k := State.mapWork_kept ..)
    | with_reducible apply Kept.step (k := State.endClaims_kept ..)
    | with_reducible refine Kept.foldl _ (fun _ _ => ?_) _ _
    | with_reducible apply Kept.step (k := Kept.foldl (m := [.crus, .slots]) _ (fun _ _ => ?_) _ _)
    | split

theorem State.dropWork_kept (s) (t) (u) (iid) : Kept [.tasks, .crus] s (State.dropWork s t u iid) := by
  unfold State.dropWork
  repeat' first
    | exact Eq.refl true
    | with_reducible assumption
    | with_reducible apply Kept.ite
    | with_reducible apply Kept.refl
    | (extract_lets +onlyGivenNames x; clear_value x)
    | with_reducible apply Kept.step (k := State.wakeTasks_kept ..)
    | with_reducible apply Kept.step (k := State.setCru_kept ..)

theorem State.claimNeeds_keptP (s) (c) (u) (l) : Kept [.regs, .crus, .slots] s (State.claimNeeds s c u l).2 := by
  unfold State.claimNeeds
  repeat' first
    | exact Eq.refl true
    | with_reducible assumption
    | with_reducible apply Kept.ite
    | with_reducible apply Kept.refl
    | with_reducible apply Kept.step (k := State.mapWork_kept ..)
    | with_reducible refine Kept.step ?_ (State.claimAll_kept (by assumption)) ?_
    | with_reducible apply Kept.step (k := State.claimAll_keptP ..)
    | with_reducible apply Kept.step (k := State.bump_kept ..)
    | with_reducible refine Kept.foldl _ (fun _ _ => ?_) _ _
    | with_reducible apply Kept.step (k := Kept.foldl (m := [.regs, .crus, .slots]) _ (fun _ _ => ?_) _ _)
    | split
theorem State.claimNeeds_kept {s c u l zz tt} (h : State.claimNeeds s c u l = (zz, tt)) : Kept [.regs, .crus, .slots] s tt := by
  have := State.claimNeeds_keptP s c u l
  rw [h] at this
  exact this

theorem State.claimWork_keptP (s) (c) (u) : Kept [.regs, .crus, .slots] s (State.claimWork s c u).2 := by
  unfold State.claimWork
  repeat' first
    | exact Eq.refl true
    | with_reducible assumption
    | with_reducible apply Kept.ite
    | with_reducible apply Kept.refl
    | with_reducible refine Kept.step ?_ (State.claimNeeds_kept (by assumption)) ?_
    | with_reducible apply Kept.step (k := State.claimNeeds_keptP ..)
theorem State.claimWork_kept {s c u zz tt} (h : State.claimWork s c u = (zz, tt)) : Kept [.regs, .crus, .slots] s tt := by
  have := State.claimWork_keptP s c u
  rw [h] at this
  exact this

theorem State.writePhys_kept (s) (t) (sp) (ph) (bs) : Kept [.regs, .pool, .peat, .poolBad, .peatBad, .crus] s (State.writePhys s t sp ph bs) := by
  unfold State.writePhys
  repeat' first
    | exact Eq.refl true
    | with_reducible assumption
    | with_reducible apply Kept.ite
    | with_reducible apply Kept.refl
    | with_reducible apply Kept.step (k := State.nearWrite_kept ..)
    | with_reducible apply Kept.step (k := State.writePool_kept ..)

theorem State.putFar_kept (s) (tile) (sp) (ph) (bs) : Kept [.pool, .peat, .mire] s (State.putFar s tile sp ph bs) := by
  unfold State.putFar
  repeat' first
    | exact Eq.refl true
    | with_reducible assumption
    | with_reducible apply Kept.ite
    | with_reducible apply Kept.refl
    | with_reducible refine Kept.foldl _ (fun _ _ => ?_) _ _
    | with_reducible apply Kept.step (k := Kept.foldl (m := [.pool, .peat, .mire]) _ (fun _ _ => ?_) _ _)
    | split
    | with_reducible apply Kept.step (k := Kept.mire _ _ (Store.set_wf 0 _ _ _))
    | with_reducible apply Kept.step (k := Kept.mire _ _ (putBytes_wf _ _ _))
    | with_reducible apply Kept.step (k := Kept.mire _ _ (Store.keep_wf 0 _ _))
    | with_reducible apply Kept.step (k := Kept.mire _ _ (fun _ => rfl))
    | with_reducible apply Kept.step (k := Kept.mire _ _ (outside_wf 0 _ _ _))
    | with_reducible apply Kept.step (k := Kept.mire _ _ (Store.upd_wf 0 _ _ _))
    | with_reducible apply Kept.step (k := Kept.mire _ _ (Store.mapVals_wf 0 _ _))
    | with_reducible apply Kept.step (k := Kept.pool _ _ (Store.set_wf 0 _ _ _))
    | with_reducible apply Kept.step (k := Kept.pool _ _ (putBytes_wf _ _ _))
    | with_reducible apply Kept.step (k := Kept.pool _ _ (Store.keep_wf 0 _ _))
    | with_reducible apply Kept.step (k := Kept.pool _ _ (fun _ => rfl))
    | with_reducible apply Kept.step (k := Kept.pool _ _ (outside_wf 0 _ _ _))
    | with_reducible apply Kept.step (k := Kept.pool _ _ (Store.upd_wf 0 _ _ _))
    | with_reducible apply Kept.step (k := Kept.pool _ _ (Store.mapVals_wf 0 _ _))
    | with_reducible apply Kept.step (k := Kept.peat _ _ (Store.set_wf 0 _ _ _))
    | with_reducible apply Kept.step (k := Kept.peat _ _ (putBytes_wf _ _ _))

theorem State.spoil_kept (s) (c) : Kept [.fresh, .regs, .pool, .peat, .mire, .poolBad, .peatBad, .crus] s (State.spoil s c) := by
  unfold State.spoil
  repeat' first
    | exact Eq.refl true
    | with_reducible assumption
    | with_reducible apply Kept.ite
    | with_reducible apply Kept.refl
    | (extract_lets +onlyGivenNames x; clear_value x)
    | with_reducible apply Kept.step (k := State.putFar_kept ..)
    | with_reducible apply Kept.step (k := State.writePhys_kept ..)
    | with_reducible apply Kept.step (k := State.tickFresh_kept ..)
    | with_reducible refine Kept.foldl _ (fun _ _ => ?_) _ _

theorem State.unitFault_kept (s) (c) (unit) (code) (addr) (off) : Kept [.fresh, .regs, .pool, .peat, .mire, .poolBad, .peatBad, .tasks, .crus, .slots, .probes, .rx, .fns, .reports, .out] s (State.unitFault s c unit code addr off) := by
  unfold State.unitFault
  repeat' first
    | exact Eq.refl true
    | with_reducible assumption
    | with_reducible apply Kept.ite
    | with_reducible apply Kept.refl
    | (extract_lets +onlyGivenNames x; refine Kept.via x ?_ ?_; (on_goal 1 => (unfold x; clear x)); on_goal 2 => (intro hx; clear_value x))
    | with_reducible apply Kept.step (k := State.spoil_kept ..)
    | with_reducible apply Kept.step (k := State.taskFault_kept ..)
    | with_reducible apply Kept.step (k := State.discard_kept ..)

theorem State.unitEccNote_kept (s) (c) (u) (p) (e) : Kept [.fresh, .regs, .fns, .out] s (State.unitEccNote s c u p e) := by
  unfold State.unitEccNote
  repeat' first
    | exact Eq.refl true
    | with_reducible assumption
    | with_reducible apply Kept.ite
    | with_reducible apply Kept.refl
    | with_reducible apply Kept.step (k := State.nearEcc_kept ..)
    | with_reducible apply Kept.step (k := State.poolEcc_kept ..)
    | with_reducible refine Kept.foldl _ (fun _ _ => ?_) _ _
    | with_reducible apply Kept.step (k := Kept.foldl (m := [.fresh, .regs, .fns, .out]) _ (fun _ _ => ?_) _ _)
    | split

theorem State.unitEcc_kept (s) (c) (u) (p) : Kept [.fresh, .regs, .pool, .peat, .mire, .poolBad, .peatBad, .tasks, .crus, .slots, .probes, .rx, .fns, .reports, .out] s (State.unitEcc s c u p) := by
  unfold State.unitEcc
  repeat' first
    | exact Eq.refl true
    | with_reducible assumption
    | with_reducible apply Kept.ite
    | with_reducible apply Kept.refl
    | with_reducible apply Kept.step (k := State.unitEccNote_kept ..)
    | with_reducible apply Kept.step (k := State.unitFault_kept ..)

theorem State.writeRows_kept (s) (t) (sp) (ph) (a0) : Kept [.regs, .pool, .peat, .poolBad, .peatBad, .crus] s (State.writeRows s t sp ph a0) := by
  induction a0 generalizing s t sp ph with
  | nil => exact Kept.refl _ _
  | cons b r ih =>
    unfold State.writeRows
    repeat' first
      | exact Eq.refl true
      | with_reducible assumption
      | with_reducible apply Kept.ite
      | with_reducible apply Kept.refl
      | with_reducible apply Kept.step (k := ih ..)
      | with_reducible apply Kept.step (k := State.writePhys_kept ..)

/-! ### Attention -/

theorem State.countReads_kept (s) (t) (l) : Kept [.regs] s (State.countReads s t l) := by
  unfold State.countReads
  repeat' first
    | exact Eq.refl true
    | with_reducible assumption
    | with_reducible apply Kept.ite
    | with_reducible apply Kept.refl
    | with_reducible apply Kept.step (k := State.countNearRead_kept ..)
    | with_reducible refine Kept.foldl _ (fun _ _ => ?_) _ _

theorem State.readMireRecs_keptP (s) (n) (a0) : Kept [.regs, .banks, .fns, .evWay, .out] s (State.readMireRecs s n a0).2 := by
  induction a0 generalizing s n with
  | nil => exact Kept.refl _ _
  | cons b r ih =>
    unfold State.readMireRecs
    repeat' first
      | exact Eq.refl true
      | with_reducible assumption
      | with_reducible apply Kept.ite
      | with_reducible apply Kept.refl
      | with_reducible apply Kept.step (k := ih ..)
      | with_reducible refine Kept.step ?_ (State.mireServeRead_kept (by assumption)) ?_
      | with_reducible apply Kept.step (k := State.mireServeRead_keptP ..)
      | with_reducible refine Kept.foldl _ (fun _ _ => ?_) _ _
      | with_reducible apply Kept.step (k := Kept.foldl (m := [.regs, .banks, .fns, .evWay, .out]) _ (fun _ _ => ?_) _ _)
      | split
      | (cases ‹List.cons _ _ = List.cons _ _›)
theorem State.readMireRecs_kept {s n a0 zz tt} (h : State.readMireRecs s n a0 = (zz, tt)) : Kept [.regs, .banks, .fns, .evWay, .out] s tt := by
  have := State.readMireRecs_keptP s n a0
  rw [h] at this
  exact this

theorem State.writeRec_keptP (s) (tile) (bs) (a0) : Kept [.regs, .peat, .mire, .peatBad, .mireBad, .banks, .fns, .out] s (State.writeRec s tile bs a0).2 := by
  induction a0 generalizing s tile bs with
  | nil => exact Kept.refl _ _
  | cons b r ih =>
    unfold State.writeRec
    repeat' first
      | exact Eq.refl true
      | with_reducible assumption
      | with_reducible apply Kept.ite
      | with_reducible apply Kept.refl
      | with_reducible apply Kept.step (k := ih ..)
      | with_reducible refine Kept.step ?_ (State.mireServeWrite_kept (by assumption)) ?_
      | with_reducible apply Kept.step (k := State.mireServeWrite_keptP ..)
      | with_reducible apply Kept.step (k := State.writePeat_kept ..)
      | with_reducible refine Kept.foldl _ (fun _ _ => ?_) _ _
      | with_reducible apply Kept.step (k := Kept.foldl (m := [.regs, .peat, .mire, .peatBad, .mireBad, .banks, .fns, .out]) _ (fun _ _ => ?_) _ _)
      | split
      | (cases ‹List.cons _ _ = List.cons _ _›)
theorem State.writeRec_kept {s tile bs a0 zz tt} (h : State.writeRec s tile bs a0 = (zz, tt)) : Kept [.regs, .peat, .mire, .peatBad, .mireBad, .banks, .fns, .out] s tt := by
  have := State.writeRec_keptP s tile bs a0
  rw [h] at this
  exact this

theorem State.writeRecs_keptP (s) (tile) (a0) : Kept [.regs, .peat, .mire, .peatBad, .mireBad, .banks, .fns, .out] s (State.writeRecs s tile a0).2 := by
  induction a0 generalizing s tile with
  | nil => exact Kept.refl _ _
  | cons b r ih =>
    unfold State.writeRecs
    repeat' first
      | exact Eq.refl true
      | with_reducible assumption
      | with_reducible apply Kept.ite
      | with_reducible apply Kept.refl
      | with_reducible apply Kept.step (k := ih ..)
      | with_reducible refine Kept.step ?_ (State.writeRec_kept (by assumption)) ?_
      | with_reducible apply Kept.step (k := State.writeRec_keptP ..)
      | with_reducible refine Kept.foldl _ (fun _ _ => ?_) _ _
      | with_reducible apply Kept.step (k := Kept.foldl (m := [.regs, .peat, .mire, .peatBad, .mireBad, .banks, .fns, .out]) _ (fun _ _ => ?_) _ _)
      | split
theorem State.writeRecs_kept {s tile a0 zz tt} (h : State.writeRecs s tile a0 = (zz, tt)) : Kept [.regs, .peat, .mire, .peatBad, .mireBad, .banks, .fns, .out] s tt := by
  have := State.writeRecs_keptP s tile a0
  rw [h] at this
  exact this

theorem State.spoilRecs_kept (s) (tile) (n) (l) : Kept [.fresh, .peat, .mire] s (State.spoilRecs s tile n l) := by
  unfold State.spoilRecs
  repeat' first
    | exact Eq.refl true
    | with_reducible assumption
    | with_reducible apply Kept.ite
    | with_reducible apply Kept.refl
    | with_reducible apply Kept.step (k := State.tickFresh_kept ..)
    | with_reducible refine Kept.foldl _ (fun _ _ => ?_) _ _
    | with_reducible apply Kept.step (k := Kept.foldl (m := [.fresh, .peat, .mire]) _ (fun _ _ => ?_) _ _)
    | split
    | with_reducible apply Kept.step (k := Kept.peat _ _ (Store.set_wf 0 _ _ _))
    | with_reducible apply Kept.step (k := Kept.peat _ _ (putBytes_wf _ _ _))
    | with_reducible apply Kept.step (k := Kept.peat _ _ (Store.keep_wf 0 _ _))
    | with_reducible apply Kept.step (k := Kept.peat _ _ (fun _ => rfl))
    | with_reducible apply Kept.step (k := Kept.peat _ _ (outside_wf 0 _ _ _))
    | with_reducible apply Kept.step (k := Kept.peat _ _ (Store.upd_wf 0 _ _ _))
    | with_reducible apply Kept.step (k := Kept.peat _ _ (Store.mapVals_wf 0 _ _))
    | with_reducible apply Kept.step (k := Kept.mire _ _ (Store.set_wf 0 _ _ _))
    | with_reducible apply Kept.step (k := Kept.mire _ _ (putBytes_wf _ _ _))

/-! ### Runner -/

theorem State.finishWork_kept (s) (c) (u) (h) (fl) : Kept [.regs, .peat, .peatBad, .tasks, .crus, .gates, .slots] s (State.finishWork s c u h fl) := by
  unfold State.finishWork
  repeat' first
    | exact Eq.refl true
    | with_reducible assumption
    | with_reducible apply Kept.ite
    | with_reducible apply Kept.refl
    | with_reducible apply Kept.step (k := State.dropWork_kept ..)
    | with_reducible apply Kept.step (k := State.endClaims_kept ..)
    | with_reducible apply Kept.step (k := State.unitGateAdd_kept ..)
    | with_reducible apply Kept.step (k := State.orFlags_kept ..)

theorem State.injectMove_keptO (s) (tile) (pol) (a0) : OptKept [.regs, .net, .ports, .fns, .reports, .out] s (State.injectMove s tile pol a0) := by
  induction a0 generalizing s tile pol with
  | nil => exact OptKept.some (Kept.refl _ _)
  | cons b r ih =>
    unfold State.injectMove
    repeat' first
      | exact Eq.refl true
      | with_reducible assumption
      | with_reducible apply Kept.ite
      | with_reducible apply Kept.refl
      | with_reducible apply OptKept.ite
      | with_reducible apply OptKept.some
      | with_reducible apply OptKept.none
      | with_reducible refine OptKept.first ?_ (ih ..) ?_
      | with_reducible refine Kept.step ?_ (State.inject_kept (by assumption)) ?_
      | with_reducible refine Kept.foldl _ (fun _ _ => ?_) _ _
      | with_reducible apply Kept.step (k := Kept.foldl (m := [.regs, .net, .ports, .fns, .reports, .out]) _ (fun _ _ => ?_) _ _)
      | split
theorem State.injectMove_kept {s tile pol a0 uu} (hh : State.injectMove s tile pol a0 = some uu) : Kept [.regs, .net, .ports, .fns, .reports, .out] s uu := State.injectMove_keptO s tile pol a0 uu hh

theorem State.moveFails_kept (s) (c) (a) : Kept [.fresh, .regs, .pool, .peat, .mire, .poolBad, .peatBad, .tasks, .crus, .slots, .probes, .rx, .fns, .reports, .out] s (State.moveFails s c a) := by
  unfold State.moveFails
  repeat' first
    | exact Eq.refl true
    | with_reducible assumption
    | with_reducible apply Kept.ite
    | with_reducible apply Kept.refl
    | with_reducible apply Kept.step (k := State.unitFault_kept ..)

theorem State.takeTag_keptP (s) : Kept [.nextTag] s (State.takeTag s).2 := by
  unfold State.takeTag
  repeat' first
    | exact Eq.refl true
    | with_reducible assumption
    | with_reducible apply Kept.ite
    | with_reducible apply Kept.refl
    | with_reducible refine Kept.foldl _ (fun _ _ => ?_) _ _
    | with_reducible apply Kept.step (k := Kept.foldl (m := [.nextTag]) _ (fun _ _ => ?_) _ _)
    | split
    | with_reducible apply Kept.step (k := Kept.nextTag ..)
theorem State.takeTag_kept {s zz tt} (h : State.takeTag s = (zz, tt)) : Kept [.nextTag] s tt := by
  have := State.takeTag_keptP s
  rw [h] at this
  exact this

theorem State.sendMove_kept (s) (c) (a) (tag) (left) (l) : Kept (.fresh :: .regs :: .pool :: .peat :: .mire :: .poolBad :: .peatBad :: .tasks :: .crus :: .slots :: .probes :: .rx :: .net :: .ports :: .fns :: .reports :: .out :: []) s (State.sendMove s c a tag left l) := by
  unfold State.sendMove
  repeat' first
    | exact Eq.refl true
    | with_reducible assumption
    | with_reducible apply Kept.ite
    | with_reducible apply Kept.refl
    | with_reducible apply Kept.step (k := State.moveFails_kept ..)
    | with_reducible refine Kept.step ?_ (State.injectMove_kept (by assumption)) ?_
    | with_reducible apply Kept.step (k := State.endSome_kept ..)
    | with_reducible apply Kept.step (k := State.mapWork_kept ..)
    | with_reducible apply Kept.step (k := State.noRoute_kept ..)
    | with_reducible refine Kept.foldl _ (fun _ _ => ?_) _ _
    | with_reducible apply Kept.step (k := Kept.foldl (m := (.fresh :: .regs :: .pool :: .peat :: .mire :: .poolBad :: .peatBad :: .tasks :: .crus :: .slots :: .probes :: .rx :: .net :: .ports :: .fns :: .reports :: .out :: [])) _ (fun _ _ => ?_) _ _)
    | split

theorem State.finishMove_kept (s) (c) (j) (rg) : Kept [.regs, .peat, .peatBad, .tasks, .crus, .gates, .slots] s (State.finishMove s c j rg) := by
  unfold State.finishMove
  repeat' first
    | exact Eq.refl true
    | with_reducible assumption
    | with_reducible apply Kept.ite
    | with_reducible apply Kept.refl
    | (extract_lets +onlyGivenNames x; refine Kept.via x ?_ ?_; (on_goal 1 => (unfold x; clear x)); on_goal 2 => (intro hx; clear_value x))
    | with_reducible apply Kept.step (k := State.finishWork_kept ..)
    | with_reducible apply Kept.step (k := State.unitGateAdd_kept ..)

theorem State.moveOut_kept (s) (c) (j) (dst) (mire) (tag) : Kept (.fresh :: .regs :: .pool :: .peat :: .mire :: .poolBad :: .peatBad :: .tasks :: .crus :: .slots :: .probes :: .rx :: .net :: .ports :: .fns :: .reports :: .out :: []) s (State.moveOut s c j dst mire tag) := by
  unfold State.moveOut
  repeat' first
    | exact Eq.refl true
    | with_reducible assumption
    | with_reducible apply Kept.ite
    | with_reducible apply Kept.refl
    | (extract_lets +onlyGivenNames x; refine Kept.via x ?_ ?_; (on_goal 1 => (unfold x; clear x)); on_goal 2 => (intro hx; clear_value x))
    | (extract_lets +onlyGivenNames x; clear_value x)
    | with_reducible apply Kept.step (k := State.sendMove_kept ..)
    | with_reducible apply Kept.step (k := State.countPieces_kept ..)
    | with_reducible apply Kept.step (k := State.orFlags_kept ..)
    | with_reducible apply Kept.step (k := State.gbFlushAll_kept ..)

theorem State.zeroRows_kept (s) (c) : Kept [.regs, .pool, .peat, .poolBad, .peatBad, .crus, .slots] s (State.zeroRows s c) := by
  unfold State.zeroRows
  repeat' first
    | exact Eq.refl true
    | with_reducible assumption
    | with_reducible apply Kept.ite
    | with_reducible apply Kept.refl
    | (extract_lets +onlyGivenNames x; refine Kept.via x ?_ ?_; (on_goal 1 => (unfold x; clear x)); on_goal 2 => (intro hx; clear_value x))
    | with_reducible apply Kept.step (k := State.writePhys_kept ..)
    | with_reducible apply Kept.step (k := State.touchWork_kept ..)
    | with_reducible apply Kept.step (k := State.countPieces_kept ..)
    | with_reducible refine Kept.foldl _ (fun _ _ => ?_) _ _
    | with_reducible apply Kept.step (k := Kept.foldl (m := [.regs, .pool, .peat, .poolBad, .peatBad, .crus, .slots]) _ (fun _ _ => ?_) _ _)
    | split

theorem State.moveIn_kept (s) (c) (j) (src) (mire) (tag) : Kept (.fresh :: .regs :: .pool :: .peat :: .mire :: .poolBad :: .peatBad :: .tasks :: .crus :: .gates :: .slots :: .probes :: .rx :: .net :: .ports :: .fns :: .reports :: .out :: []) s (State.moveIn s c j src mire tag) := by
  unfold State.moveIn
  repeat' first
    | exact Eq.refl true
    | with_reducible assumption
    | with_reducible apply Kept.ite
    | with_reducible apply Kept.refl
    | with_reducible apply Kept.step (k := State.zeroRows_kept ..)
    | with_reducible apply Kept.step (k := State.finishMove_kept ..)
    | with_reducible apply Kept.step (k := State.sendMove_kept ..)
    | with_reducible apply Kept.step (k := State.orFlags_kept ..)

theorem State.sendProbe_kept (s) (c) (d) (write) (picked) (dst) (tag) : Kept (.fresh :: .regs :: .pool :: .peat :: .mire :: .poolBad :: .peatBad :: .tasks :: .crus :: .slots :: .probes :: .rx :: .net :: .ports :: .fns :: .reports :: .out :: []) s (State.sendProbe s c d write picked dst tag) := by
  unfold State.sendProbe
  repeat' first
    | exact Eq.refl true
    | with_reducible assumption
    | with_reducible apply Kept.ite
    | with_reducible apply Kept.refl
    | (extract_lets +onlyGivenNames x; clear_value x)
    | with_reducible apply Kept.step (k := State.moveFails_kept ..)
    | with_reducible apply Kept.step (k := State.mapWork_kept ..)
    | with_reducible refine Kept.step ?_ (State.inject_kept (by assumption)) ?_
    | with_reducible apply Kept.step (k := State.noRoute_kept ..)
    | with_reducible refine Kept.foldl _ (fun _ _ => ?_) _ _
    | with_reducible apply Kept.step (k := Kept.foldl (m := (.fresh :: .regs :: .pool :: .peat :: .mire :: .poolBad :: .peatBad :: .tasks :: .crus :: .slots :: .probes :: .rx :: .net :: .ports :: .fns :: .reports :: .out :: [])) _ (fun _ _ => ?_) _ _)
    | split

theorem State.launch_kept (s) (c) (j) (tag) : Kept (.fresh :: .regs :: .pool :: .peat :: .mire :: .poolBad :: .peatBad :: .tasks :: .crus :: .gates :: .slots :: .probes :: .rx :: .net :: .ports :: .fns :: .reports :: .out :: []) s (State.launch s c j tag) := by
  unfold State.launch
  repeat' first
    | exact Eq.refl true
    | with_reducible assumption
    | with_reducible apply Kept.ite
    | with_reducible apply Kept.refl
    | with_reducible apply Kept.step (k := State.moveIn_kept ..)
    | with_reducible apply Kept.step (k := State.moveOut_kept ..)
    | with_reducible apply Kept.step (k := State.moveFails_kept ..)
    | with_reducible apply Kept.step (k := State.slotMiss_kept ..)
    | with_reducible refine Kept.foldl _ (fun _ _ => ?_) _ _
    | with_reducible apply Kept.step (k := Kept.foldl (m := (.fresh :: .regs :: .pool :: .peat :: .mire :: .poolBad :: .peatBad :: .tasks :: .crus :: .gates :: .slots :: .probes :: .rx :: .net :: .ports :: .fns :: .reports :: .out :: [])) _ (fun _ _ => ?_) _ _)
    | split

theorem State.emptyMove_kept (s) (c) (j) : Kept (.fresh :: .regs :: .pool :: .peat :: .mire :: .poolBad :: .peatBad :: .tasks :: .crus :: .gates :: .slots :: .probes :: .rx :: .net :: .ports :: .fns :: .reports :: .out :: []) s (State.emptyMove s c j) := by
  unfold State.emptyMove
  repeat' first
    | exact Eq.refl true
    | with_reducible assumption
    | with_reducible apply Kept.ite
    | with_reducible apply Kept.refl
    | with_reducible apply Kept.step (k := State.finishMove_kept ..)
    | with_reducible apply Kept.step (k := State.moveFails_kept ..)
    | with_reducible refine Kept.step ?_ (State.inject_kept (by assumption)) ?_
    | with_reducible apply Kept.step (k := State.noRoute_kept ..)
    | with_reducible apply Kept.step (k := State.slotMiss_kept ..)
    | with_reducible apply Kept.step (k := State.gbFlushAll_kept ..)
    | with_reducible refine Kept.foldl _ (fun _ _ => ?_) _ _
    | with_reducible apply Kept.step (k := Kept.foldl (m := (.fresh :: .regs :: .pool :: .peat :: .mire :: .poolBad :: .peatBad :: .tasks :: .crus :: .gates :: .slots :: .probes :: .rx :: .net :: .ports :: .fns :: .reports :: .out :: [])) _ (fun _ _ => ?_) _ _)
    | split

theorem State.probeIdx_kept (s) (c) (j) : Kept (.fresh :: .regs :: .pool :: .peat :: .mire :: .poolBad :: .peatBad :: .tasks :: .crus :: .slots :: .probes :: .rx :: .net :: .ports :: .nextTag :: .fns :: .reports :: .out :: []) s (State.probeIdx s c j) := by
  unfold State.probeIdx
  repeat' first
    | exact Eq.refl true
    | with_reducible assumption
    | with_reducible apply Kept.ite
    | with_reducible apply Kept.refl
    | (extract_lets +onlyGivenNames x; clear_value x)
    | with_reducible apply Kept.step (k := State.sendProbe_kept ..)
    | with_reducible refine Kept.step ?_ (State.takeTag_kept (by assumption)) ?_
    | with_reducible apply Kept.step (k := State.takeTag_keptP ..)
    | with_reducible apply Kept.step (k := State.moveFails_kept ..)
    | with_reducible apply Kept.step (k := State.slotMiss_kept ..)
    | with_reducible refine Kept.foldl _ (fun _ _ => ?_) _ _
    | with_reducible apply Kept.step (k := Kept.foldl (m := (.fresh :: .regs :: .pool :: .peat :: .mire :: .poolBad :: .peatBad :: .tasks :: .crus :: .slots :: .probes :: .rx :: .net :: .ports :: .nextTag :: .fns :: .reports :: .out :: [])) _ (fun _ _ => ?_) _ _)
    | split

theorem State.runMove_kept (s) (c) (j) : Kept (.fresh :: .regs :: .pool :: .peat :: .mire :: .poolBad :: .peatBad :: .tasks :: .crus :: .gates :: .slots :: .probes :: .rx :: .net :: .ports :: .nextTag :: .fns :: .reports :: .out :: []) s (State.runMove s c j) := by
  unfold State.runMove
  repeat' first
    | exact Eq.refl true
    | with_reducible assumption
    | with_reducible apply Kept.ite
    | with_reducible apply Kept.refl
    | (extract_lets +onlyGivenNames x; refine Kept.via x ?_ ?_; (on_goal 1 => (unfold x; clear x)); on_goal 2 => (intro hx; clear_value x))
    | (extract_lets +onlyGivenNames x; clear_value x)
    | with_reducible apply Kept.step (k := State.launch_kept ..)
    | with_reducible apply Kept.step (k := State.sendProbe_kept ..)
    | with_reducible apply Kept.step (k := State.finishMove_kept ..)
    | with_reducible refine Kept.step ?_ (State.takeTag_kept (by assumption)) ?_
    | with_reducible apply Kept.step (k := State.takeTag_keptP ..)
    | with_reducible apply Kept.step (k := State.moveFails_kept ..)
    | with_reducible apply Kept.step (k := State.writeRows_kept ..)
    | with_reducible apply Kept.step (k := State.unitEcc_kept ..)
    | with_reducible apply Kept.step (k := State.spoil_kept ..)
    | with_reducible apply Kept.step (k := State.countPieces_kept ..)
    | with_reducible apply Kept.step (k := State.slotMiss_kept ..)
    | with_reducible apply Kept.step (k := State.orFlags_kept ..)
    | with_reducible refine Kept.foldl _ (fun _ _ => ?_) _ _
    | with_reducible apply Kept.step (k := Kept.foldl (m := (.fresh :: .regs :: .pool :: .peat :: .mire :: .poolBad :: .peatBad :: .tasks :: .crus :: .gates :: .slots :: .probes :: .rx :: .net :: .ports :: .nextTag :: .fns :: .reports :: .out :: [])) _ (fun _ _ => ?_) _ _)
    | split

theorem State.moveProgress_kept (s) (c) (n) : Kept [.regs, .peat, .peatBad, .tasks, .crus, .gates, .slots] s (State.moveProgress s c n) := by
  unfold State.moveProgress
  repeat' first
    | exact Eq.refl true
    | with_reducible assumption
    | with_reducible apply Kept.ite
    | with_reducible apply Kept.refl
    | with_reducible apply Kept.step (k := State.finishMove_kept ..)
    | with_reducible apply Kept.step (k := State.mapWork_kept ..)
    | with_reducible refine Kept.foldl _ (fun _ _ => ?_) _ _
    | with_reducible apply Kept.step (k := Kept.foldl (m := [.regs, .peat, .peatBad, .tasks, .crus, .gates, .slots]) _ (fun _ _ => ?_) _ _)
    | split

theorem State.writePlace_kept (s) (tile) (p) (bs) : Kept [.regs, .pool, .peat, .poolBad, .peatBad] s (State.writePlace s tile p bs) := by
  unfold State.writePlace
  repeat' first
    | exact Eq.refl true
    | with_reducible assumption
    | with_reducible apply Kept.ite
    | with_reducible apply Kept.refl
    | with_reducible apply Kept.step (k := State.countPool_kept ..)
    | with_reducible apply Kept.step (k := State.writePeat_kept ..)
    | with_reducible apply Kept.step (k := State.writePool_kept ..)

theorem State.tileReply_kept (s) (tile) (p) (op) (addr) (operand) (payload) : Kept [.regs, .net, .ports, .fns, .reports, .out] s (State.tileReply s tile p op addr operand payload) := by
  unfold State.tileReply
  repeat' first
    | exact Eq.refl true
    | with_reducible assumption
    | with_reducible apply Kept.ite
    | with_reducible apply Kept.refl
    | with_reducible apply Kept.step (k := State.injectOr_kept ..)

theorem State.setRx_kept (s) (tile) (l) : Kept [.rx] s (State.setRx s tile l) := by
  unfold State.setRx
  repeat' first
    | exact Eq.refl true
    | with_reducible assumption
    | with_reducible apply Kept.ite
    | with_reducible apply Kept.refl
    | with_reducible refine Kept.foldl _ (fun _ _ => ?_) _ _
    | with_reducible apply Kept.step (k := Kept.foldl (m := [.rx]) _ (fun _ _ => ?_) _ _)
    | split
    | with_reducible apply Kept.step (k := Kept.rx ..)

theorem State.rxClaim_keptP (s) (tile) (rank) (mem) (off) (n) (held) (a0) : Kept [.slots] s (State.rxClaim s tile rank mem off n held a0).1 := by
  induction a0 generalizing s tile rank mem off n held with
  | nil => exact Kept.refl _ _
  | cons b r ih =>
    unfold State.rxClaim
    repeat' first
      | exact Eq.refl true
      | with_reducible assumption
      | with_reducible apply Kept.ite
      | with_reducible apply Kept.refl
      | with_reducible apply Kept.step (k := ih ..)
      | with_reducible apply Kept.step (k := State.takeSlot_kept ..)
      | with_reducible refine Kept.foldl _ (fun _ _ => ?_) _ _
      | with_reducible apply Kept.step (k := Kept.foldl (m := [.slots]) _ (fun _ _ => ?_) _ _)
      | split
theorem State.rxClaim_kept {s tile rank mem off n held a0 zz tt} (h : State.rxClaim s tile rank mem off n held a0 = (tt, zz)) : Kept [.slots] s tt := by
  have := State.rxClaim_keptP s tile rank mem off n held a0
  rw [h] at this
  exact this

theorem State.countWait_kept (s) (tile) (peat) : Kept [.regs] s (State.countWait s tile peat) := by
  unfold State.countWait
  repeat' first
    | exact Eq.refl true
    | with_reducible assumption
    | with_reducible apply Kept.ite
    | with_reducible apply Kept.refl
    | with_reducible apply Kept.step (k := State.bump_kept ..)

theorem State.parkProbe_kept (s) (tile) (k) (p) (want) : Kept [.regs, .probes] s (State.parkProbe s tile k p want) := by
  unfold State.parkProbe
  repeat' first
    | exact Eq.refl true
    | with_reducible assumption
    | with_reducible apply Kept.ite
    | with_reducible apply Kept.refl
    | with_reducible apply Kept.step (k := State.countWait_kept ..)
    | with_reducible apply Kept.step (k := State.setProbes_kept ..)
    | with_reducible refine Kept.foldl _ (fun _ _ => ?_) _ _
    | with_reducible apply Kept.step (k := Kept.foldl (m := [.regs, .probes]) _ (fun _ _ => ?_) _ _)
    | split

theorem State.rxReady_keptP (s) (tile) (k) (n) (p) : Kept [.regs, .slots, .probes, .rx] s (State.rxReady s tile k n p).2 := by
  unfold State.rxReady
  repeat' first
    | exact Eq.refl true
    | with_reducible assumption
    | with_reducible apply Kept.ite
    | with_reducible apply Kept.refl
    | (extract_lets +onlyGivenNames x; refine Kept.via x ?_ ?_; (on_goal 1 => (unfold x; clear x)); on_goal 2 => (intro hx; clear_value x))
    | (extract_lets +onlyGivenNames x; clear_value x)
    | with_reducible apply Kept.step (k := State.parkProbe_kept ..)
    | with_reducible refine Kept.step ?_ (State.rxClaim_kept (by assumption)) ?_
    | with_reducible apply Kept.step (k := State.rxClaim_keptP ..)
    | with_reducible apply Kept.step (k := State.setRx_kept ..)
    | with_reducible refine Kept.foldl _ (fun _ _ => ?_) _ _
    | with_reducible apply Kept.step (k := Kept.foldl (m := [.regs, .slots, .probes, .rx]) _ (fun _ _ => ?_) _ _)
    | split
theorem State.rxReady_kept {s tile k n p zz tt} (h : State.rxReady s tile k n p = (zz, tt)) : Kept [.regs, .slots, .probes, .rx] s tt := by
  have := State.rxReady_keptP s tile k n p
  rw [h] at this
  exact this

theorem State.doWr_kept (t) (tile) (p) : Kept [.regs, .pool, .peat, .poolBad, .peatBad, .gates, .slots, .rx, .net, .ports, .fns, .reports, .out] t (State.doWr t tile p) := by
  unfold State.doWr
  repeat' first
    | exact Eq.refl true
    | with_reducible assumption
    | with_reducible apply Kept.ite
    | with_reducible apply Kept.refl
    | (extract_lets +onlyGivenNames x; refine Kept.via x ?_ ?_; (on_goal 1 => (unfold x; clear x)); on_goal 2 => (intro hx; clear_value x))
    | with_reducible apply Kept.step (k := State.setRx_kept ..)
    | with_reducible apply Kept.step (k := State.tileReply_kept ..)
    | with_reducible apply Kept.step (k := State.writePlace_kept ..)
    | with_reducible refine Kept.step ?_ (State.touchClaims_kept (by assumption)) ?_
    | with_reducible apply Kept.step (k := State.touchClaims_keptP ..)
    | with_reducible apply Kept.step (k := State.endClaims_kept ..)
    | with_reducible apply Kept.step (k := State.meshGateAdd_kept ..)

theorem State.placeEcc_kept (s) (tile) (pl) (off) (e) (poison) : Kept [.fresh, .regs, .fns, .out] s (State.placeEcc s tile pl off e poison) := by
  unfold State.placeEcc
  repeat' first
    | exact Eq.refl true
    | with_reducible assumption
    | with_reducible apply Kept.ite
    | with_reducible apply Kept.refl
    | with_reducible apply Kept.step (k := State.peatEcc_kept ..)
    | with_reducible apply Kept.step (k := State.poolEcc_kept ..)

theorem State.doRd_kept (t) (tile) (p) (e) : Kept [.fresh, .regs, .pool, .peat, .slots, .rx, .net, .ports, .fns, .reports, .out] t (State.doRd t tile p e) := by
  unfold State.doRd
  repeat' first
    | exact Eq.refl true
    | with_reducible assumption
    | with_reducible apply Kept.ite
    | with_reducible apply Kept.refl
    | (extract_lets +onlyGivenNames x; clear_value x)
    | with_reducible apply Kept.step (k := State.placeEcc_kept ..)
    | with_reducible apply Kept.step (k := State.setRx_kept ..)
    | with_reducible apply Kept.step (k := State.tileReply_kept ..)
    | with_reducible refine Kept.step ?_ (State.touchClaims_kept (by assumption)) ?_
    | with_reducible apply Kept.step (k := State.touchClaims_keptP ..)
    | with_reducible apply Kept.step (k := State.endClaims_kept ..)
    | with_reducible apply Kept.step (k := State.countPool_kept ..)
    | with_reducible apply Kept.step (k := State.revertClaims_kept ..)
    | with_reducible apply Kept.step (k := State.countPeatRead_kept ..)

theorem State.incoming_kept {m s op p n go} (hm : Field.within [.regs, .slots, .probes, .rx, .arrivals, .fns, .reports, .out] m = true) (hf : ∀ i t, Kept m t (go i t)) :
    Kept m s (State.incoming s op p n go) := by
  unfold State.incoming
  split
  · exact Kept.refl _ _
  · refine State.eject_kept (Field.within_trans _ _ _ rfl hm) (fun i t => ?_)
    have h := State.rxReady_keptP t i (t.probesAt i).length n p
    have h1 := h.mono (Field.within_trans _ _ _ rfl hm)
    split
    · rename_i u hu
      rw [hu] at h1
      exact h1
    · rename_i u hu
      rw [hu] at h1
      exact h1.trans (hf _ _)

theorem execWr_kept (p) (s) : OutKept [.regs, .pool, .peat, .poolBad, .peatBad, .gates, .slots, .probes, .rx, .net, .arrivals, .ports, .fns, .reports, .out] s (execWr p s) := by
  unfold execWr
  repeat' first
    | exact Eq.refl true
    | with_reducible assumption
    | with_reducible apply Kept.ite
    | with_reducible apply Kept.refl
    | with_reducible apply OutKept.ite
    | with_reducible apply OutKept.next
    | with_reducible apply OutKept.fault
    | with_reducible refine Kept.step ?_ (State.incoming_kept (m := [.regs, .pool, .peat, .poolBad, .peatBad, .gates, .slots, .probes, .rx, .net, .arrivals, .ports, .fns, .reports, .out]) ?_ (fun _ => ?_) ..) ?_
    | with_reducible apply Kept.step (k := State.doWr_kept ..)
    | with_reducible refine Kept.foldl _ (fun _ _ => ?_) _ _
    | with_reducible apply Kept.step (k := Kept.foldl (m := [.regs, .pool, .peat, .poolBad, .peatBad, .gates, .slots, .probes, .rx, .net, .arrivals, .ports, .fns, .reports, .out]) _ (fun _ _ => ?_) _ _)
    | split
    | (cases ‹List.cons _ _ = List.cons _ _›)
    | intro _

theorem execRd_kept (p) (e) (s) : OutKept [.fresh, .regs, .pool, .peat, .slots, .probes, .rx, .net, .arrivals, .ports, .fns, .reports, .out] s (execRd p e s) := by
  unfold execRd
  repeat' first
    | exact Eq.refl true
    | with_reducible assumption
    | with_reducible apply Kept.ite
    | with_reducible apply Kept.refl
    | with_reducible apply OutKept.ite
    | with_reducible apply OutKept.next
    | with_reducible apply OutKept.fault
    | with_reducible refine Kept.step ?_ (State.incoming_kept (m := [.fresh, .regs, .pool, .peat, .slots, .probes, .rx, .net, .arrivals, .ports, .fns, .reports, .out]) ?_ (fun _ => ?_) ..) ?_
    | with_reducible apply Kept.step (k := State.doRd_kept ..)
    | with_reducible refine Kept.foldl _ (fun _ _ => ?_) _ _
    | with_reducible apply Kept.step (k := Kept.foldl (m := [.fresh, .regs, .pool, .peat, .slots, .probes, .rx, .net, .arrivals, .ports, .fns, .reports, .out]) _ (fun _ _ => ?_) _ _)
    | split
    | (cases ‹List.cons _ _ = List.cons _ _›)
    | intro _

theorem State.rdDataReady_keptP (s) (p) : Kept [.regs, .crus, .slots] s (State.rdDataReady s p).2 := by
  unfold State.rdDataReady
  repeat' first
    | exact Eq.refl true
    | with_reducible assumption
    | with_reducible apply Kept.ite
    | with_reducible apply Kept.refl
    | (extract_lets +onlyGivenNames x; clear_value x)
    | with_reducible refine Kept.step ?_ (State.claimNeeds_kept (by assumption)) ?_
    | with_reducible apply Kept.step (k := State.claimNeeds_keptP ..)
    | with_reducible refine Kept.foldl _ (fun _ _ => ?_) _ _
    | with_reducible apply Kept.step (k := Kept.foldl (m := [.regs, .crus, .slots]) _ (fun _ _ => ?_) _ _)
    | split
theorem State.rdDataReady_kept {s p zz tt} (h : State.rdDataReady s p = (zz, tt)) : Kept [.regs, .crus, .slots] s tt := by
  have := State.rdDataReady_keptP s p
  rw [h] at this
  exact this

theorem execRdData_kept (p) (s) : OutKept [.regs, .pool, .peat, .poolBad, .peatBad, .tasks, .crus, .gates, .slots, .arrivals, .fns, .reports, .out] s (execRdData p s) := by
  unfold execRdData
  repeat' first
    | exact Eq.refl true
    | with_reducible assumption
    | with_reducible apply Kept.ite
    | with_reducible apply Kept.refl
    | (extract_lets +onlyGivenNames x; refine Kept.via x ?_ ?_; (on_goal 1 => (unfold x; clear x)); on_goal 2 => (intro hx; clear_value x))
    | (extract_lets +onlyGivenNames x; clear_value x)
    | with_reducible apply OutKept.ite
    | with_reducible apply OutKept.next
    | with_reducible apply OutKept.fault
    | with_reducible refine Kept.step ?_ (State.rdDataReady_kept (by assumption)) ?_
    | with_reducible apply Kept.step (k := State.rdDataReady_keptP ..)
    | with_reducible apply Kept.step (k := State.moveProgress_kept ..)
    | with_reducible apply Kept.step (k := State.writePhys_kept ..)
    | with_reducible apply Kept.step (k := State.touchWork_kept ..)
    | with_reducible apply Kept.step (k := State.countPieces_kept ..)
    | with_reducible refine Kept.step ?_ (State.eject_kept (m := [.regs, .pool, .peat, .poolBad, .peatBad, .tasks, .crus, .gates, .slots, .arrivals, .fns, .reports, .out]) ?_ (fun _ => ?_) ..) ?_
    | with_reducible refine Kept.foldl _ (fun _ _ => ?_) _ _
    | with_reducible apply Kept.step (k := Kept.foldl (m := [.regs, .pool, .peat, .poolBad, .peatBad, .tasks, .crus, .gates, .slots, .arrivals, .fns, .reports, .out]) _ (fun _ _ => ?_) _ _)
    | split
    | (cases ‹List.cons _ _ = List.cons _ _›)
    | intro _

theorem State.grantProbe_kept (s) (tile) (p) (held) (todo) : Kept [.regs, .rx, .net, .ports, .fns, .reports, .out] s (State.grantProbe s tile p held todo) := by
  unfold State.grantProbe
  repeat' first
    | exact Eq.refl true
    | with_reducible assumption
    | with_reducible apply Kept.ite
    | with_reducible apply Kept.refl
    | (extract_lets +onlyGivenNames x; clear_value x)
    | with_reducible apply Kept.step (k := State.setRx_kept ..)
    | with_reducible apply Kept.step (k := State.tileReply_kept ..)

theorem State.tryProbe_keptP (s) (tile) (k) (p) : Kept [.regs, .slots, .probes, .rx, .net, .ports, .fns, .reports, .out] s (State.tryProbe s tile k p).2 := by
  unfold State.tryProbe
  repeat' first
    | exact Eq.refl true
    | with_reducible assumption
    | with_reducible apply Kept.ite
    | with_reducible apply Kept.refl
    | with_reducible apply Kept.step (k := State.grantProbe_kept ..)
    | with_reducible apply Kept.step (k := State.parkProbe_kept ..)
    | with_reducible apply Kept.step (k := State.takeSlot_kept ..)
    | with_reducible refine Kept.foldl _ (fun _ _ => ?_) _ _
    | with_reducible apply Kept.step (k := Kept.foldl (m := [.regs, .slots, .probes, .rx, .net, .ports, .fns, .reports, .out]) _ (fun _ _ => ?_) _ _)
    | split
theorem State.tryProbe_kept {s tile k p zz tt} (h : State.tryProbe s tile k p = (zz, tt)) : Kept [.regs, .slots, .probes, .rx, .net, .ports, .fns, .reports, .out] s tt := by
  have := State.tryProbe_keptP s tile k p
  rw [h] at this
  exact this

theorem execProbe_kept (p) (s) : OutKept [.regs, .slots, .probes, .rx, .net, .arrivals, .ports, .fns, .reports, .out] s (execProbe p s) := by
  unfold execProbe
  repeat' first
    | exact Eq.refl true
    | with_reducible assumption
    | with_reducible apply Kept.ite
    | with_reducible apply Kept.refl
    | with_reducible apply OutKept.ite
    | with_reducible apply OutKept.next
    | with_reducible apply OutKept.fault
    | with_reducible refine Kept.step ?_ (State.tryProbe_kept (by assumption)) ?_
    | with_reducible apply Kept.step (k := State.tryProbe_keptP ..)
    | with_reducible refine Kept.step ?_ (State.eject_kept (m := [.regs, .slots, .probes, .rx, .net, .arrivals, .ports, .fns, .reports, .out]) ?_ (fun _ => ?_) ..) ?_
    | with_reducible refine Kept.foldl _ (fun _ _ => ?_) _ _
    | with_reducible apply Kept.step (k := Kept.foldl (m := [.regs, .slots, .probes, .rx, .net, .arrivals, .ports, .fns, .reports, .out]) _ (fun _ _ => ?_) _ _)
    | split
    | (cases ‹List.cons _ _ = List.cons _ _›)
    | intro _

theorem State.takeIdx_kept (s) (c) (j) (p) : Kept [.crus, .slots, .rx] s (State.takeIdx s c j p) := by
  unfold State.takeIdx
  repeat' first
    | exact Eq.refl true
    | with_reducible assumption
    | with_reducible apply Kept.ite
    | with_reducible apply Kept.refl
    | (extract_lets +onlyGivenNames x; clear_value x)
    | with_reducible apply Kept.step (k := State.setRx_kept ..)
    | with_reducible apply Kept.step (k := State.mapWork_kept ..)
    | with_reducible apply Kept.step (k := State.endClaims_kept ..)

theorem State.tileGrant_kept (t) (tile) (p) : Kept (.fresh :: .regs :: .pool :: .peat :: .mire :: .poolBad :: .peatBad :: .tasks :: .crus :: .gates :: .slots :: .probes :: .rx :: .net :: .ports :: .fns :: .reports :: .out :: []) t (State.tileGrant t tile p) := by
  unfold State.tileGrant
  repeat' first
    | exact Eq.refl true
    | with_reducible assumption
    | with_reducible apply Kept.ite
    | with_reducible apply Kept.refl
    | with_reducible apply Kept.step (k := State.takeIdx_kept ..)
    | with_reducible apply Kept.step (k := State.launch_kept ..)
    | with_reducible apply Kept.step (k := State.dropFar_kept ..)
    | with_reducible refine Kept.foldl _ (fun _ _ => ?_) _ _
    | with_reducible apply Kept.step (k := Kept.foldl (m := (.fresh :: .regs :: .pool :: .peat :: .mire :: .poolBad :: .peatBad :: .tasks :: .crus :: .gates :: .slots :: .probes :: .rx :: .net :: .ports :: .fns :: .reports :: .out :: [])) _ (fun _ _ => ?_) _ _)
    | split

theorem State.tileRefuse_kept (t) (tile) (p) : Kept [.fresh, .regs, .pool, .peat, .mire, .poolBad, .peatBad, .tasks, .crus, .slots, .probes, .rx, .fns, .reports, .out] t (State.tileRefuse t tile p) := by
  unfold State.tileRefuse
  repeat' first
    | exact Eq.refl true
    | with_reducible assumption
    | with_reducible apply Kept.ite
    | with_reducible apply Kept.refl
    | (extract_lets +onlyGivenNames x; refine Kept.via x ?_ ?_; (on_goal 1 => (unfold x; clear x)); on_goal 2 => (intro hx; clear_value x))
    | (extract_lets +onlyGivenNames x; clear_value x)
    | with_reducible apply Kept.step (k := State.moveFails_kept ..)
    | with_reducible apply Kept.step (k := State.unitFault_kept ..)
    | with_reducible apply Kept.step (k := State.raise_kept ..)
    | with_reducible apply Kept.step (k := State.bump_kept ..)
    | with_reducible refine Kept.foldl _ (fun _ _ => ?_) _ _
    | with_reducible apply Kept.step (k := Kept.foldl (m := [.fresh, .regs, .pool, .peat, .mire, .poolBad, .peatBad, .tasks, .crus, .slots, .probes, .rx, .fns, .reports, .out]) _ (fun _ _ => ?_) _ _)
    | split

theorem execMireRd_kept (p) (e) (burst) (landed) (s) : OutKept [.regs, .mireBad, .net, .arrivals, .ports, .banks, .fns, .reports, .evWay, .out] s (execMireRd p e burst landed s) := by
  unfold execMireRd
  repeat' first
    | exact Eq.refl true
    | with_reducible assumption
    | with_reducible apply Kept.ite
    | with_reducible apply Kept.refl
    | with_reducible apply OutKept.ite
    | with_reducible apply OutKept.next
    | with_reducible apply OutKept.fault
    | with_reducible refine Kept.step ?_ (State.mireReadBurst_kept (by assumption)) ?_
    | with_reducible apply Kept.step (k := State.mireReadBurst_keptP ..)
    | with_reducible refine Kept.step ?_ (State.ejectDie_kept (m := [.regs, .mireBad, .net, .arrivals, .ports, .banks, .fns, .reports, .evWay, .out]) ?_ (fun _ => ?_) ..) ?_
    | with_reducible apply Kept.step (k := State.dieReply_kept ..)
    | with_reducible refine Kept.foldl _ (fun _ _ => ?_) _ _
    | with_reducible apply Kept.step (k := Kept.foldl (m := [.regs, .mireBad, .net, .arrivals, .ports, .banks, .fns, .reports, .evWay, .out]) _ (fun _ _ => ?_) _ _)
    | split
    | (cases ‹List.cons _ _ = List.cons _ _›)
    | intro _

theorem execMireWr_kept (p) (s) : OutKept [.regs, .mire, .mireBad, .net, .arrivals, .ports, .banks, .fns, .reports, .out] s (execMireWr p s) := by
  unfold execMireWr
  repeat' first
    | exact Eq.refl true
    | with_reducible assumption
    | with_reducible apply Kept.ite
    | with_reducible apply Kept.refl
    | with_reducible apply OutKept.ite
    | with_reducible apply OutKept.next
    | with_reducible apply OutKept.fault
    | with_reducible refine Kept.step ?_ (State.mireServeWrite_kept (by assumption)) ?_
    | with_reducible apply Kept.step (k := State.mireServeWrite_keptP ..)
    | with_reducible refine Kept.step ?_ (State.ejectDie_kept (m := [.regs, .mire, .mireBad, .net, .arrivals, .ports, .banks, .fns, .reports, .out]) ?_ (fun _ => ?_) ..) ?_
    | with_reducible apply Kept.step (k := State.dieReply_kept ..)
    | with_reducible refine Kept.foldl _ (fun _ _ => ?_) _ _
    | with_reducible apply Kept.step (k := Kept.foldl (m := [.regs, .mire, .mireBad, .net, .arrivals, .ports, .banks, .fns, .reports, .out]) _ (fun _ _ => ?_) _ _)
    | split
    | (cases ‹List.cons _ _ = List.cons _ _›)
    | intro _

/-! ### Complete -/

theorem State.sentEvent_kept (s) (t) (n) (verdict) (lifted) (k) (norm) : Kept [.regs, .net, .ports, .streams, .fns, .reports, .evWay, .out] s (State.sentEvent s t n verdict lifted k norm) := by
  unfold State.sentEvent
  repeat' first
    | exact Eq.refl true
    | with_reducible assumption
    | with_reducible apply Kept.ite
    | with_reducible apply Kept.refl
    | with_reducible apply Kept.step (k := State.endStream_kept ..)
    | with_reducible apply Kept.step (k := State.log_kept ..)
    | with_reducible apply Kept.step (k := State.raise_kept ..)
    | with_reducible apply Kept.step (k := State.bump_kept ..)
    | with_reducible apply Kept.step (k := State.setReg_kept ..)

theorem State.verdictAdds_kept (s) (t) (n) (code) : Kept [.regs, .peat, .peatBad, .crus, .gates, .net, .ports, .fns, .reports, .out] s (State.verdictAdds s t n code) := by
  unfold State.verdictAdds
  repeat' first
    | exact Eq.refl true
    | with_reducible assumption
    | with_reducible apply Kept.ite
    | with_reducible apply Kept.refl
    | with_reducible apply Kept.step (k := State.sendGateCopies_kept ..)
    | with_reducible apply Kept.step (k := State.unitGateAdd_kept ..)
    | split

theorem State.verdictReg_kept (s) (t) (sD) (code) : Kept [.tasks] s (State.verdictReg s t sD code) := by
  unfold State.verdictReg
  repeat' first
    | exact Eq.refl true
    | with_reducible assumption
    | with_reducible apply Kept.ite
    | with_reducible apply Kept.refl
    | with_reducible apply Kept.step (k := State.onTask_kept ..)

theorem State.runSent_kept (s) (c) (h) (o) : Kept [.regs, .peat, .peatBad, .tasks, .crus, .gates, .slots, .net, .ports, .streams, .fns, .reports, .evWay, .out] s (State.runSent s c h o) := by
  unfold State.runSent
  repeat' first
    | exact Eq.refl true
    | with_reducible assumption
    | with_reducible apply Kept.ite
    | with_reducible apply Kept.refl
    | (extract_lets +onlyGivenNames x; refine Kept.via x ?_ ?_; (on_goal 1 => (unfold x; clear x)); on_goal 2 => (intro hx; clear_value x))
    | (extract_lets +onlyGivenNames x; clear_value x)
    | with_reducible apply Kept.step (k := State.verdictReg_kept ..)
    | with_reducible apply Kept.step (k := State.verdictAdds_kept ..)
    | with_reducible apply Kept.step (k := State.sentEvent_kept ..)
    | with_reducible apply Kept.step (k := State.finishWork_kept ..)
    | split

theorem State.runRhand_kept (s) (c) (h) (o) : Kept [.regs, .peat, .peatBad, .tasks, .crus, .gates, .slots, .net, .ports, .nextTag, .fns, .reports, .out] s (State.runRhand s c h o) := by
  unfold State.runRhand
  repeat' first
    | exact Eq.refl true
    | with_reducible assumption
    | with_reducible apply Kept.ite
    | with_reducible apply Kept.refl
    | (extract_lets +onlyGivenNames x; refine Kept.fn x ?_; unfold x; clear x)
    | (extract_lets +onlyGivenNames x; clear_value x)
    | with_reducible refine Kept.step ?_ (State.takeTag_kept (by assumption)) ?_
    | with_reducible apply Kept.step (k := State.takeTag_keptP ..)
    | with_reducible refine Kept.step ?_ (State.injectMove_kept (by assumption)) ?_
    | with_reducible apply Kept.step (k := State.finishWork_kept ..)
    | with_reducible apply Kept.step (k := State.mapWork_kept ..)
    | with_reducible apply Kept.step (k := State.noRoute_kept ..)
    | with_reducible apply Kept.step (k := State.slotMiss_kept ..)
    | with_reducible apply Kept.step (k := State.report_kept ..)
    | split

theorem State.handDone_kept (s) (c) : Kept [.regs, .peat, .peatBad, .tasks, .crus, .gates, .slots] s (State.handDone s c) := by
  unfold State.handDone
  repeat' first
    | exact Eq.refl true
    | with_reducible assumption
    | with_reducible apply Kept.ite
    | with_reducible apply Kept.refl
    | with_reducible apply Kept.step (k := State.finishWork_kept ..)
    | split

theorem State.writeArith_kept (s) (c) (d) (e) : Kept [.fresh, .regs, .pool, .peat, .mire, .poolBad, .peatBad, .crus] s (State.writeArith s c d e) := by
  unfold State.writeArith
  repeat' first
    | exact Eq.refl true
    | with_reducible assumption
    | with_reducible apply Kept.ite
    | with_reducible apply Kept.refl
    | with_reducible apply Kept.step (k := State.writeRows_kept ..)
    | with_reducible apply Kept.step (k := State.spoil_kept ..)
    | with_reducible apply Kept.step (k := State.countPieces_kept ..)
    | with_reducible apply Kept.step (k := State.orFlags_kept ..)

/-- What the state that an attention outcome carries may differ in. -/
def AttKept (l : List Field) (s : State) : AttOut → Prop
  | .wait t | .fault _ t | .done t _ => Kept l s t
  | .poisoned _ _ => True

theorem AttKept.of (l : List Field) (s t : State) (a : AttOut) (h : Kept l s t) (k : AttKept l t a) : AttKept l s a := by
  cases a with
  | poisoned _ _ => trivial
  | wait u => exact h.trans k
  | fault f u => exact h.trans k
  | done u e => exact h.trans k

theorem AttKept.mono {l m : List Field} {s : State} {a : AttOut} (h : AttKept l s a) (k : Field.within l m = true) : AttKept m s a := by
  cases a with
  | poisoned _ _ => trivial
  | wait u => exact Kept.mono h k
  | fault f u => exact Kept.mono h k
  | done u e => exact Kept.mono h k

theorem State.peatBlock_kept {s : State} {tile : Nat} {l : List (Nat × Nat)} {a : AttOut} (h : s.peatBlock tile l = some a) :
    AttKept [] s a := by
  unfold State.peatBlock at h
  split at h
  · cases h
    exact Kept.refl _ _
  · cases hf : l.find? (fun p => s.peatPoisoned tile p.1 p.2) with
    | none => rw [hf] at h; cases h
    | some p => rw [hf] at h; cases h; trivial

theorem State.attnRead_kept (s) (c) (h) (o) (p) : AttKept [.regs, .banks, .fns, .evWay, .out] s (State.attnRead s c h o p) := by
  unfold State.attnRead
  split
  · exact Kept.refl _ _
  · extract_lets dQ rows tree root s1 rs pages s2 d
    have h1 : Kept [.regs, .banks, .fns, .evWay, .out] s s1 := (State.countReads_kept ..).mono rfl
    have h2 : Kept [.regs, .banks, .fns, .evWay, .out] s s2 := h1.trans ((State.countReads_kept ..).mono rfl)
    split
    · exact Kept.refl _ _
    · split
      · exact Kept.refl _ _
      · split
        · exact (State.peatBlock_kept (by assumption)).mono rfl
        · clear_value s2
          split
          · exact AttKept.of _ _ _ _ h1 ((State.peatBlock_kept (by assumption)).mono rfl)
          · refine AttKept.of _ _ _ _ h2 ?_
            split
            · exact Kept.refl _ _
            · extract_lets all near
              split
              · exact (State.peatBlock_kept (by assumption)).mono rfl
              · split
                · exact (State.readMireRecs_kept (by assumption)).mono rfl
                · rename_i t ht
                  exact ((State.readMireRecs_kept ht).mono rfl).trans ((State.countReads_kept ..).mono rfl)

theorem State.kvputRows_kept (s) (c) (v) (h) (o) (rows) : AttKept [.fresh, .regs, .peat, .mire, .peatBad, .mireBad, .banks, .fns, .out] s (State.kvputRows s c v h o rows) := by
  unfold State.kvputRows
  extract_lets puts places
  split
  · exact (State.spoilRecs_kept ..).mono rfl
  · split
    · exact (State.spoilRecs_kept ..).mono rfl
    · split
      · exact Kept.refl _ _
      · split
        · exact Kept.refl _ _
        · split
          · rename_i t ht
            exact ((State.writeRecs_kept ht).mono rfl).step (State.spoilRecs_kept ..) rfl
          · rename_i t ht
            exact (State.writeRecs_kept ht).mono rfl

theorem State.kvputRun_kept (s) (c) (h) (o) : AttKept [.fresh, .regs, .peat, .mire, .peatBad, .mireBad, .banks, .fns, .out] s (State.kvputRun s c h o) := by
  unfold State.kvputRun
  split
  · exact Kept.refl _ _
  · extract_lets rows tree s1 pages
    have h1 : Kept [.fresh, .regs, .peat, .mire, .peatBad, .mireBad, .banks, .fns, .out] s s1 := (State.countReads_kept ..).mono rfl
    split
    · exact Kept.refl _ _
    · split
      · exact (State.peatBlock_kept (by assumption)).mono rfl
      · clear_value s1
        refine AttKept.of _ _ _ _ h1 ?_
        split
        · exact (State.peatBlock_kept (by assumption)).mono rfl
        · exact AttKept.of _ _ _ _ ((State.countReads_kept ..).mono rfl) ((State.kvputRows_kept ..).mono rfl)

theorem State.applyAtt_kept {m l s c d h a} (ha : AttKept l s a) (hl : Field.within l m = true) (hm : Field.within [.fresh, .regs, .pool, .peat, .mire, .poolBad, .peatBad, .tasks, .crus, .gates, .slots, .probes, .rx, .fns, .reports, .out] m = true) :
    Kept m s (State.applyAtt s c d h a) := by
  cases a with
  | wait t => exact Kept.mono ha hl
  | fault f t => exact (ha.mono hl).step (State.unitFault_kept ..) (Field.within_trans _ _ _ rfl hm)
  | poisoned off n =>
    unfold State.applyAtt
    exact (State.unitEcc_kept ..).mono (Field.within_trans _ _ _ rfl hm)
  | done t e =>
    exact (((ha.mono hl).step (State.countPieces_kept ..) (Field.within_trans _ _ _ rfl hm)).step (State.writeRows_kept ..)
      (Field.within_trans _ _ _ rfl hm)).step (State.finishWork_kept ..) (Field.within_trans _ _ _ rfl hm)

theorem State.runWork_kept (s) (c) (u) : Kept (.fresh :: .regs :: .pool :: .peat :: .mire :: .poolBad :: .peatBad :: .mireBad :: .tasks :: .crus :: .gates :: .slots :: .probes :: .rx :: .net :: .ports :: .banks :: .streams :: .nextTag :: .fns :: .reports :: .evWay :: .out :: []) s (State.runWork s c u) := by
  unfold State.runWork
  extract_lets h
  split
  · exact (State.runMove_kept ..).mono rfl
  · split
    · exact (State.unitEcc_kept ..).mono rfl
    · split
      · split
        · exact State.applyAtt_kept (l := [.fresh, .regs, .pool, .peat, .mire, .poolBad, .peatBad, .crus]) (State.spoil_kept ..) rfl rfl
        · exact State.applyAtt_kept (State.attnRead_kept ..) rfl rfl
      · split
        · exact State.applyAtt_kept (l := [.fresh, .regs, .pool, .peat, .mire, .poolBad, .peatBad, .crus]) (State.spoil_kept ..) rfl rfl
        · exact State.applyAtt_kept (State.attnRead_kept ..) rfl rfl
      · have hk (o) := State.kvputRun_kept s c h o
        split
        · rename_i o _ _ t ht
          have h1 := hk o
          rw [ht] at h1
          exact (Kept.mono h1 rfl).step (State.mapWork_kept ..) rfl
        · exact State.applyAtt_kept (hk _) rfl rfl
      · exact ((State.countPieces_kept ..).mono rfl).step (State.runSent_kept ..) rfl
      · exact ((State.countPieces_kept ..).mono rfl).step (State.runRhand_kept ..) rfl
      · split
        · exact ((State.writeArith_kept ..).mono rfl).step (State.finishWork_kept ..) rfl
        · exact (State.finishWork_kept ..).mono rfl

theorem State.runNothing_kept (s) (c) (u) : Kept (.fresh :: .regs :: .pool :: .peat :: .mire :: .poolBad :: .peatBad :: .tasks :: .crus :: .gates :: .slots :: .probes :: .rx :: .net :: .ports :: .streams :: .nextTag :: .fns :: .reports :: .evWay :: .out :: []) s (State.runNothing s c u) := by
  unfold State.runNothing
  repeat' first
    | exact Eq.refl true
    | with_reducible assumption
    | with_reducible apply Kept.ite
    | with_reducible apply Kept.refl
    | (extract_lets +onlyGivenNames x; clear_value x)
    | with_reducible apply Kept.step (k := State.runRhand_kept ..)
    | with_reducible apply Kept.step (k := State.runSent_kept ..)
    | with_reducible apply Kept.step (k := State.emptyMove_kept ..)
    | with_reducible apply Kept.step (k := State.finishWork_kept ..)
    | split

theorem State.settleReads_kept (s) (c) (u) : Kept [.crus, .slots] s (State.settleReads s c u) := by
  unfold State.settleReads
  repeat' first
    | exact Eq.refl true
    | with_reducible assumption
    | with_reducible apply Kept.ite
    | with_reducible apply Kept.refl
    | (extract_lets +onlyGivenNames x; clear_value x)
    | with_reducible apply Kept.step (k := State.mapWork_kept ..)
    | with_reducible apply Kept.step (k := State.endClaims_kept ..)

theorem State.settleWrites_kept (s) (c) (u) : Kept [.regs, .pool, .peat, .poolBad, .peatBad, .crus, .slots, .banks, .fns, .evWay, .out] s (State.settleWrites s c u) := by
  unfold State.settleWrites
  repeat' first
    | exact Eq.refl true
    | with_reducible assumption
    | with_reducible apply Kept.ite
    | with_reducible apply Kept.refl
    | (extract_lets +onlyGivenNames x; clear_value x)
    | with_reducible apply Kept.step (k := State.writeRows_kept ..)
    | with_reducible apply Kept.step (k := State.mapWork_kept ..)
    | with_reducible apply Kept.step (k := State.endClaims_kept ..)
    | split

theorem State.settle_kept (s) (c) (u) : Kept [.regs, .pool, .peat, .poolBad, .peatBad, .crus, .slots, .banks, .fns, .evWay, .out] s (State.settle s c u) := by
  unfold State.settle
  repeat' first
    | exact Eq.refl true
    | with_reducible assumption
    | with_reducible apply Kept.ite
    | with_reducible apply Kept.refl
    | (extract_lets +onlyGivenNames x; refine Kept.via x ?_ ?_; (on_goal 1 => (unfold x; clear x)); on_goal 2 => (intro hx; clear_value x))
    | with_reducible apply Kept.step (k := State.settleWrites_kept ..)
    | with_reducible apply Kept.step (k := State.settleReads_kept ..)

theorem State.readyWork_keptP (s) (c) (u) : Kept [.regs, .pool, .peat, .poolBad, .peatBad, .crus, .slots, .banks, .fns, .evWay, .out] s (State.readyWork s c u).2 := by
  unfold State.readyWork
  repeat' first
    | exact Eq.refl true
    | with_reducible assumption
    | with_reducible apply Kept.ite
    | with_reducible apply Kept.refl
    | with_reducible apply Kept.step (k := State.settle_kept ..)
    | with_reducible refine Kept.step ?_ (State.claimWork_kept (by assumption)) ?_
    | with_reducible apply Kept.step (k := State.claimWork_keptP ..)
    | split
theorem State.readyWork_kept {s c u zz tt} (h : State.readyWork s c u = (zz, tt)) : Kept [.regs, .pool, .peat, .poolBad, .peatBad, .crus, .slots, .banks, .fns, .evWay, .out] s tt := by
  have := State.readyWork_keptP s c u
  rw [h] at this
  exact this

theorem State.advanceWork_kept (s) (c) (u) : Kept (.fresh :: .regs :: .pool :: .peat :: .mire :: .poolBad :: .peatBad :: .mireBad :: .tasks :: .crus :: .gates :: .slots :: .probes :: .rx :: .net :: .ports :: .banks :: .streams :: .nextTag :: .fns :: .reports :: .evWay :: .out :: []) s (State.advanceWork s c u) := by
  unfold State.advanceWork
  repeat' first
    | exact Eq.refl true
    | with_reducible assumption
    | with_reducible apply Kept.ite
    | with_reducible apply Kept.refl
    | (extract_lets +onlyGivenNames x; refine Kept.fn x ?_; unfold x; clear x)
    | with_reducible refine Kept.step ?_ (State.readyWork_kept (by assumption)) ?_
    | with_reducible apply Kept.step (k := State.readyWork_keptP ..)
    | with_reducible apply Kept.step (k := State.runNothing_kept ..)
    | with_reducible apply Kept.step (k := State.runWork_kept ..)
    | with_reducible apply Kept.step (k := State.probeIdx_kept ..)
    | split

theorem State.startMove_keptP (s) (c) : Kept (.fresh :: .regs :: .pool :: .peat :: .mire :: .poolBad :: .peatBad :: .tasks :: .crus :: .gates :: .slots :: .probes :: .rx :: .net :: .ports :: .banks :: .nextTag :: .fns :: .reports :: .evWay :: .out :: []) s (State.startMove s c).2 := by
  unfold State.startMove
  repeat' first
    | exact Eq.refl true
    | with_reducible assumption
    | with_reducible apply Kept.ite
    | with_reducible apply Kept.refl
    | with_reducible refine Kept.step ?_ (State.readyWork_kept (by assumption)) ?_
    | with_reducible apply Kept.step (k := State.readyWork_keptP ..)
    | with_reducible apply Kept.step (k := State.runMove_kept ..)
    | with_reducible apply Kept.step (k := State.probeIdx_kept ..)
    | split
theorem State.startMove_kept {s c zz tt} (h : State.startMove s c = (zz, tt)) : Kept (.fresh :: .regs :: .pool :: .peat :: .mire :: .poolBad :: .peatBad :: .tasks :: .crus :: .gates :: .slots :: .probes :: .rx :: .net :: .ports :: .banks :: .nextTag :: .fns :: .reports :: .evWay :: .out :: []) s tt := by
  have := State.startMove_keptP s c
  rw [h] at this
  exact this

theorem State.startMoves_keptP (s) (tile) (cru) (a0) : Kept (.fresh :: .regs :: .pool :: .peat :: .mire :: .poolBad :: .peatBad :: .tasks :: .crus :: .gates :: .slots :: .probes :: .rx :: .net :: .ports :: .banks :: .nextTag :: .fns :: .reports :: .evWay :: .out :: []) s (State.startMoves s tile cru a0).2 := by
  induction a0 generalizing s tile cru with
  | nil => exact Kept.refl _ _
  | cons b r ih =>
    unfold State.startMoves
    repeat' first
      | exact Eq.refl true
      | with_reducible assumption
      | with_reducible apply Kept.ite
      | with_reducible apply Kept.refl
      | (extract_lets +onlyGivenNames x; clear_value x)
      | with_reducible apply Kept.step (k := ih ..)
      | with_reducible refine Kept.step ?_ (State.startMove_kept (by assumption)) ?_
      | with_reducible apply Kept.step (k := State.startMove_keptP ..)
      | split
theorem State.startMoves_kept {s tile cru a0 zz tt} (h : State.startMoves s tile cru a0 = (zz, tt)) : Kept (.fresh :: .regs :: .pool :: .peat :: .mire :: .poolBad :: .peatBad :: .tasks :: .crus :: .gates :: .slots :: .probes :: .rx :: .net :: .ports :: .banks :: .nextTag :: .fns :: .reports :: .evWay :: .out :: []) s tt := by
  have := State.startMoves_keptP s tile cru a0
  rw [h] at this
  exact this

theorem State.unitWork_keptP (s) (tile) (cru) (u) (k) : Kept (.fresh :: .regs :: .pool :: .peat :: .mire :: .poolBad :: .peatBad :: .tasks :: .crus :: .gates :: .slots :: .probes :: .rx :: .net :: .ports :: .banks :: .nextTag :: .fns :: .reports :: .evWay :: .out :: []) s (State.unitWork s tile cru u k).1 := by
  unfold State.unitWork
  repeat' first
    | exact Eq.refl true
    | with_reducible assumption
    | with_reducible apply Kept.ite
    | with_reducible apply Kept.refl
    | (extract_lets +onlyGivenNames x; clear_value x)
    | with_reducible refine Kept.step ?_ (State.startMoves_kept (by assumption)) ?_
    | with_reducible apply Kept.step (k := State.startMoves_keptP ..)
    | split
theorem State.unitWork_kept {s tile cru u k zz tt} (h : State.unitWork s tile cru u k = (tt, zz)) : Kept (.fresh :: .regs :: .pool :: .peat :: .mire :: .poolBad :: .peatBad :: .tasks :: .crus :: .gates :: .slots :: .probes :: .rx :: .net :: .ports :: .banks :: .nextTag :: .fns :: .reports :: .evWay :: .out :: []) s tt := by
  have := State.unitWork_keptP s tile cru u k
  rw [h] at this
  exact this

theorem State.unitMeets_kept (s) (c) (u) (e) (a) : Kept (.fresh :: .regs :: .pool :: .peat :: .mire :: .poolBad :: .peatBad :: .mireBad :: .tasks :: .crus :: .gates :: .slots :: .probes :: .rx :: .net :: .ports :: .banks :: .streams :: .nextTag :: .fns :: .reports :: .evWay :: .out :: []) s (State.unitMeets s c u e a) := by
  unfold State.unitMeets
  repeat' first
    | exact Eq.refl true
    | with_reducible assumption
    | with_reducible apply Kept.ite
    | with_reducible apply Kept.refl
    | with_reducible apply Kept.step (k := State.advanceWork_kept ..)
    | with_reducible refine Kept.step ?_ (State.readyWork_kept (by assumption)) ?_
    | with_reducible apply Kept.step (k := State.readyWork_keptP ..)
    | with_reducible apply Kept.step (k := State.runWork_kept ..)
    | with_reducible apply Kept.step (k := State.unitEcc_kept ..)
    | with_reducible apply Kept.step (k := State.unitEccNote_kept ..)
    | split

theorem execUnitInstrComplete_kept (tile) (cru) (u) (k) (e) (addr) (s) : OutKept (.fresh :: .regs :: .pool :: .peat :: .mire :: .poolBad :: .peatBad :: .mireBad :: .tasks :: .crus :: .gates :: .slots :: .probes :: .rx :: .net :: .ports :: .banks :: .streams :: .nextTag :: .fns :: .reports :: .evWay :: .out :: []) s (execUnitInstrComplete tile cru u k e addr s) := by
  unfold execUnitInstrComplete
  repeat' first
    | exact Eq.refl true
    | with_reducible assumption
    | with_reducible apply Kept.ite
    | with_reducible apply Kept.refl
    | with_reducible apply OutKept.ite
    | with_reducible apply OutKept.next
    | with_reducible apply OutKept.fault
    | with_reducible apply Kept.step (k := State.unitMeets_kept ..)
    | with_reducible refine Kept.step ?_ (State.unitWork_kept (by assumption)) ?_
    | with_reducible apply Kept.step (k := State.unitWork_keptP ..)
    | with_reducible apply Kept.step (k := State.advanceWork_kept ..)
    | with_reducible apply Kept.step (k := State.finishWork_kept ..)
    | split

theorem execKvputEntryReread_kept (tile) (cru) (s) : OutKept (.fresh :: .regs :: .pool :: .peat :: .mire :: .poolBad :: .peatBad :: .mireBad :: .tasks :: .crus :: .gates :: .slots :: .probes :: .rx :: .net :: .ports :: .banks :: .streams :: .nextTag :: .fns :: .reports :: .evWay :: .out :: []) s (execKvputEntryReread tile cru s) := by
  unfold execKvputEntryReread
  repeat' first
    | exact Eq.refl true
    | with_reducible assumption
    | with_reducible apply Kept.ite
    | with_reducible apply Kept.refl
    | with_reducible apply OutKept.ite
    | with_reducible apply OutKept.next
    | with_reducible apply OutKept.fault
    | with_reducible refine Kept.step ?_ (State.unitWork_kept (by assumption)) ?_
    | with_reducible apply Kept.step (k := State.unitWork_keptP ..)
    | with_reducible apply Kept.step (k := State.advanceWork_kept ..)
    | with_reducible apply Kept.step (k := State.mapWork_kept ..)
    | split

theorem State.freeEntry_kept (s) (tile) (cru) (e) : Kept [.tasks, .crus] s (State.freeEntry s tile cru e) := by
  unfold State.freeEntry
  repeat' first
    | exact Eq.refl true
    | with_reducible assumption
    | with_reducible apply Kept.ite
    | with_reducible apply Kept.refl
    | (extract_lets +onlyGivenNames x; clear_value x)
    | with_reducible apply Kept.step (k := State.wakeTasks_kept ..)
    | with_reducible apply Kept.step (k := State.setCru_kept ..)

theorem execSbEntryRelease_kept (tile) (cru) (k) (s) : OutKept (.fresh :: .regs :: .pool :: .peat :: .mire :: .poolBad :: .peatBad :: .tasks :: .crus :: .gates :: .slots :: .probes :: .rx :: .net :: .ports :: .banks :: .nextTag :: .fns :: .reports :: .evWay :: .out :: []) s (execSbEntryRelease tile cru k s) := by
  unfold execSbEntryRelease
  repeat' first
    | exact Eq.refl true
    | with_reducible assumption
    | with_reducible apply Kept.ite
    | with_reducible apply Kept.refl
    | (extract_lets +onlyGivenNames x; clear_value x)
    | with_reducible apply OutKept.ite
    | with_reducible apply OutKept.next
    | with_reducible apply OutKept.fault
    | with_reducible apply Kept.step (k := State.freeEntry_kept ..)
    | with_reducible refine Kept.step ?_ (State.unitWork_kept (by assumption)) ?_
    | with_reducible apply Kept.step (k := State.unitWork_keptP ..)
    | with_reducible apply Kept.step (k := State.settle_kept ..)
    | with_reducible apply Kept.step (k := State.writeArith_kept ..)
    | with_reducible refine Kept.step ?_ (State.claimWork_kept (by assumption)) ?_
    | with_reducible apply Kept.step (k := State.claimWork_keptP ..)
    | with_reducible apply Kept.step (k := State.mapWork_kept ..)
    | split

theorem State.countTimeout_kept (s) (tile) (peat) : Kept [.regs, .fns, .out] s (State.countTimeout s tile peat) := by
  unfold State.countTimeout
  repeat' first
    | exact Eq.refl true
    | with_reducible assumption
    | with_reducible apply Kept.ite
    | with_reducible apply Kept.refl
    | with_reducible apply Kept.step (k := State.raise_kept ..)
    | with_reducible apply Kept.step (k := State.bump_kept ..)

theorem State.unitTimeout_kept (s) (c) (u) : Kept [.fresh, .regs, .pool, .peat, .mire, .poolBad, .peatBad, .tasks, .crus, .slots, .probes, .rx, .fns, .reports, .out] s (State.unitTimeout s c u) := by
  unfold State.unitTimeout
  repeat' first
    | exact Eq.refl true
    | with_reducible assumption
    | with_reducible apply Kept.ite
    | with_reducible apply Kept.refl
    | with_reducible apply Kept.step (k := State.countTimeout_kept ..)
    | with_reducible apply Kept.step (k := State.unitFault_kept ..)
    | split

theorem execUnitFault_kept (tile) (cru) (u) (k) (code) (addr) (s) : OutKept (.fresh :: .regs :: .pool :: .peat :: .mire :: .poolBad :: .peatBad :: .mireBad :: .tasks :: .crus :: .gates :: .slots :: .probes :: .rx :: .net :: .ports :: .banks :: .streams :: .nextTag :: .fns :: .reports :: .evWay :: .out :: []) s (execUnitFault tile cru u k code addr s) := by
  unfold execUnitFault
  repeat' first
    | exact Eq.refl true
    | with_reducible assumption
    | with_reducible apply Kept.ite
    | with_reducible apply Kept.refl
    | (extract_lets +onlyGivenNames x; refine OutKept.via x ?_ ?_; (on_goal 1 => (unfold x; clear x)); on_goal 2 => (intro hx; clear_value x))
    | with_reducible apply OutKept.ite
    | with_reducible apply OutKept.next
    | with_reducible apply OutKept.fault
    | with_reducible apply Kept.step (k := State.unitTimeout_kept ..)
    | with_reducible apply Kept.step (k := State.unitMeets_kept ..)
    | with_reducible refine Kept.step ?_ (State.unitWork_kept (by assumption)) ?_
    | with_reducible apply Kept.step (k := State.unitWork_keptP ..)
    | with_reducible apply Kept.step (k := State.advanceWork_kept ..)
    | split

theorem State.resumeUnit_kept (s) (tile) (cru) (u) : Kept (.fresh :: .regs :: .pool :: .peat :: .mire :: .poolBad :: .peatBad :: .mireBad :: .tasks :: .crus :: .gates :: .slots :: .probes :: .rx :: .net :: .ports :: .banks :: .streams :: .nextTag :: .fns :: .reports :: .evWay :: .out :: []) s (State.resumeUnit s tile cru u) := by
  unfold State.resumeUnit
  repeat' first
    | exact Eq.refl true
    | with_reducible assumption
    | with_reducible apply Kept.ite
    | with_reducible apply Kept.refl
    | with_reducible apply Kept.step (k := State.advanceWork_kept ..)
    | with_reducible refine Kept.step ?_ (State.claimNeeds_kept (by assumption)) ?_
    | with_reducible apply Kept.step (k := State.claimNeeds_keptP ..)
    | split

theorem State.resumeProbe_kept (s) (tile) (k) : Kept [.fresh, .regs, .pool, .peat, .poolBad, .peatBad, .gates, .slots, .probes, .rx, .net, .ports, .fns, .reports, .out] s (State.resumeProbe s tile k) := by
  unfold State.resumeProbe
  repeat' first
    | exact Eq.refl true
    | with_reducible assumption
    | with_reducible apply Kept.ite
    | with_reducible apply Kept.refl
    | (extract_lets +onlyGivenNames x; refine Kept.fn x ?_; unfold x; clear x)
    | with_reducible refine Kept.step ?_ (State.tryProbe_kept (by assumption)) ?_
    | with_reducible apply Kept.step (k := State.tryProbe_keptP ..)
    | with_reducible apply Kept.step (k := State.doRd_kept ..)
    | with_reducible apply Kept.step (k := State.doWr_kept ..)
    | with_reducible refine Kept.step ?_ (State.rxReady_kept (by assumption)) ?_
    | with_reducible apply Kept.step (k := State.rxReady_keptP ..)
    | with_reducible apply Kept.step (k := State.setProbes_kept ..)
    | split

theorem execTaggedAccessResume_kept (w) (s) : OutKept (.fresh :: .regs :: .pool :: .peat :: .mire :: .poolBad :: .peatBad :: .mireBad :: .tasks :: .crus :: .gates :: .slots :: .probes :: .rx :: .net :: .ports :: .banks :: .streams :: .nextTag :: .fns :: .reports :: .evWay :: .out :: []) s (execTaggedAccessResume w s) := by
  unfold execTaggedAccessResume
  repeat' first
    | exact Eq.refl true
    | with_reducible assumption
    | with_reducible apply Kept.ite
    | with_reducible apply Kept.refl
    | with_reducible apply OutKept.ite
    | with_reducible apply OutKept.next
    | with_reducible apply OutKept.fault
    | with_reducible apply Kept.step (k := State.resumeProbe_kept ..)
    | with_reducible apply Kept.step (k := State.resumeUnit_kept ..)
    | split

theorem State.probeTimeout_kept (s) (tile) (k) : Kept [.fresh, .regs, .pool, .peat, .slots, .probes, .rx, .net, .ports, .fns, .reports, .out] s (State.probeTimeout s tile k) := by
  unfold State.probeTimeout
  repeat' first
    | exact Eq.refl true
    | with_reducible assumption
    | with_reducible apply Kept.ite
    | with_reducible apply Kept.refl
    | (extract_lets +onlyGivenNames x; refine Kept.via x ?_ ?_; (on_goal 1 => (unfold x; clear x)); on_goal 2 => (intro hx; clear_value x))
    | (extract_lets +onlyGivenNames x; clear_value x)
    | with_reducible apply Kept.step (k := State.countTimeout_kept ..)
    | with_reducible apply Kept.step (k := State.setRx_kept ..)
    | with_reducible apply Kept.step (k := State.tileReply_kept ..)
    | with_reducible apply Kept.step (k := State.setProbes_kept ..)
    | with_reducible apply Kept.step (k := State.revertClaims_kept ..)
    | split

theorem execSlotTimeout_kept (w) (s) : OutKept (.fresh :: .regs :: .pool :: .peat :: .mire :: .poolBad :: .peatBad :: .tasks :: .crus :: .slots :: .probes :: .rx :: .net :: .ports :: .fns :: .reports :: .out :: []) s (execSlotTimeout w s) := by
  unfold execSlotTimeout
  repeat' first
    | exact Eq.refl true
    | with_reducible assumption
    | with_reducible apply Kept.ite
    | with_reducible apply Kept.refl
    | with_reducible apply OutKept.ite
    | with_reducible apply OutKept.next
    | with_reducible apply OutKept.fault
    | with_reducible apply Kept.step (k := State.probeTimeout_kept ..)
    | with_reducible apply Kept.step (k := State.unitTimeout_kept ..)
    | split

end Sys2Proof.Machine
end

