-- ==== Sys2Proof/Laws/KeptLoop.lean ====
section
/-! SUPPORT. What the commands and operations of the token loop, the riddle unit, the pool and the queues may change. -/
namespace Sys2Proof.Machine
set_option linter.unusedVariables false

/-! ### Wave -/

theorem State.setHeat_kept (s) (p) (h) : Kept [.heats] s (State.setHeat s p h) := by
  unfold State.setHeat
  repeat' first
    | exact Eq.refl true
    | with_reducible assumption
    | with_reducible apply Kept.ite
    | with_reducible apply Kept.refl
    | with_reducible refine Kept.foldl _ (fun _ _ => ?_) _ _
    | with_reducible apply Kept.step (k := Kept.foldl (m := [.heats]) _ (fun _ _ => ?_) _ _)
    | split
    | with_reducible apply Kept.step (k := Kept.heats ..)

theorem State.jrnPut_keptP (s) (a) (bs) : Kept [.regs, .mire, .mireBad, .banks, .fns, .out] s (State.jrnPut s a bs).2 := by
  unfold State.jrnPut
  repeat' first
    | exact Eq.refl true
    | with_reducible assumption
    | with_reducible apply Kept.ite
    | with_reducible apply Kept.refl
    | with_reducible refine Kept.step ?_ (State.mireServeWrite_kept (by assumption)) ?_
    | with_reducible apply Kept.step (k := State.mireServeWrite_keptP ..)
    | with_reducible refine Kept.foldl _ (fun _ _ => ?_) _ _
    | with_reducible apply Kept.step (k := Kept.foldl (m := [.regs, .mire, .mireBad, .banks, .fns, .out]) _ (fun _ _ => ?_) _ _)
    | split
theorem State.jrnPut_kept {s a bs zz tt} (h : State.jrnPut s a bs = (zz, tt)) : Kept [.regs, .mire, .mireBad, .banks, .fns, .out] s tt := by
  have := State.jrnPut_keptP s a bs
  rw [h] at this
  exact this

theorem State.jrnWrite_kept (s) (a) (bs) : Kept [.regs, .mire, .mireBad, .banks, .fns, .out] s (State.jrnWrite s a bs) := by
  unfold State.jrnWrite
  repeat' first
    | exact Eq.refl true
    | with_reducible assumption
    | with_reducible apply Kept.ite
    | with_reducible apply Kept.refl
    | with_reducible refine Kept.step ?_ (State.jrnPut_kept (by assumption)) ?_
    | with_reducible apply Kept.step (k := State.jrnPut_keptP ..)

theorem State.jrnCommit_kept (s) (n) (valid) (commit) (seq) : Kept [.regs, .mire, .mireBad, .banks, .fns, .out] s (State.jrnCommit s n valid commit seq) := by
  unfold State.jrnCommit
  repeat' first
    | exact Eq.refl true
    | with_reducible assumption
    | with_reducible apply Kept.ite
    | with_reducible apply Kept.refl
    | (extract_lets +onlyGivenNames x; clear_value x)
    | with_reducible apply Kept.step (k := State.jrnWrite_kept ..)

theorem State.jrnEmission_kept (s) (n) (emitted) (gstate) : Kept [.regs, .mire, .mireBad, .banks, .fns, .out] s (State.jrnEmission s n emitted gstate) := by
  unfold State.jrnEmission
  repeat' first
    | exact Eq.refl true
    | with_reducible assumption
    | with_reducible apply Kept.ite
    | with_reducible apply Kept.refl
    | with_reducible apply Kept.step (k := State.jrnWrite_kept ..)

/-! ### Loop -/

theorem State.loopMiss_kept (s) (tile) : Kept [.regs, .fns, .reports, .out] s (State.loopMiss s tile) := by
  unfold State.loopMiss
  repeat' first
    | exact Eq.refl true
    | with_reducible assumption
    | with_reducible apply Kept.ite
    | with_reducible apply Kept.refl
    | with_reducible apply Kept.step (k := State.slotMiss_kept ..)
    | with_reducible apply Kept.step (k := State.report_kept ..)

theorem State.restartDog_kept (s) (b) : Kept [.beds] s (State.restartDog s b) := by
  unfold State.restartDog
  repeat' first
    | exact Eq.refl true
    | with_reducible assumption
    | with_reducible apply Kept.ite
    | with_reducible apply Kept.refl
    | (extract_lets +onlyGivenNames x; clear_value x)
    | with_reducible apply Kept.step (k := State.setBed_kept ..)

theorem State.reserve_kept (s) (b) (i) (src) (tag) : Kept [.places] s (State.reserve s b i src tag) := by
  unfold State.reserve
  repeat' first
    | exact Eq.refl true
    | with_reducible assumption
    | with_reducible apply Kept.ite
    | with_reducible apply Kept.refl
    | with_reducible apply Kept.step (k := State.setPlace_kept ..)

theorem State.placeOk_kept (s) (tile) (b) (i) (p) : Kept [.regs, .net, .ports, .places, .fns, .reports, .out] s (State.placeOk s tile b i p) := by
  unfold State.placeOk
  repeat' first
    | exact Eq.refl true
    | with_reducible assumption
    | with_reducible apply Kept.ite
    | with_reducible apply Kept.refl
    | with_reducible apply Kept.step (k := State.reserve_kept ..)
    | with_reducible apply Kept.step (k := State.tileReply_kept ..)

theorem State.freePlace_kept (s) (b) (i) : Kept [.regs, .net, .ports, .beds, .places, .fns, .reports, .out] s (State.freePlace s b i) := by
  unfold State.freePlace
  repeat' first
    | exact Eq.refl true
    | with_reducible assumption
    | with_reducible apply Kept.ite
    | with_reducible apply Kept.refl
    | (extract_lets +onlyGivenNames x; refine Kept.via x ?_ ?_; (on_goal 1 => (unfold x; clear x)); on_goal 2 => (intro hx; clear_value x))
    | (extract_lets +onlyGivenNames x; clear_value x)
    | with_reducible apply Kept.step (k := State.placeOk_kept ..)
    | with_reducible apply Kept.step (k := State.setPlace_kept ..)
    | with_reducible apply Kept.step (k := State.setBed_kept ..)
    | with_reducible refine Kept.foldl _ (fun _ _ => ?_) _ _
    | with_reducible apply Kept.step (k := Kept.foldl (m := [.regs, .net, .ports, .beds, .places, .fns, .reports, .out]) _ (fun _ _ => ?_) _ _)
    | split

theorem State.dropWave_kept (s) (b) (i) : Kept [.regs, .net, .ports, .streams, .beds, .places, .fns, .reports, .out] s (State.dropWave s b i) := by
  unfold State.dropWave
  repeat' first
    | exact Eq.refl true
    | with_reducible assumption
    | with_reducible apply Kept.ite
    | with_reducible apply Kept.refl
    | (extract_lets +onlyGivenNames x; refine Kept.via x ?_ ?_; (on_goal 1 => (unfold x; clear x)); on_goal 2 => (intro hx; clear_value x))
    | (extract_lets +onlyGivenNames x; clear_value x)
    | with_reducible apply Kept.step (k := State.freePlace_kept ..)
    | with_reducible apply Kept.step (k := State.restartDog_kept ..)
    | with_reducible apply Kept.step (k := State.leaveLoop_kept ..)
    | with_reducible apply Kept.step (k := State.bump_kept ..)

theorem State.dropStale_kept (s) (b) (tile) : Kept [.regs, .net, .ports, .streams, .beds, .places, .fns, .reports, .out] s (State.dropStale s b tile) := by
  unfold State.dropStale
  repeat' first
    | exact Eq.refl true
    | with_reducible assumption
    | with_reducible apply Kept.ite
    | with_reducible apply Kept.refl
    | with_reducible apply Kept.step (k := State.dropWave_kept ..)
    | with_reducible refine Kept.foldl _ (fun _ _ => ?_) _ _

theorem State.arrived_kept (s) (tile) (b) (i) : Kept [.regs, .net, .ports, .streams, .beds, .places, .fns, .reports, .out] s (State.arrived s tile b i) := by
  unfold State.arrived
  repeat' first
    | exact Eq.refl true
    | with_reducible assumption
    | with_reducible apply Kept.ite
    | with_reducible apply Kept.refl
    | with_reducible apply Kept.step (k := State.dropWave_kept ..)
    | with_reducible apply Kept.step (k := State.restartDog_kept ..)
    | with_reducible apply Kept.step (k := State.setPlace_kept ..)

theorem State.sendWave_kept (s) (m) (dst) (bed) (place) (riddle) : Kept [.regs, .net, .ports, .fns, .reports, .out] s (State.sendWave s m dst bed place riddle) := by
  unfold State.sendWave
  repeat' first
    | exact Eq.refl true
    | with_reducible assumption
    | with_reducible apply Kept.ite
    | with_reducible apply Kept.refl
    | with_reducible apply Kept.step (k := State.injectAll_kept ..)

theorem State.passStep_kept (s) (b) (i) : Kept [.regs, .beds] s (State.passStep s b i) := by
  unfold State.passStep
  repeat' first
    | exact Eq.refl true
    | with_reducible assumption
    | with_reducible apply Kept.ite
    | with_reducible apply Kept.refl
    | (extract_lets +onlyGivenNames x; clear_value x)
    | with_reducible apply Kept.step (k := State.restartDog_kept ..)
    | with_reducible apply Kept.step (k := State.setBed_kept ..)
    | with_reducible apply Kept.step (k := State.bump_kept ..)
    | with_reducible refine Kept.foldl _ (fun _ _ => ?_) _ _
    | with_reducible apply Kept.step (k := Kept.foldl (m := [.regs, .beds]) _ (fun _ _ => ?_) _ _)
    | split

theorem State.leavePlace_kept (s) (b) (i) : Kept [.regs, .net, .ports, .beds, .places, .fns, .reports, .out] s (State.leavePlace s b i) := by
  unfold State.leavePlace
  repeat' first
    | exact Eq.refl true
    | with_reducible assumption
    | with_reducible apply Kept.ite
    | with_reducible apply Kept.refl
    | with_reducible apply Kept.step (k := State.passStep_kept ..)
    | with_reducible apply Kept.step (k := State.freePlace_kept ..)

theorem State.waveDone_kept (s) (m) : Kept [.regs, .net, .ports, .beds, .places, .wmoves, .rplaces, .fns, .reports, .out] s (State.waveDone s m) := by
  unfold State.waveDone
  repeat' first
    | exact Eq.refl true
    | with_reducible assumption
    | with_reducible apply Kept.ite
    | with_reducible apply Kept.refl
    | (extract_lets +onlyGivenNames x; refine Kept.via x ?_ ?_; (on_goal 1 => (unfold x; clear x)); on_goal 2 => (intro hx; clear_value x))
    | with_reducible apply Kept.step (k := State.leavePlace_kept ..)
    | with_reducible refine Kept.foldl _ (fun _ _ => ?_) _ _
    | with_reducible apply Kept.step (k := Kept.foldl (m := [.regs, .net, .ports, .beds, .places, .wmoves, .rplaces, .fns, .reports, .out]) _ (fun _ _ => ?_) _ _)
    | split
    | with_reducible apply Kept.step (k := Kept.wmoves ..)
    | with_reducible apply Kept.step (k := Kept.rplaces ..)

theorem State.dropMove_kept (s) (m) : Kept [.regs, .net, .ports, .streams, .beds, .places, .wmoves, .fns, .reports, .out] s (State.dropMove s m) := by
  unfold State.dropMove
  repeat' first
    | exact Eq.refl true
    | with_reducible assumption
    | with_reducible apply Kept.ite
    | with_reducible apply Kept.refl
    | (extract_lets +onlyGivenNames x; refine Kept.via x ?_ ?_; (on_goal 1 => (unfold x; clear x)); on_goal 2 => (intro hx; clear_value x))
    | (extract_lets +onlyGivenNames x; clear_value x)
    | with_reducible apply Kept.step (k := State.leavePlace_kept ..)
    | with_reducible apply Kept.step (k := State.leaveLoop_kept ..)
    | with_reducible apply Kept.step (k := State.setBed_kept ..)
    | with_reducible apply Kept.step (k := State.bump_kept ..)
    | with_reducible refine Kept.foldl _ (fun _ _ => ?_) _ _
    | with_reducible apply Kept.step (k := Kept.foldl (m := [.regs, .net, .ports, .streams, .beds, .places, .wmoves, .fns, .reports, .out]) _ (fun _ _ => ?_) _ _)
    | split
    | with_reducible apply Kept.step (k := Kept.wmoves ..)

theorem State.dropStaleMoves_kept (s) (tile) : Kept [.regs, .net, .ports, .streams, .beds, .places, .wmoves, .fns, .reports, .out] s (State.dropStaleMoves s tile) := by
  unfold State.dropStaleMoves
  repeat' first
    | exact Eq.refl true
    | with_reducible assumption
    | with_reducible apply Kept.ite
    | with_reducible apply Kept.refl
    | with_reducible apply Kept.step (k := State.dropMove_kept ..)
    | with_reducible refine Kept.foldl _ (fun _ _ => ?_) _ _

theorem execPlaceReq_kept (p) (s) : OutKept [.regs, .net, .arrivals, .ports, .beds, .places, .fns, .reports, .out] s (execPlaceReq p s) := by
  unfold execPlaceReq
  repeat' first
    | exact Eq.refl true
    | with_reducible assumption
    | with_reducible apply Kept.ite
    | with_reducible apply Kept.refl
    | (extract_lets +onlyGivenNames x; clear_value x)
    | with_reducible apply OutKept.ite
    | with_reducible apply OutKept.next
    | with_reducible apply OutKept.fault
    | with_reducible apply Kept.step (k := State.placeOk_kept ..)
    | with_reducible refine Kept.step ?_ (State.eject_kept (m := [.regs, .net, .arrivals, .ports, .beds, .places, .fns, .reports, .out]) ?_ (fun _ => ?_) ..) ?_
    | with_reducible apply Kept.step (k := State.setBed_kept ..)
    | with_reducible refine Kept.foldl _ (fun _ _ => ?_) _ _
    | with_reducible apply Kept.step (k := Kept.foldl (m := [.regs, .net, .arrivals, .ports, .beds, .places, .fns, .reports, .out]) _ (fun _ _ => ?_) _ _)
    | split
    | (cases ‹List.cons _ _ = List.cons _ _›)
    | intro _

theorem execPlaceOk_kept (p) (s) : OutKept [.regs, .net, .arrivals, .ports, .fns, .reports, .out] s (execPlaceOk p s) := by
  unfold execPlaceOk
  repeat' first
    | exact Eq.refl true
    | with_reducible assumption
    | with_reducible apply Kept.ite
    | with_reducible apply Kept.refl
    | with_reducible apply OutKept.ite
    | with_reducible apply OutKept.next
    | with_reducible apply OutKept.fault
    | with_reducible apply Kept.step (k := State.sendWave_kept ..)
    | with_reducible refine Kept.step ?_ (State.eject_kept (m := [.regs, .net, .arrivals, .ports, .fns, .reports, .out]) ?_ (fun _ => ?_) ..) ?_
    | with_reducible refine Kept.foldl _ (fun _ _ => ?_) _ _
    | with_reducible apply Kept.step (k := Kept.foldl (m := [.regs, .net, .arrivals, .ports, .fns, .reports, .out]) _ (fun _ _ => ?_) _ _)
    | split
    | (cases ‹List.cons _ _ = List.cons _ _›)
    | intro _

theorem State.passArrive_kept (s) (tile) (p) : Kept [.regs, .peat, .peatBad, .beds] s (State.passArrive s tile p) := by
  unfold State.passArrive
  repeat' first
    | exact Eq.refl true
    | with_reducible assumption
    | with_reducible apply Kept.ite
    | with_reducible apply Kept.refl
    | (extract_lets +onlyGivenNames x; refine Kept.via x ?_ ?_; (on_goal 1 => (unfold x; clear x)); on_goal 2 => (intro hx; clear_value x))
    | (extract_lets +onlyGivenNames x; clear_value x)
    | with_reducible apply Kept.step (k := State.setBed_kept ..)
    | with_reducible apply Kept.step (k := State.writePeat_kept ..)

theorem State.placeArrive_kept (s) (tile) (p) : Kept [.regs, .net, .ports, .streams, .beds, .places, .fns, .reports, .out] s (State.placeArrive s tile p) := by
  unfold State.placeArrive
  repeat' first
    | exact Eq.refl true
    | with_reducible assumption
    | with_reducible apply Kept.ite
    | with_reducible apply Kept.refl
    | with_reducible apply Kept.step (k := State.arrived_kept ..)
    | with_reducible apply Kept.step (k := State.tileReply_kept ..)
    | with_reducible apply Kept.step (k := State.setPlace_kept ..)

theorem State.freeRiddle_kept (s) (tile) (r) : Kept [.rplaces] s (State.freeRiddle s tile r) := by
  unfold State.freeRiddle
  repeat' first
    | exact Eq.refl true
    | with_reducible assumption
    | with_reducible apply Kept.ite
    | with_reducible apply Kept.refl
    | with_reducible refine Kept.foldl _ (fun _ _ => ?_) _ _
    | with_reducible apply Kept.step (k := Kept.foldl (m := [.rplaces]) _ (fun _ _ => ?_) _ _)
    | split
    | with_reducible apply Kept.step (k := Kept.rplaces ..)

theorem State.dropRiddle_kept (s) (tile) (r) : Kept [.regs, .streams, .rplaces] s (State.dropRiddle s tile r) := by
  unfold State.dropRiddle
  repeat' first
    | exact Eq.refl true
    | with_reducible assumption
    | with_reducible apply Kept.ite
    | with_reducible apply Kept.refl
    | with_reducible apply Kept.step (k := State.freeRiddle_kept ..)
    | with_reducible apply Kept.step (k := State.leaveLoop_kept ..)
    | with_reducible apply Kept.step (k := State.bump_kept ..)

theorem State.unreserveRiddle_kept (s) (tile) (h) : Kept [.rplaces] s (State.unreserveRiddle s tile h) := by
  unfold State.unreserveRiddle
  repeat' first
    | exact Eq.refl true
    | with_reducible assumption
    | with_reducible apply Kept.ite
    | with_reducible apply Kept.refl
    | with_reducible apply Kept.step (k := State.freeRiddle_kept ..)
    | with_reducible refine Kept.foldl _ (fun _ _ => ?_) _ _
    | with_reducible apply Kept.step (k := Kept.foldl (m := [.rplaces]) _ (fun _ _ => ?_) _ _)
    | split

theorem State.partErr_kept (s) (tile) (n) (gen) (pos) : Kept [.regs, .fns, .out] s (State.partErr s tile n gen pos) := by
  unfold State.partErr
  repeat' first
    | exact Eq.refl true
    | with_reducible assumption
    | with_reducible apply Kept.ite
    | with_reducible apply Kept.refl
    | (extract_lets +onlyGivenNames x; clear_value x)
    | with_reducible apply Kept.step (k := State.raise_kept ..)
    | with_reducible apply Kept.step (k := State.bump_kept ..)
    | with_reducible apply Kept.step (k := State.setReg_kept ..)

theorem State.stirPlace_kept (s) (tile) (i) : Kept [.fresh, .regs, .peat] s (State.stirPlace s tile i) := by
  unfold State.stirPlace
  repeat' first
    | exact Eq.refl true
    | with_reducible assumption
    | with_reducible apply Kept.ite
    | with_reducible apply Kept.refl
    | (extract_lets +onlyGivenNames x; refine Kept.via x ?_ ?_; (on_goal 1 => (unfold x; clear x)); on_goal 2 => (intro hx; clear_value x))
    | (extract_lets +onlyGivenNames x; refine Kept.fn x ?_; unfold x; clear x)
    | (extract_lets +onlyGivenNames x; clear_value x)
    | with_reducible apply Kept.step (k := State.tickFresh_kept ..)
    | with_reducible apply Kept.step (k := State.bump_kept ..)
    | with_reducible refine Kept.foldl _ (fun _ _ => ?_) _ _
    | with_reducible apply Kept.step (k := Kept.foldl (m := [.fresh, .regs, .peat]) _ (fun _ _ => ?_) _ _)
    | split
    | with_reducible apply Kept.step (k := Kept.peat _ _ (Store.set_wf 0 _ _ _))
    | with_reducible apply Kept.step (k := Kept.peat _ _ (putBytes_wf _ _ _))

theorem State.settleParts_kept (s) (tile) (n) : Kept [.regs, .rplaces, .fns, .out] s (State.settleParts s tile n) := by
  unfold State.settleParts
  repeat' first
    | exact Eq.refl true
    | with_reducible assumption
    | with_reducible apply Kept.ite
    | with_reducible apply Kept.refl
    | (extract_lets +onlyGivenNames x; refine Kept.via x ?_ ?_; (on_goal 1 => (unfold x; clear x)); on_goal 2 => (intro hx; clear_value x))
    | (extract_lets +onlyGivenNames x; clear_value x)
    | with_reducible apply Kept.step (k := State.partErr_kept ..)
    | with_reducible refine Kept.foldl _ (fun _ _ => ?_) _ _
    | with_reducible apply Kept.step (k := Kept.foldl (m := [.regs, .rplaces, .fns, .out]) _ (fun _ _ => ?_) _ _)
    | split
    | with_reducible apply Kept.step (k := Kept.rplaces ..)

theorem State.riddleArrive_kept (s) (tile) (p) : Kept [.fresh, .regs, .peat, .net, .ports, .streams, .rplaces, .fns, .reports, .out] s (State.riddleArrive s tile p) := by
  unfold State.riddleArrive
  repeat' first
    | exact Eq.refl true
    | with_reducible assumption
    | with_reducible apply Kept.ite
    | with_reducible apply Kept.refl
    | (extract_lets +onlyGivenNames x; refine Kept.via x ?_ ?_; (on_goal 1 => (unfold x; clear x)); on_goal 2 => (intro hx; clear_value x))
    | (extract_lets +onlyGivenNames x; refine Kept.fn x ?_; unfold x; clear x)
    | (extract_lets +onlyGivenNames x; clear_value x)
    | with_reducible apply Kept.step (k := State.settleParts_kept ..)
    | with_reducible apply Kept.step (k := State.stirPlace_kept ..)
    | with_reducible apply Kept.step (k := State.dropRiddle_kept ..)
    | with_reducible apply Kept.step (k := State.tileReply_kept ..)
    | with_reducible refine Kept.foldl _ (fun _ _ => ?_) _ _
    | with_reducible apply Kept.step (k := Kept.foldl (m := [.fresh, .regs, .peat, .net, .ports, .streams, .rplaces, .fns, .reports, .out]) _ (fun _ _ => ?_) _ _)
    | split
    | with_reducible apply Kept.step (k := Kept.rplaces ..)

theorem execWave_kept (p) (s) : OutKept [.fresh, .regs, .peat, .peatBad, .net, .arrivals, .ports, .streams, .beds, .places, .rplaces, .fns, .reports, .out] s (execWave p s) := by
  unfold execWave
  repeat' first
    | exact Eq.refl true
    | with_reducible assumption
    | with_reducible apply Kept.ite
    | with_reducible apply Kept.refl
    | with_reducible apply OutKept.ite
    | with_reducible apply OutKept.next
    | with_reducible apply OutKept.fault
    | with_reducible apply Kept.step (k := State.riddleArrive_kept ..)
    | with_reducible apply Kept.step (k := State.placeArrive_kept ..)
    | with_reducible apply Kept.step (k := State.passArrive_kept ..)
    | with_reducible refine Kept.step ?_ (State.eject_kept (m := [.fresh, .regs, .peat, .peatBad, .net, .arrivals, .ports, .streams, .beds, .places, .rplaces, .fns, .reports, .out]) ?_ (fun _ => ?_) ..) ?_
    | with_reducible refine Kept.foldl _ (fun _ _ => ?_) _ _
    | with_reducible apply Kept.step (k := Kept.foldl (m := [.fresh, .regs, .peat, .peatBad, .net, .arrivals, .ports, .streams, .beds, .places, .rplaces, .fns, .reports, .out]) _ (fun _ _ => ?_) _ _)
    | split
    | (cases ‹List.cons _ _ = List.cons _ _›)
    | intro _

theorem execAdmission_kept (polder) (s) : OutKept [.regs, .net, .ports, .banks, .streams, .beds, .places, .fns, .reports, .evWay, .out] s (execAdmission polder s) := by
  unfold execAdmission
  repeat' first
    | exact Eq.refl true
    | with_reducible assumption
    | with_reducible apply Kept.ite
    | with_reducible apply Kept.refl
    | (extract_lets +onlyGivenNames x; refine OutKept.via x ?_ ?_; (on_goal 1 => (unfold x; clear x)); on_goal 2 => (intro hx; clear_value x))
    | (extract_lets +onlyGivenNames x; clear_value x)
    | with_reducible apply OutKept.ite
    | with_reducible apply OutKept.next
    | with_reducible apply OutKept.fault
    | with_reducible apply Kept.step (k := State.arrived_kept ..)
    | with_reducible refine Kept.step ?_ (State.mireTake_kept (by assumption)) ?_
    | with_reducible apply Kept.step (k := State.mireTake_keptP ..)
    | with_reducible apply Kept.step (k := State.setStream_kept ..)
    | with_reducible apply Kept.step (k := State.setPlace_kept ..)
    | with_reducible apply Kept.step (k := State.bump_kept ..)
    | with_reducible refine Kept.foldl _ (fun _ _ => ?_) _ _
    | with_reducible apply Kept.step (k := Kept.foldl (m := [.regs, .net, .ports, .banks, .streams, .beds, .places, .fns, .reports, .evWay, .out]) _ (fun _ _ => ?_) _ _)
    | split

theorem State.reserveRiddle_keptO (s) (tile) (h) : OptKept [.rplaces] s (State.reserveRiddle s tile h) := by
  unfold State.reserveRiddle
  repeat' first
    | exact Eq.refl true
    | with_reducible assumption
    | with_reducible apply Kept.ite
    | with_reducible apply Kept.refl
    | (extract_lets +onlyGivenNames x; clear_value x)
    | with_reducible apply OptKept.ite
    | with_reducible apply OptKept.some
    | with_reducible apply OptKept.none
    | with_reducible refine Kept.foldl _ (fun _ _ => ?_) _ _
    | with_reducible apply Kept.step (k := Kept.foldl (m := [.rplaces]) _ (fun _ _ => ?_) _ _)
    | split
    | with_reducible apply Kept.step (k := Kept.rplaces ..)
theorem State.reserveRiddle_kept {s tile h uu} (hh : State.reserveRiddle s tile h = some uu) : Kept [.rplaces] s uu := State.reserveRiddle_keptO s tile h uu hh

theorem openLoop_kept (b tile passRows) (last) (weight) (f) (ws) (o) : Kept [.regs, .rplaces] o.st (openLoop b tile passRows last weight f ws o).st := by
  induction f generalizing ws o with
  | zero => exact Kept.refl _ _
  | succ f ih =>
    unfold openLoop
    split
    · exact Kept.refl _ _
    · rename_i c t hp
      split
      · exact Kept.refl _ _
      · have k : OptKept [.regs, .rplaces] o.st (if (last && o.st.continues c.head) = true then o.st.reserveRiddle tile c.head else some o.st) := by
          split
          · exact fun t e => (State.reserveRiddle_kept e).mono rfl
          · exact OptKept.some (Kept.refl _ _)
        split
        · exact Kept.refl _ _
        · rename_i s hs
          refine Kept.trans ?_ (ih _ _)
          dsimp only
          split
          · exact (k s hs).step (State.bump_kept ..) rfl
          · exact k s hs

theorem State.castPass_kept (s) (b) (tile) (num) (bs) (cls) : Kept [.regs, .net, .ports, .fns, .reports, .out] s (State.castPass s b tile num bs cls) := by
  unfold State.castPass
  repeat' first
    | exact Eq.refl true
    | with_reducible assumption
    | with_reducible apply Kept.ite
    | with_reducible apply Kept.refl
    | (extract_lets +onlyGivenNames x; clear_value x)
    | with_reducible apply Kept.step (k := State.loopMiss_kept ..)
    | with_reducible apply Kept.step (k := State.injectAll_kept ..)
    | with_reducible refine Kept.foldl _ (fun _ _ => ?_) _ _
    | with_reducible apply Kept.step (k := Kept.foldl (m := [.regs, .net, .ports, .fns, .reports, .out]) _ (fun _ _ => ?_) _ _)
    | split

theorem execPassOpen_kept (bed) (s) : OutKept [.regs, .net, .ports, .streams, .beds, .places, .rplaces, .fns, .reports, .out] s (execPassOpen bed s) := by
  unfold execPassOpen
  repeat' first
    | exact Eq.refl true
    | with_reducible assumption
    | with_reducible apply Kept.ite
    | with_reducible apply Kept.refl
    | (extract_lets +onlyGivenNames x; refine OutKept.via x ?_ ?_; (on_goal 1 => (unfold x; clear x)); on_goal 2 => (intro hx; clear_value x))
    | (extract_lets +onlyGivenNames x; refine OutKept.viaP x ?_ ?_; (on_goal 1 => (unfold x; clear x)); on_goal 2 => (intro hx; clear_value x))
    | (extract_lets +onlyGivenNames x; refine Kept.fn x ?_; unfold x; clear x)
    | (extract_lets +onlyGivenNames x; clear_value x)
    | with_reducible apply OutKept.ite
    | with_reducible apply OutKept.next
    | with_reducible apply OutKept.fault
    | with_reducible apply Kept.step (k := State.castPass_kept ..)
    | with_reducible apply Kept.step (k := openLoop_kept ..)
    | with_reducible apply Kept.step (k := State.dropStale_kept ..)
    | with_reducible apply Kept.step (k := State.setBed_kept ..)
    | with_reducible refine Kept.foldl _ (fun _ _ => ?_) _ _
    | with_reducible apply Kept.step (k := Kept.foldl (m := [.regs, .net, .ports, .streams, .beds, .places, .rplaces, .fns, .reports, .out]) _ (fun _ _ => ?_) _ _)
    | split

theorem execPassStart_kept (bed) (tile) (s) : OutKept [.regs, .gates, .beds] s (execPassStart bed tile s) := by
  unfold execPassStart
  repeat' first
    | exact Eq.refl true
    | with_reducible assumption
    | with_reducible apply Kept.ite
    | with_reducible apply Kept.refl
    | (extract_lets +onlyGivenNames x; refine OutKept.via x ?_ ?_; (on_goal 1 => (unfold x; clear x)); on_goal 2 => (intro hx; clear_value x))
    | (extract_lets +onlyGivenNames x; clear_value x)
    | with_reducible apply OutKept.ite
    | with_reducible apply OutKept.next
    | with_reducible apply OutKept.fault
    | with_reducible apply Kept.step (k := State.meshGateAdd_kept ..)
    | with_reducible apply Kept.step (k := State.setBed_kept ..)
    | with_reducible refine Kept.foldl _ (fun _ _ => ?_) _ _
    | with_reducible apply Kept.step (k := Kept.foldl (m := [.regs, .gates, .beds]) _ (fun _ _ => ?_) _ _)
    | split

theorem State.passLast_kept (s) (h) : Kept [.regs, .mire, .mireBad, .banks, .streams, .fns, .out] s (State.passLast s h) := by
  unfold State.passLast
  repeat' first
    | exact Eq.refl true
    | with_reducible assumption
    | with_reducible apply Kept.ite
    | with_reducible apply Kept.refl
    | (extract_lets +onlyGivenNames x; refine Kept.via x ?_ ?_; (on_goal 1 => (unfold x; clear x)); on_goal 2 => (intro hx; clear_value x))
    | (extract_lets +onlyGivenNames x; clear_value x)
    | with_reducible apply Kept.step (k := State.jrnCommit_kept ..)
    | with_reducible apply Kept.step (k := State.setStream_kept ..)

theorem State.forwardOne_kept (s) (b) (tile) (num) (row) (i) : Kept [.regs, .mire, .mireBad, .net, .ports, .banks, .streams, .beds, .places, .wmoves, .rplaces, .nextTag, .fns, .reports, .out] s (State.forwardOne s b tile num row i) := by
  unfold State.forwardOne
  repeat' first
    | exact Eq.refl true
    | with_reducible assumption
    | with_reducible apply Kept.ite
    | with_reducible apply Kept.refl
    | (extract_lets +onlyGivenNames x; refine Kept.via x ?_ ?_; (on_goal 1 => (unfold x; clear x)); on_goal 2 => (intro hx; clear_value x))
    | with_reducible apply Kept.step (k := State.passLast_kept ..)
    | with_reducible apply Kept.step (k := State.unreserveRiddle_kept ..)
    | with_reducible apply Kept.step (k := State.leavePlace_kept ..)
    | with_reducible apply Kept.step (k := State.passStep_kept ..)
    | with_reducible apply Kept.step (k := State.sendWave_kept ..)
    | with_reducible apply Kept.step (k := State.freePlace_kept ..)
    | with_reducible apply Kept.step (k := State.loopMiss_kept ..)
    | with_reducible refine Kept.step ?_ (State.takeTag_kept (by assumption)) ?_
    | with_reducible apply Kept.step (k := State.takeTag_keptP ..)
    | with_reducible apply Kept.step (k := State.leaveLoop_kept ..)
    | with_reducible apply Kept.step (k := State.endStream_kept ..)
    | with_reducible apply Kept.step (k := State.injectOr_kept ..)
    | with_reducible apply Kept.step (k := State.bump_kept ..)
    | with_reducible refine Kept.foldl _ (fun _ _ => ?_) _ _
    | with_reducible apply Kept.step (k := Kept.foldl (m := [.regs, .mire, .mireBad, .net, .ports, .banks, .streams, .beds, .places, .wmoves, .rplaces, .nextTag, .fns, .reports, .out]) _ (fun _ _ => ?_) _ _)
    | split
    | with_reducible apply Kept.step (k := Kept.wmoves ..)

theorem State.forwardAll_kept (s) (b) (tile) (num) (a0) (a1) : Kept [.regs, .mire, .mireBad, .net, .ports, .banks, .streams, .beds, .places, .wmoves, .rplaces, .nextTag, .fns, .reports, .out] s (State.forwardAll s b tile num a0 a1) := by
  induction a1 generalizing s b tile num a0 with
  | nil => exact Kept.refl _ _
  | cons b r ih =>
    unfold State.forwardAll
    repeat' first
      | exact Eq.refl true
      | with_reducible assumption
      | with_reducible apply Kept.ite
      | with_reducible apply Kept.refl
      | (extract_lets +onlyGivenNames x; clear_value x)
      | with_reducible apply Kept.step (k := ih ..)
      | with_reducible apply Kept.step (k := State.forwardOne_kept ..)

theorem execPassForward_kept (bed) (s) : OutKept [.regs, .mire, .mireBad, .net, .ports, .banks, .streams, .beds, .places, .wmoves, .rplaces, .nextTag, .fns, .reports, .out] s (execPassForward bed s) := by
  unfold execPassForward
  repeat' first
    | exact Eq.refl true
    | with_reducible assumption
    | with_reducible apply Kept.ite
    | with_reducible apply Kept.refl
    | (extract_lets +onlyGivenNames x; refine OutKept.via x ?_ ?_; (on_goal 1 => (unfold x; clear x)); on_goal 2 => (intro hx; clear_value x))
    | (extract_lets +onlyGivenNames x; clear_value x)
    | with_reducible apply OutKept.ite
    | with_reducible apply OutKept.next
    | with_reducible apply OutKept.fault
    | with_reducible apply Kept.step (k := State.forwardAll_kept ..)
    | with_reducible apply Kept.step (k := State.setBed_kept ..)
    | with_reducible refine Kept.foldl _ (fun _ _ => ?_) _ _
    | with_reducible apply Kept.step (k := Kept.foldl (m := [.regs, .mire, .mireBad, .net, .ports, .banks, .streams, .beds, .places, .wmoves, .rplaces, .nextTag, .fns, .reports, .out]) _ (fun _ _ => ?_) _ _)
    | split

theorem execTokenWavefrontMove_kept (stream) (s) : OutKept [.regs, .net, .ports, .places, .wmoves, .nextTag, .fns, .reports, .out] s (execTokenWavefrontMove stream s) := by
  unfold execTokenWavefrontMove
  repeat' first
    | exact Eq.refl true
    | with_reducible assumption
    | with_reducible apply Kept.ite
    | with_reducible apply Kept.refl
    | (extract_lets +onlyGivenNames x; clear_value x)
    | with_reducible apply OutKept.ite
    | with_reducible apply OutKept.next
    | with_reducible apply OutKept.fault
    | with_reducible apply Kept.step (k := State.sendWave_kept ..)
    | with_reducible apply Kept.step (k := State.reserve_kept ..)
    | with_reducible apply Kept.step (k := State.loopMiss_kept ..)
    | with_reducible refine Kept.step ?_ (State.takeTag_kept (by assumption)) ?_
    | with_reducible apply Kept.step (k := State.takeTag_keptP ..)
    | with_reducible apply Kept.step (k := State.bump_kept ..)
    | with_reducible refine Kept.foldl _ (fun _ _ => ?_) _ _
    | with_reducible apply Kept.step (k := Kept.foldl (m := [.regs, .net, .ports, .places, .wmoves, .nextTag, .fns, .reports, .out]) _ (fun _ _ => ?_) _ _)
    | split
    | with_reducible apply Kept.step (k := Kept.wmoves ..)

theorem execBedWatchdog_kept (bed) (s) : OutKept [.regs, .wins, .beds, .fns, .reports, .out] s (execBedWatchdog bed s) := by
  unfold execBedWatchdog
  repeat' first
    | exact Eq.refl true
    | with_reducible assumption
    | with_reducible apply Kept.ite
    | with_reducible apply Kept.refl
    | (extract_lets +onlyGivenNames x; refine OutKept.via x ?_ ?_; (on_goal 1 => (unfold x; clear x)); on_goal 2 => (intro hx; clear_value x))
    | (extract_lets +onlyGivenNames x; clear_value x)
    | with_reducible apply OutKept.ite
    | with_reducible apply OutKept.next
    | with_reducible apply OutKept.fault
    | with_reducible apply Kept.step (k := State.restartDog_kept ..)
    | with_reducible apply Kept.step (k := State.report_kept ..)
    | with_reducible apply Kept.step (k := State.raise_kept ..)
    | with_reducible apply Kept.step (k := State.bump_kept ..)
    | with_reducible apply Kept.step (k := State.setBedReg_kept ..)
    | with_reducible refine Kept.foldl _ (fun _ _ => ?_) _ _
    | with_reducible apply Kept.step (k := Kept.foldl (m := [.regs, .wins, .beds, .fns, .reports, .out]) _ (fun _ _ => ?_) _ _)
    | split

theorem poldLoopHook_kept (w) (old) (p) : Kept [.regs, .wins, .fns, .out] w.st (poldLoopHook w old p) := by
  unfold poldLoopHook
  repeat' first
    | exact Eq.refl true
    | with_reducible assumption
    | with_reducible apply Kept.ite
    | with_reducible apply Kept.refl
    | with_reducible apply Kept.step (k := State.keepReg_kept ..)
    | with_reducible apply Kept.step (k := State.raise_kept ..)

theorem execPoldLoopWrite_kept (who) (p) (v) (s) : OutKept [.regs, .wins, .guards, .shadows, .sealRun, .fns, .out] s (execPoldLoopWrite who p v s) := by
  unfold execPoldLoopWrite
  repeat' first
    | exact Eq.refl true
    | with_reducible assumption
    | with_reducible apply Kept.ite
    | with_reducible apply Kept.refl
    | with_reducible apply OutKept.ite
    | with_reducible apply OutKept.next
    | with_reducible apply OutKept.fault
    | with_reducible apply Kept.step (k := poldLoopHook_kept ..)
    | with_reducible apply Kept.step (k := State.writeCore_kept ..)

/-! ### Egress -/

theorem State.setQDyn_kept (s) (p) (kind) (num) (d) : Kept [.queues] s (State.setQDyn s p kind num d) := by
  unfold State.setQDyn
  repeat' first
    | exact Eq.refl true
    | with_reducible assumption
    | with_reducible apply Kept.ite
    | with_reducible apply Kept.refl
    | split
    | with_reducible apply Kept.step (k := Kept.queues ..)

theorem State.setQStat_kept (s) (p) (kind) (num) (head) (tail) : Kept [.wins] s (State.setQStat s p kind num head tail) := by
  unfold State.setQStat
  repeat' first
    | exact Eq.refl true
    | with_reducible assumption
    | with_reducible apply Kept.ite
    | with_reducible apply Kept.refl
    | with_reducible apply Kept.step (k := State.setQueueReg_kept ..)

theorem State.ringLost_kept (s) (p) (r) : Kept [.regs, .wins, .queues, .fns, .out] s (State.ringLost s p r) := by
  unfold State.ringLost
  repeat' first
    | exact Eq.refl true
    | with_reducible assumption
    | with_reducible apply Kept.ite
    | with_reducible apply Kept.refl
    | (extract_lets +onlyGivenNames x; refine Kept.via x ?_ ?_; (on_goal 1 => (unfold x; clear x)); on_goal 2 => (intro hx; clear_value x))
    | (extract_lets +onlyGivenNames x; clear_value x)
    | with_reducible apply Kept.step (k := State.setQDyn_kept ..)
    | with_reducible apply Kept.step (k := State.raise_kept ..)
    | with_reducible apply Kept.step (k := State.bump_kept ..)
    | with_reducible apply Kept.step (k := State.setQueueReg_kept ..)

theorem State.toRing_kept (s) (p) (r) (bs) : Kept [.regs, .wins, .queues, .fns, .out] s (State.toRing s p r bs) := by
  unfold State.toRing
  repeat' first
    | exact Eq.refl true
    | with_reducible assumption
    | with_reducible apply Kept.ite
    | with_reducible apply Kept.refl
    | (extract_lets +onlyGivenNames x; clear_value x)
    | with_reducible apply Kept.step (k := State.ringLost_kept ..)
    | with_reducible apply Kept.step (k := State.setQDyn_kept ..)

theorem State.egressDrop_kept (s) (e) : Kept [.regs, .fns, .out] s (State.egressDrop s e) := by
  unfold State.egressDrop
  repeat' first
    | exact Eq.refl true
    | with_reducible assumption
    | with_reducible apply Kept.ite
    | with_reducible apply Kept.refl
    | with_reducible apply Kept.step (k := State.raise_kept ..)
    | with_reducible apply Kept.step (k := State.bump_kept ..)

theorem State.setEgress_kept (s) (e) (k) (b) : Kept [.egress] s (State.setEgress s e k b) := by
  unfold State.setEgress
  repeat' first
    | exact Eq.refl true
    | with_reducible assumption
    | with_reducible apply Kept.ite
    | with_reducible apply Kept.refl
    | split
    | with_reducible apply Kept.step (k := Kept.egress ..)

theorem State.toEthernet_kept (s) (e) (k) (bs) : Kept [.regs, .egress, .fns, .out] s (State.toEthernet s e k bs) := by
  unfold State.toEthernet
  repeat' first
    | exact Eq.refl true
    | with_reducible assumption
    | with_reducible apply Kept.ite
    | with_reducible apply Kept.refl
    | (extract_lets +onlyGivenNames x; clear_value x)
    | with_reducible apply Kept.step (k := State.setEgress_kept ..)
    | with_reducible apply Kept.step (k := State.egressDrop_kept ..)

theorem State.acceptRecord_kept (s) (n) (bs) : Kept [.regs, .wins, .queues, .egress, .fns, .out] s (State.acceptRecord s n bs) := by
  unfold State.acceptRecord
  repeat' first
    | exact Eq.refl true
    | with_reducible assumption
    | with_reducible apply Kept.ite
    | with_reducible apply Kept.refl
    | with_reducible apply Kept.step (k := State.toEthernet_kept ..)
    | with_reducible apply Kept.step (k := State.toRing_kept ..)

/-! ### Riddle -/

theorem State.noteToken_kept (s) (tile) (n) (tok) (gstate) : Kept [.regs, .peat, .peatBad] s (State.noteToken s tile n tok gstate) := by
  unfold State.noteToken
  repeat' first
    | exact Eq.refl true
    | with_reducible assumption
    | with_reducible apply Kept.ite
    | with_reducible apply Kept.refl
    | (extract_lets +onlyGivenNames x; refine Kept.via x ?_ ?_; (on_goal 1 => (unfold x; clear x)); on_goal 2 => (intro hx; clear_value x))
    | (extract_lets +onlyGivenNames x; clear_value x)
    | with_reducible apply Kept.step (k := State.writePeat_kept ..)

theorem State.ridLast_kept (s) (c) (cause) (pos) : Kept [.regs] s (State.ridLast s c cause pos) := by
  unfold State.ridLast
  repeat' first
    | exact Eq.refl true
    | with_reducible assumption
    | with_reducible apply Kept.ite
    | with_reducible apply Kept.refl
    | with_reducible apply Kept.step (k := State.setReg_kept ..)

theorem State.noteRow_kept (s) (c) (pos) (x) : Kept [.regs, .fns, .out] s (State.noteRow s c pos x) := by
  unfold State.noteRow
  repeat' first
    | exact Eq.refl true
    | with_reducible assumption
    | with_reducible apply Kept.ite
    | with_reducible apply Kept.refl
    | (extract_lets +onlyGivenNames x; refine Kept.via x ?_ ?_; (on_goal 1 => (unfold x; clear x)); on_goal 2 => (intro hx; clear_value x))
    | (extract_lets +onlyGivenNames x; clear_value x)
    | with_reducible apply Kept.step (k := State.ridLast_kept ..)
    | with_reducible apply Kept.step (k := State.raise_kept ..)
    | with_reducible apply Kept.step (k := State.bump_kept ..)

theorem State.emitRec_kept (s) (tile) (n) (r) (gstate) : Kept [.regs, .wins, .peat, .mire, .peatBad, .mireBad, .banks, .streams, .queues, .egress, .fns, .out] s (State.emitRec s tile n r gstate) := by
  unfold State.emitRec
  repeat' first
    | exact Eq.refl true
    | with_reducible assumption
    | with_reducible apply Kept.ite
    | with_reducible apply Kept.refl
    | with_reducible apply Kept.step (k := State.noteToken_kept ..)
    | with_reducible apply Kept.step (k := State.acceptRecord_kept ..)
    | with_reducible apply Kept.step (k := State.jrnEmission_kept ..)
    | with_reducible refine Kept.step ?_ (State.jrnPut_kept (by assumption)) ?_
    | with_reducible apply Kept.step (k := State.jrnPut_keptP ..)
    | with_reducible apply Kept.step (k := State.setStream_kept ..)
    | with_reducible apply Kept.step (k := State.bump_kept ..)

theorem State.emitAll_keptP (s) (tile) (n) (a0) : Kept [.regs, .wins, .peat, .mire, .peatBad, .mireBad, .net, .ports, .banks, .streams, .queues, .egress, .fns, .reports, .out] s (State.emitAll s tile n a0).2 := by
  induction a0 generalizing s tile n with
  | nil => exact Kept.refl _ _
  | cons b r ih =>
    unfold State.emitAll
    repeat' first
      | exact Eq.refl true
      | with_reducible assumption
      | with_reducible apply Kept.ite
      | with_reducible apply Kept.refl
      | (extract_lets +onlyGivenNames x; refine Kept.via x ?_ ?_; (on_goal 1 => (unfold x; clear x)); on_goal 2 => (intro hx; clear_value x))
      | (extract_lets +onlyGivenNames x; clear_value x)
      | with_reducible apply Kept.step (k := ih ..)
      | with_reducible apply Kept.step (k := State.emitRec_kept ..)
      | with_reducible apply Kept.step (k := State.endStream_kept ..)
      | with_reducible refine Kept.foldl _ (fun _ _ => ?_) _ _
      | with_reducible apply Kept.step (k := Kept.foldl (m := [.regs, .wins, .peat, .mire, .peatBad, .mireBad, .net, .ports, .banks, .streams, .queues, .egress, .fns, .reports, .out]) _ (fun _ _ => ?_) _ _)
      | split
theorem State.emitAll_kept {s tile n a0 zz tt} (h : State.emitAll s tile n a0 = (zz, tt)) : Kept [.regs, .wins, .peat, .mire, .peatBad, .mireBad, .net, .ports, .banks, .streams, .queues, .egress, .fns, .reports, .out] s tt := by
  have := State.emitAll_keptP s tile n a0
  rw [h] at this
  exact this

theorem State.emitNone_kept (s) (c) (pos) : Kept [.regs, .wins, .peat, .mire, .peatBad, .mireBad, .net, .ports, .banks, .streams, .queues, .egress, .fns, .reports, .out] s (State.emitNone s c pos) := by
  unfold State.emitNone
  repeat' first
    | exact Eq.refl true
    | with_reducible assumption
    | with_reducible apply Kept.ite
    | with_reducible apply Kept.refl
    | (extract_lets +onlyGivenNames x; refine Kept.via x ?_ ?_; (on_goal 1 => (unfold x; clear x)); on_goal 2 => (intro hx; clear_value x))
    | with_reducible apply Kept.step (k := State.emitRec_kept ..)
    | with_reducible apply Kept.step (k := State.ridLast_kept ..)
    | with_reducible apply Kept.step (k := State.endStream_kept ..)
    | with_reducible apply Kept.step (k := State.raise_kept ..)
    | with_reducible apply Kept.step (k := State.bump_kept ..)

theorem State.setPlaceR_kept (s) (tile) (r) : Kept [.rplaces] s (State.setPlaceR s tile r) := by
  unfold State.setPlaceR
  repeat' first
    | exact Eq.refl true
    | with_reducible assumption
    | with_reducible apply Kept.ite
    | with_reducible apply Kept.refl
    | with_reducible refine Kept.foldl _ (fun _ _ => ?_) _ _
    | with_reducible apply Kept.step (k := Kept.foldl (m := [.rplaces]) _ (fun _ _ => ?_) _ _)
    | split
    | with_reducible apply Kept.step (k := Kept.rplaces ..)

theorem State.sendDraft_kept (s) (tile) (n) (pos) (root) (commit) : Kept [.regs, .net, .ports, .streams, .fns, .reports, .out] s (State.sendDraft s tile n pos root commit) := by
  unfold State.sendDraft
  repeat' first
    | exact Eq.refl true
    | with_reducible assumption
    | with_reducible apply Kept.ite
    | with_reducible apply Kept.refl
    | (extract_lets +onlyGivenNames x; refine Kept.via x ?_ ?_; (on_goal 1 => (unfold x; clear x)); on_goal 2 => (intro hx; clear_value x))
    | with_reducible apply Kept.step (k := State.loopMiss_kept ..)
    | with_reducible apply Kept.step (k := State.setStream_kept ..)
    | with_reducible apply Kept.step (k := State.injectOr_kept ..)
    | with_reducible apply Kept.step (k := State.raise_kept ..)
    | with_reducible apply Kept.step (k := State.bump_kept ..)
    | with_reducible refine Kept.foldl _ (fun _ _ => ?_) _ _
    | with_reducible apply Kept.step (k := Kept.foldl (m := [.regs, .net, .ports, .streams, .fns, .reports, .out]) _ (fun _ _ => ?_) _ _)
    | split

theorem State.formNext_kept (s) (c) (pos) (root) (commit) : Kept [.regs, .net, .ports, .streams, .rplaces, .fns, .reports, .out] s (State.formNext s c pos root commit) := by
  unfold State.formNext
  repeat' first
    | exact Eq.refl true
    | with_reducible assumption
    | with_reducible apply Kept.ite
    | with_reducible apply Kept.refl
    | (extract_lets +onlyGivenNames x; refine Kept.via x ?_ ?_; (on_goal 1 => (unfold x; clear x)); on_goal 2 => (intro hx; clear_value x))
    | (extract_lets +onlyGivenNames x; clear_value x)
    | with_reducible apply Kept.step (k := State.sendDraft_kept ..)
    | with_reducible apply Kept.step (k := State.setPlaceR_kept ..)
    | with_reducible apply Kept.step (k := State.bump_kept ..)

theorem State.deliverTree_kept (s) (c) (l) : Kept [.regs, .net, .ports, .streams, .rplaces, .fns, .reports, .out] s (State.deliverTree s c l) := by
  unfold State.deliverTree
  repeat' first
    | exact Eq.refl true
    | with_reducible assumption
    | with_reducible apply Kept.ite
    | with_reducible apply Kept.refl
    | (extract_lets +onlyGivenNames x; refine Kept.via x ?_ ?_; (on_goal 1 => (unfold x; clear x)); on_goal 2 => (intro hx; clear_value x))
    | (extract_lets +onlyGivenNames x; clear_value x)
    | with_reducible apply Kept.step (k := State.freeRiddle_kept ..)
    | with_reducible apply Kept.step (k := State.loopMiss_kept ..)
    | with_reducible apply Kept.step (k := State.leaveLoop_kept ..)
    | with_reducible apply Kept.step (k := State.setStream_kept ..)
    | with_reducible apply Kept.step (k := State.injectOr_kept ..)
    | with_reducible refine Kept.foldl _ (fun _ _ => ?_) _ _
    | with_reducible apply Kept.step (k := Kept.foldl (m := [.regs, .net, .ports, .streams, .rplaces, .fns, .reports, .out]) _ (fun _ _ => ?_) _ _)
    | split

theorem State.draftLevel_kept (s) (c) : Kept [.regs, .net, .ports, .streams, .rplaces, .fns, .reports, .out] s (State.draftLevel s c) := by
  unfold State.draftLevel
  repeat' first
    | exact Eq.refl true
    | with_reducible assumption
    | with_reducible apply Kept.ite
    | with_reducible apply Kept.refl
    | (extract_lets +onlyGivenNames x; refine Kept.via x ?_ ?_; (on_goal 1 => (unfold x; clear x)); on_goal 2 => (intro hx; clear_value x))
    | (extract_lets +onlyGivenNames x; clear_value x)
    | with_reducible apply Kept.step (k := State.deliverTree_kept ..)
    | with_reducible apply Kept.step (k := State.setPlaceR_kept ..)
    | with_reducible apply Kept.step (k := State.noteRow_kept ..)
    | with_reducible apply Kept.step (k := State.setStream_kept ..)
    | with_reducible apply Kept.step (k := State.bump_kept ..)
    | with_reducible refine Kept.foldl _ (fun _ _ => ?_) _ _

theorem State.ridLeave_kept (s) (c) : Kept [.streams, .rplaces] s (State.ridLeave s c) := by
  unfold State.ridLeave
  repeat' first
    | exact Eq.refl true
    | with_reducible assumption
    | with_reducible apply Kept.ite
    | with_reducible apply Kept.refl
    | with_reducible apply Kept.step (k := State.freeRiddle_kept ..)
    | with_reducible apply Kept.step (k := State.leaveLoop_kept ..)

theorem State.ridSelect_kept (s) (c) : Kept [.regs, .wins, .peat, .mire, .peatBad, .mireBad, .net, .ports, .banks, .streams, .rplaces, .queues, .egress, .fns, .reports, .out] s (State.ridSelect s c) := by
  unfold State.ridSelect
  repeat' first
    | exact Eq.refl true
    | with_reducible assumption
    | with_reducible apply Kept.ite
    | with_reducible apply Kept.refl
    | (extract_lets +onlyGivenNames x; refine Kept.via x ?_ ?_; (on_goal 1 => (unfold x; clear x)); on_goal 2 => (intro hx; clear_value x))
    | (extract_lets +onlyGivenNames x; refine Kept.fn x ?_; unfold x; clear x)
    | (extract_lets +onlyGivenNames x; clear_value x)
    | with_reducible apply Kept.step (k := State.ridLeave_kept ..)
    | with_reducible apply Kept.step (k := State.formNext_kept ..)
    | with_reducible apply Kept.step (k := State.emitNone_kept ..)
    | with_reducible refine Kept.step ?_ (State.emitAll_kept (by assumption)) ?_
    | with_reducible apply Kept.step (k := State.emitAll_keptP ..)
    | with_reducible apply Kept.step (k := State.noteRow_kept ..)
    | with_reducible apply Kept.step (k := State.setStream_kept ..)
    | with_reducible apply Kept.step (k := State.bump_kept ..)
    | with_reducible refine Kept.foldl _ (fun _ _ => ?_) _ _
    | with_reducible apply Kept.step (k := Kept.foldl (m := [.regs, .wins, .peat, .mire, .peatBad, .mireBad, .net, .ports, .banks, .streams, .rplaces, .queues, .egress, .fns, .reports, .out]) _ (fun _ _ => ?_) _ _)
    | split

theorem State.ridRead_keptP (s) (tile) (l) (e) (addr) : Kept [.fresh, .regs, .fns, .reports, .out] s (State.ridRead s tile l e addr).2 := by
  unfold State.ridRead
  repeat' first
    | exact Eq.refl true
    | with_reducible assumption
    | with_reducible apply Kept.ite
    | with_reducible apply Kept.refl
    | (extract_lets +onlyGivenNames x; refine Kept.via x ?_ ?_; (on_goal 1 => (unfold x; clear x)); on_goal 2 => (intro hx; clear_value x))
    | (extract_lets +onlyGivenNames x; clear_value x)
    | with_reducible apply Kept.step (k := State.peatEcc_kept ..)
    | with_reducible apply Kept.step (k := State.countPeatRead_kept ..)
    | with_reducible apply Kept.step (k := State.report_kept ..)
    | with_reducible refine Kept.foldl _ (fun _ _ => ?_) _ _
    | with_reducible apply Kept.step (k := Kept.foldl (m := [.fresh, .regs, .fns, .reports, .out]) _ (fun _ _ => ?_) _ _)
    | split
theorem State.ridRead_kept {s tile l e addr zz tt} (h : State.ridRead s tile l e addr = (zz, tt)) : Kept [.fresh, .regs, .fns, .reports, .out] s tt := by
  have := State.ridRead_keptP s tile l e addr
  rw [h] at this
  exact this

theorem execRiddleSelect_kept (stream) (e) (addr) (s) : OutKept (.fresh :: .regs :: .wins :: .peat :: .mire :: .peatBad :: .mireBad :: .net :: .ports :: .banks :: .streams :: .rplaces :: .queues :: .egress :: .fns :: .reports :: .out :: []) s (execRiddleSelect stream e addr s) := by
  unfold execRiddleSelect
  repeat' first
    | exact Eq.refl true
    | with_reducible assumption
    | with_reducible apply Kept.ite
    | with_reducible apply Kept.refl
    | (extract_lets +onlyGivenNames x; clear_value x)
    | with_reducible apply OutKept.ite
    | with_reducible apply OutKept.next
    | with_reducible apply OutKept.fault
    | with_reducible refine Kept.step ?_ (State.ridRead_kept (by assumption)) ?_
    | with_reducible apply Kept.step (k := State.ridRead_keptP ..)
    | with_reducible apply Kept.step (k := State.ridSelect_kept ..)
    | with_reducible apply Kept.step (k := State.ridLeave_kept ..)
    | with_reducible apply Kept.step (k := State.draftLevel_kept ..)
    | with_reducible apply Kept.step (k := State.dropRiddle_kept ..)
    | with_reducible refine Kept.foldl _ (fun _ _ => ?_) _ _
    | with_reducible apply Kept.step (k := Kept.foldl (m := (.fresh :: .regs :: .wins :: .peat :: .mire :: .peatBad :: .mireBad :: .net :: .ports :: .banks :: .streams :: .rplaces :: .queues :: .egress :: .fns :: .reports :: .out :: [])) _ (fun _ _ => ?_) _ _)
    | split

theorem State.takePart_keptP (s) (tile) (part) (parts) (n) (rows) : Kept [.fresh, .regs, .peat, .rplaces, .fns, .reports, .out] s (State.takePart s tile part parts n rows).2 := by
  unfold State.takePart
  repeat' first
    | exact Eq.refl true
    | with_reducible assumption
    | with_reducible apply Kept.ite
    | with_reducible apply Kept.refl
    | (extract_lets +onlyGivenNames x; refine Kept.via x ?_ ?_; (on_goal 1 => (unfold x; clear x)); on_goal 2 => (intro hx; clear_value x))
    | (extract_lets +onlyGivenNames x; clear_value x)
    | with_reducible refine Kept.step ?_ (State.ridRead_kept (by assumption)) ?_
    | with_reducible apply Kept.step (k := State.ridRead_keptP ..)
    | with_reducible apply Kept.step (k := State.setPlaceR_kept ..)
    | with_reducible apply Kept.step (k := State.stirPlace_kept ..)
    | with_reducible apply Kept.step (k := State.partErr_kept ..)
    | with_reducible refine Kept.foldl _ (fun _ _ => ?_) _ _
    | with_reducible apply Kept.step (k := Kept.foldl (m := [.fresh, .regs, .peat, .rplaces, .fns, .reports, .out]) _ (fun _ _ => ?_) _ _)
    | split
theorem State.takePart_kept {s tile part parts n rows zz tt} (h : State.takePart s tile part parts n rows = (zz, tt)) : Kept [.fresh, .regs, .peat, .rplaces, .fns, .reports, .out] s tt := by
  have := State.takePart_keptP s tile part parts n rows
  rw [h] at this
  exact this

theorem State.judgePart_kept (s) (tile) (part) (parts) (bs) : Kept [.fresh, .regs, .peat, .rplaces, .fns, .reports, .out] s (State.judgePart s tile part parts bs) := by
  unfold State.judgePart
  extract_lets rows step
  have h (l : List Nat) (a : Bool × Bool × State) : Kept [.fresh, .regs, .peat, .rplaces, .fns, .reports, .out] a.2.2 (l.foldl step a).2.2 := by
    induction l generalizing a with
    | nil => exact Kept.refl _ _
    | cons n r ih =>
      refine Kept.trans ?_ (ih _)
      unfold step
      split
      · rename_i t ht
        exact (State.takePart_kept ht).mono rfl
      · rename_i t ht
        exact (State.takePart_kept ht).mono rfl
      · rename_i t ht
        exact (State.takePart_kept ht).mono rfl
  have h1 := h (partStreams rows) (rows.isEmpty, false, s)
  generalize (partStreams rows).foldl step (rows.isEmpty, false, s) = q at h1
  obtain ⟨kept, old, u⟩ := q
  dsimp only at h1 ⊢
  have h2 : Kept [.fresh, .regs, .peat, .rplaces, .fns, .reports, .out] s (if kept = true then u.bump (riddlePage tile) 2 1 else u) := by
    split
    · exact h1.step (State.bump_kept ..) rfl
    · exact h1
  split
  · exact h2.step (State.bump_kept ..) rfl
  · exact h2

theorem execHand_kept (p) (s) : OutKept [.fresh, .regs, .peat, .net, .arrivals, .ports, .rplaces, .handRx, .fns, .reports, .out] s (execHand p s) := by
  unfold execHand
  repeat' first
    | exact Eq.refl true
    | with_reducible assumption
    | with_reducible apply Kept.ite
    | with_reducible apply Kept.refl
    | (extract_lets +onlyGivenNames x; refine Kept.via x ?_ ?_; (on_goal 1 => (unfold x; clear x)); on_goal 2 => (intro hx; clear_value x))
    | with_reducible apply OutKept.ite
    | with_reducible apply OutKept.next
    | with_reducible apply OutKept.fault
    | with_reducible apply Kept.step (k := State.judgePart_kept ..)
    | with_reducible apply Kept.step (k := State.tileReply_kept ..)
    | with_reducible refine Kept.step ?_ (State.eject_kept (m := [.fresh, .regs, .peat, .net, .arrivals, .ports, .rplaces, .handRx, .fns, .reports, .out]) ?_ (fun _ => ?_) ..) ?_
    | with_reducible refine Kept.foldl _ (fun _ _ => ?_) _ _
    | with_reducible apply Kept.step (k := Kept.foldl (m := [.fresh, .regs, .peat, .net, .arrivals, .ports, .rplaces, .handRx, .fns, .reports, .out]) _ (fun _ _ => ?_) _ _)
    | split
    | with_reducible apply Kept.step (k := Kept.handRx ..)
    | (cases ‹List.cons _ _ = List.cons _ _›)
    | intro _

theorem execPartTimeout_kept (stream) (s) : OutKept [.regs, .rplaces, .fns, .reports, .out] s (execPartTimeout stream s) := by
  unfold execPartTimeout
  repeat' first
    | exact Eq.refl true
    | with_reducible assumption
    | with_reducible apply Kept.ite
    | with_reducible apply Kept.refl
    | (extract_lets +onlyGivenNames x; refine OutKept.via x ?_ ?_; (on_goal 1 => (unfold x; clear x)); on_goal 2 => (intro hx; clear_value x))
    | (extract_lets +onlyGivenNames x; clear_value x)
    | with_reducible apply OutKept.ite
    | with_reducible apply OutKept.next
    | with_reducible apply OutKept.fault
    | with_reducible apply Kept.step (k := State.setPlaceR_kept ..)
    | with_reducible apply Kept.step (k := State.ridLast_kept ..)
    | with_reducible apply Kept.step (k := State.report_kept ..)
    | with_reducible apply Kept.step (k := State.raise_kept ..)
    | with_reducible refine Kept.foldl _ (fun _ _ => ?_) _ _
    | with_reducible apply Kept.step (k := Kept.foldl (m := [.regs, .rplaces, .fns, .reports, .out]) _ (fun _ _ => ?_) _ _)
    | split

theorem State.enter_kept (s) (b) (i) (e) (n) (w) (chunk) : Kept [.regs, .net, .ports, .streams, .beds, .places, .fns, .reports, .out] s (State.enter s b i e n w chunk) := by
  unfold State.enter
  repeat' first
    | exact Eq.refl true
    | with_reducible assumption
    | with_reducible apply Kept.ite
    | with_reducible apply Kept.refl
    | (extract_lets +onlyGivenNames x; refine Kept.via x ?_ ?_; (on_goal 1 => (unfold x; clear x)); on_goal 2 => (intro hx; clear_value x))
    | (extract_lets +onlyGivenNames x; clear_value x)
    | with_reducible apply Kept.step (k := State.arrived_kept ..)
    | with_reducible apply Kept.step (k := State.setStream_kept ..)
    | with_reducible apply Kept.step (k := State.setPlace_kept ..)

theorem execDraftReq_kept (p) (s) : OutKept [.regs, .net, .arrivals, .ports, .streams, .beds, .places, .fns, .reports, .out] s (execDraftReq p s) := by
  unfold execDraftReq
  repeat' first
    | exact Eq.refl true
    | with_reducible assumption
    | with_reducible apply Kept.ite
    | with_reducible apply Kept.refl
    | (extract_lets +onlyGivenNames x; refine Kept.via x ?_ ?_; (on_goal 1 => (unfold x; clear x)); on_goal 2 => (intro hx; clear_value x))
    | (extract_lets +onlyGivenNames x; clear_value x)
    | with_reducible apply OutKept.ite
    | with_reducible apply OutKept.next
    | with_reducible apply OutKept.fault
    | with_reducible apply Kept.step (k := State.enter_kept ..)
    | with_reducible apply Kept.step (k := State.setStream_kept ..)
    | with_reducible refine Kept.step ?_ (State.eject_kept (m := [.regs, .net, .arrivals, .ports, .streams, .beds, .places, .fns, .reports, .out]) ?_ (fun _ => ?_) ..) ?_
    | with_reducible apply Kept.step (k := State.bump_kept ..)
    | with_reducible refine Kept.foldl _ (fun _ _ => ?_) _ _
    | with_reducible apply Kept.step (k := Kept.foldl (m := [.regs, .net, .arrivals, .ports, .streams, .beds, .places, .fns, .reports, .out]) _ (fun _ _ => ?_) _ _)
    | split
    | (cases ‹List.cons _ _ = List.cons _ _›)
    | intro _

theorem execDraftTree_kept (p) (s) : OutKept [.regs, .arrivals, .streams, .rplaces, .fns, .reports, .out] s (execDraftTree p s) := by
  unfold execDraftTree
  repeat' first
    | exact Eq.refl true
    | with_reducible assumption
    | with_reducible apply Kept.ite
    | with_reducible apply Kept.refl
    | (extract_lets +onlyGivenNames x; refine Kept.via x ?_ ?_; (on_goal 1 => (unfold x; clear x)); on_goal 2 => (intro hx; clear_value x))
    | (extract_lets +onlyGivenNames x; clear_value x)
    | with_reducible apply OutKept.ite
    | with_reducible apply OutKept.next
    | with_reducible apply OutKept.fault
    | with_reducible apply Kept.step (k := State.setPlaceR_kept ..)
    | with_reducible apply Kept.step (k := State.setStream_kept ..)
    | with_reducible refine Kept.step ?_ (State.eject_kept (m := [.regs, .arrivals, .streams, .rplaces, .fns, .reports, .out]) ?_ (fun _ => ?_) ..) ?_
    | with_reducible apply Kept.step (k := State.raise_kept ..)
    | with_reducible apply Kept.step (k := State.bump_kept ..)
    | with_reducible refine Kept.foldl _ (fun _ _ => ?_) _ _
    | with_reducible apply Kept.step (k := Kept.foldl (m := [.regs, .arrivals, .streams, .rplaces, .fns, .reports, .out]) _ (fun _ _ => ?_) _ _)
    | split
    | (cases ‹List.cons _ _ = List.cons _ _›)
    | intro _

theorem execDraftWaitTimeout_kept (stream) (s) : OutKept [.regs, .rplaces, .fns, .out] s (execDraftWaitTimeout stream s) := by
  unfold execDraftWaitTimeout
  repeat' first
    | exact Eq.refl true
    | with_reducible assumption
    | with_reducible apply Kept.ite
    | with_reducible apply Kept.refl
    | (extract_lets +onlyGivenNames x; clear_value x)
    | with_reducible apply OutKept.ite
    | with_reducible apply OutKept.next
    | with_reducible apply OutKept.fault
    | with_reducible apply Kept.step (k := State.setPlaceR_kept ..)
    | with_reducible apply Kept.step (k := State.raise_kept ..)
    | with_reducible apply Kept.step (k := State.bump_kept ..)
    | with_reducible refine Kept.foldl _ (fun _ _ => ?_) _ _
    | with_reducible apply Kept.step (k := Kept.foldl (m := [.regs, .rplaces, .fns, .out]) _ (fun _ _ => ?_) _ _)
    | split

theorem gramHook_kept (w) (old) (tile) : Kept [.regs, .wins, .fns, .out] w.st (gramHook w old tile) := by
  unfold gramHook
  repeat' first
    | exact Eq.refl true
    | with_reducible assumption
    | with_reducible apply Kept.ite
    | with_reducible apply Kept.refl
    | with_reducible apply Kept.step (k := State.keepReg_kept ..)
    | with_reducible apply Kept.step (k := State.raise_kept ..)

theorem State.dropRidStale_kept (s) (tile) : Kept [.regs, .streams, .rplaces] s (State.dropRidStale s tile) := by
  unfold State.dropRidStale
  repeat' first
    | exact Eq.refl true
    | with_reducible assumption
    | with_reducible apply Kept.ite
    | with_reducible apply Kept.refl
    | with_reducible apply Kept.step (k := State.dropRiddle_kept ..)
    | with_reducible refine Kept.foldl _ (fun _ _ => ?_) _ _

/-! ### Pool -/

theorem gateValHook_kept (w) (tile) : Kept [.regs, .gates] w.st (gateValHook w tile) := by
  unfold gateValHook
  repeat' first
    | exact Eq.refl true
    | with_reducible assumption
    | with_reducible apply Kept.ite
    | with_reducible apply Kept.refl
    | with_reducible apply Kept.step (k := State.setGate_kept ..)
    | with_reducible apply Kept.step (k := State.setReg_kept ..)

theorem execGateValWrite_kept (who) (tile) (v) (s) : OutKept [.regs, .wins, .guards, .shadows, .sealRun, .gates, .fns, .out] s (execGateValWrite who tile v s) := by
  unfold execGateValWrite
  repeat' first
    | exact Eq.refl true
    | with_reducible assumption
    | with_reducible apply Kept.ite
    | with_reducible apply Kept.refl
    | with_reducible apply OutKept.ite
    | with_reducible apply OutKept.next
    | with_reducible apply OutKept.fault
    | with_reducible apply Kept.step (k := gateValHook_kept ..)
    | with_reducible apply Kept.step (k := State.writeCore_kept ..)

theorem execPoolZeroingDone_kept (tile) (cru) (s) : OutKept [.regs, .ramps] s (execPoolZeroingDone tile cru s) := by
  unfold execPoolZeroingDone
  repeat' first
    | exact Eq.refl true
    | with_reducible assumption
    | with_reducible apply Kept.ite
    | with_reducible apply Kept.refl
    | with_reducible apply OutKept.ite
    | with_reducible apply OutKept.next
    | with_reducible apply OutKept.fault
    | with_reducible apply Kept.step (k := State.zeroed_kept ..)

theorem execPeatZeroingDone_kept (tile) (layer) (s) : OutKept [.regs, .ramps] s (execPeatZeroingDone tile layer s) := by
  unfold execPeatZeroingDone
  repeat' first
    | exact Eq.refl true
    | with_reducible assumption
    | with_reducible apply Kept.ite
    | with_reducible apply Kept.refl
    | with_reducible apply OutKept.ite
    | with_reducible apply OutKept.next
    | with_reducible apply OutKept.fault
    | with_reducible apply Kept.step (k := State.zeroed_kept ..)

theorem execPeatLayerWake_kept (tile) (layer) (s) : OutKept [.fresh, .regs, .pool, .peat, .poolBad, .peatBad, .tasks, .crus, .slots, .probes, .rx, .ramps, .khz, .deferred] s (execPeatLayerWake tile layer s) := by
  unfold execPeatLayerWake
  repeat' first
    | exact Eq.refl true
    | with_reducible assumption
    | with_reducible apply Kept.ite
    | with_reducible apply Kept.refl
    | with_reducible apply OutKept.ite
    | with_reducible apply OutKept.next
    | with_reducible apply OutKept.fault
    | with_reducible apply Kept.step (k := State.domForce_kept ..)

theorem execGbAgeFlush_kept (tile) (cru) (line) (s) : OutKept [.regs, .peat, .peatBad, .crus] s (execGbAgeFlush tile cru line s) := by
  unfold execGbAgeFlush
  repeat' first
    | exact Eq.refl true
    | with_reducible assumption
    | with_reducible apply Kept.ite
    | with_reducible apply Kept.refl
    | with_reducible apply OutKept.ite
    | with_reducible apply OutKept.next
    | with_reducible apply OutKept.fault
    | with_reducible apply Kept.step (k := State.gbFlushLine_kept ..)

theorem execPoolScrub_kept (tile) (cru) (word) (e) (s) : OutKept [.fresh, .regs, .poolBad, .scrubs, .fns, .reports, .out] s (execPoolScrub tile cru word e s) := by
  unfold execPoolScrub
  repeat' first
    | exact Eq.refl true
    | with_reducible assumption
    | with_reducible apply Kept.ite
    | with_reducible apply Kept.refl
    | (extract_lets +onlyGivenNames x; refine OutKept.via x ?_ ?_; (on_goal 1 => (unfold x; clear x)); on_goal 2 => (intro hx; clear_value x))
    | (extract_lets +onlyGivenNames x; clear_value x)
    | with_reducible apply OutKept.ite
    | with_reducible apply OutKept.next
    | with_reducible apply OutKept.fault
    | with_reducible apply Kept.step (k := State.countPool_kept ..)
    | with_reducible refine Kept.step ?_ (State.scrubStep_kept (by assumption)) ?_
    | with_reducible apply Kept.step (k := State.scrubStep_keptP ..)
    | with_reducible apply Kept.step (k := State.poolEcc_kept ..)
    | with_reducible apply Kept.step (k := State.report_kept ..)
    | with_reducible apply Kept.step (k := State.raise_kept ..)
    | with_reducible apply Kept.step (k := State.bump_kept ..)
    | with_reducible refine Kept.foldl _ (fun _ _ => ?_) _ _
    | with_reducible apply Kept.step (k := Kept.foldl (m := [.fresh, .regs, .poolBad, .scrubs, .fns, .reports, .out]) _ (fun _ _ => ?_) _ _)
    | split
    | with_reducible apply Kept.step (k := Kept.poolBad ..)

theorem execPeatScrub_kept (tile) (word) (e) (s) : OutKept [.fresh, .regs, .peatBad, .scrubs, .fns, .reports, .out] s (execPeatScrub tile word e s) := by
  unfold execPeatScrub
  repeat' first
    | exact Eq.refl true
    | with_reducible assumption
    | with_reducible apply Kept.ite
    | with_reducible apply Kept.refl
    | (extract_lets +onlyGivenNames x; refine OutKept.via x ?_ ?_; (on_goal 1 => (unfold x; clear x)); on_goal 2 => (intro hx; clear_value x))
    | (extract_lets +onlyGivenNames x; clear_value x)
    | with_reducible apply OutKept.ite
    | with_reducible apply OutKept.next
    | with_reducible apply OutKept.fault
    | with_reducible refine Kept.step ?_ (State.scrubStep_kept (by assumption)) ?_
    | with_reducible apply Kept.step (k := State.scrubStep_keptP ..)
    | with_reducible apply Kept.step (k := State.peatEcc_kept ..)
    | with_reducible apply Kept.step (k := State.report_kept ..)
    | with_reducible apply Kept.step (k := State.raise_kept ..)
    | with_reducible apply Kept.step (k := State.bump_kept ..)
    | with_reducible refine Kept.foldl _ (fun _ _ => ?_) _ _
    | with_reducible apply Kept.step (k := Kept.foldl (m := [.fresh, .regs, .peatBad, .scrubs, .fns, .reports, .out]) _ (fun _ _ => ?_) _ _)
    | split
    | with_reducible apply Kept.step (k := Kept.peatBad ..)

theorem execScrubStarve_kept (_tile) (_cru) (s) : OutKept [] s (execScrubStarve _tile _cru s) := by
  unfold execScrubStarve
  repeat' first
    | exact Eq.refl true
    | with_reducible assumption
    | with_reducible apply Kept.ite
    | with_reducible apply Kept.refl
    | with_reducible apply OutKept.ite
    | with_reducible apply OutKept.next

theorem execMaintPortStarve_kept (_tile) (s) : OutKept [] s (execMaintPortStarve _tile s) := by
  unfold execMaintPortStarve
  repeat' first
    | exact Eq.refl true
    | with_reducible assumption
    | with_reducible apply Kept.ite
    | with_reducible apply Kept.refl
    | with_reducible apply OutKept.ite
    | with_reducible apply OutKept.next

theorem State.initRegion_kept (s) (tile) (peat) (r) : Kept [.slots] s (State.initRegion s tile peat r) := by
  unfold State.initRegion
  repeat' first
    | exact Eq.refl true
    | with_reducible assumption
    | with_reducible apply Kept.ite
    | with_reducible apply Kept.refl
    | with_reducible apply Kept.step (k := State.setSlot_kept ..)
    | with_reducible refine Kept.foldl _ (fun _ _ => ?_) _ _

theorem State.resumeRegion_kept (s) (tile) (peat) (r) : Kept (.fresh :: .regs :: .pool :: .peat :: .mire :: .poolBad :: .peatBad :: .mireBad :: .tasks :: .crus :: .gates :: .slots :: .probes :: .rx :: .net :: .ports :: .banks :: .streams :: .nextTag :: .fns :: .reports :: .evWay :: .out :: []) s (State.resumeRegion s tile peat r) := by
  unfold State.resumeRegion
  repeat' first
    | exact Eq.refl true
    | with_reducible assumption
    | with_reducible apply Kept.ite
    | with_reducible apply Kept.refl
    | (extract_lets +onlyGivenNames x; refine Kept.via x ?_ ?_; (on_goal 1 => (unfold x; clear x)); on_goal 2 => (intro hx; clear_value x))
    | with_reducible apply Kept.step (k := State.resumeProbe_kept ..)
    | with_reducible apply Kept.step (k := State.resumeUnit_kept ..)
    | with_reducible refine Kept.foldl _ (fun _ _ => ?_) _ _
    | with_reducible apply Kept.step (k := Kept.foldl (m := (.fresh :: .regs :: .pool :: .peat :: .mire :: .poolBad :: .peatBad :: .mireBad :: .tasks :: .crus :: .gates :: .slots :: .probes :: .rx :: .net :: .ports :: .banks :: .streams :: .nextTag :: .fns :: .reports :: .evWay :: .out :: [])) _ (fun _ _ => ?_) _ _)
    | split

theorem State.forgetRegion_kept (s) (tile) (peat) (r) : Kept (.fresh :: .regs :: .pool :: .peat :: .mire :: .poolBad :: .peatBad :: .mireBad :: .tasks :: .crus :: .gates :: .slots :: .probes :: .rx :: .net :: .ports :: .banks :: .streams :: .nextTag :: .fns :: .reports :: .evWay :: .out :: []) s (State.forgetRegion s tile peat r) := by
  unfold State.forgetRegion
  repeat' first
    | exact Eq.refl true
    | with_reducible assumption
    | with_reducible apply Kept.ite
    | with_reducible apply Kept.refl
    | (extract_lets +onlyGivenNames x; refine Kept.via x ?_ ?_; (on_goal 1 => (unfold x; clear x)); on_goal 2 => (intro hx; clear_value x))
    | (extract_lets +onlyGivenNames x; clear_value x)
    | with_reducible apply Kept.step (k := State.resumeRegion_kept ..)
    | with_reducible apply Kept.step (k := State.setCru_kept ..)
    | with_reducible refine Kept.foldl _ (fun _ _ => ?_) _ _
    | with_reducible apply Kept.step (k := Kept.foldl (m := (.fresh :: .regs :: .pool :: .peat :: .mire :: .poolBad :: .peatBad :: .mireBad :: .tasks :: .crus :: .gates :: .slots :: .probes :: .rx :: .net :: .ports :: .banks :: .streams :: .nextTag :: .fns :: .reports :: .evWay :: .out :: [])) _ (fun _ _ => ?_) _ _)
    | split
    | with_reducible apply Kept.step (k := Kept.slots_rx ..)

theorem State.regionErr_kept (s) (old) (tile) (peat) (off) : Kept [.regs, .wins, .fns, .out] s (State.regionErr s old tile peat off) := by
  unfold State.regionErr
  repeat' first
    | exact Eq.refl true
    | with_reducible assumption
    | with_reducible apply Kept.ite
    | with_reducible apply Kept.refl
    | with_reducible apply Kept.step (k := State.keepReg_kept ..)
    | with_reducible apply Kept.step (k := State.raise_kept ..)

theorem cregBaseHook_kept (w) (old) (tile) (peat) (r) : Kept [.regs, .wins, .fns, .out] w.st (cregBaseHook w old tile peat r) := by
  unfold cregBaseHook
  repeat' first
    | exact Eq.refl true
    | with_reducible assumption
    | with_reducible apply Kept.ite
    | with_reducible apply Kept.refl
    | with_reducible apply Kept.step (k := State.regionErr_kept ..)

theorem cregCtlHook_kept (w) (old) (tile) (peat) (r) : Kept (.fresh :: .regs :: .wins :: .pool :: .peat :: .mire :: .poolBad :: .peatBad :: .mireBad :: .tasks :: .crus :: .gates :: .slots :: .probes :: .rx :: .net :: .ports :: .banks :: .streams :: .nextTag :: .fns :: .reports :: .evWay :: .out :: []) w.st (cregCtlHook w old tile peat r) := by
  unfold cregCtlHook
  repeat' first
    | exact Eq.refl true
    | with_reducible assumption
    | with_reducible apply Kept.ite
    | with_reducible apply Kept.refl
    | with_reducible apply Kept.step (k := State.regionErr_kept ..)
    | with_reducible apply Kept.step (k := State.forgetRegion_kept ..)
    | with_reducible apply Kept.step (k := State.initRegion_kept ..)

theorem execCregEnable_kept (who) (tile) (peat) (r) (v) (s) : OutKept (.fresh :: .regs :: .wins :: .guards :: .shadows :: .sealRun :: .pool :: .peat :: .mire :: .poolBad :: .peatBad :: .mireBad :: .tasks :: .crus :: .gates :: .slots :: .probes :: .rx :: .net :: .ports :: .banks :: .streams :: .nextTag :: .fns :: .reports :: .evWay :: .out :: []) s (execCregEnable who tile peat r v s) := by
  unfold execCregEnable
  repeat' first
    | exact Eq.refl true
    | with_reducible assumption
    | with_reducible apply Kept.ite
    | with_reducible apply Kept.refl
    | with_reducible apply OutKept.ite
    | with_reducible apply OutKept.next
    | with_reducible apply OutKept.fault
    | with_reducible apply Kept.step (k := cregCtlHook_kept ..)
    | with_reducible apply Kept.step (k := State.writeCore_kept ..)

theorem execCregDisable_kept (who) (tile) (peat) (r) (v) (s) : OutKept (.fresh :: .regs :: .wins :: .guards :: .shadows :: .sealRun :: .pool :: .peat :: .mire :: .poolBad :: .peatBad :: .mireBad :: .tasks :: .crus :: .gates :: .slots :: .probes :: .rx :: .net :: .ports :: .banks :: .streams :: .nextTag :: .fns :: .reports :: .evWay :: .out :: []) s (execCregDisable who tile peat r v s) := by
  unfold execCregDisable
  repeat' first
    | exact Eq.refl true
    | with_reducible assumption
    | with_reducible apply Kept.ite
    | with_reducible apply Kept.refl
    | with_reducible apply OutKept.ite
    | with_reducible apply OutKept.next
    | with_reducible apply OutKept.fault
    | with_reducible apply Kept.step (k := cregCtlHook_kept ..)
    | with_reducible apply Kept.step (k := State.writeCore_kept ..)

theorem cslotHook_kept (w) (tile) (peat) : Kept [.regs, .slots, .fns, .out] w.st (cslotHook w tile peat) := by
  unfold cslotHook
  repeat' first
    | exact Eq.refl true
    | with_reducible assumption
    | with_reducible apply Kept.ite
    | with_reducible apply Kept.refl
    | with_reducible apply Kept.step (k := State.setSlot_kept ..)
    | with_reducible apply Kept.step (k := State.raise_kept ..)
    | with_reducible apply Kept.step (k := State.setReg_kept ..)
    | with_reducible refine Kept.foldl _ (fun _ _ => ?_) _ _
    | with_reducible apply Kept.step (k := Kept.foldl (m := [.regs, .slots, .fns, .out]) _ (fun _ _ => ?_) _ _)
    | split

theorem execCslotStateWrite_kept (who) (tile) (peat) (v) (s) : OutKept [.regs, .wins, .guards, .shadows, .sealRun, .slots, .fns, .out] s (execCslotStateWrite who tile peat v s) := by
  unfold execCslotStateWrite
  repeat' first
    | exact Eq.refl true
    | with_reducible assumption
    | with_reducible apply Kept.ite
    | with_reducible apply Kept.refl
    | with_reducible apply OutKept.ite
    | with_reducible apply OutKept.next
    | with_reducible apply OutKept.fault
    | with_reducible apply Kept.step (k := cslotHook_kept ..)
    | with_reducible apply Kept.step (k := State.writeCore_kept ..)

theorem cregHook_kept (w) (old) (tile) (peat) : Kept (.fresh :: .regs :: .wins :: .pool :: .peat :: .mire :: .poolBad :: .peatBad :: .mireBad :: .tasks :: .crus :: .gates :: .slots :: .probes :: .rx :: .net :: .ports :: .banks :: .streams :: .nextTag :: .fns :: .reports :: .evWay :: .out :: []) w.st (cregHook w old tile peat) := by
  unfold cregHook
  repeat' first
    | exact Eq.refl true
    | with_reducible assumption
    | with_reducible apply Kept.ite
    | with_reducible apply Kept.refl
    | with_reducible apply Kept.step (k := cslotHook_kept ..)
    | with_reducible apply Kept.step (k := cregCtlHook_kept ..)
    | with_reducible apply Kept.step (k := cregBaseHook_kept ..)

/-! ### Heats -/

theorem State.resetCrucible_kept (s) (i) (k) : Kept [.fresh, .regs, .pool, .peat, .peatBad, .tasks, .crus, .slots, .probes, .rx] s (State.resetCrucible s i k) := by
  unfold State.resetCrucible
  repeat' first
    | exact Eq.refl true
    | with_reducible assumption
    | with_reducible apply Kept.ite
    | with_reducible apply Kept.refl
    | (extract_lets +onlyGivenNames x; refine Kept.via x ?_ ?_; (on_goal 1 => (unfold x; clear x)); on_goal 2 => (intro hx; clear_value x))
    | (extract_lets +onlyGivenNames x; clear_value x)
    | with_reducible apply Kept.step (k := State.discard_kept ..)
    | with_reducible apply Kept.step (k := State.gbFlushAll_kept ..)
    | with_reducible apply Kept.step (k := State.setCru_kept ..)
    | with_reducible apply Kept.step (k := State.setTask_kept ..)
    | with_reducible refine Kept.foldl _ (fun _ _ => ?_) _ _
    | with_reducible apply Kept.step (k := Kept.foldl (m := [.fresh, .regs, .pool, .peat, .peatBad, .tasks, .crus, .slots, .probes, .rx]) _ (fun _ _ => ?_) _ _)

theorem State.resetTile_kept (s) (i) : Kept [.fresh, .regs, .pool, .peat, .peatBad, .tasks, .crus, .gates, .slots, .probes, .rx, .wmoves, .rplaces, .handRx] s (State.resetTile s i) := by
  unfold State.resetTile
  repeat' first
    | exact Eq.refl true
    | with_reducible assumption
    | with_reducible apply Kept.ite
    | with_reducible apply Kept.refl
    | (extract_lets +onlyGivenNames x; refine Kept.via x ?_ ?_; (on_goal 1 => (unfold x; clear x)); on_goal 2 => (intro hx; clear_value x))
    | with_reducible apply Kept.step (k := State.resetCrucible_kept ..)
    | with_reducible refine Kept.foldl _ (fun _ _ => ?_) _ _
    | with_reducible apply Kept.step (k := Kept.foldl (m := [.fresh, .regs, .pool, .peat, .peatBad, .tasks, .crus, .gates, .slots, .probes, .rx, .wmoves, .rplaces, .handRx]) _ (fun _ _ => ?_) _ _)
    | split
    | with_reducible apply Kept.step (k := Kept.gates_probes_rx_wmoves_rplaces_handRx _ _ _ _ _ _ _ (Store.set_wf 0 _ _ _))
    | with_reducible apply Kept.step (k := Kept.gates_probes_rx_wmoves_rplaces_handRx _ _ _ _ _ _ _ (putBytes_wf _ _ _))
    | with_reducible apply Kept.step (k := Kept.gates_probes_rx_wmoves_rplaces_handRx _ _ _ _ _ _ _ (Store.keep_wf 0 _ _))
    | with_reducible apply Kept.step (k := Kept.gates_probes_rx_wmoves_rplaces_handRx _ _ _ _ _ _ _ (fun _ => rfl))
    | with_reducible apply Kept.step (k := Kept.gates_probes_rx_wmoves_rplaces_handRx _ _ _ _ _ _ _ (outside_wf 0 _ _ _))

theorem State.initRegions_kept (s) (i) : Kept [.slots] s (State.initRegions s i) := by
  unfold State.initRegions
  repeat' first
    | exact Eq.refl true
    | with_reducible assumption
    | with_reducible apply Kept.ite
    | with_reducible apply Kept.refl
    | with_reducible apply Kept.step (k := State.initRegion_kept ..)
    | with_reducible refine Kept.foldl _ (fun _ _ => ?_) _ _

theorem State.disableRegions_kept (s) (i) : Kept [.regs, .slots] s (State.disableRegions s i) := by
  unfold State.disableRegions
  repeat' first
    | exact Eq.refl true
    | with_reducible assumption
    | with_reducible apply Kept.ite
    | with_reducible apply Kept.refl
    | (extract_lets +onlyGivenNames x; refine Kept.via x ?_ ?_; (on_goal 1 => (unfold x; clear x)); on_goal 2 => (intro hx; clear_value x))
    | with_reducible apply Kept.step (k := State.setRb_kept ..)
    | with_reducible refine Kept.foldl _ (fun _ _ => ?_) _ _
    | with_reducible apply Kept.step (k := Kept.foldl (m := [.regs, .slots]) _ (fun _ _ => ?_) _ _)
    | split
    | with_reducible apply Kept.step (k := Kept.slots ..)

theorem State.setEpoch_kept (s) (p) (e) : Kept [.regs, .rimEpoch] s (State.setEpoch s p e) := by
  unfold State.setEpoch
  repeat' first
    | exact Eq.refl true
    | with_reducible assumption
    | with_reducible apply Kept.ite
    | with_reducible apply Kept.refl
    | (extract_lets +onlyGivenNames x; refine Kept.via x ?_ ?_; (on_goal 1 => (unfold x; clear x)); on_goal 2 => (intro hx; clear_value x))
    | with_reducible apply Kept.step (k := State.setRf_kept ..)
    | with_reducible refine Kept.foldl _ (fun _ _ => ?_) _ _
    | with_reducible apply Kept.step (k := Kept.foldl (m := [.regs, .rimEpoch]) _ (fun _ _ => ?_) _ _)
    | split
    | with_reducible apply Kept.step (k := Kept.rimEpoch ..)

theorem State.resetBeds_kept (s) (p) : Kept [.beds, .places] s (State.resetBeds s p) := by
  unfold State.resetBeds
  repeat' first
    | exact Eq.refl true
    | with_reducible assumption
    | with_reducible apply Kept.ite
    | with_reducible apply Kept.refl
    | (extract_lets +onlyGivenNames x; refine Kept.via x ?_ ?_; (on_goal 1 => (unfold x; clear x)); on_goal 2 => (intro hx; clear_value x))
    | with_reducible apply Kept.step (k := State.setBed_kept ..)
    | with_reducible refine Kept.foldl _ (fun _ _ => ?_) _ _
    | with_reducible apply Kept.step (k := Kept.foldl (m := [.beds, .places]) _ (fun _ _ => ?_) _ _)
    | split
    | with_reducible apply Kept.step (k := Kept.places ..)

/-! ### Queue -/

theorem State.qErr_kept (s) (p) (kind) (num) (cause) : Kept [.regs, .fns, .out] s (State.qErr s p kind num cause) := by
  unfold State.qErr
  repeat' first
    | exact Eq.refl true
    | with_reducible assumption
    | with_reducible apply Kept.ite
    | with_reducible apply Kept.refl
    | with_reducible apply Kept.step (k := State.raise_kept ..)
    | with_reducible apply Kept.step (k := State.setReg_kept ..)

theorem State.doorbell_kept (s) (p) (kind) (num) (v) : Kept [.regs, .wins, .fns, .out] s (State.doorbell s p kind num v) := by
  unfold State.doorbell
  repeat' first
    | exact Eq.refl true
    | with_reducible assumption
    | with_reducible apply Kept.ite
    | with_reducible apply Kept.refl
    | with_reducible apply Kept.step (k := State.qErr_kept ..)
    | with_reducible apply Kept.step (k := State.setQStat_kept ..)
    | with_reducible apply Kept.step (k := State.bump_kept ..)

theorem execSqDoorbell_kept (port) (q) (v) (s) : OutKept [.regs, .wins, .fns, .out] s (execSqDoorbell port q v s) := by
  unfold execSqDoorbell
  repeat' first
    | exact Eq.refl true
    | with_reducible assumption
    | with_reducible apply Kept.ite
    | with_reducible apply Kept.refl
    | with_reducible apply OutKept.ite
    | with_reducible apply OutKept.next
    | with_reducible apply OutKept.fault
    | with_reducible apply Kept.step (k := State.doorbell_kept ..)

theorem execCqDoorbell_kept (port) (q) (v) (s) : OutKept [.regs, .wins, .fns, .out] s (execCqDoorbell port q v s) := by
  unfold execCqDoorbell
  repeat' first
    | exact Eq.refl true
    | with_reducible assumption
    | with_reducible apply Kept.ite
    | with_reducible apply Kept.refl
    | with_reducible apply OutKept.ite
    | with_reducible apply OutKept.next
    | with_reducible apply OutKept.fault
    | with_reducible apply Kept.step (k := State.doorbell_kept ..)

theorem execTrDoorbell_kept (port) (r) (v) (s) : OutKept [.regs, .wins, .fns, .out] s (execTrDoorbell port r v s) := by
  unfold execTrDoorbell
  repeat' first
    | exact Eq.refl true
    | with_reducible assumption
    | with_reducible apply Kept.ite
    | with_reducible apply Kept.refl
    | with_reducible apply OutKept.ite
    | with_reducible apply OutKept.next
    | with_reducible apply OutKept.fault
    | with_reducible apply Kept.step (k := State.doorbell_kept ..)

theorem State.pushEntry_kept (s) (p) (kind) (num) (bs) : Kept [.wins, .host, .queues] s (State.pushEntry s p kind num bs) := by
  unfold State.pushEntry
  repeat' first
    | exact Eq.refl true
    | with_reducible assumption
    | with_reducible apply Kept.ite
    | with_reducible apply Kept.refl
    | (extract_lets +onlyGivenNames x; refine Kept.via x ?_ ?_; (on_goal 1 => (unfold x; clear x)); on_goal 2 => (intro hx; clear_value x))
    | (extract_lets +onlyGivenNames x; clear_value x)
    | with_reducible apply Kept.step (k := State.setQStat_kept ..)
    | with_reducible apply Kept.step (k := State.setQDyn_kept ..)
    | with_reducible apply Kept.step (k := State.writeHost_kept ..)

theorem State.complete_kept (s) (c) (d) : Kept [.regs, .wins, .host, .cmds, .queues] s (State.complete s c d) := by
  unfold State.complete
  repeat' first
    | exact Eq.refl true
    | with_reducible assumption
    | with_reducible apply Kept.ite
    | with_reducible apply Kept.refl
    | with_reducible apply Kept.step (k := State.pushEntry_kept ..)
    | with_reducible apply Kept.step (k := State.bump_kept ..)
    | with_reducible refine Kept.foldl _ (fun _ _ => ?_) _ _
    | with_reducible apply Kept.step (k := Kept.foldl (m := [.regs, .wins, .host, .cmds, .queues]) _ (fun _ _ => ?_) _ _)
    | split
    | with_reducible apply Kept.step (k := Kept.cmds ..)

theorem State.stageOf_kept (s) (c) (g) : Kept [.cmds] s (State.stageOf s c g) := by
  unfold State.stageOf
  repeat' first
    | exact Eq.refl true
    | with_reducible assumption
    | with_reducible apply Kept.ite
    | with_reducible apply Kept.refl
    | with_reducible refine Kept.foldl _ (fun _ _ => ?_) _ _
    | with_reducible apply Kept.step (k := Kept.foldl (m := [.cmds]) _ (fun _ _ => ?_) _ _)
    | split
    | with_reducible apply Kept.step (k := Kept.cmds ..)

theorem execSqFetch_kept (port) (q) (s) : OutKept [.regs, .wins, .host, .cmds, .queues] s (execSqFetch port q s) := by
  unfold execSqFetch
  repeat' first
    | exact Eq.refl true
    | with_reducible assumption
    | with_reducible apply Kept.ite
    | with_reducible apply Kept.refl
    | (extract_lets +onlyGivenNames x; refine OutKept.via x ?_ ?_; (on_goal 1 => (unfold x; clear x)); on_goal 2 => (intro hx; clear_value x))
    | (extract_lets +onlyGivenNames x; clear_value x)
    | with_reducible apply OutKept.ite
    | with_reducible apply OutKept.next
    | with_reducible apply OutKept.fault
    | with_reducible apply Kept.step (k := State.complete_kept ..)
    | with_reducible apply Kept.step (k := State.setQStat_kept ..)
    | with_reducible apply Kept.step (k := State.setQDyn_kept ..)
    | with_reducible apply Kept.step (k := State.bump_kept ..)
    | with_reducible refine Kept.foldl _ (fun _ _ => ?_) _ _
    | with_reducible apply Kept.step (k := Kept.foldl (m := [.regs, .wins, .host, .cmds, .queues]) _ (fun _ _ => ?_) _ _)
    | split
    | with_reducible apply Kept.step (k := Kept.cmds ..)

theorem execCmdNop_kept (port) (q) (s) : OutKept [.regs, .wins, .host, .cmds, .queues] s (execCmdNop port q s) := by
  unfold execCmdNop
  repeat' first
    | exact Eq.refl true
    | with_reducible assumption
    | with_reducible apply Kept.ite
    | with_reducible apply Kept.refl
    | (extract_lets +onlyGivenNames x; clear_value x)
    | with_reducible apply OutKept.ite
    | with_reducible apply OutKept.next
    | with_reducible apply OutKept.fault
    | with_reducible apply Kept.step (k := State.complete_kept ..)
    | with_reducible refine Kept.foldl _ (fun _ _ => ?_) _ _
    | with_reducible apply Kept.step (k := Kept.foldl (m := [.regs, .wins, .host, .cmds, .queues]) _ (fun _ _ => ?_) _ _)
    | split

theorem execCancel_kept (port) (q) (s) : OutKept [.regs, .wins, .host, .net, .ports, .streams, .cmds, .queues, .fns, .reports, .out] s (execCancel port q s) := by
  unfold execCancel
  repeat' first
    | exact Eq.refl true
    | with_reducible assumption
    | with_reducible apply Kept.ite
    | with_reducible apply Kept.refl
    | (extract_lets +onlyGivenNames x; refine Kept.fn x ?_; unfold x; clear x)
    | with_reducible apply OutKept.ite
    | with_reducible apply OutKept.next
    | with_reducible apply OutKept.fault
    | with_reducible apply Kept.step (k := State.complete_kept ..)
    | with_reducible refine Kept.step ?_ (State.cancelStream_kept (by assumption)) ?_
    | with_reducible apply Kept.step (k := State.cancelStream_keptP ..)
    | with_reducible refine Kept.foldl _ (fun _ _ => ?_) _ _
    | with_reducible apply Kept.step (k := Kept.foldl (m := [.regs, .wins, .host, .net, .ports, .streams, .cmds, .queues, .fns, .reports, .out]) _ (fun _ _ => ?_) _ _)
    | split

theorem execTokenRecordWrite_kept (port) (r) (s) : OutKept [.regs, .wins, .host, .queues] s (execTokenRecordWrite port r s) := by
  unfold execTokenRecordWrite
  repeat' first
    | exact Eq.refl true
    | with_reducible assumption
    | with_reducible apply Kept.ite
    | with_reducible apply Kept.refl
    | (extract_lets +onlyGivenNames x; clear_value x)
    | with_reducible apply OutKept.ite
    | with_reducible apply OutKept.next
    | with_reducible apply OutKept.fault
    | with_reducible apply Kept.step (k := State.pushEntry_kept ..)
    | with_reducible apply Kept.step (k := State.setQDyn_kept ..)
    | with_reducible apply Kept.step (k := State.bump_kept ..)
    | with_reducible refine Kept.foldl _ (fun _ _ => ?_) _ _
    | with_reducible apply Kept.step (k := Kept.foldl (m := [.regs, .wins, .host, .queues]) _ (fun _ _ => ?_) _ _)
    | split

theorem execIndexBlockWrite_kept (port) (kind) (num) (s) : OutKept [.host, .queues] s (execIndexBlockWrite port kind num s) := by
  unfold execIndexBlockWrite
  repeat' first
    | exact Eq.refl true
    | with_reducible assumption
    | with_reducible apply Kept.ite
    | with_reducible apply Kept.refl
    | (extract_lets +onlyGivenNames x; clear_value x)
    | with_reducible apply OutKept.ite
    | with_reducible apply OutKept.next
    | with_reducible apply OutKept.fault
    | with_reducible apply Kept.step (k := State.setQDyn_kept ..)
    | with_reducible apply Kept.step (k := State.writeHost_kept ..)

theorem execQueueInterrupt_kept (port) (kind) (num) (s) : OutKept [.regs, .queues, .fns, .out] s (execQueueInterrupt port kind num s) := by
  unfold execQueueInterrupt
  repeat' first
    | exact Eq.refl true
    | with_reducible assumption
    | with_reducible apply Kept.ite
    | with_reducible apply Kept.refl
    | (extract_lets +onlyGivenNames x; clear_value x)
    | with_reducible apply OutKept.ite
    | with_reducible apply OutKept.next
    | with_reducible apply OutKept.fault
    | with_reducible apply Kept.step (k := State.setQDyn_kept ..)
    | with_reducible apply Kept.step (k := State.msix_kept ..)

theorem State.loseFifo_kept (s) (p) (r) : Kept [.regs, .wins, .queues, .fns, .out] s (State.loseFifo s p r) := by
  unfold State.loseFifo
  repeat' first
    | exact Eq.refl true
    | with_reducible assumption
    | with_reducible apply Kept.ite
    | with_reducible apply Kept.refl
    | (extract_lets +onlyGivenNames x; clear_value x)
    | with_reducible apply Kept.step (k := State.ringLost_kept ..)
    | with_reducible apply Kept.step (k := State.setQDyn_kept ..)
    | with_reducible refine Kept.foldl _ (fun _ _ => ?_) _ _
    | with_reducible apply Kept.step (k := Kept.foldl (m := [.regs, .wins, .queues, .fns, .out]) _ (fun _ _ => ?_) _ _)

theorem State.qOff_kept (s) (p) (kind) (num) : Kept [.regs, .wins, .queues, .fns, .out] s (State.qOff s p kind num) := by
  unfold State.qOff
  repeat' first
    | exact Eq.refl true
    | with_reducible assumption
    | with_reducible apply Kept.ite
    | with_reducible apply Kept.refl
    | with_reducible apply Kept.step (k := State.loseFifo_kept ..)
    | with_reducible apply Kept.step (k := State.setQDyn_kept ..)
    | with_reducible apply Kept.step (k := State.setQueueReg_kept ..)

theorem queueHook_kept (w) (old) (p) : Kept [.regs, .wins, .queues, .fns, .out] w.st (queueHook w old p) := by
  unfold queueHook
  repeat' first
    | exact Eq.refl true
    | with_reducible assumption
    | with_reducible apply Kept.ite
    | with_reducible apply Kept.refl
    | with_reducible apply Kept.step (k := State.qOff_kept ..)
    | with_reducible apply Kept.step (k := State.qErr_kept ..)
    | with_reducible apply Kept.step (k := State.setQStat_kept ..)
    | with_reducible apply Kept.step (k := State.setQDyn_kept ..)
    | with_reducible apply Kept.step (k := State.keepReg_kept ..)
    | with_reducible apply Kept.step (k := State.setQueueReg_kept ..)
    | with_reducible refine Kept.foldl _ (fun _ _ => ?_) _ _
    | with_reducible apply Kept.step (k := Kept.foldl (m := [.regs, .wins, .queues, .fns, .out]) _ (fun _ _ => ?_) _ _)
    | split

theorem execQueueEnable_kept (who) (port) (v) (s) : OutKept [.regs, .wins, .guards, .shadows, .sealRun, .queues, .fns, .out] s (execQueueEnable who port v s) := by
  unfold execQueueEnable
  repeat' first
    | exact Eq.refl true
    | with_reducible assumption
    | with_reducible apply Kept.ite
    | with_reducible apply Kept.refl
    | with_reducible apply OutKept.ite
    | with_reducible apply OutKept.next
    | with_reducible apply OutKept.fault
    | with_reducible apply Kept.step (k := queueHook_kept ..)
    | with_reducible apply Kept.step (k := State.writeCore_kept ..)

theorem execQueueDisable_kept (who) (port) (v) (s) : OutKept [.regs, .wins, .guards, .shadows, .sealRun, .queues, .fns, .out] s (execQueueDisable who port v s) := by
  unfold execQueueDisable
  repeat' first
    | exact Eq.refl true
    | with_reducible assumption
    | with_reducible apply Kept.ite
    | with_reducible apply Kept.refl
    | with_reducible apply OutKept.ite
    | with_reducible apply OutKept.next
    | with_reducible apply OutKept.fault
    | with_reducible apply Kept.step (k := queueHook_kept ..)
    | with_reducible apply Kept.step (k := State.writeCore_kept ..)

theorem execDmaFailure_kept (port) (kind) (num) (s) : OutKept [.regs, .wins, .queues, .fns, .out] s (execDmaFailure port kind num s) := by
  unfold execDmaFailure
  repeat' first
    | exact Eq.refl true
    | with_reducible assumption
    | with_reducible apply Kept.ite
    | with_reducible apply Kept.refl
    | (extract_lets +onlyGivenNames x; refine OutKept.via x ?_ ?_; (on_goal 1 => (unfold x; clear x)); on_goal 2 => (intro hx; clear_value x))
    | (extract_lets +onlyGivenNames x; clear_value x)
    | with_reducible apply OutKept.ite
    | with_reducible apply OutKept.next
    | with_reducible apply OutKept.fault
    | with_reducible apply Kept.step (k := State.qOff_kept ..)
    | with_reducible apply Kept.step (k := State.qErr_kept ..)
    | with_reducible apply Kept.step (k := State.raise_kept ..)
    | with_reducible apply Kept.step (k := State.bump_kept ..)

end Sys2Proof.Machine
end

