-- ==== Sys2Proof/Laws/KeptHost.lean ====
section
/-! SUPPORT. What the commands and operations of the sluice, pours, host commands, routes and the mire may change. -/
namespace Sys2Proof.Machine
set_option linter.unusedVariables false

/-! ### Sluice -/

theorem State.setPour_kept (s) (d) (x) : Kept [.pours] s (State.setPour s d x) := by
  unfold State.setPour
  repeat' first
    | exact Eq.refl true
    | with_reducible assumption
    | with_reducible apply Kept.ite
    | with_reducible apply Kept.refl
    | with_reducible refine Kept.foldl _ (fun _ _ => ?_) _ _
    | with_reducible apply Kept.step (k := Kept.foldl (m := [.pours]) _ (fun _ _ => ?_) _ _)
    | split
    | with_reducible apply Kept.step (k := Kept.pours ..)

theorem State.setSess_kept (s) (d) (k) (x) : Kept [.pours] s (State.setSess s d k x) := by
  unfold State.setSess
  repeat' first
    | exact Eq.refl true
    | with_reducible assumption
    | with_reducible apply Kept.ite
    | with_reducible apply Kept.refl
    | (extract_lets +onlyGivenNames x; clear_value x)
    | with_reducible apply Kept.step (k := State.setPour_kept ..)

theorem State.setSessState_kept (s) (d) (k) (v) : Kept [.regs] s (State.setSessState s d k v) := by
  unfold State.setSessState
  repeat' first
    | exact Eq.refl true
    | with_reducible assumption
    | with_reducible apply Kept.ite
    | with_reducible apply Kept.refl
    | with_reducible apply Kept.step (k := State.setRf_kept ..)

theorem State.sendDatagram_kept (s) (d) (k) (data) : Kept [.regs, .out] s (State.sendDatagram s d k data) := by
  unfold State.sendDatagram
  repeat' first
    | exact Eq.refl true
    | with_reducible assumption
    | with_reducible apply Kept.ite
    | with_reducible apply Kept.refl
    | (extract_lets +onlyGivenNames x; clear_value x)
    | with_reducible apply Kept.step (k := State.send_kept ..)
    | with_reducible apply Kept.step (k := State.bump_kept ..)

theorem State.pourSend_kept (s) (d) (k) (type) (h) : Kept [.regs, .pours, .out] s (State.pourSend s d k type h) := by
  unfold State.pourSend
  repeat' first
    | exact Eq.refl true
    | with_reducible assumption
    | with_reducible apply Kept.ite
    | with_reducible apply Kept.refl
    | (extract_lets +onlyGivenNames x; clear_value x)
    | with_reducible apply Kept.step (k := State.sendDatagram_kept ..)
    | with_reducible apply Kept.step (k := State.setSess_kept ..)

theorem State.ladleNote_kept (s) (old) (d) : Kept [.regs, .fns, .out] s (State.ladleNote s old d) := by
  unfold State.ladleNote
  repeat' first
    | exact Eq.refl true
    | with_reducible assumption
    | with_reducible apply Kept.ite
    | with_reducible apply Kept.refl
    | with_reducible apply Kept.step (k := State.raise_kept ..)
    | with_reducible apply Kept.step (k := State.setFields_kept ..)

theorem State.dropRequests_kept (s) (d) (k) : Kept [.regs, .pours, .fns, .out] s (State.dropRequests s d k) := by
  unfold State.dropRequests
  repeat' first
    | exact Eq.refl true
    | with_reducible assumption
    | with_reducible apply Kept.ite
    | with_reducible apply Kept.refl
    | (extract_lets +onlyGivenNames x; clear_value x)
    | with_reducible apply Kept.step (k := State.ladleNote_kept ..)
    | with_reducible apply Kept.step (k := State.setPour_kept ..)
    | with_reducible apply Kept.step (k := State.bump_kept ..)

theorem State.stopSession_kept (s) (d) (k) : Kept [.regs, .pours, .fns, .out] s (State.stopSession s d k) := by
  unfold State.stopSession
  repeat' first
    | exact Eq.refl true
    | with_reducible assumption
    | with_reducible apply Kept.ite
    | with_reducible apply Kept.refl
    | (extract_lets +onlyGivenNames x; refine Kept.via x ?_ ?_; (on_goal 1 => (unfold x; clear x)); on_goal 2 => (intro hx; clear_value x))
    | (extract_lets +onlyGivenNames x; clear_value x)
    | with_reducible apply Kept.step (k := State.dropRequests_kept ..)
    | with_reducible apply Kept.step (k := State.pourSend_kept ..)
    | with_reducible apply Kept.step (k := State.setSessState_kept ..)
    | with_reducible apply Kept.step (k := State.setSess_kept ..)
    | with_reducible apply Kept.step (k := State.bump_kept ..)

theorem State.closeSession_kept (s) (d) (k) : Kept [.regs, .pours, .fns, .out] s (State.closeSession s d k) := by
  unfold State.closeSession
  repeat' first
    | exact Eq.refl true
    | with_reducible assumption
    | with_reducible apply Kept.ite
    | with_reducible apply Kept.refl
    | (extract_lets +onlyGivenNames x; refine Kept.via x ?_ ?_; (on_goal 1 => (unfold x; clear x)); on_goal 2 => (intro hx; clear_value x))
    | with_reducible apply Kept.step (k := State.stopSession_kept ..)
    | with_reducible apply Kept.step (k := State.dropRequests_kept ..)
    | with_reducible apply Kept.step (k := State.pourSend_kept ..)
    | with_reducible apply Kept.step (k := State.setSess_kept ..)
    | with_reducible apply Kept.step (k := State.setReg_kept ..)

theorem State.closeAll_kept (s) : Kept [.regs, .pours, .fns, .out] s (State.closeAll s) := by
  unfold State.closeAll
  repeat' first
    | exact Eq.refl true
    | with_reducible assumption
    | with_reducible apply Kept.ite
    | with_reducible apply Kept.refl
    | with_reducible apply Kept.step (k := State.closeSession_kept ..)
    | with_reducible refine Kept.foldl _ (fun _ _ => ?_) _ _

theorem State.stopAll_kept (s) : Kept [.regs, .pours, .fns, .out] s (State.stopAll s) := by
  unfold State.stopAll
  repeat' first
    | exact Eq.refl true
    | with_reducible assumption
    | with_reducible apply Kept.ite
    | with_reducible apply Kept.refl
    | with_reducible apply Kept.step (k := State.stopSession_kept ..)
    | with_reducible refine Kept.foldl _ (fun _ _ => ?_) _ _

/-! ### Casting -/

theorem State.imgTake_keptP (s) (c) (readOk) (n) : Kept [.regs, .banks, .fns, .evWay, .out] s (State.imgTake s c readOk n).2 := by
  unfold State.imgTake
  repeat' first
    | exact Eq.refl true
    | with_reducible assumption
    | with_reducible apply Kept.ite
    | with_reducible apply Kept.refl
    | with_reducible refine Kept.step ?_ (State.mireTake_kept (by assumption)) ?_
    | with_reducible apply Kept.step (k := State.mireTake_keptP ..)
    | with_reducible refine Kept.foldl _ (fun _ _ => ?_) _ _
    | with_reducible apply Kept.step (k := Kept.foldl (m := [.regs, .banks, .fns, .evWay, .out]) _ (fun _ _ => ?_) _ _)
    | split
theorem State.imgTake_kept {s c readOk n zz tt} (h : State.imgTake s c readOk n = (zz, tt)) : Kept [.regs, .banks, .fns, .evWay, .out] s tt := by
  have := State.imgTake_keptP s c readOk n
  rw [h] at this
  exact this

theorem State.headTake_keptP (s) (c) (readOk) : Kept [.regs, .banks, .fns, .evWay, .out] s (State.headTake s c readOk).2 := by
  unfold State.headTake
  repeat' first
    | exact Eq.refl true
    | with_reducible assumption
    | with_reducible apply Kept.ite
    | with_reducible apply Kept.refl
    | with_reducible refine Kept.step ?_ (State.imgTake_kept (by assumption)) ?_
    | with_reducible apply Kept.step (k := State.imgTake_keptP ..)
theorem State.headTake_kept {s c readOk zz tt} (h : State.headTake s c readOk = (zz, tt)) : Kept [.regs, .banks, .fns, .evWay, .out] s tt := by
  have := State.headTake_keptP s c readOk
  rw [h] at this
  exact this

theorem State.allTake_keptP (s) (c) (readOk) : Kept [.regs, .banks, .fns, .evWay, .out] s (State.allTake s c readOk).2 := by
  unfold State.allTake
  repeat' first
    | exact Eq.refl true
    | with_reducible assumption
    | with_reducible apply Kept.ite
    | with_reducible apply Kept.refl
    | with_reducible refine Kept.step ?_ (State.imgTake_kept (by assumption)) ?_
    | with_reducible apply Kept.step (k := State.imgTake_keptP ..)
theorem State.allTake_kept {s c readOk zz tt} (h : State.allTake s c readOk = (zz, tt)) : Kept [.regs, .banks, .fns, .evWay, .out] s tt := by
  have := State.allTake_keptP s c readOk
  rw [h] at this
  exact this

theorem State.recheckRate_kept (s) : Kept [.regs, .fns, .out] s (State.recheckRate s) := by
  unfold State.recheckRate
  repeat' first
    | exact Eq.refl true
    | with_reducible assumption
    | with_reducible apply Kept.ite
    | with_reducible apply Kept.refl
    | with_reducible apply Kept.step (k := State.raise_kept ..)
    | with_reducible apply Kept.step (k := State.setRf_kept ..)
    | with_reducible refine Kept.foldl _ (fun _ _ => ?_) _ _

theorem execEthLinkChange_kept (eth) (up) (rate) (s) : OutKept [.regs, .fns, .out] s (execEthLinkChange eth up rate s) := by
  unfold execEthLinkChange
  repeat' first
    | exact Eq.refl true
    | with_reducible assumption
    | with_reducible apply Kept.ite
    | with_reducible apply Kept.refl
    | (extract_lets +onlyGivenNames x; refine OutKept.via x ?_ ?_; (on_goal 1 => (unfold x; clear x)); on_goal 2 => (intro hx; clear_value x))
    | (extract_lets +onlyGivenNames x; clear_value x)
    | with_reducible apply OutKept.ite
    | with_reducible apply OutKept.next
    | with_reducible apply OutKept.fault
    | with_reducible apply Kept.step (k := State.recheckRate_kept ..)
    | with_reducible apply Kept.step (k := State.raise_kept ..)
    | with_reducible apply Kept.step (k := State.setFields_kept ..)

theorem State.loadBusy_kept (s) : Kept [.regs, .fns, .out] s (State.loadBusy s) := by
  unfold State.loadBusy
  repeat' first
    | exact Eq.refl true
    | with_reducible assumption
    | with_reducible apply Kept.ite
    | with_reducible apply Kept.refl
    | with_reducible apply Kept.step (k := State.raise_kept ..)

theorem State.startLoad_kept (s) (who) : Kept [.regs, .castRun] s (State.startLoad s who) := by
  unfold State.startLoad
  repeat' first
    | exact Eq.refl true
    | with_reducible assumption
    | with_reducible apply Kept.ite
    | with_reducible apply Kept.refl
    | (extract_lets +onlyGivenNames x; refine Kept.via x ?_ ?_; (on_goal 1 => (unfold x; clear x)); on_goal 2 => (intro hx; clear_value x))
    | (extract_lets +onlyGivenNames x; clear_value x)
    | with_reducible apply Kept.step (k := State.setFields_kept ..)
    | with_reducible refine Kept.foldl _ (fun _ _ => ?_) _ _
    | with_reducible apply Kept.step (k := Kept.foldl (m := [.regs, .castRun]) _ (fun _ _ => ?_) _ _)
    | split
    | with_reducible apply Kept.step (k := Kept.castRun ..)

theorem castHook_kept (w) (old) (who) : Kept [.regs, .wins, .castRun, .fns, .out] w.st (castHook w old who) := by
  unfold castHook
  repeat' first
    | exact Eq.refl true
    | with_reducible assumption
    | with_reducible apply Kept.ite
    | with_reducible apply Kept.refl
    | with_reducible apply Kept.step (k := State.startLoad_kept ..)
    | with_reducible apply Kept.step (k := State.loadBusy_kept ..)
    | with_reducible apply Kept.step (k := State.keepReg_kept ..)
    | with_reducible apply Kept.step (k := State.zeroBits_kept ..)

theorem execCastingLoad_kept (who) (v) (s) : OutKept [.regs, .wins, .guards, .shadows, .sealRun, .castRun, .fns, .out] s (execCastingLoad who v s) := by
  unfold execCastingLoad
  repeat' first
    | exact Eq.refl true
    | with_reducible assumption
    | with_reducible apply Kept.ite
    | with_reducible apply Kept.refl
    | with_reducible apply OutKept.ite
    | with_reducible apply OutKept.next
    | with_reducible apply OutKept.fault
    | with_reducible apply Kept.step (k := castHook_kept ..)
    | with_reducible apply Kept.step (k := State.writeCore_kept ..)

theorem State.endLoadCmd_kept (s) (code) : Kept [.regs, .wins, .host, .cmds, .queues] s (State.endLoadCmd s code) := by
  unfold State.endLoadCmd
  repeat' first
    | exact Eq.refl true
    | with_reducible assumption
    | with_reducible apply Kept.ite
    | with_reducible apply Kept.refl
    | with_reducible apply Kept.step (k := State.complete_kept ..)
    | with_reducible refine Kept.foldl _ (fun _ _ => ?_) _ _
    | with_reducible apply Kept.step (k := Kept.foldl (m := [.regs, .wins, .host, .cmds, .queues]) _ (fun _ _ => ?_) _ _)
    | split

theorem execLoad_kept (port) (q) (s) : OutKept [.regs, .wins, .host, .castRun, .cmds, .queues, .fns, .out] s (execLoad port q s) := by
  unfold execLoad
  repeat' first
    | exact Eq.refl true
    | with_reducible assumption
    | with_reducible apply Kept.ite
    | with_reducible apply Kept.refl
    | (extract_lets +onlyGivenNames x; refine OutKept.via x ?_ ?_; (on_goal 1 => (unfold x; clear x)); on_goal 2 => (intro hx; clear_value x))
    | (extract_lets +onlyGivenNames x; clear_value x)
    | with_reducible apply OutKept.ite
    | with_reducible apply OutKept.next
    | with_reducible apply OutKept.fault
    | with_reducible apply Kept.step (k := State.startLoad_kept ..)
    | with_reducible apply Kept.step (k := State.loadBusy_kept ..)
    | with_reducible apply Kept.step (k := State.stageOf_kept ..)
    | with_reducible apply Kept.step (k := State.complete_kept ..)
    | with_reducible apply Kept.step (k := State.setRf_kept ..)
    | with_reducible apply Kept.step (k := State.setReg_kept ..)
    | with_reducible refine Kept.foldl _ (fun _ _ => ?_) _ _
    | with_reducible apply Kept.step (k := Kept.foldl (m := [.regs, .wins, .host, .castRun, .cmds, .queues, .fns, .out]) _ (fun _ _ => ?_) _ _)
    | split

theorem State.failedStat_kept (s) (st) (cause) (sect) : Kept [.regs] s (State.failedStat s st cause sect) := by
  unfold State.failedStat
  repeat' first
    | exact Eq.refl true
    | with_reducible assumption
    | with_reducible apply Kept.ite
    | with_reducible apply Kept.refl
    | with_reducible apply Kept.step (k := State.setFields_kept ..)

theorem State.failEarly_kept (s) (c) (cause) (sect) : Kept [.regs, .wins, .host, .castRun, .cmds, .queues, .fns, .out] s (State.failEarly s c cause sect) := by
  unfold State.failEarly
  repeat' first
    | exact Eq.refl true
    | with_reducible assumption
    | with_reducible apply Kept.ite
    | with_reducible apply Kept.refl
    | (extract_lets +onlyGivenNames x; refine Kept.via x ?_ ?_; (on_goal 1 => (unfold x; clear x)); on_goal 2 => (intro hx; clear_value x))
    | with_reducible apply Kept.step (k := State.failedStat_kept ..)
    | with_reducible apply Kept.step (k := State.endLoadCmd_kept ..)
    | with_reducible apply Kept.step (k := State.raise_kept ..)
    | with_reducible refine Kept.foldl _ (fun _ _ => ?_) _ _
    | with_reducible apply Kept.step (k := Kept.foldl (m := [.regs, .wins, .host, .castRun, .cmds, .queues, .fns, .out]) _ (fun _ _ => ?_) _ _)
    | split
    | with_reducible apply Kept.step (k := Kept.castRun ..)

theorem State.failLate_kept (s) (cause) (sect) : Kept [.regs, .wins, .host, .castRun, .casting, .pours, .cmds, .queues, .fns, .evWay, .out] s (State.failLate s cause sect) := by
  unfold State.failLate
  repeat' first
    | exact Eq.refl true
    | with_reducible assumption
    | with_reducible apply Kept.ite
    | with_reducible apply Kept.refl
    | (extract_lets +onlyGivenNames x; refine Kept.via x ?_ ?_; (on_goal 1 => (unfold x; clear x)); on_goal 2 => (intro hx; clear_value x))
    | with_reducible apply Kept.step (k := State.failedStat_kept ..)
    | with_reducible apply Kept.step (k := State.endLoadCmd_kept ..)
    | with_reducible apply Kept.step (k := State.stopAll_kept ..)
    | with_reducible apply Kept.step (k := State.log_kept ..)
    | with_reducible apply Kept.step (k := State.raise_kept ..)
    | with_reducible apply Kept.step (k := State.setBedReg_kept ..)
    | with_reducible refine Kept.foldl _ (fun _ _ => ?_) _ _
    | with_reducible apply Kept.step (k := Kept.foldl (m := [.regs, .wins, .host, .castRun, .casting, .pours, .cmds, .queues, .fns, .evWay, .out]) _ (fun _ _ => ?_) _ _)
    | split
    | with_reducible apply Kept.step (k := Kept.castRun_casting_pours ..)

theorem State.refuseBinds_kept (s) : Kept [.regs, .wins, .host, .cmds, .queues] s (State.refuseBinds s) := by
  unfold State.refuseBinds
  repeat' first
    | exact Eq.refl true
    | with_reducible assumption
    | with_reducible apply Kept.ite
    | with_reducible apply Kept.refl
    | with_reducible apply Kept.step (k := State.complete_kept ..)
    | with_reducible refine Kept.foldl _ (fun _ _ => ?_) _ _

/-! ### Image -/

theorem State.readExtents_keptP (s) (pol) (slot) : Kept [.regs, .banks, .fns, .evWay, .out] s (State.readExtents s pol slot).2 := by
  unfold State.readExtents
  repeat' first
    | exact Eq.refl true
    | with_reducible assumption
    | with_reducible apply Kept.ite
    | with_reducible apply Kept.refl
    | with_reducible refine Kept.step ?_ (State.mireTake_kept (by assumption)) ?_
    | with_reducible apply Kept.step (k := State.mireTake_keptP ..)
    | with_reducible refine Kept.foldl _ (fun _ _ => ?_) _ _
    | with_reducible apply Kept.step (k := Kept.foldl (m := [.regs, .banks, .fns, .evWay, .out]) _ (fun _ _ => ?_) _ _)
    | split
theorem State.readExtents_kept {s pol slot zz tt} (h : State.readExtents s pol slot = (zz, tt)) : Kept [.regs, .banks, .fns, .evWay, .out] s tt := by
  have := State.readExtents_keptP s pol slot
  rw [h] at this
  exact this

theorem State.writeMirrors_kept (s) (tile) (off) (bs) : Kept [.regs, .mire, .mireBad, .banks, .fns, .evWay, .out] s (State.writeMirrors s tile off bs) := by
  unfold State.writeMirrors
  repeat' first
    | exact Eq.refl true
    | with_reducible assumption
    | with_reducible apply Kept.ite
    | with_reducible apply Kept.refl
    | with_reducible refine Kept.step ?_ (State.readExtents_kept (by assumption)) ?_
    | with_reducible apply Kept.step (k := State.readExtents_keptP ..)
    | with_reducible refine Kept.step ?_ (State.mireServeWrite_kept (by assumption)) ?_
    | with_reducible apply Kept.step (k := State.mireServeWrite_keptP ..)
    | with_reducible refine Kept.foldl _ (fun _ _ => ?_) _ _
    | with_reducible apply Kept.step (k := Kept.foldl (m := [.regs, .mire, .mireBad, .banks, .fns, .evWay, .out]) _ (fun _ _ => ?_) _ _)
    | split

theorem State.writeMirrored_kept (s) (tile) (off) (bs) : Kept [.regs, .peat, .mire, .peatBad, .mireBad, .banks, .fns, .evWay, .out] s (State.writeMirrored s tile off bs) := by
  unfold State.writeMirrored
  repeat' first
    | exact Eq.refl true
    | with_reducible assumption
    | with_reducible apply Kept.ite
    | with_reducible apply Kept.refl
    | (extract_lets +onlyGivenNames x; clear_value x)
    | with_reducible apply Kept.step (k := State.writeMirrors_kept ..)
    | with_reducible apply Kept.step (k := State.writePeat_kept ..)

theorem State.setPageEntry_kept (s) (tile) (entry) (st) (peat) : Kept [.regs, .peat, .mire, .peatBad, .mireBad, .banks, .fns, .evWay, .out] s (State.setPageEntry s tile entry st peat) := by
  unfold State.setPageEntry
  repeat' first
    | exact Eq.refl true
    | with_reducible assumption
    | with_reducible apply Kept.ite
    | with_reducible apply Kept.refl
    | with_reducible apply Kept.step (k := State.writeMirrored_kept ..)

theorem State.fillPeat_kept (s) (tile) (off) (bs) : Kept [.regs, .peat, .peatBad] s (State.fillPeat s tile off bs) := by
  unfold State.fillPeat
  repeat' first
    | exact Eq.refl true
    | with_reducible assumption
    | with_reducible apply Kept.ite
    | with_reducible apply Kept.refl
    | with_reducible apply Kept.step (k := State.writePeat_kept ..)

/-! ### Pour -/

theorem State.setPull_kept (s) (d) (p) : Kept [.pours] s (State.setPull s d p) := by
  unfold State.setPull
  repeat' first
    | exact Eq.refl true
    | with_reducible assumption
    | with_reducible apply Kept.ite
    | with_reducible apply Kept.refl
    | (extract_lets +onlyGivenNames x; clear_value x)
    | with_reducible apply Kept.step (k := State.setPour_kept ..)

theorem State.dropPull_kept (s) (d) (e) : Kept [.pours] s (State.dropPull s d e) := by
  unfold State.dropPull
  repeat' first
    | exact Eq.refl true
    | with_reducible assumption
    | with_reducible apply Kept.ite
    | with_reducible apply Kept.refl
    | (extract_lets +onlyGivenNames x; clear_value x)
    | with_reducible apply Kept.step (k := State.setPour_kept ..)

theorem State.pourLast_kept (s) (d) (cause) (k) (e) : Kept [.regs] s (State.pourLast s d cause k e) := by
  unfold State.pourLast
  repeat' first
    | exact Eq.refl true
    | with_reducible assumption
    | with_reducible apply Kept.ite
    | with_reducible apply Kept.refl
    | with_reducible apply Kept.step (k := State.setReg_kept ..)

theorem State.pullFail_kept (s) (d) (e) : Kept [.regs, .wins, .host, .castRun, .casting, .pours, .cmds, .queues, .fns, .reports, .evWay, .out] s (State.pullFail s d e) := by
  unfold State.pullFail
  repeat' first
    | exact Eq.refl true
    | with_reducible assumption
    | with_reducible apply Kept.ite
    | with_reducible apply Kept.refl
    | (extract_lets +onlyGivenNames x; refine Kept.via x ?_ ?_; (on_goal 1 => (unfold x; clear x)); on_goal 2 => (intro hx; clear_value x))
    | with_reducible apply Kept.step (k := State.pourLast_kept ..)
    | with_reducible apply Kept.step (k := State.dropPull_kept ..)
    | with_reducible apply Kept.step (k := State.failLate_kept ..)
    | with_reducible apply Kept.step (k := State.report_kept ..)
    | with_reducible apply Kept.step (k := State.raise_kept ..)
    | with_reducible refine Kept.foldl _ (fun _ _ => ?_) _ _
    | with_reducible apply Kept.step (k := Kept.foldl (m := [.regs, .wins, .host, .castRun, .casting, .pours, .cmds, .queues, .fns, .reports, .evWay, .out]) _ (fun _ _ => ?_) _ _)
    | split

theorem State.askFor_kept (s) (d) (k) (x) (p) (runs) : Kept [.regs, .pours, .out] s (State.askFor s d k x p runs) := by
  unfold State.askFor
  repeat' first
    | exact Eq.refl true
    | with_reducible assumption
    | with_reducible apply Kept.ite
    | with_reducible apply Kept.refl
    | (extract_lets +onlyGivenNames x; refine Kept.via x ?_ ?_; (on_goal 1 => (unfold x; clear x)); on_goal 2 => (intro hx; clear_value x))
    | (extract_lets +onlyGivenNames x; clear_value x)
    | with_reducible apply Kept.step (k := State.setPull_kept ..)
    | with_reducible apply Kept.step (k := State.pourSend_kept ..)
    | with_reducible apply Kept.step (k := State.setPour_kept ..)
    | with_reducible apply Kept.step (k := State.bump_kept ..)
    | with_reducible refine Kept.foldl _ (fun _ _ => ?_) _ _
    | with_reducible apply Kept.step (k := Kept.foldl (m := [.regs, .pours, .out]) _ (fun _ _ => ?_) _ _)
    | split

theorem State.askRuns_kept (s) (d) (k) (x) (p) : Kept [.regs, .pours, .out] s (State.askRuns s d k x p) := by
  unfold State.askRuns
  repeat' first
    | exact Eq.refl true
    | with_reducible assumption
    | with_reducible apply Kept.ite
    | with_reducible apply Kept.refl
    | with_reducible apply Kept.step (k := State.askFor_kept ..)

theorem State.askAgain_kept (s) (d) (p) : Kept [.regs, .pours, .out] s (State.askAgain s d p) := by
  unfold State.askAgain
  repeat' first
    | exact Eq.refl true
    | with_reducible assumption
    | with_reducible apply Kept.ite
    | with_reducible apply Kept.refl
    | (extract_lets +onlyGivenNames x; refine Kept.via x ?_ ?_; (on_goal 1 => (unfold x; clear x)); on_goal 2 => (intro hx; clear_value x))
    | with_reducible apply Kept.step (k := State.askRuns_kept ..)
    | with_reducible apply Kept.step (k := State.setPull_kept ..)
    | with_reducible refine Kept.foldl _ (fun _ _ => ?_) _ _
    | with_reducible apply Kept.step (k := Kept.foldl (m := [.regs, .pours, .out]) _ (fun _ _ => ?_) _ _)
    | split

theorem State.nextServer_kept (s) (d) (p) : Kept [.regs, .wins, .host, .castRun, .casting, .pours, .cmds, .queues, .fns, .reports, .evWay, .out] s (State.nextServer s d p) := by
  unfold State.nextServer
  repeat' first
    | exact Eq.refl true
    | with_reducible assumption
    | with_reducible apply Kept.ite
    | with_reducible apply Kept.refl
    | (extract_lets +onlyGivenNames x; clear_value x)
    | with_reducible apply Kept.step (k := State.askAgain_kept ..)
    | with_reducible apply Kept.step (k := State.pullFail_kept ..)
    | with_reducible refine Kept.foldl _ (fun _ _ => ?_) _ _
    | with_reducible apply Kept.step (k := Kept.foldl (m := [.regs, .wins, .host, .castRun, .casting, .pours, .cmds, .queues, .fns, .reports, .evWay, .out]) _ (fun _ _ => ?_) _ _)
    | split

theorem State.retryPull_kept (s) (d) (p) (wipe) : Kept [.regs, .wins, .host, .castRun, .casting, .pours, .cmds, .queues, .fns, .reports, .evWay, .out] s (State.retryPull s d p wipe) := by
  unfold State.retryPull
  repeat' first
    | exact Eq.refl true
    | with_reducible assumption
    | with_reducible apply Kept.ite
    | with_reducible apply Kept.refl
    | with_reducible apply Kept.step (k := State.nextServer_kept ..)
    | with_reducible apply Kept.step (k := State.askAgain_kept ..)
    | with_reducible apply Kept.step (k := State.bump_kept ..)

theorem execExtentReq_kept (die) (extent) (s) : OutKept [.regs, .wins, .host, .castRun, .casting, .pours, .cmds, .queues, .fns, .reports, .evWay, .out] s (execExtentReq die extent s) := by
  unfold execExtentReq
  repeat' first
    | exact Eq.refl true
    | with_reducible assumption
    | with_reducible apply Kept.ite
    | with_reducible apply Kept.refl
    | (extract_lets +onlyGivenNames x; clear_value x)
    | with_reducible apply OutKept.ite
    | with_reducible apply OutKept.next
    | with_reducible apply OutKept.fault
    | with_reducible apply Kept.step (k := State.nextServer_kept ..)
    | with_reducible apply Kept.step (k := State.askRuns_kept ..)
    | with_reducible apply Kept.step (k := State.pullFail_kept ..)
    | with_reducible refine Kept.foldl _ (fun _ _ => ?_) _ _
    | with_reducible apply Kept.step (k := Kept.foldl (m := [.regs, .wins, .host, .castRun, .casting, .pours, .cmds, .queues, .fns, .reports, .evWay, .out]) _ (fun _ _ => ?_) _ _)
    | split

theorem State.failSession_kept (s) (d) (k) : Kept [.regs, .wins, .host, .castRun, .casting, .pours, .cmds, .queues, .fns, .reports, .evWay, .out] s (State.failSession s d k) := by
  unfold State.failSession
  repeat' first
    | exact Eq.refl true
    | with_reducible assumption
    | with_reducible apply Kept.ite
    | with_reducible apply Kept.refl
    | (extract_lets +onlyGivenNames x; refine Kept.via x ?_ ?_; (on_goal 1 => (unfold x; clear x)); on_goal 2 => (intro hx; clear_value x))
    | (extract_lets +onlyGivenNames x; clear_value x)
    | with_reducible apply Kept.step (k := State.nextServer_kept ..)
    | with_reducible apply Kept.step (k := State.pourLast_kept ..)
    | with_reducible apply Kept.step (k := State.dropRequests_kept ..)
    | with_reducible apply Kept.step (k := State.setSessState_kept ..)
    | with_reducible apply Kept.step (k := State.setSess_kept ..)
    | with_reducible apply Kept.step (k := State.setPour_kept ..)
    | with_reducible apply Kept.step (k := State.raise_kept ..)
    | with_reducible refine Kept.foldl _ (fun _ _ => ?_) _ _
    | with_reducible apply Kept.step (k := Kept.foldl (m := [.regs, .wins, .host, .castRun, .casting, .pours, .cmds, .queues, .fns, .reports, .evWay, .out]) _ (fun _ _ => ?_) _ _)
    | split

theorem State.authFail_kept (s) (d) (k) : Kept [.regs, .wins, .host, .castRun, .casting, .pours, .cmds, .queues, .fns, .reports, .evWay, .out] s (State.authFail s d k) := by
  unfold State.authFail
  repeat' first
    | exact Eq.refl true
    | with_reducible assumption
    | with_reducible apply Kept.ite
    | with_reducible apply Kept.refl
    | with_reducible apply Kept.step (k := State.failSession_kept ..)
    | with_reducible apply Kept.step (k := State.pourLast_kept ..)
    | with_reducible apply Kept.step (k := State.setSess_kept ..)
    | with_reducible apply Kept.step (k := State.raise_kept ..)
    | with_reducible apply Kept.step (k := State.bump_kept ..)

theorem State.frameIn_keptP (s) (d) (f) : Kept [.regs] s (State.frameIn s d f).2 := by
  unfold State.frameIn
  repeat' first
    | exact Eq.refl true
    | with_reducible assumption
    | with_reducible apply Kept.ite
    | with_reducible apply Kept.refl
    | (extract_lets +onlyGivenNames x; clear_value x)
    | with_reducible apply Kept.step (k := State.bump_kept ..)
    | with_reducible refine Kept.foldl _ (fun _ _ => ?_) _ _
    | with_reducible apply Kept.step (k := Kept.foldl (m := [.regs]) _ (fun _ _ => ?_) _ _)
    | split
theorem State.frameIn_kept {s d f zz tt} (h : State.frameIn s d f = (zz, tt)) : Kept [.regs] s tt := by
  have := State.frameIn_keptP s d f
  rw [h] at this
  exact this

theorem State.received_kept {m s d ty f go} (hm : Field.within [.regs, .wins, .host, .castRun, .casting, .pours, .cmds, .queues, .fns, .reports, .evWay, .out] m = true) (hf : ∀ k x t, Kept m t (go k x t)) :
    Kept m s (State.received s d ty f go) := by
  have h0 := (State.frameIn_keptP s d f).mono (Field.within_trans _ _ _ rfl hm)
  unfold State.received
  split
  · rename_i u hu
    rw [hu] at h0
    exact h0
  · rename_i u hu
    rw [hu] at h0
    split
    · exact h0
    · split
      · exact Kept.refl _ _
      · split
        · exact h0.trans ((State.bump_kept ..).mono (Field.within_trans _ _ _ rfl hm))
        · split
          · exact h0
          · split
            · exact h0.trans ((State.authFail_kept ..).mono (Field.within_trans _ _ _ rfl hm))
            · have h1 := fun k x => h0.trans ((State.setSess_kept u d k x).mono (Field.within_trans _ _ _ rfl hm))
              dsimp only
              split
              · exact h1 _ _
              · exact (h1 _ _).trans (hf _ _ _)

theorem State.noteSeq_kept (s) (d) (k) (q) : Kept [.regs, .pours] s (State.noteSeq s d k q) := by
  unfold State.noteSeq
  repeat' first
    | exact Eq.refl true
    | with_reducible assumption
    | with_reducible apply Kept.ite
    | with_reducible apply Kept.refl
    | (extract_lets +onlyGivenNames x; clear_value x)
    | with_reducible apply Kept.step (k := State.setSess_kept ..)
    | with_reducible apply Kept.step (k := State.setReg_kept ..)

theorem State.judgeExtent_kept (s) (d) (x) (p) : Kept [.regs, .wins, .host, .castRun, .casting, .pours, .cmds, .queues, .fns, .reports, .evWay, .out] s (State.judgeExtent s d x p) := by
  unfold State.judgeExtent
  repeat' first
    | exact Eq.refl true
    | with_reducible assumption
    | with_reducible apply Kept.ite
    | with_reducible apply Kept.refl
    | (extract_lets +onlyGivenNames x; clear_value x)
    | with_reducible apply Kept.step (k := State.retryPull_kept ..)
    | with_reducible apply Kept.step (k := State.pourLast_kept ..)
    | with_reducible apply Kept.step (k := State.setPull_kept ..)
    | with_reducible apply Kept.step (k := State.raise_kept ..)
    | with_reducible apply Kept.step (k := State.bump_kept ..)

theorem State.lateFrame_kept (s) (d) (n) : Kept [.regs] s (State.lateFrame s d n) := by
  unfold State.lateFrame
  repeat' first
    | exact Eq.refl true
    | with_reducible assumption
    | with_reducible apply Kept.ite
    | with_reducible apply Kept.refl
    | with_reducible apply Kept.step (k := State.bump_kept ..)

theorem State.placeFrame_kept (s) (d) (k) (m) : Kept [.regs, .wins, .host, .castRun, .casting, .pours, .cmds, .queues, .fns, .reports, .evWay, .out] s (State.placeFrame s d k m) := by
  unfold State.placeFrame
  repeat' first
    | exact Eq.refl true
    | with_reducible assumption
    | with_reducible apply Kept.ite
    | with_reducible apply Kept.refl
    | (extract_lets +onlyGivenNames x; refine Kept.via x ?_ ?_; (on_goal 1 => (unfold x; clear x)); on_goal 2 => (intro hx; clear_value x))
    | (extract_lets +onlyGivenNames x; clear_value x)
    | with_reducible apply Kept.step (k := State.lateFrame_kept ..)
    | with_reducible apply Kept.step (k := State.judgeExtent_kept ..)
    | with_reducible apply Kept.step (k := State.setPull_kept ..)
    | with_reducible apply Kept.step (k := State.ladleNote_kept ..)
    | with_reducible apply Kept.step (k := State.bump_kept ..)
    | with_reducible refine Kept.foldl _ (fun _ _ => ?_) _ _
    | with_reducible apply Kept.step (k := Kept.foldl (m := [.regs, .wins, .host, .castRun, .casting, .pours, .cmds, .queues, .fns, .reports, .evWay, .out]) _ (fun _ _ => ?_) _ _)
    | split

theorem execExtentData_kept (die) (f) (s) : OutKept [.regs, .wins, .host, .castRun, .casting, .pours, .cmds, .queues, .fns, .reports, .evWay, .out] s (execExtentData die f s) := by
  unfold execExtentData
  repeat' first
    | exact Eq.refl true
    | with_reducible assumption
    | with_reducible apply Kept.ite
    | with_reducible apply Kept.refl
    | (extract_lets +onlyGivenNames x; clear_value x)
    | with_reducible apply OutKept.ite
    | with_reducible apply OutKept.next
    | with_reducible apply OutKept.fault
    | with_reducible apply Kept.step (k := State.placeFrame_kept ..)
    | with_reducible apply Kept.step (k := State.noteSeq_kept ..)
    | with_reducible refine Kept.step ?_ (State.received_kept (m := [.regs, .wins, .host, .castRun, .casting, .pours, .cmds, .queues, .fns, .reports, .evWay, .out]) ?_ (fun _ => ?_) ..) ?_
    | with_reducible apply Kept.step (k := State.pourLast_kept ..)
    | with_reducible apply Kept.step (k := State.raise_kept ..)
    | with_reducible apply Kept.step (k := State.bump_kept ..)
    | with_reducible refine Kept.foldl _ (fun _ _ => ?_) _ _
    | with_reducible apply Kept.step (k := Kept.foldl (m := [.regs, .wins, .host, .castRun, .casting, .pours, .cmds, .queues, .fns, .reports, .evWay, .out]) _ (fun _ _ => ?_) _ _)
    | split
    | (cases ‹List.cons _ _ = List.cons _ _›)
    | intro _

theorem execReqSilenceTimeout_kept (die) (extent) (s) : OutKept [.regs, .wins, .host, .castRun, .casting, .pours, .cmds, .queues, .fns, .reports, .evWay, .out] s (execReqSilenceTimeout die extent s) := by
  unfold execReqSilenceTimeout
  repeat' first
    | exact Eq.refl true
    | with_reducible assumption
    | with_reducible apply Kept.ite
    | with_reducible apply Kept.refl
    | (extract_lets +onlyGivenNames x; clear_value x)
    | with_reducible apply OutKept.ite
    | with_reducible apply OutKept.next
    | with_reducible apply OutKept.fault
    | with_reducible apply Kept.step (k := State.retryPull_kept ..)
    | with_reducible refine Kept.foldl _ (fun _ _ => ?_) _ _
    | with_reducible apply Kept.step (k := Kept.foldl (m := [.regs, .wins, .host, .castRun, .casting, .pours, .cmds, .queues, .fns, .reports, .evWay, .out]) _ (fun _ _ => ?_) _ _)
    | split

theorem State.endOk_kept (s) (d) (p) (a) : Kept [.regs, .wins, .host, .castRun, .casting, .pours, .cmds, .queues, .fns, .reports, .evWay, .out] s (State.endOk s d p a) := by
  unfold State.endOk
  repeat' first
    | exact Eq.refl true
    | with_reducible assumption
    | with_reducible apply Kept.ite
    | with_reducible apply Kept.refl
    | (extract_lets +onlyGivenNames x; refine Kept.via x ?_ ?_; (on_goal 1 => (unfold x; clear x)); on_goal 2 => (intro hx; clear_value x))
    | (extract_lets +onlyGivenNames x; clear_value x)
    | with_reducible apply Kept.step (k := State.nextServer_kept ..)
    | with_reducible apply Kept.step (k := State.askFor_kept ..)
    | with_reducible apply Kept.step (k := State.setPull_kept ..)
    | with_reducible apply Kept.step (k := State.bump_kept ..)
    | with_reducible refine Kept.foldl _ (fun _ _ => ?_) _ _
    | with_reducible apply Kept.step (k := Kept.foldl (m := [.regs, .wins, .host, .castRun, .casting, .pours, .cmds, .queues, .fns, .reports, .evWay, .out]) _ (fun _ _ => ?_) _ _)
    | split

theorem execPourEnd_kept (die) (f) (s) : OutKept [.regs, .wins, .host, .castRun, .casting, .pours, .cmds, .queues, .fns, .reports, .evWay, .out] s (execPourEnd die f s) := by
  unfold execPourEnd
  repeat' first
    | exact Eq.refl true
    | with_reducible assumption
    | with_reducible apply Kept.ite
    | with_reducible apply Kept.refl
    | (extract_lets +onlyGivenNames x; refine Kept.via x ?_ ?_; (on_goal 1 => (unfold x; clear x)); on_goal 2 => (intro hx; clear_value x))
    | (extract_lets +onlyGivenNames x; clear_value x)
    | with_reducible apply OutKept.ite
    | with_reducible apply OutKept.next
    | with_reducible apply OutKept.fault
    | with_reducible apply Kept.step (k := State.endOk_kept ..)
    | with_reducible apply Kept.step (k := State.noteSeq_kept ..)
    | with_reducible refine Kept.step ?_ (State.received_kept (m := [.regs, .wins, .host, .castRun, .casting, .pours, .cmds, .queues, .fns, .reports, .evWay, .out]) ?_ (fun _ => ?_) ..) ?_
    | with_reducible apply Kept.step (k := State.nextServer_kept ..)
    | with_reducible apply Kept.step (k := State.setSessState_kept ..)
    | with_reducible apply Kept.step (k := State.bump_kept ..)
    | with_reducible refine Kept.foldl _ (fun _ _ => ?_) _ _
    | with_reducible apply Kept.step (k := Kept.foldl (m := [.regs, .wins, .host, .castRun, .casting, .pours, .cmds, .queues, .fns, .reports, .evWay, .out]) _ (fun _ _ => ?_) _ _)
    | split
    | (cases ‹List.cons _ _ = List.cons _ _›)
    | intro _

theorem execStagingProbe_kept (die) (extent) (s) : OutKept [.regs, .net, .ports, .nextTag, .pours, .fns, .reports, .out] s (execStagingProbe die extent s) := by
  unfold execStagingProbe
  repeat' first
    | exact Eq.refl true
    | with_reducible assumption
    | with_reducible apply Kept.ite
    | with_reducible apply Kept.refl
    | (extract_lets +onlyGivenNames x; clear_value x)
    | with_reducible apply OutKept.ite
    | with_reducible apply OutKept.next
    | with_reducible apply OutKept.fault
    | with_reducible apply Kept.step (k := State.setPull_kept ..)
    | with_reducible refine Kept.step ?_ (State.takeTag_kept (by assumption)) ?_
    | with_reducible apply Kept.step (k := State.takeTag_keptP ..)
    | with_reducible apply Kept.step (k := State.dieSend_kept ..)
    | with_reducible refine Kept.foldl _ (fun _ _ => ?_) _ _
    | with_reducible apply Kept.step (k := Kept.foldl (m := [.regs, .net, .ports, .nextTag, .pours, .fns, .reports, .out]) _ (fun _ _ => ?_) _ _)
    | split

theorem State.extDrained_kept (s) (old) (d) (e) (x) : Kept [.regs, .pours, .fns, .out] s (State.extDrained s old d e x) := by
  unfold State.extDrained
  repeat' first
    | exact Eq.refl true
    | with_reducible assumption
    | with_reducible apply Kept.ite
    | with_reducible apply Kept.refl
    | (extract_lets +onlyGivenNames x; refine Kept.via x ?_ ?_; (on_goal 1 => (unfold x; clear x)); on_goal 2 => (intro hx; clear_value x))
    | (extract_lets +onlyGivenNames x; clear_value x)
    | with_reducible apply Kept.step (k := State.dropPull_kept ..)
    | with_reducible apply Kept.step (k := State.ladleNote_kept ..)
    | with_reducible apply Kept.step (k := State.setPour_kept ..)
    | with_reducible apply Kept.step (k := State.bump_kept ..)

theorem State.ladleEcc_kept (s) (d) (e) (word_) : Kept [.regs, .fns, .out] s (State.ladleEcc s d e word_) := by
  unfold State.ladleEcc
  repeat' first
    | exact Eq.refl true
    | with_reducible assumption
    | with_reducible apply Kept.ite
    | with_reducible apply Kept.refl
    | (extract_lets +onlyGivenNames x; refine Kept.via x ?_ ?_; (on_goal 1 => (unfold x; clear x)); on_goal 2 => (intro hx; clear_value x))
    | (extract_lets +onlyGivenNames x; refine Kept.fn x ?_; unfold x; clear x)
    | (extract_lets +onlyGivenNames x; clear_value x)
    | with_reducible apply Kept.step (k := State.raise_kept ..)
    | with_reducible apply Kept.step (k := State.bump_kept ..)
    | with_reducible apply Kept.step (k := State.setReg_kept ..)
    | with_reducible refine Kept.foldl _ (fun _ _ => ?_) _ _
    | with_reducible apply Kept.step (k := Kept.foldl (m := [.regs, .fns, .out]) _ (fun _ _ => ?_) _ _)
    | split

theorem execExtentDrain_kept (die) (extent) (e) (w) (s) : OutKept (.regs :: .wins :: .mire :: .host :: .mireBad :: .net :: .ports :: .banks :: .nextTag :: .castRun :: .casting :: .pours :: .cmds :: .queues :: .fns :: .reports :: .evWay :: .out :: []) s (execExtentDrain die extent e w s) := by
  unfold execExtentDrain
  repeat' first
    | exact Eq.refl true
    | with_reducible assumption
    | with_reducible apply Kept.ite
    | with_reducible apply Kept.refl
    | (extract_lets +onlyGivenNames x; clear_value x)
    | with_reducible apply OutKept.ite
    | with_reducible apply OutKept.next
    | with_reducible apply OutKept.fault
    | with_reducible apply Kept.step (k := State.ladleEcc_kept ..)
    | with_reducible apply Kept.step (k := State.extDrained_kept ..)
    | with_reducible apply Kept.step (k := State.retryPull_kept ..)
    | with_reducible apply Kept.step (k := State.setPull_kept ..)
    | with_reducible refine Kept.step ?_ (State.takeTag_kept (by assumption)) ?_
    | with_reducible apply Kept.step (k := State.takeTag_keptP ..)
    | with_reducible refine Kept.step ?_ (State.mireServeWrite_kept (by assumption)) ?_
    | with_reducible apply Kept.step (k := State.mireServeWrite_keptP ..)
    | with_reducible apply Kept.step (k := State.dieSend_kept ..)
    | with_reducible refine Kept.foldl _ (fun _ _ => ?_) _ _
    | with_reducible apply Kept.step (k := Kept.foldl (m := (.regs :: .wins :: .mire :: .host :: .mireBad :: .net :: .ports :: .banks :: .nextTag :: .castRun :: .casting :: .pours :: .cmds :: .queues :: .fns :: .reports :: .evWay :: .out :: [])) _ (fun _ _ => ?_) _ _)
    | split

theorem State.dieMoveDone_kept (s) (d) (p) : Kept [.regs, .pours, .fns, .out] s (State.dieMoveDone s d p) := by
  unfold State.dieMoveDone
  repeat' first
    | exact Eq.refl true
    | with_reducible assumption
    | with_reducible apply Kept.ite
    | with_reducible apply Kept.refl
    | with_reducible apply Kept.step (k := State.extDrained_kept ..)
    | with_reducible refine Kept.foldl _ (fun _ _ => ?_) _ _
    | with_reducible apply Kept.step (k := Kept.foldl (m := [.regs, .pours, .fns, .out]) _ (fun _ _ => ?_) _ _)
    | split

theorem execGrant_kept (p) (s) : OutKept (.fresh :: .regs :: .pool :: .peat :: .mire :: .poolBad :: .peatBad :: .tasks :: .crus :: .gates :: .slots :: .probes :: .rx :: .net :: .arrivals :: .ports :: .pours :: .fns :: .reports :: .out :: []) s (execGrant p s) := by
  unfold execGrant
  repeat' first
    | exact Eq.refl true
    | with_reducible assumption
    | with_reducible apply Kept.ite
    | with_reducible apply Kept.refl
    | with_reducible apply OutKept.ite
    | with_reducible apply OutKept.next
    | with_reducible apply OutKept.fault
    | with_reducible apply Kept.step (k := State.setPull_kept ..)
    | with_reducible apply Kept.step (k := State.tileGrant_kept ..)
    | with_reducible refine Kept.step ?_ (State.ejectDie_kept (m := (.fresh :: .regs :: .pool :: .peat :: .mire :: .poolBad :: .peatBad :: .tasks :: .crus :: .gates :: .slots :: .probes :: .rx :: .net :: .arrivals :: .ports :: .pours :: .fns :: .reports :: .out :: [])) ?_ (fun _ => ?_) ..) ?_
    | with_reducible refine Kept.step ?_ (State.eject_kept (m := (.fresh :: .regs :: .pool :: .peat :: .mire :: .poolBad :: .peatBad :: .tasks :: .crus :: .gates :: .slots :: .probes :: .rx :: .net :: .arrivals :: .ports :: .pours :: .fns :: .reports :: .out :: [])) ?_ (fun _ => ?_) ..) ?_
    | with_reducible refine Kept.foldl _ (fun _ _ => ?_) _ _
    | with_reducible apply Kept.step (k := Kept.foldl (m := (.fresh :: .regs :: .pool :: .peat :: .mire :: .poolBad :: .peatBad :: .tasks :: .crus :: .gates :: .slots :: .probes :: .rx :: .net :: .arrivals :: .ports :: .pours :: .fns :: .reports :: .out :: [])) _ (fun _ _ => ?_) _ _)
    | split
    | (cases ‹List.cons _ _ = List.cons _ _›)
    | intro _

theorem execRefuse_kept (p) (s) : OutKept (.fresh :: .regs :: .pool :: .peat :: .mire :: .poolBad :: .peatBad :: .tasks :: .crus :: .slots :: .probes :: .rx :: .arrivals :: .pours :: .fns :: .reports :: .out :: []) s (execRefuse p s) := by
  unfold execRefuse
  repeat' first
    | exact Eq.refl true
    | with_reducible assumption
    | with_reducible apply Kept.ite
    | with_reducible apply Kept.refl
    | with_reducible apply OutKept.ite
    | with_reducible apply OutKept.next
    | with_reducible apply OutKept.fault
    | with_reducible apply Kept.step (k := State.setPull_kept ..)
    | with_reducible apply Kept.step (k := State.tileRefuse_kept ..)
    | with_reducible refine Kept.step ?_ (State.ejectDie_kept (m := (.fresh :: .regs :: .pool :: .peat :: .mire :: .poolBad :: .peatBad :: .tasks :: .crus :: .slots :: .probes :: .rx :: .arrivals :: .pours :: .fns :: .reports :: .out :: [])) ?_ (fun _ => ?_) ..) ?_
    | with_reducible refine Kept.step ?_ (State.eject_kept (m := (.fresh :: .regs :: .pool :: .peat :: .mire :: .poolBad :: .peatBad :: .tasks :: .crus :: .slots :: .probes :: .rx :: .arrivals :: .pours :: .fns :: .reports :: .out :: [])) ?_ (fun _ => ?_) ..) ?_
    | with_reducible refine Kept.foldl _ (fun _ _ => ?_) _ _
    | with_reducible apply Kept.step (k := Kept.foldl (m := (.fresh :: .regs :: .pool :: .peat :: .mire :: .poolBad :: .peatBad :: .tasks :: .crus :: .slots :: .probes :: .rx :: .arrivals :: .pours :: .fns :: .reports :: .out :: [])) _ (fun _ _ => ?_) _ _)
    | split
    | (cases ‹List.cons _ _ = List.cons _ _›)
    | intro _

theorem execCredit_kept (die) (k) (s) : OutKept [.regs, .pours, .out] s (execCredit die k s) := by
  unfold execCredit
  repeat' first
    | exact Eq.refl true
    | with_reducible assumption
    | with_reducible apply Kept.ite
    | with_reducible apply Kept.refl
    | (extract_lets +onlyGivenNames x; clear_value x)
    | with_reducible apply OutKept.ite
    | with_reducible apply OutKept.next
    | with_reducible apply OutKept.fault
    | with_reducible apply Kept.step (k := State.pourSend_kept ..)
    | with_reducible apply Kept.step (k := State.setSess_kept ..)

theorem pourStopHook_kept (w) (d) : Kept [.regs, .wins, .pours, .fns, .out] w.st (pourStopHook w d) := by
  unfold pourStopHook
  repeat' first
    | exact Eq.refl true
    | with_reducible assumption
    | with_reducible apply Kept.ite
    | with_reducible apply Kept.refl
    | with_reducible apply Kept.step (k := State.stopSession_kept ..)
    | with_reducible apply Kept.step (k := State.zeroBits_kept ..)

theorem execPourStop_kept (who) (die) (v) (s) : OutKept [.regs, .wins, .guards, .shadows, .sealRun, .pours, .fns, .out] s (execPourStop who die v s) := by
  unfold execPourStop
  repeat' first
    | exact Eq.refl true
    | with_reducible assumption
    | with_reducible apply Kept.ite
    | with_reducible apply Kept.refl
    | with_reducible apply OutKept.ite
    | with_reducible apply OutKept.next
    | with_reducible apply OutKept.fault
    | with_reducible apply Kept.step (k := pourStopHook_kept ..)
    | with_reducible apply Kept.step (k := State.writeCore_kept ..)

theorem execStopResend_kept (die) (k) (s) : OutKept [.regs, .wins, .host, .castRun, .casting, .pours, .cmds, .queues, .fns, .reports, .evWay, .out] s (execStopResend die k s) := by
  unfold execStopResend
  repeat' first
    | exact Eq.refl true
    | with_reducible assumption
    | with_reducible apply Kept.ite
    | with_reducible apply Kept.refl
    | (extract_lets +onlyGivenNames x; refine OutKept.via x ?_ ?_; (on_goal 1 => (unfold x; clear x)); on_goal 2 => (intro hx; clear_value x))
    | (extract_lets +onlyGivenNames x; clear_value x)
    | with_reducible apply OutKept.ite
    | with_reducible apply OutKept.next
    | with_reducible apply OutKept.fault
    | with_reducible apply Kept.step (k := State.failSession_kept ..)
    | with_reducible apply Kept.step (k := State.pourSend_kept ..)
    | with_reducible apply Kept.step (k := State.setSess_kept ..)
    | with_reducible apply Kept.step (k := State.bump_kept ..)

theorem State.sendHello_kept (s) (d) (k) : Kept [.regs, .out] s (State.sendHello s d k) := by
  unfold State.sendHello
  repeat' first
    | exact Eq.refl true
    | with_reducible assumption
    | with_reducible apply Kept.ite
    | with_reducible apply Kept.refl
    | with_reducible apply Kept.step (k := State.sendDatagram_kept ..)

theorem State.startHello_kept (s) (d) (k) (server) (port) : Kept [.fresh, .regs, .pours, .out] s (State.startHello s d k server port) := by
  unfold State.startHello
  repeat' first
    | exact Eq.refl true
    | with_reducible assumption
    | with_reducible apply Kept.ite
    | with_reducible apply Kept.refl
    | (extract_lets +onlyGivenNames x; refine Kept.via x ?_ ?_; (on_goal 1 => (unfold x; clear x)); on_goal 2 => (intro hx; clear_value x))
    | (extract_lets +onlyGivenNames x; clear_value x)
    | with_reducible apply Kept.step (k := State.sendHello_kept ..)
    | with_reducible apply Kept.step (k := State.setSess_kept ..)
    | with_reducible apply Kept.step (k := State.tickFresh_kept ..)
    | with_reducible apply Kept.step (k := State.setReg_kept ..)

theorem execHello_kept (die) (server) (port) (s) : OutKept [.fresh, .regs, .pours, .out] s (execHello die server port s) := by
  unfold execHello
  repeat' first
    | exact Eq.refl true
    | with_reducible assumption
    | with_reducible apply Kept.ite
    | with_reducible apply Kept.refl
    | (extract_lets +onlyGivenNames x; clear_value x)
    | with_reducible apply OutKept.ite
    | with_reducible apply OutKept.next
    | with_reducible apply OutKept.fault
    | with_reducible apply Kept.step (k := State.startHello_kept ..)
    | with_reducible refine Kept.foldl _ (fun _ _ => ?_) _ _
    | with_reducible apply Kept.step (k := Kept.foldl (m := [.fresh, .regs, .pours, .out]) _ (fun _ _ => ?_) _ _)
    | split

theorem State.takeAck_kept (s) (d) (k) (b) : Kept [.regs, .pours, .fns, .out] s (State.takeAck s d k b) := by
  unfold State.takeAck
  repeat' first
    | exact Eq.refl true
    | with_reducible assumption
    | with_reducible apply Kept.ite
    | with_reducible apply Kept.refl
    | (extract_lets +onlyGivenNames x; clear_value x)
    | with_reducible apply Kept.step (k := State.setSessState_kept ..)
    | with_reducible apply Kept.step (k := State.setSess_kept ..)
    | with_reducible apply Kept.step (k := State.raise_kept ..)
    | with_reducible apply Kept.step (k := State.bump_kept ..)
    | with_reducible refine Kept.foldl _ (fun _ _ => ?_) _ _
    | with_reducible apply Kept.step (k := Kept.foldl (m := [.regs, .pours, .fns, .out]) _ (fun _ _ => ?_) _ _)
    | split

theorem execHelloAck_kept (die) (f) (s) : OutKept [.regs, .pours, .fns, .out] s (execHelloAck die f s) := by
  unfold execHelloAck
  repeat' first
    | exact Eq.refl true
    | with_reducible assumption
    | with_reducible apply Kept.ite
    | with_reducible apply Kept.refl
    | (extract_lets +onlyGivenNames x; clear_value x)
    | with_reducible apply OutKept.ite
    | with_reducible apply OutKept.next
    | with_reducible apply OutKept.fault
    | with_reducible apply Kept.step (k := State.takeAck_kept ..)
    | with_reducible refine Kept.step ?_ (State.frameIn_kept (by assumption)) ?_
    | with_reducible apply Kept.step (k := State.frameIn_keptP ..)
    | with_reducible apply Kept.step (k := State.bump_kept ..)
    | with_reducible refine Kept.foldl _ (fun _ _ => ?_) _ _
    | with_reducible apply Kept.step (k := Kept.foldl (m := [.regs, .pours, .fns, .out]) _ (fun _ _ => ?_) _ _)
    | split

theorem execHelloRetry_kept (die) (k) (s) : OutKept [.regs, .wins, .host, .castRun, .casting, .pours, .cmds, .queues, .fns, .reports, .evWay, .out] s (execHelloRetry die k s) := by
  unfold execHelloRetry
  repeat' first
    | exact Eq.refl true
    | with_reducible assumption
    | with_reducible apply Kept.ite
    | with_reducible apply Kept.refl
    | (extract_lets +onlyGivenNames x; clear_value x)
    | with_reducible apply OutKept.ite
    | with_reducible apply OutKept.next
    | with_reducible apply OutKept.fault
    | with_reducible apply Kept.step (k := State.sendHello_kept ..)
    | with_reducible apply Kept.step (k := State.failSession_kept ..)
    | with_reducible apply Kept.step (k := State.setSess_kept ..)

theorem execSessionReopen_kept (die) (server) (s) : OutKept [.fresh, .regs, .pours, .out] s (execSessionReopen die server s) := by
  unfold execSessionReopen
  repeat' first
    | exact Eq.refl true
    | with_reducible assumption
    | with_reducible apply Kept.ite
    | with_reducible apply Kept.refl
    | (extract_lets +onlyGivenNames x; clear_value x)
    | with_reducible apply OutKept.ite
    | with_reducible apply OutKept.next
    | with_reducible apply OutKept.fault
    | with_reducible apply Kept.step (k := State.startHello_kept ..)
    | with_reducible refine Kept.foldl _ (fun _ _ => ?_) _ _
    | with_reducible apply Kept.step (k := Kept.foldl (m := [.fresh, .regs, .pours, .out]) _ (fun _ _ => ?_) _ _)
    | split

theorem execSessionRollover_kept (die) (k) (s) : OutKept [.fresh, .regs, .pours, .fns, .out] s (execSessionRollover die k s) := by
  unfold execSessionRollover
  repeat' first
    | exact Eq.refl true
    | with_reducible assumption
    | with_reducible apply Kept.ite
    | with_reducible apply Kept.refl
    | (extract_lets +onlyGivenNames x; refine OutKept.via x ?_ ?_; (on_goal 1 => (unfold x; clear x)); on_goal 2 => (intro hx; clear_value x))
    | (extract_lets +onlyGivenNames x; clear_value x)
    | with_reducible apply OutKept.ite
    | with_reducible apply OutKept.next
    | with_reducible apply OutKept.fault
    | with_reducible apply Kept.step (k := State.startHello_kept ..)
    | with_reducible apply Kept.step (k := State.stopSession_kept ..)
    | with_reducible apply Kept.step (k := State.pourSend_kept ..)
    | with_reducible apply Kept.step (k := State.setPour_kept ..)

theorem State.fencePour_kept (s) (p) (d) : Kept [.regs, .pours, .fns, .out] s (State.fencePour s p d) := by
  unfold State.fencePour
  repeat' first
    | exact Eq.refl true
    | with_reducible assumption
    | with_reducible apply Kept.ite
    | with_reducible apply Kept.refl
    | (extract_lets +onlyGivenNames x; refine Kept.via x ?_ ?_; (on_goal 1 => (unfold x; clear x)); on_goal 2 => (intro hx; clear_value x))
    | (extract_lets +onlyGivenNames x; refine Kept.fn x ?_; unfold x; clear x)
    | (extract_lets +onlyGivenNames x; clear_value x)
    | with_reducible apply Kept.step (k := State.stopSession_kept ..)
    | with_reducible apply Kept.step (k := State.ladleNote_kept ..)
    | with_reducible apply Kept.step (k := State.setPour_kept ..)
    | with_reducible apply Kept.step (k := State.bump_kept ..)
    | with_reducible refine Kept.foldl _ (fun _ _ => ?_) _ _

theorem State.fencePours_kept (s) (p) : Kept [.regs, .pours, .fns, .out] s (State.fencePours s p) := by
  unfold State.fencePours
  repeat' first
    | exact Eq.refl true
    | with_reducible assumption
    | with_reducible apply Kept.ite
    | with_reducible apply Kept.refl
    | with_reducible apply Kept.step (k := State.fencePour_kept ..)
    | with_reducible refine Kept.foldl _ (fun _ _ => ?_) _ _

theorem State.resumePours_kept (s) (p) : Kept [.pours] s (State.resumePours s p) := by
  unfold State.resumePours
  repeat' first
    | exact Eq.refl true
    | with_reducible assumption
    | with_reducible apply Kept.ite
    | with_reducible apply Kept.refl
    | (extract_lets +onlyGivenNames x; clear_value x)
    | with_reducible apply Kept.step (k := State.setPour_kept ..)
    | with_reducible refine Kept.foldl _ (fun _ _ => ?_) _ _

/-! ### Host -/

theorem execBind_kept (port) (q) (s) : OutKept [.regs, .wins, .host, .cmds, .queues] s (execBind port q s) := by
  unfold execBind
  repeat' first
    | exact Eq.refl true
    | with_reducible assumption
    | with_reducible apply Kept.ite
    | with_reducible apply Kept.refl
    | with_reducible apply OutKept.ite
    | with_reducible apply OutKept.next
    | with_reducible apply OutKept.fault
    | with_reducible apply Kept.step (k := State.stageOf_kept ..)
    | with_reducible apply Kept.step (k := State.complete_kept ..)
    | with_reducible refine Kept.foldl _ (fun _ _ => ?_) _ _
    | with_reducible apply Kept.step (k := Kept.foldl (m := [.regs, .wins, .host, .cmds, .queues]) _ (fun _ _ => ?_) _ _)
    | split

theorem State.placeKv_kept (s) (n) (g) (x) : Kept [.regs, .peat, .mire, .peatBad, .mireBad, .banks, .fns, .evWay, .out] s (State.placeKv s n g x) := by
  unfold State.placeKv
  repeat' first
    | exact Eq.refl true
    | with_reducible assumption
    | with_reducible apply Kept.ite
    | with_reducible apply Kept.refl
    | (extract_lets +onlyGivenNames x; refine Kept.via x ?_ ?_; (on_goal 1 => (unfold x; clear x)); on_goal 2 => (intro hx; clear_value x))
    | (extract_lets +onlyGivenNames x; clear_value x)
    | with_reducible apply Kept.step (k := State.writeMirrored_kept ..)
    | with_reducible refine Kept.foldl _ (fun _ _ => ?_) _ _

theorem State.placeAll_kept (s) (n) (g) (homes) (taken) : Kept [.fresh, .regs, .peat, .mire, .peatBad, .mireBad, .banks, .kvAreas, .fns, .evWay, .out] s (State.placeAll s n g homes taken) := by
  unfold State.placeAll
  repeat' first
    | exact Eq.refl true
    | with_reducible assumption
    | with_reducible apply Kept.ite
    | with_reducible apply Kept.refl
    | (extract_lets +onlyGivenNames x; refine Kept.via x ?_ ?_; (on_goal 1 => (unfold x; clear x)); on_goal 2 => (intro hx; clear_value x))
    | with_reducible apply Kept.step (k := State.placeKv_kept ..)
    | with_reducible apply Kept.step (k := State.tickFresh_kept ..)
    | with_reducible refine Kept.foldl _ (fun _ _ => ?_) _ _
    | with_reducible apply Kept.step (k := Kept.foldl (m := [.fresh, .regs, .peat, .mire, .peatBad, .mireBad, .banks, .kvAreas, .fns, .evWay, .out]) _ (fun _ _ => ?_) _ _)
    | split
    | with_reducible apply Kept.step (k := Kept.kvAreas ..)

theorem State.freeKv_kept (s) (n) (x) : Kept [.regs, .peat, .mire, .peatBad, .mireBad, .banks, .fns, .evWay, .out] s (State.freeKv s n x) := by
  unfold State.freeKv
  repeat' first
    | exact Eq.refl true
    | with_reducible assumption
    | with_reducible apply Kept.ite
    | with_reducible apply Kept.refl
    | (extract_lets +onlyGivenNames x; refine Kept.via x ?_ ?_; (on_goal 1 => (unfold x; clear x)); on_goal 2 => (intro hx; clear_value x))
    | (extract_lets +onlyGivenNames x; clear_value x)
    | with_reducible apply Kept.step (k := State.setPageEntry_kept ..)
    | with_reducible apply Kept.step (k := State.writeMirrored_kept ..)
    | with_reducible refine Kept.foldl _ (fun _ _ => ?_) _ _

theorem State.spreadGen_kept (s) (p) (n) : Kept [.genTab] s (State.spreadGen s p n) := by
  unfold State.spreadGen
  repeat' first
    | exact Eq.refl true
    | with_reducible assumption
    | with_reducible apply Kept.ite
    | with_reducible apply Kept.refl
    | with_reducible apply Kept.step (k := State.setGenAt_kept ..)
    | with_reducible refine Kept.foldl _ (fun _ _ => ?_) _ _

theorem State.bindNow_kept (s) (c) (home) (params) (prompt) (limit) (homes) (taken) : Kept [.fresh, .regs, .peat, .mire, .peatBad, .mireBad, .genTab, .banks, .streams, .kvAreas, .cmds, .fns, .evWay, .out] s (State.bindNow s c home params prompt limit homes taken) := by
  unfold State.bindNow
  repeat' first
    | exact Eq.refl true
    | with_reducible assumption
    | with_reducible apply Kept.ite
    | with_reducible apply Kept.refl
    | (extract_lets +onlyGivenNames x; refine Kept.via x ?_ ?_; (on_goal 1 => (unfold x; clear x)); on_goal 2 => (intro hx; clear_value x))
    | (extract_lets +onlyGivenNames x; clear_value x)
    | with_reducible apply Kept.step (k := State.spreadGen_kept ..)
    | with_reducible apply Kept.step (k := State.placeAll_kept ..)
    | with_reducible apply Kept.step (k := State.writeMirrored_kept ..)
    | with_reducible apply Kept.step (k := State.stageOf_kept ..)
    | with_reducible apply Kept.step (k := State.jrnEmission_kept ..)
    | with_reducible apply Kept.step (k := State.jrnCommit_kept ..)
    | with_reducible apply Kept.step (k := State.setStream_kept ..)
    | with_reducible apply Kept.step (k := State.bump_kept ..)

theorem execBindingDone_kept (port) (q) (dmaOk) (spaceOk) (s) : OutKept (.fresh :: .regs :: .wins :: .peat :: .mire :: .host :: .peatBad :: .mireBad :: .genTab :: .banks :: .streams :: .kvAreas :: .cmds :: .queues :: .fns :: .evWay :: .out :: []) s (execBindingDone port q dmaOk spaceOk s) := by
  unfold execBindingDone
  repeat' first
    | exact Eq.refl true
    | with_reducible assumption
    | with_reducible apply Kept.ite
    | with_reducible apply Kept.refl
    | (extract_lets +onlyGivenNames x; refine Kept.fn x ?_; unfold x; clear x)
    | (extract_lets +onlyGivenNames x; clear_value x)
    | with_reducible apply OutKept.ite
    | with_reducible apply OutKept.next
    | with_reducible apply OutKept.fault
    | with_reducible apply Kept.step (k := State.bindNow_kept ..)
    | with_reducible apply Kept.step (k := State.complete_kept ..)
    | with_reducible refine Kept.step ?_ (State.mireTake_kept (by assumption)) ?_
    | with_reducible apply Kept.step (k := State.mireTake_keptP ..)
    | with_reducible refine Kept.foldl _ (fun _ _ => ?_) _ _
    | with_reducible apply Kept.step (k := Kept.foldl (m := (.fresh :: .regs :: .wins :: .peat :: .mire :: .host :: .peatBad :: .mireBad :: .genTab :: .banks :: .streams :: .kvAreas :: .cmds :: .queues :: .fns :: .evWay :: .out :: [])) _ (fun _ _ => ?_) _ _)
    | split

theorem execStreamFree_kept (stream) (s) : OutKept [.regs, .wins, .peat, .mire, .host, .peatBad, .mireBad, .banks, .streams, .kvAreas, .cmds, .queues, .fns, .evWay, .out] s (execStreamFree stream s) := by
  unfold execStreamFree
  repeat' first
    | exact Eq.refl true
    | with_reducible assumption
    | with_reducible apply Kept.ite
    | with_reducible apply Kept.refl
    | (extract_lets +onlyGivenNames x; refine OutKept.via x ?_ ?_; (on_goal 1 => (unfold x; clear x)); on_goal 2 => (intro hx; clear_value x))
    | (extract_lets +onlyGivenNames x; clear_value x)
    | with_reducible apply OutKept.ite
    | with_reducible apply OutKept.next
    | with_reducible apply OutKept.fault
    | with_reducible apply Kept.step (k := State.freeKv_kept ..)
    | with_reducible apply Kept.step (k := State.complete_kept ..)
    | with_reducible apply Kept.step (k := State.jrnCommit_kept ..)
    | with_reducible refine Kept.step ?_ (State.mireTake_kept (by assumption)) ?_
    | with_reducible apply Kept.step (k := State.mireTake_keptP ..)
    | with_reducible apply Kept.step (k := State.setStream_kept ..)
    | with_reducible apply Kept.step (k := State.raise_kept ..)
    | with_reducible apply Kept.step (k := State.bump_kept ..)
    | with_reducible refine Kept.foldl _ (fun _ _ => ?_) _ _
    | with_reducible apply Kept.step (k := Kept.foldl (m := [.regs, .wins, .peat, .mire, .host, .peatBad, .mireBad, .banks, .streams, .kvAreas, .cmds, .queues, .fns, .evWay, .out]) _ (fun _ _ => ?_) _ _)
    | split
    | with_reducible apply Kept.step (k := Kept.kvAreas ..)

theorem State.setSem_kept (s) (i) (owner) (waiter) : Kept [.regs] s (State.setSem s i owner waiter) := by
  unfold State.setSem
  repeat' first
    | exact Eq.refl true
    | with_reducible assumption
    | with_reducible apply Kept.ite
    | with_reducible apply Kept.refl
    | with_reducible apply Kept.step (k := State.setReg_kept ..)

theorem State.semPass_kept (s) (i) : Kept [.regs] s (State.semPass s i) := by
  unfold State.semPass
  repeat' first
    | exact Eq.refl true
    | with_reducible assumption
    | with_reducible apply Kept.ite
    | with_reducible apply Kept.refl
    | with_reducible apply Kept.step (k := State.setSem_kept ..)
    | with_reducible apply Kept.step (k := State.bump_kept ..)

theorem State.semTake_kept (s) (i) (who) : Kept [.regs] s (State.semTake s i who) := by
  unfold State.semTake
  repeat' first
    | exact Eq.refl true
    | with_reducible assumption
    | with_reducible apply Kept.ite
    | with_reducible apply Kept.refl
    | with_reducible apply Kept.step (k := State.setSem_kept ..)
    | with_reducible apply Kept.step (k := State.bump_kept ..)

theorem State.semRelease_kept (s) (i) (who) : Kept [.regs, .fns, .out] s (State.semRelease s i who) := by
  unfold State.semRelease
  repeat' first
    | exact Eq.refl true
    | with_reducible assumption
    | with_reducible apply Kept.ite
    | with_reducible apply Kept.refl
    | with_reducible apply Kept.step (k := State.semPass_kept ..)
    | with_reducible apply Kept.step (k := State.raise_kept ..)
    | with_reducible apply Kept.step (k := State.bump_kept ..)

theorem semHook_kept (w) (who) (i) : Kept [.regs, .fns, .out] w.st (semHook w who i) := by
  unfold semHook
  repeat' first
    | exact Eq.refl true
    | with_reducible assumption
    | with_reducible apply Kept.ite
    | with_reducible apply Kept.refl
    | with_reducible apply Kept.step (k := State.semRelease_kept ..)
    | with_reducible apply Kept.step (k := State.semTake_kept ..)
    | with_reducible apply Kept.step (k := State.semPass_kept ..)
    | with_reducible apply Kept.step (k := State.setSem_kept ..)

theorem State.semWrite_kept (s) (who) (i) (v) : Kept [.regs, .wins, .guards, .shadows, .sealRun, .fns, .out] s (State.semWrite s who i v) := by
  unfold State.semWrite
  repeat' first
    | exact Eq.refl true
    | with_reducible assumption
    | with_reducible apply Kept.ite
    | with_reducible apply Kept.refl
    | with_reducible apply Kept.step (k := semHook_kept ..)
    | with_reducible apply Kept.step (k := State.writeCore_kept ..)

theorem execSemTake_kept (who) (i) (v) (s) : OutKept [.regs, .wins, .guards, .shadows, .sealRun, .fns, .out] s (execSemTake who i v s) := by
  unfold execSemTake
  repeat' first
    | exact Eq.refl true
    | with_reducible assumption
    | with_reducible apply Kept.ite
    | with_reducible apply Kept.refl
    | with_reducible apply OutKept.ite
    | with_reducible apply OutKept.next
    | with_reducible apply OutKept.fault
    | with_reducible apply Kept.step (k := State.semWrite_kept ..)

theorem execSemRelease_kept (who) (i) (v) (s) : OutKept [.regs, .wins, .guards, .shadows, .sealRun, .fns, .out] s (execSemRelease who i v s) := by
  unfold execSemRelease
  repeat' first
    | exact Eq.refl true
    | with_reducible assumption
    | with_reducible apply Kept.ite
    | with_reducible apply Kept.refl
    | with_reducible apply OutKept.ite
    | with_reducible apply OutKept.next
    | with_reducible apply OutKept.fault
    | with_reducible apply Kept.step (k := State.semWrite_kept ..)

theorem execSemForce_kept (who) (i) (v) (s) : OutKept [.regs, .wins, .guards, .shadows, .sealRun, .fns, .out] s (execSemForce who i v s) := by
  unfold execSemForce
  repeat' first
    | exact Eq.refl true
    | with_reducible assumption
    | with_reducible apply Kept.ite
    | with_reducible apply Kept.refl
    | with_reducible apply OutKept.ite
    | with_reducible apply OutKept.next
    | with_reducible apply OutKept.fault
    | with_reducible apply Kept.step (k := State.semWrite_kept ..)

theorem State.semReset_kept (s) (who) (i) : Kept [.regs] s (State.semReset s who i) := by
  unfold State.semReset
  repeat' first
    | exact Eq.refl true
    | with_reducible assumption
    | with_reducible apply Kept.ite
    | with_reducible apply Kept.refl
    | with_reducible apply Kept.step (k := State.semPass_kept ..)
    | with_reducible apply Kept.step (k := State.setSem_kept ..)
    | with_reducible apply Kept.step (k := State.bump_kept ..)

theorem State.resetQueues_kept (s) (p) : Kept [.regs, .wins, .cmds, .queues] s (State.resetQueues s p) := by
  unfold State.resetQueues
  repeat' first
    | exact Eq.refl true
    | with_reducible assumption
    | with_reducible apply Kept.ite
    | with_reducible apply Kept.refl
    | (extract_lets +onlyGivenNames x; refine Kept.via x ?_ ?_; (on_goal 1 => (unfold x; clear x)); on_goal 2 => (intro hx; clear_value x))
    | (extract_lets +onlyGivenNames x; clear_value x)
    | with_reducible apply Kept.step (k := State.setReg_kept ..)
    | with_reducible refine Kept.foldl _ (fun _ _ => ?_) _ _
    | with_reducible apply Kept.step (k := Kept.foldl (m := [.regs, .wins, .cmds, .queues]) _ (fun _ _ => ?_) _ _)
    | split
    | with_reducible apply Kept.step (k := Kept.wins_cmds_queues _ _ _ _ (Store.set_wf 0 _ _ _))
    | with_reducible apply Kept.step (k := Kept.wins_cmds_queues _ _ _ _ (putBytes_wf _ _ _))
    | with_reducible apply Kept.step (k := Kept.wins_cmds_queues _ _ _ _ (Store.keep_wf 0 _ _))
    | with_reducible apply Kept.step (k := Kept.wins_cmds_queues _ _ _ _ (fun _ => rfl))
    | with_reducible apply Kept.step (k := Kept.wins_cmds_queues _ _ _ _ (outside_wf 0 _ _ _))

theorem State.closeGuards_kept (s) (who) : Kept [.guards] s (State.closeGuards s who) := by
  unfold State.closeGuards
  repeat' first
    | exact Eq.refl true
    | with_reducible assumption
    | with_reducible apply Kept.ite
    | with_reducible apply Kept.refl
    | with_reducible refine Kept.foldl _ (fun _ _ => ?_) _ _
    | with_reducible apply Kept.step (k := Kept.foldl (m := [.guards]) _ (fun _ _ => ?_) _ _)
    | split
    | with_reducible apply Kept.step (k := Kept.guards ..)

theorem State.loseImage_kept (s) (p) : Kept [.regs, .wins, .host, .castRun, .casting, .pours, .cmds, .queues, .fns, .evWay, .out] s (State.loseImage s p) := by
  unfold State.loseImage
  repeat' first
    | exact Eq.refl true
    | with_reducible assumption
    | with_reducible apply Kept.ite
    | with_reducible apply Kept.refl
    | with_reducible apply Kept.step (k := State.failLate_kept ..)
    | with_reducible apply Kept.step (k := State.failEarly_kept ..)
    | with_reducible refine Kept.foldl _ (fun _ _ => ?_) _ _
    | with_reducible apply Kept.step (k := Kept.foldl (m := [.regs, .wins, .host, .castRun, .casting, .pours, .cmds, .queues, .fns, .evWay, .out]) _ (fun _ _ => ?_) _ _)
    | split

theorem State.resetPort_kept (s) (p) : Kept (.regs :: .wins :: .guards :: .host :: .net :: .ports :: .streams :: .castRun :: .casting :: .pours :: .cmds :: .queues :: .fns :: .reports :: .spdm :: .evWay :: .out :: []) s (State.resetPort s p) := by
  unfold State.resetPort
  repeat' first
    | exact Eq.refl true
    | with_reducible assumption
    | with_reducible apply Kept.ite
    | with_reducible apply Kept.refl
    | (extract_lets +onlyGivenNames x; refine Kept.via x ?_ ?_; (on_goal 1 => (unfold x; clear x)); on_goal 2 => (intro hx; clear_value x))
    | (extract_lets +onlyGivenNames x; clear_value x)
    | with_reducible apply Kept.step (k := State.loseImage_kept ..)
    | with_reducible apply Kept.step (k := State.closeGuards_kept ..)
    | with_reducible apply Kept.step (k := State.resetQueues_kept ..)
    | with_reducible apply Kept.step (k := State.semReset_kept ..)
    | with_reducible refine Kept.step ?_ (State.cancelStream_kept (by assumption)) ?_
    | with_reducible apply Kept.step (k := State.cancelStream_keptP ..)
    | with_reducible apply Kept.step (k := State.raise_kept ..)
    | with_reducible refine Kept.foldl _ (fun _ _ => ?_) _ _
    | with_reducible apply Kept.step (k := Kept.foldl (m := (.regs :: .wins :: .guards :: .host :: .net :: .ports :: .streams :: .castRun :: .casting :: .pours :: .cmds :: .queues :: .fns :: .reports :: .spdm :: .evWay :: .out :: [])) _ (fun _ _ => ?_) _ _)
    | split
    | with_reducible apply Kept.step (k := Kept.fns_spdm ..)

theorem execPortReset_kept (port) (cause) (s) : OutKept (.regs :: .wins :: .guards :: .host :: .net :: .ports :: .streams :: .castRun :: .casting :: .pours :: .cmds :: .queues :: .fns :: .reports :: .spdm :: .evWay :: .boot :: .out :: []) s (execPortReset port cause s) := by
  unfold execPortReset
  repeat' first
    | exact Eq.refl true
    | with_reducible assumption
    | with_reducible apply Kept.ite
    | with_reducible apply Kept.refl
    | (extract_lets +onlyGivenNames x; refine OutKept.via x ?_ ?_; (on_goal 1 => (unfold x; clear x)); on_goal 2 => (intro hx; clear_value x))
    | (extract_lets +onlyGivenNames x; clear_value x)
    | with_reducible apply OutKept.ite
    | with_reducible apply OutKept.next
    | with_reducible apply OutKept.fault
    | with_reducible apply Kept.step (k := State.resetPort_kept ..)
    | with_reducible apply Kept.step (k := State.raise_kept ..)
    | with_reducible apply Kept.step (k := State.setReg_kept ..)
    | with_reducible refine Kept.foldl _ (fun _ _ => ?_) _ _
    | with_reducible apply Kept.step (k := Kept.foldl (m := (.regs :: .wins :: .guards :: .host :: .net :: .ports :: .streams :: .castRun :: .casting :: .pours :: .cmds :: .queues :: .fns :: .reports :: .spdm :: .evWay :: .boot :: .out :: [])) _ (fun _ _ => ?_) _ _)
    | split
    | with_reducible apply Kept.step (k := Kept.boot ..)

theorem execPerstDeassert_kept (port) (s) : OutKept [.boot] s (execPerstDeassert port s) := by
  unfold execPerstDeassert
  repeat' first
    | exact Eq.refl true
    | with_reducible assumption
    | with_reducible apply Kept.ite
    | with_reducible apply Kept.refl
    | (extract_lets +onlyGivenNames x; clear_value x)
    | with_reducible apply OutKept.ite
    | with_reducible apply OutKept.next
    | with_reducible apply OutKept.fault
    | with_reducible refine Kept.foldl _ (fun _ _ => ?_) _ _
    | with_reducible apply Kept.step (k := Kept.foldl (m := [.boot]) _ (fun _ _ => ?_) _ _)
    | split
    | with_reducible apply Kept.step (k := Kept.boot ..)

theorem execPcieLinkTrained_kept (port) (rate) (width) (flit) (s) : OutKept [.regs, .fns, .out] s (execPcieLinkTrained port rate width flit s) := by
  unfold execPcieLinkTrained
  repeat' first
    | exact Eq.refl true
    | with_reducible assumption
    | with_reducible apply Kept.ite
    | with_reducible apply Kept.refl
    | (extract_lets +onlyGivenNames x; refine OutKept.via x ?_ ?_; (on_goal 1 => (unfold x; clear x)); on_goal 2 => (intro hx; clear_value x))
    | (extract_lets +onlyGivenNames x; clear_value x)
    | with_reducible apply OutKept.ite
    | with_reducible apply OutKept.next
    | with_reducible apply OutKept.fault
    | with_reducible apply Kept.step (k := State.raise_kept ..)
    | with_reducible apply Kept.step (k := State.setReg_kept ..)

theorem State.aperWake_kept (s) (a) : Kept [.fresh, .regs, .pool, .peat, .poolBad, .peatBad, .tasks, .crus, .slots, .probes, .rx, .ramps, .khz, .deferred] s (State.aperWake s a) := by
  unfold State.aperWake
  repeat' first
    | exact Eq.refl true
    | with_reducible assumption
    | with_reducible apply Kept.ite
    | with_reducible apply Kept.refl
    | with_reducible apply Kept.step (k := State.domForce_kept ..)
    | with_reducible refine Kept.foldl _ (fun _ _ => ?_) _ _

theorem State.aperRead_keptP (s) (a) : Kept [.fresh, .regs, .banks, .fns, .evWay, .out] s (State.aperRead s a).2 := by
  unfold State.aperRead
  repeat' first
    | exact Eq.refl true
    | with_reducible assumption
    | with_reducible apply Kept.ite
    | with_reducible apply Kept.refl
    | with_reducible refine Kept.step ?_ (State.mireServeRead_kept (by assumption)) ?_
    | with_reducible apply Kept.step (k := State.mireServeRead_keptP ..)
    | with_reducible apply Kept.step (k := State.peatEcc_kept ..)
    | with_reducible apply Kept.step (k := State.countPeatRead_kept ..)
    | with_reducible refine Kept.foldl _ (fun _ _ => ?_) _ _
    | with_reducible apply Kept.step (k := Kept.foldl (m := [.fresh, .regs, .banks, .fns, .evWay, .out]) _ (fun _ _ => ?_) _ _)
    | split
theorem State.aperRead_kept {s a zz tt} (h : State.aperRead s a = (zz, tt)) : Kept [.fresh, .regs, .banks, .fns, .evWay, .out] s tt := by
  have := State.aperRead_keptP s a
  rw [h] at this
  exact this

theorem State.aperReadAll_keptP (s) (a0) : Kept [.fresh, .regs, .banks, .fns, .evWay, .out] s (State.aperReadAll s a0).2 := by
  induction a0 generalizing s with
  | nil => exact Kept.refl _ _
  | cons b r ih =>
    unfold State.aperReadAll
    repeat' first
      | exact Eq.refl true
      | with_reducible assumption
      | with_reducible apply Kept.ite
      | with_reducible apply Kept.refl
      | with_reducible apply Kept.step (k := ih ..)
      | with_reducible refine Kept.step ?_ (State.aperRead_kept (by assumption)) ?_
      | with_reducible apply Kept.step (k := State.aperRead_keptP ..)
theorem State.aperReadAll_kept {s a0 zz tt} (h : State.aperReadAll s a0 = (zz, tt)) : Kept [.fresh, .regs, .banks, .fns, .evWay, .out] s tt := by
  have := State.aperReadAll_keptP s a0
  rw [h] at this
  exact this

theorem execApertureRead_kept (port) (off) (len) (s) : OutKept (.fresh :: .regs :: .pool :: .peat :: .poolBad :: .peatBad :: .tasks :: .crus :: .slots :: .probes :: .rx :: .banks :: .fns :: .evWay :: .ramps :: .khz :: .deferred :: .out :: []) s (execApertureRead port off len s) := by
  unfold execApertureRead
  repeat' first
    | exact Eq.refl true
    | with_reducible assumption
    | with_reducible apply Kept.ite
    | with_reducible apply Kept.refl
    | (extract_lets +onlyGivenNames x; clear_value x)
    | with_reducible apply OutKept.ite
    | with_reducible apply OutKept.next
    | with_reducible apply OutKept.fault
    | with_reducible refine Kept.step ?_ (State.aperReadAll_kept (by assumption)) ?_
    | with_reducible apply Kept.step (k := State.aperReadAll_keptP ..)
    | with_reducible apply Kept.step (k := State.aperWake_kept ..)
    | with_reducible apply Kept.step (k := State.send_kept ..)
    | with_reducible apply Kept.step (k := State.bump_kept ..)
    | with_reducible refine Kept.foldl _ (fun _ _ => ?_) _ _
    | with_reducible apply Kept.step (k := Kept.foldl (m := (.fresh :: .regs :: .pool :: .peat :: .poolBad :: .peatBad :: .tasks :: .crus :: .slots :: .probes :: .rx :: .banks :: .fns :: .evWay :: .ramps :: .khz :: .deferred :: .out :: [])) _ (fun _ _ => ?_) _ _)
    | split

theorem State.aperWriteAll_kept (s) (bs) (a0) : Kept [.regs, .peat, .mire, .peatBad, .mireBad, .banks, .fns, .out] s (State.aperWriteAll s bs a0) := by
  induction a0 generalizing s bs with
  | nil => exact Kept.refl _ _
  | cons b r ih =>
    unfold State.aperWriteAll
    repeat' first
      | exact Eq.refl true
      | with_reducible assumption
      | with_reducible apply Kept.ite
      | with_reducible apply Kept.refl
      | (extract_lets +onlyGivenNames x; refine Kept.via x ?_ ?_; (on_goal 1 => (unfold x; clear x)); on_goal 2 => (intro hx; clear_value x))
      | (extract_lets +onlyGivenNames x; clear_value x)
      | with_reducible apply Kept.step (k := ih ..)
      | with_reducible refine Kept.step ?_ (State.mireServeWrite_kept (by assumption)) ?_
      | with_reducible apply Kept.step (k := State.mireServeWrite_keptP ..)
      | with_reducible apply Kept.step (k := State.writePeat_kept ..)

theorem execApertureWrite_kept (port) (off) (bs) (s) : OutKept (.fresh :: .regs :: .pool :: .peat :: .mire :: .poolBad :: .peatBad :: .mireBad :: .tasks :: .crus :: .slots :: .probes :: .rx :: .banks :: .fns :: .ramps :: .khz :: .deferred :: .out :: []) s (execApertureWrite port off bs s) := by
  unfold execApertureWrite
  repeat' first
    | exact Eq.refl true
    | with_reducible assumption
    | with_reducible apply Kept.ite
    | with_reducible apply Kept.refl
    | (extract_lets +onlyGivenNames x; clear_value x)
    | with_reducible apply OutKept.ite
    | with_reducible apply OutKept.next
    | with_reducible apply OutKept.fault
    | with_reducible apply Kept.step (k := State.aperWriteAll_kept ..)
    | with_reducible apply Kept.step (k := State.aperWake_kept ..)
    | with_reducible refine Kept.foldl _ (fun _ _ => ?_) _ _

theorem State.egressSend_kept (s) (e) (k) : Kept [.regs, .egress, .fns, .out] s (State.egressSend s e k) := by
  unfold State.egressSend
  repeat' first
    | exact Eq.refl true
    | with_reducible assumption
    | with_reducible apply Kept.ite
    | with_reducible apply Kept.refl
    | (extract_lets +onlyGivenNames x; refine Kept.via x ?_ ?_; (on_goal 1 => (unfold x; clear x)); on_goal 2 => (intro hx; clear_value x))
    | (extract_lets +onlyGivenNames x; clear_value x)
    | with_reducible apply Kept.step (k := State.setEgress_kept ..)
    | with_reducible apply Kept.step (k := State.egressDrop_kept ..)
    | with_reducible apply Kept.step (k := State.send_kept ..)
    | with_reducible apply Kept.step (k := State.bump_kept ..)
    | with_reducible apply Kept.step (k := State.setRf_kept ..)
    | with_reducible refine Kept.foldl _ (fun _ _ => ?_) _ _
    | with_reducible apply Kept.step (k := Kept.foldl (m := [.regs, .egress, .fns, .out]) _ (fun _ _ => ?_) _ _)

theorem execEgressDatagram_kept (eth) (endpoint) (s) : OutKept [.regs, .egress, .fns, .out] s (execEgressDatagram eth endpoint s) := by
  unfold execEgressDatagram
  repeat' first
    | exact Eq.refl true
    | with_reducible assumption
    | with_reducible apply Kept.ite
    | with_reducible apply Kept.refl
    | with_reducible apply OutKept.ite
    | with_reducible apply OutKept.next
    | with_reducible apply OutKept.fault
    | with_reducible apply Kept.step (k := State.egressSend_kept ..)

theorem execEgressFlushTimeout_kept (eth) (endpoint) (s) : OutKept [.regs, .egress, .fns, .out] s (execEgressFlushTimeout eth endpoint s) := by
  unfold execEgressFlushTimeout
  repeat' first
    | exact Eq.refl true
    | with_reducible assumption
    | with_reducible apply Kept.ite
    | with_reducible apply Kept.refl
    | (extract_lets +onlyGivenNames x; clear_value x)
    | with_reducible apply OutKept.ite
    | with_reducible apply OutKept.next
    | with_reducible apply OutKept.fault
    | with_reducible apply Kept.step (k := State.egressSend_kept ..)

/-! ### Routes -/

theorem State.routesTo_kept (s) (tree) (ok) (lv) (dest) : Kept [.routes] s (State.routesTo s tree ok lv dest) := by
  unfold State.routesTo
  repeat' first
    | exact Eq.refl true
    | with_reducible assumption
    | with_reducible apply Kept.ite
    | with_reducible apply Kept.refl
    | (extract_lets +onlyGivenNames x; clear_value x)
    | with_reducible refine Kept.foldl _ (fun _ _ => ?_) _ _
    | with_reducible apply Kept.step (k := Kept.foldl (m := [.routes]) _ (fun _ _ => ?_) _ _)
    | split
    | with_reducible apply Kept.step (k := Kept.routes ..)

theorem State.setRoutes_kept (s) (tree) (ok) : Kept [.routes] s (State.setRoutes s tree ok) := by
  unfold State.setRoutes
  repeat' first
    | exact Eq.refl true
    | with_reducible assumption
    | with_reducible apply Kept.ite
    | with_reducible apply Kept.refl
    | (extract_lets +onlyGivenNames x; clear_value x)
    | with_reducible apply Kept.step (k := State.routesTo_kept ..)
    | with_reducible refine Kept.foldl _ (fun _ _ => ?_) _ _
    | with_reducible apply Kept.step (k := Kept.foldl (m := [.routes]) _ (fun _ _ => ?_) _ _)
    | split
    | with_reducible apply Kept.step (k := Kept.routes ..)

theorem State.polderRoutes_kept (s) (p) : Kept [.routes] s (State.polderRoutes s p) := by
  unfold State.polderRoutes
  repeat' first
    | exact Eq.refl true
    | with_reducible assumption
    | with_reducible apply Kept.ite
    | with_reducible apply Kept.refl
    | with_reducible apply Kept.step (k := State.setRoutes_kept ..)

theorem State.engineRoutes_kept (s) : Kept [.routes] s (State.engineRoutes s) := by
  unfold State.engineRoutes
  repeat' first
    | exact Eq.refl true
    | with_reducible assumption
    | with_reducible apply Kept.ite
    | with_reducible apply Kept.refl
    | with_reducible apply Kept.step (k := State.setRoutes_kept ..)

theorem State.moveGateways_kept (s) (dead) : Kept [.regs] s (State.moveGateways s dead) := by
  unfold State.moveGateways
  repeat' first
    | exact Eq.refl true
    | with_reducible assumption
    | with_reducible apply Kept.ite
    | with_reducible apply Kept.refl
    | with_reducible apply Kept.step (k := State.setRf_kept ..)
    | with_reducible refine Kept.foldl _ (fun _ _ => ?_) _ _
    | with_reducible apply Kept.step (k := Kept.foldl (m := [.regs]) _ (fun _ _ => ?_) _ _)
    | split

theorem State.fenceToward_kept (s) (i) (on) : Kept [.regs, .dieFence] s (State.fenceToward s i on) := by
  unfold State.fenceToward
  repeat' first
    | exact Eq.refl true
    | with_reducible assumption
    | with_reducible apply Kept.ite
    | with_reducible apply Kept.refl
    | with_reducible apply Kept.step (k := State.setRb_kept ..)
    | with_reducible refine Kept.foldl _ (fun _ _ => ?_) _ _
    | with_reducible apply Kept.step (k := Kept.foldl (m := [.regs, .dieFence]) _ (fun _ _ => ?_) _ _)
    | split
    | with_reducible apply Kept.step (k := Kept.dieFence ..)

theorem State.startPorts_kept (s) : Kept [.ports] s (State.startPorts s) := by
  unfold State.startPorts
  repeat' first
    | exact Eq.refl true
    | with_reducible assumption
    | with_reducible apply Kept.ite
    | with_reducible apply Kept.refl
    | (extract_lets +onlyGivenNames x; clear_value x)
    | with_reducible apply Kept.step (k := State.setMeshPort_kept ..)
    | with_reducible refine Kept.foldl _ (fun _ _ => ?_) _ _

theorem State.openPorts_kept (s) (i) : Kept [.regs] s (State.openPorts s i) := by
  unfold State.openPorts
  repeat' first
    | exact Eq.refl true
    | with_reducible assumption
    | with_reducible apply Kept.ite
    | with_reducible apply Kept.refl
    | with_reducible apply Kept.step (k := State.setRb_kept ..)
    | with_reducible refine Kept.foldl _ (fun _ _ => ?_) _ _

/-! ### Mire -/

theorem State.pgFail_kept (s) (c) (cause) : Kept [.regs, .fns, .out] s (State.pgFail s c cause) := by
  unfold State.pgFail
  repeat' first
    | exact Eq.refl true
    | with_reducible assumption
    | with_reducible apply Kept.ite
    | with_reducible apply Kept.refl
    | (extract_lets +onlyGivenNames x; refine Kept.via x ?_ ?_; (on_goal 1 => (unfold x; clear x)); on_goal 2 => (intro hx; clear_value x))
    | (extract_lets +onlyGivenNames x; clear_value x)
    | with_reducible apply Kept.step (k := State.raise_kept ..)
    | with_reducible apply Kept.step (k := State.bump_kept ..)
    | with_reducible apply Kept.step (k := State.setReg_kept ..)

theorem State.pgDone_kept (s) (c) : Kept [.regs] s (State.pgDone s c) := by
  unfold State.pgDone
  repeat' first
    | exact Eq.refl true
    | with_reducible assumption
    | with_reducible apply Kept.ite
    | with_reducible apply Kept.refl
    | with_reducible apply Kept.step (k := State.bump_kept ..)

theorem pgGoHook_kept (w) (die) : Kept [.regs, .pgQueue, .pgPushed, .fns, .out] w.st (pgGoHook w die) := by
  unfold pgGoHook
  repeat' first
    | exact Eq.refl true
    | with_reducible assumption
    | with_reducible apply Kept.ite
    | with_reducible apply Kept.refl
    | with_reducible apply Kept.step (k := State.pgFail_kept ..)
    | with_reducible apply Kept.step (k := State.raise_kept ..)
    | with_reducible apply Kept.step (k := State.setReg_kept ..)
    | with_reducible refine Kept.foldl _ (fun _ _ => ?_) _ _
    | with_reducible apply Kept.step (k := Kept.foldl (m := [.regs, .pgQueue, .pgPushed, .fns, .out]) _ (fun _ _ => ?_) _ _)
    | split
    | with_reducible apply Kept.step (k := Kept.pgQueue_pgPushed ..)

theorem State.pgPush_kept (s) (who) (die) (op) (v) : Kept [.regs, .wins, .guards, .shadows, .sealRun, .pgQueue, .pgPushed, .fns, .out] s (State.pgPush s who die op v) := by
  unfold State.pgPush
  repeat' first
    | exact Eq.refl true
    | with_reducible assumption
    | with_reducible apply Kept.ite
    | with_reducible apply Kept.refl
    | with_reducible apply Kept.step (k := pgGoHook_kept ..)
    | with_reducible apply Kept.step (k := State.writeCore_kept ..)

theorem execPgSpill_kept (who) (die) (v) (s) : OutKept [.regs, .wins, .guards, .shadows, .sealRun, .pgQueue, .pgPushed, .fns, .out] s (execPgSpill who die v s) := by
  unfold execPgSpill
  repeat' first
    | exact Eq.refl true
    | with_reducible assumption
    | with_reducible apply Kept.ite
    | with_reducible apply Kept.refl
    | with_reducible apply OutKept.ite
    | with_reducible apply OutKept.next
    | with_reducible apply OutKept.fault
    | with_reducible apply Kept.step (k := State.pgPush_kept ..)

theorem execPgFetch_kept (who) (die) (v) (s) : OutKept [.regs, .wins, .guards, .shadows, .sealRun, .pgQueue, .pgPushed, .fns, .out] s (execPgFetch who die v s) := by
  unfold execPgFetch
  repeat' first
    | exact Eq.refl true
    | with_reducible assumption
    | with_reducible apply Kept.ite
    | with_reducible apply Kept.refl
    | with_reducible apply OutKept.ite
    | with_reducible apply OutKept.next
    | with_reducible apply OutKept.fault
    | with_reducible apply Kept.step (k := State.pgPush_kept ..)

theorem execPgDrop_kept (who) (die) (v) (s) : OutKept [.regs, .wins, .guards, .shadows, .sealRun, .pgQueue, .pgPushed, .fns, .out] s (execPgDrop who die v s) := by
  unfold execPgDrop
  repeat' first
    | exact Eq.refl true
    | with_reducible assumption
    | with_reducible apply Kept.ite
    | with_reducible apply Kept.refl
    | with_reducible apply OutKept.ite
    | with_reducible apply OutKept.next
    | with_reducible apply OutKept.fault
    | with_reducible apply Kept.step (k := State.pgPush_kept ..)

theorem State.setMover_kept (s) (tile) (l) : Kept [.movers] s (State.setMover s tile l) := by
  unfold State.setMover
  repeat' first
    | exact Eq.refl true
    | with_reducible assumption
    | with_reducible apply Kept.ite
    | with_reducible apply Kept.refl
    | with_reducible refine Kept.foldl _ (fun _ _ => ?_) _ _
    | with_reducible apply Kept.step (k := Kept.foldl (m := [.movers]) _ (fun _ _ => ?_) _ _)
    | split
    | with_reducible apply Kept.step (k := Kept.movers ..)

theorem State.setPhase_kept (s) (c) (ph) (drain) : Kept [.movers] s (State.setPhase s c ph drain) := by
  unfold State.setPhase
  repeat' first
    | exact Eq.refl true
    | with_reducible assumption
    | with_reducible apply Kept.ite
    | with_reducible apply Kept.refl
    | with_reducible apply Kept.step (k := State.setMover_kept ..)

theorem State.dropCmd_kept (s) (c) : Kept [.movers] s (State.dropCmd s c) := by
  unfold State.dropCmd
  repeat' first
    | exact Eq.refl true
    | with_reducible assumption
    | with_reducible apply Kept.ite
    | with_reducible apply Kept.refl
    | with_reducible apply Kept.step (k := State.setMover_kept ..)

theorem State.pgStart_kept (s) (c) : Kept [.regs, .peat, .mire, .peatBad, .mireBad, .movers, .banks, .fns, .evWay, .out] s (State.pgStart s c) := by
  unfold State.pgStart
  repeat' first
    | exact Eq.refl true
    | with_reducible assumption
    | with_reducible apply Kept.ite
    | with_reducible apply Kept.refl
    | with_reducible apply Kept.step (k := State.dropCmd_kept ..)
    | with_reducible apply Kept.step (k := State.setPhase_kept ..)
    | with_reducible apply Kept.step (k := State.pgDone_kept ..)
    | with_reducible apply Kept.step (k := State.pgFail_kept ..)
    | with_reducible apply Kept.step (k := State.setPageEntry_kept ..)

theorem State.pgNext_kept (s) (tile) (a0) : Kept [.regs, .peat, .mire, .peatBad, .mireBad, .movers, .banks, .fns, .evWay, .out] s (State.pgNext s tile a0) := by
  induction a0 generalizing s tile with
  | zero => exact Kept.refl _ _
  | succ n ih =>
    unfold State.pgNext
    repeat' first
      | exact Eq.refl true
      | with_reducible assumption
      | with_reducible apply Kept.ite
      | with_reducible apply Kept.refl
      | with_reducible apply Kept.step (k := ih ..)
      | with_reducible apply Kept.step (k := State.pgStart_kept ..)
      | with_reducible refine Kept.foldl _ (fun _ _ => ?_) _ _
      | with_reducible apply Kept.step (k := Kept.foldl (m := [.regs, .peat, .mire, .peatBad, .mireBad, .movers, .banks, .fns, .evWay, .out]) _ (fun _ _ => ?_) _ _)
      | split

theorem State.pgAll_kept (s) (tile) : Kept [.regs, .peat, .mire, .peatBad, .mireBad, .movers, .banks, .fns, .evWay, .out] s (State.pgAll s tile) := by
  unfold State.pgAll
  repeat' first
    | exact Eq.refl true
    | with_reducible assumption
    | with_reducible apply Kept.ite
    | with_reducible apply Kept.refl
    | with_reducible apply Kept.step (k := State.pgNext_kept ..)

theorem State.pgFinish_kept (s) (c) : Kept [.regs, .peat, .mire, .peatBad, .mireBad, .movers, .banks, .fns, .evWay, .out] s (State.pgFinish s c) := by
  unfold State.pgFinish
  repeat' first
    | exact Eq.refl true
    | with_reducible assumption
    | with_reducible apply Kept.ite
    | with_reducible apply Kept.refl
    | with_reducible apply Kept.step (k := State.pgAll_kept ..)
    | with_reducible apply Kept.step (k := State.dropCmd_kept ..)
    | with_reducible apply Kept.step (k := State.pgDone_kept ..)

theorem execPageCommandArrive_kept (die) (s) : OutKept [.regs, .peat, .mire, .peatBad, .mireBad, .pgQueue, .movers, .banks, .fns, .evWay, .out] s (execPageCommandArrive die s) := by
  unfold execPageCommandArrive
  repeat' first
    | exact Eq.refl true
    | with_reducible assumption
    | with_reducible apply Kept.ite
    | with_reducible apply Kept.refl
    | (extract_lets +onlyGivenNames x; refine Kept.fn x ?_; unfold x; clear x)
    | (extract_lets +onlyGivenNames x; clear_value x)
    | with_reducible apply OutKept.ite
    | with_reducible apply OutKept.next
    | with_reducible apply OutKept.fault
    | with_reducible apply Kept.step (k := State.pgAll_kept ..)
    | with_reducible apply Kept.step (k := State.setMover_kept ..)
    | with_reducible apply Kept.step (k := State.pgFail_kept ..)
    | with_reducible refine Kept.foldl _ (fun _ _ => ?_) _ _
    | with_reducible apply Kept.step (k := Kept.foldl (m := [.regs, .peat, .mire, .peatBad, .mireBad, .pgQueue, .movers, .banks, .fns, .evWay, .out]) _ (fun _ _ => ?_) _ _)
    | split
    | with_reducible apply Kept.step (k := Kept.pgQueue ..)

theorem execAttentionDrainEnd_kept (tile) (entry) (s) : OutKept [.regs, .peat, .mire, .peatBad, .mireBad, .movers, .banks, .fns, .evWay, .out] s (execAttentionDrainEnd tile entry s) := by
  unfold execAttentionDrainEnd
  repeat' first
    | exact Eq.refl true
    | with_reducible assumption
    | with_reducible apply Kept.ite
    | with_reducible apply Kept.refl
    | with_reducible apply OutKept.ite
    | with_reducible apply OutKept.next
    | with_reducible apply OutKept.fault
    | with_reducible apply Kept.step (k := State.pgFinish_kept ..)
    | with_reducible apply Kept.step (k := State.setPhase_kept ..)
    | with_reducible refine Kept.foldl _ (fun _ _ => ?_) _ _
    | with_reducible apply Kept.step (k := Kept.foldl (m := [.regs, .peat, .mire, .peatBad, .mireBad, .movers, .banks, .fns, .evWay, .out]) _ (fun _ _ => ?_) _ _)
    | split

theorem execSpillCopyDone_kept (tile) (entry) (s) : OutKept [.regs, .peat, .mire, .peatBad, .mireBad, .movers, .banks, .fns, .evWay, .out] s (execSpillCopyDone tile entry s) := by
  unfold execSpillCopyDone
  repeat' first
    | exact Eq.refl true
    | with_reducible assumption
    | with_reducible apply Kept.ite
    | with_reducible apply Kept.refl
    | (extract_lets +onlyGivenNames x; refine OutKept.via x ?_ ?_; (on_goal 1 => (unfold x; clear x)); on_goal 2 => (intro hx; clear_value x))
    | (extract_lets +onlyGivenNames x; clear_value x)
    | with_reducible apply OutKept.ite
    | with_reducible apply OutKept.next
    | with_reducible apply OutKept.fault
    | with_reducible apply Kept.step (k := State.pgFinish_kept ..)
    | with_reducible apply Kept.step (k := State.dropCmd_kept ..)
    | with_reducible apply Kept.step (k := State.setPhase_kept ..)
    | with_reducible apply Kept.step (k := State.pgDone_kept ..)
    | with_reducible apply Kept.step (k := State.setPageEntry_kept ..)
    | with_reducible refine Kept.step ?_ (State.mireServeWrite_kept (by assumption)) ?_
    | with_reducible apply Kept.step (k := State.mireServeWrite_keptP ..)
    | with_reducible apply Kept.step (k := State.countPeatRead_kept ..)
    | with_reducible refine Kept.foldl _ (fun _ _ => ?_) _ _
    | with_reducible apply Kept.step (k := Kept.foldl (m := [.regs, .peat, .mire, .peatBad, .mireBad, .movers, .banks, .fns, .evWay, .out]) _ (fun _ _ => ?_) _ _)
    | split

theorem State.pgRefused_kept (s) (c) : Kept [.regs, .peat, .mire, .peatBad, .mireBad, .movers, .banks, .fns, .evWay, .out] s (State.pgRefused s c) := by
  unfold State.pgRefused
  repeat' first
    | exact Eq.refl true
    | with_reducible assumption
    | with_reducible apply Kept.ite
    | with_reducible apply Kept.refl
    | (extract_lets +onlyGivenNames x; clear_value x)
    | with_reducible apply Kept.step (k := State.pgAll_kept ..)
    | with_reducible apply Kept.step (k := State.dropCmd_kept ..)
    | with_reducible apply Kept.step (k := State.pgFail_kept ..)
    | with_reducible apply Kept.step (k := State.setPageEntry_kept ..)

theorem execFetchCopyDone_kept (tile) (entry) (s) : OutKept [.regs, .peat, .mire, .peatBad, .mireBad, .movers, .banks, .fns, .evWay, .out] s (execFetchCopyDone tile entry s) := by
  unfold execFetchCopyDone
  repeat' first
    | exact Eq.refl true
    | with_reducible assumption
    | with_reducible apply Kept.ite
    | with_reducible apply Kept.refl
    | (extract_lets +onlyGivenNames x; clear_value x)
    | with_reducible apply OutKept.ite
    | with_reducible apply OutKept.next
    | with_reducible apply OutKept.fault
    | with_reducible apply Kept.step (k := State.pgRefused_kept ..)
    | with_reducible apply Kept.step (k := State.pgFinish_kept ..)
    | with_reducible apply Kept.step (k := State.fillPeat_kept ..)
    | with_reducible apply Kept.step (k := State.setPageEntry_kept ..)
    | with_reducible refine Kept.step ?_ (State.mireServeRead_kept (by assumption)) ?_
    | with_reducible apply Kept.step (k := State.mireServeRead_keptP ..)
    | with_reducible refine Kept.foldl _ (fun _ _ => ?_) _ _
    | with_reducible apply Kept.step (k := Kept.foldl (m := [.regs, .peat, .mire, .peatBad, .mireBad, .movers, .banks, .fns, .evWay, .out]) _ (fun _ _ => ?_) _ _)
    | split

theorem execFetchReadRefused_kept (tile) (entry) (s) : OutKept [.regs, .peat, .mire, .peatBad, .mireBad, .movers, .banks, .fns, .evWay, .out] s (execFetchReadRefused tile entry s) := by
  unfold execFetchReadRefused
  repeat' first
    | exact Eq.refl true
    | with_reducible assumption
    | with_reducible apply Kept.ite
    | with_reducible apply Kept.refl
    | with_reducible apply OutKept.ite
    | with_reducible apply OutKept.next
    | with_reducible apply OutKept.fault
    | with_reducible apply Kept.step (k := State.pgRefused_kept ..)
    | with_reducible refine Kept.foldl _ (fun _ _ => ?_) _ _
    | with_reducible apply Kept.step (k := Kept.foldl (m := [.regs, .peat, .mire, .peatBad, .mireBad, .movers, .banks, .fns, .evWay, .out]) _ (fun _ _ => ?_) _ _)
    | split

theorem State.refresh_kept (s) (j) : Kept [.regs, .fns, .out] s (State.refresh s j) := by
  unfold State.refresh
  repeat' first
    | exact Eq.refl true
    | with_reducible assumption
    | with_reducible apply Kept.ite
    | with_reducible apply Kept.refl
    | with_reducible apply Kept.step (k := State.raise_kept ..)
    | with_reducible apply Kept.step (k := State.setRb_kept ..)

theorem execMireRefresh_kept (stack) (s) : OutKept [.regs, .fns, .out] s (execMireRefresh stack s) := by
  unfold execMireRefresh
  repeat' first
    | exact Eq.refl true
    | with_reducible assumption
    | with_reducible apply Kept.ite
    | with_reducible apply Kept.refl
    | with_reducible apply OutKept.ite
    | with_reducible apply OutKept.next
    | with_reducible apply OutKept.fault
    | with_reducible apply Kept.step (k := State.refresh_kept ..)

theorem execRefreshManagement_kept (stack) (s) : OutKept [.regs, .banks] s (execRefreshManagement stack s) := by
  unfold execRefreshManagement
  repeat' first
    | exact Eq.refl true
    | with_reducible assumption
    | with_reducible apply Kept.ite
    | with_reducible apply Kept.refl
    | (extract_lets +onlyGivenNames x; refine Kept.fn x ?_; unfold x; clear x)
    | (extract_lets +onlyGivenNames x; clear_value x)
    | with_reducible apply OutKept.ite
    | with_reducible apply OutKept.next
    | with_reducible apply OutKept.fault
    | with_reducible apply Kept.step (k := State.bump_kept ..)
    | with_reducible refine Kept.foldl _ (fun _ _ => ?_) _ _
    | with_reducible apply Kept.step (k := Kept.foldl (m := [.regs, .banks]) _ (fun _ _ => ?_) _ _)
    | split
    | with_reducible apply Kept.step (k := Kept.banks ..)

theorem execOdeccPoll_kept (stack) (n) (s) : OutKept [.regs] s (execOdeccPoll stack n s) := by
  unfold execOdeccPoll
  repeat' first
    | exact Eq.refl true
    | with_reducible assumption
    | with_reducible apply Kept.ite
    | with_reducible apply Kept.refl
    | with_reducible apply OutKept.ite
    | with_reducible apply OutKept.next
    | with_reducible apply OutKept.fault
    | with_reducible apply Kept.step (k := State.bump_kept ..)

theorem execMireScrub_kept (stack) (g) (e) (s) : OutKept [.regs, .mireBad, .scrubs, .fns, .evWay, .out] s (execMireScrub stack g e s) := by
  unfold execMireScrub
  repeat' first
    | exact Eq.refl true
    | with_reducible assumption
    | with_reducible apply Kept.ite
    | with_reducible apply Kept.refl
    | (extract_lets +onlyGivenNames x; refine OutKept.via x ?_ ?_; (on_goal 1 => (unfold x; clear x)); on_goal 2 => (intro hx; clear_value x))
    | (extract_lets +onlyGivenNames x; clear_value x)
    | with_reducible apply OutKept.ite
    | with_reducible apply OutKept.next
    | with_reducible apply OutKept.fault
    | with_reducible apply Kept.step (k := State.mireEcc_kept ..)
    | with_reducible refine Kept.step ?_ (State.scrubStep_kept (by assumption)) ?_
    | with_reducible apply Kept.step (k := State.scrubStep_keptP ..)
    | with_reducible apply Kept.step (k := State.bump_kept ..)
    | with_reducible refine Kept.foldl _ (fun _ _ => ?_) _ _
    | with_reducible apply Kept.step (k := Kept.foldl (m := [.regs, .mireBad, .scrubs, .fns, .evWay, .out]) _ (fun _ _ => ?_) _ _)
    | split
    | with_reducible apply Kept.step (k := Kept.mireBad ..)

theorem execMireScrubStarve_kept (_stack) (s) : OutKept [] s (execMireScrubStarve _stack s) := by
  unfold execMireScrubStarve
  repeat' first
    | exact Eq.refl true
    | with_reducible assumption
    | with_reducible apply Kept.ite
    | with_reducible apply Kept.refl
    | with_reducible apply OutKept.ite
    | with_reducible apply OutKept.next

theorem execMireReqAge_kept (_stack) (_pc) (s) : OutKept [] s (execMireReqAge _stack _pc s) := by
  unfold execMireReqAge
  repeat' first
    | exact Eq.refl true
    | with_reducible assumption
    | with_reducible apply Kept.ite
    | with_reducible apply Kept.refl
    | with_reducible apply OutKept.ite
    | with_reducible apply OutKept.next

theorem State.reportStack_kept (s) (j) : Kept [.regs, .fns, .reports, .out] s (State.reportStack s j) := by
  unfold State.reportStack
  repeat' first
    | exact Eq.refl true
    | with_reducible assumption
    | with_reducible apply Kept.ite
    | with_reducible apply Kept.refl
    | with_reducible apply Kept.step (k := State.report_kept ..)
    | with_reducible refine Kept.foldl _ (fun _ _ => ?_) _ _
    | with_reducible apply Kept.step (k := Kept.foldl (m := [.regs, .fns, .reports, .out]) _ (fun _ _ => ?_) _ _)
    | split
    | with_reducible apply Kept.step (k := Kept.reports ..)

theorem execStackSupplyFault_kept (stack) (s) : OutKept [.regs, .fns, .reports, .out] s (execStackSupplyFault stack s) := by
  unfold execStackSupplyFault
  repeat' first
    | exact Eq.refl true
    | with_reducible assumption
    | with_reducible apply Kept.ite
    | with_reducible apply Kept.refl
    | (extract_lets +onlyGivenNames x; clear_value x)
    | with_reducible apply OutKept.ite
    | with_reducible apply OutKept.next
    | with_reducible apply OutKept.fault
    | with_reducible apply Kept.step (k := State.reportStack_kept ..)
    | with_reducible apply Kept.step (k := State.raise_kept ..)
    | with_reducible apply Kept.step (k := State.setRf_kept ..)

theorem execStackTempRead_kept (stack) (value) (s) : OutKept [.regs, .fns, .reports, .mon, .evWay, .sens, .out] s (execStackTempRead stack value s) := by
  unfold execStackTempRead
  repeat' first
    | exact Eq.refl true
    | with_reducible assumption
    | with_reducible apply Kept.ite
    | with_reducible apply Kept.refl
    | (extract_lets +onlyGivenNames x; refine OutKept.via x ?_ ?_; (on_goal 1 => (unfold x; clear x)); on_goal 2 => (intro hx; clear_value x))
    | (extract_lets +onlyGivenNames x; clear_value x)
    | with_reducible apply OutKept.ite
    | with_reducible apply OutKept.next
    | with_reducible apply OutKept.fault
    | with_reducible apply Kept.step (k := State.refresh_kept ..)
    | with_reducible apply Kept.step (k := State.sample_kept ..)
    | with_reducible apply Kept.step (k := State.setRf_kept ..)
    | with_reducible refine Kept.foldl _ (fun _ _ => ?_) _ _
    | with_reducible apply Kept.step (k := Kept.foldl (m := [.regs, .fns, .reports, .mon, .evWay, .sens, .out]) _ (fun _ _ => ?_) _ _)
    | split

end Sys2Proof.Machine
end

