-- ==== Sys2Proof/Laws/KeptRest.lean ====
section
/-! SUPPORT. What the commands and operations of recasts, register pages, trust, loads, the module bus, packets and the step may change. -/
namespace Sys2Proof.Machine
set_option linter.unusedVariables false

/-! ### Recast -/

theorem State.logReport_kept (s) (r) (action) : Kept [.regs, .evWay] s (State.logReport s r action) := by
  unfold State.logReport
  repeat' first
    | exact Eq.refl true
    | with_reducible assumption
    | with_reducible apply Kept.ite
    | with_reducible apply Kept.refl
    | (extract_lets +onlyGivenNames x; refine Kept.via x ?_ ?_; (on_goal 1 => (unfold x; clear x)); on_goal 2 => (intro hx; clear_value x))
    | (extract_lets +onlyGivenNames x; clear_value x)
    | with_reducible apply Kept.step (k := State.log_kept ..)
    | with_reducible apply Kept.step (k := State.setRf_kept ..)

theorem State.setHeatState_kept (s) (p) (code) : Kept [.regs] s (State.setHeatState s p code) := by
  unfold State.setHeatState
  repeat' first
    | exact Eq.refl true
    | with_reducible assumption
    | with_reducible apply Kept.ite
    | with_reducible apply Kept.refl
    | with_reducible apply Kept.step (k := State.setRf_kept ..)
    | with_reducible refine Kept.foldl _ (fun _ _ => ?_) _ _

theorem State.fencePages_kept (s) (i) : Kept [.regs, .peat, .mire, .peatBad, .mireBad, .movers, .banks, .fns, .evWay, .out] s (State.fencePages s i) := by
  unfold State.fencePages
  repeat' first
    | exact Eq.refl true
    | with_reducible assumption
    | with_reducible apply Kept.ite
    | with_reducible apply Kept.refl
    | (extract_lets +onlyGivenNames x; refine Kept.via x ?_ ?_; (on_goal 1 => (unfold x; clear x)); on_goal 2 => (intro hx; clear_value x))
    | (extract_lets +onlyGivenNames x; clear_value x)
    | with_reducible apply Kept.step (k := State.dropCmd_kept ..)
    | with_reducible apply Kept.step (k := State.pgFail_kept ..)
    | with_reducible apply Kept.step (k := State.setPageEntry_kept ..)
    | with_reducible refine Kept.foldl _ (fun _ _ => ?_) _ _

theorem State.holdStream_kept (s) (n) : Kept [.streams] s (State.holdStream s n) := by
  unfold State.holdStream
  repeat' first
    | exact Eq.refl true
    | with_reducible assumption
    | with_reducible apply Kept.ite
    | with_reducible apply Kept.refl
    | with_reducible apply Kept.step (k := State.setStream_kept ..)

theorem State.fenceHeat_kept (s) (p) (r) (cause) (phase) : Kept [.regs, .peat, .mire, .peatBad, .mireBad, .rimEpoch, .movers, .banks, .streams, .pours, .fns, .evWay, .heats, .out] s (State.fenceHeat s p r cause phase) := by
  unfold State.fenceHeat
  repeat' first
    | exact Eq.refl true
    | with_reducible assumption
    | with_reducible apply Kept.ite
    | with_reducible apply Kept.refl
    | (extract_lets +onlyGivenNames x; refine Kept.via x ?_ ?_; (on_goal 1 => (unfold x; clear x)); on_goal 2 => (intro hx; clear_value x))
    | (extract_lets +onlyGivenNames x; clear_value x)
    | with_reducible apply Kept.step (k := State.holdStream_kept ..)
    | with_reducible apply Kept.step (k := State.fencePages_kept ..)
    | with_reducible apply Kept.step (k := State.fencePours_kept ..)
    | with_reducible apply Kept.step (k := State.setEpoch_kept ..)
    | with_reducible apply Kept.step (k := State.setHeat_kept ..)
    | with_reducible apply Kept.step (k := State.raise_kept ..)
    | with_reducible apply Kept.step (k := State.setFields_kept ..)
    | with_reducible refine Kept.foldl _ (fun _ _ => ?_) _ _
    | with_reducible apply Kept.step (k := Kept.foldl (m := [.regs, .peat, .mire, .peatBad, .mireBad, .rimEpoch, .movers, .banks, .streams, .pours, .fns, .evWay, .heats, .out]) _ (fun _ _ => ?_) _ _)

theorem State.retireTile_kept (s) (i) : Kept (.fresh :: .regs :: .pool :: .peat :: .poolBad :: .peatBad :: .tasks :: .crus :: .gates :: .slots :: .probes :: .rx :: .slotMap :: .dieFence :: .wmoves :: .rplaces :: .handRx :: .ramps :: .khz :: .deferred :: .retires :: []) s (State.retireTile s i) := by
  unfold State.retireTile
  repeat' first
    | exact Eq.refl true
    | with_reducible assumption
    | with_reducible apply Kept.ite
    | with_reducible apply Kept.refl
    | (extract_lets +onlyGivenNames x; refine Kept.via x ?_ ?_; (on_goal 1 => (unfold x; clear x)); on_goal 2 => (intro hx; clear_value x))
    | (extract_lets +onlyGivenNames x; clear_value x)
    | with_reducible apply Kept.step (k := State.fenceToward_kept ..)
    | with_reducible apply Kept.step (k := State.resetTile_kept ..)
    | with_reducible apply Kept.step (k := State.offDomains_kept ..)
    | with_reducible apply Kept.step (k := State.setTstate_kept ..)
    | with_reducible apply Kept.step (k := State.bump_kept ..)
    | with_reducible apply Kept.step (k := State.setRf_kept ..)
    | with_reducible refine Kept.foldl _ (fun _ _ => ?_) _ _
    | with_reducible apply Kept.step (k := Kept.foldl (m := (.fresh :: .regs :: .pool :: .peat :: .poolBad :: .peatBad :: .tasks :: .crus :: .gates :: .slots :: .probes :: .rx :: .slotMap :: .dieFence :: .wmoves :: .rplaces :: .handRx :: .ramps :: .khz :: .deferred :: .retires :: [])) _ (fun _ _ => ?_) _ _)
    | split
    | with_reducible apply Kept.step (k := Kept.slotMap ..)
    | with_reducible apply Kept.step (k := Kept.retires ..)

theorem State.faultStream_kept (s) (n) : Kept [.regs, .net, .ports, .streams, .fns, .reports, .out] s (State.faultStream s n) := by
  unfold State.faultStream
  repeat' first
    | exact Eq.refl true
    | with_reducible assumption
    | with_reducible apply Kept.ite
    | with_reducible apply Kept.refl
    | (extract_lets +onlyGivenNames x; clear_value x)
    | with_reducible apply Kept.step (k := State.drainStream_kept ..)
    | with_reducible apply Kept.step (k := State.setStream_kept ..)
    | with_reducible apply Kept.step (k := State.raise_kept ..)
    | with_reducible apply Kept.step (k := State.bump_kept ..)

theorem State.stopHeat_kept (s) (p) : Kept [.regs, .net, .ports, .streams, .beds, .places, .fns, .reports, .heats, .out] s (State.stopHeat s p) := by
  unfold State.stopHeat
  repeat' first
    | exact Eq.refl true
    | with_reducible assumption
    | with_reducible apply Kept.ite
    | with_reducible apply Kept.refl
    | (extract_lets +onlyGivenNames x; refine Kept.via x ?_ ?_; (on_goal 1 => (unfold x; clear x)); on_goal 2 => (intro hx; clear_value x))
    | (extract_lets +onlyGivenNames x; clear_value x)
    | with_reducible apply Kept.step (k := State.faultStream_kept ..)
    | with_reducible apply Kept.step (k := State.setHeatState_kept ..)
    | with_reducible apply Kept.step (k := State.resetBeds_kept ..)
    | with_reducible apply Kept.step (k := State.setHeat_kept ..)
    | with_reducible refine Kept.foldl _ (fun _ _ => ?_) _ _
    | with_reducible apply Kept.step (k := Kept.foldl (m := [.regs, .net, .ports, .streams, .beds, .places, .fns, .reports, .heats, .out]) _ (fun _ _ => ?_) _ _)

theorem State.assignSpare_kept (s) (p) (pol) (dead) (slot) : Kept (.fresh :: .regs :: .pool :: .peat :: .poolBad :: .peatBad :: .tasks :: .crus :: .slots :: .probes :: .rx :: .net :: .ports :: .streams :: .beds :: .places :: .fns :: .reports :: .ramps :: .khz :: .deferred :: .heats :: .out :: []) s (State.assignSpare s p pol dead slot) := by
  unfold State.assignSpare
  repeat' first
    | exact Eq.refl true
    | with_reducible assumption
    | with_reducible apply Kept.ite
    | with_reducible apply Kept.refl
    | (extract_lets +onlyGivenNames x; clear_value x)
    | with_reducible apply Kept.step (k := State.stopHeat_kept ..)
    | with_reducible apply Kept.step (k := State.setHeat_kept ..)
    | with_reducible apply Kept.step (k := State.wakeTile_kept ..)
    | with_reducible apply Kept.step (k := State.raise_kept ..)
    | with_reducible refine Kept.foldl _ (fun _ _ => ?_) _ _
    | with_reducible apply Kept.step (k := Kept.foldl (m := (.fresh :: .regs :: .pool :: .peat :: .poolBad :: .peatBad :: .tasks :: .crus :: .slots :: .probes :: .rx :: .net :: .ports :: .streams :: .beds :: .places :: .fns :: .reports :: .ramps :: .khz :: .deferred :: .heats :: .out :: [])) _ (fun _ _ => ?_) _ _)
    | split

theorem State.retireIn_kept (s) (p) (i) : Kept (.fresh :: .regs :: .pool :: .peat :: .poolBad :: .peatBad :: .tasks :: .crus :: .gates :: .slots :: .probes :: .rx :: .slotMap :: .net :: .ports :: .dieFence :: .streams :: .beds :: .places :: .wmoves :: .rplaces :: .handRx :: .fns :: .reports :: .ramps :: .khz :: .deferred :: .heats :: .retires :: .out :: []) s (State.retireIn s p i) := by
  unfold State.retireIn
  repeat' first
    | exact Eq.refl true
    | with_reducible assumption
    | with_reducible apply Kept.ite
    | with_reducible apply Kept.refl
    | (extract_lets +onlyGivenNames x; refine Kept.via x ?_ ?_; (on_goal 1 => (unfold x; clear x)); on_goal 2 => (intro hx; clear_value x))
    | (extract_lets +onlyGivenNames x; clear_value x)
    | with_reducible apply Kept.step (k := State.assignSpare_kept ..)
    | with_reducible apply Kept.step (k := State.retireTile_kept ..)
    | with_reducible apply Kept.step (k := State.setHeat_kept ..)
    | with_reducible refine Kept.foldl _ (fun _ _ => ?_) _ _
    | with_reducible apply Kept.step (k := Kept.foldl (m := (.fresh :: .regs :: .pool :: .peat :: .poolBad :: .peatBad :: .tasks :: .crus :: .gates :: .slots :: .probes :: .rx :: .slotMap :: .net :: .ports :: .dieFence :: .streams :: .beds :: .places :: .wmoves :: .rplaces :: .handRx :: .fns :: .reports :: .ramps :: .khz :: .deferred :: .heats :: .retires :: .out :: [])) _ (fun _ _ => ?_) _ _)

theorem State.actOn_kept (s) (p) (r) (v) (action) : Kept (.fresh :: .regs :: .pool :: .peat :: .mire :: .poolBad :: .peatBad :: .mireBad :: .tasks :: .crus :: .gates :: .slots :: .probes :: .rx :: .slotMap :: .rimEpoch :: .net :: .ports :: .dieFence :: .movers :: .banks :: .streams :: .beds :: .places :: .wmoves :: .rplaces :: .handRx :: .pours :: .fns :: .reports :: .evWay :: .ramps :: .khz :: .deferred :: .heats :: .retires :: .out :: []) s (State.actOn s p r v action) := by
  unfold State.actOn
  repeat' first
    | exact Eq.refl true
    | with_reducible assumption
    | with_reducible apply Kept.ite
    | with_reducible apply Kept.refl
    | (extract_lets +onlyGivenNames x; refine Kept.fn x ?_; unfold x; clear x)
    | (extract_lets +onlyGivenNames x; clear_value x)
    | with_reducible apply Kept.step (k := State.retireIn_kept ..)
    | with_reducible apply Kept.step (k := State.stopHeat_kept ..)
    | with_reducible apply Kept.step (k := State.retireTile_kept ..)
    | with_reducible apply Kept.step (k := State.fenceHeat_kept ..)
    | with_reducible apply Kept.step (k := State.setHeatState_kept ..)
    | with_reducible apply Kept.step (k := State.setHeat_kept ..)
    | with_reducible apply Kept.step (k := State.raise_kept ..)
    | with_reducible refine Kept.foldl _ (fun _ _ => ?_) _ _
    | with_reducible apply Kept.step (k := Kept.foldl (m := (.fresh :: .regs :: .pool :: .peat :: .mire :: .poolBad :: .peatBad :: .mireBad :: .tasks :: .crus :: .gates :: .slots :: .probes :: .rx :: .slotMap :: .rimEpoch :: .net :: .ports :: .dieFence :: .movers :: .banks :: .streams :: .beds :: .places :: .wmoves :: .rplaces :: .handRx :: .pours :: .fns :: .reports :: .evWay :: .ramps :: .khz :: .deferred :: .heats :: .retires :: .out :: [])) _ (fun _ _ => ?_) _ _)
    | split

theorem State.charge_kept (s) (r) (v) : Kept [.charges] s (State.charge s r v) := by
  unfold State.charge
  repeat' first
    | exact Eq.refl true
    | with_reducible assumption
    | with_reducible apply Kept.ite
    | with_reducible apply Kept.refl
    | (extract_lets +onlyGivenNames x; clear_value x)
    | with_reducible refine Kept.foldl _ (fun _ _ => ?_) _ _
    | with_reducible apply Kept.step (k := Kept.foldl (m := [.charges]) _ (fun _ _ => ?_) _ _)
    | split
    | with_reducible apply Kept.step (k := Kept.charges ..)

theorem State.takeReport_kept (s) (r) : Kept (.fresh :: .regs :: .wins :: .pool :: .peat :: .mire :: .host :: .poolBad :: .peatBad :: .mireBad :: .tasks :: .crus :: .gates :: .slots :: .probes :: .rx :: .slotMap :: .rimEpoch :: .net :: .ports :: .dieFence :: .movers :: .banks :: .streams :: .beds :: .places :: .wmoves :: .rplaces :: .handRx :: .castRun :: .casting :: .pours :: .cmds :: .queues :: .fns :: .reports :: .evWay :: .ramps :: .khz :: .deferred :: .heats :: .retires :: .charges :: .out :: []) s (State.takeReport s r) := by
  unfold State.takeReport
  repeat' first
    | exact Eq.refl true
    | with_reducible assumption
    | with_reducible apply Kept.ite
    | with_reducible apply Kept.refl
    | (extract_lets +onlyGivenNames x; refine Kept.via x ?_ ?_; (on_goal 1 => (unfold x; clear x)); on_goal 2 => (intro hx; clear_value x))
    | (extract_lets +onlyGivenNames x; clear_value x)
    | with_reducible apply Kept.step (k := State.charge_kept ..)
    | with_reducible apply Kept.step (k := State.actOn_kept ..)
    | with_reducible apply Kept.step (k := State.retireIn_kept ..)
    | with_reducible apply Kept.step (k := State.retireTile_kept ..)
    | with_reducible apply Kept.step (k := State.logReport_kept ..)
    | with_reducible apply Kept.step (k := State.failLate_kept ..)
    | with_reducible refine Kept.foldl _ (fun _ _ => ?_) _ _
    | with_reducible apply Kept.step (k := Kept.foldl (m := (.fresh :: .regs :: .wins :: .pool :: .peat :: .mire :: .host :: .poolBad :: .peatBad :: .mireBad :: .tasks :: .crus :: .gates :: .slots :: .probes :: .rx :: .slotMap :: .rimEpoch :: .net :: .ports :: .dieFence :: .movers :: .banks :: .streams :: .beds :: .places :: .wmoves :: .rplaces :: .handRx :: .castRun :: .casting :: .pours :: .cmds :: .queues :: .fns :: .reports :: .evWay :: .ramps :: .khz :: .deferred :: .heats :: .retires :: .charges :: .out :: [])) _ (fun _ _ => ?_) _ _)
    | split
    | with_reducible apply Kept.step (k := Kept.reports ..)

theorem execRecastStart_kept (tile) (s) : OutKept (.fresh :: .regs :: .wins :: .pool :: .peat :: .mire :: .host :: .poolBad :: .peatBad :: .mireBad :: .tasks :: .crus :: .gates :: .slots :: .probes :: .rx :: .slotMap :: .rimEpoch :: .net :: .ports :: .dieFence :: .movers :: .banks :: .streams :: .beds :: .places :: .wmoves :: .rplaces :: .handRx :: .castRun :: .casting :: .pours :: .cmds :: .queues :: .fns :: .reports :: .evWay :: .ramps :: .khz :: .deferred :: .heats :: .retires :: .charges :: .out :: []) s (execRecastStart tile s) := by
  unfold execRecastStart
  repeat' first
    | exact Eq.refl true
    | with_reducible assumption
    | with_reducible apply Kept.ite
    | with_reducible apply Kept.refl
    | with_reducible apply OutKept.ite
    | with_reducible apply OutKept.next
    | with_reducible apply OutKept.fault
    | with_reducible apply Kept.step (k := State.takeReport_kept ..)
    | with_reducible refine Kept.foldl _ (fun _ _ => ?_) _ _
    | with_reducible apply Kept.step (k := Kept.foldl (m := (.fresh :: .regs :: .wins :: .pool :: .peat :: .mire :: .host :: .poolBad :: .peatBad :: .mireBad :: .tasks :: .crus :: .gates :: .slots :: .probes :: .rx :: .slotMap :: .rimEpoch :: .net :: .ports :: .dieFence :: .movers :: .banks :: .streams :: .beds :: .places :: .wmoves :: .rplaces :: .handRx :: .castRun :: .casting :: .pours :: .cmds :: .queues :: .fns :: .reports :: .evWay :: .ramps :: .khz :: .deferred :: .heats :: .retires :: .charges :: .out :: [])) _ (fun _ _ => ?_) _ _)
    | split

theorem execFaultReport_kept (tile) (cause) (unit) (detail) (s) : OutKept [.regs, .fns, .reports, .out] s (execFaultReport tile cause unit detail s) := by
  unfold execFaultReport
  repeat' first
    | exact Eq.refl true
    | with_reducible assumption
    | with_reducible apply Kept.ite
    | with_reducible apply Kept.refl
    | (extract_lets +onlyGivenNames x; clear_value x)
    | with_reducible apply OutKept.ite
    | with_reducible apply OutKept.next
    | with_reducible apply OutKept.fault
    | with_reducible apply Kept.step (k := State.report_kept ..)

theorem execHeartbeat_kept (tile) (s) : OutKept [.regs, .beats] s (execHeartbeat tile s) := by
  unfold execHeartbeat
  repeat' first
    | exact Eq.refl true
    | with_reducible assumption
    | with_reducible apply Kept.ite
    | with_reducible apply Kept.refl
    | (extract_lets +onlyGivenNames x; refine OutKept.via x ?_ ?_; (on_goal 1 => (unfold x; clear x)); on_goal 2 => (intro hx; clear_value x))
    | (extract_lets +onlyGivenNames x; clear_value x)
    | with_reducible apply OutKept.ite
    | with_reducible apply OutKept.next
    | with_reducible apply OutKept.fault
    | with_reducible apply Kept.step (k := State.bump_kept ..)
    | with_reducible refine Kept.foldl _ (fun _ _ => ?_) _ _
    | with_reducible apply Kept.step (k := Kept.foldl (m := [.regs, .beats]) _ (fun _ _ => ?_) _ _)
    | split
    | with_reducible apply Kept.step (k := Kept.beats ..)

theorem execHeartbeatMiss_kept (tile) (s) : OutKept [.regs, .fns, .reports, .beats, .out] s (execHeartbeatMiss tile s) := by
  unfold execHeartbeatMiss
  repeat' first
    | exact Eq.refl true
    | with_reducible assumption
    | with_reducible apply Kept.ite
    | with_reducible apply Kept.refl
    | (extract_lets +onlyGivenNames x; refine OutKept.via x ?_ ?_; (on_goal 1 => (unfold x; clear x)); on_goal 2 => (intro hx; clear_value x))
    | with_reducible apply OutKept.ite
    | with_reducible apply OutKept.next
    | with_reducible apply OutKept.fault
    | with_reducible apply Kept.step (k := State.report_kept ..)
    | with_reducible apply Kept.step (k := State.bump_kept ..)
    | with_reducible refine Kept.foldl _ (fun _ _ => ?_) _ _
    | with_reducible apply Kept.step (k := Kept.foldl (m := [.regs, .fns, .reports, .beats, .out]) _ (fun _ _ => ?_) _ _)
    | split
    | with_reducible apply Kept.step (k := Kept.beats ..)

theorem State.clearLoop_kept (s) (n) : Kept [.streams] s (State.clearLoop s n) := by
  unfold State.clearLoop
  repeat' first
    | exact Eq.refl true
    | with_reducible assumption
    | with_reducible apply Kept.ite
    | with_reducible apply Kept.refl
    | (extract_lets +onlyGivenNames x; clear_value x)
    | with_reducible apply Kept.step (k := State.setStream_kept ..)

theorem State.ownExtents_keptP (s) (i) : Kept [.regs, .banks, .fns, .evWay, .out] s (State.ownExtents s i).2 := by
  unfold State.ownExtents
  repeat' first
    | exact Eq.refl true
    | with_reducible assumption
    | with_reducible apply Kept.ite
    | with_reducible apply Kept.refl
    | with_reducible refine Kept.step ?_ (State.readExtents_kept (by assumption)) ?_
    | with_reducible apply Kept.step (k := State.readExtents_keptP ..)
    | with_reducible refine Kept.foldl _ (fun _ _ => ?_) _ _
    | with_reducible apply Kept.step (k := Kept.foldl (m := [.regs, .banks, .fns, .evWay, .out]) _ (fun _ _ => ?_) _ _)
    | split
theorem State.ownExtents_kept {s i zz tt} (h : State.ownExtents s i = (zz, tt)) : Kept [.regs, .banks, .fns, .evWay, .out] s tt := by
  have := State.ownExtents_keptP s i
  rw [h] at this
  exact this

theorem State.fixLine_kept (s) (i) (line) : Kept [.regs, .peat, .peatBad, .banks, .fns, .evWay, .out] s (State.fixLine s i line) := by
  unfold State.fixLine
  repeat' first
    | exact Eq.refl true
    | with_reducible assumption
    | with_reducible apply Kept.ite
    | with_reducible apply Kept.refl
    | (extract_lets +onlyGivenNames x; clear_value x)
    | with_reducible refine Kept.step ?_ (State.ownExtents_kept (by assumption)) ?_
    | with_reducible apply Kept.step (k := State.ownExtents_keptP ..)
    | with_reducible refine Kept.step ?_ (State.mireServeRead_kept (by assumption)) ?_
    | with_reducible apply Kept.step (k := State.mireServeRead_keptP ..)
    | with_reducible apply Kept.step (k := State.writePeat_kept ..)
    | with_reducible refine Kept.foldl _ (fun _ _ => ?_) _ _
    | with_reducible apply Kept.step (k := Kept.foldl (m := [.regs, .peat, .peatBad, .banks, .fns, .evWay, .out]) _ (fun _ _ => ?_) _ _)
    | split

theorem State.fixTile_kept (s) (i) : Kept [.regs, .pool, .peat, .poolBad, .peatBad, .banks, .fns, .reports, .evWay, .fixes, .out] s (State.fixTile s i) := by
  unfold State.fixTile
  repeat' first
    | exact Eq.refl true
    | with_reducible assumption
    | with_reducible apply Kept.ite
    | with_reducible apply Kept.refl
    | with_reducible apply Kept.step (k := State.fixLine_kept ..)
    | with_reducible apply Kept.step (k := State.writePool_kept ..)
    | with_reducible apply Kept.step (k := State.report_kept ..)
    | with_reducible apply Kept.step (k := State.raise_kept ..)
    | with_reducible apply Kept.step (k := State.bump_kept ..)
    | with_reducible refine Kept.foldl _ (fun _ _ => ?_) _ _
    | with_reducible apply Kept.step (k := Kept.foldl (m := [.regs, .pool, .peat, .poolBad, .peatBad, .banks, .fns, .reports, .evWay, .fixes, .out]) _ (fun _ _ => ?_) _ _)
    | split
    | with_reducible apply Kept.step (k := Kept.fixes ..)

theorem execSettleEnd_kept (polder) (s) : OutKept (.fresh :: .regs :: .pool :: .peat :: .poolBad :: .peatBad :: .tasks :: .crus :: .gates :: .slots :: .probes :: .rx :: .banks :: .streams :: .beds :: .places :: .wmoves :: .rplaces :: .handRx :: .fns :: .reports :: .evWay :: .heats :: .fixes :: .out :: []) s (execSettleEnd polder s) := by
  unfold execSettleEnd
  repeat' first
    | exact Eq.refl true
    | with_reducible assumption
    | with_reducible apply Kept.ite
    | with_reducible apply Kept.refl
    | (extract_lets +onlyGivenNames x; refine OutKept.via x ?_ ?_; (on_goal 1 => (unfold x; clear x)); on_goal 2 => (intro hx; clear_value x))
    | (extract_lets +onlyGivenNames x; clear_value x)
    | with_reducible apply OutKept.ite
    | with_reducible apply OutKept.next
    | with_reducible apply OutKept.fault
    | with_reducible apply Kept.step (k := State.fixTile_kept ..)
    | with_reducible apply Kept.step (k := State.clearLoop_kept ..)
    | with_reducible apply Kept.step (k := State.setHeatState_kept ..)
    | with_reducible apply Kept.step (k := State.resetBeds_kept ..)
    | with_reducible apply Kept.step (k := State.initRegions_kept ..)
    | with_reducible apply Kept.step (k := State.resetTile_kept ..)
    | with_reducible apply Kept.step (k := State.setHeat_kept ..)
    | with_reducible refine Kept.foldl _ (fun _ _ => ?_) _ _
    | with_reducible apply Kept.step (k := Kept.foldl (m := (.fresh :: .regs :: .pool :: .peat :: .poolBad :: .peatBad :: .tasks :: .crus :: .gates :: .slots :: .probes :: .rx :: .banks :: .streams :: .beds :: .places :: .wmoves :: .rplaces :: .handRx :: .fns :: .reports :: .evWay :: .heats :: .fixes :: .out :: [])) _ (fun _ _ => ?_) _ _)

theorem execRefillStart_kept (polder) (s) : OutKept [.heats] s (execRefillStart polder s) := by
  unfold execRefillStart
  repeat' first
    | exact Eq.refl true
    | with_reducible assumption
    | with_reducible apply Kept.ite
    | with_reducible apply Kept.refl
    | (extract_lets +onlyGivenNames x; clear_value x)
    | with_reducible apply OutKept.ite
    | with_reducible apply OutKept.next
    | with_reducible apply OutKept.fault
    | with_reducible apply Kept.step (k := State.setHeat_kept ..)

theorem State.refillBytes_kept (s) (i) (off) (a) (n) : Kept [.regs, .peat, .peatBad, .banks, .fns, .evWay, .out] s (State.refillBytes s i off a n) := by
  unfold State.refillBytes
  repeat' first
    | exact Eq.refl true
    | with_reducible assumption
    | with_reducible apply Kept.ite
    | with_reducible apply Kept.refl
    | with_reducible apply Kept.step (k := State.fillPeat_kept ..)
    | with_reducible refine Kept.step ?_ (State.mireServeRead_kept (by assumption)) ?_
    | with_reducible apply Kept.step (k := State.mireServeRead_keptP ..)
    | with_reducible apply Kept.step (k := State.bump_kept ..)
    | with_reducible refine Kept.foldl _ (fun _ _ => ?_) _ _
    | with_reducible apply Kept.step (k := Kept.foldl (m := [.regs, .peat, .peatBad, .banks, .fns, .evWay, .out]) _ (fun _ _ => ?_) _ _)
    | split

theorem State.refillBlock_kept (s) (x) : Kept [.regs, .peat, .peatBad, .banks, .fns, .evWay, .out] s (State.refillBlock s x) := by
  unfold State.refillBlock
  repeat' first
    | exact Eq.refl true
    | with_reducible assumption
    | with_reducible apply Kept.ite
    | with_reducible apply Kept.refl
    | (extract_lets +onlyGivenNames x; clear_value x)
    | with_reducible apply Kept.step (k := State.refillBytes_kept ..)
    | with_reducible refine Kept.foldl _ (fun _ _ => ?_) _ _

theorem State.refillTile_kept (s) (w) : Kept [.regs, .peat, .peatBad, .banks, .fns, .evWay, .out] s (State.refillTile s w) := by
  unfold State.refillTile
  repeat' first
    | exact Eq.refl true
    | with_reducible assumption
    | with_reducible apply Kept.ite
    | with_reducible apply Kept.refl
    | (extract_lets +onlyGivenNames x; clear_value x)
    | with_reducible apply Kept.step (k := State.refillBlock_kept ..)
    | with_reducible apply Kept.step (k := State.refillBytes_kept ..)
    | with_reducible refine Kept.step ?_ (State.readExtents_kept (by assumption)) ?_
    | with_reducible apply Kept.step (k := State.readExtents_keptP ..)
    | with_reducible refine Kept.foldl _ (fun _ _ => ?_) _ _
    | with_reducible apply Kept.step (k := Kept.foldl (m := [.regs, .peat, .peatBad, .banks, .fns, .evWay, .out]) _ (fun _ _ => ?_) _ _)

theorem execRefillDone_kept (polder) (s) : OutKept [.regs, .peat, .peatBad, .banks, .fns, .evWay, .heats, .out] s (execRefillDone polder s) := by
  unfold execRefillDone
  repeat' first
    | exact Eq.refl true
    | with_reducible assumption
    | with_reducible apply Kept.ite
    | with_reducible apply Kept.refl
    | (extract_lets +onlyGivenNames x; refine OutKept.via x ?_ ?_; (on_goal 1 => (unfold x; clear x)); on_goal 2 => (intro hx; clear_value x))
    | (extract_lets +onlyGivenNames x; refine Kept.fn x ?_; unfold x; clear x)
    | (extract_lets +onlyGivenNames x; clear_value x)
    | with_reducible apply OutKept.ite
    | with_reducible apply OutKept.next
    | with_reducible apply OutKept.fault
    | with_reducible apply Kept.step (k := State.refillTile_kept ..)
    | with_reducible apply Kept.step (k := State.setHeat_kept ..)
    | with_reducible refine Kept.foldl _ (fun _ _ => ?_) _ _

theorem State.putSlotValues_kept (s) (i) (l) : Kept [.regs] s (State.putSlotValues s i l) := by
  unfold State.putSlotValues
  repeat' first
    | exact Eq.refl true
    | with_reducible assumption
    | with_reducible apply Kept.ite
    | with_reducible apply Kept.refl
    | (extract_lets +onlyGivenNames x; refine Kept.via x ?_ ?_; (on_goal 1 => (unfold x; clear x)); on_goal 2 => (intro hx; clear_value x))
    | with_reducible apply Kept.step (k := State.setFields_kept ..)
    | with_reducible apply Kept.step (k := State.setRf_kept ..)
    | with_reducible refine Kept.foldl _ (fun _ _ => ?_) _ _
    | with_reducible apply Kept.step (k := Kept.foldl (m := [.regs]) _ (fun _ _ => ?_) _ _)

theorem State.spareTakes_kept (s) (w) : Kept (.fresh :: .regs :: .pool :: .peat :: .peatBad :: .tasks :: .crus :: .gates :: .slots :: .probes :: .rx :: .slotMap :: .dieFence :: .wmoves :: .rplaces :: .handRx :: .beats :: []) s (State.spareTakes s w) := by
  unfold State.spareTakes
  repeat' first
    | exact Eq.refl true
    | with_reducible assumption
    | with_reducible apply Kept.ite
    | with_reducible apply Kept.refl
    | (extract_lets +onlyGivenNames x; refine Kept.via x ?_ ?_; (on_goal 1 => (unfold x; clear x)); on_goal 2 => (intro hx; clear_value x))
    | (extract_lets +onlyGivenNames x; clear_value x)
    | with_reducible apply Kept.step (k := State.putSlotValues_kept ..)
    | with_reducible apply Kept.step (k := State.openPorts_kept ..)
    | with_reducible apply Kept.step (k := State.fenceToward_kept ..)
    | with_reducible apply Kept.step (k := State.moveGateways_kept ..)
    | with_reducible apply Kept.step (k := State.initRegions_kept ..)
    | with_reducible apply Kept.step (k := State.resetTile_kept ..)
    | with_reducible apply Kept.step (k := State.setTstate_kept ..)
    | with_reducible refine Kept.foldl _ (fun _ _ => ?_) _ _
    | with_reducible apply Kept.step (k := Kept.foldl (m := (.fresh :: .regs :: .pool :: .peat :: .peatBad :: .tasks :: .crus :: .gates :: .slots :: .probes :: .rx :: .slotMap :: .dieFence :: .wmoves :: .rplaces :: .handRx :: .beats :: [])) _ (fun _ _ => ?_) _ _)
    | split
    | with_reducible apply Kept.step (k := Kept.slotMap ..)
    | with_reducible apply Kept.step (k := Kept.beats ..)

theorem State.rebuildRecord_kept (s) (n) (last) (e) : Kept [.regs, .peat, .peatBad] s (State.rebuildRecord s n last e) := by
  unfold State.rebuildRecord
  repeat' first
    | exact Eq.refl true
    | with_reducible assumption
    | with_reducible apply Kept.ite
    | with_reducible apply Kept.refl
    | (extract_lets +onlyGivenNames x; refine Kept.fn x ?_; unfold x; clear x)
    | (extract_lets +onlyGivenNames x; clear_value x)
    | with_reducible apply Kept.step (k := State.writePeat_kept ..)
    | with_reducible refine Kept.foldl _ (fun _ _ => ?_) _ _
    | with_reducible apply Kept.step (k := Kept.foldl (m := [.regs, .peat, .peatBad]) _ (fun _ _ => ?_) _ _)
    | split

theorem State.replayStream_kept (s) (n) : Kept [.regs, .peat, .peatBad, .streams] s (State.replayStream s n) := by
  unfold State.replayStream
  repeat' first
    | exact Eq.refl true
    | with_reducible assumption
    | with_reducible apply Kept.ite
    | with_reducible apply Kept.refl
    | (extract_lets +onlyGivenNames x; refine Kept.via x ?_ ?_; (on_goal 1 => (unfold x; clear x)); on_goal 2 => (intro hx; clear_value x))
    | (extract_lets +onlyGivenNames x; clear_value x)
    | with_reducible apply Kept.step (k := State.rebuildRecord_kept ..)
    | with_reducible apply Kept.step (k := State.setStream_kept ..)
    | with_reducible apply Kept.step (k := State.bump_kept ..)

theorem State.replayDraft_kept (s) (n) : Kept [.regs, .peat, .peatBad, .streams] s (State.replayDraft s n) := by
  unfold State.replayDraft
  repeat' first
    | exact Eq.refl true
    | with_reducible assumption
    | with_reducible apply Kept.ite
    | with_reducible apply Kept.refl
    | (extract_lets +onlyGivenNames x; refine Kept.via x ?_ ?_; (on_goal 1 => (unfold x; clear x)); on_goal 2 => (intro hx; clear_value x))
    | (extract_lets +onlyGivenNames x; clear_value x)
    | with_reducible apply Kept.step (k := State.rebuildRecord_kept ..)
    | with_reducible apply Kept.step (k := State.setStream_kept ..)
    | with_reducible apply Kept.step (k := State.bump_kept ..)

theorem State.readmitStream_kept (s) (swaps) (n) : Kept [.regs, .peat, .peatBad, .net, .ports, .banks, .streams, .fns, .reports, .evWay, .out] s (State.readmitStream s swaps n) := by
  unfold State.readmitStream
  repeat' first
    | exact Eq.refl true
    | with_reducible assumption
    | with_reducible apply Kept.ite
    | with_reducible apply Kept.refl
    | with_reducible apply Kept.step (k := State.replayDraft_kept ..)
    | with_reducible apply Kept.step (k := State.replayStream_kept ..)
    | with_reducible refine Kept.step ?_ (State.mireTake_kept (by assumption)) ?_
    | with_reducible apply Kept.step (k := State.mireTake_keptP ..)
    | with_reducible apply Kept.step (k := State.abandonStream_kept ..)
    | with_reducible apply Kept.step (k := State.setStream_kept ..)

theorem State.startHeatTasks_kept (s) (ps) : Kept [.regs, .tasks, .fns, .out] s (State.startHeatTasks s ps) := by
  unfold State.startHeatTasks
  repeat' first
    | exact Eq.refl true
    | with_reducible assumption
    | with_reducible apply Kept.ite
    | with_reducible apply Kept.refl
    | with_reducible apply Kept.step (k := State.startTask_kept ..)
    | with_reducible refine Kept.foldl _ (fun _ _ => ?_) _ _
    | with_reducible apply Kept.step (k := Kept.foldl (m := [.regs, .tasks, .fns, .out]) _ (fun _ _ => ?_) _ _)
    | split

theorem State.noteTime_kept (s) (p) (ns) : Kept [.regs] s (State.noteTime s p ns) := by
  unfold State.noteTime
  repeat' first
    | exact Eq.refl true
    | with_reducible assumption
    | with_reducible apply Kept.ite
    | with_reducible apply Kept.refl
    | (extract_lets +onlyGivenNames x; clear_value x)
    | with_reducible apply Kept.step (k := State.setFields_kept ..)

theorem State.readmit_kept (s) (p) : Kept (.fresh :: .regs :: .pool :: .peat :: .peatBad :: .tasks :: .crus :: .gates :: .slots :: .probes :: .rx :: .slotMap :: .routes :: .genTab :: .net :: .ports :: .dieFence :: .banks :: .streams :: .beds :: .wmoves :: .rplaces :: .handRx :: .pours :: .fns :: .reports :: .evWay :: .heats :: .beats :: .out :: []) s (State.readmit s p) := by
  unfold State.readmit
  repeat' first
    | exact Eq.refl true
    | with_reducible assumption
    | with_reducible apply Kept.ite
    | with_reducible apply Kept.refl
    | (extract_lets +onlyGivenNames x; refine Kept.via x ?_ ?_; (on_goal 1 => (unfold x; clear x)); on_goal 2 => (intro hx; clear_value x))
    | (extract_lets +onlyGivenNames x; clear_value x)
    | with_reducible apply Kept.step (k := State.noteTime_kept ..)
    | with_reducible apply Kept.step (k := State.startHeatTasks_kept ..)
    | with_reducible apply Kept.step (k := State.readmitStream_kept ..)
    | with_reducible apply Kept.step (k := State.spareTakes_kept ..)
    | with_reducible apply Kept.step (k := State.setHeatState_kept ..)
    | with_reducible apply Kept.step (k := State.engineRoutes_kept ..)
    | with_reducible apply Kept.step (k := State.polderRoutes_kept ..)
    | with_reducible apply Kept.step (k := State.spreadGen_kept ..)
    | with_reducible apply Kept.step (k := State.resumePours_kept ..)
    | with_reducible apply Kept.step (k := State.setHeat_kept ..)
    | with_reducible apply Kept.step (k := State.setBed_kept ..)
    | with_reducible apply Kept.step (k := State.log_kept ..)
    | with_reducible apply Kept.step (k := State.raise_kept ..)
    | with_reducible apply Kept.step (k := State.bump_kept ..)
    | with_reducible refine Kept.foldl _ (fun _ _ => ?_) _ _
    | with_reducible apply Kept.step (k := Kept.foldl (m := (.fresh :: .regs :: .pool :: .peat :: .peatBad :: .tasks :: .crus :: .gates :: .slots :: .probes :: .rx :: .slotMap :: .routes :: .genTab :: .net :: .ports :: .dieFence :: .banks :: .streams :: .beds :: .wmoves :: .rplaces :: .handRx :: .pours :: .fns :: .reports :: .evWay :: .heats :: .beats :: .out :: [])) _ (fun _ _ => ?_) _ _)

theorem execReadmission_kept (polder) (s) : OutKept (.fresh :: .regs :: .pool :: .peat :: .peatBad :: .tasks :: .crus :: .gates :: .slots :: .probes :: .rx :: .slotMap :: .routes :: .genTab :: .net :: .ports :: .dieFence :: .banks :: .streams :: .beds :: .wmoves :: .rplaces :: .handRx :: .pours :: .fns :: .reports :: .evWay :: .heats :: .beats :: .out :: []) s (execReadmission polder s) := by
  unfold execReadmission
  repeat' first
    | exact Eq.refl true
    | with_reducible assumption
    | with_reducible apply Kept.ite
    | with_reducible apply Kept.refl
    | with_reducible apply OutKept.ite
    | with_reducible apply OutKept.next
    | with_reducible apply OutKept.fault
    | with_reducible apply Kept.step (k := State.readmit_kept ..)

theorem State.startSelfTest_kept (s) (i) : Kept [.fresh, .regs, .pool, .peat, .poolBad, .peatBad, .tasks, .crus, .slots, .probes, .rx, .ramps, .khz, .deferred] s (State.startSelfTest s i) := by
  unfold State.startSelfTest
  repeat' first
    | exact Eq.refl true
    | with_reducible assumption
    | with_reducible apply Kept.ite
    | with_reducible apply Kept.refl
    | with_reducible apply Kept.step (k := State.wakeTile_kept ..)
    | with_reducible apply Kept.step (k := State.setTstate_kept ..)
    | with_reducible apply Kept.step (k := State.bump_kept ..)

theorem State.resumeHeat_kept (s) (p) : Kept [.regs, .heats] s (State.resumeHeat s p) := by
  unfold State.resumeHeat
  repeat' first
    | exact Eq.refl true
    | with_reducible assumption
    | with_reducible apply Kept.ite
    | with_reducible apply Kept.refl
    | with_reducible apply Kept.step (k := State.setHeatState_kept ..)
    | with_reducible apply Kept.step (k := State.setHeat_kept ..)

theorem State.resumeAsked_kept (s) : Kept [.regs, .heats] s (State.resumeAsked s) := by
  unfold State.resumeAsked
  repeat' first
    | exact Eq.refl true
    | with_reducible assumption
    | with_reducible apply Kept.ite
    | with_reducible apply Kept.refl
    | with_reducible apply Kept.step (k := State.resumeHeat_kept ..)
    | with_reducible refine Kept.foldl _ (fun _ _ => ?_) _ _

theorem rcCtlHook_kept (w) (p) : Kept [.regs, .heats] w.st (rcCtlHook w p) := by
  unfold rcCtlHook
  repeat' first
    | exact Eq.refl true
    | with_reducible assumption
    | with_reducible apply Kept.ite
    | with_reducible apply Kept.refl
    | with_reducible apply Kept.step (k := State.resumeHeat_kept ..)
    | with_reducible apply Kept.step (k := State.setRb_kept ..)

theorem execRcResume_kept (who) (p) (v) (s) : OutKept [.regs, .wins, .guards, .shadows, .sealRun, .fns, .heats, .out] s (execRcResume who p v s) := by
  unfold execRcResume
  repeat' first
    | exact Eq.refl true
    | with_reducible assumption
    | with_reducible apply Kept.ite
    | with_reducible apply Kept.refl
    | with_reducible apply OutKept.ite
    | with_reducible apply OutKept.next
    | with_reducible apply OutKept.fault
    | with_reducible apply Kept.step (k := rcCtlHook_kept ..)
    | with_reducible apply Kept.step (k := State.writeCore_kept ..)

theorem rcTileHook_kept (w) : Kept (.fresh :: .regs :: .pool :: .peat :: .poolBad :: .peatBad :: .tasks :: .crus :: .slots :: .probes :: .rx :: .fns :: .reports :: .ramps :: .khz :: .deferred :: .out :: []) w.st (rcTileHook w) := by
  unfold rcTileHook
  repeat' first
    | exact Eq.refl true
    | with_reducible assumption
    | with_reducible apply Kept.ite
    | with_reducible apply Kept.refl
    | with_reducible apply Kept.step (k := State.startSelfTest_kept ..)
    | with_reducible apply Kept.step (k := State.report_kept ..)
    | with_reducible apply Kept.step (k := State.setRb_kept ..)

theorem State.rcTileWrite_kept (s) (who) (op) (v) : Kept (.fresh :: .regs :: .wins :: .guards :: .shadows :: .sealRun :: .pool :: .peat :: .poolBad :: .peatBad :: .tasks :: .crus :: .slots :: .probes :: .rx :: .fns :: .reports :: .ramps :: .khz :: .deferred :: .out :: []) s (State.rcTileWrite s who op v) := by
  unfold State.rcTileWrite
  repeat' first
    | exact Eq.refl true
    | with_reducible assumption
    | with_reducible apply Kept.ite
    | with_reducible apply Kept.refl
    | with_reducible apply Kept.step (k := rcTileHook_kept ..)
    | with_reducible apply Kept.step (k := State.writeCore_kept ..)

theorem execRcRetire_kept (who) (v) (s) : OutKept (.fresh :: .regs :: .wins :: .guards :: .shadows :: .sealRun :: .pool :: .peat :: .poolBad :: .peatBad :: .tasks :: .crus :: .slots :: .probes :: .rx :: .fns :: .reports :: .ramps :: .khz :: .deferred :: .out :: []) s (execRcRetire who v s) := by
  unfold execRcRetire
  repeat' first
    | exact Eq.refl true
    | with_reducible assumption
    | with_reducible apply Kept.ite
    | with_reducible apply Kept.refl
    | with_reducible apply OutKept.ite
    | with_reducible apply OutKept.next
    | with_reducible apply OutKept.fault
    | with_reducible apply Kept.step (k := State.rcTileWrite_kept ..)

theorem execRcReadmit_kept (who) (v) (s) : OutKept (.fresh :: .regs :: .wins :: .guards :: .shadows :: .sealRun :: .pool :: .peat :: .poolBad :: .peatBad :: .tasks :: .crus :: .slots :: .probes :: .rx :: .fns :: .reports :: .ramps :: .khz :: .deferred :: .out :: []) s (execRcReadmit who v s) := by
  unfold execRcReadmit
  repeat' first
    | exact Eq.refl true
    | with_reducible assumption
    | with_reducible apply Kept.ite
    | with_reducible apply Kept.refl
    | with_reducible apply OutKept.ite
    | with_reducible apply OutKept.next
    | with_reducible apply OutKept.fault
    | with_reducible apply Kept.step (k := State.rcTileWrite_kept ..)

theorem execQuarantineSelfTest_kept (tile) (s) : OutKept [.fresh, .regs, .pool, .peat, .poolBad, .peatBad, .tasks, .crus, .slots, .probes, .rx, .ramps, .khz, .deferred] s (execQuarantineSelfTest tile s) := by
  unfold execQuarantineSelfTest
  repeat' first
    | exact Eq.refl true
    | with_reducible assumption
    | with_reducible apply Kept.ite
    | with_reducible apply Kept.refl
    | (extract_lets +onlyGivenNames x; clear_value x)
    | with_reducible apply OutKept.ite
    | with_reducible apply OutKept.next
    | with_reducible apply OutKept.fault
    | with_reducible apply Kept.step (k := State.startSelfTest_kept ..)

theorem execSelfTestDone_kept (tile) (pass) (s) : OutKept (.fresh :: .regs :: .pool :: .peat :: .poolBad :: .peatBad :: .tasks :: .crus :: .gates :: .slots :: .probes :: .rx :: .dieFence :: .ramps :: .khz :: .deferred :: .planDue :: .aging :: .beats :: []) s (execSelfTestDone tile pass s) := by
  unfold execSelfTestDone
  repeat' first
    | exact Eq.refl true
    | with_reducible assumption
    | with_reducible apply Kept.ite
    | with_reducible apply Kept.refl
    | (extract_lets +onlyGivenNames x; refine OutKept.via x ?_ ?_; (on_goal 1 => (unfold x; clear x)); on_goal 2 => (intro hx; clear_value x))
    | (extract_lets +onlyGivenNames x; clear_value x)
    | with_reducible apply OutKept.ite
    | with_reducible apply OutKept.next
    | with_reducible apply OutKept.fault
    | with_reducible apply Kept.step (k := State.openPorts_kept ..)
    | with_reducible apply Kept.step (k := State.fenceToward_kept ..)
    | with_reducible apply Kept.step (k := State.baselines_kept ..)
    | with_reducible apply Kept.step (k := State.wipeTile_kept ..)
    | with_reducible apply Kept.step (k := State.offDomains_kept ..)
    | with_reducible apply Kept.step (k := State.spareDomains_kept ..)
    | with_reducible apply Kept.step (k := State.setTstate_kept ..)
    | with_reducible refine Kept.foldl _ (fun _ _ => ?_) _ _
    | with_reducible apply Kept.step (k := Kept.foldl (m := (.fresh :: .regs :: .pool :: .peat :: .poolBad :: .peatBad :: .tasks :: .crus :: .gates :: .slots :: .probes :: .rx :: .dieFence :: .ramps :: .khz :: .deferred :: .planDue :: .aging :: .beats :: [])) _ (fun _ _ => ?_) _ _)
    | split
    | with_reducible apply Kept.step (k := Kept.planDue_beats ..)

/-! ### Pages -/

theorem State.readReg_kept (s) (who) (page) (off) (size) : Kept [.regs, .wins, .shadows, .fns, .out, .lastRead] s (State.readReg s who page off size) := by
  unfold State.readReg
  repeat' first
    | exact Eq.refl true
    | with_reducible assumption
    | with_reducible apply Kept.ite
    | with_reducible apply Kept.refl
    | with_reducible apply Kept.step (k := State.deliver_kept ..)
    | with_reducible refine Kept.step ?_ (State.busRead_kept (by assumption)) ?_
    | with_reducible apply Kept.step (k := State.busRead_keptP ..)

theorem execRegReadRc_kept (who) (page) (off) (size) (s) : OutKept [.regs, .wins, .shadows, .fns, .out, .lastRead] s (execRegReadRc who page off size s) := by
  unfold execRegReadRc
  repeat' first
    | exact Eq.refl true
    | with_reducible assumption
    | with_reducible apply Kept.ite
    | with_reducible apply Kept.refl
    | with_reducible apply OutKept.ite
    | with_reducible apply OutKept.next
    | with_reducible apply OutKept.fault
    | with_reducible apply Kept.step (k := State.readReg_kept ..)

theorem execRegReadLowHalf_kept (who) (page) (off) (s) : OutKept [.regs, .wins, .shadows, .fns, .out, .lastRead] s (execRegReadLowHalf who page off s) := by
  unfold execRegReadLowHalf
  repeat' first
    | exact Eq.refl true
    | with_reducible assumption
    | with_reducible apply Kept.ite
    | with_reducible apply Kept.refl
    | with_reducible apply OutKept.ite
    | with_reducible apply OutKept.next
    | with_reducible apply OutKept.fault
    | with_reducible apply Kept.step (k := State.readReg_kept ..)

theorem execRegAccessTimeout_kept (who) (page) (off) (write) (s) : OutKept [.regs, .shadows, .fns, .out, .lastRead] s (execRegAccessTimeout who page off write s) := by
  unfold execRegAccessTimeout
  repeat' first
    | exact Eq.refl true
    | with_reducible assumption
    | with_reducible apply Kept.ite
    | with_reducible apply Kept.refl
    | (extract_lets +onlyGivenNames x; refine OutKept.via x ?_ ?_; (on_goal 1 => (unfold x; clear x)); on_goal 2 => (intro hx; clear_value x))
    | with_reducible apply OutKept.ite
    | with_reducible apply OutKept.next
    | with_reducible apply OutKept.fault
    | with_reducible apply Kept.step (k := State.deliver_kept ..)
    | with_reducible apply Kept.step (k := State.regTimeout_kept ..)
    | with_reducible apply Kept.step (k := State.dropShadow_kept ..)

theorem State.writeKey_kept (s) (who) (page) (key) : Kept [.regs, .guards, .fns, .out] s (State.writeKey s who page key) := by
  unfold State.writeKey
  repeat' first
    | exact Eq.refl true
    | with_reducible assumption
    | with_reducible apply Kept.ite
    | with_reducible apply Kept.refl
    | with_reducible apply Kept.step (k := State.closeGuard_kept ..)
    | with_reducible apply Kept.step (k := State.guardErr_kept ..)
    | with_reducible refine Kept.foldl _ (fun _ _ => ?_) _ _
    | with_reducible apply Kept.step (k := Kept.foldl (m := [.regs, .guards, .fns, .out]) _ (fun _ _ => ?_) _ _)
    | split
    | with_reducible apply Kept.step (k := Kept.guards ..)

theorem State.keyWrite_kept (s) (who) (page) (off) (size) (v) : Kept [.regs, .guards, .shadows, .fns, .out] s (State.keyWrite s who page off size v) := by
  unfold State.keyWrite
  repeat' first
    | exact Eq.refl true
    | with_reducible assumption
    | with_reducible apply Kept.ite
    | with_reducible apply Kept.refl
    | (extract_lets +onlyGivenNames x; refine Kept.via x ?_ ?_; (on_goal 1 => (unfold x; clear x)); on_goal 2 => (intro hx; clear_value x))
    | with_reducible apply Kept.step (k := State.writeKey_kept ..)
    | with_reducible apply Kept.step (k := State.regTimeout_kept ..)
    | with_reducible apply Kept.step (k := State.dropShadow_kept ..)
    | with_reducible refine Kept.foldl _ (fun _ _ => ?_) _ _
    | with_reducible apply Kept.step (k := Kept.foldl (m := [.regs, .guards, .shadows, .fns, .out]) _ (fun _ _ => ?_) _ _)
    | split

theorem execGuardKey_kept (who) (page) (size) (v) (s) : OutKept [.regs, .guards, .shadows, .fns, .out] s (execGuardKey who page size v s) := by
  unfold execGuardKey
  repeat' first
    | exact Eq.refl true
    | with_reducible assumption
    | with_reducible apply Kept.ite
    | with_reducible apply Kept.refl
    | with_reducible apply OutKept.ite
    | with_reducible apply OutKept.next
    | with_reducible apply OutKept.fault
    | with_reducible apply Kept.step (k := State.keyWrite_kept ..)

theorem execGuardLapse_kept (page) (s) : OutKept [.guards] s (execGuardLapse page s) := by
  unfold execGuardLapse
  repeat' first
    | exact Eq.refl true
    | with_reducible assumption
    | with_reducible apply Kept.ite
    | with_reducible apply Kept.refl
    | with_reducible apply OutKept.ite
    | with_reducible apply OutKept.next
    | with_reducible apply OutKept.fault
    | with_reducible apply Kept.step (k := State.closeGuard_kept ..)

theorem execMgmtBusReset_kept (s) : OutKept [.guards] s (execMgmtBusReset s) := by
  unfold execMgmtBusReset
  repeat' first
    | exact Eq.refl true
    | with_reducible assumption
    | with_reducible apply Kept.ite
    | with_reducible apply Kept.refl
    | with_reducible apply OutKept.ite
    | with_reducible apply OutKept.next
    | with_reducible apply OutKept.fault
    | with_reducible apply Kept.step (k := State.closeGuards_kept ..)

theorem State.mbxSelect_kept (s) (who) (page) (v) : Kept [.mbxs] s (State.mbxSelect s who page v) := by
  unfold State.mbxSelect
  repeat' first
    | exact Eq.refl true
    | with_reducible assumption
    | with_reducible apply Kept.ite
    | with_reducible apply Kept.refl
    | (extract_lets +onlyGivenNames x; clear_value x)
    | with_reducible refine Kept.foldl _ (fun _ _ => ?_) _ _
    | with_reducible apply Kept.step (k := Kept.foldl (m := [.mbxs]) _ (fun _ _ => ?_) _ _)
    | split
    | with_reducible apply Kept.step (k := Kept.mbxs ..)

theorem State.mbxWrite_kept (s) (who) (page) (off) (size) (v) : Kept [.regs, .shadows, .mbxs, .fns, .out] s (State.mbxWrite s who page off size v) := by
  unfold State.mbxWrite
  repeat' first
    | exact Eq.refl true
    | with_reducible assumption
    | with_reducible apply Kept.ite
    | with_reducible apply Kept.refl
    | (extract_lets +onlyGivenNames x; refine Kept.via x ?_ ?_; (on_goal 1 => (unfold x; clear x)); on_goal 2 => (intro hx; clear_value x))
    | with_reducible apply Kept.step (k := State.mbxSelect_kept ..)
    | with_reducible apply Kept.step (k := State.regTimeout_kept ..)
    | with_reducible apply Kept.step (k := State.dropShadow_kept ..)
    | with_reducible refine Kept.foldl _ (fun _ _ => ?_) _ _
    | with_reducible apply Kept.step (k := Kept.foldl (m := [.regs, .shadows, .mbxs, .fns, .out]) _ (fun _ _ => ?_) _ _)
    | split

theorem execMbxSel_kept (who) (page) (size) (v) (s) : OutKept [.regs, .shadows, .mbxs, .fns, .out] s (execMbxSel who page size v s) := by
  unfold execMbxSel
  repeat' first
    | exact Eq.refl true
    | with_reducible assumption
    | with_reducible apply Kept.ite
    | with_reducible apply Kept.refl
    | with_reducible apply OutKept.ite
    | with_reducible apply OutKept.next
    | with_reducible apply OutKept.fault
    | with_reducible apply Kept.step (k := State.mbxWrite_kept ..)

theorem State.clearCounters_kept (s) (page) : Kept [.regs] s (State.clearCounters s page) := by
  unfold State.clearCounters
  repeat' first
    | exact Eq.refl true
    | with_reducible assumption
    | with_reducible apply Kept.ite
    | with_reducible apply Kept.refl
    | with_reducible apply Kept.step (k := State.setReg_kept ..)
    | with_reducible refine Kept.foldl _ (fun _ _ => ?_) _ _

theorem cntHook_kept (w) (page) : Kept [.regs, .wins] w.st (cntHook w page) := by
  unfold cntHook
  repeat' first
    | exact Eq.refl true
    | with_reducible assumption
    | with_reducible apply Kept.ite
    | with_reducible apply Kept.refl
    | with_reducible apply Kept.step (k := State.clearCounters_kept ..)
    | with_reducible apply Kept.step (k := State.zeroBits_kept ..)

theorem execCntClr_kept (who) (page) (v) (s) : OutKept [.regs, .wins, .guards, .shadows, .sealRun, .fns, .out] s (execCntClr who page v s) := by
  unfold execCntClr
  repeat' first
    | exact Eq.refl true
    | with_reducible assumption
    | with_reducible apply Kept.ite
    | with_reducible apply Kept.refl
    | (extract_lets +onlyGivenNames x; refine OutKept.viaW x ?_ ?_; (on_goal 1 => (unfold x; clear x)); on_goal 2 => (intro hx; clear_value x))
    | with_reducible apply OutKept.ite
    | with_reducible apply OutKept.next
    | with_reducible apply OutKept.fault
    | with_reducible apply Kept.step (k := cntHook_kept ..)
    | with_reducible apply Kept.step (k := State.writeCore_kept ..)

theorem State.sealPages_kept (s) : Kept [.regs] s (State.sealPages s) := by
  unfold State.sealPages
  repeat' first
    | exact Eq.refl true
    | with_reducible assumption
    | with_reducible apply Kept.ite
    | with_reducible apply Kept.refl
    | with_reducible apply Kept.step (k := State.setReg_kept ..)
    | with_reducible refine Kept.foldl _ (fun _ _ => ?_) _ _

theorem State.sealMismatch_kept (s) : Kept [.regs, .sealRun, .fns, .reports, .evWay, .out] s (State.sealMismatch s) := by
  unfold State.sealMismatch
  repeat' first
    | exact Eq.refl true
    | with_reducible assumption
    | with_reducible apply Kept.ite
    | with_reducible apply Kept.refl
    | (extract_lets +onlyGivenNames x; clear_value x)
    | with_reducible apply Kept.step (k := State.report_kept ..)
    | with_reducible apply Kept.step (k := State.log_kept ..)
    | with_reducible apply Kept.step (k := State.raise_kept ..)
    | with_reducible apply Kept.step (k := State.setFields_kept ..)
    | with_reducible apply Kept.step (k := State.setRb_kept ..)
    | with_reducible refine Kept.foldl _ (fun _ _ => ?_) _ _
    | with_reducible apply Kept.step (k := Kept.foldl (m := [.regs, .sealRun, .fns, .reports, .evWay, .out]) _ (fun _ _ => ?_) _ _)
    | split
    | with_reducible apply Kept.step (k := Kept.sealRun ..)
    | with_reducible apply Kept.step (k := Kept.reports ..)

theorem State.sealCompare_kept (s) (crc) : Kept [.regs, .sealRun, .fns, .reports, .evWay, .out] s (State.sealCompare s crc) := by
  unfold State.sealCompare
  repeat' first
    | exact Eq.refl true
    | with_reducible assumption
    | with_reducible apply Kept.ite
    | with_reducible apply Kept.refl
    | with_reducible apply Kept.step (k := State.sealMismatch_kept ..)
    | with_reducible apply Kept.step (k := State.bump_kept ..)

theorem State.sealCommitNow_kept (s) (crc) : Kept [.regs, .fns, .out] s (State.sealCommitNow s crc) := by
  unfold State.sealCommitNow
  repeat' first
    | exact Eq.refl true
    | with_reducible assumption
    | with_reducible apply Kept.ite
    | with_reducible apply Kept.refl
    | (extract_lets +onlyGivenNames x; refine Kept.via x ?_ ?_; (on_goal 1 => (unfold x; clear x)); on_goal 2 => (intro hx; clear_value x))
    | with_reducible apply Kept.step (k := State.raise_kept ..)
    | with_reducible apply Kept.step (k := State.bump_kept ..)
    | with_reducible apply Kept.step (k := State.setRb_kept ..)
    | with_reducible apply Kept.step (k := State.setRf_kept ..)

theorem execSealWalk_kept (s) : OutKept [.regs, .sealRun, .fns, .reports, .evWay, .out] s (execSealWalk s) := by
  unfold execSealWalk
  repeat' first
    | exact Eq.refl true
    | with_reducible assumption
    | with_reducible apply Kept.ite
    | with_reducible apply Kept.refl
    | (extract_lets +onlyGivenNames x; refine OutKept.via x ?_ ?_; (on_goal 1 => (unfold x; clear x)); on_goal 2 => (intro hx; clear_value x))
    | (extract_lets +onlyGivenNames x; clear_value x)
    | with_reducible apply OutKept.ite
    | with_reducible apply OutKept.next
    | with_reducible apply OutKept.fault
    | with_reducible apply Kept.step (k := State.sealCommitNow_kept ..)
    | with_reducible apply Kept.step (k := State.sealCompare_kept ..)
    | with_reducible apply Kept.step (k := State.sealPages_kept ..)
    | with_reducible apply Kept.step (k := State.bump_kept ..)
    | with_reducible apply Kept.step (k := State.setReg_kept ..)
    | with_reducible refine Kept.foldl _ (fun _ _ => ?_) _ _
    | with_reducible apply Kept.step (k := Kept.foldl (m := [.regs, .sealRun, .fns, .reports, .evWay, .out]) _ (fun _ _ => ?_) _ _)
    | split
    | with_reducible apply Kept.step (k := Kept.sealRun ..)

theorem State.sealEnd_kept (s) : Kept [.regs, .sealRun, .heats] s (State.sealEnd s) := by
  unfold State.sealEnd
  repeat' first
    | exact Eq.refl true
    | with_reducible assumption
    | with_reducible apply Kept.ite
    | with_reducible apply Kept.refl
    | (extract_lets +onlyGivenNames x; refine Kept.via x ?_ ?_; (on_goal 1 => (unfold x; clear x)); on_goal 2 => (intro hx; clear_value x))
    | (extract_lets +onlyGivenNames x; clear_value x)
    | with_reducible apply Kept.step (k := State.resumeAsked_kept ..)
    | with_reducible apply Kept.step (k := State.resumeHeat_kept ..)
    | with_reducible apply Kept.step (k := State.setRb_kept ..)
    | with_reducible refine Kept.foldl _ (fun _ _ => ?_) _ _
    | with_reducible apply Kept.step (k := Kept.foldl (m := [.regs, .sealRun, .heats]) _ (fun _ _ => ?_) _ _)
    | split
    | with_reducible apply Kept.step (k := Kept.sealRun ..)

theorem sealHook_kept (w) (old) : Kept [.regs, .sealRun, .heats] w.st (sealHook w old) := by
  unfold sealHook
  repeat' first
    | exact Eq.refl true
    | with_reducible assumption
    | with_reducible apply Kept.ite
    | with_reducible apply Kept.refl
    | (extract_lets +onlyGivenNames x; clear_value x)
    | with_reducible apply Kept.step (k := State.sealEnd_kept ..)
    | with_reducible apply Kept.step (k := State.setRb_kept ..)
    | with_reducible refine Kept.foldl _ (fun _ _ => ?_) _ _
    | with_reducible apply Kept.step (k := Kept.foldl (m := [.regs, .sealRun, .heats]) _ (fun _ _ => ?_) _ _)
    | split
    | with_reducible apply Kept.step (k := Kept.sealRun ..)

theorem execSealCommit_kept (who) (v) (s) : OutKept [.regs, .wins, .guards, .shadows, .sealRun, .fns, .heats, .out] s (execSealCommit who v s) := by
  unfold execSealCommit
  repeat' first
    | exact Eq.refl true
    | with_reducible assumption
    | with_reducible apply Kept.ite
    | with_reducible apply Kept.refl
    | with_reducible apply OutKept.ite
    | with_reducible apply OutKept.next
    | with_reducible apply OutKept.fault
    | with_reducible apply Kept.step (k := sealHook_kept ..)
    | with_reducible apply Kept.step (k := State.writeCore_kept ..)

theorem execSealResume_kept (who) (v) (s) : OutKept [.regs, .wins, .guards, .shadows, .sealRun, .fns, .heats, .out] s (execSealResume who v s) := by
  unfold execSealResume
  repeat' first
    | exact Eq.refl true
    | with_reducible assumption
    | with_reducible apply Kept.ite
    | with_reducible apply Kept.refl
    | with_reducible apply OutKept.ite
    | with_reducible apply OutKept.next
    | with_reducible apply OutKept.fault
    | with_reducible apply Kept.step (k := sealHook_kept ..)
    | with_reducible apply Kept.step (k := State.writeCore_kept ..)

theorem State.tapStart_kept (s) : Kept [.regs, .tap, .fns, .out] s (State.tapStart s) := by
  unfold State.tapStart
  repeat' first
    | exact Eq.refl true
    | with_reducible assumption
    | with_reducible apply Kept.ite
    | with_reducible apply Kept.refl
    | (extract_lets +onlyGivenNames x; refine Kept.via x ?_ ?_; (on_goal 1 => (unfold x; clear x)); on_goal 2 => (intro hx; clear_value x))
    | (extract_lets +onlyGivenNames x; clear_value x)
    | with_reducible apply Kept.step (k := State.raise_kept ..)
    | with_reducible apply Kept.step (k := State.setFields_kept ..)
    | with_reducible apply Kept.step (k := State.setRf_kept ..)
    | with_reducible refine Kept.foldl _ (fun _ _ => ?_) _ _
    | with_reducible apply Kept.step (k := Kept.foldl (m := [.regs, .tap, .fns, .out]) _ (fun _ _ => ?_) _ _)
    | split
    | with_reducible apply Kept.step (k := Kept.tap ..)

theorem State.tapDrop_kept (s) : Kept [.regs, .tap] s (State.tapDrop s) := by
  unfold State.tapDrop
  repeat' first
    | exact Eq.refl true
    | with_reducible assumption
    | with_reducible apply Kept.ite
    | with_reducible apply Kept.refl
    | (extract_lets +onlyGivenNames x; refine Kept.via x ?_ ?_; (on_goal 1 => (unfold x; clear x)); on_goal 2 => (intro hx; clear_value x))
    | with_reducible apply Kept.step (k := State.setRf_kept ..)
    | with_reducible refine Kept.foldl _ (fun _ _ => ?_) _ _
    | with_reducible apply Kept.step (k := Kept.foldl (m := [.regs, .tap]) _ (fun _ _ => ?_) _ _)
    | split
    | with_reducible apply Kept.step (k := Kept.tap ..)

theorem tapHook_kept (w) : Kept [.regs, .wins, .tap, .fns, .out] w.st (tapHook w) := by
  unfold tapHook
  repeat' first
    | exact Eq.refl true
    | with_reducible assumption
    | with_reducible apply Kept.ite
    | with_reducible apply Kept.refl
    | with_reducible apply Kept.step (k := State.tapDrop_kept ..)
    | with_reducible apply Kept.step (k := State.tapStart_kept ..)
    | with_reducible apply Kept.step (k := State.zeroBits_kept ..)

theorem execTapGo_kept (who) (v) (s) : OutKept [.regs, .wins, .guards, .shadows, .tap, .sealRun, .fns, .out] s (execTapGo who v s) := by
  unfold execTapGo
  repeat' first
    | exact Eq.refl true
    | with_reducible assumption
    | with_reducible apply Kept.ite
    | with_reducible apply Kept.refl
    | with_reducible apply OutKept.ite
    | with_reducible apply OutKept.next
    | with_reducible apply OutKept.fault
    | with_reducible apply Kept.step (k := tapHook_kept ..)
    | with_reducible apply Kept.step (k := State.writeCore_kept ..)

theorem execTapCancel_kept (who) (v) (s) : OutKept [.regs, .wins, .guards, .shadows, .tap, .sealRun, .fns, .out] s (execTapCancel who v s) := by
  unfold execTapCancel
  repeat' first
    | exact Eq.refl true
    | with_reducible assumption
    | with_reducible apply Kept.ite
    | with_reducible apply Kept.refl
    | with_reducible apply OutKept.ite
    | with_reducible apply OutKept.next
    | with_reducible apply OutKept.fault
    | with_reducible apply Kept.step (k := tapHook_kept ..)
    | with_reducible apply Kept.step (k := State.writeCore_kept ..)

theorem State.tapMonitors_kept (s) (i) : Kept [.regs, .mon, .monTap] s (State.tapMonitors s i) := by
  unfold State.tapMonitors
  repeat' first
    | exact Eq.refl true
    | with_reducible assumption
    | with_reducible apply Kept.ite
    | with_reducible apply Kept.refl
    | with_reducible apply Kept.step (k := State.monClear_kept ..)
    | with_reducible refine Kept.foldl _ (fun _ _ => ?_) _ _
    | with_reducible apply Kept.step (k := Kept.foldl (m := [.regs, .mon, .monTap]) _ (fun _ _ => ?_) _ _)
    | split
    | with_reducible apply Kept.step (k := Kept.monTap ..)

theorem State.tapPageNow_kept (s) (num) (late) (page) : Kept [.regs, .tapSets] s (State.tapPageNow s num late page) := by
  unfold State.tapPageNow
  repeat' first
    | exact Eq.refl true
    | with_reducible assumption
    | with_reducible apply Kept.ite
    | with_reducible apply Kept.refl
    | (extract_lets +onlyGivenNames x; refine Kept.via x ?_ ?_; (on_goal 1 => (unfold x; clear x)); on_goal 2 => (intro hx; clear_value x))
    | with_reducible apply Kept.step (k := State.setReg_kept ..)
    | with_reducible refine Kept.foldl _ (fun _ _ => ?_) _ _
    | with_reducible apply Kept.step (k := Kept.foldl (m := [.regs, .tapSets]) _ (fun _ _ => ?_) _ _)
    | split
    | with_reducible apply Kept.step (k := Kept.tapSets ..)

theorem State.latchUnit_kept (s) (n) : Kept [.regs, .tapSets, .tap, .mon, .monTap] s (State.latchUnit s n) := by
  unfold State.latchUnit
  repeat' first
    | exact Eq.refl true
    | with_reducible assumption
    | with_reducible apply Kept.ite
    | with_reducible apply Kept.refl
    | (extract_lets +onlyGivenNames x; refine Kept.via x ?_ ?_; (on_goal 1 => (unfold x; clear x)); on_goal 2 => (intro hx; clear_value x))
    | (extract_lets +onlyGivenNames x; clear_value x)
    | with_reducible apply Kept.step (k := State.tapPageNow_kept ..)
    | with_reducible apply Kept.step (k := State.tapMonitors_kept ..)
    | with_reducible refine Kept.foldl _ (fun _ _ => ?_) _ _
    | with_reducible apply Kept.step (k := Kept.foldl (m := [.regs, .tapSets, .tap, .mon, .monTap]) _ (fun _ _ => ?_) _ _)
    | split
    | with_reducible apply Kept.step (k := Kept.tap ..)

theorem execTapLatch_kept (u) (s) : OutKept [.regs, .tapSets, .tap, .mon, .monTap] s (execTapLatch u s) := by
  unfold execTapLatch
  repeat' first
    | exact Eq.refl true
    | with_reducible assumption
    | with_reducible apply Kept.ite
    | with_reducible apply Kept.refl
    | with_reducible apply OutKept.ite
    | with_reducible apply OutKept.next
    | with_reducible apply OutKept.fault
    | with_reducible apply Kept.step (k := State.latchUnit_kept ..)

theorem execTapAck_kept (u) (s) : OutKept [.regs, .tap, .fns, .out] s (execTapAck u s) := by
  unfold execTapAck
  repeat' first
    | exact Eq.refl true
    | with_reducible assumption
    | with_reducible apply Kept.ite
    | with_reducible apply Kept.refl
    | (extract_lets +onlyGivenNames x; refine OutKept.via x ?_ ?_; (on_goal 1 => (unfold x; clear x)); on_goal 2 => (intro hx; clear_value x))
    | (extract_lets +onlyGivenNames x; clear_value x)
    | with_reducible apply OutKept.ite
    | with_reducible apply OutKept.next
    | with_reducible apply OutKept.fault
    | with_reducible apply Kept.step (k := State.raise_kept ..)
    | with_reducible apply Kept.step (k := State.bump_kept ..)
    | with_reducible apply Kept.step (k := State.setFields_kept ..)
    | with_reducible apply Kept.step (k := State.setRf_kept ..)
    | with_reducible refine Kept.foldl _ (fun _ _ => ?_) _ _
    | with_reducible apply Kept.step (k := Kept.foldl (m := [.regs, .tap, .fns, .out]) _ (fun _ _ => ?_) _ _)
    | split
    | with_reducible apply Kept.step (k := Kept.tap ..)

theorem timeHook_kept (w) : Kept [.regs, .timeSet, .fns, .out] w.st (timeHook w) := by
  unfold timeHook
  repeat' first
    | exact Eq.refl true
    | with_reducible assumption
    | with_reducible apply Kept.ite
    | with_reducible apply Kept.refl
    | (extract_lets +onlyGivenNames x; refine Kept.via x ?_ ?_; (on_goal 1 => (unfold x; clear x)); on_goal 2 => (intro hx; clear_value x))
    | with_reducible apply Kept.step (k := State.raise_kept ..)
    | with_reducible apply Kept.step (k := State.setRb_kept ..)
    | with_reducible refine Kept.foldl _ (fun _ _ => ?_) _ _
    | with_reducible apply Kept.step (k := Kept.foldl (m := [.regs, .timeSet, .fns, .out]) _ (fun _ _ => ?_) _ _)
    | split
    | with_reducible apply Kept.step (k := Kept.timeSet ..)

theorem execTimeSet_kept (who) (v) (s) : OutKept [.regs, .wins, .guards, .shadows, .sealRun, .timeSet, .fns, .out] s (execTimeSet who v s) := by
  unfold execTimeSet
  repeat' first
    | exact Eq.refl true
    | with_reducible assumption
    | with_reducible apply Kept.ite
    | with_reducible apply Kept.refl
    | with_reducible apply OutKept.ite
    | with_reducible apply OutKept.next
    | with_reducible apply OutKept.fault
    | with_reducible apply Kept.step (k := timeHook_kept ..)
    | with_reducible apply Kept.step (k := State.writeCore_kept ..)

/-! ### Trust -/

theorem State.setSpdm_kept (s) (tr) (c) : Kept [.spdm] s (State.setSpdm s tr c) := by
  unfold State.setSpdm
  repeat' first
    | exact Eq.refl true
    | with_reducible assumption
    | with_reducible apply Kept.ite
    | with_reducible apply Kept.refl
    | with_reducible refine Kept.foldl _ (fun _ _ => ?_) _ _
    | with_reducible apply Kept.step (k := Kept.foldl (m := [.spdm]) _ (fun _ _ => ?_) _ _)
    | split
    | with_reducible apply Kept.step (k := Kept.spdm ..)

theorem State.spdmReply_kept (s) (tr) (body) : Kept [.regs, .out] s (State.spdmReply s tr body) := by
  unfold State.spdmReply
  repeat' first
    | exact Eq.refl true
    | with_reducible assumption
    | with_reducible apply Kept.ite
    | with_reducible apply Kept.refl
    | with_reducible apply Kept.step (k := State.send_kept ..)
    | with_reducible apply Kept.step (k := State.bump_kept ..)

theorem State.spdmError_kept (s) (tr) (code) : Kept [.regs, .out] s (State.spdmError s tr code) := by
  unfold State.spdmError
  repeat' first
    | exact Eq.refl true
    | with_reducible assumption
    | with_reducible apply Kept.ite
    | with_reducible apply Kept.refl
    | with_reducible apply Kept.step (k := State.spdmReply_kept ..)

theorem State.spdmServe_kept {m s tr ready f} (hm : Field.within [.regs, .out] m = true) (hf : ∀ t, Kept m t (f t)) :
    Kept m s (State.spdmServe s tr ready f) := by
  unfold State.spdmServe
  split
  · exact Kept.refl _ _
  · split
    · exact hf _
    · exact (State.spdmError_kept ..).mono hm

theorem execGetVersion_kept (tr) (s) : OutKept [.regs, .spdm, .out] s (execGetVersion tr s) := by
  unfold execGetVersion
  repeat' first
    | exact Eq.refl true
    | with_reducible assumption
    | with_reducible apply Kept.ite
    | with_reducible apply Kept.refl
    | with_reducible apply OutKept.ite
    | with_reducible apply OutKept.next
    | with_reducible apply OutKept.fault
    | with_reducible refine Kept.step ?_ (State.spdmServe_kept (m := [.regs, .spdm, .out]) ?_ (fun _ => ?_) ..) ?_
    | with_reducible apply Kept.step (k := State.spdmReply_kept ..)
    | with_reducible apply Kept.step (k := State.setSpdm_kept ..)

theorem execGetCapabilities_kept (tr) (s) : OutKept [.regs, .spdm, .out] s (execGetCapabilities tr s) := by
  unfold execGetCapabilities
  repeat' first
    | exact Eq.refl true
    | with_reducible assumption
    | with_reducible apply Kept.ite
    | with_reducible apply Kept.refl
    | (extract_lets +onlyGivenNames x; clear_value x)
    | with_reducible apply OutKept.ite
    | with_reducible apply OutKept.next
    | with_reducible apply OutKept.fault
    | with_reducible refine Kept.step ?_ (State.spdmServe_kept (m := [.regs, .spdm, .out]) ?_ (fun _ => ?_) ..) ?_
    | with_reducible apply Kept.step (k := State.spdmReply_kept ..)
    | with_reducible apply Kept.step (k := State.setSpdm_kept ..)

theorem execNegotiateAlgorithms_kept (tr) (s) : OutKept [.regs, .spdm, .out] s (execNegotiateAlgorithms tr s) := by
  unfold execNegotiateAlgorithms
  repeat' first
    | exact Eq.refl true
    | with_reducible assumption
    | with_reducible apply Kept.ite
    | with_reducible apply Kept.refl
    | (extract_lets +onlyGivenNames x; clear_value x)
    | with_reducible apply OutKept.ite
    | with_reducible apply OutKept.next
    | with_reducible apply OutKept.fault
    | with_reducible refine Kept.step ?_ (State.spdmServe_kept (m := [.regs, .spdm, .out]) ?_ (fun _ => ?_) ..) ?_
    | with_reducible apply Kept.step (k := State.spdmReply_kept ..)
    | with_reducible apply Kept.step (k := State.setSpdm_kept ..)

theorem execGetDigests_kept (tr) (s) : OutKept [.regs, .out] s (execGetDigests tr s) := by
  unfold execGetDigests
  repeat' first
    | exact Eq.refl true
    | with_reducible assumption
    | with_reducible apply Kept.ite
    | with_reducible apply Kept.refl
    | with_reducible apply OutKept.ite
    | with_reducible apply OutKept.next
    | with_reducible apply OutKept.fault
    | with_reducible refine Kept.step ?_ (State.spdmServe_kept (m := [.regs, .out]) ?_ (fun _ => ?_) ..) ?_
    | with_reducible apply Kept.step (k := State.spdmReply_kept ..)

theorem execGetCertificate_kept (tr) (slot) (off) (len) (s) : OutKept [.regs, .out] s (execGetCertificate tr slot off len s) := by
  unfold execGetCertificate
  repeat' first
    | exact Eq.refl true
    | with_reducible assumption
    | with_reducible apply Kept.ite
    | with_reducible apply Kept.refl
    | (extract_lets +onlyGivenNames x; clear_value x)
    | with_reducible apply OutKept.ite
    | with_reducible apply OutKept.next
    | with_reducible apply OutKept.fault
    | with_reducible refine Kept.step ?_ (State.spdmServe_kept (m := [.regs, .out]) ?_ (fun _ => ?_) ..) ?_
    | with_reducible apply Kept.step (k := State.spdmError_kept ..)
    | with_reducible apply Kept.step (k := State.spdmReply_kept ..)

theorem State.deviceSigned_keptP (s) (m) : Kept [.fresh] s (State.deviceSigned s m).2 := by
  unfold State.deviceSigned
  repeat' first
    | exact Eq.refl true
    | with_reducible assumption
    | with_reducible apply Kept.ite
    | with_reducible apply Kept.refl
    | with_reducible apply Kept.step (k := State.tickFresh_kept ..)
theorem State.deviceSigned_kept {s m zz tt} (h : State.deviceSigned s m = (zz, tt)) : Kept [.fresh] s tt := by
  have := State.deviceSigned_keptP s m
  rw [h] at this
  exact this

theorem execChallenge_kept (tr) (slot) (nonce) (s) : OutKept [.fresh, .regs, .out] s (execChallenge tr slot nonce s) := by
  unfold execChallenge
  repeat' first
    | exact Eq.refl true
    | with_reducible assumption
    | with_reducible apply Kept.ite
    | with_reducible apply Kept.refl
    | (extract_lets +onlyGivenNames x; clear_value x)
    | with_reducible apply OutKept.ite
    | with_reducible apply OutKept.next
    | with_reducible apply OutKept.fault
    | with_reducible refine Kept.step ?_ (State.deviceSigned_kept (by assumption)) ?_
    | with_reducible apply Kept.step (k := State.deviceSigned_keptP ..)
    | with_reducible refine Kept.step ?_ (State.spdmServe_kept (m := [.fresh, .regs, .out]) ?_ (fun _ => ?_) ..) ?_
    | with_reducible apply Kept.step (k := State.spdmError_kept ..)
    | with_reducible apply Kept.step (k := State.spdmReply_kept ..)
    | with_reducible apply Kept.step (k := State.tickFresh_kept ..)

theorem execGetMeasurements_kept (tr) (op) (nonce) (signed) (s) : OutKept [.fresh, .regs, .out] s (execGetMeasurements tr op nonce signed s) := by
  unfold execGetMeasurements
  repeat' first
    | exact Eq.refl true
    | with_reducible assumption
    | with_reducible apply Kept.ite
    | with_reducible apply Kept.refl
    | (extract_lets +onlyGivenNames x; clear_value x)
    | with_reducible apply OutKept.ite
    | with_reducible apply OutKept.next
    | with_reducible apply OutKept.fault
    | with_reducible refine Kept.step ?_ (State.deviceSigned_kept (by assumption)) ?_
    | with_reducible apply Kept.step (k := State.deviceSigned_keptP ..)
    | with_reducible refine Kept.step ?_ (State.spdmServe_kept (m := [.fresh, .regs, .out]) ?_ (fun _ => ?_) ..) ?_
    | with_reducible apply Kept.step (k := State.spdmError_kept ..)
    | with_reducible apply Kept.step (k := State.spdmReply_kept ..)
    | with_reducible apply Kept.step (k := State.tickFresh_kept ..)

theorem execSpdmUnsupported_kept (tr) (_code) (s) : OutKept [.regs, .out] s (execSpdmUnsupported tr _code s) := by
  unfold execSpdmUnsupported
  repeat' first
    | exact Eq.refl true
    | with_reducible assumption
    | with_reducible apply Kept.ite
    | with_reducible apply Kept.refl
    | with_reducible apply OutKept.ite
    | with_reducible apply OutKept.next
    | with_reducible apply OutKept.fault
    | with_reducible refine Kept.step ?_ (State.spdmServe_kept (m := [.regs, .out]) ?_ (fun _ => ?_) ..) ?_
    | with_reducible apply Kept.step (k := State.spdmError_kept ..)

theorem State.setKeySlot_kept (s) (k) (x) : Kept [.sec] s (State.setKeySlot s k x) := by
  unfold State.setKeySlot
  repeat' first
    | exact Eq.refl true
    | with_reducible assumption
    | with_reducible apply Kept.ite
    | with_reducible apply Kept.refl
    | (extract_lets +onlyGivenNames x; clear_value x)
    | with_reducible refine Kept.foldl _ (fun _ _ => ?_) _ _
    | with_reducible apply Kept.step (k := Kept.foldl (m := [.sec]) _ (fun _ _ => ?_) _ _)
    | split
    | with_reducible apply Kept.step (k := Kept.sec ..)

theorem State.applyRecord_kept (s) (e) : Kept [.sec] s (State.applyRecord s e) := by
  unfold State.applyRecord
  repeat' first
    | exact Eq.refl true
    | with_reducible assumption
    | with_reducible apply Kept.ite
    | with_reducible apply Kept.refl
    | with_reducible apply Kept.step (k := State.setKeySlot_kept ..)
    | with_reducible refine Kept.foldl _ (fun _ _ => ?_) _ _
    | with_reducible apply Kept.step (k := Kept.foldl (m := [.sec]) _ (fun _ _ => ?_) _ _)

theorem State.enrollRecord_keptP (s) : Kept [.regs, .banks, .fns, .evWay, .out] s (State.enrollRecord s).2 := by
  unfold State.enrollRecord
  repeat' first
    | exact Eq.refl true
    | with_reducible assumption
    | with_reducible apply Kept.ite
    | with_reducible apply Kept.refl
    | (extract_lets +onlyGivenNames x; clear_value x)
    | with_reducible refine Kept.step ?_ (State.mireServeRead_kept (by assumption)) ?_
    | with_reducible apply Kept.step (k := State.mireServeRead_keptP ..)
    | with_reducible refine Kept.foldl _ (fun _ _ => ?_) _ _
    | with_reducible apply Kept.step (k := Kept.foldl (m := [.regs, .banks, .fns, .evWay, .out]) _ (fun _ _ => ?_) _ _)
    | split
theorem State.enrollRecord_kept {s zz tt} (h : State.enrollRecord s = (zz, tt)) : Kept [.regs, .banks, .fns, .evWay, .out] s tt := by
  have := State.enrollRecord_keptP s
  rw [h] at this
  exact this

theorem State.enrollNow_kept (s) : Kept [.fresh, .regs, .banks, .fns, .sec, .evWay, .out] s (State.enrollNow s) := by
  unfold State.enrollNow
  repeat' first
    | exact Eq.refl true
    | with_reducible assumption
    | with_reducible apply Kept.ite
    | with_reducible apply Kept.refl
    | with_reducible refine Kept.step ?_ (State.enrollRecord_kept (by assumption)) ?_
    | with_reducible apply Kept.step (k := State.enrollRecord_keptP ..)
    | with_reducible apply Kept.step (k := State.applyRecord_kept ..)
    | with_reducible apply Kept.step (k := State.tickFresh_kept ..)
    | with_reducible apply Kept.step (k := State.raise_kept ..)
    | with_reducible apply Kept.step (k := State.bump_kept ..)
    | with_reducible apply Kept.step (k := State.setRf_kept ..)
    | with_reducible apply Kept.step (k := State.setReg_kept ..)
    | with_reducible refine Kept.foldl _ (fun _ _ => ?_) _ _
    | with_reducible apply Kept.step (k := Kept.foldl (m := [.fresh, .regs, .banks, .fns, .sec, .evWay, .out]) _ (fun _ _ => ?_) _ _)
    | split

theorem enrHook_kept (w) : Kept [.fresh, .regs, .wins, .banks, .fns, .sec, .evWay, .out] w.st (enrHook w) := by
  unfold enrHook
  repeat' first
    | exact Eq.refl true
    | with_reducible assumption
    | with_reducible apply Kept.ite
    | with_reducible apply Kept.refl
    | with_reducible apply Kept.step (k := State.enrollNow_kept ..)
    | with_reducible apply Kept.step (k := State.zeroBits_kept ..)

theorem execEnroll_kept (who) (v) (s) : OutKept [.fresh, .regs, .wins, .guards, .shadows, .sealRun, .banks, .fns, .sec, .evWay, .out] s (execEnroll who v s) := by
  unfold execEnroll
  repeat' first
    | exact Eq.refl true
    | with_reducible assumption
    | with_reducible apply Kept.ite
    | with_reducible apply Kept.refl
    | with_reducible apply OutKept.ite
    | with_reducible apply OutKept.next
    | with_reducible apply OutKept.fault
    | with_reducible apply Kept.step (k := enrHook_kept ..)
    | with_reducible apply Kept.step (k := State.writeCore_kept ..)

theorem execRevoke_kept (who) (v) (s) : OutKept [.fresh, .regs, .wins, .guards, .shadows, .sealRun, .banks, .fns, .sec, .evWay, .out] s (execRevoke who v s) := by
  unfold execRevoke
  repeat' first
    | exact Eq.refl true
    | with_reducible assumption
    | with_reducible apply Kept.ite
    | with_reducible apply Kept.refl
    | with_reducible apply OutKept.ite
    | with_reducible apply OutKept.next
    | with_reducible apply OutKept.fault
    | with_reducible apply Kept.step (k := enrHook_kept ..)
    | with_reducible apply Kept.step (k := State.writeCore_kept ..)

theorem rollHook_kept (w) : Kept [.regs, .wins, .sec] w.st (rollHook w) := by
  unfold rollHook
  repeat' first
    | exact Eq.refl true
    | with_reducible assumption
    | with_reducible apply Kept.ite
    | with_reducible apply Kept.refl
    | (extract_lets +onlyGivenNames x; clear_value x)
    | with_reducible apply Kept.step (k := State.zeroBits_kept ..)
    | with_reducible refine Kept.foldl _ (fun _ _ => ?_) _ _
    | with_reducible apply Kept.step (k := Kept.foldl (m := [.regs, .wins, .sec]) _ (fun _ _ => ?_) _ _)
    | split
    | with_reducible apply Kept.step (k := Kept.sec ..)

theorem execRollAdv_kept (who) (v) (s) : OutKept [.regs, .wins, .guards, .shadows, .sealRun, .fns, .sec, .out] s (execRollAdv who v s) := by
  unfold execRollAdv
  repeat' first
    | exact Eq.refl true
    | with_reducible assumption
    | with_reducible apply Kept.ite
    | with_reducible apply Kept.refl
    | with_reducible apply OutKept.ite
    | with_reducible apply OutKept.next
    | with_reducible apply OutKept.fault
    | with_reducible apply Kept.step (k := rollHook_kept ..)
    | with_reducible apply Kept.step (k := State.writeCore_kept ..)

/-! ### RegBus -/

theorem slotMapHook_kept (w) (tile) : Kept [.regs, .slotMap] w.st (slotMapHook w tile) := by
  unfold slotMapHook
  repeat' first
    | exact Eq.refl true
    | with_reducible assumption
    | with_reducible apply Kept.ite
    | with_reducible apply Kept.refl
    | (extract_lets +onlyGivenNames x; clear_value x)
    | with_reducible apply Kept.step (k := State.setReg_kept ..)
    | split
    | with_reducible apply Kept.step (k := Kept.slotMap ..)

theorem routeHook_kept (w) (tile) : Kept [.regs, .routes] w.st (routeHook w tile) := by
  unfold routeHook
  repeat' first
    | exact Eq.refl true
    | with_reducible assumption
    | with_reducible apply Kept.ite
    | with_reducible apply Kept.refl
    | (extract_lets +onlyGivenNames x; clear_value x)
    | with_reducible apply Kept.step (k := State.setReg_kept ..)
    | split
    | with_reducible apply Kept.step (k := Kept.routes ..)

theorem segHook_kept (w) (old) (tile) (cru) : Kept [.regs, .wins, .crus, .fns, .out] w.st (segHook w old tile cru) := by
  unfold segHook
  repeat' first
    | exact Eq.refl true
    | with_reducible assumption
    | with_reducible apply Kept.ite
    | with_reducible apply Kept.refl
    | (extract_lets +onlyGivenNames x; clear_value x)
    | with_reducible apply Kept.step (k := State.werr_kept ..)
    | with_reducible apply Kept.step (k := State.keepReg_kept ..)
    | with_reducible apply Kept.step (k := State.setCru_kept ..)

theorem cruHook_kept (w) (old) (tile) (cru) : Kept [.regs, .wins, .tasks, .crus, .fns, .out] w.st (cruHook w old tile cru) := by
  unfold cruHook
  repeat' first
    | exact Eq.refl true
    | with_reducible assumption
    | with_reducible apply Kept.ite
    | with_reducible apply Kept.refl
    | with_reducible apply Kept.step (k := segHook_kept ..)
    | with_reducible apply Kept.step (k := taskCtlHook_kept ..)

theorem cetisHook_kept (w) (tile) : Kept [.regs, .slotMap, .routes] w.st (cetisHook w tile) := by
  unfold cetisHook
  repeat' first
    | exact Eq.refl true
    | with_reducible assumption
    | with_reducible apply Kept.ite
    | with_reducible apply Kept.refl
    | with_reducible apply Kept.step (k := routeHook_kept ..)
    | with_reducible apply Kept.step (k := slotMapHook_kept ..)

theorem pwrHook_kept (w) (tile) : Kept (.fresh :: .regs :: .wins :: .pool :: .peat :: .poolBad :: .peatBad :: .tasks :: .crus :: .slots :: .probes :: .rx :: .fns :: .ramps :: .minvSeen :: .khz :: .deferred :: .out :: []) w.st (pwrHook w tile) := by
  unfold pwrHook
  repeat' first
    | exact Eq.refl true
    | with_reducible assumption
    | with_reducible apply Kept.ite
    | with_reducible apply Kept.refl
    | with_reducible apply Kept.step (k := minvHook_kept ..)
    | with_reducible apply Kept.step (k := pwrDomHook_kept ..)

theorem thermHook_kept (w) (tile) : Kept [.regs, .fns, .reports, .sens, .out] w.st (thermHook w tile) := by
  unfold thermHook
  repeat' first
    | exact Eq.refl true
    | with_reducible assumption
    | with_reducible apply Kept.ite
    | with_reducible apply Kept.refl
    | with_reducible apply Kept.step (k := sensHook_kept ..)

theorem monHook_kept (w) (tile) : Kept [.regs, .wins, .mon] w.st (monHook w tile) := by
  unfold monHook
  repeat' first
    | exact Eq.refl true
    | with_reducible assumption
    | with_reducible apply Kept.ite
    | with_reducible apply Kept.refl
    | with_reducible apply Kept.step (k := monConfigHook_kept ..)
    | with_reducible apply Kept.step (k := monClrHook_kept ..)

theorem tileHook_kept (w) (old) (p) : Kept (.fresh :: .regs :: .wins :: .pool :: .peat :: .mire :: .poolBad :: .peatBad :: .mireBad :: .tasks :: .crus :: .gates :: .slots :: .probes :: .rx :: .slotMap :: .routes :: .net :: .ports :: .banks :: .streams :: .nextTag :: .fns :: .reports :: .mon :: .evWay :: .ramps :: .minvSeen :: .khz :: .deferred :: .sens :: .planDue :: .out :: []) w.st (tileHook w old p) := by
  unfold tileHook
  repeat' first
    | exact Eq.refl true
    | with_reducible assumption
    | with_reducible apply Kept.ite
    | with_reducible apply Kept.refl
    | with_reducible apply Kept.step (k := monHook_kept ..)
    | with_reducible apply Kept.step (k := thermHook_kept ..)
    | with_reducible apply Kept.step (k := pwrHook_kept ..)
    | with_reducible apply Kept.step (k := cetisHook_kept ..)
    | with_reducible apply Kept.step (k := cruHook_kept ..)
    | with_reducible apply Kept.step (k := cregHook_kept ..)
    | with_reducible apply Kept.step (k := gateValHook_kept ..)
    | with_reducible apply Kept.step (k := gramHook_kept ..)
    | with_reducible apply Kept.step (k := ageHook_kept ..)
    | split

theorem tideHook_kept (w) (old) (who) : Kept (.fresh :: .regs :: .wins :: .pool :: .peat :: .poolBad :: .peatBad :: .tasks :: .crus :: .slots :: .probes :: .rx :: .fns :: .ramps :: .minvSeen :: .tide :: .khz :: .deferred :: .out :: []) w.st (tideHook w old who) := by
  unfold tideHook
  repeat' first
    | exact Eq.refl true
    | with_reducible assumption
    | with_reducible apply Kept.ite
    | with_reducible apply Kept.refl
    | with_reducible apply Kept.step (k := tideSrcHook_kept ..)
    | with_reducible apply Kept.step (k := vmifHook_kept ..)
    | with_reducible apply Kept.step (k := sluiceDomHook_kept ..)

theorem polderHook_kept (w) (old) : Kept (.fresh :: .regs :: .wins :: .pool :: .peat :: .poolBad :: .peatBad :: .tasks :: .crus :: .slots :: .probes :: .rx :: .fns :: .reports :: .ramps :: .khz :: .deferred :: .heats :: .out :: []) w.st (polderHook w old) := by
  unfold polderHook
  repeat' first
    | exact Eq.refl true
    | with_reducible assumption
    | with_reducible apply Kept.ite
    | with_reducible apply Kept.refl
    | with_reducible apply Kept.step (k := rcTileHook_kept ..)
    | with_reducible apply Kept.step (k := rcCtlHook_kept ..)
    | with_reducible apply Kept.step (k := poldLoopHook_kept ..)

theorem globalHook_kept (w) (old) (who) (cls) : Kept (.fresh :: .regs :: .wins :: .tap :: .sealRun :: .timeSet :: .pool :: .peat :: .poolBad :: .peatBad :: .tasks :: .crus :: .slots :: .probes :: .rx :: .net :: .ports :: .streams :: .fns :: .reports :: .ramps :: .minvSeen :: .tide :: .khz :: .deferred :: .heats :: .out :: []) w.st (globalHook w old who cls) := by
  unfold globalHook
  repeat' first
    | exact Eq.refl true
    | with_reducible assumption
    | with_reducible apply Kept.ite
    | with_reducible apply Kept.refl
    | with_reducible apply Kept.step (k := polderHook_kept ..)
    | with_reducible apply Kept.step (k := tideHook_kept ..)
    | with_reducible apply Kept.step (k := timeHook_kept ..)
    | with_reducible apply Kept.step (k := tapHook_kept ..)
    | with_reducible apply Kept.step (k := sealHook_kept ..)
    | with_reducible apply Kept.step (k := semHook_kept ..)
    | with_reducible apply Kept.step (k := strmCancelHook_kept ..)
    | split

theorem pourHook_kept (w) (old) (who) (d) : Kept [.regs, .wins, .castRun, .pours, .fns, .out] w.st (pourHook w old who d) := by
  unfold pourHook
  repeat' first
    | exact Eq.refl true
    | with_reducible assumption
    | with_reducible apply Kept.ite
    | with_reducible apply Kept.refl
    | with_reducible apply Kept.step (k := pourStopHook_kept ..)
    | with_reducible apply Kept.step (k := castHook_kept ..)

theorem secHook_kept (w) : Kept [.fresh, .regs, .wins, .banks, .fns, .sec, .evWay, .out] w.st (secHook w) := by
  unfold secHook
  repeat' first
    | exact Eq.refl true
    | with_reducible assumption
    | with_reducible apply Kept.ite
    | with_reducible apply Kept.refl
    | with_reducible apply Kept.step (k := rollHook_kept ..)
    | with_reducible apply Kept.step (k := enrHook_kept ..)

theorem trayHook_kept (w) (d) : Kept (.fresh :: .regs :: .wins :: .pool :: .peat :: .poolBad :: .peatBad :: .tasks :: .crus :: .slots :: .probes :: .rx :: .fns :: .reports :: .evWay :: .ramps :: .khz :: .deferred :: .sens :: .boot :: .out :: []) w.st (trayHook w d) := by
  unfold trayHook
  repeat' first
    | exact Eq.refl true
    | with_reducible assumption
    | with_reducible apply Kept.ite
    | with_reducible apply Kept.refl
    | with_reducible apply Kept.step (k := shutHook_kept ..)
    | with_reducible apply Kept.step (k := sensHook_kept ..)

theorem dieHook_kept (w) (old) (who) (p) : Kept (.fresh :: .regs :: .wins :: .pool :: .peat :: .poolBad :: .peatBad :: .tasks :: .crus :: .slots :: .probes :: .rx :: .pgQueue :: .pgPushed :: .banks :: .castRun :: .pours :: .queues :: .fns :: .reports :: .sec :: .evWay :: .ramps :: .khz :: .deferred :: .sens :: .boot :: .out :: []) w.st (dieHook w old who p) := by
  unfold dieHook
  repeat' first
    | exact Eq.refl true
    | with_reducible assumption
    | with_reducible apply Kept.ite
    | with_reducible apply Kept.refl
    | with_reducible apply Kept.step (k := trayHook_kept ..)
    | with_reducible apply Kept.step (k := secHook_kept ..)
    | with_reducible apply Kept.step (k := pourHook_kept ..)
    | with_reducible apply Kept.step (k := pgGoHook_kept ..)
    | with_reducible apply Kept.step (k := State.recheckRate_kept ..)
    | with_reducible apply Kept.step (k := queueHook_kept ..)
    | with_reducible apply Kept.step (k := State.selectRef_kept ..)
    | split

theorem regHook_kept (w) (old) (who) (page) : Kept (.fresh :: .regs :: .wins :: .tap :: .sealRun :: .timeSet :: .pool :: .peat :: .mire :: .poolBad :: .peatBad :: .mireBad :: .tasks :: .crus :: .gates :: .slots :: .probes :: .rx :: .slotMap :: .routes :: .net :: .ports :: .pgQueue :: .pgPushed :: .banks :: .streams :: .nextTag :: .castRun :: .pours :: .queues :: .fns :: .reports :: .mon :: .sec :: .evWay :: .ramps :: .minvSeen :: .tide :: .khz :: .deferred :: .sens :: .boot :: .planDue :: .heats :: .out :: []) w.st (regHook w old who page) := by
  unfold regHook
  repeat' first
    | exact Eq.refl true
    | with_reducible assumption
    | with_reducible apply Kept.ite
    | with_reducible apply Kept.refl
    | with_reducible apply Kept.step (k := dieHook_kept ..)
    | with_reducible apply Kept.step (k := globalHook_kept ..)
    | with_reducible apply Kept.step (k := tileHook_kept ..)
    | with_reducible apply Kept.step (k := cntHook_kept ..)
    | split

theorem State.writeReg_kept (s) (who) (page) (off) (size) (v) : Kept (.fresh :: .regs :: .wins :: .guards :: .shadows :: .mbxs :: .tap :: .sealRun :: .timeSet :: .pool :: .peat :: .mire :: .poolBad :: .peatBad :: .mireBad :: .tasks :: .crus :: .gates :: .slots :: .probes :: .rx :: .slotMap :: .routes :: .net :: .ports :: .pgQueue :: .pgPushed :: .banks :: .streams :: .nextTag :: .castRun :: .pours :: .queues :: .fns :: .reports :: .mon :: .sec :: .evWay :: .ramps :: .minvSeen :: .tide :: .khz :: .deferred :: .sens :: .boot :: .planDue :: .heats :: .out :: []) s (State.writeReg s who page off size v) := by
  unfold State.writeReg
  repeat' first
    | exact Eq.refl true
    | with_reducible assumption
    | with_reducible apply Kept.ite
    | with_reducible apply Kept.refl
    | with_reducible apply Kept.step (k := regHook_kept ..)
    | with_reducible apply Kept.step (k := State.mbxWrite_kept ..)
    | with_reducible apply Kept.step (k := State.keyWrite_kept ..)
    | with_reducible apply Kept.step (k := State.writeCore_kept ..)
    | with_reducible refine Kept.step ?_ (State.summarized_kept (m := (.fresh :: .regs :: .wins :: .guards :: .shadows :: .mbxs :: .tap :: .sealRun :: .timeSet :: .pool :: .peat :: .mire :: .poolBad :: .peatBad :: .mireBad :: .tasks :: .crus :: .gates :: .slots :: .probes :: .rx :: .slotMap :: .routes :: .net :: .ports :: .pgQueue :: .pgPushed :: .banks :: .streams :: .nextTag :: .castRun :: .pours :: .queues :: .fns :: .reports :: .mon :: .sec :: .evWay :: .ramps :: .minvSeen :: .tide :: .khz :: .deferred :: .sens :: .boot :: .planDue :: .heats :: .out :: [])) ?_ (fun _ => ?_) ..) ?_

theorem execRegWrite_kept (who) (page) (off) (size) (v) (s) : OutKept (.fresh :: .regs :: .wins :: .guards :: .shadows :: .mbxs :: .tap :: .sealRun :: .timeSet :: .pool :: .peat :: .mire :: .poolBad :: .peatBad :: .mireBad :: .tasks :: .crus :: .gates :: .slots :: .probes :: .rx :: .slotMap :: .routes :: .net :: .ports :: .pgQueue :: .pgPushed :: .banks :: .streams :: .nextTag :: .castRun :: .pours :: .queues :: .fns :: .reports :: .mon :: .sec :: .evWay :: .ramps :: .minvSeen :: .tide :: .khz :: .deferred :: .sens :: .boot :: .planDue :: .heats :: .out :: []) s (execRegWrite who page off size v s) := by
  unfold execRegWrite
  repeat' first
    | exact Eq.refl true
    | with_reducible assumption
    | with_reducible apply Kept.ite
    | with_reducible apply Kept.refl
    | with_reducible apply OutKept.ite
    | with_reducible apply OutKept.next
    | with_reducible apply OutKept.fault
    | with_reducible apply Kept.step (k := State.writeReg_kept ..)

/-! ### Load -/

theorem State.allTiles_kept {m s f} (_ : Field.within [] m = true) (hf : ∀ t i, Kept m t (f t i)) : Kept m s (State.allTiles s f) :=
  Kept.foldl _ hf _ _

theorem State.allCrucibles_kept (s) (l) (en) : Kept [.regs] s (State.allCrucibles s l en) := by
  unfold State.allCrucibles
  repeat' first
    | exact Eq.refl true
    | with_reducible assumption
    | with_reducible apply Kept.ite
    | with_reducible apply Kept.refl
    | with_reducible apply Kept.step (k := State.setRb_kept ..)
    | with_reducible refine Kept.foldl _ (fun _ _ => ?_) _ _

theorem State.releaseTiles_kept (s) : Kept [.regs, .dieFence] s (State.releaseTiles s) := by
  unfold State.releaseTiles
  repeat' first
    | exact Eq.refl true
    | with_reducible assumption
    | with_reducible apply Kept.ite
    | with_reducible apply Kept.refl
    | (extract_lets +onlyGivenNames x; refine Kept.via x ?_ ?_; (on_goal 1 => (unfold x; clear x)); on_goal 2 => (intro hx; clear_value x))
    | (extract_lets +onlyGivenNames x; clear_value x)
    | with_reducible apply Kept.step (k := State.openPorts_kept ..)
    | with_reducible apply Kept.step (k := State.fenceToward_kept ..)
    | with_reducible apply Kept.step (k := State.setTstate_kept ..)
    | with_reducible refine Kept.foldl _ (fun _ _ => ?_) _ _
    | with_reducible apply Kept.step (k := Kept.foldl (m := [.regs, .dieFence]) _ (fun _ _ => ?_) _ _)

theorem State.noteReports_kept (s) : Kept [.regs, .reports, .evWay] s (State.noteReports s) := by
  unfold State.noteReports
  repeat' first
    | exact Eq.refl true
    | with_reducible assumption
    | with_reducible apply Kept.ite
    | with_reducible apply Kept.refl
    | (extract_lets +onlyGivenNames x; refine Kept.via x ?_ ?_; (on_goal 1 => (unfold x; clear x)); on_goal 2 => (intro hx; clear_value x))
    | with_reducible apply Kept.step (k := State.logReport_kept ..)
    | with_reducible refine Kept.foldl _ (fun _ _ => ?_) _ _
    | with_reducible apply Kept.step (k := Kept.foldl (m := [.regs, .reports, .evWay]) _ (fun _ _ => ?_) _ _)
    | split
    | with_reducible apply Kept.step (k := Kept.reports ..)

theorem State.loadReset_kept (s) : Kept (.fresh :: .regs :: .wins :: .sealRun :: .pool :: .peat :: .peatBad :: .tasks :: .crus :: .gates :: .slots :: .probes :: .rx :: .rimEpoch :: .dieFence :: .beds :: .places :: .wmoves :: .rplaces :: .handRx :: .casting :: .pours :: .fns :: .reports :: .evWay :: .heats :: .out :: []) s (State.loadReset s) := by
  unfold State.loadReset
  extract_lets s0 s1 s2 s3 s4 s5 s6 s7
  have h0 : Kept (.fresh :: .regs :: .wins :: .sealRun :: .pool :: .peat :: .peatBad :: .tasks :: .crus :: .gates :: .slots :: .probes :: .rx :: .rimEpoch :: .dieFence :: .beds :: .places :: .wmoves :: .rplaces :: .handRx :: .casting :: .pours :: .fns :: .reports :: .evWay :: .heats :: .out :: []) s s0 := ((State.noteReports_kept ..).mono rfl).step (State.closeAll_kept ..) rfl
  clear_value s0
  have h1 : Kept (.fresh :: .regs :: .wins :: .sealRun :: .pool :: .peat :: .peatBad :: .tasks :: .crus :: .gates :: .slots :: .probes :: .rx :: .rimEpoch :: .dieFence :: .beds :: .places :: .wmoves :: .rplaces :: .handRx :: .casting :: .pours :: .fns :: .reports :: .evWay :: .heats :: .out :: []) s s1 := h0.trans (Kept.foldl _ (fun _ _ => (State.setEpoch_kept ..).mono rfl) _ _)
  clear_value s1
  have h2 : Kept (.fresh :: .regs :: .wins :: .sealRun :: .pool :: .peat :: .peatBad :: .tasks :: .crus :: .gates :: .slots :: .probes :: .rx :: .rimEpoch :: .dieFence :: .beds :: .places :: .wmoves :: .rplaces :: .handRx :: .casting :: .pours :: .fns :: .reports :: .evWay :: .heats :: .out :: []) s s2 := h1.trans (State.allTiles_kept rfl (fun _ _ => ((State.resetTile_kept ..).mono rfl).step
    (State.disableRegions_kept ..) rfl))
  clear_value s2
  have h3 : Kept (.fresh :: .regs :: .wins :: .sealRun :: .pool :: .peat :: .peatBad :: .tasks :: .crus :: .gates :: .slots :: .probes :: .rx :: .rimEpoch :: .dieFence :: .beds :: .places :: .wmoves :: .rplaces :: .handRx :: .casting :: .pours :: .fns :: .reports :: .evWay :: .heats :: .out :: []) s s3 := (h2.step (State.allCrucibles_kept ..) rfl).step (State.releaseTiles_kept ..) rfl
  clear_value s3
  have h4 : Kept (.fresh :: .regs :: .wins :: .sealRun :: .pool :: .peat :: .peatBad :: .tasks :: .crus :: .gates :: .slots :: .probes :: .rx :: .rimEpoch :: .dieFence :: .beds :: .places :: .wmoves :: .rplaces :: .handRx :: .casting :: .pours :: .fns :: .reports :: .evWay :: .heats :: .out :: []) s s4 := h3.trans (Kept.foldl _ (fun _ _ => (State.setRf_kept ..).mono rfl) _ _)
  clear_value s4
  have h5 : Kept (.fresh :: .regs :: .wins :: .sealRun :: .pool :: .peat :: .peatBad :: .tasks :: .crus :: .gates :: .slots :: .probes :: .rx :: .rimEpoch :: .dieFence :: .beds :: .places :: .wmoves :: .rplaces :: .handRx :: .casting :: .pours :: .fns :: .reports :: .evWay :: .heats :: .out :: []) s s5 := h4.trans (Kept.foldl _ (fun _ _ => (State.setBedReg_kept ..).mono rfl) _ _)
  clear_value s5
  have h6 : Kept (.fresh :: .regs :: .wins :: .sealRun :: .pool :: .peat :: .peatBad :: .tasks :: .crus :: .gates :: .slots :: .probes :: .rx :: .rimEpoch :: .dieFence :: .beds :: .places :: .wmoves :: .rplaces :: .handRx :: .casting :: .pours :: .fns :: .reports :: .evWay :: .heats :: .out :: []) s s6 := (h5.step (State.setRb_kept ..) rfl).step (State.setRb_kept ..) rfl
  clear_value s6
  have h7 : Kept (.fresh :: .regs :: .wins :: .sealRun :: .pool :: .peat :: .peatBad :: .tasks :: .crus :: .gates :: .slots :: .probes :: .rx :: .rimEpoch :: .dieFence :: .beds :: .places :: .wmoves :: .rplaces :: .handRx :: .casting :: .pours :: .fns :: .reports :: .evWay :: .heats :: .out :: []) s s7 := (h6.step (State.setRf_kept ..) rfl).step (State.setReg_kept ..) rfl
  clear_value s7
  exact h7.step (Kept.sealRun_beds_places_casting_pours_heats ..) rfl

theorem State.loadTiles_kept (s) (c) (ps) : Kept [.fresh, .regs, .pool, .peat, .poolBad, .peatBad, .tasks, .crus, .slots, .probes, .rx, .ramps, .khz, .deferred] s (State.loadTiles s c ps) := by
  unfold State.loadTiles
  repeat' first
    | exact Eq.refl true
    | with_reducible assumption
    | with_reducible apply Kept.ite
    | with_reducible apply Kept.refl
    | (extract_lets +onlyGivenNames x; refine Kept.via x ?_ ?_; (on_goal 1 => (unfold x; clear x)); on_goal 2 => (intro hx; clear_value x))
    | with_reducible apply Kept.step (k := State.wakeTile_kept ..)
    | with_reducible apply Kept.step (k := State.setTstate_kept ..)
    | with_reducible refine Kept.foldl _ (fun _ _ => ?_) _ _
    | with_reducible apply Kept.step (k := Kept.foldl (m := [.fresh, .regs, .pool, .peat, .poolBad, .peatBad, .tasks, .crus, .slots, .probes, .rx, .ramps, .khz, .deferred]) _ (fun _ _ => ?_) _ _)

theorem State.startPlacing_kept (s) (c) : Kept (.fresh :: .regs :: .wins :: .sealRun :: .pool :: .peat :: .host :: .poolBad :: .peatBad :: .tasks :: .crus :: .gates :: .slots :: .probes :: .rx :: .rimEpoch :: .dieFence :: .beds :: .places :: .wmoves :: .rplaces :: .handRx :: .castRun :: .casting :: .pours :: .cmds :: .queues :: .fns :: .reports :: .evWay :: .ramps :: .khz :: .deferred :: .heats :: .out :: []) s (State.startPlacing s c) := by
  unfold State.startPlacing
  repeat' first
    | exact Eq.refl true
    | with_reducible assumption
    | with_reducible apply Kept.ite
    | with_reducible apply Kept.refl
    | (extract_lets +onlyGivenNames x; refine Kept.via x ?_ ?_; (on_goal 1 => (unfold x; clear x)); on_goal 2 => (intro hx; clear_value x))
    | (extract_lets +onlyGivenNames x; clear_value x)
    | with_reducible apply Kept.step (k := State.loadTiles_kept ..)
    | with_reducible apply Kept.step (k := State.loadReset_kept ..)
    | with_reducible apply Kept.step (k := State.failLate_kept ..)
    | with_reducible apply Kept.step (k := State.setRf_kept ..)
    | with_reducible refine Kept.foldl _ (fun _ _ => ?_) _ _
    | with_reducible apply Kept.step (k := Kept.foldl (m := (.fresh :: .regs :: .wins :: .sealRun :: .pool :: .peat :: .host :: .poolBad :: .peatBad :: .tasks :: .crus :: .gates :: .slots :: .probes :: .rx :: .rimEpoch :: .dieFence :: .beds :: .places :: .wmoves :: .rplaces :: .handRx :: .castRun :: .casting :: .pours :: .cmds :: .queues :: .fns :: .reports :: .evWay :: .ramps :: .khz :: .deferred :: .heats :: .out :: [])) _ (fun _ _ => ?_) _ _)
    | split
    | with_reducible apply Kept.step (k := Kept.castRun ..)

theorem execLoadChecked_kept (readOk) (s) : OutKept (.fresh :: .regs :: .wins :: .sealRun :: .pool :: .peat :: .host :: .poolBad :: .peatBad :: .tasks :: .crus :: .gates :: .slots :: .probes :: .rx :: .rimEpoch :: .dieFence :: .banks :: .beds :: .places :: .wmoves :: .rplaces :: .handRx :: .castRun :: .casting :: .pours :: .cmds :: .queues :: .fns :: .reports :: .evWay :: .ramps :: .khz :: .deferred :: .heats :: .out :: []) s (execLoadChecked readOk s) := by
  unfold execLoadChecked
  repeat' first
    | exact Eq.refl true
    | with_reducible assumption
    | with_reducible apply Kept.ite
    | with_reducible apply Kept.refl
    | (extract_lets +onlyGivenNames x; refine OutKept.via x ?_ ?_; (on_goal 1 => (unfold x; clear x)); on_goal 2 => (intro hx; clear_value x))
    | (extract_lets +onlyGivenNames x; clear_value x)
    | with_reducible apply OutKept.ite
    | with_reducible apply OutKept.next
    | with_reducible apply OutKept.fault
    | with_reducible apply Kept.step (k := State.startPlacing_kept ..)
    | with_reducible apply Kept.step (k := State.refuseBinds_kept ..)
    | with_reducible apply Kept.step (k := State.failEarly_kept ..)
    | with_reducible refine Kept.step ?_ (State.allTake_kept (by assumption)) ?_
    | with_reducible apply Kept.step (k := State.allTake_keptP ..)
    | with_reducible refine Kept.step ?_ (State.headTake_kept (by assumption)) ?_
    | with_reducible apply Kept.step (k := State.headTake_keptP ..)
    | with_reducible apply Kept.step (k := State.raise_kept ..)
    | with_reducible apply Kept.step (k := State.bump_kept ..)
    | with_reducible apply Kept.step (k := State.setRf_kept ..)
    | with_reducible refine Kept.foldl _ (fun _ _ => ?_) _ _
    | with_reducible apply Kept.step (k := Kept.foldl (m := (.fresh :: .regs :: .wins :: .sealRun :: .pool :: .peat :: .host :: .poolBad :: .peatBad :: .tasks :: .crus :: .gates :: .slots :: .probes :: .rx :: .rimEpoch :: .dieFence :: .banks :: .beds :: .places :: .wmoves :: .rplaces :: .handRx :: .castRun :: .casting :: .pours :: .cmds :: .queues :: .fns :: .reports :: .evWay :: .ramps :: .khz :: .deferred :: .heats :: .out :: [])) _ (fun _ _ => ?_) _ _)
    | split

theorem State.writeBeds_kept (s) (m) : Kept [.regs, .wins] s (State.writeBeds s m) := by
  unfold State.writeBeds
  repeat' first
    | exact Eq.refl true
    | with_reducible assumption
    | with_reducible apply Kept.ite
    | with_reducible apply Kept.refl
    | (extract_lets +onlyGivenNames x; refine Kept.fn x ?_; unfold x; clear x)
    | with_reducible apply Kept.step (k := State.setBedReg_kept ..)
    | with_reducible apply Kept.step (k := State.setReg_kept ..)
    | with_reducible refine Kept.foldl _ (fun _ _ => ?_) _ _

theorem State.recCore_kept (s) (page) (off) (v) : Kept [.regs, .wins, .sealRun] s (State.recCore s page off v).st := by
  unfold State.recCore
  repeat' first
    | exact Eq.refl true
    | with_reducible assumption
    | with_reducible apply Kept.ite
    | with_reducible apply Kept.refl
    | (extract_lets +onlyGivenNames x; refine Kept.via x ?_ ?_; (on_goal 1 => (unfold x; clear x)); on_goal 2 => (intro hx; clear_value x))
    | (extract_lets +onlyGivenNames x; clear_value x)
    | with_reducible apply Kept.step (k := State.sealTouch_kept ..)
    | with_reducible apply Kept.step (k := State.storeReg_kept ..)

theorem State.recWrite_kept (s) (who) (page) (off) (v) : Kept (.fresh :: .regs :: .wins :: .guards :: .mbxs :: .tap :: .sealRun :: .timeSet :: .pool :: .peat :: .mire :: .poolBad :: .peatBad :: .mireBad :: .tasks :: .crus :: .gates :: .slots :: .probes :: .rx :: .slotMap :: .routes :: .net :: .ports :: .pgQueue :: .pgPushed :: .banks :: .streams :: .nextTag :: .castRun :: .pours :: .queues :: .fns :: .reports :: .mon :: .sec :: .evWay :: .ramps :: .minvSeen :: .tide :: .khz :: .deferred :: .sens :: .boot :: .planDue :: .heats :: .out :: []) s (State.recWrite s who page off v) := by
  unfold State.recWrite
  repeat' first
    | exact Eq.refl true
    | with_reducible assumption
    | with_reducible apply Kept.ite
    | with_reducible apply Kept.refl
    | with_reducible apply Kept.step (k := State.recCore_kept ..)
    | with_reducible apply Kept.step (k := regHook_kept ..)
    | with_reducible apply Kept.step (k := State.mbxSelect_kept ..)
    | with_reducible apply Kept.step (k := State.writeKey_kept ..)
    | with_reducible refine Kept.step ?_ (State.summarized_kept (m := (.fresh :: .regs :: .wins :: .guards :: .mbxs :: .tap :: .sealRun :: .timeSet :: .pool :: .peat :: .mire :: .poolBad :: .peatBad :: .mireBad :: .tasks :: .crus :: .gates :: .slots :: .probes :: .rx :: .slotMap :: .routes :: .net :: .ports :: .pgQueue :: .pgPushed :: .banks :: .streams :: .nextTag :: .castRun :: .pours :: .queues :: .fns :: .reports :: .mon :: .sec :: .evWay :: .ramps :: .minvSeen :: .tide :: .khz :: .deferred :: .sens :: .boot :: .planDue :: .heats :: .out :: [])) ?_ (fun _ => ?_) ..) ?_

theorem State.regRecord_keptO (s) (c) (x) (r) : OptKept (.fresh :: .regs :: .wins :: .guards :: .mbxs :: .tap :: .sealRun :: .timeSet :: .pool :: .peat :: .mire :: .poolBad :: .peatBad :: .mireBad :: .tasks :: .crus :: .gates :: .slots :: .probes :: .rx :: .slotMap :: .routes :: .net :: .ports :: .pgQueue :: .pgPushed :: .banks :: .streams :: .nextTag :: .castRun :: .pours :: .queues :: .fns :: .reports :: .mon :: .sec :: .evWay :: .ramps :: .minvSeen :: .tide :: .khz :: .deferred :: .sens :: .boot :: .planDue :: .heats :: .out :: []) s (State.regRecord s c x r) := by
  unfold State.regRecord
  repeat' first
    | exact Eq.refl true
    | with_reducible assumption
    | with_reducible apply Kept.ite
    | with_reducible apply Kept.refl
    | (extract_lets +onlyGivenNames x; clear_value x)
    | with_reducible apply OptKept.ite
    | with_reducible apply OptKept.some
    | with_reducible apply OptKept.none
    | with_reducible apply Kept.step (k := State.recWrite_kept ..)
    | with_reducible refine Kept.foldl _ (fun _ _ => ?_) _ _
    | with_reducible apply Kept.step (k := Kept.foldl (m := (.fresh :: .regs :: .wins :: .guards :: .mbxs :: .tap :: .sealRun :: .timeSet :: .pool :: .peat :: .mire :: .poolBad :: .peatBad :: .mireBad :: .tasks :: .crus :: .gates :: .slots :: .probes :: .rx :: .slotMap :: .routes :: .net :: .ports :: .pgQueue :: .pgPushed :: .banks :: .streams :: .nextTag :: .castRun :: .pours :: .queues :: .fns :: .reports :: .mon :: .sec :: .evWay :: .ramps :: .minvSeen :: .tide :: .khz :: .deferred :: .sens :: .boot :: .planDue :: .heats :: .out :: [])) _ (fun _ _ => ?_) _ _)
    | split
theorem State.regRecord_kept {s c x r uu} (hh : State.regRecord s c x r = some uu) : Kept (.fresh :: .regs :: .wins :: .guards :: .mbxs :: .tap :: .sealRun :: .timeSet :: .pool :: .peat :: .mire :: .poolBad :: .peatBad :: .mireBad :: .tasks :: .crus :: .gates :: .slots :: .probes :: .rx :: .slotMap :: .routes :: .net :: .ports :: .pgQueue :: .pgPushed :: .banks :: .streams :: .nextTag :: .castRun :: .pours :: .queues :: .fns :: .reports :: .mon :: .sec :: .evWay :: .ramps :: .minvSeen :: .tide :: .khz :: .deferred :: .sens :: .boot :: .planDue :: .heats :: .out :: []) s uu := State.regRecord_keptO s c x r uu hh

theorem State.regRecordsFrom_keptO (s) (c) (x) (a0) : OptKept (.fresh :: .regs :: .wins :: .guards :: .mbxs :: .tap :: .sealRun :: .timeSet :: .pool :: .peat :: .mire :: .poolBad :: .peatBad :: .mireBad :: .tasks :: .crus :: .gates :: .slots :: .probes :: .rx :: .slotMap :: .routes :: .net :: .ports :: .pgQueue :: .pgPushed :: .banks :: .streams :: .nextTag :: .castRun :: .pours :: .queues :: .fns :: .reports :: .mon :: .sec :: .evWay :: .ramps :: .minvSeen :: .tide :: .khz :: .deferred :: .sens :: .boot :: .planDue :: .heats :: .out :: []) s (State.regRecordsFrom s c x a0) := by
  induction a0 generalizing s c x with
  | nil => exact OptKept.some (Kept.refl _ _)
  | cons b r ih =>
    unfold State.regRecordsFrom
    repeat' first
      | exact Eq.refl true
      | with_reducible assumption
      | with_reducible apply Kept.ite
      | with_reducible apply Kept.refl
      | with_reducible apply OptKept.ite
      | with_reducible apply OptKept.some
      | with_reducible apply OptKept.none
      | with_reducible refine OptKept.first ?_ (ih ..) ?_
      | with_reducible refine Kept.step ?_ (State.regRecord_kept (by assumption)) ?_
      | with_reducible refine Kept.foldl _ (fun _ _ => ?_) _ _
      | with_reducible apply Kept.step (k := Kept.foldl (m := (.fresh :: .regs :: .wins :: .guards :: .mbxs :: .tap :: .sealRun :: .timeSet :: .pool :: .peat :: .mire :: .poolBad :: .peatBad :: .mireBad :: .tasks :: .crus :: .gates :: .slots :: .probes :: .rx :: .slotMap :: .routes :: .net :: .ports :: .pgQueue :: .pgPushed :: .banks :: .streams :: .nextTag :: .castRun :: .pours :: .queues :: .fns :: .reports :: .mon :: .sec :: .evWay :: .ramps :: .minvSeen :: .tide :: .khz :: .deferred :: .sens :: .boot :: .planDue :: .heats :: .out :: [])) _ (fun _ _ => ?_) _ _)
      | split
theorem State.regRecordsFrom_kept {s c x a0 uu} (hh : State.regRecordsFrom s c x a0 = some uu) : Kept (.fresh :: .regs :: .wins :: .guards :: .mbxs :: .tap :: .sealRun :: .timeSet :: .pool :: .peat :: .mire :: .poolBad :: .peatBad :: .mireBad :: .tasks :: .crus :: .gates :: .slots :: .probes :: .rx :: .slotMap :: .routes :: .net :: .ports :: .pgQueue :: .pgPushed :: .banks :: .streams :: .nextTag :: .castRun :: .pours :: .queues :: .fns :: .reports :: .mon :: .sec :: .evWay :: .ramps :: .minvSeen :: .tide :: .khz :: .deferred :: .sens :: .boot :: .planDue :: .heats :: .out :: []) s uu := State.regRecordsFrom_keptO s c x a0 uu hh

theorem State.regSections_keptP (s) (c) (a0) : Kept (.fresh :: .regs :: .wins :: .guards :: .mbxs :: .tap :: .sealRun :: .timeSet :: .pool :: .peat :: .mire :: .poolBad :: .peatBad :: .mireBad :: .tasks :: .crus :: .gates :: .slots :: .probes :: .rx :: .slotMap :: .routes :: .net :: .ports :: .pgQueue :: .pgPushed :: .banks :: .streams :: .nextTag :: .castRun :: .pours :: .queues :: .fns :: .reports :: .mon :: .sec :: .evWay :: .ramps :: .minvSeen :: .tide :: .khz :: .deferred :: .sens :: .boot :: .planDue :: .heats :: .out :: []) s (State.regSections s c a0).1 := by
  induction a0 generalizing s with
  | nil => exact Kept.refl _ _
  | cons x l ih =>
    unfold State.regSections
    extract_lets s1
    have h : Kept (.fresh :: .regs :: .wins :: .guards :: .mbxs :: .tap :: .sealRun :: .timeSet :: .pool :: .peat :: .mire :: .poolBad :: .peatBad :: .mireBad :: .tasks :: .crus :: .gates :: .slots :: .probes :: .rx :: .slotMap :: .routes :: .net :: .ports :: .pgQueue :: .pgPushed :: .banks :: .streams :: .nextTag :: .castRun :: .pours :: .queues :: .fns :: .reports :: .mon :: .sec :: .evWay :: .ramps :: .minvSeen :: .tide :: .khz :: .deferred :: .sens :: .boot :: .planDue :: .heats :: .out :: []) s s1 := (State.setRf_kept ..).mono rfl
    clear_value s1
    have k : OptKept (.fresh :: .regs :: .wins :: .guards :: .mbxs :: .tap :: .sealRun :: .timeSet :: .pool :: .peat :: .mire :: .poolBad :: .peatBad :: .mireBad :: .tasks :: .crus :: .gates :: .slots :: .probes :: .rx :: .slotMap :: .routes :: .net :: .ports :: .pgQueue :: .pgPushed :: .banks :: .streams :: .nextTag :: .castRun :: .pours :: .queues :: .fns :: .reports :: .mon :: .sec :: .evWay :: .ramps :: .minvSeen :: .tide :: .khz :: .deferred :: .sens :: .boot :: .planDue :: .heats :: .out :: []) s1 (if x.len % 16 = 0 then s1.regRecordsFrom c x (regRecs (s1.sectBytes c x)) else none) := by
      split
      · exact fun t e => (State.regRecordsFrom_kept e).mono rfl
      · exact OptKept.none
    split
    · exact h
    · rename_i t ht
      exact (h.trans (k t ht)).trans (ih t)

theorem State.regSections_kept {s c a0 zz tt} (h : State.regSections s c a0 = (tt, zz)) : Kept (.fresh :: .regs :: .wins :: .guards :: .mbxs :: .tap :: .sealRun :: .timeSet :: .pool :: .peat :: .mire :: .poolBad :: .peatBad :: .mireBad :: .tasks :: .crus :: .gates :: .slots :: .probes :: .rx :: .slotMap :: .routes :: .net :: .ports :: .pgQueue :: .pgPushed :: .banks :: .streams :: .nextTag :: .castRun :: .pours :: .queues :: .fns :: .reports :: .mon :: .sec :: .evWay :: .ramps :: .minvSeen :: .tide :: .khz :: .deferred :: .sens :: .boot :: .planDue :: .heats :: .out :: []) s tt := by
  have := State.regSections_keptP s c a0
  rw [h] at this
  exact this

theorem State.takeSl_kept (s) (i) (l) : Kept [.regs, .wins, .slots] s (State.takeSl s i l) := by
  unfold State.takeSl
  repeat' first
    | exact Eq.refl true
    | with_reducible assumption
    | with_reducible apply Kept.ite
    | with_reducible apply Kept.refl
    | (extract_lets +onlyGivenNames x; clear_value x)
    | with_reducible apply Kept.step (k := State.initRegions_kept ..)
    | with_reducible apply Kept.step (k := State.storeReg_kept ..)
    | with_reducible refine Kept.foldl _ (fun _ _ => ?_) _ _

theorem State.placeSection_keptP (s) (c) (x) : Kept [.regs, .peat, .mire, .peatBad, .mireBad, .banks, .fns, .out] s (State.placeSection s c x).1 := by
  unfold State.placeSection
  repeat' first
    | exact Eq.refl true
    | with_reducible assumption
    | with_reducible apply Kept.ite
    | with_reducible apply Kept.refl
    | (extract_lets +onlyGivenNames x; refine Kept.via x ?_ ?_; (on_goal 1 => (unfold x; clear x)); on_goal 2 => (intro hx; clear_value x))
    | with_reducible refine Kept.step ?_ (State.mireServeWrite_kept (by assumption)) ?_
    | with_reducible apply Kept.step (k := State.mireServeWrite_keptP ..)
    | with_reducible apply Kept.step (k := State.writePeat_kept ..)
    | with_reducible apply Kept.step (k := State.setRf_kept ..)
    | with_reducible refine Kept.foldl _ (fun _ _ => ?_) _ _
    | with_reducible apply Kept.step (k := Kept.foldl (m := [.regs, .peat, .mire, .peatBad, .mireBad, .banks, .fns, .out]) _ (fun _ _ => ?_) _ _)
    | split
theorem State.placeSection_kept {s c x zz tt} (h : State.placeSection s c x = (tt, zz)) : Kept [.regs, .peat, .mire, .peatBad, .mireBad, .banks, .fns, .out] s tt := by
  have := State.placeSection_keptP s c x
  rw [h] at this
  exact this

theorem State.placeSections_keptP (s) (c) (a0) : Kept [.regs, .peat, .mire, .peatBad, .mireBad, .banks, .fns, .out] s (State.placeSections s c a0).1 := by
  induction a0 generalizing s c with
  | nil => exact Kept.refl _ _
  | cons b r ih =>
    unfold State.placeSections
    repeat' first
      | exact Eq.refl true
      | with_reducible assumption
      | with_reducible apply Kept.ite
      | with_reducible apply Kept.refl
      | with_reducible apply Kept.step (k := ih ..)
      | with_reducible refine Kept.step ?_ (State.placeSection_kept (by assumption)) ?_
      | with_reducible apply Kept.step (k := State.placeSection_keptP ..)
      | with_reducible refine Kept.foldl _ (fun _ _ => ?_) _ _
      | with_reducible apply Kept.step (k := Kept.foldl (m := [.regs, .peat, .mire, .peatBad, .mireBad, .banks, .fns, .out]) _ (fun _ _ => ?_) _ _)
      | split
theorem State.placeSections_kept {s c a0 zz tt} (h : State.placeSections s c a0 = (tt, zz)) : Kept [.regs, .peat, .mire, .peatBad, .mireBad, .banks, .fns, .out] s tt := by
  have := State.placeSections_keptP s c a0
  rw [h] at this
  exact this

theorem State.finishLoad_kept (s) (c) : Kept [.regs, .wins, .host, .tasks, .ports, .beds, .places, .castRun, .cmds, .queues, .fns, .evWay, .out] s (State.finishLoad s c) := by
  unfold State.finishLoad
  repeat' first
    | exact Eq.refl true
    | with_reducible assumption
    | with_reducible apply Kept.ite
    | with_reducible apply Kept.refl
    | (extract_lets +onlyGivenNames x; refine Kept.via x ?_ ?_; (on_goal 1 => (unfold x; clear x)); on_goal 2 => (intro hx; clear_value x))
    | with_reducible apply Kept.step (k := State.allCrucibles_kept ..)
    | with_reducible apply Kept.step (k := State.startHeatTasks_kept ..)
    | with_reducible apply Kept.step (k := State.startPorts_kept ..)
    | with_reducible apply Kept.step (k := State.endLoadCmd_kept ..)
    | with_reducible apply Kept.step (k := State.resetBeds_kept ..)
    | with_reducible apply Kept.step (k := State.log_kept ..)
    | with_reducible apply Kept.step (k := State.raise_kept ..)
    | with_reducible apply Kept.step (k := State.setFields_kept ..)
    | with_reducible apply Kept.step (k := State.setReg_kept ..)
    | with_reducible refine Kept.foldl _ (fun _ _ => ?_) _ _
    | with_reducible apply Kept.step (k := Kept.foldl (m := [.regs, .wins, .host, .tasks, .ports, .beds, .places, .castRun, .cmds, .queues, .fns, .evWay, .out]) _ (fun _ _ => ?_) _ _)
    | split
    | with_reducible apply Kept.step (k := Kept.castRun ..)

theorem State.placeCasting_keptP (s) (c) (m) : Kept (.fresh :: .regs :: .wins :: .guards :: .mbxs :: .tap :: .sealRun :: .timeSet :: .pool :: .peat :: .mire :: .poolBad :: .peatBad :: .mireBad :: .tasks :: .crus :: .gates :: .slots :: .probes :: .rx :: .slotMap :: .routes :: .net :: .ports :: .pgQueue :: .pgPushed :: .banks :: .streams :: .nextTag :: .castRun :: .pours :: .queues :: .fns :: .reports :: .mon :: .sec :: .evWay :: .ramps :: .minvSeen :: .tide :: .khz :: .deferred :: .sens :: .boot :: .planDue :: .heats :: .out :: []) s (State.placeCasting s c m).1 := by
  unfold State.placeCasting
  repeat' first
    | exact Eq.refl true
    | with_reducible assumption
    | with_reducible apply Kept.ite
    | with_reducible apply Kept.refl
    | (extract_lets +onlyGivenNames x; refine Kept.via x ?_ ?_; (on_goal 1 => (unfold x; clear x)); on_goal 2 => (intro hx; clear_value x))
    | (extract_lets +onlyGivenNames x; clear_value x)
    | with_reducible refine Kept.step ?_ (State.placeSections_kept (by assumption)) ?_
    | with_reducible apply Kept.step (k := State.placeSections_keptP ..)
    | with_reducible apply Kept.step (k := State.takeSl_kept ..)
    | with_reducible refine Kept.step ?_ (State.regSections_kept (by assumption)) ?_
    | with_reducible apply Kept.step (k := State.regSections_keptP ..)
    | with_reducible apply Kept.step (k := State.writeBeds_kept ..)
    | with_reducible refine Kept.foldl _ (fun _ _ => ?_) _ _
    | with_reducible apply Kept.step (k := Kept.foldl (m := (.fresh :: .regs :: .wins :: .guards :: .mbxs :: .tap :: .sealRun :: .timeSet :: .pool :: .peat :: .mire :: .poolBad :: .peatBad :: .mireBad :: .tasks :: .crus :: .gates :: .slots :: .probes :: .rx :: .slotMap :: .routes :: .net :: .ports :: .pgQueue :: .pgPushed :: .banks :: .streams :: .nextTag :: .castRun :: .pours :: .queues :: .fns :: .reports :: .mon :: .sec :: .evWay :: .ramps :: .minvSeen :: .tide :: .khz :: .deferred :: .sens :: .boot :: .planDue :: .heats :: .out :: [])) _ (fun _ _ => ?_) _ _)
    | split
theorem State.placeCasting_kept {s c m zz tt} (h : State.placeCasting s c m = (tt, zz)) : Kept (.fresh :: .regs :: .wins :: .guards :: .mbxs :: .tap :: .sealRun :: .timeSet :: .pool :: .peat :: .mire :: .poolBad :: .peatBad :: .mireBad :: .tasks :: .crus :: .gates :: .slots :: .probes :: .rx :: .slotMap :: .routes :: .net :: .ports :: .pgQueue :: .pgPushed :: .banks :: .streams :: .nextTag :: .castRun :: .pours :: .queues :: .fns :: .reports :: .mon :: .sec :: .evWay :: .ramps :: .minvSeen :: .tide :: .khz :: .deferred :: .sens :: .boot :: .planDue :: .heats :: .out :: []) s tt := by
  have := State.placeCasting_keptP s c m
  rw [h] at this
  exact this

theorem State.endLoad_kept (s) (c) : Kept [.regs, .wins, .host, .tasks, .ports, .beds, .places, .castRun, .casting, .pours, .cmds, .queues, .fns, .evWay, .out] s (State.endLoad s c) := by
  unfold State.endLoad
  repeat' first
    | exact Eq.refl true
    | with_reducible assumption
    | with_reducible apply Kept.ite
    | with_reducible apply Kept.refl
    | with_reducible apply Kept.step (k := State.finishLoad_kept ..)
    | with_reducible apply Kept.step (k := State.failLate_kept ..)

theorem State.placed_kept (s) (c) (m) : Kept (.fresh :: .regs :: .wins :: .pool :: .peat :: .host :: .poolBad :: .peatBad :: .tasks :: .crus :: .slots :: .probes :: .rx :: .routes :: .ports :: .beds :: .places :: .castRun :: .casting :: .pours :: .cmds :: .queues :: .fns :: .evWay :: .ramps :: .khz :: .deferred :: .beats :: .out :: []) s (State.placed s c m) := by
  unfold State.placed
  repeat' first
    | exact Eq.refl true
    | with_reducible assumption
    | with_reducible apply Kept.ite
    | with_reducible apply Kept.refl
    | with_reducible apply Kept.step (k := State.finishLoad_kept ..)
    | with_reducible apply Kept.step (k := State.engineRoutes_kept ..)
    | with_reducible apply Kept.step (k := State.polderRoutes_kept ..)
    | with_reducible apply Kept.step (k := State.failLate_kept ..)
    | with_reducible apply Kept.step (k := State.spareDomains_kept ..)
    | with_reducible apply Kept.step (k := State.setRf_kept ..)
    | with_reducible refine Kept.foldl _ (fun _ _ => ?_) _ _
    | with_reducible apply Kept.step (k := Kept.foldl (m := (.fresh :: .regs :: .wins :: .pool :: .peat :: .host :: .poolBad :: .peatBad :: .tasks :: .crus :: .slots :: .probes :: .rx :: .routes :: .ports :: .beds :: .places :: .castRun :: .casting :: .pours :: .cmds :: .queues :: .fns :: .evWay :: .ramps :: .khz :: .deferred :: .beats :: .out :: [])) _ (fun _ _ => ?_) _ _)
    | split
    | with_reducible apply Kept.step (k := Kept.casting ..)
    | with_reducible apply Kept.step (k := Kept.beats ..)

theorem execLoadPlaced_kept (readOk) (s) : OutKept (.fresh :: .regs :: .wins :: .guards :: .mbxs :: .tap :: .sealRun :: .timeSet :: .pool :: .peat :: .mire :: .host :: .poolBad :: .peatBad :: .mireBad :: .tasks :: .crus :: .gates :: .slots :: .probes :: .rx :: .slotMap :: .routes :: .net :: .ports :: .pgQueue :: .pgPushed :: .banks :: .streams :: .beds :: .places :: .nextTag :: .castRun :: .casting :: .pours :: .cmds :: .queues :: .fns :: .reports :: .mon :: .sec :: .evWay :: .ramps :: .minvSeen :: .tide :: .khz :: .deferred :: .sens :: .boot :: .planDue :: .heats :: .beats :: .out :: []) s (execLoadPlaced readOk s) := by
  unfold execLoadPlaced
  repeat' first
    | exact Eq.refl true
    | with_reducible assumption
    | with_reducible apply Kept.ite
    | with_reducible apply Kept.refl
    | (extract_lets +onlyGivenNames x; clear_value x)
    | with_reducible apply OutKept.ite
    | with_reducible apply OutKept.next
    | with_reducible apply OutKept.fault
    | with_reducible apply Kept.step (k := State.placed_kept ..)
    | with_reducible refine Kept.step ?_ (State.placeCasting_kept (by assumption)) ?_
    | with_reducible apply Kept.step (k := State.placeCasting_keptP ..)
    | with_reducible apply Kept.step (k := State.failLate_kept ..)
    | with_reducible refine Kept.step ?_ (State.allTake_kept (by assumption)) ?_
    | with_reducible apply Kept.step (k := State.allTake_keptP ..)
    | with_reducible refine Kept.foldl _ (fun _ _ => ?_) _ _
    | with_reducible apply Kept.step (k := Kept.foldl (m := (.fresh :: .regs :: .wins :: .guards :: .mbxs :: .tap :: .sealRun :: .timeSet :: .pool :: .peat :: .mire :: .host :: .poolBad :: .peatBad :: .mireBad :: .tasks :: .crus :: .gates :: .slots :: .probes :: .rx :: .slotMap :: .routes :: .net :: .ports :: .pgQueue :: .pgPushed :: .banks :: .streams :: .beds :: .places :: .nextTag :: .castRun :: .casting :: .pours :: .cmds :: .queues :: .fns :: .reports :: .mon :: .sec :: .evWay :: .ramps :: .minvSeen :: .tide :: .khz :: .deferred :: .sens :: .boot :: .planDue :: .heats :: .beats :: .out :: [])) _ (fun _ _ => ?_) _ _)
    | split

theorem execLoadPourComplete_kept (s) : OutKept [.regs, .wins, .host, .tasks, .ports, .beds, .places, .castRun, .casting, .pours, .cmds, .queues, .fns, .evWay, .out] s (execLoadPourComplete s) := by
  unfold execLoadPourComplete
  repeat' first
    | exact Eq.refl true
    | with_reducible assumption
    | with_reducible apply Kept.ite
    | with_reducible apply Kept.refl
    | (extract_lets +onlyGivenNames x; clear_value x)
    | with_reducible apply OutKept.ite
    | with_reducible apply OutKept.next
    | with_reducible apply OutKept.fault
    | with_reducible apply Kept.step (k := State.endLoad_kept ..)
    | with_reducible refine Kept.foldl _ (fun _ _ => ?_) _ _
    | with_reducible apply Kept.step (k := Kept.foldl (m := [.regs, .wins, .host, .tasks, .ports, .beds, .places, .castRun, .casting, .pours, .cmds, .queues, .fns, .evWay, .out]) _ (fun _ _ => ?_) _ _)
    | split

/-! ### Module -/

theorem State.mgmtRead_kept (s) (page) (off) (size) (n) : Kept [.regs, .wins, .shadows, .fns, .out, .lastRead] s (State.mgmtRead s page off size n) := by
  unfold State.mgmtRead
  repeat' first
    | exact Eq.refl true
    | with_reducible assumption
    | with_reducible apply Kept.ite
    | with_reducible apply Kept.refl
    | with_reducible apply Kept.step (k := State.deliver_kept ..)
    | with_reducible refine Kept.step ?_ (State.busRead_kept (by assumption)) ?_
    | with_reducible apply Kept.step (k := State.busRead_keptP ..)
    | with_reducible apply Kept.step (k := State.send_kept ..)
    | split

theorem State.mgmtWrite_kept (s) (page) (off) (size) (v) : Kept (.fresh :: .regs :: .wins :: .guards :: .shadows :: .mbxs :: .tap :: .sealRun :: .timeSet :: .pool :: .peat :: .mire :: .poolBad :: .peatBad :: .mireBad :: .tasks :: .crus :: .gates :: .slots :: .probes :: .rx :: .slotMap :: .routes :: .net :: .ports :: .pgQueue :: .pgPushed :: .banks :: .streams :: .nextTag :: .castRun :: .pours :: .queues :: .fns :: .reports :: .mon :: .sec :: .evWay :: .ramps :: .minvSeen :: .tide :: .khz :: .deferred :: .sens :: .boot :: .planDue :: .heats :: .out :: []) s (State.mgmtWrite s page off size v) := by
  unfold State.mgmtWrite
  repeat' first
    | exact Eq.refl true
    | with_reducible assumption
    | with_reducible apply Kept.ite
    | with_reducible apply Kept.refl
    | with_reducible apply Kept.step (k := State.writeReg_kept ..)
    | with_reducible apply Kept.step (k := State.send_kept ..)

theorem State.onBus_kept {m s f} (hf : ∀ t, Kept m t (f t)) : OutKept m s (State.onBus s f) := by
  unfold State.onBus
  split
  · exact OutKept.next (hf _)
  · exact OutKept.next (Kept.refl _ _)

theorem execRead64_kept (page) (off) (s) : OutKept [.regs, .wins, .shadows, .fns, .out, .lastRead] s (execRead64 page off s) := by
  unfold execRead64
  repeat' first
    | exact Eq.refl true
    | with_reducible assumption
    | with_reducible apply Kept.ite
    | with_reducible apply Kept.refl
    | with_reducible apply OutKept.ite
    | with_reducible apply OutKept.next
    | with_reducible apply OutKept.fault
    | with_reducible refine State.onBus_kept (fun _ => ?_)
    | with_reducible apply Kept.step (k := State.mgmtRead_kept ..)

theorem execWrite64_kept (page) (off) (v) (s) : OutKept (.fresh :: .regs :: .wins :: .guards :: .shadows :: .mbxs :: .tap :: .sealRun :: .timeSet :: .pool :: .peat :: .mire :: .poolBad :: .peatBad :: .mireBad :: .tasks :: .crus :: .gates :: .slots :: .probes :: .rx :: .slotMap :: .routes :: .net :: .ports :: .pgQueue :: .pgPushed :: .banks :: .streams :: .nextTag :: .castRun :: .pours :: .queues :: .fns :: .reports :: .mon :: .sec :: .evWay :: .ramps :: .minvSeen :: .tide :: .khz :: .deferred :: .sens :: .boot :: .planDue :: .heats :: .out :: []) s (execWrite64 page off v s) := by
  unfold execWrite64
  repeat' first
    | exact Eq.refl true
    | with_reducible assumption
    | with_reducible apply Kept.ite
    | with_reducible apply Kept.refl
    | with_reducible apply OutKept.ite
    | with_reducible apply OutKept.next
    | with_reducible apply OutKept.fault
    | with_reducible refine State.onBus_kept (fun _ => ?_)
    | with_reducible apply Kept.step (k := State.mgmtWrite_kept ..)

theorem execRead32_kept (page) (off) (s) : OutKept [.regs, .wins, .shadows, .fns, .out, .lastRead] s (execRead32 page off s) := by
  unfold execRead32
  repeat' first
    | exact Eq.refl true
    | with_reducible assumption
    | with_reducible apply Kept.ite
    | with_reducible apply Kept.refl
    | with_reducible apply OutKept.ite
    | with_reducible apply OutKept.next
    | with_reducible apply OutKept.fault
    | with_reducible refine State.onBus_kept (fun _ => ?_)
    | with_reducible apply Kept.step (k := State.mgmtRead_kept ..)

theorem execWrite32_kept (page) (off) (v) (s) : OutKept (.fresh :: .regs :: .wins :: .guards :: .shadows :: .mbxs :: .tap :: .sealRun :: .timeSet :: .pool :: .peat :: .mire :: .poolBad :: .peatBad :: .mireBad :: .tasks :: .crus :: .gates :: .slots :: .probes :: .rx :: .slotMap :: .routes :: .net :: .ports :: .pgQueue :: .pgPushed :: .banks :: .streams :: .nextTag :: .castRun :: .pours :: .queues :: .fns :: .reports :: .mon :: .sec :: .evWay :: .ramps :: .minvSeen :: .tide :: .khz :: .deferred :: .sens :: .boot :: .planDue :: .heats :: .out :: []) s (execWrite32 page off v s) := by
  unfold execWrite32
  repeat' first
    | exact Eq.refl true
    | with_reducible assumption
    | with_reducible apply Kept.ite
    | with_reducible apply Kept.refl
    | with_reducible apply OutKept.ite
    | with_reducible apply OutKept.next
    | with_reducible apply OutKept.fault
    | with_reducible refine State.onBus_kept (fun _ => ?_)
    | with_reducible apply Kept.step (k := State.mgmtWrite_kept ..)

theorem execSetEndpointId_kept (eid) (s) : OutKept [.eid, .out] s (execSetEndpointId eid s) := by
  unfold execSetEndpointId
  repeat' first
    | exact Eq.refl true
    | with_reducible assumption
    | with_reducible apply Kept.ite
    | with_reducible apply Kept.refl
    | with_reducible apply OutKept.ite
    | with_reducible apply OutKept.next
    | with_reducible apply OutKept.fault
    | with_reducible refine State.onBus_kept (fun _ => ?_)
    | with_reducible apply Kept.step (k := State.send_kept ..)
    | split
    | with_reducible apply Kept.step (k := Kept.eid ..)

theorem execAlertResponse_kept (s) : OutKept [.out] s (execAlertResponse s) := by
  unfold execAlertResponse
  repeat' first
    | exact Eq.refl true
    | with_reducible assumption
    | with_reducible apply Kept.ite
    | with_reducible apply Kept.refl
    | with_reducible apply OutKept.ite
    | with_reducible apply OutKept.next
    | with_reducible apply OutKept.fault
    | with_reducible refine State.onBus_kept (fun _ => ?_)
    | with_reducible apply Kept.step (k := State.send_kept ..)

/-! ### Packets -/

theorem execMoveDone_kept (p) (s) : OutKept (.regs :: .peat :: .peatBad :: .tasks :: .crus :: .gates :: .slots :: .net :: .arrivals :: .ports :: .beds :: .places :: .wmoves :: .rplaces :: .pours :: .fns :: .reports :: .out :: []) s (execMoveDone p s) := by
  unfold execMoveDone
  repeat' first
    | exact Eq.refl true
    | with_reducible assumption
    | with_reducible apply Kept.ite
    | with_reducible apply Kept.refl
    | with_reducible apply OutKept.ite
    | with_reducible apply OutKept.next
    | with_reducible apply OutKept.fault
    | with_reducible apply Kept.step (k := State.dieMoveDone_kept ..)
    | with_reducible apply Kept.step (k := State.waveDone_kept ..)
    | with_reducible apply Kept.step (k := State.handDone_kept ..)
    | with_reducible apply Kept.step (k := State.moveProgress_kept ..)
    | with_reducible refine Kept.step ?_ (State.ejectDie_kept (m := (.regs :: .peat :: .peatBad :: .tasks :: .crus :: .gates :: .slots :: .net :: .arrivals :: .ports :: .beds :: .places :: .wmoves :: .rplaces :: .pours :: .fns :: .reports :: .out :: [])) ?_ (fun _ => ?_) ..) ?_
    | with_reducible refine Kept.step ?_ (State.eject_kept (m := (.regs :: .peat :: .peatBad :: .tasks :: .crus :: .gates :: .slots :: .net :: .arrivals :: .ports :: .beds :: .places :: .wmoves :: .rplaces :: .pours :: .fns :: .reports :: .out :: [])) ?_ (fun _ => ?_) ..) ?_
    | with_reducible refine Kept.foldl _ (fun _ _ => ?_) _ _
    | with_reducible apply Kept.step (k := Kept.foldl (m := (.regs :: .peat :: .peatBad :: .tasks :: .crus :: .gates :: .slots :: .net :: .arrivals :: .ports :: .beds :: .places :: .wmoves :: .rplaces :: .pours :: .fns :: .reports :: .out :: [])) _ (fun _ _ => ?_) _ _)
    | split
    | (cases ‹List.cons _ _ = List.cons _ _›)
    | intro _

theorem execRemoteGadd_kept (p) (s) : OutKept [.regs, .gates, .arrivals, .fns, .reports, .out] s (execRemoteGadd p s) := by
  unfold execRemoteGadd
  repeat' first
    | exact Eq.refl true
    | with_reducible assumption
    | with_reducible apply Kept.ite
    | with_reducible apply Kept.refl
    | with_reducible apply OutKept.ite
    | with_reducible apply OutKept.next
    | with_reducible apply OutKept.fault
    | with_reducible apply Kept.step (k := State.meshGateAdd_kept ..)
    | with_reducible refine Kept.step ?_ (State.eject_kept (m := [.regs, .gates, .arrivals, .fns, .reports, .out]) ?_ (fun _ => ?_) ..) ?_
    | with_reducible refine Kept.foldl _ (fun _ _ => ?_) _ _
    | with_reducible apply Kept.step (k := Kept.foldl (m := [.regs, .gates, .arrivals, .fns, .reports, .out]) _ (fun _ _ => ?_) _ _)
    | split
    | (cases ‹List.cons _ _ = List.cons _ _›)
    | intro _

theorem execGenUpdate_kept (p) (s) : OutKept [.regs, .genTab, .net, .arrivals, .ports, .streams, .beds, .places, .wmoves, .rplaces, .fns, .reports, .out] s (execGenUpdate p s) := by
  unfold execGenUpdate
  repeat' first
    | exact Eq.refl true
    | with_reducible assumption
    | with_reducible apply Kept.ite
    | with_reducible apply Kept.refl
    | (extract_lets +onlyGivenNames x; refine Kept.via x ?_ ?_; (on_goal 1 => (unfold x; clear x)); on_goal 2 => (intro hx; clear_value x))
    | (extract_lets +onlyGivenNames x; clear_value x)
    | with_reducible apply OutKept.ite
    | with_reducible apply OutKept.next
    | with_reducible apply OutKept.fault
    | with_reducible apply Kept.step (k := State.dropRidStale_kept ..)
    | with_reducible apply Kept.step (k := State.dropStaleMoves_kept ..)
    | with_reducible apply Kept.step (k := State.dropStale_kept ..)
    | with_reducible apply Kept.step (k := State.setGenAt_kept ..)
    | with_reducible refine Kept.step ?_ (State.eject_kept (m := [.regs, .genTab, .net, .arrivals, .ports, .streams, .beds, .places, .wmoves, .rplaces, .fns, .reports, .out]) ?_ (fun _ => ?_) ..) ?_
    | with_reducible refine Kept.foldl _ (fun _ _ => ?_) _ _
    | with_reducible apply Kept.step (k := Kept.foldl (m := [.regs, .genTab, .net, .arrivals, .ports, .streams, .beds, .places, .wmoves, .rplaces, .fns, .reports, .out]) _ (fun _ _ => ?_) _ _)
    | split
    | (cases ‹List.cons _ _ = List.cons _ _›)
    | intro _

theorem State.mgmtAt_kept (s) (unit) (p) : Kept (.fresh :: .regs :: .wins :: .guards :: .shadows :: .mbxs :: .tapSets :: .tap :: .sealRun :: .timeSet :: .pool :: .peat :: .mire :: .poolBad :: .peatBad :: .mireBad :: .tasks :: .crus :: .gates :: .slots :: .probes :: .rx :: .slotMap :: .routes :: .net :: .ports :: .pgQueue :: .pgPushed :: .banks :: .streams :: .nextTag :: .castRun :: .pours :: .queues :: .fns :: .reports :: .mon :: .monTap :: .sec :: .evWay :: .ramps :: .minvSeen :: .tide :: .khz :: .deferred :: .sens :: .boot :: .planDue :: .heats :: .out :: .lastRead :: []) s (State.mgmtAt s unit p) := by
  unfold State.mgmtAt
  repeat' first
    | exact Eq.refl true
    | with_reducible assumption
    | with_reducible apply Kept.ite
    | with_reducible apply Kept.refl
    | with_reducible apply Kept.step (k := State.writeReg_kept ..)
    | with_reducible apply Kept.step (k := State.latchUnit_kept ..)
    | with_reducible apply Kept.step (k := State.readReg_kept ..)

theorem execMgmt_kept (p) (s) : OutKept (.fresh :: .regs :: .wins :: .guards :: .shadows :: .mbxs :: .tapSets :: .tap :: .sealRun :: .timeSet :: .pool :: .peat :: .mire :: .poolBad :: .peatBad :: .mireBad :: .tasks :: .crus :: .gates :: .slots :: .probes :: .rx :: .slotMap :: .routes :: .rimEpoch :: .net :: .arrivals :: .ports :: .pgQueue :: .pgPushed :: .banks :: .streams :: .nextTag :: .castRun :: .pours :: .queues :: .fns :: .reports :: .mon :: .monTap :: .sec :: .evWay :: .ramps :: .minvSeen :: .tide :: .khz :: .deferred :: .sens :: .boot :: .planDue :: .heats :: .out :: .lastRead :: []) s (execMgmt p s) := by
  unfold execMgmt
  repeat' first
    | exact Eq.refl true
    | with_reducible assumption
    | with_reducible apply Kept.ite
    | with_reducible apply Kept.refl
    | (extract_lets +onlyGivenNames x; clear_value x)
    | with_reducible apply OutKept.ite
    | with_reducible apply OutKept.next
    | with_reducible apply OutKept.fault
    | with_reducible apply Kept.step (k := State.mgmtAt_kept ..)
    | with_reducible apply Kept.step (k := State.setQuenchLim_kept ..)
    | with_reducible apply Kept.step (k := State.setTideLim_kept ..)
    | with_reducible refine Kept.step ?_ (State.ejectDie_kept (m := (.fresh :: .regs :: .wins :: .guards :: .shadows :: .mbxs :: .tapSets :: .tap :: .sealRun :: .timeSet :: .pool :: .peat :: .mire :: .poolBad :: .peatBad :: .mireBad :: .tasks :: .crus :: .gates :: .slots :: .probes :: .rx :: .slotMap :: .routes :: .rimEpoch :: .net :: .arrivals :: .ports :: .pgQueue :: .pgPushed :: .banks :: .streams :: .nextTag :: .castRun :: .pours :: .queues :: .fns :: .reports :: .mon :: .monTap :: .sec :: .evWay :: .ramps :: .minvSeen :: .tide :: .khz :: .deferred :: .sens :: .boot :: .planDue :: .heats :: .out :: .lastRead :: [])) ?_ (fun _ => ?_) ..) ?_
    | with_reducible refine Kept.step ?_ (State.eject_kept (m := (.fresh :: .regs :: .wins :: .guards :: .shadows :: .mbxs :: .tapSets :: .tap :: .sealRun :: .timeSet :: .pool :: .peat :: .mire :: .poolBad :: .peatBad :: .mireBad :: .tasks :: .crus :: .gates :: .slots :: .probes :: .rx :: .slotMap :: .routes :: .rimEpoch :: .net :: .arrivals :: .ports :: .pgQueue :: .pgPushed :: .banks :: .streams :: .nextTag :: .castRun :: .pours :: .queues :: .fns :: .reports :: .mon :: .monTap :: .sec :: .evWay :: .ramps :: .minvSeen :: .tide :: .khz :: .deferred :: .sens :: .boot :: .planDue :: .heats :: .out :: .lastRead :: [])) ?_ (fun _ => ?_) ..) ?_
    | with_reducible apply Kept.step (k := State.setRf_kept ..)
    | with_reducible refine Kept.foldl _ (fun _ _ => ?_) _ _
    | with_reducible apply Kept.step (k := Kept.foldl (m := (.fresh :: .regs :: .wins :: .guards :: .shadows :: .mbxs :: .tapSets :: .tap :: .sealRun :: .timeSet :: .pool :: .peat :: .mire :: .poolBad :: .peatBad :: .mireBad :: .tasks :: .crus :: .gates :: .slots :: .probes :: .rx :: .slotMap :: .routes :: .rimEpoch :: .net :: .arrivals :: .ports :: .pgQueue :: .pgPushed :: .banks :: .streams :: .nextTag :: .castRun :: .pours :: .queues :: .fns :: .reports :: .mon :: .monTap :: .sec :: .evWay :: .ramps :: .minvSeen :: .tide :: .khz :: .deferred :: .sens :: .boot :: .planDue :: .heats :: .out :: .lastRead :: [])) _ (fun _ _ => ?_) _ _)
    | split
    | with_reducible apply Kept.step (k := Kept.rimEpoch ..)
    | (cases ‹List.cons _ _ = List.cons _ _›)
    | intro _

theorem State.laneSend_kept (s) (tile) (port) (lane) (p) : Kept [.laneTx] s (State.laneSend s tile port lane p) := by
  unfold State.laneSend
  repeat' first
    | exact Eq.refl true
    | with_reducible assumption
    | with_reducible apply Kept.ite
    | with_reducible apply Kept.refl
    | (extract_lets +onlyGivenNames x; clear_value x)
    | with_reducible apply Kept.step (k := State.setLane_kept ..)

theorem State.depart_kept (s) (t) (port) (lane) (turn) : Kept [.regs, .net, .arrivals, .ports, .laneTx, .fns, .reports, .out] s (State.depart s t port lane turn) := by
  unfold State.depart
  repeat' first
    | exact Eq.refl true
    | with_reducible assumption
    | with_reducible apply Kept.ite
    | with_reducible apply Kept.refl
    | (extract_lets +onlyGivenNames x; refine Kept.via x ?_ ?_; (on_goal 1 => (unfold x; clear x)); on_goal 2 => (intro hx; clear_value x))
    | with_reducible apply Kept.step (k := State.laneSend_kept ..)
    | with_reducible apply Kept.step (k := State.enterRouter_kept ..)
    | with_reducible apply Kept.step (k := State.setMeshPort_kept ..)
    | with_reducible apply Kept.step (k := State.bump_kept ..)
    | with_reducible refine Kept.foldl _ (fun _ _ => ?_) _ _
    | with_reducible apply Kept.step (k := Kept.foldl (m := [.regs, .net, .arrivals, .ports, .laneTx, .fns, .reports, .out]) _ (fun _ _ => ?_) _ _)
    | split
    | with_reducible apply Kept.step (k := Kept.net ..)
    | with_reducible apply Kept.step (k := Kept.arrivals ..)

theorem execPacketHop_kept (tile) (inPort) (p) (s) : OutKept [.regs, .net, .arrivals, .ports, .laneTx, .fns, .reports, .out] s (execPacketHop tile inPort p s) := by
  unfold execPacketHop
  repeat' first
    | exact Eq.refl true
    | with_reducible assumption
    | with_reducible apply Kept.ite
    | with_reducible apply Kept.refl
    | (extract_lets +onlyGivenNames x; clear_value x)
    | with_reducible apply OutKept.ite
    | with_reducible apply OutKept.next
    | with_reducible apply OutKept.fault
    | with_reducible apply Kept.step (k := State.depart_kept ..)
    | with_reducible refine Kept.step ?_ (State.chooseLane_kept (by assumption)) ?_
    | with_reducible apply Kept.step (k := State.chooseLane_keptP ..)
    | with_reducible apply Kept.step (k := State.dropPkt_kept ..)
    | with_reducible refine Kept.foldl _ (fun _ _ => ?_) _ _
    | with_reducible apply Kept.step (k := Kept.foldl (m := [.regs, .net, .arrivals, .ports, .laneTx, .fns, .reports, .out]) _ (fun _ _ => ?_) _ _)
    | split
    | with_reducible apply Kept.step (k := Kept.net ..)

theorem execFlitCrcFail_kept (tile) (port) (lane) (s) : OutKept [.regs, .laneTx] s (execFlitCrcFail tile port lane s) := by
  unfold execFlitCrcFail
  repeat' first
    | exact Eq.refl true
    | with_reducible assumption
    | with_reducible apply Kept.ite
    | with_reducible apply Kept.refl
    | (extract_lets +onlyGivenNames x; refine OutKept.via x ?_ ?_; (on_goal 1 => (unfold x; clear x)); on_goal 2 => (intro hx; clear_value x))
    | (extract_lets +onlyGivenNames x; clear_value x)
    | with_reducible apply OutKept.ite
    | with_reducible apply OutKept.next
    | with_reducible apply OutKept.fault
    | with_reducible apply Kept.step (k := State.setLane_kept ..)
    | with_reducible apply Kept.step (k := State.bump_kept ..)

theorem State.retireEnd_kept (s) (tile) (port) (last) : Kept [.regs, .fns, .reports, .out] s (State.retireEnd s tile port last) := by
  unfold State.retireEnd
  repeat' first
    | exact Eq.refl true
    | with_reducible assumption
    | with_reducible apply Kept.ite
    | with_reducible apply Kept.refl
    | with_reducible apply Kept.step (k := State.report_kept ..)
    | with_reducible apply Kept.step (k := State.raise_kept ..)

theorem execLaneRetire_kept (tile) (port) (lane) (s) : OutKept [.regs, .laneTx, .fns, .reports, .out] s (execLaneRetire tile port lane s) := by
  unfold execLaneRetire
  repeat' first
    | exact Eq.refl true
    | with_reducible assumption
    | with_reducible apply Kept.ite
    | with_reducible apply Kept.refl
    | (extract_lets +onlyGivenNames x; refine OutKept.via x ?_ ?_; (on_goal 1 => (unfold x; clear x)); on_goal 2 => (intro hx; clear_value x))
    | (extract_lets +onlyGivenNames x; clear_value x)
    | with_reducible apply OutKept.ite
    | with_reducible apply OutKept.next
    | with_reducible apply OutKept.fault
    | with_reducible apply Kept.step (k := State.retireEnd_kept ..)
    | with_reducible apply Kept.step (k := State.setLane_kept ..)
    | with_reducible apply Kept.step (k := State.bump_kept ..)
    | with_reducible apply Kept.step (k := State.setRb_kept ..)
    | with_reducible refine Kept.foldl _ (fun _ _ => ?_) _ _
    | with_reducible apply Kept.step (k := Kept.foldl (m := [.regs, .laneTx, .fns, .reports, .out]) _ (fun _ _ => ?_) _ _)
    | split

/-! ### Step -/

theorem State.tick_kept (s) : Kept [.now, .up, .sub] s (State.tick s) := by
  unfold State.tick
  repeat' first
    | exact Eq.refl true
    | with_reducible assumption
    | with_reducible apply Kept.ite
    | with_reducible apply Kept.refl
    | split
    | with_reducible apply Kept.step (k := Kept.now_up_sub ..)

theorem State.withFetchWord_kept (s) (nbits) (w) : Kept [.pending] s (State.withFetchWord s nbits w) := by
  unfold State.withFetchWord
  repeat' first
    | exact Eq.refl true
    | with_reducible assumption
    | with_reducible apply Kept.ite
    | with_reducible apply Kept.refl
    | split
    | with_reducible apply Kept.step (k := Kept.pending ..)

end Sys2Proof.Machine
end

