-- ==== Sys2Proof/Laws/Regs.lean ====
section
/-! SUPPORT. Bit fields of 64-bit words, and registers after the shared operations that write them. -/
namespace Sys2Proof.Machine

/-! ### Bit fields -/

theorem testBit_bits (x hi lo i : Nat) : (bits x hi lo).testBit i = (decide (i < hi + 1 - lo) && x.testBit (i + lo)) := by
  unfold bits
  rw [Nat.testBit_mod_two_pow, Nat.testBit_shiftRight, Nat.add_comm lo i]

theorem maskOf_bit (hi lo i : Nat) (h : hi < 64) : (maskOf hi lo).getLsbD i = (decide (lo ≤ i) && decide (i ≤ hi)) := by
  unfold maskOf
  rw [BitVec.getLsbD_ofNat, Nat.testBit_shiftLeft, Nat.testBit_two_pow_sub_one]
  by_cases a : lo ≤ i <;> by_cases b : i ≤ hi <;> simp [a, b] <;> omega

/-- A field written bit by bit. -/
theorem setFld_bit (w : W64) (hi lo v i : Nat) (h : hi < 64) :
    (setFld w hi lo v).getLsbD i = if lo ≤ i ∧ i ≤ hi then v.testBit (i - lo) else w.getLsbD i := by
  unfold setFld mix
  rw [BitVec.getLsbD_or, BitVec.getLsbD_and, BitVec.getLsbD_and, BitVec.getLsbD_not, maskOf_bit hi lo i h,
    BitVec.getLsbD_ofNat, Nat.testBit_shiftLeft]
  by_cases a : lo ≤ i <;> by_cases b : i ≤ hi
  · have : i < 64 := by omega
    simp [a, b, this]
  all_goals
    simp [a, b]
    intro hw
    exact BitVec.lt_of_getLsbD hw

/-- A field of a word in which it was just written. -/
theorem fld_setFld_same (w : W64) (hi lo v : Nat) (h : hi < 64) : fld (setFld w hi lo v) hi lo = v % 2 ^ (hi + 1 - lo) := by
  apply Nat.eq_of_testBit_eq
  intro i
  unfold fld
  rw [testBit_bits, Nat.testBit_mod_two_pow]
  by_cases hi' : i < hi + 1 - lo
  · have e : (setFld w hi lo v).toNat.testBit (i + lo) = (setFld w hi lo v).getLsbD (i + lo) := rfl
    rw [e, setFld_bit w hi lo v _ h, if_pos ⟨by omega, by omega⟩, Nat.add_sub_cancel]
  · simp [hi']

/-- A field of a word in which a field beside it was written. -/
theorem fld_setFld_other (w : W64) (hi lo v hi' lo' : Nat) (h : hi < 64) (d : hi' < lo ∨ hi < lo') :
    fld (setFld w hi lo v) hi' lo' = fld w hi' lo' := by
  apply Nat.eq_of_testBit_eq
  intro i
  unfold fld
  rw [testBit_bits, testBit_bits]
  by_cases hi'' : i < hi' + 1 - lo'
  · have e : (setFld w hi lo v).toNat.testBit (i + lo') = (setFld w hi lo v).getLsbD (i + lo') := rfl
    rw [e, setFld_bit w hi lo v _ h, if_neg (by omega)]
    rfl
  · simp [hi'']

theorem fbit_setFld_other (w : W64) (hi lo v i : Nat) (h : hi < 64) (d : i < lo ∨ hi < i) : fbit (setFld w hi lo v) i = fbit w i := by
  unfold fbit
  rw [setFld_bit w hi lo v i h, if_neg (by omega)]

theorem fbit_setBit_same (w : W64) (i : Nat) (b : Bool) (h : i < 64) : fbit (setBit w i b) i = b := by
  unfold fbit setBit
  rw [setFld_bit w i i _ i h, if_pos ⟨le_refl i, le_refl i⟩, Nat.sub_self]
  cases b <;> rfl

theorem fbit_setBit_other (w : W64) (i j : Nat) (b : Bool) (h : i < 64) (d : j ≠ i) : fbit (setBit w i b) j = fbit w j :=
  fbit_setFld_other w i i _ j h (by omega)

theorem fld_setBit_other (w : W64) (i hi lo : Nat) (b : Bool) (h : i < 64) (d : hi < i ∨ i < lo) :
    fld (setBit w i b) hi lo = fld w hi lo :=
  fld_setFld_other w i i _ hi lo h (by omega)

/-! ### Registers -/

@[simp] theorem State.reg_setReg_same (s : State) (p o : Nat) (v : W64) : (s.setReg p o v).reg p o = v := by
  unfold State.reg State.setReg
  simp

theorem State.reg_setReg_other (s : State) (p o p' o' : Nat) (v : W64) (h : o < 4096) (h' : o' < 4096) (d : p ≠ p' ∨ o ≠ o') :
    (s.setReg p o v).reg p' o' = s.reg p' o' := by
  unfold State.reg State.setReg
  dsimp only
  rw [Store.get_set_other]
  unfold regKey
  omega

theorem State.reg_setReg (s : State) (p o p' o' : Nat) (v : W64) (h : o < 4096) (h' : o' < 4096) :
    (s.setReg p o v).reg p' o' = if p = p' ∧ o = o' then v else s.reg p' o' := by
  split
  · rename_i e
    rw [← e.1, ← e.2, State.reg_setReg_same]
  · exact State.reg_setReg_other s p o p' o' v h h' (by omega)

/-- Registers depend on the register store alone. -/
theorem State.reg_congr {s t : State} (h : t.regs = s.regs) (p o : Nat) : t.reg p o = s.reg p o := by
  unfold State.reg
  rw [h]

/-! ### Frames of registers -/

theorem RegsOutside.refl (l : List (Nat × Nat)) (s : State) : RegsOutside l s s := fun _ _ _ _ => rfl

theorem RegsOutside.of_regs {l : List (Nat × Nat)} {s t : State} (h : t.regs = s.regs) : RegsOutside l s t :=
  fun p o _ _ => State.reg_congr h p o

theorem RegsOutside.trans {l : List (Nat × Nat)} {r s t : State} (h : RegsOutside l r s) (k : RegsOutside l s t) : RegsOutside l r t :=
  fun p o b n => (k p o b n).trans (h p o b n)

theorem RegsOutside.mono {l m : List (Nat × Nat)} {s t : State} (h : RegsOutside l s t) (hm : ∀ x ∈ l, x ∈ m) : RegsOutside m s t :=
  fun p o b n => h p o b (fun c => n (hm _ c))

/-- Operations one after another. -/
theorem RegsOutside.step {l m : List (Nat × Nat)} {r s t : State} (h : RegsOutside m r s) (k : RegsOutside l s t)
    (hm : ∀ x ∈ l, x ∈ m) : RegsOutside m r t := h.trans (k.mono hm)

theorem RegsOutside.setReg (s : State) (p o : Nat) (v : W64) (h : o < 4096) : RegsOutside [(p, o)] s (s.setReg p o v) := by
  intro p' o' b n
  refine State.reg_setReg_other s p o p' o' v h b ?_
  by_contra c
  push Not at c
  exact n (by rw [c.1, c.2]; exact List.mem_singleton.mpr rfl)

theorem RegsOutside.setRf (s : State) (p o hi lo v : Nat) (h : o < 4096) : RegsOutside [(p, o)] s (s.setRf p o hi lo v) :=
  RegsOutside.setReg s p o _ h
theorem RegsOutside.setRb (s : State) (p o i : Nat) (b : Bool) (h : o < 4096) : RegsOutside [(p, o)] s (s.setRb p o i b) :=
  RegsOutside.setReg s p o _ h
theorem RegsOutside.setFields (s : State) (p o : Nat) (l : List (Nat × Nat × Nat)) (h : o < 4096) :
    RegsOutside [(p, o)] s (s.setFields p o l) := RegsOutside.setReg s p o _ h
theorem RegsOutside.bump (s : State) (p k n : Nat) (h : k < 496) : RegsOutside [counter p k] s (s.bump p k n) :=
  RegsOutside.setReg s p _ _ (by unfold Reg.COUNTER; omega)
theorem RegsOutside.msix (s : State) (p : HostPort) (v : Nat) : RegsOutside [counter (portPage p) 6] s (s.msix p v) := by
  unfold State.msix
  extract_lets f w
  split
  · exact RegsOutside.refl _ _
  · split
    · exact RegsOutside.of_regs rfl
    · exact (RegsOutside.of_regs (s := s) (t := s.send (.msix p v)) rfl).trans (RegsOutside.bump _ _ 6 1 (by decide))

theorem State.reg_bump_same (s : State) (p k n : Nat) :
    (s.bump p k n).reg p (Reg.COUNTER k) = s.reg p (Reg.COUNTER k) + BitVec.ofNat 64 n := State.reg_setReg_same ..

/-- What `withSummary` adds to a change: the two ports' interrupt counters. -/
theorem RegsOutside.withSummary {l : List (Nat × Nat)} (s : State) (page : Nat) (f : State → State) (h : RegsOutside l s (f s))
    (ha : counter (portPage .a) 6 ∈ l) (hb : counter (portPage .b) 6 ∈ l) : RegsOutside l s (s.withSummary page f) := by
  have hs {t : State} (p : HostPort) (v : Nat) (k : RegsOutside l s t) : RegsOutside l s (t.msix p v) := by
    refine k.step (RegsOutside.msix t p v) ?_
    intro x hx
    rw [List.mem_singleton] at hx
    subst hx
    cases p
    · exact ha
    · exact hb
  unfold State.withSummary
  extract_lets before t t1
  have ht : RegsOutside l s t := h
  have h1 : RegsOutside l s t1 := by
    unfold t1
    split
    · exact hs _ _ ht
    · exact ht
  split
  · split
    · exact hs _ _ h1
    · exact h1
  · exact ht

theorem RegsOutside.raise (s : State) (page b : Nat) : RegsOutside (evtRegs page) s (s.raise page b) :=
  RegsOutside.withSummary s page _ ((RegsOutside.setRb s page Reg.EVT_RAW b true (by decide)).mono (by simp [evtRegs]))
    (by simp [evtRegs]) (by simp [evtRegs])

theorem RegsOutside.log (l : List (Nat × Nat)) (s : State) (page cause sev : Nat) (d0 d1 : W64) :
    RegsOutside l s (s.log page cause sev d0 d1) := RegsOutside.of_regs rfl

/-- A register that an event does not write. -/
theorem State.reg_raise_other (s : State) (page b p o : Nat) (h : o < 4096) (n : (p, o) ∉ evtRegs page) :
    (s.raise page b).reg p o = s.reg p o := RegsOutside.raise s page b p o h n

/-- The event bit is set, and the others stay. -/
theorem State.raise_evt (s : State) (page b : Nat) :
    (s.raise page b).reg page Reg.EVT_RAW = setBit (s.reg page Reg.EVT_RAW) b true := by
  have hm (t : State) (p : HostPort) (v : Nat) : (t.msix p v).reg page Reg.EVT_RAW = t.reg page Reg.EVT_RAW := by
    refine RegsOutside.msix t p v page Reg.EVT_RAW (by decide) ?_
    simp [counter, Reg.COUNTER, Reg.EVT_RAW]
  unfold State.raise State.withSummary
  extract_lets before t t1
  have ht : t.reg page Reg.EVT_RAW = setBit (s.reg page Reg.EVT_RAW) b true := State.reg_setReg_same ..
  have h1 : t1.reg page Reg.EVT_RAW = setBit (s.reg page Reg.EVT_RAW) b true := by
    unfold t1
    split
    · rw [hm, ht]
    · exact ht
  split
  · split
    · rw [hm, h1]
    · exact h1
  · exact ht

theorem Raised.raise (s : State) (page b : Nat) (h : b < 64) : Raised (s.raise page b) page b := by
  unfold Raised State.rb
  rw [State.raise_evt]
  exact fbit_setBit_same _ _ _ h

/-- An event bit stays set through what does not write the event register. -/
theorem Raised.outside {l : List (Nat × Nat)} {s t : State} {page b : Nat} (h : Raised s page b) (k : RegsOutside l s t)
    (n : (page, Reg.EVT_RAW) ∉ l) : Raised t page b := by
  unfold Raised State.rb at *
  rw [k page Reg.EVT_RAW (by decide) n]
  exact h

end Sys2Proof.Machine
end

