-- ==== Sys2Proof/Laws/State.lean ====
section
/-! SUPPORT. The fields that a setter leaves: one equation for each field and setter, true by computation. -/
namespace Sys2Proof.Machine

@[simp] theorem State.setReg_fields (s : State) (p o v) :
    (s.setReg p o v).pending = s.pending ∧
    (s.setReg p o v).now = s.now ∧
    (s.setReg p o v).up = s.up ∧
    (s.setReg p o v).sub = s.sub ∧
    (s.setReg p o v).fresh = s.fresh ∧
    (s.setReg p o v).wins = s.wins ∧
    (s.setReg p o v).guards = s.guards ∧
    (s.setReg p o v).shadows = s.shadows ∧
    (s.setReg p o v).mbxs = s.mbxs ∧
    (s.setReg p o v).tapSets = s.tapSets ∧
    (s.setReg p o v).tap = s.tap ∧
    (s.setReg p o v).sealRun = s.sealRun ∧
    (s.setReg p o v).timeSet = s.timeSet ∧
    (s.setReg p o v).pool = s.pool ∧
    (s.setReg p o v).peat = s.peat ∧
    (s.setReg p o v).mire = s.mire ∧
    (s.setReg p o v).host = s.host ∧
    (s.setReg p o v).poolBad = s.poolBad ∧
    (s.setReg p o v).peatBad = s.peatBad ∧
    (s.setReg p o v).mireBad = s.mireBad ∧
    (s.setReg p o v).tasks = s.tasks ∧
    (s.setReg p o v).crus = s.crus ∧
    (s.setReg p o v).gates = s.gates ∧
    (s.setReg p o v).slots = s.slots ∧
    (s.setReg p o v).probes = s.probes ∧
    (s.setReg p o v).rx = s.rx ∧
    (s.setReg p o v).slotMap = s.slotMap ∧
    (s.setReg p o v).routes = s.routes ∧
    (s.setReg p o v).rimEpoch = s.rimEpoch ∧
    (s.setReg p o v).genTab = s.genTab ∧
    (s.setReg p o v).net = s.net ∧
    (s.setReg p o v).arrivals = s.arrivals ∧
    (s.setReg p o v).ports = s.ports ∧
    (s.setReg p o v).laneTx = s.laneTx ∧
    (s.setReg p o v).dieFence = s.dieFence ∧
    (s.setReg p o v).pgQueue = s.pgQueue ∧
    (s.setReg p o v).movers = s.movers ∧
    (s.setReg p o v).pgPushed = s.pgPushed ∧
    (s.setReg p o v).banks = s.banks ∧
    (s.setReg p o v).scrubs = s.scrubs ∧
    (s.setReg p o v).streams = s.streams ∧
    (s.setReg p o v).beds = s.beds ∧
    (s.setReg p o v).places = s.places ∧
    (s.setReg p o v).wmoves = s.wmoves ∧
    (s.setReg p o v).rplaces = s.rplaces ∧
    (s.setReg p o v).handRx = s.handRx ∧
    (s.setReg p o v).nextTag = s.nextTag ∧
    (s.setReg p o v).kvAreas = s.kvAreas ∧
    (s.setReg p o v).castRun = s.castRun ∧
    (s.setReg p o v).casting = s.casting ∧
    (s.setReg p o v).pours = s.pours ∧
    (s.setReg p o v).cmds = s.cmds ∧
    (s.setReg p o v).queues = s.queues ∧
    (s.setReg p o v).egress = s.egress ∧
    (s.setReg p o v).fns = s.fns ∧
    (s.setReg p o v).reports = s.reports ∧
    (s.setReg p o v).mon = s.mon ∧
    (s.setReg p o v).monTap = s.monTap ∧
    (s.setReg p o v).evRing = s.evRing ∧
    (s.setReg p o v).sec = s.sec ∧
    (s.setReg p o v).spdm = s.spdm ∧
    (s.setReg p o v).eid = s.eid ∧
    (s.setReg p o v).evWay = s.evWay ∧
    (s.setReg p o v).evRate = s.evRate ∧
    (s.setReg p o v).ramps = s.ramps ∧
    (s.setReg p o v).minvSeen = s.minvSeen ∧
    (s.setReg p o v).tide = s.tide ∧
    (s.setReg p o v).khz = s.khz ∧
    (s.setReg p o v).deferred = s.deferred ∧
    (s.setReg p o v).stepAt = s.stepAt ∧
    (s.setReg p o v).lostPort = s.lostPort ∧
    (s.setReg p o v).vlog = s.vlog ∧
    (s.setReg p o v).refs = s.refs ∧
    (s.setReg p o v).ptp = s.ptp ∧
    (s.setReg p o v).sens = s.sens ∧
    (s.setReg p o v).quench = s.quench ∧
    (s.setReg p o v).tray = s.tray ∧
    (s.setReg p o v).boot = s.boot ∧
    (s.setReg p o v).flash = s.flash ∧
    (s.setReg p o v).sites = s.sites ∧
    (s.setReg p o v).planDue = s.planDue ∧
    (s.setReg p o v).planAt = s.planAt ∧
    (s.setReg p o v).aging = s.aging ∧
    (s.setReg p o v).heats = s.heats ∧
    (s.setReg p o v).retires = s.retires ∧
    (s.setReg p o v).charges = s.charges ∧
    (s.setReg p o v).fixes = s.fixes ∧
    (s.setReg p o v).beats = s.beats ∧
    (s.setReg p o v).out = s.out ∧
    (s.setReg p o v).lastRead = s.lastRead :=
  ⟨rfl, rfl, rfl, rfl, rfl, rfl, rfl, rfl, rfl, rfl, rfl, rfl, rfl, rfl, rfl, rfl, rfl, rfl, rfl, rfl, rfl, rfl, rfl, rfl, rfl, rfl, rfl, rfl, rfl, rfl, rfl, rfl, rfl, rfl, rfl, rfl, rfl, rfl, rfl, rfl, rfl, rfl, rfl, rfl, rfl, rfl, rfl, rfl, rfl, rfl, rfl, rfl, rfl, rfl, rfl, rfl, rfl, rfl, rfl, rfl, rfl, rfl, rfl, rfl, rfl, rfl, rfl, rfl, rfl, rfl, rfl, rfl, rfl, rfl, rfl, rfl, rfl, rfl, rfl, rfl, rfl, rfl, rfl, rfl, rfl, rfl, rfl, rfl, rfl, rfl⟩

@[simp] theorem State.setRf_fields (s : State) (p o hi lo v) :
    (s.setRf p o hi lo v).pending = s.pending ∧
    (s.setRf p o hi lo v).now = s.now ∧
    (s.setRf p o hi lo v).up = s.up ∧
    (s.setRf p o hi lo v).sub = s.sub ∧
    (s.setRf p o hi lo v).fresh = s.fresh ∧
    (s.setRf p o hi lo v).wins = s.wins ∧
    (s.setRf p o hi lo v).guards = s.guards ∧
    (s.setRf p o hi lo v).shadows = s.shadows ∧
    (s.setRf p o hi lo v).mbxs = s.mbxs ∧
    (s.setRf p o hi lo v).tapSets = s.tapSets ∧
    (s.setRf p o hi lo v).tap = s.tap ∧
    (s.setRf p o hi lo v).sealRun = s.sealRun ∧
    (s.setRf p o hi lo v).timeSet = s.timeSet ∧
    (s.setRf p o hi lo v).pool = s.pool ∧
    (s.setRf p o hi lo v).peat = s.peat ∧
    (s.setRf p o hi lo v).mire = s.mire ∧
    (s.setRf p o hi lo v).host = s.host ∧
    (s.setRf p o hi lo v).poolBad = s.poolBad ∧
    (s.setRf p o hi lo v).peatBad = s.peatBad ∧
    (s.setRf p o hi lo v).mireBad = s.mireBad ∧
    (s.setRf p o hi lo v).tasks = s.tasks ∧
    (s.setRf p o hi lo v).crus = s.crus ∧
    (s.setRf p o hi lo v).gates = s.gates ∧
    (s.setRf p o hi lo v).slots = s.slots ∧
    (s.setRf p o hi lo v).probes = s.probes ∧
    (s.setRf p o hi lo v).rx = s.rx ∧
    (s.setRf p o hi lo v).slotMap = s.slotMap ∧
    (s.setRf p o hi lo v).routes = s.routes ∧
    (s.setRf p o hi lo v).rimEpoch = s.rimEpoch ∧
    (s.setRf p o hi lo v).genTab = s.genTab ∧
    (s.setRf p o hi lo v).net = s.net ∧
    (s.setRf p o hi lo v).arrivals = s.arrivals ∧
    (s.setRf p o hi lo v).ports = s.ports ∧
    (s.setRf p o hi lo v).laneTx = s.laneTx ∧
    (s.setRf p o hi lo v).dieFence = s.dieFence ∧
    (s.setRf p o hi lo v).pgQueue = s.pgQueue ∧
    (s.setRf p o hi lo v).movers = s.movers ∧
    (s.setRf p o hi lo v).pgPushed = s.pgPushed ∧
    (s.setRf p o hi lo v).banks = s.banks ∧
    (s.setRf p o hi lo v).scrubs = s.scrubs ∧
    (s.setRf p o hi lo v).streams = s.streams ∧
    (s.setRf p o hi lo v).beds = s.beds ∧
    (s.setRf p o hi lo v).places = s.places ∧
    (s.setRf p o hi lo v).wmoves = s.wmoves ∧
    (s.setRf p o hi lo v).rplaces = s.rplaces ∧
    (s.setRf p o hi lo v).handRx = s.handRx ∧
    (s.setRf p o hi lo v).nextTag = s.nextTag ∧
    (s.setRf p o hi lo v).kvAreas = s.kvAreas ∧
    (s.setRf p o hi lo v).castRun = s.castRun ∧
    (s.setRf p o hi lo v).casting = s.casting ∧
    (s.setRf p o hi lo v).pours = s.pours ∧
    (s.setRf p o hi lo v).cmds = s.cmds ∧
    (s.setRf p o hi lo v).queues = s.queues ∧
    (s.setRf p o hi lo v).egress = s.egress ∧
    (s.setRf p o hi lo v).fns = s.fns ∧
    (s.setRf p o hi lo v).reports = s.reports ∧
    (s.setRf p o hi lo v).mon = s.mon ∧
    (s.setRf p o hi lo v).monTap = s.monTap ∧
    (s.setRf p o hi lo v).evRing = s.evRing ∧
    (s.setRf p o hi lo v).sec = s.sec ∧
    (s.setRf p o hi lo v).spdm = s.spdm ∧
    (s.setRf p o hi lo v).eid = s.eid ∧
    (s.setRf p o hi lo v).evWay = s.evWay ∧
    (s.setRf p o hi lo v).evRate = s.evRate ∧
    (s.setRf p o hi lo v).ramps = s.ramps ∧
    (s.setRf p o hi lo v).minvSeen = s.minvSeen ∧
    (s.setRf p o hi lo v).tide = s.tide ∧
    (s.setRf p o hi lo v).khz = s.khz ∧
    (s.setRf p o hi lo v).deferred = s.deferred ∧
    (s.setRf p o hi lo v).stepAt = s.stepAt ∧
    (s.setRf p o hi lo v).lostPort = s.lostPort ∧
    (s.setRf p o hi lo v).vlog = s.vlog ∧
    (s.setRf p o hi lo v).refs = s.refs ∧
    (s.setRf p o hi lo v).ptp = s.ptp ∧
    (s.setRf p o hi lo v).sens = s.sens ∧
    (s.setRf p o hi lo v).quench = s.quench ∧
    (s.setRf p o hi lo v).tray = s.tray ∧
    (s.setRf p o hi lo v).boot = s.boot ∧
    (s.setRf p o hi lo v).flash = s.flash ∧
    (s.setRf p o hi lo v).sites = s.sites ∧
    (s.setRf p o hi lo v).planDue = s.planDue ∧
    (s.setRf p o hi lo v).planAt = s.planAt ∧
    (s.setRf p o hi lo v).aging = s.aging ∧
    (s.setRf p o hi lo v).heats = s.heats ∧
    (s.setRf p o hi lo v).retires = s.retires ∧
    (s.setRf p o hi lo v).charges = s.charges ∧
    (s.setRf p o hi lo v).fixes = s.fixes ∧
    (s.setRf p o hi lo v).beats = s.beats ∧
    (s.setRf p o hi lo v).out = s.out ∧
    (s.setRf p o hi lo v).lastRead = s.lastRead :=
  ⟨rfl, rfl, rfl, rfl, rfl, rfl, rfl, rfl, rfl, rfl, rfl, rfl, rfl, rfl, rfl, rfl, rfl, rfl, rfl, rfl, rfl, rfl, rfl, rfl, rfl, rfl, rfl, rfl, rfl, rfl, rfl, rfl, rfl, rfl, rfl, rfl, rfl, rfl, rfl, rfl, rfl, rfl, rfl, rfl, rfl, rfl, rfl, rfl, rfl, rfl, rfl, rfl, rfl, rfl, rfl, rfl, rfl, rfl, rfl, rfl, rfl, rfl, rfl, rfl, rfl, rfl, rfl, rfl, rfl, rfl, rfl, rfl, rfl, rfl, rfl, rfl, rfl, rfl, rfl, rfl, rfl, rfl, rfl, rfl, rfl, rfl, rfl, rfl, rfl, rfl⟩

@[simp] theorem State.setRb_fields (s : State) (p o i b) :
    (s.setRb p o i b).pending = s.pending ∧
    (s.setRb p o i b).now = s.now ∧
    (s.setRb p o i b).up = s.up ∧
    (s.setRb p o i b).sub = s.sub ∧
    (s.setRb p o i b).fresh = s.fresh ∧
    (s.setRb p o i b).wins = s.wins ∧
    (s.setRb p o i b).guards = s.guards ∧
    (s.setRb p o i b).shadows = s.shadows ∧
    (s.setRb p o i b).mbxs = s.mbxs ∧
    (s.setRb p o i b).tapSets = s.tapSets ∧
    (s.setRb p o i b).tap = s.tap ∧
    (s.setRb p o i b).sealRun = s.sealRun ∧
    (s.setRb p o i b).timeSet = s.timeSet ∧
    (s.setRb p o i b).pool = s.pool ∧
    (s.setRb p o i b).peat = s.peat ∧
    (s.setRb p o i b).mire = s.mire ∧
    (s.setRb p o i b).host = s.host ∧
    (s.setRb p o i b).poolBad = s.poolBad ∧
    (s.setRb p o i b).peatBad = s.peatBad ∧
    (s.setRb p o i b).mireBad = s.mireBad ∧
    (s.setRb p o i b).tasks = s.tasks ∧
    (s.setRb p o i b).crus = s.crus ∧
    (s.setRb p o i b).gates = s.gates ∧
    (s.setRb p o i b).slots = s.slots ∧
    (s.setRb p o i b).probes = s.probes ∧
    (s.setRb p o i b).rx = s.rx ∧
    (s.setRb p o i b).slotMap = s.slotMap ∧
    (s.setRb p o i b).routes = s.routes ∧
    (s.setRb p o i b).rimEpoch = s.rimEpoch ∧
    (s.setRb p o i b).genTab = s.genTab ∧
    (s.setRb p o i b).net = s.net ∧
    (s.setRb p o i b).arrivals = s.arrivals ∧
    (s.setRb p o i b).ports = s.ports ∧
    (s.setRb p o i b).laneTx = s.laneTx ∧
    (s.setRb p o i b).dieFence = s.dieFence ∧
    (s.setRb p o i b).pgQueue = s.pgQueue ∧
    (s.setRb p o i b).movers = s.movers ∧
    (s.setRb p o i b).pgPushed = s.pgPushed ∧
    (s.setRb p o i b).banks = s.banks ∧
    (s.setRb p o i b).scrubs = s.scrubs ∧
    (s.setRb p o i b).streams = s.streams ∧
    (s.setRb p o i b).beds = s.beds ∧
    (s.setRb p o i b).places = s.places ∧
    (s.setRb p o i b).wmoves = s.wmoves ∧
    (s.setRb p o i b).rplaces = s.rplaces ∧
    (s.setRb p o i b).handRx = s.handRx ∧
    (s.setRb p o i b).nextTag = s.nextTag ∧
    (s.setRb p o i b).kvAreas = s.kvAreas ∧
    (s.setRb p o i b).castRun = s.castRun ∧
    (s.setRb p o i b).casting = s.casting ∧
    (s.setRb p o i b).pours = s.pours ∧
    (s.setRb p o i b).cmds = s.cmds ∧
    (s.setRb p o i b).queues = s.queues ∧
    (s.setRb p o i b).egress = s.egress ∧
    (s.setRb p o i b).fns = s.fns ∧
    (s.setRb p o i b).reports = s.reports ∧
    (s.setRb p o i b).mon = s.mon ∧
    (s.setRb p o i b).monTap = s.monTap ∧
    (s.setRb p o i b).evRing = s.evRing ∧
    (s.setRb p o i b).sec = s.sec ∧
    (s.setRb p o i b).spdm = s.spdm ∧
    (s.setRb p o i b).eid = s.eid ∧
    (s.setRb p o i b).evWay = s.evWay ∧
    (s.setRb p o i b).evRate = s.evRate ∧
    (s.setRb p o i b).ramps = s.ramps ∧
    (s.setRb p o i b).minvSeen = s.minvSeen ∧
    (s.setRb p o i b).tide = s.tide ∧
    (s.setRb p o i b).khz = s.khz ∧
    (s.setRb p o i b).deferred = s.deferred ∧
    (s.setRb p o i b).stepAt = s.stepAt ∧
    (s.setRb p o i b).lostPort = s.lostPort ∧
    (s.setRb p o i b).vlog = s.vlog ∧
    (s.setRb p o i b).refs = s.refs ∧
    (s.setRb p o i b).ptp = s.ptp ∧
    (s.setRb p o i b).sens = s.sens ∧
    (s.setRb p o i b).quench = s.quench ∧
    (s.setRb p o i b).tray = s.tray ∧
    (s.setRb p o i b).boot = s.boot ∧
    (s.setRb p o i b).flash = s.flash ∧
    (s.setRb p o i b).sites = s.sites ∧
    (s.setRb p o i b).planDue = s.planDue ∧
    (s.setRb p o i b).planAt = s.planAt ∧
    (s.setRb p o i b).aging = s.aging ∧
    (s.setRb p o i b).heats = s.heats ∧
    (s.setRb p o i b).retires = s.retires ∧
    (s.setRb p o i b).charges = s.charges ∧
    (s.setRb p o i b).fixes = s.fixes ∧
    (s.setRb p o i b).beats = s.beats ∧
    (s.setRb p o i b).out = s.out ∧
    (s.setRb p o i b).lastRead = s.lastRead :=
  ⟨rfl, rfl, rfl, rfl, rfl, rfl, rfl, rfl, rfl, rfl, rfl, rfl, rfl, rfl, rfl, rfl, rfl, rfl, rfl, rfl, rfl, rfl, rfl, rfl, rfl, rfl, rfl, rfl, rfl, rfl, rfl, rfl, rfl, rfl, rfl, rfl, rfl, rfl, rfl, rfl, rfl, rfl, rfl, rfl, rfl, rfl, rfl, rfl, rfl, rfl, rfl, rfl, rfl, rfl, rfl, rfl, rfl, rfl, rfl, rfl, rfl, rfl, rfl, rfl, rfl, rfl, rfl, rfl, rfl, rfl, rfl, rfl, rfl, rfl, rfl, rfl, rfl, rfl, rfl, rfl, rfl, rfl, rfl, rfl, rfl, rfl, rfl, rfl, rfl, rfl⟩

@[simp] theorem State.setFields_fields (s : State) (p o l) :
    (s.setFields p o l).pending = s.pending ∧
    (s.setFields p o l).now = s.now ∧
    (s.setFields p o l).up = s.up ∧
    (s.setFields p o l).sub = s.sub ∧
    (s.setFields p o l).fresh = s.fresh ∧
    (s.setFields p o l).wins = s.wins ∧
    (s.setFields p o l).guards = s.guards ∧
    (s.setFields p o l).shadows = s.shadows ∧
    (s.setFields p o l).mbxs = s.mbxs ∧
    (s.setFields p o l).tapSets = s.tapSets ∧
    (s.setFields p o l).tap = s.tap ∧
    (s.setFields p o l).sealRun = s.sealRun ∧
    (s.setFields p o l).timeSet = s.timeSet ∧
    (s.setFields p o l).pool = s.pool ∧
    (s.setFields p o l).peat = s.peat ∧
    (s.setFields p o l).mire = s.mire ∧
    (s.setFields p o l).host = s.host ∧
    (s.setFields p o l).poolBad = s.poolBad ∧
    (s.setFields p o l).peatBad = s.peatBad ∧
    (s.setFields p o l).mireBad = s.mireBad ∧
    (s.setFields p o l).tasks = s.tasks ∧
    (s.setFields p o l).crus = s.crus ∧
    (s.setFields p o l).gates = s.gates ∧
    (s.setFields p o l).slots = s.slots ∧
    (s.setFields p o l).probes = s.probes ∧
    (s.setFields p o l).rx = s.rx ∧
    (s.setFields p o l).slotMap = s.slotMap ∧
    (s.setFields p o l).routes = s.routes ∧
    (s.setFields p o l).rimEpoch = s.rimEpoch ∧
    (s.setFields p o l).genTab = s.genTab ∧
    (s.setFields p o l).net = s.net ∧
    (s.setFields p o l).arrivals = s.arrivals ∧
    (s.setFields p o l).ports = s.ports ∧
    (s.setFields p o l).laneTx = s.laneTx ∧
    (s.setFields p o l).dieFence = s.dieFence ∧
    (s.setFields p o l).pgQueue = s.pgQueue ∧
    (s.setFields p o l).movers = s.movers ∧
    (s.setFields p o l).pgPushed = s.pgPushed ∧
    (s.setFields p o l).banks = s.banks ∧
    (s.setFields p o l).scrubs = s.scrubs ∧
    (s.setFields p o l).streams = s.streams ∧
    (s.setFields p o l).beds = s.beds ∧
    (s.setFields p o l).places = s.places ∧
    (s.setFields p o l).wmoves = s.wmoves ∧
    (s.setFields p o l).rplaces = s.rplaces ∧
    (s.setFields p o l).handRx = s.handRx ∧
    (s.setFields p o l).nextTag = s.nextTag ∧
    (s.setFields p o l).kvAreas = s.kvAreas ∧
    (s.setFields p o l).castRun = s.castRun ∧
    (s.setFields p o l).casting = s.casting ∧
    (s.setFields p o l).pours = s.pours ∧
    (s.setFields p o l).cmds = s.cmds ∧
    (s.setFields p o l).queues = s.queues ∧
    (s.setFields p o l).egress = s.egress ∧
    (s.setFields p o l).fns = s.fns ∧
    (s.setFields p o l).reports = s.reports ∧
    (s.setFields p o l).mon = s.mon ∧
    (s.setFields p o l).monTap = s.monTap ∧
    (s.setFields p o l).evRing = s.evRing ∧
    (s.setFields p o l).sec = s.sec ∧
    (s.setFields p o l).spdm = s.spdm ∧
    (s.setFields p o l).eid = s.eid ∧
    (s.setFields p o l).evWay = s.evWay ∧
    (s.setFields p o l).evRate = s.evRate ∧
    (s.setFields p o l).ramps = s.ramps ∧
    (s.setFields p o l).minvSeen = s.minvSeen ∧
    (s.setFields p o l).tide = s.tide ∧
    (s.setFields p o l).khz = s.khz ∧
    (s.setFields p o l).deferred = s.deferred ∧
    (s.setFields p o l).stepAt = s.stepAt ∧
    (s.setFields p o l).lostPort = s.lostPort ∧
    (s.setFields p o l).vlog = s.vlog ∧
    (s.setFields p o l).refs = s.refs ∧
    (s.setFields p o l).ptp = s.ptp ∧
    (s.setFields p o l).sens = s.sens ∧
    (s.setFields p o l).quench = s.quench ∧
    (s.setFields p o l).tray = s.tray ∧
    (s.setFields p o l).boot = s.boot ∧
    (s.setFields p o l).flash = s.flash ∧
    (s.setFields p o l).sites = s.sites ∧
    (s.setFields p o l).planDue = s.planDue ∧
    (s.setFields p o l).planAt = s.planAt ∧
    (s.setFields p o l).aging = s.aging ∧
    (s.setFields p o l).heats = s.heats ∧
    (s.setFields p o l).retires = s.retires ∧
    (s.setFields p o l).charges = s.charges ∧
    (s.setFields p o l).fixes = s.fixes ∧
    (s.setFields p o l).beats = s.beats ∧
    (s.setFields p o l).out = s.out ∧
    (s.setFields p o l).lastRead = s.lastRead :=
  ⟨rfl, rfl, rfl, rfl, rfl, rfl, rfl, rfl, rfl, rfl, rfl, rfl, rfl, rfl, rfl, rfl, rfl, rfl, rfl, rfl, rfl, rfl, rfl, rfl, rfl, rfl, rfl, rfl, rfl, rfl, rfl, rfl, rfl, rfl, rfl, rfl, rfl, rfl, rfl, rfl, rfl, rfl, rfl, rfl, rfl, rfl, rfl, rfl, rfl, rfl, rfl, rfl, rfl, rfl, rfl, rfl, rfl, rfl, rfl, rfl, rfl, rfl, rfl, rfl, rfl, rfl, rfl, rfl, rfl, rfl, rfl, rfl, rfl, rfl, rfl, rfl, rfl, rfl, rfl, rfl, rfl, rfl, rfl, rfl, rfl, rfl, rfl, rfl, rfl, rfl⟩

@[simp] theorem State.bump_fields (s : State) (p k n) :
    (s.bump p k n).pending = s.pending ∧
    (s.bump p k n).now = s.now ∧
    (s.bump p k n).up = s.up ∧
    (s.bump p k n).sub = s.sub ∧
    (s.bump p k n).fresh = s.fresh ∧
    (s.bump p k n).wins = s.wins ∧
    (s.bump p k n).guards = s.guards ∧
    (s.bump p k n).shadows = s.shadows ∧
    (s.bump p k n).mbxs = s.mbxs ∧
    (s.bump p k n).tapSets = s.tapSets ∧
    (s.bump p k n).tap = s.tap ∧
    (s.bump p k n).sealRun = s.sealRun ∧
    (s.bump p k n).timeSet = s.timeSet ∧
    (s.bump p k n).pool = s.pool ∧
    (s.bump p k n).peat = s.peat ∧
    (s.bump p k n).mire = s.mire ∧
    (s.bump p k n).host = s.host ∧
    (s.bump p k n).poolBad = s.poolBad ∧
    (s.bump p k n).peatBad = s.peatBad ∧
    (s.bump p k n).mireBad = s.mireBad ∧
    (s.bump p k n).tasks = s.tasks ∧
    (s.bump p k n).crus = s.crus ∧
    (s.bump p k n).gates = s.gates ∧
    (s.bump p k n).slots = s.slots ∧
    (s.bump p k n).probes = s.probes ∧
    (s.bump p k n).rx = s.rx ∧
    (s.bump p k n).slotMap = s.slotMap ∧
    (s.bump p k n).routes = s.routes ∧
    (s.bump p k n).rimEpoch = s.rimEpoch ∧
    (s.bump p k n).genTab = s.genTab ∧
    (s.bump p k n).net = s.net ∧
    (s.bump p k n).arrivals = s.arrivals ∧
    (s.bump p k n).ports = s.ports ∧
    (s.bump p k n).laneTx = s.laneTx ∧
    (s.bump p k n).dieFence = s.dieFence ∧
    (s.bump p k n).pgQueue = s.pgQueue ∧
    (s.bump p k n).movers = s.movers ∧
    (s.bump p k n).pgPushed = s.pgPushed ∧
    (s.bump p k n).banks = s.banks ∧
    (s.bump p k n).scrubs = s.scrubs ∧
    (s.bump p k n).streams = s.streams ∧
    (s.bump p k n).beds = s.beds ∧
    (s.bump p k n).places = s.places ∧
    (s.bump p k n).wmoves = s.wmoves ∧
    (s.bump p k n).rplaces = s.rplaces ∧
    (s.bump p k n).handRx = s.handRx ∧
    (s.bump p k n).nextTag = s.nextTag ∧
    (s.bump p k n).kvAreas = s.kvAreas ∧
    (s.bump p k n).castRun = s.castRun ∧
    (s.bump p k n).casting = s.casting ∧
    (s.bump p k n).pours = s.pours ∧
    (s.bump p k n).cmds = s.cmds ∧
    (s.bump p k n).queues = s.queues ∧
    (s.bump p k n).egress = s.egress ∧
    (s.bump p k n).fns = s.fns ∧
    (s.bump p k n).reports = s.reports ∧
    (s.bump p k n).mon = s.mon ∧
    (s.bump p k n).monTap = s.monTap ∧
    (s.bump p k n).evRing = s.evRing ∧
    (s.bump p k n).sec = s.sec ∧
    (s.bump p k n).spdm = s.spdm ∧
    (s.bump p k n).eid = s.eid ∧
    (s.bump p k n).evWay = s.evWay ∧
    (s.bump p k n).evRate = s.evRate ∧
    (s.bump p k n).ramps = s.ramps ∧
    (s.bump p k n).minvSeen = s.minvSeen ∧
    (s.bump p k n).tide = s.tide ∧
    (s.bump p k n).khz = s.khz ∧
    (s.bump p k n).deferred = s.deferred ∧
    (s.bump p k n).stepAt = s.stepAt ∧
    (s.bump p k n).lostPort = s.lostPort ∧
    (s.bump p k n).vlog = s.vlog ∧
    (s.bump p k n).refs = s.refs ∧
    (s.bump p k n).ptp = s.ptp ∧
    (s.bump p k n).sens = s.sens ∧
    (s.bump p k n).quench = s.quench ∧
    (s.bump p k n).tray = s.tray ∧
    (s.bump p k n).boot = s.boot ∧
    (s.bump p k n).flash = s.flash ∧
    (s.bump p k n).sites = s.sites ∧
    (s.bump p k n).planDue = s.planDue ∧
    (s.bump p k n).planAt = s.planAt ∧
    (s.bump p k n).aging = s.aging ∧
    (s.bump p k n).heats = s.heats ∧
    (s.bump p k n).retires = s.retires ∧
    (s.bump p k n).charges = s.charges ∧
    (s.bump p k n).fixes = s.fixes ∧
    (s.bump p k n).beats = s.beats ∧
    (s.bump p k n).out = s.out ∧
    (s.bump p k n).lastRead = s.lastRead :=
  ⟨rfl, rfl, rfl, rfl, rfl, rfl, rfl, rfl, rfl, rfl, rfl, rfl, rfl, rfl, rfl, rfl, rfl, rfl, rfl, rfl, rfl, rfl, rfl, rfl, rfl, rfl, rfl, rfl, rfl, rfl, rfl, rfl, rfl, rfl, rfl, rfl, rfl, rfl, rfl, rfl, rfl, rfl, rfl, rfl, rfl, rfl, rfl, rfl, rfl, rfl, rfl, rfl, rfl, rfl, rfl, rfl, rfl, rfl, rfl, rfl, rfl, rfl, rfl, rfl, rfl, rfl, rfl, rfl, rfl, rfl, rfl, rfl, rfl, rfl, rfl, rfl, rfl, rfl, rfl, rfl, rfl, rfl, rfl, rfl, rfl, rfl, rfl, rfl, rfl, rfl⟩

@[simp] theorem State.setBedReg_fields (s : State) (b o v) :
    (s.setBedReg b o v).pending = s.pending ∧
    (s.setBedReg b o v).now = s.now ∧
    (s.setBedReg b o v).up = s.up ∧
    (s.setBedReg b o v).sub = s.sub ∧
    (s.setBedReg b o v).fresh = s.fresh ∧
    (s.setBedReg b o v).regs = s.regs ∧
    (s.setBedReg b o v).guards = s.guards ∧
    (s.setBedReg b o v).shadows = s.shadows ∧
    (s.setBedReg b o v).mbxs = s.mbxs ∧
    (s.setBedReg b o v).tapSets = s.tapSets ∧
    (s.setBedReg b o v).tap = s.tap ∧
    (s.setBedReg b o v).sealRun = s.sealRun ∧
    (s.setBedReg b o v).timeSet = s.timeSet ∧
    (s.setBedReg b o v).pool = s.pool ∧
    (s.setBedReg b o v).peat = s.peat ∧
    (s.setBedReg b o v).mire = s.mire ∧
    (s.setBedReg b o v).host = s.host ∧
    (s.setBedReg b o v).poolBad = s.poolBad ∧
    (s.setBedReg b o v).peatBad = s.peatBad ∧
    (s.setBedReg b o v).mireBad = s.mireBad ∧
    (s.setBedReg b o v).tasks = s.tasks ∧
    (s.setBedReg b o v).crus = s.crus ∧
    (s.setBedReg b o v).gates = s.gates ∧
    (s.setBedReg b o v).slots = s.slots ∧
    (s.setBedReg b o v).probes = s.probes ∧
    (s.setBedReg b o v).rx = s.rx ∧
    (s.setBedReg b o v).slotMap = s.slotMap ∧
    (s.setBedReg b o v).routes = s.routes ∧
    (s.setBedReg b o v).rimEpoch = s.rimEpoch ∧
    (s.setBedReg b o v).genTab = s.genTab ∧
    (s.setBedReg b o v).net = s.net ∧
    (s.setBedReg b o v).arrivals = s.arrivals ∧
    (s.setBedReg b o v).ports = s.ports ∧
    (s.setBedReg b o v).laneTx = s.laneTx ∧
    (s.setBedReg b o v).dieFence = s.dieFence ∧
    (s.setBedReg b o v).pgQueue = s.pgQueue ∧
    (s.setBedReg b o v).movers = s.movers ∧
    (s.setBedReg b o v).pgPushed = s.pgPushed ∧
    (s.setBedReg b o v).banks = s.banks ∧
    (s.setBedReg b o v).scrubs = s.scrubs ∧
    (s.setBedReg b o v).streams = s.streams ∧
    (s.setBedReg b o v).beds = s.beds ∧
    (s.setBedReg b o v).places = s.places ∧
    (s.setBedReg b o v).wmoves = s.wmoves ∧
    (s.setBedReg b o v).rplaces = s.rplaces ∧
    (s.setBedReg b o v).handRx = s.handRx ∧
    (s.setBedReg b o v).nextTag = s.nextTag ∧
    (s.setBedReg b o v).kvAreas = s.kvAreas ∧
    (s.setBedReg b o v).castRun = s.castRun ∧
    (s.setBedReg b o v).casting = s.casting ∧
    (s.setBedReg b o v).pours = s.pours ∧
    (s.setBedReg b o v).cmds = s.cmds ∧
    (s.setBedReg b o v).queues = s.queues ∧
    (s.setBedReg b o v).egress = s.egress ∧
    (s.setBedReg b o v).fns = s.fns ∧
    (s.setBedReg b o v).reports = s.reports ∧
    (s.setBedReg b o v).mon = s.mon ∧
    (s.setBedReg b o v).monTap = s.monTap ∧
    (s.setBedReg b o v).evRing = s.evRing ∧
    (s.setBedReg b o v).sec = s.sec ∧
    (s.setBedReg b o v).spdm = s.spdm ∧
    (s.setBedReg b o v).eid = s.eid ∧
    (s.setBedReg b o v).evWay = s.evWay ∧
    (s.setBedReg b o v).evRate = s.evRate ∧
    (s.setBedReg b o v).ramps = s.ramps ∧
    (s.setBedReg b o v).minvSeen = s.minvSeen ∧
    (s.setBedReg b o v).tide = s.tide ∧
    (s.setBedReg b o v).khz = s.khz ∧
    (s.setBedReg b o v).deferred = s.deferred ∧
    (s.setBedReg b o v).stepAt = s.stepAt ∧
    (s.setBedReg b o v).lostPort = s.lostPort ∧
    (s.setBedReg b o v).vlog = s.vlog ∧
    (s.setBedReg b o v).refs = s.refs ∧
    (s.setBedReg b o v).ptp = s.ptp ∧
    (s.setBedReg b o v).sens = s.sens ∧
    (s.setBedReg b o v).quench = s.quench ∧
    (s.setBedReg b o v).tray = s.tray ∧
    (s.setBedReg b o v).boot = s.boot ∧
    (s.setBedReg b o v).flash = s.flash ∧
    (s.setBedReg b o v).sites = s.sites ∧
    (s.setBedReg b o v).planDue = s.planDue ∧
    (s.setBedReg b o v).planAt = s.planAt ∧
    (s.setBedReg b o v).aging = s.aging ∧
    (s.setBedReg b o v).heats = s.heats ∧
    (s.setBedReg b o v).retires = s.retires ∧
    (s.setBedReg b o v).charges = s.charges ∧
    (s.setBedReg b o v).fixes = s.fixes ∧
    (s.setBedReg b o v).beats = s.beats ∧
    (s.setBedReg b o v).out = s.out ∧
    (s.setBedReg b o v).lastRead = s.lastRead :=
  ⟨rfl, rfl, rfl, rfl, rfl, rfl, rfl, rfl, rfl, rfl, rfl, rfl, rfl, rfl, rfl, rfl, rfl, rfl, rfl, rfl, rfl, rfl, rfl, rfl, rfl, rfl, rfl, rfl, rfl, rfl, rfl, rfl, rfl, rfl, rfl, rfl, rfl, rfl, rfl, rfl, rfl, rfl, rfl, rfl, rfl, rfl, rfl, rfl, rfl, rfl, rfl, rfl, rfl, rfl, rfl, rfl, rfl, rfl, rfl, rfl, rfl, rfl, rfl, rfl, rfl, rfl, rfl, rfl, rfl, rfl, rfl, rfl, rfl, rfl, rfl, rfl, rfl, rfl, rfl, rfl, rfl, rfl, rfl, rfl, rfl, rfl, rfl, rfl, rfl, rfl⟩

@[simp] theorem State.setQueueReg_fields (s : State) (p k n o v) :
    (s.setQueueReg p k n o v).pending = s.pending ∧
    (s.setQueueReg p k n o v).now = s.now ∧
    (s.setQueueReg p k n o v).up = s.up ∧
    (s.setQueueReg p k n o v).sub = s.sub ∧
    (s.setQueueReg p k n o v).fresh = s.fresh ∧
    (s.setQueueReg p k n o v).regs = s.regs ∧
    (s.setQueueReg p k n o v).guards = s.guards ∧
    (s.setQueueReg p k n o v).shadows = s.shadows ∧
    (s.setQueueReg p k n o v).mbxs = s.mbxs ∧
    (s.setQueueReg p k n o v).tapSets = s.tapSets ∧
    (s.setQueueReg p k n o v).tap = s.tap ∧
    (s.setQueueReg p k n o v).sealRun = s.sealRun ∧
    (s.setQueueReg p k n o v).timeSet = s.timeSet ∧
    (s.setQueueReg p k n o v).pool = s.pool ∧
    (s.setQueueReg p k n o v).peat = s.peat ∧
    (s.setQueueReg p k n o v).mire = s.mire ∧
    (s.setQueueReg p k n o v).host = s.host ∧
    (s.setQueueReg p k n o v).poolBad = s.poolBad ∧
    (s.setQueueReg p k n o v).peatBad = s.peatBad ∧
    (s.setQueueReg p k n o v).mireBad = s.mireBad ∧
    (s.setQueueReg p k n o v).tasks = s.tasks ∧
    (s.setQueueReg p k n o v).crus = s.crus ∧
    (s.setQueueReg p k n o v).gates = s.gates ∧
    (s.setQueueReg p k n o v).slots = s.slots ∧
    (s.setQueueReg p k n o v).probes = s.probes ∧
    (s.setQueueReg p k n o v).rx = s.rx ∧
    (s.setQueueReg p k n o v).slotMap = s.slotMap ∧
    (s.setQueueReg p k n o v).routes = s.routes ∧
    (s.setQueueReg p k n o v).rimEpoch = s.rimEpoch ∧
    (s.setQueueReg p k n o v).genTab = s.genTab ∧
    (s.setQueueReg p k n o v).net = s.net ∧
    (s.setQueueReg p k n o v).arrivals = s.arrivals ∧
    (s.setQueueReg p k n o v).ports = s.ports ∧
    (s.setQueueReg p k n o v).laneTx = s.laneTx ∧
    (s.setQueueReg p k n o v).dieFence = s.dieFence ∧
    (s.setQueueReg p k n o v).pgQueue = s.pgQueue ∧
    (s.setQueueReg p k n o v).movers = s.movers ∧
    (s.setQueueReg p k n o v).pgPushed = s.pgPushed ∧
    (s.setQueueReg p k n o v).banks = s.banks ∧
    (s.setQueueReg p k n o v).scrubs = s.scrubs ∧
    (s.setQueueReg p k n o v).streams = s.streams ∧
    (s.setQueueReg p k n o v).beds = s.beds ∧
    (s.setQueueReg p k n o v).places = s.places ∧
    (s.setQueueReg p k n o v).wmoves = s.wmoves ∧
    (s.setQueueReg p k n o v).rplaces = s.rplaces ∧
    (s.setQueueReg p k n o v).handRx = s.handRx ∧
    (s.setQueueReg p k n o v).nextTag = s.nextTag ∧
    (s.setQueueReg p k n o v).kvAreas = s.kvAreas ∧
    (s.setQueueReg p k n o v).castRun = s.castRun ∧
    (s.setQueueReg p k n o v).casting = s.casting ∧
    (s.setQueueReg p k n o v).pours = s.pours ∧
    (s.setQueueReg p k n o v).cmds = s.cmds ∧
    (s.setQueueReg p k n o v).queues = s.queues ∧
    (s.setQueueReg p k n o v).egress = s.egress ∧
    (s.setQueueReg p k n o v).fns = s.fns ∧
    (s.setQueueReg p k n o v).reports = s.reports ∧
    (s.setQueueReg p k n o v).mon = s.mon ∧
    (s.setQueueReg p k n o v).monTap = s.monTap ∧
    (s.setQueueReg p k n o v).evRing = s.evRing ∧
    (s.setQueueReg p k n o v).sec = s.sec ∧
    (s.setQueueReg p k n o v).spdm = s.spdm ∧
    (s.setQueueReg p k n o v).eid = s.eid ∧
    (s.setQueueReg p k n o v).evWay = s.evWay ∧
    (s.setQueueReg p k n o v).evRate = s.evRate ∧
    (s.setQueueReg p k n o v).ramps = s.ramps ∧
    (s.setQueueReg p k n o v).minvSeen = s.minvSeen ∧
    (s.setQueueReg p k n o v).tide = s.tide ∧
    (s.setQueueReg p k n o v).khz = s.khz ∧
    (s.setQueueReg p k n o v).deferred = s.deferred ∧
    (s.setQueueReg p k n o v).stepAt = s.stepAt ∧
    (s.setQueueReg p k n o v).lostPort = s.lostPort ∧
    (s.setQueueReg p k n o v).vlog = s.vlog ∧
    (s.setQueueReg p k n o v).refs = s.refs ∧
    (s.setQueueReg p k n o v).ptp = s.ptp ∧
    (s.setQueueReg p k n o v).sens = s.sens ∧
    (s.setQueueReg p k n o v).quench = s.quench ∧
    (s.setQueueReg p k n o v).tray = s.tray ∧
    (s.setQueueReg p k n o v).boot = s.boot ∧
    (s.setQueueReg p k n o v).flash = s.flash ∧
    (s.setQueueReg p k n o v).sites = s.sites ∧
    (s.setQueueReg p k n o v).planDue = s.planDue ∧
    (s.setQueueReg p k n o v).planAt = s.planAt ∧
    (s.setQueueReg p k n o v).aging = s.aging ∧
    (s.setQueueReg p k n o v).heats = s.heats ∧
    (s.setQueueReg p k n o v).retires = s.retires ∧
    (s.setQueueReg p k n o v).charges = s.charges ∧
    (s.setQueueReg p k n o v).fixes = s.fixes ∧
    (s.setQueueReg p k n o v).beats = s.beats ∧
    (s.setQueueReg p k n o v).out = s.out ∧
    (s.setQueueReg p k n o v).lastRead = s.lastRead :=
  ⟨rfl, rfl, rfl, rfl, rfl, rfl, rfl, rfl, rfl, rfl, rfl, rfl, rfl, rfl, rfl, rfl, rfl, rfl, rfl, rfl, rfl, rfl, rfl, rfl, rfl, rfl, rfl, rfl, rfl, rfl, rfl, rfl, rfl, rfl, rfl, rfl, rfl, rfl, rfl, rfl, rfl, rfl, rfl, rfl, rfl, rfl, rfl, rfl, rfl, rfl, rfl, rfl, rfl, rfl, rfl, rfl, rfl, rfl, rfl, rfl, rfl, rfl, rfl, rfl, rfl, rfl, rfl, rfl, rfl, rfl, rfl, rfl, rfl, rfl, rfl, rfl, rfl, rfl, rfl, rfl, rfl, rfl, rfl, rfl, rfl, rfl, rfl, rfl, rfl, rfl⟩

@[simp] theorem State.send_fields (s : State) (m) :
    (s.send m).pending = s.pending ∧
    (s.send m).now = s.now ∧
    (s.send m).up = s.up ∧
    (s.send m).sub = s.sub ∧
    (s.send m).fresh = s.fresh ∧
    (s.send m).regs = s.regs ∧
    (s.send m).wins = s.wins ∧
    (s.send m).guards = s.guards ∧
    (s.send m).shadows = s.shadows ∧
    (s.send m).mbxs = s.mbxs ∧
    (s.send m).tapSets = s.tapSets ∧
    (s.send m).tap = s.tap ∧
    (s.send m).sealRun = s.sealRun ∧
    (s.send m).timeSet = s.timeSet ∧
    (s.send m).pool = s.pool ∧
    (s.send m).peat = s.peat ∧
    (s.send m).mire = s.mire ∧
    (s.send m).host = s.host ∧
    (s.send m).poolBad = s.poolBad ∧
    (s.send m).peatBad = s.peatBad ∧
    (s.send m).mireBad = s.mireBad ∧
    (s.send m).tasks = s.tasks ∧
    (s.send m).crus = s.crus ∧
    (s.send m).gates = s.gates ∧
    (s.send m).slots = s.slots ∧
    (s.send m).probes = s.probes ∧
    (s.send m).rx = s.rx ∧
    (s.send m).slotMap = s.slotMap ∧
    (s.send m).routes = s.routes ∧
    (s.send m).rimEpoch = s.rimEpoch ∧
    (s.send m).genTab = s.genTab ∧
    (s.send m).net = s.net ∧
    (s.send m).arrivals = s.arrivals ∧
    (s.send m).ports = s.ports ∧
    (s.send m).laneTx = s.laneTx ∧
    (s.send m).dieFence = s.dieFence ∧
    (s.send m).pgQueue = s.pgQueue ∧
    (s.send m).movers = s.movers ∧
    (s.send m).pgPushed = s.pgPushed ∧
    (s.send m).banks = s.banks ∧
    (s.send m).scrubs = s.scrubs ∧
    (s.send m).streams = s.streams ∧
    (s.send m).beds = s.beds ∧
    (s.send m).places = s.places ∧
    (s.send m).wmoves = s.wmoves ∧
    (s.send m).rplaces = s.rplaces ∧
    (s.send m).handRx = s.handRx ∧
    (s.send m).nextTag = s.nextTag ∧
    (s.send m).kvAreas = s.kvAreas ∧
    (s.send m).castRun = s.castRun ∧
    (s.send m).casting = s.casting ∧
    (s.send m).pours = s.pours ∧
    (s.send m).cmds = s.cmds ∧
    (s.send m).queues = s.queues ∧
    (s.send m).egress = s.egress ∧
    (s.send m).fns = s.fns ∧
    (s.send m).reports = s.reports ∧
    (s.send m).mon = s.mon ∧
    (s.send m).monTap = s.monTap ∧
    (s.send m).evRing = s.evRing ∧
    (s.send m).sec = s.sec ∧
    (s.send m).spdm = s.spdm ∧
    (s.send m).eid = s.eid ∧
    (s.send m).evWay = s.evWay ∧
    (s.send m).evRate = s.evRate ∧
    (s.send m).ramps = s.ramps ∧
    (s.send m).minvSeen = s.minvSeen ∧
    (s.send m).tide = s.tide ∧
    (s.send m).khz = s.khz ∧
    (s.send m).deferred = s.deferred ∧
    (s.send m).stepAt = s.stepAt ∧
    (s.send m).lostPort = s.lostPort ∧
    (s.send m).vlog = s.vlog ∧
    (s.send m).refs = s.refs ∧
    (s.send m).ptp = s.ptp ∧
    (s.send m).sens = s.sens ∧
    (s.send m).quench = s.quench ∧
    (s.send m).tray = s.tray ∧
    (s.send m).boot = s.boot ∧
    (s.send m).flash = s.flash ∧
    (s.send m).sites = s.sites ∧
    (s.send m).planDue = s.planDue ∧
    (s.send m).planAt = s.planAt ∧
    (s.send m).aging = s.aging ∧
    (s.send m).heats = s.heats ∧
    (s.send m).retires = s.retires ∧
    (s.send m).charges = s.charges ∧
    (s.send m).fixes = s.fixes ∧
    (s.send m).beats = s.beats ∧
    (s.send m).lastRead = s.lastRead :=
  ⟨rfl, rfl, rfl, rfl, rfl, rfl, rfl, rfl, rfl, rfl, rfl, rfl, rfl, rfl, rfl, rfl, rfl, rfl, rfl, rfl, rfl, rfl, rfl, rfl, rfl, rfl, rfl, rfl, rfl, rfl, rfl, rfl, rfl, rfl, rfl, rfl, rfl, rfl, rfl, rfl, rfl, rfl, rfl, rfl, rfl, rfl, rfl, rfl, rfl, rfl, rfl, rfl, rfl, rfl, rfl, rfl, rfl, rfl, rfl, rfl, rfl, rfl, rfl, rfl, rfl, rfl, rfl, rfl, rfl, rfl, rfl, rfl, rfl, rfl, rfl, rfl, rfl, rfl, rfl, rfl, rfl, rfl, rfl, rfl, rfl, rfl, rfl, rfl, rfl, rfl⟩

@[simp] theorem State.msix_fields (s : State) (p v) :
    (s.msix p v).pending = s.pending ∧
    (s.msix p v).now = s.now ∧
    (s.msix p v).up = s.up ∧
    (s.msix p v).sub = s.sub ∧
    (s.msix p v).fresh = s.fresh ∧
    (s.msix p v).wins = s.wins ∧
    (s.msix p v).guards = s.guards ∧
    (s.msix p v).shadows = s.shadows ∧
    (s.msix p v).mbxs = s.mbxs ∧
    (s.msix p v).tapSets = s.tapSets ∧
    (s.msix p v).tap = s.tap ∧
    (s.msix p v).sealRun = s.sealRun ∧
    (s.msix p v).timeSet = s.timeSet ∧
    (s.msix p v).pool = s.pool ∧
    (s.msix p v).peat = s.peat ∧
    (s.msix p v).mire = s.mire ∧
    (s.msix p v).host = s.host ∧
    (s.msix p v).poolBad = s.poolBad ∧
    (s.msix p v).peatBad = s.peatBad ∧
    (s.msix p v).mireBad = s.mireBad ∧
    (s.msix p v).tasks = s.tasks ∧
    (s.msix p v).crus = s.crus ∧
    (s.msix p v).gates = s.gates ∧
    (s.msix p v).slots = s.slots ∧
    (s.msix p v).probes = s.probes ∧
    (s.msix p v).rx = s.rx ∧
    (s.msix p v).slotMap = s.slotMap ∧
    (s.msix p v).routes = s.routes ∧
    (s.msix p v).rimEpoch = s.rimEpoch ∧
    (s.msix p v).genTab = s.genTab ∧
    (s.msix p v).net = s.net ∧
    (s.msix p v).arrivals = s.arrivals ∧
    (s.msix p v).ports = s.ports ∧
    (s.msix p v).laneTx = s.laneTx ∧
    (s.msix p v).dieFence = s.dieFence ∧
    (s.msix p v).pgQueue = s.pgQueue ∧
    (s.msix p v).movers = s.movers ∧
    (s.msix p v).pgPushed = s.pgPushed ∧
    (s.msix p v).banks = s.banks ∧
    (s.msix p v).scrubs = s.scrubs ∧
    (s.msix p v).streams = s.streams ∧
    (s.msix p v).beds = s.beds ∧
    (s.msix p v).places = s.places ∧
    (s.msix p v).wmoves = s.wmoves ∧
    (s.msix p v).rplaces = s.rplaces ∧
    (s.msix p v).handRx = s.handRx ∧
    (s.msix p v).nextTag = s.nextTag ∧
    (s.msix p v).kvAreas = s.kvAreas ∧
    (s.msix p v).castRun = s.castRun ∧
    (s.msix p v).casting = s.casting ∧
    (s.msix p v).pours = s.pours ∧
    (s.msix p v).cmds = s.cmds ∧
    (s.msix p v).queues = s.queues ∧
    (s.msix p v).egress = s.egress ∧
    (s.msix p v).reports = s.reports ∧
    (s.msix p v).mon = s.mon ∧
    (s.msix p v).monTap = s.monTap ∧
    (s.msix p v).evRing = s.evRing ∧
    (s.msix p v).sec = s.sec ∧
    (s.msix p v).spdm = s.spdm ∧
    (s.msix p v).eid = s.eid ∧
    (s.msix p v).evWay = s.evWay ∧
    (s.msix p v).evRate = s.evRate ∧
    (s.msix p v).ramps = s.ramps ∧
    (s.msix p v).minvSeen = s.minvSeen ∧
    (s.msix p v).tide = s.tide ∧
    (s.msix p v).khz = s.khz ∧
    (s.msix p v).deferred = s.deferred ∧
    (s.msix p v).stepAt = s.stepAt ∧
    (s.msix p v).lostPort = s.lostPort ∧
    (s.msix p v).vlog = s.vlog ∧
    (s.msix p v).refs = s.refs ∧
    (s.msix p v).ptp = s.ptp ∧
    (s.msix p v).sens = s.sens ∧
    (s.msix p v).quench = s.quench ∧
    (s.msix p v).tray = s.tray ∧
    (s.msix p v).boot = s.boot ∧
    (s.msix p v).flash = s.flash ∧
    (s.msix p v).sites = s.sites ∧
    (s.msix p v).planDue = s.planDue ∧
    (s.msix p v).planAt = s.planAt ∧
    (s.msix p v).aging = s.aging ∧
    (s.msix p v).heats = s.heats ∧
    (s.msix p v).retires = s.retires ∧
    (s.msix p v).charges = s.charges ∧
    (s.msix p v).fixes = s.fixes ∧
    (s.msix p v).beats = s.beats ∧
    (s.msix p v).lastRead = s.lastRead :=
  by
  unfold State.msix
  dsimp only
  split
  · simp only [and_self]
  · split
    · simp only [and_self]
    · exact ⟨rfl, rfl, rfl, rfl, rfl, rfl, rfl, rfl, rfl, rfl, rfl, rfl, rfl, rfl, rfl, rfl, rfl, rfl, rfl, rfl, rfl, rfl, rfl, rfl, rfl, rfl, rfl, rfl, rfl, rfl, rfl, rfl, rfl, rfl, rfl, rfl, rfl, rfl, rfl, rfl, rfl, rfl, rfl, rfl, rfl, rfl, rfl, rfl, rfl, rfl, rfl, rfl, rfl, rfl, rfl, rfl, rfl, rfl, rfl, rfl, rfl, rfl, rfl, rfl, rfl, rfl, rfl, rfl, rfl, rfl, rfl, rfl, rfl, rfl, rfl, rfl, rfl, rfl, rfl, rfl, rfl, rfl, rfl, rfl, rfl, rfl, rfl, rfl⟩

@[simp] theorem State.log_fields (s : State) (p c v d0 d1) :
    (s.log p c v d0 d1).pending = s.pending ∧
    (s.log p c v d0 d1).now = s.now ∧
    (s.log p c v d0 d1).up = s.up ∧
    (s.log p c v d0 d1).sub = s.sub ∧
    (s.log p c v d0 d1).fresh = s.fresh ∧
    (s.log p c v d0 d1).regs = s.regs ∧
    (s.log p c v d0 d1).wins = s.wins ∧
    (s.log p c v d0 d1).guards = s.guards ∧
    (s.log p c v d0 d1).shadows = s.shadows ∧
    (s.log p c v d0 d1).mbxs = s.mbxs ∧
    (s.log p c v d0 d1).tapSets = s.tapSets ∧
    (s.log p c v d0 d1).tap = s.tap ∧
    (s.log p c v d0 d1).sealRun = s.sealRun ∧
    (s.log p c v d0 d1).timeSet = s.timeSet ∧
    (s.log p c v d0 d1).pool = s.pool ∧
    (s.log p c v d0 d1).peat = s.peat ∧
    (s.log p c v d0 d1).mire = s.mire ∧
    (s.log p c v d0 d1).host = s.host ∧
    (s.log p c v d0 d1).poolBad = s.poolBad ∧
    (s.log p c v d0 d1).peatBad = s.peatBad ∧
    (s.log p c v d0 d1).mireBad = s.mireBad ∧
    (s.log p c v d0 d1).tasks = s.tasks ∧
    (s.log p c v d0 d1).crus = s.crus ∧
    (s.log p c v d0 d1).gates = s.gates ∧
    (s.log p c v d0 d1).slots = s.slots ∧
    (s.log p c v d0 d1).probes = s.probes ∧
    (s.log p c v d0 d1).rx = s.rx ∧
    (s.log p c v d0 d1).slotMap = s.slotMap ∧
    (s.log p c v d0 d1).routes = s.routes ∧
    (s.log p c v d0 d1).rimEpoch = s.rimEpoch ∧
    (s.log p c v d0 d1).genTab = s.genTab ∧
    (s.log p c v d0 d1).net = s.net ∧
    (s.log p c v d0 d1).arrivals = s.arrivals ∧
    (s.log p c v d0 d1).ports = s.ports ∧
    (s.log p c v d0 d1).laneTx = s.laneTx ∧
    (s.log p c v d0 d1).dieFence = s.dieFence ∧
    (s.log p c v d0 d1).pgQueue = s.pgQueue ∧
    (s.log p c v d0 d1).movers = s.movers ∧
    (s.log p c v d0 d1).pgPushed = s.pgPushed ∧
    (s.log p c v d0 d1).banks = s.banks ∧
    (s.log p c v d0 d1).scrubs = s.scrubs ∧
    (s.log p c v d0 d1).streams = s.streams ∧
    (s.log p c v d0 d1).beds = s.beds ∧
    (s.log p c v d0 d1).places = s.places ∧
    (s.log p c v d0 d1).wmoves = s.wmoves ∧
    (s.log p c v d0 d1).rplaces = s.rplaces ∧
    (s.log p c v d0 d1).handRx = s.handRx ∧
    (s.log p c v d0 d1).nextTag = s.nextTag ∧
    (s.log p c v d0 d1).kvAreas = s.kvAreas ∧
    (s.log p c v d0 d1).castRun = s.castRun ∧
    (s.log p c v d0 d1).casting = s.casting ∧
    (s.log p c v d0 d1).pours = s.pours ∧
    (s.log p c v d0 d1).cmds = s.cmds ∧
    (s.log p c v d0 d1).queues = s.queues ∧
    (s.log p c v d0 d1).egress = s.egress ∧
    (s.log p c v d0 d1).fns = s.fns ∧
    (s.log p c v d0 d1).reports = s.reports ∧
    (s.log p c v d0 d1).mon = s.mon ∧
    (s.log p c v d0 d1).monTap = s.monTap ∧
    (s.log p c v d0 d1).evRing = s.evRing ∧
    (s.log p c v d0 d1).sec = s.sec ∧
    (s.log p c v d0 d1).spdm = s.spdm ∧
    (s.log p c v d0 d1).eid = s.eid ∧
    (s.log p c v d0 d1).evRate = s.evRate ∧
    (s.log p c v d0 d1).ramps = s.ramps ∧
    (s.log p c v d0 d1).minvSeen = s.minvSeen ∧
    (s.log p c v d0 d1).tide = s.tide ∧
    (s.log p c v d0 d1).khz = s.khz ∧
    (s.log p c v d0 d1).deferred = s.deferred ∧
    (s.log p c v d0 d1).stepAt = s.stepAt ∧
    (s.log p c v d0 d1).lostPort = s.lostPort ∧
    (s.log p c v d0 d1).vlog = s.vlog ∧
    (s.log p c v d0 d1).refs = s.refs ∧
    (s.log p c v d0 d1).ptp = s.ptp ∧
    (s.log p c v d0 d1).sens = s.sens ∧
    (s.log p c v d0 d1).quench = s.quench ∧
    (s.log p c v d0 d1).tray = s.tray ∧
    (s.log p c v d0 d1).boot = s.boot ∧
    (s.log p c v d0 d1).flash = s.flash ∧
    (s.log p c v d0 d1).sites = s.sites ∧
    (s.log p c v d0 d1).planDue = s.planDue ∧
    (s.log p c v d0 d1).planAt = s.planAt ∧
    (s.log p c v d0 d1).aging = s.aging ∧
    (s.log p c v d0 d1).heats = s.heats ∧
    (s.log p c v d0 d1).retires = s.retires ∧
    (s.log p c v d0 d1).charges = s.charges ∧
    (s.log p c v d0 d1).fixes = s.fixes ∧
    (s.log p c v d0 d1).beats = s.beats ∧
    (s.log p c v d0 d1).out = s.out ∧
    (s.log p c v d0 d1).lastRead = s.lastRead :=
  ⟨rfl, rfl, rfl, rfl, rfl, rfl, rfl, rfl, rfl, rfl, rfl, rfl, rfl, rfl, rfl, rfl, rfl, rfl, rfl, rfl, rfl, rfl, rfl, rfl, rfl, rfl, rfl, rfl, rfl, rfl, rfl, rfl, rfl, rfl, rfl, rfl, rfl, rfl, rfl, rfl, rfl, rfl, rfl, rfl, rfl, rfl, rfl, rfl, rfl, rfl, rfl, rfl, rfl, rfl, rfl, rfl, rfl, rfl, rfl, rfl, rfl, rfl, rfl, rfl, rfl, rfl, rfl, rfl, rfl, rfl, rfl, rfl, rfl, rfl, rfl, rfl, rfl, rfl, rfl, rfl, rfl, rfl, rfl, rfl, rfl, rfl, rfl, rfl, rfl, rfl⟩

@[simp] theorem State.tickFresh_fields (s : State)  :
    (s.tickFresh).pending = s.pending ∧
    (s.tickFresh).now = s.now ∧
    (s.tickFresh).up = s.up ∧
    (s.tickFresh).sub = s.sub ∧
    (s.tickFresh).regs = s.regs ∧
    (s.tickFresh).wins = s.wins ∧
    (s.tickFresh).guards = s.guards ∧
    (s.tickFresh).shadows = s.shadows ∧
    (s.tickFresh).mbxs = s.mbxs ∧
    (s.tickFresh).tapSets = s.tapSets ∧
    (s.tickFresh).tap = s.tap ∧
    (s.tickFresh).sealRun = s.sealRun ∧
    (s.tickFresh).timeSet = s.timeSet ∧
    (s.tickFresh).pool = s.pool ∧
    (s.tickFresh).peat = s.peat ∧
    (s.tickFresh).mire = s.mire ∧
    (s.tickFresh).host = s.host ∧
    (s.tickFresh).poolBad = s.poolBad ∧
    (s.tickFresh).peatBad = s.peatBad ∧
    (s.tickFresh).mireBad = s.mireBad ∧
    (s.tickFresh).tasks = s.tasks ∧
    (s.tickFresh).crus = s.crus ∧
    (s.tickFresh).gates = s.gates ∧
    (s.tickFresh).slots = s.slots ∧
    (s.tickFresh).probes = s.probes ∧
    (s.tickFresh).rx = s.rx ∧
    (s.tickFresh).slotMap = s.slotMap ∧
    (s.tickFresh).routes = s.routes ∧
    (s.tickFresh).rimEpoch = s.rimEpoch ∧
    (s.tickFresh).genTab = s.genTab ∧
    (s.tickFresh).net = s.net ∧
    (s.tickFresh).arrivals = s.arrivals ∧
    (s.tickFresh).ports = s.ports ∧
    (s.tickFresh).laneTx = s.laneTx ∧
    (s.tickFresh).dieFence = s.dieFence ∧
    (s.tickFresh).pgQueue = s.pgQueue ∧
    (s.tickFresh).movers = s.movers ∧
    (s.tickFresh).pgPushed = s.pgPushed ∧
    (s.tickFresh).banks = s.banks ∧
    (s.tickFresh).scrubs = s.scrubs ∧
    (s.tickFresh).streams = s.streams ∧
    (s.tickFresh).beds = s.beds ∧
    (s.tickFresh).places = s.places ∧
    (s.tickFresh).wmoves = s.wmoves ∧
    (s.tickFresh).rplaces = s.rplaces ∧
    (s.tickFresh).handRx = s.handRx ∧
    (s.tickFresh).nextTag = s.nextTag ∧
    (s.tickFresh).kvAreas = s.kvAreas ∧
    (s.tickFresh).castRun = s.castRun ∧
    (s.tickFresh).casting = s.casting ∧
    (s.tickFresh).pours = s.pours ∧
    (s.tickFresh).cmds = s.cmds ∧
    (s.tickFresh).queues = s.queues ∧
    (s.tickFresh).egress = s.egress ∧
    (s.tickFresh).fns = s.fns ∧
    (s.tickFresh).reports = s.reports ∧
    (s.tickFresh).mon = s.mon ∧
    (s.tickFresh).monTap = s.monTap ∧
    (s.tickFresh).evRing = s.evRing ∧
    (s.tickFresh).sec = s.sec ∧
    (s.tickFresh).spdm = s.spdm ∧
    (s.tickFresh).eid = s.eid ∧
    (s.tickFresh).evWay = s.evWay ∧
    (s.tickFresh).evRate = s.evRate ∧
    (s.tickFresh).ramps = s.ramps ∧
    (s.tickFresh).minvSeen = s.minvSeen ∧
    (s.tickFresh).tide = s.tide ∧
    (s.tickFresh).khz = s.khz ∧
    (s.tickFresh).deferred = s.deferred ∧
    (s.tickFresh).stepAt = s.stepAt ∧
    (s.tickFresh).lostPort = s.lostPort ∧
    (s.tickFresh).vlog = s.vlog ∧
    (s.tickFresh).refs = s.refs ∧
    (s.tickFresh).ptp = s.ptp ∧
    (s.tickFresh).sens = s.sens ∧
    (s.tickFresh).quench = s.quench ∧
    (s.tickFresh).tray = s.tray ∧
    (s.tickFresh).boot = s.boot ∧
    (s.tickFresh).flash = s.flash ∧
    (s.tickFresh).sites = s.sites ∧
    (s.tickFresh).planDue = s.planDue ∧
    (s.tickFresh).planAt = s.planAt ∧
    (s.tickFresh).aging = s.aging ∧
    (s.tickFresh).heats = s.heats ∧
    (s.tickFresh).retires = s.retires ∧
    (s.tickFresh).charges = s.charges ∧
    (s.tickFresh).fixes = s.fixes ∧
    (s.tickFresh).beats = s.beats ∧
    (s.tickFresh).out = s.out ∧
    (s.tickFresh).lastRead = s.lastRead :=
  ⟨rfl, rfl, rfl, rfl, rfl, rfl, rfl, rfl, rfl, rfl, rfl, rfl, rfl, rfl, rfl, rfl, rfl, rfl, rfl, rfl, rfl, rfl, rfl, rfl, rfl, rfl, rfl, rfl, rfl, rfl, rfl, rfl, rfl, rfl, rfl, rfl, rfl, rfl, rfl, rfl, rfl, rfl, rfl, rfl, rfl, rfl, rfl, rfl, rfl, rfl, rfl, rfl, rfl, rfl, rfl, rfl, rfl, rfl, rfl, rfl, rfl, rfl, rfl, rfl, rfl, rfl, rfl, rfl, rfl, rfl, rfl, rfl, rfl, rfl, rfl, rfl, rfl, rfl, rfl, rfl, rfl, rfl, rfl, rfl, rfl, rfl, rfl, rfl, rfl, rfl⟩

@[simp] theorem State.setTask_fields (s : State) (i k n t) :
    (s.setTask i k n t).pending = s.pending ∧
    (s.setTask i k n t).now = s.now ∧
    (s.setTask i k n t).up = s.up ∧
    (s.setTask i k n t).sub = s.sub ∧
    (s.setTask i k n t).fresh = s.fresh ∧
    (s.setTask i k n t).regs = s.regs ∧
    (s.setTask i k n t).wins = s.wins ∧
    (s.setTask i k n t).guards = s.guards ∧
    (s.setTask i k n t).shadows = s.shadows ∧
    (s.setTask i k n t).mbxs = s.mbxs ∧
    (s.setTask i k n t).tapSets = s.tapSets ∧
    (s.setTask i k n t).tap = s.tap ∧
    (s.setTask i k n t).sealRun = s.sealRun ∧
    (s.setTask i k n t).timeSet = s.timeSet ∧
    (s.setTask i k n t).pool = s.pool ∧
    (s.setTask i k n t).peat = s.peat ∧
    (s.setTask i k n t).mire = s.mire ∧
    (s.setTask i k n t).host = s.host ∧
    (s.setTask i k n t).poolBad = s.poolBad ∧
    (s.setTask i k n t).peatBad = s.peatBad ∧
    (s.setTask i k n t).mireBad = s.mireBad ∧
    (s.setTask i k n t).crus = s.crus ∧
    (s.setTask i k n t).gates = s.gates ∧
    (s.setTask i k n t).slots = s.slots ∧
    (s.setTask i k n t).probes = s.probes ∧
    (s.setTask i k n t).rx = s.rx ∧
    (s.setTask i k n t).slotMap = s.slotMap ∧
    (s.setTask i k n t).routes = s.routes ∧
    (s.setTask i k n t).rimEpoch = s.rimEpoch ∧
    (s.setTask i k n t).genTab = s.genTab ∧
    (s.setTask i k n t).net = s.net ∧
    (s.setTask i k n t).arrivals = s.arrivals ∧
    (s.setTask i k n t).ports = s.ports ∧
    (s.setTask i k n t).laneTx = s.laneTx ∧
    (s.setTask i k n t).dieFence = s.dieFence ∧
    (s.setTask i k n t).pgQueue = s.pgQueue ∧
    (s.setTask i k n t).movers = s.movers ∧
    (s.setTask i k n t).pgPushed = s.pgPushed ∧
    (s.setTask i k n t).banks = s.banks ∧
    (s.setTask i k n t).scrubs = s.scrubs ∧
    (s.setTask i k n t).streams = s.streams ∧
    (s.setTask i k n t).beds = s.beds ∧
    (s.setTask i k n t).places = s.places ∧
    (s.setTask i k n t).wmoves = s.wmoves ∧
    (s.setTask i k n t).rplaces = s.rplaces ∧
    (s.setTask i k n t).handRx = s.handRx ∧
    (s.setTask i k n t).nextTag = s.nextTag ∧
    (s.setTask i k n t).kvAreas = s.kvAreas ∧
    (s.setTask i k n t).castRun = s.castRun ∧
    (s.setTask i k n t).casting = s.casting ∧
    (s.setTask i k n t).pours = s.pours ∧
    (s.setTask i k n t).cmds = s.cmds ∧
    (s.setTask i k n t).queues = s.queues ∧
    (s.setTask i k n t).egress = s.egress ∧
    (s.setTask i k n t).fns = s.fns ∧
    (s.setTask i k n t).reports = s.reports ∧
    (s.setTask i k n t).mon = s.mon ∧
    (s.setTask i k n t).monTap = s.monTap ∧
    (s.setTask i k n t).evRing = s.evRing ∧
    (s.setTask i k n t).sec = s.sec ∧
    (s.setTask i k n t).spdm = s.spdm ∧
    (s.setTask i k n t).eid = s.eid ∧
    (s.setTask i k n t).evWay = s.evWay ∧
    (s.setTask i k n t).evRate = s.evRate ∧
    (s.setTask i k n t).ramps = s.ramps ∧
    (s.setTask i k n t).minvSeen = s.minvSeen ∧
    (s.setTask i k n t).tide = s.tide ∧
    (s.setTask i k n t).khz = s.khz ∧
    (s.setTask i k n t).deferred = s.deferred ∧
    (s.setTask i k n t).stepAt = s.stepAt ∧
    (s.setTask i k n t).lostPort = s.lostPort ∧
    (s.setTask i k n t).vlog = s.vlog ∧
    (s.setTask i k n t).refs = s.refs ∧
    (s.setTask i k n t).ptp = s.ptp ∧
    (s.setTask i k n t).sens = s.sens ∧
    (s.setTask i k n t).quench = s.quench ∧
    (s.setTask i k n t).tray = s.tray ∧
    (s.setTask i k n t).boot = s.boot ∧
    (s.setTask i k n t).flash = s.flash ∧
    (s.setTask i k n t).sites = s.sites ∧
    (s.setTask i k n t).planDue = s.planDue ∧
    (s.setTask i k n t).planAt = s.planAt ∧
    (s.setTask i k n t).aging = s.aging ∧
    (s.setTask i k n t).heats = s.heats ∧
    (s.setTask i k n t).retires = s.retires ∧
    (s.setTask i k n t).charges = s.charges ∧
    (s.setTask i k n t).fixes = s.fixes ∧
    (s.setTask i k n t).beats = s.beats ∧
    (s.setTask i k n t).out = s.out ∧
    (s.setTask i k n t).lastRead = s.lastRead :=
  ⟨rfl, rfl, rfl, rfl, rfl, rfl, rfl, rfl, rfl, rfl, rfl, rfl, rfl, rfl, rfl, rfl, rfl, rfl, rfl, rfl, rfl, rfl, rfl, rfl, rfl, rfl, rfl, rfl, rfl, rfl, rfl, rfl, rfl, rfl, rfl, rfl, rfl, rfl, rfl, rfl, rfl, rfl, rfl, rfl, rfl, rfl, rfl, rfl, rfl, rfl, rfl, rfl, rfl, rfl, rfl, rfl, rfl, rfl, rfl, rfl, rfl, rfl, rfl, rfl, rfl, rfl, rfl, rfl, rfl, rfl, rfl, rfl, rfl, rfl, rfl, rfl, rfl, rfl, rfl, rfl, rfl, rfl, rfl, rfl, rfl, rfl, rfl, rfl, rfl, rfl⟩

@[simp] theorem State.setCru_fields (s : State) (i k c) :
    (s.setCru i k c).pending = s.pending ∧
    (s.setCru i k c).now = s.now ∧
    (s.setCru i k c).up = s.up ∧
    (s.setCru i k c).sub = s.sub ∧
    (s.setCru i k c).fresh = s.fresh ∧
    (s.setCru i k c).regs = s.regs ∧
    (s.setCru i k c).wins = s.wins ∧
    (s.setCru i k c).guards = s.guards ∧
    (s.setCru i k c).shadows = s.shadows ∧
    (s.setCru i k c).mbxs = s.mbxs ∧
    (s.setCru i k c).tapSets = s.tapSets ∧
    (s.setCru i k c).tap = s.tap ∧
    (s.setCru i k c).sealRun = s.sealRun ∧
    (s.setCru i k c).timeSet = s.timeSet ∧
    (s.setCru i k c).pool = s.pool ∧
    (s.setCru i k c).peat = s.peat ∧
    (s.setCru i k c).mire = s.mire ∧
    (s.setCru i k c).host = s.host ∧
    (s.setCru i k c).poolBad = s.poolBad ∧
    (s.setCru i k c).peatBad = s.peatBad ∧
    (s.setCru i k c).mireBad = s.mireBad ∧
    (s.setCru i k c).tasks = s.tasks ∧
    (s.setCru i k c).gates = s.gates ∧
    (s.setCru i k c).slots = s.slots ∧
    (s.setCru i k c).probes = s.probes ∧
    (s.setCru i k c).rx = s.rx ∧
    (s.setCru i k c).slotMap = s.slotMap ∧
    (s.setCru i k c).routes = s.routes ∧
    (s.setCru i k c).rimEpoch = s.rimEpoch ∧
    (s.setCru i k c).genTab = s.genTab ∧
    (s.setCru i k c).net = s.net ∧
    (s.setCru i k c).arrivals = s.arrivals ∧
    (s.setCru i k c).ports = s.ports ∧
    (s.setCru i k c).laneTx = s.laneTx ∧
    (s.setCru i k c).dieFence = s.dieFence ∧
    (s.setCru i k c).pgQueue = s.pgQueue ∧
    (s.setCru i k c).movers = s.movers ∧
    (s.setCru i k c).pgPushed = s.pgPushed ∧
    (s.setCru i k c).banks = s.banks ∧
    (s.setCru i k c).scrubs = s.scrubs ∧
    (s.setCru i k c).streams = s.streams ∧
    (s.setCru i k c).beds = s.beds ∧
    (s.setCru i k c).places = s.places ∧
    (s.setCru i k c).wmoves = s.wmoves ∧
    (s.setCru i k c).rplaces = s.rplaces ∧
    (s.setCru i k c).handRx = s.handRx ∧
    (s.setCru i k c).nextTag = s.nextTag ∧
    (s.setCru i k c).kvAreas = s.kvAreas ∧
    (s.setCru i k c).castRun = s.castRun ∧
    (s.setCru i k c).casting = s.casting ∧
    (s.setCru i k c).pours = s.pours ∧
    (s.setCru i k c).cmds = s.cmds ∧
    (s.setCru i k c).queues = s.queues ∧
    (s.setCru i k c).egress = s.egress ∧
    (s.setCru i k c).fns = s.fns ∧
    (s.setCru i k c).reports = s.reports ∧
    (s.setCru i k c).mon = s.mon ∧
    (s.setCru i k c).monTap = s.monTap ∧
    (s.setCru i k c).evRing = s.evRing ∧
    (s.setCru i k c).sec = s.sec ∧
    (s.setCru i k c).spdm = s.spdm ∧
    (s.setCru i k c).eid = s.eid ∧
    (s.setCru i k c).evWay = s.evWay ∧
    (s.setCru i k c).evRate = s.evRate ∧
    (s.setCru i k c).ramps = s.ramps ∧
    (s.setCru i k c).minvSeen = s.minvSeen ∧
    (s.setCru i k c).tide = s.tide ∧
    (s.setCru i k c).khz = s.khz ∧
    (s.setCru i k c).deferred = s.deferred ∧
    (s.setCru i k c).stepAt = s.stepAt ∧
    (s.setCru i k c).lostPort = s.lostPort ∧
    (s.setCru i k c).vlog = s.vlog ∧
    (s.setCru i k c).refs = s.refs ∧
    (s.setCru i k c).ptp = s.ptp ∧
    (s.setCru i k c).sens = s.sens ∧
    (s.setCru i k c).quench = s.quench ∧
    (s.setCru i k c).tray = s.tray ∧
    (s.setCru i k c).boot = s.boot ∧
    (s.setCru i k c).flash = s.flash ∧
    (s.setCru i k c).sites = s.sites ∧
    (s.setCru i k c).planDue = s.planDue ∧
    (s.setCru i k c).planAt = s.planAt ∧
    (s.setCru i k c).aging = s.aging ∧
    (s.setCru i k c).heats = s.heats ∧
    (s.setCru i k c).retires = s.retires ∧
    (s.setCru i k c).charges = s.charges ∧
    (s.setCru i k c).fixes = s.fixes ∧
    (s.setCru i k c).beats = s.beats ∧
    (s.setCru i k c).out = s.out ∧
    (s.setCru i k c).lastRead = s.lastRead :=
  ⟨rfl, rfl, rfl, rfl, rfl, rfl, rfl, rfl, rfl, rfl, rfl, rfl, rfl, rfl, rfl, rfl, rfl, rfl, rfl, rfl, rfl, rfl, rfl, rfl, rfl, rfl, rfl, rfl, rfl, rfl, rfl, rfl, rfl, rfl, rfl, rfl, rfl, rfl, rfl, rfl, rfl, rfl, rfl, rfl, rfl, rfl, rfl, rfl, rfl, rfl, rfl, rfl, rfl, rfl, rfl, rfl, rfl, rfl, rfl, rfl, rfl, rfl, rfl, rfl, rfl, rfl, rfl, rfl, rfl, rfl, rfl, rfl, rfl, rfl, rfl, rfl, rfl, rfl, rfl, rfl, rfl, rfl, rfl, rfl, rfl, rfl, rfl, rfl, rfl, rfl⟩

@[simp] theorem State.writePool_fields (s : State) (i k o b) :
    (s.writePool i k o b).pending = s.pending ∧
    (s.writePool i k o b).now = s.now ∧
    (s.writePool i k o b).up = s.up ∧
    (s.writePool i k o b).sub = s.sub ∧
    (s.writePool i k o b).fresh = s.fresh ∧
    (s.writePool i k o b).regs = s.regs ∧
    (s.writePool i k o b).wins = s.wins ∧
    (s.writePool i k o b).guards = s.guards ∧
    (s.writePool i k o b).shadows = s.shadows ∧
    (s.writePool i k o b).mbxs = s.mbxs ∧
    (s.writePool i k o b).tapSets = s.tapSets ∧
    (s.writePool i k o b).tap = s.tap ∧
    (s.writePool i k o b).sealRun = s.sealRun ∧
    (s.writePool i k o b).timeSet = s.timeSet ∧
    (s.writePool i k o b).peat = s.peat ∧
    (s.writePool i k o b).mire = s.mire ∧
    (s.writePool i k o b).host = s.host ∧
    (s.writePool i k o b).peatBad = s.peatBad ∧
    (s.writePool i k o b).mireBad = s.mireBad ∧
    (s.writePool i k o b).tasks = s.tasks ∧
    (s.writePool i k o b).crus = s.crus ∧
    (s.writePool i k o b).gates = s.gates ∧
    (s.writePool i k o b).slots = s.slots ∧
    (s.writePool i k o b).probes = s.probes ∧
    (s.writePool i k o b).rx = s.rx ∧
    (s.writePool i k o b).slotMap = s.slotMap ∧
    (s.writePool i k o b).routes = s.routes ∧
    (s.writePool i k o b).rimEpoch = s.rimEpoch ∧
    (s.writePool i k o b).genTab = s.genTab ∧
    (s.writePool i k o b).net = s.net ∧
    (s.writePool i k o b).arrivals = s.arrivals ∧
    (s.writePool i k o b).ports = s.ports ∧
    (s.writePool i k o b).laneTx = s.laneTx ∧
    (s.writePool i k o b).dieFence = s.dieFence ∧
    (s.writePool i k o b).pgQueue = s.pgQueue ∧
    (s.writePool i k o b).movers = s.movers ∧
    (s.writePool i k o b).pgPushed = s.pgPushed ∧
    (s.writePool i k o b).banks = s.banks ∧
    (s.writePool i k o b).scrubs = s.scrubs ∧
    (s.writePool i k o b).streams = s.streams ∧
    (s.writePool i k o b).beds = s.beds ∧
    (s.writePool i k o b).places = s.places ∧
    (s.writePool i k o b).wmoves = s.wmoves ∧
    (s.writePool i k o b).rplaces = s.rplaces ∧
    (s.writePool i k o b).handRx = s.handRx ∧
    (s.writePool i k o b).nextTag = s.nextTag ∧
    (s.writePool i k o b).kvAreas = s.kvAreas ∧
    (s.writePool i k o b).castRun = s.castRun ∧
    (s.writePool i k o b).casting = s.casting ∧
    (s.writePool i k o b).pours = s.pours ∧
    (s.writePool i k o b).cmds = s.cmds ∧
    (s.writePool i k o b).queues = s.queues ∧
    (s.writePool i k o b).egress = s.egress ∧
    (s.writePool i k o b).fns = s.fns ∧
    (s.writePool i k o b).reports = s.reports ∧
    (s.writePool i k o b).mon = s.mon ∧
    (s.writePool i k o b).monTap = s.monTap ∧
    (s.writePool i k o b).evRing = s.evRing ∧
    (s.writePool i k o b).sec = s.sec ∧
    (s.writePool i k o b).spdm = s.spdm ∧
    (s.writePool i k o b).eid = s.eid ∧
    (s.writePool i k o b).evWay = s.evWay ∧
    (s.writePool i k o b).evRate = s.evRate ∧
    (s.writePool i k o b).ramps = s.ramps ∧
    (s.writePool i k o b).minvSeen = s.minvSeen ∧
    (s.writePool i k o b).tide = s.tide ∧
    (s.writePool i k o b).khz = s.khz ∧
    (s.writePool i k o b).deferred = s.deferred ∧
    (s.writePool i k o b).stepAt = s.stepAt ∧
    (s.writePool i k o b).lostPort = s.lostPort ∧
    (s.writePool i k o b).vlog = s.vlog ∧
    (s.writePool i k o b).refs = s.refs ∧
    (s.writePool i k o b).ptp = s.ptp ∧
    (s.writePool i k o b).sens = s.sens ∧
    (s.writePool i k o b).quench = s.quench ∧
    (s.writePool i k o b).tray = s.tray ∧
    (s.writePool i k o b).boot = s.boot ∧
    (s.writePool i k o b).flash = s.flash ∧
    (s.writePool i k o b).sites = s.sites ∧
    (s.writePool i k o b).planDue = s.planDue ∧
    (s.writePool i k o b).planAt = s.planAt ∧
    (s.writePool i k o b).aging = s.aging ∧
    (s.writePool i k o b).heats = s.heats ∧
    (s.writePool i k o b).retires = s.retires ∧
    (s.writePool i k o b).charges = s.charges ∧
    (s.writePool i k o b).fixes = s.fixes ∧
    (s.writePool i k o b).beats = s.beats ∧
    (s.writePool i k o b).out = s.out ∧
    (s.writePool i k o b).lastRead = s.lastRead :=
  ⟨rfl, rfl, rfl, rfl, rfl, rfl, rfl, rfl, rfl, rfl, rfl, rfl, rfl, rfl, rfl, rfl, rfl, rfl, rfl, rfl, rfl, rfl, rfl, rfl, rfl, rfl, rfl, rfl, rfl, rfl, rfl, rfl, rfl, rfl, rfl, rfl, rfl, rfl, rfl, rfl, rfl, rfl, rfl, rfl, rfl, rfl, rfl, rfl, rfl, rfl, rfl, rfl, rfl, rfl, rfl, rfl, rfl, rfl, rfl, rfl, rfl, rfl, rfl, rfl, rfl, rfl, rfl, rfl, rfl, rfl, rfl, rfl, rfl, rfl, rfl, rfl, rfl, rfl, rfl, rfl, rfl, rfl, rfl, rfl, rfl, rfl, rfl, rfl, rfl⟩

@[simp] theorem State.writeMire_fields (s : State) (a b) :
    (s.writeMire a b).pending = s.pending ∧
    (s.writeMire a b).now = s.now ∧
    (s.writeMire a b).up = s.up ∧
    (s.writeMire a b).sub = s.sub ∧
    (s.writeMire a b).fresh = s.fresh ∧
    (s.writeMire a b).regs = s.regs ∧
    (s.writeMire a b).wins = s.wins ∧
    (s.writeMire a b).guards = s.guards ∧
    (s.writeMire a b).shadows = s.shadows ∧
    (s.writeMire a b).mbxs = s.mbxs ∧
    (s.writeMire a b).tapSets = s.tapSets ∧
    (s.writeMire a b).tap = s.tap ∧
    (s.writeMire a b).sealRun = s.sealRun ∧
    (s.writeMire a b).timeSet = s.timeSet ∧
    (s.writeMire a b).pool = s.pool ∧
    (s.writeMire a b).peat = s.peat ∧
    (s.writeMire a b).host = s.host ∧
    (s.writeMire a b).poolBad = s.poolBad ∧
    (s.writeMire a b).peatBad = s.peatBad ∧
    (s.writeMire a b).tasks = s.tasks ∧
    (s.writeMire a b).crus = s.crus ∧
    (s.writeMire a b).gates = s.gates ∧
    (s.writeMire a b).slots = s.slots ∧
    (s.writeMire a b).probes = s.probes ∧
    (s.writeMire a b).rx = s.rx ∧
    (s.writeMire a b).slotMap = s.slotMap ∧
    (s.writeMire a b).routes = s.routes ∧
    (s.writeMire a b).rimEpoch = s.rimEpoch ∧
    (s.writeMire a b).genTab = s.genTab ∧
    (s.writeMire a b).net = s.net ∧
    (s.writeMire a b).arrivals = s.arrivals ∧
    (s.writeMire a b).ports = s.ports ∧
    (s.writeMire a b).laneTx = s.laneTx ∧
    (s.writeMire a b).dieFence = s.dieFence ∧
    (s.writeMire a b).pgQueue = s.pgQueue ∧
    (s.writeMire a b).movers = s.movers ∧
    (s.writeMire a b).pgPushed = s.pgPushed ∧
    (s.writeMire a b).banks = s.banks ∧
    (s.writeMire a b).scrubs = s.scrubs ∧
    (s.writeMire a b).streams = s.streams ∧
    (s.writeMire a b).beds = s.beds ∧
    (s.writeMire a b).places = s.places ∧
    (s.writeMire a b).wmoves = s.wmoves ∧
    (s.writeMire a b).rplaces = s.rplaces ∧
    (s.writeMire a b).handRx = s.handRx ∧
    (s.writeMire a b).nextTag = s.nextTag ∧
    (s.writeMire a b).kvAreas = s.kvAreas ∧
    (s.writeMire a b).castRun = s.castRun ∧
    (s.writeMire a b).casting = s.casting ∧
    (s.writeMire a b).pours = s.pours ∧
    (s.writeMire a b).cmds = s.cmds ∧
    (s.writeMire a b).queues = s.queues ∧
    (s.writeMire a b).egress = s.egress ∧
    (s.writeMire a b).fns = s.fns ∧
    (s.writeMire a b).reports = s.reports ∧
    (s.writeMire a b).mon = s.mon ∧
    (s.writeMire a b).monTap = s.monTap ∧
    (s.writeMire a b).evRing = s.evRing ∧
    (s.writeMire a b).sec = s.sec ∧
    (s.writeMire a b).spdm = s.spdm ∧
    (s.writeMire a b).eid = s.eid ∧
    (s.writeMire a b).evWay = s.evWay ∧
    (s.writeMire a b).evRate = s.evRate ∧
    (s.writeMire a b).ramps = s.ramps ∧
    (s.writeMire a b).minvSeen = s.minvSeen ∧
    (s.writeMire a b).tide = s.tide ∧
    (s.writeMire a b).khz = s.khz ∧
    (s.writeMire a b).deferred = s.deferred ∧
    (s.writeMire a b).stepAt = s.stepAt ∧
    (s.writeMire a b).lostPort = s.lostPort ∧
    (s.writeMire a b).vlog = s.vlog ∧
    (s.writeMire a b).refs = s.refs ∧
    (s.writeMire a b).ptp = s.ptp ∧
    (s.writeMire a b).sens = s.sens ∧
    (s.writeMire a b).quench = s.quench ∧
    (s.writeMire a b).tray = s.tray ∧
    (s.writeMire a b).boot = s.boot ∧
    (s.writeMire a b).flash = s.flash ∧
    (s.writeMire a b).sites = s.sites ∧
    (s.writeMire a b).planDue = s.planDue ∧
    (s.writeMire a b).planAt = s.planAt ∧
    (s.writeMire a b).aging = s.aging ∧
    (s.writeMire a b).heats = s.heats ∧
    (s.writeMire a b).retires = s.retires ∧
    (s.writeMire a b).charges = s.charges ∧
    (s.writeMire a b).fixes = s.fixes ∧
    (s.writeMire a b).beats = s.beats ∧
    (s.writeMire a b).out = s.out ∧
    (s.writeMire a b).lastRead = s.lastRead :=
  ⟨rfl, rfl, rfl, rfl, rfl, rfl, rfl, rfl, rfl, rfl, rfl, rfl, rfl, rfl, rfl, rfl, rfl, rfl, rfl, rfl, rfl, rfl, rfl, rfl, rfl, rfl, rfl, rfl, rfl, rfl, rfl, rfl, rfl, rfl, rfl, rfl, rfl, rfl, rfl, rfl, rfl, rfl, rfl, rfl, rfl, rfl, rfl, rfl, rfl, rfl, rfl, rfl, rfl, rfl, rfl, rfl, rfl, rfl, rfl, rfl, rfl, rfl, rfl, rfl, rfl, rfl, rfl, rfl, rfl, rfl, rfl, rfl, rfl, rfl, rfl, rfl, rfl, rfl, rfl, rfl, rfl, rfl, rfl, rfl, rfl, rfl, rfl, rfl, rfl⟩

@[simp] theorem State.writeHost_fields (s : State) (p a b) :
    (s.writeHost p a b).pending = s.pending ∧
    (s.writeHost p a b).now = s.now ∧
    (s.writeHost p a b).up = s.up ∧
    (s.writeHost p a b).sub = s.sub ∧
    (s.writeHost p a b).fresh = s.fresh ∧
    (s.writeHost p a b).regs = s.regs ∧
    (s.writeHost p a b).wins = s.wins ∧
    (s.writeHost p a b).guards = s.guards ∧
    (s.writeHost p a b).shadows = s.shadows ∧
    (s.writeHost p a b).mbxs = s.mbxs ∧
    (s.writeHost p a b).tapSets = s.tapSets ∧
    (s.writeHost p a b).tap = s.tap ∧
    (s.writeHost p a b).sealRun = s.sealRun ∧
    (s.writeHost p a b).timeSet = s.timeSet ∧
    (s.writeHost p a b).pool = s.pool ∧
    (s.writeHost p a b).peat = s.peat ∧
    (s.writeHost p a b).mire = s.mire ∧
    (s.writeHost p a b).poolBad = s.poolBad ∧
    (s.writeHost p a b).peatBad = s.peatBad ∧
    (s.writeHost p a b).mireBad = s.mireBad ∧
    (s.writeHost p a b).tasks = s.tasks ∧
    (s.writeHost p a b).crus = s.crus ∧
    (s.writeHost p a b).gates = s.gates ∧
    (s.writeHost p a b).slots = s.slots ∧
    (s.writeHost p a b).probes = s.probes ∧
    (s.writeHost p a b).rx = s.rx ∧
    (s.writeHost p a b).slotMap = s.slotMap ∧
    (s.writeHost p a b).routes = s.routes ∧
    (s.writeHost p a b).rimEpoch = s.rimEpoch ∧
    (s.writeHost p a b).genTab = s.genTab ∧
    (s.writeHost p a b).net = s.net ∧
    (s.writeHost p a b).arrivals = s.arrivals ∧
    (s.writeHost p a b).ports = s.ports ∧
    (s.writeHost p a b).laneTx = s.laneTx ∧
    (s.writeHost p a b).dieFence = s.dieFence ∧
    (s.writeHost p a b).pgQueue = s.pgQueue ∧
    (s.writeHost p a b).movers = s.movers ∧
    (s.writeHost p a b).pgPushed = s.pgPushed ∧
    (s.writeHost p a b).banks = s.banks ∧
    (s.writeHost p a b).scrubs = s.scrubs ∧
    (s.writeHost p a b).streams = s.streams ∧
    (s.writeHost p a b).beds = s.beds ∧
    (s.writeHost p a b).places = s.places ∧
    (s.writeHost p a b).wmoves = s.wmoves ∧
    (s.writeHost p a b).rplaces = s.rplaces ∧
    (s.writeHost p a b).handRx = s.handRx ∧
    (s.writeHost p a b).nextTag = s.nextTag ∧
    (s.writeHost p a b).kvAreas = s.kvAreas ∧
    (s.writeHost p a b).castRun = s.castRun ∧
    (s.writeHost p a b).casting = s.casting ∧
    (s.writeHost p a b).pours = s.pours ∧
    (s.writeHost p a b).cmds = s.cmds ∧
    (s.writeHost p a b).queues = s.queues ∧
    (s.writeHost p a b).egress = s.egress ∧
    (s.writeHost p a b).fns = s.fns ∧
    (s.writeHost p a b).reports = s.reports ∧
    (s.writeHost p a b).mon = s.mon ∧
    (s.writeHost p a b).monTap = s.monTap ∧
    (s.writeHost p a b).evRing = s.evRing ∧
    (s.writeHost p a b).sec = s.sec ∧
    (s.writeHost p a b).spdm = s.spdm ∧
    (s.writeHost p a b).eid = s.eid ∧
    (s.writeHost p a b).evWay = s.evWay ∧
    (s.writeHost p a b).evRate = s.evRate ∧
    (s.writeHost p a b).ramps = s.ramps ∧
    (s.writeHost p a b).minvSeen = s.minvSeen ∧
    (s.writeHost p a b).tide = s.tide ∧
    (s.writeHost p a b).khz = s.khz ∧
    (s.writeHost p a b).deferred = s.deferred ∧
    (s.writeHost p a b).stepAt = s.stepAt ∧
    (s.writeHost p a b).lostPort = s.lostPort ∧
    (s.writeHost p a b).vlog = s.vlog ∧
    (s.writeHost p a b).refs = s.refs ∧
    (s.writeHost p a b).ptp = s.ptp ∧
    (s.writeHost p a b).sens = s.sens ∧
    (s.writeHost p a b).quench = s.quench ∧
    (s.writeHost p a b).tray = s.tray ∧
    (s.writeHost p a b).boot = s.boot ∧
    (s.writeHost p a b).flash = s.flash ∧
    (s.writeHost p a b).sites = s.sites ∧
    (s.writeHost p a b).planDue = s.planDue ∧
    (s.writeHost p a b).planAt = s.planAt ∧
    (s.writeHost p a b).aging = s.aging ∧
    (s.writeHost p a b).heats = s.heats ∧
    (s.writeHost p a b).retires = s.retires ∧
    (s.writeHost p a b).charges = s.charges ∧
    (s.writeHost p a b).fixes = s.fixes ∧
    (s.writeHost p a b).beats = s.beats ∧
    (s.writeHost p a b).out = s.out ∧
    (s.writeHost p a b).lastRead = s.lastRead :=
  ⟨rfl, rfl, rfl, rfl, rfl, rfl, rfl, rfl, rfl, rfl, rfl, rfl, rfl, rfl, rfl, rfl, rfl, rfl, rfl, rfl, rfl, rfl, rfl, rfl, rfl, rfl, rfl, rfl, rfl, rfl, rfl, rfl, rfl, rfl, rfl, rfl, rfl, rfl, rfl, rfl, rfl, rfl, rfl, rfl, rfl, rfl, rfl, rfl, rfl, rfl, rfl, rfl, rfl, rfl, rfl, rfl, rfl, rfl, rfl, rfl, rfl, rfl, rfl, rfl, rfl, rfl, rfl, rfl, rfl, rfl, rfl, rfl, rfl, rfl, rfl, rfl, rfl, rfl, rfl, rfl, rfl, rfl, rfl, rfl, rfl, rfl, rfl, rfl, rfl, rfl⟩

end Sys2Proof.Machine
end

