-- ==== Sys2Proof/Laws/Issue.lean ====
section
/-! SUPPORT. The issue stage: an instruction that reaches its own checks, and what retiring leaves. -/
namespace Sys2Proof.Machine

/-! ### Frames -/

theorem Frame.trans {l : List Field} {r s t : State} (h : Frame l r s) (k : Frame l s t) : Frame l r t := by
  intro f hf
  have a := h f hf
  have b := k f hf
  cases f <;> exact Eq.trans b a

theorem Frame.mono {l m : List Field} {s t : State} (h : Frame l s t) (hm : Field.within l m = true) : Frame m s t := by
  intro f hf
  refine h f (fun c => hf ?_)
  have := List.all_eq_true.mp hm f c
  simpa using this

/-! ### Task contexts and crucibles -/

theorem taskKey_ne {q t : TaskRef} (h : q ≠ t) : taskKey t.tile t.cru t.task ≠ taskKey q.tile q.cru q.task := by
  obtain ⟨⟨a, ha⟩, ⟨b, hb⟩, ⟨c, hc⟩⟩ := q
  obtain ⟨⟨a', ha'⟩, ⟨b', hb'⟩, ⟨c', hc'⟩⟩ := t
  simp only [taskKey, ne_eq, TaskRef.mk.injEq, Fin.mk.injEq, not_and] at *
  omega

theorem cruKey_ne {i j : TileIx} {k l : CruIx} (h : (i, k) ≠ (j, l)) : cruKey j l ≠ cruKey i k := by
  obtain ⟨a, ha⟩ := i
  obtain ⟨b, hb⟩ := j
  obtain ⟨c, hc⟩ := k
  obtain ⟨d, hd⟩ := l
  simp only [cruKey, ne_eq, Prod.mk.injEq, Fin.mk.injEq, not_and] at *
  omega

theorem State.task_eq (s : State) (t : TaskRef) : s.task t.tile t.cru t.task = s.taskAt t := rfl

@[simp] theorem State.taskAt_setTask_same (s : State) (t : TaskRef) (x : Task) : (s.setTask t.tile t.cru t.task x).taskAt t = x := by
  simp [State.taskAt, State.task, State.setTask]

theorem TasksOutside.setTask (s : State) (t : TaskRef) (x : Task) : TasksOutside t s (s.setTask t.tile t.cru t.task x) := by
  intro q h
  unfold State.taskAt State.task State.setTask
  exact Store.get_set_other _ _ _ _ _ (taskKey_ne h)

theorem TasksOutside.of_tasks {t : TaskRef} {s u : State} (h : u.tasks = s.tasks) : TasksOutside t s u := by
  intro q _
  unfold State.taskAt State.task
  rw [h]

theorem State.taskAt_congr {s u : State} (h : u.tasks = s.tasks) (t : TaskRef) : u.taskAt t = s.taskAt t := by
  unfold State.taskAt State.task
  rw [h]

@[simp] theorem State.cru_setCru_same (s : State) (i k : Nat) (c : Crucible) : (s.setCru i k c).cru i k = c := by
  simp [State.cru, State.setCru]

theorem State.cru_congr {s u : State} (h : u.crus = s.crus) (i k : Nat) : u.cru i k = s.cru i k := by
  unfold State.cru
  rw [h]

theorem CrusOutside.setCru (s : State) (t : TaskRef) (c : Crucible) : CrusOutside t s (s.setCru t.tile t.cru c) := by
  intro i k h
  unfold State.cru State.setCru
  exact Store.get_set_other _ _ _ _ _ (cruKey_ne h)

theorem CrusOutside.of_crus {t : TaskRef} {s u : State} (h : u.crus = s.crus) : CrusOutside t s u :=
  fun i k _ => State.cru_congr h i k

theorem TasksOutside.trans {t : TaskRef} {r s u : State} (h : TasksOutside t r s) (k : TasksOutside t s u) : TasksOutside t r u :=
  fun q n => (k q n).trans (h q n)

theorem CrusOutside.trans {t : TaskRef} {r s u : State} (h : CrusOutside t r s) (k : CrusOutside t s u) : CrusOutside t r u :=
  fun i c n => (k i c n).trans (h i c n)

/-! ### Registers of a task -/

theorem Task.rs_setRs (x : Task) (rd : BitVec 5) (v : W32) (r : BitVec 5) :
    (x.setRs rd v).rs r = if r = rd ∧ rd ≠ 0 then v else x.rs r := by
  by_cases h0 : rd = 0
  · rw [if_neg (fun c => c.2 h0), Task.setRs, if_pos h0]
  · rw [Task.setRs, if_neg h0]
    by_cases hr : r = rd
    · rw [if_pos (And.intro hr h0), Task.rs, if_neg (hr ▸ h0), hr]
      exact Store.get_set_same ..
    · have : rd.toNat ≠ r.toNat := fun c => hr (BitVec.eq_of_toNat_eq c.symm)
      rw [if_neg (fun c => hr c.1), Task.rs, Task.rs]
      dsimp only
      rw [Store.get_set_other _ _ _ _ _ this]

theorem Task.rp_setRp (x : Task) (rd : BitVec 3) (v : Bool) (r : BitVec 3) :
    (x.setRp rd v).rp r = if r = rd ∧ rd ≠ 0 then v else x.rp r := by
  by_cases h0 : rd = 0
  · rw [if_neg (fun c => c.2 h0), Task.setRp, if_pos h0]
  · rw [Task.setRp, if_neg h0]
    by_cases hr : r = rd
    · rw [if_pos (And.intro hr h0), Task.rp, hr, decide_eq_false h0, Bool.false_or]
      exact Store.get_set_same ..
    · have : rd.toNat ≠ r.toNat := fun c => hr (BitVec.eq_of_toNat_eq c.symm)
      rw [if_neg (fun c => hr c.1), Task.rp, Task.rp]
      dsimp only
      rw [Store.get_set_other _ _ _ _ _ this]

theorem Task.ra_setRa (x : Task) (rd : BitVec 4) (v : Addr) (r : BitVec 4) : (x.setRa rd v).ra r = if r = rd then v else x.ra r := by
  unfold Task.ra Task.setRa
  by_cases hr : r = rd
  · subst hr
    simp
  · have : rd.toNat ≠ r.toNat := fun c => hr (BitVec.eq_of_toNat_eq c.symm)
    simp [hr, Store.get_set_other _ _ _ _ _ this]

theorem Task.rd_setRd (x : Task) (rd : BitVec 4) (v : Desc) (r : BitVec 4) : (x.setRd rd v).rd r = if r = rd then v else x.rd r := by
  unfold Task.rd Task.setRd
  by_cases hr : r = rd
  · subst hr
    simp
  · have : rd.toNat ≠ r.toNat := fun c => hr (BitVec.eq_of_toNat_eq c.symm)
    simp [hr, Store.get_set_other _ _ _ _ _ this]

/-- A register set and the context at another address, READY: the scalar register and nothing else. -/
theorem SetsS.setRs (x : Task) (rd : BitVec 5) (v : W32) (st : TState) (w : WaitReason)
    (pc : Addr) (g : Bool) :
    SetsS x { x.setRs rd v with st := st, wait := w, pc := pc, aged := g } rd v := by
  refine ⟨fun r => Task.rs_setRs x rd v r, ?_⟩
  unfold Task.setRs
  split <;> rfl

theorem SetsP.setRp (x : Task) (rd : BitVec 3) (v : Bool) (st : TState) (w : WaitReason)
    (pc : Addr) (g : Bool) :
    SetsP x { x.setRp rd v with st := st, wait := w, pc := pc, aged := g } rd v := by
  refine ⟨fun r => Task.rp_setRp x rd v r, ?_⟩
  unfold Task.setRp
  split <;> rfl

theorem SetsA.setRa (x : Task) (rd : BitVec 4) (v : Addr) (st : TState) (w : WaitReason)
    (pc : Addr) (g : Bool) :
    SetsA x { x.setRa rd v with st := st, wait := w, pc := pc, aged := g } rd v := ⟨fun r => Task.ra_setRa x rd v r, rfl⟩

theorem SetsD.setRd (x : Task) (rd : BitVec 4) (v : Desc) (st : TState) (w : WaitReason)
    (pc : Addr) (g : Bool) :
    SetsD x { x.setRd rd v with st := st, wait := w, pc := pc, aged := g } rd v := ⟨fun r => Task.rd_setRd x rd v r, rfl⟩

/-! ### Issue -/

/-- The issue stage passes on what `reaches` says. -/
theorem State.issueStop_none {s : State} {t : TaskRef} {q : IssueReq} (h : s.reaches t q.len q.pred q.uses = true)
    (hi : q.illegal = false) : s.issueStop t q = none := by
  unfold State.reaches at h
  simp only [State.taskAt, Bool.and_eq_true, Option.isNone_iff_eq_none, List.all_eq_true] at h
  obtain ⟨⟨⟨⟨⟨h1, h2⟩, h3⟩, h4⟩, h5⟩, h6⟩ := h
  have h4 := of_decide_eq_true h4
  have h7 : q.uses.any (fun r => (s.task t.tile t.cru t.task).pend.contains r.toNat) = false := by
    rw [List.any_eq_false]
    intro r hr
    simpa using h6 r hr
  unfold State.issueStop
  simp only [h1, h2, h3, h5, h7, hi, Bool.not_true, Bool.false_eq_true, ↓reduceIte, ne_eq]
  rw [if_neg (not_not_intro h4)]

theorem State.issue_reaches {s : State} {t : TaskRef} {q : IssueReq} (h : s.reaches t q.len q.pred q.uses = true)
    (hi : q.illegal = false) (body : State → State) : s.issue t q body = body s := by
  unfold State.issue
  rw [State.issueStop_none h hi]

/-- The counters and the notes of an issue. -/
theorem State.reg_bump_other (s : State) (p k p' l n : Nat) (h : k < 496) (h' : l < 496) (d : p ≠ p' ∨ k ≠ l) :
    (s.bump p k n).reg p' (Reg.COUNTER l) = s.reg p' (Reg.COUNTER l) :=
  State.reg_setReg_other _ _ _ _ _ _ (by unfold Reg.COUNTER; omega) (by unfold Reg.COUNTER; omega) (by unfold Reg.COUNTER; omega)

/-- The counters and the notes of an issue. -/
theorem State.countIssue_frame (s : State) (t : TaskRef) :
    IssueFrame t [] [] s (s.countIssue t) ∧ (s.countIssue t).taskAt t = { s.taskAt t with aged := false } ∧
      (s.countIssue t).cru t.tile t.cru = issuedBy (s.cru t.tile t.cru) t.task := by
  have hf := ((State.countIssue_kept s t).mono (m := [.regs, .tasks, .crus]) rfl).frame
  have hc : (s.countIssue t).crus =
      (s.setCru t.tile t.cru { s.cru t.tile t.cru with last := some t.task }).crus := rfl
  refine ⟨⟨hf, ?_, ?_, ?_, ?_, ?_, ?_⟩, State.taskAt_setTask_same .., ?_⟩
  · exact ((((RegsOutside.bump s _ 0 1 (by decide)).mono (by simp)).step (RegsOutside.bump _ _ 4 _ (by decide)) (by simp)).step
      (RegsOutside.bump _ _ 13 _ (by decide)) (by simp)).trans (RegsOutside.of_regs rfl)
  · exact TasksOutside.trans (TasksOutside.of_tasks rfl) (TasksOutside.setTask _ t _)
  · exact (CrusOutside.setCru s t _).trans (CrusOutside.of_crus hc)
  · have e : (s.countIssue t).reg (cruPage t.tile t.cru) (Reg.COUNTER 0) =
        (((s.bump (cruPage t.tile t.cru) 0 1).bump (cruPage t.tile t.cru) 4 (switches (s.cru t.tile t.cru) t.task)).bump
          (cruPage t.tile t.cru) 13 (b2n (s.taskAt t).aged)).reg (cruPage t.tile t.cru) (Reg.COUNTER 0) := rfl
    rw [Counts, e, State.reg_bump_other _ _ 13 _ 0 _ (by decide) (by decide) (.inr (by decide)),
      State.reg_bump_other _ _ 4 _ 0 _ (by decide) (by decide) (.inr (by decide)), State.reg_bump_same]
  · have e : (s.countIssue t).reg (cruPage t.tile t.cru) (Reg.COUNTER 4) =
        (((s.bump (cruPage t.tile t.cru) 0 1).bump (cruPage t.tile t.cru) 4 (switches (s.cru t.tile t.cru) t.task)).bump
          (cruPage t.tile t.cru) 13 (b2n (s.taskAt t).aged)).reg (cruPage t.tile t.cru) (Reg.COUNTER 4) := rfl
    rw [Counts, e, State.reg_bump_other _ _ 13 _ 4 _ (by decide) (by decide) (.inr (by decide)), State.reg_bump_same,
      State.reg_bump_other _ _ 0 _ 4 _ (by decide) (by decide) (.inr (by decide))]
  · have e : (s.countIssue t).reg (cruPage t.tile t.cru) (Reg.COUNTER 13) =
        (((s.bump (cruPage t.tile t.cru) 0 1).bump (cruPage t.tile t.cru) 4 (switches (s.cru t.tile t.cru) t.task)).bump
          (cruPage t.tile t.cru) 13 (b2n (s.taskAt t).aged)).reg (cruPage t.tile t.cru) (Reg.COUNTER 13) := rfl
    rw [Counts, e, State.reg_bump_same, State.reg_bump_other _ _ 4 _ 13 _ (by decide) (by decide) (.inr (by decide)),
      State.reg_bump_other _ _ 0 _ 13 _ (by decide) (by decide) (.inr (by decide))]
  · rw [State.cru_congr hc, State.cru_setCru_same]
    rfl

theorem IssueFrame.after {t : TaskRef} {fs : List Field} {rs : List (Nat × Nat)} {s s' u : State} (h : IssueFrame t fs rs s' u)
    (hf : Frame ([.regs, .tasks, .crus] ++ fs) s s') (hr : RegsOutside ([counter (cruPage t.tile t.cru) 0, counter (cruPage t.tile t.cru) 4,
      counter (cruPage t.tile t.cru) 13] ++ rs) s s') (ht : TasksOutside t s s') (hc : s'.crus = s.crus)
    (h0 : s'.regs = s.regs) (hg : (s'.taskAt t).aged = (s.taskAt t).aged) : IssueFrame t fs rs s u := by
  obtain ⟨a, b, c, d, e, f, g⟩ := h
  have k := State.cru_congr hc t.tile t.cru
  refine ⟨?_, hr.trans b, ht.trans c, (CrusOutside.of_crus hc).trans d, ?_, ?_, ?_⟩
  · intro x hx
    have p := hf x hx
    have q := a x hx
    cases x <;> exact Eq.trans q p
  · rw [Counts, ← State.reg_congr h0]; exact e
  · rw [Counts, ← State.reg_congr h0, ← k]; exact f
  · rw [Counts, ← State.reg_congr h0, ← hg]; exact g

/-- A task's context replaced, and the issue counted. -/
theorem State.setTask_issued (s : State) (t : TaskRef) (y : Task) (hy : y.aged = (s.taskAt t).aged) :
    IssueFrame t [] [] s ((s.setTask t.tile t.cru t.task y).countIssue t) ∧
      ((s.setTask t.tile t.cru t.task y).countIssue t).cru t.tile t.cru = issuedBy (s.cru t.tile t.cru) t.task ∧
      ((s.setTask t.tile t.cru t.task y).countIssue t).taskAt t = { y with aged := false } := by
  obtain ⟨f, ft, fc⟩ := State.countIssue_frame (s.setTask t.tile t.cru t.task y) t
  refine ⟨f.after ((State.setTask_kept ..).mono rfl).frame (RegsOutside.of_regs rfl) (TasksOutside.setTask _ _ _) rfl rfl ?_, fc, ?_⟩
  · rw [State.taskAt_setTask_same, hy]
  · rw [ft, State.taskAt_setTask_same]

/-- A task taken to an address. -/
theorem State.goTo_retires (s : State) (t : TaskRef) (pc : Addr) :
    Retires t pc s (s.goTo t pc) ∧
      (s.goTo t pc).taskAt t = { s.taskAt t with st := .ready, wait := .none, pc := pc, aged := false } := by
  obtain ⟨f, fc, ft⟩ := State.setTask_issued s t { s.taskAt t with st := .ready, wait := .none, pc := pc } rfl
  exact ⟨⟨f, fc, congrArg Task.st ft, congrArg Task.wait ft, congrArg Task.pc ft, congrArg Task.aged ft⟩, ft⟩

/-- A retirement after the task's registers changed. -/
theorem Retires.after {s u : State} {t : TaskRef} {x : Task} {pc : Addr} (h : Retires t pc (s.setTask t.tile t.cru t.task x) u)
    (hx : x.aged = (s.taskAt t).aged) : Retires t pc s u := by
  obtain ⟨f, c, r⟩ := h
  refine ⟨f.after ((State.setTask_kept ..).mono rfl).frame (RegsOutside.of_regs rfl) (TasksOutside.setTask _ _ _) rfl rfl ?_, c, r⟩
  rw [State.taskAt_setTask_same, hx]

/-- An instruction that changes its task's registers alone and retires. -/
theorem State.scalarStep_retires {s : State} {t : TaskRef} {pred : BitVec 3} {uses : List (BitVec 5)}
    (h : s.reaches t 4 pred uses = true) (f : Task → Task) (hf : (f (s.taskAt t)).pc = (s.taskAt t).pc)
    (hg : (f (s.taskAt t)).aged = (s.taskAt t).aged) :
    Retires t (s.nextPc t 4) s (s.scalarStep t false pred uses f) ∧ (s.scalarStep t false pred uses f).taskAt t =
      { f (s.taskAt t) with st := .ready, wait := .none, pc := s.nextPc t 4, aged := false } := by
  have e : s.scalarStep t false pred uses f = (s.setTask t.tile t.cru t.task (f (s.taskAt t))).goTo t (s.nextPc t 4) := by
    unfold State.scalarStep
    rw [State.issue_reaches (q := ⟨4, false, pred, uses⟩) h rfl]
    unfold State.retire State.onTask
    rw [State.task_eq, State.task_eq, State.taskAt_setTask_same, hf]
    rfl
  rw [e]
  obtain ⟨a, b⟩ := State.goTo_retires (s.setTask t.tile t.cru t.task (f (s.taskAt t))) t (s.nextPc t 4)
  exact ⟨a.after hg, by rw [b, State.taskAt_setTask_same]⟩

end Sys2Proof.Machine
end

