-- ==== Sys2Proof/Laws/Fault.lean ====
section
/-! SUPPORT. What an instruction that retires answers, and what a task fault leaves. -/
namespace Sys2Proof.Machine

/-! ### Retiring -/

theorem DoesS.ofStep {c : Instr} {s : State} {t : TaskRef} {pred : BitVec 3} {uses : List (BitVec 5)} {rd : BitVec 5} {v : W32}
    (f : Task → Task) (h : s.reaches t 4 pred uses = true) (he : exec c s = .next (s.scalarStep t false pred uses f))
    (hf : f (s.taskAt t) = (s.taskAt t).setRs rd v) : DoesS c s t rd v := by
  have hp : (f (s.taskAt t)).pc = (s.taskAt t).pc := by rw [hf]; unfold Task.setRs; split <;> rfl
  have hg : (f (s.taskAt t)).aged = (s.taskAt t).aged := by rw [hf]; unfold Task.setRs; split <;> rfl
  obtain ⟨a, b⟩ := State.scalarStep_retires h f hp hg
  exact ⟨_, he, a, by rw [b, hf]; exact SetsS.setRs ..⟩

theorem DoesP.ofStep {c : Instr} {s : State} {t : TaskRef} {pred : BitVec 3} {uses : List (BitVec 5)} {rd : BitVec 3} {v : Bool}
    (f : Task → Task) (h : s.reaches t 4 pred uses = true) (he : exec c s = .next (s.scalarStep t false pred uses f))
    (hf : f (s.taskAt t) = (s.taskAt t).setRp rd v) : DoesP c s t rd v := by
  have hp : (f (s.taskAt t)).pc = (s.taskAt t).pc := by rw [hf]; unfold Task.setRp; split <;> rfl
  have hg : (f (s.taskAt t)).aged = (s.taskAt t).aged := by rw [hf]; unfold Task.setRp; split <;> rfl
  obtain ⟨a, b⟩ := State.scalarStep_retires h f hp hg
  exact ⟨_, he, a, by rw [b, hf]; exact SetsP.setRp ..⟩

theorem DoesA.ofStep {c : Instr} {s : State} {t : TaskRef} {pred : BitVec 3} {uses : List (BitVec 5)} {rd : BitVec 4} {v : Addr}
    (f : Task → Task) (h : s.reaches t 4 pred uses = true) (he : exec c s = .next (s.scalarStep t false pred uses f))
    (hf : f (s.taskAt t) = (s.taskAt t).setRa rd v) : DoesA c s t rd v := by
  have hp : (f (s.taskAt t)).pc = (s.taskAt t).pc := by rw [hf]; rfl
  have hg : (f (s.taskAt t)).aged = (s.taskAt t).aged := by rw [hf]; rfl
  obtain ⟨a, b⟩ := State.scalarStep_retires h f hp hg
  exact ⟨_, he, a, by rw [b, hf]; exact SetsA.setRa ..⟩

theorem DoesD.ofStep {c : Instr} {s : State} {t : TaskRef} {pred : BitVec 3} {uses : List (BitVec 5)} {rd : BitVec 4} {v : Desc}
    (f : Task → Task) (h : s.reaches t 4 pred uses = true) (he : exec c s = .next (s.scalarStep t false pred uses f))
    (hf : f (s.taskAt t) = (s.taskAt t).setRd rd v) : DoesD c s t rd v := by
  have hp : (f (s.taskAt t)).pc = (s.taskAt t).pc := by rw [hf]; rfl
  have hg : (f (s.taskAt t)).aged = (s.taskAt t).aged := by rw [hf]; rfl
  obtain ⟨a, b⟩ := State.scalarStep_retires h f hp hg
  exact ⟨_, he, a, by rw [b, hf]; exact SetsD.setRd ..⟩

/-- An instruction that reaches its own checks. -/
theorem Does.ofIssue {c : Instr} {s : State} {t : TaskRef} {q : IssueReq} {body : State → State} {p : State → Prop}
    (h : s.reaches t q.len q.pred q.uses = true) (hi : q.illegal = false) (he : exec c s = .next (s.issue t q body)) (hp : p (body s)) :
    Does c s p := ⟨body s, by rw [he, State.issue_reaches h hi], hp⟩

/-- Pages without registers behind a selector. -/
theorem State.winKey_none (s : State) (page off : Nat) (h0 : page ≠ 7) (h1 : page ≠ 0x3003) (h2 : page ≠ 0x3403) :
    s.winKey page off = none := by
  unfold State.winKey
  simp [h0, h1, h2, polderPage, pciePage, diePage]

theorem State.stored_reg (s : State) (page off : Nat) (h0 : page ≠ 7) (h1 : page ≠ 0x3003) (h2 : page ≠ 0x3403) :
    s.stored page off = s.reg page off := by
  unfold State.stored
  rw [State.winKey_none s page off h0 h1 h2]

theorem State.storeReg_setReg (s : State) (page off : Nat) (v : W64) (h0 : page ≠ 7) (h1 : page ≠ 0x3003) (h2 : page ≠ 0x3403) :
    s.storeReg page off v = s.setReg page off v := by
  unfold State.storeReg
  rw [State.winKey_none s page off h0 h1 h2]

/-- Trigger bits of a plain register read 0 again. -/
theorem State.zeroBits_setReg (s : State) (page off : Nat) (m : W64) (h0 : page ≠ 7) (h1 : page ≠ 0x3003) (h2 : page ≠ 0x3403) :
    s.zeroBits page off m = s.setReg page off (s.reg page off &&& ~~~m) := by
  unfold State.zeroBits
  rw [State.storeReg_setReg _ _ _ _ h0 h1 h2, State.stored_reg _ _ _ h0 h1 h2]

/-- The issue frame with more room. -/
theorem IssueFrame.mono {t : TaskRef} {fs gs : List Field} {rs qs : List (Nat × Nat)} {s u : State} (h : IssueFrame t fs rs s u)
    (hf : ∀ f ∈ fs, f ∈ gs) (hr : ∀ r ∈ rs, r ∈ qs) : IssueFrame t gs qs s u := by
  obtain ⟨a, b, c⟩ := h
  refine ⟨fun f hn => a f ?_, b.mono ?_, c⟩
  · intro hm
    rw [List.mem_append] at hm
    exact hn (List.mem_append.mpr (hm.imp_right (hf f)))
  · intro r hm
    rw [List.mem_append] at *
    exact hm.imp_right (hr r)

/-- A change of the issuing task after the issue. -/
theorem IssueFrame.andTask {t : TaskRef} {fs : List Field} {rs : List (Nat × Nat)} {s u : State} (h : IssueFrame t fs rs s u) (y : Task) :
    IssueFrame t fs rs s (u.setTask t.tile t.cru t.task y) := by
  obtain ⟨a, b, c, d, e⟩ := h
  refine ⟨fun x hx => ?_, b.trans (RegsOutside.of_regs rfl), c.trans (TasksOutside.setTask u t y), d.trans (CrusOutside.of_crus rfl), e⟩
  have p := a x hx
  cases x <;> first | exact p | simp at hx

theorem SetsNone.of {x y : Task} {st : TState} {w : WaitReason} {pc : Addr} {g : Bool}
    (h : y = { x with st := st, wait := w, pc := pc, aged := g }) :
    SetsNone x y := by
  subst h
  rfl

theorem State.taskAt_onTask (s : State) (t : TaskRef) (f : Task → Task) : (s.onTask t f).taskAt t = f (s.taskAt t) :=
  State.taskAt_setTask_same ..

/-- A retirement after a change of other state: the state before may differ from the machine's in its own fields and registers, where
these hold no counter of the issue. -/
theorem RetiresTo.after {t : TaskRef} {fs : List Field} {rs : List (Nat × Nat)} {pc : Addr} {s s' u : State}
    (h : Retires t pc s' u) (hf : Frame ([.regs, .tasks, .crus] ++ fs) s s')
    (hr : RegsOutside rs s s') (ht : TasksOutside t s s') (hc : CrusOutside t s s')
    (hl : (s'.cru t.tile t.cru).last = (s.cru t.tile t.cru).last)
    (hp : (s'.taskAt t).aged = (s.taskAt t).aged)
    (h0 : counter (cruPage t.tile t.cru) 0 ∉ rs) (h4 : counter (cruPage t.tile t.cru) 4 ∉ rs)
    (h13 : counter (cruPage t.tile t.cru) 13 ∉ rs) : RetiresTo t fs rs pc s u := by
  obtain ⟨⟨a, b, c, d, e0, e4, e13⟩, _, f, g, i⟩ := h
  have rg (n : Nat) (hn : n < 496) (hm : counter (cruPage t.tile t.cru) n ∉ rs) :
      s'.reg (cruPage t.tile t.cru) (Reg.COUNTER n) = s.reg (cruPage t.tile t.cru) (Reg.COUNTER n) :=
    hr _ _ (by unfold Reg.COUNTER; omega) hm
  refine ⟨⟨fun x hx => ?_, ?_, ht.trans c, hc.trans d, ?_, ?_, ?_⟩, f, g, i⟩
  · have p := hf x hx
    have q := a x (fun hm => hx (by simp only [List.append_nil] at hm; exact List.mem_append.mpr (.inl hm)))
    cases x <;> exact Eq.trans q p
  · exact (hr.mono (fun x hm => List.mem_append.mpr (.inr hm))).step b (fun x hm => by
      rw [List.append_nil] at hm; exact List.mem_append.mpr (.inl hm))
  · rw [Counts, ← rg 0 (by decide) h0]; exact e0
  · rw [Counts, ← rg 4 (by decide) h4]; rw [Counts, switches, hl] at e4; exact e4
  · rw [Counts, ← rg 13 (by decide) h13]; rw [Counts, hp] at e13; exact e13

/-! ### Task faults -/

/-- The pages of a tile and the PCIE pages, as numbers. -/
theorem cruPage_eq (i k : Nat) : cruPage i k = 0x1000 + 0x40 * i + (1 + k) := rfl
theorem faultPage_eq (i : Nat) : faultPage i = 0x1000 + 0x40 * i + 14 := rfl
theorem portPage_a : portPage .a = 0x3003 := rfl
theorem portPage_b : portPage .b = 0x3403 := rfl

/-- Registers that an event writes, by number. -/
theorem evtRegs_eq (page : Nat) : evtRegs page = [(page, 0x20), (0x3003, 0xb0), (0x3403, 0xb0)] := rfl

theorem State.fld_setFields_other (s : State) (p o : Nat) (l : List (Nat × Nat × Nat)) (hi lo : Nat)
    (h : ∀ x ∈ l, x.1 < 64 ∧ (hi < x.2.1 ∨ x.1 < lo)) : (s.setFields p o l).rf p o hi lo = s.rf p o hi lo := by
  unfold State.rf State.setFields
  rw [State.reg_setReg_same]
  generalize s.reg p o = w
  induction l generalizing w with
  | nil => rfl
  | cons x r ih =>
    rw [List.foldl_cons, ih (fun y hy => h y (List.mem_cons_of_mem _ hy))]
    have := h x List.mem_cons_self
    exact fld_setFld_other w x.1 x.2.1 x.2.2 hi lo this.1 this.2

/-- The first of several fields. -/
theorem fld_fields_head (w : W64) (hi lo v : Nat) (l : List (Nat × Nat × Nat)) (h0 : hi < 64)
    (h : ∀ x ∈ l, x.1 < 64 ∧ (hi < x.2.1 ∨ x.1 < lo)) :
    fld (List.foldl (fun w p => setFld w p.1 p.2.1 p.2.2) w ((hi, lo, v) :: l)) hi lo = v % 2 ^ (hi + 1 - lo) := by
  rw [List.foldl_cons]
  dsimp only
  rw [← fld_setFld_same w hi lo v h0]
  generalize setFld w hi lo v = w'
  induction l generalizing w' with
  | nil => rfl
  | cons x r ih =>
    rw [List.foldl_cons, ih (fun y hy => h y (List.mem_cons_of_mem _ hy))]
    have := h x List.mem_cons_self
    exact fld_setFld_other w' x.1 x.2.1 x.2.2 hi lo this.1 this.2

theorem RegsOutside.comp {l m : List (Nat × Nat)} {r s t : State} (h : RegsOutside l r s) (k : RegsOutside m s t) :
    RegsOutside (l ++ m) r t :=
  (h.mono (fun _ a => List.mem_append_left _ a)).trans (k.mono (fun _ a => List.mem_append_right _ a))

/-- A register fact of an earlier state, kept by later operations. -/
theorem RegsOutside.rf {l : List (Nat × Nat)} {s t : State} (h : RegsOutside l s t) {p o : Nat} (hi lo : Nat) (ho : o < 4096)
    (n : (p, o) ∉ l) : t.rf p o hi lo = s.rf p o hi lo := by
  unfold State.rf
  rw [h p o ho n]

/-- A counter after operations that do not touch it. -/
theorem Counts.after {l : List (Nat × Nat)} {s t u : State} {p k n : Nat} (h : Counts s t p k n) (g : RegsOutside l t u)
    (hk : k < 496) (hn : counter p k ∉ l) : Counts s u p k n := by
  unfold Counts at *
  rw [g p _ (by unfold Reg.COUNTER; omega) hn, h]

theorem Counts.before {l : List (Nat × Nat)} {s t u : State} {p k n : Nat} (g : RegsOutside l s t) (h : Counts t u p k n) 
    (hk : k < 496) (hn : counter p k ∉ l) : Counts s u p k n := by
  unfold Counts at *
  rw [h, g p _ (by unfold Reg.COUNTER; omega) hn]

theorem Counts.bump (s : State) (p k n : Nat) : Counts s (s.bump p k n) p k n := State.reg_bump_same ..

/-! ### Register frames, from the last operation back -/

section Back
variable {l : List (Nat × Nat)} {s t : State}

theorem RegsOutside.thenSetReg (h : RegsOutside l s t) (p o : Nat) (v : W64) (ho : o < 4096) (m : (p, o) ∈ l) :
    RegsOutside l s (t.setReg p o v) := h.trans ((RegsOutside.setReg t p o v ho).mono (by simpa using m))
theorem RegsOutside.thenSetRf (h : RegsOutside l s t) (p o hi lo v : Nat) (ho : o < 4096) (m : (p, o) ∈ l) :
    RegsOutside l s (t.setRf p o hi lo v) := h.thenSetReg p o _ ho m
theorem RegsOutside.thenSetRb (h : RegsOutside l s t) (p o i : Nat) (b : Bool) (ho : o < 4096) (m : (p, o) ∈ l) :
    RegsOutside l s (t.setRb p o i b) := h.thenSetReg p o _ ho m
theorem RegsOutside.thenSetFields (h : RegsOutside l s t) (p o : Nat) (fs : List (Nat × Nat × Nat)) (ho : o < 4096) (m : (p, o) ∈ l) :
    RegsOutside l s (t.setFields p o fs) := h.thenSetReg p o _ ho m
theorem RegsOutside.thenBump (h : RegsOutside l s t) (p k n : Nat) (ho : k < 496) (m : counter p k ∈ l) :
    RegsOutside l s (t.bump p k n) := h.thenSetReg p _ _ (by unfold Reg.COUNTER; omega) m
theorem RegsOutside.thenRaise (h : RegsOutside l s t) (p b : Nat) (m : ∀ x ∈ evtRegs p, x ∈ l) :
    RegsOutside l s (t.raise p b) := h.trans ((RegsOutside.raise t p b).mono m)
theorem RegsOutside.thenMsix (h : RegsOutside l s t) (p : HostPort) (v : Nat) (m : counter (portPage p) 6 ∈ l) :
    RegsOutside l s (t.msix p v) := h.trans ((RegsOutside.msix t p v).mono (by simpa using m))
theorem RegsOutside.thenLog (h : RegsOutside l s t) (p c v : Nat) (d0 d1 : W64) : RegsOutside l s (t.log p c v d0 d1) :=
  h.trans (RegsOutside.log l t p c v d0 d1)
theorem RegsOutside.thenSame {u : State} (h : RegsOutside l s t) (e : u.regs = t.regs) : RegsOutside l s u :=
  h.trans (RegsOutside.of_regs e)
theorem RegsOutside.thenIf {c : Prop} [Decidable c] {u : State} (a : c → RegsOutside l s t) (b : ¬c → RegsOutside l s u) :
    RegsOutside l s (if c then t else u) := by
  split
  · exact a ‹_›
  · exact b ‹_›
end Back

/-- What the fault record is. -/
theorem State.recordFault_first {s : State} {t : TaskRef} (f : FaultInfo) (h : (s.taskAt t).faultSeq = none) :
    s.recordFault t f =
      (((s.setFields (cruPage t.tile t.cru) (Reg.TASK_FAULT t.task)
          [(7, 0, f.code), (10, 8, f.unit), (12, 11, segOf f.addr), (63, 32, s.ts)]).setReg (cruPage t.tile t.cru)
          (Reg.TASK_FADDR t.task) (BitVec.ofNat 64 f.addr.toNat)).setReg (cruPage t.tile t.cru) (Reg.TASK_FPC t.task)
          (BitVec.ofNat 64 f.pc.toNat)).setTask t.tile t.cru t.task { s.taskAt t with faultSeq := some f.seq } := by
  unfold State.taskAt at h
  unfold State.recordFault
  simp only [h, if_true]
  rfl

theorem State.revertClaims_regs (s : State) (l : List Claim) : (s.revertClaims l).regs = s.regs ∧ (s.revertClaims l).tasks = s.tasks ∧
    (s.revertClaims l).crus = s.crus :=
  ⟨(State.revertClaims_kept s l).frame .regs (by decide), (State.revertClaims_kept s l).frame .tasks (by decide),
    (State.revertClaims_kept s l).frame .crus (by decide)⟩

theorem State.dropFar_regs (s : State) (i : Nat) (l m : List Nat) : (s.dropFar i l m).regs = s.regs ∧ (s.dropFar i l m).tasks = s.tasks ∧
    (s.dropFar i l m).crus = s.crus :=
  ⟨(State.dropFar_kept s i l m).frame .regs (by decide), (State.dropFar_kept s i l m).frame .tasks (by decide),
    (State.dropFar_kept s i l m).frame .crus (by decide)⟩

theorem Task.rewait_rewait (x : Task) (c : Crucible) : (x.rewait c).rewait c = x.rewait c := by
  cases x with
  | mk st wait after pc s a d p seq faultSeq pend gate load ask aged =>
    cases st <;> try rfl
    cases ask with
    | none => rfl
    | some w =>
      cases w with
      | regs _ => rfl
      | ranges l u =>
        cases hb : c.blocks (.ranges l u) <;> simp only [Task.rewait, hb]

/-- What waking the tasks of a crucible leaves: each of them as the scoreboard and the queues leave it (R80). -/
theorem State.wakeTasks_spec (s : State) (i : TileIx) (k : CruIx) : (s.wakeTasks i k).crus = s.crus ∧ (s.wakeTasks i k).regs = s.regs ∧
    ∀ q : TaskRef, (s.wakeTasks i k).taskAt q = if (q.tile, q.cru) = (i, k) then (s.taskAt q).rewait (s.cru i k) else s.taskAt q := by
  have hc (l : List Nat) : ∀ u : State, (l.foldl (fun (s : State) n => s.setTask i k n ((s.task i k n).rewait (s.cru i k))) u).crus = u.crus := by
    induction l with
    | nil => exact fun _ => rfl
    | cons a r ih => exact fun u => ih _
  have hr (l : List Nat) : ∀ u : State, (l.foldl (fun (s : State) n => s.setTask i k n ((s.task i k n).rewait (s.cru i k))) u).regs = u.regs := by
    induction l with
    | nil => exact fun _ => rfl
    | cons a r ih => exact fun u => ih _
  have ht (l : List Nat) (hl : ∀ n ∈ l, n < 8) : ∀ u : State, ∀ q : TaskRef,
      (l.foldl (fun (s : State) n => s.setTask i k n ((s.task i k n).rewait (s.cru i k))) u).taskAt q =
        if (q.tile, q.cru) = (i, k) ∧ q.task.val ∈ l then (u.taskAt q).rewait (u.cru i k) else u.taskAt q := by
    induction l with
    | nil => intro u q; simp
    | cons a r ih =>
      intro u q
      rw [List.foldl_cons, ih (fun n hn => hl n (List.mem_cons_of_mem _ hn))]
      have ha : a < 8 := hl a List.mem_cons_self
      have ec : (u.setTask i k a ((u.task i k a).rewait (u.cru i k))).cru i k = u.cru i k := rfl
      rw [ec]
      have et : (u.setTask i k a ((u.task i k a).rewait (u.cru i k))).taskAt q =
          if (q.tile, q.cru) = (i, k) ∧ q.task.val = a then (u.taskAt q).rewait (u.cru i k) else u.taskAt q := by
        by_cases e : q = ⟨i, k, ⟨a, ha⟩⟩
        · subst e
          rw [if_pos ⟨rfl, rfl⟩]
          exact State.taskAt_setTask_same u ⟨i, k, ⟨a, ha⟩⟩ _
        · rw [if_neg]
          · exact TasksOutside.setTask u ⟨i, k, ⟨a, ha⟩⟩ _ q e
          · rintro ⟨h1, h2⟩
            obtain ⟨qa, qb, qc⟩ := q
            simp only [Prod.mk.injEq] at h1
            obtain ⟨rfl, rfl⟩ := h1
            exact e (by congr; exact Fin.ext h2)
      rw [et]
      by_cases h1 : (q.tile, q.cru) = (i, k)
      · by_cases h2 : q.task.val = a
        · by_cases h3 : q.task.val ∈ r
          · simp only [h1, h2, true_and, if_true, List.mem_cons, true_or]
            rw [if_pos (h2 ▸ h3), Task.rewait_rewait]
          · simp only [h1, h2, true_and, if_true, List.mem_cons, true_or]
            rw [if_neg (h2 ▸ h3)]
        · simp only [h1, h2, true_and, if_false, List.mem_cons, false_or]
      · simp only [h1, false_and, if_false]
  refine ⟨hc _ s, hr _ s, fun q => ?_⟩
  unfold State.wakeTasks
  rw [ht _ (by simp)]
  simp only [List.mem_range, q.task.isLt, and_true]

/-- What a discard leaves (R97): the tasks of the crucible woken, the other crucibles as before, and none of the work that it picked. -/
theorem State.discard_spec (s : State) (t : TaskRef) (p : Work → Bool) :
    let u := s.discard t.tile t.cru p
    u.regs = s.regs ∧ CrusOutside t s u ∧ (u.cru t.tile t.cru).works = (s.cru t.tile t.cru).works.filter (fun w => !p w) ∧
    (∀ q : TaskRef, u.taskAt q =
      if (q.tile, q.cru) = (t.tile, t.cru) then (s.taskAt q).rewait (u.cru t.tile t.cru) else s.taskAt q) ∧
    ((s.cru t.tile t.cru).works.all (fun w => !p w) = true → Frame [.tasks, .crus] s u) := by
  intro u
  obtain ⟨l, a, b, e⟩ : ∃ l a b, u = (((s.setCru t.tile t.cru _).revertClaims l).dropFar t.tile a b).wakeTasks t.tile t.cru :=
    ⟨_, _, _, rfl⟩
  generalize h1 : s.setCru t.tile t.cru _ = s1 at e
  generalize h2 : s1.revertClaims l = s2 at e
  generalize h3 : s2.dropFar t.tile a b = s3 at e
  have a2 := State.revertClaims_regs s1 l
  have a3 := State.dropFar_regs s2 t.tile a b
  rw [h2] at a2
  rw [h3] at a3
  obtain ⟨c4, r4, t4⟩ := State.wakeTasks_spec s3 t.tile t.cru
  have cu : u.crus = s1.crus := by rw [e, c4, a3.2.2, a2.2.2]
  have t3 (q : TaskRef) : s3.taskAt q = s.taskAt q := State.taskAt_congr (by rw [a3.2.1, a2.2.1, ← h1]; rfl) q
  refine ⟨by rw [e, r4, a3.1, a2.1, ← h1]; rfl, ?_, ?_, ?_, ?_⟩
  · exact (h1 ▸ CrusOutside.setCru s t _ : CrusOutside t s s1).trans (CrusOutside.of_crus cu)
  · rw [State.cru_congr cu, ← h1, State.cru_setCru_same]
    simp [Crucible.works]
  · intro q
    have : u.cru t.tile t.cru = s3.cru t.tile t.cru := State.cru_congr (by rw [e, c4]) _ _
    rw [e, t4 q, t3, State.cru_congr c4]
  · intro hn
    have hg : (s.cru t.tile t.cru).works.filter p = [] := by
      rw [List.filter_eq_nil_iff]
      intro w hw
      simpa using List.all_eq_true.mp hn w hw
    obtain ⟨y, e'⟩ : ∃ y, u = (s.setCru t.tile t.cru y).wakeTasks t.tile t.cru := by
      refine ⟨?y, ?_⟩
      rotate_left
      · show s.discard t.tile t.cru p = _
        unfold State.discard
        dsimp only
        rw [hg]
        rfl
    rw [e']
    exact (((State.setCru_kept s _ _ _).mono (m := [.tasks, .crus]) rfl).trans ((State.wakeTasks_kept _ _ _).mono rfl)).frame

theorem State.raise_tasks (s : State) (p b : Nat) : (s.raise p b).tasks = s.tasks :=
  (State.raise_kept s p b).frame .tasks (by decide)
theorem State.raise_crus (s : State) (p b : Nat) : (s.raise p b).crus = s.crus :=
  (State.raise_kept s p b).frame .crus (by decide)
theorem State.report_tasks (s : State) (i c u d : Nat) : (s.report i c u d).tasks = s.tasks :=
  (State.report_kept s i c u d).frame .tasks (by decide)
theorem State.report_crus (s : State) (i c u d : Nat) : (s.report i c u d).crus = s.crus :=
  (State.report_kept s i c u d).frame .crus (by decide)

/-- A fault report: the record, the event and the counter of the FAULT page. -/
theorem State.report_frame (s : State) (i c u d : Nat) (hc : c < 256) (hu : u < 8) :
    RegsOutside (reportRegs i) s (s.report i c u d) ∧ Raised (s.report i c u d) (faultPage i) 0 ∧
      Counts s (s.report i c u d) (faultPage i) 0 1 ∧ (s.report i c u d).rf (faultPage i) Reg.FAULT_REC 10 8 = u ∧
      (s.report i c u d).rf (faultPage i) Reg.FAULT_REC 7 0 = c := by
  unfold State.report
  dsimp only
  generalize h1 : s.setFields (faultPage i) Reg.FAULT_REC [(7, 0, c), (10, 8, u), (63, 32, s.ts)] = s1
  generalize h2 : s1.setRf (faultPage i) Reg.FAULT_INFO 31 0 d = s2
  generalize h3 : s2.raise (faultPage i) 0 = s3
  generalize h4 : s3.bump (faultPage i) 0 1 = s4
  have r1 : RegsOutside [(faultPage i, Reg.FAULT_REC)] s s1 := h1 ▸ RegsOutside.setFields _ _ _ _ (by decide)
  have r2 : RegsOutside [(faultPage i, Reg.FAULT_INFO)] s1 s2 := h2 ▸ RegsOutside.setRf _ _ _ _ _ _ (by decide)
  have r3 : RegsOutside (evtRegs (faultPage i)) s2 s3 := h3 ▸ RegsOutside.raise _ _ _
  have r4 : RegsOutside [counter (faultPage i) 0] s3 s4 := h4 ▸ RegsOutside.bump _ _ 0 1 (by decide)
  have f10 : s1.rf (faultPage i) Reg.FAULT_REC 10 8 = u := by
    subst h1
    unfold State.rf State.setFields
    rw [State.reg_setReg_same, List.foldl_cons]
    exact (fld_fields_head _ 10 8 u [(63, 32, s.ts)] (by decide) (by simp)).trans (Nat.mod_eq_of_lt hu)
  have f7 : s1.rf (faultPage i) Reg.FAULT_REC 7 0 = c := by
    subst h1
    unfold State.rf State.setFields
    rw [State.reg_setReg_same]
    exact (fld_fields_head _ 7 0 c _ (by decide) (by simp)).trans (Nat.mod_eq_of_lt hc)
  have hc4 : Counts s s4 (faultPage i) 0 1 := by
    rw [← h4]
    refine Counts.before ((r1.comp r2).comp r3) (Counts.bump ..) (by decide) ?_
    simp [evtRegs_eq, counter, Reg.COUNTER, Reg.FAULT_REC, Reg.FAULT_INFO]
  have hr : Raised s4 (faultPage i) 0 := by
    refine Raised.outside (h3 ▸ Raised.raise s2 (faultPage i) 0 (by decide)) r4 ?_
    simp [counter, Reg.COUNTER, Reg.EVT_RAW]
  have hk := (r2.comp r3).comp r4
  have hn : (faultPage i, Reg.FAULT_REC) ∉ ([(faultPage i, Reg.FAULT_INFO)] ++ evtRegs (faultPage i)) ++ [counter (faultPage i) 0] := by
    simp [evtRegs_eq, counter, Reg.COUNTER, Reg.FAULT_REC, Reg.FAULT_INFO]
  refine ⟨?_, hr, hc4, ?_, ?_⟩
  · refine ((((r1.comp r2).comp r3).comp r4).mono ?_).trans (RegsOutside.of_regs rfl)
    intro x hx
    simp only [reportRegs, List.mem_append, List.mem_cons, List.not_mem_nil] at *
    tauto
  · exact (hk.rf 10 8 (by decide) hn).trans f10
  · exact (hk.rf 7 0 (by decide) hn).trans f7


/-- The fault record's own fields. -/
theorem State.recordFault_fields {s : State} {t : TaskRef} (f : FaultInfo) (h : (s.taskAt t).faultSeq = none) (hc : f.code < 256)
    (hu : f.unit < 8) :
    let pg := cruPage t.tile t.cru
    let u := s.recordFault t f
    RegsOutside [(pg, Reg.TASK_FAULT t.task), (pg, Reg.TASK_FADDR t.task), (pg, Reg.TASK_FPC t.task)] s u ∧
    TasksOutside t s u ∧ u.taskAt t = { s.taskAt t with faultSeq := some f.seq } ∧ u.crus = s.crus ∧
    u.rf pg (Reg.TASK_FAULT t.task) 7 0 = f.code ∧ u.rf pg (Reg.TASK_FAULT t.task) 10 8 = f.unit ∧
    u.rf pg (Reg.TASK_FAULT t.task) 12 11 = segOf f.addr ∧ u.rf pg (Reg.TASK_FAULT t.task) 63 32 = s.ts ∧
    u.rf pg (Reg.TASK_FAULT t.task) 19 16 = s.rf pg (Reg.TASK_FAULT t.task) 19 16 ∧
    u.reg pg (Reg.TASK_FADDR t.task) = BitVec.ofNat 64 f.addr.toNat ∧
    u.reg pg (Reg.TASK_FPC t.task) = BitVec.ofNat 64 f.pc.toNat := by
  intro pg u
  have hk := t.task.isLt
  have b1 : Reg.TASK_FAULT t.task < 4096 := by unfold Reg.TASK_FAULT; omega
  have b2 : Reg.TASK_FADDR t.task < 4096 := by unfold Reg.TASK_FADDR; omega
  have b3 : Reg.TASK_FPC t.task < 4096 := by unfold Reg.TASK_FPC; omega
  have d12 : Reg.TASK_FAULT t.task ≠ Reg.TASK_FADDR t.task := by unfold Reg.TASK_FAULT Reg.TASK_FADDR; omega
  have d13 : Reg.TASK_FAULT t.task ≠ Reg.TASK_FPC t.task := by unfold Reg.TASK_FAULT Reg.TASK_FPC; omega
  have d23 : Reg.TASK_FADDR t.task ≠ Reg.TASK_FPC t.task := by unfold Reg.TASK_FADDR Reg.TASK_FPC; omega
  have hs : segOf f.addr < 4 := by unfold segOf; have := f.addr.isLt; omega
  have hts : s.ts < 2 ^ 32 := by unfold State.ts; omega
  have hu' : u = _ := State.recordFault_first f h
  generalize h1 : s.setFields pg (Reg.TASK_FAULT t.task)
    [(7, 0, f.code), (10, 8, f.unit), (12, 11, segOf f.addr), (63, 32, s.ts)] = s1 at hu'
  generalize h2 : s1.setReg pg (Reg.TASK_FADDR t.task) (BitVec.ofNat 64 f.addr.toNat) = s2 at hu'
  generalize h3 : s2.setReg pg (Reg.TASK_FPC t.task) (BitVec.ofNat 64 f.pc.toNat) = s3 at hu'
  have r1 : RegsOutside [(pg, Reg.TASK_FAULT t.task)] s s1 := h1 ▸ RegsOutside.setFields _ _ _ _ b1
  have r2 : RegsOutside [(pg, Reg.TASK_FADDR t.task)] s1 s2 := h2 ▸ RegsOutside.setReg _ _ _ _ b2
  have r3 : RegsOutside [(pg, Reg.TASK_FPC t.task)] s2 s3 := h3 ▸ RegsOutside.setReg _ _ _ _ b3
  have r4 : RegsOutside [] s3 u := hu' ▸ RegsOutside.of_regs rfl
  have t3 : s3.tasks = s.tasks := by rw [← h3, ← h2, ← h1]; rfl
  have c3 : s3.crus = s.crus := by rw [← h3, ← h2, ← h1]; rfl
  have n1 : (pg, Reg.TASK_FAULT t.task) ∉ ([(pg, Reg.TASK_FADDR t.task)] ++ [(pg, Reg.TASK_FPC t.task)]) ++ [] := by
    simp [d12, d13]
  have keep (hi lo : Nat) : u.rf pg (Reg.TASK_FAULT t.task) hi lo = s1.rf pg (Reg.TASK_FAULT t.task) hi lo :=
    ((r2.comp r3).comp r4).rf hi lo b1 n1
  have e1 : s1.reg pg (Reg.TASK_FAULT t.task) = setFld (setFld (setFld (setFld (s.reg pg (Reg.TASK_FAULT t.task)) 7 0 f.code) 10 8
      f.unit) 12 11 (segOf f.addr)) 63 32 s.ts := by
    rw [← h1]; exact State.reg_setReg_same ..
  refine ⟨((r1.comp r2).comp r3).comp r4, ?_, ?_, ?_, ?_, ?_, ?_, ?_, ?_, ?_, ?_⟩
  · exact (TasksOutside.of_tasks t3).trans (hu' ▸ TasksOutside.setTask s3 t _)
  · rw [hu']; exact State.taskAt_setTask_same ..
  · rw [hu']; exact c3
  · rw [keep, State.rf, e1, fld_setFld_other _ _ _ _ _ _ (by decide) (by decide), fld_setFld_other _ _ _ _ _ _ (by decide) (by decide),
      fld_setFld_other _ _ _ _ _ _ (by decide) (by decide), fld_setFld_same _ _ _ _ (by decide)]
    exact Nat.mod_eq_of_lt hc
  · rw [keep, State.rf, e1, fld_setFld_other _ _ _ _ _ _ (by decide) (by decide), fld_setFld_other _ _ _ _ _ _ (by decide) (by decide),
      fld_setFld_same _ _ _ _ (by decide)]
    exact Nat.mod_eq_of_lt hu
  · rw [keep, State.rf, e1, fld_setFld_other _ _ _ _ _ _ (by decide) (by decide), fld_setFld_same _ _ _ _ (by decide)]
    exact Nat.mod_eq_of_lt hs
  · rw [keep, State.rf, e1, fld_setFld_same _ _ _ _ (by decide)]
    exact Nat.mod_eq_of_lt hts
  · rw [keep, State.rf, e1, fld_setFld_other _ _ _ _ _ _ (by decide) (by decide), fld_setFld_other _ _ _ _ _ _ (by decide) (by decide),
      fld_setFld_other _ _ _ _ _ _ (by decide) (by decide), fld_setFld_other _ _ _ _ _ _ (by decide) (by decide)]
    rfl
  · rw [(r3.comp r4) _ _ b2 (by simp [d23]), ← h2]; exact State.reg_setReg_same ..
  · rw [r4 _ _ b3 (by simp), ← h3]; exact State.reg_setReg_same ..

theorem RegsOutside.thenReport {l : List (Nat × Nat)} {s t : State} (h : RegsOutside l s t) (i c u d : Nat) (hc : c < 256) (hu : u < 8)
    (m : ∀ x ∈ reportRegs i, x ∈ l) : RegsOutside l s (t.report i c u d) :=
  h.trans ((State.report_frame t i c u d hc hu).1.mono m)

/-- A task fault up to its report: the record, the drain, the event and the counter. -/
theorem State.taskFault_split {s : State} {t : TaskRef} (f : FaultInfo) (h : (s.taskAt t).faultSeq = none) (hc : f.code < 256)
    (hu : f.unit < 8) :
    let pg := cruPage t.tile t.cru
    let rs := [(pg, Reg.TASK_FAULT t.task), (pg, Reg.TASK_FADDR t.task), (pg, Reg.TASK_FPC t.task), counter pg 12] ++ evtRegs pg
    ∃ (u : State) (c d : Nat), s.taskFault t f = u.report t.tile c (1 + t.cru.val) d ∧ c = (if f.code = fEcc then 2 else 1) ∧
      RegsOutside rs s u ∧ TasksWoken t s u ∧ CrusOutside t s u ∧
      (u.cru t.tile t.cru).works.all (fun w => w.task ≠ t.task || decide (w.seq ≤ f.seq)) = true ∧
      (s.noneAfter t f.seq = true → Frame [.regs, .tasks, .crus, .out, .fns] s u) ∧
      u.taskAt t = { s.taskAt t with st := .draining, wait := .none, after := .faulted, gate := none, load := none, pend := [],
                                     faultSeq := some f.seq, ask := none, aged := false } ∧
      u.rf pg (Reg.TASK_FAULT t.task) 7 0 = f.code ∧ u.rf pg (Reg.TASK_FAULT t.task) 10 8 = f.unit ∧
      u.rf pg (Reg.TASK_FAULT t.task) 12 11 = segOf f.addr ∧ u.rf pg (Reg.TASK_FAULT t.task) 63 32 = s.ts ∧
      u.rf pg (Reg.TASK_FAULT t.task) 19 16 = s.rf pg (Reg.TASK_FAULT t.task) 19 16 ∧
      u.reg pg (Reg.TASK_FADDR t.task) = BitVec.ofNat 64 f.addr.toNat ∧ u.reg pg (Reg.TASK_FPC t.task) = BitVec.ofNat 64 f.pc.toNat ∧
      Raised u pg 0 ∧ Counts s u pg 12 1 := by
  intro pg rs
  have hk := t.task.isLt
  have b1 : Reg.TASK_FAULT t.task < 4096 := by unfold Reg.TASK_FAULT; omega
  have b2 : Reg.TASK_FADDR t.task < 4096 := by unfold Reg.TASK_FADDR; omega
  have b3 : Reg.TASK_FPC t.task < 4096 := by unfold Reg.TASK_FPC; omega
  obtain ⟨g1, g2, g3, g4, g5, g6, g7, g8, g9, g10, g11⟩ := State.recordFault_fields f h hc hu
  unfold State.taskFault
  dsimp only
  generalize hs1 : s.recordFault t f = s1 at *
  generalize h2 : s1.setTask t.tile t.cru t.task _ = s2
  generalize h3 : s2.discard t.tile t.cru _ = s3
  generalize h4 : s3.raise _ 0 = s4
  generalize h5 : s4.bump _ 12 1 = s5
  have t2 : s2.taskAt t = { s.taskAt t with st := .draining, wait := .none, after := .faulted, gate := none, load := none, pend := [],
                                            faultSeq := some f.seq, ask := none, aged := false } := by
    rw [← h2, State.taskAt_setTask_same, State.task_eq, g3]
  have r2 : RegsOutside [] s1 s2 := RegsOutside.of_regs (by rw [← h2]; rfl)
  obtain ⟨d1, d2, d3, d4, d5⟩ := h3 ▸ State.discard_spec s2 t (fun w => w.task = t.task && decide (f.seq < w.seq))
  have r3 : RegsOutside [] s2 s3 := RegsOutside.of_regs d1
  have r4 : RegsOutside (evtRegs pg) s3 s4 := h4 ▸ RegsOutside.raise _ _ _
  have r5 : RegsOutside [counter pg 12] s4 s5 := h5 ▸ RegsOutside.bump _ _ 12 1 (by decide)
  have t5 : s5.tasks = s3.tasks := by
    have a : s5.tasks = s4.tasks := by rw [← h5]; rfl
    rw [a, ← h4, State.raise_tasks]
  have c53 : s5.crus = s3.crus := by
    have a : s5.crus = s4.crus := by rw [← h5]; rfl
    rw [a, ← h4]; exact State.raise_crus _ _ _
  have c2 : s2.crus = s.crus := by rw [← h2]; exact g4
  have c5 : CrusOutside t s s5 := ((CrusOutside.of_crus c2).trans d2).trans (CrusOutside.of_crus c53)
  have w5 : TasksWoken t s s5 := by
    intro q hq
    have e2 : s2.taskAt q = s.taskAt q := (h2 ▸ TasksOutside.setTask s1 t _ : TasksOutside t s1 s2) q hq |>.trans (g2 q hq)
    rw [State.taskAt_congr t5, d4 q, e2, State.cru_congr c53]
  have a5 : s5.taskAt t = s2.taskAt t := by
    rw [State.taskAt_congr t5, d4 t, if_pos rfl, t2]
    rfl
  have k5 := ((r2.comp r3).comp r4).comp r5
  have m1 (o : Nat) (ho : 0x200 ≤ o) : (pg, o) ∉ (([] ++ []) ++ evtRegs pg) ++ [counter pg 12] := by
    simp [evtRegs_eq, counter, Reg.COUNTER]
    omega
  have o1 : 0x200 ≤ Reg.TASK_FAULT t.task := by unfold Reg.TASK_FAULT; omega
  have o2 : 0x200 ≤ Reg.TASK_FADDR t.task := by unfold Reg.TASK_FADDR; omega
  have o3 : 0x200 ≤ Reg.TASK_FPC t.task := by unfold Reg.TASK_FPC; omega
  have n3 : (pg, Reg.EVT_RAW) ∉ [counter pg 12] := by
    simp [counter, Reg.COUNTER, Reg.EVT_RAW]
  have n5 : counter pg 12 ∉ [(pg, Reg.TASK_FAULT t.task), (pg, Reg.TASK_FADDR t.task), (pg, Reg.TASK_FPC t.task)] ++
      (([] ++ []) ++ evtRegs pg) := by
    simp [evtRegs_eq, counter, Reg.COUNTER, Reg.TASK_FAULT, Reg.TASK_FADDR, Reg.TASK_FPC]
    omega
  obtain ⟨c, d, hcd, hce⟩ : ∃ c d, (if f.code = fEcc then s5.report t.tile 2 (1 + t.cru.val) (f.off / 256)
      else s5.report t.tile 1 (1 + t.cru.val) (s5.rf pg (Reg.TASK_FAULT t.task) 31 0)) = s5.report t.tile c (1 + t.cru.val) d
      ∧ c = (if f.code = fEcc then 2 else 1) := by
    by_cases e : f.code = fEcc
    · exact ⟨2, _, by rw [if_pos e], by rw [if_pos e]⟩
    · exact ⟨1, _, by rw [if_neg e], by rw [if_neg e]⟩
  refine ⟨s5, c, d, hcd, hce, ?_, w5, c5, ?_, ?_, ?_, ?_, ?_, ?_, ?_, ?_, ?_, ?_, ?_, ?_⟩
  · refine (g1.comp k5).mono ?_
    intro x hx
    simp only [rs, List.mem_append, List.mem_cons, List.not_mem_nil] at *
    tauto
  · rw [State.cru_congr c53, d3, List.all_filter]
    simp only [List.all_eq_true]
    intro w _
    by_cases e : w.task = t.task
    · simpa [e] using Nat.lt_or_ge f.seq w.seq
    · simp [e]
  · intro hn
    have hn2 : (s2.cru t.tile t.cru).works.all (fun w => !(decide (w.task = t.task) && decide (f.seq < w.seq))) = true := by
      rw [State.cru_congr c2]
      rw [State.noneAfter, List.all_eq_true] at hn
      rw [List.all_eq_true]
      intro w hw
      have := hn w hw
      by_cases e : w.task = t.task <;> simp_all
    have k1 : Frame [.regs, .tasks, .crus, .out, .fns] s s1 :=
      hs1 ▸ ((State.recordFault_kept s t f).mono (m := [.regs, .tasks, .crus, .out, .fns]) rfl).frame
    have k2 : Frame [.regs, .tasks, .crus, .out, .fns] s1 s2 :=
      h2 ▸ ((State.setTask_kept s1 _ _ _ _).mono (m := [.regs, .tasks, .crus, .out, .fns]) rfl).frame
    have k3 : Frame [.regs, .tasks, .crus, .out, .fns] s2 s3 := (d5 hn2).mono rfl
    have k4 : Frame [.regs, .tasks, .crus, .out, .fns] s3 s4 :=
      h4 ▸ ((State.raise_kept s3 _ 0).mono (m := [.regs, .tasks, .crus, .out, .fns]) rfl).frame
    have k5 : Frame [.regs, .tasks, .crus, .out, .fns] s4 s5 :=
      h5 ▸ ((State.bump_kept s4 _ 12 1).mono (m := [.regs, .tasks, .crus, .out, .fns]) rfl).frame
    exact (((k1.trans k2).trans k3).trans k4).trans k5
  · exact a5.trans t2
  · exact (k5.rf 7 0 b1 (m1 _ o1)).trans g5
  · exact (k5.rf 10 8 b1 (m1 _ o1)).trans g6
  · exact (k5.rf 12 11 b1 (m1 _ o1)).trans g7
  · exact (k5.rf 63 32 b1 (m1 _ o1)).trans g8
  · exact (k5.rf 19 16 b1 (m1 _ o1)).trans g9
  · exact (k5 _ _ b2 (m1 _ o2)).trans g10
  · exact (k5 _ _ b3 (m1 _ o3)).trans g11
  · exact Raised.outside (h4 ▸ Raised.raise s3 pg 0 (by decide)) r5 n3
  · exact Counts.before (g1.comp ((r2.comp r3).comp r4)) (h5 ▸ Counts.bump s4 _ 12 1) (by decide) n5

/-- A task fault where the record was empty. -/
theorem State.taskFault_faultedAt {s : State} {t : TaskRef} (f : FaultInfo) (h : (s.taskAt t).faultSeq = none) (hc : f.code < 256)
    (hu : f.unit < 8) : FaultedAt t f.seq f.code f.unit f.addr f.pc [] [] s (s.taskFault t f) := by
  have hk := t.task.isLt
  have hi := t.tile.isLt
  have hr := t.cru.isLt
  have b1 : Reg.TASK_FAULT t.task < 4096 := by unfold Reg.TASK_FAULT; omega
  have b2 : Reg.TASK_FADDR t.task < 4096 := by unfold Reg.TASK_FADDR; omega
  have b3 : Reg.TASK_FPC t.task < 4096 := by unfold Reg.TASK_FPC; omega
  have hfr : Frame [.regs, .tasks, .crus, .slots, .reports, .out, .fns, .fresh, .pool, .peat, .probes, .rx] s (s.taskFault t f) :=
    ((State.taskFault_kept s t f).mono (m := [.regs, .tasks, .crus, .slots, .reports, .out, .fns, .fresh, .pool, .peat, .probes, .rx])
      rfl).frame
  obtain ⟨s5, c, d, he, hce, k5, t5, c5, gw, gn, g3, g5, g6, g7, g8, g9, g10, g11, gr, gc⟩ := State.taskFault_split f h hc hu
  have hcl : c < 256 := by rw [hce]; split <;> decide
  rw [he] at hfr ⊢
  obtain ⟨p1, p2, p3, p4, p5⟩ := State.report_frame s5 t.tile c (1 + t.cru.val) d hcl (by omega)
  have t6 := State.report_tasks s5 t.tile c (1 + t.cru.val) d
  have c6 := State.report_crus s5 t.tile c (1 + t.cru.val) d
  have fr6 : Frame [.regs, .tasks, .crus, .reports, .out, .fns] s5 (s5.report t.tile c (1 + t.cru.val) d) :=
    ((State.report_kept s5 _ _ _ _).mono (m := [.regs, .tasks, .crus, .reports, .out, .fns]) rfl).frame
  generalize s5.report t.tile c (1 + t.cru.val) d = s6 at *
  have m1 (o : Nat) (ho : 0x200 ≤ o) : (cruPage t.tile t.cru, o) ∉ reportRegs t.tile := by
    simp [evtRegs_eq, reportRegs, counter, Reg.COUNTER, Reg.FAULT_REC, Reg.FAULT_INFO, cruPage_eq, faultPage_eq]
    omega
  have o1 : 0x200 ≤ Reg.TASK_FAULT t.task := by unfold Reg.TASK_FAULT; omega
  have o2 : 0x200 ≤ Reg.TASK_FADDR t.task := by unfold Reg.TASK_FADDR; omega
  have o3 : 0x200 ≤ Reg.TASK_FPC t.task := by unfold Reg.TASK_FPC; omega
  have n3 : (cruPage t.tile t.cru, Reg.EVT_RAW) ∉ reportRegs t.tile := by
    simp [evtRegs_eq, reportRegs, counter, Reg.COUNTER, Reg.FAULT_REC, Reg.FAULT_INFO, cruPage_eq, faultPage_eq, Reg.EVT_RAW]
    omega
  have n4 : counter (cruPage t.tile t.cru) 12 ∉ reportRegs t.tile := by
    simp [evtRegs_eq, reportRegs, counter, Reg.COUNTER, Reg.FAULT_REC, Reg.FAULT_INFO, cruPage_eq, faultPage_eq]
  have n6 : counter (faultPage t.tile) 0 ∉ [(cruPage t.tile t.cru, Reg.TASK_FAULT t.task), (cruPage t.tile t.cru, Reg.TASK_FADDR t.task),
      (cruPage t.tile t.cru, Reg.TASK_FPC t.task), counter (cruPage t.tile t.cru) 12] ++ evtRegs (cruPage t.tile t.cru) := by
    simp [evtRegs_eq, counter, Reg.COUNTER, Reg.TASK_FAULT, Reg.TASK_FADDR, Reg.TASK_FPC, cruPage_eq, faultPage_eq]
    omega
  refine ⟨hfr, fun hn => ((gn hn).mono rfl).trans fr6, ?_, ?_, ?_, ?_, ?_, ?_, ?_, ?_, ?_, ?_, ?_, ?_, ?_, ?_, p2, ?_, p4, p5.trans hce⟩
  · refine (k5.comp p1).mono ?_
    intro x hx
    simp only [reportRegs, List.mem_append, List.mem_cons, List.not_mem_nil] at hx ⊢
    clear * - hx
    tauto
  · intro q hq
    rw [State.taskAt_congr t6, t5 q hq, State.cru_congr c6]
  · exact c5.trans (CrusOutside.of_crus c6)
  · rw [State.cru_congr c6]
    exact gw
  · rw [State.taskAt_congr t6, g3]
  · exact (p1.rf 7 0 b1 (m1 _ o1)).trans g5
  · exact (p1.rf 10 8 b1 (m1 _ o1)).trans g6
  · exact (p1.rf 12 11 b1 (m1 _ o1)).trans g7
  · exact (p1.rf 63 32 b1 (m1 _ o1)).trans g8
  · exact (p1.rf 19 16 b1 (m1 _ o1)).trans g9
  · exact (p1 _ _ b2 (m1 _ o2)).trans g10
  · exact (p1 _ _ b3 (m1 _ o3)).trans g11
  · exact Raised.outside gr p1 n3
  · exact gc.after p1 (by decide) n4
  · exact Counts.before k5 p3 (by decide) n6

theorem State.taskFault_faulted {s : State} {t : TaskRef} (f : FaultInfo) (h : (s.taskAt t).faultSeq = none) (hc : f.code < 256)
    (hu : f.unit < 8) (hq : f.seq = (s.taskAt t).seq) : Faulted t f.code f.unit f.addr f.pc [] s (s.taskFault t f) := by
  unfold Faulted
  rw [← hq]
  exact State.taskFault_faultedAt f h hc hu

end Sys2Proof.Machine
end

