-- ==== Sys2Proof/Laws/Memory.lean ====
section
/-! SUPPORT. Bytes read after a write, and what the gathering buffer's operations change. -/
namespace Sys2Proof.Machine

/-! ### Bytes -/

/-- A byte after bytes were put into a store. -/
theorem Store.get_putBytes (m : Store Byte) (key k : Nat) (bs : List Byte) :
    Store.get 0 (putBytes m key bs) k = if h : key ≤ k ∧ k - key < bs.length then bs[k - key]'h.2 else Store.get 0 m k := by
  induction bs generalizing m key with
  | nil => simp [putBytes]
  | cons b r ih =>
    rw [putBytes, ih]
    by_cases h : key + 1 ≤ k ∧ k - (key + 1) < r.length
    · have e : k - key = (k - (key + 1)) + 1 := by omega
      rw [dif_pos h, dif_pos ⟨by omega, by simp only [List.length_cons]; omega⟩]
      simp only [e, List.getElem_cons_succ]
    · rw [dif_neg h]
      by_cases hk : k = key
      · subst hk
        rw [Store.get_set_same, dif_pos ⟨le_refl _, by simp⟩]
        simp
      · rw [Store.get_set_other _ _ _ _ _ (fun c => hk c.symm), dif_neg]
        simp only [List.length_cons]
        omega

theorem getBytes_length (m : Store Byte) (key n : Nat) : (getBytes m key n).length = n := by
  induction n generalizing key with
  | zero => rfl
  | succ n ih => simp [getBytes, ih]

theorem getBytes_get (m : Store Byte) (key n i : Nat) (h : i < (getBytes m key n).length) : (getBytes m key n)[i] = Store.get 0 m (key + i) := by
  induction n generalizing key i with
  | zero => simp [getBytes] at h
  | succ n ih =>
    cases i with
    | zero => rfl
    | succ i =>
      simp only [getBytes, List.getElem_cons_succ]
      rw [ih]
      congr 1
      omega

/-- Bytes read where they were put. -/
theorem getBytes_putBytes (m : Store Byte) (key : Nat) (bs : List Byte) : getBytes (putBytes m key bs) key bs.length = bs := by
  apply List.ext_getElem (getBytes_length _ _ _)
  intro i h1 h2
  rw [getBytes_get, Store.get_putBytes, dif_pos ⟨by omega, by omega⟩]
  congr 1
  omega

theorem leBytes_length (n x : Nat) : (leBytes n x).length = n := by
  induction n generalizing x with
  | zero => rfl
  | succ n ih => simp [leBytes, ih]

theorem leBytes_get (n x i : Nat) (h : i < (leBytes n x).length) : (leBytes n x)[i] = BitVec.ofNat 8 (x / 2 ^ (8 * i)) := by
  induction n generalizing x i with
  | zero => simp [leBytes] at h
  | succ n ih =>
    cases i with
    | zero => simp [leBytes]
    | succ i =>
      simp only [leBytes, List.getElem_cons_succ]
      rw [ih, Nat.div_div_eq_div_mul]
      congr 2
      rw [show 8 * (i + 1) = 8 + 8 * i by ring, pow_add]
      norm_num

/-- A range shorter than a line covers none wholly. -/
theorem fullLines_short (w off n : Nat) (h : n < w) : fullLines w off n = [] := by
  unfold fullLines
  rw [List.filter_eq_nil_iff]
  intro l _
  simp only [Bool.and_eq_true, decide_eq_true_eq, not_and, Nat.add_mul, Nat.one_mul]
  omega

theorem RegsOutside.countPool (s : State) (tile : Nat) (r : List (Nat × Nat)) :
    RegsOutside [counter (poolPage tile) 0, counter (poolPage tile) 1] s (s.countPool tile r) := by
  unfold State.countPool
  dsimp only
  exact ((RegsOutside.refl _ _).thenBump _ _ _ (by decide) (by simp)).thenBump _ _ _ (by decide) (by simp)

/-! ### The gathering buffer -/

/-- What the gathering buffer's operations leave: counters of the PEAT page and the buffer itself may change, no other crucible does. -/
structure GbKept (tile cru : Nat) (s u : State) : Prop where
  regs : RegsOutside (gbRegs tile) s u
  other : ∀ i k, cruKey i k ≠ cruKey tile cru → u.cru i k = s.cru i k
  own : u.cru tile cru = { s.cru tile cru with gb := (u.cru tile cru).gb }

theorem GbKept.refl (tile cru : Nat) (s : State) : GbKept tile cru s s := ⟨RegsOutside.refl _ _, fun _ _ _ => rfl, rfl⟩

theorem GbKept.trans {tile cru : Nat} {r s t : State} (h : GbKept tile cru r s) (k : GbKept tile cru s t) : GbKept tile cru r t := by
  refine ⟨h.regs.trans k.regs, fun i c n => (k.other i c n).trans (h.other i c n), ?_⟩
  rw [k.own, h.own]

theorem GbKept.same {tile cru : Nat} {s u : State} (h : RegsOutside (gbRegs tile) s u) (hc : u.crus = s.crus) : GbKept tile cru s u := by
  refine ⟨h, fun i k _ => State.cru_congr hc i k, ?_⟩
  rw [State.cru_congr hc]

theorem GbKept.setGb (tile cru : Nat) (s : State) (g : List GbEntry) :
    GbKept tile cru s (s.setCru tile cru { s.cru tile cru with gb := g }) := by
  refine ⟨RegsOutside.of_regs rfl, fun i k n => ?_, ?_⟩
  · exact Store.get_set_other _ _ _ _ _ (fun c => n c.symm)
  · rw [State.cru_setCru_same]

theorem State.flushEntry_regs (s : State) (tile : Nat) (e : GbEntry) :
    RegsOutside (gbRegs tile) s (s.flushEntry tile e) ∧ (s.flushEntry tile e).crus = s.crus := by
  unfold State.flushEntry
  dsimp only
  generalize hs : (if e.valid.length = 256 then _ else _ : State) = s1
  have r1 : RegsOutside (gbRegs tile) s s1 := RegsOutside.of_regs (by rw [← hs]; split <;> rfl)
  have c1 : s1.crus = s.crus := by rw [← hs]; split <;> rfl
  have r2 := (r1.thenBump (peatPage tile) 2 1 (by decide) (by simp [gbRegs])).thenBump (peatPage tile) 1 1 (by decide) (by simp [gbRegs])
  split
  · exact ⟨(r2.thenBump (peatPage tile) 3 1 (by decide) (by simp [gbRegs])).thenBump (peatPage tile) 0 1 (by decide) (by simp [gbRegs]), c1⟩
  · exact ⟨r2, c1⟩

theorem State.flushList_gb (s : State) (tile cru : Nat) (l : List GbEntry) : GbKept tile cru s (s.flushList tile l) := by
  induction l generalizing s with
  | nil => exact GbKept.refl _ _ _
  | cons e r ih => exact (GbKept.same (State.flushEntry_regs s tile e).1 (State.flushEntry_regs s tile e).2).trans (ih _)

theorem State.gbFlushAll_gb (s : State) (tile cru : Nat) : GbKept tile cru s (s.gbFlushAll tile cru) :=
  (GbKept.setGb tile cru s []).trans (State.flushList_gb _ tile cru _)

theorem State.gbFlushOn_gb (s : State) (tile cru : Nat) : GbKept tile cru s (s.gbFlushOn tile cru) :=
  (GbKept.setGb tile cru s _).trans (State.flushList_gb _ tile cru _)

theorem State.gbFlushLine_gb (s : State) (tile cru line : Nat) : GbKept tile cru s (s.gbFlushLine tile cru line) :=
  (GbKept.setGb tile cru s _).trans (State.flushList_gb _ tile cru _)

theorem State.gbWrite_gb (s : State) (tile cru line o : Nat) (bs : List Byte) : GbKept tile cru s (s.gbWrite tile cru line o bs) := by
  unfold State.gbWrite
  extract_lets c old rest e victim kept t
  have h : GbKept tile cru s t := (GbKept.setGb tile cru s _).trans (State.flushList_gb _ tile cru _)
  split
  · exact h.trans (State.gbFlushLine_gb _ _ _ _)
  · exact h

theorem State.writePeat_gb (s : State) (tile cru off : Nat) (bs : List Byte) : GbKept tile cru s (s.writePeat tile off bs) := by
  refine GbKept.same ?_ rfl
  unfold State.writePeat
  dsimp only
  exact (RegsOutside.of_regs rfl).thenBump (peatPage tile) 1 _ (by decide) (by simp [gbRegs])

theorem State.crucibleWritePeat_gb (fuel : Nat) (s : State) (tile cru off : Nat) (bs : List Byte) :
    GbKept tile cru s (s.crucibleWritePeat tile cru off bs fuel) := by
  induction fuel generalizing s off bs with
  | zero => exact GbKept.refl _ _ _
  | succ n ih =>
    unfold State.crucibleWritePeat
    split
    · exact GbKept.refl _ _ _
    · dsimp only
      refine GbKept.trans ?_ (ih _ _ _)
      split
      · exact (State.gbFlushLine_gb _ _ _ _).trans (State.writePeat_gb _ _ _ _ _)
      · exact State.gbWrite_gb _ _ _ _ _ _

/-- A retirement after the gathering buffer did something, and other fields and registers were written. -/
theorem GbKept.retires {t : TaskRef} {rs : List (Nat × Nat)} {fs : List Field} {pc : Addr} {s s1 s2 u : State}
    (g : GbKept t.tile t.cru s s1) (r2 : RegsOutside rs s1 s2) (hc : s2.crus = s1.crus) (ht : s2.tasks = s.tasks)
    (hf : Frame ([.regs, .tasks, .crus] ++ fs) s s2) (h : Retires t pc s2 u)
    (hn : ∀ k, k < 16 → counter (cruPage t.tile t.cru) k ∉ rs) : RetiresTo t fs (gbRegs t.tile ++ rs) pc s u := by
  have e := State.cru_congr hc t.tile t.cru
  have hi := t.tile.isLt
  have hk := t.cru.isLt
  have hm (k : Nat) (hk : k < 16) : counter (cruPage t.tile t.cru) k ∉ gbRegs t.tile ++ rs := by
    rw [List.mem_append, not_or]
    refine ⟨?_, hn k hk⟩
    simp [gbRegs, counter, cruPage, peatPage, tilePage]
    omega
  refine RetiresTo.after h hf (g.regs.comp r2) (TasksOutside.of_tasks ht) ?_ ?_ ?_ (hm 0 (by decide)) (hm 4 (by decide)) (hm 13 (by decide))
  · exact (show CrusOutside t s s1 from fun i k n => g.other i k (fun c => cruKey_ne n c.symm)).trans (CrusOutside.of_crus hc)
  · rw [e, g.own]
  · rw [State.taskAt_congr ht]

theorem State.flushList_crus (s : State) (tile : Nat) (l : List GbEntry) : (s.flushList tile l).crus = s.crus := by
  induction l generalizing s with
  | nil => rfl
  | cons e l ih =>
    unfold State.flushList
    rw [ih]
    exact (State.flushEntry_regs _ _ _).2

/-- The buffer is empty after it flushed. -/
theorem State.gbFlushAll_empty (s : State) (tile cru : Nat) : ((s.gbFlushAll tile cru).cru tile cru).gb = [] := by
  show (((s.setCru tile cru _).flushList tile _).cru _ _).gb = []
  rw [State.cru_congr (State.flushList_crus _ _ _), State.cru_setCru_same]

/-- What stays in the buffer after the entries that could flush did. -/
theorem State.gbFlushOn_left (s : State) (tile cru : Nat) :
    ((s.gbFlushOn tile cru).cru tile cru).gb = (s.cru tile cru).gb.filter (fun e => !s.entryReady tile e) := by
  show (((s.setCru tile cru _).flushList tile _).cru _ _).gb = _
  rw [State.cru_congr (State.flushList_crus _ _ _), State.cru_setCru_same]

/-- An instruction of four bytes that changed other state and then its task's registers retires. -/
theorem GbKept.retireWith {t : TaskRef} {rs : List (Nat × Nat)} {fs : List Field} {s s1 s2 : State} (g : GbKept t.tile t.cru s s1)
    (r2 : RegsOutside rs s1 s2) (hc : s2.crus = s1.crus) (ht : s2.tasks = s.tasks) (hf : Frame ([.regs, .tasks, .crus] ++ fs) s s2)
    (hn : ∀ k, k < 16 → counter (cruPage t.tile t.cru) k ∉ rs) (f : Task → Task) (hp : (f (s.taskAt t)).pc = (s.taskAt t).pc)
    (hg : (f (s.taskAt t)).aged = (s.taskAt t).aged) :
    let u := (s2.onTask t f).retire t 4
    RetiresTo t fs (gbRegs t.tile ++ rs) (s.nextPc t 4) s u ∧
    u.taskAt t = { f (s.taskAt t) with st := .ready, wait := .none, pc := s.nextPc t 4, aged := false } ∧
    Frame [.regs, .tasks, .crus] s2 u ∧
    RegsOutside [counter (cruPage t.tile t.cru) 0, counter (cruPage t.tile t.cru) 4, counter (cruPage t.tile t.cru) 13] s2 u ∧
    (u.cru t.tile t.cru).gb = (s2.cru t.tile t.cru).gb := by
  intro u
  have e2 : s2.taskAt t = s.taskAt t := State.taskAt_congr ht t
  have eu : u = (s2.setTask t.tile t.cru t.task (f (s.taskAt t))).goTo t (s.nextPc t 4) := by
    show (s2.onTask t f).retire t 4 = _
    unfold State.retire State.onTask
    rw [State.task_eq, State.task_eq, State.taskAt_setTask_same, e2, hp]
    rfl
  obtain ⟨b, c⟩ := State.goTo_retires (s2.setTask t.tile t.cru t.task (f (s.taskAt t))) t (s.nextPc t 4)
  rw [← eu] at b c
  rw [State.taskAt_setTask_same] at c
  have b' := b.after (by rw [hg, e2])
  refine ⟨g.retires r2 hc ht hf b' hn, c, ?_, b'.1.2.1.mono (by simp), ?_⟩
  · intro x hx
    exact b'.1.1 x (by simpa using hx)
  · rw [b'.2.1]
    rfl

/-- An instruction of four bytes that changed other state retires. -/
theorem GbKept.retire4 {t : TaskRef} {rs : List (Nat × Nat)} {fs : List Field} {s s1 s2 : State} (g : GbKept t.tile t.cru s s1)
    (r2 : RegsOutside rs s1 s2) (hc : s2.crus = s1.crus) (ht : s2.tasks = s.tasks) (hf : Frame ([.regs, .tasks, .crus] ++ fs) s s2)
    (hn : ∀ k, k < 16 → counter (cruPage t.tile t.cru) k ∉ rs) :
    let u := s2.retire t 4
    RetiresTo t fs (gbRegs t.tile ++ rs) (s.nextPc t 4) s u ∧ SetsNone (s.taskAt t) (u.taskAt t) ∧ Frame [.regs, .tasks, .crus] s2 u ∧
    RegsOutside [counter (cruPage t.tile t.cru) 0, counter (cruPage t.tile t.cru) 4, counter (cruPage t.tile t.cru) 13] s2 u ∧
    (u.cru t.tile t.cru).gb = (s2.cru t.tile t.cru).gb := by
  intro u
  have e2 : s2.taskAt t = s.taskAt t := State.taskAt_congr ht t
  have eu : u = s2.goTo t (s.nextPc t 4) := by
    show s2.retire t 4 = _
    unfold State.retire
    rw [State.task_eq, e2]
    rfl
  obtain ⟨b, c⟩ := State.goTo_retires s2 t (s.nextPc t 4)
  rw [← eu] at b c
  rw [e2] at c
  refine ⟨g.retires r2 hc ht hf b hn, SetsNone.of c, fun x hx => b.1.1 x (by simpa using hx), b.1.2.1.mono (by simp), ?_⟩
  rw [b.2.1]
  rfl

/-- The same without the gathering buffer. -/
theorem State.retireWith {t : TaskRef} {rs : List (Nat × Nat)} {fs : List Field} {s s2 : State}
    (r2 : RegsOutside rs s s2) (hc : s2.crus = s.crus) (ht : s2.tasks = s.tasks) (hf : Frame ([.regs, .tasks, .crus] ++ fs) s s2)
    (hn : ∀ k, k < 16 → counter (cruPage t.tile t.cru) k ∉ rs) (f : Task → Task) (hp : (f (s.taskAt t)).pc = (s.taskAt t).pc)
    (hg : (f (s.taskAt t)).aged = (s.taskAt t).aged) :
    let u := (s2.onTask t f).retire t 4
    RetiresTo t fs rs (s.nextPc t 4) s u ∧
    u.taskAt t = { f (s.taskAt t) with st := .ready, wait := .none, pc := s.nextPc t 4, aged := false } ∧
    Frame [.regs, .tasks, .crus] s2 u ∧
    RegsOutside [counter (cruPage t.tile t.cru) 0, counter (cruPage t.tile t.cru) 4, counter (cruPage t.tile t.cru) 13] s2 u := by
  intro u
  have e2 : s2.taskAt t = s.taskAt t := State.taskAt_congr ht t
  have eu : u = (s2.setTask t.tile t.cru t.task (f (s.taskAt t))).goTo t (s.nextPc t 4) := by
    show (s2.onTask t f).retire t 4 = _
    unfold State.retire State.onTask
    rw [State.task_eq, State.task_eq, State.taskAt_setTask_same, e2, hp]
    rfl
  obtain ⟨b, c⟩ := State.goTo_retires (s2.setTask t.tile t.cru t.task (f (s.taskAt t))) t (s.nextPc t 4)
  rw [← eu] at b c
  rw [State.taskAt_setTask_same] at c
  have b' := b.after (by rw [hg, e2])
  refine ⟨RetiresTo.after b' hf r2 (TasksOutside.of_tasks ht) (CrusOutside.of_crus hc) (by rw [State.cru_congr hc]) (by rw [e2])
    (hn 0 (by decide)) (hn 4 (by decide)) (hn 13 (by decide)), c, ?_, b'.1.2.1.mono (by simp)⟩
  intro x hx
  exact b'.1.1 x (by simpa using hx)

/-- A fault after other changes: they add their fields and registers. -/
theorem FaultedAt.before {t : TaskRef} {seq code unit : Nat} {addr pc : Addr} {fs fs0 gs : List Field} {rs rs0 : List (Nat × Nat)}
    {s s1 u : State} (h : FaultedAt t seq code unit addr pc fs0 rs0 s1 u) (hf : Frame gs s s1)
    (h0 : ∀ f ∈ fs0, f ∈ fs) (hg : ∀ f ∈ gs, f ∈ [.regs, .tasks, .crus, .reports, .out, .fns] ++ fs) (ht : s1.tasks = s.tasks)
    (hc : CrusOutside t s s1) (hw : s.noneAfter t seq = true → s1.noneAfter t seq = true) (hn : .now ∉ gs) (hr : RegsOutside rs s s1)
    (h1 : (cruPage t.tile t.cru, Reg.TASK_FAULT t.task) ∉ rs) (h2 : counter (cruPage t.tile t.cru) 12 ∉ rs)
    (h3 : counter (faultPage t.tile) 0 ∉ rs) : FaultedAt t seq code unit addr pc fs (rs0 ++ rs) s u := by
  have hk := t.task.isLt
  have et : s1.taskAt t = s.taskAt t := State.taskAt_congr ht t
  have en : s1.ts = s.ts := by unfold State.ts; rw [show s1.now = s.now from hf .now hn]
  have hg' : ∀ f ∈ gs, f ∈ [.regs, .tasks, .crus, .slots, .reports, .out, .fns, .fresh, .pool, .peat, .probes, .rx] ++ fs := by
    intro f hm
    have := hg f hm
    simp only [List.mem_append, List.mem_cons, List.not_mem_nil] at this ⊢
    tauto
  obtain ⟨a, a', b, c, d, w, e, f1, f2, f3, f4, f5, f6, f7, f8, f9, f10, f11, f12, f13⟩ := h
  rw [et] at e
  refine ⟨fun f hn => ?_, fun hx f hn => ?_, ?_, ?_, hc.trans d, w, e, f1, f2,
    f3, ?_, ?_, f6, f7, f8, ?_, f10, ?_, f12, f13⟩
  · have p := hf f (fun c => hn (hg' f c))
    have q := a f (fun c => hn ((List.mem_append.mp c).elim (List.mem_append_left _) (fun d => List.mem_append_right _ (h0 f d))))
    cases f <;> exact Eq.trans q p
  · have p := hf f (fun c => hn (hg f c))
    have q := a' (hw hx) f (fun c => hn ((List.mem_append.mp c).elim (List.mem_append_left _) (fun d => List.mem_append_right _ (h0 f d))))
    cases f <;> exact Eq.trans q p
  · refine (hr.comp b).mono ?_
    intro x hx
    simp only [List.mem_append] at hx ⊢
    clear * - hx
    tauto
  · intro q hq
    rw [c q hq, State.taskAt_congr ht]
  · rw [f4, en]
  · rw [f5]
    exact hr.rf 19 16 (by unfold Reg.TASK_FAULT; omega) h1
  · exact Counts.before hr f9 (by decide) h2
  · exact Counts.before hr f11 (by decide) h3

/-- A task fault after other registers were written: these hold nothing of the fault's own. -/
theorem Faulted.before {t : TaskRef} {code unit : Nat} {addr pc : Addr} {rs : List (Nat × Nat)} {s s1 u : State}
    (h : Faulted t code unit addr pc [] s1 u) (hf : Frame [.regs, .out, .fns] s s1) (hr : RegsOutside rs s s1)
    (h1 : (cruPage t.tile t.cru, Reg.TASK_FAULT t.task) ∉ rs) (h2 : counter (cruPage t.tile t.cru) 12 ∉ rs)
    (h3 : counter (faultPage t.tile) 0 ∉ rs) : Faulted t code unit addr pc rs s u := by
  have et : s1.taskAt t = s.taskAt t := State.taskAt_congr (hf .tasks (by decide)) t
  unfold Faulted at h ⊢
  rw [et] at h
  exact h.before hf (by simp) (by decide) (hf .tasks (by decide)) (CrusOutside.of_crus (hf .crus (by decide)))
    (fun k => by rw [State.noneAfter, State.cru_congr (hf .crus (by decide))]; exact k) (by decide) hr h1 h2 h3

/-! ### Gates -/

theorem State.gate_setGate (s : State) (i j : TileIx) (g h : BitVec 10) (v : W32) :
    (s.setGate i g.toNat v).gate j h.toNat = if j = i ∧ h = g then v else s.gate j h.toNat := by
  unfold State.gate State.setGate gateKey
  dsimp only
  rw [Store.get_set]
  have a := g.isLt
  have b := h.isLt
  by_cases e : j = i ∧ h = g
  · rw [if_pos e, if_pos (by rw [e.1, e.2])]
  · rw [if_neg e, if_neg]
    intro c
    apply e
    refine ⟨Fin.ext (by omega), BitVec.eq_of_toNat_eq (by omega)⟩

theorem State.gate_congr {s u : State} (h : u.gates = s.gates) (i g : Nat) : u.gate i g = s.gate i g := by
  unfold State.gate
  rw [h]

end Sys2Proof.Machine
end

