-- ==== Sys2Proof/Laws/Write.lean ====
section
/-! SUPPORT. A register write that is admitted, once: what `writeCore` answers. -/
namespace Sys2Proof.Machine

/-- A page answers and the guard, where the register needs one, is the writer's. -/
theorem State.writeCore_admits {s : State} {who : Requester} {page off : Nat} (v : W64) (hl : s.pageLive page = true)
    (h8 : off % 8 = 0) (he : off ≠ Reg.EVT_EN) (hr : (regAt page off).isSome = true)
    (ha : accMask page off .gw = 0 ∨ s.guardOwner page = whoCode who) :
    ∃ g : State, Kept [.guards, .shadows, .sealRun] s g ∧
      g.guards = (if accMask page off .gw = 0 then s.guards else (s.closeGuard page).guards) ∧
      g.sealRun = (if accMask page off .sl = 0 then s.sealRun else s.sealTouch.sealRun) ∧ s.writeCore who page off .b64 v =
      ⟨g.storeReg page off (mix (accMask page off .rw ||| accMask page off .sl ||| accMask page off .gw) (s.stored page off) v &&&
          ~~~(accMask page off .w1c &&& v)), off, accMask page off .rw ||| accMask page off .sl ||| accMask page off .gw, v,
        (s.dropShadow who page).view who page off⟩ := by
  have k0 : Kept [.guards, .shadows, .sealRun] s (s.dropShadow who page) := (State.dropShadow_kept s who page).mono rfl
  have hl' : (s.dropShadow who page).pageLive page = true := hl
  obtain ⟨r, hr'⟩ := Option.isSome_iff_exists.mp hr
  have hm : (0xFFFFFFFFFFFFFFFF : W64) = BitVec.allOnes 64 := rfl
  unfold State.writeCore
  extract_lets s0 val
  have e1 : reach off .b64 = some (off, 0xFFFFFFFFFFFFFFFF) := if_pos h8
  have e2 : (if s0.pageLive page then regAt page (off - off % 8) else none) = some r := by
    rw [show s0.pageLive page = true from hl', if_pos rfl, h8, Nat.sub_zero, hr']
  rw [e1, e2]
  dsimp -zeta only
  extract_lets old gw admits s1 m sl s2 cur w1c
  have ha1 (x : W64) : x &&& 0xFFFFFFFFFFFFFFFF = x := by rw [hm, BitVec.and_allOnes]
  have ha2 (x : W64) : 0xFFFFFFFFFFFFFFFF &&& x = x := by rw [hm, BitVec.allOnes_and]
  have es (x : State) (hx : Kept [.guards, .shadows, .sealRun] s x) (ex : x.sealRun = s.sealRun) (e : s1 = x) :
      Kept [.guards, .shadows, .sealRun] s s2 ∧ s2.guards = x.guards ∧
        s2.sealRun = (if accMask page off .sl = 0 then s.sealRun else s.sealTouch.sealRun) := by
    have esl : sl = accMask page off .sl := ha1 _
    unfold s2
    rw [esl, e]
    by_cases c : accMask page off .sl = 0
    · rw [if_pos c, if_neg (fun d => d c)]
      exact ⟨hx, rfl, ex⟩
    · rw [if_neg c, if_pos c]
      refine ⟨hx.step (State.sealTouch_kept _) rfl, ?_, ?_⟩
      · unfold State.sealTouch
        split <;> rfl
      · have eu : x.up = s.up := hx.frame .up (by decide)
        unfold State.sealTouch
        rw [ex, eu]
        split <;> simp only [ex]
  have hw1 : w1c = accMask page off .w1c &&& v := by unfold w1c; rw [ha1]; rfl
  have hk : (Kept [.guards, .shadows, .sealRun] s s2 ∧
      s2.guards = (if accMask page off .gw = 0 then s.guards else (s.closeGuard page).guards) ∧
      s2.sealRun = (if accMask page off .sl = 0 then s.sealRun else s.sealTouch.sealRun)) ∧ m = accMask page off .rw ||| accMask page off .sl ||| accMask page off .gw := by
    by_cases hg : accMask page off .gw = 0
    · have eg : decide (gw ≠ 0) = false := decide_eq_false (fun c => c hg)
      have ead : admits = false := by unfold admits; rw [eg]; rfl
      rw [if_pos hg]
      refine ⟨es s0 k0 rfl ?_, ?_⟩
      · unfold s1
        rw [ead, if_neg (by decide), eg, Bool.false_and, if_neg (by decide)]
      · unfold m writeMask
        rw [ead, if_neg he, ha2, ha2, hg]
        simp
    · have hw : s0.guardOwner page = whoCode who := ha.resolve_left hg
      have ead : admits = true := by
        unfold admits
        rw [decide_eq_true (show gw ≠ 0 from hg), decide_eq_true hw]
        rfl
      rw [if_neg hg]
      refine ⟨es (s0.closeGuard page) (k0.step (State.closeGuard_kept _ _) rfl) rfl ?_, ?_⟩
      · unfold s1
        rw [ead, if_pos rfl]
      · unfold m writeMask
        rw [ead, if_neg he, ha2, ha2, if_pos rfl]
  refine ⟨s2, hk.1.1, hk.1.2.1, hk.1.2.2, ?_⟩
  have hc : cur = s.stored page off := by
    have f := hk.1.1.frame
    unfold cur State.stored State.winKey
    simp only [State.reg_congr (f .regs (by decide)), show s2.wins = s.wins from f .wins (by decide)]
  rw [hw1, hk.2, hc]
  rfl

/-! ### Registers of like pages -/

/-- Every register of a class is on each of its pages. -/
def plainClass (c : Nat) : Bool := (Reg.tableHead ++ Reg.tableOf c).all (fun r => match r.on with | .every => true | _ => false)

theorem regAt_like {p q c i j a b : Nat} (hp : pageInfo p = some ⟨c, i, a⟩) (hq : pageInfo q = some ⟨c, j, b⟩)
    (hc : plainClass c = true) (off : Nat) : regAt p off = regAt q off := by
  unfold regAt
  rw [hp, hq]
  dsimp only
  have h (l : List RegDef) (hl : l.all (fun r => match r.on with | .every => true | _ => false) = true) :
      l.find? (fun r => r.hits off && r.on.holds ⟨c, i, a⟩) = l.find? (fun r => r.hits off && r.on.holds ⟨c, j, b⟩) := by
    induction l with
    | nil => rfl
    | cons r t ih =>
      rw [List.all_cons, Bool.and_eq_true] at hl
      have e : r.on.holds ⟨c, i, a⟩ = r.on.holds ⟨c, j, b⟩ := by
        revert hl
        cases r.on <;> simp [Where.holds]
      rw [List.find?_cons, List.find?_cons, e, ih hl.2]
  exact h _ hc

theorem fieldsAt_like {p q off : Nat} (h : regAt p off = regAt q off) : fieldsAt p off = fieldsAt q off := by
  unfold fieldsAt
  rw [h]

theorem accMask_like {p q off : Nat} (h : regAt p off = regAt q off) (a : Acc) : accMask p off a = accMask q off a := by
  unfold accMask
  rw [fieldsAt_like h]

theorem pageInfo_tile (i : TileIx) (b : Fin 16) :
    pageInfo (tilePage i b) = some (if b.val = 0 then ⟨0x10, i, 0⟩ else if b.val ≤ 4 then ⟨0x11, i, b - 1⟩ else ⟨0x12 + (b - 5), i, 0⟩) := by
  have hi := i.isLt
  have hb := b.isLt
  unfold pageInfo tilePage
  rw [if_neg (by omega)]
  have e1 : (0x1000 + 0x40 * i.val + b.val - 0x1000) / 0x40 = i.val := by omega
  have e2 : (0x1000 + 0x40 * i.val + b.val - 0x1000) % 0x40 = b.val := by omega
  have c : (decide (0x1000 ≤ 0x1000 + 0x40 * i.val + b.val) && decide (0x1000 + 0x40 * i.val + b.val < 0x1000 + 0x40 * 80)) = true := by
    simp only [Bool.and_eq_true, decide_eq_true_eq]
    omega
  rw [if_pos c]
  dsimp only
  rw [e1, e2]
  split
  · rfl
  · split
    · rfl
    · rw [if_pos (by omega)]

/-- A register of a crucible's page is the same on every one. -/
theorem regAt_cru (i : TileIx) (k : CruIx) (off : Nat) : regAt (cruPage i k) off = regAt (cruPage 0 0) off := by
  have h (i : TileIx) (k : CruIx) : pageInfo (cruPage i k) = some ⟨0x11, i, k⟩ := by
    have hk := k.isLt
    have := pageInfo_tile i ⟨1 + k, by omega⟩
    rw [if_neg (by simp), if_pos (by show 1 + k.val ≤ 4; omega)] at this
    rw [show (1 + k.val - 1) = k.val by omega] at this
    exact this
  exact regAt_like (h i k) (h 0 0) (by decide) off

/-- What an admitted write starts, after the write itself. -/
theorem Writes.more {page off : Nat} {fs fs' : List Field} {rs rs' : List (Nat × Nat)} {s g u : State} (h : Writes page off [] [] s g)
    (hf : Frame fs' g u) (hr : RegsOutside rs' g u) (c1 : ∀ f ∈ fs', f ∈ [Field.regs, .guards, .shadows, .sealRun] ++ fs)
    (c2 : ∀ r ∈ rs', r ∈ (page, off) :: rs) : Writes page off fs rs s u := by
  refine ⟨fun f hn => ?_, (h.2.mono (by simp)).trans (hr.mono c2)⟩
  have p := h.1 f (fun c => hn (by simp only [List.append_nil] at c; exact List.mem_append_left _ c))
  have q := hf f (fun c => hn (c1 f c))
  cases f <;> exact Eq.trans q p

/-- An admitted write of a register that no selector hides: the fields that it reaches, and the registers' frame. -/
theorem State.writeCore_writes {s : State} {who : Requester} {page off : Nat} (v : W64) (h : s.admits who page off = true)
    (h8 : off % 8 = 0) (he : off ≠ Reg.EVT_EN) (hb : off < 4096) (hr : (regAt page off).isSome = true) (h0 : page ≠ 7) (h1 : page ≠ 0x3003) (h2 : page ≠ 0x3403) :
    let m := accMask page off .rw ||| accMask page off .sl ||| accMask page off .gw
    ∃ g : State, Writes page off [] [] s g ∧ g.reg page off = (mix m (s.reg page off) v &&& ~~~(accMask page off .w1c &&& v)) ∧
      s.writeCore who page off .b64 v = ⟨g, off, m, v, (s.dropShadow who page).view who page off⟩ := by
  intro m
  unfold State.admits at h
  rw [Bool.and_eq_true, Bool.or_eq_true] at h
  obtain ⟨g, hk, _, _, hw⟩ := State.writeCore_admits (who := who) v h.1 h8 he hr
    (h.2.imp (fun a => by simpa using a) (fun a => by simpa using a))
  rw [State.storeReg_setReg _ _ _ _ h0 h1 h2, State.stored_reg _ _ _ h0 h1 h2] at hw
  have hf := hk.frame
  refine ⟨_, ⟨fun f hn => ?_, ?_⟩, State.reg_setReg_same _ _ _ _, hw⟩
  · have := hf f (fun c => hn (by simp at c ⊢; tauto))
    cases f <;> first | exact this | simp at hn
  · exact (RegsOutside.of_regs (hf .regs (by decide))).thenSetReg _ _ _ hb (by simp)

end Sys2Proof.Machine
end

