-- ==== Sys2Proof/Laws/Traffic.lean ====
section
/-! SUPPORT. Packets that a tile injects: what a router decides from, and what an injection leaves. -/
namespace Sys2Proof.Machine

/-- Two states agree in all that a router decides from: the registers of their own pages, the routes, the slot tables and the beds. -/
structure MeshSame (s u : State) : Prop where
  regs : ∀ p o, 0x100 ≤ o → o < 4096 → u.reg p o = s.reg p o
  routes : u.routes = s.routes
  slots : u.slotMap = s.slotMap
  wins : u.wins = s.wins

theorem MeshSame.refl (s : State) : MeshSame s s := ⟨fun _ _ _ _ => rfl, rfl, rfl, rfl⟩

theorem MeshSame.trans {r s t : State} (h : MeshSame r s) (k : MeshSame s t) : MeshSame r t :=
  ⟨fun p o a b => (k.regs p o a b).trans (h.regs p o a b), k.routes.trans h.routes, k.slots.trans h.slots, k.wins.trans h.wins⟩

/-- Only common registers changed. -/
theorem MeshSame.of_outside {l : List (Nat × Nat)} {s u : State} (h : RegsOutside l s u) (hl : ∀ x ∈ l, x.2 < 0x100)
    (hr : u.routes = s.routes) (hs : u.slotMap = s.slotMap) (hw : u.wins = s.wins) : MeshSame s u :=
  ⟨fun p o a b => h p o b (fun c => by have := hl _ c; simp only at this; omega), hr, hs, hw⟩

theorem State.inject_isSome (s : State) (i p : Nat) (m : Send) :
    (s.inject i p m).isSome =
      (let hop := if isDie m.dst then (if isDie m.dst then s.gateway i (m.dst - 0x80) else 0) else m.dst
       s.hasRoute (s.pickSet (scopeOf m.op i m.dst (decide (s.polderOf i = s.polderOf hop))) p i hop) i hop) := by
  unfold State.inject
  dsimp only
  generalize (if isDie m.dst = true then if isDie m.dst = true then s.gateway i (m.dst - 128) else 0 else m.dst) = hop
  generalize s.pickSet _ p i hop = set
  by_cases c : s.hasRoute set i hop = true
  · rw [if_pos c, c]
    rfl
  · rw [if_neg c, Bool.eq_false_iff.mpr c]
    rfl

section
variable {s u : State} (h : MeshSame s u)
include h

theorem MeshSame.rf (p o hi lo : Nat) (a : 0x100 ≤ o) (b : o < 4096) : u.rf p o hi lo = s.rf p o hi lo := by
  unfold State.rf
  rw [h.regs p o a b]

theorem MeshSame.rb (p o i : Nat) (a : 0x100 ≤ o) (b : o < 4096) : u.rb p o i = s.rb p o i := by
  unfold State.rb
  rw [h.regs p o a b]

theorem MeshSame.polderOf (i : Nat) : u.polderOf i = s.polderOf i := h.rf _ _ _ _ (by decide) (by decide)
theorem MeshSame.member (i : Nat) : u.member i = s.member i := h.rb _ _ _ (by decide) (by decide)
theorem MeshSame.epochOf (i p : Nat) : u.epochOf i p = s.epochOf i p := h.rf _ _ _ _ (by decide) (by decide)
theorem MeshSame.gateway (i d : Nat) : u.gateway i d = s.gateway i d := h.rf _ _ _ _ (by decide) (by decide)
theorem MeshSame.live (i : Nat) : u.live i = s.live i := by
  unfold State.live
  by_cases hi : i < 80
  · rw [show u.tstate i = s.tstate i from h.rf _ _ _ _ (by unfold Reg.TSTATE; omega) (by unfold Reg.TSTATE; omega)]
  · simp [hi]
theorem MeshSame.slotTile (i p k : Nat) : u.slotTile i p k = s.slotTile i p k := by
  unfold State.slotTile State.slotEnt
  rw [h.slots]
theorem MeshSame.slotsOf (i p : Nat) : u.slotsOf i p = s.slotsOf i p := by
  unfold State.slotsOf
  simp only [h.slotTile]
theorem MeshSame.pickSet (sc : Scope) (p a b : Nat) : u.pickSet sc p a b = s.pickSet sc p a b := by
  unfold State.pickSet
  simp only [h.live, h.member, h.polderOf]
theorem MeshSame.hasRoute (k a b : Nat) : u.hasRoute k a b = s.hasRoute k a b := by
  unfold State.hasRoute State.route
  rw [h.routes]
theorem MeshSame.bedReg (b o : Nat) : u.bedReg b o = s.bedReg b o := by
  unfold State.bedReg
  rw [h.wins]
theorem MeshSame.bedSlots (b : Nat) : u.bedSlots b = s.bedSlots b := by
  unfold State.bedSlots State.bedEntry State.bedExit State.bedCfg0
  simp only [h.bedReg]
theorem MeshSame.bedOf (i : Nat) : u.bedOf i = s.bedOf i := by
  unfold State.bedOf State.bedValid State.bedPolder State.bedCfg0
  simp only [h.polderOf, h.slotsOf, h.bedReg, h.bedSlots]

theorem MeshSame.inject (i p : Nat) (m : Send) : (u.inject i p m).isSome = (s.inject i p m).isSome := by
  rw [State.inject_isSome, State.inject_isSome]
  simp only [h.gateway, h.polderOf, h.pickSet, h.hasRoute]
end

/-- The choice of a lane touches nothing but the port's round robin, and nothing for a packet with an order (R332). -/
theorem State.chooseLane_frame (s : State) (tile port : Nat) (p : Packet) :
    Frame [.ports] s (s.chooseLane tile port p).2 ∧ (s.chooseLane tile port p).2.net = s.net ∧
      (p.ord = true → (s.chooseLane tile port p).2 = s) := by
  unfold State.chooseLane
  split
  · exact ⟨fun f _ => by cases f <;> rfl, rfl, fun _ => rfl⟩
  · exact ⟨fun f hf => by cases f <;> first | rfl | simp at hf, rfl, fun h => absurd h ‹_›⟩

/-- A packet of the tile's epoch enters a router none of whose ports is fenced: it waits behind those in the mesh. -/
theorem State.enterRouter_net {s : State} {tile inPort lane : Nat} {p : Packet} (hf : ∀ k, k < 5 → s.fencedPort tile k = false)
    (ho : opDefined p.op.toNat = true) (he : p.sys = true ∨ p.epoch.toNat = s.epochOf tile p.polder.toNat) :
    (∃ o, (s.enterRouter tile inPort lane p).net = s.net ++ [⟨p, tile, inPort, lane, s.up, o⟩]) ∧
      Frame [.net, .ports] s (s.enterRouter tile inPort lane p) ∧
      (p.ord = true → (s.enterRouter tile inPort lane p).ports = s.ports) := by
  have fenced (k : Nat) : s.fencedPort tile k = false := by
    by_cases h : k < 5
    · exact hf k h
    · simp [State.fencedPort, h]
  have hc : (!p.sys && decide (p.epoch.toNat ≠ s.epochOf tile p.polder.toNat)) = false := by
    rcases he with h | h <;> simp [h]
  unfold State.enterRouter
  rw [fenced, Bool.false_and, if_neg (by decide), ho, Bool.not_true, if_neg (by decide), hc, if_neg (by decide)]
  cases s.outPort tile p with
  | none => exact ⟨⟨none, rfl⟩, fun f hn => by cases f <;> first | rfl | simp at hn, fun _ => rfl⟩
  | some k =>
    dsimp only
    rw [fenced, Bool.false_and, if_neg (by decide)]
    obtain ⟨f, n, e⟩ := State.chooseLane_frame s tile k p
    have eu : (s.chooseLane tile k p).2.up = s.up := f .up (by decide)
    generalize s.chooseLane tile k p = x at *
    refine ⟨⟨some (k, x.1), ?_⟩, fun g hn => ?_, fun h => by dsimp only; rw [e h]⟩
    · dsimp only
      rw [n, eu]
    · have := f g (fun c => hn (by simp at c ⊢; simp [c]))
      cases g <;> first | exact this | simp at hn

theorem Packet.intact_sealed (p : Packet) : Packet.intact (Packet.sealed p) = true := decide_eq_true rfl

/-- An injection where no port of the tile is fenced adds one packet to the mesh, and nothing but NO_SET0 of the tile's CETIS page counts. -/
theorem State.inject_some {s v : State} {tile pol : Nat} {m : Send} (h : s.inject tile pol m = some v) (hp : pol < 8)
    (ho : opDefined (m.op % 256) = true) (hx : ∀ k, k < 5 → s.fencedPort tile k = false) :
    (∃ x : Transit, v.net = s.net ++ [x] ∧ s.sent x.pkt tile pol m ∧ x.tile = tile ∧ x.inPort = 5) ∧ Frame [.net, .regs, .ports] s v ∧
      RegsOutside [counter (cetisPage tile) 10] s v ∧ (opOrd m.op = true → v.ports = s.ports) := by
  obtain ⟨hop, set, p, t, hi, ht, hq⟩ : ∃ (hop set : Nat) (p : Packet) (t : State),
      s.inject tile pol m = (if s.hasRoute set tile hop then
        some ((t.chooseLane tile 6 p).2.enterRouter tile 5 (t.chooseLane tile 6 p).1 (Packet.sealed p)) else none) ∧
      t = (if set = 0 then s else s.bump (cetisPage tile) 10 1) ∧ s.sent (Packet.sealed p) tile pol m :=
    ⟨_, _, _, _, rfl, rfl, rfl, rfl, rfl, rfl, rfl, rfl, rfl, rfl, rfl, rfl, rfl, rfl, Packet.intact_sealed _⟩
  rw [hi] at h
  have ft : Frame [.regs] s t := by
    rw [ht]
    intro f hf
    split <;> cases f <;> first | rfl | simp at hf
  have rt : RegsOutside [counter (cetisPage tile) 10] s t := by
    rw [ht]
    split
    · exact RegsOutside.refl _ _
    · exact (RegsOutside.refl _ s).thenBump _ _ _ (by decide) (by simp)
  have eo : (Packet.sealed p).op.toNat = m.op % 256 := by
    rw [hq.2.2.2.2.2.2.2.1]
    simp
  have ep : (Packet.sealed p).polder.toNat = pol := by
    rw [hq.2.2.2.2.2.1, BitVec.toNat_ofNat]
    omega
  have ee : (Packet.sealed p).epoch.toNat = s.epochOf tile pol := by
    rw [hq.2.2.2.2.2.2.1, BitVec.toNat_ofNat]
    refine Nat.mod_eq_of_lt ?_
    unfold State.epochOf State.rf fld bits
    have e : 4 * pol + 3 + 1 - 4 * pol = 4 := by omega
    rw [e]
    exact Nat.mod_lt _ (by decide)
  by_cases c : s.hasRoute set tile hop = true
  · rw [if_pos c] at h
    have e := (Option.some.inj h).symm
    clear h
    obtain ⟨fl, nl, el⟩ := State.chooseLane_frame t tile 6 p
    rw [e]
    generalize hz : t.chooseLane tile 6 p = z at *
    have same (q o : Nat) (hq : o < 4096) (hn : (q, o) ≠ counter (cetisPage tile) 10) : z.2.reg q o = s.reg q o := by
      rw [State.reg_congr (fl .regs (by decide))]
      exact rt q o hq (by simpa using hn)
    have hfz (k : Nat) (hk : k < 5) : z.2.fencedPort tile k = false := by
      have := hx k hk
      unfold State.fencedPort State.rb at this ⊢
      rw [same _ _ (by decide) (by simp [counter, Reg.COUNTER, Reg.PORT_FENCE])]
      exact this
    have hez : z.2.epochOf tile pol = s.epochOf tile pol := by
      unfold State.epochOf State.rf
      rw [same _ _ (by decide) (by simp [counter, Reg.COUNTER, Reg.EPOCH])]
    obtain ⟨⟨o, hn⟩, fz, ez⟩ := State.enterRouter_net (s := z.2) (tile := tile) (inPort := 5) (lane := z.1) (p := Packet.sealed p) hfz
      (by rw [eo]; exact ho) (.inr (by rw [ee, ep, hez]))
    refine ⟨⟨_, by rw [hn, nl, ft .net (by decide)], hq, rfl, rfl⟩, ?_, ?_, fun ho => ?_⟩
    · exact ((ft.mono rfl).trans (fl.mono rfl)).trans (fz.mono rfl)
    · exact (rt.thenSame (fl .regs (by decide))).thenSame (fz .regs (by decide))
    · have hp' : (Packet.sealed p).ord = true := hq.2.2.2.1.trans ho
      rw [ez hp', el hp']
      exact ft .ports (by decide)
  · rw [if_neg c] at h
    cases h

theorem State.inject_mesh {s v : State} {tile pol : Nat} {m : Send} (h : s.inject tile pol m = some v) (hp : pol < 8)
    (ho : opDefined (m.op % 256) = true) (hx : ∀ k, k < 5 → s.fencedPort tile k = false) : MeshSame s v := by
  obtain ⟨_, f, r, _⟩ := State.inject_some h hp ho hx
  exact MeshSame.of_outside r (by simp [counter, Reg.COUNTER]) (f .routes (by decide)) (f .slotMap (by decide)) (f .wins (by decide))

theorem State.injectOr_some {s : State} {tile pol : Nat} {m : Send} (h : (s.inject tile pol m).isSome = true) :
    s.inject tile pol m = some (s.injectOr tile pol m) := by
  obtain ⟨v, hv⟩ := Option.isSome_iff_exists.mp h
  unfold State.injectOr
  rw [hv]

/-- A gate add sent to a slot that maps to a tile with a route. -/
theorem State.sendGateAdd_some {s : State} {tile k g d : Nat} {v : W32} (h : s.slotTile tile (s.polderOf tile) k = some d)
    (hi : (s.inject tile (s.polderOf tile) { dst := d, op := opGadd, addr := g, operand := v.toNat }).isSome = true) :
    s.inject tile (s.polderOf tile) { dst := d, op := opGadd, addr := g, operand := v.toNat } = some (s.sendGateAdd tile k g v) := by
  unfold State.sendGateAdd
  dsimp only
  rw [h]
  exact State.injectOr_some hi

theorem State.polderOf_lt (s : State) (i : Nat) : s.polderOf i < 8 := by
  unfold State.polderOf State.rf fld
  exact Nat.mod_lt _ (by decide)

/-- Gate adds sent to slots that all map to tiles with a route, by a tile without a fenced port: one packet each, in order. -/
theorem State.sendGateCopies_some {s : State} {tile g : Nat} {v : W32} (l : List Nat) (hx : ∀ k, k < 5 → s.fencedPort tile k = false)
    (h : ∀ k ∈ l, ∃ d, s.slotTile tile (s.polderOf tile) k = some d ∧
      (s.inject tile (s.polderOf tile) { dst := d, op := opGadd, addr := g, operand := v.toNat }).isSome = true) :
    (∃ ts : List Transit, (s.sendGateCopies tile g v none l).net = s.net ++ ts ∧ List.Forall₂ (fun k x =>
      (∃ d, s.slotTile tile (s.polderOf tile) k = some d ∧
        s.sent x.pkt tile (s.polderOf tile) { dst := d, op := opGadd, addr := g, operand := v.toNat }) ∧ x.tile = tile ∧ x.inPort = 5) l ts) ∧
    Frame [.net, .regs] s (s.sendGateCopies tile g v none l) ∧
    RegsOutside [counter (cetisPage tile) 10] s (s.sendGateCopies tile g v none l) := by
  induction l generalizing s with
  | nil => exact ⟨⟨[], by simp [State.sendGateCopies]⟩, fun f _ => by cases f <;> rfl, RegsOutside.refl _ _⟩
  | cons k r ih =>
    obtain ⟨d, hd, hi⟩ := h k List.mem_cons_self
    have e : s.sendGateCopies tile g v none (k :: r) = (s.sendGateAdd tile k g v).sendGateCopies tile g v none r := by
      show State.sendGateCopies (if _ then s else _) tile g v none r = _
      rw [if_neg (by simp)]
    have hv := State.sendGateAdd_some hd hi
    obtain ⟨⟨x, hp, hs, h5, h6⟩, f, o, w⟩ := State.inject_some hv (State.polderOf_lt _ _) (show opDefined (opGadd % 256) = true by decide) hx
    have ms := State.inject_mesh hv (State.polderOf_lt _ _) (show opDefined (opGadd % 256) = true by decide) hx
    rw [e]
    generalize s.sendGateAdd tile k g v = t at *
    have f0 : Frame [.net, .regs] s t := by
      intro y hy
      by_cases c : y = .ports
      · subst c
        exact w (show opOrd opGadd = true by decide)
      · exact f y (fun d => by simp at d hy; tauto)
    have hxt (k : Nat) (hk : k < 5) : t.fencedPort tile k = false := by
      have := hx k hk
      unfold State.fencedPort at this ⊢
      rw [ms.rb _ _ _ (by decide) (by decide)]
      exact this
    obtain ⟨⟨ps, hn, hf⟩, f', o'⟩ := ih (s := t) hxt (fun k' hk' => by
      obtain ⟨d', h1, h2⟩ := h k' (List.mem_cons_of_mem _ hk')
      refine ⟨d', ?_, ?_⟩
      · rw [ms.polderOf, ms.slotTile, h1]
      · rw [ms.polderOf, ms.inject, h2])
    refine ⟨⟨x :: ps, ?_, List.Forall₂.cons ⟨⟨d, hd, hs⟩, h5, h6⟩ (hf.imp ?_)⟩, f0.trans f', o.trans o'⟩
    · rw [hn, hp]
      simp
    · rintro k' p' ⟨⟨d', h1, h2⟩, h7⟩
      refine ⟨⟨d', ?_, ?_⟩, h7⟩
      · rw [← ms.polderOf, ← ms.slotTile]
        exact h1
      · unfold State.sent at h2 ⊢
        rw [← ms.polderOf, ← ms.epochOf]
        exact h2

end Sys2Proof.Machine
end

