-- ==== Sys2Proof/Laws/Units.lean ====
section
/-! SUPPORT. The end of dispatched instructions. -/
namespace Sys2Proof.Machine

theorem State.flushEntry_peat (s : State) (tile : Nat) (e : GbEntry) :
    (s.flushEntry tile e).peat = putMasked s.peat (peatKey tile (e.line * 256)) e.valid := by
  unfold State.flushEntry
  dsimp only
  generalize hs : (if e.valid.length = 256 then _ else _ : State) = s1
  have h : s1.peat = putMasked s.peat (peatKey tile (e.line * 256)) e.valid := by rw [← hs]; split <;> rfl
  split <;> exact h

theorem State.flushList_peat (s : State) (tile : Nat) (l : List GbEntry) : (s.flushList tile l).peat = flushedPeat tile s.peat l := by
  induction l generalizing s with
  | nil => rfl
  | cons e r ih => exact (ih _).trans (by rw [State.flushEntry_peat]; rfl)

/-- Peat after a crucible's buffer has flushed. -/
theorem State.gbFlushAll_peat (s : State) (tile cru : Nat) :
    (s.gbFlushAll tile cru).peat = flushedPeat tile s.peat (s.cru tile cru).gb := State.flushList_peat _ _ _

theorem Crucible.queue_setQueue (c : Crucible) (u q : UnitKind) (l : List Work) :
    (c.setQueue u l).queue q = if q = u then l else c.queue q := by
  cases u <;> cases q <;> rfl

theorem Crucible.setQueue_rest (c : Crucible) (u : UnitKind) (l : List Work) :
    (c.setQueue u l).sb = c.sb ∧ (c.setQueue u l).gb = c.gb ∧ (c.setQueue u l).icache = c.icache ∧
    (c.setQueue u l).nextIid = c.nextIid := by
  cases u <;> exact ⟨rfl, rfl, rfl, rfl⟩

/-- Waking looks at the scoreboard and the queues alone. -/
theorem Task.rewait_congr (x : Task) {c d : Crucible} (hs : d.sb = c.sb) (hq : ∀ u, d.queue u = c.queue u) : x.rewait d = x.rewait c := by
  have hb (w : WaitFor) : d.blocks w = c.blocks w := by
    unfold Crucible.blocks Crucible.conflicts
    simp only [hs, hq]
  unfold Task.rewait
  split
  · rw [hb]
  · rfl

/-- What leaves with an instruction: its place in its unit's queue and its scoreboard entries; the tasks of the crucible are woken. -/
theorem State.dropWork_spec (s : State) (t : TaskRef) (u : UnitKind) (iid : Nat) :
    let v := s.dropWork t u iid
    let x := s.cru t.tile t.cru
    Frame [.crus, .tasks] s v ∧ CrusOutside t s v ∧
      v.cru t.tile t.cru = { x.setQueue u ((x.queue u).filter (fun w => w.iid ≠ iid)) with sb := x.sb.filter (fun e => e.iid ≠ iid) } ∧
      ∀ q : TaskRef, v.taskAt q =
        if (q.tile, q.cru) = (t.tile, t.cru) then (s.taskAt q).rewait (v.cru t.tile t.cru) else s.taskAt q := by
  intro v x
  have hf : Frame [.crus, .tasks] s v := ((State.dropWork_kept s t u iid).mono rfl).frame
  obtain ⟨y, hy, hv⟩ : ∃ y, y = { x.setQueue u ((x.queue u).filter (fun w => w.iid ≠ iid)) with
      sb := (x.setQueue u ((x.queue u).filter (fun w => w.iid ≠ iid))).sb.filter (fun e => e.iid ≠ iid) } ∧
      v = (s.setCru t.tile t.cru y).wakeTasks t.tile t.cru := ⟨_, rfl, rfl⟩
  rw [(Crucible.setQueue_rest ..).1] at hy
  obtain ⟨wc, _, wt⟩ := State.wakeTasks_spec (s.setCru t.tile t.cru y) t.tile t.cru
  have ec : v.cru t.tile t.cru = y := by rw [hv, State.cru_congr wc, State.cru_setCru_same]
  refine ⟨hf, ?_, ec.trans hy, fun q => ?_⟩
  · rw [hv]
    exact (CrusOutside.setCru s t y).trans (CrusOutside.of_crus wc)
  · rw [ec, hv, wt q, State.cru_setCru_same]
    rfl

/-- The end of an instruction, in one place. -/
theorem State.finishWork_ended (s : State) (c : UCtx) (u : UnitKind) (h : THdr) (fl : Flags) :
    Ended c u (doneGates h) fl [] [] s (s.finishWork c u h fl) := by
  have hi := c.t.tile.isLt
  have hk := c.t.cru.isLt
  have ht := c.t.task.isLt
  have hb : Reg.TASK_FLAGS c.t.task < 4096 := by unfold Reg.TASK_FLAGS; omega
  have hfr : Frame [.regs, .crus, .tasks, .slots, .gates, .peat, .peatBad] s (s.finishWork c u h fl) :=
    ((State.finishWork_kept s c u h fl).mono (m := [.regs, .crus, .tasks, .slots, .gates, .peat, .peatBad]) rfl).frame
  obtain ⟨cl, e0⟩ : ∃ cl, s.finishWork c u h fl = (let r := ((s.orFlags c.t fl).endClaims cl).dropWork c.t u c.w.iid
      if h.dge then r.unitGateAdd c.t.tile c.t.cru h.dg.toNat 1 else r) := ⟨_, rfl⟩
  rw [e0] at hfr ⊢
  clear e0
  dsimp only at hfr ⊢
  generalize h1 : s.orFlags c.t fl = s1 at *
  generalize h2 : s1.endClaims cl = s2 at *
  generalize h3 : s2.dropWork c.t u c.w.iid = s3 at *
  obtain ⟨f3, o3, y3, t3⟩ := h3 ▸ State.dropWork_spec s2 c.t u c.w.iid
  have r1 : RegsOutside [(cruPage c.t.tile c.t.cru, Reg.TASK_FLAGS c.t.task)] s s1 := h1 ▸ RegsOutside.setReg _ _ _ _ hb
  have f1 : s1.reg (cruPage c.t.tile c.t.cru) (Reg.TASK_FLAGS c.t.task) =
      s.reg (cruPage c.t.tile c.t.cru) (Reg.TASK_FLAGS c.t.task) ||| BitVec.ofNat 64 fl.toNat := h1 ▸ State.reg_setReg_same _ _ _ _
  have e1 : s1.crus = s.crus ∧ s1.gates = s.gates ∧ s1.peat = s.peat := by subst h1; exact ⟨rfl, rfl, rfl⟩
  have k2 : Frame [.slots] s1 s2 := h2 ▸ ((State.endClaims_kept s1 cl).mono rfl).frame
  have r3 : RegsOutside [(cruPage c.t.tile c.t.cru, Reg.TASK_FLAGS c.t.task)] s s3 :=
    (r1.trans (RegsOutside.of_regs (k2 .regs (by decide)))).trans (RegsOutside.of_regs (f3 .regs (by decide)))
  have g3 : s3.gates = s.gates := ((show s3.gates = s2.gates from f3 .gates (by decide)).trans (k2 .gates (by decide))).trans e1.2.1
  have p3 : s3.peat = s.peat := ((show s3.peat = s2.peat from f3 .peat (by decide)).trans (k2 .peat (by decide))).trans e1.2.2
  have fl3 : s3.reg (cruPage c.t.tile c.t.cru) (Reg.TASK_FLAGS c.t.task) =
      s.reg (cruPage c.t.tile c.t.cru) (Reg.TASK_FLAGS c.t.task) ||| BitVec.ofNat 64 fl.toNat := by
    rw [← f1]
    exact State.reg_congr ((show s3.regs = s2.regs from f3 .regs (by decide)).trans (k2 .regs (by decide))) _ _
  have cr2 (i k : Nat) : s2.cru i k = s.cru i k := State.cru_congr ((k2 .crus (by decide)).trans e1.1) i k
  have c3 : CrusOutside c.t s s3 := (CrusOutside.of_crus ((k2 .crus (by decide)).trans e1.1)).trans o3
  rw [cr2] at y3
  have e1t : s1.tasks = s.tasks := by subst h1; rfl
  have w3t (q : TaskRef) : s3.taskAt q =
      if (q.tile, q.cru) = (c.t.tile, c.t.cru) then (s.taskAt q).rewait (s3.cru c.t.tile c.t.cru) else s.taskAt q := by
    rw [t3 q, State.taskAt_congr ((k2 .tasks (by decide)).trans e1t)]
  obtain ⟨q1, q2, q3, q4⟩ := Crucible.setQueue_rest (s.cru c.t.tile c.t.cru) u (((s.cru c.t.tile c.t.cru).queue u).filter (fun w => w.iid ≠ c.w.iid))
  have qq (q : UnitKind) : (s3.cru c.t.tile c.t.cru).queue q =
      if q = u then ((s.cru c.t.tile c.t.cru).queue u).filter (fun w => w.iid ≠ c.w.iid) else (s.cru c.t.tile c.t.cru).queue q := by
    rw [y3, ← Crucible.queue_setQueue]
    rfl
  have w3 : (s3.cru c.t.tile c.t.cru).sb = (s.cru c.t.tile c.t.cru).sb.filter (fun e => e.iid ≠ c.w.iid) ∧
      (s3.cru c.t.tile c.t.cru).icache = (s.cru c.t.tile c.t.cru).icache ∧
      (s3.cru c.t.tile c.t.cru).nextIid = (s.cru c.t.tile c.t.cru).nextIid ∧
      (s3.cru c.t.tile c.t.cru).gb = (s.cru c.t.tile c.t.cru).gb := by
    rw [y3]
    exact ⟨rfl, q3, q4, q2⟩
  unfold doneGates
  cases hd : h.dge with
  | false =>
    simp only [hd, Bool.false_eq_true, if_false] at hfr ⊢
    refine ⟨hfr, c3, w3t, r3.mono (by simp), (qq u).trans (if_pos rfl), fun q hq => (qq q).trans (if_neg hq), w3.1, w3.2.1, w3.2.2.1, fl3, ?_, w3.2.2.2, p3⟩
    intro j g
    rw [State.gate_congr g3, List.count_nil]
    split <;> exact (BitVec.add_zero _).symm
  | true =>
    simp only [hd, if_true] at hfr ⊢
    have gb := State.gbFlushAll_gb s3 c.t.tile c.t.cru
    have ge := State.gbFlushAll_empty s3 c.t.tile c.t.cru
    have gp := State.gbFlushAll_peat s3 c.t.tile c.t.cru
    have gt : (s3.gbFlushAll c.t.tile c.t.cru).tasks = s3.tasks :=
      ((State.gbFlushAll_kept s3 c.t.tile c.t.cru).mono (m := [.regs, .crus, .peat, .peatBad]) rfl).frame .tasks (by decide)
    have gg : (s3.gbFlushAll c.t.tile c.t.cru).gates = s.gates :=
      (((State.gbFlushAll_kept s3 c.t.tile c.t.cru).mono (m := [.regs, .crus, .peat, .peatBad]) rfl).frame .gates (by decide)).trans g3
    unfold State.unitGateAdd at hfr ⊢
    generalize s3.gbFlushAll c.t.tile c.t.cru = s4 at *
    have cc : ((s4.addGate c.t.tile h.dg.toNat 1).bump (gatePage c.t.tile) 0 1).crus = s4.crus := rfl
    refine ⟨hfr, ?_, ?_, ?_, ?_, ?_, ?_, ?_, ?_, ?_, ?_, ?_, ?_⟩
    · exact (c3.trans (show CrusOutside c.t s3 s4 from fun i k n => gb.other i k (fun c => cruKey_ne n c.symm))).trans (CrusOutside.of_crus cc)
    · intro q
      rw [State.taskAt_congr (u := (s4.addGate c.t.tile h.dg.toNat 1).bump (gatePage c.t.tile) 0 1) (s := s3) gt q, w3t q]
      split
      · refine Task.rewait_congr _ ?_ ?_
        · rw [State.cru_congr cc, gb.own]
        · intro k; rw [State.cru_congr cc, gb.own]; cases k <;> rfl
      · rfl
    · have a : RegsOutside [counter (gatePage c.t.tile) 0] s4 ((s4.addGate c.t.tile h.dg.toNat 1).bump (gatePage c.t.tile) 0 1) :=
        ((RegsOutside.refl _ s4).thenSame (u := s4.addGate c.t.tile h.dg.toNat 1) rfl).thenBump _ 0 1 (by decide) (by simp)
      refine ((r3.comp gb.regs).comp a).mono ?_
      intro x hx
      simp only [List.mem_append, List.mem_cons, List.not_mem_nil] at *
      tauto
    · rw [State.cru_congr cc, gb.own]; exact (qq u).trans (if_pos rfl)
    · intro q hq; rw [State.cru_congr cc, gb.own]; exact (qq q).trans (if_neg hq)
    · rw [State.cru_congr cc, gb.own]; exact w3.1
    · rw [State.cru_congr cc, gb.own]; exact w3.2.1
    · rw [State.cru_congr cc, gb.own]; exact w3.2.2.1
    · refine (State.reg_setReg_other _ _ _ _ _ _ (by decide) hb (.inl ?_)).trans ((gb.regs _ _ hb ?_).trans fl3)
      · simp only [cruPage_eq, gatePage, tilePage]; omega
      · simp [gbRegs, counter, cruPage, peatPage, tilePage]; omega
    · intro j g
      show (s4.addGate c.t.tile h.dg.toNat 1).gate j g.toNat = _
      unfold State.addGate
      rw [State.gate_setGate, State.gate_congr gg, State.gate_congr gg]
      by_cases e : j = c.t.tile ∧ g = h.dg
      · rw [if_pos e, if_pos e.1, e.1, e.2, List.count_singleton_self]
        rfl
      · rw [if_neg e]
        split
        · rename_i e1
          rw [List.count_singleton, if_neg (by simpa using fun x => e ⟨e1, x.symm⟩)]
          exact (BitVec.add_zero _).symm
        · exact (BitVec.add_zero _).symm
    · rw [State.cru_congr cc]; exact ge
    · exact gp.trans (by rw [p3, w3.2.2.2]; rfl)

/-- The end of an instruction after other changes. -/
theorem Ended.before {c : UCtx} {u : UnitKind} {gs : List (BitVec 10)} {fl fl' : Flags} {fs : List Field} {rs : List (Nat × Nat)}
    {s s1 v : State} (h : Ended c u gs fl [] [] s1 v) (hf : Frame ([.regs] ++ fs) s s1)
    (hr : RegsOutside ((cruPage c.t.tile c.t.cru, Reg.TASK_FLAGS c.t.task) :: rs) s s1)
    (hc : s1.crus = s.crus) (hg : s1.gates = s.gates) (hp : s1.peat = s.peat) (ht : s1.tasks = s.tasks)
    (hx : s1.reg (cruPage c.t.tile c.t.cru) (Reg.TASK_FLAGS c.t.task) ||| BitVec.ofNat 64 fl.toNat =
      s.reg (cruPage c.t.tile c.t.cru) (Reg.TASK_FLAGS c.t.task) ||| BitVec.ofNat 64 fl'.toNat) : Ended c u gs fl' fs rs s v := by
  obtain ⟨a, b, wt, d, e1, e2, e3, e4, e5, e6, e7, e8, e9⟩ := h
  have ec := State.cru_congr hc c.t.tile c.t.cru
  rw [ec] at e1 e3 e4 e5 e8 e9
  refine ⟨fun f hn => ?_, (CrusOutside.of_crus hc).trans b, fun q => ?_, ?_, e1, fun q hq => ?_, e3, e4, e5, e6.trans hx, fun j g => ?_, e8, ?_⟩
  · have p := hf f (fun c => hn (by simp at c ⊢; tauto))
    have q := a f (fun c => hn (by simp at c ⊢; tauto))
    cases f <;> exact Eq.trans q p
  · rw [wt q, State.taskAt_congr ht]
  · refine (hr.comp d).mono ?_
    intro x hx
    simp only [List.mem_append, List.mem_cons, List.not_mem_nil] at hx ⊢
    clear * - hx
    tauto
  · rw [e2 q hq, ec]
  · rw [e7, State.gate_congr hg]
  · rw [e9, hp]

/-- An add to a gate of the tile before it: one gate more. -/
theorem Ended.gateAdd {c : UCtx} {u : UnitKind} {gs : List (BitVec 10)} {fl : Flags} {s v : State} (g0 : BitVec 10)
    (h : Ended c u gs fl [] [] (s.unitGateAdd c.t.tile c.t.cru g0.toNat 1) v) : Ended c u (g0 :: gs) fl [] [] s v := by
  have hi := c.t.tile.isLt
  have hk := c.t.cru.isLt
  have ht := c.t.task.isLt
  have hb : Reg.TASK_FLAGS c.t.task < 4096 := by unfold Reg.TASK_FLAGS; omega
  have gb := State.gbFlushAll_gb s c.t.tile c.t.cru
  have ge := State.gbFlushAll_empty s c.t.tile c.t.cru
  have gp := State.gbFlushAll_peat s c.t.tile c.t.cru
  have hfr : Frame [.regs, .peat, .peatBad, .crus, .gates] s (s.unitGateAdd c.t.tile c.t.cru g0.toNat 1) :=
    ((State.unitGateAdd_kept s c.t.tile c.t.cru g0.toNat 1).mono rfl).frame
  have gg : (s.gbFlushAll c.t.tile c.t.cru).gates = s.gates :=
    ((State.gbFlushAll_kept s c.t.tile c.t.cru).mono (m := [.regs, .crus, .peat, .peatBad]) rfl).frame .gates (by decide)
  have hr : RegsOutside ([counter (gatePage c.t.tile) 0] ++ gbRegs c.t.tile) s (s.unitGateAdd c.t.tile c.t.cru g0.toNat 1) := by
    have a : RegsOutside [counter (gatePage c.t.tile) 0] (s.gbFlushAll c.t.tile c.t.cru) (s.unitGateAdd c.t.tile c.t.cru g0.toNat 1) :=
      ((RegsOutside.refl _ _).thenSame (u := (s.gbFlushAll c.t.tile c.t.cru).addGate c.t.tile g0.toNat 1) rfl).thenBump _ 0 1 (by decide) (by simp)
    refine (gb.regs.comp a).mono ?_
    intro x hx
    simp only [List.mem_append, List.mem_cons, List.not_mem_nil] at hx ⊢
    clear * - hx
    tauto
  have cc : (s.unitGateAdd c.t.tile c.t.cru g0.toNat 1).crus = (s.gbFlushAll c.t.tile c.t.cru).crus := rfl
  have pp : (s.unitGateAdd c.t.tile c.t.cru g0.toNat 1).peat = (s.gbFlushAll c.t.tile c.t.cru).peat := rfl
  have hgt (j : TileIx) (g : BitVec 10) : (s.unitGateAdd c.t.tile c.t.cru g0.toNat 1).gate j g.toNat =
      if j = c.t.tile ∧ g = g0 then s.gate j g.toNat + 1 else s.gate j g.toNat := by
    show ((s.gbFlushAll c.t.tile c.t.cru).addGate c.t.tile g0.toNat 1).gate j g.toNat = _
    unfold State.addGate
    rw [State.gate_setGate, State.gate_congr gg, State.gate_congr gg]
    split
    · rename_i e; rw [e.1, e.2]
    · rfl
  have eo : (s.unitGateAdd c.t.tile c.t.cru g0.toNat 1).cru c.t.tile c.t.cru = { s.cru c.t.tile c.t.cru with gb := [] } := by
    rw [State.cru_congr cc, gb.own, ge]
  have fl1 : (s.unitGateAdd c.t.tile c.t.cru g0.toNat 1).reg (cruPage c.t.tile c.t.cru) (Reg.TASK_FLAGS c.t.task) =
      s.reg (cruPage c.t.tile c.t.cru) (Reg.TASK_FLAGS c.t.task) := by
    refine hr _ _ hb ?_
    simp [gbRegs, counter, cruPage, peatPage, gatePage, tilePage]
    omega
  have co : CrusOutside c.t s (s.unitGateAdd c.t.tile c.t.cru g0.toNat 1) :=
    (show CrusOutside c.t s (s.gbFlushAll c.t.tile c.t.cru) from fun i k n => gb.other i k (fun c => cruKey_ne n c.symm)).trans (CrusOutside.of_crus cc)
  rw [gp] at pp
  clear gb ge gp gg cc
  generalize s.unitGateAdd c.t.tile c.t.cru g0.toNat 1 = s1 at *
  obtain ⟨a, b, wt, d, e1, e2, e3, e4, e5, e6, e7, e8, e9⟩ := h
  rw [eo] at e1 e3 e4 e5
  refine ⟨fun f hn => ?_, co.trans b, fun q => ?_, ?_, e1, fun q hq => ?_, e3, e4, e5, by rw [e6, fl1], fun j g => ?_, ?_, ?_⟩
  · have p := hfr f (fun c => hn (by simp at c ⊢; tauto))
    have q := a f (fun c => hn (by simp at c ⊢; tauto))
    cases f <;> exact Eq.trans q p
  · rw [wt q, State.taskAt_congr (hfr .tasks (by decide))]
  · refine (hr.comp d).mono ?_
    intro x hx
    simp only [List.mem_append, List.mem_cons, List.not_mem_nil] at hx ⊢
    clear * - hx
    tauto
  · rw [e2 q hq, eo]
    cases q <;> rfl
  · rw [e7, hgt, List.count_cons]
    by_cases h1 : j = c.t.tile
    · simp only [h1, true_and, if_true]
      by_cases h2 : g = g0
      · simp only [h2, if_true, beq_self_eq_true]
        rw [BitVec.add_assoc, BitVec.ofNat_add, BitVec.add_comm (1 : W32)]
        rfl
      · simp [h2, Ne.symm h2]
    · simp [h1]
  · rw [e8, eo]
    simp
  · rw [e9, eo, pp]
    cases gs <;> rfl

end Sys2Proof.Machine
end

