-- ==== Sys2Proof/Machine/PciFn.lean ====
section
/-! DEFINITION. The identity of a host port's PCIe function: identifiers, BARs, capabilities and the protocols of its DOE mailbox
(R386, R387). -/
namespace Sys2Proof.Machine

/-- A base address register: its number, its size and whether it is prefetchable; each is 64 bits wide. -/
structure PciBar where
  bar          : Nat
  size         : Nat
  prefetchable : Bool
  deriving DecidableEq, Repr

/-- A capability of the function. -/
inductive PciCap where
  /-- PCI Express: the largest payload and the largest read request, in bytes. -/
  | express (maxPayload maxRead : Nat)
  /-- MSI-X: the number of vectors, and the BAR and offsets of the table and the pending-bit array. -/
  | msix (vectors bar table pba : Nat)
  /-- Advanced error reporting. -/
  | aer
  /-- A DOE mailbox and its protocols, as (vendor, data object type). -/
  | doe (protocols : List (Nat × Nat))
  deriving DecidableEq, Repr

structure PciIdentity where
  vendor : BitVec 16
  device : BitVec 16
  cls    : BitVec 24
  bars   : List PciBar
  caps   : List PciCap
  deriving DecidableEq, Repr

/-- Protocols of the DOE mailbox: DOE Discovery and CMA/SPDM of the PCI-SIG, vendor 1. (PRESUMED: log entry 106) -/
def doeProtocols : List (Nat × Nat) := [(1, 0), (1, 1)]

/-- The one physical function of either port. It has no SR-IOV, ATS, page request or PASID capability. -/
def pciIdentity : PciIdentity :=
  { vendor := Config.vendorId, device := 0x5780, cls := 0x120000,
    bars := [⟨0, 2 ^ 28, false⟩, ⟨2, 2 ^ 21, false⟩, ⟨4, 2 ^ 36, true⟩],
    caps := [.express 512 4096, .msix 2048 2 0x1C0000 0x1E0000, .aer, .doe doeProtocols] }

/-- The answer of DOE Discovery to an index: vendor, data object type and the next index, 0 after the last. -/
def doeDiscover (index : Nat) : Option (Nat × Nat × Nat) :=
  (doeProtocols[index]?).map (fun p => (p.1, p.2, if index + 1 < doeProtocols.length then index + 1 else 0))

/-- The page and the register offset that an offset of BAR0 names (R387, R420). -/
def bar0Page (off : Nat) : Nat := off / 4096 % 65536
def bar0Off (off : Nat) : Nat := off % 4096

/-- What an offset of BAR2 names (R387, R398). -/
inductive Bar2Place where
  | sqTail (q : Nat)
  | cqHead (q : Nat)
  | trHead (r : Nat)
  | msixTable (vector word : Nat)
  | pendingBits (word : Nat)
  | reserved
  deriving DecidableEq, Repr

def bar2Place (off : Nat) : Bar2Place :=
  if off < 0x180000 then
    if off % 4096 ≠ 0 then .reserved
    else if off < 0x40000 then .sqTail (off / 4096)
    else if off < 0x80000 then .cqHead ((off - 0x40000) / 4096)
    else .trHead ((off - 0x80000) / 4096)
  else if 0x1C0000 ≤ off && off < 0x1C8000 then .msixTable ((off - 0x1C0000) / 16) (off / 4 % 4)
  else if 0x1E0000 ≤ off && off < 0x1E0100 then .pendingBits ((off - 0x1E0000) / 8)
  else .reserved

end Sys2Proof.Machine
end

