-- ==== Sys2Proof/Tests/Slice0.lean ====
section
/-! SUPPORT. Tests: ill-formed terms that each check refuses, words written out from the encoding tables, and for each statement
with hypotheses a concrete state and operands that meet them. -/
set_option Elab.async false
set_option maxRecDepth 20000
set_option exponentiation.threshold 1000

namespace Sys2Proof.Tests
open Sys2Proof Sys2Proof.Machine

/-! ### Small operands, the illegal one of each check, and the words of R115 to R121 -/

def t0 : TaskRef := ⟨0, 0, 0⟩
def h0 : THdr := ⟨0, 0, false, 0⟩
def hMod (m : BitVec 8) : THdr := { h0 with mod := m }
def m0 : MatOps := ⟨0, 0, 0, 0⟩
def v0 : VecOps := ⟨0, 0, 0, 0, 0, 0, 0, false, false, 0, 0⟩
def r0 : RedOps := ⟨0, 0, 0, 0⟩
def a0 : AttOps := ⟨0, 0, 0, 0, 0, 0, 0, 0⟩
def u0 : RunOps := ⟨0, 0, 0, 0, 0, false⟩
def p0 : Packet := ⟨0, 0, 0, 0, false, false, 0, 0, 0, 0, 0, 0, 0, 0, [], 0⟩

/-- R128: a predicate field names p0 to p7. -/
theorem test_wf_predicates :
    ([.ceq t0 0 8 0 0, .cne t0 0 8 0 0, .clt t0 0 31 0 0, .cge t0 0 8 0 0, .cltu t0 0 8 0 0, .cgeu t0 0 8 0 0, .clti t0 0 8 0 0,
      .pand t0 0 8 0 0, .por t0 0 0 8 0, .pxor t0 0 0 0 8, .pandn t0 0 8 8 8] : List Instr).all (fun i => !i.wf) = true ∧
    Instr.wf (.ceq t0 0 7 31 31) = true ∧ Instr.wf (.pand t0 0 7 7 7) = true := by decide

/-- R129, R132: a shift by more than 31, SIZE 3, and SX on a store. -/
theorem test_wf_scalar :
    ([.slli t0 0 1 1 32, .srli t0 0 1 1 32, .srai t0 0 1 1 0x800, .scalarLoad t0 0 1 1 3 false 0, .scalarStore t0 0 1 1 3 false 0,
      .scalarStore t0 0 1 1 2 true 0] : List Instr).all (fun i => !i.wf) = true ∧
    Instr.wf (.slli t0 0 1 1 31) = true ∧ Instr.wf (.scalarLoad t0 0 1 1 2 true 0) = true := by decide

/-- R121, R146, R151: MOD bits, the lift descriptor and the unused sources of a vector instruction. -/
theorem test_wf_matrix_vector :
    ([.mmul t0 (hMod 1) m0, .mmul t0 h0 { m0 with dR := 1 }, .mmulLift t0 (hMod 1) m0, .vAdd t0 (hMod 1) v0,
      .vAdd t0 h0 { v0 with dC := 1 }, .vMul t0 h0 { v0 with sC := 1 }, .vMax t0 h0 { v0 with cs := true },
      .copysign t0 h0 { v0 with dK := 1 }, .div t0 h0 { v0 with bs := true, dB := 1 }, .fma t0 h0 { v0 with cs := true, dC := 1 },
      .fma t0 (hMod 1) v0, .abs t0 h0 { v0 with dB := 1 }, .neg t0 h0 { v0 with sB := 1 }, .exp t0 h0 { v0 with bs := true },
      .cvt t0 h0 { v0 with dK := 1 }, .cvt t0 (hMod 2) v0, .rope t0 h0 { v0 with bs := true }, .rope t0 h0 { v0 with sB := 1 },
      .rope t0 (hMod 2) v0] : List Instr).all (fun i => !i.wf) = true ∧
    Instr.wf (.cvt t0 (hMod 1) { v0 with dK := 1 }) = true ∧ Instr.wf (.fma t0 h0 { v0 with bs := true, sB := 3, cs := true, sC := 4 }) = true ∧
    Instr.wf (.rope t0 (hMod 1) { v0 with dK := 2, dB := 1 }) = true := by decide

/-- R121, R154, R157, R231, R161 to R166: reductions, attention, KVPUT, runner, sentinel and hand-off. -/
theorem test_wf_other_units :
    ([.rsum t0 h0 { r0 with dB := 1 }, .rmax t0 h0 { r0 with sE := 1 }, .psum t0 (hMod 1) r0, .rmsn t0 (hMod 1) r0,
      .attnRing t0 (hMod 8) a0, .attnRing t0 h0 { a0 with dP := 1 }, .attnPage t0 (hMod 5) { a0 with dM := 1 },
      .attnPage t0 (hMod 3) { a0 with dT := 1 }, .kvput t0 (hMod 2) a0, .kvput t0 h0 { a0 with dP := 1 }, .kvput t0 h0 { a0 with sS := 1 },
      .kvput t0 h0 { a0 with dM := 1 }, .kvput t0 h0 { a0 with dT := 1 }, .move t0 (hMod 1) u0, .fill t0 (hMod 1) u0,
      .gather t0 (hMod 1) u0, .sent t0 (hMod 2) ⟨0, 0, 0, 0⟩, .rhand t0 (hMod 1) ⟨0, 0, 0, 0, 0, 0⟩] : List Instr).all (fun i => !i.wf)
      = true ∧
    Instr.wf (.rmsn t0 h0 { r0 with dB := 1, sE := 1 }) = true ∧ Instr.wf (.sent t0 (hMod 1) ⟨0, 0, 0, 0⟩) = true := by decide

/-- R316: a payload of more than 4,096 bytes is no packet's. -/
theorem test_wf_payload (p : Packet) (h : p.payload.length = 4097) :
    Instr.wf (.wr p) = false ∧ Instr.wf (.packetHop 0 0 p) = false ∧ Instr.wf (.grant p0) = true := by
  simp [Instr.wf, Packet.wf, h, p0]

/-- R118, R128: CLASS 0x0, rd in [24:20], rs1 in [19:15], rs2 in [14:10], FUNC in [4:0]: SUB s1, s2, s3 under p5. -/
theorem test_decode_class0 :
    decodeParcels t0 [0b101_0000_00001_00010_00011_00000_00001] = some (.sub t0 5 1 2 3) ∧
    decodeParcels t0 [0b101_0000_00001_00010_00011_00001_00001] = none := by decide
/-- R118, R129: CLASS 0x1, FUNC in [14:12]; CLASS 0x2 with IMM20: ORI s1, s0, 0xC00 and LUI s4, 0x80001. -/
theorem test_decode_class1_2 :
    decodeParcels t0 [0b000_0001_00001_00000_010_110000000000] = some (.ori t0 0 1 0 0xC00) ∧
    decodeParcels t0 [0b000_0010_00100_10000000000000000001] = some (.lui t0 0 4 0x80001) := by decide
/-- R118, R131: CLASS 0x3, FUNC in [24:22]; JR has its low bits zero. -/
theorem test_decode_class3 :
    decodeParcels t0 [0b001_0011_000_1111111111111111111110] = some (.br t0 1 0x3FFFFE) ∧
    decodeParcels t0 [0b000_0011_001_0011_100000000000000001] = some (.jal t0 0 3 0x20001) ∧
    decodeParcels t0 [0b000_0011_010_1110_000000000000000000] = some (.jr t0 0 14) ∧
    decodeParcels t0 [0b000_0011_010_1110_000000000000000001] = none := by decide
/-- R118, R132: CLASS 0x4, s, aA, SIZE, ST, SX and IMM12; SIZE 3 and SX of a store are undefined. -/
theorem test_decode_class4 :
    decodeParcels t0 [0b000_0100_00110_0101_01_0_1_111111111100] = some (.scalarLoad t0 0 6 5 1 true 0xFFC) ∧
    decodeParcels t0 [0b000_0100_00110_0101_10_1_0_000000000100] = some (.scalarStore t0 0 6 5 2 false 4) ∧
    decodeParcels t0 [0b000_0100_00110_0101_11_0_0_000000000000] = none ∧
    decodeParcels t0 [0b000_0100_00110_0101_10_1_1_000000000000] = none := by decide
/-- R118, R133, R134: CLASS 0x5 and 0x6, FUNC in [20:18]. -/
theorem test_decode_class5_6 :
    decodeParcels t0 [0b000_0101_0001_010_00010_00011_00000000] = some (.aset t0 0 1 2 3) ∧
    decodeParcels t0 [0b000_0110_0001_000_0010_11111111111100] = some (.daddr t0 0 1 2 0x3FFC) ∧
    decodeParcels t0 [0b000_0110_0001_001_00_00010010_01_000000] = some (.dfmt t0 0 1 0x12 1) ∧
    decodeParcels t0 [0b000_0110_0001_001_00_00010010_01_000001] = none := by decide
/-- R118, R136, R137: CLASS 0x7, FUNC, GATE, sX, sD and TMO: GWAIT gate 17 to s2 with timeout register 0. -/
theorem test_decode_class7 :
    decodeParcels t0 [0b000_0111_001_0000010001_00010_00000_00] = some (.gwait t0 0 17 2 0 0) := by decide
/-- R118, R167: CLASS 0x8. -/
theorem test_decode_class8 : decodeParcels t0 [0x10000000] = some (.nop t0 0) ∧ decodeParcels t0 [0x10000001] = none := by decide
/-- R119, R120: parcel 0 and the operand fields of CLASS 0x9: MMUL d1, d2, d3 with done gate 17. -/
theorem test_decode_matrix :
    decodeParcels t0 [0b000_1001_000000_0000010001_1_00000000, 0x321, 0, 0] =
      some (.mmul t0 ⟨0, 17, true, 0⟩ ⟨1, 2, 3, 0⟩) ∧
    decodeParcels t0 [0b000_1001_000000_0000010001_1_00000000, 0x10321, 0, 0] = none := by decide

/-! ### Witnesses: for each statement with hypotheses, a state and operands that meet them -/

/-- After bring-up: VAUX and main power, and every domain of tile 0 ON and zeroed. -/
def wBase : State :=
  let s := State.setRf { State.reset with boot := { vaux := true, main := true } } (stewPage 0) Reg.BOOT_STAT 3 0 11
  (s.setRf (pwrPage 0) Reg.PWR_DOM 15 0 0xAAAA).setRf (poolPage 0) Reg.POOL_STAT 3 0 0

/-- Crucible 0 of tile 0 with its clock on; task 0 with segment 0 in its pool and segment 1 in peat. -/
def wTask (x : Task) (c : Crucible := { icache := [0] }) : State :=
  let pg := cruPage 0 0
  let s := (wBase.setRb pg Reg.CRU_CTL 16 true).setReg pg (Reg.SEG_LIM 0 0) (word [(0, 0x1000000), (48, 7)])
  let s := (s.setReg pg (Reg.SEG_BASE 0 1) (word [(48, 1)])).setReg pg (Reg.SEG_LIM 0 1) (word [(0, 0x1000000), (48, 7)])
  { s with tasks := [(0, x)], crus := [(0, c)] }

/-- Slots 0 and 1 of polder 0 map to tiles 0 and 1, which are members, as tile 0 sees them; the two are bed 0. -/
def wMesh (s : State) : State :=
  let s := (s.setRb (cetisPage 0) Reg.CETIS_CTL 3 true).setRb (cetisPage 1) Reg.CETIS_CTL 3 true
  { (s.setBedReg 0 Reg.BED_CFG0 (word [(11, 3), (20, 1), (48, 1)])) with
    slotMap := [(0, 0x80), (1, 0x81), (1024, 0x80), (1025, 0x81)] }

/-- A page's guard is port A's. -/
def wGuard (page : Nat) (s : State) : State := { s with guards := Store.set {} s.guards page ⟨1, s.up + 1024⟩ }

/-- The first address of segment 1. -/
def seg1 : Addr := BitVec.ofNat 48 (2 ^ 46)

theorem witness_ScalarResults :
    let s := wTask { st := .ready, s := [(31, 0x80000000)] }
    s.reaches t0 4 0 [0, 31, 31] = true ∧ s.reaches t0 4 0 [31] = true ∧ s.reaches t0 4 0 [] = true ∧
    (31 : BitVec 12).toNat < 32 ∧ (7 : BitVec 5).toNat < 8 := by decide

theorem witness_BranchesAndAddressing :
    let s := wTask { st := .ready, p := [(7, true)] }
    s.reaches t0 4 7 [] = true ∧ s.reaches t0 4 7 [31] = true ∧ s.reaches t0 4 7 [0, 31] = true ∧
    s.reaches t0 4 7 [1, 2, 31] = true := by decide

theorem witness_SystemInstructions :
    let s := wTask { st := .ready }
    s.reaches t0 4 0 [31] = true ∧ ((wMesh s).slotsOf 0 0).head? = some 0 ∧ s.slotsOf 0 0 = [] ∧ (wMesh s).reaches t0 4 0 [31] = true ∧
    (s.taskAt t0).faultSeq = none := by decide

theorem witness_ScalarMemory :
    let s := wTask { st := .ready, a := [(1, 0xFFFFFC), (2, seg1)] }
    let busy := wTask { st := .ready, a := [(1, 0xFFFFFC)] } { icache := [0], sb := [⟨false, 0xFFFFFF, 0x1000000, true, 1, .vector, 0⟩] }
    let l : Machine.LoadWait := ⟨31, 4, true, false, 0xFFFFFC, 0xFFFFFC, 0⟩
    let late := wTask { st := .waiting, wait := .load, load := some l }
    s.reaches t0 4 0 [31] = true ∧ s.scalarCheck t0 0xFFFFFC 4 .read = none ∧ s.scalarCheck t0 0xFFFFFD 4 .read = some fMisalign ∧
    s.scalarCheck t0 0x1000000 4 .read = some fSegBound ∧ busy.reaches t0 4 0 [31] = true ∧ busy.scalarCheck t0 0xFFFFFC 4 .read = none ∧
    (busy.cru 0 0).conflicts ⟨false, 0xFFFFFC, 0x1000000, false⟩ = true ∧
    s.scalarCheck t0 0xFFFFFC 4 .write = none ∧ s.nearReady 0 0 false 0xFFFFFC 4 = true ∧
    (s.cru 0 0).conflicts ⟨false, 0xFFFFFC, 0x1000000, true⟩ = false ∧
    s.scalarCheck t0 seg1 4 .write = none ∧ s.physOf t0 seg1 = (spPeat, 0) ∧ s.nearReady 0 0 true 0 4 = true ∧
    (late.taskAt t0).load = some l ∧ late.nearReady 0 0 l.peat l.off l.size = true ∧
    late.nearPoisoned 0 0 l.peat l.off l.size = false := by decide

theorem witness_GateInstructions :
    let w : Machine.GateWait := ⟨1023, 0x80000000, 31, some 100000⟩
    let s : State := { wTask { st := .waiting, wait := .gate, gate := some w } with up := 100000 }
    (wTask { st := .ready }).reaches t0 4 0 [31, 0] = true ∧ (wTask { st := .ready }).gbReady 0 0 = true ∧ (s.taskAt t0).gate = some w ∧
    2 ^ 31 ≤ (s.gate 0 1023 - 0x80000000).toNat ∧ w.till = some 100000 ∧ 100000 ≤ s.up ∧ (s.taskAt t0).faultSeq = none ∧
    (({ s with gates := [(1023, 0xFFFFFFFF)] } : State).gate 0 1023 - 0x80000000).toNat < 2 ^ 31 := by decide

theorem witness_GateArrivals :
    let s := wMesh (wTask { st := .ready, s := [(1, 0xFFFFFFFF), (2, 1)] })
    let f := s.gbFlushAll 0 0
    let add (d : Nat) : Machine.Send := { dst := d, op := opGadd, addr := 1023, operand := 0xFFFFFFFF }
    let p : Packet := Packet.sealed { p0 with op := 5, addr := 1023, operand := 1 }
    s.reaches t0 4 0 [1, 2] = true ∧ s.gbReady 0 0 = true ∧ f.slotTile 0 0 1 = some 1 ∧ f.canSend 0 (add 1) = true ∧ f.bedOf 0 = some 0 ∧
    f.bedSlots 0 = [0, 1] ∧ f.slotTile 0 0 0 = some 0 ∧ f.canSend 0 (add 0) = true ∧
    Packet.wf p = true ∧ ({ s with arrivals := [p] } : State).arrivable opGadd p = true ∧ s.ejectCause 0 p = none ∧
    s.pageLive (gatePage 0) = true := by decide +kernel

theorem witness_TaskControl :
    let s := wGuard (cruPage 0 0) (wTask { st := .idle })
    let d (x : Machine.TState) := wTask { st := .draining, after := x }
    let e : Machine.SbEntry := ⟨false, 0, 256, false, 0, .vector, 7⟩
    let w : Machine.Work := workOf 7 t0 {} (.exp t0 h0 v0)
    let q := wTask {} { sb := [e], vector := [w] }
    let c : Machine.UCtx := ⟨⟨0, 0, e.task⟩, w⟩
    let f := wTask { st := .waiting, wait := .fetch, pc := 256 }
    s.admits .portA (cruPage 0 0) (Reg.TASK_CTL 0) = true ∧ s.poolOn 0 0 = true ∧ (s.taskAt t0).st = .idle ∧
    ((d .halted).taskAt t0).after ≠ .idle ∧ ((d .idle).cru 0 0).inflight 0 = 0 ∧ ((d .idle).taskAt t0).load = none ∧
    (d .idle).gbReady 0 0 = true ∧ (s.setRf (cruPage 0 0) Reg.CRU_CTL 15 0 1).rf (cruPage 0 0) Reg.CRU_CTL 15 0 ≠ 0 ∧
    f.physOf t0 256 = (0, 256) ∧ f.nearReady 0 0 false 256 256 = true ∧ f.nearPoisoned 0 0 false 256 256 = false ∧
    (q.cru 0 0).sb[0]? = some e ∧ ((q.cru 0 0).queue .vector).find? (fun w => w.iid = e.iid) = some w ∧
    w.phase = .queued ∧ q.reached c e.unit = true ∧ q.canAdd c = true ∧ q.piecesReady c (q.ownPieces c) = true ∧ q.slotNeeds c = [] ∧
    ((q.cru 0 0).queue .mould).find? (fun w => w.iid = e.iid) = none := by decide +kernel

theorem witness_IssueStage :
    let s (x : Task) := wTask { x with st := .ready }
    issueRequest (.slli t0 3 1 2 32) = some (t0, ⟨4, true, 3, [1, 2]⟩) ∧ (wTask {}).canTry t0 = false ∧ (s {}).canTry t0 = true ∧
    (s { pc := 0x1000000 }).fetchCheck t0 4 = some fSegBound ∧ (s { pc := 0xFFFFFC }).fetchCheck t0 4 = none ∧
    ((s { pc := 256 }).cru 0 0).icache.contains ((s { pc := 256 }).icLine t0 256) = false ∧
    ((s {}).cru 0 0).icache.contains ((s {}).icLine t0 255) = true ∧ (2 : Addr).toNat % 4 ≠ 0 ∧
    issueRequest (.mmul t0 h0 m0) = some (t0, ⟨16, false, 0, []⟩) ∧ ((s {}).taskAt t0).rp 3 = false ∧
    [(2 : BitVec 5)].any (fun r => [2].contains r.toNat) = true := by decide

/-- A row of n elements at an address. -/
def wDesc (a : Addr) (n : BitVec 20) (tag : BitVec 2 := 0) : Desc := { addr := a, tag := tag, d0 := n, d1 := 1, d2 := 1, s1 := 4096, s2 := 4096 }
/-- A dispatched instruction with its descriptors d1 and d2. -/
def wWork (i : Instr) (d1 d2 : Desc) (ph : Machine.Phase := .queued) : Machine.Work :=
  { workOf 7 t0 { d := [(1, d1), (2, d2)] } i with phase := ph, tag := 9 }
/-- Region 0 of crucible 0's pool enabled, one slot from byte 0, and the state of that slot. -/
def wRegion (x : Machine.SlotState) (s : State) : State :=
  let s := (s.setReg (poolPage 0) (Reg.CREG_CTL 0) 0x3B9ACA0000000001).setReg (poolPage 0) (Reg.CREG_BASE 0) (word [(32, 1)])
  { s with slots := Store.set .empty s.slots (slotKey 0 false 0 0) x }

theorem witness_TensorDispatchAndStops :
    let i : Instr := .vAdd t0 h0 { v0 with dD := 1, dA := 2, dB := 2 }
    let x (d1 d2 : Desc) : Task := { st := .ready, d := [(1, d1), (2, d2)] }
    let s (d1 d2 : Desc) := wTask (x d1 d2)
    let g := s (wDesc 0xFFFFFC 1) (wDesc 0 1)
    let ops := g.operands t0 (x (wDesc 0xFFFFFC 1) (wDesc 0 1)).rd i
    let rs := g.ranges t0 ops
    let c (e : List Machine.SbEntry) (n : Nat) : Machine.Crucible :=
      { icache := [0], sb := e, vector := List.replicate n (wWork i (wDesc 0 1) (wDesc 0 1)) }
    let e : Machine.SbEntry := ⟨false, 0, 1, true, 1, .mould, 0⟩
    tensorIssue i = some ⟨t0, h0, .vector, [], []⟩ ∧ i.wf = true ∧ g.reaches t0 16 0 [] = true ∧
    g.checkOps t0 ops = none ∧ shapeOk (x (wDesc 0xFFFFFC 1) (wDesc 0 1)).rd i = true ∧ rs.length = 3 ∧
    rs.any (c [] 7).conflicts = false ∧ ((c [] 7).queue .vector).length < unitDepth .vector ∧
    rs.any (c [e] 0).conflicts = true ∧ unitDepth .vector ≤ ((c [] 8).queue .vector).length ∧
    64 < (List.replicate 62 { e with lo := 4096, hi := 4097 }).length + rs.length ∧
    rs.any (c (List.replicate 62 { e with lo := 4096, hi := 4097 }) 0).conflicts = false ∧
    g.checkOps t0 (g.operands t0 (x (wDesc 0x1000000 1) (wDesc 0 1)).rd i) = some (fSegBound, 0x1000000) ∧
    shapeOk (x (wDesc 0 2) (wDesc 0 3)).rd i = false := by decide +kernel

theorem witness_UnitResults :
    let w := wWork (.abs t0 h0 { v0 with dD := 1, dA := 2 }) (wDesc 0 2 1) (wDesc 4096 2)
    let s := wRegion .empty (wTask {} { vector := [w] })
    let c : UCtx := ⟨t0, w⟩
    let s1 := (s.claimWork c .vector).2
    let c1 := s1.again c .vector
    s.unitWork 0 0 .vector 0 = (s, some c) ∧ s.nothingToDo c = false ∧ s.canAdd c = true ∧ w.phase = .queued ∧ runJob w.instr = none ∧
    s.piecesReady c (s.workPieces c) = true ∧ s.claimWork c .vector = (true, s1) ∧ s1.arithEffect c1 ≠ none ∧
    s1.poisonedPiece c1 (s1.workPieces c1) = none ∧ s1.badOverlap c1 = false ∧ s1.physOf t0 0 = (spPool, 0) ∧
    (wRegion .empty (wTask {} { vector := [{ w with want := some ⟨0, false, 0, 0, true, 0, false⟩ }] })).waitingWork 0 0 .vector =
      some ⟨t0, { w with want := some ⟨0, false, 0, 0, true, 0, false⟩ }⟩ := by decide +kernel

theorem witness_LocalMoves :
    let w := wWork (.fill t0 h0 { u0 with dD := 1, rg := 1023, rge := true }) (wDesc 0 8 1) {}
    let s := wRegion .empty (wTask {} { runner := [w] })
    let c : UCtx := ⟨t0, w⟩
    let j : RunJob := ⟨.fill, h0, { u0 with dD := 1, rg := 1023, rge := true }⟩
    let s1 := (s.claimWork c .runner).2
    let c1 := s1.again c .runner
    s.unitWork 0 0 .runner 0 = (s, some c) ∧ runJob w.instr = some j ∧ s.wantsIdx c j = false ∧ s.canAdd c = true ∧
    s.piecesReady c (s.runPieces c j) = true ∧ s.claimWork c .runner = (true, s1) ∧ s1.poisonedPiece c1 (s1.runPieces c1 j) = none ∧
    s1.badOverlap c1 = false ∧ s1.physOf t0 0 = (spPool, 0) ∧ c1.w.instr = w.instr ∧ j.kind = .fill ∧ (c.regs j.o.dD).d0 ≠ 0 ∧
    (c.regs j.o.dD).d1 ≠ 0 ∧ (c.regs j.o.dD).d2 ≠ 0 := by decide +kernel

theorem witness_UnitStops :
    let w := wWork (.abs t0 h0 { v0 with dD := 1, dA := 2 }) (wDesc 0 2 1) (wDesc 4096 2)
    let s (w : Machine.Work) := wRegion .full (wTask {} { vector := [w] })
    let c : UCtx := ⟨t0, w⟩
    let n : SlotNeed := ⟨0, 0, 0, true, 8, 0, 0⟩
    let late : UCtx := ⟨t0, { w with since := some 0, want := some (n.claim 0) }⟩
    let u : State := { s late.w with up := 0x3B9ACA00 }
    let k := wWork (.kvput t0 h0 { a0 with dO := 1, dX := 2, dQ := 1, dK := 1 }) (wDesc 0 8) (wDesc 4096 2) .pageWait
    let ks := wTask {} { attn := [k] }
    let kq := ks.mapWork t0 .attention 7 (fun w => { w with phase := .queued })
    let ok := wRegion .empty (wTask {} { vector := [w] })
    (s w).nothingToDo c = false ∧ (s w).canAdd c = true ∧ runJob w.instr = none ∧ (s w).piecesReady c ((s w).ownPieces c) = true ∧
    (s w).slotNeeds c = [n] ∧ w.claims = [] ∧ (s w).claimable 0 (unitRank 0 .vector) (n.claim 0) = false ∧
    (s w).unitWork 0 0 .vector 0 = (s w, some c) ∧ u.waitingWork 0 0 .vector = some late ∧
    (u.taskAt t0).faultSeq = none ∧ ok.sourceAt c 4096 ≠ none ∧ (ok.readyWork c .vector).1 = true ∧
    ok.unitWork 0 0 .vector 0 = (ok, some c) ∧ (0 : BitVec 8).toNat ≠ fSlotTimeout ∧ (0 : BitVec 8).toNat ≠ fEcc ∧
    u.cregTmo 0 false 0 ≠ 0 ∧ 0 + u.cregTmo 0 false 0 ≤ u.up ∧ u.claimable 0 (unitRank 0 .vector) (n.claim 0) = false ∧
    (ks.unitWork 0 0 .attention 0).2 = some ⟨t0, k⟩ ∧ kq.nothingToDo ⟨t0, k⟩ = false ∧ kq.canAdd ⟨t0, k⟩ = true ∧
    decodeParcels t0 ([0xFFFFFFFF, 0, 0, 0, 0].take (16 / 4)) = none ∧
    decodeParcels t0 (([0b000_1000_11111_00000_000000000000000, 0, 0, 0, 0]).take (4 / 4)) = none ∧
    (wTask { st := .ready }).canTry t0 = true ∧ (wTask { st := .ready }).fetchCheck t0 16 = none ∧
    ((wTask { st := .ready }).cru 0 0).icache.contains ((wTask { st := .ready }).icLine t0 0) = true := by decide +kernel

/-- A KVPUT that waited for its page: row 0's key is valid where `live` is, and the layers of peat are OFF where `off` is. -/
def wKvput (live off : Bool) : State :=
  let k := wWork (.kvput t0 h0 { a0 with dO := 1, dX := 2, dQ := 1, dK := 1 }) (wDesc 0 8) (wDesc 4096 2) .pageWait
  let s : State := { wTask {} { attn := [k] } with
    pool := (if live then [(poolKey 0 0 8, 1)] else []) ++ [(poolKey 0 0 4096, 0x12)] }
  if off then s.setRf (pwrPage 0) Reg.PWR_DOM 15 0 0xAA else s

theorem witness_UnitStops_kvput :
    let o : AttOps := { a0 with dO := 1, dX := 2, dQ := 1, dK := 1 }
    let k := wWork (.kvput t0 h0 o) (wDesc 0 8) (wDesc 4096 2) .pageWait
    let c : UCtx := ⟨t0, k⟩
    let ready (s : State) : State := s.mapWork t0 .attention 7 (fun w => { w with phase := .queued })
    let ok (s : State) : Bool :=
      let s0 := ready s
      let s1 := (s0.claimWork c .attention).2
      let c1 := s1.again c .attention
      decide ((s.unitWork 0 0 .attention 0).2 = some c) && !s0.nothingToDo c && s0.canAdd c && s0.piecesReady c (s0.workPieces c) &&
        (s0.claimWork c .attention).1 && decide (c1.w.instr = k.instr) && (s1.poisonedPiece c1 (s1.workPieces c1)).isNone
    let run (s : State) : AttOut := let s1 := ((ready s).claimWork c .attention).2; s1.kvputRun (s1.again c .attention) h0 o
    ok (wKvput false false) = true ∧ ok (wKvput true true) = true ∧
    (match run (wKvput false false) with | .done _ e => e.rows.isEmpty | _ => false) = true ∧
    (match run (wKvput true true) with | .wait _ => true | _ => false) = true := by decide +kernel

/-- Segment 2 of task 0: peat of the tile in logical slot 1. -/
def wRemote (s : State) : State :=
  (s.setReg (cruPage 0 0) (Reg.SEG_BASE 0 2) (word [(41, 1), (48, 3)])).setReg (cruPage 0 0) (Reg.SEG_LIM 0 2) (word [(0, 4096), (48, 7)])
/-- The first address of segment 2. -/
def seg2 : Addr := BitVec.ofNat 48 (2 ^ 47)
/-- Every domain of tile 0 OFF. -/
def wOff (s : State) : State := s.setRf (pwrPage 0) Reg.PWR_DOM 15 0 0
/-- A packet from tile 0 to tile 0. -/
def wPkt (op : BitVec 8) (addr : Addr) (operand : W64) (payload : List Byte) : Packet :=
  Packet.sealed { p0 with op := op, addr := addr, operand := operand, payload := payload, tag := 9 }
/-- A packet that waits to be taken out at its destination. -/
def wArr (p : Packet) (s : State) : State := { s with arrivals := [p] }

theorem witness_MemoryUpkeep :
    let r : Machine.Ramp := ⟨0, 7, 2, 0, 0, .zeroing, true, none⟩
    let s : State := { wOff wBase with ramps := [r, { r with dom := 3 }] }
    let e : Machine.GbEntry := ⟨0x1FFFFFF, [(255, some 1)], 0⟩
    let g : State := { wTask {} { gb := [e] } with up := 64 }
    let b := (wBase.setRb (peatPage 0) Reg.PEAT_CTL 0 true)
    s.rampOf 0 3 = some { r with dom := 3 } ∧ s.rampOf 0 (4 + 3) = some r ∧ s.boot.main = true ∧ s.dom 0 (4 + 3) ≠ 2 ∧
    (wOff wBase).rampOf 0 7 = none ∧ e ∈ (g.cru 0 0).gb ∧ 0 + g.gbAge 0 ≤ g.up ∧ g.entryReady 0 e = true ∧
    8 * (0x2FFFFF : BitVec 22).toNat < poolSize ∧ wBase.rb (poolPage 0) Reg.POOL_CTL 0 = true ∧ wBase.poolOn 0 3 = true ∧
    b.rb (peatPage 0) Reg.PEAT_CTL 0 = true ∧ b.peatOn 0 (8 * (0x3FFFFFFF : BitVec 30).toNat) 8 = true ∧
    scrubFinds (wBase.poolPoisoned 0 0 0 8) .clean = .clean ∧ scrubFinds true .clean = .uncorrectable := by decide +kernel

theorem witness_ChannelRegions :
    let pg := poolPage 0
    let off := wGuard pg ((wRegion .empty wBase).setReg pg (Reg.CREG_CTL 0) 0)
    let on := wGuard pg (wRegion .full wBase)
    let big := off.setReg pg (Reg.CREG_BASE 0) (word [(32, 2047)])
    let v : W64 := 0x3B9ACA0000000001
    off.admits .portA pg (Reg.CREG_CTL 0) = true ∧ off.cregEn 0 false 0 = false ∧ off.regionFits 0 false 0 = true ∧
    big.admits .portA pg (Reg.CREG_CTL 0) = true ∧ big.cregEn 0 false 0 = false ∧ big.regionFits 0 false 0 = false ∧
    on.admits .portA pg (Reg.CREG_CTL 0) = true ∧ on.cregEn 0 false 0 = true ∧
    v &&& (maskOf 1 1 ||| maskOf 63 32) = on.reg pg (Reg.CREG_CTL 0) &&& (maskOf 1 1 ||| maskOf 63 32) ∧
    (v + 2) &&& (maskOf 1 1 ||| maskOf 63 32) ≠ on.reg pg (Reg.CREG_CTL 0) &&& (maskOf 1 1 ||| maskOf 63 32) ∧
    on.slotReady ⟨0, false, 0, 0, false, 0, false⟩ = true ∧ (wRegion .empty wBase).slotReady ⟨0, false, 0, 0, true, 0, false⟩ = true ∧
    on.admits .portA pg Reg.CSLOT_STATE = true ∧ on.rf pg Reg.CSLOT_SEL 25 16 < on.cregCount 0 false 0 ∧ on.slot 0 false 0 0 = .full ∧
    (wRegion .draining wBase).slot 0 false 0 0 = .draining ∧ fld 3 1 0 = 3 ∧ fld 2 1 0 = 2 ∧
    on.cregCount 0 false 0 ≤ (on.setRf pg Reg.CSLOT_SEL 25 16 1).rf pg Reg.CSLOT_SEL 25 16 := by decide +kernel

theorem witness_MeshAccesses :
    let b := wMesh (wTask {})
    let wr (a : Addr) (n : W64) := wPkt 1 a n [0xFF]
    let top := wr 0x1FFFFFFFF (2 ^ 58 + 1023 * 2 ^ 48 + 1)
    let pool := wr 0x58017FFFFF 2
    let out := wPkt 1 0x1FFFFFFFF 2 [1, 2]
    let s (p : Packet) := wArr p b
    let late (op : BitVec 8) (x : Machine.SlotState) : State :=
      let p := wPkt op 0x4000000000 1 (if op = 1 then [1] else [])
      { wRegion x (s p) with rx := [(0, [{ src := 0, tag := 9, bytes := 0, total := 1, claims := [], todo := [⟨0, false, 0, 0, op = 1, 1, false⟩] }])] }
    let lw := wPkt 1 0x4000000000 1 [1]
    let dead : State := { s top with rx := [(0, [{ src := 0, tag := 9, bytes := 0, total := 1, claims := [], dead := true }])] }
    (s top).accepts 0 opWr top = true ∧ (placeOf top.addr.toNat).inside 1 = true ∧ (s top).placeReady 0 (placeOf top.addr.toNat) 1 = true ∧
    (s top).moveParked 0 top = false ∧ ((s top).takePkt top).rxReady 0 0 1 top = (true, b) ∧ (b.rxOf 0 top 1).1.dead = false ∧
    1 ≤ (b.rxOf 0 top 1).1.bytes + 1 ∧ (s top).canSend 0 (replyTo top opMoveDone 0 1 []) = true ∧
    (s pool).accepts 0 opWr pool = true ∧ (placeOf pool.addr.toNat).inside 1 = true ∧ (s pool).placeReady 0 (placeOf pool.addr.toNat) 1 = true ∧
    (((s pool).takePkt pool).rxReady 0 0 1 pool).1 = true ∧ (b.rxOf 0 pool 2).1.bytes + 1 < 2 ∧
    (dead.rxOf 0 top 1).1.dead = true ∧ ((dead.takePkt top).rxReady 0 0 1 top).1 = true ∧
    (late 1 .full).accepts 0 opWr lw = true ∧ (((late 1 .full).takePkt lw).rxReady 0 0 1 lw).1 = false ∧
    (((late 1 .empty).takePkt lw).rxReady 0 0 1 lw).1 = true ∧
    (s out).accepts 0 opWr out = true ∧ (placeOf out.addr.toNat).inside 2 = false ∧ (((s out).takePkt out).rxReady 0 0 2 out).1 = true ∧
    (s out).canSend 0 (replyTo out opRefuse out.addr.toNat 1 []) = true ∧
    (wOff (s top)).placeReady 0 (placeOf top.addr.toNat) 1 = false ∧ (wOff (s top)).accepts 0 opWr top = true := by decide +kernel

theorem witness_MeshAccesses_reads :
    let b := wMesh (wTask {})
    let rd (a : Addr) (n : W64) := wPkt 2 a n []
    let s (p : Packet) := wArr p b
    let p := rd 0x1FFFFF000 4096
    let out := rd 0x1FFFFFFFF 2
    let long := rd 0 4097
    let bad : State := { s p with peatBad := [(0x1FFFFF000 / 256, true)] }
    let reply := replyTo p opRdData 0 4096 ((s p).readPlace 0 (placeOf p.addr.toNat) 4096)
    (s p).accepts 0 opRd p = true ∧ (s p).moveParked 0 p = false ∧ ((s p).takePkt p).rxReady 0 0 4096 p = (true, b) ∧
    (b.rxOf 0 p 0).1.claims.all (fun c => !c.write) = true ∧ (placeOf p.addr.toNat).inside 4096 = true ∧
    (s p).placeReady 0 (placeOf p.addr.toNat) 4096 = true ∧ (s p).placePoisoned 0 (placeOf p.addr.toNat) 4096 = false ∧
    (s p).canSend 0 reply = true ∧ bad.accepts 0 opRd p = true ∧ bad.placePoisoned 0 (placeOf p.addr.toNat) 4096 = true ∧
    bad.canSend 0 (replyTo p opRefuse p.addr.toNat 1 []) = true ∧ (s out).accepts 0 opRd out = true ∧
    (placeOf out.addr.toNat).inside 2 = false ∧ (s long).accepts 0 opRd long = true ∧ (s long).placeReady 0 (placeOf 0) 4097 = true ∧
    (wOff (s p)).placeReady 0 (placeOf p.addr.toNat) 4096 = false ∧ (wOff (s p)).accepts 0 opRd p = true := by decide +kernel

theorem witness_MoveProgress :
    let o : RunOps := { u0 with dD := 1, dS := 2, rg := 1023, rge := true }
    let w : Machine.Work := { wWork (.move t0 h0 o) (wDesc 0 8) (wDesc seg2 8) (.moving 8) with since := none }
    let c : UCtx := ⟨t0, w⟩
    let j : RunJob := ⟨.move, h0, o⟩
    let b := wMesh (wTask {} { runner := [w] })
    let done (n : W64) := wPkt 4 0 n []
    let data := wPkt 3 0 0 (List.replicate 8 1)
    let part := wPkt 3 7 0 [1]
    let s (p : Packet) := wArr p b
    b.moveOf 0 9 = some c ∧ w.phase = .moving 8 ∧ runJob w.instr = some j ∧ b.canAdd c = true ∧
    (s (done 8)).accepts 0 opMoveDone (done 8) = true ∧ 8 ≤ bits (done 8).operand.toNat 47 0 ∧
    (s (done 7)).accepts 0 opMoveDone (done 7) = true ∧ bits (done 7).operand.toNat 47 0 < 8 ∧
    (s data).accepts 0 opRdData data = true ∧ b.physOf t0 0 = (spPool, 0) ∧ b.piecesReady c [b.rdPiece c j data] = true ∧
    b.lateNeeds c = [] ∧ w.claims = [] ∧ w.since = none ∧ w.want = none ∧ 8 ≤ data.payload.length ∧
    (s part).accepts 0 opRdData part = true ∧ b.piecesReady c [b.rdPiece c j part] = true ∧ part.payload.length < 8 := by decide +kernel

/-- The probe of one row of a byte of crucible 0's pool, to be written. -/
def wProbe : Packet := wPkt 6 0x4000000000 0x4000000000000001 (leBytes 4 1 ++ leBytes 4 1 ++ leBytes 4 1 ++ leBytes 4 0 ++ leBytes 8 0)

theorem witness_SlotProbes :
    let p := wProbe
    let s (x : Machine.SlotState) := wArr p (wRegion x (wMesh (wTask {})))
    let n := wArr p (wMesh (wTask {}))
    let k : Claim := ⟨0, false, 0, 0, true, 1, false⟩
    let q (x : Machine.SlotState) : State := { wRegion x (wMesh (wTask {})) with probes := [(0, [⟨p, 0, some k⟩])] }
    let o : RunOps := { u0 with dD := 1, dS := 2, rg := 1023, rge := true }
    let c : UCtx := ⟨t0, wWork (.move t0 h0 o) (wDesc seg2 8) (wDesc 0 8) .probing⟩
    let g := wPkt 7 0 0 []
    let m := wArr g (wRemote (wMesh (wTask {} { runner := [c.w] })))
    (s .empty).accepts 0 opProbe p = true ∧ ((s .empty).probesAt 0).length < probeTable ∧
    ((s .empty).probeNeeds 0 p).map (·.claim 0) = [k] ∧ (n.probeNeeds 0 p).map (·.claim 0) = [] ∧ n.accepts 0 opProbe p = true ∧
    (s .empty).claimable 0 (probeRank 0) k = true ∧ (s .empty).canSend 0 (replyTo p opGrant p.addr.toNat 0 []) = true ∧
    (s .full).claimable 0 (probeRank 0) k = false ∧ (s .full).accepts 0 opProbe p = true ∧
    ((q .empty).probesAt 0)[0]? = some ⟨p, 0, some k⟩ ∧ ((q .empty).probeNeeds 0 p).map (·.claim 0) = [k] ∧
    (q .empty).claimable 0 (probeRank 0) k = true ∧ (q .full).claimable 0 (probeRank 0) k = false ∧ p.op.toNat = opProbe ∧
    m.accepts 0 opGrant g = true ∧ m.moveOf 0 g.tag.toNat = some c ∧ c.w.phase = .probing ∧ runJob c.w.instr = some ⟨.move, h0, o⟩ ∧
    m.wantsIdx c ⟨.move, h0, o⟩ = false ∧ m.spaceOf t0 (c.regs o.dD).addr = spRemote ∧ m.farTile c (c.regs o.dD) = some 1 ∧
    (writeSends false 1 (m.physOf t0 (c.regs o.dD).addr).2 9 (wrOperand 8 1023 true) (m.runRows c ⟨.move, h0, o⟩)).all (m.canSend 0) = true := by
  decide +kernel

theorem witness_SlotProbes_refusals :
    let o : RunOps := { u0 with dD := 1, dS := 2, rg := 1023, rge := true }
    let c : UCtx := ⟨t0, wWork (.move t0 h0 o) (wDesc seg2 8) (wDesc 0 8) .probing⟩
    let m := wRemote (wMesh (wTask {} { runner := [c.w] }))
    let r (n : W64) := wPkt 8 0x4000000000 n []
    (wArr (r 0) m).accepts 0 opRefuse (r 0) = true ∧ (wArr (r 1) m).accepts 0 opRefuse (r 1) = true ∧
    m.moveOf 0 9 = some c ∧ runJob c.w.instr = some ⟨.move, h0, o⟩ ∧ (m.taskAt t0).faultSeq = none := by decide +kernel

theorem witness_LoopPackets :
    let b := (wMesh (wTask {})).setBedReg 0 Reg.BED_CFG0 (word [(11, 3), (20, 1), (27, 2), (48, 1)])
    let p := wPkt 9 0 0 []
    let s := wArr p b
    let full : State := { s with places := [(0, { used := true }), (1, { used := true })] }
    let m : Machine.WMove := ⟨0, 9, List.replicate 64 0, some 0, none, 0⟩
    let ok := wPkt 0xA 0 1 []
    let w : State := { wArr ok b with wmoves := [m] }
    let y := wPkt 0xB 4095 0x1000000000 [1]
    let z := wPkt 0xB 0 0x10000 [1]
    let r (got : Nat) : State := { wArr y b with places := [(0, { used := true, tag := 9, got := got })] }
    s.accepts 0 opPlaceReq p = true ∧ s.bedValid 0 = true ∧ s.entryTile 0 = some 0 ∧ s.freeNormal 0 = some 0 ∧
    s.canSend 0 (replyTo p opPlaceOk 0 0 []) = true ∧ full.freeNormal 0 = none ∧ full.accepts 0 opPlaceReq p = true ∧ full.entryTile 0 = some 0 ∧
    w.accepts 0 opPlaceOk ok = true ∧ w.waveOf 0 9 = some m ∧
    (waveSends 0 9 (waveOperand 0 1 false false false 64) 0 (waveHead m.wave).cls m.wave).all (w.canSend 0) = true ∧
    (wArr z b).accepts 0 opWave z = true ∧ bit z.operand.toNat 16 = true ∧
    (r 15).accepts 0 opWave y = true ∧ bit y.operand.toNat 16 = false ∧ bit y.operand.toNat 17 = false ∧ bits y.operand.toNat 63 32 = 16 ∧
    ((r 15).place 0 0).used = true ∧ ((r 15).place 0 0).full = false ∧ ((r 15).place 0 0).src = 0 ∧ ((r 15).place 0 0).tag = 9 ∧
    ((r 14).place 0 0).got + 1 < 16 ∧ 16 ≤ ((r 15).place 0 0).got + 1 ∧
    (r 15).current 0 (waveHead (overlay (padTo 16 []) 4095 [1])) = true ∧ (r 15).canSend 0 (replyTo y opMoveDone 0 16 []) = true := by decide +kernel

/-- A packet of tile 0 to tile 1 at the input of tile 0, bound for port 1 and lane 0. -/
def wHop (p : Packet) (k : Nat) (s : State) : State :=
  { (wMesh s).setRf (cetisPage 0) Reg.LANES 39 0 0xFFFFFFFFFF with net := [⟨p, 0, 5, 0, 0, some (k, 0)⟩] }

theorem witness_MeshRouting :
    let s := wMesh wBase
    let mg (o : W64) (src dst : BitVec 8) : Packet := Packet.sealed { wPkt 0x13 0x1000200 o (leBytes 8 7) with sys := true, src := src, dst := dst, vc := 3 }
    let g := wPkt 0x12 4095 7 []
    let e := mg (2 ^ 56 + 0x100) 0x87 0
    let d := mg (2 ^ 56 + 0x100) 0 0x87
    let p : Packet := Packet.sealed { wPkt 1 0 0 [] with dst := 1 }
    let h := wHop p 1 wBase
    let t : Transit := ⟨p, 0, 5, 0, 0, some (1, 0)⟩
    let f := h.setRf (cetisPage 0) Reg.PORT_FENCE 4 0 31
    let b := h.setRf (cetisPage 1) Reg.PORT_FENCE 4 0 31
    let own (p : Packet) := wHop p 5 wBase
    let r : Packet := Packet.sealed { wPkt 0xD 0 0 [] with dst := 0x80 }
    let up := wHop r 4 wBase
    let lane (n : Nat) : State := h.setLane 0 1 7 { sent := [(p, 1)], fails := n }
    (wArr g s).accepts 0 opGen g = true ∧ s.arrivable opMgmt e = true ∧ s.accepts 0 opMgmt e = true ∧ mgKind e.operand.toNat = 1 ∧
    (wArr d s).arrivable opMgmt d = true ∧ Packet.wf d = true ∧ d.dst.toNat = dieEnd 7 ∧ Packet.intact d = true ∧ d.sys = true ∧
    (d.sys && isDie d.src.toNat) = false ∧ (e.sys && isDie e.src.toNat) = true ∧
    mgKind (mg (2 ^ 57 + 2) 0x87 0).operand.toNat = 2 ∧ s.accepts 0 opMgmt (mg (2 ^ 57 + 2) 0x87 0) = true ∧ (unitPages 0).contains ((mg (2 ^ 57 + 2) 0x87 0).addr.toNat / 4096) = true ∧
    Packet.wf p = true ∧ h.net.find? (fun t => t.tile = 0 && t.inPort = 5 && t.pkt = p) = some t ∧
    f.fencedPort 0 1 = true ∧ Packet.leavesFence p = false ∧ h.fencedPort 0 1 = false ∧ h.useLane 0 1 0 = some 0 ∧
    (h.grantOf 0 1 0).1 = some t ∧ ((own p).grantOf 0 5 0).1 = some { t with out := some (5, 0) } ∧ (own p).useLane 0 5 0 = some 0 ∧
    (up.grantOf 0 4 0).1 = some { t with pkt := r, out := some (4, 0) } ∧ Store.get false up.dieFence 0 = false ∧ neighbour 0 1 = some 1 ∧
    (b.fencedPort 1 ((1 + 2) % 4) && !Packet.passesFence p) = true ∧ (h.fencedPort 1 3 && !Packet.passesFence p) = false ∧
    opDefined 0 = false ∧ opDefined 0xF = false ∧ opDefined p.op.toNat = true ∧ (h.setRf (cetisPage 1) Reg.EPOCH 3 0 15).epochOf 1 0 ≠ p.epoch.toNat ∧
    h.epochOf 1 0 = p.epoch.toNat ∧ (h.outPort 1 p).isSome = true ∧
    h.livePort 0 1 = true ∧ h.rb (cetisPage 0) Reg.LANES (8 * 1 + 7) = true ∧ ((lane 0).laneAt 0 1 7).sent ≠ [] ∧
    ((lane 8).laneAt 0 1 7).fails < 9 ∧ 9 ≤ ((lane 9).laneAt 0 1 7).fails := by decide +kernel

theorem witness_MireRequests :
    let q (op : BitVec 8) (l : List Byte) : Packet := Packet.sealed { wPkt op 0x17FFFFFFFFF 1 l with dst := 0x80, gwy := 0 }
    let p := q 0xD []
    let w := q 0xE [1]
    let b := (wMesh wBase).setRf (mirePage (mireStack 0x17FFFFFFFFF)) Reg.MIRE_STAT 1 0 2
    let s := wArr p b
    let asked := decide (p.addr.toNat ≤ p.addr.toNat) && decide (p.addr.toNat < p.addr.toNat + 1)
    Packet.wf p = true ∧ p.dst.toNat = dieEnd 0 ∧ Packet.intact p = true ∧ p.epoch = Store.get 0 s.rimEpoch (0 * 8 + p.polder.toNat) ∧
    s.dieCanReply 0 p = true ∧ s.arrivable opMireRd p = true ∧ (wArr w b).arrivable opMireWr w = true ∧
    (wArr w b).mireReady w.addr.toNat 1 = true ∧ s.mireReady p.addr.toNat 1 = true ∧ s.mirePoisoned p.addr.toNat 1 = false ∧
    asked = true ∧ burstCheck p.addr.toNat p.addr.toNat .clean = .clean ∧ burstCheck p.addr.toNat 0 .clean = .uncorrectable ∧
    burstCheck p.addr.toNat p.addr.toNat (.corrected 5) = .corrected 5 ∧ s.mireReady 0x17FFFFFFFFF 2 = false ∧
    ({ s with mireBad := [(0x17FFFFFFFFF / 256, true)] } : State).mirePoisoned p.addr.toNat 1 = true ∧ wBase.mireReady 0 1 = false ∧
    p.sys = false ∧ p.epoch ≠ Store.get 0 ({ s with rimEpoch := [(0, 15)] } : State).rimEpoch (0 * 8 + p.polder.toNat) := by decide +kernel

theorem witness_PageCommands :
    let pg := mire0 0
    let s := wGuard pg (wMesh wBase)
    let c (op entry : Nat) : Machine.PgCmd := ⟨1, 0, 0, op, entry, 4096, .arriving, []⟩
    let q (x : Machine.PgCmd) : State := { s with pgQueue := [(0, [x])] }
    let on (x : Machine.PgCmd) (ph : Machine.PgPhase) : State := { q x with movers := [(0, [⟨0, 0, 0, 1, x.entry, 4096, ph, []⟩])] }
    let ent (st : Byte) (x : Machine.PgCmd) : State := { q x with peat := [(0x1FFFFFFF0, st)] }
    s.admits .portA pg Reg.PG_GO = true ∧ (s.setRf pg Reg.PG_ARG0 50 48 1).rf pg Reg.PG_ARG0 50 48 = pgSpill ∧
    (s.setRf pg Reg.PG_ARG0 50 48 3).rf pg Reg.PG_ARG0 50 48 = pgDrop ∧ (s.setRf pg Reg.PG_ARG0 50 48 2).rf pg Reg.PG_ARG0 50 48 = pgFetch ∧
    64 ≤ (List.replicate 64 (c 1 0)).length ∧ Store.get [] (q (c 1 8)).pgQueue 0 = [c 1 8] ∧ 8 % 16 ≠ 0 ∧
    0x1FFFFFFF0 % 16 = 0 ∧ 0x1FFFFFFF0 + 16 ≤ peatSize ∧ ¬(0x200000000 + 16 ≤ peatSize) ∧ (s.setTstate 0 3).live 0 = false ∧ s.live 0 = true ∧
    s.fenced (s.polderOf 0) = false ∧ ({ s with heats := [(0, { phase := .settling })] } : State).fenced (s.polderOf 0) = true ∧
    ((s.moverOf 0).filter (·.runs)).length < 16 ∧ s.moverOf 0 = [] ∧
    (on (c 2 0x1FFFFFFF0) .copying).pgRunning 0 0x1FFFFFFF0 = some ⟨0, 0, 0, 1, 0x1FFFFFFF0, 4096, .copying, []⟩ ∧
    ((ent 1 (c 1 0x1FFFFFFF0)).pageEntry 0 0x1FFFFFFF0).state = pgResident ∧
    ((ent 3 (c 2 0x1FFFFFFF0)).pageEntry 0 0x1FFFFFFF0).state = pgSpilled ∧ ((ent 0 (c 3 0x1FFFFFFF0)).pageEntry 0 0x1FFFFFFF0).state = pgAbsent := by
  decide +kernel

/-- The clauses that copy a page hold for every page size that the model leaves free; those that do not name it are met here. -/
theorem witness_PageMoves :
    let c (ph : Machine.PgPhase) : Machine.PgCmd := ⟨0, 0, 0, 1, 16, 4096, ph, [(0, 7)]⟩
    let s (ph : Machine.PgPhase) : State := { wMesh (wTask {} {}) with movers := [(0, [c ph])] }
    let w := wWork (.kvput t0 h0 a0) {} {}
    let busy (ph : Machine.PgPhase) : State := { wMesh (wTask {} { attn := [w] }) with movers := [(0, [c ph])] }
    (s .drainBeforeCopy).pgRunning 0 16 = some (c .drainBeforeCopy) ∧ 16 + 16 ≤ peatSize ∧
    (s .drainBeforeCopy).moverOf 0 = [c .drainBeforeCopy] ∧ (s .drainBeforeCopy).drained (c .drainBeforeCopy) = true ∧
    (s .drainAfterDrop).pgRunning 0 16 = some (c .drainAfterDrop) ∧ (s .drainAfterCopy).pgRunning 0 16 = some (c .drainAfterCopy) ∧
    (s .copying).pgRunning 0 16 = some (c .copying) ∧ (s .fetching).pgRunning 0 16 = some (c .fetching) ∧
    (busy .drainBeforeCopy).pgRunning 0 16 = some (c .drainBeforeCopy) ∧ (busy .drainBeforeCopy).drained (c .drainBeforeCopy) = false := by
  decide +kernel

theorem witness_MireUpkeep :
    let pg := mirePage 31
    let s := (wBase.setRf pg Reg.MIRE_STAT 1 0 2).setRb pg Reg.MIRE_CTL 0 true
    let hot := (s.setRf pg Reg.MIRE_STAT 15 8 86).setRb pg Reg.MIRE_CTL 1 true
    s.stackState 31 = 2 ∧ (hot.rb pg Reg.MIRE_CTL 1 && decide (85 < hot.rf pg Reg.MIRE_STAT 15 8)) = true ∧ hot.rb pg Reg.MIRE_STAT 2 = false ∧
    s.rb pg Reg.MIRE_CTL 0 = true ∧ stackBursts - 1 < stackBursts ∧ s.sensPowered (4096 + 31) = true ∧
    (s.setRf pg Reg.MIRE_STAT 1 0 1).stackState 31 = 1 := by decide +kernel

/-- Bed 0 of polder 0, first and last, entered at slot 0 and left at slot 1, with two places, 64 rows and two waves a pass, and one credit. -/
def wLoop (s : State) : State :=
  ((wMesh s).setBedReg 0 Reg.BED_CFG0 (word [(11, 3), (20, 1), (27, 2), (34, 64), (41, 2), (48, 1)])).setRf polderPage (Reg.POLD_LOOP 0) 15 0 2
/-- A waiting wavefront of one row, of stream 5 with generation 0, from place i on. -/
def wHead : Machine.Head := ⟨5, 0, 0, false, 0, 1, 0, true, true, 1, 0, 0, 1, 0, 4, 0, []⟩
def wWave : List Byte := wHead.bytes ++ List.replicate 20 0

theorem witness_LoopAdmission :
    let x : Machine.Stream := { st := .bound, promptLen := 65 }
    let s : State := { wLoop wBase with streams := [(5, x)] }
    let re : State := { wLoop wBase with streams := [(5, { x with replay := some 66, admitted := 65 })] }
    let out (i : Nat) (p : Store Machine.Place) : State :=
      { wLoop wBase with streams := [(5, { x with st := .decode, inflight := 2 })], places := p,
                         rplaces := [(1, [⟨i, 5, 0, 0, 0, 84, wWave, [], [], .leaving, 0⟩])] }
    let f : Machine.Place := { used := true }
    let sends (d : Nat) := waveSends d 0 (waveOperand 0 0 false false false 84) 0 0 (withHead wWave { wHead with rstage := false, bed := 0, enq := 0 })
    let g := wGuard polderPage s
    s.firstBed 0 = some 0 ∧ s.admissible 0 = some 5 ∧ s.freeNormal 0 = some 0 ∧ s.entryTile 0 = some 0 ∧ s.fenced 0 = false ∧
    s.sealHold = false ∧ s.tokenWaits 0 = false ∧ s.inLoop 0 < s.rf polderPage (Reg.POLD_LOOP 0) 15 0 ∧
    s.current 0 (waveHead (s.chunkWave 0 5)) = true ∧ s.chunkReads 5 = [] ∧ re.admissible 0 = some 5 ∧ (re.mireTake (re.chunkReads 5)).1 = false ∧
    re.current 0 (waveHead (re.chunkWave 0 5)) = true ∧ (out 0 []).rf polderPage (Reg.POLD_LOOP 0) 15 0 ≤ (out 0 []).inLoop 0 ∧
    (out 0 []).ridPlace 5 .leaving = some (1, ⟨0, 5, 0, 0, 0, 84, wWave, [], [], .leaving, 0⟩) ∧ (out 0 []).firstBed 0 = some 0 ∧
    (out 0 []).wmoves = [] ∧ (out 0 []).slotTile 1 0 0 = some 0 ∧ (sends 0).all ((out 0 []).canSend 1) = true ∧ (out 0 []).freeNormal 0 = some 0 ∧
    (out 0 [(0, f), (1, f)]).freeNormal 0 = none ∧ ((out 0 [(0, f), (1, f)]).place 0 64).used = false ∧
    ((out 0 [(0, f), (1, f), (64, f)]).place 0 64).used = true ∧ g.admits .portA polderPage (Reg.POLD_LOOP 0) = true ∧
    ((g.bedsOf 0).map (g.inSlots ·)).sum + fld 1 56 48 = 2 ∧ fld 1 15 0 = 1 ∧ fld 2 15 0 = 2 := by decide +kernel

theorem witness_LoopPasses :
    let y : Machine.Place := { used := true, full := true, got := 84, data := wWave }
    let q : Machine.Pass := ⟨1, [0], 1, 84, [(0, 84)], [], 0, false⟩
    let s : State := { wLoop wBase with places := [(0, y)] }
    let run (q : Machine.Pass) : State := { s with beds := [(0, { opened := 1, passes := [q] })], up := 5 }
    let o := openLoop 0 0 64 true (fun _ => 1) 2 (s.waiting 0) ⟨s, ⟨2, []⟩, [], 0⟩
    let e : Machine.Pass := { q with started := [0, 1] }
    let two := (run e).setBedReg 0 Reg.BED_CFG0 (word [(20, 1), (27, 2), (34, 64), (41, 2), (48, 1)])
    let two := two.setBedReg 1 Reg.BED_CFG0 (word [(3, 1), (27, 2), (34, 64), (41, 2), (48, 1)])
    let done : State := { two with gates := [(1024, 1)] }
    s.entryTile 0 = some 0 ∧ s.bedValid 0 = true ∧ s.fenced (s.bedPolder 0) = false ∧ s.waiting 0 = [0] ∧ s.current 0 (s.headAt 0 0) = true ∧
    s.bedCfg0 0 40 34 = 64 ∧ o.places = [0] ∧ (s.bed 0).passes.all (s.passStarted 0) = true ∧
    ((run q).bed 0).passes.find? (fun q => !q.started.contains 0 && decide (q.bytes ≤ Store.get 0 q.got 0)) = some q ∧
    (two.bed 0).passes = [e] ∧ two.exitTile 0 = some 1 ∧ two.passStarted 0 e = true ∧
    gateSatisfied (two.gate 1 (fld (two.bedReg 0 Reg.BED_CFG1) 19 10)) 1 = false ∧
    gateSatisfied (done.gate 1 (fld (done.bedReg 0 Reg.BED_CFG1) 19 10)) 1 = true ∧ done.current 1 (done.headAt 0 0) = true ∧
    done.bedLast 0 = false ∧ done.nextBed 0 = some 1 ∧ done.slotTile 1 0 (done.bedEntry 1) = some 0 ∧
    done.canSendAs 1 0 { dst := 0, op := opPlaceReq, addr := 1, tag := 0, operand := 84 } = true ∧
    ((s.setBedReg 0 Reg.BED_CFG1 0).bedBusy 0 && decide (0 + fld ((s.setBedReg 0 Reg.BED_CFG1 0).bedReg 0 Reg.BED_CFG1) 63 32 ≤ s.up)) = true ∧ wBase.bedBusy 0 = false := by decide +kernel

/-- A command of a host queue: its first five words. -/
def wCmd (st : Machine.CmdStage) (l : List Nat) : HostCmd := ⟨.a, 0, 0, l.flatMap (leBytes 8) ++ List.replicate (64 - 8 * l.length) 0, 1, st⟩
/-- The casting in force, tiles 0 and 1 with a riddle at slot 1, and token ring 0 of port A enabled. -/
def wServe (s : State) : State :=
  let s := ((wLoop s).setRf castPage Reg.CAST_STAT 2 0 csReady).setReg (riddlePage 0) Reg.RID_LIST 0x81
  (s.setReg (riddlePage 1) Reg.RID_VOCAB 8).setQueueReg .a kTr 0 Reg.Q_CFG (word [(0, 16), (24, 1)])

theorem witness_StreamBinding :
    let b (w0 len : Nat) := wCmd .fetched [w0, 4, len + 2 ^ 32, 0, 0]
    let at_ (c : HostCmd) : State := { wServe wBase with cmds := [c] }
    let ok := b (1 + 5 * 2 ^ 32) 1
    let s := at_ ok
    let go : State := { wServe wBase with cmds := [wCmd .begun [1 + 5 * 2 ^ 32, 4, 1 + 2 ^ 32, 0, 0]] }
    let far := b (1 + 5 * 2 ^ 32 + 2 ^ 8) 1
    let link := b (1 + 5 * 2 ^ 32 + 2 ^ 10) 1
    let can := wCmd .fetched [2 + 5 * 2 ^ 32]
    let live : State := { at_ can with streams := [(5, { st := .decode })] }
    s.fetched .a 0 1 = some ok ∧ s.sealHold = false ∧ s.castInForce = true ∧ s.polderServes 0 = true ∧ ok.bindZeros = true ∧
    ok.streamNo = 5 ∧ ok.promptAddr % 4 = 0 ∧ s.egressOk ok = true ∧ s.linkOk ok = true ∧ ok.promptLen = 1 ∧
    (b (1 + 5 * 2 ^ 32) 0).promptLen = 0 ∧ (at_ (b (1 + 5 * 2 ^ 32) 0)).fetched .a 0 1 = some (b (1 + 5 * 2 ^ 32) 0) ∧
    (b (1 + 5 * 2 ^ 32 + 2 ^ 44) 1).genNo = 1 ∧ (b (1 + 5 * 2 ^ 32 + 2 ^ 55) 1).bindZeros = false ∧ (at_ far).egressOk far = false ∧
    (at_ link).linkOk link = false ∧ (wMesh wBase).castInForce = false ∧
    go.cmds.find? (fun o => o.port = .a && o.sq = 0 && o.stage = .begun && o.opcode = 1) = some (wCmd .begun [1 + 5 * 2 ^ 32, 4, 1 + 2 ^ 32, 0, 0]) ∧
    (go.polderTiles 0).head? = some 0 ∧ go.homeTile 0 0 5 = some 1 ∧ go.planSpots 0 = [] ∧ go.planOk 0 = true ∧
    leNat (go.readHost .a 4 4) < go.rf (riddlePage 1) Reg.RID_VOCAB 18 0 ∧ ¬(8 < go.rf (riddlePage 1) Reg.RID_VOCAB 18 0) ∧
    ok.promptLen < posLimit ok.reach [] ∧ posLimit (2 ^ 24) [] ≤ 2 ^ 24 ∧ go.recordFits 1 5 = true ∧
    (at_ can).fetched .a 0 2 = some can ∧ can.zeroFrom 1 = true ∧ (live.stream 5).live = true ∧ ((at_ can).stream 5).live = false := by decide +kernel

theorem witness_StreamEnd :
    let s : State := { wGuard streamPage wBase with streams := [(4095, { st := .decode, gen := 255 })] }
    let v : W64 := BitVec.ofNat 64 (4095 + 255 * 2 ^ 12)
    let d : State := { wBase with streams := [(4095, { st := .draining, gen := 255, genBind := 254, status := 1, emitted := 3, commitPos := 9 })] }
    let c := wCmd .started [1 + 4095 * 2 ^ 32]
    s.admits .portA streamPage Reg.STRM_CANCEL = true ∧ (0xFFF : StreamIx).toNat = fld v 11 0 ∧ (s.stream 4095).live = true ∧
    (s.stream 4095).gen.toNat = fld v 19 12 ∧ (s.stream 0).live = false ∧ (d.stream 4095).st = .draining ∧ (d.stream 4095).inflight = 0 ∧
    (d.stream 4095).linked = false ∧ d.cmds = [] ∧ c.opcode = 1 ∧ c.stage = .started ∧ c.streamNo = 4095 := by decide +kernel

/-- Completion queue 0 and submission queue 0 of port A, sixteen entries each; one entry waits for the engine. -/
def wQueues (s : State) : State :=
  let s := (s.setQueueReg .a kCq 0 Reg.Q_CFG (word [(0, 16), (24, 1), (25, 1), (44, 1)])).setQueueReg .a kCq 0 Reg.Q_BASE 0x1000
  let s := (s.setQueueReg .a kSq 0 Reg.Q_CFG (word [(0, 16), (24, 1)])).setQueueReg .a kSq 0 Reg.Q_BASE 0x2000
  (s.setQStat .a kSq 0 0 1).setQueueReg .a kTr 0 Reg.Q_CFG (word [(0, 16), (24, 1)])

theorem witness_HostQueues :
    let s := wQueues wBase
    let pg := portPage .a
    let c := wCmd .fetched [0]
    let x := List.replicate 16 (7 : Byte)
    let r := s.setQDyn .a kTr 0 { fifo := [x] }
    let n := s.setQDyn .a kCq 0 { fresh := 1, stale := true }
    let e (kind num : Nat) := wGuard pg (wBase.setReg pg Reg.Q_SEL (word [(0, num), (8, kind)]))
    let used := wGuard pg ((wQueues wBase).setReg pg Reg.Q_SEL (word [(0, 0), (8, kCq)]))
    s.boot.main = true ∧ s.qEn .a kSq 0 = true ∧ ((16 : W32) - s.qTail .a kSq 0).toNat ≤ s.qSize .a kSq 0 - s.qDepth .a kSq 0 ∧
    ¬(((17 : W32) - s.qTail .a kSq 0).toNat ≤ s.qSize .a kSq 0 - s.qDepth .a kSq 0) ∧ (0 - s.qHead .a kCq 0).toNat ≤ s.qDepth .a kCq 0 ∧
    ¬((1 - s.qHead .a kCq 0).toNat ≤ s.qDepth .a kCq 0) ∧ s.qEn .a kTr 0 = true ∧ s.qEn .a kTr 255 = false ∧
    0 < s.qDepth .a kSq 0 ∧ s.atStart .a 0 = none ∧ s.qEn .a kCq 0 = true ∧
    0 < s.qSize .a kCq 0 - s.qDepth .a kCq 0 - s.reserved .a 0 ∧ ({ s with cmds := [c] } : State).fetched .a 0 0 = some c ∧
    (r.qDyn .a kTr 0).fifo = [x] ∧ r.qDepth .a kTr 0 < r.qSize .a kTr 0 ∧ (n.qDyn .a kCq 0).stale = true ∧ 0 < queueCount (kindOf .cq) ∧
    (decide (kCq ≠ kSq) && fbit (n.queueReg .a kCq 0 Reg.Q_CFG) 25 && decide (max 1 (fld (n.queueReg .a kCq 0 Reg.Q_CFG) 51 44) ≤ 1)) = true ∧
    (Store.get {} n.fns (portDie .a)).msixOn = true ∧ (Store.get {} (Store.get {} n.fns (portDie .a)).vecs 0).masked = false ∧
    (Store.get {} ({ n with fns := [(0, { funcMask := true })] } : State).fns (portDie .a)).funcMask = true ∧
    (Store.get {} ({ n with fns := [(0, { msixOn := false })] } : State).fns (portDie .a)).msixOn = false ∧
    (e kTr 255).admits .portA pg Reg.Q_CFG = true ∧ (e kTr 255).queueThere pg = true ∧ (e kTr 255).qEn .a kTr 255 = false ∧
    sizeOk 16 = true ∧ sizeOk 65536 = true ∧ sizeOk 8 = false ∧ sizeOk 48 = false ∧ (e kTr 255).qBase .a kTr 255 % 4096 = 0 ∧
    ((e kSq 63).setQueueReg .a kSq 63 Reg.Q_BASE 64).qBase .a kSq 63 % 4096 ≠ 0 ∧ (e kSq 63).qEn .a kCq 63 = false ∧
    used.admits .portA pg Reg.Q_CFG = true ∧ used.queueThere pg = true ∧ used.qEn .a kCq 0 = true ∧ used.queueUsed .a kCq 0 = true ∧
    used.queueUsed .a kSq 0 = false := by decide +kernel

theorem witness_HostPorts :
    let pg := portPage .b
    let p (on : Bool) := (wBase.setReg pg Reg.APER_BASE (word [(0, 1)])).setRb pg Reg.APER_CTL 0 on
    let m := ((wBase.setReg pg Reg.APER_BASE 0).setRb pg Reg.APER_CTL 0 true).setRf (mirePage 0) Reg.MIRE_STAT 1 0 2
    let top := wBase.setReg pg Reg.APER_BASE (word [(24, 0x17FFF)])
    let good : State := (wBase.setDom 80 9 2).setDom 84 9 2
    (4 : BitVec 4).toNat ≤ 4 ∧ wBase.boot.main = true ∧ good.mainGood = true ∧ good.boot.perst.contains .b = false ∧
    (6 : BitVec 8).toNat ≤ (good.setRf pg Reg.PCIE_CTL 2 0 6).rf pg Reg.PCIE_CTL 2 0 ∧ wBase.mainGood = false ∧
    0 < (0x1000 : BitVec 13).toNat ∧ (0x1FFFFF000 : BitVec 40).toNat + (0x1000 : BitVec 13).toNat ≤ 2 ^ 36 ∧
    fbit ((p true).reg pg Reg.APER_BASE) 0 = true ∧ (0x1FFFFF000 : BitVec 40).toNat % 2 ^ 33 + 0x1000 ≤ 2 ^ 33 ∧
    (p true).peatOn 0 0x1FFFFF000 0x1000 = true ∧ (p true).peatPoisoned 0 0x1FFFFF000 0x1000 = false ∧
    ({ p true with peatBad := [(0x1FFFFFF, true)] } : State).peatPoisoned 0 0x1FFFFF000 0x1000 = true ∧
    (p true).rb pg Reg.APER_CTL 0 = true ∧ (p false).rb pg Reg.APER_CTL 0 = false ∧ fbit (m.reg pg Reg.APER_BASE) 0 = false ∧
    m.mireReady 0 256 = true ∧ m.mirePoisoned 0 256 = false ∧ mireSize < fld (top.reg pg Reg.APER_BASE) 40 24 * 2 ^ 24 + 0x1000001 := by decide +kernel

theorem witness_SemaphoresAndEgress :
    let s (o w : Nat) := wGuard hsemPage (wBase.setReg hsemPage (Reg.SEM 15) (word [(0, o), (2, w)]))
    let up := ((wBase.setReg (ethPage 15) (Reg.EP_CFG1 15) (word [(0, 1), (1, 2), (16, 1)])).setRb (ethPage 15) Reg.ETH_STAT 0 true).setRb
      (ethPage 15) Reg.ETH_CTL 0 true
    let r : List Byte := List.replicate 64 0
    let b (k : Nat) : State := { up with egress := [(255, { recs := List.replicate k r, first := 0 })], up := 1000 }
    (15 : Nat) < 16 ∧ (s 0 0).pageLive hsemPage = true ∧ fbit 0 8 = false ∧ fbit 0 9 = false ∧ fbit 0 10 = false ∧
    (s 0 0).semOwner 15 = 0 ∧ (s 1 2).semOwner 15 = whoCode .portA ∧ (s 1 2).semWaiter 15 = 2 ∧ (s 3 0).semOwner 15 = 3 ∧
    (s 1 2).admits .portA hsemPage (Reg.SEM 15) = true ∧ up.epRecs 15 15 = 2 ∧ 2 ≤ ((b 2).egressBuf 15 15).recs.length ∧
    ((b 1).egressBuf 15 15).recs.length < 2 ∧ ((b 1).egressBuf 15 15).recs ≠ [] ∧
    0 + 1000 * up.rf (ethPage 15) (Reg.EP_CFG1 15) 31 16 ≤ (b 1).up ∧ up.endpointUp 15 15 = true ∧ wBase.endpointUp 15 15 = false := by decide +kernel

/-- The first 256 bytes of an image of one section without a signature block, in the memory of port A, and its load. -/
def wHeader : List Byte :=
  let l := leBytes 4 0x434E4C56 ++ leBytes 4 1 ++ leBytes 8 288 ++ leBytes 8 7 ++ leBytes 8 256 ++ leBytes 4 1 ++ List.replicate 216 0
  l ++ leBytes 4 (crc32c l).toNat
def wRun : CastRun := { src := 1, addr := 0, len := 288, was := 0, since := 0 }
def wLoad (st : Nat) (s : State) : State := { s.setRf castPage Reg.CAST_STAT 2 0 st with castRun := some wRun }

/-- The signature of an image that passes every check is beyond evaluation here: the clauses after it are met by images that a key of the
security block signs. -/
theorem witness_CastingChecks :
    let g := wGuard castPage wBase
    let c (w0 : Nat) := wCmd .fetched [w0, 0, 288]
    let s (w0 : Nat) : State := { wBase.setRf hsemPage (Reg.SEM 2) 1 0 1 with cmds := [c w0] }
    let l : State := { wLoad csChecking wBase with host := putBytes [] 0 wHeader }
    let m : CastRun := { wRun with src := 0 }
    let half : State := { (wLoad csChecking wBase).setRf (mirePage (mireStack 0)) Reg.MIRE_STAT 1 0 2 with castRun := some m, mire := putBytes [] 0 wHeader }
    g.admits .portA castPage Reg.CAST_GO = true ∧ g.loading = false ∧ g.phase = 11 ∧ (wLoad csPouring g).loading = true ∧
    (s 3).fetched .a 0 3 = some (c 3) ∧ (c 3).zeroFrom 3 = true ∧ (s 3).semOwner 2 = whoCode (portWho .a) ∧ wBase.semOwner 2 ≠ 1 ∧
    bits ((c 0x203).w 0) 15 9 = 1 ∧ (s 0x203).fetched .a 0 3 = some (c 0x203) ∧ l.castRun = some wRun ∧ castState l = csChecking ∧
    wRun.was < 8 ∧ (l.headTake wRun false).1 = false ∧ ((wLoad csChecking wBase).headTake wRun true).1 = true ∧
    (wLoad csChecking wBase).headerOk wRun = false ∧ (l.headTake wRun true).1 = true ∧ l.headerOk wRun = true ∧
    ((l.headTake wRun true).2.allTake wRun true).1 = true ∧ l.sigCause wRun = 1 ∧
    half.castRun = some m ∧ (half.headTake m true).1 = true ∧ half.headerOk m = true ∧ ((half.headTake m true).2.allTake m true).1 = false := by
  decide +kernel

theorem witness_CastingPlacement :
    let l (st : Nat) : State := { wLoad st wBase with host := putBytes [] 0 wHeader }
    let on : CastRun := { wRun with map := [(0, 0, 0)] }
    let off : CastRun := { wRun with map := [(0, 0, 79)] }
    let x : PourExt := ⟨0, 0, 4, 0, 0, 0, 0, 0, 0, 0⟩
    let p : State := { l csPouring with casting := { exts := [x] } }
    let d : State := { p with pours := [(7, { done := [0] })] }
    let e := (wBase.setDom 87 2 2).setRb (ethPage 15) Reg.ETH_CTL 0 true
    let run := wBase.setRf castPage Reg.CAST_STAT 2 0 csReady
    (l csPlacing).castRun = some wRun ∧ castState (l csPlacing) = csPlacing ∧ on.active = [0] ∧ off.active = [79] ∧ wRun.active = [] ∧
    (l csPlacing).loadPowered on = true ∧ (l csPlacing).loadPowered off = false ∧ ((l csPlacing).allTake wRun false).1 = false ∧
    ((l csPlacing).allTake wRun true).1 = true ∧ (l csPlacing).badCrc wRun = none ∧
    ({ wLoad csPlacing wBase with host := putBytes [] 0 (wHeader ++ [1, 0, 0, 0, 9]) } : State).badCrc wRun ≠ none ∧
    castState (l csPouring) = csPouring ∧ (p.ext 0) = some x ∧ p.extDone 0 = false ∧ d.extDone 0 = true ∧ d.faulted = false ∧
    ({ d with reports := [⟨0, 1, 0, 0, 0⟩] } : State).faulted = true ∧ run.castInForce = true ∧
    (e.rb (ethPage 15) Reg.ETH_CTL 0 && decide (e.domCode (80 + 15 / 2) (1 + 15 % 2) = 2) && decide ((3 : BitVec 3).toNat ≤ 3) &&
      decide (e.rf (ethPage 15) Reg.ETH_CTL 2 1 ≤ (3 : BitVec 3).toNat)) = true := by decide +kernel

/-- Sluice die 0 pours one extent to peat of tile 0: a server, a port with a link, and session 0 in a state. -/
def wPour (st : Nat) (s : State) : State :=
  let s := ((wMesh s).setReg (pourPage 0) (Reg.SESS 0) (word [(0, 77), (32, st)])).setRb (pourPage 0) Reg.POUR_CTL 0 true
  let s := ((s.setRb (ethPage 0) Reg.ETH_STAT 0 true).setRb (ethPage 0) Reg.ETH_CTL 0 true).setRf castPage Reg.CAST_STAT 2 0 csPouring
  { s with casting := { exts := [⟨5, 0, 2, crc32c [1, 2], 0, 0, 0, 0, 256, 0⟩], servers := [⟨[], 0, true⟩, ⟨[], 0, true⟩], nServers := 2 } }
def wExt : PourExt := ⟨5, 0, 2, crc32c [1, 2], 0, 0, 0, 0, 256, 0⟩
def wPull : Pull := { ext := 0, server := 0, asks := [⟨9, 0, 0, 0, 2⟩], last := 0 }
/-- The key of the session. -/
def wKey : List Byte := List.replicate 32 0
/-- A frame of session 77 at port 0, sealed with the session's key. -/
def wFrame (type seq : Nat) (h : PourHdr) (body : List Byte) : PourFrame :=
  let hdr := pourHeader type 77 seq h
  ⟨0, true, [], 0, 50200, hdr ++ gcmSeal wKey (pourNonce true 77 seq) hdr body⟩
/-- Session 0 open with one frame of credit, and a pull. -/
def wPulling (p : Pull) (s : State) : State :=
  { wPour ssOpen s with pours := [(0, { pulls := [p], sess := [(0, { limit := 1, key := wKey })] })], up := 100000000 }
/-- The body of a frame, where it is authentic. -/
def wOpen (f : PourFrame) : Option (List Byte) :=
  gcmOpen wKey (pourNonce true (frameMsg f).session (frameMsg f).seq) (f.data.take 64) (f.data.drop 64)

theorem aesRounds_length (b : List Byte) (l : List (List Byte)) (h : l.getLast?.map List.length = some 16) : (aesRounds l b).length = 16 := by
  induction l generalizing b with
  | nil => simp at h
  | cons k r ih =>
    cases r with
    | nil => simp at h; simp [aesRounds, xorBytes, aesShift, h]
    | cons x r => exact ih _ (by simpa using h)

theorem xorBytes_twice (a b : List Byte) (h : a.length ≤ b.length) : xorBytes (xorBytes a b) b = a := by
  induction a generalizing b with
  | nil => rfl
  | cons x a ih =>
    cases b with
    | nil => simp at h
    | cons y b =>
      have := ih b (by simpa using h)
      simp only [xorBytes, List.zip_cons_cons, List.map_cons] at this ⊢
      rw [this, BitVec.xor_assoc, BitVec.xor_self, BitVec.xor_zero]

theorem wKey_rounds : ((aesKeys wKey).drop 1).getLast?.map List.length = some 16 := by decide +kernel

theorem wKey_block (b : List Byte) : (aesBlock (aesKeys wKey) b).length = 16 := aesRounds_length _ _ wKey_rounds

theorem wKey_crypt (n : List Byte) (l : List Byte) (h : l.length ≤ 16) :
    (gcmCrypt wKey n l).length = l.length ∧ gcmCrypt wKey n (gcmCrypt wKey n l) = l := by
  cases l with
  | nil => simp [gcmCrypt, gcmStream, ceilDiv]
  | cons x l =>
    have hc (m : List Byte) (h0 : 0 < m.length) (h1 : m.length ≤ 16) :
        gcmCrypt wKey n m = xorBytes m (aesBlock (aesKeys wKey) (n ++ beBytes 4 2)) := by
      have : ceilDiv m.length 16 = 1 := by simp only [ceilDiv]; omega
      simp [gcmCrypt, this, gcmStream, List.take_of_length_le h1]
    have hl : (gcmCrypt wKey n (x :: l)).length = (x :: l).length := by
      rw [hc _ (by simp) h]; simp only [xorBytes, List.length_map, List.length_zip, wKey_block]; omega
    refine ⟨hl, ?_⟩
    rw [hc _ (by rw [hl]; simp) (by rw [hl]; exact h), hc _ (by simp) h]
    exact xorBytes_twice _ _ (by rw [wKey_block]; exact h)

/-- A frame that is sealed with the session's key opens. -/
theorem wFrame_opens (type seq : Nat) (h : PourHdr) (body : List Byte) (hb : body.length ≤ 16)
    (hs : (frameMsg (wFrame type seq h body)).session = 77) (hq : (frameMsg (wFrame type seq h body)).seq = seq) :
    wOpen (wFrame type seq h body) = some body := by
  have hl : (pourHeader type 77 seq h).length = 64 := by simp [pourHeader, leBytes]
  have ht (n a : List Byte) : (gcmTag wKey n a (gcmCrypt wKey n body)).length = 16 := by
    simp only [gcmTag, xorBytes, List.length_map, List.length_zip, wKey_block]
    simp [beBytes, leBytes]
  obtain ⟨hc, ho⟩ := wKey_crypt (pourNonce true 77 seq) body hb
  unfold wOpen
  rw [hs, hq]
  simp only [wFrame, List.take_left' hl, List.drop_left' hl, gcmOpen, gcmSeal, List.length_append, ht, hc, Nat.add_sub_cancel,
    List.take_left' hc, List.drop_left' hc, ho]
  simp

theorem witness_PourExtents_sealed :
    wOpen (wFrame mData 1 { tag := 9, off := 0, len := 2 } [1, 2]) = some [1, 2] ∧
    wOpen (wFrame mData 1 { tag := 9, off := 0, len := 2 } [1, 3]) = some [1, 3] ∧
    wOpen (wFrame mData 1 { tag := 9, off := 0, len := 1 } [1]) = some [1] ∧
    wOpen (wFrame mEnd 2 { tag := 0xFFFFFFFF, status := 1 } []) = some [] ∧
    wOpen (wFrame mEnd 2 { tag := 9, status := 0 } []) = some [] ∧ wOpen (wFrame mEnd 2 { tag := 9, status := 3 } []) = some [] := by
  refine ⟨?_, ?_, ?_, ?_, ?_, ?_⟩ <;> exact wFrame_opens _ _ _ _ (by decide) (by decide +kernel) (by decide +kernel)

theorem witness_PourExtents_requests :
    let s := wPour ssOpen wBase
    let k : Pull := { wPull with data := [(0, some 1), (1, some 2)], whole := true, asks := [] }
    let staged : State := { wPulling k wBase with casting := { exts := [{ wExt with kind := 2 }] } }
    let granted : State := { wPulling { k with stage := .granted, tag := 9 } wBase with casting := { exts := [{ wExt with kind := 2 }] } }
    let mire : State := { (wPulling k wBase).setRf (mirePage (mireStack 256)) Reg.MIRE_STAT 1 0 2 with casting := { exts := [{ wExt with kind := 1 }] } }
    let open_ := wPulling { wPull with asks := [] } wBase
    let m (op : BitVec 8) : Packet := Packet.sealed { wPkt op 0 2 [] with dst := 0x80 }
    let at_ (st : Machine.PullStage) (p : Packet) : State := wArr p (wPulling { k with stage := st, tag := 9 } wBase)
    let away (s : State) : State := { s with dieFence := [(dieGateway 0 0, true)] }
    s.ext 0 = some wExt ∧ s.pullOf 0 0 = none ∧ s.extNeeded 0 0 = true ∧ s.extNeeded 1 0 = false ∧ s.serverFor 0 0 [] = some 0 ∧ 0 < wExt.len ∧
    s.sessTo 0 0 = some 0 ∧ ({ s with casting := { s.casting with servers := [] } } : State).serverFor 0 0 [] = none ∧
    ({ s with casting := { s.casting with servers := [] } } : State).extNeeded 0 0 = true ∧
    open_.pullOf 0 0 = some { wPull with asks := [] } ∧ Store.get 0 (open_.pour 0).downs 0 < 3 ∧ open_.sessTo 0 0 = some 0 ∧
    staged.pullOf 0 0 = some k ∧ staged.extTurn 0 0 0 = true ∧ staged.castTile 0 0 = some 0 ∧ staged.dieReaches 0 0 0 = true ∧
    (away staged).dieReaches 0 0 0 = false ∧ (mire.ext 0).map (·.kind) = some 1 ∧ mire.mireReady 256 2 = true ∧
    (wPulling k wBase).castTile 0 0 = some 0 ∧ (wPulling k wBase).dieReaches 0 0 0 = true ∧ (away (wPulling k wBase)).dieReaches 0 0 0 = false ∧
    granted.pullOf 0 0 = some { k with stage := .granted, tag := 9 } ∧ k.tries < max 1 ((wPulling k wBase).rf (pourPage 0) Reg.POUR_CTL 51 48) ∧
    (at_ .probing (m 7)).dieAccepts 0 opGrant (m 7) = true ∧ (at_ .probing (m 7)).pullTagged 0 9 = some { k with stage := .probing, tag := 9 } ∧
    (at_ .probing (m 8)).dieAccepts 0 opRefuse (m 8) = true ∧ (at_ .sent (m 4)).dieAccepts 0 opMoveDone (m 4) = true ∧
    (at_ .sent (m 4)).doneWaits (m 4) = false ∧ (at_ .sent (m 4)).pullTagged 0 9 = some { k with stage := .sent, tag := 9 } := by decide +kernel

theorem witness_PourExtents_frames :
    let data (body : List Byte) (len : Nat) := wFrame mData 1 { tag := 9, off := 0, len := len } body
    let f := data [1, 2] 2
    let part : Pull := { wPull with asks := [⟨9, 0, 0, 0, 1⟩, ⟨10, 0, 0, 1, 1⟩] }
    let one := data [1] 1
    let end_ (tag st seq : Nat) := wFrame mEnd seq { tag := tag, status := st } []
    let s := wPulling wPull wBase
    let p := wPulling part wBase
    let r : List (Nat × Nat) := (missing 2 wPull.data).filterMap (fun r =>
      if max r.1 0 < min (r.1 + r.2) (0 + 2) then some (max r.1 0, min (r.1 + r.2) (0 + 2) - max r.1 0) else none)
    s.portLive 0 = true ∧ ({ f with fcsOk := false } : PourFrame).fcsOk = false ∧ 9216 < frameBytes { f with data := List.replicate 9151 0 } ∧
    (wPour ssFailed wBase).frameFor 0 0 mData f = true ∧ (wPour ssFailed wBase).sessState 0 0 = ssFailed ∧
    s.sessUp 0 0 = true ∧ s.frameFor 0 0 mData f = true ∧ wOpen { f with data := f.data.take 70 } = none ∧
    s.frameFor 0 0 mData { f with data := f.data.take 70 } = true ∧ (frameMsg f).version = 1 ∧ s.seqSeen 0 0 1 = false ∧
    ({ s with pours := [(0, { sess := [(0, { got := [1] })] })] } : State).seqSeen 0 0 1 = true ∧
    (frameMsg f).seq ≤ (s.sess 0 0).limit ∧ ((wPour ssOpen wBase).sess 0 0).limit < (frameMsg f).seq ∧ (wPour ssOpen wBase).frameFor 0 0 mData f = true ∧
    (s.pour 0).pulls.find? (fun p => p.asks.any (fun a => a.sess = 0 && a.tag = (frameMsg f).tag)) = some wPull ∧
    2 ≤ (putNew [] 0 [1, 2] 0).1.length ∧ crc32c ((putNew [] 0 [1, 2] 0).1.map (fun b => b.2.getD 0)) = wExt.crc ∧
    crc32c ((putNew [] 0 [1, 3] 0).1.map (fun b => b.2.getD 0)) ≠ wExt.crc ∧ 
    (p.pour 0).pulls.find? (fun p => p.asks.any (fun a => a.sess = 0 && a.tag = (frameMsg one).tag)) = some part ∧ 
    (putNew [] 0 [1] 0).1.length < 2 ∧ ((wPour ssOpen wBase).pour 0).pulls = [] ∧
    s.frameFor 0 0 mEnd (end_ 0xFFFFFFFF 1 2) = true ∧ (frameMsg (end_ 0xFFFFFFFF 1 2)).status = 1 ∧
    (frameMsg (end_ 9 0 2)).status = 0 ∧ (frameMsg (end_ 9 0 2)).tag = 9 ∧ r ≠ [] ∧
    wPull.tries < max 1 (s.rf (pourPage 0) Reg.POUR_CTL 51 48) ∧ s.serverFor 0 0 [0] = some 1 ∧
    (List.range 4).all (fun k => !s.sessUp 0 k || decide (s.sessServer 0 k ≠ 1)) = true ∧
    (List.range 4).all (fun k => !s.sessUp 0 k || decide (s.sessServer 0 k = 0)) = true ∧
    (!wPull.whole && !wPull.asks.isEmpty && decide (wPull.last + 1000 * max 1 (s.rf (pourPage 0) Reg.POUR_CTL 47 32) ≤ s.up)) = true := by
  decide +kernel

theorem witness_PourSessions :
    let s (st : Nat) (x : Sess) : State := { wGuard (pourPage 0) (wPour st wBase) with pours := [(0, { sess := [(0, x)] })], up := 2000000000 }
    let fresh := (wPour ssNone wBase).setReg (pourPage 0) (Reg.SESS 0) 0
    let full (st : Nat) : State := (List.range 4).foldl (fun (s : State) k => s.setReg (pourPage 0) (Reg.SESS k) (word [(0, 77 + k), (32, st), (36, 7)])) fresh
    let ack : PourFrame := ⟨0, true, [], 0, 50200, pourHeader mAck 77 0 {} ++ List.replicate 229 0⟩
    (s ssOpen {}).sessUp 0 0 = true ∧ (0 : Nat) + 1000 * max 1 ((s ssOpen {}).rf (ladlePage 0) Reg.LADLE_CTL 27 16) ≤ 2000000000 ∧
    (s ssOpen {}).admits .portA (pourPage 0) Reg.POUR_STOP = true ∧ fld 0 1 0 = 0 ∧
    ((s ssOpen { seq := 2 ^ 48 }).sess 0 0).seq = 2 ^ 48 ∧ (s ssOpen {}).sessHigh 0 0 < 2 ^ 48 ∧
    (s ssStopping { tries := 9 }).sessState 0 0 = ssStopping ∧
    0 + 1000 * max 1 ((s ssStopping {}).rf (ladlePage 0) Reg.LADLE_CTL 39 32) ≤ (s ssStopping {}).up ∧
    fresh.mayOpen 0 0 0 = true ∧ fresh.mayOpen 0 5 0 = false ∧ fresh.sessState 0 0 = ssNone ∧ fresh.sessState 0 3 = ssNone ∧
    (full ssFailed).mayOpen 0 0 0 = true ∧ (List.range 4).all (fun j => decide ((full ssFailed).sessState 0 j ≠ ssNone)) = true ∧ (full ssFailed).sessState 0 0 = ssFailed ∧
    (s ssKeying { eph := some 0 }).sessState 0 0 = ssKeying ∧ (s ssKeying { eph := some 0 }).frameFor 0 0 mAck ack = true ∧
    (frameMsg ack).version = 1 ∧ (frameMsg ack).seq = 0 ∧ ((s ssKeying { eph := some 0 }).sess 0 0).eph = some 0 ∧
    (decodePoint ((ack.data.drop 64).take 97)).isSome = false ∧ 0 + 10000000 ≤ (s ssKeying {}).up ∧ (wPour ssKeying wBase).up < 0 + 10000000 ∧
    (s ssFailed {}).sessState 0 0 = ssFailed ∧ (s ssFailed {}).mayOpen 0 0 0 = true ∧ (s ssFailed {}).sessServer 0 0 = 0 ∧
    ({ s ssFailed {} with pours := [(0, { sess := [(0, {})], lost := [([], 0, 1999999999)] })] } : State).mayOpen 0 0 0 = false := by decide +kernel

theorem witness_RegisterAccess :
    let g := wGuard (cruPage 0 0) wBase
    let pg : BitVec 16 := 0x1001
    let sh : State := { wBase with shadows := [(shadowKey .mgmt 0x1001, some ⟨0x200, 5⟩)] }
    pg.toNat = cruPage 0 0 ∧ reach 0x204 .b32 ≠ none ∧ reach 0x200 .b64 = some (0x200, 0xFFFFFFFFFFFFFFFF) ∧ g.pageLive 0x1001 = true ∧
    (regAt 0x1001 0x210).isSome = true ∧ reach 0x210 .b64 = some (0x210, 0xFFFFFFFFFFFFFFFF) ∧
    regHook (g.writeCore .portA 0x1001 0x210 .b64 0xFFF) g .portA 0x1001 = (g.writeCore .portA 0x1001 0x210 .b64 0xFFF).st ∧
    g.guardOwner 0x1001 = whoCode .portA ∧ g.timesOut 0x1001 = false ∧ wBase.guardOwner 0x1001 = 0 ∧
    Store.get none sh.shadows (shadowKey .mgmt 0x1001) = some ⟨0x200, 5⟩ ∧ (0x204 : BitVec 12).toNat % 8 = 4 ∧
    (g.setTstate 0 4).timesOut 0x1001 = true ∧ reach 0x200 .b64 ≠ none ∧
    g.guardOwner 0x1001 ≠ whoCode .portB ∧ g.admits .portA 0x1001 Reg.PAGE_CTL = true ∧ (pageInfo 0x1001).isSome = true ∧
    wBase.boot.vaux = true := by decide +kernel

theorem witness_ManagementBus :
    wBase.boot.vaux = true ∧ State.reset.boot.vaux = false ∧ (1 : BitVec 8) ≠ 0 ∧ (0xFE : BitVec 8) ≠ 0xFF := by decide +kernel

/-- An armed tap of tile 0 that is due, with die 0 still to acknowledge as the last of eleven. -/
def wTap (s : State) : State :=
  let s := s.setReg tapPage Reg.TAP_STAT (word [(0, tpArmed), (16, 10), (32, 11)])
  { s with tap := { num := 7, time := 50, waiting := [0], unacked := [80] }, now := 52 }

theorem witness_SealAndTaps :
    let s (page : Nat) := wGuard page wBase
    let w : State := wBase.setRb sealPage Reg.SEAL_CTL 0 true
    let clean : State := wBase.setRb sealPage Reg.SEAL_CTL 3 true
    let act := (s sealPage).setRb sealPage Reg.SEAL_STAT 1 true
    let late := (s tapPage).setReg tapPage Reg.TAP_TIME 9999
    let at_ := (s tapPage).setReg tapPage Reg.TAP_TIME 10000
    let ptp := (s timePage).setRf timePage Reg.TIME_STAT 1 0 1
    let x := wTap (wGuard tapPage wBase)
    wBase.boot.main = true ∧ wBase.sealRun.start ≤ wBase.up ∧
    ({ wBase with sealRun := { start := 1 } } : State).up < ({ wBase with sealRun := { start := 1 } } : State).sealRun.start ∧ State.rb w sealPage Reg.SEAL_CTL 0 = true ∧ castState w = csEmpty ∧ State.rb w sealPage Reg.SEAL_STAT 1 = false ∧
    (wBase.rb sealPage Reg.SEAL_CTL 0 && (decide (castState wBase = csReady) || decide (castState wBase = csEmpty) ||
      decide (castState wBase = csFailed))) = false ∧
    (State.rb clean sealPage Reg.SEAL_CTL 3 && !clean.sealRun.fresh && !clean.sealRun.dirty) = true ∧
    (s sealPage).admits .portA sealPage Reg.SEAL_CTL = true ∧ fbit 0 4 = false ∧ fbit 0 3 = false ∧
    act.rb sealPage Reg.SEAL_STAT 1 = true ∧ act.admits .portA sealPage Reg.SEAL_CTL = true ∧ (s sealPage).rb sealPage Reg.SEAL_STAT 1 = false ∧
    act.sealRun.fenced = false ∧ x.admits .portA tapPage Reg.TAP_CTL = true ∧ x.tapState = tpArmed ∧
    late.admits .portA tapPage Reg.TAP_CTL = true ∧ late.tapState ≠ tpArmed ∧ (late.reg tapPage Reg.TAP_TIME).toNat < late.now.toNat + 10000 ∧
    at_.now.toNat + 10000 ≤ (at_.reg tapPage Reg.TAP_TIME).toNat ∧ at_.tapState ≠ tpArmed ∧
    (decide (x.tapState = tpArmed) && x.tap.waiting.contains (unitIx (.tile 0)) && decide (x.tap.time.toNat ≤ x.now.toNat)) = true ∧
    x.tap.time.toNat + 1 < x.now.toNat ∧ x.tap.waiting.contains (unitIx .global) = false ∧ x.tap.unacked.contains (unitIx (.die 0)) = true ∧
    x.rf tapPage Reg.TAP_STAT 22 16 + 1 = x.rf tapPage Reg.TAP_STAT 38 32 ∧ x.tap.unacked.contains (unitIx (.die 7)) = false ∧
    ptp.admits .portA timePage Reg.TIME_SET = true ∧ ptp.rf timePage Reg.TIME_STAT 1 0 = 1 ∧
    (s timePage).admits .portA timePage Reg.TIME_SET = true ∧
    (decide ((s timePage).rf timePage Reg.TIME_STAT 1 0 = 1) || decide ((s timePage).tapState = tpArmed)) = false := by decide +kernel

/-- SEAL_REF is no sealed field, so a reference does not change the CRC that is compared with it. -/
theorem sealCrc_ref (s : State) (v : W64) : (s.setReg sealPage Reg.SEAL_REF v).sealCrc = s.sealCrc := by
  have hr (p o : Nat) (d : regKey p o ≠ regKey sealPage Reg.SEAL_REF) : (s.setReg sealPage Reg.SEAL_REF v).reg p o = s.reg p o := by
    unfold State.reg State.setReg
    dsimp only
    rw [Store.get_set_other (h := Ne.symm d)]
  have hw (p o : Nat) (d : 3 ≤ p) : (s.setReg sealPage Reg.SEAL_REF v).reg p o = s.reg p o :=
    hr p o (by simp only [regKey, sealPage, Reg.SEAL_REF]; omega)
  have ht (i : Nat) : (s.setReg sealPage Reg.SEAL_REF v).tstate i = s.tstate i := by
    unfold State.tstate State.rf; rw [hw _ _ (by decide)]
  have hf (i : Nat) : (s.setReg sealPage Reg.SEAL_REF v).shutOff i = s.shutOff i := by
    unfold State.shutOff State.rf; rw [hw _ _ (by simp only [cetisPage, tilePage]; omega)]
  have hp : (s.setReg sealPage Reg.SEAL_REF v).phase = s.phase := by
    unfold State.phase State.rf; rw [hw _ _ (by decide)]
  have hk (p o : Nat) : (s.setReg sealPage Reg.SEAL_REF v).winKey p o = s.winKey p o := by
    unfold State.winKey
    rw [hw polderPage _ (by decide)]
    split
    · rfl
    · split
      · rename_i h; rw [hw p _ (by
          rw [show pciePage 0 = 12291 from rfl, show pciePage 4 = 13315 from rfl] at h
          simp only [Bool.and_eq_true, Bool.or_eq_true, decide_eq_true_eq] at h
          omega)]
      · rfl
  have hs (p o : Nat) (h : o ∈ sealedOffs p) : (s.setReg sealPage Reg.SEAL_REF v).stored p o = s.stored p o := by
    unfold State.stored
    have hd : ∀ p, p < 3 → ∀ o ∈ sealedOffs p, regKey p o ≠ regKey sealPage Reg.SEAL_REF := by decide +kernel
    have h1 : (s.setReg sealPage Reg.SEAL_REF v).reg p o = s.reg p o := by
      by_cases h3 : 3 ≤ p
      · exact hw p o h3
      · exact hr p o (hd p (by omega) o h)
    rw [hk, h1]
    rfl
  have hl (p : Nat) : (s.setReg sealPage Reg.SEAL_REF v).pageLive p = s.pageLive p := by
    unfold State.pageLive; simp only [ht, hf, hp]; rfl
  have hm (p : Nat) : (s.setReg sealPage Reg.SEAL_REF v).timesOut p = s.timesOut p := by
    unfold State.timesOut; simp only [ht, hf]; rfl
  have hq : (s.setReg sealPage Reg.SEAL_REF v).sealPart = s.sealPart := by
    funext p
    unfold State.sealPart
    simp only [hl, hm]
    split
    · rfl
    · split
      · rfl
      · refine List.flatMap_congr fun o ho => ?_
        rw [hs p o ho]
  unfold State.sealCrc; rw [hq]

/-- The clauses of SealAndTaps that compare the CRC of a walk: a reference that differs from it, and one that does not. -/
theorem witness_SealAndTaps_walk :
    let s : State := ({ State.reset with boot := { vaux := true, main := true } } : State).setRb sealPage Reg.SEAL_CTL 0 true
    let off := s.setReg sealPage Reg.SEAL_REF (word [(0, s.sealCrc.toNat + 1)])
    let on := s.setReg sealPage Reg.SEAL_REF (word [(0, s.sealCrc.toNat)])
    off.sealCrc.toNat ≠ off.rf sealPage Reg.SEAL_REF 31 0 ∧ on.sealCrc.toNat = on.rf sealPage Reg.SEAL_REF 31 0 := by
  intro s off on
  have hc := s.sealCrc.isLt
  simp only [off, on, sealCrc_ref, State.rf, State.reg_setReg_same]
  generalize s.sealCrc.toNat = n at hc
  have hw (m : Nat) : fld (word [(0, m)]) 31 0 = m % 2 ^ 32 := by
    simp [word, fld, bits]
  simp only [hw]
  omega

/-- The tiles of a list live with every lane good. -/
def wLanes (l : List Nat) (s : State) : State :=
  l.foldl (fun (s : State) i => s.setReg (cetisPage i) Reg.LANES (2 ^ 40 - 1)) s

theorem witness_ClocksAndTime :
    let st := stewPage 0
    let j : Nat := 79
    let s := wLanes [0] wBase
    let par (p : Nat) (s : State) := s.setReg (clkPage 0) Reg.CLK_PARENT (word [(0, p)])
    let free : State := { (wLanes [0] wBase).setReg (clkPage 0) Reg.CLK_PARENT (word [(0, 7), (8, 1)]) with lostPort := [(0, 1)] }
    let f (khz target : Nat) : State :=
      { (wBase.setReg (clkPage j) (Reg.CRU_FREQ 3) (word [(0, target)])).setRb (clkPage j) Reg.CLK_CTL 8 true with khz := [(j * 4 + 3, khz)] }
    let locked (s : State) : State := s.setRb (clkPage j) (Reg.CRU_FREQ 3) 30 true
    let due (s : State) : Bool := (decide (Store.get 0 s.stepAt (j * 4 + 3) = 0) || decide (Store.get 0 s.stepAt (j * 4 + 3) + 100 ≤ s.up)) && !s.switching j 3
    let soon : State := { f 400000 1500 with stepAt := [(79 * 4 + 3, 1)], up := 100 }
    let str := (f 400000 1500).setRb (clkPage j) (Reg.CRU_FREQ 3) 28 true
    let may (s : State) : Bool :=
      let c := s.khzOf j 3
      let target := 1000 * s.target j 3
      let new := if c < target then min target (c + c / 100) else max target (c - c / 100)
      decide (new ≠ c) && (decide (new ≤ c) || decide (s.voltsFor j new ≤ Store.get 0 s.vlog j))
    let go (s : State) : Bool :=
      let c := s.khzOf j 3
      let target := 1000 * s.target j 3
      let idle := (List.range 8).all (fun t => (s.task j 3 t).st = .idle)
      (if c < target then idle && decide (s.voltsFor j target ≤ Store.get 0 s.vlog j)
        else decide (target < c) && s.rb (clkPage j) Reg.CLK_CTL 8)
    let p : State := { wBase with ptp := { rate := some 5, step := some 2000 } }
    let tset : State := { p with timeSet := some 7 }
    let ptp := wBase.setReg st Reg.PTP_CTL (word [(0, 15), (4, 1)])
    (wBase.setRf st Reg.REF_STAT 1 0 3).rf st Reg.REF_STAT 1 0 ≠ 0 ∧ (wBase.setRf st Reg.REF_STAT 1 0 0).rf st Reg.REF_STAT 1 0 = 0 ∧
    (3 : BitVec 2) ≠ 0 ∧ (1 : BitVec 2) ≠ 0 ∧ wBase.boot.main = true ∧ (par 7 s).parent 0 = 7 ∧ (par 4 s).parent 0 ≠ 7 ∧
    ((par 4 s).permitted 0).filter (· ≠ 4) = [] ∧
    ((par 0 (wLanes [9] wBase)).permitted 9).length = 2 ∧
    free.rb (clkPage 0) Reg.CLK_PARENT 8 = true ∧ free.nextParent 0 = some 4 ∧ free.nextParent 0 ≠ some 1 ∧ (par 0 s).rb (clkPage 0) Reg.CLK_PARENT 8 = false ∧
    due (f 400000 1500) = true ∧ due soon = false ∧ due (locked (f 400000 1500)) = false ∧ (locked (f 400000 1500)).switching j 3 = true ∧
    go (locked (f 400000 1500)) = true ∧ go (locked (f 400000 400)) = false ∧ due str = true ∧
    str.stretching j 3 = true ∧ (f 400000 1500).stretching j 3 = false ∧ may (f 400000 1500) = true ∧ may (f 400000 400) = false ∧
    may str = true ∧ go (f 400000 1500) = true ∧ go (f 1500000 400) = true ∧ go (f 400000 400) = false ∧
    wBase.now.toNat / 2 ^ 20 = wBase.ptp.epoch ∧ ({ p with now := 0x100000 } : State).now.toNat / 2 ^ 20 ≠ p.ptp.epoch ∧ p.ptp.rate = some 5 ∧ 20 < (21 : W32).toInt.natAbs ∧ ¬ 20 < (-20 : W32).toInt.natAbs ∧ tset.timeSet = some 7 ∧
    p.timeSet = none ∧ wBase.ptp.step = none ∧ p.ptp.step = some 2000 ∧ p.tapArmed = false ∧ (wTap p).tapArmed = true ∧
    ptp.rb st Reg.PTP_CTL 4 = true ∧ ptp.rf st Reg.PTP_CTL 3 0 = 15 ∧ (wBase.setRf timePage Reg.TIME_STAT 1 0 1).timeSource = 1 ∧
    wBase.timeSource ≠ 1 := by decide +kernel

theorem witness_PowerDomains :
    let v : W64 := BitVec.ofNat 64 0xAAA9
    let s := wGuard (pwrPage 0) wBase
    let d := wGuard tidePage wBase
    let busy := wGuard (pwrPage 0) (wTask { st := .ready })
    let r : Machine.Ramp := ⟨0, 7, 2, 0, 0, .asked, true, none⟩
    let on (p : Machine.RampPhase) : State := { wOff wBase with ramps := [{ r with phase := p, granted := 5 }], up := 20005 }
    let die : State := { wBase with ramps := [⟨87, 8, 2, 0, 0, .stage 4, false, none⟩] }
    let many : State := { wBase with ramps := [r, { r with dom := 0, phase := .stage 1 }, { r with dom := 1, phase := .stage 1 }] }
    let th := wBase.setRf (pwrPage 79) Reg.MINV_CTL 27 16 700
    (wBase.boot.main && decide ((37999 : BitVec 16).toNat < 38000)) = true ∧ (wBase.boot.main && decide ((38000 : BitVec 16).toNat < 38000)) = false ∧
    s.admits .portA (pwrPage 0) Reg.PWR_DOM_REQ = true ∧ (∀ m : Nat, m < 8 → s.rampOf 0 m = none) ∧
    (∀ m : Nat, m < 8 → m ≠ 0 → domExists 0 m = false ∨ (fld v (2 * m + 1) (2 * m) = s.domCode 0 m ∧ domNever 0 m (s.domCode 0 m) = false)) ∧
    s.domCode 0 0 ≠ fld v 1 0 ∧ (domNever 0 0 1 || s.domHeld 0 0 1) = true ∧ (domNever 0 0 0 || s.domHeld 0 0 0) = false ∧
    (domNever 0 0 0 || busy.domHeld 0 0 0) = true ∧ (domNever 0 4 1 || s.domHeld 0 4 1) = false ∧ (domNever 0 0 2 || s.domHeld 0 0 2) = false ∧
    (wGuard (pwrPage 0) (wOff wBase)).domCode 0 0 ≠ 2 ∧
    (wGuard (pwrPage 0) (wOff wBase)).admits .portA (pwrPage 0) Reg.PWR_DOM_REQ = true ∧
    d.admits .portA tidePage (Reg.SLUICE_DOM_REQ 7) = true ∧ (∀ m : Nat, m < 10 → d.rampOf 87 m = none) ∧ domExists 87 9 = false ∧
    domExists 84 9 = true ∧ (on .asked).rampOf (domOf (.tile 0 7)).1 (domOf (.tile 0 7)).2 = some { r with granted := 5 } ∧
    (on .asked).grantable { r with granted := 5 } = true ∧ many.grantable r = false ∧ many.rampOf 0 7 = some r ∧
    ((on (.stage 3)).rampOf 0 7).map (·.phase) = some (.stage 3) ∧ ((on (.stage 4)).rampOf 0 7).map (·.phase) = some (.stage 4) ∧
    ((on (.stage 4)).rampOf 0 7).map (·.fromOff) = some true ∧ ((on (.stage 4)).rampOf 0 7).map (·.next) = some none ∧
    5 + stageEnd 3 ≤ (on (.stage 3)).up ∧ ({ on (.stage 3) with up := 9004 } : State).up < 5 + stageEnd 3 ∧ 5 + 10000 ≤ (on (.stage 4)).up ∧
    ({ on (.stage 4) with up := 10004 } : State).up < 5 + 10000 ∧ 5 + 20000 ≤ (on (.stage 4)).up ∧ (on (.stage 4)).up < 6 + 20000 ∧
    die.rampOf (domOf (.die 7 8)).1 (domOf (.die 7 8)).2 = some ⟨87, 8, 2, 0, 0, .stage 4, false, none⟩ ∧
    s.admits .portA (pwrPage 0) Reg.MINV_CTL = true ∧ fbit 7 (2 : Fin 3) = true ∧ d.admits .portA tidePage Reg.VMIF_REARM = true ∧
    th.rf (pwrPage 79) Reg.MINV_CTL 27 16 ≠ 0 ∧ min (699 : BitVec 16).toNat 4095 < th.rf (pwrPage 79) Reg.MINV_CTL 27 16 ∧
    th.rf (pwrPage 79) Reg.MINV_CTL 27 16 ≤ min (700 : BitVec 16).toNat 4095 := by decide +kernel

theorem witness_Tide :
    let src (c t f : Nat) (s : State) := s.setReg tidePage (Reg.SRC c) (word [(0, t), (10, f), (18, 100), (32, 10), (48, 1)])
    let own : State := src 0 900 0 (wGuard tidePage wBase)
    let due : State := { src 2 900 100 wBase with up := 10000000 }
    let i : TileIx := 79
    let sent : State := { wBase with tide := { sent := [(79, some 1000)] } }
    let low : State := { wBase with tide := { fellAt := 0, movedAt := 0 }, up := 10000000 }
    let both := (src 1 500 250 (src 0 500 250 low)).setRb tidePage Reg.TIDE_STAT 2 true
    let eb : State := { both with tide := { both.tide with slots := [(0, { c := .nat 500, f := .nat 250 }), (1, { c := .nat 500, f := .nat 250 })] } }
    own.admits .portA tidePage (Reg.SRC 0) = true ∧ whoCode .portA = (0 : Fin 4).val + 1 ∧ whoCode .portA ≠ (2 : Fin 4).val + 1 ∧
    own.admits .portA tidePage (Reg.SRC 2) = true ∧ (State.leased due 2 && decide (State.leaseEnd due 2 ≤ due.up)) = true ∧
    (State.leased { due with up := 9999999 } 2 && decide (State.leaseEnd due 2 ≤ 9999999)) = false ∧
    (0 : Nat) ∈ own.tideSlots ∧ (3 : Nat) ∉ own.tideSlots ∧ (wBase.boot.main && decide (wBase.phase = 11)) = true ∧
    (State.reset.boot.main && decide (State.reset.phase = 11)) = false ∧
    (Frac.nat 0).lt (wBase.tideC.mul (.nat 36)) = true ∧ (Frac.nat 36000).lt (wBase.tideC.mul (.nat 36)) = false ∧
    (wBase.tideF.mul (.nat 36)).lt (.nat 1) = true ∧ wBase.tstate 5 ≠ 1 ∧
    Store.get none sent.tide.sent i.val = some (1000 : BitVec 16).toNat ∧ Store.get none sent.tide.sent i.val ≠ some (999 : BitVec 16).toNat ∧
    (((eb.tideC.mul (.nat 36)).mul (.mk' 101 100)).lt (.nat 18181) && decide (eb.tide.fellAt + 2000000 ≤ eb.up)) = true ∧
    (((eb.tideC.mul (.nat 36)).mul (.mk' 101 100)).lt (.nat 18180) && decide (eb.tide.fellAt + 2000000 ≤ eb.up)) = false ∧
    ((Frac.nat 8909).lt ((eb.tideF.mul (.nat 36)).mul (.mk' 99 100)) && decide (eb.tide.movedAt + 10000000 ≤ eb.up)) = true ∧
    ((Frac.nat 8910).lt ((eb.tideF.mul (.nat 36)).mul (.mk' 99 100)) && decide (eb.tide.movedAt + 10000000 ≤ eb.up)) = false ∧
    (eb.rb tidePage Reg.TIDE_STAT 2 && (Frac.nat 17819).lt ((eb.tideC.mul (.nat 36)).mul (.mk' 99 100))) = true := by decide +kernel

theorem witness_ThermalControl :
    let k := sensKey (.tile 0 9)
    let tray := trayPage 0
    let at_ (x : Nat) (s : State) := s.setReg (thermPage 0) (Reg.THERM_T 9) (word [(0, x)])
    let bad := wBase.setReg (thermPage 0) (Reg.THERM_T 9) (word [(14, 1)])
    let off (t : Nat) : State := { at_ 121 wBase with sens := [(k, { off := some t })], up := 100000000 }
    let trip : State := { at_ 944 wBase with sens := [(k, { hot := 3 })], boot := { wBase.boot with shuts := [0, 1] }, up := 3600000000000 }
    let auto : State := wGuard tray { wBase with boot := { vaux := true, fwOk := true, afterShut := true }, up := 60000000000 }
    let cold := auto.setRb tray Reg.SHUT_CTL 0 false
    let held := auto.setRb tray Reg.SHUT_CTL 1 true
    let ilim (lim : Nat) (s : State) := s.setReg (thermPage 0) Reg.QUENCH (word [(0, lim)])
    let warm : State := { ilim 50 (at_ 799 wBase) with quench := { timers := [(0, some 0)] }, up := 10000000 }
    let sent : State := { warm with quench := { sent := [(0, some 1000)] } }
    wBase.sensPowered k = true ∧ State.reset.sensPowered k = false ∧ wBase.trusted k = true ∧ bad.trusted k = false ∧ k < 2048 ∧
    wBase.sensLevel k = 0 ∧ levelOf 0 840 ≠ 0 ∧ levelOf (wBase.sensLevel k) 944 = 2 ∧
    medianOf ((wBase.refSet k).map wBase.sensTemp) = some 0 ∧ medianOf (((at_ 120 wBase).refSet k).map (at_ 120 wBase).sensTemp) = some 0 ∧
    ((at_ 120 wBase).sensTemp k - 0).natAbs ≤ 120 ∧ 120 < ((at_ 121 wBase).sensTemp k - 0).natAbs ∧ ((at_ 121 wBase).sens1 k).off = none ∧
    ((off 0).sens1 k).off = some 0 ∧ 120 < ((off 0).sensTemp k - 0).natAbs ∧ 0 + 100000000 ≤ (off 0).up ∧ (off 1).up < 1 + 100000000 ∧
    wBase.admits .portA (sensReg k).1 (sensReg k).2 = true ∧ bad.admits .portA (sensReg k).1 (sensReg k).2 = true ∧
    (trip.boot.main && trip.trusted k && decide (3 ≤ (trip.sens1 k).hot)) = true ∧
    (wBase.boot.main && wBase.trusted k && decide (3 ≤ (wBase.sens1 k).hot)) = false ∧
    (trip.boot.shuts.filter (fun t => decide (trip.up < t + 3600000000000))).length = 1 ∧
    ({ trip with up := 3599999999999 } : State).boot.shuts.filter (fun t => decide (3599999999999 < t + 3600000000000)) = [0, 1] ∧
    (auto.mayRestart && (auto.rb tray Reg.SHUT_CTL 0 || auto.boot.restartReq)) = true ∧
    (cold.mayRestart && (cold.rb tray Reg.SHUT_CTL 0 || cold.boot.restartReq)) = false ∧
    cold.admits .portA tray Reg.SHUT_CTL = true ∧ held.admits .portA tray Reg.SHUT_CTL = true ∧ cold.boot.afterShut = true ∧
    (({ held with up := 59999999999 } : State).setRb tray Reg.SHUT_CTL 1 false).mayRestart = false ∧
    (held.setRb tray Reg.SHUT_CTL 1 false).mayRestart = true ∧ cold.boot.main = false ∧ wBase.boot.main = true ∧
    (List.range 80).filter (fun j => (at_ 840 wBase).anyHot j 840) = [0] ∧ max ((ilim 1000 wBase).quenchLim 0 - 50) 50 < (ilim 1000 wBase).quenchLim 0 ∧
    (ilim 1000 wBase).anyHot 0 840 = false ∧ 1000 ≤ (ilim 1000 wBase).quenchLim 0 ∧ warm.quenchLim 0 < 1000 ∧ warm.anyHot 0 800 = false ∧
    (ilim 50 (at_ 800 wBase)).anyHot 0 800 = true ∧ (ilim 50 (at_ 839 wBase)).anyHot 0 840 = false ∧
    Store.get none warm.quench.timers 0 = some 0 ∧ 0 + 10000000 ≤ warm.up ∧ Store.get none wBase.quench.timers 0 = none ∧
    Store.get none sent.quench.sent 0 = some (1000 : BitVec 16).toNat ∧ Store.get none sent.quench.sent 0 ≠ some (1001 : BitVec 16).toNat ∧
    wBase.boot.vaux = true ∧ State.reset.boot.vaux = false := by decide +kernel

/-- Riddle tile 1 of polder 0 with the wavefront of stream 5 at a place, and rows of one part. -/
def wRiddle (r : Machine.RPlace) (s : State) : State :=
  { (wServe s).setReg (riddlePage 1) Reg.RID_LIST 0x81 with rplaces := [(1, [r])] }
def wPlace (ph : Machine.RPhase) (parts : List Machine.PartRec) : Machine.RPlace := ⟨0, 5, 0, 0, 0, 84, wWave, parts, [], ph, 0⟩
/-- The bytes of a part of one row of stream 5 at position 0: token 1 with logit 1.0. -/
def wPart (gen : Nat) : List Byte :=
  leBytes 8 (5 * 2 ^ 32 + gen * 2 ^ 48) ++ leBytes 8 1 ++ leBytes 4 1 ++ leBytes 4 1 ++ leBytes 4 0x3F800000

theorem witness_HandsAndDrafts_parts :
    let hand (b : List Byte) (part total : Nat) : Packet :=
      Packet.sealed { wPkt 0xC 0 (BitVec.ofNat 64 (part + 31 * 32 + total * 2 ^ 16)) b with dst := 1 }
    let p := hand (wPart 0) 0 28
    let b := wRiddle (wPlace .gathering []) (wBase.setRf (pwrPage 1) Reg.PWR_DOM 15 0 0xAAAA)
    let s (p : Packet) := wArr p b
    let off : State := (s p).setRf (pwrPage 1) Reg.PWR_DOM 15 0 0
    let none_ : State := { s p with rplaces := [] }
    let two := wRiddle (wPlace .gathering [⟨0, 31, []⟩]) wBase
    let other := wRiddle (wPlace .reserved [⟨1, 30, []⟩]) wBase
    let x (s : State) (p : Packet) := (s.gatherHand 1 p).1
    let keys (p : Packet) : List RowKey := (validRows (x b p).bytes).map (·.1)
    let late := State.setRf { b with up := 1000 } (riddlePage 1) Reg.RID_PART_TMO 31 0 1000
    (s p).accepts 1 opHand p = true ∧ (s p).handWaits 1 p = false ∧ off.handWaits 1 p = true ∧ off.accepts 1 opHand p = true ∧
    (x b p).total ≤ (x b p).got ∧ (x b (hand [1] 0 28)).got < (x b (hand [1] 0 28)).total ∧
    (s (hand [1] 0 28)).accepts 1 opHand (hand [1] 0 28) = true ∧ keys (hand [0] 0 1) = [] ∧ keys p = [⟨0, 5, 0, 0, true⟩] ∧
    (s p).canSend 1 (replyTo p opMoveDone 0 28 []) = true ∧ b.genAt 1 5 = 0 ∧ keys (hand (wPart 1) 0 28) = [⟨0, 5, 1, 0, true⟩] ∧
    none_.homeTile 1 (none_.polderOf 1) 5 = some 1 ∧ none_.scanPlace 1 5 = none ∧ none_.handWaits 1 p = false ∧
    b.scanPlace 1 5 = some (wPlace .gathering []) ∧ rowMatches (waveHead wWave) 0 0 = true ∧ rowMatches (waveHead wWave) 1 0 = false ∧
    two.scanPlace 1 5 = some (wPlace .gathering [⟨0, 31, []⟩]) ∧ (x two p).part = 0 ∧
    other.scanPlace 1 5 = some (wPlace .reserved [⟨1, 30, []⟩]) ∧ (30 : Nat) ≠ (x other p).parts ∧
    late.ridPlace 5 .gathering = some (1, wPlace .gathering []) ∧ 0 + late.rf (riddlePage 1) Reg.RID_PART_TMO 31 0 ≤ late.up ∧
    (wPlace .gathering []).complete = false ∧ b.ridPlace 5 .gathering = some (1, wPlace .gathering []) := by decide +kernel

theorem witness_HandsAndDrafts_drafts :
    let req (m commit : Nat) (pos : Nat) (tok : List Byte) : Packet :=
      wPkt 0x10 0 (BitVec.ofNat 64 (5 + m * 2 ^ 20 + commit * 2 ^ 27 + pos * 2 ^ 32)) tok
    let q := req 0 1 9 [1, 0, 0, 0, 0]
    let d : State := { wServe wBase with streams := [(5, { st := .bound, draft := true })], arrivals := [q] }
    let full : State := { d with places := [(0, { used := true })] }
    let wait : State := { d with streams := [(5, { st := .decode, draft := true, inflight := 2 })], rplaces := [(1, [wPlace .leaving []])] }
    let h : Head := ⟨5, 0, 0, false, 0, 2, 0, false, true, 2, 0, 0, 1, 0, 4, 0, []⟩
    let l : List Node := [⟨1, 0, 0, 0x3F80⟩, ⟨2, 0, 1, 0x3F80⟩]
    let tree (l : List Node) : Packet := Packet.sealed { wPkt 0x11 0 0 (h.bytes ++ treeBytes l [[0], [0, 1]]) with dst := 1 }
    let t := tree l
    let w : State := { (wRiddle (wPlace .draftWait []) wBase).setReg polderPage (Reg.POLD_DRAFT 0) (word [(32, 1000)]) with
      streams := [(5, { st := .decode, posLimit := 100, treeNodes := 64, treeDepth := 16 })], up := 1000, arrivals := [t] }
    let one (x : Machine.Stream) : List Node × List (List Nat) :=
      trimTree (treeNodes (t.payload.drop 64) 2) (maskRows (t.payload.drop 64) 2) 0 x.posLimit x.treeNodes x.treeDepth
    d.accepts 0 opDraftReq q = true ∧ bits q.operand.toNat 26 20 = 0 ∧ bits (req 30 31 9 []).operand.toNat 26 20 + 1 = bits (req 30 31 9 []).operand.toNat 31 27 ∧
    d.firstBed 0 = some 0 ∧ d.entryTile 0 = some 0 ∧ d.freeNormal 0 = some 0 ∧ d.fenced 0 = false ∧ (d.stream 5).draft = true ∧
    (d.stream 5).gen.toNat = bits q.operand.toNat 19 12 ∧ (d.stream 5).st = .bound ∧ full.freeNormal 0 = some 1 ∧
    (wait.tokenWaits 0 || decide (wait.rf polderPage (Reg.POLD_LOOP 0) 15 0 < wait.inLoop 0 + 1)) = true ∧ wait.freeNormal 0 = some 0 ∧
    (d.tokenWaits 0 || decide (d.rf polderPage (Reg.POLD_LOOP 0) 15 0 < d.inLoop 0 + 1)) = false ∧ d.current 0 h = true ∧
    w.accepts 1 opDraftTree t = true ∧ (Store.get [] w.rplaces 1).find? (fun r => r.stream = (Head.ofBytes t.payload).stream && r.phase = .draftWait) =
      some (wPlace .draftWait []) ∧
    (decide ((waveHead wWave).gen = (Head.ofBytes t.payload).gen) && decide ((waveHead wWave).pos0 = (Head.ofBytes t.payload).pos0) &&
      decide (w.up ≤ 0 + w.rf polderPage (Reg.POLD_DRAFT 0) 63 32)) = true ∧
    ¬(({ w with up := 1001 } : State).up ≤ 0 + w.rf polderPage (Reg.POLD_DRAFT 0) 63 32) ∧
    treeNodes (t.payload.drop 64) (Head.ofBytes t.payload).rows = l ∧ treeValid l = true ∧ treeValid [⟨1, 0, 0, 0⟩, ⟨2, 1, 1, 0⟩] = false ∧
    treeNodes ((tree [⟨1, 0, 0, 0⟩, ⟨2, 1, 1, 0⟩]).payload.drop 64) 2 = [⟨1, 0, 0, 0⟩, ⟨2, 1, 1, 0⟩] ∧ 1 < (one (w.stream 5)).1.length ∧
    (one { (w.stream 5) with treeDepth := 1 }).1.length ≤ 1 ∧ (0 + w.rf polderPage (Reg.POLD_DRAFT (w.stream 5).polder) 63 32 ≤ w.up) ∧
    w.ridPlace 5 .draftWait = some (1, wPlace .draftWait []) ∧
    ¬(0 + w.rf polderPage (Reg.POLD_DRAFT (w.stream 5).polder) 63 32 ≤ ({ w with up := 999 } : State).up) := by decide +kernel

/-- The record of stream 5 on riddle tile 1: no masks, no grammar, greedy. -/
def wRecord (s : State) : State := s.writePeat 1 (2048 * 5 + 40) [0xFF, 0xFF]
def wRows : List Machine.PartRec := [⟨0, 0, [⟨0, 0, 1, 1, some (0x3F800000, 0x3F800000), 0, false, []⟩]⟩]

theorem witness_TokenSelection :
    let r : Machine.RPlace := { wPlace .gathering wRows with cands := [⟨0, 0, [(0, ⟨1, 0x3F800000⟩)]⟩] }
    let bare : Machine.RPlace := wPlace .gathering [⟨0, 0, [⟨0, 0, 1, 1, none, 0, false, []⟩]⟩]
    let at_ (r : Machine.RPlace) (x : Machine.Stream) : State :=
      { wRecord (wRiddle r (wBase.setRf (pwrPage 1) Reg.PWR_DOM 15 0 0xAAAA)) with streams := [(5, x)] }
    let s : State := at_ r { st := .decode }
    let old : State := { s with genTab := [(4096 + 5, 1)] }
    let held : State := { s with heats := [(0, { phase := .held })] }
    let none_ : State := at_ bare { st := .decode }
    let eos := s.setReg (riddlePage 1) (Reg.EOS 7) (word [(0, 1), (31, 1)])
    let full : State := (at_ r { st := .decode, emitted := 1000, commitPos := 1 }).setReg (mirePage 0) Reg.JRN_CTL (word [(0, 1), (8, 13)])
    let reads := s.ridPieces (s.rctx 1 r) [0]
    let works (s : State) (r : Machine.RPlace) : Bool := r.complete && s.ridAligned 1 && s.piecesOn 1 (s.ridPieces (s.rctx 1 r) [0])
    let bad : State := { s with peatBad := [(1 * 2 ^ 25 + s.recordAt 1 5 / 256, true)] }
    let choice (s : State) (r : Machine.RPlace) : Option Tok := ((s.rctx 1 r).rowSel 0 0).cand.head?
    let k : Tok := ⟨1, 0x3F800000⟩
    let stop (s : State) : Option Nat := s.endsWith 1 5 ⟨1, 0, 1, false⟩ 0
    held.ridPlace 5 .gathering = some (1, r) ∧ held.fenced (waveHead r.wave).polder = true ∧ old.ridPlace 5 .gathering = some (1, r) ∧
    old.genAt 1 5 ≠ (waveHead r.wave).gen ∧ s.fenced (waveHead r.wave).polder = false ∧ s.genAt 1 5 = (waveHead r.wave).gen ∧
    works s r = true ∧ works (s.setRf (pwrPage 1) Reg.PWR_DOM 15 0 0) r = false ∧ works s (wPlace .gathering []) = false ∧
    (s.ridRead 1 reads .clean 0).1 = true ∧ (s.ridRead 1 reads .uncorrectable 0).1 = false ∧ (bad.ridRead 1 reads .clean 0).1 = false ∧
    (s.stream 5).draft = false ∧ (waveHead r.wave).kind ≠ kTree ∧ (waveHead r.wave).kind ≠ kPrefill ∧ (waveHead r.wave).pos0 = 0 ∧
    (s.stream 5).st = .decode ∧ s.qEn .a kTr 0 = true ∧ s.buffered .a < 16384 ∧ (s.rctx 1 r).greedy = true ∧ works none_ bare = true ∧
    choice none_ bare = none ∧ none_.ridPlace 5 .gathering = some (1, bare) ∧ choice s r = some k ∧ stop s = none ∧
    s.ridPlace 5 .gathering = some (1, r) ∧ s.jrnRoom 5 1 = true ∧ stop eos = some stEos ∧ choice full r = some k ∧
    full.jrnRoom 5 1001 = false ∧ s.coupled 5 = false ∧ (s.rctx 1 r).record.ngram = false ∧ (s.rctx 1 r).record.gramEn = false := by
  decide +kernel

/-- Tile 0 active, with the casting in force. -/
def wHeat (s : State) : State := (wServe s).setRf polderPage (Reg.TSTATE 0) 3 0 1

theorem witness_FaultReports :
    let s : State := { wHeat wBase with up := 30000 }
    let rep (c : Nat) (s : State) : State := { s with reports := [⟨0, c, 7, 0, 0⟩] }
    let g := wGuard polderPage (wHeat wBase)
    let h (x : Machine.Heat) : State := { g with heats := [(0, x)] }
    let q := (wBase.setRf polderPage (Reg.TSTATE 4) 63 60 4).setRb polderPage (Reg.RC_CTL 0) 24 true
    let t := wBase.setRf polderPage (Reg.TSTATE 4) 63 60 5
    let sealed : State := { h { phase := .held, cause := 13 } with sealRun := { fenced := true } }
    (wBase.boot.main && decide (1 ≤ (12 : BitVec 8).toNat) && (decide ((12 : BitVec 8).toNat ≤ 8) || decide ((12 : BitVec 8).toNat = 12)) &&
      decide ((7 : BitVec 8).toNat < 8)) = true ∧ ((decide ((9 : BitVec 8).toNat ≤ 8) || decide ((9 : BitVec 8).toNat = 12))) = false ∧
    (decide (s.tstate 0 = 1) || decide (s.tstate 0 = 2)) = true ∧ 30000 ≤ s.up - Store.get 0 s.beats 0 ∧
    (decide (wBase.tstate 0 = 1) || decide (wBase.tstate 0 = 2)) = false ∧ ({ s with up := 29999 } : State).up - Store.get 0 s.beats 0 < 30000 ∧
    (s.reports.find? (fun r => decide (r.tile = 0) || (decide (80 ≤ r.tile) && (0 : TileIx).val = 0))) = none ∧
    ((rep 1 s).reports.find? (fun r => decide (r.tile = 0))) = some ⟨0, 1, 7, 0, 0⟩ ∧ castState (rep 1 s) = 4 ∧
    ((rep 1 s).verdict ⟨0, 1, 7, 0, 0⟩).action = some 0 ∧ ((rep 12 s).verdict ⟨0, 12, 7, 0, 0⟩).action = some 2 ∧
    ((rep 6 s).verdict ⟨0, 6, 7, 0, 0⟩).action = some 1 ∧ ((rep 6 s).verdict ⟨0, 6, 7, 0, 0⟩).victim = 0 ∧
    (rep 1 s).tstate 0 = 1 ∧ (rep 1 s).member 0 = true ∧ (rep 1 s).heatKey ((rep 1 s).polderOf 0) = 0 ∧
    ((rep 1 s).heat 0).phase = .running ∧ (rep 1 s).storming 0 = false ∧ castState (rep 13 s) = 4 ∧ castState (rep 15 s) = 4 ∧
    g.admits .portA polderPage (Reg.RC_CTL 0) = true ∧ (g.heat 0).phase ≠ .held ∧ (sealed.heat 0).phase = .held ∧ (sealed.heat 0).cause = 13 ∧
    sealed.sealRun.fenced = true ∧ sealed.admits .portA polderPage (Reg.RC_CTL 0) = true ∧ ((h { phase := .held }).heat 0).cause ≠ 13 ∧
    ((h { phase := .held }).heat 0).phase = .held ∧ g.admits .portA polderPage Reg.RC_TILE = true ∧ fld 79 6 0 = (79 : TileIx).val ∧
    q.tstate 79 = 4 ∧ q.rb polderPage (Reg.RC_CTL (q.rectPolder 79)) 24 = true ∧ Store.get 0 q.retires 79 < 3 ∧ t.tstate 79 = 5 ∧
    wBase.tstate 79 ≠ 5 := by decide

theorem witness_HeatRecovery :
    let w : Machine.Swap := ⟨0, 0, 5, false, false⟩
    let on (s : State) := s.setRf (pwrPage 5) Reg.PWR_DOM 15 0 0xAAAA
    let s (x : Machine.Heat) : State := { on (wHeat wBase) with heats := [(0, x)], up := 100000 }
    let due := s { phase := .settling, swaps := [w] }
    let early : State := { due with up := 19999 }
    let ready := s { phase := .refilling, swaps := [{ w with begun := true }] }
    let whole : State := { s { phase := .refilling, swaps := [{ w with begun := true, done := true }] } with
      streams := [(4095, { st := .held, kept := .bound })] }
    (decide ((due.heat 0).phase = .settling) && decide ((due.heat 0).fenced + due.settleNs 0 ≤ due.up)) = true ∧
    (decide ((early.heat 0).phase = .settling) && decide ((early.heat 0).fenced + early.settleNs 0 ≤ early.up)) = false ∧
    0 ∈ due.heatTiles 0 ∧ (due.heat 0).swaps ≠ [] ∧ (due.heat 0).phase ≠ .running ∧ (wBase.heat 0).phase = .running ∧
    ([w].map (fun x => x.begun && !x.done && [4, 5, 6, 7].all (fun n => due.domCode x.spare n = 2))) = [false] ∧
    ((ready.heat 0).swaps.map (fun x => x.begun && !x.done && [4, 5, 6, 7].all (fun n => ready.domCode x.spare n = 2))) = [true] ∧
    (decide ((whole.heat 0).phase = .refilling) && (whole.heat 0).swaps.all (fun w => w.done && (List.range 8).all (fun n =>
      whole.domCode w.spare n = 2))) = true ∧
    (decide ((ready.heat 0).phase = .refilling) && (ready.heat 0).swaps.all (fun w => w.done)) = false ∧
    4095 ∈ whole.heatStreams 0 ∧ (whole.stream 4095).st = .held ∧ (whole.stream 4095).kept = .bound ∧ (whole.stream 4095).linked = false := by decide

/-- Firmware that runs, with main power off or on, before the map is recorded. -/
def wFirm (main : Bool) : State := { State.reset with boot := { vaux := true, fwOk := true, main := main } }

theorem witness_BringUp :
    let st := stewPage 0
    let tray := trayPage 0
    let v : State := { State.reset with boot := { vaux := true } }
    let f (g : Bool) (n : W32) : FwImage := ⟨g, n⟩
    let s : State := { v with sec := { rollback := 5 } }
    let good (f : FwImage) : Bool := f.sigOk && decide (s.sec.rollback.toNat ≤ f.release.toNat)
    let m := wFirm true
    let off := wFirm false
    let after : State := { off with boot := { off.boot with afterShut := true }, up := 60000000000 }
    let held := off.setRb tray Reg.SHUT_CTL 1 true
    let outer := (List.range 80).find? (fun i => decide (ringOf i = 1))
    let i : TileIx := 9
    let full := m.setRf tidePage Reg.TIDE_IN 47 32 3481
    let edge := m.setRf tidePage Reg.TIDE_IN 47 32 3480
    let hot : State := { m.setReg (thermPage 9) (Reg.THERM_T 0) (word [(0, 480)]) with boot := { m.boot with restarted := true } }
    let run : State := { m with sites := [(0, { result := 9 })] }
    let toTester (p : Nat) : Bool := match run.tester 0 with | some t => decide (t.1 = p) | none => false
    let linked (lanes : List (BitVec 8)) : Bool := (List.range 5).any (fun p => toTester p && decide ((lanes.getD p 0).toNat ≠ 0))
    let all : State := { m with sites := (List.range 80).map (fun n => (n, { result := if n = 3 then 2 else 1 })) }
    let ten := m.setRf st Reg.BOOT_STAT 3 0 10
    v.boot.vaux = true ∧ State.reset.boot.vaux = false ∧ m.boot.main = true ∧ v.boot.main = false ∧
    (s.boot.vaux && !s.boot.fwOk && decide (s.rf st Reg.STEW_STAT 1 0 ≠ 3)) = true ∧
    (m.boot.vaux && !m.boot.fwOk && decide (m.rf st Reg.STEW_STAT 1 0 ≠ 3)) = false ∧ s.flash.slot % 2 = 0 ∧
    good (f true 5) = true ∧ good (f true 4) = false ∧ good (f false 9) = false ∧
    (off.boot.vaux && off.boot.fwOk && !off.boot.main && !off.boot.inh && !off.rb tray Reg.SHUT_CTL 1) = true ∧ off.boot.afterShut = false ∧
    (after.boot.vaux && after.boot.fwOk && !after.boot.main && !after.boot.inh && !after.rb tray Reg.SHUT_CTL 1) = true ∧
    after.boot.afterShut = true ∧ (after.mayRestart && (after.rb tray Reg.SHUT_CTL 0 || after.boot.restartReq)) = true ∧
    (held.boot.vaux && held.boot.fwOk && !held.boot.main && !held.boot.inh && !held.rb tray Reg.SHUT_CTL 1) = false ∧
    ({ after with up := 59999999999 } : State).mayRestart = false ∧ (m.boot.main && decide (m.stackState 31 < 2)) = true ∧
    (v.boot.main && decide (v.stackState 31 < 2)) = false ∧
    (v.boot.main && decide (v.phase < 10) && decide ((v.site i).result = 0)) = false ∧
    (m.boot.main && decide (m.phase < 10) && decide ((m.site i).result = 0)) = true ∧ hot.restartTooHot = true ∧
    (hot.boot.main && decide (hot.phase < 10) && decide ((hot.site i).result = 0)) = true ∧ m.restartTooHot = false ∧
    (outer.map m.tester) = some none ∧ m.tester 0 = (dieOf 0).map (fun d => (4, 0x80 + d)) ∧ (m.tester 0).isSome = true ∧
    3600 < full.rf tidePage Reg.TIDE_IN 47 32 + 120 ∧ edge.rf tidePage Reg.TIDE_IN 47 32 + 120 ≤ 3600 ∧
    (run.site 0).result = 9 ∧ linked [0, 0, 0, 0, 0xFF] = true ∧ linked [0xFF, 0xFF, 0xFF, 0xFF, 0] = false ∧
    (decide ((m.site i).result = 9) && decide (1 ≤ (1 : BitVec 8).toNat)) = false ∧
    (all.boot.main && decide (all.phase < 10) && (List.range 80).all (fun n => (all.site n).result ≠ 0 && (all.site n).result ≠ 9)) = true ∧
    (m.boot.main && decide (m.phase < 10) && (List.range 80).all (fun n => (m.site n).result ≠ 0)) = false ∧ (all.site 3).result ≠ 1 ∧
    (all.site 79).result = 1 ∧ (ten.boot.main && decide (ten.phase = 10)) = true ∧ (m.boot.main && decide (m.phase = 10)) = false ∧
    ({ ten with boot := { ten.boot with restarted := true } } : State).boot.restarted = true := by decide +kernel

/-- The frequencies of a plan are the factory's, which the model leaves open, so its highest valid point is named by no number here. -/
theorem witness_Ageing :
    let pg := agePage 79
    let g := wGuard pg wBase
    let q := wBase.setRf polderPage (Reg.TSTATE 4) 63 60 3
    let due : State := { wBase with planDue := [(79, true)] }
    let aged : State := { wBase with planAt := [(79, 5)], up := 5 + 90 * 86400000000000 }
    3 ≤ q.tstate 79 ∧ wBase.tstate 79 < 3 ∧ 30 < ((31 : W32).toInt - (0 : W32).toInt).natAbs ∧ ((30 : W32).toInt - (0 : W32).toInt).natAbs ≤ 30 ∧
    (wBase.agingOf (79 * 4)).last + 1000000000 * max 1 (wBase.rf pg Reg.AGE_CTL 15 0) ≤ ({ wBase with up := 10 ^ 15 } : State).up ∧
    (wBase.agingOf (79 * 4)).now = false ∧ ({ wBase with aging := [(79 * 4, ⟨0, true⟩)] } : State).agingOf (79 * 4) = ⟨0, true⟩ ∧
    wBase.stretching 79 0 = false ∧ g.admits .portA pg Reg.AGE_CTL = true ∧
    ((Store.get false due.planDue 79 || (decide (Store.get 0 due.planAt 79 ≠ 0) && decide (Store.get 0 due.planAt 79 +
      max 1 (due.rf pg Reg.AGE_CTL 47 40) * 86400000000000 ≤ due.up))) && !due.inRecast 79) = true ∧
    ((Store.get false aged.planDue 79 || (decide (Store.get 0 aged.planAt 79 ≠ 0) && decide (Store.get 0 aged.planAt 79 +
      max 1 (aged.rf pg Reg.AGE_CTL 47 40) * 86400000000000 ≤ aged.up))) && !aged.inRecast 79) = true ∧
    ((Store.get false wBase.planDue 79 || (decide (Store.get 0 wBase.planAt 79 ≠ 0))) && !wBase.inRecast 79) = false := by decide

theorem witness_MonitorChannels :
    let pg := monPage 79
    let g := wGuard pg wBase
    let src (w : Nat) : State := wBase.setReg pg (Reg.MON_SRC 3) (BitVec.ofNat 64 w)
    let v : W64 := BitVec.ofNat 64 0x50
    let alarm := (src (6 + 2 ^ 20 + 5 * 2 ^ 32)).reg pg (Reg.MON_SRC 3)
    let sat : MonCap := { count := 1, bins := [(0, 0xFFFFFFFE)] }
    g.admits .portA pg Reg.MON_CTL = true ∧ fbit 8 (3 : Fin 4) = true ∧ g.admits .portA pg (Reg.MON_SRC 3) = true ∧
    fld v 16 0 ≠ g.rf pg (Reg.MON_SRC 3) 16 0 ∧ fld (g.reg pg (Reg.MON_SRC 3)) 16 0 = g.rf pg (Reg.MON_SRC 3) 16 0 ∧
    g.admits .portA pg (Reg.MON_EDGE 3 7) = true ∧ fld v 31 0 ≠ g.rf pg (Reg.MON_EDGE 3 7) 31 0 ∧
    g.admits .portA pg (Reg.MON_EDGE 0 0) = true ∧ wBase.monKind 79 3 ≠ 3 ∧ wBase.monKind 79 3 ≠ 5 ∧ wBase.monKind 79 3 ≠ 6 ∧
    (src 3).monKind 79 3 = 3 ∧ (src 5).monKind 79 3 = 5 ∧ (src 6).monKind 79 3 = 6 ∧ Store.get 0 sat.bins 0 ≠ 0xFFFFFFFF ∧
    (fbit alarm 20 && decide (toSigned 32 (fld alarm 63 32) ≤ 5)) = true ∧
    (fbit alarm 20 && decide (toSigned 32 (fld alarm 63 32) ≤ 4)) = false := by decide +kernel

theorem witness_EventLog :
    let r : LogRec := ⟨0, 63, 1, 0x1001, 0, 0⟩
    let ctl (rate : Nat) : State := wBase.setReg evlogPage Reg.EVL_CTL (word [(0, 1), (8, rate)])
    let mask := (ctl 1).setRb evlogPage Reg.EVL_MASK 63 true
    let lost : State := { ctl 1 with evRate := [(0x1001, 0, 1, 2)], now := 1000000 }
    let m12 := State.setRb lost evlogPage Reg.EVL_MASK 12 true
    let off := State.setRb lost evlogPage Reg.EVL_CTL 0 false
    let full : State := { ctl 1 with evRate := [(0x1001, 0, 1, 0)] }
    r ∈ ({ ctl 1 with evWay := [r] } : State).evWay ∧ r ∉ (ctl 1).evWay ∧ off.rb evlogPage Reg.EVL_CTL 0 = false ∧ State.rb (ctl 1) evlogPage Reg.EVL_CTL 0 = true ∧ mask.evlMasked r.cause.toNat = true ∧
    mask.rb evlogPage Reg.EVL_CTL 0 = true ∧ State.evlMasked (ctl 1) r.cause.toNat = false ∧ (State.evRateOf (ctl 1) 0x1001).2.2 = 0 ∧
    State.ms lost ≠ 0 ∧ (State.evRateOf full 0x1001).2.2 = 0 ∧
    decide (max 1 (State.rf full evlogPage Reg.EVL_CTL 15 8) ≤ (State.evRateOf full 0x1001).2.1) = true ∧
    (State.evRateOf full 0x1001).1 = State.ms full ∧ decide (max 1 (State.rf (ctl 1) evlogPage Reg.EVL_CTL 15 8) ≤ 0) = false ∧
    (decide ((State.evRateOf lost 0x1001).2.2 ≠ 0) && decide ((State.evRateOf lost 0x1001).1 < State.ms lost)) = true ∧
    (decide ((State.evRateOf full 0x1001).2.2 ≠ 0) && decide ((State.evRateOf full 0x1001).1 < State.ms full)) = false ∧
    (decide ((off.evRateOf 0x1001).2.2 ≠ 0) && decide ((off.evRateOf 0x1001).1 < off.ms)) = true ∧
    m12.evlMasked 12 = true ∧ State.evlMasked lost 12 = false ∧ State.rb lost evlogPage Reg.EVL_CTL 0 = true := by decide +kernel

/-- The length of the certificate chain is the manufacturer's, so no offset is shown inside it or past it; one of the two holds of each. -/
theorem witness_Attestation :
    let s (x : SpdmConn) : State := { wBase with spdm := [(1, x), (2, x), (3, x)] }
    let all := s { version := true, caps := true, algs := true }
    let up := wBase.setRf (portPage .b) Reg.PCIE_STAT 2 0 1
    wBase.spdmUp .mgmt = true ∧ State.reset.spdmUp .mgmt = false ∧ wBase.spdmUp .portB = false ∧ up.spdmUp .portB = true ∧
    (wBase.spdmConn .mgmt).version = false ∧ (wBase.spdmConn .mgmt).caps = false ∧ (wBase.spdmConn .mgmt).algs = false ∧
    (all.spdmConn .mgmt).version = true ∧ (all.spdmConn .mgmt).caps = true ∧ (all.spdmConn .mgmt).algs = true ∧
    all.spdmUp .mgmt = true ∧ (1 : BitVec 8) ≠ 0 ∧ 6 < (7 : BitVec 8).toNat ∧ (7 : BitVec 8).toNat ≠ 0xFF ∧ (6 : BitVec 8).toNat ≤ 6 ∧
    (0xFF : BitVec 8).toNat = 0xFF := by decide +kernel

/-- A record of 224 bytes without a signature: version, slot, op, usage, auth, nonce 7 and a key. -/
def wRecordOf (version slot op usage auth nonce : Nat) (key : List Byte) : List Byte :=
  leBytes 2 version ++ leBytes 1 slot ++ leBytes 1 op ++ leBytes 1 usage ++ leBytes 1 auth ++ [0, 0] ++ leBytes 8 nonce ++ key ++
    List.replicate (208 - key.length) 0

/-- A revocation that is accepted carries a signature, whose check is beyond evaluation here. -/
theorem witness_Enrollment :
    let g := (((wGuard secPage wBase).setRf (mirePage (mireStack 0)) Reg.MIRE_STAT 1 0 2).setReg secPage Reg.ENR_NONCE 7)
    let point : List Byte := 4 :: (beBytes 48 p384gx ++ beBytes 48 p384gy)
    let at_ (b : List Byte) : State := g.writeMire 0 b
    let e (b : List Byte) : EnrRec := EnrRec.ofBytes ((at_ b).readMire 0 224)
    let ok := wRecordOf 1 3 1 3 0xFF 7 point
    let check (s : State) := s.setRf castPage Reg.CAST_STAT 2 0 1
    let far := g.setReg secPage Reg.ENR_ADDR (word [(0, 2 ^ 41 - 1)])
    let bad : State := { at_ ok with mireBad := [(0, true)] }
    let key : State := { at_ (wRecordOf 1 0 2 0 0 7 []) with sec := { slots := [(0, ⟨[0], 0, false⟩)] } }
    let emptyAll (s : State) : Bool := (List.range 4).all (fun k => !(s.keySlot k).full)
    let fw : State := { g with boot := { g.boot with fwOk := true } }
    g.admits .portA secPage Reg.ENR_GO = true ∧ mireSize < far.rf secPage Reg.ENR_ADDR 40 0 + 224 ∧ wBase.mireReady 0 224 = false ∧
    bad.mirePoisoned 0 224 = true ∧ 0 + 224 ≤ mireSize ∧ (at_ ok).mireReady 0 224 = true ∧ (at_ ok).mirePoisoned 0 224 = false ∧
    (at_ ok).rf secPage Reg.ENR_ADDR 40 0 = 0 ∧
    (e (wRecordOf 2 3 1 3 0xFF 7 point)).formatOk = false ∧ (e (wRecordOf 1 4 1 3 0xFF 7 point)).formatOk = false ∧ (e ok).formatOk = true ∧
    (e (wRecordOf 1 3 1 3 0xFF 8 point)).nonce ≠ (g.reg secPage Reg.ENR_NONCE).toNat ∧ (e (wRecordOf 1 3 1 3 0xFF 8 point)).formatOk = true ∧
    (e ok).nonce = (g.reg secPage Reg.ENR_NONCE).toNat ∧
    (g.keySlot (e (wRecordOf 1 3 1 3 0 7 point)).auth).full = false ∧ (e (wRecordOf 1 3 1 3 0 7 point)).formatOk = true ∧
    (e ok).auth = 0xFF ∧ (emptyAll (at_ ok) && allZero (e ok).sigR && allZero (e ok).sigS) = true ∧
    (EnrRec.ofBytes (key.readMire 0 224)).formatOk = true ∧ (EnrRec.ofBytes (key.readMire 0 224)).auth = 0 ∧
    ((key.keySlot 0).full && !(key.keySlot 0).revoked) = true ∧
    ecdsaVerify (key.keySlot 0).point (sha384 ((EnrRec.ofBytes (key.readMire 0 224)).bytes.take 128)) (EnrRec.ofBytes (key.readMire 0 224)).sigR
      (EnrRec.ofBytes (key.readMire 0 224)).sigS = false ∧
    (decide ((e (wRecordOf 1 3 1 3 0xFF 7 [])).op ≠ 1) || (decodePoint (e (wRecordOf 1 3 1 3 0xFF 7 [])).key).isSome) = false ∧
    (decide ((e ok).op ≠ 1) || (decodePoint (e ok).key).isSome) = true ∧ (e ok).op = 1 ∧ (e ok).slot = 3 ∧ castState (at_ ok) ≠ 1 ∧
    castState (check (at_ ok)) = 1 ∧ g.admits .portA secPage Reg.SEC_CTL = true ∧ fw.boot.fwOk = true ∧ g.boot.fwOk = false := by decide +kernel

/-! ### Witnesses of the statements about every command -/

theorem witness_StepRunsCommand :
    ({ State.reset with pending := [.vauxOn, .vauxLost] } : State).pending = Instr.vauxOn :: [.vauxLost] := rfl
theorem witness_EmptyQueueTick : State.reset.pending = [] ∧ State.reset.boot.vaux = false ∧ wBase.pending = [] ∧ wBase.boot.vaux = true := by decide +kernel
theorem witness_UnmappedPages :
    (pageInfo 9).isSome = true ∧ (pageInfo 10).isSome = false ∧ (pageInfo 0x23CF).isSome = true ∧ (pageInfo 0x23D0).isSome = false ∧
    (pageInfo 0x370B).isSome = true ∧ (pageInfo 0x370C).isSome = false ∧ Store.get none State.reset.shadows (shadowKey .mgmt 10) = none := by decide +kernel
theorem witness_CanonicalFormIsKept : State.reset.canonical = true ∧ ∃ u, step State.reset = .next u := ⟨by decide, _, rfl⟩
theorem witness_EveryCommandKeepsItsFrame : ∃ u, exec .uvWarn State.reset = .next u := ⟨_, rfl⟩
theorem witness_ParcelsRoundTrip :
    let i : Instr := .slli t0 31 1 2 31
    i.wf = true ∧ ∃ ps, encode i = some ps ∧ decodeParcels t0 ps = some i ∧ (issueRequest i).map (·.1) = some t0 := by
  refine ⟨by decide, _, rfl, by decide, by decide⟩
end Sys2Proof.Tests
end

section
/-! SUPPORT. The tile frame: where a tile's site lies, row-major order, mesh distance and rings (R9, R10). -/
namespace Sys2Proof.Machine

/-! ### Sites (R9) -/

/-- A site comes before another in row-major order. -/
def siteBefore (a b : Nat × Nat) : Prop := a.2 < b.2 ∨ (a.2 = b.2 ∧ a.1 < b.1)

theorem siteBefore_trans {a b c : Nat × Nat} (h : siteBefore a b) (k : siteBefore b c) : siteBefore a c := by
  unfold siteBefore at *
  omega

theorem siteOf_before_succ : ∀ i < 79, siteBefore (siteOf i) (siteOf (i + 1)) := by
  unfold siteBefore
  decide

/-- Row-major order of the sites is the order of the tile indices. -/
theorem siteOf_before {i j : Nat} (h : i < j) : j < 80 → siteBefore (siteOf i) (siteOf j) := by
  induction j, h using Nat.le_induction with
  | base => exact fun hj => siteOf_before_succ i (by omega)
  | succ j _ ih => exact fun hj => siteBefore_trans (ih (by omega)) (siteOf_before_succ j (by omega))

theorem siteOf_bounds : ∀ i < 80, (siteOf i).1 < 10 ∧ (siteOf i).2 < 10 := by decide

theorem tileAt_siteOf : ∀ i < 80, tileAt (siteOf i).1 (siteOf i).2 = some i := by decide

theorem frameRows_bounds : ∀ r ∈ frameRows, r.1 < 10 ∧ r.2.1 + r.2.2.1 ≤ 10 := by decide

/-- A populated site lies in the ten rows and ten columns of the frame. -/
theorem tileAt_bounds {x y i : Nat} (h : tileAt x y = some i) : x < 10 ∧ y < 10 := by
  unfold tileAt at h
  split at h
  next y0 x0 n k hf =>
    have hb : y0 < 10 ∧ x0 + n ≤ 10 := frameRows_bounds _ (List.mem_of_find?_eq_some hf)
    have hy : y0 = y := by simpa using List.find?_some hf
    split at h
    next hx =>
      simp only [Bool.and_eq_true, decide_eq_true_eq] at hx
      omega
    next => simp at h
  next => simp at h

theorem siteOf_tileAt_frame : ∀ x < 10, ∀ y < 10, ∀ i ∈ tileAt x y, siteOf i = (x, y) := by decide

/-- The site of a tile and the tile at a site are each other's inverse. -/
theorem siteOf_eq_iff_tileAt {i x y : Nat} (hi : i < 80) : siteOf i = (x, y) ↔ tileAt x y = some i := by
  constructor
  · intro h
    have ht := tileAt_siteOf i hi
    rwa [h] at ht
  · intro h
    obtain ⟨hx, hy⟩ := tileAt_bounds h
    exact siteOf_tileAt_frame x hx y hy i h

theorem siteOf_injective {i j : Nat} (hi : i < 80) (hj : j < 80) (h : siteOf i = siteOf j) : i = j := by
  have e : some i = some j := by rw [← tileAt_siteOf i hi, ← tileAt_siteOf j hj, h]
  exact Option.some.inj e

/-! ### Mesh distance -/

theorem meshDist_comm (i j : Nat) : meshDist i j = meshDist j i := by
  unfold meshDist absDiff
  omega

/-- Only a tile itself is at distance 0. -/
theorem meshDist_eq_zero {i j : Nat} (hi : i < 80) (hj : j < 80) : meshDist i j = 0 ↔ i = j := by
  constructor
  · intro h
    unfold meshDist absDiff at h
    exact siteOf_injective hi hj (Prod.ext (by omega) (by omega))
  · rintro rfl
    unfold meshDist absDiff
    omega

/-! ### Rings (R10) -/

theorem mem_ringZero {i : Nat} : i ∈ ringZero ↔ i < 80 ∧ ((List.range 4).filterMap (neighbour i)).length < 4 := by
  unfold ringZero
  rw [List.mem_filter, List.mem_range, decide_eq_true_eq]

/-- A running minimum is a lower bound of its start and of every member. -/
theorem foldl_min_le (l : List Nat) (b : Nat) : l.foldl min b ≤ b ∧ ∀ a ∈ l, l.foldl min b ≤ a := by
  induction l generalizing b with
  | nil => simp
  | cons x l ih =>
    obtain ⟨hb, hl⟩ := ih (min b x)
    simp only [List.foldl_cons, List.mem_cons, forall_eq_or_imp]
    exact ⟨by omega, by omega, hl⟩

/-- A running minimum is its start or a member. -/
theorem foldl_min_mem (l : List Nat) (b : Nat) : l.foldl min b = b ∨ l.foldl min b ∈ l := by
  induction l generalizing b with
  | nil => simp
  | cons x l ih =>
    rw [List.foldl_cons, List.mem_cons]
    rcases ih (min b x) with h | h
    · omega
    · exact .inr (.inr h)

/-- The start value 10 of the minimum in `ringOf` is no tile's own: tile 20 at (0,3) or tile 29 at (9,3) is no farther. -/
theorem exists_ringZero_near {i : Nat} (hi : i < 80) : ∃ j ∈ ringZero, meshDist i j ≤ 10 := by
  obtain ⟨hx, hy⟩ := siteOf_bounds i hi
  have h20 : siteOf 20 = (0, 3) := by decide
  have h29 : siteOf 29 = (9, 3) := by decide
  by_cases west : (siteOf i).1 ≤ 4
  · refine ⟨20, mem_ringZero.mpr (by decide), ?_⟩
    simp only [meshDist, absDiff, h20]
    omega
  · refine ⟨29, mem_ringZero.mpr (by decide), ?_⟩
    simp only [meshDist, absDiff, h29]
    omega

theorem ringOf_le {i j : Nat} (hj : j ∈ ringZero) : ringOf i ≤ meshDist i j :=
  (foldl_min_le _ 10).2 _ (List.mem_map_of_mem hj)

/-- The ring of a tile is attained by a tile of ring 0. -/
theorem exists_ringZero_ringOf {i : Nat} (hi : i < 80) : ∃ j ∈ ringZero, meshDist i j = ringOf i := by
  rcases foldl_min_mem (ringZero.map (meshDist i)) 10 with h | h
  · obtain ⟨j, hj, hd⟩ := exists_ringZero_near hi
    have hr : ringOf i = 10 := h
    have hle := ringOf_le (i := i) hj
    exact ⟨j, hj, by omega⟩
  · exact List.mem_map.mp h

theorem ringOf_eq_zero {i : Nat} (hi : i < 80) : ringOf i = 0 ↔ i ∈ ringZero := by
  constructor
  · intro h
    obtain ⟨j, hj, hd⟩ := exists_ringZero_ringOf hi
    have e : i = j := (meshDist_eq_zero hi (mem_ringZero.mp hj).1).mp (hd.trans h)
    rwa [e]
  · intro h
    have hle := ringOf_le (i := i) h
    rw [(meshDist_eq_zero hi hi).mpr rfl] at hle
    omega

/-- Settles O4: row-major order goes from each index to the next one, and a ring is a minimum of distances over ring 0. -/
theorem siteMap : Obligations.SiteMap := by
  unfold Obligations.SiteMap
  refine ⟨by decide, by decide, fun i j => siteOf_before, fun i x y => siteOf_eq_iff_tileAt, ?_, ?_⟩
  · intro i hi
    rw [ringOf_eq_zero hi, mem_ringZero]
    exact and_iff_right hi
  · intro i hi
    constructor
    · obtain ⟨j, hj, hd⟩ := exists_ringZero_ringOf hi
      have hj' : j < 80 := (mem_ringZero.mp hj).1
      exact ⟨j, hj', (ringOf_eq_zero hj').mpr hj, (meshDist_comm j i).trans hd⟩
    · intro j hj hr
      rw [meshDist_comm j i]
      exact ringOf_le ((ringOf_eq_zero hj).mp hr)

end Sys2Proof.Machine
end

section
/-! SUPPORT. Accesses of register pages: what a write, a read, the guard, the mailbox and an access that times out leave
(R4, R426 to R437). -/
namespace Sys2Proof.Machine

/-! ### Pages and the registers that every page holds (R421 to R426) -/

/-- Tile and die pages lie above the device-global block. -/
theorem pageInfo_page_ge {n : Nat} {p : PageInfo} (h : pageInfo n = some p) (hc : 0x10 ≤ p.cls) : 0x1000 ≤ n := by
  by_contra hn
  unfold pageInfo at h
  split at h
  · have e : n + 1 = p.cls := congrArg PageInfo.cls (Option.some.inj h)
    omega
  · rw [if_neg (by simp; omega), if_neg (by simp; omega)] at h
    simp at h

theorem pageInfo_cru (i : TileIx) (k : CruIx) : pageInfo (cruPage i k) = some ⟨0x11, i, k⟩ := by
  have hk := k.isLt
  have h := pageInfo_tile i ⟨1 + k, by omega⟩
  rw [if_neg (by simp), if_pos (by show 1 + k.val ≤ 4; omega), show 1 + k.val - 1 = k.val by omega] at h
  exact h

/-- Of all blocks, those of class CRU are numbers 1 to 4 of a tile. -/
theorem pageInfo_cru_block {n : Nat} {p : PageInfo} (h : pageInfo n = some p) (hc : p.cls = 0x11) :
    0x1000 ≤ n ∧ n < 0x1000 + 0x40 * 80 ∧ 1 ≤ (n - 0x1000) % 0x40 ∧ (n - 0x1000) % 0x40 ≤ 4 := by
  have hcls := congrArg (Option.map PageInfo.cls) h
  rw [Option.map_some, hc] at hcls
  unfold pageInfo at hcls
  simp only [apply_ite (Option.map PageInfo.cls), Option.map_some, Option.map_none, Bool.and_eq_true, decide_eq_true_eq] at hcls
  split_ifs at hcls <;> simp only [Option.some.injEq] at hcls <;> omega

/-- A page of class CRU is the page of a crucible. -/
theorem pageInfo_cru_inv {n : Nat} {p : PageInfo} (h : pageInfo n = some p) (hc : p.cls = 0x11) :
    ∃ (i : TileIx) (k : CruIx), n = cruPage i k := by
  obtain ⟨h0, h1, h2, h3⟩ := pageInfo_cru_block h hc
  have hi : (n - 0x1000) / 0x40 < 80 := by omega
  have hk : (n - 0x1000) % 0x40 - 1 < 4 := by omega
  have hn : n = cruPage ((n - 0x1000) / 0x40) ((n - 0x1000) % 0x40 - 1) := by
    unfold cruPage tilePage
    omega
  exact ⟨⟨_, hi⟩, ⟨_, hk⟩, hn⟩

/-- A register of the common head comes before the class's own. -/
theorem regAt_head {page off : Nat} {p : PageInfo} {r : RegDef} (hp : pageInfo page = some p)
    (h : Reg.tableHead.find? (fun r => r.hits off && r.on.holds p) = some r) : regAt page off = some r := by
  unfold regAt
  rw [hp]
  dsimp only
  rw [List.find?_append, h, Option.some_or]

theorem regAt_pageCtl {page : Nat} {p : PageInfo} (hp : pageInfo page = some p) :
    regAt page Reg.PAGE_CTL = some ⟨"PAGE_CTL", 0x010, [], .every, [⟨0, 0, .gw, 0⟩]⟩ := regAt_head hp rfl

/-- PAGE_CTL.CNT_CLR is guarded. -/
theorem accMask_pageCtl_gw {page : Nat} {p : PageInfo} (hp : pageInfo page = some p) : accMask page Reg.PAGE_CTL .gw = 1 := by
  unfold accMask fieldsAt
  rw [regAt_pageCtl hp]
  decide

/-- No field of PAGE_STAT is guarded. -/
theorem accMask_pageStat_gw (page : Nat) : accMask page Reg.PAGE_STAT .gw = 0 := by
  unfold accMask fieldsAt
  cases hp : pageInfo page with
  | none =>
    have hr : regAt page Reg.PAGE_STAT = none := by unfold regAt; rw [hp]
    rw [hr]
    rfl
  | some p =>
    rw [regAt_head hp (r := ⟨"PAGE_STAT", 0x018, [], .every, [⟨0, 0, .w1c, 0⟩, ⟨2, 1, .ro, 0⟩, ⟨3, 3, .w1c, 0⟩]⟩) rfl]
    decide

/-! ### The part of a register that an access reaches (R428) -/

theorem reach_some {off o : Nat} {size : AccSize} {half : W64} (h : reach off size = some (o, half)) :
    o = off - off % 8 ∧ off ≤ o + 4 := by
  unfold reach at h
  cases size with
  | b64 =>
    dsimp only at h
    split at h <;> simp at h
    omega
  | b32 =>
    dsimp only at h
    split at h
    · simp at h
      omega
    · split at h <;> simp at h
      omega
  | other => simp at h

theorem reach_b64 {off : Nat} (h : off % 8 = 0) : reach off .b64 = some (off, 0xFFFFFFFFFFFFFFFF) := if_pos h

theorem reach_b32_low {off : Nat} (h : off % 8 = 0) : reach off .b32 = some (off, 0xFFFFFFFF) := if_pos h

theorem reach_b32_high {off : Nat} (h : off % 8 = 4) : reach off .b32 = some (off - 4, 0xFFFFFFFF00000000) :=
  (if_neg (by omega)).trans (if_pos (by omega))

/-! ### Stored values, behind a selector or not -/

theorem mix_bit (m a b : W64) {i : Nat} (hi : i < 64) :
    (mix m a b).getLsbD i = if m.getLsbD i then b.getLsbD i else a.getLsbD i := by
  unfold mix
  rw [BitVec.getLsbD_or, BitVec.getLsbD_and, BitVec.getLsbD_and, BitVec.getLsbD_not]
  cases m.getLsbD i <;> simp [hi]

/-- Which registers a selector shows does not depend on the state. -/
theorem State.winKey_none_congr {s : State} {page off : Nat} (h : s.winKey page off = none) (t : State) : t.winKey page off = none := by
  unfold State.winKey at *
  split at h
  · simp at h
  · rename_i h1
    rw [if_neg h1]
    split at h
    · simp at h
    · rename_i h2
      exact if_neg h2

theorem State.winKey_congr {s t : State} (page off : Nat) (hb : t.reg polderPage Reg.BED_SEL = s.reg polderPage Reg.BED_SEL)
    (hq : t.reg page Reg.Q_SEL = s.reg page Reg.Q_SEL) : t.winKey page off = s.winKey page off := by
  unfold State.winKey
  rw [hb, hq]

/-- The registers at the start of a page stand behind no selector. -/
theorem State.winKey_low (s : State) (page : Nat) {off : Nat} (h : off < 0x208) : s.winKey page off = none := by
  unfold State.winKey
  rw [if_neg (by simp; omega), if_neg (by simp; omega)]

theorem State.storeReg_low (s : State) (page : Nat) {off : Nat} (v : W64) (h : off < 0x208) :
    s.storeReg page off v = s.setReg page off v := by
  unfold State.storeReg
  rw [State.winKey_low s page h]

/-- A register that a selector shows. -/
theorem State.stored_of_winKey {s : State} {page off k : Nat} (h : s.winKey page off = some k) :
    s.stored page off = Store.get 0 s.wins k ^^^ resetOf page off := by
  unfold State.stored
  rw [h]

@[simp] theorem State.stored_storeReg_same (s : State) (page off : Nat) (v : W64) : (s.storeReg page off v).stored page off = v := by
  unfold State.storeReg
  cases hk : s.winKey page off with
  | none =>
    dsimp only
    unfold State.stored
    rw [State.winKey_none_congr hk]
    exact State.reg_setReg_same s page off v
  | some k =>
    dsimp only
    have hk' : State.winKey { s with wins := Store.set 0 s.wins k (v ^^^ resetOf page off) } page off = some k :=
      (State.winKey_congr page off rfl rfl).trans hk
    rw [State.stored_of_winKey hk', Store.get_set_same, BitVec.xor_assoc, BitVec.xor_self, BitVec.xor_zero]

theorem State.stored_congr {s t : State} (hr : t.regs = s.regs) (hw : t.wins = s.wins) (page off : Nat) :
    t.stored page off = s.stored page off := by
  unfold State.stored
  rw [State.winKey_congr page off (State.reg_congr hr _ _) (State.reg_congr hr _ _), hw, State.reg_congr hr]

/-- A stored value after a change of other registers that selects no other bed or queue. -/
theorem State.stored_outside {l : List (Nat × Nat)} {s t : State} {page off : Nat} (h : RegsOutside l s t) (hw : t.wins = s.wins)
    (ho : off < 4096) (n : (page, off) ∉ l) (hb : (polderPage, Reg.BED_SEL) ∉ l) (hq : (page, Reg.Q_SEL) ∉ l) :
    t.stored page off = s.stored page off := by
  unfold State.stored
  rw [State.winKey_congr page off (h _ _ (by decide) hb) (h _ _ (by decide) hq), hw, h page off ho n]

/-! ### Guards (R436, R437) -/

/-- The registers that a refused write of a guarded field changes. -/
def guardErrRegs (page : Nat) : List (Nat × Nat) := [(page, Reg.PAGE_STAT), counter devPage 0] ++ evtRegs devPage

theorem RegsOutside.guardErr (s : State) (who : Requester) (page : Nat) : RegsOutside (guardErrRegs page) s (s.guardErr who page) :=
  (((RegsOutside.refl _ s).thenSetFields page Reg.PAGE_STAT _ (by decide) (by simp [guardErrRegs])).thenBump devPage 0 1 (by decide)
    (by simp [guardErrRegs])).thenRaise devPage 0 (fun _ h => List.mem_append_right _ h)

/-- A refused write of a guarded field changes no guarded register. -/
theorem State.stored_guardErr (s : State) (who : Requester) {page o : Nat} (ho : o < 4096) (h : accMask page o .gw ≠ 0) :
    (s.guardErr who page).stored page o = s.stored page o := by
  refine State.stored_outside (RegsOutside.guardErr s who page) ((State.guardErr_kept s who page).frame .wins (by decide)) ho ?_
    (by simp [guardErrRegs, evtRegs_eq, counter, polderPage, devPage, Reg.BED_SEL, Reg.PAGE_STAT])
    (by simp [guardErrRegs, evtRegs_eq, counter, Reg.COUNTER, Reg.Q_SEL, Reg.PAGE_STAT])
  intro hm
  simp only [guardErrRegs, evtRegs_eq, List.cons_append, List.nil_append, List.mem_cons, List.not_mem_nil, or_false, counter,
    Prod.mk.injEq] at hm
  rcases hm with ⟨-, rfl⟩ | ⟨rfl, rfl⟩ | ⟨rfl, rfl⟩ | ⟨rfl, rfl⟩ | ⟨rfl, rfl⟩
  · exact h (accMask_pageStat_gw page)
  all_goals exact h (by decide)

/-- A refused write is counted, raises the DEV event and names the writer in PAGE_STAT. -/
theorem State.guardErr_reports (s : State) (who : Requester) (page : Nat) :
    Counts s (s.guardErr who page) devPage 0 1 ∧ Raised (s.guardErr who page) devPage 0 ∧
      (s.guardErr who page).rf page Reg.PAGE_STAT 2 1 = whoCode who ∧ (s.guardErr who page).rb page Reg.PAGE_STAT 0 = true := by
  have hset : RegsOutside [(page, Reg.PAGE_STAT)] s (s.setFields page Reg.PAGE_STAT [(0, 0, 1), (2, 1, whoCode who)]) :=
    RegsOutside.setFields s page Reg.PAGE_STAT _ (by decide)
  have hstat : (s.guardErr who page).reg page Reg.PAGE_STAT =
      setFld (setFld (s.reg page Reg.PAGE_STAT) 0 0 1) 2 1 (whoCode who) := by
    unfold State.guardErr
    rw [State.reg_raise_other _ _ _ _ _ (by decide) (by simp [evtRegs_eq, Reg.PAGE_STAT]),
      RegsOutside.bump _ devPage 0 1 (by decide) _ _ (by decide) (by simp [counter, Reg.COUNTER, Reg.PAGE_STAT])]
    exact State.reg_setReg_same ..
  refine ⟨?_, Raised.raise _ devPage 0 (by decide), ?_, ?_⟩
  · exact (Counts.before hset (Counts.bump _ devPage 0 1) (by decide) (by simp [counter, Reg.COUNTER, Reg.PAGE_STAT])).after
      (RegsOutside.raise _ devPage 0) (by decide) (by simp [evtRegs_eq, counter, Reg.COUNTER, devPage])
  · unfold State.rf
    rw [hstat, fld_setFld_same _ _ _ _ (by decide)]
    cases who <;> rfl
  · unfold State.rb
    rw [hstat, fbit_setFld_other _ _ _ _ _ (by decide) (by decide)]
    exact fbit_setBit_same _ 0 true (by decide)

theorem State.guard_closeGuard (s : State) (page q : Nat) : (s.closeGuard page).guard q = if q = page then {} else s.guard q := by
  unfold State.guard State.closeGuard
  dsimp only
  rw [Store.get_set]
  simp only [eq_comm]

/-- The guard of a page opened for a requester. -/
def State.openGuard (s : State) (who : Requester) (page : Nat) : State :=
  { s with guards := Store.set {} s.guards page ⟨whoCode who, s.up + guardCycles⟩ }

theorem State.openGuard_kept (s : State) (who : Requester) (page : Nat) : Kept [.guards] s (s.openGuard who page) := Kept.guards ..

theorem State.guard_openGuard (s : State) (who : Requester) (page q : Nat) :
    (s.openGuard who page).guard q = if q = page then ⟨whoCode who, s.up + guardCycles⟩ else s.guard q := by
  unfold State.guard State.openGuard
  dsimp only
  rw [Store.get_set]
  simp only [eq_comm]

theorem State.guardOwner_openGuard (s : State) (who : Requester) (page : Nat) : (s.openGuard who page).guardOwner page = whoCode who := by
  unfold State.guardOwner
  rw [State.guard_openGuard, if_pos rfl]
  exact if_pos (by show s.up < s.up + 1024; omega)

/-- The key, written while no other requester holds the guard: it opens the guard, and any other value closes it. -/
theorem State.writeKey_mine {s : State} {who : Requester} {page : Nat} (key : Nat)
    (h : s.guardOwner page = 0 ∨ s.guardOwner page = whoCode who) :
    s.writeKey who page key = if key = guardKeyValue then s.openGuard who page else s.closeGuard page := by
  unfold State.writeKey
  exact if_neg (by rcases h with h | h <;> simp [h])

theorem State.writeKey_other {s : State} {who : Requester} {page : Nat} (key : Nat)
    (h0 : s.guardOwner page ≠ 0) (h : s.guardOwner page ≠ whoCode who) : s.writeKey who page key = s.guardErr who page := by
  unfold State.writeKey
  exact if_pos (by simp [h0, h])

theorem State.guardOwner_closeGuard (s : State) (page : Nat) : (s.closeGuard page).guardOwner page = 0 := by
  unfold State.guardOwner
  rw [State.guard_closeGuard, if_pos rfl]
  exact if_neg (Nat.not_lt_zero _)

/-! ### Writes (R4, R437) -/

/-- The fields of a register that a requester's write takes: RW and SL, and GW where the requester holds the guard. -/
def State.openMask (s : State) (who : Requester) (page o : Nat) : W64 :=
  accMask page o .rw ||| accMask page o .sl ||| (if s.guardOwner page = whoCode who then accMask page o .gw else 0)

theorem State.writeMask_eq (s : State) (who : Requester) {page o : Nat} (half : W64) (he : o ≠ Reg.EVT_EN) :
    writeMask page o half (decide (accMask page o .gw ≠ 0) && decide (s.guardOwner page = whoCode who)) =
      half &&& s.openMask who page o := by
  have hm : (0xFFFFFFFFFFFFFFFF : W64) = BitVec.allOnes 64 := rfl
  unfold writeMask State.openMask
  rw [if_neg he, hm, BitVec.and_allOnes]
  by_cases hg : accMask page o .gw = 0
  · rw [hg, ite_self, ite_self]
  · rw [decide_eq_true hg, Bool.true_and]
    simp only [decide_eq_true_eq]

theorem State.stored_sealTouch (s : State) (page off : Nat) : s.sealTouch.stored page off = s.stored page off :=
  State.stored_congr ((State.sealTouch_kept s).frame .regs (by decide)) ((State.sealTouch_kept s).frame .wins (by decide)) page off

/-- What an accepted write of any width leaves in the register. -/
theorem State.stored_writeCore {s : State} {who : Requester} {page off o : Nat} {size : AccSize} {half : W64} (v : W64)
    (hr : reach off size = some (o, half)) (ho : o < 4096) (he : o ≠ Reg.EVT_EN) (hl : s.pageLive page = true)
    (hreg : (regAt page o).isSome = true) :
    (s.writeCore who page off size v).st.stored page o =
      mix (half &&& s.openMask who page o) (s.stored page o) (placeVal off size v) &&&
        ~~~(accMask page o .w1c &&& half &&& placeVal off size v) := by
  obtain ⟨r, hr'⟩ := Option.isSome_iff_exists.mp hreg
  unfold State.writeCore
  extract_lets s0 val
  have e2 : (if s0.pageLive page then regAt page (off - off % 8) else none) = some r := by
    rw [show s0.pageLive page = true from hl, if_pos rfl, ← (reach_some hr).1, hr']
  rw [hr, e2]
  dsimp -zeta only
  extract_lets old gw admits s1 m sl s2 cur w1c
  have hs1 : s1.stored page o = s.stored page o := by
    unfold s1
    split
    · rfl
    · split
      · rename_i hc
        simp only [Bool.and_eq_true, decide_eq_true_eq] at hc
        exact State.stored_guardErr s0 who ho hc.1
      · rfl
  have hcur : cur = s.stored page o := by
    unfold cur s2
    split
    · rw [State.stored_sealTouch, hs1]
    · exact hs1
  have hm : m = half &&& s.openMask who page o := State.writeMask_eq s who half he
  rw [State.stored_storeReg_same, hm, hcur]

/-- The bits of an accepted write, by access type. -/
theorem State.stored_writeCore_bit {s : State} {who : Requester} {page off o : Nat} {size : AccSize} {half : W64} (v : W64)
    (hr : reach off size = some (o, half)) (ho : o < 4096) (he : o ≠ Reg.EVT_EN) (hl : s.pageLive page = true)
    (hreg : (regAt page o).isSome = true) {i : Nat} (hi : i < 64) :
    ((s.writeCore who page off size v).st.stored page o).getLsbD i =
      ((if half.getLsbD i && ((accMask page o .rw).getLsbD i || (accMask page o .sl).getLsbD i ||
            (decide (s.guardOwner page = whoCode who) && (accMask page o .gw).getLsbD i))
          then (placeVal off size v).getLsbD i else (s.stored page o).getLsbD i) &&
        !((accMask page o .w1c).getLsbD i && half.getLsbD i && (placeVal off size v).getLsbD i)) := by
  have hopen : (s.openMask who page o).getLsbD i = ((accMask page o .rw).getLsbD i || (accMask page o .sl).getLsbD i ||
      (decide (s.guardOwner page = whoCode who) && (accMask page o .gw).getLsbD i)) := by
    unfold State.openMask
    rw [BitVec.getLsbD_or, BitVec.getLsbD_or]
    by_cases hg : s.guardOwner page = whoCode who <;> simp [hg]
  rw [State.stored_writeCore v hr ho he hl hreg, BitVec.getLsbD_and, mix_bit _ _ _ hi, BitVec.getLsbD_and, hopen,
    BitVec.getLsbD_not, BitVec.getLsbD_and, BitVec.getLsbD_and, decide_eq_true hi, Bool.true_and]

/-- A write below the mailbox, but for the guard key and EVT_EN, is the register's own write and what it starts. -/
theorem State.writeReg_plain {s : State} {who : Requester} {page off o : Nat} {size : AccSize} {half : W64} (v : W64)
    (hr : reach off size = some (o, half)) (hm : o < 0xF00) (hk : o ≠ Reg.GUARD_KEY) (he : o ≠ Reg.EVT_EN) :
    s.writeReg who page off size v = regHook (s.writeCore who page off size v) s who page := by
  obtain ⟨eo, -⟩ := reach_some hr
  unfold State.writeReg
  rw [← eo, if_neg hk, if_neg (by omega)]
  unfold State.summarized
  rw [← eo, if_neg he]

/-! ### Accesses that time out (R432) -/

/-- An access without an answer is counted and raises the DEV event. -/
def TimeoutCounted (s u : State) : Prop := Counts s u devPage 1 1 ∧ Raised u devPage 1

theorem State.regTimeout_counted (s : State) : TimeoutCounted s s.regTimeout :=
  ⟨(Counts.bump s devPage 1 1).after (RegsOutside.raise _ devPage 1) (by decide) (by simp [evtRegs_eq, counter, Reg.COUNTER, devPage]),
    Raised.raise _ devPage 1 (by decide)⟩

/-- The registers of the device-global block read as before. -/
def GlobalRegsSame (s t : State) : Prop := ∀ page off, page < 0x1000 → off < 4096 → t.reg page off = s.reg page off

theorem GlobalRegsSame.refl (s : State) : GlobalRegsSame s s := fun _ _ _ _ => rfl

theorem GlobalRegsSame.trans {r s t : State} (h : GlobalRegsSame r s) (k : GlobalRegsSame s t) : GlobalRegsSame r t :=
  fun p o hp ho => (k p o hp ho).trans (h p o hp ho)

theorem GlobalRegsSame.setReg (s : State) {page : Nat} (off : Nat) (v : W64) (hp : 0x1000 ≤ page) :
    GlobalRegsSame s (s.setReg page off v) := by
  intro q o hq ho
  unfold State.reg State.setReg
  dsimp only
  rw [Store.get_set_other]
  unfold regKey
  omega

theorem GlobalRegsSame.zeroBits (s : State) {page : Nat} (off : Nat) (m : W64) (hp : 0x1000 ≤ page) :
    GlobalRegsSame s (s.zeroBits page off m) := by
  unfold State.zeroBits State.storeReg
  split
  · exact fun _ _ _ _ => rfl
  · exact GlobalRegsSame.setReg s off _ hp

/-- What the summary adds to a change: the interrupt counters of the two ports, which lie on die pages. -/
theorem GlobalRegsSame.withSummary (s : State) (page : Nat) (f : State → State) : GlobalRegsSame (f s) (s.withSummary page f) := by
  have hport (p : HostPort) : 0x1000 ≤ portPage p := by cases p <;> decide
  have hs (t : State) (p : HostPort) (n : Nat) : GlobalRegsSame t (t.msix p n) := by
    intro q o hq ho
    refine RegsOutside.msix t p n q o ho ?_
    have := hport p
    simp only [counter, List.mem_singleton, Prod.mk.injEq]
    omega
  unfold State.withSummary
  extract_lets before t t1
  have h1 : GlobalRegsSame t t1 := by
    unfold t1
    split
    · exact hs _ _ _
    · exact GlobalRegsSame.refl t
  split
  · split
    · exact h1.trans (hs _ _ _)
    · exact h1
  · exact GlobalRegsSame.refl t

theorem TimeoutCounted.keep {s t u : State} (h : TimeoutCounted s t) (k : GlobalRegsSame t u) : TimeoutCounted s u := by
  obtain ⟨hc, hr⟩ := h
  refine ⟨?_, ?_⟩
  · unfold Counts at *
    rw [k devPage _ (by decide) (by decide), hc]
  · unfold Raised State.rb at *
    rw [k devPage _ (by decide) (by decide), hr]

/-- A page that times out is a tile's and gives no answer. -/
theorem State.timesOut_page {s : State} {page : Nat} (h : s.timesOut page = true) :
    ∃ p, pageInfo page = some p ∧ 0x10 ≤ p.cls ∧ p.cls < 0x1D ∧ s.pageLive page = false := by
  unfold State.timesOut at h
  split at h
  · simp at h
  · rename_i p hp
    simp only [Bool.and_eq_true, Bool.or_eq_true, decide_eq_true_eq] at h
    obtain ⟨⟨⟨h1, h2⟩, hm⟩, ht⟩ := h
    refine ⟨p, hp, h1, h2, ?_⟩
    unfold State.pageLive
    rw [hp]
    dsimp only
    rw [if_neg (by simp; omega), if_neg (by simp; omega)]
    rcases ht with ht | ht
    · simp [Nat.not_lt.mpr ht]
    · simp [ht]

/-! ### What a write that is dropped starts: nothing on a device-global page -/

section
variable {w : WEff} (hm : w.mask = 0)
include hm

theorem WEff.fires_dropped (i : Nat) : w.fires i = false := by
  unfold WEff.fires fbit
  rw [hm]
  simp

theorem cntHook_dropped {page : Nat} (hp : 0x1000 ≤ page) : GlobalRegsSame w.st (cntHook w page) := by
  unfold cntHook
  rw [WEff.fires_dropped hm, if_neg (by decide)]
  exact GlobalRegsSame.zeroBits _ _ _ hp

theorem cruHook_dropped (old : State) (tile cru : Nat) : GlobalRegsSame w.st (cruHook w old tile cru) := by
  unfold cruHook
  split
  · unfold taskCtlHook
    simp only [WEff.fires_dropped hm]
    exact GlobalRegsSame.zeroBits _ _ _ (by unfold cruPage tilePage; omega)
  · split
    · unfold segHook
      rw [if_pos hm]
      exact GlobalRegsSame.refl _
    · exact GlobalRegsSame.refl _

theorem cregHook_dropped (old : State) (tile : Nat) (peat : Bool) : GlobalRegsSame w.st (cregHook w old tile peat) := by
  have hpg : 0x1000 ≤ cregPage tile peat := by cases peat <;> simp [cregPage, peatPage, poolPage, tilePage] <;> omega
  unfold cregHook
  split
  · unfold cslotHook
    simp only [hm, decide_true, Bool.true_or, if_true]
    exact GlobalRegsSame.setReg _ _ _ hpg
  · split
    · unfold cregCtlHook cregBaseHook
      simp only [hm, ne_eq, not_true_eq_false, decide_false, Bool.false_and, Bool.false_eq_true, if_true, if_false, ite_self]
      exact GlobalRegsSame.refl _
    · exact GlobalRegsSame.refl _

theorem gramHook_dropped (old : State) (tile : Nat) : GlobalRegsSame w.st (gramHook w old tile) := by
  unfold gramHook
  rw [if_neg (by simp [hm])]
  exact GlobalRegsSame.refl _

theorem gateValHook_dropped (tile : Nat) : GlobalRegsSame w.st (gateValHook w tile) := by
  unfold gateValHook
  simp only [hm, if_true]
  exact GlobalRegsSame.setReg _ _ _ (by unfold gatePage tilePage; omega)

theorem cetisHook_dropped (tile : Nat) : GlobalRegsSame w.st (cetisHook w tile) := by
  have hpg : 0x1000 ≤ cetisPage tile := by unfold cetisPage tilePage; omega
  unfold cetisHook slotMapHook routeHook
  simp only [hm, if_true]
  split
  · exact GlobalRegsSame.setReg _ _ _ hpg
  · split
    · exact GlobalRegsSame.setReg _ _ _ hpg
    · exact GlobalRegsSame.refl _

theorem pwrHook_dropped (tile : Nat) : GlobalRegsSame w.st (pwrHook w tile) := by
  unfold pwrHook
  split
  · unfold pwrDomHook
    rw [if_pos (by rw [hm]; decide)]
    exact GlobalRegsSame.refl _
  · split
    · unfold minvHook
      simp only [WEff.fires_dropped hm, Bool.false_eq_true, if_false, List.foldl_fixed]
      exact GlobalRegsSame.zeroBits _ _ _ (by unfold pwrPage tilePage; omega)
    · exact GlobalRegsSame.refl _

theorem monHook_dropped (tile : Nat) : GlobalRegsSame w.st (monHook w tile) := by
  unfold monHook
  split
  · unfold monClrHook
    simp only [WEff.fires_dropped hm, Bool.false_eq_true, if_false, List.foldl_fixed]
    exact GlobalRegsSame.zeroBits _ _ _ (by unfold monPage tilePage; omega)
  · unfold monConfigHook
    simp only [hm, if_true]
    exact GlobalRegsSame.refl _

theorem ageHook_dropped (tile : Nat) : GlobalRegsSame w.st (ageHook w tile) := by
  unfold ageHook
  rw [WEff.fires_dropped hm, if_neg (by decide)]
  exact GlobalRegsSame.setReg _ _ _ (by unfold agePage tilePage; omega)

omit hm in
/-- The hook of a sensor looks at the value before the write, which is 0 for a write that is dropped. -/
theorem thermHook_dropped (ho : w.old = 0) (tile : Nat) : GlobalRegsSame w.st (thermHook w tile) := by
  unfold thermHook sensHook
  simp only [ho, show fbit 0 14 = false by decide, Bool.false_and, Bool.false_eq_true, if_false, ite_self]
  exact GlobalRegsSame.refl _

theorem tileHook_dropped (ho : w.old = 0) (old : State) (p : PageInfo) : GlobalRegsSame w.st (tileHook w old p) := by
  unfold tileHook
  split
  · exact cruHook_dropped hm old _ _
  · exact cregHook_dropped hm old _ _
  · exact cregHook_dropped hm old _ _
  · exact gramHook_dropped hm old _
  · split
    · exact gateValHook_dropped hm _
    · exact GlobalRegsSame.refl _
  · exact cetisHook_dropped hm _
  · exact pwrHook_dropped hm _
  · exact thermHook_dropped ho _
  · exact monHook_dropped hm _
  · split
    · exact ageHook_dropped hm _
    · exact GlobalRegsSame.refl _
  · exact GlobalRegsSame.refl _

theorem regHook_dropped (ho : w.old = 0) (old : State) (who : Requester) {page : Nat} {p : PageInfo} (hp : pageInfo page = some p)
    (h1 : 0x10 ≤ p.cls) (h2 : p.cls < 0x20) : GlobalRegsSame w.st (regHook w old who page) := by
  unfold regHook
  rw [hp]
  dsimp only
  split
  · exact cntHook_dropped hm (pageInfo_page_ge hp h1)
  · split
    · exact GlobalRegsSame.refl _
    · rw [if_neg (show ¬p.cls < 0x10 by omega)]
      exact tileHook_dropped hm ho old p

end

theorem State.writeCore_timesOut {s : State} {page : Nat} (h : s.timesOut page = true) (who : Requester) (off : Nat) (size : AccSize)
    (v : W64) : s.writeCore who page off size v = ⟨(s.dropShadow who page).regTimeout, off - off % 8, 0, 0, 0⟩ := by
  obtain ⟨p, -, -, -, hl⟩ := State.timesOut_page h
  unfold State.writeCore
  extract_lets s0
  have hl0 : s0.pageLive page = false := hl
  have ht0 : s0.timesOut page = true := h
  rw [hl0, if_neg (by decide), ht0, if_pos rfl]
  cases reach off size <;> rfl

/-- A write without an answer is counted, wherever on the page it goes. -/
theorem State.writeReg_timesOut {s : State} {who : Requester} {page off : Nat} {size : AccSize} (v : W64)
    (h : s.timesOut page = true) (hr : (reach off size).isSome = true) : TimeoutCounted s (s.writeReg who page off size v) := by
  obtain ⟨⟨o, half⟩, hr'⟩ := Option.isSome_iff_exists.mp hr
  have hcount : TimeoutCounted s (s.dropShadow who page).regTimeout := State.regTimeout_counted (s.dropShadow who page)
  unfold State.writeReg
  split
  · unfold State.keyWrite
    rw [hr']
    dsimp only
    rw [if_pos h]
    exact hcount
  split
  · unfold State.mbxWrite
    rw [hr']
    dsimp only
    rw [if_pos h]
    exact hcount
  · have hhook : TimeoutCounted s (regHook (s.writeCore who page off size v) s who page) := by
      obtain ⟨p, hp, h1, h2, -⟩ := State.timesOut_page h
      rw [State.writeCore_timesOut h]
      exact hcount.keep (regHook_dropped rfl rfl s who hp h1 (by omega))
    unfold State.summarized
    split
    · exact hhook.keep (GlobalRegsSame.withSummary s page _)
    · exact hhook

/-! ### The mailbox (R433, R434) -/

theorem State.mbx_mbxSelect (s : State) (who : Requester) (page v : Nat) :
    (s.mbxSelect who page v).mbx who page = (match s.mbxValue page v with
      | some (d, tag) => { sel := v, valid := true, tag := tag, data := d ++ List.replicate (8 - d.length) 0 }
      | none => { sel := v, bad := true }) := by
  unfold State.mbxSelect State.mbx
  exact Store.get_set_same ({} : Mbx) s.mbxs (whoCode who * 65536 + page) _

/-! ### Reads (R4, R429) -/

theorem State.lastRead_deliver (s : State) (who : Requester) (v : W64) : Store.get 0 (s.deliver who v).lastRead (whoCode who) = v :=
  Store.get_set_same 0 s.lastRead (whoCode who) v

theorem State.stored_zeroBits_same (s : State) (page off : Nat) (m : W64) :
    (s.zeroBits page off m).stored page off = s.stored page off &&& ~~~m := State.stored_storeReg_same ..

theorem State.readReg_b64 {s : State} {page off : Nat} (who : Requester) (h8 : off % 8 = 0) (ht : s.timesOut page = false) :
    s.readReg who page off .b64 =
      ((s.clearRc page off 0xFFFFFFFFFFFFFFFF).dropShadow who page).deliver who (s.view who page off) := by
  unfold State.readReg State.busRead
  rw [reach_b64 h8]
  dsimp only
  rw [ht, if_neg (by decide)]

/-- The state after a 32-bit read of a low half: RC fields cleared, and the high half kept for the requester. -/
def State.lowHalfRead (s : State) (who : Requester) (page off : Nat) : State :=
  let t := s.clearRc page off 0xFFFFFFFFFFFFFFFF
  let hi : W32 := BitVec.ofNat 32 ((s.view who page off).toNat / 2 ^ 32)
  { t with shadows := Store.set none t.shadows (shadowKey who page) (some ⟨off, hi⟩) }

theorem State.readReg_b32_low {s : State} {page off : Nat} (who : Requester) (h8 : off % 8 = 0) (ht : s.timesOut page = false) :
    s.readReg who page off .b32 = (s.lowHalfRead who page off).deliver who (s.view who page off &&& 0xFFFFFFFF) := by
  unfold State.readReg State.busRead
  rw [reach_b32_low h8]
  dsimp only
  rw [ht, if_neg (by decide), if_pos h8]
  rfl

/-- The high half that a read of the low half kept. -/
theorem State.readReg_b32_kept {s : State} {page off : Nat} {who : Requester} {sh : Shadow} (h8 : off % 8 = 4)
    (ht : s.timesOut page = false) (hk : Store.get none s.shadows (shadowKey who page) = some sh) (ho : sh.off + 4 = off) :
    s.readReg who page off .b32 = (s.dropShadow who page).deliver who (BitVec.ofNat 64 sh.hi.toNat) := by
  unfold State.readReg State.busRead
  rw [reach_b32_high h8]
  dsimp only
  rw [ht, if_neg (by decide), if_neg (by omega), hk]
  dsimp only
  rw [if_pos (by omega)]

theorem State.readReg_timesOut {s : State} {page off : Nat} (who : Requester) (h8 : off % 8 = 0) (ht : s.timesOut page = true) :
    s.readReg who page off .b64 = ((s.dropShadow who page).regTimeout).deliver who 0xFFFFFFFFFFFFFFFF := by
  unfold State.readReg State.busRead
  rw [reach_b64 h8]
  dsimp only
  rw [ht, if_pos rfl]
  rfl

/-- RC fields of a page that answers are cleared, and every other bit stays; SB_STAT has a rule of its own. -/
theorem State.stored_clearRc (s : State) {page off : Nat}
    (h : (∀ (i : TileIx) (k : CruIx), page ≠ cruPage i k) ∨ off ≠ Reg.SB_STAT) {i : Nat} (hi : i < 64) :
    ((s.clearRc page off 0xFFFFFFFFFFFFFFFF).stored page off).getLsbD i =
      ((s.stored page off).getLsbD i && !(s.pageLive page && (accMask page off .rc).getLsbD i)) := by
  have hall : accMask page off .rc &&& 0xFFFFFFFFFFFFFFFF = accMask page off .rc := BitVec.and_allOnes
  unfold State.clearRc
  rw [hall]
  extract_lets m t
  by_cases hkeep : (decide (m = 0) || !s.pageLive page) = true
  · rw [if_pos hkeep]
    have hz : (s.pageLive page && m.getLsbD i) = false := by
      simp only [Bool.or_eq_true, decide_eq_true_eq, Bool.not_eq_true'] at hkeep
      rcases hkeep with hz | hl
      · simp [hz]
      · simp [hl]
    rw [hz, Bool.not_false, Bool.and_true]
  · rw [if_neg hkeep]
    simp only [Bool.or_eq_true, not_or, Bool.not_eq_true', Bool.not_eq_false] at hkeep
    have ht : (t.stored page off).getLsbD i = ((s.stored page off).getLsbD i && !(s.pageLive page && m.getLsbD i)) := by
      unfold t
      rw [State.stored_zeroBits_same, BitVec.getLsbD_and, BitVec.getLsbD_not, decide_eq_true hi, Bool.true_and, hkeep.2, Bool.true_and]
    split
    · rename_i p hp
      have hno : ¬((decide (p.cls = 0x11) && decide (off = Reg.SB_STAT)) = true) := by
        simp only [Bool.and_eq_true, decide_eq_true_eq, not_and]
        intro hc hs
        rcases h with h | h
        · obtain ⟨i, k, e⟩ := pageInfo_cru_inv hp hc
          exact h i k e
        · exact h hs
      rw [if_neg hno]
      exact ht
    · exact ht

/-- A read of SB_STAT starts HIGH again from the entries in use (R104). -/
theorem State.sbHigh_clearRc {s : State} {i : TileIx} {k : CruIx} (hl : s.pageLive (cruPage i k) = true) :
    (s.clearRc (cruPage i k) Reg.SB_STAT 0xFFFFFFFFFFFFFFFF).rf (cruPage i k) Reg.SB_STAT 14 8 = (s.cru i k).sb.length % 128 := by
  have hrc : accMask (cruPage i k) Reg.SB_STAT .rc &&& 0xFFFFFFFFFFFFFFFF ≠ 0 := by
    rw [accMask_like (regAt_cru i k Reg.SB_STAT)]
    decide
  unfold State.clearRc
  extract_lets m t
  have hcru : t.cru i k = s.cru i k := by
    unfold State.cru
    rw [show t.crus = s.crus from (State.zeroBits_kept s _ _ m).frame .crus (by decide)]
  have hkeep : ¬((decide (m = 0) || !s.pageLive (cruPage i k)) = true) := by
    rw [hl, decide_eq_false hrc]
    decide
  rw [if_neg hkeep, pageInfo_cru]
  dsimp only
  rw [decide_eq_true rfl, decide_eq_true rfl, Bool.true_and, if_pos rfl, hcru]
  unfold State.rf State.setRf
  rw [State.reg_setReg_same]
  exact fld_setFld_same _ _ _ _ (by decide)

/-! ### PAGE_CTL.CNT_CLR (R426) -/

/-- Counters of a page set to 0 one after another. -/
theorem State.reg_clearList (page : Nat) (l : List Nat) (s : State) (hl : ∀ x ∈ l, x < 16) {k : Nat} (hk : k < 16)
    (h : k ∈ l ∨ s.reg page (Reg.COUNTER k) = 0) :
    (l.foldl (fun (s : State) k => s.setReg page (Reg.COUNTER k) 0) s).reg page (Reg.COUNTER k) = 0 := by
  have hoff {x : Nat} (hx : x < 16) : Reg.COUNTER x < 4096 := by unfold Reg.COUNTER; omega
  induction l generalizing s with
  | nil => exact h.resolve_left (List.not_mem_nil)
  | cons x l ih =>
    rw [List.foldl_cons]
    refine ih _ (fun y hy => hl y (List.mem_cons_of_mem _ hy)) ?_
    rcases h with h | h
    · rcases List.mem_cons.mp h with rfl | h
      · exact .inr (State.reg_setReg_same ..)
      · exact .inl h
    · right
      rw [State.reg_setReg _ _ _ _ _ _ (hoff (hl x List.mem_cons_self)) (hoff hk), h, ite_self]

theorem State.reg_clearCounters (s : State) (page : Nat) {k : Nat} (hk : k < 16) :
    (s.clearCounters page).reg page (Reg.COUNTER k) = 0 :=
  State.reg_clearList page _ s (fun _ => List.mem_range.mp) hk (.inl (List.mem_range.mpr hk))

theorem RegsOutside.clearCounters (s : State) (page : Nat) :
    RegsOutside ((List.range 16).map (counter page)) s (s.clearCounters page) := by
  unfold State.clearCounters
  have h (l : List Nat) (hl : ∀ x ∈ l, x ∈ List.range 16) (t : State) (ht : RegsOutside ((List.range 16).map (counter page)) s t) :
      RegsOutside ((List.range 16).map (counter page)) s (l.foldl (fun (s : State) k => s.setReg page (Reg.COUNTER k) 0) t) := by
    induction l generalizing t with
    | nil => exact ht
    | cons x l ih =>
      have hx := hl x List.mem_cons_self
      refine ih (fun y hy => hl y (List.mem_cons_of_mem _ hy)) _ (ht.thenSetReg page _ 0 ?_ (List.mem_map_of_mem hx))
      have := List.mem_range.mp hx
      unfold Reg.COUNTER
      omega
  exact h _ (fun _ => id) s (RegsOutside.refl _ s)

/-- A page that takes a write is mapped. -/
theorem State.admits_mapped {s : State} {who : Requester} {page off : Nat} (h : s.admits who page off = true) :
    (pageInfo page).isSome = true := by
  cases hp : pageInfo page with
  | none => simp [State.admits, State.pageLive, hp] at h
  | some p => rfl

/-- An admitted write of CNT_CLR: the page's guard is used up, PAGE_CTL is written, and the counters are cleared. -/
theorem State.cntHook_admits {s : State} {who : Requester} {page : Nat} (v : W64) (h : s.admits who page Reg.PAGE_CTL = true) :
    ∃ g : State, RegsOutside [(page, Reg.PAGE_CTL)] s g ∧
      cntHook (s.writeCore who page Reg.PAGE_CTL .b64 (setBit v 0 true)) page = g.clearCounters page := by
  obtain ⟨p, hp⟩ := Option.isSome_iff_exists.mp (State.admits_mapped h)
  unfold State.admits at h
  simp only [Bool.and_eq_true, Bool.or_eq_true, decide_eq_true_eq] at h
  obtain ⟨hl, ha⟩ := h
  obtain ⟨g, hg, -, -, hw⟩ := State.writeCore_admits (who := who) (off := Reg.PAGE_CTL) (setBit v 0 true) hl (by decide) (by decide)
    (by rw [regAt_pageCtl hp]; rfl) ha
  rw [hw]
  unfold cntHook
  dsimp only
  have hfires (st : State) (old : W64) : WEff.fires ⟨st, Reg.PAGE_CTL, accMask page Reg.PAGE_CTL .rw ||| accMask page Reg.PAGE_CTL .sl |||
      accMask page Reg.PAGE_CTL .gw, setBit v 0 true, old⟩ 0 = true := by
    unfold WEff.fires
    dsimp only
    rw [accMask_pageCtl_gw hp]
    unfold fbit
    rw [BitVec.getLsbD_and, BitVec.getLsbD_or, show (setBit v 0 true).getLsbD 0 = true from fbit_setBit_same v 0 true (by decide)]
    simp
  rw [hfires, if_pos rfl]
  refine ⟨_, ?_, rfl⟩
  unfold State.zeroBits
  rw [State.storeReg_low _ _ _ (by decide), State.storeReg_low _ _ _ (by decide)]
  exact ((RegsOutside.of_regs (hg.frame .regs (by decide))).thenSetReg _ _ _ (by decide) (by simp)).thenSetReg _ _ _ (by decide) (by simp)

end Sys2Proof.Machine
end

section
/-! SUPPORT. The statement about register accesses, clause by clause. -/
namespace Sys2Proof.Machine

/-! ### The commands of register pages -/

theorem exec_regWrite (who : Requester) (page : BitVec 16) (off : BitVec 12) (size : AccSize) (v : W64) (s : State) :
    exec (.regWrite who page off size v) s = .next (s.writeReg who page.toNat off.toNat size v) := rfl

theorem exec_regReadRc (who : Requester) (page : BitVec 16) (off : BitVec 12) (size : AccSize) (s : State) :
    exec (.regReadRc who page off size) s = .next (s.readReg who page.toNat off.toNat size) := rfl

theorem exec_regReadLowHalf (who : Requester) (page : BitVec 16) (off : BitVec 12) (s : State) :
    exec (.regReadLowHalf who page off) s = .next (s.readReg who page.toNat off.toNat .b32) := rfl

/-- The key of a 64-bit write of GUARD_KEY reaches the guard of a page that answers. -/
theorem exec_guardKey {who : Requester} {page : BitVec 16} (v : W64) {s : State} (hl : s.pageLive page.toNat = true)
    (ht : s.timesOut page.toNat = false) :
    exec (.guardKey who page .b64 v) s = .next ((s.dropShadow who page.toNat).writeKey who page.toNat (fld v 15 0)) := by
  show Host.Outcome.next (s.keyWrite who page.toNat Reg.GUARD_KEY .b64 v) = _
  unfold State.keyWrite
  rw [reach_b64 (by decide)]
  dsimp only
  rw [ht, if_neg (by decide), hl, if_neg (by decide), if_pos (by decide)]

/-- The value of a 64-bit write of MBX_SEL is selected on a page that answers. -/
theorem exec_mbxSel {who : Requester} {page : BitVec 16} (v : W64) {s : State} (hl : s.pageLive page.toNat = true)
    (ht : s.timesOut page.toNat = false) :
    exec (.mbxSel who page .b64 v) s = .next ((s.dropShadow who page.toNat).mbxSelect who page.toNat (fld v 15 0)) := by
  show Host.Outcome.next (s.mbxWrite who page.toNat Reg.MBX_SEL .b64 v) = _
  unfold State.mbxWrite
  rw [reach_b64 (by decide)]
  dsimp only
  rw [ht, if_neg (by decide), hl, if_pos (by decide)]

theorem exec_guardLapse (page : BitVec 16) (s : State) :
    exec (.guardLapse page) s = .next (if (s.guard page.toNat).till ≤ s.up then s.closeGuard page.toNat else s) := rfl

/-- CNT_CLR on a mapped page. -/
theorem exec_cntClr (who : Requester) {page : BitVec 16} (v : W64) (s : State) (hp : (pageInfo page.toNat).isSome = true) :
    exec (.cntClr who page v) s =
      .next (cntHook (s.writeCore who page.toNat Reg.PAGE_CTL .b64 (setBit v 0 true)) page.toNat) :=
  congrArg Host.Outcome.next (if_pos hp)

/-- A mapped page without an answer. -/
theorem exec_regAccessTimeout (who : Requester) {page : BitVec 16} (off : BitVec 12) (write : Bool) {s : State}
    (hp : (pageInfo page.toNat).isSome = true) (hv : s.boot.vaux = true) :
    exec (.regAccessTimeout who page off write) s =
      (let t := (s.dropShadow who page.toNat).regTimeout
       .next (if write || off.toNat % 4 ≠ 0 then t else t.deliver who 0xFFFFFFFFFFFFFFFF)) := by
  show execRegAccessTimeout who page off write s = _
  unfold execRegAccessTimeout
  rw [if_neg (by simp [hv, Option.isSome_iff_ne_none.mp hp])]

/-! ### The clauses -/

/-- A read of a whole register. -/
theorem does_regReadRc {who : Requester} {page : BitVec 16} {off : BitVec 12} {s : State} (h8 : off.toNat % 8 = 0)
    (ht : s.timesOut page.toNat = false) :
    Does (.regReadRc who page off .b64) s (fun u => Frame [.regs, .wins, .shadows, .lastRead] s u ∧
      Store.get 0 u.lastRead (whoCode who) = s.view who page.toNat off.toNat ∧
      (∀ (i : TileIx) (k : CruIx), page.toNat = cruPage i k → off.toNat = Reg.SB_STAT → s.pageLive page.toNat = true →
        u.rf page.toNat Reg.SB_STAT 14 8 = (s.cru i k).sb.length % 128) ∧
      ((∀ (i : TileIx) (k : CruIx), page.toNat ≠ cruPage i k) ∨ off.toNat ≠ Reg.SB_STAT → ∀ i, i < 64 →
        (u.stored page.toNat off.toNat).getLsbD i = ((s.stored page.toNat off.toNat).getLsbD i &&
          !(s.pageLive page.toNat && (accMask page.toNat off.toNat .rc).getLsbD i)))) := by
  refine ⟨_, (exec_regReadRc ..).trans (congrArg _ (State.readReg_b64 who h8 ht)), ?_, State.lastRead_deliver .., ?_, ?_⟩
  · exact ((((Kept.refl [.regs, .wins, .shadows, .lastRead] s).step (State.clearRc_kept ..) rfl).step
      (State.dropShadow_kept ..) rfl).step (State.deliver_kept ..) rfl).frame
  · intro i k hp ho hl
    rw [hp] at hl ⊢
    rw [ho]
    exact State.sbHigh_clearRc hl
  · exact fun h i hi => State.stored_clearRc s h hi

/-- A 32-bit read of the low half of a register. -/
theorem does_regReadLowHalf {who : Requester} {page : BitVec 16} {off : BitVec 12} {s : State} (h8 : off.toNat % 8 = 0)
    (ht : s.timesOut page.toNat = false) :
    Does (.regReadLowHalf who page off) s (fun u => Frame [.regs, .wins, .shadows, .lastRead] s u ∧
      Store.get 0 u.lastRead (whoCode who) = s.view who page.toNat off.toNat &&& 0xFFFFFFFF ∧
      Store.get none u.shadows (shadowKey who page.toNat) =
        some ⟨off.toNat, BitVec.ofNat 32 ((s.view who page.toNat off.toNat).toNat / 2 ^ 32)⟩) := by
  refine ⟨_, (exec_regReadLowHalf ..).trans (congrArg _ (State.readReg_b32_low who h8 ht)), ?_, State.lastRead_deliver .., ?_⟩
  · exact ((((Kept.refl [.regs, .wins, .shadows, .lastRead] s).step (State.clearRc_kept ..) rfl).step
      (Kept.shadows ..) rfl).step (State.deliver_kept ..) rfl).frame
  · exact Store.get_set_same none _ _ _

/-- The key written while no other requester holds the guard. -/
theorem does_guardKey_mine {who : Requester} {page : BitVec 16} (v : W64) {s : State} (hl : s.pageLive page.toNat = true)
    (ht : s.timesOut page.toNat = false) (ho : s.guardOwner page.toNat = 0 ∨ s.guardOwner page.toNat = whoCode who) :
    Does (.guardKey who page .b64 v) s (fun u => Frame [.guards, .shadows] s u ∧
      u.guardOwner page.toNat = (if fld v 15 0 = guardKeyValue then whoCode who else 0) ∧
      (fld v 15 0 = guardKeyValue → u.guard page.toNat = ⟨whoCode who, s.up + 1024⟩) ∧
      ∀ q, q ≠ page.toNat → u.guard q = s.guard q) := by
  have hdrop : Kept [.guards, .shadows] s (s.dropShadow who page.toNat) := (State.dropShadow_kept s who page.toNat).mono rfl
  refine ⟨_, (exec_guardKey v hl ht).trans (congrArg _ (State.writeKey_mine (s := s.dropShadow who page.toNat) _ ho)), ?_⟩
  by_cases hkey : fld v 15 0 = guardKeyValue
  · rw [if_pos hkey, if_pos hkey]
    exact ⟨(hdrop.step (State.openGuard_kept ..) rfl).frame, State.guardOwner_openGuard ..,
      fun _ => (State.guard_openGuard ..).trans (if_pos rfl), fun q hq => (State.guard_openGuard ..).trans (if_neg hq)⟩
  · rw [if_neg hkey, if_neg hkey]
    exact ⟨(hdrop.step (State.closeGuard_kept ..) rfl).frame, State.guardOwner_closeGuard .., fun h => absurd h hkey,
      fun q hq => (State.guard_closeGuard ..).trans (if_neg hq)⟩

/-- The key written while another requester holds the guard. -/
theorem does_guardKey_other {who : Requester} {page : BitVec 16} (v : W64) {s : State} (hl : s.pageLive page.toNat = true)
    (ht : s.timesOut page.toNat = false) (h0 : s.guardOwner page.toNat ≠ 0) (ho : s.guardOwner page.toNat ≠ whoCode who) :
    Does (.guardKey who page .b64 v) s (fun u => u.guards = s.guards ∧ Counts s u devPage 0 1 ∧ Raised u devPage 0 ∧
      u.rf page.toNat Reg.PAGE_STAT 2 1 = whoCode who ∧ u.rb page.toNat Reg.PAGE_STAT 0 = true) :=
  ⟨_, (exec_guardKey v hl ht).trans (congrArg _ (State.writeKey_other (s := s.dropShadow who page.toNat) _ h0 ho)),
    (State.guardErr_kept _ who page.toNat).frame .guards (by decide), State.guardErr_reports (s.dropShadow who page.toNat) who page.toNat⟩

/-- A value selected in the requester's mailbox of a page. -/
theorem does_mbxSel {who : Requester} {page : BitVec 16} (v : W64) {s : State} (hl : s.pageLive page.toNat = true)
    (ht : s.timesOut page.toNat = false) :
    Does (.mbxSel who page .b64 v) s (fun u => Frame [.mbxs, .shadows] s u ∧
      u.mbx who page.toNat = (match s.mbxValue page.toNat (fld v 15 0) with
        | some (d, tag) => { sel := fld v 15 0, valid := true, tag := tag, data := d ++ List.replicate (8 - d.length) 0 }
        | none => { sel := fld v 15 0, bad := true })) :=
  ⟨_, exec_mbxSel v hl ht,
    (((Kept.refl [.mbxs, .shadows] s).step (State.dropShadow_kept ..) rfl).step (State.mbxSelect_kept ..) rfl).frame,
    State.mbx_mbxSelect (s.dropShadow who page.toNat) who page.toNat (fld v 15 0)⟩

theorem does_guardLapse (page : BitVec 16) (s : State) :
    Does (.guardLapse page) s (fun u => Frame [.guards] s u ∧
      ∀ q, u.guard q = if q = page.toNat ∧ (s.guard page.toNat).till ≤ s.up then {} else s.guard q) := by
  refine ⟨_, exec_guardLapse page s, ?_⟩
  by_cases ht : (s.guard page.toNat).till ≤ s.up
  · rw [if_pos ht]
    refine ⟨(State.closeGuard_kept ..).frame, fun q => ?_⟩
    rw [State.guard_closeGuard]
    simp only [ht, and_true]
  · rw [if_neg ht]
    refine ⟨(Kept.refl _ s).frame, fun q => ?_⟩
    rw [if_neg (fun h => ht h.2)]

theorem does_cntClr {who : Requester} {page : BitVec 16} (v : W64) {s : State} (ha : s.admits who page.toNat Reg.PAGE_CTL = true) :
    Does (.cntClr who page v) s (fun u => (∀ k, k < 16 → u.reg page.toNat (Reg.COUNTER k) = 0) ∧
      RegsOutside ((page.toNat, Reg.PAGE_CTL) :: (List.range 16).map (counter page.toNat)) s u) := by
  obtain ⟨g, hg, hw⟩ := State.cntHook_admits v ha
  refine ⟨_, (exec_cntClr who v s (State.admits_mapped ha)).trans (congrArg _ hw), fun k hk => State.reg_clearCounters g _ hk, ?_⟩
  exact RegsOutside.comp hg (RegsOutside.clearCounters g page.toNat)

/-- A read without an answer returns all-ones. -/
theorem does_regReadRc_timesOut {who : Requester} {page : BitVec 16} {off : BitVec 12} {s : State} (h8 : off.toNat % 8 = 0)
    (ht : s.timesOut page.toNat = true) :
    Does (.regReadRc who page off .b64) s (fun u => Counts s u devPage 1 1 ∧ Raised u devPage 1 ∧
      Store.get 0 u.lastRead (whoCode who) = 0xFFFFFFFFFFFFFFFF) := by
  obtain ⟨hc, hr⟩ := State.regTimeout_counted (s.dropShadow who page.toNat)
  exact ⟨_, (exec_regReadRc ..).trans (congrArg _ (State.readReg_timesOut who h8 ht)), hc, hr, State.lastRead_deliver ..⟩

/-- A mapped page that gives no answer within its time. -/
theorem does_regAccessTimeout {who : Requester} {page : BitVec 16} {off : BitVec 12} (write : Bool) {s : State}
    (hp : (pageInfo page.toNat).isSome = true) (hv : s.boot.vaux = true) :
    Does (.regAccessTimeout who page off write) s (fun u => Counts s u devPage 1 1 ∧ Raised u devPage 1 ∧
      (write = false → off.toNat % 4 = 0 → Store.get 0 u.lastRead (whoCode who) = 0xFFFFFFFFFFFFFFFF)) := by
  obtain ⟨hc, hr⟩ := State.regTimeout_counted (s.dropShadow who page.toNat)
  refine ⟨_, exec_regAccessTimeout who off write hp hv, ?_⟩
  by_cases hd : (write || decide (off.toNat % 4 ≠ 0)) = true
  · rw [if_pos hd]
    refine ⟨hc, hr, fun hw h4 => ?_⟩
    simp [hw, h4] at hd
  · rw [if_neg hd]
    exact ⟨hc, hr, fun _ _ => State.lastRead_deliver ..⟩

/-- Settles O44: writes by `State.stored_writeCore_bit`; an access that times out by what a dropped write starts, nothing
on a device-global page; the other clauses by what their commands do. -/
theorem registerAccess : Obligations.RegisterAccess := by
  unfold Obligations.RegisterAccess
  intro who page off size v s pg
  have hoff := off.isLt
  refine ⟨?_, fun h8 ht => ⟨does_regReadRc h8 ht, does_regReadLowHalf h8 ht⟩,
    fun ht => ⟨?_, fun h8 => does_regReadRc_timesOut h8 ht⟩, ?_,
    fun hl ht => ⟨does_guardKey_mine v hl ht, does_guardKey_other v hl ht, does_mbxSel v hl ht⟩, does_guardLapse page s,
    does_cntClr v, fun write => does_regAccessTimeout write⟩
  · intro o half hr hm hk he hl hreg hhook mine val
    refine ⟨_, exec_regWrite .., fun i hi => ?_⟩
    rw [State.writeReg_plain v hr hm hk he, hhook]
    exact State.stored_writeCore_bit v hr (by omega) he hl hreg hi
  · intro o half hr
    exact ⟨_, exec_regWrite .., State.writeReg_timesOut v ht (by rw [hr]; rfl)⟩
  · intro sh h4 ht hk ho
    refine ⟨_, (exec_regReadRc ..).trans (congrArg _ (State.readReg_b32_kept h4 ht hk ho)), ?_, State.lastRead_deliver ..,
      Store.get_set_same none _ _ _⟩
    exact (((Kept.refl [.shadows, .lastRead] s).step (State.dropShadow_kept ..) rfl).step (State.deliver_kept ..) rfl).frame

end Sys2Proof.Machine
end

section
/-! SUPPORT. The issue stage before an instruction's own checks: every instruction of the sequencer is an issue of its request, and
what each way of stopping there leaves (R65, R68, R78, R80, R623). -/
namespace Sys2Proof.Machine
open Sys2Proof

/-! ### Every instruction is an issue of its request -/

/-- A tensor instruction is issued to its unit with the registers that it uses and those that it makes wait. -/
theorem exec_tensorIssue {i : Instr} {q : TensorIssue} (h : tensorIssue i = some q) (s : State) :
    exec i s = .next (s.issueTensor q.t i q.h q.unit q.uses q.pend) := by
  cases i <;> cases h <;> rfl

theorem issueRequest_tensor {i : Instr} {q : TensorIssue} (h : tensorIssue i = some q) :
    issueRequest i = some (q.t, ⟨16, !i.wf, q.h.pred, q.uses⟩) := by
  cases i <;> cases h <;> rfl

/-- A register field names a predicate or is illegal. -/
theorem not_predField (r : BitVec 5) : (!predField r) = decide (8 ≤ r.toNat) := by
  unfold predField
  rw [← decide_not, decide_eq_decide]
  omega

theorem State.scalarStep_issue (s : State) (t : TaskRef) (ill : Bool) (pred : BitVec 3) (uses : List (BitVec 5)) (f : Task → Task) :
    ∃ body, s.scalarStep t ill pred uses f = s.issue t ⟨4, ill, pred, uses⟩ body := ⟨_, rfl⟩

theorem State.compare_issue (s : State) (t : TaskRef) (pred : BitVec 3) (rd a b : BitVec 5) (f : W32 → W32 → Bool) :
    ∃ body, s.compare t pred rd a b f = s.issue t ⟨4, decide (8 ≤ rd.toNat), pred, [a, b]⟩ body :=
  ⟨_, by rw [← not_predField]; rfl⟩

theorem State.predLogic_issue (s : State) (t : TaskRef) (pred : BitVec 3) (rd a b : BitVec 5) (f : Bool → Bool → Bool) :
    ∃ body, s.predLogic t pred rd a b f =
      s.issue t ⟨4, decide (8 ≤ rd.toNat) || decide (8 ≤ a.toNat) || decide (8 ≤ b.toNat), pred, []⟩ body :=
  ⟨_, by rw [← not_predField, ← not_predField, ← not_predField, ← Bool.not_and, ← Bool.not_and]; rfl⟩

/-- An instruction does what the issue stage makes of its request, and where that passes it on, something of its own. -/
theorem exec_issueRequest {i : Instr} {t : TaskRef} {q : IssueReq} (h : issueRequest i = some (t, q)) (s : State) :
    ∃ body, exec i s = .next (s.issue t q body) := by
  cases ht : tensorIssue i with
  | some x =>
    rw [issueRequest_tensor ht] at h
    cases h
    exact ⟨_, exec_tensorIssue ht s⟩
  | none =>
    cases i
    case ceq | cne | clt | cge | cltu | cgeu =>
      cases h
      exact (State.compare_issue s ..).imp fun _ hb => congrArg Host.Outcome.next hb
    case pand | por | pxor | pandn =>
      cases h
      exact (State.predLogic_issue s ..).imp fun _ hb => congrArg Host.Outcome.next hb
    case clti =>
      cases h
      rw [← not_predField]
      exact ⟨_, rfl⟩
    case add | sub | and | or | xor | sll | srl | sra | mul | mulhu | min | max | minu | maxu | addi | andi | ori | xori | slli | srli | srai
        | daddr | dfmt | dshape | dstride | daux | dcopy | dstep =>
      cases h
      exact (State.scalarStep_issue s ..).imp fun _ hb => congrArg Host.Outcome.next hb
    all_goals cases ht <;> cases h <;> exact ⟨_, rfl⟩

/-! ### Where the issue stage stops -/

section Stops
variable {s : State} {t : TaskRef} {q : IssueReq}

theorem State.issue_of_stop {u : State} (h : s.issueStop t q = some u) (body : State → State) : s.issue t q body = u := by
  unfold State.issue
  rw [h]

theorem State.issueStop_idle (h : s.canTry t = false) : s.issueStop t q = some s := by
  simp [State.issueStop, h]

theorem State.issueStop_fetchFault {code : Nat} (h : s.canTry t = true) (hf : s.fetchCheck t q.len = some code) :
    s.issueStop t q = some (s.issueFault t code (s.taskAt t).pc) := by
  simp [State.issueStop, h, hf, State.task_eq]

variable (h : s.canTry t = true) (hf : s.fetchCheck t q.len = none)
include h hf

theorem State.issueStop_uncached (hc : (s.cru t.tile t.cru).icache.contains (s.icLine t (s.taskAt t).pc) = false) :
    s.issueStop t q = some ((s.bump (cruPage t.tile t.cru) 14 1).waitFor t .fetch none) := by
  unfold State.issueStop
  simp only [h, hf, State.task_eq, hc, Bool.not_true, Bool.not_false, Bool.false_eq_true, if_false, if_true]

variable (hc : (s.cru t.tile t.cru).icache.contains (s.icLine t (s.taskAt t).pc) = true)
include hc

theorem State.issueStop_illegal (hi : q.illegal = true) : s.issueStop t q = some (s.issueFault t fIllegal 0) := by
  unfold State.issueStop
  simp only [h, hf, State.task_eq, hc, hi, Bool.not_true, Bool.false_eq_true, if_false, if_true]

variable (hi : q.illegal = false)
include hi

theorem State.issueStop_misaligned (ha : (s.taskAt t).pc.toNat % (if q.len = 16 then 16 else 4) ≠ 0) :
    s.issueStop t q = some (s.issueFault t fMisalign (s.taskAt t).pc) := by
  unfold State.issueStop
  simp only [h, hf, State.task_eq, hc, hi, Bool.not_true, Bool.false_eq_true, if_false]
  exact if_pos ha

variable (ha : (s.taskAt t).pc.toNat % (if q.len = 16 then 16 else 4) = 0)
include ha

theorem State.issueStop_skipped (hp : (s.taskAt t).rp q.pred = false) : s.issueStop t q = some (s.retire t q.len) := by
  unfold State.issueStop
  simp only [h, hf, State.task_eq, hc, hi, hp, Bool.not_true, Bool.not_false, Bool.false_eq_true, if_false, if_true]
  exact if_neg (not_not_intro ha)

theorem State.issueStop_busy (hp : (s.taskAt t).rp q.pred = true)
    (hb : q.uses.any (fun r => (s.taskAt t).pend.contains r.toNat) = true) :
    s.issueStop t q = some (s.waitFor t .load (some (.regs (q.uses.map (·.toNat))))) := by
  unfold State.issueStop
  simp only [h, hf, State.task_eq, hc, hi, hp, hb, Bool.not_true, Bool.false_eq_true, if_false, if_true]
  exact if_neg (not_not_intro ha)
end Stops

/-! ### What a stop leaves -/

/-- A task made to wait: its context, and nothing else. -/
theorem State.waitFor_frame (s : State) (t : TaskRef) (w : WaitReason) (ask : Option WaitFor) :
    Frame [.tasks] s (s.waitFor t w ask) ∧ TasksOutside t s (s.waitFor t w ask) ∧
      (s.waitFor t w ask).taskAt t = { s.taskAt t with st := .waiting, wait := w, ask := ask, aged := false } :=
  ⟨((State.setTask_kept ..).mono rfl).frame, TasksOutside.setTask s t _, State.taskAt_setTask_same ..⟩

/-- The codes of the segment checks. -/
theorem State.segCheck_lt {s : State} {t : TaskRef} {a : Addr} {n : Nat} {k : AccKind} {ok : Nat → Bool} {code : Nat}
    (h : s.segCheck t a n k ok = some code) : code < 256 := by
  unfold State.segCheck at h
  dsimp only at h
  split at h
  · exact Option.some.inj h ▸ by decide
  split at h
  · exact Option.some.inj h ▸ by decide
  split at h
  · exact Option.some.inj h ▸ by decide
  split at h
  · exact Option.some.inj h ▸ by decide
  · cases h

theorem State.fetchCheck_lt {s : State} {t : TaskRef} {n code : Nat} (h : s.fetchCheck t n = some code) : code < 256 := by
  unfold State.fetchCheck at h
  dsimp only at h
  split at h
  case h_1 hs =>
    cases h
    exact State.segCheck_lt hs
  case h_2 =>
    split at h
    · cases h
    · exact Option.some.inj h ▸ by decide

/-- A fault at the issue stage, of the instruction that the task is at. -/
theorem State.issueFault_faulted {s : State} {t : TaskRef} {code : Nat} (addr : Addr) (h : (s.taskAt t).faultSeq = none) (hc : code < 256) :
    Faulted t code 0 addr (s.taskAt t).pc [] s (s.issueFault t code addr) :=
  State.taskFault_faulted ⟨code, 0, addr, (s.taskAt t).pc, (s.taskAt t).seq, 0⟩ h hc (by decide : 0 < 8) rfl

theorem State.retire_retires (s : State) (t : TaskRef) (n : Nat) :
    Retires t (s.nextPc t n) s (s.retire t n) ∧ SetsNone (s.taskAt t) ((s.retire t n).taskAt t) := by
  obtain ⟨hr, ht⟩ := State.goTo_retires s t (s.nextPc t n)
  exact ⟨hr, SetsNone.of ht⟩

/-- A retirement after changes of other state, which hold no counter of the issue. -/
theorem State.retire_after {s s' : State} {t : TaskRef} {fs : List Field} {rs : List (Nat × Nat)} (n : Nat) (hr : RegsOutside rs s s')
    (hc : s'.crus = s.crus) (ht : s'.tasks = s.tasks) (hf : Frame ([.regs, .tasks, .crus] ++ fs) s s')
    (hn : ∀ k, k < 16 → counter (cruPage t.tile t.cru) k ∉ rs) :
    RetiresTo t fs rs (s.nextPc t n) s (s'.retire t n) ∧ SetsNone (s.taskAt t) ((s'.retire t n).taskAt t) ∧
      Frame [.regs, .tasks, .crus] s' (s'.retire t n) ∧
      RegsOutside [counter (cruPage t.tile t.cru) 0, counter (cruPage t.tile t.cru) 4, counter (cruPage t.tile t.cru) 13] s' (s'.retire t n) := by
  obtain ⟨hs, hx⟩ := State.retire_retires s' t n
  have e : s'.taskAt t = s.taskAt t := State.taskAt_congr ht t
  have ep : s'.nextPc t n = s.nextPc t n := by
    unfold State.nextPc
    rw [e]
  rw [ep] at hs
  rw [e] at hx
  refine ⟨RetiresTo.after hs hf hr (TasksOutside.of_tasks ht) (CrusOutside.of_crus hc) (by rw [State.cru_congr hc]) (by rw [e])
    (hn 0 (by decide)) (hn 4 (by decide)) (hn 13 (by decide)), hx, ?_, ?_⟩
  · exact fun f hm => hs.1.1 f (by simpa using hm)
  · exact hs.1.2.1.mono (by simp)

/-- A wait for a line of the instruction cache is counted. -/
theorem State.fetchWait_frame (s : State) (t : TaskRef) :
    let u := (s.bump (cruPage t.tile t.cru) 14 1).waitFor t .fetch none
    Frame [.regs, .tasks] s u ∧ RegsOutside [counter (cruPage t.tile t.cru) 14] s u ∧ Counts s u (cruPage t.tile t.cru) 14 1 ∧
      TasksOutside t s u ∧ u.taskAt t = { s.taskAt t with st := .waiting, wait := .fetch, ask := none, aged := false } := by
  intro u
  obtain ⟨hf, ho, ht⟩ := State.waitFor_frame (s.bump (cruPage t.tile t.cru) 14 1) t .fetch none
  exact ⟨((State.bump_kept s _ 14 1).mono (m := [.regs, .tasks]) rfl).frame.trans (hf.mono rfl),
    (RegsOutside.bump s _ 14 1 (by decide)).trans (RegsOutside.of_regs rfl), Counts.bump s _ 14 1,
    (TasksOutside.of_tasks rfl).trans ho, ht⟩

/-- Settles O17: every instruction is an issue of its request, which ends at the first of its stops. -/
theorem issueStage : Obligations.IssueStage := by
  unfold Obligations.IssueStage
  intro i t q s hq x pg cached aligned busy
  obtain ⟨body, hx⟩ := exec_issueRequest hq s
  have stops {u : State} {p : State → Prop} (h : s.issueStop t q = some u) (hp : p u) : Does i s p :=
    ⟨u, by rw [hx, State.issue_of_stop h], hp⟩
  refine ⟨fun hn => stops (State.issueStop_idle hn) rfl, fun h => ⟨fun code hf h0 => ?_, fun hf => ⟨fun hc => ?_, fun hc hi h0 => ?_,
    fun hc hi ha h0 => ?_, fun hc hi ha => ⟨fun hp => ?_, fun hp hb => ?_⟩⟩⟩⟩
  · exact stops (State.issueStop_fetchFault h hf) (State.issueFault_faulted _ h0 (State.fetchCheck_lt hf))
  · exact stops (State.issueStop_uncached h hf hc) (State.fetchWait_frame s t)
  · exact stops (State.issueStop_illegal h hf hc hi) (State.issueFault_faulted _ h0 (by decide))
  · exact stops (State.issueStop_misaligned h hf hc hi ha) (State.issueFault_faulted _ h0 (by decide))
  · exact stops (State.issueStop_skipped h hf hc hi ha hp) (State.retire_retires s t q.len)
  · exact stops (State.issueStop_busy h hf hc hi ha hp hb) (State.waitFor_frame s t _ _)

end Sys2Proof.Machine
end

section
/-! SUPPORT. The system instructions (R70, R167). -/
namespace Sys2Proof.Machine
open Sys2Proof

/-! ### Pages of a tile -/

/-- Registers of a crucible's page have no selector. -/
theorem State.zeroBits_cru (s : State) (t : TaskRef) (off : Nat) (m : W64) :
    s.zeroBits (cruPage t.tile t.cru) off m =
      s.setReg (cruPage t.tile t.cru) off (s.reg (cruPage t.tile t.cru) off &&& ~~~m) := by
  have hi := t.tile.isLt
  have hk := t.cru.isLt
  exact State.zeroBits_setReg s _ off m (by rw [cruPage_eq]; omega) (by rw [cruPage_eq]; omega) (by rw [cruPage_eq]; omega)

/-- No counter is a task's register of flags. -/
theorem counter_ne_taskFlags (page k : Nat) (t : TaskRef) (page' : Nat) (hk : k < 16) :
    counter page k ≠ (page', Reg.TASK_FLAGS t.task) := by
  have ht := t.task.isLt
  unfold counter Reg.COUNTER Reg.TASK_FLAGS
  rw [ne_eq, Prod.mk.injEq]
  omega

theorem taskFlags_lt (t : TaskRef) : Reg.TASK_FLAGS t.task < 4096 := by
  have ht := t.task.isLt
  unfold Reg.TASK_FLAGS
  omega

/-! ### The identity word (R167) -/

theorem State.rdid_slot {s : State} {t : TaskRef} {slot : Nat} (h : (s.slotsOf t.tile (s.polderOf t.tile)).head? = some slot) :
    s.rdid t = BitVec.ofNat 32
      (t.tile.val + t.cru.val * 2 ^ 7 + t.task.val * 2 ^ 9 + slot * 2 ^ 12 + s.polderOf t.tile * 2 ^ 19) := by
  unfold State.rdid
  simp [h, b2n]

theorem State.rdid_none {s : State} {t : TaskRef} (h : s.slotsOf t.tile (s.polderOf t.tile) = []) :
    s.rdid t = BitVec.ofNat 32
      (t.tile.val + t.cru.val * 2 ^ 7 + t.task.val * 2 ^ 9 + s.polderOf t.tile * 2 ^ 19 + 2 ^ 22) := by
  unfold State.rdid
  simp [h, b2n]

/-! ### Clearing flags, END and BREAK -/

section
variable {s : State} {t : TaskRef} {pred : BitVec 3} (h : s.reaches t 4 pred [] = true)
include h

theorem does_nop : Does (.nop t pred) s (fun u => Retires t (s.nextPc t 4) s u ∧ SetsNone (s.taskAt t) (u.taskAt t)) := by
  obtain ⟨hr, ht⟩ := State.scalarStep_retires h id rfl rfl
  exact ⟨_, rfl, hr, SetsNone.of ht⟩

theorem does_clrflags (mask : BitVec 5) : Does (.clrflags t pred mask) s (fun u =>
    RetiresTo t [] [(cruPage t.tile t.cru, Reg.TASK_FLAGS t.task)] (s.nextPc t 4) s u ∧ SetsNone (s.taskAt t) (u.taskAt t) ∧
      u.reg (cruPage t.tile t.cru) (Reg.TASK_FLAGS t.task) =
        s.reg (cruPage t.tile t.cru) (Reg.TASK_FLAGS t.task) &&& ~~~BitVec.ofNat 64 mask.toNat) := by
  refine Does.ofIssue (q := ⟨4, false, pred, []⟩) h rfl rfl ?_
  have hb := taskFlags_lt t
  rw [State.zeroBits_cru]
  obtain ⟨hr, hn, -, ho⟩ := State.retire_after (t := t) 4 (RegsOutside.setReg s (cruPage t.tile t.cru) (Reg.TASK_FLAGS t.task)
      (s.reg (cruPage t.tile t.cru) (Reg.TASK_FLAGS t.task) &&& ~~~BitVec.ofNat 64 mask.toNat) hb) rfl rfl
    ((State.setReg_kept ..).mono rfl).frame (fun k hk => by simpa using counter_ne_taskFlags _ k t _ hk)
  refine ⟨hr, hn, (ho _ _ hb ?_).trans (State.reg_setReg_same ..)⟩
  simp [(counter_ne_taskFlags _ _ t _ _).symm]

theorem does_endTask : Does (.endTask t pred) s (fun u =>
    let gb := (s.cru t.tile t.cru).gb
    IssueFrame t [.peat, .peatBad] (gbRegs t.tile) s u ∧ (u.cru t.tile t.cru).gb = gb.filter (fun e => !s.entryReady t.tile e) ∧
      u.peat = flushedPeat t.tile s.peat (gb.filter (s.entryReady t.tile)) ∧
      u.taskAt t = { s.taskAt t with st := .draining, wait := .none, after := .idle, pc := s.nextPc t 4, aged := false }) := by
  refine Does.ofIssue (q := ⟨4, false, pred, []⟩) h rfl rfl ?_
  have hk : Kept [.regs, .crus, .peat, .peatBad] s (s.gbFlushOn t.tile t.cru) := (State.gbFlushOn_kept ..).mono rfl
  have gb := State.gbFlushOn_gb s t.tile t.cru
  have hp : (s.gbFlushOn t.tile t.cru).peat = flushedPeat t.tile s.peat ((s.cru t.tile t.cru).gb.filter (s.entryReady t.tile)) :=
    State.flushList_peat ..
  have hg := State.gbFlushOn_left s t.tile t.cru
  generalize s.gbFlushOn t.tile t.cru = s1 at *
  obtain ⟨hr, hn, hf, -, hb⟩ := GbKept.retire4 (fs := [.peat, .peatBad]) gb (RegsOutside.refl [] s1) rfl (hk.frame .tasks (by decide))
    (hk.mono rfl).frame (by simp)
  obtain ⟨hi, -, -, hpc, hag⟩ := hr
  rw [List.append_nil] at hi
  refine ⟨hi.andTask _, hb.trans hg, (hf .peat (by decide)).trans hp, ?_⟩
  rw [State.taskAt_onTask, hn, hpc, hag]

theorem does_brk (h0 : (s.taskAt t).faultSeq = none) : Does (.brk t pred) s (fun u => Faulted t fBreak 0 0 (s.taskAt t).pc [] s u) :=
  Does.ofIssue (q := ⟨4, false, pred, []⟩) h rfl rfl (State.issueFault_faulted 0 h0 (by decide))
end

/-- Settles O12: reads of a register are one step of a task's registers; NOP, CLRFLAGS, END and BREAK by what each of them does. -/
theorem systemInstructions : Obligations.SystemInstructions := by
  unfold Obligations.SystemInstructions
  intro t pred sD mask s pg x
  refine ⟨fun h => ⟨?_, ?_, ?_, fun slot hs => ?_, fun hs => ?_⟩, fun h =>
    ⟨does_nop h, does_clrflags h mask, does_endTask h, does_brk h⟩⟩
  · exact DoesS.ofStep _ h rfl rfl
  · exact DoesS.ofStep _ h rfl rfl
  · exact DoesS.ofStep _ h rfl rfl
  · rw [← State.rdid_slot hs]
    exact DoesS.ofStep _ h rfl rfl
  · rw [← State.rdid_none hs]
    exact DoesS.ofStep _ h rfl rfl

end Sys2Proof.Machine
end

section
/-! SUPPORT. The registers right after reset: their tables' reset values, the same on every page of a block. -/
namespace Sys2Proof.Machine
open Sys2Proof

theorem State.reset_reg (page off : Nat) : State.reset.reg page off = resetOf page off := BitVec.zero_xor

theorem resetOf_like {p q off : Nat} (h : regAt p off = regAt q off) : resetOf p off = resetOf q off := by
  unfold resetOf
  rw [fieldsAt_like h]

/-- The class of a tile's block (R422). -/
def blockClass (b : Nat) : Nat := if b = 0 then 0x10 else if b ≤ 4 then 0x11 else 0x12 + (b - 5)

theorem pageInfo_block (i : TileIx) (b : Fin 16) : ∃ k, pageInfo (tilePage i b) = some ⟨blockClass b, i, k⟩ := by
  rw [pageInfo_tile]
  unfold blockClass
  split
  · exact ⟨_, rfl⟩
  split <;> exact ⟨_, rfl⟩

/-- A register of a tile's block has one reset value on every tile. -/
theorem State.reset_reg_tile (i : TileIx) (b : Fin 16) (off : Nat) (hb : plainClass (blockClass b) = true) :
    State.reset.reg (tilePage i b) off = State.reset.reg (tilePage 0 b) off := by
  obtain ⟨k, hi⟩ := pageInfo_block i b
  obtain ⟨l, h0⟩ := pageInfo_block 0 b
  rw [State.reset_reg, State.reset_reg]
  exact resetOf_like (regAt_like hi h0 hb off)

theorem State.reset_reg_cru (i : TileIx) (k : CruIx) (off : Nat) :
    State.reset.reg (cruPage i k) off = State.reset.reg (cruPage 0 0) off := by
  rw [State.reset_reg, State.reset_reg]
  exact resetOf_like (regAt_cru i k off)

/-- R101, R109: the crucibles' registers. -/
theorem State.reset_cru (i : TileIx) (k : CruIx) :
    State.reset.rf (cruPage i k) Reg.CRU_CTL 15 0 = 4096 ∧ State.reset.rb (cruPage i k) Reg.CRU_CTL 16 = false ∧
      ∀ b : Fin 64, State.reset.rf (cruPage i k) (Reg.SENT_BAND b) 63 32 = 0x7F800000 := by
  unfold State.rf State.rb
  simp only [State.reset_reg_cru i k]
  decide

/-- R140, R203, R205, R310, R335, R476, R478: the registers of a tile's other blocks. -/
theorem State.reset_tile (i : TileIx) :
    State.reset.rf (gatePage i) Reg.GATE_TMO0 31 0 = 100000 ∧ State.reset.rf (gatePage i) Reg.GATE_TMO1 31 0 = 1000000 ∧
    State.reset.rf (gatePage i) Reg.GATE_TMO2 31 0 = 10000000 ∧ State.reset.rf (gatePage i) Reg.GATE_TMO3 31 0 = 0 ∧
    State.reset.rf (poolPage i) Reg.POOL_STAT 3 0 = 15 ∧ State.reset.rf (poolPage i) Reg.POOL_CTL 31 16 = 600 ∧
    State.reset.rb (poolPage i) Reg.POOL_CTL 0 = true ∧
    State.reset.rf (peatPage i) Reg.PEAT_CTL 31 16 = 3600 ∧ State.reset.rf (peatPage i) Reg.PEAT_CTL 39 32 = 64 ∧
    State.reset.rf (riddlePage i) Reg.RID_PART_TMO 31 0 = 100000 ∧ State.reset.rf (cetisPage i) Reg.CETIS_CTL 15 8 = 4 ∧
    State.reset.rf (cetisPage i) Reg.CETIS_CTL 55 48 = 4 ∧ State.reset.rf (pwrPage i) Reg.PWR_ILIM 25 16 = 1000 ∧
    ∀ r : Fin 3, State.reset.rf (pwrPage i) (Reg.MINV r) 11 0 = 4095 := by
  have gate (off : Nat) : State.reset.reg (gatePage i) off = State.reset.reg (gatePage 0) off := State.reset_reg_tile i 8 off (by decide)
  have pool (off : Nat) : State.reset.reg (poolPage i) off = State.reset.reg (poolPage 0) off := State.reset_reg_tile i 5 off (by decide)
  have peat (off : Nat) : State.reset.reg (peatPage i) off = State.reset.reg (peatPage 0) off := State.reset_reg_tile i 6 off (by decide)
  have riddle (off : Nat) : State.reset.reg (riddlePage i) off = State.reset.reg (riddlePage 0) off := State.reset_reg_tile i 7 off (by decide)
  have cetis (off : Nat) : State.reset.reg (cetisPage i) off = State.reset.reg (cetisPage 0) off := State.reset_reg_tile i 9 off (by decide)
  have pwr (off : Nat) : State.reset.reg (pwrPage i) off = State.reset.reg (pwrPage 0) off := State.reset_reg_tile i 10 off (by decide)
  unfold State.rf State.rb
  simp only [gate, pool, peat, riddle, cetis, pwr]
  decide

/-- R359: the registers of the mire's stacks. -/
theorem State.reset_mire : ∀ j : StackIx,
    State.reset.rf (mirePage j) Reg.MIRE_CTL 31 16 = 1440 ∧ State.reset.rf (mirePage j) Reg.MIRE_CTL 39 32 = 32 := by decide

/-- R381, R383: the registers of a sluice die's pours and ladle. -/
theorem State.reset_die : ∀ d : DieIx,
    State.reset.rf (pourPage d) Reg.POUR_CTL 31 16 = 50200 ∧ State.reset.rf (pourPage d) Reg.POUR_CTL 51 48 = 8 ∧
    State.reset.rf (ladlePage d) Reg.LADLE_CTL 11 0 = 2048 ∧ State.reset.rf (ladlePage d) Reg.LADLE_CTL 39 32 = 100 := by decide

/-- R478, R547, R584: the device-global registers. -/
theorem State.reset_global :
    (∀ k : Fin 3, State.reset.rf tidePage (Reg.SRC k) 9 0 = 1000) ∧ State.reset.rf tidePage Reg.TIDE_SAFE 9 0 = 500 ∧
    (∀ p : PolderIx, State.reset.rf polderPage (Reg.RC_CTL p) 15 8 = 20 ∧ State.reset.rf polderPage (Reg.RC_CTL p) 23 16 = 8 ∧
      State.reset.rb polderPage (Reg.RC_CTL p) 24 = true) ∧
    State.reset.rb evlogPage Reg.EVL_CTL 0 = true ∧ State.reset.rf evlogPage Reg.EVL_CTL 15 8 = 16 := by decide

/-- Settles O3: stores and lists are empty, and the registers of each block are one table's. -/
theorem resetState : Obligations.ResetState := by
  unfold Obligations.ResetState
  exact ⟨rfl, by decide, rfl, rfl, fun _ => rfl, fun _ _ => rfl, fun _ _ _ _ => rfl, fun _ => rfl, State.reset_cru, State.reset_tile,
    State.reset_mire, State.reset_die, State.reset_global⟩

end Sys2Proof.Machine
end

section
/-! SUPPORT. The sequencer's own reads of its memory, and the scalar loads and stores (R66, R83, R85, R132, R182, R201). -/
namespace Sys2Proof.Machine
open Sys2Proof

/-! ### Reads that the sequencer makes -/

/-- A read of a crucible's own pool or its tile's peat, counted (R171, R204, R206). -/
def State.countNear (s : State) (tile cru : Nat) (peat : Bool) (off n : Nat) : State :=
  if peat then s.countNearRead tile cru off n else s.countPool tile [(off, n)]

theorem State.countNear_kept (s : State) (tile cru : Nat) (peat : Bool) (off n : Nat) : Kept [.regs] s (s.countNear tile cru peat off n) := by
  unfold State.countNear
  split
  · exact State.countNearRead_kept ..
  · exact State.countPool_kept ..

theorem RegsOutside.countNear (s : State) (tile cru : Nat) (peat : Bool) (off n : Nat) :
    RegsOutside [counter (poolPage tile) 0, counter (poolPage tile) 1, counter (peatPage tile) 0] s (s.countNear tile cru peat off n) := by
  unfold State.countNear
  split
  · exact (RegsOutside.refl _ s).thenBump (peatPage tile) 0 _ (by decide) (by simp)
  · exact (RegsOutside.countPool s tile [(off, n)]).mono (by simp)

theorem State.nearEcc_clean (s : State) (tile cru port : Nat) (peat : Bool) (off : Nat) (poison : Bool) :
    s.nearEcc tile cru port peat off .clean poison = s := by
  unfold State.nearEcc
  split <;> rfl

/-- Bytes read depend on the memories and the gathering buffer. -/
theorem State.nearRead_congr {s u : State} (hp : u.pool = s.pool) (ht : u.peat = s.peat) (hc : u.crus = s.crus)
    (tile cru : Nat) (peat : Bool) (off n : Nat) : u.nearRead tile cru peat off n = s.nearRead tile cru peat off n := by
  unfold State.nearRead State.gbByte State.readPool
  rw [State.cru_congr hc, hp, ht]

/-! ### The checks of a scalar access -/

theorem Task.scalarAddr_eq (x : Task) (aA : BitVec 4) (imm : BitVec 12) :
    x.scalarAddr aA imm = BitVec.ofInt 48 ((x.ra aA).toNat + imm.toInt) := by
  rw [BitVec.ofInt_add, BitVec.ofInt_natCast, BitVec.ofNat_toNat, BitVec.setWidth_eq]
  rfl

theorem State.scalarCheck_lt {s : State} {t : TaskRef} {a : Addr} {n : Nat} {k : AccKind} {code : Nat}
    (h : s.scalarCheck t a n k = some code) : code < 256 := by
  unfold State.scalarCheck at h
  split at h
  · exact Option.some.inj h ▸ by decide
  · exact State.segCheck_lt h

theorem scalarUnit_lt (code : Nat) : scalarUnit code < 8 := by
  unfold scalarUnit
  split <;> decide

section
variable {s : State} {t : TaskRef} {a : Addr} {n : Nat} {k : AccKind} {go : State → Bool → Nat → State}

theorem State.scalarAccess_faulted {code : Nat} (h : s.scalarCheck t a n k = some code) (h0 : (s.taskAt t).faultSeq = none) :
    Faulted t code (scalarUnit code) a (s.taskAt t).pc [] s (s.scalarAccess t a n k go) := by
  unfold State.scalarAccess
  rw [h]
  exact State.taskFault_faulted ⟨code, scalarUnit code, a, (s.taskAt t).pc, (s.taskAt t).seq, 0⟩ h0 (State.scalarCheck_lt h)
    (scalarUnit_lt code) rfl

variable (h : s.scalarCheck t a n k = none)
include h

/-- The place that an access names, in peat or the pool. -/
theorem State.scalarAccess_checked : s.scalarAccess t a n k go =
    (let place := s.physOf t a
     let r : Range := ⟨decide (place.1 = spPeat), place.2, place.2 + n, decide (k = .write)⟩
     if (s.cru t.tile t.cru).conflicts r then s.waitFor t .sb (some (.ranges [r] none)) else go s (decide (place.1 = spPeat)) place.2) := by
  unfold State.scalarAccess
  rw [h]
end

/-! ### Loads -/

section
variable {t : TaskRef} {pred : BitVec 3} {sD : BitVec 5} {aA : BitVec 4} {size : BitVec 2} {sx : Bool} {imm : BitVec 12} {s : State}

/-- A load that passed its checks and met no conflict has left the issue stage. -/
theorem State.loadIssued (s : State) (t : TaskRef) (l : LoadWait) :
    let u := (s.retire t 4).onTask t (fun y => { y with st := .waiting, wait := .load, load := some l })
    IssueFrame t [] [] s u ∧
      u.taskAt t = { s.taskAt t with st := .waiting, wait := .load, pc := s.nextPc t 4, load := some l, aged := false } := by
  intro u
  obtain ⟨⟨hf, -⟩, ht⟩ := State.goTo_retires s t (s.nextPc t 4)
  refine ⟨hf.andTask _, ?_⟩
  show ((s.goTo t (s.nextPc t 4)).onTask t _).taskAt t = _
  rw [State.taskAt_onTask, ht]

/-- The access of a scalar load, and what it does once it may go on. -/
def State.loadAccess (s : State) (t : TaskRef) (sD : BitVec 5) (size : BitVec 2) (sx : Bool) (a : Addr) : State :=
  s.scalarAccess t a (2 ^ size.toNat) .read (fun s' peat off => (s'.retire t 4).onTask t (fun y =>
    { y with st := .waiting, wait := .load, load := some ⟨sD.toNat, 2 ^ size.toNat, sx, peat, off, a, (s.taskAt t).pc⟩ }))

/-- A load of a legal size that reaches its own checks makes its access. -/
theorem Does.ofLoad {a : Addr} {p : State → Prop} (hz : size ≠ 3) (h : s.reaches t 4 pred [sD] = true)
    (ha : a = BitVec.ofInt 48 (((s.taskAt t).ra aA).toNat + imm.toInt)) (hp : p (s.loadAccess t sD size sx a)) :
    Does (.scalarLoad t pred sD aA size sx imm) s p := by
  rw [← Task.scalarAddr_eq] at ha
  subst ha
  exact Does.ofIssue (q := ⟨4, decide (size = 3), pred, [sD]⟩) h (decide_eq_false hz) rfl hp

variable {a : Addr} (h : s.scalarCheck t a (2 ^ size.toNat) .read = none)
include h

theorem State.loadAccess_issued
    (hc : (s.cru t.tile t.cru).conflicts ⟨decide ((s.physOf t a).1 = spPeat), (s.physOf t a).2, (s.physOf t a).2 + 2 ^ size.toNat, false⟩ = false) :
    let u := s.loadAccess t sD size sx a
    IssueFrame t [] [] s u ∧ u.taskAt t = { s.taskAt t with
      st := .waiting, wait := .load, pc := s.nextPc t 4, load := some ⟨sD.toNat, 2 ^ size.toNat, sx, decide ((s.physOf t a).1 = spPeat),
        (s.physOf t a).2, a, (s.taskAt t).pc⟩, aged := false } := by
  intro u
  have hu : u = (s.retire t 4).onTask t _ := (State.scalarAccess_checked h).trans
    (if_neg (by rw [show decide (AccKind.read = .write) = false from rfl, hc]; decide))
  rw [hu]
  exact State.loadIssued s t _

theorem State.loadAccess_waits
    (hc : (s.cru t.tile t.cru).conflicts ⟨decide ((s.physOf t a).1 = spPeat), (s.physOf t a).2, (s.physOf t a).2 + 2 ^ size.toNat, false⟩ = true) :
    s.loadAccess t sD size sx a = s.waitFor t .sb (some (.ranges
      [⟨decide ((s.physOf t a).1 = spPeat), (s.physOf t a).2, (s.physOf t a).2 + 2 ^ size.toNat, false⟩] none)) :=
  (State.scalarAccess_checked h).trans (if_pos hc)
end

/-! ### Stores -/

section
variable {s : State} {t : TaskRef}

theorem State.pool_writePool (s : State) (tile cru off : Nat) (bs : List Byte) :
    (s.writePool tile cru off bs).pool = putBytes s.pool (poolKey tile cru off) bs := rfl

theorem State.poolBad_writePool (s : State) (tile cru off : Nat) {bs : List Byte} (h : bs.length < 4096) :
    (s.writePool tile cru off bs).poolBad = s.poolBad := by
  show clearMarks s.poolBad ((fullLines 4096 off bs.length).map _) = _
  rw [fullLines_short _ _ _ h]
  rfl

/-- The counters of a crucible's page are no counters of its tile's POOL page. -/
theorem counter_cru_ne_pool (t : TaskRef) (k l : Nat) : counter (cruPage t.tile t.cru) k ≠ counter (poolPage t.tile) l := by
  have hc := t.cru.isLt
  unfold counter cruPage poolPage tilePage
  rw [ne_eq, Prod.mk.injEq]
  omega

/-- Bytes fewer than a line stored to the pool, and the task goes on. -/
theorem State.poolStore_retires (s : State) (t : TaskRef) (off n v : Nat) (hn : n < 4096) :
    let u := ((s.countPool t.tile [(off, n)]).writePool t.tile t.cru off (leBytes n v)).retire t 4
    let key := poolKey t.tile t.cru off
    RetiresTo t [.pool, .poolBad] [counter (poolPage t.tile) 0, counter (poolPage t.tile) 1] (s.nextPc t 4) s u ∧
    SetsNone (s.taskAt t) (u.taskAt t) ∧
    (∀ i, i < n → Store.get 0 u.pool (key + i) = BitVec.ofNat 8 (v / 2 ^ (8 * i))) ∧
    (∀ k, (k < key ∨ key + n ≤ k) → Store.get 0 u.pool k = Store.get 0 s.pool k) ∧ u.poolBad = s.poolBad := by
  intro u key
  have hl : (leBytes n v).length = n := leBytes_length n v
  have hk : Kept [.regs] s (s.countPool t.tile [(off, n)]) := State.countPool_kept ..
  have hw : Kept [.pool, .poolBad] (s.countPool t.tile [(off, n)]) _ := State.writePool_kept _ t.tile t.cru off (leBytes n v)
  have hr := (RegsOutside.countPool s t.tile [(off, n)]).thenSame (hw.frame .regs (by decide))
  have hx : Kept [.regs, .tasks, .crus, .pool, .poolBad] s _ := (hk.mono rfl).trans (hw.mono rfl)
  have hp : ((s.countPool t.tile [(off, n)]).writePool t.tile t.cru off (leBytes n v)).pool = putBytes s.pool key (leBytes n v) :=
    (State.pool_writePool ..).trans (congrArg (putBytes · key (leBytes n v)) (hk.frame .pool (by decide)))
  have hb := (State.poolBad_writePool (s.countPool t.tile [(off, n)]) t.tile t.cru off (hl.trans_lt hn)).trans (hk.frame .poolBad (by decide))
  obtain ⟨ht, hs, hf, -⟩ := State.retire_after (t := t) (fs := [.pool, .poolBad]) 4 hr
    (hw.frame .crus (by decide) |>.trans (hk.frame .crus (by decide)))
    (hw.frame .tasks (by decide) |>.trans (hk.frame .tasks (by decide))) hx.frame (by simp [counter_cru_ne_pool])
  have hu : u.pool = putBytes s.pool key (leBytes n v) := (hf .pool (by decide)).trans hp
  refine ⟨ht, hs, fun i hi => ?_, fun k hkey => ?_, (hf .poolBad (by decide)).trans hb⟩
  · rw [hu, Store.get_putBytes, dif_pos ⟨by omega, by omega⟩, leBytes_get, Nat.add_sub_cancel_left]
  · rw [hu, Store.get_putBytes, dif_neg (by omega)]

/-- Bytes stored to peat through the gathering buffer, and the task goes on. -/
theorem State.peatStore_retires (s : State) (t : TaskRef) (off : Nat) (bs : List Byte) :
    let v := s.nearWrite t.tile t.cru true off bs
    let u := v.retire t 4
    RetiresTo t [.peat, .peatBad] (gbRegs t.tile) (s.nextPc t 4) s u ∧ SetsNone (s.taskAt t) (u.taskAt t) ∧ u.peat = v.peat ∧
      (u.cru t.tile t.cru).gb = (v.cru t.tile t.cru).gb := by
  intro v u
  have hk : Kept [.regs, .peat, .peatBad, .crus] s v := State.crucibleWritePeat_kept ..
  obtain ⟨hr, hn, hf, -, hg⟩ := GbKept.retire4 (fs := [.peat, .peatBad]) (State.crucibleWritePeat_gb _ s t.tile t.cru off bs)
    (RegsOutside.refl [] v) rfl (hk.frame .tasks (by decide)) (hk.mono rfl).frame (by simp)
  rw [List.append_nil] at hr
  exact ⟨hr, hn, hf .peat (by decide), hg⟩

/-- The access of a scalar store, and what it does once it may go on. -/
def State.storeAccess (s : State) (t : TaskRef) (sS : BitVec 5) (size : BitVec 2) (a : Addr) : State :=
  s.scalarAccess t a (2 ^ size.toNat) .write (fun s' peat off =>
    if s'.nearWritable t.tile t.cru peat off (2 ^ size.toNat) then
      ((if peat then s' else s'.countPool t.tile [(off, 2 ^ size.toNat)]).nearWrite t.tile t.cru peat off
        (leBytes (2 ^ size.toNat) ((s.taskAt t).rs sS).toNat)).retire t 4
    else s')

/-- A store of a legal size that reaches its own checks makes its access. -/
theorem Does.ofStore {pred : BitVec 3} {sS : BitVec 5} {aA : BitVec 4} {size : BitVec 2} {imm : BitVec 12} {a : Addr} {p : State → Prop}
    (hz : size ≠ 3) (h : s.reaches t 4 pred [sS] = true) (ha : a = BitVec.ofInt 48 (((s.taskAt t).ra aA).toNat + imm.toInt))
    (hp : p (s.storeAccess t sS size a)) : Does (.scalarStore t pred sS aA size false imm) s p := by
  rw [← Task.scalarAddr_eq] at ha
  subst ha
  exact Does.ofIssue (q := ⟨4, decide (size = 3) || false, pred, [sS]⟩) h (by rw [decide_eq_false hz]; rfl) rfl hp

/-- A store that may be made is made. -/
theorem State.storeAccess_made {sS : BitVec 5} {size : BitVec 2} {a : Addr} {peat : Bool}
    (h : s.scalarCheck t a (2 ^ size.toNat) .write = none) (hp : decide ((s.physOf t a).1 = spPeat) = peat)
    (hc : (s.cru t.tile t.cru).conflicts ⟨peat, (s.physOf t a).2, (s.physOf t a).2 + 2 ^ size.toNat, true⟩ = false)
    (hw : s.nearWritable t.tile t.cru peat (s.physOf t a).2 (2 ^ size.toNat) = true) :
    s.storeAccess t sS size a = ((if peat then s else s.countPool t.tile [((s.physOf t a).2, 2 ^ size.toNat)]).nearWrite t.tile t.cru peat
      (s.physOf t a).2 (leBytes (2 ^ size.toNat) ((s.taskAt t).rs sS).toNat)).retire t 4 := by
  subst hp
  exact (State.scalarAccess_checked h).trans
    ((if_neg (by rw [show decide (AccKind.write = .write) = true from rfl, hc]; decide)).trans (if_pos hw))

end

/-! ### The data of a load -/

/-- A register loaded: the task is READY if it waited. -/
def Task.loaded (x : Task) (l : LoadWait) (v : W32) : Task :=
  let y : Task := { x.setRs (BitVec.ofNat 5 l.dst) v with load := none }
  if y.st = .waiting then { y with st := .ready, wait := .none } else y

theorem Task.loaded_fields (x : Task) (l : LoadWait) (v : W32) :
    (∀ r, (x.loaded l v).rs r = if r = BitVec.ofNat 5 l.dst ∧ BitVec.ofNat 5 l.dst ≠ 0 then v else x.rs r) ∧
      (x.loaded l v).load = none ∧ (x.loaded l v).pc = x.pc ∧ (x.loaded l v).st = if x.st = .waiting then .ready else x.st := by
  have hset : (x.setRs (BitVec.ofNat 5 l.dst) v).st = x.st ∧ (x.setRs (BitVec.ofNat 5 l.dst) v).pc = x.pc := by
    unfold Task.setRs
    split <;> exact ⟨rfl, rfl⟩
  unfold Task.loaded
  by_cases hw : x.st = .waiting
  · rw [if_pos (hset.1.trans hw), if_pos hw]
    exact ⟨fun r => Task.rs_setRs x _ v r, rfl, hset.2, rfl⟩
  · rw [if_neg (fun c => hw (hset.1.symm.trans c)), if_neg hw]
    exact ⟨fun r => Task.rs_setRs x _ v r, rfl, hset.2, hset.1⟩

/-- Data without an error reaches the register. -/
theorem exec_scalarLoadReturn_clean {t : TaskRef} {l : LoadWait} {s : State} (hl : (s.taskAt t).load = some l)
    (hr : s.nearReady t.tile t.cru l.peat l.off l.size = true) (hb : s.nearPoisoned t.tile t.cru l.peat l.off l.size = false) :
    let s1 := s.countNear t.tile t.cru l.peat l.off l.size
    exec (.scalarLoadReturn t .clean) s = .next (s1.onTask t (fun y => y.loaded l
      (extendLoad l.size l.sx (leNat (s.nearRead t.tile t.cru l.peat l.off l.size))))) := by
  intro s1
  have hk : Kept [.regs] s s1 := State.countNear_kept ..
  rw [← State.nearRead_congr (hk.frame .pool (by decide)) (hk.frame .peat (by decide)) (hk.frame .crus (by decide))]
  show execScalarLoadReturn t .clean s = _
  unfold execScalarLoadReturn
  simp only [State.task_eq, hl, hr, hb, Bool.not_true, Bool.false_eq_true, if_false, State.nearEcc_clean, reduceCtorEq]
  rfl

theorem does_scalarLoadReturn_clean {t : TaskRef} {l : LoadWait} {s : State} (hl : (s.taskAt t).load = some l)
    (hr : s.nearReady t.tile t.cru l.peat l.off l.size = true) (hb : s.nearPoisoned t.tile t.cru l.peat l.off l.size = false) :
    let x := s.taskAt t
    let v := leNat (s.nearRead t.tile t.cru l.peat l.off l.size)
    Does (.scalarLoadReturn t .clean) s (fun u =>
      Frame [.regs, .tasks] s u ∧ TasksOutside t s u ∧
      RegsOutside [counter (poolPage t.tile) 0, counter (poolPage t.tile) 1, counter (peatPage t.tile) 0] s u ∧
      (∀ r, (u.taskAt t).rs r = if r = BitVec.ofNat 5 l.dst ∧ BitVec.ofNat 5 l.dst ≠ 0 then
          (if l.sx then BitVec.ofInt 32 (toSigned (8 * l.size) v) else BitVec.ofNat 32 v) else x.rs r) ∧
      (u.taskAt t).load = none ∧ (u.taskAt t).pc = x.pc ∧
      (u.taskAt t).st = (if x.st = .waiting then .ready else x.st)) := by
  intro x v
  have hk : Kept [.regs] s (s.countNear t.tile t.cru l.peat l.off l.size) := State.countNear_kept ..
  have ht := hk.frame .tasks (by decide)
  refine ⟨_, exec_scalarLoadReturn_clean hl hr hb, ?_, ?_, ?_, ?_⟩
  · exact (hk.frame.mono rfl).trans ((State.setTask_kept ..).mono rfl).frame
  · exact (TasksOutside.of_tasks ht).trans (TasksOutside.setTask _ t _)
  · exact (RegsOutside.countNear s _ _ _ _ _).trans (RegsOutside.of_regs rfl)
  · rw [State.taskAt_onTask, State.taskAt_congr ht]
    exact Task.loaded_fields x l _

/-- Settles O13: a load and a store by what their access does, and the return of a load by the register that it writes. -/
theorem scalarMemory : Obligations.ScalarMemory := by
  unfold Obligations.ScalarMemory
  refine ⟨fun t pred sD aA size sx imm s hz h => ?_, fun t pred sS aA size imm s hz h => ?_,
    fun t l s hl hr hb => does_scalarLoadReturn_clean hl hr hb⟩
  · intro x n a place peat clash
    refine ⟨fun hs hc => Does.ofLoad hz h rfl (State.loadAccess_issued hs hc), fun hs hc => Does.ofLoad hz h rfl ?_,
      fun code hs h0 => Does.ofLoad hz h rfl (State.scalarAccess_faulted hs h0)⟩
    rw [State.loadAccess_waits hs hc]
    exact State.waitFor_frame ..
  · intro x n a place peat key hs hc hw
    have hn : 2 ^ size.toNat < 4096 := lt_of_le_of_lt (Nat.pow_le_pow_right (by decide) (Nat.le_of_lt_succ size.isLt)) (by decide)
    refine ⟨fun hp => Does.ofStore hz h rfl ?_, fun hp => Does.ofStore hz h rfl ?_⟩
    · rw [State.storeAccess_made hs hp (hp ▸ hc) (hp ▸ hw)]
      exact State.poolStore_retires s t place.2 n _ hn
    · rw [State.storeAccess_made hs hp (hp ▸ hc) (hp ▸ hw)]
      exact State.peatStore_retires s t place.2 _

end Sys2Proof.Machine
end

section
/-! SUPPORT. Control words of tasks (R70, R106, R114). -/
namespace Sys2Proof.Machine
open Sys2Proof

/-! ### What a write of TASK_CTL starts -/

/-- The writable fields of TASK_CTL: the three triggers and PRIO. -/
theorem taskCtl_mask (t : TaskRef) :
    accMask (cruPage t.tile t.cru) (Reg.TASK_CTL t.task) .rw ||| accMask (cruPage t.tile t.cru) (Reg.TASK_CTL t.task) .sl |||
      accMask (cruPage t.tile t.cru) (Reg.TASK_CTL t.task) .gw = 0x1F ∧ (regAt (cruPage t.tile t.cru) (Reg.TASK_CTL t.task)).isSome = true := by
  simp only [accMask_like (regAt_cru t.tile t.cru _), regAt_cru t.tile t.cru]
  generalize t.task = k
  revert k
  decide

theorem taskCtl_offset (t : TaskRef) :
    Reg.TASK_CTL t.task % 8 = 0 ∧ Reg.TASK_CTL t.task ≠ Reg.EVT_EN ∧ Reg.TASK_CTL t.task < 4096 ∧
      Reg.TASK_CTL t.task ≠ Reg.TASK_ENTRY t.task := by
  have hk := t.task.isLt
  unfold Reg.TASK_CTL Reg.EVT_EN Reg.TASK_ENTRY
  omega

/-- One trigger forced among three. -/
theorem WEff.fires_forced (g : State) (off : Nat) (v old : W64) {i j : Nat} (hj : j < 3) :
    (WEff.mk g off 0x1F (setFld v 2 0 (2 ^ i)) old).fires j = decide (i = j) := by
  have hm : (0x1F : W64).getLsbD j = true := by
    revert j
    decide
  unfold WEff.fires fbit
  rw [BitVec.getLsbD_and, hm, setFld_bit _ _ _ _ _ (by decide), if_pos ⟨by omega, by omega⟩, Nat.sub_zero, Nat.testBit_two_pow,
    Bool.true_and]

/-- The task operation of a trigger. -/
def State.trigger (s : State) (t : TaskRef) : Nat → State
  | 0 => s.startTask t.tile t.cru t.task
  | 1 => s.stopTask t.tile t.cru t.task
  | _ => s.resetTask t.tile t.cru t.task

theorem taskCtlHook_forced (g : State) (off : Nat) (v old : W64) (t : TaskRef) {i : Nat} (hi : i < 3) :
    taskCtlHook ⟨g, off, 0x1F, setFld v 2 0 (2 ^ i), old⟩ t.tile t.cru t.task =
      (g.zeroBits (cruPage t.tile t.cru) (Reg.TASK_CTL t.task) 7).trigger t i := by
  unfold taskCtlHook
  simp only [WEff.fires_forced g off v old (show 0 < 3 by decide), WEff.fires_forced g off v old (show 1 < 3 by decide),
    WEff.fires_forced g off v old (show 2 < 3 by decide)]
  obtain rfl | rfl | rfl : i = 0 ∨ i = 1 ∨ i = 2 := by omega
  all_goals rfl

/-- An admitted control word is stored, and then its trigger acts. -/
theorem State.taskCtlWrite_admits {s : State} {who : Requester} {t : TaskRef} (v : W64) {i : Nat} (hi : i < 3)
    (h : s.admits who (cruPage t.tile t.cru) (Reg.TASK_CTL t.task) = true) :
    ∃ g : State, Writes (cruPage t.tile t.cru) (Reg.TASK_CTL t.task) [] [] s g ∧ s.taskCtlWrite who t v i = g.trigger t i := by
  have ht := t.tile.isLt
  have hc := t.cru.isLt
  obtain ⟨hm, hr⟩ := taskCtl_mask t
  obtain ⟨h8, he, hb, -⟩ := taskCtl_offset t
  obtain ⟨g, hg, -, hw⟩ := State.writeCore_writes (setFld v 2 0 (2 ^ i)) h h8 he hb hr (by rw [cruPage_eq]; omega) (by rw [cruPage_eq]; omega)
    (by rw [cruPage_eq]; omega)
  refine ⟨_, ?_, (congrArg (taskCtlHook · t.tile t.cru t.task) hw).trans (by rw [hm]; exact taskCtlHook_forced g _ v _ t hi)⟩
  rw [State.zeroBits_cru]
  exact hg.more ((State.setReg_kept ..).mono (m := [.regs]) rfl).frame (RegsOutside.setReg g _ _ _ hb) (by decide) (by simp)

section
variable {s g : State} {t : TaskRef} (h : Writes (cruPage t.tile t.cru) (Reg.TASK_CTL t.task) [] [] s g)
include h

theorem Writes.taskAt_eq (q : TaskRef) : g.taskAt q = s.taskAt q := State.taskAt_congr (h.1 .tasks (by decide)) q

theorem Writes.poolOn_eq : g.poolOn t.tile t.cru = s.poolOn t.tile t.cru := by
  have ht := t.tile.isLt
  have hc := t.cru.isLt
  unfold State.poolOn State.dom State.rf State.rb
  rw [h.2 (pwrPage t.tile) Reg.PWR_DOM (by decide) (by simp [cruPage, pwrPage, tilePage]; omega),
    h.2 (poolPage t.tile) Reg.POOL_STAT (by decide) (by simp [cruPage, poolPage, tilePage]; omega)]

theorem Writes.entry_eq : g.rf (cruPage t.tile t.cru) (Reg.TASK_ENTRY t.task) 47 0 = s.rf (cruPage t.tile t.cru) (Reg.TASK_ENTRY t.task) 47 0 := by
  have hk := t.task.isLt
  obtain ⟨-, -, -, hn⟩ := taskCtl_offset t
  exact h.2.rf 47 0 (by unfold Reg.TASK_ENTRY; omega) (by simp [hn.symm])

/-- A control word that changes a task's context. -/
theorem Writes.thenTask (y : Task) :
    let u := g.setTask t.tile t.cru t.task y
    Writes (cruPage t.tile t.cru) (Reg.TASK_CTL t.task) [.tasks] [] s u ∧ TasksOutside t s u ∧ u.taskAt t = y :=
  ⟨h.more ((State.setTask_kept ..).mono (m := [.tasks]) rfl).frame (RegsOutside.of_regs (l := []) rfl) (by decide) (by simp),
    (TasksOutside.of_tasks (h.1 .tasks (by decide))).trans (TasksOutside.setTask g t y), State.taskAt_setTask_same g t y⟩

/-- A control word in a state that does not admit it: WERR and its event, and no task changes. -/
theorem Writes.thenWerr :
    let u := g.werr t.tile t.cru
    Writes (cruPage t.tile t.cru) (Reg.TASK_CTL t.task) [.out, .fns] ((cruPage t.tile t.cru, Reg.CRU_STAT) :: evtRegs (cruPage t.tile t.cru)) s u ∧
      u.rb (cruPage t.tile t.cru) Reg.CRU_STAT 16 = true ∧ Raised u (cruPage t.tile t.cru) 3 := by
  intro u
  have hr : RegsOutside ((cruPage t.tile t.cru, Reg.CRU_STAT) :: evtRegs (cruPage t.tile t.cru)) g u :=
    ((RegsOutside.refl _ g).thenSetRb _ Reg.CRU_STAT 16 true (by decide) (by simp)).thenRaise _ 3 (fun x hx => List.mem_cons_of_mem _ hx)
  refine ⟨h.more ((State.werr_kept g _ _).mono (m := [.regs, .out, .fns]) rfl).frame hr (by decide) ?_, ?_, Raised.raise _ _ 3 (by decide)⟩
  · exact fun x hx => List.mem_cons_of_mem _ hx
  · show (State.raise _ _ 3).rb _ Reg.CRU_STAT 16 = true
    unfold State.rb
    rw [State.reg_raise_other _ _ _ _ _ (by decide) (by simp [evtRegs_eq, Reg.CRU_STAT])]
    exact (congrArg (fbit · 16) (State.reg_setReg_same ..)).trans (fbit_setBit_same _ 16 true (by decide))
end

/-- The context and the records that RESET leaves (R70, R114). -/
theorem State.resetTask_cleared {s : State} {t : TaskRef} (h : (s.taskAt t).st = .faulted ∨ (s.taskAt t).st = .halted) :
    let pg := cruPage t.tile t.cru
    let rs := [(pg, Reg.TASK_FAULT t.task), (pg, Reg.TASK_FADDR t.task), (pg, Reg.TASK_FPC t.task), (pg, Reg.TASK_FLAGS t.task)]
    let u := s.resetTask t.tile t.cru t.task
    Frame [.regs, .tasks] s u ∧ RegsOutside rs s u ∧ TasksOutside t s u ∧ u.taskAt t = { st := .idle, pc := (s.taskAt t).pc } ∧
      u.reg pg (Reg.TASK_FAULT t.task) = 0 ∧ u.reg pg (Reg.TASK_FADDR t.task) = 0 ∧ u.reg pg (Reg.TASK_FPC t.task) = 0 ∧
      u.reg pg (Reg.TASK_FLAGS t.task) = 0 := by
  intro pg rs u
  have hu : u = (((((s.setTask t.tile t.cru t.task { idleTask (s.taskAt t) with faultSeq := none }).setReg pg (Reg.TASK_FAULT t.task) 0).setReg pg
      (Reg.TASK_FADDR t.task) 0).setReg pg (Reg.TASK_FPC t.task) 0).setReg pg (Reg.TASK_FLAGS t.task) 0) :=
    if_pos (by
      show (decide ((s.taskAt t).st = .faulted) || decide ((s.taskAt t).st = .halted)) = true
      simpa using h)
  have hk := t.task.isLt
  have off : Reg.TASK_FAULT t.task < 4096 ∧ Reg.TASK_FADDR t.task < 4096 ∧ Reg.TASK_FPC t.task < 4096 ∧ Reg.TASK_FLAGS t.task < 4096 := by
    unfold Reg.TASK_FAULT Reg.TASK_FADDR Reg.TASK_FPC Reg.TASK_FLAGS
    omega
  obtain ⟨b1, b2, b3, b4⟩ := off
  rw [hu]
  clear_value u
  subst hu
  refine ⟨?_, ?_, ?_, ?_, ?_, ?_, ?_, State.reg_setReg_same ..⟩
  · exact ((((State.setTask_kept ..).mono (m := [.regs, .tasks]) rfl).step (State.setReg_kept ..) rfl).step (State.setReg_kept ..) rfl
      |>.step (State.setReg_kept ..) rfl |>.step (State.setReg_kept ..) rfl).frame
  · exact ((((RegsOutside.of_regs rfl).thenSetReg _ _ _ b1 (by simp [rs])).thenSetReg _ _ _ b2 (by simp [rs])).thenSetReg _ _ _ b3
      (by simp [rs])).thenSetReg _ _ _ b4 (by simp [rs])
  · exact TasksOutside.setTask s t _
  · exact State.taskAt_setTask_same ..
  · simp [State.reg_setReg, b1, b2, b3, b4]
  · simp [State.reg_setReg, b2, b3, b4]
  · simp [State.reg_setReg, b3, b4]

end Sys2Proof.Machine
end

section
/-! SUPPORT. Work in its queue: what a change of one instruction's work item leaves, and what a unit reads afterwards (R86, R193). -/
namespace Sys2Proof.Machine
open Sys2Proof

theorem Crucible.queue_mapWork (c : Crucible) (u q : UnitKind) (iid : Nat) (f : Work → Work) :
    (c.mapWork u iid f).queue q = if q = u then (c.queue u).map (fun w => if w.iid = iid then f w else w) else c.queue q :=
  Crucible.queue_setQueue ..

theorem Crucible.mapWork_rest (c : Crucible) (u : UnitKind) (iid : Nat) (f : Work → Work) :
    (c.mapWork u iid f).sb = c.sb ∧ (c.mapWork u iid f).gb = c.gb ∧ (c.mapWork u iid f).icache = c.icache ∧
      (c.mapWork u iid f).nextIid = c.nextIid := Crucible.setQueue_rest ..

section
variable (s : State) (t : TaskRef) (u : UnitKind) (iid : Nat) (f : Work → Work)

theorem State.cru_mapWork : (s.mapWork t u iid f).cru t.tile t.cru = (s.cru t.tile t.cru).mapWork u iid f := State.cru_setCru_same ..

theorem CrusOutside.mapWork : CrusOutside t s (s.mapWork t u iid f) := CrusOutside.setCru s t _

/-- A change of a work item is seen at its own crucible's queues alone. -/
theorem State.queue_mapWork (i : TileIx) (k : CruIx) (q : UnitKind) : ((s.mapWork t u iid f).cru i k).queue q =
    if (i, k) = (t.tile, t.cru) ∧ q = u then ((s.cru i k).queue u).map (fun w => if w.iid = iid then f w else w) else (s.cru i k).queue q := by
  by_cases h : (i, k) = (t.tile, t.cru)
  · obtain ⟨rfl, rfl⟩ := Prod.mk.injEq .. ▸ h
    rw [State.cru_mapWork, Crucible.queue_mapWork]
    simp
  · rw [CrusOutside.mapWork s t u iid f i k h, if_neg (fun c => h c.1)]
end

theorem State.again_t (s : State) (c : UCtx) (u : UnitKind) : (s.again c u).t = c.t := by
  unfold State.again
  split <;> rfl

/-- What a unit reads depends on the memories, their marks and its crucible's gathering buffer. -/
theorem State.capture_congr {s v : State} {t : TaskRef} (hp : v.pool = s.pool) (ht : v.peat = s.peat) (hpb : v.poolBad = s.poolBad)
    (htb : v.peatBad = s.peatBad) (hg : (v.cru t.tile t.cru).gb = (s.cru t.tile t.cru).gb) (mem off n : Nat) :
    v.capture t mem off n = s.capture t mem off n := by
  unfold State.capture State.memRead State.memPoisoned State.nearRead State.gbByte State.readPool State.peatPoisoned State.poolPoisoned
  rw [hp, ht, hpb, htb, hg]

theorem State.capture_mapWork (s : State) (t : TaskRef) (u : UnitKind) (iid : Nat) (f : Work → Work) (mem off n : Nat) :
    (s.mapWork t u iid f).capture t mem off n = s.capture t mem off n :=
  State.capture_congr (s := s) (v := s.mapWork t u iid f) rfl rfl rfl rfl
    ((congrArg Crucible.gb (State.cru_mapWork s t u iid f)).trans (Crucible.mapWork_rest ..).2.1) mem off n

/-- An instruction without slots to claim holds what it held, and waits for nothing. -/
theorem State.claimWork_nil {s : State} {c : UCtx} (u : UnitKind) (h : s.slotNeeds c = []) :
    s.claimWork c u = (true, s.mapWork c.t u c.w.iid (fun w => { w with claims := c.w.claims, since := none, want := none })) := by
  unfold State.claimWork
  rw [h]
  rfl

/-- An entry of the scoreboard given up: the tasks of the crucible are re-evaluated (R70, R81). -/
theorem State.freeEntry_spec (s : State) (t : TaskRef) (e : SbEntry) :
    let u := s.freeEntry t.tile t.cru e
    Frame [.crus, .tasks] s u ∧ CrusOutside t s u ∧
      u.cru t.tile t.cru = { s.cru t.tile t.cru with sb := (s.cru t.tile t.cru).sb.erase e } ∧
      ∀ q : TaskRef, u.taskAt q =
        if (q.tile, q.cru) = (t.tile, t.cru) then (s.taskAt q).rewait (u.cru t.tile t.cru) else s.taskAt q := by
  intro u
  have hf : Frame [.crus, .tasks] s u := ((State.freeEntry_kept ..).mono rfl).frame
  obtain ⟨y, hy, hu⟩ : ∃ y, y = { s.cru t.tile t.cru with sb := (s.cru t.tile t.cru).sb.erase e } ∧
      u = (s.setCru t.tile t.cru y).wakeTasks t.tile t.cru := ⟨_, rfl, rfl⟩
  obtain ⟨wc, -, wt⟩ := State.wakeTasks_spec (s.setCru t.tile t.cru y) t.tile t.cru
  have hc : u.cru t.tile t.cru = y := by rw [hu, State.cru_congr wc, State.cru_setCru_same]
  refine ⟨hf, hu ▸ (CrusOutside.setCru s t y).trans (CrusOutside.of_crus wc), hc.trans hy, fun q => ?_⟩
  rw [hc, hu, wt q, State.cru_setCru_same]
  rfl

/-- An entry given up after a change of work items of its crucible: the queues are those of the change. -/
theorem State.freeEntry_after {s v : State} {t : TaskRef} (e : SbEntry) (hf : Frame [.crus] s v) (ho : CrusOutside t s v)
    (hsb : (v.cru t.tile t.cru).sb = (s.cru t.tile t.cru).sb) :
    let u := v.freeEntry t.tile t.cru e
    Frame [.crus, .tasks] s u ∧ CrusOutside t s u ∧ (u.cru t.tile t.cru).sb = (s.cru t.tile t.cru).sb.erase e ∧
      (∀ q : TaskRef, u.taskAt q =
        if (q.tile, q.cru) = (t.tile, t.cru) then (s.taskAt q).rewait (u.cru t.tile t.cru) else s.taskAt q) ∧
      ∀ k, (u.cru t.tile t.cru).queue k = (v.cru t.tile t.cru).queue k := by
  intro u
  obtain ⟨gf, go, gc, gt⟩ := State.freeEntry_spec v t e
  refine ⟨(hf.mono rfl).trans gf, ho.trans go, ?_, fun q => ?_, fun k => ?_⟩
  · rw [gc, hsb]
  · rw [gt q, State.taskAt_congr (hf .tasks (by decide))]
  · rw [gc]
    cases k <;> rfl

end Sys2Proof.Machine
end

section
/-! SUPPORT. Events that move tasks: the end of a drain, aging, a filled line of the instruction cache and a freed entry of the
scoreboard (R65, R68, R70, R71, R86, R185). -/
namespace Sys2Proof.Machine
open Sys2Proof

/-! ### The end of a drain (R70, R71, R185) -/

section
variable {s : State} {t : TaskRef} (hd : (s.taskAt t).st = .draining) (hw : (s.cru t.tile t.cru).inflight t.task = 0)
  (hl : (s.taskAt t).load = none)
include hd hw hl

theorem State.drainEnd_over : s.drainEnd t = (match (s.taskAt t).after with
    | .idle => if s.gbReady t.tile t.cru then (s.gbFlushAll t.tile t.cru).setTask t.tile t.cru t.task (idleTask (s.taskAt t)) else s
    | st => s.setTask t.tile t.cru t.task { s.taskAt t with st := st, wait := .none }) := by
  have hc : (decide ((s.taskAt t).st = .draining) && decide ((s.cru t.tile t.cru).inflight t.task = 0) && (s.taskAt t).load.isNone) = true := by
    simp [hd, hw, hl]
  exact if_pos hc

theorem does_drainEnd (ha : (s.taskAt t).after ≠ .idle) : Does (.drainEnd t) s (fun u =>
    Frame [.tasks] s u ∧ TasksOutside t s u ∧ u.taskAt t = { s.taskAt t with st := (s.taskAt t).after, wait := .none }) := by
  refine ⟨s.setTask t.tile t.cru t.task { s.taskAt t with st := (s.taskAt t).after, wait := .none }, ?_,
    ((State.setTask_kept ..).mono rfl).frame, TasksOutside.setTask s t _, State.taskAt_setTask_same ..⟩
  refine congrArg Host.Outcome.next ((State.drainEnd_over hd hw hl).trans ?_)
  generalize (s.taskAt t).after = st at *
  cases st
  case idle => exact absurd rfl ha
  all_goals rfl

theorem does_drainEnd_idle (ha : (s.taskAt t).after = .idle) (hg : s.gbReady t.tile t.cru = true) : Does (.drainEnd t) s (fun u =>
    Frame [.regs, .tasks, .crus, .peat, .peatBad] s u ∧ RegsOutside (gbRegs t.tile) s u ∧ TasksOutside t s u ∧ CrusOutside t s u ∧
      u.taskAt t = { st := .idle, pc := (s.taskAt t).pc, faultSeq := (s.taskAt t).faultSeq.map (fun _ => 0) } ∧
      u.cru t.tile t.cru = { s.cru t.tile t.cru with gb := [] } ∧ u.peat = (s.gbFlushAll t.tile t.cru).peat) := by
  have hk : Kept [.regs, .crus, .peat, .peatBad] s (s.gbFlushAll t.tile t.cru) := (State.gbFlushAll_kept ..).mono rfl
  have gb := State.gbFlushAll_gb s t.tile t.cru
  refine ⟨(s.gbFlushAll t.tile t.cru).setTask t.tile t.cru t.task (idleTask (s.taskAt t)), ?_, ?_, ?_, ?_, ?_, ?_, ?_, rfl⟩
  · refine congrArg Host.Outcome.next ((State.drainEnd_over hd hw hl).trans ?_)
    rw [ha, hg]
    rfl
  · exact (hk.mono (m := [.regs, .tasks, .crus, .peat, .peatBad]) rfl |>.step (State.setTask_kept ..) rfl).frame
  · exact gb.regs.trans (RegsOutside.of_regs rfl)
  · exact (TasksOutside.of_tasks (hk.frame .tasks (by decide))).trans (TasksOutside.setTask _ t _)
  · exact fun i k n => gb.other i k (fun c => cruKey_ne n c.symm)
  · exact State.taskAt_setTask_same ..
  · show (s.gbFlushAll t.tile t.cru).cru t.tile t.cru = _
    rw [gb.own, State.gbFlushAll_empty]
end

/-! ### Aging (R68) -/

theorem does_agePromotion {s : State} {t : TaskRef} (hr : (s.taskAt t).st = .ready)
    (hl : s.rf (cruPage t.tile t.cru) Reg.CRU_CTL 15 0 ≠ 0) :
    Does (.agePromotion t) s (fun u => Frame [.tasks] s u ∧ TasksOutside t s u ∧ u.taskAt t = { s.taskAt t with aged := true }) := by
  have hc : (decide ((s.taskAt t).st = .ready) && decide (s.rf (cruPage t.tile t.cru) Reg.CRU_CTL 15 0 ≠ 0)) = true := by simp [hr, hl]
  exact ⟨_, if_pos hc, ((State.setTask_kept ..).mono rfl).frame, TasksOutside.setTask s t _, State.taskAt_setTask_same ..⟩

/-! ### The instruction cache (R65) -/

/-- A cache with a line put in last: with 256 lines held the oldest leaves. -/
def cacheWith (l : List Nat) (line : Nat) : List Nat :=
  let kept := l.filter (· ≠ line)
  (if 256 ≤ kept.length then kept.drop 1 else kept) ++ [line]

theorem cacheWith_contains (l : List Nat) (line : Nat) : (cacheWith l line).contains line = true := by
  unfold cacheWith
  simp

theorem cacheWith_length (l : List Nat) (line : Nat) : (cacheWith l line).length ≤ max 256 l.length := by
  have h : (l.filter (· ≠ line)).length ≤ l.length := List.length_filter_le ..
  unfold cacheWith
  dsimp only
  split
  · rw [List.length_append, List.length_drop, List.length_singleton]
    omega
  · rw [List.length_append, List.length_singleton]
    omega

/-- The place of an address depends on the segment registers of the task's own crucible page. -/
theorem State.physOf_outside {l : List (Nat × Nat)} {s u : State} {t : TaskRef} (h : RegsOutside l s u)
    (hn : ∀ x ∈ l, x.1 ≠ cruPage t.tile t.cru) (a : Addr) : u.physOf t a = s.physOf t a := by
  have hk := t.task.isLt
  have hg : segOf a < 4 := by
    unfold segOf
    have := a.isLt
    omega
  have e (off : Nat) (ho : off < 4096) : u.reg (cruPage t.tile t.cru) off = s.reg (cruPage t.tile t.cru) off :=
    h _ _ ho (fun c => hn _ c rfl)
  unfold State.physOf State.segment
  dsimp only
  rw [e _ (by unfold Reg.SEG_BASE; omega)]

theorem State.icLine_countNear (s : State) (t : TaskRef) (peat : Bool) (off n : Nat) (a : Addr) :
    (s.countNear t.tile t.cru peat off n).icLine t a = s.icLine t a := by
  have hc := t.cru.isLt
  have hp := State.physOf_outside (t := t) (RegsOutside.countNear s t.tile t.cru peat off n)
    (by simp [counter, cruPage, poolPage, peatPage, tilePage]; omega) a
  unfold State.icLine
  rw [hp]

section
variable {s : State} {t : TaskRef}

/-- A line without an error enters the cache, and its task is READY. -/
theorem exec_icacheFill_clean (hw : (s.taskAt t).st = .waiting) (hf : (s.taskAt t).wait = .fetch)
    (hr : s.nearReady t.tile t.cru (decide ((s.physOf t (s.taskAt t).pc).1 = spPeat)) ((s.physOf t (s.taskAt t).pc).2 / 256 * 256) 256 = true)
    (hb : s.nearPoisoned t.tile t.cru (decide ((s.physOf t (s.taskAt t).pc).1 = spPeat)) ((s.physOf t (s.taskAt t).pc).2 / 256 * 256) 256 = false) :
    let s1 := s.countNear t.tile t.cru (decide ((s.physOf t (s.taskAt t).pc).1 = spPeat)) ((s.physOf t (s.taskAt t).pc).2 / 256 * 256) 256
    exec (.icacheFill t .clean) s = .next ((s1.setCru t.tile t.cru
      { s1.cru t.tile t.cru with icache := cacheWith (s1.cru t.tile t.cru).icache (s1.icLine t (s.taskAt t).pc) }).setTask t.tile t.cru t.task
      { s.taskAt t with st := .ready, wait := .none }) := by
  dsimp only
  generalize hp : s.physOf t (s.taskAt t).pc = place at hr hb ⊢
  obtain ⟨sp, ph⟩ := place
  show execIcacheFill t .clean s = _
  unfold execIcacheFill
  simp only [State.task_eq, hw, hf, hp, hr, hb, decide_true, Bool.and_self, Bool.not_true, Bool.not_false, Bool.false_eq_true, if_false, if_true,
    State.nearEcc_clean, reduceCtorEq]
  rfl

theorem does_icacheFill (hw : (s.taskAt t).st = .waiting) (hf : (s.taskAt t).wait = .fetch)
    (hr : s.nearReady t.tile t.cru (decide ((s.physOf t (s.taskAt t).pc).1 = spPeat)) ((s.physOf t (s.taskAt t).pc).2 / 256 * 256) 256 = true)
    (hb : s.nearPoisoned t.tile t.cru (decide ((s.physOf t (s.taskAt t).pc).1 = spPeat)) ((s.physOf t (s.taskAt t).pc).2 / 256 * 256) 256 = false) :
    Does (.icacheFill t .clean) s (fun u =>
      Frame [.regs, .tasks, .crus] s u ∧ TasksOutside t s u ∧ CrusOutside t s u ∧
      u.taskAt t = { s.taskAt t with st := .ready, wait := .none } ∧
      RegsOutside [counter (poolPage t.tile) 0, counter (poolPage t.tile) 1, counter (peatPage t.tile) 0] s u ∧
      (u.cru t.tile t.cru).icache.contains (s.icLine t (s.taskAt t).pc) = true ∧
      (u.cru t.tile t.cru).icache.length ≤ max 256 (s.cru t.tile t.cru).icache.length) := by
  refine ⟨_, exec_icacheFill_clean hw hf hr hb, ?_⟩
  generalize decide ((s.physOf t (s.taskAt t).pc).1 = spPeat) = peat
  generalize (s.physOf t (s.taskAt t).pc).2 / 256 * 256 = lo
  have hk : Kept [.regs] s (s.countNear t.tile t.cru peat lo 256) := State.countNear_kept ..
  have hx := RegsOutside.countNear s t.tile t.cru peat lo 256
  have hi := State.icLine_countNear s t peat lo 256 (s.taskAt t).pc
  have hcr := hk.frame .crus (by decide)
  have hts := hk.frame .tasks (by decide)
  generalize s.countNear t.tile t.cru peat lo 256 = s1 at *
  have ec : s1.cru t.tile t.cru = s.cru t.tile t.cru := State.cru_congr hcr _ _
  rw [hi, ec]
  refine ⟨?_, ?_, ?_, State.taskAt_setTask_same .., hx.trans (RegsOutside.of_regs rfl), ?_, ?_⟩
  · exact ((hk.mono (m := [.regs, .tasks, .crus]) rfl).step (State.setCru_kept ..) rfl |>.step (State.setTask_kept ..) rfl).frame
  · exact (TasksOutside.of_tasks hts).trans (TasksOutside.setTask _ t _)
  · exact (CrusOutside.of_crus hcr).trans (CrusOutside.setCru s1 t _)
  · show ((s1.setCru t.tile t.cru _).cru t.tile t.cru).icache.contains _ = true
    rw [State.cru_setCru_same]
    exact cacheWith_contains ..
  · show ((s1.setCru t.tile t.cru _).cru t.tile t.cru).icache.length ≤ _
    rw [State.cru_setCru_same]
    exact cacheWith_length ..
end

/-! ### Entries of the scoreboard freed (R86) -/

section
variable {s : State} {t : TaskRef} {k : Nat} {e : SbEntry} (he : (s.cru t.tile t.cru).sb[k]? = some e)
include he

theorem exec_sbEntryRelease_gone (hn : ((s.cru t.tile t.cru).queue e.unit).find? (fun w => w.iid = e.iid) = none) :
    exec (.sbEntryRelease t.tile t.cru k) s = .next (s.freeEntry t.tile t.cru e) := by
  show execSbEntryRelease t.tile t.cru k s = _
  unfold execSbEntryRelease
  simp only [he, hn]

/-- A source read before its instruction runs: the bytes stay with the instruction. -/
theorem exec_sbEntryRelease_read {w : Work} (hw : ((s.cru t.tile t.cru).queue e.unit).find? (fun w => w.iid = e.iid) = some w)
    (hr : e.write = false) (hq : w.phase = .queued) (hx : s.reached ⟨⟨t.tile, t.cru, e.task⟩, w⟩ e.unit = true)
    (ha : s.canAdd ⟨⟨t.tile, t.cru, e.task⟩, w⟩ = true)
    (hp : s.piecesReady ⟨⟨t.tile, t.cru, e.task⟩, w⟩ (s.ownPieces ⟨⟨t.tile, t.cru, e.task⟩, w⟩) = true)
    (hs : s.slotNeeds ⟨⟨t.tile, t.cru, e.task⟩, w⟩ = []) :
    let v := s.mapWork t e.unit w.iid (fun y => { y with claims := w.claims, since := none, want := none })
    exec (.sbEntryRelease t.tile t.cru k) s = .next ((v.mapWork t e.unit w.iid (fun y =>
      { y with seen := y.seen ++ s.capture t (if e.peat then 4 else t.cru.val) e.lo (e.hi - e.lo) })).freeEntry t.tile t.cru e) := by
  intro v
  rw [← State.capture_mapWork s t e.unit w.iid (fun y => { y with claims := w.claims, since := none, want := none })]
  show execSbEntryRelease t.tile t.cru k s = _
  unfold execSbEntryRelease
  simp only [he, hw, hx, hq, ha, hp, State.claimWork_nil _ hs, hr, Bool.not_true, Bool.not_false, Bool.false_eq_true, if_false, if_true,
    Bool.or_self, State.again_t]
  rfl

theorem does_sbEntryRelease_gone (hn : ((s.cru t.tile t.cru).queue e.unit).find? (fun w => w.iid = e.iid) = none) :
    Does (.sbEntryRelease t.tile t.cru k) s (fun u => Frame [.crus, .tasks] s u ∧
      (CrusOutside t s u ∧ (u.cru t.tile t.cru).sb = (s.cru t.tile t.cru).sb.erase e ∧ ∀ q : TaskRef, u.taskAt q =
        if (q.tile, q.cru) = (t.tile, t.cru) then (s.taskAt q).rewait (u.cru t.tile t.cru) else s.taskAt q) ∧
      u.cru t.tile t.cru = { s.cru t.tile t.cru with sb := (s.cru t.tile t.cru).sb.erase e }) := by
  obtain ⟨hf, ho, hc, ht⟩ := State.freeEntry_spec s t e
  exact ⟨_, exec_sbEntryRelease_gone he hn, hf, ⟨ho, congrArg Crucible.sb hc, ht⟩, hc⟩

theorem does_sbEntryRelease_read {w : Work} (hw : ((s.cru t.tile t.cru).queue e.unit).find? (fun w => w.iid = e.iid) = some w)
    (hr : e.write = false) (hq : w.phase = .queued) (hx : s.reached ⟨⟨t.tile, t.cru, e.task⟩, w⟩ e.unit = true)
    (ha : s.canAdd ⟨⟨t.tile, t.cru, e.task⟩, w⟩ = true)
    (hp : s.piecesReady ⟨⟨t.tile, t.cru, e.task⟩, w⟩ (s.ownPieces ⟨⟨t.tile, t.cru, e.task⟩, w⟩) = true)
    (hs : s.slotNeeds ⟨⟨t.tile, t.cru, e.task⟩, w⟩ = []) :
    Does (.sbEntryRelease t.tile t.cru k) s (fun u => Frame [.crus, .tasks] s u ∧
      (CrusOutside t s u ∧ (u.cru t.tile t.cru).sb = (s.cru t.tile t.cru).sb.erase e ∧ ∀ q : TaskRef, u.taskAt q =
        if (q.tile, q.cru) = (t.tile, t.cru) then (s.taskAt q).rewait (u.cru t.tile t.cru) else s.taskAt q) ∧
      (u.cru t.tile t.cru).queue e.unit = ((s.cru t.tile t.cru).queue e.unit).map (fun y => if y.iid = w.iid then
        { y with claims := w.claims, since := none, want := none,
                 seen := y.seen ++ s.capture t (if e.peat then 4 else t.cru.val) e.lo (e.hi - e.lo) } else y)) := by
  refine ⟨_, exec_sbEntryRelease_read he hw hr hq hx ha hp hs, ?_⟩
  generalize s.capture t (if e.peat then 4 else t.cru.val) e.lo (e.hi - e.lo) = seen
  have h1 := State.mapWork_kept s t e.unit w.iid (fun y => { y with claims := w.claims, since := none, want := none })
  have o1 := CrusOutside.mapWork s t e.unit w.iid (fun y => { y with claims := w.claims, since := none, want := none })
  have c1 := State.cru_mapWork s t e.unit w.iid (fun y => { y with claims := w.claims, since := none, want := none })
  generalize s.mapWork t e.unit w.iid (fun y => { y with claims := w.claims, since := none, want := none }) = s1 at *
  have h2 := State.mapWork_kept s1 t e.unit w.iid (fun y => { y with seen := y.seen ++ seen })
  have o2 := CrusOutside.mapWork s1 t e.unit w.iid (fun y => { y with seen := y.seen ++ seen })
  have c2 := State.cru_mapWork s1 t e.unit w.iid (fun y => { y with seen := y.seen ++ seen })
  generalize s1.mapWork t e.unit w.iid (fun y => { y with seen := y.seen ++ seen }) = s2 at *
  obtain ⟨hf, ho, hsb, ht, hqu⟩ := State.freeEntry_after (v := s2) e (h1.frame.trans h2.frame) (o1.trans o2)
    (by rw [c2, (Crucible.mapWork_rest ..).1, c1, (Crucible.mapWork_rest ..).1])
  refine ⟨hf, ⟨ho, hsb, ht⟩, ?_⟩
  rw [hqu, c2, Crucible.queue_mapWork, if_pos rfl, c1, Crucible.queue_mapWork, if_pos rfl, List.map_map]
  refine List.map_congr_left fun y _ => ?_
  by_cases hy : y.iid = w.iid <;> simp [hy]
end

/-- Settles O16: a control word is stored and then its trigger acts as the state of the task admits; the events by what each does. -/
theorem taskControl : Obligations.TaskControl := by
  unfold Obligations.TaskControl
  refine ⟨fun who t v s => ?_, fun t s => ?_⟩
  · intro pg x effect error ha
    have werr {c : Instr} {g : State} (hw : Writes pg (Reg.TASK_CTL t.task) [] [] s g) (he : exec c s = .next (g.werr t.tile t.cru)) : error c :=
      ⟨_, he, hw.thenWerr⟩
    refine ⟨?_, ?_, ?_⟩
    · obtain ⟨g, hw, hg⟩ := State.taskCtlWrite_admits v (show 0 < 3 by decide) ha
      have hx := hw.taskAt_eq t
      have he : exec (.taskStart who t v) s = .next (g.startTask t.tile t.cru t.task) := congrArg Host.Outcome.next hg
      split
      next hc =>
        refine ⟨_, he.trans (congrArg Host.Outcome.next (if_pos ?_)), ?_⟩
        · rw [State.task_eq, hx, hw.poolOn_eq]
          simpa using hc
        · rw [State.task_eq, hx, hw.entry_eq]
          exact hw.thenTask _
      next hc =>
        refine werr hw (he.trans (congrArg Host.Outcome.next (if_neg ?_)))
        rw [State.task_eq, hx, hw.poolOn_eq]
        simpa using hc
    · obtain ⟨g, hw, hg⟩ := State.taskCtlWrite_admits v (show 1 < 3 by decide) ha
      have hx := hw.taskAt_eq t
      have he : exec (.taskStop who t v) s = .next (g.stopTask t.tile t.cru t.task) := congrArg Host.Outcome.next hg
      split
      next hc =>
        refine ⟨_, he.trans (congrArg Host.Outcome.next (if_pos ?_)), ?_⟩
        · rw [State.task_eq, hx]
          simpa using hc
        · rw [State.task_eq, hx]
          exact hw.thenTask _
      next hc =>
        refine werr hw (he.trans (congrArg Host.Outcome.next (if_neg ?_)))
        rw [State.task_eq, hx]
        simpa using hc
    · obtain ⟨g, hw, hg⟩ := State.taskCtlWrite_admits v (show 2 < 3 by decide) ha
      have hx := hw.taskAt_eq t
      have he : exec (.taskReset who t v) s = .next (g.resetTask t.tile t.cru t.task) := congrArg Host.Outcome.next hg
      split
      next hc =>
        obtain ⟨hf, hr, ho, ht, h1, h2, h3, h4⟩ := State.resetTask_cleared (s := g) (t := t) (by rw [hx]; exact hc)
        refine ⟨_, he, ⟨hw.more hf hr (by decide) (fun r => List.mem_cons_of_mem _), ?_, ht.trans (by rw [hx])⟩, h1, h2, h3, h4⟩
        exact (TasksOutside.of_tasks (hw.1 .tasks (by decide))).trans ho
      next hc =>
        refine werr hw (he.trans (congrArg Host.Outcome.next (if_neg ?_)))
        rw [State.task_eq, hx]
        simpa using hc
  · intro x c
    refine ⟨does_drainEnd, does_drainEnd_idle, does_agePromotion, does_icacheFill, ?_⟩
    intro k e he freed
    exact ⟨does_sbEntryRelease_gone he, fun w hw hr hq => does_sbEntryRelease_read he hw hr hq⟩

end Sys2Proof.Machine
end

section
/-! SUPPORT. Tensor instructions at the issue stage: the order of their checks, and what dispatch leaves (R78 to R86, R127, R142, R623). -/
namespace Sys2Proof.Machine
open Sys2Proof

/-! ### The checks of a tensor instruction, in order -/

section Checks
variable {i : Instr} {q : TensorIssue} {s : State}

/-- A well-formed tensor instruction that reaches its own checks: its operands, its shape, and dispatch. -/
theorem exec_tensor_reaches (hq : tensorIssue i = some q) (hw : i.wf = true) (hr : s.reaches q.t 16 q.h.pred q.uses = true) :
    exec i s = .next (match s.checkOps q.t (s.operands q.t (s.taskAt q.t).rd i) with
      | some (code, a) => s.issueFault q.t code a
      | none => if shapeOk (s.taskAt q.t).rd i then
          s.dispatch q.t i q.unit (s.ranges q.t (s.operands q.t (s.taskAt q.t).rd i)) q.pend else s.issueFault q.t fDescriptor 0) := by
  rw [exec_tensorIssue hq]
  exact congrArg Host.Outcome.next (State.issue_reaches (q := ⟨16, !i.wf, q.h.pred, q.uses⟩) hr (by rw [hw]; rfl) _)

theorem State.checkOp_lt {t : TaskRef} {o : OpCheck} {code : Nat} {a : Addr} (h : s.checkOp t o = some (code, a)) : code < 256 := by
  unfold State.checkOp at h
  dsimp only at h
  split at h
  · cases h
    decide
  split at h
  · cases h
    decide
  split at h
  · cases h
    decide
  split at h
  next hc =>
    cases h
    exact State.segCheck_lt hc
  split at h
  · cases h
  · obtain ⟨c, hc, he⟩ := Option.map_eq_some_iff.mp h
    cases he
    exact State.segCheck_lt hc

theorem State.checkOps_lt {t : TaskRef} {l : List OpCheck} {code : Nat} {a : Addr} (h : s.checkOps t l = some (code, a)) : code < 256 := by
  induction l with
  | nil => cases h
  | cons o r ih =>
    unfold State.checkOps at h
    split at h
    next hc =>
      cases h
      exact State.checkOp_lt hc
    next => exact ih h
end Checks

/-! ### The first step of R80 that fails -/

section Blocks
variable {c : Crucible} {rs : List Range} {u : UnitKind}

theorem Crucible.blocks_conflict (h : rs.any c.conflicts = true) : c.blocks (.ranges rs (some u)) = some .sb := if_pos h

theorem Crucible.blocks_queue (h : rs.any c.conflicts = false) (hq : unitDepth u ≤ (c.queue u).length) :
    c.blocks (.ranges rs (some u)) = some .queue :=
  (if_neg (by rw [h]; decide)).trans (if_pos hq)

theorem Crucible.blocks_full (h : rs.any c.conflicts = false) (hq : (c.queue u).length < unitDepth u) (hs : 64 < c.sb.length + rs.length) :
    c.blocks (.ranges rs (some u)) = some .sbfull :=
  (if_neg (by rw [h]; decide)).trans ((if_neg (Nat.not_le_of_lt hq)).trans (if_pos hs))

theorem Crucible.blocks_none (h : rs.any c.conflicts = false) (hq : (c.queue u).length < unitDepth u) (hs : c.sb.length + rs.length ≤ 64) :
    c.blocks (.ranges rs (some u)) = none :=
  (if_neg (by rw [h]; decide)).trans ((if_neg (Nat.not_le_of_lt hq)).trans (if_neg (Nat.not_lt_of_le hs)))
end Blocks

/-! ### Dispatch -/

/-- A crucible after a dispatch: the instruction in its unit's queue and its ranges in the scoreboard. -/
def dispatchedTo (c : Crucible) (u : UnitKind) (w : Work) (es : List SbEntry) : Crucible :=
  { c with sb := c.sb ++ es, nextIid := c.nextIid + 1 }.setQueue u (c.queue u ++ [w])

theorem dispatchedTo_fields (c : Crucible) (u : UnitKind) (w : Work) (es : List SbEntry) :
    let d := dispatchedTo c u w es
    d.queue u = c.queue u ++ [w] ∧ (∀ k, k ≠ u → d.queue k = c.queue k) ∧ d.sb = c.sb ++ es ∧ d.nextIid = c.nextIid + 1 ∧ d.gb = c.gb ∧
      d.icache = c.icache ∧ d.last = c.last := by
  intro d
  obtain ⟨hs, hg, hi, hn⟩ := Crucible.setQueue_rest { c with sb := c.sb ++ es, nextIid := c.nextIid + 1 } u (c.queue u ++ [w])
  refine ⟨(Crucible.queue_setQueue ..).trans (if_pos rfl), fun k hk => ?_, hs, hn, hg, hi, by cases u <;> rfl⟩
  refine ((Crucible.queue_setQueue ..).trans (if_neg hk)).trans ?_
  cases k <;> rfl

theorem RegsOutside.noteSbHigh (s : State) (tile cru : Nat) :
    RegsOutside [(cruPage tile cru, Reg.SB_STAT)] s (s.noteSbHigh tile cru) := by
  unfold State.noteSbHigh
  exact RegsOutside.thenIf (fun _ => RegsOutside.setRf s _ _ _ _ _ (by decide)) (fun _ => RegsOutside.refl _ s)

/-- A change of a task's registers and its crucible before a retirement: the issue is counted for the task's crucible as changed. -/
theorem State.retire_changed {s s' : State} {t : TaskRef} {rs : List (Nat × Nat)} (n : Nat) {c : Crucible} {y : Task}
    (hf : Frame [.regs, .tasks, .crus] s s') (hr : RegsOutside rs s s') (ht : TasksOutside t s s') (hc : CrusOutside t s s')
    (ec : s'.cru t.tile t.cru = c) (ey : s'.taskAt t = y) (hl : c.last = (s.cru t.tile t.cru).last)
    (hp : y.pc = (s.taskAt t).pc) (hg : y.aged = (s.taskAt t).aged) (hn : ∀ k, k < 16 → counter (cruPage t.tile t.cru) k ∉ rs) :
    RetiresTo t [] rs (s.nextPc t n) s (s'.retire t n) ∧
      (s'.retire t n).taskAt t = { y with st := .ready, wait := .none, pc := s.nextPc t n, aged := false } ∧
      (s'.retire t n).cru t.tile t.cru = issuedBy c t.task := by
  have epc : s'.nextPc t n = s.nextPc t n := by
    unfold State.nextPc
    rw [ey, hp]
  obtain ⟨a, b⟩ := State.goTo_retires s' t (s.nextPc t n)
  have eu : s'.retire t n = s'.goTo t (s.nextPc t n) := by
    rw [← epc]
    rfl
  rw [eu, ← ec, ← ey]
  refine ⟨RetiresTo.after a (hf.mono rfl) hr ht hc (by rw [ec, hl]) (by rw [ey, hg]) (hn 0 (by decide)) (hn 4 (by decide))
    (hn 13 (by decide)), b, a.2.1⟩

section
variable {s : State} {t : TaskRef} {u : UnitKind} {rs : List Range}

theorem State.dispatch_waits (i : Instr) (pend : List Nat) {w : WaitReason}
    (h : (s.cru t.tile t.cru).blocks (.ranges rs (some u)) = some w) :
    s.dispatch t i u rs pend = s.waitFor t w (some (.ranges rs (some u))) := by
  unfold State.dispatch
  simp only [h]

/-- An instruction dispatched: its task goes on behind it, READY. -/
theorem State.dispatch_spec (i : Instr) (pend : List Nat) (h : (s.cru t.tile t.cru).blocks (.ranges rs (some u)) = none) :
    let x := s.taskAt t
    let c := s.cru t.tile t.cru
    let v := s.dispatch t i u rs pend
    let es := rs.map (fun r => (⟨r.peat, r.lo, r.hi, r.write, t.task, u, c.nextIid⟩ : SbEntry))
    RetiresTo t [] [(cruPage t.tile t.cru, Reg.SB_STAT)] (s.nextPc t 16) s v ∧
      v.taskAt t = { x with st := .ready, wait := .none, pc := s.nextPc t 16, seq := x.seq + 1, pend := x.pend ++ pend, aged := false } ∧
      v.cru t.tile t.cru = issuedBy (dispatchedTo c u (workOf c.nextIid t x i) es) t.task := by
  intro x c v es
  have hv : v = (((s.setCru t.tile t.cru (dispatchedTo c u (workOf c.nextIid t x i) es)).noteSbHigh t.tile t.cru).onTask t
      (fun y => { y with seq := y.seq + 1, pend := y.pend ++ pend })).retire t 16 := by
    show s.dispatch t i u rs pend = _
    unfold State.dispatch
    simp only [h]
    rfl
  have hd := dispatchedTo_fields c u (workOf c.nextIid t x i) es
  generalize dispatchedTo c u (workOf c.nextIid t x i) es = d at *
  have hk := State.noteSbHigh_kept (s.setCru t.tile t.cru d) t.tile t.cru
  have hr := RegsOutside.noteSbHigh (s.setCru t.tile t.cru d) t.tile t.cru
  have hcr : ((s.setCru t.tile t.cru d).noteSbHigh t.tile t.cru).crus = (s.setCru t.tile t.cru d).crus := hk.frame .crus (by decide)
  have hts : ((s.setCru t.tile t.cru d).noteSbHigh t.tile t.cru).tasks = s.tasks := hk.frame .tasks (by decide)
  rw [hv]
  clear_value v
  generalize (s.setCru t.tile t.cru d).noteSbHigh t.tile t.cru = s1 at *
  have ex : s1.taskAt t = x := State.taskAt_congr hts t
  refine State.retire_changed (y := { x with seq := x.seq + 1, pend := x.pend ++ pend }) (c := d) 16 ?_ ?_ ?_ ?_ ?_ ?_ hd.2.2.2.2.2.2 rfl rfl ?_
  · exact ((State.setCru_kept s _ _ d).mono (m := [.regs, .tasks, .crus]) rfl |>.step hk rfl |>.step (State.setTask_kept ..) rfl).frame
  · exact ((RegsOutside.of_regs rfl).trans hr).trans (RegsOutside.of_regs rfl)
  · exact (TasksOutside.of_tasks hts).trans (TasksOutside.setTask s1 t _)
  · exact ((CrusOutside.setCru s t d).trans (CrusOutside.of_crus hcr)).trans (CrusOutside.of_crus rfl)
  · exact (State.cru_congr (u := s1) hcr t.tile t.cru).trans (State.cru_setCru_same ..)
  · rw [State.taskAt_onTask, ex]
  · intro k hk
    simp [counter, Reg.COUNTER, Reg.SB_STAT]
    omega
end

/-- Settles O18: the checks in order, and dispatch where none of the steps of R80 blocks. -/
theorem tensorDispatchAndStops : Obligations.TensorDispatchAndStops := by
  unfold Obligations.TensorDispatchAndStops
  refine ⟨fun i q s hq hw hr => ?_, fun i q s hq hw hr => ?_⟩
  · intro t x c ops rs w hops hsh hc hl hs
    have he := exec_tensor_reaches hq hw hr
    simp only [show s.checkOps q.t (s.operands q.t (s.taskAt q.t).rd i) = none from hops, show shapeOk (s.taskAt q.t).rd i = true from hsh,
      if_true] at he
    obtain ⟨ha, ht, hcru⟩ := State.dispatch_spec i q.pend (Crucible.blocks_none hc hl hs)
    obtain ⟨d1, d2, d3, d4, d5, d6, -⟩ := dispatchedTo_fields c q.unit (workOf c.nextIid t x i)
      (rs.map (fun r => (⟨r.peat, r.lo, r.hi, r.write, t.task, q.unit, c.nextIid⟩ : SbEntry)))
    refine ⟨_, he, ha, ht, ?_⟩
    rw [hcru]
    exact ⟨d1, d2, d3, d4, d5, d6⟩
  · intro t x c ops rs waits
    have he := exec_tensor_reaches hq hw hr
    refine ⟨fun code a hops h0 => ?_, fun hops hsh h0 => ?_, fun hops hsh => ?_⟩
    · simp only [show s.checkOps q.t (s.operands q.t (s.taskAt q.t).rd i) = some (code, a) from hops] at he
      exact ⟨_, he, State.issueFault_faulted a h0 (State.checkOps_lt hops)⟩
    · simp only [show s.checkOps q.t (s.operands q.t (s.taskAt q.t).rd i) = none from hops,
        show shapeOk (s.taskAt q.t).rd i = false from hsh, Bool.false_eq_true, if_false] at he
      exact ⟨_, he, State.issueFault_faulted 0 h0 (by decide)⟩
    · simp only [show s.checkOps q.t (s.operands q.t (s.taskAt q.t).rd i) = none from hops, show shapeOk (s.taskAt q.t).rd i = true from hsh,
        if_true] at he
      have blocked {w : WaitReason} (h : c.blocks (.ranges rs (some q.unit)) = some w) : waits w :=
        ⟨_, he.trans (congrArg Host.Outcome.next (State.dispatch_waits i q.pend h)), State.waitFor_frame ..⟩
      exact ⟨fun hc => blocked (Crucible.blocks_conflict hc), fun hc hl => blocked (Crucible.blocks_queue hc hl),
        fun hc hl hs => blocked (Crucible.blocks_full hc hl hs)⟩

end Sys2Proof.Machine
end

section
/-! SUPPORT. How a unit goes on with an instruction: what it waits for, in order, and the results of the mould array and the vector unit
(R86, R91, R143 to R147, R191 to R193). -/
namespace Sys2Proof.Machine
open Sys2Proof

/-! ### The commands that take an instruction on -/

section Progress
variable {tile : TileIx} {cru : CruIx} {u : UnitKind} {c : UCtx} {s s0 : State}

theorem exec_unitInstrComplete_clean {k : Nat} (a : Addr) (h : s.unitWork tile cru u k = (s0, some c)) (hq : c.w.phase = .queued) :
    exec (.unitInstrComplete tile cru u k .clean a) s = .next (s0.advanceWork c u) := by
  show execUnitInstrComplete tile cru u k .clean a s = _
  unfold execUnitInstrComplete
  simp only [h, hq, if_true]

theorem exec_resume_unit (h : s.waitingWork tile cru u = some c) (hm : ∀ l, c.w.phase ≠ .moving l) :
    exec (.taggedAccessResume (.unit tile cru u)) s = .next (s.advanceWork c u) := by
  refine congrArg Host.Outcome.next ?_
  unfold State.resumeUnit
  simp only [h]

theorem State.readyWork_held {s1 : State} (ha : s0.canAdd c = true) (hp : s0.piecesReady c (s0.ownPieces c) = true)
    (hc : s0.claimWork c u = (true, s1)) : s0.readyWork c u = (true, s1) := by
  simp only [State.readyWork, ha, hp, hc, Bool.not_true, Bool.or_self, Bool.false_eq_true, if_false]

theorem State.readyWork_missed {s1 : State} (ha : s0.canAdd c = true) (hp : s0.piecesReady c (s0.ownPieces c) = true)
    (hc : s0.claimWork c u = (false, s1)) : s0.readyWork c u = (false, s1.settle c u) := by
  simp only [State.readyWork, ha, hp, hc, Bool.not_true, Bool.or_self, Bool.false_eq_true, if_false]

/-- An instruction with something to do, whose index vector is at hand, runs once it is ready. -/
theorem State.advanceWork_ready {s1 : State} (hn : s0.nothingToDo c = false) (hi : ∀ j, runJob c.w.instr = some j → s0.wantsIdx c j = false)
    (hr : s0.readyWork c u = (true, s1)) : s0.advanceWork c u = s1.runWork (s1.again c u) u := by
  unfold State.advanceWork
  cases hj : runJob c.w.instr with
  | none => simp only [hn, hr, Bool.false_eq_true, if_false]
  | some j => simp only [hn, hr, hi j hj, Bool.false_eq_true, if_false]

theorem State.advanceWork_unready {s1 : State} (hn : s0.nothingToDo c = false) (hi : ∀ j, runJob c.w.instr = some j → s0.wantsIdx c j = false)
    (hr : s0.readyWork c u = (false, s1)) : s0.advanceWork c u = s1 := by
  unfold State.advanceWork
  cases hj : runJob c.w.instr with
  | none => simp only [hn, hr, Bool.false_eq_true, if_false]
  | some j => simp only [hn, hr, hi j hj, Bool.false_eq_true, if_false]

theorem State.advanceWork_held {s1 : State} (hn : s0.nothingToDo c = false) (hi : ∀ j, runJob c.w.instr = some j → s0.wantsIdx c j = false)
    (ha : s0.canAdd c = true) (hp : s0.piecesReady c (s0.ownPieces c) = true) (hc : s0.claimWork c u = (true, s1)) :
    s0.advanceWork c u = s1.runWork (s1.again c u) u := State.advanceWork_ready hn hi (State.readyWork_held ha hp hc)

theorem State.ownPieces_near (s : State) (h : runJob c.w.instr = none) : s.ownPieces c = s.workPieces c := by
  unfold State.ownPieces
  rw [h]
end Progress

/-- Claims that all succeed change the slots and the instruction's own note of them. -/
theorem State.claimNeeds_held {s s1 : State} {c : UCtx} {u : UnitKind} {l : List SlotNeed} (h : s.claimNeeds c u l = (true, s1)) :
    Frame [.crus, .slots] s s1 := by
  unfold State.claimNeeds at h
  have hk := State.claimAll_keptP s c.t.tile (unitRank c.t.cru u) c.w.claims l
  generalize s.claimAll c.t.tile (unitRank c.t.cru u) c.w.claims l = r at *
  obtain ⟨t, held, miss⟩ := r
  cases miss with
  | some n => cases h
  | none =>
    cases h
    exact ((hk.mono (m := [.crus, .slots]) rfl).step (State.mapWork_kept ..) rfl).frame

/-! ### What a unit reads and writes, counted -/

/-- The registers in which a unit's reads of the pools and peat count (R171, R204, R206). -/
def readRegs (tile : Nat) : List (Nat × Nat) := [counter (poolPage tile) 0, counter (poolPage tile) 1, counter (peatPage tile) 0]

theorem RegsOutside.foldl {α : Type} {l : List (Nat × Nat)} (f : State → α → State) (hf : ∀ s a, RegsOutside l s (f s a)) (xs : List α) (s : State) :
    RegsOutside l s (xs.foldl f s) := by
  induction xs generalizing s with
  | nil => exact RegsOutside.refl _ _
  | cons x r ih => exact (hf s x).trans (ih _)

theorem RegsOutside.countPieces (s : State) (c : UCtx) (l : List Piece) : RegsOutside (readRegs c.t.tile) s (s.countPieces c l) := by
  have pool (r : List (Nat × Nat)) (s : State) :
      RegsOutside (readRegs c.t.tile) s (if r.isEmpty then s else s.countPool c.t.tile r) :=
    RegsOutside.thenIf (fun _ => RegsOutside.refl _ s) (fun _ => (RegsOutside.countPool s _ r).mono (by simp [readRegs]))
  refine RegsOutside.trans ?_ (RegsOutside.foldl _ (fun s p => ?_) _ _)
  · exact RegsOutside.foldl _ (fun s mem => (pool _ s).trans (pool _ _)) _ s
  · exact (RegsOutside.refl _ s).thenBump (peatPage c.t.tile) 0 _ (by decide) (by simp [readRegs])

/-- Rows written to the crucible's own pool. -/
theorem State.writeRows_pool (s : State) (t : TaskRef) (ph : Nat) (rows : List (Nat × List Byte)) :
    let u := s.writeRows t spPool ph rows
    Kept [.pool, .poolBad] s u ∧ u.pool = rows.foldl (fun m r => putBytes m (poolKey t.tile t.cru (ph + r.1)) r.2) s.pool := by
  induction rows generalizing s with
  | nil => exact ⟨Kept.refl _ _, rfl⟩
  | cons r rest ih =>
    obtain ⟨hk, hp⟩ := ih (s.writePool t.tile t.cru (ph + r.1) r.2)
    exact ⟨(State.writePool_kept ..).trans hk, hp⟩

/-! ### Results of the mould array and the vector unit -/

/-- Only the instructions of the mould array and the vector unit have results of this kind; they run by writing them. -/
theorem State.runWork_arith {s : State} {c : UCtx} {d : Desc} {e : Effect} (u : UnitKind) (h : s.arithEffect c = some (d, e))
    (hp : s.poisonedPiece c (s.workPieces c) = none) :
    s.runWork c u = (s.writeArith c d e).finishWork c u (headerOf c.w.instr) 0 := by
  unfold State.runWork
  rw [hp]
  unfold State.arithEffect at h ⊢
  generalize c.w.instr = i at h ⊢
  cases i <;> cases h <;> rfl

/-- Results written to the crucible's own pool, and the instruction ended with the flags of computing them. -/
theorem State.writeArith_ended {s : State} {c : UCtx} {d : Desc} {e : Effect} {ph : Nat} (u : UnitKind) (h : THdr)
    (ho : s.badOverlap c = false) (hp : s.physOf c.t d.addr = (spPool, ph)) :
    let v := (s.writeArith c d e).finishWork c u h 0
    Ended c u (doneGates h) e.flags [.pool, .poolBad] (readRegs c.t.tile) s v ∧
      v.pool = (restRows c spPool ph e.rows).foldl (fun m r => putBytes m (poolKey c.t.tile c.t.cru (ph + r.1)) r.2) s.pool := by
  intro v
  have hb := taskFlags_lt c.t
  have ew : s.writeArith c d e =
      ((s.countPieces c (s.workPieces c)).writeRows c.t spPool ph (restRows c spPool ph e.rows)).orFlags c.t e.flags := by
    unfold State.writeArith
    rw [ho, hp]
    rfl
  have hv : v = (State.orFlags _ c.t e.flags).finishWork c u h 0 := congrArg (State.finishWork · c u h 0) ew
  clear_value v
  subst hv
  have k1 := State.countPieces_kept s c (s.workPieces c)
  have r1 := RegsOutside.countPieces s c (s.workPieces c)
  generalize s.countPieces c (s.workPieces c) = s1 at *
  obtain ⟨k2, p2⟩ := State.writeRows_pool s1 c.t ph (restRows c spPool ph e.rows)
  generalize s1.writeRows c.t spPool ph (restRows c spPool ph e.rows) = s2 at *
  have r2 : RegsOutside (readRegs c.t.tile) s s2 := r1.thenSame (k2.frame .regs (by decide))
  have same (f : Field) (h1 : f ∉ [Field.regs]) (h2 : f ∉ [Field.pool, Field.poolBad]) : f.same s s2 := by
    have a := k1.frame f h1
    have b := k2.frame f h2
    cases f <;> exact Eq.trans b a
  have hfl : s2.reg (cruPage c.t.tile c.t.cru) (Reg.TASK_FLAGS c.t.task) = s.reg (cruPage c.t.tile c.t.cru) (Reg.TASK_FLAGS c.t.task) :=
    r2 _ _ hb (by simp [readRegs, (counter_ne_taskFlags _ _ c.t _ _).symm])
  have he := State.finishWork_ended (s2.orFlags c.t e.flags) c u h 0
  refine ⟨he.before ?_ ?_ (same .crus (by decide) (by decide)) (same .gates (by decide) (by decide)) (same .peat (by decide) (by decide))
    (same .tasks (by decide) (by decide)) ?_, ?_⟩
  · exact ((k1.mono (m := [.regs, .pool, .poolBad]) rfl).step k2 rfl |>.step (State.orFlags_kept ..) rfl).frame
  · exact (r2.mono (fun x hx => List.mem_cons_of_mem _ hx)).thenSetReg _ _ _ hb List.mem_cons_self
  · rw [show (s2.orFlags c.t e.flags).reg (cruPage c.t.tile c.t.cru) (Reg.TASK_FLAGS c.t.task) = _ from State.reg_setReg_same .., hfl]
    exact BitVec.or_zero
  · refine (he.1 .pool (by decide)).trans (p2.trans ?_)
    rw [show s1.pool = s.pool from k1.frame .pool (by decide)]

/-- Settles O19: with its claims held, the instruction runs by writing its results and ends. -/
theorem unitResults : Obligations.UnitResults := by
  unfold Obligations.UnitResults
  intro tile cru u c d e ph s s0 s1 hn ha hq hj hp hc c1 he hx ho hd ends
  have hf : Frame [.crus, .slots] s0 s1 := State.claimNeeds_held hc
  have hgo : s0.advanceWork c u = (s1.writeArith c1 d e).finishWork c1 u (headerOf c1.w.instr) 0 := by
    rw [State.advanceWork_held hn (fun j h => by rw [hj] at h; cases h) ha (by rw [State.ownPieces_near s0 hj]; exact hp) hc]
    exact State.runWork_arith u he hx
  have hends : ends (s0.advanceWork c u) := by
    obtain ⟨h1, h2⟩ := State.writeArith_ended u (headerOf c1.w.instr) ho hd (e := e)
    rw [hgo]
    have ht : c1.t = c.t := State.again_t s1 c u
    rw [ht, show s1.pool = s0.pool from hf .pool (by decide)] at h2
    rw [ht] at h1
    exact ⟨h1, h2⟩
  refine ⟨hf, fun k a hw => ⟨_, exec_unitInstrComplete_clean a hw hq, hends⟩, fun hw hs => ?_⟩
  subst hs
  exact ⟨_, exec_resume_unit hw (fun l h => by rw [hq] at h; cases h), hends⟩

end Sys2Proof.Machine
end

section
/-! SUPPORT. An instruction that has to wait for a slot (R192, R193). -/
namespace Sys2Proof.Machine
open Sys2Proof

/-- The instruction's item in its unit's queue holds no claim. -/
def State.noClaims (s : State) (c : UCtx) (u : UnitKind) : Prop :=
  ∀ w ∈ (s.cru c.t.tile c.t.cru).queue u, w.iid = c.w.iid → w.claims = []

theorem State.again_noClaims {s : State} {c : UCtx} {u : UnitKind} (h : s.noClaims c u) (hc : c.w.claims = []) :
    (s.again c u).w.claims = [] ∧ (s.again c u).w.iid = c.w.iid := by
  unfold State.again
  split
  · rename_i w hw
    have hi : w.iid = c.w.iid := by simpa using List.find?_some hw
    exact ⟨h w (List.mem_of_find?_eq_some hw) hi, hi⟩
  · exact ⟨hc, rfl⟩

/-- Items that a change leaves alone: the queue stays. -/
theorem State.mapWork_same {s : State} {t : TaskRef} {u : UnitKind} {iid : Nat} {f : Work → Work}
    (h : ∀ w ∈ (s.cru t.tile t.cru).queue u, w.iid = iid → f w = w) :
    ((s.mapWork t u iid f).cru t.tile t.cru).queue u = (s.cru t.tile t.cru).queue u := by
  rw [State.queue_mapWork, if_pos ⟨rfl, rfl⟩]
  refine (List.map_congr_left fun w hw => ?_).trans (List.map_id _)
  split
  · exact h w hw ‹_›
  · rfl

/-- Without claims there is nothing to read or write by now: the unit's queue stays. -/
theorem State.settle_noClaims {s : State} {c : UCtx} {u : UnitKind} (h : s.noClaims c u) (hc : c.w.claims = []) :
    Frame [.crus] s (s.settle c u) ∧ CrusOutside c.t s (s.settle c u) ∧
      ((s.settle c u).cru c.t.tile c.t.cru).queue u = (s.cru c.t.tile c.t.cru).queue u := by
  obtain ⟨h1, hi⟩ := State.again_noClaims h hc
  have ht := State.again_t s c u
  obtain ⟨f, hf, hr⟩ : ∃ f : Work → Work, s.settleReads (s.again c u) u = s.mapWork c.t u c.w.iid f ∧ ∀ w, w.claims = [] → f w = w := by
    refine ⟨fun w => { w with claims := w.claims.filter (fun x => x.write || x.dead), seen := w.seen ++ [], ended := w.ended ++ [] }, ?_, ?_⟩
    · unfold State.settleReads
      rw [h1, ht, hi]
      rfl
    · rintro ⟨⟩ ⟨⟩
      simp
  have hq : ((s.mapWork c.t u c.w.iid f).cru c.t.tile c.t.cru).queue u = (s.cru c.t.tile c.t.cru).queue u :=
    State.mapWork_same (fun w hw e => hr w (h w hw e))
  have hw : s.settle c u = s.mapWork c.t u c.w.iid f := by
    have hn : (s.mapWork c.t u c.w.iid f).noClaims c u := fun w hw => h w (hq ▸ hw)
    unfold State.settle
    dsimp only
    rw [hf]
    unfold State.settleWrites
    rw [(State.again_noClaims hn hc).1]
    rfl
  rw [hw]
  exact ⟨((State.mapWork_kept ..).mono rfl).frame, CrusOutside.mapWork s c.t u c.w.iid f, hq⟩

/-- The first slot that an instruction needs cannot be claimed: it waits from now, or waits on, and a wait that begins is counted. -/
theorem State.claimWork_missed {s : State} {c : UCtx} {u : UnitKind} {n : SlotNeed} {r : List SlotNeed} (hn : s.slotNeeds c = n :: r)
    (hc : c.w.claims = []) (hx : s.claimable c.t.tile (unitRank c.t.cru u) (n.claim c.t.tile) = false) :
    let b : Bool := c.w.since.isNone || decide (c.w.want ≠ some (n.claim c.t.tile))
    let v := s.mapWork c.t u c.w.iid (fun w =>
      { w with claims := [], since := if b then some s.up else w.since, want := some (n.claim c.t.tile) })
    s.claimWork c u = (false, if b then v.bump (cregPage c.t.tile n.peat) (if n.peat then 6 else 4) 1 else v) := by
  unfold State.claimWork State.claimNeeds
  rw [hn, hc]
  unfold State.claimAll
  simp only [List.any_nil, hx]
  rfl

/-- What an instruction that has to wait for its first slot leaves: its note of the wait, and the count of a wait that begins. -/
def slotWaits (s : State) (c : UCtx) (u : UnitKind) (n : SlotNeed) (v : State) : Prop :=
  let begins : Bool := c.w.since.isNone || decide (c.w.want ≠ some (n.claim c.t.tile))
  Frame [.regs, .crus] s v ∧ CrusOutside c.t s v ∧
  (v.cru c.t.tile c.t.cru).queue u = ((s.cru c.t.tile c.t.cru).queue u).map (fun w =>
    if w.iid = c.w.iid then
      { w with claims := [], since := if begins then some s.up else w.since, want := some (n.claim c.t.tile) } else w) ∧
  (if begins then
    RegsOutside [counter (cregPage c.t.tile n.peat) (if n.peat then 6 else 4)] s v ∧
    Counts s v (cregPage c.t.tile n.peat) (if n.peat then 6 else 4) 1
   else v.regs = s.regs)

theorem State.advanceWork_slotWaits {s : State} {c : UCtx} {u : UnitKind} {n : SlotNeed} {r : List SlotNeed}
    (h0 : s.nothingToDo c = false) (ha : s.canAdd c = true) (hj : ∀ j, runJob c.w.instr = some j → s.wantsIdx c j = false)
    (hp : s.piecesReady c (s.ownPieces c) = true) (hn : s.slotNeeds c = n :: r) (hc : c.w.claims = [])
    (hx : s.claimable c.t.tile (unitRank c.t.cru u) (n.claim c.t.tile) = false) : slotWaits s c u n (s.advanceWork c u) := by
  have hm := State.claimWork_missed hn hc hx
  dsimp only at hm
  unfold slotWaits
  dsimp only
  generalize hb : (c.w.since.isNone || decide (c.w.want ≠ some (n.claim c.t.tile))) = b at hm ⊢
  generalize hv : s.mapWork c.t u c.w.iid _ = v at hm
  generalize hk : (if n.peat then 6 else 4) = k at hm ⊢
  have hkb : k < 496 := by subst hk; split <;> decide
  have fv : Frame [.crus] s v := hv ▸ ((State.mapWork_kept ..).mono rfl).frame
  have ov : CrusOutside c.t s v := hv ▸ CrusOutside.mapWork s c.t u c.w.iid _
  have qv : _ := hv ▸ (State.queue_mapWork s c.t u c.w.iid _ c.t.tile c.t.cru u).trans (if_pos (And.intro rfl rfl))
  obtain ⟨x, hx⟩ : ∃ x, x = if b then v.bump (cregPage c.t.tile n.peat) k 1 else v := ⟨_, rfl⟩
  have cx : x.crus = v.crus := by subst hx; split <;> rfl
  have fx : Frame [.regs] v x := by
    subst hx
    split
    · exact ((State.bump_kept ..).mono rfl).frame
    · exact ((Kept.refl [.regs] v).mono rfl).frame
  have nx : x.noClaims c u := by
    intro w hw
    rw [State.cru_congr cx, qv, List.mem_map] at hw
    obtain ⟨y, -, rfl⟩ := hw
    split
    · exact fun _ => rfl
    · exact fun e => absurd e ‹_›
  obtain ⟨f1, o1, q1⟩ := State.settle_noClaims nx hc
  rw [← hx] at hm
  rw [State.advanceWork_unready h0 hj (State.readyWork_missed ha hp hm)]
  refine ⟨((fv.mono rfl).trans (fx.mono rfl)).trans (f1.mono rfl), (ov.trans (CrusOutside.of_crus cx)).trans o1, ?_, ?_⟩
  · rw [q1, State.cru_congr cx, qv]
  · have rv : v.regs = s.regs := fv .regs (by decide)
    have r1 : (x.settle c u).regs = x.regs := f1 .regs (by decide)
    cases b with
    | false => rw [if_neg (by decide), r1, hx]; exact rv
    | true =>
      rw [if_pos rfl]
      rw [if_pos rfl] at hx
      subst hx
      exact ⟨((RegsOutside.of_regs rv).thenBump _ k 1 hkb List.mem_cons_self).thenSame r1,
        (Counts.before (RegsOutside.of_regs (l := []) rv) (Counts.bump ..) hkb (by simp)).after (RegsOutside.of_regs (l := []) r1) hkb (by simp)⟩

end Sys2Proof.Machine
end

section
/-! SUPPORT. A KVPUT that waited for its page (R219, R220, R231 to R234). -/
namespace Sys2Proof.Machine
open Sys2Proof

/-! ### What a wait of a KVPUT leaves -/

theorem State.peatBlock_wait {s u : State} {tile : Nat} {l : List (Nat × Nat)} (h : s.peatBlock tile l = some (.wait u)) : u = s := by
  unfold State.peatBlock at h
  split at h
  · cases h
    rfl
  · rw [Option.map_eq_some_iff] at h
    obtain ⟨_, -, h⟩ := h
    cases h

theorem State.kvputRows_wait {s u : State} {c : UCtx} {v : AttEnv} {h : THdr} {o : AttOps} {rows : List RowKey}
    (hw : s.kvputRows c v h o rows = .wait u) : u = s := by
  unfold State.kvputRows at hw
  dsimp only at hw
  split at hw
  · cases hw
  · split at hw
    · cases hw
    · split at hw
      · cases hw
        rfl
      · split at hw
        · cases hw
          rfl
        · split at hw <;> cases hw

theorem RegsOutside.countReads (s : State) (t : TaskRef) (l : List (Nat × Nat)) :
    RegsOutside [counter (peatPage t.tile) 0] s (s.countReads t l) :=
  RegsOutside.foldl _ (fun s _ => (RegsOutside.refl _ s).thenBump (peatPage t.tile) 0 _ (by decide) List.mem_cons_self) l s

/-- A KVPUT that waits has read entries of the maps and tables, which count, and changed nothing else. -/
theorem State.kvputRun_wait {s u : State} {c : UCtx} {h : THdr} {o : AttOps} (hw : s.kvputRun c h o = .wait u) :
    Kept [.regs] s u ∧ RegsOutside [counter (peatPage c.t.tile) 0] s u := by
  have same (x : State) : Kept [.regs] x x ∧ RegsOutside [counter (peatPage c.t.tile) 0] x x := ⟨Kept.refl _ _, RegsOutside.refl _ _⟩
  have read (x : State) (l : List (Nat × Nat)) : Kept [.regs] x (x.countReads c.t l) ∧
      RegsOutside [counter (peatPage c.t.tile) 0] x (x.countReads c.t l) := ⟨State.countReads_kept .., RegsOutside.countReads x c.t l⟩
  unfold State.kvputRun at hw
  split at hw
  · cases hw
  · rename_i v _
    dsimp only at hw
    generalize (List.range (c.regs o.dQ).d2.toNat).map (s.rowKey c (c.regs o.dK)) = rows at hw
    split at hw
    · cases hw
    · split at hw
      · rename_i r hb
        subst hw
        exact State.peatBlock_wait hb ▸ same s
      · have r1 := read s (mapReads v rows)
        generalize s.countReads c.t (mapReads v rows) = s1 at hw r1
        split at hw
        · rename_i r hb
          subst hw
          exact State.peatBlock_wait hb ▸ r1
        · rw [State.kvputRows_wait hw]
          exact ⟨r1.1.trans (read s1 _).1, r1.2.trans (read s1 _).2⟩

/-! ### The re-read -/

theorem State.again_iid (s : State) (c : UCtx) (u : UnitKind) : (s.again c u).w.iid = c.w.iid := by
  unfold State.again State.findWork
  split
  · rename_i w hw
    simpa using List.find?_some hw
  · rfl

/-- Only the instruction number and the task of a context matter to its end. -/
theorem Ended.congr {c d : UCtx} {u : UnitKind} {gs : List (BitVec 10)} {fl : Flags} {fs : List Field} {rs : List (Nat × Nat)} {s v : State}
    (h : Ended c u gs fl fs rs s v) (ht : d.t = c.t) (hi : d.w.iid = c.w.iid) : Ended d u gs fl fs rs s v := by
  unfold Ended at *
  rw [ht, hi]
  exact h

theorem State.unitWork_front {s : State} {tile : TileIx} {cru : CruIx} {u : UnitKind} {c : UCtx} (h : (s.unitWork tile cru u 0).2 = some c) :
    s.unitWork tile cru u 0 = (s, some c) ∧ c.t.tile = tile ∧ c.t.cru = cru := by
  unfold State.unitWork at h ⊢
  dsimp only at h ⊢
  cases hq : ((s.cru tile cru).queue u)[0]? with
  | none =>
    rw [hq] at h
    cases h
  | some w =>
    rw [hq] at h
    cases h
    exact ⟨rfl, rfl, rfl⟩

theorem restRows_nil (c : UCtx) (sp ph : Nat) : restRows c sp ph [] = [] := by
  unfold restRows
  split <;> rfl

/-- An attention instruction without rows of its own to write has ended. -/
theorem State.applyAtt_done_ended (s v : State) (c : UCtx) (d : Desc) (h : THdr) (fl : Flags) :
    Ended c .attention (doneGates h) fl [] (readRegs c.t.tile) v (s.applyAtt c d h (.done v ⟨[], fl⟩)) := by
  have he : s.applyAtt c d h (.done v ⟨[], fl⟩) = (v.countPieces c (v.workPieces c)).finishWork c .attention h fl := by
    unfold State.applyAtt
    dsimp only
    rw [restRows_nil]
    rfl
  rw [he]
  have hk := State.countPieces_kept v c (v.workPieces c)
  have hr := RegsOutside.countPieces v c (v.workPieces c)
  generalize v.countPieces c (v.workPieces c) = s1 at *
  refine (State.finishWork_ended s1 c .attention h fl).before (hk.mono (m := [.regs]) rfl).frame (hr.mono (fun x hx => List.mem_cons_of_mem _ hx))
    (hk.frame .crus (by decide)) (hk.frame .gates (by decide)) (hk.frame .peat (by decide)) (hk.frame .tasks (by decide)) ?_
  rw [hr _ _ (taskFlags_lt c.t) (by simp [readRegs, (counter_ne_taskFlags _ _ c.t _ _).symm])]

section Reread
variable {tile : TileIx} {cru : CruIx} {c : UCtx} {t : TaskRef} {h : THdr} {o : AttOps} {s s1 s2 : State}

/-- A KVPUT whose sources are sound and whose page makes it wait. -/
theorem State.runWork_kvput_wait (hi : c.w.instr = .kvput t h o) (hp : s.poisonedPiece c (s.workPieces c) = none)
    (hk : s.kvputRun c h o = .wait s2) :
    s.runWork c .attention = s2.mapWork c.t .attention c.w.iid (fun w => { w with phase := .pageWait }) := by
  unfold State.runWork
  simp only [hi, runJob, hp, headerOf, hk]

/-- A KVPUT whose sources are sound and whose records are stored. -/
theorem State.runWork_kvput_done {e : Effect} (hi : c.w.instr = .kvput t h o) (hp : s.poisonedPiece c (s.workPieces c) = none)
    (hk : s.kvputRun c h o = .done s2 e) : s.runWork c .attention = s.applyAtt c {} h (.done s2 e) := by
  unfold State.runWork
  simp only [hi, runJob, hp, headerOf, hk]

theorem exec_kvputEntryReread (hw : (s.unitWork tile cru .attention 0).2 = some c)
    (hq : c.w.phase = .pageWait) : exec (.kvputEntryReread tile cru) s =
      .next ((s.mapWork c.t .attention c.w.iid (fun w => { w with phase := .queued })).advanceWork c .attention) := by
  show execKvputEntryReread tile cru s = _
  unfold execKvputEntryReread
  simp only [hw, hq, if_true]

/-- The re-read as far as the claims: what is left is to run the KVPUT. -/
theorem exec_kvputEntryReread_run (hw : (s.unitWork tile cru .attention 0).2 = some c) (hq : c.w.phase = .pageWait)
    (hi : c.w.instr = .kvput t h o) :
    let s0 := s.mapWork c.t .attention c.w.iid (fun w => { w with phase := .queued })
    s0.nothingToDo c = false → s0.canAdd c = true → s0.piecesReady c (s0.workPieces c) = true → s0.claimWork c .attention = (true, s1) →
    exec (.kvputEntryReread tile cru) s = .next (s1.runWork (s1.again c .attention) .attention) := by
  intro s0 hn ha hp hc
  have hj : runJob c.w.instr = none := by rw [hi]; rfl
  rw [exec_kvputEntryReread hw hq, State.advanceWork_held hn (fun j e => by rw [hj] at e; cases e) ha
    (by rw [State.ownPieces_near s0 hj]; exact hp) hc]
end Reread

/-- The wait goes on while the entry makes it wait. -/
theorem kvputReread_waits {tile : TileIx} {cru : CruIx} {c : UCtx} {h : THdr} {o : AttOps} {s s0 s1 s2 v : State}
    (h0 : s0 = s.mapWork c.t .attention c.w.iid (fun w => { w with phase := .queued })) (hc : s0.claimWork c .attention = (true, s1))
    (hw : s1.kvputRun (s1.again c .attention) h o = .wait s2)
    (hv : v = s2.mapWork c.t .attention c.w.iid (fun w => { w with phase := .pageWait })) (ht : c.t.tile = tile ∧ c.t.cru = cru) :
    Frame [.crus, .slots, .regs] s v ∧ RegsOutside [counter (peatPage tile) 0] s v ∧
      ∀ w ∈ (v.cru tile cru).attn, w.iid = c.w.iid → w.phase = .pageWait := by
  obtain ⟨rfl, rfl⟩ := ht
  have f0 : Frame [.crus] s s0 := h0 ▸ ((State.mapWork_kept ..).mono rfl).frame
  have f1 : Frame [.crus, .slots] s0 s1 := State.claimNeeds_held hc
  obtain ⟨k2, r2⟩ := State.kvputRun_wait hw
  rw [State.again_t] at r2
  have f3 : Frame [.crus] s2 v := hv ▸ ((State.mapWork_kept ..).mono rfl).frame
  refine ⟨(((f0.mono rfl).trans (f1.mono rfl)).trans ((k2.mono (m := [.crus, .slots, .regs]) rfl).frame)).trans (f3.mono rfl), ?_, ?_⟩
  · exact (((RegsOutside.refl _ s).thenSame (f0 .regs (by decide))).thenSame (f1 .regs (by decide))).trans r2 |>.thenSame (f3 .regs (by decide))
  · intro w hm he
    have hm' : w ∈ (v.cru c.t.tile c.t.cru).queue .attention := hm
    rw [hv, State.queue_mapWork, if_pos ⟨rfl, rfl⟩, List.mem_map] at hm'
    obtain ⟨y, -, rfl⟩ := hm'
    split at he
    · rw [if_pos ‹_›]
    · exact absurd he ‹_›

end Sys2Proof.Machine
end

section
/-! SUPPORT. A fault that a unit finds (R96, R97, R201): the instruction leaves its unit, its destination bytes become undefined, and its
task drains. -/
namespace Sys2Proof.Machine
open Sys2Proof

/-! ### Work that leaves, and the tasks that waited for it -/

/-- Entries have left the scoreboard and the queues. -/
structure Crucible.Less (d c : Crucible) : Prop where
  sb : d.sb.Sublist c.sb
  queue : ∀ u, (d.queue u).Sublist (c.queue u)

theorem Crucible.Less.refl (c : Crucible) : Crucible.Less c c := ⟨List.Sublist.refl _, fun _ => List.Sublist.refl _⟩

theorem Crucible.Less.trans {a b c : Crucible} (h : Crucible.Less a b) (k : Crucible.Less b c) : Crucible.Less a c :=
  ⟨h.sb.trans k.sb, fun u => (h.queue u).trans (k.queue u)⟩

/-- What nothing blocks, nothing blocks once entries have left. -/
theorem Crucible.Less.blocks {d c : Crucible} (h : Crucible.Less d c) {w : WaitFor} (hb : c.blocks w = none) : d.blocks w = none := by
  cases w with
  | regs r => cases hb
  | ranges l u =>
    simp only [Crucible.blocks] at hb ⊢
    by_cases hs : l.any c.conflicts = true
    · rw [if_pos hs] at hb
      cases hb
    · have hd : ¬ l.any d.conflicts = true := by
        unfold Crucible.conflicts at hs ⊢
        simp only [List.any_eq_true, not_exists, not_and] at hs ⊢
        exact fun r hr e he => hs r hr e (h.sb.subset he)
      have hlen := h.sb.length_le
      rw [if_neg hs] at hb
      rw [if_neg hd]
      cases u with
      | none => rfl
      | some k =>
        have hq := (h.queue k).length_le
        dsimp only at hb ⊢
        split at hb
        · cases hb
        · split at hb
          · cases hb
          · rw [if_neg (by omega), if_neg (by omega)]

/-- A task re-evaluated twice, the second time after more has left, is as after the second alone. -/
theorem Task.rewait_less (x : Task) {c d : Crucible} (h : Crucible.Less d c) : (x.rewait c).rewait d = x.rewait d := by
  cases x with
  | mk st wait after pc s a dd p seq faultSeq pend gate load ask aged =>
    cases st <;> try rfl
    cases ask with
    | none => rfl
    | some w =>
      cases w with
      | regs _ => rfl
      | ranges l u =>
        cases hb : c.blocks (.ranges l u) with
        | none => simp only [Task.rewait, hb, h.blocks hb]
        | some r => simp only [Task.rewait, hb]

/-- A re-evaluation touches a task's state, its reason to wait and what it waits for alone. -/
theorem Task.rewait_rest (x : Task) (c : Crucible) :
    x.rewait c = { x with st := (x.rewait c).st, wait := (x.rewait c).wait, ask := (x.rewait c).ask } := by
  unfold Task.rewait
  split
  · split <;> rfl
  · rfl

/-- A discard takes entries out of the scoreboard and the queues of its crucible, and nothing else of it. -/
theorem State.discard_cru (s : State) (t : TaskRef) (p : Work → Bool) :
    Crucible.Less ((s.discard t.tile t.cru p).cru t.tile t.cru) (s.cru t.tile t.cru) := by
  obtain ⟨l, a, b, y, hy, e⟩ : ∃ l a b y, Crucible.Less y (s.cru t.tile t.cru) ∧
      s.discard t.tile t.cru p = (((s.setCru t.tile t.cru y).revertClaims l).dropFar t.tile a b).wakeTasks t.tile t.cru := by
    refine ⟨_, _, _, _, ?_, rfl⟩
    refine ⟨List.filter_sublist, fun u => ?_⟩
    cases u <;> exact List.filter_sublist
  rw [e, State.cru_congr (State.wakeTasks_spec _ t.tile t.cru).1, State.cru_congr (State.dropFar_regs ..).2.2,
    State.cru_congr (State.revertClaims_regs ..).2.2, State.cru_setCru_same]
  exact hy

/-- A task's fault takes entries out of the scoreboard and the queues of its crucible. -/
theorem State.taskFault_cru (s : State) (t : TaskRef) (f : FaultInfo) :
    Crucible.Less ((s.taskFault t f).cru t.tile t.cru) (s.cru t.tile t.cru) := by
  unfold State.taskFault
  dsimp only
  have h1 : (s.recordFault t f).crus = s.crus :=
    ((State.recordFault_kept s t f).mono (m := [.regs, .tasks]) rfl).frame .crus (by decide)
  generalize s.recordFault t f = s1 at *
  generalize h2 : s1.setTask t.tile t.cru t.task _ = s2
  have h2' : s2.crus = s.crus := by rw [← h2]; exact h1
  have h3 := State.discard_cru s2 t (fun w => w.task = t.task && decide (f.seq < w.seq))
  generalize s2.discard t.tile t.cru _ = s3 at *
  rw [State.cru_congr h2'] at h3
  have h4 : (s3.raise (cruPage t.tile t.cru) 0).crus = s3.crus := State.raise_crus ..
  have h5 (u : State) (hu : u.crus = s3.crus) : Crucible.Less (u.cru t.tile t.cru) (s.cru t.tile t.cru) := State.cru_congr hu _ _ ▸ h3
  split
  · exact h5 _ ((State.report_crus ..).trans h4)
  · exact h5 _ ((State.report_crus ..).trans h4)

/-- A fault seen from before a re-evaluation of the crucible's tasks, where more has left since. -/
theorem FaultedAt.beforeWake {t : TaskRef} {seq code unit : Nat} {addr pc : Addr} {fs : List Field} {rs : List (Nat × Nat)} {s s1 u : State}
    {x : Crucible} (h : FaultedAt t seq code unit addr pc fs rs s1 u) (hf : Frame [.tasks] s s1)
    (hw : ∀ q : TaskRef, s1.taskAt q = if (q.tile, q.cru) = (t.tile, t.cru) then (s.taskAt q).rewait x else s.taskAt q)
    (hl : Crucible.Less (u.cru t.tile t.cru) x) : FaultedAt t seq code unit addr pc fs rs s u := by
  obtain ⟨a, a', b, c, d, e, f1, f2, f3, f4, f5, f6, f7, f8, f9, f10, f11, f12, f13, f14⟩ := h
  have hr : s1.regs = s.regs := hf .regs (by decide)
  have hc : s1.crus = s.crus := hf .crus (by decide)
  have er (p o hi lo : Nat) : s1.rf p o hi lo = s.rf p o hi lo := by
    unfold State.rf State.reg
    rw [hr]
  refine ⟨(hf.mono rfl).trans a, fun hn => ?_, (RegsOutside.of_regs hr).trans b, fun q hq => ?_, (CrusOutside.of_crus hc).trans d, e, ?_,
    f2, f3, f4, ?_, f6.trans (er ..), f7, f8, f9, ?_, f11, ?_, f13, f14⟩
  · refine (hf.mono rfl).trans (a' ?_)
    rw [State.noneAfter, State.cru_congr hc]
    exact hn
  · rw [c q hq, hw q]
    split
    · rw [Task.rewait_less _ hl]
    · rfl
  · rw [f1, hw t, if_pos rfl, Task.rewait_rest]
  · rw [f5, State.ts, State.ts, show s1.now = s.now from hf .now (by decide)]
  · exact Counts.before (RegsOutside.of_regs (l := []) hr) f10 (by decide) (by simp)
  · exact Counts.before (RegsOutside.of_regs (l := []) hr) f12 (by decide) (by simp)

/-! ### Undefined destinations -/

/-- A unit's write of bytes: counters of the PEAT page and the crucible's own gathering buffer. -/
theorem State.writePhys_gb (s : State) (t : TaskRef) (sp ph : Nat) (bs : List Byte) : GbKept t.tile t.cru s (s.writePhys t sp ph bs) := by
  unfold State.writePhys
  split
  · exact GbKept.same (RegsOutside.of_regs rfl) rfl
  · split
    · exact State.crucibleWritePeat_gb _ s t.tile t.cru ph bs
    · split
      · exact GbKept.same (RegsOutside.of_regs rfl) rfl
      · exact GbKept.refl ..

theorem State.spoil_gb (s : State) (c : UCtx) : GbKept c.t.tile c.t.cru s (s.spoil c) := by
  unfold State.spoil
  generalize s.destRanges c = l
  induction l generalizing s with
  | nil => exact GbKept.refl ..
  | cons p r ih =>
    refine GbKept.trans ?_ (ih _)
    dsimp only
    split
    · have hk := State.putFar_kept s c.t.tile p.space p.off (undefBytes s.fresh p.n)
      exact GbKept.same (RegsOutside.of_regs (hk.frame .regs (by decide))) (hk.frame .crus (by decide))
    · exact (State.writePhys_gb s c.t p.space p.off (undefBytes s.fresh p.n)).trans (GbKept.same (RegsOutside.of_regs rfl) rfl)

/-- A unit's own change of the gathering buffer leaves the scoreboard and the queues. -/
theorem GbKept.less {t : TaskRef} {s u : State} (h : GbKept t.tile t.cru s u) : Crucible.Less (u.cru t.tile t.cru) (s.cru t.tile t.cru) := by
  rw [h.own]
  refine ⟨List.Sublist.refl _, fun k => ?_⟩
  cases k <;> exact List.Sublist.refl _

theorem GbKept.works {t : TaskRef} {s u : State} (h : GbKept t.tile t.cru s u) :
    (u.cru t.tile t.cru).works = (s.cru t.tile t.cru).works := by
  rw [h.own]
  rfl

/-! ### The fault -/

/-- The fields that a unit's fault changes beside those of a fault of the issue stage. -/
def spoilFields : List Field := [.slots, .fresh, .pool, .poolBad, .peat, .peatBad, .mire, .probes, .rx]

theorem gbRegs_notFault (t : TaskRef) : (cruPage t.tile t.cru, Reg.TASK_FAULT t.task) ∉ gbRegs t.tile ∧
    counter (cruPage t.tile t.cru) 12 ∉ gbRegs t.tile ∧ counter (faultPage t.tile) 0 ∉ gbRegs t.tile := by
  have hk := t.cru.isLt
  refine ⟨?_, ?_, ?_⟩ <;> simp [gbRegs, counter, cruPage, faultPage, peatPage, tilePage]
  all_goals omega

/-- A unit's fault, where the task's fault record was empty. -/
theorem State.unitFault_faultedAt {s : State} (c : UCtx) (unit code : Nat) (addr : Addr) (off : Nat) (h : (s.taskAt c.t).faultSeq = none)
    (hc : code < 256) (hu : unit < 8) :
    FaultedAt c.t c.w.seq code unit addr c.w.pc spoilFields (gbRegs c.t.tile) s (s.unitFault c unit code addr off) := by
  unfold State.unitFault
  dsimp only
  obtain ⟨d1, d2, d3, d4, -⟩ := State.discard_spec s c.t (fun w => w.iid = c.w.iid)
  have d5 := State.discard_kept s c.t.tile c.t.cru (fun w => w.iid = c.w.iid)
  generalize s.discard c.t.tile c.t.cru _ = s1 at *
  have g2 := State.spoil_gb s1 c
  have k2 := State.spoil_kept s1 c
  generalize s1.spoil c = s2 at *
  have t2 (q : TaskRef) : s2.taskAt q = s1.taskAt q := State.taskAt_congr (k2.frame .tasks (by decide)) q
  have hs2 : (s2.taskAt c.t).faultSeq = none := by
    rw [t2, d4 c.t, if_pos rfl, Task.rewait_rest, ← h]
  have hf := State.taskFault_faultedAt (s := s2) ⟨code, unit, addr, c.w.pc, c.w.seq, off⟩ hs2 hc hu
  have hl := (State.taskFault_cru s2 c.t ⟨code, unit, addr, c.w.pc, c.w.seq, off⟩).trans g2.less
  generalize s2.taskFault c.t _ = u at *
  obtain ⟨s', e⟩ : ∃ s' : State, s' = { s2 with tasks := s.tasks } := ⟨_, rfl⟩
  have f2 : Frame [.tasks] s' s2 := by
    subst e
    intro f hn
    cases f
    case tasks => exact absurd List.mem_cons_self hn
    all_goals rfl
  have hk : Frame ([.fresh, .pool, .peat, .tasks, .crus, .slots, .probes, .rx, .regs, .mire, .poolBad, .peatBad]) s s' := by
    have a := ((d5.mono (m := [.fresh, .pool, .peat, .tasks, .crus, .slots, .probes, .rx, .regs, .mire, .poolBad, .peatBad]) rfl).step k2 rfl).frame
    subst e
    intro f hn
    have hm := a f hn
    cases f
    case tasks => rfl
    all_goals exact hm
  have ts (q : TaskRef) : s'.taskAt q = s.taskAt q := State.taskAt_congr (by rw [e]) q
  have hw := FaultedAt.beforeWake hf f2 (x := s1.cru c.t.tile c.t.cru) (fun q => by rw [t2, d4 q, ts]) hl
  obtain ⟨n1, n2, n3⟩ := gbRegs_notFault c.t
  have hcs : CrusOutside c.t s s' := d2.trans (fun i k n => by rw [e]; exact g2.other i k (fun c => cruKey_ne n c.symm))
  refine (hw.before hk (fs := spoilFields) (rs := gbRegs c.t.tile) (by simp) (by decide) (by rw [e]) hcs ?_ (by decide) ?_ n1 n2 n3)
  · intro hn
    unfold State.noneAfter at hn ⊢
    rw [show s'.cru c.t.tile c.t.cru = s2.cru c.t.tile c.t.cru from State.cru_congr (by rw [e]) _ _, g2.works, d3]
    exact List.all_eq_true.mpr fun w hw => List.all_eq_true.mp hn w (List.mem_of_mem_filter hw)
  · exact ((RegsOutside.of_regs d1).trans g2.regs).thenSame (by rw [e])

end Sys2Proof.Machine
end

section
/-! SUPPORT. What leads a unit to a fault: an uncorrectable error in its sources, and a slot's timeout (R96, R192, R198, R201). -/
namespace Sys2Proof.Machine
open Sys2Proof

/-! ### Errors noted on the memory's page -/

/-- An error noted on a page: its address and information where they may be recorded, its counter and its event. -/
theorem RegsOutside.noteError {l : List (Nat × Nat)} (s : State) (q : Bool) {pg a i k : Nat} (b : Nat) (x y : W64) (ha : a < 4096) (hi : i < 4096)
    (hk : k < 496) (ma : (pg, a) ∈ l) (mi : (pg, i) ∈ l) (mk : counter pg k ∈ l) (me : ∀ r ∈ evtRegs pg, r ∈ l) :
    RegsOutside l s ((State.bump (State.tickFresh (if q then (s.setReg pg a x).setReg pg i y else s)) pg k 1).raise pg b) := by
  have h : RegsOutside l s (if q then (s.setReg pg a x).setReg pg i y else s) :=
    RegsOutside.thenIf (fun _ => ((RegsOutside.refl _ s).thenSetReg pg a x ha ma).thenSetReg pg i y hi mi) (fun _ => RegsOutside.refl _ s)
  generalize (if q then (s.setReg pg a x).setReg pg i y else s) = u at *
  exact ((h.thenSame (u := u.tickFresh) rfl).thenBump pg k 1 hk mk).thenRaise pg b me

theorem RegsOutside.poolEcc_uncorrectable (s : State) (tile cru port off : Nat) (poison scrub : Bool) :
    RegsOutside (eccRegs tile) s (s.poolEcc tile cru port off .uncorrectable poison scrub) :=
  RegsOutside.noteError s _ (k := 3) 1 _ _ (by decide) (by decide) (by decide) (by simp [eccRegs]) (by simp [eccRegs]) (by simp [eccRegs])
    (fun x hx => List.mem_append_left _ (List.mem_append_right _ hx))

theorem RegsOutside.peatEcc_uncorrectable (s : State) (tile port off : Nat) (poison scrub : Bool) :
    RegsOutside (eccRegs tile) s (s.peatEcc tile port off .uncorrectable poison scrub) :=
  RegsOutside.noteError s _ (k := 5) 1 _ _ (by decide) (by decide) (by decide) (by simp [eccRegs]) (by simp [eccRegs]) (by simp [eccRegs])
    (fun x hx => List.mem_append_right _ hx)

theorem RegsOutside.unitEccNote (s : State) (c : UCtx) (u : UnitKind) (p : Piece) :
    RegsOutside (eccRegs c.t.tile) s (s.unitEccNote c u p .uncorrectable) := by
  unfold State.unitEccNote
  split
  · exact RegsOutside.refl _ _
  · rename_i mem off _
    dsimp only
    generalize (decide (EccResult.uncorrectable = EccResult.uncorrectable) && s.memPoisoned c.t mem off 1) = b
    split
    · exact RegsOutside.poolEcc_uncorrectable s c.t.tile mem 5 off b false
    · unfold State.nearEcc
      split
      · exact RegsOutside.peatEcc_uncorrectable s c.t.tile c.t.cru off b false
      · exact RegsOutside.poolEcc_uncorrectable s c.t.tile c.t.cru (unitCode u - 1) off b false

theorem eccRegs_notFault (t : TaskRef) : (cruPage t.tile t.cru, Reg.TASK_FAULT t.task) ∉ eccRegs t.tile ∧
    counter (cruPage t.tile t.cru) 12 ∉ eccRegs t.tile ∧ counter (faultPage t.tile) 0 ∉ eccRegs t.tile := by
  have hk := t.cru.isLt
  have hi := t.tile.isLt
  refine ⟨?_, ?_, ?_⟩ <;> simp [eccRegs, evtRegs_eq, counter, cruPage, faultPage, peatPage, poolPage, tilePage]
  all_goals omega

/-- An uncorrectable error that a unit meets: noted, and the instruction's fault. -/
theorem State.unitEcc_faultedAt {s : State} (c : UCtx) (u : UnitKind) (p : Piece) (h : (s.taskAt c.t).faultSeq = none) :
    FaultedAt c.t c.w.seq (if p.space = spSibling then fRemote else fEcc) (if p.space = spSibling then 5 else unitCode u) p.addr c.w.pc
      spoilFields (gbRegs c.t.tile ++ eccRegs c.t.tile) s (s.unitEcc c u p) := by
  have hu : unitCode u < 8 := by cases u <;> decide
  unfold State.unitEcc
  dsimp only
  have k1 := State.unitEccNote_kept s c u p .uncorrectable
  have r1 := RegsOutside.unitEccNote s c u p
  generalize s.unitEccNote c u p .uncorrectable = s1 at *
  have h1 : (s1.taskAt c.t).faultSeq = none := by rw [State.taskAt_congr (k1.frame .tasks (by decide)), h]
  obtain ⟨n1, n2, n3⟩ := eccRegs_notFault c.t
  have hc : s1.crus = s.crus := k1.frame .crus (by decide)
  have note {code unit off : Nat} (hf : FaultedAt c.t c.w.seq code unit p.addr c.w.pc spoilFields (gbRegs c.t.tile) s1
      (s1.unitFault c unit code p.addr off)) : FaultedAt c.t c.w.seq code unit p.addr c.w.pc spoilFields
        (gbRegs c.t.tile ++ eccRegs c.t.tile) s (s1.unitFault c unit code p.addr off) :=
    hf.before k1.frame (fun _ h => h) (by decide) (k1.frame .tasks (by decide)) (CrusOutside.of_crus hc)
      (fun k => by rw [State.noneAfter, State.cru_congr hc]; exact k) (by decide) r1 n1 n2 n3
  split
  · exact note (State.unitFault_faultedAt c 5 fRemote p.addr 0 h1 (by decide) (by decide))
  · exact note (State.unitFault_faultedAt c (unitCode u) fEcc p.addr p.off h1 (by decide) hu)

/-! ### A fault after claims -/

/-- Which tasks' instructions a queue holds, and their order, does not hang on the notes of their claims. -/
theorem State.noneAfter_mapWork (s : State) (t : TaskRef) (u : UnitKind) (iid seq : Nat) {f : Work → Work}
    (hf : ∀ w, (f w).task = w.task ∧ (f w).seq = w.seq) (h : s.noneAfter t seq = true) : (s.mapWork t u iid f).noneAfter t seq = true := by
  have hq (q : UnitKind) : (((s.mapWork t u iid f).cru t.tile t.cru).queue q).all (fun w => w.task ≠ t.task || decide (w.seq ≤ seq)) =
      ((s.cru t.tile t.cru).queue q).all (fun w => w.task ≠ t.task || decide (w.seq ≤ seq)) := by
    rw [State.queue_mapWork]
    split
    · rename_i e
      rw [e.2, List.all_map]
      congr 1
      funext w
      dsimp only [Function.comp]
      split
      · rw [(hf w).1, (hf w).2]
      · rfl
    · rfl
  have hw (c : Crucible) (p : Work → Bool) : c.works.all p =
      ((c.queue .mould).all p && (c.queue .vector).all p && (c.queue .attention).all p && (c.queue .runner).all p) := by
    simp [Crucible.works, Crucible.queue, Bool.and_assoc]
  unfold State.noneAfter at h ⊢
  rw [hw] at h ⊢
  simp only [hq]
  exact h

/-- A fault of an instruction that has claimed its slots, seen from before the claims. -/
theorem FaultedAt.beforeClaims {c : UCtx} {u : UnitKind} {l : List SlotNeed} {seq code unit : Nat} {addr pc : Addr} {rs : List (Nat × Nat)}
    {s s1 v : State} (hc : s.claimNeeds c u l = (true, s1)) (h : FaultedAt c.t seq code unit addr pc spoilFields rs s1 v) :
    FaultedAt c.t seq code unit addr pc spoilFields rs s v := by
  have hf := State.claimNeeds_held hc
  obtain ⟨s2, f, h2, hw, he⟩ : ∃ s2 f, Kept [.slots] s s2 ∧ (∀ w : Work, (f w).task = w.task ∧ (f w).seq = w.seq) ∧
      s1 = s2.mapWork c.t u c.w.iid f := by
    unfold State.claimNeeds at hc
    have hk := State.claimAll_keptP s c.t.tile (unitRank c.t.cru u) c.w.claims l
    generalize s.claimAll c.t.tile (unitRank c.t.cru u) c.w.claims l = r at *
    obtain ⟨t, held, miss⟩ := r
    cases miss with
    | some n => cases hc
    | none =>
      cases hc
      exact ⟨t, fun w => { w with claims := held, since := none, want := none }, hk, fun w => ⟨rfl, rfl⟩, rfl⟩
  have c2 : s2.crus = s.crus := h2.frame .crus (by decide)
  have := h.before hf (fs := spoilFields) (rs := []) (fun _ h => h) (by decide) (hf .tasks (by decide))
    (he ▸ (CrusOutside.of_crus c2).trans (CrusOutside.mapWork s2 c.t u c.w.iid f))
    (fun k => he ▸ State.noneAfter_mapWork s2 c.t u c.w.iid seq hw (by rw [State.noneAfter, State.cru_congr c2]; exact k))
    (by decide) (RegsOutside.of_regs (hf .regs (by decide))) (by simp) (by simp) (by simp)
  rwa [List.append_nil] at this

/-! ### The timeout of a slot -/

/-- A timeout counted on its memory's page, and raised there (R204, R206). -/
theorem State.countTimeout_frame (s : State) (tile : Nat) (peat : Bool) :
    let pg := cregPage tile peat
    let slot := if peat then 7 else 5
    let v := s.countTimeout tile peat
    RegsOutside (counter pg slot :: evtRegs pg) s v ∧ Counts s v pg slot 1 ∧ Raised v pg 2 := by
  intro pg slot v
  have hs : slot = 7 ∨ slot = 5 := by unfold slot; split <;> simp
  have hc : Counts s (s.bump pg slot 1) pg slot 1 := Counts.bump ..
  refine ⟨((RegsOutside.refl _ s).thenBump pg slot 1 (by omega) List.mem_cons_self).thenRaise pg 2 (fun x hx => List.mem_cons_of_mem _ hx),
    hc.after (RegsOutside.raise _ pg 2) (by omega) ?_, Raised.raise _ pg 2 (by decide)⟩
  simp [evtRegs_eq, counter, Reg.COUNTER]
  omega

/-- The address of the slot that an instruction waits for. -/
def State.waitAddr (s : State) (c : UCtx) (x : Claim) : Addr :=
  match (s.slotNeeds c ++ s.lateNeeds c).find? (fun n => (n.claim c.t.tile).same x) with
  | some n => n.addr
  | none => 0

/-- The registers of a page's own that a fault of the tile writes, and those that a timeout writes, are apart. -/
theorem timeoutRegs_notFault (t : TaskRef) (peat : Bool) :
    let l := counter (cregPage t.tile peat) (if peat then 7 else 5) :: evtRegs (cregPage t.tile peat)
    (cruPage t.tile t.cru, Reg.TASK_FAULT t.task) ∉ l ∧ counter (cruPage t.tile t.cru) 12 ∉ l ∧ counter (faultPage t.tile) 0 ∉ l := by
  have hk := t.cru.isLt
  have hi := t.tile.isLt
  cases peat <;> refine ⟨?_, ?_, ?_⟩ <;> simp [evtRegs_eq, counter, Reg.COUNTER, cregPage, cruPage, faultPage, peatPage, poolPage, tilePage]
  all_goals omega

theorem faultRegs_notTimeout (t : TaskRef) (peat : Bool) :
    let pg := cruPage t.tile t.cru
    let fp := faultPage t.tile
    let l := [(pg, Reg.TASK_FAULT t.task), (pg, Reg.TASK_FADDR t.task), (pg, Reg.TASK_FPC t.task), counter pg 12,
      (fp, Reg.FAULT_REC), (fp, Reg.FAULT_INFO), counter fp 0] ++ evtRegs pg ++ evtRegs fp ++ gbRegs t.tile
    counter (cregPage t.tile peat) (if peat then 7 else 5) ∉ l ∧ (cregPage t.tile peat, Reg.EVT_RAW) ∉ l := by
  have hk := t.cru.isLt
  have hi := t.tile.isLt
  cases peat <;> refine ⟨?_, ?_⟩ <;>
    simp [evtRegs_eq, gbRegs, counter, Reg.COUNTER, Reg.EVT_RAW, cregPage, cruPage, faultPage, peatPage, poolPage, tilePage]
  all_goals omega

/-- A fault of a unit after its timeout was counted. -/
theorem State.timeoutFault_spec {s : State} (c : UCtx) (unit : Nat) (peat : Bool) (addr : Addr) (off : Nat) (h : (s.taskAt c.t).faultSeq = none)
    (hu : unit < 8) :
    let pg := cregPage c.t.tile peat
    let slot := if peat then 7 else 5
    let v := (s.countTimeout c.t.tile peat).unitFault c unit fSlotTimeout addr off
    FaultedAt c.t c.w.seq fSlotTimeout unit addr c.w.pc spoilFields (gbRegs c.t.tile ++ (counter pg slot :: evtRegs pg)) s v ∧
      Counts s v pg slot 1 ∧ Raised v pg 2 := by
  intro pg slot v
  obtain ⟨r1, c1, e1⟩ := State.countTimeout_frame s c.t.tile peat
  have k1 := State.countTimeout_kept s c.t.tile peat
  have h1 : ((s.countTimeout c.t.tile peat).taskAt c.t).faultSeq = none := by rw [State.taskAt_congr (k1.frame .tasks (by decide)), h]
  have hf := State.unitFault_faultedAt (s := s.countTimeout c.t.tile peat) c unit fSlotTimeout addr off h1 (by decide) hu
  have hv : v = (s.countTimeout c.t.tile peat).unitFault c unit fSlotTimeout addr off := rfl
  clear_value v
  rw [← hv] at hf
  generalize s.countTimeout c.t.tile peat = s1 at *
  have hc : s1.crus = s.crus := k1.frame .crus (by decide)
  obtain ⟨n1, n2, n3⟩ := timeoutRegs_notFault c.t peat
  obtain ⟨m1, m2⟩ := faultRegs_notTimeout c.t peat
  have hs : slot = 7 ∨ slot = 5 := by unfold slot; split <;> simp
  obtain ⟨-, -, hr, -⟩ := id hf
  refine ⟨hf.before k1.frame (fun _ h => h) (by decide) (k1.frame .tasks (by decide)) (CrusOutside.of_crus hc)
      (fun k => by rw [State.noneAfter, State.cru_congr hc]; exact k) (by decide) r1 n1 n2 n3,
    c1.after hr (by omega) m1, e1.outside hr m2⟩

/-- A wait on a slot that is over. -/
theorem State.unitTimeout_over {s : State} {c : UCtx} {u : UnitKind} {x : Claim} {t0 : Nat} (hw : c.w.want = some x) (hs : c.w.since = some t0)
    (h0 : s.cregTmo c.t.tile x.peat x.reg ≠ 0) (h1 : t0 + s.cregTmo c.t.tile x.peat x.reg ≤ s.up)
    (h2 : s.claimable c.t.tile (unitRank c.t.cru u) x = false) :
    s.unitTimeout c u = (s.countTimeout c.t.tile x.peat).unitFault c (unitCode u) fSlotTimeout (s.waitAddr c x) 0 := by
  unfold State.unitTimeout
  rw [hw, hs]
  exact if_pos (by simp [h0, h1, h2])

/-! ### The commands -/

section Commands
variable {tile : TileIx} {cru : CruIx} {u : UnitKind} {c : UCtx} {s s0 s1 : State} {k : Nat}

theorem State.unitMeets_uncorrectable {addr : Addr} {p : Piece} (hn : s0.nothingToDo c = false) (ha : s0.sourceAt c addr = some p)
    (hr : s0.readyWork c u = (true, s1)) : s0.unitMeets c u .uncorrectable addr = s1.unitEcc (s1.again c u) u p := by
  unfold State.unitMeets
  simp only [hn, ha, hr, Bool.false_eq_true, if_false]

theorem exec_unitInstrComplete_meets {e : EccResult} {addr : Addr} (h : s.unitWork tile cru u k = (s0, some c)) (hq : c.w.phase = .queued)
    (he : e ≠ .clean) : exec (.unitInstrComplete tile cru u k e addr) s = .next (s0.unitMeets c u e addr) := by
  show execUnitInstrComplete tile cru u k e addr s = _
  unfold execUnitInstrComplete
  simp only [h, hq, if_neg he]

theorem exec_unitFault_ecc {addr : Addr} {p : Piece} (h : s.unitWork tile cru u k = (s0, some c)) (hq : c.w.phase = .queued)
    (ha : s0.sourceAt c addr = some p) :
    exec (.unitFault tile cru u k (BitVec.ofNat 8 fEcc) addr) s = .next (s0.unitMeets c u .uncorrectable addr) := by
  show execUnitFault tile cru u k (BitVec.ofNat 8 fEcc) addr s = _
  unfold execUnitFault
  have h1 : (BitVec.ofNat 8 fEcc).toNat ≠ fSlotTimeout := by decide
  have h2 : (BitVec.ofNat 8 fEcc).toNat = fEcc := by decide
  simp only [h, if_neg h1, hq, ne_eq, not_true_eq_false, if_false, if_pos h2, ha, Option.isSome_some, if_true]

theorem exec_unitFault_timeout (addr : Addr) (h : s.unitWork tile cru u k = (s0, some c)) :
    exec (.unitFault tile cru u k (BitVec.ofNat 8 fSlotTimeout) addr) s = .next (s0.unitTimeout c u) := by
  show execUnitFault tile cru u k (BitVec.ofNat 8 fSlotTimeout) addr s = _
  unfold execUnitFault
  have h1 : (BitVec.ofNat 8 fSlotTimeout).toNat = fSlotTimeout := by decide
  simp only [h, if_pos h1]

theorem exec_unitFault_other {code : BitVec 8} (addr : Addr) (h : s.unitWork tile cru u k = (s0, some c)) (hq : c.w.phase = .queued)
    (h1 : code.toNat ≠ fSlotTimeout) (h2 : code.toNat ≠ fEcc) :
    exec (.unitFault tile cru u k code addr) s =
      .next (if (s0.advanceWork c u).faultsOf c.t = s0.faultsOf c.t then s0 else s0.advanceWork c u) := by
  show execUnitFault tile cru u k code addr s = _
  unfold execUnitFault
  simp only [h, if_neg h1, hq, ne_eq, not_true_eq_false, if_false, if_neg h2]

theorem exec_slotTimeout_unit (h : s.waitingWork tile cru u = some c) :
    exec (.slotTimeout (.unit tile cru u)) s = .next (s.unitTimeout c u) := by
  show execSlotTimeout (.unit tile cru u) s = _
  unfold execSlotTimeout
  simp only [h]

/-- A unit that is ready has claimed the slots of its instruction. -/
theorem State.claimWork_of_ready (h : s0.readyWork c u = (true, s1)) : s0.claimWork c u = (true, s1) := by
  unfold State.readyWork at h
  split at h
  · cases h
  · split at h
    · cases h
    · rename_i t ht
      cases h
      exact ht
end Commands

end Sys2Proof.Machine
end

section
/-! PROOF. Slot waits, the re-read of a KVPUT, unit faults and illegal encodings (R96 to R99, R121, R165, R192 to R201, R219, R220). -/
namespace Sys2Proof.Machine
open Sys2Proof

section UnitFaults
variable {tile : TileIx} {cru : CruIx} {u : UnitKind} {c : UCtx} {s s0 : State}

/-- An uncorrectable error met while the unit reads its sources, by either command. -/
theorem unitStops_ecc {k : Nat} {addr : Addr} {p : Piece} {s1 : State} (hf : (s0.taskAt c.t).faultSeq = none)
    (hw : s.unitWork tile cru u k = (s0, some c)) (hq : c.w.phase = .queued) (hn : s0.nothingToDo c = false)
    (ha : s0.sourceAt c addr = some p) (hr : s0.readyWork c u = (true, s1)) :
    let v := s1.unitEcc (s1.again c u) u p
    exec (.unitFault tile cru u k (BitVec.ofNat 8 fEcc) addr) s = .next v ∧
      exec (.unitInstrComplete tile cru u k .uncorrectable addr) s = .next v ∧
      FaultedAt c.t (s1.again c u).w.seq (if p.space = spSibling then fRemote else fEcc) (if p.space = spSibling then 5 else unitCode u) p.addr
        (s1.again c u).w.pc spoilFields (gbRegs c.t.tile ++ eccRegs c.t.tile) s0 v := by
  have hm := State.unitMeets_uncorrectable hn ha hr
  have hc : s0.claimNeeds c u (s0.slotNeeds c) = (true, s1) := State.claimWork_of_ready hr
  have ht : (s1.again c u).t = c.t := State.again_t s1 c u
  have h1 : (s1.taskAt (s1.again c u).t).faultSeq = none := by
    rw [ht, State.taskAt_congr (State.claimNeeds_held hc .tasks (by decide)), hf]
  have he := State.unitEcc_faultedAt (s1.again c u) u p h1
  rw [ht] at he
  refine ⟨(exec_unitFault_ecc hw hq ha).trans ?_, (exec_unitInstrComplete_meets hw hq (by decide)).trans ?_, he.beforeClaims hc⟩
  · rw [hm]
  · rw [hm]
end UnitFaults

/-- Settles O21: waits on slots, the re-read of a KVPUT, faults of the units, and encodings that decode to no instruction. -/
theorem unitStops : Obligations.UnitStops := by
  unfold Obligations.UnitStops
  refine ⟨?_, ?_, ?_, ?_⟩
  · rintro tile cru u c n r s s0 rfl rfl hn ha hj hp hs hc hx begins waits
    have hv : waits (s0.advanceWork c u) := State.advanceWork_slotWaits hn ha hj hp hs hc hx
    refine ⟨fun k a hw hq => ⟨_, exec_unitInstrComplete_clean a hw hq, hv⟩, fun hw hm e => ?_⟩
    subst e
    exact ⟨_, exec_resume_unit hw hm, hv⟩
  · intro tile cru c t h o s s1 hw hq hi s0 hn ha hp hc c1 hi1 hs
    obtain ⟨-, ht⟩ := State.unitWork_front hw
    have hrun := exec_kvputEntryReread_run hw hq hi hn ha hp hc
    have et : c1.t = c.t := State.again_t s1 c .attention
    have ei : c1.w.iid = c.w.iid := State.again_iid s1 c .attention
    refine ⟨fun s2 hk => ⟨_, hrun, ?_⟩, fun s2 fl hk => ⟨_, hrun, ?_⟩⟩
    · have hv := State.runWork_kvput_wait (hi1.trans hi) hs hk
      rw [et, ei] at hv
      exact ⟨hv, kvputReread_waits rfl hc hk hv ht⟩
    · rw [State.runWork_kvput_done (hi1.trans hi) hs hk, ← et]
      exact State.applyAtt_done_ended s1 s2 c1 {} h fl
  · rintro tile cru u c s s0 hf rfl rfl ends
    refine ⟨fun k addr p s1 hw hq hn ha hr => ?_, fun k code addr hw hq h1 h2 => ?_, fun x t0 hx ht h0 h1 h2 => ?_⟩
    · obtain ⟨e1, e2, he⟩ := unitStops_ecc hf hw hq hn ha hr
      exact ⟨⟨_, e1, he⟩, ⟨_, e2, he⟩⟩
    · exact ⟨_, exec_unitInstrComplete_clean addr hw hq, _, exec_unitFault_other addr hw hq h1 h2, rfl⟩
    · have hv := State.timeoutFault_spec c (unitCode u) x.peat (s0.waitAddr c x) 0 hf (by cases u <;> decide)
      have ho := State.unitTimeout_over hx ht h0 h1 h2
      dsimp only at hv
      rw [← ho] at hv
      intro pg slot addr
      have ha : addr = s0.waitAddr c x := by
        unfold State.waitAddr addr
        generalize (s0.slotNeeds c ++ s0.lateNeeds c).find? (fun n => (n.claim c.t.tile).same x) = y
        cases y <;> rfl
      rw [← ha] at hv
      clear_value addr
      refine ⟨fun k a hw => ⟨_, exec_unitFault_timeout a hw, hv⟩, fun hw e => ?_⟩
      subst e
      exact ⟨_, exec_slotTimeout_unit hw, hv⟩
  · intro t parcels n s hn hd hc hf hk hi
    refine ⟨_, ?_, State.issueFault_faulted 0 hf (by decide)⟩
    show execIllegal t parcels s = _
    unfold execIllegal
    dsimp only
    rw [← hn, hd]
    exact congrArg Host.Outcome.next (State.issue_of_stop (State.issueStop_illegal (q := ⟨n, true, 0, []⟩) hc hk hi rfl) id)

end Sys2Proof.Machine
end

section
/-! SUPPORT. Packets that come to a tile, and those that it sends in answer (R317 to R324, R332). -/
namespace Sys2Proof.Machine
open Sys2Proof

/-! ### What an injection decides from -/

/-- Two states agree in all that a tile's injections decide from, and in the epochs that they stamp. -/
structure SendSame (s u : State) : Prop where
  polderOf : ∀ i, u.polderOf i = s.polderOf i
  member : ∀ i, u.member i = s.member i
  epochOf : ∀ i p, u.epochOf i p = s.epochOf i p
  gateway : ∀ i d, u.gateway i d = s.gateway i d
  live : ∀ i, u.live i = s.live i
  fencedPort : ∀ i k, u.fencedPort i k = s.fencedPort i k
  routes : u.routes = s.routes

theorem SendSame.refl (s : State) : SendSame s s :=
  ⟨fun _ => rfl, fun _ => rfl, fun _ _ => rfl, fun _ _ => rfl, fun _ => rfl, fun _ _ => rfl, rfl⟩

theorem SendSame.trans {r s t : State} (h : SendSame r s) (k : SendSame s t) : SendSame r t :=
  ⟨fun i => (k.polderOf i).trans (h.polderOf i), fun i => (k.member i).trans (h.member i), fun i p => (k.epochOf i p).trans (h.epochOf i p),
    fun i d => (k.gateway i d).trans (h.gateway i d), fun i => (k.live i).trans (h.live i),
    fun i n => (k.fencedPort i n).trans (h.fencedPort i n), k.routes.trans h.routes⟩

/-- Only common registers, or registers of crucibles, changed. -/
theorem SendSame.of_outside {l : List (Nat × Nat)} {s u : State} (h : RegsOutside l s u)
    (hl : ∀ x ∈ l, x.2 < 0x100 ∨ ∃ t : TaskRef, x.1 = cruPage t.tile t.cru) (hr : u.routes = s.routes) : SendSame s u := by
  have same (p o : Nat) (a : 0x100 ≤ o) (b : o < 4096) (hp : ∀ t : TaskRef, p ≠ cruPage t.tile t.cru) : u.reg p o = s.reg p o := by
    refine h p o b fun c => ?_
    obtain ho | ⟨t, ht⟩ := hl _ c
    · exact absurd ho (Nat.not_lt.mpr a)
    · exact hp t ht
  have cetis (i : Nat) (t : TaskRef) : cetisPage i ≠ cruPage t.tile t.cru := by
    have := t.cru.isLt
    simp only [cetisPage, cruPage, tilePage]
    omega
  have polder (t : TaskRef) : polderPage ≠ cruPage t.tile t.cru := by
    have := t.cru.isLt
    have := t.tile.isLt
    simp only [polderPage, cruPage, tilePage]
    omega
  have rf (i o hi lo : Nat) (a : 0x100 ≤ o) (b : o < 4096) : u.rf (cetisPage i) o hi lo = s.rf (cetisPage i) o hi lo := by
    unfold State.rf
    rw [same _ _ a b (cetis i)]
  have rb (i o n : Nat) (a : 0x100 ≤ o) (b : o < 4096) : u.rb (cetisPage i) o n = s.rb (cetisPage i) o n := by
    unfold State.rb
    rw [same _ _ a b (cetis i)]
  refine ⟨fun i => rf _ _ _ _ (by decide) (by decide), fun i => rb _ _ _ (by decide) (by decide), fun i p => rf _ _ _ _ (by decide) (by decide),
    fun i d => rf _ _ _ _ (by decide) (by decide), fun i => ?_, fun i k => congrArg _ (rb _ _ _ (by decide) (by decide)), hr⟩
  unfold State.live
  by_cases hi : i < 80
  · unfold State.tstate State.rf
    rw [same polderPage _ (by unfold Reg.TSTATE; omega) (by unfold Reg.TSTATE; omega) polder]
  · simp [hi]

theorem SendSame.pickSet {s u : State} (h : SendSame s u) (sc : Scope) (p a b : Nat) : u.pickSet sc p a b = s.pickSet sc p a b := by
  unfold State.pickSet
  simp only [h.live, h.member, h.polderOf]

theorem SendSame.hasRoute {s u : State} (h : SendSame s u) (k a b : Nat) : u.hasRoute k a b = s.hasRoute k a b := by
  unfold State.hasRoute State.route
  rw [h.routes]

theorem SendSame.inject {s u : State} (h : SendSame s u) (i p : Nat) (m : Send) : (u.inject i p m).isSome = (s.inject i p m).isSome := by
  rw [State.inject_isSome, State.inject_isSome]
  simp only [h.gateway, h.polderOf, h.pickSet, h.hasRoute]

theorem SendSame.sent {s u : State} (h : SendSame s u) {p : Packet} {i pol : Nat} {m : Send} (k : u.sent p i pol m) : s.sent p i pol m := by
  unfold State.sent at k ⊢
  rw [← h.epochOf]
  exact k

/-- Taking a packet out of the mesh, or claiming a slot, changes nothing that an injection decides from. -/
theorem SendSame.takePkt (s : State) (p : Packet) : SendSame s (s.takePkt p) :=
  SendSame.of_outside (l := []) (RegsOutside.of_regs rfl) (by simp) rfl

theorem SendSame.takeSlot (s : State) (c : Claim) : SendSame s (s.takeSlot c) :=
  SendSame.of_outside (l := []) (RegsOutside.of_regs rfl) (by simp) rfl

/-! ### Packets sent -/

/-- Packets that a tile can send on behalf of its polder, all sent: each waits behind those before it. -/
theorem State.injectMove_sent {s t : State} {i : Nat} {l : List Send} (hs : SendSame s t) (hl : ∀ m ∈ l, s.canSend i m = true)
    (ho : ∀ m ∈ l, opDefined (m.op % 256) = true) :
    ∃ v ts, t.injectMove i (s.polderOf i) l = some v ∧ v.net = t.net ++ ts ∧
      List.Forall₂ (fun x m => s.sent x.pkt i (s.polderOf i) m ∧ x.tile = i ∧ x.inPort = 5) ts l ∧
      Frame [.net, .regs, .ports] t v ∧ RegsOutside [counter (cetisPage i) 10] t v := by
  induction l generalizing t with
  | nil => exact ⟨t, [], rfl, (List.append_nil _).symm, .nil, (Kept.refl [.net, .regs, .ports] t).frame, RegsOutside.refl _ _⟩
  | cons m r ih =>
    have hm := hl m List.mem_cons_self
    unfold State.canSend State.canSendAs at hm
    rw [Bool.and_eq_true, List.all_eq_true] at hm
    obtain ⟨hi, hf⟩ := hm
    obtain ⟨v, hv⟩ := Option.isSome_iff_exists.mp ((hs.inject i (s.polderOf i) m).trans hi)
    obtain ⟨⟨x, hn, hx, h1, h2⟩, fv, rv, -⟩ := State.inject_some hv (State.polderOf_lt s i) (ho m List.mem_cons_self)
      (fun k hk => (hs.fencedPort i k).trans (by simpa using hf k (List.mem_range.mpr hk)))
    have sv : SendSame t v := SendSame.of_outside rv (by simp [counter, Reg.COUNTER]) (fv .routes (by decide))
    obtain ⟨u, ts, hu, hn', hx', fu, ru⟩ := ih (hs.trans sv) (fun m hm => hl m (List.mem_cons_of_mem _ hm))
      (fun m hm => ho m (List.mem_cons_of_mem _ hm))
    refine ⟨u, x :: ts, ?_, ?_, .cons ⟨hs.sent hx, h1, h2⟩ hx', fv.trans fu, rv.trans ru⟩
    · unfold State.injectMove
      rw [hv]
      exact hu
    · rw [hn', hn, List.append_assoc]
      rfl

/-- A reply that a tile can send, sent. -/
theorem State.tileReply_sent {s t : State} {i : Nat} {p : Packet} {op addr operand : Nat} {payload : List Byte} (hs : SendSame s t)
    (hc : s.canSend i (replyTo p op addr operand payload) = true) (ho : opDefined (op % 256) = true) (hn : t.net = s.net) :
    let u := t.tileReply i p op addr operand payload
    s.injected u i [replyTo p op addr operand payload] ∧ Frame [.net, .regs, .ports] t u ∧ RegsOutside [counter (cetisPage i) 10] t u := by
  obtain ⟨v, ts, hv, hnet, hx, hf, hr⟩ := State.injectMove_sent (l := [replyTo p op addr operand payload]) hs
    (by simpa using hc) (by simpa [replyTo] using ho)
  have e : t.tileReply i p op addr operand payload = v := by
    unfold State.injectMove at hv
    cases hi : t.inject i (s.polderOf i) (replyTo p op addr operand payload) with
    | none =>
      rw [hi] at hv
      cases hv
    | some w =>
      rw [hi] at hv
      obtain rfl : w = v := Option.some.inj hv
      show t.injectOr i (t.polderOf i) (replyTo p op addr operand payload) = w
      unfold State.injectOr
      rw [hs.polderOf, hi]
  rw [e]
  exact ⟨⟨ts, by rw [hnet, hn], hx⟩, hf, hr⟩

/-! ### Packets delivered -/

/-- A packet that a tile accepts is taken out of the mesh and acted on. -/
theorem State.eject_accepted {s : State} {i : TileIx} {op : Nat} {p : Packet} (h : s.accepts i op p = true) (f : Nat → State → State) :
    s.eject op p f = f i (s.takePkt p) := by
  unfold State.accepts at h
  simp only [Bool.and_eq_true, decide_eq_true_eq] at h
  obtain ⟨⟨⟨-, ha⟩, hd⟩, hc⟩ := h
  have hi : ¬ 80 ≤ i.val := Nat.not_le.mpr i.isLt
  unfold State.eject
  dsimp only
  rw [ha, hd, show (s.takePkt p).ejectCause i p = s.ejectCause i p from rfl, Option.isNone_iff_eq_none.mp hc]
  simp [hi]

theorem State.accepts_wf {s : State} {i : TileIx} {op : Nat} {p : Packet} (h : s.accepts i op p = true) :
    p.wf = true ∧ p.dst.toNat = i.val ∧ isDie p.dst.toNat = false := by
  unfold State.accepts at h
  simp only [Bool.and_eq_true, decide_eq_true_eq] at h
  obtain ⟨⟨⟨hw, -⟩, hd⟩, -⟩ := h
  refine ⟨hw, hd, ?_⟩
  have := i.isLt
  rw [hd]
  simp only [isDie, decide_eq_false_iff_not]
  omega

end Sys2Proof.Machine
end

section
/-! SUPPORT. Probes, grants and refusals at a tile (R192, R193, R198, R201). -/
namespace Sys2Proof.Machine
open Sys2Proof

/-! ### Records of moves, and the probe table -/

theorem State.rxOf_congr {s u : State} (h : u.rx = s.rx) (i : Nat) (p : Packet) (n : Nat) : u.rxOf i p n = s.rxOf i p n := by
  unfold State.rxOf
  rw [h]

theorem State.probesAt_congr {s u : State} (h : u.probes = s.probes) (i : Nat) : u.probesAt i = s.probesAt i := by
  unfold State.probesAt
  rw [h]

theorem State.probesAt_setProbes (s : State) (i : Nat) (l : List Probe) : (s.setProbes i l).probesAt i = l := Store.get_set_same ..

theorem find?_filter_not {α : Type} (q : α → Bool) (l : List α) : (l.filter (fun x => !q x)).find? q = none := by
  rw [List.find?_eq_none]
  intro x hx
  simpa using List.of_mem_filter hx

/-- The record of a move, put in place of the one that it had. -/
theorem State.rxOf_setRx (s : State) (i : Nat) (p : Packet) (m : RxMove) (hs : m.src = p.src.toNat) (ht : m.tag = p.tag.toNat) :
    ((s.setRx i ((s.rxOf i p 0).2 ++ [m])).rxOf i p 0).1 = m := by
  have hg (l : List RxMove) : Store.get [] (s.setRx i l).rx i = l := Store.get_set_same ..
  unfold State.rxOf
  dsimp only
  rw [hg, List.find?_append, find?_filter_not]
  simp [hs, ht]

/-! ### A probe tried -/

/-- The record of a move whose probe was granted its first slot: that slot, and those still to claim. -/
def State.probeRecord (s : State) (p : Packet) (c : Claim) (r : List Claim) : RxMove :=
  { src := p.src.toNat, tag := p.tag.toNat, bytes := 0, total := ((s.probePieces p).map (·.n)).sum, claims := [c], todo := r }

section Probes
variable {s t : State} {i : TileIx} {p : Packet} {k : Nat} {c : Claim} {r : List Claim}

theorem State.tryProbe_free (hn : (t.probeNeeds i p).map (·.claim i) = []) : t.tryProbe i k p = (true, t.grantProbe i p [] []) := by
  unfold State.tryProbe
  rw [hn]

theorem State.tryProbe_claims (hn : (t.probeNeeds i p).map (·.claim i) = c :: r) (hc : t.claimable i (probeRank k) c = true) :
    t.tryProbe i k p = (true, (t.takeSlot c).grantProbe i p [c] r) := by
  unfold State.tryProbe
  rw [hn]
  exact if_pos hc

theorem State.tryProbe_waits (hn : (t.probeNeeds i p).map (·.claim i) = c :: r) (hc : t.claimable i (probeRank k) c = false) :
    t.tryProbe i k p = (false, t.parkProbe i k p c) := by
  unfold State.tryProbe
  rw [hn]
  exact if_neg (by rw [hc]; decide)

/-- A grant of nothing: the answer alone. -/
theorem State.grantProbe_free (hs : SendSame s t) (hn : t.net = s.net) (hc : s.canSend i (replyTo p opGrant p.addr.toNat 0 []) = true) :
    let u := t.grantProbe i p [] []
    Frame [.net, .regs, .ports] t u ∧ s.injected u i [replyTo p opGrant p.addr.toNat 0 []] ∧ RegsOutside [counter (cetisPage i) 10] t u := by
  obtain ⟨h1, h2, h3⟩ := State.tileReply_sent hs hc (by decide) hn
  exact ⟨h2, h1, h3⟩

/-- A grant of the first slot: the record of the move with that slot and those still to claim, and the answer. -/
theorem State.grantProbe_claims (hs : SendSame s t) (hn : t.net = s.net) (hc : s.canSend i (replyTo p opGrant p.addr.toNat 0 []) = true) :
    let u := t.grantProbe i p [c] r
    Frame [.net, .regs, .ports, .rx] t u ∧ s.injected u i [replyTo p opGrant p.addr.toNat 0 []] ∧ RegsOutside [counter (cetisPage i) 10] t u ∧
      (u.rxOf i p 0).1 = t.probeRecord p c r := by
  intro u
  obtain ⟨m, hm⟩ : ∃ m : RxMove, m = t.probeRecord p c r := ⟨_, rfl⟩
  have hx : ((t.setRx i ((t.rxOf i p 0).2 ++ [m])).rxOf i p 0).1 = m := State.rxOf_setRx t i p m (by rw [hm]; rfl) (by rw [hm]; rfl)
  have hu : u = (t.setRx i ((t.rxOf i p 0).2 ++ [m])).tileReply i p opGrant p.addr.toNat 0 [] := by
    rw [hm]
    rfl
  have fx : Frame [.rx] t (t.setRx i ((t.rxOf i p 0).2 ++ [m])) := ((State.setRx_kept ..).mono rfl).frame
  generalize t.setRx i ((t.rxOf i p 0).2 ++ [m]) = x at *
  have sx : SendSame t x := SendSame.of_outside (l := []) (RegsOutside.of_regs (fx .regs (by decide))) (by simp) (fx .routes (by decide))
  obtain ⟨h1, h2, h3⟩ := State.tileReply_sent (hs.trans sx) hc (by decide) ((fx .net (by decide)).trans hn)
  rw [hu, ← hm]
  exact ⟨(fx.mono rfl).trans (h2.mono rfl), h1, (RegsOutside.of_regs (fx .regs (by decide))).trans h3,
    (congrArg Prod.fst (State.rxOf_congr (h2 .rx (by decide)) i p 0)).trans hx⟩

/-- A new access parked: the last of the table, waiting from now, and counted. -/
theorem State.parkProbe_new (t : State) (i : TileIx) (p : Packet) (c : Claim) :
    let pg := cregPage i c.peat
    let n := if c.peat then 6 else 4
    let u := t.parkProbe i (t.probesAt i).length p c
    Frame [.regs, .probes] t u ∧ RegsOutside [counter pg n] t u ∧ Counts t u pg n 1 ∧
      u.probesAt i = t.probesAt i ++ [⟨p, t.up, some c⟩] := by
  intro pg n u
  have hn : n < 496 := by unfold n; split <;> decide
  obtain ⟨x, hx⟩ : ∃ x, x = t.setProbes i (t.probesAt i ++ [⟨p, t.up, some c⟩]) := ⟨_, rfl⟩
  have hu : u = x.bump pg n 1 := by
    show t.parkProbe i (t.probesAt i).length p c = _
    unfold State.parkProbe
    rw [List.getElem?_eq_none (Nat.le_refl _), hx]
    rfl
  have rx : x.regs = t.regs := by rw [hx]; rfl
  rw [hu]
  refine ⟨?_, (RegsOutside.of_regs rx).thenBump pg n 1 hn List.mem_cons_self,
    (Counts.bump x pg n 1).before (RegsOutside.of_regs (l := []) rx) hn (by simp), ?_⟩
  · exact (((hx ▸ State.setProbes_kept t i _ : Kept [.probes] t x).mono (m := [.regs, .probes]) rfl).step (State.bump_kept ..) rfl).frame
  · rw [State.probesAt_congr (State.bump_kept x pg n 1 |>.frame .probes (by decide)), hx]
    exact State.probesAt_setProbes ..

/-- An access that waits for the same slot still. -/
theorem State.parkProbe_again {q : Probe} (hq : (t.probesAt i)[k]? = some q) (hw : q.want = some c) : t.parkProbe i k p c = t := by
  unfold State.parkProbe
  rw [hq]
  exact if_pos hw

end Probes

end Sys2Proof.Machine
end

section
/-! SUPPORT. A move whose probe is granted: its packets leave (R185, R191, R198). -/
namespace Sys2Proof.Machine
open Sys2Proof

/-- The end of some of an instruction's accesses leaves what its unit's queue says of phases and tags. -/
theorem State.endSome_queue (s : State) (t : TaskRef) (u : UnitKind) (iid : Nat) (q : Claim → Bool) {w : Work}
    (hw : w ∈ ((s.endSome t u iid q).cru t.tile t.cru).queue u) :
    ∃ y ∈ (s.cru t.tile t.cru).queue u, w.iid = y.iid ∧ w.phase = y.phase ∧ w.tag = y.tag := by
  unfold State.endSome at hw
  split at hw
  · exact ⟨w, hw, rfl, rfl, rfl⟩
  · rename_i x _
    rw [State.queue_mapWork, if_pos ⟨rfl, rfl⟩, List.mem_map] at hw
    obtain ⟨y, hy, rfl⟩ := hw
    rw [State.cru_congr ((State.endClaims_kept s (x.claims.filter q)).frame .crus (by decide))] at hy
    refine ⟨y, hy, ?_⟩
    split <;> exact ⟨rfl, rfl, rfl⟩

section
variable {s t : State} {c : UCtx} {j : RunJob}

/-- The packets of a move, all of which its tile can send: they leave, and the move waits for its bytes. -/
theorem State.sendMove_sends {l : List Send} (a : Addr) (tag left : Nat) (hs : SendSame s t) (hl : ∀ m ∈ l, s.canSend c.t.tile m = true)
    (ho : ∀ m ∈ l, opDefined (m.op % 256) = true) (hn : t.net = s.net) :
    let u := t.sendMove c a tag left l
    s.injected u c.t.tile l ∧ Frame [.net, .regs, .ports, .crus, .slots] t u ∧
      ∀ w ∈ (u.cru c.t.tile c.t.cru).runner, w.iid = c.w.iid → w.phase = .moving left ∧ w.tag = tag := by
  intro u
  obtain ⟨v, ts, hv, hnet, hx, hf, -⟩ := State.injectMove_sent hs hl ho
  have hu : u = (v.mapWork c.t .runner c.w.iid (fun w => { w with phase := .moving left, tag := tag })).endSome c.t .runner c.w.iid
      (fun x => !x.write) := by
    show t.sendMove c a tag left l = _
    unfold State.sendMove
    rw [hs.polderOf, hv]
  have k2 := ((State.mapWork_kept v c.t .runner c.w.iid (fun w => { w with phase := .moving left, tag := tag })).mono (m := [.crus, .slots]) rfl).step
    (State.endSome_kept _ c.t .runner c.w.iid (fun x => !x.write)) rfl
  rw [hu]
  refine ⟨⟨ts, ?_, hx⟩, (hf.mono rfl).trans (k2.frame.mono rfl), fun w hw e => ?_⟩
  · rw [← hn, ← hnet]
    exact k2.frame .net (by decide)
  · obtain ⟨y, hy, h1, h2, h3⟩ := State.endSome_queue _ c.t .runner c.w.iid _ hw
    rw [State.queue_mapWork, if_pos ⟨rfl, rfl⟩, List.mem_map] at hy
    obtain ⟨z, -, rfl⟩ := hy
    by_cases hz : z.iid = c.w.iid
    · rw [if_pos hz] at h2 h3
      exact ⟨h2, h3⟩
    · rw [if_neg hz] at h1
      exact absurd (h1.symm.trans e) hz

theorem writeSends_op (d ph tag oper : Nat) (rows : List (Nat × List Byte)) {m : Send} (h : m ∈ writeSends false d ph tag oper rows) :
    m.op = opWr := by
  unfold writeSends at h
  simp only [List.mem_flatMap, List.mem_map] at h
  obtain ⟨_, _, _, _, rfl⟩ := h
  rfl

/-- Data that goes to a REMOTE destination: what was read counts, the gathering buffer flushes before an add there, and the packets leave. -/
theorem State.moveOut_sends {rows : List (Nat × List Byte)} {ph total : Nat} {sends : List Send} (d tag : Nat) (hs : SendSame s t)
    (hn : t.net = s.net) (hr : t.runRows c j = rows) (hp : (t.physOf c.t (c.regs j.o.dD).addr).2 = ph)
    (hc : (rows.map (fun r => r.2.length)).sum = total)
    (he : writeSends false d ph tag (wrOperand total j.o.rg.toNat j.o.rge) rows = sends) (hl : ∀ m ∈ sends, s.canSend c.t.tile m = true) :
    let u := t.moveOut c j d false tag
    s.injected u c.t.tile sends ∧ u.arrivals = t.arrivals ∧ u.peat = (if j.o.rge then t.gbFlushAll c.t.tile c.t.cru else t).peat ∧
      ∀ w ∈ (u.cru c.t.tile c.t.cru).runner, w.iid = c.w.iid → w.phase = .moving total ∧ w.tag = tag := by
  intro u
  have hb := taskFlags_lt c.t
  obtain ⟨x, hx⟩ : ∃ x, x = (t.orFlags c.t (t.runFlags c j)).countPieces c ((t.runPieces c j).filter (fun p => !p.write)) := ⟨_, rfl⟩
  have fx : Frame [.regs] t x := by
    rw [hx]
    exact (((State.orFlags_kept t c.t _).mono (m := [.regs]) rfl).step (State.countPieces_kept ..) rfl).frame
  have rx : RegsOutside ((cruPage c.t.tile c.t.cru, Reg.TASK_FLAGS c.t.task) :: readRegs c.t.tile) t x := by
    rw [hx]
    exact ((RegsOutside.refl _ t).thenSetReg _ _ _ hb List.mem_cons_self).trans
      ((RegsOutside.countPieces (t.orFlags c.t (t.runFlags c j)) c _).mono (fun y hy => List.mem_cons_of_mem _ hy))
  obtain ⟨y, hy⟩ : ∃ y, y = if j.o.rge then x.gbFlushAll c.t.tile c.t.cru else x := ⟨_, rfl⟩
  have hu : u = y.sendMove c (c.regs j.o.dD).addr tag total sends := by
    show t.moveOut c j d false tag = _
    unfold State.moveOut
    dsimp only
    rw [Bool.not_false, Bool.and_true, ← hx, ← hy, hr, hp, hc, he]
  have fy : Frame [.regs, .crus, .peat, .peatBad] x y := by
    rw [hy]
    split
    · exact ((State.gbFlushAll_kept ..).mono rfl).frame
    · exact (Kept.refl [.regs, .crus, .peat, .peatBad] x).frame
  have ry : RegsOutside (gbRegs c.t.tile) x y := by
    rw [hy]
    exact RegsOutside.thenIf (fun _ => (State.gbFlushAll_gb x c.t.tile c.t.cru).regs) (fun _ => RegsOutside.refl _ x)
  have py : y.peat = (if j.o.rge then t.gbFlushAll c.t.tile c.t.cru else t).peat := by
    have e1 : x.peat = t.peat := fx .peat (by decide)
    have e2 : x.cru c.t.tile c.t.cru = t.cru c.t.tile c.t.cru := State.cru_congr (fx .crus (by decide)) _ _
    rw [hy]
    split
    · rw [State.gbFlushAll_peat, State.gbFlushAll_peat, e1, e2]
    · exact e1
  have sy : SendSame t y := by
    refine (SendSame.of_outside rx (fun z hz => ?_) (fx .routes (by decide))).trans
      (SendSame.of_outside ry (by simp [gbRegs, counter, Reg.COUNTER]) (fy .routes (by decide)))
    obtain rfl | hz := List.mem_cons.mp hz
    · exact .inr ⟨c.t, rfl⟩
    · have hlow : ∀ z ∈ readRegs c.t.tile, z.2 < 0x100 := by simp [readRegs, counter, Reg.COUNTER]
      exact .inl (hlow z hz)
  obtain ⟨h1, h2, h3⟩ := State.sendMove_sends (c := c) (c.regs j.o.dD).addr tag total (hs.trans sy) hl
    (fun m hm => by rw [writeSends_op _ _ _ _ _ (he ▸ hm)]; decide) ((fy .net (by decide)).trans ((fx .net (by decide)).trans hn))
  rw [hu]
  refine ⟨h1, ?_, ?_, h3⟩
  · exact (h2 .arrivals (by decide)).trans ((fy .arrivals (by decide)).trans (fx .arrivals (by decide)))
  · exact Eq.trans (h2 .peat (by decide)) py

/-- A granted move to a REMOTE destination whose slot of the tile's polder maps to a tile goes out. -/
theorem State.tileGrant_launches {tile d : Nat} {p : Packet} (hm : t.moveOf tile p.tag.toNat = some c) (hq : c.w.phase = .probing)
    (hj : runJob c.w.instr = some j) (hi : t.wantsIdx c j = false) (hd : t.spaceOf c.t (c.regs j.o.dD).addr = spRemote)
    (hf : t.farTile c (c.regs j.o.dD) = some d) : t.tileGrant tile p = t.moveOut c j d false c.w.tag := by
  have hne : ¬ spRemote = spMire := by decide
  unfold State.tileGrant
  rw [hm]
  dsimp only
  rw [hq, hj]
  dsimp only
  rw [hi, if_neg (by decide)]
  unfold State.launch
  dsimp only
  rw [hd, if_neg hne, if_pos rfl, hf]
end

/-! ### Refusals -/

/-- The operand of a move that is refused: a GATHER's index vector while its slots are asked for, else its far operand. -/
def State.refusedOperand (s : State) (c : UCtx) (j : RunJob) : Desc :=
  if s.wantsIdx c j then c.regs j.o.dI
  else if farSpace (s.spaceOf c.t (c.regs j.o.dD).addr) then c.regs j.o.dD else c.regs j.o.dS

section
variable {t : State} {c : UCtx} {j : RunJob} {tile : Nat} {p : Packet}

theorem State.tileRefuse_timeout (hm : t.moveOf tile p.tag.toNat = some c) (hj : runJob c.w.instr = some j) (hi : c.t.tile.val = tile)
    (h0 : p.operand = 0) : t.tileRefuse tile p =
      (t.countTimeout c.t.tile (!(placeOf p.addr.toNat).pool)).unitFault c 5 fSlotTimeout
        ((t.refusedOperand c j).addr + p.addr - BitVec.ofNat 48 ((t.physOf c.t (t.refusedOperand c j).addr).2 % 2 ^ 41)) 0 := by
  unfold State.tileRefuse
  rw [hm]
  dsimp only
  rw [hj]
  dsimp only
  rw [if_pos h0, hi]
  rfl

theorem State.tileRefuse_remote (hm : t.moveOf tile p.tag.toNat = some c) (hj : runJob c.w.instr = some j) (h0 : p.operand ≠ 0) :
    t.tileRefuse tile p = t.unitFault c 5 fRemote (t.refusedOperand c j).addr 0 := by
  unfold State.tileRefuse
  rw [hm]
  dsimp only
  rw [hj]
  dsimp only
  rw [if_neg h0]
  rfl

/-- A fault that a delivered packet leads to, seen from before it was taken out of the mesh. -/
theorem FaultedAt.beforeTake {s v : State} {r : TaskRef} {seq code unit : Nat} {addr pc : Addr} {rs : List (Nat × Nat)}
    (h : FaultedAt r seq code unit addr pc spoilFields rs (s.takePkt p) v) :
    FaultedAt r seq code unit addr pc (.arrivals :: spoilFields) rs s v := by
  have := h.before (s := s) (gs := [.arrivals]) (fs := .arrivals :: spoilFields) (rs := []) (State.takePkt_kept s p).frame
    (fun f hf => List.mem_cons_of_mem _ hf) (by decide) rfl (CrusOutside.of_crus rfl) (fun k => k) (by decide) (RegsOutside.of_regs rfl)
    (by simp) (by simp) (by simp)
  rwa [List.append_nil] at this
end

end Sys2Proof.Machine
end

section
/-! PROOF. Slot probes, grants and refusals (R96 to R99, R192, R194, R198, R201). -/
namespace Sys2Proof.Machine
open Sys2Proof

/-! ### The commands -/

section Commands
variable {i : TileIx} {p : Packet} {s : State}

theorem exec_probe_accepted (h : s.accepts i opProbe p = true) (hl : (s.probesAt i).length < probeTable) :
    exec (.probe p) s = .next ((s.takePkt p).tryProbe i (s.probesAt i).length p).2 := by
  obtain ⟨hw, hd, -⟩ := State.accepts_wf h
  show execProbe p s = _
  unfold execProbe
  rw [hw, hd, if_neg (by decide), if_neg (Nat.not_le.mpr hl), State.eject_accepted h]
  rfl

theorem exec_grant_accepted (h : s.accepts i opGrant p = true) : exec (.grant p) s = .next ((s.takePkt p).tileGrant i p) := by
  obtain ⟨hw, -, hn⟩ := State.accepts_wf h
  show execGrant p s = _
  unfold execGrant
  rw [hw, hn, if_neg (by decide), if_neg (by decide), State.eject_accepted h]

theorem exec_refuse_accepted (h : s.accepts i opRefuse p = true) : exec (.refuse p) s = .next ((s.takePkt p).tileRefuse i p) := by
  obtain ⟨hw, -, hn⟩ := State.accepts_wf h
  show execRefuse p s = _
  unfold execRefuse
  rw [hw, hn, if_neg (by decide), if_neg (by decide), State.eject_accepted h]

variable {k : Nat} {q : Probe} (hq : (s.probesAt i)[k]? = some q) (hp : q.pkt.op.toNat = opProbe)
include hq hp

theorem exec_resume_probe_granted {t : State} (ht : s.tryProbe i k q.pkt = (true, t)) :
    exec (.taggedAccessResume (.probe i k)) s = .next (t.setProbes i ((t.probesAt i).eraseIdx k)) := by
  refine congrArg Host.Outcome.next ?_
  show s.resumeProbe i k = _
  unfold State.resumeProbe
  simp only [hq, hp, if_true, ht]

theorem exec_resume_probe_waits {t : State} (ht : s.tryProbe i k q.pkt = (false, t)) :
    exec (.taggedAccessResume (.probe i k)) s = .next t := by
  refine congrArg Host.Outcome.next ?_
  show s.resumeProbe i k = _
  unfold State.resumeProbe
  simp only [hq, hp, if_true, ht]
end Commands

/-! ### Probes -/

section Probes
variable {i : TileIx} {p : Packet} {s : State}

/-- What a PROBE says of its operand does not hang on its being in the mesh still, nor on a slot's state. -/
theorem State.probeNeeds_takePkt (s : State) (q : Packet) (i : Nat) (p : Packet) : (s.takePkt q).probeNeeds i p = s.probeNeeds i p := rfl
theorem State.probeRecord_takePkt (s : State) (q : Packet) : (s.takePkt q).probeRecord = s.probeRecord := rfl
theorem State.probeRecord_takeSlot (s : State) (c : Claim) : (s.takeSlot c).probeRecord = s.probeRecord := rfl
theorem State.claimable_takePkt (s : State) (q : Packet) (i r : Nat) (c : Claim) : (s.takePkt q).claimable i r c = s.claimable i r c := rfl

section Delivered
variable (ha : s.accepts i opProbe p = true) (hl : (s.probesAt i).length < probeTable)
include ha hl

theorem does_probe_free (hn : (s.probeNeeds i p).map (·.claim i) = []) (hc : s.canSend i (replyTo p opGrant p.addr.toNat 0 []) = true) :
    Does (.probe p) s (fun u => u.slots = s.slots ∧ s.answered u i p [replyTo p opGrant p.addr.toNat 0 []] ∧
      RegsOutside [counter (cetisPage i) 10] s u) := by
  have ht := State.tryProbe_free (t := s.takePkt p) (k := (s.probesAt i).length) (by rw [State.probeNeeds_takePkt, hn])
  obtain ⟨h1, h2, h3⟩ := State.grantProbe_free (SendSame.takePkt s p) rfl hc
  refine ⟨_, exec_probe_accepted ha hl, ?_⟩
  rw [ht]
  exact ⟨h1 .slots (by decide), ⟨h1 .arrivals (by decide), h2⟩, h3⟩

variable {c : Claim} {r : List Claim} (hn : (s.probeNeeds i p).map (·.claim i) = c :: r)
include hn

theorem does_probe_claims (hx : s.claimable i (probeRank (s.probesAt i).length) c = true)
    (hc : s.canSend i (replyTo p opGrant p.addr.toNat 0 []) = true) :
    Does (.probe p) s (fun u => u.slots = (s.takeSlot c).slots ∧ s.answered u i p [replyTo p opGrant p.addr.toNat 0 []] ∧
      RegsOutside [counter (cetisPage i) 10] s u ∧ (u.rxOf i p 0).1 = s.probeRecord p c r) := by
  have ht := State.tryProbe_claims (t := s.takePkt p) (k := (s.probesAt i).length) (by rw [State.probeNeeds_takePkt, hn])
    (by rw [State.claimable_takePkt, hx])
  obtain ⟨h1, h2, h3, h4⟩ := State.grantProbe_claims (c := c) (r := r) ((SendSame.takePkt s p).trans (SendSame.takeSlot _ c)) rfl hc
  rw [State.probeRecord_takeSlot, State.probeRecord_takePkt] at h4
  refine ⟨_, exec_probe_accepted ha hl, ?_⟩
  rw [ht]
  exact ⟨h1 .slots (by decide), ⟨h1 .arrivals (by decide), h2⟩, h3, h4⟩

theorem does_probe_waits (hx : s.claimable i (probeRank (s.probesAt i).length) c = false) :
    let pg := cregPage i c.peat
    let n := if c.peat then 6 else 4
    Does (.probe p) s (fun u => u.slots = s.slots ∧ s.answered u i p [] ∧ RegsOutside [counter pg n] s u ∧
      Counts s u pg n 1 ∧ u.probesAt i = s.probesAt i ++ [⟨p, s.up, some c⟩]) := by
  have ht := State.tryProbe_waits (t := s.takePkt p) (k := (s.probesAt i).length) (by rw [State.probeNeeds_takePkt, hn])
    (by rw [State.claimable_takePkt, hx])
  obtain ⟨h1, h2, h3, h4⟩ := State.parkProbe_new (s.takePkt p) i p c
  refine ⟨_, exec_probe_accepted ha hl, ?_⟩
  rw [ht]
  exact ⟨h1 .slots (by decide), ⟨h1 .arrivals (by decide), [], (h1 .net (by decide)).trans (List.append_nil _).symm, .nil⟩, h2, h3, h4⟩
end Delivered

theorem does_resume_probe_claims {k : Nat} {q : Probe} {c : Claim} {r : List Claim} (hq : (s.probesAt i)[k]? = some q)
    (hp : q.pkt.op.toNat = opProbe) (hn : (s.probeNeeds i q.pkt).map (·.claim i) = c :: r) (hx : s.claimable i (probeRank k) c = true)
    (hc : s.canSend i (replyTo q.pkt opGrant q.pkt.addr.toNat 0 []) = true) :
    Does (.taggedAccessResume (.probe i k)) s (fun u => u.slots = (s.takeSlot c).slots ∧
      s.injected u i [replyTo q.pkt opGrant q.pkt.addr.toNat 0 []] ∧ RegsOutside [counter (cetisPage i) 10] s u ∧
      u.probesAt i = (s.probesAt i).eraseIdx k ∧ (u.rxOf i q.pkt 0).1 = s.probeRecord q.pkt c r) := by
  have ht := State.tryProbe_claims hn hx
  obtain ⟨h1, h2, h3, h4⟩ := State.grantProbe_claims (c := c) (r := r) (SendSame.takeSlot s c) rfl hc
  rw [State.probeRecord_takeSlot] at h4
  generalize (s.takeSlot c).grantProbe i q.pkt [c] r = t at *
  refine ⟨_, exec_resume_probe_granted hq hp ht, h1 .slots (by decide), h2, h3, ?_, h4⟩
  rw [State.probesAt_setProbes, State.probesAt_congr (h1 .probes (by decide))]
  rfl
end Probes

/-! ### Grants and refusals -/

theorem does_grant_launches {p : Packet} {c : UCtx} {j : RunJob} {d total : Nat} {sends : List Send} {s : State}
    (ha : s.accepts c.t.tile opGrant p = true) (hm : s.moveOf c.t.tile p.tag.toNat = some c) (hq : c.w.phase = .probing)
    (hj : runJob c.w.instr = some j) (hx : s.wantsIdx c j = false) (hs : s.spaceOf c.t (c.regs j.o.dD).addr = spRemote)
    (hd : s.farTile c (c.regs j.o.dD) = some d) (hc : ((s.runRows c j).map (fun r => r.2.length)).sum = total)
    (he : writeSends false d (s.physOf c.t (c.regs j.o.dD).addr).2 c.w.tag (wrOperand total j.o.rg.toNat j.o.rge) (s.runRows c j) = sends)
    (hl : ∀ m ∈ sends, s.canSend c.t.tile m = true) :
    Does (.grant p) s (fun u => s.answered u c.t.tile p sends ∧ u.peat = (if j.o.rge then s.gbFlushAll c.t.tile c.t.cru else s).peat ∧
      ∀ w ∈ (u.cru c.t.tile c.t.cru).runner, w.iid = c.w.iid → w.phase = .moving total ∧ w.tag = c.w.tag) := by
  have hg : (s.takePkt p).tileGrant c.t.tile p = _ := State.tileGrant_launches hm hq hj hx hs hd
  obtain ⟨h1, h2, h3, h4⟩ := State.moveOut_sends (t := s.takePkt p) d c.w.tag (SendSame.takePkt s p) rfl rfl rfl hc he hl
  refine ⟨_, exec_grant_accepted ha, ?_⟩
  rw [hg]
  refine ⟨⟨h2, h1⟩, h3.trans ?_, h4⟩
  split
  · rw [State.gbFlushAll_peat, State.gbFlushAll_peat]
    rfl
  · rfl

section Refused
variable {p : Packet} {c : UCtx} {j : RunJob} {s : State} (ha : s.accepts c.t.tile opRefuse p = true)
  (hm : s.moveOf c.t.tile p.tag.toNat = some c) (hj : runJob c.w.instr = some j) (hf : (s.taskAt c.t).faultSeq = none)
include ha hm hj hf

theorem does_refuse_timeout (h0 : p.operand = 0) :
    let pool := (placeOf p.addr.toNat).pool
    let page := cregPage c.t.tile (!pool)
    let slot := if pool then 5 else 7
    Does (.refuse p) s (fun u => Counts s u page slot 1 ∧ Raised u page 2 ∧ u.arrivals = s.arrivals.erase p ∧
      FaultedAt c.t c.w.seq fSlotTimeout 5 ((s.refusedOperand c j).addr + p.addr -
        BitVec.ofNat 48 ((s.physOf c.t (s.refusedOperand c j).addr).2 % 2 ^ 41)) c.w.pc (.arrivals :: spoilFields)
        (gbRegs c.t.tile ++ (counter page slot :: evtRegs page)) s u) := by
  intro pool page slot
  have hr : (s.takePkt p).tileRefuse c.t.tile p = _ := State.tileRefuse_timeout hm hj rfl h0
  rw [show (s.takePkt p).refusedOperand c j = s.refusedOperand c j from rfl] at hr
  obtain ⟨h1, h2, h3⟩ := State.timeoutFault_spec (s := s.takePkt p) c 5 (!pool) ((s.refusedOperand c j).addr + p.addr -
    BitVec.ofNat 48 ((s.physOf c.t (s.refusedOperand c j).addr).2 % 2 ^ 41)) 0 hf (by decide)
  have es : (if !pool then 7 else 5) = slot := by
    show _ = if pool then 5 else 7
    cases pool <;> rfl
  rw [es] at h1 h2
  refine ⟨_, exec_refuse_accepted ha, ?_⟩
  rw [hr]
  exact ⟨h2, h3, (((State.countTimeout_kept (s.takePkt p) c.t.tile (!pool)).mono (m := [.fresh, .regs, .pool, .peat, .mire, .poolBad, .peatBad,
    .tasks, .crus, .slots, .probes, .rx, .fns, .reports, .out]) rfl).step (State.unitFault_kept ..) rfl).frame .arrivals (by decide), h1.beforeTake⟩

theorem does_refuse_remote (h0 : p.operand ≠ 0) : Does (.refuse p) s (fun u => u.arrivals = s.arrivals.erase p ∧
    FaultedAt c.t c.w.seq fRemote 5 (s.refusedOperand c j).addr c.w.pc (.arrivals :: spoilFields) (gbRegs c.t.tile) s u) := by
  have hr : (s.takePkt p).tileRefuse c.t.tile p = _ := State.tileRefuse_remote hm hj h0
  rw [show (s.takePkt p).refusedOperand c j = s.refusedOperand c j from rfl] at hr
  have hu := State.unitFault_faultedAt (s := s.takePkt p) c 5 fRemote (s.refusedOperand c j).addr 0 hf (by decide) (by decide)
  refine ⟨_, exec_refuse_accepted ha, ?_⟩
  rw [hr]
  exact ⟨(State.unitFault_kept ..).frame .arrivals (by decide), hu.beforeTake⟩
end Refused

/-- Settles O26: probes tried and resumed, grants, and refusals. -/
theorem slotProbes : Obligations.SlotProbes := by
  unfold Obligations.SlotProbes
  refine ⟨fun i p s => ⟨fun ha hl => ⟨?_, ?_, ?_⟩, ?_, ?_⟩, ?_⟩
  · exact does_probe_free ha hl
  · exact fun c r hn hx hc => does_probe_claims ha hl hn hx hc
  · exact fun c r hn hx => does_probe_waits ha hl hn hx
  · rintro k q hq rfl ho
    exact ⟨fun c r hn hx hc => does_resume_probe_claims hq ho hn hx hc,
      fun c r hn hx hw => ⟨_, exec_resume_probe_waits hq ho (State.tryProbe_waits hn hx), State.parkProbe_again hq hw⟩⟩
  · rintro c j d ha hm hq hj rfl hx hs hd s0 rows total sends hl
    exact does_grant_launches ha hm hq hj hx hs hd rfl rfl hl
  · rintro i p c j s ha hm hj rfl hf far ph page slot fs
    exact ⟨fun h0 => does_refuse_timeout ha hm hj hf h0, fun h0 => does_refuse_remote ha hm hj hf h0⟩

end Sys2Proof.Machine
end

section
/-! PROOF. The canonical form of the memories, the registers and the gates, through every step (R135, R182, R339, R425). -/
namespace Sys2Proof.Machine
open Sys2Proof

/-- The frames of the commands, put together: what a command answers agrees with the state before outside its list, and is in canonical
form if that was. -/
theorem exec_kept (c : Instr) (s : State) : OutKept (footprint c) s (exec c s) := by
  cases c with
  | taskStart => exact execTaskStart_kept _ _ _ _
  | taskStop => exact execTaskStop_kept _ _ _ _
  | taskReset => exact execTaskReset_kept _ _ _ _
  | drainEnd => exact execDrainEnd_kept _ _
  | agePromotion => exact execAgePromotion_kept _ _
  | icacheFill => exact execIcacheFill_kept _ _ _
  | sbEntryRelease => exact execSbEntryRelease_kept _ _ _ _
  | unitInstrComplete => exact execUnitInstrComplete_kept _ _ _ _ _ _ _
  | unitFault => exact execUnitFault_kept _ _ _ _ _ _ _
  | scalarLoadReturn => exact execScalarLoadReturn_kept _ _ _
  | add => exact execAdd_kept _ _ _ _ _ _
  | sub => exact execSub_kept _ _ _ _ _ _
  | and => exact execAnd_kept _ _ _ _ _ _
  | or => exact execOr_kept _ _ _ _ _ _
  | xor => exact execXor_kept _ _ _ _ _ _
  | sll => exact execSll_kept _ _ _ _ _ _
  | srl => exact execSrl_kept _ _ _ _ _ _
  | sra => exact execSra_kept _ _ _ _ _ _
  | mul => exact execMul_kept _ _ _ _ _ _
  | mulhu => exact execMulhu_kept _ _ _ _ _ _
  | min => exact execMin_kept _ _ _ _ _ _
  | max => exact execMax_kept _ _ _ _ _ _
  | minu => exact execMinu_kept _ _ _ _ _ _
  | maxu => exact execMaxu_kept _ _ _ _ _ _
  | ceq => exact execCeq_kept _ _ _ _ _ _
  | cne => exact execCne_kept _ _ _ _ _ _
  | clt => exact execClt_kept _ _ _ _ _ _
  | cge => exact execCge_kept _ _ _ _ _ _
  | cltu => exact execCltu_kept _ _ _ _ _ _
  | cgeu => exact execCgeu_kept _ _ _ _ _ _
  | pand => exact execPand_kept _ _ _ _ _ _
  | por => exact execPor_kept _ _ _ _ _ _
  | pxor => exact execPxor_kept _ _ _ _ _ _
  | pandn => exact execPandn_kept _ _ _ _ _ _
  | addi => exact execAddi_kept _ _ _ _ _ _
  | andi => exact execAndi_kept _ _ _ _ _ _
  | ori => exact execOri_kept _ _ _ _ _ _
  | xori => exact execXori_kept _ _ _ _ _ _
  | slli => exact execSlli_kept _ _ _ _ _ _
  | srli => exact execSrli_kept _ _ _ _ _ _
  | srai => exact execSrai_kept _ _ _ _ _ _
  | clti => exact execClti_kept _ _ _ _ _ _
  | lui => exact execLui_kept _ _ _ _ _
  | br => exact execBr_kept _ _ _ _
  | jal => exact execJal_kept _ _ _ _ _
  | jr => exact execJr_kept _ _ _ _
  | scalarLoad => exact execScalarLoad_kept _ _ _ _ _ _ _ _
  | scalarStore => exact execScalarStore_kept _ _ _ _ _ _ _ _
  | aadd => exact execAadd_kept _ _ _ _ _ _
  | aaddi => exact execAaddi_kept _ _ _ _ _ _
  | aset => exact execAset_kept _ _ _ _ _ _
  | aget => exact execAget_kept _ _ _ _ _ _
  | apc => exact execApc_kept _ _ _ _ _
  | daddr => exact execDaddr_kept _ _ _ _ _ _
  | dfmt => exact execDfmt_kept _ _ _ _ _ _
  | dshape => exact execDshape_kept _ _ _ _ _ _ _
  | dstride => exact execDstride_kept _ _ _ _ _ _ _
  | daux => exact execDaux_kept _ _ _ _ _
  | dcopy => exact execDcopy_kept _ _ _ _ _
  | dstep => exact execDstep_kept _ _ _ _ _ _
  | gadd => exact execGadd_kept _ _ _ _ _ _
  | gwait => exact execGwait_kept _ _ _ _ _ _ _
  | gwaitSatisfied => exact execGwaitSatisfied_kept _ _
  | gateTimeout => exact execGateTimeout_kept _ _
  | gswap => exact execGswap_kept _ _ _ _ _ _
  | gread => exact execGread_kept _ _ _ _ _ _
  | gradd => exact execGradd_kept _ _ _ _ _ _
  | gbadd => exact execGbadd_kept _ _ _ _ _ _
  | nop => exact execNop_kept _ _ _
  | endTask => exact execEndTask_kept _ _ _
  | rdflags => exact execRdflags_kept _ _ _ _
  | clrflags => exact execClrflags_kept _ _ _ _
  | rdtime => exact execRdtime_kept _ _ _ _ _
  | rdid => exact execRdid_kept _ _ _ _
  | brk => exact execBrk_kept _ _ _
  | illegal => exact execIllegal_kept _ _ _
  | mmul => exact execMmul_kept _ _ _ _
  | mmulLift => exact execMmulLift_kept _ _ _ _
  | vAdd => exact execVAdd_kept _ _ _ _
  | vSub => exact execVSub_kept _ _ _ _
  | vMul => exact execVMul_kept _ _ _ _
  | fma => exact execFma_kept _ _ _ _
  | vMax => exact execVMax_kept _ _ _ _
  | vMin => exact execVMin_kept _ _ _ _
  | abs => exact execAbs_kept _ _ _ _
  | neg => exact execNeg_kept _ _ _ _
  | copysign => exact execCopysign_kept _ _ _ _
  | scale2 => exact execScale2_kept _ _ _ _
  | recip => exact execRecip_kept _ _ _ _
  | sqrt => exact execSqrt_kept _ _ _ _
  | rsqrt => exact execRsqrt_kept _ _ _ _
  | exp => exact execExp_kept _ _ _ _
  | exp2 => exact execExp2_kept _ _ _ _
  | log2 => exact execLog2_kept _ _ _ _
  | sigmoid => exact execSigmoid_kept _ _ _ _
  | tanh => exact execTanh_kept _ _ _ _
  | silu => exact execSilu_kept _ _ _ _
  | geluErf => exact execGeluErf_kept _ _ _ _
  | geluTanh => exact execGeluTanh_kept _ _ _ _
  | cvt => exact execCvt_kept _ _ _ _
  | rope => exact execRope_kept _ _ _ _
  | div => exact execDiv_kept _ _ _ _
  | rsum => exact execRsum_kept _ _ _ _
  | rmax => exact execRmax_kept _ _ _ _
  | rmin => exact execRmin_kept _ _ _ _
  | rargmax => exact execRargmax_kept _ _ _ _
  | rargmin => exact execRargmin_kept _ _ _ _
  | rms => exact execRms_kept _ _ _ _
  | rmsn => exact execRmsn_kept _ _ _ _
  | softmax => exact execSoftmax_kept _ _ _ _
  | psum => exact execPsum_kept _ _ _ _
  | attnRing => exact execAttnRing_kept _ _ _ _
  | attnPage => exact execAttnPage_kept _ _ _ _
  | kvput => exact execKvput_kept _ _ _ _
  | kvputEntryReread => exact execKvputEntryReread_kept _ _ _
  | move => exact execMove_kept _ _ _ _
  | fill => exact execFill_kept _ _ _ _
  | gather => exact execGather_kept _ _ _ _
  | sent => exact execSent_kept _ _ _ _
  | rhand => exact execRhand_kept _ _ _ _
  | gateValWrite => exact execGateValWrite_kept _ _ _ _
  | poolZeroingDone => exact execPoolZeroingDone_kept _ _ _
  | peatLayerWake => exact execPeatLayerWake_kept _ _ _
  | peatZeroingDone => exact execPeatZeroingDone_kept _ _ _
  | gbAgeFlush => exact execGbAgeFlush_kept _ _ _ _
  | poolScrub => exact execPoolScrub_kept _ _ _ _ _
  | peatScrub => exact execPeatScrub_kept _ _ _ _
  | scrubStarve tile cru => exact execScrubStarve_kept tile cru s
  | maintPortStarve tile => exact execMaintPortStarve_kept tile s
  | cregEnable => exact execCregEnable_kept _ _ _ _ _ _
  | cregDisable => exact execCregDisable_kept _ _ _ _ _ _
  | cslotStateWrite => exact execCslotStateWrite_kept _ _ _ _ _
  | taggedAccessResume => exact execTaggedAccessResume_kept _ _
  | slotTimeout => exact execSlotTimeout_kept _ _
  | probe => exact execProbe_kept _ _
  | grant => exact execGrant_kept _ _
  | refuse => exact execRefuse_kept _ _
  | wr => exact execWr_kept _ _
  | rd => exact execRd_kept _ _ _
  | rdData => exact execRdData_kept _ _
  | moveDone => exact execMoveDone_kept _ _
  | remoteGadd => exact execRemoteGadd_kept _ _
  | placeReq => exact execPlaceReq_kept _ _
  | placeOk => exact execPlaceOk_kept _ _
  | wave => exact execWave_kept _ _
  | hand => exact execHand_kept _ _
  | mireRd => exact execMireRd_kept _ _ _ _ _
  | mireWr => exact execMireWr_kept _ _
  | draftReq => exact execDraftReq_kept _ _
  | draftTree => exact execDraftTree_kept _ _
  | genUpdate => exact execGenUpdate_kept _ _
  | mgmt => exact execMgmt_kept _ _
  | packetHop => exact execPacketHop_kept _ _ _ _
  | flitCrcFail => exact execFlitCrcFail_kept _ _ _ _
  | laneRetire => exact execLaneRetire_kept _ _ _ _
  | pgSpill => exact execPgSpill_kept _ _ _ _
  | pgFetch => exact execPgFetch_kept _ _ _ _
  | pgDrop => exact execPgDrop_kept _ _ _ _
  | pageCommandArrive => exact execPageCommandArrive_kept _ _
  | attentionDrainEnd => exact execAttentionDrainEnd_kept _ _ _
  | spillCopyDone => exact execSpillCopyDone_kept _ _ _
  | fetchCopyDone => exact execFetchCopyDone_kept _ _ _
  | fetchReadRefused => exact execFetchReadRefused_kept _ _ _
  | mireRefresh => exact execMireRefresh_kept _ _
  | refreshManagement => exact execRefreshManagement_kept _ _
  | odeccPoll => exact execOdeccPoll_kept _ _ _
  | mireScrub => exact execMireScrub_kept _ _ _ _
  | mireScrubStarve stack => exact execMireScrubStarve_kept stack s
  | mireReqAge stack pc => exact execMireReqAge_kept stack pc s
  | stackSupplyFault => exact execStackSupplyFault_kept _ _
  | stackTempRead => exact execStackTempRead_kept _ _ _
  | admission => exact execAdmission_kept _ _
  | passOpen => exact execPassOpen_kept _ _
  | passStart => exact execPassStart_kept _ _ _
  | passForward => exact execPassForward_kept _ _
  | tokenWavefrontMove => exact execTokenWavefrontMove_kept _ _
  | bedWatchdog => exact execBedWatchdog_kept _ _
  | poldLoopWrite => exact execPoldLoopWrite_kept _ _ _ _
  | strmCancel => exact execStrmCancel_kept _ _ _
  | streamFree => exact execStreamFree_kept _ _
  | draftWaitTimeout => exact execDraftWaitTimeout_kept _ _
  | riddleSelect stream e addr => exact execRiddleSelect_kept stream e addr s
  | partTimeout => exact execPartTimeout_kept _ _
  | castingLoad => exact execCastingLoad_kept _ _ _
  | loadChecked => exact execLoadChecked_kept _ _
  | loadPlaced => exact execLoadPlaced_kept _ _
  | loadPourComplete => exact execLoadPourComplete_kept _
  | extentReq => exact execExtentReq_kept _ _ _
  | extentData => exact execExtentData_kept _ _ _
  | extentDrain => exact execExtentDrain_kept _ _ _ _ _
  | stagingProbe => exact execStagingProbe_kept _ _ _
  | credit => exact execCredit_kept _ _ _
  | pourStop => exact execPourStop_kept _ _ _ _
  | stopResend => exact execStopResend_kept _ _ _
  | pourEnd => exact execPourEnd_kept _ _ _
  | reqSilenceTimeout => exact execReqSilenceTimeout_kept _ _ _
  | sessionReopen => exact execSessionReopen_kept _ _ _
  | hello => exact execHello_kept _ _ _ _
  | helloAck => exact execHelloAck_kept _ _ _
  | helloRetry => exact execHelloRetry_kept _ _ _
  | sessionRollover => exact execSessionRollover_kept _ _ _
  | sqDoorbell => exact execSqDoorbell_kept _ _ _ _
  | cqDoorbell => exact execCqDoorbell_kept _ _ _ _
  | trDoorbell => exact execTrDoorbell_kept _ _ _ _
  | sqFetch => exact execSqFetch_kept _ _ _
  | cmdNop => exact execCmdNop_kept _ _ _
  | bind => exact execBind_kept _ _ _
  | bindingDone => exact execBindingDone_kept _ _ _ _ _
  | cancel => exact execCancel_kept _ _ _
  | load => exact execLoad_kept _ _ _
  | tokenRecordWrite => exact execTokenRecordWrite_kept _ _ _
  | indexBlockWrite => exact execIndexBlockWrite_kept _ _ _ _
  | queueInterrupt => exact execQueueInterrupt_kept _ _ _ _
  | queueEnable => exact execQueueEnable_kept _ _ _ _
  | queueDisable => exact execQueueDisable_kept _ _ _ _
  | portReset => exact execPortReset_kept _ _ _
  | perstDeassert => exact execPerstDeassert_kept _ _
  | pcieLinkTrained => exact execPcieLinkTrained_kept _ _ _ _ _
  | dmaFailure => exact execDmaFailure_kept _ _ _ _
  | semTake => exact execSemTake_kept _ _ _ _
  | semRelease => exact execSemRelease_kept _ _ _ _
  | semForce => exact execSemForce_kept _ _ _ _
  | apertureRead => exact execApertureRead_kept _ _ _ _
  | apertureWrite => exact execApertureWrite_kept _ _ _ _
  | egressDatagram => exact execEgressDatagram_kept _ _ _
  | egressFlushTimeout => exact execEgressFlushTimeout_kept _ _ _
  | ethLinkChange => exact execEthLinkChange_kept _ _ _ _
  | regWrite => exact execRegWrite_kept _ _ _ _ _ _
  | regReadRc => exact execRegReadRc_kept _ _ _ _ _
  | regReadLowHalf => exact execRegReadLowHalf_kept _ _ _ _
  | guardKey => exact execGuardKey_kept _ _ _ _ _
  | guardLapse => exact execGuardLapse_kept _ _
  | mbxSel => exact execMbxSel_kept _ _ _ _ _
  | cntClr => exact execCntClr_kept _ _ _ _
  | regAccessTimeout => exact execRegAccessTimeout_kept _ _ _ _ _
  | sealWalk => exact execSealWalk_kept _
  | sealCommit => exact execSealCommit_kept _ _ _
  | sealResume => exact execSealResume_kept _ _ _
  | tapGo => exact execTapGo_kept _ _ _
  | tapCancel => exact execTapCancel_kept _ _ _
  | tapLatch => exact execTapLatch_kept _ _
  | tapAck => exact execTapAck_kept _ _
  | timeSet => exact execTimeSet_kept _ _ _
  | epochBoundary => exact execEpochBoundary_kept _ _
  | epochWord => exact execEpochWord_kept _ _
  | mgmtBusReset => exact execMgmtBusReset_kept _
  | uvWarn => exact execUvWarn_kept _
  | undervoltShutdown => exact execUndervoltShutdown_kept _ _
  | pwrDomReq => exact execPwrDomReq_kept _ _ _ _
  | sluiceDomReq => exact execSluiceDomReq_kept _ _ _ _
  | rampGrant => exact execRampGrant_kept _ _
  | rampStage => exact execRampStage_kept _ _
  | domRampSample => exact execDomRampSample_kept _ _ _
  | domFail => exact execDomFail_kept _ _
  | minvRearm => exact execMinvRearm_kept _ _ _ _
  | vmifRearm => exact execVmifRearm_kept _ _ _ _
  | minvSample => exact execMinvSample_kept _ _ _
  | governorStep => exact execGovernorStep_kept _ _ _
  | ocpLimit => exact execOcpLimit_kept _ _
  | tideSrcWrite => exact execTideSrcWrite_kept _ _ _ _
  | tideLeaseLapse => exact execTideLeaseLapse_kept _ _
  | tideRampTick => exact execTideRampTick_kept _
  | tideLoopStep => exact execTideLoopStep_kept _ _
  | tideLimUpdate => exact execTideLimUpdate_kept _ _ _
  | tideCompliance => exact execTideCompliance_kept _ _
  | refLost => exact execRefLost_kept _
  | referenceUsable => exact execReferenceUsable_kept _ _
  | parentLost => exact execParentLost_kept _ _
  | parentChange => exact execParentChange_kept _ _ _
  | droopStretchStart => exact execDroopStretchStart_kept _ _ _
  | droopStretchEnd => exact execDroopStretchEnd_kept _ _ _
  | freqStep => exact execFreqStep_kept _ _ _
  | generatorSwitch => exact execGeneratorSwitch_kept _ _ _
  | marginLow => exact execMarginLow_kept _ _ _
  | ptpEventMessage => exact execPtpEventMessage_kept _ _ _
  | ptpAnnounceTimeout => exact execPtpAnnounceTimeout_kept _
  | sensorSample => exact execSensorSample_kept _ _ _
  | trustEval => exact execTrustEval_kept _
  | sensorRetrust => exact execSensorRetrust_kept _ _ _ _
  | thermalShutdown => exact execThermalShutdown_kept _ _
  | quenchStep => exact execQuenchStep_kept _
  | quenchLimUpdate => exact execQuenchLimUpdate_kept _ _ _
  | autoRestart => exact execAutoRestart_kept _
  | shutRestart => exact execShutRestart_kept _ _ _
  | trayRead => exact execTrayRead_kept _ _ _
  | flowWindow => exact execFlowWindow_kept _ _
  | coolingJudge => exact execCoolingJudge_kept _
  | faultReport => exact execFaultReport_kept _ _ _ _ _
  | recastStart => exact execRecastStart_kept _ _
  | heartbeat => exact execHeartbeat_kept _ _
  | heartbeatMiss => exact execHeartbeatMiss_kept _ _
  | settleEnd => exact execSettleEnd_kept _ _
  | refillStart => exact execRefillStart_kept _ _
  | refillDone => exact execRefillDone_kept _ _
  | readmission => exact execReadmission_kept _ _
  | rcResume => exact execRcResume_kept _ _ _ _
  | rcRetire => exact execRcRetire_kept _ _ _
  | rcReadmit => exact execRcReadmit_kept _ _ _
  | selfTestDone => exact execSelfTestDone_kept _ _ _
  | quarantineSelfTest => exact execQuarantineSelfTest_kept _ _
  | vauxOn => exact execVauxOn_kept _
  | fwVerify => exact execFwVerify_kept _ _ _
  | mainPowerEnable => exact execMainPowerEnable_kept _
  | mireBringup => exact execMireBringup_kept _ _ _
  | tileTest => exact execTileTest_kept _ _
  | tileTestDone => exact execTileTestDone_kept _ _ _ _
  | siteMapRecord => exact execSiteMapRecord_kept _ _
  | bootReady => exact execBootReady_kept _
  | vauxLost => exact execVauxLost_kept _
  | mainInhAssert => exact execMainInhAssert_kept _
  | mainInhDeassert => exact execMainInhDeassert_kept _
  | ageSample => exact execAgeSample_kept _ _ _ _ _
  | replan => exact execReplan_kept _ _
  | ageReplanWrite => exact execAgeReplanWrite_kept _ _ _ _
  | monClr => exact execMonClr_kept _ _ _ _
  | monConfigWrite => exact execMonConfigWrite_kept _ _ _ _ _
  | monTickSample => exact execMonTickSample_kept _ _ _ _
  | evlogAppend => exact execEvlogAppend_kept _ _
  | evlogLost => exact execEvlogLost_kept _ _
  | getVersion => exact execGetVersion_kept _ _
  | getCapabilities => exact execGetCapabilities_kept _ _
  | negotiateAlgorithms => exact execNegotiateAlgorithms_kept _ _
  | getDigests => exact execGetDigests_kept _ _
  | getCertificate => exact execGetCertificate_kept _ _ _ _ _
  | challenge => exact execChallenge_kept _ _ _ _
  | getMeasurements => exact execGetMeasurements_kept _ _ _ _ _
  | spdmUnsupported tr code => exact execSpdmUnsupported_kept tr code s
  | enroll => exact execEnroll_kept _ _ _
  | revoke => exact execRevoke_kept _ _ _
  | rollAdv => exact execRollAdv_kept _ _ _
  | read64 => exact execRead64_kept _ _ _
  | write64 => exact execWrite64_kept _ _ _ _
  | read32 => exact execRead32_kept _ _ _
  | write32 => exact execWrite32_kept _ _ _ _
  | setEndpointId => exact execSetEndpointId_kept _ _
  | alertResponse => exact execAlertResponse_kept _

/-- A step keeps the canonical form, whatever it may change. -/
theorem step_keeps_canonical {s u : State} (hs : s.canonical = true) (h : step s = .next u) : u.canonical = true := by
  unfold step at h
  cases hp : s.pending with
  | nil =>
    simp only [hp, Host.Outcome.next.injEq] at h
    exact h ▸ (State.tick_kept s).canon hs
  | cons c rest =>
    simp only [hp] at h
    exact (exec_kept c _ u h).canon ((Kept.pending s rest).canon hs)

/-- Settles O6: each operation keeps the canonical form, so each command and the tick do. -/
theorem canonicalFormIsKept : Obligations.CanonicalFormIsKept := fun _ _ => step_keeps_canonical

end Sys2Proof.Machine
end

section
/-! SUPPORT. Parcels: the parts of a parcel do not overlap, so each is read back from the sum that holds it, and with the parts each
crucible instruction (R116 to R120, R128 to R136, R150 to R167). -/
namespace Sys2Proof.Machine
open Sys2Proof

/-! ### Parts of a parcel -/

/-- A part of a parcel: its value, its lowest bit and its width. -/
abbrev ParcelPart := (Nat × Nat) × Nat

/-- The places of two parts do not overlap. -/
def ParcelPart.apart (x y : ParcelPart) : Bool := decide (x.1.2 + x.2 ≤ y.1.2) || decide (y.1.2 + y.2 ≤ x.1.2)

/-- Parts have their places inside a parcel, and no two of them overlap. -/
def laidOut : List ParcelPart → Bool
  | [] => true
  | x :: l => decide (x.1.2 + x.2 ≤ 32) && l.all x.apart && laidOut l

theorem laidOut_cons (x : ParcelPart) (l : List ParcelPart) :
    laidOut (x :: l) = true ↔ x.1.2 + x.2 ≤ 32 ∧ (∀ y ∈ l, x.1.2 + x.2 ≤ y.1.2 ∨ y.1.2 + y.2 ≤ x.1.2) ∧ laidOut l = true := by
  simp [laidOut, ParcelPart.apart, and_assoc]

/-- Bit `i` of a part in its place. -/
def ParcelPart.bit (x : ParcelPart) (i : Nat) : Bool := decide (x.1.2 ≤ i) && x.1.1.testBit (i - x.1.2)

theorem ParcelPart.bit_range {x : ParcelPart} {i : Nat} (hx : x.1.1 < 2 ^ x.2) (h : x.bit i = true) : x.1.2 ≤ i ∧ i < x.1.2 + x.2 := by
  simp only [ParcelPart.bit, Bool.and_eq_true, decide_eq_true_eq] at h
  refine ⟨h.1, ?_⟩
  by_contra hc
  have := Nat.testBit_lt_two_pow (x := x.1.1) (i := i - x.1.2) (hx.trans_le (Nat.pow_le_pow_right (by omega) (by omega)))
  simp [this] at h

theorem parcelOf_cons (p : Nat × Nat) (ps : List (Nat × Nat)) : parcelOf (p :: ps) = BitVec.ofNat 32 (p.1 * 2 ^ p.2) + parcelOf ps := by
  have hf (a : Nat) : ps.foldl (fun a p => a + p.1 * 2 ^ p.2) a = a + ps.foldl (fun a p => a + p.1 * 2 ^ p.2) 0 := by
    induction ps generalizing a with
    | nil => rfl
    | cons p ps ih => rw [List.foldl_cons, List.foldl_cons, ih, ih (0 + _), Nat.zero_add, Nat.add_assoc]
  simp only [parcelOf, List.foldl_cons, Nat.zero_add]
  rw [hf, BitVec.ofNat_add]

theorem ParcelPart.getLsbD_word {x : ParcelPart} (hx : x.1.1 < 2 ^ x.2) (h : x.1.2 + x.2 ≤ 32) (i : Nat) :
    (BitVec.ofNat 32 (x.1.1 * 2 ^ x.1.2)).getLsbD i = x.bit i := by
  rw [BitVec.getLsbD_ofNat, Nat.testBit_mul_two_pow]
  by_cases hb : x.bit i = true
  · have := ParcelPart.bit_range hx hb
    rw [hb]
    simpa [ParcelPart.bit, show i < 32 by omega] using hb
  · simp_all [ParcelPart.bit]

/-- Parts laid apart add up without a carry: a bit of their parcel is a bit of one of them. -/
theorem getLsbD_parcelOf {l : List ParcelPart} (hv : ∀ x ∈ l, x.1.1 < 2 ^ x.2) (ho : laidOut l = true) (i : Nat) :
    (parcelOf (l.map Prod.fst)).getLsbD i = l.any (·.bit i) := by
  induction l generalizing i with
  | nil => simp [parcelOf]
  | cons x l ih =>
    rw [List.forall_mem_cons] at hv
    obtain ⟨hx, hl⟩ := hv
    obtain ⟨hi, ha, ho⟩ := (laidOut_cons x l).mp ho
    have ih := ih hl ho
    have hd : BitVec.ofNat 32 (x.1.1 * 2 ^ x.1.2) &&& parcelOf (l.map Prod.fst) = 0#32 := by
      refine BitVec.eq_of_getLsbD_eq fun j _ => ?_
      rw [BitVec.getLsbD_and, ParcelPart.getLsbD_word hx hi, ih, BitVec.getLsbD_zero, Bool.and_eq_false_imp]
      intro hb
      rw [List.any_eq_false]
      intro y hy hc
      have := ParcelPart.bit_range hx hb
      have := ParcelPart.bit_range (hl y hy) hc
      have := ha y hy
      omega
    rw [List.map_cons, parcelOf_cons, BitVec.add_eq_or_of_and_eq_zero _ _ hd, BitVec.getLsbD_or, ParcelPart.getLsbD_word hx hi, ih, List.any_cons]

theorem laidOut_apart {l : List ParcelPart} (ho : laidOut l = true) {x y : ParcelPart} (hx : x ∈ l) (hy : y ∈ l) (hn : x ≠ y) :
    x.1.2 + x.2 ≤ y.1.2 ∨ y.1.2 + y.2 ≤ x.1.2 := by
  induction l with
  | nil => cases hx
  | cons z l ih =>
    obtain ⟨-, ha, ho⟩ := (laidOut_cons z l).mp ho
    rcases List.mem_cons.mp hx with rfl | hx <;> rcases List.mem_cons.mp hy with rfl | hy
    · exact absurd rfl hn
    · exact ha y (by assumption)
    · exact (ha x (by assumption)).symm
    · exact ih ho hx hy

/-- A word holds a part: the field in its place reads as its value. -/
def ParcelPart.In (w : W32) (x : ParcelPart) : Prop := fieldOf w x.1.2 x.2 = BitVec.ofNat x.2 x.1.1 ∧ w.toNat / 2 ^ x.1.2 % 2 ^ x.2 = x.1.1

/-- Every part is read back from the parcel that the parts make. -/
theorem parcelOf_holds {l : List ParcelPart} (hv : ∀ x ∈ l, x.1.1 < 2 ^ x.2) (ho : laidOut l = true) :
    ∀ x ∈ l, x.In (parcelOf (l.map Prod.fst)) := by
  intro x hx
  have hr : (parcelOf (l.map Prod.fst)).toNat / 2 ^ x.1.2 % 2 ^ x.2 = x.1.1 := by
    refine Nat.eq_of_testBit_eq fun k => ?_
    rw [Nat.testBit_mod_two_pow, Nat.testBit_div_two_pow, Nat.add_comm]
    by_cases hk : k < x.2
    · have hw := getLsbD_parcelOf hv ho (x.1.2 + k)
      rw [BitVec.getLsbD] at hw
      rw [hw, decide_eq_true hk, Bool.true_and, Bool.eq_iff_iff, List.any_eq_true]
      refine ⟨fun ⟨y, hy, hb⟩ => ?_, fun hb => ⟨x, hx, by simpa [ParcelPart.bit] using hb⟩⟩
      have := ParcelPart.bit_range (hv y hy) hb
      have hxy : y = x := by
        by_contra hn
        have := laidOut_apart ho hy hx hn
        omega
      simpa [hxy, ParcelPart.bit] using hb
    · rw [Nat.testBit_lt_two_pow ((hv x hx).trans_le (Nat.pow_le_pow_right (by omega) (by omega)))]
      simp [hk]
  exact ⟨BitVec.eq_of_toNat_eq (by simp [fieldOf, ← hr]), hr⟩

/-- The parts of a parcel are read back from it with the widths that they are laid out with. -/
theorem holds_of_parcelOf {ps : List (Nat × Nat)} {w : W32} (h : parcelOf ps = w) (ns : List Nat)
    (hv : ∀ x ∈ ps.zip ns, x.1.1 < 2 ^ x.2 := by simp <;> omega) (ho : laidOut (ps.zip ns) = true := by rfl)
    (hz : (ps.zip ns).map Prod.fst = ps := by rfl) : ∀ x ∈ ps.zip ns, ParcelPart.In w x := by
  have := parcelOf_holds hv ho
  rwa [hz, h] at this

@[simp] theorem bn_le_one (b : Bool) : bn b ≤ 1 := by cases b <;> decide
@[simp] theorem bn_eq_one (b : Bool) : bn b = 1 ↔ b = true := by cases b <;> decide

/-! ### Scalar instructions -/

/-- A scalar instruction's parcel holds its predicate, its class and the parts that it lays out. -/
theorem holds_of_scalarParcel {p : BitVec 3} {cls : Nat} {ps : List (Nat × Nat)} {w : W32} (h : some [scalarParcel p cls ps] = some [w])
    (ns : List Nat) (hv : ∀ x ∈ ((p.toNat, 29) :: (cls, 25) :: ps).zip (3 :: 4 :: ns), x.1.1 < 2 ^ x.2 := by simp <;> omega)
    (ho : laidOut (((p.toNat, 29) :: (cls, 25) :: ps).zip (3 :: 4 :: ns)) = true := by rfl)
    (hz : (ps.zip ns).map Prod.fst = ps := by rfl) : ∀ x ∈ ((p.toNat, 29) :: (cls, 25) :: ps).zip (3 :: 4 :: ns), ParcelPart.In w x :=
  holds_of_parcelOf (List.head_eq_of_cons_eq (Option.some.inj h)) _ hv ho (congrArg (_ :: _ :: ·) hz)

section Scalar
variable {i : Instr} {t : TaskRef} {q : IssueReq} {w : W32}

/-- What a parcel with register operands is read as (R118, R128). -/
theorem registers_read {p : BitVec 3} {rd a b : BitVec 5} {f : Nat} (hf : f < 32)
    (h : some [scalarParcel p 0 [(rd.toNat, 20), (a.toNat, 15), (b.toNat, 10), (f, 0)]] = some [w]) :
    w.toNat / 0x2000000 % 16 = 0 ∧ w.toNat % 32 = f ∧ fieldOf w 29 3 = p ∧ fieldOf w 20 5 = rd ∧ fieldOf w 15 5 = a ∧ fieldOf w 10 5 = b := by
  have hr := holds_of_scalarParcel h [5, 5, 5, 5]
  simp [ParcelPart.In] at hr
  simp [hr]

/-- What a parcel with an immediate operand is read as (R118, R129). -/
theorem immediate_read {p : BitVec 3} {rd a : BitVec 5} {f : Nat} {imm : BitVec 12} (hf : f < 8)
    (h : some [scalarParcel p 1 [(rd.toNat, 20), (a.toNat, 15), (f, 12), (imm.toNat, 0)]] = some [w]) :
    w.toNat / 0x2000000 % 16 = 1 ∧ w.toNat / 0x1000 % 8 = f ∧ fieldOf w 29 3 = p ∧ fieldOf w 20 5 = rd ∧ fieldOf w 15 5 = a ∧
      fieldOf w 0 12 = imm := by
  have hr := holds_of_scalarParcel h [5, 5, 3, 12]
  simp [ParcelPart.In] at hr
  simp [hr]

/-- A scalar instruction is what its parcel decodes to: by its format, the parts of the parcel are read back. -/
theorem decodeScalar_encode (hi : issueRequest i = some (t, q)) (he : encode i = some [w]) : decodeScalar t w = some i := by
  cases i
  case add | sub | and | or | xor | sll | srl | sra | mul | mulhu | min | max | minu | maxu | ceq | cne | clt | cge | cltu | cgeu | pand | por
      | pxor | pandn =>
    cases hi
    simp [decodeScalar, decodeReg, registers_read (by decide) he]
  case addi | andi | ori | xori | slli | srli | srai | clti =>
    cases hi
    simp [decodeScalar, decodeImm, immediate_read (by decide) he]
  case lui =>
    cases hi
    have hr := holds_of_scalarParcel he [5, 20]
    simp [ParcelPart.In] at hr
    simp [decodeScalar, hr]
  case br =>
    cases hi
    have hr := holds_of_scalarParcel he [3, 22]
    simp [ParcelPart.In] at hr
    simp [decodeScalar, hr]
  case jal =>
    cases hi
    have hr := holds_of_scalarParcel he [3, 4, 18]
    simp [ParcelPart.In] at hr
    simp [decodeScalar, hr]
  case jr =>
    cases hi
    have hr := holds_of_scalarParcel he [3, 4]
    simp [ParcelPart.In] at hr
    simp [decodeScalar, hr]
  case scalarLoad | scalarStore =>
    cases hi
    have hr := holds_of_scalarParcel he [5, 4, 2, 1, 1, 12]
    simp [ParcelPart.In] at hr
    simp [decodeScalar, flagOf, hr]
  case aadd =>
    cases hi
    have hr := holds_of_scalarParcel he [4, 3, 4, 5]
    simp [ParcelPart.In] at hr
    simp [decodeScalar, hr]
  case aaddi | daddr =>
    cases hi
    have hr := holds_of_scalarParcel he [4, 3, 4, 14]
    simp [ParcelPart.In] at hr
    simp [decodeScalar, hr]
  case aset =>
    cases hi
    have hr := holds_of_scalarParcel he [4, 3, 5, 5]
    simp [ParcelPart.In] at hr
    simp [decodeScalar, hr]
  case aget =>
    cases hi
    have hr := holds_of_scalarParcel he [4, 3, 5, 1]
    simp [ParcelPart.In] at hr
    simp [decodeScalar, flagOf, hr]
  case apc =>
    cases hi
    have hr := holds_of_scalarParcel he [4, 3, 14]
    simp [ParcelPart.In] at hr
    simp [decodeScalar, hr]
  case dfmt =>
    cases hi
    have hr := holds_of_scalarParcel he [4, 3, 8, 2]
    simp [ParcelPart.In] at hr
    simp [decodeScalar, hr]
  case dshape | dstride =>
    cases hi
    have hr := holds_of_scalarParcel he [4, 3, 5, 5, 5]
    simp [ParcelPart.In] at hr
    simp [decodeScalar, hr]
  case daux | dcopy =>
    cases hi
    have hr := holds_of_scalarParcel he [4, 3, 4]
    simp [ParcelPart.In] at hr
    simp [decodeScalar, hr]
  case dstep =>
    cases hi
    have hr := holds_of_scalarParcel he [4, 3, 5, 2]
    simp [ParcelPart.In] at hr
    simp [decodeScalar, hr]
  case gadd | gswap | gread | gradd | gbadd =>
    cases hi
    have hr := holds_of_scalarParcel he [3, 10, 5, 5]
    simp [ParcelPart.In] at hr
    simp [decodeScalar, hr]
  case gwait =>
    cases hi
    have hr := holds_of_scalarParcel he [3, 10, 5, 5, 2]
    simp [ParcelPart.In] at hr
    simp [decodeScalar, hr]
  case nop | endTask | brk =>
    cases hi
    have hr := holds_of_scalarParcel he [5]
    simp [ParcelPart.In] at hr
    simp [decodeScalar, hr]
  case rdflags | rdid | clrflags =>
    cases hi
    have hr := holds_of_scalarParcel he [5, 5]
    simp [ParcelPart.In] at hr
    simp [decodeScalar, hr]
  case rdtime =>
    cases hi
    have hr := holds_of_scalarParcel he [5, 5, 1]
    simp [ParcelPart.In] at hr
    simp [decodeScalar, flagOf, hr]
  all_goals cases he
end Scalar

/-! ### Tensor instructions -/

/-- Parcel 0 of a tensor instruction is read as its header, its class and its operation (R119). -/
theorem headParcel_read {h : THdr} {cls op : Nat} {w : W32} (hc : cls < 16) (ho : op < 64) (hw : headParcel h cls op = w) :
    decodeHead w = h ∧ w.toNat / 2 ^ 25 % 16 = cls ∧ w.toNat / 2 ^ 19 % 64 = op := by
  have hr := holds_of_parcelOf hw [3, 4, 6, 10, 1, 8]
  simp [ParcelPart.In] at hr
  simp [decodeHead, flagOf, hr]

section Operands
variable {a b c : W32}

theorem decMat_encMat {o : MatOps} (h : encMat o = [a, b, c]) : decMat a b c = some o := by
  have hr := holds_of_parcelOf (List.head_eq_of_cons_eq h) [4, 4, 4, 4]
  simp [ParcelPart.In] at hr
  simp [decMat, hr, h]

theorem decVec_encVec {o : VecOps} (h : encVec o = [a, b, c]) : decVec a b c = some o := by
  have hr := holds_of_parcelOf (List.head_eq_of_cons_eq h) [4, 4, 4, 4, 4, 5, 5, 1, 1]
  have hs := holds_of_parcelOf (List.head_eq_of_cons_eq (List.tail_eq_of_cons_eq h)) [12, 8]
  simp [ParcelPart.In] at hr hs
  simp [decVec, flagOf, hr, hs, h]

theorem decRed_encRed {o : RedOps} (h : encRed o = [a, b, c]) : decRed a b c = some o := by
  have hr := holds_of_parcelOf (List.head_eq_of_cons_eq h) [4, 4, 4, 5]
  simp [ParcelPart.In] at hr
  simp [decRed, hr, h]

theorem decAtt_encAtt {o : AttOps} (h : encAtt o = [a, b, c]) : decAtt a b c = some o := by
  have hr := holds_of_parcelOf (List.head_eq_of_cons_eq h) [4, 4, 4, 4, 4, 4, 4, 4]
  have hs := holds_of_parcelOf (List.head_eq_of_cons_eq (List.tail_eq_of_cons_eq h)) [1]
  simp [ParcelPart.In] at hr hs
  simp [decAtt, hr, hs, h, Nat.mod_add_div]

theorem decRun_encRun {o : RunOps} (h : encRun o = [a, b, c]) : decRun a b c = some o := by
  have hr := holds_of_parcelOf (List.head_eq_of_cons_eq h) [4, 4, 4, 5, 10, 1]
  simp [ParcelPart.In] at hr
  simp [decRun, flagOf, hr, h]

theorem decSent_encSent {o : SentOps} (h : encSent o = [a, b, c]) : decSent a b c = some o := by
  have hr := holds_of_parcelOf (List.head_eq_of_cons_eq h) [4, 4, 6, 5]
  simp [ParcelPart.In] at hr
  simp [decSent, hr, h]

theorem decRhand_encRhand {o : RhandOps} (h : encRhand o = [a, b, c]) : decRhand a b c = some o := by
  have hr := holds_of_parcelOf (List.head_eq_of_cons_eq h) [4, 4, 5, 7, 5, 5]
  simp [ParcelPart.In] at hr
  simp [decRhand, hr, h]
end Operands

section
variable {i : Instr} {w a b c : W32}

/-- The parcels of a tensor instruction are its header, class and operation, and the words of its operands. -/
theorem tensorParcels_read {h : THdr} {cls op : Nat} {l : List W32} (he : some (headParcel h cls op :: l) = some [w, a, b, c])
    (hc : cls < 16 := by decide) (ho : op < 64 := by decide) :
    decodeHead w = h ∧ w.toNat / 0x2000000 % 16 = cls ∧ w.toNat / 0x80000 % 64 = op ∧ l = [a, b, c] := by
  obtain ⟨hw, hl⟩ := List.cons_eq_cons.mp (Option.some.inj he)
  have hr := headParcel_read hc ho hw
  simp at hr
  exact ⟨hr.1, hr.2.1, hr.2.2, hl⟩

/-- A tensor instruction is what its four parcels decode to. -/
theorem decodeTensor_encode {x : TensorIssue} (ht : tensorIssue i = some x) (he : encode i = some [w, a, b, c]) :
    decodeTensor x.t w a b c = some i := by
  cases i
  case mmul | mmulLift =>
    cases ht
    obtain ⟨hh, hc, ho, hl⟩ := tensorParcels_read he
    simp [decodeTensor, hh, hc, ho, decMat_encMat hl]
  case vAdd | vSub | vMul | fma | vMax | vMin | abs | neg | copysign | scale2 | recip | sqrt | rsqrt | exp | exp2 | log2 | sigmoid | tanh | silu
      | geluErf | geluTanh | cvt | rope | div =>
    cases ht
    obtain ⟨hh, hc, ho, hl⟩ := tensorParcels_read he
    simp [decodeTensor, hh, hc, ho, decVec_encVec hl, decodeVec]
  case rsum | rmax | rmin | rargmax | rargmin | rms | rmsn | softmax | psum =>
    cases ht
    obtain ⟨hh, hc, ho, hl⟩ := tensorParcels_read he
    simp [decodeTensor, hh, hc, ho, decRed_encRed hl, decodeRed]
  case attnRing | attnPage | kvput =>
    cases ht
    obtain ⟨hh, hc, ho, hl⟩ := tensorParcels_read he
    simp [decodeTensor, hh, hc, ho, decAtt_encAtt hl]
  case move | fill | gather =>
    cases ht
    obtain ⟨hh, hc, ho, hl⟩ := tensorParcels_read he
    simp [decodeTensor, hh, hc, ho, decRun_encRun hl]
  case sent =>
    cases ht
    obtain ⟨hh, hc, ho, hl⟩ := tensorParcels_read he
    simp [decodeTensor, hh, hc, ho, decSent_encSent hl]
  case rhand =>
    cases ht
    obtain ⟨hh, hc, ho, hl⟩ := tensorParcels_read he
    simp [decodeTensor, hh, hc, ho, decRhand_encRhand hl]
  all_goals cases ht
end

end Sys2Proof.Machine
end

section
/-! PROOF. Parcels and instructions in both directions (R115 to R121). -/
namespace Sys2Proof.Machine
open Sys2Proof

/-! ### What the decoder answers -/

/-- The request of an instruction is illegal where the instruction is not well formed. -/
theorem issueRequest_illegal {i : Instr} {t : TaskRef} {q : IssueReq} (hi : issueRequest i = some (t, q)) : q.illegal = !i.wf := by
  cases i
  case ceq | cne | clt | cge | cltu | cgeu | clti | pand | por | pxor | pandn =>
    cases hi
    simp [Instr.wf, not_predField]
  case slli | srli | srai =>
    cases hi
    rw [Bool.eq_iff_iff]
    simp [Instr.wf]
  case scalarLoad | scalarStore =>
    cases hi
    simp [Instr.wf]
  all_goals cases hi <;> rfl

/-- An instruction with an encoding is one parcel long, or a tensor instruction of four (R117). -/
theorem encode_parcels {i : Instr} {t : TaskRef} {q : IssueReq} {ps : List W32} (hi : issueRequest i = some (t, q)) (he : encode i = some ps) :
    q.len = 4 * ps.length ∧ ((∃ w, ps = [w]) ∨ ∃ x w a b c, tensorIssue i = some x ∧ x.t = t ∧ ps = [w, a, b, c]) := by
  cases ht : tensorIssue i with
  | some x =>
    rw [issueRequest_tensor ht] at hi
    cases hi
    cases i <;> cases ht <;> cases he <;> exact ⟨rfl, .inr ⟨_, _, _, _, _, rfl, rfl, rfl⟩⟩
  | none => cases i <;> cases ht <;> cases hi <;> cases he <;> exact ⟨rfl, .inl ⟨_, rfl⟩⟩

theorem decodeReg_task {t : TaskRef} {w : W32} {i : Instr} (h : decodeReg t w = some i) : ∃ q, issueRequest i = some (t, q) := by
  unfold decodeReg at h
  split at h <;> cases h <;> exact ⟨_, rfl⟩

theorem decodeImm_task {t : TaskRef} {w : W32} {i : Instr} (h : decodeImm t w = some i) : ∃ q, issueRequest i = some (t, q) := by
  unfold decodeImm at h
  split at h <;> cases h <;> exact ⟨_, rfl⟩

theorem decodeScalar_task {t : TaskRef} {w : W32} {i : Instr} (h : decodeScalar t w = some i) : ∃ q, issueRequest i = some (t, q) := by
  unfold decodeScalar at h
  split at h
  · exact decodeReg_task h
  · exact decodeImm_task h
  · cases h; exact ⟨_, rfl⟩
  · split at h <;> cases h <;> exact ⟨_, rfl⟩
  · split at h <;> cases h <;> exact ⟨_, rfl⟩
  · split at h <;> cases h <;> exact ⟨_, rfl⟩
  · split at h <;> cases h <;> exact ⟨_, rfl⟩
  · split at h <;> cases h <;> exact ⟨_, rfl⟩
  · split at h <;> cases h <;> exact ⟨_, rfl⟩
  · cases h

theorem decodeVec_task {t : TaskRef} {h : THdr} {op : Nat} {o : VecOps} {i : Instr} (hd : decodeVec t h op o = some i) :
    ∃ q, issueRequest i = some (t, q) := by
  unfold decodeVec at hd
  split at hd <;> cases hd <;> exact ⟨_, rfl⟩

theorem decodeRed_task {t : TaskRef} {h : THdr} {op : Nat} {o : RedOps} {i : Instr} (hd : decodeRed t h op o = some i) :
    ∃ q, issueRequest i = some (t, q) := by
  unfold decodeRed at hd
  split at hd <;> cases hd <;> exact ⟨_, rfl⟩

/-- What is made of operands that a parcel may not hold is of the task that it is made for. -/
theorem map_task {α : Type} {t : TaskRef} {f : α → Instr} (hf : ∀ o, ∃ q, issueRequest (f o) = some (t, q)) {x : Option α} {i : Instr}
    (h : x.map f = some i) : ∃ q, issueRequest i = some (t, q) := by
  obtain ⟨o, -, rfl⟩ := Option.map_eq_some_iff.mp h
  exact hf o

theorem decodeTensor_task {t : TaskRef} {w a b c : W32} {i : Instr} (h : decodeTensor t w a b c = some i) :
    ∃ q, issueRequest i = some (t, q) := by
  unfold decodeTensor at h
  dsimp only at h
  split at h
  · split at h
    · exact map_task (fun _ => ⟨_, rfl⟩) h
    · exact map_task (fun _ => ⟨_, rfl⟩) h
    · cases h
  · obtain ⟨o, -, h⟩ := Option.bind_eq_some_iff.mp h
    exact decodeVec_task h
  · obtain ⟨o, -, h⟩ := Option.bind_eq_some_iff.mp h
    exact decodeRed_task h
  · split at h
    · exact map_task (fun _ => ⟨_, rfl⟩) h
    · exact map_task (fun _ => ⟨_, rfl⟩) h
    · exact map_task (fun _ => ⟨_, rfl⟩) h
    · cases h
  · split at h
    · exact map_task (fun _ => ⟨_, rfl⟩) h
    · exact map_task (fun _ => ⟨_, rfl⟩) h
    · exact map_task (fun _ => ⟨_, rfl⟩) h
    · cases h
  · split at h
    · exact map_task (fun _ => ⟨_, rfl⟩) h
    · cases h
  · split at h
    · exact map_task (fun _ => ⟨_, rfl⟩) h
    · cases h
  · cases h

/-! ### Both directions -/

theorem exactly_eq_some {ps : List W32} {i j : Instr} : exactly ps i = some j ↔ i = j ∧ i.wf = true ∧ encode i = some ps := by
  simp [exactly, and_comm]

/-- Parcels of one task decode to an instruction of that task, well formed, whose encoding they are. -/
theorem decodeParcels_sound {t : TaskRef} {ps : List W32} {i : Instr} (h : decodeParcels t ps = some i) :
    i.wf = true ∧ encode i = some ps ∧ ∃ q, issueRequest i = some (t, q) := by
  unfold decodeParcels at h
  split at h
  · obtain ⟨j, hd, hx⟩ := Option.bind_eq_some_iff.mp h
    obtain ⟨rfl, hw, he⟩ := exactly_eq_some.mp hx
    exact ⟨hw, he, decodeScalar_task hd⟩
  · obtain ⟨j, hd, hx⟩ := Option.bind_eq_some_iff.mp h
    obtain ⟨rfl, hw, he⟩ := exactly_eq_some.mp hx
    exact ⟨hw, he, decodeTensor_task hd⟩
  · cases h

/-- A well-formed instruction is what its encoding decodes to. -/
theorem decodeParcels_encode {i : Instr} {t : TaskRef} {q : IssueReq} {ps : List W32} (hw : i.wf = true)
    (hi : issueRequest i = some (t, q)) (he : encode i = some ps) : decodeParcels t ps = some i := by
  obtain ⟨-, ⟨w, rfl⟩ | ⟨x, w, a, b, c, ht, rfl, rfl⟩⟩ := encode_parcels hi he
  · exact Option.bind_eq_some_iff.mpr ⟨i, decodeScalar_encode hi he, exactly_eq_some.mpr ⟨rfl, hw, he⟩⟩
  · exact Option.bind_eq_some_iff.mpr ⟨i, decodeTensor_encode ht he, exactly_eq_some.mpr ⟨rfl, hw, he⟩⟩

/-- Settles O9: what is decoded is checked against its own encoding, and every part of a parcel is read back from it. -/
theorem parcelsRoundTrip : Obligations.ParcelsRoundTrip := by
  unfold Obligations.ParcelsRoundTrip
  refine ⟨fun t ps i h => ?_, fun i t q ps => decodeParcels_encode⟩
  obtain ⟨hw, he, q, hi⟩ := decodeParcels_sound h
  exact ⟨hw, he, q, hi, by rw [issueRequest_illegal hi, hw]; rfl, (encode_parcels hi he).1⟩

end Sys2Proof.Machine
end

section
/-! SUPPORT. Machine words as numbers: what the model's operations on them are modulo 2^w. -/
namespace Sys2Proof.Machine

section Words
variable {w : Nat} (a b : BitVec w)

theorem add_eq_ofNat : a + b = BitVec.ofNat w (a.toNat + b.toNat) := by simp [BitVec.ofNat_add]

theorem mul_eq_ofNat : a * b = BitVec.ofNat w (a.toNat * b.toNat) := by simp [BitVec.ofNat_mul]

theorem ofInt_toNat : BitVec.ofInt w a.toNat = a := by simp

theorem sub_eq_ofInt : a - b = BitVec.ofInt w (a.toNat - b.toNat) := by
  rw [Int.sub_eq_add_neg, BitVec.ofInt_add, BitVec.ofInt_neg, ofInt_toNat, ofInt_toNat, BitVec.sub_eq_add_neg]

theorem shiftLeft_eq_ofNat (k : Nat) : a <<< k = BitVec.ofNat w (a.toNat * 2 ^ k) :=
  BitVec.eq_of_toNat_eq (by simp [Nat.shiftLeft_eq])

theorem shiftRight_eq_ofNat (k : Nat) : a >>> k = BitVec.ofNat w (a.toNat / 2 ^ k) := by
  refine BitVec.eq_of_toNat_eq ?_
  rw [BitVec.toNat_ushiftRight, Nat.shiftRight_eq_div_pow, BitVec.toNat_ofNat, Nat.mod_eq_of_lt ((Nat.div_le_self ..).trans_lt a.isLt)]

theorem sshiftRight_eq_ofInt (k : Nat) : a.sshiftRight k = BitVec.ofInt w (a.toInt / 2 ^ k) := by
  rw [← BitVec.ofInt_toInt (x := a.sshiftRight k), BitVec.toInt_sshiftRight, Int.shiftRight_eq_div_pow]
  norm_cast

theorem slt_min_eq_ofInt : (if a.slt b then a else b) = BitVec.ofInt w (min a.toInt b.toInt) := by
  by_cases h : a.toInt < b.toInt
  · simp [BitVec.slt, h, min_eq_left h.le]
  · simp [BitVec.slt, h, min_eq_right (not_lt.mp h)]

theorem slt_max_eq_ofInt : (if a.slt b then b else a) = BitVec.ofInt w (max a.toInt b.toInt) := by
  by_cases h : a.toInt < b.toInt
  · simp [BitVec.slt, h, max_eq_right h.le]
  · simp [BitVec.slt, h, max_eq_left (not_lt.mp h)]

theorem ult_min_eq_ofNat : (if a.ult b then a else b) = BitVec.ofNat w (min a.toNat b.toNat) := by
  by_cases h : a.toNat < b.toNat
  · simp [BitVec.ult, h, min_eq_left h.le]
  · simp [BitVec.ult, h, min_eq_right (not_lt.mp h)]

theorem ult_max_eq_ofNat : (if a.ult b then b else a) = BitVec.ofNat w (max a.toNat b.toNat) := by
  by_cases h : a.toNat < b.toNat
  · simp [BitVec.ult, h, max_eq_right h.le]
  · simp [BitVec.ult, h, max_eq_left (not_lt.mp h)]

theorem not_slt : (!a.slt b) = decide (b.toInt ≤ a.toInt) := by
  rw [BitVec.slt, ← decide_not]
  simp only [not_lt]

theorem not_ult : (!a.ult b) = decide (b.toNat ≤ a.toNat) := by
  rw [BitVec.ult, ← decide_not]
  simp only [not_lt]

/-- A sum with a sign-extended operand. -/
theorem add_signExtend_eq_ofInt {n : Nat} (imm : BitVec n) : a + imm.signExtend w = BitVec.ofInt w (a.toNat + imm.toInt) := by
  rw [BitVec.ofInt_add, ofInt_toNat, BitVec.signExtend]

/-- A sum with a sign-extended operand a number of times. -/
theorem add_signExtend_mul_eq_ofInt {n m : Nat} (x : BitVec n) (y : BitVec m) :
    a + x.signExtend w * y.setWidth w = BitVec.ofInt w (a.toNat + x.toInt * y.toNat) := by
  rw [BitVec.ofInt_add, BitVec.ofInt_mul, ofInt_toNat, BitVec.signExtend, ← BitVec.ofNat_toNat w y, BitVec.ofInt_natCast]

theorem pcPlus_eq_ofInt {n : Nat} (pc : Addr) (imm : BitVec n) : pcPlus pc imm = BitVec.ofInt 48 (pc.toNat + 4 * imm.toInt) := by
  rw [Int.mul_comm, pcPlus]
  exact add_signExtend_mul_eq_ofInt pc imm 4#3
end Words

end Sys2Proof.Machine
end

section
/-! PROOF. The scalar and predicate instructions (R128, R129). -/
namespace Sys2Proof.Machine
open Sys2Proof

section
variable {s : State} {t : TaskRef} {pred : BitVec 3} {rd rs1 rs2 : BitVec 5} {c : Instr}

theorem DoesS.ofAluReg {f : W32 → W32 → W32} {v : W32} (h : s.reaches t 4 pred [rd, rs1, rs2] = true)
    (he : exec c s = .next (s.aluReg t pred rd rs1 rs2 f)) (hv : f ((s.taskAt t).rs rs1) ((s.taskAt t).rs rs2) = v) : DoesS c s t rd v :=
  DoesS.ofStep _ h he (congrArg _ hv)

theorem DoesS.ofAluImm {ill : Bool} {f : W32 → W32} {v : W32} (h : s.reaches t 4 pred [rd, rs1] = true) (hi : ill = false)
    (he : exec c s = .next (s.aluImm t ill pred rd rs1 f)) (hv : f ((s.taskAt t).rs rs1) = v) : DoesS c s t rd v := by
  subst hi
  exact DoesS.ofStep _ h he (congrArg _ hv)

theorem predField_of_lt {r : BitVec 5} (h : r.toNat < 8) : predField r = true := decide_eq_true h

/-- A predicate field that names a predicate is no illegal encoding. -/
theorem DoesP.ofField {uses : List (BitVec 5)} {f : Task → Task} {v : Bool} (h : s.reaches t 4 pred uses = true) (hd : rd.toNat < 8)
    (he : exec c s = .next (s.scalarStep t (!predField rd) pred uses f)) (hf : f (s.taskAt t) = (s.taskAt t).setRp (rd.setWidth 3) v) :
    DoesP c s t (BitVec.ofNat 3 rd.toNat) v := by
  rw [predField_of_lt hd] at he
  exact DoesP.ofStep _ h he (by rw [BitVec.ofNat_toNat, hf])

theorem DoesP.ofCompare {f : W32 → W32 → Bool} {v : Bool} (h : s.reaches t 4 pred [rs1, rs2] = true) (hd : rd.toNat < 8)
    (he : exec c s = .next (s.compare t pred rd rs1 rs2 f)) (hv : f ((s.taskAt t).rs rs1) ((s.taskAt t).rs rs2) = v) :
    DoesP c s t (BitVec.ofNat 3 rd.toNat) v := DoesP.ofField h hd he (congrArg _ hv)

theorem DoesP.ofPredLogic {f : Bool → Bool → Bool} {v : Bool} (h : s.reaches t 4 pred [] = true) (hd : rd.toNat < 8) (h1 : rs1.toNat < 8)
    (h2 : rs2.toNat < 8) (he : exec c s = .next (s.predLogic t pred rd rs1 rs2 f))
    (hv : f ((s.taskAt t).rp (BitVec.ofNat 3 rs1.toNat)) ((s.taskAt t).rp (BitVec.ofNat 3 rs2.toNat)) = v) :
    DoesP c s t (BitVec.ofNat 3 rd.toNat) v := by
  unfold State.predLogic at he
  rw [predField_of_lt hd, predField_of_lt h1, predField_of_lt h2] at he
  rw [BitVec.ofNat_toNat, BitVec.ofNat_toNat] at hv
  exact DoesP.ofStep _ h he (by rw [BitVec.ofNat_toNat, hv])
end

/-- A shift amount that is defined is the immediate itself. -/
theorem shiftOf_of_lt {imm : BitVec 12} (h : imm.toNat < 32) : shiftOf imm = imm.toNat := Nat.mod_eq_of_lt h

/-- Settles O10: each instruction is one step of its task's registers, and its result is a fact about words. -/
theorem scalarResults : Obligations.ScalarResults := by
  unfold Obligations.ScalarResults
  refine ⟨fun t pred rd rs1 rs2 s h => ?_, fun t pred rd rs1 imm imm20 s => ⟨fun h => ?_, fun h => ?_⟩,
    fun t pred rd rs1 rs2 imm s hd => ⟨fun h => ?_, fun h => ?_, fun h h1 h2 => ?_⟩⟩
  · exact ⟨DoesS.ofAluReg h rfl (add_eq_ofNat ..), DoesS.ofAluReg h rfl (sub_eq_ofInt ..), DoesS.ofAluReg h rfl rfl,
      DoesS.ofAluReg h rfl rfl, DoesS.ofAluReg h rfl rfl, DoesS.ofAluReg h rfl (shiftLeft_eq_ofNat ..),
      DoesS.ofAluReg h rfl (shiftRight_eq_ofNat ..), DoesS.ofAluReg h rfl (sshiftRight_eq_ofInt ..),
      DoesS.ofAluReg h rfl (mul_eq_ofNat ..), DoesS.ofAluReg h rfl rfl, DoesS.ofAluReg h rfl (slt_min_eq_ofInt ..),
      DoesS.ofAluReg h rfl (slt_max_eq_ofInt ..), DoesS.ofAluReg h rfl (ult_min_eq_ofNat ..), DoesS.ofAluReg h rfl (ult_max_eq_ofNat ..)⟩
  · exact DoesS.ofStep _ h rfl (congrArg _ ((shiftLeft_eq_ofNat ..).trans (by rw [BitVec.toNat_setWidth_of_le (by decide)])))
  · refine ⟨DoesS.ofAluImm h rfl rfl (add_signExtend_eq_ofInt ..), DoesS.ofAluImm h rfl rfl (by rw [BitVec.ofNat_toNat]),
      DoesS.ofAluImm h rfl rfl (by rw [BitVec.ofNat_toNat]), DoesS.ofAluImm h rfl rfl (by rw [BitVec.ofNat_toNat]), fun hk => ?_⟩
    have hi : decide (32 ≤ imm.toNat) = false := decide_eq_false (by omega)
    rw [← shiftOf_of_lt hk]
    exact ⟨DoesS.ofAluImm h hi rfl (shiftLeft_eq_ofNat ..), DoesS.ofAluImm h hi rfl (shiftRight_eq_ofNat ..),
      DoesS.ofAluImm h hi rfl (sshiftRight_eq_ofInt ..)⟩
  · exact ⟨DoesP.ofCompare h hd rfl rfl, DoesP.ofCompare h hd rfl rfl, DoesP.ofCompare h hd rfl rfl,
      DoesP.ofCompare h hd rfl (not_slt ..), DoesP.ofCompare h hd rfl rfl, DoesP.ofCompare h hd rfl (not_ult ..)⟩
  · exact DoesP.ofField h hd rfl (congrArg _ (by rw [BitVec.slt, BitVec.toInt_signExtend_of_le (by decide)]))
  · exact ⟨DoesP.ofPredLogic h hd h1 h2 rfl rfl, DoesP.ofPredLogic h hd h1 h2 rfl rfl, DoesP.ofPredLogic h hd h1 h2 rfl rfl,
      DoesP.ofPredLogic h hd h1 h2 rfl rfl⟩

end Sys2Proof.Machine
end

section
/-! PROOF. Branches, address registers and descriptor set-up (R131, R133, R134). -/
namespace Sys2Proof.Machine
open Sys2Proof

section
variable {s : State} {t : TaskRef} {pred : BitVec 3}

theorem does_goTo {c : Instr} {pc : Addr} {f : State → Addr} (h : s.reaches t 4 pred [] = true)
    (he : exec c s = .next (s.issue t ⟨4, false, pred, []⟩ (fun s => s.goTo t (f s)))) (hp : f s = pc) :
    Does c s (fun u => Retires t pc s u ∧ SetsNone (s.taskAt t) (u.taskAt t)) := by
  subst hp
  obtain ⟨hr, ht⟩ := State.goTo_retires s t (f s)
  exact Does.ofIssue (q := ⟨4, false, pred, []⟩) h rfl he ⟨hr, SetsNone.of ht⟩

theorem does_jal (aD : BitVec 4) (imm : BitVec 18) (h : s.reaches t 4 pred [] = true) :
    Does (.jal t pred aD imm) s (fun u => Retires t (BitVec.ofInt 48 ((s.taskAt t).pc.toNat + 4 * imm.toInt)) s u ∧
      SetsA (s.taskAt t) (u.taskAt t) aD (s.nextPc t 4)) := by
  rw [← pcPlus_eq_ofInt]
  obtain ⟨hr, ht⟩ := State.goTo_retires (s.onTask t (fun x => x.setRa aD (s.nextPc t 4))) t (pcPlus (s.taskAt t).pc imm)
  have ha : SetsA (s.taskAt t) (((s.onTask t (fun x => x.setRa aD (s.nextPc t 4))).goTo t (pcPlus (s.taskAt t).pc imm)).taskAt t) aD
      (s.nextPc t 4) := by
    rw [ht, State.taskAt_onTask]
    exact SetsA.setRa ..
  exact Does.ofIssue (q := ⟨4, false, pred, []⟩) h rfl rfl ⟨hr.after rfl, ha⟩

variable {uses : List (BitVec 5)} {dd : BitVec 4}

theorem DoesD.ofDescStep {c : Instr} {f : Task → Desc → Desc} {d : Desc} (h : s.reaches t 4 pred uses = true)
    (he : exec c s = .next (s.descStep t pred uses dd f)) (hd : f (s.taskAt t) ((s.taskAt t).rd dd) = d) : DoesD c s t dd d :=
  DoesD.ofStep _ h he (congrArg _ hd)
end

/-- Settles O11: branches are one move of the program counter, the others one step of the task's registers. -/
theorem branchesAndAddressing : Obligations.BranchesAndAddressing := by
  unfold Obligations.BranchesAndAddressing
  refine ⟨fun t pred imm22 imm18 aD s h => ⟨?_, does_jal aD imm18 h, does_goTo h rfl rfl⟩,
    fun t pred aD aS sX sY imm s => ⟨fun h => ?_, fun h => ?_, fun h => ?_, fun h => ⟨?_, ?_⟩, fun h => ?_⟩,
    fun t pred dd aA dS sX sY sZ fmt tag imm s => ⟨fun h => ⟨?_, ?_, ?_, ?_⟩, fun h => ⟨?_, ?_⟩, fun h => ⟨?_, ?_, ?_, ?_⟩⟩⟩
  · exact does_goTo h rfl (pcPlus_eq_ofInt ..)
  · exact DoesA.ofStep _ h rfl (congrArg _ (add_signExtend_eq_ofInt ..))
  · exact DoesA.ofStep _ h rfl (congrArg _ (add_signExtend_eq_ofInt ..))
  · exact DoesA.ofStep _ h rfl rfl
  · exact DoesS.ofStep _ h rfl rfl
  · exact DoesS.ofStep _ h rfl rfl
  · exact DoesA.ofStep _ h rfl (congrArg _ (pcPlus_eq_ofInt ..))
  · exact DoesD.ofDescStep h rfl (by rw [add_signExtend_eq_ofInt])
  · exact DoesD.ofDescStep h rfl rfl
  · exact DoesD.ofDescStep h rfl rfl
  · exact DoesD.ofDescStep h rfl rfl
  · exact DoesD.ofDescStep h rfl rfl
  · exact DoesD.ofDescStep h rfl rfl
  · exact DoesD.ofDescStep h rfl (by rw [← add_signExtend_eq_ofInt]; rfl)
  · exact DoesD.ofDescStep h rfl (by rw [← add_signExtend_mul_eq_ofInt]; rfl)
  · exact DoesD.ofDescStep h rfl (by rw [← add_signExtend_mul_eq_ofInt]; rfl)
  · exact DoesD.ofDescStep h rfl (by rw [← add_signExtend_eq_ofInt]; rfl)

end Sys2Proof.Machine
end

section
/-! PROOF. The gate instructions and the ends of a gate wait (R135 to R139). -/
namespace Sys2Proof.Machine
open Sys2Proof

/-! ### Registers of the gate page -/

/-- No counter of a gate page is one of the crucible's or of the gathering buffer's. -/
theorem gateCounter_notCru (t : TaskRef) (k l : Nat) : counter (cruPage t.tile t.cru) k ≠ counter (gatePage t.tile) l := by
  have hk := t.cru.isLt
  simp [counter, cruPage, gatePage, tilePage]
  omega

theorem gateCounter_notGb (tile k : Nat) : counter (gatePage tile) k ∉ gbRegs tile := by
  simp [gbRegs, counter, peatPage, gatePage, tilePage]

/-- A register written leaves the program counter and the mark of R68. -/
theorem Task.setRs_keeps (x : Task) (rd : BitVec 5) (v : W32) : (x.setRs rd v).pc = x.pc ∧ (x.setRs rd v).aged = x.aged := by
  unfold Task.setRs
  split <;> exact ⟨rfl, rfl⟩

/-! ### Instructions that write a gate -/

section
variable {s : State} {t : TaskRef} {pred : BitVec 3} {gate : BitVec 10} {sX sD : BitVec 5} {c : Instr}

/-- A gate write that is counted: the buffer flushes, the gate takes its new value and the register its old one. -/
theorem does_gateOp {k : Nat} {write : W32 → W32 → W32} {v : W32} (h : s.reaches t 4 pred [sX, sD] = true) (hb : s.gbReady t.tile t.cru = true)
    (hk : k < 16) (he : exec c s = .next (s.gateOp t pred gate sX sD true (some k) write))
    (hv : write (s.gate t.tile gate.toNat) ((s.taskAt t).rs sX) = v) : Does c s (fun u =>
      RetiresTo t [.gates, .peat, .peatBad] (gbRegs t.tile ++ [counter (gatePage t.tile) k]) (s.nextPc t 4) s u ∧
      SetsS (s.taskAt t) (u.taskAt t) sD (s.gate t.tile gate.toNat) ∧
      (∀ (i : TileIx) (g : BitVec 10), u.gate i g.toNat = if i = t.tile ∧ g = gate then v else s.gate i g.toNat) ∧
      Counts s u (gatePage t.tile) k 1 ∧ u.peat = (s.gbFlushAll t.tile t.cru).peat ∧ (u.cru t.tile t.cru).gb = []) := by
  have gb := State.gbFlushAll_gb s t.tile t.cru
  have hg := State.gbFlushAll_empty s t.tile t.cru
  have hf : Kept [.regs, .peat, .crus, .peatBad] s (s.gbFlushAll t.tile t.cru) := (State.gbFlushAll_kept ..).mono rfl
  refine Does.ofIssue (q := ⟨4, false, pred, [sX, sD]⟩) h rfl he ?_
  simp only [hb, Bool.not_true, Bool.and_false, Bool.false_eq_true, if_false, if_true]
  generalize s.gbFlushAll t.tile t.cru = s1 at *
  have ht : s1.taskAt t = s.taskAt t := State.taskAt_congr (hf.frame .tasks (by decide)) t
  have ho : s1.gate t.tile gate.toNat = s.gate t.tile gate.toNat := State.gate_congr (hf.frame .gates (by decide)) _ _
  rw [State.task_eq, ht, ho, hv]
  generalize hs : (s1.setGate t.tile gate.toNat v).bump (gatePage t.tile) k 1 = s2
  have hr : RegsOutside [counter (gatePage t.tile) k] s1 s2 :=
    hs ▸ (RegsOutside.of_regs rfl : RegsOutside _ s1 (s1.setGate t.tile gate.toNat v)).thenBump _ _ _ (by omega) (by simp)
  have hc : Counts s1 s2 (gatePage t.tile) k 1 := hs ▸ Counts.bump (s1.setGate t.tile gate.toNat v) ..
  have hk2 : Kept [.regs, .gates] s1 s2 := hs ▸ ((State.setGate_kept ..).mono rfl).step (State.bump_kept ..) rfl
  have hgate (i : TileIx) (g : BitVec 10) : s2.gate i g.toNat = if i = t.tile ∧ g = gate then v else s.gate i g.toNat := by
    rw [← hs, ← State.gate_congr (hf.frame .gates (by decide)) i g.toNat]
    exact State.gate_setGate ..
  obtain ⟨hR, hT, hF, hO, hG⟩ := gb.retireWith (fs := [.gates, .peat, .peatBad]) hr (hk2.frame .crus (by decide))
    ((hk2.frame .tasks (by decide)).trans (hf.frame .tasks (by decide))) ((hf.mono rfl).step hk2 rfl).frame
    (fun l _ => by simpa using gateCounter_notCru t l k) (fun x => x.setRs sD (s.gate t.tile gate.toNat)) (Task.setRs_keeps ..).1 (Task.setRs_keeps ..).2
  refine ⟨hR, hT ▸ SetsS.setRs .., fun i g => ?_, ?_, ?_, ?_⟩
  · rw [State.gate_congr (hF .gates (by decide)), hgate]
  · refine ((Counts.before gb.regs hc (by omega) (gateCounter_notGb _ _)).after hO (by omega) ?_)
    simp [(gateCounter_notCru t _ k).symm]
  · exact (hF .peat (by decide)).trans (hk2.frame .peat (by decide))
  · rw [hG, State.cru_congr (hk2.frame .crus (by decide)), hg]

/-- GREAD writes the gate's own value back: nothing but the register changes. -/
theorem does_gread (h : s.reaches t 4 pred [sX, sD] = true) : Does (.gread t pred gate sX sD) s (fun u =>
    RetiresTo t [.gates] [] (s.nextPc t 4) s u ∧ SetsS (s.taskAt t) (u.taskAt t) sD (s.gate t.tile gate.toNat) ∧
      ∀ (i : TileIx) (g : BitVec 10), u.gate i g.toNat = if i = t.tile ∧ g = gate then s.gate t.tile gate.toNat else s.gate i g.toNat) := by
  refine Does.ofIssue (q := ⟨4, false, pred, [sX, sD]⟩) h rfl rfl ?_
  simp only [Bool.false_and, Bool.false_eq_true, if_false]
  have hk := State.setGate_kept s t.tile gate.toNat (s.gate t.tile gate.toNat)
  have hgate (i : TileIx) (g : BitVec 10) := State.gate_setGate s t.tile i gate g (s.gate t.tile gate.toNat)
  have hr : RegsOutside [] s (s.setGate t.tile gate.toNat (s.gate t.tile gate.toNat)) := RegsOutside.of_regs rfl
  generalize s.setGate t.tile gate.toNat (s.gate t.tile gate.toNat) = s2 at *
  obtain ⟨hR, hT, hF, -⟩ := State.retireWith (fs := [.gates]) hr (hk.frame .crus (by decide)) (hk.frame .tasks (by decide)) (hk.mono rfl).frame
    (fun _ _ => List.not_mem_nil) (fun x => x.setRs sD (s.gate t.tile gate.toNat)) (Task.setRs_keeps ..).1 (Task.setRs_keeps ..).2
  exact ⟨hR, hT ▸ SetsS.setRs .., fun i g => (State.gate_congr (hF .gates (by decide)) ..).trans (hgate i g)⟩

/-- GWAIT leaves the issue stage with its task in a gate wait. -/
theorem does_gwait (tmo : BitVec 2) (h : s.reaches t 4 pred [sX, sD] = true) : Does (.gwait t pred gate sX sD tmo) s (fun u =>
    IssueFrame t [] [] s u ∧ u.taskAt t = { s.taskAt t with
      st := .waiting, wait := .gate, aged := false, gate := some ⟨gate.toNat, (s.taskAt t).rs sX, sD.toNat,
        if s.gateTmo t.tile tmo.toNat = 0 then none else some (s.up + s.gateTmo t.tile tmo.toNat)⟩ }) := by
  refine Does.ofIssue (q := ⟨4, false, pred, [sX, sD]⟩) h rfl rfl ?_
  obtain ⟨hi, ht, -⟩ := State.countIssue_frame s t
  refine ⟨hi.andTask _, ?_⟩
  rw [State.taskAt_onTask, ht]
  rfl
end

/-! ### The ends of a wait -/

/-- A timeout noted on the gate page (R140): counted, raised, and the wait that it ended. -/
def State.noteGateTimeout (s : State) (t : TaskRef) (g : Nat) : State :=
  ((s.bump (gatePage t.tile) 2 1).raise (gatePage t.tile) 0).setReg (gatePage t.tile) Reg.GATE_TOLAST
    (word [(0, g), (10, t.cru.val), (12, t.task.val), (32, s.ts)])

/-- The registers that a gate timeout notes. -/
def gateTimeoutRegs (tile : Nat) : List (Nat × Nat) :=
  [counter (gatePage tile) 2, (gatePage tile, Reg.GATE_TOLAST)] ++ evtRegs (gatePage tile)

theorem State.noteGateTimeout_kept (s : State) (t : TaskRef) (g : Nat) : Kept [.regs, .out, .fns] s (s.noteGateTimeout t g) :=
  (((State.bump_kept ..).mono rfl).step (State.raise_kept ..) rfl).step (State.setReg_kept ..) rfl

theorem State.noteGateTimeout_regs (s : State) (t : TaskRef) (g : Nat) :
    let u := s.noteGateTimeout t g
    RegsOutside (gateTimeoutRegs t.tile) s u ∧ Counts s u (gatePage t.tile) 2 1 ∧ Raised u (gatePage t.tile) 0 ∧
      u.reg (gatePage t.tile) Reg.GATE_TOLAST = word [(0, g), (10, t.cru.val), (12, t.task.val), (32, s.ts)] := by
  intro u
  have hs := RegsOutside.setReg ((s.bump (gatePage t.tile) 2 1).raise (gatePage t.tile) 0) (gatePage t.tile) Reg.GATE_TOLAST
    (word [(0, g), (10, t.cru.val), (12, t.task.val), (32, s.ts)]) (by decide)
  refine ⟨?_, ?_, (Raised.raise _ _ 0 (by decide)).outside hs (by simp [Reg.EVT_RAW, Reg.GATE_TOLAST]), State.reg_setReg_same ..⟩
  · exact ((((RegsOutside.refl _ s).thenBump _ 2 1 (by decide) (by simp [gateTimeoutRegs])).thenRaise _ 0
      (fun x hx => by simp [gateTimeoutRegs, hx])).thenSetReg _ _ _ (by decide) (by simp [gateTimeoutRegs]))
  · refine ((Counts.bump s (gatePage t.tile) 2 1).after (RegsOutside.raise _ _ 0) (by decide) ?_).after hs (by decide) ?_
    · simp [evtRegs_eq, counter, Reg.COUNTER, gatePage, tilePage]
    · simp [counter, Reg.COUNTER, Reg.GATE_TOLAST]

/-- What a gate timeout notes is none of the fault's own registers. -/
theorem gateTimeoutRegs_notFault (t : TaskRef) : (cruPage t.tile t.cru, Reg.TASK_FAULT t.task) ∉ gateTimeoutRegs t.tile ∧
    counter (cruPage t.tile t.cru) 12 ∉ gateTimeoutRegs t.tile ∧ counter (faultPage t.tile) 0 ∉ gateTimeoutRegs t.tile := by
  have hk := t.cru.isLt
  have hi := t.tile.isLt
  refine ⟨?_, ?_, ?_⟩ <;> simp [gateTimeoutRegs, evtRegs_eq, counter, Reg.COUNTER, gatePage, cruPage, faultPage, tilePage] <;> omega

/-- The registers that a fault writes on the pages of its crucible and of FAULT are none of those. -/
theorem faultRegs_notGateTimeout (t : TaskRef) :
    let pg := cruPage t.tile t.cru
    let fp := faultPage t.tile
    let l := [(pg, Reg.TASK_FAULT t.task), (pg, Reg.TASK_FADDR t.task), (pg, Reg.TASK_FPC t.task), counter pg 12,
      (fp, Reg.FAULT_REC), (fp, Reg.FAULT_INFO), counter fp 0] ++ evtRegs pg ++ evtRegs fp ++ []
    counter (gatePage t.tile) 2 ∉ l ∧ (gatePage t.tile, Reg.EVT_RAW) ∉ l ∧ (gatePage t.tile, Reg.GATE_TOLAST) ∉ l := by
  have hk := t.cru.isLt
  have hi := t.tile.isLt
  refine ⟨?_, ?_, ?_⟩ <;>
    simp [evtRegs_eq, counter, Reg.COUNTER, Reg.EVT_RAW, Reg.GATE_TOLAST, gatePage, cruPage, faultPage, tilePage] <;> omega

section
variable {s : State} {t : TaskRef} {w : GateWait} (hw : (s.taskAt t).gate = some w)
include hw

theorem does_gwaitSatisfied (hv : (s.gate t.tile w.gate - w.target).toNat < 2 ^ 31) : Does (.gwaitSatisfied t) s (fun u =>
    Frame [.regs, .tasks] s u ∧ RegsOutside [counter (gatePage t.tile) 1] s u ∧ TasksOutside t s u ∧ Counts s u (gatePage t.tile) 1 1 ∧
      (∀ r, (u.taskAt t).rs r = if r = BitVec.ofNat 5 w.dst ∧ BitVec.ofNat 5 w.dst ≠ 0 then s.gate t.tile w.gate else (s.taskAt t).rs r) ∧
      (u.taskAt t).st = .ready ∧ (u.taskAt t).wait = .none ∧ (u.taskAt t).gate = none ∧ (u.taskAt t).pc = (s.taskAt t).pc + 4) := by
  have he : exec (.gwaitSatisfied t) s = .next ((s.bump (gatePage t.tile) 1 1).onTask t (fun x =>
      { x.setRs (BitVec.ofNat 5 w.dst) (s.gate t.tile w.gate) with st := .ready, wait := .none, gate := none, pc := x.pc + 4 })) := by
    show execGwaitSatisfied t s = _
    unfold execGwaitSatisfied
    rw [State.task_eq, hw]
    exact if_pos (decide_eq_true hv)
  refine ⟨_, he, (((State.bump_kept ..).mono (m := [.regs, .tasks]) rfl).step (State.onTask_kept ..) rfl).frame,
    (RegsOutside.bump s _ 1 1 (by decide)).thenSame rfl, TasksOutside.trans (TasksOutside.of_tasks rfl) (TasksOutside.setTask _ t _),
    Counts.bump .., ?_⟩
  rw [State.taskAt_onTask]
  exact ⟨Task.rs_setRs (s.taskAt t) _ _, rfl, rfl, rfl, rfl⟩

theorem does_gateTimeout (hv : 2 ^ 31 ≤ (s.gate t.tile w.gate - w.target).toNat) (hd : ∃ d, w.till = some d ∧ d ≤ s.up)
    (h0 : (s.taskAt t).faultSeq = none) : Does (.gateTimeout t) s (fun u =>
      Faulted t fGateTimeout 1 (BitVec.ofNat 48 w.gate) (s.taskAt t).pc
        ([counter (gatePage t.tile) 2, (gatePage t.tile, Reg.GATE_TOLAST)] ++ evtRegs (gatePage t.tile)) s u ∧
      Counts s u (gatePage t.tile) 2 1 ∧ Raised u (gatePage t.tile) 0 ∧
      u.reg (gatePage t.tile) Reg.GATE_TOLAST = word [(0, w.gate), (10, t.cru.val), (12, t.task.val), (32, s.ts)]) := by
  have he : exec (.gateTimeout t) s = .next ((s.noteGateTimeout t w.gate).taskFault t
      ⟨fGateTimeout, 1, BitVec.ofNat 48 w.gate, (s.taskAt t).pc, (s.taskAt t).seq, 0⟩) := by
    obtain ⟨d, hd, hl⟩ := hd
    show execGateTimeout t s = _
    unfold execGateTimeout
    simp only [State.task_eq, hw]
    refine if_pos ?_
    simp only [hd, gateSatisfied, decide_eq_true hl, decide_eq_false (not_lt.mpr hv), Bool.not_false, Bool.and_self]
  have hk := State.noteGateTimeout_kept s t w.gate
  obtain ⟨hr, hc, hb, hg⟩ := State.noteGateTimeout_regs s t w.gate
  have ht : (s.noteGateTimeout t w.gate).taskAt t = s.taskAt t := State.taskAt_congr (hk.frame .tasks (by decide)) t
  have hf := State.taskFault_faulted (s := s.noteGateTimeout t w.gate)
    ⟨fGateTimeout, 1, BitVec.ofNat 48 w.gate, (s.taskAt t).pc, (s.taskAt t).seq, 0⟩ (by rw [ht, h0]) (by decide : fGateTimeout < 256) (by decide : 1 < 8)
    (congrArg Task.seq ht.symm)
  obtain ⟨n1, n2, n3⟩ := gateTimeoutRegs_notFault t
  obtain ⟨m1, m2, m3⟩ := faultRegs_notGateTimeout t
  obtain ⟨-, -, ho, -⟩ := id hf
  exact ⟨_, he, hf.before hk.frame hr n1 n2 n3, hc.after ho (by decide) m1, hb.outside ho m2, (ho _ _ (by decide) m3).trans hg⟩
end

/-- Settles O14: the instructions by what they leave of the gate and of the gathering buffer, the waits by how they end. -/
theorem gateInstructions : Obligations.GateInstructions := by
  unfold Obligations.GateInstructions
  refine ⟨fun t pred gate sX sD tmo s h => ⟨fun hb => ⟨?_, ?_⟩, does_gread h, does_gwait tmo h⟩, fun t w s hw =>
    ⟨does_gwaitSatisfied hw, does_gateTimeout hw⟩⟩
  · exact does_gateOp h hb (by decide) rfl rfl
  · exact does_gateOp h hb (by decide) rfl rfl

end Sys2Proof.Machine
end

section
/-! PROOF. Gate adds that travel and arrive, and writes of GATE_VAL (R136, R138, R139, R140, R317, R333). -/
namespace Sys2Proof.Machine
open Sys2Proof

/-! ### Gate adds that travel -/

/-- Gate adds that a tile can send to the tiles of some slots, all sent: one packet for each slot, in order. -/
theorem State.sendGateCopies_injected {s : State} {tile g : Nat} {v : W32} {l : List Nat}
    (h : ∀ k ∈ l, ∃ d, s.slotTile tile (s.polderOf tile) k = some d ∧
      s.canSend tile { dst := d, op := opGadd, addr := g, operand := v.toNat } = true) :
    let u := s.sendGateCopies tile g v none l
    s.injected u tile (l.filterMap (fun k => (s.slotTile tile (s.polderOf tile) k).map
      (fun d => { dst := d, op := opGadd, addr := g, operand := v.toNat }))) ∧
      Frame [.net, .regs] s u ∧ RegsOutside [counter (cetisPage tile) 10] s u := by
  intro u
  cases l with
  | nil => exact ⟨⟨[], (List.append_nil _).symm, .nil⟩, (Kept.refl [.net, .regs] s).frame, RegsOutside.refl _ _⟩
  | cons k₀ r =>
    have hx (n : Nat) (hn : n < 5) : s.fencedPort tile n = false := by
      obtain ⟨d, -, hc⟩ := h k₀ List.mem_cons_self
      unfold State.canSend State.canSendAs at hc
      rw [Bool.and_eq_true, List.all_eq_true] at hc
      simpa using hc.2 n (List.mem_range.mpr hn)
    obtain ⟨⟨ts, hn, hf⟩, fu, ru⟩ := State.sendGateCopies_some (k₀ :: r) hx (fun k hk => (h k hk).imp fun d hd => by
      obtain ⟨hd, hc⟩ := hd
      unfold State.canSend State.canSendAs at hc
      exact ⟨hd, (Bool.and_eq_true _ _ ▸ hc).1⟩)
    refine ⟨⟨ts, hn, ?_⟩, fu, ru⟩
    clear hn h hx
    generalize k₀ :: r = l at hf
    induction hf with
    | nil => exact .nil
    | @cons k x l ts hk _ ih =>
      obtain ⟨⟨d, hd, hs⟩, h⟩ := hk
      rw [List.filterMap_cons, hd]
      exact .cons ⟨hs, h⟩ ih

/-- The buffer's flush changes nothing that a tile's sends are decided from. -/
theorem State.gbFlushAll_mesh (s : State) (tile cru : Nat) : MeshSame s (s.gbFlushAll tile cru) := by
  have hf := (State.gbFlushAll_kept s tile cru).frame
  exact MeshSame.of_outside (State.gbFlushAll_gb s tile cru).regs (by simp [gbRegs, counter, Reg.COUNTER])
    (hf .routes (by decide)) (hf .slotMap (by decide)) (hf .wins (by decide))

/-- The gate add that GRADD and GBADD send to a tile. -/
def gateAddTo (gate : BitVec 10) (v : W32) (d : Nat) : Send := { dst := d, op := opGadd, addr := gate.toNat, operand := v.toNat }

/-- What is left of GRADD and GBADD once their copies are sent: the retirement of R136. -/
theorem State.sendGateCopies_retires {s : State} {t : TaskRef} {gate : BitVec 10} {x : W32} {l : List Nat}
    (h : ∀ k ∈ l, ∃ d, (s.gbFlushAll t.tile t.cru).slotTile t.tile (s.polderOf t.tile) k = some d ∧
      (s.gbFlushAll t.tile t.cru).canSend t.tile (gateAddTo gate x d) = true) :
    let f := s.gbFlushAll t.tile t.cru
    let u := (f.sendGateCopies t.tile gate.toNat x none l).retire t 4
    (RetiresTo t [.net, .peat, .peatBad] (gbRegs t.tile ++ [counter (cetisPage t.tile) 10]) (s.nextPc t 4) s u ∧
      SetsNone (s.taskAt t) (u.taskAt t) ∧ (u.cru t.tile t.cru).gb = []) ∧
    f.injected u t.tile (l.filterMap (fun k => (f.slotTile t.tile (s.polderOf t.tile) k).map (gateAddTo gate x))) := by
  intro f u
  have hp : f.polderOf t.tile = s.polderOf t.tile := (State.gbFlushAll_mesh s t.tile t.cru).polderOf _
  have hk : Kept [.regs, .peat, .crus, .peatBad] s f := (State.gbFlushAll_kept ..).mono rfl
  obtain ⟨⟨ts, hn, hs⟩, hf, hr⟩ := State.sendGateCopies_injected (s := f) (tile := t.tile) (g := gate.toNat) (v := x) (l := l) (hp ▸ h)
  obtain ⟨hR, hT, hF, -, hG⟩ := (State.gbFlushAll_gb s t.tile t.cru).retire4 (t := t) (fs := [.net, .peat, .peatBad]) hr
    (hf .crus (by decide)) ((hf .tasks (by decide)).trans (hk.frame .tasks (by decide))) ((hk.frame.mono rfl).trans (hf.mono rfl))
    (fun k _ => by
      have := t.cru.isLt
      simp [counter, cruPage, cetisPage, tilePage]
      omega)
  refine ⟨⟨hR, hT, ?_⟩, ts, ?_, hp ▸ hs⟩
  · rw [hG, State.cru_congr (hf .crus (by decide)), State.gbFlushAll_empty]
  · exact (hF .net (by decide)).trans hn

section
variable {s : State} {t : TaskRef} {pred : BitVec 3} {gate : BitVec 10} {sX sD : BitVec 5} {b : Nat}
  (h : s.reaches t 4 pred [sX, sD] = true) (hb : s.gbReady t.tile t.cru = true)
include h hb

theorem does_gradd {d : Nat} (hd : (s.gbFlushAll t.tile t.cru).slotTile t.tile (s.polderOf t.tile) (((s.taskAt t).rs sD).toNat % 128) = some d)
    (hc : (s.gbFlushAll t.tile t.cru).canSend t.tile (gateAddTo gate ((s.taskAt t).rs sX) d) = true) :
    Does (.gradd t pred gate sX sD) s (fun u =>
      (RetiresTo t [.net, .peat, .peatBad] (gbRegs t.tile ++ [counter (cetisPage t.tile) 10]) (s.nextPc t 4) s u ∧
        SetsNone (s.taskAt t) (u.taskAt t) ∧ (u.cru t.tile t.cru).gb = []) ∧
      (s.gbFlushAll t.tile t.cru).injected u t.tile [gateAddTo gate ((s.taskAt t).rs sX) d]) := by
  refine Does.ofIssue (q := ⟨4, false, pred, [sX, sD]⟩) h rfl rfl ?_
  simp only [hb, Bool.not_true, Bool.false_eq_true, if_false]
  have one := State.sendGateCopies_retires (s := s) (t := t) (gate := gate) (x := (s.taskAt t).rs sX) (l := [((s.taskAt t).rs sD).toNat % 128])
    (fun k hk => ⟨d, by rw [List.mem_singleton.mp hk]; exact hd, hc⟩)
  rw [State.task_eq]
  simpa [State.sendGateCopies, hd] using one

theorem does_gbadd (hd : (s.gbFlushAll t.tile t.cru).bedOf t.tile = some b)
    (hc : ∀ k ∈ (s.gbFlushAll t.tile t.cru).bedSlots b, ∃ d, (s.gbFlushAll t.tile t.cru).slotTile t.tile (s.polderOf t.tile) k = some d ∧
      (s.gbFlushAll t.tile t.cru).canSend t.tile (gateAddTo gate ((s.taskAt t).rs sX) d) = true) :
    Does (.gbadd t pred gate sX sD) s (fun u =>
      (RetiresTo t [.net, .peat, .peatBad] (gbRegs t.tile ++ [counter (cetisPage t.tile) 10]) (s.nextPc t 4) s u ∧
        SetsNone (s.taskAt t) (u.taskAt t) ∧ (u.cru t.tile t.cru).gb = []) ∧
      (s.gbFlushAll t.tile t.cru).injected u t.tile (((s.gbFlushAll t.tile t.cru).bedSlots b).filterMap (fun k =>
        ((s.gbFlushAll t.tile t.cru).slotTile t.tile (s.polderOf t.tile) k).map (gateAddTo gate ((s.taskAt t).rs sX))))) := by
  refine Does.ofIssue (q := ⟨4, false, pred, [sX, sD]⟩) h rfl rfl ?_
  simp only [hb, Bool.not_true, Bool.false_eq_true, if_false]
  unfold State.sendGateAll
  rw [hd]
  exact State.sendGateCopies_retires hc
end

/-! ### Gate adds that arrive, and writes of GATE_VAL -/

theorem does_remoteGadd {p : Packet} {s : State} {i : TileIx} (hw : p.wf = true) (ha : s.arrivable opGadd p = true)
    (hd : p.dst.toNat = i) (hc : s.ejectCause i p = none) : Does (.remoteGadd p) s (fun u =>
      Frame [.arrivals, .gates, .regs] s u ∧ RegsOutside [counter (gatePage i) 3] s u ∧ u.arrivals = s.arrivals.erase p ∧
      Counts s u (gatePage i) 3 1 ∧
      ∀ (j : TileIx) (g : BitVec 10), u.gate j g.toNat =
        if j = i ∧ g.toNat = p.addr.toNat % 1024 then s.gate j g.toNat + BitVec.ofNat 32 p.operand.toNat else s.gate j g.toNat) := by
  have acc : s.accepts i opGadd p = true := by
    unfold State.accepts
    simp [hw, ha, hd, hc]
  have hg : (BitVec.ofNat 10 p.addr.toNat).toNat = p.addr.toNat % 1024 := BitVec.toNat_ofNat ..
  have he : exec (.remoteGadd p) s = .next ((((s.takePkt p).setGate i (BitVec.ofNat 10 p.addr.toNat).toNat
      (s.gate i (BitVec.ofNat 10 p.addr.toNat).toNat + w32 p.operand.toNat))).bump (gatePage i) 3 1) := by
    show execRemoteGadd p s = _
    unfold execRemoteGadd
    rw [hw, State.eject_accepted acc, hg]
    rfl
  refine ⟨_, he, ?_, ?_, rfl, Counts.bump (State.setGate _ ..) .., fun j g => ?_⟩
  · exact ((((State.takePkt_kept s p).mono (m := [.arrivals, .gates, .regs]) rfl).step (State.setGate_kept ..) rfl).step (State.bump_kept ..) rfl).frame
  · exact (RegsOutside.of_regs rfl).trans (RegsOutside.bump _ _ 3 1 (by decide))
  · refine (State.gate_setGate (s.takePkt p) i j _ g _).trans ?_
    simp only [← hg, BitVec.toNat_inj]
    split
    next e =>
      obtain ⟨rfl, rfl⟩ := e
      rfl
    next => rfl

/-- GATE_VAL has one field, of 32 bits that software reads and writes (R140). -/
theorem gateVal_fields (i : TileIx) : (regAt (gatePage i) Reg.GATE_VAL).isSome = true ∧
    (accMask (gatePage i) Reg.GATE_VAL .rw ||| accMask (gatePage i) Reg.GATE_VAL .sl ||| accMask (gatePage i) Reg.GATE_VAL .gw) ≠ 0 ∧
    accMask (gatePage i) Reg.GATE_VAL .gw = 0 ∧ accMask (gatePage i) Reg.GATE_VAL .sl = 0 := by
  have like : regAt (gatePage i) Reg.GATE_VAL = regAt (gatePage 0) Reg.GATE_VAL :=
    regAt_like (pageInfo_tile i 8) (pageInfo_tile 0 8) (by decide) _
  simp only [like, accMask_like like]
  decide

theorem does_gateValWrite {who : Requester} {tile : TileIx} {v : W64} {s : State} (hl : s.pageLive (gatePage tile) = true) :
    Does (.gateValWrite who tile v) s (fun u =>
      Frame [.regs, .gates, .shadows] s u ∧ RegsOutside [(gatePage tile, Reg.GATE_VAL)] s u ∧
      ∀ (j : TileIx) (g : BitVec 10), u.gate j g.toNat =
        if j = tile ∧ g.toNat = s.rf (gatePage tile) Reg.GATE_IDX 9 0 then BitVec.ofNat 32 v.toNat else s.gate j g.toNat) := by
  have hi := tile.isLt
  obtain ⟨hr, hm, hgw, hsl⟩ := gateVal_fields tile
  obtain ⟨g, hk, eg, es, hw⟩ := State.writeCore_admits (who := who) v hl (by decide) (by decide) hr (.inl hgw)
  rw [if_pos hgw] at eg
  rw [if_pos hsl] at es
  have hp (n : Nat) (hn : n < 0x1000 ∨ 0x3000 ≤ n) : gatePage tile ≠ n := by
    unfold gatePage tilePage
    omega
  rw [State.storeReg_setReg _ _ _ _ (hp _ (by decide)) (hp _ (by decide)) (hp _ (by decide))] at hw
  generalize mix _ _ _ &&& _ = x at hw
  have ho : RegsOutside [(gatePage tile, Reg.GATE_VAL)] s ((g.setReg (gatePage tile) Reg.GATE_VAL x).setReg (gatePage tile) Reg.GATE_VAL 0) :=
    ((RegsOutside.of_regs (hk.frame .regs (by decide))).thenSetReg _ _ _ (by decide) (by simp)).thenSetReg _ _ _ (by decide) (by simp)
  have fg : Frame [.shadows] s g := fun f hn => by
    by_cases c : f = .guards
    · exact c ▸ eg
    · by_cases d : f = .sealRun
      · exact d ▸ es
      · exact hk.frame f (by simpa [c, d] using hn)
  have hf : Frame [.regs, .shadows] s ((g.setReg (gatePage tile) Reg.GATE_VAL x).setReg (gatePage tile) Reg.GATE_VAL 0) :=
    (fg.mono rfl).trans (((State.setReg_kept ..).mono rfl).step (State.setReg_kept ..) rfl).frame
  have hs : (BitVec.ofNat 10 (s.rf (gatePage tile) Reg.GATE_IDX 9 0)).toNat = s.rf (gatePage tile) Reg.GATE_IDX 9 0 := by
    rw [BitVec.toNat_ofNat]
    exact Nat.mod_eq_of_lt (Nat.mod_lt _ (by decide))
  have he : exec (.gateValWrite who tile v) s = .next (((g.setReg (gatePage tile) Reg.GATE_VAL x).setReg (gatePage tile) Reg.GATE_VAL 0).setGate tile
      (BitVec.ofNat 10 (s.rf (gatePage tile) Reg.GATE_IDX 9 0)).toNat (BitVec.ofNat 32 v.toNat)) := by
    show Host.Outcome.next (gateValHook (s.writeCore who (gatePage tile) Reg.GATE_VAL .b64 v) tile) = _
    rw [hw]
    unfold gateValHook
    rw [if_neg hm, ho.rf 9 0 (o := Reg.GATE_IDX) (by decide) (by simp [Reg.GATE_IDX, Reg.GATE_VAL]), hs]
  generalize (g.setReg (gatePage tile) Reg.GATE_VAL x).setReg (gatePage tile) Reg.GATE_VAL 0 = u at *
  refine ⟨_, he, (hf.mono rfl).trans ((State.setGate_kept ..).mono rfl).frame, ho.trans (RegsOutside.of_regs rfl), fun j n => ?_⟩
  have e : n = BitVec.ofNat 10 (s.rf (gatePage tile) Reg.GATE_IDX 9 0) ↔ n.toNat = s.rf (gatePage tile) Reg.GATE_IDX 9 0 := by
    rw [← BitVec.toNat_inj, hs]
  rw [State.gate_setGate, State.gate_congr (hf .gates (by decide))]
  simp only [e]

/-- Settles O15: adds that travel by what the mesh gains, adds that arrive and writes by the gate they leave. -/
theorem gateArrivals : Obligations.GateArrivals := by
  unfold Obligations.GateArrivals
  exact ⟨fun t pred gate sX sD s h hb => ⟨fun d => does_gradd h hb, fun b => does_gbadd h hb⟩,
    fun p who tile v s => ⟨fun i => does_remoteGadd, does_gateValWrite⟩⟩

end Sys2Proof.Machine
end

section
/-! PROOF. Moves, fills and gathers inside a tile (R161 to R163). -/
namespace Sys2Proof.Machine
open Sys2Proof

/-- The gates that the end of a runner's move advances: RG where the runner's own tile adds to it, and the done gate (R143, R163). -/
def moveGates (j : RunJob) (rg : Bool) : List (BitVec 10) := (if rg && j.o.rge then [j.o.rg] else []) ++ doneGates j.h

/-- The end of a move, in one place. -/
theorem State.finishMove_ended (s : State) (c : UCtx) (j : RunJob) (rg : Bool) :
    Ended c .runner (moveGates j rg) 0 [] [] s (s.finishMove c j rg) := by
  unfold State.finishMove moveGates
  cases rg && j.o.rge with
  | false => exact State.finishWork_ended ..
  | true => exact (State.finishWork_ended ..).gateAdd j.o.rg

/-- What ends an instruction after its reads were counted, its rows written to the crucible's own pool and its flags set. -/
theorem Ended.afterRows {c : UCtx} {u : UnitKind} {gs : List (BitVec 10)} {fl : Flags} {l : List Piece} {ph : Nat}
    {rows : List (Nat × List Byte)} {s v : State}
    (h : Ended c u gs 0 [] [] (((s.countPieces c l).writeRows c.t spPool ph rows).orFlags c.t fl) v) :
    Ended c u gs fl [.pool, .poolBad] (readRegs c.t.tile) s v ∧
      v.pool = rows.foldl (fun m r => putBytes m (poolKey c.t.tile c.t.cru (ph + r.1)) r.2) s.pool := by
  have hb := taskFlags_lt c.t
  have k1 := State.countPieces_kept s c l
  have r1 := RegsOutside.countPieces s c l
  generalize s.countPieces c l = s1 at *
  obtain ⟨k2, p2⟩ := State.writeRows_pool s1 c.t ph rows
  generalize s1.writeRows c.t spPool ph rows = s2 at *
  have k : Kept [.regs, .pool, .poolBad] s s2 := (k1.mono rfl).step k2 rfl
  have r2 : RegsOutside (readRegs c.t.tile) s s2 := r1.thenSame (k2.frame .regs (by decide))
  have hfl : s2.reg (cruPage c.t.tile c.t.cru) (Reg.TASK_FLAGS c.t.task) = s.reg (cruPage c.t.tile c.t.cru) (Reg.TASK_FLAGS c.t.task) :=
    r2 _ _ hb (by simp [readRegs, (counter_ne_taskFlags _ _ c.t _ _).symm])
  refine ⟨h.before ?_ ?_ (k.frame .crus (by decide)) (k.frame .gates (by decide)) (k.frame .peat (by decide)) (k.frame .tasks (by decide)) ?_, ?_⟩
  · exact (k.step (State.orFlags_kept ..) rfl).frame
  · exact (r2.mono (fun x hx => List.mem_cons_of_mem _ hx)).thenSetReg _ _ _ hb List.mem_cons_self
  · rw [show (s2.orFlags c.t fl).reg (cruPage c.t.tile c.t.cru) (Reg.TASK_FLAGS c.t.task) = _ from State.reg_setReg_same .., hfl]
    exact BitVec.or_zero
  · rw [← show s1.pool = s.pool from k1.frame .pool (by decide), ← p2]
    exact h.1 .pool (by decide)

section
variable {s : State} {c : UCtx} {j : RunJob}

/-- A runner's instruction with rows has something to do. -/
theorem State.nothingToDo_run (h : runJob c.w.instr = some j) : s.nothingToDo c = (c.regs j.o.dD).empty := by
  unfold State.nothingToDo
  generalize c.w.instr = i at h
  cases i <;> cases h <;> rfl

theorem State.runWork_run (u : UnitKind) (h : runJob c.w.instr = some j) : s.runWork c u = s.runMove c j := by
  unfold State.runWork
  simp only [h]

/-- A move between places of its tile writes its rows and ends. -/
theorem State.runMove_local {ph : Nat} (hx : s.poisonedPiece c (s.runPieces c j) = none) (ho : s.badOverlap c = false)
    (hd : s.physOf c.t (c.regs j.o.dD).addr = (spPool, ph)) (hs : j.kind = .fill ∨ farSpace (s.spaceOf c.t (c.regs j.o.dS).addr) = false) :
    s.runMove c j = (((s.countPieces c (s.runPieces c j)).writeRows c.t spPool ph (restRows c spPool ph (s.runRows c j))).orFlags c.t
      (s.runFlags c j)).finishMove c j true := by
  have hf : (decide (j.kind ≠ .fill) && farSpace (s.spaceOf c.t (c.regs j.o.dS).addr)) = false := by
    rcases hs with h | h <;> simp [h]
  have hsp : s.spaceOf c.t (c.regs j.o.dD).addr = spPool := congrArg Prod.fst hd
  unfold State.runMove
  simp only [hx, ho, hf, hsp, hd]
  rfl
end

/-- Settles O20: the rows are written and the move ends, whose gates are RG's and the done gate's. -/
theorem localMoves : Obligations.LocalMoves := by
  unfold Obligations.LocalMoves
  intro tile cru k a c j ph s s0 s1 hw hq hj hi ha hp hc c1 hx ho hd hinstr hs h0 h1 h2
  have hf : Frame [.crus, .slots] s0 s1 := State.claimNeeds_held hc
  have hn : s0.nothingToDo c = false := by
    rw [State.nothingToDo_run hj]
    unfold Desc.empty
    rw [decide_eq_false h0, decide_eq_false h1, decide_eq_false h2]
    rfl
  have own : s0.ownPieces c = s0.runPieces c j := by
    unfold State.ownPieces
    rw [hj]
  have hgo : s0.advanceWork c .runner = s1.runMove c1 j := by
    rw [State.advanceWork_held hn (fun j' h => Option.some.inj (hj.symm.trans h) ▸ hi) ha (own ▸ hp) hc]
    exact State.runWork_run .runner (hinstr ▸ hj)
  obtain ⟨he, hpool⟩ := (State.finishMove_ended _ c1 j true).afterRows (s := s1)
  rw [← State.runMove_local hx ho hd hs, ← hgo] at he hpool
  have ht : c1.t = c.t := State.again_t s1 c .runner
  rw [ht, show s1.pool = s0.pool from hf .pool (by decide)] at hpool
  rw [ht] at he
  exact ⟨_, exec_unitInstrComplete_clean a hw hq, he, hpool⟩

end Sys2Proof.Machine
end

section
/-! PROOF. A move's progress where two instructions of a runner's queue bear one number (R163, R164, R332, R341). -/
namespace Sys2Proof.Machine
open Sys2Proof

/-- A MOVE whose destination is d1 and whose source is d2, without a gate. -/
def farJob : RunJob := ⟨.move, ⟨0, 0, false, 0⟩, ⟨1, 2, 0, 0, 0, false⟩⟩

/-- Task 0 of crucible 0 of tile 0. -/
def moverTask : TaskRef := ⟨0, 0, 0⟩

/-- A move of one row of eight bytes to the start of segment 0, which waits for all of them. -/
def farMove : Work :=
  { iid := 7, task := 0, seq := 0, instr := .move moverTask farJob.h farJob.o, d := [(1, { d0 := 8, d1 := 1, d2 := 1 })], s := [],
    pc := 0, phase := .moving 8, claims := [], since := none, tag := 9 }

/-- Behind it in the queue, another instruction that bears its number and has waited for a slot from time 0. -/
def sameNumber : Work := { farMove with phase := .queued, since := some 0 }

/-- One byte of the move's data. -/
def farByte : Packet := Packet.sealed
  { dst := 0, src := 0, vc := 0, set := 0, ord := false, sys := false, polder := 0, epoch := 0, tclass := 0, op := 3, gwy := 0,
    addr := 7, tag := 9, operand := 0, payload := [1], e2e := 0 }

/-- Tile 0, a member of polder 0, with the pool of crucible 0 ON; the runner holds both instructions, and the byte has arrived. -/
def twoOfANumber : State :=
  let s := ((({} : State).setReg (pwrPage 0) Reg.PWR_DOM 2).setReg (poolPage 0) Reg.POOL_STAT 0).setReg (cetisPage 0) Reg.CETIS_CTL 8
  { s with crus := [(0, { runner := [farMove, sameNumber] })], arrivals := [farByte] }

/-- When each instruction of crucible 0's runner began to wait, after a command. -/
def waitsAfter : Out State → List (Option Nat)
  | .next u => (u.cru 0 0).runner.map (·.since)
  | _ => []

/-- The byte's slots are claimed under the move's number, so that the other instruction forgets that it waits. -/
theorem waitsAfter_farByte : waitsAfter (exec (.rdData farByte) twoOfANumber) = [none, none] := by decide +kernel

/-- The byte meets every hypothesis of the statement. -/
theorem farByte_arrives :
    let c : UCtx := ⟨moverTask, farMove⟩
    twoOfANumber.moveOf 0 farByte.tag.toNat = some c ∧ runJob c.w.instr = some farJob ∧ twoOfANumber.canAdd c = true ∧
      twoOfANumber.accepts 0 opRdData farByte = true ∧ twoOfANumber.physOf c.t (c.regs farJob.o.dD).addr = (spPool, 0) ∧
      twoOfANumber.piecesReady c [twoOfANumber.rdPiece c farJob farByte] = true ∧ twoOfANumber.lateNeeds c = [] := by decide +kernel

/-- Refutes O25: nothing says that the instructions of a runner's queue bear different numbers. Claims are noted under an instruction's
number; a byte of RD_DATA for one of two that share theirs also ends the other's wait, where the statement keeps all but the phase. -/
theorem not_moveProgress : ¬ Obligations.MoveProgress := by
  unfold Obligations.MoveProgress
  intro h
  obtain ⟨hm, hj, ha, hp, hd, hr, hl⟩ := farByte_arrives
  obtain ⟨-, data⟩ := h 0 farByte ⟨moverTask, farMove⟩ farJob 8 0 twoOfANumber hm rfl hj ha
  obtain ⟨u, hu, -, -, -, -, -, hw⟩ := (data hp hd hr hl rfl rfl rfl).1 (by decide)
  have kept : (u.cru 0 0).runner.map (·.since) = [none, some 0] := (congrArg (List.map Work.since) hw).trans rfl
  have lost := waitsAfter_farByte
  rw [hu] at lost
  exact absurd (kept.symm.trans lost) (by decide)

end Sys2Proof.Machine
end

section
/-! SUPPORT. Errors that a check of a pool or a peat notes on its page (R201, R203 to R206). -/
namespace Sys2Proof.Machine
open Sys2Proof

/-- The registers that record an error on a POOL page, and on a PEAT page, which has them at the same offsets (R203, R205). -/
def recordRegs (pg : Nat) : List (Nat × Nat) := [(pg, Reg.POOL_ECC_ADDR), (pg, Reg.POOL_ECC_INFO)]

/-- An error noted on a page: its place in a register where that may be recorded, its counter and its event. -/
def ErrorNoted (pg k b : Nat) (s u : State) : Prop :=
  Frame [.fresh, .regs, .fns, .out] s u ∧ RegsOutside (recordRegs pg ++ [counter pg k] ++ evtRegs pg) s u ∧ Counts s u pg k 1 ∧ Raised u pg b

/-- Pages of a tile are not those of the ports. -/
theorem tilePage_notPort (i : TileIx) {b : Nat} (hb : b < 16) : tilePage i b ≠ 0x3003 ∧ tilePage i b ≠ 0x3403 ∧ tilePage i b ≠ 7 := by
  have := i.isLt
  unfold tilePage
  omega

/-- The counters of a tile's page are not among the registers that its events write. -/
theorem counter_notEvt (i : TileIx) {b : Nat} (hb : b < 16) (n : Nat) : counter (tilePage i b) n ∉ evtRegs (tilePage i b) := by
  obtain ⟨ha, hb, -⟩ := tilePage_notPort i hb
  simp [evtRegs_eq, counter, Reg.COUNTER, ha, hb]
  omega

theorem errorNoted_of_note (s : State) (q : Bool) (tile : TileIx) {b k n : Nat} (x y : W64) (hb : b < 16) (hk : k < 16) (hn : n < 64) :
    let pg := tilePage tile b
    let u := (((if q then (s.setReg pg Reg.POOL_ECC_ADDR x).setReg pg Reg.POOL_ECC_INFO y else s).tickFresh).bump pg k 1).raise pg n
    ErrorNoted pg k n s u ∧ (q = true → u.reg pg Reg.POOL_ECC_ADDR = x) := by
  intro pg u
  obtain ⟨t, ht⟩ : ∃ t, t = if q then (s.setReg pg Reg.POOL_ECC_ADDR x).setReg pg Reg.POOL_ECC_INFO y else s := ⟨_, rfl⟩
  have hu : u = ((t.tickFresh).bump pg k 1).raise pg n := by rw [ht]
  have kt : Kept [.regs] s t := by
    rw [ht]
    split
    · exact ((State.setReg_kept ..).mono rfl).step (State.setReg_kept ..) rfl
    · exact Kept.refl _ _
  have rt : RegsOutside (recordRegs pg) s t := by
    rw [ht]
    exact RegsOutside.thenIf (fun _ => ((RegsOutside.refl _ s).thenSetReg pg _ x (by decide) (by simp [recordRegs])).thenSetReg pg _ y (by decide)
      (by simp [recordRegs])) (fun _ => RegsOutside.refl _ s)
  have rb : RegsOutside [counter pg k] t ((t.tickFresh).bump pg k 1) :=
    ((RegsOutside.refl _ t).thenSame (u := t.tickFresh) rfl).thenBump pg k 1 (by omega) (by simp)
  have rr := RegsOutside.raise ((t.tickFresh).bump pg k 1) pg n
  rw [hu]
  refine ⟨⟨?_, ((rt.comp rb).comp rr), ?_, Raised.raise _ pg n hn⟩, fun hq => ?_⟩
  · exact (((((kt.mono (m := [.fresh, .regs, .fns, .out]) rfl).step (State.tickFresh_kept t) rfl).step (State.bump_kept ..) rfl).step
      (State.raise_kept ..) rfl)).frame
  · refine Counts.before rt (Counts.before (RegsOutside.of_regs (l := []) (t := t.tickFresh) rfl) ((Counts.bump t.tickFresh pg k 1).after rr
      (by omega) (counter_notEvt tile hb k)) (by omega) (by simp)) (by omega) ?_
    simp [recordRegs, counter, Reg.COUNTER, Reg.POOL_ECC_ADDR, Reg.POOL_ECC_INFO]
    omega
  · have ea : t.reg pg Reg.POOL_ECC_ADDR = x := by
      rw [ht, if_pos hq, State.reg_setReg_other _ _ _ _ _ _ (by decide) (by decide) (.inr (by decide)), State.reg_setReg_same]
    refine (rr pg _ (by decide) ?_).trans ((rb pg _ (by decide) ?_).trans ea)
    · simp [evtRegs_eq, Reg.POOL_ECC_ADDR]
    · simp [counter, Reg.COUNTER, Reg.POOL_ECC_ADDR]
      omega

theorem State.poolEcc_corrected (s : State) (tile : TileIx) (cru port off : Nat) (sy : BitVec 8) (poison scrub : Bool) :
    ErrorNoted (poolPage tile) 2 0 s (s.poolEcc tile cru port off (.corrected sy) poison scrub) :=
  (errorNoted_of_note s _ tile _ _ (by decide) (by decide) (by decide)).1
theorem State.peatEcc_corrected (s : State) (tile : TileIx) (port off : Nat) (sy : BitVec 8) (poison scrub : Bool) :
    ErrorNoted (peatPage tile) 4 0 s (s.peatEcc tile port off (.corrected sy) poison scrub) :=
  (errorNoted_of_note s _ tile _ _ (by decide) (by decide) (by decide)).1

/-- An uncorrectable error always takes the record. -/
theorem State.poolEcc_uncorrectable (s : State) (tile : TileIx) (cru port off : Nat) (poison scrub : Bool) :
    let u := s.poolEcc tile cru port off .uncorrectable poison scrub
    ErrorNoted (poolPage tile) 3 1 s u ∧ u.reg (poolPage tile) Reg.POOL_ECC_ADDR = Machine.word [(3, off / 8), (25, cru), (27, port)] := by
  obtain ⟨h, h'⟩ := errorNoted_of_note (b := 5) (k := 3) (n := 1) s (s.eccMayRecord (poolPage tile) Reg.POOL_ECC_INFO true) tile
    (Machine.word [(3, off / 8), (25, cru), (27, port)]) (s.eccInfo (eccNote s.fresh .uncorrectable poison scrub)) (by decide) (by decide) (by decide)
  exact ⟨h, h' rfl⟩
theorem State.peatEcc_uncorrectable (s : State) (tile : TileIx) (port off : Nat) (poison scrub : Bool) :
    let u := s.peatEcc tile port off .uncorrectable poison scrub
    ErrorNoted (peatPage tile) 5 1 s u ∧ u.reg (peatPage tile) Reg.PEAT_ECC_ADDR = Machine.word [(3, off / 8), (33, port)] := by
  obtain ⟨h, h'⟩ := errorNoted_of_note (b := 6) (k := 5) (n := 1) s (s.eccMayRecord (peatPage tile) Reg.PEAT_ECC_INFO true) tile
    (Machine.word [(3, off / 8), (33, port)]) (s.eccInfo (eccNote s.fresh .uncorrectable poison scrub)) (by decide) (by decide) (by decide)
  exact ⟨h, h' rfl⟩

end Sys2Proof.Machine
end

section
/-! SUPPORT. What a scrubber does after its check: the poison of a line that it lost, and the course of its pass (R201, R202, R205, R206). -/
namespace Sys2Proof.Machine
open Sys2Proof

/-- An item of a pass read, and the pass counted at its end. -/
def State.passOn (s : State) (pg slot key item last : Nat) : State :=
  if (s.scrubStep key item last).1 then (s.scrubStep key item last).2.bump pg slot 1 else (s.scrubStep key item last).2

theorem State.passOn_spec (s : State) (pg : Nat) {slot : Nat} (key item last : Nat) (hs : slot < 16) :
    let u := s.passOn pg slot key item last
    Frame [.regs, .scrubs] s u ∧ RegsOutside [counter pg slot] s u ∧
    Counts s u pg slot (if Store.get 0 s.scrubs key = item ∧ item = last then 1 else 0) ∧
    u.scrubs = if Store.get 0 s.scrubs key = item then Store.set 0 s.scrubs key (if item = last then 0 else item + 1) else s.scrubs := by
  intro u
  have hu : u = s.passOn pg slot key item last := rfl
  have still {t : State} (ht : t.regs = s.regs) : Counts s t pg slot 0 := by
    unfold Counts
    rw [State.reg_congr ht]
    exact (BitVec.add_zero _).symm
  unfold State.passOn State.scrubStep at hu
  by_cases c : Store.get 0 s.scrubs key = item
  · rw [if_neg (not_not.mpr c)] at hu
    dsimp only at hu
    have k1 : Kept [.regs, .scrubs] s { s with scrubs := Store.set 0 s.scrubs key (if item = last then 0 else item + 1) } := ⟨rfl, id⟩
    generalize hx : { s with scrubs := Store.set 0 s.scrubs key (if item = last then 0 else item + 1) } = x at *
    have xr : x.regs = s.regs := by rw [← hx]
    have xs : x.scrubs = Store.set 0 s.scrubs key (if item = last then 0 else item + 1) := by rw [← hx]
    by_cases d : item = last
    · rw [if_pos (decide_eq_true d)] at hu
      rw [hu]
      refine ⟨(k1.step (State.bump_kept ..) rfl).frame, (RegsOutside.of_regs xr).thenBump pg slot 1 (by omega) (by simp), ?_, ?_⟩
      · rw [if_pos ⟨c, d⟩]
        exact (Counts.bump x pg slot 1).before (RegsOutside.of_regs (l := []) xr) (by omega) (by simp)
      · rw [if_pos c]
        exact xs
    · rw [if_neg (by simpa using d)] at hu
      rw [hu]
      refine ⟨k1.frame, RegsOutside.of_regs xr, ?_, ?_⟩
      · rw [if_neg (fun e => d e.2)]
        exact still xr
      · rw [if_pos c]
        exact xs
  · rw [if_pos c] at hu
    dsimp only at hu
    rw [if_neg (by decide)] at hu
    rw [hu]
    refine ⟨(Kept.refl _ s).frame, RegsOutside.refl _ s, ?_, ?_⟩
    · rw [if_neg (fun e => c e.1)]
      exact still rfl
    · rw [if_neg c]

theorem State.report_reports (s : State) (i c u d : Nat) : (s.report i c u d).reports = s.reports ++ [⟨i, c, u, d, s.up⟩] := by
  unfold State.report
  dsimp only
  have k : Kept [.regs, .fns, .out] s ((((s.setFields (faultPage i) Reg.FAULT_REC [(7, 0, c), (10, 8, u), (63, 32, s.ts)]).setRf
      (faultPage i) Reg.FAULT_INFO 31 0 d).raise (faultPage i) 0).bump (faultPage i) 0 1) :=
    (((((State.setFields_kept ..).mono rfl).step (State.setRf_kept ..) rfl).step (State.raise_kept ..) rfl).step (State.bump_kept ..) rfl)
  rw [show _ = s.reports from k.frame .reports (by decide), show _ = s.up from k.frame .up (by decide)]

/-- Raising one event of a page leaves the others raised. -/
theorem Raised.thenRaise {s : State} {pg n : Nat} (h : Raised s pg n) (m : Nat) (hm : m < 64) : Raised (s.raise pg m) pg n := by
  unfold Raised State.rb at h ⊢
  rw [State.raise_evt]
  by_cases c : n = m
  · rw [c]
    exact fbit_setBit_same _ _ _ hm
  · rw [fbit_setBit_other _ _ _ _ hm c]
    exact h

/-- A line that a scrubber lost: raised and reported, and counted where it was not poisoned before. -/
def State.lostLine (s : State) (tile pg slot unit detail : Nat) (bad : Bool) : State :=
  let t := (s.raise pg 4).report tile 2 unit detail
  if bad then t else t.bump pg slot 1

theorem State.lostLine_spec (s : State) (tile : TileIx) {b slot unit : Nat} (detail : Nat) (bad : Bool) (hb : b < 14) (hs : slot < 16)
    (hu : unit < 8) :
    let pg := tilePage tile b
    let u := s.lostLine tile pg slot unit detail bad
    Frame [.regs, .fns, .out, .reports] s u ∧ RegsOutside ([counter pg slot] ++ evtRegs pg ++ reportRegs tile) s u ∧
    Raised u pg 4 ∧ (∀ n, Raised s pg n → Raised u pg n) ∧ u.reports = s.reports ++ [⟨tile, 2, unit, detail, s.up⟩] := by
  intro pg u
  have hpf : pg ≠ faultPage tile := by simp [pg, faultPage, tilePage]; omega
  obtain ⟨t, ht⟩ : ∃ t, t = (s.raise pg 4).report tile 2 unit detail := ⟨_, rfl⟩
  have hu' : u = if bad then t else t.bump pg slot 1 := by rw [ht]; rfl
  have kt : Kept [.regs, .fns, .out, .reports] s t := ht ▸ ((State.raise_kept ..).mono rfl).step (State.report_kept ..) rfl
  have rt : RegsOutside ([counter pg slot] ++ evtRegs pg ++ reportRegs tile) s t :=
    ht ▸ ((RegsOutside.refl _ s).thenRaise pg 4 (by simp +contextual)).thenReport tile 2 unit detail (by decide) hu (by simp +contextual)
  have rb : RegsOutside [counter pg slot] t u := hu' ▸ RegsOutside.thenIf (fun _ => RegsOutside.refl _ t)
    (fun _ => (RegsOutside.refl _ t).thenBump pg slot 1 (by omega) (by simp))
  have kb : Kept [.regs] t u := by
    rw [hu']
    split
    · exact Kept.refl _ t
    · exact State.bump_kept ..
  have stays (n : Nat) (hr : Raised (s.raise pg 4) pg n) : Raised u pg n := by
    have ht' : Raised t pg n := ht ▸ hr.outside (State.report_frame (s.raise pg 4) tile 2 unit detail (by decide) hu).1
      (by simp [reportRegs, evtRegs_eq, counter, Reg.EVT_RAW, Reg.COUNTER, hpf])
    exact ht'.outside rb (by simp [counter, Reg.EVT_RAW, Reg.COUNTER]; omega)
  refine ⟨(kt.step kb rfl).frame, rt.trans (rb.mono (by simp)), stays 4 (Raised.raise s pg 4 (by decide)),
    fun n hn => stays n (hn.thenRaise 4 (by decide)), ?_⟩
  · rw [show u.reports = t.reports from kb.frame .reports (by decide), ht, State.report_reports,
      show (s.raise pg 4).reports = s.reports from (State.raise_kept ..).frame .reports (by decide),
      show (s.raise pg 4).up = s.up from (State.raise_kept ..).frame .up (by decide)]

/-- A check by a scrubber: `reads` are the counters of the access, `ce` the counter of corrected errors, which that of uncorrectable ones
follows, and `addr` the place of an uncorrectable one. -/
def ScrubChecked (pg ce : Nat) (reads : List Nat) (addr : W64) (found : EccResult) (s t : State) : Prop :=
  Frame [.fresh, .regs, .fns, .out] s t ∧
  RegsOutside (reads.map (counter pg) ++ recordRegs pg ++ [counter pg ce, counter pg (ce + 1)] ++ evtRegs pg) s t ∧
  (∀ k ∈ reads, Counts s t pg k 1) ∧ (found = .clean → RegsOutside (reads.map (counter pg)) s t) ∧
  (∀ sy, found = .corrected sy → Counts s t pg ce 1 ∧ Raised t pg 0) ∧
  (found = .uncorrectable → Counts s t pg (ce + 1) 1 ∧ Raised t pg 1 ∧ t.reg pg Reg.POOL_ECC_ADDR = addr)

theorem counter_inj {pg m n : Nat} : counter pg m = counter pg n ↔ m = n := by
  simp [counter, Reg.COUNTER]

theorem recordReg_notCounter {pg n : Nat} (hn : n < 16) : counter pg n ∉ recordRegs pg := by
  simp [recordRegs, counter, Reg.COUNTER, Reg.POOL_ECC_ADDR, Reg.POOL_ECC_INFO]
  omega

theorem evtRaw_notCounter (pg n : Nat) : (pg, Reg.EVT_RAW) ∉ [counter pg n] := by
  simp [counter, Reg.COUNTER, Reg.EVT_RAW]
  omega

/-- A report writes no register of a page of its tile below the FAULT page, but by its interrupts. -/
theorem tilePage_notReported (tile : TileIx) {b : Nat} (hb : b < 14) (o : Nat) : (tilePage tile b, o) ∉ reportRegs tile := by
  have hpf : tilePage tile b ≠ faultPage tile := by
    rw [faultPage, tilePage, tilePage]
    omega
  obtain ⟨h1, h2, -⟩ := tilePage_notPort tile (show b < 16 by omega)
  simp [reportRegs, evtRegs_eq, counter, h1, h2, hpf]

section Checked
variable {tile : TileIx} {b ce k : Nat} {reads : List Nat} {addr : W64} {found : EccResult} {s t : State}

/-- A check that has noted what it found, and counted no access yet. -/
theorem ScrubChecked.of_note (hclean : found = .clean → t = s) (hcorr : ∀ sy, found = .corrected sy → ErrorNoted (tilePage tile b) ce 0 s t)
    (hunc : found = .uncorrectable → ErrorNoted (tilePage tile b) (ce + 1) 1 s t ∧ t.reg (tilePage tile b) Reg.POOL_ECC_ADDR = addr) :
    ScrubChecked (tilePage tile b) ce [] addr found s t := by
  cases found with
  | clean =>
    rw [hclean rfl]
    exact ⟨(Kept.refl _ s).frame, RegsOutside.refl _ s, by simp, fun _ => RegsOutside.refl _ s, by simp, by simp⟩
  | corrected sy =>
    obtain ⟨hf, hr, hc, he⟩ := hcorr sy rfl
    exact ⟨hf, hr.mono (by simp +contextual [or_imp]), by simp, by simp, fun _ _ => ⟨hc, he⟩, by simp⟩
  | uncorrectable =>
    obtain ⟨⟨hf, hr, hc, he⟩, ha⟩ := hunc rfl
    exact ⟨hf, hr.mono (by simp +contextual [or_imp]), by simp, by simp, by simp, fun _ => ⟨hc, he, ha⟩⟩

variable (h : ScrubChecked (tilePage tile b) ce reads addr found s t) (hb : b < 16) (hk : k < ce) (hce : ce < 15)
include h hb hk hce

/-- An access counted after the check. -/
theorem ScrubChecked.thenRead (hr : ∀ n ∈ reads, n < k) :
    ScrubChecked (tilePage tile b) ce (k :: reads) addr found s (t.bump (tilePage tile b) k 1) := by
  obtain ⟨f, r, c, hcl, hco, hun⟩ := h
  have rk := RegsOutside.bump t (tilePage tile b) k 1 (by omega)
  have other {n : Nat} (hn : n ≠ k) : counter (tilePage tile b) n ∉ [counter (tilePage tile b) k] := by simpa [counter_inj] using hn
  refine ⟨f.trans ((State.bump_kept ..).mono rfl).frame, (r.mono (by simp +contextual)).thenBump _ k 1 (by omega) (by simp), fun n hn => ?_,
    fun e => (hcl e |>.mono (by simp +contextual)).thenBump _ k 1 (by omega) (by simp), fun sy e => ?_, fun e => ?_⟩
  · rcases List.mem_cons.mp hn with rfl | hm
    · refine (Counts.bump t _ n 1).before r (by omega) ?_
      have hn' : n ∉ reads := fun c => absurd (hr n c) (lt_irrefl n)
      simp [counter_notEvt tile hb n, recordReg_notCounter (show n < 16 by omega), counter_inj, hn']
      omega
    · exact (c n hm).after rk (by have := hr n hm; omega) (other (by have := hr n hm; omega))
  · exact ⟨(hco sy e).1.after rk (by omega) (other (by omega)), (hco sy e).2.outside rk (evtRaw_notCounter _ _)⟩
  · obtain ⟨hc, he, ha⟩ := hun e
    refine ⟨hc.after rk (by omega) (other (by omega)), he.outside rk (evtRaw_notCounter _ _), ?_⟩
    rw [rk _ _ (by decide) (by simp [counter, Reg.COUNTER, Reg.POOL_ECC_ADDR]; omega), ha]

omit h in
/-- An access counted before the check. -/
theorem ScrubChecked.afterRead {s0 : State} (h : ScrubChecked (tilePage tile b) ce [] addr found s t) (f0 : Frame [.regs] s0 s)
    (r0 : RegsOutside [counter (tilePage tile b) k] s0 s) (c0 : Counts s0 s (tilePage tile b) k 1) :
    ScrubChecked (tilePage tile b) ce [k] addr found s0 t := by
  obtain ⟨f, r, -, hcl, hco, hun⟩ := h
  have other {n : Nat} (hn : n ≠ k) : counter (tilePage tile b) n ∉ [counter (tilePage tile b) k] := by simpa [counter_inj] using hn
  refine ⟨(f0.mono rfl).trans f, (r0.comp r).mono (by simp), ?_, fun e => (r0.comp (hcl e)).mono (by simp), fun sy e => ?_, fun e => ?_⟩
  · simp only [List.mem_singleton, forall_eq]
    refine c0.after r (by omega) ?_
    simp [counter_notEvt tile hb k, recordReg_notCounter (show k < 16 by omega), counter_inj]
    omega
  · exact ⟨(hco sy e).1.before r0 (by omega) (other (by omega)), (hco sy e).2⟩
  · obtain ⟨hc, he, ha⟩ := hun e
    exact ⟨hc.before r0 (by omega) (other (by omega)), he, ha⟩
end Checked

theorem State.countPool_word (s : State) (tile w : Nat) : s.countPool tile [(8 * w, 8)] = (s.bump (poolPage tile) 0 1).bump (poolPage tile) 1 0 := by
  have hl : linesOf 64 (8 * w) 8 = [8 * w / 64] := by
    have e : (8 * w + 8 - 1) / 64 - 8 * w / 64 + 1 = 1 := by omega
    rw [linesOf, if_neg (by decide), e]
    rfl
  unfold State.countPool wordsOf
  rw [hl]
  rfl

/-- Counting nothing changes no register. -/
theorem RegsOutside.bump_zero (s : State) (pg k : Nat) (h : k < 496) : RegsOutside [] s (s.bump pg k 0) := by
  intro p o ho _
  by_cases c : p = pg ∧ o = Reg.COUNTER k
  · obtain ⟨rfl, rfl⟩ := c
    exact (State.reg_bump_same s p k 0).trans (BitVec.add_zero _)
  · exact State.reg_setReg_other s pg _ p o _ (by unfold Reg.COUNTER; omega) ho (by tauto)

theorem poolScrub_checked (s : State) (tile : TileIx) (cru w : Nat) (found : EccResult) (bad : Bool) :
    ScrubChecked (poolPage tile) 2 [0] (Machine.word [(3, w), (25, cru), (27, 6)]) found s
      ((s.countPool tile [(8 * w, 8)]).poolEcc tile cru 6 (8 * w) found bad true) := by
  have hw : w = 8 * w / 8 := by omega
  refine ScrubChecked.afterRead (b := 5) (s := s.countPool tile [(8 * w, 8)]) (by decide) (by decide) (by decide)
    (ScrubChecked.of_note ?_ ?_ ?_) (State.countPool_kept ..).frame ?_ ?_
  · rintro rfl
    rfl
  · rintro sy rfl
    exact State.poolEcc_corrected ..
  · rintro rfl
    have := State.poolEcc_uncorrectable (s.countPool tile [(8 * w, 8)]) tile cru 6 (8 * w) bad true
    rwa [← hw] at this
  · rw [State.countPool_word]
    exact ((RegsOutside.refl _ s).thenBump _ 0 1 (by decide) (by simp [poolPage])).trans ((RegsOutside.bump_zero _ _ _ (by decide)).mono (by simp))
  · rw [State.countPool_word]
    exact (Counts.bump ..).after (RegsOutside.bump_zero _ _ _ (by decide)) (by decide) (by simp)

theorem peatScrub_checked (s : State) (tile : TileIx) (w : Nat) (found : EccResult) (bad : Bool) :
    ScrubChecked (peatPage tile) 4 [1, 0] (Machine.word [(3, w), (33, 6)]) found s
      (((s.peatEcc tile 6 (8 * w) found bad true).bump (peatPage tile) 0 1).bump (peatPage tile) 1 1) := by
  have hw : w = 8 * w / 8 := by omega
  refine ScrubChecked.thenRead (b := 6) (ScrubChecked.thenRead (ScrubChecked.of_note ?_ ?_ ?_) ?_ ?_ ?_ ?_) ?_ ?_ ?_ ?_
  · rintro rfl
    rfl
  · rintro sy rfl
    exact State.peatEcc_corrected ..
  · rintro rfl
    have := State.peatEcc_uncorrectable s tile 6 (8 * w) bad true
    rwa [← hw] at this
  all_goals simp

/-- The end of a scrubber's step after its check: the line is lost where its word could not be corrected (`v` is the state with the line's
poison set), and its pass goes on. The counters of passes and of lost lines follow those of errors (R204, R206). -/
def State.scrubEnd (t v : State) (tile pg ce unit detail : Nat) (bad : Bool) (found : EccResult) (key item last : Nat) : State :=
  (if found = .uncorrectable then v.lostLine tile pg (ce + 5) unit detail bad else t).passOn pg (ce + 4) key item last

theorem RegsOutside.mono_head {a b e r : List (Nat × Nat)} {s t : State} (h : RegsOutside (a ++ e ++ r) s t) (hab : ∀ x ∈ a, x ∈ b) :
    RegsOutside (b ++ e ++ r) s t := by
  refine h.mono fun x hx => ?_
  rw [List.mem_append, List.mem_append] at hx ⊢
  exact hx.imp_left (Or.imp_left (hab x))

theorem Frame.widen {l m : List Field} {s t : State} (h : Frame l s t) (hm : ∀ f ∈ l, f ∈ m) : Frame m s t := fun f hn => h f fun c => hn (hm f c)

section End
variable {tile : TileIx} {b ce pg unit detail key item last : Nat} {bad : Bool} {reads : List Nat} {addr : W64} {found : EccResult}
  {marks : List Field} {s t u v m : State}

/-- The line is lost or not; `v` is the state after the check with the line's poison set. -/
theorem lostOrNot (hp : pg = tilePage tile b) (fv : Frame [.poolBad, .peatBad] t v)
    (hm : m = if found = .uncorrectable then v.lostLine tile pg (ce + 5) unit detail bad else t) (hb : b < 14) (hce : ce < 8) (hu : unit < 8) :
    (found ≠ .uncorrectable → m = t) ∧ RegsOutside ([counter pg (ce + 5)] ++ evtRegs pg ++ reportRegs tile) t m ∧ m.scrubs = t.scrubs ∧
    (found = .uncorrectable → Frame [.regs, .fns, .out, .reports] v m ∧ Raised m pg 4 ∧ (∀ n, Raised t pg n → Raised m pg n) ∧
      m.reports = t.reports ++ [⟨tile, 2, unit, detail, t.up⟩]) := by
  have rv : RegsOutside [] t v := RegsOutside.of_regs (fv .regs (by decide))
  obtain ⟨lf, lr, l4, ln, lp⟩ := State.lostLine_spec v tile detail bad hb (show ce + 5 < 16 by omega) hu
  rw [← hp] at lf lr l4 ln lp
  by_cases e : found = .uncorrectable
  · rw [if_pos e] at hm
    rw [← hm] at lf lr l4 ln lp
    rw [fv .reports (by decide), fv .up (by decide)] at lp
    exact ⟨fun c => absurd e c, (rv.mono (by simp)).trans lr, (lf .scrubs (by decide)).trans (fv .scrubs (by decide)),
      fun _ => ⟨lf, l4, fun n hn => ln n (hn.outside rv (by simp)), lp⟩⟩
  · rw [if_neg e] at hm
    rw [hm]
    exact ⟨fun _ => rfl, RegsOutside.refl _ t, rfl, fun c => absurd c e⟩

/-- What a scrubbed word may change: `marks` is the memory's poison, which a lost line alone changes. -/
theorem ScrubChecked.ends_frame (h : ScrubChecked pg ce reads addr found s t) (hp : pg = tilePage tile b) (hv : Kept marks t v)
    (hw : Field.within marks [.poolBad, .peatBad] = true) (eu : u = State.scrubEnd t v tile pg ce unit detail bad found key item last) (hb : b < 14)
    (hce : ce < 8) (hu : unit < 8) :
    Frame ([.regs, .fresh, .out, .fns] ++ marks ++ [.reports, .scrubs]) s u ∧
    (found ≠ .uncorrectable → Frame [.regs, .fresh, .out, .fns, .reports, .scrubs] s u) ∧
    (found = .uncorrectable → Frame [.regs, .fns, .out, .reports, .scrubs] v u) := by
  obtain ⟨m, hm⟩ : ∃ m, m = if found = .uncorrectable then v.lostLine tile pg (ce + 5) unit detail bad else t := ⟨_, rfl⟩
  have pf := (State.passOn_spec m pg key item last (show ce + 4 < 16 by omega)).1
  replace eu : u = m.passOn pg (ce + 4) key item last := by rw [eu, hm]; rfl
  rw [← eu] at pf
  obtain ⟨calm, -, -, worst⟩ := lostOrNot hp (hv.mono hw).frame hm hb hce hu
  have fn (e : found ≠ .uncorrectable) : Frame [.regs, .fresh, .out, .fns, .reports, .scrubs] s u := (h.1.mono rfl).trans ((calm e ▸ pf).mono rfl)
  have fu (e : found = .uncorrectable) : Frame [.regs, .fns, .out, .reports, .scrubs] v u := ((worst e).1.mono rfl).trans (pf.mono rfl)
  refine ⟨?_, fn, fu⟩
  by_cases e : found = .uncorrectable
  · exact (h.1.widen (by simp)).trans ((hv.frame.widen (by simp +contextual)).trans ((fu e).widen (by simp)))
  · exact (fn e).widen (by simp)

/-- A scrubbed word: the course of the pass, and what was found. -/
theorem ScrubChecked.ends (h : ScrubChecked pg ce reads addr found s t) (hp : pg = tilePage tile b) (hv : Kept marks t v)
    (hw : Field.within marks [.poolBad, .peatBad] = true) (eu : u = State.scrubEnd t v tile pg ce unit detail bad found key item last) (hb : b < 14)
    (hce : ce < 8) (hr : ∀ k ∈ reads, k < ce) (hu : unit < 8) :
    u.scrubs = (if Store.get 0 s.scrubs key = item then Store.set 0 s.scrubs key (if item = last then 0 else item + 1) else s.scrubs) ∧
    Counts s u pg (ce + 4) (if Store.get 0 s.scrubs key = item ∧ item = last then 1 else 0) ∧ (∀ k ∈ reads, Counts s u pg k 1) ∧
    RegsOutside (reads.map (counter pg) ++ recordRegs pg ++ [counter pg ce, counter pg (ce + 1), counter pg (ce + 4), counter pg (ce + 5)] ++
      evtRegs pg ++ reportRegs tile) s u ∧
    (found = .clean → RegsOutside (reads.map (counter pg) ++ [counter pg (ce + 4)]) s u) ∧
    (∀ sy, found = .corrected sy → Counts s u pg ce 1 ∧ Raised u pg 0 ∧ u.reports = s.reports) ∧
    (found = .uncorrectable → Counts s u pg (ce + 1) 1 ∧ Raised u pg 1 ∧ Raised u pg 4 ∧ u.reg pg Reg.POOL_ECC_ADDR = addr ∧
      u.reports = s.reports ++ [⟨tile, 2, unit, detail, s.up⟩]) := by
  obtain ⟨f, r, c, hcl, hco, hun⟩ := h
  obtain ⟨m, hm⟩ : ∃ m, m = if found = .uncorrectable then v.lostLine tile pg (ce + 5) unit detail bad else t := ⟨_, rfl⟩
  obtain ⟨pf, pr, pc, ps⟩ := State.passOn_spec m pg key item last (show ce + 4 < 16 by omega)
  replace eu : u = m.passOn pg (ce + 4) key item last := by rw [eu, hm]; rfl
  rw [← eu] at pf pr pc ps
  obtain ⟨calm, rm, ms, worst⟩ := lostOrNot hp (hv.mono hw).frame hm hb hce hu
  rw [ms, f .scrubs (by decide)] at pc ps
  have own (o : Nat) : (pg, o) ∉ reportRegs tile := hp ▸ tilePage_notReported tile hb o
  have lost (k : Nat) : counter pg k ∉ reportRegs tile := own _
  have evt (k : Nat) : counter pg k ∉ evtRegs pg := hp ▸ counter_notEvt tile (show b < 16 by omega) k
  have ru := rm.comp pr
  have keeps {k : Nat} (hk : k < ce + 2) : counter pg k ∉ [counter pg (ce + 5)] ++ evtRegs pg ++ reportRegs tile ++ [counter pg (ce + 4)] := by
    simp [counter_inj, evt, lost]
    omega
  refine ⟨ps, pc.before (r.comp rm) (by omega) ?_, fun k hk => (c k hk).after ru (by have := hr k hk; omega) (keeps (by have := hr k hk; omega)),
    (r.mono ?_).trans ((rm.mono ?_).trans (pr.mono ?_)), fun e => ?_, fun sy e => ?_, fun e => ?_⟩
  · have hn : ce + 4 ∉ reads := fun c => by have := hr _ c; omega
    simp [counter_inj, evt, lost, recordReg_notCounter (show ce + 4 < 16 by omega), hn]
  · simp +contextual [or_imp]
  · simp +contextual
  · simp
  · exact (hcl e).comp (calm (by simp [e]) ▸ pr)
  · obtain ⟨hc, he⟩ := hco sy e
    rw [calm (by simp [e])] at pr pf
    exact ⟨hc.after ru (by omega) (keeps (by omega)), he.outside pr (evtRaw_notCounter _ _),
      (pf .reports (by decide)).trans (f .reports (by decide))⟩
  · obtain ⟨hc, he, ha⟩ := hun e
    obtain ⟨-, h4, hn, hp⟩ := worst e
    refine ⟨hc.after ru (by omega) (keeps (by omega)), (hn 1 he).outside pr (evtRaw_notCounter _ _), h4.outside pr (evtRaw_notCounter _ _), ?_, ?_⟩
    · refine (ru pg _ (by decide) ?_).trans ha
      simp [own, evtRegs_eq, counter, Reg.COUNTER, Reg.POOL_ECC_ADDR]
      omega
    · rw [show u.reports = m.reports from pf .reports (by decide), hp, f .up (by decide), f .reports (by decide)]
end End

end Sys2Proof.Machine
end

section
/-! PROOF. Zeroing, layer wake, the gathering buffer's age and the scrubbers (R173, R174, R177, R181, R185, R186, R201 to R206, R461). -/
namespace Sys2Proof.Machine
open Sys2Proof

/-! ### Domains of a tile -/

theorem State.domCode_tile (s : State) (tile : TileIx) (n : Nat) : s.domCode tile n = s.dom tile n := if_pos tile.isLt

/-- A tile's domain set: that one, and the others as before. -/
theorem State.dom_setDom (s : State) (tile : TileIx) {n v : Nat} (m : Nat) (hn : n < 8) (hv : v < 4) :
    (s.setDom tile n v).dom tile m = if m = n then v else s.dom tile m := by
  have e : s.setDom tile n v = s.setRf (pwrPage tile) Reg.PWR_DOM (2 * n + 1) (2 * n) v := if_pos tile.isLt
  unfold State.dom State.rf
  rw [e, State.setRf, State.reg_setReg_same]
  split
  · rename_i c
    rw [c, fld_setFld_same _ _ _ _ (by omega), show 2 * n + 1 + 1 - 2 * n = 2 by omega]
    exact Nat.mod_eq_of_lt hv
  · exact fld_setFld_other _ _ _ _ _ _ (by omega) (by omega)

theorem RegsOutside.setDom (s : State) (tile : TileIx) (n v : Nat) : RegsOutside [(pwrPage tile, Reg.PWR_DOM)] s (s.setDom tile n v) := by
  rw [show s.setDom tile n v = s.setRf (pwrPage tile) Reg.PWR_DOM (2 * n + 1) (2 * n) v from if_pos tile.isLt]
  exact RegsOutside.setRf _ _ _ _ _ _ (by decide)

/-- The end of zeroing: the ramp is gone and the domain ON. -/
theorem State.zeroed_layer {s : State} {u n : Nat} {r : Ramp} (h : s.rampOf u n = some r) (hz : r.phase = .zeroing) (hn : 4 ≤ n) :
    s.zeroed u n = (s.dropRamp u n).setDom u n 2 := by
  unfold State.zeroed
  rw [h]
  dsimp only
  rw [if_pos hz, if_neg (Nat.not_lt.mpr hn)]

theorem State.zeroed_crucible {s : State} {u n : Nat} {r : Ramp} (h : s.rampOf u n = some r) (hz : r.phase = .zeroing) (hn : n < 4) :
    s.zeroed u n = ((s.dropRamp u n).setDom u n 2).setRb (poolPage u) Reg.POOL_STAT n false := by
  unfold State.zeroed
  rw [h]
  dsimp only
  rw [if_pos hz, if_pos hn]

section Zeroing
variable {tile : TileIx} {s : State} {r : Ramp}

theorem does_poolZeroingDone {cru : CruIx} (h : s.rampOf tile cru = some r) (hz : r.phase = .zeroing) :
    Does (.poolZeroingDone tile cru) s (fun u =>
      RegsOutside [(pwrPage tile, Reg.PWR_DOM), (poolPage tile, Reg.POOL_STAT)] s u ∧
      u.ramps = s.ramps.filter (fun q => !(q.unit = tile.val && q.dom = cru.val)) ∧
      (∀ n : Fin 8, u.dom tile n = if n.val = cru.val then 2 else s.dom tile n) ∧
      (∀ k : CruIx, u.rb (poolPage tile) Reg.POOL_STAT k = (!decide (k = cru) && s.rb (poolPage tile) Reg.POOL_STAT k)) ∧
      u.poolOn tile cru = true) := by
  have hk := cru.isLt
  obtain ⟨t, ht⟩ : ∃ t, t = (s.dropRamp tile cru).setDom tile cru 2 := ⟨_, rfl⟩
  obtain ⟨u, hu⟩ : ∃ u, u = t.setRb (poolPage tile) Reg.POOL_STAT cru false := ⟨_, rfl⟩
  have rt : RegsOutside [(pwrPage tile, Reg.PWR_DOM)] s t :=
    ht ▸ (RegsOutside.of_regs (t := s.dropRamp tile cru) rfl).trans (RegsOutside.setDom _ _ _ _)
  have ru : RegsOutside [(poolPage tile, Reg.POOL_STAT)] t u := hu ▸ RegsOutside.setRb _ _ _ _ _ (by decide)
  have kd : u.ramps = (s.dropRamp tile cru).ramps := by
    rw [hu, ht]
    exact ((State.setDom_kept ..).step (State.setRb_kept ..) rfl).frame .ramps (by decide)
  have dom (n : Nat) : u.dom tile n = if n = cru.val then 2 else s.dom tile n := by
    refine (ru.rf _ _ (by decide) ?_).trans ?_
    · simp [pwrPage, poolPage, tilePage]
    · rw [ht]
      exact State.dom_setDom (s.dropRamp tile cru) tile n (by omega) (by decide)
  have stat (k : CruIx) : u.rb (poolPage tile) Reg.POOL_STAT k = (!decide (k = cru) && s.rb (poolPage tile) Reg.POOL_STAT k) := by
    have e : u.reg (poolPage tile) Reg.POOL_STAT = setBit (s.reg (poolPage tile) Reg.POOL_STAT) cru false := by
      rw [hu, ← rt (poolPage tile) Reg.POOL_STAT (by decide) (by simp [pwrPage, poolPage, tilePage])]
      exact State.reg_setReg_same ..
    unfold State.rb
    rw [e]
    by_cases c : k = cru
    · rw [c, fbit_setBit_same _ _ _ (by omega)]
      simp
    · rw [fbit_setBit_other _ _ _ _ (by omega) (fun d => c (Fin.ext d))]
      simp [c]
  refine ⟨u, ?_, (rt.comp ru).mono (by simp), kd, fun n => dom n, stat, ?_⟩
  · rw [hu, ht]
    exact congrArg Host.Outcome.next (State.zeroed_crucible h hz hk)
  · unfold State.poolOn
    rw [dom, stat]
    simp

theorem does_peatZeroingDone {layer : Fin 4} (h : s.rampOf tile (4 + layer) = some r) (hz : r.phase = .zeroing) :
    Does (.peatZeroingDone tile layer) s (fun u =>
      RegsOutside [(pwrPage tile, Reg.PWR_DOM)] s u ∧
      u.ramps = s.ramps.filter (fun q => !(q.unit = tile.val && q.dom = 4 + layer.val)) ∧
      (∀ n : Fin 8, u.dom tile n = if n.val = 4 + layer.val then 2 else s.dom tile n) ∧ u.layerOn tile layer = true) := by
  have hl := layer.isLt
  have dom (n : Nat) := State.dom_setDom (s.dropRamp tile (4 + layer)) tile (n := 4 + layer) (v := 2) n (by omega) (by decide)
  refine ⟨_, congrArg Host.Outcome.next (State.zeroed_layer h hz (by omega)), ?_, ?_, fun n => dom n, ?_⟩
  · exact (RegsOutside.of_regs (t := s.dropRamp tile (4 + layer)) rfl).trans (RegsOutside.setDom _ _ _ _)
  · exact (State.setDom_kept ..).frame .ramps (by decide)
  · unfold State.layerOn
    rw [dom]
    simp
end Zeroing

/-! ### The wake of a layer -/

section Wake
variable {tile : TileIx} {layer : Fin 4} {s : State} (hm : s.boot.main = true) (hd : s.dom tile (4 + layer) ≠ 2)
include hm hd

theorem exec_peatLayerWake : exec (.peatLayerWake tile layer) s = .next (s.domForce tile (4 + layer) 2 1) := by
  show execPeatLayerWake tile layer s = _
  unfold execPeatLayerWake
  rw [hm, State.domCode_tile, decide_eq_true hd]
  rfl

theorem does_peatLayerWake_asks (hr : s.rampOf tile (4 + layer) = none) :
    Does (.peatLayerWake tile layer) s (fun u =>
      u = s.putRamp ⟨tile, 4 + layer, 1, s.up, 0, .asked, s.dom tile (4 + layer) = 0, none⟩) := by
  refine ⟨_, exec_peatLayerWake hm hd, ?_⟩
  unfold State.domForce
  rw [hr]
  dsimp only
  unfold State.applyDom
  rw [if_neg (by decide), State.domCode_tile, if_neg hd, if_pos rfl]

theorem does_peatLayerWake_hastens {r : Ramp} (hr : s.rampOf tile (4 + layer) = some r) :
    Does (.peatLayerWake tile layer) s (fun u => u = s.putRamp { r with cls := min 1 r.cls, next := none }) := by
  refine ⟨_, exec_peatLayerWake hm hd, ?_⟩
  unfold State.domForce
  rw [hr]
  rfl
end Wake

/-! ### The gathering buffer -/

theorem State.gbFlushLine_left (s : State) (tile cru line : Nat) :
    ((s.gbFlushLine tile cru line).cru tile cru).gb = (s.cru tile cru).gb.filter (fun e => e.line ≠ line) := by
  show (((s.setCru tile cru _).flushList tile _).cru _ _).gb = _
  rw [State.cru_congr (State.flushList_crus _ _ _), State.cru_setCru_same]

theorem does_gbAgeFlush {tile : TileIx} {cru : CruIx} {line : BitVec 25} {s : State} {e : GbEntry} (he : e ∈ (s.cru tile cru).gb)
    (hl : e.line = line.toNat) (ha : e.last + s.gbAge tile ≤ s.up) (hr : s.entryReady tile e = true) :
    Does (.gbAgeFlush tile cru line) s (fun u =>
      RegsOutside (gbRegs tile) s u ∧ (u.cru tile cru).gb = (s.cru tile cru).gb.filter (fun e => e.line ≠ line.toNat) ∧
      u.peat = flushedPeat tile s.peat ((s.cru tile cru).gb.filter (fun e => e.line = line.toNat))) := by
  refine ⟨s.gbFlushLine tile cru line.toNat, congrArg Host.Outcome.next (if_pos ?_), (State.gbFlushLine_gb ..).regs, State.gbFlushLine_left ..,
    State.flushList_peat _ _ _⟩
  exact List.any_eq_true.mpr ⟨e, he, by simp [hl, ha, hr]⟩

/-! ### The scrubbers -/

theorem exec_poolScrub {tile : TileIx} {cru : CruIx} {word : BitVec 22} {s : State} (e : EccResult) (ho : 8 * word.toNat < poolSize)
    (hc : s.rb (poolPage tile) Reg.POOL_CTL 0 = true) (hp : s.poolOn tile cru = true) :
    let off := 8 * word.toNat
    let bad := s.poolPoisoned tile cru off 8
    let found := scrubFinds bad e
    let t := (s.countPool tile [(off, 8)]).poolEcc tile cru 6 off found bad true
    exec (.poolScrub tile cru word e) s = .next (State.scrubEnd t
      { t with poolBad := Store.set false t.poolBad (poolLineKey tile cru (off / 4096)) true } tile (poolPage tile) 2 (1 + cru) (off / 256) bad found
      tile (cru * (poolSize / 8) + word.toNat) (4 * (poolSize / 8) - 1)) := by
  intro off bad found t
  refine (if_neg ?_).trans rfl
  simp [ho, hc, hp]

theorem does_poolScrub {tile : TileIx} {cru : CruIx} {word : BitVec 22} {e : EccResult} {s : State} (ho : 8 * word.toNat < poolSize)
    (hc : s.rb (poolPage tile) Reg.POOL_CTL 0 = true) (hp : s.poolOn tile cru = true) :
    let pp := poolPage tile
    let po := 8 * word.toNat
    let item := cru * (poolSize / 8) + word.toNat
    let last := 4 * (poolSize / 8) - 1
    let found := scrubFinds (s.poolPoisoned tile cru po 8) e
    Does (.poolScrub tile cru word e) s (fun u =>
      Frame [.regs, .fresh, .out, .fns, .poolBad, .reports, .scrubs] s u ∧
      u.scrubs = (if Store.get 0 s.scrubs tile = item then Store.set 0 s.scrubs tile (if item = last then 0 else item + 1) else s.scrubs) ∧
      Counts s u pp 6 (if Store.get 0 s.scrubs tile = item ∧ item = last then 1 else 0) ∧ Counts s u pp 0 1 ∧
      RegsOutside ([(pp, Reg.POOL_ECC_ADDR), (pp, Reg.POOL_ECC_INFO), counter pp 0, counter pp 2, counter pp 3, counter pp 6, counter pp 7] ++
        evtRegs pp ++ reportRegs tile) s u ∧
      (found = .clean → RegsOutside [counter pp 0, counter pp 6] s u ∧ u.poolBad = s.poolBad) ∧
      (∀ sy, found = .corrected sy → Counts s u pp 2 1 ∧ Raised u pp 0 ∧ u.poolBad = s.poolBad ∧ u.reports = s.reports) ∧
      (found = .uncorrectable →
        Counts s u pp 3 1 ∧ Raised u pp 1 ∧ Raised u pp 4 ∧ u.reg pp Reg.POOL_ECC_ADDR = Machine.word [(3, word.toNat), (25, cru), (27, 6)] ∧
        u.poolBad = Store.set false s.poolBad (poolLineKey tile cru (po / 4096)) true ∧
        u.reports = s.reports ++ [⟨tile, 2, 1 + cru, po / 256, s.up⟩])) := by
  intro pp po item last found
  have hk := cru.isLt
  refine ⟨_, exec_poolScrub e ho hc hp, ?_⟩
  have h := poolScrub_checked s tile cru word.toNat found (s.poolPoisoned tile cru po 8)
  obtain ⟨t, ht⟩ : ∃ t, t = (s.countPool tile [(po, 8)]).poolEcc tile cru 6 po found (s.poolPoisoned tile cru po 8) true := ⟨_, rfl⟩
  rw [← ht] at h
  rw [← ht]
  have kt : t.poolBad = s.poolBad := h.1 .poolBad (by decide)
  obtain ⟨v, hv⟩ : ∃ v : State, v = { t with poolBad := Store.set false t.poolBad (poolLineKey tile cru (po / 4096)) true } := ⟨_, rfl⟩
  rw [← hv]
  obtain ⟨u, hu⟩ : ∃ u, u = State.scrubEnd t v tile pp 2 (1 + cru) (po / 256) (s.poolPoisoned tile cru po 8) found tile item last :=
    ⟨_, rfl⟩
  rw [← hu]
  have kv : Kept [.poolBad] t v := hv ▸ Kept.poolBad ..
  obtain ⟨f, fn, fu⟩ := h.ends_frame (b := 5) rfl kv rfl hu (by decide) (by decide) (by omega)
  obtain ⟨es, cp, cr, r, cl, co, un⟩ := h.ends (b := 5) rfl kv rfl hu (by decide) (by decide) (by decide) (by omega)
  refine ⟨f, es, cp, cr 0 (by simp), r.mono_head (by simp [recordRegs, pp]), fun e => ⟨cl e, fn (by simp [e]) .poolBad (by decide)⟩,
    fun sy e => ?_, fun e => ?_⟩
  · obtain ⟨hc, he, hr⟩ := co sy e
    exact ⟨hc, he, fn (by simp [e]) .poolBad (by decide), hr⟩
  · obtain ⟨hc, h1, h4, ha, hr⟩ := un e
    exact ⟨hc, h1, h4, ha, (fu e .poolBad (by decide)).trans (by rw [hv, kt]), hr⟩

theorem exec_peatScrub {tile : TileIx} {line : BitVec 30} {s : State} (e : EccResult) (hc : s.rb (peatPage tile) Reg.PEAT_CTL 0 = true)
    (hp : s.peatOn tile (8 * line.toNat) 8 = true) :
    let off := 8 * line.toNat
    let bad := s.peatPoisoned tile off 8
    let found := scrubFinds bad e
    let t := ((s.peatEcc tile 6 off found bad true).bump (peatPage tile) 0 1).bump (peatPage tile) 1 1
    exec (.peatScrub tile line e) s = .next (State.scrubEnd t
      { t with peatBad := Store.set false t.peatBad (peatLineKey tile (off / 256)) true } tile (peatPage tile) 4 0 (off / 256) bad found
      (128 + tile) (off / 256) (peatSize / 256 - 1)) := by
  intro off bad found t
  refine (if_neg ?_).trans rfl
  simp [hc, hp]

theorem does_peatScrub {tile : TileIx} {line : BitVec 30} {e : EccResult} {s : State} (hc : s.rb (peatPage tile) Reg.PEAT_CTL 0 = true)
    (hp : s.peatOn tile (8 * line.toNat) 8 = true) :
    let qp := peatPage tile
    let qo := 8 * line.toNat
    let key := 128 + tile.val
    let item := qo / 256
    let last := peatSize / 256 - 1
    let found := scrubFinds (s.peatPoisoned tile qo 8) e
    Does (.peatScrub tile line e) s (fun u =>
      Frame [.regs, .fresh, .out, .fns, .peatBad, .reports, .scrubs] s u ∧
      u.scrubs = (if Store.get 0 s.scrubs key = item then Store.set 0 s.scrubs key (if item = last then 0 else item + 1) else s.scrubs) ∧
      Counts s u qp 8 (if Store.get 0 s.scrubs key = item ∧ item = last then 1 else 0) ∧ Counts s u qp 0 1 ∧ Counts s u qp 1 1 ∧
      RegsOutside ([(qp, Reg.PEAT_ECC_ADDR), (qp, Reg.PEAT_ECC_INFO), counter qp 0, counter qp 1, counter qp 4, counter qp 5,
        counter qp 8, counter qp 9] ++ evtRegs qp ++ reportRegs tile) s u ∧
      (found = .clean → RegsOutside [counter qp 0, counter qp 1, counter qp 8] s u ∧ u.peatBad = s.peatBad) ∧
      (∀ sy, found = .corrected sy → Counts s u qp 4 1 ∧ Raised u qp 0 ∧ u.peatBad = s.peatBad ∧ u.reports = s.reports) ∧
      (found = .uncorrectable →
        Counts s u qp 5 1 ∧ Raised u qp 1 ∧ Raised u qp 4 ∧ u.reg qp Reg.PEAT_ECC_ADDR = Machine.word [(3, line.toNat), (33, 6)] ∧
        u.peatBad = Store.set false s.peatBad (peatLineKey tile (qo / 256)) true ∧
        u.reports = s.reports ++ [⟨tile, 2, 0, qo / 256, s.up⟩])) := by
  intro qp qo key item last found
  refine ⟨_, exec_peatScrub e hc hp, ?_⟩
  have h := peatScrub_checked s tile line.toNat found (s.peatPoisoned tile qo 8)
  obtain ⟨t, ht⟩ : ∃ t, t = ((s.peatEcc tile 6 qo found (s.peatPoisoned tile qo 8) true).bump qp 0 1).bump qp 1 1 := ⟨_, rfl⟩
  rw [← ht] at h
  rw [← ht]
  have kt : t.peatBad = s.peatBad := h.1 .peatBad (by decide)
  obtain ⟨v, hv⟩ : ∃ v : State, v = { t with peatBad := Store.set false t.peatBad (peatLineKey tile (qo / 256)) true } := ⟨_, rfl⟩
  rw [← hv]
  obtain ⟨u, hu⟩ : ∃ u, u = State.scrubEnd t v tile qp 4 0 (qo / 256) (s.peatPoisoned tile qo 8) found key item last := ⟨_, rfl⟩
  rw [← hu]
  have kv : Kept [.peatBad] t v := hv ▸ Kept.peatBad ..
  obtain ⟨f, fn, fu⟩ := h.ends_frame (b := 6) rfl kv rfl hu (by decide) (by decide) (by decide)
  obtain ⟨es, cp, cr, r, cl, co, un⟩ := h.ends (b := 6) rfl kv rfl hu (by decide) (by decide) (by decide) (by decide)
  refine ⟨f, es, cp, cr 0 (by simp), cr 1 (by simp),
    r.mono_head (by simp [recordRegs, qp, Reg.POOL_ECC_ADDR, Reg.POOL_ECC_INFO, Reg.PEAT_ECC_ADDR, Reg.PEAT_ECC_INFO]),
    fun e => ⟨(cl e).mono (by simp [qp]), fn (by simp [e]) .peatBad (by decide)⟩, fun sy e => ?_, fun e => ?_⟩
  · obtain ⟨hc, he, hr⟩ := co sy e
    exact ⟨hc, he, fn (by simp [e]) .peatBad (by decide), hr⟩
  · obtain ⟨hc, h1, h4, ha, hr⟩ := un e
    exact ⟨hc, h1, h4, ha, (fu e .peatBad (by decide)).trans (by rw [hv, kt]), hr⟩

/-- Settles O22: the end of zeroing, the wake of a layer and the flush of an aged line by their own rules; a scrub by what the check of a word
notes and what the end of a scrub adds, the same for a pool and a peat. -/
theorem memoryUpkeep : Obligations.MemoryUpkeep := by
  unfold Obligations.MemoryUpkeep
  refine ⟨fun tile cru layer r line s => ⟨does_poolZeroingDone, does_peatZeroingDone, does_peatLayerWake_asks, fun hm hd =>
    does_peatLayerWake_hastens hm hd, fun e he hl ha hr => does_gbAgeFlush he hl ha hr⟩, fun tile cru word line e s => ⟨does_poolScrub,
    does_peatScrub, ⟨s, rfl, rfl⟩, ⟨s, rfl, rfl⟩⟩⟩

end Sys2Proof.Machine
end

section
/-! SUPPORT. Channel regions: the registers that declare them, and the states of their slots (R188 to R191, R199). -/
namespace Sys2Proof.Machine
open Sys2Proof

/-! ### The fields of CREG_CTL and CSLOT_STATE -/

/-- EN, INIT and TMO_NS; and those of them that a write may not change while the region is enabled. -/
def cregMask : W64 := maskOf 1 0 ||| maskOf 63 32
def cregFixed : W64 := maskOf 1 1 ||| maskOf 63 32

theorem cregMask_bit {i : Nat} (hi : i < 64) : cregMask.getLsbD i = (decide (i = 0) || cregFixed.getLsbD i) := by
  unfold cregMask cregFixed
  rw [BitVec.getLsbD_or, BitVec.getLsbD_or, maskOf_bit _ _ _ (by decide), maskOf_bit _ _ _ (by decide), maskOf_bit _ _ _ (by decide),
    Bool.eq_iff_iff]
  simp only [Bool.or_eq_true, Bool.and_eq_true, decide_eq_true_eq]
  omega

theorem cregFixed_bit {i : Nat} (h : cregFixed.getLsbD i = true) : i ≠ 0 := by
  rintro rfl
  exact absurd h (by decide)

/-- A write's EN bit is EN after it. -/
theorem fbit_cregWrite (a v : W64) (b : Bool) : fbit (mix cregMask a (setBit v 0 b)) 0 = b := by
  have e : fbit (mix cregMask a (setBit v 0 b)) 0 = fbit (setBit v 0 b) 0 := (mix_bit _ _ _ (by decide)).trans (if_pos (by decide))
  rw [e, fbit_setBit_same _ _ _ (by decide)]

/-- A field other than EN is what the write says. -/
theorem cregWrite_bit (a v : W64) (b : Bool) {i : Nat} (hi : i < 64) (h : cregFixed.getLsbD i = true) :
    (mix cregMask a (setBit v 0 b)).getLsbD i = v.getLsbD i := by
  rw [mix_bit _ _ _ hi, if_pos (by rw [cregMask_bit hi, h, Bool.or_true])]
  exact fbit_setBit_other v 0 i b (by decide) (cregFixed_bit h)

theorem and_eq_and_iff (a b m : W64) : a &&& m = b &&& m ↔ ∀ i, i < 64 → m.getLsbD i = true → a.getLsbD i = b.getLsbD i := by
  constructor
  · intro h i hi hm
    have e := congrArg (·.getLsbD i) h
    simpa [hm] using e
  · intro h
    refine BitVec.eq_of_getLsbD_eq fun i hi => ?_
    rw [BitVec.getLsbD_and, BitVec.getLsbD_and]
    cases hm : m.getLsbD i with
    | false => simp
    | true => rw [h i hi hm]

theorem xor_and_eq_zero_iff (a b m : W64) : (a ^^^ b) &&& m = 0 ↔ a &&& m = b &&& m := by
  rw [and_eq_and_iff]
  constructor
  · intro h i hi hm
    have e := congrArg (·.getLsbD i) h
    simpa [hm] using e
  · intro h
    refine BitVec.eq_of_getLsbD_eq fun i hi => ?_
    rw [BitVec.getLsbD_and, BitVec.getLsbD_xor]
    cases hm : m.getLsbD i with
    | false => simp
    | true => simp [h i hi hm]

/-- Whether a write of CREG_CTL leaves INIT and TMO_NS as they were. -/
theorem cregWrite_fixed_iff (a v : W64) (b : Bool) :
    (mix cregMask a (setBit v 0 b) ^^^ a) &&& cregFixed = 0 ↔ v &&& cregFixed = a &&& cregFixed := by
  rw [xor_and_eq_zero_iff, and_eq_and_iff, and_eq_and_iff]
  exact forall₃_congr fun i hi hm => by rw [cregWrite_bit a v b hi hm]

/-- A write that repeats EN and the fixed fields changes nothing. -/
theorem cregWrite_same {a v : W64} {b : Bool} (h0 : fbit a 0 = b) (h : v &&& cregFixed = a &&& cregFixed) : mix cregMask a (setBit v 0 b) = a := by
  refine BitVec.eq_of_getLsbD_eq fun i hi => ?_
  by_cases c : i = 0
  · exact c ▸ (fbit_cregWrite a v b).trans h0.symm
  · cases hf : cregFixed.getLsbD i with
    | true => rw [cregWrite_bit a v b hi hf, (and_eq_and_iff ..).mp h i hi hf]
    | false => rw [mix_bit _ _ _ hi, if_neg (by simp [cregMask_bit hi, c, hf])]

theorem cregPage_eq (i : Nat) (peat : Bool) : cregPage i peat = tilePage i (if peat then 6 else 5) := by
  cases peat <;> rfl

theorem cregPage_notPort (i : TileIx) (peat : Bool) : cregPage i peat ≠ 7 ∧ cregPage i peat ≠ 0x3003 ∧ cregPage i peat ≠ 0x3403 := by
  have hi := i.isLt
  rw [cregPage_eq, tilePage]
  split <;> omega

theorem cregPage_like (i : TileIx) (peat : Bool) (off : Nat) : regAt (cregPage i peat) off = regAt (cregPage (0 : TileIx) peat) off := by
  cases peat
  · exact regAt_like (pageInfo_tile i 5) (pageInfo_tile 0 5) (by decide) off
  · exact regAt_like (pageInfo_tile i 6) (pageInfo_tile 0 6) (by decide) off

/-- A register's fields by access: none cleared by writing ones, and those that a write reaches. -/
def writesFields (page off : Nat) (m : W64) : Bool :=
  (regAt page off).isSome && decide (accMask page off .rw ||| accMask page off .sl ||| accMask page off .gw = m) && decide (accMask page off .w1c = 0)

theorem writesFields_iff (page off : Nat) (m : W64) : writesFields page off m = true ↔
    (regAt page off).isSome = true ∧ accMask page off .rw ||| accMask page off .sl ||| accMask page off .gw = m ∧ accMask page off .w1c = 0 := by
  simp [writesFields, and_assoc]

theorem writesFields_like {p q off : Nat} (h : regAt p off = regAt q off) (m : W64) : writesFields p off m = writesFields q off m := by
  simp only [writesFields, h, accMask_like h]

theorem cregCtl_fields (i : TileIx) {peat : Bool} {r : Fin 32} (hr : peat = true → r.val < 16) :
    writesFields (cregPage i peat) (Reg.CREG_CTL r) cregMask = true := by
  rw [writesFields_like (cregPage_like i peat _)]
  cases peat
  · revert r
    decide
  · have h : ∀ r : Fin 16, writesFields (cregPage (0 : TileIx) true) (Reg.CREG_CTL r) cregMask = true := by decide
    exact h ⟨r, hr rfl⟩

theorem cslotState_fields (i : TileIx) (peat : Bool) : writesFields (cregPage i peat) Reg.CSLOT_STATE (maskOf 1 0) = true := by
  rw [writesFields_like (cregPage_like i peat _)]
  cases peat <;> decide

/-- An admitted write of a region's register: the fields that it has, and the registers' frame. -/
theorem State.cregWrite_admits {s : State} {who : Requester} {tile : TileIx} {peat : Bool} {off : Nat} {m : W64} (v : W64)
    (h : s.admits who (cregPage tile peat) off = true) (hf : writesFields (cregPage tile peat) off m = true) (h8 : off % 8 = 0)
    (he : off ≠ Reg.EVT_EN) (hb : off < 4096) :
    ∃ (g : State) (old : W64), Writes (cregPage tile peat) off [] [] s g ∧ g.reg (cregPage tile peat) off = mix m (s.reg (cregPage tile peat) off) v ∧
      s.writeCore who (cregPage tile peat) off .b64 v = ⟨g, off, m, v, old⟩ := by
  obtain ⟨hr, hm, hc⟩ := (writesFields_iff ..).mp hf
  obtain ⟨n0, n1, n2⟩ := cregPage_notPort tile peat
  obtain ⟨g, hg, eg, hw⟩ := State.writeCore_writes v h h8 he hb hr n0 n1 n2
  rw [hm] at eg hw
  refine ⟨g, _, hg, ?_, hw⟩
  rw [eg, hc, show (0 : W64) &&& v = 0 from BitVec.zero_and]
  exact BitVec.and_allOnes

/-! ### What a region's registers say, through a write of its CREG_CTL -/

theorem Reg.cregCtl_inj {a b : Nat} : Reg.CREG_CTL a = Reg.CREG_CTL b ↔ a = b := by
  unfold Reg.CREG_CTL
  omega

theorem Reg.cregBase_ne {a b : Nat} : Reg.CREG_BASE a ≠ Reg.CREG_CTL b := by
  unfold Reg.CREG_BASE Reg.CREG_CTL
  omega

section
variable {s g : State} {i : Nat} {peat : Bool} {off : Nat} (h : RegsOutside [(cregPage i peat, off)] s g)
include h

theorem RegsOutside.cregBase {n : Nat} (hn : n < 32) (ho : Reg.CREG_BASE n ≠ off) :
    g.cregBase i peat n = s.cregBase i peat n ∧ g.cregCount i peat n = s.cregCount i peat n := by
  have e (hi lo : Nat) : g.rf (cregPage i peat) (Reg.CREG_BASE n) hi lo = s.rf (cregPage i peat) (Reg.CREG_BASE n) hi lo :=
    h.rf hi lo (by unfold Reg.CREG_BASE; omega) (by simpa using ho)
  unfold State.cregBase State.cregCount
  simp only [e, and_self]

theorem RegsOutside.cregEn {n : Nat} (hn : n < 32) (ho : Reg.CREG_CTL n ≠ off) : g.cregEn i peat n = s.cregEn i peat n := by
  unfold State.cregEn State.rb
  rw [h _ _ (by unfold Reg.CREG_CTL; omega) (by simpa using ho)]
end

/-- Whether a region fits does not depend on its own CREG_CTL. -/
theorem RegsOutside.regionFits {s g : State} {i r : Nat} {peat : Bool} (h : RegsOutside [(cregPage i peat, Reg.CREG_CTL r)] s g) (hr : r < 32) :
    g.regionFits i peat r = s.regionFits i peat r := by
  have others (q : Nat) (hq : q ∈ List.range (if peat then 16 else 32)) :
      (decide (q = r) || !g.cregEn i peat q || !g.regionsMeet i peat r q) = (decide (q = r) || !s.cregEn i peat q || !s.regionsMeet i peat r q) := by
    have hl : q < 32 := by
      have := List.mem_range.mp hq
      split at this <;> omega
    by_cases c : q = r
    · simp [c]
    · have em : g.regionsMeet i peat r q = s.regionsMeet i peat r q := by
        unfold State.regionsMeet
        obtain ⟨b1, c1⟩ := h.cregBase hr Reg.cregBase_ne
        obtain ⟨b2, c2⟩ := h.cregBase hl Reg.cregBase_ne
        rw [b1, c1, b2, c2]
      rw [em, h.cregEn hl (fun e => c (Reg.cregCtl_inj.mp e))]
  have all {l : List Nat} {p q : Nat → Bool} (e : ∀ x ∈ l, p x = q x) : l.all p = l.all q := by
    rw [Bool.eq_iff_iff, List.all_eq_true, List.all_eq_true]
    exact forall₂_congr fun x hx => by rw [e x hx]
  obtain ⟨b1, c1⟩ := h.cregBase hr Reg.cregBase_ne
  unfold State.regionFits
  rw [b1, c1, all others]

/-! ### Slots -/

theorem slotKey_inj {i j : Nat} {p q : Bool} {a b k n : Nat} (ha : a < 32) (hb : b < 32) (hk : k < 16384) (hn : n < 16384) :
    slotKey i p a k = slotKey j q b n ↔ i = j ∧ p = q ∧ a = b ∧ k = n := by
  have hp : ∀ x : Bool, b2n x < 2 := by decide
  have := hp p
  have := hp q
  have e : p = q ↔ b2n p = b2n q := by revert p q; decide
  rw [e]
  unfold slotKey
  omega

theorem State.slot_congr {s u : State} (h : u.slots = s.slots) (i : Nat) (p : Bool) (r k : Nat) : u.slot i p r k = s.slot i p r k := by
  unfold State.slot
  rw [h]

theorem State.slot_setSlot_same (s : State) (i : Nat) (p : Bool) (r k : Nat) (x : SlotState) : (s.setSlot i p r k x).slot i p r k = x :=
  Store.get_set_same ..

/-- The slots that a list of slots of one region is set to. -/
theorem State.slot_setSlots {i r : Nat} {p : Bool} (x : SlotState) (hr : r < 32) {j q n : Nat} {o : Bool} (hq : q < 32) (hn : n < 16384)
    (l : List Nat) (hl : ∀ k ∈ l, k < 16384) (s : State) :
    (l.foldl (fun s k => s.setSlot i p r k x) s).slot j o q n = if (i = j ∧ p = o ∧ r = q) ∧ n ∈ l then x else s.slot j o q n := by
  induction l generalizing s with
  | nil => simp
  | cons k l ih =>
    rw [List.foldl_cons, ih (fun k h => hl k (List.mem_cons_of_mem _ h))]
    have e : (s.setSlot i p r k x).slot j o q n = if i = j ∧ p = o ∧ r = q ∧ k = n then x else s.slot j o q n := by
      simp only [← slotKey_inj hr hq (hl k List.mem_cons_self) hn]
      exact Store.get_set ..
    rw [e]
    by_cases c : i = j ∧ p = o ∧ r = q
    · obtain ⟨rfl, rfl, rfl⟩ := c
      simp only [true_and, List.mem_cons]
      by_cases d' : n ∈ l
      · simp [d']
      · simp [d', eq_comm]
    · simp only [c, false_and, if_false]
      rw [if_neg (fun d => c ⟨d.1, d.2.1, d.2.2.1⟩)]

/-- INIT is read once: setting slots leaves the registers. -/
theorem State.initRegion_sets (s : State) (i : Nat) (p : Bool) (r : Nat) : s.initRegion i p r =
    (List.range (s.cregCount i p r)).foldl (fun t k => t.setSlot i p r k (s.cregInit i p r)) s := by
  have go (l : List Nat) (t : State) (ht : t.cregInit i p r = s.cregInit i p r) :
      l.foldl (fun t k => t.setSlot i p r k (t.cregInit i p r)) t = l.foldl (fun t k => t.setSlot i p r k (s.cregInit i p r)) t := by
    induction l generalizing t with
    | nil => rfl
    | cons k l ih =>
      rw [List.foldl_cons, List.foldl_cons, ht]
      exact ih _ ht
  exact go _ s rfl

/-- Every slot of a region takes the INIT state, and no other slot changes. -/
theorem State.slot_initRegion {s : State} {i r : Nat} {p : Bool} (hr : r < 32) (hc : s.cregCount i p r ≤ 16384) {j q n : Nat} {o : Bool}
    (hq : q < 32) (hn : n < 16384) :
    (s.initRegion i p r).slot j o q n = if (i = j ∧ p = o ∧ r = q) ∧ n < s.cregCount i p r then s.cregInit i p r else s.slot j o q n := by
  rw [State.initRegion_sets, State.slot_setSlots _ hr hq hn _ (fun k hk => by have := List.mem_range.mp hk; omega)]
  simp only [List.mem_range]

theorem State.regionFits_count {s : State} {i r : Nat} {p : Bool} (h : s.regionFits i p r = true) : s.cregCount i p r ≤ 16384 := by
  unfold State.regionFits regionSlots at h
  simp only [Bool.and_eq_true, decide_eq_true_eq] at h
  obtain ⟨⟨h, -⟩, -⟩ := h
  split at h <;> omega

/-! ### A region disabled -/

/-- The state in which the accesses that wait for a disabled region go on: its claims end without a transition and its states are lost. -/
def State.regionForgotten (s : State) (tile : Nat) (peat : Bool) (r : Nat) : State :=
  let t := (List.range 4).foldl (fun (t : State) k => t.setCru tile k ((t.cru tile k).forget peat r)) s
  { t with rx := Store.set [] t.rx tile ((Store.get [] t.rx tile).map (fun (x : RxMove) =>
             { x with claims := x.claims.map (Claim.kill peat r), todo := x.todo.map (Claim.kill peat r) })),
           slots := Store.keep (fun k => k < Machine.slotKey tile peat r 0 || Machine.slotKey tile peat r 16384 ≤ k) t.slots }

theorem State.forgetRegion_eq (s : State) (tile : TileIx) (peat : Bool) (r : Nat) :
    s.forgetRegion tile peat r = (s.regionForgotten tile peat r).resumeRegion tile peat r := dif_pos tile.isLt

theorem State.cru_setCru (s : State) (i : Nat) {k n : Nat} (c : Crucible) :
    (s.setCru i k c).cru i n = if k = n then c else s.cru i n := by
  unfold State.cru State.setCru
  dsimp only
  rw [Store.get_set]
  have e : cruKey i k = cruKey i n ↔ k = n := by
    unfold cruKey
    omega
  simp only [e]

/-- A change of each crucible of a tile in turn. -/
theorem State.cru_setCrus (i : Nat) (f : Crucible → Crucible) {n : Nat} (l : List Nat) (hd : l.Nodup) (s : State) :
    (l.foldl (fun (t : State) k => t.setCru i k (f (t.cru i k))) s).cru i n = if n ∈ l then f (s.cru i n) else s.cru i n := by
  induction l generalizing s with
  | nil => rfl
  | cons k l ih =>
    obtain ⟨hk, hd⟩ := List.nodup_cons.mp hd
    rw [List.foldl_cons, ih hd, State.cru_setCru]
    by_cases c : k = n
    · subst c
      simp [hk]
    · simp [c, Ne.symm c]

section
variable (s : State) (tile : TileIx) (peat : Bool) (r : Nat)

theorem State.forgetCrus_kept :
    Kept [.crus] s ((List.range 4).foldl (fun (t : State) k => t.setCru tile k ((t.cru tile k).forget peat r)) s) :=
  Kept.foldl _ (fun _ _ => State.setCru_kept ..) _ _

theorem State.regionForgotten_kept : Kept [.slots, .crus, .rx] s (s.regionForgotten tile peat r) :=
  ((State.forgetCrus_kept s tile peat r).mono rfl).step (Kept.slots_rx ..) rfl

theorem State.regionForgotten_cru (k : CruIx) : (s.regionForgotten tile peat r).cru tile k = (s.cru tile k).forget peat r := by
  have hk := k.isLt
  have e := State.cru_setCrus tile (·.forget peat r) (n := k) (List.range 4) List.nodup_range s
  rw [if_pos (List.mem_range.mpr hk)] at e
  exact e

theorem State.regionForgotten_rx : Store.get [] (s.regionForgotten tile peat r).rx tile = (Store.get [] s.rx tile).map (fun x =>
    { x with claims := x.claims.map (Claim.kill peat r), todo := x.todo.map (Claim.kill peat r) }) := by
  refine (Store.get_set_same ..).trans ?_
  rw [(State.forgetCrus_kept s tile peat r).frame .rx (by decide)]

theorem State.regionForgotten_slot {r : Nat} (hr : r < 32) (i : TileIx) (p : Bool) (q : Fin 32) (k : Fin 16384) :
    (s.regionForgotten tile peat r).slot i p q k = if i = tile ∧ p = peat ∧ q.val = r then .empty else s.slot i p q k := by
  have hq := q.isLt
  have hk := k.isLt
  refine (Store.get_keep ..).trans ?_
  rw [(State.forgetCrus_kept s tile peat r).frame .slots (by decide)]
  have e : (decide (Machine.slotKey i p q k < Machine.slotKey tile peat r 0) ||
      decide (Machine.slotKey tile peat r 16384 ≤ Machine.slotKey i p q k)) = true ↔ ¬(i = tile ∧ p = peat ∧ q.val = r) := by
    have hp : ∀ x : Bool, b2n x < 2 := by decide
    have := hp p
    have := hp peat
    have eb : p = peat ↔ b2n p = b2n peat := by revert p peat; decide
    rw [Fin.ext_iff, eb]
    simp only [Bool.or_eq_true, decide_eq_true_eq]
    unfold Machine.slotKey
    omega
  by_cases c : i = tile ∧ p = peat ∧ q.val = r
  · rw [if_pos c, if_neg (fun d => e.mp d c)]
  · rw [if_neg c, if_pos (e.mpr c)]
    rfl

/-- Nobody waits for the region: nothing goes on. -/
theorem State.resumeRegion_idle {s : State}
    (hu : ∀ (k : CruIx) (n : UnitKind) (c : UCtx), s.waitingWork tile k n = some c → waitsIn peat r c.w.want = false)
    (hp : (s.probesAt tile).all (fun q => !waitsIn peat r q.want) = true) : s.resumeRegion tile peat r = s := by
  have probes : (s.probesAt tile).filter (fun q => waitsIn peat r q.want) = [] := by
    rw [List.filter_eq_nil_iff]
    simpa using hp
  unfold State.resumeRegion
  dsimp only
  rw [List.foldl_fixed' ?units (List.finRange 4), probes]
  case units =>
    refine fun k => List.foldl_fixed' (fun n => ?_) _
    split
    next => rfl
    next c e => exact if_neg (by simp [hu k n c e])
  rfl
end

end Sys2Proof.Machine
end

section
/-! PROOF. Writes of CREG_CTL, the life of a channel slot and writes of CSLOT_STATE (R188 to R192, R199, R200). -/
namespace Sys2Proof.Machine
open Sys2Proof

/-! ### Writes of CREG_CTL -/

/-- A command that writes CREG_CTL with a given EN bit. -/
def cregWrite (who : Requester) (tile : TileIx) (peat : Bool) (r : Fin 32) (v : W64) (en : Bool) : Instr :=
  if en then .cregEnable who tile peat r v else .cregDisable who tile peat r v

/-- What a write of CREG_CTL does, once its fields are stored (R189, R190, R199). -/
def State.cregWritten (g s : State) (tile : Nat) (peat : Bool) (r : Nat) (v : W64) (en : Bool) : State :=
  let off := Reg.CREG_CTL r
  if s.cregEn tile peat r && decide (v &&& cregFixed ≠ s.reg (cregPage tile peat) off &&& cregFixed) then g.regionErr s tile peat off
  else if !s.cregEn tile peat r && en then
    if s.regionFits tile peat r then g.initRegion tile peat r else g.regionErr s tile peat off
  else if s.cregEn tile peat r && !en then g.forgetRegion tile peat r
  else g

theorem exec_cregWrite {who : Requester} {tile : TileIx} {peat : Bool} {r : Fin 32} {v : W64} {en : Bool} {s : State}
    (ha : s.admits who (cregPage tile peat) (Reg.CREG_CTL r) = true) (hr : peat = true → r.val < 16) :
    ∃ g, Writes (cregPage tile peat) (Reg.CREG_CTL r) [] [] s g ∧
      g.reg (cregPage tile peat) (Reg.CREG_CTL r) = mix cregMask (s.reg (cregPage tile peat) (Reg.CREG_CTL r)) (setBit v 0 en) ∧
      exec (cregWrite who tile peat r v en) s = .next (g.cregWritten s tile peat r v en) := by
  have hlt := r.isLt
  obtain ⟨g, old, hg, eg, hw⟩ := State.cregWrite_admits (setBit v 0 en) ha (cregCtl_fields tile hr) (by unfold Reg.CREG_CTL; omega)
    (by unfold Reg.CREG_CTL Reg.EVT_EN; omega) (by unfold Reg.CREG_CTL; omega)
  refine ⟨g, hg, eg, ?_⟩
  have ex : exec (cregWrite who tile peat r v en) s =
      .next (cregCtlHook (s.writeCore who (cregPage tile peat) (Reg.CREG_CTL r) .b64 (setBit v 0 en)) s tile peat r) := by
    cases en <;> rfl
  have is : g.cregEn tile peat r = en := by
    unfold State.cregEn State.rb
    rw [eg, fbit_cregWrite]
  rw [ex, hw]
  unfold cregCtlHook State.cregWritten
  dsimp only
  rw [if_neg (show cregMask ≠ 0 by decide), is, eg, hg.2.regionFits hlt]
  simp only [← cregWrite_fixed_iff (s.reg (cregPage tile peat) (Reg.CREG_CTL r)) v en, ne_eq]
  rfl

/-- REGION_ERR: the register keeps what it held, and the event is raised. -/
theorem Writes.regionErr {s g : State} {tile : TileIx} {peat : Bool} {off : Nat} (h : Writes (cregPage tile peat) off [] [] s g) (hb : off < 4096)
    (he : (cregPage tile peat, off) ∉ evtRegs (cregPage tile peat)) :
    let pg := cregPage tile peat
    let u := g.regionErr s tile peat off
    Writes pg off [.out, .fns] (evtRegs pg) s u ∧ u.reg pg off = s.reg pg off ∧ Raised u pg 3 := by
  intro pg u
  obtain ⟨n0, n1, n2⟩ := cregPage_notPort tile peat
  have hu : u = (g.setReg pg off (s.reg pg off)).raise pg 3 := by
    show (g.storeReg pg off (s.stored pg off)).raise pg 3 = _
    rw [State.storeReg_setReg _ _ _ _ n0 n1 n2, State.stored_reg _ _ _ n0 n1 n2]
  rw [hu]
  refine ⟨h.more (fs' := [.regs, .fns, .out]) (rs' := (pg, off) :: evtRegs pg) ?_ ?_ (by decide) (fun _ hx => hx), ?_, Raised.raise _ _ _ (by decide)⟩
  · exact (((State.setReg_kept ..).mono rfl).step (State.raise_kept ..) rfl).frame
  · exact ((RegsOutside.refl _ g).thenSetReg pg off _ hb (by simp)).thenRaise pg 3 (fun x hx => List.mem_cons_of_mem _ hx)
  · rw [State.reg_raise_other _ _ _ _ _ hb he, State.reg_setReg_same]

section
variable {who : Requester} {tile : TileIx} {peat : Bool} {r : Fin 32} {v : W64} {s : State}
  (ha : s.admits who (cregPage tile peat) (Reg.CREG_CTL r) = true) (hr : peat = true → r.val < 16)
include ha hr

theorem does_cregWrite_refused {en : Bool} (h : ∀ g, State.cregWritten g s tile peat r v en = g.regionErr s tile peat (Reg.CREG_CTL r)) :
    Does (cregWrite who tile peat r v en) s (fun u =>
      Writes (cregPage tile peat) (Reg.CREG_CTL r) [.out, .fns] (evtRegs (cregPage tile peat)) s u ∧
      u.reg (cregPage tile peat) (Reg.CREG_CTL r) = s.reg (cregPage tile peat) (Reg.CREG_CTL r) ∧ Raised u (cregPage tile peat) 3) := by
  have hlt := r.isLt
  obtain ⟨g, hg, -, ex⟩ := exec_cregWrite (en := en) (v := v) ha hr
  rw [h g] at ex
  refine ⟨_, ex, hg.regionErr (by unfold Reg.CREG_CTL; omega) ?_⟩
  rw [evtRegs_eq]
  simp [Reg.CREG_CTL]
  omega

theorem does_cregEnable_fits (hn : s.cregEn tile peat r = false) (hf : s.regionFits tile peat r = true) :
    Does (.cregEnable who tile peat r v) s (fun u =>
      Writes (cregPage tile peat) (Reg.CREG_CTL r) [.slots] [] s u ∧
      u.reg (cregPage tile peat) (Reg.CREG_CTL r) = mix cregMask (s.reg (cregPage tile peat) (Reg.CREG_CTL r)) (setBit v 0 true) ∧
      u.cregEn tile peat r = true ∧
      (∀ k, k < s.cregCount tile peat r → u.slot tile peat r k = if fbit v 1 then .full else .empty) ∧
      (∀ (i : TileIx) (p : Bool) (q : Fin 32) (k : Fin 16384), (i, p, q) ≠ (tile, peat, r) → u.slot i p q k = s.slot i p q k)) := by
  have hlt := r.isLt
  obtain ⟨g, hg, eg, ex⟩ := exec_cregWrite (en := true) (v := v) ha hr
  have ew : g.cregWritten s tile peat r v true = g.initRegion tile peat r := by
    unfold State.cregWritten
    simp only [hn, hf, Bool.false_and, Bool.not_false, Bool.true_and, Bool.false_eq_true, if_false, if_true]
  have ec : g.cregCount tile peat r = s.cregCount tile peat r := (hg.2.cregBase hlt Reg.cregBase_ne).2
  have hc := State.regionFits_count hf
  have kr := State.initRegion_kept g tile peat r
  have er : (g.initRegion tile peat r).reg (cregPage tile peat) (Reg.CREG_CTL r) =
      mix cregMask (s.reg (cregPage tile peat) (Reg.CREG_CTL r)) (setBit v 0 true) :=
    (State.reg_congr (kr.frame .regs (by decide)) _ _).trans eg
  have init : g.cregInit tile peat r = if fbit v 1 then .full else .empty := by
    unfold State.cregInit State.rb fbit
    rw [eg, cregWrite_bit _ _ _ (by decide) (by decide)]
  have slot {i : TileIx} {p : Bool} {q : Fin 32} {n : Nat} (h : n < 16384) := State.slot_initRegion (s := g) (i := tile) (p := peat) hlt
    (ec ▸ hc) (j := i) (o := p) q.isLt h
  rw [ew] at ex
  refine ⟨_, ex, hg.more kr.frame (RegsOutside.of_regs (l := []) (kr.frame .regs (by decide))) (by decide) (by simp), er, ?_, fun k hk => ?_,
    fun i p q k ne => ?_⟩
  · unfold State.cregEn State.rb
    rw [er, fbit_cregWrite]
  · rw [slot (i := tile) (p := peat) (q := r) (by omega), if_pos ⟨⟨rfl, rfl, rfl⟩, by omega⟩, init]
  · rw [slot k.isLt, if_neg ?_, State.slot_congr (hg.1 .slots (by decide))]
    rintro ⟨⟨e1, rfl, e3⟩, -⟩
    exact ne (by rw [Fin.ext e1, Fin.ext e3])

theorem does_cregDisable (hn : s.cregEn tile peat r = true) (hf : v &&& cregFixed = s.reg (cregPage tile peat) (Reg.CREG_CTL r) &&& cregFixed) :
    Does (.cregDisable who tile peat r v) s (fun u => ∃ m,
      Writes (cregPage tile peat) (Reg.CREG_CTL r) [.slots, .crus, .rx] [] s m ∧ m.cregEn tile peat r = false ∧
      (∀ k : Fin 16384, m.slot tile peat r k = .empty) ∧
      (∀ (i : TileIx) (p : Bool) (q : Fin 32) (k : Fin 16384), (i, p, q) ≠ (tile, peat, r) → m.slot i p q k = s.slot i p q k) ∧
      (∀ k : CruIx, m.cru tile k = (s.cru tile k).forget peat r) ∧
      Store.get [] m.rx tile = (Store.get [] s.rx tile).map (fun x =>
        { x with claims := x.claims.map (Claim.kill peat r), todo := x.todo.map (Claim.kill peat r) }) ∧
      u = m.resumeRegion tile peat r ∧
      ((∀ (k : CruIx) (n : UnitKind) (c : UCtx), m.waitingWork tile k n = some c → waitsIn peat r c.w.want = false) →
        (m.probesAt tile).all (fun q => !waitsIn peat r q.want) = true → u = m)) := by
  have hlt := r.isLt
  obtain ⟨g, hg, eg, ex⟩ := exec_cregWrite (en := false) (v := v) ha hr
  have ew : g.cregWritten s tile peat r v false = (g.regionForgotten tile peat r).resumeRegion tile peat r := by
    rw [← State.forgetRegion_eq]
    unfold State.cregWritten
    simp [hn, hf]
  have km := State.regionForgotten_kept g tile peat r
  have slot := State.regionForgotten_slot g tile peat hlt
  rw [ew] at ex
  refine ⟨_, ex, g.regionForgotten tile peat r, hg.more km.frame (RegsOutside.of_regs (l := []) (km.frame .regs (by decide))) (by decide)
    (by simp), ?_, fun k => (slot tile peat r k).trans (if_pos ⟨rfl, rfl, rfl⟩),
    fun i p q k ne => ?_, fun k => ?_, ?_, rfl, State.resumeRegion_idle tile peat r⟩
  · unfold State.cregEn State.rb
    rw [State.reg_congr (km.frame .regs (by decide)), eg, fbit_cregWrite]
  · rw [slot i p q k, if_neg ?_, State.slot_congr (hg.1 .slots (by decide))]
    rintro ⟨rfl, rfl, e⟩
    exact ne (by rw [Fin.ext e])
  · rw [State.regionForgotten_cru, State.cru_congr (hg.1 .crus (by decide))]
  · rw [State.regionForgotten_rx, hg.1 .rx (by decide)]

theorem does_cregEnable_again (hn : s.cregEn tile peat r = true) (hf : v &&& cregFixed = s.reg (cregPage tile peat) (Reg.CREG_CTL r) &&& cregFixed) :
    Does (.cregEnable who tile peat r v) s (fun u => Writes (cregPage tile peat) (Reg.CREG_CTL r) [] [] s u ∧
      u.reg (cregPage tile peat) (Reg.CREG_CTL r) = s.reg (cregPage tile peat) (Reg.CREG_CTL r)) := by
  obtain ⟨g, hg, eg, ex⟩ := exec_cregWrite (en := true) (v := v) ha hr
  have ew : g.cregWritten s tile peat r v true = g := by
    unfold State.cregWritten
    simp [hn, hf]
  rw [ew] at ex
  exact ⟨g, ex, hg, eg.trans (cregWrite_same hn hf)⟩

theorem does_cregDisable_again (hn : s.cregEn tile peat r = false) : Does (.cregDisable who tile peat r v) s (fun u =>
    Writes (cregPage tile peat) (Reg.CREG_CTL r) [] [] s u ∧
    u.reg (cregPage tile peat) (Reg.CREG_CTL r) = mix cregMask (s.reg (cregPage tile peat) (Reg.CREG_CTL r)) (setBit v 0 false)) := by
  obtain ⟨g, hg, eg, ex⟩ := exec_cregWrite (en := false) (v := v) ha hr
  have ew : g.cregWritten s tile peat r v false = g := by
    unfold State.cregWritten
    simp [hn]
  rw [ew] at ex
  exact ⟨g, ex, hg, eg⟩
end

/-- Refused whatever the EN bit: INIT or TMO_NS would change while the region is enabled. -/
theorem State.cregWritten_changes {s : State} {tile : Nat} {peat : Bool} {r : Nat} {v : W64} (g : State) (en : Bool)
    (hn : s.cregEn tile peat r = true) (hf : v &&& cregFixed ≠ s.reg (cregPage tile peat) (Reg.CREG_CTL r) &&& cregFixed) :
    g.cregWritten s tile peat r v en = g.regionErr s tile peat (Reg.CREG_CTL r) := by
  unfold State.cregWritten
  simp [hn, hf]

theorem State.cregWritten_misfit {s : State} {tile : Nat} {peat : Bool} {r : Nat} {v : W64} (g : State) (hn : s.cregEn tile peat r = false)
    (hf : s.regionFits tile peat r = false) : g.cregWritten s tile peat r v true = g.regionErr s tile peat (Reg.CREG_CTL r) := by
  unfold State.cregWritten
  simp [hn, hf]

/-! ### The life of a channel slot -/

section
variable {s : State} {c : Claim}

theorem State.slot_takeSlot : (s.takeSlot c).slot c.tile c.peat c.reg c.slot = if c.write then .filling else .draining :=
  State.slot_setSlot_same ..

theorem State.slot_endClaims (hd : c.dead = false) (h : s.slot c.tile c.peat c.reg c.slot = if c.write then .filling else .draining) :
    (s.endClaims [c]).slot c.tile c.peat c.reg c.slot = if c.write then .full else .empty := by
  unfold State.endClaims State.endClaims
  simp only [hd, h, Bool.not_false, Bool.true_and, decide_true, if_true]
  exact State.slot_setSlot_same ..

theorem State.slot_revertClaims (hd : c.dead = false) (h : s.slot c.tile c.peat c.reg c.slot = if c.write then .filling else .draining) :
    (s.revertClaims [c]).slot c.tile c.peat c.reg c.slot = if c.write then .empty else .full := by
  unfold State.revertClaims State.revertClaims
  simp only [hd, h, Bool.not_false, Bool.true_and, decide_true, if_true]
  exact Store.get_set_same ..
end

/-! ### Writes of CSLOT_STATE -/

/-- What a write of a code does to a slot of an enabled region, by the state that it is in (R200). -/
def State.slotTold (g : State) (tile : Nat) (peat : Bool) (r n code : Nat) (now : SlotState) : State :=
  match now, code with
  | .empty, 0 | .full, 0 => g.setSlot tile peat r n .empty
  | .empty, 2 | .full, 2 => g.setSlot tile peat r n .full
  | _, _ => g.raise (cregPage tile peat) 3

theorem State.slotTold_sets (g : State) (tile : Nat) (peat : Bool) (r n : Nat) {code : Nat} {now : SlotState} (hs : now = .empty ∨ now = .full)
    (hc : code = 0 ∨ code = 2) : g.slotTold tile peat r n code now = g.setSlot tile peat r n (if code = 0 then .empty else .full) := by
  obtain rfl | rfl := hs
  all_goals
    obtain rfl | rfl := hc
    all_goals rfl

theorem State.slotTold_refuses (g : State) (tile : Nat) (peat : Bool) (r n : Nat) {code : Nat} {now : SlotState}
    (h : now = .filling ∨ now = .draining ∨ code = 1 ∨ code = 3) : g.slotTold tile peat r n code now = g.raise (cregPage tile peat) 3 := by
  obtain rfl | rfl | rfl | rfl := h
  · rfl
  · rfl
  all_goals
    cases now
    all_goals rfl

section
variable {who : Requester} {tile : TileIx} {peat : Bool} {v : W64} {s : State} {r n : Nat}
  (ha : s.admits who (cregPage tile peat) Reg.CSLOT_STATE = true)
  (er : s.rf (cregPage tile peat) Reg.CSLOT_SEL (if peat then 3 else 4) 0 = r)
  (en : s.rf (cregPage tile peat) Reg.CSLOT_SEL (if peat then 29 else 25) 16 = n)
include ha er en

theorem exec_cslotStateWrite :
    ∃ g, Writes (cregPage tile peat) Reg.CSLOT_STATE [] [] s g ∧ exec (.cslotStateWrite who tile peat v) s = .next (
      if !s.cregEn tile peat r || decide (s.cregCount tile peat r ≤ n) then g
      else g.slotTold tile peat r n (fld v 1 0) (s.slot tile peat r n)) := by
  obtain ⟨m, old, hm, -, hw⟩ := State.cregWrite_admits v ha (cslotState_fields tile peat) (by decide) (by decide) (by decide)
  have hg : Writes (cregPage tile peat) Reg.CSLOT_STATE [] [] s (m.setReg (cregPage tile peat) Reg.CSLOT_STATE 0) :=
    hm.more (State.setReg_kept ..).frame (RegsOutside.setReg _ _ _ _ (by decide)) (by decide) (by simp)
  have hr : r < 32 := by
    have : r < 2 ^ ((if peat then 3 else 4) + 1 - 0) := er ▸ Nat.mod_lt _ (by positivity)
    split at this <;> omega
  refine ⟨_, hg, ?_⟩
  show Host.Outcome.next (cslotHook (s.writeCore who (cregPage tile peat) Reg.CSLOT_STATE .b64 v) tile peat) = _
  rw [hw]
  have sel (hi lo : Nat) :
      (m.setReg (cregPage tile peat) Reg.CSLOT_STATE 0).rf (cregPage tile peat) Reg.CSLOT_SEL hi lo = s.rf (cregPage tile peat) Reg.CSLOT_SEL hi lo :=
    hg.2.rf hi lo (by decide) (by simp [Reg.CSLOT_SEL, Reg.CSLOT_STATE])
  have hmask : maskOf 1 0 ≠ 0 := by decide
  unfold cslotHook
  dsimp only
  rw [sel, sel, er, en, hg.2.cregEn hr (by unfold Reg.CREG_CTL Reg.CSLOT_STATE; omega),
    (hg.2.cregBase hr (by unfold Reg.CREG_BASE Reg.CSLOT_STATE; omega)).2, State.slot_congr (hg.1 .slots (by decide)), decide_eq_false hmask,
    Bool.false_or]
  rfl

theorem does_cslotStateWrite_outside (h : s.cregEn tile peat r = false ∨ s.cregCount tile peat r ≤ n) :
    Does (.cslotStateWrite who tile peat v) s (fun u => Writes (cregPage tile peat) Reg.CSLOT_STATE [] [] s u) := by
  obtain ⟨g, hg, ex⟩ := exec_cslotStateWrite (v := v) ha er en
  rw [if_pos (by simpa using h)] at ex
  exact ⟨g, ex, hg⟩

variable (hn : s.cregEn tile peat r = true) (hl : n < s.cregCount tile peat r)
include hn hl

theorem exec_cslotStateWrite_inside :
    ∃ g, Writes (cregPage tile peat) Reg.CSLOT_STATE [] [] s g ∧ exec (.cslotStateWrite who tile peat v) s = .next (
      g.slotTold tile peat r n (fld v 1 0) (s.slot tile peat r n)) := by
  obtain ⟨g, hg, ex⟩ := exec_cslotStateWrite (v := v) ha er en
  rw [if_neg (by simp [hn, hl])] at ex
  exact ⟨g, hg, ex⟩

theorem does_cslotStateWrite_sets (hs : s.slot tile peat r n = .empty ∨ s.slot tile peat r n = .full) (hc : fld v 1 0 = 0 ∨ fld v 1 0 = 2) :
    Does (.cslotStateWrite who tile peat v) s (fun u =>
      Writes (cregPage tile peat) Reg.CSLOT_STATE [.slots] [] s u ∧
      u.slots = Store.set .empty s.slots (slotKey tile peat r n) (if fld v 1 0 = 0 then .empty else .full)) := by
  obtain ⟨g, hg, ex⟩ := exec_cslotStateWrite_inside (v := v) ha er en hn hl
  rw [State.slotTold_sets _ _ _ _ _ hs hc] at ex
  refine ⟨_, ex, hg.more (State.setSlot_kept ..).frame (RegsOutside.of_regs (l := []) rfl) (by decide) (by simp), ?_⟩
  rw [← hg.1 .slots (by decide)]
  rfl

theorem does_cslotStateWrite_refused
    (h : s.slot tile peat r n = .filling ∨ s.slot tile peat r n = .draining ∨ fld v 1 0 = 1 ∨ fld v 1 0 = 3) :
    Does (.cslotStateWrite who tile peat v) s (fun u =>
      Writes (cregPage tile peat) Reg.CSLOT_STATE [.out, .fns] (evtRegs (cregPage tile peat)) s u ∧ Raised u (cregPage tile peat) 3) := by
  obtain ⟨g, hg, ex⟩ := exec_cslotStateWrite_inside (v := v) ha er en hn hl
  rw [State.slotTold_refuses _ _ _ _ _ h] at ex
  exact ⟨_, ex, hg.more ((State.raise_kept ..).mono (m := [.regs, .out, .fns]) rfl).frame (RegsOutside.raise _ _ _) (by decide)
    (fun x hx => List.mem_cons_of_mem _ hx), Raised.raise _ _ _ (by decide)⟩
end

/-- Settles O23: a write of CREG_CTL by the case that its hook takes, a slot's life by the transitions of its state, and a write of CSLOT_STATE by
the state and the code that it meets. -/
theorem channelRegions : Obligations.ChannelRegions := by
  unfold Obligations.ChannelRegions
  refine ⟨fun who tile peat r v s ha hr => ⟨does_cregEnable_fits ha hr,
    fun hn hf => does_cregWrite_refused (en := true) ha hr (State.cregWritten_misfit · hn hf), does_cregDisable ha hr,
    fun hn hf => ⟨does_cregWrite_refused (en := true) ha hr (State.cregWritten_changes · _ hn hf),
      does_cregWrite_refused (en := false) ha hr (State.cregWritten_changes · _ hn hf)⟩, does_cregEnable_again ha hr, does_cregDisable_again ha hr⟩,
    fun c who tile peat v s => ⟨fun hs hd => ?_, fun ha => ⟨does_cslotStateWrite_sets ha rfl rfl, does_cslotStateWrite_refused ha rfl rfl,
      does_cslotStateWrite_outside ha rfl rfl⟩⟩⟩
  exact ⟨by simpa [State.slotReady] using hs, State.slot_takeSlot, State.slot_endClaims hd State.slot_takeSlot,
    State.slot_revertClaims hd State.slot_takeSlot⟩

end Sys2Proof.Machine
end

section
/-! SUPPORT. Accesses of the mesh to a tile's pools and peat: their slots, their bytes and the errors that they meet (R191, R193, R198, R201). -/
namespace Sys2Proof.Machine
open Sys2Proof

/-! ### Slots depend on the slots and the places of their regions -/

theorem State.slots_setSlot (s : State) (i : Nat) (p : Bool) (r k : Nat) (x : SlotState) :
    (s.setSlot i p r k x).slots = Store.set .empty s.slots (Machine.slotKey i p r k) x := rfl

theorem State.endClaims_congr {s u : State} (h : u.slots = s.slots) (l : List Claim) : (u.endClaims l).slots = (s.endClaims l).slots := by
  induction l generalizing s u with
  | nil => exact h
  | cons c r ih =>
    unfold State.endClaims
    dsimp only
    rw [State.slot_congr h]
    refine ih ?_
    rw [apply_ite State.slots, apply_ite State.slots, State.slots_setSlot, State.slots_setSlot, h]

theorem State.touchClaims_congr {s u : State} {mem : Nat} (off n : Nat) (l : List Claim) (h : u.slots = s.slots)
    (hb : ∀ c : Claim, c.mem = mem → u.slotStart c = s.slotStart c) :
    (u.touchClaims mem off n l).1.slots = (s.touchClaims mem off n l).1.slots ∧ (u.touchClaims mem off n l).2 = (s.touchClaims mem off n l).2 := by
  have e : l.map (fun c => if c.mem = mem then { c with left := c.left - overlap off n (u.slotStart c) 4096 } else c) =
      l.map (fun c => if c.mem = mem then { c with left := c.left - overlap off n (s.slotStart c) 4096 } else c) := by
    refine List.map_congr_left fun c _ => ?_
    by_cases hc : c.mem = mem
    · rw [if_pos hc, if_pos hc, hb c hc]
    · rw [if_neg hc, if_neg hc]
  unfold State.touchClaims
  dsimp only
  rw [e]
  exact ⟨State.endClaims_congr h _, rfl⟩

theorem State.slotStart_congr {s u : State} {c : Claim}
    (h : u.reg (cregPage c.tile c.peat) (Reg.CREG_BASE c.reg) = s.reg (cregPage c.tile c.peat) (Reg.CREG_BASE c.reg)) :
    u.slotStart c = s.slotStart c := by
  unfold State.slotStart State.cregBase State.rf
  rw [h]

/-- Claims of readers given back lose no bytes. -/
theorem State.revertClaims_readers (s : State) {l : List Claim} (h : l.all (fun c => !c.write) = true) : Kept [.slots] s (s.revertClaims l) := by
  induction l generalizing s with
  | nil => exact Kept.refl _ s
  | cons c r ih =>
    rw [List.all_cons, Bool.and_eq_true, Bool.not_eq_true'] at h
    obtain ⟨hc, hr⟩ := h
    unfold State.revertClaims
    dsimp only
    simp only [hc, Bool.false_eq_true, if_false]
    refine Kept.step ?_ (ih _ hr) rfl
    split
    · exact Kept.slots ..
    · exact Kept.refl _ s

/-! ### Writes of a place -/

theorem placeOf_cru (a : Nat) : (placeOf a).cru < 4 := Nat.mod_lt _ (by decide)

theorem State.writePlace_bytes (s : State) (i : Nat) (pl : TilePlace) (bs : List Byte) :
    (s.writePlace i pl bs).pool = (if pl.pool then putBytes s.pool (poolKey i pl.cru pl.off) bs else s.pool) ∧
    (s.writePlace i pl bs).peat = (if pl.pool then s.peat else putBytes s.peat (peatKey i pl.off) bs) := by
  have kc := State.countPool_kept s i [(pl.off, bs.length)]
  unfold State.writePlace
  by_cases h : pl.pool = true
  · rw [if_pos h, if_pos h, if_pos h]
    exact ⟨congrArg (putBytes · (poolKey i pl.cru pl.off) bs) (kc.frame .pool (by decide)), kc.frame .peat (by decide)⟩
  · rw [if_neg h, if_neg h, if_neg h]
    exact ⟨rfl, rfl⟩

/-- The counters that a write of a place advances. -/
def writeRegs (i : Nat) : List (Nat × Nat) := [counter (poolPage i) 0, counter (poolPage i) 1, counter (peatPage i) 1]

theorem RegsOutside.writePlace (s : State) (i : Nat) (pl : TilePlace) (bs : List Byte) : RegsOutside (writeRegs i) s (s.writePlace i pl bs) := by
  unfold State.writePlace
  refine RegsOutside.thenIf (fun _ => ?_) (fun _ => ?_)
  · exact ((RegsOutside.countPool s i [(pl.off, bs.length)]).mono (by simp [writeRegs])).thenSame rfl
  · exact ((RegsOutside.refl _ s).thenSame rfl).thenBump _ _ _ (by decide) (by simp [writeRegs])

/-- A write counts on no register that places a region of the memory written. -/
theorem State.slotStart_writePlace (s : State) (i : Nat) {pl : TilePlace} (bs : List Byte) {c : Claim} (hp : pl.cru < 4) (hc : c.mem = pl.mem) :
    (s.writePlace i pl bs).slotStart c = s.slotStart c := by
  refine State.slotStart_congr ?_
  unfold Claim.mem TilePlace.mem at hc
  unfold State.writePlace
  by_cases h : pl.pool = true
  · rw [if_pos h] at hc ⊢
    refine RegsOutside.countPool s i [(pl.off, bs.length)] _ _ ?_ ?_
    · unfold Reg.CREG_BASE
      split at hc <;> omega
    · simp [counter, Reg.COUNTER, Reg.CREG_BASE]
      omega
  · rw [if_neg h]
    unfold State.writePeat State.bump State.setReg State.reg
    dsimp only
    rw [Store.get_set_other]
    unfold regKey Reg.COUNTER Reg.CREG_BASE
    omega

/-- Bytes written at a place, and the accesses of the slots that they complete ended. -/
def State.written (s : State) (i : Nat) (pl : TilePlace) (bs : List Byte) (l : List Claim) : State × List Claim :=
  (s.writePlace i pl bs).touchClaims pl.mem pl.off bs.length l

/-- The slots change as they would if the bytes were not stored. -/
theorem State.written_slots (s : State) (i : Nat) {pl : TilePlace} (bs : List Byte) (l : List Claim) (hp : pl.cru < 4) :
    (s.written i pl bs l).1.slots = (s.touchClaims pl.mem pl.off bs.length l).1.slots ∧
    (s.written i pl bs l).2 = (s.touchClaims pl.mem pl.off bs.length l).2 :=
  State.touchClaims_congr _ _ l ((State.writePlace_kept ..).frame .slots (by decide)) fun _ hc => State.slotStart_writePlace s i bs hp hc

theorem State.written_bytes (s : State) (i : Nat) (pl : TilePlace) (bs : List Byte) (l : List Claim) :
    (s.written i pl bs l).1.pool = (if pl.pool then putBytes s.pool (poolKey i pl.cru pl.off) bs else s.pool) ∧
    (s.written i pl bs l).1.peat = (if pl.pool then s.peat else putBytes s.peat (peatKey i pl.off) bs) := by
  have kt := State.touchClaims_keptP (s.writePlace i pl bs) pl.mem pl.off bs.length l
  obtain ⟨hp, hq⟩ := State.writePlace_bytes s i pl bs
  exact ⟨(kt.frame .pool (by decide)).trans hp, (kt.frame .peat (by decide)).trans hq⟩

theorem State.written_kept (s : State) (i : Nat) (pl : TilePlace) (bs : List Byte) (l : List Claim) :
    Kept [.regs, .pool, .peat, .poolBad, .peatBad, .slots] s (s.written i pl bs l).1 :=
  ((State.writePlace_kept ..).mono rfl).step (State.touchClaims_keptP ..) rfl

theorem RegsOutside.written (s : State) (i : Nat) (pl : TilePlace) (bs : List Byte) (l : List Claim) :
    RegsOutside (writeRegs i) s (s.written i pl bs l).1 :=
  (RegsOutside.writePlace s i pl bs).thenSame ((State.touchClaims_keptP ..).frame .regs (by decide))

theorem State.gate_meshGateAdd (s : State) (i j : TileIx) {n : Nat} (hn : n < 1024) (v : W32) (g : BitVec 10) :
    (s.meshGateAdd i n v).gate j g.toNat = s.gate j g.toNat + if j = i ∧ g.toNat = n then v else 0 := by
  have e : (BitVec.ofNat 10 n).toNat = n := by
    rw [BitVec.toNat_ofNat]
    exact Nat.mod_eq_of_lt hn
  have hg := State.gate_setGate s i j (BitVec.ofNat 10 n) g (s.gate i n + v)
  rw [e] at hg
  refine Eq.trans (State.gate_congr (s := s.addGate i n v) ((State.bump_kept ..).frame .gates (by decide)) j g.toNat) (hg.trans ?_)
  have eq : g = BitVec.ofNat 10 n ↔ g.toNat = n := by rw [← BitVec.toNat_inj, e]
  simp only [eq]
  split
  next h => rw [h.1, h.2]
  next => exact (add_zero _).symm

/-- The add to a gate that a move's last bytes may name. -/
theorem State.moveGate_spec (y : State) (i : TileIx) (b : Bool) {n : Nat} (hn : n < 1024) :
    let z := if b then y.meshGateAdd i n 1 else y
    Kept [.regs, .gates] y z ∧ RegsOutside [counter (gatePage i) 3] y z ∧
    ∀ (j : TileIx) (g : BitVec 10), z.gate j g.toNat = y.gate j g.toNat + (if b = true ∧ j = i ∧ g.toNat = n then 1 else 0) := by
  cases b with
  | false => exact ⟨Kept.refl _ y, RegsOutside.refl _ y, fun j g => by simp⟩
  | true =>
    refine ⟨State.meshGateAdd_kept .., ((RegsOutside.refl _ y).thenSame rfl).thenBump _ _ _ (by decide) (by simp), fun j g => ?_⟩
    simp only [true_and]
    exact State.gate_meshGateAdd y i j hn 1 g

/-! ### Records of moves -/

theorem State.rxOf_key (s : State) (i : Nat) (p : Packet) (n : Nat) : (s.rxOf i p n).1.src = p.src.toNat ∧ (s.rxOf i p n).1.tag = p.tag.toNat := by
  unfold State.rxOf
  dsimp only
  cases h : (Store.get [] s.rx i).find? (fun m => decide (m.src = p.src.toNat) && decide (m.tag = p.tag.toNat)) with
  | none => exact ⟨rfl, rfl⟩
  | some m => simpa using List.find?_some h

/-- The record of a move, put in place of the one that it had, is found whatever the bytes that a new one would expect. -/
theorem State.rxOf_put (s : State) (i : Nat) (p : Packet) (n : Nat) {m : RxMove} (hs : m.src = p.src.toNat) (ht : m.tag = p.tag.toNat) :
    ((s.setRx i ((s.rxOf i p n).2 ++ [m])).rxOf i p n).1 = m := by
  have hg (l : List RxMove) : Store.get [] (s.setRx i l).rx i = l := Store.get_set_same ..
  unfold State.rxOf
  dsimp only
  rw [hg, List.find?_append, find?_filter_not]
  simp [hs, ht]

/-! ### Packets of a move, their slots first -/

section
variable {s s1 : State} {i : TileIx} {p : Packet} {k n : Nat}

theorem State.rxReady_passes (h : s.rxReady i k n p = (true, s1)) : Kept [.slots, .rx] s s1 := by
  unfold State.rxReady at h
  dsimp only at h
  split at h
  · obtain ⟨-, rfl⟩ := Prod.mk.injEq .. ▸ h
    exact Kept.refl _ s
  · split at h
    · obtain ⟨-, rfl⟩ := Prod.mk.injEq .. ▸ h
      exact ((State.rxClaim_keptP ..).mono rfl).step (State.setRx_kept ..) rfl
    · simp at h

/-- A slot that is not ready: the packet is the last of the probe table. -/
theorem State.rxReady_parks (h : s.rxReady i (s.probesAt i).length n p = (false, s1)) :
    (s1.probesAt i).map (·.pkt) = (s.probesAt i).map (·.pkt) ++ [p] := by
  unfold State.rxReady at h
  dsimp only at h
  split at h
  · simp at h
  · split at h
    · simp at h
    · obtain ⟨-, rfl⟩ := Prod.mk.injEq .. ▸ h
      have e (t : State) (c : Claim) (ht : t.probes = s.probes) :
          ((t.parkProbe i (s.probesAt i).length p c).probesAt i).map (·.pkt) = (s.probesAt i).map (·.pkt) ++ [p] := by
        obtain ⟨-, -, -, hp⟩ := State.parkProbe_new t i p c
        rw [State.probesAt_congr ht i] at hp
        rw [hp, List.map_append]
        rfl
      exact e _ _ ((((State.rxClaim_keptP ..).mono (m := [.slots, .rx]) rfl).step (State.setRx_kept ..) rfl).frame .probes (by decide))
end

section
variable {s : State} {i : TileIx} {op : Nat} {p : Packet} {n : Nat} {go : Nat → State → State} (h : s.accepts i op p = true)
include h

theorem State.memWaits_accepted : s.memWaits p n = ((placeOf p.addr.toNat).inside n && !s.placeReady i (placeOf p.addr.toNat) n) := by
  have hd := (State.accepts_wf h).2.1
  have hc : (s.ejectCause i p).isNone = true := by
    unfold State.accepts at h
    exact (Bool.and_eq_true _ _ ▸ h).2
  unfold State.memWaits
  rw [hd, hc, Bool.true_and]

theorem State.incoming_waits (hi : (placeOf p.addr.toNat).inside n = true) (hr : s.placeReady i (placeOf p.addr.toNat) n = false) :
    s.incoming op p n go = s := by
  unfold State.incoming
  rw [State.memWaits_accepted h, hi, hr]
  rfl

variable (hm : s.moveParked i p = false)
  (hw : (placeOf p.addr.toNat).inside n = false ∨ s.placeReady i (placeOf p.addr.toNat) n = true)
include hm hw

theorem State.incoming_tries : s.incoming op p n go =
    if ((s.takePkt p).rxReady i (s.probesAt i).length n p).1 then go i ((s.takePkt p).rxReady i (s.probesAt i).length n p).2
    else ((s.takePkt p).rxReady i (s.probesAt i).length n p).2 := by
  have e : (s.memWaits p n || s.moveParked p.dst.toNat p) = false := by
    rw [(State.accepts_wf h).2.1, hm, State.memWaits_accepted h, Bool.or_false]
    obtain hw | hw := hw
    · rw [hw, Bool.false_and]
    · rw [hw, Bool.not_true, Bool.and_false]
  unfold State.incoming
  rw [e, if_neg (by decide), State.eject_accepted h]
  show (match (s.takePkt p).rxReady i (s.probesAt i).length n p with
    | (false, t) => t
    | (true, t) => go i t) = _
  obtain ⟨b, t⟩ := (s.takePkt p).rxReady i (s.probesAt i).length n p
  cases b <;> rfl

theorem State.incoming_goes {s1 : State} (hr : (s.takePkt p).rxReady i (s.probesAt i).length n p = (true, s1)) :
    s.incoming op p n go = go i s1 := by
  rw [State.incoming_tries h hm hw, hr]
  rfl

theorem State.incoming_parks {s1 : State} (hr : (s.takePkt p).rxReady i (s.probesAt i).length n p = (false, s1)) :
    s.incoming op p n go = s1 := by
  rw [State.incoming_tries h hm hw, hr]
  rfl
end

/-! ### Answers -/

theorem State.answered_nothing {s u : State} {i : TileIx} {p : Packet} (ha : u.arrivals = s.arrivals.erase p) (hn : u.net = s.net) :
    s.answered u i p [] := ⟨ha, [], by rw [hn, List.append_nil], .nil⟩

/-- An injection decides from the common registers of no page, and from the registers of the CETIS and POLDER pages. -/
theorem SendSame.of_pages {l : List (Nat × Nat)} {s u : State} (h : RegsOutside l s u)
    (hl : ∀ x ∈ l, x.2 < 0x100 ∨ (x.1 ≠ polderPage ∧ ∀ i, x.1 ≠ cetisPage i)) (hr : u.routes = s.routes) : SendSame s u := by
  have same (q o : Nat) (a : 0x100 ≤ o) (b : o < 4096) (hq : q = polderPage ∨ ∃ i, q = cetisPage i) : u.reg q o = s.reg q o := by
    refine h q o b fun c => ?_
    obtain ho | ⟨h1, h2⟩ := hl _ c
    · exact absurd ho (Nat.not_lt.mpr a)
    · obtain rfl | ⟨i, rfl⟩ := hq
      · exact h1 rfl
      · exact h2 i rfl
  have rf (i o hi lo : Nat) (a : 0x100 ≤ o) (b : o < 4096) : u.rf (cetisPage i) o hi lo = s.rf (cetisPage i) o hi lo := by
    unfold State.rf
    rw [same _ _ a b (.inr ⟨i, rfl⟩)]
  have rb (i o n : Nat) (a : 0x100 ≤ o) (b : o < 4096) : u.rb (cetisPage i) o n = s.rb (cetisPage i) o n := by
    unfold State.rb
    rw [same _ _ a b (.inr ⟨i, rfl⟩)]
  refine ⟨fun i => rf _ _ _ _ (by decide) (by decide), fun i => rb _ _ _ (by decide) (by decide), fun i p => rf _ _ _ _ (by decide) (by decide),
    fun i d => rf _ _ _ _ (by decide) (by decide), fun i => ?_, fun i k => congrArg _ (rb _ _ _ (by decide) (by decide)), hr⟩
  unfold State.live
  by_cases hi : i < 80
  · unfold State.tstate State.rf
    rw [same polderPage _ (by unfold Reg.TSTATE; omega) (by unfold Reg.TSTATE; omega) (.inl rfl)]
  · simp [hi]

/-! ### The words that a read checks -/

theorem State.placePoisoned_congr {s u : State} (h : u.poolBad = s.poolBad) (h' : u.peatBad = s.peatBad) (i : Nat) (pl : TilePlace) (n : Nat) :
    u.placePoisoned i pl n = s.placePoisoned i pl n := by
  unfold State.placePoisoned State.poolPoisoned State.peatPoisoned
  rw [h, h']

theorem State.readPlace_congr {s u : State} (h : u.pool = s.pool) (h' : u.peat = s.peat) (i : Nat) (pl : TilePlace) (n : Nat) :
    u.readPlace i pl n = s.readPlace i pl n := by
  unfold State.readPlace State.readPool State.readPeat
  rw [h, h']

/-- What a read of a place finds: a line with a mark is an uncorrectable error. -/
def readFinds (bad : Bool) (n : Nat) (e : EccResult) : EccResult := if bad then .uncorrectable else if n = 0 then .clean else e

/-- The page of the memory in which a place lies. -/
def placePage (i : Nat) (pl : TilePlace) : Nat := if pl.pool then poolPage i else peatPage i

/-- The counters that a read of a place advances. -/
def readCounters (i : Nat) : List (Nat × Nat) := [counter (poolPage i) 0, counter (poolPage i) 1, counter (peatPage i) 0]

/-- A read of a place, counted and checked. -/
def State.readChecked (t : State) (i : Nat) (pl : TilePlace) (n : Nat) (e : EccResult) : State :=
  let bad := t.placePoisoned i pl n
  (if pl.pool then t.countPool i [(pl.off, n)] else t.countPeatRead i pl.off n).placeEcc i pl
    (if !bad then pl.off else if pl.pool then t.poolBadAt i pl.cru pl.off n else t.peatBadAt i pl.off n) (readFinds bad n e) bad

theorem State.readChecked_kept (t : State) (i : Nat) (pl : TilePlace) (n : Nat) (e : EccResult) :
    Kept [.fresh, .regs, .fns, .out] t (t.readChecked i pl n e) := by
  unfold State.readChecked
  refine Kept.step (l := [.fresh, .regs, .fns, .out]) (s := if pl.pool then t.countPool i [(pl.off, n)] else t.countPeatRead i pl.off n) ?_
    (State.placeEcc_kept ..) rfl
  split
  · exact (State.countPool_kept ..).mono rfl
  · exact (State.countPeatRead_kept ..).mono rfl

theorem State.placeEcc_clean (s : State) (i : Nat) (pl : TilePlace) (off : Nat) (b : Bool) : s.placeEcc i pl off .clean b = s := by
  unfold State.placeEcc
  split <;> rfl

theorem State.placeEcc_corrected (s : State) (i : TileIx) (pl : TilePlace) (off : Nat) (sy : BitVec 8) (b : Bool) :
    ErrorNoted (placePage i pl) (if pl.pool then 2 else 4) 0 s (s.placeEcc i pl off (.corrected sy) b) := by
  unfold State.placeEcc placePage
  split
  · exact State.poolEcc_corrected ..
  · exact State.peatEcc_corrected ..

theorem State.placeEcc_uncorrectable (s : State) (i : TileIx) (pl : TilePlace) (off : Nat) (b : Bool) :
    ErrorNoted (placePage i pl) (if pl.pool then 3 else 5) 1 s (s.placeEcc i pl off .uncorrectable b) := by
  unfold State.placeEcc placePage
  split
  · exact (State.poolEcc_uncorrectable ..).1
  · exact (State.peatEcc_uncorrectable ..).1

theorem placePage_eq (i : Nat) (pl : TilePlace) : placePage i pl = tilePage i (if pl.pool then 5 else 6) := by
  unfold placePage
  split <;> rfl

theorem placePage_ne (i : TileIx) (pl : TilePlace) : placePage i pl ≠ polderPage ∧ ∀ j, placePage i pl ≠ cetisPage j := by
  rw [placePage_eq]
  unfold tilePage polderPage cetisPage tilePage
  split
  all_goals exact ⟨by omega, fun j => by omega⟩

theorem ErrorNoted.sendSame {s u : State} {i : TileIx} {pl : TilePlace} {k b : Nat} (h : ErrorNoted (placePage i pl) k b s u) :
    SendSame s u := by
  obtain ⟨f, r, -, -⟩ := h
  have hp := placePage_ne i pl
  refine SendSame.of_pages r ?_ (f .routes (by decide))
  simp [recordRegs, evtRegs_eq, counter, Reg.COUNTER, hp]

section
variable (t : State) (i : TileIx) (pl : TilePlace) (n : Nat)

theorem State.readCounted_regs :
    RegsOutside (readCounters i) t (if pl.pool then t.countPool i [(pl.off, n)] else t.countPeatRead i pl.off n) :=
  RegsOutside.thenIf (fun _ => (RegsOutside.countPool t i [(pl.off, n)]).mono (by simp [readCounters]))
    (fun _ => (RegsOutside.refl _ t).thenBump _ _ _ (by decide) (by simp [readCounters]))

theorem State.readCounted_sendSame : SendSame t (if pl.pool then t.countPool i [(pl.off, n)] else t.countPeatRead i pl.off n) := by
  refine SendSame.of_pages (State.readCounted_regs t i pl n) (by simp [readCounters, counter, Reg.COUNTER]) ?_
  split
  · exact (State.countPool_kept ..).frame .routes (by decide)
  · exact (State.countPeatRead_kept ..).frame .routes (by decide)

theorem readCounters_not {k : Nat} (hk : 2 ≤ k) : counter (placePage i pl) k ∉ readCounters i := by
  simp [readCounters, counter, Reg.COUNTER]
  omega

/-- An error noted after the read was counted. -/
theorem State.readCounted_noted {x : State} {k b : Nat}
    (h : ErrorNoted (placePage i pl) k b (if pl.pool then t.countPool i [(pl.off, n)] else t.countPeatRead i pl.off n) x) (hk : 2 ≤ k ∧ k < 16) :
    Raised x (placePage i pl) b ∧ Counts t x (placePage i pl) k 1 ∧ SendSame t x := by
  have hs := h.sendSame
  obtain ⟨-, -, hc, hr⟩ := h
  exact ⟨hr, hc.before (State.readCounted_regs t i pl n) (by omega) (readCounters_not i pl hk.1), (State.readCounted_sendSame t i pl n).trans hs⟩

variable {e : EccResult}

theorem State.readChecked_clean (h : readFinds (t.placePoisoned i pl n) n e = .clean) :
    RegsOutside (readCounters i) t (t.readChecked i pl n e) ∧ SendSame t (t.readChecked i pl n e) := by
  unfold State.readChecked
  dsimp only
  rw [h, State.placeEcc_clean]
  exact ⟨State.readCounted_regs t i pl n, State.readCounted_sendSame t i pl n⟩

theorem State.readChecked_corrected {sy : BitVec 8} (h : readFinds (t.placePoisoned i pl n) n e = .corrected sy) :
    Raised (t.readChecked i pl n e) (placePage i pl) 0 ∧ Counts t (t.readChecked i pl n e) (placePage i pl) (if pl.pool then 2 else 4) 1 ∧
      SendSame t (t.readChecked i pl n e) := by
  unfold State.readChecked
  dsimp only
  rw [h]
  exact State.readCounted_noted t i pl n (State.placeEcc_corrected ..) (by split <;> decide)

theorem State.readChecked_uncorrectable (h : readFinds (t.placePoisoned i pl n) n e = .uncorrectable) :
    Raised (t.readChecked i pl n e) (placePage i pl) 1 ∧ Counts t (t.readChecked i pl n e) (placePage i pl) (if pl.pool then 3 else 5) 1 ∧
      SendSame t (t.readChecked i pl n e) := by
  unfold State.readChecked
  dsimp only
  rw [h]
  exact State.readCounted_noted t i pl n (State.placeEcc_uncorrectable ..) (by split <;> decide)

theorem State.readChecked_sendSame : SendSame t (t.readChecked i pl n e) := by
  cases h : readFinds (t.placePoisoned i pl n) n e with
  | clean => exact (State.readChecked_clean t i pl n h).2
  | corrected sy => exact (State.readChecked_corrected t i pl n h).2.2
  | uncorrectable => exact (State.readChecked_uncorrectable t i pl n h).2.2
end

end Sys2Proof.Machine
end

section
/-! PROOF. Writes and reads of a tile over the mesh (R198, R201, R317, R332). -/
namespace Sys2Proof.Machine
open Sys2Proof

/-! ### WR packets that hold their slots -/

section
variable {t : State} {i : TileIx} {p : Packet} {pl : TilePlace} {total : Nat} {m : RxMove} {others : List RxMove}

theorem State.doWr_outside (h : (placeOf p.addr.toNat).inside p.payload.length = false) :
    t.doWr i p = t.tileReply i p opRefuse p.addr.toNat 1 [] := by
  unfold State.doWr
  dsimp only
  rw [h]
  rfl

variable (hin : pl.inside p.payload.length = true) (epl : placeOf p.addr.toNat = pl) (et : bits p.operand.toNat 47 0 = total)
  (em : t.rxOf i p total = (m, others))
include hin epl et em

/-- Bytes before the last of a move: counted in the move's record. -/
theorem State.doWr_more (hd : m.dead = false) (hc : m.bytes + p.payload.length < total) :
    let x := t.written i pl p.payload m.claims
    t.doWr i p = x.1.setRx i (others ++ [{ m with bytes := m.bytes + p.payload.length, total := total, claims := x.2 }]) := by
  unfold State.doWr
  dsimp only
  rw [epl, et, em, hin]
  dsimp only
  rw [hd, if_pos hc]
  rfl

/-- The last bytes of a move: its slot accesses end, the gate is added to, and the answer leaves. -/
theorem State.doWr_last (hd : m.dead = false) (hc : total ≤ m.bytes + p.payload.length) :
    let x := t.written i pl p.payload m.claims
    let y := (x.1.setRx i others).endClaims x.2
    t.doWr i p = (if bit p.operand.toNat 58 then y.meshGateAdd i (bits p.operand.toNat 57 48) 1 else y).tileReply i p opMoveDone 0 total [] := by
  unfold State.doWr
  dsimp only
  rw [epl, et, em, hin]
  dsimp only
  rw [hd, if_neg (Nat.not_lt.mpr hc)]
  rfl

/-- Bytes of a move whose instruction was aborted change slots and records alone. -/
theorem State.doWr_dead (hd : m.dead = true) : Kept [.slots, .rx] t (t.doWr i p) := by
  have kx := (State.touchClaims_keptP t pl.mem pl.off p.payload.length m.claims).mono (m := [.slots, .rx]) rfl
  unfold State.doWr
  dsimp only
  rw [epl, et, em, hin]
  dsimp only
  rw [hd, if_neg (by decide), if_pos rfl]
  split
  · exact kx.step (State.setRx_kept ..) rfl
  · exact (kx.step (State.setRx_kept ..) rfl).step (State.endClaims_kept ..) rfl
end

/-! ### RD packets that hold their slots -/

section
variable {t : State} {i : TileIx} {p : Packet} {pl : TilePlace} {n : Nat} {e : EccResult} (epl : placeOf p.addr.toNat = pl)
  (en : bits p.operand.toNat 15 0 = n)
include epl en

theorem State.doRd_refused (h : pl.inside n = false ∨ 4096 < n) : t.doRd i p e = t.tileReply i p opRefuse p.addr.toNat 1 [] := by
  unfold State.doRd
  dsimp only
  rw [epl, en, if_pos (by simpa using h)]

variable (hin : pl.inside n = true) (hn : n ≤ 4096)
include hin hn

/-- A read that meets an uncorrectable error: its claims are given back, and it is refused. -/
theorem State.doRd_bad (he : readFinds (t.placePoisoned i pl n) n e = .uncorrectable) :
    t.doRd i p e = (((t.readChecked i pl n e).setRx i (t.rxOf i p 0).2).revertClaims (t.rxOf i p 0).1.claims).tileReply i p
      opRefuse p.addr.toNat 1 [] := by
  unfold State.doRd
  dsimp only
  rw [epl, en, if_neg (by simp [hin, hn])]
  exact if_pos he

/-- A read that meets none: the slots that it has touched change, and the data leaves. -/
theorem State.doRd_data (he : readFinds (t.placePoisoned i pl n) n e ≠ .uncorrectable) :
    ∃ x, Kept [.slots, .rx] (t.readChecked i pl n e) x ∧
      t.doRd i p e = x.tileReply i p opRdData (bits p.operand.toNat 63 16) n (x.readPlace i pl n) := by
  obtain ⟨y, hy⟩ : ∃ y, y = (t.readChecked i pl n e).touchClaims pl.mem pl.off n (t.rxOf i p 0).1.claims := ⟨_, rfl⟩
  have ky : Kept [.slots, .rx] (t.readChecked i pl n e) y.1 := hy ▸ (State.touchClaims_keptP ..).mono rfl
  refine ⟨if (t.rxOf i p 0).1.total = 0 then y.1
    else if (t.rxOf i p 0).1.bytes + n < (t.rxOf i p 0).1.total then
      y.1.setRx i ((t.rxOf i p 0).2 ++ [{ (t.rxOf i p 0).1 with bytes := (t.rxOf i p 0).1.bytes + n, claims := y.2 }])
    else (y.1.setRx i (t.rxOf i p 0).2).endClaims y.2, ?_, ?_⟩
  · split
    · exact ky
    · split
      · exact ky.step (State.setRx_kept ..) rfl
      · exact (ky.step (State.setRx_kept ..) rfl).step (State.endClaims_kept ..) rfl
  · rw [hy]
    unfold State.doRd
    dsimp only
    rw [epl, en, if_neg (by simp [hin, hn])]
    exact if_neg he
end

theorem readFinds_bad {bad : Bool} {n : Nat} {e : EccResult} (h : (bad || (decide (e = .uncorrectable) && decide (n ≠ 0))) = true) :
    readFinds bad n e = .uncorrectable := by
  unfold readFinds
  cases bad
  · simp only [Bool.false_or, Bool.and_eq_true, decide_eq_true_eq] at h
    simp [h.1, h.2]
  · rfl

theorem readFinds_good {bad : Bool} {n : Nat} {e : EccResult} (h : (bad || (decide (e = .uncorrectable) && decide (n ≠ 0))) = false) :
    readFinds bad n e = if n = 0 then .clean else e := by
  unfold readFinds
  simp only [Bool.or_eq_false_iff] at h
  rw [h.1]
  rfl

theorem readFinds_good_ne {bad : Bool} {n : Nat} {e : EccResult} (h : (bad || (decide (e = .uncorrectable) && decide (n ≠ 0))) = false) :
    readFinds bad n e ≠ .uncorrectable := by
  rw [readFinds_good h]
  simp only [Bool.or_eq_false_iff, Bool.and_eq_false_iff, decide_eq_false_iff_not] at h
  split
  · simp
  · rename_i hn
    exact h.2.resolve_right (fun c => c hn)

/-! ### The state in which a packet's slots are claimed -/

section
variable {s s1 : State} {i : TileIx} {p : Packet} {k n : Nat} (h : (s.takePkt p).rxReady i k n p = (true, s1))
include h

theorem State.claimed_kept : Kept [.arrivals, .slots, .rx] s s1 :=
  ((State.takePkt_kept s p).mono rfl).step (State.rxReady_passes h) rfl

theorem State.claimed_arrivals : s1.arrivals = s.arrivals.erase p := (State.rxReady_passes h).frame .arrivals (by decide)

theorem State.claimed_sendSame : SendSame s s1 :=
  SendSame.of_outside (l := []) (RegsOutside.of_regs ((State.claimed_kept h).frame .regs (by decide))) (by simp)
    ((State.claimed_kept h).frame .routes (by decide))

/-- A reply, after a state that keeps the mesh and the packets delivered. -/
theorem State.claimed_replies {x : State} {op addr operand : Nat} {payload : List Byte} {l : List Field} (hk : Frame l s1 x) (hs : SendSame s1 x)
    (ha : Field.arrivals ∉ l) (hn : Field.net ∉ l) (hc : s.canSend i (replyTo p op addr operand payload) = true) (ho : opDefined (op % 256) = true) :
    s.answered (x.tileReply i p op addr operand payload) i p [replyTo p op addr operand payload] ∧
      Frame [.net, .regs, .ports] x (x.tileReply i p op addr operand payload) ∧
      RegsOutside [counter (cetisPage i) 10] x (x.tileReply i p op addr operand payload) := by
  obtain ⟨h1, h2, h3⟩ := State.tileReply_sent ((State.claimed_sendSame h).trans hs) hc ho
    ((hk .net hn).trans ((State.claimed_kept h).frame .net (by decide)))
  exact ⟨⟨(h2 .arrivals (by decide)).trans ((hk .arrivals ha).trans (State.claimed_arrivals h)), h1⟩, h2, h3⟩
end

/-- The reply to a read: no byte and no mark of the memories changes, and the check of its words stays on their page. -/
theorem State.claimed_answers_read {s s1 : State} {i : TileIx} {p : Packet} {k n : Nat} (h : (s.takePkt p).rxReady i k n p = (true, s1))
    {pl : TilePlace} {e : EccResult} {y : State} {op addr operand : Nat} {payload : List Byte} (hy : Kept [.slots, .rx] (s1.readChecked i pl n e) y)
    (hc : s.canSend i (replyTo p op addr operand payload) = true) (ho : opDefined (op % 256) = true) :
    let u := y.tileReply i p op addr operand payload
    (u.pool = s.pool ∧ u.peat = s.peat ∧ u.poolBad = s.poolBad ∧ u.peatBad = s.peatBad) ∧ s.answered u i p [replyTo p op addr operand payload] ∧
      RegsOutside [counter (cetisPage i) 10] (s1.readChecked i pl n e) u := by
  intro u
  have f1 := (State.claimed_kept h).frame
  have ry : RegsOutside [] (s1.readChecked i pl n e) y := RegsOutside.of_regs (hy.frame .regs (by decide))
  have sy : SendSame s1 y :=
    (State.readChecked_sendSame s1 i pl n).trans (SendSame.of_outside ry (by simp) (hy.frame .routes (by decide)))
  have fy : Frame [.fresh, .regs, .fns, .out, .slots, .rx] s1 y := (((State.readChecked_kept s1 i pl n e).mono rfl).step hy rfl).frame
  obtain ⟨an, fu, ru⟩ := State.claimed_replies h fy sy (by decide) (by decide) hc ho
  have fs : Frame [.arrivals, .fresh, .regs, .fns, .out, .slots, .rx, .net, .ports] s u := (f1.mono rfl).trans ((fy.mono rfl).trans (fu.mono rfl))
  exact ⟨⟨fs .pool (by decide), fs .peat (by decide), fs .poolBad (by decide), fs .peatBad (by decide)⟩, an, (ry.mono (by simp)).trans ru⟩

/-- What a read's check notes stands after its reply. -/
theorem noted_after_reply {s s1 x u : State} {i : TileIx} {pl : TilePlace} {k b : Nat} (hs : s1.regs = s.regs) (hr : Raised x (placePage i pl) b)
    (hc : Counts s1 x (placePage i pl) k 1) (hu : RegsOutside [counter (cetisPage i) 10] x u) (hk : k < 16) :
    Raised u (placePage i pl) b ∧ Counts s u (placePage i pl) k 1 := by
  have hne := (placePage_ne i pl).2 i
  exact ⟨hr.outside hu (by simp [counter, hne]), (hc.before (RegsOutside.of_regs (l := []) hs) (by omega) (by simp)).after hu (by omega)
    (by simp [counter, hne])⟩

/-! ### WR packets -/

/-- The registers that a WR packet may write. -/
def wrRegs (i : Nat) : List (Nat × Nat) :=
  [counter (poolPage i) 0, counter (poolPage i) 1, counter (peatPage i) 0, counter (peatPage i) 1, counter (gatePage i) 3, counter (cetisPage i) 10]

section
variable {i : TileIx} {p : Packet} {s s1 : State} (ha : s.accepts i opWr p = true)
include ha

theorem exec_wr : exec (.wr p) s = .next (s.incoming opWr p p.payload.length (fun tile t => t.doWr tile p)) := by
  show execWr p s = _
  unfold execWr
  rw [(State.accepts_wf ha).1]
  rfl

theorem does_wr_waits (hi : (placeOf p.addr.toNat).inside p.payload.length = true)
    (hr : s.placeReady i (placeOf p.addr.toNat) p.payload.length = false) : Does (.wr p) s (fun u => u = s) :=
  ⟨_, exec_wr ha, State.incoming_waits ha hi hr⟩

variable (hm : s.moveParked i p = false)
include hm

theorem does_wr_outside (hi : (placeOf p.addr.toNat).inside p.payload.length = false)
    (hc : (s.takePkt p).rxReady i (s.probesAt i).length p.payload.length p = (true, s1))
    (hs : s.canSend i (replyTo p opRefuse p.addr.toNat 1 []) = true) :
    Does (.wr p) s (fun u => u.pool = s.pool ∧ u.peat = s.peat ∧ RegsOutside [counter (cetisPage i) 10] s u ∧
      s.answered u i p [replyTo p opRefuse p.addr.toNat 1 []]) := by
  have f1 := (State.claimed_kept hc).frame
  obtain ⟨an, fu, ru⟩ := State.claimed_replies hc (Kept.refl [] s1).frame (SendSame.refl s1) (by decide) (by decide) hs (by decide)
  refine ⟨_, ?_, ?_, ?_, (RegsOutside.of_regs (f1 .regs (by decide))).trans ru, an⟩
  · exact (exec_wr ha).trans (congrArg _ ((State.incoming_goes ha hm (.inl hi) hc).trans (State.doWr_outside hi)))
  · exact (fu .pool (by decide)).trans (f1 .pool (by decide))
  · exact (fu .peat (by decide)).trans (f1 .peat (by decide))

variable {pl : TilePlace} (epl : placeOf p.addr.toNat = pl) (hi : pl.inside p.payload.length = true)
  (hr : s.placeReady i pl p.payload.length = true)
include epl hr

theorem does_wr_parks (hc : (s.takePkt p).rxReady i (s.probesAt i).length p.payload.length p = (false, s1)) :
    Does (.wr p) s (fun u => u = s1 ∧ u.pool = s.pool ∧ u.peat = s.peat ∧ s.answered u i p [] ∧
      (u.probesAt i).map (·.pkt) = (s.probesAt i).map (·.pkt) ++ [p]) := by
  subst epl
  have f := (((State.takePkt_kept s p).mono (m := [.arrivals, .regs, .slots, .probes, .rx]) rfl).step (State.rxReady_kept hc) rfl).frame
  exact ⟨s1, (exec_wr ha).trans (congrArg _ (State.incoming_parks ha hm (.inr hr) hc)), rfl, f .pool (by decide), f .peat (by decide),
    State.answered_nothing ((State.rxReady_kept hc).frame .arrivals (by decide)) (f .net (by decide)), State.rxReady_parks (s := s.takePkt p) hc⟩

variable (hc : (s.takePkt p).rxReady i (s.probesAt i).length p.payload.length p = (true, s1))
include hc

theorem exec_wr_goes : exec (.wr p) s = .next (s1.doWr i p) := by
  subst epl
  exact (exec_wr ha).trans (congrArg _ (State.incoming_goes ha hm (.inr hr) hc))

variable {total : Nat} (et : bits p.operand.toNat 47 0 = total) {m : RxMove} {others : List RxMove} (em : s1.rxOf i p total = (m, others))
include hi et em

theorem does_wr_dead (hd : m.dead = true) :
    Does (.wr p) s (fun u => u.pool = s.pool ∧ u.peat = s.peat ∧ u.gates = s.gates ∧ u.regs = s.regs ∧ s.answered u i p []) := by
  have kd := State.doWr_dead hi epl et em hd
  have f := ((State.claimed_kept hc).step kd rfl).frame
  exact ⟨_, exec_wr_goes ha hm epl hr hc, f .pool (by decide), f .peat (by decide), f .gates (by decide), f .regs (by decide),
    State.answered_nothing ((kd.frame .arrivals (by decide)).trans (State.claimed_arrivals hc)) (f .net (by decide))⟩

variable (hd : m.dead = false)
include hd

theorem does_wr_more (hb : m.bytes + p.payload.length < total) :
    let touched := s1.touchClaims pl.mem pl.off p.payload.length m.claims
    Does (.wr p) s (fun u => (u.pool = (if pl.pool then putBytes s.pool (poolKey i pl.cru pl.off) p.payload else s.pool) ∧
        u.peat = (if pl.pool then s.peat else putBytes s.peat (peatKey i pl.off) p.payload)) ∧
      RegsOutside (wrRegs i) s u ∧ s.answered u i p [] ∧ u.gates = s.gates ∧ u.slots = touched.1.slots ∧
      (u.rxOf i p total).1 = { m with bytes := m.bytes + p.payload.length, total := total, claims := touched.2 }) := by
  intro touched
  have f1 := (State.claimed_kept hc).frame
  have eu := State.doWr_more hi epl et em hd hb
  obtain ⟨es, ec⟩ := State.written_slots s1 i p.payload m.claims (epl ▸ placeOf_cru _)
  obtain ⟨ep, eq⟩ := State.written_bytes s1 i pl p.payload m.claims
  have kx := State.written_kept s1 i pl p.payload m.claims
  have rx := RegsOutside.written s1 i pl p.payload m.claims
  dsimp only at eu
  rw [ec] at eu
  generalize (s1.written i pl p.payload m.claims).1 = x at *
  have ko : x.rxOf i p total = (m, others) := (State.rxOf_congr (kx.frame .rx (by decide)) i p total).trans em
  have fu : Frame [.rx] x (s1.doWr i p) := eu ▸ (State.setRx_kept ..).frame
  refine ⟨_, exec_wr_goes ha hm epl hr hc, ⟨?_, ?_⟩, ?_, State.answered_nothing ?_ ?_, ?_, ?_, ?_⟩
  · rw [fu .pool (by decide), ep, f1 .pool (by decide)]
  · rw [fu .peat (by decide), eq, f1 .peat (by decide)]
  · exact (RegsOutside.of_regs (f1 .regs (by decide))).trans ((rx.mono (by simp [writeRegs, wrRegs])).thenSame (fu .regs (by decide)))
  · exact (fu .arrivals (by decide)).trans ((kx.frame .arrivals (by decide)).trans (State.claimed_arrivals hc))
  · exact (fu .net (by decide)).trans ((kx.frame .net (by decide)).trans (f1 .net (by decide)))
  · exact (fu .gates (by decide)).trans ((kx.frame .gates (by decide)).trans (f1 .gates (by decide)))
  · exact (fu .slots (by decide)).trans es
  · obtain ⟨k1, k2⟩ := State.rxOf_key s1 i p total
    rw [em] at k1 k2
    rw [eu, show others = (x.rxOf i p total).2 by rw [ko]]
    exact State.rxOf_put x i p total k1 k2

theorem does_wr_last (hb : total ≤ m.bytes + p.payload.length) (hs : s.canSend i (replyTo p opMoveDone 0 total []) = true) :
    let touched := s1.touchClaims pl.mem pl.off p.payload.length m.claims
    Does (.wr p) s (fun u => (u.pool = (if pl.pool then putBytes s.pool (poolKey i pl.cru pl.off) p.payload else s.pool) ∧
        u.peat = (if pl.pool then s.peat else putBytes s.peat (peatKey i pl.off) p.payload)) ∧
      RegsOutside (wrRegs i) s u ∧ s.answered u i p [replyTo p opMoveDone 0 total []] ∧
      u.slots = (touched.1.endClaims touched.2).slots ∧
      ∀ (j : TileIx) (g : BitVec 10), u.gate j g.toNat =
        s.gate j g.toNat + (if bit p.operand.toNat 58 = true ∧ j = i ∧ g.toNat = bits p.operand.toNat 57 48 then 1 else 0)) := by
  intro touched
  have f1 := (State.claimed_kept hc).frame
  have eu := State.doWr_last hi epl et em hd hb
  obtain ⟨es, ec⟩ := State.written_slots s1 i p.payload m.claims (epl ▸ placeOf_cru _)
  obtain ⟨ep, eq⟩ := State.written_bytes s1 i pl p.payload m.claims
  have kx := State.written_kept s1 i pl p.payload m.claims
  have rx := RegsOutside.written s1 i pl p.payload m.claims
  dsimp only at eu
  rw [ec] at eu
  generalize (s1.written i pl p.payload m.claims).1 = x at *
  obtain ⟨y, hy⟩ : ∃ y, y = (x.setRx i others).endClaims touched.2 := ⟨_, rfl⟩
  have ky : Kept [.rx, .slots] x y := by
    rw [hy]
    exact ((State.setRx_kept ..).mono rfl).step (State.endClaims_kept ..) rfl
  have sy : y.slots = (touched.1.endClaims touched.2).slots := by
    rw [hy]
    exact State.endClaims_congr (u := x.setRx i others) es _
  obtain ⟨z, hz⟩ : ∃ z, z = if bit p.operand.toNat 58 then y.meshGateAdd i (bits p.operand.toNat 57 48) 1 else y := ⟨_, rfl⟩
  obtain ⟨kz, rz, gz⟩ := State.moveGate_spec y i (bit p.operand.toNat 58) (n := bits p.operand.toNat 57 48) (Nat.mod_lt _ (by decide))
  rw [← hz] at kz rz gz
  replace eu : s1.doWr i p = z.tileReply i p opMoveDone 0 total [] := by rw [eu, hz, hy]
  have fz : Frame [.regs, .pool, .peat, .poolBad, .peatBad, .slots, .rx, .gates] s1 z := (((kx.mono rfl).step ky rfl).step kz rfl).frame
  have r1 : RegsOutside (wrRegs i) s1 z := ((rx.mono (by simp [writeRegs, wrRegs])).thenSame (ky.frame .regs (by decide))).trans
    (rz.mono (by simp [wrRegs]))
  have sz : SendSame s1 z := SendSame.of_outside r1 (by simp [wrRegs, counter, Reg.COUNTER]) (fz .routes (by decide))
  obtain ⟨an, fu, ru⟩ := State.claimed_replies hc fz sz (by decide) (by decide) hs (by decide)
  rw [← eu] at an fu ru
  refine ⟨_, exec_wr_goes ha hm epl hr hc, ⟨?_, ?_⟩, ?_, an, ?_, fun j g => ?_⟩
  · rw [fu .pool (by decide), kz.frame .pool (by decide), ky.frame .pool (by decide), ep, f1 .pool (by decide)]
  · rw [fu .peat (by decide), kz.frame .peat (by decide), ky.frame .peat (by decide), eq, f1 .peat (by decide)]
  · exact (RegsOutside.of_regs (f1 .regs (by decide))).trans (r1.trans (ru.mono (by simp [wrRegs])))
  · rw [fu .slots (by decide), kz.frame .slots (by decide), sy]
  · rw [State.gate_congr (fu .gates (by decide)), gz, State.gate_congr (ky.frame .gates (by decide)), State.gate_congr (kx.frame .gates (by decide)),
      State.gate_congr (f1 .gates (by decide))]
end

/-! ### RD packets -/

section
variable {i : TileIx} {p : Packet} {e : EccResult} {s s1 : State} {pl : TilePlace} {n : Nat} (ha : s.accepts i opRd p = true)
  (en : bits p.operand.toNat 15 0 = n)
include ha en

theorem exec_rd : exec (.rd p e) s = .next (s.incoming opRd p n (fun tile t => t.doRd tile p e)) := by
  show execRd p e s = _
  unfold execRd
  rw [(State.accepts_wf ha).1, en]
  rfl

variable (epl : placeOf p.addr.toNat = pl)
include epl

theorem does_rd_waits (hi : pl.inside n = true) (hr : s.placeReady i pl n = false) : Does (.rd p e) s (fun u => u = s) := by
  subst epl
  exact ⟨_, exec_rd ha en, State.incoming_waits ha hi hr⟩

variable (hm : s.moveParked i p = false) (hc : (s.takePkt p).rxReady i (s.probesAt i).length n p = (true, s1))
include hm hc

theorem exec_rd_goes (hw : pl.inside n = false ∨ s.placeReady i pl n = true) : exec (.rd p e) s = .next (s1.doRd i p e) := by
  subst epl
  exact (exec_rd ha en).trans (congrArg _ (State.incoming_goes ha hm hw hc))

theorem does_rd_refused (hs : s.canSend i (replyTo p opRefuse p.addr.toNat 1 []) = true)
    (hw : pl.inside n = false ∨ (4096 < n ∧ s.placeReady i pl n = true)) :
    Does (.rd p e) s (fun u => (u.pool = s.pool ∧ u.peat = s.peat ∧ u.poolBad = s.poolBad ∧ u.peatBad = s.peatBad) ∧
      s.answered u i p [replyTo p opRefuse p.addr.toNat 1 []] ∧ RegsOutside [counter (cetisPage i) 10] s u) := by
  have f1 := (State.claimed_kept hc).frame
  obtain ⟨an, fu, ru⟩ := State.claimed_replies hc (Kept.refl [] s1).frame (SendSame.refl s1) (by decide) (by decide) hs (by decide)
  refine ⟨_, (exec_rd_goes ha en epl hm hc (hw.imp_right And.right)).trans (congrArg _ (State.doRd_refused epl en (hw.imp_right And.left))),
    ⟨?_, ?_, ?_, ?_⟩, an, (RegsOutside.of_regs (f1 .regs (by decide))).trans ru⟩
  · exact (fu .pool (by decide)).trans (f1 .pool (by decide))
  · exact (fu .peat (by decide)).trans (f1 .peat (by decide))
  · exact (fu .poolBad (by decide)).trans (f1 .poolBad (by decide))
  · exact (fu .peatBad (by decide)).trans (f1 .peatBad (by decide))

variable (hi : pl.inside n = true) (hn : n ≤ 4096) (hr : s.placeReady i pl n = true)
include hi hn hr

theorem does_rd_bad (hl : (s1.rxOf i p 0).1.claims.all (fun c => !c.write) = true) (hs : s.canSend i (replyTo p opRefuse p.addr.toNat 1 []) = true)
    (hb : (s.placePoisoned i pl n || (decide (e = .uncorrectable) && decide (n ≠ 0))) = true) :
    Does (.rd p e) s (fun u => (u.pool = s.pool ∧ u.peat = s.peat ∧ u.poolBad = s.poolBad ∧ u.peatBad = s.peatBad) ∧
      s.answered u i p [replyTo p opRefuse p.addr.toNat 1 []] ∧ Raised u (placePage i pl) 1 ∧
      Counts s u (placePage i pl) (if pl.pool then 3 else 5) 1) := by
  have f1 := (State.claimed_kept hc).frame
  rw [← State.placePoisoned_congr (f1 .poolBad (by decide)) (f1 .peatBad (by decide))] at hb
  have he := readFinds_bad hb
  obtain ⟨hr1, hc1, -⟩ := State.readChecked_uncorrectable s1 i pl n he
  obtain ⟨same, an, ru⟩ := State.claimed_answers_read (e := e) (pl := pl) hc
    (((State.setRx_kept _ i (s1.rxOf i p 0).2).mono rfl).step (State.revertClaims_readers _ hl) rfl) hs (by decide)
  rw [← State.doRd_bad epl en hi hn he] at same an ru
  exact ⟨_, exec_rd_goes ha en epl hm hc (.inr hr), same, an, noted_after_reply (f1 .regs (by decide)) hr1 hc1 ru (by split <;> decide)⟩

theorem does_rd_data (hs : s.canSend i (replyTo p opRdData (bits p.operand.toNat 63 16) n (s.readPlace i pl n)) = true)
    (hb : (s.placePoisoned i pl n || (decide (e = .uncorrectable) && decide (n ≠ 0))) = false) :
    Does (.rd p e) s (fun u => (u.pool = s.pool ∧ u.peat = s.peat ∧ u.poolBad = s.poolBad ∧ u.peatBad = s.peatBad) ∧
      s.answered u i p [replyTo p opRdData (bits p.operand.toNat 63 16) n (s.readPlace i pl n)] ∧
      (e = .clean → RegsOutside (readCounters i ++ [counter (cetisPage i) 10]) s u) ∧
      (∀ sy, e = .corrected sy → n ≠ 0 → Raised u (placePage i pl) 0 ∧ Counts s u (placePage i pl) (if pl.pool then 2 else 4) 1)) := by
  have f1 := (State.claimed_kept hc).frame
  rw [← State.placePoisoned_congr (f1 .poolBad (by decide)) (f1 .peatBad (by decide))] at hb
  obtain ⟨x, kx, eu⟩ := State.doRd_data epl en hi hn (readFinds_good_ne hb)
  have fx := (((State.readChecked_kept s1 i pl n e).mono (m := [.fresh, .regs, .fns, .out, .slots, .rx]) rfl).step kx rfl).frame
  rw [State.readPlace_congr ((fx .pool (by decide)).trans (f1 .pool (by decide))) ((fx .peat (by decide)).trans (f1 .peat (by decide)))] at eu
  obtain ⟨same, an, ru⟩ := State.claimed_answers_read hc kx hs (by decide)
  rw [← eu] at same an ru
  refine ⟨_, exec_rd_goes ha en epl hm hc (.inr hr), same, an, fun he => ?_, fun sy he h0 => ?_⟩
  · obtain ⟨rc, -⟩ := State.readChecked_clean s1 i pl n (e := e) (by rw [readFinds_good hb, he, ite_self])
    exact (RegsOutside.of_regs (f1 .regs (by decide))).trans (rc.comp ru)
  · obtain ⟨hr1, hc1, -⟩ := State.readChecked_corrected s1 i pl n (e := e) (sy := sy) (by rw [readFinds_good hb, if_neg h0, he])
    exact noted_after_reply (f1 .regs (by decide)) hr1 hc1 ru (by split <;> decide)
end

/-- Settles O24: a packet whose slots are claimed finds the memory, the gates and the mesh as they were, and then a WR or an RD does what its own
case says. -/
theorem meshAccesses : Obligations.MeshAccesses := by
  unfold Obligations.MeshAccesses
  refine ⟨fun i p s s1 ha hm => ⟨fun hi hr hc hd => ⟨does_wr_more ha hm rfl hi hr hc rfl rfl hd, does_wr_last ha hm rfl hi hr hc rfl rfl hd⟩,
      fun hi hr hc hd => does_wr_dead ha hm rfl hi hr hc rfl rfl hd, fun _ hr hc => does_wr_parks ha hm rfl hr hc, does_wr_outside ha hm,
      does_wr_waits ha⟩,
    fun i p e s s1 ha hm hc hl => ⟨fun hi hn hr hb hs => does_rd_data ha rfl rfl hm hc hi hn hr hs hb,
      fun hi hn hr hb hs => does_rd_bad ha rfl rfl hm hc hi hn hr hl hs hb, fun hw hs => does_rd_refused ha rfl rfl hm hc hs hw,
      does_rd_waits ha rfl rfl⟩⟩

end Sys2Proof.Machine
end

section
/-! SUPPORT. Lists of packets that a tile injects for the loop, and the registers that an injection can touch (R315 to R324, R332). -/
namespace Sys2Proof.Machine
open Sys2Proof

/-! ### Packets that can be sent -/

/-- Messages that a tile can send on behalf of a polder, all sent: each waits behind those before it. -/
theorem State.injectAll_sent {s t : State} {i pol : Nat} {l : List Send} (hs : SendSame s t) (hp : pol < 8)
    (hl : ∀ m ∈ l, s.canSendAs i pol m = true) (ho : ∀ m ∈ l, opDefined (m.op % 256) = true) :
    (∃ ts, (t.injectAll i pol l).net = t.net ++ ts ∧
      List.Forall₂ (fun x m => s.sent x.pkt i pol m ∧ x.tile = i ∧ x.inPort = 5) ts l) ∧
      Frame [.net, .regs, .ports] t (t.injectAll i pol l) ∧ RegsOutside [counter (cetisPage i) 10] t (t.injectAll i pol l) ∧
      ((∀ m ∈ l, opOrd m.op = true) → (t.injectAll i pol l).ports = t.ports) := by
  induction l generalizing t with
  | nil =>
    exact ⟨⟨[], (List.append_nil _).symm, .nil⟩, (Kept.refl [.net, .regs, .ports] t).frame, RegsOutside.refl _ _, fun _ => rfl⟩
  | cons m r ih =>
    have hm := hl m List.mem_cons_self
    unfold State.canSendAs at hm
    rw [Bool.and_eq_true, List.all_eq_true] at hm
    obtain ⟨hi, hf⟩ := hm
    obtain ⟨v, hv⟩ := Option.isSome_iff_exists.mp ((hs.inject i pol m).trans hi)
    obtain ⟨⟨x, hn, hx, h1, h2⟩, fv, rv, pv⟩ := State.inject_some hv hp (ho m List.mem_cons_self)
      (fun k hk => (hs.fencedPort i k).trans (by simpa using hf k (List.mem_range.mpr hk)))
    have sv : SendSame t v := SendSame.of_outside rv (by simp [counter, Reg.COUNTER]) (fv .routes (by decide))
    have e : t.injectAll i pol (m :: r) = v.injectAll i pol r := by
      show (t.injectOr i pol m).injectAll i pol r = _
      unfold State.injectOr
      rw [hv]
    obtain ⟨⟨ts, hn', hx'⟩, fu, ru, pu⟩ := ih (hs.trans sv) (fun m hm => hl m (List.mem_cons_of_mem _ hm))
      (fun m hm => ho m (List.mem_cons_of_mem _ hm))
    rw [e]
    refine ⟨⟨x :: ts, ?_, .cons ⟨hs.sent hx, h1, h2⟩ hx'⟩, fv.trans fu, rv.trans ru, fun h => ?_⟩
    · rw [hn', hn, List.append_assoc]
      rfl
    · exact (pu (fun m hm => h m (List.mem_cons_of_mem _ hm))).trans (pv (h m List.mem_cons_self))

/-- The same from a state whose mesh is that of an earlier one. -/
theorem State.injectAll_injected {s t : State} {i pol : Nat} {l : List Send} (hs : SendSame s t) (hp : pol < 8)
    (hl : ∀ m ∈ l, s.canSendAs i pol m = true) (ho : ∀ m ∈ l, opDefined (m.op % 256) = true) (hn : t.net = s.net) :
    s.injectedAs (t.injectAll i pol l) i pol l := by
  obtain ⟨⟨ts, h, hx⟩, -⟩ := State.injectAll_sent hs hp hl ho
  exact ⟨ts, by rw [h, hn], hx⟩

/-- One message sent: `injectOr` is a list of one. -/
theorem State.injectOr_eq_all (s : State) (i pol : Nat) (m : Send) : s.injectOr i pol m = s.injectAll i pol [m] := rfl

/-! ### Registers that an injection can touch, sent or not -/

/-- The registers that a drop at a tile's router writes. -/
def dropRegs (tile : Nat) : List (Nat × Nat) :=
  [counter (cetisPage tile) 6, (cetisPage tile, Reg.DROP_LAST)] ++ evtRegs (cetisPage tile) ++ reportRegs tile

/-- The registers that an injection by a tile can write, whether the packet goes, drops or has no route. -/
def sendRegs (tile : Nat) : List (Nat × Nat) := counter (cetisPage tile) 10 :: dropRegs tile

theorem RegsOutside.dropPkt (s : State) (tile cause : Nat) (p : Packet) : RegsOutside (dropRegs tile) s (s.dropPkt tile cause p) := by
  unfold State.dropPkt
  extract_lets pg s1 s2 s3
  have h3 : RegsOutside (dropRegs tile) s s3 := by
    refine (((RegsOutside.refl _ s).thenBump pg 6 1 (by decide) (by simp [dropRegs, pg])).thenSetReg pg Reg.DROP_LAST _ (by decide)
      (by simp [dropRegs, pg])).step (RegsOutside.raise _ _ _) (by simp [dropRegs, pg]; tauto)
  split
  · exact h3.thenReport tile 4 6 0 (by decide) (by decide) (fun x hx => List.mem_append_right _ hx)
  · exact h3

theorem RegsOutside.enterRouter (s : State) (tile inPort lane : Nat) (p : Packet) :
    RegsOutside (dropRegs tile) s (s.enterRouter tile inPort lane p) := by
  have hd (c : Nat) : RegsOutside (dropRegs tile) s (s.dropPkt tile c p) := RegsOutside.dropPkt s tile c p
  unfold State.enterRouter
  split
  · exact hd 2
  split
  · exact hd 4
  split
  · exact hd 1
  split
  · exact RegsOutside.of_regs rfl
  split
  · exact hd 2
  · rename_i k _ _
    exact RegsOutside.of_regs ((State.chooseLane_frame s tile k p).1 .regs (by decide))

theorem RegsOutside.inject {s v : State} {tile pol : Nat} {m : Send} (h : s.inject tile pol m = some v) :
    RegsOutside (sendRegs tile) s v := by
  obtain ⟨hop, set, p, t, hi, ht⟩ : ∃ (hop set : Nat) (p : Packet) (t : State),
      s.inject tile pol m = (if s.hasRoute set tile hop then
        some ((t.chooseLane tile 6 p).2.enterRouter tile 5 (t.chooseLane tile 6 p).1 (Packet.sealed p)) else none) ∧
      t = (if set = 0 then s else s.bump (cetisPage tile) 10 1) := ⟨_, _, _, _, rfl, rfl⟩
  rw [hi] at h
  split at h
  · obtain rfl := Option.some.inj h
    have rt : RegsOutside (sendRegs tile) s t := by
      rw [ht]
      split
      · exact RegsOutside.refl _ _
      · exact (RegsOutside.refl _ s).thenBump _ _ _ (by decide) (by simp [sendRegs])
    refine (rt.trans (RegsOutside.of_regs ((State.chooseLane_frame t tile 6 p).1 .regs (by decide)))).step
      (RegsOutside.enterRouter _ _ _ _ _) (fun x hx => List.mem_cons_of_mem _ hx)
  · cases h

theorem RegsOutside.noRoute (s : State) (tile : Nat) : RegsOutside (sendRegs tile) s (s.noRoute tile) :=
  ((RegsOutside.raise s (cetisPage tile) 3).mono (by simp [sendRegs, dropRegs]; tauto)).thenReport
    tile 3 6 0 (by decide) (by decide) (fun x hx => List.mem_cons_of_mem _ (List.mem_append_right _ hx))

theorem RegsOutside.injectOr (s : State) (tile pol : Nat) (m : Send) : RegsOutside (sendRegs tile) s (s.injectOr tile pol m) := by
  unfold State.injectOr
  cases h : s.inject tile pol m with
  | none => exact RegsOutside.noRoute s tile
  | some t => exact RegsOutside.inject h

theorem RegsOutside.injectAll (s : State) (tile pol : Nat) (l : List Send) : RegsOutside (sendRegs tile) s (s.injectAll tile pol l) := by
  induction l generalizing s with
  | nil => exact RegsOutside.refl _ s
  | cons m r ih => exact (RegsOutside.injectOr s tile pol m).trans (ih _)

/-- The registers of an injection lie on pages of tiles and dies. -/
theorem sendRegs_page {tile : Nat} {x : Nat × Nat} (h : x ∈ sendRegs tile) : 0x1000 ≤ x.1 := by
  simp only [sendRegs, dropRegs, evtRegs, reportRegs, counter, List.cons_append, List.nil_append, List.mem_cons,
    List.not_mem_nil, or_false] at h
  rcases h with rfl | rfl | rfl | rfl | rfl | rfl | rfl | rfl | rfl | rfl | rfl | rfl <;>
    simp [cetisPage, faultPage, tilePage, portPage, pciePage, portDie, diePage, Nat.add_assoc]

/-- An operation that writes registers of tiles and dies leaves those of the device-global pages. -/
theorem RegsOutside.global {l : List (Nat × Nat)} {s t : State} (h : RegsOutside l s t) (hl : ∀ x ∈ l, 0x1000 ≤ x.1) :
    GlobalRegsSame s t :=
  fun page off hp ho => h page off ho (fun c => absurd (hl _ c) (by simpa using hp))

theorem GlobalRegsSame.counts {s t u : State} {page slot n : Nat} (h : GlobalRegsSame t u) (c : Counts s t page slot n)
    (hp : page < 0x1000) (hs : slot < 496) : Counts s u page slot n := by
  unfold Counts at *
  rw [h page _ hp (by unfold Reg.COUNTER; omega), c]

end Sys2Proof.Machine
end

section
/-! SUPPORT. Beds, places, streams and generations: what a read returns after a write, and what each view is read from (R239 to R243,
R251, R267). -/
namespace Sys2Proof.Machine
open Sys2Proof

/-! ### Reads after writes -/

@[simp] theorem State.bed_setBed_same (s : State) (b : Nat) (x : Bed) : (s.setBed b x).bed b = x := Store.get_set_same ..
@[simp] theorem State.stream_setStream_same (s : State) (n : Nat) (x : Stream) : (s.setStream n x).stream n = x := Store.get_set_same ..
@[simp] theorem State.place_setPlace_same (s : State) (b i : Nat) (x : Place) : (s.setPlace b i x).place b i = x := Store.get_set_same ..

theorem State.bed_setBed_other (s : State) {b c : Nat} (x : Bed) (h : c ≠ b) : (s.setBed b x).bed c = s.bed c :=
  Store.get_set_other _ _ _ _ _ (Ne.symm h)
theorem State.stream_setStream_other (s : State) {n m : Nat} (x : Stream) (h : m ≠ n) : (s.setStream n x).stream m = s.stream m :=
  Store.get_set_other _ _ _ _ _ (Ne.symm h)
theorem State.place_setPlace_other (s : State) {b i c k : Nat} (x : Place) (hi : i < 128) (hk : k < 128) (h : (c, k) ≠ (b, i)) :
    (s.setPlace b i x).place c k = s.place c k := by
  refine Store.get_set_other _ _ _ _ _ fun e => h ?_
  unfold placeKey at e
  exact Prod.ext (by dsimp only; omega) (by dsimp only; omega)

/-! ### What the views are read from -/

section
variable {s t : State}

theorem State.bed_congr (h : t.beds = s.beds) (b : Nat) : t.bed b = s.bed b := by unfold State.bed; rw [h]
theorem State.stream_congr (h : t.streams = s.streams) (n : Nat) : t.stream n = s.stream n := by unfold State.stream; rw [h]
theorem State.place_congr (h : t.places = s.places) (b i : Nat) : t.place b i = s.place b i := by unfold State.place; rw [h]
theorem State.genAt_congr (h : t.genTab = s.genTab) (i n : Nat) : t.genAt i n = s.genAt i n := by unfold State.genAt; rw [h]
theorem State.current_congr (h : t.genTab = s.genTab) (i : Nat) (x : Head) : t.current i x = s.current i x := by
  unfold State.current
  rw [State.genAt_congr h]
theorem State.headAt_congr (h : t.places = s.places) (b i : Nat) : t.headAt b i = s.headAt b i := by
  unfold State.headAt
  rw [State.place_congr h]
theorem State.bedReg_congr (h : t.wins = s.wins) (b o : Nat) : t.bedReg b o = s.bedReg b o := by unfold State.bedReg; rw [h]
theorem State.bedCfg0_congr (h : t.wins = s.wins) (b hi lo : Nat) : t.bedCfg0 b hi lo = s.bedCfg0 b hi lo := by
  unfold State.bedCfg0
  rw [State.bedReg_congr h]
theorem State.inSlots_congr (h : t.wins = s.wins) (b : Nat) : t.inSlots b = s.inSlots b := State.bedCfg0_congr h ..
theorem State.slotTile_congr (h : t.slotMap = s.slotMap) (i p k : Nat) : t.slotTile i p k = s.slotTile i p k := by
  unfold State.slotTile State.slotEnt
  rw [h]
theorem State.entryTile_congr (h : t.wins = s.wins) (k : t.slotMap = s.slotMap) (b : Nat) : t.entryTile b = s.entryTile b := by
  unfold State.entryTile State.tileOfSlot State.bedPolder State.bedEntry
  simp only [State.bedCfg0_congr h, State.slotTile_congr k]
theorem State.freeNormal_congr (h : t.wins = s.wins) (k : t.places = s.places) (b : Nat) : t.freeNormal b = s.freeNormal b := by
  unfold State.freeNormal
  simp only [State.inSlots_congr h, State.place_congr k]
end

theorem bits_lt (x hi lo : Nat) : bits x hi lo < 2 ^ (hi + 1 - lo) := Nat.mod_lt _ (Nat.two_pow_pos _)

theorem State.inSlots_lt (s : State) (b : Nat) : s.inSlots b < 128 := bits_lt _ 33 27

/-- The first free normal place: one of the bed's, and not in use. -/
theorem State.freeNormal_some {s : State} {b i : Nat} (h : s.freeNormal b = some i) : i < 128 ∧ i < s.inSlots b ∧ (s.place b i).used = false := by
  unfold State.freeNormal at h
  have hm := List.mem_range.mp (List.mem_of_find?_eq_some h)
  refine ⟨hm.trans (State.inSlots_lt s b), hm, ?_⟩
  simpa using List.find?_some h

/-! ### A wavefront whole in its place -/

/-- The watchdog of a bed that is not busy starts. -/
def State.wakeDog (s : State) (b : Nat) : State := if s.bedBusy b then s else s.restartDog b

theorem State.wakeDog_kept (s : State) (b : Nat) : Kept [.beds] s (s.wakeDog b) :=
  Kept.ite (Kept.refl _ s) (State.restartDog_kept s b)

/-- A wavefront complete in its place with its header's time. -/
def Place.whole (x : Place) (now : Nat) : Place :=
  { x with full := true, data := withHead x.data { waveHead x.data with enq := now } }

/-- A wavefront of the current generation that is whole waits in its place from now on. -/
theorem State.arrived_current {s : State} {tile b i : Nat} (h : s.current tile (waveHead (s.place b i).data) = true) :
    s.arrived tile b i = (s.wakeDog b).setPlace b i ((s.place b i).whole s.now.toNat) := by
  have hn : (s.wakeDog b).now = s.now := (State.wakeDog_kept s b).frame .now (by decide)
  have hg : (s.wakeDog b).genTab = s.genTab := (State.wakeDog_kept s b).frame .genTab (by decide)
  have hc : (((s.wakeDog b).setPlace b i ((s.place b i).whole s.now.toNat)).current tile (waveHead (s.place b i).data)) = true := by
    rw [State.current_congr (t := (s.wakeDog b).setPlace b i ((s.place b i).whole s.now.toNat)) (s := s) hg]
    exact h
  show (if ((s.wakeDog b).setPlace b i ((s.place b i).whole (s.wakeDog b).now.toNat)).current tile (waveHead (s.place b i).data) then
    (s.wakeDog b).setPlace b i ((s.place b i).whole (s.wakeDog b).now.toNat) else _) = _
  rw [hn, if_pos hc]

end Sys2Proof.Machine
end

section
/-! PROOF. Admission, the return of token wavefronts to the first bed, and credits (R248, R249, R256 to R258). -/
namespace Sys2Proof.Machine
open Sys2Proof

/-! ### Admission -/

/-- A stream after its next chunk of `k` rows has been admitted. -/
def Stream.admitted1 (x : Stream) (k : Nat) : Stream :=
  { x with st := if x.st = .bound then .prefill else x.st, admitted := x.admitted + k, seq := (x.seq + 1) % 2 ^ 32,
           inflight := x.inflight + 1, chunks := x.chunks + 1 }

/-- A chunk of a stream laid into a place of the first bed, before its arrival there. -/
def State.layChunk (s : State) (b i e n : Nat) (w : List Byte) : State :=
  ((s.setStream n ((s.stream n).admitted1 (waveHead w).rows)).bump polderPage 0 1).setPlace b i
    { used := true, src := e, got := w.length, data := w }

section
variable {p : PolderIx} {s : State} {b n i e : Nat}

theorem exec_admission_full (h : s.rf polderPage (Reg.POLD_LOOP p) 15 0 ≤ s.inLoop p) : exec (.admission p) s = .next s := by
  show execAdmission p s = .next s
  unfold execAdmission
  dsimp only
  split
  · split
    · rw [if_pos (by simp [h])]
    · rfl
  · rfl

section
variable (hb : s.firstBed p = some b) (hn : s.admissible p = some n) (hi : s.freeNormal b = some i) (he : s.entryTile b = some e)
  (hf : s.fenced p = false) (hh : s.sealHold = false) (ht : s.tokenWaits p = false)
  (hc : s.inLoop p < s.rf polderPage (Reg.POLD_LOOP p) 15 0)
include hb hn hi he hf hh ht hc

/-- With all that admission needs, the reads of the chunk's journal records decide. -/
theorem exec_admission_ready : exec (.admission p) s = .next (if (s.mireTake (s.chunkReads n)).1 then
    ((s.mireTake (s.chunkReads n)).2.setStream n ((s.stream n).admitted1 (waveHead (s.chunkWave b n)).rows) |>.bump polderPage 0 1
      |>.setPlace b i { used := true, src := e, got := (s.chunkWave b n).length, data := s.chunkWave b n }).arrived e b i
    else (s.mireTake (s.chunkReads n)).2) := by
  show execAdmission p s = _
  unfold execAdmission
  dsimp only
  rw [hb, hn]
  dsimp only
  rw [hi, he]
  dsimp only
  rw [hf, hh, ht, if_neg (by simpa using hc)]
  cases (s.mireTake (s.chunkReads n)).1 <;> rfl

end

/-- A chunk laid into a free place of the first bed waits there. -/
theorem State.layChunk_arrived {w : List Byte} (hi : i < 128) (h : s.current e (waveHead w) = true) :
    let u := (s.layChunk b i e n w).arrived e b i
    Frame [.regs, .streams, .places, .beds] s u ∧ RegsOutside [counter polderPage 0] s u ∧ Counts s u polderPage 0 1 ∧
      (∀ b' k', k' < 128 → i < 128 → (b', k') ≠ (b, i) → u.place b' k' = s.place b' k') ∧
      u.place b i = { used := true, full := true, src := e, got := w.length,
                      data := withHead w { waveHead w with enq := s.now.toNat } } ∧
      (∀ m, m ≠ n → u.stream m = s.stream m) ∧ u.stream n = (s.stream n).admitted1 (waveHead w).rows := by
  intro u
  have k1 : Kept [.regs, .streams, .places] s (s.layChunk b i e n w) :=
    (((State.setStream_kept ..).mono rfl).step (State.bump_kept ..) rfl).step (State.setPlace_kept ..) rfl
  have hp : (s.layChunk b i e n w).place b i = { used := true, src := e, got := w.length, data := w } := State.place_setPlace_same ..
  have hu : u = ((s.layChunk b i e n w).wakeDog b).setPlace b i (Place.whole { used := true, src := e, got := w.length, data := w } s.now.toNat) := by
    unfold u
    rw [State.arrived_current (by rw [hp, State.current_congr (k1.frame .genTab (by decide))]; exact h), hp, k1.frame .now (by decide)]
  have k2 : Kept [.beds] (s.layChunk b i e n w) ((s.layChunk b i e n w).wakeDog b) := State.wakeDog_kept _ b
  have k3 : Kept [.beds, .places] (s.layChunk b i e n w) u := hu ▸ (k2.mono rfl).step (State.setPlace_kept ..) rfl
  have ru : u.regs = (s.layChunk b i e n w).regs := k3.frame .regs (by decide)
  have su : u.streams = (s.layChunk b i e n w).streams := k3.frame .streams (by decide)
  refine ⟨((k1.mono (m := [.regs, .streams, .places, .beds]) rfl).step k3 rfl).frame, ?_, ?_, fun b' k' hk _ hne => ?_, ?_, fun m hm => ?_, ?_⟩
  · exact ((RegsOutside.of_regs rfl).thenBump polderPage 0 1 (by decide) (by simp) : RegsOutside _ s (s.layChunk b i e n w)).trans
      (RegsOutside.of_regs ru)
  · exact (Counts.bump (s.setStream n ((s.stream n).admitted1 (waveHead w).rows)) polderPage 0 1).after (l := []) (RegsOutside.of_regs ru)
      (by decide) (by simp)
  · rw [hu, State.place_setPlace_other _ _ hi hk hne, State.place_congr (k2.frame .places (by decide))]
    exact State.place_setPlace_other _ _ hi hk hne
  · rw [hu]
    exact State.place_setPlace_same ..
  · rw [State.stream_congr su]
    exact State.stream_setStream_other _ _ hm
  · rw [State.stream_congr su]
    exact State.stream_setStream_same ..

end

/-! ### The return to the first bed -/

/-- The entry whose list holds what is looked for is the first that has any. -/
theorem find?_of_findSome? {α β : Type} {q : β → Bool} {l : List (α × List β)} {a : α} {x : β}
    (h : l.findSome? (fun e => (e.2.find? q).map (fun r => (e.1, r))) = some (a, x)) :
    ∃ m, l.find? (fun e => e.2.any q) = some (a, m) ∧ m.find? q = some x := by
  induction l with
  | nil => cases h
  | cons e r ih =>
    rw [List.findSome?_cons] at h
    cases hq : e.2.find? q with
    | none =>
      rw [hq] at h
      obtain ⟨m, h1, h2⟩ := ih h
      refine ⟨m, ?_, h2⟩
      rw [List.find?_cons_of_neg (by simpa using hq), h1]
    | some y =>
      rw [hq] at h
      obtain ⟨rfl, rfl⟩ := Prod.mk.inj (Option.some.inj h)
      refine ⟨e.2, List.find?_cons_of_pos ?_, hq⟩
      exact List.any_eq_true.mpr ⟨y, List.mem_of_find?_eq_some hq, List.find?_some hq⟩

theorem State.ridPlace_some {s : State} {n home : Nat} {ph : RPhase} {r : RPlace} (h : s.ridPlace n ph = some (home, r)) :
    ∃ l, s.rplaces.find? (fun e => e.2.any (fun r => r.stream = n && r.phase = ph)) = some (home, l) ∧
      l.find? (fun r => r.stream = n && r.phase = ph) = some r := find?_of_findSome? h

/-- The place that a token wavefront takes in its first bed (R258). -/
def State.tokenPlace (s : State) (b : Nat) : Option Nat :=
  match s.freeNormal b with
  | some i => some i
  | none => if (s.place b 64).used then none else some 64

/-- A token wavefront that takes a place: the place reserved for it, its move begun and its bytes sent. -/
def State.moveToken (s : State) (home d b i n : Nat) (w : List Byte) : State :=
  let m : WMove := ⟨home, s.nextTag, w, some b, none, n⟩
  let t := s.takeTag.2.reserve b i home s.nextTag
  let t := if i = 64 then t.bump polderPage 4 1 else t
  ({ t with wmoves := t.wmoves ++ [m] }).sendWave m d b i false

section
variable {n : StreamIx} {s : State} {home b d : Nat} {r : RPlace}

theorem exec_tokenWavefrontMove_leaving (h : s.ridPlace n.toNat .leaving = some (home, r)) (hb : s.firstBed (s.stream n.toNat).polder = some b)
    (hf : s.fenced (s.stream n.toNat).polder = false) (hm : ∀ m ∈ s.wmoves, m.fromBed = none → m.stream ≠ n.toNat)
    (hd : s.slotTile home (s.stream n.toNat).polder (s.bedEntry b) = some d) :
    exec (.tokenWavefrontMove n) s = .next (match s.tokenPlace b with
      | none => s
      | some i => s.moveToken home d b i n.toNat (withHead r.wave { waveHead r.wave with rstage := false, bed := b, enq := s.now.toNat })) := by
  obtain ⟨l, h1, h2⟩ := State.ridPlace_some h
  have hany : s.wmoves.any (fun m => m.fromBed.isNone && m.stream = n.toNat) = false := by
    rw [List.any_eq_false]
    intro m hm'
    by_cases c : m.fromBed = none
    · simp [hm m hm' c]
    · simp [c]
  show execTokenWavefrontMove n s = _
  unfold execTokenWavefrontMove
  dsimp only
  rw [h1, hb]
  dsimp only
  rw [h2]
  dsimp only
  rw [hf, hany, if_neg (by decide), hd]
  dsimp only
  unfold State.tokenPlace
  cases s.freeNormal b with
  | some i =>
    dsimp only
    unfold State.moveToken
    by_cases c : i = 64
    · simp only [if_pos c]
      rfl
    · simp only [if_neg c]
      rfl
  | none =>
    dsimp only
    cases (s.place b 64).used <;> rfl

theorem waveSends_op {dst tag oper base cls : Nat} {bs : List Byte} {m : Send} (h : m ∈ waveSends dst tag oper base cls bs) : m.op = opWave := by
  unfold waveSends at h
  obtain ⟨x, -, rfl⟩ := List.mem_map.mp h
  rfl

theorem State.sendSame_of_kept {l : List Field} {s t : State} (k : Kept l s t) (h1 : Field.regs ∉ l) (h2 : Field.routes ∉ l) : SendSame s t :=
  SendSame.of_outside (l := []) (RegsOutside.of_regs (k.frame .regs h1)) (by simp) (k.frame .routes h2)

/-- A token wavefront that goes to a place: the place is reserved, the move waits and the packets leave; taking the escape place counts. -/
theorem State.moveToken_goes {i : Nat} {w : List Byte} (hi : i < 128) :
    let u := s.moveToken home d b i n.toNat w
    let sends := waveSends d s.nextTag (waveOperand b i false false false w.length) 0 (waveHead w).cls w
    (i = 64 → Counts s u polderPage 4 1) ∧ ((∀ x ∈ sends, s.canSend home x = true) →
      (∀ b' k', k' < 128 → i < 128 → (b', k') ≠ (b, i) → u.place b' k' = s.place b' k') ∧
      u.place b i = { used := true, src := home, tag := s.nextTag } ∧
      u.wmoves = s.wmoves ++ [⟨home, s.nextTag, w, some b, none, n.toNat⟩] ∧ s.injected u home sends) := by
  intro u sends
  obtain ⟨m, hm⟩ : ∃ m : WMove, m = ⟨home, s.nextTag, w, some b, none, n.toNat⟩ := ⟨_, rfl⟩
  obtain ⟨t1, ht1⟩ : ∃ t, t = s.takeTag.2.reserve b i home s.nextTag := ⟨_, rfl⟩
  obtain ⟨t2, ht2⟩ : ∃ t, t = if i = 64 then t1.bump polderPage 4 1 else t1 := ⟨_, rfl⟩
  obtain ⟨t3, ht3⟩ : ∃ t, t = ({ t2 with wmoves := t2.wmoves ++ [m] } : State) := ⟨_, rfl⟩
  have k1 : Kept [.nextTag, .places] s t1 := ht1 ▸ ((State.takeTag_keptP s).mono rfl).step (State.setPlace_kept ..) rfl
  have k2 : Kept [.regs] t1 t2 := ht2 ▸ Kept.ite ((State.bump_kept ..).mono rfl) (Kept.refl _ _)
  have k3 : Kept [.wmoves] t2 t3 := ht3 ▸ Kept.wmoves t2 _
  have r3 : RegsOutside [counter polderPage 4] s t3 := by
    have r2 : RegsOutside [counter polderPage 4] t1 t2 :=
      ht2 ▸ RegsOutside.thenIf (fun _ => RegsOutside.bump t1 polderPage 4 1 (by decide)) (fun _ => RegsOutside.refl _ t1)
    exact ((RegsOutside.of_regs (k1.frame .regs (by decide))).trans r2).trans (RegsOutside.of_regs (k3.frame .regs (by decide)))
  have k13 : Kept [.nextTag, .places, .regs, .wmoves] s t3 := ((k1.mono rfl).step k2 rfl).step k3 rfl
  have hs : SendSame s t3 := SendSame.of_outside r3 (by simp [counter, Reg.COUNTER]) (k13.frame .routes (by decide))
  have hu : u = t3.injectAll home (s.polderOf home) sends := by
    rw [← hs.polderOf home, ht3, ht2, ht1, hm]
    rfl
  have kv : Kept [.regs, .net, .ports, .fns, .reports, .out] t3 u := hu ▸ State.injectAll_kept ..
  have hpl : u.places = t1.places := (kv.frame .places (by decide)).trans ((k3.frame .places (by decide)).trans (k2.frame .places (by decide)))
  refine ⟨fun h => ?_, fun hl => ⟨fun b' k' hk _ hne => ?_, ?_, ?_, ?_⟩⟩
  · have c : Counts s t2 polderPage 4 1 := by
      rw [ht2, if_pos h]
      exact (Counts.bump t1 polderPage 4 1).before (RegsOutside.of_regs (l := []) (k1.frame .regs (by decide))) (by decide) (by simp)
    have g : GlobalRegsSame t3 u := hu ▸ (RegsOutside.injectAll t3 home (s.polderOf home) sends).global (fun x hx => sendRegs_page hx)
    exact g.counts (c.after (l := []) (RegsOutside.of_regs (k3.frame .regs (by decide))) (by decide) (by simp)) (by decide) (by decide)
  · rw [State.place_congr hpl, ht1]
    exact State.place_setPlace_other _ _ hi hk hne
  · rw [State.place_congr hpl, ht1]
    exact State.place_setPlace_same ..
  · have e2 : t2.wmoves = s.wmoves := (k2.frame .wmoves (by decide)).trans (k1.frame .wmoves (by decide))
    rw [kv.frame .wmoves (by decide), ht3, ← hm, ← e2]
  · rw [hu]
    exact State.injectAll_injected hs (State.polderOf_lt s home) hl (fun x hx => by rw [waveSends_op hx]; decide)
      (k13.frame .net (by decide))
end

/-! ### POLD_LOOP -/

/-- No selector shows a register of the POLDER page below the beds' own. -/
theorem State.winKey_polder (s : State) {off : Nat} (h : off < 0x408) : s.winKey polderPage off = none := by
  unfold State.winKey
  rw [if_neg (by simp; omega), if_neg (by simp [polderPage, pciePage, diePage])]

theorem State.storeReg_polder (s : State) {off : Nat} (v : W64) (h : off < 0x408) : s.storeReg polderPage off v = s.setReg polderPage off v := by
  unfold State.storeReg
  rw [State.winKey_polder s h]

theorem State.stored_polder (s : State) {off : Nat} (h : off < 0x408) : s.stored polderPage off = s.reg polderPage off := by
  unfold State.stored
  rw [State.winKey_polder s h]

/-- An admitted write of a register of the POLDER page that no selector shows: the fields that it reaches, and the registers' frame. -/
theorem State.writeCore_polder {s : State} {who : Requester} {off : Nat} (v : W64) (h : s.admits who polderPage off = true)
    (h8 : off % 8 = 0) (he : off ≠ Reg.EVT_EN) (hb : off < 0x408) (hr : (regAt polderPage off).isSome = true) :
    let m := accMask polderPage off .rw ||| accMask polderPage off .sl ||| accMask polderPage off .gw
    ∃ (g : State) (old : W64), Writes polderPage off [] [] s g ∧ g.wins = s.wins ∧
      g.reg polderPage off = (mix m (s.reg polderPage off) v &&& ~~~(accMask polderPage off .w1c &&& v)) ∧
      s.writeCore who polderPage off .b64 v = ⟨g, off, m, v, old⟩ := by
  intro m
  unfold State.admits at h
  rw [Bool.and_eq_true, Bool.or_eq_true] at h
  obtain ⟨g, hk, _, _, hc⟩ := State.writeCore_admits (who := who) v h.1 h8 he hr
    (h.2.imp (fun a => by simpa using a) (fun a => by simpa using a))
  rw [State.storeReg_polder g _ hb, State.stored_polder s hb] at hc
  have ks := (hk.mono (m := [.regs, .guards, .shadows, .sealRun]) rfl).step (State.setReg_kept g polderPage off
    (mix m (s.reg polderPage off) v &&& ~~~(accMask polderPage off .w1c &&& v))) rfl
  refine ⟨_, _, ⟨ks.frame, ?_⟩, ks.frame .wins (by decide), State.reg_setReg_same _ _ _ _, hc⟩
  exact (RegsOutside.of_regs (hk.frame .regs (by decide))).thenSetReg _ _ _ (by omega) (by simp)

/-- A field that a write reaches, in a register none of whose bits are cleared by ones. -/
theorem fld_written {m a v c : W64} {hi lo : Nat} (h : hi < 64) (hm : ∀ i, lo ≤ i → i ≤ hi → m.getLsbD i = true)
    (hc : c = 0) : fld (mix m a v &&& ~~~(c &&& v)) hi lo = fld v hi lo := by
  apply Nat.eq_of_testBit_eq
  intro i
  unfold fld
  rw [testBit_bits, testBit_bits]
  by_cases hi' : i < hi + 1 - lo
  · have e : (mix m a v &&& ~~~(c &&& v)).getLsbD (i + lo) = v.getLsbD (i + lo) := by
      have hlt : i + lo < 64 := by omega
      rw [hc, show (0 : W64) &&& v = 0#64 from BitVec.zero_and, BitVec.getLsbD_and, mix_bit _ _ _ hlt, hm _ (by omega) (by omega), BitVec.getLsbD_not]
      simp [hlt]
    rw [BitVec.testBit_toNat, BitVec.testBit_toNat, e]
  · simp [hi']

/-- The fields of POLD_LOOP that a write reaches: CREDITS and the bits beside it, and ROWS. -/
theorem poldLoop_fields : ∀ p : PolderIx, accMask polderPage (Reg.POLD_LOOP p) .rw = 0 ∧ accMask polderPage (Reg.POLD_LOOP p) .sl = 0x1FF00000000FFFF ∧
    accMask polderPage (Reg.POLD_LOOP p) .gw = 0 ∧ accMask polderPage (Reg.POLD_LOOP p) .w1c = 0 ∧
    (regAt polderPage (Reg.POLD_LOOP p)).isSome = true := by decide

/-- The loop capacity of a polder, from its beds' places and the field of POLD_LOOP beside them. -/
theorem State.capacity_congr {s t : State} (h : t.wins = s.wins) (p : Nat) :
    t.capacity p = ((s.bedsOf p).map (s.inSlots ·)).sum + t.rf polderPage (Reg.POLD_LOOP p) 56 48 := by
  unfold State.capacity State.bedsOf State.inSlots State.bedCfg0
  simp only [State.bedReg_congr h]

/-- An admitted write of POLD_LOOP, before it is judged. -/
theorem State.poldLoop_written {s : State} {who : Requester} {p : PolderIx} (v : W64) (h : s.admits who polderPage (Reg.POLD_LOOP p) = true) :
    ∃ g : State, Writes polderPage (Reg.POLD_LOOP p) [] [] s g ∧ g.rf polderPage (Reg.POLD_LOOP p) 15 0 = fld v 15 0 ∧
      g.rf polderPage (Reg.POLD_LOOP p) 56 48 = fld v 56 48 ∧
      g.capacity p = ((s.bedsOf p).map (s.inSlots ·)).sum + fld v 56 48 ∧
      exec (.poldLoopWrite who p v) s = .next (if fld v 15 0 ≠ 0 ∧ g.capacity p ≤ fld v 15 0 then
        (g.keepReg s polderPage (Reg.POLD_LOOP p)).raise polderPage 1 else g) := by
  have hp := p.isLt
  obtain ⟨m1, m2, m3, m4, m5⟩ := poldLoop_fields p
  obtain ⟨g, old, hw, hwin, hg, hc⟩ := State.writeCore_polder v h (by unfold Reg.POLD_LOOP; omega)
    (by unfold Reg.POLD_LOOP Reg.EVT_EN; omega) (by unfold Reg.POLD_LOOP; omega) m5
  rw [m1, m2, m3, show (0 ||| 0x1FF00000000FFFF ||| 0 : W64) = 0x1FF00000000FFFF from rfl] at hg hc
  rw [m4] at hg
  have f1 : g.rf polderPage (Reg.POLD_LOOP p) 15 0 = fld v 15 0 := by
    unfold State.rf
    rw [hg]
    exact fld_written (by decide) (by decide) rfl
  have f2 : g.rf polderPage (Reg.POLD_LOOP p) 56 48 = fld v 56 48 := by
    unfold State.rf
    rw [hg]
    exact fld_written (by decide) (by decide) rfl
  refine ⟨g, hw, f1, f2, (State.capacity_congr hwin p).trans (by rw [f2]), ?_⟩
  show execPoldLoopWrite who p v s = _
  unfold execPoldLoopWrite poldLoopHook
  rw [hc]
  dsimp only
  rw [if_neg (by decide), f1]
  simp only [Bool.and_eq_true, decide_eq_true_eq]

/-- Settles O33: admission by its journal reads, the token wavefront's place, and the judgement of a credit write. -/
theorem loopAdmission : Obligations.LoopAdmission := by
  unfold Obligations.LoopAdmission
  intro p s others
  refine ⟨?_, fun h => ⟨s, exec_admission_full h, rfl⟩, ?_, ?_⟩
  · intro b n i e hb hn hi he hf hh ht hc w x k hcur
    have hx := exec_admission_ready hb hn hi he hf hh ht hc
    refine ⟨fun hj => ?_, fun s1 h1 => ?_⟩
    · rw [hj] at hx
      exact ⟨_, hx, State.layChunk_arrived (State.freeNormal_some hi).1 hcur⟩
    · rw [h1] at hx
      have k1 := State.mireTake_kept h1
      exact ⟨s1, hx, rfl, k1.frame .streams (by decide), k1.frame .places (by decide)⟩
  · intro n home r b d hr hb hf hm hd w goes
    have hx := exec_tokenWavefrontMove_leaving hr hb hf hm hd
    refine ⟨fun i hi => ?_, fun h1 h2 => ?_, fun h1 h2 => ?_⟩
    · rw [show s.tokenPlace b = some i by unfold State.tokenPlace; rw [hi]] at hx
      exact ⟨_, hx, (State.moveToken_goes (State.freeNormal_some hi).1).2⟩
    · rw [show s.tokenPlace b = some 64 by unfold State.tokenPlace; rw [h1, h2]; rfl] at hx
      obtain ⟨hc, hg⟩ := State.moveToken_goes (s := s) (home := home) (d := d) (b := b) (n := n) (w := w) (show 64 < 128 by decide)
      exact ⟨_, hx, hg, hc rfl⟩
    · rw [show s.tokenPlace b = none by unfold State.tokenPlace; rw [h1, h2]; rfl] at hx
      exact ⟨s, hx, rfl⟩
  · intro who v ha c
    obtain ⟨g, hw, f1, f2, hcap, hx⟩ := State.poldLoop_written v ha
    rw [hcap] at hx
    refine ⟨fun h => ?_, fun h0 hle => ?_⟩
    · rw [if_neg (by omega)] at hx
      exact ⟨g, hx, hw, f1, f2⟩
    · rw [if_pos ⟨h0, hle⟩] at hx
      have hoff : Reg.POLD_LOOP p < 0x408 := by
        have := p.isLt
        unfold Reg.POLD_LOOP
        omega
      rw [show g.keepReg s polderPage (Reg.POLD_LOOP p) = g.setReg polderPage (Reg.POLD_LOOP p) (s.reg polderPage (Reg.POLD_LOOP p)) by
        unfold State.keepReg; rw [State.storeReg_polder g _ hoff, State.stored_polder s hoff]] at hx
      refine ⟨_, hx, ?_, Raised.raise _ polderPage 1 (by decide), ?_⟩
      · refine hw.more (fs' := [.regs, .out, .fns]) (rs' := (polderPage, Reg.POLD_LOOP p) :: evtRegs polderPage) ?_ ?_ (by simp) (by simp)
        · exact (((State.setReg_kept ..).mono rfl).step (State.raise_kept ..) rfl).frame
        · exact ((RegsOutside.refl _ g).thenSetReg _ _ _ (by omega) List.mem_cons_self).step (RegsOutside.raise _ _ _)
            (fun x hx => List.mem_cons_of_mem _ hx)
      · rw [RegsOutside.raise _ polderPage 1 polderPage (Reg.POLD_LOOP p) (by omega) (by
          have hp := p.isLt
          simp [evtRegs, counter, polderPage, portPage, pciePage, diePage, portDie, Reg.EVT_RAW, Reg.POLD_LOOP]
          omega)]
        exact State.reg_setReg_same ..

end Sys2Proof.Machine
end

section
/-! PROOF. Place requests, and the bytes of wavefronts and passes (R242, R243, R267, R332). -/
namespace Sys2Proof.Machine
open Sys2Proof

section
variable {i : TileIx} {p : Packet} {s : State}

/-! ### Place requests -/

theorem exec_placeReq_accepted {b : Nat} (h : s.accepts i opPlaceReq p = true) (hb : p.addr.toNat = b) (hlt : b < 256)
    (hv : s.bedValid b = true) (he : s.entryTile b = some i.val) :
    exec (.placeReq p) s = .next (match s.freeNormal b with
      | some k => (s.takePkt p).placeOk i b k p
      | none => (s.takePkt p).setBed b { s.bed b with asks := (s.bed b).asks ++ [p] }) := by
  have hv' : (s.takePkt p).bedValid b = true := hv
  have he' : (s.takePkt p).entryTile b = some i.val := he
  have hf : (s.takePkt p).freeNormal b = s.freeNormal b := rfl
  show execPlaceReq p s = _
  unfold execPlaceReq
  rw [(State.accepts_wf h).1, if_neg (by decide), State.eject_accepted h]
  dsimp only
  rw [hb, hv', he', hf, if_pos (by simpa using hlt)]
  cases s.freeNormal b <;> rfl

/-- A place reserved for a sender and a tag, and its PLACE_OK sent. -/
theorem State.placeOk_answered {b k : Nat} (hk : k < 128) (hc : s.canSend i (replyTo p opPlaceOk b k []) = true) :
    let u := (s.takePkt p).placeOk i b k p
    s.answered u i p [replyTo p opPlaceOk b k []] ∧
      (∀ b' k', k' < 128 → k < 128 → (b', k') ≠ (b, k) → u.place b' k' = s.place b' k') ∧
      u.place b k = { used := true, src := p.src.toNat, tag := p.tag.toNat } ∧ u.beds = s.beds := by
  intro u
  have k1 : Kept [.arrivals, .places] s ((s.takePkt p).reserve b k p.src.toNat p.tag.toNat) :=
    ((State.takePkt_kept s p).mono rfl).step (State.reserve_kept ..) rfl
  obtain ⟨h1, h2, -⟩ := State.tileReply_sent (State.sendSame_of_kept k1 (by decide) (by decide)) hc (by decide) (k1.frame .net (by decide))
  have hp : u.places = ((s.takePkt p).reserve b k p.src.toNat p.tag.toNat).places := h2 .places (by decide)
  refine ⟨⟨h2 .arrivals (by decide), h1⟩, fun b' k' hk' _ hne => ?_, ?_, (h2 .beds (by decide)).trans (k1.frame .beds (by decide))⟩
  · rw [State.place_congr hp]
    exact State.place_setPlace_other _ _ hk hk' hne
  · rw [State.place_congr hp]
    exact State.place_setPlace_same ..

/-! ### The wavefront sent -/

theorem exec_placeOk_accepted {m : WMove} (h : s.accepts i opPlaceOk p = true) (hm : s.waveOf i p.tag.toNat = some m) :
    exec (.placeOk p) s = .next ((s.takePkt p).sendWave m p.src.toNat p.addr.toNat (bits p.operand.toNat 6 0) false) := by
  have hm' : (s.takePkt p).waveOf i p.tag.toNat = some m := hm
  show execPlaceOk p s = _
  unfold execPlaceOk
  rw [(State.accepts_wf h).1, if_neg (by decide), State.eject_accepted h, hm']

theorem State.sendWave_answered {m : WMove} {dst bed place : Nat} (ht : m.tile = i.val)
    (hl : ∀ x ∈ waveSends dst m.tag (waveOperand bed place false false false m.wave.length) 0 (waveHead m.wave).cls m.wave, s.canSend i x = true) :
    let u := (s.takePkt p).sendWave m dst bed place false
    s.answered u i p (waveSends dst m.tag (waveOperand bed place false false false m.wave.length) 0 (waveHead m.wave).cls m.wave) ∧
      u.places = s.places ∧ u.wmoves = s.wmoves := by
  intro u
  have hu : u = (s.takePkt p).injectAll i (s.polderOf i)
      (waveSends dst m.tag (waveOperand bed place false false false m.wave.length) 0 (waveHead m.wave).cls m.wave) := by
    unfold u State.sendWave
    rw [ht]
    rfl
  have k : Kept [.regs, .net, .ports, .fns, .reports, .out] (s.takePkt p) u := hu ▸ State.injectAll_kept ..
  refine ⟨⟨k.frame .arrivals (by decide), ?_⟩, k.frame .places (by decide), k.frame .wmoves (by decide)⟩
  rw [hu]
  exact State.injectAll_injected (SendSame.takePkt s p) (State.polderOf_lt s i) hl (fun x hx => by rw [waveSends_op hx]; decide) rfl

/-! ### Bytes that arrive -/

theorem exec_wave_accepted (h : s.accepts i opWave p = true) :
    exec (.wave p) s = .next (if bit p.operand.toNat 16 then (s.takePkt p).passArrive i p
      else if bit p.operand.toNat 17 then (s.takePkt p).riddleArrive i p else (s.takePkt p).placeArrive i p) := by
  show execWave p s = _
  unfold execWave
  rw [(State.accepts_wf h).1, if_neg (by decide), State.eject_accepted h]

/-- Bytes of a pass: laid into peat, and counted for the passes of their parity. -/
theorem State.passArrive_answered (s : State) (i : TileIx) (p : Packet) :
    let b := bits p.operand.toNat 7 0
    let u := (s.takePkt p).passArrive i p
    s.answered u i p [] ∧ u.places = s.places ∧ u.peat = putBytes s.peat (peatKey i p.addr.toNat) p.payload ∧
      u.bed b = { s.bed b with passes := (s.bed b).passes.map (fun q =>
        if decide (q.num % 2 = 1) = bit p.operand.toNat 18 then
          { q with got := Store.upd 0 q.got i (fun n => n + p.payload.length) } else q) } := by
  intro b u
  obtain ⟨t, ht⟩ : ∃ t, t = (s.takePkt p).writePeat i p.addr.toNat p.payload := ⟨_, rfl⟩
  have k1 : Kept [.regs, .peat, .peatBad] (s.takePkt p) t := ht ▸ State.writePeat_kept ..
  have hp : t.peat = putBytes s.peat (peatKey i p.addr.toNat) p.payload := by rw [ht]; rfl
  have hb : t.bed b = s.bed b := State.bed_congr (k1.frame .beds (by decide)) b
  have hu : u = t.setBed b { t.bed b with passes := (t.bed b).passes.map (fun q =>
      if decide (q.num % 2 = 1) = bit p.operand.toNat 18 then
        { q with got := Store.upd 0 q.got i (fun n => n + p.payload.length) } else q) } := by
    rw [ht]
    rfl
  have k2 : Kept [.beds] t u := hu ▸ State.setBed_kept ..
  refine ⟨State.answered_nothing ?_ ?_, ?_, ?_, ?_⟩
  · exact (k2.frame .arrivals (by decide)).trans (k1.frame .arrivals (by decide))
  · exact (k2.frame .net (by decide)).trans (k1.frame .net (by decide))
  · exact (k2.frame .places (by decide)).trans (k1.frame .places (by decide))
  · exact Eq.trans (k2.frame .peat (by decide)) hp
  · rw [hu, State.bed_setBed_same, hb]

/-- A wavefront's place with more of its bytes. -/
def Place.laid (x : Place) (p : Packet) : Place :=
  { x with got := x.got + p.payload.length,
           data := overlay (padTo (bits p.operand.toNat 63 32) x.data) p.addr.toNat p.payload }

section
variable {b k total : Nat} {x : Place} (hb : bits p.operand.toNat 7 0 = b) (hk : bits p.operand.toNat 15 8 = k)
  (ht : bits p.operand.toNat 63 32 = total) (hx : s.place b k = x) (hu : x.used = true) (hf : x.full = false)
  (hs : x.src = p.src.toNat) (hg : x.tag = p.tag.toNat)
include hb hk ht hx hu hf hs hg

theorem State.placeArrive_open (t : State) (e : t = s.takePkt p) : t.placeArrive i p =
    if x.got + p.payload.length < total then t.setPlace b k (x.laid p)
    else ((t.setPlace b k (x.laid p)).arrived i b k).tileReply i p opMoveDone 0 total [] := by
  have hx' : t.place b k = x := by rw [e]; exact hx
  unfold State.placeArrive
  dsimp only
  rw [hb, hk, ht, hx', if_neg (by simp [hu, hf, hs, hg])]
  unfold Place.laid
  rw [ht]

/-- Bytes short of the whole wavefront are laid into its place. -/
theorem State.placeArrive_part (hk' : k < 128) (hlt : x.got + p.payload.length < total) :
    let u := (s.takePkt p).placeArrive i p
    s.answered u i p [] ∧ (∀ b' k', k' < 128 → k < 128 → (b', k') ≠ (b, k) → u.place b' k' = s.place b' k') ∧ u.place b k = x.laid p := by
  intro u
  have e : u = (s.takePkt p).setPlace b k (x.laid p) := by
    unfold u
    rw [State.placeArrive_open hb hk ht hx hu hf hs hg _ rfl, if_pos hlt]
  rw [e]
  exact ⟨State.answered_nothing rfl rfl, fun b' k' hb' _ hne => State.place_setPlace_other (s.takePkt p) _ hk' hb' hne,
    State.place_setPlace_same ..⟩

/-- The last bytes of a current wavefront: its place is full, and the mover is answered. -/
theorem State.placeArrive_whole (hk' : k < 128) (hlt : total ≤ x.got + p.payload.length)
    (hc : s.current i (waveHead (x.laid p).data) = true) (hr : s.canSend i (replyTo p opMoveDone 0 total []) = true) :
    let u := (s.takePkt p).placeArrive i p
    s.answered u i p [replyTo p opMoveDone 0 total []] ∧
      (∀ b' k', k' < 128 → k < 128 → (b', k') ≠ (b, k) → u.place b' k' = s.place b' k') ∧ u.place b k = (x.laid p).whole s.now.toNat := by
  intro u
  obtain ⟨t, et⟩ : ∃ t, t = (s.takePkt p).setPlace b k (x.laid p) := ⟨_, rfl⟩
  have kt : Kept [.arrivals, .places] s t := et ▸ ((State.takePkt_kept s p).mono rfl).step (State.setPlace_kept ..) rfl
  have ht' : t.place b k = x.laid p := by rw [et]; exact State.place_setPlace_same ..
  obtain ⟨v, ev⟩ : ∃ v, v = (t.wakeDog b).setPlace b k ((x.laid p).whole s.now.toNat) := ⟨_, rfl⟩
  have kw : Kept [.beds] t (t.wakeDog b) := State.wakeDog_kept t b
  have kv : Kept [.arrivals, .places, .beds] s v := ev ▸ ((kt.mono rfl).step kw rfl).step (State.setPlace_kept ..) rfl
  have ha : t.arrived i b k = v := by
    rw [State.arrived_current (by rw [ht', State.current_congr (kt.frame .genTab (by decide))]; exact hc), ht', kt.frame .now (by decide), ev]
  have e : u = v.tileReply i p opMoveDone 0 total [] := by
    unfold u
    rw [State.placeArrive_open hb hk ht hx hu hf hs hg _ rfl, if_neg (by omega), ← et, ha]
  obtain ⟨h1, h2, -⟩ := State.tileReply_sent (State.sendSame_of_kept kv (by decide) (by decide)) hr (by decide) (kv.frame .net (by decide))
  rw [← e] at h1 h2
  have av : v.arrivals = s.arrivals.erase p := by
    rw [ev]
    exact (kw.frame .arrivals (by decide)).trans (by rw [et]; rfl)
  have hp (b' k' : Nat) : u.place b' k' = v.place b' k' := State.place_congr (h2 .places (by decide)) b' k'
  refine ⟨⟨(h2 .arrivals (by decide)).trans av, h1⟩, fun b' k' hb' _ hne => ?_, ?_⟩
  · rw [hp, ev, State.place_setPlace_other _ _ hk' hb' hne, State.place_congr (kw.frame .places (by decide)), et]
    exact State.place_setPlace_other (s.takePkt p) _ hk' hb' hne
  · rw [hp, ev]
    exact State.place_setPlace_same ..
end
end

/-- Settles O27: each packet of the loop that is accepted, by what it carries. -/
theorem loopPackets : Obligations.LoopPackets := by
  unfold Obligations.LoopPackets
  intro i p s others
  refine ⟨?_, ?_, ?_, ?_⟩
  · intro h b hb hv he
    have hx := exec_placeReq_accepted h hb b.isLt hv he
    refine ⟨fun k hk hc => ?_, fun hn => ?_⟩
    · rw [hk] at hx
      exact ⟨_, hx, State.placeOk_answered (State.freeNormal_some hk).1 hc⟩
    · rw [hn] at hx
      exact ⟨_, hx, State.answered_nothing rfl rfl, rfl, State.bed_setBed_same ..⟩
  · intro m h hm ht sends hl
    exact ⟨_, exec_placeOk_accepted h hm, State.sendWave_answered ht hl⟩
  · intro h h16 b
    have hx := exec_wave_accepted h
    rw [h16, if_pos rfl] at hx
    exact ⟨_, hx, State.passArrive_answered s i p⟩
  · intro h h16 h17 b k total x data got hk hu hf hs hg
    have hx := exec_wave_accepted h
    rw [h16, h17, if_neg (by decide), if_neg (by decide)] at hx
    exact ⟨fun hlt => ⟨_, hx, State.placeArrive_part rfl rfl rfl rfl hu hf hs hg hk hlt⟩,
      fun hle hc hr => ⟨_, hx, State.placeArrive_whole rfl rfl rfl rfl hu hf hs hg hk hle hc hr⟩⟩

end Sys2Proof.Machine
end

section
/-! PROOF. Passes of a bed: opened, started and forwarded, and the bed's watchdog (R243, R246, R260 to R262, R269). -/
namespace Sys2Proof.Machine
open Sys2Proof

/-! ### The wavefronts of a pass -/

/-- A fold that keeps what it has or takes the next element ends with one of the elements, or with what it began with. -/
theorem mem_of_foldl_choice {α : Type} {f : Option α → α → Option α} {x : α} (hf : ∀ a y, f a y = some y ∨ f a y = a) {r : List α}
    {a : Option α} (h : r.foldl f a = some x) : x ∈ r ∨ a = some x := by
  induction r generalizing a with
  | nil => exact .inr h
  | cons y r ih =>
    rcases ih h with h | h
    · exact .inl (List.mem_cons_of_mem _ h)
    · rcases hf a y with e | e
      · obtain rfl := Option.some.inj (e.symm.trans h)
        exact .inl List.mem_cons_self
      · exact .inr (e.symm.trans h)

/-- The oldest candidate of a class is one of the candidates. -/
theorem oldest_mem {l : List Cand} {c : Nat} {x : Cand} (h : oldest l c = some x) : x ∈ l := by
  unfold oldest at h
  refine (mem_of_foldl_choice (fun a y => ?_) h).elim List.mem_of_mem_filter (fun e => by cases e)
  cases a with
  | none => exact .inl rfl
  | some z =>
    dsimp only
    split
    · exact .inl rfl
    · exact .inr rfl

section
variable {α : Type} {old : Nat → Option α} {weight : Nat → Nat} {x : α}

theorem pickLoop_some {f : Nat} {t : Turn} (h : (pickLoop old weight f t).1 = some x) : ∃ c, old c = some x := by
  induction f generalizing t with
  | zero => cases h
  | succ f ih =>
    unfold pickLoop at h
    split at h
    · rename_i y hy
      obtain rfl := Option.some.inj h
      split at hy
      · exact ⟨_, hy⟩
      · cases hy
    · exact ih h

/-- What pick() returns is the oldest of some class. -/
theorem pickTurn_some {t : Turn} (h : (pickTurn old weight t).1 = some x) : ∃ c, old c = some x := by
  unfold pickTurn at h
  split at h
  · rename_i y hy
    obtain rfl := Option.some.inj h
    exact ⟨3, hy⟩
  · exact pickLoop_some h
end

theorem State.eligible_place {s : State} {b tile : Nat} {ws : List Nat} {x : Cand} (h : x ∈ s.eligible b tile ws) : x.place ∈ ws := by
  unfold State.eligible at h
  obtain ⟨y, hy, rfl⟩ := List.mem_map.mp h
  obtain ⟨i, hi, rfl⟩ := List.mem_map.mp (List.mem_of_mem_filter hy)
  exact hi

/-- A wavefront that the entry sequencer grants is one of those that wait. -/
theorem State.granted_place {s : State} {b tile : Nat} {ws : List Nat} {weight : Nat → Nat} {t : Turn} {x : Cand}
    (h : (pickTurn (oldest (s.eligible b tile ws)) weight t).1 = some x) : x ∈ s.eligible b tile ws ∧ x.place ∈ ws := by
  obtain ⟨c, hc⟩ := pickTurn_some h
  exact ⟨oldest_mem hc, State.eligible_place (oldest_mem hc)⟩

/-- What a pass has gained: places that waited, each once, no more than it may still take, and rows within the pass's rows. -/
structure Gained (passRows f : Nat) (ws : List Nat) (o r : Opening) : Prop where
  places : ∃ l, r.places = o.places ++ l ∧ (∀ i ∈ l, i ∈ ws) ∧ l.Nodup ∧ l.length ≤ f
  rows : o.rows ≤ passRows → r.rows ≤ passRows

theorem Gained.none (passRows f : Nat) (ws : List Nat) {o r : Opening} (hp : r.places = o.places) (hr : r.rows = o.rows) :
    Gained passRows f ws o r :=
  ⟨⟨[], by rw [hp, List.append_nil], by simp, List.nodup_nil, Nat.zero_le _⟩, fun h => hr ▸ h⟩

theorem openLoop_gained (b tile passRows : Nat) (last : Bool) (weight : Nat → Nat) (f : Nat) (ws : List Nat) (o : Opening) :
    Gained passRows f ws o (openLoop b tile passRows last weight f ws o) := by
  induction f generalizing ws o with
  | zero => exact Gained.none _ _ _ rfl rfl
  | succ f ih =>
    unfold openLoop
    split
    · exact Gained.none _ _ _ rfl rfl
    · rename_i c t hc
      have hm : c.place ∈ ws := (State.granted_place (congrArg Prod.fst hc)).2
      split
      · exact Gained.none _ _ _ rfl rfl
      · rename_i hrows
        split
        · exact Gained.none _ _ _ rfl rfl
        · obtain ⟨⟨l, h1, h2, h3, h4⟩, hr⟩ := ih (ws.filter (· ≠ c.place)) ⟨_, t.use c.cls, o.places ++ [c.place], o.rows + c.head.rows⟩
          refine ⟨⟨c.place :: l, ?_, fun i hi => ?_, ?_, ?_⟩, fun _ => hr (by dsimp only; omega)⟩
          · rw [h1, List.append_assoc]
            rfl
          · rcases List.mem_cons.mp hi with rfl | hi
            · exact hm
            · exact List.mem_of_mem_filter (h2 i hi)
          · refine List.nodup_cons.mpr ⟨fun hc => ?_, h3⟩
            simpa using List.of_mem_filter (h2 _ hc)
          · exact Nat.succ_le_succ h4

/-- A pass that has gained a place had a wavefront to grant. -/
theorem openLoop_eligible {b tile passRows : Nat} {last : Bool} {weight : Nat → Nat} {f : Nat} {ws : List Nat} {o : Opening}
    (h0 : o.places = []) (h : (openLoop b tile passRows last weight f ws o).places ≠ []) : o.st.eligible b tile ws ≠ [] := by
  intro he
  cases f with
  | zero => exact h h0
  | succ f =>
    unfold openLoop at h
    split at h
    · exact h h0
    · rename_i c t hc
      have := (State.granted_place (congrArg Prod.fst hc)).1
      rw [he] at this
      cases this

/-! ### A pass opened -/

/-- With every waiting wavefront current, none is dropped. -/
theorem State.dropStale_current {s : State} {b e : Nat} (h : ∀ i ∈ s.waiting b, s.current e (s.headAt b i) = true) : s.dropStale b e = s := by
  unfold State.dropStale
  have hnil : (s.waiting b).filter (fun i => !s.current e (s.headAt b i)) = [] := by
    rw [List.filter_eq_nil_iff]
    intro i hi
    simp [h i hi]
  rw [hnil]
  rfl

/-- The weight of a class in a polder (R262). -/
def State.classWeight (s : State) (p c : Nat) : Nat := s.rf polderPage (Reg.POLD_CLASS p) (8 * c + 7) (8 * c)

/-- The next pass of a bed as its entry sequencer puts it together. -/
def State.opening (s : State) (b e : Nat) : Opening :=
  openLoop b e (s.bedCfg0 b 40 34) (s.bedLast b) (s.classWeight (s.bedPolder b)) (s.bedCfg0 b 47 41) (s.waiting b)
    ⟨s, ⟨(s.bed b).ptr, (s.bed b).quanta⟩, [], 0⟩

/-- The record of the pass that a bed opens. -/
def State.passRecord (s : State) (b e : Nat) : Pass :=
  { num := (s.bed b).opened + 1, places := (s.opening b e).places, rows := (s.opening b e).rows,
    bytes := (passBytes ((s.bed b).opened + 1) s.now.toNat ((s.opening b e).places.map (fun i => (s.place b i).data))).length,
    got := [], started := [], done := 0 }

/-- A bed's next pass opened: the turn, the record, and the pass's bytes sent to the member tiles. -/
def State.openPass (s : State) (b e : Nat) : State :=
  let o := s.opening b e
  let t := o.st.setBed b { s.bed b with ptr := o.turn.ptr, quanta := o.turn.quanta }
  let ws := o.places.map (fun i => (t.place b i).data)
  let num := (s.bed b).opened + 1
  let bs := passBytes num t.now.toNat ws
  let q : Pass := { num := num, places := o.places, rows := o.rows, bytes := bs.length, got := [], started := [], done := 0 }
  (t.setBed b { t.bed b with opened := num, passes := (t.bed b).passes ++ [q] }).castPass b e num bs
    ((ws.map (fun w => (waveHead w).cls)).foldl max 0)

section
variable {bed : BedIx} {s : State} {e : Nat} (he : s.entryTile bed.val = some e) (hv : s.bedValid bed.val = true)
  (hf : s.fenced (s.bedPolder bed.val) = false) (hc : ∀ i ∈ s.waiting bed.val, s.current e (s.headAt bed.val i) = true)
include he hv hf hc

theorem exec_passOpen_full (h : (s.bed bed.val).forwarded + 2 < (s.bed bed.val).opened + 1) : exec (.passOpen bed) s = .next s := by
  show execPassOpen bed s = _
  unfold execPassOpen
  dsimp only
  rw [he]
  dsimp only
  rw [hv, hf, if_neg (by decide), State.dropStale_current hc, if_pos (by simp [h])]

theorem exec_passOpen_opens (h1 : (s.bed bed.val).opened + 1 ≤ (s.bed bed.val).forwarded + 2)
    (h2 : (s.bed bed.val).passes.all (s.passStarted bed.val) = true) (h3 : (s.opening bed.val e).places ≠ []) :
    exec (.passOpen bed) s = .next (s.openPass bed.val e) := by
  have hel : (s.eligible bed.val e (s.waiting bed.val)).isEmpty = false := by
    rw [List.isEmpty_eq_false_iff]
    exact openLoop_eligible (o := ⟨s, ⟨(s.bed bed.val).ptr, (s.bed bed.val).quanta⟩, [], 0⟩) rfl h3
  have hne : (s.opening bed.val e).places.isEmpty = false := List.isEmpty_eq_false_iff.mpr h3
  show execPassOpen bed s = _
  unfold execPassOpen
  dsimp only
  rw [he]
  dsimp only
  rw [hv, hf, if_neg (by decide), State.dropStale_current hc, h2, hel, if_neg (by simp; omega)]
  exact if_neg (Bool.eq_false_iff.mp hne)
end

/-- A bed that opens a pass records it, with the turn's new pointer and quanta; no place changes. -/
theorem State.openPass_bed (s : State) (b e : Nat) :
    (s.openPass b e).places = s.places ∧ (s.openPass b e).bed b = { s.bed b with
      ptr := (s.opening b e).turn.ptr, quanta := (s.opening b e).turn.quanta, opened := (s.bed b).opened + 1,
      passes := (s.bed b).passes ++ [s.passRecord b e] } := by
  have ko : Kept [.regs, .rplaces] s (s.opening b e).st := openLoop_kept b e _ _ _ _ _ ⟨s, _, [], 0⟩
  obtain ⟨t, ht⟩ : ∃ t, t = (s.opening b e).st.setBed b { s.bed b with ptr := (s.opening b e).turn.ptr, quanta := (s.opening b e).turn.quanta } :=
    ⟨_, rfl⟩
  have kt : Kept [.regs, .rplaces, .beds] s t := ht ▸ (ko.mono rfl).step (State.setBed_kept ..) rfl
  have hw : (s.opening b e).places.map (fun i => (t.place b i).data) = (s.opening b e).places.map (fun i => (s.place b i).data) :=
    List.map_congr_left (fun i _ => by rw [State.place_congr (kt.frame .places (by decide))])
  have hb : t.bed b = { s.bed b with ptr := (s.opening b e).turn.ptr, quanta := (s.opening b e).turn.quanta } := by
    rw [ht]
    exact State.bed_setBed_same ..
  obtain ⟨v, hv⟩ : ∃ v, v = t.setBed b { t.bed b with
      opened := (s.bed b).opened + 1, passes := (t.bed b).passes ++ [s.passRecord b e] } := ⟨_, rfl⟩
  obtain ⟨bs, cls, hu⟩ : ∃ bs cls, s.openPass b e = v.castPass b e ((s.bed b).opened + 1) bs cls := by
    refine ⟨passBytes ((s.bed b).opened + 1) t.now.toNat ((s.opening b e).places.map (fun i => (t.place b i).data)),
      (((s.opening b e).places.map (fun i => (t.place b i).data)).map (fun w => (waveHead w).cls)).foldl max 0, ?_⟩
    rw [hv]
    unfold State.passRecord
    rw [← hw, ← kt.frame .now (by decide), ht]
    rfl
  have kv : Kept [.beds] t v := hv ▸ State.setBed_kept ..
  have ku : Kept [.regs, .net, .ports, .fns, .reports, .out] v (s.openPass b e) := hu ▸ State.castPass_kept ..
  refine ⟨(ku.frame .places (by decide)).trans ((kv.frame .places (by decide)).trans (kt.frame .places (by decide))), ?_⟩
  rw [State.bed_congr (ku.frame .beds (by decide)), hv, State.bed_setBed_same, hb]

/-! ### A pass started -/

theorem exec_passStart_arrived {bed : BedIx} {tile : TileIx} {s : State} {q : Pass}
    (h : (s.bed bed.val).passes.find? (fun q => !q.started.contains tile.val && decide (q.bytes ≤ Store.get 0 q.got tile)) = some q) :
    exec (.passStart bed tile) s = .next ((s.setBed bed.val { s.bed bed.val with
      passes := (s.bed bed.val).passes.map (fun r => if r.num = q.num then { r with started := r.started ++ [tile.val] } else r) }).meshGateAdd
        tile (fld (s.bedReg bed.val Reg.BED_CFG1) 9 0) 1) := by
  show execPassStart bed tile s = _
  unfold execPassStart
  dsimp only
  rw [h]
  rfl

/-- START_GATE of a tile gains 1, beside a change of a bed. -/
theorem State.passStart_gate (s : State) (b : Nat) (x : Bed) (tile : TileIx) {g : Nat} (hg : g < 1024) :
    let u := (s.setBed b x).meshGateAdd tile g 1
    Frame [.regs, .beds, .gates] s u ∧ RegsOutside [counter (gatePage tile) 3] s u ∧ u.bed b = x ∧
      ∀ (j : TileIx) (k : BitVec 10), u.gate j k.toNat = s.gate j k.toNat + (if j = tile ∧ k.toNat = g then 1 else 0) := by
  intro u
  have k1 : Kept [.beds] s (s.setBed b x) := State.setBed_kept ..
  have k2 : Kept [.regs, .gates] (s.setBed b x) u := State.meshGateAdd_kept ..
  refine ⟨((k1.mono rfl).step k2 rfl).frame, ?_, ?_, fun j k => ?_⟩
  · exact RegsOutside.trans (RegsOutside.of_regs (k1.frame .regs (by decide)))
      ((RegsOutside.of_regs (t := (s.setBed b x).addGate tile g 1) rfl).thenBump (gatePage tile) 3 1 (by decide) (by simp))
  · rw [State.bed_congr (k2.frame .beds (by decide)), State.bed_setBed_same]
  · exact State.gate_meshGateAdd (s.setBed b x) tile j hg 1 k

/-! ### A pass forwarded -/

section
variable {bed : BedIx} {s : State} {q : Pass} {rest : List Pass} {e : Nat} (hq : (s.bed bed.val).passes = q :: rest)
  (he : s.exitTile bed.val = some e)
include hq he

theorem exec_passForward_waits (hg : gateSatisfied (s.gate e (fld (s.bedReg bed.val Reg.BED_CFG1) 19 10)) (BitVec.ofNat 32 q.num) = false) :
    exec (.passForward bed) s = .next s := by
  show execPassForward bed s = _
  unfold execPassForward
  dsimp only
  rw [hq, he]
  dsimp only [List.head?_cons]
  rw [hg, if_pos (by simp)]

theorem exec_passForward_takes (hf : s.fenced (s.bedPolder bed.val) = false) (hm : q.moving = false) (hs : s.passStarted bed.val q = true)
    (hg : gateSatisfied (s.gate e (fld (s.bedReg bed.val Reg.BED_CFG1) 19 10)) (BitVec.ofNat 32 q.num) = true) :
    exec (.passForward bed) s = .next ((s.setBed bed.val { s.bed bed.val with
      passes := (s.bed bed.val).passes.map (fun r => if r.num = q.num then { r with moving := true } else r) }).forwardAll
        bed.val e q.num 0 q.places) := by
  show execPassForward bed s = _
  unfold execPassForward
  dsimp only
  rw [hq, he]
  dsimp only [List.head?_cons]
  rw [hf, hm, hs, hg, if_neg (by decide)]
end

/-- The wavefront that leaves a bed's place for the next bed, with the output rows of its pass. -/
def State.nextWave (s : State) (b c e num i : Nat) : List Byte :=
  let w := (s.place b i).data
  let h := waveHead w
  ({ h with rstage := false, bed := c, tokens := false, fmt := fld (s.bedReg b Reg.BED_CFG2) 49 42,
            enq := s.now.toNat, rowBytes := fld (s.bedReg b Reg.BED_CFG3) 63 42 } : Head).bytes ++
    waveKeys w ++ waveTree w ++ s.outRows b e num 0 h.rows

theorem waveHead_polder (w : List Byte) : (waveHead w).polder < 8 := bits_lt _ 22 20

/-- The one wavefront of a pass asks the next bed for a place. -/
theorem State.forwardOne_asks {s t : State} {x : Bed} {b c d e i num : Nat} (ht : t = s.setBed b x)
    (hc : s.current e (s.headAt b i) = true) (hl : s.bedLast b = false) (hn : s.nextBed b = some c)
    (hd : s.slotTile e (s.headAt b i).polder (s.bedEntry c) = some d) :
    let h := s.headAt b i
    let wave := s.nextWave b c e num i
    let ask : Send := { dst := d, op := opPlaceReq, addr := c, tag := s.nextTag, operand := wave.length }
    let u := t.forwardOne b e num 0 i
    s.canSendAs e h.polder ask = true →
      Frame [.regs, .beds, .wmoves, .net, .nextTag] s u ∧ u.bed b = x ∧
      u.wmoves = s.wmoves ++ [⟨e, s.nextTag, wave, some c, some (b, i), h.stream⟩] ∧ s.injectedAs u e h.polder [ask] := by
  intro h wave ask u hs
  have kt : Kept [.beds] s t := ht ▸ State.setBed_kept ..
  obtain ⟨v, ev⟩ : ∃ v, v = ({ t.takeTag.2 with wmoves := t.takeTag.2.wmoves ++ [⟨e, s.nextTag, wave, some c, some (b, i), h.stream⟩] } : State) :=
    ⟨_, rfl⟩
  have kv : Kept [.beds, .wmoves, .nextTag] s v :=
    ev ▸ ((kt.mono rfl).step (State.takeTag_keptP t) rfl).step (Kept.wmoves _ _) rfl
  have hw : v.wmoves = s.wmoves ++ [⟨e, s.nextTag, wave, some c, some (b, i), h.stream⟩] := by
    rw [ev, ht]
    rfl
  have hu : u = v.injectAll e h.polder [ask] := by
    have hc' : t.current e (waveHead (t.place b i).data) = true := by rw [ht]; exact hc
    have hl' : t.bedLast b = false := by rw [ht]; exact hl
    have hn' : t.nextBed b = some c := by rw [ht]; exact hn
    have hd' : t.slotTile e (waveHead (t.place b i).data).polder (t.bedEntry c) = some d := by rw [ht]; exact hd
    show t.forwardOne b e num 0 i = _
    unfold State.forwardOne
    dsimp only
    rw [hc', hl', if_neg (by decide), if_neg (by decide), hn']
    dsimp only
    rw [hd', ev, ht]
    rfl
  obtain ⟨⟨ts, h1, h2⟩, fu, -, pu⟩ := State.injectAll_sent (pol := h.polder) (l := [ask]) (State.sendSame_of_kept kv (by decide) (by decide))
    (waveHead_polder (s.place b i).data) (by simpa using hs) (by simp [ask]; decide)
  rw [← hu] at h1 fu pu
  refine ⟨fun f hf => ?_, ?_, (fu .wmoves (by decide)).trans hw, ⟨ts, by rw [h1, kv.frame .net (by decide)], h2⟩⟩
  · have kf := kv.frame f (fun hc => hf (by simp at hc ⊢; tauto))
    by_cases hp : f = .ports
    · subst hp
      exact Eq.trans (pu (by simp [ask]; decide)) kf
    · have := fu f (fun hc => hf (by simp at hc ⊢; tauto))
      cases f <;> exact Eq.trans this kf
  · rw [State.bed_congr (fu .beds (by decide)), State.bed_congr (t := v) (s := t) (by rw [ev]; rfl), ht, State.bed_setBed_same]

/-! ### The watchdog -/

@[simp] theorem State.bedReg_setBedReg_same (s : State) (b o : Nat) (v : W64) : (s.setBedReg b o v).bedReg b o = v := by
  unfold State.bedReg State.setBedReg
  rw [Store.get_set_same, BitVec.xor_assoc, BitVec.xor_self, BitVec.xor_zero]

/-- An expired watchdog: restarted, the bed marked stalled, the event, the count and the report. -/
def State.dogStall (s : State) (b e : Nat) : State :=
  ((((s.restartDog b).setBedReg b Reg.BED_STAT (setBit (s.bedReg b Reg.BED_STAT) 15 true)).raise polderPage 0).bump polderPage 5 1).report e 3 0 0

theorem exec_bedWatchdog {bed : BedIx} {s : State} {e : Nat} (he : s.entryTile bed.val = some e) :
    exec (.bedWatchdog bed) s = .next (if s.bedBusy bed.val && !s.fenced (s.bedPolder bed.val) &&
      decide ((s.bed bed.val).wdog + fld (s.bedReg bed.val Reg.BED_CFG1) 63 32 ≤ s.up) then s.dogStall bed.val e else s) := by
  show execBedWatchdog bed s = _
  unfold execBedWatchdog
  dsimp only
  rw [he]
  dsimp only
  split <;> rfl

theorem reportRegs_page {tile : Nat} {x : Nat × Nat} (h : x ∈ reportRegs tile) : 0x1000 ≤ x.1 :=
  sendRegs_page (tile := tile) (List.mem_cons_of_mem _ (List.mem_append_right _ h))

theorem State.dogStall_spec (s : State) (b e : Nat) :
    let u := s.dogStall b e
    fbit (u.bedReg b Reg.BED_STAT) 15 = true ∧ Raised u polderPage 0 ∧ Counts s u polderPage 5 1 ∧
      u.bed b = { s.bed b with wdog := s.up } ∧ u.reports = s.reports ++ [⟨e, 3, 0, 0, s.up⟩] := by
  intro u
  obtain ⟨t, ht⟩ : ∃ t, t = (s.restartDog b).setBedReg b Reg.BED_STAT (setBit (s.bedReg b Reg.BED_STAT) 15 true) := ⟨_, rfl⟩
  obtain ⟨v, hv⟩ : ∃ v, v = (t.raise polderPage 0).bump polderPage 5 1 := ⟨_, rfl⟩
  have hu : u = v.report e 3 0 0 := by rw [hv, ht]; rfl
  have kt : Kept [.beds, .wins] s t := ht ▸ ((State.restartDog_kept s b).mono rfl).step (State.setBedReg_kept ..) rfl
  have kv : Kept [.regs, .fns, .out] t v := hv ▸ ((State.raise_kept ..).mono rfl).step (State.bump_kept ..) rfl
  have ku : Kept [.regs, .fns, .reports, .out] v u := hu ▸ State.report_kept ..
  have g : GlobalRegsSame v u := hu ▸ (State.report_frame v e 3 0 0 (by decide) (by decide)).1.global (fun x hx => reportRegs_page hx)
  have cv : Counts s v polderPage 5 1 := by
    rw [hv]
    exact (Counts.bump (t.raise polderPage 0) polderPage 5 1).before ((RegsOutside.of_regs (kt.frame .regs (by decide))).trans
      (RegsOutside.raise t polderPage 0)) (by decide) (by simp [evtRegs_eq, counter, Reg.COUNTER, polderPage])
  have rv : Raised v polderPage 0 := by
    rw [hv]
    exact (Raised.raise t polderPage 0 (by decide)).outside (RegsOutside.bump _ polderPage 5 1 (by decide)) (by simp [counter, Reg.COUNTER, Reg.EVT_RAW])
  refine ⟨?_, ?_, g.counts cv (by decide) (by decide), ?_, ?_⟩
  · rw [State.bedReg_congr (ku.frame .wins (by decide)), State.bedReg_congr (kv.frame .wins (by decide)), ht, State.bedReg_setBedReg_same]
    exact fbit_setBit_same _ _ _ (by decide)
  · unfold Raised State.rb at rv ⊢
    rw [g polderPage _ (by decide) (by decide), rv]
  · rw [State.bed_congr (ku.frame .beds (by decide)), State.bed_congr (kv.frame .beds (by decide)), ht]
    exact State.bed_setBed_same ..
  · rw [hu, State.report_reports, kv.frame .reports (by decide), kv.frame .up (by decide), kt.frame .reports (by decide), kt.frame .up (by decide)]

/-- Settles O34: the pass that a bed opens, starts and forwards, and the watchdog. -/
theorem loopPasses : Obligations.LoopPasses := by
  unfold Obligations.LoopPasses
  intro bed tile s b x pol
  refine ⟨?_, ?_, ?_, ?_⟩
  · intro e he hv hf hc weight o
    refine ⟨fun h1 h2 h3 => ?_, fun h => ⟨s, exec_passOpen_full he hv hf hc h, rfl⟩⟩
    obtain ⟨hp, hb⟩ := State.openPass_bed s b e
    obtain ⟨⟨l, hl, hw, hd, hn⟩, hr⟩ := openLoop_gained b e (s.bedCfg0 b 40 34) (s.bedLast b) weight (s.bedCfg0 b 47 41) (s.waiting b)
      ⟨s, ⟨x.ptr, x.quanta⟩, [], 0⟩
    obtain rfl : o.places = l := hl
    exact ⟨_, exec_passOpen_opens he hv hf hc h1 h2 h3, s.passRecord b e, rfl, rfl, rfl, rfl, hb, hp, hw, hd, hr (Nat.zero_le _), hn⟩
  · intro q hq g
    exact ⟨_, exec_passStart_arrived hq, State.passStart_gate s b _ tile (bits_lt _ 9 0)⟩
  · intro q rest e i c d hq he hf hm hs g
    refine ⟨fun hg => ⟨s, exec_passForward_waits hq he hg, rfl⟩, ?_⟩
    intro hg hpl hcur hl hn hd h h' w wave ask hsend
    have hx := exec_passForward_takes hq he hf hm hs hg
    rw [hpl] at hx
    obtain ⟨h1, h2, h3, h4⟩ := State.forwardOne_asks (num := q.num) (x := { x with
      passes := x.passes.map (fun r => if r.num = q.num then { r with moving := true } else r) }) rfl hcur hl hn hd hsend
    exact ⟨_, hx, h1, congrArg Bed.passes h2, h3, h4⟩
  · intro e he due
    have hx := exec_bedWatchdog he
    refine ⟨fun h => ?_, fun h => ?_⟩
    · rw [show (_ && _ && _) = true from h, if_pos rfl] at hx
      exact ⟨_, hx, State.dogStall_spec s b e⟩
    · rw [show (_ && _ && _) = false from h, if_neg (by decide)] at hx
      exact ⟨s, hx, rfl⟩

end Sys2Proof.Machine
end

section
/-! SUPPORT. What work on the memories, on generations and on completion rings leaves of the registers (R267, R350 to R358, R402, R411). -/
namespace Sys2Proof.Machine
open Sys2Proof

/-! ### Registers outside a class -/

/-- Every register outside a class reads as before. -/
def RegsBut (P : Nat × Nat → Prop) (s t : State) : Prop := ∀ page off, off < 4096 → ¬P (page, off) → t.reg page off = s.reg page off

section
variable {P : Nat × Nat → Prop} {r s t u : State}

theorem RegsBut.refl (s : State) : RegsBut P s s := fun _ _ _ _ => rfl
theorem RegsBut.trans (h : RegsBut P r s) (k : RegsBut P s t) : RegsBut P r t := fun p o b n => (k p o b n).trans (h p o b n)
theorem RegsBut.of_regs (h : t.regs = s.regs) : RegsBut P s t := fun p o _ _ => State.reg_congr h p o
theorem RegsBut.of_outside {l : List (Nat × Nat)} (h : RegsOutside l s t) (hl : ∀ x ∈ l, P x) : RegsBut P s t :=
  fun p o b n => h p o b (fun c => n (hl _ c))
theorem RegsBut.foldl {α : Type} (f : State → α → State) (h : ∀ s a, RegsBut P s (f s a)) (l : List α) (s : State) : RegsBut P s (l.foldl f s) := by
  induction l generalizing s with
  | nil => exact RegsBut.refl s
  | cons a r ih => exact (h s a).trans (ih _)

theorem RegsBut.counts {page slot n : Nat} (h : RegsBut P s t) (c : Counts t u page slot n) (hs : slot < 496)
    (hp : ¬P (counter page slot)) : Counts s u page slot n := by
  unfold Counts at *
  rw [c, h page _ (by unfold Reg.COUNTER; omega) hp]
end

/-! ### Work on peat and the mire -/

/-- The registers that work on peat and the mire can write: those of the PEAT and MIRE pages, and the ports' interrupt counters. -/
def MemReg (x : Nat × Nat) : Prop :=
  (∃ i, x.1 = peatPage i) ∨ (∃ j, x.1 = mirePage j) ∨ x = counter (portPage .a) 6 ∨ x = counter (portPage .b) 6

abbrev MemOnly (s t : State) : Prop := RegsBut MemReg s t

theorem MemReg.peat (i o : Nat) : MemReg (peatPage i, o) := .inl ⟨i, rfl⟩
theorem MemReg.mire (j o : Nat) : MemReg (mirePage j, o) := .inr (.inl ⟨j, rfl⟩)

theorem MemReg.evt_mire (j : Nat) : ∀ x ∈ evtRegs (mirePage j), MemReg x := by
  intro x hx
  simp only [evtRegs, List.mem_cons, List.not_mem_nil, or_false] at hx
  obtain rfl | rfl | rfl := hx
  · exact .inr (.inl ⟨j, rfl⟩)
  · exact .inr (.inr (.inl rfl))
  · exact .inr (.inr (.inr rfl))

/-- A register of a device-global page is none of them. -/
theorem MemReg.global {page off : Nat} (h : page < 0x1000) : ¬MemReg (page, off) := by
  rintro (⟨i, hi⟩ | ⟨j, hj⟩ | h1 | h1)
  · simp only [peatPage, tilePage] at hi
    omega
  · simp only [mirePage, diePage] at hj
    omega
  · rw [(Prod.mk.inj h1).1] at h
    exact absurd h (by decide)
  · rw [(Prod.mk.inj h1).1] at h
    exact absurd h (by decide)

/-- Nor is another counter of a port's page. -/
theorem MemReg.port (p : HostPort) {k : Nat} (h : k ≠ 6) : ¬MemReg (counter (portPage p) k) := by
  have hp : (portPage p) % 0x100 = 3 ∧ portPage p % 0x40 = 3 := by cases p <;> decide
  have hc {q : HostPort} : counter (portPage p) k ≠ counter (portPage q) 6 := by
    intro c
    have := (Prod.mk.inj c).2
    unfold Reg.COUNTER at this
    omega
  rintro (⟨i, hi⟩ | ⟨j, hj⟩ | h1 | h1)
  · have : portPage p = peatPage i := hi
    simp only [peatPage, tilePage] at this
    omega
  · have : portPage p = mirePage j := hj
    simp only [mirePage, diePage] at this
    omega
  · exact hc h1
  · exact hc h1

/-- Nor is a register of a tile's RIDDLE page. -/
theorem MemReg.riddle {i off : Nat} (h : i < 128) : ¬MemReg (riddlePage i, off) := by
  rintro (⟨k, hk⟩ | ⟨j, hj⟩ | h1 | h1)
  · simp only [riddlePage, peatPage, tilePage] at hk
    omega
  · simp only [riddlePage, mirePage, tilePage, diePage] at hj
    omega
  · have := (Prod.mk.inj h1).1
    simp only [riddlePage, tilePage, portPage, pciePage, portDie, diePage] at this
    omega
  · have := (Prod.mk.inj h1).1
    simp only [riddlePage, tilePage, portPage, pciePage, portDie, diePage] at this
    omega

section
variable {s t u : State}

theorem RegsBut.bumpPeat (h : MemOnly s t) (i k n : Nat) (hk : k < 496) : MemOnly s (t.bump (peatPage i) k n) :=
  h.trans (RegsBut.of_outside (RegsOutside.bump t _ k n hk) (by simp [counter, MemReg.peat]))
theorem RegsBut.bumpMire (h : MemOnly s t) (j k n : Nat) (hk : k < 496) : MemOnly s (t.bump (mirePage j) k n) :=
  h.trans (RegsBut.of_outside (RegsOutside.bump t _ k n hk) (by simp [counter, MemReg.mire]))
theorem RegsBut.raiseMire (h : MemOnly s t) (j b : Nat) : MemOnly s (t.raise (mirePage j) b) :=
  h.trans (RegsBut.of_outside (RegsOutside.raise t _ b) (MemReg.evt_mire j))
theorem RegsBut.setMire (h : MemOnly s t) (j o : Nat) (v : W64) (ho : o < 4096) : MemOnly s (t.setReg (mirePage j) o v) :=
  h.trans (RegsBut.of_outside (RegsOutside.setReg t _ o v ho) (by simp [MemReg.mire]))
end

theorem MemOnly.mireEcc (s : State) (a sy : Nat) (ue p sc : Bool) : MemOnly s (s.mireEcc a sy ue p sc) := by
  unfold State.mireEcc
  extract_lets pg l s1 s2
  have h1 : MemOnly s s1 := by
    unfold s1
    split
    · exact ((RegsBut.refl s).setMire _ _ _ (by decide)).setMire _ _ _ (by decide)
    · exact RegsBut.refl s
  have h2 : MemOnly s s2 := (h1.bumpMire _ _ 1 (by split <;> decide)).raiseMire _ _
  split
  · exact h2.trans (RegsBut.of_regs rfl)
  · exact h2

theorem MemOnly.raiseDown (s : State) (l : List Nat) : MemOnly s (s.raiseDown l) := by
  induction l generalizing s with
  | nil => exact RegsBut.refl s
  | cons j r ih =>
    unfold State.raiseDown
    split
    · exact ((RegsBut.refl s).raiseMire j 2).trans (ih _)
    · exact ih s

theorem MemOnly.countMire (s : State) (slot : Nat) (hs : slot < 496) (l : List (Nat × Nat)) : MemOnly s (s.countMire slot l) := by
  induction l generalizing s with
  | nil => exact RegsBut.refl s
  | cons x r ih =>
    unfold State.countMire
    have ha : MemOnly s (s.activate (mireStack x.1) (mireLocal x.1)) := by
      refine RegsBut.of_regs ?_
      unfold State.activate
      dsimp only
      split <;> rfl
    exact (ha.bumpMire _ _ _ hs).trans (ih _)

theorem MemOnly.mirePoisonHits (s : State) (l : List (Nat × Nat)) : MemOnly s (s.mirePoisonHits l) := by
  induction l generalizing s with
  | nil => exact RegsBut.refl s
  | cons x r ih =>
    unfold State.mirePoisonHits
    split
    · exact (MemOnly.mireEcc _ _ _ _ _ _).trans (ih _)
    · exact ih s

theorem MemOnly.mireServeRead (s : State) (a n : Nat) : MemOnly s (s.mireServeRead a n).2 := by
  unfold State.mireServeRead
  dsimp only
  split
  · exact RegsBut.refl s
  split
  · exact MemOnly.raiseDown s _
  split
  · exact MemOnly.mirePoisonHits s _
  · exact MemOnly.countMire s 0 (by decide) _

theorem MemOnly.mireTake (s : State) (l : List (Nat × Nat)) : MemOnly s (s.mireTake l).2 := by
  induction l generalizing s with
  | nil => exact RegsBut.refl s
  | cons x r ih =>
    unfold State.mireTake
    have h := MemOnly.mireServeRead s x.1 x.2
    split
    · rename_i t e
      rw [e] at h
      exact h
    · rename_i t e
      rw [e] at h
      exact h.trans (ih t)

theorem MemOnly.mireServeWrite (s : State) (a : Nat) (bs : List Byte) : MemOnly s (s.mireServeWrite a bs).2 := by
  unfold State.mireServeWrite
  dsimp only
  split
  · exact RegsBut.refl s
  split
  · exact MemOnly.raiseDown s _
  · exact (RegsBut.of_regs rfl).trans (MemOnly.countMire (s.writeMire a bs) 1 (by decide) _)

theorem MemOnly.jrnWrite (s : State) (a : Nat) (bs : List Byte) : MemOnly s (s.jrnWrite a bs) := by
  unfold State.jrnWrite State.jrnPut
  split
  · exact MemOnly.mireServeWrite s a bs
  · exact RegsBut.refl s

theorem MemOnly.jrnCommit (s : State) (n : Nat) (v : Bool) (c q : Nat) : MemOnly s (s.jrnCommit n v c q) := MemOnly.jrnWrite s _ _
theorem MemOnly.jrnEmission (s : State) (n e g : Nat) : MemOnly s (s.jrnEmission n e g) := MemOnly.jrnWrite s _ _

theorem MemOnly.writePeat (s : State) (i off : Nat) (bs : List Byte) : MemOnly s (s.writePeat i off bs) :=
  (RegsBut.of_regs rfl).bumpPeat i 1 _ (by decide)

theorem MemOnly.writeMirrors (s : State) (i off : Nat) (bs : List Byte) : MemOnly s (s.writeMirrors i off bs) := by
  unfold State.writeMirrors
  split
  · exact RegsBut.refl s
  · have hr (p k : Nat) : MemOnly s (s.readExtents p k).2 := by
      unfold State.readExtents
      split <;> rename_i t e
      · exact congrArg Prod.snd e ▸ MemOnly.mireTake s _
      · exact congrArg Prod.snd e ▸ MemOnly.mireTake s _
    refine (hr _ _).trans (RegsBut.foldl _ (fun t e => ?_) _ _)
    split
    · exact MemOnly.mireServeWrite t _ _
    · exact RegsBut.refl t

theorem MemOnly.writeMirrored (s : State) (i off : Nat) (bs : List Byte) : MemOnly s (s.writeMirrored i off bs) :=
  (MemOnly.writePeat s i off _).trans (MemOnly.writeMirrors _ i off _)

theorem MemOnly.freeKv (s : State) (n : Nat) (x : KvSpot) : MemOnly s (s.freeKv n x) := by
  unfold State.freeKv
  extract_lets e pages t
  split
  · exact RegsBut.refl s
  · exact (RegsBut.foldl _ (fun t j => MemOnly.writeMirrored t _ _ _) pages s).trans (MemOnly.writeMirrored t _ _ _)

/-! ### Generations and cancels -/

/-- The registers that packets can write: those of the CETIS and FAULT pages, and the ports' interrupt counters. -/
def NetReg (x : Nat × Nat) : Prop :=
  (∃ i, x.1 = cetisPage i) ∨ (∃ i, x.1 = faultPage i) ∨ x = counter (portPage .a) 6 ∨ x = counter (portPage .b) 6

theorem NetReg.send {tile : Nat} {x : Nat × Nat} (h : x ∈ sendRegs tile) : NetReg x := by
  simp only [sendRegs, dropRegs, evtRegs, reportRegs, List.cons_append, List.nil_append, List.mem_cons, List.not_mem_nil, or_false] at h
  have c (o : Nat) : NetReg (cetisPage tile, o) := .inl ⟨tile, rfl⟩
  have f (o : Nat) : NetReg (faultPage tile, o) := .inr (.inl ⟨tile, rfl⟩)
  have a : NetReg (counter (portPage .a) 6) := .inr (.inr (.inl rfl))
  have b : NetReg (counter (portPage .b) 6) := .inr (.inr (.inr rfl))
  obtain rfl | rfl | rfl | rfl | rfl | rfl | rfl | rfl | rfl | rfl | rfl | rfl := h
  · exact c _
  · exact c _
  · exact c _
  · exact c _
  · exact a
  · exact b
  · exact f _
  · exact f _
  · exact f _
  · exact f _
  · exact a
  · exact b

theorem NetReg.global {page off : Nat} (h : page < 0x1000) : ¬NetReg (page, off) := by
  rintro (⟨i, hi⟩ | ⟨j, hj⟩ | h1 | h1)
  · simp only [cetisPage, tilePage] at hi
    omega
  · simp only [faultPage, tilePage] at hj
    omega
  · rw [(Prod.mk.inj h1).1] at h
    exact absurd h (by decide)
  · rw [(Prod.mk.inj h1).1] at h
    exact absurd h (by decide)

theorem NetReg.port (p : HostPort) {k : Nat} (h : k ≠ 6) : ¬NetReg (counter (portPage p) k) := by
  have hp : portPage p % 0x40 = 3 := by cases p <;> decide
  have hc {q : HostPort} : counter (portPage p) k ≠ counter (portPage q) 6 := by
    intro c
    have := (Prod.mk.inj c).2
    unfold Reg.COUNTER at this
    omega
  rintro (⟨i, hi⟩ | ⟨j, hj⟩ | h1 | h1)
  · have : portPage p = cetisPage i := hi
    simp only [cetisPage, tilePage] at this
    omega
  · have : portPage p = faultPage j := hj
    simp only [faultPage, tilePage] at this
    omega
  · exact hc h1
  · exact hc h1

abbrev NetOnly (s t : State) : Prop := RegsBut NetReg s t

theorem NetOnly.dieInject (s : State) (gw : Nat) (p : Packet) : NetOnly s (s.dieInject gw p) := by
  unfold State.dieInject
  extract_lets set q
  split
  · exact RegsBut.refl s
  · exact (RegsBut.of_regs ((State.chooseLane_frame s gw 7 q).1 .regs (by decide))).trans
      (RegsBut.of_outside (RegsOutside.enterRouter _ gw 4 _ (Packet.sealed q)) (fun x hx => NetReg.send (List.mem_cons_of_mem _ hx)))

theorem NetOnly.sendGen (s : State) (pol n : Nat) (g : BitVec 8) (l : List Nat) : NetOnly s (s.sendGen pol n g l) := by
  induction l generalizing s with
  | nil => exact RegsBut.refl s
  | cons i r ih => exact (NetOnly.dieInject s _ _).trans (ih _)

theorem NetOnly.stepGen (s : State) (n : Nat) : NetOnly s (s.stepGen n) := by
  unfold State.stepGen
  extract_lets x g s1 s2 other
  have h : NetOnly s s2 := (RegsBut.of_regs rfl).trans (NetOnly.sendGen s1 _ _ _ _)
  split
  · exact h.trans (NetOnly.sendGen s2 _ _ _ _)
  · exact h

theorem NetOnly.drainStream (s : State) (n st : Nat) : NetOnly s (s.drainStream n st) :=
  (NetOnly.stepGen s n).trans (RegsBut.of_regs rfl)

theorem NetOnly.cancelPartner (s : State) (n : Nat) : NetOnly s (s.cancelPartner n) := by
  unfold State.cancelPartner
  dsimp only
  split
  · exact NetOnly.drainStream _ _ _
  · exact RegsBut.refl s

/-- A stream's context once it drains with a status. -/
def Stream.drained (x : Stream) (status : Nat) : Stream :=
  { x with gen := x.gen + 1, st := .draining, kept := .free, status := status, draftOut := false }

theorem State.stepGen_streams (s : State) (n : Nat) : (s.stepGen n).streams = (s.setStream n { s.stream n with gen := (s.stream n).gen + 1 }).streams := by
  have hs (t : State) (p k : Nat) (g : BitVec 8) (l : List Nat) : (t.sendGen p k g l).streams = t.streams :=
    (State.sendGen_kept t p k g l).frame .streams (by decide)
  unfold State.stepGen
  dsimp only
  split
  · rw [hs, hs]
  · rw [hs]

theorem State.drainStream_same (s : State) (n st : Nat) : (s.drainStream n st).stream n = (s.stream n).drained st := by
  unfold State.drainStream
  dsimp only
  rw [State.stream_setStream_same, State.stream_congr (State.stepGen_streams s n), State.stream_setStream_same]
  rfl

theorem State.drainStream_other (s : State) {n m : Nat} (st : Nat) (h : m ≠ n) : (s.drainStream n st).stream m = s.stream m := by
  unfold State.drainStream
  dsimp only
  rw [State.stream_setStream_other _ _ h, State.stream_congr (State.stepGen_streams s n), State.stream_setStream_other _ _ h]

/-- The cancel of a stream's partner leaves a draining stream as it is, also where the stream is its own partner. -/
theorem State.cancelPartner_draining {s : State} {n : Nat} (h : (s.stream n).st = .draining) : (s.cancelPartner n).stream n = s.stream n := by
  unfold State.cancelPartner
  dsimp only
  split
  next c =>
    refine State.drainStream_other s _ fun e => ?_
    rw [← e] at c
    simp [Stream.live, h] at c
  next => rfl

/-- A cancel that is accepted: the stream drains with CANCELLED and the next generation, and is counted. -/
theorem State.cancelStream_accepted {s : State} {n : Nat} {g : BitVec 8} (h : ((s.stream n).live && decide ((s.stream n).gen = g)) = true) :
    (s.cancelStream n g).1 = true ∧ (s.cancelStream n g).2.stream n = (s.stream n).drained stCancelled ∧
      Counts s (s.cancelStream n g).2 streamPage 2 1 ∧
      RegsBut (fun x => NetReg x ∨ x = counter streamPage 2) s (s.cancelStream n g).2 := by
  have e : s.cancelStream n g = (true, ((s.drainStream n stCancelled).cancelPartner n).bump streamPage 2 1) := if_pos h
  have hg : NetOnly s ((s.drainStream n stCancelled).cancelPartner n) :=
    (NetOnly.drainStream s n stCancelled).trans (NetOnly.cancelPartner _ n)
  have hd : (s.drainStream n stCancelled).stream n = (s.stream n).drained stCancelled := State.drainStream_same ..
  rw [e]
  refine ⟨rfl, ?_, hg.counts (Counts.bump ..) (by decide) (NetReg.global (by decide)), fun page off ho hn => ?_⟩
  · rw [State.stream_congr ((State.bump_kept ..).frame .streams (by decide)), State.cancelPartner_draining (by rw [hd]; rfl), hd]
  · exact (RegsOutside.bump _ streamPage 2 1 (by decide) page off ho (by simpa using fun c => hn (.inr c))).trans
      (hg page off ho (fun c => hn (.inl c)))

/-- Any other cancel is counted as STALE, with its event, and nothing else. -/
theorem State.cancelStream_stale {s : State} {n : Nat} {g : BitVec 8} (h : ((s.stream n).live && decide ((s.stream n).gen = g)) = false) :
    (s.cancelStream n g).1 = false ∧ Kept [.regs, .fns, .out] s (s.cancelStream n g).2 ∧ Counts s (s.cancelStream n g).2 streamPage 3 1 ∧
      Raised (s.cancelStream n g).2 streamPage 1 ∧ RegsOutside (counter streamPage 3 :: evtRegs streamPage) s (s.cancelStream n g).2 := by
  have e : s.cancelStream n g = (false, (s.bump streamPage 3 1).raise streamPage 1) := if_neg (by rw [h]; decide)
  rw [e]
  refine ⟨rfl, ((State.bump_kept ..).mono rfl).step (State.raise_kept ..) rfl, ?_, Raised.raise _ _ _ (by decide), ?_⟩
  · exact (Counts.bump s streamPage 3 1).after (RegsOutside.raise _ _ _) (by decide) (by simp [evtRegs_eq, counter, Reg.COUNTER, streamPage])
  · exact ((RegsOutside.refl _ s).thenBump streamPage 3 1 (by decide) List.mem_cons_self).step (RegsOutside.raise _ _ _)
      (fun x hx => List.mem_cons_of_mem _ hx)

/-! ### Completions -/

@[simp] theorem State.queueReg_setQueueReg_same (s : State) (p : HostPort) (k n o : Nat) (v : W64) : (s.setQueueReg p k n o v).queueReg p k n o = v := by
  unfold State.queueReg State.setQueueReg
  rw [Store.get_set_same, BitVec.xor_assoc, BitVec.xor_self, BitVec.xor_zero]

theorem State.queueReg_congr {s t : State} (h : t.wins = s.wins) (p : HostPort) (k n o : Nat) : t.queueReg p k n o = s.queueReg p k n o := by
  unfold State.queueReg
  rw [h]

theorem fld_halves (a b : W32) : fld (word [(0, a.toNat), (32, b.toNat)]) 31 0 = a.toNat ∧ fld (word [(0, a.toNat), (32, b.toNat)]) 63 32 = b.toNat := by
  have ha := a.isLt
  have hb := b.isLt
  have e : (word [(0, a.toNat), (32, b.toNat)]).toNat = a.toNat + b.toNat * 2 ^ 32 := by
    unfold word
    simp
    omega
  unfold fld bits
  rw [e, Nat.shiftRight_eq_div_pow, Nat.shiftRight_eq_div_pow]
  omega

/-- An entry at the tail of a ring: its bytes in the host's memory, and the tail advanced. -/
theorem State.pushEntry_host (s : State) (p : HostPort) (k n : Nat) (bs : List Byte) :
    (s.pushEntry p k n bs).host = putBytes s.host (hostKey p (s.qAddr p k n (s.qTail p k n))) bs := rfl

theorem State.pushEntry_stat (s : State) (p : HostPort) (k n : Nat) (bs : List Byte) :
    (s.pushEntry p k n bs).qTail p k n = s.qTail p k n + 1 ∧ (s.pushEntry p k n bs).qHead p k n = s.qHead p k n := by
  obtain ⟨f1, f2⟩ := fld_halves (s.qHead p k n) (s.qTail p k n + 1)
  have h : (s.pushEntry p k n bs).queueReg p k n Reg.Q_STAT = word [(0, (s.qHead p k n).toNat), (32, (s.qTail p k n + 1).toNat)] :=
    State.queueReg_setQueueReg_same _ p k n Reg.Q_STAT _
  refine ⟨?_, ?_⟩
  · show BitVec.ofNat 32 (fld ((s.pushEntry p k n bs).queueReg p k n Reg.Q_STAT) 63 32) = _
    rw [h, f2]
    exact BitVec.ofNat_toNat ..
  · show BitVec.ofNat 32 (fld ((s.pushEntry p k n bs).queueReg p k n Reg.Q_STAT) 31 0) = _
    rw [h, f1]
    exact BitVec.ofNat_toNat ..

/-- The indices and addresses of the rings are read from the queues' registers. -/
theorem State.ring_congr {s t : State} (h : t.wins = s.wins) (p : HostPort) (k n : Nat) :
    t.qEn p k n = s.qEn p k n ∧ t.qTail p k n = s.qTail p k n ∧ t.qHead p k n = s.qHead p k n ∧ ∀ i, t.qAddr p k n i = s.qAddr p k n i := by
  unfold State.qEn State.qTail State.qHead State.qAddr State.qBase State.qSize State.qCfg
  simp only [State.queueReg_congr h, and_self, implies_true]

/-- A command that ends: gone, and its completion at the tail of its ring where that is enabled (R402, R411). -/
theorem State.complete_completed {s t : State} (c : HostCmd) (d : Done) (hc : t.cmds = s.cmds) (hh : t.host = s.host) (hw : t.wins = s.wins)
    (hn : t.now = s.now) (hr : t.reg (portPage c.port) (Reg.COUNTER 1) = s.reg (portPage c.port) (Reg.COUNTER 1)) :
    s.completed (t.complete c d) c d := by
  obtain ⟨v, hv⟩ : ∃ v, v = ({ t with cmds := t.cmds.erase c } : State) := ⟨_, rfl⟩
  have kv : Kept [.cmds] t v := hv ▸ Kept.cmds t _
  have vc : v.cmds = s.cmds.erase c := by rw [hv, ← hc]
  have vh : v.host = s.host := (kv.frame .host (by decide)).trans hh
  have vn : v.now = s.now := (kv.frame .now (by decide)).trans hn
  obtain ⟨ve, vt, vd, va⟩ := State.ring_congr ((kv.frame .wins (by decide)).trans hw) c.port kCq c.cq
  have e : t.complete c d = if v.qEn c.port kCq c.cq then
      (v.pushEntry c.port kCq c.cq (doneBytes c d v.now)).bump (portPage c.port) 1 1 else v := by rw [hv]; rfl
  unfold State.completed
  dsimp only
  rw [e, ve]
  cases hq : s.qEn c.port kCq c.cq with
  | false => exact ⟨vc, vh⟩
  | true =>
    rw [if_pos rfl, if_pos rfl]
    obtain ⟨wt, wd⟩ := State.pushEntry_stat v c.port kCq c.cq (doneBytes c d v.now)
    have wh := State.pushEntry_host v c.port kCq c.cq (doneBytes c d v.now)
    have kw : Kept [.wins, .host, .queues] v (v.pushEntry c.port kCq c.cq (doneBytes c d v.now)) := State.pushEntry_kept ..
    generalize v.pushEntry c.port kCq c.cq (doneBytes c d v.now) = w at *
    have kb : Kept [.regs] w (w.bump (portPage c.port) 1 1) := State.bump_kept ..
    obtain ⟨-, bt, bd, -⟩ := State.ring_congr (kb.frame .wins (by decide)) c.port kCq c.cq
    refine ⟨(kb.frame .cmds (by decide)).trans ((kw.frame .cmds (by decide)).trans vc), ?_, ?_, ?_, ?_⟩
    · rw [kb.frame .host (by decide), wh, vh, va, vt, vn]
    · rw [bt, wt, vt]
    · rw [bd, wd, vd]
    · have hb := Counts.bump w (portPage c.port) 1 1
      unfold Counts at hb ⊢
      rw [hb, State.reg_congr ((kw.frame .regs (by decide)).trans (kv.frame .regs (by decide))), hr]

/-- Of the registers, a completion touches the port's count of them alone. -/
theorem RegsOutside.complete (s : State) (c : HostCmd) (d : Done) : RegsOutside [counter (portPage c.port) 1] s (s.complete c d) := by
  unfold State.complete
  extract_lets t
  split
  · have k : Kept [.wins, .host, .queues] t (t.pushEntry c.port kCq c.cq (doneBytes c d t.now)) := State.pushEntry_kept ..
    exact (RegsOutside.of_regs (k.frame .regs (by decide))).thenBump _ 1 1 (by decide) (by simp)
  · exact RegsOutside.of_regs rfl

/-- What comes after a completion leaves it where it touches neither the rings nor the port's count. -/
theorem State.completed.keep {s t u : State} {c : HostCmd} {d : Done} (h : s.completed t c d) (hc : u.cmds = t.cmds) (hh : u.host = t.host)
    (hw : u.wins = t.wins) (hr : u.reg (portPage c.port) (Reg.COUNTER 1) = t.reg (portPage c.port) (Reg.COUNTER 1)) : s.completed u c d := by
  obtain ⟨-, ht, hd, -⟩ := State.ring_congr hw c.port kCq c.cq
  unfold State.completed Counts at *
  dsimp only at h ⊢
  rw [hc, hh, ht, hd, hr]
  exact h

end Sys2Proof.Machine
end

section
/-! PROOF. STRM_CANCEL, and the return of a draining stream to FREE (R251, R252, R266, R268, R411). -/
namespace Sys2Proof.Machine
open Sys2Proof

/-! ### STRM_CANCEL -/

/-- The trigger of STRM_CANCEL is the one field that the register keeps of a write. -/
theorem strmCancel_fields : accMask streamPage Reg.STRM_CANCEL .rw = 0x1FFFFF ∧ accMask streamPage Reg.STRM_CANCEL .sl = 0 ∧
    accMask streamPage Reg.STRM_CANCEL .gw = 0 ∧ (regAt streamPage Reg.STRM_CANCEL).isSome = true := by decide

/-- A write of STRM_CANCEL with its trigger set cancels a stream; the register reads 0 again. -/
theorem exec_strmCancel_admitted {who : Requester} {v : W64} {s : State} (h : s.admits who streamPage Reg.STRM_CANCEL = true) :
    ∃ g : State, Writes streamPage Reg.STRM_CANCEL [] [] s g ∧ g.reg streamPage Reg.STRM_CANCEL = 0 ∧
      exec (.strmCancel who v) s = .next (g.cancelStream (fld v 11 0) (BitVec.ofNat 8 (fld v 19 12))).2 := by
  obtain ⟨m1, m2, m3, m4⟩ := strmCancel_fields
  obtain ⟨g, hw, -, hc⟩ := State.writeCore_writes (setBit v 20 true) h (by decide) (by decide) (by decide) m4 (by decide) (by decide) (by decide)
  rw [m1, m2, m3] at hc
  refine ⟨g.setReg streamPage Reg.STRM_CANCEL 0, hw.more (fs' := [.regs]) (rs' := [(streamPage, Reg.STRM_CANCEL)])
    (State.setReg_kept ..).frame (RegsOutside.setReg _ _ _ _ (by decide)) (by simp) (by simp), State.reg_setReg_same .., ?_⟩
  show execStrmCancel who v s = _
  unfold execStrmCancel strmCancelHook
  rw [hc]
  dsimp only
  have hf : (WEff.mk g Reg.STRM_CANCEL (0x1FFFFF ||| 0 ||| 0) (setBit v 20 true) ((s.dropShadow who streamPage).view who streamPage Reg.STRM_CANCEL)).fires 20 =
      true := by
    unfold WEff.fires fbit
    dsimp only
    rw [BitVec.getLsbD_and, show (setBit v 20 true).getLsbD 20 = true from fbit_setBit_same v 20 true (by decide)]
    decide
  rw [hf, if_pos rfl, fld_setBit_other _ _ _ _ _ (by decide) (.inl (by decide)), fld_setBit_other _ _ _ _ _ (by decide) (.inl (by decide))]

/-- The cancel of a stream leaves STRM_CANCEL as it is. -/
theorem State.cancelStream_strmCancel (s : State) (n : Nat) (g : BitVec 8) :
    (s.cancelStream n g).2.reg streamPage Reg.STRM_CANCEL = s.reg streamPage Reg.STRM_CANCEL := by
  cases h : (s.stream n).live && decide ((s.stream n).gen = g) with
  | true => exact (State.cancelStream_accepted h).2.2.2 _ _ (by decide) (fun c => c.elim (NetReg.global (by decide)) (by decide))
  | false => exact (State.cancelStream_stale h).2.2.2.2 _ _ (by decide) (by decide)

/-- A generation in a field of eight bits. -/
theorem gen_eq_fld (g : BitVec 8) (v : W64) (hi lo : Nat) (h : hi + 1 - lo = 8) :
    decide (g = BitVec.ofNat 8 (fld v hi lo)) = decide (g.toNat = fld v hi lo) := by
  have hlt : fld v hi lo < 2 ^ 8 := h ▸ bits_lt _ hi lo
  rw [decide_eq_decide, ← BitVec.toNat_inj, BitVec.toNat_ofNat, Nat.mod_eq_of_lt hlt]

/-! ### The return to FREE -/

/-- What freeing a stream does before its context changes: its map entries and pages, its reservations and its journal's header. -/
def State.freeWork (s : State) (n : Nat) : State :=
  let x := s.stream n
  let s := (s.mireTake [s.planRange x.polder]).2
  let s := (distinctMaps (s.planSpots x.polder)).foldl (fun (s : State) k => s.freeKv n k) s
  let s : State := { s with kvAreas := s.kvAreas.filter (fun a => a.stream ≠ n) }
  s.jrnCommit n false x.commitPos x.commitSeq

theorem State.freeWork_spec (s : State) (n : Nat) :
    Kept [.regs, .peat, .mire, .peatBad, .mireBad, .banks, .fns, .evWay, .out, .kvAreas] s (s.freeWork n) ∧ MemOnly s (s.freeWork n) := by
  unfold State.freeWork
  extract_lets x s1 s2 s3
  have k1 : Kept [.regs, .peat, .mire, .peatBad, .mireBad, .banks, .fns, .evWay, .out, .kvAreas] s s1 := (State.mireTake_keptP s _).mono rfl
  have k2 : Kept [.regs, .peat, .mire, .peatBad, .mireBad, .banks, .fns, .evWay, .out, .kvAreas] s s2 :=
    k1.trans (Kept.foldl _ (fun t k => (State.freeKv_kept t n k).mono rfl) _ s1)
  have k3 : Kept [.regs, .peat, .mire, .peatBad, .mireBad, .banks, .fns, .evWay, .out, .kvAreas] s s3 := k2.step (Kept.kvAreas ..) rfl
  have m2 : MemOnly s s2 := (MemOnly.mireTake s _).trans (RegsBut.foldl _ (fun t k => MemOnly.freeKv t n k) _ s1)
  exact ⟨k3.step (State.jrnCommit_kept ..) rfl, (m2.trans (RegsBut.of_regs rfl)).trans (MemOnly.jrnCommit s3 _ _ _ _)⟩

/-- The BIND of a stream that has started. -/
def State.bindOf (s : State) (n : Nat) : Option HostCmd :=
  s.cmds.find? (fun c => c.opcode = 1 && c.stage = .started && decide (c.streamNo = n))

/-- What a BIND's completion says of a stream that has ended. -/
def Stream.ended (x : Stream) (n : Nat) : Done :=
  { code := csOk, stream := n, gen := x.genBind.toNat, status := x.status, emitted := x.emitted, commit := x.commitPos }

/-- A stream's context once it is FREE. -/
def Stream.freed (x : Stream) : Stream := { x with st := .free, kept := .free, draftOut := false, inflight := 0 }

/-- A stream's context freed, and its BIND completed. -/
def State.freeEnd (s t : State) (n : Nat) : State :=
  let t := t.setStream n (s.stream n).freed
  match s.bindOf n with
  | none => t
  | some c => t.complete c ((s.stream n).ended n)

theorem exec_streamFree_may {n : StreamIx} {s : State} (h : s.mayFree n.toNat = true) :
    exec (.streamFree n) s = .next ((((s.freeEnd (s.freeWork n.toNat) n.toNat).bump streamPage 1 1).raise streamPage 0)) := by
  have hc : (s.freeWork n.toNat).cmds = s.cmds := (State.freeWork_spec s n.toNat).1.frame .cmds (by decide)
  show execStreamFree n s = _
  unfold execStreamFree
  dsimp only
  rw [h, if_neg (by decide)]
  unfold State.freeEnd State.bindOf
  rw [← hc]
  rfl

/-- A stream freed: its context, and the completion of its BIND where there is one. -/
theorem State.freeEnd_spec {s t : State} {n : Nat}
    (k : Kept [.regs, .peat, .mire, .peatBad, .mireBad, .banks, .fns, .evWay, .out, .kvAreas] s t) (m : MemOnly s t) :
    let u := s.freeEnd t n
    u.stream n = (s.stream n).freed ∧ (∀ j, j ≠ n → u.stream j = s.stream j) ∧
      u.reg streamPage (Reg.COUNTER 1) = s.reg streamPage (Reg.COUNTER 1) ∧ (s.bindOf n = none → u.cmds = s.cmds ∧ u.host = s.host) ∧
      ∀ c, s.bindOf n = some c → s.completed u c ((s.stream n).ended n) := by
  intro u
  obtain ⟨v, hv⟩ : ∃ v, v = t.setStream n (s.stream n).freed := ⟨_, rfl⟩
  have kv : Kept [.streams] t v := hv ▸ State.setStream_kept ..
  have hu : u = (match s.bindOf n with | none => v | some c => v.complete c ((s.stream n).ended n)) := by rw [hv]; rfl
  have s1 : v.stream n = (s.stream n).freed := by rw [hv]; exact State.stream_setStream_same ..
  have s2 (j : Nat) (h : j ≠ n) : v.stream j = s.stream j := by
    rw [hv, State.stream_setStream_other _ _ h]
    exact State.stream_congr (k.frame .streams (by decide)) j
  have rv (p o : Nat) : v.reg p o = t.reg p o := State.reg_congr (kv.frame .regs (by decide)) p o
  have same (f : Field) (h1 : f ≠ .streams) (h2 : f ∉ [.regs, .peat, .mire, .peatBad, .mireBad, .banks, .fns, .evWay, .out, .kvAreas]) :
      f.same s v := by
    have a := k.frame f h2
    have b := kv.frame f (by simpa using h1)
    cases f <;> exact Eq.trans b a
  cases hb : s.bindOf n with
  | none =>
    rw [hb] at hu
    rw [hu]
    refine ⟨s1, s2, ?_, fun _ => ⟨same .cmds (by decide) (by decide), same .host (by decide) (by decide)⟩, fun c h => by cases h⟩
    rw [rv]
    exact m _ _ (by decide) (MemReg.global (by decide))
  | some c =>
    rw [hb] at hu
    have kc : Kept [.regs, .wins, .host, .cmds, .queues] v u := hu ▸ State.complete_kept ..
    have rc : RegsOutside [counter (portPage c.port) 1] v u :=
      hu ▸ RegsOutside.complete v c _
    refine ⟨?_, fun j h => ?_, ?_, fun h => (by cases h), fun d h => ?_⟩
    · rw [State.stream_congr (kc.frame .streams (by decide)), s1]
    · rw [State.stream_congr (kc.frame .streams (by decide)), s2 j h]
    · rw [rc _ _ (by decide) (by cases c.port <;> decide), rv]
      exact m _ _ (by decide) (MemReg.global (by decide))
    · obtain rfl := Option.some.inj h
      rw [hu]
      refine State.complete_completed c _ (same .cmds (by decide) (by decide)) (same .host (by decide) (by decide))
        (same .wins (by decide) (by decide)) (same .now (by decide) (by decide)) ?_
      rw [rv]
      exact m _ _ (by decide) (MemReg.port c.port (by decide))

/-- Settles O36: the cancel of a stream, and the stream that nothing holds back from FREE. -/
theorem streamEnd : Obligations.StreamEnd := by
  unfold Obligations.StreamEnd
  intro who v n s
  refine ⟨?_, ?_⟩
  · intro ha hn x may
    obtain ⟨g, hw, h0, hx⟩ := exec_strmCancel_admitted (v := v) ha
    rw [← hn] at hx
    have gs : g.streams = s.streams := hw.1 .streams (by decide)
    have gx : g.stream n.toNat = x := State.stream_congr gs n.toNat
    have hm : ((g.stream n.toNat).live && decide ((g.stream n.toNat).gen = BitVec.ofNat 8 (fld v 19 12))) = may := by
      rw [gx, gen_eq_fld _ _ _ _ rfl]
    have r0 := (State.cancelStream_strmCancel g n.toNat (BitVec.ofNat 8 (fld v 19 12))).trans h0
    refine ⟨fun h => ?_, fun h => ?_⟩
    · obtain ⟨-, h1, h2, -⟩ := State.cancelStream_accepted (hm.trans h)
      refine ⟨_, hx, r0, h2.before hw.2 (by decide) (by decide), ?_, ?_, ?_⟩ <;> rw [h1] <;> try rfl
      rw [gx]
      rfl
    · obtain ⟨-, k, h2, h3, -⟩ := State.cancelStream_stale (hm.trans h)
      exact ⟨_, hx, r0, h2.before hw.2 (by decide) (by decide), h3, (k.frame .streams (by decide)).trans gs⟩
  · intro x y mine may
    refine ⟨fun h => ⟨s, ?_, rfl⟩, fun h => ⟨_, exec_streamFree_may h, ?_⟩⟩
    · show execStreamFree n s = _
      unfold execStreamFree
      dsimp only
      rw [show s.mayFree n.toNat = false from h, if_pos (by decide)]
    · obtain ⟨k, m⟩ := State.freeWork_spec s n.toNat
      obtain ⟨h1, h2, h3, h4, h5⟩ := State.freeEnd_spec (n := n.toNat) k m
      generalize s.freeEnd (s.freeWork n.toNat) n.toNat = t at *
      have ku : Kept [.regs, .fns, .out] t ((t.bump streamPage 1 1).raise streamPage 0) :=
        ((State.bump_kept ..).mono rfl).step (State.raise_kept ..) rfl
      have ru : RegsOutside (counter streamPage 1 :: evtRegs streamPage) t ((t.bump streamPage 1 1).raise streamPage 0) :=
        ((RegsOutside.refl _ t).thenBump streamPage 1 1 (by decide) List.mem_cons_self).step (RegsOutside.raise _ _ _)
          (fun x hx => List.mem_cons_of_mem _ hx)
      have cu : Counts t ((t.bump streamPage 1 1).raise streamPage 0) streamPage 1 1 :=
        (Counts.bump t streamPage 1 1).after (RegsOutside.raise _ _ _) (by decide) (by simp [evtRegs_eq, counter, Reg.COUNTER, streamPage])
      have eu : Raised ((t.bump streamPage 1 1).raise streamPage 0) streamPage 0 := Raised.raise _ _ _ (by decide)
      generalize (t.bump streamPage 1 1).raise streamPage 0 = u at *
      have es (j : Nat) : u.stream j = t.stream j := State.stream_congr (ku.frame .streams (by decide)) j
      refine ⟨(es _).trans h1, fun j hj => (es j).trans (h2 j hj), ?_, eu, fun h => ?_, fun c h => ?_⟩
      · unfold Counts at cu ⊢
        rw [cu, h3]
      · exact ⟨(ku.frame .cmds (by decide)).trans (h4 h).1, (ku.frame .host (by decide)).trans (h4 h).2⟩
      · refine (h5 c h).keep (ku.frame .cmds (by decide)) (ku.frame .host (by decide)) (ku.frame .wins (by decide)) ?_
        exact ru _ _ (by decide) (by cases c.port <;> decide)

end Sys2Proof.Machine
end

section
/-! PROOF. BIND and CANCEL of a host queue (R266, R267, R404 to R409, R412). -/
namespace Sys2Proof.Machine
open Sys2Proof

/-! ### A BIND that starts -/

theorem exec_bind_fetched {port : HostPort} {q : Fin 64} {c : HostCmd} {s : State} (h : s.fetched port q 1 = some c) :
    exec (.bind port q) s = .next (match s.bindCheck c with | some d => s.complete c d | none => s.stageOf c .begun) := by
  show execBind port q s = _
  unfold execBind
  rw [h]
  dsimp only
  cases s.bindCheck c <;> rfl

section
variable {s : State} {c : HostCmd}

/-- The checks of a BIND that need no memory, as truth values in the order of R406. -/
theorem State.bindCheck_eq (busy gen model fields : Bool)
    (hb : busy = (decide ((s.stream c.streamNo).st ≠ .free) ||
      s.cmds.any (fun o => o.opcode = 1 && o.stage = .begun && decide (o.streamNo = c.streamNo))))
    (hg : gen = decide ((s.stream c.streamNo).gen.toNat = c.genNo))
    (hm : model = (!s.sealHold && s.castInForce && s.polderServes c.polder))
    (hf : fields = (decide (c.cls ≤ 2) && decide (c.treeNodes ≤ 64) && decide (c.treeDepth ≤ 16) && decide (c.promptAddr % 4 = 0) &&
      decide (c.paramAddr % 64 = 0) && c.bindZeros)) :
    s.bindCheck c =
      let d (code : Nat) : Done := { code := code, stream := c.streamNo, gen := c.genNo }
      if busy then some (d csStreamBusy)
      else if !gen then some { d csBadGen with gen := (s.stream c.streamNo).gen.toNat }
      else if !model then some (d csNoModel)
      else if !fields then some (d csBadField)
      else if !s.egressOk c then some (d csBadEgress)
      else if !s.linkOk c then some (d csLinkBad)
      else if decide (c.promptLen = 0) then some { d csRefused with status := stEmptyPrompt }
      else none := by
  have h1 : ((s.stream c.streamNo).st ≠ .free ||
      s.cmds.any (fun o => o.opcode = 1 && o.stage = .begun && decide (o.streamNo = c.streamNo))) = busy := hb.symm
  have h2 : (s.sealHold || !(s.castInForce && s.polderServes c.polder)) = !model := by
    rw [hm]
    cases s.sealHold <;> cases s.castInForce <;> cases s.polderServes c.polder <;> rfl
  have h3 : (2 < c.cls || 64 < c.treeNodes || 16 < c.treeDepth || c.promptAddr % 4 ≠ 0 || c.paramAddr % 64 ≠ 0 || !c.bindZeros) = !fields := by
    rw [hf]
    simp only [Bool.not_and, ← Nat.not_le, decide_not, ne_eq]
  unfold State.bindCheck
  dsimp only
  rw [h1, h2, h3, hg]
  simp only [ne_eq, Bool.not_eq_true', decide_eq_false_iff_not, decide_eq_true_eq]
end

/-! ### The reads and reservations of a BIND -/

/-- Reads of the mire leave what a BIND's end is judged by. -/
structure BindSame (s t : State) : Prop where
  kept : Kept [.regs, .banks, .fns, .evWay, .out] s t
  mem : MemOnly s t

theorem State.mireTake_bindSame (s : State) (l : List (Nat × Nat)) : BindSame s (s.mireTake l).2 := ⟨State.mireTake_keptP s l, MemOnly.mireTake s l⟩

section
variable {s t : State} (h : BindSame s t)
include h

theorem BindSame.sealHold : t.sealHold = s.sealHold := by
  unfold State.sealHold State.rb
  rw [h.mem _ _ (by decide) (MemReg.global (by decide)), h.kept.frame .sealRun (by decide)]

theorem BindSame.readPeat (i o n : Nat) : t.readPeat i o n = s.readPeat i o n := by
  unfold State.readPeat
  rw [h.kept.frame .peat (by decide)]

theorem BindSame.riddleRf {i : Nat} (hi : i < 128) (o hi' lo : Nat) (ho : o < 4096) : t.rf (riddlePage i) o hi' lo = s.rf (riddlePage i) o hi' lo := by
  unfold State.rf
  rw [h.mem _ _ ho (MemReg.riddle hi)]

theorem BindSame.castTile (p k : Nat) : t.castTile p k = s.castTile p k := by
  unfold State.castTile
  simp only [State.slotTile_congr (h.kept.frame .slotMap (by decide))]

theorem BindSame.kvPlan {p : Nat} (hp : p < 8) : t.kvPlan p = s.kvPlan p := by
  have hr (hi lo : Nat) : t.rf polderPage (Reg.POLD_KV p) hi lo = s.rf polderPage (Reg.POLD_KV p) hi lo := by
    unfold State.rf
    rw [h.mem _ _ (by unfold Reg.POLD_KV; omega) (MemReg.global (by decide))]
  have he (a : Nat) : t.planEnt a = s.planEnt a := by
    unfold State.planEnt State.readMire
    rw [h.kept.frame .mire (by decide)]
  unfold State.kvPlan
  simp only [hr, he]

theorem BindSame.planOk {p : Nat} (hp : p < 8) : t.planOk p = s.planOk p := by
  have hs (e : PlanEnt) : t.planSpot p e = s.planSpot p e := by
    unfold State.planSpot State.planCtx
    simp only [h.castTile, h.readPeat]
  unfold State.planOk
  simp only [h.kvPlan hp, hs]

theorem BindSame.gramStart {i g : Nat} (hi : i < 128) (hg : g < 64) : t.gramStart i g = s.gramStart i g := by
  unfold State.gramStart State.gramBase
  rw [h.riddleRf hi _ _ _ (by unfold Reg.GRAM_BASE; omega), h.readPeat]

theorem BindSame.bindCtx (c : HostCmd) (limit : Nat) : bindStream t c limit = bindStream s c limit := by
  unfold bindStream
  rw [State.stream_congr (h.kept.frame .streams (by decide)), h.kept.frame .now (by decide), h.kept.frame .up (by decide)]

/-- A command that ends after them ends as if they had not been. -/
theorem BindSame.completed (c : HostCmd) (d : Done) : s.completed (t.complete c d) c d ∧ (t.complete c d).streams = s.streams :=
  ⟨State.complete_completed c d (h.kept.frame .cmds (by decide)) (h.kept.frame .host (by decide)) (h.kept.frame .wins (by decide))
    (h.kept.frame .now (by decide)) (h.mem _ _ (by decide) (MemReg.port c.port (by decide))),
    ((State.complete_kept t c d).frame .streams (by decide)).trans (h.kept.frame .streams (by decide))⟩
end

theorem HostCmd.polder_lt (c : HostCmd) : c.polder < 8 := bits_lt _ 54 52
theorem HostCmd.streamNo_lt (c : HostCmd) : c.streamNo < 4096 := bits_lt _ 43 32
theorem HostCmd.link_lt (c : HostCmd) : c.link < 4096 := bits_lt _ 27 16

theorem State.homeTile_lt {s : State} {i p n home : Nat} (h : s.homeTile i p n = some home) : home < 128 := by
  unfold State.homeTile at h
  split at h
  · cases h
  · split at h
    · rw [← Option.some.inj h]
      exact Nat.mod_lt _ (by decide)
    · cases h

section
variable {port : HostPort} {q : Fin 64} {dma space : Bool} {c : HostCmd} {s : State} {i home : Nat}

/-- The prompt that a BIND names. -/
def State.bindPrompt (s : State) (port : HostPort) (c : HostCmd) : List Nat :=
  (List.range c.promptLen).map (fun k => leNat (s.readHost port (c.promptAddr + 4 * k) 4))

/-- The end of a BIND: the checks after the reads, in the order of R406. -/
theorem exec_bindingDone_found (hc : s.cmds.find? (fun o => o.port = port && o.sq = q.val && o.stage = .begun && o.opcode = 1) = some c)
    (hi : (s.polderTiles c.polder).head? = some i) (hh : s.homeTile i c.polder c.streamNo = some home) (plan : Bool × State)
    (hplan : plan = s.mireTake [s.planRange c.polder]) (limit : Nat) (hlim : limit = posLimit c.reach (s.planSpots c.polder)) (range : Bool)
    (hrange : range = (s.bindPrompt port c).all (fun k => decide (k < s.rf (riddlePage home) Reg.RID_VOCAB 18 0))) :
    let d (code : Nat) : Done := { code := code, stream := c.streamNo, gen := c.genNo }
    exec (.bindingDone port q dma space) s = .next (
      if s.sealHold then plan.2.complete c (d csNoModel)
      else if !dma then plan.2.complete c (d csDmaErr)
      else if !range then plan.2.complete c (d csTokenRange)
      else if !plan.1 then plan.2.complete c (d csNoSpace)
      else if limit ≤ c.promptLen then plan.2.complete c { d csRefused with status := stLength }
      else if !(space && s.planOk c.polder) then plan.2.complete c (d csNoSpace)
      else match plan.2.reserveKv c.streamNo c.polder c.reach with
        | none => plan.2.complete c (d csNoSpace)
        | some r => plan.2.bindNow c home (s.readHost port c.paramAddr 576) (s.bindPrompt port c) limit r.1 r.2) := by
  intro d
  subst hplan hlim hrange
  obtain ⟨t, ht⟩ : ∃ t, t = (s.mireTake [s.planRange c.polder]).2 := ⟨_, rfl⟩
  have hb : BindSame s t := ht ▸ State.mireTake_bindSame s _
  have hlt := State.homeTile_lt hh
  have hr : ∀ l : List Nat, (l.any (fun k => decide (t.rf (riddlePage home) Reg.RID_VOCAB 18 0 ≤ k)) = true) =
      ((!l.all (fun k => decide (k < s.rf (riddlePage home) Reg.RID_VOCAB 18 0))) = true) := by
    intro l
    rw [hb.riddleRf hlt _ _ _ (by decide), List.not_all_eq_any_not]
    simp only [← Nat.not_le, decide_not, Bool.not_not]
  show execBindingDone port q dma space s = _
  unfold execBindingDone
  dsimp only
  rw [hc]
  dsimp only
  rw [hi, Option.bind_some, hh]
  dsimp only
  rw [← ht, hb.sealHold, hb.planOk c.polder_lt]
  simp only [hr, Bool.not_and]
  rw [State.bindPrompt]
  cases t.reserveKv c.streamNo c.polder c.reach with
  | none =>
    simp only [apply_ite Host.Outcome.next]
    rfl
  | some r =>
    simp only [apply_ite Host.Outcome.next]
    rfl
end


/-! ### A stream that becomes BOUND -/

theorem padTo_length (n : Nat) (b : List Byte) : (padTo n b).length = n := by
  unfold padTo
  rw [List.length_append, List.length_take, List.length_replicate]
  omega

theorem bindRecord_length (b : List Byte) (prompt : List Nat) (g : Nat) : (bindRecord b prompt g).length = 2048 := by
  unfold bindRecord
  dsimp only
  simp only [List.length_append, leBytes_length, padTo_length, List.length_replicate]

/-- Bytes written through to the mirrors read back from peat where they lie there whole. -/
theorem State.readPeat_writeMirrored (s : State) (i off : Nat) (bs : List Byte) (h : off + bs.length ≤ peatSize) :
    (s.writeMirrored i off bs).readPeat i off bs.length = bs := by
  have k : Kept [.regs, .mire, .mireBad, .banks, .fns, .evWay, .out] (s.writePeat i off bs) ((s.writePeat i off bs).writeMirrors i off bs) :=
    State.writeMirrors_kept ..
  unfold State.writeMirrored
  dsimp only
  rw [List.take_of_length_le (by omega)]
  unfold State.readPeat
  rw [k.frame .peat (by decide)]
  exact getBytes_putBytes ..

theorem MemOnly.placeKv (s : State) (n : Nat) (g : BitVec 8) (x : KvHome) : MemOnly s (s.placeKv n g x) := by
  unfold State.placeKv
  extract_lets t u
  exact (RegsBut.foldl _ (fun v p => MemOnly.writeMirrored v _ _ _) _ s).trans (MemOnly.writeMirrored u _ _ _)

theorem MemOnly.placeAll (s : State) (n : Nat) (g : BitVec 8) (homes : List KvHome) (taken : KvTaken) : MemOnly s (s.placeAll n g homes taken) :=
  (RegsBut.of_regs rfl).trans (RegsBut.foldl _ (fun v x => MemOnly.placeKv v n g x) homes _)

/-- The tiles of a polder are read from the registers of the CETIS and POLDER pages. -/
theorem MemOnly.polderTiles {s t : State} (h : MemOnly s t) (p : Nat) : t.polderTiles p = s.polderTiles p := by
  have hp (i o : Nat) (hi : i < 80) : ¬MemReg (cetisPage i, o) := by
    rintro (⟨k, hk⟩ | ⟨j, hj⟩ | h1 | h1)
    · simp only [cetisPage, peatPage, tilePage] at hk
      omega
    · simp only [cetisPage, mirePage, tilePage, diePage] at hj
      omega
    · have := (Prod.mk.inj h1).1
      simp only [cetisPage, tilePage, portPage, pciePage, portDie, diePage] at this
      omega
    · have := (Prod.mk.inj h1).1
      simp only [cetisPage, tilePage, portPage, pciePage, portDie, diePage] at this
      omega
  unfold State.polderTiles
  refine List.filter_congr fun i hi => ?_
  have hi' := List.mem_range.mp hi
  have e1 : t.member i = s.member i := by
    unfold State.member State.rb
    rw [h _ _ (by decide) (hp i _ hi')]
  have e2 : t.polderOf i = s.polderOf i := by
    unfold State.polderOf State.rf
    rw [h _ _ (by decide) (hp i _ hi')]
  have e3 : t.live i = s.live i := by
    unfold State.live State.tstate State.rf
    rw [h polderPage _ (by unfold Reg.TSTATE; omega) (MemReg.global (by decide))]
  rw [e1, e2, e3]

theorem State.genAt_setGenAt (s : State) (i j : Nat) {n m : Nat} (g : BitVec 8) (hn : n < 4096) (hm : m < 4096) :
    (s.setGenAt i n g).genAt j m = if j = i ∧ m = n then g else s.genAt j m := by
  by_cases h : j = i ∧ m = n
  · rw [if_pos h, h.1, h.2]
    exact Store.get_set_same ..
  · rw [if_neg h]
    exact Store.get_set_other _ _ _ _ _ (by omega)

/-- A generation spread over a polder: every tile of it holds the stream's, and nothing else changes. -/
theorem State.genAt_spreadGen (s : State) (p j : Nat) {n m : Nat} (hn : n < 4096) (hm : m < 4096) :
    (s.spreadGen p n).genAt j m = if j ∈ s.polderTiles p ∧ m = n then (s.stream n).gen else s.genAt j m := by
  have key (l : List Nat) (t : State) (ht : t.streams = s.streams) :
      (l.foldl (fun (s : State) i => s.setGenAt i n (s.stream n).gen) t).genAt j m =
        if j ∈ l ∧ m = n then (s.stream n).gen else t.genAt j m := by
    induction l generalizing t with
    | nil => simp
    | cons i r ih =>
      rw [List.foldl_cons, ih (t.setGenAt i n (t.stream n).gen) ht, State.genAt_setGenAt _ _ _ _ hn hm, State.stream_congr ht]
      by_cases h1 : m = n <;> by_cases h2 : j = i <;> simp [h1, h2]
  exact key _ s rfl

/-- What binding a stream does up to its generation: its structures, its record, its context and its journal's headers. -/
def State.bindWork (s : State) (c : HostCmd) (home : Nat) (params : List Byte) (prompt : List Nat) (limit : Nat) (homes : List KvHome)
    (taken : KvTaken) : State :=
  let n := c.streamNo
  let w5 := leAt params 40 8
  let gstate := if bit w5 22 then s.gramStart home (bits w5 21 16) else 0
  let x := bindStream s c limit
  let s := s.placeAll n x.gen homes taken
  let s := s.writeMirrored home (s.recordAt home n) (bindRecord params prompt gstate)
  ((s.setStream n x).jrnCommit n true 0 0).jrnEmission n 0 gstate

/-- The generation of a stream spread over its polder, and over its linked stream's with that stream's over this one's. -/
def State.bindSpread (s : State) (c : HostCmd) : State :=
  let s := s.spreadGen c.polder c.streamNo
  if c.linked && !c.draft then (s.spreadGen (s.stream c.link).polder c.streamNo).spreadGen c.polder c.link else s

theorem State.bindNow_eq (s : State) (c : HostCmd) (home : Nat) (params : List Byte) (prompt : List Nat) (limit : Nat) (homes : List KvHome)
    (taken : KvTaken) : s.bindNow c home params prompt limit homes taken =
      ((((s.bindWork c home params prompt limit homes taken).bindSpread c).bump streamPage 0 1).stageOf c .started) := rfl

theorem State.bindSpread_spec (s : State) (c : HostCmd) :
    Kept [.genTab] s (s.bindSpread c) ∧ ∀ j ∈ s.polderTiles c.polder, (s.bindSpread c).genAt j c.streamNo = (s.stream c.streamNo).gen := by
  obtain ⟨t, ht⟩ : ∃ t, t = s.spreadGen c.polder c.streamNo := ⟨_, rfl⟩
  have k1 : Kept [.genTab] s t := ht ▸ State.spreadGen_kept ..
  have hg (j : Nat) (hj : j ∈ s.polderTiles c.polder) : t.genAt j c.streamNo = (s.stream c.streamNo).gen := by
    rw [ht, State.genAt_spreadGen _ _ _ c.streamNo_lt c.streamNo_lt, if_pos ⟨hj, rfl⟩]
  have hu : s.bindSpread c = if c.linked && !c.draft then (t.spreadGen (t.stream c.link).polder c.streamNo).spreadGen c.polder c.link else t := by
    rw [ht]
    rfl
  rw [hu]
  split
  · obtain ⟨v, hv⟩ : ∃ v, v = t.spreadGen (t.stream c.link).polder c.streamNo := ⟨_, rfl⟩
    have k2 : Kept [.genTab] t v := hv ▸ State.spreadGen_kept ..
    have st : t.stream c.streamNo = s.stream c.streamNo := State.stream_congr (k1.frame .streams (by decide)) _
    have sv : v.stream c.streamNo = s.stream c.streamNo := (State.stream_congr (k2.frame .streams (by decide)) _).trans st
    rw [← hv]
    refine ⟨(k1.trans k2).trans (State.spreadGen_kept ..), fun j hj => ?_⟩
    have gv : v.genAt j c.streamNo = (s.stream c.streamNo).gen := by
      rw [hv, State.genAt_spreadGen _ _ _ c.streamNo_lt c.streamNo_lt, hg j hj, st, ite_self]
    rw [State.genAt_spreadGen _ _ _ c.link_lt c.streamNo_lt, gv]
    split
    next h => rw [← h.2, sv]
    next => rfl
  · exact ⟨k1, hg⟩

section
variable {s t : State} {c : HostCmd} {home limit : Nat} {params : List Byte} {prompt : List Nat} {homes : List KvHome} {taken : KvTaken}

/-- The work of a BIND: the context and the record are as the BIND names them. -/
theorem State.bindWork_spec (hb : BindSame s t) (hh : home < 128) (hf : s.recordFits home c.streamNo = true) :
    let g := if bit (leAt params 40 8) 22 then s.gramStart home (bits (leAt params 40 8) 21 16) else 0
    let u := t.bindWork c home params prompt limit homes taken
    u.stream c.streamNo = bindStream s c limit ∧ (∀ m, m ≠ c.streamNo → u.stream m = s.stream m) ∧ MemOnly s u ∧
      u.host = s.host ∧ u.cmds = s.cmds ∧ u.readPeat home (s.recordAt home c.streamNo) 2048 = bindRecord params prompt g := by
  intro g u
  obtain ⟨v1, h1⟩ : ∃ v, v = t.placeAll c.streamNo (bindStream s c limit).gen homes taken := ⟨_, rfl⟩
  obtain ⟨v2, h2⟩ : ∃ v, v = v1.writeMirrored home (v1.recordAt home c.streamNo) (bindRecord params prompt g) := ⟨_, rfl⟩
  obtain ⟨v3, h3⟩ : ∃ v, v = v2.setStream c.streamNo (bindStream s c limit) := ⟨_, rfl⟩
  have hu : u = (v3.jrnCommit c.streamNo true 0 0).jrnEmission c.streamNo 0 g := by
    show t.bindWork c home params prompt limit homes taken = _
    unfold State.bindWork
    dsimp only
    rw [hb.gramStart hh (bits_lt _ 21 16), hb.bindCtx, h3, h2, h1]
  have m1 : MemOnly s v1 := hb.mem.trans (h1 ▸ MemOnly.placeAll t _ _ _ _)
  have m2 : MemOnly s v2 := m1.trans (h2 ▸ MemOnly.writeMirrored v1 _ _ _)
  have m3 : MemOnly s v3 := m2.trans (RegsBut.of_regs (by rw [h3]; rfl))
  have k1 : Kept [.fresh, .regs, .peat, .mire, .peatBad, .mireBad, .banks, .kvAreas, .fns, .evWay, .out] s v1 :=
    (hb.kept.mono rfl).trans (h1 ▸ State.placeAll_kept ..)
  have k2 : Kept [.fresh, .regs, .peat, .mire, .peatBad, .mireBad, .banks, .kvAreas, .fns, .evWay, .out] s v2 :=
    k1.step (h2 ▸ State.writeMirrored_kept ..) rfl
  have k3 : Kept [.streams] v2 v3 := h3 ▸ State.setStream_kept ..
  have k4 : Kept [.regs, .mire, .mireBad, .banks, .fns, .out] v3 u :=
    hu ▸ (State.jrnCommit_kept v3 c.streamNo true 0 0).trans (State.jrnEmission_kept ..)
  have hr : v1.recordAt home c.streamNo = s.recordAt home c.streamNo := by
    unfold State.recordAt State.rf
    rw [m1 _ _ (by decide) (MemReg.riddle hh)]
  refine ⟨?_, fun m hm => ?_, ?_, ?_, ?_, ?_⟩
  · rw [State.stream_congr (k4.frame .streams (by decide)), h3, State.stream_setStream_same]
  · rw [State.stream_congr (k4.frame .streams (by decide)), h3, State.stream_setStream_other _ _ hm,
      State.stream_congr (k2.frame .streams (by decide))]
  · exact m3.trans (hu ▸ (MemOnly.jrnCommit v3 _ _ _ _).trans (MemOnly.jrnEmission _ _ _ _))
  · exact (k4.frame .host (by decide)).trans ((k3.frame .host (by decide)).trans (k2.frame .host (by decide)))
  · exact (k4.frame .cmds (by decide)).trans ((k3.frame .cmds (by decide)).trans (k2.frame .cmds (by decide)))
  · have hp : u.peat = v2.peat := (k4.frame .peat (by decide)).trans (k3.frame .peat (by decide))
    have hl := bindRecord_length params prompt g
    have := State.readPeat_writeMirrored v1 home (v1.recordAt home c.streamNo) (bindRecord params prompt g) (by
      rw [hl, hr]
      exact of_decide_eq_true hf)
    rw [← h2, hl, hr] at this
    unfold State.readPeat at this ⊢
    rw [hp, this]

/-- A stream that becomes BOUND. -/
theorem State.bindNow_spec (hb : BindSame s t) (hh : home < 128) (hf : s.recordFits home c.streamNo = true) :
    let g := if bit (leAt params 40 8) 22 then s.gramStart home (bits (leAt params 40 8) 21 16) else 0
    let u := t.bindNow c home params prompt limit homes taken
    u.stream c.streamNo = bindStream s c limit ∧ (∀ m, m ≠ c.streamNo → u.stream m = s.stream m) ∧
      (∀ j ∈ s.polderTiles c.polder, u.genAt j c.streamNo = (s.stream c.streamNo).gen) ∧ Counts s u streamPage 0 1 ∧ u.host = s.host ∧
      u.cmds = s.cmds.map (fun o => if o = c then { o with stage := .started } else o) ∧
      u.readPeat home (s.recordAt home c.streamNo) 2048 = bindRecord params prompt g := by
  intro g u
  obtain ⟨h1, h2, h3, h4, h5, h6⟩ := State.bindWork_spec (params := params) (prompt := prompt) (limit := limit) (homes := homes) (taken := taken) hb hh hf
  obtain ⟨v, hv⟩ : ∃ v, v = t.bindWork c home params prompt limit homes taken := ⟨_, rfl⟩
  have hu : u = ((v.bindSpread c).bump streamPage 0 1).stageOf c .started := by rw [hv]; exact State.bindNow_eq ..
  rw [← hv] at h1 h2 h3 h4 h5 h6
  obtain ⟨k1, hg⟩ := State.bindSpread_spec v c
  rw [h3.polderTiles, h1] at hg
  generalize v.bindSpread c = w at *
  have k2 : Kept [.regs, .cmds] w u := hu ▸ ((State.bump_kept ..).mono rfl).step (State.stageOf_kept ..) rfl
  have k : Kept [.regs, .cmds, .genTab] v u := (k1.mono rfl).step k2 rfl
  refine ⟨?_, fun m hm => ?_, fun j hj => ?_, ?_, (k.frame .host (by decide)).trans h4, ?_, ?_⟩
  · rw [State.stream_congr (k.frame .streams (by decide)), h1]
  · rw [State.stream_congr (k.frame .streams (by decide)), h2 m hm]
  · rw [State.genAt_congr (k2.frame .genTab (by decide)), hg j hj]
    rfl
  · have c1 : Counts w u streamPage 0 1 := by
      rw [hu]
      exact (Counts.bump w streamPage 0 1).after (l := []) (RegsOutside.of_regs rfl) (by decide) (by simp)
    exact h3.counts (c1.before (l := []) (RegsOutside.of_regs (k1.frame .regs (by decide))) (by decide) (by simp)) (by decide)
      (MemReg.global (by decide))
  · rw [hu, ← h5, ← (k1.frame .cmds (by decide) : w.cmds = v.cmds)]
    rfl
  · unfold State.readPeat at h6 ⊢
    rw [k.frame .peat (by decide), h6]
end

/-! ### CANCEL -/

theorem exec_cancel_fetched {port : HostPort} {q : Fin 64} {c : HostCmd} {s : State} (h : s.fetched port q 2 = some c) :
    let d (code : Nat) : Done := { code := code, stream := c.streamNo, gen := c.genNo }
    exec (.cancel port q) s = .next (
      if !(decide (bits (c.w 0) 15 8 = 0) && decide (bits (c.w 0) 63 52 = 0) && c.zeroFrom 1) then s.complete c (d csBadField)
      else (s.cancelStream c.streamNo (BitVec.ofNat 8 c.genNo)).2.complete c
        (d (if (s.cancelStream c.streamNo (BitVec.ofNat 8 c.genNo)).1 then csOk else csStale))) := by
  intro d
  show execCancel port q s = _
  unfold execCancel
  rw [h]
  dsimp only
  simp only [apply_ite Host.Outcome.next, Bool.not_and, ne_eq, decide_not]
  rfl

/-- A cancel leaves the rings, and a port's count of completions. -/
theorem State.cancelStream_completed (s : State) (n : Nat) (g : BitVec 8) (c : HostCmd) (d : Done) :
    s.completed ((s.cancelStream n g).2.complete c d) c d := by
  have k := State.cancelStream_keptP s n g
  refine State.complete_completed c d (k.frame .cmds (by decide)) (k.frame .host (by decide)) (k.frame .wins (by decide))
    (k.frame .now (by decide)) ?_
  cases h : (s.stream n).live && decide ((s.stream n).gen = g) with
  | true =>
    refine (State.cancelStream_accepted h).2.2.2 _ _ (by decide) fun e => e.elim (NetReg.port c.port (by decide)) fun e => ?_
    cases hp : c.port <;> rw [hp] at e <;> exact absurd e (by decide)
  | false =>
    refine (State.cancelStream_stale h).2.2.2.2 _ _ (by decide) ?_
    cases c.port <;> decide

/-- A completion leaves the streams, and the registers of the STREAM page. -/
theorem State.complete_stream (s : State) (c : HostCmd) (d : Done) :
    (s.complete c d).streams = s.streams ∧ ∀ o, o < 4096 → (s.complete c d).reg streamPage o = s.reg streamPage o :=
  ⟨(State.complete_kept s c d).frame .streams (by decide), fun o ho => RegsOutside.complete s c d streamPage o ho (by
    cases c.port <;> simp [counter, streamPage, portPage, pciePage, portDie, diePage])⟩

theorem Counts.complete {s t : State} {k n : Nat} (h : Counts s t streamPage k n) (c : HostCmd) (d : Done) (hk : k < 496) :
    Counts s (t.complete c d) streamPage k n := by
  unfold Counts at *
  rw [(State.complete_stream t c d).2 _ (by unfold Reg.COUNTER; omega), h]

/-- Settles O35: the checks of a BIND, the end of its reads, and a CANCEL. -/
theorem streamBinding : Obligations.StreamBinding := by
  unfold Obligations.StreamBinding
  intro port q c s n x d
  refine ⟨?_, ?_, ?_⟩
  · intro hf busy model fields ends
    have hx := exec_bind_fetched hf
    rw [State.bindCheck_eq busy (decide (x.gen.toNat = c.genNo)) model fields rfl rfl rfl rfl] at hx
    have done (e : Done) (h : exec (.bind port q) s = .next (s.complete c e)) : ends e :=
      ⟨_, h, State.complete_completed c e rfl rfl rfl rfl rfl, (State.complete_stream s c e).1⟩
    refine ⟨fun hb => done _ ?_, fun hb hg => done _ ?_, fun hb hg hm => done _ ?_, fun hb hg hm hfl => done _ ?_, fun hb hg hm hfl => ?_⟩
    · rw [hx, hb]
      rfl
    · rw [hx, hb, decide_eq_false hg]
      rfl
    · rw [hx, hb, decide_eq_true hg, hm]
      rfl
    · rw [hx, hb, decide_eq_true hg, hm, hfl]
      rfl
    · rw [hb, decide_eq_true hg, hm, hfl] at hx
      refine ⟨fun he => done _ ?_, fun he hl => done _ ?_, fun he hl hp => done _ ?_, fun he hl hp => ?_⟩
      · rw [hx, he]
        rfl
      · rw [hx, he, hl]
        rfl
      · rw [hx, he, hl, decide_eq_true hp]
        rfl
      · rw [he, hl, decide_eq_false hp] at hx
        exact ⟨_, hx, (State.stageOf_kept ..).frame, rfl⟩
  · intro dma space i home hc hi hh prompt spots limit range plan room ends
    have hb : BindSame s plan.2 := State.mireTake_bindSame s _
    have hx := exec_bindingDone_found (dma := dma) (space := space) hc hi hh plan rfl limit rfl range rfl
    have done (e : Done) (h : exec (.bindingDone port q dma space) s = .next (plan.2.complete c e)) : ends e := ⟨_, h, hb.completed c e⟩
    refine ⟨fun h1 => done _ ?_, fun h1 h2 => done _ ?_, fun h1 h2 h3 => done _ ?_, fun h1 h2 h3 h4 => done _ ?_,
      fun h1 h2 h3 h4 h5 => done _ ?_, fun h1 h2 h3 h4 h5 h6 => done _ ?_, fun h1 h2 h3 h4 h5 h6 h7 => ?_⟩
    · rw [hx, h1]
      rfl
    · rw [hx, h1, h2]
      rfl
    · rw [hx, h1, h2, h3]
      rfl
    · rw [hx, h1, h2, h3, h4]
      rfl
    · rw [hx, h1, h2, h3, h4, if_pos h5]
      rfl
    · rw [hx, h1, h2, h3, h4, if_neg (Nat.not_le.mpr h5)]
      cases hk : space && s.planOk c.polder with
      | false => rfl
      | true =>
        have hn : (plan.2.reserveKv n c.polder c.reach).isSome = false := by
          unfold room at h6
          rw [hk] at h6
          exact h6
        rw [Option.isSome_eq_false_iff, Option.isNone_iff_eq_none] at hn
        rw [hn]
        rfl
    · intro params w5 gstate
      obtain ⟨hk, hr⟩ := Bool.and_eq_true_iff.mp h6
      obtain ⟨r, hr⟩ := Option.isSome_iff_exists.mp hr
      subst h2
      dsimp only at hx
      rw [h1, h3, h4, if_neg (Nat.not_le.mpr h5), hk, hr] at hx
      obtain ⟨e1, e2, e3, e4, e5, e6, e7⟩ := State.bindNow_spec (params := params) (prompt := prompt) (limit := limit) (homes := r.1) (taken := r.2)
        hb (State.homeTile_lt hh) h7
      exact ⟨plan.2.bindNow c home params prompt limit r.1 r.2, hx, e1, by rw [e1]; rfl, e2, e3, e4, e5, e6, e7⟩
  · intro hf zeros may
    have hx := exec_cancel_fetched hf
    dsimp only at hx
    refine ⟨fun hz => ?_, fun hz hm => ?_, fun hz hm => ?_⟩
    · rw [show (_ && _ && _) = false from hz] at hx
      exact ⟨_, hx, State.complete_completed c _ rfl rfl rfl rfl rfl, (State.complete_stream s c _).1⟩
    · obtain ⟨h1, h2, h3, -⟩ := State.cancelStream_accepted (s := s) (n := n) (g := BitVec.ofNat 8 c.genNo) hm
      rw [show (_ && _ && _) = true from hz, h1, if_neg (by decide)] at hx
      have e (e : Done) := State.stream_congr (State.complete_stream (s.cancelStream n (BitVec.ofNat 8 c.genNo)).2 c e).1 n
      refine ⟨_, hx, State.cancelStream_completed s n _ c _, h3.complete c _ (by decide), ?_, ?_, ?_⟩ <;> rw [e, h2] <;> rfl
    · obtain ⟨h1, k, h3, h4, -⟩ := State.cancelStream_stale (s := s) (n := n) (g := BitVec.ofNat 8 c.genNo) hm
      rw [show (_ && _ && _) = true from hz, h1, if_neg (by decide)] at hx
      refine ⟨_, hx, State.cancelStream_completed s n _ c _, ?_, h3.complete c _ (by decide), ?_⟩
      · exact (State.complete_stream _ c _).1.trans (k.frame .streams (by decide))
      · unfold Raised State.rb at h4 ⊢
        rw [(State.complete_stream _ c _).2 _ (by decide), h4]

end Sys2Proof.Machine
end

section
/-! PROOF. Generation and management packets, the hop of a packet and the lanes of a link (R267, R315 to R336). -/
namespace Sys2Proof.Machine
open Sys2Proof

/-! ### Generation updates -/

theorem exec_genUpdate_accepted {i : TileIx} {p : Packet} {s : State} (h : s.accepts i opGen p = true) :
    ∃ u, exec (.genUpdate p) s = .next u ∧
      u.genTab = ((s.takePkt p).setGenAt i (p.addr.toNat % 4096) (BitVec.ofNat 8 p.operand.toNat)).genTab := by
  obtain ⟨t, ht⟩ : ∃ t, t = (s.takePkt p).setGenAt i (p.addr.toNat % 4096) (BitVec.ofNat 8 p.operand.toNat) := ⟨_, rfl⟩
  obtain ⟨beds, hx⟩ : ∃ beds : List Nat, exec (.genUpdate p) s =
      .next (((beds.foldl (fun (t : State) b => t.dropStale b i) t).dropStaleMoves i).dropRidStale i) := by
    refine ⟨(t.bedsOf (t.polderOf i)).filter (fun b => t.entryTile b = some i.val), ?_⟩
    show execGenUpdate p s = _
    unfold execGenUpdate
    rw [(State.accepts_wf h).1, if_neg (by decide), State.eject_accepted h, ht]
  rw [← ht]
  refine ⟨_, hx, ?_⟩
  have k1 : Kept [.regs, .net, .ports, .streams, .beds, .places, .fns, .reports, .out] t (beds.foldl (fun (t : State) b => t.dropStale b i) t) :=
    Kept.foldl _ (fun v b => State.dropStale_kept v b i) beds t
  generalize beds.foldl (fun (t : State) b => t.dropStale b i) t = v at *
  exact ((State.dropRidStale_kept ..).frame .genTab (by decide)).trans
    (((State.dropStaleMoves_kept ..).frame .genTab (by decide)).trans (k1.frame .genTab (by decide)))

/-! ### Management packets -/

section
variable {p : Packet} {s : State}

theorem exec_mgmt_tile {i : TileIx} (h : s.accepts i opMgmt p = true) :
    exec (.mgmt p) s = .next (if !(p.sys && isDie p.src.toNat) then s.takePkt p
      else if mgKind p.operand.toNat = 1 then
        (s.takePkt p).setRf (cetisPage i) Reg.EPOCH (4 * bits p.operand.toNat 2 0 + 3) (4 * bits p.operand.toNat 2 0) (bits p.operand.toNat 11 8)
      else if mgKind p.operand.toNat = 5 then (s.takePkt p).setTideLim i (bits p.operand.toNat 9 0)
      else if mgKind p.operand.toNat = 6 then (s.takePkt p).setQuenchLim i (bits p.operand.toNat 9 0)
      else (s.takePkt p).mgmtAt i p) := by
  obtain ⟨hw, -, hd⟩ := State.accepts_wf h
  show execMgmt p s = _
  unfold execMgmt
  dsimp only
  rw [hw, hd, if_neg (by decide), if_neg (by decide), State.eject_accepted h]

theorem exec_mgmt_die {d : DieIx} (hw : Packet.wf p = true) (ha : s.arrivable opMgmt p = true) (hd : p.dst.toNat = dieEnd d)
    (hi : Packet.intact p = true) (he : p.sys = true ∨ p.epoch = Store.get 0 s.rimEpoch (d * 8 + p.polder.toNat)) :
    exec (.mgmt p) s = .next (if !(p.sys && isDie p.src.toNat) then s.takePkt p
      else if mgKind p.operand.toNat = 1 then
        { s.takePkt p with
          rimEpoch := Store.set 0 s.rimEpoch (d * 8 + bits p.operand.toNat 2 0) (BitVec.ofNat 4 (bits p.operand.toNat 11 8)) }
      else (s.takePkt p).mgmtAt (80 + d) p) := by
  have hlt := d.isLt
  have hdie : isDie p.dst.toNat = true := by rw [hd]; simp [isDie, dieEnd]
  have e : p.dst.toNat - 0x80 = d.val := by rw [hd]; unfold dieEnd; omega
  have c1 : (!s.arrivable opMgmt p || decide (p.dst.toNat < 0x80) || decide (8 ≤ d.val)) = false := by
    rw [ha, hd]
    simp [dieEnd]
  have c2 : (!p.sys && decide (p.epoch ≠ Store.get 0 (s.takePkt p).rimEpoch (d * 8 + p.polder.toNat))) = false := by
    rcases he with h | h
    · simp [h]
    · rw [show (s.takePkt p).rimEpoch = s.rimEpoch from rfl, h]
      simp
  show execMgmt p s = _
  unfold execMgmt
  dsimp only
  rw [hw, hdie, if_neg (by decide), if_pos rfl]
  unfold State.ejectDie
  dsimp only
  rw [e, c1, if_neg (by decide), hi, if_neg (by decide), c2, if_neg (by decide)]
  rfl

/-- An epoch set at a tile: one polder's, by value; the others' stay. -/
theorem State.epochOf_setRf (s : State) (i q : Nat) {pol v : Nat} (hq : q < 8) (hp : pol < 8) (hv : v < 16) :
    (s.setRf (cetisPage i) Reg.EPOCH (4 * pol + 3) (4 * pol) v).epochOf i q = if q = pol then v else s.epochOf i q := by
  unfold State.epochOf State.rf State.setRf
  rw [State.reg_setReg_same]
  split
  next h =>
    rw [h, fld_setFld_same _ _ _ _ (by omega), show 4 * pol + 3 + 1 - 4 * pol = 4 by omega]
    exact Nat.mod_eq_of_lt hv
  next h => exact fld_setFld_other _ _ _ _ _ _ (by omega) (by omega)

theorem State.mgmtAt_write {s : State} {unit : Nat} (h : mgKind p.operand.toNat = 2) (hu : (unitPages unit).contains (p.addr.toNat / 4096) = true) :
    s.mgmtAt unit p = s.writeReg (mgWho p.operand.toNat) (p.addr.toNat / 4096) (p.addr.toNat % 4096)
      (if bit p.operand.toNat 4 then .b64 else .b32) (BitVec.ofNat 64 (leAt p.payload 0 8)) := by
  unfold State.mgmtAt
  dsimp only
  rw [h, hu, if_pos (by decide)]
end

/-! ### Packets dropped at a router -/

/-- What a drop leaves at its tile: the count, the event of the cause and the record (R335, R336). -/
structure DroppedAt (s u : State) (d : TileIx) (cause event : Nat) (p : Packet) : Prop where
  counts : Counts s u (cetisPage d) 6 1
  raised : Raised u (cetisPage d) event
  last : u.reg (cetisPage d) Reg.DROP_LAST =
    word [(0, p.src.toNat), (8, p.dst.toNat), (16, p.polder.toNat), (19, p.epoch.toNat), (23, cause), (32, s.ts)]

/-- The event of a drop's cause. -/
def dropEvent (cause : Nat) : Nat := if cause = 2 then 1 else if cause = 4 then 4 else 0

theorem dropEvent_lt (cause : Nat) : dropEvent cause < 64 := by
  unfold dropEvent
  split
  · decide
  split <;> decide

theorem State.dropPkt_dropped (s : State) (d : TileIx) (cause : Nat) (p : Packet) :
    DroppedAt s (s.dropPkt d cause p) d cause (dropEvent cause) p := by
  obtain ⟨a, ha⟩ : ∃ a, a = s.bump (cetisPage d) 6 1 := ⟨_, rfl⟩
  obtain ⟨b, hb⟩ : ∃ b, b = a.setReg (cetisPage d) Reg.DROP_LAST (word [(0, p.src.toNat), (8, p.dst.toNat), (16, p.polder.toNat),
    (19, p.epoch.toNat), (23, cause), (32, s.ts)]) := ⟨_, rfl⟩
  obtain ⟨c, hc⟩ : ∃ c, c = b.raise (cetisPage d) (dropEvent cause) := ⟨_, rfl⟩
  have hu : s.dropPkt d cause p = if cause = 4 then c.report d 4 6 0 else c := by rw [hc, hb, ha]; rfl
  have r3 : RegsOutside (evtRegs (cetisPage d)) b c := hc ▸ RegsOutside.raise b _ _
  have r4 : RegsOutside (reportRegs d) c (s.dropPkt d cause p) :=
    hu ▸ RegsOutside.thenIf (fun _ => (State.report_frame c d 4 6 0 (by decide) (by decide)).1) (fun _ => RegsOutside.refl _ c)
  have nr (o : Nat) : (cetisPage d, o) ∉ reportRegs d := tilePage_notReported d (by decide) o
  have r2 : RegsOutside [(cetisPage d, Reg.DROP_LAST)] a b := hb ▸ RegsOutside.setReg a _ _ _ (by decide)
  obtain ⟨na, nb, -⟩ := tilePage_notPort d (show 9 < 16 by decide)
  refine ⟨?_, ?_, ?_⟩
  · have h1 : Counts s a (cetisPage d) 6 1 := ha ▸ Counts.bump ..
    exact ((h1.after r2 (by decide) (by simp [counter, Reg.COUNTER, Reg.DROP_LAST])).after r3 (by decide)
      (counter_notEvt d (by decide) 6)).after r4 (by decide) (nr _)
  · have h3 : Raised c (cetisPage d) (dropEvent cause) := hc ▸ Raised.raise _ _ _ (dropEvent_lt cause)
    exact h3.outside r4 (nr _)
  · rw [r4 _ _ (by decide) (nr _), r3 _ _ (by decide) (by
      simp [evtRegs_eq, Reg.DROP_LAST, cetisPage, na, nb]), hb]
    exact State.reg_setReg_same ..

/-! ### The next router -/

/-- A neighbour is another tile, through one of the four edge ports. -/
theorem neighbour_some {i : TileIx} {k d : Nat} (h : neighbour i k = some d) : k < 4 ∧ d < 80 ∧ d ≠ i.val := by
  have key : ∀ i : Fin 80, ∀ k : Fin 4, ∀ d ∈ neighbour i.val k.val, d < 80 ∧ d ≠ i.val := by decide
  have hk : k < 4 := by
    by_contra hc
    obtain ⟨j, rfl⟩ : ∃ j, k = j + 4 := ⟨k - 4, by omega⟩
    cases h
  exact ⟨hk, key i ⟨k, hk⟩ d h⟩

section
variable {t : State} {d : TileIx} {inPort lane : Nat} {p : Packet}

/-- What a router does with a packet that enters it: it drops it for a fence, for its operation or for its epoch, else it keeps it. -/
theorem State.enterRouter_barred (h : (t.fencedPort d inPort && !Packet.passesFence p) = true) :
    t.enterRouter d inPort lane p = t.dropPkt d 2 p := if_pos h

theorem State.enterRouter_undefined (h : (t.fencedPort d inPort && !Packet.passesFence p) = false) (ho : opDefined p.op.toNat = false) :
    t.enterRouter d inPort lane p = t.dropPkt d 4 p := by
  unfold State.enterRouter
  rw [h, ho, if_neg (by decide), if_pos (by decide)]

theorem State.enterRouter_stale (h : (t.fencedPort d inPort && !Packet.passesFence p) = false) (ho : opDefined p.op.toNat = true)
    (he : (!p.sys && decide (p.epoch.toNat ≠ t.epochOf d p.polder.toNat)) = true) : t.enterRouter d inPort lane p = t.dropPkt d 1 p := by
  unfold State.enterRouter
  rw [h, ho, he, if_neg (by decide), if_neg (by decide), if_pos rfl]

theorem State.enterRouter_kept_there {k : Nat} (h : (t.fencedPort d inPort && !Packet.passesFence p) = false) (ho : opDefined p.op.toNat = true)
    (he : (!p.sys && decide (p.epoch.toNat ≠ t.epochOf d p.polder.toNat)) = false) (hk : t.outPort d p = some k) (hf : t.fencedPort d k = false) :
    ∃ l, (t.enterRouter d inPort lane p).net = t.net ++ [⟨p, d, inPort, lane, t.up, some (k, l)⟩] := by
  obtain ⟨f, n, -⟩ := State.chooseLane_frame t d k p
  refine ⟨(t.chooseLane d k p).1, ?_⟩
  unfold State.enterRouter
  rw [h, ho, he, if_neg (by decide), if_neg (by decide), if_neg (by decide), hk]
  dsimp only
  rw [hf, Bool.false_and, if_neg (by decide)]
  dsimp only
  rw [n, f .up (by decide)]
end

/-! ### A hop -/

theorem exec_packetHop_found {i : TileIx} {inPort : Fin 6} {p : Packet} {s : State} {t : Transit} {k l : Nat} (hw : Packet.wf p = true)
    (ht : s.net.find? (fun t => t.tile = i.val && t.inPort = inPort.val && t.pkt = p) = some t) (ho : t.out = some (k, l)) :
    exec (.packetHop i inPort p) s = .next (if s.fencedPort i k && !Packet.leavesFence p then ({ s with net := s.net.erase t } : State).dropPkt i 2 p
      else match s.useLane i k l with
        | none => s
        | some n => if (s.grantOf i k n).1 = some t then s.depart t k n (s.grantOf i k n).2 else s) := by
  show execPacketHop i inPort p s = _
  unfold execPacketHop
  dsimp only
  rw [hw, if_neg (by decide), ht]
  dsimp only
  rw [ho]
  dsimp only
  split
  · rfl
  · cases s.useLane i k l <;> rfl


/-- A counter that does not advance. -/
theorem Counts.none {s t : State} {p k : Nat} (h : t.reg p (Reg.COUNTER k) = s.reg p (Reg.COUNTER k)) : Counts s t p k 0 := by
  unfold Counts
  rw [h]
  exact (BitVec.add_zero _).symm

/-- A conditional count. -/
theorem State.bumpIf_counts (s : State) (c : Prop) [Decidable c] (p k n : Nat) (hk : k < 496) :
    Counts s (if c then s.bump p k n else s) p k (if c then n else 0) ∧ RegsOutside [counter p k] s (if c then s.bump p k n else s) := by
  split
  · exact ⟨Counts.bump .., RegsOutside.bump _ _ _ _ hk⟩
  · exact ⟨Counts.none rfl, RegsOutside.refl _ _⟩

/-- A granted packet has left its router by an edge port, before what lies beyond takes it in: the counts, the port's turn and its lane. -/
def State.leave (s : State) (t : Transit) (port lane : Nat) (turn : Turn) : State :=
  let pg := cetisPage t.tile
  let x := s.meshPort t.tile port
  let foreign := s.foreign t.tile port t.pkt && (s.linkOwner t.tile port).isSome
  let s := if s.linkClass t = 3 then s.bump pg 9 1 else s
  let s := s.setMeshPort t.tile port { x with ptr := turn.ptr, quanta := turn.quanta, grants := (s.grantKind t.tile port t.pkt :: x.grants).take 64 }
  let s : State := { s with net := s.net.erase t }
  let s := (s.bump pg port (Packet.flits t.pkt)).laneSend t.tile port lane t.pkt
  if foreign then s.bump pg 5 (Packet.flits t.pkt) else s

/-- The flits that count on FOREIGN (R326, R335). -/
def State.foreignFlits (s : State) (i k : Nat) (p : Packet) : Nat :=
  match s.linkOwner i k with
  | some o => if p.vc.toNat % 2 = 0 ∧ o ≠ p.polder.toNat then Packet.flits p else 0
  | none => 0

theorem State.foreignFlits_eq (s : State) (i k : Nat) (p : Packet) :
    (if s.foreign i k p && (s.linkOwner i k).isSome then Packet.flits p else 0) = s.foreignFlits i k p := by
  have hv : (decide (p.vc = 0) || decide (p.vc = 2)) = decide (p.vc.toNat % 2 = 0) := by
    generalize p.vc = v
    revert v
    decide
  unfold State.foreignFlits State.foreign
  cases s.linkOwner i k with
  | none => simp
  | some o =>
    rw [hv]
    simp

section
variable {s : State} {t : Transit} {port lane : Nat} {turn : Turn}

theorem State.leave_spec (hp : port < 5) :
    let u := s.leave t port lane turn
    Kept [.regs, .ports, .net, .laneTx] s u ∧ u.net = s.net.erase t ∧
      RegsOutside [counter (cetisPage t.tile) 9, counter (cetisPage t.tile) port, counter (cetisPage t.tile) 5] s u ∧
      Counts s u (cetisPage t.tile) port (Packet.flits t.pkt) ∧
      Counts s u (cetisPage t.tile) 9 (if s.linkClass t = 3 then 1 else 0) ∧
      Counts s u (cetisPage t.tile) 5 (s.foreignFlits t.tile port t.pkt) := by
  intro u
  obtain ⟨a, ha⟩ : ∃ a, a = if s.linkClass t = 3 then s.bump (cetisPage t.tile) 9 1 else s := ⟨_, rfl⟩
  obtain ⟨b, hb⟩ : ∃ b : State, b = { a.setMeshPort t.tile port { s.meshPort t.tile port with
      ptr := turn.ptr, quanta := turn.quanta,
      grants := (a.grantKind t.tile port t.pkt :: (s.meshPort t.tile port).grants).take 64 } with net := a.net.erase t } := ⟨_, rfl⟩
  obtain ⟨c, hc⟩ : ∃ c, c = (b.bump (cetisPage t.tile) port (Packet.flits t.pkt)).laneSend t.tile port lane t.pkt := ⟨_, rfl⟩
  have hu : u = if (s.foreign t.tile port t.pkt && (s.linkOwner t.tile port).isSome) = true then
      c.bump (cetisPage t.tile) 5 (Packet.flits t.pkt) else c := by
    rw [hc, hb, ha]
    rfl
  have k1 : Kept [.regs] s a := ha ▸ Kept.ite (State.bump_kept ..) (Kept.refl _ _)
  have k2 : Kept [.ports, .net] a b := hb ▸ ((State.setMeshPort_kept ..).mono rfl).step (Kept.net ..) rfl
  have k3 : Kept [.regs, .laneTx] b c := hc ▸ ((State.bump_kept ..).mono rfl).step (State.laneSend_kept ..) rfl
  have k4 : Kept [.regs] c u := hu ▸ Kept.ite (State.bump_kept ..) (Kept.refl _ _)
  obtain ⟨c1, r1⟩ := State.bumpIf_counts s (s.linkClass t = 3) (cetisPage t.tile) 9 1 (by decide)
  rw [← ha] at c1 r1
  have r2 : RegsOutside [] a b := RegsOutside.of_regs (k2.frame .regs (by decide))
  have kl : Kept [.laneTx] (b.bump (cetisPage t.tile) port (Packet.flits t.pkt)) c := hc ▸ State.laneSend_kept ..
  have rl : RegsOutside [] (b.bump (cetisPage t.tile) port (Packet.flits t.pkt)) c := RegsOutside.of_regs (kl.frame .regs (by decide))
  have c3 : Counts b c (cetisPage t.tile) port (Packet.flits t.pkt) := (Counts.bump ..).after rl (by omega) (by simp)
  have r3 : RegsOutside [counter (cetisPage t.tile) port] b c := (RegsOutside.bump b _ _ _ (by omega)).trans (rl.mono (by simp))
  obtain ⟨c4, r4⟩ := State.bumpIf_counts c ((s.foreign t.tile port t.pkt && (s.linkOwner t.tile port).isSome) = true) (cetisPage t.tile) 5
    (Packet.flits t.pkt) (by decide)
  rw [← hu] at c4 r4
  rw [State.foreignFlits_eq] at c4
  have e1 : u.net = s.net.erase t := by
    rw [k4.frame .net (by decide), k3.frame .net (by decide), hb, ← (k1.frame .net (by decide) : a.net = s.net)]
  refine ⟨(((k1.mono rfl).step k2 rfl).step k3 rfl).step k4 rfl, e1, ?_, ?_, ?_, ?_⟩
  · exact (((r1.mono (by simp)).trans (r2.mono (by simp))).trans (r3.mono (by simp))).trans (r4.mono (by simp))
  · exact ((c3.before r2 (by omega) (by simp)).before r1 (by omega) (by simp [counter_inj]; omega)).after r4 (by omega) (by simp [counter_inj]; omega)
  · exact ((c1.after r2 (by decide) (by simp)).after r3 (by decide) (by simp [counter_inj]; omega)).after r4 (by decide) (by simp [counter_inj])
  · exact ((c4.before r3 (by decide) (by simp [counter_inj]; omega)).before r2 (by decide) (by simp)).before r1 (by decide) (by simp [counter_inj])

theorem State.depart_edge (hp : port < 5) {d : Nat} (hd : neighbour t.tile port = some d) :
    s.depart t port lane turn = (s.leave t port lane turn).enterRouter d ((port + 2) % 4) lane t.pkt := by
  unfold State.depart
  dsimp only
  rw [if_neg (by omega), hd]
  rfl

theorem State.depart_die (hf : Store.get false s.dieFence t.tile = false) :
    s.depart t 4 lane turn = { s.leave t 4 lane turn with arrivals := s.arrivals ++ [t.pkt] } := by
  obtain ⟨k, -⟩ := State.leave_spec (s := s) (t := t) (lane := lane) (turn := turn) (show 4 < 5 by decide)
  have h1 : (s.leave t 4 lane turn).dieFence = s.dieFence := k.frame .dieFence (by decide)
  have h2 : (s.leave t 4 lane turn).arrivals = s.arrivals := k.frame .arrivals (by decide)
  have e : s.depart t 4 lane turn = if Store.get false (s.leave t 4 lane turn).dieFence t.tile && !Packet.passesFence t.pkt then
      s.leave t 4 lane turn else { s.leave t 4 lane turn with arrivals := (s.leave t 4 lane turn).arrivals ++ [t.pkt] } := rfl
  rw [e, h1, hf, h2, Bool.false_and, if_neg (by decide)]

theorem State.depart_local (hp : 5 ≤ port) :
    (s.depart t port lane turn).net = s.net.erase t ∧ (s.depart t port lane turn).arrivals = s.arrivals ++ [t.pkt] := by
  unfold State.depart
  dsimp only
  rw [if_pos hp]
  split <;> exact ⟨rfl, rfl⟩
end

/-! ### Lanes -/

theorem exec_flitCrcFail_sent {i : TileIx} {port : Fin 5} {lane : Fin 8} {s : State} (h1 : s.livePort i port = true)
    (h2 : s.rb (cetisPage i) Reg.LANES (8 * port + lane) = true) (hs : (s.laneAt i port lane).sent ≠ []) (hf : (s.laneAt i port lane).fails < 9) :
    exec (.flitCrcFail i port lane) s = .next (
      let t := s.setLane i port lane { s.laneAt i port lane with fails := (s.laneAt i port lane).fails + 1 }
      if (s.laneAt i port lane).fails < 8 then t.bump (cetisPage i) 8 1 else t) := by
  have hl : s.liveLane i port lane = true := by
    unfold State.liveLane
    rw [h2, Bool.or_true]
  show execFlitCrcFail i port lane s = _
  unfold execFlitCrcFail
  dsimp only
  rw [h1, hl, if_neg (by simp [hs]; omega)]

/-- A lane retired, before the ends report it: its bit is gone and its flits are with the next live lane. -/
def State.retireLane (s : State) (i port lane : Nat) : State :=
  let x := s.laneAt i port lane
  let s1 := (s.setRb (cetisPage i) Reg.LANES (8 * port + lane) false).setLane i port lane {}
  match s1.useLane i port lane with
  | none => s1
  | some l =>
    let all := (s1.laneAt i port l).sent ++ x.sent
    (s1.setLane i port l { s1.laneAt i port l with sent := all.drop (all.length - 64) }).bump (cetisPage i) 8 x.sent.length

theorem exec_laneRetire_failed {i : TileIx} {port : Fin 5} {lane : Fin 8} {s : State} (h1 : s.livePort i port = true)
    (h2 : s.rb (cetisPage i) Reg.LANES (8 * port + lane) = true) (hf : 9 ≤ (s.laneAt i port lane).fails) :
    ∃ last, exec (.laneRetire i port lane) s = .next (match neighbour i port with
      | some d => ((s.retireLane i port lane).retireEnd i port last).retireEnd d ((port.val + 2) % 4) last
      | none => (s.retireLane i port lane).retireEnd i port last) := by
  have hl : s.liveLane i port lane = true := by
    unfold State.liveLane
    rw [h2, Bool.or_true]
  refine ⟨(((s.setRb (cetisPage i) Reg.LANES (8 * port + lane) false).setLane i port lane {}).useLane i port lane).isNone, ?_⟩
  show execLaneRetire i port lane s = _
  unfold execLaneRetire
  dsimp only
  rw [h1, hl, if_neg (by simp; omega)]
  rfl

/-- A register of a CETIS page is none of those that a report writes, and but for the events none that an event of one writes. -/
theorem cetis_notReported (j i o : Nat) : (cetisPage j, o) ∉ reportRegs i := by
  simp only [reportRegs, evtRegs_eq, counter, cetisPage, faultPage, tilePage, List.cons_append, List.nil_append, List.mem_cons,
    Prod.mk.injEq, List.not_mem_nil, or_false]
  omega

theorem cetis_notEvt (j i : Nat) {o : Nat} (h : o ≠ Reg.EVT_RAW ∨ j ≠ i) : (cetisPage j, o) ∉ evtRegs (cetisPage i) := by
  have he : Reg.EVT_RAW = 0x20 := rfl
  simp only [evtRegs_eq, cetisPage, tilePage, List.mem_cons, Prod.mk.injEq, List.not_mem_nil, or_false]
  omega

theorem cetis_notEnd (j i : Nat) {o : Nat} (h : o ≠ Reg.EVT_RAW ∨ j ≠ i) : (cetisPage j, o) ∉ evtRegs (cetisPage i) ++ reportRegs i :=
  fun c => (List.mem_append.mp c).elim (cetis_notEvt j i h) (cetis_notReported j i o)

/-- What the end of a link leaves: its lane event, and no register but those of its events and of its report. -/
theorem State.retireEnd_spec (s : State) (i port : Nat) (last : Bool) :
    Raised (s.retireEnd i port last) (cetisPage i) 5 ∧
      RegsOutside (evtRegs (cetisPage i) ++ reportRegs i) s (s.retireEnd i port last) := by
  have h1 : Raised (s.raise (cetisPage i) 5) (cetisPage i) 5 := Raised.raise _ _ _ (by decide)
  have r1 : RegsOutside (evtRegs (cetisPage i) ++ reportRegs i) s (s.raise (cetisPage i) 5) :=
    RegsOutside.mono (RegsOutside.raise _ _ _) (fun x hx => List.mem_append_left _ hx)
  unfold State.retireEnd
  dsimp only
  cases last with
  | false => exact ⟨h1, r1⟩
  | true =>
    obtain ⟨r2, -⟩ := State.report_frame ((s.raise (cetisPage i) 5).raise (cetisPage i) 6) i 5 6 port (by decide) (by decide)
    exact ⟨(h1.thenRaise 6 (by decide)).outside r2 (cetis_notReported i i _),
      (r1.step (RegsOutside.raise _ _ _) (fun x hx => List.mem_append_left _ hx)).step r2 (fun x hx => List.mem_append_right _ hx)⟩

theorem State.retireLane_lanes (s : State) (i : Nat) {port lane : Nat} (h : 8 * port + lane < 64) :
    (s.retireLane i port lane).rb (cetisPage i) Reg.LANES (8 * port + lane) = false ∧
      (∀ j, j ≠ 8 * port + lane → (s.retireLane i port lane).rb (cetisPage i) Reg.LANES j = s.rb (cetisPage i) Reg.LANES j) ∧
      RegsOutside [(cetisPage i, Reg.LANES), counter (cetisPage i) 8] s (s.retireLane i port lane) := by
  obtain ⟨t, ht⟩ : ∃ t, t = (s.setRb (cetisPage i) Reg.LANES (8 * port + lane) false).setLane i port lane {} := ⟨_, rfl⟩
  have rt : t.reg (cetisPage i) Reg.LANES = setBit (s.reg (cetisPage i) Reg.LANES) (8 * port + lane) false := by
    rw [ht]
    exact State.reg_setReg_same ..
  have r1 : RegsOutside [(cetisPage i, Reg.LANES)] s t :=
    (RegsOutside.setRb s _ Reg.LANES _ false (by decide)).trans (RegsOutside.of_regs (by rw [ht]; rfl))
  have r2 : RegsOutside [counter (cetisPage i) 8] t (s.retireLane i port lane) := by
    unfold State.retireLane
    dsimp only
    rw [← ht]
    cases t.useLane i port lane with
    | none => exact RegsOutside.refl _ t
    | some l => exact (RegsOutside.of_regs rfl).thenBump _ 8 _ (by decide) (by simp)
  have ru : (s.retireLane i port lane).reg (cetisPage i) Reg.LANES = t.reg (cetisPage i) Reg.LANES :=
    r2 _ _ (by decide) (by simp [counter, Reg.COUNTER, Reg.LANES])
  refine ⟨?_, fun j hj => ?_, (r1.mono (by simp)).trans (r2.mono (by simp))⟩
  · unfold State.rb
    rw [ru, rt]
    exact fbit_setBit_same _ _ _ h
  · unfold State.rb
    rw [ru, rt]
    exact fbit_setBit_other _ _ _ _ h hj

section
variable {i : TileIx} {port : Fin 5} {lane : Fin 8} {s : State} (h1 : s.livePort i port = true)
  (h2 : s.rb (cetisPage i) Reg.LANES (8 * port + lane) = true)
include h1 h2

/-- A flit that fails its check is counted as a replay, but for the eighth of its lane. -/
theorem flitCrcFail_replayed (hs : (s.laneAt i port lane).sent ≠ []) (hf : (s.laneAt i port lane).fails < 9) :
    let x := s.laneAt i port lane
    Does (.flitCrcFail i port lane) s (fun u => Frame [.regs, .laneTx] s u ∧ RegsOutside [counter (cetisPage i) 8] s u ∧
      Counts s u (cetisPage i) 8 (if x.fails < 8 then 1 else 0) ∧ u.laneAt i port lane = { x with fails := x.fails + 1 }) := by
  intro x
  have hx := exec_flitCrcFail_sent h1 h2 hs hf
  obtain ⟨y, hy⟩ : ∃ y, y = s.setLane i port lane { x with fails := x.fails + 1 } := ⟨_, rfl⟩
  dsimp only at hx
  rw [← hy] at hx
  have ky : Kept [.laneTx] s y := hy ▸ State.setLane_kept ..
  obtain ⟨c, r⟩ := State.bumpIf_counts y (x.fails < 8) (cetisPage i) 8 1 (by decide)
  have ry : RegsOutside [] s y := RegsOutside.of_regs (ky.frame .regs (by decide))
  have ku : Kept [.regs] y (if x.fails < 8 then y.bump (cetisPage i) 8 1 else y) := Kept.ite (State.bump_kept ..) (Kept.refl _ _)
  refine ⟨_, hx, ((ky.mono (m := [.regs, .laneTx]) rfl).step ku rfl).frame, (ry.mono (by simp)).trans r, c.before ry (by decide) (by simp), ?_⟩
  have hl := ku.frame .laneTx (by decide)
  show Store.get {} (State.laneTx _) _ = _
  rw [hl, hy]
  exact Store.get_set_same ..

/-- A lane that failed is retired in its direction, and both ends of the link report it. -/
theorem laneRetire_reported (hf : 9 ≤ (s.laneAt i port lane).fails) :
    Does (.laneRetire i port lane) s (fun u => u.rb (cetisPage i) Reg.LANES (8 * port + lane) = false ∧ Raised u (cetisPage i) 5 ∧
      (∀ j, j < 40 → j ≠ 8 * port.val + lane.val → u.rb (cetisPage i) Reg.LANES j = s.rb (cetisPage i) Reg.LANES j) ∧
      ∀ e, neighbour i port = some e → Raised u (cetisPage e) 5 ∧ u.reg (cetisPage e) Reg.LANES = s.reg (cetisPage e) Reg.LANES) := by
  obtain ⟨last, hx⟩ := exec_laneRetire_failed h1 h2 hf
  obtain ⟨l1, l2, l3⟩ := State.retireLane_lanes s i (show 8 * port.val + lane.val < 64 by omega)
  obtain ⟨e1, e2⟩ := State.retireEnd_spec (s.retireLane i port lane) i port last
  have hr : ∀ {u : State}, u.reg (cetisPage i) Reg.LANES = (s.retireLane i port lane).reg (cetisPage i) Reg.LANES →
      u.rb (cetisPage i) Reg.LANES (8 * port + lane) = false ∧
        ∀ j, j < 40 → j ≠ 8 * port.val + lane.val → u.rb (cetisPage i) Reg.LANES j = s.rb (cetisPage i) Reg.LANES j := by
    intro u hu
    unfold State.rb at l1 l2 ⊢
    rw [hu]
    exact ⟨l1, fun j _ hj => l2 j hj⟩
  have r1 := e2 (cetisPage i) Reg.LANES (by decide) (cetis_notEnd i i (.inl (by decide)))
  cases hn : neighbour i port with
  | none =>
    rw [hn] at hx
    exact ⟨_, hx, (hr r1).1, e1, (hr r1).2, fun _ c => nomatch c⟩
  | some d =>
    rw [hn] at hx
    obtain ⟨-, -, hd⟩ := neighbour_some hn
    obtain ⟨f1, f2⟩ := State.retireEnd_spec ((s.retireLane i port lane).retireEnd i port last) d ((port.val + 2) % 4) last
    have r2 := (f2 (cetisPage i) Reg.LANES (by decide) (cetis_notEnd i d (.inl (by decide)))).trans r1
    refine ⟨_, hx, (hr r2).1, e1.outside f2 (cetis_notEnd i d (.inr hd.symm)), (hr r2).2, fun e he => ?_⟩
    obtain rfl := Option.some.inj he
    refine ⟨f1, (f2 _ _ (by decide) (cetis_notEnd d d (.inl (by decide)))).trans
      ((e2 _ _ (by decide) (cetis_notEnd d i (.inl (by decide)))).trans (l3 _ _ (by decide) ?_))⟩
    have hp : cetisPage d ≠ cetisPage i := by
      unfold cetisPage tilePage
      omega
    simp [counter, hp]
end

/-! ### What a hop comes to -/

theorem cetis_notDrop {j i : Nat} (h : j ≠ i) (o : Nat) : (cetisPage j, o) ∉ dropRegs i := by
  have hp : cetisPage j ≠ cetisPage i := by
    unfold cetisPage tilePage
    omega
  intro c
  simp only [dropRegs, List.cons_append, List.nil_append, List.mem_cons, counter, Prod.mk.injEq] at c
  rcases c with c | c | c
  · exact hp c.1
  · exact hp c.1
  · exact (List.mem_append.mp c).elim (cetis_notEvt j i (.inr h)) (cetis_notReported j i o)

/-- A drop seen from before the packet left another router. -/
theorem DroppedAt.before {s v u : State} {d : TileIx} {i cause event : Nat} {p : Packet} {l : List (Nat × Nat)} (h : DroppedAt v u d cause event p)
    (hr : RegsOutside l s v) (hl : ∀ x ∈ l, x.1 = cetisPage i) (hi : d.val ≠ i) (hn : v.now = s.now) : DroppedAt s u d cause event p := by
  have hp : cetisPage d ≠ cetisPage i := by
    unfold cetisPage tilePage
    omega
  refine ⟨h.counts.before hr (by decide) (fun c => hp (hl _ c)), h.raised, ?_⟩
  rw [h.last]
  unfold State.ts
  rw [hn]

/-- The neighbour decides as it would before the packet left. -/
theorem State.leave_there (s : State) (t : Transit) {port : Nat} (lane : Nat) (turn : Turn) (d : TileIx) (hp : port < 4) :
    let v := s.leave t port lane turn
    (∀ k, v.fencedPort d k = s.fencedPort d k) ∧ (∀ q, v.epochOf d q = s.epochOf d q) ∧ (∀ q, v.outPort d q = s.outPort d q) := by
  intro v
  obtain ⟨k, -, r, -⟩ := State.leave_spec (s := s) (t := t) (lane := lane) (turn := turn) (show port < 5 by omega)
  have hs : SendSame s v := SendSame.of_outside r (by simp [counter, Reg.COUNTER]; omega) (k.frame .routes (by decide))
  refine ⟨hs.fencedPort d, hs.epochOf d, fun q => ?_⟩
  unfold State.outPort State.route
  rw [hs.routes]

section
variable {s : State} {t : Transit} {port lane : Nat} {turn : Turn} {d : TileIx} (hd : neighbour t.tile port = some d.val) (hp : port < 4)
  (hne : d.val ≠ t.tile)
include hd hp hne

/-- A hop to a neighbour counts at the router that it left, whatever the neighbour does with the packet. -/
theorem State.depart_counts :
    let u := s.depart t port lane turn
    Counts s u (cetisPage t.tile) port (Packet.flits t.pkt) ∧ Counts s u (cetisPage t.tile) 9 (if s.linkClass t = 3 then 1 else 0) ∧
      Counts s u (cetisPage t.tile) 5 (s.foreignFlits t.tile port t.pkt) := by
  obtain ⟨-, -, -, c1, c2, c3⟩ := State.leave_spec (s := s) (t := t) (lane := lane) (turn := turn) (show port < 5 by omega)
  rw [State.depart_edge (by omega) hd]
  have r := RegsOutside.enterRouter (s.leave t port lane turn) d ((port + 2) % 4) lane t.pkt
  exact ⟨c1.after r (by omega) (cetis_notDrop hne.symm _), c2.after r (by decide) (cetis_notDrop hne.symm _),
    c3.after r (by decide) (cetis_notDrop hne.symm _)⟩

theorem State.depart_dropped {cause : Nat}
    (h : (s.leave t port lane turn).enterRouter d ((port + 2) % 4) lane t.pkt = (s.leave t port lane turn).dropPkt d cause t.pkt) :
    (s.depart t port lane turn).net = s.net.erase t ∧ DroppedAt s (s.depart t port lane turn) d cause (dropEvent cause) t.pkt := by
  obtain ⟨k, hn, r, -⟩ := State.leave_spec (s := s) (t := t) (lane := lane) (turn := turn) (show port < 5 by omega)
  rw [State.depart_edge (by omega) hd, h]
  refine ⟨((State.dropPkt_kept ..).frame .net (by decide)).trans hn, ?_⟩
  exact (State.dropPkt_dropped _ d cause t.pkt).before r (by simp [counter]) hne (k.frame .now (by decide))
end

/-- Settles O28: generation and management packets, each outcome of a hop, and a lane that fails. -/
theorem meshRouting : Obligations.MeshRouting := by
  unfold Obligations.MeshRouting
  refine ⟨?_, ?_⟩
  · intro p s o applies
    refine ⟨fun i => ⟨fun h => ?_, fun h => ⟨fun ha => ?_, fun ha hk => ?_, fun ha hk hu => ?_⟩⟩, fun d hw ha hd hi he hk => ?_⟩
    · obtain ⟨u, hx, hg⟩ := exec_genUpdate_accepted h
      refine ⟨u, hx, fun j n => ?_⟩
      rw [State.genAt_congr hg, State.genAt_setGenAt _ _ _ _ (Nat.mod_lt _ (by decide)) n.isLt]
      simp only [← Fin.val_inj]
      rfl
    · have hx := exec_mgmt_tile h
      rw [show (p.sys && isDie p.src.toNat) = false from ha, if_pos (by decide)] at hx
      exact ⟨_, hx, rfl⟩
    · have hx := exec_mgmt_tile h
      rw [show (p.sys && isDie p.src.toNat) = true from ha, if_neg (by decide), if_pos hk] at hx
      refine ⟨_, hx, State.answered_nothing rfl rfl, ?_, fun q => ?_⟩
      · exact (RegsOutside.of_regs rfl).trans (RegsOutside.setRf _ _ _ _ _ _ (by decide))
      · exact State.epochOf_setRf (s.takePkt p) i q q.isLt (bits_lt _ 2 0) (bits_lt _ 11 8)
    · have hx := exec_mgmt_tile h
      rw [show (p.sys && isDie p.src.toNat) = true from ha, if_neg (by decide), show mgKind p.operand.toNat = 2 from hk, if_neg (by decide),
        if_neg (by decide), if_neg (by decide), State.mgmtAt_write hk hu] at hx
      exact ⟨_, hx, rfl⟩
    · have hx := exec_mgmt_die hw ha hd hi he
      cases hap : applies with
      | false =>
        rw [show (p.sys && isDie p.src.toNat) = false from hap, if_pos (by decide)] at hx
        refine ⟨_, hx, rfl, rfl, fun k => ?_⟩
        rw [if_neg (by simp)]
        rfl
      | true =>
        rw [show (p.sys && isDie p.src.toNat) = true from hap, if_neg (by decide), if_pos (hk hap)] at hx
        refine ⟨_, hx, rfl, rfl, fun k => ?_⟩
        by_cases hq : k = d * 8 + bits o 2 0
        · rw [if_pos ⟨rfl, hq⟩, hq]
          exact Store.get_set_same ..
        · rw [if_neg (fun c => hq c.2)]
          exact Store.get_set_other _ _ _ _ _ (Ne.symm hq)
  · intro i inPort port lane p s pg dropped
    refine ⟨?_, ?_⟩
    · intro t k l hw ht ho
      have hx := exec_packetHop_found hw ht ho
      obtain ⟨hti, -, rfl⟩ : t.tile = i.val ∧ t.inPort = inPort.val ∧ t.pkt = p := by
        simpa [and_assoc] using List.find?_some ht
      refine ⟨fun hf hl => ?_, fun n turn hf hu => ?_⟩
      · rw [hf, hl, if_pos (by decide)] at hx
        have hd := State.dropPkt_dropped ({ s with net := s.net.erase t } : State) i 2 t.pkt
        exact ⟨_, hx, (State.dropPkt_kept ..).frame .net (by decide), hd.counts, hd.raised, hd.last⟩
      · have hpass : (s.fencedPort i k && !Packet.leavesFence t.pkt) = false := by rcases hf with h | h <;> simp [h]
        rw [hpass, if_neg (by decide), hu] at hx
        dsimp only at hx
        refine ⟨fun g hg hne => ?_, fun hg => ?_⟩
        · rw [hg, if_neg hne] at hx
          exact ⟨s, hx, rfl⟩
        · rw [hg, if_pos rfl] at hx
          have hti' : pg = cetisPage t.tile := congrArg cetisPage hti.symm
          refine ⟨fun h5 => ⟨_, hx, State.depart_local h5⟩, fun h4 hdf => ?_, fun d hd h4 => ?_⟩
          · subst h4
            obtain ⟨-, h1, h2, h3, -⟩ := State.leave_spec (s := s) (t := t) (lane := n) (turn := turn) (show 4 < 5 by decide)
            rw [State.depart_die (by rw [hti]; exact hdf)] at hx
            exact ⟨_, hx, h1, rfl, hti' ▸ h3⟩
          · intro barred stale
            obtain ⟨-, hlt, hne⟩ := neighbour_some hd
            obtain ⟨e, rfl⟩ : ∃ e : TileIx, d = e.val := ⟨⟨d, hlt⟩, rfl⟩
            rw [← hti] at hd hne
            obtain ⟨c1, c2, c3⟩ := State.depart_counts (s := s) (lane := n) (turn := turn) hd h4 hne
            obtain ⟨v1, v2, v3⟩ := State.leave_there s t n turn e h4
            have drop {c : Nat} (h : (s.leave t k n turn).enterRouter e ((k + 2) % 4) n t.pkt = (s.leave t k n turn).dropPkt e c t.pkt) :
                (s.depart t k n turn).net = s.net.erase t ∧ dropped e c (dropEvent c) (s.depart t k n turn) := by
              obtain ⟨h1, h2⟩ := State.depart_dropped hd h4 hne h
              exact ⟨h1, h2.counts, h2.raised, h2.last⟩
            refine ⟨_, hx, hti' ▸ c1, hti' ▸ c2, ?_, fun hb => ?_, fun hb hop => ?_, fun hb hop hst => ?_, fun k' hb hop hst ho' hf' => ?_⟩
            · rw [← hti, hti']
              exact c3
            · exact drop (State.enterRouter_barred (by rw [v1]; exact hb))
            · exact drop (State.enterRouter_undefined (by rw [v1]; exact hb) hop)
            · exact drop (State.enterRouter_stale (by rw [v1]; exact hb) hop (by rw [v2]; exact hst))
            · obtain ⟨l', hl'⟩ := State.enterRouter_kept_there (lane := n) (by rw [v1]; exact hb) hop (by rw [v2]; exact hst)
                ((v3 _).trans ho') ((v1 _).trans hf')
              rw [State.depart_edge (by omega) hd, hl']
              obtain ⟨-, hn, -⟩ := State.leave_spec (s := s) (t := t) (lane := n) (turn := turn) (show k < 5 by omega)
              rw [hn]
              exact ⟨_, rfl, rfl, rfl, rfl, rfl, rfl⟩
    · intro h1 h2 x
      exact ⟨fun hs hf => flitCrcFail_replayed h1 h2 hs hf, fun hf => laneRetire_reported h1 h2 hf⟩

end Sys2Proof.Machine
end

section
/-! SUPPORT. Parts of the logits: what a part of one stream's rows comes to, and the registers that its scan can touch (R278 to R281). -/
namespace Sys2Proof.Machine
open Sys2Proof

/-! ### The riddle's places -/

theorem State.setPlaceR_get (s : State) (i : Nat) (r : RPlace) :
    Store.get [] (s.setPlaceR i r).rplaces i = (Store.get [] s.rplaces i).map (fun q => if q.index = r.index then r else q) :=
  Store.get_set_same ..

/-- A place written, seen from before and after steps that leave the places. -/
theorem State.placed_get {s t u : State} {i : Nat} {r : RPlace} (hs : t.rplaces = s.rplaces) (hu : u.rplaces = (t.setPlaceR i r).rplaces) :
    Store.get [] u.rplaces i = (Store.get [] s.rplaces i).map (fun q => if q.index = r.index then r else q) := by
  rw [hu, State.setPlaceR_get, hs]

/-- A stream's place in a phase is one of that stream. -/
theorem State.ridPlace_stream {s : State} {n home : Nat} {ph : RPhase} {r : RPlace} (h : s.ridPlace n ph = some (home, r)) : r.stream = n := by
  obtain ⟨l, -, hl⟩ := State.ridPlace_some h
  have := List.find?_some hl
  simp only [Bool.and_eq_true, decide_eq_true_eq] at this
  exact this.1

/-! ### The registers of a scan -/

/-- The registers that a scan can write: those of the reads of peat, of an error there, and of its report. -/
def scanRegs (i : Nat) : List (Nat × Nat) := eccRegs i ++ ([counter (peatPage i) 0, counter (peatPage i) 1] ++ reportRegs i)

/-- The registers of a part's error on the RIDDLE page. -/
def partRegs (i : Nat) : List (Nat × Nat) := [counter (riddlePage i) 4, (riddlePage i, Reg.RID_LAST)] ++ evtRegs (riddlePage i)

theorem riddle_notEvt (i : TileIx) {k o : Nat} (h : o ≠ Reg.EVT_RAW) : (riddlePage i, o) ∉ evtRegs (tilePage i k) := by
  have he : Reg.EVT_RAW = 0x20 := rfl
  have := i.isLt
  simp only [evtRegs_eq, riddlePage, tilePage, List.mem_cons, Prod.mk.injEq, List.not_mem_nil, or_false]
  omega

theorem riddle_notReported (i : TileIx) (o : Nat) : (riddlePage i, o) ∉ reportRegs i := by
  have := i.isLt
  simp only [reportRegs, evtRegs_eq, counter, riddlePage, faultPage, tilePage, List.cons_append, List.nil_append, List.mem_cons,
    Prod.mk.injEq, List.not_mem_nil, or_false]
  omega

theorem riddle_notScan (i : TileIx) (o : Nat) : (riddlePage i, o) ∉ scanRegs i := by
  have hi := i.isLt
  have he : (riddlePage i, o) ∉ eccRegs i := by
    simp only [eccRegs, evtRegs_eq, counter, riddlePage, peatPage, poolPage, tilePage, List.cons_append, List.nil_append, List.mem_cons,
      Prod.mk.injEq, List.not_mem_nil, or_false]
    omega
  have hp : riddlePage i ≠ peatPage i := by
    unfold riddlePage peatPage tilePage
    omega
  simp [scanRegs, he, counter, hp, riddle_notReported]

/-- An injection decides from none of them. -/
def SendFree (l : List (Nat × Nat)) : Prop := ∀ x ∈ l, x.2 < 0x100 ∨ (x.1 ≠ polderPage ∧ ∀ i, x.1 ≠ cetisPage i)

theorem tilePage_sendFree (i : Nat) {k : Nat} (hk : k < 16) (h : k ≠ 9) : tilePage i k ≠ polderPage ∧ ∀ j, tilePage i k ≠ cetisPage j := by
  refine ⟨fun c => ?_, fun j c => ?_⟩
  · simp only [tilePage, polderPage] at c
    omega
  · simp only [tilePage, cetisPage] at c
    omega

theorem sendFree_scan (i : Nat) : SendFree (scanRegs i) := by
  have h5 := tilePage_sendFree i (k := 5) (by decide) (by decide)
  have h6 := tilePage_sendFree i (k := 6) (by decide) (by decide)
  have h14 := tilePage_sendFree i (k := 14) (by decide) (by decide)
  simp [SendFree, scanRegs, eccRegs, reportRegs, evtRegs, counter, Reg.COUNTER, Reg.EVT_RAW, poolPage, peatPage, faultPage, h5, h6, h14]

theorem sendFree_part (i : Nat) : SendFree (partRegs i) := by
  simp [SendFree, partRegs, evtRegs, counter, Reg.COUNTER, Reg.EVT_RAW, riddlePage, tilePage_sendFree i (k := 7)]

/-! ### What a scan leaves -/

/-- The reads that the scan of a part makes: only counts, and a report where a line is poisoned. -/
theorem State.ridRead_outside (s : State) (i : Nat) (l : List (Nat × Nat)) (a : Nat) : RegsOutside (scanRegs i) s (s.ridRead i l .clean a).2 := by
  unfold State.ridRead
  extract_lets t spot
  have ht : RegsOutside (scanRegs i) s t := by
    unfold t
    generalize s = v
    induction l generalizing v with
    | nil => exact RegsOutside.refl _ v
    | cons x r ih => exact ((RegsOutside.refl _ v).thenBump (peatPage i) 0 _ (by decide) (by simp [scanRegs])).trans (ih _)
  split
  · exact (ht.step (RegsOutside.peatEcc_uncorrectable _ _ _ _ _ _) (fun x hx => List.mem_append_left _ hx)).thenReport i 2 5 0 (by decide) (by decide)
      (fun x hx => List.mem_append_right _ (List.mem_append_right _ hx))
  · exact ht

/-- The riddle's writes to the area of a place change no byte of peat outside it. -/
theorem State.stirPlace_spec (s : State) (i k : Nat) :
    RegsOutside (scanRegs i) s (s.stirPlace i k) ∧ ∀ j a, a < peatSize → j ≠ i ∨ a < s.placeAt i k ∨ s.placeAt i k + 196608 ≤ a →
      Store.get 0 (s.stirPlace i k).peat (peatKey j a) = Store.get 0 s.peat (peatKey j a) := by
  unfold State.stirPlace
  split
  · rename_i hf
    extract_lets bs lines t
    have hl : bs.length = 196608 := by simp [bs, undefBytes]
    clear_value bs lines
    refine ⟨?_, fun j a ha h => ?_⟩
    · exact (((RegsOutside.refl _ s).thenSame (u := t.tickFresh) rfl).thenBump _ 0 _ (by decide) (by simp [scanRegs])).thenBump _ 1 _ (by decide)
        (by simp [scanRegs])
    · have hp : ((t.tickFresh.bump (peatPage i) 0 (lines 0)).bump (peatPage i) 1 (lines 1)).peat = t.peat :=
        ((State.bump_kept ..).frame .peat (by decide)).trans (((State.bump_kept ..).frame .peat (by decide)).trans rfl)
      have hf' : s.placeAt i k + 196608 ≤ peatSize := by simpa [State.placeFits] using hf
      rw [hp]
      show Store.get 0 (putBytes s.peat _ bs) _ = _
      rw [Store.get_putBytes, dif_neg]
      rw [hl]
      unfold peatKey peatSize at *
      omega
  · exact ⟨RegsOutside.refl _ s, fun _ _ _ _ => rfl⟩

theorem State.partErr_outside (s : State) (i : TileIx) (n : Nat) (g : BitVec 8) (q : Nat) :
    RegsOutside (partRegs i) s (s.partErr i n g q) ∧ Counts s (s.partErr i n g q) (riddlePage i) 4 1 ∧ Raised (s.partErr i n g q) (riddlePage i) 2 := by
  obtain ⟨t, ht⟩ : ∃ t, t = s.bump (riddlePage i) 4 1 := ⟨_, rfl⟩
  obtain ⟨w, hw⟩ : ∃ w, s.partErr i n g q = (t.raise (riddlePage i) 2).setReg (riddlePage i) Reg.RID_LAST w := ⟨_, by rw [ht]; rfl⟩
  have c : Counts s t (riddlePage i) 4 1 := ht ▸ Counts.bump ..
  have rt : RegsOutside [counter (riddlePage i) 4] s t := ht ▸ RegsOutside.bump _ _ _ _ (by decide)
  have rr := RegsOutside.raise t (riddlePage i) 2
  have rl := RegsOutside.setReg (t.raise (riddlePage i) 2) (riddlePage i) Reg.RID_LAST w (by decide)
  rw [hw]
  refine ⟨((rt.mono (by simp)).step rr (fun x hx => List.mem_append_right _ hx)).step rl (by simp), ?_, ?_⟩
  · exact (c.after rr (by decide) (riddle_notEvt i (by decide))).after rl (by decide) (by simp [counter, Reg.COUNTER, Reg.RID_LAST])
  · exact (Raised.raise t _ _ (by decide)).outside rl (by simp [Reg.EVT_RAW, Reg.RID_LAST])

/-! ### A part of one stream's rows -/

theorem RPlace.take_index (r : RPlace) (q : PartRec) : (r.take q).index = r.index := by
  unfold RPlace.take
  split <;> rfl

/-- Why a part is discarded under R279, where the stream has a place: its number of parts, a part twice, or a row that matches none. -/
def RPlace.refuses (r : RPlace) (part parts : Nat) (rows : List (RowKey × RawRow)) : Prop :=
  (r.parts.head?.map (·.parts)).getD parts ≠ parts ∨ (∃ q ∈ r.parts, q.part = part) ∨
    (r.phase = .gathering ∧ ∃ z ∈ rows, rowMatches (waveHead r.wave) z.1.pos z.1.node = false)

theorem RPlace.refuses_iff (r : RPlace) (part parts : Nat) (rows : List (RowKey × RawRow)) :
    (decide ((r.parts.head?.map (·.parts)).getD parts ≠ parts) || r.parts.any (fun q => q.part = part) ||
      (r.phase = .gathering && !rows.all (fun x => rowMatches (waveHead r.wave) x.1.pos x.1.node))) = true ↔ r.refuses part parts rows := by
  unfold RPlace.refuses
  simp [List.any_eq_true, List.all_eq_false, or_assoc]

section
variable {s : State} {i : TileIx} {part parts : Nat} {y : RowKey × RawRow} {ys : List (RowKey × RawRow)}

theorem State.takePart_old (h : y.1.gen ≠ s.genAt i y.1.stream) : s.takePart i part parts y.1.stream (y :: ys) = (2, s) := if_pos h

theorem State.takePart_lost (hg : y.1.gen = s.genAt i y.1.stream)
    (h : s.homeTile i (s.polderOf i) y.1.stream ≠ some i.val ∨ s.scanPlace i y.1.stream = none) :
    s.takePart i part parts y.1.stream (y :: ys) = (0, s.partErr i y.1.stream y.1.gen y.1.pos) := by
  unfold State.takePart
  dsimp only [List.head?_cons, Option.map_some, Option.getD_some]
  rw [if_neg (not_not.mpr hg)]
  split
  · rfl
  · rw [h.resolve_left (by assumption)]

variable {r : RPlace}

theorem State.takePart_refused (hg : y.1.gen = s.genAt i y.1.stream) (hh : s.homeTile i (s.polderOf i) y.1.stream = some i.val)
    (hr : s.scanPlace i y.1.stream = some r) (hb : r.refuses part parts (y :: ys)) :
    s.takePart i part parts y.1.stream (y :: ys) = (0, s.partErr i y.1.stream y.1.gen y.1.pos) := by
  unfold State.takePart
  dsimp only [List.head?_cons, Option.map_some, Option.getD_some]
  rw [if_neg (not_not.mpr hg), if_neg (not_not.mpr hh), hr]
  exact if_pos ((RPlace.refuses_iff ..).mpr hb)

/-- A part taken: the reads of its scan, its record in the place, and the writes to the place's area. -/
def State.scanned (s : State) (i : Nat) (r : RPlace) (part parts : Nat) (rows : List (RowKey × RawRow)) : State :=
  ((s.ridRead i (s.scanPieces (s.scanCtx i r) rows) .clean 0).2.setPlaceR i
    (r.take ⟨part, parts, rows.map (fun z => s.scanRow (s.scanCtx i r) part z.1 z.2)⟩)).stirPlace i r.index

theorem State.takePart_taken (hg : y.1.gen = s.genAt i y.1.stream) (hh : s.homeTile i (s.polderOf i) y.1.stream = some i.val)
    (hr : s.scanPlace i y.1.stream = some r) (hb : ¬r.refuses part parts (y :: ys)) :
    s.takePart i part parts y.1.stream (y :: ys) = (1, s.scanned i r part parts (y :: ys)) := by
  unfold State.takePart
  dsimp only [List.head?_cons, Option.map_some, Option.getD_some]
  rw [if_neg (not_not.mpr hg), if_neg (not_not.mpr hh), hr]
  exact if_neg (fun c => hb ((RPlace.refuses_iff ..).mp c))

/-- The rows of a part are those of its one stream. -/
theorem partStreams_one (h : ∀ z ∈ ys, z.1.stream = y.1.stream) : partStreams (y :: ys) = [y.1.stream] := by
  unfold partStreams
  rw [List.map_cons, List.eraseDups_cons, List.filter_eq_nil_iff.mpr ?_, List.eraseDups_nil]
  intro n hn
  obtain ⟨z, hz, rfl⟩ := List.mem_map.mp hn
  simp [h z hz]

theorem State.judgePart_one {bs : List Byte} (hv : validRows bs = y :: ys) (h : ∀ z ∈ ys, z.1.stream = y.1.stream) :
    s.judgePart i part parts bs = match s.takePart i part parts y.1.stream (y :: ys) with
      | (1, t) => t.bump (riddlePage i) 2 1
      | (2, t) => t.bump (riddlePage i) 3 1
      | (_, t) => t := by
  have hf : (y :: ys).filter (fun x => x.1.stream = y.1.stream) = y :: ys := by
    rw [List.filter_eq_self]
    simpa using fun a b hz => h (a, b) hz
  unfold State.judgePart
  rw [hv]
  dsimp only
  rw [partStreams_one h, List.foldl_cons, List.foldl_nil, hf]
  generalize s.takePart i part parts y.1.stream (y :: ys) = a
  obtain ⟨c, t⟩ := a
  match c with
  | 0 => rfl
  | 1 => rfl
  | 2 => rfl
  | _ + 3 => rfl

theorem State.judgePart_none {bs : List Byte} (hv : validRows bs = []) : s.judgePart i part parts bs = s.bump (riddlePage i) 2 1 := by
  unfold State.judgePart
  rw [hv]
  rfl
end

/-- What the scan of a part leaves: the part in its place, and of peat what lies outside the place's area. -/
theorem State.scanned_spec (s : State) (i : TileIx) (r : RPlace) (part parts : Nat) (rows : List (RowKey × RawRow)) :
    let u := s.scanned i r part parts rows
    Kept [.fresh, .regs, .fns, .reports, .out, .rplaces, .peat] s u ∧ RegsOutside (scanRegs i) s u ∧
      Store.get [] u.rplaces i = (Store.get [] s.rplaces i).map (fun q => if q.index = r.index then
        r.take ⟨part, parts, rows.map (fun z => s.scanRow (s.scanCtx i r) part z.1 z.2)⟩ else q) ∧
      ∀ (j : TileIx) a, a < peatSize → j ≠ i ∨ a < s.placeAt i r.index ∨ s.placeAt i r.index + 196608 ≤ a →
        Store.get 0 u.peat (peatKey j a) = Store.get 0 s.peat (peatKey j a) := by
  intro u
  obtain ⟨q, hq⟩ : ∃ q, q = r.take ⟨part, parts, rows.map (fun z => s.scanRow (s.scanCtx i r) part z.1 z.2)⟩ := ⟨_, rfl⟩
  have hi : q.index = r.index := hq ▸ RPlace.take_index r _
  obtain ⟨t, ht⟩ : ∃ t, t = (s.ridRead i (s.scanPieces (s.scanCtx i r) rows) .clean 0).2 := ⟨_, rfl⟩
  have kt : Kept [.fresh, .regs, .fns, .reports, .out] s t := ht ▸ State.ridRead_keptP ..
  have rt : RegsOutside (scanRegs i) s t := ht ▸ State.ridRead_outside s i _ 0
  have kq : Kept [.rplaces] t (t.setPlaceR i q) := State.setPlaceR_kept ..
  have ku : Kept [.fresh, .regs, .peat] (t.setPlaceR i q) ((t.setPlaceR i q).stirPlace i r.index) := State.stirPlace_kept ..
  obtain ⟨ru, pu⟩ := State.stirPlace_spec (t.setPlaceR i q) i r.index
  have e : u = (t.setPlaceR i q).stirPlace i r.index := by rw [hq, ht]; rfl
  have ha : (t.setPlaceR i q).placeAt i r.index = s.placeAt i r.index := by
    unfold State.placeAt State.rf
    rw [State.reg_congr (kq.frame .regs (by decide)), rt _ _ (by decide) (riddle_notScan i _)]
  rw [e, ← hq]
  refine ⟨(((kt.mono rfl).step kq rfl).step ku rfl), ?_, ?_, fun j a hlt h => ?_⟩
  · exact (rt.thenSame (kq.frame .regs (by decide))).trans ru
  · rw [ku.frame .rplaces (by decide), State.setPlaceR_get, kt.frame .rplaces (by decide)]
    rw [hi]
  · rw [pu j a hlt (by rw [ha]; exact h.imp_left (fun c d => c (Fin.ext d))), kq.frame .peat (by decide), kt.frame .peat (by decide)]

end Sys2Proof.Machine
end
section
/-! PROOF. HAND, DRAFT_REQ, DRAFT_TREE and the waits at a riddle (R264, R278, R279, R281). -/
namespace Sys2Proof.Machine
open Sys2Proof

section
variable {i : TileIx} {p : Packet} {s : State}

/-! ### HAND -/

theorem exec_hand_waits (h : s.accepts i opHand p = true) (hw : s.handWaits i p = true) : exec (.hand p) s = .next s := by
  obtain ⟨hwf, hd, -⟩ := State.accepts_wf h
  have hn : (s.ejectCause i p).isNone = true := by
    unfold State.accepts at h
    rw [Bool.and_eq_true] at h
    exact h.2
  show execHand p s = _
  unfold execHand
  rw [hwf, hd, hw, hn]
  rfl

/-- A part whose bytes are all there, taken off the tile's parts. -/
def State.handTaken (s : State) (i : Nat) (p : Packet) : State := { s.takePkt p with handRx := Store.set [] s.handRx i (s.gatherHand i p).2 }

theorem State.handTaken_kept (s : State) (i : Nat) (p : Packet) : Kept [.arrivals, .handRx] s (s.handTaken i p) :=
  ((State.takePkt_kept s p).mono rfl).step (Kept.handRx ..) rfl

/-- What the scan of a row reads is not the tile's packets nor its parts. -/
theorem State.nodeState_handTaken (s : State) (i : Nat) (p : Packet) (c : RCtx) (f n : Nat) : (s.handTaken i p).nodeState c f n = s.nodeState c f n := by
  induction f generalizing n with
  | zero => rfl
  | succ f ih =>
    unfold State.nodeState
    simp only [ih]
    rfl

theorem State.scanRow_handTaken (s : State) (i : Nat) (p : Packet) (r : RPlace) (part : Nat) (k : RowKey) (x : RawRow) :
    (s.handTaken i p).scanRow ((s.handTaken i p).scanCtx i r) part k x = s.scanRow (s.scanCtx i r) part k x := by
  rw [show (s.handTaken i p).scanCtx i r = s.scanCtx i r from rfl]
  unfold State.scanRow
  simp only [State.nodeState_handTaken]
  rfl
theorem exec_hand_accepted (h : s.accepts i opHand p = true) (hw : s.handWaits i p = false) :
    exec (.hand p) s = .next (
      let x := (s.gatherHand i p).1
      if x.got < x.total then { s.takePkt p with handRx := Store.set [] s.handRx i ((s.gatherHand i p).2 ++ [x]) }
      else ((s.handTaken i p).judgePart i x.part x.parts x.bytes).tileReply i p opMoveDone 0 x.total []) := by
  obtain ⟨hwf, hd, -⟩ := State.accepts_wf h
  show execHand p s = _
  unfold execHand
  rw [hwf, State.eject_accepted h, hd, hw]
  rfl

/-- A whole part, judged and answered: what is known of the state that the judgement leaves is known of the end. -/
theorem exec_hand_judged (h : s.accepts i opHand p = true) (hw : s.handWaits i p = false) (hg : (s.gatherHand i p).1.total ≤ (s.gatherHand i p).1.got)
    (hc : s.canSend i (replyTo p opMoveDone 0 (s.gatherHand i p).1.total []) = true) {v : State} {l : List (Nat × Nat)}
    (hv : (s.handTaken i p).judgePart i (s.gatherHand i p).1.part (s.gatherHand i p).1.parts (s.gatherHand i p).1.bytes = v)
    (kv : Kept [.fresh, .regs, .fns, .reports, .out, .rplaces, .peat] (s.handTaken i p) v) (rv : RegsOutside l (s.handTaken i p) v)
    (hl : SendFree l) (f : State → Prop)
    (hf : ∀ u, u.rplaces = v.rplaces → u.peat = v.peat → RegsOutside [counter (cetisPage i) 10] v u → f u) :
    Does (.hand p) s (fun u => s.answered u i p [replyTo p opMoveDone 0 (s.gatherHand i p).1.total []] ∧
      Store.get [] u.handRx i = (s.gatherHand i p).2 ∧ f u) := by
  have k0 := State.handTaken_kept s i p
  have r0 : RegsOutside l s (s.handTaken i p) := RegsOutside.of_regs (k0.frame .regs (by decide))
  have hs : SendSame s v := SendSame.of_pages (r0.trans rv) hl ((kv.frame .routes (by decide)).trans (k0.frame .routes (by decide)))
  obtain ⟨h1, h2, h3⟩ := State.tileReply_sent hs hc (by decide) ((kv.frame .net (by decide)).trans (k0.frame .net (by decide)))
  have hx := exec_hand_accepted h hw
  dsimp only at hx
  rw [if_neg (Nat.not_lt.mpr hg), hv] at hx
  refine ⟨_, hx, ⟨?_, h1⟩, ?_, hf _ (h2 .rplaces (by decide)) (h2 .peat (by decide)) h3⟩
  · exact (h2 .arrivals (by decide)).trans (kv.frame .arrivals (by decide))
  · rw [h2 .handRx (by decide), kv.frame .handRx (by decide)]
    exact Store.get_set_same ..
/-! ### The waits at a riddle -/

theorem exec_partTimeout_found {n : StreamIx} {r : RPlace} (h : s.ridPlace n.toNat .gathering = some (i.val, r)) :
    exec (.partTimeout n) s = .next (
      let ns := s.rf (riddlePage i) Reg.RID_PART_TMO 31 0
      if ns ≠ 0 && decide (r.since + ns ≤ s.up) && (!r.complete || !s.ridAligned i) then
        (((s.setPlaceR i { r with since := s.up }).raise (riddlePage i) 3).ridLast (s.rctx i r) 4 (waveHead r.wave).pos0).report i 3 5 0
      else s) := by
  show execPartTimeout n s = _
  unfold execPartTimeout
  dsimp only
  rw [h]
  dsimp only
  split <;> rfl

theorem exec_draftWaitTimeout_found {n : StreamIx} {r : RPlace} (h : s.ridPlace n.toNat .draftWait = some (i.val, r)) :
    exec (.draftWaitTimeout n) s = .next (if r.since + s.rf polderPage (Reg.POLD_DRAFT (s.stream n.toNat).polder) 63 32 ≤ s.up then
      ((s.setPlaceR i { r with phase := .leaving }).bump polderPage 7 1).raise polderPage 2 else s) := by
  show execDraftWaitTimeout n s = _
  unfold execDraftWaitTimeout
  dsimp only
  rw [h]
  dsimp only
  split <;> rfl

/-! ### DRAFT_REQ -/

/-- The free normal places are counted from the first. -/
theorem State.freeNormal_first {b k : Nat} (h : s.freeNormal b = some k) :
    ∃ l, (List.range (s.inSlots b)).filter (fun j => !(s.place b j).used) = k :: l := by
  unfold State.freeNormal at h
  rw [← List.head?_filter] at h
  exact List.head?_eq_some_iff.mp h

/-- A draft stream's wavefront lies in its place once it is current. -/
theorem State.enter_current {b k e n : Nat} {w : List Byte} (hk : k < 128) (h : s.current e (waveHead w) = true) :
    let x := s.stream n
    let u := s.enter b k e n w false
    Kept [.streams, .places, .beds] s u ∧ (∀ k', k' < 128 → k' ≠ k → u.place b k' = s.place b k') ∧
      u.place b k = ({ used := true, src := e, got := w.length, data := w } : Place).whole s.now.toNat ∧
      u.stream n = { x with seq := (x.seq + 1) % 2 ^ 32, inflight := x.inflight + 1 } := by
  intro x u
  obtain ⟨y, hy⟩ : ∃ y : Stream, y = { x with seq := (x.seq + 1) % 2 ^ 32, inflight := x.inflight + 1 } := ⟨_, rfl⟩
  obtain ⟨q, hq⟩ : ∃ q : Place, q = { used := true, src := e, got := w.length, data := w } := ⟨_, rfl⟩
  obtain ⟨t, ht⟩ : ∃ t, t = (s.setStream n y).setPlace b k q := ⟨_, rfl⟩
  have kt : Kept [.streams, .places] s t := ht ▸ ((State.setStream_kept ..).mono rfl).step (State.setPlace_kept ..) rfl
  have tp : t.place b k = q := by rw [ht]; exact State.place_setPlace_same ..
  have tc : t.current e (waveHead (t.place b k).data) = true := by
    rw [tp, State.current_congr (kt.frame .genTab (by decide)), hq]
    exact h
  have e1 : u = (t.wakeDog b).setPlace b k (q.whole s.now.toNat) := by
    rw [show u = t.arrived e b k by rw [ht, hq, hy]; rfl, State.arrived_current tc, tp, kt.frame .now (by decide)]
  have kd : Kept [.beds] t (t.wakeDog b) := State.wakeDog_kept ..
  rw [e1, ← hq, ← hy]
  refine ⟨((kt.mono rfl).step kd rfl).step (State.setPlace_kept ..) rfl, fun k' hk' hne => ?_, State.place_setPlace_same .., ?_⟩
  · have hne' : (b, k') ≠ (b, k) := fun c => hne (Prod.mk.inj c).2
    rw [State.place_setPlace_other _ _ hk hk' hne', State.place_congr (kd.frame .places (by decide)), ht,
      State.place_setPlace_other _ _ hk hk' hne']
    rfl
  · rw [State.stream_congr ((State.setPlace_kept ..).frame .streams (by decide)), State.stream_congr (kd.frame .streams (by decide)), ht,
      State.stream_congr ((State.setPlace_kept ..).frame .streams (by decide)), State.stream_setStream_same]

/-- The header of the wavefront that a DRAFT_REQ puts into a bed. -/
def State.draftHead (s : State) (b : Nat) (p : Packet) : Head :=
  let o := p.operand.toNat
  let x := s.stream (bits o 11 0)
  { stream := bits o 11 0, gen := x.gen, polder := x.polder, rstage := false, bed := b, kind := kPrefill, cls := x.cls, last := false,
    tokens := true, rows := bits o 26 20, fmt := 0, pos0 := bits o 63 32 - bits o 26 20, seq := (x.seq + 1) % 2 ^ 32, enq := s.now.toNat,
    rowBytes := 4, commitN := 0, accept := [] }

/-- The wavefront: a tree of the root alone, with the accepted path. -/
def State.draftWave (s : State) (b : Nat) (p : Packet) : List Byte :=
  let o := p.operand.toNat
  let m := bits o 26 20
  let root := leAt p.payload (4 * m) 4
  tokenWave (s.draftHead b p) (bits o 63 32) root (((p.payload.drop (4 * m + 4)).take (bits o 31 27)).map (·.toNat))
    (some ([⟨root, 0, 0, 0x3F80⟩], [[0]]))

theorem exec_draftReq_judged {n b k : Nat} (h : s.accepts i opDraftReq p = true) (hn : n = bits p.operand.toNat 11 0)
    (hb : s.firstBed (s.stream n).polder = some b)
    (he : s.entryTile b = some i.val) (hm : bits p.operand.toNat 26 20 = 0 ∨ bits p.operand.toNat 26 20 + 1 = bits p.operand.toNat 31 27)
    (hk : s.freeNormal b = some k) (hf : s.fenced (s.stream n).polder = false) (hd : (s.stream n).draft = true)
    (hg : (s.stream n).gen.toNat = bits p.operand.toNat 19 12) (hs : (s.stream n).st = .bound ∨ (s.stream n).st = .prefill) :
    exec (.draftReq p) s = .next (
      if s.tokenWaits (s.stream n).polder || decide (s.rf polderPage (Reg.POLD_LOOP (s.stream n).polder) 15 0 < s.inLoop (s.stream n).polder + 1) then s
      else (((s.takePkt p).setStream n { s.stream n with paths := [], frontier := 0 }).bump polderPage 6 1).enter b k i n (s.draftWave b p) false) := by
  obtain ⟨hwf, hdst, -⟩ := State.accepts_wf h
  have hnone : (s.ejectCause i p).isNone = true := by
    unfold State.accepts at h
    rw [Bool.and_eq_true] at h
    exact h.2
  obtain ⟨l, hl⟩ := State.freeNormal_first hk
  have hneed : (if bits p.operand.toNat 26 20 = 0 || bits p.operand.toNat 26 20 + 1 = bits p.operand.toNat 31 27 then 1 else 2) = 1 :=
    if_pos (by simpa using hm)
  have het : (s.takePkt p).entryTile b = some i.val := he
  show execDraftReq p s = _
  unfold execDraftReq
  rw [hwf, if_neg (by decide)]
  dsimp only
  rw [← hn, hb]
  dsimp only
  rw [hneed, hl, hf, hdst, hnone, State.eject_accepted h]
  have hw (u w : Bool) : ((false || decide ((k :: l).length < 1) || u || w) && true) = (u || w) := by simp
  rw [hw]
  split
  · rfl
  · rw [het, hd, ← hg, if_neg (by simpa [or_iff_not_imp_left] using hs), if_neg (by decide), State.stream_setStream_same, if_pos rfl, hn]
    rfl
/-! ### DRAFT_TREE -/

/-- A DRAFT_TREE taken in: the stream awaits no tree any more, where the tree is of its generation. -/
def State.treeIn (s : State) (p : Packet) : State :=
  let h := Head.ofBytes p.payload
  let x := s.stream h.stream
  if x.gen = h.gen then (s.takePkt p).setStream h.stream { x with draftOut := false } else s.takePkt p

theorem State.treeIn_kept (s : State) (p : Packet) : Kept [.arrivals, .streams] s (s.treeIn p) :=
  Kept.ite (((State.takePkt_kept s p).mono rfl).step (State.setStream_kept ..) rfl) ((State.takePkt_kept s p).mono rfl)

theorem State.treeIn_draftOut (s : State) (p : Packet) (h : (s.stream (Head.ofBytes p.payload).stream).gen = (Head.ofBytes p.payload).gen) :
    ((s.treeIn p).stream (Head.ofBytes p.payload).stream).draftOut = false := by
  unfold State.treeIn
  dsimp only
  rw [if_pos h, State.stream_setStream_same]

/-- Whether a tree comes for the held wavefront, and in time. -/
def State.treeFits (s : State) (r : RPlace) (p : Packet) : Bool :=
  let h := Head.ofBytes p.payload
  let held := waveHead r.wave
  decide (held.gen = h.gen) && decide (held.pos0 = h.pos0) &&
    decide (s.up ≤ r.since + s.rf polderPage (Reg.POLD_DRAFT (s.stream h.stream).polder) 63 32)

/-- The nodes of a tree as they arrive. -/
def arrivingTree (p : Packet) : List Node := treeNodes (p.payload.drop 64) (Head.ofBytes p.payload).rows

/-- The held wavefront with the tree. -/
def State.treeWave (s : State) (r : RPlace) (p : Packet) : List Byte :=
  let h := Head.ofBytes p.payload
  let x := s.stream h.stream
  let held := waveHead r.wave
  tokenWave held held.pos0 (leNat ((waveRows r.wave).take 4)) ((held.accept.take held.commitN).map (·.toNat))
    (some (trimTree (arrivingTree p) (maskRows (p.payload.drop 64) h.rows) held.pos0 x.posLimit x.treeNodes x.treeDepth))

theorem exec_draftTree_held {r : RPlace} (h : s.accepts i opDraftTree p = true)
    (hr : (Store.get [] s.rplaces i).find? (fun r => r.stream = (Head.ofBytes p.payload).stream && r.phase = .draftWait) = some r) :
    exec (.draftTree p) s = .next (
      if s.treeFits r p = false then s.treeIn p
      else if treeValid (arrivingTree p) = false then
        ((((s.treeIn p).setPlaceR i { r with phase := .leaving }).bump polderPage 8 1).bump polderPage 7 1).raise polderPage 2
      else ((s.treeIn p).setPlaceR i { r with phase := .leaving, wave := s.treeWave r p }).bump polderPage 6 1) := by
  have k := State.treeIn_kept s p
  have hr' : (Store.get [] (s.treeIn p).rplaces i).find? (fun r => r.stream = (Head.ofBytes p.payload).stream && r.phase = .draftWait) = some r := by
    rw [k.frame .rplaces (by decide)]
    exact hr
  have hf : (decide ((waveHead r.wave).gen ≠ (Head.ofBytes p.payload).gen) || decide ((waveHead r.wave).pos0 ≠ (Head.ofBytes p.payload).pos0) ||
      decide (r.since + (s.treeIn p).rf polderPage (Reg.POLD_DRAFT (s.stream (Head.ofBytes p.payload).stream).polder) 63 32 < (s.treeIn p).up)) =
      true ↔ s.treeFits r p = false := by
    unfold State.treeFits State.rf
    rw [State.reg_congr (k.frame .regs (by decide)), k.frame .up (by decide)]
    simp only [Bool.or_eq_true, decide_eq_true_eq, Bool.and_eq_false_iff, decide_eq_false_iff_not, not_le, ne_eq]
  show execDraftTree p s = _
  unfold execDraftTree
  rw [(State.accepts_wf h).1, if_neg (by decide), State.eject_accepted h]
  show Host.Outcome.next (match (Store.get [] (s.treeIn p).rplaces i).find? (fun r => r.stream = (Head.ofBytes p.payload).stream && r.phase = .draftWait) with
    | none => _ | some r => _) = _
  rw [hr']
  exact congrArg _ (if_congr hf rfl (if_congr (by simp [arrivingTree]) rfl rfl))
end

/-! ### The outcomes of a whole part -/

/-- A whole part has been taken off the tile's parts and answered, and something more is known. -/
def State.partEnds (s : State) (i : TileIx) (p : Packet) (f : State → Prop) : Prop :=
  Does (.hand p) s (fun u => s.answered u i p [replyTo p opMoveDone 0 (s.gatherHand i p).1.total []] ∧
    Store.get [] u.handRx i = (s.gatherHand i p).2 ∧ f u)

theorem counter_notSent {i : TileIx} (k : Nat) : counter (riddlePage i) k ∉ [counter (cetisPage i) 10] := by
  simp [counter, riddlePage, cetisPage, tilePage]

theorem raw_notSent {i : TileIx} : (riddlePage i, Reg.EVT_RAW) ∉ [counter (cetisPage i) 10] := by
  simp [counter, riddlePage, cetisPage, tilePage]

section
variable {i : TileIx} {p : Packet} {s : State} (h : s.accepts i opHand p = true) (hw : s.handWaits i p = false)
  (hg : (s.gatherHand i p).1.total ≤ (s.gatherHand i p).1.got) (hc : s.canSend i (replyTo p opMoveDone 0 (s.gatherHand i p).1.total []) = true)
include h hw hg hc

/-- A part that only counts on the RIDDLE page. -/
theorem State.partEnds_counted {k : Nat} (hk : k < 496)
    (hv : (s.handTaken i p).judgePart i (s.gatherHand i p).1.part (s.gatherHand i p).1.parts (s.gatherHand i p).1.bytes =
      (s.handTaken i p).bump (riddlePage i) k 1) :
    s.partEnds i p (fun u => u.rplaces = s.rplaces ∧ Counts s u (riddlePage i) k 1) := by
  have k0 := State.handTaken_kept s i p
  have r0 : RegsOutside [] s (s.handTaken i p) := RegsOutside.of_regs (k0.frame .regs (by decide))
  have kb : Kept [.regs] (s.handTaken i p) ((s.handTaken i p).bump (riddlePage i) k 1) := State.bump_kept ..
  refine exec_hand_judged h hw hg hc hv (kb.mono rfl) (RegsOutside.bump _ _ k _ hk) ?_ _ (fun u hr _ ho => ⟨?_, ?_⟩)
  · simp [SendFree, counter, riddlePage, tilePage_sendFree i (k := 7)]
  · exact hr.trans (kb.frame .rplaces (by decide))
  · exact (Counts.before r0 (Counts.bump (s.handTaken i p) _ k 1) hk (by simp)).after ho hk (counter_notSent k)

/-- A part that is discarded and recorded. -/
theorem State.partEnds_discarded {n q : Nat} {g : BitVec 8}
    (hv : (s.handTaken i p).judgePart i (s.gatherHand i p).1.part (s.gatherHand i p).1.parts (s.gatherHand i p).1.bytes =
      (s.handTaken i p).partErr i n g q) :
    s.partEnds i p (fun u => u.rplaces = s.rplaces ∧ u.peat = s.peat ∧ Counts s u (riddlePage i) 4 1 ∧ Raised u (riddlePage i) 2) := by
  have k0 := State.handTaken_kept s i p
  have r0 : RegsOutside [] s (s.handTaken i p) := RegsOutside.of_regs (k0.frame .regs (by decide))
  have ke := State.partErr_kept (s.handTaken i p) i n g q
  obtain ⟨re, ce, ve⟩ := State.partErr_outside (s.handTaken i p) i n g q
  refine exec_hand_judged h hw hg hc hv (ke.mono rfl) re (sendFree_part i) _ (fun u hr hp ho => ⟨?_, ?_, ?_, ve.outside ho raw_notSent⟩)
  · exact hr.trans (ke.frame .rplaces (by decide))
  · exact hp.trans (ke.frame .peat (by decide))
  · exact (Counts.before r0 ce (by decide) (by simp)).after ho (by decide) (counter_notSent 4)

/-- A part that is scanned into its stream's place. -/
theorem State.partEnds_scanned {r : RPlace} {part parts : Nat} {rows : List (RowKey × RawRow)}
    (hv : (s.handTaken i p).judgePart i (s.gatherHand i p).1.part (s.gatherHand i p).1.parts (s.gatherHand i p).1.bytes =
      ((s.handTaken i p).scanned i r part parts rows).bump (riddlePage i) 2 1) :
    s.partEnds i p (fun u =>
      Store.get [] u.rplaces i = (Store.get [] s.rplaces i).map (fun q => if q.index = r.index then
        r.take ⟨part, parts, rows.map (fun z => s.scanRow (s.scanCtx i r) part z.1 z.2)⟩ else q) ∧
      Counts s u (riddlePage i) 2 1 ∧ ∀ (j : TileIx) a, a < peatSize → j ≠ i ∨ a < s.placeAt i r.index ∨ s.placeAt i r.index + 196608 ≤ a →
        Store.get 0 u.peat (peatKey j a) = Store.get 0 s.peat (peatKey j a)) := by
  obtain ⟨kt, rt, pt, bt⟩ := State.scanned_spec (s.handTaken i p) i r part parts rows
  obtain ⟨t, ht⟩ : ∃ t, t = (s.handTaken i p).scanned i r part parts rows := ⟨_, rfl⟩
  rw [← ht] at hv kt rt pt bt
  have k0 := State.handTaken_kept s i p
  have r0 : RegsOutside (scanRegs i) s (s.handTaken i p) := RegsOutside.of_regs (k0.frame .regs (by decide))
  have kb : Kept [.regs] t (t.bump (riddlePage i) 2 1) := State.bump_kept ..
  have rb := RegsOutside.bump t (riddlePage i) 2 1 (by decide)
  refine exec_hand_judged h hw hg hc hv (kt.step kb rfl) ((rt.mono (List.subset_cons_self (counter (riddlePage i) 2) _)).step rb (by simp)) ?_ _
    (fun u hr hp ho => ⟨?_, ?_, fun j a ha hj => ?_⟩)
  · intro x hx
    obtain rfl | hx := List.mem_cons.mp hx
    · exact .inr (tilePage_sendFree i (k := 7) (by decide) (by decide))
    · exact sendFree_scan i x hx
  · rw [hr, kb.frame .rplaces (by decide), pt, k0.frame .rplaces (by decide)]
    simp only [State.scanRow_handTaken]
  · exact (Counts.before (r0.trans rt) (Counts.bump t _ 2 1) (by decide) (riddle_notScan i _)).after ho (by decide) (counter_notSent 2)
  · rw [hp, kb.frame .peat (by decide)]
    exact bt j a ha hj
end

/-- A wavefront that has waited too long for a part: the wait starts again, and the stall is recorded and reported. -/
theorem State.partStalled_spec (s : State) (i : TileIx) (r : RPlace) {n : Nat} (hn : r.stream = n) :
    let u := (((s.setPlaceR i { r with since := s.up }).raise (riddlePage i) 3).ridLast (s.rctx i r) 4 (waveHead r.wave).pos0).report i 3 5 0
    Store.get [] u.rplaces i = (Store.get [] s.rplaces i).map (fun q => if q.index = r.index then { r with since := s.up } else q) ∧
      Raised u (riddlePage i) 3 ∧
      u.reg (riddlePage i) Reg.RID_LAST = word [(0, n), (12, (waveHead r.wave).gen.toNat), (20, 4), (32, (waveHead r.wave).pos0)] ∧
      u.reports = s.reports ++ [⟨i, 3, 5, 0, s.up⟩] := by
  intro u
  subst hn
  obtain ⟨a, ha⟩ : ∃ a, a = s.setPlaceR i { r with since := s.up } := ⟨_, rfl⟩
  obtain ⟨b, hb⟩ : ∃ b, b = (a.raise (riddlePage i) 3).ridLast (s.rctx i r) 4 (waveHead r.wave).pos0 := ⟨_, rfl⟩
  have ka : Kept [.rplaces] s a := ha ▸ State.setPlaceR_kept ..
  have kb : Kept [.regs, .fns, .out] a b := hb ▸ ((State.raise_kept ..).mono rfl).step (State.ridLast_kept ..) rfl
  have ku : Kept [.regs, .fns, .reports, .out] b u := hb ▸ ha ▸ (State.report_kept ..).mono rfl
  have ru : RegsOutside (reportRegs i) b u := hb ▸ ha ▸ (State.report_frame _ i 3 5 0 (by decide) (by decide)).1
  have eu : u = b.report i 3 5 0 := by rw [hb, ha]
  have vb : Raised b (riddlePage i) 3 := hb ▸ (Raised.raise a (riddlePage i) 3 (by decide)).outside
    (RegsOutside.setReg _ (riddlePage i) Reg.RID_LAST _ (by decide)) (by simp [Reg.EVT_RAW, Reg.RID_LAST])
  refine ⟨?_, vb.outside ru (riddle_notReported i _), ?_, ?_⟩
  · rw [ku.frame .rplaces (by decide), kb.frame .rplaces (by decide), ha, State.setPlaceR_get]
  · rw [ru _ _ (by decide) (riddle_notReported i _), hb]
    exact State.reg_setReg_same ..
  · rw [eu, State.report_reports, kb.frame .reports (by decide), ka.frame .reports (by decide), kb.frame .up (by decide),
      ka.frame .up (by decide)]

/-- A draft stream's wavefront put into a bed. -/
theorem State.draftEnters_spec {s : State} {i : TileIx} {p : Packet} {b k n : Nat} (hk : k < 128)
    (hc : s.current i (waveHead (s.draftWave b p)) = true) :
    let w := s.draftWave b p
    let x := s.stream n
    let u := (((s.takePkt p).setStream n { x with paths := [], frontier := 0 }).bump polderPage 6 1).enter b k i n w false
    s.answered u i p [] ∧ Counts s u polderPage 6 1 ∧ (∀ k', k' < 128 → k' ≠ k → u.place b k' = s.place b k') ∧
      u.place b k = { used := true, full := true, src := i, got := w.length, data := withHead w { waveHead w with enq := s.now.toNat } } ∧
      u.stream n = { x with paths := [], frontier := 0, seq := (x.seq + 1) % 2 ^ 32, inflight := x.inflight + 1 } := by
  intro w x u
  obtain ⟨a, ha⟩ : ∃ a, a = (s.takePkt p).setStream n { x with paths := [], frontier := 0 } := ⟨_, rfl⟩
  obtain ⟨t, ht⟩ : ∃ t, t = a.bump polderPage 6 1 := ⟨_, rfl⟩
  have ka : Kept [.arrivals, .streams] s a := ha ▸ ((State.takePkt_kept s p).mono rfl).step (State.setStream_kept ..) rfl
  have kt : Kept [.regs] a t := ht ▸ State.bump_kept ..
  have hct : t.current i (waveHead w) = true := by
    rw [State.current_congr ((kt.frame .genTab (by decide)).trans (ka.frame .genTab (by decide)))]
    exact hc
  obtain ⟨ku, pu, qu, su⟩ := State.enter_current (s := t) (b := b) (n := n) (w := w) hk hct
  have hx : t.stream n = { x with paths := [], frontier := 0 } := by
    rw [State.stream_congr (kt.frame .streams (by decide)), ha, State.stream_setStream_same]
  have e : u = t.enter b k i n w false := by rw [ht, ha]
  rw [e]
  refine ⟨State.answered_nothing ?_ ?_, ?_, fun k' hk' hne => ?_, ?_, ?_⟩
  · rw [ku.frame .arrivals (by decide), kt.frame .arrivals (by decide), ha]
    rfl
  · rw [ku.frame .net (by decide), kt.frame .net (by decide), ka.frame .net (by decide)]
  · have ra : RegsOutside [] s a := RegsOutside.of_regs (ka.frame .regs (by decide))
    have ct : Counts s t polderPage 6 1 := ht ▸ Counts.before ra (Counts.bump a _ 6 1) (by decide) (by simp)
    exact ct.after (l := []) (RegsOutside.of_regs (ku.frame .regs (by decide))) (by decide) (by simp)
  · rw [pu k' hk' hne, State.place_congr (kt.frame .places (by decide)), State.place_congr (ka.frame .places (by decide))]
  · rw [qu, kt.frame .now (by decide), ka.frame .now (by decide)]
    rfl
  · rw [su, hx]

/-- A held wavefront goes out without a tree: its count and its event. -/
theorem State.goesAlone_spec (s : State) :
    let u := (s.bump polderPage 7 1).raise polderPage 2
    Kept [.regs, .fns, .out] s u ∧ Counts s u polderPage 7 1 ∧ Raised u polderPage 2 ∧ RegsOutside (counter polderPage 7 :: evtRegs polderPage) s u := by
  intro u
  have rr := RegsOutside.raise (s.bump polderPage 7 1) polderPage 2
  refine ⟨((State.bump_kept ..).mono rfl).step (State.raise_kept ..) rfl, ?_, Raised.raise _ _ _ (by decide), ?_⟩
  · exact (Counts.bump s polderPage 7 1).after rr (by decide) (by decide)
  · exact ((RegsOutside.bump s polderPage 7 1 (by decide)).mono (by simp)).step rr (fun x hx => List.mem_cons_of_mem _ hx)

/-- What comes after a DRAFT_TREE is taken in leaves it answered by nothing, and its stream awaiting no tree. -/
theorem State.treeIn_answered {s v : State} {i : TileIx} {p : Packet} {l : List Field} (k : Kept l (s.treeIn p) v)
    (h1 : Field.arrivals ∉ l := by decide) (h2 : Field.net ∉ l := by decide) (h3 : Field.streams ∉ l := by decide) :
    s.answered v i p [] ∧ ((s.stream (Head.ofBytes p.payload).stream).gen = (Head.ofBytes p.payload).gen →
      (v.stream (Head.ofBytes p.payload).stream).draftOut = false) := by
  refine ⟨State.answered_nothing ?_ ?_, fun h => ?_⟩
  · rw [k.frame .arrivals h1]
    unfold State.treeIn
    dsimp only
    split <;> rfl
  · rw [k.frame .net h2, (State.treeIn_kept s p).frame .net (by decide)]
  · rw [State.stream_congr (k.frame .streams h3)]
    exact State.treeIn_draftOut s p h

/-- A tree that is not valid: the held wavefront leaves as it is. -/
theorem State.treeInvalid_spec (s : State) (i : TileIx) (p : Packet) (r : RPlace) :
    let u := ((((s.treeIn p).setPlaceR i r).bump polderPage 8 1).bump polderPage 7 1).raise polderPage 2
    (s.answered u i p [] ∧ ((s.stream (Head.ofBytes p.payload).stream).gen = (Head.ofBytes p.payload).gen →
      (u.stream (Head.ofBytes p.payload).stream).draftOut = false)) ∧
      Store.get [] u.rplaces i = (Store.get [] s.rplaces i).map (fun q => if q.index = r.index then r else q) ∧
      Counts s u polderPage 8 1 ∧ Counts s u polderPage 7 1 ∧ Raised u polderPage 2 := by
  intro u
  obtain ⟨a, ha⟩ : ∃ a, a = (s.treeIn p).setPlaceR i r := ⟨_, rfl⟩
  have k0 := State.treeIn_kept s p
  have ka : Kept [.rplaces] (s.treeIn p) a := ha ▸ State.setPlaceR_kept ..
  have kb : Kept [.regs] a (a.bump polderPage 8 1) := State.bump_kept ..
  obtain ⟨k1, c1, e1, r1⟩ := State.goesAlone_spec (a.bump polderPage 8 1)
  have r0 {l : List (Nat × Nat)} : RegsOutside l s a := RegsOutside.of_regs ((ka.frame .regs (by decide)).trans (k0.frame .regs (by decide)))
  have rb := RegsOutside.bump a polderPage 8 1 (by decide)
  have c8 : Counts s (a.bump polderPage 8 1) polderPage 8 1 := Counts.before (l := []) r0 (Counts.bump a ..) (by decide) (by simp)
  have eu : u = ((a.bump polderPage 8 1).bump polderPage 7 1).raise polderPage 2 := by rw [ha]
  have hr := (k1.frame .rplaces (by decide)).trans (kb.frame .rplaces (by decide))
  rw [eu]
  exact ⟨State.treeIn_answered (((ka.mono (m := [.rplaces, .regs, .fns, .out]) rfl).step kb rfl).step k1 rfl),
    State.placed_get (k0.frame .rplaces (by decide)) (ha ▸ hr), c8.after r1 (by decide) (by decide),
    Counts.before (r0.trans rb) c1 (by decide) (by decide), e1⟩

/-- A tree that is valid takes the held wavefront's place. -/
theorem State.treeTaken_spec (s : State) (i : TileIx) (p : Packet) (r : RPlace) :
    let u := ((s.treeIn p).setPlaceR i r).bump polderPage 6 1
    (s.answered u i p [] ∧ ((s.stream (Head.ofBytes p.payload).stream).gen = (Head.ofBytes p.payload).gen →
      (u.stream (Head.ofBytes p.payload).stream).draftOut = false)) ∧
      Counts s u polderPage 6 1 ∧ Store.get [] u.rplaces i = (Store.get [] s.rplaces i).map (fun q => if q.index = r.index then r else q) := by
  have k0 := State.treeIn_kept s p
  have ka : Kept [.rplaces] (s.treeIn p) ((s.treeIn p).setPlaceR i r) := State.setPlaceR_kept ..
  have kb : Kept [.regs] ((s.treeIn p).setPlaceR i r) (((s.treeIn p).setPlaceR i r).bump polderPage 6 1) := State.bump_kept ..
  have r0 : RegsOutside [] s ((s.treeIn p).setPlaceR i r) := RegsOutside.of_regs ((ka.frame .regs (by decide)).trans (k0.frame .regs (by decide)))
  exact ⟨State.treeIn_answered ((ka.mono (m := [.rplaces, .regs]) rfl).step kb rfl), Counts.before r0 (Counts.bump ..) (by decide) (by simp),
    State.placed_get (k0.frame .rplaces (by decide)) (kb.frame .rplaces (by decide))⟩

/-- Settles O51: the outcomes of a part, of its wait, of a DRAFT_REQ, of a DRAFT_TREE and of the wait for it. -/
theorem handsAndDrafts : Obligations.HandsAndDrafts := by
  unfold Obligations.HandsAndDrafts
  intro i p s pg set
  refine ⟨fun h hw => ⟨s, exec_hand_waits h hw, rfl⟩, fun h hw => ?_, fun n r hr => ?_, fun h => ?_, fun h => ?_, fun n r hr => ?_⟩
  · intro x rest rows
    refine ⟨fun hg => ?_, fun hg hc => ?_⟩
    · have hx := exec_hand_accepted h hw
      dsimp only at hx
      rw [if_pos hg] at hx
      exact ⟨_, hx, State.answered_nothing rfl rfl, rfl, Store.get_set_same ..⟩
    · refine ⟨fun hr => State.partEnds_counted h hw hg hc (by decide) (State.judgePart_none hr), fun y ys hr hys => ?_⟩
      have hj := State.judgePart_one (s := s.handTaken i p) (i := i) (part := x.part) (parts := x.parts) hr hys
      refine ⟨fun hgen => ?_, fun hgen hlost => ?_, fun r hgen hh hp => ⟨fun hbad => ?_, fun hbad => ?_⟩⟩
      · rw [State.takePart_old (s := s.handTaken i p) hgen] at hj
        exact State.partEnds_counted h hw hg hc (by decide) hj
      · rw [State.takePart_lost (s := s.handTaken i p) hgen hlost] at hj
        obtain ⟨u, hx, ha, hx', h1, -, h2, h3⟩ := State.partEnds_discarded h hw hg hc hj
        exact ⟨u, hx, ha, hx', h1, h2, h3⟩
      · rw [State.takePart_refused (s := s.handTaken i p) hgen hh hp (hr ▸ hbad)] at hj
        exact State.partEnds_discarded h hw hg hc hj
      · rw [State.takePart_taken (s := s.handTaken i p) hgen hh hp (hr ▸ hbad)] at hj
        have hs := State.partEnds_scanned h hw hg hc hj
        rw [← hr] at hs
        simp only [set, RPlace.take_index]
        exact hs
  · intro ns due
    have hx := exec_partTimeout_found hr
    dsimp only at hx
    refine ⟨fun hd => ?_, fun hd => ?_⟩
    · rw [if_pos hd] at hx
      exact ⟨_, hx, State.partStalled_spec s i r (State.ridPlace_stream hr)⟩
    · rw [if_neg (Bool.eq_false_iff.mp hd)] at hx
      exact ⟨s, hx, rfl⟩
  · intro o n m commitN x b k hb he hm hk hf hd hg hs waits
    have hx := exec_draftReq_judged h rfl hb he hm hk hf hd hg hs
    refine ⟨fun hw => ?_, fun hw => ?_⟩
    · rw [if_pos hw] at hx
      exact ⟨s, hx, rfl⟩
    · intro pos root accept head w hc
      rw [if_neg (Bool.eq_false_iff.mp hw)] at hx
      exact ⟨_, hx, State.draftEnters_spec (State.freeNormal_some hk).1 hc⟩
  · intro h' x r hr held fits sec l tree ends
    have hx := exec_draftTree_held h hr
    have k0 := State.treeIn_kept s p
    refine ⟨fun hf => ?_, fun hf hv => ?_, fun hf hv => ?_⟩
    · have hf' : s.treeFits r p = false := hf
      rw [if_pos hf'] at hx
      obtain ⟨ha, hd⟩ := State.treeIn_answered (i := i) (Kept.refl [] (s.treeIn p))
      exact ⟨_, hx, ha, hd, k0.frame .rplaces (by decide)⟩
    · have hf' : s.treeFits r p = true := hf
      have hv' : treeValid (arrivingTree p) = false := hv
      rw [hf', hv', if_neg (by decide), if_pos rfl] at hx
      obtain ⟨h1, h2, h3⟩ := State.treeInvalid_spec s i p { r with phase := .leaving }
      exact ⟨_, hx, h1.1, h1.2, h2, h3⟩
    · have hf' : s.treeFits r p = true := hf
      have hv' : treeValid (arrivingTree p) = true := hv
      rw [hf', hv', if_neg (by decide), if_neg (by decide)] at hx
      obtain ⟨h1, h2, h3⟩ := State.treeTaken_spec s i p { r with phase := .leaving, wave := s.treeWave r p }
      exact ⟨_, hx, h1.1, h1.2, h2, h3⟩
  · intro late
    have hx := exec_draftWaitTimeout_found hr
    refine ⟨fun hl => ?_, fun hl => ?_⟩
    · rw [if_pos (of_decide_eq_true hl)] at hx
      obtain ⟨k1, c1, e1, -⟩ := State.goesAlone_spec (s.setPlaceR i { r with phase := .leaving })
      have r0 : RegsOutside [] s (s.setPlaceR i { r with phase := .leaving }) := RegsOutside.of_regs rfl
      exact ⟨_, hx, State.placed_get rfl (k1.frame .rplaces (by decide)), Counts.before r0 c1 (by decide) (by simp), e1⟩
    · rw [if_neg (of_decide_eq_false hl)] at hx
      exact ⟨s, hx, rfl⟩

end Sys2Proof.Machine
end

section
/-! PROOF. Selection for a stream whose context names no polder of the eight (R250, R264, R273, R292, R303). -/
namespace Sys2Proof.Machine
open Sys2Proof

/-- A decode wavefront of one row of stream 5 of generation 0, at position 0. -/
def oneRowHead : Head := ⟨5, 0, 0, false, 0, kDecode, 0, true, true, 1, 0, 0, 1, 0, 4, 0, List.replicate 16 0⟩

/-- Its place at the riddle, whose only part has arrived with one candidate, token 1 of logit 1.0. -/
def oneRowPlace : RPlace :=
  ⟨0, 5, 0, 0, 0, 84, oneRowHead.bytes ++ List.replicate 20 0, [⟨0, 0, [⟨0, 0, 1, 1, some (0x3F800000, 0x3F800000), 0, false, []⟩]⟩],
    [⟨0, 0, [(0, ⟨1, 0x3F800000⟩)]⟩], .gathering, 0⟩

/-- A polder number beyond the eight of R273: POLD_DRAFT advances by 0x40 bytes for each polder, so that this one's lies where tile 0's
PEAT_ECC_ADDR is kept. -/
def strayPolder : Nat := 64 * (peatPage 0 - polderPage)

/-- A linked stream of that polder with a tree's budget, its request for one already sent. -/
def strayStream : Stream := { st := .decode, polder := strayPolder, linked := true, treeNodes := 2, draftOut := true }

/-- Tile 0 with layer 0 of its peat ON and the stream's wavefront complete at its riddle. -/
def strayState : State :=
  { (({} : State).setReg (pwrPage 0) Reg.PWR_DOM 0x200) with streams := [(5, strayStream)], rplaces := [(0, [oneRowPlace])] }

/-- A byte of the stream's riddle record: its word's number is odd. -/
def recordByte : Addr := 10248

/-- The phases of tile 0's riddle places after a command. -/
def phasesAfter : Out State → List RPhase
  | .next u => (Store.get [] u.rplaces 0).map (·.phase)
  | _ => []

/-- The corrected error is recorded with bit 3 of PEAT_ECC_ADDR set, so that the stream is now coupled: its wavefront waits for a tree. -/
theorem phasesAfter_strayState : phasesAfter (exec (.riddleSelect 5 (.corrected 0) recordByte) strayState) = [.draftWait] := by decide +kernel

/-- The wavefront is complete and current, and its reads meet no uncorrectable error. -/
theorem strayState_selects :
    let c := strayState.rctx 0 oneRowPlace
    let reads := strayState.ridPieces c [0]
    strayState.ridPlace 5 .gathering = some (0, oneRowPlace) ∧ waveHead oneRowPlace.wave = oneRowHead ∧ strayState.fenced 0 = false ∧
      strayState.genAt 0 5 = 0 ∧ (oneRowPlace.complete && strayState.ridAligned 0 && strayState.piecesOn 0 reads) = true ∧
      (strayState.ridRead 0 reads (.corrected 0) recordByte.toNat).1 = true := by decide +kernel

/-- Token 1 is selected and does not end the stream, which before the error is not coupled. -/
theorem strayState_goesOn :
    let c := strayState.rctx 0 oneRowPlace
    let g := if c.record.gramEn then (strayState.gramNext 0 c.record.grammar c.record.gstate 1).getD c.record.gstate else c.record.gstate
    c.greedy = true ∧ (c.rowSel 0 0).cand.head? = some ⟨1, 0x3F800000⟩ ∧ strayState.endsWith 0 5 ⟨1, 0, 1, false⟩ g = none ∧
      strayState.jrnRoom 5 1 = true ∧ strayState.coupled 5 = false ∧ c.record.ngram = false := by decide +kernel

/-- Whether a token ends its stream does not depend on its log-probability (R296). -/
theorem State.endsWith_lp (s : State) (i n id lp pos : Nat) (d : Bool) (g : Nat) :
    s.endsWith i n ⟨id, lp, pos, d⟩ g = s.endsWith i n ⟨id, 0, pos, d⟩ g := rfl

/-- Refutes O52: nothing bounds the polder of a stream's context. Where its number is beyond the eight, the POLD_DRAFT that it names is
another register, and the selection's own reads can write that one: a corrected error of the riddle's record couples the stream to a draft
polder, and the next token wavefront waits for a tree, where the statement has it leave. -/
theorem not_tokenSelection : ¬ Obligations.TokenSelection := by
  unfold Obligations.TokenSelection
  intro h
  obtain ⟨hp, hh, hf, hg, hw, hs⟩ := strayState_selects
  obtain ⟨hgr, hk, he, hr, hc, hn⟩ := strayState_goesOn
  obtain ⟨-, -, -, -, select⟩ := h 5 (.corrected 0) recordByte 0 oneRowPlace strayState hp
  rw [hh] at select
  obtain ⟨-, -, selected⟩ := select hf hg hw hs rfl (by decide) (.inr rfl)
  obtain ⟨-, goesOn⟩ := selected ⟨1, 0x3F800000⟩ ((if_pos hgr).trans hk) hr
  obtain ⟨u, hu, -, hl, -⟩ := goesOn ((State.endsWith_lp ..).trans he) hc hn
  have leaves : (Store.get [] u.rplaces 0).map (·.phase) = [.leaving] := (congrArg (List.map RPlace.phase) hl).trans rfl
  have waits := phasesAfter_strayState
  rw [hu] at waits
  exact absurd (leaves.symm.trans waits) (by decide)

end Sys2Proof.Machine
end

section
/-! PROOF. Every command answers a next state, but for a packet beyond the limit of R316. -/
namespace Sys2Proof.Machine
open Sys2Proof

/-- An outcome that is a next state. -/
def Completes (o : Out State) : Prop := ∃ u, o = .next u

theorem completes_next (u : State) : Completes (.next u) := ⟨u, rfl⟩

/-- A test between outcomes that complete completes. -/
theorem completes_ite {c : Prop} [Decidable c] {a b : Out State} (ha : Completes a) (hb : Completes b) : Completes (if c then a else b) := by
  split <;> assumption

/-- A command that carries a packet completes where the packet's payload is within R316's limit, if its meaning does, and otherwise faults. -/
theorem packet_completes_or_faults {p : Packet} {o : Out State} (h : Completes o) :
    let r : Out State := if !p.wf then .fault .illFormed else o
    (∃ u, r = .next u) ∨ (p.wf = false ∧ r = .fault .illFormed) := by
  cases hp : p.wf with
  | true => exact .inl h
  | false => exact .inr ⟨rfl, rfl⟩

/-- Settles O8: a command either meets its packet's limit first, or each of its tests and lookups ends in a next state. -/
theorem everyCommandCompletes : Obligations.EveryCommandCompletes := by
  intro c s
  cases c with
  -- packets: the limit of R316, then what the operation does
  | wr | rd | mireRd | mireWr | placeReq | placeOk | wave | draftTree | remoteGadd | genUpdate =>
    exact packet_completes_or_faults (completes_next _)
  | probe | hand | grant | refuse | mgmt | moveDone =>
    refine packet_completes_or_faults ?_
    repeat' apply completes_ite
    all_goals exact completes_next _
  | rdData | draftReq | packetHop =>
    simp only [exec, execRdData, execDraftReq, execPacketHop]
    refine packet_completes_or_faults ?_
    repeat' split
    all_goals exact completes_next _
  -- commands that only test the state
  | agePromotion | icacheFill | poolScrub | peatScrub | flitCrcFail | laneRetire | refreshManagement | mireScrub | stackSupplyFault |
    streamFree | credit | stopResend | helloRetry | sessionRollover | sqFetch | indexBlockWrite | queueInterrupt | portReset |
    pcieLinkTrained | dmaFailure | apertureWrite | ethLinkChange | regAccessTimeout | sealWalk | tapAck | epochBoundary | undervoltShutdown
    | tideSrcWrite | tideLeaseLapse | tideLimUpdate | refLost | parentLost | parentChange | droopStretchEnd | freqStep | generatorSwitch |
    ptpAnnounceTimeout | thermalShutdown | quenchStep | quenchLimUpdate | flowWindow | coolingJudge | heartbeat | heartbeatMiss | settleEnd
    | refillStart | refillDone | selfTestDone | vauxOn | fwVerify | mainPowerEnable | mireBringup | tileTestDone | siteMapRecord | bootReady
    | vauxLost | ageSample | monConfigWrite | monTickSample =>
    refine .inl ?_
    repeat' apply completes_ite
    all_goals exact completes_next _
  -- commands that also look something up in it
  | sbEntryRelease | unitInstrComplete | unitFault | scalarLoadReturn | gwaitSatisfied | gateTimeout | illegal | kvputEntryReread |
    taggedAccessResume | slotTimeout | pageCommandArrive | attentionDrainEnd | spillCopyDone | fetchCopyDone | fetchReadRefused |
    stackTempRead | admission | passOpen | passStart | passForward | tokenWavefrontMove | bedWatchdog | draftWaitTimeout | riddleSelect |
    partTimeout | loadChecked | loadPlaced | loadPourComplete | extentReq | extentDrain | stagingProbe | reqSilenceTimeout | sessionReopen |
    hello | helloAck | cmdNop | bind | bindingDone | cancel | load | tokenRecordWrite | apertureRead | rampGrant | rampStage | domRampSample
    | domFail | minvSample | ptpEventMessage | trayRead | recastStart | tileTest =>
    refine .inl ?_
    simp only [exec, execSbEntryRelease, execUnitInstrComplete, execUnitFault, execScalarLoadReturn, execGwaitSatisfied, execGateTimeout,
      execIllegal, execKvputEntryReread, execTaggedAccessResume, execSlotTimeout, execPageCommandArrive, execAttentionDrainEnd,
      execSpillCopyDone, execFetchCopyDone, execFetchReadRefused, execStackTempRead, execAdmission, execPassOpen, execPassStart,
      execPassForward, execTokenWavefrontMove, execBedWatchdog, execDraftWaitTimeout, execRiddleSelect, execPartTimeout, execLoadChecked,
      execLoadPlaced, execLoadPourComplete, execExtentReq, execExtentDrain, execStagingProbe, execReqSilenceTimeout, execSessionReopen,
      execHello, execHelloAck, execCmdNop, execBind, execBindingDone, execCancel, execLoad, execTokenRecordWrite, execApertureRead,
      execRampGrant, execRampStage, execDomRampSample, execDomFail, execMinvSample, execPtpEventMessage, execTrayRead, execRecastStart,
      execTileTest]
    repeat' split
    all_goals exact completes_next _
  -- commands that do the same in every state
  | _ => exact .inl (completes_next _)

end Sys2Proof.Machine
end

section
/-! SUPPORT. What a mire controller finds and leaves, and a sluice die's reply (R320, R325, R341 to R345, R359 to R361). -/
namespace Sys2Proof.Machine
open Sys2Proof

/-! ### What a mire controller's work leaves of the rest -/

/-- No register of a CETIS page is one that work on peat and the mire writes. -/
theorem MemReg.cetis (i off : Nat) : ¬MemReg (cetisPage i, off) := by
  rintro (⟨k, hk⟩ | ⟨j, hj⟩ | h1 | h1)
  · simp only [cetisPage, peatPage, tilePage] at hk
    omega
  · simp only [cetisPage, mirePage, tilePage, diePage] at hj
    omega
  · have := (Prod.mk.inj h1).1
    simp only [cetisPage, tilePage, portPage, pciePage, portDie, diePage] at this
    omega
  · have := (Prod.mk.inj h1).1
    simp only [cetisPage, tilePage, portPage, pciePage, portDie, diePage] at this
    omega

theorem MemOnly.mireReadBurst (s : State) (a n burst landed : Nat) (e : EccResult) : MemOnly s (s.mireReadBurst a n burst landed e).2 := by
  have h := MemOnly.mireServeRead s a n
  unfold State.mireReadBurst
  generalize s.mireServeRead a n = r at h
  match r with
  | (none, t) => exact h
  | (some bs, t) =>
    dsimp only at h ⊢
    split
    · exact h
    · split
      · exact h
      · exact h.trans (MemOnly.mireEcc _ _ _ _ _ _)
      · exact (RegsBut.of_regs rfl).trans (MemOnly.mireEcc _ _ _ _ _ _)

/-- What the mire controllers' work on a request leaves: the mire and its poison, their pages' registers, and what records errors. -/
structure MireWork (s t : State) : Prop where
  kept : Kept [.regs, .mire, .mireBad, .banks, .fns, .evWay, .out] s t
  regs : MemOnly s t

theorem MireWork.read {s t : State} {a n burst landed : Nat} {e : EccResult} {r : Option (List Byte)}
    (h : s.mireReadBurst a n burst landed e = (r, t)) : MireWork s t :=
  ⟨(State.mireReadBurst_kept h).mono rfl, by simpa only [h] using MemOnly.mireReadBurst s a n burst landed e⟩

theorem MireWork.write {s t : State} {a : Nat} {bs : List Byte} {r : Bool} (h : s.mireServeWrite a bs = (r, t)) : MireWork s t :=
  ⟨(State.mireServeWrite_kept h).mono rfl, by simpa only [h] using MemOnly.mireServeWrite s a bs⟩

section
variable {s t : State} (w : MireWork s t)
include w

theorem MireWork.rf_cetis (i hi lo : Nat) {off : Nat} (h : off < 4096) : t.rf (cetisPage i) off hi lo = s.rf (cetisPage i) off hi lo := by
  unfold State.rf
  rw [w.regs _ _ h (MemReg.cetis i off)]

theorem MireWork.rb_cetis (i k : Nat) {off : Nat} (h : off < 4096) : t.rb (cetisPage i) off k = s.rb (cetisPage i) off k := by
  unfold State.rb
  rw [w.regs _ _ h (MemReg.cetis i off)]

theorem MireWork.live (i : Nat) : t.live i = s.live i := by
  unfold State.live
  by_cases hi : i < 80
  · have e : t.tstate i = s.tstate i := by
      unfold State.tstate State.rf
      rw [w.regs _ _ (by unfold Reg.TSTATE; omega) (MemReg.global (by decide))]
    rw [e]
  · simp [hi]

theorem MireWork.pickSet (sc : Scope) (pol a b : Nat) : t.pickSet sc pol a b = s.pickSet sc pol a b := by
  unfold State.pickSet State.member State.polderOf
  simp only [w.live, w.rb_cetis _ _ (show Reg.CETIS_CTL < 4096 by decide), w.rf_cetis _ _ _ (show Reg.CETIS_CTL < 4096 by decide)]

/-- The gateway takes a reply in after the controllers' work as before it. -/
theorem MireWork.dieCanReply (d : Nat) (p : Packet) : t.dieCanReply d p = s.dieCanReply d p := by
  unfold State.dieCanReply State.hasRoute State.route State.fencedPort State.epochOf
  dsimp only
  rw [w.kept.frame .dieFence (by decide), w.kept.frame .routes (by decide), w.kept.frame .rimEpoch (by decide), w.pickSet,
    w.rf_cetis _ _ _ (show Reg.EPOCH < 4096 by decide)]
  simp only [w.rb_cetis _ _ (show Reg.PORT_FENCE < 4096 by decide)]
end

/-! ### A sluice die's reply -/

theorem opDefined_lt {op : Nat} (h : opDefined op = true) : op < 256 := by
  simp only [opDefined, Bool.or_eq_true, Bool.and_eq_true, decide_eq_true_eq] at h
  omega

/-- What waits in the gateway's router is a sluice die's reply to a packet (R325). -/
def DieReply (d : DieIx) (p : Packet) (op operand addr : Nat) (payload : List Byte) (x : Transit) : Prop :=
  x.tile = p.gwy.toNat ∧ x.inPort = 4 ∧ x.pkt.dst = p.src ∧ x.pkt.src.toNat = dieEnd d ∧ x.pkt.op.toNat = op ∧ x.pkt.gwy = p.gwy ∧
    x.pkt.tag = p.tag ∧ x.pkt.polder = p.polder ∧ x.pkt.operand = BitVec.ofNat 64 operand ∧ x.pkt.addr = BitVec.ofNat 48 addr ∧
    x.pkt.payload = payload ∧ Packet.intact x.pkt = true

/-- A packet delivered to a sluice die is gone, and the die's reply to it waits behind what was in the mesh. -/
def Replied (d : DieIx) (p : Packet) (s u : State) (op operand addr : Nat) (payload : List Byte) : Prop :=
  ∃ x : Transit, u.net = s.net ++ [x] ∧ u.arrivals = s.arrivals.erase p ∧ DieReply d p op operand addr payload x

/-- A die's packet with a route, through a gateway without a fence that holds its epoch: it waits there behind those in the mesh. -/
theorem State.dieInject_net {s : State} {gw : Nat} {p : Packet} (hf : Store.get false s.dieFence gw = false)
    (hr : s.hasRoute (s.pickSet .rim p.polder.toNat gw p.dst.toNat) gw p.dst.toNat = true) (hx : ∀ k, k < 5 → s.fencedPort gw k = false)
    (ho : opDefined p.op.toNat = true) (he : p.sys = true ∨ p.epoch.toNat = s.epochOf gw p.polder.toNat) :
    ∃ set lane out, (s.dieInject gw p).net = s.net ++ [⟨Packet.sealed { p with set := set }, gw, 4, lane, s.up, out⟩] ∧
      Frame [.net, .ports] s (s.dieInject gw p) := by
  obtain ⟨q, hq⟩ : ∃ q : Packet, q = { p with set := BitVec.ofNat 2 (s.pickSet .rim p.polder.toNat gw p.dst.toNat) } := ⟨_, rfl⟩
  have e : s.dieInject gw p = (s.chooseLane gw 7 q).2.enterRouter gw 4 (s.chooseLane gw 7 q).1 (Packet.sealed q) := by
    unfold State.dieInject
    dsimp only
    rw [hf, hr, Bool.false_and, Bool.not_true, Bool.or_false, if_neg (by decide), hq]
  obtain ⟨fl, nl, -⟩ := State.chooseLane_frame s gw 7 q
  have rl := fl .regs (by decide)
  rw [e]
  generalize s.chooseLane gw 7 q = z at *
  obtain ⟨⟨out, hn⟩, fz, -⟩ := State.enterRouter_net (s := z.2) (tile := gw) (inPort := 4) (lane := z.1) (p := Packet.sealed q)
    (fun k hk => by
      have := hx k hk
      unfold State.fencedPort State.rb at this ⊢
      rwa [State.reg_congr rl])
    (by rw [hq]; exact ho)
    (by
      unfold State.epochOf State.rf at he ⊢
      rw [State.reg_congr rl, hq]
      exact he)
  refine ⟨q.set, z.1, out, ?_, (fl.mono rfl).trans fz⟩
  rw [hn, nl, fl .up (by decide), hq]

/-- What a die answers to a packet, where its gateway takes the reply in. -/
theorem State.dieReply_sent {s : State} {d : DieIx} {p : Packet} {op operand addr : Nat} {payload : List Byte}
    (h : s.dieCanReply d p = true) (ho : opDefined op = true) :
    Frame [.net, .ports] s (s.dieReply d p op operand addr payload) ∧
      ∃ x : Transit, (s.dieReply d p op operand addr payload).net = s.net ++ [x] ∧ DieReply d p op operand addr payload x := by
  unfold State.dieCanReply at h
  simp only [Bool.and_eq_true, Bool.or_eq_true, Bool.not_eq_true', List.all_eq_true, List.mem_range, decide_eq_true_eq] at h
  obtain ⟨⟨⟨hf, hr⟩, hx⟩, he⟩ := h
  have hop : (BitVec.ofNat 8 op).toNat = op := Nat.mod_eq_of_lt (opDefined_lt ho)
  have hend : (BitVec.ofNat 8 (dieEnd d)).toNat = dieEnd d := Nat.mod_eq_of_lt (by have := d.isLt; unfold dieEnd; omega)
  obtain ⟨set, lane, out, hn, fr⟩ := State.dieInject_net
    (p := { dst := p.src, src := BitVec.ofNat 8 (dieEnd d), vc := BitVec.ofNat 2 (opVc op), set := 0, ord := opOrd op, sys := p.sys,
            polder := p.polder, epoch := Store.get 0 s.rimEpoch (d * 8 + p.polder.toNat), tclass := 2, op := BitVec.ofNat 8 op,
            gwy := p.gwy, addr := BitVec.ofNat 48 addr, tag := p.tag, operand := BitVec.ofNat 64 operand, payload := payload, e2e := 0 })
    hf hr hx (by rw [hop]; exact ho) he
  exact ⟨fr, _, hn, rfl, rfl, rfl, hend, hop, rfl, rfl, rfl, rfl, rfl, rfl, Packet.intact_sealed _⟩

/-- The same after the controllers' work on the packet. -/
theorem MireWork.replied {s t : State} {d : DieIx} {p : Packet} {op operand addr : Nat} {payload : List Byte}
    (w : MireWork (s.takePkt p) t) (h : s.dieCanReply d p = true) (ho : opDefined op = true) :
    Frame [.net, .ports] t (t.dieReply d p op operand addr payload) ∧
      Replied d p s (t.dieReply d p op operand addr payload) op operand addr payload := by
  obtain ⟨f, x, hn, hx⟩ := State.dieReply_sent (s := t) (operand := operand) (addr := addr) (payload := payload)
    ((w.dieCanReply d p).trans h) ho
  exact ⟨f, x, hn.trans (congrArg (· ++ [x]) (w.kept.frame .net (by decide))),
    (f .arrivals (by decide)).trans (w.kept.frame .arrivals (by decide)), hx⟩

/-! ### Packets delivered to a sluice die -/

/-- An intact packet at its sluice die: taken out of the mesh, and its epoch compared (R320, R345). -/
theorem State.ejectDie_intact {s : State} {d : DieIx} {op : Nat} {p : Packet} (hd : p.dst.toNat = dieEnd d) (hi : Packet.intact p = true)
    (ha : s.arrivable op p = true) (f : Nat → State → State) :
    s.ejectDie op p f = if !p.sys && decide (p.epoch ≠ Store.get 0 s.rimEpoch (d * 8 + p.polder.toNat)) then
        (if p.op.toNat = opMireRd || p.op.toNat = opMireWr then
          (s.takePkt p).bump (mirePage (4 * d + mireSub p.addr.toNat)) 6 1 else s.takePkt p)
      else f d (s.takePkt p) := by
  unfold dieEnd at hd
  have hlt := d.isLt
  have e : p.dst.toNat - 0x80 = d.val := by omega
  have here : (!s.arrivable op p || decide (p.dst.toNat < 0x80) || decide (8 ≤ d.val)) = false := by
    rw [ha, hd]
    simp
  unfold State.ejectDie
  dsimp only
  rw [e, here, if_neg (by decide), hi, if_neg (by decide)]
  rfl

theorem State.dieAccepts_iff {s : State} {d : DieIx} {op : Nat} {p : Packet} :
    s.dieAccepts d op p = true ↔ Packet.wf p = true ∧ s.arrivable op p = true ∧ p.dst.toNat = dieEnd d ∧ Packet.intact p = true ∧
      (p.sys = true ∨ p.epoch = Store.get 0 s.rimEpoch (d * 8 + p.polder.toNat)) := by
  simp only [State.dieAccepts, dieEnd, Bool.and_eq_true, Bool.or_eq_true, decide_eq_true_eq, and_assoc]

theorem State.ejectDie_accepted {s : State} {d : DieIx} {op : Nat} {p : Packet} (h : s.dieAccepts d op p = true) (f : Nat → State → State) :
    s.ejectDie op p f = f d (s.takePkt p) := by
  obtain ⟨-, ha, hd, hi, he⟩ := State.dieAccepts_iff.mp h
  have current : (!p.sys && decide (p.epoch ≠ Store.get 0 s.rimEpoch (d * 8 + p.polder.toNat))) = false := by
    rcases he with h | h <;> simp [h]
  rw [State.ejectDie_intact hd hi ha, current, if_neg (by decide)]

/-- A mire request of another epoch is dropped, and its stack counts it. -/
theorem State.ejectDie_stale {s : State} {d : DieIx} {op : Nat} {p : Packet} (hd : p.dst.toNat = dieEnd d) (hi : Packet.intact p = true)
    (ha : s.arrivable op p = true) (ho : op = opMireRd ∨ op = opMireWr) (hs : p.sys = false)
    (he : p.epoch ≠ Store.get 0 s.rimEpoch (d * 8 + p.polder.toNat)) (f : Nat → State → State) :
    s.ejectDie op p f = (s.takePkt p).bump (mirePage (4 * d + mireSub p.addr.toNat)) 6 1 := by
  have hop : p.op.toNat = op := by
    unfold State.arrivable at ha
    rw [Bool.and_eq_true, decide_eq_true_eq] at ha
    exact ha.1
  rw [State.ejectDie_intact hd hi ha, hs, decide_eq_true he, if_pos (by decide), hop]
  rcases ho with rfl | rfl <;> rfl

/-! ### What a controller finds -/

section
variable {s : State} {a n burst landed : Nat} {e : EccResult}

theorem State.mireReady_le (h : s.mireReady a n = true) : a + n ≤ mireSize := by
  unfold State.mireReady at h
  rw [Bool.and_eq_true, decide_eq_true_eq] at h
  exact h.1

theorem State.mireServeRead_ready (hr : s.mireReady a n = true) (hp : s.mirePoisoned a n = false) :
    s.mireServeRead a n = (some (s.readMire a n), s.countMire 0 (granules a n)) := by
  unfold State.mireServeRead
  dsimp only
  rw [if_neg (Nat.not_lt.mpr (State.mireReady_le hr)), hr, if_neg (by decide), hp, if_neg (by decide)]

theorem State.mireServeRead_refused (h : s.mireReady a n = false ∨ s.mirePoisoned a n = true) : (s.mireServeRead a n).1 = none := by
  unfold State.mireServeRead
  dsimp only
  split
  · rfl
  split
  · rfl
  next hr =>
    have hp : s.mirePoisoned a n = true := h.resolve_left (by simpa using hr)
    rw [hp, if_pos rfl]

theorem State.mireServeWrite_ready {bs : List Byte} (hr : s.mireReady a bs.length = true) :
    s.mireServeWrite a bs = (true, (s.writeMire a bs).countMire 1 (granules a bs.length)) := by
  unfold State.mireServeWrite
  dsimp only
  rw [if_neg (Nat.not_lt.mpr (State.mireReady_le hr)), hr, if_neg (by decide)]

theorem State.mireServeWrite_refused {bs : List Byte} (hr : s.mireReady a bs.length = false) :
    ∃ t, s.mireServeWrite a bs = (false, t) ∧ Kept [.regs, .fns, .out] s t := by
  unfold State.mireServeWrite
  dsimp only
  split
  · exact ⟨s, rfl, Kept.refl _ s⟩
  · rw [hr, if_pos (by decide)]
    exact ⟨_, rfl, State.raiseDown_kept ..⟩

/-- Whether a burst is one of a request's. -/
def asksBurst (a n burst : Nat) : Bool := decide (a ≤ burst) && decide (burst < a + n)

theorem asksBurst_pos (h : asksBurst a n burst = true) : n ≠ 0 := by
  simp only [asksBurst, Bool.and_eq_true, decide_eq_true_eq] at h
  omega

theorem asksBurst_burst (h : asksBurst a n burst = true) : (if decide (a ≤ burst) && decide (burst < a + n) then burst else a) = burst := if_pos h

theorem State.mireReadBurst_clean (hr : s.mireReady a n = true) (hp : s.mirePoisoned a n = false)
    (h : n = 0 ∨ (asksBurst a n burst = true ∧ burstCheck burst landed e = .clean)) :
    s.mireReadBurst a n burst landed e = (some (s.readMire a n), s.countMire 0 (granules a n)) := by
  unfold State.mireReadBurst
  rw [State.mireServeRead_ready hr hp]
  dsimp only
  rcases h with h | ⟨ha, hc⟩
  · exact if_pos h
  · rw [if_neg (asksBurst_pos ha), asksBurst_burst ha, hc]

theorem State.mireReadBurst_corrected {sy : BitVec 8} (hr : s.mireReady a n = true) (hp : s.mirePoisoned a n = false)
    (ha : asksBurst a n burst = true) (hc : burstCheck burst landed e = .corrected sy) :
    s.mireReadBurst a n burst landed e =
      (some (s.readMire a n), (s.countMire 0 (granules a n)).mireEcc burst sy.toNat false false false) := by
  unfold State.mireReadBurst
  rw [State.mireServeRead_ready hr hp]
  dsimp only
  rw [if_neg (asksBurst_pos ha), asksBurst_burst ha, hc]

theorem State.mireReadBurst_uncorrectable (hr : s.mireReady a n = true) (hp : s.mirePoisoned a n = false)
    (ha : asksBurst a n burst = true) (hc : burstCheck burst landed e = .uncorrectable) :
    s.mireReadBurst a n burst landed e =
      (none, ({ s with mireBad := Store.set false s.mireBad (burst / 256) true } : State).mireEcc burst 0 true false false) := by
  unfold State.mireReadBurst
  rw [State.mireServeRead_ready hr hp]
  dsimp only
  rw [if_neg (asksBurst_pos ha), asksBurst_burst ha, hc]

theorem State.mireReadBurst_refused (h : s.mireReady a n = false ∨ s.mirePoisoned a n = true) :
    ∃ t, s.mireReadBurst a n burst landed e = (none, t) ∧ Kept [.regs, .banks, .fns, .evWay, .out] s t := by
  have hk := State.mireServeRead_keptP s a n
  have hn := State.mireServeRead_refused h
  unfold State.mireReadBurst
  generalize s.mireServeRead a n = r at hk hn
  obtain ⟨x, t⟩ := r
  obtain rfl : x = none := hn
  exact ⟨t, rfl, hk⟩

/-- An ECC error raises CE or UE on its stack's page (R343, R359). -/
theorem State.mireEcc_raised (s : State) (a sy : Nat) (ue poison scrub : Bool) :
    Raised (s.mireEcc a sy ue poison scrub) (mirePage (mireStack a)) (if ue then 1 else 0) := by
  unfold State.mireEcc
  extract_lets pg l s1 s2
  have h : Raised s2 pg (if ue then 1 else 0) := Raised.raise _ _ _ (by split <;> decide)
  refine h.outside (l := []) (RegsOutside.of_regs ?_) List.not_mem_nil
  split <;> rfl
end

end Sys2Proof.Machine
end

section
/-! PROOF. Mire requests at a sluice die (R320, R341 to R345, R360, R361). -/
namespace Sys2Proof.Machine
open Sys2Proof

section
variable {s t : State} {d : DieIx} {p : Packet} {e : EccResult} {burst landed : Addr}

/-- A read that the controllers serve is answered with its bytes. -/
theorem mireRd_served (ha : s.dieAccepts d opMireRd p = true) (hc : s.dieCanReply d p = true)
    (hr : (s.takePkt p).mireReadBurst p.addr.toNat (bits p.operand.toNat 15 0) burst.toNat landed.toNat e =
      (some (s.readMire p.addr.toNat (bits p.operand.toNat 15 0)), t)) :
    Does (.mireRd p e burst landed) s (fun u => Frame [.net, .ports] t u ∧
      Replied d p s u opRdData (bits p.operand.toNat 15 0) (bits p.operand.toNat 63 16)
        (s.readMire p.addr.toNat (bits p.operand.toNat 15 0))) := by
  have hl : (s.readMire p.addr.toNat (bits p.operand.toNat 15 0)).length = bits p.operand.toNat 15 0 := getBytes_length ..
  refine ⟨_, ?_, (MireWork.read hr).replied hc (by decide)⟩
  show execMireRd p e burst landed s = _
  unfold execMireRd
  rw [(State.dieAccepts_iff.mp ha).1, if_neg (by decide), State.ejectDie_accepted ha, hr]
  dsimp only
  rw [hl]

theorem mireRd_refused (ha : s.dieAccepts d opMireRd p = true) (hc : s.dieCanReply d p = true)
    (hr : (s.takePkt p).mireReadBurst p.addr.toNat (bits p.operand.toNat 15 0) burst.toNat landed.toNat e = (none, t)) :
    Does (.mireRd p e burst landed) s (fun u => Frame [.net, .ports] t u ∧ Replied d p s u opRefuse 1 p.addr.toNat []) := by
  refine ⟨_, ?_, (MireWork.read hr).replied hc (by decide)⟩
  show execMireRd p e burst landed s = _
  unfold execMireRd
  rw [(State.dieAccepts_iff.mp ha).1, if_neg (by decide), State.ejectDie_accepted ha, hr]

theorem mireWr_stored (ha : s.dieAccepts d opMireWr p = true) (hc : s.dieCanReply d p = true)
    (hr : (s.takePkt p).mireServeWrite p.addr.toNat p.payload = (true, t)) :
    Does (.mireWr p) s (fun u => Frame [.net, .ports] t u ∧ Replied d p s u opMoveDone p.payload.length 0 []) := by
  refine ⟨_, ?_, (MireWork.write hr).replied hc (by decide)⟩
  show execMireWr p s = _
  unfold execMireWr
  rw [(State.dieAccepts_iff.mp ha).1, if_neg (by decide), State.ejectDie_accepted ha, hr]

theorem mireWr_refused (ha : s.dieAccepts d opMireWr p = true) (hc : s.dieCanReply d p = true)
    (hr : (s.takePkt p).mireServeWrite p.addr.toNat p.payload = (false, t)) :
    Does (.mireWr p) s (fun u => Frame [.net, .ports] t u ∧ Replied d p s u opRefuse 1 p.addr.toNat []) := by
  refine ⟨_, ?_, (MireWork.write hr).replied hc (by decide)⟩
  show execMireWr p s = _
  unfold execMireWr
  rw [(State.dieAccepts_iff.mp ha).1, if_neg (by decide), State.ejectDie_accepted ha, hr]
end

/-- The fields that a request may change where it changes no byte and no poison. -/
abbrev noByte : List Field := [.regs, .banks, .fns, .evWay, .out]

theorem mire_same {s t u : State} {p : Packet} (k : Kept noByte (s.takePkt p) t) (f : Frame [.net, .ports] t u) :
    u.mire = s.mire ∧ u.mireBad = s.mireBad :=
  ⟨(f .mire (by decide)).trans (k.frame .mire (by decide)), (f .mireBad (by decide)).trans (k.frame .mireBad (by decide))⟩

theorem Raised.replied {t u : State} {page b : Nat} (h : Raised t page b) (f : Frame [.net, .ports] t u) : Raised u page b :=
  h.outside (l := []) (RegsOutside.of_regs (f .regs (by decide))) List.not_mem_nil

/-- A request of another epoch: what its drop leaves. -/
theorem staleRequest_dropped (s : State) (p : Packet) (j : Nat) :
    let u := (s.takePkt p).bump (mirePage j) 6 1
    (u.mire = s.mire ∧ u.mireBad = s.mireBad) ∧ u.net = s.net ∧ u.arrivals = s.arrivals.erase p ∧
      RegsOutside [counter (mirePage j) 6] s u ∧ Counts s u (mirePage j) 6 1 :=
  ⟨⟨rfl, rfl⟩, rfl, rfl, RegsOutside.bump (s.takePkt p) (mirePage j) 6 1 (by decide), Counts.bump (s.takePkt p) (mirePage j) 6 1⟩

/-- Settles O29: what the controllers find, then the reply through the gateway, on which their work has no effect. -/
theorem mireRequests : Obligations.MireRequests := by
  intro d p e burst landed s hw hd hi a n reply same asked
  refine ⟨fun he hc => ⟨fun ha => ?_, fun ha => ?_⟩, fun hs he => ⟨fun ha => ?_, fun ha => ?_⟩⟩
  · have acc := State.dieAccepts_iff.mpr ⟨hw, ha, hd, hi, he⟩
    -- served, served with a correction, poisoned by its burst, refused
    refine ⟨fun hr hp => ⟨fun h => ?_, fun sy hq hb => ?_, fun hq hb => ?_⟩, fun h => ?_⟩
    · obtain ⟨u, hu, f, r⟩ := mireRd_served acc hc (State.mireReadBurst_clean (s := s.takePkt p) hr hp h)
      exact ⟨u, hu, mire_same ((State.countMire_kept ..).mono rfl) f, r⟩
    · obtain ⟨u, hu, f, r⟩ := mireRd_served acc hc (State.mireReadBurst_corrected (s := s.takePkt p) hr hp hq hb)
      exact ⟨u, hu, mire_same (((State.countMire_kept ..).mono rfl).trans ((State.mireEcc_kept ..).mono rfl)) f,
        (State.mireEcc_raised ..).replied f, r⟩
    · obtain ⟨u, hu, f, r⟩ := mireRd_refused acc hc (State.mireReadBurst_uncorrectable (s := s.takePkt p) hr hp hq hb)
      have k := State.mireEcc_kept { s.takePkt p with mireBad := Store.set false s.mireBad (burst.toNat / 256) true } burst.toNat 0 true false false
      exact ⟨u, hu, (f .mire (by decide)).trans (k.frame .mire (by decide)), (f .mireBad (by decide)).trans (k.frame .mireBad (by decide)),
        (State.mireEcc_raised ..).replied f, r⟩
    · obtain ⟨t, ht, k⟩ := State.mireReadBurst_refused (s := s.takePkt p) (burst := burst.toNat) (landed := landed.toNat) (e := e) h
      obtain ⟨u, hu, f, r⟩ := mireRd_refused acc hc ht
      exact ⟨u, hu, mire_same k f, r⟩
  · have acc := State.dieAccepts_iff.mpr ⟨hw, ha, hd, hi, he⟩
    refine ⟨fun hr => ?_, fun hr => ?_⟩
    · obtain ⟨u, hu, f, r⟩ := mireWr_stored acc hc (State.mireServeWrite_ready (s := s.takePkt p) hr)
      exact ⟨u, hu, (f .mire (by decide)).trans ((State.countMire_kept ..).frame .mire (by decide)), r⟩
    · obtain ⟨t, ht, k⟩ := State.mireServeWrite_refused (s := s.takePkt p) hr
      obtain ⟨u, hu, f, r⟩ := mireWr_refused acc hc ht
      exact ⟨u, hu, mire_same (k.mono rfl) f, r⟩
  · refine ⟨_, ?_, staleRequest_dropped s p _⟩
    show execMireRd p e burst landed s = _
    unfold execMireRd
    rw [hw, if_neg (by decide), State.ejectDie_stale hd hi ha (.inl rfl) hs he]
  · refine ⟨_, ?_, staleRequest_dropped s p _⟩
    show execMireWr p s = _
    unfold execMireWr
    rw [hw, if_neg (by decide), State.ejectDie_stale hd hi ha (.inr rfl) hs he]

end Sys2Proof.Machine
end
